-- ==== Sys2Proof/Word.lean ====
section
/-! DEFINITION. The word and byte types of the NL7218's control side (spec/00_scope.md, Words, bits and byte order). -/

namespace Sys2Proof

/-- The 18-bit word of the registers, the Keep, the ledger, the station tables and the word18 view (R15, R16). -/
abbrev Word := BitVec 18

/-- A host byte. -/
abbrev Byte := BitVec 8

end Sys2Proof
end

