-- ==== Sys2Proof/Machine/Operands.lean ====
section
/-! DEFINITION. The operand forms of the commands: descriptors (Table 7-1), data that arrives from a host, bit upsets of
array codewords, and the small name sets the commands carry. -/

namespace Sys2Proof
open Sys2Proof

/-- A PCIe host: index h stands for H(h+1) (R12). -/
abbrev PHost := Fin 4
/-- A ring's local index j (R170). -/
abbrev Ring := Fin 4
/-- A station S0 to S7. -/
abbrev StnId := Fin 8
/-- A sender ID of Table 0-6 (R13). -/
abbrev Sender := BitVec 4

/-- A descriptor's slots of Table 7-1 (R192), its OPCODE aside, which the command's own name gives. -/
structure Desc where
  tmo : BitVec 4 := 0#4
  tag : BitVec 16 := 0#16
  p0 : BitVec 32 := 0#32
  haddr : BitVec 64 := 0#64
  a0 : BitVec 32 := 0#32
  a1 : BitVec 32 := 0#32
  len : BitVec 32 := 0#32
  d0 : BitVec 64 := 0#64
  d1 : BitVec 64 := 0#64
  /-- Every reserved bit of the frame: 0x01[7:4], 0x1C-0x1F and 0x30-0x3F. -/
  rsv : BitVec 164 := 0#164
  deriving DecidableEq, Repr

/-- Data a host read returns: its bytes in address order, whether the TLP was poisoned, and whether the read ended in
Unsupported Request or, `abort`, in Completer Abort after them (R82, R189, R396). -/
structure HostData where
  bytes : List Byte := []
  poison : Bool := false
  fail : Bool := false
  abort : Bool := false
  deriving DecidableEq, Repr

/-- A bit upset that an array codeword has suffered: the codeword (byte address bits [30:3]) and whether two bits are
in error, beyond correction (R79). -/
structure Upset where
  codeword : Nat
  double : Bool
  deriving DecidableEq, Repr

/-- The scratchpad words that staging a descriptor's data writes through the DMA ports, and those that cores write in the same
cycles, each at bits [17:16] the firmware cluster and [15:0] the word (R94); where a buffer lies is the firmware's choice. With a
ledger opcode, the upsets that the ledger's codewords have suffered (R79). -/
structure PadTraffic where
  dma : List (BitVec 18 × BitVec 64) := []
  core : List (BitVec 18 × BitVec 64) := []
  ups : List Upset := []
  deriving DecidableEq, Repr

/-- How a read that the device issued to a host fails (R161, R167, R189); `lost`: an uncorrectable error in the ring engine's own
buffers discarded the TLP, and the request times out. -/
inductive ReadFail where
  | unsupported | completerAbort | poisoned | timeout | lost
  deriving DecidableEq, Repr

/-- Where a request goes: to a register by its number, as the M-port, the firmware and Sweeper reach it; to BAR0 at a byte offset; to
no BAR; or to the configuration space by dword number (R18, R162 to R165). -/
inductive RegPlace where
  | reg (addr : BitVec 12)
  | bar (offset : BitVec 15)
  | noBar
  | cfg (dword : BitVec 10)
  deriving DecidableEq, Repr

/-- The word a mailbox write brings, and the words that other senders write to the same queue in the same C-domain cycle (R320). -/
structure MbWrite where
  word : Word
  others : List (Sender × Word) := []
  deriving DecidableEq, Repr

/-- The end a mailbox pop reads, and the words that senders write to the same queue in the same C-domain cycle (R320). -/
structure MbRead where
  towardB : Bool
  writes : List (Sender × Word) := []
  deriving DecidableEq, Repr

/-- What a request asks: a write of one register's 18 bits; a host's write of `dwords` dwords with its first dword and its byte
enables; or a host's read of `dwords` dwords. -/
inductive RegRequest where
  | word (value : Word)
  | write (dwords : Nat) (enables : BitVec 4) (value : BitVec 32)
  | read (dwords : Nat)
  deriving DecidableEq, Repr

/-- The opcodes of Table 7-2 (R193). -/
inductive Opcode where
  | nop | write | read | copy | fill | move | word18Write | word18Read | rasterPost | tableLoad | tableSwap
  | ledgerOpen | ledgerStage | ledgerQuery | counterRead | keepRead | keepWrite | recordPut | recordGet
  | rtcRead | rtcSet | checkpoint | abort | bad
  deriving DecidableEq, Repr

/-- The instructions of the two TAPs (Table 14-6, R346). -/
inductive TapInstr where
  | extest | samplePreload | clamp | highz | extestPulse | extestTrain | bypass
  deriving DecidableEq, Repr

/-- What happens on a TAP (R346): an instruction is shifted in and takes effect; a data-register scan, which captures the
levels found at the balls that the device does not drive, by cell, and shifts `shift` in; Test-Logic-Reset, by five rising TCK
edges with TMS high or, on the separate TAP, by TRST_N. -/
inductive TapOp where
  | load (code : BitVec 4)
  | scan (levels : Nat) (shift : List Bool)
  | testReset
  deriving DecidableEq, Repr

/-- How an M-port frame begins: the ns from the 40th edge of the frame before to its first edge (R343), and STATE and BUSY as
they stood when MSS_N fell, where they changed before the frame's effect (R340, R348). -/
structure FrameStart where
  gap : Nat := 0
  fell : Option (BitVec 3 × Bool) := none
  deriving DecidableEq, Repr

/-- What happens in Sweeper's test of an emitter (R354): the frame that writes EMIT_TEST starts, and ends; 100 µs later the frame that
reads EMIT_RES starts, and ends with a value. -/
inductive EmitStep where
  | write | wrote | read
  | result (value : BitVec 16)
  deriving DecidableEq, Repr

/-- The tests of Table 15-1 with the unit tested. -/
inductive SwpTest where
  | march (region : Fin 64) (cluster : Fin 9) (window : BitVec 11)
  | scratch (fw : Fin 4) (window : BitVec 8)
  | shadow (region : Fin 64) (cluster : Fin 9) (tile : Fin 16) (planeB : Bool)
  | keepMargin (word : BitVec 15)
  | pcieEye (h : PHost) (lane : Fin 8)
  | ecposiaEye (n : StnId) (lane : Fin 8)
  | comparator (c : Fin 12)
  | crystal (count : Nat)
  | emitters (n : StnId)
  deriving DecidableEq, Repr

end Sys2Proof
end

