-- ==== Sys2Proof/Syntax.lean ====
section
/-! DEFINITION. The commands: one constructor per row of spec/opcode_table.json, in the table's order, with the operands
that each step takes from outside (an index, a measured value, a descriptor, a register's write data and its sender). -/

namespace Sys2Proof

/-- A command of the NL7218: an operation or event of spec/opcode_table.json. An operand with a default is one that the event leaves at
it in its plain form. -/
inductive Instr where
  -- power, wake and Return
  | vstbyGood
  | vstbyLost
  | wakeStart
  | darkToWaking
  | reload (from_ : Sender)
  | scriptDelayDone
  | waitPgDone
  | waitPgTimeout (above : Bool)
  | shutdownDrop
  | cPllLock
  | pllLockTimeout
  | sealReadDone
  | restoreWaveDone
  | clearingDone
  | counterRecovery
  | firmwareBooted (cores : BitVec 16 := 0xFFFF#16)
  | bootTimeout
  | openSheetRebuild
  -- resets, straps, power requests
  | resetNLow
  | resetNHigh
  | strapSample (mp : BitVec 8)
  | strapPhaseEnd
  | pwrokFall
  | pwrokRise
  | warmReset (from_ : Sender) (key : BitVec 12)
  | powerDownRequest (from_ : Sender)
  | wake (from_ : Sender)
  | drainImagingLimit
  | drainStoreStart
  -- clocks
  | clockLoss
  | refclkLoss (port : Fin 2)
  | sPllUnlock
  | sPllRelock
  | crystalStop
  | crystalRestart
  -- supervision
  | channelOut (c : Fin 12) (high : Bool) (also : List (Fin 12 × Bool) := [])
  | channelIn (c : Fin 12)
  | firstFailSpill
  | freeChannelArm (c : Fin 12)
  | volleyWarn (below : Bool)
  | vholdSample (code : BitVec 10)
  -- stores
  | volleyWaveStart (vhold : BitVec 10)
  | storeSealStart
  | storeSealComplete (vhold : BitVec 10)
  | vholdFloor (elapsed : Nat)
  | progressCodeStep
  | ckpt (from_ : Sender)
  | checkpointStart
  | checkpointWaveStart
  -- rings and links
  | doorbellPoll (h : PHost) (idle : Nat)
  | pollDataArrival (h : PHost) (block : BitVec 512)
  | pollError (h : PHost) (why : ReadFail := .timeout)
  | pollFailTimeout (h : PHost)
  | fetchError (h : PHost) (j : Ring) (why : ReadFail := .timeout)
  | hostDataArrival (h : PHost) (j : Ring) (tag : BitVec 16) (data : HostData) (ups : List Upset) (pads : PadTraffic := {})
  | hostReadTimeout (h : PHost) (j : Ring) (tag : BitVec 16) (lost : Bool := false)
  | cqTimeExpiry (h : PHost) (j : Ring)
  | msixUnmask (h : PHost) (vec : BitVec 5)
  | sqEnable (from_ : Sender) (h : PHost) (j : Ring) (value : Word)
  | sqDisable (from_ : Sender) (h : PHost) (j : Ring) (value : Word)
  | cqEnable (from_ : Sender) (h : PHost) (j : Ring) (value : Word)
  | cqDisable (from_ : Sender) (h : PHost) (j : Ring) (value : Word)
  | replayWrite (h : PHost)
  | cutDiscard (from_ : Sender) (h : PHost)
  | retrain (from_ : Sender) (h : PHost)
  | laneBad (h : PHost) (lane : Fin 8) (speed : BitVec 3) (errors : Option Nat := none)
  | linkRetrained (h : PHost) (speed : BitVec 3 := 7#3)
  | linkDown (h : PHost)
  | linkUp (h : PHost) (speed : BitVec 3) (width : BitVec 4)
  | perstLow (h : PHost)
  | perstHigh (h : PHost)
  | flr (h : PHost)
  | d3hotEntry (h : PHost)
  | d0Entry (h : PHost)
  | aspmL1Entry (h : PHost)
  -- descriptors
  | nop (h : PHost) (j : Ring) (d : Desc)
  | write (h : PHost) (j : Ring) (d : Desc) (data : HostData) (ups : List Upset)
  | read (h : PHost) (j : Ring) (d : Desc) (ups : List Upset)
  | correctedRewrite (codeword : BitVec 28)
  | copy (h : PHost) (j : Ring) (d : Desc) (ups : List Upset)
  | fill (h : PHost) (j : Ring) (d : Desc) (ups : List Upset)
  | move (h : PHost) (j : Ring) (d : Desc)
  | moveForward (n : Fin 8) (ups : List Upset)
  | moveTimeout (n : Fin 8)
  | forwardEnd (from_ : Sender) (n : Fin 8)
  | word18Write (h : PHost) (j : Ring) (d : Desc) (data : HostData) (ups : List Upset)
  | word18Read (h : PHost) (j : Ring) (d : Desc) (ups : List Upset)
  | rasterPost (h : PHost) (j : Ring) (d : Desc) (data : HostData)
  | sheetJoinQueue (n : StnId)
  | rasterPostPublish (h : PHost) (j : Ring) (tag : BitVec 16)
  | tableLoad (h : PHost) (j : Ring) (d : Desc) (data : HostData) (pads : PadTraffic := {})
  | tableSwap (h : PHost) (j : Ring) (d : Desc)
  | tableSwapReady (h : PHost) (j : Ring) (tag : BitVec 16) (t : Nat)
  | ledgerOpen (h : PHost) (j : Ring) (d : Desc) (pads : PadTraffic := {})
  | ledgerStage (h : PHost) (j : Ring) (d : Desc) (pads : PadTraffic := {})
  | ledgerQuery (h : PHost) (j : Ring) (d : Desc) (pads : PadTraffic := {})
  | counterRead (h : PHost) (j : Ring) (d : Desc) (pads : PadTraffic := {})
  | keepRead (h : PHost) (j : Ring) (d : Desc) (pads : PadTraffic := {})
  | keepWrite (h : PHost) (j : Ring) (d : Desc) (data : HostData) (pads : PadTraffic := {})
  | recordPut (h : PHost) (j : Ring) (d : Desc) (data : HostData) (pads : PadTraffic := {})
  | recordGet (h : PHost) (j : Ring) (d : Desc) (pads : PadTraffic := {})
  | rtcRead (h : PHost) (j : Ring) (d : Desc)
  | rtcSet (h : PHost) (j : Ring) (d : Desc)
  | checkpoint (h : PHost) (j : Ring) (d : Desc)
  | abort (h : PHost) (j : Ring) (d : Desc)
  | badOpcode (h : PHost) (j : Ring) (opcode : Byte) (d : Desc)
  | waitLimitExpiry (h : PHost) (j : Ring) (tag : BitVec 16)
  -- the array
  | partAttr (from_ : Sender) (p : Fin 63) (value : Word)
  | partRegion (from_ : Sender) (r : Fin 64) (value : Word)
  | regionClearDone (r : Fin 64)
  | clusterSlow (r : Fin 64) (cluster : Fin 8)
  | eccLimit (r : Fin 64) (cluster : Fin 8)
  | liveCopyDone (r : Fin 64) (ups : List Upset)
  | region63RelocDone (ups : List Upset)
  -- stations
  | arm (from_ : Sender) (n : StnId)
  | disarm (from_ : Sender) (n : StnId)
  | noSos (n : StnId)
  | sxsPulse (n : StnId) (t : Nat) (width : Nat) (high : Bool := true) (leave : Nat := 0)
  | eosWindowOpen (n : StnId)
  | eosWindowEnd (n : StnId)
  | armingWindowOpen (n : StnId)
  | stall (n : StnId)
  | facetEnd (n : StnId)
  | lineFetch (n : StnId) (ups : List Upset)
  | amBoundary (n : StnId)
  | temp (n : StnId) (cnt : BitVec 2) (level : BitVec 2)
  | cutoffBlank (n : StnId) (first : Nat := 0)
  | dead (n : StnId) (cnt : BitVec 2) (emitter : BitVec 7)
  | lane (n : StnId) (cnt : BitVec 2) (lane : BitVec 3) (amc : BitVec 5)
  | late (n : StnId) (cnt : BitVec 2) (fseq : Byte)
  | fault (n : StnId) (cnt : BitVec 2) (code : Byte)
  | sbErr (n : StnId)
  | sbLost (n : StnId)
  | go (from_ : Sender) (n : StnId) (value : Word)
  | setupFrameDone (n : StnId) (ack : Bool) (parityOk : Bool) (data : BitVec 16)
  | train (from_ : Sender) (n : StnId)
  | trainingStepDone (n : StnId) (reply : List (BitVec 16))
  | encoderCount (enc : Fin 2) (ba : BitVec 2) (close : Bool)
  | encoderLos (enc : Fin 2)
  | encCountLatch (from_ : Sender) (n : StnId)
  | revert (from_ : Sender) (n : StnId) (mask : BitVec 5)
  | copyingDone (n : StnId) (table : Fin 5)
  | fnAdj (from_ : Sender) (n : StnId) (value : Word)
  -- ledger pulses and counters
  | stagePulse (pin : Fin 3)
  | jamPulse
  | stageTimeout (queue : Fin 3) (index : BitVec 20)
  | counterCopyStart
  | ledCntSel (from_ : Sender) (value : Word)
  -- the Keep
  | pageWriteStart
  | pageWritePhase
  | pageWriteDone (bad : List (BitVec 15))
  | keepRdata (from_ : Sender)
  | keepWdata (from_ : Sender) (value : Word)
  | keepCmdWrite (from_ : Sender)
  | clear (from_ : Sender)
  | flush (from_ : Sender)
  | bpUpdate (from_ : Sender) (bp : BitVec 2)
  | keepHot (from_ : Sender) (value : Word)
  | hotRangeSwitch
  -- mailboxes and possession
  | mailboxWrite (from_ : Sender) (c : Fin 8) (towardB : Bool) (value : MbWrite)
  | mailboxPop (from_ : Sender) (c : Fin 8) (towardB : MbRead)
  | possRead (from_ : Sender) (k : Fin 32)
  | possRelease (from_ : Sender) (k : Fin 32) (value : Word)
  | possForce (from_ : Sender) (high : Bool) (value : Word)
  -- clock
  | rtcTick
  | trimWindow
  | alarmWrite (from_ : Sender) (k : Fin 2) (word : Fin 3) (value : Word)
  | alarmComputeDone (k : Fin 2)
  | registerSet (from_ : Sender)
  | timeBlockRead (from_ : Sender) (word : Fin 6)
  | shadowRelease (from_ : Sender)
  | retentionFail
  | cellAttach
  | vbatReturn
  -- management port and TAPs
  | mportNop (start : FrameStart) (addr : BitVec 12 := 0#12)
  | mportWrite (start : FrameStart) (addr : BitVec 12) (data : Word)
  | mportRead (start : FrameStart) (addr : BitVec 12)
  | frameRefused (start : FrameStart) (opcode : Byte) (addr : BitVec 14)
  | shortFrame (edges : Nat)
  | tapInstruction (umber : Bool) (op : TapOp)
  -- upkeep
  | sweeperCycleStart
  | runNow (from_ : Sender)
  | sweeperTestStep (test : SwpTest) (failed : Bool) (detail : Word)
  | windowRedirect
  | windowYield
  | emitterTestResult (n : StnId) (emitter : BitVec 7) (res : EmitStep)
  | swpLogSel (from_ : Sender) (value : Word)
  | load (from_ : Sender)
  | loadDone
  | activate (from_ : Sender)
  | activationStep (ok : Bool)
  | erase (from_ : Sender) (slot : Bool)
  | fwToken (from_ : Sender) (value : Word)
  | lcApply (from_ : Sender)
  | lcWipeStep (cores : BitVec 16 := 0xFFFF#16)
  | coreWatchdog (core : Fin 16)
  -- registers and the late rows of the table
  | registerWrite (from_ : Sender) (addr : RegPlace) (value : RegRequest)
  | functionReady (h : PHost)
  | losClear (enc : Fin 2)
  | chargerFull (full : Bool)
  deriving DecidableEq, Repr

end Sys2Proof
end

