-- ==== Sys2Proof/Decode.lean ====
section
/-! DEFINITION. The table's words: spec/opcode_table.json gives none of its 200 rows any bits. -/

namespace Sys2Proof

/-- The command that a word spells by the table's bits: no row has bits (every row's field list is empty), so none. -/
def decodeTableWord (_nbits _w : Nat) : Option Instr := none

end Sys2Proof
end

