-- ==== Sys2Proof/Machine/Bits.lean ====
section
/-! DEFINITION. Bit fields, signed fields, rounding and the CRC-32C that the spec's rules share. -/

namespace Sys2Proof.Machine
open Sys2Proof

/-- Bits [hi:lo] of a number (R15). -/
def bits (x hi lo : Nat) : Nat := x / 2 ^ lo % 2 ^ (hi + 1 - lo)

/-- Whether bit i is 1. -/
def bit (x i : Nat) : Bool := decide (x / 2 ^ i % 2 = 1)

/-- 1 for true. -/
def b2n (b : Bool) : Nat := if b then 1 else 0

/-- Put v into bits [hi:lo] of a word, leaving every other bit. -/
def putBits (w : Word) (hi lo v : Nat) : Word :=
  let mask : Word := BitVec.ofNat 18 ((2 ^ (hi + 1 - lo) - 1) * 2 ^ lo)
  (w &&& ~~~mask) ||| (BitVec.ofNat 18 (v * 2 ^ lo) &&& mask)

/-- Two's complement value of an n-bit field. -/
def signed (n x : Nat) : Int := if x % 2 ^ n < 2 ^ (n - 1) then (x % 2 ^ n : Nat) else (x % 2 ^ n : Nat) - (2 ^ n : Nat)

/-- The n-bit two's complement field of an integer. -/
def unsigned (n : Nat) (x : Int) : Nat := (x % (2 ^ n : Nat)).toNat

/-- Clamp an integer. -/
def clampI (lo hi x : Int) : Int := max lo (min hi x)

/-- a / b rounded up. -/
def ceilDiv (a b : Nat) : Nat := (a + (b - 1)) / b

/-- The integer square root by bits, from bit `fuel` down. -/
def isqrtGo (x : Nat) : Nat → Nat → Nat
  | 0, r => r
  | f + 1, r => let c := r + 2 ^ f; if c * c ≤ x then isqrtGo x f c else isqrtGo x f r

/-- The floor of the square root of x, for x below 2^80. -/
def isqrt (x : Nat) : Nat := isqrtGo x 40 0

/-- The ceiling of the square root. -/
def isqrtUp (x : Nat) : Nat := let r := isqrt x; if r * r = x then r else r + 1

/-- Number of 1 bits among bits [n-1:0]. -/
def popcount : Nat → Nat → Nat
  | 0, _ => 0
  | n + 1, x => x % 2 + popcount n (x / 2)

/-- One bit of the reflected CRC-32C (Castagnoli 0x1EDC6F41, reflected 0x82F63B78; R110). -/
def crcBit (c : BitVec 32) : BitVec 32 :=
  if c.getLsbD 0 then (c >>> 1) ^^^ 0x82F63B78#32 else c >>> 1

/-- One byte of the CRC-32C. -/
def crcByte (c : BitVec 32) (b : Byte) : BitVec 32 :=
  let x := c ^^^ (b.setWidth 32)
  crcBit (crcBit (crcBit (crcBit (crcBit (crcBit (crcBit (crcBit x)))))))

/-- CRC-32C: initial value and final XOR 0xFFFFFFFF (R110). -/
def crc32c (bs : List Byte) : BitVec 32 := (bs.foldl crcByte 0xFFFFFFFF#32) ^^^ 0xFFFFFFFF#32

/-- The byte k of a number, least significant first (R17). -/
def byteOf (x k : Nat) : Byte := BitVec.ofNat 8 (x / 2 ^ (8 * k))

/-- n little-endian bytes of a number (R17). -/
def leBytes (x n : Nat) : List Byte := (List.range n).map (byteOf x)

/-- The number a little-endian byte list stands for (R17). -/
def leNat : List Byte → Nat
  | [] => 0
  | b :: bs => b.toNat + 256 * leNat bs

end Sys2Proof.Machine
end

