-- ==== Sys2Proof/Machine/Map.lean ====
section
/-! DEFINITION. Sparse storage: a list of (key, value) pairs in one canonical form (keys strictly rising, no entry equal
to what an unlisted key reads as), used for the register file, the array, the Keep and the indexed units. -/

namespace Sys2Proof.Machine

/-- Sparse storage by number. -/
abbrev Map (V : Type) := List (Nat × V)

/-- The value at a key; what an unlisted key reads as is `d`. -/
def Map.get {V : Type} (d : Nat → V) : Map V → Nat → V
  | [], k => d k
  | (k', v) :: m, k => if k = k' then v else Map.get d m k

/-- Insert before the first larger key. -/
def Map.insertSorted {V : Type} (k : Nat) (v : V) : Map V → Map V
  | [] => [(k, v)]
  | (k', v') :: m => if k < k' then (k, v) :: (k', v') :: m else (k', v') :: Map.insertSorted k v m

/-- Drop a key. -/
def Map.erase {V : Type} (m : Map V) (k : Nat) : Map V :=
  m.filter (fun e => decide (e.1 ≠ k))

/-- Write a key; writing what an unlisted key reads as removes the entry. -/
def Map.set {V : Type} [DecidableEq V] (d : Nat → V) (m : Map V) (k : Nat) (v : V) : Map V :=
  if v = d k then Map.erase m k else Map.insertSorted k v (Map.erase m k)

/-- Keys strictly rising. -/
def Map.sorted {V : Type} : Map V → Bool
  | [] => true
  | [_] => true
  | (k, _) :: (k', v') :: m => decide (k < k') && Map.sorted ((k', v') :: m)

/-- The canonical form. -/
def Map.wf {V : Type} [DecidableEq V] (d : Nat → V) (m : Map V) : Bool :=
  Map.sorted m && m.all (fun e => decide (e.2 ≠ d e.1))

/-- Keep the entries whose key satisfies a test. -/
def Map.keep {V : Type} (m : Map V) (p : Nat → Bool) : Map V :=
  m.filter (fun e => p e.1)

/-- Write every pair of `es` in turn. -/
def Map.setAll {V : Type} [DecidableEq V] (d : Nat → V) (m : Map V) (es : List (Nat × V)) : Map V :=
  es.foldl (fun acc e => Map.set d acc e.1 e.2) m

end Sys2Proof.Machine
end

