-- ==== Sys2Proof/Config.lean ====
section
/-! DEFINITION. What the spec leaves open or keeps to itself: free values, opaque constants that no proof can see
through (log entries 7 to 10), and the public keys the spec names without giving them. -/

namespace Sys2Proof.Config
open Sys2Proof

/-- A free 18-bit value: the n-th value the hardware produces where the spec gives none (log entry 7). -/
opaque freeWord : Nat → Word

/-- A free yes or no: the n-th choice the spec leaves to the hardware (log entry 7). -/
opaque freeBit : Nat → Bool

/-- The data of a vendor-area Keep word as it leaves the factory (R288, R291; log entry 8). -/
opaque vendorWord : Nat → BitVec 16

/-- What VOL_START_V shows when V_ready exceeds its ten bits (R122, R136; log entry 9). -/
opaque startVOverflow : Nat → BitVec 10

/-- Whether signature (r, s) over the SHA-256 digest verifies, ECDSA P-256, against the Tegikar firmware public key
held in hub-die ROM, which the spec does not give (R360; log entry 10). -/
opaque firmwareSigOk : BitVec 256 → BitVec 256 → BitVec 256 → Bool

/-- The same against the life-cycle public key (R371; log entry 10). -/
opaque tokenSigOk : BitVec 256 → BitVec 256 → BitVec 256 → Bool

/-- COMPAT, VERSION and FLOOR of the golden image in hub-die ROM, which the spec does not give (R362, R363; log entry 10). -/
opaque goldenCompat : BitVec 16
opaque goldenVersion : BitVec 32

/-- Whether an interrupt message falls due within 1 µs of the one before it of its vector, and merges with it (R183): host, messages of
the function that have merged, and what has left the device before (log entry 39). -/
opaque messageMerges : Nat → Nat → Nat → Bool

/-- The header of the n-th TLP that a host's function logs (R167; log entry 101). -/
opaque tlpHeader : Nat → Nat → BitVec 128

end Sys2Proof.Config
end

