-- ==== Sys2Proof/Machine/Registers.lean ====
section
/-! DEFINITION. The register map of the NL7218: every register field the register tables of spec/ give, under the
manual's own names, with its access code (R19, Table 0-7) and its reset value. A field is named REGISTER_FIELD; a
register alone is its bits [17:0]. Indices: n station 0-7, h PCIe host index 0-3 (host H(h+1)), but 0-4 (host Hh) in
MB_EVENT and MB_EVENT_EN; j ring 0-3; k window or alarm or word; c channel; r region; p partition. -/

namespace Sys2Proof.Machine
open Sys2Proof

/-- A register field: address, high bit, low bit (R15). -/
structure Fld where
  addr : Nat
  hi : Nat
  lo : Nat
  deriving DecidableEq, Repr

/-- The access codes of Table 0-7 (R19). -/
inductive Access where
  | ro | rw | w1c | wo | rwl
  deriving DecidableEq, Repr

/-- One row of a register table: the bits, the access code and the value after reset. -/
structure FieldSpec where
  hi : Nat
  lo : Nat
  acc : Access
  reset : Nat
  deriving DecidableEq, Repr

namespace Reg

/-- PART_REGION_r, 0x440 + r (r = 0 to 63) (R89). -/
def PART_REGION (r : Nat) : Fld := ⟨0x440 + r, 17, 0⟩
def PART_REGION_STATE (r : Nat) : Fld := ⟨0x440 + r, 17, 15⟩
def PART_REGION_SPARED (r : Nat) : Fld := ⟨0x440 + r, 14, 14⟩
def PART_REGION_SPARE_BAD (r : Nat) : Fld := ⟨0x440 + r, 13, 13⟩
def PART_REGION_SPARED_FOR (r : Nat) : Fld := ⟨0x440 + r, 12, 10⟩
def PART_REGION_PARTITION (r : Nat) : Fld := ⟨0x440 + r, 5, 0⟩
/-- PART_ATTR_p, 0x480 + p (p = 0 to 62) (R89). -/
def PART_ATTR (p : Nat) : Fld := ⟨0x480 + p, 17, 0⟩
def PART_ATTR_VALID (p : Nat) : Fld := ⟨0x480 + p, 17, 17⟩
def PART_ATTR_PERSIST (p : Nat) : Fld := ⟨0x480 + p, 16, 16⟩
def PART_ATTR_INDEP (p : Nat) : Fld := ⟨0x480 + p, 15, 15⟩
def PART_ATTR_FEED (p : Nat) : Fld := ⟨0x480 + p, 14, 14⟩
def PART_ATTR_VIEW (p : Nat) : Fld := ⟨0x480 + p, 13, 13⟩
def PART_ATTR_OWNER (p : Nat) : Fld := ⟨0x480 + p, 2, 0⟩
/-- PART_RIGHTS_p, 0x4C0 + p (p = 0 to 62) (R89). -/
def PART_RIGHTS (p : Nat) : Fld := ⟨0x4C0 + p, 17, 0⟩
def PART_RIGHTS_H4 (p : Nat) : Fld := ⟨0x4C0 + p, 9, 8⟩
def PART_RIGHTS_H3 (p : Nat) : Fld := ⟨0x4C0 + p, 7, 6⟩
def PART_RIGHTS_H2 (p : Nat) : Fld := ⟨0x4C0 + p, 5, 4⟩
def PART_RIGHTS_H1 (p : Nat) : Fld := ⟨0x4C0 + p, 3, 2⟩
def PART_RIGHTS_H0 (p : Nat) : Fld := ⟨0x4C0 + p, 1, 0⟩
/-- ARR_ADMIN, 0x400 (R89). -/
def ARR_ADMIN : Fld := ⟨0x400, 17, 0⟩
def ARR_ADMIN_ADMIN : Fld := ⟨0x400, 3, 0⟩
/-- ARR_CAPACITY, 0x401 (R106). -/
def ARR_CAPACITY : Fld := ⟨0x401, 17, 0⟩
def ARR_CAPACITY_FREE : Fld := ⟨0x401, 13, 7⟩
def ARR_CAPACITY_USABLE : Fld := ⟨0x401, 6, 0⟩
/-- ARR_ECC_CTL, 0x402 (R106). -/
def ARR_ECC_CTL : Fld := ⟨0x402, 17, 0⟩
def ARR_ECC_CTL_CE_LIMIT : Fld := ⟨0x402, 11, 0⟩
/-- ARR_EVENT, 0x403 (R106). -/
def ARR_EVENT : Fld := ⟨0x403, 17, 0⟩
def ARR_EVENT_SLOT_REFUSED : Fld := ⟨0x403, 7, 7⟩
def ARR_EVENT_REGION63_RELOC : Fld := ⟨0x403, 6, 6⟩
def ARR_EVENT_MOVE_DONE : Fld := ⟨0x403, 5, 5⟩
def ARR_EVENT_WRITE_LOST : Fld := ⟨0x403, 4, 4⟩
def ARR_EVENT_UNCORR : Fld := ⟨0x403, 3, 3⟩
def ARR_EVENT_RETIRED : Fld := ⟨0x403, 2, 2⟩
def ARR_EVENT_RETIRING : Fld := ⟨0x403, 1, 1⟩
def ARR_EVENT_SPARE_IN : Fld := ⟨0x403, 0, 0⟩
/-- ARR_EVENT_EN, 0x404 (R106). -/
def ARR_EVENT_EN : Fld := ⟨0x404, 17, 0⟩
def ARR_EVENT_EN_EN : Fld := ⟨0x404, 7, 0⟩
/-- ARR_LAST, 0x405 (R106). -/
def ARR_LAST : Fld := ⟨0x405, 17, 0⟩
def ARR_LAST_CAUSE : Fld := ⟨0x405, 13, 10⟩
def ARR_LAST_CLUSTER : Fld := ⟨0x405, 9, 6⟩
def ARR_LAST_REGION : Fld := ⟨0x405, 5, 0⟩
/-- ARR_UNCORR_LO, 0x406 (R106). -/
def ARR_UNCORR_LO : Fld := ⟨0x406, 17, 0⟩
def ARR_UNCORR_LO_INDEX_LO : Fld := ⟨0x406, 17, 0⟩
/-- ARR_UNCORR_HI, 0x407 (R106). -/
def ARR_UNCORR_HI : Fld := ⟨0x407, 17, 0⟩
def ARR_UNCORR_HI_INDEX_HI : Fld := ⟨0x407, 9, 0⟩
/-- ARR_SLOTS, 0x408 (R106). -/
def ARR_SLOTS : Fld := ⟨0x408, 17, 0⟩
def ARR_SLOTS_LIMIT : Fld := ⟨0x408, 11, 6⟩
def ARR_SLOTS_PEAK : Fld := ⟨0x408, 5, 0⟩
/-- ARR_MOVE_n, 0x410 + n (n = 0 to 7) (R106). -/
def ARR_MOVE (n : Nat) : Fld := ⟨0x410 + n, 17, 0⟩
def ARR_MOVE_END (n : Nat) : Fld := ⟨0x410 + n, 17, 17⟩
def ARR_MOVE_PHASE (n : Nat) : Fld := ⟨0x410 + n, 16, 15⟩
def ARR_MOVE_OWNER (n : Nat) : Fld := ⟨0x410 + n, 14, 12⟩
def ARR_MOVE_DST (n : Nat) : Fld := ⟨0x410 + n, 11, 6⟩
def ARR_MOVE_SRC (n : Nat) : Fld := ⟨0x410 + n, 5, 0⟩
/-- VOL_CTL, 0x600 (R136). -/
def VOL_CTL : Fld := ⟨0x600, 17, 0⟩
def VOL_CTL_CKPT : Fld := ⟨0x600, 1, 1⟩
def VOL_CTL_SHORT_FAULT : Fld := ⟨0x600, 0, 0⟩
/-- VOL_HOLD, 0x601 (R136). -/
def VOL_HOLD : Fld := ⟨0x601, 17, 0⟩
def VOL_HOLD_HOLD_CAP : Fld := ⟨0x601, 13, 0⟩
/-- VOL_STATUS, 0x602 (R136). -/
def VOL_STATUS : Fld := ⟨0x602, 17, 0⟩
def VOL_STATUS_ACTIVE : Fld := ⟨0x602, 17, 17⟩
def VOL_STATUS_KIND : Fld := ⟨0x602, 16, 13⟩
def VOL_STATUS_WAVE : Fld := ⟨0x602, 12, 9⟩
def VOL_STATUS_PENDING : Fld := ⟨0x602, 8, 8⟩
def VOL_STATUS_READY : Fld := ⟨0x602, 7, 7⟩
def VOL_STATUS_N : Fld := ⟨0x602, 6, 0⟩
/-- VOL_BUDGET, 0x603 (R136). -/
def VOL_BUDGET : Fld := ⟨0x603, 17, 0⟩
def VOL_BUDGET_SHORT : Fld := ⟨0x603, 17, 17⟩
def VOL_BUDGET_CMIN : Fld := ⟨0x603, 16, 7⟩
/-- VOL_VHOLD, 0x604 (R136). -/
def VOL_VHOLD : Fld := ⟨0x604, 17, 0⟩
def VOL_VHOLD_VHOLD : Fld := ⟨0x604, 9, 0⟩
/-- VOL_START_V, 0x605 (R136). -/
def VOL_START_V : Fld := ⟨0x605, 17, 0⟩
def VOL_START_V_V_READY : Fld := ⟨0x605, 9, 0⟩
/-- VOL_LAST, 0x608 (R136). -/
def VOL_LAST : Fld := ⟨0x608, 17, 0⟩
def VOL_LAST_CAUSE : Fld := ⟨0x608, 17, 14⟩
def VOL_LAST_RESULT : Fld := ⟨0x608, 13, 12⟩
def VOL_LAST_WAVES : Fld := ⟨0x608, 11, 8⟩
def VOL_LAST_CHANNEL : Fld := ⟨0x608, 7, 4⟩
def VOL_LAST_VIN_BACK : Fld := ⟨0x608, 3, 3⟩
def VOL_LAST_RESET_SEEN : Fld := ⟨0x608, 2, 2⟩
/-- VOL_LAST_VHOLD, 0x609 (R136). -/
def VOL_LAST_VHOLD : Fld := ⟨0x609, 17, 0⟩
def VOL_LAST_VHOLD_VHOLD_END : Fld := ⟨0x609, 9, 0⟩
/-- VOL_LAST_TIME, 0x60A (R136). -/
def VOL_LAST_TIME : Fld := ⟨0x60A, 17, 0⟩
def VOL_LAST_TIME_DURATION : Fld := ⟨0x60A, 17, 0⟩
/-- VOL_NEXT_LO, 0x610 (R136). -/
def VOL_NEXT_LO : Fld := ⟨0x610, 17, 0⟩
def VOL_NEXT_LO_NEXT_LO : Fld := ⟨0x610, 17, 0⟩
/-- VOL_NEXT_HI, 0x611 (R136). -/
def VOL_NEXT_HI : Fld := ⟨0x611, 17, 0⟩
def VOL_NEXT_HI_NEXT_HI : Fld := ⟨0x611, 17, 0⟩
/-- VOL_ATOMIC_LO, 0x612 (R136). -/
def VOL_ATOMIC_LO : Fld := ⟨0x612, 17, 0⟩
def VOL_ATOMIC_LO_ATOMIC_LO : Fld := ⟨0x612, 17, 0⟩
/-- VOL_ATOMIC_HI, 0x613 (R136). -/
def VOL_ATOMIC_HI : Fld := ⟨0x613, 17, 0⟩
def VOL_ATOMIC_HI_ATOMIC_HI : Fld := ⟨0x613, 17, 0⟩
/-- VOL_RETURN, 0x614 (R136). -/
def VOL_RETURN : Fld := ⟨0x614, 17, 0⟩
def VOL_RETURN_NO_ATOMIC : Fld := ⟨0x614, 17, 17⟩
def VOL_RETURN_TORN : Fld := ⟨0x614, 16, 16⟩
def VOL_RETURN_KEEP_RAISED : Fld := ⟨0x614, 15, 15⟩
def VOL_RETURN_NO_EPOCH : Fld := ⟨0x614, 14, 14⟩
def VOL_RETURN_RESTORED : Fld := ⟨0x614, 13, 7⟩
def VOL_RETURN_NOPLANE : Fld := ⟨0x614, 6, 0⟩
/-- VOL_EVENT, 0x618 (R136). -/
def VOL_EVENT : Fld := ⟨0x618, 17, 0⟩
def VOL_EVENT_SHORT : Fld := ⟨0x618, 3, 3⟩
def VOL_EVENT_READY_LOST : Fld := ⟨0x618, 2, 2⟩
def VOL_EVENT_INCOMPLETE : Fld := ⟨0x618, 1, 1⟩
def VOL_EVENT_CKPT_DONE : Fld := ⟨0x618, 0, 0⟩
/-- VOL_EVENT_EN, 0x619 (R136). -/
def VOL_EVENT_EN : Fld := ⟨0x619, 17, 0⟩
def VOL_EVENT_EN_EN : Fld := ⟨0x619, 3, 0⟩
/-- VOL_RSTAT_r, 0x640 + r (r = 0 to 63) (R136). -/
def VOL_RSTAT (r : Nat) : Fld := ⟨0x640 + r, 17, 0⟩
def VOL_RSTAT_SRC (r : Nat) : Fld := ⟨0x640 + r, 17, 16⟩
def VOL_RSTAT_RULE (r : Nat) : Fld := ⟨0x640 + r, 15, 15⟩
def VOL_RSTAT_NEWER (r : Nat) : Fld := ⟨0x640 + r, 14, 14⟩
/-- SUP_LIM_c, 0x100 + c (c = 0 to 11) (R154). -/
def SUP_LIM (c : Nat) : Fld := ⟨0x100 + c, 17, 0⟩
def SUP_LIM_HI (c : Nat) : Fld := ⟨0x100 + c, 15, 8⟩
def SUP_LIM_LO (c : Nat) : Fld := ⟨0x100 + c, 7, 0⟩
/-- SUP_CTL_c, 0x110 + c (c = 0 to 11) (R154). -/
def SUP_CTL (c : Nat) : Fld := ⟨0x110 + c, 17, 0⟩
def SUP_CTL_EN (c : Nat) : Fld := ⟨0x110 + c, 17, 17⟩
def SUP_CTL_FILTER (c : Nat) : Fld := ⟨0x110 + c, 16, 13⟩
def SUP_CTL_LO_ACT (c : Nat) : Fld := ⟨0x110 + c, 12, 11⟩
def SUP_CTL_HI_ACT (c : Nat) : Fld := ⟨0x110 + c, 10, 9⟩
def SUP_CTL_GATE (c : Nat) : Fld := ⟨0x110 + c, 8, 5⟩
/-- SUP_OUT, 0x120 (R154). -/
def SUP_OUT : Fld := ⟨0x120, 17, 0⟩
def SUP_OUT_OUT : Fld := ⟨0x120, 11, 0⟩
/-- SUP_ARMED, 0x121 (R154). -/
def SUP_ARMED : Fld := ⟨0x121, 17, 0⟩
def SUP_ARMED_ARMED : Fld := ⟨0x121, 11, 0⟩
/-- SUP_EVENT, 0x122 (R154). -/
def SUP_EVENT : Fld := ⟨0x122, 17, 0⟩
def SUP_EVENT_SCRIPT_FAIL : Fld := ⟨0x122, 17, 17⟩
def SUP_EVENT_SCRIPT_BAD : Fld := ⟨0x122, 16, 16⟩
def SUP_EVENT_SPILLED : Fld := ⟨0x122, 15, 15⟩
def SUP_EVENT_OVERRUN : Fld := ⟨0x122, 14, 14⟩
def SUP_EVENT_WARN : Fld := ⟨0x122, 13, 13⟩
def SUP_EVENT_CH : Fld := ⟨0x122, 11, 0⟩
/-- SUP_EVENT_EN, 0x123 (R154). -/
def SUP_EVENT_EN : Fld := ⟨0x123, 17, 0⟩
def SUP_EVENT_EN_EN_HI : Fld := ⟨0x123, 17, 13⟩
def SUP_EVENT_EN_EN_CH : Fld := ⟨0x123, 11, 0⟩
/-- SUP_FIRST, 0x124 (R154). -/
def SUP_FIRST : Fld := ⟨0x124, 17, 0⟩
def SUP_FIRST_VALID : Fld := ⟨0x124, 17, 17⟩
def SUP_FIRST_KIND : Fld := ⟨0x124, 16, 16⟩
def SUP_FIRST_SIDE : Fld := ⟨0x124, 15, 15⟩
def SUP_FIRST_CHANNEL : Fld := ⟨0x124, 14, 11⟩
def SUP_FIRST_STATE : Fld := ⟨0x124, 10, 8⟩
def SUP_FIRST_SPILL_PENDING : Fld := ⟨0x124, 7, 7⟩
def SUP_FIRST_OSF : Fld := ⟨0x124, 6, 6⟩
/-- SUP_FIRST_T0, 0x125 (R154). -/
def SUP_FIRST_T0 : Fld := ⟨0x125, 17, 0⟩
def SUP_FIRST_T0_T_LO : Fld := ⟨0x125, 17, 0⟩
/-- SUP_FIRST_T1, 0x126 (R154). -/
def SUP_FIRST_T1 : Fld := ⟨0x126, 17, 0⟩
def SUP_FIRST_T1_T_HI : Fld := ⟨0x126, 17, 0⟩
/-- SUP_EN, 0x127 (R154). -/
def SUP_EN : Fld := ⟨0x127, 17, 0⟩
def SUP_EN_SHED : Fld := ⟨0x127, 15, 8⟩
def SUP_EN_LEVEL : Fld := ⟨0x127, 7, 0⟩
/-- SUP_SCRIPT, 0x128 (R154). -/
def SUP_SCRIPT : Fld := ⟨0x128, 17, 0⟩
def SUP_SCRIPT_RELOAD : Fld := ⟨0x128, 17, 17⟩
def SUP_SCRIPT_USER : Fld := ⟨0x128, 16, 16⟩
def SUP_SCRIPT_RUNNING : Fld := ⟨0x128, 15, 15⟩
def SUP_SCRIPT_FAILED : Fld := ⟨0x128, 14, 14⟩
def SUP_SCRIPT_STEP : Fld := ⟨0x128, 13, 10⟩
/-- SUP_WARN, 0x129 (R154). -/
def SUP_WARN : Fld := ⟨0x129, 17, 0⟩
def SUP_WARN_READY_WARN : Fld := ⟨0x129, 17, 17⟩
def SUP_WARN_WARN : Fld := ⟨0x129, 7, 0⟩
/-- SUP_CHG, 0x12A (R154). -/
def SUP_CHG : Fld := ⟨0x12A, 17, 0⟩
def SUP_CHG_CHARGING : Fld := ⟨0x12A, 17, 17⟩
def SUP_CHG_FULL : Fld := ⟨0x12A, 16, 16⟩
def SUP_CHG_ILIM : Fld := ⟨0x12A, 2, 0⟩
/-- SUP_PWR, 0x12B (R154). -/
def SUP_PWR : Fld := ⟨0x12B, 17, 0⟩
def SUP_PWR_DOWN : Fld := ⟨0x12B, 17, 17⟩
def SUP_PWR_WAKE : Fld := ⟨0x12B, 16, 16⟩
def SUP_PWR_HOLD : Fld := ⟨0x12B, 15, 15⟩
def SUP_PWR_RIGHTS : Fld := ⟨0x12B, 3, 0⟩
/-- SUP_FREE, 0x12C (R154). -/
def SUP_FREE : Fld := ⟨0x12C, 17, 0⟩
def SUP_FREE_FREE : Fld := ⟨0x12C, 7, 0⟩
/-- HOST_LINK_h, 0x700 + (h−1) (R191). -/
def HOST_LINK (h : Nat) : Fld := ⟨0x700 + h, 17, 0⟩
def HOST_LINK_SPEED (h : Nat) : Fld := ⟨0x700 + h, 17, 15⟩
def HOST_LINK_WIDTH (h : Nat) : Fld := ⟨0x700 + h, 14, 11⟩
def HOST_LINK_UP (h : Nat) : Fld := ⟨0x700 + h, 10, 10⟩
def HOST_LINK_D3 (h : Nat) : Fld := ⟨0x700 + h, 9, 9⟩
def HOST_LINK_PERST (h : Nat) : Fld := ⟨0x700 + h, 8, 8⟩
def HOST_LINK_BAD (h : Nat) : Fld := ⟨0x700 + h, 7, 0⟩
/-- HOST_LCTL_h, 0x704 + (h−1) (R191). -/
def HOST_LCTL (h : Nat) : Fld := ⟨0x704 + h, 17, 0⟩
def HOST_LCTL_RETRAIN (h : Nat) : Fld := ⟨0x704 + h, 17, 17⟩
def HOST_LCTL_MAX_SPEED (h : Nat) : Fld := ⟨0x704 + h, 16, 14⟩
def HOST_LCTL_ERR_LIMIT (h : Nat) : Fld := ⟨0x704 + h, 9, 0⟩
/-- HOST_EVENT_h, 0x708 + (h−1) (R191). -/
def HOST_EVENT (h : Nat) : Fld := ⟨0x708 + h, 17, 0⟩
def HOST_EVENT_CUT (h : Nat) : Fld := ⟨0x708 + h, 6, 6⟩
def HOST_EVENT_DB_ERR (h : Nat) : Fld := ⟨0x708 + h, 5, 5⟩
def HOST_EVENT_CQ_STOP (h : Nat) : Fld := ⟨0x708 + h, 4, 4⟩
def HOST_EVENT_SQ_STOP (h : Nat) : Fld := ⟨0x708 + h, 3, 3⟩
def HOST_EVENT_REFUSED (h : Nat) : Fld := ⟨0x708 + h, 2, 2⟩
def HOST_EVENT_LANE_BAD (h : Nat) : Fld := ⟨0x708 + h, 1, 1⟩
def HOST_EVENT_LINK_CHG (h : Nat) : Fld := ⟨0x708 + h, 0, 0⟩
/-- HOST_EVENT_EN_h, 0x70C + (h−1) (R191). -/
def HOST_EVENT_EN (h : Nat) : Fld := ⟨0x70C + h, 17, 0⟩
def HOST_EVENT_EN_EN (h : Nat) : Fld := ⟨0x70C + h, 6, 0⟩
/-- HOST_ERR_h, 0x710 + (h−1) (R191). -/
def HOST_ERR (h : Nat) : Fld := ⟨0x710 + h, 17, 0⟩
def HOST_ERR_CODE (h : Nat) : Fld := ⟨0x710 + h, 17, 14⟩
def HOST_ERR_CQ (h : Nat) : Fld := ⟨0x710 + h, 13, 13⟩
def HOST_ERR_RING (h : Nat) : Fld := ⟨0x710 + h, 12, 11⟩
/-- HOST_CUT_h, 0x714 + (h−1) (R191). -/
def HOST_CUT (h : Nat) : Fld := ⟨0x714 + h, 17, 0⟩
def HOST_CUT_COUNT (h : Nat) : Fld := ⟨0x714 + h, 17, 0⟩
/-- HOST_CTL_h, 0x720 + 0x38·(h−1) (R191). -/
def HOST_CTL (h : Nat) : Fld := ⟨0x720 + 0x38 * h, 17, 0⟩
def HOST_CTL_CUT_DISCARD (h : Nat) : Fld := ⟨0x720 + 0x38 * h, 17, 17⟩
def HOST_CTL_WEIGHT (h : Nat) : Fld := ⟨0x720 + 0x38 * h, 16, 14⟩
def HOST_CTL_WIN_RD (h : Nat) : Fld := ⟨0x720 + 0x38 * h, 13, 10⟩
def HOST_CTL_WIN_WR (h : Nat) : Fld := ⟨0x720 + 0x38 * h, 9, 6⟩
/-- HOST_SEG_h, 0x721 + 0x38·(h−1) (R191). -/
def HOST_SEG (h : Nat) : Fld := ⟨0x721 + 0x38 * h, 17, 0⟩
def HOST_SEG_SEG (h : Nat) : Fld := ⟨0x721 + 0x38 * h, 15, 0⟩
/-- HOST_DB_LO_h, 0x722 + 0x38·(h−1) (R191). -/
def HOST_DB_LO (h : Nat) : Fld := ⟨0x722 + 0x38 * h, 17, 0⟩
def HOST_DB_LO_DB_LO (h : Nat) : Fld := ⟨0x722 + 0x38 * h, 17, 0⟩
/-- HOST_DB_HI_h, 0x723 + 0x38·(h−1) (R191). -/
def HOST_DB_HI (h : Nat) : Fld := ⟨0x723 + 0x38 * h, 17, 0⟩
def HOST_DB_HI_DB_HI (h : Nat) : Fld := ⟨0x723 + 0x38 * h, 17, 0⟩
/-- HOST_POLL_h, 0x724 + 0x38·(h−1) (R191). -/
def HOST_POLL (h : Nat) : Fld := ⟨0x724 + 0x38 * h, 17, 0⟩
def HOST_POLL_HOLD (h : Nat) : Fld := ⟨0x724 + 0x38 * h, 17, 12⟩
def HOST_POLL_CEIL (h : Nat) : Fld := ⟨0x724 + 0x38 * h, 9, 0⟩
/-- HOST_IVEC_i_h, 0x725 + 0x38·(h−1) + i (i = 0 to 2) (R191). -/
def HOST_IVEC (h i : Nat) : Fld := ⟨0x725 + 0x38 * h + i, 17, 0⟩
def HOST_IVEC_EN_A (h i : Nat) : Fld := ⟨0x725 + 0x38 * h + i, 17, 17⟩
def HOST_IVEC_VEC_A (h i : Nat) : Fld := ⟨0x725 + 0x38 * h + i, 16, 12⟩
def HOST_IVEC_EN_B (h i : Nat) : Fld := ⟨0x725 + 0x38 * h + i, 11, 11⟩
def HOST_IVEC_VEC_B (h i : Nat) : Fld := ⟨0x725 + 0x38 * h + i, 10, 6⟩
def HOST_IVEC_EN_C (h i : Nat) : Fld := ⟨0x725 + 0x38 * h + i, 5, 5⟩
def HOST_IVEC_VEC_C (h i : Nat) : Fld := ⟨0x725 + 0x38 * h + i, 4, 0⟩
/-- HOST_SQ_BASE_LO_h_j, 0x728 + 0x38·(h−1) + 2j (R191). -/
def HOST_SQ_BASE_LO (h j : Nat) : Fld := ⟨0x728 + 0x38 * h + 2 * j, 17, 0⟩
def HOST_SQ_BASE_LO_BASE_LO (h j : Nat) : Fld := ⟨0x728 + 0x38 * h + 2 * j, 17, 0⟩
/-- HOST_SQ_BASE_HI_h_j, 0x729 + 0x38·(h−1) + 2j (R191). -/
def HOST_SQ_BASE_HI (h j : Nat) : Fld := ⟨0x729 + 0x38 * h + 2 * j, 17, 0⟩
def HOST_SQ_BASE_HI_BASE_HI (h j : Nat) : Fld := ⟨0x729 + 0x38 * h + 2 * j, 17, 0⟩
/-- HOST_CQ_BASE_LO_h_j, 0x730 + 0x38·(h−1) + 2j (R191). -/
def HOST_CQ_BASE_LO (h j : Nat) : Fld := ⟨0x730 + 0x38 * h + 2 * j, 17, 0⟩
def HOST_CQ_BASE_LO_BASE_LO (h j : Nat) : Fld := ⟨0x730 + 0x38 * h + 2 * j, 17, 0⟩
/-- HOST_CQ_BASE_HI_h_j, 0x731 + 0x38·(h−1) + 2j (R191). -/
def HOST_CQ_BASE_HI (h j : Nat) : Fld := ⟨0x731 + 0x38 * h + 2 * j, 17, 0⟩
def HOST_CQ_BASE_HI_BASE_HI (h j : Nat) : Fld := ⟨0x731 + 0x38 * h + 2 * j, 17, 0⟩
/-- HOST_SQ_CFG_h_j, 0x738 + 0x38·(h−1) + j (R191). -/
def HOST_SQ_CFG (h j : Nat) : Fld := ⟨0x738 + 0x38 * h + j, 17, 0⟩
def HOST_SQ_CFG_EN (h j : Nat) : Fld := ⟨0x738 + 0x38 * h + j, 17, 17⟩
def HOST_SQ_CFG_SIZE (h j : Nat) : Fld := ⟨0x738 + 0x38 * h + j, 16, 13⟩
def HOST_SQ_CFG_CQ (h j : Nat) : Fld := ⟨0x738 + 0x38 * h + j, 12, 11⟩
def HOST_SQ_CFG_WEIGHT (h j : Nat) : Fld := ⟨0x738 + 0x38 * h + j, 10, 8⟩
/-- HOST_CQ_CFG_h_j, 0x73C + 0x38·(h−1) + j (R191). -/
def HOST_CQ_CFG (h j : Nat) : Fld := ⟨0x73C + 0x38 * h + j, 17, 0⟩
def HOST_CQ_CFG_EN (h j : Nat) : Fld := ⟨0x73C + 0x38 * h + j, 17, 17⟩
def HOST_CQ_CFG_IEN (h j : Nat) : Fld := ⟨0x73C + 0x38 * h + j, 16, 16⟩
def HOST_CQ_CFG_SIZE (h j : Nat) : Fld := ⟨0x73C + 0x38 * h + j, 15, 12⟩
def HOST_CQ_CFG_VECTOR (h j : Nat) : Fld := ⟨0x73C + 0x38 * h + j, 11, 7⟩
def HOST_CQ_CFG_COUNT (h j : Nat) : Fld := ⟨0x73C + 0x38 * h + j, 6, 4⟩
def HOST_CQ_CFG_TIME (h j : Nat) : Fld := ⟨0x73C + 0x38 * h + j, 3, 0⟩
/-- HOST_SQ_STAT_h_j, 0x740 + 0x38·(h−1) + j (R191). -/
def HOST_SQ_STAT (h j : Nat) : Fld := ⟨0x740 + 0x38 * h + j, 17, 0⟩
def HOST_SQ_STAT_STATE (h j : Nat) : Fld := ⟨0x740 + 0x38 * h + j, 17, 16⟩
def HOST_SQ_STAT_HEAD (h j : Nat) : Fld := ⟨0x740 + 0x38 * h + j, 15, 0⟩
/-- HOST_CQ_STAT_h_j, 0x744 + 0x38·(h−1) + j (R191). -/
def HOST_CQ_STAT (h j : Nat) : Fld := ⟨0x744 + 0x38 * h + j, 17, 0⟩
def HOST_CQ_STAT_PHASE (h j : Nat) : Fld := ⟨0x744 + 0x38 * h + j, 17, 17⟩
def HOST_CQ_STAT_STOPPED (h j : Nat) : Fld := ⟨0x744 + 0x38 * h + j, 16, 16⟩
def HOST_CQ_STAT_TAIL (h j : Nat) : Fld := ⟨0x744 + 0x38 * h + j, 15, 0⟩
/-- HOST_WIN_BASE_LO_h_k, 0x748 + 0x38·(h−1) + 4k (R191). -/
def HOST_WIN_BASE_LO (h k : Nat) : Fld := ⟨0x748 + 0x38 * h + 4 * k, 17, 0⟩
def HOST_WIN_BASE_LO_BASE_LO (h k : Nat) : Fld := ⟨0x748 + 0x38 * h + 4 * k, 17, 0⟩
/-- HOST_WIN_BASE_HI_h_k, 0x749 + 0x38·(h−1) + 4k (R191). -/
def HOST_WIN_BASE_HI (h k : Nat) : Fld := ⟨0x749 + 0x38 * h + 4 * k, 17, 0⟩
def HOST_WIN_BASE_HI_BASE_HI (h k : Nat) : Fld := ⟨0x749 + 0x38 * h + 4 * k, 17, 0⟩
/-- HOST_WIN_LIM_LO_h_k, 0x74A + 0x38·(h−1) + 4k (R191). -/
def HOST_WIN_LIM_LO (h k : Nat) : Fld := ⟨0x74A + 0x38 * h + 4 * k, 17, 0⟩
def HOST_WIN_LIM_LO_LIM_LO (h k : Nat) : Fld := ⟨0x74A + 0x38 * h + 4 * k, 17, 0⟩
/-- HOST_WIN_LIM_HI_h_k, 0x74B + 0x38·(h−1) + 4k (R191). -/
def HOST_WIN_LIM_HI (h k : Nat) : Fld := ⟨0x74B + 0x38 * h + 4 * k, 17, 0⟩
def HOST_WIN_LIM_HI_LIM_HI (h k : Nat) : Fld := ⟨0x74B + 0x38 * h + 4 * k, 17, 0⟩
/-- STN_CTL, 0x800 + 0x80·n (R240). -/
def STN_CTL (n : Nat) : Fld := ⟨0x800 + 0x80 * n, 17, 0⟩
def STN_CTL_ARM (n : Nat) : Fld := ⟨0x800 + 0x80 * n, 17, 17⟩
def STN_CTL_DISARM (n : Nat) : Fld := ⟨0x800 + 0x80 * n, 16, 16⟩
def STN_CTL_MODE (n : Nat) : Fld := ⟨0x800 + 0x80 * n, 15, 15⟩
def STN_CTL_NF (n : Nat) : Fld := ⟨0x800 + 0x80 * n, 14, 11⟩
/-- STN_OWNER, 0x801 + 0x80·n (R240). -/
def STN_OWNER (n : Nat) : Fld := ⟨0x801 + 0x80 * n, 17, 0⟩
def STN_OWNER_OWNER (n : Nat) : Fld := ⟨0x801 + 0x80 * n, 2, 0⟩
/-- STN_STATUS, 0x802 + 0x80·n (R240). -/
def STN_STATUS (n : Nat) : Fld := ⟨0x802 + 0x80 * n, 17, 0⟩
def STN_STATUS_ARMED (n : Nat) : Fld := ⟨0x802 + 0x80 * n, 17, 17⟩
def STN_STATUS_WAIT_SOS (n : Nat) : Fld := ⟨0x802 + 0x80 * n, 16, 16⟩
def STN_STATUS_DEG_EMIT (n : Nat) : Fld := ⟨0x802 + 0x80 * n, 15, 15⟩
def STN_STATUS_DEG_LINK (n : Nat) : Fld := ⟨0x802 + 0x80 * n, 14, 14⟩
def STN_STATUS_STALLED (n : Nat) : Fld := ⟨0x802 + 0x80 * n, 13, 13⟩
def STN_STATUS_BLANK (n : Nat) : Fld := ⟨0x802 + 0x80 * n, 12, 12⟩
/-- STN_EVENT, 0x803 + 0x80·n (R240). -/
def STN_EVENT (n : Nat) : Fld := ⟨0x803 + 0x80 * n, 17, 0⟩
def STN_EVENT_NO_SOS (n : Nat) : Fld := ⟨0x803 + 0x80 * n, 12, 12⟩
def STN_EVENT_SAT (n : Nat) : Fld := ⟨0x803 + 0x80 * n, 11, 11⟩
def STN_EVENT_SWAP_REJ (n : Nat) : Fld := ⟨0x803 + 0x80 * n, 10, 10⟩
def STN_EVENT_DEGRADED (n : Nat) : Fld := ⟨0x803 + 0x80 * n, 9, 9⟩
def STN_EVENT_DEAD (n : Nat) : Fld := ⟨0x803 + 0x80 * n, 8, 8⟩
def STN_EVENT_CUTOFF (n : Nat) : Fld := ⟨0x803 + 0x80 * n, 7, 7⟩
def STN_EVENT_LIMIT (n : Nat) : Fld := ⟨0x803 + 0x80 * n, 6, 6⟩
def STN_EVENT_WARN (n : Nat) : Fld := ⟨0x803 + 0x80 * n, 5, 5⟩
def STN_EVENT_GAP (n : Nat) : Fld := ⟨0x803 + 0x80 * n, 4, 4⟩
def STN_EVENT_STALL (n : Nat) : Fld := ⟨0x803 + 0x80 * n, 3, 3⟩
def STN_EVENT_LATE (n : Nat) : Fld := ⟨0x803 + 0x80 * n, 2, 2⟩
def STN_EVENT_SPOIL (n : Nat) : Fld := ⟨0x803 + 0x80 * n, 1, 1⟩
def STN_EVENT_ARM_REFUSED (n : Nat) : Fld := ⟨0x803 + 0x80 * n, 0, 0⟩
/-- STN_EVENT_EN, 0x804 + 0x80·n (R240). -/
def STN_EVENT_EN (n : Nat) : Fld := ⟨0x804 + 0x80 * n, 17, 0⟩
def STN_EVENT_EN_EN (n : Nat) : Fld := ⟨0x804 + 0x80 * n, 12, 0⟩
/-- STN_ARM_ERR, 0x808 + 0x80·n (R240). -/
def STN_ARM_ERR (n : Nat) : Fld := ⟨0x808 + 0x80 * n, 17, 0⟩
def STN_ARM_ERR_REASON (n : Nat) : Fld := ⟨0x808 + 0x80 * n, 2, 0⟩
/-- STN_RING_LO, 0x809 + 0x80·n (R240). -/
def STN_RING_LO (n : Nat) : Fld := ⟨0x809 + 0x80 * n, 17, 0⟩
def STN_RING_LO_BASE_LO (n : Nat) : Fld := ⟨0x809 + 0x80 * n, 17, 0⟩
/-- STN_RING_HI, 0x80A + 0x80·n (R240). -/
def STN_RING_HI (n : Nat) : Fld := ⟨0x80A + 0x80 * n, 17, 0⟩
def STN_RING_HI_BASE_HI (n : Nat) : Fld := ⟨0x80A + 0x80 * n, 6, 0⟩
/-- STN_RING_SIZE, 0x80B + 0x80·n (R240). -/
def STN_RING_SIZE (n : Nat) : Fld := ⟨0x80B + 0x80 * n, 17, 0⟩
def STN_RING_SIZE_SIZE (n : Nat) : Fld := ⟨0x80B + 0x80 * n, 13, 0⟩
/-- STN_LINE, 0x80C + 0x80·n (R240). -/
def STN_LINE (n : Nat) : Fld := ⟨0x80C + 0x80 * n, 17, 0⟩
def STN_LINE_W64 (n : Nat) : Fld := ⟨0x80C + 0x80 * n, 9, 0⟩
/-- STN_RATE, 0x810 + 0x80·n (R240). -/
def STN_RATE (n : Nat) : Fld := ⟨0x810 + 0x80 * n, 17, 0⟩
def STN_RATE_F_MAX (n : Nat) : Fld := ⟨0x810 + 0x80 * n, 11, 0⟩
/-- STN_ENC, 0x811 + 0x80·n (R240). -/
def STN_ENC (n : Nat) : Fld := ⟨0x811 + 0x80 * n, 17, 0⟩
def STN_ENC_DIR (n : Nat) : Fld := ⟨0x811 + 0x80 * n, 1, 1⟩
def STN_ENC_SEL (n : Nat) : Fld := ⟨0x811 + 0x80 * n, 0, 0⟩
/-- STN_ENC_K, 0x812 + 0x80·n (R240). -/
def STN_ENC_K (n : Nat) : Fld := ⟨0x812 + 0x80 * n, 17, 0⟩
def STN_ENC_K_K (n : Nat) : Fld := ⟨0x812 + 0x80 * n, 17, 0⟩
/-- STN_GEOM_CTL, 0x813 + 0x80·n (R240). -/
def STN_GEOM_CTL (n : Nat) : Fld := ⟨0x813 + 0x80 * n, 17, 0⟩
def STN_GEOM_CTL_GAP_TH (n : Nat) : Fld := ⟨0x813 + 0x80 * n, 11, 6⟩
def STN_GEOM_CTL_OVL_TH (n : Nat) : Fld := ⟨0x813 + 0x80 * n, 5, 0⟩
/-- STN_FIRST, 0x814 + 0x80·n (R240). -/
def STN_FIRST (n : Nat) : Fld := ⟨0x814 + 0x80 * n, 17, 0⟩
def STN_FIRST_FIRST (n : Nat) : Fld := ⟨0x814 + 0x80 * n, 17, 0⟩
/-- STN_GAP, 0x815 + 0x80·n (R240). -/
def STN_GAP (n : Nat) : Fld := ⟨0x815 + 0x80 * n, 17, 0⟩
def STN_GAP_GAP (n : Nat) : Fld := ⟨0x815 + 0x80 * n, 15, 0⟩
/-- STN_LEAD, 0x816 + 0x80·n (R240). -/
def STN_LEAD (n : Nat) : Fld := ⟨0x816 + 0x80 * n, 17, 0⟩
def STN_LEAD_LEAD (n : Nat) : Fld := ⟨0x816 + 0x80 * n, 13, 0⟩
/-- STN_DERATE, 0x817 + 0x80·n (R240). -/
def STN_DERATE (n : Nat) : Fld := ⟨0x817 + 0x80 * n, 17, 0⟩
def STN_DERATE_D_WARN (n : Nat) : Fld := ⟨0x817 + 0x80 * n, 17, 9⟩
def STN_DERATE_D_LIMIT (n : Nat) : Fld := ⟨0x817 + 0x80 * n, 8, 0⟩
/-- STN_TEMP, 0x818 + 0x80·n (R240). -/
def STN_TEMP (n : Nat) : Fld := ⟨0x818 + 0x80 * n, 17, 0⟩
def STN_TEMP_LEVEL (n : Nat) : Fld := ⟨0x818 + 0x80 * n, 1, 0⟩
/-- STN_TBL_STAT, 0x819 + 0x80·n (R240). -/
def STN_TBL_STAT (n : Nat) : Fld := ⟨0x819 + 0x80 * n, 17, 0⟩
def STN_TBL_STAT_BANKS (n : Nat) : Fld := ⟨0x819 + 0x80 * n, 14, 0⟩
/-- STN_TBL_CTL, 0x81A + 0x80·n (R240). -/
def STN_TBL_CTL (n : Nat) : Fld := ⟨0x81A + 0x80 * n, 17, 0⟩
def STN_TBL_CTL_LOADED (n : Nat) : Fld := ⟨0x81A + 0x80 * n, 17, 13⟩
def STN_TBL_CTL_REVERT (n : Nat) : Fld := ⟨0x81A + 0x80 * n, 4, 0⟩
/-- STN_SPOIL, 0x81B + 0x80·n (R240). -/
def STN_SPOIL (n : Nat) : Fld := ⟨0x81B + 0x80 * n, 17, 0⟩
def STN_SPOIL_CAUSE (n : Nat) : Fld := ⟨0x81B + 0x80 * n, 17, 14⟩
/-- STN_SPOILS, 0x81C + 0x80·n (R240). -/
def STN_SPOILS (n : Nat) : Fld := ⟨0x81C + 0x80 * n, 17, 0⟩
def STN_SPOILS_COUNT (n : Nat) : Fld := ⟨0x81C + 0x80 * n, 17, 0⟩
/-- STN_SAT, 0x81D + 0x80·n (R240). -/
def STN_SAT (n : Nat) : Fld := ⟨0x81D + 0x80 * n, 17, 0⟩
def STN_SAT_COUNT (n : Nat) : Fld := ⟨0x81D + 0x80 * n, 17, 0⟩
/-- STN_DEAD_m, 0x820 + 0x80·n + m (m = 0 to 3) (R240). -/
def STN_DEAD (n m : Nat) : Fld := ⟨0x820 + 0x80 * n + m, 17, 0⟩
def STN_DEAD_DEAD (n m : Nat) : Fld := ⟨0x820 + 0x80 * n + m, 17, 0⟩
/-- STN_COVER, 0x824 + 0x80·n (R240). -/
def STN_COVER (n : Nat) : Fld := ⟨0x824 + 0x80 * n, 17, 0⟩
def STN_COVER_QUEUED (n : Nat) : Fld := ⟨0x824 + 0x80 * n, 12, 8⟩
def STN_COVER_WITHIN (n : Nat) : Fld := ⟨0x824 + 0x80 * n, 7, 7⟩
def STN_COVER_OUT (n : Nat) : Fld := ⟨0x824 + 0x80 * n, 6, 0⟩
/-- STN_FACET, 0x828 + 0x80·n (R240). -/
def STN_FACET (n : Nat) : Fld := ⟨0x828 + 0x80 * n, 17, 0⟩
def STN_FACET_FN (n : Nat) : Fld := ⟨0x828 + 0x80 * n, 17, 14⟩
def STN_FACET_ADV (n : Nat) : Fld := ⟨0x828 + 0x80 * n, 13, 0⟩
/-- STN_X_LO, 0x829 + 0x80·n (R240). -/
def STN_X_LO (n : Nat) : Fld := ⟨0x829 + 0x80 * n, 17, 0⟩
def STN_X_LO_X_LO (n : Nat) : Fld := ⟨0x829 + 0x80 * n, 17, 0⟩
/-- STN_X_HI, 0x82A + 0x80·n (R240). -/
def STN_X_HI (n : Nat) : Fld := ⟨0x82A + 0x80 * n, 17, 0⟩
def STN_X_HI_X_HI (n : Nat) : Fld := ⟨0x82A + 0x80 * n, 17, 0⟩
/-- STN_SXS_CTL, 0x840 + 0x80·n (R266). -/
def STN_SXS_CTL (n : Nat) : Fld := ⟨0x840 + 0x80 * n, 17, 0⟩
def STN_SXS_CTL_POL (n : Nat) : Fld := ⟨0x840 + 0x80 * n, 17, 17⟩
def STN_SXS_CTL_EOS_EN (n : Nat) : Fld := ⟨0x840 + 0x80 * n, 16, 16⟩
def STN_SXS_CTL_MIN_W (n : Nat) : Fld := ⟨0x840 + 0x80 * n, 15, 8⟩
/-- STN_SXS_T, 0x841 + 0x80·n (R266). -/
def STN_SXS_T (n : Nat) : Fld := ⟨0x841 + 0x80 * n, 17, 0⟩
def STN_SXS_T_T_SCAN (n : Nat) : Fld := ⟨0x841 + 0x80 * n, 17, 0⟩
/-- STN_SXS_HOLD, 0x842 + 0x80·n (R266). -/
def STN_SXS_HOLD (n : Nat) : Fld := ⟨0x842 + 0x80 * n, 17, 0⟩
def STN_SXS_HOLD_HOLDOFF (n : Nat) : Fld := ⟨0x842 + 0x80 * n, 17, 0⟩
/-- STN_DOT, 0x843 + 0x80·n (R266). -/
def STN_DOT (n : Nat) : Fld := ⟨0x843 + 0x80 * n, 17, 0⟩
def STN_DOT_DOT_PER (n : Nat) : Fld := ⟨0x843 + 0x80 * n, 17, 0⟩
/-- STN_MAG, 0x844 + 0x80·n (R266). -/
def STN_MAG (n : Nat) : Fld := ⟨0x844 + 0x80 * n, 17, 0⟩
def STN_MAG_AUTO (n : Nat) : Fld := ⟨0x844 + 0x80 * n, 17, 17⟩
def STN_MAG_AVG (n : Nat) : Fld := ⟨0x844 + 0x80 * n, 16, 15⟩
def STN_MAG_FN_ADJ (n : Nat) : Fld := ⟨0x844 + 0x80 * n, 14, 11⟩
/-- STN_TMEAS_LO, 0x845 + 0x80·n (R266). -/
def STN_TMEAS_LO (n : Nat) : Fld := ⟨0x845 + 0x80 * n, 17, 0⟩
def STN_TMEAS_LO_T_LO (n : Nat) : Fld := ⟨0x845 + 0x80 * n, 17, 0⟩
/-- STN_TMEAS_HI, 0x846 + 0x80·n (R266). -/
def STN_TMEAS_HI (n : Nat) : Fld := ⟨0x846 + 0x80 * n, 17, 0⟩
def STN_TMEAS_HI_T_HI (n : Nat) : Fld := ⟨0x846 + 0x80 * n, 3, 0⟩
/-- STN_LEVENT, 0x847 + 0x80·n (R266). -/
def STN_LEVENT (n : Nat) : Fld := ⟨0x847 + 0x80 * n, 17, 0⟩
def STN_LEVENT_DRV_FAULT (n : Nat) : Fld := ⟨0x847 + 0x80 * n, 12, 12⟩
def STN_LEVENT_SB_DONE (n : Nat) : Fld := ⟨0x847 + 0x80 * n, 11, 11⟩
def STN_LEVENT_TRAIN_FAIL (n : Nat) : Fld := ⟨0x847 + 0x80 * n, 10, 10⟩
def STN_LEVENT_TRAIN_DONE (n : Nat) : Fld := ⟨0x847 + 0x80 * n, 9, 9⟩
def STN_LEVENT_SB_LOST (n : Nat) : Fld := ⟨0x847 + 0x80 * n, 8, 8⟩
def STN_LEVENT_SB_ERR (n : Nat) : Fld := ⟨0x847 + 0x80 * n, 7, 7⟩
def STN_LEVENT_LANE_DOWN (n : Nat) : Fld := ⟨0x847 + 0x80 * n, 6, 6⟩
def STN_LEVENT_LINK_LATE (n : Nat) : Fld := ⟨0x847 + 0x80 * n, 5, 5⟩
def STN_LEVENT_RESEND (n : Nat) : Fld := ⟨0x847 + 0x80 * n, 4, 4⟩
def STN_LEVENT_RANGE (n : Nat) : Fld := ⟨0x847 + 0x80 * n, 3, 3⟩
def STN_LEVENT_REV (n : Nat) : Fld := ⟨0x847 + 0x80 * n, 2, 2⟩
def STN_LEVENT_ENC_LOS (n : Nat) : Fld := ⟨0x847 + 0x80 * n, 1, 1⟩
def STN_LEVENT_ENC_ERR (n : Nat) : Fld := ⟨0x847 + 0x80 * n, 0, 0⟩
/-- STN_LEVENT_EN, 0x848 + 0x80·n (R266). -/
def STN_LEVENT_EN (n : Nat) : Fld := ⟨0x848 + 0x80 * n, 17, 0⟩
def STN_LEVENT_EN_EN (n : Nat) : Fld := ⟨0x848 + 0x80 * n, 12, 0⟩
/-- STN_ENC_LO, 0x849 + 0x80·n (R266). -/
def STN_ENC_LO (n : Nat) : Fld := ⟨0x849 + 0x80 * n, 17, 0⟩
def STN_ENC_LO_CNT_LO (n : Nat) : Fld := ⟨0x849 + 0x80 * n, 17, 0⟩
/-- STN_ENC_HI, 0x84A + 0x80·n (R266). -/
def STN_ENC_HI (n : Nat) : Fld := ⟨0x84A + 0x80 * n, 17, 0⟩
def STN_ENC_HI_CNT_HI (n : Nat) : Fld := ⟨0x84A + 0x80 * n, 13, 0⟩
/-- STN_ENC_STAT, 0x84B + 0x80·n (R266). -/
def STN_ENC_STAT (n : Nat) : Fld := ⟨0x84B + 0x80 * n, 17, 0⟩
def STN_ENC_STAT_LOS (n : Nat) : Fld := ⟨0x84B + 0x80 * n, 17, 17⟩
def STN_ENC_STAT_OVERSPEED (n : Nat) : Fld := ⟨0x84B + 0x80 * n, 16, 16⟩
def STN_ENC_STAT_REVS (n : Nat) : Fld := ⟨0x84B + 0x80 * n, 15, 8⟩
def STN_ENC_STAT_ERRS (n : Nat) : Fld := ⟨0x84B + 0x80 * n, 7, 0⟩
/-- STN_MTRIM_f, 0x850 + 0x80·n + f (f = 0 to 11) (R266). -/
def STN_MTRIM (n f : Nat) : Fld := ⟨0x850 + 0x80 * n + f, 17, 0⟩
def STN_MTRIM_VALID (n f : Nat) : Fld := ⟨0x850 + 0x80 * n + f, 17, 17⟩
def STN_MTRIM_TRIM (n f : Nat) : Fld := ⟨0x850 + 0x80 * n + f, 15, 0⟩
/-- STN_LINK_CTL, 0x860 + 0x80·n (R266). -/
def STN_LINK_CTL (n : Nat) : Fld := ⟨0x860 + 0x80 * n, 17, 0⟩
def STN_LINK_CTL_TRAIN (n : Nat) : Fld := ⟨0x860 + 0x80 * n, 17, 17⟩
def STN_LINK_CTL_LANES_MIN (n : Nat) : Fld := ⟨0x860 + 0x80 * n, 16, 13⟩
def STN_LINK_CTL_EXCL (n : Nat) : Fld := ⟨0x860 + 0x80 * n, 12, 5⟩
/-- STN_LINK_STAT, 0x861 + 0x80·n (R266). -/
def STN_LINK_STAT (n : Nat) : Fld := ⟨0x861 + 0x80 * n, 17, 0⟩
def STN_LINK_STAT_STATE (n : Nat) : Fld := ⟨0x861 + 0x80 * n, 17, 15⟩
def STN_LINK_STAT_LMASK (n : Nat) : Fld := ⟨0x861 + 0x80 * n, 14, 7⟩
def STN_LINK_STAT_LANES (n : Nat) : Fld := ⟨0x861 + 0x80 * n, 6, 3⟩
/-- STN_LINK_PRE0, 0x862 + 0x80·n (R266). -/
def STN_LINK_PRE0 (n : Nat) : Fld := ⟨0x862 + 0x80 * n, 17, 0⟩
def STN_LINK_PRE0_PRE (n : Nat) : Fld := ⟨0x862 + 0x80 * n, 17, 0⟩
/-- STN_LINK_PRE1, 0x863 + 0x80·n (R266). -/
def STN_LINK_PRE1 (n : Nat) : Fld := ⟨0x863 + 0x80 * n, 17, 0⟩
def STN_LINK_PRE1_PRE (n : Nat) : Fld := ⟨0x863 + 0x80 * n, 5, 0⟩
/-- STN_LINK_INFO, 0x864 + 0x80·n (R266). -/
def STN_LINK_INFO (n : Nat) : Fld := ⟨0x864 + 0x80 * n, 17, 0⟩
def STN_LINK_INFO_BAD (n : Nat) : Fld := ⟨0x864 + 0x80 * n, 15, 8⟩
def STN_LINK_INFO_FIFO (n : Nat) : Fld := ⟨0x864 + 0x80 * n, 7, 0⟩
/-- STN_SCALE, 0x865 + 0x80·n (R266). -/
def STN_SCALE (n : Nat) : Fld := ⟨0x865 + 0x80 * n, 17, 0⟩
def STN_SCALE_SCALE (n : Nat) : Fld := ⟨0x865 + 0x80 * n, 15, 0⟩
/-- STN_LINK_CNT, 0x866 + 0x80·n (R266). -/
def STN_LINK_CNT (n : Nat) : Fld := ⟨0x866 + 0x80 * n, 17, 0⟩
def STN_LINK_CNT_RESENDS (n : Nat) : Fld := ⟨0x866 + 0x80 * n, 17, 9⟩
def STN_LINK_CNT_LATES (n : Nat) : Fld := ⟨0x866 + 0x80 * n, 8, 0⟩
/-- STN_SB_CMD, 0x868 + 0x80·n (R266). -/
def STN_SB_CMD (n : Nat) : Fld := ⟨0x868 + 0x80 * n, 17, 0⟩
def STN_SB_CMD_GO (n : Nat) : Fld := ⟨0x868 + 0x80 * n, 17, 17⟩
def STN_SB_CMD_WR (n : Nat) : Fld := ⟨0x868 + 0x80 * n, 16, 16⟩
def STN_SB_CMD_ADDR (n : Nat) : Fld := ⟨0x868 + 0x80 * n, 6, 0⟩
/-- STN_SB_DATA, 0x869 + 0x80·n (R266). -/
def STN_SB_DATA (n : Nat) : Fld := ⟨0x869 + 0x80 * n, 17, 0⟩
def STN_SB_DATA_DATA (n : Nat) : Fld := ⟨0x869 + 0x80 * n, 15, 0⟩
/-- STN_SB_STAT, 0x86A + 0x80·n (R266). -/
def STN_SB_STAT (n : Nat) : Fld := ⟨0x86A + 0x80 * n, 17, 0⟩
def STN_SB_STAT_BUSY (n : Nat) : Fld := ⟨0x86A + 0x80 * n, 17, 17⟩
def STN_SB_STAT_RESULT (n : Nat) : Fld := ⟨0x86A + 0x80 * n, 16, 15⟩
/-- STN_SB_RPT, 0x86B + 0x80·n (R266). -/
def STN_SB_RPT (n : Nat) : Fld := ⟨0x86B + 0x80 * n, 17, 0⟩
def STN_SB_RPT_TYPE (n : Nat) : Fld := ⟨0x86B + 0x80 * n, 13, 11⟩
def STN_SB_RPT_ARG (n : Nat) : Fld := ⟨0x86B + 0x80 * n, 10, 3⟩
/-- LED_CTL, 0xC00 (R287). -/
def LED_CTL : Fld := ⟨0xC00, 17, 0⟩
def LED_CTL_TRANSFER : Fld := ⟨0xC00, 17, 17⟩
def LED_CTL_FUSE : Fld := ⟨0xC00, 16, 16⟩
def LED_CTL_DELIVER : Fld := ⟨0xC00, 15, 15⟩
def LED_CTL_JAM : Fld := ⟨0xC00, 14, 14⟩
/-- LED_TMO, 0xC01 (R287). -/
def LED_TMO : Fld := ⟨0xC01, 17, 0⟩
def LED_TMO_T_TMO : Fld := ⟨0xC01, 17, 12⟩
def LED_TMO_F_TMO : Fld := ⟨0xC01, 11, 6⟩
def LED_TMO_D_TMO : Fld := ⟨0xC01, 5, 0⟩
/-- LED_EVENT, 0xC02 (R287). -/
def LED_EVENT : Fld := ⟨0xC02, 17, 0⟩
def LED_EVENT_SAT : Fld := ⟨0xC02, 7, 7⟩
def LED_EVENT_COPY_FAIL : Fld := ⟨0xC02, 6, 6⟩
def LED_EVENT_CUT : Fld := ⟨0xC02, 5, 5⟩
def LED_EVENT_FULL : Fld := ⟨0xC02, 4, 4⟩
def LED_EVENT_WRAP : Fld := ⟨0xC02, 3, 3⟩
def LED_EVENT_TMO : Fld := ⟨0xC02, 2, 2⟩
def LED_EVENT_JAM : Fld := ⟨0xC02, 1, 1⟩
def LED_EVENT_STRAY : Fld := ⟨0xC02, 0, 0⟩
/-- LED_EVENT_EN, 0xC03 (R287). -/
def LED_EVENT_EN : Fld := ⟨0xC03, 17, 0⟩
def LED_EVENT_EN_EN : Fld := ⟨0xC03, 7, 0⟩
/-- LED_NEXT_LO, 0xC04 (R287). -/
def LED_NEXT_LO : Fld := ⟨0xC04, 17, 0⟩
def LED_NEXT_LO_NEXT_LO : Fld := ⟨0xC04, 17, 0⟩
/-- LED_NEXT_HI, 0xC05 (R287). -/
def LED_NEXT_HI : Fld := ⟨0xC05, 17, 0⟩
def LED_NEXT_HI_NEXT_HI : Fld := ⟨0xC05, 1, 0⟩
/-- LED_OPEN, 0xC06 (R287). -/
def LED_OPEN : Fld := ⟨0xC06, 17, 0⟩
def LED_OPEN_OPEN : Fld := ⟨0xC06, 16, 0⟩
/-- LED_CUT, 0xC07 (R287). -/
def LED_CUT : Fld := ⟨0xC07, 17, 0⟩
def LED_CUT_CUT : Fld := ⟨0xC07, 16, 0⟩
/-- LED_Q, 0xC08 (R287). -/
def LED_Q : Fld := ⟨0xC08, 17, 0⟩
def LED_Q_T : Fld := ⟨0xC08, 17, 12⟩
def LED_Q_F : Fld := ⟨0xC08, 11, 6⟩
def LED_Q_D : Fld := ⟨0xC08, 5, 0⟩
/-- LED_STRAY, 0xC09 (R287). -/
def LED_STRAY : Fld := ⟨0xC09, 17, 0⟩
def LED_STRAY_TRANSFER : Fld := ⟨0xC09, 15, 12⟩
def LED_STRAY_FUSE : Fld := ⟨0xC09, 11, 8⟩
def LED_STRAY_DELIVER : Fld := ⟨0xC09, 7, 4⟩
def LED_STRAY_JAM : Fld := ⟨0xC09, 3, 0⟩
/-- LED_CNT_SRC_i, 0xC10 + i (i = 0 to 15) (R287). -/
def LED_CNT_SRC (i : Nat) : Fld := ⟨0xC10 + i, 17, 0⟩
def LED_CNT_SRC_SRC (i : Nat) : Fld := ⟨0xC10 + i, 3, 0⟩
/-- LED_CNT_SEL, 0xC20 (R287). -/
def LED_CNT_SEL : Fld := ⟨0xC20, 17, 0⟩
def LED_CNT_SEL_SEL : Fld := ⟨0xC20, 3, 0⟩
/-- LED_CNT_V0, LED_CNT_V1, LED_CNT_V2, 0xC21–0xC23 (R287). -/
def LED_CNT_V (i : Nat) : Fld := ⟨0xC21 + i, 17, 0⟩
def LED_CNT_V_VALUE (i : Nat) : Fld := ⟨0xC21 + i, 17, 0⟩
/-- LED_CRD_V0, LED_CRD_V1, LED_CRD_V2, 0xC24–0xC26 (R287). -/
def LED_CRD_V (i : Nat) : Fld := ⟨0xC24 + i, 17, 0⟩
def LED_CRD_V_CREDIT (i : Nat) : Fld := ⟨0xC24 + i, 17, 0⟩
/-- LED_CREDIT, 0xC27 (R287). -/
def LED_CREDIT : Fld := ⟨0xC27, 17, 0⟩
def LED_CREDIT_NONZERO : Fld := ⟨0xC27, 15, 0⟩
/-- LED_KEEP_LO, 0xC28 (R287). -/
def LED_KEEP_LO : Fld := ⟨0xC28, 17, 0⟩
def LED_KEEP_LO_COPIES_LO : Fld := ⟨0xC28, 17, 0⟩
/-- LED_KEEP_HI, 0xC29 (R287). -/
def LED_KEEP_HI : Fld := ⟨0xC29, 17, 0⟩
def LED_KEEP_HI_COPIES_HI : Fld := ⟨0xC29, 13, 0⟩
/-- LED_KEEP_STAT, 0xC2A (R287). -/
def LED_KEEP_STAT : Fld := ⟨0xC2A, 17, 0⟩
def LED_KEEP_STAT_DUE : Fld := ⟨0xC2A, 17, 17⟩
def LED_KEEP_STAT_BUSY : Fld := ⟨0xC2A, 16, 16⟩
def LED_KEEP_STAT_PAIR : Fld := ⟨0xC2A, 15, 10⟩
def LED_KEEP_STAT_LAST : Fld := ⟨0xC2A, 9, 8⟩
def LED_KEEP_STAT_INCR : Fld := ⟨0xC2A, 6, 0⟩
/-- KEEP_CTL, 0x280 (R307). -/
def KEEP_CTL : Fld := ⟨0x280, 17, 0⟩
def KEEP_CTL_BP : Fld := ⟨0x280, 17, 16⟩
def KEEP_CTL_RIGHTS : Fld := ⟨0x280, 15, 12⟩
/-- KEEP_STAT, 0x281 (R307). -/
def KEEP_STAT : Fld := ⟨0x281, 17, 0⟩
def KEEP_STAT_BUSY : Fld := ⟨0x281, 17, 17⟩
def KEEP_STAT_WRITER : Fld := ⟨0x281, 16, 14⟩
def KEEP_STAT_PHASE : Fld := ⟨0x281, 13, 12⟩
def KEEP_STAT_HOT_BUSY : Fld := ⟨0x281, 11, 11⟩
def KEEP_STAT_BP_FAULT : Fld := ⟨0x281, 10, 10⟩
def KEEP_STAT_LOADED : Fld := ⟨0x281, 9, 9⟩
def KEEP_STAT_PAGE : Fld := ⟨0x281, 8, 0⟩
/-- KEEP_ADDR, 0x282 (R307). -/
def KEEP_ADDR : Fld := ⟨0x282, 17, 0⟩
def KEEP_ADDR_ADDR : Fld := ⟨0x282, 14, 0⟩
/-- KEEP_RDATA, 0x283 (R307). -/
def KEEP_RDATA : Fld := ⟨0x283, 17, 0⟩
def KEEP_RDATA_TAG : Fld := ⟨0x283, 17, 16⟩
def KEEP_RDATA_DATA : Fld := ⟨0x283, 15, 0⟩
/-- KEEP_WDATA, 0x284 (R307). -/
def KEEP_WDATA : Fld := ⟨0x284, 17, 0⟩
def KEEP_WDATA_DATA : Fld := ⟨0x284, 15, 0⟩
/-- KEEP_CMD, 0x285 (R307). -/
def KEEP_CMD : Fld := ⟨0x285, 17, 0⟩
def KEEP_CMD_WRITE : Fld := ⟨0x285, 17, 17⟩
def KEEP_CMD_CLEAR : Fld := ⟨0x285, 16, 16⟩
def KEEP_CMD_FLUSH : Fld := ⟨0x285, 15, 15⟩
/-- KEEP_EVENT, 0x286 (R307). -/
def KEEP_EVENT : Fld := ⟨0x286, 17, 0⟩
def KEEP_EVENT_ABANDONED : Fld := ⟨0x286, 6, 6⟩
def KEEP_EVENT_VERIFY : Fld := ⟨0x286, 5, 5⟩
def KEEP_EVENT_BP_FAULT : Fld := ⟨0x286, 4, 4⟩
def KEEP_EVENT_HOT_REFUSED : Fld := ⟨0x286, 3, 3⟩
def KEEP_EVENT_REFUSED : Fld := ⟨0x286, 2, 2⟩
def KEEP_EVENT_LOAD_ERR : Fld := ⟨0x286, 1, 1⟩
def KEEP_EVENT_DONE : Fld := ⟨0x286, 0, 0⟩
/-- KEEP_EVENT_EN, 0x287 (R307). -/
def KEEP_EVENT_EN : Fld := ⟨0x287, 17, 0⟩
def KEEP_EVENT_EN_EN : Fld := ⟨0x287, 6, 0⟩
/-- KEEP_FAIL, 0x288 (R307). -/
def KEEP_FAIL : Fld := ⟨0x288, 17, 0⟩
def KEEP_FAIL_ADDR : Fld := ⟨0x288, 14, 0⟩
/-- KEEP_HOT, 0x289 (R307). -/
def KEEP_HOT : Fld := ⟨0x289, 17, 0⟩
def KEEP_HOT_PAGES : Fld := ⟨0x289, 11, 9⟩
def KEEP_HOT_FIRST : Fld := ⟨0x289, 8, 0⟩
/-- MB_TOA_c, 0x300 + 0x10·c (R321). -/
def MB_TOA (c : Nat) : Fld := ⟨0x300 + 0x10 * c, 17, 0⟩
def MB_TOA_DATA (c : Nat) : Fld := ⟨0x300 + 0x10 * c, 17, 0⟩
/-- MB_TOB_c, 0x301 + 0x10·c (R321). -/
def MB_TOB (c : Nat) : Fld := ⟨0x301 + 0x10 * c, 17, 0⟩
def MB_TOB_DATA (c : Nat) : Fld := ⟨0x301 + 0x10 * c, 17, 0⟩
/-- MB_RXA_c, 0x302 + 0x10·c (R321). -/
def MB_RXA (c : Nat) : Fld := ⟨0x302 + 0x10 * c, 17, 0⟩
def MB_RXA_DATA (c : Nat) : Fld := ⟨0x302 + 0x10 * c, 17, 0⟩
/-- MB_RXB_c, 0x303 + 0x10·c (R321). -/
def MB_RXB (c : Nat) : Fld := ⟨0x303 + 0x10 * c, 17, 0⟩
def MB_RXB_DATA (c : Nat) : Fld := ⟨0x303 + 0x10 * c, 17, 0⟩
/-- MB_SRCA_c, 0x304 + 0x10·c; MB_SRCB_c, 0x305 + 0x10·c (R321). -/
def MB_SRCA (c : Nat) : Fld := ⟨0x304 + 0x10 * c, 17, 0⟩
def MB_SRCA_HIT (c : Nat) : Fld := ⟨0x304 + 0x10 * c, 17, 17⟩
def MB_SRCA_SENDER (c : Nat) : Fld := ⟨0x304 + 0x10 * c, 7, 4⟩
def MB_SRCA_LEFT (c : Nat) : Fld := ⟨0x304 + 0x10 * c, 3, 0⟩
/-- MB_SRCA_c, 0x304 + 0x10·c; MB_SRCB_c, 0x305 + 0x10·c (R321). -/
def MB_SRCB (c : Nat) : Fld := ⟨0x305 + 0x10 * c, 17, 0⟩
def MB_SRCB_HIT (c : Nat) : Fld := ⟨0x305 + 0x10 * c, 17, 17⟩
def MB_SRCB_SENDER (c : Nat) : Fld := ⟨0x305 + 0x10 * c, 7, 4⟩
def MB_SRCB_LEFT (c : Nat) : Fld := ⟨0x305 + 0x10 * c, 3, 0⟩
/-- MB_STAT_c, 0x306 + 0x10·c (R321). -/
def MB_STAT (c : Nat) : Fld := ⟨0x306 + 0x10 * c, 17, 0⟩
def MB_STAT_LVLA (c : Nat) : Fld := ⟨0x306 + 0x10 * c, 17, 14⟩
def MB_STAT_LVLB (c : Nat) : Fld := ⟨0x306 + 0x10 * c, 13, 10⟩
def MB_STAT_COLLA (c : Nat) : Fld := ⟨0x306 + 0x10 * c, 9, 9⟩
def MB_STAT_COLLB (c : Nat) : Fld := ⟨0x306 + 0x10 * c, 8, 8⟩
def MB_STAT_SERVER (c : Nat) : Fld := ⟨0x306 + 0x10 * c, 7, 6⟩
/-- MB_COLL_c, 0x307 + 0x10·c (R321). -/
def MB_COLL (c : Nat) : Fld := ⟨0x307 + 0x10 * c, 17, 0⟩
def MB_COLL_LOSTA (c : Nat) : Fld := ⟨0x307 + 0x10 * c, 15, 12⟩
def MB_COLL_NEWA (c : Nat) : Fld := ⟨0x307 + 0x10 * c, 11, 8⟩
def MB_COLL_LOSTB (c : Nat) : Fld := ⟨0x307 + 0x10 * c, 7, 4⟩
def MB_COLL_NEWB (c : Nat) : Fld := ⟨0x307 + 0x10 * c, 3, 0⟩
/-- MB_BIND_c, 0x308 + 0x10·c (c = 5 to 7) (R321). -/
def MB_BIND (c : Nat) : Fld := ⟨0x308 + 0x10 * c, 17, 0⟩
def MB_BIND_A (c : Nat) : Fld := ⟨0x308 + 0x10 * c, 5, 3⟩
def MB_BIND_B (c : Nat) : Fld := ⟨0x308 + 0x10 * c, 2, 0⟩
/-- POSSk, 0x380 + k (k = 0 to 31) (R321). -/
def POSS (k : Nat) : Fld := ⟨0x380 + k, 17, 0⟩
def POSS_GRANTED (k : Nat) : Fld := ⟨0x380 + k, 17, 17⟩
def POSS_OWNER (k : Nat) : Fld := ⟨0x380 + k, 3, 0⟩
/-- MB_EVENT_h, 0x3A0 + h (h = 0 to 4) (R321). -/
def MB_EVENT (h : Nat) : Fld := ⟨0x3A0 + h, 17, 0⟩
def MB_EVENT_COLL (h : Nat) : Fld := ⟨0x3A0 + h, 16, 16⟩
def MB_EVENT_EMPTIED (h : Nat) : Fld := ⟨0x3A0 + h, 15, 8⟩
def MB_EVENT_ARRIVE (h : Nat) : Fld := ⟨0x3A0 + h, 7, 0⟩
/-- MB_EVENT_EN_h, 0x3A8 + h (h = 0 to 4) (R321). -/
def MB_EVENT_EN (h : Nat) : Fld := ⟨0x3A8 + h, 17, 0⟩
def MB_EVENT_EN_EN (h : Nat) : Fld := ⟨0x3A8 + h, 16, 0⟩
/-- POSS_FREE_LO, 0x3B0; POSS_FREE_HI, 0x3B1 (R321). -/
def POSS_FREE_LO : Fld := ⟨0x3B0, 17, 0⟩
def POSS_FREE_LO_FREE : Fld := ⟨0x3B0, 15, 0⟩
/-- POSS_FREE_LO, 0x3B0; POSS_FREE_HI, 0x3B1 (R321). -/
def POSS_FREE_HI : Fld := ⟨0x3B1, 17, 0⟩
def POSS_FREE_HI_FREE : Fld := ⟨0x3B1, 15, 0⟩
/-- POSS_FORCE_LO, 0x3B2; POSS_FORCE_HI, 0x3B3 (R321). -/
def POSS_FORCE_LO : Fld := ⟨0x3B2, 17, 0⟩
def POSS_FORCE_LO_RELEASE : Fld := ⟨0x3B2, 15, 0⟩
/-- POSS_FORCE_LO, 0x3B2; POSS_FORCE_HI, 0x3B3 (R321). -/
def POSS_FORCE_HI : Fld := ⟨0x3B3, 17, 0⟩
def POSS_FORCE_HI_RELEASE : Fld := ⟨0x3B3, 15, 0⟩
/-- RTC_SUBSEC, 0x200 (R335). -/
def RTC_SUBSEC : Fld := ⟨0x200, 17, 0⟩
def RTC_SUBSEC_SUBSEC : Fld := ⟨0x200, 9, 0⟩
/-- RTC_SECMIN, 0x201 (R335). -/
def RTC_SECMIN : Fld := ⟨0x201, 17, 0⟩
def RTC_SECMIN_MIN : Fld := ⟨0x201, 11, 6⟩
def RTC_SECMIN_SEC : Fld := ⟨0x201, 5, 0⟩
/-- RTC_DAYHR, 0x202 (R335). -/
def RTC_DAYHR : Fld := ⟨0x202, 17, 0⟩
def RTC_DAYHR_DAY : Fld := ⟨0x202, 12, 8⟩
def RTC_DAYHR_WDAY : Fld := ⟨0x202, 7, 5⟩
def RTC_DAYHR_HOUR : Fld := ⟨0x202, 4, 0⟩
/-- RTC_YEAR, 0x203 (R335). -/
def RTC_YEAR : Fld := ⟨0x203, 17, 0⟩
def RTC_YEAR_OSF : Fld := ⟨0x203, 17, 17⟩
def RTC_YEAR_MONTH : Fld := ⟨0x203, 11, 8⟩
def RTC_YEAR_YEAR : Fld := ⟨0x203, 7, 0⟩
/-- RTC_STAMP_LO, 0x204; RTC_STAMP_HI, 0x205 (R335). -/
def RTC_STAMP_LO : Fld := ⟨0x204, 17, 0⟩
def RTC_STAMP_LO_STAMP : Fld := ⟨0x204, 17, 0⟩
/-- RTC_STAMP_LO, 0x204; RTC_STAMP_HI, 0x205 (R335). -/
def RTC_STAMP_HI : Fld := ⟨0x205, 17, 0⟩
def RTC_STAMP_HI_STAMP : Fld := ⟨0x205, 17, 0⟩
/-- RTC_NEW0 to RTC_NEW3, 0x208–0x20B (R335). -/
def RTC_NEW (i : Nat) : Fld := ⟨0x208 + i, 17, 0⟩
def RTC_NEW_NEW (i : Nat) : Fld := ⟨0x208 + i, 17, 0⟩
/-- RTC_CMD, 0x20C (R335). -/
def RTC_CMD : Fld := ⟨0x20C, 17, 0⟩
def RTC_CMD_SET : Fld := ⟨0x20C, 17, 17⟩
/-- RTC_CTL, 0x20D (R335). -/
def RTC_CTL : Fld := ⟨0x20D, 17, 0⟩
def RTC_CTL_TRIM : Fld := ⟨0x20D, 17, 8⟩
def RTC_CTL_RIGHTS : Fld := ⟨0x20D, 3, 0⟩
/-- RTC_STATUS, 0x20E (R335). -/
def RTC_STATUS : Fld := ⟨0x20E, 17, 0⟩
def RTC_STATUS_OSF : Fld := ⟨0x20E, 17, 17⟩
def RTC_STATUS_ATTACH : Fld := ⟨0x20E, 16, 16⟩
def RTC_STATUS_STOP : Fld := ⟨0x20E, 15, 15⟩
def RTC_STATUS_LOWBAT : Fld := ⟨0x20E, 14, 14⟩
def RTC_STATUS_ROLL : Fld := ⟨0x20E, 13, 13⟩
def RTC_STATUS_ON_VBAT : Fld := ⟨0x20E, 12, 12⟩
/-- RTC_ALMk_0, 0x210 + 4k (k = 0, 1) (R335). -/
def RTC_ALM_0 (k : Nat) : Fld := ⟨0x210 + 4 * k, 17, 0⟩
def RTC_ALM_0_EN (k : Nat) : Fld := ⟨0x210 + 4 * k, 17, 17⟩
def RTC_ALM_0_WAKE (k : Nat) : Fld := ⟨0x210 + 4 * k, 16, 16⟩
def RTC_ALM_0_MASK (k : Nat) : Fld := ⟨0x210 + 4 * k, 15, 9⟩
def RTC_ALM_0_WDAY (k : Nat) : Fld := ⟨0x210 + 4 * k, 8, 6⟩
def RTC_ALM_0_NONE (k : Nat) : Fld := ⟨0x210 + 4 * k, 5, 5⟩
def RTC_ALM_0_BUSY (k : Nat) : Fld := ⟨0x210 + 4 * k, 4, 4⟩
/-- RTC_ALMk_1, 0x211 + 4k (R335). -/
def RTC_ALM_1 (k : Nat) : Fld := ⟨0x211 + 4 * k, 17, 0⟩
def RTC_ALM_1_MIN (k : Nat) : Fld := ⟨0x211 + 4 * k, 16, 11⟩
def RTC_ALM_1_SEC (k : Nat) : Fld := ⟨0x211 + 4 * k, 10, 5⟩
def RTC_ALM_1_HOUR (k : Nat) : Fld := ⟨0x211 + 4 * k, 4, 0⟩
/-- RTC_ALMk_2, 0x212 + 4k (R335). -/
def RTC_ALM_2 (k : Nat) : Fld := ⟨0x212 + 4 * k, 17, 0⟩
def RTC_ALM_2_YEAR (k : Nat) : Fld := ⟨0x212 + 4 * k, 16, 9⟩
def RTC_ALM_2_MONTH (k : Nat) : Fld := ⟨0x212 + 4 * k, 8, 5⟩
def RTC_ALM_2_DAY (k : Nat) : Fld := ⟨0x212 + 4 * k, 4, 0⟩
/-- RTC_NEXTk_LO, 0x218 + 2k; RTC_NEXTk_HI, 0x219 + 2k (R335). -/
def RTC_NEXT_LO (k : Nat) : Fld := ⟨0x218 + 2 * k, 17, 0⟩
def RTC_NEXT_LO_NEXT (k : Nat) : Fld := ⟨0x218 + 2 * k, 17, 0⟩
/-- RTC_NEXTk_LO, 0x218 + 2k; RTC_NEXTk_HI, 0x219 + 2k (R335). -/
def RTC_NEXT_HI (k : Nat) : Fld := ⟨0x219 + 2 * k, 17, 0⟩
def RTC_NEXT_HI_NEXT (k : Nat) : Fld := ⟨0x219 + 2 * k, 17, 0⟩
/-- RTC_EVENT, 0x21C (R335). -/
def RTC_EVENT : Fld := ⟨0x21C, 17, 0⟩
def RTC_EVENT_SET_BAD : Fld := ⟨0x21C, 5, 5⟩
def RTC_EVENT_OSF : Fld := ⟨0x21C, 4, 4⟩
def RTC_EVENT_SKIP1 : Fld := ⟨0x21C, 3, 3⟩
def RTC_EVENT_SKIP0 : Fld := ⟨0x21C, 2, 2⟩
def RTC_EVENT_ALM1 : Fld := ⟨0x21C, 1, 1⟩
def RTC_EVENT_ALM0 : Fld := ⟨0x21C, 0, 0⟩
/-- RTC_EVENT_EN, 0x21D (R335). -/
def RTC_EVENT_EN : Fld := ⟨0x21D, 17, 0⟩
def RTC_EVENT_EN_EN : Fld := ⟨0x21D, 5, 0⟩
/-- ID_VENDOR, 0x000 (R350). -/
def ID_VENDOR : Fld := ⟨0x000, 17, 0⟩
def ID_VENDOR_VENDOR : Fld := ⟨0x000, 15, 0⟩
/-- ID_PART, 0x001 (R350). -/
def ID_PART : Fld := ⟨0x001, 17, 0⟩
def ID_PART_PART : Fld := ⟨0x001, 15, 0⟩
/-- ID_REV, 0x002 (R350). -/
def ID_REV : Fld := ⟨0x002, 17, 0⟩
def ID_REV_MAJOR : Fld := ⟨0x002, 7, 4⟩
def ID_REV_MINOR : Fld := ⟨0x002, 3, 0⟩
/-- ID_CONFIG, 0x003 (R350). -/
def ID_CONFIG : Fld := ⟨0x003, 17, 0⟩
def ID_CONFIG_CODE : Fld := ⟨0x003, 15, 14⟩
def ID_CONFIG_STN_EN : Fld := ⟨0x003, 13, 6⟩
def ID_CONFIG_NSTN : Fld := ⟨0x003, 5, 2⟩
/-- ID_SERIAL_i, 0x004 + i (i = 0 to 3) (R350). -/
def ID_SERIAL (i : Nat) : Fld := ⟨0x004 + i, 17, 0⟩
def ID_SERIAL_SERIAL (i : Nat) : Fld := ⟨0x004 + i, 15, 0⟩
/-- ID_STRAP, 0x008 (R350). -/
def ID_STRAP : Fld := ⟨0x008, 17, 0⟩
def ID_STRAP_ERR : Fld := ⟨0x008, 15, 8⟩
def ID_STRAP_MP : Fld := ⟨0x008, 7, 0⟩
/-- ID_PHASE, 0x009 (R350). -/
def ID_PHASE : Fld := ⟨0x009, 17, 0⟩
def ID_PHASE_STATE : Fld := ⟨0x009, 17, 15⟩
def ID_PHASE_PIN : Fld := ⟨0x009, 14, 12⟩
def ID_PHASE_HUB : Fld := ⟨0x009, 11, 11⟩
def ID_PHASE_TEST : Fld := ⟨0x009, 10, 10⟩
/-- ID_RESET, 0x00A (R350). -/
def ID_RESET : Fld := ⟨0x00A, 17, 0⟩
def ID_RESET_WARM : Fld := ⟨0x00A, 17, 17⟩
def ID_RESET_LAST : Fld := ⟨0x00A, 13, 12⟩
def ID_RESET_KEY : Fld := ⟨0x00A, 11, 0⟩
/-- ID_LC, 0x00B (R350). -/
def ID_LC : Fld := ⟨0x00B, 17, 0⟩
def ID_LC_STATE : Fld := ⟨0x00B, 17, 16⟩
def ID_LC_WIPING : Fld := ⟨0x00B, 15, 15⟩
def ID_LC_CHANGES : Fld := ⟨0x00B, 14, 0⟩
/-- ID_MPORT, 0x00C (R350). -/
def ID_MPORT : Fld := ⟨0x00C, 17, 0⟩
def ID_MPORT_REASON : Fld := ⟨0x00C, 17, 15⟩
def ID_MPORT_SHORT : Fld := ⟨0x00C, 14, 14⟩
def ID_MPORT_ADDR : Fld := ⟨0x00C, 13, 0⟩
/-- ID_INT0, 0x00D (R350). -/
def ID_INT0 : Fld := ⟨0x00D, 17, 0⟩
def ID_INT0_SRC : Fld := ⟨0x00D, 10, 0⟩
/-- SWP_CTL, 0xD00 (R375). -/
def SWP_CTL : Fld := ⟨0xD00, 17, 0⟩
def SWP_CTL_EN : Fld := ⟨0xD00, 17, 17⟩
def SWP_CTL_RUN_NOW : Fld := ⟨0xD00, 16, 16⟩
def SWP_CTL_PERIOD : Fld := ⟨0xD00, 15, 9⟩
def SWP_CTL_TESTS : Fld := ⟨0xD00, 8, 0⟩
/-- SWP_STAT, 0xD01 (R375). -/
def SWP_STAT : Fld := ⟨0xD01, 17, 0⟩
def SWP_STAT_ACTIVE : Fld := ⟨0xD01, 17, 17⟩
def SWP_STAT_LAG : Fld := ⟨0xD01, 16, 16⟩
def SWP_STAT_PCT : Fld := ⟨0xD01, 15, 9⟩
def SWP_STAT_TEST : Fld := ⟨0xD01, 8, 5⟩
/-- SWP_CYCLES, 0xD02 (R375). -/
def SWP_CYCLES : Fld := ⟨0xD02, 17, 0⟩
def SWP_CYCLES_COUNT : Fld := ⟨0xD02, 17, 0⟩
/-- SWP_LASTCYC, 0xD03 (R375). -/
def SWP_LASTCYC : Fld := ⟨0xD03, 17, 0⟩
def SWP_LASTCYC_MINUTES : Fld := ⟨0xD03, 17, 0⟩
/-- SWP_YIELDS, 0xD04 (R375). -/
def SWP_YIELDS : Fld := ⟨0xD04, 17, 0⟩
def SWP_YIELDS_COUNT : Fld := ⟨0xD04, 17, 0⟩
/-- SWP_XTAL, 0xD05 (R375). -/
def SWP_XTAL : Fld := ⟨0xD05, 17, 0⟩
def SWP_XTAL_VALID : Fld := ⟨0xD05, 17, 17⟩
def SWP_XTAL_DEV : Fld := ⟨0xD05, 15, 0⟩
/-- SWP_EVENT, 0xD06 (R375). -/
def SWP_EVENT : Fld := ⟨0xD06, 17, 0⟩
def SWP_EVENT_CYCLE : Fld := ⟨0xD06, 4, 4⟩
def SWP_EVENT_LAG : Fld := ⟨0xD06, 3, 3⟩
def SWP_EVENT_DEAD : Fld := ⟨0xD06, 2, 2⟩
def SWP_EVENT_MARGIN : Fld := ⟨0xD06, 1, 1⟩
def SWP_EVENT_FAIL : Fld := ⟨0xD06, 0, 0⟩
/-- SWP_EVENT_EN, 0xD07 (R375). -/
def SWP_EVENT_EN : Fld := ⟨0xD07, 17, 0⟩
def SWP_EVENT_EN_EN : Fld := ⟨0xD07, 4, 0⟩
/-- SWP_FAULT, 0xD08 (R375). -/
def SWP_FAULT : Fld := ⟨0xD08, 17, 0⟩
def SWP_FAULT_REGION63 : Fld := ⟨0xD08, 5, 5⟩
def SWP_FAULT_FWC : Fld := ⟨0xD08, 4, 4⟩
def SWP_FAULT_CORE : Fld := ⟨0xD08, 3, 3⟩
def SWP_FAULT_SPARE_BAD : Fld := ⟨0xD08, 2, 2⟩
def SWP_FAULT_COMP : Fld := ⟨0xD08, 1, 1⟩
def SWP_FAULT_MARGIN : Fld := ⟨0xD08, 0, 0⟩
/-- SWP_FAULT_EN, 0xD09 (R375). -/
def SWP_FAULT_EN : Fld := ⟨0xD09, 17, 0⟩
def SWP_FAULT_EN_EN : Fld := ⟨0xD09, 4, 0⟩
/-- SWP_LOG_SEQ_LO, 0xD0A; SWP_LOG_SEQ_HI, 0xD0B (R375). -/
def SWP_LOG_SEQ_LO : Fld := ⟨0xD0A, 17, 0⟩
def SWP_LOG_SEQ_LO_SEQ : Fld := ⟨0xD0A, 17, 0⟩
/-- SWP_LOG_SEQ_LO, 0xD0A; SWP_LOG_SEQ_HI, 0xD0B (R375). -/
def SWP_LOG_SEQ_HI : Fld := ⟨0xD0B, 17, 0⟩
def SWP_LOG_SEQ_HI_SEQ : Fld := ⟨0xD0B, 17, 0⟩
/-- SWP_LOG_SEL, 0xD0C (R375). -/
def SWP_LOG_SEL : Fld := ⟨0xD0C, 17, 0⟩
def SWP_LOG_SEL_INDEX : Fld := ⟨0xD0C, 15, 0⟩
/-- SWP_LOG_Wk, 0xD10 + k (k = 0 to 7) (R375). -/
def SWP_LOG_W (k : Nat) : Fld := ⟨0xD10 + k, 17, 0⟩
def SWP_LOG_W_WORD (k : Nat) : Fld := ⟨0xD10 + k, 17, 0⟩
/-- FW_CMD, 0xE00 (R376). -/
def FW_CMD : Fld := ⟨0xE00, 17, 0⟩
def FW_CMD_CMD : Fld := ⟨0xE00, 17, 15⟩
def FW_CMD_SLOT : Fld := ⟨0xE00, 14, 14⟩
/-- FW_SRC_LO, 0xE01; FW_SRC_HI, 0xE02 (R376). -/
def FW_SRC_LO : Fld := ⟨0xE01, 17, 0⟩
def FW_SRC_LO_SRC : Fld := ⟨0xE01, 17, 0⟩
/-- FW_SRC_LO, 0xE01; FW_SRC_HI, 0xE02 (R376). -/
def FW_SRC_HI : Fld := ⟨0xE02, 17, 0⟩
def FW_SRC_HI_SRC : Fld := ⟨0xE02, 17, 0⟩
/-- FW_LEN, 0xE03 (R376). -/
def FW_LEN : Fld := ⟨0xE03, 17, 0⟩
def FW_LEN_LEN : Fld := ⟨0xE03, 16, 0⟩
/-- FW_RIGHTS, 0xE04 (R376). -/
def FW_RIGHTS : Fld := ⟨0xE04, 17, 0⟩
def FW_RIGHTS_RIGHTS : Fld := ⟨0xE04, 3, 0⟩
/-- FW_STAT, 0xE05 (R376). -/
def FW_STAT : Fld := ⟨0xE05, 17, 0⟩
def FW_STAT_OP : Fld := ⟨0xE05, 17, 15⟩
def FW_STAT_RUN : Fld := ⟨0xE05, 14, 13⟩
def FW_STAT_RESULT : Fld := ⟨0xE05, 12, 10⟩
def FW_STAT_ACT_CLU : Fld := ⟨0xE05, 9, 8⟩
def FW_STAT_CLU_ON : Fld := ⟨0xE05, 7, 4⟩
/-- FW_CORES, 0xE06 (R376). -/
def FW_CORES : Fld := ⟨0xE06, 17, 0⟩
def FW_CORES_ON : Fld := ⟨0xE06, 15, 0⟩
/-- FW_SLOT_s, 0xE08 + s (s = 0, 1) (R376). -/
def FW_SLOT (s : Nat) : Fld := ⟨0xE08 + s, 17, 0⟩
def FW_SLOT_STATE (s : Nat) : Fld := ⟨0xE08 + s, 17, 15⟩
/-- FW_VER_s_LO, 0xE0A + 2s; FW_VER_s_HI, 0xE0B + 2s (R376). -/
def FW_VER_LO (s : Nat) : Fld := ⟨0xE0A + 2 * s, 17, 0⟩
def FW_VER_LO_VERSION (s : Nat) : Fld := ⟨0xE0A + 2 * s, 17, 0⟩
/-- FW_VER_s_LO, 0xE0A + 2s; FW_VER_s_HI, 0xE0B + 2s (R376). -/
def FW_VER_HI (s : Nat) : Fld := ⟨0xE0B + 2 * s, 17, 0⟩
def FW_VER_HI_VERSION (s : Nat) : Fld := ⟨0xE0B + 2 * s, 17, 0⟩
/-- FW_FLOOR_LO, 0xE0E; FW_FLOOR_HI, 0xE0F (R376). -/
def FW_FLOOR_LO : Fld := ⟨0xE0E, 17, 0⟩
def FW_FLOOR_LO_FLOOR : Fld := ⟨0xE0E, 17, 0⟩
/-- FW_FLOOR_LO, 0xE0E; FW_FLOOR_HI, 0xE0F (R376). -/
def FW_FLOOR_HI : Fld := ⟨0xE0F, 17, 0⟩
def FW_FLOOR_HI_FLOOR : Fld := ⟨0xE0F, 17, 0⟩
/-- FW_TOKEN, 0xE10 (R376). -/
def FW_TOKEN : Fld := ⟨0xE10, 17, 0⟩
def FW_TOKEN_WORD : Fld := ⟨0xE10, 15, 0⟩
/-- FW_TOK_STAT, 0xE11 (R376). -/
def FW_TOK_STAT : Fld := ⟨0xE11, 17, 0⟩
def FW_TOK_STAT_RESULT : Fld := ⟨0xE11, 17, 16⟩
def FW_TOK_STAT_COUNT : Fld := ⟨0xE11, 5, 0⟩
/-- FW_EVENT, 0xE12 (R376). -/
def FW_EVENT : Fld := ⟨0xE12, 17, 0⟩
def FW_EVENT_LC_REFUSED : Fld := ⟨0xE12, 5, 5⟩
def FW_EVENT_CLU_OUT : Fld := ⟨0xE12, 4, 4⟩
def FW_EVENT_CORE_OUT : Fld := ⟨0xE12, 3, 3⟩
def FW_EVENT_ACT_DONE : Fld := ⟨0xE12, 2, 2⟩
def FW_EVENT_FAIL : Fld := ⟨0xE12, 1, 1⟩
def FW_EVENT_LOAD_DONE : Fld := ⟨0xE12, 0, 0⟩
/-- FW_EVENT_EN, 0xE13 (R376). -/
def FW_EVENT_EN : Fld := ⟨0xE13, 17, 0⟩
def FW_EVENT_EN_EN : Fld := ⟨0xE13, 5, 0⟩

end Reg

/-- One or more registers of one layout: `count` of them, `stride` addresses apart, from `base`. -/
structure RegRow where
  base : Nat
  stride : Nat
  count : Nat
  fields : List FieldSpec
  deriving DecidableEq, Repr

/-- The register tables of block 0x000. -/
def regRows0 : List RegRow :=
  [⟨0x0, 1, 1, [⟨15, 0, .ro, 7996⟩]⟩, -- ID_VENDOR
   ⟨0x1, 1, 1, [⟨15, 0, .ro, 29208⟩]⟩, -- ID_PART
   ⟨0x2, 1, 1, [⟨7, 4, .ro, 1⟩, ⟨3, 0, .ro, 0⟩]⟩, -- ID_REV
   ⟨0x3, 1, 1, [⟨15, 14, .ro, 0⟩, ⟨13, 6, .ro, 1⟩, ⟨5, 2, .ro, 1⟩]⟩, -- ID_CONFIG
   ⟨0x4, 1, 4, [⟨15, 0, .ro, 0⟩]⟩, -- ID_SERIAL
   ⟨0x8, 1, 1, [⟨15, 8, .ro, 0⟩, ⟨7, 0, .ro, 0⟩]⟩, -- ID_STRAP
   ⟨0x9, 1, 1, [⟨17, 15, .ro, 1⟩, ⟨14, 12, .ro, 0⟩, ⟨11, 11, .ro, 0⟩, ⟨10, 10, .ro, 0⟩]⟩, -- ID_PHASE
   ⟨0xA, 1, 1, [⟨17, 17, .wo, 0⟩, ⟨13, 12, .ro, 0⟩, ⟨11, 0, .wo, 0⟩]⟩, -- ID_RESET
   ⟨0xB, 1, 1, [⟨17, 16, .ro, 1⟩, ⟨15, 15, .ro, 0⟩, ⟨14, 0, .ro, 1⟩]⟩, -- ID_LC
   ⟨0xC, 1, 1, [⟨17, 15, .ro, 0⟩, ⟨14, 14, .w1c, 0⟩, ⟨13, 0, .ro, 0⟩]⟩, -- ID_MPORT
   ⟨0xD, 1, 1, [⟨10, 0, .ro, 0⟩]⟩] -- ID_INT0

/-- The register tables of block 0x100. -/
def regRows1 : List RegRow :=
  [⟨0x100, 1, 1, [⟨15, 8, .rwl, 250⟩, ⟨7, 0, .rwl, 140⟩]⟩, -- SUP_LIM
   ⟨0x101, 1, 1, [⟨15, 8, .rwl, 205⟩, ⟨7, 0, .rwl, 38⟩]⟩, -- SUP_LIM
   ⟨0x102, 1, 1, [⟨15, 8, .rwl, 97⟩, ⟨7, 0, .rwl, 78⟩]⟩, -- SUP_LIM
   ⟨0x103, 1, 1, [⟨15, 8, .rwl, 110⟩, ⟨7, 0, .rwl, 90⟩]⟩, -- SUP_LIM
   ⟨0x104, 1, 1, [⟨15, 8, .rwl, 85⟩, ⟨7, 0, .rwl, 65⟩]⟩, -- SUP_LIM
   ⟨0x105, 1, 1, [⟨15, 8, .rwl, 136⟩, ⟨7, 0, .rwl, 114⟩]⟩, -- SUP_LIM
   ⟨0x106, 1, 1, [⟨15, 8, .rwl, 215⟩, ⟨7, 0, .rwl, 185⟩]⟩, -- SUP_LIM
   ⟨0x107, 1, 1, [⟨15, 8, .rwl, 111⟩, ⟨7, 0, .rwl, 89⟩]⟩, -- SUP_LIM
   ⟨0x108, 1, 1, [⟨15, 8, .rwl, 183⟩, ⟨7, 0, .rwl, 142⟩]⟩, -- SUP_LIM
   ⟨0x109, 1, 1, [⟨15, 8, .rwl, 200⟩, ⟨7, 0, .rwl, 50⟩]⟩, -- SUP_LIM
   ⟨0x10A, 1, 1, [⟨15, 8, .rwl, 255⟩, ⟨7, 0, .rwl, 0⟩]⟩, -- SUP_LIM
   ⟨0x10B, 1, 1, [⟨15, 8, .rwl, 255⟩, ⟨7, 0, .rwl, 0⟩]⟩, -- SUP_LIM
   ⟨0x110, 1, 1, [⟨17, 17, .rwl, 1⟩, ⟨16, 13, .rwl, 2⟩, ⟨12, 11, .rwl, 3⟩, ⟨10, 9, .rwl, 2⟩, ⟨8, 5, .rwl, 15⟩]⟩, -- SUP_CTL
   ⟨0x111, 1, 1, [⟨17, 17, .rwl, 1⟩, ⟨16, 13, .rwl, 8⟩, ⟨12, 11, .rwl, 0⟩, ⟨10, 9, .rwl, 2⟩, ⟨8, 5, .rwl, 15⟩]⟩, -- SUP_CTL
   ⟨0x112, 1, 1, [⟨17, 17, .rwl, 1⟩, ⟨16, 13, .rwl, 4⟩, ⟨12, 11, .rwl, 3⟩, ⟨10, 9, .rwl, 3⟩, ⟨8, 5, .rwl, 0⟩]⟩, -- SUP_CTL
   ⟨0x113, 1, 1, [⟨17, 17, .rwl, 1⟩, ⟨16, 13, .rwl, 4⟩, ⟨12, 11, .rwl, 3⟩, ⟨10, 9, .rwl, 3⟩, ⟨8, 5, .rwl, 1⟩]⟩, -- SUP_CTL
   ⟨0x114, 1, 1, [⟨17, 17, .rwl, 1⟩, ⟨16, 13, .rwl, 4⟩, ⟨12, 11, .rwl, 3⟩, ⟨10, 9, .rwl, 3⟩, ⟨8, 5, .rwl, 5⟩]⟩, -- SUP_CTL
   ⟨0x115, 1, 1, [⟨17, 17, .rwl, 1⟩, ⟨16, 13, .rwl, 4⟩, ⟨12, 11, .rwl, 3⟩, ⟨10, 9, .rwl, 3⟩, ⟨8, 5, .rwl, 2⟩]⟩, -- SUP_CTL
   ⟨0x116, 1, 1, [⟨17, 17, .rwl, 1⟩, ⟨16, 13, .rwl, 4⟩, ⟨12, 11, .rwl, 3⟩, ⟨10, 9, .rwl, 3⟩, ⟨8, 5, .rwl, 3⟩]⟩, -- SUP_CTL
   ⟨0x117, 1, 1, [⟨17, 17, .rwl, 1⟩, ⟨16, 13, .rwl, 4⟩, ⟨12, 11, .rwl, 3⟩, ⟨10, 9, .rwl, 3⟩, ⟨8, 5, .rwl, 4⟩]⟩, -- SUP_CTL
   ⟨0x118, 1, 1, [⟨17, 17, .rwl, 1⟩, ⟨16, 13, .rwl, 4⟩, ⟨12, 11, .rwl, 3⟩, ⟨10, 9, .rwl, 2⟩, ⟨8, 5, .rwl, 15⟩]⟩, -- SUP_CTL
   ⟨0x119, 1, 1, [⟨17, 17, .rwl, 1⟩, ⟨16, 13, .rwl, 15⟩, ⟨12, 11, .rwl, 1⟩, ⟨10, 9, .rwl, 1⟩, ⟨8, 5, .rwl, 15⟩]⟩, -- SUP_CTL
   ⟨0x11A, 1, 1, [⟨17, 17, .rwl, 0⟩, ⟨16, 13, .rwl, 10⟩, ⟨12, 11, .rwl, 2⟩, ⟨10, 9, .rwl, 2⟩, ⟨8, 5, .rwl, 6⟩]⟩, -- SUP_CTL
   ⟨0x11B, 1, 1, [⟨17, 17, .rwl, 0⟩, ⟨16, 13, .rwl, 10⟩, ⟨12, 11, .rwl, 2⟩, ⟨10, 9, .rwl, 2⟩, ⟨8, 5, .rwl, 7⟩]⟩, -- SUP_CTL
   ⟨0x120, 1, 1, [⟨11, 0, .ro, 0⟩]⟩, -- SUP_OUT
   ⟨0x121, 1, 1, [⟨11, 0, .ro, 0⟩]⟩, -- SUP_ARMED
   ⟨0x122, 1, 1, [⟨17, 17, .w1c, 0⟩, ⟨16, 16, .w1c, 0⟩, ⟨15, 15, .w1c, 0⟩, ⟨14, 14, .w1c, 0⟩, ⟨13, 13, .w1c, 0⟩, ⟨11, 0, .w1c, 0⟩]⟩, -- SUP_EVENT
   ⟨0x123, 1, 1, [⟨17, 13, .rw, 0⟩, ⟨11, 0, .rw, 0⟩]⟩, -- SUP_EVENT_EN
   ⟨0x124, 1, 1, [⟨17, 17, .w1c, 0⟩, ⟨16, 16, .ro, 0⟩, ⟨15, 15, .ro, 0⟩, ⟨14, 11, .ro, 0⟩, ⟨10, 8, .ro, 0⟩, ⟨7, 7, .ro, 0⟩, ⟨6, 6, .ro, 0⟩]⟩, -- SUP_FIRST
   ⟨0x125, 1, 1, [⟨17, 0, .ro, 0⟩]⟩, -- SUP_FIRST_T0
   ⟨0x126, 1, 1, [⟨17, 0, .ro, 0⟩]⟩, -- SUP_FIRST_T1
   ⟨0x127, 1, 1, [⟨15, 8, .ro, 204⟩, ⟨7, 0, .ro, 0⟩]⟩, -- SUP_EN
   ⟨0x128, 1, 1, [⟨17, 17, .wo, 0⟩, ⟨16, 16, .ro, 0⟩, ⟨15, 15, .ro, 0⟩, ⟨14, 14, .ro, 0⟩, ⟨13, 10, .ro, 0⟩]⟩, -- SUP_SCRIPT
   ⟨0x129, 1, 1, [⟨17, 17, .rwl, 1⟩, ⟨7, 0, .rwl, 170⟩]⟩, -- SUP_WARN
   ⟨0x12A, 1, 1, [⟨17, 17, .ro, 0⟩, ⟨16, 16, .ro, 0⟩, ⟨2, 0, .rwl, 5⟩]⟩, -- SUP_CHG
   ⟨0x12B, 1, 1, [⟨17, 17, .wo, 0⟩, ⟨16, 16, .wo, 0⟩, ⟨15, 15, .ro, 0⟩, ⟨3, 0, .rwl, 0⟩]⟩, -- SUP_PWR
   ⟨0x12C, 1, 1, [⟨7, 0, .rwl, 0⟩]⟩] -- SUP_FREE

/-- The register tables of block 0x200. -/
def regRows2 : List RegRow :=
  [⟨0x200, 1, 1, [⟨9, 0, .ro, 0⟩]⟩, -- RTC_SUBSEC
   ⟨0x201, 1, 1, [⟨11, 6, .ro, 0⟩, ⟨5, 0, .ro, 0⟩]⟩, -- RTC_SECMIN
   ⟨0x202, 1, 1, [⟨12, 8, .ro, 1⟩, ⟨7, 5, .ro, 0⟩, ⟨4, 0, .ro, 0⟩]⟩, -- RTC_DAYHR
   ⟨0x203, 1, 1, [⟨17, 17, .ro, 0⟩, ⟨11, 8, .ro, 1⟩, ⟨7, 0, .ro, 0⟩]⟩, -- RTC_YEAR
   ⟨0x204, 1, 1, [⟨17, 0, .ro, 0⟩]⟩, -- RTC_STAMP_LO
   ⟨0x205, 1, 1, [⟨17, 0, .ro, 0⟩]⟩, -- RTC_STAMP_HI
   ⟨0x208, 1, 4, [⟨17, 0, .rwl, 0⟩]⟩, -- RTC_NEW
   ⟨0x20C, 1, 1, [⟨17, 17, .wo, 0⟩]⟩, -- RTC_CMD
   ⟨0x20D, 1, 1, [⟨17, 8, .rwl, 0⟩, ⟨3, 0, .rwl, 0⟩]⟩, -- RTC_CTL
   ⟨0x20E, 1, 1, [⟨17, 17, .ro, 0⟩, ⟨16, 16, .ro, 0⟩, ⟨15, 15, .ro, 0⟩, ⟨14, 14, .ro, 0⟩, ⟨13, 13, .ro, 0⟩, ⟨12, 12, .ro, 0⟩]⟩, -- RTC_STATUS
   ⟨0x210, 4, 2, [⟨17, 17, .rwl, 0⟩, ⟨16, 16, .rwl, 0⟩, ⟨15, 9, .rwl, 0⟩, ⟨8, 6, .rwl, 0⟩, ⟨5, 5, .ro, 0⟩, ⟨4, 4, .ro, 0⟩]⟩, -- RTC_ALM_0
   ⟨0x211, 4, 2, [⟨16, 11, .rwl, 0⟩, ⟨10, 5, .rwl, 0⟩, ⟨4, 0, .rwl, 0⟩]⟩, -- RTC_ALM_1
   ⟨0x212, 4, 2, [⟨16, 9, .rwl, 0⟩, ⟨8, 5, .rwl, 0⟩, ⟨4, 0, .rwl, 0⟩]⟩, -- RTC_ALM_2
   ⟨0x218, 2, 2, [⟨17, 0, .ro, 0⟩]⟩, -- RTC_NEXT_LO
   ⟨0x219, 2, 2, [⟨17, 0, .ro, 0⟩]⟩, -- RTC_NEXT_HI
   ⟨0x21C, 1, 1, [⟨5, 5, .w1c, 0⟩, ⟨4, 4, .w1c, 0⟩, ⟨3, 3, .w1c, 0⟩, ⟨2, 2, .w1c, 0⟩, ⟨1, 1, .w1c, 0⟩, ⟨0, 0, .w1c, 0⟩]⟩, -- RTC_EVENT
   ⟨0x21D, 1, 1, [⟨5, 0, .rw, 0⟩]⟩, -- RTC_EVENT_EN
   ⟨0x280, 1, 1, [⟨17, 16, .rwl, 0⟩, ⟨15, 12, .rwl, 0⟩]⟩, -- KEEP_CTL
   ⟨0x281, 1, 1, [⟨17, 17, .ro, 0⟩, ⟨16, 14, .ro, 0⟩, ⟨13, 12, .ro, 0⟩, ⟨11, 11, .ro, 0⟩, ⟨10, 10, .ro, 0⟩, ⟨9, 9, .ro, 0⟩, ⟨8, 0, .ro, 0⟩]⟩, -- KEEP_STAT
   ⟨0x282, 1, 1, [⟨14, 0, .rw, 0⟩]⟩, -- KEEP_ADDR
   ⟨0x283, 1, 1, [⟨17, 16, .ro, 0⟩, ⟨15, 0, .ro, 0⟩]⟩, -- KEEP_RDATA
   ⟨0x284, 1, 1, [⟨15, 0, .wo, 0⟩]⟩, -- KEEP_WDATA
   ⟨0x285, 1, 1, [⟨17, 17, .wo, 0⟩, ⟨16, 16, .wo, 0⟩, ⟨15, 15, .wo, 0⟩]⟩, -- KEEP_CMD
   ⟨0x286, 1, 1, [⟨6, 6, .w1c, 0⟩, ⟨5, 5, .w1c, 0⟩, ⟨4, 4, .w1c, 0⟩, ⟨3, 3, .w1c, 0⟩, ⟨2, 2, .w1c, 0⟩, ⟨1, 1, .w1c, 0⟩, ⟨0, 0, .w1c, 0⟩]⟩, -- KEEP_EVENT
   ⟨0x287, 1, 1, [⟨6, 0, .rw, 0⟩]⟩, -- KEEP_EVENT_EN
   ⟨0x288, 1, 1, [⟨14, 0, .ro, 0⟩]⟩, -- KEEP_FAIL
   ⟨0x289, 1, 1, [⟨11, 9, .rwl, 0⟩, ⟨8, 0, .rwl, 0⟩]⟩] -- KEEP_HOT

/-- The register tables of block 0x300. -/
def regRows3 : List RegRow :=
  [⟨0x300, 1, 1, [⟨17, 0, .wo, 0⟩]⟩, -- MB_TOA
   ⟨0x301, 1, 1, [⟨17, 0, .wo, 0⟩]⟩, -- MB_TOB
   ⟨0x302, 1, 1, [⟨17, 0, .ro, 0⟩]⟩, -- MB_RXA
   ⟨0x303, 1, 1, [⟨17, 0, .ro, 0⟩]⟩, -- MB_RXB
   ⟨0x304, 1, 1, [⟨17, 17, .ro, 0⟩, ⟨7, 4, .ro, 0⟩, ⟨3, 0, .ro, 0⟩]⟩, -- MB_SRCA
   ⟨0x305, 1, 1, [⟨17, 17, .ro, 0⟩, ⟨7, 4, .ro, 0⟩, ⟨3, 0, .ro, 0⟩]⟩, -- MB_SRCB
   ⟨0x306, 1, 1, [⟨17, 14, .ro, 0⟩, ⟨13, 10, .ro, 0⟩, ⟨9, 9, .w1c, 0⟩, ⟨8, 8, .w1c, 0⟩, ⟨7, 6, .ro, 0⟩]⟩, -- MB_STAT
   ⟨0x307, 1, 1, [⟨15, 12, .ro, 0⟩, ⟨11, 8, .ro, 0⟩, ⟨7, 4, .ro, 0⟩, ⟨3, 0, .ro, 0⟩]⟩, -- MB_COLL
   ⟨0x308, 1, 1, [⟨5, 3, .rwl, 7⟩, ⟨2, 0, .rwl, 7⟩]⟩, -- MB_BIND
   ⟨0x380, 1, 32, [⟨17, 17, .ro, 0⟩, ⟨3, 0, .rw, 0⟩]⟩, -- POSS
   ⟨0x3A0, 1, 5, [⟨16, 16, .w1c, 0⟩, ⟨15, 8, .w1c, 0⟩, ⟨7, 0, .w1c, 0⟩]⟩, -- MB_EVENT
   ⟨0x3A8, 1, 5, [⟨16, 0, .rw, 0⟩]⟩, -- MB_EVENT_EN
   ⟨0x3B0, 1, 1, [⟨15, 0, .ro, 65535⟩]⟩, -- POSS_FREE_LO
   ⟨0x3B1, 1, 1, [⟨15, 0, .ro, 65535⟩]⟩, -- POSS_FREE_HI
   ⟨0x3B2, 1, 1, [⟨15, 0, .wo, 0⟩]⟩, -- POSS_FORCE_LO
   ⟨0x3B3, 1, 1, [⟨15, 0, .wo, 0⟩]⟩] -- POSS_FORCE_HI

/-- The register tables of block 0x400. -/
def regRows4 : List RegRow :=
  [⟨0x400, 1, 1, [⟨3, 0, .rwl, 0⟩]⟩, -- ARR_ADMIN
   ⟨0x401, 1, 1, [⟨13, 7, .ro, 63⟩, ⟨6, 0, .ro, 63⟩]⟩, -- ARR_CAPACITY
   ⟨0x402, 1, 1, [⟨11, 0, .rw, 256⟩]⟩, -- ARR_ECC_CTL
   ⟨0x403, 1, 1, [⟨7, 7, .w1c, 0⟩, ⟨6, 6, .w1c, 0⟩, ⟨5, 5, .w1c, 0⟩, ⟨4, 4, .w1c, 0⟩, ⟨3, 3, .w1c, 0⟩, ⟨2, 2, .w1c, 0⟩, ⟨1, 1, .w1c, 0⟩, ⟨0, 0, .w1c, 0⟩]⟩, -- ARR_EVENT
   ⟨0x404, 1, 1, [⟨7, 0, .rw, 0⟩]⟩, -- ARR_EVENT_EN
   ⟨0x405, 1, 1, [⟨13, 10, .ro, 0⟩, ⟨9, 6, .ro, 0⟩, ⟨5, 0, .ro, 0⟩]⟩, -- ARR_LAST
   ⟨0x406, 1, 1, [⟨17, 0, .ro, 0⟩]⟩, -- ARR_UNCORR_LO
   ⟨0x407, 1, 1, [⟨9, 0, .ro, 0⟩]⟩, -- ARR_UNCORR_HI
   ⟨0x408, 1, 1, [⟨11, 6, .ro, 48⟩, ⟨5, 0, .ro, 0⟩]⟩, -- ARR_SLOTS
   ⟨0x410, 1, 8, [⟨17, 17, .wo, 0⟩, ⟨16, 15, .ro, 0⟩, ⟨14, 12, .ro, 0⟩, ⟨11, 6, .ro, 0⟩, ⟨5, 0, .ro, 0⟩]⟩, -- ARR_MOVE
   ⟨0x440, 1, 63, [⟨17, 15, .ro, 0⟩, ⟨14, 14, .ro, 0⟩, ⟨13, 13, .ro, 0⟩, ⟨12, 10, .ro, 0⟩, ⟨5, 0, .rwl, 63⟩]⟩, -- PART_REGION
   ⟨0x47F, 1, 1, [⟨17, 15, .ro, 6⟩, ⟨14, 14, .ro, 0⟩, ⟨13, 13, .ro, 0⟩, ⟨12, 10, .ro, 0⟩, ⟨5, 0, .rwl, 63⟩]⟩, -- PART_REGION 63
   ⟨0x480, 1, 63, [⟨17, 17, .rwl, 0⟩, ⟨16, 16, .rwl, 0⟩, ⟨15, 15, .rwl, 0⟩, ⟨14, 14, .rwl, 0⟩, ⟨13, 13, .rwl, 0⟩, ⟨2, 0, .rwl, 0⟩]⟩, -- PART_ATTR
   ⟨0x4C0, 1, 63, [⟨9, 8, .rwl, 0⟩, ⟨7, 6, .rwl, 0⟩, ⟨5, 4, .rwl, 0⟩, ⟨3, 2, .rwl, 0⟩, ⟨1, 0, .rwl, 0⟩]⟩] -- PART_RIGHTS

/-- The register tables of block 0x600. -/
def regRows6 : List RegRow :=
  [⟨0x600, 1, 1, [⟨1, 1, .wo, 0⟩, ⟨0, 0, .rw, 0⟩]⟩, -- VOL_CTL
   ⟨0x601, 1, 1, [⟨13, 0, .rwl, 1000⟩]⟩, -- VOL_HOLD
   ⟨0x602, 1, 1, [⟨17, 17, .ro, 0⟩, ⟨16, 13, .ro, 0⟩, ⟨12, 9, .ro, 0⟩, ⟨8, 8, .ro, 0⟩, ⟨7, 7, .ro, 0⟩, ⟨6, 0, .ro, 0⟩]⟩, -- VOL_STATUS
   ⟨0x603, 1, 1, [⟨17, 17, .ro, 0⟩, ⟨16, 7, .ro, 0⟩]⟩, -- VOL_BUDGET
   ⟨0x604, 1, 1, [⟨9, 0, .ro, 0⟩]⟩, -- VOL_VHOLD
   ⟨0x605, 1, 1, [⟨9, 0, .ro, 0⟩]⟩, -- VOL_START_V
   ⟨0x608, 1, 1, [⟨17, 14, .ro, 0⟩, ⟨13, 12, .ro, 0⟩, ⟨11, 8, .ro, 0⟩, ⟨7, 4, .ro, 15⟩, ⟨3, 3, .ro, 0⟩, ⟨2, 2, .ro, 0⟩]⟩, -- VOL_LAST
   ⟨0x609, 1, 1, [⟨9, 0, .ro, 0⟩]⟩, -- VOL_LAST_VHOLD
   ⟨0x60A, 1, 1, [⟨17, 0, .ro, 0⟩]⟩, -- VOL_LAST_TIME
   ⟨0x610, 1, 1, [⟨17, 0, .ro, 1⟩]⟩, -- VOL_NEXT_LO
   ⟨0x611, 1, 1, [⟨17, 0, .ro, 0⟩]⟩, -- VOL_NEXT_HI
   ⟨0x612, 1, 1, [⟨17, 0, .ro, 0⟩]⟩, -- VOL_ATOMIC_LO
   ⟨0x613, 1, 1, [⟨17, 0, .ro, 0⟩]⟩, -- VOL_ATOMIC_HI
   ⟨0x614, 1, 1, [⟨17, 17, .ro, 1⟩, ⟨16, 16, .ro, 0⟩, ⟨15, 15, .ro, 0⟩, ⟨14, 14, .ro, 0⟩, ⟨13, 7, .ro, 0⟩, ⟨6, 0, .ro, 0⟩]⟩, -- VOL_RETURN
   ⟨0x618, 1, 1, [⟨3, 3, .w1c, 0⟩, ⟨2, 2, .w1c, 0⟩, ⟨1, 1, .w1c, 0⟩, ⟨0, 0, .w1c, 0⟩]⟩, -- VOL_EVENT
   ⟨0x619, 1, 1, [⟨3, 0, .rw, 0⟩]⟩, -- VOL_EVENT_EN
   ⟨0x640, 1, 64, [⟨17, 16, .ro, 0⟩, ⟨15, 15, .ro, 0⟩, ⟨14, 14, .ro, 0⟩]⟩] -- VOL_RSTAT

/-- The register tables of block 0x700. -/
def regRows7 : List RegRow :=
  [⟨0x700, 1, 4, [⟨17, 15, .ro, 0⟩, ⟨14, 11, .ro, 0⟩, ⟨10, 10, .ro, 0⟩, ⟨9, 9, .ro, 0⟩, ⟨8, 8, .ro, 0⟩, ⟨7, 0, .ro, 0⟩]⟩, -- HOST_LINK
   ⟨0x704, 1, 4, [⟨17, 17, .wo, 0⟩, ⟨16, 14, .rwl, 5⟩, ⟨9, 0, .rwl, 64⟩]⟩, -- HOST_LCTL
   ⟨0x708, 1, 4, [⟨6, 6, .w1c, 0⟩, ⟨5, 5, .w1c, 0⟩, ⟨4, 4, .w1c, 0⟩, ⟨3, 3, .w1c, 0⟩, ⟨2, 2, .w1c, 0⟩, ⟨1, 1, .w1c, 0⟩, ⟨0, 0, .w1c, 0⟩]⟩, -- HOST_EVENT
   ⟨0x70C, 1, 4, [⟨6, 0, .rw, 0⟩]⟩, -- HOST_EVENT_EN
   ⟨0x710, 1, 4, [⟨17, 14, .ro, 0⟩, ⟨13, 13, .ro, 0⟩, ⟨12, 11, .ro, 0⟩]⟩, -- HOST_ERR
   ⟨0x714, 1, 4, [⟨17, 0, .ro, 0⟩]⟩, -- HOST_CUT
   ⟨0x720, 1, 1, [⟨17, 17, .wo, 0⟩, ⟨16, 14, .rw, 0⟩, ⟨13, 10, .rwl, 0⟩, ⟨9, 6, .rwl, 0⟩]⟩, -- HOST_CTL
   ⟨0x721, 1, 1, [⟨15, 0, .rwl, 0⟩]⟩, -- HOST_SEG
   ⟨0x722, 1, 1, [⟨17, 0, .rwl, 0⟩]⟩, -- HOST_DB_LO
   ⟨0x723, 1, 1, [⟨17, 0, .rwl, 0⟩]⟩, -- HOST_DB_HI
   ⟨0x724, 1, 1, [⟨17, 12, .rw, 10⟩, ⟨9, 0, .rw, 100⟩]⟩, -- HOST_POLL
   ⟨0x725, 1, 3, [⟨17, 17, .rw, 0⟩, ⟨16, 12, .rw, 0⟩, ⟨11, 11, .rw, 0⟩, ⟨10, 6, .rw, 0⟩, ⟨5, 5, .rw, 0⟩, ⟨4, 0, .rw, 0⟩]⟩, -- HOST_IVEC
   ⟨0x728, 2, 4, [⟨17, 0, .rwl, 0⟩]⟩, -- HOST_SQ_BASE_LO
   ⟨0x729, 2, 4, [⟨17, 0, .rwl, 0⟩]⟩, -- HOST_SQ_BASE_HI
   ⟨0x730, 2, 4, [⟨17, 0, .rwl, 0⟩]⟩, -- HOST_CQ_BASE_LO
   ⟨0x731, 2, 4, [⟨17, 0, .rwl, 0⟩]⟩, -- HOST_CQ_BASE_HI
   ⟨0x738, 1, 4, [⟨17, 17, .rwl, 0⟩, ⟨16, 13, .rwl, 0⟩, ⟨12, 11, .rwl, 0⟩, ⟨10, 8, .rwl, 0⟩]⟩, -- HOST_SQ_CFG
   ⟨0x73C, 1, 4, [⟨17, 17, .rwl, 0⟩, ⟨16, 16, .rw, 0⟩, ⟨15, 12, .rwl, 0⟩, ⟨11, 7, .rw, 0⟩, ⟨6, 4, .rw, 0⟩, ⟨3, 0, .rw, 0⟩]⟩, -- HOST_CQ_CFG
   ⟨0x740, 1, 4, [⟨17, 16, .ro, 0⟩, ⟨15, 0, .ro, 0⟩]⟩, -- HOST_SQ_STAT
   ⟨0x744, 1, 4, [⟨17, 17, .ro, 0⟩, ⟨16, 16, .ro, 0⟩, ⟨15, 0, .ro, 0⟩]⟩, -- HOST_CQ_STAT
   ⟨0x748, 4, 4, [⟨17, 0, .rwl, 0⟩]⟩, -- HOST_WIN_BASE_LO
   ⟨0x749, 4, 4, [⟨17, 0, .rwl, 0⟩]⟩, -- HOST_WIN_BASE_HI
   ⟨0x74A, 4, 4, [⟨17, 0, .rwl, 0⟩]⟩, -- HOST_WIN_LIM_LO
   ⟨0x74B, 4, 4, [⟨17, 0, .rwl, 0⟩]⟩] -- HOST_WIN_LIM_HI

/-- The register tables of block 0x800. -/
def regRows8 : List RegRow :=
  [⟨0x800, 1, 1, [⟨17, 17, .wo, 0⟩, ⟨16, 16, .wo, 0⟩, ⟨15, 15, .rwl, 0⟩, ⟨14, 11, .rwl, 1⟩]⟩, -- STN_CTL
   ⟨0x801, 1, 1, [⟨2, 0, .rwl, 0⟩]⟩, -- STN_OWNER
   ⟨0x802, 1, 1, [⟨17, 17, .ro, 0⟩, ⟨16, 16, .ro, 0⟩, ⟨15, 15, .ro, 0⟩, ⟨14, 14, .ro, 0⟩, ⟨13, 13, .ro, 0⟩, ⟨12, 12, .ro, 0⟩]⟩, -- STN_STATUS
   ⟨0x803, 1, 1, [⟨12, 12, .w1c, 0⟩, ⟨11, 11, .w1c, 0⟩, ⟨10, 10, .w1c, 0⟩, ⟨9, 9, .w1c, 0⟩, ⟨8, 8, .w1c, 0⟩, ⟨7, 7, .w1c, 0⟩, ⟨6, 6, .w1c, 0⟩, ⟨5, 5, .w1c, 0⟩, ⟨4, 4, .w1c, 0⟩, ⟨3, 3, .w1c, 0⟩, ⟨2, 2, .w1c, 0⟩, ⟨1, 1, .w1c, 0⟩, ⟨0, 0, .w1c, 0⟩]⟩, -- STN_EVENT
   ⟨0x804, 1, 1, [⟨12, 0, .rw, 0⟩]⟩, -- STN_EVENT_EN
   ⟨0x808, 1, 1, [⟨2, 0, .ro, 0⟩]⟩, -- STN_ARM_ERR
   ⟨0x809, 1, 1, [⟨17, 0, .rwl, 0⟩]⟩, -- STN_RING_LO
   ⟨0x80A, 1, 1, [⟨6, 0, .rwl, 0⟩]⟩, -- STN_RING_HI
   ⟨0x80B, 1, 1, [⟨13, 0, .rwl, 0⟩]⟩, -- STN_RING_SIZE
   ⟨0x80C, 1, 1, [⟨9, 0, .rwl, 768⟩]⟩, -- STN_LINE
   ⟨0x810, 1, 1, [⟨11, 0, .rwl, 2500⟩]⟩, -- STN_RATE
   ⟨0x811, 1, 1, [⟨1, 1, .rwl, 0⟩, ⟨0, 0, .rwl, 0⟩]⟩, -- STN_ENC
   ⟨0x812, 1, 1, [⟨17, 0, .rwl, 0⟩]⟩, -- STN_ENC_K
   ⟨0x813, 1, 1, [⟨11, 6, .rwl, 24⟩, ⟨5, 0, .rwl, 8⟩]⟩, -- STN_GEOM_CTL
   ⟨0x814, 1, 1, [⟨17, 0, .rwl, 0⟩]⟩, -- STN_FIRST
   ⟨0x815, 1, 1, [⟨15, 0, .rw, 0⟩]⟩, -- STN_GAP
   ⟨0x816, 1, 1, [⟨13, 0, .rwl, 0⟩]⟩, -- STN_LEAD
   ⟨0x817, 1, 1, [⟨17, 9, .rw, 256⟩, ⟨8, 0, .rw, 205⟩]⟩, -- STN_DERATE
   ⟨0x818, 1, 1, [⟨1, 0, .ro, 0⟩]⟩, -- STN_TEMP
   ⟨0x819, 1, 1, [⟨14, 0, .ro, 0⟩]⟩, -- STN_TBL_STAT
   ⟨0x81A, 1, 1, [⟨17, 13, .ro, 0⟩, ⟨4, 0, .wo, 0⟩]⟩, -- STN_TBL_CTL
   ⟨0x81B, 1, 1, [⟨17, 14, .ro, 0⟩]⟩, -- STN_SPOIL
   ⟨0x81C, 1, 1, [⟨17, 0, .ro, 0⟩]⟩, -- STN_SPOILS
   ⟨0x81D, 1, 1, [⟨17, 0, .ro, 0⟩]⟩, -- STN_SAT
   ⟨0x820, 1, 4, [⟨17, 0, .w1c, 0⟩]⟩, -- STN_DEAD
   ⟨0x824, 1, 1, [⟨12, 8, .ro, 0⟩, ⟨7, 7, .ro, 0⟩, ⟨6, 0, .ro, 0⟩]⟩, -- STN_COVER
   ⟨0x828, 1, 1, [⟨17, 14, .ro, 0⟩, ⟨13, 0, .ro, 0⟩]⟩, -- STN_FACET
   ⟨0x829, 1, 1, [⟨17, 0, .ro, 0⟩]⟩, -- STN_X_LO
   ⟨0x82A, 1, 1, [⟨17, 0, .ro, 0⟩]⟩, -- STN_X_HI
   ⟨0x840, 1, 1, [⟨17, 17, .rwl, 0⟩, ⟨16, 16, .rwl, 1⟩, ⟨15, 8, .rwl, 32⟩]⟩, -- STN_SXS_CTL
   ⟨0x841, 1, 1, [⟨17, 0, .rwl, 60000⟩]⟩, -- STN_SXS_T
   ⟨0x842, 1, 1, [⟨17, 0, .rwl, 1000⟩]⟩, -- STN_SXS_HOLD
   ⟨0x843, 1, 1, [⟨17, 0, .rwl, 40000⟩]⟩, -- STN_DOT
   ⟨0x844, 1, 1, [⟨17, 17, .rw, 0⟩, ⟨16, 15, .rw, 2⟩, ⟨14, 11, .wo, 0⟩]⟩, -- STN_MAG
   ⟨0x845, 1, 1, [⟨17, 0, .ro, 0⟩]⟩, -- STN_TMEAS_LO
   ⟨0x846, 1, 1, [⟨3, 0, .ro, 0⟩]⟩, -- STN_TMEAS_HI
   ⟨0x847, 1, 1, [⟨12, 12, .w1c, 0⟩, ⟨11, 11, .w1c, 0⟩, ⟨10, 10, .w1c, 0⟩, ⟨9, 9, .w1c, 0⟩, ⟨8, 8, .w1c, 0⟩, ⟨7, 7, .w1c, 0⟩, ⟨6, 6, .w1c, 0⟩, ⟨5, 5, .w1c, 0⟩, ⟨4, 4, .w1c, 0⟩, ⟨3, 3, .w1c, 0⟩, ⟨2, 2, .w1c, 0⟩, ⟨1, 1, .w1c, 0⟩, ⟨0, 0, .w1c, 0⟩]⟩, -- STN_LEVENT
   ⟨0x848, 1, 1, [⟨12, 0, .rw, 0⟩]⟩, -- STN_LEVENT_EN
   ⟨0x849, 1, 1, [⟨17, 0, .ro, 0⟩]⟩, -- STN_ENC_LO
   ⟨0x84A, 1, 1, [⟨13, 0, .ro, 0⟩]⟩, -- STN_ENC_HI
   ⟨0x84B, 1, 1, [⟨17, 17, .ro, 0⟩, ⟨16, 16, .w1c, 0⟩, ⟨15, 8, .ro, 0⟩, ⟨7, 0, .ro, 0⟩]⟩, -- STN_ENC_STAT
   ⟨0x850, 1, 12, [⟨17, 17, .ro, 0⟩, ⟨15, 0, .ro, 0⟩]⟩, -- STN_MTRIM
   ⟨0x860, 1, 1, [⟨17, 17, .wo, 0⟩, ⟨16, 13, .rw, 6⟩, ⟨12, 5, .rwl, 0⟩]⟩, -- STN_LINK_CTL
   ⟨0x861, 1, 1, [⟨17, 15, .ro, 0⟩, ⟨14, 7, .ro, 0⟩, ⟨6, 3, .ro, 0⟩]⟩, -- STN_LINK_STAT
   ⟨0x862, 1, 1, [⟨17, 0, .ro, 0⟩]⟩, -- STN_LINK_PRE0
   ⟨0x863, 1, 1, [⟨5, 0, .ro, 0⟩]⟩, -- STN_LINK_PRE1
   ⟨0x864, 1, 1, [⟨15, 8, .ro, 0⟩, ⟨7, 0, .ro, 0⟩]⟩, -- STN_LINK_INFO
   ⟨0x865, 1, 1, [⟨15, 0, .rw, 32768⟩]⟩, -- STN_SCALE
   ⟨0x866, 1, 1, [⟨17, 9, .ro, 0⟩, ⟨8, 0, .ro, 0⟩]⟩, -- STN_LINK_CNT
   ⟨0x868, 1, 1, [⟨17, 17, .wo, 0⟩, ⟨16, 16, .rw, 0⟩, ⟨6, 0, .rw, 0⟩]⟩, -- STN_SB_CMD
   ⟨0x869, 1, 1, [⟨15, 0, .rw, 0⟩]⟩, -- STN_SB_DATA
   ⟨0x86A, 1, 1, [⟨17, 17, .ro, 0⟩, ⟨16, 15, .ro, 0⟩]⟩, -- STN_SB_STAT
   ⟨0x86B, 1, 1, [⟨13, 11, .ro, 0⟩, ⟨10, 3, .ro, 0⟩]⟩] -- STN_SB_RPT

/-- The register tables of block 0xC00. -/
def regRowsC : List RegRow :=
  [⟨0xC00, 1, 1, [⟨17, 17, .rwl, 0⟩, ⟨16, 16, .rwl, 0⟩, ⟨15, 15, .rwl, 0⟩, ⟨14, 14, .rwl, 0⟩]⟩, -- LED_CTL
   ⟨0xC01, 1, 1, [⟨17, 12, .rw, 20⟩, ⟨11, 6, .rw, 20⟩, ⟨5, 0, .rw, 20⟩]⟩, -- LED_TMO
   ⟨0xC02, 1, 1, [⟨7, 7, .w1c, 0⟩, ⟨6, 6, .w1c, 0⟩, ⟨5, 5, .w1c, 0⟩, ⟨4, 4, .w1c, 0⟩, ⟨3, 3, .w1c, 0⟩, ⟨2, 2, .w1c, 0⟩, ⟨1, 1, .w1c, 0⟩, ⟨0, 0, .w1c, 0⟩]⟩, -- LED_EVENT
   ⟨0xC03, 1, 1, [⟨7, 0, .rw, 0⟩]⟩, -- LED_EVENT_EN
   ⟨0xC04, 1, 1, [⟨17, 0, .ro, 0⟩]⟩, -- LED_NEXT_LO
   ⟨0xC05, 1, 1, [⟨1, 0, .ro, 0⟩]⟩, -- LED_NEXT_HI
   ⟨0xC06, 1, 1, [⟨16, 0, .ro, 0⟩]⟩, -- LED_OPEN
   ⟨0xC07, 1, 1, [⟨16, 0, .ro, 0⟩]⟩, -- LED_CUT
   ⟨0xC08, 1, 1, [⟨17, 12, .ro, 0⟩, ⟨11, 6, .ro, 0⟩, ⟨5, 0, .ro, 0⟩]⟩, -- LED_Q
   ⟨0xC09, 1, 1, [⟨15, 12, .ro, 0⟩, ⟨11, 8, .ro, 0⟩, ⟨7, 4, .ro, 0⟩, ⟨3, 0, .ro, 0⟩]⟩, -- LED_STRAY
   ⟨0xC10, 1, 16, [⟨3, 0, .rwl, 0⟩]⟩, -- LED_CNT_SRC
   ⟨0xC20, 1, 1, [⟨3, 0, .rwl, 0⟩]⟩, -- LED_CNT_SEL
   ⟨0xC21, 1, 3, [⟨17, 0, .ro, 0⟩]⟩, -- LED_CNT_V
   ⟨0xC24, 1, 3, [⟨17, 0, .ro, 0⟩]⟩, -- LED_CRD_V
   ⟨0xC27, 1, 1, [⟨15, 0, .w1c, 0⟩]⟩, -- LED_CREDIT
   ⟨0xC28, 1, 1, [⟨17, 0, .ro, 0⟩]⟩, -- LED_KEEP_LO
   ⟨0xC29, 1, 1, [⟨13, 0, .ro, 0⟩]⟩, -- LED_KEEP_HI
   ⟨0xC2A, 1, 1, [⟨17, 17, .ro, 0⟩, ⟨16, 16, .ro, 0⟩, ⟨15, 10, .ro, 0⟩, ⟨9, 8, .ro, 0⟩, ⟨6, 0, .ro, 0⟩]⟩] -- LED_KEEP_STAT

/-- The register tables of block 0xD00. -/
def regRowsD : List RegRow :=
  [⟨0xD00, 1, 1, [⟨17, 17, .rwl, 1⟩, ⟨16, 16, .wo, 0⟩, ⟨15, 9, .rwl, 24⟩, ⟨8, 0, .rwl, 511⟩]⟩, -- SWP_CTL
   ⟨0xD01, 1, 1, [⟨17, 17, .ro, 0⟩, ⟨16, 16, .ro, 0⟩, ⟨15, 9, .ro, 0⟩, ⟨8, 5, .ro, 0⟩]⟩, -- SWP_STAT
   ⟨0xD02, 1, 1, [⟨17, 0, .ro, 0⟩]⟩, -- SWP_CYCLES
   ⟨0xD03, 1, 1, [⟨17, 0, .ro, 0⟩]⟩, -- SWP_LASTCYC
   ⟨0xD04, 1, 1, [⟨17, 0, .ro, 0⟩]⟩, -- SWP_YIELDS
   ⟨0xD05, 1, 1, [⟨17, 17, .ro, 0⟩, ⟨15, 0, .ro, 0⟩]⟩, -- SWP_XTAL
   ⟨0xD06, 1, 1, [⟨4, 4, .w1c, 0⟩, ⟨3, 3, .w1c, 0⟩, ⟨2, 2, .w1c, 0⟩, ⟨1, 1, .w1c, 0⟩, ⟨0, 0, .w1c, 0⟩]⟩, -- SWP_EVENT
   ⟨0xD07, 1, 1, [⟨4, 0, .rw, 0⟩]⟩, -- SWP_EVENT_EN
   ⟨0xD08, 1, 1, [⟨5, 5, .ro, 0⟩, ⟨4, 4, .ro, 0⟩, ⟨3, 3, .ro, 0⟩, ⟨2, 2, .ro, 0⟩, ⟨1, 1, .w1c, 0⟩, ⟨0, 0, .w1c, 0⟩]⟩, -- SWP_FAULT
   ⟨0xD09, 1, 1, [⟨4, 0, .rwl, 31⟩]⟩, -- SWP_FAULT_EN
   ⟨0xD0A, 1, 1, [⟨17, 0, .ro, 0⟩]⟩, -- SWP_LOG_SEQ_LO
   ⟨0xD0B, 1, 1, [⟨17, 0, .ro, 0⟩]⟩, -- SWP_LOG_SEQ_HI
   ⟨0xD0C, 1, 1, [⟨15, 0, .rw, 0⟩]⟩, -- SWP_LOG_SEL
   ⟨0xD10, 1, 8, [⟨17, 0, .ro, 0⟩]⟩] -- SWP_LOG_W

/-- The register tables of block 0xE00. -/
def regRowsE : List RegRow :=
  [⟨0xE00, 1, 1, [⟨17, 15, .wo, 0⟩, ⟨14, 14, .wo, 0⟩]⟩, -- FW_CMD
   ⟨0xE01, 1, 1, [⟨17, 0, .rwl, 0⟩]⟩, -- FW_SRC_LO
   ⟨0xE02, 1, 1, [⟨17, 0, .rwl, 0⟩]⟩, -- FW_SRC_HI
   ⟨0xE03, 1, 1, [⟨16, 0, .rwl, 0⟩]⟩, -- FW_LEN
   ⟨0xE04, 1, 1, [⟨3, 0, .rwl, 0⟩]⟩, -- FW_RIGHTS
   ⟨0xE05, 1, 1, [⟨17, 15, .ro, 0⟩, ⟨14, 13, .ro, 2⟩, ⟨12, 10, .ro, 0⟩, ⟨9, 8, .ro, 0⟩, ⟨7, 4, .ro, 15⟩]⟩, -- FW_STAT
   ⟨0xE06, 1, 1, [⟨15, 0, .ro, 65535⟩]⟩, -- FW_CORES
   ⟨0xE08, 1, 2, [⟨17, 15, .ro, 0⟩]⟩, -- FW_SLOT
   ⟨0xE0A, 2, 2, [⟨17, 0, .ro, 0⟩]⟩, -- FW_VER_LO
   ⟨0xE0B, 2, 2, [⟨17, 0, .ro, 0⟩]⟩, -- FW_VER_HI
   ⟨0xE0E, 1, 1, [⟨17, 0, .ro, 0⟩]⟩, -- FW_FLOOR_LO
   ⟨0xE0F, 1, 1, [⟨17, 0, .ro, 0⟩]⟩, -- FW_FLOOR_HI
   ⟨0xE10, 1, 1, [⟨15, 0, .wo, 0⟩]⟩, -- FW_TOKEN
   ⟨0xE11, 1, 1, [⟨17, 16, .ro, 0⟩, ⟨5, 0, .ro, 0⟩]⟩, -- FW_TOK_STAT
   ⟨0xE12, 1, 1, [⟨5, 5, .w1c, 0⟩, ⟨4, 4, .w1c, 0⟩, ⟨3, 3, .w1c, 0⟩, ⟨2, 2, .w1c, 0⟩, ⟨1, 1, .w1c, 0⟩, ⟨0, 0, .w1c, 0⟩]⟩, -- FW_EVENT
   ⟨0xE13, 1, 1, [⟨5, 0, .rw, 0⟩]⟩] -- FW_EVENT_EN

/-- The address that stands for `a` in the tables: host blocks repeat every 0x38 (R191), station windows every
0x80 (R240, R266), mailbox channels every 0x10 (R321). -/
def canonAddr (a : Nat) : Nat :=
  if 0x800 ≤ a ∧ a < 0xC00 then 0x800 + (a - 0x800) % 0x80
  else if 0x720 ≤ a ∧ a < 0x800 then 0x720 + (a - 0x720) % 0x38
  else if 0x300 ≤ a ∧ a < 0x380 then (if a % 0x10 = 8 ∧ a < 0x350 then 0x309 else 0x300 + a % 0x10)
  else a

/-- The rows of the block that holds `a`. -/
def regRows (a : Nat) : List RegRow :=
  match a / 0x100 with
  | 0x0 => regRows0
  | 0x1 => regRows1
  | 0x2 => regRows2
  | 0x3 => regRows3
  | 0x4 => regRows4
  | 0x6 => regRows6
  | 0x7 => regRows7
  | 0x8 => regRows8
  | 0xC => regRowsC
  | 0xD => regRowsD
  | 0xE => regRowsE
  | _ => []

/-- Whether a row holds the register at `a`. -/
def RegRow.holds (r : RegRow) (a : Nat) : Bool :=
  decide (r.base ≤ a ∧ a < r.base + r.stride * r.count ∧ (a - r.base) % r.stride = 0)

/-- The fields of the register at `a`; none for a reserved address (R21). -/
def fieldsAt (a : Nat) : List FieldSpec :=
  match (regRows (canonAddr a)).find? (fun r => r.holds (canonAddr a)) with
  | some r => r.fields
  | none => []

/-- The value of a register that nothing has written since reset: its fields' reset values, reserved bits 0 (R20, R21). -/
def regReset (a : Nat) : Word :=
  (fieldsAt a).foldl (fun w f => w ||| (BitVec.ofNat 18 (f.reset * 2 ^ f.lo))) 0#18

end Sys2Proof.Machine
end

