-- ==== Sys2Proof/Machine/State.lean ====
section
/-! DEFINITION. The state of the NL7218: plain data that holds every register (Machine/Registers.lean) and every piece of
machine state the spec names beside them, the queue of waiting commands, and State.reset. -/

namespace Sys2Proof.Machine
open Sys2Proof

/-- The power states of Table 1-6 (R43). -/
inductive PState where
  | off | standby | waking | run | drain | volley | dark
  deriving DecidableEq, Repr

/-- Store causes (CAUSE of VOL_LAST, R136). -/
inductive Cause where
  | power | reset | clock | drain | checkpoint
  deriving DecidableEq, Repr

/-- What started a DRAIN (R47): a request or the loss of every firmware cluster, or PWROK. -/
inductive DrainBy where
  | request | pwrok
  deriving DecidableEq, Repr

/-- Where DRAIN stands in the steps of R46. -/
inductive DrainStep where
  | imaging | flush | counterCopy | ready | storing | stored | shutdown
  deriving DecidableEq, Repr

/-- What the rail sequencer runs (R146, R149). -/
inductive Sequence where
  | idle | wake | shutdown | reverse
  deriving DecidableEq, Repr

/-- An operation of a rail-script step (Table 5-5). -/
inductive ScriptOp where
  | halt | raise (g : Nat) (shed : Bool) | drop (g : Nat) | waitPg (c : Nat) | delay
  deriving DecidableEq, Repr

/-- A rail-script step: its section, its operation and its COUNT × UNIT in µs (Table 5-5). -/
structure ScriptStep where
  shutdown : Bool
  op : ScriptOp
  time : Nat
  deriving DecidableEq, Repr

/-- Power state, reset pins, STRAP phase, supplies and clocks (spec/01, 02, 05). -/
structure Pwr where
  st : PState := .off
  /-- STANDBY was entered from OFF (LAST of ID_RESET). -/
  fromOff : Bool := true
  /-- Accepted levels of RESET_N and PWROK (R68). -/
  resetN : Bool := false
  pwrok : Bool := false
  /-- A STRAP phase runs; its 16 µs have their reference event; it waits for the end of a store (R48, R61). -/
  strapOn : Bool := false
  strapTimed : Bool := false
  strapPending : Bool := false
  /-- The strap phase that runs has latched nothing since entry from OFF (R344). -/
  strapFromOff : Bool := false
  samp1 : Option (BitVec 8) := none
  samp2 : Option (BitVec 8) := none
  /-- Power-fail is asserted (R40). -/
  powerFail : Bool := false
  /-- What started the DRAIN in progress and how far it is. -/
  drainBy : Option DrainBy := none
  drainStep : DrainStep := .imaging
  /-- PWROK rose, or power failed after the store, during the DRAIN in progress (Table 1-7). -/
  drainDark : Bool := false
  /-- The rail sequencer (R146): what runs, the applied record's steps, enables raised (newest first). -/
  seq : Sequence := .idle
  steps : List ScriptStep := []
  pos : Nat := 0
  raised : List Nat := []
  /-- Progress of the wake (Table 4-6). -/
  railDone : Bool := false
  cpllLocked : Bool := false
  sealsRead : Bool := false
  restoreLeft : List Nat := []
  wave1Done : Bool := false
  cleared : Bool := false
  counted : Bool := false
  booted : Bool := false
  bootTry : List Nat := []
  /-- Clock sources present (R42): REFIN, REFCLK of P0 and P1, S PLL lock, crystal; domain C on the backup oscillator. -/
  refin : Bool := true
  refclk0 : Bool := true
  refclk1 : Bool := true
  spll : Bool := true
  xtal : Bool := true
  backup : Bool := false
  /-- The retained state is supplied and holds values (R326, R392). -/
  retained : Bool := false
  /-- Retention has failed and neither supply has returned: the clock does not count (R326). -/
  clockHeld : Bool := false
  /-- The retained values other than the clock were lost in OFF (R392). -/
  heldLost : Bool := false
  /-- Channels armed after a WAIT_PG or as free-enable channels (R140), bit c. -/
  gateArmed : BitVec 12 := 0#12
  /-- Channels whose bit in SUP_EVENT a FAULT or POWERFAIL action has set (R139), bit c. -/
  faulted : BitVec 12 := 0#12
  /-- A record read waits for a running Keep page write; true for a RELOAD (R145). -/
  scriptWait : Option Bool := none
  /-- VIN is below the WARN threshold; level of VOLLEY_WARN_N in RUN (R144). -/
  vinWarn : Bool := false
  warnN : Bool := true
  /-- Store result on MP4 and the progress code on MP[7:5] (R65, R66). -/
  result : Bool := false
  progress : BitVec 3 := 0#3
  deriving DecidableEq, Repr

/-- The tile cells of one region: what an unlisted word reads as, the other words by offset (22-bit codeword index and
2-bit word, R78), and the codewords whose bits are in error (R79): 1 one bit, 2 two bits, 3 marked under R83. -/
structure Image where
  blank : Word := 0#18
  cells : Map Word := []
  ecc : Map (Fin 4) := []
  deriving DecidableEq, Repr, Inhabited

/-- A descriptor's status and results (Table 7-5); PHASE is added as it is written. -/
structure Compl where
  status : Byte
  result : BitVec 64 := 0#64
  aux : BitVec 32 := 0#32
  deriving DecidableEq, Repr

/-- A replay record or end record (R187, R188). -/
structure Replay where
  host : PHost
  sq : Ring
  tag : BitVec 16
  compl : Compl
  endRec : Bool
  deriving DecidableEq, Repr

/-- What leaves the device, in the order it left (model's own trace; log entry 12). -/
inductive Out where
  /-- A completion written to a host's CQ slot (R181), with its 16 bytes. -/
  | completion (h : PHost) (cq : Ring) (slot : Nat) (tag : BitVec 16) (c : Compl) (phase replay endRec : Bool) (sq : Ring)
      (entry : List Byte)
  /-- A memory write to a host. -/
  | hostWrite (h : PHost) (addr : Nat) (bytes : List Byte)
  /-- A memory read of a doorbell block, of descriptors, or of data issued to a host. -/
  | pollRead (h : PHost)
  | fetchRead (h : PHost) (sq : Ring) (index count : Nat)
  | dataRead (h : PHost) (addr len : Nat)
  /-- An MSI-X message with the address and data of its vector (R166), and an error message: ERR_COR, ERR_NONFATAL, ERR_FATAL
  (R167). -/
  | msix (h : PHost) (vec : Nat) (addr : Nat) (data : BitVec 32)
  | errMessage (h : PHost) (kind : Nat)
  /-- WAKEh_N driven (true: low). -/
  | wakeN (h : PHost) (low : Bool)
  /-- The value a register read returned to its sender. -/
  | readData (dest : Sender) (addr : Nat) (value : Word)
  /-- The completion of a host's read of BAR0, none for Completer Abort (R165), of a request to no BAR, which is Unsupported, and
  of a configuration read or write, none for Configuration Request Retry Status (R157). -/
  | barData (h : PHost) (offset : BitVec 15) (value : Option (BitVec 32))
  | unsupported (h : PHost)
  | cfgData (h : PHost) (dword : BitVec 10) (value : Option (BitVec 32))
  | cfgDone (h : PHost) (retry : Bool)
  /-- The 40 bits of MISO in a frame (Table 14-1). -/
  | miso (frame : BitVec 40)
  /-- Blocks on a station's Ecposia link (Table 9-4): FACET_START with its fields, the codes of PAYLOAD, FACET_END, CONTROL (RESTART
  is KIND 3), ABORT; Machine/Blocks.lean lays them out. -/
  | facetStart (n : StnId) (fseq fn span nw mask period : Nat) (phases : List Nat) (delay : Nat)
  | payload (n : StnId) (fseq : Nat) (codes : List Nat)
  | facetEnd (n : StnId) (fseq nblk : Nat)
  | control (n : StnId) (kind value : Nat)
  | abort (n : StnId) (reason : Nat)
  /-- The empty notice of a queue of channel c to a firmware cluster that wrote to it (R312). -/
  | emptyNotice (dest : Sender) (c : Nat)
  /-- A SET-UP frame sent to a driver (Table 9-9). -/
  | setupFrame (n : StnId) (wr : Bool) (addr : BitVec 7) (data : BitVec 16)
  /-- The bits a TAP shifted out on TDO, first bit first (R346). -/
  | tdo (umber : Bool) (bits : List Bool)
  deriving DecidableEq, Repr

/-- A cluster under live copy (R98): region, active cluster and why; and the cluster and cause of a second condition of R97 met
meanwhile (Table 3-7). -/
structure LiveCopy where
  region : Nat
  cluster : Nat
  cause : Nat
  again : Option (Nat × Nat) := none
  deriving DecidableEq, Repr

/-- Region 63's device state beyond its cells (Table 3-9): the registers marked Restored, the billing counters, the
saved hot words, the health log by entry and word, the replay records, the live copies to restart (R100), the regions that
have left the capacity map (R106), region 63's relocation target (R105) and Sweeper's progress; stored and restored with
region 63. -/
structure Dev where
  regs : Map Word := []
  counters : Map (BitVec 54) := []
  hot : Map Word := []
  log : Map Word := []
  replay : List Replay := []
  copies : List LiveCopy := []
  left : List Nat := []
  /-- Regions that met R99 as MOVE_DEST or FORWARD: region, cause, cluster (log entry 97). -/
  failed : List (Nat × Nat × Nat) := []
  /-- The cause for which each RETIRING region left the map (R99, log entry 24). -/
  causes : Map Nat := []
  reloc : Option Nat := none
  /-- Sweeper's progress: the units the running cycle has tested, and the time stamp of its start (R353). -/
  swept : List SwpTest := []
  swpStart : Nat := 0
  deriving DecidableEq, Repr, Inhabited

/-- The store in progress (R107 to R128). -/
structure Store where
  cause : Cause
  /-- The store set is fixed: regions in wave order, region 63 first (R112, R113). -/
  frozen : Bool := false
  regions : List Nat := []
  acount : Nat := 0
  epoch : Nat := 0
  /-- Target plane per region, true for plane B (R111). -/
  planes : List (Nat × Bool) := []
  /-- The regions stored as INDEPENDENT, as they froze (R109), and the physical region that region 63 is stored from. -/
  indep : List Nat := []
  phys63 : Nat := 63
  thresholds : List Nat := []
  /-- The hot range whose words the freeze copied (R301, R306). -/
  hotRange : Nat × Nat := (0, 0)
  /-- Wave in progress: 0 before wave 1, K + 1 from the seal on. -/
  wave : Nat := 0
  /-- Powered from VIN (R42, R115). -/
  fromVin : Bool := false
  /-- The supervisor channel that gave power-fail, 15 none. -/
  channel : Nat := 15
  vinBack : Bool := false
  resetSeen : Bool := false
  deriving DecidableEq, Repr

/-- Ledger events held during region 63's checkpoint wave (R126), with the time stamp of what caused them; a JAM pulse with the
records that the queues held in its cycle (R276); and, in their order among these, the descriptors that the wave holds (R125). -/
inductive LedEvent where
  | pulse (pin : Fin 3) (t : Nat)
  | jam (taken : List Nat) (t : Nat)
  | descriptor (h : PHost) (sq : Ring) (tag : BitVec 16)
  | imaged (n : StnId) (recs : List Nat) (t : Nat)
  | spoil (recs : List Nat) (cause : Nat) (t : Nat)
  | timeout (queue : Fin 3) (rec_ : Nat) (t : Nat)
  deriving DecidableEq, Repr

/-- What a fetched descriptor waits for. -/
inductive Stage where
  | data | held | ringSpace | swap | swapReady | copying | keep | pageWrite | checkpoint | moveCopy | verify | done
  deriving DecidableEq, Repr

/-- A fetched descriptor that has no written completion (R177). -/
structure Flight where
  host : PHost
  sq : Ring
  op : Opcode
  d : Desc
  stage : Stage
  /-- Committed (R180). -/
  committed : Bool := false
  /-- Bytes moved so far in LEN's unit, host bytes received and not yet placed, received data ended in an error. -/
  moved : Nat := 0
  buf : List Byte := []
  /-- Bytes of its host data that read requests have asked for (R155). -/
  asked : Nat := 0
  /-- Poisoned bytes received behind `buf`, the status the descriptor ends with once these are placed, and whether `buf` is
  then placed to its last byte or word (R82, R189, R396). -/
  bad : List Byte := []
  ending : Option Byte := none
  flush : Bool := false
  /-- RESULT as fixed at commit for an opcode that completes later: MOVE, RECORD_PUT. -/
  result : Nat := 0
  /-- A correction, and the first uncorrectable codeword, met so far (R82). -/
  corrected : Bool := false
  uncorr : Option Nat := none
  /-- The first scratchpad word at which a DMA write of its staged data was discarded (R94). -/
  lost : Option Nat := none
  /-- Time at which a swap became ready, in quarter S cycles. -/
  ready : Nat := 0
  /-- Status and results once fixed. -/
  compl : Option Compl := none
  deriving DecidableEq, Repr

/-- A message that waits for the end of a retraining (R159): an interrupt vector, or an error message by its kind. -/
inductive Due where
  | vector (v : Nat) | error (kind : Nat)
  deriving DecidableEq, Repr

/-- Per-host state beside the HOST_ registers (spec/06). -/
structure HostPort where
  perstN : Bool := false
  d3 : Bool := false
  up : Bool := false
  ready : Bool := false
  retraining : Bool := false
  l1 : Bool := false
  wakeLow : Bool := false
  /-- Poll period in ns, polls outstanding, FAST of the latest poll data, polls failing. -/
  period : Nat := 250
  polls : Nat := 0
  fast : Bool := false
  failing : Bool := false
  /-- Last valid tail and descriptors requested and not arrived, per SQ; last head and messages pending, per CQ. -/
  tails : Map Nat := []
  fetching : Map Nat := []
  heads : Map Nat := []
  unsent : Map Nat := []
  /-- MSI-X vectors masked, and pending, bit v (R166); a reset masks every vector (log entry 15). -/
  masked : BitVec 32 := 0xFFFFFFFF#32
  pba : BitVec 32 := 0#32
  /-- The configuration space's stored bits by dword (Machine/PciConfig.lean), the MSI-X table's addresses and data by dword of its
  range (R162 to R164), and the messages that a retraining holds. -/
  cfg : Map (BitVec 32) := []
  vectors : Map (BitVec 32) := []
  due : List Due := []
  /-- The time stamp plus 1 of each vector's latest message, 0 for none; how many messages have merged with one before them (R183); how
  many headers the header log has taken (R167). -/
  sentAt : Map Nat := []
  merges : Nat := 0
  headers : Nat := 0
  /-- Turns that the host has had in its port's round, and each SQ in its host's (R178). -/
  turns : Nat := 0
  served : Map Nat := []
  /-- The CQ that receives the replay records (R188). -/
  replayCq : Option Ring := none
  deriving DecidableEq, Repr

/-- States of an emitter in a facet (R220); a writing emitter has its tap line, its phase, and whether it is lit: R222
darkens it for the facet. -/
inductive Emit where
  | suppressed | out | write (line : Int) (phi : Nat) (lit : Bool)
  deriving DecidableEq, Repr

/-- The facet being imaged, as its SOS fixes it: its FSEQ, PAYLOAD blocks, the codes in emission order before their
limit to 63 (R224), and the first block that blanking darkened (R235, R236). -/
structure Facet where
  fseq : Nat
  nblk : Nat
  codes : List Nat
  cut : Option Nat := none
  deriving DecidableEq, Repr

/-- A sheet known to a station (R209 to R213): its ledger index, its origin and the ring position of its line 0 once queued,
its N once its LAST band is accepted, the accepted, published and missing lines, whether a row of it has been written, and whether
its IMAGED waits, for the stamp buffer is full (R126). -/
structure Sheet where
  rec_ : Nat
  queued : Bool := false
  origin : Int := 0
  pos : Nat := 0
  lines : Option Nat := none
  posted : List (Nat × Nat) := []
  published : List (Nat × Nat) := []
  missing : List Nat := []
  rows : Bool := false
  flagged : Bool := false
  deriving DecidableEq, Repr

/-- A facet still known by its FSEQ (R262): the AM periods its stream may lie in and the records that had a row in it. -/
structure Past where
  fseq : Nat
  first : Nat
  last : Nat
  recs : List Nat
  deriving DecidableEq, Repr

/-- The pulse windows of Table 9-2 (R242). -/
inductive PulseWin where
  | closed | blanking | eos | holdoff | arming
  deriving DecidableEq, Repr

/-- States of an idle table bank (R231). -/
inductive Idle where
  | same | modified | dirty | copying
  deriving DecidableEq, Repr

/-- One station table: its two banks and the state of the idle one (R230, R231). -/
structure Table where
  active : Map Word := []
  idle : Map Word := []
  bank : Bool := false
  state : Idle := .same
  deriving DecidableEq, Repr

/-- How far Sweeper's test of one emitter has come (R354): its write of EMIT_TEST runs, its 100 µs pass, or its read of EMIT_RES
runs. -/
inductive ProbePhase where
  | writing | waiting | reading
  deriving DecidableEq, Repr

/-- Per-station state beside the STN_ registers (spec/08, 09). -/
structure Stn where
  tables : Map Table := []
  sheets : List Sheet := []
  /-- Records of sheets that a disarm during region 63's wave left in the queue, until their flags are applied (R126). -/
  aside : List Nat := []
  /-- Sheets that have left the queue since arming: origin, ring position of line 0, lines (R209, R212). -/
  gone : List (Int × Nat × Nat) := []
  /-- Slots reserved in each cluster of each ring region while armed (R91). -/
  reserved : Nat := 0
  /-- A disarm waits for the end of the facet in progress (R217); the current sheets of DRAIN (R46). -/
  disarming : Bool := false
  drain : Option (List Nat) := none
  /-- Encoder count less c(0) in the forward direction, its high water, REVERSE raised and not yet recovered (R219, R249). -/
  dc : Int := 0
  hw : Int := 0
  reversed : Bool := false
  /-- x of the last SOS, the top rows of the two halves, L_lo of the current facet, lines below `released` released. -/
  x : Option Int := none
  pmaxL : Option Int := none
  pmaxU : Option Int := none
  llo : Option Int := none
  released : Option Int := none
  /-- Facet number, OFS and the pending FN_ADJ (R244). -/
  fn : Nat := 0
  ofs : Nat := 0
  fnAdj : Nat := 0
  /-- Windows (R242), time of the last SOS in quarter S cycles, SOS intervals newest first, and the sum and number of those
  that gave the P_ref a stall discarded (R236, R244). -/
  win : PulseWin := .closed
  tSos : Nat := 0
  intervals : List Nat := []
  pStall : Option (Nat × Nat) := none
  /-- Measured scan times per facet number, newest first, in quarter S cycles (R246). -/
  meas : Map (List Nat) := []
  facet : Option Facet := none
  history : List Past := []
  fseq : Nat := 0
  /-- The line buffer: process lines with their bytes, data in error read as 0 (R214, R394). -/
  buffer : List (Int × List Byte) := []
  /-- A CUTOFF report or the loss of the sideband stands; its blanking is still to start; the sideband is lost (R235, R263). -/
  cutoff : Bool := false
  blankDue : Bool := false
  sbLost : Bool := false
  /-- Last control values sent (R253). -/
  sentMask : Nat := 0
  sentScale : Nat := 32768
  /-- TYPE, ARG and CNT of the report whose second copy is to be ignored (R262). -/
  lastRpt : Option (Nat × Nat × Nat) := none
  /-- AM periods since training; lanes to drop and period to resend from at the next AM boundary (R251, R259). -/
  periods : Nat := 0
  dropLanes : Nat := 0
  restart : Option Nat := none
  /-- ABORT has ended the stream, and no FACET_START has followed (R251, R265). -/
  aborted : Bool := false
  /-- Training: the step that runs, and each preset's zero-error lanes so far (R256). -/
  trainStep : Option Nat := none
  prbs : Map Nat := []
  /-- The SET-UP frame in progress: write, address, data, tries left (R261). -/
  frame : Option (Bool × BitVec 7 × BitVec 16 × Nat) := none
  /-- Time stamp of the last disarm, and the emitters whose EMIT_RES Sweeper has read in this cycle, bit k (Table 15-1, R354). -/
  disarmed : Nat := 0
  emitted : Nat := 0
  /-- Sweeper's test of an emitter in progress; the host access in `frame` that waits for Sweeper's frame to end, and the ARM that does,
  with its sender (R354). -/
  probe : Option (Nat × ProbePhase) := none
  goWaits : Bool := false
  armWaits : Option Sender := none
  /-- The Ecposia eye of the cycle: its training runs, or `true` has ended (Table 15-1). -/
  eye : Option Bool := none
  deriving DecidableEq, Repr

/-- A web encoder (R248). -/
structure Encoder where
  count : BitVec 32 := 0#32
  /-- Illegal transitions since the wake (ERRS, R266). -/
  errs : Nat := 0
  ba : BitVec 2 := 0#2
  los : Bool := false
  deriving DecidableEq, Repr

/-- Writers of a Keep page write (WRITER of KEEP_STAT, R292). -/
inductive Writer where
  | h0 | descriptor | counterCopy | spill | hotFlush | bp
  deriving DecidableEq, Repr

/-- A page write in progress (Table 11-2): its writer, page, loaded words (index in page, data) and phase; phase 4 is
the verify read. -/
structure PageWrite where
  writer : Writer
  page : Nat
  words : List (Nat × BitVec 16)
  /-- The loaded words as they stood at the start, for Table 11-3. -/
  old : List (Nat × Word)
  phase : Nat
  deriving DecidableEq, Repr

/-- Why the hot flush that runs was started (R301, R302). -/
inductive FlushFor where
  | command | drain | change
  deriving DecidableEq, Repr

/-- The Keep (spec/11): its words by address, the page buffer, the running and waiting page writes, the hot range as first
page and pages (R299), the hot words by address, and a range change in progress (R302). -/
structure Keep where
  words : Map Word := []
  buf : List (Nat × BitVec 16) := []
  bufPage : Option Nat := none
  submitted : Bool := false
  run : Option PageWrite := none
  flush : List Nat := []
  flushFor : Option FlushFor := none
  hotRange : Nat × Nat := (0, 0)
  hot : Map Word := []
  hotNext : Option (Nat × Nat) := none
  deriving DecidableEq, Repr

/-- The ledger beside region 63's words (spec/10). -/
structure Ledger where
  /-- TRANSFER, FUSE and DELIVER queues of record indices. -/
  queues : Map (List Nat) := []
  credits : Map Nat := []
  /-- Increments of each counter since the last copy started (R280). -/
  incr : Map Nat := []
  changed : Bool := false
  /-- Events held during region 63's wave (R126). -/
  held : List LedEvent := []
  /-- Records whose condition of RASTER_COMPLETE became true during that wave (R126). -/
  rastered : List Nat := []
  deriving DecidableEq, Repr

/-- A mailbox channel (R308): its two queues of word and sender, each queue's writers since it was last empty, and the
replies the firmware owes for the words it has taken, oldest first (R314). -/
structure Mailbox where
  toA : List (Word × Sender) := []
  toB : List (Word × Sender) := []
  writersA : List Sender := []
  writersB : List Sender := []
  owed : List Word := []
  deriving DecidableEq, Repr

/-- The calendar of Table 13-1. -/
structure Calendar where
  subsec : Nat := 0
  sec : Nat := 0
  min : Nat := 0
  hour : Nat := 0
  wday : Nat := 0
  day : Nat := 1
  month : Nat := 1
  year : Nat := 0
  deriving DecidableEq, Repr

/-- The clock beside its registers (spec/13): a requester's frozen shadow (R328), the next instant of each alarm in
whole seconds from 2000-01-01 (R331), the start of its computation, and the trim that applies to this window (R325). -/
structure Clock where
  now : Calendar := {}
  shadows : Map (Option (Calendar × Bool)) := []
  next : Map (Option Nat) := []
  start : Map Calendar := []
  trim : Int := 0
  deriving DecidableEq, Repr

/-- The M-port between frames (spec/14): the previous frame's address, the value it read, whether it was refused. -/
structure MPort where
  prevAddr : Nat := 0
  prevRead : Option Word := none
  prevRej : Bool := false
  deriving DecidableEq, Repr

/-- A window that Sweeper holds (R356, R357): of a region's cluster, or, `pad`, of a firmware cluster's scratchpad. -/
structure SwpWindow where
  region : Nat
  cluster : Nat
  window : Nat
  redirect : Bool
  redirected : Bool
  pad : Bool := false
  deriving DecidableEq, Repr

/-- A firmware update in progress (R363): target slot, clusters done and still to do, step of the current one, and the mailbox
channels that the current cluster handed over. -/
structure Activation where
  slot : Nat
  done : List Nat
  todo : List Nat
  step : Nat
  rollback : Bool
  moved : List Nat := []
  deriving DecidableEq, Repr

/-- Firmware and life-cycle state beside the FW_ registers (spec/15). -/
structure Firmware where
  token : List (BitVec 16) := []
  /-- The LOAD that runs: its slot, its issuer, and FW_SRC and FW_LEN as they stood when it was issued. -/
  loadSlot : Option Nat := none
  loadBy : Sender := 0#4
  loadSrc : Nat := 0
  loadLen : Nat := 0
  act : Option Activation := none
  /-- The slot that a running ERASE empties. -/
  erasing : Option Nat := none
  /-- Instruction registers of the Umber and the separate TAP (R346). -/
  tapUmber : TapInstr := .bypass
  tapSep : TapInstr := .bypass
  /-- Boundary-scan registers of the two TAPs, one cell for each ball that R57 gives them (log entry 86). -/
  bndUmber : BitVec 56 := 0#56
  bndSep : BitVec 222 := 0#222
  /-- WIPE_PENDING with TO in the kept cells, the wipe step that runs, 0 for none, and the Keep page it is at (R372). -/
  wipePending : Option Nat := none
  wipeStep : Nat := 0
  wipePage : Nat := 64
  /-- The scratchpads: word w of firmware cluster f at key 65536 f + w; an unlisted word is 0 (R94, R95). -/
  pads : Map (BitVec 64) := []
  window : Option SwpWindow := none
  /-- Windows yielded, with the time stamp of the yield: not taken again for 10 ms (R357). -/
  yielded : List (SwpWindow × Nat) := []
  deriving DecidableEq, Repr

/-- The state of the device and its queue of waiting commands. -/
structure State where
  /-- The register file: every register of the index that is not computed from the rest (R349). -/
  regs : Map Word := []
  pwr : Pwr := {}
  /-- SRAM cells per physical region, and shadow planes A and B (R25, R107). -/
  arr : Map Image := []
  planeA : Map Image := []
  planeB : Map Image := []
  /-- Seal blocks, word k of region r at key 8r + k (R109). -/
  sealA : Map Word := []
  sealB : Map Word := []
  /-- The physical region that serves region 63 (R105). -/
  phys63 : Nat := 63
  dev : Dev := {}
  /-- Region 63's device state in each plane of the physical region that holds it. -/
  devA : Map Dev := []
  devB : Map Dev := []
  store : Option Store := none
  /-- Partition writes and forward ends held by a checkpoint (R127): address, value, sender. -/
  heldWrites : List (Nat × Word × Sender) := []
  /-- Regions whose clear runs (R95). -/
  clearing : List Nat := []
  hosts : Map HostPort := []
  flights : List Flight := []
  stns : Map Stn := []
  encs : Map Encoder := []
  keep : Keep := {}
  led : Ledger := {}
  mboxes : Map Mailbox := []
  /-- Owners of the possession registers (R317). -/
  poss : Map (Option Sender) := []
  rtc : Clock := {}
  mport : MPort := {}
  fw : Firmware := {}
  /-- Health-log events that arose outside RUN and DRAIN: stamp, source, code, two location words, detail (R358). -/
  heldLog : List (Nat × Nat × Nat × Nat × Nat × Nat) := []
  /-- What has left the device, oldest first (log entry 12). -/
  out : List Out := []
  /-- How many free values have been drawn (the model's own counter, log entry 7). -/
  free : Nat := 0
  /-- Commands waiting, first in, first out. -/
  pending : List Instr := []
  deriving DecidableEq, Repr

/-- Faults: none is raised; every command of the table has an effect the spec gives (safe: nothing stops a run). -/
inductive Fault where
  /-- Raised by nothing. Safe. -/
  | none
  deriving DecidableEq, Repr

/-- Refusals. -/
inductive Refusal where
  /-- A command whose arm of exec has no meaning yet; raised by exec alone. Safe: the run stops. -/
  | notModelled (mnemonic : String)
  deriving DecidableEq, Repr

/-- The machine right after reset: a device never yet supplied, in OFF, every register at its reset value, the clock's
fields as Table 13-1 gives them, never stored, and nothing waiting (log entry 1). -/
def State.reset : State := {}

end Sys2Proof.Machine
end

