-- ==== Sys2Proof/Machine/PciConfig.lean ====
section
/-! DEFINITION. The configuration space of a host's function (R162, R163, R167): its registers by dword, with their reset values and
write masks, and what each dword reads as. The values that Tables 6-2 and 6-3 do not give are those of the PCI Express Base
Specification 5.0 for the options of Table 6-1 (log entry 101, PRESUMED). -/

namespace Sys2Proof.Machine
open Sys2Proof

/-! Dwords that a host or the device writes -/

def cfgCommand : Nat := 0x01
def cfgBarLo : Nat := 0x04
def cfgPmcsr : Nat := 0x11
def cfgMsixCtl : Nat := 0x14
def cfgDevCtl : Nat := 0x1E
def cfgLinkCtl : Nat := 0x20
def cfgLaneErr : Nat := 0x5B
def cfgDevCtl2 : Nat := 0x26
def cfgUncStatus : Nat := 0x41
def cfgUncMask : Nat := 0x42
def cfgUncSeverity : Nat := 0x43
def cfgCorStatus : Nat := 0x44
def cfgCorMask : Nat := 0x45
def cfgAerCap : Nat := 0x46

/-- The lane registers of the physical layer (Table 6-3): the equalization presets of two lanes at 8.0 GT/s and of four lanes at 16.0 and
at 32.0 GT/s to a dword, and the margining control of one lane to a dword. -/
def cfgLaneEq8 : List Nat := [0x5C, 0x5D, 0x5E, 0x5F]
def cfgLaneEq : List Nat := [0x6C, 0x6D, 0x88, 0x89]
def cfgMargins : List Nat := [0x72, 0x73, 0x74, 0x75, 0x76, 0x77, 0x78, 0x79]

/-- Reset value of a dword's stored bits (log entry 101). -/
def cfgReset (d : Nat) : BitVec 32 :=
  match d with
  | 0x1E => 0x00002000#32
  | 0x28 => 0x00000005#32
  | 0x42 => 0x00400000#32
  | 0x43 => 0x00462030#32
  | 0x45 => 0x00006000#32
  | 0x57 => 0x80000000#32
  | d => if d ∈ cfgLaneEq8 then 0x7F7F7F7F#32 else if d ∈ cfgLaneEq then 0xFFFFFFFF#32 else if d ∈ cfgMargins then 0x00009C38#32 else 0#32

/-- The bits of a dword that a configuration write stores. -/
def cfgRw (d : Nat) : BitVec 32 :=
  match d with
  | 0x01 => 0x00000546#32
  | 0x03 => 0x000000FF#32
  | 0x04 => 0xFFFF8000#32
  | 0x05 => 0xFFFFFFFF#32
  | 0x0F => 0x000000FF#32
  | 0x11 => 0x00000100#32
  | 0x14 => 0xC0000000#32
  | 0x1E => 0x000071EF#32
  | 0x20 => 0x000000CB#32
  | 0x26 => 0x0000100F#32
  | 0x28 => 0x0000000F#32
  | 0x42 => 0x005FF030#32
  | 0x43 => 0x005FF030#32
  | 0x45 => 0x000071C1#32
  | 0x46 => 0x00000140#32
  | 0x57 => 0x80000000#32
  | d => if d ∈ cfgMargins then 0x0000FF7F#32 else 0#32

/-- The bits of a dword that a configuration write of 1 clears. -/
def cfgW1c (d : Nat) : BitVec 32 :=
  match d with
  | 0x01 => 0xF9000000#32
  | 0x11 => 0x00008000#32
  | 0x1E => 0x000F0000#32
  | 0x41 => 0x005FF030#32
  | 0x44 => 0x000071C1#32
  | 0x5B => 0x000000FF#32
  | _ => 0#32

/-- Dwords that a function-level reset and a link-down leave as they are: the registers of Advanced Error Reporting, and those that
set up the link: Link Control, Link Control 2, the Data Link Feature and the physical layer's. -/
def cfgSticky (d : Nat) : Bool := decide ((0x41 ≤ d ∧ d ≤ 0x4A) ∨ d = 0x20 ∨ d = 0x28 ∨ 0x57 ≤ d)

/-- The bits of dword 0x1E that a function-level reset leaves as they are: Max_Payload_Size. -/
def cfgPayloadBits : BitVec 32 := 0x000000E0#32

/-- A dword's stored bits. -/
def HostPort.dword (p : HostPort) (d : Nat) : BitVec 32 := Map.get cfgReset p.cfg d

/-- A bit of a dword. -/
def HostPort.cfgBit (p : HostPort) (d i : Nat) : Bool := (p.dword d).getLsbD i

def HostPort.setDword (p : HostPort) (d : Nat) (v : BitVec 32) : HostPort := { p with cfg := Map.set cfgReset p.cfg d v }

/-- Set bits of a dword. -/
def HostPort.cfgOr (p : HostPort) (d : Nat) (bs : BitVec 32) : HostPort := p.setDword d (p.dword d ||| bs)

/-- The bits that the enabled bytes of a dword cover. -/
def enableMask (be : BitVec 4) : BitVec 32 :=
  BitVec.ofNat 32 (([0, 1, 2, 3].map (fun i => if be.getLsbD i then 255 * 256 ^ i else 0)).sum)

/-- The stored bits after a configuration write. -/
def cfgWritten (d : Nat) (old v : BitVec 32) (be : BitVec 4) : BitVec 32 :=
  let m := enableMask be
  (old &&& ~~~(cfgRw d &&& m) ||| (v &&& cfgRw d &&& m)) &&& ~~~(v &&& cfgW1c d &&& m)

/-- The configuration space after a function-level reset or a link-down (R186). -/
def HostPort.cfgAfterReset (p : HostPort) : Map (BitVec 32) :=
  Map.set cfgReset (Map.keep p.cfg cfgSticky) cfgDevCtl (p.dword cfgDevCtl &&& cfgPayloadBits ||| (cfgReset cfgDevCtl &&& ~~~cfgPayloadBits))

/-! What the function's settings allow -/

/-- Bus Master Enable: the function may issue requests. -/
def HostPort.master (p : HostPort) : Bool := p.cfgBit cfgCommand 2

/-- Memory Space Enable: the function answers requests to BAR0. -/
def HostPort.memSpace (p : HostPort) : Bool := p.cfgBit cfgCommand 1

/-- Max_Read_Request_Size in bytes, and in descriptors of 64 bytes (R177). -/
def HostPort.maxRead (p : HostPort) : Nat := 2 ^ (bits (p.dword cfgDevCtl).toNat 14 12 + 7)
def HostPort.maxFetch (p : HostPort) : Nat := p.maxRead / 64

/-- Non-posted requests that the function's tags allow: 256 (Table 6-1), or 32 until a host enables more than 5-bit tags. -/
def HostPort.tags (p : HostPort) : Nat := if p.cfgBit cfgDevCtl 8 || p.cfgBit cfgDevCtl2 12 then 256 else 32

/-- MSI-X is enabled, and vector v is masked by the function mask or by its own (R166). -/
def HostPort.msixOn (p : HostPort) : Bool := p.cfgBit cfgMsixCtl 31
def HostPort.vecMasked (p : HostPort) (v : Nat) : Bool := p.cfgBit cfgMsixCtl 30 || bit p.masked.toNat v

/-- A vector's address and data in the MSI-X table (R164). -/
def HostPort.vecDword (p : HostPort) (v k : Nat) : BitVec 32 := Map.get (fun _ => 0#32) p.vectors (4 * v + k)
def HostPort.vecAddr (p : HostPort) (v : Nat) : Nat := (p.vecDword v 0).toNat + 2 ^ 32 * (p.vecDword v 1).toNat

/-! Errors (R167) -/

/-- The errors of R167. -/
inductive TlpError where
  | completerAbort | unsupported | timeout | poisoned | internal
  deriving DecidableEq, Repr

/-- An error's bit in the Uncorrectable Error registers. -/
def TlpError.bitNo (e : TlpError) : Nat :=
  match e with
  | .completerAbort => 15
  | .unsupported => 20
  | .timeout => 14
  | .poisoned => 12
  | .internal => 22

/-- The bits that an error sets in the Status register of the header: a poisoned completion is a parity error of the master where
Parity Error Response is set. -/
def HostPort.errStatus (p : HostPort) (e : TlpError) : BitVec 32 :=
  match e with
  | .completerAbort => 0x08000000#32
  | .poisoned => if p.cfgBit cfgCommand 6 then 0x81000000#32 else 0x80000000#32
  | _ => 0#32

/-- Error messages, by kind: ERR_COR, ERR_NONFATAL, ERR_FATAL. -/
def errCor : Nat := 0
def errNonfatal : Nat := 1
def errFatal : Nat := 2

/-- An uncorrectable error that is not masked, with no other such one recorded: First Error Pointer and the header log take it. -/
def HostPort.firstError (p : HostPort) (b : Nat) : Bool :=
  decide (p.dword cfgUncStatus &&& ~~~(p.dword cfgUncMask) = 0#32) && !p.cfgBit cfgUncMask b

/-- An uncorrectable error's status bit, and the First Error Pointer when it is the first that is not masked. -/
def HostPort.uncError (p : HostPort) (b : Nat) : HostPort :=
  let p1 := p.cfgOr cfgUncStatus (BitVec.ofNat 32 (2 ^ b))
  if p.firstError b then p1.setDword cfgAerCap (p1.dword cfgAerCap &&& 0xFFFFFFE0#32 ||| BitVec.ofNat 32 b) else p1

/-- The header log takes the header of the TLP in error with this error: the errors of a received TLP (not a timeout or an internal
error), where the function logs them as uncorrectable. -/
def HostPort.logsHeader (p : HostPort) (e : TlpError) (advisory : Bool) : Bool :=
  p.firstError e.bitNo && decide (e ≠ .timeout ∧ e ≠ .internal) && !(advisory && !p.cfgBit cfgUncSeverity e.bitNo && p.cfgBit cfgCorMask 13)

/-- The four dwords of the header log. -/
def HostPort.logHeader (p : HostPort) (hd : BitVec 128) : HostPort :=
  [0, 1, 2, 3].foldl (fun (q : HostPort) i => q.setDword (0x47 + i) ((hd >>> (32 * i)).setWidth 32)) p

/-- An error as the function records it, and the message that it then sends, if any; an advisory one, whose requester is told by
the completion's own status, counts as correctable while its severity is not fatal. -/
def HostPort.error (p : HostPort) (e : TlpError) (advisory : Bool) : HostPort × Option Nat :=
  let b := e.bitNo
  let fatal := p.cfgBit cfgUncSeverity b
  let ur := decide (e = .unsupported)
  let p0 := p.cfgOr cfgCommand (p.errStatus e)
  let p1 := if ur then p0.cfgOr cfgDevCtl 0x00080000#32 else p0
  let serr := p.cfgBit cfgCommand 8
  if advisory && !fatal then
    let p2 := (p1.cfgOr cfgDevCtl 0x00010000#32).cfgOr cfgCorStatus 0x00002000#32
    if p2.cfgBit cfgCorMask 13 then (p2, none)
    else (p2.uncError b, if p.cfgBit cfgDevCtl 0 && (!ur || p.cfgBit cfgDevCtl 3) then some errCor else none)
  else
    let p2 := (p1.cfgOr cfgDevCtl (if fatal then 0x00040000#32 else 0x00020000#32)).uncError b
    let told := !p.cfgBit cfgUncMask b && (serr || (p.cfgBit cfgDevCtl (if fatal then 2 else 1) && (!ur || p.cfgBit cfgDevCtl 3)))
    if told then (if serr then p2.cfgOr cfgCommand 0x40000000#32 else p2, some (if fatal then errFatal else errNonfatal)) else (p2, none)

end Sys2Proof.Machine
end

