-- ==== Sys2Proof/Machine/Ops.lean ====
section
/-! DEFINITION. The named operations on registers, events and interrupts, the straps, the clock's time stamp, the free
values, and the predicates on the power state that the families share. -/

namespace Sys2Proof.Machine
open Sys2Proof

/-! Registers -/

/-- The register at an address. -/
def State.reg (s : State) (a : Nat) : Word := Map.get regReset s.regs a

/-- Store a whole register. -/
def State.setReg (s : State) (a : Nat) (w : Word) : State := { s with regs := Map.set regReset s.regs a w }

/-- A field's value (R15). -/
def State.get (s : State) (f : Fld) : Nat := bits (s.reg f.addr).toNat f.hi f.lo

/-- Set a field, leaving the register's other bits. -/
def State.put (s : State) (f : Fld) (v : Nat) : State := s.setReg f.addr (putBits (s.reg f.addr) f.hi f.lo v)

/-- A one-bit field. -/
def State.flag (s : State) (f : Fld) : Bool := decide (s.get f ≠ 0)

/-- Bit i of a field as a field of its own. -/
def Fld.at (f : Fld) (i : Nat) : Fld := ⟨f.addr, f.lo + i, f.lo + i⟩

/-- Increment a field, saturating at its largest value. -/
def State.bump (s : State) (f : Fld) : State :=
  if s.get f + 1 < 2 ^ (f.hi + 1 - f.lo) then s.put f (s.get f + 1) else s

/-- A 36-bit value held low word first in two registers (R16). -/
def State.get36 (s : State) (lo hi : Fld) : Nat := (s.reg lo.addr).toNat + 2 ^ 18 * (s.reg hi.addr).toNat

def State.put36 (s : State) (lo hi : Fld) (v : Nat) : State :=
  (s.setReg lo.addr (BitVec.ofNat 18 v)).setReg hi.addr (BitVec.ofNat 18 (v / 2 ^ 18))

/-- The registers that the Umber die serves (Table 14-8, R349). -/
def umber (a : Nat) : Bool :=
  decide (a ≤ 0x00D) || decide (0x100 ≤ a ∧ a ≤ 0x10B) || decide (0x110 ≤ a ∧ a ≤ 0x11B) ||
  decide (0x120 ≤ a ∧ a ≤ 0x12C) || decide (0x200 ≤ a ∧ a ≤ 0x205) || decide (0x208 ≤ a ∧ a ≤ 0x20E) ||
  decide (0x210 ≤ a ∧ a ≤ 0x21D) || decide (0x280 ≤ a ∧ a ≤ 0x288) || decide (a = 0x604) ||
  decide (0x608 ≤ a ∧ a ≤ 0x60A)

/-- The bits of a register that region 63's device state carries: those marked Restored, and those Return sets from it
(R89, R270, R280, R299, R353, R358, R361). -/
def restoredMask (a : Nat) : Word :=
  if (0x440 ≤ a ∧ a ≤ 0x4FE) ∨ a = 0x400 ∨ (0x410 ≤ a ∧ a ≤ 0x417) ∨ (0xC10 ≤ a ∧ a ≤ 0xC1F) ∨ a = 0xC04 ∨ a = 0xC05
      ∨ a = 0xC28 ∨ a = 0xC29 ∨ a = 0x289 ∨ a = 0xD02 ∨ a = 0xD03 ∨ a = 0xD0A ∨ a = 0xD0B
      ∨ (0xE08 ≤ a ∧ a ≤ 0xE0D) then 0x3FFFF#18
  else if a = 0xC2A then 0x0FC00#18
  else if a = 0xD01 then 0x0FE00#18
  else if a = 0xD08 then 0x00024#18
  else 0#18

/-- The restored part of the register file, as region 63's device state holds it. -/
def State.devRegs (s : State) : Map Word :=
  (s.regs.map (fun e => (e.1, e.2 &&& restoredMask e.1 ||| (regReset e.1 &&& ~~~(restoredMask e.1))))).filter
    (fun e => decide (restoredMask e.1 ≠ 0#18 ∧ e.2 ≠ regReset e.1))

/-- Registers kept in Umber non-volatile cells though the hub die serves them: FW_FLOOR (R376). -/
def keptReg (a : Nat) : Bool := decide (a = 0xE0E ∨ a = 0xE0F)

/-- Every hub register back to its reset value (R20); what Return restores is put back by Return. -/
def State.resetHub (s : State) : State := { s with regs := Map.keep s.regs (fun a => umber a || keptReg a) }

/-- Umber registers that a mark other than their reset value governs (R20, R335, R350): Held, Kept, Strap and Fused
registers and the RTC registers. -/
def umberKept (a : Nat) : Bool :=
  decide (a ≤ 0x008) || decide (a = 0x00B) || decide (0x124 ≤ a ∧ a ≤ 0x126) || decide (0x200 ≤ a ∧ a ≤ 0x21D) ||
  decide (0x608 ≤ a ∧ a ≤ 0x60A)

/-- Umber registers back to their reset values (R20): at entry to STANDBY from OFF (`live` false), and at the end of the
STRAP phase of a cold reset, where the fields that show a live condition go on showing it: SUP_OUT, SUP_EN, FULL, VOL_VHOLD
and BP_FAULT of KEEP_STAT. The standby hold, ABANDONED, BP and the script's values follow their own marks. -/
def State.resetUmber (s : State) (live : Bool) : State :=
  let kept := [Reg.SUP_PWR_HOLD, Reg.KEEP_EVENT_ABANDONED, Reg.KEEP_CTL_BP, Reg.SUP_SCRIPT_USER, Reg.SUP_CHG_ILIM] ++
    (if live then [Reg.SUP_CHG_FULL, Reg.KEEP_STAT_BP_FAULT] else [])
  let vals := kept.map (fun f => (f, s.get f))
  let whole (a : Nat) : Bool :=
    decide ((0x100 ≤ a ∧ a ≤ 0x11B) ∨ a = 0x129) || (live && decide (a = 0x120 ∨ a = 0x127 ∨ a = 0x604))
  let s1 : State := { s with regs := Map.keep s.regs (fun a => !umber a || umberKept a || whole a) }
  (vals.foldl (fun t e => t.put e.1 e.2) s1).put Reg.ID_LC_WIPING 0

/-- The standby hold clears, but not in RETIRED (R47, Table 15-9). -/
def State.clearHold (s : State) : State := if s.get Reg.ID_LC_STATE = 3 then s else s.put Reg.SUP_PWR_HOLD 0

/-! Straps, stations and hosts that exist -/

/-- The ordering code 4C (CODE 2 of ID_CONFIG, R11). -/
def State.is4C (s : State) : Bool := decide (s.get Reg.ID_CONFIG_CODE = 2)

/-- Station n is enabled (R62, R10). -/
def State.stnEnabled (s : State) (n : Nat) : Bool := decide (n < 8) && bit (s.get Reg.ID_CONFIG_STN_EN) n

/-- Host H(h+1) exists under R12. -/
def State.hostExists (s : State) (h : PHost) : Bool :=
  match h with
  | 0 => true
  | 1 => bit (s.get Reg.ID_STRAP_MP) 0
  | 2 => true
  | 3 => bit (s.get Reg.ID_STRAP_MP) 1

/-- The PCIe hosts that exist. -/
def State.existing (s : State) : List PHost := [(0 : PHost), 1, 2, 3].filter (s.hostExists ·)

/-- The sender ID of a PCIe host (Table 0-6). -/
def hostSender (h : PHost) : Sender := BitVec.ofNat 4 (h.val + 1)

/-- The PCIe host with a number 1 to 4. -/
def hostOf (k : Nat) : Option PHost :=
  match k with
  | 1 => some 0
  | 2 => some 1
  | 3 => some 2
  | 4 => some 3
  | _ => none

/-- Sender 0 is H0 (Table 0-6). -/
def isH0 (x : Sender) : Bool := decide (x = 0#4)

/-- The bit of a 4-bit rights field that stands for a sender: bit h-1 for Hh. -/
def hasRight (x : Sender) (rights : Nat) : Bool := decide (1 ≤ x.toNat ∧ x.toNat ≤ 4) && bit rights (x.toNat - 1)

/-! Power-state predicates -/

/-- RUN or DRAIN. -/
def State.serving (s : State) : Bool := decide (s.pwr.st = .run ∨ s.pwr.st = .drain)

/-- Registers outside the Umber die are served (HUB of ID_PHASE, Table 14-5). -/
def State.hub (s : State) : Bool := s.serving || (decide (s.pwr.st = .waking) && s.pwr.railDone)

/-- VIN is good: OUT of SUP0 is 0 (R138). -/
def State.vinGood (s : State) : Bool := !bit (s.get Reg.SUP_OUT_OUT) 0

/-- VSTBY is good: OUT of SUP8 is 0 (R138). -/
def State.vstbyOk (s : State) : Bool := !bit (s.get Reg.SUP_OUT_OUT) 8

/-- The code of a power state (Table 5-9). -/
def PState.code : PState → Nat
  | .off => 0
  | .standby => 1
  | .waking => 2
  | .run => 3
  | .drain => 4
  | .volley => 5
  | .dark => 6

/-- The CAUSE code of a store (VOL_LAST, R136). -/
def Cause.code : Cause → Nat
  | .power => 1
  | .reset => 2
  | .clock => 3
  | .drain => 4
  | .checkpoint => 5

/-- Change the power state. -/
def State.goto (s : State) (st : PState) : State := { s with pwr := { s.pwr with st := st } }

/-! The calendar and the time stamp -/

/-- Leap-year rule of R203, by years from 2000. -/
def leap (y : Nat) : Bool := decide (y % 4 = 0 ∧ y ≠ 100)

/-- Days of month m of year 2000 + y. -/
def daysIn (y m : Nat) : Nat :=
  match m with
  | 2 => if leap y then 29 else 28
  | 4 => 30
  | 6 => 30
  | 9 => 30
  | 11 => 30
  | _ => 31

/-- Days of the months of year 2000 + y before month m. -/
def daysBefore (y : Nat) : Nat → Nat
  | 0 => 0
  | 1 => 0
  | m + 1 => daysBefore y m + daysIn y m

/-- Whole days from 2000-01-01 to a date (R323). -/
def dayNumber (y m d : Nat) : Nat :=
  365 * y + (y + 3) / 4 - (if 100 < y then 1 else 0) + daysBefore y m + (d - 1)

/-- Whole seconds from 2000-01-01 00:00:00. -/
def Calendar.seconds (c : Calendar) : Nat :=
  86400 * dayNumber c.year c.month c.day + 3600 * c.hour + 60 * c.min + c.sec

/-- The 36-bit time stamp (R323). -/
def Calendar.stamp (c : Calendar) : Nat := (c.seconds * 1024 + c.subsec) % 2 ^ 36

/-- The time stamp now. -/
def State.stamp (s : State) : Nat := s.rtc.now.stamp

/-! Interrupts -/

/-- The event classes of R183. -/
inductive IClass where
  | array | volley | supervisor | mailbox | station | ledger | health | rtc | host
  deriving DecidableEq, Repr

/-- EN and VEC of a class for a host (HOST_IVEC_i_h, R191). -/
def IClass.fields (c : IClass) (h : Nat) : Fld × Fld :=
  match c with
  | .array => (Reg.HOST_IVEC_EN_A h 0, Reg.HOST_IVEC_VEC_A h 0)
  | .volley => (Reg.HOST_IVEC_EN_B h 0, Reg.HOST_IVEC_VEC_B h 0)
  | .supervisor => (Reg.HOST_IVEC_EN_C h 0, Reg.HOST_IVEC_VEC_C h 0)
  | .mailbox => (Reg.HOST_IVEC_EN_A h 1, Reg.HOST_IVEC_VEC_A h 1)
  | .station => (Reg.HOST_IVEC_EN_B h 1, Reg.HOST_IVEC_VEC_B h 1)
  | .ledger => (Reg.HOST_IVEC_EN_C h 1, Reg.HOST_IVEC_VEC_C h 1)
  | .health => (Reg.HOST_IVEC_EN_A h 2, Reg.HOST_IVEC_VEC_A h 2)
  | .rtc => (Reg.HOST_IVEC_EN_B h 2, Reg.HOST_IVEC_VEC_B h 2)
  | .host => (Reg.HOST_IVEC_EN_C h 2, Reg.HOST_IVEC_VEC_C h 2)

def State.host (s : State) (h : PHost) : HostPort := Map.get (fun _ => {}) s.hosts h.val

def State.setHost (s : State) (h : PHost) (p : HostPort) : State :=
  { s with hosts := Map.set (fun _ => {}) s.hosts h.val p }

def State.emit (s : State) (o : Out) : State := { s with out := s.out ++ [o] }

/-- A message of vector v merges with the one before it of that vector: the two fall due within 1 µs of each other (R183). No command
carries a time that fine: it may be so while no more than one step of the time stamp lies between them (log entry 39). -/
def State.msixMerges (s : State) (h : PHost) (v stamp : Nat) : Bool :=
  let p := s.host h
  let t := Map.get (fun _ => 0) p.sentAt v
  decide (0 < t ∧ stamp ≤ t ∧ t ≤ stamp + 1) && s.out.contains (.msix h v (p.vecAddr v) (p.vecDword v 2)) &&
    Config.messageMerges h.val p.merges s.out.length

/-- Send vector v to a host that has enabled MSI-X: it is held in the pending bit array while it is masked (R166), or by a
retraining until its end (R159); the link leaves L1 first (R168); messages that fall due together merge (R183). -/
def State.msix (s : State) (h : PHost) (v : Nat) : State :=
  let p := s.host h
  if p.up && !p.d3 && p.master && p.msixOn then
    if p.vecMasked v then s.setHost h { p with pba := p.pba ||| BitVec.ofNat 32 (2 ^ v) }
    else if p.retraining then s.setHost h { p with due := p.due ++ [.vector v] }
    else if s.msixMerges h v s.stamp then s.setHost h { p with merges := p.merges + 1 }
    else (s.setHost h { p with l1 := false, sentAt := Map.set (fun _ => 0) p.sentAt v (s.stamp + 1) }).emit
      (.msix h v (p.vecAddr v) (p.vecDword v 2))
  else s

/-- An event of a class reaches a host (R183, and R168 while its PERST_N is low). -/
def State.notify (s : State) (c : IClass) (h : PHost) : State :=
  if s.hostExists h && s.flag (c.fields h.val).1 then
    let p := s.host h
    if !p.perstN then
      if s.pwr.st = .run then (s.setHost h { p with wakeLow := true }).emit (.wakeN h true) else s
    else s.msix h (s.get (c.fields h.val).2)
  else s

/-- Set an event bit; when it rises with its enable bit set, the class reaches the hosts named (R183, R395). -/
def State.event (s : State) (ev : Fld) (enAddr : Nat) (c : IClass) (hs : List PHost) : State :=
  let s1 := s.put ev 1
  if s.flag ev then s1
  else if bit (s.reg enAddr).toNat ev.lo then hs.foldl (fun t h => t.notify c h) s1 else s1

/-- Supervisor events reach every PCIe host with power rights (R154). -/
def State.supEvent (s : State) (ev : Fld) : State :=
  s.event ev 0x123 .supervisor (s.existing.filter (fun h => bit (s.get Reg.SUP_PWR_RIGHTS) h.val))

/-- RTC events reach every existing PCIe host (R335). -/
def State.rtcEvent (s : State) (ev : Fld) : State := s.event ev 0x21D .rtc s.existing

/-- Ledger events reach every existing PCIe host (R287). -/
def State.ledEvent (s : State) (ev : Fld) : State := s.event ev 0xC03 .ledger s.existing

/-- Keep events reach H0 alone (R307). -/
def State.keepEvent (s : State) (ev : Fld) : State := s.put ev 1

/-- Health events reach every existing PCIe host (R375, R376). -/
def State.swpEvent (s : State) (ev : Fld) : State := s.event ev 0xD07 .health s.existing
def State.fwEvent (s : State) (ev : Fld) : State := s.event ev 0xE13 .health s.existing

/-- Host-port events reach the host itself (R191). -/
def State.hostEvent (s : State) (h : PHost) (ev : Nat → Fld) : State :=
  s.event (ev h.val) (0x70C + h.val) .host [h]

/-- The PCIe host that owns a station, when STN_OWNER names one. -/
def State.stnOwner (s : State) (n : Nat) : Option PHost := hostOf (s.get (Reg.STN_OWNER_OWNER n))

/-- Station events reach the owner host (R240, R266). -/
def State.stnEvent (s : State) (n : Nat) (ev : Nat → Fld) : State :=
  s.event (ev n) (0x804 + 0x80 * n) .station (s.stnOwner n).toList

def State.stnLEvent (s : State) (n : Nat) (ev : Nat → Fld) : State :=
  s.event (ev n) (0x848 + 0x80 * n) .station (s.stnOwner n).toList

/-- Array events reach the hosts that R395 names. -/
def State.arrEvent (s : State) (ev : Fld) (hs : List PHost) : State := s.event ev 0x404 .array hs

/-! Completion status codes (Table 7-7) -/

namespace Status

def done : Byte := 0x00#8
def doneCorrected : Byte := 0x01#8
def aborted : Byte := 0x02#8
def noTarget : Byte := 0x03#8
def writeLost : Byte := 0x04#8
def badOpcode : Byte := 0x10#8
def badRange : Byte := 0x11#8
def denied : Byte := 0x12#8
def guarded : Byte := 0x13#8
def timeout : Byte := 0x14#8
def hostWindow : Byte := 0x15#8
def uncorrectable : Byte := 0x20#8
def hostAbort : Byte := 0x21#8
def regionRetired : Byte := 0x22#8
def lateRaster : Byte := 0x30#8
def spoiled : Byte := 0x31#8
def stationDegraded : Byte := 0x3E#8
def volleyCut : Byte := 0x3F#8

end Status

/-! Clock -/

/-- OSF rises with a cause (R326). -/
def State.setOsf (s : State) (cause : Fld) : State :=
  let was := s.flag Reg.RTC_STATUS_OSF
  let s1 := (s.put Reg.RTC_STATUS_OSF 1).put cause 1
  if was then s1 else s1.rtcEvent Reg.RTC_EVENT_OSF

/-! Free values -/

/-- Draw the next free word (log entry 7). -/
def State.drawWord (s : State) : Word × State := (Config.freeWord s.free, { s with free := s.free + 1 })

/-- Draw the next free choice (log entry 7). -/
def State.drawBit (s : State) : Bool × State := (Config.freeBit s.free, { s with free := s.free + 1 })

/-! Health log -/

/-- Write one health-log entry at the stamp it carries (R358, Table 15-2). -/
def State.logAt (s : State) (t source code loc5 loc6 detail : Nat) : State :=
  let seq := s.get36 Reg.SWP_LOG_SEQ_LO Reg.SWP_LOG_SEQ_HI
  let w (v : Nat) : Word := BitVec.ofNat 18 v
  let es := [w seq, w (seq / 2 ^ 18 % 2 ^ 14), w t, w (t / 2 ^ 18), w (source * 2 ^ 12 + code), w loc5, w loc6, w detail]
  let base := seq % 65536 * 8
  let ps := ((List.range 8).zip es).map (fun e => (base + e.1, e.2))
  let s1 : State := { s with dev := { s.dev with log := Map.setAll (fun _ => 0#18) s.dev.log ps } }
  s1.put36 Reg.SWP_LOG_SEQ_LO Reg.SWP_LOG_SEQ_HI ((seq + 1) % 2 ^ 32)

/-- A health-log event: written in RUN and DRAIN, held for RUN entry in every other state (R358). -/
def State.log (s : State) (source code loc5 loc6 detail : Nat) : State :=
  if s.serving then s.logAt s.stamp source code loc5 loc6 detail
  else { s with heldLog := s.heldLog ++ [(s.stamp, source, code, loc5, loc6, detail)] }

/-- The held events are logged at RUN entry with their own stamps (R358). -/
def State.logHeld (s : State) : State :=
  s.heldLog.foldl (fun u e => u.logAt e.1 e.2.1 e.2.2.1 e.2.2.2.1 e.2.2.2.2.1 e.2.2.2.2.2) { s with heldLog := [] }

/-! Register access -/

/-- The M-port's frames act: powered, not in a STRAP phase begun on entry from OFF (Table 14-5), MP7 latched 0 (R346). -/
def State.mportLive (s : State) : Bool :=
  decide (s.pwr.st ≠ .off) && !(s.pwr.strapOn && s.pwr.strapFromOff) && !bit (s.get Reg.ID_STRAP_MP) 7

/-- Whether an M-port frame in this state reaches the register at `a` (Table 14-5, R344). In WAKING every register is reached once
the rail script has completed, as Tables 1-6 and 14-5 say and Table 2-10 does not (log entry 95, DEDUCED). -/
def State.mportReaches (s : State) (a : Nat) (write : Bool) : Bool :=
  match s.pwr.st with
  | .off => false
  | .volley => umber a && !write
  | _ => umber a || s.hub

/-- A host's BAR0 reaches the registers: it exists, its function is ready, in D0 and with Memory Space Enable set, in RUN or DRAIN
(R157, R162, R168). -/
def State.barLive (s : State) (h : PHost) : Bool :=
  s.serving && s.hostExists h && (s.host h).ready && (s.host h).up && !(s.host h).d3 && (s.host h).memSpace

/-- Whether an access of a sender reaches the register at `a` (R14, R344, R157): H0 by the M-port, a PCIe host by BAR0,
the firmware clusters in service (R366, R372) and Sweeper inside the device. -/
def State.reaches (s : State) (x : Sender) (a : Nat) (write : Bool) : Bool :=
  if isH0 x then s.mportLive && s.mportReaches a write
  else match hostOf x.toNat with
    | some h => s.barLive h
    | none => s.serving && decide (8 ≤ x.toNat ∧ x.toNat ≠ 12 ∧ x.toNat ≠ 13) &&
      (decide (12 ≤ x.toNat) || bit (s.get Reg.FW_STAT_CLU_ON) (x.toNat - 8))

/-- Record a register read's value as it leaves for its sender. -/
def State.answer (s : State) (x : Sender) (a : Nat) (v : Word) : State := s.emit (.readData x a v)

/-- Set or clear the listed one-bit fields. -/
def State.putAll (s : State) (fs : List (Fld × Nat)) : State := fs.foldl (fun t f => t.put f.1 f.2) s

end Sys2Proof.Machine
end

