-- ==== Sys2Proof/Machine/ClockOps.lean ====
section
/-! DEFINITION. The clock's shared operations (spec/13): the calendar's tick, time sets, alarms, retention. -/

namespace Sys2Proof.Machine
open Sys2Proof

/-- The next day of the calendar; WDAY advances modulo 7 (R322). -/
def Calendar.nextDay (c : Calendar) : Calendar :=
  let w := (c.wday + 1) % 7
  if c.day < daysIn c.year c.month then { c with day := c.day + 1, wday := w }
  else if c.month < 12 then { c with day := 1, month := c.month + 1, wday := w }
  else if c.year < 199 then { c with day := 1, month := 1, year := c.year + 1, wday := w }
  else { c with day := 1, month := 1, year := 0, wday := w }

/-- The last instant before the rollover, to the day (R322). -/
def Calendar.lastDay (c : Calendar) : Bool := decide (c.year = 199 ∧ c.month = 12 ∧ c.day = 31)

/-- One step of 1/1024 s (R322), and whether it passed the end of 2199 (rollover). -/
def Calendar.tick (c : Calendar) : Calendar × Bool :=
  if c.subsec < 1023 then ({ c with subsec := c.subsec + 1 }, false)
  else
    let c0 := { c with subsec := 0 }
    if c.sec < 59 then ({ c0 with sec := c.sec + 1 }, false)
    else if c.min < 59 then ({ c0 with sec := 0, min := c.min + 1 }, false)
    else if c.hour < 23 then ({ c0 with sec := 0, min := 0, hour := c.hour + 1 }, false)
    else (({ c0 with sec := 0, min := 0, hour := 0 } : Calendar).nextDay, c.lastDay)

/-- The ranges of R203. -/
def Calendar.valid (c : Calendar) : Bool :=
  decide (c.subsec ≤ 1023) && decide (c.sec ≤ 59) && decide (c.min ≤ 59) && decide (c.hour ≤ 23) && decide (c.wday ≤ 6) &&
  decide (1 ≤ c.month ∧ c.month ≤ 12) && decide (c.year ≤ 199) && decide (1 ≤ c.day ∧ c.day ≤ daysIn c.year c.month)

/-- A field matches when its mask bit is set or the values agree (R330). -/
def fieldMatches (masked : Bool) (want have_ : Nat) : Bool := masked || decide (want = have_)

/-- The date fields of alarm k match a date (R331). -/
def State.alarmDate (s : State) (k : Nat) (c : Calendar) : Bool :=
  let m := s.get (Reg.RTC_ALM_0_MASK k)
  fieldMatches (bit m 6) (s.get (Reg.RTC_ALM_2_YEAR k)) c.year && fieldMatches (bit m 5) (s.get (Reg.RTC_ALM_2_MONTH k)) c.month
    && fieldMatches (bit m 4) (s.get (Reg.RTC_ALM_2_DAY k)) c.day && fieldMatches (bit m 3) (s.get (Reg.RTC_ALM_0_WDAY k)) c.wday

/-- Values a field may take: the compared value alone, or every value when masked. -/
def fieldValues (masked : Bool) (want n : Nat) : List Nat := if masked then List.range n else (List.range n).filter (decide <| · = want)

/-- The first second of a day, after `low` seconds where given, at which hour, minute and second match (R331). -/
def State.alarmSecond (s : State) (k : Nat) (low : Option Nat) : Option Nat :=
  let m := s.get (Reg.RTC_ALM_0_MASK k)
  (fieldValues (bit m 2) (s.get (Reg.RTC_ALM_1_HOUR k)) 24).findSome? fun hh =>
    (fieldValues (bit m 1) (s.get (Reg.RTC_ALM_1_MIN k)) 60).findSome? fun mm =>
      (fieldValues (bit m 0) (s.get (Reg.RTC_ALM_1_SEC k)) 60).findSome? fun ss =>
        let t := 3600 * hh + 60 * mm + ss
        match low with
        | none => some t
        | some l => if l < t then some t else none

/-- The search of R331 over `n` dates from `c` on. -/
def State.alarmSearch (s : State) (k : Nat) : Nat → Calendar → Option Nat → Option Nat
  | 0, _, _ => none
  | n + 1, c, low =>
    if s.alarmDate k c then
      match s.alarmSecond k low with
      | some t => some (86400 * dayNumber c.year c.month c.day + t)
      | none => State.alarmSearch s k n c.nextDay none
    else State.alarmSearch s k n c.nextDay none

/-- The next instant of alarm k from a time on, in whole seconds from 2000-01-01; none when there is none up to
2199-12-31, day number 73,048 (R331). -/
def State.nextInstant (s : State) (k : Nat) (c : Calendar) : Option Nat :=
  s.alarmSearch k (73049 - dayNumber c.year c.month c.day) c (some (3600 * c.hour + 60 * c.min + c.sec))

/-- Start or restart the computation of alarm k's next instant from the time now (R331). -/
def State.alarmCompute (s : State) (k : Nat) : State :=
  let s1 := s.put (Reg.RTC_ALM_0_BUSY k) 1
  { s1 with rtc := { s1.rtc with start := Map.set (fun _ => {}) s1.rtc.start k s1.rtc.now } }

/-- ALMk or SKIPk of RTC_EVENT. -/
def almEvent (k : Nat) : Fld := if k = 0 then Reg.RTC_EVENT_ALM0 else Reg.RTC_EVENT_ALM1
def skipEvent (k : Nat) : Fld := if k = 0 then Reg.RTC_EVENT_SKIP0 else Reg.RTC_EVENT_SKIP1

/-- Alarm k fires (R330), with SKIPPED where told (R332, R333); the next instant is computed afresh. -/
def State.alarmFire (s : State) (k : Nat) (skipped : Bool) : State :=
  let s1 := s.rtcEvent (almEvent k)
  let s2 := if skipped then s1.rtcEvent (skipEvent k) else s1
  let s3 := if s2.flag (Reg.RTC_ALM_0_WAKE k) then s2.clearHold else s2
  s3.alarmCompute k

/-- The next instant that alarm k holds: valid while BUSY and NONE are 0. -/
def State.alarmNext (s : State) (k : Nat) : Option Nat :=
  if s.flag (Reg.RTC_ALM_0_BUSY k) || s.flag (Reg.RTC_ALM_0_NONE k) then none
  else Map.get (fun _ => none) s.rtc.next k

/-- The alarm of R330 at the start of a second: an enabled alarm whose next instant is now fires. -/
def State.alarmTick (s : State) (k : Nat) : State :=
  if s.flag (Reg.RTC_ALM_0_EN k) && decide (s.alarmNext k = some s.rtc.now.seconds) then s.alarmFire k false else s

/-- A computation of alarm k ends: NEXT or NONE is set; an instant already passed fires at once, without SKIPPED (R331). -/
def State.alarmDone (s : State) (k : Nat) : State :=
  let r := s.nextInstant k (Map.get (fun _ => {}) s.rtc.start k)
  let s1 := (s.put (Reg.RTC_ALM_0_BUSY k) 0).put (Reg.RTC_ALM_0_NONE k) (b2n r.isNone)
  let s2 : State := { s1 with rtc := { s1.rtc with next := Map.set (fun _ => none) s1.rtc.next k r } }
  match r with
  | none => s2
  | some t =>
    let s3 := s2.put36 (Reg.RTC_NEXT_LO k) (Reg.RTC_NEXT_HI k) (t * 1024 % 2 ^ 36)
    if s3.flag (Reg.RTC_ALM_0_EN k) && decide (t ≤ s3.rtc.now.seconds) then s3.alarmFire k false else s3

/-- What a time set does to alarm k (R332): an enabled alarm with a valid next instant at or before the new time fires
with SKIPPED; every alarm's next instant is computed from the new time (R331). -/
def State.alarmSet (s : State) (k : Nat) : State :=
  match s.alarmNext k with
  | some t =>
    if s.flag (Reg.RTC_ALM_0_EN k) && decide (t ≤ s.rtc.now.seconds) then s.alarmFire k true else s.alarmCompute k
  | none => s.alarmCompute k

/-- A time set takes effect (R329): every field at once, a new trim window (R325), OSF and its causes cleared while the
crystal runs and the clock is supplied (R327), the alarms under R332. -/
def State.timeSet (s : State) (c : Calendar) : State :=
  let s1 : State := { s with rtc := { s.rtc with now := c, trim := signed 10 (s.get Reg.RTC_CTL_TRIM) } }
  let s2 := if s1.pwr.xtal && !s1.pwr.clockHeld then
      s1.putAll [(Reg.RTC_STATUS_OSF, 0), (Reg.RTC_STATUS_ATTACH, 0), (Reg.RTC_STATUS_STOP, 0), (Reg.RTC_STATUS_LOWBAT, 0),
        (Reg.RTC_STATUS_ROLL, 0)]
    else s1
  (s2.alarmSet 0).alarmSet 1

/-- The retained state after cell attachment (R326, R392). -/
def State.heldAttach (s : State) : State :=
  let s1 := [0x124, 0x125, 0x126, 0x609, 0x60A].foldl (fun t a => t.setReg a 0#18) s
  let s2 := s1.setReg 0x608 (BitVec.ofNat 18 (0xF * 2 ^ 4))
  let s3 := s2.clearHold.put Reg.KEEP_EVENT_ABANDONED 0
  s3.setReg 0x21C (BitVec.ofNat 18 (2 ^ 4))

/-- Power first reaches the retained state while it holds none: attachment values, OSF with ATTACH (R326). -/
def State.attach (s : State) : State :=
  let s1 := s.heldAttach
  let s2 := (s1.setReg 0x20D 0#18).setReg 0x20E (BitVec.ofNat 18 (2 ^ 17 + 2 ^ 16))
  { s2 with rtc := { s2.rtc with now := {}, trim := 0 },
            pwr := { s2.pwr with retained := true, clockHeld := false, heldLost := false } }

/-- The clock counts: it holds a value, its crystal runs and it is supplied (R326). -/
def State.clockRuns (s : State) : Bool := s.pwr.retained && s.pwr.xtal && !s.pwr.clockHeld

/-- A requester of the time block: H0 to H4 each, and the firmware as one (R328). -/
def requester (x : Sender) : Nat := if x.toNat < 8 then x.toNat else 8

/-- The shadow a read sees: the frozen one, or the live clock (R328). -/
def State.shadow (s : State) (x : Sender) : Calendar × Bool :=
  match Map.get (fun _ => none) s.rtc.shadows (requester x) with
  | some v => v
  | none => (s.rtc.now, s.flag Reg.RTC_STATUS_OSF)

/-- A word of the time block (R335) from a shadow: 0 SUBSEC, 1 SECMIN, 2 DAYHR, 3 YEAR, 4 and 5 the stamp. -/
def timeWord (v : Calendar × Bool) (w : Nat) : Word :=
  let c := v.1
  BitVec.ofNat 18 (match w with
    | 0 => c.subsec
    | 1 => c.min * 2 ^ 6 + c.sec
    | 2 => c.day * 2 ^ 8 + c.wday * 2 ^ 5 + c.hour
    | 3 => b2n v.2 * 2 ^ 17 + c.month * 2 ^ 8 + c.year
    | 4 => c.stamp
    | _ => c.stamp / 2 ^ 18)

/-- Set or release a requester's shadow. -/
def State.setShadow (s : State) (x : Sender) (v : Option (Calendar × Bool)) : State :=
  { s with rtc := { s.rtc with shadows := Map.set (fun _ => none) s.rtc.shadows (requester x) v } }

/-- A read of the time block (R328): it freezes a released shadow; the read of RTC_YEAR releases it. -/
def State.readTime (s : State) (x : Sender) (w : Nat) : State × Word :=
  let v := s.shadow x
  (s.setShadow x (if w = 3 then none else some v), timeWord v w)

/-- The calendar in the set buffer RTC_NEW0 to RTC_NEW3 (R329, R335). -/
def State.setBuffer (s : State) : Calendar :=
  let w (i : Nat) : Nat := (s.reg (0x208 + i)).toNat
  { subsec := bits (w 0) 9 0, sec := bits (w 1) 5 0, min := bits (w 1) 11 6, hour := bits (w 2) 4 0,
    wday := bits (w 2) 7 5, day := bits (w 2) 12 8, month := bits (w 3) 11 8, year := bits (w 3) 7 0 }

/-- Who may set the time by registers: H0, or a PCIe host whose RIGHTS bit is set (R329). -/
def State.mayClock (s : State) (x : Sender) : Bool := isH0 x || hasRight x (s.get Reg.RTC_CTL_RIGHTS)

/-- SET in RTC_CMD (R329). -/
def State.registerSet (s : State) (x : Sender) : State :=
  if s.mayClock x then
    if s.setBuffer.valid then s.timeSet s.setBuffer else s.rtcEvent Reg.RTC_EVENT_SET_BAD
  else s

/-- An alarm register's writable bits: of RTC_ALMk_0 all but NONE and BUSY and the reserved ones (R335). -/
def almMask (w : Nat) : Word := if w = 0 then 0x3FFC0#18 else 0x1FFFF#18

/-- A write to an alarm register, from H0 alone (R335), and the computation it starts (R331). -/
def State.alarmWrite (s : State) (x : Sender) (k w : Nat) (v : Word) : State :=
  if isH0 x then
    let a := 0x210 + 4 * k + w
    (s.setReg a ((s.reg a &&& ~~~(almMask w)) ||| (v &&& almMask w))).alarmCompute k
  else s

end Sys2Proof.Machine
end

