-- ==== Sys2Proof/Machine/DescFrame.lean ====
section
/-! DEFINITION. The frames of spec/07: the opcodes' codes (Table 7-2), the 64 bytes of a descriptor (Table 7-1) and the 16 bytes of a
completion (Table 7-5), little-endian under R17. -/

namespace Sys2Proof
open Sys2Proof.Machine

/-- The opcodes of Table 7-2 with their codes (R193). -/
def opcodeTable : List (Opcode × Byte) :=
  [(.nop, 0x00#8), (.write, 0x01#8), (.read, 0x02#8), (.copy, 0x03#8), (.fill, 0x04#8), (.move, 0x05#8), (.word18Write, 0x06#8),
    (.word18Read, 0x07#8), (.rasterPost, 0x10#8), (.tableLoad, 0x11#8), (.tableSwap, 0x12#8), (.ledgerOpen, 0x20#8)] ++
  [(.ledgerStage, 0x21#8), (.ledgerQuery, 0x22#8), (.counterRead, 0x23#8), (.keepRead, 0x30#8), (.keepWrite, 0x31#8),
    (.recordPut, 0x32#8), (.recordGet, 0x33#8), (.rtcRead, 0x38#8), (.rtcSet, 0x39#8), (.checkpoint, 0x3C#8), (.abort, 0x3F#8)]

/-- The opcode with a code; every code outside the table is undefined (R193). -/
def opcodeOf (c : Byte) : Opcode := ((opcodeTable.find? (fun e => decide (e.2 = c))).map (·.1)).getD .bad

/-- The 64 bytes of a descriptor with an OPCODE byte (Table 7-1). -/
def Desc.frame (d : Desc) (opcode : Byte) : List Byte :=
  let r := d.rsv.toNat
  [opcode, BitVec.ofNat 8 (d.tmo.toNat + 16 * (r % 16))] ++ leBytes d.tag.toNat 2 ++ leBytes d.p0.toNat 4 ++ leBytes d.haddr.toNat 8 ++
    leBytes d.a0.toNat 4 ++ leBytes d.a1.toNat 4 ++ leBytes d.len.toNat 4 ++ leBytes (r / 2 ^ 4) 4 ++ leBytes d.d0.toNat 8 ++
    leBytes d.d1.toNat 8 ++ leBytes (r / 2 ^ 36) 16

/-- The OPCODE byte and the slots in a descriptor's 64 bytes (Table 7-1). -/
def readFrame (bs : List Byte) : Byte × Desc :=
  let f (a n : Nat) : Nat := leNat ((bs.drop a).take n)
  (bs.getD 0 0#8,
    { tmo := BitVec.ofNat 4 (f 1 1), tag := BitVec.ofNat 16 (f 2 2), p0 := BitVec.ofNat 32 (f 4 4), haddr := BitVec.ofNat 64 (f 8 8)
      a0 := BitVec.ofNat 32 (f 16 4), a1 := BitVec.ofNat 32 (f 20 4), len := BitVec.ofNat 32 (f 24 4), d0 := BitVec.ofNat 64 (f 32 8)
      d1 := BitVec.ofNat 64 (f 40 8), rsv := BitVec.ofNat 164 (f 1 1 / 16 + 2 ^ 4 * f 28 4 + 2 ^ 36 * f 48 16) })

end Sys2Proof

namespace Sys2Proof.Machine
open Sys2Proof

/-- Byte 0x0F of a completion (Table 7-5). -/
def lastByte (phase replay endRec : Bool) (sq : Ring) : Byte :=
  BitVec.ofNat 8 (128 * b2n phase + 64 * b2n replay + 32 * b2n endRec + sq.val)

/-- The 16 bytes of a completion (Table 7-5). -/
def Compl.entry (c : Compl) (tag : BitVec 16) (phase replay endRec : Bool) (sq : Ring) : List Byte :=
  leBytes c.result.toNat 8 ++ leBytes c.aux.toNat 4 ++ leBytes tag.toNat 2 ++ [c.status, lastByte phase replay endRec sq]

end Sys2Proof.Machine
end

