-- ==== Sys2Proof/Machine/MailboxOps.lean ====
section
/-! DEFINITION. Mailboxes and possession registers (spec/12): who may write and pop, queueing, emptying, collisions,
clearing, grants and releases. -/

namespace Sys2Proof.Machine
open Sys2Proof

/-- An end of a channel. -/
inductive MbEnd where
  | none
  | host (h : Nat)
  | firmware
  deriving DecidableEq, Repr

/-- A firmware cluster's sender ID (Table 0-6). -/
def isFirmware (x : Sender) : Bool := decide (8 ≤ x.toNat ∧ x.toNat ≤ 11)

/-- Host Hh, H0 included, exists (R12). -/
def State.hostNumExists (s : State) (h : Nat) : Bool :=
  if h = 0 then true else match hostOf h with | some p => s.hostExists p | none => false

/-- The host a binding field names. -/
def boundEnd (v : Nat) : MbEnd := if v ≤ 4 then .host v else .none

/-- The receiver of channel c's queue toward A, or toward B (Table 12-1). -/
def State.mbEnd (s : State) (c : Nat) (towardB : Bool) : MbEnd :=
  if c ≤ 3 then (if towardB then .firmware else .host (c + 1))
  else if c = 4 then (if towardB then .firmware else .host 0)
  else boundEnd (s.get (if towardB then Reg.MB_BIND_B c else Reg.MB_BIND_A c))

/-- The sender is an end. -/
def MbEnd.is (e : MbEnd) (x : Sender) : Bool :=
  match e with
  | .none => false
  | .host h => decide (x.toNat = h)
  | .firmware => isFirmware x

/-- The sender is the receiver of channel c's queue at this end: of the firmware, the cluster that serves the channel (R311). -/
def State.mbReceives (s : State) (c : Nat) (e : MbEnd) (x : Sender) : Bool :=
  match e with
  | .firmware => decide (x.toNat = 8 + s.get (Reg.MB_STAT_SERVER c))
  | _ => e.is x

def State.mbox (s : State) (c : Nat) : Mailbox := Map.get (fun _ => {}) s.mboxes c
def State.setMbox (s : State) (c : Nat) (m : Mailbox) : State := { s with mboxes := Map.set (fun _ => {}) s.mboxes c m }

/-- One of a channel's queues, with its writers. -/
def Mailbox.queue (m : Mailbox) (b : Bool) : List (Word × Sender) := if b then m.toB else m.toA
def Mailbox.writers (m : Mailbox) (b : Bool) : List Sender := if b then m.writersB else m.writersA
def Mailbox.set (m : Mailbox) (b : Bool) (q : List (Word × Sender)) (w : List Sender) : Mailbox :=
  if b then { m with toB := q, writersB := w } else { m with toA := q, writersA := w }

/-- The reply Dendin owes for a request word (R314). -/
def replyTo (w : Word) : Word :=
  if bits w.toNat 17 12 = 0 then w else BitVec.ofNat 18 (0x3F * 2 ^ 12 + bits w.toNat 17 12)

/-- Who may write a queue (Table 12-1, R309). The firmware never writes to a full queue, on any channel (R314). -/
def State.mbMayWrite (s : State) (c : Nat) (towardB : Bool) (x : Sender) : Bool :=
  let e := s.mbEnd c towardB
  let live : Bool := match e with
    | .none => false
    | .host h => decide (4 ≤ c) || s.hostNumExists h
    | .firmware => true
  let full := decide (8 ≤ ((s.mbox c).queue towardB).length)
  live && (if c ≤ 4 then
      (if towardB then (s.mbEnd c false).is x && (decide (c = 4) || s.hostNumExists x.toNat)
       else isFirmware x && !full)
    else decide (x.toNat ≤ 4) || isFirmware x && !full)

/-- A bit of MB_EVENT_h rises: the MAILBOX class of Hh, or INT0 for H0 (R311, R321). -/
def State.mbEvent (s : State) (h i : Nat) : State :=
  match hostOf h with
  | some p => s.event ⟨0x3A0 + h, i, i⟩ (0x3A8 + h) .mailbox [p]
  | none => s.put ⟨0x3A0 + h, i, i⟩ 1

/-- A word's arrival at its receiver (R311, R168). -/
def State.mbArrive (s : State) (c : Nat) (e : MbEnd) : State :=
  match e with
  | .host h =>
    let s1 := s.mbEvent h c
    match hostOf h with
    | some p =>
      if !(s1.host p).perstN && decide (s1.pwr.st = .run) then
        (s1.setHost p { s1.host p with wakeLow := true }).emit (.wakeN p true)
      else s1
    | none => s1
  | _ => s

/-- The host that a sender is, if it is one. -/
def senderHost (x : Sender) : Option Nat := if x.toNat ≤ 4 then some x.toNat else none

/-- COLL of each host among the receiver and the two senders (R313). -/
def State.mbColl (s : State) (e : MbEnd) (lost new : Sender) : State :=
  let hs := (match e with | .host h => [h] | _ => []) ++ (senderHost lost).toList ++ (senderHost new).toList
  hs.dedup.foldl (fun t h => t.mbEvent h 16) s

/-- A word that may be written enters its queue, or replaces the newest word of a full one (R310 to R313). The reply that the
firmware owes next is sent by the word that equals it. -/
def State.mbPut (s : State) (x : Sender) (c : Nat) (towardB : Bool) (v : Word) : State :=
  let m := s.mbox c
  let q := m.queue towardB
  let ws := if (m.writers towardB).contains x then m.writers towardB else m.writers towardB ++ [x]
  let e := s.mbEnd c towardB
  let owed := if c ≤ 4 && !towardB && decide (m.owed.head? = some v) then m.owed.drop 1 else m.owed
  if q.length < 8 then
    (s.setMbox c { m.set towardB (q ++ [(v, x)]) ws with owed := owed }).mbArrive c e
  else
    let lost := (q.getLast?.map (·.2)).getD 0#4
    let s1 := s.setMbox c (m.set towardB (q.dropLast ++ [(v, x)]) ws)
    let s2 := if towardB then
        ((s1.put (Reg.MB_STAT_COLLB c) 1).put (Reg.MB_COLL_LOSTB c) lost.toNat).put (Reg.MB_COLL_NEWB c) x.toNat
      else
        ((s1.put (Reg.MB_STAT_COLLA c) 1).put (Reg.MB_COLL_LOSTA c) lost.toNat).put (Reg.MB_COLL_NEWA c) x.toNat
    (s2.mbColl e lost x).mbArrive c e

/-- A write to MB_TOA_c or MB_TOB_c (R309 to R313). -/
def State.mbWrite (s : State) (x : Sender) (c : Nat) (towardB : Bool) (v : Word) : State :=
  if s.serving && s.mbMayWrite c towardB x then s.mbPut x c towardB v else s

/-- Those of the words written to one queue in one cycle that Table 12-1 and R314 permit, in ascending sender ID (R320). -/
def State.mbAllowed (s : State) (c : Nat) (towardB : Bool) (ws : List (Sender × Word)) : List (Sender × Word) :=
  ((List.range 16).flatMap (fun i => ws.filter (fun p => decide (p.1.toNat = i)))).filter
    (fun p => s.serving && s.mbMayWrite c towardB p.1)

/-- Words that may be written enter one queue in turn (R320). -/
def State.mbPutAll (s : State) (c : Nat) (towardB : Bool) (ws : List (Sender × Word)) : State :=
  ws.foldl (fun (t : State) p => t.mbPut p.1 c towardB p.2) s

/-- The firmware takes no word while it holds a reply it cannot send: the replies owed exceed the room toward A (R314). -/
def State.mbHolds (s : State) (c : Nat) (x : Sender) : Bool :=
  let m := s.mbox c
  isFirmware x && decide (c ≤ 4 ∧ 8 < m.owed.length + m.toA.length)

/-- The empty notice to one sender (R312). -/
def State.mbNotice (s : State) (c : Nat) (x : Sender) : State :=
  match senderHost x with
  | some h => s.mbEvent h (8 + c)
  | none => s.emit (.emptyNotice x c)

/-- A read of MB_RXA_c or MB_RXB_c (R309, R310, R312): the word, and the state with the word removed. Where `follows`, a write
follows in the cycle of the pop, and no notice is given (Table 12-2). -/
def State.mbTake (s : State) (x : Sender) (c : Nat) (towardB follows : Bool) : State × Word :=
  if s.serving && s.mbReceives c (s.mbEnd c towardB) x && !s.mbHolds c x then
    let m := s.mbox c
    let src (hit snd left : Nat) : State → State := fun t =>
      t.setReg (if towardB then 0x305 + 0x10 * c else 0x304 + 0x10 * c) (BitVec.ofNat 18 (hit * 2 ^ 17 + snd * 2 ^ 4 + left))
    match m.queue towardB with
    | [] => (s.putAll [(if towardB then Reg.MB_SRCB_HIT c else Reg.MB_SRCA_HIT c, 0),
        (if towardB then Reg.MB_SRCB_LEFT c else Reg.MB_SRCA_LEFT c, 0)], 0#18)
    | (w, snd) :: rest =>
      let owed := if isFirmware x && decide (c ≤ 4) then m.owed ++ [replyTo w] else m.owed
      if rest.isEmpty && !follows then
        let s1 := src 1 snd.toNat 0 (s.setMbox c { m.set towardB [] [] with owed := owed })
        ((m.writers towardB).foldl (fun (t : State) y => t.mbNotice c y) s1, w)
      else (src 1 snd.toNat rest.length (s.setMbox c { m.set towardB rest (m.writers towardB) with owed := owed }), w)
  else (s, 0#18)

/-- A read of MB_RXA_c or MB_RXB_c with no write in its cycle. -/
def State.mbPop (s : State) (x : Sender) (c : Nat) (towardB : Bool) : State × Word := s.mbTake x c towardB false

/-- What a function-level reset of Hh clears (R316): both queues of MB(h-1), every queue of MB5 to MB7 toward Hh, and
MB_EVENT_h. -/
def State.mbReset (s : State) (h : Nat) : State :=
  let clear (t : State) (c : Nat) (b : Bool) : State := t.setMbox c ((t.mbox c).set b [] [])
  let s1 := clear (clear s (h - 1) false) (h - 1) true
  let s2 := [5, 6, 7].foldl (fun (t : State) c =>
    let t1 := if t.mbEnd c false = .host h then clear t c false else t
    if t1.mbEnd c true = .host h then clear t1 c true else t1) s1
  s2.setReg (0x3A0 + h) 0#18

/-- A write of MB_BIND_c from H0: each end's change applies only while the queue toward it is empty (R321, R320). -/
def State.mbBind (s : State) (c : Nat) (v : Word) : State :=
  let norm (n : Nat) : Nat := if n ≤ 4 then n else 7
  let m := s.mbox c
  let s1 := if m.toA.isEmpty then s.put (Reg.MB_BIND_A c) (norm (bits v.toNat 5 3)) else s
  if m.toB.isEmpty then s1.put (Reg.MB_BIND_B c) (norm (bits v.toNat 2 0)) else s1

/-! Possession registers -/

def State.possOwner (s : State) (k : Nat) : Option Sender := Map.get (fun _ => none) s.poss k
def State.setPoss (s : State) (k : Nat) (o : Option Sender) : State := { s with poss := Map.set (fun _ => none) s.poss k o }

/-- A read of POSSk (R317): the state, and GRANTED with OWNER. -/
def State.possRead (s : State) (x : Sender) (k : Nat) : State × Word :=
  if s.serving then
    match s.possOwner k with
    | none => (s.setPoss k (some x), BitVec.ofNat 18 (2 ^ 17 + x.toNat))
    | some o => (s, BitVec.ofNat 18 o.toNat)
  else (s, 0#18)

/-- A write to POSSk (R318). -/
def State.possWrite (s : State) (x : Sender) (k : Nat) (v : Word) : State :=
  if s.serving ∧ s.possOwner k = some x ∧ bits v.toNat 3 0 = x.toNat then s.setPoss k none else s

/-- A write to POSS_FORCE_LO or _HI, from H0 alone (R318). -/
def State.possForce (s : State) (x : Sender) (high : Bool) (v : Word) : State :=
  if s.serving && isH0 x then
    ((List.range 16).filter (fun i => bit v.toNat i)).foldl (fun (t : State) i => t.setPoss (if high then 16 + i else i) none) s
  else s

/-- POSS_FREE_LO or _HI. -/
def State.possFree (s : State) (high : Bool) : Nat :=
  (List.range 16).foldl (fun acc i => acc + b2n (s.possOwner (if high then 16 + i else i)).isNone * 2 ^ i) 0

end Sys2Proof.Machine
end

