-- ==== Sys2Proof/Machine/HostOps.lean ====
section
/-! DEFINITION. Rings and doorbells (spec/06): windows, ring set-up, polls, fetches, completions and their interrupts,
replay records. -/

namespace Sys2Proof.Machine
open Sys2Proof

/-! Ring registers -/

def State.sqState (s : State) (h j : Nat) : Nat := s.get (Reg.HOST_SQ_STAT_STATE h j)
def State.sqHead (s : State) (h j : Nat) : Nat := s.get (Reg.HOST_SQ_STAT_HEAD h j)
/-- Entries of a ring from its SIZE field (R170). -/
def ringEntries (size : Nat) : Nat := 2 ^ (size + 6)
def State.sqSize (s : State) (h j : Nat) : Nat := ringEntries (s.get (Reg.HOST_SQ_CFG_SIZE h j))
def State.cqSize (s : State) (h q : Nat) : Nat := ringEntries (s.get (Reg.HOST_CQ_CFG_SIZE h q))
/-- The CQ of an SQ. -/
def State.sqCq (s : State) (h j : Nat) : Nat := s.get (Reg.HOST_SQ_CFG_CQ h j)
/-- A CQ is ACTIVE: EN 1 and not STOPPED (R191). -/
def State.cqActive (s : State) (h q : Nat) : Bool := s.flag (Reg.HOST_CQ_CFG_EN h q) && !s.flag (Reg.HOST_CQ_STAT_STOPPED h q)
def State.cqTail (s : State) (h q : Nat) : Nat := s.get (Reg.HOST_CQ_STAT_TAIL h q)

def sqDisabled : Nat := 0
def sqActive : Nat := 1
def sqDraining : Nat := 2
def sqStopped : Nat := 3

/-- Every SQ and CQ of a host is DISABLED. -/
def State.ringsOff (s : State) (h : Nat) : Bool :=
  [0, 1, 2, 3].all (fun j => decide (s.sqState h j = sqDisabled) && !s.flag (Reg.HOST_CQ_CFG_EN h j))

/-! Windows (R171) -/

/-- A page address of 36 bits held in two registers. -/
def State.page36 (s : State) (lo hi : Fld) : Nat := s.get lo + 2 ^ 18 * s.get hi

/-- The bytes [lo, hi], bits [47:0] of host addresses, lie in one window that grants the right. -/
def State.inWindows (s : State) (h lo hi : Nat) (write : Bool) : Bool :=
  let grants := s.get (if write then Reg.HOST_CTL_WIN_WR h else Reg.HOST_CTL_WIN_RD h)
  [0, 1, 2, 3].any (fun k => bit grants k &&
    decide (s.page36 (Reg.HOST_WIN_BASE_LO h k) (Reg.HOST_WIN_BASE_HI h k) ≤ lo / 4096 ∧
      hi / 4096 ≤ s.page36 (Reg.HOST_WIN_LIM_LO h k) (Reg.HOST_WIN_LIM_HI h k)))

/-- A descriptor's host range passes R171: its segment is the host's and its bytes lie in a window. -/
def State.hostRangeOk (s : State) (h : Nat) (addr len : Nat) (write : Bool) : Bool :=
  decide (addr / 2 ^ 48 = s.get (Reg.HOST_SEG_SEG h)) && s.inWindows h (addr % 2 ^ 48) (addr % 2 ^ 48 + (len - 1)) write

/-- The doorbell block lies in a window that grants read. -/
def State.doorbellOk (s : State) (h : Nat) : Bool :=
  let a := s.page36 (Reg.HOST_DB_LO h) (Reg.HOST_DB_HI h) * 4096
  s.inWindows h a (a + 63) false

/-- A ring's own range passes R171. -/
def State.sqRangeOk (s : State) (h j size : Nat) : Bool :=
  let a := s.page36 (Reg.HOST_SQ_BASE_LO h j) (Reg.HOST_SQ_BASE_HI h j) * 4096
  s.inWindows h a (a + 64 * ringEntries size - 1) false
def State.cqRangeOk (s : State) (h q size : Nat) : Bool :=
  let a := s.page36 (Reg.HOST_CQ_BASE_LO h q) (Reg.HOST_CQ_BASE_HI h q) * 4096
  s.inWindows h a (a + 16 * ringEntries size - 1) true

/-! Ring errors (R172, R189) -/

/-- CODE values of HOST_ERR_h. -/
def errTailRange : Nat := 1
def errTailBack : Nat := 2
def errHeadRange : Nat := 3
def errFetch : Nat := 4
def errDb : Nat := 5
def errWindow : Nat := 6
def errSize : Nat := 7
def errCqOff : Nat := 8
def errLocked : Nat := 9

/-- Record a ring error with its event bit. -/
def State.ringErr (s : State) (h : PHost) (code : Nat) (cq : Bool) (j : Nat) (ev : Nat → Fld) : State :=
  ((((s.put (Reg.HOST_ERR_CODE h.val) code).put (Reg.HOST_ERR_CQ h.val) (b2n cq)).put (Reg.HOST_ERR_RING h.val) j)).hostEvent h ev

/-- A set-up write refused under Table 6-5. -/
def State.ringRefuse (s : State) (h : PHost) (code : Nat) (cq : Bool) (j : Nat) : State :=
  s.ringErr h code cq j Reg.HOST_EVENT_REFUSED

/-- An SQ is STOPPED. -/
def State.stopSq (s : State) (h : PHost) (j code : Nat) : State :=
  (s.put (Reg.HOST_SQ_STAT_STATE h.val j) sqStopped).ringErr h code false j Reg.HOST_EVENT_SQ_STOP

/-- A CQ is STOPPED. -/
def State.stopCq (s : State) (h : PHost) (q : Nat) : State :=
  (s.put (Reg.HOST_CQ_STAT_STOPPED h.val q) 1).ringErr h errHeadRange true q Reg.HOST_EVENT_CQ_STOP

/-! Flights -/

/-- Descriptors of an SQ that are fetched and have no written completion. -/
def State.sqFlights (s : State) (h : PHost) (j : Nat) : Nat :=
  (s.flights.filter (fun f => decide (f.host = h ∧ f.sq.val = j))).length
def State.sqFetching (s : State) (h : PHost) (j : Nat) : Nat := Map.get (fun _ => 0) (s.host h).fetching j
def State.setFetching (s : State) (h : PHost) (j n : Nat) : State :=
  let p := s.host h
  s.setHost h { p with fetching := Map.set (fun _ => 0) p.fetching j n }

/-- Descriptors of a host that are fetched, or asked for, and not completed (R177). -/
def State.hostLoad (s : State) (h : PHost) : Nat :=
  (s.flights.filter (fun f => decide (f.host = h))).length + ([0, 1, 2, 3].map (s.sqFetching h)).sum

/-- Free completion slots of a CQ: size - 1, less those written and not consumed and those reserved (R177). -/
def State.cqFree (s : State) (h : PHost) (q : Nat) : Nat :=
  let n := s.cqSize h.val q
  let head := Map.get (fun _ => 0) (s.host h).heads q
  let unread := (s.cqTail h.val q + n - head) % n
  let reserved := ([0, 1, 2, 3].map (fun j => if s.sqCq h.val j = q then s.sqFlights h j + s.sqFetching h j else 0)).sum
  n - 1 - unread - reserved

/-- The oldest flight that meets a test, by its place in the list. -/
def State.findFlight (s : State) (p : Flight → Bool) : Option (Nat × Flight) :=
  match s.flights.findIdx? p with
  | some i => s.flights[i]?.map (fun f => (i, f))
  | none => none

def State.setFlight (s : State) (i : Nat) (f : Flight) : State := { s with flights := s.flights.set i f }
def State.dropFlight (s : State) (i : Nat) : State := { s with flights := s.flights.eraseIdx i }

/-- What lets a function's TLPs flow while its link is up: no retraining (R159), and Bus Master Enable (R162). -/
def HostPort.flow (p : HostPort) : Bool × Map (BitVec 32) := (p.retraining, p.cfg)
def HostPort.flows (p : HostPort) : Bool := !p.flow.1 && (Map.get cfgReset p.flow.2 cfgCommand).getLsbD 2

/-- The TLP path to a host is open: its link is up and does not retrain (R159), its function may issue requests, in RUN or
DRAIN. Data for a function that may not is not taken either (log entry 102). -/
def State.linkOpen (s : State) (h : PHost) : Bool := s.serving && (s.host h).up && (s.host h).flows

/-- The device sends a TLP to a host: it leaves L1 first (R168). -/
def State.leaveL1 (s : State) (h : PHost) : State := s.setHost h { s.host h with l1 := false }

/-! Completions (R181, R182) -/

/-- A CQ's interrupt message (R182). -/
def State.cqSend (s : State) (h : PHost) (q : Nat) : State :=
  let p := s.host h
  (s.setHost h { p with unsent := Map.set (fun _ => 0) p.unsent q 0 }).msix h (s.get (Reg.HOST_CQ_CFG_VECTOR h.val q))

/-- One completion written since the CQ's last message (R182). -/
def State.cqCount (s : State) (h : PHost) (q : Nat) : State :=
  let p := s.host h
  let n := Map.get (fun _ => 0) p.unsent q + 1
  let s1 := s.setHost h { p with unsent := Map.set (fun _ => 0) p.unsent q n }
  if s.flag (Reg.HOST_CQ_CFG_IEN h.val q) &&
      (decide (2 ^ s.get (Reg.HOST_CQ_CFG_COUNT h.val q) ≤ n) || decide (s.get (Reg.HOST_CQ_CFG_TIME h.val q) = 0)) then
    s1.cqSend h q
  else s1

/-- Write a completion at TAIL of a CQ (R181). -/
def State.writeCompl (s : State) (h : PHost) (q : Ring) (j : Ring) (tag : BitVec 16) (c : Compl) (replay endRec : Bool) : State :=
  let t := s.cqTail h.val q.val
  let ph := s.flag (Reg.HOST_CQ_STAT_PHASE h.val q.val)
  let t1 := (t + 1) % s.cqSize h.val q.val
  let s1 := (s.leaveL1 h).emit (.completion h q t tag c ph replay endRec j (c.entry tag ph replay endRec j))
  let s2 := (s1.put (Reg.HOST_CQ_STAT_TAIL h.val q.val) t1).put (Reg.HOST_CQ_STAT_PHASE h.val q.val) (b2n (if t1 = 0 then !ph else ph))
  s2.cqCount h q.val

/-- A DRAINING SQ with nothing fetched left becomes DISABLED (Table 6-5). -/
def State.settleSq (s : State) (h : PHost) (j : Nat) : State :=
  if s.sqState h.val j = sqDraining ∧ s.sqFlights h j = 0 ∧ s.sqFetching h j = 0 then s.put (Reg.HOST_SQ_STAT_STATE h.val j) sqDisabled
  else s

/-- Write the completions of one SQ in ring order, up to the first descriptor that has none yet (R179); a CQ that is not
ACTIVE discards them (R189). VOLLEY_CUT is written with the REPLAY flag, as of replay completions only (Table 7-7). -/
def State.retireSq (s : State) (h : PHost) (j : Ring) : Nat → State
  | 0 => s
  | n + 1 =>
    match s.findFlight (fun f => decide (f.host = h ∧ f.sq = j)) with
    | some (i, f) =>
      match f.compl with
      | some c =>
        let q : Ring := Fin.ofNat 4 (s.sqCq h.val j.val)
        let s1 := s.dropFlight i
        State.retireSq (if s.cqActive h.val q.val then
            s1.writeCompl h q j f.d.tag c (decide (c.status = Status.volleyCut)) false else s1) h j n
      | none => s
    | none => s

/-- Write every completion of a host that may be written. -/
def State.retireHost (s : State) (h : PHost) : State :=
  if s.linkOpen h then
    ([0, 1, 2, 3] : List Ring).foldl (fun t j => (t.retireSq h j t.flights.length).settleSq h j.val) s
  else s

/-- Write the completions of every host. -/
def State.retireAll (s : State) : State := ([0, 1, 2, 3] : List PHost).foldl State.retireHost s

/-- Fix the status of the i-th flight (R180). -/
def State.fixFlight (s : State) (i : Nat) (c : Compl) : State :=
  match s.flights[i]? with
  | some f => s.setFlight i { f with compl := some c, committed := true, stage := .done }
  | none => s

/-- Fix a flight's status and write what may be written. -/
def State.finish (s : State) (i : Nat) (c : Compl) : State := (s.fixFlight i c).retireAll

/-! Replay records (R188) -/

/-- Replay and end records of a host still to be written (HOST_CUT_h). -/
def State.cutCount (s : State) (h : PHost) : Nat := (s.dev.replay.filter (fun r => decide (r.host = h))).length

/-- Write one replay record of a host into its replay CQ, if it has a free slot. -/
def State.replayOne (s : State) (h : PHost) (q : Ring) : Option State :=
  match s.dev.replay.findIdx? (fun r => decide (r.host = h)) with
  | none => none
  | some i =>
    match s.dev.replay[i]? with
    | none => none
    | some r =>
      if 0 < s.cqFree h q.val ∧ s.cqActive h q.val then
        let s1 : State := { s with dev := { s.dev with replay := s.dev.replay.eraseIdx i } }
        some (s1.writeCompl h q r.sq r.tag r.compl true r.endRec)
      else none

def State.replayGo (s : State) (h : PHost) (q : Ring) : Nat → State
  | 0 => s
  | n + 1 =>
    match s.replayOne h q with
    | some t => State.replayGo t h q n
    | none => s

/-- The host's replay records are being written and its CQ holds back fetches (R188). -/
def State.replaying (s : State) (h : PHost) (q : Nat) : Bool :=
  decide ((s.host h).replayCq.map (·.val) = some q ∧ 0 < s.cutCount h)

/-! Fetching (R177, R178) -/

def State.sqTail (s : State) (h : PHost) (j : Nat) : Nat := Map.get (fun _ => 0) (s.host h).tails j

/-- Posted descriptors of an SQ not yet asked for. -/
def State.sqPosted (s : State) (h : PHost) (j : Nat) : Nat :=
  let n := s.sqSize h.val j
  (s.sqTail h j + n - s.sqHead h.val j) % n - s.sqFetching h j

/-- Bytes of a descriptor's host data that have arrived. -/
def Flight.received (f : Flight) : Nat := f.moved + f.buf.length

/-- Read requests of a descriptor's host data that are outstanding, each of at most m bytes and inside one block of m (R155). -/
def Flight.reads (f : Flight) (m : Nat) : Nat :=
  if f.asked ≤ f.received ∨ f.ending.isSome ∨ f.compl.isSome then 0
  else (f.d.haddr.toNat + f.asked - 1) / m + 1 - (f.d.haddr.toNat + f.received) / m

/-- Non-posted requests of a host that are outstanding, a fetch counted as requests of 8 descriptors (R155, Table 6-1). -/
def State.nonPosted (s : State) (h : PHost) : Nat :=
  (s.host h).polls + ([0, 1, 2, 3].map (fun j => (s.sqFetching h j + 7) / 8)).sum +
    ((s.flights.filter (fun f => decide (f.host = h))).map (fun f => f.reads (s.host h).maxRead)).sum

/-- R178. -/
def State.eligible (s : State) (h : PHost) (j : Nat) : Bool :=
  let q := s.sqCq h.val j
  decide (s.pwr.st = .run) && s.linkOpen h && !(s.host h).d3 && decide (s.sqState h.val j = sqActive) && decide (0 < s.sqPosted h j) &&
    s.cqActive h.val q && decide (0 < s.cqFree h q) && decide (s.hostLoad h < 256) && !s.replaying h q &&
    decide (s.nonPosted h < (s.host h).tags)

/-- One turn of an SQ: a read of up to 8 descriptors and of at most Max_Read_Request_Size, that does not cross the ring's end
(R177, R178). -/
def State.fetchTurn (s : State) (h : PHost) (j : Ring) : State :=
  let n := s.sqSize h.val j.val
  let i := (s.sqHead h.val j.val + s.sqFetching h j.val) % n
  let k := min (min 8 (s.host h).maxFetch)
    (min (s.sqPosted h j.val) (min (s.cqFree h (s.sqCq h.val j.val)) (min (256 - s.hostLoad h) (n - i))))
  ((s.leaveL1 h).emit (.fetchRead h j i k)).setFetching h j.val (s.sqFetching h j.val + k)

/-- Turns an SQ has had in its host's round. -/
def HostPort.servedOf (p : HostPort) (j : Nat) : Nat := Map.get (fun _ => 0) p.served j

/-- The SQ that a host's turn serves: the first eligible one with a turn left of its WEIGHT + 1, else the first eligible one, with
which a new round begins (`true`). -/
def State.turnSq (s : State) (h : PHost) : Option (Ring × Bool) :=
  match ([0, 1, 2, 3] : List Ring).find? (fun j =>
      s.eligible h j.val && decide ((s.host h).servedOf j.val ≤ s.get (Reg.HOST_SQ_CFG_WEIGHT h.val j.val))) with
  | some j => some (j, false)
  | none => (([0, 1, 2, 3] : List Ring).find? (fun j => s.eligible h j.val)).map (fun j => (j, true))

/-- One turn of a host: the next eligible SQ in its own round (R178). -/
def State.hostTurn (s : State) (h : PHost) : State :=
  match s.turnSq h with
  | some (j, fresh) =>
    let t := s.fetchTurn h j
    let p := t.host h
    let served := if fresh then [] else p.served
    t.setHost h { p with turns := p.turns + 1, served := Map.set (fun _ => 0) served j.val (Map.get (fun _ => 0) served j.val + 1) }
  | none => s

/-- The host that its port serves next: the first one with an eligible SQ and a turn left of its WEIGHT + 1, else the first one
with an eligible SQ, with which a new round begins (`true`). -/
def State.turnHost (s : State) (hs : List PHost) : Option (PHost × Bool) :=
  match hs.find? (fun h => (s.turnSq h).isSome && decide ((s.host h).turns ≤ s.get (Reg.HOST_CTL_WEIGHT h.val))) with
  | some h => some (h, false)
  | none => (hs.find? (fun h => (s.turnSq h).isSome)).map (fun h => (h, true))

/-- A new round of a port's hosts. -/
def State.newRound (s : State) (hs : List PHost) : State :=
  hs.foldl (fun (t : State) h => t.setHost h { t.host h with turns := 0 }) s

/-- Turns of a port's weighted round robin over its hosts, until none is eligible; the next turn goes on where the last one ended
(R178). -/
def State.fetchTurns : Nat → State → List PHost → State
  | 0, s, _ => s
  | n + 1, s, hs =>
    match s.turnHost hs with
    | some (h, fresh) => State.fetchTurns n ((if fresh then s.newRound hs else s).hostTurn h) hs
    | none => s

/-- The hosts of a port (R12). -/
def portHosts (h : PHost) : List PHost := if h.val < 2 then [0, 1] else [2, 3]

/-- Issue every fetch that may be issued on the host's port. -/
def State.issueFetches (s : State) (h : PHost) : State :=
  State.fetchTurns 512 s ((portHosts h).filter (s.hostExists ·))

/-- Write the host's replay records while its CQ has slots; once all are written, fetching goes on (R188). -/
def State.replayWrite (s : State) (h : PHost) : State :=
  match (s.host h).replayCq with
  | some q =>
    if s.linkOpen h then
      let s1 := s.replayGo h q s.dev.replay.length
      if s1.cutCount h = 0 then (s1.setHost h { s1.host h with replayCq := none }).issueFetches h else s1
    else s
  | none => s

/-! Ring set-up writes (Table 6-5) -/

/-- Who may write host Hh's ring set-up registers: Hh and H0 (R172). -/
def mayRing (x : Sender) (h : PHost) : Bool := isH0 x || decide (x = hostSender h)

/-- A write of HOST_SQ_CFG_h_j (R172, Table 6-5). -/
def State.sqCfgWrite (s : State) (x : Sender) (h : PHost) (j : Nat) (v : Word) : State :=
  if !(mayRing x h && s.hostExists h) then s
  else
    let a := (Reg.HOST_SQ_CFG h.val j).addr
    let new : Word := v &&& 0x3FF00#18
    let st := s.sqState h.val j
    let old := s.reg a
    if st ≠ sqDisabled ∧ ((old ^^^ new) &&& 0x1FF00#18) ≠ 0#18 then s.ringRefuse h errLocked false j
    else if new.getLsbD 17 then
      if st = sqDraining then s.ringRefuse h errLocked false j
      else if st = sqDisabled then
        if 10 < bits new.toNat 16 13 then s.ringRefuse h errSize false j
        else if !(s.sqRangeOk h.val j (bits new.toNat 16 13) && s.doorbellOk h.val) then s.ringRefuse h errWindow false j
        else if !s.cqActive h.val (bits new.toNat 12 11) then s.ringRefuse h errCqOff false j
        else
          let s1 := (s.setReg a new).setReg (Reg.HOST_SQ_STAT h.val j).addr (BitVec.ofNat 18 (sqActive * 2 ^ 16))
          let p := s1.host h
          s1.setHost h { p with tails := Map.set (fun _ => 0) p.tails j 0, fetching := Map.set (fun _ => 0) p.fetching j 0 }
      else s
    else if st = sqDisabled then s.setReg a new
    else ((s.setReg a new).put (Reg.HOST_SQ_STAT_STATE h.val j) sqDraining).settleSq h j

/-- A write of HOST_CQ_CFG_h_j (R172, Table 6-5). Replay records that a CQ disabled here has not received stay, for the CQ that its host
enables next (log entry 119, DESIGN CHOICE). -/
def State.cqCfgWrite (s : State) (x : Sender) (h : PHost) (q : Nat) (v : Word) : State :=
  if !(mayRing x h && s.hostExists h) then s
  else
    let a := (Reg.HOST_CQ_CFG h.val q).addr
    let old := s.reg a
    let on := old.getLsbD 17
    let new : Word := v
    if on && decide (((old ^^^ new) &&& 0x0F000#18) ≠ 0#18) then s.ringRefuse h errLocked true q
    else if new.getLsbD 17 then
      if on then s.setReg a new
      else if 10 < bits new.toNat 15 12 then s.ringRefuse h errSize true q
      else if !(s.cqRangeOk h.val q (bits new.toNat 15 12) && s.doorbellOk h.val) then s.ringRefuse h errWindow true q
      else
        let s1 := (s.setReg a new).setReg (Reg.HOST_CQ_STAT h.val q).addr (BitVec.ofNat 18 (2 ^ 17))
        let p := s1.host h
        let first := decide (p.replayCq = none ∧ 0 < s1.cutCount h)
        s1.setHost h { p with heads := Map.set (fun _ => 0) p.heads q 0, unsent := Map.set (fun _ => 0) p.unsent q 0,
                              replayCq := if first then some (Fin.ofNat 4 q) else p.replayCq }
    else if on && [0, 1, 2, 3].any (fun j => decide (s.sqState h.val j ≠ sqDisabled ∧ s.sqCq h.val j = q)) then
      s.ringRefuse h errLocked true q
    else
      let s1 := (s.setReg a new).put (Reg.HOST_CQ_STAT_STOPPED h.val q) 0
      let p := s1.host h
      s1.setHost h { p with replayCq := if p.replayCq.map (·.val) = some q then none else p.replayCq }

/-! Polls (R173 to R175) -/

/-- Word i of a doorbell block. -/
def dbWord (b : BitVec 512) (i : Nat) : Nat := b.toNat / 2 ^ (32 * i) % 2 ^ 32

/-- Whether the device polls a host's doorbell block (R175). -/
def State.polls (s : State) (h : PHost) : Bool :=
  [0, 1, 2, 3].any (fun j => decide (s.sqState h.val j = sqActive ∨ s.sqState h.val j = sqDraining) || s.cqActive h.val j)

/-- The poll period set as a poll is issued, `idle` µs after the host's last activity (R175). -/
def State.nextPeriod (s : State) (h : PHost) (idle : Nat) : Nat :=
  let p := s.host h
  let ceil := 1000 * s.get (Reg.HOST_POLL_CEIL h.val)
  if s.flights.any (fun f => decide (f.host = h)) || p.fast || decide (idle < s.get (Reg.HOST_POLL_HOLD h.val)) || decide (ceil = 0) then 250
  else min (2 * p.period) ceil

/-- A CQ head from poll data (R174). -/
def State.pollHead (s : State) (h : PHost) (q : Nat) (w : Nat) : State :=
  if s.cqActive h.val q then
    let n := s.cqSize h.val q
    let p := s.host h
    let old := Map.get (fun _ => 0) p.heads q
    if n ≤ w ∨ (s.cqTail h.val q + n - old) % n < (w + n - old) % n then s.stopCq h q
    else s.setHost h { p with heads := Map.set (fun _ => 0) p.heads q w }
  else s

/-- An SQ tail from poll data (R174). -/
def State.pollTail (s : State) (h : PHost) (j : Nat) (w : Nat) : State :=
  if s.sqState h.val j = sqActive then
    let n := s.sqSize h.val j
    let p := s.host h
    let old := Map.get (fun _ => 0) p.tails j
    let hd := s.sqHead h.val j
    if n ≤ w then s.stopSq h j errTailRange
    else if (w + n - hd) % n < (old + n - hd) % n then s.stopSq h j errTailBack
    else
      let p1 := if w = old then p else { p with period := 250 }
      s.setHost h { p1 with tails := Map.set (fun _ => 0) p1.tails j w }
  else s

/-- Poll data is applied: heads, tails, FAST, then the fetches it allows (R174, R175, R176). -/
def State.pollData (s : State) (h : PHost) (b : BitVec 512) : State :=
  let s1 := [0, 1, 2, 3].foldl (fun (t : State) q => t.pollHead h q (dbWord b (4 + q))) s
  let s2 := [0, 1, 2, 3].foldl (fun (t : State) j => t.pollTail h j (dbWord b j)) s1
  let p := s2.host h
  let fast := bit (dbWord b 8) 0
  (s2.setHost h { p with fast := fast, failing := false, period := if fast then 250 else p.period,
                         polls := p.polls - 1 }).issueFetches h

/-! Errors of the functions (R167) -/

/-- The header log takes the header of a TLP in error; no command carries it whole: a free value. -/
def HostPort.takeHeader (p : HostPort) (h : PHost) : HostPort :=
  { p.logHeader (Config.tlpHeader h.val p.headers) with headers := p.headers + 1 }

/-- A function reports an error, and sends its message at once or, while its link retrains, at the end of that (R159, R167); the first
error logs the header of its TLP. -/
def State.reportError (s : State) (h : PHost) (e : TlpError) (advisory : Bool) : State :=
  let p := s.host h
  if p.up then
    let r := (if p.logsHeader e advisory then p.takeHeader h else p).error e advisory
    match r.2 with
    | some k =>
      if p.retraining then s.setHost h { r.1 with due := r.1.due ++ [.error k] }
      else (s.setHost h { r.1 with l1 := false }).emit (.errMessage h k)
    | none => s.setHost h r.1
  else s

/-- A read that the device issued has failed: what the function records (R161, R167). -/
def State.readFailed (s : State) (h : PHost) (why : ReadFail) : State :=
  match why with
  | .unsupported => s.setHost h ((s.host h).cfgOr cfgCommand 0x20000000#32)
  | .completerAbort => s.setHost h ((s.host h).cfgOr cfgCommand 0x10000000#32)
  | .poisoned => s.reportError h .poisoned false
  | .timeout => s.reportError h .timeout false
  | .lost => (s.reportError h .internal false).reportError h .timeout false

/-- What the function records of data that it reads (R82, R167). -/
def State.dataFailed (s : State) (h : PHost) (d : HostData) : State :=
  if d.poison then s.readFailed h .poisoned
  else if d.fail then s.readFailed h (if d.abort then .completerAbort else .unsupported)
  else s

/-- The messages that a retraining held are sent (R159). -/
def State.sendDue (s : State) (h : PHost) : State :=
  ((s.host h).due).foldl (fun (t : State) d =>
    match d with
    | .vector v => t.msix h v
    | .error k => (t.leaveL1 h).emit (.errMessage h k)) (s.setHost h { s.host h with due := [] })

end Sys2Proof.Machine
end

