-- ==== Sys2Proof/Machine/ArrayOps.lean ====
section
/-! DEFINITION. The persistent array's shared operations (spec/03): codewords with their tags and error state, region
states, rights, clears, seals' erasure, sparing, retirement, MOVE and the partition changes of Table 3-4. -/

namespace Sys2Proof.Machine
open Sys2Proof

/-! Images -/

def Image.word (m : Image) (off : Nat) : Word := Map.get (fun _ => m.blank) m.cells off
def Image.setWord (m : Image) (off : Nat) (w : Word) : Image := { m with cells := Map.set (fun _ => m.blank) m.cells off w }
def Image.eccOf (m : Image) (idx : Nat) : Nat := (Map.get (fun _ => 0) m.ecc idx).val
def Image.setEcc (m : Image) (idx : Nat) (e : Fin 4) : Image := { m with ecc := Map.set (fun _ => 0) m.ecc idx e }

/-- A region image with every word alike and every codeword sound: a clear's outcome (R95). -/
def Image.flat (w : Word) : Image := { blank := w }

/-- The tile cells of a physical region. -/
def State.image (s : State) (p : Nat) : Image := Map.get (fun _ => {}) s.arr p
def State.setImage (s : State) (p : Nat) (m : Image) : State := { s with arr := Map.set (fun _ => {}) s.arr p m }

/-! Region states (Table 3-4, STATE of PART_REGION_r) -/

namespace RState

def available : Nat := 0
def assigned : Nat := 1
def moveDest : Nat := 2
def forward : Nat := 3
def retiring : Nat := 4
def retired : Nat := 5
def device : Nat := 6

end RState

def State.rstate (s : State) (r : Nat) : Nat := s.get (Reg.PART_REGION_STATE r)
def State.setRstate (s : State) (r st : Nat) : State := s.put (Reg.PART_REGION_STATE r) st

/-- The partition of a region, where it has one (R85). -/
def State.partOf (s : State) (r : Nat) : Option Nat :=
  let p := s.get (Reg.PART_REGION_PARTITION r)
  if p < 63 ∧ r < 63 then some p else none

/-- The regions of a partition. -/
def State.regionsOf (s : State) (p : Nat) : List Nat := (List.range 63).filter (fun r => decide (s.partOf r = some p))

def State.persistent (s : State) (p : Nat) : Bool := s.flag (Reg.PART_ATTR_PERSIST p)
def State.indep (s : State) (p : Nat) : Bool := s.flag (Reg.PART_ATTR_INDEP p)
def State.ownerOf (s : State) (p : Nat) : Nat := s.get (Reg.PART_ATTR_OWNER p)

/-- The PCIe host that owns the partition of a region, for R395. -/
def State.regionOwner (s : State) (r : Nat) : List PHost :=
  match s.partOf r with
  | some p => (hostOf (s.ownerOf p)).toList
  | none => []

/-- The rights of host h over partition p: the owner's are read-write whatever was written (R85, R89). -/
def State.rightOf (s : State) (p h : Nat) : Nat :=
  if s.ownerOf p = h then 3
  else match h with
    | 0 => s.get (Reg.PART_RIGHTS_H0 p)
    | 1 => s.get (Reg.PART_RIGHTS_H1 p)
    | 2 => s.get (Reg.PART_RIGHTS_H2 p)
    | 3 => s.get (Reg.PART_RIGHTS_H3 p)
    | 4 => s.get (Reg.PART_RIGHTS_H4 p)
    | _ => 0

/-! MOVE entries -/

/-- The entry that forwards region r (PHASE 2). -/
def State.forwardEntry (s : State) (r : Nat) : Option Nat :=
  (List.range 8).find? (fun n => decide (s.get (Reg.ARR_MOVE_PHASE n) = 2 ∧ s.get (Reg.ARR_MOVE_SRC n) = r))

/-- The region whose clusters serve accesses to region r: the end of its forwards (R101). -/
def State.follow (s : State) : Nat → Nat → Nat
  | 0, r => r
  | f + 1, r =>
    if s.rstate r = RState.forward then
      match s.forwardEntry r with
      | some n => State.follow s f (s.get (Reg.ARR_MOVE_DST n))
      | none => r
    else r

/-- The region number that answers for accesses to region r. -/
def State.target (s : State) (r : Nat) : Nat := s.follow 8 r

/-- The physical region that holds region r's cells: region 63 may be served elsewhere (R105). -/
def State.physOf (s : State) (r : Nat) : Nat := if r = 63 then s.phys63 else s.target r

/-- A MOVE entry names the region (Table 3-4, "holds no MOVE"). -/
def State.holdsMove (s : State) (r : Nat) : Bool :=
  (List.range 8).any (fun n => decide (s.get (Reg.ARR_MOVE_PHASE n) ≠ 0 ∧
    (s.get (Reg.ARR_MOVE_SRC n) = r ∨ s.get (Reg.ARR_MOVE_DST n) = r)))

/-! Band rings (R207, R208) -/

def State.stnArmed (s : State) (n : Nat) : Bool := s.flag (Reg.STN_STATUS_ARMED n) || s.flag (Reg.STN_STATUS_WAIT_SOS n)

/-- Bytes of a raster line: D/2 with D = 64 × W64 (R207). -/
def State.lineBytes (s : State) (n : Nat) : Nat := 32 * s.get (Reg.STN_LINE_W64 n)
def State.ringBase (s : State) (n : Nat) : Nat :=
  64 * (s.get (Reg.STN_RING_LO_BASE_LO n) + 2 ^ 18 * s.get (Reg.STN_RING_HI_BASE_HI n))
def State.ringSize (s : State) (n : Nat) : Nat := s.get (Reg.STN_RING_SIZE_SIZE n)
def State.ringEnd (s : State) (n : Nat) : Nat := s.ringBase n + s.ringSize n * s.lineBytes n

/-- The regions that a byte range touches. -/
def regionsOfRange (first last : Nat) : List Nat :=
  (List.range (last / 2 ^ 25 + 1 - first / 2 ^ 25)).map (fun i => first / 2 ^ 25 + i)

def State.ringRegions (s : State) (n : Nat) : List Nat := regionsOfRange (s.ringBase n) (s.ringEnd n - 1)

/-- An armed station's band ring touches the region. -/
def State.ringTouches (s : State) (r : Nat) : Bool :=
  (List.range 8).any (fun n => s.stnArmed n && (s.ringRegions n).contains r)

/-- An armed station's band ring lies in the partition (Table 3-4). -/
def State.ringIn (s : State) (p : Nat) : Bool := (s.regionsOf p).any (s.ringTouches ·)

/-! Clears and seals -/

/-- The cleared pattern of a region (R95): WIPED in every word for a byte-view partition, else zero. -/
def State.clearedWord (s : State) (r : Nat) : Word :=
  match s.partOf r with
  | some p => if s.rstate r ≠ RState.available ∧ !s.flag (Reg.PART_ATTR_VIEW p) then 0x10000#18 else 0#18
  | none => 0#18

/-- A region clear (R95); accesses wait while it runs. -/
def State.clearRegion (s : State) (r : Nat) : State :=
  let s1 := s.setImage r (Image.flat (s.clearedWord r))
  { s1 with clearing := if s.clearing.contains r then s.clearing else s.clearing ++ [r] }

/-- Erase a physical region's seal block in plane B or A (R110, R111). -/
def State.eraseSeal (s : State) (p : Nat) (b : Bool) : State :=
  let es := (List.range 8).map (fun k => (8 * p + k, 0#18))
  if b then { s with sealB := Map.setAll (fun _ => 0#18) s.sealB es }
  else { s with sealA := Map.setAll (fun _ => 0#18) s.sealA es }

/-- Invalidate both seals of a region (Table 3-4). -/
def State.eraseSeals (s : State) (p : Nat) : State := (s.eraseSeal p false).eraseSeal p true

/-! Sparing and retirement -/

/-- ARR_LAST (R106): cause, cluster (15 for none) and region. -/
def State.arrLast (s : State) (cause cluster r : Nat) : State :=
  s.setReg 0x405 (BitVec.ofNat 18 (cause * 2 ^ 10 + cluster * 2 ^ 6 + r))

/-- Sweeper yields the window it holds (R357). -/
def State.yieldHeld (s : State) : State :=
  match s.fw.window with
  | some w => ({ s with fw := { s.fw with window := none, yielded := s.fw.yielded ++ [(w, s.stamp)] } } : State).bump Reg.SWP_YIELDS_COUNT
  | none => s

/-- Sweeper yields the array window it holds in a region (R357). -/
def State.yieldWindow (s : State) (r : Nat) : State :=
  match s.fw.window with
  | some w => if !w.pad && decide (w.region = r) then s.yieldHeld else s
  | none => s

/-- An access to a codeword's cluster position yields a window that Sweeper holds there by the yielding method (R357). -/
def State.access (s : State) (r cw : Nat) : State :=
  match s.fw.window with
  | some w =>
    if !w.redirect && !w.pad && decide (w.region = r ∧ w.cluster = cw % 8 ∧ w.window = cw % 2 ^ 22 / 2048) then s.yieldHeld else s
  | none => s

/-- An access to scratchpad words yields the window that Sweeper holds over one of them (R357). -/
def State.padAccess (s : State) (ks : List Nat) : State :=
  match s.fw.window with
  | some w => if w.pad && ks.any (fun k => decide (k / 65536 = w.cluster ∧ k % 65536 / 256 = w.window)) then s.yieldHeld else s
  | none => s

/-- Words written into scratchpads through a port: key 65536 f + w stands for word w of cluster f. -/
def State.setPads (s : State) (ws : List (BitVec 18 × BitVec 64)) : State :=
  let s1 := s.padAccess (ws.map (fun e => e.1.toNat))
  { s1 with fw := { s1.fw with pads := Map.setAll (fun _ => 0#64) s1.fw.pads (ws.map (fun e => (e.1.toNat, e.2))) } }

/-- The writes of both ports (Table 3-6): where they meet in a word, the core's data is kept. -/
def State.padWrites (s : State) (p : PadTraffic) : State := (s.setPads p.dma).setPads p.core

/-- The first DMA write that is discarded (Table 3-6): its word, as R94 puts it into the completion. -/
def padLost (p : PadTraffic) : Option Nat := (p.dma.find? (fun e => p.core.any (fun c => decide (c.1 = e.1)))).map (fun e => e.1.toNat)

/-- A scratchpad clear (R95). -/
def State.clearPad (s : State) (f : Nat) : State :=
  { s with fw := { s.fw with pads := Map.keep s.fw.pads (fun k => decide (k / 65536 ≠ f)) } }

/-- A region leaves the capacity map (R106). -/
def State.leave (s : State) (r : Nat) : State :=
  if s.dev.left.contains r then s else { s with dev := { s.dev with left := s.dev.left ++ [r] } }

/-- A region becomes RETIRED (R99, Table 3-4). -/
def State.retireNow (s : State) (r cause cluster : Nat) : State :=
  let owner := s.regionOwner r
  let s1 := (((s.leave r).setRstate r RState.retired).put (Reg.PART_REGION_PARTITION r) 0x3F).arrLast cause cluster r
  (s1.arrEvent Reg.ARR_EVENT_RETIRED owner).log 1 4 (cluster * 2 ^ 6 + r) 0 0

/-- Region 63 meets R99: its copy into the highest AVAILABLE region of A3 starts, or FAULT_N is asserted (R105). -/
def State.relocate (s : State) : State :=
  if s.dev.reloc.isSome then s
  else
    match ((List.range 16).map (fun i => 63 - 4 * i)).find? (fun r => decide (r < 63 ∧ s.rstate r = RState.available)) with
    | some r =>
      let s1 := (((s.yieldWindow 63).yieldWindow r).setRstate r RState.moveDest).setImage r (Image.flat 0#18)
      { s1 with dev := { s1.dev with reloc := some r } }
    | none => ((s.put Reg.SWP_FAULT_REGION63 1).arrLast 7 15 63).arrEvent Reg.ARR_EVENT_REGION63_RELOC []

/-- A region with no usable spare meets R97 again (R99). A MOVE_DEST or FORWARD region keeps its state and its place in the map
until its MOVE ends (log entry 97, DESIGN CHOICE). -/
def State.retire (s : State) (r cause cluster : Nat) : State :=
  if r = 63 then s.relocate
  else if s.rstate r = RState.available then s.retireNow r cause cluster
  else if s.rstate r = RState.assigned then
    let s0 : State := { s with dev := { s.dev with causes := Map.set (fun _ => 0) s.dev.causes r cause } }
    let s1 := ((s0.leave r).setRstate r RState.retiring).arrLast cause cluster r
    (s1.arrEvent Reg.ARR_EVENT_RETIRING (s1.regionOwner r)).log 1 3 (cluster * 2 ^ 6 + r) 0 0
  else if (s.rstate r = RState.moveDest ∨ s.rstate r = RState.forward) ∧ !s.dev.failed.any (fun e => decide (e.1 = r)) then
    { s with dev := { s.dev with failed := s.dev.failed ++ [(r, cause, cluster)] } }
  else s

/-- A region whose MOVE has ended retires now, if it met R99 meanwhile (log entry 97). -/
def State.retireLate (s : State) (r : Nat) : State :=
  match s.dev.failed.find? (fun e => decide (e.1 = r)) with
  | some e =>
    ({ s with dev := { s.dev with failed := s.dev.failed.filter (fun d => decide (d.1 ≠ r)) } } : State).retire r e.2.1 e.2.2
  | none => s

/-- An active cluster of a region meets R97: the live copy into the spare starts, or the region retires (R98, R99). For an error in
a spare that is in service, CLUSTER of ARR_LAST is the position it serves (log entry 100, DESIGN CHOICE). -/
def State.replace (s : State) (r cluster cause : Nat) : State :=
  if s.rstate r = RState.retired then s
  else
    match s.dev.copies.find? (fun c => decide (c.region = r)) with
    | some c =>
      if c.cluster = cluster ∨ c.again.isSome then s
      else { s with dev := { s.dev with copies := s.dev.copies.map (fun d => if d.region = r then { d with again := some (cluster, cause) } else d) } }
    | none =>
      if s.flag (Reg.PART_REGION_SPARED r) || s.flag (Reg.PART_REGION_SPARE_BAD r) then s.retire r cause cluster
      else
        let s1 := s.yieldWindow r
        { s1 with dev := { s1.dev with copies := s1.dev.copies ++ [⟨r, cluster, cause, none⟩] } }

/-! Codewords. A codeword's number is its byte address bits [30:3]. -/

def cwRegion (cw : Nat) : Nat := cw / 2 ^ 22 % 64
def cwIndex (cw : Nat) : Nat := cw % 2 ^ 22

/-- The region number that owns the cells behind a codeword. -/
def State.cwOwner (s : State) (cw : Nat) : Nat := s.target (cwRegion cw)
def State.cwImage (s : State) (cw : Nat) : Image := s.image (s.physOf (cwRegion cw))
def State.setCwImage (s : State) (cw : Nat) (m : Image) : State := s.setImage (s.physOf (cwRegion cw)) m

/-- The view of a codeword of region r (R80, R81, Table 3-9). -/
def State.viewIn (s : State) (r cw : Nat) : Bool :=
  if cwRegion cw = 63 then decide (0x7F000000 / 8 ≤ cw ∧ cw < 0x7F800000 / 8)
  else match s.partOf r with
    | some p => !s.flag (Reg.PART_ATTR_VIEW p)
    | none => false

/-- The view of a codeword as an access finds it. -/
def State.byteView (s : State) (cw : Nat) : Bool := s.viewIn (s.cwOwner cw) cw

/-- Bits of a physical region upset since the last access: a second single-bit upset of a codeword makes it uncorrectable (R79). -/
def State.upsetIn (s : State) (p : Nat) (u : Upset) : State :=
  let m := s.image p
  let i := cwIndex u.codeword
  match m.eccOf i with
  | 0 => s.setImage p (m.setEcc i (if u.double then 2 else 1))
  | 1 => s.setImage p (m.setEcc i 2)
  | _ => s

/-- Bits upset in the codeword that an access to this address finds. -/
def State.upset (s : State) (u : Upset) : State := s.upsetIn (s.physOf (cwRegion u.codeword)) u

/-- Upsets of the codewords an access touches: those of the operand that lie in [first, last]. -/
def State.upsets (s : State) (us : List Upset) (first last : Nat) : State :=
  (us.filter (fun u => decide (first ≤ u.codeword ∧ u.codeword ≤ last))).foldl State.upset s

/-- How a codeword read ended. -/
inductive CwRead where
  | ok | corrected | bad
  deriving DecidableEq, Repr

/-- A double-bit error in physical region p of region r is marked, reported and counts toward R97 (R82, R83). -/
def State.markIn (s : State) (p r cw : Nat) : State :=
  let m := s.image p
  let i := cwIndex cw
  let m1 := if s.viewIn r cw then
      ([0, 1, 2, 3].foldl (fun (t : Image) k => t.setWord (4 * i + k) 0x20000#18) m).setEcc i 0
    else m.setEcc i 3
  let s1 := ((s.setImage p m1).put36 Reg.ARR_UNCORR_LO Reg.ARR_UNCORR_HI cw).arrLast 3 (cw % 8) r
  let s2 := (s1.arrEvent Reg.ARR_EVENT_UNCORR (s1.regionOwner r)).log 1 5 (cw % 8 * 2 ^ 6 + r) 0 0
  s2.replace r (cw % 8) 3

/-- A double-bit error that an access meets (R82, R83). -/
def State.markCodeword (s : State) (cw : Nat) : State := s.markIn (s.physOf (cwRegion cw)) (s.cwOwner cw) cw

/-- An access reaches a codeword (R357): its error state, as the access reads it. -/
def State.touch (s : State) (cw : Nat) : State × CwRead :=
  let s1 := s.access (s.cwOwner cw) cw
  match (s1.cwImage cw).eccOf (cwIndex cw) with
  | 0 => (s1, .ok)
  | 1 => (s1, .corrected)
  | 2 => (s1.markCodeword cw, .bad)
  | _ => (s1, .bad)

/-- A write covers a whole codeword: what stood there does not matter (R82, R83). -/
def State.cover (s : State) (cw : Nat) : State × CwRead := (s.access (s.cwOwner cw) cw, .ok)

/-- What a transfer met so far: a correction, and its first uncorrectable codeword (R82, R202). -/
structure Met where
  corrected : Bool := false
  uncorr : Option Nat := none
  deriving DecidableEq, Repr

/-- Note a codeword's outcome. -/
def Met.note (m : Met) (cw : Nat) (corrected bad : Bool) : Met :=
  { corrected := m.corrected || corrected, uncorr := if bad then some (m.uncorr.getD cw) else m.uncorr }

/-- The eight bytes of a byte-view codeword as a read returns them (R82), and whether it is uncorrectable. -/
def wordBytes (w : Word) : List Byte × Bool :=
  if w.getLsbD 17 then ([0xFF#8, 0xFF#8], true)
  else if w.getLsbD 16 then ([0#8, 0#8], false)
  else ([w.setWidth 8, (w >>> 8).setWidth 8], false)

/-- Read a byte-view codeword (R82). A POISON word makes the read uncorrectable also where the bytes asked for lie beside it in the
codeword (log entry 117, DESIGN CHOICE). -/
def State.readCw (s : State) (cw : Nat) (m : Met) : State × List Byte × Met :=
  let ws := [0, 1, 2, 3].map (fun k => (s.cwImage cw).word (4 * cwIndex cw + k))
  let t := s.touch cw
  match t.2 with
  | .bad => (t.1, List.replicate 8 0xFF#8, m.note cw false true)
  | c =>
    let bs := ws.map wordBytes
    (t.1, bs.flatMap (·.1), m.note cw (decide (c = .corrected)) (bs.any (·.2)))

/-- Read n codewords from one on. -/
def State.readCws (s : State) : Nat → Nat → Met → State × List Byte × Met
  | 0, _, m => (s, [], m)
  | n + 1, cw, m =>
    let a := s.readCw cw m
    let b := State.readCws a.1 n (cw + 1) a.2.2
    (b.1, a.2.1 ++ b.2.1, b.2.2)

/-- Codewords that a byte range touches. -/
def cwCount (addr len : Nat) : Nat := (addr + len - 1) / 8 + 1 - addr / 8

/-- Read a byte range (R82). -/
def State.readBytes (s : State) (addr len : Nat) (m : Met) : State × List Byte × Met :=
  let r := s.readCws (cwCount addr len) (addr / 8) m
  (r.1, (r.2.1.drop (addr % 8)).take len, r.2.2)

/-- One word of a codeword after a host write of some of its bytes: tags cleared where covered, POISON for poisoned data,
other words kept, or poisoned when the codeword was uncorrectable (R82). -/
def mergeWord (old : Word) (b0 b1 : Option Byte) (poison badCw : Bool) : Word :=
  match b0, b1 with
  | none, none => if badCw then 0x20000#18 else old
  | some x, some y => if poison then 0x20000#18 else BitVec.ofNat 18 (x.toNat + 256 * y.toNat)
  | _, _ =>
    if badCw || poison then 0x20000#18
    else
      let o := if old.getLsbD 16 || old.getLsbD 17 then 0#18 else old
      BitVec.ofNat 18 ((b0.getD (o.setWidth 8)).toNat + 256 * (b1.getD ((o >>> 8).setWidth 8)).toNat)

/-- Write some bytes of a byte-view codeword; a partial write is a read-modify-write (R82). -/
def State.writeCw (s : State) (cw : Nat) (bs : List (Option Byte)) (poison : Bool) (m : Met) : State × Met :=
  let i := cwIndex cw
  let full := (List.range 8).all (fun k => (bs.getD k none).isSome)
  let old := [0, 1, 2, 3].map (fun k => (s.cwImage cw).word (4 * i + k))
  let t := if full then s.cover cw else s.touch cw
  let bad := decide (t.2 = .bad)
  let img := [0, 1, 2, 3].foldl (fun (g : Image) k =>
    g.setWord (4 * i + k) (mergeWord (old.getD k 0#18) (bs.getD (2 * k) none) (bs.getD (2 * k + 1) none) poison bad)) (t.1.cwImage cw)
  (t.1.setCwImage cw (img.setEcc i 0), m.note cw (decide (t.2 = .corrected)) bad)

/-- Write n codewords of a byte range that starts `off` bytes before the data. -/
def State.writeCws (s : State) : Nat → Nat → List (Option Byte) → Bool → Met → State × Met
  | 0, _, _, _, m => (s, m)
  | n + 1, cw, bs, p, m =>
    let a := s.writeCw cw (bs.take 8) p m
    State.writeCws a.1 n (cw + 1) (bs.drop 8) p a.2

/-- Write bytes at a byte address (R82). -/
def State.writeBytes (s : State) (addr : Nat) (bs : List Byte) (poison : Bool) (m : Met) : State × Met :=
  if bs.isEmpty then (s, m)
  else s.writeCws (cwCount addr bs.length) (addr / 8) (List.replicate (addr % 8) none ++ bs.map some) poison m

/-- Write WIPED into every word of n whole codewords (FILL with WIPE, Table 7-3). -/
def State.wipeCws (s : State) : Nat → Nat → State
  | 0, _ => s
  | n + 1, cw =>
    let i := cwIndex cw
    let s1 := (s.cover cw).1
    let img := [0, 1, 2, 3].foldl (fun (g : Image) k => g.setWord (4 * i + k) 0x10000#18) (s1.cwImage cw)
    State.wipeCws (s1.setCwImage cw (img.setEcc i 0)) n (cw + 1)

/-- Bytes read for a COPY (the note under Table 7-7): each byte with whether its source word must arrive poisoned, because
the word is POISON or its codeword uncorrectable. -/
def State.readMarked (s : State) (addr len : Nat) (m : Met) : State × List (Byte × Bool) × Met :=
  let first := addr / 8
  let go := (List.range (cwCount addr len)).foldl (fun (acc : State × List (Byte × Bool) × Met) i =>
    let ws := [0, 1, 2, 3].map (fun k => (acc.1.cwImage (first + i)).word (4 * cwIndex (first + i) + k))
    let r := acc.1.readCw (first + i) {}
    let bad := decide (2 ≤ (acc.1.cwImage (first + i)).eccOf (cwIndex (first + i)))
    let flags := ws.flatMap (fun (w : Word) => [bad || w.getLsbD 17, bad || w.getLsbD 17])
    (r.1, acc.2.1 ++ r.2.1.zip flags, acc.2.2.note (first + i) r.2.2.corrected r.2.2.uncorr.isSome)) (s, [], m)
  (go.1, (go.2.1.drop (addr % 8)).take len, go.2.2)

/-- Poison the words of a byte range whose bytes are flagged. -/
def State.poisonBytes (s : State) (addr : Nat) (flags : List Bool) : State :=
  ((List.range flags.length).filter (fun i => flags.getD i false)).foldl (fun (t : State) i =>
    let b := addr + i
    let cw := b / 8
    t.setCwImage cw ((t.cwImage cw).setWord (4 * cwIndex cw + b % 8 / 2) 0x20000#18)) s

/-! Word18 accesses. A word18 address w names codeword w / 4 (R78). -/

/-- A word as the device's own accesses read it: every bit 1 in a marked or uncorrectable codeword (R83). -/
def State.w18 (s : State) (w : Nat) : Word :=
  let m := s.cwImage (w / 4)
  if 2 ≤ m.eccOf (cwIndex (w / 4)) then 0x3FFFF#18 else m.word (4 * cwIndex (w / 4) + w % 4)

/-- Store one word: the device's own write, which leaves a marked codeword marked (R83). -/
def State.setW18 (s : State) (w : Nat) (v : Word) : State :=
  let cw := w / 4
  let s1 := s.access (s.cwOwner cw) cw
  s1.setCwImage cw ((s1.cwImage cw).setWord (4 * cwIndex cw + w % 4) v)

/-- Store words one by one at rising word18 addresses. -/
def State.putW18s (s : State) : Nat → List Word → State
  | _, [] => s
  | w, v :: vs => State.putW18s (s.setW18 w v) (w + 1) vs

/-- Every codeword that n words from a word18 address on cover whole has valid check bits (R83). -/
def State.soundCws (s : State) (w n : Nat) : State :=
  (List.range ((w + n) / 4 - (w + 3) / 4)).foldl (fun (t : State) i =>
    t.setCwImage ((w + 3) / 4 + i) ((t.cwImage ((w + 3) / 4 + i)).setEcc (cwIndex ((w + 3) / 4 + i)) 0)) s

/-- Store words at rising word18 addresses: the device's own writes (R83). -/
def State.setW18s (s : State) (w : Nat) (vs : List Word) : State := (s.putW18s w vs).soundCws w vs.length

def State.w18s (s : State) (w n : Nat) : List Word := (List.range n).map (fun i => s.w18 (w + i))

/-- The device reads n codewords of its own from one on: each as any access reads one (R82, R83, R357). -/
def State.meetCws (s : State) : Nat → Nat → State
  | 0, _ => s
  | n + 1, cw => State.meetCws (s.touch cw).1 n (cw + 1)

/-- A host's read of n words from a word18 address (R83). -/
def State.readW18s (s : State) : Nat → Nat → Met → State × List Word × Met
  | 0, _, m => (s, [], m)
  | n + 1, w, m =>
    let v := (s.cwImage (w / 4)).word (4 * cwIndex (w / 4) + w % 4)
    let t := s.touch (w / 4)
    let bad := decide (t.2 = .bad)
    let r := State.readW18s t.1 n (w + 1) (m.note (w / 4) (decide (t.2 = .corrected)) bad)
    (r.1, (if bad then 0x3FFFF#18 else v) :: r.2.1, r.2.2)

/-- A host's write of words inside one codeword from word k on (R83). -/
def State.writeW18cw (s : State) (cw k : Nat) (vs : List Word) (m : Met) : State × Met :=
  let full := decide (k = 0 ∧ vs.length = 4)
  let t := if full then s.cover cw else s.touch cw
  let img := ((List.range vs.length).zip vs).foldl (fun (g : Image) e => g.setWord (4 * cwIndex cw + k + e.1) e.2) (t.1.cwImage cw)
  let img1 := if t.2 = .bad then img.setEcc (cwIndex cw) 3 else img.setEcc (cwIndex cw) 0
  (t.1.setCwImage cw img1, m.note cw (decide (t.2 = .corrected)) (decide (t.2 = .bad)))

/-- A host's write of words from a word18 address on; `fuel` bounds the codewords. -/
def State.writeW18s (s : State) : Nat → Nat → List Word → Met → State × Met
  | 0, _, _, m => (s, m)
  | n + 1, w, vs, m =>
    if vs.isEmpty then (s, m)
    else
      let k := w % 4
      let a := s.writeW18cw (w / 4) k (vs.take (4 - k)) m
      State.writeW18s a.1 n (w + (4 - k)) (vs.drop (4 - k)) a.2

/-! Checks (R81, R87) -/

/-- A MOVE copies region r: writes to it go on, also while it is RETIRING (R99, R101). -/
def State.moving (s : State) (r : Nat) : Bool :=
  (List.range 8).any (fun n => decide (s.get (Reg.ARR_MOVE_PHASE n) = 1 ∧ s.get (Reg.ARR_MOVE_SRC n) = r))

/-- The status with which one region fails an access of host h, if it does (R87, R81, R101); a RETIRED region belongs to no
partition and answers REGION_RETIRED (log entry 20). -/
def State.regionFails (s : State) (h r : Nat) (write view18 : Bool) : Option Byte :=
  if 63 < r then some Status.badRange
  else if r = 63 then some Status.denied
  else
    let q := s.target r
    let st := s.rstate q
    if st = RState.available ∨ st = RState.moveDest then some Status.badRange
    else if st = RState.retired then some Status.regionRetired
    else match s.partOf q with
      | none => some Status.badRange
      | some p =>
        if s.flag (Reg.PART_ATTR_VIEW p) ≠ view18 then some Status.badRange
        else if (if write then s.rightOf p h ≠ 3 else s.rightOf p h % 2 = 0) then some Status.denied
        else if write ∧ st = RState.retiring ∧ !s.moving q then some Status.regionRetired
        else none

/-- The first status of several in R87's order. -/
def worstStatus (xs : List (Option Byte)) : Option Byte :=
  if xs.contains (some Status.badRange) then some Status.badRange
  else if xs.contains (some Status.denied) then some Status.denied
  else if xs.contains (some Status.regionRetired) then some Status.regionRetired
  else none

/-- The statuses of every region that a byte range touches. -/
def State.rangeFails (s : State) (h first last : Nat) (write view18 : Bool) : List (Option Byte) :=
  (regionsOfRange first last).map (fun r => s.regionFails h r write view18)

/-- The array partition check of a byte range (R87). -/
def State.rangeCheck (s : State) (h first last : Nat) (write view18 : Bool) : Option Byte :=
  worstStatus (s.rangeFails h first last write view18)

/-! Writes that wait: a region under clear, or in a checkpoint's wave (R95, R125) -/

/-- The regions of the store wave that runs, where it holds writes (R125, R128). -/
def State.waveRegions (s : State) : List Nat :=
  match s.store with
  | some t =>
    if s.pwr.st = .volley ∨ t.wave = 0 then []
    else (t.regions.drop (8 * (t.wave - 1))).take 8
  | none => []

/-- An access to region r waits now. -/
def State.waits (s : State) (r : Nat) (write : Bool) : Bool :=
  s.clearing.contains (s.target r) || (write && s.waveRegions.contains (s.target r))

/-! Copies of whole regions (R98, R101, R105) -/

/-- A region's cells as a copy carries them: corrected codewords sound, uncorrectable ones marked under R82 or R83; with
them, whether a correction was made and the uncorrectable indices. -/
def copyImage (m : Image) (byte : Bool) : Image × Bool × List Nat :=
  let bad := (m.ecc.filter (fun e => decide (2 ≤ e.2.val))).map (·.1)
  let fixed : Image := { m with ecc := [] }
  let img := bad.foldl (fun (g : Image) i =>
    if byte then [0, 1, 2, 3].foldl (fun (t : Image) k => t.setWord (4 * i + k) 0x20000#18) g else g.setEcc i 3) fixed
  (img, m.ecc.any (fun e => decide (e.2.val = 1)), bad)

/-! Capacity (R106) -/

def State.freeRegions (s : State) : Nat :=
  ((List.range 63).filter (fun r => decide (s.rstate r = RState.available) && !s.dev.left.contains r)).length
def State.usableRegions (s : State) : Nat := ((List.range 63).filter (fun r => !s.dev.left.contains r)).length

/-! Partition changes (Table 3-4) -/

/-- Who may write the partition registers (R89). -/
def State.mayPart (s : State) (x : Sender) : Bool := isH0 x || hasRight x (s.get Reg.ARR_ADMIN_ADMIN)

/-- A PART_ATTR value as stored: OWNER 5 to 7 as 0, INDEP of a VOLATILE partition as 0, reserved bits 0 (R86, R89). -/
def attrStored (v : Word) : Word :=
  let o := if 5 ≤ bits v.toNat 2 0 then 0 else bits v.toNat 2 0
  let i := if bit v.toNat 16 then bits v.toNat 15 15 else 0
  BitVec.ofNat 18 (bits v.toNat 17 16 * 2 ^ 16 + i * 2 ^ 15 + bits v.toNat 14 13 * 2 ^ 13 + o)

/-- Table 3-4 allows a change of PART_ATTR_p from `a` to `b`. Where one write sets PERSIST and clears FEED of an empty partition, the
new FEED counts (log entry 96, DESIGN CHOICE). -/
def State.attrAllowed (s : State) (p : Nat) (a b : Word) : Bool :=
  let empty := (s.regionsOf p).isEmpty
  let f (w : Word) (i : Nat) : Bool := w.getLsbD i
  !(f b 16 && f b 14) && (!f a 17 || f b 17 || empty) && (decide (f a 14 = f b 14 ∧ f a 13 = f b 13) || empty) &&
    (!f a 16 || f b 16 || !(s.regionsOf p).any (s.holdsMove ·))

/-- A write of PART_ATTR_p that its lock admits (R86): refused whole or applied; PERSIST to VOLATILE invalidates the seals. -/
def State.applyAttr (s : State) (p : Nat) (v : Word) : State :=
  let a := s.reg (0x480 + p)
  let b := attrStored v
  if s.attrAllowed p a b then
    let s1 := s.setReg (0x480 + p) b
    if a.getLsbD 16 && !b.getLsbD 16 then (s1.regionsOf p).foldl State.eraseSeals s1 else s1
  else s

/-- A write of PARTITION of PART_REGION_r that its lock admits (R86). A RETIRING region becomes RETIRED with the cause for which it left
the map (log entry 24, DEDUCED). -/
def State.applyRegion (s : State) (r v : Nat) : State :=
  let c := s.get (Reg.PART_REGION_PARTITION r)
  let st := s.rstate r
  if r = 63 ∨ v = c then s
  else if v = 0x3F then
    if (st = RState.assigned ∨ st = RState.retiring) ∧ !s.holdsMove r ∧ !s.ringIn c then
      if st = RState.assigned then
        let s1 := (s.put (Reg.PART_REGION_PARTITION r) 0x3F).setRstate r RState.available
        (s1.clearRegion r).eraseSeals r
      else s.retireNow r (Map.get (fun _ => 0) s.dev.causes r) 15
    else s
  else if c = 0x3F ∧ st = RState.available ∧ s.flag (Reg.PART_ATTR_VALID v) ∧ !s.ringIn v then
    let s1 := (s.put (Reg.PART_REGION_PARTITION r) v).setRstate r RState.assigned
    s1.clearRegion r
  else s

/-- The forward of entry n ends (R102): the source becomes AVAILABLE and is cleared, or RETIRED. -/
def State.endForward (s : State) (n : Nat) : State :=
  let src := s.get (Reg.ARR_MOVE_SRC n)
  let gone := s.dev.left.contains src
  let s1 := s.setReg (0x410 + n) 0#18
  if gone then s1.retireNow src 5 15
  else (((s1.put (Reg.PART_REGION_PARTITION src) 0x3F).setRstate src RState.available).clearRegion src).retireLate src

/-- A MOVE's copy is given up (Table 3-8): the destination is cleared and AVAILABLE, the entry free. -/
def State.dropMove (s : State) (n : Nat) : State :=
  let dst := s.get (Reg.ARR_MOVE_DST n)
  let s1 := s.setReg (0x410 + n) 0#18
  (((s1.put (Reg.PART_REGION_PARTITION dst) 0x3F).setRstate dst RState.available).clearRegion dst).retireLate dst

/-- A checkpoint runs and holds partition writes and forward ends (R127). -/
def State.partHeld (s : State) : Bool :=
  match s.store with
  | some t => decide (t.cause = .checkpoint)
  | none => false

/-- Apply one held write after the seal (R127), under Table 3-4 as it then stands. -/
def State.applyHeld (s : State) (e : Nat × Word × Sender) : State :=
  if 0x480 ≤ e.1 ∧ e.1 < 0x4BF then s.applyAttr (e.1 - 0x480) e.2.1
  else if 0x440 ≤ e.1 ∧ e.1 < 0x480 then s.applyRegion (e.1 - 0x440) (bits e.2.1.toNat 5 0)
  else if 0x410 ≤ e.1 ∧ e.1 < 0x418 then
    (if s.get (Reg.ARR_MOVE_PHASE (e.1 - 0x410)) = 2 then s.endForward (e.1 - 0x410) else s)
  else s

/-- A partition write: held during a checkpoint, else applied at once (R127). -/
def State.partWrite (s : State) (e : Nat × Word × Sender) : State :=
  if s.partHeld then { s with heldWrites := s.heldWrites ++ [e] } else s.applyHeld e

end Sys2Proof.Machine
end

