-- ==== Sys2Proof/Machine/KeepOps.lean ====
section
/-! DEFINITION. The Keep's shared operations (spec/11): words and tags, hot words, records, page writes and their
abandonment, the page buffer, block protect, the hot flush. -/

namespace Sys2Proof.Machine
open Sys2Proof

/-! Words -/

/-- The tags of R4 and R289. -/
def tagFresh : Nat := 0
def tagPending : Nat := 1
def tagCommitted : Nat := 2

/-- A Keep word from its tag and data. -/
def keepWord (tag : Nat) (data : BitVec 16) : Word := BitVec.ofNat 18 (tag * 2 ^ 16 + data.toNat)

/-- The tag and the data of a Keep word (R4). -/
def tagOf (w : Word) : Nat := bits w.toNat 17 16
def dataOf (w : Word) : BitVec 16 := w.setWidth 16

/-- A word as it leaves the factory (R288, R289, R291): the vendor area COMMITTED, word 0x0FFF 0x0000, the user area FRESH. -/
def keepDefault (w : Nat) : Word :=
  if w = 0x0FFF then keepWord tagCommitted 0#16
  else if w < 0x1000 then keepWord tagCommitted (Config.vendorWord w)
  else 0#18

/-- A word of the Keep array. -/
def State.keepArray (s : State) (w : Nat) : Word := Map.get keepDefault s.keep.words (w % 32768)

/-- Store words into the Keep array. -/
def State.setKeep (s : State) (es : List (Nat × Word)) : State :=
  { s with keep := { s.keep with words := Map.setAll keepDefault s.keep.words es } }

/-- A page lies in a range of pages. -/
def inPages (r : Nat × Nat) (p : Nat) : Bool := decide (r.1 ≤ p ∧ p < r.1 + r.2)

/-- The page is in the hot range (R299). -/
def State.inHot (s : State) (p : Nat) : Bool := inPages s.keep.hotRange p

/-- The page's words are served from hub-die memory (R300, R302). -/
def State.isHot (s : State) (p : Nat) : Bool := s.serving && s.inHot p && s.keep.hotNext.isNone

/-- The page is of a range that is being changed (R302). -/
def State.hotChanging (s : State) (p : Nat) : Bool :=
  match s.keep.hotNext with
  | none => false
  | some r => s.inHot p || inPages r p

/-- A hot word. -/
def State.hotWord (s : State) (w : Nat) : Word := Map.get (fun _ => 0#18) s.keep.hot w

/-- Read a Keep word: hub-die memory for a hot page, else the array (R300). -/
def State.readKeep (s : State) (w : Nat) : Word :=
  if s.isHot (w % 32768 / 64) then s.hotWord (w % 32768) else s.keepArray w

/-- A page write runs (BUSY of KEEP_STAT). -/
def State.keepBusy (s : State) : Bool := s.keep.run.isSome

/-- An access to this page waits or sees BUSY (R294, R300, R302). -/
def State.keepWaits (s : State) (p : Nat) : Bool := !s.isHot p && (s.keepBusy || s.hotChanging p)

/-- Replace words of a hot page in one cycle, tags COMMITTED (R300). -/
def State.writeHot (s : State) (p : Nat) (ws : List (Nat × BitVec 16)) : State :=
  let h := Map.setAll (fun _ => 0#18) s.keep.hot (ws.map (fun e => (64 * p + e.1, keepWord tagCommitted e.2)))
  { s with keep := { s.keep with hot := h } }

/-- WRITER of KEEP_STAT (R307). -/
def Writer.code : Writer → Nat
  | .h0 => 1
  | .descriptor => 2
  | .counterCopy => 3
  | .spill => 4
  | .hotFlush => 5
  | .bp => 6

/-- KEEP_STAT (R307), from the Keep's state and the stored BP_FAULT. -/
def State.keepStat (s : State) : Nat :=
  let base := b2n s.keep.hotNext.isSome * 2 ^ 11 + b2n (s.flag Reg.KEEP_STAT_BP_FAULT) * 2 ^ 10 +
    b2n (!s.keep.buf.isEmpty) * 2 ^ 9
  match s.keep.run with
  | some r => 2 ^ 17 + r.writer.code * 2 ^ 14 + (if r.phase ≤ 3 then r.phase else 0) * 2 ^ 12 + base + r.page
  | none => base + s.keep.bufPage.getD 0

/-! Rights and block protect -/

/-- The first word that BP protects (R291); 0x8000 for none. -/
def protectedFrom (bp : Nat) : Nat :=
  match bp with
  | 0 => 0x8000
  | 1 => 0x6400
  | 2 => 0x4800
  | _ => 0x1000

/-- The refusals of R290: PROTECTED and DENIED. -/
inductive KeepRefusal where
  | guarded | denied
  deriving DecidableEq, Repr

/-- The rights check of R290 on the words a host write touches: PROTECTED first, then DENIED. -/
def State.keepCheck (s : State) (x : Sender) (ws : List Nat) : Option KeepRefusal :=
  let from_ := protectedFrom (s.get Reg.KEEP_CTL_BP)
  if ws.any (fun w => decide (w < 0x1000) || decide (w / 64 = 66) || decide (from_ ≤ w)) then some .guarded
  else if ws.any (fun w => decide (67 ≤ w / 64 ∧ w / 64 ≤ 195) || (decide (w / 64 = 64 ∨ w / 64 = 65) && !isH0 x)) then
    some .denied
  else if !isH0 x && !hasRight x (s.get Reg.KEEP_CTL_RIGHTS) then some .denied
  else none

/-- BP is loaded from word 0x0FFF at entry to STANDBY from OFF (R291). -/
def State.loadBp (s : State) : State :=
  let w := s.keepArray 0x0FFF
  if tagOf w = tagCommitted ∧ w.toNat % 2 ^ 16 < 4 then (s.put Reg.KEEP_CTL_BP (w.toNat % 4)).put Reg.KEEP_STAT_BP_FAULT 0
  else
    let was := s.flag Reg.KEEP_STAT_BP_FAULT
    let s1 := (s.put Reg.KEEP_CTL_BP 3).put Reg.KEEP_STAT_BP_FAULT 1
    if was then s1 else s1.keepEvent Reg.KEEP_EVENT_BP_FAULT

/-! Records -/

/-- The 64 words of a page, read as any agent reads them. -/
def State.readPage (s : State) (p : Nat) : List Word := (List.range 64).map (fun i => s.readKeep (64 * p + i))

/-- The bytes of words 0 to 61 of a record copy, low byte first (R303). -/
def recordBytes (ds : List (BitVec 16)) : List Byte := (ds.take 62).flatMap (fun (d : BitVec 16) => [d.setWidth 8, (d >>> 8).setWidth 8])

/-- A record copy's words: sequence, payload with zeros up to 61 words, CRC (R303). -/
def recordWords (seq : Nat) (payload : List Nat) : List (BitVec 16) :=
  let body := BitVec.ofNat 16 seq :: (List.range 61).map (fun i => BitVec.ofNat 16 (payload.getD i 0))
  let c := crc32c (recordBytes body)
  body ++ [c.setWidth 16, (c >>> 16).setWidth 16]

/-- A copy is valid: all 64 words COMMITTED and the CRC checks (R303). -/
def copyValid (ws : List Word) : Bool :=
  let ds := ws.map dataOf
  ws.all (fun w => decide (tagOf w = tagCommitted)) &&
    decide (((ds.getD 63 0#16).toNat * 2 ^ 16 + (ds.getD 62 0#16).toNat) = (crc32c (recordBytes ds)).toNat)

/-- What R304 chooses: copy B or A, its sequence and payload words, and TWIN. -/
structure Choice where
  copyB : Bool
  seq : Nat
  payload : List Nat
  twin : Bool
  deriving DecidableEq, Repr

/-- The sequence and the payload of a copy (R303). -/
def copySeq (ws : List Word) : Nat := (ws.getD 0 0#18).toNat % 2 ^ 16
def copyPayload (ws : List Word) : List Nat := ((ws.drop 1).take 61).map (fun w => w.toNat % 2 ^ 16)

/-- The record rule of R304 on page pair P, P + 1. -/
def State.chooseRecord (s : State) (p : Nat) : Option Choice :=
  let a := s.readPage p
  let b := s.readPage (p + 1)
  let useA (t : Bool) : Option Choice := some ⟨false, copySeq a, copyPayload a, t⟩
  let useB : Option Choice := some ⟨true, copySeq b, copyPayload b, false⟩
  match copyValid a, copyValid b with
  | true, true =>
    let d := (copySeq b + 65536 - copySeq a) % 65536
    if d = 0 then useA (decide (copyPayload a ≠ copyPayload b))
    else if d < 32768 then useB else useA false
  | true, false => useA false
  | false, true => useB
  | false, false => none

/-- Target copy (true for B) and sequence of a RECORD_PUT (R305). -/
def putTarget (c : Option Choice) : Bool × Nat :=
  match c with
  | none => (false, 0)
  | some c =>
    let tgt := !c.copyB
    let one := (c.seq + 1) % 65536
    (tgt, if one % 2 = b2n tgt then one else (c.seq + 2) % 65536)

/-! Page writes -/

/-- The words of a page paired with their index. -/
def indexed (ds : List (BitVec 16)) : List (Nat × BitVec 16) := (List.range ds.length).zip ds

/-- A page write starts (Table 11-2, step 1): BUSY, phase 1, every loaded word PENDING. -/
def State.pageStart (s : State) (wr : Writer) (page : Nat) (ws : List (Nat × BitVec 16)) : State :=
  let old := ws.map (fun e => (e.1, s.keepArray (64 * page + e.1)))
  let s1 := s.setKeep (old.map (fun e => (64 * page + e.1, keepWord tagPending (dataOf e.2))))
  { s1 with keep := { s1.keep with run := some ⟨wr, page, ws, old, 1⟩ } }

/-- The next phase of the running write: data, then COMMITTED tags, then the verify read (Table 11-2). -/
def State.pagePhase (s : State) (r : PageWrite) : State :=
  let tag := if r.phase = 1 then none else if r.phase = 2 then some tagPending else if r.phase = 3 then some tagCommitted else none
  let s1 := match tag with
    | none => s
    | some t => s.setKeep (r.words.map (fun (e : Nat × BitVec 16) => (64 * r.page + e.1, keepWord t e.2)))
  { s1 with keep := { s1.keep with run := some { r with phase := min 4 (r.phase + 1) } } }

/-- One loaded word after an abandoned write (Table 11-3): what it reads, a free choice where the table leaves one. -/
def State.tornWord (s : State) (r : PageWrite) (e : Nat × BitVec 16) (old : Word) : State :=
  let a := 64 * r.page + e.1
  if r.phase ≤ 1 then
    let b := s.drawBit
    b.2.setKeep [(a, if b.1 then old else keepWord tagPending (dataOf old))]
  else if r.phase = 2 then
    let w := s.drawWord
    w.2.setKeep [(a, keepWord tagPending (dataOf w.1))]
  else if r.phase = 3 then
    let b := s.drawBit
    b.2.setKeep [(a, keepWord (if b.1 then tagPending else tagCommitted) e.2)]
  else s.setKeep [(a, keepWord tagCommitted e.2)]

/-- The page buffer is emptied (R295). -/
def State.clearBuffer (s : State) : State :=
  { s with keep := { s.keep with buf := [], bufPage := none, submitted := false } }

/-- The page writes end at power-fail or with VSTBY (R297): the running write is abandoned, waiting ones are discarded, an
H0 write among them sets ABANDONED, the buffer is emptied, a due counter copy is dropped. -/
def State.keepAbandon (s : State) : State :=
  let s1 := match s.keep.run with
    | none => s
    | some r => (r.words.zip r.old).foldl (fun t (e : (Nat × BitVec 16) × (Nat × Word)) => t.tornWord r e.1 e.2.2) s
  let h0 := (match s.keep.run with | some r => decide (r.writer = .h0) | none => false) || s.keep.submitted
  let s2 := if h0 then s1.keepEvent Reg.KEEP_EVENT_ABANDONED else s1
  let copy : Bool := match s.keep.run with | some r => decide (r.writer = .counterCopy) | none => false
  let s2c := if copy then (s2.put Reg.LED_KEEP_STAT_LAST 1).ledEvent Reg.LED_EVENT_COPY_FAIL else s2
  let s3 := s2c.put Reg.LED_KEEP_STAT_DUE 0
  ({ s3 with keep := { s3.keep with run := none, flush := [], flushFor := none, hotNext := none } }).clearBuffer

/-- KEEP_WDATA: load the page buffer at ADDR and advance ADDR (R295). -/
def State.loadBuffer (s : State) (v : BitVec 16) : State :=
  let a := s.get Reg.KEEP_ADDR_ADDR
  let p := a / 64
  let s1 := match s.keep.bufPage with
    | some q =>
      if q = p then
        { s with keep := { s.keep with buf := (s.keep.buf.filter (fun (e : Nat × BitVec 16) => decide (e.1 ≠ a % 64))) ++ [(a % 64, v)] } }
      else s.keepEvent Reg.KEEP_EVENT_LOAD_ERR
    | none => { s with keep := { s.keep with buf := [(a % 64, v)], bufPage := some p } }
  s1.put Reg.KEEP_ADDR_ADDR ((a + 1) % 32768)

/-- WRITE in KEEP_CMD (R295): refused and discarded under R290 or R300, written at once for a hot page, else submitted. -/
def State.submitBuffer (s : State) : State :=
  match s.keep.bufPage with
  | none => s
  | some p =>
    if s.keepWaits p then s
    else if (s.keepCheck 0#4 (s.keep.buf.map (fun e => 64 * p + e.1))).isSome then
      (s.clearBuffer).keepEvent Reg.KEEP_EVENT_REFUSED
    else if s.isHot p then (s.writeHot p s.keep.buf).clearBuffer
    else if !s.serving && s.inHot p then (s.clearBuffer).keepEvent Reg.KEEP_EVENT_HOT_REFUSED
    else { s with keep := { s.keep with submitted := true } }

/-- KEEP_RDATA: the word at ADDR, and ADDR advances (R307). -/
def State.readData (s : State) : State × Word :=
  let a := s.get Reg.KEEP_ADDR_ADDR
  (s.put Reg.KEEP_ADDR_ADDR ((a + 1) % 32768), s.readKeep a)

/-- A Keep data frame of H0 is answered BUSY (R294): a read of KEEP_RDATA or a load of KEEP_WDATA at ADDR, or WRITE. -/
def State.addrBusy (s : State) : Bool := s.keepWaits (s.get Reg.KEEP_ADDR_ADDR / 64)

/-- KEEP_CMD (R295, R301): CLEAR wins over WRITE; FLUSH is taken apart from both. -/
def State.cmdBusy (s : State) (write clear : Bool) : Bool :=
  (write && s.keepWaits (s.keep.bufPage.getD 512)) || (clear && s.keepBusy)

/-! Hot words -/

/-- The words of a hot page that differ from the array (R301), by index. -/
def State.hotDiff (s : State) (p : Nat) : List (Nat × BitVec 16) :=
  ((List.range 64).filter (fun i => decide (s.hotWord (64 * p + i) ≠ s.keepArray (64 * p + i)))).map
    (fun i => (i, dataOf (s.hotWord (64 * p + i))))

/-- The pages of the hot range. -/
def State.hotPages (s : State) : List Nat := (List.range s.keep.hotRange.2).map (fun i => s.keep.hotRange.1 + i)

/-- A hot flush ends (R301): DRAIN then raises its counter-copy trigger (R280). -/
def State.flushEnd (s : State) : State :=
  match s.keep.flushFor with
  | some .drain =>
    let s1 := s.put Reg.LED_KEEP_STAT_DUE 1
    { s1 with keep := { s1.keep with flushFor := none }, pwr := { s1.pwr with drainStep := .counterCopy } }
  | _ => { s with keep := { s.keep with flushFor := none } }

/-- A page write of a hot flush runs. -/
def State.flushing (s : State) : Bool := match s.keep.run with | some r => decide (r.writer = .hotFlush) | none => false

/-- A hot flush starts: one page write for each hot page that differs (R301). -/
def State.flushStart (s : State) (why : FlushFor) : State :=
  let ps := s.hotPages.filter (fun p => !(s.hotDiff p).isEmpty)
  let s1 : State := { s with keep := { s.keep with flush := ps, flushFor := some why } }
  if ps.isEmpty && !s1.flushing then s1.flushEnd else s1

/-- The 64 words per page of a range, as the array holds them, for hub-die memory (R301, R302). -/
def State.hotLoad (s : State) (r : Nat × Nat) : Map Word :=
  Map.setAll (fun _ => 0#18) [] ((List.range (64 * r.2)).map (fun i => (64 * r.1 + i, s.keepArray (64 * r.1 + i))))

/-- A range a write of KEEP_HOT may give (R299). -/
def hotRangeOk (first pages : Nat) : Bool := decide (pages ≤ 4) && (decide (pages = 0) || decide (196 ≤ first ∧ first + pages ≤ 512))

/-- A write of KEEP_HOT (R302): taken from H0 in RUN while HOT_BUSY is 0; HOT_BUSY sets and the old range is flushed. -/
def State.hotWrite (s : State) (x : Sender) (v : Word) : State :=
  let first := bits v.toNat 8 0
  let pages := bits v.toNat 11 9
  if isH0 x && decide (s.pwr.st = .run) && s.keep.hotNext.isNone && hotRangeOk first pages then
    ({ s with keep := { s.keep with hotNext := some (first, pages) } } : State).flushStart .change
  else s

/-- The new hot range takes over (R302, steps 3 to 5). -/
def State.hotSwitch (s : State) (r : Nat × Nat) : State :=
  let h := s.hotLoad r
  let s1 := (s.put Reg.KEEP_HOT_FIRST r.1).put Reg.KEEP_HOT_PAGES r.2
  { s1 with keep := { s1.keep with hotRange := r, hot := h, hotNext := none } }

end Sys2Proof.Machine
end

