-- ==== Sys2Proof/Machine/LedgerOps.lean ====
section
/-! DEFINITION. The sheet ledger's shared operations (spec/10): records in region 63, stamps, pulse queues, billing
counters with their credits, and their copies into the Keep. -/

namespace Sys2Proof.Machine
open Sys2Proof

/-! Records (R267, Table 10-1) -/

/-- A ledger record. -/
structure Rec where
  sheet : Nat := 0
  job : Nat := 0
  stage : Nat := 0
  mask : Nat := 0
  cause : Nat := 0
  time : Nat := 0
  deriving DecidableEq, Repr

/-- The word18 address of record i (R267). -/
def recAddr (i : Nat) : Nat := 63 * 2 ^ 24 + 8 * i

/-- The eight words of a record (Table 10-1). -/
def Rec.words (r : Rec) : List Word :=
  let w (v : Nat) : Word := BitVec.ofNat 18 v
  [w r.sheet, w (r.sheet / 2 ^ 18), w (r.sheet / 2 ^ 36), w r.job, w (r.job / 2 ^ 18),
    w (r.stage * 2 ^ 12 + r.mask * 2 ^ 4 + r.cause), w r.time, w (r.time / 2 ^ 18)]

/-- A record from its eight words (Table 10-1). -/
def Rec.ofWords (ws : List Word) : Rec :=
  let n (k : Nat) : Nat := (ws.getD k 0#18).toNat
  { sheet := n 0 + 2 ^ 18 * n 1 + 2 ^ 36 * n 2, job := n 3 + 2 ^ 18 * n 4, stage := bits (n 5) 17 12,
    mask := bits (n 5) 11 4, cause := bits (n 5) 3 0, time := n 6 + 2 ^ 18 * n 7 }

/-- The stage word (word 5). -/
def Rec.stageWord (r : Rec) : Nat := r.stage * 2 ^ 12 + r.mask * 2 ^ 4 + r.cause

/-- The fields of STAGE (Table 10-2). -/
def Rec.progress (r : Rec) : Nat := r.stage % 8
def Rec.spoiled (r : Rec) : Bool := bit r.stage 5
def Rec.void (r : Rec) : Bool := bit r.stage 4
def Rec.cut (r : Rec) : Bool := bit r.stage 3

/-- Open: PROGRESS 1 to 5 and VOID 0 (R268). -/
def Rec.isOpen (r : Rec) : Bool := decide (1 ≤ r.progress ∧ r.progress ≤ 5) && !r.void

def Rec.setProgress (r : Rec) (p : Nat) : Rec := { r with stage := r.stage / 8 * 8 + p }

def State.record (s : State) (i : Nat) : Rec := Rec.ofWords (s.w18s (recAddr i) 8)
def State.setRecord (s : State) (i : Nat) (r : Rec) : State := s.setW18s (recAddr i) r.words

/-- The device reads a record (R83): a double-bit error in its codewords is marked, reported and counts. Which record a sheet ID or the
next free index names, it knows without an access (log entry 124, DEDUCED). -/
def State.meetRec (s : State) (i : Nat) : State := s.meetCws 2 (recAddr i / 4)

/-- The indices of records that may not be free, rising: those with a listed word; region 63's unlisted words are 0 in
every state its clears and stores leave (R95, R107). -/
def State.recIndices (s : State) : List Nat :=
  (((s.image s.phys63).cells.filter (fun e => decide (e.1 < 2 ^ 23))).map (fun e => e.1 / 8)).dedup

/-- The open records. -/
def State.openRecords (s : State) : List Nat := s.recIndices.filter (fun i => (s.record i).isOpen)

/-- NEXT of R270. -/
def State.ledNext (s : State) : Nat := s.get Reg.LED_NEXT_LO + 2 ^ 18 * s.get Reg.LED_NEXT_HI_NEXT_HI

/-- The records that hold a sheet ID. -/
def State.holders (s : State) (sheet : Nat) : List Nat :=
  s.recIndices.filter (fun i => decide ((s.record i).sheet = sheet ∧ (s.record i).words ≠ List.replicate 8 0#18))

/-- How far back from NEXT an index lies, modulo the ledger's size: records are opened at rising indices (R270). -/
def State.ledAge (s : State) (i : Nat) : Nat := (s.ledNext + 2 ^ 20 - 1 - i) % 2 ^ 20

/-- The newest record that holds a sheet ID (R272, R273). -/
def State.newest (s : State) (sheet : Nat) : Option Nat :=
  (s.holders sheet).foldl (fun best i =>
    match best with
    | none => some i
    | some b => if s.ledAge i < s.ledAge b then some i else some b) none

/-- The open record of a sheet ID, if one exists (R270). -/
def State.openHolder (s : State) (sheet : Nat) : Option Nat := (s.holders sheet).find? (fun i => (s.record i).isOpen)

/-- The first index from `i` up, wrapping, whose record is closed or free (R270). -/
def State.freeIndex (s : State) : Nat → Nat → Option Nat
  | 0, _ => none
  | f + 1, i => if (s.record i).isOpen then State.freeIndex s f ((i + 1) % 2 ^ 20) else some i

/-! Counters (R279 to R282) -/

def counterMax : Nat := 2 ^ 54 - 1

def State.counter (s : State) (i : Nat) : Nat := (Map.get (fun _ => 0#54) s.dev.counters i).toNat
def State.setCounter (s : State) (i v : Nat) : State :=
  { s with dev := { s.dev with counters := Map.set (fun _ => 0#54) s.dev.counters i (BitVec.ofNat 54 v) } }
def State.credit (s : State) (i : Nat) : Nat := Map.get (fun _ => 0) s.led.credits i
def State.setCredit (s : State) (i v : Nat) : State :=
  { s with led := { s.led with credits := Map.set (fun _ => 0) s.led.credits i v } }

/-- An increment of counter i: a CUT record's uses up a credit, a full counter stays with SAT, any other counts and, at 64
since the last copy started, triggers a copy (R279, R280, R282). -/
def State.countOne (s : State) (i : Nat) (cut : Bool) : State :=
  if cut ∧ 0 < s.credit i then s.setCredit i (s.credit i - 1)
  else if counterMax ≤ s.counter i then s.ledEvent Reg.LED_EVENT_SAT
  else
    let s1 := s.setCounter i (s.counter i + 1)
    let s2 := if s1.counter i = counterMax then s1.ledEvent Reg.LED_EVENT_SAT else s1
    let n := min 64 (Map.get (fun _ => 0) s2.led.incr i + 1)
    let s3 : State := { s2 with led := { s2.led with incr := Map.set (fun _ => 0) s2.led.incr i n, changed := true } }
    if n = 64 then s3.put Reg.LED_KEEP_STAT_DUE 1 else s3

/-- Every counter whose source is one of `srcs` counts (Table 10-6). -/
def State.count (s : State) (srcs : List Nat) (cut : Bool) : State :=
  (List.range 16).foldl (fun t i => if srcs.contains (t.get (Reg.LED_CNT_SRC_SRC i)) then t.countOne i cut else t) s

/-- COPIES (R280). -/
def State.copiesCount (s : State) : Nat := s.get Reg.LED_KEEP_LO + 2 ^ 18 * s.get Reg.LED_KEEP_HI_COPIES_HI
def State.setCopies (s : State) (v : Nat) : State := (s.put Reg.LED_KEEP_LO (v % 2 ^ 18)).put Reg.LED_KEEP_HI_COPIES_HI (v / 2 ^ 18)

/-- The payload of a counter record (Table 10-7). -/
def State.counterPayload (s : State) (copies : Nat) : List Nat :=
  let all := (List.range 16).foldl (fun acc i => acc + s.counter i * 2 ^ (54 * i)) 0
  [0x0200, copies % 2 ^ 16, copies / 2 ^ 16] ++ (List.range 54).map (fun w => all / 2 ^ (16 * w) % 2 ^ 16)

/-- A counter copy starts (R280): COPIES rises by 1 and names the pair, the copy and the sequence number. -/
def State.copyStart (s : State) : State :=
  let c := (s.copiesCount + 1) % 2 ^ 32
  let pair := c / 2 ^ 20 % 64
  let s1 := ((s.setCopies c).put Reg.LED_KEEP_STAT_PAIR pair).put Reg.LED_KEEP_STAT_DUE 0
  let s2 : State := { s1 with led := { s1.led with incr := [], changed := false } }
  s2.pageStart .counterCopy (68 + 2 * pair + c % 2) (indexed (recordWords (c % 65536) (s.counterPayload c)))

/-- COPIES and the sixteen counters of a counter record's payload, if its FORMAT is 0x02 (R281). -/
def counterRecord (payload : List Nat) : Option (Nat × List Nat) :=
  if payload.getD 0 0 / 256 = 2 then
    let all := (List.range 54).foldl (fun acc w => acc + payload.getD (3 + w) 0 * 2 ^ (16 * w)) 0
    some (payload.getD 1 0 + 2 ^ 16 * payload.getD 2 0, (List.range 16).map (fun i => all / 2 ^ (54 * i) % 2 ^ 54))
  else none

/-- The newest valid Keep copy of the counters (R281). -/
def State.newestCopy (s : State) : Option (Nat × List Nat) :=
  ((List.range 64).filterMap (fun p => (s.chooseRecord (68 + 2 * p)).bind (fun c => counterRecord c.payload))).foldl
    (fun best e =>
      match best with
      | none => some e
      | some b => if b.1 < e.1 then some e else some b) none

/-! Pulse queues (R275): 0 TRANSFER, 1 FUSE, 2 DELIVER -/

def State.queue (s : State) (q : Nat) : List Nat := Map.get (fun _ => []) s.led.queues q
def State.setQueue (s : State) (q : Nat) (xs : List Nat) : State :=
  { s with led := { s.led with queues := Map.set (fun _ => []) s.led.queues q xs } }

/-- The pulse of pin 0 to 2 is enabled in LED_CTL. -/
def State.pinOn (s : State) (p : Nat) : Bool :=
  match p with
  | 0 => s.flag Reg.LED_CTL_TRANSFER
  | 1 => s.flag Reg.LED_CTL_FUSE
  | _ => s.flag Reg.LED_CTL_DELIVER

/-- A record leaves every queue. -/
def State.unqueue (s : State) (i : Nat) : State :=
  [0, 1, 2].foldl (fun t q => t.setQueue q ((t.queue q).filter (fun j => decide (j ≠ i)))) s

/-- The queue that a record enters as its PROGRESS becomes 3, 4 or 5 (R275). -/
def State.queueFor (s : State) (progress : Nat) : Option Nat :=
  if progress = 3 then (if s.pinOn 0 then some 0 else if s.pinOn 1 then some 1 else none)
  else if progress = 4 then (if s.pinOn 0 && s.pinOn 1 then some 1 else none)
  else if progress = 5 then (if s.pinOn 2 then some 2 else none)
  else none

/-- A record whose PROGRESS becomes 3 to 6 leaves the queues that it is stamped past and enters the one that this gives it; in a
queue that it is in it keeps its place (R275). -/
def State.requeue (s : State) (i progress : Nat) : State :=
  let s1 := (List.range (progress - 3)).foldl (fun t q => t.setQueue q ((t.queue q).filter (fun j => decide (j ≠ i)))) s
  match s1.queueFor progress with
  | some q => if (s1.queue q).contains i then s1 else s1.setQueue q (s1.queue q ++ [i])
  | none => s1

/-! Stamps (Table 10-3) -/

/-- A station holds the record's sheet in its queue (R210, R271). -/
def State.stnHolds (s : State) (n i : Nat) : Bool :=
  let st : Stn := Map.get (fun _ => {}) s.stns n
  st.sheets.any (fun h => decide (h.rec_ = i) && h.queued) || st.aside.contains i

/-- Every line of a sheet up to its LAST band is published or missing (R213, R271). -/
def Sheet.complete (h : Sheet) : Bool :=
  match h.lines with
  | none => false
  | some n => (List.range n).all (fun l => h.published.any (fun b => decide (b.1 ≤ l ∧ l < b.1 + b.2)) || h.missing.contains l)

/-- The condition of RASTER_COMPLETE for a record (R271). -/
def State.rasterDone (s : State) (i : Nat) (r : Rec) : Bool :=
  decide (r.progress = 1) && !r.void && (List.range 8).all (fun n =>
    !bit r.mask n || (Map.get (fun _ => {}) s.stns n : Stn).sheets.any (fun h => decide (h.rec_ = i) && h.complete))

/-- RASTER_COMPLETE on an open record that is REGISTERED (R271). -/
def State.rasterStamp (s : State) (i t : Nat) : State :=
  let r := s.record i
  if r.isOpen && decide (r.progress = 1) then s.setRecord i { r.setProgress 2 with time := t } else s

/-- RASTER_COMPLETE is stamped once its condition holds (R271). -/
def State.rasterComplete (s : State) (i t : Nat) : State :=
  let r := s.record i
  if r.isOpen && s.rasterDone i r then s.setRecord i { r.setProgress 2 with time := t } else s

/-- The progress stamps TRANSFERRED, FUSED and DELIVERED: the record, its queues and the counters (R275, R279). -/
def State.stampProgress (s : State) (i p t : Nat) : State :=
  let r := s.record i
  let s1 := (s.setRecord i { r.setProgress p with time := t }).requeue i p
  if p = 5 then s1.count [1, if r.spoiled then 3 else 2] r.cut
  else if p = 6 then s1.count [4] r.cut
  else s1

/-- A progress stamp is allowed (Table 10-3). -/
def progressAllowed (r : Rec) (p : Nat) : Bool :=
  r.isOpen && (if p = 4 then decide (r.progress = 3) else if p = 5 then decide (r.progress = 3 ∨ r.progress = 4)
    else decide (r.progress = 5))

/-- IMAGED for the stations of a mask: their MASK bits clear; at 0 PROGRESS becomes 3 (Table 10-3). -/
def State.stampImaged (s : State) (i mask t : Nat) : State :=
  let r := s.record i
  let m := r.mask &&& (255 - mask % 256)
  if m = 0 then (s.setRecord i { r.setProgress 3 with mask := 0, time := t }).requeue i 3
  else (s.setRecord i { r with mask := m, time := t }).rasterComplete i t

/-- IMAGED is allowed: the record is open and every named station is in MASK (Table 10-3). -/
def imagedAllowed (r : Rec) (mask : Nat) : Bool := r.isOpen && decide (mask ≠ 0 ∧ r.mask &&& mask = mask)

/-- SPOILED is allowed: SPOILED and VOID are 0 on a record that is not free (Table 10-3). -/
def spoilAllowed (r : Rec) : Bool := !r.spoiled && !r.void && decide (1 ≤ r.progress)

/-- A spoil with its cause, where it is allowed; a later one has no effect (R274). -/
def State.stampSpoil (s : State) (i cause t : Nat) : State :=
  let r := s.record i
  if spoilAllowed r then
    (s.setRecord i { r with stage := r.stage + 2 ^ 5, cause := cause, time := t }).count [5] r.cut
  else s

/-- VOID (Table 10-3). -/
def State.stampVoid (s : State) (i t : Nat) : State :=
  let r := s.record i
  ((s.setRecord i { r with stage := r.stage + 2 ^ 4, time := t }).unqueue i).count [7] r.cut

/-- VOID is allowed. -/
def State.voidAllowed (s : State) (i : Nat) (r : Rec) : Bool :=
  r.isOpen && decide (r.progress = 1 ∨ r.progress = 2) && !(List.range 8).any (fun n => s.stnHolds n i)

/-- CUT on an open record, and the spoil POWER of one not fully imaged (R284); the time is that of a change of the stage word
(R269). -/
def State.markCut (s : State) (i : Nat) : State :=
  let r := s.record i
  let t := s.stamp
  let s1 := s.setRecord i (if r.cut then r else { r with stage := r.stage + 2 ^ 3, time := t })
  if r.mask ≠ 0 then s1.stampSpoil i 11 t else s1

/-! Hardware events and the stamp buffer (R126) -/

/-- Region 63's checkpoint wave runs and holds the ledger's writes. -/
def State.ledHeld (s : State) : Bool := s.waveRegions.contains 63

/-- Stray count of a pin (R275). -/
def strayField (p : Nat) : Fld :=
  match p with
  | 0 => Reg.LED_STRAY_TRANSFER
  | 1 => Reg.LED_STRAY_FUSE
  | _ => Reg.LED_STRAY_DELIVER

/-- The records of the three queues, in the order in which a JAM pulse takes them (R276). -/
def State.queued (s : State) : List Nat := s.queue 0 ++ s.queue 1 ++ s.queue 2

/-- Apply one hardware event to records, queues and counters; a JAM pulse that was held spoils the records that it took and that no
event before it has moved past the queues (log entry 103). -/
def State.ledApply (s : State) (e : LedEvent) : State :=
  match e with
  | .pulse pin t =>
    match s.queue pin.val with
    | [] => (s.bump (strayField pin.val)).ledEvent Reg.LED_EVENT_STRAY
    | i :: _ => (s.meetRec i).stampProgress i (4 + pin.val) t
  | .jam taken t =>
    let recs := taken.filter (fun i => s.queued.contains i)
    let s1 := [0, 1, 2].foldl (fun (u : State) q => u.setQueue q ((u.queue q).filter (fun i => !taken.contains i))) s
    let s2 := s1.count [6] false
    let s3 := if taken.isEmpty then s2.bump Reg.LED_STRAY_JAM else s2
    recs.foldl (fun u i => (u.meetRec i).stampSpoil i 9 t) s3
  | .descriptor _ _ _ => s
  | .imaged n recs t =>
    recs.foldl (fun u i =>
      if imagedAllowed (u.record i) (2 ^ n.val) then (u.meetRec i).stampImaged i (2 ^ n.val) t else u.meetRec i) s
  | .spoil recs cause t => recs.foldl (fun u i => (u.meetRec i).stampSpoil i cause t) s
  | .timeout q i t =>
    if (s.queue q.val).contains i then (((s.meetRec i).unqueue i).stampSpoil i 12 t).ledEvent Reg.LED_EVENT_TMO else s

/-- A hardware event is applied, or held while region 63's wave runs (R126). -/
def State.ledEventNow (s : State) (e : LedEvent) : State :=
  if s.ledHeld then { s with led := { s.led with held := s.led.held ++ [e] } } else s.ledApply e

/-- RASTER_COMPLETE at the end of a wave (R126): for the records whose condition became true during it, and for those whose condition
the held events have made true. -/
def State.rasterAll (s : State) : State :=
  let s1 := s.led.rastered.foldl (fun (t : State) i => t.rasterStamp i t.stamp) { s with led := { s.led with rastered := [] } }
  (List.range 8).foldl (fun t n =>
    (Map.get (fun _ => {}) t.stns n : Stn).sheets.foldl (fun u h => u.rasterComplete h.rec_ u.stamp) t) s1

/-- The held events are applied in order of occurrence (R126); a descriptor among them does not run. -/
def State.ledRelease (s : State) : State :=
  (s.led.held.foldl State.ledApply { s with led := { s.led with held := [] } }).rasterAll

/-! Station spoils (R234) -/

/-- The record holds SPOILED, or a held spoil will set it. -/
def State.willSpoil (s : State) (i : Nat) : Bool :=
  (s.record i).spoiled || s.led.held.any (fun e => match e with | .spoil recs _ _ => recs.contains i | _ => false)

/-- A station spoils sheets with a cause at one instant: the records, STN_SPOIL, STN_SPOILS and SPOIL (R234). -/
def State.stnSpoil (s : State) (n : Nat) (recs : List Nat) (cause : Nat) : State :=
  let new := recs.filter (fun i => !s.willSpoil i && !(s.record i).void)
  if new.isEmpty then s
  else
    let s1 := s.ledEventNow (.spoil new cause s.stamp)
    let s2 := new.foldl (fun t _ => t.bump (Reg.STN_SPOILS_COUNT n)) (s1.put (Reg.STN_SPOIL_CAUSE n) cause)
    s2.stnEvent n Reg.STN_EVENT_SPOIL

end Sys2Proof.Machine
end

