-- ==== Sys2Proof/Machine/StationOps.lean ====
section
/-! DEFINITION. The station imaging path's shared operations (spec/08, and the dot timing of spec/09): tables, sheets and
band rings, arming, selection, drive codes, start of scan, faults and their spoils. -/

namespace Sys2Proof
open Sys2Proof.Machine

/-- The station, table, mask, lines and LAST of P0 (Table 7-3). -/
def Desc.stn (d : Desc) : Nat := bits d.p0.toNat 2 0
def Desc.tbl (d : Desc) : Nat := bits d.p0.toNat 11 8
def Desc.mask (d : Desc) : Nat := bits d.p0.toNat 12 8
def Desc.lines (d : Desc) : Nat := bits d.p0.toNat 31 16
def Desc.last (d : Desc) : Bool := bit d.p0.toNat 3
def Desc.sheet (d : Desc) : Nat := bits d.d0.toNat 53 0

end Sys2Proof

namespace Sys2Proof.Machine
open Sys2Proof

def State.stn (s : State) (n : Nat) : Stn := Map.get (fun _ => {}) s.stns n
def State.setStn (s : State) (n : Nat) (t : Stn) : State := { s with stns := Map.set (fun _ => {}) s.stns n t }

/-- Writes that H0 or the station's owner host may make (R215, R240). -/
def State.stnMay (s : State) (x : Sender) (n : Nat) : Bool :=
  isH0 x || decide (x.toNat = s.get (Reg.STN_OWNER_OWNER n) ∧ x.toNat ≤ 4)

/-- DEG_EMIT or DEG_LINK is 1 (R227). -/
def State.degraded (s : State) (n : Nat) : Bool := s.flag (Reg.STN_STATUS_DEG_EMIT n) || s.flag (Reg.STN_STATUS_DEG_LINK n)

def State.doubleMode (s : State) (n : Nat) : Bool := s.flag (Reg.STN_CTL_MODE n)

/-! Tables (R230 to R233) -/

def Stn.table (st : Stn) (t : Nat) : Table := Map.get (fun _ => {}) st.tables t
def Stn.setTable (st : Stn) (t : Nat) (v : Table) : Stn := { st with tables := Map.set (fun _ => {}) st.tables t v }
def Map.word (m : Map Word) (i : Nat) : Nat := (Map.get (fun _ => 0#18) m i).toNat

/-- Words of each table (Table 8-4). -/
def tableWords (t : Nat) : Nat :=
  match t with
  | 0 => 144
  | 1 => 1152
  | 2 => 55296
  | 3 => 72
  | _ => 36

/-- The check of Table 8-5 on the word at an offset of a table. -/
def tableCheck (t off : Nat) (w : Word) : Bool :=
  let v := w.toNat
  match t with
  | 0 => if off % 2 = 0 then decide (bits v 16 13 ≤ 8 ∧ bits v 12 7 = 0) else decide (bits v 17 4 ≤ 2047)
  | 1 => decide (bits v 17 6 = 0)
  | 2 => true
  | 3 => decide (bits v 17 9 ≤ 409 ∧ bits v 8 0 ≤ 409)
  | _ =>
    if off % 3 = 0 then decide (bits v 17 13 = 0)
    else if off % 3 = 1 then decide (bits v 17 16 = 0 ∧ -20000 ≤ signed 16 v ∧ signed 16 v ≤ 20000)
    else decide (bits v 17 7 = 0)

/-- Write words into the idle bank of a table from an offset, up to the first that breaks its check: the words written, and
that word's offset (R230). -/
def Table.load (t : Table) (tbl off : Nat) : List Word → Nat → Table × Nat × Option Nat
  | [], k => (t, k, none)
  | w :: ws, k =>
    if tableCheck tbl (off + k) w then
      Table.load { t with idle := Map.set (fun _ => 0#18) t.idle (off + k) w } tbl off ws (k + 1)
    else (t, k, some (off + k))

/-- A word of a table's active bank. -/
def Stn.act (st : Stn) (t i : Nat) : Nat := Map.word (st.table t).active i

/-- PROC of emitter ek in a geometry bank. -/
def geomProc (g : Map Word) (k : Nat) : Int := signed 7 (Map.word g (2 * k))

/-- The checks of R232 on an idle geometry: q(k) ascends, and the enabled emitters of a group share one SCAN_FRAC. -/
def geometryOk (g : Map Word) : Bool :=
  (List.range 71).all (fun (k : Nat) => decide (16 * (k : Int) + geomProc g k < 16 * ((k : Int) + 1) + geomProc g (k + 1))) &&
  (List.range 9).all (fun grp =>
    let ks := (List.range 72).filter (fun k => bit (Map.word g (2 * k)) 17 && decide (bits (Map.word g (2 * k)) 16 13 = grp))
    let fs := ks.map (fun k => bits (Map.word g (2 * k + 1)) 3 0)
    match fs with
    | [] => true
    | f :: r => r.all (fun x => decide (x = f)))

/-- The tables a swap mask names. -/
def maskTables (mask : Nat) : List Nat := (List.range 5).filter (fun t => bit mask t)

/-- The check of a swap whose waits have ended (R232). -/
def Stn.swapOk (st : Stn) (mask : Nat) : Bool :=
  (maskTables mask).all (fun t => decide ((st.table t).state ≠ .dirty) && (decide (t ≠ 0) || geometryOk (st.table t).idle))

/-- Exchange the banks of the tables in a mask; the freed banks go to COPYING and LOADED is set (R232, R233). -/
def State.swapTables (s : State) (n mask : Nat) : State :=
  let ts := maskTables mask
  let s1 := s.setStn n (ts.foldl (fun (st : Stn) t =>
    let b := st.table t
    st.setTable t { active := b.idle, idle := b.active, bank := !b.bank, state := .copying }) (s.stn n))
  ts.foldl (fun u t => u.put ((Reg.STN_TBL_CTL_LOADED n).at t) 1) s1

/-- A COPYING bank has taken the active bank's words (R231). -/
def State.copyDone (s : State) (n t : Nat) : State :=
  let st := s.stn n
  let b := st.table t
  if b.state = .copying then s.setStn n (st.setTable t { b with idle := b.active, state := .same }) else s

/-- STN_TBL_STAT (R231). -/
def State.tblStat (s : State) (n : Nat) : Nat :=
  (List.range 5).foldl (fun acc t =>
    let b := (s.stn n).table t
    let i := match b.state with | .same => 0 | .modified => 1 | .dirty => 2 | .copying => 3
    acc + (b2n b.bank * 4 + i) * 8 ^ t) 0

/-! Descriptors that name a station -/

/-- A status of an opcode that names a station, once its operation is complete (R227, R205). -/
def State.stnStatus (s : State) (n : Nat) : Byte := if s.degraded n then Status.stationDegraded else Status.done

/-- A swap takes effect and its descriptor completes (R198, R201). -/
def State.swapNow (s : State) (i : Nat) (f : Flight) : State :=
  let s1 := s.swapTables f.d.stn f.d.mask
  s1.fixFlight i { status := s1.stnStatus f.d.stn, result := BitVec.ofNat 64 f.d.mask }

/-- Every ready swap of a station that is due takes effect, in fetch order (R232); one whose host's link retrains waits (R159). -/
def State.swapsDue (s : State) (n : Nat) (due : Nat → Bool) : State :=
  (List.range s.flights.length).foldl (fun u i =>
    match u.flights[i]? with
    | some f => if f.op = .tableSwap ∧ f.d.stn = n ∧ f.stage = .swapReady ∧ f.compl.isNone ∧ due f.ready ∧ !(u.host f.host).retraining then u.swapNow i f else u
    | none => u) s

/-! Sheets and the band ring (R209 to R213) -/

def Stn.queue (st : Stn) : List Sheet := st.sheets.filter (·.queued)

/-- Change the sheet with a record index. -/
def Stn.mapSheet (st : Stn) (r : Nat) (f : Sheet → Sheet) : Stn :=
  { st with sheets := st.sheets.map (fun h => if h.rec_ = r then f h else h) }

def Stn.findSheet (st : Stn) (r : Nat) : Option Sheet := st.sheets.find? (fun h => decide (h.rec_ = r))

/-- Line l of the sheet belongs to it; while its LAST band has not been accepted it has no end (log entry 33). -/
def Sheet.has (h : Sheet) (l : Int) : Bool :=
  decide (h.origin ≤ l) && (match h.lines with | none => true | some n => decide (l < h.origin + n))

/-- A range of process lines meets the sheet. -/
def Sheet.meets (h : Sheet) (a b : Int) : Bool :=
  decide (a ≤ b ∧ h.origin ≤ b) && (match h.lines with | none => true | some n => decide (a < h.origin + n))

/-- The queued sheet that owns a process line (R209). -/
def Stn.sheetOf (st : Stn) (l : Int) : Option Sheet := st.queue.find? (·.has l)

/-- A sheet line is in one of the ranges. -/
def inRanges (rs : List (Nat × Nat)) (l : Nat) : Bool := rs.any (fun b => decide (b.1 ≤ l ∧ l < b.1 + b.2))

/-- Origin, ring position and lines of the sheet that joined last (R209). -/
def Stn.prev (st : Stn) : Option (Int × Nat × Option Nat) :=
  match st.queue.getLast? with
  | some h => some (h.origin, h.pos, h.lines)
  | none => st.gone.getLast?.map (fun g => (g.1, g.2.1, some g.2.2))

/-- Where the next sheet to join lies (R209): FIRST for the first one after arming, else behind the previous one, whose LAST
band must have been accepted (R212). -/
def State.nextOrigin (s : State) (n : Nat) : Option (Int × Nat) :=
  match (s.stn n).prev with
  | none => some (s.get (Reg.STN_FIRST_FIRST n), 0)
  | some (o, p, some k) => some (o + k + s.get (Reg.STN_GAP_GAP n), p + k)
  | some (_, _, none) => none

/-- The next sheet joins the station's queue (R210, R212). -/
def State.joinQueue (s : State) (n : Nat) : State :=
  let st := s.stn n
  match s.nextOrigin n, st.sheets.find? (fun h => !h.queued && !h.posted.isEmpty) with
  | some (o, p), some h =>
    if st.queue.length < 16 then s.setStn n (st.mapSheet h.rec_ (fun g => { g with queued := true, origin := o, pos := p })) else s
  | _, _ => s

/-- The process line that occupies a ring position, if a sheet known since arming put one there. -/
def Stn.lineAt (st : Stn) (p : Nat) : Option Int :=
  match st.queue.find? (fun h => decide (h.pos ≤ p) && (match h.lines with | none => true | some n => decide (p < h.pos + n))) with
  | some h => some (h.origin + ((p - h.pos : Nat) : Int))
  | none => (st.gone.find? (fun g => decide (g.2.1 ≤ p ∧ p < g.2.1 + g.2.2))).map (fun g => g.1 + ((p - g.2.1 : Nat) : Int))

/-- The slot of a ring position is free: the line SIZE positions earlier has been released (R212, R214). -/
def State.slotFree (s : State) (n p : Nat) : Bool :=
  let st := s.stn n
  if p < s.ringSize n then true
  else match st.lineAt (p - s.ringSize n), st.released with
    | none, _ => true
    | some l, some b => decide (l < b)
    | some _, none => false

/-- IMAGED for the station is held by region 63's wave (R126). -/
def State.imagedHeld (s : State) (n r : Nat) : Bool :=
  s.led.held.any (fun e => match e with | .imaged m recs _ => decide (m.val = n) && recs.contains r | _ => false)

/-- The checks of Table 8-2 on a RASTER_POST of a host; with none failing, the record it is for. -/
def State.rasterCheck (s : State) (h : PHost) (d : Desc) : Except Byte Nat :=
  let n := d.stn
  let st := s.stn n
  let a0 := d.a0.toNat
  let ringFail := s.rangeCheck (h.val + 1) (s.ringBase n) (s.ringEnd n - 1) true false
  if s.stnOwner n ≠ some h then .error Status.denied
  else if !s.stnArmed n then .error Status.badRange
  else if d.len.toNat ≠ d.lines * s.lineBytes n ∨ s.ringSize n < 2 * d.lines then .error Status.badRange
  else match ringFail with
    | some e => .error e
    | none =>
      match s.openHolder d.sheet with
      | none => .error Status.badRange
      | some r =>
        if !bit (s.record r).mask n || s.imagedHeld n r then .error Status.badRange
        else match st.findSheet r with
          | none => .ok r
          | some g =>
            let top := a0 + d.lines
            if g.posted.any (fun b => decide (b.1 < top ∧ a0 < b.1 + b.2)) then .error Status.badRange
            else match g.lines with
              | some k => if top ≤ k ∧ (d.last → top = k) then .ok r else .error Status.badRange
              | none => if d.last ∧ g.posted.any (fun b => decide (top < b.1 + b.2)) then .error Status.badRange else .ok r

/-- A RASTER_POST is accepted (R211): its band is noted, with N when it carries LAST. -/
def State.rasterAccept (s : State) (d : Desc) (r : Nat) : State :=
  let n := d.stn
  let st := s.stn n
  let band := (d.a0.toNat, d.lines)
  let upd (g : Sheet) : Sheet :=
    { g with posted := g.posted ++ [band], lines := if d.last then some (d.a0.toNat + d.lines) else g.lines }
  match st.findSheet r with
  | none => s.setStn n { st with sheets := st.sheets ++ [upd { rec_ := r }] }
  | some g =>
    if !g.queued && g.posted.isEmpty then
      s.setStn n { st with sheets := st.sheets.filter (fun h => decide (h.rec_ ≠ r)) ++ [upd g] }
    else s.setStn n (st.mapSheet r upd)

/-- An accepted RASTER_POST completes without effect: its lines count as never posted (R212). -/
def State.rasterWithdraw (s : State) (f : Flight) : State :=
  if f.op = .rasterPost ∧ f.stage = .ringSpace then
    let n := f.d.stn
    s.setStn n { s.stn n with sheets := (s.stn n).sheets.map (fun g =>
      if (s.record g.rec_).sheet = f.d.sheet then
        { g with posted := g.posted.filter (fun b => decide (b ≠ (f.d.a0.toNat, f.d.lines))) } else g) }
  else s

/-- RASTER_COMPLETE for a record; while region 63's wave holds ledger writes, one whose condition holds is noted for the wave's end (R126,
R271). -/
def State.rasterTry (s : State) (r : Nat) : State :=
  if s.ledHeld then
    (if (s.record r).isOpen && s.rasterDone r (s.record r) then { s with led := { s.led with rastered := s.led.rastered ++ [r] } } else s)
  else s.rasterComplete r s.stamp

/-- The band of an accepted RASTER_POST may be written: its sheet is queued, its data complete, its slots free and its
regions open to writes (R212). -/
def State.bandReady (s : State) (f : Flight) : Option Sheet :=
  let n := f.d.stn
  match (s.stn n).queue.find? (fun g => decide ((s.record g.rec_).sheet = f.d.sheet) && inRanges g.posted f.d.a0.toNat) with
  | some g =>
    if !(s.host f.host).retraining ∧ f.buf.length = f.d.len.toNat ∧ (List.range f.d.lines).all (fun i => s.slotFree n (g.pos + f.d.a0.toNat + i)) ∧
        !(s.ringRegions n).any (s.waits · true) then some g else none
  | none => none

/-- Write the lines of a band into their slots, wrapping at the ring's end (R212). -/
def State.writeBand (s : State) (n pos : Nat) : Nat → List Byte → State
  | 0, _ => s
  | k + 1, bs =>
    let w := s.lineBytes n
    let a := s.ringBase n + pos % s.ringSize n * w
    State.writeBand (s.writeBytes a (bs.take w) false {}).1 n (pos + 1) k (bs.drop w)

/-- A line's emission time has passed (R213). While no emitter of the facet writes there is no L_lo, and no line is late by its place (log
entry 120, DESIGN CHOICE). -/
def Stn.lateLine (st : Stn) (g : Sheet) (l : Nat) : Bool :=
  g.missing.contains l || (match st.llo with | some b => decide (g.origin + l < b) | none => false)

/-- The band is written, commits and publishes its lines (R213). -/
def State.publish (s : State) (i : Nat) (f : Flight) (g : Sheet) : State :=
  let n := f.d.stn
  let st := s.stn n
  let a0 := f.d.a0.toNat
  let ls := (List.range f.d.lines).map (a0 + ·)
  let late := ls.filter (st.lateLine g)
  let pub := if late.isEmpty then [(a0, f.d.lines)] else (ls.filter (fun l => !late.contains l)).map (fun l => (l, 1))
  let s1 := s.writeBand n (g.pos + a0) f.d.lines f.buf
  let s2 := s1.setStn n (st.mapSheet g.rec_ (fun x =>
    { x with published := x.published ++ pub, missing := x.missing ++ late.filter (fun l => !x.missing.contains l) }))
  let status := if !late.isEmpty then Status.lateRaster
    else if (s2.record g.rec_).spoiled then Status.spoiled else s2.stnStatus n
  let slot := (g.pos + a0) % s.ringSize n
  (s2.fixFlight i { status := status, result := BitVec.ofNat 64 (slot * 2 ^ 48 + f.d.len.toNat) }).rasterTry g.rec_

/-! Line fetch (R214, R394) -/

/-- One ring codeword as a station reads it: bytes with every word in error, WIPED or POISON as zeros, and whether the line's
sheet is spoiled with cause DATA (R394). -/
def State.rasterCw (s : State) (cw : Nat) : State × List Byte × Bool :=
  let ws := [0, 1, 2, 3].map (fun k => (s.cwImage cw).word (4 * cwIndex cw + k))
  let t := s.touch cw
  if t.2 = .bad then (t.1, List.replicate 8 0#8, true)
  else
    (t.1, ws.flatMap (fun (w : Word) => if w.getLsbD 17 || w.getLsbD 16 then [0#8, 0#8] else [w.setWidth 8, (w >>> 8).setWidth 8]),
      ws.any (fun w => w.getLsbD 17))

def State.rasterCws (s : State) : Nat → Nat → State × List Byte × Bool
  | 0, _ => (s, [], false)
  | k + 1, cw =>
    let a := s.rasterCw cw
    let b := State.rasterCws a.1 k (cw + 1)
    (b.1, a.2.1 ++ b.2.1, a.2.2 || b.2.2)

/-- The lowest published process line that is neither buffered nor released, with its sheet (R214). -/
def Stn.nextFetch (st : Stn) : Option (Int × Sheet) :=
  let cands := st.queue.flatMap (fun g => (g.published.flatMap (fun b => (List.range b.2).map (fun i => g.origin + ((b.1 + i : Nat) : Int)))).filterMap
    (fun l => if (match st.released with | some r => decide (l < r) | none => false) || st.buffer.any (fun e => decide (e.1 = l)) then none
      else some (l, g)))
  cands.foldl (fun best e =>
    match best with
    | none => some e
    | some b => if e.1 < b.1 then some e else some b) none

/-- Fetch the next line into the 160-line buffer (R214). -/
def State.lineFetch (s : State) (n : Nat) (ups : List Upset) : State :=
  let st := s.stn n
  match st.nextFetch with
  | some (l, g) =>
    if s.stnArmed n ∧ st.buffer.length < 160 then
      let slot := (g.pos + (l - g.origin).toNat) % s.ringSize n
      let cw := (s.ringBase n + slot * s.lineBytes n) / 8
      let k := s.lineBytes n / 8
      let r := (s.upsets ups cw (cw + k - 1)).rasterCws k cw
      let s1 := r.1.setStn n { r.1.stn n with buffer := (r.1.stn n).buffer ++ [(l, r.2.1)] }
      if r.2.2 then s1.stnSpoil n [g.rec_] 13 else s1
    else s
  | none => s

/-! Arming and disarming (R215 to R217) -/

/-- The ring is valid for arming (R208). -/
def State.ringValid (s : State) (n : Nat) : Bool :=
  let size := s.ringSize n
  let w := s.get (Reg.STN_LINE_W64 n)
  decide (256 ≤ size ∧ size ≤ 8192 ∧ 1 ≤ w ∧ w ≤ 768 ∧ s.ringEnd n ≤ 0x7E000000) &&
    (match s.ringRegions n with
     | [] => false
     | r0 :: _ =>
       match s.partOf r0 with
       | none => false
       | some p => (s.ringRegions n).all (fun r => decide (s.rstate r = RState.assigned ∧ s.partOf r = some p)) &&
           s.flag (Reg.PART_ATTR_FEED p) && !s.flag (Reg.PART_ATTR_VIEW p) &&
           decide (s.rightOf p (s.get (Reg.STN_OWNER_OWNER n)) = 3))

/-- r of R91. -/
def State.slotsNeeded (s : State) (n : Nat) : Nat :=
  let l := if s.doubleMode n then 36 else 72
  ceilDiv (64 * s.get (Reg.STN_RATE_F_MAX n) * l * (4 * s.get (Reg.STN_LINE_W64 n))) (8 * 10 ^ 9)

/-- Slots that armed stations hold in each cluster of a region (R92); they follow a forward (Table 3-8). -/
def State.slotsHeld (s : State) (r : Nat) : Nat :=
  ((List.range 8).map (fun m => if s.stnArmed m ∧ ((s.ringRegions m).map s.target).contains r then (s.stn m).reserved else 0)).sum

/-- ARR_SLOTS PEAK: the most slots held in any cluster. -/
def State.slotsPeak (s : State) : Nat := ((List.range 63).map s.slotsHeld).foldl max 0

/-- The station's Ecposia link is UP (R258). -/
def State.linkUp (s : State) (n : Nat) : Bool := decide (s.get (Reg.STN_LINK_STAT_STATE n) = 4)

/-- The first failing condition of Table 8-3, 0 for none. -/
def State.armReason (s : State) (n : Nat) : Nat :=
  if s.pwr.st ≠ .run ∨ !s.stnEnabled n then 1
  else if (s.stnOwner n).all (fun h => !s.hostExists h) then 2
  else if !s.ringValid n then 3
  else if s.get (Reg.STN_TBL_CTL_LOADED n) ≠ 31 then 4
  else if !s.linkUp n then 5
  else if s.get (Reg.STN_ENC_K_K n) = 0 then 6
  else if (s.ringRegions n).any (fun r => decide (48 < s.slotsHeld r + s.slotsNeeded n)) then 7
  else 0

/-- ARM in STN_CTL, written by sender x (R215, R216, R395). -/
def State.arm (s : State) (x : Sender) (n : Nat) : State :=
  if s.stnArmed n then s
  else
    match s.armReason n with
    | 0 =>
      let st := s.stn n
      let s1 := s.setStn n { st with
        reserved := s.slotsNeeded n, disarming := false, drain := none, dc := 0, hw := 0,
        reversed := false, x := none, pmaxL := none, pmaxU := none, llo := none, released := none, win := .arming, intervals := [],
        pStall := none, facet := none, history := [], fseq := 0, lastRpt := none, sbLost := false, emitted := 0 }
      (s.ringRegions n).foldl (fun (t : State) r => t.yieldWindow r) (s1.put (Reg.STN_STATUS_WAIT_SOS n) 1)
    | k =>
      let s1 := (s.put (Reg.STN_ARM_ERR_REASON n) k).stnEvent n Reg.STN_EVENT_ARM_REFUSED
      if k = 7 then s1.arrEvent Reg.ARR_EVENT_SLOT_REFUSED (hostOf x.toNat).toList else s1

/-- Sheets in progress (R234). -/
def Stn.inProgress (st : Stn) : List Nat := (st.queue.filter (·.rows)).map (·.rec_)

/-- An entry of the stamp buffer is an event of the hardware (R126); a held descriptor takes none. -/
def LedEvent.hardware (e : LedEvent) : Bool :=
  match e with
  | .descriptor .. => false
  | .pulse .. => true
  | .jam .. => true
  | .imaged .. => true
  | .spoil .. => true
  | .timeout .. => true

/-- The stamp buffer is full: further events are held as flags on the sheets (R126). -/
def State.bufferFull (s : State) : Bool := s.ledHeld && decide (512 ≤ (s.led.held.filter (·.hardware)).length)

/-- Disarm at once (R217): spoils of the sheets not IMAGED, an empty queue, buffer and publish state, waiting RASTER_POSTs ended, ready
swaps applied. While the stamp buffer is full the queue's sheets stay, aside, until their flags are applied (R126). -/
def State.disarmNow (s : State) (n : Nat) : State :=
  let queue := (s.stn n).queue
  let s1 := s.stnSpoil n ((queue.filter (fun g => !g.flagged)).map (·.rec_)) 7
  let s2 := s1.putAll [(Reg.STN_STATUS_ARMED n, 0), (Reg.STN_STATUS_WAIT_SOS n, 0), (Reg.STN_STATUS_STALLED n, 0)]
  let s3 := s2.setStn n { s2.stn n with
    sheets := [], aside := (s2.stn n).aside ++ (if s.bufferFull then queue.map (·.rec_) else []), gone := [], buffer := [], reserved := 0, disarming := false, drain := none,
    facet := none, win := .closed, pStall := none, intervals := [], llo := none, released := none, pmaxL := none, pmaxU := none,
    lastRpt := none, sbLost := false, disarmed := s2.stamp }
  let s4 := (List.range s3.flights.length).foldl (fun u i =>
    match u.flights[i]? with
    | some f => if f.op = .rasterPost ∧ f.d.stn = n ∧ f.compl.isNone then u.fixFlight i { status := Status.timeout } else u
    | none => u) s3
  (s4.swapsDue n (fun _ => true)).retireAll

/-- DISARM in STN_CTL: at once, or at the end of the facet in progress (R217). -/
def State.disarm (s : State) (n : Nat) : State :=
  if !s.stnArmed n then s
  else if (s.stn n).facet.isSome then s.setStn n { s.stn n with disarming := true }
  else s.disarmNow n

/-! Position and selection (R219 to R222) -/

/-- Keep a value to 48 bits, two's complement (R219). -/
def wrap48 (x : Int) : Int := signed 48 (unsigned 48 x)

/-- Emitter ek is out: its EN is 0 or its DEAD bit is 1 (R226). -/
def State.emitterOut (s : State) (n k : Nat) : Bool :=
  !bit ((s.stn n).act 0 (2 * k)) 17 || bit (s.get (Reg.STN_DEAD_DEAD n (k / 18))) (k % 18)

/-- The out set is within the limit of its mode (R227). -/
def outsWithin (double : Bool) (outs : List Nat) : Bool :=
  if double then decide (outs.length ≤ 8) && outs.all (fun k => decide (36 ≤ k) || !outs.contains (k + 36))
  else decide (outs.length ≤ 4) && outs.all (fun k => !outs.contains (k + 1))

/-- What R220 selects for one half: each emitter's state, the first row not suppressed and the top row. -/
structure Sel where
  emits : List Emit := []
  lo : Option Int := none
  hi : Option Int := none
  deriving DecidableEq, Repr

/-- One emitter of the selection of R220, whose position is p. -/
def Sel.add (a : Sel) (p : Int) (out : Bool) (pmax : Option Int) (ovl : Int) : Sel :=
  if (match pmax with | some m => decide (p ≤ m + ovl) | none => false) then { a with emits := a.emits ++ [.suppressed] }
  else
    { emits := a.emits ++ [if out then .out else .write (p / 16) (p % 16).toNat true],
      lo := some (a.lo.getD p), hi := some (match a.hi with | some h => max h p | none => p) }

/-- The selection of one half. -/
def State.selectHalf (s : State) (n : Nat) (x : Int) (ks : List Nat) (pmax : Option Int) : Sel :=
  ks.foldl (fun (a : Sel) (k : Nat) => a.add (x + 16 * (k : Int) + geomProc ((s.stn n).table 0).active k) (s.emitterOut n k) pmax
    (s.get (Reg.STN_GEOM_CTL_OVL_TH n))) {}

/-- The gap test of R220: the lines from pmax's to lo's that are missing on the web. -/
def gapOf (pmax lo : Option Int) (th : Int) : Option (Int × Int) :=
  match pmax, lo with
  | some m, some l => if m + th < l then some (m / 16 + 1, l / 16) else none
  | _, _ => none

/-- Taps of an emitter in state write. -/
def Emit.taps : Emit → List Int
  | .write l phi _ => if 0 < phi then [l, l + 1] else [l]
  | _ => []

/-- The line of an emitter in state write. -/
def Emit.line? : Emit → Option Int
  | .write l _ _ => some l
  | _ => none

/-- A tap is a sheet line that is not in the line buffer (R222). -/
def Stn.tapLate (st : Stn) (l : Int) : Bool := (st.sheetOf l).isSome && !st.buffer.any (fun e => decide (e.1 = l))

/-- R222 on one emitter: a late tap darkens it. -/
def Stn.lightOf (st : Stn) (e : Emit) : Emit :=
  match e with
  | .write l phi _ => .write l phi (!(e.taps.any st.tapLate))
  | _ => e

/-! Drive codes (R223 to R225) -/

/-- Dot d of a raster line (R207). -/
def dotOf (bs : List Byte) (d : Nat) : Nat := ((bs.getD (d / 2) 0#8).toNat / 16 ^ (d % 2)) % 16

/-- The raster value of a process line's dot: buffered lines only, every other tap reads 0 (R209). -/
def Stn.raster (st : Stn) (l : Int) (d : Nat) : Nat :=
  match st.buffer.find? (fun e => decide (e.1 = l)) with
  | some e => dotOf e.2 d
  | none => 0

/-- The arithmetic of R224, before the code is limited to 63. -/
def driveValue (r0 r1 phi c0 c1 coef boost derate : Nat) (half : Bool) : Nat :=
  let v := (16 - phi) * r0 + phi * r1
  let fr := v % 16
  let t16 : Int := 16 * (c0 : Int) + (fr : Int) * ((c1 : Int) - (c0 : Int))
  let cb := min 0x3FFFF ((coef * (1024 + boost) + 512) / 2 ^ 10)
  let cd := (cb * derate + 128) / 2 ^ 8
  let sh := if half then 21 else 20
  (t16.toNat * cd + 2 ^ (sh - 1)) / 2 ^ sh

/-- The boost that emitter ek receives (R228). -/
def Stn.boostOf (st : Stn) (emits : List Emit) (k : Nat) : Nat :=
  let hiOf := if 0 < k ∧ emits.getD (k - 1) .suppressed = .out then bits (st.act 3 (k - 1)) 8 0 else 0
  let loOf := if emits.getD (k + 1) .suppressed = .out then bits (st.act 3 (k + 1)) 17 9 else 0
  min 409 (hiOf + loOf)

/-- The unlimited code of emitter ek at source dot d (R223, R224). -/
def Stn.codeAt (st : Stn) (e : Emit) (k d boost derate : Nat) (half : Bool) : Nat :=
  match e with
  | .write l phi true =>
    let r0 := st.raster l d
    let r1 := if 0 < phi then st.raster (l + 1) d else 0
    let i := ((16 - phi) * r0 + phi * r1) / 16
    driveValue r0 r1 phi (bits (st.act 1 (16 * k + i)) 5 0) (bits (st.act 1 (16 * k + min 15 (i + 1))) 5 0)
      (st.act 2 (768 * k + d / 64)) boost derate half
  | _ => 0

/-- Derating at a temperature level (R224, R235). -/
def State.derateOf (s : State) (n : Nat) : Nat :=
  match s.get (Reg.STN_TEMP_LEVEL n) with
  | 1 => s.get (Reg.STN_DERATE_D_WARN n)
  | 2 => s.get (Reg.STN_DERATE_D_LIMIT n)
  | _ => 256

/-- The indices of the emitters in the transmit mask (R252). -/
def maskOf (emits : List Emit) : List Nat := (List.range 72).filter (fun k => ((emits.getD k .suppressed).line?).isSome)

/-- SCAN_DOTS of emitter ek in the active geometry. -/
def Stn.scanDots (st : Stn) (k : Nat) : Nat := bits (st.act 0 (2 * k + 1)) 17 4

/-- Emission times in the facet (R223). -/
def Stn.spanOf (st : Stn) (dots : Nat) (ks : List Nat) : Nat := dots + (ks.map st.scanDots).foldl max 0

/-- The codes of a facet in the order PAYLOAD carries them, before their limit to 63 (R223, R253). -/
def State.facetCodes (s : State) (n : Nat) (emits : List Emit) (within dark : Bool) : List Nat :=
  let st := s.stn n
  let dots := 64 * s.get (Reg.STN_LINE_W64 n)
  let ks := maskOf emits
  let double := s.doubleMode n
  let derate := s.derateOf n
  let prm := ks.map (fun k =>
    (k, st.scanDots k, if double || !within then 0 else st.boostOf emits k,
      double && !(within && s.emitterOut n ((k + 36) % 72))))
  (List.range (st.spanOf dots ks)).flatMap (fun t => prm.map (fun (p : Nat × Nat × Nat × Bool) =>
    if dark ∨ t < p.2.1 ∨ dots ≤ t - p.2.1 then 0
    else st.codeAt (emits.getD p.1 .suppressed) p.1 (t - p.2.1) p.2.2.1 derate p.2.2.2))

/-! Dot timing (R246, R247) -/

/-- Division with rounding to nearest, halves away from zero. -/
def roundDiv (a : Int) (b : Nat) : Int := if 0 ≤ a then (2 * a + b) / (2 * b) else -((-2 * a + b) / (2 * b))

/-- T in quarter S cycles (R242). -/
def State.scanT (s : State) (n : Nat) : Nat := 32 * s.get (Reg.STN_SXS_T_T_SCAN n)

/-- A(fn) in use (R246). -/
def State.autoTrim (s : State) (n fn : Nat) : Int :=
  if s.flag (Reg.STN_MAG_AUTO n) && s.flag (Reg.STN_MTRIM_VALID n fn) then signed 16 (s.get (Reg.STN_MTRIM_TRIM n fn)) else 0

/-- P_eff in 2⁻²⁰ S cycle (R246). -/
def State.pEff (s : State) (n fn : Nat) : Nat :=
  let m := clampI (-20000) 20000 (signed 16 ((s.stn n).act 4 (3 * fn + 1)) + s.autoTrim n fn)
  (s.get (Reg.STN_DOT_DOT_PER n) * 256 * (1000000 + m).toNat + 500000) / 10 ^ 6

/-- T0 in 2⁻²⁴ S cycle (R247), for an SOS at t quarter S cycles. -/
def State.emitStart (s : State) (n fn t : Nat) : Int :=
  (t : Int) * 2 ^ 22 + (16 * (s.get (Reg.STN_LEAD_LEAD n) : Int) + signed 13 ((s.stn n).act 4 (3 * fn))) * (s.pEff n fn : Int)

/-- An EOS at t gives T_meas and recomputes the automatic trim of the facet's number (R242, R246). STN_TMEAS shows whole S cycles, the
quarters cut off (log entry 122, DESIGN CHOICE). -/
def State.eos (s : State) (n t : Nat) : State :=
  let st := s.stn n
  let q := t - st.tSos
  let ms := (q :: Map.get (fun _ => []) st.meas st.fn).take 8
  let s1 := ((s.put (Reg.STN_TMEAS_LO_T_LO n) (q / 4)).put (Reg.STN_TMEAS_HI_T_HI n) (q / 4 / 2 ^ 18)).setStn n
    { st with win := .holdoff, meas := Map.set (fun _ => []) st.meas st.fn ms }
  let k := 2 ^ s.get (Reg.STN_MAG_AVG n)
  if k ≤ ms.length then
    let base := k * s.scanT n
    let a := clampI (-20000) 20000 (roundDiv ((((ms.take k).sum : Nat) - (base : Int)) * 1000000) base)
    (s1.put (Reg.STN_MTRIM_TRIM n st.fn) (unsigned 16 a)).put (Reg.STN_MTRIM_VALID n st.fn) 1
  else s1

/-- FN_ADJ (R244, R246): it waits for the next SOS, invalidates every automatic trim and discards the measurements stored for them (log
entry 123, DESIGN CHOICE). -/
def State.fnAdjust (s : State) (n a : Nat) : State :=
  let st := s.stn n
  let s1 := s.setStn n { st with fnAdj := st.fnAdj + a, meas := [] }
  (List.range 12).foldl (fun u f => u.put (Reg.STN_MTRIM_VALID n f) 0) s1

/-! Spoils and blanking (R234 to R237) -/

/-- Spoil every sheet in progress (R234). -/
def State.spoilProgress (s : State) (n cause : Nat) : State := s.stnSpoil n (s.stn n).inProgress cause

/-- The output is blanked from PAYLOAD block `first` of the facet in progress on. -/
def State.blankFrom (s : State) (n first : Nat) : State :=
  match (s.stn n).facet with
  | some f =>
    if f.cut.isSome then s else s.setStn n { s.stn n with facet := some { f with cut := some (min f.nblk first) } }
  | none => s

/-- The output is blanked from a block on that the spec does not fix: a free value (log entry 7). -/
def State.blankOutput (s : State) (n : Nat) : State :=
  let w := s.drawWord
  let v := w.2.drawWord
  v.2.blankFrom n (w.1.toNat + 2 ^ 18 * v.1.toNat)

/-- A stall (R236; Table 1-5 for the S PLL): blank, spoil, STALLED, STALL, P_ref discarded; a station that is STALLED keeps the P_stall
that it has. -/
def State.stallNow (s : State) (n : Nat) : State :=
  let s1 := (s.blankOutput n).spoilProgress n 2
  let s2 := (s1.put (Reg.STN_STATUS_STALLED n) 1).stnEvent n Reg.STN_EVENT_STALL
  let st := s2.stn n
  let p := if st.intervals.isEmpty then (if s.flag (Reg.STN_STATUS_STALLED n) then st.pStall else none)
    else some (st.intervals.sum, st.intervals.length)
  s2.setStn n { st with pStall := p, intervals := [] }

/-- DEG_EMIT as the out set of an SOS gives it, with DEGRADED on its rise (R227). -/
def State.setDegEmit (s : State) (n : Nat) (on : Bool) : State :=
  let was := s.flag (Reg.STN_STATUS_DEG_EMIT n)
  let s1 := s.put (Reg.STN_STATUS_DEG_EMIT n) (b2n on)
  if on && !was then s1.stnEvent n Reg.STN_EVENT_DEGRADED else s1

/-- The CUTOFF condition starts (R235, R263): BLANK and its spoils; blanking follows 1 µs later. -/
def State.cutoffStart (s : State) (n : Nat) : State :=
  let s1 := (s.put (Reg.STN_STATUS_BLANK n) 1).setStn n { s.stn n with cutoff := true, blankDue := !s.flag (Reg.STN_STATUS_BLANK n) }
  s1.spoilProgress n 3

/-! End of a facet (R238, R253) -/

/-- A queued sheet is fully imaged at the station's top rows (R238). -/
def State.sheetImaged (s : State) (n : Nat) (g : Sheet) : Bool :=
  let st := s.stn n
  let ovl : Int := s.get (Reg.STN_GEOM_CTL_OVL_TH n)
  match g.lines with
  | none => false
  | some k => ((if s.doubleMode n then [st.pmaxL, st.pmaxU] else [st.pmaxL])).all
      (fun p => match p with | some m => decide (16 * (g.origin + k) ≤ m + ovl) | none => false)

/-- Sheets leave a station's queue (R210). -/
def Stn.leave (st : Stn) (done : List Sheet) : Stn :=
  { st with
    sheets := st.sheets.filter (fun g => !(done.map (·.rec_)).contains g.rec_)
    gone := st.gone ++ done.map (fun g => (g.origin, g.pos, g.lines.getD 0)) }

/-- IMAGED is stamped on every queued sheet that no later facet can write, and the sheet leaves the queue (R210, R238), or, while the
stamp buffer is full, keeps a flag and its place until the stamp is applied (R126). -/
def State.stampSheets (s : State) (n : Nat) : State :=
  let st := s.stn n
  let done := st.queue.filter (fun g => s.sheetImaged n g && !g.flagged)
  if done.isEmpty then s
  else
    let rs := done.map (·.rec_)
    let s1 := s.setStn n (if s.bufferFull then
        { st with sheets := st.sheets.map (fun g => if rs.contains g.rec_ then { g with flagged := true } else g) }
      else st.leave done)
    s1.ledEventNow (.imaged (Fin.ofNat 8 n) rs s.stamp)

/-- The PAYLOAD codes as sent: limited to 63, and 0 from the cut block on (R224, R253). -/
def Facet.sent (f : Facet) : List Nat :=
  match f.cut with
  | none => f.codes.map (min 63 ·)
  | some c => ((f.codes.take (10 * c)).map (min 63 ·)) ++ List.replicate (f.codes.length - 10 * c) 0

/-- A facet clipped at least one of the codes it sent (R224). -/
def Facet.clipped (f : Facet) : Bool :=
  (match f.cut with | none => f.codes | some c => f.codes.take (10 * c)).any (fun v => decide (63 < v))

/-- Disarm once DRAIN's current sheets have been stamped (R46). -/
def State.drainCheck (s : State) (n : Nat) : State :=
  match (s.stn n).drain with
  | some rs => if rs.any (fun r => (s.stn n).queue.any (fun g => decide (g.rec_ = r))) then s else s.disarm n
  | none => s

/-- A station's flagged sheets have been stamped and leave its queue, with those that a disarm left (R126). -/
def State.unflag (s : State) (n : Nat) : State :=
  let st := s.stn n
  let done := st.queue.filter (·.flagged)
  if done.isEmpty ∧ st.aside.isEmpty then s else (s.setStn n { st.leave done with aside := [] }).drainCheck n

/-- The facet in progress ends: FACET_END, SAT, IMAGED, and a disarm that waited for it. -/
def State.facetEnd (s : State) (n : StnId) : State :=
  match (s.stn n.val).facet with
  | some f =>
    let st := s.stn n.val
    let s1 := if s.linkUp n.val then (s.emit (.payload n f.fseq f.sent)).emit (.facetEnd n f.fseq f.nblk) else s
    let s2 := if f.clipped then (s1.bump (Reg.STN_SAT_COUNT n.val)).stnEvent n.val Reg.STN_EVENT_SAT else s1
    let s3 := s2.setStn n.val { s2.stn n.val with
      facet := none
      history := st.history.map (fun p => if p.fseq = f.fseq then { p with last := st.periods } else p) }
    let s4 := s3.stampSheets n.val
    if (s4.stn n.val).disarming then s4.disarmNow n.val else s4.drainCheck n.val
  | none => s

/-! Start of scan (R219 to R229, R242 to R244, R249) -/

/-- Facet numbering at an SOS at t (R244): the arm origin, a first SOS after a stall, or the next facet. -/
def State.sosNumber (s : State) (n t : Nat) : State :=
  let nf := s.get (Reg.STN_CTL_NF n)
  let st := s.stn n
  let origin := s.flag (Reg.STN_STATUS_WAIT_SOS n)
  let stalled := s.flag (Reg.STN_STATUS_STALLED n)
  let r := if stalled && st.pStall.isNone then let w := s.drawWord; (w.1.toNat, w.2) else (0, s)
  let step := if origin then st.ofs
    else if stalled then st.fn + (match st.pStall with
      | some (sum, k) => (2 * (t - st.tSos) * k + sum) / (2 * sum)
      | none => r.1)
    else st.fn + 1
  let ivs := if origin || stalled then [] else ((t - st.tSos) :: st.intervals).take nf
  let s1 := r.2.setStn n { st with
    fn := (step + st.fnAdj) % nf, ofs := (st.ofs + st.fnAdj) % nf, fnAdj := 0, intervals := ivs,
    pStall := none, tSos := t, win := .blanking, fseq := (st.fseq + 1) % 65536 }
  s1.putAll [(Reg.STN_STATUS_WAIT_SOS n, 0), (Reg.STN_STATUS_ARMED n, 1), (Reg.STN_STATUS_STALLED n, 0)]

/-- x of the facet, its advance, and the registers that show them (R219). -/
def State.sosPosition (s : State) (n : Nat) : State :=
  let st := s.stn n
  let hw := max st.hw st.dc
  let x := hw * (s.get (Reg.STN_ENC_K_K n) : Int) / 4096 + signed 7 (st.act 4 (3 * st.fn + 2))
  let adv := match st.x with | some x0 => clampI (-8192) 8191 (x - x0) | none => 0
  let s1 := (s.put (Reg.STN_FACET_FN n) st.fn).put (Reg.STN_FACET_ADV n) (unsigned 14 adv)
  let s2 := (s1.put (Reg.STN_X_LO_X_LO n) (unsigned 36 x)).put (Reg.STN_X_HI_X_HI n) (unsigned 36 x / 2 ^ 18)
  s2.setStn n { s2.stn n with hw := hw, x := some x, reversed := st.reversed && decide (st.dc < hw) }

/-- CONTROL blocks for what has changed since the last facet (R253). -/
def State.sendControls (s : State) (n : StnId) : State :=
  let st := s.stn n.val
  let m := (List.range 72).foldl (fun acc k => acc + b2n (!s.emitterOut n.val k) * 2 ^ k) 0
  let sc := s.get (Reg.STN_SCALE_SCALE n.val)
  let c0 := if m % 2 ^ 36 = st.sentMask % 2 ^ 36 then [] else [Out.control n 0 (m % 2 ^ 36)]
  let c1 := if m / 2 ^ 36 = st.sentMask / 2 ^ 36 then [] else [Out.control n 1 (m / 2 ^ 36)]
  let c2 := if sc = st.sentScale then [] else [Out.control n 2 sc]
  (((c0 ++ c1 ++ c2).foldl State.emit s)).setStn n.val { st with sentMask := m, sentScale := sc }

/-- The phases of the column groups, from the enabled emitters of each (R252). -/
def Stn.groupPhases (st : Stn) : List Nat :=
  (List.range 9).map (fun g => match (List.range 72).find? (fun k => bit (st.act 0 (2 * k)) 17 && decide (bits (st.act 0 (2 * k)) 16 13 = g)) with
    | some k => bits (st.act 0 (2 * k + 1)) 3 0
    | none => 0)

/-- The spoils of one SOS, the lower cause first where two meet one sheet (Table 8-7). Of causes at different moments of one facet the
first stays (R234; log entry 121, DESIGN CHOICE). -/
def State.sosSpoils (s : State) (n : Nat) (by_ : List (Nat × List Nat)) : State :=
  ((List.range 14).flatMap (fun c => by_.filter (fun e => decide (e.1 = c)))).foldl (fun t e => t.stnSpoil n e.2 e.1) s

/-- DELAY and DFRAC in 1/16 UI (R252): T0 less the time at which FACET_START leaves, both in 2⁻²⁴ S cycle, of which 2²⁴ are 125/16
UI, rounded half-up. -/
def delayOf (t0 : Int) (leave : Nat) : Nat := ((((t0 - (leave : Int)) * 250 + 2 ^ 24) / 2 ^ 25).toNat) % 2 ^ 28

/-- The facet that begins at an SOS: selection, lateness, coverage, release, spoils, codes and FACET_START, which leaves at `leave`. -/
def State.sosFacet (s : State) (n : StnId) (t leave : Nat) : State :=
  let m := n.val
  let st := s.stn m
  let x := st.x.getD 0
  let double := s.doubleMode m
  let lower := s.selectHalf m x (if double then List.range 36 else List.range 72) st.pmaxL
  let upper := if double then s.selectHalf m x ((List.range 36).map (· + 36)) st.pmaxU else {}
  let emits := (lower.emits ++ upper.emits).map st.lightOf
  let outs := (List.range 72).filter (s.emitterOut m)
  let within := outsWithin double outs
  let gapTh : Int := s.get (Reg.STN_GEOM_CTL_GAP_TH m)
  let gaps := (gapOf st.pmaxL lower.lo gapTh).toList ++ (if double then (gapOf st.pmaxU upper.lo gapTh).toList else [])
  let lates := ((emits.flatMap Emit.taps).filter st.tapLate).dedup
  let lines := emits.flatMap Emit.taps
  let rowsOf : List Nat := (st.queue.filter (fun g => lines.any g.has)).map (·.rec_)
  let outRows := ((List.range 72).zip emits).filterMap (fun (e : Nat × Emit) =>
    if e.2 = .out then some ((x + 16 * (e.1 : Int) + geomProc (st.table 0).active e.1) / 16) else none)
  let anyRow : List Nat := (st.queue.filter (fun g => (lines ++ outRows).any g.has)).map (·.rec_)
  let blank := s.flag (Reg.STN_STATUS_BLANK m) && st.cutoff
  let down := !s.linkUp m
  let dark := down || (blank && !st.blankDue)
  let llo := (emits.filterMap Emit.line?).foldl (fun (a : Option Int) l => some (match a with | some b => min b l | none => l)) none
  let rel := match st.released, llo with
    | some a, some b => some (max a b)
    | none, b => b
    | a, none => a
  let miss (g : Sheet) : List Nat := lates.filterMap (fun l =>
    if g.queued && g.has l && !inRanges g.published (l - g.origin).toNat && !g.missing.contains (l - g.origin).toNat then some (l - g.origin).toNat else none)
  let sheets := st.sheets.map (fun g => { g with missing := g.missing ++ miss g, rows := g.rows || rowsOf.contains g.rec_ })
  let lateRecs : List Nat := (st.queue.filter (fun g => lates.any g.has)).map (·.rec_)
  let gapRecs : List Nat := (st.queue.filter (fun g => gaps.any (fun e => g.meets e.1 e.2))).map (·.rec_)
  let codes := s.facetCodes m emits within dark
  let ks := maskOf emits
  let span := st.spanOf (64 * s.get (Reg.STN_LINE_W64 m)) ks
  let nblk := ceilDiv (span * ks.length) 10
  let s1 := s.setStn m { st with
    pmaxL := if lower.lo.isSome then lower.hi else st.pmaxL
    pmaxU := if upper.lo.isSome then upper.hi else st.pmaxU
    llo := llo
    released := rel
    sheets := sheets
    buffer := st.buffer.filter (fun (e : Int × List Byte) => match llo with | some b => decide (b ≤ e.1) | none => true)
    facet := some { fseq := st.fseq, nblk := nblk, codes := codes }
    cutoff := st.cutoff && s.flag (Reg.STN_STATUS_BLANK m)
    aborted := st.aborted && down
    history := ((st.history ++ [(⟨st.fseq, st.periods, st.periods, rowsOf⟩ : Past)]).reverse.take 256).reverse }
  let s2 := (s1.put (Reg.STN_COVER_WITHIN m) (b2n within)).put (Reg.STN_COVER_OUT m) outs.length
  let s3 := s2.setDegEmit m (!within)
  let s4 := if gaps.isEmpty then s3 else s3.stnEvent m Reg.STN_EVENT_GAP
  let s5 := if lates.isEmpty then s4 else s4.stnEvent m Reg.STN_EVENT_LATE
  let s6 := s5.sosSpoils m [(1, lateRecs), (3, if blank then rowsOf else []), (5, gapRecs), (6, if within then [] else anyRow),
    (8, if down then rowsOf else [])]
  let s7 := lateRecs.foldl State.rasterTry s6
  if down then s7
  else (s7.sendControls n).emit (.facetStart n st.fseq st.fn span ks.length (ks.map (2 ^ ·)).sum
    ((s.pEff m st.fn * 125 * 2 + 256) / 512) st.groupPhases (delayOf (s.emitStart m st.fn t) leave))

/-- BLANK clears at the first SOS after the condition has ended (R235). -/
def State.blankClear (s : State) (n : Nat) : State :=
  if (s.stn n).cutoff then s
  else (s.put (Reg.STN_STATUS_BLANK n) 0).setStn n { s.stn n with blankDue := false }

/-- An SOS at t is accepted: a facet still in progress ends first (R253), swaps apply, the facet begins. -/
def State.sos (s : State) (n : StnId) (t leave : Nat) : State :=
  let s0 := s.facetEnd n
  if s0.stnArmed n.val then
    let s1 := (s0.swapsDue n.val (fun r => decide (r + 6400 ≤ t))).blankClear n.val
    ((((s1.sosNumber n.val t).sosPosition n.val).sosFacet n t leave)).retireAll
  else s0

/-- A pulse to the active level of POL that lasts at least MIN_W qualifies (R241). -/
def State.qualified (s : State) (n width : Nat) (high : Bool) : Bool :=
  decide (high = !s.flag (Reg.STN_SXS_CTL_POL n) ∧ s.get (Reg.STN_SXS_CTL_MIN_W n) ≤ width)

/-- A qualified pulse at t, used only inside a window (R241, R242). -/
def State.sxsPulse (s : State) (n : StnId) (t width : Nat) (high : Bool) (leave : Nat) : State :=
  if s.serving && s.pwr.spll && s.stnArmed n.val && s.qualified n.val width high then
    match (s.stn n.val).win with
    | .arming => s.sos n t leave
    | .eos => s.eos n.val t
    | _ => s
  else s

end Sys2Proof.Machine
end

