-- ==== Sys2Proof/Machine/LinkOps.lean ====
section
/-! DEFINITION. Shared operations of the Ecposia link, its sideband and the web encoders (spec/09): training, lane loss,
driver reports, SET-UP frames, quadrature counting. -/

namespace Sys2Proof.Machine
open Sys2Proof

/-! Training (R256, R257) -/

/-- STATE values of STN_LINK_STAT. -/
def linkDownSt : Nat := 0
def linkTrain : Nat := 1
def linkMap : Nat := 2
def linkAlign : Nat := 3
def linkUpSt : Nat := 4
def linkFailed : Nat := 5

/-- LMASK with its LANES count. -/
def State.setLanes (s : State) (n mask : Nat) : State :=
  (s.put (Reg.STN_LINK_STAT_LMASK n) mask).put (Reg.STN_LINK_STAT_LANES n) (popcount 8 mask)

/-- DEG_LINK rises with DEGRADED (R258). -/
def State.raiseDegLink (s : State) (n : Nat) : State :=
  if s.flag (Reg.STN_STATUS_DEG_LINK n) then s
  else (s.put (Reg.STN_STATUS_DEG_LINK n) 1).stnEvent n Reg.STN_EVENT_DEGRADED

/-- DEG_LINK as the lane count of a link that is UP gives it (R258). -/
def State.laneRule (s : State) (n : Nat) : State :=
  if s.linkUp n ∧ s.get (Reg.STN_LINK_STAT_LANES n) < s.get (Reg.STN_LINK_CTL_LANES_MIN n) then s.raiseDegLink n else s

/-- Frames that training sends on the sideband (Tables 9-6 and 9-10): reads of driver registers, and a write. -/
def State.readDriver (s : State) (n : StnId) (as : List (BitVec 7)) : State :=
  as.foldl (fun (t : State) a => t.emit (.setupFrame n false a 0#16)) s
def State.writeDriver (s : State) (n : StnId) (a : BitVec 7) (d : Nat) : State := s.emit (.setupFrame n true a (BitVec.ofNat 16 d))

/-- Training starts (R256): at RUN entry, or by TRAIN while the station is not armed; ID and FIFO are read. -/
def State.trainStart (s : State) (n : Nat) : State :=
  let s1 := (s.put (Reg.STN_LINK_STAT_STATE n) linkTrain).put (Reg.STN_STATUS_DEG_LINK n) 0
  ((s1.setLanes n 0).setStn n { s1.stn n with trainStep := some 1, prbs := [], dropLanes := 0, restart := none, eye := none }).readDriver
    (Fin.ofNat 8 n) [0x00#7, 0x01#7]

/-- Training has failed: TRAIN_FAIL, STATE FAILED, the lanes in electrical idle. -/
def State.trainFail (s : State) (n : Nat) : State :=
  let s1 := ((s.put (Reg.STN_LINK_STAT_STATE n) linkFailed).setLanes n 0).setStn n
    { s.stn n with trainStep := none, eye := (s.stn n).eye.map (fun _ => true) }
  s1.stnLEvent n Reg.STN_LEVENT_TRAIN_FAIL

/-- Preset p gave lane l no error. -/
def Stn.clean (st : Stn) (p l : Nat) : Bool := bit (Map.get (fun _ => 0) st.prbs p) l

/-- The preset of a lane (R257): the zero-error preset with the most zero-error neighbours, ties to the lower index. -/
def Stn.presetOf (st : Stn) (l : Nat) : Option Nat :=
  ((List.range 8).filter (fun p => st.clean p l)).foldl (fun (best : Option Nat) p =>
    let score (q : Nat) : Nat := b2n (decide (0 < q) && st.clean (q - 1) l) + b2n (decide (q < 7) && st.clean (q + 1) l)
    match best with
    | none => some p
    | some b => if score b < score p then some p else some b) none

/-- Step 4 of Table 9-6: a preset per lane, LMASK, BAD, and LMASK and MODE written to the driver. -/
def State.trainMap (s : State) (n : Nat) : State :=
  let st := s.stn n
  let excl := s.get (Reg.STN_LINK_CTL_EXCL n)
  let ls := (List.range 8).filter (fun l => !bit excl l)
  let good := ls.filter (fun l => (st.presetOf l).isSome)
  let mask := (good.map (2 ^ ·)).sum
  let bad := ((ls.filter (fun l => (st.presetOf l).isNone)).map (2 ^ ·)).sum
  let pre := (List.range 8).foldl (fun acc l => acc + (if good.contains l then (st.presetOf l).getD 0 else 0) * 8 ^ l) 0
  let s1 := ((s.put (Reg.STN_LINK_PRE0_PRE n) (pre % 2 ^ 18)).put (Reg.STN_LINK_PRE1_PRE n) (pre / 2 ^ 18)).put (Reg.STN_LINK_INFO_BAD n) bad
  if mask = 0 then s1.trainFail n
  else
    let s2 := ((s1.setLanes n mask).put (Reg.STN_LINK_STAT_STATE n) linkMap).setStn n { s1.stn n with trainStep := some 12 }
    (s2.writeDriver (Fin.ofNat 8 n) 0x10#7 mask).writeDriver (Fin.ofNat 8 n) 0x12#7 0

/-- The PRBS31 error counts of the driver, which each preset's step reads. -/
def prbsRegs : List (BitVec 7) := [0x18#7, 0x19#7, 0x1A#7, 0x1B#7, 0x1C#7, 0x1D#7, 0x1E#7, 0x1F#7]

/-- A training step ends with the driver's replies (Table 9-6). Steps are numbered 1 and 2 as there, 3 + p for preset p, then
11 (mapping), 12 (IDLE with AMs) and 13 (the read of ALIGNED). -/
def State.trainStepDone (s : State) (n : Nat) (reply : List (BitVec 16)) : State :=
  let st := s.stn n
  match st.trainStep with
  | none => s
  | some 1 =>
    let id := (reply.getD 0 0#16).toNat
    let fifo := (reply.getD 1 0#16).toNat
    let s1 := s.put (Reg.STN_LINK_INFO_FIFO n) (min 255 fifo)
    if id = 0 ∨ id = 0xFFFF ∨ fifo < 32 then s1.trainFail n
    else (s1.setStn n { st with trainStep := some 2 }).writeDriver (Fin.ofNat 8 n) 0x12#7 1
  | some 2 => (s.setStn n { st with trainStep := some 3 }).readDriver (Fin.ofNat 8 n) prbsRegs
  | some 11 => s.trainMap n
  | some 12 =>
    ((s.put (Reg.STN_LINK_STAT_STATE n) linkAlign).setStn n { st with trainStep := some 13, periods := 0 }).readDriver
      (Fin.ofNat 8 n) [0x11#7]
  | some 13 =>
    let a := (reply.getD 0 0#16).toNat
    if a % 256 = s.get (Reg.STN_LINK_STAT_LMASK n) ∧ bit a 15 then
      let s1 := (s.put (Reg.STN_LINK_STAT_STATE n) linkUpSt).setStn n { st with trainStep := none, eye := st.eye.map (fun _ => true) }
      (s1.stnLEvent n Reg.STN_LEVENT_TRAIN_DONE).laneRule n
    else s.trainFail n
  | some k =>
    let clean := (((List.range 8).filter (fun l => decide (reply.getD l 0xFFFF#16 = 0#16))).map (2 ^ ·)).sum
    let s1 := s.setStn n { st with trainStep := some (k + 1), prbs := Map.set (fun _ => 0) st.prbs (k - 3) clean }
    if k < 10 then s1.readDriver (Fin.ofNat 8 n) prbsRegs else s1

/-! Lane loss (R259) -/

/-- The latest AM period, counted since training, whose AMC is c. -/
def Stn.periodOf (st : Stn) (c : Nat) : Int := (st.periods : Int) - (((st.periods + 32 - c % 32) % 32 : Nat) : Int)

/-- A facet is treated as LATE (R262): its sheets are spoiled with cause LINK. -/
def State.lateFacets (s : State) (n : Nat) (p : Past → Bool) : State :=
  let recs := (((s.stn n).history.filter p).flatMap (·.recs)).dedup
  s.stnSpoil n recs 8

/-- LATES counts, saturating. -/
def State.bumpLates (s : State) (n : Nat) : State := s.bump (Reg.STN_LINK_CNT_LATES n)

/-- The last AM period that a facet's stream may lie in: the running one while it is in progress. -/
def Stn.lastOf (st : Stn) (f : Past) : Nat :=
  match st.facet with
  | some g => if g.fseq = f.fseq then st.periods else f.last
  | none => f.last

/-- A LANE report that names lane l and the last complete period c (R259). The station holds the last four periods up to the
running one; the span from c + 1 to the last period before them is unheld, and empty where c + 1 is held. After an ABORT there is no stream to resend (R265). -/
def State.laneReport (s : State) (n l c : Nat) : State :=
  let s1 := s.stnLEvent n Reg.STN_LEVENT_LANE_DOWN
  let st := s1.stn n
  let inUse := bit (s1.get (Reg.STN_LINK_STAT_LMASK n)) l
  let from_ := st.periodOf (c + 1)
  let held := decide ((st.periods : Int) - from_ ≤ 3)
  let s2 := if inUse then s1.setStn n { st with dropLanes := st.dropLanes ||| 2 ^ l } else s1
  if inUse && st.aborted then s2
  else if inUse && held then
    let p : Nat := from_.toNat
    s2.setStn n { s2.stn n with restart := some (match (s2.stn n).restart with | some q => min q p | none => p) }
  else
    let s3 := s2.bumpLates n
    let cur : Int := st.periods
    (s3.stnLEvent n Reg.STN_LEVENT_LINK_LATE).lateFacets n
      (fun f => decide (from_ ≤ cur - 4 ∧ from_ ≤ (st.lastOf f : Int) ∧ (f.first : Int) ≤ cur - 4))

/-- The next AM boundary (R251, R259): reported lanes leave, the resend starts, DEG_LINK follows. -/
def State.amBoundary (s : State) (n : StnId) : State :=
  let st := s.stn n.val
  let s1 := s.setStn n.val { st with periods := st.periods + 1, dropLanes := 0, restart := none }
  if st.dropLanes = 0 then s1.laneRule n.val
  else
    let mask := s1.get (Reg.STN_LINK_STAT_LMASK n.val) &&& (255 - st.dropLanes % 256)
    let bad := s1.get (Reg.STN_LINK_INFO_BAD n.val) ||| st.dropLanes
    let s2 := (s1.setLanes n.val mask).put (Reg.STN_LINK_INFO_BAD n.val) bad
    if mask = 0 then
      let s3 := (s2.put (Reg.STN_LINK_STAT_STATE n.val) linkDownSt).raiseDegLink n.val
      (s3.blankOutput n.val).spoilProgress n.val 8
    else
      let s3 := s2.laneRule n.val
      match st.restart with
      | some p =>
        ((s3.emit (.control n 3 (p % 32))).bump (Reg.STN_LINK_CNT_RESENDS n.val)).stnLEvent n.val Reg.STN_LEVENT_RESEND
      | none => s3

/-! Driver reports (R262, R263) -/

/-- TYPE of a report. -/
def rptTemp : Nat := 1
def rptDead : Nat := 2
def rptLane : Nat := 3
def rptLate : Nat := 4
def rptFault : Nat := 5

/-- The station's sideband is in REPORT: in RUN or DRAIN while armed (R69). -/
def State.inReport (s : State) (n : Nat) : Bool := s.serving && s.stnArmed n

/-- A discarded frame (R262). -/
def State.sbError (s : State) (n : Nat) : State :=
  (s.setStn n { s.stn n with lastRpt := none }).stnLEvent n Reg.STN_LEVENT_SB_ERR

/-- A valid report is shown in STN_SB_RPT; `twice` tells a report the driver sends in two frames. The second copy of one, the
next frame with the same TYPE and ARG, is ignored: none. -/
def State.report (s : State) (n typ arg cnt : Nat) (twice : Bool) : Option State :=
  let st := s.stn n
  let s1 := (s.put (Reg.STN_SB_RPT_TYPE n) typ).put (Reg.STN_SB_RPT_ARG n) arg
  if twice ∧ st.lastRpt = some (typ, arg, (cnt + 3) % 4) then none
  else some (s1.setStn n { s1.stn n with lastRpt := if twice then some (typ, arg, cnt) else none })

/-- After the second copy of a report has been ignored, a further identical frame is a report of its own. -/
def State.dropCopy (s : State) (n : Nat) : State := s.setStn n { s.stn n with lastRpt := none }

/-- A TEMP report (R235, R263). -/
def State.tempReport (s : State) (n level : Nat) : State :=
  let old := s.get (Reg.STN_TEMP_LEVEL n)
  let s1 := (s.put (Reg.STN_TEMP_LEVEL n) level).setStn n { s.stn n with sbLost := false }
  let s2 := if level = old then s1
    else if level = 1 then s1.stnEvent n Reg.STN_EVENT_WARN
    else if level = 2 then s1.stnEvent n Reg.STN_EVENT_LIMIT
    else if level = 3 then s1.stnEvent n Reg.STN_EVENT_CUTOFF
    else s1
  if level = 3 then (if (s2.stn n).cutoff then s2 else s2.cutoffStart n)
  else s2.setStn n { s2.stn n with cutoff := false }

/-- A DEAD report, or Sweeper's test, marks an emitter dead (R226). -/
def State.markDead (s : State) (n k : Nat) : State :=
  let f := (Reg.STN_DEAD_DEAD n (k / 18)).at (k % 18)
  if s.flag f then s else (s.put f 1).stnEvent n Reg.STN_EVENT_DEAD

/-- No valid frame for 1 ms in REPORT (R263). -/
def State.sidebandLost (s : State) (n : Nat) : State :=
  let s1 := s.stnLEvent n Reg.STN_LEVENT_SB_LOST
  let s2 := s1.setStn n { s1.stn n with sbLost := true }
  if (s2.stn n).cutoff then s2 else s2.cutoffStart n

/-! SET-UP accesses (R261) -/

/-- The sideband serves SET-UP accesses of hosts: in RUN or DRAIN, the station enabled, not armed and not training. -/
def State.setupOk (s : State) (n : Nat) (addr : Nat) : Bool :=
  s.serving && s.stnEnabled n && !s.stnArmed n && (s.stn n).trainStep.isNone && !decide (0x10 ≤ addr ∧ addr ≤ 0x14)

/-- A frame of Sweeper is in progress on the sideband (R354). -/
def Stn.swpFrame (st : Stn) : Bool :=
  match st.probe with
  | some p => decide (p.2 ≠ .waiting)
  | none => false

/-- GO in STN_SB_CMD. The access waits for a frame of Sweeper to end (R354). -/
def State.setupGo (s : State) (n : StnId) : State :=
  if s.flag (Reg.STN_SB_STAT_BUSY n.val) then s
  else
    let addr := s.get (Reg.STN_SB_CMD_ADDR n.val)
    if s.setupOk n.val addr then
      let wr := s.flag (Reg.STN_SB_CMD_WR n.val)
      let a : BitVec 7 := BitVec.ofNat 7 addr
      let d : BitVec 16 := BitVec.ofNat 16 (s.get (Reg.STN_SB_DATA_DATA n.val))
      let s1 := (s.put (Reg.STN_SB_STAT_BUSY n.val) 1).setStn n.val
        { s.stn n.val with frame := some (wr, a, d, 3), goWaits := (s.stn n.val).swpFrame }
      if (s.stn n.val).swpFrame then s1 else s1.emit (.setupFrame n wr a d)
    else s.put (Reg.STN_SB_STAT_RESULT n.val) 3

/-- A SET-UP access ends. -/
def State.setupEnd (s : State) (n result : Nat) : State :=
  let s1 := (s.put (Reg.STN_SB_STAT_BUSY n) 0).put (Reg.STN_SB_STAT_RESULT n) result
  (s1.setStn n { s1.stn n with frame := none, goWaits := false }).stnLEvent n Reg.STN_LEVENT_SB_DONE

/-- A SET-UP frame ends: a refused write or a read with a parity error is retried up to three times (R261). -/
def State.setupFrameDone (s : State) (n : StnId) (ack parityOk : Bool) (data : BitVec 16) : State :=
  match (s.stn n.val).frame with
  | none => s
  | some (wr, a, d, tries) =>
    if (s.stn n.val).goWaits then s
    else if (if wr then ack else parityOk) then
      (if wr then s else s.put (Reg.STN_SB_DATA_DATA n.val) data.toNat).setupEnd n.val 0
    else
      match tries with
      | 0 => s.setupEnd n.val (if wr then 1 else 2)
      | k + 1 => (s.setStn n.val { s.stn n.val with frame := some (wr, a, d, k) }).emit (.setupFrame n wr a d)

/-- Sweeper's test of an emitter is given up (R354). -/
def State.dropProbe (s : State) (n : Nat) : State :=
  if (s.stn n).probe.isNone then s else s.setStn n { s.stn n with probe := none }

/-- The host access that waited for Sweeper's frame starts; on a station armed meanwhile it is refused (R261, R354). -/
def State.goNext (s : State) (n : StnId) : State :=
  let st := s.stn n.val
  if !st.goWaits then s
  else if s.stnArmed n.val then s.setupEnd n.val 3
  else match st.frame with
    | some (wr, a, d, _) => (s.setStn n.val { st with goWaits := false }).emit (.setupFrame n wr a d)
    | none => s.setStn n.val { st with goWaits := false }

/-- A frame of Sweeper has ended: an ARM that waited for it ends the test and arms the station, then a waiting access goes on (R354). -/
def State.swpFrameEnd (s : State) (n : StnId) : State :=
  let st := s.stn n.val
  match st.armWaits with
  | some x => ((s.setStn n.val { st with probe := none, armWaits := none }).arm x n.val).goNext n
  | none => s.goNext n

/-! Web encoders (R248, R249) -/

def State.enc (s : State) (e : Nat) : Encoder := Map.get (fun _ => {}) s.encs e
def State.setEnc (s : State) (e : Nat) (v : Encoder) : State := { s with encs := Map.set (fun _ => {}) s.encs e v }

/-- Table 9-3: +1, -1 or 0 with no change; none for both channels at once. -/
def quadStep (a b : BitVec 2) : Option Int :=
  let ix (x : BitVec 2) : Nat := match x.toNat with | 0 => 0 | 1 => 1 | 3 => 2 | _ => 3
  match (ix b + 4 - ix a) % 4 with
  | 0 => some 0
  | 1 => some 1
  | 3 => some (-1)
  | _ => none

/-- The encoder that station n selects. -/
def State.encSel (s : State) (n : Nat) : Nat := s.get (Reg.STN_ENC_SEL n)

/-- The stations that select an encoder. -/
def State.encUsers (s : State) (e : Nat) : List Nat :=
  (List.range 8).filter (fun n => s.stnEnabled n && decide (s.encSel n = e))

/-- A count change as an armed station follows it (R249): the high water, or REVERSE. -/
def State.follow1 (s : State) (n : Nat) (d : Int) : State :=
  if s.flag (Reg.STN_STATUS_ARMED n) then
    let st := s.stn n
    let dc := wrap48 (st.dc + (if s.flag (Reg.STN_ENC_DIR n) then -d else d))
    if st.hw < dc then s.setStn n { st with dc := dc, hw := dc, reversed := false }
    else if dc = st.hw then s.setStn n { st with dc := dc, reversed := false }
    else if dc < st.hw - 3 ∧ !st.reversed then
      let s1 := s.setStn n { st with dc := dc, reversed := true }
      ((s1.stnLEvent n Reg.STN_LEVENT_REV).bump (Reg.STN_ENC_STAT_REVS n)).spoilProgress n 4
    else s.setStn n { st with dc := dc }
  else s

/-- A filtered level change of an encoder's pair of channels (R248). -/
def State.encChange (s : State) (e : Nat) (ba : BitVec 2) (close : Bool) : State :=
  let v := s.enc e
  let s1 := s.setEnc e { v with ba := ba }
  if !s.serving || v.los then s1
  else
    match quadStep v.ba ba with
    | none =>
      (s1.encUsers e).foldl (fun t n => t.stnLEvent n Reg.STN_LEVENT_ENC_ERR) (s1.setEnc e { s1.enc e with errs := v.errs + 1 })
    | some d =>
      if d = 0 then s1
      else
        let s2 := s1.setEnc e { v with ba := ba, count := v.count + BitVec.ofInt 32 d }
        let s3 := if close then
            (s2.encUsers e).foldl (fun t n => (t.put (Reg.STN_ENC_STAT_OVERSPEED n) 1).stnLEvent n Reg.STN_LEVENT_ENC_ERR) s2
          else s2
        (s3.encUsers e).foldl (fun t n => t.follow1 n d) s3

/-- The selected input goes LOS (R248). -/
def State.encLost (s : State) (e : Nat) : State :=
  if !s.serving || (s.enc e).los then s
  else
    let s1 := s.setEnc e { s.enc e with los := true }
    (s1.encUsers e).foldl (fun t n => t.stnLEvent n Reg.STN_LEVENT_ENC_LOS) s1

/-- STN_ENC_LO (R266): the count in binary; the read latches CNT_HI. -/
def State.encLatch (s : State) (n : Nat) : State × Word :=
  let c := (s.enc (s.encSel n)).count.toNat
  (s.put (Reg.STN_ENC_HI_CNT_HI n) (c / 2 ^ 18), BitVec.ofNat 18 c)

end Sys2Proof.Machine
end

