-- ==== Sys2Proof/Machine/DescOps.lean ====
section
/-! DEFINITION. Descriptors (spec/07): the checks at fetch, the movement of data, the order within an SQ, what a stop leaves,
and the effect of each opcode. -/

namespace Sys2Proof
open Sys2Proof.Machine

/-- Slots that the opcode does not use are 0 (R192). -/
def Desc.only (d : Desc) (haddr a0 a1 len d0 d1 : Bool) : Bool :=
  decide (d.rsv = 0#164) && (haddr || decide (d.haddr = 0#64)) && (a0 || decide (d.a0 = 0#32)) && (a1 || decide (d.a1 = 0#32)) &&
  (len || decide (d.len = 0#32)) && (d0 || decide (d.d0 = 0#64)) && (d1 || decide (d.d1 = 0#64))

/-- The calendar in D0 of RTC_SET (Table 7-6). -/
def Desc.calendar (d : Desc) : Calendar :=
  let v := d.d0.toNat
  { subsec := bits v 9 0, sec := bits v 15 10, min := bits v 21 16, hour := bits v 26 22, wday := bits v 29 27, day := bits v 34 30,
    month := bits v 38 35, year := bits v 46 39 }

/-- LEN as a count of bytes, and the device range of a byte opcode. -/
def Desc.n (d : Desc) : Nat := d.len.toNat
def Desc.a (d : Desc) : Nat := d.a0.toNat
def Desc.b (d : Desc) : Nat := d.a1.toNat

/-- LEN 4k within a limit, at a host address that is a multiple of 4. -/
def Desc.slots4 (d : Desc) (limit : Nat) : Bool := decide (4 ≤ d.n ∧ d.n % 4 = 0 ∧ d.n ≤ limit ∧ d.haddr.toNat % 4 = 0)

/-- PAGE_A of a record opcode. -/
def Desc.pageA (d : Desc) : Nat := bits d.p0.toNat 8 0

end Sys2Proof

namespace Sys2Proof.Machine
open Sys2Proof

/-! Checks at fetch (R196, R197) -/

/-- The bits of P0 that an opcode assigns (Table 7-3). -/
def p0Bits (op : Opcode) : BitVec 32 :=
  match op with
  | .nop => 0xFFFFFFFF#32
  | .fill => 0x1#32
  | .move => 0x3F3F#32
  | .rasterPost => 0xFFFF000F#32
  | .tableLoad => 0x0F07#32
  | .tableSwap => 0x1F07#32
  | .ledgerOpen => 0xFF#32
  | .ledgerStage => 0xFF3F#32
  | .ledgerQuery => 0x3#32
  | .counterRead => 0x10F#32
  | .recordPut => 0x1FF#32
  | .recordGet => 0x1FF#32
  | .rtcRead => 0x1#32
  | .abort => 0xFFFF0003#32
  | _ => 0#32

/-- The slots an opcode uses (Table 7-2). -/
def slotsOk (op : Opcode) (d : Desc) : Bool :=
  decide (d.p0 &&& ~~~(p0Bits op) = 0#32) &&
  match op with
  | .nop => Desc.only d false false false false false false
  | .write => Desc.only d true true false true false false
  | .read => Desc.only d true true false true false false
  | .copy => Desc.only d false true true true false false
  | .fill => Desc.only d false true false true true false
  | .move => Desc.only d false false false false false false
  | .word18Write => Desc.only d true true false true false false
  | .word18Read => Desc.only d true true false true false false
  | .rasterPost => Desc.only d true true false true true false
  | .tableLoad => Desc.only d true true false true false false
  | .tableSwap => Desc.only d false false false false false false
  | .ledgerOpen => Desc.only d false false false false true true
  | .ledgerStage => Desc.only d false false false false true false
  | .ledgerQuery => Desc.only d true true false true true false
  | .counterRead => Desc.only d true false false true false false
  | .keepRead => Desc.only d true true false true false false
  | .keepWrite => Desc.only d true true false true false false
  | .recordPut => Desc.only d true false false true false false
  | .recordGet => Desc.only d true false false true false false
  | .rtcRead => Desc.only d false false false false false false
  | .rtcSet => Desc.only d false false false false true false
  | .checkpoint => Desc.only d false false false false false false
  | .abort => Desc.only d false false false false false false
  | .bad => true

/-- A byte range of the array (Table 7-4). -/
def byteRange (a n : Nat) : Bool := decide (1 ≤ n ∧ n ≤ 0x4000000 ∧ a + n ≤ 0x80000000)

/-- A stage code of Table 10-3 with the mask it takes. -/
def stageCodeOk (code mask : Nat) : Bool :=
  if code = 3 then decide (mask ≠ 0)
  else decide (mask = 0 ∧ (code = 4 ∨ code = 5 ∨ code = 6 ∨ code = 0x20 ∨ code = 0x10))

/-- The limits of Tables 7-3 and 7-4 and of R9, R76, R124 and R270 that R196 checks at step 2. -/
def State.limitsOk (s : State) (op : Opcode) (d : Desc) : Bool :=
  match op with
  | .write => byteRange (Desc.a d) (Desc.n d)
  | .read => byteRange (Desc.a d) (Desc.n d)
  | .copy => byteRange (Desc.a d) (Desc.n d) && byteRange (Desc.b d) (Desc.n d) &&
      decide (Desc.a d + Desc.n d ≤ Desc.b d ∨ Desc.b d + Desc.n d ≤ Desc.a d)
  | .fill => byteRange (Desc.a d) (Desc.n d) && (!bit d.p0.toNat 0 || decide (d.d0 = 0#64 ∧ Desc.a d % 8 = 0 ∧ Desc.n d % 8 = 0))
  | .move => decide (bits d.p0.toNat 13 8 ≤ 62 ∧ bits d.p0.toNat 5 0 ≤ 62 ∧ bits d.p0.toNat 13 8 ≠ bits d.p0.toNat 5 0)
  | .word18Write => Desc.slots4 d 0x4000000 && decide (Desc.a d < 2 ^ 30 ∧ Desc.a d + Desc.n d / 4 ≤ 2 ^ 30)
  | .word18Read => Desc.slots4 d 0x4000000 && decide (Desc.a d < 2 ^ 30 ∧ Desc.a d + Desc.n d / 4 ≤ 2 ^ 30)
  | .rasterPost => s.stnEnabled d.stn && decide (1 ≤ d.lines ∧ d.haddr.toNat % 8 = 0 ∧ Desc.n d = d.lines * s.lineBytes d.stn ∧
      2 * d.lines ≤ s.ringSize d.stn ∧ d.d0.toNat < 2 ^ 54)
  | .tableLoad => s.stnEnabled d.stn && decide (d.tbl ≤ 4) && Desc.slots4 d (4 * tableWords d.tbl) &&
      decide (Desc.a d + Desc.n d / 4 ≤ tableWords d.tbl)
  | .tableSwap => s.stnEnabled d.stn && decide (d.mask ≠ 0)
  | .ledgerOpen => decide (d.d0.toNat < 2 ^ 54 ∧ d.d1.toNat < 2 ^ 36 ∧ d.d0 ≠ 0#64 ∧ bits d.p0.toNat 7 0 ≠ 0) &&
      (List.range 8).all (fun n => !bit d.p0.toNat n || s.stnEnabled n)
  | .ledgerStage => decide (d.d0.toNat < 2 ^ 54) && stageCodeOk (bits d.p0.toNat 5 0) (bits d.p0.toNat 15 8) &&
      (List.range 8).all (fun n => !bit (bits d.p0.toNat 15 8) n || s.stnEnabled n)
  | .ledgerQuery =>
    decide (d.d0.toNat < 2 ^ 54) && (if bit d.p0.toNat 0 then decide (Desc.a d < 1048576) else decide (Desc.a d = 0)) &&
      (decide (d.haddr = 0#64 ∧ d.len = 0#32) ||
        decide (d.haddr.toNat % 4 = 0 ∧ Desc.n d = (if bit d.p0.toNat 1 then 24 else 32)))
  | .counterRead =>
    if bit d.p0.toNat 8 then decide (bits d.p0.toNat 3 0 = 0 ∧ d.haddr.toNat % 8 = 0 ∧ Desc.n d = 128)
    else decide (d.haddr = 0#64 ∧ d.len = 0#32)
  | .keepRead => Desc.slots4 d 131072 && decide (Desc.a d + Desc.n d / 4 ≤ 32768)
  | .keepWrite => Desc.slots4 d 256 && decide (Desc.a d + Desc.n d / 4 ≤ 32768 ∧ Desc.a d / 64 = (Desc.a d + Desc.n d / 4 - 1) / 64)
  | .recordPut => Desc.slots4 d 244 && decide (bits d.p0.toNat 8 0 % 2 = 0 ∧ 64 ≤ bits d.p0.toNat 8 0)
  | .recordGet => Desc.slots4 d 244 && decide (bits d.p0.toNat 8 0 % 2 = 0 ∧ 64 ≤ bits d.p0.toNat 8 0)
  | .rtcSet => decide (d.d0.toNat < 2 ^ 47) && (Desc.calendar d).valid
  | .checkpoint => decide (s.get36 Reg.VOL_NEXT_LO Reg.VOL_NEXT_HI < 0xFFFFFF000)
  | _ => true

/-- The host range of R196, step 3: none is used, or it lies in the issuing host's windows (R171). -/
def State.windowOk (s : State) (h : PHost) (op : Opcode) (d : Desc) : Bool :=
  let rd := s.hostRangeOk h.val d.haddr.toNat (Desc.n d) false
  let wr := s.hostRangeOk h.val d.haddr.toNat (Desc.n d) true
  match op with
  | .write => rd
  | .read => wr
  | .word18Write => rd
  | .word18Read => wr
  | .rasterPost => rd
  | .tableLoad => rd
  | .ledgerQuery => decide (d.len = 0#32) || wr
  | .counterRead => decide (d.len = 0#32) || wr
  | .keepRead => wr
  | .keepWrite => rd
  | .recordPut => rd
  | .recordGet => wr
  | _ => true

/-- A free ARR_MOVE entry. -/
def State.freeMove (s : State) : Option Nat := (List.range 8).find? (fun n => decide (s.get (Reg.ARR_MOVE_PHASE n) = 0))

/-- The checks of a MOVE (R87, R101, Table 3-8). A source that another MOVE is copying, and one in state FORWARD, fail BAD_RANGE (log
entry 98, DESIGN CHOICE). -/
def State.moveCheck (s : State) (h : PHost) (d : Desc) : Option Byte :=
  let src := bits d.p0.toNat 5 0
  let dst := bits d.p0.toNat 13 8
  let st := s.rstate src
  if st = RState.available ∨ st = RState.moveDest ∨ st = RState.forward ∨ s.rstate dst ≠ RState.available ∨ s.freeMove.isNone
      ∨ s.moving src then some Status.badRange
  else match s.partOf src with
    | some p => if s.ownerOf p ≠ h.val + 1 then some Status.denied else none
    | none => some Status.regionRetired

/-- The device ranges of R196, step 4 (R87). -/
def State.rangesFail (s : State) (h : PHost) (op : Opcode) (d : Desc) : Option Byte :=
  let x := h.val + 1
  let a := Desc.a d
  let n := Desc.n d
  match op with
  | .write => s.rangeCheck x a (a + n - 1) true false
  | .read => s.rangeCheck x a (a + n - 1) false false
  | .copy => worstStatus (s.rangeFails x a (a + n - 1) false false ++ s.rangeFails x (Desc.b d) (Desc.b d + n - 1) true false)
  | .fill => s.rangeCheck x a (a + n - 1) true false
  | .word18Write => s.rangeCheck x (2 * a) (2 * (a + n / 4) - 1) true true
  | .word18Read => s.rangeCheck x (2 * a) (2 * (a + n / 4) - 1) false true
  | .move => s.moveCheck h d
  | _ => none

/-- The status of a Keep refusal. -/
def KeepRefusal.status : KeepRefusal → Byte
  | .guarded => Status.guarded
  | .denied => Status.denied

/-- The opcode-specific refusals of R196, step 5. -/
def State.refusal (s : State) (h : PHost) (op : Opcode) (d : Desc) : Option Byte :=
  let x := hostSender h
  match op with
  | .tableLoad => if s.stnOwner d.stn ≠ some h then some Status.denied else none
  | .tableSwap => if s.stnOwner d.stn ≠ some h then some Status.denied else none
  | .keepWrite => (s.keepCheck x ((List.range (Desc.n d / 4)).map (Desc.a d + ·))).map KeepRefusal.status
  | .recordPut => (s.keepCheck x [64 * bits d.p0.toNat 8 0, 64 * bits d.p0.toNat 8 0 + 127]).map KeepRefusal.status
  | .rtcSet => if hasRight x (s.get Reg.RTC_CTL_RIGHTS) then none else some Status.denied
  | .checkpoint =>
    if (List.range 63).any (fun p => s.flag (Reg.PART_ATTR_VALID p) && s.persistent p && decide (s.ownerOf p = h.val + 1)) then none
    else some Status.denied
  | _ => none

/-- The first status of R196 that applies at fetch. -/
def State.descCheck (s : State) (h : PHost) (op : Opcode) (d : Desc) : Option Byte :=
  if op = .bad then some Status.badOpcode
  else if !(slotsOk op d && s.limitsOk op d) then some Status.badRange
  else if !s.windowOk h op d then some Status.hostWindow
  else match s.rangesFail h op d with
    | some e => some e
    | none => s.refusal h op d

/-! Order within an SQ (R179) -/

/-- Codewords an uncommitted descriptor still reads or writes: first, last, write. -/
def State.cwRanges (s : State) (f : Flight) : List (Nat × Nat × Bool) :=
  let a := Desc.a f.d
  let n := Desc.n f.d
  match f.op with
  | .write => [(a / 8, (a + n - 1) / 8, true)]
  | .read => [(a / 8, (a + n - 1) / 8, false)]
  | .copy => [(a / 8, (a + n - 1) / 8, false), (Desc.b f.d / 8, (Desc.b f.d + n - 1) / 8, true)]
  | .fill => [(a / 8, (a + n - 1) / 8, true)]
  | .word18Write => [(a / 4, (a + n / 4 - 1) / 4, true)]
  | .word18Read => [(a / 4, (a + n / 4 - 1) / 4, false)]
  | .rasterPost => [(s.ringBase f.d.stn / 8, (s.ringEnd f.d.stn - 1) / 8, true)]
  | _ => []

/-- Kinds of device state that descriptors share beside the array and the Keep: 1 the ledger, 2 its counters; written, read. -/
def opWrites : Opcode → List Nat
  | .ledgerOpen => [1]
  | .ledgerStage => [1, 2]
  | .rasterPost => [1]
  | _ => []

def opReads : Opcode → List Nat
  | .ledgerOpen => [1]
  | .ledgerStage => [1]
  | .ledgerQuery => [1]
  | .rasterPost => [1]
  | .counterRead => [2]
  | _ => []

/-- The Keep words that a descriptor reads or writes: first, last, write. -/
def keepRange (f : Flight) : Option (Nat × Nat × Bool) :=
  match f.op with
  | .keepRead => some (Desc.a f.d, Desc.a f.d + Desc.n f.d / 4 - 1, false)
  | .keepWrite => some (Desc.a f.d, Desc.a f.d + Desc.n f.d / 4 - 1, true)
  | .recordPut => some (64 * Desc.pageA f.d, 64 * Desc.pageA f.d + 127, true)
  | .recordGet => some (64 * Desc.pageA f.d, 64 * Desc.pageA f.d + 127, false)
  | _ => none

/-- Two ranges share an item, and one of them writes it. -/
def meets (x y : Nat × Nat × Bool) : Bool := (x.2.2 || y.2.2) && decide (x.1 ≤ y.2.1 ∧ y.1 ≤ x.2.1)

/-- Two descriptors of one SQ must keep their order: they share codewords, Keep words (R300) or other device state, and one writes
there. Two RASTER_POSTs fill different lines of a ring, and each waits under R212 alone. -/
def State.conflict (s : State) (e f : Flight) : Bool :=
  !decide (e.op = .rasterPost ∧ f.op = .rasterPost) && ((s.cwRanges e).any (fun x => (s.cwRanges f).any (meets x)) ||
  (keepRange e).any (fun x => (keepRange f).any (meets x)) ||
  (opWrites e.op).any (fun k => (opReads f.op).contains k || (opWrites f.op).contains k) ||
  (opReads e.op).any (fun k => (opWrites f.op).contains k))

/-- An earlier descriptor of the flight's SQ that has not committed must take effect first (R179). -/
def State.blocked (s : State) (i : Nat) (f : Flight) : Bool :=
  (s.flights.take i).any (fun e => decide (e.host = f.host ∧ e.sq = f.sq) && e.compl.isNone && !e.committed && s.conflict e f)

/-! Data movement -/

/-- Some region of a byte range holds the access back (R95, R125). -/
def State.rangeWaits (s : State) (first n : Nat) (write : Bool) : Bool :=
  decide (0 < n) && (regionsOfRange first (first + n - 1)).any (s.waits · write)

/-- A flight's corrections so far. -/
def Flight.met (f : Flight) : Met := ⟨f.corrected, f.uncorr⟩
def Flight.note (f : Flight) (m : Met) : Flight := { f with corrected := m.corrected, uncorr := m.uncorr }

/-- Status and AUX of a transfer that completed its operation (R202, R205). -/
def Met.compl (m : Met) (n : Nat) : Compl :=
  match m.uncorr with
  | some cw => { status := Status.uncorrectable, result := BitVec.ofNat 64 n, aux := BitVec.ofNat 32 (8 * cw) }
  | none => { status := if m.corrected then Status.doneCorrected else Status.done, result := BitVec.ofNat 64 n }

/-- Hold a flight until its region is free. -/
def State.holdFlight (s : State) (i : Nat) (f : Flight) : State := s.setFlight i { f with stage := .held }

/-- After data has been placed: the descriptor ends with the status that stopped it, completes, or waits for more data. -/
def State.placed (s : State) (i : Nat) (f : Flight) : State :=
  match f.ending with
  | some e => s.fixFlight i { status := e, result := BitVec.ofNat 64 f.moved }
  | none =>
    if f.moved = Desc.n f.d then (s.setFlight i f).fixFlight i (f.met.compl f.moved)
    else s.setFlight i { f with stage := .data }

/-- Place the received data of a WRITE: whole codewords, and its last bytes (R82, R180). -/
def State.placeWrite (s : State) (i : Nat) (f : Flight) : State :=
  let addr := Desc.a f.d + f.moved
  let k := if f.flush ∨ f.moved + f.buf.length = Desc.n f.d then f.buf.length else (addr + f.buf.length) / 8 * 8 - addr
  if s.blocked i f || s.rangeWaits addr (k + f.bad.length) true then s.holdFlight i f
  else
    let r := s.writeBytes addr (f.buf.take k) false f.met
    let q := r.1.writeBytes (addr + k) f.bad true r.2
    q.1.placed i (({ f with moved := f.moved + k + f.bad.length, buf := f.buf.drop k, bad := [] } : Flight).note q.2)

/-- The 18-bit words in 32-bit slots of host memory. -/
def slotWords : List Byte → List Word
  | a :: b :: c :: _ :: r => BitVec.ofNat 18 (a.toNat + 256 * b.toNat + 65536 * c.toNat) :: slotWords r
  | _ => []

/-- Host bytes of words in 32-bit slots. -/
def wordSlots (ws : List Word) : List Byte := ws.flatMap (fun (w : Word) => leBytes w.toNat 4)

/-- Place the received data of a WORD18 WRITE. -/
def State.placeW18 (s : State) (i : Nat) (f : Flight) : State :=
  let w := Desc.a f.d + f.moved / 4
  let m := f.buf.length / 4
  let k := if f.flush ∨ f.moved + 4 * m = Desc.n f.d then m else (w + m) / 4 * 4 - w
  if s.blocked i f || s.rangeWaits (2 * w) (2 * k) true then s.holdFlight i f
  else
    let r := s.writeW18s (k + 1) w ((slotWords f.buf).take k) f.met
    r.1.placed i (({ f with moved := f.moved + 4 * k, buf := f.buf.drop (4 * k) } : Flight).note r.2)

/-- Write data into host memory. -/
def State.toHost (s : State) (h : PHost) (addr : Nat) (bs : List Byte) : State :=
  if bs.isEmpty then s else (s.leaveL1 h).emit (.hostWrite h addr bs)

/-- READ (R82). -/
def State.doRead (s : State) (i : Nat) (f : Flight) : State :=
  if s.blocked i f || s.rangeWaits (Desc.a f.d) (Desc.n f.d) false || !s.linkOpen f.host then s.holdFlight i f
  else
    let r := s.readBytes (Desc.a f.d) (Desc.n f.d) f.met
    (r.1.toHost f.host f.d.haddr.toNat r.2.1).fixFlight i (r.2.2.compl (Desc.n f.d))

/-- WORD18 READ (R83). -/
def State.doReadW18 (s : State) (i : Nat) (f : Flight) : State :=
  if s.blocked i f || s.rangeWaits (2 * Desc.a f.d) (Desc.n f.d / 2) false || !s.linkOpen f.host then s.holdFlight i f
  else
    let r := s.readW18s (Desc.n f.d / 4) (Desc.a f.d) f.met
    (r.1.toHost f.host f.d.haddr.toNat (wordSlots r.2.1)).fixFlight i (r.2.2.compl (Desc.n f.d))

/-- COPY (R82, Table 7-7): the errors of the source travel with the data. -/
def State.doCopy (s : State) (i : Nat) (f : Flight) : State :=
  let n := Desc.n f.d
  if s.blocked i f || s.rangeWaits (Desc.a f.d) n false || s.rangeWaits (Desc.b f.d) n true then s.holdFlight i f
  else
    let r := s.readMarked (Desc.a f.d) n f.met
    let q := r.1.writeBytes (Desc.b f.d) (r.2.1.map (·.1)) false r.2.2
    (q.1.poisonBytes (Desc.b f.d) (r.2.1.map (·.2))).fixFlight i (q.2.compl n)

/-- FILL (Table 7-3): byte (a mod 8) of D0 at address a, or WIPED in every word. -/
def State.doFill (s : State) (i : Nat) (f : Flight) : State :=
  let n := Desc.n f.d
  let a := Desc.a f.d
  if s.blocked i f || s.rangeWaits a n true then s.holdFlight i f
  else if bit f.d.p0.toNat 0 then (s.wipeCws (n / 8) (a / 8)).fixFlight i (f.met.compl n)
  else
    let r := s.writeBytes a ((List.range n).map (fun k => byteOf f.d.d0.toNat ((a + k) % 8))) false f.met
    r.1.fixFlight i (r.2.compl n)

/-! Tables (R230 to R232) -/

/-- A TABLE_LOAD stopped, or its content was refused: its idle bank is DIRTY (R231). -/
def State.dirtyTable (s : State) (d : Desc) : State :=
  let st := s.stn d.stn
  s.setStn d.stn (st.setTable d.tbl { st.table d.tbl with state := .dirty })

/-- A TABLE_LOAD waits for a copy into its idle bank, or for a swap of its table fetched before it (R231, Table 7-8). -/
def State.loadWaits (s : State) (i : Nat) (f : Flight) : Bool :=
  decide (((s.stn f.d.stn).table f.d.tbl).state = .copying) ||
  (s.flights.take i).any (fun e => decide (e.op = .tableSwap ∧ e.d.stn = f.d.stn) && bit e.d.mask f.d.tbl && e.compl.isNone)

/-- Place the received words of a TABLE_LOAD. Until it completes, IDLE shows the state that stood before it (log entry 115, DESIGN
CHOICE). -/
def State.placeTable (s : State) (i : Nat) (f : Flight) : State :=
  if s.loadWaits i f then s.holdFlight i f
  else
    let n := f.d.stn
    let st := s.stn n
    let t := st.table f.d.tbl
    let ws := slotWords f.buf
    let r := t.load f.d.tbl (Desc.a f.d + f.moved / 4) ws 0
    let g : Flight := { f with moved := f.moved + 4 * r.2.1, buf := f.buf.drop (4 * r.2.1) }
    let s1 := s.setStn n (st.setTable f.d.tbl r.1)
    match r.2.2 with
    | some off =>
      (s1.dirtyTable f.d).fixFlight i { status := Status.badRange, result := BitVec.ofNat 64 g.moved, aux := BitVec.ofNat 32 off }
    | none =>
      match f.ending with
      | some e => (s1.dirtyTable f.d).fixFlight i { status := e, result := BitVec.ofNat 64 g.moved }
      | none =>
        if g.moved = Desc.n f.d then
          let whole := decide (Desc.a f.d = 0 ∧ Desc.n f.d = 4 * tableWords f.d.tbl)
          let st1 := s1.stn n
          let t1 := st1.table f.d.tbl
          let s2 := if whole || decide (t1.state ≠ .dirty) then s1.setStn n (st1.setTable f.d.tbl { t1 with state := .modified }) else s1
          s2.fixFlight i { status := s2.stnStatus n, result := BitVec.ofNat 64 g.moved }
        else s1.setFlight i { g with stage := .data }

/-- TABLE_SWAP's waits have ended (R232): every earlier load of its tables has completed and none of its banks is COPYING. It also waits
for an earlier swap that shares a table with it, of any SQ (log entry 114, DESIGN CHOICE). -/
def State.swapMayCheck (s : State) (i : Nat) (f : Flight) : Bool :=
  !(s.flights.take i).any (fun e => decide (e.op = .tableLoad ∧ e.d.stn = f.d.stn) && bit f.d.mask e.d.tbl && e.compl.isNone) &&
  !(s.flights.take i).any (fun e => decide (e.op = .tableSwap ∧ e.d.stn = f.d.stn ∧ e.d.mask &&& f.d.mask ≠ 0) && e.compl.isNone) &&
  (maskTables f.d.mask).all (fun t => decide (((s.stn f.d.stn).table t).state ≠ .copying))

/-- The check of a TABLE_SWAP at time t in quarter S cycles: refused, ready, or in effect at once (R232). -/
def State.swapCheck (s : State) (i : Nat) (f : Flight) (t : Nat) : State :=
  let n := f.d.stn
  if !(s.stn n).swapOk f.d.mask then (s.fixFlight i { status := Status.badRange }).stnEvent n Reg.STN_EVENT_SWAP_REJ
  else if s.stnArmed n then s.setFlight i { f with stage := .swapReady, ready := t }
  else s.swapNow i f

/-! The ledger opcodes -/

/-- A descriptor that writes the ledger is held by region 63's wave, at its place among the events that the wave holds (R125,
R126). -/
def State.holdLedger (s : State) (i : Nat) (f : Flight) : State :=
  let e := LedEvent.descriptor f.host f.sq f.d.tag
  let s1 := s.holdFlight i f
  if s.led.held.contains e then s1 else { s1 with led := { s1.led with held := s1.led.held ++ [e] } }

/-- LEDGER_OPEN (R270). -/
def State.doOpen (s : State) (i : Nat) (f : Flight) : State :=
  if s.blocked i f then s.holdFlight i f
  else if s.ledHeld then s.holdLedger i f
  else
    match s.openHolder f.d.sheet with
    | some r => s.fixFlight i { status := Status.badRange, aux := BitVec.ofNat 32 r }
    | none =>
      if 65536 ≤ s.openRecords.length then
        (s.fixFlight i { status := Status.badRange, aux := 0xFFFFFFFF#32 }).ledEvent Reg.LED_EVENT_FULL
      else
        match s.freeIndex 1048576 s.ledNext with
        | none => s.fixFlight i { status := Status.badRange, aux := 0xFFFFFFFF#32 }
        | some r =>
          let t := s.stamp
          let s1 := (s.meetRec r).setRecord r
            { sheet := f.d.sheet, job := bits f.d.d1.toNat 35 0, stage := 1, mask := bits f.d.p0.toNat 7 0, cause := 0, time := t }
          let nx := (r + 1) % 1048576
          let s2 := (s1.put Reg.LED_NEXT_LO (nx % 2 ^ 18)).put Reg.LED_NEXT_HI_NEXT_HI (nx / 2 ^ 18)
          let s3 := if nx = 0 then s2.ledEvent Reg.LED_EVENT_WRAP else s2
          s3.fixFlight i { status := Status.done, result := BitVec.ofNat 64 t, aux := BitVec.ofNat 32 r }

/-- RESULT of the stage opcodes: the stage word and its time stamp (Table 7-6). -/
def Rec.result (r : Rec) : BitVec 64 := BitVec.ofNat 64 (r.stageWord + 2 ^ 18 * r.time)

/-- A stamp of LEDGER_STAGE on a record, where Table 10-3 allows it. -/
def State.stageStamp (s : State) (r : Nat) (code mask : Nat) : Option State :=
  let rec_ := s.record r
  let t := s.stamp
  if code = 3 then
    if imagedAllowed rec_ mask ∧ !(List.range 8).any (fun n => bit mask n && s.stnHolds n r) then some (s.stampImaged r mask t) else none
  else if code = 0x20 then (if spoilAllowed rec_ then some (s.stampSpoil r 10 t) else none)
  else if code = 0x10 then (if s.voidAllowed r rec_ then some (s.stampVoid r t) else none)
  else if progressAllowed rec_ code then some (s.stampProgress r code t)
  else none

/-- LEDGER_STAGE (R271, R272). -/
def State.doStage (s : State) (i : Nat) (f : Flight) : State :=
  if s.blocked i f then s.holdFlight i f
  else if s.ledHeld then s.holdLedger i f
  else
    match s.newest f.d.sheet with
    | none => s.fixFlight i { status := Status.badRange, aux := 0xFFFFFFFF#32 }
    | some r =>
      match (s.meetRec r).stageStamp r (bits f.d.p0.toNat 5 0) (bits f.d.p0.toNat 15 8) with
      | none => (s.meetRec r).fixFlight i { status := Status.badRange, aux := BitVec.ofNat 32 r }
      | some s1 =>
        let q := s1.record r
        s1.fixFlight i { status := if q.spoiled then Status.spoiled else Status.done, result := q.result, aux := BitVec.ofNat 32 r }

/-- The NL6436 compatibility view of a record (Table 10-5). -/
def Rec.compat (r : Rec) : List Word :=
  let w (v : Nat) : Word := BitVec.ofNat 18 v
  let st := if r.void then 6 else if r.spoiled then 5
    else match r.progress with
      | 0 => 0
      | 1 => 1
      | 2 => 1
      | 3 => 2
      | 4 => 2
      | 5 => 3
      | _ => 4
  [w r.sheet, w (r.sheet / 2 ^ 18), w r.job, w (st * 2 ^ 15 + r.mask % 64 * 2 ^ 9 + r.cause * 2 ^ 5), w r.time, w (r.time / 2 ^ 18)]

/-- LEDGER_QUERY (R273, R278). -/
def State.doQuery (s : State) (i : Nat) (f : Flight) : State :=
  if s.blocked i f || !s.linkOpen f.host then s.holdFlight i f
  else
    match (if bit f.d.p0.toNat 0 then some (Desc.a f.d) else s.newest f.d.sheet) with
    | none => s.fixFlight i { status := Status.badRange, aux := 0xFFFFFFFF#32 }
    | some r =>
      let q := s.record r
      let ws := if bit f.d.p0.toNat 1 then q.compat else q.words
      let s0 := s.meetRec r
      let s1 := if Desc.n f.d = 0 then s0 else s0.toHost f.host f.d.haddr.toNat (wordSlots ws)
      s1.fixFlight i { status := Status.done, result := q.result, aux := BitVec.ofNat 32 r }

/-- COUNTER_READ (Table 7-6). -/
def State.doCounters (s : State) (i : Nat) (f : Flight) : State :=
  if s.blocked i f || !s.linkOpen f.host then s.holdFlight i f
  else if bit f.d.p0.toNat 8 then
    (s.toHost f.host f.d.haddr.toNat ((List.range 16).flatMap (fun k => leBytes (s.counter k) 8))).fixFlight i { status := Status.done }
  else
    let k := bits f.d.p0.toNat 3 0
    s.fixFlight i { status := Status.done, result := BitVec.ofNat 64 (s.counter k), aux := BitVec.ofNat 32 k }

/-! The Keep opcodes -/

/-- Pages of a word range of the Keep. -/
def keepPages (first n : Nat) : List Nat := (List.range ((first + n - 1) / 64 + 1 - first / 64)).map (first / 64 + ·)

/-- KEEP_READ (R289, R294). -/
def State.doKeepRead (s : State) (i : Nat) (f : Flight) : State :=
  let k := Desc.n f.d / 4
  if s.blocked i f || (keepPages (Desc.a f.d) k).any s.keepWaits || !s.linkOpen f.host then s.setFlight i { f with stage := .keep }
  else
    (s.toHost f.host f.d.haddr.toNat (wordSlots ((List.range k).map (fun j => s.readKeep (Desc.a f.d + j))))).fixFlight i
      { status := Status.done, result := BitVec.ofNat 64 (Desc.n f.d) }

/-- RECORD_GET (R304); the words of a valid copy leave with their tag, COMMITTED (R289, R303). -/
def State.doGet (s : State) (i : Nat) (f : Flight) : State :=
  let p := Desc.pageA f.d
  if s.blocked i f || s.keepWaits p || s.keepWaits (p + 1) || !s.linkOpen f.host then s.setFlight i { f with stage := .keep }
  else
    match s.chooseRecord p with
    | none => s.fixFlight i { status := Status.done, result := BitVec.ofNat 64 (2 ^ 18) }
    | some c =>
      let ws : List Word := (List.range (Desc.n f.d / 4)).map (fun j => keepWord tagCommitted (BitVec.ofNat 16 (c.payload.getD j 0)))
      (s.toHost f.host f.d.haddr.toNat (wordSlots ws)).fixFlight i
        { status := Status.done, result := BitVec.ofNat 64 (c.seq + b2n c.copyB * 2 ^ 16 + b2n c.twin * 2 ^ 17) }

/-- What a KEEP_WRITE or RECORD_PUT writes: page, words, and RESULT (R201, R305). -/
def State.keepPlan (s : State) (f : Flight) : Nat × List (Nat × BitVec 16) × Nat :=
  let ds : List (BitVec 16) := (slotWords f.buf).map dataOf
  if f.op = .keepWrite then
    (Desc.a f.d / 64, (List.range ds.length).map (fun k => (Desc.a f.d % 64 + k, ds.getD k 0#16)), Desc.n f.d)
  else
    let t := putTarget (s.chooseRecord (Desc.pageA f.d))
    (Desc.pageA f.d + b2n t.1, indexed (recordWords t.2 (ds.map (·.toNat))), t.2 + b2n t.1 * 2 ^ 16)

/-- A KEEP_WRITE or RECORD_PUT whose data is complete: a hot page is written at once (R300), else it waits for its page
write; poisoned or failed data ends it without effect (R396). -/
def State.doKeepWrite (s : State) (i : Nat) (f : Flight) : State :=
  match f.ending with
  | some e => s.fixFlight i { status := e }
  | none =>
    if f.buf.length < Desc.n f.d then s.setFlight i { f with stage := .data }
    else if s.blocked i f then s.setFlight i { f with stage := .keep }
    else if f.op = .recordPut ∧ (s.keepWaits (Desc.pageA f.d) ∨ s.keepWaits (Desc.pageA f.d + 1)) then
      s.setFlight i { f with stage := .keep }
    else
      let p := s.keepPlan f
      if s.isHot p.1 then (s.writeHot p.1 p.2.1).fixFlight i { status := Status.done, result := BitVec.ofNat 64 p.2.2 }
      else s.setFlight i { f with stage := .keep }

/-- A page that the descriptor may write lies in a changing hot range (R302): of a RECORD_PUT, either of its two. -/
def State.planChanging (s : State) (f : Flight) : Bool :=
  if f.op = .recordPut then s.hotChanging (Desc.pageA f.d) || s.hotChanging (Desc.pageA f.d + 1) else s.hotChanging (s.keepPlan f).1

/-- The oldest descriptor write that waits for a page write (R296). -/
def State.keepNext (s : State) : Option (Nat × Flight) :=
  let ok (i : Nat) (f : Flight) : Bool :=
    decide ((f.op = .keepWrite ∨ f.op = .recordPut) ∧ f.stage = .keep ∧ f.buf.length = Desc.n f.d) && f.compl.isNone &&
      !(s.host f.host).retraining && !s.blocked i f && !s.planChanging f
  match (List.range s.flights.length).find? (fun i => match s.flights[i]? with | some f => ok i f | none => false) with
  | some i => s.flights[i]?.map (fun f => (i, f))
  | none => none

/-- The page write of a descriptor starts: it commits (Table 6-7). -/
def State.keepBegin (s : State) (i : Nat) (f : Flight) : State :=
  let p := s.keepPlan f
  (s.pageStart .descriptor p.1 p.2.1).setFlight i { f with stage := .pageWrite, committed := true, result := p.2.2 }

/-! Clock, checkpoint, move -/

/-- RTC_READ (Table 7-6). -/
def State.rtcResult (s : State) (form : Bool) : Nat :=
  let c := s.rtc.now
  let osf := b2n (s.flag Reg.RTC_STATUS_OSF) * 2 ^ 63
  if form then c.stamp + osf
  else c.subsec + c.sec * 2 ^ 10 + c.min * 2 ^ 16 + c.hour * 2 ^ 22 + c.wday * 2 ^ 27 + c.day * 2 ^ 30 + c.month * 2 ^ 35 +
    c.year * 2 ^ 39 + osf

/-- A MOVE starts (R101). -/
def State.moveStart (s : State) (i : Nat) (f : Flight) : State :=
  let src := bits f.d.p0.toNat 5 0
  let dst := bits f.d.p0.toNat 13 8
  match s.freeMove with
  | some n =>
    let s1 := ((s.put (Reg.PART_REGION_PARTITION dst) (s.get (Reg.PART_REGION_PARTITION src))).setRstate dst RState.moveDest).clearRegion dst
    let s2 := s1.setReg (0x410 + n) (BitVec.ofNat 18 (1 * 2 ^ 15 + (f.host.val + 1) * 2 ^ 12 + dst * 2 ^ 6 + src))
    ((s2.yieldWindow src).yieldWindow dst).setFlight i { f with stage := .moveCopy, result := n }
  | none => s.fixFlight i { status := Status.badRange }

/-! Stops (R180, R184, R186, R195) -/

/-- What a stop of the i-th flight before its commit undoes or leaves behind, beside the data already moved. A TABLE_LOAD that still
waits to enter its idle bank leaves it as it is (R231). -/
def State.undo (s : State) (i : Nat) (f : Flight) : State :=
  match f.op with
  | .rasterPost => s.rasterWithdraw f
  | .tableLoad => if s.loadWaits i f then s else s.dirtyTable f.d
  | .move => if f.stage = .moveCopy then s.dropMove f.result else s
  | _ => s

/-- RESULT of a stopped descriptor: the bytes moved, for opcodes that report them, and the entry a MOVE used (Table 7-6). -/
def Flight.stopResult (f : Flight) : BitVec 64 :=
  match f.op with
  | .write => BitVec.ofNat 64 f.moved
  | .word18Write => BitVec.ofNat 64 f.moved
  | .tableLoad => BitVec.ofNat 64 f.moved
  | .move => BitVec.ofNat 64 f.result
  | _ => 0#64

/-- Stop the i-th flight before its commit with a status. -/
def State.stopFlight (s : State) (i : Nat) (f : Flight) (st : Byte) : State :=
  (s.undo i f).fixFlight i { status := st, result := f.stopResult }

/-- A flight that can still be stopped. -/
def Flight.open_ (f : Flight) : Bool := f.compl.isNone && !f.committed

/-- ABORT (R184, R185). -/
def State.doAbort (s : State) (i : Nat) (f : Flight) : State :=
  let q := bits f.d.p0.toNat 1 0
  let tag := bits f.d.p0.toNat 31 16
  match s.findFlight (fun e => decide (e.host = f.host ∧ e.sq.val = q ∧ e.d.tag.toNat = tag ∧ e.op ≠ .abort ∧ e.op ≠ .nop) && e.open_) with
  | some (k, e) => (s.stopFlight k e Status.aborted).fixFlight i { status := Status.done }
  | none => s.fixFlight i { status := Status.noTarget }

/-- The opcodes that wait within a limit (R195). -/
def waitsLimited (op : Opcode) : Bool :=
  match op with
  | .rasterPost => true
  | .tableSwap => true
  | .keepRead => true
  | .keepWrite => true
  | .recordPut => true
  | .recordGet => true
  | .checkpoint => true
  | _ => false

/-- A flight's wait limit expires before its commit (R195). -/
def State.waitExpired (s : State) (h : PHost) (j : Ring) (tag : BitVec 16) : State :=
  match s.findFlight (fun e => decide (e.host = h ∧ e.sq = j ∧ e.d.tag = tag) && waitsLimited e.op && e.open_) with
  | some (k, e) => s.stopFlight k e Status.timeout
  | none => s

/-! Progress of every descriptor -/

/-- The station's ring lies in a region that refuses writes: a waiting band ends REGION_RETIRED (R99, Table 8-7). -/
def State.ringRetired (s : State) (f : Flight) : Bool :=
  decide (s.rangeCheck (f.host.val + 1) (s.ringBase f.d.stn) (s.ringEnd f.d.stn - 1) true false = some Status.regionRetired)

/-- A RASTER_POST is accepted or refused (R211). -/
def State.doRaster (s : State) (i : Nat) (f : Flight) : State :=
  match f.ending with
  | some e => s.stopFlight i f e
  | none =>
    if f.stage = .ringSpace then (if s.ringRetired f then s.stopFlight i f Status.regionRetired else s)
    else if s.blocked i f then s.holdFlight i f
    else match s.rasterCheck f.host f.d with
      | .error e => s.fixFlight i { status := e }
      | .ok r => (s.rasterAccept f.d r).setFlight i { f with stage := .ringSpace }

/-- The opcodes that read host memory. -/
def readsHost (op : Opcode) : Bool :=
  match op with
  | .write => true
  | .word18Write => true
  | .rasterPost => true
  | .tableLoad => true
  | .keepWrite => true
  | .recordPut => true
  | _ => false

/-- Host data of the flight is still to come. -/
def Flight.lacks (f : Flight) : Bool := readsHost f.op && f.open_ && f.ending.isNone && decide (f.received < Desc.n f.d)

/-- A flight whose staged data met a collision in a scratchpad ends once its data has come: WRITE_LOST, and what was staged is discarded
(R94), unless a status before it in R205 stands. -/
def State.loseFlight (s : State) (i : Nat) (f : Flight) (a : Nat) : State :=
  (s.undo i f).fixFlight i { status := Status.writeLost, aux := BitVec.ofNat 32 a }

/-- Take the i-th flight as far as the state allows; it waits while its host's link retrains (R159). -/
def State.advance (s : State) (i : Nat) : State :=
  match s.flights[i]? with
  | none => s
  | some f =>
    if f.compl.isSome || f.committed || (s.host f.host).retraining then s
    else if f.lost.isSome && f.ending.isNone then (if f.lacks then s else s.loseFlight i f (f.lost.getD 0))
    else
      match f.op with
      | .nop => s.fixFlight i { status := Status.done, result := f.d.p0.setWidth 64 }
      | .write => if f.stage = .held ∨ !f.buf.isEmpty ∨ f.ending.isSome then s.placeWrite i f else s
      | .read => s.doRead i f
      | .copy => s.doCopy i f
      | .fill => s.doFill i f
      | .move => if f.stage = .data then s.moveStart i f else s
      | .word18Write => if f.stage = .held ∨ !f.buf.isEmpty ∨ f.ending.isSome then s.placeW18 i f else s
      | .word18Read => s.doReadW18 i f
      | .rasterPost => s.doRaster i f
      | .tableLoad => if f.stage = .held ∨ !f.buf.isEmpty ∨ f.ending.isSome then s.placeTable i f else s
      | .tableSwap =>
        if f.stage = .data then s.setFlight i { f with stage := .swap }
        else if f.stage = .swapReady ∧ !s.stnArmed f.d.stn then s.swapNow i f
        else s
      | .ledgerOpen => s.doOpen i f
      | .ledgerStage => s.doStage i f
      | .ledgerQuery => s.doQuery i f
      | .counterRead => s.doCounters i f
      | .keepRead => s.doKeepRead i f
      | .keepWrite => s.doKeepWrite i f
      | .recordPut => s.doKeepWrite i f
      | .recordGet => s.doGet i f
      | .rtcRead => s.fixFlight i { status := Status.done, result := BitVec.ofNat 64 (s.rtcResult (bit f.d.p0.toNat 0)) }
      | .rtcSet => (s.timeSet (Desc.calendar f.d)).fixFlight i { status := Status.done }
      | .checkpoint => s.setFlight i { f with stage := .checkpoint }
      | .abort => s.doAbort i f
      | .bad => s.fixFlight i { status := Status.badOpcode }

/-- Advance every flight, oldest first. -/
def State.advanceAll (s : State) : State := (List.range s.flights.length).foldl State.advance s

/-- How many bytes of the i-th flight's host data may be asked for: read requests follow one another while the function has a tag free
(R155). -/
def State.askGoal (s : State) (f : Flight) : Nat :=
  let p := s.host f.host
  let m := p.maxRead
  let free := p.tags - (s.nonPosted f.host - f.reads m)
  if free = 0 then f.asked else max f.asked (min (Desc.n f.d) (((f.d.haddr.toNat + f.received) / m + free) * m - f.d.haddr.toNat))

/-- The read requests of the i-th flight that may be issued are issued (R155, R159, R176); what is asked for at once leaves as one
entry of `out`. -/
def State.askData (s : State) (i : Nat) : State :=
  match s.flights[i]? with
  | none => s
  | some f =>
    if f.lacks && s.linkOpen f.host && decide (f.asked < s.askGoal f) then
      ((s.leaveL1 f.host).emit (.dataRead f.host (f.d.haddr.toNat + f.asked) (s.askGoal f - f.asked))).setFlight i { f with asked := s.askGoal f }
    else s

/-- Every flight asks for its data, oldest first. -/
def State.askAll (s : State) : State := (List.range s.flights.length).foldl State.askData s

/-- After an event: descriptors ask for their data and go on, completions are written in ring order, fetches follow (R176 to R181). -/
def State.settle (s : State) : State :=
  if s.serving then ((s.askAll.advanceAll.retireAll).issueFetches 0).issueFetches 2 else s

/-! Arrival -/

/-- A descriptor's data arrives: its fetch read is outstanding and its link is open (R177, R187). -/
def State.mayArrive (s : State) (h : PHost) (j : Ring) : Bool :=
  s.linkOpen h && s.hostExists h && decide (0 < s.sqFetching h j.val)

/-- HEAD advances past the fetched descriptor (R187). -/
def State.advanceHead (s : State) (h : PHost) (j : Ring) : State :=
  (s.setFetching h j.val (s.sqFetching h j.val - 1)).put (Reg.HOST_SQ_STAT_HEAD h.val j.val)
    ((s.sqHead h.val j.val + 1) % s.sqSize h.val j.val)

/-- Host data reaches a flight: bytes that it has asked for, then a poisoned TLP or the end of the read in UR or CA (R155, R189, R396). -/
def Flight.receive (f : Flight) (d : HostData) : Flight :=
  let bs := d.bytes.take (min f.asked (Desc.n f.d) - f.received)
  if d.poison then
    { f with ending := some Status.hostAbort, flush := true, bad := if f.op = .write then bs else [] }
  else if d.fail then { f with buf := f.buf ++ bs, ending := some Status.hostAbort }
  else { f with buf := f.buf ++ bs }

/-- The opcodes that read records of the ledger. -/
def readsLedger (op : Opcode) : Bool := decide (op = .ledgerOpen ∨ op = .ledgerStage ∨ op = .ledgerQuery)

/-- Bit upsets that the codewords of a flight's ranges, or the ledger's, have suffered. -/
def State.flightUpsets (s : State) (f : Flight) (ups : List Upset) : State :=
  let s1 := (s.cwRanges f).foldl (fun t r => t.upsets ups r.1 r.2.1) s
  if readsLedger f.op then s1.upsets ups (recAddr 0 / 4) (recAddr 1048576 / 4 - 1) else s1

/-- The opcodes whose data the ring engine stages in a scratchpad, for the firmware serves them (R94, Table 7-7). -/
def staged (op : Opcode) : Bool :=
  match op with
  | .tableLoad => true
  | .ledgerOpen => true
  | .ledgerStage => true
  | .ledgerQuery => true
  | .counterRead => true
  | .keepRead => true
  | .keepWrite => true
  | .recordPut => true
  | .recordGet => true
  | _ => false

/-- Data of a flight is staged (R94): both ports' writes, and WRITE_LOST of ARR_EVENT where they meet. -/
def State.stageData (s : State) (f : Flight) (p : PadTraffic) : State × Flight :=
  if staged f.op then
    let s1 := s.padWrites p
    match padLost p with
    | some a => (s1.arrEvent Reg.ARR_EVENT_WRITE_LOST [f.host], { f with lost := some (f.lost.getD a) })
    | none => (s1, f)
  else (s, f)

/-- A flight that awaits host data that it has asked for. -/
def Flight.awaits (f : Flight) : Bool := f.lacks && decide (f.received < f.asked)

/-- Host data reaches the i-th flight f, with what its staging meets and the upsets that its codewords have suffered. -/
def State.takeData (s : State) (i : Nat) (f : Flight) (data : HostData) (ups : List Upset) (pads : PadTraffic) : State :=
  let p := s.stageData f pads
  ((p.1.dataFailed f.host data).flightUpsets f ups).setFlight i (p.2.receive data)

/-- A descriptor arrives (R187), is checked (R196) and starts, with the first of its host data where it reads any. -/
def State.descArrive (s : State) (h : PHost) (j : Ring) (op : Opcode) (d : Desc) (data : HostData) (ups : List Upset)
    (pads : PadTraffic := {}) : State :=
  if s.mayArrive h j then
    let s1 := s.advanceHead h j
    let f : Flight := { host := h, sq := j, op := op, d := d, stage := .data }
    let i := s1.flights.length
    match s1.descCheck h op d with
    | some e => ({ s1 with flights := s1.flights ++ [{ f with stage := .done, committed := true, compl := some { status := e } }] } : State).settle
    | none =>
      if readsHost op then
        let s2 := ({ s1 with flights := s1.flights ++ [f] } : State).askData i
        (match s2.flights[i]? with
         | some g => if g.awaits then s2.takeData i g data ups pads else s2
         | none => s2).settle
      else
        let p := s1.stageData f pads
        let s2 := p.1.flightUpsets f ups
        (({ s2 with flights := s2.flights ++ [p.2] } : State).advance i).settle
  else s

/-- Host data of a descriptor arrives. -/
def State.hostData (s : State) (h : PHost) (j : Ring) (tag : BitVec 16) (data : HostData) (ups : List Upset) (pads : PadTraffic) : State :=
  if s.linkOpen h then
    match s.findFlight (fun f => decide (f.host = h ∧ f.sq = j ∧ f.d.tag = tag) && f.awaits) with
    | some (i, f) => (s.takeData i f data ups pads).settle
    | none => s
  else s

/-- A host data read times out; `lost`: for the ring engine's buffers have lost its data (R161, R167, R189). -/
def State.hostTimeout (s : State) (h : PHost) (j : Ring) (tag : BitVec 16) (lost : Bool) : State :=
  match s.findFlight (fun f => decide (f.host = h ∧ f.sq = j ∧ f.d.tag = tag) && f.awaits) with
  | some (i, f) => ((s.readFailed h (if lost then .lost else .timeout)).setFlight i { f with ending := some Status.timeout }).settle
  | none => s

/-! Function-level reset (R186) -/

/-- A host's descriptors end: those that have not committed stop, and no completion is written. -/
def State.dropHost (s : State) (h : PHost) : State :=
  let s1 := (List.range s.flights.length).foldl (fun (t : State) i =>
    match t.flights[i]? with
    | some f => if f.host = h ∧ f.open_ then t.undo i f else t
    | none => t) s
  { s1 with flights := s1.flights.filter (fun f => decide (f.host ≠ h)) }

/-- The HOST_ registers of a host that a function-level reset returns to their reset values (R186). -/
def hostRegAddr (h a : Nat) : Bool :=
  decide (0x720 + 0x38 * h ≤ a ∧ a < 0x720 + 0x38 * (h + 1)) || decide (a = 0x708 + h ∨ a = 0x70C + h ∨ a = 0x710 + h ∨ a = 0x704 + h)

/-- A function-level reset of Hh; `keep` keeps its replay records, as for PERST and link-down. -/
def State.functionReset (s : State) (h : PHost) (keep : Bool) : State :=
  let s1 := s.dropHost h
  let s2 : State := { s1 with regs := Map.keep s1.regs (fun a => !hostRegAddr h.val a) }
  let p := s2.host h
  let s3 := s2.setHost h {
    perstN := p.perstN, d3 := false, up := p.up, retraining := p.retraining, l1 := p.l1, wakeLow := p.wakeLow
    cfg := p.cfgAfterReset, turns := p.turns, merges := p.merges, headers := p.headers }
  let s4 : State := if keep then s3 else { s3 with dev := { s3.dev with replay := s3.dev.replay.filter (fun r => decide (r.host ≠ h)) } }
  let s5 := s4.mbReset (h.val + 1)
  (if 0 < s5.cutCount h then s5.hostEvent h Reg.HOST_EVENT_CUT else s5).settle

end Sys2Proof.Machine
end

