-- ==== Sys2Proof/Machine/FreePlane.lean ====
section
/-! DEFINITION. What a shadow plane holds after a store that was cut short: a free value of each image and of region 63's device
state (R27, R123; log entry 21). -/

namespace Sys2Proof.Config
open Sys2Proof Sys2Proof.Machine

/-- The contents that the n-th cut store leaves in a plane of a physical region. -/
opaque freeImage : Nat → Nat → Image

/-- The device state that the n-th cut store leaves in a plane of the physical region that holds region 63. -/
opaque freeDev : Nat → Dev

end Sys2Proof.Config

namespace Sys2Proof.Machine
open Sys2Proof

/-- A region's words and the error marks of its codewords are canonical. -/
def Image.wf (m : Image) : Bool := Map.wf (fun _ => m.blank) m.cells && Map.wf (fun _ => 0) m.ecc

/-- The stores of region 63's device state are canonical, and of the registers it holds only those marked Restored (R89). -/
def Dev.wf (d : Dev) : Bool :=
  Map.wf regReset d.regs && d.regs.all (fun e => decide (restoredMask e.1 ≠ 0)) &&
  Map.wf (fun _ => 0) d.counters && Map.wf (fun _ => 0) d.hot && Map.wf (fun _ => 0) d.log

/-- A free image and a free device state, each in the one canonical form of its contents. -/
def freeImageOf (n p : Nat) : Image := let m := Config.freeImage n p; if m.wf then m else {}
def freeDevOf (n : Nat) : Dev := let d := Config.freeDev n; if d.wf then d else {}

/-- A plane of a physical region is left undefined; of region 63 its device state too. -/
def State.spoilPlane (s : State) (p : Nat) (b is63 : Bool) : State :=
  let n := s.free
  let img := freeImageOf n p
  let s1 : State := if b then { s with planeB := Map.set (fun _ => {}) s.planeB p img, free := n + 1 }
    else { s with planeA := Map.set (fun _ => {}) s.planeA p img, free := n + 1 }
  if is63 then
    (if b then { s1 with devB := Map.set (fun _ => {}) s1.devB p (freeDevOf n) }
     else { s1 with devA := Map.set (fun _ => {}) s1.devA p (freeDevOf n) })
  else s1

end Sys2Proof.Machine
end

