-- ==== Sys2Proof/Machine/VolleyOps.lean ====
section
/-! DEFINITION. Volley (spec/04): seals, the epoch selection, the store set, its waves and its seal, the energy thresholds,
and what a store leaves in the VOL_ registers. -/

namespace Sys2Proof.Machine
open Sys2Proof

/-! Seals (R109, R110) -/

/-- A seal block's content (Table 4-1). -/
structure Seal where
  epoch : Nat
  region : Nat
  indep : Bool
  planeB : Bool
  cause : Nat
  acount : Nat
  nstore : Nat
  deriving DecidableEq, Repr

/-- Words 0 to 5 of a seal block. -/
def Seal.body (x : Seal) : List Word :=
  let w (v : Nat) : Word := BitVec.ofNat 18 v
  [w x.epoch, w (x.epoch / 2 ^ 18), w (x.region * 2 ^ 12 + b2n x.indep * 2 ^ 11 + b2n x.planeB * 2 ^ 10 + x.cause * 2 ^ 6),
    w (x.acount * 2 ^ 11 + x.nstore * 2 ^ 4), 0#18, 0#18]

/-- The 18 bytes of words 0 to 5 that the CRC covers (R110). -/
def sealBytes (ws : List Word) : List Byte :=
  (ws.take 6).flatMap (fun (w : Word) => [w.setWidth 8, (w >>> 8).setWidth 8, (w >>> 16).setWidth 8])

/-- The eight words of a seal block. -/
def Seal.words (x : Seal) : List Word :=
  let c := crc32c (sealBytes x.body)
  x.body ++ [(c.setWidth 16).setWidth 18, ((c >>> 16).setWidth 16).setWidth 18]

/-- A valid seal block of physical region p (R110); an erased block is invalid. -/
def readSeal (p : Nat) (ws : List Word) : Option Seal :=
  if ws.all (fun w => decide (w = 0#18)) then none
  else
    let n (k : Nat) : Nat := (ws.getD k 0#18).toNat
    let reg := bits (n 2) 17 12
    if (crc32c (sealBytes ws)).toNat = n 6 % 65536 + 65536 * (n 7 % 65536) ∧ (reg = p ∨ (reg = 63 ∧ p % 4 = 3)) then
      some { epoch := n 0 + 2 ^ 18 * n 1, region := reg, indep := bit (n 2) 11, planeB := bit (n 2) 10, cause := bits (n 2) 9 6,
             acount := bits (n 3) 17 11, nstore := bits (n 3) 10 4 }
    else none

/-- The eight words of a physical region's seal block in plane B or A. -/
def State.sealWords (s : State) (p : Nat) (b : Bool) : List Word :=
  (List.range 8).map (fun k => Map.get (fun _ => 0#18) (if b then s.sealB else s.sealA) (8 * p + k))

def State.setSeal (s : State) (p : Nat) (b : Bool) (ws : List Word) : State :=
  let es := (List.range 8).map (fun k => (8 * p + k, ws.getD k 0#18))
  if b then { s with sealB := Map.setAll (fun _ => 0#18) s.sealB es } else { s with sealA := Map.setAll (fun _ => 0#18) s.sealA es }

/-- A valid seal with the physical region and the plane that hold it. -/
structure Held where
  phys : Nat
  planeB : Bool
  sl : Seal
  deriving DecidableEq, Repr

/-- Every valid seal, plane A before plane B in each physical region. -/
def State.seals (s : State) : List Held :=
  (List.range 64).flatMap (fun p => [false, true].filterMap (fun b => (readSeal p (s.sealWords p b)).map (fun x => ⟨p, b, x⟩)))

/-! Epoch selection (R130) -/

/-- The valid seal with the highest epoch; of equal epochs, the first. -/
def newestSeal (xs : List Held) : Option Held :=
  xs.foldl (fun (best : Option Held) x =>
    match best with
    | none => some x
    | some b => if b.sl.epoch < x.sl.epoch then some x else some b) none

/-- The regions that hold a valid atomic seal of an epoch. -/
def atomicSet (xs : List Held) (e : Nat) : List Nat :=
  ((xs.filter (fun x => !x.sl.indep && decide (x.sl.epoch = e))).map (·.sl.region)).dedup

/-- An atomic epoch is complete: its seals agree on ACOUNT, and so many regions hold one. -/
def atomicComplete (xs : List Held) (e : Nat) : Bool :=
  let n := (atomicSet xs e).length
  (xs.filter (fun x => !x.sl.indep && decide (x.sl.epoch = e))).all (fun x => decide (x.sl.acount = n))

/-- The epochs of valid atomic seals. -/
def atomicEpochs (xs : List Held) : List Nat := ((xs.filter (fun x => !x.sl.indep)).map (·.sl.epoch)).dedup

/-- e_a: the newest complete atomic epoch. -/
def newestAtomic (xs : List Held) : Option Nat :=
  ((atomicEpochs xs).filter (atomicComplete xs)).foldl (fun (best : Option Nat) e =>
    match best with
    | none => some e
    | some b => some (max b e)) none

/-- TORN: an atomic epoch newer than e_a was incomplete and passed over. -/
def atomicTorn (xs : List Held) : Bool :=
  (atomicEpochs xs).any (fun e => !atomicComplete xs e && (match newestAtomic xs with | none => true | some a => decide (a < e)))

/-- The highest epoch among all valid seals. -/
def highestEpoch (xs : List Held) : Option Nat := (newestSeal xs).map (·.sl.epoch)

/-- The plane chosen among a region's own seals: the seal, whether the INDEPENDENT rule chose it, whether a newer one exists. -/
def choosePlane (xs own : List Held) : Option (Held × Bool × Bool) :=
  match newestSeal own with
  | none => none
  | some n =>
    if n.sl.indep then some (n, true, false)
    else
      match newestAtomic xs with
      | none => none
      | some a =>
        (newestSeal (own.filter (fun x => decide (x.sl.epoch ≤ a)))).map (fun c => (c, false, decide (c.sl.epoch < n.sl.epoch)))

/-- The seals of region r, and of region 63 those of the physical region whose seal carrying 63 has the highest epoch. -/
def sealsOf (xs : List Held) (r : Nat) : List Held :=
  let mine := xs.filter (fun x => decide (x.sl.region = r))
  if r = 63 then
    match newestSeal mine with
    | some n => mine.filter (fun x => decide (x.phys = n.phys))
    | none => []
  else mine

/-- Both planes of a region hold valid seals of the same epoch (R130). -/
def sealTie (own : List Held) : Bool :=
  match own with
  | [a, b] => decide (a.sl.epoch = b.sl.epoch)
  | _ => false

/-! Epochs (R107, R108) -/

def maxEpoch : Nat := 2 ^ 36 - 1

def State.volNext (s : State) : Nat := s.get36 Reg.VOL_NEXT_LO Reg.VOL_NEXT_HI

/-- A store takes the epoch of VOL_NEXT. -/
def State.takeEpoch (s : State) : State :=
  if s.volNext = maxEpoch then s.put Reg.VOL_RETURN_NO_EPOCH 1 else s.put36 Reg.VOL_NEXT_LO Reg.VOL_NEXT_HI (s.volNext + 1)

/-- VOL_NEXT is at or above 0xF_FFFF_F000: no checkpoint starts (R124). -/
def State.noCheckpoint (s : State) : Bool := decide (0xFFFFFF000 ≤ s.volNext)

/-! The store set (R112, R113) -/

/-- A region is in the store set beside region 63. -/
def State.stored (s : State) (r : Nat) : Bool :=
  decide (s.rstate r = RState.assigned ∨ s.rstate r = RState.retiring) &&
    (match s.partOf r with | some p => s.persistent p | none => false)

/-- The store set if the regions were frozen now, in wave order. -/
def State.storeSet (s : State) : List Nat := 63 :: (List.range 63).filter s.stored

/-- N. -/
def State.storeN (s : State) : Nat := s.storeSet.length

/-- The region is stored as INDEPENDENT; region 63 always is. -/
def State.storedIndep (s : State) (r : Nat) : Bool :=
  match s.partOf r with
  | some p => s.indep p
  | none => true

/-- K. -/
def waveCount (n : Nat) : Nat := ceilDiv n 8
def Store.waves (t : Store) : Nat := waveCount t.regions.length

/-- The regions of wave k (R113). -/
def Store.waveSet (t : Store) (k : Nat) : List Nat := (t.regions.drop (8 * (k - 1))).take 8

/-! Energy (R119 to R122) -/

/-- The wave threshold for R(k) = r regions and C µF, in 25 mV units: raised 1 % and rounded up (R121). -/
def waveThreshold (c r : Nat) : Nat :=
  isqrtUp (ceilDiv (10201 * (42250000 * c + 2000000 * (560 * r + 1000))) (6250000 * c))

/-- V_ready from the rounded first threshold, in 25 mV units (R122). -/
def readyLevel (c n : Nat) : Nat := isqrtUp (waveThreshold c n ^ 2 + ceilDiv 2400000000 (625 * c))

/-- C_min of N regions in µF at V_start 12.0 V, rounded up (R119). -/
def cMin (n : Nat) : Nat := ceilDiv (2 * (2200 + 560 * n) * 100) 10175

def State.holdCap (s : State) : Nat := s.get Reg.VOL_HOLD_HOLD_CAP
def State.vReady (s : State) : Nat := readyLevel s.holdCap s.storeN

/-- READY of VOL_STATUS. -/
def State.ready (s : State) : Bool := decide (s.vReady ≤ s.get Reg.VOL_VHOLD_VHOLD)

/-- SHORT of VOL_BUDGET. -/
def State.short (s : State) : Bool := decide (s.holdCap < cMin s.storeN)

/-- Volley events reach the PCIe hosts that own a PERSIST partition (R136). -/
def State.volEvent (s : State) (ev : Fld) : State :=
  s.event ev 0x619 .volley (s.existing.filter (fun h =>
    (List.range 63).any (fun p => s.flag (Reg.PART_ATTR_VALID p) && s.persistent p && decide (s.ownerOf p = h.val + 1))))

/-- VOLLEY_WARN_N's level (R144). -/
def State.warnLevel (s : State) : Bool := !(s.pwr.vinWarn || (s.flag Reg.SUP_WARN_READY_WARN && !s.ready))

/-- MP5 in the RUN pin phase follows VOLLEY_WARN_N; a fall sets WARN (R144). -/
def State.warnFollow (s : State) : State :=
  if s.serving then
    let s1 : State := { s with pwr := { s.pwr with warnN := s.warnLevel } }
    if s.pwr.warnN && !s.warnLevel then s1.supEvent Reg.SUP_EVENT_WARN else s1
  else s

/-- What follows a change of VHOLD, of the store set or of HOLD_CAP from the state `old`: READY_LOST, SHORT, VOLLEY_WARN_N
(R135, R136, R144). -/
def State.watch (s old : State) : State :=
  let s1 := if old.pwr.st = .run ∧ s.pwr.st = .run ∧ old.ready ∧ !s.ready then s.volEvent Reg.VOL_EVENT_READY_LOST else s
  let s2 := if old.hub ∧ s.hub ∧ !old.short ∧ s.short then s1.volEvent Reg.VOL_EVENT_SHORT else s1
  s2.warnFollow

/-! Freezing and waves -/

/-- The plane that a store writes for a region: not the keep plane, plane A where the selection gives none (R111). -/
def State.targetPlane (s : State) (xs : List Held) (r : Nat) : Bool :=
  let own := if r = 63 then xs.filter (fun x => decide (x.sl.region = 63 ∧ x.phys = s.phys63)) else sealsOf xs r
  match choosePlane xs own with
  | some c => !c.1.planeB
  | none => false

/-- The regions freeze (R112): store set, epoch, target planes and wave thresholds are fixed and the hot words are copied
(R301). With no epoch left (R108), or in a power-fail during a life-cycle wipe (R373), the set is empty and no wave runs. -/
def State.freeze (s : State) : State :=
  match s.store with
  | none => s
  | some t =>
    if s.flag Reg.VOL_RETURN_NO_EPOCH || (s.flag Reg.ID_LC_WIPING && decide (t.cause = .power)) then { s with store := some { t with frozen := true } }
    else
      let xs := s.seals
      let set := s.storeSet
      let n := set.length
      let t1 : Store := { t with
        frozen := true, regions := set, acount := (set.filter (fun r => !s.storedIndep r)).length, epoch := s.volNext,
        indep := set.filter (fun r => decide (r = 63) || s.storedIndep r), phys63 := s.phys63, hotRange := s.keep.hotRange,
        planes := set.map (fun r => (r, s.targetPlane xs r)),
        thresholds := (List.range (waveCount n)).map (fun k => waveThreshold s.holdCap (n - 8 * k)) }
      ({ s with store := some t1, dev := { s.dev with hot := s.keep.hot } } : State).takeEpoch

/-- The physical region that a region is stored from. -/
def Store.physOf (t : Store) (r : Nat) : Nat := if r = 63 then t.phys63 else r

/-- The plane fixed for a region. -/
def Store.plane (t : Store) (r : Nat) : Bool := ((t.planes.find? (fun e => decide (e.1 = r))).map (·.2)).getD false

/-- The Restored registers that a store saves: KEEP_HOT names the range whose words it froze (R301, R306). -/
def State.storedRegs (s : State) (t : Store) : Map Word :=
  Map.set regReset s.devRegs 0x289 (BitVec.ofNat 18 (t.hotRange.1 + t.hotRange.2 * 2 ^ 9))

/-- Store one region into its plane (R26, R111): its seal block there is erased first; region 63 takes its device state. -/
def State.storeRegion (s : State) (t : Store) (r : Nat) : State :=
  let b := t.plane r
  let p := t.physOf r
  let s1 := (s.yieldWindow r).eraseSeal p b
  let img := s1.image p
  let s2 : State := if b then { s1 with planeB := Map.set (fun _ => {}) s1.planeB p img }
    else { s1 with planeA := Map.set (fun _ => {}) s1.planeA p img }
  if r = 63 then
    let d := { s2.dev with regs := s2.storedRegs t }
    if b then { s2 with devB := Map.set (fun _ => {}) s2.devB p d } else { s2 with devA := Map.set (fun _ => {}) s2.devA p d }
  else s2

/-- One held event is applied, or a held descriptor runs. -/
def State.resumeOne (s : State) (e : LedEvent) : State :=
  match e with
  | .descriptor h j tag =>
    (match s.findFlight (fun f => decide (f.host = h ∧ f.sq = j ∧ f.d.tag = tag) && f.open_) with
     | some (i, _) => s.advance i
     | none => s)
  | .pulse .. => s.ledApply e
  | .jam .. => s.ledApply e
  | .imaged .. => s.ledApply e
  | .spoil .. => s.ledApply e
  | .timeout .. => s.ledApply e

/-- At the end of region 63's wave the held events and descriptors proceed in order of occurrence, and flagged sheets leave their
queues (R125, R126). -/
def State.ledResume (s : State) : State :=
  let s1 := (s.led.held.foldl State.resumeOne { s with led := { s.led with held := [] } }).rasterAll
  (List.range 8).foldl (fun (t : State) n => t.unflag n) s1

/-- The wave in progress ends: what it held proceeds (R125, R126). -/
def State.waveEnd (s : State) (t : Store) : State :=
  let s1 : State := { s with store := some { t with wave := 0 } }
  let s2 := if t.wave = 1 then s1.ledResume else s1
  s2.settle

/-- Region 63's wave fixes the physical region that it is stored from and the target plane there: a relocation may have ended since
the freeze (R105, R111). -/
def State.atWave (s : State) (t : Store) (k : Nat) : Store :=
  if k = 1 ∧ t.phys63 ≠ s.phys63 then
    { t with wave := k, phys63 := s.phys63
             planes := t.planes.map (fun e => if e.1 = 63 then (63, s.targetPlane s.seals 63) else e) }
  else { t with wave := k }

/-- Wave k starts. -/
def State.waveStart (s : State) (t : Store) (k : Nat) : State :=
  let s1 := if t.wave = 0 then s else s.waveEnd t
  let t1 : Store := s1.atWave t k
  (t1.waveSet k).foldl (fun (u : State) r => u.storeRegion t1 r) { s1 with store := some t1 }

/-- The wave in progress is cut: its target planes are left undefined (R27, R123). -/
def State.cutWave (s : State) (t : Store) : State :=
  (t.waveSet t.wave).foldl (fun (u : State) r => u.spoilPlane (t.physOf r) (t.plane r) (decide (r = 63))) s

/-- The seal step starts. -/
def State.sealStart (s : State) (t : Store) : State :=
  { s.waveEnd t with store := some { t with wave := t.waves + 1 } }

/-- The seal block of a region of a store (R109). -/
def sealFor (t : Store) (r : Nat) : Seal :=
  { epoch := t.epoch, region := r, indep := t.indep.contains r, planeB := t.plane r, cause := t.cause.code,
    acount := t.acount, nstore := t.regions.length }

/-- Write one region's seal block. -/
def State.writeSeal (s : State) (t : Store) (r : Nat) : State :=
  s.setSeal (t.physOf r) (t.plane r) (sealFor t r).words

/-- Every seal block is written; VOL_ATOMIC follows where the store held ATOMIC regions (R136). -/
def State.writeSeals (s : State) (t : Store) : State :=
  let s1 := t.regions.foldl (fun (u : State) r => u.writeSeal t r) s
  if 0 < t.acount then (s1.put36 Reg.VOL_ATOMIC_LO Reg.VOL_ATOMIC_HI t.epoch).put Reg.VOL_RETURN_NO_ATOMIC 0 else s1

/-- A cut seal leaves each seal block valid or invalid: a free choice for each (R123, log entry 7). -/
def State.tearSeals (s : State) (t : Store) : State :=
  t.regions.foldl (fun (u : State) r =>
    let b := u.drawBit
    if b.1 then b.2.writeSeal t r else b.2) s

/-! The end of a store -/

/-- VOL_LAST, VOL_LAST_VHOLD and VOL_LAST_TIME at a store's end (R136). -/
def State.volLast (s : State) (t : Store) (result waves vhold time : Nat) : State :=
  let w := t.cause.code * 2 ^ 14 + result * 2 ^ 12 + waves * 2 ^ 8 + t.channel * 2 ^ 4 + b2n t.vinBack * 2 ^ 3 + b2n t.resetSeen * 2 ^ 2
  ((s.setReg 0x608 (BitVec.ofNat 18 w)).put Reg.VOL_LAST_VHOLD_VHOLD_END vhold).put Reg.VOL_LAST_TIME_DURATION (min time 262143)

/-- Nominal µs from a store's start to wave 1 (Tables 4-2 and 4-5). -/
def Cause.drainTime : Cause → Nat
  | .power => 25
  | .reset => 25
  | .clock => 50
  | .drain => 2
  | .checkpoint => 2

/-- Nominal µs from a store's start to the boundary after k waves. -/
def Store.boundary (t : Store) (k : Nat) : Nat := t.cause.drainTime + 240 * k

/-- The store ends (R66, R136): VOL_LAST, the result on MP4, nothing running. -/
def State.storeOver (s : State) (t : Store) (result waves vhold time : Nat) : State :=
  let s1 := s.volLast t result waves vhold time
  { s1 with store := none, pwr := { s1.pwr with result := decide (result = 0) } }

/-! Progress codes (R66) -/

/-- The next code of Table 2-8 on the way to the last one. -/
def nextCode (c : BitVec 3) : BitVec 3 :=
  match c.toNat with
  | 0 => 1#3
  | 1 => 3#3
  | 3 => 2#3
  | _ => 6#3

def State.setCode (s : State) (c : BitVec 3) : State := { s with pwr := { s.pwr with progress := c } }

/-- The code of the stage that a store is in (Table 2-8). -/
def Store.code (t : Store) : BitVec 3 :=
  if t.wave = 0 then 0#3 else if t.wave = 1 then 1#3 else if t.wave ≤ t.waves then 3#3 else 2#3

/-- The code moves one stage towards `goal`. -/
def State.stepCode (s : State) (goal : BitVec 3) : State :=
  if s.pwr.progress = goal then s else s.setCode (nextCode s.pwr.progress)

/-! Checkpoints (R124, R127) -/

/-- A checkpoint request is pending: CKPT of H0, or a CHECKPOINT descriptor that has not committed. -/
def State.ckptPending (s : State) : Bool :=
  s.flag Reg.VOL_CTL_CKPT || s.flights.any (fun f => decide (f.op = .checkpoint ∧ f.stage = .checkpoint) && f.open_)

/-- A flight that waits for a checkpoint. -/
def Flight.waitsCkpt (f : Flight) : Bool := decide (f.op = .checkpoint ∧ f.stage = .checkpoint) && f.open_

/-- It may join one: a descriptor waits while its host's link retrains (R159). -/
def State.ckptOpen (s : State) (f : Flight) : Bool := f.waitsCkpt && !(s.host f.host).retraining

/-- A pending request starts a checkpoint. -/
def State.ckptStarts (s : State) : Bool := s.flag Reg.VOL_CTL_CKPT || s.flights.any s.ckptOpen

/-- Every pending request joins the store that starts; CHECKPOINT descriptors commit (Table 6-7). -/
def State.joinCkpt (s : State) : State :=
  let s1 := s.put Reg.VOL_CTL_CKPT 0
  { s1 with flights := s1.flights.map (fun (f : Flight) => if s.ckptOpen f then { f with committed := true, moved := 1 } else f) }

/-- A flight that a running store serves. -/
def Flight.inStore (f : Flight) : Bool := decide (f.op = .checkpoint ∧ f.moved = 1) && f.compl.isNone

/-- Fix the flights a test names with one status and result, and write what may be written. -/
def State.fixAll (s : State) (p : Flight → Bool) (c : Compl) : State :=
  ({ s with flights := s.flights.map (fun (f : Flight) =>
      if p f then { f with compl := some c, committed := true, stage := .done } else f) } : State).retireAll

/-- Pending requests end BAD_RANGE with RESULT 0 because VOL_NEXT is too high (R124, R128). -/
def State.refuseCkpt (s : State) : State :=
  (s.put Reg.VOL_CTL_CKPT 0).fixAll s.ckptOpen { status := Status.badRange }

/-- Held partition writes and forward ends are applied after the seal (R127). -/
def State.applyHeldAll (s : State) : State :=
  s.heldWrites.foldl State.applyHeld { s with heldWrites := [] }

/-- A store starts. -/
def State.storeBegin (s : State) (cause : Cause) (fromVin : Bool) (channel : Nat) : State :=
  { s with store := some { cause := cause, fromVin := fromVin, channel := channel } }

end Sys2Proof.Machine
end

