-- ==== Sys2Proof/Machine/SupOps.lean ====
section
/-! DEFINITION. Supervision and sequencing (spec/05): channel arming, the first-fail latch and its log, enables, the rail
script and its application. -/

namespace Sys2Proof.Machine
open Sys2Proof

/-! Enables (R72, R150) -/

/-- The present level of ENg. -/
def State.enHigh (s : State) (g : Nat) : Bool := bit (s.get Reg.SUP_EN_LEVEL) g

/-- The enables that the wake section raises. -/
def wakeRaises (steps : List ScriptStep) : List Nat :=
  steps.filterMap (fun (x : ScriptStep) => match x.op with | .raise g _ => if x.shutdown then none else some g | _ => none)

/-- Bits of the enables that the wake section does not raise. -/
def freeMask (steps : List ScriptStep) : Nat := ((List.range 8).filter (fun g => !(wakeRaises steps).contains g)).foldl (fun a g => a + 2 ^ g) 0

/-- SHED of SUP_EN: the enables marked for shedding, and every free enable (R150). -/
def shedMask (steps : List ScriptStep) : Nat :=
  let marked := steps.filterMap (fun (x : ScriptStep) => match x.op with | .raise g true => some g | _ => none)
  ((List.range 8).filter (fun g => marked.contains g || !(wakeRaises steps).contains g)).foldl (fun a g => a + 2 ^ g) 0

/-- The channels that an enable gates. -/
def State.gatedBy (s : State) (g : Nat) : List Nat :=
  (List.range 12).filter (fun c => decide (s.get (Reg.SUP_CTL_GATE c) = g))

/-- Disarm the channels that ENg gates (R140). -/
def State.disarmGate (s : State) (g : Nat) : State :=
  let m : BitVec 12 := BitVec.ofNat 12 ((s.gatedBy g).foldl (fun a c => a + 2 ^ c) 0)
  { s with pwr := { s.pwr with gateArmed := s.pwr.gateArmed &&& ~~~m } }

/-- Drive ENg low; a drop disarms its channels in that cycle. -/
def State.dropEn (s : State) (g : Nat) : State :=
  let s1 := (s.disarmGate g).put ((Reg.SUP_EN_LEVEL).at g) 0
  { s1 with pwr := { s1.pwr with raised := s1.pwr.raised.filter (fun x => decide (x ≠ g)) } }

/-- Drive ENg high. -/
def State.raiseEn (s : State) (g : Nat) : State :=
  let s1 := s.put ((Reg.SUP_EN_LEVEL).at g) 1
  { s1 with pwr := { s1.pwr with raised := g :: s1.pwr.raised.filter (fun x => decide (x ≠ g)) } }

/-- Every enable goes low. -/
def State.allLow (s : State) : State :=
  let s1 := s.put Reg.SUP_EN_LEVEL 0
  { s1 with pwr := { s1.pwr with raised := [], gateArmed := 0#12 } }

/-- In RUN and DRAIN a free enable follows its bit in SUP_FREE (R150). -/
def State.freeFollow (s : State) : State :=
  if s.serving then
    (List.range 8).foldl (fun (t : State) g =>
      if bit (freeMask s.pwr.steps) g then
        (if bit (t.get Reg.SUP_FREE_FREE) g then t.put ((Reg.SUP_EN_LEVEL).at g) 1 else (t.disarmGate g).put ((Reg.SUP_EN_LEVEL).at g) 0)
      else t) s
  else s

/-- The enables marked for shedding, free ones included, go low at Volley entry (R115). -/
def State.shed (s : State) : State :=
  (List.range 8).foldl (fun (t : State) g => if bit (shedMask s.pwr.steps) g then t.dropEn g else t) s

/-! Arming (R140) -/

/-- Channel c is armed. -/
def State.armed (s : State) (c : Nat) : Bool :=
  let st := s.pwr.st
  let gate := s.get (Reg.SUP_CTL_GATE c)
  s.flag (Reg.SUP_CTL_EN c) &&
    (if c = 0 ∨ c = 8 then
      decide (st = .waking ∨ st = .run ∨ st = .drain) ||
        (decide (c = 0 ∧ st = .volley) && (match s.store with | some t => decide (t.cause = .reset ∨ t.cause = .clock) | none => false))
    else if c = 1 ∨ c = 9 then decide (st = .standby ∨ st = .waking ∨ st = .run ∨ st = .drain ∨ st = .dark)
    else if gate = 15 then s.serving
    else decide (st ≠ .off ∧ st ≠ .volley) && s.enHigh gate && s.pwr.gateArmed.getLsbD c)

/-- ARMED of SUP_ARMED. -/
def State.armedBits (s : State) : Nat := (List.range 12).foldl (fun a c => a + b2n (s.armed c) * 2 ^ c) 0

/-! First-fail capture (R151, R152) -/

/-- The first-fail latch captures, or OVERRUN is set. -/
def State.capture (s : State) (c : Nat) (high timeout : Bool) : State :=
  if s.flag Reg.SUP_FIRST_SPILL_PENDING then s.supEvent Reg.SUP_EVENT_OVERRUN
  else
    let w := 2 ^ 17 + b2n timeout * 2 ^ 16 + b2n high * 2 ^ 15 + c * 2 ^ 11 + s.pwr.st.code * 2 ^ 8 + 2 ^ 7 +
      b2n (s.flag Reg.RTC_STATUS_OSF) * 2 ^ 6
    ((s.setReg 0x124 (BitVec.ofNat 18 w)).setReg 0x125 (BitVec.ofNat 18 s.stamp)).setReg 0x126 (BitVec.ofNat 18 (s.stamp / 2 ^ 18))

/-- Entry i of the first-fail log is valid, with its SEQ (Table 5-9). -/
def State.logEntry (s : State) (i : Nat) : Option Nat :=
  let ws := (List.range 4).map (fun k => s.keepArray (0x1080 + 4 * (i % 16) + k))
  let q := (ws.getD 0 0#18).toNat / 256 % 256
  if ws.all (fun w => decide (tagOf w = tagCommitted)) ∧ q % 16 = i % 16 then some q else none

/-- Entries of the run that ends in slot i, stepping back (R152). -/
def State.logRun (s : State) : Nat → Nat → Nat → Nat
  | 0, _, _ => 0
  | f + 1, i, q => 1 + (if s.logEntry (i + 15) = some ((q + 255) % 256) then State.logRun s f (i + 15) ((q + 255) % 256) else 0)

/-- SEQ of the newest entry of the first-fail log (R152). -/
def State.newestEntry (s : State) : Option Nat :=
  let cands := (List.range 16).filterMap (fun i =>
    match s.logEntry i with
    | some q => if s.logEntry (i + 1) = some ((q + 1) % 256) then none else some (s.logRun 16 i q, q)
    | none => none)
  (cands.foldl (fun (best : Option (Nat × Nat)) e =>
    match best with
    | none => some e
    | some b => if b.1 < e.1 then some e else some b) none).map (·.2)

/-- The four words of the next log entry from the latch (Table 5-9). -/
def State.spillWords (s : State) (seq : Nat) : List (BitVec 16) :=
  let t := s.get36 Reg.SUP_FIRST_T0 Reg.SUP_FIRST_T1
  [BitVec.ofNat 16 (seq * 2 ^ 8 + s.get Reg.SUP_FIRST_CHANNEL * 2 ^ 4 + s.get Reg.SUP_FIRST_SIDE * 2 ^ 3 +
      s.get Reg.SUP_FIRST_KIND * 2 ^ 2 + s.get Reg.SUP_FIRST_OSF * 2),
    BitVec.ofNat 16 t, BitVec.ofNat 16 (t / 2 ^ 16), BitVec.ofNat 16 (s.get Reg.SUP_FIRST_STATE * 2 ^ 13 + t / 2 ^ 32)]

/-- The conditions of R152 for writing a capture into the log. -/
def State.spillReady (s : State) : Bool :=
  let out8 := bit (s.get Reg.SUP_OUT_OUT) 8
  s.flag Reg.SUP_FIRST_SPILL_PENDING && !s.pwr.powerFail && s.store.isNone && !s.keepBusy && !out8 &&
    decide (s.pwr.st ≠ .off ∧ s.pwr.st ≠ .volley) && (s.vinGood || decide (s.pwr.st = .standby ∨ s.pwr.st = .dark))

/-- The page write of the first-fail log starts. -/
def State.spillStart (s : State) : State :=
  let q := match s.newestEntry with | some q => (q + 1) % 256 | none => 0
  s.pageStart .spill 66 ((indexed (s.spillWords q)).map (fun e => (4 * (q % 16) + e.1, e.2)))

/-! The rail script (R145 to R148) -/

/-- A step as the record holds it (Table 5-5). -/
structure RawStep where
  shutdown : Bool
  op : Nat
  arg : Nat
  shed : Bool
  count : Nat
  unit : Nat
  deriving DecidableEq, Repr

def RawStep.of (w0 w1 : Nat) : RawStep :=
  { shutdown := bit w0 15, op := bits w0 14 12, arg := bits w0 11 8, shed := bit w0 7, count := bits w1 13 0, unit := bits w1 15 14 }

/-- The µs of a step. -/
def RawStep.time (x : RawStep) : Nat :=
  x.count * (match x.unit with | 0 => 1 | 1 => 10 | 2 => 100 | _ => 1000)

def RawStep.step (x : RawStep) : ScriptStep :=
  { shutdown := x.shutdown, time := x.time,
    op := match x.op with
      | 1 => .raise x.arg x.shed
      | 2 => .drop x.arg
      | 3 => .waitPg x.arg
      | 4 => .delay
      | _ => .halt }

/-- A record's payload: thresholds, controls, warning, charger, steps. -/
def recordSteps (p : List Nat) : List RawStep :=
  (List.range (bits (p.getD 0 0) 4 0)).map (fun i => RawStep.of (p.getD (27 + 2 * i) 0) (p.getD (28 + 2 * i) 0))

/-- The conditions of R148 on the wake section's steps, from the enables raised before. -/
def wakeOk (ctl : Nat → Nat) : List RawStep → List Nat → Bool
  | [], _ => true
  | x :: r, up =>
    match x.op with
    | 1 => decide (x.arg ≤ 7) && !up.contains x.arg && wakeOk ctl r (x.arg :: up)
    | 3 => decide (x.arg ≤ 11 ∧ 1 ≤ x.count) && (decide (bits (ctl x.arg) 3 0 = 15) || up.contains (bits (ctl x.arg) 3 0)) && wakeOk ctl r up
    | 4 => wakeOk ctl r up
    | _ => false

/-- A user record may be applied (R148). -/
def scriptOk (p : List Nat) : Bool :=
  let n := bits (p.getD 0 0) 4 0
  let xs := recordSteps p
  let body := xs.dropLast
  let wake := body.takeWhile (fun x => !x.shutdown)
  let down := body.drop wake.length
  let ctl (c : Nat) : Nat := p.getD (13 + c) 0
  let up := (wake.filter (fun x => decide (x.op = 1))).map (·.arg)
  decide (bits (p.getD 0 0) 15 8 = 1 ∧ 2 ≤ n ∧ n ≤ 16) && decide ((xs.getLast?.map (·.op)) = some 0) &&
    body.all (fun x => decide (x.op ≠ 0)) && (xs.dropWhile (fun x => !x.shutdown)).all (·.shutdown) && wakeOk ctl wake [] &&
    down.all (fun x => decide (x.op = 4) || (decide (x.op = 2) && up.contains x.arg)) &&
    (List.range 12).all (fun c => decide (p.getD (1 + c) 0 % 256 < p.getD (1 + c) 0 / 256 % 256) &&
      decide (bits (ctl c) 3 0 ≤ 7 ∨ bits (ctl c) 3 0 = 15)) &&
    decide (50 ≤ p.getD 1 0 % 256 ∧ p.getD 1 0 % 256 ≤ 180 ∧ bits (ctl 0) 11 8 ≤ 8) &&
    decide (1 ≤ p.getD 26 0 % 8 ∧ p.getD 26 0 % 8 ≤ 5)

/-- A WARN code as stored: above SUP0's LO (R144). -/
def State.warnStored (s : State) (v : Nat) : Nat := if v ≤ s.get (Reg.SUP_LIM_LO 0) then s.get (Reg.SUP_LIM_LO 0) + 1 else v

/-- The valid record of pages 64 and 65, if one exists (R145). -/
def State.userRecord (s : State) : Option (List Nat) :=
  (s.chooseRecord 64).bind (fun c => if scriptOk c.payload then some c.payload else none)

/-- The steps of the default script (Table 5-7). -/
def defaultSteps : List ScriptStep :=
  let up (g : Nat) (sh : Bool) : ScriptStep := ⟨false, .raise g sh, 0⟩
  let pg (c : Nat) : ScriptStep := ⟨false, .waitPg c, 480⟩
  [up 0 false, pg 2, up 1 false, pg 3, up 2 true, pg 5, up 3 true, pg 6, up 4 false, pg 7, up 5 false, pg 4, ⟨false, .halt, 0⟩]

/-- SUP_LIM, SUP_CTL, SUP_WARN and ILIM from a record's payload. -/
def State.loadRecord (s : State) (p : List Nat) : State :=
  let s1 := (List.range 12).foldl (fun (t : State) c =>
    (t.setReg (0x100 + c) (BitVec.ofNat 18 (p.getD (1 + c) 0 % 65536))).setReg (0x110 + c) (BitVec.ofNat 18 (p.getD (13 + c) 0 % 8192 * 32))) s
  let w := p.getD 25 0
  ((s1.put Reg.SUP_WARN_READY_WARN (bits w 15 15)).put Reg.SUP_WARN_WARN (s1.warnStored (bits w 7 0))).put Reg.SUP_CHG_ILIM (p.getD 26 0 % 8)

/-- The default channel settings of Table 5-8. -/
def State.loadDefault (s : State) : State :=
  let s1 := (List.range 12).foldl (fun (t : State) c => (t.setReg (0x100 + c) (regReset (0x100 + c))).setReg (0x110 + c) (regReset (0x110 + c))) s
  (s1.setReg 0x129 (regReset 0x129)).put Reg.SUP_CHG_ILIM 5

/-- The steps that stand, with SHED and USER. -/
def State.setSteps (s : State) (steps : List ScriptStep) (user : Bool) : State :=
  let s1 := (s.put Reg.SUP_EN_SHED (shedMask steps)).put Reg.SUP_SCRIPT_USER (b2n user)
  { s1 with pwr := { s1.pwr with steps := steps } }

/-- Apply the rail script record at entry to STANDBY from OFF or to WAKING (R145). -/
def State.applyScript (s : State) : State :=
  match s.userRecord with
  | some p => (s.loadRecord p).setSteps ((recordSteps p).map RawStep.step) true
  | none => (s.loadDefault.setSteps defaultSteps false).supEvent Reg.SUP_EVENT_SCRIPT_BAD

/-- Apply the record on RELOAD (R145, Table 5-10): nothing changes but SCRIPT_BAD where it is missing or invalid; the steps of
a running sequence stay. -/
def State.reloadScript (s : State) : State :=
  match s.userRecord with
  | some p =>
    let s1 := s.loadRecord p
    (if s.pwr.seq = .idle then (s1.setSteps ((recordSteps p).map RawStep.step) true).freeFollow else s1).warnFollow
  | none => s.supEvent Reg.SUP_EVENT_SCRIPT_BAD

/-- What the sequencer stopped at after running every step that takes no time. -/
inductive Halt where
  | waiting | finished
  deriving DecidableEq, Repr

/-- STEP and RUNNING of SUP_SCRIPT. -/
def State.showStep (s : State) (running : Bool) : State :=
  (s.put Reg.SUP_SCRIPT_RUNNING (b2n running)).put Reg.SUP_SCRIPT_STEP s.pwr.pos

/-- The next step of the section that runs (R146, R149). -/
def State.nextPos (s : State) : State := { s with pwr := { s.pwr with pos := s.pwr.pos + 1 } }

/-- Run steps from the present one until one takes time or the section ends. -/
def State.runSteps (s : State) (shutdown : Bool) : Nat → State × Halt
  | 0 => (s, .finished)
  | f + 1 =>
    match s.pwr.steps[s.pwr.pos]? with
    | none => (s, .finished)
    | some x =>
      if x.shutdown ≠ shutdown then (s, .finished)
      else match x.op with
        | .halt => (s, .finished)
        | .raise g _ => State.runSteps (s.raiseEn g).nextPos shutdown f
        | .drop g => State.runSteps (s.dropEn g).nextPos shutdown f
        | .waitPg _ => (s.showStep true, .waiting)
        | .delay => if x.time = 0 then State.runSteps s.nextPos shutdown f else (s.showStep true, .waiting)

/-- The step that runs. -/
def State.curStep (s : State) : Option ScriptStep := s.pwr.steps[s.pwr.pos]?

end Sys2Proof.Machine
end

