-- ==== Sys2Proof/Machine/UpkeepOps.lean ====
section
/-! DEFINITION. Shared operations of upkeep (spec/15): Sweeper's units, windows and cycles, firmware images, their boot and
the version floor. -/

namespace Sys2Proof
open Sys2Proof.Machine

/-- A unit of Table 15-1 as Sweeper's progress names it: a measured value is no part of it. -/
def SwpTest.unit : SwpTest → SwpTest
  | .crystal _ => .crystal 0
  | t => t

/-- The TESTS bit of a test (Table 15-1). -/
def SwpTest.bitNo : SwpTest → Nat
  | .march .. => 0
  | .scratch .. => 1
  | .shadow .. => 2
  | .keepMargin .. => 3
  | .pcieEye .. => 4
  | .ecposiaEye .. => 5
  | .comparator .. => 6
  | .crystal .. => 7
  | .emitters .. => 8

end Sys2Proof

namespace Sys2Proof.Machine
open Sys2Proof

/-! Sweeper's units (Table 15-1) -/

/-- The position of the spare among a region's nine clusters. -/
def spareCluster : Nat := 8

/-- The spare of a region is idle and sound (R356). -/
def State.spareIdle (s : State) (r : Nat) : Bool :=
  !s.flag (Reg.PART_REGION_SPARED r) && !s.flag (Reg.PART_REGION_SPARE_BAD r) && !s.dev.copies.any (fun c => decide (c.region = r))

/-- The region is never tested again: it is RETIRING or RETIRED (R355). -/
def State.regionGone (s : State) (r : Nat) : Bool := decide (s.rstate r = RState.retiring ∨ s.rstate r = RState.retired)

/-- Sweeper takes no window in the region now (R355). -/
def State.swpExcluded (s : State) (r : Nat) : Bool :=
  s.ringTouches r || s.holdsMove r || (s.dev.reloc.isSome && decide (r = 63)) || decide (s.dev.reloc = some r) || s.dev.copies.any (fun c => decide (c.region = r)) || s.regionGone r || s.waveRegions.contains r

/-- The plane of a region other than its keep plane (R111). -/
def State.otherPlane (s : State) (r : Nat) : Bool := s.targetPlane s.seals r

/-- Firmware cluster f is in service. -/
def State.cluOn (s : State) (f : Nat) : Bool := bit (s.get Reg.FW_STAT_CLU_ON) f

/-- A host's link is in L0 (Table 15-1). -/
def State.inL0 (s : State) (h : PHost) : Bool := s.hostExists h && (s.host h).up && !(s.host h).l1

/-- The unit is one of the cycle's units. -/
def State.unitExists (s : State) (t : SwpTest) : Bool :=
  bit (s.get Reg.SWP_CTL_TESTS) t.bitNo && match t with
  | .march r c _ => !s.regionGone r.val && (decide (c.val < 8) || s.spareIdle r.val)
  | .scratch f _ => s.cluOn f.val
  | .shadow r _ _ b => !s.regionGone r.val && decide (b = s.otherPlane r.val)
  | .keepMargin _ => true
  | .pcieEye h l => s.inL0 h && decide (l.val < s.get (Reg.HOST_LINK_WIDTH h.val))
  | .ecposiaEye n _ => s.stnEnabled n.val
  | .comparator _ => true
  | .crystal _ => true
  | .emitters n => s.stnEnabled n.val

/-- The number of units of the cycle's test t. -/
def State.unitsOf (s : State) (t : Nat) : Nat :=
  let live := (List.range 64).filter (fun r => !s.regionGone r)
  let stations := ((List.range 8).filter s.stnEnabled).length
  if !bit (s.get Reg.SWP_CTL_TESTS) t then 0
  else match t with
    | 0 => (live.map (fun r => (if s.spareIdle r then 9 else 8) * 2048)).sum
    | 1 => 256 * popcount 4 (s.get Reg.FW_STAT_CLU_ON)
    | 2 => live.length * 144
    | 3 => 32768
    | 4 => (s.existing.map (fun h => if s.inL0 h then s.get (Reg.HOST_LINK_WIDTH h.val) else 0)).sum
    | 5 => 8 * stations
    | 6 => 12
    | 7 => 1
    | _ => stations

/-- The number of the cycle's units. -/
def State.unitCount (s : State) : Nat := ((List.range 9).map s.unitsOf).sum

/-- The units of test t, or of all, tested so far. -/
def State.doneOf (s : State) (t : Nat) : Nat := (s.dev.swept.filter (fun u => s.unitExists u && decide (u.bitNo = t))).length
def State.unitsDone (s : State) : Nat := (s.dev.swept.filter s.unitExists).length

/-- Sweeper may run: enabled, in RUN, with no life-cycle wipe (R352, R372). -/
def State.swpOn (s : State) : Bool := decide (s.pwr.st = .run) && s.flag Reg.SWP_CTL_EN && !s.flag Reg.ID_LC_WIPING

/-- Sweeper runs with a cycle active (R353). -/
def State.sweeping (s : State) : Bool := s.swpOn && s.flag Reg.SWP_STAT_ACTIVE

/-! Windows of the array and of the scratchpads (R355 to R357) -/

/-- A window was yielded less than 10 ms ago: 11 steps of 1/1024 s have not passed. -/
def State.resting (s : State) (pad : Bool) (r c w : Nat) : Bool :=
  s.fw.yielded.any (fun e => decide (e.1.pad = pad ∧ e.1.region = r ∧ e.1.cluster = c ∧ e.1.window = w) &&
    decide ((s.stamp + 2 ^ 36 - e.2) % 2 ^ 36 < 11))

/-- The window may be taken now. -/
def State.takeable (s : State) (r : Fin 64) (c : Fin 9) (w : Nat) : Bool :=
  s.unitExists (.march r c (BitVec.ofNat 11 w)) && !s.dev.swept.contains (.march r c (BitVec.ofNat 11 w)) && !s.swpExcluded r.val &&
    !s.resting false r.val c.val w

/-- The first window from w up that may be taken in a cluster. -/
def State.firstWindow (s : State) (r : Fin 64) (c : Fin 9) : Nat → Nat → Option Nat
  | 0, _ => none
  | f + 1, w => if s.takeable r c w then some w else State.firstWindow s r c f (w + 1)

/-- The clusters of all regions in ascending order. -/
def allClusters : List (Fin 64 × Fin 9) := (List.finRange 64).flatMap (fun r => (List.finRange 9).map (fun c => (r, c)))

/-- The lowest untested window that may be taken: of the array, with an idle, sound spare by the redirect method, or else of a
scratchpad (log entry 60). -/
def State.nextWindow (s : State) : Option SwpWindow :=
  match allClusters.findSome? (fun (p : Fin 64 × Fin 9) =>
      if s.swpExcluded p.1.val then none else (s.firstWindow p.1 p.2 2048 0).map (fun w => (p.1.val, p.2.val, w))) with
  | some (r, c, w) => some ⟨r, c, w, s.spareIdle r && decide (c ≠ spareCluster), false, false⟩
  | none =>
    (List.finRange 4).findSome? (fun f => ((List.range 256).find? (fun w =>
        s.unitExists (.scratch f (BitVec.ofNat 8 w)) && !s.dev.swept.contains (.scratch f (BitVec.ofNat 8 w)) && !s.resting true 0 f.val w)).map
      (fun w => ⟨0, f.val, w, false, false, true⟩))

/-- Sweeper takes the next window. -/
def State.takeWindow (s : State) : State :=
  if s.sweeping && s.fw.window.isNone then { s with fw := { s.fw with window := s.nextWindow } } else s

/-- Sweeper gives its window back without a yield. -/
def State.dropWindow (s : State) : State := { s with fw := { s.fw with window := none } }

/-! Cycles (R353) -/

/-- The cycle that runs ends (R353). -/
def State.cycleOver (s : State) : State :=
  let mins := (s.stamp + 2 ^ 36 - s.dev.swpStart) % 2 ^ 36 / 61440
  let s1 := ((s.bump Reg.SWP_CYCLES_COUNT).put Reg.SWP_LASTCYC_MINUTES (min mins 262143)).putAll
    [(Reg.SWP_STAT_ACTIVE, 0), (Reg.SWP_STAT_PCT, 100)]
  (({ s1 with dev := { s1.dev with swept := [] } } : State).dropWindow).swpEvent Reg.SWP_EVENT_CYCLE

/-- A new cycle starts; one that has no unit to test ends at once. -/
def State.cycleStart (s : State) : State :=
  let s1 := s.dropWindow.putAll [(Reg.SWP_STAT_ACTIVE, 1), (Reg.SWP_STAT_LAG, 0), (Reg.SWP_STAT_PCT, 0)]
  let s2 : State := { s1 with
    dev := { s1.dev with swept := [], swpStart := s1.stamp }
    stns := (List.range 8).foldl (fun (m : Map Stn) n => Map.set (fun _ => {}) m n { s1.stn n with emitted := 0, eye := none }) s1.stns }
  if s2.unitCount = 0 then s2.cycleOver else s2.takeWindow

/-- The first cycle after a wake starts, or goes on from the restored position. -/
def State.cycleResume (s : State) : State :=
  if s.flag Reg.SWP_CTL_EN then
    if s.dev.swept.isEmpty then s.cycleStart else (s.put Reg.SWP_STAT_ACTIVE 1).takeWindow
  else s

/-- A cycle is due while one runs: LAG rises. -/
def State.cycleLag (s : State) : State :=
  if s.flag Reg.SWP_STAT_LAG then s else (s.put Reg.SWP_STAT_LAG 1).swpEvent Reg.SWP_EVENT_LAG

/-- The cycle has tested every unit: it ends, and one that is due starts. -/
def State.cycleEnd (s : State) : State := if s.flag Reg.SWP_STAT_LAG then s.cycleOver.cycleStart else s.cycleOver

/-- The running cycle goes on, or ends when every unit that it now has is tested. -/
def State.cycleGo (s : State) : State :=
  if !s.sweeping then s
  else if s.unitCount ≤ s.unitsDone then s.cycleEnd
  else (s.put Reg.SWP_STAT_PCT (100 * s.unitsDone / s.unitCount)).takeWindow

/-- The window of a march is the one that Sweeper holds. -/
def State.holdsWindow (s : State) (t : SwpTest) : Bool :=
  match s.fw.window, t with
  | some x, .march r c w => !x.pad && decide (x.region = r.val ∧ x.cluster = c.val ∧ x.window = w.toNat)
  | some x, .scratch f w => x.pad && decide (x.cluster = f.val ∧ x.window = w.toNat)
  | _, _ => false

/-- A unit has been tested: it counts, and the cycle goes on or ends. -/
def State.unitTested (s : State) (t : SwpTest) : State :=
  let u := t.unit
  let s1 : State := if s.dev.swept.contains u then s else { s with dev := { s.dev with swept := s.dev.swept ++ [u] } }
  (if s1.holdsWindow t then s1.dropWindow else s1).cycleGo

/-- An Ecposia eye may run over a station: enabled, not armed, disarmed for at least 10 s, its link UP (Table 15-1). -/
def State.eyeRuns (s : State) (n : Nat) : Bool :=
  s.stnEnabled n && !s.stnArmed n && s.linkUp n && decide (10240 ≤ (s.stamp + 2 ^ 36 - (s.stn n).disarmed) % 2 ^ 36)

/-- Some unit of test t may be tested now, as far as the conditions of Table 15-1 that hold for more than one unit go. -/
def State.testMay (s : State) (t : Nat) : Bool :=
  match t with
  | 3 => !s.keepBusy
  | 4 => s.existing.any (fun h => s.inL0 h && !(s.host h).retraining)
  | 5 => (List.range 8).any s.eyeRuns
  | 7 => !s.flag Reg.RTC_STATUS_OSF
  | 8 => (List.range 8).any (fun n => s.stnEnabled n && !s.stnArmed n)
  | _ => decide (2 ≤ t)

/-- TEST of SWP_STAT: the test of the window that Sweeper holds, else the first one with a unit left that may be tested (log entry
62). -/
def State.testShown (s : State) : Nat :=
  if !s.sweeping then 0
  else match s.fw.window with
    | some w => if w.pad then 2 else 1
    | none => (((List.range 9).find? (fun t => s.testMay t && decide (s.doneOf t < s.unitsOf t))).map (· + 1)).getD 0

/-! Firmware images (R360 to R362) -/

/-- A header of Table 15-4. -/
structure ImageHeader where
  format : Nat
  compat : Nat
  version : Nat
  floor : Nat
  length : Nat
  digest : BitVec 256
  r : BitVec 256
  s : BitVec 256
  zero : Bool
  deriving DecidableEq, Repr

/-- The 32 bytes of a SHA-256 hash as sha256 gives them, first byte most significant (log entry 61). -/
def be256 (bs : List Byte) : BitVec 256 := BitVec.ofNat 256 (leNat bs.reverse)

/-- A number of 32 bytes, little-endian (Table 15-4, R17). -/
def le256 (bs : List Byte) : BitVec 256 := BitVec.ofNat 256 (leNat bs)

/-- The header in the first 256 bytes of an image. -/
def headerOf (bs : List Byte) : ImageHeader :=
  let f (a n : Nat) : List Byte := (bs.drop a).take n
  { format := leNat (f 0 2), compat := leNat (f 2 2), version := leNat (f 4 4), floor := leNat (f 8 4), length := leNat (f 12 4),
    digest := be256 (f 16 32), r := le256 (f 64 32), s := le256 (f 96 32),
    zero := (f 48 16).all (fun b => decide (b = 0#8)) && (f 128 128).all (fun b => decide (b = 0#8)) }

/-- Byte address of a firmware slot (Table 3-9). -/
def slotBase (k : Nat) : Nat := 0x7F000000 + 0x400000 * k

/-- Bytes of region 63 as the device reads them (R82). -/
def State.devBytes (s : State) (a n : Nat) : List Byte :=
  (List.range n).map (fun i => (wordBytes (s.w18 ((a + i) / 2))).1.getD ((a + i) % 2) 0#8)

/-- The header of slot k. -/
def State.slotHeader (s : State) (k : Nat) : ImageHeader := headerOf (s.devBytes (slotBase k) 256)

/-- The signature check of R360 over header bytes 0x00 to 0x3F. -/
def sigOk (bs : List Byte) : Bool :=
  let h := headerOf bs
  Config.firmwareSigOk (sha256 (bs.take 64)) h.r h.s

/-- The digest check of an image. -/
def digestOk (bs : List Byte) : Bool :=
  let h := headerOf bs
  decide (sha256 ((bs.drop 256).take h.length) = h.digest)

/-- The whole image in slot k. -/
def State.slotBytes (s : State) (k : Nat) : List Byte := s.devBytes (slotBase k) (256 + (s.slotHeader k).length)

/-- The device reads the whole image in slot k (R82, R357). -/
def State.meetSlot (s : State) (k : Nat) : State := s.meetCws ((256 + (s.slotHeader k).length + 7) / 8) (slotBase k / 8)

/-- Digest and signature of slot k verify. -/
def State.slotGood (s : State) (k : Nat) : Bool := digestOk (s.slotBytes k) && sigOk (s.slotBytes k)

/-- States of a slot (FW_SLOT_s). -/
def slotEmpty : Nat := 0
def slotLoading : Nat := 1
def slotValid : Nat := 2
def slotRejected : Nat := 3
def slotBootFail : Nat := 4

def State.slotState (s : State) (k : Nat) : Nat := s.get (Reg.FW_SLOT_STATE k)
def State.slotVersion (s : State) (k : Nat) : Nat :=
  s.get (Reg.FW_VER_LO_VERSION k) + 2 ^ 18 * s.get (Reg.FW_VER_HI_VERSION k)

/-- The image that runs: 2 the golden one. -/
def goldenImage : Nat := 2

/-- What R362 boots: the VALID slot with the higher version, slot 0 when equal, else the golden image. -/
def State.bootChoice (s : State) : Nat :=
  let v (k : Nat) : Bool := decide (s.slotState k = slotValid)
  if v 0 && (!v 1 || decide (s.slotVersion 1 ≤ s.slotVersion 0)) then 0 else if v 1 then 1 else goldenImage

/-- The floor (R361, R362). -/
def State.fwFloor (s : State) : Nat := s.get Reg.FW_FLOOR_LO_FLOOR + 2 ^ 18 * s.get Reg.FW_FLOOR_HI_FLOOR

/-- STATE of ID_LC is FIELD (Table 15-9). -/
def State.inField (s : State) : Bool := decide (s.get Reg.ID_LC_STATE = 1)

/-- In FIELD the floor rises to a slot's FLOOR (R362). -/
def State.raiseFloor (s : State) (k : Nat) : State :=
  if s.inField && decide (k < 2) then
    let f := max s.fwFloor (s.slotHeader k).floor
    (s.put Reg.FW_FLOOR_LO_FLOOR (f % 2 ^ 18)).put Reg.FW_FLOOR_HI_FLOOR (f / 2 ^ 18)
  else s

/-- COMPAT of image k. -/
def State.compatOf (s : State) (k : Nat) : Nat := if k < 2 then (s.slotHeader k).compat else Config.goldenCompat.toNat

/-- The clusters of which at least three cores are in service (R366), bit f. -/
def clustersOf (cores : Nat) : Nat :=
  [0, 1, 2, 3].foldl (fun acc f => acc + b2n (decide (3 ≤ popcount 4 (cores / 16 ^ f))) * 2 ^ f) 0

/-- Cluster f hands its mailbox channels over, each to another cluster in service: a free choice (R363, R366, log entry 7).
Beside the state, the channels that moved. -/
def State.handOver (s : State) (f : Nat) : State × List Nat :=
  let others := [0, 1, 2, 3].filter (fun g => decide (g ≠ f) && s.cluOn g)
  if others.isEmpty then (s, [])
  else (List.range 5).foldl (fun (acc : State × List Nat) c =>
    if acc.1.get (Reg.MB_STAT_SERVER c) = f then
      let w := acc.1.drawWord
      (w.2.put (Reg.MB_STAT_SERVER c) (others.getD (w.1.toNat % others.length) 0), acc.2 ++ [c])
    else acc) (s, [])

/-- The image that is booted is read (R362). -/
def State.bootRead (s : State) : State := if s.bootChoice < 2 then s.meetSlot s.bootChoice else s

/-- The image being booted has reported ready: the cores that passed their test at boot, bit 4f + k, are in service, and every
cluster that keeps three of them runs the image; the channels of the others go to those (R362, R366). -/
def State.bootDone (s : State) (cores : Nat) : State :=
  let k := s.bootChoice
  let on := clustersOf cores
  let s1 := (s.putAll [(Reg.FW_STAT_RUN, k), (Reg.FW_STAT_CLU_ON, on), (Reg.FW_CORES_ON, cores),
    (Reg.SWP_FAULT_CORE, b2n (decide (cores ≠ 0xFFFF))), (Reg.SWP_FAULT_FWC, b2n (decide (on ≠ 15)))]).raiseFloor k
  let s2 := ((List.range 4).filter (fun f => !bit on f)).foldl (fun (t : State) f => (t.handOver f).1) s1
  { s2 with pwr := { s2.pwr with booted := true } }

/-- The image being booted has not reported ready: a slot is BOOT_FAIL and the next candidate boots (R362). -/
def State.bootFail (s : State) : State :=
  let k := s.bootChoice
  if k < 2 then
    let s1 := (s.put (Reg.FW_SLOT_STATE k) slotBootFail).log 9 5 k 0 0
    { s1 with pwr := { s1.pwr with bootTry := s1.pwr.bootTry ++ [k] } }
  else s

end Sys2Proof.Machine
end

