-- ==== Sys2Proof/Machine/DescData.lean ====
section
/-! DEFINITION. The commands of descriptors that move data, and of MOVE (spec/03, spec/07). An event whose condition does not hold
leaves the state as it is (log entry 13). -/

namespace Sys2Proof.Machine
open Sys2Proof

/-- NOP (R193). -/
def execNop (h : PHost) (j : Ring) (d : Desc) (s : State) : Host.Outcome State Fault Refusal :=
  .next (s.descArrive h j .nop d {} [])

/-- WRITE (R82, R193). -/
def execWrite (h : PHost) (j : Ring) (d : Desc) (data : HostData) (ups : List Upset) (s : State) : Host.Outcome State Fault Refusal :=
  .next (s.descArrive h j .write d data ups)

/-- READ (R82, R193). -/
def execRead (h : PHost) (j : Ring) (d : Desc) (ups : List Upset) (s : State) : Host.Outcome State Fault Refusal :=
  .next (s.descArrive h j .read d {} ups)

/-- A corrected codeword is rewritten (R82): its cells are sound again. -/
def State.rewriteCorrected (s : State) (cw : Nat) : State :=
  let m := s.cwImage cw
  if m.eccOf (cwIndex cw) = 1 then s.setCwImage cw (m.setEcc (cwIndex cw) 0) else s

/-- A corrected codeword is rewritten in the cluster's next free slot (R82), outside its region's checkpoint wave (R125). -/
def execCorrectedRewrite (codeword : BitVec 28) (s : State) : Host.Outcome State Fault Refusal :=
  .next (if s.serving ∧ ¬s.waits (cwRegion codeword.toNat) true then s.rewriteCorrected codeword.toNat else s)

/-- COPY (R193). -/
def execCopy (h : PHost) (j : Ring) (d : Desc) (ups : List Upset) (s : State) : Host.Outcome State Fault Refusal :=
  .next (s.descArrive h j .copy d {} ups)

/-- FILL (R194). -/
def execFill (h : PHost) (j : Ring) (d : Desc) (ups : List Upset) (s : State) : Host.Outcome State Fault Refusal :=
  .next (s.descArrive h j .fill d {} ups)

/-- WORD18 WRITE (R83, R193). -/
def execWord18Write (h : PHost) (j : Ring) (d : Desc) (data : HostData) (ups : List Upset) (s : State) :
    Host.Outcome State Fault Refusal :=
  .next (s.descArrive h j .word18Write d data ups)

/-- WORD18 READ (R83, R193). -/
def execWord18Read (h : PHost) (j : Ring) (d : Desc) (ups : List Upset) (s : State) : Host.Outcome State Fault Refusal :=
  .next (s.descArrive h j .word18Read d {} ups)

/-- MOVE is checked and starts, or is refused (R101, R103). -/
def execMove (h : PHost) (j : Ring) (d : Desc) (s : State) : Host.Outcome State Fault Refusal :=
  .next (s.descArrive h j .move d {} [])

/-- The codewords of a region with two bits in error are marked as they are read (R82, R83, R98). -/
def State.markRegion (s : State) (r : Nat) : State :=
  (((s.image (s.physOf r)).ecc.filter (fun e => decide (e.2.val = 2))).map (·.1)).foldl (fun (t : State) i =>
    t.markCodeword (r * 2 ^ 22 + i)) s

/-- The first and the last codeword of a region. -/
def firstCw (r : Nat) : Nat := r * 2 ^ 22
def lastCw (r : Nat) : Nat := r * 2 ^ 22 + (2 ^ 22 - 1)

/-- The MOVE of entry n in its copy phase. -/
def State.moveFlight (s : State) (n : Nat) : Option (Nat × Flight) :=
  s.findFlight (fun f => decide (f.op = .move ∧ f.stage = .moveCopy ∧ f.result = n) && f.open_)

/-- The last codeword of entry n's MOVE is copied (R101, phase 3): the destination holds the source's words and is ASSIGNED,
the source is FORWARD, MOVE_DONE reaches the issuer (R395). -/
def State.moveSwitch (s : State) (n : Nat) (ups : List Upset) : State :=
  let src := s.get (Reg.ARR_MOVE_SRC n)
  let dst := s.get (Reg.ARR_MOVE_DST n)
  let s1 := (s.upsets ups (firstCw src) (lastCw src)).markRegion src
  let c := copyImage (s1.image src) false
  let s2 := (s1.setImage src { s1.image src with ecc := c.1.ecc }).setImage dst c.1
  let s3 := (s2.setRstate dst RState.assigned).setRstate src RState.forward
  let s4 := (s3.put (Reg.ARR_MOVE_PHASE n) 2).arrLast 5 15 src
  let s5 := s4.arrEvent Reg.ARR_EVENT_MOVE_DONE (hostOf (s4.get (Reg.ARR_MOVE_OWNER n))).toList
  match s5.moveFlight n with
  | some (i, _) =>
    (s5.fixFlight i { status := if c.2.1 then Status.doneCorrected else Status.done, result := BitVec.ofNat 64 n }).retireLate dst
  | none => s5.retireLate dst

/-- The MOVE of entry n waits: the link of its host retrains (R159). -/
def State.moveHeld (s : State) (n : Nat) : Bool :=
  match s.moveFlight n with
  | some (_, f) => (s.host f.host).retraining
  | none => false

/-- The last codeword of a MOVE is copied (R101). -/
def execMoveForward (n : Fin 8) (ups : List Upset) (s : State) : Host.Outcome State Fault Refusal :=
  .next (if s.serving ∧ s.get (Reg.ARR_MOVE_PHASE n.val) = 1 ∧ ¬s.moveHeld n.val ∧ ¬s.waits (s.get (Reg.ARR_MOVE_DST n.val)) true then
      ((s.moveSwitch n.val ups).settle.watch s).cycleGo
    else s)

/-- A MOVE's copy has not ended after 1 s: TIMEOUT, the destination cleared (Table 3-8). -/
def execMoveTimeout (n : Fin 8) (s : State) : Host.Outcome State Fault Refusal :=
  .next (match s.moveFlight n.val with
    | some (i, f) => if s.serving then (s.stopFlight i f Status.timeout).settle else s
    | none => s)

/-- END of ARR_MOVE_n, from the entry's owner while PHASE is FORWARD: at once, or held by a checkpoint (R102, R127). -/
def State.forwardEnd (s : State) (x : Sender) (n : Nat) : State :=
  if s.get (Reg.ARR_MOVE_PHASE n) = 2 ∧ x.toNat = s.get (Reg.ARR_MOVE_OWNER n) then
    ((s.partWrite (0x410 + n, 0x20000#18, x)).settle.watch s).cycleGo
  else s

/-- The owner of a MOVE writes END (R102). -/
def execForwardEnd (from_ : Sender) (n : Fin 8) (s : State) : Host.Outcome State Fault Refusal :=
  .next (if s.reaches from_ (0x410 + n.val) true then s.forwardEnd from_ n.val else s)

end Sys2Proof.Machine
end

