-- ==== Sys2Proof/Machine/Array.lean ====
section
/-! DEFINITION. The commands of the persistent array (spec/03): partition writes, clears, replacement, relocation. An event whose
condition does not hold leaves the state as it is (log entry 13). -/

namespace Sys2Proof.Machine
open Sys2Proof

/-- A write to PART_ATTR_p or PART_REGION_r that may be made: applied under Table 3-4, or held by a checkpoint (R86, R127), with
what follows a change of the store set (R122, R135). -/
def State.partSet (s : State) (x : Sender) (a : Nat) (v : Word) : State :=
  if s.mayPart x then (((s.partWrite (a, v, x)).settle).watch s).cycleGo else s

/-- A write to PART_ATTR_p (R86). -/
def execPartAttr (from_ : Sender) (p : Fin 63) (value : Word) (s : State) : Host.Outcome State Fault Refusal :=
  .next (if s.reaches from_ (0x480 + p.val) true then s.partSet from_ (0x480 + p.val) value else s)

/-- A write to PART_REGION_r (R86). -/
def execPartRegion (from_ : Sender) (r : Fin 64) (value : Word) (s : State) : Host.Outcome State Fault Refusal :=
  .next (if s.reaches from_ (0x440 + r.val) true then s.partSet from_ (0x440 + r.val) value else s)

/-- A region's clear completes: the accesses that waited go on (R95). -/
def execRegionClearDone (r : Fin 64) (s : State) : Host.Outcome State Fault Refusal :=
  .next (({ s with clearing := s.clearing.filter (fun q => decide (q ≠ r.val)) } : State).settle)

/-- An active cluster meets a condition of R97. -/
def State.clusterFails (s : State) (r cluster cause : Nat) : State :=
  if s.serving then (((s.replace r cluster cause).settle).watch s).cycleGo else s

/-- A cluster has been slow for 1,000 intervals (R97). -/
def execClusterSlow (r : Fin 64) (cluster : Fin 8) (s : State) : Host.Outcome State Fault Refusal :=
  .next (s.clusterFails r.val cluster.val 1)

/-- A cluster's corrections exceed CE_LIMIT (R97). -/
def execEccLimit (r : Fin 64) (cluster : Fin 8) (s : State) : Host.Outcome State Fault Refusal :=
  .next (s.clusterFails r.val cluster.val 2)

/-- The codewords of a region's cluster as the live copy leaves them in the spare (R98): upset since their last access, uncorrectable
ones marked, corrected ones sound. They are region r's own also where it forwards (R101). -/
def State.spareCells (s : State) (c : LiveCopy) (ups : List Upset) : State :=
  let r := c.region
  let p := if r = 63 then s.phys63 else r
  let mine (cw : Nat) : Bool := decide (cw % 8 = c.cluster)
  let s1 := (ups.filter (fun u => mine u.codeword && decide (firstCw r ≤ u.codeword ∧ u.codeword ≤ lastCw r))).foldl (fun (t : State) u =>
    t.upsetIn p u) s
  let bad := ((s1.image p).ecc.filter (fun e => decide (e.2.val = 2) && mine e.1)).map (·.1)
  let s2 := bad.foldl (fun (t : State) i => t.markIn p r (r * 2 ^ 22 + i)) s1
  s2.setImage p { s2.image p with ecc := (s2.image p).ecc.filter (fun e => !(mine e.1 && decide (e.2.val = 1))) }

/-- The live copy of region r into its spare is complete (R98): SPARED, SPARE_IN and the log; a second condition met meanwhile retires
the region with its own cluster and cause (Table 3-7, R106). -/
def State.spareIn (s : State) (c : LiveCopy) (ups : List Upset) : State :=
  let r := c.region
  let s1 := s.spareCells c ups
  let s2 : State := { s1 with dev := { s1.dev with copies := s1.dev.copies.filter (fun (d : LiveCopy) => decide (d.region ≠ r)) } }
  let s3 := ((s2.put (Reg.PART_REGION_SPARED r) 1).put (Reg.PART_REGION_SPARED_FOR r) c.cluster).arrLast c.cause c.cluster r
  let s4 := (s3.arrEvent Reg.ARR_EVENT_SPARE_IN (s3.regionOwner r)).log 1 2 (c.cluster * 2 ^ 6 + r) 0 0
  match (s1.dev.copies.find? (fun (d : LiveCopy) => decide (d.region = r))).bind (·.again) with
  | some x => s4.retire r x.2 x.1
  | none => s4

/-- A live copy completes, outside its region's checkpoint wave (R98, R125). -/
def execLiveCopyDone (r : Fin 64) (ups : List Upset) (s : State) : Host.Outcome State Fault Refusal :=
  .next (match s.dev.copies.find? (fun c => decide (c.region = r.val)) with
    | some c => if s.serving ∧ ¬s.waveRegions.contains r.val then (((s.spareIn c ups).settle).watch s).cycleGo else s
    | none => s)

/-- Region 63's cells as its relocation copies them (R105). -/
def State.cells63 (s : State) (r : Nat) (ups : List Upset) : State :=
  let s1 := (s.upsets ups (firstCw 63) (lastCw 63)).markRegion 63
  s1.setImage r (copyImage (s1.image s1.phys63) false).1

/-- Region 63 is served from physical region r from now on (R105): its cells, PART_REGION_r RETIRED. SPARED, SPARE_BAD and SPARED_FOR
of PART_REGION_63 are then r's (log entry 99, DESIGN CHOICE). Of ARR_EVENT the relocation sets REGION63_RELOC alone, not RETIRED (log
entry 118, DESIGN CHOICE). -/
def State.serve63 (s : State) (r : Nat) (ups : List Upset) : State :=
  let s1 := s.cells63 r ups
  let s2 : State := { s1 with phys63 := r, dev := { s1.dev with reloc := none, failed := s1.dev.failed.filter (fun e => decide (e.1 ≠ r)) } }
  let s3 := s2.putAll [(Reg.PART_REGION_SPARED 63, s.get (Reg.PART_REGION_SPARED r)),
    (Reg.PART_REGION_SPARE_BAD 63, s.get (Reg.PART_REGION_SPARE_BAD r)),
    (Reg.PART_REGION_SPARED_FOR 63, s.get (Reg.PART_REGION_SPARED_FOR r))]
  let s4 := ((s3.leave r).setRstate r RState.retired).put (Reg.PART_REGION_PARTITION r) 0x3F
  (s4.arrLast 7 15 63).arrEvent Reg.ARR_EVENT_REGION63_RELOC []

/-- Region 63's relocation is complete, outside its checkpoint wave (R105, R106). -/
def execRegion63RelocDone (ups : List Upset) (s : State) : Host.Outcome State Fault Refusal :=
  .next (match s.dev.reloc with
    | some r => if s.serving ∧ ¬s.waveRegions.contains 63 then ((s.serve63 r ups).settle).watch s else s
    | none => s)

end Sys2Proof.Machine
end

