-- ==== Sys2Proof/Machine/ReturnOps.lean ====
section
/-! DEFINITION. Return (spec/04, R129 to R134): the hub's reset at rail completion, epoch selection, restore waves, clearing,
counter recovery and CUT marking. -/

namespace Sys2Proof.Machine
open Sys2Proof

/-! Reset of the hub and array dies -/

/-- The pins of the hosts, which a wake does not change, with the model's own counters. -/
def State.hostPins (s : State) : Map HostPort :=
  ([0, 1, 2, 3] : List PHost).foldl (fun (m : Map HostPort) h =>
    Map.set (fun _ => {}) m h.val
      { perstN := (s.host h).perstN, merges := (s.host h).merges, headers := (s.host h).headers }) []

/-- The levels of the encoder channels. -/
def State.encPins (s : State) : Map Encoder :=
  [0, 1].foldl (fun (m : Map Encoder) (e : Nat) =>
    Map.set (fun _ => {}) m e { ba := (Map.get (fun _ => {}) s.encs e : Encoder).ba }) []

/-- What the stations' boards keep over a wake: when each station was last disarmed. -/
def State.stnTimes (s : State) : Map Stn :=
  (List.range 8).foldl (fun (m : Map Stn) n => Map.set (fun _ => {}) m n { disarmed := (s.stn n).disarmed }) []

/-- The hub and array dies leave reset as the rail script completes: hub registers and hub state at their reset values, the
array without content, domain C waiting for its PLL (R20, R129, R233, R316, R318). HOLD_CAP takes its strap class (R62). Until
restore wave 1 the hot range is the last one in use (R300, log entry 112, DESIGN CHOICE). -/
def State.hubReset (s : State) : State :=
  let s1 := s.resetHub
  let s2 := s1.put Reg.VOL_HOLD_HOLD_CAP (if bit (s1.get Reg.ID_STRAP_MP) 3 then 470 else 1000)
  { s2 with
    arr := [], dev := {}, store := none, heldWrites := [], clearing := [], flights := [], stns := s.stnTimes, mboxes := [], poss := []
    hosts := s.hostPins
    encs := s.encPins
    led := {}
    keep := { s2.keep with hot := [], hotNext := none }
    fw := { tapUmber := s.fw.tapUmber, bndUmber := s.fw.bndUmber, wipePending := s.fw.wipePending, wipeStep := s.fw.wipeStep,
            wipePage := s.fw.wipePage }
    pwr := { s2.pwr with
      railDone := true, cpllLocked := false, sealsRead := false, restoreLeft := [], wave1Done := false, cleared := false
      counted := false, booted := false, bootTry := [], spll := true, backup := false, refclk0 := true, refclk1 := true } }

/-! Epoch selection (R130) -/

/-- The physical region that holds region 63 (R130); 63 when no seal carries it. -/
def phys63Of (xs : List Held) : Nat :=
  match newestSeal (xs.filter (fun x => decide (x.sl.region = 63))) with
  | some x => x.phys
  | none => 63

/-- The seal from which region r comes back. -/
def chosen (xs : List Held) (r : Nat) : Option (Held × Bool × Bool) := choosePlane xs (sealsOf xs r)

/-- Every seal block has been read: VOL_NEXT, VOL_ATOMIC, VOL_RETURN, INCOMPLETE, and the regions to restore (R107, R108,
R130, R136). Equal epochs in both planes of a region are logged. -/
def State.sealsDone (s : State) : State :=
  let xs := s.seals
  let next := match highestEpoch xs with | some e => min maxEpoch (e + 1) | none => 1
  let none63 := highestEpoch xs = some maxEpoch
  let s1 := s.put36 Reg.VOL_NEXT_LO Reg.VOL_NEXT_HI next
  let s2 := s1.put36 Reg.VOL_ATOMIC_LO Reg.VOL_ATOMIC_HI ((newestAtomic xs).getD 0)
  let s3 := s2.putAll [(Reg.VOL_RETURN_NO_ATOMIC, b2n (newestAtomic xs).isNone), (Reg.VOL_RETURN_TORN, b2n (atomicTorn xs)),
    (Reg.VOL_RETURN_NO_EPOCH, b2n none63)]
  let s4 := if s3.get Reg.VOL_LAST_RESULT ≠ 0 ∨ atomicTorn xs then s3.volEvent Reg.VOL_EVENT_INCOMPLETE else s3
  let rs := (63 :: List.range 63).filter (fun r => (chosen xs r).isSome)
  let s5 := ((List.range 64).filter (fun r => sealTie (sealsOf xs r))).foldl (fun (t : State) r => t.log 3 2 r 0 0) s4
  { s5 with phys63 := phys63Of xs, pwr := { s5.pwr with sealsRead := true, restoreLeft := rs } }

/-! Restore waves (R129, R131) -/

/-- The map shows the region as kept: ASSIGNED or RETIRING in a PERSIST partition. -/
def State.kept (s : State) (r : Nat) : Bool := s.stored r

/-- VOL_RSTAT of a restored region. -/
def State.rstatOf (s : State) (r : Nat) (c : Held × Bool × Bool) : State :=
  s.putAll [(Reg.VOL_RSTAT_SRC r, if c.1.planeB then 2 else 1), (Reg.VOL_RSTAT_RULE r, b2n c.2.1), (Reg.VOL_RSTAT_NEWER r, b2n c.2.2)]

/-- The tile cells that a plane holds for a physical region. -/
def State.planeImage (s : State) (b : Bool) (p : Nat) : Image := Map.get (fun _ => {}) (if b then s.planeB else s.planeA) p

/-- One region of a restore wave: restored, and cleared again where the map does not keep it; RETIRED and FORWARD regions are
neither restored nor cleared (R131). -/
def State.restoreRegion (s : State) (xs : List Held) (r : Nat) : State :=
  match chosen xs r with
  | none => s
  | some c =>
    if s.rstate r = RState.retired ∨ s.rstate r = RState.forward then s
    else if s.kept r then
      ((s.setImage r (s.planeImage c.1.planeB c.1.phys)).rstatOf r c).bump Reg.VOL_RETURN_RESTORED
    else (s.setImage r (Image.flat (s.clearedWord r))).rstatOf r c

/-- Region 63 and its device state: from its plane, or the never-stored values (R104, R131), with SRC 0 and no count in NOPLANE (log
entry 105, DESIGN CHOICE). -/
def State.restore63 (s : State) (xs : List Held) : State :=
  match chosen xs 63 with
  | some c =>
    let b := c.1.planeB
    let d : Dev := Map.get (fun _ => {}) (if b then s.devB else s.devA) c.1.phys
    let s1 := s.setImage c.1.phys (s.planeImage b c.1.phys)
    let s2 : State := { s1 with dev := d, regs := Map.setAll regReset s1.regs d.regs }
    (s2.rstatOf 63 c).bump Reg.VOL_RETURN_RESTORED
  | none => { s.setImage 63 (Image.flat 0#18) with dev := {} }

/-- A MOVE_DEST region, but for the target of region 63's relocation, is AVAILABLE again, and COPY entries are free
(Table 3-8). -/
def State.dropCopies (s : State) : State :=
  let s1 := ((List.range 8).filter (fun n => decide (s.get (Reg.ARR_MOVE_PHASE n) = 1))).foldl (fun (t : State) n => t.setReg (0x410 + n) 0#18) s
  ((List.range 63).filter (fun r => decide (s.rstate r = RState.moveDest ∧ s.dev.reloc ≠ some r))).foldl (fun (t : State) r =>
    ((t.setRstate r RState.available).put (Reg.PART_REGION_PARTITION r) 0x3F).retireLate r) s1

/-- A region that no wave restores: a PERSIST region without a plane is cleared with NO_PLANE (R96, R131); VOLATILE,
AVAILABLE and MOVE_DEST regions are cleared. -/
def State.clearAtWake (s : State) (xs : List Held) (r : Nat) : State :=
  if s.rstate r = RState.retired ∨ s.rstate r = RState.forward ∨ (chosen xs r).isSome then s
  else
    let s1 := s.setImage r (Image.flat (s.clearedWord r))
    if s.kept r then ((s1.bump Reg.VOL_RETURN_NOPLANE).put (Reg.VOL_RSTAT_SRC r) 3).arrLast 6 15 r else s1

/-- Hot memory and its range after wave 1 (R299, R301). -/
def State.restoreHot (s : State) (xs : List Held) : State :=
  let range := (s.get Reg.KEEP_HOT_FIRST, s.get Reg.KEEP_HOT_PAGES)
  let s1 : State := { s with keep := { s.keep with hotRange := range } }
  let hot := if (chosen xs 63).isSome then s1.dev.hot else s1.hotLoad range
  { s1 with keep := { s1.keep with hot := hot } }

/-- What wave 1 makes known: the partition map applies, moves are given up, a LOADING slot is EMPTY (Table 15-10), records of
hosts that do not exist are discarded (R187), and clearing starts (R96). -/
def State.mapApplies (s : State) (xs : List Held) : State :=
  let s1 := s.dropCopies
  let s2 := [0, 1].foldl (fun (t : State) k => if t.slotState k = slotLoading then t.put (Reg.FW_SLOT_STATE k) slotEmpty else t) s1
  let s3 : State := { s2 with dev := { s2.dev with replay := s2.dev.replay.filter (fun r => s2.hostExists r.host) } }
  (List.range 63).foldl (fun (t : State) r => t.clearAtWake xs r) (s3.restoreHot xs)

/-- A restore wave of up to 16 regions completes (R129); the first is never empty of effect. -/
def State.restoreWave (s : State) : State :=
  let xs := s.seals
  let wave := s.pwr.restoreLeft.take 16
  let s1 := if s.pwr.wave1Done then s else (s.restore63 xs).mapApplies xs
  let s2 := (wave.filter (fun r => decide (r ≠ 63))).foldl (fun (t : State) r => t.restoreRegion xs r) s1
  { s2 with pwr := { s2.pwr with wave1Done := true, restoreLeft := s.pwr.restoreLeft.drop 16 } }

/-- Return is complete: every restore wave has run. -/
def State.returned (s : State) : Bool := s.pwr.wave1Done && s.pwr.restoreLeft.isEmpty

/-! Counter recovery (R134, R281, R282) -/

/-- One counter against its Keep copy. -/
def State.recoverOne (s : State) (i v : Nat) : State :=
  if s.counter i < v then ((s.setCredit i (v - s.counter i)).setCounter i v).put Reg.VOL_RETURN_KEEP_RAISED 1 else s.setCredit i 0

/-- Every counter becomes the larger of its two values, and COPIES too, which names the pair of the last copy (R280, R287). -/
def State.recoverCounters (s : State) : State :=
  let s1 := match s.newestCopy with
    | some (copies, vs) =>
      ((List.range 16).foldl (fun (t : State) i => t.recoverOne i (vs.getD i 0)) s).setCopies (max s.copiesCount copies)
    | none => s
  let s2 := s1.put Reg.LED_KEEP_STAT_PAIR (s1.copiesCount / 2 ^ 20 % 64)
  { s2 with pwr := { s2.pwr with counted := true } }

/-! CUT marking (R284) -/

/-- Every open record is marked CUT, with the spoil POWER where MASK is not 0. -/
def State.markAllCut (s : State) : State :=
  let rs := s.openRecords
  let s1 := rs.foldl State.markCut s
  let s2 := s1.put Reg.LED_CUT_CUT rs.length
  if rs.isEmpty then s2 else s2.ledEvent Reg.LED_EVENT_CUT

end Sys2Proof.Machine
end

