-- ==== Sys2Proof/Machine/PowerOps.lean ====
section
/-! DEFINITION. The power states (spec/01, 02, 04, 05): entry to each, the STRAP phase, the wake and its rail script, DRAIN and
its shutdown, Volley entry and the end of a store, power-fail, resets and clock loss. -/

namespace Sys2Proof.Machine
open Sys2Proof

/-! STRAP phase (R48, R61, R64) -/

/-- A STRAP phase begins; its 16 µs run once RESET_N is high. -/
def State.strapBegin (s : State) (cold : Bool) : State :=
  { s with pwr := { s.pwr with
      strapOn := true, strapTimed := s.pwr.resetN, strapPending := false, strapFromOff := cold, samp1 := none, samp2 := none } }

/-- Stations enabled by a station count (R62): S0 up to S(count - 1), at most S3 on a 4C (R10). -/
def State.stationMask (s : State) (code : Nat) : Nat := 2 ^ (if s.is4C then min 4 (code + 1) else code + 1) - 1

/-- The STRAP phase ends: straps whose samples agree latch, the others latch 0 (R61, R62, R64); Umber registers take their
reset values at a cold reset (R350). With MP7 latched 0 the M-port balls are no TAP any more (Table 2-6). -/
def State.strapLatch (s : State) (a b : BitVec 8) : State :=
  let mp := (a &&& b).toNat
  let s1 := if s.pwr.strapFromOff then s else s.resetUmber true
  let mask := s1.stationMask (bits mp 6 4)
  let s2 := s1.putAll [(Reg.ID_STRAP_MP, mp), (Reg.ID_STRAP_ERR, (a ^^^ b).toNat), (Reg.ID_CONFIG_STN_EN, mask),
    (Reg.ID_CONFIG_NSTN, popcount 8 mask)]
  { s2 with
    fw := { s2.fw with tapUmber := if bit mp 7 then s2.fw.tapUmber else .bypass }
    pwr := { s2.pwr with strapOn := false, strapTimed := false, strapFromOff := false, samp1 := none, samp2 := none } }

/-! OFF, STANDBY and DARK -/

/-- What every entry to a state without rails leaves: enables low, nothing sequenced, the page buffer empty (R72, R295), the
links and stations without power. A record read that still waits for a page write is made when that ends, as for RELOAD (R145; log
entry 116, DESIGN CHOICE, for one that a wake began). -/
def State.unpower (s : State) : State :=
  let s1 := (s.allLow.clearBuffer).put Reg.SUP_SCRIPT_RUNNING 0
  { s1 with
    store := none, heldWrites := [], flights := [], hosts := s1.hostPins, stns := s1.stnTimes
    pwr := { s1.pwr with
      seq := .idle, pos := 0, railDone := false, powerFail := false, drainBy := none, drainStep := .imaging, drainDark := false
      scriptWait := s1.pwr.scriptWait.map (fun _ => true), backup := false } }

/-- OFF (R43): only the retained state is left; a page write is abandoned (R297). -/
def State.enterOff (s : State) : State :=
  let s1 := s.keepAbandon.unpower
  { s1 with pwr := { s1.pwr with st := .off, strapOn := false, strapTimed := false, strapPending := false, scriptWait := none } }

/-- DARK (R43), or OFF when VSTBY is not good; a reset that waited for the store's end begins its STRAP phase (R48). -/
def State.enterDark (s : State) : State :=
  let s1 := s.unpower
  if !s1.vstbyOk then s1.enterOff
  else
    let s2 := s1.goto .dark
    if s2.pwr.strapPending then s2.strapBegin false else s2

/-- STANDBY from WAKING or DRAIN, with the standby hold set or left as it is (R47, R147). -/
def State.enterStandby (s : State) (hold : Bool) : State :=
  let s1 := s.unpower
  let s2 := if hold then s1.put Reg.SUP_PWR_HOLD 1 else s1
  if !s2.vstbyOk then s2.enterOff
  else
    let s3 := s2.goto .standby
    let s4 : State := { s3 with pwr := { s3.pwr with fromOff := false } }
    if s4.pwr.strapPending then s4.strapBegin false else s4

/-- An enabled alarm whose stored next instant has passed fires with SKIPPED (R333). -/
def State.alarmSkip (s : State) (k : Nat) : State :=
  match s.alarmNext k with
  | some t => if s.flag (Reg.RTC_ALM_0_EN k) && decide (t ≤ s.rtc.now.seconds) then s.alarmFire k true else s
  | none => s

/-- RTC registers but RTC_CTL, RTC_STATUS and RTC_EVENT take their reset values (R335); the shadows are released (R324), and
both next instants are computed (R331). -/
def State.rtcReset (s : State) : State :=
  let s1 : State := { s with
    regs := Map.keep s.regs (fun a => !(decide (0x200 ≤ a ∧ a ≤ 0x21D ∧ a ≠ 0x20D ∧ a ≠ 0x20E ∧ a ≠ 0x21C)))
    rtc := { s.rtc with shadows := [] } }
  (s1.alarmCompute 0).alarmCompute 1

/-- STANDBY from OFF: the retained state is supplied again, the other Umber registers take their reset values (R20), skipped
alarms fire (R333), BP and the rail script are read (R291, R145), the Umber TAP is in BYPASS (R346), and a STRAP phase begins
(R61). -/
def State.standbyFromOff (s : State) : State :=
  let s1 := if !s.pwr.retained then s.attach else if s.pwr.heldLost then s.heldAttach else s
  let s2 : State := { s1 with pwr := { s1.pwr with retained := true, clockHeld := false, heldLost := false } }
  let s3 := (s2.alarmSkip 0).alarmSkip 1
  let s4 := (s3.rtcReset.resetUmber false).unpower
  let s5 := ((s4.loadBp).goto .standby).applyScript
  let s6 : State := { s5 with
    mport := {}
    fw := { s5.fw with tapUmber := .bypass }
    pwr := { s5.pwr with fromOff := true } }
  s6.strapBegin true

/-! The wake (R44, R145 to R147) -/

/-- The wake section of the rail script has ended: the reference event of Return. -/
def State.railsUp (s : State) : State :=
  let s1 := s.showStep false
  let s2 := ({ s1 with pwr := { s1.pwr with seq := .idle } } : State).hubReset
  let s3 := s2.put Reg.ID_LC_WIPING (b2n s2.fw.wipePending.isSome)
  { s3 with fw := { s3.fw with wipeStep := if s3.fw.wipePending.isSome then 3 else 0, wipePage := 64 } }

/-- Go on with the wake section from the present step. -/
def State.wakeGo (s : State) : State :=
  let r := s.runSteps false 17
  match r.2 with
  | .waiting => r.1
  | .finished => r.1.railsUp

/-- The record is applied and the wake section begins. -/
def State.scriptRun (s : State) : State :=
  let s1 := s.applyScript
  ({ s1 with pwr := { s1.pwr with seq := .wake, pos := 0, scriptWait := none } } : State).wakeGo

/-- A RELOAD that waited for the page write is made once it has ended or was abandoned (R145, R297). -/
def State.reloadResume (s : State) : State :=
  if s.pwr.scriptWait = some true then ({ s with pwr := { s.pwr with scriptWait := none } } : State).reloadScript else s

/-- A record read of either kind that waited for the page write is made (R145, R297). -/
def State.scriptResume (s : State) : State :=
  if s.pwr.scriptWait = some false then ({ s with pwr := { s.pwr with scriptWait := none } } : State).scriptRun else s.reloadResume

/-- WAKING (R44): LAST of ID_RESET, then the rail script, once no Keep page write runs. -/
def State.enterWaking (s : State) (last : Nat) : State :=
  let s1 := ((s.put Reg.ID_RESET_LAST last).put Reg.SUP_SCRIPT_FAILED 0).goto .waking
  let s2 : State := { s1 with fw := { s1.fw with token := [] }, pwr := { s1.pwr with railDone := false, seq := .wake, pos := 0 } }
  if s2.keepBusy then { s2 with pwr := { s2.pwr with scriptWait := some false } } else s2.scriptRun

/-- The wake conditions that STANDBY and DARK share (Table 1-7); a RETIRED device does not wake (Table 15-9). -/
def State.mayWake (s : State) : Bool :=
  s.vinGood && s.pwr.pwrok && s.pwr.resetN && !s.pwr.strapOn && decide (s.get Reg.ID_LC_STATE ≠ 3)

/-- A wake that ends without a store (Table 1-8): the enables drop and the device is in DARK; MP4 shows no stored result. A page write
that runs goes on: only power-fail and VSTBY abandon it (R297). -/
def State.wakeAbort (s : State) : State :=
  let s1 := s.enterDark
  { s1 with pwr := { s1.pwr with result := false, progress := 6#3 } }

/-! Shutdown and the end of DRAIN (R46, R47, R149) -/

/-- The shutdown steps have ended: every enable is low and the device enters STANDBY or DARK (Table 1-7). Where VIN has left its
window without a power-fail, no DARK row applies, and the device enters STANDBY (log entry 94, DESIGN CHOICE). -/
def State.drainDone (s : State) : State :=
  let s1 := s.showStep false
  if s1.pwr.drainDark then
    let s2 := s1.enterDark
    { s2 with pwr := { s2.pwr with progress := 6#3 } }
  else s1.enterStandby (decide (s1.pwr.drainBy ≠ some .pwrok))

/-- The most recently raised enable drops; with none left, DRAIN is done. Until then RUNNING reads 1 and STEP shows the step at which
the wake section ended (log entry 107, DESIGN CHOICE). -/
def State.reverseDrop (s : State) : State :=
  match s.pwr.raised with
  | g :: _ =>
    let s1 := s.dropEn g
    if s1.pwr.raised.isEmpty then s1.drainDone else s1.showStep true
  | [] => s.drainDone

/-- Go on with the shutdown section. -/
def State.shutdownGo (s : State) : State :=
  let r := s.runSteps true 17
  match r.2 with
  | .waiting => r.1
  | .finished => r.1.drainDone

/-- The shutdown steps begin (R149): those of SECTION 1, of which the END step's own bit counts as one (log entry 106, DESIGN
CHOICE). -/
def State.shutdownStart (s : State) : State :=
  let s1 : State := { s with pwr := { s.pwr with drainStep := .shutdown } }
  match s1.pwr.steps.findIdx? (·.shutdown) with
  | some i => ({ s1 with pwr := { s1.pwr with seq := .shutdown, pos := i } } : State).shutdownGo
  | none => ({ s1 with pwr := { s1.pwr with seq := .reverse } } : State).reverseDrop

/-! DRAIN (R46) -/

/-- No station is armed any more: the hot words are flushed. -/
def State.drainAdvance (s : State) : State :=
  if s.pwr.st = .drain ∧ s.pwr.drainStep = .imaging ∧ !(List.range 8).any s.stnArmed then
    ({ s with pwr := { s.pwr with drainStep := .flush } } : State).flushStart .drain
  else s

/-- Fetching from a host stops: a descriptor whose data has not arrived counts as posted, and its slot is released (R46, R187). -/
def State.stopFetching (s : State) (h : PHost) : State :=
  let s1 := s.setHost h { s.host h with fetching := [] }
  [0, 1, 2, 3].foldl (fun (t : State) j => t.settleSq h j) s1

/-- DRAIN starts: fetching stops, Sweeper is suspended, the armed stations close on their sheets in progress. -/
def State.drainStart (s : State) (why : DrainBy) : State :=
  let s0 := ([0, 1, 2, 3] : List PHost).foldl State.stopFetching s
  let s1 := (s0.dropWindow).goto .drain
  let s2 : State := { s1 with pwr := { s1.pwr with drainBy := some why, drainStep := .imaging, drainDark := false } }
  let armed := (List.range 8).filter s2.stnArmed
  let s3 := armed.foldl (fun (t : State) n => t.setStn n { t.stn n with drain := some (t.stn n).inProgress }) s2
  (armed.foldl (fun (t : State) n => t.drainCheck n) s3).drainAdvance

/-- The 1.0 s of R46 have passed: every station still armed is disarmed at the end of its facet. -/
def State.drainLimit (s : State) : State :=
  (((List.range 8).filter s.stnArmed).foldl (fun (t : State) n => t.disarm n) s).drainAdvance

/-! RUN entry (R44, R129) -/

/-- A PERSTh_N that is low at RUN entry is acted on then: a function-level reset that keeps the replay records (R157, R186). -/
def State.perstAtRun (s : State) : State :=
  (s.existing.filter (fun h => !(s.host h).perstN)).foldl (fun (t : State) h => t.functionReset h true) s

/-- RUN: held health-log events are logged (R358), free enables follow SUP_FREE (R150), MP5 takes its level (R144), links and
station links train (R157, R256), CUT is set where records wait (R188), the triggers of
a counter copy count from here (R280), a Sweeper cycle starts (R353); DRAIN at once when
PWROK is low, or when no firmware cluster has passed its test at boot (R366). -/
def State.enterRun (s : State) : State :=
  let s1 := (s.goto .run).logHeld.freeFollow.perstAtRun
  let s2 : State := { s1.put Reg.LED_KEEP_STAT_DUE 0 with
    pwr := { s1.pwr with warnN := s1.warnLevel }, led := { s1.led with incr := [], changed := false } }
  let s3 := ((List.range 8).filter s2.stnEnabled).foldl (fun (t : State) n => t.trainStart n) s2
  let s4 := (s3.existing.filter (fun h => decide (0 < s3.cutCount h))).foldl (fun (t : State) h => t.hostEvent h Reg.HOST_EVENT_CUT) s3
  let s5 := s4.cycleResume
  if !s5.pwr.pwrok then s5.drainStart .pwrok
  else if s5.get Reg.FW_STAT_CLU_ON = 0 then s5.drainStart .request else s5

/-! The end of a store in VOLLEY -/

/-- The store ends: VOL_LAST, the result, DARK or OFF (R45, R66). The code on MP[7:5] steps on from where it stands. -/
def State.volleyEnd (s : State) (t : Store) (result waves vhold time : Nat) : State := (s.storeOver t result waves vhold time).enterDark

/-- A DRAIN store that has ended goes on with the shutdown (R108, R128). -/
def State.drainStored (s : State) : State :=
  ({ s with pwr := { s.pwr with drainStep := .stored } } : State).shutdownStart

/-! Volley entry (R114 to R116, R187) -/

/-- The status a flight is given across a Volley (Table 6-9). -/
def Flight.fate (f : Flight) : Compl :=
  match f.compl with
  | some c => c
  | none => { status := Status.volleyCut, result := if f.committed then 0#64 else f.stopResult }

/-- The records and end record of one SQ. -/
def State.sqRecords (s : State) (h : PHost) (j : Ring) : List Replay :=
  let fs := s.flights.filter (fun f => decide (f.host = h ∧ f.sq = j))
  let recs : List Replay := fs.map (fun (f : Flight) => ⟨h, j, f.d.tag, f.fate, false⟩)
  let st := s.sqState h.val j.val
  recs ++ (if st = sqActive ∨ st = sqDraining then
    [⟨h, j, 0#16, { status := Status.done, result := BitVec.ofNat 64 (s.sqHead h.val j.val) }, true⟩] else [])

/-- The replay records of one power-fail are made (R187), at most 262,143 kept per host (R188). -/
def State.makeRecords (s : State) : State :=
  let new := s.existing.flatMap (fun h =>
    (([0, 1, 2, 3] : List Ring).flatMap (s.sqRecords h)).take (262143 - s.cutCount h))
  { s with dev := { s.dev with replay := s.dev.replay ++ new }, flights := [] }

/-- A running checkpoint ends at once: its wave is cut, or its seal is torn; held partition writes are discarded (R127,
Table 4-8). -/
def State.cutCheckpoint (s : State) : State :=
  match s.store with
  | some t =>
    let s1 := if t.wave = t.waves + 1 then s.tearSeals t else if 0 < t.wave then s.cutWave t else s
    let s2 : State := { s1 with store := none, heldWrites := [] }
    s2.ledRelease
  | none => s

/-- ABORT on every enabled station's link (Table 4-3); the armed stations are disarmed from here on. -/
def State.abortStations (s : State) : State :=
  let s1 := ((List.range 8).filter s.stnArmed).foldl (fun (t : State) n => t.setStn n { t.stn n with disarmed := s.stamp }) s
  (([0, 1, 2, 3, 4, 5, 6, 7] : List StnId).filter (fun n => s.stnEnabled n.val && s.linkUp n.val)).foldl
    (fun (t : State) n => t.emit (.abort n 1)) s1

/-- The entry actions of Table 4-3 and the drain's replay records, the S PLL stopped (R115) and the separate TAP in BYPASS (Table
2-10); the store `keep` runs on, else a new one starts. -/
def State.enterVolley (s : State) (cause : Cause) (fromVin : Bool) (channel : Nat) (keep : Bool) : State :=
  let s1 := if keep then s.ledRelease else s.cutCheckpoint
  let s2 := s1.abortStations.makeRecords
  let s3 := (((s2.yieldHeld).keepAbandon).reloadResume).shed
  let s4 := if fromVin then s3 else s3.put Reg.SUP_CHG_FULL 0
  let s5 := s4.goto .volley
  let s6 : State := { s5 with
    hosts := s5.hostPins
    fw := { s5.fw with tapSep := .bypass }
    pwr := { s5.pwr with
      powerFail := !fromVin || s5.pwr.powerFail, backup := true, drainBy := none, drainDark := false, seq := .idle
      progress := 0#3, spll := false } }
  if keep then
    match s6.store with
    | some t => { s6 with store := some { t with fromVin := fromVin, channel := channel }, pwr := { s6.pwr with progress := t.code } }
    | none => s6
  else s6.storeBegin cause fromVin channel

/-- DRAIN's store runs. -/
def State.drainStoring (s : State) : Bool := decide (s.pwr.drainStep = .storing) && s.store.isSome

/-- Power-fail by supervisor channel c (R44, R50). -/
def State.powerFail (s : State) (c : Nat) : State :=
  match s.pwr.st with
  | .waking => if s.returned || (s.pwr.railDone && s.fw.wipePending.isSome) then s.enterVolley .power false c false else s.keepAbandon.reloadResume.wakeAbort
  | .run => s.enterVolley .power false c false
  | .drain =>
    if s.pwr.drainStep = .stored ∨ s.pwr.drainStep = .shutdown then
      let s1 := s.keepAbandon.reloadResume
      { s1 with pwr := { s1.pwr with drainDark := true, powerFail := true } }
    else s.enterVolley .power false c s.drainStoring
  | .volley =>
    match s.store with
    | some t =>
      let s1 := s.put Reg.SUP_CHG_FULL 0
      { s1 with store := some { t with fromVin := false, channel := c }, pwr := { s1.pwr with powerFail := true } }
    | none => s
  | _ => s

/-! Channels (R138 to R140) -/

/-- The action code of the side by which a channel leaves its window (Table 5-3). -/
def State.action (s : State) (c : Nat) (high : Bool) : Nat := s.get (if high then Reg.SUP_CTL_HI_ACT c else Reg.SUP_CTL_LO_ACT c)

/-- Whether the event bit of channel c that stands stems from a FAULT or POWERFAIL action: FAULT_N is low for it (R139). -/
def State.noteFault (s : State) (c : Nat) (fault : Bool) : State :=
  let m : BitVec 12 := BitVec.ofNat 12 (2 ^ c)
  let stands := s.flag ((Reg.SUP_EVENT_CH).at c) && bit s.pwr.faulted.toNat c
  { s with pwr := { s.pwr with faulted := if fault || stands then s.pwr.faulted ||| m else s.pwr.faulted &&& ~~~m } }

/-- An armed channel's event, by its action (R139). -/
def State.noteAction (s : State) (c : Nat) (high : Bool) : State :=
  let a := s.action c high
  if a = 0 then s else (s.noteFault c (decide (2 ≤ a))).supEvent ((Reg.SUP_EVENT_CH).at c)

/-- Armed channels, in the order of Table 5-10, take their actions in one U cycle: each its event; the first that gives FAULT or
POWERFAIL is captured (log entry 108); a POWERFAIL takes effect once. -/
def State.takeActions (s : State) (cs : List (Nat × Bool)) : State :=
  let s1 := cs.foldl (fun (t : State) x => t.noteAction x.1 x.2) s
  let s2 := match cs.find? (fun x => decide (2 ≤ s.action x.1 x.2)) with
    | some x => s1.capture x.1 x.2 false
    | none => s1
  match cs.find? (fun x => decide (s.action x.1 x.2 = 3)) with
  | some x => s2.powerFail x.1
  | none => s2

/-- A descriptor write that has started its page write or still waits for one. -/
def Flight.keepWriting (f : Flight) : Bool :=
  decide ((f.op = .keepWrite ∨ f.op = .recordPut) ∧ (f.stage = .keep ∨ f.stage = .pageWrite)) && f.compl.isNone

/-- The descriptor writes that an abandonment ends while the rings go on: replayed VOLLEY_CUT, as R297 says (log entry 111,
DESIGN CHOICE: at once, in the SQ's own CQ); DRAIN, whose flush and counter copy are dropped, goes on to its step 4. -/
def State.keepDiscard (s : State) : State :=
  let s1 := s.fixAll Flight.keepWriting { status := Status.volleyCut }
  if s1.pwr.st = .drain ∧ (s1.pwr.drainStep = .flush ∨ s1.pwr.drainStep = .counterCopy) then
    { s1 with pwr := { s1.pwr with drainStep := .ready } }
  else s1

/-- VSTBY leaves its window: page writes are abandoned in any state (R297), and STANDBY and DARK end (Table 1-7). -/
def State.vstbyGone (s : State) : State :=
  if s.pwr.st = .standby ∨ s.pwr.st = .dark then s.enterOff
  else if s.serving then (s.keepAbandon.keepDiscard).reloadResume.settle
  else s.keepAbandon.scriptResume

/-- Channels in the order of Table 5-10: those whose action is POWERFAIL, then the others, each by number. -/
def State.actionOrder (s : State) (cs : List (Nat × Bool)) : List (Nat × Bool) :=
  let byNumber := (List.range 12).filterMap (fun c => cs.find? (fun x => decide (x.1 = c)))
  byNumber.filter (fun x => decide (s.action x.1 x.2 = 3)) ++ byNumber.filter (fun x => decide (s.action x.1 x.2 ≠ 3))

/-- OUT of the channels becomes 1 in one U cycle (R138, R139, Table 5-10). -/
def State.channelsOut (s : State) (cs : List (Nat × Bool)) : State :=
  let armed := cs.filter (fun x => s.armed x.1)
  let s1 := cs.foldl (fun (t : State) x => t.put ((Reg.SUP_OUT_OUT).at x.1) 1) s
  let s2 := s1.takeActions armed
  if cs.any (fun x => decide (x.1 = 8)) then s2.vstbyGone else s2

/-- OUT of channel c becomes 1, with those of `also` in the same U cycle. -/
def State.channelOut (s : State) (c : Nat) (high : Bool) (also : List (Nat × Bool)) : State :=
  s.channelsOut ((s.actionOrder ((c, high) :: also)).filter (fun x => !bit (s.get Reg.SUP_OUT_OUT) x.1))

/-- OUT of channel c becomes 0; VIN's return during a store is noted (VIN_BACK), and with VSTBY back in its window a clock that
retention's failure stopped counts on (R326). -/
def State.channelIn (s : State) (c : Nat) : State :=
  let s0 := s.put ((Reg.SUP_OUT_OUT).at c) 0
  let s1 : State := if c = 8 then { s0 with pwr := { s0.pwr with clockHeld := false } } else s0
  match s1.store with
  | some t => if c = 0 ∧ s1.pwr.st = .volley then { s1 with store := some { t with vinBack := true } } else s1
  | none => s1

/-! Resets and clocks (R42, R48, R49) -/

/-- A reset of cause RESET from RUN, or from WAKING after Return, which runs from VIN. The fall of RESET_N that starts it does not set
RESET_SEEN (log entry 104, DESIGN CHOICE). -/
def State.resetVolley (s : State) (strap : Bool) : State :=
  let s1 := s.enterVolley .reset true 15 false
  { s1 with pwr := { s1.pwr with strapPending := strap } }

/-- RESET_N goes low (R44, R48, R50, R61). In DRAIN the STRAP phase begins with DARK, after the shutdown steps (log entry 93, DESIGN
CHOICE). -/
def State.resetLow (s : State) : State :=
  let s0 : State := { s with pwr := { s.pwr with resetN := false } }
  match s0.pwr.st with
  | .off => s0
  | .standby => s0.strapBegin s0.pwr.strapFromOff
  | .dark => s0.strapBegin s0.pwr.strapFromOff
  | .waking =>
    if s0.returned then s0.resetVolley true
    else ({ s0 with pwr := { s0.pwr with strapPending := true } } : State).wakeAbort
  | .run => s0.resetVolley true
  | .drain =>
    let s1 : State := { s0 with pwr := { s0.pwr with strapPending := true, drainDark := true } }
    if s0.drainStoring then { s1 with store := s1.store.map (fun (t : Store) => { t with resetSeen := true }) } else s1
  | .volley =>
    { s0 with pwr := { s0.pwr with strapPending := true }, store := s0.store.map (fun (t : Store) => { t with resetSeen := true }) }

/-- RESET_N goes high: the 16 µs of a STRAP phase that runs are counted from here. -/
def State.resetHigh (s : State) : State :=
  let s0 : State := { s with pwr := { s.pwr with resetN := true } }
  if s0.pwr.strapOn then { s0 with pwr := { s0.pwr with strapTimed := true, samp1 := none, samp2 := none } } else s0

/-- REFIN stops or the C PLL loses lock (Table 1-5). -/
def State.clockLost (s : State) : State :=
  let s0 : State := { s with pwr := { s.pwr with refin := false } }
  match s0.pwr.st with
  | .run => s0.enterVolley .clock true 15 false
  | .waking => if s0.returned then s0.enterVolley .clock true 15 false else s0.wakeAbort
  | .drain =>
    if s0.drainStoring || decide (s0.pwr.drainStep = .stored ∨ s0.pwr.drainStep = .shutdown) then
      { s0 with pwr := { s0.pwr with backup := true } }
    else s0.enterVolley .clock true 15 false
  | _ => s0

/-! Firmware clusters out of service (R366) -/

/-- Cluster f is taken out: CLU_ON, FWC, the log, its channels to other clusters, and DRAIN when none is left. -/
def State.clusterOut (s : State) (f : Nat) : State :=
  if s.cluOn f then
    let s1 := s.putAll [((Reg.FW_STAT_CLU_ON).at f, 0), (Reg.SWP_FAULT_FWC, 1)]
    let s2 := ((s1.fwEvent Reg.FW_EVENT_CLU_OUT).log 9 2 f 0 0).handOver f |>.1
    if s2.get Reg.FW_STAT_CLU_ON = 0 ∧ s2.pwr.st = .run then s2.drainStart .request else s2
  else s

/-- Cores of cluster f in service. -/
def State.coresOn (s : State) (f : Nat) : Nat := popcount 4 (s.get Reg.FW_CORES_ON / 16 ^ f)

/-- A core is taken out (R365); with fewer than three cores left, its cluster too. -/
def State.coreOut (s : State) (core : Nat) : State :=
  if bit (s.get Reg.FW_CORES_ON) core then
    let s1 := s.putAll [((Reg.FW_CORES_ON).at core, 0), (Reg.SWP_FAULT_CORE, 1)]
    let s2 := (s1.fwEvent Reg.FW_EVENT_CORE_OUT).log 9 1 (core / 4) (core % 4) 0
    if s2.coresOn (core / 4) < 3 then s2.clusterOut (core / 4) else s2
  else s

end Sys2Proof.Machine
end

