-- ==== Sys2Proof/Machine/Clocks.lean ====
section
/-! DEFINITION. The commands of the clock sources (Table 1-5, R42). -/

namespace Sys2Proof.Machine
open Sys2Proof

/-- REFIN stops or the C PLL loses lock for more than 2 µs (R42). -/
def execClockLoss (s : State) : Host.Outcome State Fault Refusal := .next s.clockLost

/-- The PCIe hosts of port Pp. -/
def hostsOfPort (p : Fin 2) : List PHost := if p.val = 0 then [0, 1] else [2, 3]

/-- A host's link goes down with its port's clock: as a surprise link down (R42, R160). -/
def State.linkGone (s : State) (h : PHost) : State :=
  let p := s.host h
  let s1 := (s.put (Reg.HOST_LINK_SPEED h.val) 0).put (Reg.HOST_LINK_WIDTH h.val) 0
  (s1.setHost h { p with up := false, ready := false, retraining := false, l1 := false }).functionReset h true

/-- REFCLK of one port stops: its links go down (R42). -/
def execRefclkLoss (port : Fin 2) (s : State) : Host.Outcome State Fault Refusal :=
  .next (
    let s1 : State := { s with pwr := if port.val = 0 then { s.pwr with refclk0 := false } else { s.pwr with refclk1 := false } }
    let hs := (hostsOfPort port).filter (fun h => s1.hostExists h && (s1.host h).up)
    if s1.serving && !hs.isEmpty then (hs.foldl State.linkGone s1).cycleGo else s1)

/-- The S PLL has lost lock under an armed station (Table 1-5): a stall that blanks and spoils, ABORT with reason 2, no facet
left, no pulse taken until relock. A disarm that waited for the facet's end is carried out. -/
def State.pllStall (s : State) (n : StnId) : State :=
  let s1 := s.stallNow n.val
  let s2 := if s1.linkUp n.val then s1.emit (.abort n 2) else s1
  let s3 := s2.setStn n.val { s2.stn n.val with facet := none, win := .closed, restart := none, aborted := true }
  if (s3.stn n.val).disarming then s3.disarmNow n.val else s3

/-- The armed stations. -/
def State.armedStations (s : State) : List StnId :=
  ([0, 1, 2, 3, 4, 5, 6, 7] : List StnId).filter (fun n => s.stnArmed n.val)

/-- The S PLL loses lock (R42, R251). -/
def execSPllUnlock (s : State) : Host.Outcome State Fault Refusal :=
  .next (if s.serving ∧ s.pwr.spll then
      (let s1 : State := { s with pwr := { s.pwr with spll := false } }
       (s1.armedStations.foldl State.pllStall s1).drainAdvance)
    else s)

/-- The S PLL relocks: each armed station takes its next qualified pulse as SOS (R42). -/
def execSPllRelock (s : State) : Host.Outcome State Fault Refusal :=
  .next (if s.pwr.spll then s
    else
      (let s1 : State := { s with pwr := { s.pwr with spll := true } }
       s1.armedStations.foldl (fun (t : State) n => t.setStn n.val { t.stn n.val with win := .arming }) s1))

/-- The 32.768 kHz crystal stops for more than 1 ms: OSF with STOP, and the clock stands (R42, R326). -/
def execCrystalStop (s : State) : Host.Outcome State Fault Refusal :=
  .next (
    let s1 : State := { s with pwr := { s.pwr with xtal := false } }
    if s1.pwr.retained then s1.setOsf Reg.RTC_STATUS_STOP else s1)

/-- The crystal runs again: the clock goes on from where it stood (R326). -/
def execCrystalRestart (s : State) : Host.Outcome State Fault Refusal :=
  .next { s with pwr := { s.pwr with xtal := true } }

end Sys2Proof.Machine
end

