-- ==== Sys2Proof/Machine/DescKeep.lean ====
section
/-! DEFINITION. The commands of descriptors on the Keep (spec/11). -/

namespace Sys2Proof.Machine
open Sys2Proof

/-- KEEP_READ (R289). -/
def execKeepRead (h : PHost) (j : Ring) (d : Desc) (s : State) (pads : PadTraffic := {}) : Host.Outcome State Fault Refusal :=
  .next (s.descArrive h j .keepRead d {} [] pads)

/-- KEEP_WRITE (R290, R300). -/
def execKeepWrite (h : PHost) (j : Ring) (d : Desc) (data : HostData) (s : State) (pads : PadTraffic := {}) :
    Host.Outcome State Fault Refusal :=
  .next (s.descArrive h j .keepWrite d data [] pads)

/-- RECORD_PUT (R305). -/
def execRecordPut (h : PHost) (j : Ring) (d : Desc) (data : HostData) (s : State) (pads : PadTraffic := {}) :
    Host.Outcome State Fault Refusal :=
  .next (s.descArrive h j .recordPut d data [] pads)

/-- RECORD_GET (R304). -/
def execRecordGet (h : PHost) (j : Ring) (d : Desc) (s : State) (pads : PadTraffic := {}) : Host.Outcome State Fault Refusal :=
  .next (s.descArrive h j .recordGet d {} [] pads)

end Sys2Proof.Machine
end

