-- ==== Sys2Proof/Machine/DescLedger.lean ====
section
/-! DEFINITION. The commands of descriptors on the ledger, the counters, the clock and checkpoints, and of those that stop others
(spec/07, spec/10). -/

namespace Sys2Proof.Machine
open Sys2Proof

/-- LEDGER_OPEN (R270). -/
def execLedgerOpen (h : PHost) (j : Ring) (d : Desc) (s : State) (pads : PadTraffic := {}) : Host.Outcome State Fault Refusal :=
  .next (s.descArrive h j .ledgerOpen d {} pads.ups pads)

/-- LEDGER_STAGE (R272). -/
def execLedgerStage (h : PHost) (j : Ring) (d : Desc) (s : State) (pads : PadTraffic := {}) : Host.Outcome State Fault Refusal :=
  .next (s.descArrive h j .ledgerStage d {} pads.ups pads)

/-- LEDGER_QUERY (R273, R278). -/
def execLedgerQuery (h : PHost) (j : Ring) (d : Desc) (s : State) (pads : PadTraffic := {}) : Host.Outcome State Fault Refusal :=
  .next (s.descArrive h j .ledgerQuery d {} pads.ups pads)

/-- COUNTER_READ (R279). -/
def execCounterRead (h : PHost) (j : Ring) (d : Desc) (s : State) (pads : PadTraffic := {}) : Host.Outcome State Fault Refusal :=
  .next (s.descArrive h j .counterRead d {} [] pads)

/-- RTC_READ (R201). -/
def execRtcRead (h : PHost) (j : Ring) (d : Desc) (s : State) : Host.Outcome State Fault Refusal :=
  .next (s.descArrive h j .rtcRead d {} [])

/-- RTC_SET (R329). -/
def execRtcSet (h : PHost) (j : Ring) (d : Desc) (s : State) : Host.Outcome State Fault Refusal :=
  .next (s.descArrive h j .rtcSet d {} [])

/-- CHECKPOINT requests a checkpoint or joins the pending one (R124). -/
def execCheckpoint (h : PHost) (j : Ring) (d : Desc) (s : State) : Host.Outcome State Fault Refusal :=
  .next (s.descArrive h j .checkpoint d {} [])

/-- ABORT (R184, R185). -/
def execAbort (h : PHost) (j : Ring) (d : Desc) (s : State) : Host.Outcome State Fault Refusal :=
  .next (s.descArrive h j .abort d {} [])

/-- A descriptor with an OPCODE byte that Table 7-2 does not have (R193). -/
def execBadOpcode (h : PHost) (j : Ring) (opcode : Byte) (d : Desc) (s : State) : Host.Outcome State Fault Refusal :=
  .next (s.descArrive h j (opcodeOf opcode) d {} [])

/-- A waiting descriptor's limit expires before its commit (R195). -/
def execWaitLimitExpiry (h : PHost) (j : Ring) (tag : BitVec 16) (s : State) : Host.Outcome State Fault Refusal :=
  .next (if s.serving then (s.waitExpired h j tag).settle else s)

end Sys2Proof.Machine
end

