-- ==== Sys2Proof/Machine/DescStation.lean ====
section
/-! DEFINITION. The commands of descriptors that name a station, and what their waits end in (spec/08). An event whose condition
does not hold leaves the state as it is (log entry 13). -/

namespace Sys2Proof.Machine
open Sys2Proof

/-- RASTER_POST is checked and accepted, or refused (R211). -/
def execRasterPost (h : PHost) (j : Ring) (d : Desc) (data : HostData) (s : State) : Host.Outcome State Fault Refusal :=
  .next (s.descArrive h j .rasterPost d data [])

/-- The next sheet joins a station's queue (R209, R210). -/
def execSheetJoinQueue (n : StnId) (s : State) : Host.Outcome State Fault Refusal :=
  .next (if s.serving ∧ s.stnArmed n.val then (s.joinQueue n.val).settle else s)

/-- The accepted RASTER_POST of an SQ with a tag. -/
def State.bandFlight (s : State) (h : PHost) (j : Ring) (tag : BitVec 16) : Option (Nat × Flight) :=
  s.findFlight (fun f => decide (f.host = h ∧ f.sq = j ∧ f.d.tag = tag ∧ f.op = .rasterPost ∧ f.stage = .ringSpace) && f.open_)

/-- A band whose ring slots are free is written and published (R212, R213). -/
def execRasterPostPublish (h : PHost) (j : Ring) (tag : BitVec 16) (s : State) : Host.Outcome State Fault Refusal :=
  .next (match s.bandFlight h j tag with
    | some (i, f) =>
      (match s.bandReady f with
       | some g => if s.serving ∧ ¬s.ringRetired f then (s.publish i f g).settle else s
       | none => s)
    | none => s)

/-- TABLE_LOAD (R230). -/
def execTableLoad (h : PHost) (j : Ring) (d : Desc) (data : HostData) (s : State) (pads : PadTraffic := {}) :
    Host.Outcome State Fault Refusal :=
  .next (s.descArrive h j .tableLoad d data [] pads)

/-- TABLE_SWAP waits until the loads and copies of its tables end (R232). -/
def execTableSwap (h : PHost) (j : Ring) (d : Desc) (s : State) : Host.Outcome State Fault Refusal :=
  .next (s.descArrive h j .tableSwap d {} [])

/-- The waiting TABLE_SWAP of an SQ with a tag. -/
def State.swapFlight (s : State) (h : PHost) (j : Ring) (tag : BitVec 16) : Option (Nat × Flight) :=
  s.findFlight (fun f => decide (f.host = h ∧ f.sq = j ∧ f.d.tag = tag ∧ f.op = .tableSwap ∧ f.stage = .swap) && f.open_)

/-- A swap's waits have ended: its tables are checked at time t in quarter S cycles (R232). -/
def execTableSwapReady (h : PHost) (j : Ring) (tag : BitVec 16) (t : Nat) (s : State) : Host.Outcome State Fault Refusal :=
  .next (match s.swapFlight h j tag with
    | some (i, f) => if s.serving ∧ ¬(s.host h).retraining ∧ s.swapMayCheck i f then (s.swapCheck i f t).settle else s
    | none => s)

end Sys2Proof.Machine
end

