-- ==== Sys2Proof/Machine/Firmware.lean ====
section
/-! DEFINITION. The commands of firmware slots, live update, degradation and the life-cycle (spec/15). An event whose condition does
not hold leaves the state as it is (log entry 13). -/

namespace Sys2Proof.Machine
open Sys2Proof

/-! Command results (FW_STAT) -/

def opLoad : Nat := 1
def opActivate : Nat := 2
def opErase : Nat := 3
def opLife : Nat := 4

/-- A command's RESULT; FAIL when it is not 0 (R376). -/
def State.fwResult (s : State) (r : Nat) : State :=
  let s1 := s.put Reg.FW_STAT_RESULT r
  if r = 0 then s1 else s1.fwEvent Reg.FW_EVENT_FAIL

/-- H0, or a PCIe host whose bit is set in FW_RIGHTS (R376). -/
def State.fwMay (s : State) (x : Sender) : Bool := isH0 x || hasRight x (s.get Reg.FW_RIGHTS_RIGHTS)

/-- A command is refused with RESULT STATE: another one runs (R374), or the device is not in RUN or DRAIN. -/
def State.fwBusy (s : State) : Bool := decide (s.get Reg.FW_STAT_OP ≠ 0) || !s.serving

/-! LOAD (R361) -/

/-- The target slot of a LOAD. -/
def State.loadTarget (s : State) : Nat :=
  let free (k : Nat) : Bool := decide (s.slotState k = slotEmpty ∨ s.slotState k = slotRejected ∨ s.slotState k = slotBootFail)
  match s.get Reg.FW_STAT_RUN with
  | 0 => 1
  | 1 => 0
  | _ => if free 0 then 0 else if free 1 then 1 else if s.slotVersion 0 < s.slotVersion 1 then 0 else 1

/-- LOAD: the target slot is LOADING. -/
def State.loadReq (s : State) (x : Sender) : State :=
  if s.fwMay x then
    if s.fwBusy then s.fwResult 7
    else
      let k := s.loadTarget
      let src := 64 * (s.get Reg.FW_SRC_LO_SRC + 2 ^ 18 * (s.get Reg.FW_SRC_HI_SRC % 128))
      let s1 := (s.put (Reg.FW_SLOT_STATE k) slotLoading).put Reg.FW_STAT_OP opLoad
      { s1 with fw := { s1.fw with loadSlot := some k, loadBy := x, loadSrc := src, loadLen := 64 * s.get Reg.FW_LEN_LEN } }
  else s

/-- CMD = LOAD (R361). -/
def execLoad (from_ : Sender) (s : State) : Host.Outcome State Fault Refusal :=
  .next (if s.reaches from_ 0xE00 true then s.loadReq from_ else s)

/-- FORMAT of Table 15-4 holds for an image of n bytes. -/
def ImageHeader.formatOk (h : ImageHeader) (n : Nat) : Bool :=
  decide (h.format = 1 ∧ h.length % 64 = 0 ∧ 64 ≤ h.length ∧ h.length ≤ 4194048 ∧ h.length + 256 = n) && h.zero

/-- RESULT of the checks on a copied image, in the order of R361. -/
def State.imageResult (s : State) (bs : List Byte) : Nat :=
  let h := headerOf bs
  if !h.formatOk bs.length then 2
  else if !digestOk bs then 3
  else if !sigOk bs then 4
  else if s.inField && decide (h.version < s.fwFloor) then 5
  else 0

/-- The source of a LOAD passes its check (R361, R87). -/
def State.sourceOk (s : State) : Bool :=
  decide (320 ≤ s.fw.loadLen ∧ s.fw.loadLen ≤ 4194304) &&
    (s.rangeCheck s.fw.loadBy.toNat s.fw.loadSrc (s.fw.loadSrc + s.fw.loadLen - 1) false false).isNone

/-- VERSION of slot k. -/
def State.setVersion (s : State) (k v : Nat) : State :=
  (s.put (Reg.FW_VER_LO_VERSION k) (v % 2 ^ 18)).put (Reg.FW_VER_HI_VERSION k) (v / 2 ^ 18)

/-- A LOAD ends with a RESULT: the slot is VALID or REJECTED. -/
def State.loadEnd (s : State) (k result : Nat) : State :=
  let s1 := (s.put (Reg.FW_SLOT_STATE k) (if result = 0 then slotValid else slotRejected)).put Reg.FW_STAT_OP 0
  let s2 : State := { s1 with fw := { s1.fw with loadSlot := none } }
  let s3 := s2.fwResult result
  if result = 0 then (s3.fwEvent Reg.FW_EVENT_LOAD_DONE).log 9 3 k 0 0
  else if result = 3 ∨ result = 4 then s3.log 9 4 k 0 0
  else s3

/-- The image is copied into slot k and checked. -/
def State.loadCopy (s : State) (k : Nat) : State :=
  let r := s.readBytes s.fw.loadSrc s.fw.loadLen {}
  let bs := r.2.1
  (((r.1.writeBytes (slotBase k) bs false {}).1).setVersion k (headerOf bs).version).loadEnd k (s.imageResult bs)

/-! ACTIVATE (R363, R364) -/

/-- The clusters in service, ascending. -/
def State.clusters (s : State) : List Nat := [0, 1, 2, 3].filter s.cluOn

/-- ACTIVATE is refused with a RESULT, or starts. -/
def State.activateReq (s : State) (x : Sender) : State :=
  if s.fwMay x then
    let k := s.bootChoice
    let run := s.get Reg.FW_STAT_RUN
    if s.fwBusy ∨ k = goldenImage ∨ k = run then s.fwResult 7
    else if s.compatOf k ≠ s.compatOf run then s.fwResult 6
    else
      let s1 := (s.put Reg.FW_STAT_OP opActivate).put Reg.FW_STAT_ACT_CLU (s.clusters.headD 0)
      { s1 with fw := { s1.fw with act := some { slot := k, done := [], todo := s.clusters, step := 2, rollback := false } } }
  else s

/-- CMD = ACTIVATE (R363). -/
def execActivate (from_ : Sender) (s : State) : Host.Outcome State Fault Refusal :=
  .next (if s.reaches from_ 0xE00 true then s.activateReq from_ else s)

def State.setAct (s : State) (a : Option Activation) : State := { s with fw := { s.fw with act := a } }

/-- The update goes on with the clusters left to do. -/
def State.actNext (s : State) (a : Activation) : State :=
  (s.setAct (some { a with step := if a.todo.isEmpty then 6 else 2, moved := [] })).put Reg.FW_STAT_ACT_CLU (a.todo.headD 0)

/-- The activation's last step (Table 15-5, step 6; R364 for one that was rolled back). -/
def State.actEnd (s : State) (a : Activation) : State :=
  let s1 := (s.setAct none).put Reg.FW_STAT_OP 0
  if a.rollback then s1
  else ((((s1.put Reg.FW_STAT_RUN a.slot).fwResult 0).fwEvent Reg.FW_EVENT_ACT_DONE).raiseFloor a.slot).log 9 6 a.slot 0 0

/-- The check of step 4 has failed (R364): the cluster reloads the running image, and those already updated return to it in
reverse order. -/
def State.rollBack (s : State) (a : Activation) : State :=
  let s1 := ((s.put (Reg.FW_SLOT_STATE a.slot) slotRejected).fwResult 3).log 9 4 a.slot 0 0
  s1.setAct (some { a with todo := a.todo.take 1 ++ a.done.reverse, done := [], step := 5, rollback := true })

/-- The current cluster resumes, and takes back its channels (Table 15-5, step 5). -/
def State.actResume (s : State) (a : Activation) (c : Nat) : State :=
  (a.moved.foldl (fun (t : State) ch => t.put (Reg.MB_STAT_SERVER ch) c) s).actNext
    { a with done := a.done ++ [c], todo := a.todo.drop 1 }

/-- One step of one cluster's update; a cluster that has been taken out is skipped (R374), and one that does not resume is
taken out (R366). `ok` tells whether the step's check passes. -/
def State.actStep (s : State) (a : Activation) (ok : Bool) : State :=
  match a.todo with
  | [] => s.actEnd a
  | c :: rest =>
    if !s.cluOn c then s.actNext { a with todo := rest }
    else match a.step with
      | 2 =>
        let r := s.handOver c
        r.1.setAct (some { a with step := 3, moved := r.2 })
      | 3 => (s.clearPad c).setAct (some { a with step := 4 })
      | 4 =>
        if a.rollback then s.setAct (some { a with step := 5 })
        else if ok ∧ digestOk (s.slotBytes a.slot) then (s.meetSlot a.slot).setAct (some { a with step := 5 })
        else (s.meetSlot a.slot).rollBack a
      | _ => if ok then s.actResume a c else (s.clusterOut c).actNext { a with todo := rest }

/-- A step of an activation completes (R363, R364). -/
def execActivationStep (ok : Bool) (s : State) : Host.Outcome State Fault Refusal :=
  .next (match s.fw.act with
    | some a => if s.serving then (s.actStep a ok).cycleGo else s
    | none => s)

/-! ERASE (R376) -/

/-- An erase reaches every codeword of slot k, and a window that Sweeper holds there by the yielding method (R357). -/
def State.yieldSlot (s : State) (k : Nat) : State :=
  match s.fw.window with
  | some w =>
    if !w.redirect && !w.pad && decide (w.region = 63 ∧ slotBase k / 8 % 2 ^ 22 / 2048 ≤ w.window ∧
      w.window < slotBase k / 8 % 2 ^ 22 / 2048 + 256) then s.yieldHeld else s
  | none => s

/-- The words of slot k are erased. -/
def State.wipeSlot (s : State) (k : Nat) : State :=
  let m := s.image s.phys63
  let lo := slotBase k % 2 ^ 25 / 2
  s.setImage s.phys63 { m with
    cells := Map.keep m.cells (fun a => !decide (lo ≤ a ∧ a < lo + 0x200000))
    ecc := Map.keep m.ecc (fun i => !decide (lo ≤ 4 * i ∧ 4 * i < lo + 0x200000)) }

/-- ERASE of the named slot starts; it is refused for the running one (R374). -/
def State.eraseReq (s : State) (x : Sender) (k : Nat) : State :=
  if s.fwMay x then
    if s.fwBusy ∨ k = s.get Reg.FW_STAT_RUN then s.fwResult 7
    else
      let s1 := s.put Reg.FW_STAT_OP opErase
      { s1 with fw := { s1.fw with erasing := some k } }
  else s

/-- An ERASE ends: the slot is EMPTY (R376). -/
def State.eraseEnd (s : State) (k : Nat) : State :=
  let s1 := (((s.yieldSlot k).wipeSlot k).put (Reg.FW_SLOT_STATE k) slotEmpty).setVersion k 0
  (({ s1 with fw := { s1.fw with erasing := none } } : State).put Reg.FW_STAT_OP 0).fwResult 0

/-- CMD = ERASE (R376). -/
def execErase (from_ : Sender) (slot : Bool) (s : State) : Host.Outcome State Fault Refusal :=
  .next (if s.reaches from_ 0xE00 true then s.eraseReq from_ (b2n slot) else s)

/-! The end of a LOAD or an ERASE -/

/-- What holds region 63's words is over: the LOAD or the ERASE that runs ends. -/
def State.slotDone (s : State) : State :=
  match s.fw.loadSlot, s.fw.erasing with
  | some k, _ => if s.sourceOk then s.loadCopy k else s.loadEnd k 1
  | none, some k => s.eraseEnd k
  | none, none => s

/-- The copy and the checks of a LOAD end (R361), outside region 63's checkpoint wave (R125). An ERASE, whose end has no row of its
own, ends with this event too (log entry 110, DESIGN CHOICE). -/
def execLoadDone (s : State) : Host.Outcome State Fault Refusal :=
  .next (if (s.fw.loadSlot.isSome ∨ s.fw.erasing.isSome) ∧ s.serving ∧ ¬s.waveRegions.contains 63 then ((s.slotDone).settle).watch s
    else s)

/-! The life-cycle (R370 to R373) -/

/-- FW_TOKEN of H0 appends a word; beyond 40 words nothing (R376). -/
def State.tokenWord (s : State) (x : Sender) (v : Word) : State :=
  if isH0 x && decide (s.fw.token.length < 40) then { s with fw := { s.fw with token := s.fw.token ++ [v.setWidth 16] } } else s

/-- FW_TOKEN (R371). -/
def execFwToken (from_ : Sender) (value : Word) (s : State) : Host.Outcome State Fault Refusal :=
  .next (if s.reaches from_ 0xE10 true then s.tokenWord from_ value else s)

/-- The bytes of token words, the low one of each first. -/
def tokenBytes (ws : List (BitVec 16)) : List Byte := ws.flatMap (fun (w : BitVec 16) => [w.setWidth 8, (w >>> 8).setWidth 8])

/-- The token's signature verifies (R371). -/
def tokenSigned (ws : List (BitVec 16)) : Bool :=
  Config.tokenSigOk (sha256 (tokenBytes (ws.take 8))) (le256 (tokenBytes ((ws.drop 8).take 16))) (le256 (tokenBytes ((ws.drop 24).take 16)))

/-- Table 15-9 allows a change of state. -/
def lifeArrow (a b : Nat) : Bool :=
  decide ((a = 0 ∧ b = 1) ∨ (a = 1 ∧ (b = 2 ∨ b = 3)) ∨ (a = 2 ∧ (b = 1 ∨ b = 3)))

/-- FROM and TO of a token. -/
def tokenFrom (ws : List (BitVec 16)) : Nat := bits (ws.getD 4 0#16).toNat 15 8
def tokenTo (ws : List (BitVec 16)) : Nat := bits (ws.getD 4 0#16).toNat 7 0

/-- The conditions of R371 on serial number, CHANGES, state and transition. -/
def State.tokenFits (s : State) (ws : List (BitVec 16)) : Bool :=
  (List.range 4).all (fun i => decide ((ws.getD i 0#16).toNat = s.get (Reg.ID_SERIAL_SERIAL i))) &&
    decide ((ws.getD 5 0#16).toNat = s.get Reg.ID_LC_CHANGES ∧ tokenFrom ws = s.get Reg.ID_LC_STATE ∧
      s.get Reg.ID_LC_CHANGES < 32767) && lifeArrow (tokenFrom ws) (tokenTo ws)

/-- RESULT of FW_TOK_STAT for the loaded token. -/
def State.tokenResult (s : State) : Nat :=
  if s.fw.token.length ≠ 40 ∨ s.pwr.st ≠ .run ∨ s.get Reg.FW_STAT_OP ≠ 0 then 3
  else if !tokenSigned s.fw.token then 2
  else if !s.tokenFits s.fw.token then 3
  else 1

/-- Steps 1 and 2 of R372: hosts reset, stations disarmed, Sweeper and every firmware cluster stopped. -/
def State.wipeBegin (s : State) (goal : Nat) : State :=
  let s1 := s.putAll [(Reg.ID_LC_WIPING, 1), (Reg.FW_STAT_OP, opLife), (Reg.SWP_STAT_ACTIVE, 0), (Reg.SWP_STAT_LAG, 0),
    (Reg.FW_STAT_CLU_ON, 0), (Reg.FW_CORES_ON, 0)]
  let s2 := s1.existing.foldl (fun (t : State) h => t.functionReset h false) s1.dropWindow
  let s3 := ((List.range 8).filter s2.stnArmed).foldl (fun (t : State) n => t.disarmNow n) s2
  { s3 with fw := { s3.fw with wipePending := some goal, wipeStep := 3, wipePage := 64, act := none, loadSlot := none, erasing := none } }

/-- LC_APPLY of H0 (R371, R372). -/
def State.lcApply (s : State) (x : Sender) : State :=
  if isH0 x then
    let r := s.tokenResult
    let goal := tokenTo s.fw.token
    let s1 := ({ s with fw := { s.fw with token := [] } } : State).put Reg.FW_TOK_STAT_RESULT r
    if r = 1 then s1.wipeBegin goal else s1.fwEvent Reg.FW_EVENT_LC_REFUSED
  else s

/-- CMD = LC_APPLY (R371). -/
def execLcApply (from_ : Sender) (s : State) : Host.Outcome State Fault Refusal :=
  .next (if s.reaches from_ 0xE00 true then s.lcApply from_ else s)

/-- The registers that region 63 restores take their never-stored values. -/
def State.neverStored (s : State) : State :=
  let rs : Map Word := s.regs.map (fun e => (e.1, (e.2 &&& ~~~(restoredMask e.1)) ||| (regReset e.1 &&& restoredMask e.1)))
  { s with regs := rs.filter (fun e => decide (e.2 ≠ regReset e.1)) }

/-- MB_SRC, MB_COLL and MB_EVENT take their reset values with the mailboxes (R316). -/
def State.mailboxRegs (s : State) : State :=
  { s with regs := Map.keep s.regs (fun a => !(decide (0x300 ≤ a ∧ a < 0x380 ∧ (a % 0x10 = 4 ∨ a % 0x10 = 5 ∨ a % 0x10 = 7)) || decide (0x3A0 ≤ a ∧ a ≤ 0x3A4))) }

/-- Step 3 of R372: every region with its planes and seals, the scratchpads, and the device state, are as on a device never
stored; a checkpoint that runs ends there, with no seal. -/
def State.wipeArray (s : State) : State :=
  let s1 : State := { s.neverStored.mailboxRegs with
    fw := { s.fw with pads := [] }
    arr := [], planeA := [], planeB := [], sealA := [], sealB := [], phys63 := 63, dev := {}, devA := [], devB := []
    clearing := [], mboxes := [], poss := [], led := {}, heldWrites := [], store := none
    keep := { s.keep with hot := [], hotRange := (0, 0), hotNext := none, flush := [], flushFor := none } }
  (s1.put36 Reg.VOL_NEXT_LO Reg.VOL_NEXT_HI 1).put Reg.VOL_RETURN_NO_EPOCH 0

/-- Step 4 of R372 for one page: its words are FRESH. -/
def State.wipePageNow (s : State) : State :=
  let p := s.fw.wipePage
  let s1 := s.setKeep ((List.range 64).map (fun i => (64 * p + i, 0#18)))
  { s1 with fw := { s1.fw with wipePage := p + 1, wipeStep := if 511 ≤ p then 5 else 4 } }

/-- Step 5 of R372: the new state, in which RETIRED sets the standby hold (Table 15-9). -/
def State.lifeChange (s : State) (goal : Nat) : State :=
  let s1 := (s.put Reg.ID_LC_STATE goal).put Reg.ID_LC_CHANGES (s.get Reg.ID_LC_CHANGES + 1)
  let s2 := if goal = 3 then s1.put Reg.SUP_PWR_HOLD 1 else s1
  { s2 with fw := { s2.fw with wipePending := none, wipeStep := 6 } }

/-- Steps 6 and 7 of R372: the log entry, then a warm reset; a resumed wipe boots the golden image and enters RUN (R373). -/
def State.wipeEnd (s : State) (cores : Nat) : State :=
  let s1 := s.putAll [(Reg.ID_LC_WIPING, 0), (Reg.FW_STAT_OP, 0)]
  let s2 : State := { s1 with fw := { s1.fw with wipeStep := 0 } }
  let s3 := s2.log 10 1 (s2.get Reg.ID_LC_STATE) (s2.get Reg.ID_LC_CHANGES) 0
  if s3.pwr.st = .run then s3.resetVolley false else (s3.bootDone cores).enterRun

/-- The wipe's step that runs completes. -/
def State.wipeStepDone (s : State) (cores : Nat) : State :=
  match s.fw.wipeStep with
  | 3 => let s1 := s.wipeArray; { s1 with fw := { s1.fw with wipeStep := 4 } }
  | 4 => if s.keepBusy then s else s.wipePageNow
  | 5 => (match s.fw.wipePending with | some goal => s.lifeChange goal | none => s)
  | 6 => s.wipeEnd cores
  | _ => s

/-- A step of the life-cycle wipe completes (R372), in RUN or in a wake that resumes it (R373); `cores` are the cores that pass
the test of the boot that such a wake ends with (R366). -/
def execLcWipeStep (s : State) (cores : BitVec 16 := 0xFFFF#16) : Host.Outcome State Fault Refusal :=
  .next (if s.pwr.st = .run ∨ (s.pwr.st = .waking ∧ s.pwr.cpllLocked) then s.wipeStepDone cores.toNat else s)

/-! Degradation (R365, R366) -/

/-- A core misses its watchdog, or takes an uncorrectable local error (R365). -/
def execCoreWatchdog (core : Fin 16) (s : State) : Host.Outcome State Fault Refusal :=
  .next (if s.serving then (s.coreOut core.val).cycleGo else s)

end Sys2Proof.Machine
end

