-- ==== Sys2Proof/Machine/Rings.lean ====
section
/-! DEFINITION. The commands of rings and doorbells (spec/06). An event whose condition does not hold leaves the state as it is
(log entry 13). -/

namespace Sys2Proof.Machine
open Sys2Proof

/-- The poll period of a host expires and a poll may be issued: fewer than four are outstanding (R175). -/
def State.mayPoll (s : State) (h : PHost) : Bool :=
  s.linkOpen h && s.hostExists h && !(s.host h).d3 && s.polls h && decide ((s.host h).polls < 4 ∧ s.nonPosted h < (s.host h).tags)

/-- A poll is issued, `idle` µs after the host's last activity, and the next period set (R175). -/
def execDoorbellPoll (h : PHost) (idle : Nat) (s : State) : Host.Outcome State Fault Refusal :=
  .next (if s.mayPoll h then
      (let s1 := (s.leaveL1 h).emit (.pollRead h)
       s1.setHost h { s1.host h with period := s1.nextPeriod h idle, polls := (s1.host h).polls + 1 })
    else s)

/-- Poll data arrives (R174, R175). -/
def execPollDataArrival (h : PHost) (block : BitVec 512) (s : State) : Host.Outcome State Fault Refusal :=
  .next (if s.linkOpen h ∧ 0 < (s.host h).polls then s.pollData h block else s)

/-- A poll fails: DB_ERR once per run of failures (Table 6-10). -/
def State.pollFailed (s : State) (h : PHost) : State :=
  let p := s.host h
  let s1 := s.setHost h { p with polls := p.polls - 1, failing := true }
  if p.failing then s1 else s1.hostEvent h Reg.HOST_EVENT_DB_ERR

/-- A poll returns an error or times out (R189). -/
def execPollError (h : PHost) (s : State) (why : ReadFail := .timeout) : Host.Outcome State Fault Refusal :=
  .next (if s.serving ∧ 0 < (s.host h).polls then (s.readFailed h why).pollFailed h else s)

/-- Polls have failed without a break for 100 ms: every ACTIVE SQ of the host is STOPPED (R189). -/
def execPollFailTimeout (h : PHost) (s : State) : Host.Outcome State Fault Refusal :=
  .next (if s.serving ∧ (s.host h).failing then
      (([0, 1, 2, 3] : List Ring).filter (fun j => decide (s.sqState h.val j.val = sqActive))).foldl
        (fun (t : State) j => t.stopSq h j.val errDb) s
    else s)

/-- A descriptor fetch fails: the SQ is STOPPED at its HEAD, and nothing more that was asked for arrives (R189). -/
def execFetchError (h : PHost) (j : Ring) (s : State) (why : ReadFail := .timeout) : Host.Outcome State Fault Refusal :=
  .next (if s.serving ∧ 0 < s.sqFetching h j.val then (((s.readFailed h why).setFetching h j.val 0).stopSq h j.val errFetch).settle
    else s)

/-- Host data of a descriptor arrives (R189, R396). -/
def execHostDataArrival (h : PHost) (j : Ring) (tag : BitVec 16) (data : HostData) (ups : List Upset) (s : State) (pads : PadTraffic := {}) :
    Host.Outcome State Fault Refusal :=
  .next (s.hostData h j tag data ups pads)

/-- A host data read times out (R161, R167, R189). -/
def execHostReadTimeout (h : PHost) (j : Ring) (tag : BitVec 16) (s : State) (lost : Bool := false) :
    Host.Outcome State Fault Refusal :=
  .next (if s.serving then s.hostTimeout h j tag lost else s)

/-- TIME of a CQ has elapsed since the oldest completion without a message (R182). -/
def execCqTimeExpiry (h : PHost) (j : Ring) (s : State) : Host.Outcome State Fault Refusal :=
  .next (if s.linkOpen h ∧ s.flag (Reg.HOST_CQ_CFG_IEN h.val j.val) ∧ 0 < Map.get (fun _ => 0) (s.host h).unsent j.val then
      s.cqSend h j.val
    else s)

/-- A vector is unmasked: a pending message is sent, unless the function mask still holds it (R166). -/
def State.unmask (s : State) (h : PHost) (v : Nat) : State :=
  let p := s.host h
  let m : BitVec 32 := BitVec.ofNat 32 (2 ^ v)
  let s1 := s.setHost h { p with masked := p.masked &&& ~~~m }
  if bit p.pba.toNat v && !p.cfgBit cfgMsixCtl 30 then (s1.setHost h { s1.host h with pba := p.pba &&& ~~~m }).msix h v else s1

/-- A vector of a function that BAR0 reaches is unmasked (R166). -/
def execMsixUnmask (h : PHost) (vec : BitVec 5) (s : State) : Host.Outcome State Fault Refusal :=
  .next (if s.barLive h then s.unmask h vec.toNat else s)

/-- A write of HOST_SQ_CFG_h_j, and the completions that follow from it (R172, Table 6-5). -/
def State.sqSet (s : State) (x : Sender) (h : PHost) (j : Ring) (v : Word) : State := (s.sqCfgWrite x h j.val v).settle

/-- A write of HOST_CQ_CFG_h_j: a first CQ after Return takes the replay records (R172, R188, Table 6-5). -/
def State.cqSet (s : State) (x : Sender) (h : PHost) (j : Ring) (v : Word) : State :=
  ((s.cqCfgWrite x h j.val v).replayWrite h).settle

/-- EN is written 1 in HOST_SQ_CFG (R172). -/
def execSqEnable (from_ : Sender) (h : PHost) (j : Ring) (value : Word) (s : State) : Host.Outcome State Fault Refusal :=
  .next (if s.reaches from_ (Reg.HOST_SQ_CFG h.val j.val).addr true then s.sqSet from_ h j value else s)

/-- EN is written 0 in HOST_SQ_CFG (R172). -/
def execSqDisable (from_ : Sender) (h : PHost) (j : Ring) (value : Word) (s : State) : Host.Outcome State Fault Refusal :=
  .next (if s.reaches from_ (Reg.HOST_SQ_CFG h.val j.val).addr true then s.sqSet from_ h j value else s)

/-- EN is written 1 in HOST_CQ_CFG (R172, R188). -/
def execCqEnable (from_ : Sender) (h : PHost) (j : Ring) (value : Word) (s : State) : Host.Outcome State Fault Refusal :=
  .next (if s.reaches from_ (Reg.HOST_CQ_CFG h.val j.val).addr true then s.cqSet from_ h j value else s)

/-- EN is written 0 in HOST_CQ_CFG (R172). -/
def execCqDisable (from_ : Sender) (h : PHost) (j : Ring) (value : Word) (s : State) : Host.Outcome State Fault Refusal :=
  .next (if s.reaches from_ (Reg.HOST_CQ_CFG h.val j.val).addr true then s.cqSet from_ h j value else s)

/-- Replay and end records are written while the CQ has slots (R188). -/
def execReplayWrite (h : PHost) (s : State) : Host.Outcome State Fault Refusal := .next (s.replayWrite h)

/-- CUT_DISCARD of HOST_CTL_h, from Hh or H0: the records that remain are discarded, and fetching goes on (R188, R191). -/
def State.cutDiscard (s : State) (x : Sender) (h : PHost) : State :=
  if mayRing x h && s.hostExists h then
    let s1 : State := { s with dev := { s.dev with replay := s.dev.replay.filter (fun r => decide (r.host ≠ h)) } }
    (s1.setHost h { s1.host h with replayCq := none }).issueFetches h
  else s

/-- CUT_DISCARD is written (R188). -/
def execCutDiscard (from_ : Sender) (h : PHost) (s : State) : Host.Outcome State Fault Refusal :=
  .next (if s.reaches from_ (Reg.HOST_CTL h.val).addr true then s.cutDiscard from_ h else s)

end Sys2Proof.Machine
end

