-- ==== Sys2Proof/Machine/HostPorts.lean ====
section
/-! DEFINITION. The commands of the PCIe links and functions (spec/06). An event whose condition does not hold leaves the state as
it is (log entry 13). -/

namespace Sys2Proof.Machine
open Sys2Proof

/-- The port of a host is bifurcated (R62). -/
def State.split (s : State) (h : PHost) : Bool := bit (s.get Reg.ID_STRAP_MP) (if h.val < 2 then 0 else 1)

/-- The first port lane of a host's link and its lanes (R156, R158). -/
def State.lanesOf (s : State) (h : PHost) : Nat × Nat := if s.split h then (4 * (h.val % 2), 4) else (0, 8)

/-- A width w from Table 6-1 whose lanes are all good, from the low end or, reversed, from the high end (R158). -/
def widthGood (bad n w : Nat) : Bool :=
  decide (w ≤ n) && ((List.range w).all (fun l => !bit bad l) || (List.range w).all (fun l => !bit bad (n - 1 - l)))

/-- The largest width of at most `most` lanes that the good lanes of a link form (R158). -/
def State.bestWidth (s : State) (h : PHost) (most : Nat) : Option Nat :=
  let ln := s.lanesOf h
  [8, 4, 2, 1].find? (fun w => decide (w ≤ most) && widthGood (s.get (Reg.HOST_LINK_BAD h.val) / 2 ^ ln.1) ln.2 w)

/-- The link retrains to a speed and a width: no TLP until it ends (R158, R159); LINK_CHG when either changed. -/
def State.retrainTo (s : State) (h : PHost) (speed width : Nat) : State :=
  let change := s.get (Reg.HOST_LINK_SPEED h.val) ≠ speed ∨ s.get (Reg.HOST_LINK_WIDTH h.val) ≠ width
  let s1 := (s.put (Reg.HOST_LINK_SPEED h.val) speed).put (Reg.HOST_LINK_WIDTH h.val) width
  let s2 := s1.setHost h { s1.host h with retraining := true, l1 := false }
  if change then s2.hostEvent h Reg.HOST_EVENT_LINK_CHG else s2

/-- RETRAIN of HOST_LCTL_h, from Hh or H0: the bad marks clear and an active link retrains at the full width and MAX_SPEED
(R158, R191). -/
def State.retrain (s : State) (x : Sender) (h : PHost) : State :=
  if mayRing x h && s.hostExists h then
    let s1 := s.put (Reg.HOST_LINK_BAD h.val) 0
    if (s1.host h).up then s1.retrainTo h (s1.get (Reg.HOST_LCTL_MAX_SPEED h.val)) (s1.lanesOf h).2 else s1
  else s

/-- RETRAIN is written (R158). -/
def execRetrain (from_ : Sender) (h : PHost) (s : State) : Host.Outcome State Fault Refusal :=
  .next (if s.reaches from_ (Reg.HOST_LCTL h.val).addr true then s.retrain from_ h else s)

/-- A lane of an active link becomes bad: the link retrains at no more than its present width, or goes down when no width is left
(R158). -/
def State.laneBad (s : State) (h : PHost) (lane speed : Nat) : State :=
  let f := (Reg.HOST_LINK_BAD h.val).at lane
  let s1 := (s.put f 1).hostEvent h Reg.HOST_EVENT_LANE_BAD
  match s1.bestWidth h (s.get (Reg.HOST_LINK_WIDTH h.val)) with
  | some w => s1.retrainTo h (min speed (s1.get (Reg.HOST_LCTL_MAX_SPEED h.val))) w
  | none => s1.linkGone h

/-- A lane is bad with more receiver errors in 1 ms than ERR_LIMIT allows, or, `none`, for it fails equalisation (R158). -/
def State.laneFails (s : State) (h : PHost) (errors : Option Nat) : Bool :=
  match errors with
  | some n => decide (s.get (Reg.HOST_LCTL_ERR_LIMIT h.val) < n)
  | none => true

/-- The receiver errors of port lane `lane` of Hh's link in 1 ms, or its failed equalisation; the rate at which a link that retrains
for it completes equalisation is `speed` (R158). -/
def execLaneBad (h : PHost) (lane : Fin 8) (speed : BitVec 3) (s : State) (errors : Option Nat := none) :
    Host.Outcome State Fault Refusal :=
  .next (if s.serving ∧ (s.host h).up ∧ (s.lanesOf h).1 ≤ lane.val ∧ lane.val < (s.lanesOf h).1 + (s.lanesOf h).2 ∧ s.laneFails h errors then
      (s.laneBad h lane.val speed.toNat).cycleGo
    else s)

/-- A retraining ends below the rate that it began with (R158). -/
def State.slower (s : State) (h : PHost) (speed : Nat) : State :=
  if speed < s.get (Reg.HOST_LINK_SPEED h.val) then
    (s.put (Reg.HOST_LINK_SPEED h.val) speed).hostEvent h Reg.HOST_EVENT_LINK_CHG
  else s

/-- The link is back in L0 at the highest rate, up to `speed`, at which it completed equalisation: what waited is sent, and fetching
and execution go on (R158, R159). -/
def execLinkRetrained (h : PHost) (s : State) (speed : BitVec 3 := 7#3) : Host.Outcome State Fault Refusal :=
  .next (if s.serving ∧ (s.host h).up ∧ (s.host h).retraining then
      (((((s.slower h (max 1 speed.toNat)).setHost h { (s.slower h (max 1 speed.toNat)).host h with retraining := false }).sendDue
        h).replayWrite h).issueFetches h).settle
    else s)

/-- The link leaves DL_Up (R160). -/
def execLinkDown (h : PHost) (s : State) : Host.Outcome State Fault Refusal :=
  .next (if s.serving ∧ (s.host h).up then (s.linkGone h).cycleGo else s)

/-- The reference clock of a host's port is present again once a link of it trains. -/
def State.refBack (s : State) (h : PHost) : State :=
  { s with pwr := if h.val < 2 then { s.pwr with refclk0 := true } else { s.pwr with refclk1 := true } }

/-- A rate and a width of Table 6-1 that the link may take: at least 2.5 GT/s, at most 32 GT/s and MAX_SPEED, and no wider than its
port or its half of one. -/
def State.forms (s : State) (h : PHost) (speed width : Nat) : Bool :=
  decide (1 ≤ speed ∧ speed ≤ 5 ∧ width ≤ (s.lanesOf h).2) && [1, 2, 4, 8].contains width

/-- The link trains to DL_Up while PERSTh_N is high in RUN or DRAIN (R157), at no more than MAX_SPEED. -/
def execLinkUp (h : PHost) (speed : BitVec 3) (width : BitVec 4) (s : State) : Host.Outcome State Fault Refusal :=
  .next (if s.serving ∧ s.hostExists h ∧ (s.host h).perstN ∧ ¬(s.host h).up ∧ s.forms h speed.toNat width.toNat then
      (let s1 := (s.refBack h).put (Reg.HOST_LINK_SPEED h.val) (min speed.toNat (s.get (Reg.HOST_LCTL_MAX_SPEED h.val)))
       let s2 := s1.put (Reg.HOST_LINK_WIDTH h.val) width.toNat
       s2.setHost h { s2.host h with up := true, ready := false, retraining := false, l1 := false })
    else s)

/-- The function is ready (R157). -/
def execFunctionReady (h : PHost) (s : State) : Host.Outcome State Fault Refusal :=
  .next (if s.serving ∧ (s.host h).up then s.setHost h { s.host h with ready := true } else s)

/-- PERST_N returns the whole configuration space to its reset values. -/
def State.coldConfig (s : State) (h : PHost) : State := s.setHost h { s.host h with cfg := [] }

/-- PERSTh_N goes low: as a link-down, in RUN or DRAIN; else it is latched (R157, R186). -/
def execPerstLow (h : PHost) (s : State) : Host.Outcome State Fault Refusal :=
  .next (if (s.host h).perstN then
      (let s1 := s.setHost h { s.host h with perstN := false }
       (if s1.serving && s1.hostExists h then (s1.linkGone h).cycleGo else s1).coldConfig h)
    else s)

/-- PERSTh_N goes high: WAKEh_N is released and the link trains (R157, R168). -/
def execPerstHigh (h : PHost) (s : State) : Host.Outcome State Fault Refusal :=
  .next (
    let p := s.host h
    let s1 := s.setHost h { p with perstN := true, wakeLow := false }
    if p.wakeLow then s1.emit (.wakeN h false) else s1)

/-- An FLR request arrives for a host's function (R186). -/
def execFlr (h : PHost) (s : State) : Host.Outcome State Fault Refusal :=
  .next (if s.serving ∧ (s.host h).up then s.functionReset h false else s)

/-- The function moves to D3hot: fetching stops (R168). -/
def execD3hotEntry (h : PHost) (s : State) : Host.Outcome State Fault Refusal :=
  .next (if s.serving ∧ (s.host h).up then s.setHost h { s.host h with d3 := true } else s)

/-- The function moves back to D0: a function-level reset that discards the replay records (R168, R186). -/
def execD0Entry (h : PHost) (s : State) : Host.Outcome State Fault Refusal :=
  .next (if s.serving ∧ (s.host h).up ∧ (s.host h).d3 then s.functionReset h false else s)

/-- The link enters ASPM L1, where its host has enabled that (R168). -/
def execAspmL1Entry (h : PHost) (s : State) : Host.Outcome State Fault Refusal :=
  .next (if s.serving ∧ (s.host h).up ∧ ¬(s.host h).retraining ∧ (s.host h).cfgBit cfgLinkCtl 1 then (s.setHost h { s.host h with l1 := true }).cycleGo else s)

end Sys2Proof.Machine
end

