-- ==== Sys2Proof/Machine/Keep.lean ====
section
/-! DEFINITION. The commands of the Keep (spec/11). An event whose condition does not hold leaves the state as it is (log entry
13). -/

namespace Sys2Proof.Machine
open Sys2Proof

/-! Page writes (R292, R293, R296) -/

/-- Page writes may start: the device is powered and no power-fail runs its course (R297). -/
def State.keepAlive (s : State) : Bool := decide (s.pwr.st ≠ .off ∧ s.pwr.st ≠ .volley)

/-- A hot flush's next page write (R301); with no page left that differs, the flush ends. -/
def State.flushNext (s : State) : State :=
  match s.keep.flush.dropWhile (fun p => (s.hotDiff p).isEmpty) with
  | p :: ps => (({ s with keep := { s.keep with flush := ps } } : State)).pageStart .hotFlush p (s.hotDiff p)
  | [] => ({ s with keep := { s.keep with flush := [] } } : State).flushEnd

/-- The H0 submission starts, and the page buffer is emptied (R295); a page that has become hot meanwhile is written, or refused, as
one (R300). -/
def State.submitStart (s : State) (p : Nat) : State :=
  if s.isHot p then (s.writeHot p s.keep.buf).clearBuffer
  else if s.inHot p then s.clearBuffer.keepEvent Reg.KEEP_EVENT_HOT_REFUSED
  else (s.pageStart .h0 p s.keep.buf).clearBuffer

/-- The submission's page, when it may start now. -/
def State.submitPage (s : State) : Option Nat :=
  if s.keep.submitted then s.keep.bufPage.filter (fun p => !s.hotChanging p) else none

/-- The next waiting page write starts, by the order of R296. -/
def State.pageNext (s : State) : State :=
  if s.spillReady then s.spillStart
  else if s.serving && s.flag Reg.LED_KEEP_STAT_DUE then s.copyStart
  else if s.serving && !s.keep.flush.isEmpty then s.flushNext
  else match s.submitPage with
    | some p => s.submitStart p
    | none =>
      match s.keepNext with
      | some (i, f) => if s.serving then s.keepBegin i f else s
      | none => s

/-- PAGE_WRITE_START (R292, R296). -/
def execPageWriteStart (s : State) : Host.Outcome State Fault Refusal :=
  .next (if s.keepAlive ∧ !s.keepBusy then s.pageNext else s)

/-- A page-write phase ends and the next begins (Table 11-2). -/
def execPageWritePhase (s : State) : Host.Outcome State Fault Refusal :=
  .next (match s.keep.run with
    | some r => if r.phase ≤ 3 then s.pagePhase r else s
    | none => s)

/-- A loaded word fails its verify read: it holds a free value other than COMMITTED with its new one (R293, log entry 7). -/
def State.verifyFail (s : State) (a : Nat) : State :=
  let w := s.drawWord
  let v := if w.1 = s.keepArray a then w.1 ^^^ 0x20000#18 else w.1
  ((((w.2.setKeep [(a, v)]).keepEvent Reg.KEEP_EVENT_VERIFY).put Reg.KEEP_FAIL_ADDR a).log 4 2 a 0 0)

/-- The descriptor whose page write runs completes (R198, R293). -/
def State.keepComplete (s : State) : State :=
  match s.findFlight (fun f => decide (f.stage = .pageWrite) && f.compl.isNone) with
  | some (i, f) => s.fixFlight i { status := Status.done, result := BitVec.ofNat 64 f.result }
  | none => s

/-- A counter copy ends: LAST, COPY_FAIL, and the step of DRAIN that waits for it (R46, R280, R293). -/
def State.copyEnd (s : State) (failed : Bool) : State :=
  let s1 := s.put Reg.LED_KEEP_STAT_LAST (if failed then 2 else 0)
  let s2 := if failed then s1.ledEvent Reg.LED_EVENT_COPY_FAIL else s1
  if s2.pwr.st = .drain ∧ s2.pwr.drainStep = .counterCopy ∧ !s2.flag Reg.LED_KEEP_STAT_DUE then
    { s2 with pwr := { s2.pwr with drainStep := .ready } }
  else s2

/-- The writer is told that its write is done (Table 11-2, step 4). -/
def State.tellWriter (s : State) (r : PageWrite) (failed : Bool) : State :=
  match r.writer with
  | .h0 => s.keepEvent Reg.KEEP_EVENT_DONE
  | .descriptor => s.keepComplete
  | .counterCopy => s.copyEnd failed
  | .spill => (s.put Reg.SUP_FIRST_SPILL_PENDING 0).supEvent Reg.SUP_EVENT_SPILLED
  | .hotFlush => if s.keep.flush.isEmpty then s.flushEnd else s
  | .bp => s

/-- The verify read ends; `bad` names the loaded words that failed it, in the order read. -/
def State.pageDone (s : State) (r : PageWrite) (bad : List Nat) : State :=
  let s1 := if r.phase = 3 then s.pagePhase r else s
  let s2 := bad.foldl State.verifyFail s1
  let s3 : State := { s2 with keep := { s2.keep with run := none } }
  (s3.tellWriter r (!bad.isEmpty)).scriptResume

/-- A word is one of a page write's loaded words. -/
def PageWrite.loads (r : PageWrite) (a : Nat) : Bool := r.words.any (fun (e : Nat × BitVec 16) => decide (64 * r.page + e.1 = a))

/-- PAGE_WRITE_DONE (R293). -/
def execPageWriteDone (bad : List (BitVec 15)) (s : State) : Host.Outcome State Fault Refusal :=
  .next (match s.keep.run with
    | some r =>
      if 3 ≤ r.phase ∧ bad.all (fun b => r.loads b.toNat) ∧ bad.Nodup then (s.pageDone r (bad.map (·.toNat))).settle else s
    | none => s)

/-! The page buffer and its registers (R294, R295, R307) -/

/-- An access of H0 to a Keep data register is served: it is H0's, and no Volley runs (Table 14-5). -/
def State.keepOpen (s : State) (x : Sender) (a : Nat) (write : Bool) : Bool :=
  s.reaches x a write && isH0 x && decide (s.pwr.st ≠ .volley)

/-- A read of KEEP_RDATA: for H0 the word at ADDR, and ADDR advances; 0 for any other sender (R307). -/
def execKeepRdata (from_ : Sender) (s : State) : Host.Outcome State Fault Refusal :=
  .next (if s.keepOpen from_ 0x283 false then
      (if s.addrBusy then s
       else
         (let r := s.readData
          r.1.answer from_ 0x283 r.2))
    else if s.reaches from_ 0x283 false ∧ ¬isH0 from_ then s.answer from_ 0x283 0#18
    else s)

/-- A write of KEEP_WDATA (R295). -/
def execKeepWdata (from_ : Sender) (value : Word) (s : State) : Host.Outcome State Fault Refusal :=
  .next (if s.keepOpen from_ 0x284 true ∧ !s.addrBusy then s.loadBuffer (value.setWidth 16) else s)

/-- FLUSH: taken in RUN while no flush and no range change runs (R301). -/
def State.flushReq (s : State) : State :=
  if s.pwr.st = .run ∧ s.keep.flushFor.isNone ∧ s.keep.hotNext.isNone then s.flushStart .command else s

/-- A write of KEEP_CMD that is not answered BUSY: CLEAR wins over WRITE (R295). -/
def State.keepCmd (s : State) (write clear flush : Bool) : State :=
  if s.cmdBusy write clear then s
  else
    let s1 := if flush then s.flushReq else s
    if clear then s1.clearBuffer else if write then s1.submitBuffer else s1

/-- WRITE in KEEP_CMD (R295). -/
def execKeepCmdWrite (from_ : Sender) (s : State) : Host.Outcome State Fault Refusal :=
  .next (if s.keepOpen from_ 0x285 true then s.keepCmd true false false else s)

/-- CLEAR in KEEP_CMD (R295). -/
def execClear (from_ : Sender) (s : State) : Host.Outcome State Fault Refusal :=
  .next (if s.keepOpen from_ 0x285 true then s.keepCmd false true false else s)

/-- FLUSH in KEEP_CMD (R301). -/
def execFlush (from_ : Sender) (s : State) : Host.Outcome State Fault Refusal :=
  .next (if s.keepOpen from_ 0x285 true then s.keepCmd false false true else s)

/-- A new BP applies at once and starts the page write of word 0x0FFF; while a page write runs it is not applied (R291). -/
def State.bpUpdate (s : State) (x : Sender) (bp : Nat) : State :=
  if isH0 x && !s.keepBusy && decide (s.get Reg.KEEP_CTL_BP ≠ bp) then
    (s.put Reg.KEEP_CTL_BP bp).pageStart .bp 63 [(63, BitVec.ofNat 16 bp)]
  else s

/-- BP_UPDATE (R291). -/
def execBpUpdate (from_ : Sender) (bp : BitVec 2) (s : State) : Host.Outcome State Fault Refusal :=
  .next (if s.reaches from_ 0x280 true then s.bpUpdate from_ bp.toNat else s)

/-! The hot range (R302) -/

/-- KEEP_HOT (R302). -/
def execKeepHot (from_ : Sender) (value : Word) (s : State) : Host.Outcome State Fault Refusal :=
  .next (if s.reaches from_ 0x289 true then (s.hotWrite from_ value).settle else s)

/-- The old range is flushed and no page write runs: the new one is loaded and takes over (R302, steps 3 to 5). -/
def execHotRangeSwitch (s : State) : Host.Outcome State Fault Refusal :=
  .next (match s.keep.hotNext with
    | some r => if s.serving ∧ s.keep.flush.isEmpty ∧ s.keep.flushFor.isNone ∧ !s.keepBusy then (s.hotSwitch r).settle else s
    | none => s)

end Sys2Proof.Machine
end

