-- ==== Sys2Proof/Machine/LedgerPulse.lean ====
section
/-! DEFINITION. The commands of stage pulses and billing counters (spec/10). An event whose condition does not hold leaves the
state as it is (log entry 13). -/

namespace Sys2Proof.Machine
open Sys2Proof

/-- An accepted pulse on MP0, MP1 or MP2 (R67, R275). -/
def execStagePulse (pin : Fin 3) (s : State) : Host.Outcome State Fault Refusal :=
  .next (if s.serving ∧ s.pinOn pin.val then s.ledEventNow (.pulse pin s.stamp) else s)

/-- An accepted JAM pulse on MP3 (R67, R276). -/
def execJamPulse (s : State) : Host.Outcome State Fault Refusal :=
  .next (if s.serving ∧ s.flag Reg.LED_CTL_JAM then (s.ledEvent Reg.LED_EVENT_JAM).ledEventNow (.jam s.queued s.stamp) else s)

/-- The wait limit of a pulse queue in LED_TMO. -/
def State.queueLimit (s : State) (q : Nat) : Nat :=
  match q with
  | 0 => s.get Reg.LED_TMO_T_TMO
  | 1 => s.get Reg.LED_TMO_F_TMO
  | _ => s.get Reg.LED_TMO_D_TMO

/-- A record has stayed in a queue longer than its limit (R277). -/
def execStageTimeout (queue : Fin 3) (index : BitVec 20) (s : State) : Host.Outcome State Fault Refusal :=
  .next (if s.serving ∧ s.queueLimit queue.val ≠ 0 ∧ (s.queue queue.val).contains index.toNat then
      s.ledEventNow (.timeout queue index.toNat s.stamp)
    else s)

/-- A trigger of R280 is met: one that waits, or the 10 s with a changed counter. The copy starts, or waits while a page write
runs or a first-fail spill is next (R296). -/
def execCounterCopyStart (s : State) : Host.Outcome State Fault Refusal :=
  .next (if s.serving ∧ (s.flag Reg.LED_KEEP_STAT_DUE ∨ s.led.changed) then
      (if s.keepBusy ∨ s.spillReady then s.put Reg.LED_KEEP_STAT_DUE 1 else s.copyStart)
    else s)

/-- A write of LED_CNT_SEL by H0 captures a counter and its credit (R287). -/
def State.ledCntSel (s : State) (x : Sender) (v : Word) : State :=
  if isH0 x then
    let i := bits v.toNat 3 0
    let s1 := s.put Reg.LED_CNT_SEL_SEL i
    [0, 1, 2].foldl (fun (t : State) (k : Nat) =>
      (t.put (Reg.LED_CNT_V_VALUE k) (s.counter i / 2 ^ (18 * k))).put (Reg.LED_CRD_V_CREDIT k) (s.credit i / 2 ^ (18 * k))) s1
  else s

/-- LED_CNT_SEL (R287). -/
def execLedCntSel (from_ : Sender) (value : Word) (s : State) : Host.Outcome State Fault Refusal :=
  .next (if s.reaches from_ 0xC20 true then s.ledCntSel from_ value else s)

end Sys2Proof.Machine
end

