-- ==== Sys2Proof/Machine/Station.lean ====
section
/-! DEFINITION. The commands of arming, scan timing and imaging (spec/08, spec/09). An event whose condition does not hold leaves
the state as it is (log entry 13). -/

namespace Sys2Proof.Machine
open Sys2Proof

/-- Base of station n's register window (R240). -/
def stnBase (n : Nat) : Nat := 0x800 + 0x80 * n

/-- A register write of a sender reaches a register of an enabled station's window (R8, R14). -/
def State.stnReaches (s : State) (x : Sender) (n off : Nat) (write : Bool) : Bool :=
  s.reaches x (stnBase n + off) write && s.stnEnabled n

/-- ARM in STN_CTL, of H0 or the owner host alone (R215). It gives up Sweeper's test of an emitter, at the end of the frame of it that is in
progress (R354). -/
def State.armReq (s : State) (x : Sender) (n : Nat) : State :=
  if s.stnMay x n then
    (if (s.stn n).swpFrame then s.setStn n { s.stn n with armWaits := some (((s.stn n).armWaits).getD x) } else (s.dropProbe n).arm x n)
  else s

/-- A DISARM takes back an ARM that still waits for Sweeper's frame. -/
def State.dropArm (s : State) (n : Nat) : State :=
  if (s.stn n).armWaits.isNone then s else s.setStn n { s.stn n with armWaits := none }

/-- DISARM in STN_CTL, of H0 or the owner host alone (R217). -/
def State.disarmReq (s : State) (x : Sender) (n : Nat) : State :=
  if s.stnMay x n then ((s.dropArm n).disarm n).drainAdvance.settle else s

/-- ARM (R215, R216). -/
def execArm (from_ : Sender) (n : StnId) (s : State) : Host.Outcome State Fault Refusal :=
  .next (if s.stnReaches from_ n.val 0 true then s.armReq from_ n.val else s)

/-- DISARM (R217). -/
def execDisarm (from_ : Sender) (n : StnId) (s : State) : Host.Outcome State Fault Refusal :=
  .next (if s.stnReaches from_ n.val 0 true then s.disarmReq from_ n.val else s)

/-- No qualified SOS has come within 1.0 s of arming (R216). -/
def execNoSos (n : StnId) (s : State) : Host.Outcome State Fault Refusal :=
  .next (if s.serving ∧ s.flag (Reg.STN_STATUS_WAIT_SOS n.val) then s.stnEvent n.val Reg.STN_EVENT_NO_SOS else s)

/-- A pulse on SXSn: the time of its leading edge in quarter S cycles, its width in S cycles and its level; and the time in 2⁻²⁴ S
cycle at which the FACET_START of an SOS leaves (R241, R242, R252). -/
def execSxsPulse (n : StnId) (t width : Nat) (s : State) (high : Bool := true) (leave : Nat := 0) :
    Host.Outcome State Fault Refusal :=
  .next ((s.sxsPulse n t width high leave).drainAdvance.settle)

/-- A station that is armed with the S PLL locked keeps its pulse windows. -/
def State.scanning (s : State) (n : Nat) : Bool := s.serving && s.pwr.spll && s.stnArmed n

/-- Put a station's pulse window. -/
def State.setWin (s : State) (n : Nat) (w : PulseWin) : State := s.setStn n { s.stn n with win := w }

/-- The EOS window opens (R242, step 3). -/
def execEosWindowOpen (n : StnId) (s : State) : Host.Outcome State Fault Refusal :=
  .next (if s.scanning n.val ∧ (s.stn n.val).win = .blanking ∧ s.flag (Reg.STN_SXS_CTL_EOS_EN n.val) then s.setWin n.val .eos else s)

/-- The EOS window ends: without an EOS the facet is flagged (R243). -/
def execEosWindowEnd (n : StnId) (s : State) : Host.Outcome State Fault Refusal :=
  .next (if s.scanning n.val then
      (match (s.stn n.val).win with
       | .eos => (s.setWin n.val .holdoff).stnLEvent n.val Reg.STN_LEVENT_RANGE
       | .blanking => if s.flag (Reg.STN_SXS_CTL_EOS_EN n.val) then s else s.setWin n.val .holdoff
       | _ => s)
    else s)

/-- The arming window opens (R242, step 4). -/
def execArmingWindowOpen (n : StnId) (s : State) : Host.Outcome State Fault Refusal :=
  .next (if s.scanning n.val ∧ ((s.stn n.val).win = .holdoff ∨
        ((s.stn n.val).win = .blanking ∧ !s.flag (Reg.STN_SXS_CTL_EOS_EN n.val))) then s.setWin n.val .arming
    else s)

/-- No qualified SOS has come within 1.5 × P_ref of the last one (R236). -/
def execStall (n : StnId) (s : State) : Host.Outcome State Fault Refusal :=
  .next (if s.serving ∧ s.flag (Reg.STN_STATUS_ARMED n.val) ∧ !s.flag (Reg.STN_STATUS_STALLED n.val) ∧
        (s.stn n.val).intervals ≠ [] then s.stallNow n.val
    else s)

/-- The FACET_END block of the facet in progress leaves (R238, R253). -/
def execFacetEnd (n : StnId) (s : State) : Host.Outcome State Fault Refusal :=
  .next (if s.serving then (s.facetEnd n).drainAdvance.settle else s)

/-- The next line is fetched into the line buffer (R214). -/
def execLineFetch (n : StnId) (ups : List Upset) (s : State) : Host.Outcome State Fault Refusal :=
  .next (if s.serving then s.lineFetch n.val ups else s)

/-- 1 µs has passed since a CUTOFF report or the sideband's loss: the output is blanked from `first` on, the first PAYLOAD block of the
facet in progress that begins then or later (R235, R263). -/
def execCutoffBlank (n : StnId) (s : State) (first : Nat := 0) : Host.Outcome State Fault Refusal :=
  .next (if s.serving ∧ (s.stn n.val).blankDue then
      (let s1 := s.blankFrom n.val first
       s1.setStn n.val { s1.stn n.val with blankDue := false })
    else s)

/-- A TABLE_LOAD of the table is fetched and not completed, or a TABLE_SWAP that names it waits (R231). -/
def State.tableInUse (s : State) (n t : Nat) : Bool :=
  s.flights.any (fun f => decide (f.d.stn = n) && f.compl.isNone &&
    (decide (f.op = .tableLoad ∧ f.d.tbl = t) || (decide (f.op = .tableSwap ∧ (f.stage = .swap ∨ f.stage = .swapReady)) && bit f.d.mask t)))

/-- REVERT of one table: its idle bank goes to COPYING (R231). -/
def State.revertOne (s : State) (n t : Nat) : State :=
  if s.tableInUse n t then s
  else s.setStn n ((s.stn n).setTable t { (s.stn n).table t with state := .copying })

/-- REVERT in STN_TBL_CTL, of H0 or the owner host alone (R231, R240). -/
def State.revertReq (s : State) (x : Sender) (n mask : Nat) : State :=
  if s.stnMay x n then (maskTables mask).foldl (fun (u : State) t => u.revertOne n t) s else s

/-- REVERT (R231). -/
def execRevert (from_ : Sender) (n : StnId) (mask : BitVec 5) (s : State) : Host.Outcome State Fault Refusal :=
  .next (if s.stnReaches from_ n.val 0x1A true then s.revertReq from_ n.val mask.toNat else s)

/-- A COPYING bank has taken the active bank's words (R231). -/
def execCopyingDone (n : StnId) (table : Fin 5) (s : State) : Host.Outcome State Fault Refusal :=
  .next (if s.serving then (s.copyDone n.val table.val).settle else s)

/-- FN_ADJ and the read/write fields of STN_MAG as one write gives them (R244, R246); an FN_ADJ of 0 adjusts nothing (log entry 123,
DESIGN CHOICE). -/
def State.magWrite (s : State) (n : Nat) (v : Word) : State :=
  let s1 := (s.put (Reg.STN_MAG_AUTO n) (bits v.toNat 17 17)).put (Reg.STN_MAG_AVG n) (bits v.toNat 16 15)
  let a := bits v.toNat 14 11
  if a = 0 then s1 else s1.fnAdjust n a

/-- FN_ADJ in STN_MAG (R244). -/
def execFnAdj (from_ : Sender) (n : StnId) (value : Word) (s : State) : Host.Outcome State Fault Refusal :=
  .next (if s.stnReaches from_ n.val 0x44 true then s.magWrite n.val value else s)

end Sys2Proof.Machine
end

