-- ==== Sys2Proof/Machine/Link.lean ====
section
/-! DEFINITION. The commands of the Ecposia link, its sideband and the web encoders (spec/09). An event whose condition does not
hold leaves the state as it is (log entry 13). -/

namespace Sys2Proof.Machine
open Sys2Proof

/-- An AM boundary of a link that sends blocks (R251, R259). -/
def execAmBoundary (n : StnId) (s : State) : Host.Outcome State Fault Refusal :=
  .next (if s.serving ∧ linkMap ≤ s.get (Reg.STN_LINK_STAT_STATE n.val) ∧ s.get (Reg.STN_LINK_STAT_STATE n.val) ≤ linkUpSt then
      s.amBoundary n
    else s)

/-- A valid report with its action; the second copy of a DEAD, LANE or LATE report has none (R262). -/
def State.onReport (s : State) (n typ arg cnt : Nat) (twice : Bool) (act : State → State) : State :=
  if s.inReport n then
    match s.report n typ arg cnt twice with
    | some s1 => act s1
    | none => (s.dropCopy n)
  else s

/-- TEMP (R235, R263). -/
def execTemp (n : StnId) (cnt : BitVec 2) (level : BitVec 2) (s : State) : Host.Outcome State Fault Refusal :=
  .next (s.onReport n.val rptTemp level.toNat cnt.toNat false (fun s1 => s1.tempReport n.val level.toNat))

/-- DEAD (R226); an emitter above 71 is out of range (R262). -/
def execDead (n : StnId) (cnt : BitVec 2) (emitter : BitVec 7) (s : State) : Host.Outcome State Fault Refusal :=
  .next (if emitter.toNat < 72 then
      s.onReport n.val rptDead emitter.toNat cnt.toNat true (fun s1 => s1.markDead n.val emitter.toNat)
    else if s.inReport n.val then s.sbError n.val
    else s)

/-- LANE (R259). -/
def execLane (n : StnId) (cnt : BitVec 2) (lane : BitVec 3) (amc : BitVec 5) (s : State) : Host.Outcome State Fault Refusal :=
  .next (s.onReport n.val rptLane (lane.toNat + 8 * amc.toNat) cnt.toNat true (fun s1 => s1.laneReport n.val lane.toNat amc.toNat))

/-- A LATE report's action (Table 9-11). -/
def State.lateReport (s : State) (n fseq : Nat) : State :=
  ((s.bumpLates n).stnLEvent n Reg.STN_LEVENT_LINK_LATE).lateFacets n (fun f => decide (f.fseq % 256 = fseq))

/-- LATE (R262). -/
def execLate (n : StnId) (cnt : BitVec 2) (fseq : Byte) (s : State) : Host.Outcome State Fault Refusal :=
  .next (s.onReport n.val rptLate fseq.toNat cnt.toNat true (fun s1 => s1.lateReport n.val fseq.toNat))

/-- FAULT (R262). -/
def execFault (n : StnId) (cnt : BitVec 2) (code : Byte) (s : State) : Host.Outcome State Fault Refusal :=
  .next (s.onReport n.val rptFault code.toNat cnt.toNat false (fun s1 => s1.stnLEvent n.val Reg.STN_LEVENT_DRV_FAULT))

/-- A sideband frame is discarded (R262). -/
def execSbErr (n : StnId) (s : State) : Host.Outcome State Fault Refusal :=
  .next (if s.inReport n.val then s.sbError n.val else s)

/-- No valid frame has come for 1 ms (R263). -/
def execSbLost (n : StnId) (s : State) : Host.Outcome State Fault Refusal :=
  .next (if s.inReport n.val ∧ !(s.stn n.val).sbLost then s.sidebandLost n.val else s)

/-- A write of STN_SB_CMD: WR and ADDR are stored, then GO starts a SET-UP frame (R261). -/
def State.sbCmdWrite (s : State) (n : StnId) (v : Word) : State :=
  let s1 := (s.put (Reg.STN_SB_CMD_WR n.val) (bits v.toNat 16 16)).put (Reg.STN_SB_CMD_ADDR n.val) (bits v.toNat 6 0)
  if bit v.toNat 17 then s1.setupGo n else s1

/-- GO in STN_SB_CMD (R261). -/
def execGo (from_ : Sender) (n : StnId) (value : Word) (s : State) : Host.Outcome State Fault Refusal :=
  .next (if s.stnReaches from_ n.val 0x68 true then s.sbCmdWrite n (value ||| 0x20000#18) else s)

/-- A SET-UP frame ends (R261). -/
def execSetupFrameDone (n : StnId) (ack : Bool) (parityOk : Bool) (data : BitVec 16) (s : State) :
    Host.Outcome State Fault Refusal :=
  .next (if s.serving then s.setupFrameDone n ack parityOk data else s)

/-- TRAIN in STN_LINK_CTL, ignored while the station is armed (R256); the link is trained in RUN and DRAIN alone (R69). -/
def State.trainReq (s : State) (n : Nat) : State := if s.serving && !s.stnArmed n then s.trainStart n else s

/-- TRAIN (R256). -/
def execTrain (from_ : Sender) (n : StnId) (s : State) : Host.Outcome State Fault Refusal :=
  .next (if s.stnReaches from_ n.val 0x60 true then s.trainReq n.val else s)

/-- A training step ends with the driver's replies (Table 9-6). -/
def execTrainingStepDone (n : StnId) (reply : List (BitVec 16)) (s : State) : Host.Outcome State Fault Refusal :=
  .next (if s.serving then s.trainStepDone n.val reply else s)

/-- A filtered level change of an encoder's channels, `close` when it counts within 25 ns of the one before (R248, R249). -/
def execEncoderCount (enc : Fin 2) (ba : BitVec 2) (close : Bool) (s : State) : Host.Outcome State Fault Refusal :=
  .next (s.encChange enc.val ba close)

/-- An encoder's channel has read below 100 mV for 1 µs (R248). -/
def execEncoderLos (enc : Fin 2) (s : State) : Host.Outcome State Fault Refusal := .next (s.encLost enc.val)

/-- Both channels read above 100 mV again: LOS ends (R248). -/
def execLosClear (enc : Fin 2) (s : State) : Host.Outcome State Fault Refusal :=
  .next (s.setEnc enc.val { s.enc enc.val with los := false })

/-- A read of STN_ENC_LO latches the count's upper bits (R266); in a window that is absent it reads 0. -/
def execEncCountLatch (from_ : Sender) (n : StnId) (s : State) : Host.Outcome State Fault Refusal :=
  .next (if s.reaches from_ (stnBase n.val + 0x49) false then
      (if s.stnEnabled n.val then
        (let r := s.encLatch n.val
         r.1.answer from_ (stnBase n.val + 0x49) r.2)
      else s.answer from_ (stnBase n.val + 0x49) 0#18)
    else s)

end Sys2Proof.Machine
end

