-- ==== Sys2Proof/Machine/Mailbox.lean ====
section
/-! DEFINITION. The mailbox and possession commands (spec/12). -/

namespace Sys2Proof.Machine
open Sys2Proof

/-- The words that reach one queue of a channel in one C-domain cycle and may be written, in the order they apply (R320). -/
def State.mbArrivals (s : State) (c : Nat) (towardB : Bool) (ws : List (Sender × Word)) : List (Sender × Word) :=
  s.mbAllowed c towardB (ws.filter (fun p => s.reaches p.1 ((if towardB then 0x301 else 0x300) + 0x10 * c) true))

/-- A write to MB_TOA_c or MB_TOB_c (R310), with the writes of other senders to that queue in the same cycle (R320). -/
def execMailboxWrite (from_ : Sender) (c : Fin 8) (towardB : Bool) (value : MbWrite) (s : State) :
    Host.Outcome State Fault Refusal :=
  .next (s.mbPutAll c.val towardB (s.mbArrivals c.val towardB ((from_, value.word) :: value.others)))

/-- A read of MB_RXA_c or MB_RXB_c (R310), ordered before the writes to that queue in its cycle (R320). -/
def execMailboxPop (from_ : Sender) (c : Fin 8) (towardB : MbRead) (s : State) : Host.Outcome State Fault Refusal :=
  let b := towardB.towardB
  let a := (if b then 0x303 else 0x302) + 0x10 * c.val
  let ws := s.mbArrivals c.val b towardB.writes
  .next (if s.reaches from_ a false then
      let r := s.mbTake from_ c.val b (!ws.isEmpty)
      (r.1.mbPutAll c.val b ws).answer from_ a r.2
    else s.mbPutAll c.val b ws)

/-- A read of POSSk (R317). -/
def execPossRead (from_ : Sender) (k : Fin 32) (s : State) : Host.Outcome State Fault Refusal :=
  .next (if s.reaches from_ (0x380 + k.val) false then
      let r := s.possRead from_ k.val
      r.1.answer from_ (0x380 + k.val) r.2
    else s)

/-- A write to POSSk (R318). -/
def execPossRelease (from_ : Sender) (k : Fin 32) (value : Word) (s : State) : Host.Outcome State Fault Refusal :=
  .next (if s.reaches from_ (0x380 + k.val) true then s.possWrite from_ k.val value else s)

/-- A write to POSS_FORCE_LO or POSS_FORCE_HI (R318). -/
def execPossForce (from_ : Sender) (high : Bool) (value : Word) (s : State) : Host.Outcome State Fault Refusal :=
  .next (if s.reaches from_ (if high then 0x3B3 else 0x3B2) true then s.possForce from_ high value else s)

end Sys2Proof.Machine
end

