-- ==== Sys2Proof/Machine/Reset.lean ====
section
/-! DEFINITION. The commands of resets, straps and power requests (spec/01, 02, 05). An event whose condition does not hold
leaves the state as it is (log entry 13). -/

namespace Sys2Proof.Machine
open Sys2Proof

/-- RESET_N goes low and stays low through its filter (R44, R48, R61, R68). -/
def execResetNLow (s : State) : Host.Outcome State Fault Refusal :=
  .next (if s.pwr.resetN then s.resetLow else s)

/-- RESET_N goes high (R48, R61). -/
def execResetNHigh (s : State) : Host.Outcome State Fault Refusal :=
  .next (if s.pwr.resetN then s else s.resetHigh)

/-- MP0 to MP7 are sampled at 8 µs and at 15 µs of the STRAP phase (R61). -/
def execStrapSample (mp : BitVec 8) (s : State) : Host.Outcome State Fault Refusal :=
  .next (if s.pwr.strapOn ∧ s.pwr.strapTimed then
      (if s.pwr.samp1.isNone then { s with pwr := { s.pwr with samp1 := some mp } }
       else if s.pwr.samp2.isNone then { s with pwr := { s.pwr with samp2 := some mp } }
       else s)
    else s)

/-- The STRAP phase ends 16 µs after its reference event: the straps latch (R61, R62, R64). -/
def execStrapPhaseEnd (s : State) : Host.Outcome State Fault Refusal :=
  .next (match s.pwr.samp1, s.pwr.samp2 with
    | some a, some b => if s.pwr.strapOn ∧ s.pwr.strapTimed then s.strapLatch a b else s
    | _, _ => s)

/-- PWROK falls: RUN goes to DRAIN (R44, R47). -/
def execPwrokFall (s : State) : Host.Outcome State Fault Refusal :=
  .next (if s.pwr.pwrok then
      (let s1 : State := { s with pwr := { s.pwr with pwrok := false } }
       if s1.pwr.st = .run then s1.drainStart .pwrok else s1)
    else s)

/-- PWROK rises: the standby hold clears (R47); a DRAIN that PWROK started then ends in DARK (Table 1-7). -/
def execPwrokRise (s : State) : Host.Outcome State Fault Refusal :=
  .next (if s.pwr.pwrok then s
    else
      (let s1 : State := { s with pwr := { s.pwr with pwrok := true } }
       let s2 := if s1.pwr.st = .off then s1 else s1.clearHold
       if s2.pwr.st = .drain ∧ s2.pwr.drainBy = some .pwrok then { s2 with pwr := { s2.pwr with drainDark := true } } else s2))

/-- WARM with KEY in ID_RESET: in RUN, from H0 (R49, R350). -/
def State.warmReset (s : State) (x : Sender) (key : Nat) : State :=
  if isH0 x && decide (key = 0x5A3 ∧ s.pwr.st = .run) then s.resetVolley false else s

/-- A warm-reset request (R49). -/
def execWarmReset (from_ : Sender) (key : BitVec 12) (s : State) : Host.Outcome State Fault Refusal :=
  .next (if s.reaches from_ 0x00A true then s.warmReset from_ key.toNat else s)

/-- DOWN in SUP_PWR: in RUN, from H0 or a host with power rights (R46, R154). -/
def State.powerDown (s : State) (x : Sender) : State :=
  if (isH0 x || hasRight x (s.get Reg.SUP_PWR_RIGHTS)) && decide (s.pwr.st = .run) then s.drainStart .request else s

/-- A power-down request (R46). -/
def execPowerDownRequest (from_ : Sender) (s : State) : Host.Outcome State Fault Refusal :=
  .next (if s.reaches from_ 0x12B true then s.powerDown from_ else s)

/-- WAKE in SUP_PWR: the standby hold clears, from H0 (R47, R154). -/
def State.wakeReq (s : State) (x : Sender) : State := if isH0 x then s.clearHold else s

/-- A wake request (R47). -/
def execWake (from_ : Sender) (s : State) : Host.Outcome State Fault Refusal :=
  .next (if s.reaches from_ 0x12B true then s.wakeReq from_ else s)

/-- 1.0 s of DRAIN's first steps has passed (R46, step 2). -/
def execDrainImagingLimit (s : State) : Host.Outcome State Fault Refusal :=
  .next (if s.pwr.st = .drain ∧ s.pwr.drainStep = .imaging then s.drainLimit else s)

/-- R46, step 4 may start: steps 1 to 3 are done, no store runs, and every fetched descriptor other than a CHECKPOINT has
completed; its completion may still stand in ring order behind a pending CHECKPOINT's (R179). -/
def State.drainStoreReady (s : State) : Bool :=
  decide (s.pwr.st = .drain ∧ s.pwr.drainStep = .ready) && s.store.isNone && s.flights.all (fun f => decide (f.op = .checkpoint) || f.compl.isSome)

/-- DRAIN's store starts (R46, R112, R128): pending checkpoints join it or end BAD_RANGE; a store that runs no wave (R108,
R373) ends at once with RESULT 1, and the shutdown goes on. -/
def State.drainStoreStart (s : State) : State :=
  let s1 := if s.noCheckpoint then s.refuseCkpt else s.joinCkpt
  let s2 := (s1.storeBegin .drain true 15).freeze
  match s2.store with
  | some t =>
    if t.regions.isEmpty then
      ((s2.fixAll Flight.inStore { status := Status.badRange }).storeOver t 1 0 (s2.get Reg.VOL_VHOLD_VHOLD) (t.boundary 0)).drainStored
    else { s2 with pwr := { s2.pwr with drainStep := .storing } }
  | none => s2

/-- DRAIN's store step starts (R46, step 4). -/
def execDrainStoreStart (s : State) : Host.Outcome State Fault Refusal :=
  .next (if s.drainStoreReady then s.drainStoreStart else s)

end Sys2Proof.Machine
end

