-- ==== Sys2Proof/Machine/Sweeper.lean ====
section
/-! DEFINITION. The commands of Sweeper and the health log (spec/15). An event whose condition does not hold leaves the state as it
is (log entry 13). -/

namespace Sys2Proof.Machine
open Sys2Proof

/-- A cycle is due: it starts, or LAG is set while one runs that still has a unit to test (R353). -/
def execSweeperCycleStart (s : State) : Host.Outcome State Fault Refusal :=
  .next (if s.swpOn then
      (if s.cycleGo.flag Reg.SWP_STAT_ACTIVE then s.cycleGo.cycleLag else s.cycleGo.cycleStart)
    else s)

/-- RUN_NOW: a new cycle starts at once, in FACTORY and SERVICE only (R353, R370). -/
def State.runNow (s : State) : State :=
  if s.swpOn ∧ (s.get Reg.ID_LC_STATE = 0 ∨ s.get Reg.ID_LC_STATE = 2) then s.cycleStart else s

/-- RUN_NOW (R353). -/
def execRunNow (from_ : Sender) (s : State) : Host.Outcome State Fault Refusal :=
  .next (if s.reaches from_ 0xD00 true then s.runNow else s)

/-- EMIT_RES of every enabled emitter of a station has been read (R354). -/
def State.emittersRead (s : State) (n : Nat) : Bool :=
  (List.range 72).all (fun k => !bit ((s.stn n).act 0 (2 * k)) 17 || bit (s.stn n).emitted k)

/-- The unit's test may run now (Table 15-1, "Runs only when"). -/
def State.testRuns (s : State) (t : SwpTest) : Bool :=
  match t with
  | .march .. => s.holdsWindow t && s.fw.window.all (fun x => !x.redirect || x.redirected)
  | .scratch .. => s.holdsWindow t
  | .shadow r _ _ _ => !s.waveRegions.contains r.val
  | .keepMargin _ => !s.keepBusy
  | .pcieEye h _ => !(s.host h).retraining
  | .ecposiaEye n _ => (match (s.stn n.val).eye with | none => s.eyeRuns n.val | some b => b)
  | .comparator _ => true
  | .crystal _ => !s.flag Reg.RTC_STATUS_OSF
  | .emitters n => !s.stnArmed n.val && s.emittersRead n.val

/-- A march over a window has failed: an active cluster is replaced (R97), an idle spare is marked (Table 3-7). -/
def State.marchFail (s : State) (r c w : Nat) (detail : Word) : State :=
  let s1 := s.swpEvent Reg.SWP_EVENT_FAIL
  if c = spareCluster then
    (s1.putAll [(Reg.PART_REGION_SPARE_BAD r, 1), (Reg.SWP_FAULT_SPARE_BAD, 1)]).log 1 6 (c * 2 ^ 6 + r) w detail.toNat
  else (s1.log 1 1 (c * 2 ^ 6 + r) w detail.toNat).replace r c 4

/-- A margin test has failed. -/
def State.marginFail (s : State) : State := (s.put Reg.SWP_FAULT_MARGIN 1).swpEvent Reg.SWP_EVENT_MARGIN

/-- The Ecposia eye of a station starts: a training run under Table 9-6, whose LMASK and BAD apply (Table 15-1). -/
def State.eyeStart (s : State) (n : Nat) : State :=
  let s1 := s.trainStart n
  s1.setStn n { s1.stn n with eye := some false }

/-- The eye's run has found no preset without errors for lane l (Table 15-1, R257). -/
def State.eyeFails (s : State) (n l : Nat) : Bool := bit (s.get (Reg.STN_LINK_INFO_BAD n)) l

/-- Deviation in 0.1 ppm of the crystal from REFIN, of which `count` cycles fell in 32,768 crystal cycles. -/
def crystalDev (count : Nat) : Int :=
  clampI (-32767) 32767 (roundDiv ((25000000 - (count : Int)) * 10000000) (max 1 count))

/-- The outcome of a test on one unit (Table 15-1). -/
def State.testOutcome (s : State) (t : SwpTest) (failed : Bool) (detail : Word) : State :=
  match t with
  | .march r c w => if failed then s.marchFail r.val c.val w.toNat detail else s
  | .scratch f w =>
    if failed then ((s.swpEvent Reg.SWP_EVENT_FAIL).log 2 1 f.val w.toNat detail.toNat).clusterOut f.val else s
  | .shadow r c tile b =>
    if failed then s.marginFail.log 3 1 (b2n b * 2 ^ 10 + c.val * 2 ^ 6 + r.val) tile.val detail.toNat else s
  | .keepMargin w => if failed then s.marginFail.log 4 1 w.toNat 0 detail.toNat else s
  | .pcieEye h l => if failed then s.log 5 1 (h.val + 1) l.val detail.toNat else s
  | .ecposiaEye n l => if s.eyeFails n.val l.val then s.log 5 2 (8 + n.val) l.val detail.toNat else s
  | .comparator c => if failed then (s.put Reg.SWP_FAULT_COMP 1).log 6 1 c.val 0 detail.toNat else s
  | .crystal count =>
    let d := crystalDev count
    let s1 := (s.put Reg.SWP_XTAL_DEV (unsigned 16 d)).put Reg.SWP_XTAL_VALID 1
    if 1000 < d.natAbs then s1.log 7 1 0 0 (unsigned 18 d) else s1
  | .emitters _ => s

/-- The unit is one of the running cycle's, not yet tested, and may be tested now. -/
def State.testable (s : State) (t : SwpTest) : Bool :=
  s.sweeping && s.unitExists t && !s.dev.swept.contains t.unit && s.testRuns t

/-- The station whose Ecposia eye has not run in this cycle, where the test is one of its lanes. -/
def State.eyeDue (s : State) (t : SwpTest) : Option StnId :=
  match t with
  | .ecposiaEye n _ => if (s.stn n.val).eye.isNone then some n else none
  | _ => none

/-- Sweeper completes a test on one unit (R353, Table 15-1). The first of a station's lanes starts its Ecposia eye instead, and the lanes
are units tested once that training has ended (log entry 125, DEDUCED). -/
def execSweeperTestStep (test : SwpTest) (failed : Bool) (detail : Word) (s : State) : Host.Outcome State Fault Refusal :=
  .next (if s.testable test then
      (match s.eyeDue test with
       | some n => s.eyeStart n.val
       | none => (((s.testOutcome test failed detail).unitTested test).settle).watch s)
    else s)

/-- The copy-in of a window ends: its accesses move to the spare (R356). -/
def execWindowRedirect (s : State) : Host.Outcome State Fault Refusal :=
  .next (match s.fw.window with
    | some w => if s.sweeping ∧ w.redirect then { s with fw := { s.fw with window := some { w with redirected := true } } } else s
    | none => s)

/-- A held window is yielded, and another one taken (R357). -/
def execWindowYield (s : State) : Host.Outcome State Fault Refusal := .next (s.yieldHeld.takeWindow)

/-- EMIT_RES of one emitter (R354): 0xFFFF skips the station for the cycle, and the last enabled emitter ends its test. -/
def State.emitResult (s : State) (n e res : Nat) : State :=
  let s1 := s.setStn n { s.stn n with emitted := (s.stn n).emitted ||| 2 ^ e }
  let s2 := match res with
    | 1 => s1.log 8 1 n e 0
    | 2 =>
      if s1.flag ((Reg.STN_DEAD_DEAD n (e / 18)).at (e % 18)) then s1
      else ((s1.markDead n e).swpEvent Reg.SWP_EVENT_DEAD).log 8 2 n e 0
    | _ => s1
  if res = 0xFFFF ∨ s2.emittersRead n then s2.unitTested (.emitters (Fin.ofNat 8 n)) else s2

/-- An emitter's test may start now (Table 15-1): its station is not armed, and no other SET-UP frame or test of an emitter runs. -/
def State.emitterTests (s : State) (n : StnId) (e : Nat) : Bool :=
  s.sweeping && s.unitExists (.emitters n) && !s.dev.swept.contains (.emitters n) && !s.stnArmed n.val && (s.stn n.val).frame.isNone &&
    (s.stn n.val).probe.isNone && decide (e < 72) && bit ((s.stn n.val).act 0 (2 * e)) 17

/-- Sweeper's test of emitter e of a station is in a phase. -/
def State.probing (s : State) (n : StnId) (e : Nat) (p : ProbePhase) : Bool := decide ((s.stn n.val).probe = some (e, p))

def State.setProbe (s : State) (n : StnId) (p : Option (Nat × ProbePhase)) : State := s.setStn n.val { s.stn n.val with probe := p }

/-- The read of EMIT_RES has ended with a value, which counts unless an ARM has ended the test or Sweeper is suspended (R352, R354). -/
def State.emitDone (s : State) (n : StnId) (e res : Nat) : State :=
  let s1 := s.setProbe n none
  if s1.sweeping && (s1.stn n.val).armWaits.isNone && !s1.dev.swept.contains (.emitters n) then s1.emitResult n.val e res else s1

/-- A step of Sweeper's test of an enabled emitter (R354). -/
def execEmitterTestResult (n : StnId) (emitter : BitVec 7) (res : EmitStep) (s : State) : Host.Outcome State Fault Refusal :=
  let e := emitter.toNat
  .next (match res with
    | .write =>
      if s.emitterTests n e then (s.setProbe n (some (e, .writing))).emit (.setupFrame n true 0x13#7 (BitVec.ofNat 16 e)) else s
    | .wrote => if s.serving && s.probing n e .writing then (s.setProbe n (some (e, .waiting))).swpFrameEnd n else s
    | .read =>
      if s.sweeping && s.probing n e .waiting && (s.stn n.val).frame.isNone then
        (s.setProbe n (some (e, .reading))).emit (.setupFrame n false 0x14#7 0#16)
      else s
    | .result v => if s.serving && s.probing n e .reading then (s.emitDone n e v.toNat).swpFrameEnd n else s)

/-- A write of SWP_LOG_SEL captures a health-log entry (R375). -/
def State.swpLogSel (s : State) (v : Word) : State :=
  let i := bits v.toNat 15 0
  (List.range 8).foldl (fun (t : State) k => t.setReg (0xD10 + k) (Map.get (fun _ => 0#18) s.dev.log (8 * i + k)))
    (s.put Reg.SWP_LOG_SEL_INDEX i)

/-- SWP_LOG_SEL (R375). -/
def execSwpLogSel (from_ : Sender) (value : Word) (s : State) : Host.Outcome State Fault Refusal :=
  .next (if s.reaches from_ 0xD0C true then s.swpLogSel value else s)

end Sys2Proof.Machine
end

