-- ==== Sys2Proof/Machine/Volley.lean ====
section
/-! DEFINITION. The commands of stores (spec/04): the waves and the seal of a Volley, of a checkpoint and of DRAIN's store. An
event whose condition does not hold leaves the state as it is (log entry 13). -/

namespace Sys2Proof.Machine
open Sys2Proof

/-- The regions are frozen at the drain's end, where they are not yet (R112, R116). -/
def State.frozenNow (s : State) : State :=
  match s.store with
  | some t => if t.frozen then s else s.freeze
  | none => s

/-- Wave k of a Volley (R114, R121): it starts when VHOLD, as sampled at the boundary, meets its threshold; else the store
ends there with RESULT 1. A store with no wave ends before wave 1 (R108, R373). From VIN no threshold is checked. -/
def State.volleyWave (s : State) (vhold : Nat) : State :=
  let s1 := (s.put Reg.VOL_VHOLD_VHOLD vhold).frozenNow
  match s1.store with
  | none => s1
  | some t =>
    if t.regions.isEmpty then s1.volleyEnd t 1 0 vhold (t.boundary 0)
    else if t.waves ≤ t.wave then s
    else if !t.fromVin && decide (vhold < t.thresholds.getD t.wave 0) then s1.volleyEnd t 1 t.wave vhold (t.boundary t.wave)
    else
      let s2 := s1.waveStart t (t.wave + 1)
      s2.stepCode (Store.code { t with wave := t.wave + 1 })

/-- A wave of a Volley starts, or the store ends at its boundary (R114, R121). -/
def execVolleyWaveStart (vhold : BitVec 10) (s : State) : Host.Outcome State Fault Refusal :=
  .next (if s.pwr.st = .volley then s.volleyWave vhold.toNat else s)

/-- The seal follows the last wave (R113). -/
def execStoreSealStart (s : State) : Host.Outcome State Fault Refusal :=
  .next (match s.store with
    | some t =>
      if t.frozen ∧ t.regions ≠ [] ∧ t.wave = t.waves then
        (let s1 := s.sealStart t
         if s1.pwr.st = .volley then s1.stepCode 2#3 else s1)
      else s
    | none => s)

/-- A checkpoint's seal is written (R124): its requests complete DONE with the epoch, CKPT_DONE, and the held partition writes
apply (R127). -/
def State.checkpointEnd (s : State) (t : Store) (vhold : Nat) : State :=
  let s0 := s.put Reg.VOL_VHOLD_VHOLD vhold
  let s1 := ((s0.writeSeals t).storeOver t 0 t.waves vhold (t.boundary t.waves + 40)).volEvent Reg.VOL_EVENT_CKPT_DONE
  let s2 := s1.fixAll Flight.inStore { status := Status.done, result := BitVec.ofNat 64 t.epoch }
  (s2.applyHeldAll.settle).watch s

/-- DRAIN's seal is written (R128): the joined requests complete DONE with the epoch, and the shutdown goes on. -/
def State.drainSealed (s : State) (t : Store) (vhold : Nat) : State :=
  let s1 := ((s.put Reg.VOL_VHOLD_VHOLD vhold).writeSeals t).fixAll Flight.inStore
    { status := Status.done, result := BitVec.ofNat 64 t.epoch }
  (((s1.storeOver t 0 t.waves vhold (t.boundary t.waves + 40)).applyHeldAll).watch s).drainStored

/-- A store's seal is complete (R113). -/
def State.sealComplete (s : State) (t : Store) (vhold : Nat) : State :=
  if s.pwr.st = .volley then
    ((s.put Reg.VOL_VHOLD_VHOLD vhold).writeSeals t).volleyEnd t 0 t.waves vhold (t.boundary t.waves + 40)
  else if t.cause = .drain then s.drainSealed t vhold
  else s.checkpointEnd t vhold

/-- Every seal block is written and the store has ended (R113, R124, R128). -/
def execStoreSealComplete (vhold : BitVec 10) (s : State) : Host.Outcome State Fault Refusal :=
  .next (match s.store with
    | some t => if t.frozen ∧ t.regions ≠ [] ∧ t.wave = t.waves + 1 then s.sealComplete t vhold.toNat else s
    | none => s)

/-- V_floor, 6.50 V, in 25 mV units (R119). -/
def vFloor : Nat := 260

/-- VHOLD reaches V_floor (R123, Table 4-8): RESULT 1 before wave 1, 2 within a wave, 3 in the seal. -/
def State.floorHit (s : State) (t : Store) (elapsed : Nat) : State :=
  let s1 := s.put Reg.VOL_VHOLD_VHOLD vFloor
  if t.wave = 0 then s1.volleyEnd t 1 0 vFloor elapsed
  else if t.wave ≤ t.waves then (s1.cutWave t).volleyEnd t 2 (t.wave - 1) vFloor elapsed
  else (s1.tearSeals t).volleyEnd t 3 t.waves vFloor elapsed

/-- VHOLD falls to V_floor in a Volley that runs from it (R123). -/
def execVholdFloor (elapsed : Nat) (s : State) : Host.Outcome State Fault Refusal :=
  .next (match s.store with
    | some t => if s.pwr.st = .volley ∧ ¬t.fromVin then s.floorHit t elapsed else s
    | none => s)

/-- The code on MP[7:5] steps on (R66): towards the code of the store's stage, or to the end of the sequence. -/
def execProgressCodeStep (s : State) : Host.Outcome State Fault Refusal :=
  .next (if s.pwr.st = .volley ∨ s.pwr.st = .dark then
      s.stepCode (match s.store with | some t => t.code | none => 6#3)
    else s)

/-- CKPT in VOL_CTL: from H0, unless VOL_NEXT is too high (R124, R136). -/
def State.ckptReq (s : State) (x : Sender) : State :=
  if isH0 x && !s.noCheckpoint then s.put Reg.VOL_CTL_CKPT 1 else s

/-- H0 requests a checkpoint (R124). -/
def execCkpt (from_ : Sender) (s : State) : Host.Outcome State Fault Refusal :=
  .next (if s.reaches from_ 0x600 true then s.ckptReq from_ else s)

/-- The pending checkpoint starts in RUN, or is refused (R124, Table 4-5). While a life-cycle wipe runs none starts (R372). -/
def execCheckpointStart (s : State) : Host.Outcome State Fault Refusal :=
  .next (if s.pwr.st = .run ∧ s.store = none ∧ ¬s.flag Reg.ID_LC_WIPING ∧ s.ckptStarts then
      (if s.noCheckpoint then s.refuseCkpt else (s.joinCkpt.storeBegin .checkpoint true 15).freeze)
    else s)

/-- A wave of a checkpoint or of DRAIN's store starts (R125, R128). -/
def execCheckpointWaveStart (s : State) : Host.Outcome State Fault Refusal :=
  .next (match s.store with
    | some t => if s.serving ∧ t.frozen ∧ t.wave < t.waves then s.waveStart t (t.wave + 1) else s
    | none => s)

end Sys2Proof.Machine
end

