-- ==== Sys2Proof/Machine/Wake.lean ====
section
/-! DEFINITION. The commands of power, wake and Return (spec/01, 04, 05). An event whose condition does not hold leaves the state
as it is (log entry 13). -/

namespace Sys2Proof.Machine
open Sys2Proof

/-- VSTBY is good: OFF goes to STANDBY (R44). -/
def execVstbyGood (s : State) : Host.Outcome State Fault Refusal :=
  .next (if s.pwr.st = .off then s.standbyFromOff else s)

/-- VSTBY is lost: STANDBY and DARK go to OFF (R44). -/
def execVstbyLost (s : State) : Host.Outcome State Fault Refusal :=
  .next (if s.pwr.st = .standby ∨ s.pwr.st = .dark then s.enterOff else s)

/-- STANDBY goes to WAKING once the wake conditions hold and the standby hold is clear (R44). -/
def execWakeStart (s : State) : Host.Outcome State Fault Refusal :=
  .next (if s.pwr.st = .standby ∧ s.mayWake ∧ ¬s.flag Reg.SUP_PWR_HOLD then s.enterWaking (if s.pwr.fromOff then 0 else 1) else s)

/-- DARK goes to WAKING after 50 ms (R44). -/
def execDarkToWaking (s : State) : Host.Outcome State Fault Refusal :=
  .next (if s.pwr.st = .dark ∧ s.mayWake then s.enterWaking 2 else s)

/-- RELOAD from H0: the record is applied, once no Keep page write runs (R145). -/
def State.reload (s : State) (x : Sender) : State :=
  if isH0 x then
    if s.keepBusy then { s with pwr := { s.pwr with scriptWait := some (s.pwr.scriptWait.getD true) } } else s.reloadScript
  else s

/-- H0 writes 1 to RELOAD (R145). -/
def execReload (from_ : Sender) (s : State) : Host.Outcome State Fault Refusal :=
  .next (if s.reaches from_ 0x128 true then s.reload from_ else s)

/-- The running step is a DELAY (R146, R149). -/
def State.atDelay (s : State) : Bool :=
  match s.curStep with
  | some x => decide (x.op = .delay)
  | none => false

/-- A DELAY ends (R146, R149). -/
def execScriptDelayDone (s : State) : Host.Outcome State Fault Refusal :=
  .next (if s.pwr.scriptWait ≠ some false ∧ s.atDelay then
      (match s.pwr.seq with
       | .wake => s.nextPos.wakeGo
       | .shutdown => s.nextPos.shutdownGo
       | _ => s)
    else s)

/-- The channel that the running WAIT_PG of the wake section waits for (R146). -/
def State.waitedPg (s : State) : Option Nat :=
  if s.pwr.seq = .wake ∧ s.pwr.scriptWait ≠ some false then
    match s.curStep with
    | some x => (match x.op with | .waitPg c => some c | _ => none)
    | none => none
  else none

/-- Channel c is armed once its condition of R140 has been met. -/
def State.armGate (s : State) (c : Nat) : State :=
  { s with pwr := { s.pwr with gateArmed := s.pwr.gateArmed ||| BitVec.ofNat 12 (2 ^ c) } }

/-- A WAIT_PG ends: its channel is armed and the script goes on (R146). -/
def execWaitPgDone (s : State) : Host.Outcome State Fault Refusal :=
  .next (match s.waitedPg with
    | some c => if bit (s.get Reg.SUP_OUT_OUT) c then s else (s.armGate c).nextPos.wakeGo
    | none => s)

/-- A WAIT_PG times out (R147). -/
def execWaitPgTimeout (above : Bool) (s : State) : Host.Outcome State Fault Refusal :=
  .next (match s.waitedPg with
    | some c =>
      let s1 := (s.allLow.capture c above true).supEvent Reg.SUP_EVENT_SCRIPT_FAIL
      ((s1.put Reg.SUP_SCRIPT_FAILED 1).put Reg.SUP_SCRIPT_STEP s.pwr.pos).enterStandby true
    | none => s)

/-- 50 µs after the last drop, the next raised enable drops (R149). -/
def execShutdownDrop (s : State) : Host.Outcome State Fault Refusal :=
  .next (if s.pwr.seq = .reverse then s.reverseDrop else s)

/-- The rails are up, and domain C still waits for its PLL (Table 4-6). -/
def State.waitsCPll (s : State) : Bool := decide (s.pwr.st = .waking) && s.pwr.railDone && !s.pwr.cpllLocked

/-- The C PLL locks (Table 4-6). -/
def execCPllLock (s : State) : Host.Outcome State Fault Refusal :=
  .next (if s.waitsCPll then { s with pwr := { s.pwr with refin := true, cpllLocked := true } } else s)

/-- The C PLL has not locked in 100 µs (R42). -/
def execPllLockTimeout (s : State) : Host.Outcome State Fault Refusal :=
  .next (if s.waitsCPll then s.wakeAbort else s)

/-- Epoch selection (R130); a wake that resumes a life-cycle wipe makes no Return (R372). -/
def execSealReadDone (s : State) : Host.Outcome State Fault Refusal :=
  .next (if s.pwr.st = .waking ∧ s.pwr.cpllLocked ∧ ¬s.pwr.sealsRead ∧ s.fw.wipePending = none then s.sealsDone else s)

/-- A restore wave completes (R129). -/
def execRestoreWaveDone (s : State) : Host.Outcome State Fault Refusal :=
  .next (if s.pwr.st = .waking ∧ s.pwr.sealsRead ∧ (¬s.pwr.wave1Done ∨ s.pwr.restoreLeft ≠ []) then s.restoreWave else s)

/-- The clears of the wake end (R96). -/
def execClearingDone (s : State) : Host.Outcome State Fault Refusal :=
  .next (if s.pwr.st = .waking ∧ s.pwr.wave1Done then { s with pwr := { s.pwr with cleared := true }, clearing := [] } else s)

/-- Counter recovery (R134), after the last restore wave. -/
def execCounterRecovery (s : State) : Host.Outcome State Fault Refusal :=
  .next (if s.pwr.st = .waking ∧ s.returned ∧ ¬s.pwr.counted then s.recoverCounters else s)

/-- An image is being booted (R362). -/
def State.booting (s : State) : Bool := decide (s.pwr.st = .waking) && s.pwr.wave1Done && !s.pwr.booted

/-- The image being booted reports ready, its digest and signature having verified (R362); `cores` are the cores that have passed
their test at boot (R366). -/
def execFirmwareBooted (s : State) (cores : BitVec 16 := 0xFFFF#16) : Host.Outcome State Fault Refusal :=
  .next (if s.booting ∧ (s.bootChoice = goldenImage ∨ s.slotGood s.bootChoice) then s.bootRead.bootDone cores.toNat else s)

/-- The image being booted has not reported ready in 1.5 ms (R362). -/
def execBootTimeout (s : State) : Host.Outcome State Fault Refusal :=
  .next (if s.booting then s.bootFail else s)

/-- The open-sheet index is rebuilt and CUT is marked (R284); with every step of Table 4-6 done, the device enters RUN. -/
def execOpenSheetRebuild (s : State) : Host.Outcome State Fault Refusal :=
  .next (if s.pwr.st = .waking ∧ s.returned ∧ s.pwr.cleared ∧ s.pwr.counted ∧ s.pwr.booted then s.markAllCut.enterRun else s)

end Sys2Proof.Machine
end

