-- ==== Sys2Proof/Machine/RegisterOps.lean ====
section
/-! DEFINITION. A register read and a register write as any port makes them (R19 to R21): the fields that show a live condition, the
locks, the values stored in place of those out of range, and the actions of the fields that act. -/

namespace Sys2Proof.Machine
open Sys2Proof

/-! What a read returns -/

/-- The bits of a register that read back: every field but the write-only ones (Table 0-7, R21). -/
def readMask (a : Nat) : Word :=
  (fieldsAt a).foldl (fun m f => if f.acc = .wo then m else m ||| BitVec.ofNat 18 ((2 ^ (f.hi + 1 - f.lo) - 1) * 2 ^ f.lo)) 0#18

/-- PIN of ID_PHASE (Table 2-7, R350). -/
def State.pinPhase (s : State) : Nat :=
  if s.pwr.strapOn then 0
  else match s.pwr.st with
    | .run => 2
    | .drain => 2
    | .volley => 3
    | .dark => 4
    | _ => 1

/-- An enabled event bit is set: an event register and its enable register. -/
def State.raised (s : State) (ev en : Nat) : Bool := decide (s.reg ev &&& s.reg en ≠ 0#18)

/-- SRC of ID_INT0 (R350, R351): the hub blocks count only while the hub registers are served. -/
def State.int0Src (s : State) : Nat :=
  let hub (b : Bool) : Bool := s.hub && b
  let any (n : Nat) (p : Nat → Bool) : Bool := (List.range n).any p
  b2n (s.raised 0x122 0x123) + b2n (s.raised 0x21C 0x21D) * 2 + b2n (s.raised 0x286 0x287) * 4 +
    b2n (hub (s.raised 0x3A0 0x3A8)) * 8 + b2n (hub (s.raised 0x403 0x404)) * 16 + b2n (hub (s.raised 0x618 0x619)) * 32 +
    b2n (hub (any 4 (fun h => s.raised (0x708 + h) (0x70C + h)))) * 64 +
    b2n (hub (any 8 (fun n => s.stnEnabled n &&
      (s.raised (stnBase n + 3) (stnBase n + 4) || s.raised (stnBase n + 0x47) (stnBase n + 0x48))))) * 128 +
    b2n (hub (s.raised 0xC02 0xC03)) * 256 + b2n (hub (s.raised 0xD06 0xD07)) * 512 + b2n (hub (s.raised 0xE12 0xE13)) * 1024

/-- CHARGING of SUP_CHG: the charger limits its current while VIN is good, no store runs and the switch is not yet closed
(R141). -/
def State.charging (s : State) : Bool :=
  s.vinGood && s.store.isNone && !s.flag Reg.SUP_CHG_FULL && decide (s.pwr.st ≠ .off ∧ s.pwr.st ≠ .volley)

/-- KIND, WAVE and ACTIVE of VOL_STATUS (R136). -/
def State.storeShown (s : State) : Nat :=
  match s.store with
  | none => 0
  | some t =>
    (if t.cause = .checkpoint ∨ t.cause = .drain then 2 ^ 17 else 0) + t.cause.code * 2 ^ 13 +
      (if t.wave = 0 then 0 else if t.wave ≤ t.waves then t.wave else 9) * 2 ^ 9

/-- V_READY of VOL_START_V; a value beyond its ten bits is open (R122; log entry 9). -/
def State.startV (s : State) : Nat := if s.vReady < 1024 then s.vReady else (Config.startVOverflow s.vReady).toNat

/-- The Umber fields that show a live condition. -/
def State.liveUmber (s : State) (a : Nat) (w : Word) : Word :=
  if a = 0x009 then
    BitVec.ofNat 18 (s.pwr.st.code * 2 ^ 15 + s.pinPhase * 2 ^ 12 + b2n s.hub * 2 ^ 11 + b2n (bit (s.get Reg.ID_STRAP_MP) 7) * 2 ^ 10)
  else if a = 0x00D then BitVec.ofNat 18 s.int0Src
  else if a = 0x121 then BitVec.ofNat 18 s.armedBits
  else if a = 0x12A then putBits w 17 17 (b2n s.charging)
  else if a = 0x20E then putBits w 12 12 (b2n (!s.vstbyOk))
  else if a = 0x281 then BitVec.ofNat 18 s.keepStat
  else w

/-- The fields of the array and Volley registers that show a live condition (R106, R136); the owner's field of PART_RIGHTS reads
0b11 (R89). -/
def State.liveArray (s : State) (a : Nat) (w : Word) : Word :=
  if 0x4C0 ≤ a ∧ a < 0x4FF then let o := s.get (Reg.PART_ATTR_OWNER (a - 0x4C0)); putBits w (2 * o + 1) (2 * o) 3
  else if a = 0x401 then BitVec.ofNat 18 (s.freeRegions * 2 ^ 7 + s.usableRegions)
  else if a = 0x408 then BitVec.ofNat 18 (48 * 2 ^ 6 + s.slotsPeak)
  else if a = 0x602 then BitVec.ofNat 18 (s.storeShown + b2n s.ckptPending * 2 ^ 8 + b2n s.ready * 2 ^ 7 + s.storeN)
  else if a = 0x603 then BitVec.ofNat 18 (b2n s.short * 2 ^ 17 + cMin s.storeN * 2 ^ 7)
  else if a = 0x605 then BitVec.ofNat 18 s.startV
  else w

/-- The host whose register lies at `a`, with the register's place: 0x00 to 0x17 for the words at 0x700, 0x40 on for its own
block (R191). -/
def hostReg (a : Nat) : Option (PHost × Nat) :=
  if 0x700 ≤ a ∧ a < 0x718 then (hostOf ((a - 0x700) % 4 + 1)).map (fun h => (h, (a - 0x700) / 4 * 4))
  else if 0x720 ≤ a ∧ a < 0x800 then (hostOf ((a - 0x720) / 0x38 + 1)).map (fun h => (h, 0x40 + (a - 0x720) % 0x38))
  else none

/-- A host's own lanes within its port (R158). -/
def State.ownLanes (s : State) (h : PHost) : Nat := (2 ^ (s.lanesOf h).2 - 1) * 2 ^ (s.lanesOf h).1

/-- HOST_LINK and HOST_CUT as they stand (R191); 0 for a host that does not exist (R12). -/
def State.liveHost (s : State) (a : Nat) (w : Word) : Word :=
  match hostReg a with
  | none => w
  | some (h, k) =>
    if !s.hostExists h then 0#18
    else if k = 0 then
      BitVec.ofNat 18 (w.toNat / 2 ^ 11 * 2 ^ 11 + b2n (s.host h).up * 2 ^ 10 + b2n (s.host h).d3 * 2 ^ 9 +
        b2n (!(s.host h).perstN) * 2 ^ 8 + (w.toNat % 256 &&& s.ownLanes h))
    else if k = 0x14 then BitVec.ofNat 18 (s.cutCount h)
    else w

/-- The fields of a station's window that show a live condition; 0 for a station that is not enabled (R8, R76). -/
def State.liveStn (s : State) (a : Nat) (w : Word) : Word :=
  let n := (a - 0x800) / 0x80
  let k := (a - 0x800) % 0x80
  if !s.stnEnabled n then 0#18
  else if k = 0x19 then BitVec.ofNat 18 (s.tblStat n)
  else if k = 0x24 then putBits w 12 8 ((s.stn n).queue.length + (s.stn n).aside.length)
  else if k = 0x4B then
    let e := s.enc (s.encSel n)
    putBits (putBits w 17 17 (b2n e.los)) 7 0 (min 255 e.errs)
  else w

/-- INCR of LED_KEEP_STAT (R280). -/
def State.incrMost (s : State) : Nat := ((List.range 16).map (fun i => Map.get (fun _ => 0) s.led.incr i)).foldl max 0

/-- NONZERO of LED_CREDIT (R282). -/
def State.creditBits (s : State) : Nat := (List.range 16).foldl (fun acc i => acc + b2n (decide (0 < s.credit i)) * 2 ^ i) 0

/-- A page write of the counter copy runs. -/
def State.copying (s : State) : Bool := match s.keep.run with | some r => decide (r.writer = .counterCopy) | none => false

/-- The fields of the ledger registers that show a live condition (R287). -/
def State.liveLedger (s : State) (a : Nat) (w : Word) : Word :=
  if a = 0xC06 then BitVec.ofNat 18 s.openRecords.length
  else if a = 0xC08 then
    BitVec.ofNat 18 (min 63 (s.queue 0).length * 2 ^ 12 + min 63 (s.queue 1).length * 2 ^ 6 + min 63 (s.queue 2).length)
  else if a = 0xC27 then BitVec.ofNat 18 s.creditBits
  else if a = 0xC2A then putBits (putBits w 16 16 (b2n s.copying)) 6 0 s.incrMost
  else w

/-- The fields of the mailbox registers that show a live condition; the block serves nothing outside RUN and DRAIN (R321). -/
def State.liveMailbox (s : State) (a : Nat) (w : Word) : Word :=
  if !s.serving then 0#18
  else if a < 0x380 ∧ a % 0x10 = 6 then
    let m := s.mbox ((a - 0x300) / 0x10)
    putBits (putBits w 17 14 m.toA.length) 13 10 m.toB.length
  else if a = 0x3B0 then BitVec.ofNat 18 (s.possFree false)
  else if a = 0x3B1 then BitVec.ofNat 18 (s.possFree true)
  else w

/-- TEST of SWP_STAT and COUNT of FW_TOK_STAT (R375, R376). -/
def State.liveUpkeep (s : State) (a : Nat) (w : Word) : Word :=
  if a = 0xD01 then putBits w 8 5 s.testShown
  else if a = 0xE11 then putBits w 5 0 s.fw.token.length
  else w

/-- The value of a register whose read has no side effect, as sender x reads it. -/
def State.shown (s : State) (x : Sender) (a : Nat) : Word :=
  let w := s.reg a &&& readMask a
  match a / 0x100 with
  | 0x0 => s.liveUmber a w
  | 0x1 => s.liveUmber a w
  | 0x2 => if a = 0x282 ∧ !isH0 x then 0#18 else s.liveUmber a w
  | 0x3 => s.liveMailbox a w
  | 0x4 => s.liveArray a w
  | 0x6 => s.liveArray a w
  | 0x7 => s.liveHost a w
  | 0x8 => s.liveStn a w
  | 0x9 => s.liveStn a w
  | 0xA => s.liveStn a w
  | 0xB => s.liveStn a w
  | 0xC => s.liveLedger a w
  | 0xD => s.liveUpkeep a w
  | 0xE => s.liveUpkeep a w
  | _ => w

/-- A register read (R19, R343): the value, and the state with the read's side effects: the clock's shadow (R328), KEEP_ADDR's
advance (R307), a mailbox pop (R310), a possession (R317), the encoder latch (R266). -/
def State.readReg (s : State) (x : Sender) (a : Nat) : State × Word :=
  if 0x200 ≤ a ∧ a ≤ 0x205 then s.readTime x (a - 0x200)
  else if a = 0x283 then (if isH0 x then s.readData else (s, 0#18))
  else if 0x300 ≤ a ∧ a < 0x380 ∧ a % 0x10 = 2 then s.mbPop x ((a - 0x300) / 0x10) false
  else if 0x300 ≤ a ∧ a < 0x380 ∧ a % 0x10 = 3 then s.mbPop x ((a - 0x300) / 0x10) true
  else if 0x380 ≤ a ∧ a < 0x3A0 then s.possRead x (a - 0x380)
  else if 0x800 ≤ a ∧ a < 0xC00 ∧ a % 0x80 = 0x49 ∧ s.stnEnabled ((a - 0x800) / 0x80) then s.encLatch ((a - 0x800) / 0x80)
  else (s, s.shown x a)

/-! What a write stores -/

/-- One field of a written word by its access code (Table 0-7); `unlocked` says whether the register's lock is open. -/
def FieldSpec.write (f : FieldSpec) (old v : Word) (unlocked : Bool) : Word :=
  let new := putBits old f.hi f.lo (bits v.toNat f.hi f.lo)
  match f.acc with
  | .rw => new
  | .rwl => if unlocked then new else old
  | .w1c => putBits old f.hi f.lo (bits (old &&& ~~~v).toNat f.hi f.lo)
  | .ro => old
  | .wo => old

/-- The word that a write leaves (R19, R21). -/
def written (a : Nat) (old v : Word) (unlocked : Bool) : Word :=
  (fieldsAt a).foldl (fun w f => f.write w v unlocked) old

/-- Store a written value. -/
def State.storeReg (s : State) (a : Nat) (v : Word) (unlocked : Bool) : State := s.setReg a (written a (s.reg a) v unlocked)

/-- Put a function of a field into a word. -/
def mapBits (v : Word) (hi lo : Nat) (f : Nat → Nat) : Word := putBits v hi lo (f (bits v.toNat hi lo))

/-- GATE as stored (R154). -/
def gateStored (g : Nat) : Nat := if 8 ≤ g then 15 else g

/-- A rate or limit coded 1 to 5: 0 as 1, 6 and 7 as 5 (R154, R191). -/
def oneToFive (v : Nat) : Nat := max 1 (min 5 v)

/-- A rights field of PART_RIGHTS as stored (R89). -/
def rightStored (v : Nat) : Nat := if v = 2 then 0 else v

/-- PART_RIGHTS as stored (R89). -/
def rightsStored (v : Word) : Word :=
  [0, 2, 4, 6, 8].foldl (fun w i => mapBits w (i + 1) i rightStored) v

/-! Stations -/

/-- The value a station register stores for a written one (R240, R266). -/
def stnStored (k : Nat) (v : Word) : Word :=
  match k with
  | 0x00 => mapBits v 14 11 (fun x => max 1 (min 12 x))
  | 0x01 => mapBits v 2 0 (fun x => if 5 ≤ x then 0 else x)
  | 0x10 => mapBits v 11 0 (fun x => max 1 (min 2500 x))
  | 0x13 =>
    let o := min 15 (bits v.toNat 5 0)
    mapBits (putBits v 5 0 o) 11 6 (fun x => max x (o + 16))
  | 0x17 => mapBits (mapBits v 17 9 (min 256)) 8 0 (min 256)
  | 0x40 => mapBits v 15 8 (max 1)
  | 0x41 => mapBits v 17 0 (max 1)
  | 0x43 => mapBits v 17 0 (max 16384)
  | 0x60 => mapBits v 16 13 (fun x => max 1 (min 8 x))
  | _ => v

/-- The lock of a station's RWL fields (R218, R240, R266): H0 or the owner host, STN_OWNER H0 alone; closed while armed. -/
def State.stnLock (s : State) (x : Sender) (n k : Nat) : Bool :=
  (if k = 0x01 then isH0 x else s.stnMay x n) && !s.stnArmed n

/-- A write in a station's window (R240, R266); ignored where the station is not enabled (R8, R76). With ARM and DISARM in one
write, DISARM acts. -/
def State.stnWrite (s : State) (x : Sender) (n : StnId) (k : Nat) (v : Word) : State :=
  let s1 := s.storeReg (stnBase n.val + k) (stnStored k v) (s.stnLock x n.val k)
  if !s.stnEnabled n.val then s
  else match k with
    | 0x00 => if bit v.toNat 16 then s1.disarmReq x n.val else if bit v.toNat 17 then s1.armReq x n.val else s1
    | 0x1A => s.revertReq x n.val (bits v.toNat 4 0)
    | 0x44 => s.magWrite n.val v
    | 0x60 => if bit v.toNat 17 then s1.trainReq n.val else s1
    | 0x68 => s.sbCmdWrite n v
    | _ => s1

/-! Hosts -/

/-- The ring that a refusal names where no single ring is concerned: the first of the host's that is not DISABLED. -/
def State.firstRing (s : State) (h : Nat) : Bool × Nat :=
  match [0, 1, 2, 3].find? (fun j => decide (s.sqState h j ≠ sqDisabled)) with
  | some j => (false, j)
  | none => (true, ([0, 1, 2, 3].find? (fun j => s.flag (Reg.HOST_CQ_CFG_EN h j))).getD 0)

/-- A change that Table 6-5 allows while every ring of the host is DISABLED. -/
def State.whenOff (s : State) (h : PHost) (s1 : State) : State :=
  if s.ringsOff h.val then s1
  else
    let r := s.firstRing h.val
    s.ringRefuse h errLocked r.1 r.2

/-- A write of HOST_CTL (R191, Table 6-5): WIN_RD and WIN_WR change only while every ring is DISABLED. -/
def State.hostCtlWrite (s : State) (x : Sender) (h : PHost) (v : Word) : State :=
  let a := (Reg.HOST_CTL h.val).addr
  let s1 := s.storeReg a v true
  let go := if bit v.toNat 17 then s1.cutDiscard x h else s1
  if bits (s.reg a).toNat 13 6 = bits v.toNat 13 6 then go else s.whenOff h go

/-- A write of one of Hh's registers, from Hh or H0 (R172, R191). -/
def State.hostWrite (s : State) (x : Sender) (h : PHost) (k : Nat) (v : Word) : State :=
  let a := if k < 0x40 then 0x700 + k + h.val else 0x720 + 0x38 * h.val + (k - 0x40)
  let s1 := s.storeReg a v true
  if !(mayRing x h && s.hostExists h) then s
  else if k = 0x04 then
    let s2 := s.storeReg a (mapBits (mapBits v 16 14 oneToFive) 9 0 (max 1)) true
    if bit v.toNat 17 then s2.retrain x h else s2
  else if k = 0x40 then s.hostCtlWrite x h v
  else if 0x41 ≤ k ∧ k ≤ 0x43 then s.whenOff h s1
  else if k = 0x44 then s.storeReg a (mapBits v 9 0 (min 1000)) true
  else if 0x48 ≤ k ∧ k ≤ 0x4F then
    let j := (k - 0x48) / 2
    if s.sqState h.val j = sqDisabled then s1 else s.ringRefuse h errLocked false j
  else if 0x50 ≤ k ∧ k ≤ 0x57 then
    let q := (k - 0x50) / 2
    if s.flag (Reg.HOST_CQ_CFG_EN h.val q) then s.ringRefuse h errLocked true q else s1
  else if 0x58 ≤ k ∧ k ≤ 0x5B then s.sqSet x h (Fin.ofNat 4 (k - 0x58)) v
  else if 0x5C ≤ k ∧ k ≤ 0x5F then s.cqSet x h (Fin.ofNat 4 (k - 0x5C)) v
  else if 0x68 ≤ k then s.whenOff h s1
  else s1

/-! The other blocks -/

/-- A write of an ID_ register (R350). -/
def State.idWrite (s : State) (x : Sender) (a : Nat) (v : Word) : State :=
  if a = 0x00A then (if bit v.toNat 17 then s.warmReset x (bits v.toNat 11 0) else s) else s.storeReg a v false

/-- A write of a SUP_ register (R142, R144, R154). -/
def State.supWrite (s : State) (x : Sender) (a : Nat) (v : Word) : State :=
  let lock := isH0 x
  if 0x100 ≤ a ∧ a ≤ 0x10B then
    let u := if a = 0x100 then mapBits v 7 0 (fun l => max 50 (min 180 l)) else v
    if bits u.toNat 15 8 ≤ bits u.toNat 7 0 then s else s.storeReg a u lock
  else if 0x110 ≤ a ∧ a ≤ 0x11B then
    let u := if a = 0x110 then mapBits v 16 13 (min 8) else v
    s.storeReg a (mapBits u 8 5 gateStored) lock
  else if a = 0x128 then (if bit v.toNat 17 then s.reload x else s)
  else if a = 0x129 then (s.storeReg a (mapBits v 7 0 s.warnStored) lock).warnFollow
  else if a = 0x12A then s.storeReg a (mapBits v 2 0 oneToFive) lock
  else if a = 0x12B then
    let s1 := s.storeReg a v lock
    let s2 := if bit v.toNat 16 then s1.wakeReq x else s1
    if bit v.toNat 17 then s2.powerDown x else s2
  else if a = 0x12C then (s.storeReg a v lock).freeFollow
  else s.storeReg a v lock

/-- A write of an RTC_ register (R329, R335). -/
def State.rtcWrite (s : State) (x : Sender) (a : Nat) (v : Word) : State :=
  if 0x208 ≤ a ∧ a ≤ 0x20B then
    let mask : Word := match a - 0x208 with | 0 => 0x003FF#18 | 1 => 0x00FFF#18 | 2 => 0x01FFF#18 | _ => 0x00FFF#18
    s.storeReg a (v &&& mask) (s.mayClock x)
  else if a = 0x20C then (if bit v.toNat 17 then s.registerSet x else s)
  else if 0x210 ≤ a ∧ a ≤ 0x217 ∧ (a - 0x210) % 4 < 3 then s.alarmWrite x ((a - 0x210) / 4) ((a - 0x210) % 4) v
  else s.storeReg a v (isH0 x)

/-- A write of a KEEP_ register (R290, R291, R294, R295, R301, R302, R307). -/
def State.keepWrite (s : State) (x : Sender) (a : Nat) (v : Word) : State :=
  if a = 0x280 then
    if isH0 x then ((s.put Reg.KEEP_CTL_RIGHTS (bits v.toNat 15 12)).bpUpdate x (bits v.toNat 17 16)) else s
  else if a = 0x282 then (if isH0 x then s.storeReg a v true else s)
  else if a = 0x284 then (if isH0 x ∧ !s.addrBusy then s.loadBuffer (v.setWidth 16) else s)
  else if a = 0x285 then (if isH0 x then s.keepCmd (bit v.toNat 17) (bit v.toNat 16) (bit v.toNat 15) else s)
  else if a = 0x289 then (s.hotWrite x v).settle
  else s.storeReg a v false

/-- A write in the blocks of the clock and the Keep. -/
def State.umberWrite (s : State) (x : Sender) (a : Nat) (v : Word) : State :=
  if a < 0x280 then s.rtcWrite x a v else s.keepWrite x a v

/-- A write of a mailbox or possession register (R309, R318, R321). -/
def State.mailboxWrite (s : State) (x : Sender) (a : Nat) (v : Word) : State :=
  if !s.serving then s
  else if a < 0x380 then
    let c := (a - 0x300) / 0x10
    match a % 0x10 with
    | 0 => s.mbWrite x c false v
    | 1 => s.mbWrite x c true v
    | 8 => if isH0 x ∧ 5 ≤ c then s.mbBind c v else s
    | _ => s.storeReg a v false
  else if a < 0x3A0 then s.possWrite x (a - 0x380) v
  else if a = 0x3B2 then s.possForce x false v
  else if a = 0x3B3 then s.possForce x true v
  else s.storeReg a v false

/-- A write of a partition or ARR_ register (R86, R89, R102, R106). -/
def State.arrayWrite (s : State) (x : Sender) (a : Nat) (v : Word) : State :=
  if a = 0x400 then s.storeReg a v (isH0 x)
  else if a = 0x402 then s.storeReg a (mapBits v 11 0 (max 16)) true
  else if 0x410 ≤ a ∧ a ≤ 0x417 then (if bit v.toNat 17 then s.forwardEnd x (a - 0x410) else s)
  else if 0x440 ≤ a ∧ a ≤ 0x4BE then s.partSet x a v
  else if 0x4C0 ≤ a ∧ a ≤ 0x4FE then s.storeReg a (rightsStored v) (s.mayPart x)
  else s.storeReg a v false

/-- A write of a VOL_ register (R124, R136). -/
def State.volWrite (s : State) (x : Sender) (a : Nat) (v : Word) : State :=
  if a = 0x600 then
    let s1 := s.storeReg a v false
    if bit v.toNat 1 then s1.ckptReq x else s1
  else if a = 0x601 then (s.storeReg a (mapBits v 13 0 (fun c => max 100 (min 10000 c))) (isH0 x)).watch s
  else s.storeReg a v false

/-- A write of a LED_ register (R282, R287). -/
def State.ledWrite (s : State) (x : Sender) (a : Nat) (v : Word) : State :=
  if a = 0xC00 then
    let queued := [0, 1, 2].any (fun q => !(s.queue q).isEmpty)
    s.storeReg a (if queued then putBits v 17 15 (bits (s.reg a).toNat 17 15) else v) (isH0 x)
  else if a = 0xC20 then s.ledCntSel x v
  else if a = 0xC27 then ((List.range 16).filter (fun i => bit v.toNat i)).foldl (fun (t : State) i => t.setCredit i 0) s
  else s.storeReg a v (isH0 x)

/-- A write of a SWP_ register (R353, R357, R375). -/
def State.swpWrite (s : State) (x : Sender) (a : Nat) (v : Word) : State :=
  if a = 0xD00 then
    let s1 := s.storeReg a (mapBits v 15 9 (max 1)) (isH0 x)
    let s2 := if s1.flag Reg.SWP_CTL_EN then s1.cycleGo else s1.dropWindow
    if bit v.toNat 16 then s2.runNow else s2
  else if a = 0xD0C then s.swpLogSel v
  else s.storeReg a v (isH0 x)

/-- A write of a FW_ register (R361, R363, R371, R376). -/
def State.fwWrite (s : State) (x : Sender) (a : Nat) (v : Word) : State :=
  if a = 0xE00 then
    match bits v.toNat 17 15 with
    | 1 => s.loadReq x
    | 2 => s.activateReq x
    | 3 => s.eraseReq x (bits v.toNat 14 14)
    | 4 => s.lcApply x
    | _ => s
  else if a = 0xE10 then s.tokenWord x v
  else if a = 0xE02 then s.storeReg a (v &&& 0x0007F#18) (s.fwMay x)
  else if a = 0xE01 ∨ a = 0xE03 then s.storeReg a v (s.fwMay x)
  else s.storeReg a v (isH0 x)

/-- A register write by a sender (R19, R21). -/
def State.writeReg (s : State) (x : Sender) (a : Nat) (v : Word) : State :=
  match a / 0x100 with
  | 0x0 => s.idWrite x a v
  | 0x1 => s.supWrite x a v
  | 0x2 => s.umberWrite x a v
  | 0x3 => s.mailboxWrite x a v
  | 0x4 => s.arrayWrite x a v
  | 0x6 => s.volWrite x a v
  | 0x7 => (match hostReg a with
    | some r => s.hostWrite x r.1 r.2 v
    | none => s)
  | 0x8 => s.stnWrite x (Fin.ofNat 8 ((a - 0x800) / 0x80)) (a % 0x80) v
  | 0x9 => s.stnWrite x (Fin.ofNat 8 ((a - 0x800) / 0x80)) (a % 0x80) v
  | 0xA => s.stnWrite x (Fin.ofNat 8 ((a - 0x800) / 0x80)) (a % 0x80) v
  | 0xB => s.stnWrite x (Fin.ofNat 8 ((a - 0x800) / 0x80)) (a % 0x80) v
  | 0xC => s.ledWrite x a v
  | 0xD => s.swpWrite x a v
  | 0xE => s.fwWrite x a v
  | _ => s

end Sys2Proof.Machine
end

