-- ==== Sys2Proof/Machine/Pins.lean ====
section
/-! DEFINITION. The levels of the output pins that the device drives from its state (spec/02, spec/14, spec/15): each follows from the
state at every moment, so State holds no pin. `none`: the device does not drive the ball from its state. -/

namespace Sys2Proof.Machine
open Sys2Proof

/-- A supervisor condition of R139 holds FAULT_N low: an event bit that a FAULT or POWERFAIL action set stands. -/
def State.supFault (s : State) : Bool := (List.range 12).any (fun c => bit s.pwr.faulted.toNat c && s.flag ((Reg.SUP_EVENT_CH).at c))

/-- FAULT_N (R359), active low: the supervisor condition, and with the hub registers served SHORT_FAULT, REGION63 and the bits of
SWP_FAULT that SWP_FAULT_EN enables. -/
def State.faultN (s : State) : Bool :=
  !(s.supFault || (s.hub &&
    ((s.flag Reg.VOL_CTL_SHORT_FAULT && s.short) || s.flag Reg.SWP_FAULT_REGION63 ||
      decide (bits (s.reg 0xD08 &&& s.reg 0xD09).toNat 4 0 ≠ 0))))

/-- INT0 (R351). -/
def State.int0 (s : State) : Bool := decide (s.int0Src ≠ 0)

/-! Balls and TAPs (R57 to R59, R346, R347) -/

/-- What the device does at a ball: no supply; released (an input, or high impedance); driven to a level; driven as a clock; or
driven in turn with the driver on a shared line (R261). -/
inductive Ball where
  | unpowered | released | driven (high : Bool) | clocked | shared
  deriving DecidableEq, Repr

/-- The level of a ball with the fixed pull-down of R59, where it stands still. -/
def Ball.pulled (b : Ball) : Option Bool :=
  match b with
  | .unpowered => some false
  | .released => some false
  | .driven v => some v
  | .clocked => none
  | .shared => none

/-- The Umber TAP is present while MP7 is latched 1 (R346); the separate TAP is active with the hub rails up (Table 2-10). -/
def State.tapLive (s : State) (umberTap : Bool) : Bool :=
  if umberTap then decide (s.pwr.st ≠ .off) && bit (s.get Reg.ID_STRAP_MP) 7 else s.hub

/-- The instruction that a TAP holds; an absent one holds BYPASS. -/
def State.tapInstr (s : State) (umberTap : Bool) : TapInstr :=
  if s.tapLive umberTap then (if umberTap then s.fw.tapUmber else s.fw.tapSep) else .bypass

/-- An output ball with pad rail VSTBY and its cell of the Umber TAP's boundary register: under EXTEST and CLAMP driven from the
cell, under HIGHZ released, else as the device drives it (R347). -/
def State.vstbyBall (s : State) (cell : Nat) (own : Ball) : Ball :=
  if s.pwr.st = .off then .unpowered
  else match s.tapInstr true with
    | .extest => .driven (s.fw.bndUmber.getLsbD cell)
    | .clamp => .driven (s.fw.bndUmber.getLsbD cell)
    | .highz => .released
    | _ => own

/-- MP4 to MP7 by pin phase (Table 2-7, R66); inputs in STRAP, as MP0 to MP3 always are. -/
def State.mpOwn (s : State) (k : Nat) : Ball :=
  match s.pinPhase with
    | 1 => .driven (match k with | 4 => s.int0 | 5 => true | 6 => s.faultN | _ => false)
    | 2 => .driven (match k with | 4 => s.int0 | 5 => s.pwr.warnN | 6 => s.faultN | _ => false)
    | 3 => .driven (match k with | 4 => true | _ => bit s.pwr.progress.toNat (k - 5))
    | 4 => .driven (match k with | 4 => s.pwr.result | _ => bit s.pwr.progress.toNat (k - 5))
    | _ => .released

/-- MPk (R65, R347). -/
def State.mpPin (s : State) (k : Nat) : Ball :=
  if k < 4 then (if s.pwr.st = .off then .unpowered else .released) else s.vstbyBall (24 + k) (s.mpOwn k)

/-- ENg (R72, R347). -/
def State.enPin (s : State) (g : Nat) : Ball := s.vstbyBall (32 + g) (.driven (s.enHigh g))

/-- WAKEh_N is driven low, or released, as an open drain (R168). -/
def State.wakePin (s : State) (h : PHost) : Ball :=
  match s.vstbyBall (4 + h.val) (if (s.host h).wakeLow then .driven false else .released) with
  | .driven true => .released
  | b => b

/-! Sidebands (R69 to R75) -/

/-- What a station's sideband carries (R69): SAFE, SET-UP frames, or the driver's reports. -/
inductive Sideband where
  | safe | setUp | report
  deriving DecidableEq, Repr

/-- The meaning of SBCn and SBDn (R69). A station that is not enabled, as S4 to S7 of a 4C, is in SAFE (R75). -/
def State.sideband (s : State) (n : Nat) : Sideband :=
  if !s.serving || s.pwr.strapOn || !s.stnEnabled n then .safe else if s.stnArmed n then .report else .setUp

/-- SBCn (R69, R260): low in SAFE, high when a SET-UP sideband is idle, else the device's clock. -/
def State.sbcPin (s : State) (n : Nat) : Ball :=
  s.vstbyBall (8 + n) (match s.sideband n with
    | .safe => .driven false
    | .setUp => if (s.stn n).frame.isSome || (s.stn n).swpFrame then .clocked else .driven true
    | .report => .clocked)

/-- SBDn (R69, R260): low in SAFE, high when a SET-UP sideband is idle, shared with the driver in a SET-UP frame, the driver's in
REPORT. -/
def State.sbdPin (s : State) (n : Nat) : Ball :=
  s.vstbyBall (16 + n) (match s.sideband n with
    | .safe => .driven false
    | .setUp => if (s.stn n).frame.isSome || (s.stn n).swpFrame then .shared else .driven true
    | .report => .released)

/-! Serial lanes, MISO and TDO (Table 2-10) -/

/-- A transmit lane: no supply, electrical idle, what its link sends, or what the separate TAP makes of it (R57): its boundary cell,
pulses of it (EXTEST_PULSE, EXTEST_TRAIN), or high impedance. -/
inductive Lane where
  | unpowered | electricalIdle | link | cell (high : Bool) | pulse (high : Bool) | train (high : Bool) | released
  deriving DecidableEq, Repr

/-- A transmit ball and its cell of the separate TAP's boundary register. -/
def State.laneBall (s : State) (cell : Nat) (runs : Bool) : Lane :=
  let v := s.fw.bndSep.getLsbD cell
  match s.tapInstr false with
  | .extest => .cell v
  | .clamp => .cell v
  | .highz => .released
  | .extestPulse => .pulse v
  | .extestTrain => .train v
  | _ => if !(s.hub || decide (s.pwr.st = .volley)) then .unpowered else if runs then .link else .electricalIdle

/-- Pp_TXP[k], or Pp_TXN[k]. -/
def State.pcieTx (s : State) (port : Fin 2) (neg : Bool) (k : Fin 8) : Lane :=
  s.laneBall (32 * port.val + 8 * b2n neg + k.val) s.serving

/-- ECn_P[k], or ECn_N[k]: electrical idle for a station that is not enabled, or whose training failed (R256). -/
def State.ecTx (s : State) (n : StnId) (neg : Bool) (k : Fin 8) : Lane :=
  s.laneBall (68 + 64 * b2n neg + 8 * n.val + k.val)
    (s.serving && s.stnEnabled n.val && decide (s.get (Reg.STN_LINK_STAT_STATE n.val) ≠ 5))

/-- MISO between frames: high impedance, or TDO of the Umber TAP (Table 2-10, R347). -/
def State.misoPin (s : State) : Ball :=
  if s.pwr.st = .off then .unpowered else if s.tapLive true then .shared else .released

/-- TDO of the separate TAP: high impedance but while a scan shifts, and in VOLLEY (Table 2-10). -/
def State.tdoPin (s : State) : Ball := if s.hub || decide (s.pwr.st = .volley) then .released else .unpowered

/-! What a boundary scan captures (R57) -/

/-- The level a ball shows a boundary cell: its own where the device drives it, else the one found outside. -/
def Ball.captured (b : Ball) (outside : Bool) : Bool :=
  match b with
  | .driven v => v
  | _ => outside

/-- The Umber TAP's cells: PERST1_N to PERST4_N, WAKE1_N to WAKE4_N, SBC0 to SBC7, SBD0 to SBD7, MP0 to MP7, EN0 to EN7, RESET_N,
PWROK, EXT0_SNS, EXT1_SNS, and the twelve Kelvin-sense balls. -/
def State.umberCell (s : State) (i : Nat) (outside : Bool) : Bool :=
  if i < 4 then outside
  else if i < 8 then (s.wakePin (Fin.ofNat 4 (i - 4))).captured outside
  else if i < 16 then (s.sbcPin (i - 8)).captured outside
  else if i < 24 then (s.sbdPin (i - 16)).captured outside
  else if i < 32 then (s.mpPin (i - 24)).captured outside
  else if i < 40 then (s.enPin (i - 32)).captured outside
  else outside

/-- The levels that a boundary register captures from its balls. -/
def State.bndCapture (s : State) (umberTap : Bool) (levels : Nat) : Nat :=
  (List.range (if umberTap then 56 else 222)).foldl (fun acc i =>
    acc + b2n (if umberTap then s.umberCell i (bit levels i) else bit levels i) * 2 ^ i) 0

end Sys2Proof.Machine
end

