-- ==== Sys2Proof/Machine/Mport.lean ====
section
/-! DEFINITION. The M-port's frames and the TAPs (spec/14). Where the port takes no frame (unpowered, in a STRAP phase begun on entry
from OFF, or with MP7 latched 1), a frame leaves the state as it is. -/

namespace Sys2Proof.Machine
open Sys2Proof

/-- REASON codes of ID_MPORT (R341, R350). -/
def reasonOpcode : Nat := 1
def reasonAddress : Nat := 2
def reasonBusy : Nat := 3
def reasonState : Nat := 4

/-- ns from a READ's 40th edge to the next frame's first edge from which the value is returned (R343). -/
def validAfter (a : Nat) : Nat := if umber a then 720 else 40

/-- The read data that a frame carries, where VALID is 1: the frame before was a READ that was not refused, `gap` ns earlier
(R340, R343). -/
def State.validData (s : State) (gap : Nat) : Option Word :=
  match s.mport.prevRead with
  | some v => if validAfter s.mport.prevAddr ≤ gap then some v else none
  | none => none

/-- The status byte (Table 14-3), captured as MSS_N fell: STATE and BUSY are those of that moment (R340, R348). -/
def State.statusByte (s : State) (fell : Option (BitVec 3 × Bool)) (valid : Bool) : Nat :=
  let stBusy := match fell with | some (st, b) => (st.toNat, b) | none => (s.pwr.st.code, s.keepBusy)
  2 * 2 ^ 6 + b2n stBusy.2 * 2 ^ 5 + b2n valid * 2 ^ 4 + b2n s.mport.prevRej * 2 ^ 3 + stBusy.1

/-- The 40 bits of MISO in a frame (Table 14-1). -/
def State.misoFrame (s : State) (start : FrameStart) : BitVec 40 :=
  let d := s.validData start.gap
  BitVec.ofNat 40 (s.statusByte start.fell d.isSome * 2 ^ 32 + s.mport.prevAddr * 2 ^ 18 + (d.getD 0#18).toNat)

/-- What a frame leaves for the next one. -/
def State.frameEnd (s : State) (addr : Nat) (rd : Option Word) (rej : Bool) : State :=
  { s with mport := { prevAddr := addr, prevRead := rd, prevRej := rej } }

/-- A frame is refused: it has no effect but REASON and ADDR in ID_MPORT (R339, R341, R350). -/
def State.frameRefuse (s : State) (reason addr : Nat) : State :=
  ((s.put Reg.ID_MPORT_REASON reason).put Reg.ID_MPORT_ADDR addr).frameEnd addr none true

/-- No register table lists the address: it reads 0 and ignores writes, and a frame at it is not refused (R21, Table 14-7). -/
def reservedAddr (a : Nat) : Bool := (fieldsAt a).isEmpty

/-- Table 14-5 allows a frame at a register: in VOLLEY not a WRITE, and not a READ of KEEP_RDATA. -/
def State.frameAllowed (s : State) (a : Nat) (write : Bool) : Bool :=
  reservedAddr a || (s.mportReaches a write && !(decide (s.pwr.st = .volley) && decide (a = 0x283)))

/-- A Keep data frame is answered BUSY (R294). -/
def State.frameBusy (s : State) (a : Nat) (write : Bool) (data : Word) : Bool :=
  if a = 0x283 then !write && s.addrBusy
  else if a = 0x284 then write && s.addrBusy
  else if a = 0x285 then write && s.cmdBusy (bit data.toNat 17) (bit data.toNat 16)
  else false

/-- A WRITE frame's effect (R341, R344). -/
def State.frameWrite (s : State) (a : Nat) (v : Word) : State :=
  if !s.frameAllowed a true then s.frameRefuse reasonState a
  else if s.frameBusy a true v then s.frameRefuse reasonBusy a
  else (s.writeReg 0#4 a v).frameEnd a none false

/-- A READ frame's effect: the register is sampled with the read's side effects (R343). -/
def State.frameRead (s : State) (a : Nat) : State :=
  if !s.frameAllowed a false then s.frameRefuse reasonState a
  else if s.frameBusy a false 0#18 then s.frameRefuse reasonBusy a
  else
    let r := s.readReg 0#4 a
    r.1.frameEnd a (some r.2) false

/-- The frame shifts its MISO bits out. -/
def State.shiftOut (s : State) (start : FrameStart) : State := s.emit (.miso (s.misoFrame start))

/-- A NOP frame (R339). -/
def execMportNop (start : FrameStart) (s : State) (addr : BitVec 12 := 0#12) : Host.Outcome State Fault Refusal :=
  .next (if s.mportLive then (s.shiftOut start).frameEnd addr.toNat none false else s)

/-- A WRITE frame (R339, R342). -/
def execMportWrite (start : FrameStart) (addr : BitVec 12) (data : Word) (s : State) : Host.Outcome State Fault Refusal :=
  .next (if s.mportLive then (s.shiftOut start).frameWrite addr.toNat data else s)

/-- A READ frame (R339, R343). -/
def execMportRead (start : FrameStart) (addr : BitVec 12) (s : State) : Host.Outcome State Fault Refusal :=
  .next (if s.mportLive then (s.shiftOut start).frameRead addr.toNat else s)

/-- A frame with an opcode outside Table 14-2, or with ADDR[13:12] not 0 (R339). A frame with neither is no such frame. -/
def State.frameBad (s : State) (opcode : Byte) (addr : BitVec 14) : State :=
  if opcode ≠ 0x00#8 ∧ opcode ≠ 0x02#8 ∧ opcode ≠ 0x03#8 then s.frameRefuse reasonOpcode addr.toNat
  else if 4096 ≤ addr.toNat then s.frameRefuse reasonAddress addr.toNat
  else s

/-- A frame is refused for its OPCODE or its address (R339). -/
def execFrameRefused (start : FrameStart) (opcode : Byte) (addr : BitVec 14) (s : State) : Host.Outcome State Fault Refusal :=
  .next (if s.mportLive then
      (if (opcode = 0x00#8 ∨ opcode = 0x02#8 ∨ opcode = 0x03#8) ∧ addr.toNat < 4096 then s else (s.shiftOut start).frameBad opcode addr)
    else s)

/-- MSS_N rises before the 40th edge: the frame is discarded and SHORT is set; what the next frame carries is unchanged (R337,
R348). -/
def execShortFrame (edges : Nat) (s : State) : Host.Outcome State Fault Refusal :=
  .next (if s.mportLive ∧ edges < 40 then s.put Reg.ID_MPORT_SHORT 1 else s)

/-- The instruction a code selects (Table 14-6); every other code selects BYPASS. -/
def tapDecode (umberTap : Bool) (code : BitVec 4) : TapInstr :=
  match code.toNat with
  | 0x0 => .extest
  | 0x1 => .samplePreload
  | 0x2 => .clamp
  | 0x3 => .highz
  | 0x4 => if umberTap then .bypass else .extestPulse
  | 0x5 => if umberTap then .bypass else .extestTrain
  | _ => .bypass

/-- What Capture-IR loads (R346), first bit out first: 0b0001. -/
def irCapture : List Bool := [true, false, false, false]

/-- Bits shifted through a data register of w bits, lowest bit out first: what it then holds, and what left it. -/
def shiftBits (w : Nat) : List Bool → Nat → Nat × List Bool
  | [], r => (r, [])
  | b :: bs, r =>
    let t := shiftBits w bs (r / 2 + b2n b * 2 ^ (w - 1))
    (t.1, bit r 0 :: t.2)

/-- The instruction selects the boundary register (IEEE 1149.1, R57); CLAMP, HIGHZ and BYPASS select the bypass bit. -/
def selectsBoundary (i : TapInstr) : Bool :=
  match i with
  | .extest => true
  | .samplePreload => true
  | .extestPulse => true
  | .extestTrain => true
  | .clamp => false
  | .highz => false
  | .bypass => false

def State.setTap (s : State) (umberTap : Bool) (i : TapInstr) : State :=
  if umberTap then { s with fw := { s.fw with tapUmber := i } } else { s with fw := { s.fw with tapSep := i } }

/-- A data-register scan: the boundary register captures its balls, shifts, and is updated; else the bypass bit captures 0. -/
def State.tapScan (s : State) (umberTap : Bool) (levels : Nat) (shift : List Bool) : State :=
  if selectsBoundary (s.tapInstr umberTap) then
    let r := shiftBits (if umberTap then 56 else 222) shift (s.bndCapture umberTap levels)
    let s1 : State := if umberTap then { s with fw := { s.fw with bndUmber := BitVec.ofNat 56 r.1 } }
      else { s with fw := { s.fw with bndSep := BitVec.ofNat 222 r.1 } }
    s1.emit (.tdo umberTap r.2)
  else s.emit (.tdo umberTap (shiftBits 1 shift 0).2)

/-- An instruction is loaded into a TAP and takes effect, a data register is scanned, or the TAP enters Test-Logic-Reset, which
selects BYPASS (R346, R347). -/
def execTapInstruction (umber : Bool) (op : TapOp) (s : State) : Host.Outcome State Fault Refusal :=
  .next (if s.tapLive umber then
      (match op with
       | .load code => (s.setTap umber (tapDecode umber code)).emit (.tdo umber irCapture)
       | .scan levels shift => s.tapScan umber levels shift
       | .testReset => s.setTap umber .bypass)
    else s)

end Sys2Proof.Machine
end

