-- ==== Sys2Proof/Machine/BarOps.lean ====
section
/-! DEFINITION. A host's accesses to its function: the configuration space and BAR0 (R162 to R167). -/

namespace Sys2Proof.Machine
open Sys2Proof

/-! Configuration space -/

/-- The 64-bit serial number of the identity block. -/
def State.serial (s : State) : Nat :=
  ([0, 1, 2, 3].map (fun i => s.get (Reg.ID_SERIAL_SERIAL i) * 2 ^ (16 * i))).sum

/-- The bits of a dword that follow from the device (Tables 6-2 and 6-3; log entry 101). -/
def State.cfgFixed (s : State) (h : PHost) (d : Nat) : Nat :=
  match d with
  | 0x00 => 0x72181F3C
  | 0x01 => 0x00100000
  | 0x02 => 0x05800000 + s.get Reg.ID_REV_MAJOR * 16 + s.get Reg.ID_REV_MINOR
  | 0x04 => 0x4
  | 0x0B => (if s.is4C then 2 else 1) * 2 ^ 16 + 0x1F3C
  | 0x0D => 0x40
  | 0x10 => 0x40035001
  | 0x11 => if (s.host h).d3 then 3 else 0
  | 0x14 => 0x001F7011
  | 0x15 => 0x4000
  | 0x16 => 0x6000
  | 0x1C => 0x00020010
  | 0x1D => 0x10008022
  | 0x1F => 0x00400800 + (s.lanesOf h).2 * 16 + 5
  | 0x20 => (s.get (Reg.HOST_LINK_WIDTH h.val) * 16 + s.get (Reg.HOST_LINK_SPEED h.val)) * 2 ^ 16
  | 0x25 => 0x0003000F
  | 0x27 => 0x3E
  | 0x28 => if 3 ≤ s.get (Reg.HOST_LINK_SPEED h.val) then 0x001E0000 else 0
  | 0x40 => 0x14820001
  | 0x46 => 0xA0
  | 0x52 => 0x15810003
  | 0x53 => s.serial % 2 ^ 32
  | 0x54 => s.serial / 2 ^ 32
  | 0x56 => 0x16410025
  | 0x57 => 1
  | 0x59 => 0x19010019
  | 0x64 => 0x1C010026
  | 0x67 => if 4 ≤ s.get (Reg.HOST_LINK_SPEED h.val) then 0xF else 0
  | 0x70 => 0x20010027
  | 0x71 => 0x00010000
  | 0x80 => 0x0001002A
  | 0x81 => 0x100
  | 0x83 => if 5 ≤ s.get (Reg.HOST_LINK_SPEED h.val) then 0xF else 0
  | _ => 0

/-- What a dword of the configuration space reads as. -/
def State.cfgShown (s : State) (h : PHost) (d : Nat) : BitVec 32 := (s.host h).dword d ||| BitVec.ofNat 32 (s.cfgFixed h d)

/-- The function answers configuration requests: from link-up (R157). -/
def State.cfgLive (s : State) (h : PHost) : Bool := s.serving && s.hostExists h && (s.host h).up

/-- Pending messages of the vectors that nothing masks any more are sent (R166). -/
def State.sendPending (s : State) (h : PHost) : State :=
  (List.range 32).foldl (fun (t : State) v =>
    let p := t.host h
    if bit p.pba.toNat v && !p.vecMasked v && p.msixOn then
      (t.setHost h { p with pba := p.pba &&& ~~~(BitVec.ofNat 32 (2 ^ v)) }).msix h v
    else t) s

/-- PowerState is written: D3hot stops fetching, and D0 after D3hot is a function-level reset (R168). -/
def State.powerState (s : State) (h : PHost) (goal : Nat) : State :=
  if goal = 3 then s.setHost h { s.host h with d3 := true }
  else if goal = 0 ∧ (s.host h).d3 then s.functionReset h false
  else s

/-- A configuration write: the stored bits, and what they start: the messages that a mask held, the traffic that Bus Master Enable
lets flow, the power state, a function-level reset (R166, R168, R186). -/
def State.cfgStore (s : State) (h : PHost) (d : Nat) (be : BitVec 4) (v : BitVec 32) : State :=
  let p := s.host h
  let s1 := s.setHost h (p.setDword d (cfgWritten d (p.dword d) v be))
  if d = cfgMsixCtl then s1.sendPending h
  else if d = cfgCommand then ((s1.replayWrite h).issueFetches h).settle
  else if d = cfgPmcsr then (if be.getLsbD 0 then s1.powerState h (v.toNat % 4) else s1)
  else if d = cfgDevCtl then (if be.getLsbD 1 && v.getLsbD 15 then s1.functionReset h false else s1)
  else s1

/-- A configuration write request, answered with a retry until the function is ready (R157); the link leaves L1 for the answer
(R168). -/
def State.cfgWrite (s : State) (h : PHost) (d : Nat) (be : BitVec 4) (v : BitVec 32) : State :=
  if s.cfgLive h then
    (if (s.host h).ready then ((s.cfgStore h d be v).leaveL1 h).emit (.cfgDone h false) else (s.leaveL1 h).emit (.cfgDone h true))
  else s

/-- A configuration read request (R157, R162, R163). -/
def State.cfgRead (s : State) (h : PHost) (d : BitVec 10) : State :=
  if s.cfgLive h then (s.leaveL1 h).emit (.cfgData h d (if (s.host h).ready then some (s.cfgShown h d.toNat) else none)) else s

/-! Memory requests (R164, R165) -/

/-- A request maps to no BAR: it is unsupported; a read is told so by its completion (R167). -/
def State.noBar (s : State) (h : PHost) (write : Bool) : State :=
  if s.cfgLive h then
    (if write then s.reportError h .unsupported false else ((s.reportError h .unsupported true).leaveL1 h).emit (.unsupported h))
  else s

/-- A dword of the MSI-X table is written; a vector whose mask bit clears is unmasked (R166). -/
def State.vectorWrite (s : State) (h : PHost) (i : Nat) (v : BitVec 32) : State :=
  let p := s.host h
  if i % 4 < 3 then s.setHost h { p with vectors := Map.set (fun _ => 0#32) p.vectors i v }
  else if v.getLsbD 0 then s.setHost h { p with masked := p.masked ||| BitVec.ofNat 32 (2 ^ (i / 4)) }
  else s.unmask h (i / 4)

/-- A write request to BAR0: a register write or a write of the MSI-X table, of one dword with all its bytes; any other one there is
discarded as unsupported, and the rest of BAR0 ignores writes. Bits 31 to 18 of a register's slot are ignored (R18, R165). -/
def State.barWrite (s : State) (h : PHost) (off dwords : Nat) (be : BitVec 4) (v : BitVec 32) : State :=
  if !s.barLive h then s.noBar h true
  else if off < 0x4200 then
    if dwords = 1 ∧ be = 0xF#4 then
      (if off < 0x4000 then s.writeReg (hostSender h) (off / 4) (v.truncate 18) else s.vectorWrite h ((off - 0x4000) / 4) v)
    else s.reportError h .unsupported false
  else s

/-- What one dword of BAR0 outside the registers reads as (R164). -/
def State.barShown (s : State) (h : PHost) (off : Nat) : BitVec 32 :=
  let p := s.host h
  if 0x4000 ≤ off ∧ off < 0x4200 then
    let i := (off - 0x4000) / 4
    if i % 4 < 3 then p.vecDword (i / 4) (i % 4) else BitVec.ofNat 32 (b2n (bit p.masked.toNat (i / 4)))
  else if off / 4 = 0x6000 / 4 then p.pba
  else 0#32

/-- A read request to BAR0: one dword, a register's slot with bits 31 to 18 zero; a longer one ends in Completer Abort (R18, R165,
R167). -/
def State.barRead (s : State) (h : PHost) (off : BitVec 15) (dwords : Nat) : State :=
  if !s.barLive h then s.noBar h false
  else if dwords ≠ 1 then ((s.reportError h .completerAbort true).leaveL1 h).emit (.barData h off none)
  else if off.toNat < 0x4000 then
    let r := s.readReg (hostSender h) (off.toNat / 4)
    (r.1.leaveL1 h).emit (.barData h off (some (r.2.zeroExtend 32)))
  else (s.leaveL1 h).emit (.barData h off (some (s.barShown h off.toNat)))

/-- A host's request for BAR0 (R165). -/
def State.barAccess (s : State) (h : PHost) (off : BitVec 15) (q : RegRequest) : State :=
  match q with
  | .word v => s.barWrite h off.toNat 1 0xF#4 (v.zeroExtend 32)
  | .write n be v => s.barWrite h off.toNat n be v
  | .read n => s.barRead h off n

/-- A host's configuration request (R162, R163). -/
def State.cfgAccess (s : State) (h : PHost) (d : Nat) (q : RegRequest) : State :=
  match q with
  | .word v => s.cfgWrite h d 0xF#4 (v.zeroExtend 32)
  | .write _ be v => s.cfgWrite h d be v
  | .read _ => s.cfgRead h d

/-- A request of a host for a place (R162 to R165); a register's slot is at four times its number (R18). -/
def State.hostAccess (s : State) (h : PHost) (p : RegPlace) (q : RegRequest) : State :=
  match p with
  | .reg addr => s.barAccess h (addr.zeroExtend 15 <<< 2) q
  | .bar off => s.barAccess h off q
  | .noBar => s.noBar h (match q with | .read _ => false | _ => true)
  | .cfg d => s.cfgAccess h d.toNat q

/-- A request by a sender: a write of a register by its number, where the sender's port reaches it, or a host's own. -/
def State.regAccess (s : State) (x : Sender) (p : RegPlace) (q : RegRequest) : State :=
  match p, q with
  | .reg addr, .word value => if s.reaches x addr.toNat true then s.writeReg x addr.toNat value else s
  | p, q => match hostOf x.toNat with
    | some h => s.hostAccess h p q
    | none => s

end Sys2Proof.Machine
end

