-- ==== Sys2Proof/Machine/RegisterAccess.lean ====
section
/-! DEFINITION. A register access: through BAR0, the M-port or from inside the device, with the requests to a function's configuration
space (R19, R162, R165). -/

namespace Sys2Proof.Machine
open Sys2Proof

/-- REGISTER_WRITE (R19, R21, R165): an access of a sender whose port reaches the register. -/
def execRegisterWrite (from_ : Sender) (addr : RegPlace) (value : RegRequest) (s : State) : Host.Outcome State Fault Refusal :=
  .next (s.regAccess from_ addr value)

end Sys2Proof.Machine
end

