-- ==== Sys2Proof/Machine/Rtc.lean ====
section
/-! DEFINITION. The clock's commands (spec/13). -/

namespace Sys2Proof.Machine
open Sys2Proof

/-- Alarms are evaluated in every state but OFF (R324, R333). -/
def State.alarmsTick (s : State) : State :=
  if s.pwr.st ≠ .off ∧ s.rtc.now.subsec = 0 then (s.alarmTick 0).alarmTick 1 else s

/-- SUBSEC advances (R322); the rollover sets OSF (R326); alarms fire at the start of a second (R330). -/
def execRtcTick (s : State) : Host.Outcome State Fault Refusal :=
  .next (if s.clockRuns then
      let r := s.rtc.now.tick
      let s1 : State := { s with rtc := { s.rtc with now := r.1 } }
      (if r.2 then s1.setOsf Reg.RTC_STATUS_ROLL else s1).alarmsTick
    else s)

/-- A trim window starts and takes the TRIM that stands (R325). -/
def execTrimWindow (s : State) : Host.Outcome State Fault Refusal :=
  .next (if s.clockRuns then { s with rtc := { s.rtc with trim := signed 10 (s.get Reg.RTC_CTL_TRIM) } } else s)

/-- A write to RTC_ALMk_w (R331, R335). -/
def execAlarmWrite (from_ : Sender) (k : Fin 2) (word : Fin 3) (value : Word) (s : State) : Host.Outcome State Fault Refusal :=
  .next (if s.reaches from_ (0x210 + 4 * k.val + word.val) true then s.alarmWrite from_ k.val word.val value else s)

/-- The computation of alarm k's next instant ends (R331). -/
def execAlarmComputeDone (k : Fin 2) (s : State) : Host.Outcome State Fault Refusal :=
  .next (if s.pwr.st ≠ .off ∧ s.flag (Reg.RTC_ALM_0_BUSY k.val) then s.alarmDone k.val else s)

/-- SET in RTC_CMD (R329). -/
def execRegisterSet (from_ : Sender) (s : State) : Host.Outcome State Fault Refusal :=
  .next (if s.reaches from_ 0x20C true then s.registerSet from_ else s)

/-- A read of a time-block register (R328). -/
def execTimeBlockRead (from_ : Sender) (word : Fin 6) (s : State) : Host.Outcome State Fault Refusal :=
  .next (if s.reaches from_ (0x200 + word.val) false then
      let r := s.readTime from_ word.val
      r.1.answer from_ (0x200 + word.val) r.2
    else s)

/-- A frozen shadow is released 250 ms after it was frozen (R328). -/
def execShadowRelease (from_ : Sender) (s : State) : Host.Outcome State Fault Refusal :=
  .next (if s.pwr.st = .off then s else s.setShadow from_ none)

/-- Retention fails while VSTBY is outside its window (R392): the clock stops with LOWBAT, the other retained values are
lost at the next entry to STANDBY. -/
def execRetentionFail (s : State) : Host.Outcome State Fault Refusal :=
  .next (if s.pwr.retained && !s.pwr.clockHeld && (decide (s.pwr.st = .off) || !s.vstbyOk) then
      let s1 := s.setOsf Reg.RTC_STATUS_LOWBAT
      { s1 with pwr := { s1.pwr with clockHeld := true, heldLost := true } }
    else s)

/-- A supply first reaches the retained state while it holds none (R326): it never held any, or retention has failed and
power was then lost entirely. -/
def execCellAttach (s : State) : Host.Outcome State Fault Refusal :=
  .next (if s.pwr.retained && !s.pwr.clockHeld then s else s.attach)

/-- VBAT or VSTBY returns and the clock counts on from its held value (R326). -/
def execVbatReturn (s : State) : Host.Outcome State Fault Refusal :=
  .next { s with pwr := { s.pwr with clockHeld := false } }

end Sys2Proof.Machine
end

