-- ==== Sys2Proof/Machine/Supervisor.lean ====
section
/-! DEFINITION. The commands of supervision and of the hold capacitor's monitor (spec/05, spec/04). An event whose condition
does not hold leaves the state as it is (log entry 13). -/

namespace Sys2Proof.Machine
open Sys2Proof

/-- OUT of channel c becomes 1, `also` that of other channels in the same U cycle, and each armed channel takes its action (R138 to
R140, R153). -/
def execChannelOut (c : Fin 12) (high : Bool) (s : State) (also : List (Fin 12 × Bool) := []) :
    Host.Outcome State Fault Refusal :=
  .next (if s.pwr.st = .off ∨ bit (s.get Reg.SUP_OUT_OUT) c.val then s
    else s.channelOut c.val high (also.map (fun x => (x.1.val, x.2))))

/-- OUT of channel c becomes 0 (R138). -/
def execChannelIn (c : Fin 12) (s : State) : Host.Outcome State Fault Refusal :=
  .next (if s.pwr.st ≠ .off ∧ bit (s.get Reg.SUP_OUT_OUT) c.val then s.channelIn c.val else s)

/-- A capture is written into the first-fail log (R152). -/
def execFirstFailSpill (s : State) : Host.Outcome State Fault Refusal :=
  .next (if s.spillReady then s.spillStart else s)

/-- A channel that a free enable gates is armed one filter time after the enable has risen, inside its window (R140). -/
def execFreeChannelArm (c : Fin 12) (s : State) : Host.Outcome State Fault Refusal :=
  .next (
    let g := s.get (Reg.SUP_CTL_GATE c.val)
    if s.serving ∧ bit (freeMask s.pwr.steps) g ∧ s.enHigh g ∧ ¬bit (s.get Reg.SUP_OUT_OUT) c.val then
      { s with pwr := { s.pwr with gateArmed := s.pwr.gateArmed ||| BitVec.ofNat 12 (2 ^ c.val) } }
    else s)

/-- VIN crosses the WARN threshold (R144). -/
def execVolleyWarn (below : Bool) (s : State) : Host.Outcome State Fault Refusal :=
  .next (if s.pwr.st = .off then s else ({ s with pwr := { s.pwr with vinWarn := below } } : State).warnFollow)

/-- VHOLD is sampled (R136): VOL_VHOLD, and what follows READY (R135, R144). -/
def execVholdSample (code : BitVec 10) (s : State) : Host.Outcome State Fault Refusal :=
  .next (if s.pwr.st = .off then s else (s.put Reg.VOL_VHOLD_VHOLD code.toNat).watch s)

/-- The ideal-diode switch closes fully, while VIN is good and no store runs, or it no longer is (R141). -/
def execChargerFull (full : Bool) (s : State) : Host.Outcome State Fault Refusal :=
  .next (if s.pwr.st = .off then s
    else if full then (if s.vinGood ∧ s.store.isNone then s.put Reg.SUP_CHG_FULL 1 else s)
    else s.put Reg.SUP_CHG_FULL 0)

end Sys2Proof.Machine
end

