-- ==== Sys2Proof/Machine/Dispatch.lean ====
section
/-! DEFINITION. One arm per command: its meaning, or its mnemonic where it has none. -/

namespace Sys2Proof.Machine

/-- The effect of a command on everything but the queue. -/
def exec (i : Instr) (s : State) : Host.Outcome State Fault Refusal :=
  match i with
  | .vstbyGood => Sys2Proof.Machine.execVstbyGood s
  | .vstbyLost => Sys2Proof.Machine.execVstbyLost s
  | .wakeStart => Sys2Proof.Machine.execWakeStart s
  | .darkToWaking => Sys2Proof.Machine.execDarkToWaking s
  | .reload from_ => Sys2Proof.Machine.execReload from_ s
  | .scriptDelayDone => Sys2Proof.Machine.execScriptDelayDone s
  | .waitPgDone => Sys2Proof.Machine.execWaitPgDone s
  | .waitPgTimeout above => Sys2Proof.Machine.execWaitPgTimeout above s
  | .shutdownDrop => Sys2Proof.Machine.execShutdownDrop s
  | .cPllLock => Sys2Proof.Machine.execCPllLock s
  | .pllLockTimeout => Sys2Proof.Machine.execPllLockTimeout s
  | .sealReadDone => Sys2Proof.Machine.execSealReadDone s
  | .restoreWaveDone => Sys2Proof.Machine.execRestoreWaveDone s
  | .clearingDone => Sys2Proof.Machine.execClearingDone s
  | .counterRecovery => Sys2Proof.Machine.execCounterRecovery s
  | .firmwareBooted cores => Sys2Proof.Machine.execFirmwareBooted s cores
  | .bootTimeout => Sys2Proof.Machine.execBootTimeout s
  | .openSheetRebuild => Sys2Proof.Machine.execOpenSheetRebuild s
  | .resetNLow => Sys2Proof.Machine.execResetNLow s
  | .resetNHigh => Sys2Proof.Machine.execResetNHigh s
  | .strapSample mp => Sys2Proof.Machine.execStrapSample mp s
  | .strapPhaseEnd => Sys2Proof.Machine.execStrapPhaseEnd s
  | .pwrokFall => Sys2Proof.Machine.execPwrokFall s
  | .pwrokRise => Sys2Proof.Machine.execPwrokRise s
  | .warmReset from_ key => Sys2Proof.Machine.execWarmReset from_ key s
  | .powerDownRequest from_ => Sys2Proof.Machine.execPowerDownRequest from_ s
  | .wake from_ => Sys2Proof.Machine.execWake from_ s
  | .drainImagingLimit => Sys2Proof.Machine.execDrainImagingLimit s
  | .drainStoreStart => Sys2Proof.Machine.execDrainStoreStart s
  | .clockLoss => Sys2Proof.Machine.execClockLoss s
  | .refclkLoss port => Sys2Proof.Machine.execRefclkLoss port s
  | .sPllUnlock => Sys2Proof.Machine.execSPllUnlock s
  | .sPllRelock => Sys2Proof.Machine.execSPllRelock s
  | .crystalStop => Sys2Proof.Machine.execCrystalStop s
  | .crystalRestart => Sys2Proof.Machine.execCrystalRestart s
  | .channelOut c high also => Sys2Proof.Machine.execChannelOut c high s also
  | .channelIn c => Sys2Proof.Machine.execChannelIn c s
  | .firstFailSpill => Sys2Proof.Machine.execFirstFailSpill s
  | .freeChannelArm c => Sys2Proof.Machine.execFreeChannelArm c s
  | .volleyWarn below => Sys2Proof.Machine.execVolleyWarn below s
  | .vholdSample code => Sys2Proof.Machine.execVholdSample code s
  | .volleyWaveStart vhold => Sys2Proof.Machine.execVolleyWaveStart vhold s
  | .storeSealStart => Sys2Proof.Machine.execStoreSealStart s
  | .storeSealComplete vhold => Sys2Proof.Machine.execStoreSealComplete vhold s
  | .vholdFloor elapsed => Sys2Proof.Machine.execVholdFloor elapsed s
  | .progressCodeStep => Sys2Proof.Machine.execProgressCodeStep s
  | .ckpt from_ => Sys2Proof.Machine.execCkpt from_ s
  | .checkpointStart => Sys2Proof.Machine.execCheckpointStart s
  | .checkpointWaveStart => Sys2Proof.Machine.execCheckpointWaveStart s
  | .doorbellPoll h idle => Sys2Proof.Machine.execDoorbellPoll h idle s
  | .pollDataArrival h block => Sys2Proof.Machine.execPollDataArrival h block s
  | .pollError h why => Sys2Proof.Machine.execPollError h s why
  | .pollFailTimeout h => Sys2Proof.Machine.execPollFailTimeout h s
  | .fetchError h j why => Sys2Proof.Machine.execFetchError h j s why
  | .hostDataArrival h j tag data ups pads => Sys2Proof.Machine.execHostDataArrival h j tag data ups s pads
  | .hostReadTimeout h j tag lost => Sys2Proof.Machine.execHostReadTimeout h j tag s lost
  | .cqTimeExpiry h j => Sys2Proof.Machine.execCqTimeExpiry h j s
  | .msixUnmask h vec => Sys2Proof.Machine.execMsixUnmask h vec s
  | .sqEnable from_ h j value => Sys2Proof.Machine.execSqEnable from_ h j value s
  | .sqDisable from_ h j value => Sys2Proof.Machine.execSqDisable from_ h j value s
  | .cqEnable from_ h j value => Sys2Proof.Machine.execCqEnable from_ h j value s
  | .cqDisable from_ h j value => Sys2Proof.Machine.execCqDisable from_ h j value s
  | .replayWrite h => Sys2Proof.Machine.execReplayWrite h s
  | .cutDiscard from_ h => Sys2Proof.Machine.execCutDiscard from_ h s
  | .retrain from_ h => Sys2Proof.Machine.execRetrain from_ h s
  | .laneBad h lane speed errors => Sys2Proof.Machine.execLaneBad h lane speed s errors
  | .linkRetrained h speed => Sys2Proof.Machine.execLinkRetrained h s speed
  | .linkDown h => Sys2Proof.Machine.execLinkDown h s
  | .linkUp h speed width => Sys2Proof.Machine.execLinkUp h speed width s
  | .perstLow h => Sys2Proof.Machine.execPerstLow h s
  | .perstHigh h => Sys2Proof.Machine.execPerstHigh h s
  | .flr h => Sys2Proof.Machine.execFlr h s
  | .d3hotEntry h => Sys2Proof.Machine.execD3hotEntry h s
  | .d0Entry h => Sys2Proof.Machine.execD0Entry h s
  | .aspmL1Entry h => Sys2Proof.Machine.execAspmL1Entry h s
  | .nop h j d => Sys2Proof.Machine.execNop h j d s
  | .write h j d data ups => Sys2Proof.Machine.execWrite h j d data ups s
  | .read h j d ups => Sys2Proof.Machine.execRead h j d ups s
  | .correctedRewrite codeword => Sys2Proof.Machine.execCorrectedRewrite codeword s
  | .copy h j d ups => Sys2Proof.Machine.execCopy h j d ups s
  | .fill h j d ups => Sys2Proof.Machine.execFill h j d ups s
  | .move h j d => Sys2Proof.Machine.execMove h j d s
  | .moveForward n ups => Sys2Proof.Machine.execMoveForward n ups s
  | .moveTimeout n => Sys2Proof.Machine.execMoveTimeout n s
  | .forwardEnd from_ n => Sys2Proof.Machine.execForwardEnd from_ n s
  | .word18Write h j d data ups => Sys2Proof.Machine.execWord18Write h j d data ups s
  | .word18Read h j d ups => Sys2Proof.Machine.execWord18Read h j d ups s
  | .rasterPost h j d data => Sys2Proof.Machine.execRasterPost h j d data s
  | .sheetJoinQueue n => Sys2Proof.Machine.execSheetJoinQueue n s
  | .rasterPostPublish h j tag => Sys2Proof.Machine.execRasterPostPublish h j tag s
  | .tableLoad h j d data pads => Sys2Proof.Machine.execTableLoad h j d data s pads
  | .tableSwap h j d => Sys2Proof.Machine.execTableSwap h j d s
  | .tableSwapReady h j tag t => Sys2Proof.Machine.execTableSwapReady h j tag t s
  | .ledgerOpen h j d pads => Sys2Proof.Machine.execLedgerOpen h j d s pads
  | .ledgerStage h j d pads => Sys2Proof.Machine.execLedgerStage h j d s pads
  | .ledgerQuery h j d pads => Sys2Proof.Machine.execLedgerQuery h j d s pads
  | .counterRead h j d pads => Sys2Proof.Machine.execCounterRead h j d s pads
  | .keepRead h j d pads => Sys2Proof.Machine.execKeepRead h j d s pads
  | .keepWrite h j d data pads => Sys2Proof.Machine.execKeepWrite h j d data s pads
  | .recordPut h j d data pads => Sys2Proof.Machine.execRecordPut h j d data s pads
  | .recordGet h j d pads => Sys2Proof.Machine.execRecordGet h j d s pads
  | .rtcRead h j d => Sys2Proof.Machine.execRtcRead h j d s
  | .rtcSet h j d => Sys2Proof.Machine.execRtcSet h j d s
  | .checkpoint h j d => Sys2Proof.Machine.execCheckpoint h j d s
  | .abort h j d => Sys2Proof.Machine.execAbort h j d s
  | .badOpcode h j opcode d => Sys2Proof.Machine.execBadOpcode h j opcode d s
  | .waitLimitExpiry h j tag => Sys2Proof.Machine.execWaitLimitExpiry h j tag s
  | .partAttr from_ p value => Sys2Proof.Machine.execPartAttr from_ p value s
  | .partRegion from_ r value => Sys2Proof.Machine.execPartRegion from_ r value s
  | .regionClearDone r => Sys2Proof.Machine.execRegionClearDone r s
  | .clusterSlow r cluster => Sys2Proof.Machine.execClusterSlow r cluster s
  | .eccLimit r cluster => Sys2Proof.Machine.execEccLimit r cluster s
  | .liveCopyDone r ups => Sys2Proof.Machine.execLiveCopyDone r ups s
  | .region63RelocDone ups => Sys2Proof.Machine.execRegion63RelocDone ups s
  | .arm from_ n => Sys2Proof.Machine.execArm from_ n s
  | .disarm from_ n => Sys2Proof.Machine.execDisarm from_ n s
  | .noSos n => Sys2Proof.Machine.execNoSos n s
  | .sxsPulse n t width high leave => Sys2Proof.Machine.execSxsPulse n t width s high leave
  | .eosWindowOpen n => Sys2Proof.Machine.execEosWindowOpen n s
  | .eosWindowEnd n => Sys2Proof.Machine.execEosWindowEnd n s
  | .armingWindowOpen n => Sys2Proof.Machine.execArmingWindowOpen n s
  | .stall n => Sys2Proof.Machine.execStall n s
  | .facetEnd n => Sys2Proof.Machine.execFacetEnd n s
  | .lineFetch n ups => Sys2Proof.Machine.execLineFetch n ups s
  | .amBoundary n => Sys2Proof.Machine.execAmBoundary n s
  | .temp n cnt level => Sys2Proof.Machine.execTemp n cnt level s
  | .cutoffBlank n first => Sys2Proof.Machine.execCutoffBlank n s first
  | .dead n cnt emitter => Sys2Proof.Machine.execDead n cnt emitter s
  | .lane n cnt lane amc => Sys2Proof.Machine.execLane n cnt lane amc s
  | .late n cnt fseq => Sys2Proof.Machine.execLate n cnt fseq s
  | .fault n cnt code => Sys2Proof.Machine.execFault n cnt code s
  | .sbErr n => Sys2Proof.Machine.execSbErr n s
  | .sbLost n => Sys2Proof.Machine.execSbLost n s
  | .go from_ n value => Sys2Proof.Machine.execGo from_ n value s
  | .setupFrameDone n ack parityOk data => Sys2Proof.Machine.execSetupFrameDone n ack parityOk data s
  | .train from_ n => Sys2Proof.Machine.execTrain from_ n s
  | .trainingStepDone n reply => Sys2Proof.Machine.execTrainingStepDone n reply s
  | .encoderCount enc ba close => Sys2Proof.Machine.execEncoderCount enc ba close s
  | .encoderLos enc => Sys2Proof.Machine.execEncoderLos enc s
  | .encCountLatch from_ n => Sys2Proof.Machine.execEncCountLatch from_ n s
  | .revert from_ n mask => Sys2Proof.Machine.execRevert from_ n mask s
  | .copyingDone n table => Sys2Proof.Machine.execCopyingDone n table s
  | .fnAdj from_ n value => Sys2Proof.Machine.execFnAdj from_ n value s
  | .stagePulse pin => Sys2Proof.Machine.execStagePulse pin s
  | .jamPulse => Sys2Proof.Machine.execJamPulse s
  | .stageTimeout queue index => Sys2Proof.Machine.execStageTimeout queue index s
  | .counterCopyStart => Sys2Proof.Machine.execCounterCopyStart s
  | .ledCntSel from_ value => Sys2Proof.Machine.execLedCntSel from_ value s
  | .pageWriteStart => Sys2Proof.Machine.execPageWriteStart s
  | .pageWritePhase => Sys2Proof.Machine.execPageWritePhase s
  | .pageWriteDone bad => Sys2Proof.Machine.execPageWriteDone bad s
  | .keepRdata from_ => Sys2Proof.Machine.execKeepRdata from_ s
  | .keepWdata from_ value => Sys2Proof.Machine.execKeepWdata from_ value s
  | .keepCmdWrite from_ => Sys2Proof.Machine.execKeepCmdWrite from_ s
  | .clear from_ => Sys2Proof.Machine.execClear from_ s
  | .flush from_ => Sys2Proof.Machine.execFlush from_ s
  | .bpUpdate from_ bp => Sys2Proof.Machine.execBpUpdate from_ bp s
  | .keepHot from_ value => Sys2Proof.Machine.execKeepHot from_ value s
  | .hotRangeSwitch => Sys2Proof.Machine.execHotRangeSwitch s
  | .mailboxWrite from_ c towardB value => Sys2Proof.Machine.execMailboxWrite from_ c towardB value s
  | .mailboxPop from_ c towardB => Sys2Proof.Machine.execMailboxPop from_ c towardB s
  | .possRead from_ k => Sys2Proof.Machine.execPossRead from_ k s
  | .possRelease from_ k value => Sys2Proof.Machine.execPossRelease from_ k value s
  | .possForce from_ high value => Sys2Proof.Machine.execPossForce from_ high value s
  | .rtcTick => Sys2Proof.Machine.execRtcTick s
  | .trimWindow => Sys2Proof.Machine.execTrimWindow s
  | .alarmWrite from_ k word value => Sys2Proof.Machine.execAlarmWrite from_ k word value s
  | .alarmComputeDone k => Sys2Proof.Machine.execAlarmComputeDone k s
  | .registerSet from_ => Sys2Proof.Machine.execRegisterSet from_ s
  | .timeBlockRead from_ word => Sys2Proof.Machine.execTimeBlockRead from_ word s
  | .shadowRelease from_ => Sys2Proof.Machine.execShadowRelease from_ s
  | .retentionFail => Sys2Proof.Machine.execRetentionFail s
  | .cellAttach => Sys2Proof.Machine.execCellAttach s
  | .vbatReturn => Sys2Proof.Machine.execVbatReturn s
  | .mportNop start addr => Sys2Proof.Machine.execMportNop start s addr
  | .mportWrite start addr data => Sys2Proof.Machine.execMportWrite start addr data s
  | .mportRead start addr => Sys2Proof.Machine.execMportRead start addr s
  | .frameRefused start opcode addr => Sys2Proof.Machine.execFrameRefused start opcode addr s
  | .shortFrame edges => Sys2Proof.Machine.execShortFrame edges s
  | .tapInstruction umber op => Sys2Proof.Machine.execTapInstruction umber op s
  | .sweeperCycleStart => Sys2Proof.Machine.execSweeperCycleStart s
  | .runNow from_ => Sys2Proof.Machine.execRunNow from_ s
  | .sweeperTestStep test failed detail => Sys2Proof.Machine.execSweeperTestStep test failed detail s
  | .windowRedirect => Sys2Proof.Machine.execWindowRedirect s
  | .windowYield => Sys2Proof.Machine.execWindowYield s
  | .emitterTestResult n emitter res => Sys2Proof.Machine.execEmitterTestResult n emitter res s
  | .swpLogSel from_ value => Sys2Proof.Machine.execSwpLogSel from_ value s
  | .load from_ => Sys2Proof.Machine.execLoad from_ s
  | .loadDone => Sys2Proof.Machine.execLoadDone s
  | .activate from_ => Sys2Proof.Machine.execActivate from_ s
  | .activationStep ok => Sys2Proof.Machine.execActivationStep ok s
  | .erase from_ slot => Sys2Proof.Machine.execErase from_ slot s
  | .fwToken from_ value => Sys2Proof.Machine.execFwToken from_ value s
  | .lcApply from_ => Sys2Proof.Machine.execLcApply from_ s
  | .lcWipeStep cores => Sys2Proof.Machine.execLcWipeStep s cores
  | .coreWatchdog core => Sys2Proof.Machine.execCoreWatchdog core s
  | .registerWrite from_ addr value => Sys2Proof.Machine.execRegisterWrite from_ addr value s
  | .functionReady h => Sys2Proof.Machine.execFunctionReady h s
  | .losClear enc => Sys2Proof.Machine.execLosClear enc s
  | .chargerFull full => Sys2Proof.Machine.execChargerFull full s

end Sys2Proof.Machine
end

