-- ==== Sys2Proof/Machine/Blocks.lean ====
section
/-! DEFINITION. The blocks of an Ecposia link as the device sends them (R252, Table 9-4). -/

namespace Sys2Proof.Machine
open Sys2Proof

/-- A block: a control block (header 0b10) or PAYLOAD (0b01), and its 64 bits. -/
structure Block where
  control : Bool
  word : BitVec 64
  deriving DecidableEq, Repr

/-- A control block of a TYPE with its other bits. -/
def controlBlock (typ rest : Nat) : Block := ⟨true, BitVec.ofNat 64 (typ + rest)⟩

/-- The four parts of FACET_START. -/
def facetStartBlocks (fseq fn span nw mask period : Nat) (phases : List Nat) (delay : Nat) : List Block :=
  let ph (g : Nat) : Nat := phases.getD g 0 % 16
  let part (k rest : Nat) : Block := controlBlock 0x2D (k * 2 ^ 8 + rest)
  let phs (g : Nat) : Nat := (ph g + ph (g + 1) * 2 ^ 4 + ph (g + 2) * 2 ^ 8 + ph (g + 3) * 2 ^ 12) * 2 ^ 46
  [part 0 (fseq % 2 ^ 16 * 2 ^ 10 + fn % 16 * 2 ^ 26 + delay / 16 % 2 ^ 24 * 2 ^ 30 + delay % 16 * 2 ^ 54 + ph 8 * 2 ^ 58),
   part 1 (period % 2 ^ 28 * 2 ^ 10 + span % 2 ^ 16 * 2 ^ 38 + nw % 2 ^ 7 * 2 ^ 54),
   part 2 (mask % 2 ^ 36 * 2 ^ 10 + phs 0),
   part 3 (mask / 2 ^ 36 % 2 ^ 36 * 2 ^ 10 + phs 4)]

/-- Block k of PAYLOAD: ten codes, and its index among the facet's PAYLOAD blocks (log entry 109). -/
def payloadBlock (codes : List Nat) (k : Nat) : Block :=
  ⟨false, BitVec.ofNat 64 (k % 16 * 2 ^ 60 + ((List.range 10).map (fun i => codes.getD (10 * k + i) 0 % 64 * 64 ^ i)).sum)⟩

/-- The 64-bit blocks of what leaves on a link. -/
def Out.blocks (o : Out) : List Block :=
  match o with
  | .facetStart _ fseq fn span nw mask period phases delay => facetStartBlocks fseq fn span nw mask period phases delay
  | .payload _ _ codes => (List.range ((codes.length + 9) / 10)).map (payloadBlock codes)
  | .facetEnd _ fseq nblk => [controlBlock 0x33 (fseq % 2 ^ 16 * 2 ^ 8 + nblk % 2 ^ 24 * 2 ^ 24)]
  | .control _ kind value =>
    let w := if kind = 3 then 5 else if kind = 2 then 16 else 36
    [controlBlock 0x4B (kind % 16 * 2 ^ 8 + value % 2 ^ w * 2 ^ 12)]
  | .abort _ reason => [controlBlock 0x55 (reason % 16 * 2 ^ 8)]
  | _ => []

/-! SET-UP frames of the sideband (R261, Table 9-9) -/

/-- The low n bits of a number, high bit first. -/
def highFirst (n v : Nat) : List Bool := (List.range n).map (fun i => v.testBit (n - 1 - i))

/-- The bit that makes the number of ones even. -/
def evenParity (bs : List Bool) : Bool := bs.foldl xor false

/-- A SET-UP frame, bit 0 first, as the device sends it; `none` where the driver sends, or the line turns around. Bit 0 is START, and the
device drives the last bit high. -/
def setupBits (wr : Bool) (addr : BitVec 7) (data : BitVec 16) : List (Option Bool) :=
  let head := wr :: highFirst 7 addr.toNat
  let mine := if wr then head ++ highFirst 16 data.toNat else head
  let rest : List (Option Bool) := List.replicate (if wr then 2 else 18) none
  some false :: (mine ++ [evenParity mine]).map some ++ rest ++ [some true]

/-- The driver's part of a read frame, bits 11 to 27: DATA and its parity. -/
def replyBits (data : BitVec 16) : List Bool := highFirst 16 data.toNat ++ [evenParity (highFirst 16 data.toNat)]

/-- What a read frame returned passes its parity (R261). -/
def replyOk (bs : List Bool) : Bool := decide (bs.length = 17) && !evenParity bs

/-- The bits of what leaves on a sideband. -/
def Out.frame (o : Out) : List (Option Bool) :=
  match o with
  | .setupFrame _ wr addr data => setupBits wr addr data
  | _ => []

/-- IDLE, which fills every stream slot with nothing to send (R253). -/
def idleBlock : Block := controlBlock 0x1E 0

/-- An alignment marker of a lane in period AMC, with the lanes in use and the parity of the lane's blocks (R251). -/
def alignBlock (lane amc lmask bip : Nat) : Block :=
  controlBlock 0x78 (lane % 8 * 2 ^ 8 + amc % 32 * 2 ^ 11 + lmask % 256 * 2 ^ 16 + bip % 256 * 2 ^ 24)

end Sys2Proof.Machine
end

