-- ==== Sys2Proof/Safety.lean ====
section
/-! DEFINITION. What counts as a safe run: a step that answers a next state, and the invariant of stored data: every
addressed store of the device (registers, tile cells, shadow planes, seal blocks, Keep words, region 63's device state) is in
its one canonical form, so that equal contents are equal data. -/

namespace Sys2Proof.Machine

/-- A step that goes on: no fault and no refusal. -/
def goesOn (o : Host.Outcome State Fault Refusal) : Bool :=
  match o with
  | .next _ => true
  | .fault _ => false
  | .refused _ => false

/-- A store of images, or of device states, is canonical, and so is every entry of it. -/
def imagesWf (m : Map Image) : Bool := Map.wf (fun _ => {}) m && m.all (fun e => Image.wf e.2)
def devsWf (m : Map Dev) : Bool := Map.wf (fun _ => {}) m && m.all (fun e => Dev.wf e.2)

/-- The canonical form of everything the device stores by address. -/
def Memory.wf (s : State) : Bool :=
  Map.wf regReset s.regs && imagesWf s.arr && imagesWf s.planeA && imagesWf s.planeB &&
  Map.wf (fun _ => 0) s.sealA && Map.wf (fun _ => 0) s.sealB && Dev.wf s.dev && devsWf s.devA && devsWf s.devB &&
  Map.wf keepDefault s.keep.words && Map.wf (fun _ => 0) s.keep.hot

/-- The identification registers fixed at manufacture: ID_VENDOR, ID_PART, ID_REV and ID_SERIAL_0 to ID_SERIAL_3 (R350). -/
def fusedReg (a : Nat) : Bool := decide (a < 3) || decide (4 ≤ a ∧ a < 8)

/-- Every fused register reads as it was fixed at manufacture (R350). -/
def State.fusedKept (s : State) : Prop := ∀ a, fusedReg a = true → s.reg a = regReset a

/-- The invariant of every state a run from reset reaches: canonical stores and fused registers. -/
def State.Inv (s : State) : Prop := Memory.wf s = true ∧ s.fusedKept

/-! Polled heads and tails (R174). -/

/-- The head of a CQ as the last poll gave it. -/
def State.cqHead (s : State) (h : PHost) (q : Ring) : Nat := Map.get (fun _ => 0) (s.host h).heads q.val

/-- A polled head of a CQ lies from the head before it to TAIL. -/
def State.goodHead (s : State) (h : PHost) (q : Ring) (w : Nat) : Prop :=
  w < s.cqSize h.val q.val ∧
  (w + s.cqSize h.val q.val - s.cqHead h q) % s.cqSize h.val q.val ≤
    (s.cqTail h.val q.val + s.cqSize h.val q.val - s.cqHead h q) % s.cqSize h.val q.val

/-- A polled tail of an SQ has not gone back towards HEAD. -/
def State.forwardTail (s : State) (h : PHost) (j : Ring) (w : Nat) : Prop :=
  (s.sqTail h j.val + s.sqSize h.val j.val - s.sqHead h.val j.val) % s.sqSize h.val j.val ≤
    (w + s.sqSize h.val j.val - s.sqHead h.val j.val) % s.sqSize h.val j.val

/-- Every polled head of an ACTIVE CQ, and every polled tail of an ACTIVE SQ, is valid, but those of the rings that p names. -/
def State.goodHeads (s : State) (h : PHost) (b : BitVec 512) (p : Ring → Prop) : Prop :=
  ∀ q : Ring, s.cqActive h.val q.val = true → ¬p q → s.goodHead h q (dbWord b (4 + q.val))
def State.goodTails (s : State) (h : PHost) (b : BitVec 512) (p : Ring → Prop) : Prop :=
  ∀ j : Ring, s.sqState h.val j.val = sqActive → ¬p j → dbWord b j.val < s.sqSize h.val j.val ∧ s.forwardTail h j (dbWord b j.val)

/-- An interrupt message of vector v is sent at once: MSI-X is on, the vector open and the link in its working states (R159, R166). -/
def HostPort.sends (p : HostPort) (v : Nat) : Bool := p.up && !p.d3 && p.master && p.msixOn && !p.vecMasked v && !p.retraining

/-! What the statements name: a descriptor that arrives alone, its completion, and what a completion leaves as it was. -/

/-- A descriptor of SQ j arrives while no other is in progress, and SQ j's CQ is CQ q, ACTIVE with a size that R170 allows. -/
def State.Arrives (s : State) (h : PHost) (j q : Ring) : Prop :=
  s.mayArrive h j = true ∧ s.flights = [] ∧ s.sqCq h.val j.val = q.val ∧ s.cqActive h.val q.val = true ∧
  s.get (Reg.HOST_CQ_CFG_SIZE h.val q.val) ≤ 10

/-- It passes every check of R196. -/
def State.Accepts (s : State) (h : PHost) (j q : Ring) (op : Opcode) (d : Desc) : Prop :=
  s.Arrives h j q ∧ (s.advanceHead h j).descCheck h op d = none

/-- The completion c of the descriptor is written, with the 16 bytes of Table 7-5, at TAIL of CQ q, TAIL moves on, and no descriptor is in
progress (R181); REPLAY is set where the status is VOLLEY_CUT (Table 7-7). -/
def State.Completes (s t : State) (h : PHost) (j q : Ring) (d : Desc) (c : Compl) : Prop :=
  .completion h q (s.cqTail h.val q.val) d.tag c (s.flag (Reg.HOST_CQ_STAT_PHASE h.val q.val)) (decide (c.status = Status.volleyCut)) false j
      (c.entry d.tag (s.flag (Reg.HOST_CQ_STAT_PHASE h.val q.val)) (decide (c.status = Status.volleyCut)) false j) ∈ t.out ∧
  t.cqTail h.val q.val = (s.cqTail h.val q.val + 1) % s.cqSize h.val q.val ∧ t.flights = []

/-- What a completion and the fetches that follow it leave as it was. -/
def State.rest (s : State) : Map Image × Dev × Map Stn × Keep × Ledger × Clock × Pwr × List Nat × Option Store × Nat :=
  (s.arr, s.dev, s.stns, s.keep, s.led, s.rtc, s.pwr, s.clearing, s.store, s.phys63)

/-- A register that a descriptor's accesses, its completion and the fetches that follow it leave as it was: not the status of an SQ
or a CQ, and not SWP_YIELDS, which counts a window that Sweeper yields to an access (R357). -/
def notRing (a : Nat) : Prop :=
  (∀ (h : PHost) (j : Ring), a ≠ (Reg.HOST_SQ_STAT h.val j.val).addr ∧ a ≠ (Reg.HOST_CQ_STAT h.val j.val).addr) ∧
  a ≠ Reg.SWP_YIELDS_COUNT.addr

/-- The flight of a descriptor as it starts. -/
def newFlight (h : PHost) (j : Ring) (op : Opcode) (d : Desc) : Flight := { host := h, sq := j, op := op, d := d, stage := .data }

/-- The state in which a descriptor that arrives alone is first advanced; its data, when firmware serves it, is staged without a
collision (R94). -/
def State.begun (s : State) (h : PHost) (j : Ring) (f : Flight) (ups : List Upset) (pads : PadTraffic := {}) : State :=
  { ((s.advanceHead h j).padWrites pads).flightUpsets f ups with flights := [f] }

/-- The codewords first to first + n - 1 have no bit in error. -/
def State.SoundCws (s : State) (first n : Nat) : Prop := ∀ i, i < n → (s.cwImage (first + i)).eccOf (cwIndex (first + i)) = 0

/-- The flight of a descriptor that has asked for all of its host data. -/
def askedFlight (h : PHost) (j : Ring) (op : Opcode) (d : Desc) : Flight := { newFlight h j op d with asked := Desc.n d }

/-- The host gives all of the descriptor's data at once: its read requests fit in the function's free tags (R155). -/
def State.Delivers (s : State) (f : Flight) (data : HostData) : Prop :=
  (s.advanceHead f.host f.sq).askGoal f = Desc.n f.d ∧ data.bytes.length = Desc.n f.d ∧ data.poison = false ∧ data.fail = false

/-- The state in which a descriptor that reads host memory and arrives alone, its data at once, is first advanced. -/
def State.asked (s : State) (h : PHost) (j : Ring) (f g : Flight) (ups : List Upset) (pads : PadTraffic := {}) : State :=
  let s1 : State := { ((s.advanceHead h j).leaveL1 h).emit (.dataRead h f.d.haddr.toNat (Desc.n f.d)) with flights := [{ f with asked := Desc.n f.d }] }
  { (s1.padWrites pads).flightUpsets f ups with flights := [g] }

/-- The state of a TABLE_LOAD's idle bank once all of its words are in (R230, R231). -/
def loadedTable (d : Desc) (x : Table) : Table :=
  if decide (Desc.a d = 0 ∧ Desc.n d = 4 * tableWords d.tbl) || decide (x.state ≠ .dirty) then { x with state := .modified } else x

/-- The copied cluster with the upsets that the live copy meets. -/
def State.spareUpset (s : State) (c : LiveCopy) (ups : List Upset) : State :=
  (ups.filter (fun u => decide (u.codeword % 8 = c.cluster) && decide (firstCw c.region ≤ u.codeword ∧ u.codeword ≤ lastCw c.region))).foldl
    (fun (t : State) u => t.upsetIn (if c.region = 63 then s.phys63 else c.region) u) s

/-- A live copy that meets no uncorrectable codeword of its cluster and no second condition of R97. -/
def State.SpareClean (s : State) (c : LiveCopy) (ups : List Upset) : Prop :=
  ((s.spareUpset c ups).image (if c.region = 63 then s.phys63 else c.region)).ecc.filter
    (fun e => decide (e.2.val = 2) && decide (e.1 % 8 = c.cluster)) = [] ∧
  (s.dev.copies.find? (fun (d : LiveCopy) => decide (d.region = c.region))).bind (·.again) = none

/-! The part of the device that a command leaves as it is: for each part, the commands that never touch it. -/

/-- The command leaves every word of the Keep array as it is. -/
def keepsKeepArray (c : Instr) : Bool :=
  match c with
  | .vstbyLost | .scriptDelayDone | .waitPgTimeout .. | .shutdownDrop | .pllLockTimeout | .resetNLow | .warmReset ..
  | .drainStoreStart | .clockLoss | .channelOut .. | .firstFailSpill | .volleyWaveStart .. | .storeSealComplete ..
  | .vholdFloor .. | .counterCopyStart | .pageWriteStart | .pageWritePhase | .pageWriteDone .. | .bpUpdate ..
  | .mportWrite .. | .lcWipeStep .. | .registerWrite .. => false
  | _ => true

/-- The command leaves the shadow planes, the seal blocks and the device states held with them as they are. -/
def keepsPlanes (c : Instr) : Bool :=
  match c with
  | .resetNLow | .warmReset .. | .clockLoss | .channelOut .. | .volleyWaveStart .. | .storeSealComplete .. | .vholdFloor ..
  | .checkpointWaveStart | .forwardEnd .. | .partAttr .. | .partRegion .. | .mportWrite .. | .lcWipeStep ..
  | .registerWrite .. => false
  | _ => true

/-- The command leaves every word of the cell array, and the errors of its codewords, as they are. -/
def keepsTiles (c : Instr) : Bool :=
  match c with
  | .wakeStart | .darkToWaking | .scriptDelayDone | .waitPgDone | .restoreWaveDone | .firmwareBooted .. | .openSheetRebuild
  | .resetNLow | .pwrokFall | .warmReset .. | .powerDownRequest .. | .drainImagingLimit | .clockLoss | .refclkLoss ..
  | .sPllUnlock | .channelOut .. | .volleyWaveStart .. | .storeSealStart | .storeSealComplete .. | .checkpointWaveStart
  | .fetchError .. | .hostDataArrival .. | .hostReadTimeout .. | .sqEnable .. | .sqDisable .. | .cqEnable ..
  | .cqDisable .. | .laneBad .. | .linkRetrained .. | .linkDown .. | .perstLow .. | .flr .. | .d0Entry .. | .nop ..
  | .write .. | .read .. | .correctedRewrite .. | .copy .. | .fill .. | .move .. | .moveForward .. | .moveTimeout ..
  | .forwardEnd .. | .word18Write .. | .word18Read .. | .rasterPost .. | .sheetJoinQueue .. | .rasterPostPublish ..
  | .tableLoad .. | .tableSwap .. | .tableSwapReady .. | .ledgerOpen .. | .ledgerStage .. | .ledgerQuery ..
  | .counterRead .. | .keepRead .. | .keepWrite .. | .recordPut .. | .recordGet .. | .rtcRead .. | .rtcSet ..
  | .checkpoint .. | .abort .. | .badOpcode .. | .waitLimitExpiry .. | .partAttr .. | .partRegion .. | .regionClearDone ..
  | .clusterSlow .. | .eccLimit .. | .liveCopyDone .. | .region63RelocDone .. | .disarm .. | .sxsPulse .. | .stall ..
  | .facetEnd .. | .lineFetch .. | .amBoundary .. | .temp .. | .lane .. | .late .. | .sbLost .. | .encoderCount ..
  | .copyingDone .. | .stagePulse .. | .jamPulse | .stageTimeout .. | .pageWriteDone .. | .keepHot .. | .hotRangeSwitch
  | .mportWrite .. | .sweeperTestStep .. | .loadDone | .activationStep .. | .erase .. | .lcApply .. | .lcWipeStep ..
  | .coreWatchdog .. | .registerWrite .. => false
  | _ => true

/-- The command leaves the power state and what belongs to it as it is. -/
def keepsPower (c : Instr) : Bool :=
  match c with
  | .vstbyGood | .vstbyLost | .wakeStart | .darkToWaking | .reload .. | .scriptDelayDone | .waitPgDone | .waitPgTimeout ..
  | .shutdownDrop | .cPllLock | .pllLockTimeout | .sealReadDone | .restoreWaveDone | .clearingDone | .counterRecovery
  | .firmwareBooted .. | .bootTimeout | .openSheetRebuild | .resetNLow | .resetNHigh | .strapSample .. | .strapPhaseEnd
  | .pwrokFall | .pwrokRise | .warmReset .. | .powerDownRequest .. | .drainImagingLimit | .drainStoreStart | .clockLoss
  | .refclkLoss .. | .sPllUnlock | .sPllRelock | .crystalStop | .crystalRestart | .channelOut .. | .channelIn ..
  | .freeChannelArm .. | .volleyWarn .. | .vholdSample .. | .volleyWaveStart .. | .storeSealStart | .storeSealComplete ..
  | .vholdFloor .. | .progressCodeStep | .linkUp .. | .moveForward .. | .forwardEnd .. | .partAttr .. | .partRegion ..
  | .clusterSlow .. | .eccLimit .. | .liveCopyDone .. | .region63RelocDone .. | .disarm .. | .sxsPulse .. | .facetEnd ..
  | .pageWriteStart | .pageWriteDone .. | .keepCmdWrite .. | .clear .. | .flush .. | .keepHot .. | .retentionFail
  | .cellAttach | .vbatReturn | .mportWrite .. | .sweeperTestStep .. | .loadDone | .activationStep .. | .lcWipeStep ..
  | .coreWatchdog .. | .registerWrite .. => false
  | _ => true

/-- The command leaves the mailbox queues as they are. -/
def keepsMailboxes (c : Instr) : Bool :=
  match c with
  | .wakeStart | .darkToWaking | .scriptDelayDone | .waitPgDone | .openSheetRebuild | .refclkLoss .. | .channelOut ..
  | .laneBad .. | .linkDown .. | .perstLow .. | .flr .. | .d0Entry .. | .pageWriteDone .. | .mailboxWrite ..
  | .mailboxPop .. | .mportWrite .. | .mportRead .. | .lcApply .. | .lcWipeStep .. | .registerWrite .. => false
  | _ => true

/-- The command leaves the possession registers as they are. -/
def keepsPossession (c : Instr) : Bool :=
  match c with
  | .wakeStart | .darkToWaking | .scriptDelayDone | .waitPgDone | .channelOut .. | .pageWriteDone .. | .possRead ..
  | .possRelease .. | .possForce .. | .mportWrite .. | .mportRead .. | .lcWipeStep .. | .registerWrite .. => false
  | _ => true

/-- The command leaves the clock, its alarms and its shadow copies as they are. -/
def keepsClock (c : Instr) : Bool :=
  match c with
  | .vstbyGood | .openSheetRebuild | .refclkLoss .. | .channelOut .. | .volleyWaveStart .. | .storeSealStart
  | .storeSealComplete .. | .checkpointWaveStart | .fetchError .. | .hostDataArrival .. | .hostReadTimeout ..
  | .sqEnable .. | .sqDisable .. | .cqEnable .. | .cqDisable .. | .laneBad .. | .linkRetrained .. | .linkDown ..
  | .perstLow .. | .flr .. | .d0Entry .. | .nop .. | .write .. | .read .. | .copy .. | .fill .. | .move ..
  | .moveForward .. | .moveTimeout .. | .forwardEnd .. | .word18Write .. | .word18Read .. | .rasterPost ..
  | .sheetJoinQueue .. | .rasterPostPublish .. | .tableLoad .. | .tableSwap .. | .tableSwapReady .. | .ledgerOpen ..
  | .ledgerStage .. | .ledgerQuery .. | .counterRead .. | .keepRead .. | .keepWrite .. | .recordPut .. | .recordGet ..
  | .rtcRead .. | .rtcSet .. | .checkpoint .. | .abort .. | .badOpcode .. | .waitLimitExpiry .. | .partAttr ..
  | .partRegion .. | .regionClearDone .. | .clusterSlow .. | .eccLimit .. | .liveCopyDone .. | .region63RelocDone ..
  | .disarm .. | .sxsPulse .. | .facetEnd .. | .copyingDone .. | .pageWriteDone .. | .keepHot .. | .hotRangeSwitch
  | .rtcTick | .trimWindow | .alarmWrite .. | .alarmComputeDone .. | .registerSet .. | .timeBlockRead ..
  | .shadowRelease .. | .cellAttach | .mportWrite .. | .mportRead .. | .sweeperTestStep .. | .loadDone | .lcApply ..
  | .lcWipeStep .. | .registerWrite .. => false
  | _ => true

/-- The command leaves the encoders as they are. -/
def keepsEncoders (c : Instr) : Bool :=
  match c with
  | .wakeStart | .darkToWaking | .scriptDelayDone | .waitPgDone | .channelOut .. | .encoderCount .. | .encoderLos ..
  | .pageWriteDone .. | .losClear .. => false
  | _ => true

/-- The command leaves what the M-port keeps between frames as it is. -/
def keepsMport (c : Instr) : Bool :=
  match c with
  | .vstbyGood | .mportNop .. | .mportWrite .. | .mportRead .. | .frameRefused .. => false
  | _ => true

/-- The command leaves what the stations hold beside their registers as it is. -/
def keepsStations (c : Instr) : Bool :=
  match c with
  | .reload .. | .cPllLock | .sealReadDone | .restoreWaveDone | .clearingDone | .counterRecovery | .firmwareBooted ..
  | .bootTimeout | .resetNHigh | .strapSample .. | .strapPhaseEnd | .pwrokRise | .wake .. | .crystalStop | .crystalRestart
  | .channelIn .. | .firstFailSpill | .freeChannelArm .. | .volleyWarn .. | .vholdSample .. | .progressCodeStep | .ckpt ..
  | .checkpointStart | .doorbellPoll .. | .pollDataArrival .. | .pollError .. | .pollFailTimeout .. | .cqTimeExpiry ..
  | .msixUnmask .. | .replayWrite .. | .cutDiscard .. | .retrain .. | .linkUp .. | .perstHigh .. | .d3hotEntry ..
  | .correctedRewrite .. | .noSos .. | .encoderLos .. | .encCountLatch .. | .stagePulse .. | .jamPulse | .stageTimeout ..
  | .counterCopyStart | .ledCntSel .. | .pageWriteStart | .pageWritePhase | .keepRdata .. | .keepWdata ..
  | .keepCmdWrite .. | .clear .. | .flush .. | .bpUpdate .. | .mailboxWrite .. | .mailboxPop .. | .possRead ..
  | .possRelease .. | .possForce .. | .rtcTick | .trimWindow | .alarmWrite .. | .alarmComputeDone .. | .registerSet ..
  | .timeBlockRead .. | .shadowRelease .. | .retentionFail | .cellAttach | .vbatReturn | .mportNop .. | .mportRead ..
  | .frameRefused .. | .shortFrame .. | .tapInstruction .. | .windowRedirect | .windowYield | .swpLogSel .. | .load ..
  | .activate .. | .erase .. | .fwToken .. | .functionReady .. | .losClear .. | .chargerFull .. => true
  | _ => false

/-- The command leaves the pulse queues and the held events of the ledger as they are. -/
def keepsLedger (c : Instr) : Bool :=
  match c with
  | .wakeStart | .darkToWaking | .scriptDelayDone | .waitPgDone | .counterRecovery | .openSheetRebuild | .resetNLow
  | .pwrokFall | .warmReset .. | .powerDownRequest .. | .drainImagingLimit | .clockLoss | .refclkLoss .. | .sPllUnlock
  | .channelOut .. | .volleyWaveStart .. | .storeSealStart | .storeSealComplete .. | .checkpointWaveStart | .fetchError ..
  | .hostDataArrival .. | .hostReadTimeout .. | .sqEnable .. | .sqDisable .. | .cqEnable .. | .cqDisable .. | .laneBad ..
  | .linkRetrained .. | .linkDown .. | .perstLow .. | .flr .. | .d0Entry .. | .nop .. | .write .. | .read .. | .copy ..
  | .fill .. | .move .. | .moveForward .. | .moveTimeout .. | .forwardEnd .. | .word18Write .. | .word18Read ..
  | .rasterPost .. | .sheetJoinQueue .. | .rasterPostPublish .. | .tableLoad .. | .tableSwap .. | .tableSwapReady ..
  | .ledgerOpen .. | .ledgerStage .. | .ledgerQuery .. | .counterRead .. | .keepRead .. | .keepWrite .. | .recordPut ..
  | .recordGet .. | .rtcRead .. | .rtcSet .. | .checkpoint .. | .abort .. | .badOpcode .. | .waitLimitExpiry ..
  | .partAttr .. | .partRegion .. | .regionClearDone .. | .clusterSlow .. | .eccLimit .. | .liveCopyDone ..
  | .region63RelocDone .. | .disarm .. | .sxsPulse .. | .stall .. | .facetEnd .. | .lineFetch .. | .amBoundary ..
  | .temp .. | .lane .. | .late .. | .sbLost .. | .encoderCount .. | .copyingDone .. | .stagePulse .. | .jamPulse
  | .stageTimeout .. | .counterCopyStart | .pageWriteStart | .pageWriteDone .. | .keepHot .. | .hotRangeSwitch
  | .mportWrite .. | .sweeperTestStep .. | .loadDone | .activationStep .. | .lcApply .. | .lcWipeStep .. | .coreWatchdog ..
  | .registerWrite .. => false
  | _ => true

/-- The command leaves a running store and the writes it holds back as they are. -/
def keepsStore (c : Instr) : Bool :=
  match c with
  | .vstbyGood | .vstbyLost | .wakeStart | .darkToWaking | .scriptDelayDone | .waitPgDone | .waitPgTimeout .. | .shutdownDrop
  | .pllLockTimeout | .resetNLow | .warmReset .. | .drainStoreStart | .clockLoss | .channelOut .. | .channelIn ..
  | .volleyWaveStart .. | .storeSealStart | .storeSealComplete .. | .vholdFloor .. | .checkpointStart | .checkpointWaveStart
  | .forwardEnd .. | .partAttr .. | .partRegion .. | .pageWriteDone .. | .mportWrite .. | .lcWipeStep .. | .registerWrite .. => false
  | _ => true

/-- The command leaves the descriptors in progress as they are. -/
def keepsDescriptors (c : Instr) : Bool :=
  match c with
  | .vstbyGood | .vstbyLost | .wakeStart | .darkToWaking | .scriptDelayDone | .waitPgDone | .waitPgTimeout ..
  | .shutdownDrop | .pllLockTimeout | .openSheetRebuild | .resetNLow | .pwrokFall | .warmReset .. | .powerDownRequest ..
  | .drainImagingLimit | .drainStoreStart | .clockLoss | .refclkLoss .. | .sPllUnlock | .channelOut ..
  | .volleyWaveStart .. | .storeSealStart | .storeSealComplete .. | .vholdFloor .. | .checkpointStart
  | .checkpointWaveStart | .fetchError .. | .hostDataArrival .. | .hostReadTimeout .. | .sqEnable .. | .sqDisable ..
  | .cqEnable .. | .cqDisable .. | .laneBad .. | .linkRetrained .. | .linkDown .. | .perstLow .. | .flr .. | .d0Entry ..
  | .nop .. | .write .. | .read .. | .copy .. | .fill .. | .move .. | .moveForward .. | .moveTimeout .. | .forwardEnd ..
  | .word18Write .. | .word18Read .. | .rasterPost .. | .sheetJoinQueue .. | .rasterPostPublish .. | .tableLoad ..
  | .tableSwap .. | .tableSwapReady .. | .ledgerOpen .. | .ledgerStage .. | .ledgerQuery .. | .counterRead ..
  | .keepRead .. | .keepWrite .. | .recordPut .. | .recordGet .. | .rtcRead .. | .rtcSet .. | .checkpoint .. | .abort ..
  | .badOpcode .. | .waitLimitExpiry .. | .partAttr .. | .partRegion .. | .regionClearDone .. | .clusterSlow ..
  | .eccLimit .. | .liveCopyDone .. | .region63RelocDone .. | .disarm .. | .sxsPulse .. | .facetEnd .. | .copyingDone ..
  | .pageWriteStart | .pageWriteDone .. | .keepHot .. | .hotRangeSwitch | .mportWrite .. | .sweeperTestStep .. | .loadDone
  | .activationStep .. | .lcApply .. | .lcWipeStep .. | .coreWatchdog .. | .registerWrite .. => false
  | _ => true

/-- The command leaves the registers below 0x100 as they are. -/
def keepsIdRegisters (c : Instr) : Bool :=
  match c with
  | .vstbyGood | .wakeStart | .darkToWaking | .scriptDelayDone | .waitPgDone | .restoreWaveDone | .openSheetRebuild
  | .strapPhaseEnd | .refclkLoss .. | .channelOut .. | .laneBad .. | .linkDown .. | .perstLow .. | .flr .. | .d0Entry ..
  | .pageWriteDone .. | .mportWrite .. | .mportRead .. | .frameRefused .. | .shortFrame .. | .lcApply .. | .lcWipeStep ..
  | .registerWrite .. => false
  | _ => true

/-- The command leaves the registers 0x100 to 0x1FF as they are. -/
def keepsSupRegisters (c : Instr) : Bool :=
  match c with
  | .vstbyGood | .vstbyLost | .wakeStart | .darkToWaking | .reload .. | .scriptDelayDone | .waitPgDone | .waitPgTimeout ..
  | .shutdownDrop | .pllLockTimeout | .restoreWaveDone | .openSheetRebuild | .resetNLow | .strapPhaseEnd | .pwrokRise
  | .warmReset .. | .wake .. | .drainStoreStart | .clockLoss | .refclkLoss .. | .channelOut .. | .channelIn ..
  | .volleyWarn .. | .vholdSample .. | .volleyWaveStart .. | .storeSealStart | .storeSealComplete .. | .vholdFloor ..
  | .checkpointWaveStart | .fetchError .. | .hostDataArrival .. | .hostReadTimeout .. | .sqEnable .. | .sqDisable ..
  | .cqEnable .. | .cqDisable .. | .laneBad .. | .linkRetrained .. | .linkDown .. | .perstLow .. | .flr .. | .d0Entry ..
  | .nop .. | .write .. | .read .. | .copy .. | .fill .. | .move .. | .moveForward .. | .moveTimeout .. | .forwardEnd ..
  | .word18Write .. | .word18Read .. | .rasterPost .. | .sheetJoinQueue .. | .rasterPostPublish .. | .tableLoad ..
  | .tableSwap .. | .tableSwapReady .. | .ledgerOpen .. | .ledgerStage .. | .ledgerQuery .. | .counterRead ..
  | .keepRead .. | .keepWrite .. | .recordPut .. | .recordGet .. | .rtcRead .. | .rtcSet .. | .checkpoint .. | .abort ..
  | .badOpcode .. | .waitLimitExpiry .. | .partAttr .. | .partRegion .. | .regionClearDone .. | .clusterSlow ..
  | .eccLimit .. | .liveCopyDone .. | .region63RelocDone .. | .disarm .. | .sxsPulse .. | .facetEnd .. | .copyingDone ..
  | .pageWriteDone .. | .keepHot .. | .hotRangeSwitch | .rtcTick | .alarmComputeDone .. | .registerSet .. | .cellAttach
  | .mportWrite .. | .sweeperTestStep .. | .loadDone | .lcApply .. | .lcWipeStep .. | .registerWrite .. | .chargerFull .. => false
  | _ => true

/-- The command leaves the registers 0x200 to 0x27F as they are. -/
def keepsRtcRegisters (c : Instr) : Bool :=
  match c with
  | .vstbyGood | .wakeStart | .darkToWaking | .reload .. | .scriptDelayDone | .waitPgDone | .restoreWaveDone
  | .openSheetRebuild | .resetNLow | .strapPhaseEnd | .warmReset .. | .clockLoss | .refclkLoss .. | .crystalStop
  | .channelOut .. | .volleyWaveStart .. | .storeSealStart | .storeSealComplete .. | .checkpointWaveStart | .fetchError ..
  | .hostDataArrival .. | .hostReadTimeout .. | .sqEnable .. | .sqDisable .. | .cqEnable .. | .cqDisable .. | .laneBad ..
  | .linkRetrained .. | .linkDown .. | .perstLow .. | .flr .. | .d0Entry .. | .nop .. | .write .. | .read .. | .copy ..
  | .fill .. | .move .. | .moveForward .. | .moveTimeout .. | .forwardEnd .. | .word18Write .. | .word18Read ..
  | .rasterPost .. | .sheetJoinQueue .. | .rasterPostPublish .. | .tableLoad .. | .tableSwap .. | .tableSwapReady ..
  | .ledgerOpen .. | .ledgerStage .. | .ledgerQuery .. | .counterRead .. | .keepRead .. | .keepWrite .. | .recordPut ..
  | .recordGet .. | .rtcRead .. | .rtcSet .. | .checkpoint .. | .abort .. | .badOpcode .. | .waitLimitExpiry ..
  | .partAttr .. | .partRegion .. | .regionClearDone .. | .clusterSlow .. | .eccLimit .. | .liveCopyDone ..
  | .region63RelocDone .. | .disarm .. | .sxsPulse .. | .facetEnd .. | .copyingDone .. | .pageWriteDone .. | .keepHot ..
  | .hotRangeSwitch | .rtcTick | .alarmWrite .. | .alarmComputeDone .. | .registerSet .. | .retentionFail | .cellAttach
  | .mportWrite .. | .sweeperTestStep .. | .loadDone | .lcApply .. | .lcWipeStep .. | .registerWrite .. => false
  | _ => true

/-- The command leaves the registers 0x280 to 0x2FF as they are. -/
def keepsKeepRegisters (c : Instr) : Bool :=
  match c with
  | .cPllLock | .sealReadDone | .clearingDone | .counterRecovery | .firmwareBooted .. | .bootTimeout | .resetNHigh
  | .strapSample .. | .pwrokFall | .pwrokRise | .powerDownRequest .. | .wake .. | .drainImagingLimit | .sPllUnlock
  | .sPllRelock | .crystalStop | .crystalRestart | .channelIn .. | .firstFailSpill | .freeChannelArm .. | .volleyWarn ..
  | .vholdSample .. | .progressCodeStep | .ckpt .. | .checkpointStart | .doorbellPoll .. | .pollDataArrival ..
  | .pollError .. | .pollFailTimeout .. | .cqTimeExpiry .. | .msixUnmask .. | .replayWrite .. | .cutDiscard ..
  | .retrain .. | .linkUp .. | .perstHigh .. | .d3hotEntry .. | .aspmL1Entry .. | .correctedRewrite .. | .arm ..
  | .noSos .. | .eosWindowOpen .. | .eosWindowEnd .. | .armingWindowOpen .. | .stall .. | .lineFetch .. | .amBoundary ..
  | .temp .. | .cutoffBlank .. | .dead .. | .lane .. | .late .. | .fault .. | .sbErr .. | .sbLost .. | .go ..
  | .setupFrameDone .. | .train .. | .trainingStepDone .. | .encoderCount .. | .encoderLos .. | .encCountLatch ..
  | .revert .. | .fnAdj .. | .stagePulse .. | .jamPulse | .stageTimeout .. | .counterCopyStart | .ledCntSel ..
  | .pageWritePhase | .mailboxWrite .. | .mailboxPop .. | .possRead .. | .possRelease .. | .possForce .. | .trimWindow
  | .timeBlockRead .. | .shadowRelease .. | .retentionFail | .vbatReturn | .mportNop .. | .frameRefused .. | .shortFrame ..
  | .tapInstruction .. | .sweeperCycleStart | .runNow .. | .windowRedirect | .windowYield | .emitterTestResult ..
  | .swpLogSel .. | .load .. | .activate .. | .activationStep .. | .erase .. | .fwToken .. | .coreWatchdog ..
  | .functionReady .. | .losClear .. | .chargerFull .. => true
  | _ => false

/-- The command leaves the registers 0x300 to 0x3FF as they are. -/
def keepsMailboxRegisters (c : Instr) : Bool :=
  match c with
  | .vstbyGood | .wakeStart | .darkToWaking | .reload .. | .scriptDelayDone | .waitPgDone | .restoreWaveDone
  | .firmwareBooted .. | .openSheetRebuild | .resetNLow | .strapPhaseEnd | .warmReset .. | .clockLoss | .refclkLoss ..
  | .channelOut .. | .volleyWaveStart .. | .storeSealStart | .storeSealComplete .. | .checkpointWaveStart | .fetchError ..
  | .hostDataArrival .. | .hostReadTimeout .. | .sqEnable .. | .sqDisable .. | .cqEnable .. | .cqDisable .. | .laneBad ..
  | .linkRetrained .. | .linkDown .. | .perstLow .. | .flr .. | .d0Entry .. | .nop .. | .write .. | .read .. | .copy ..
  | .fill .. | .move .. | .moveForward .. | .moveTimeout .. | .forwardEnd .. | .word18Write .. | .word18Read ..
  | .rasterPost .. | .sheetJoinQueue .. | .rasterPostPublish .. | .tableLoad .. | .tableSwap .. | .tableSwapReady ..
  | .ledgerOpen .. | .ledgerStage .. | .ledgerQuery .. | .counterRead .. | .keepRead .. | .keepWrite .. | .recordPut ..
  | .recordGet .. | .rtcRead .. | .rtcSet .. | .checkpoint .. | .abort .. | .badOpcode .. | .waitLimitExpiry ..
  | .partAttr .. | .partRegion .. | .regionClearDone .. | .clusterSlow .. | .eccLimit .. | .liveCopyDone ..
  | .region63RelocDone .. | .disarm .. | .sxsPulse .. | .facetEnd .. | .copyingDone .. | .pageWriteDone .. | .keepHot ..
  | .hotRangeSwitch | .mailboxWrite .. | .mailboxPop .. | .rtcTick | .alarmWrite .. | .alarmComputeDone ..
  | .registerSet .. | .mportWrite .. | .mportRead .. | .sweeperTestStep .. | .loadDone | .activationStep .. | .lcApply ..
  | .lcWipeStep .. | .coreWatchdog .. | .registerWrite .. => false
  | _ => true

/-- The command leaves the registers 0x400 to 0x7FF as they are. -/
def keepsHostRegisters (c : Instr) : Bool :=
  match c with
  | .vstbyLost | .waitPgTimeout .. | .shutdownDrop | .cPllLock | .pllLockTimeout | .clearingDone | .bootTimeout
  | .resetNHigh | .strapSample .. | .pwrokRise | .wake .. | .sPllRelock | .crystalStop | .crystalRestart | .channelIn ..
  | .firstFailSpill | .freeChannelArm .. | .volleyWarn .. | .progressCodeStep | .doorbellPoll .. | .cqTimeExpiry ..
  | .msixUnmask .. | .cutDiscard .. | .perstHigh .. | .d3hotEntry .. | .aspmL1Entry .. | .correctedRewrite .. | .noSos ..
  | .eosWindowOpen .. | .eosWindowEnd .. | .armingWindowOpen .. | .cutoffBlank .. | .dead .. | .fault .. | .sbErr ..
  | .go .. | .setupFrameDone .. | .train .. | .trainingStepDone .. | .encoderLos .. | .encCountLatch .. | .revert ..
  | .fnAdj .. | .counterCopyStart | .ledCntSel .. | .pageWriteStart | .pageWritePhase | .keepRdata .. | .keepWdata ..
  | .keepCmdWrite .. | .clear .. | .flush .. | .bpUpdate .. | .possRead .. | .possRelease .. | .possForce .. | .trimWindow
  | .timeBlockRead .. | .shadowRelease .. | .retentionFail | .vbatReturn | .mportNop .. | .frameRefused .. | .shortFrame ..
  | .tapInstruction .. | .sweeperCycleStart | .runNow .. | .windowRedirect | .windowYield | .swpLogSel .. | .load ..
  | .activate .. | .erase .. | .fwToken .. | .functionReady .. | .losClear .. | .chargerFull .. => true
  | _ => false

/-- The command leaves the registers from 0x800 on as they are. -/
def keepsUpperRegisters (c : Instr) : Bool :=
  match c with
  | .cPllLock | .clearingDone | .resetNHigh | .strapSample .. | .pwrokRise | .wake .. | .sPllRelock | .crystalStop
  | .crystalRestart | .channelIn .. | .firstFailSpill | .freeChannelArm .. | .volleyWarn .. | .progressCodeStep | .ckpt ..
  | .doorbellPoll .. | .cqTimeExpiry .. | .msixUnmask .. | .cutDiscard .. | .perstHigh .. | .d3hotEntry ..
  | .correctedRewrite .. | .eosWindowOpen .. | .armingWindowOpen .. | .cutoffBlank .. | .revert .. | .pageWritePhase
  | .keepRdata .. | .keepWdata .. | .bpUpdate .. | .possRead .. | .possRelease .. | .possForce .. | .trimWindow
  | .timeBlockRead .. | .shadowRelease .. | .retentionFail | .cellAttach | .vbatReturn | .mportNop .. | .frameRefused ..
  | .shortFrame .. | .tapInstruction .. | .windowRedirect | .fwToken .. | .functionReady .. | .losClear ..
  | .chargerFull .. => true
  | _ => false

/-- The command leaves firmware, Sweeper's window and the life-cycle wipe as they are. -/
def keepsFirmware (c : Instr) : Bool :=
  match c with
  | .vstbyLost | .reload .. | .waitPgTimeout .. | .shutdownDrop | .cPllLock | .pllLockTimeout | .sealReadDone
  | .clearingDone | .counterRecovery | .bootTimeout | .resetNHigh | .strapSample .. | .pwrokRise | .wake ..
  | .drainStoreStart | .sPllRelock | .crystalStop | .crystalRestart | .channelIn .. | .firstFailSpill | .freeChannelArm ..
  | .volleyWarn .. | .vholdSample .. | .vholdFloor .. | .progressCodeStep | .ckpt .. | .checkpointStart | .doorbellPoll ..
  | .pollDataArrival .. | .pollError .. | .pollFailTimeout .. | .cqTimeExpiry .. | .msixUnmask .. | .replayWrite ..
  | .cutDiscard .. | .retrain .. | .linkUp .. | .perstHigh .. | .d3hotEntry .. | .correctedRewrite .. | .noSos ..
  | .eosWindowOpen .. | .eosWindowEnd .. | .armingWindowOpen .. | .cutoffBlank .. | .dead .. | .fault .. | .sbErr ..
  | .go .. | .setupFrameDone .. | .train .. | .trainingStepDone .. | .encoderLos .. | .encCountLatch .. | .revert ..
  | .fnAdj .. | .counterCopyStart | .ledCntSel .. | .pageWriteStart | .pageWritePhase | .keepRdata .. | .keepWdata ..
  | .keepCmdWrite .. | .clear .. | .flush .. | .bpUpdate .. | .mailboxWrite .. | .mailboxPop .. | .possRead ..
  | .possRelease .. | .possForce .. | .rtcTick | .trimWindow | .alarmWrite .. | .alarmComputeDone .. | .registerSet ..
  | .timeBlockRead .. | .shadowRelease .. | .retentionFail | .cellAttach | .vbatReturn | .mportNop .. | .mportRead ..
  | .frameRefused .. | .shortFrame .. | .swpLogSel .. | .functionReady .. | .losClear .. | .chargerFull .. => true
  | _ => false

/-- The command leaves the device state of region 63 as it is. -/
def keepsDevice (c : Instr) : Bool :=
  match c with
  | .vstbyGood | .vstbyLost | .reload .. | .waitPgTimeout .. | .shutdownDrop | .cPllLock | .pllLockTimeout | .clearingDone
  | .resetNHigh | .strapSample .. | .strapPhaseEnd | .pwrokRise | .wake .. | .sPllRelock | .crystalStop | .crystalRestart
  | .channelIn .. | .firstFailSpill | .freeChannelArm .. | .volleyWarn .. | .vholdSample .. | .vholdFloor ..
  | .progressCodeStep | .ckpt .. | .doorbellPoll .. | .pollDataArrival .. | .pollError .. | .pollFailTimeout ..
  | .cqTimeExpiry .. | .msixUnmask .. | .retrain .. | .linkUp .. | .perstHigh .. | .d3hotEntry .. | .correctedRewrite ..
  | .arm .. | .noSos .. | .eosWindowOpen .. | .eosWindowEnd .. | .armingWindowOpen .. | .cutoffBlank .. | .dead ..
  | .fault .. | .sbErr .. | .go .. | .setupFrameDone .. | .train .. | .trainingStepDone .. | .encoderLos ..
  | .encCountLatch .. | .revert .. | .fnAdj .. | .counterCopyStart | .ledCntSel .. | .pageWriteStart | .pageWritePhase
  | .keepRdata .. | .keepWdata .. | .keepCmdWrite .. | .clear .. | .flush .. | .bpUpdate .. | .mailboxWrite ..
  | .mailboxPop .. | .possRead .. | .possRelease .. | .possForce .. | .rtcTick | .trimWindow | .alarmWrite ..
  | .alarmComputeDone .. | .registerSet .. | .timeBlockRead .. | .shadowRelease .. | .retentionFail | .cellAttach
  | .vbatReturn | .mportNop .. | .mportRead .. | .frameRefused .. | .shortFrame .. | .tapInstruction .. | .windowRedirect
  | .windowYield | .swpLogSel .. | .load .. | .activate .. | .erase .. | .fwToken .. | .functionReady .. | .losClear ..
  | .chargerFull .. => true
  | _ => false

/-- The command leaves the region that stands for region 63 as it is. -/
def keepsPhys63 (c : Instr) : Bool :=
  match c with
  | .sealReadDone | .region63RelocDone .. | .lcWipeStep .. => false
  | _ => true

end Sys2Proof.Machine
end

