-- ==== Sys2Proof/Certificates/Slice0/Obligations.lean ====
section
/-! DEFINITION. The statements about this model. Each statement's text in OBLIGATIONS.json says what it states; a command's
frame is the equalities beside its result here, and the frame statements at the end. `∃ u, exec c s = .next u.settle ∧ …` gives
the command's own effect u, after which `settle` lets the descriptors in progress go on, `cycleGo` ends a cycle of Sweeper whose last unit
has gone, and `watch` follows FAULT_N. -/

section Statements
open Sys2Proof Sys2Proof.Machine

/-- VSTBY good takes OFF to STANDBY and starts the STRAP phase; its loss takes STANDBY or DARK to OFF; a wake takes STANDBY
(hold clear) or DARK to WAKING, and while the Keep is busy the rail script waits (log entry 17) with ID_RESET LAST = 2 and
FAILED = 0. (R44, R61, R145, R350, log entry 17.) -/
def Obligations.PowerStateEntry : Prop :=
  (∀ s : State, s.pwr.st = .off → ∃ t, exec .vstbyGood s = .next t ∧ t.pwr.st = .standby ∧ t.pwr.fromOff = true ∧
    t.pwr.strapOn = true ∧ t.pwr.strapFromOff = true ∧ t.pwr.samp1 = none ∧ t.pwr.samp2 = none ∧ t.mport = {} ∧
    t.fw.tapUmber = .bypass) ∧
  (∀ s : State, s.pwr.st = .standby ∨ s.pwr.st = .dark → ∃ t, exec .vstbyLost s = .next t ∧ t.pwr.st = .off ∧
    t.pwr.strapOn = false ∧ t.pwr.strapPending = false) ∧
  (∀ s : State, s.pwr.st = .standby → s.mayWake = true → s.get Reg.SUP_PWR_HOLD = 0 →
    ∃ t, exec .wakeStart s = .next t ∧ t.pwr.st = .waking) ∧
  (∀ s : State, s.pwr.st = .dark → s.mayWake = true → ∃ t, exec .darkToWaking s = .next t ∧ t.pwr.st = .waking) ∧
  (∀ s : State, s.pwr.st = .dark → s.mayWake = true → s.keepBusy = true →
    ∃ t, exec .darkToWaking s = .next t ∧ t.pwr.scriptWait = some false ∧ t.get Reg.ID_RESET_LAST = 2 ∧
      t.get Reg.SUP_SCRIPT_FAILED = 0)

/-- RELOAD takes the record, and while the sequencer is idle its steps (that a running sequence keeps its steps is the model's
reading, log entry 18); a record gives the twelve SUP_LIM and SUP_CTL registers; DELAY and WAIT_PG steps end; a WAIT_PG timeout
drops every enable, latches the first failure with its side and channel and enters STANDBY with SCRIPT_FAIL; the reverse shutdown
drops the raised enables one by one; the C PLL locks, or its timeout ends the wake with the failure code, no enable raised, no
store, and DARK while VSTBY is good. (R42, R145, R146, R147, R149, R151, Table 1-5 (spec/01), log entry 18.) -/
def Obligations.RailScriptSteps : Prop :=
  (∀ (x : Sender) (s : State) (p : List Nat), s.reaches x 0x128 true = true → isH0 x = true → s.keepBusy = false →
    s.userRecord = some p → s.pwr.seq ≠ .idle →
    exec (.reload x) s = .next (s.loadRecord p).warnFollow) ∧
  (∀ (x : Sender) (s : State) (p : List Nat), s.reaches x 0x128 true = true → isH0 x = true → s.keepBusy = false →
    s.userRecord = some p → s.pwr.seq = .idle →
    exec (.reload x) s = .next (((s.loadRecord p).setSteps ((recordSteps p).map RawStep.step) true).freeFollow.warnFollow)) ∧
  (∀ (s : State) (p : List Nat) (c : Nat), c < 12 →
    (s.loadRecord p).reg (0x100 + c) = BitVec.ofNat 18 (p.getD (1 + c) 0 % 65536) ∧
    (s.loadRecord p).reg (0x110 + c) = BitVec.ofNat 18 (p.getD (13 + c) 0 % 8192 * 32)) ∧
  (∀ (s : State) (x : ScriptStep), s.pwr.scriptWait = none → s.curStep = some x → x.op = .delay → s.pwr.seq = .wake →
    exec .scriptDelayDone s = .next s.nextPos.wakeGo ∧ s.nextPos.pwr.pos = s.pwr.pos + 1) ∧
  (∀ (s : State) (x : ScriptStep), s.pwr.scriptWait = none → s.curStep = some x → x.op = .delay → s.pwr.seq = .shutdown →
    exec .scriptDelayDone s = .next s.nextPos.shutdownGo) ∧
  (∀ (s : State) (x : ScriptStep) (c : Nat), s.pwr.seq = .wake → s.pwr.scriptWait = none → s.curStep = some x →
    x.op = .waitPg c → bit (s.get Reg.SUP_OUT_OUT) c = false →
    ∃ t : State, exec .waitPgDone s = .next t.wakeGo ∧ t.pwr.pos = s.pwr.pos + 1 ∧
      t.pwr.gateArmed = s.pwr.gateArmed ||| BitVec.ofNat 12 (2 ^ c)) ∧
  (∀ (above : Bool) (s : State) (x : ScriptStep) (c : Nat), s.pwr.seq = .wake → s.pwr.scriptWait = none →
    s.curStep = some x → x.op = .waitPg c → c < 12 → s.get Reg.SUP_FIRST_SPILL_PENDING = 0 →
    ∃ u : State, exec (.waitPgTimeout above) s =
        .next ((((u.supEvent Reg.SUP_EVENT_SCRIPT_FAIL).put Reg.SUP_SCRIPT_FAILED 1).put Reg.SUP_SCRIPT_STEP s.pwr.pos).enterStandby true) ∧
      u.get Reg.SUP_EN_LEVEL = 0 ∧ u.get Reg.SUP_FIRST_VALID = 1 ∧ u.get Reg.SUP_FIRST_KIND = 1 ∧
      u.get Reg.SUP_FIRST_SIDE = b2n above ∧ u.get Reg.SUP_FIRST_CHANNEL = c) ∧
  (∀ (s : State) (g k : Nat) (gs : List Nat), s.pwr.seq = .reverse → s.pwr.raised = g :: k :: gs → k ≠ g → g < 8 →
    ∃ t, exec .shutdownDrop s = .next t ∧ t.get (Reg.SUP_EN_LEVEL.at g) = 0 ∧
      t.pwr.raised = (k :: gs).filter (fun x => decide (x ≠ g))) ∧
  (∀ s : State, s.pwr.st = .waking → s.pwr.railDone = true → s.pwr.cpllLocked = false →
    exec .cPllLock s = .next { s with pwr := { s.pwr with refin := true, cpllLocked := true } }) ∧
  (∀ s : State, s.pwr.st = .waking → s.pwr.railDone = true → s.pwr.cpllLocked = false →
    ∃ t, exec .pllLockTimeout s = .next t ∧ t.pwr.result = false ∧ t.pwr.progress = 6#3 ∧ t.store = none ∧
      t.get Reg.SUP_EN_LEVEL = 0 ∧ t.pwr.raised = [] ∧ t.pwr.seq = .idle ∧ (s.vstbyOk = true → t.pwr.st = .dark))

/-- Seals choose the regions to restore, region 63 first; a wave restores at most 16 regions; clears end; counters and COPIES take
the larger of the restored and the Keep value (or stay, with no valid copy), and PAIR follows COPIES; the chosen image boots with
the cores that passed their test, every mailbox channel of the device served by a cluster in service, or its slot is marked BOOTFAIL
after 1.5 ms; with every step done the rebuild enters RUN, or DRAIN when PWROK is low or no cluster is in service. The boot with the
cores that passed, and DRAIN with no cluster, are the model's reading (log entry 68). (R96, R129, R130, R134, R281, R284, R287, R311,
R362, R366, Table 4-6 (spec/04), log entry 68.) -/
def Obligations.ReturnSteps : Prop :=
  (∀ s : State, s.pwr.st = .waking → s.pwr.cpllLocked = true → s.pwr.sealsRead = false → s.fw.wipePending = none →
    ∃ t, exec .sealReadDone s = .next t ∧ t.pwr.sealsRead = true ∧ t.phys63 = phys63Of s.seals ∧
      t.pwr.restoreLeft = (63 :: List.range 63).filter (fun r => (chosen s.seals r).isSome)) ∧
  (∀ s : State, s.pwr.st = .waking → s.pwr.sealsRead = true → s.pwr.wave1Done = false ∨ s.pwr.restoreLeft ≠ [] →
    ∃ t, exec .restoreWaveDone s = .next t ∧ t.pwr.wave1Done = true ∧ t.pwr.restoreLeft = s.pwr.restoreLeft.drop 16) ∧
  (∀ s : State, s.pwr.st = .waking → s.pwr.wave1Done = true →
    exec .clearingDone s = .next { s with pwr := { s.pwr with cleared := true }, clearing := [] }) ∧
  (∀ s : State, s.pwr.st = .waking → s.pwr.wave1Done = true → s.pwr.restoreLeft = [] → s.pwr.counted = false →
    s.newestCopy = none → ∃ t, exec .counterRecovery s = .next t ∧ t.pwr = { s.pwr with counted := true } ∧ t.dev = s.dev ∧
      t.get Reg.LED_KEEP_STAT_PAIR = s.copiesCount / 2 ^ 20 % 64 ∧ ∀ a, a ≠ Reg.LED_KEEP_STAT_PAIR.addr → t.reg a = s.reg a) ∧
  (∀ (s : State) (c : Nat × List Nat), s.pwr.st = .waking → s.pwr.wave1Done = true → s.pwr.restoreLeft = [] →
    s.pwr.counted = false → s.newestCopy = some c → (∀ i, c.2.getD i 0 < 2 ^ 54) → c.1 < 2 ^ 32 →
    ∃ t, exec .counterRecovery s = .next t ∧ t.pwr.counted = true ∧ t.copiesCount = max s.copiesCount c.1 ∧
      t.get Reg.LED_KEEP_STAT_PAIR = max s.copiesCount c.1 / 2 ^ 20 % 64 ∧
      (∀ i, i < 16 → t.counter i = max (s.counter i) (c.2.getD i 0))) ∧
  (∀ (cores : BitVec 16) (s : State), s.pwr.st = .waking → s.pwr.wave1Done = true → s.pwr.booted = false →
    s.bootChoice = goldenImage ∨ s.slotGood s.bootChoice = true →
    ∃ t, exec (.firmwareBooted cores) s = .next t ∧ t.pwr.booted = true ∧ t.get Reg.FW_STAT_RUN = s.bootChoice ∧
      t.get Reg.FW_CORES_ON = cores.toNat ∧ (cores.toNat = 0xFFFF → t.get Reg.FW_STAT_CLU_ON = 15) ∧
      (∀ f, f < 4 → bit (t.get Reg.FW_STAT_CLU_ON) f = decide (3 ≤ popcount 4 (cores.toNat / 16 ^ f))) ∧
      (t.get Reg.FW_STAT_CLU_ON ≠ 0 → ∀ c, c < 5 → bit (t.get Reg.FW_STAT_CLU_ON) (t.get (Reg.MB_STAT_SERVER c)) = true)) ∧
  (∀ s : State, s.pwr.st = .waking → s.pwr.wave1Done = true → s.pwr.booted = false → s.bootChoice < 2 →
    ∃ t, exec .bootTimeout s = .next t ∧ t.slotState s.bootChoice = slotBootFail ∧
      t.pwr.bootTry = s.pwr.bootTry ++ [s.bootChoice]) ∧
  (∀ s : State, s.pwr.st = .waking → s.pwr.wave1Done = true → s.pwr.restoreLeft = [] → s.pwr.cleared = true →
    s.pwr.counted = true → s.pwr.booted = true → (∀ h : PHost, (s.host h).perstN = true) → s.Inv →
    ∃ t, exec .openSheetRebuild s = .next t ∧
      (s.pwr.pwrok = true → s.get Reg.FW_STAT_CLU_ON ≠ 0 → t.pwr.st = .run) ∧
      (s.pwr.pwrok = false → t.pwr.st = .drain ∧ t.pwr.drainBy = some .pwrok) ∧
      (s.pwr.pwrok = true → s.get Reg.FW_STAT_CLU_ON = 0 → t.pwr.st = .drain ∧ t.pwr.drainBy = some .request))

/-- RESET_N low in RUN enters VOLLEY of cause RESET with a STRAP phase pending, in STANDBY or DARK it starts the STRAP phase,
which its rising edge times; the two samples are taken in turn and latched as MP (their AND) and ERR (their XOR); PWROK low
takes RUN to DRAIN and is noted elsewhere, high clears the hold; the key 0x5A3 of H0 is a warm reset without a STRAP phase. That the
fall of RESET_N which starts the Volley is not also noted as a reset seen in it is the model's choice (log entry 104). (R44, R47, R48,
R49, R50, R61, R350, log entry 104.) -/
def Obligations.ResetAndStraps : Prop :=
  (∀ s : State, s.pwr.resetN = true → s.pwr.st = .run → ∃ t, exec .resetNLow s = .next t ∧ t.pwr.st = .volley ∧
    t.pwr.strapPending = true ∧ t.store = some { cause := .reset, fromVin := true, channel := 15 }) ∧
  (∀ s : State, s.pwr.resetN = true → s.pwr.st = .standby ∨ s.pwr.st = .dark → ∃ t, exec .resetNLow s = .next t ∧
    t.pwr.st = s.pwr.st ∧ t.pwr.strapOn = true ∧ t.pwr.strapTimed = false ∧ t.pwr.samp1 = none ∧ t.pwr.samp2 = none) ∧
  (∀ s : State, s.pwr.resetN = false → s.pwr.strapOn = true → ∃ t, exec .resetNHigh s = .next t ∧ t.pwr.resetN = true ∧
    t.pwr.strapTimed = true ∧ t.pwr.samp1 = none ∧ t.pwr.samp2 = none ∧ t.pwr.st = s.pwr.st) ∧
  (∀ (mp : BitVec 8) (s : State), s.pwr.strapOn = true → s.pwr.strapTimed = true → s.pwr.samp1 = none →
    exec (.strapSample mp) s = .next { s with pwr := { s.pwr with samp1 := some mp } }) ∧
  (∀ (a mp : BitVec 8) (s : State), s.pwr.strapOn = true → s.pwr.strapTimed = true → s.pwr.samp1 = some a →
    s.pwr.samp2 = none → exec (.strapSample mp) s = .next { s with pwr := { s.pwr with samp2 := some mp } }) ∧
  (∀ (a b : BitVec 8) (s : State), s.pwr.strapOn = true → s.pwr.strapTimed = true → s.pwr.samp1 = some a →
    s.pwr.samp2 = some b → ∃ t, exec .strapPhaseEnd s = .next t ∧ t.get Reg.ID_STRAP_MP = (a &&& b).toNat ∧
      t.get Reg.ID_STRAP_ERR = (a ^^^ b).toNat ∧ t.pwr.strapOn = false) ∧
  (∀ s : State, s.pwr.pwrok = true → s.pwr.st = .run → s.Inv → ∃ t, exec .pwrokFall s = .next t ∧ t.pwr.st = .drain ∧
    t.pwr.drainBy = some .pwrok) ∧
  (∀ s : State, s.pwr.pwrok = true → s.pwr.st ≠ .run →
    exec .pwrokFall s = .next { s with pwr := { s.pwr with pwrok := false } }) ∧
  (∀ s : State, s.pwr.pwrok = false → s.pwr.st ≠ .off → s.get Reg.ID_LC_STATE ≠ 3 → ∃ t, exec .pwrokRise s = .next t ∧
    t.pwr.pwrok = true ∧ t.get Reg.SUP_PWR_HOLD = 0 ∧
    (s.pwr.st = .drain → s.pwr.drainBy = some .pwrok → t.pwr.drainDark = true)) ∧
  (∀ (x : Sender) (s : State), s.reaches x 0x00A true = true → isH0 x = true → s.pwr.st = .run →
    ∃ t, exec (.warmReset x 0x5A3#12) s = .next t ∧ t.pwr.st = .volley ∧ t.pwr.strapPending = false ∧
      t.store = some { cause := .reset, fromVin := true, channel := 15 })

/-- An allowed power-down request in RUN starts DRAIN; WAKE of H0 clears the hold and nothing else; at the imaging limit every
armed station in a facet is told to disarm; the store step, with every fetched descriptor other than a
CHECKPOINT completed, freezes the store set with cause DRAIN and the next epoch. (R46, R47,
R112, R128.) -/
def Obligations.PowerRequests : Prop :=
  (∀ (x : Sender) (s : State), s.reaches x 0x12B true = true →
    isH0 x = true ∨ hasRight x (s.get Reg.SUP_PWR_RIGHTS) = true → s.pwr.st = .run → s.Inv →
    ∃ t, exec (.powerDownRequest x) s = .next t ∧ t.pwr.st = .drain ∧ t.pwr.drainBy = some .request) ∧
  (∀ (x : Sender) (s : State), s.reaches x 0x12B true = true → isH0 x = true → s.get Reg.ID_LC_STATE ≠ 3 →
    ∃ t, exec (.wake x) s = .next t ∧ t.get Reg.SUP_PWR_HOLD = 0 ∧ (∀ a, a ≠ Reg.SUP_PWR_HOLD.addr → t.reg a = s.reg a) ∧
      t.pwr = s.pwr ∧ t.hosts = s.hosts ∧ t.stns = s.stns ∧ t.flights = s.flights) ∧
  (∀ s : State, s.pwr.st = .drain → s.pwr.drainStep = .imaging →
    (∃ n, n < 8 ∧ s.stnArmed n = true) → (∀ n, n < 8 → s.stnArmed n = true → (s.stn n).facet.isSome = true) →
    ∃ t, exec .drainImagingLimit s = .next t ∧ t.pwr = s.pwr ∧ t.regs = s.regs ∧
      ∀ n, n < 8 → s.stnArmed n = true → (t.stn n).disarming = true) ∧
  (∀ s : State, s.pwr.st = .drain → s.pwr.drainStep = .ready → s.store = none →
    (∀ f, f ∈ s.flights → f.op = .checkpoint ∨ f.compl.isSome = true) →
    s.noCheckpoint = false → s.get Reg.VOL_RETURN_NO_EPOCH = 0 → s.get Reg.ID_LC_WIPING = 0 →
    ∃ (t : State) (u : Store), exec .drainStoreStart s = .next t ∧ t.store = some u ∧ u.cause = .drain ∧ u.frozen = true ∧
      u.regions = s.storeSet ∧ u.epoch = s.volNext ∧ t.pwr.drainStep = .storing ∧ t.pwr.st = .drain)

/-- Loss of REFIN or C-PLL lock in RUN enters VOLLEY of cause CLOCK on the backup oscillator, and during DRAIN's store changes
only the clock; loss of a REFCLK takes down the links of its port alone; S-PLL unlock ends the facet, stalls the armed station
and sets STALL; relock opens the arming window; the crystal's stop sets OSF and STOP, its restart clears nothing. That the unlock
stalls at once and the relock opens the arming window is the model's reading (log entry 46). (R42, R236, R251, R326, Table 1-5
(spec/01), log entry 46.) -/
def Obligations.ClockFailures : Prop :=
  (∀ s : State, s.pwr.st = .run → ∃ t, exec .clockLoss s = .next t ∧ t.pwr.st = .volley ∧ t.pwr.backup = true ∧
    t.store = some { cause := .clock, fromVin := true, channel := 15 }) ∧
  (∀ s : State, s.pwr.st = .drain → s.pwr.drainStep = .storing → s.store.isSome = true →
    exec .clockLoss s = .next { s with pwr := { s.pwr with refin := false, backup := true } }) ∧
  (∀ (port : Fin 2) (s : State), s.serving = true → (∀ h, h ∈ hostsOfPort port → (s.host h).up = false) →
    ∃ t, exec (.refclkLoss port) s = .next t ∧ t.hosts = s.hosts ∧ t.regs = s.regs ∧ t.stns = s.stns ∧ t.arr = s.arr ∧
      t.pwr.refclk0 = (s.pwr.refclk0 && decide (port.val = 1)) ∧ t.pwr.refclk1 = (s.pwr.refclk1 && decide (port.val = 0))) ∧
  (∀ (port : Fin 2) (h : PHost) (s : State), s.serving = true →
    (hostsOfPort port).filter (fun k => s.hostExists k && (s.host k).up) = [h] →
    ∃ u : State, exec (.refclkLoss port) s = .next (u.functionReset h true).cycleGo ∧ (u.host h).up = false ∧ (u.host h).ready = false ∧
      u.get (Reg.HOST_LINK_SPEED h.val) = 0 ∧ u.get (Reg.HOST_LINK_WIDTH h.val) = 0 ∧ u.stns = s.stns ∧ u.arr = s.arr) ∧
  (∀ (n : StnId) (s : State), s.pwr.st = .run → s.pwr.spll = true → s.armedStations = [n] → (s.stn n.val).disarming = false → s.Inv →
    ∃ t, exec .sPllUnlock s = .next t ∧ t.pwr.spll = false ∧ t.get (Reg.STN_STATUS_STALLED n.val) = 1 ∧
      t.get (Reg.STN_EVENT_STALL n.val) = 1 ∧ (t.stn n.val).facet = none ∧ (t.stn n.val).win = .closed) ∧
  (∀ (s : State), s.pwr.spll = false → ∃ t, exec .sPllRelock s = .next t ∧ t.pwr.spll = true ∧ t.regs = s.regs ∧
    ∀ n : StnId, t.stn n.val = if s.stnArmed n.val then { s.stn n.val with win := .arming } else s.stn n.val) ∧
  (∀ s : State, s.pwr.retained = true → ∃ t, exec .crystalStop s = .next t ∧ t.pwr.xtal = false ∧ t.get Reg.RTC_STATUS_OSF = 1 ∧
    t.get Reg.RTC_STATUS_STOP = 1 ∧ (s.get Reg.RTC_STATUS_OSF = 0 → t.get Reg.RTC_EVENT_OSF = 1)) ∧
  (∀ s : State, exec .crystalRestart s = .next { s with pwr := { s.pwr with xtal := true } })

/-- OUT follows the channel; an armed channel, on either side, with action EVENT sets its event bit alone, with FAULT it is also
captured in the first-fail latch, or sets OVERRUN, and with POWERFAIL in RUN it enters VOLLEY of cause POWER with its number, also
beside a channel of another action in the same cycle; channel 8 takes STANDBY and DARK to OFF; the spill starts a page write of
page 66; with channel 8 back in its window a clock that was held counts on; a free channel arms; the WARN crossing sets its event;
a VHOLD sample is shown; FULL follows the charger. (R44, R138, R139, R140, R141, R144, R151, R152, R153, R326, Table 5-10 (spec/05).) -/
def Obligations.SupervisionEvents : Prop :=
  (∀ (c : Fin 12) (high : Bool) (s : State), s.pwr.st ≠ .off → bit (s.get Reg.SUP_OUT_OUT) c.val = false → c.val ≠ 8 →
    s.armed c.val = false ∨ s.action c.val high = 0 → exec (.channelOut c high) s = .next (s.put (Reg.SUP_OUT_OUT.at c.val) 1)) ∧
  (∀ (c : Fin 12) (high : Bool) (s : State), s.pwr.st ≠ .off → bit (s.get Reg.SUP_OUT_OUT) c.val = false → c.val ≠ 8 →
    s.armed c.val = true → s.action c.val high = 1 → ∃ t, exec (.channelOut c high) s = .next t ∧
      t.get (Reg.SUP_OUT_OUT.at c.val) = 1 ∧ t.get (Reg.SUP_EVENT_CH.at c.val) = 1 ∧ t.pwr.st = s.pwr.st ∧
      (∀ a, a ≠ Reg.SUP_OUT_OUT.addr → a ≠ Reg.SUP_EVENT_CH.addr → t.reg a = s.reg a)) ∧
  (∀ (c : Fin 12) (high : Bool) (s : State), s.pwr.st ≠ .off → bit (s.get Reg.SUP_OUT_OUT) c.val = false → c.val ≠ 8 →
    s.armed c.val = true → s.action c.val high = 2 → ∃ t, exec (.channelOut c high) s = .next t ∧
      t.get (Reg.SUP_OUT_OUT.at c.val) = 1 ∧ t.get (Reg.SUP_EVENT_CH.at c.val) = 1 ∧ bit t.pwr.faulted.toNat c.val = true ∧
      t.pwr.st = s.pwr.st ∧ t.store = s.store ∧
      (s.get Reg.SUP_FIRST_SPILL_PENDING = 0 → t.get Reg.SUP_FIRST_VALID = 1 ∧ t.get Reg.SUP_FIRST_KIND = 0 ∧
        t.get Reg.SUP_FIRST_SIDE = b2n high ∧ t.get Reg.SUP_FIRST_CHANNEL = c.val ∧ t.get Reg.SUP_FIRST_STATE = s.pwr.st.code ∧
        t.get Reg.SUP_FIRST_SPILL_PENDING = 1 ∧ t.get36 Reg.SUP_FIRST_T0 Reg.SUP_FIRST_T1 = s.stamp) ∧
      (s.get Reg.SUP_FIRST_SPILL_PENDING = 1 → t.get Reg.SUP_EVENT_OVERRUN = 1 ∧ t.reg Reg.SUP_FIRST_VALID.addr = s.reg Reg.SUP_FIRST_VALID.addr)) ∧
  (∀ (c : Fin 12) (high : Bool) (s : State), s.pwr.st = .run → bit (s.get Reg.SUP_OUT_OUT) c.val = false → s.armed c.val = true →
    s.action c.val high = 3 → s.pwr.scriptWait ≠ some false → ∃ t, exec (.channelOut c high) s = .next t ∧ t.pwr.st = .volley ∧ t.pwr.powerFail = true ∧
      t.store = some { cause := .power, fromVin := false, channel := c.val }) ∧
  (∀ (c d : Fin 12) (high above : Bool) (s : State), c ≠ d → s.pwr.st = .run → bit (s.get Reg.SUP_OUT_OUT) c.val = false →
    bit (s.get Reg.SUP_OUT_OUT) d.val = false → s.armed c.val = true → s.armed d.val = true → s.action c.val high = 3 →
    s.action d.val above ≠ 3 → s.pwr.scriptWait ≠ some false → ∃ t, exec (.channelOut d above [(c, high)]) s = .next t ∧ t.pwr.st = .volley ∧
      t.store = some { cause := .power, fromVin := false, channel := c.val }) ∧
  (∀ (high : Bool) (s : State), s.pwr.st = .standby ∨ s.pwr.st = .dark → bit (s.get Reg.SUP_OUT_OUT) 8 = false →
    ∃ t, exec (.channelOut 8 high) s = .next t ∧ t.pwr.st = .off ∧ t.pwr.strapOn = false ∧ t.keep.run = none) ∧
  (∀ (c : Fin 12) (s : State), s.pwr.st ≠ .off → bit (s.get Reg.SUP_OUT_OUT) c.val = true → s.store = none → c.val ≠ 8 →
    exec (.channelIn c) s = .next (s.put (Reg.SUP_OUT_OUT.at c.val) 0)) ∧
  (∀ (s : State), s.pwr.st ≠ .off → bit (s.get Reg.SUP_OUT_OUT) 8 = true →
    ∃ u, exec (.channelIn 8) s = .next u ∧ u.regs = (s.put (Reg.SUP_OUT_OUT.at 8) 0).regs ∧ u.pwr = { s.pwr with clockHeld := false } ∧
      u.rtc = s.rtc ∧ u.store = s.store) ∧
  (∀ (s : State) (t : Store), s.pwr.st = .volley → bit (s.get Reg.SUP_OUT_OUT) 0 = true → s.store = some t →
    ∃ u, exec (.channelIn 0) s = .next u ∧ u.get (Reg.SUP_OUT_OUT.at 0) = 0 ∧ u.store = some { t with vinBack := true } ∧ u.pwr = s.pwr) ∧
  (∀ (c : Fin 12) (s : State) (t : Store), s.pwr.st ≠ .off → bit (s.get Reg.SUP_OUT_OUT) c.val = true → s.store = some t →
    ∃ u, exec (.channelIn c) s = .next u ∧ u.regs = (s.put (Reg.SUP_OUT_OUT.at c.val) 0).regs ∧ (c.val ≠ 8 → u.pwr = s.pwr)) ∧
  (∀ s : State, s.spillReady = true → ∃ t, exec .firstFailSpill s = .next t ∧ t.keepBusy = true ∧
    (∀ r, t.keep.run = some r → r.writer = .spill ∧ r.page = 66 ∧ r.phase = 1) ∧ t.regs = s.regs) ∧
  (∀ (c : Fin 12) (s : State), s.serving = true → bit (freeMask s.pwr.steps) (s.get (Reg.SUP_CTL_GATE c.val)) = true →
    s.enHigh (s.get (Reg.SUP_CTL_GATE c.val)) = true → bit (s.get Reg.SUP_OUT_OUT) c.val = false →
    ∃ t, exec (.freeChannelArm c) s = .next t ∧ t.pwr.gateArmed = s.pwr.gateArmed ||| BitVec.ofNat 12 (2 ^ c.val) ∧ t.regs = s.regs) ∧
  (∀ s : State, s.serving = true → s.pwr.warnN = true → ∃ t, exec (.volleyWarn true) s = .next t ∧ t.pwr.vinWarn = true ∧
    t.pwr.warnN = false ∧ t.get Reg.SUP_EVENT_WARN = 1) ∧
  (∀ s : State, s.serving = true → s.flag Reg.SUP_WARN_READY_WARN = false ∨ s.ready = true →
    ∃ t, exec (.volleyWarn false) s = .next t ∧ t.pwr.vinWarn = false ∧ t.pwr.warnN = true ∧ t.regs = s.regs) ∧
  (∀ (b : Bool) (s : State), s.pwr.st ≠ .off → s.serving = false →
    exec (.volleyWarn b) s = .next { s with pwr := { s.pwr with vinWarn := b } }) ∧
  (∀ (code : BitVec 10) (s : State), s.pwr.st ≠ .off → ∃ t, exec (.vholdSample code) s = .next t ∧
    t.get Reg.VOL_VHOLD_VHOLD = code.toNat ∧ t.pwr.st = s.pwr.st) ∧
  (∀ s : State, s.pwr.st ≠ .off → s.vinGood = true → s.store = none → exec (.chargerFull true) s = .next (s.put Reg.SUP_CHG_FULL 1)) ∧
  (∀ s : State, s.pwr.st ≠ .off → exec (.chargerFull false) s = .next (s.put Reg.SUP_CHG_FULL 0))

/-- A Volley wave starts while VHOLD is at or above its threshold (or on VIN), else the store ends as CUT in DARK with VOL_LAST;
the seal follows the last wave; its completion ends the store with result COMPLETE; VHOLD at the floor ends it as CUT, TORN or
SEAL_CUT; CKPT sets its bit; a checkpoint freezes the store set with the next epoch and runs its waves without leaving the power
state. (R112, R113, R114, R121, R123, R124, R125, R128, R66.) -/
def Obligations.StoreSteps : Prop :=
  (∀ (v : BitVec 10) (s : State) (t : Store), s.pwr.st = .volley → s.store = some t → t.frozen = true → t.regions ≠ [] →
    t.wave < t.waves → t.fromVin = true ∨ t.thresholds.getD t.wave 0 ≤ v.toNat → s.Inv →
    ∃ u, exec (.volleyWaveStart v) s = .next u ∧ u.store = some (s.atWave t (t.wave + 1)) ∧ u.pwr.st = .volley) ∧
  (∀ (s : State) (t : Store) (k : Nat), k ≠ 1 ∨ t.phys63 = s.phys63 → s.atWave t k = { t with wave := k }) ∧
  (∀ (v : BitVec 10) (s : State) (t : Store), s.pwr.st = .volley → s.store = some t → t.frozen = true → t.regions ≠ [] →
    t.wave < t.waves → t.waves ≤ 8 → t.channel < 16 → t.fromVin = false → v.toNat < t.thresholds.getD t.wave 0 → s.vstbyOk = true → s.Inv →
    ∃ u, exec (.volleyWaveStart v) s = .next u ∧ u.store = none ∧ u.pwr.st = .dark ∧ u.get Reg.VOL_LAST_CAUSE = t.cause.code ∧
      u.get Reg.VOL_LAST_RESULT = 1 ∧ u.get Reg.VOL_LAST_WAVES = t.wave ∧ u.get Reg.VOL_LAST_CHANNEL = t.channel ∧
      u.get Reg.VOL_LAST_VHOLD_VHOLD_END = v.toNat) ∧
  (∀ (s : State) (t : Store), s.store = some t → t.frozen = true → t.regions ≠ [] → t.wave = t.waves →
    ∃ u, exec .storeSealStart s = .next u ∧ u.store = some { t with wave := t.waves + 1 }) ∧
  (∀ (v : BitVec 10) (s : State) (t : Store), s.pwr.st = .volley → s.store = some t → t.frozen = true → t.regions ≠ [] →
    t.wave = t.waves + 1 → t.waves ≤ 8 → t.channel < 16 → s.vstbyOk = true → s.Inv →
    ∃ u, exec (.storeSealComplete v) s = .next u ∧ u.store = none ∧ u.pwr.st = .dark ∧ u.get Reg.VOL_LAST_CAUSE = t.cause.code ∧
      u.get Reg.VOL_LAST_RESULT = 0 ∧ u.get Reg.VOL_LAST_WAVES = t.waves ∧ u.get Reg.VOL_LAST_VHOLD_VHOLD_END = v.toNat) ∧
  (∀ (e : Nat) (s : State) (t : Store), s.pwr.st = .volley → s.store = some t → t.fromVin = false → t.wave ≤ 9 → t.waves ≤ 8 →
    t.channel < 16 → s.vstbyOk = true → s.Inv → ∃ u, exec (.vholdFloor e) s = .next u ∧ u.store = none ∧ u.pwr.st = .dark ∧
      u.get Reg.VOL_LAST_RESULT = (if t.wave = 0 then 1 else if t.wave ≤ t.waves then 2 else 3)) ∧
  (∀ s : State, s.pwr.st = .dark → s.store = none →
    exec .progressCodeStep s = .next (s.setCode (if s.pwr.progress = 6#3 then 6#3 else nextCode s.pwr.progress))) ∧
  (∀ (x : Sender) (s : State), s.reaches x 0x600 true = true → isH0 x = true → s.noCheckpoint = false →
    exec (.ckpt x) s = .next (s.put Reg.VOL_CTL_CKPT 1)) ∧
  (∀ s : State, s.pwr.st = .run → s.store = none → s.ckptStarts = true → s.noCheckpoint = false →
    s.get Reg.VOL_RETURN_NO_EPOCH = 0 → s.get Reg.ID_LC_WIPING = 0 →
    ∃ (u : State) (v : Store), exec .checkpointStart s = .next u ∧ u.store = some v ∧ v.cause = .checkpoint ∧ v.frozen = true ∧
      v.regions = s.storeSet ∧ v.epoch = s.volNext ∧ u.pwr = s.pwr) ∧
  (∀ (s : State) (t : Store), s.serving = true → s.store = some t → t.frozen = true → t.wave < t.waves → s.Inv →
    ∃ u, exec .checkpointWaveStart s = .next u ∧ u.store = some (s.atWave t (t.wave + 1)) ∧ u.pwr = s.pwr)

/-- A poll is issued; its data moves every valid head and tail of the host's ACTIVE rings and the fast mode; an invalid head stops
its CQ with CODE 3, an invalid tail its SQ with CODE 1 or 2, beside valid ones; a poll error sets DB_ERR once; a lasting failure
stops every ACTIVE SQ with CODE 5; a failed fetch stops its SQ with CODE 4; a read timeout ends its descriptor with TIMEOUT; data
that arrives is taken, as far as it was asked for, and where its staging collides the address is noted and the rest is taken
all the same; a CQ's time sends its vector with its address and data; unmasking sends a pending vector; a message that falls due
with the one before it merges (when two do is free, log entry 39). (R94, R161, R166, R174, R175, R182, R183, R189, R191, R396, log
entry 39.) -/
def Obligations.PollsAndData : Prop :=
  (∀ (h : PHost) (idle : Nat) (s : State), s.mayPoll h = true → ∃ t, exec (.doorbellPoll h idle) s = .next t ∧
    t.out = s.out ++ [.pollRead h] ∧ (t.host h).polls = (s.host h).polls + 1 ∧ (t.host h).l1 = false ∧ t.regs = s.regs) ∧
  (∀ (h : PHost) (b : BitVec 512) (s : State), s.linkOpen h = true → 0 < (s.host h).polls →
    s.goodHeads h b (fun _ => False) → s.goodTails h b (fun _ => False) →
    ∃ u : State, exec (.pollDataArrival h b) s = .next (u.issueFetches h) ∧
      (∀ q : Ring, u.cqHead h q = if s.cqActive h.val q.val then dbWord b (4 + q.val) else s.cqHead h q) ∧
      (∀ j : Ring, u.sqTail h j.val = if s.sqState h.val j.val = sqActive then dbWord b j.val else s.sqTail h j.val) ∧
      (u.host h).fast = bit (dbWord b 8) 0 ∧ (u.host h).failing = false ∧ (u.host h).polls = (s.host h).polls - 1 ∧ u.regs = s.regs) ∧
  (∀ (h : PHost) (b : BitVec 512) (q : Ring) (s : State), s.linkOpen h = true → 0 < (s.host h).polls → s.cqActive h.val q.val = true →
    ¬s.goodHead h q (dbWord b (4 + q.val)) → s.goodHeads h b (fun p => p = q) → s.goodTails h b (fun _ => False) →
    ∃ u : State, exec (.pollDataArrival h b) s = .next (u.issueFetches h) ∧ u.get (Reg.HOST_CQ_STAT_STOPPED h.val q.val) = 1 ∧
      u.get (Reg.HOST_ERR_CODE h.val) = 3 ∧ u.get (Reg.HOST_ERR_CQ h.val) = 1 ∧ u.get (Reg.HOST_ERR_RING h.val) = q.val ∧
      u.get (Reg.HOST_EVENT_CQ_STOP h.val) = 1 ∧ u.cqHead h q = s.cqHead h q) ∧
  (∀ (h : PHost) (b : BitVec 512) (j : Ring) (s : State), s.linkOpen h = true → 0 < (s.host h).polls → s.sqState h.val j.val = sqActive →
    ¬(dbWord b j.val < s.sqSize h.val j.val ∧ s.forwardTail h j (dbWord b j.val)) → s.goodHeads h b (fun _ => False) →
    s.goodTails h b (fun k => k = j) →
    ∃ u : State, exec (.pollDataArrival h b) s = .next (u.issueFetches h) ∧ u.sqState h.val j.val = sqStopped ∧
      u.get (Reg.HOST_ERR_CODE h.val) = (if dbWord b j.val < s.sqSize h.val j.val then 2 else 1) ∧ u.get (Reg.HOST_ERR_CQ h.val) = 0 ∧
      u.get (Reg.HOST_ERR_RING h.val) = j.val ∧ u.get (Reg.HOST_EVENT_SQ_STOP h.val) = 1 ∧ u.sqTail h j.val = s.sqTail h j.val) ∧
  (∀ (h : PHost) (why : ReadFail) (s : State), s.serving = true → 0 < (s.host h).polls →
    ∃ t, exec (.pollError h why) s = .next t ∧ (t.host h).failing = true ∧ (t.host h).polls = (s.host h).polls - 1 ∧
      ((s.host h).failing = false → t.get (Reg.HOST_EVENT_DB_ERR h.val) = 1) ∧ ((s.host h).failing = true → t.regs = s.regs)) ∧
  (∀ (h : PHost) (s : State), s.serving = true → (s.host h).failing = true → ∃ t, exec (.pollFailTimeout h) s = .next t ∧
    (∀ j : Ring, t.sqState h.val j.val = if s.sqState h.val j.val = sqActive then sqStopped else s.sqState h.val j.val) ∧
    ((∃ j : Ring, s.sqState h.val j.val = sqActive) → t.get (Reg.HOST_ERR_CODE h.val) = 5 ∧ t.get (Reg.HOST_EVENT_SQ_STOP h.val) = 1)) ∧
  (∀ (h : PHost) (j : Ring) (why : ReadFail) (s : State), s.serving = true → 0 < s.sqFetching h j.val →
    ∃ u : State, exec (.fetchError h j why) s = .next u.settle ∧ u.sqState h.val j.val = sqStopped ∧ u.get (Reg.HOST_ERR_CODE h.val) = 4 ∧
      u.get (Reg.HOST_ERR_RING h.val) = j.val ∧ u.get (Reg.HOST_EVENT_SQ_STOP h.val) = 1 ∧ u.sqHead h.val j.val = s.sqHead h.val j.val) ∧
  (∀ (h : PHost) (j : Ring) (tag : BitVec 16) (lost : Bool) (s : State) (i : Nat) (f : Flight), s.serving = true →
    s.findFlight (fun f => decide (f.host = h ∧ f.sq = j ∧ f.d.tag = tag) && f.awaits) = some (i, f) →
    ∃ u : State, exec (.hostReadTimeout h j tag lost) s = .next u.settle ∧ u.flights = s.flights.set i { f with ending := some Status.timeout } ∧
      u.rest = s.rest ∧ u.regs = s.regs) ∧
  (∀ (h : PHost) (j : Ring) (tag : BitVec 16) (data : HostData) (ups : List Upset) (p : PadTraffic) (s : State) (i : Nat) (f : Flight),
    s.linkOpen h = true → s.findFlight (fun f => decide (f.host = h ∧ f.sq = j ∧ f.d.tag = tag) && f.awaits) = some (i, f) →
    data.poison = false → data.fail = false → staged f.op = false ∨ padLost p = none →
    exec (.hostDataArrival h j tag data ups p) s =
      .next (((if staged f.op then s.padWrites p else s).flightUpsets f ups).setFlight i
        { f with buf := f.buf ++ data.bytes.take (min f.asked (Desc.n f.d) - (f.moved + f.buf.length)) }).settle) ∧
  (∀ (h : PHost) (j : Ring) (tag : BitVec 16) (data : HostData) (ups : List Upset) (p : PadTraffic) (s : State) (i : Nat) (f : Flight) (a : Nat),
    s.linkOpen h = true → s.findFlight (fun f => decide (f.host = h ∧ f.sq = j ∧ f.d.tag = tag) && f.awaits) = some (i, f) →
    data.poison = false → data.fail = false → staged f.op = true → padLost p = some a →
    ∃ u : State, exec (.hostDataArrival h j tag data ups p) s = .next u.settle ∧ u.get Reg.ARR_EVENT_WRITE_LOST = 1 ∧
      u.flights[i]? = some
        { f with lost := some (f.lost.getD a), buf := f.buf ++ data.bytes.take (min f.asked (Desc.n f.d) - (f.moved + f.buf.length)) }) ∧
  (∀ (h : PHost) (j : Ring) (tag : BitVec 16) (data : HostData) (ups : List Upset) (p : PadTraffic) (s : State) (i : Nat) (f : Flight),
    s.linkOpen h = true → s.findFlight (fun f => decide (f.host = h ∧ f.sq = j ∧ f.d.tag = tag) && f.awaits) = some (i, f) →
    data.poison = true ∨ data.fail = true →
    ∃ u : State, exec (.hostDataArrival h j tag data ups p) s = .next u.settle ∧ ∃ g, u.flights[i]? = some g ∧ g.ending = some Status.hostAbort) ∧
  (∀ (h : PHost) (j : Ring) (s : State) (v : Nat), s.linkOpen h = true → s.flag (Reg.HOST_CQ_CFG_IEN h.val j.val) = true →
    0 < Map.get (fun _ => 0) (s.host h).unsent j.val → v = s.get (Reg.HOST_CQ_CFG_VECTOR h.val j.val) → (s.host h).sends v = true →
    ∃ t, exec (.cqTimeExpiry h j) s = .next t ∧ Map.get (fun _ => 0) (t.host h).unsent j.val = 0 ∧ t.regs = s.regs ∧
      (s.msixMerges h v s.stamp = false →
        t.out = s.out ++ [.msix h v ((s.host h).vecAddr v) ((s.host h).vecDword v 2)] ∧ (t.host h).l1 = false) ∧
      (s.msixMerges h v s.stamp = true → t.out = s.out)) ∧
  (∀ (h : PHost) (v : BitVec 5) (s : State), s.barLive h = true → bit (s.host h).pba.toNat v.toNat = true → (s.host h).cfgBit cfgMsixCtl 30 = false →
    (s.host h).master = true → (s.host h).msixOn = true → (s.host h).retraining = false →
    ∃ t, exec (.msixUnmask h v) s = .next t ∧
      t.out = s.out ++ (if s.msixMerges h v.toNat s.stamp then [] else [.msix h v.toNat ((s.host h).vecAddr v.toNat) ((s.host h).vecDword v.toNat 2)]) ∧
      (t.host h).pba = (s.host h).pba &&& ~~~(BitVec.ofNat 32 (2 ^ v.toNat)) ∧
      (t.host h).masked = (s.host h).masked &&& ~~~(BitVec.ofNat 32 (2 ^ v.toNat)))

/-- An allowed enable of an SQ makes it ACTIVE with head and tail 0; one with SIZE above 10 is refused with CODE 7 and leaves it
DISABLED; a disable ends in DISABLED or DRAINING; a CQ enable starts at PHASE 1 and takes over the replay; its disable gives the
replay up; replay goes on while the CQ has slots; CUT_DISCARD drops the host's records. (R172, R181, R187, R188.) -/
def Obligations.RingSetup : Prop :=
  (∀ (x : Sender) (h : PHost) (j : Ring) (v : Word) (s : State), s.reaches x (Reg.HOST_SQ_CFG h.val j.val).addr true = true →
    mayRing x h = true → s.hostExists h = true → s.sqState h.val j.val = sqDisabled → v.getLsbD 17 = true →
    bits (v &&& 0x3FF00#18).toNat 16 13 ≤ 10 → s.sqRangeOk h.val j.val (bits (v &&& 0x3FF00#18).toNat 16 13) = true → s.doorbellOk h.val = true →
    s.cqActive h.val (bits (v &&& 0x3FF00#18).toNat 12 11) = true →
    ∃ u : State, exec (.sqEnable x h j v) s = .next u.settle ∧ u.reg (Reg.HOST_SQ_CFG h.val j.val).addr = v &&& 0x3FF00#18 ∧
      u.sqState h.val j.val = sqActive ∧ u.sqHead h.val j.val = 0 ∧ u.sqTail h j.val = 0 ∧ u.sqFetching h j.val = 0) ∧
  (∀ (x : Sender) (h : PHost) (j : Ring) (v : Word) (s : State), s.reaches x (Reg.HOST_SQ_CFG h.val j.val).addr true = true →
    mayRing x h = true → s.hostExists h = true → s.sqState h.val j.val = sqDisabled → v.getLsbD 17 = true →
    10 < bits (v &&& 0x3FF00#18).toNat 16 13 →
    ∃ u : State, exec (.sqEnable x h j v) s = .next u.settle ∧ u.sqState h.val j.val = sqDisabled ∧ u.get (Reg.HOST_ERR_CODE h.val) = 7 ∧
      u.get (Reg.HOST_ERR_CQ h.val) = 0 ∧ u.get (Reg.HOST_ERR_RING h.val) = j.val ∧ u.get (Reg.HOST_EVENT_REFUSED h.val) = 1 ∧
      u.reg (Reg.HOST_SQ_CFG h.val j.val).addr = s.reg (Reg.HOST_SQ_CFG h.val j.val).addr) ∧
  (∀ (x : Sender) (h : PHost) (j : Ring) (v : Word) (s : State), s.reaches x (Reg.HOST_SQ_CFG h.val j.val).addr true = true →
    mayRing x h = true → s.hostExists h = true → s.sqState h.val j.val ≠ sqDisabled → v.getLsbD 17 = false →
    (s.reg (Reg.HOST_SQ_CFG h.val j.val).addr ^^^ (v &&& 0x3FF00#18)) &&& 0x1FF00#18 = 0#18 →
    ∃ u : State, exec (.sqDisable x h j v) s = .next u.settle ∧
      u.sqState h.val j.val = (if s.sqFlights h j.val = 0 ∧ s.sqFetching h j.val = 0 then sqDisabled else sqDraining)) ∧
  (∀ (x : Sender) (h : PHost) (q : Ring) (v : Word) (s : State), s.reaches x (Reg.HOST_CQ_CFG h.val q.val).addr true = true →
    mayRing x h = true → s.hostExists h = true → (s.reg (Reg.HOST_CQ_CFG h.val q.val).addr).getLsbD 17 = false → v.getLsbD 17 = true →
    bits v.toNat 15 12 ≤ 10 → s.cqRangeOk h.val q.val (bits v.toNat 15 12) = true → s.doorbellOk h.val = true →
    ∃ u : State, exec (.cqEnable x h q v) s = .next (u.replayWrite h).settle ∧ u.reg (Reg.HOST_CQ_CFG h.val q.val).addr = v ∧
      u.cqTail h.val q.val = 0 ∧ u.get (Reg.HOST_CQ_STAT_PHASE h.val q.val) = 1 ∧ u.get (Reg.HOST_CQ_STAT_STOPPED h.val q.val) = 0 ∧
      Map.get (fun _ => 0) (u.host h).heads q.val = 0 ∧
      ((s.host h).replayCq = none → 0 < s.cutCount h → (u.host h).replayCq = some q)) ∧
  (∀ (x : Sender) (h : PHost) (q : Ring) (v : Word) (s : State), s.reaches x (Reg.HOST_CQ_CFG h.val q.val).addr true = true →
    mayRing x h = true → s.hostExists h = true → (s.reg (Reg.HOST_CQ_CFG h.val q.val).addr ^^^ v) &&& 0x0F000#18 = 0#18 → v.getLsbD 17 = false →
    (∀ j : Ring, s.sqState h.val j.val = sqDisabled ∨ s.sqCq h.val j.val ≠ q.val) →
    ∃ u : State, exec (.cqDisable x h q v) s = .next (u.replayWrite h).settle ∧ u.reg (Reg.HOST_CQ_CFG h.val q.val).addr = v ∧
      u.get (Reg.HOST_CQ_STAT_STOPPED h.val q.val) = 0 ∧ (u.host h).replayCq ≠ some q) ∧
  (∀ (h : PHost) (s : State), (s.host h).replayCq = none → exec (.replayWrite h) s = .next s) ∧
  (∀ (h : PHost) (q : Ring) (s : State), (s.host h).replayCq = some q → s.linkOpen h = true →
    ∃ t, t = s.replayGo h q s.dev.replay.length ∧ exec (.replayWrite h) s =
      .next (if t.cutCount h = 0 then (t.setHost h { t.host h with replayCq := none }).issueFetches h else t)) ∧
  (∀ (x : Sender) (h : PHost) (s : State), s.reaches x (Reg.HOST_CTL h.val).addr true = true → mayRing x h = true → s.hostExists h = true →
    ∃ u : State, exec (.cutDiscard x h) s = .next (u.issueFetches h) ∧ u.cutCount h = 0 ∧ (u.host h).replayCq = none ∧ u.regs = s.regs ∧
      u.dev.replay = s.dev.replay.filter (fun r => decide (r.host ≠ h)))

/-- RETRAIN and a bad lane set speed, width (at most the present one) and BAD, or take the link down; errors up to ERR_LIMIT do
nothing; a retrained link sends what waited and goes on at no more than its rate; link-down and PERSTh_N low take the link down and
reset the function, PERSTh_N its configuration space too; training gives speed (at most MAX_SPEED) and width; FLR and D0 discard
the host's descriptors and records and set all its registers, HOST_EVENT among them, to their reset values; D3hot and L1 are entered.
(R157, R158, R159, R160, R168, R186.) -/
def Obligations.LinksAndFunctions : Prop :=
  (∀ (x : Sender) (h : PHost) (s : State), s.reaches x (Reg.HOST_LCTL h.val).addr true = true → mayRing x h = true → s.hostExists h = true →
    (s.host h).up = true → ∃ t, exec (.retrain x h) s = .next t ∧ t.get (Reg.HOST_LINK_BAD h.val) = 0 ∧
      t.get (Reg.HOST_LINK_SPEED h.val) = s.get (Reg.HOST_LCTL_MAX_SPEED h.val) ∧ t.get (Reg.HOST_LINK_WIDTH h.val) = (s.lanesOf h).2) ∧
  (∀ (h : PHost) (lane : Fin 8) (sp : BitVec 3) (e : Option Nat) (w : Nat) (s : State), s.serving = true → (s.host h).up = true →
    (s.lanesOf h).1 ≤ lane.val → lane.val < (s.lanesOf h).1 + (s.lanesOf h).2 → s.laneFails h e = true →
    (s.put ((Reg.HOST_LINK_BAD h.val).at lane.val) 1).bestWidth h (s.get (Reg.HOST_LINK_WIDTH h.val)) = some w →
    ∃ t : State, exec (.laneBad h lane sp e) s = .next t.cycleGo ∧ t.get ((Reg.HOST_LINK_BAD h.val).at lane.val) = 1 ∧
      t.get (Reg.HOST_EVENT_LANE_BAD h.val) = 1 ∧ w ≤ s.get (Reg.HOST_LINK_WIDTH h.val) ∧ t.get (Reg.HOST_LINK_WIDTH h.val) = w ∧
      t.get (Reg.HOST_LINK_SPEED h.val) = min sp.toNat (s.get (Reg.HOST_LCTL_MAX_SPEED h.val)) ∧ (t.host h).retraining = true) ∧
  (∀ (h : PHost) (lane : Fin 8) (sp : BitVec 3) (e : Option Nat) (s : State), s.serving = true → (s.host h).up = true →
    (s.lanesOf h).1 ≤ lane.val → lane.val < (s.lanesOf h).1 + (s.lanesOf h).2 → s.laneFails h e = true →
    (s.put ((Reg.HOST_LINK_BAD h.val).at lane.val) 1).bestWidth h (s.get (Reg.HOST_LINK_WIDTH h.val)) = none →
    ∃ u : State, exec (.laneBad h lane sp e) s = .next (u.functionReset h true).cycleGo ∧ (u.host h).up = false ∧
      u.get (Reg.HOST_LINK_SPEED h.val) = 0 ∧ u.get (Reg.HOST_LINK_WIDTH h.val) = 0) ∧
  (∀ (h : PHost) (lane : Fin 8) (sp : BitVec 3) (n : Nat) (s : State), n ≤ s.get (Reg.HOST_LCTL_ERR_LIMIT h.val) →
    exec (.laneBad h lane sp (some n)) s = .next s) ∧
  (∀ (h : PHost) (sp : BitVec 3) (s : State), s.serving = true → (s.host h).up = true → (s.host h).retraining = true →
    ∃ u : State, exec (.linkRetrained h sp) s = .next (((u.sendDue h).replayWrite h).issueFetches h).settle ∧ (u.host h).retraining = false ∧
      (u.host h).up = true ∧ u.get (Reg.HOST_LINK_SPEED h.val) = min (max 1 sp.toNat) (s.get (Reg.HOST_LINK_SPEED h.val)) ∧ u.rest = s.rest) ∧
  (∀ (h : PHost) (v : Nat) (s : State), (s.host h).due = [.vector v] → (s.host h).sends v = true →
    (s.sendDue h).out = s.out ++ (if s.msixMerges h v s.stamp then [] else [.msix h v ((s.host h).vecAddr v) ((s.host h).vecDword v 2)]) ∧
      ((s.sendDue h).host h).due = []) ∧
  (∀ (h : PHost) (k : Nat) (s : State), (s.host h).due = [.error k] →
    (s.sendDue h).out = s.out ++ [.errMessage h k] ∧ ((s.sendDue h).host h).due = []) ∧
  (∀ (h : PHost) (s : State), s.serving = true → (s.host h).up = true → ∃ u : State, exec (.linkDown h) s = .next (u.functionReset h true).cycleGo ∧
    (u.host h).up = false ∧ (u.host h).ready = false ∧ u.get (Reg.HOST_LINK_SPEED h.val) = 0 ∧ u.get (Reg.HOST_LINK_WIDTH h.val) = 0) ∧
  (∀ (h : PHost) (sp : BitVec 3) (w : BitVec 4) (s : State), s.serving = true → s.hostExists h = true → (s.host h).perstN = true →
    (s.host h).up = false → 1 ≤ sp.toNat → sp.toNat ≤ 5 → w.toNat ∈ [1, 2, 4, 8] → w.toNat ≤ (s.lanesOf h).2 → ∃ t, exec (.linkUp h sp w) s = .next t ∧ (t.host h).up = true ∧ (t.host h).ready = false ∧
      t.get (Reg.HOST_LINK_SPEED h.val) = min sp.toNat (s.get (Reg.HOST_LCTL_MAX_SPEED h.val)) ∧ t.get (Reg.HOST_LINK_WIDTH h.val) = w.toNat) ∧
  (∀ (h : PHost) (s : State), s.serving = true → (s.host h).up = true →
    exec (.functionReady h) s = .next (s.setHost h { s.host h with ready := true })) ∧
  (∀ (h : PHost) (s : State), (s.host h).perstN = true → s.serving = true → s.hostExists h = true → ∃ u : State,
    exec (.perstLow h) s = .next ((u.functionReset h true).cycleGo.coldConfig h) ∧ (u.host h).up = false ∧ (u.host h).perstN = false ∧
      u.get (Reg.HOST_LINK_SPEED h.val) = 0 ∧ ((u.functionReset h true).cycleGo.coldConfig h).host h =
        { (u.functionReset h true).cycleGo.host h with cfg := [] }) ∧
  (∀ (h : PHost) (s : State), (s.host h).perstN = true → s.serving = false ∨ s.hostExists h = false →
    exec (.perstLow h) s = .next (s.setHost h { s.host h with perstN := false, cfg := [] })) ∧
  (∀ (h : PHost) (s : State), (s.host h).wakeLow = true → ∃ t, exec (.perstHigh h) s = .next t ∧ (t.host h).perstN = true ∧
    (t.host h).wakeLow = false ∧ t.out = s.out ++ [.wakeN h false] ∧ t.regs = s.regs) ∧
  (∀ (h : PHost) (s : State), (s.host h).wakeLow = false →
    exec (.perstHigh h) s = .next (s.setHost h { s.host h with perstN := true, wakeLow := false })) ∧
  (∀ (h : PHost) (s : State), s.serving = true → (s.host h).up = true → ∃ u : State, exec (.flr h) s = .next u.settle ∧
    (∀ f, f ∈ u.flights → f.host ≠ h) ∧ (∀ a, hostRegAddr h.val a = true → u.reg a = regReset a) ∧ u.cutCount h = 0 ∧
    (u.host h).ready = false ∧ (u.host h).cfg = (s.host h).cfgAfterReset) ∧
  (∀ (h : PHost) (s : State), s.serving = true → (s.host h).up = true →
    exec (.d3hotEntry h) s = .next (s.setHost h { s.host h with d3 := true })) ∧
  (∀ (h : PHost) (s : State), s.serving = true → (s.host h).up = true → (s.host h).d3 = true → ∃ u : State,
    exec (.d0Entry h) s = .next u.settle ∧ (∀ f, f ∈ u.flights → f.host ≠ h) ∧
      (∀ a, hostRegAddr h.val a = true → u.reg a = regReset a) ∧ u.cutCount h = 0) ∧
  (∀ (h : PHost) (s : State), s.serving = true → (s.host h).up = true → (s.host h).retraining = false → (s.host h).cfgBit cfgLinkCtl 1 = true →
    exec (.aspmL1Entry h) s = .next (s.setHost h { s.host h with l1 := true }).cycleGo)

/-- A NOP alone completes DONE with its P0; a READ of sound codewords sends the bytes it reads to the host and completes with
their count. Every register but the SQ and CQ status, and all other state of rest, is as it was. (R181, R193, R82, R196.) -/
def Obligations.DataDescriptors : Prop :=
  (∀ (h : PHost) (j q : Ring) (d : Desc) (s : State), s.Accepts h j q .nop d →
    ∃ t, exec (.nop h j d) s = .next t ∧ s.Completes t h j q d { status := Status.done, result := d.p0.setWidth 64 } ∧ t.rest = s.rest ∧
      ∀ a, notRing a → t.reg a = s.reg a) ∧
  (∀ (h : PHost) (j q : Ring) (d : Desc) (ups : List Upset) (s b : State), s.Accepts h j q .read d → b = s.begun h j (newFlight h j .read d) ups →
    b.rangeWaits (Desc.a d) (Desc.n d) false = false → b.SoundCws (Desc.a d / 8) (cwCount (Desc.a d) (Desc.n d)) →
    ∃ t, exec (.read h j d ups) s = .next t ∧ s.Completes t h j q d ((b.readBytes (Desc.a d) (Desc.n d) {}).2.2.compl (Desc.n d)) ∧
      .hostWrite h d.haddr.toNat (b.readBytes (Desc.a d) (Desc.n d) {}).2.1 ∈ t.out ∧ t.rest = b.rest ∧ ∀ a, notRing a → t.reg a = s.reg a)

/-- Each alone and over sound codewords completes DONE with its byte count; the array afterwards is the array with exactly the
bytes or words written at the descriptor's address, by the same function the meaning uses; a FILL with WIPE wipes the codewords;
every other register is as it was. (R78, R80, R82, R83, R193, R194, R202.) -/
def Obligations.WritesAndFills : Prop :=
  (∀ (h : PHost) (j q : Ring) (d : Desc) (data : HostData) (ups : List Upset) (s b : State), s.Accepts h j q .write d →
    s.Delivers (newFlight h j .write d) data →
    b = s.asked h j (newFlight h j .write d) ((askedFlight h j .write d).receive data) ups →
    b.rangeWaits (Desc.a d) (Desc.n d) true = false → b.SoundCws (Desc.a d / 8) (cwCount (Desc.a d) (Desc.n d)) →
    ∃ t, exec (.write h j d data ups) s = .next t ∧ s.Completes t h j q d { status := Status.done, result := BitVec.ofNat 64 (Desc.n d) } ∧
      .dataRead h d.haddr.toNat (Desc.n d) ∈ t.out ∧ t.rest = (b.writeBytes (Desc.a d) data.bytes false {}).1.rest ∧
      ∀ a, notRing a → t.reg a = s.reg a) ∧
  (∀ (h : PHost) (j q : Ring) (d : Desc) (ups : List Upset) (s b : State), s.Accepts h j q .copy d → b = s.begun h j (newFlight h j .copy d) ups →
    b.rangeWaits (Desc.a d) (Desc.n d) false = false → b.rangeWaits (Desc.b d) (Desc.n d) true = false →
    b.SoundCws (Desc.a d / 8) (cwCount (Desc.a d) (Desc.n d)) → b.SoundCws (Desc.b d / 8) (cwCount (Desc.b d) (Desc.n d)) →
    ∃ t, exec (.copy h j d ups) s = .next t ∧ s.Completes t h j q d ((b.readMarked (Desc.a d) (Desc.n d) {}).2.2.compl (Desc.n d)) ∧
      t.rest = ((b.writeBytes (Desc.b d) ((b.readMarked (Desc.a d) (Desc.n d) {}).2.1.map (·.1)) false
        (b.readMarked (Desc.a d) (Desc.n d) {}).2.2).1.poisonBytes (Desc.b d) ((b.readMarked (Desc.a d) (Desc.n d) {}).2.1.map (·.2))).rest ∧
      ∀ a, notRing a → t.reg a = s.reg a) ∧
  (∀ (h : PHost) (j q : Ring) (d : Desc) (ups : List Upset) (s b : State), s.Accepts h j q .fill d → b = s.begun h j (newFlight h j .fill d) ups →
    b.rangeWaits (Desc.a d) (Desc.n d) true = false → (bit d.p0.toNat 0 = false → b.SoundCws (Desc.a d / 8) (cwCount (Desc.a d) (Desc.n d))) →
    ∃ t, exec (.fill h j d ups) s = .next t ∧ s.Completes t h j q d { status := Status.done, result := BitVec.ofNat 64 (Desc.n d) } ∧
      t.rest = (if bit d.p0.toNat 0 then b.wipeCws (Desc.n d / 8) (Desc.a d / 8)
        else (b.writeBytes (Desc.a d) ((List.range (Desc.n d)).map (fun k => byteOf d.d0.toNat ((Desc.a d + k) % 8))) false {}).1).rest ∧
      ∀ a, notRing a → t.reg a = s.reg a) ∧
  (∀ (h : PHost) (j q : Ring) (d : Desc) (data : HostData) (ups : List Upset) (s b : State), s.Accepts h j q .word18Write d →
    s.Delivers (newFlight h j .word18Write d) data →
    b = s.asked h j (newFlight h j .word18Write d) ((askedFlight h j .word18Write d).receive data) ups →
    b.rangeWaits (2 * Desc.a d) (2 * (Desc.n d / 4)) true = false →
    (∀ i, i < Desc.n d / 4 → (b.cwImage ((Desc.a d + i) / 4)).eccOf (cwIndex ((Desc.a d + i) / 4)) = 0) →
    ∃ t, exec (.word18Write h j d data ups) s = .next t ∧
      s.Completes t h j q d { status := Status.done, result := BitVec.ofNat 64 (Desc.n d) } ∧ .dataRead h d.haddr.toNat (Desc.n d) ∈ t.out ∧
      t.rest = (b.writeW18s (Desc.n d / 4 + 1) (Desc.a d) (slotWords data.bytes) {}).1.rest ∧ ∀ a, notRing a → t.reg a = s.reg a) ∧
  (∀ (h : PHost) (j q : Ring) (d : Desc) (ups : List Upset) (s b : State), s.Accepts h j q .word18Read d →
    b = s.begun h j (newFlight h j .word18Read d) ups → b.rangeWaits (2 * Desc.a d) (Desc.n d / 2) false = false →
    (∀ i, i < Desc.n d / 4 → (b.cwImage ((Desc.a d + i) / 4)).eccOf (cwIndex ((Desc.a d + i) / 4)) = 0) →
    ∃ t, exec (.word18Read h j d ups) s = .next t ∧
      s.Completes t h j q d { status := Status.done, result := BitVec.ofNat 64 (Desc.n d) } ∧
      .hostWrite h d.haddr.toNat (wordSlots (b.w18s (Desc.a d) (Desc.n d / 4))) ∈ t.out ∧ t.rest = b.rest ∧ ∀ a, notRing a → t.reg a = s.reg a)

/-- An undefined opcode completes BAD_OPCODE; RTC_READ, COUNTER_READ, LEDGER_QUERY, KEEP_READ and RECORD_GET complete with the
values of the clock, the counters, the record, the words and the chosen copy's words with their tag, and leave all else (a query first meets
the errors of its record, log entry 124); RTC_SET sets the clock and the
trim and clears OSF with its causes while the crystal runs. (R193, R201,
R273, R278, R279, R289, R303, R304, R327, R329, log entry 124.) -/
def Obligations.ReadingDescriptors : Prop :=
  (∀ (h : PHost) (j q : Ring) (op : Byte) (d : Desc) (s : State), s.Arrives h j q → opcodeOf op = .bad →
    ∃ t, exec (.badOpcode h j op d) s = .next t ∧ s.Completes t h j q d { status := Status.badOpcode } ∧ t.rest = s.rest ∧
      ∀ a, notRing a → t.reg a = s.reg a) ∧
  (∀ (h : PHost) (j q : Ring) (d : Desc) (s : State), s.Accepts h j q .rtcRead d →
    ∃ t, exec (.rtcRead h j d) s = .next t ∧
      s.Completes t h j q d { status := Status.done, result := BitVec.ofNat 64 (s.rtcResult (bit d.p0.toNat 0)) } ∧ t.rest = s.rest ∧
      ∀ a, notRing a → t.reg a = s.reg a) ∧
  (∀ (h : PHost) (j q : Ring) (d : Desc) (p : PadTraffic) (s : State), s.Accepts h j q .counterRead d → padLost p = none → bit d.p0.toNat 8 = false →
    ∃ t, exec (.counterRead h j d p) s = .next t ∧
      s.Completes t h j q d { status := Status.done, result := BitVec.ofNat 64 (s.counter (bits d.p0.toNat 3 0)), aux := BitVec.ofNat 32 (bits d.p0.toNat 3 0) } ∧
      t.rest = s.rest ∧ ∀ a, notRing a → t.reg a = s.reg a) ∧
  (∀ (h : PHost) (j q : Ring) (d : Desc) (p : PadTraffic) (s : State), s.Accepts h j q .counterRead d → padLost p = none → bit d.p0.toNat 8 = true →
    ∃ t, exec (.counterRead h j d p) s = .next t ∧ s.Completes t h j q d { status := Status.done } ∧
      .hostWrite h d.haddr.toNat ((List.range 16).flatMap (fun k => leBytes (s.counter k) 8)) ∈ t.out ∧
      t.rest = s.rest ∧ ∀ a, notRing a → t.reg a = s.reg a) ∧
  (∀ (h : PHost) (j q : Ring) (d : Desc) (p : PadTraffic) (s b : State) (r : Nat), s.Accepts h j q .ledgerQuery d → padLost p = none →
    b = s.begun h j (newFlight h j .ledgerQuery d) p.ups p → (if bit d.p0.toNat 0 then some (Desc.a d) else b.newest d.sheet) = some r →
    ∃ t, exec (.ledgerQuery h j d p) s = .next t ∧
      s.Completes t h j q d { status := Status.done, result := (b.record r).result, aux := BitVec.ofNat 32 r } ∧
      (Desc.n d ≠ 0 → .hostWrite h d.haddr.toNat (wordSlots (if bit d.p0.toNat 1 then (b.record r).compat else (b.record r).words)) ∈ t.out) ∧
      t.rest = (b.meetRec r).rest ∧ ∀ a, notRing a → t.reg a = (b.meetRec r).reg a) ∧
  (∀ (h : PHost) (j q : Ring) (d : Desc) (p : PadTraffic) (s : State), s.Accepts h j q .keepRead d → padLost p = none →
    (keepPages (Desc.a d) (Desc.n d / 4)).any s.keepWaits = false →
    ∃ t, exec (.keepRead h j d p) s = .next t ∧ s.Completes t h j q d { status := Status.done, result := BitVec.ofNat 64 (Desc.n d) } ∧
      .hostWrite h d.haddr.toNat (wordSlots ((List.range (Desc.n d / 4)).map (fun k => s.readKeep (Desc.a d + k)))) ∈ t.out ∧
      t.rest = s.rest ∧ ∀ a, notRing a → t.reg a = s.reg a) ∧
  (∀ (h : PHost) (j q : Ring) (d : Desc) (p : PadTraffic) (s : State) (c : Choice), s.Accepts h j q .recordGet d → padLost p = none →
    s.keepWaits (Desc.pageA d) = false → s.keepWaits (Desc.pageA d + 1) = false → s.chooseRecord (Desc.pageA d) = some c →
    ∃ t, exec (.recordGet h j d p) s = .next t ∧
      s.Completes t h j q d { status := Status.done, result := BitVec.ofNat 64 (c.seq + b2n c.copyB * 2 ^ 16 + b2n c.twin * 2 ^ 17) } ∧
      .hostWrite h d.haddr.toNat (wordSlots ((List.range (Desc.n d / 4)).map (fun k => keepWord tagCommitted (BitVec.ofNat 16 (c.payload.getD k 0))))) ∈ t.out ∧
      t.rest = s.rest ∧ ∀ a, notRing a → t.reg a = s.reg a) ∧
  (∀ (h : PHost) (j q : Ring) (d : Desc) (s : State), s.Accepts h j q .rtcSet d →
    ∃ t, exec (.rtcSet h j d) s = .next t ∧ s.Completes t h j q d { status := Status.done } ∧ t.rtc.now = Desc.calendar d ∧
      t.rtc.trim = signed 10 (s.get Reg.RTC_CTL_TRIM) ∧
      (s.pwr.xtal = true → s.pwr.clockHeld = false → t.get Reg.RTC_STATUS_OSF = 0 ∧ t.get Reg.RTC_STATUS_ATTACH = 0 ∧
        t.get Reg.RTC_STATUS_STOP = 0 ∧ t.get Reg.RTC_STATUS_LOWBAT = 0 ∧ t.get Reg.RTC_STATUS_ROLL = 0))

/-- LEDGER_OPEN writes a new record with stage OPEN, mask, job and time in the next free index; LEDGER_STAGE stamps the newest
record of the sheet and reports SPOILED for a spoiled one, each after the errors of its record are met (the model's reading, log entry
124); KEEP_WRITE and RECORD_PUT to a hot page write the hot words and complete at once. (R267, R269, R270, R272, R300, R305, log entry
124.) -/
def Obligations.LedgerAndKeepWrites : Prop :=
  (∀ (h : PHost) (j q : Ring) (d : Desc) (p : PadTraffic) (s b : State) (r : Nat), s.Accepts h j q .ledgerOpen d → padLost p = none →
    b = s.begun h j (newFlight h j .ledgerOpen d) p.ups p → b.ledHeld = false →
    b.openHolder d.sheet = none → b.openRecords.length < 65536 → b.freeIndex 1048576 b.ledNext = some r →
    ∃ t, exec (.ledgerOpen h j d p) s = .next t ∧
      s.Completes t h j q d { status := Status.done, result := BitVec.ofNat 64 s.stamp, aux := BitVec.ofNat 32 r } ∧
      t.w18s (recAddr r) 8 = ({ sheet := d.sheet, job := bits d.d1.toNat 35 0, stage := 1, mask := bits d.p0.toNat 7 0, cause := 0, time := s.stamp } : Rec).words ∧
      t.ledNext = (r + 1) % 1048576) ∧
  (∀ (h : PHost) (j q : Ring) (d : Desc) (p : PadTraffic) (s b s1 : State) (r : Nat), s.Accepts h j q .ledgerStage d → padLost p = none → s.ledHeld = false →
    b = s.begun h j (newFlight h j .ledgerStage d) p.ups p → b.newest d.sheet = some r →
    (b.meetRec r).stageStamp r (bits d.p0.toNat 5 0) (bits d.p0.toNat 15 8) = some s1 →
    ∃ t, exec (.ledgerStage h j d p) s = .next t ∧
      s.Completes t h j q d { status := if (s1.record r).spoiled then Status.spoiled else Status.done, result := (s1.record r).result, aux := BitVec.ofNat 32 r } ∧
      t.rest = s1.rest ∧ ∀ a, notRing a → t.reg a = s1.reg a) ∧
  (∀ (h : PHost) (j q : Ring) (d : Desc) (data : HostData) (p : PadTraffic) (s : State) (f : Flight), s.Accepts h j q .keepWrite d → padLost p = none →
    s.Delivers (newFlight h j .keepWrite d) data →
    f = { askedFlight h j .keepWrite d with buf := data.bytes } → s.isHot (s.keepPlan f).1 = true →
    ∃ t, exec (.keepWrite h j d data p) s = .next t ∧
      s.Completes t h j q d { status := Status.done, result := BitVec.ofNat 64 (Desc.n d) } ∧
      t.rest = (s.writeHot (s.keepPlan f).1 (s.keepPlan f).2.1).rest ∧ ∀ a, notRing a → t.reg a = s.reg a) ∧
  (∀ (h : PHost) (j q : Ring) (d : Desc) (data : HostData) (p : PadTraffic) (s : State) (f : Flight), s.Accepts h j q .recordPut d → padLost p = none →
    s.Delivers (newFlight h j .recordPut d) data →
    f = { askedFlight h j .recordPut d with buf := data.bytes } → s.keepWaits (Desc.pageA d) = false → s.keepWaits (Desc.pageA d + 1) = false →
    s.isHot (s.keepPlan f).1 = true →
    ∃ t, exec (.recordPut h j d data p) s = .next t ∧
      s.Completes t h j q d { status := Status.done, result := BitVec.ofNat 64 (s.keepPlan f).2.2 } ∧
      t.rest = (s.writeHot (s.keepPlan f).1 (s.keepPlan f).2.1).rest ∧ ∀ a, notRing a → t.reg a = s.reg a)

/-- TABLE_SWAP, CHECKPOINT and Keep writes to a page that is not hot wait in their own stage and change nothing else; a MOVE
takes a free entry, marks the destination MOVE_DEST in the source's partition and clears it; an ABORT ends the named descriptor
with ABORTED and completes DONE. (R101, R103, R124, R184, R185, R232, R290, R305.) -/
def Obligations.WaitingDescriptors : Prop :=
  (∀ (h : PHost) (j q : Ring) (d : Desc) (s : State), s.Accepts h j q .tableSwap d →
    ∃ u : State, exec (.tableSwap h j d) s = .next u.settle ∧ u.flights = [{ newFlight h j .tableSwap d with stage := .swap }] ∧ u.rest = s.rest) ∧
  (∀ (h : PHost) (j q : Ring) (d : Desc) (s : State), s.Accepts h j q .checkpoint d →
    ∃ u : State, exec (.checkpoint h j d) s = .next u.settle ∧ u.flights = [{ newFlight h j .checkpoint d with stage := .checkpoint }] ∧
      u.rest = s.rest) ∧
  (∀ (h : PHost) (j q : Ring) (d : Desc) (data : HostData) (p : PadTraffic) (s : State) (f : Flight), s.Accepts h j q .keepWrite d → padLost p = none →
    s.Delivers (newFlight h j .keepWrite d) data →
    f = { askedFlight h j .keepWrite d with buf := data.bytes } → s.isHot (s.keepPlan f).1 = false →
    ∃ u : State, exec (.keepWrite h j d data p) s = .next u.settle ∧ u.flights = [{ f with stage := .keep }] ∧ u.rest = s.rest) ∧
  (∀ (h : PHost) (j q : Ring) (d : Desc) (data : HostData) (p : PadTraffic) (s : State) (f : Flight), s.Accepts h j q .recordPut d → padLost p = none →
    s.Delivers (newFlight h j .recordPut d) data →
    f = { askedFlight h j .recordPut d with buf := data.bytes } → s.isHot (s.keepPlan f).1 = false →
    ∃ u : State, exec (.recordPut h j d data p) s = .next u.settle ∧ u.flights = [{ f with stage := .keep }] ∧ u.rest = s.rest) ∧
  (∀ (h : PHost) (j q : Ring) (d : Desc) (s : State) (n : Nat), s.Accepts h j q .move d → s.freeMove = some n →
    ∃ u : State, exec (.move h j d) s = .next u.settle ∧
      u.flights = [{ newFlight h j .move d with stage := .moveCopy, result := n }] ∧ u.get (Reg.ARR_MOVE_PHASE n) = 1 ∧
      u.get (Reg.ARR_MOVE_OWNER n) = h.val + 1 ∧ u.get (Reg.ARR_MOVE_SRC n) = bits d.p0.toNat 5 0 ∧
      u.get (Reg.ARR_MOVE_DST n) = bits d.p0.toNat 13 8 ∧ u.rstate (bits d.p0.toNat 13 8) = RState.moveDest ∧
      u.get (Reg.PART_REGION_PARTITION (bits d.p0.toNat 13 8)) = s.get (Reg.PART_REGION_PARTITION (bits d.p0.toNat 5 0)) ∧
      bits d.p0.toNat 13 8 ∈ u.clearing) ∧
  (∀ (h : PHost) (j : Ring) (d : Desc) (s b : State) (k : Nat) (e : Flight), s.mayArrive h j = true →
    (s.advanceHead h j).descCheck h .abort d = none → b = { s.advanceHead h j with flights := s.flights ++ [newFlight h j .abort d] } →
    b.findFlight (fun e => decide (e.host = h ∧ e.sq.val = bits d.p0.toNat 1 0 ∧ e.d.tag.toNat = bits d.p0.toNat 31 16 ∧ e.op ≠ .abort ∧ e.op ≠ .nop) &&
      e.open_) = some (k, e) →
    ∃ u : State, exec (.abort h j d) s = .next u.settle ∧
      u.flights[k]? = some { e with compl := some { status := Status.aborted, result := e.stopResult }, committed := true, stage := .done } ∧
      u.flights[s.flights.length]? = some { newFlight h j .abort d with compl := some { status := Status.done }, committed := true, stage := .done })

/-- A TABLE_LOAD writes its words into the idle bank alone; a swap is rejected with SWAP_REJ, waits for its station's next
facet, or exchanges the banks at once on an unarmed station; an accepted RASTER_POST posts its band; the next sheet joins a
queue of fewer than 16; a ready band is published; a wait limit ends its descriptor with TIMEOUT. (R195, R209, R210, R211, R212,
R213, R230, R231, R232.) -/
def Obligations.StationDescriptors : Prop :=
  (∀ (h : PHost) (j q : Ring) (d : Desc) (data : HostData) (p : PadTraffic) (s : State) (x : Table), s.Accepts h j q .tableLoad d → padLost p = none →
    s.Delivers (newFlight h j .tableLoad d) data →
    ((s.stn d.stn).table d.tbl).state ≠ .copying →
    ((s.stn d.stn).table d.tbl).load d.tbl (Desc.a d) (slotWords data.bytes) 0 = (x, Desc.n d / 4, none) →
    ∃ t, exec (.tableLoad h j d data p) s = .next t ∧
      s.Completes t h j q d { status := s.stnStatus d.stn, result := BitVec.ofNat 64 (Desc.n d) } ∧
      (t.stn d.stn).table d.tbl = loadedTable d x ∧ (∀ k, k ≠ d.tbl → (t.stn d.stn).table k = (s.stn d.stn).table k) ∧
      (∀ n, n ≠ d.stn → t.stn n = s.stn n) ∧ ∀ a, notRing a → t.reg a = s.reg a) ∧
  (∀ (h : PHost) (j : Ring) (tag : BitVec 16) (t : Nat) (s : State) (i : Nat) (f : Flight), s.serving = true →
    s.swapFlight h j tag = some (i, f) → (s.host h).retraining = false → s.swapMayCheck i f = true → (s.stn f.d.stn).swapOk f.d.mask = false →
    ∃ u : State, exec (.tableSwapReady h j tag t) s = .next u.settle ∧ u.get (Reg.STN_EVENT_SWAP_REJ f.d.stn) = 1 ∧
      u.flights[i]? = some { f with compl := some { status := Status.badRange }, committed := true, stage := .done } ∧ u.stns = s.stns) ∧
  (∀ (h : PHost) (j : Ring) (tag : BitVec 16) (t : Nat) (s : State) (i : Nat) (f : Flight), s.serving = true →
    s.swapFlight h j tag = some (i, f) → (s.host h).retraining = false → s.swapMayCheck i f = true → (s.stn f.d.stn).swapOk f.d.mask = true → s.stnArmed f.d.stn = true →
    ∃ u : State, exec (.tableSwapReady h j tag t) s = .next u.settle ∧ u.flights[i]? = some { f with stage := .swapReady, ready := t } ∧
      u.rest = s.rest ∧ u.regs = s.regs) ∧
  (∀ (h : PHost) (j : Ring) (tag : BitVec 16) (t : Nat) (s : State) (i : Nat) (f : Flight), s.serving = true →
    s.swapFlight h j tag = some (i, f) → (s.host h).retraining = false → s.swapMayCheck i f = true → (s.stn f.d.stn).swapOk f.d.mask = true → s.stnArmed f.d.stn = false →
    ∃ u : State, exec (.tableSwapReady h j tag t) s = .next u.settle ∧
      (∃ g, u.flights[i]? = some g ∧ g.compl = some { status := u.stnStatus f.d.stn, result := BitVec.ofNat 64 f.d.mask }) ∧
      (∀ k, k ∈ maskTables f.d.mask → ((u.stn f.d.stn).table k).active = ((s.stn f.d.stn).table k).idle ∧
        ((u.stn f.d.stn).table k).idle = ((s.stn f.d.stn).table k).active ∧ ((u.stn f.d.stn).table k).bank = !((s.stn f.d.stn).table k).bank ∧
        ((u.stn f.d.stn).table k).state = .copying) ∧
      ∀ k, k ∉ maskTables f.d.mask → (u.stn f.d.stn).table k = (s.stn f.d.stn).table k) ∧
  (∀ (h : PHost) (j q : Ring) (d : Desc) (data : HostData) (s b : State) (r : Nat), s.Accepts h j q .rasterPost d →
    s.Delivers (newFlight h j .rasterPost d) data →
    b = s.asked h j (newFlight h j .rasterPost d) { askedFlight h j .rasterPost d with buf := data.bytes } [] → b.rasterCheck h d = .ok r →
    ∃ u : State, exec (.rasterPost h j d data) s = .next u.settle ∧
      u.flights = [{ askedFlight h j .rasterPost d with buf := data.bytes, stage := .ringSpace }] ∧ u.regs = b.regs ∧ u.arr = s.arr ∧
      ∃ g, g ∈ (u.stn d.stn).sheets ∧ g.rec_ = r ∧ (d.a0.toNat, d.lines) ∈ g.posted ∧ (d.last = true → g.lines = some (d.a0.toNat + d.lines))) ∧
  (∀ (n : StnId) (s : State) (o : Int) (p : Nat) (g : Sheet), s.serving = true → s.stnArmed n.val = true → s.nextOrigin n.val = some (o, p) →
    (s.stn n.val).sheets.find? (fun h => !h.queued && !h.posted.isEmpty) = some g → (s.stn n.val).queue.length < 16 →
    ∃ u : State, exec (.sheetJoinQueue n) s = .next u.settle ∧
      u.stn n.val = (s.stn n.val).mapSheet g.rec_ (fun x => { x with queued := true, origin := o, pos := p }) ∧ u.regs = s.regs ∧
      u.flights = s.flights ∧ u.arr = s.arr) ∧
  (∀ (h : PHost) (j : Ring) (tag : BitVec 16) (s : State) (i : Nat) (f : Flight) (g : Sheet), s.Inv → s.serving = true →
    s.bandFlight h j tag = some (i, f) → s.bandReady f = some g → s.ringRetired f = false →
    ((List.range f.d.lines).map (f.d.a0.toNat + ·)).filter ((s.stn f.d.stn).lateLine g) = [] →
    ∃ u : State, exec (.rasterPostPublish h j tag) s = .next u.settle ∧
      (∃ e, u.flights[i]? = some e ∧ e.committed = true ∧
        ∃ st, e.compl = some { status := st, result := BitVec.ofNat 64 ((g.pos + f.d.a0.toNat) % s.ringSize f.d.stn * 2 ^ 48 + f.d.len.toNat) }) ∧
      u.stn f.d.stn = (s.stn f.d.stn).mapSheet g.rec_ (fun x => { x with published := x.published ++ [(f.d.a0.toNat, f.d.lines)] })) ∧
  (∀ (h : PHost) (j : Ring) (tag : BitVec 16) (s : State) (k : Nat) (e : Flight), s.serving = true →
    s.findFlight (fun e => decide (e.host = h ∧ e.sq = j ∧ e.d.tag = tag) && waitsLimited e.op && e.open_) = some (k, e) →
    ∃ u : State, exec (.waitLimitExpiry h j tag) s = .next u.settle ∧
      u.flights[k]? = some { e with compl := some { status := Status.timeout, result := e.stopResult }, committed := true, stage := .done })

/-- The end of a MOVE copies the source's image and makes it FORWARD; its timeout frees and clears the destination; END frees
and clears the source; a rewrite removes a corrected error alone; assigning a region clears it to its view's pattern, freeing it
clears it and erases its seals; attributes are stored, or held during a checkpoint; a slow or failing cluster starts a live
copy, which ends SPARED; region 63 moves to its new home. An error in a spare in service shows its position as CLUSTER, and
region 63 keeps the spare bits of its new home: the model's choices (log entries 99, 100). That a clearing region reads its pattern
from the command on (log entry 27) and that a copy is one step (log entry 28) are the model's readings. (R82, R86, R95, R96, R97, R98,
R101, R102, R105, R106, R127, log entry 100.) -/
def Obligations.MovesAndRegions : Prop :=
  (∀ (n : Fin 8) (ups : List Upset) (s : State), s.serving = true → s.get (Reg.ARR_MOVE_PHASE n.val) = 1 →
    s.waits (s.get (Reg.ARR_MOVE_DST n.val)) true = false → s.get (Reg.ARR_MOVE_SRC n.val) ≠ s.get (Reg.ARR_MOVE_DST n.val) →
    s.moveHeld n.val = false →
    ∃ u : State, exec (.moveForward n ups) s = .next (u.settle.watch s).cycleGo ∧ u.get (Reg.ARR_MOVE_PHASE n.val) = 2 ∧
      u.rstate (s.get (Reg.ARR_MOVE_SRC n.val)) = RState.forward ∧
      (u.rstate (s.get (Reg.ARR_MOVE_DST n.val)) = RState.assigned ∨ u.rstate (s.get (Reg.ARR_MOVE_DST n.val)) = RState.retiring) ∧
      u.get Reg.ARR_EVENT_MOVE_DONE = 1 ∧
      u.image (s.get (Reg.ARR_MOVE_DST n.val)) = (copyImage (((s.upsets ups (firstCw (s.get (Reg.ARR_MOVE_SRC n.val)))
        (lastCw (s.get (Reg.ARR_MOVE_SRC n.val)))).markRegion (s.get (Reg.ARR_MOVE_SRC n.val))).image (s.get (Reg.ARR_MOVE_SRC n.val))) false).1) ∧
  (∀ (n : Fin 8) (s : State) (i : Nat) (f : Flight), s.serving = true → s.moveFlight n.val = some (i, f) →
    s.dev.failed.find? (fun e => decide (e.1 = s.get (Reg.ARR_MOVE_DST n.val))) = none →
    ∃ u : State, exec (.moveTimeout n) s = .next u.settle ∧ u.get (Reg.ARR_MOVE_PHASE n.val) = 0 ∧
      u.rstate (s.get (Reg.ARR_MOVE_DST n.val)) = RState.available ∧
      u.get (Reg.PART_REGION_PARTITION (s.get (Reg.ARR_MOVE_DST n.val))) = 0x3F ∧
      s.get (Reg.ARR_MOVE_DST n.val) ∈ u.clearing ∧ u.image (s.get (Reg.ARR_MOVE_DST n.val)) = Image.flat 0 ∧
      ∃ g, u.flights[i]? = some g ∧ g.compl = some { status := Status.timeout }) ∧
  (∀ (x : Sender) (n : Fin 8) (s : State), s.reaches x (0x410 + n.val) true = true → s.get (Reg.ARR_MOVE_PHASE n.val) = 2 →
    x.toNat = s.get (Reg.ARR_MOVE_OWNER n.val) → s.partHeld = false → s.dev.left.contains (s.get (Reg.ARR_MOVE_SRC n.val)) = false →
    s.dev.failed.find? (fun e => decide (e.1 = s.get (Reg.ARR_MOVE_SRC n.val))) = none →
    ∃ u : State, exec (.forwardEnd x n) s = .next (u.settle.watch s).cycleGo ∧ u.get (Reg.ARR_MOVE_PHASE n.val) = 0 ∧
      u.rstate (s.get (Reg.ARR_MOVE_SRC n.val)) = RState.available ∧
      u.get (Reg.PART_REGION_PARTITION (s.get (Reg.ARR_MOVE_SRC n.val))) = 0x3F ∧ s.get (Reg.ARR_MOVE_SRC n.val) ∈ u.clearing ∧
      u.image (s.get (Reg.ARR_MOVE_SRC n.val)) = Image.flat 0) ∧
  (∀ (cw : BitVec 28) (s : State), s.serving = true → s.waits (cwRegion cw.toNat) true = false → (s.cwImage cw.toNat).eccOf (cwIndex cw.toNat) = 1 →
    ∃ t, exec (.correctedRewrite cw) s = .next t ∧ t = { s with arr := t.arr } ∧ (t.cwImage cw.toNat).eccOf (cwIndex cw.toNat) = 0 ∧
      (∀ i, (t.cwImage cw.toNat).word i = (s.cwImage cw.toNat).word i) ∧
      ∀ i, i ≠ cwIndex cw.toNat → (t.cwImage cw.toNat).eccOf i = (s.cwImage cw.toNat).eccOf i) ∧
  (∀ (x : Sender) (r : Fin 64) (v : Word) (s : State), r.val < 63 → s.reaches x (0x440 + r.val) true = true → s.mayPart x = true → s.partHeld = false →
    s.get (Reg.PART_REGION_PARTITION r.val) = 0x3F → s.rstate r.val = RState.available → bits v.toNat 5 0 < 63 →
    s.flag (Reg.PART_ATTR_VALID (bits v.toNat 5 0)) = true → s.ringIn (bits v.toNat 5 0) = false →
    ∃ u : State, exec (.partRegion x r v) s = .next (u.settle.watch s).cycleGo ∧
      u.get (Reg.PART_REGION_PARTITION r.val) = bits v.toNat 5 0 ∧ u.rstate r.val = RState.assigned ∧ r.val ∈ u.clearing ∧
      u.image r.val = Image.flat (if s.flag (Reg.PART_ATTR_VIEW (bits v.toNat 5 0)) then 0#18 else 0x10000#18)) ∧
  (∀ (x : Sender) (r : Fin 64) (v : Word) (s : State), r.val < 63 → s.reaches x (0x440 + r.val) true = true → s.mayPart x = true → s.partHeld = false →
    bits v.toNat 5 0 = 0x3F → s.get (Reg.PART_REGION_PARTITION r.val) ≠ 0x3F → s.rstate r.val = RState.assigned → s.holdsMove r.val = false →
    s.ringIn (s.get (Reg.PART_REGION_PARTITION r.val)) = false →
    ∃ u : State, exec (.partRegion x r v) s = .next (u.settle.watch s).cycleGo ∧
      u.get (Reg.PART_REGION_PARTITION r.val) = 0x3F ∧ u.rstate r.val = RState.available ∧ r.val ∈ u.clearing ∧ u.image r.val = Image.flat 0 ∧
      ∀ k, k < 8 → Map.get (fun _ => 0#18) u.sealA (8 * r.val + k) = 0 ∧ Map.get (fun _ => 0#18) u.sealB (8 * r.val + k) = 0) ∧
  (∀ (x : Sender) (p : Fin 63) (v : Word) (s : State), s.reaches x (0x480 + p.val) true = true → s.mayPart x = true → s.partHeld = false →
    s.attrAllowed p.val (s.reg (0x480 + p.val)) (attrStored v) = true →
    ∃ u : State, exec (.partAttr x p v) s = .next (u.settle.watch s).cycleGo ∧ u.reg (0x480 + p.val) = attrStored v) ∧
  (∀ (x : Sender) (p : Fin 63) (v : Word) (s : State), s.reaches x (0x480 + p.val) true = true → s.mayPart x = true → s.partHeld = true →
    ∃ u : State, exec (.partAttr x p v) s = .next (u.settle.watch s).cycleGo ∧ u.heldWrites = s.heldWrites ++ [(0x480 + p.val, v, x)] ∧
      u.regs = s.regs ∧ u.rest = s.rest) ∧
  (∀ (r : Fin 64) (s : State), r.val ∈ s.clearing →
    ∃ u : State, exec (.regionClearDone r) s = .next u.settle ∧ r.val ∉ u.clearing ∧ (∀ q, q ≠ r.val → (q ∈ u.clearing ↔ q ∈ s.clearing)) ∧
      u.arr = s.arr ∧ u.regs = s.regs) ∧
  (∀ (r : Fin 64) (c : Fin 8) (s : State), s.serving = true → s.rstate r.val ≠ RState.retired →
    s.dev.copies.find? (fun c => decide (c.region = r.val)) = none → s.flag (Reg.PART_REGION_SPARED r.val) = false →
    s.flag (Reg.PART_REGION_SPARE_BAD r.val) = false →
    (∃ u : State, exec (.clusterSlow r c) s = .next (u.settle.watch s).cycleGo ∧ u.dev.copies = s.dev.copies ++ [⟨r.val, c.val, 1, none⟩]) ∧
    ∃ u : State, exec (.eccLimit r c) s = .next (u.settle.watch s).cycleGo ∧ u.dev.copies = s.dev.copies ++ [⟨r.val, c.val, 2, none⟩]) ∧
  (∀ (r : Fin 64) (c : Fin 8) (s : State), s.serving = true → r.val < 63 → s.rstate r.val = RState.assigned →
    s.dev.copies.find? (fun c => decide (c.region = r.val)) = none → s.flag (Reg.PART_REGION_SPARED r.val) = true →
    ∃ u : State, exec (.clusterSlow r c) s = .next (u.settle.watch s).cycleGo ∧ u.rstate r.val = RState.retiring ∧ r.val ∈ u.dev.left ∧
      u.get Reg.ARR_LAST_CAUSE = 1 ∧ u.get Reg.ARR_LAST_CLUSTER = c.val ∧ u.get Reg.ARR_LAST_REGION = r.val ∧
      u.get Reg.ARR_EVENT_RETIRING = 1) ∧
  (∀ (r : Fin 64) (ups : List Upset) (s : State) (c : LiveCopy), s.serving = true → s.waveRegions.contains r.val = false →
    s.dev.copies.find? (fun c => decide (c.region = r.val)) = some c → c.cluster < 8 → s.SpareClean c ups →
    ∃ u : State, exec (.liveCopyDone r ups) s = .next (u.settle.watch s).cycleGo ∧ u.get (Reg.PART_REGION_SPARED r.val) = 1 ∧
      u.get (Reg.PART_REGION_SPARED_FOR r.val) = c.cluster ∧ (∀ d, d ∈ u.dev.copies ↔ d ∈ s.dev.copies ∧ d.region ≠ r.val) ∧
      u.get Reg.ARR_EVENT_SPARE_IN = 1) ∧
  (∀ (ups : List Upset) (s : State) (r : Nat), s.serving = true → s.waveRegions.contains 63 = false → s.dev.reloc = some r → r < 63 →
    ∃ u : State, exec (.region63RelocDone ups) s = .next (u.settle.watch s) ∧ u.phys63 = r ∧ u.rstate r = RState.retired ∧
      u.get (Reg.PART_REGION_PARTITION r) = 0x3F ∧ u.dev.reloc = none ∧ u.get Reg.ARR_EVENT_REGION63_RELOC = 1 ∧
      u.get (Reg.PART_REGION_SPARED 63) = s.get (Reg.PART_REGION_SPARED r))

/-- A pulse to the level of POL at least MIN_W wide in the arming window starts a facet, with the next facet number and
sequence; one in the EOS window measures the scan time and, with AVG 0, gives the trim of that facet; a pulse that does not
qualify changes nothing; the windows open and close; a flagged facet sets RANGE; a stall cuts the facet and keeps the last
intervals; NO_SOS is set; FN_ADJ adds to the adjustment and clears the measured trims. (R216, R236, R241, R242, R243, R244,
R246.) -/
def Obligations.ScanTiming : Prop :=
  (∀ (n : StnId) (t w leave : Nat) (high : Bool) (s : State), s.scanning n.val = true → s.qualified n.val w high = true → (s.stn n.val).win = .arming →
    (s.stn n.val).facet = none → ∃ u : State, exec (.sxsPulse n t w high leave) s = .next u.drainAdvance.settle ∧
      u.get (Reg.STN_STATUS_ARMED n.val) = 1 ∧ u.get (Reg.STN_STATUS_WAIT_SOS n.val) = 0 ∧ u.get (Reg.STN_STATUS_STALLED n.val) = 0 ∧
      (u.stn n.val).win = .blanking ∧ (u.stn n.val).tSos = t ∧ (u.stn n.val).fnAdj = 0 ∧ (u.stn n.val).fseq = ((s.stn n.val).fseq + 1) % 65536 ∧
      (s.flag (Reg.STN_STATUS_WAIT_SOS n.val) = true → (u.stn n.val).fn = ((s.stn n.val).ofs + (s.stn n.val).fnAdj) % s.get (Reg.STN_CTL_NF n.val)) ∧
      (s.flag (Reg.STN_STATUS_WAIT_SOS n.val) = false → s.flag (Reg.STN_STATUS_STALLED n.val) = false →
        (u.stn n.val).fn = ((s.stn n.val).fn + 1 + (s.stn n.val).fnAdj) % s.get (Reg.STN_CTL_NF n.val)) ∧
      u.get (Reg.STN_FACET_FN n.val) = (u.stn n.val).fn % 16 ∧ ∃ f, (u.stn n.val).facet = some f ∧ f.fseq = (u.stn n.val).fseq) ∧
  (∀ (n : StnId) (t w leave : Nat) (high : Bool) (s : State), high = s.flag (Reg.STN_SXS_CTL_POL n.val) ∨ w < s.get (Reg.STN_SXS_CTL_MIN_W n.val) →
    exec (.sxsPulse n t w high leave) s = .next s.drainAdvance.settle) ∧
  (∀ (n : StnId) (t w leave : Nat) (high : Bool) (s : State), s.scanning n.val = true → s.pwr.st = .run → s.qualified n.val w high = true →
    (s.stn n.val).win = .eos → ∃ u : State, exec (.sxsPulse n t w high leave) s = .next u.settle ∧ (u.stn n.val).win = .holdoff ∧
      u.get (Reg.STN_TMEAS_LO_T_LO n.val) = (t - (s.stn n.val).tSos) / 4 % 2 ^ 18 ∧
      u.get (Reg.STN_TMEAS_HI_T_HI n.val) = (t - (s.stn n.val).tSos) / 4 / 2 ^ 18 % 16 ∧
      (s.get (Reg.STN_MAG_AVG n.val) = 0 → (s.stn n.val).fn < 12 → u.get (Reg.STN_MTRIM_VALID n.val (s.stn n.val).fn) = 1 ∧
        u.get (Reg.STN_MTRIM_TRIM n.val (s.stn n.val).fn) = unsigned 16 (clampI (-20000) 20000
          (roundDiv (((t - (s.stn n.val).tSos : Nat) - (s.scanT n.val : Int)) * 1000000) (s.scanT n.val))))) ∧
  (∀ (n : StnId) (s : State), s.scanning n.val = true → (s.stn n.val).win = .blanking → s.flag (Reg.STN_SXS_CTL_EOS_EN n.val) = true →
    exec (.eosWindowOpen n) s = .next (s.setStn n.val { s.stn n.val with win := .eos })) ∧
  (∀ (n : StnId) (s : State), s.scanning n.val = true → (s.stn n.val).win = .eos →
    ∃ t, exec (.eosWindowEnd n) s = .next t ∧ (t.stn n.val) = { s.stn n.val with win := .holdoff } ∧ t.get (Reg.STN_LEVENT_RANGE n.val) = 1) ∧
  (∀ (n : StnId) (s : State), s.scanning n.val = true → (s.stn n.val).win = .holdoff ∨
      (s.stn n.val).win = .blanking ∧ s.flag (Reg.STN_SXS_CTL_EOS_EN n.val) = false →
    exec (.armingWindowOpen n) s = .next (s.setStn n.val { s.stn n.val with win := .arming })) ∧
  (∀ (n : StnId) (s : State), s.serving = true → s.flag (Reg.STN_STATUS_ARMED n.val) = true → s.flag (Reg.STN_STATUS_STALLED n.val) = false →
    (s.stn n.val).intervals ≠ [] → ∃ t, exec (.stall n) s = .next t ∧ t.get (Reg.STN_STATUS_STALLED n.val) = 1 ∧
      t.get (Reg.STN_EVENT_STALL n.val) = 1 ∧ (t.stn n.val).intervals = [] ∧
      (t.stn n.val).pStall = some ((s.stn n.val).intervals.sum, (s.stn n.val).intervals.length) ∧
      ∀ f, (s.stn n.val).facet = some f → ∃ c, (t.stn n.val).facet = some { f with cut := some c }) ∧
  (∀ (n : StnId) (s : State), s.serving = true → s.flag (Reg.STN_STATUS_WAIT_SOS n.val) = true →
    ∃ t, exec (.noSos n) s = .next t ∧ t.get (Reg.STN_EVENT_NO_SOS n.val) = 1) ∧
  (∀ (x : Sender) (n : StnId) (v : Word) (s : State), s.stnReaches x n.val 0x44 true = true →
    ∃ t, exec (.fnAdj x n v) s = .next t ∧ t.get (Reg.STN_MAG_AUTO n.val) = bits v.toNat 17 17 ∧ t.get (Reg.STN_MAG_AVG n.val) = bits v.toNat 16 15 ∧
      (bits v.toNat 14 11 ≠ 0 → (t.stn n.val).fnAdj = (s.stn n.val).fnAdj + bits v.toNat 14 11 ∧
        ∀ f, f < 12 → t.get (Reg.STN_MTRIM_VALID n.val f) = 0) ∧
      (bits v.toNat 14 11 = 0 → t.stns = s.stns ∧ ∀ f, f < 12 → t.get (Reg.STN_MTRIM_VALID n.val f) = s.get (Reg.STN_MTRIM_VALID n.val f)))

/-- ARM sets WAIT_SOS, resets the position and reserves slots, or is refused with its REASON, and gives up Sweeper's test of an emitter,
after its frame in progress (the model's reading, log entry 125); DISARM ends at once or after the facet, and takes back such an ARM; FACET_END sends the facet's blocks and counts saturation; a line fetch appends the line at its ring address; the cutoff
blank cuts the facet at the block named; REVERT and the end of a copy set the table banks. (R91, R214, R215, R216, R217, R231,
R235, R238, R253, R263, R354.) -/
def Obligations.ArmingAndTables : Prop :=
  (∀ (x : Sender) (n : StnId) (s : State), s.stnReaches x n.val 0 true = true → s.stnMay x n.val = true → s.stnArmed n.val = false → s.armReason n.val = 0 →
    (s.stn n.val).swpFrame = false →
    ∃ t, exec (.arm x n) s = .next t ∧ t.get (Reg.STN_STATUS_WAIT_SOS n.val) = 1 ∧ (t.stn n.val).probe = none ∧ (t.stn n.val).win = .arming ∧ (t.stn n.val).dc = 0 ∧
      (t.stn n.val).x = none ∧ (t.stn n.val).pmaxL = none ∧ (t.stn n.val).pmaxU = none ∧ (t.stn n.val).reserved = s.slotsNeeded n.val ∧
      (t.stn n.val).sheets = (s.stn n.val).sheets ∧ (t.stn n.val).tables = (s.stn n.val).tables) ∧
  (∀ (x : Sender) (n : StnId) (s : State), s.stnReaches x n.val 0 true = true → s.stnMay x n.val = true → s.stnArmed n.val = false → s.armReason n.val ≠ 0 →
    (s.stn n.val).swpFrame = false →
    ∃ t, exec (.arm x n) s = .next t ∧ t.get (Reg.STN_ARM_ERR_REASON n.val) = s.armReason n.val ∧ t.get (Reg.STN_EVENT_ARM_REFUSED n.val) = 1 ∧
      t.stn n.val = { s.stn n.val with probe := none } ∧ (∀ m, m ≠ n.val → t.stn m = s.stn m) ∧
      (s.armReason n.val = 7 → t.get Reg.ARR_EVENT_SLOT_REFUSED = 1)) ∧
  (∀ (x : Sender) (n : StnId) (s : State), s.stnReaches x n.val 0 true = true → s.stnMay x n.val = true → (s.stn n.val).swpFrame = true →
    exec (.arm x n) s = .next (s.setStn n.val { s.stn n.val with armWaits := some ((s.stn n.val).armWaits.getD x) })) ∧
  (∀ (x : Sender) (n : StnId) (s : State), s.stnReaches x n.val 0 true = true → s.stnMay x n.val = true → s.stnArmed n.val = false →
    ∃ u : State, exec (.disarm x n) s = .next u.drainAdvance.settle ∧ u.regs = s.regs ∧ u.stn n.val = { s.stn n.val with armWaits := none }) ∧
  (∀ (x : Sender) (n : StnId) (s : State), s.stnReaches x n.val 0 true = true → s.stnMay x n.val = true → s.stnArmed n.val = true →
    (s.stn n.val).facet = none → ∃ u : State, exec (.disarm x n) s = .next u.drainAdvance.settle ∧ u.stnArmed n.val = false ∧
      u.get (Reg.STN_STATUS_STALLED n.val) = 0 ∧ (u.stn n.val).sheets = [] ∧ (u.stn n.val).buffer = [] ∧ (u.stn n.val).win = .closed ∧
      (u.stn n.val).reserved = 0 ∧ u.pwr = s.pwr) ∧
  (∀ (x : Sender) (n : StnId) (s : State), s.stnReaches x n.val 0 true = true → s.stnMay x n.val = true → s.stnArmed n.val = true →
    (s.stn n.val).facet.isSome = true →
    ∃ u : State, exec (.disarm x n) s = .next u.drainAdvance.settle ∧ u.regs = s.regs ∧
      u.stn n.val = { s.stn n.val with armWaits := none, disarming := true }) ∧
  (∀ (n : StnId) (s : State) (f : Facet), s.serving = true → (s.stn n.val).facet = some f → (s.stn n.val).disarming = false → (s.stn n.val).drain = none →
    ∃ u : State, exec (.facetEnd n) s = .next u.drainAdvance.settle ∧ (u.stn n.val).facet = none ∧ u.pwr = s.pwr ∧
      (s.linkUp n.val = true → .payload n f.fseq f.sent ∈ u.out ∧ .facetEnd n f.fseq f.nblk ∈ u.out) ∧
      (f.clipped = true → u.get (Reg.STN_EVENT_SAT n.val) = 1 ∧
        u.get (Reg.STN_SAT_COUNT n.val) = min (s.get (Reg.STN_SAT_COUNT n.val) + 1) (2 ^ 18 - 1))) ∧
  (∀ (n : StnId) (ups : List Upset) (s b : State) (l : Int) (g : Sheet) (cw : Nat), s.Inv → s.serving = true → s.stnArmed n.val = true →
    (s.stn n.val).nextFetch = some (l, g) → (s.stn n.val).buffer.length < 160 →
    cw = (s.ringBase n.val + (g.pos + (l - g.origin).toNat) % s.ringSize n.val * s.lineBytes n.val) / 8 →
    b = s.upsets ups cw (cw + s.lineBytes n.val / 8 - 1) →
    ∃ t, exec (.lineFetch n ups) s = .next t ∧ (t.stn n.val).buffer = (s.stn n.val).buffer ++ [(l, (b.rasterCws (s.lineBytes n.val / 8) cw).2.1)] ∧
      ((b.rasterCws (s.lineBytes n.val / 8) cw).2.2 = false → t = (b.rasterCws (s.lineBytes n.val / 8) cw).1.setStn n.val
        { s.stn n.val with buffer := (s.stn n.val).buffer ++ [(l, (b.rasterCws (s.lineBytes n.val / 8) cw).2.1)] })) ∧
  (∀ (s : State) (cw : Nat), (s.cwImage cw).eccOf (cwIndex cw) = 0 → (∀ k, k < 4 → ((s.cwImage cw).word (4 * cwIndex cw + k)).toNat < 0x10000) →
    s.rasterCw cw = (s.access (s.cwOwner cw) cw, (List.range 8).map (fun k => BitVec.ofNat 8 (((s.cwImage cw).word (4 * cwIndex cw + k / 2)).toNat / 256 ^ (k % 2))), false)) ∧
  (∀ (n : StnId) (s : State) (f : Facet) (first : Nat), s.serving = true → (s.stn n.val).blankDue = true → (s.stn n.val).facet = some f →
    f.cut = none → exec (.cutoffBlank n first) s = .next (s.setStn n.val
      { s.stn n.val with blankDue := false, facet := some { f with cut := some (min f.nblk first) } })) ∧
  (∀ (x : Sender) (n : StnId) (mask : BitVec 5) (s : State), s.stnReaches x n.val 0x1A true = true → s.stnMay x n.val = true →
    ∃ t, exec (.revert x n mask) s = .next t ∧ t.regs = s.regs ∧
      ∀ k, ((t.stn n.val).table k) = if k < 5 ∧ bit mask.toNat k = true ∧ s.tableInUse n.val k = false
        then { (s.stn n.val).table k with state := .copying } else (s.stn n.val).table k) ∧
  (∀ (n : StnId) (k : Fin 5) (s : State), s.serving = true → ((s.stn n.val).table k.val).state = .copying →
    ∃ u : State, exec (.copyingDone n k) s = .next u.settle ∧ u.regs = s.regs ∧ u.flights = s.flights ∧
      (u.stn n.val).table k.val = { (s.stn n.val).table k.val with idle := ((s.stn n.val).table k.val).active, state := .same } ∧
      ∀ m, m ≠ k.val → (u.stn n.val).table m = (s.stn n.val).table m)

/-- An AM boundary starts a period, or applies a lane drop with its resend; TRAIN starts training with no lanes in use; the
training steps check the driver, take the lanes' replies, map the lanes that a preset leaves without error, and end UP or
FAILED, each with the frames it sends; GO sends a SET-UP frame, at once or when Sweeper's frame ends, or reports NOT_SETUP; the frame's
end gives RESULT, data or a retry. A FIFO above 255 shows as 255 and a retry counts by the command: the model's readings (log entry 59).
(R251, R255, R256, R257, R259, R261, R354.) -/
def Obligations.LinkAndTraining : Prop :=
  (∀ (n : StnId) (s : State), s.serving = true → linkMap ≤ s.get (Reg.STN_LINK_STAT_STATE n.val) → s.get (Reg.STN_LINK_STAT_STATE n.val) ≤ linkUpSt →
    (s.stn n.val).dropLanes = 0 → s.get (Reg.STN_LINK_CTL_LANES_MIN n.val) ≤ s.get (Reg.STN_LINK_STAT_LANES n.val) →
    ∃ t, exec (.amBoundary n) s = .next t ∧ t.regs = s.regs ∧ t.stn n.val = { s.stn n.val with periods := (s.stn n.val).periods + 1, restart := none }) ∧
  (∀ (n : StnId) (s : State) (p : Nat), s.serving = true → s.get (Reg.STN_LINK_STAT_STATE n.val) = linkUpSt → (s.stn n.val).dropLanes ≠ 0 →
    s.get (Reg.STN_LINK_STAT_LMASK n.val) &&& (255 - (s.stn n.val).dropLanes % 256) ≠ 0 → (s.stn n.val).restart = some p →
    ∃ t, exec (.amBoundary n) s = .next t ∧ (t.stn n.val).dropLanes = 0 ∧ (t.stn n.val).restart = none ∧
      t.get (Reg.STN_LINK_STAT_LMASK n.val) = s.get (Reg.STN_LINK_STAT_LMASK n.val) &&& (255 - (s.stn n.val).dropLanes % 256) ∧
      t.get (Reg.STN_LINK_STAT_LANES n.val) = popcount 8 (s.get (Reg.STN_LINK_STAT_LMASK n.val) &&& (255 - (s.stn n.val).dropLanes % 256)) % 16 ∧
      t.get (Reg.STN_LINK_STAT_STATE n.val) = linkUpSt ∧ .control n 3 (p % 32) ∈ t.out ∧ t.get (Reg.STN_LEVENT_RESEND n.val) = 1) ∧
  (∀ (x : Sender) (n : StnId) (s : State), s.stnReaches x n.val 0x60 true = true → s.serving = true → s.stnArmed n.val = false →
    ∃ t, exec (.train x n) s = .next t ∧ t.get (Reg.STN_LINK_STAT_STATE n.val) = linkTrain ∧ t.get (Reg.STN_LINK_STAT_LMASK n.val) = 0 ∧
      t.get (Reg.STN_LINK_STAT_LANES n.val) = 0 ∧ t.get (Reg.STN_STATUS_DEG_LINK n.val) = 0 ∧
      t.stn n.val = { s.stn n.val with trainStep := some 1, prbs := [], dropLanes := 0, restart := none, eye := none } ∧
      t.out = s.out ++ [.setupFrame n false 0x00#7 0#16, .setupFrame n false 0x01#7 0#16]) ∧
  (∀ (n : StnId) (a b : BitVec 16) (s : State), s.serving = true → (s.stn n.val).trainStep = some 1 → a ≠ 0#16 → a ≠ 0xFFFF#16 → 32 ≤ b.toNat →
    ∃ t, exec (.trainingStepDone n [a, b]) s = .next t ∧ t.stn n.val = { s.stn n.val with trainStep := some 2 } ∧
      t.get (Reg.STN_LINK_INFO_FIFO n.val) = min 255 b.toNat ∧ t.out = s.out ++ [.setupFrame n true 0x12#7 1#16]) ∧
  (∀ (n : StnId) (a b : BitVec 16) (s : State), s.serving = true → (s.stn n.val).trainStep = some 1 → (a = 0#16 ∨ a = 0xFFFF#16 ∨ b.toNat < 32) →
    ∃ t, exec (.trainingStepDone n [a, b]) s = .next t ∧ (t.stn n.val).trainStep = none ∧ t.get (Reg.STN_LINK_STAT_STATE n.val) = linkFailed ∧
      t.get (Reg.STN_LINK_STAT_LMASK n.val) = 0 ∧ t.get (Reg.STN_LEVENT_TRAIN_FAIL n.val) = 1) ∧
  (∀ (n : StnId) (reply : List (BitVec 16)) (s : State), s.serving = true → (s.stn n.val).trainStep = some 2 →
    exec (.trainingStepDone n reply) s = .next { s.setStn n.val { s.stn n.val with trainStep := some 3 } with
      out := s.out ++ prbsRegs.map (fun a => .setupFrame n false a 0#16) }) ∧
  (∀ (n : StnId) (reply : List (BitVec 16)) (k : Nat) (s : State), s.serving = true → (s.stn n.val).trainStep = some k → 3 ≤ k → k ≤ 10 →
    ∃ t, exec (.trainingStepDone n reply) s = .next t ∧ t.regs = s.regs ∧ (t.stn n.val).trainStep = some (k + 1) ∧
      (∀ l, l < 8 → ((t.stn n.val).clean (k - 3) l = true ↔ reply.getD l 0xFFFF#16 = 0#16)) ∧
      t.out = s.out ++ (if k < 10 then prbsRegs.map (fun a => .setupFrame n false a 0#16) else [])) ∧
  (∀ (n : StnId) (reply : List (BitVec 16)) (s : State), s.serving = true → (s.stn n.val).trainStep = some 11 →
    (∃ l p, l < 8 ∧ p < 8 ∧ bit (s.get (Reg.STN_LINK_CTL_EXCL n.val)) l = false ∧ (s.stn n.val).clean p l = true) →
    ∃ t m, exec (.trainingStepDone n reply) s = .next t ∧ m < 256 ∧ t.get (Reg.STN_LINK_STAT_LMASK n.val) = m ∧
      (∀ l, l < 8 → (bit m l = true ↔ bit (s.get (Reg.STN_LINK_CTL_EXCL n.val)) l = false ∧ ∃ p, p < 8 ∧ (s.stn n.val).clean p l = true)) ∧
      t.get (Reg.STN_LINK_STAT_LANES n.val) = popcount 8 m % 16 ∧ t.get (Reg.STN_LINK_STAT_STATE n.val) = linkMap ∧
      (t.stn n.val).trainStep = some 12 ∧ t.out = s.out ++ [.setupFrame n true 0x10#7 (BitVec.ofNat 16 m), .setupFrame n true 0x12#7 0#16]) ∧
  (∀ (n : StnId) (reply : List (BitVec 16)) (s : State), s.serving = true → (s.stn n.val).trainStep = some 11 →
    (∀ l p, l < 8 → p < 8 → bit (s.get (Reg.STN_LINK_CTL_EXCL n.val)) l = false → (s.stn n.val).clean p l = false) →
    ∃ t, exec (.trainingStepDone n reply) s = .next t ∧ (t.stn n.val).trainStep = none ∧ t.get (Reg.STN_LINK_STAT_STATE n.val) = linkFailed ∧
      t.get (Reg.STN_LEVENT_TRAIN_FAIL n.val) = 1) ∧
  (∀ (n : StnId) (reply : List (BitVec 16)) (s : State), s.serving = true → (s.stn n.val).trainStep = some 12 →
    ∃ t, exec (.trainingStepDone n reply) s = .next t ∧ t.get (Reg.STN_LINK_STAT_STATE n.val) = linkAlign ∧ (t.stn n.val).trainStep = some 13 ∧
      t.out = s.out ++ [.setupFrame n false 0x11#7 0#16]) ∧
  (∀ (n : StnId) (a : BitVec 16) (s : State), s.serving = true → (s.stn n.val).trainStep = some 13 → a.toNat % 256 = s.get (Reg.STN_LINK_STAT_LMASK n.val) →
    bit a.toNat 15 = true → ∃ t, exec (.trainingStepDone n [a]) s = .next t ∧ t.get (Reg.STN_LINK_STAT_STATE n.val) = linkUpSt ∧
      t.get (Reg.STN_LEVENT_TRAIN_DONE n.val) = 1 ∧ (t.stn n.val).trainStep = none) ∧
  (∀ (x : Sender) (n : StnId) (v : Word) (s : State), s.stnReaches x n.val 0x68 true = true → s.flag (Reg.STN_SB_STAT_BUSY n.val) = false →
    s.setupOk n.val (bits v.toNat 6 0) = true → (s.stn n.val).swpFrame = false →
    ∃ t, exec (.go x n v) s = .next t ∧ t.get (Reg.STN_SB_STAT_BUSY n.val) = 1 ∧ (t.stn n.val).goWaits = false ∧
      (t.stn n.val).frame = some (bit v.toNat 16, BitVec.ofNat 7 (bits v.toNat 6 0), BitVec.ofNat 16 (s.get (Reg.STN_SB_DATA_DATA n.val)), 3) ∧
      t.out = s.out ++ [.setupFrame n (bit v.toNat 16) (BitVec.ofNat 7 (bits v.toNat 6 0)) (BitVec.ofNat 16 (s.get (Reg.STN_SB_DATA_DATA n.val)))]) ∧
  (∀ (x : Sender) (n : StnId) (v : Word) (s : State), s.stnReaches x n.val 0x68 true = true → s.flag (Reg.STN_SB_STAT_BUSY n.val) = false →
    s.setupOk n.val (bits v.toNat 6 0) = true → (s.stn n.val).swpFrame = true →
    ∃ t, exec (.go x n v) s = .next t ∧ t.get (Reg.STN_SB_STAT_BUSY n.val) = 1 ∧ (t.stn n.val).goWaits = true ∧ t.out = s.out ∧
      (t.stn n.val).frame = some (bit v.toNat 16, BitVec.ofNat 7 (bits v.toNat 6 0), BitVec.ofNat 16 (s.get (Reg.STN_SB_DATA_DATA n.val)), 3)) ∧
  (∀ (x : Sender) (n : StnId) (v : Word) (s : State), s.stnReaches x n.val 0x68 true = true → s.flag (Reg.STN_SB_STAT_BUSY n.val) = false →
    s.setupOk n.val (bits v.toNat 6 0) = false →
    ∃ t, exec (.go x n v) s = .next t ∧ t.get (Reg.STN_SB_STAT_RESULT n.val) = 3 ∧ t.get (Reg.STN_SB_STAT_BUSY n.val) = 0 ∧ t.stns = s.stns ∧
      t.out = s.out) ∧
  (∀ (n : StnId) (ok p : Bool) (d : BitVec 16) (s : State), (s.stn n.val).goWaits = true → exec (.setupFrameDone n ok p d) s = .next s) ∧
  (∀ (n : StnId) (p : Bool) (d w : BitVec 16) (a : BitVec 7) (k : Nat) (s : State), s.serving = true → (s.stn n.val).frame = some (true, a, w, k) → (s.stn n.val).goWaits = false →
    ∃ t, exec (.setupFrameDone n true p d) s = .next t ∧ t.get (Reg.STN_SB_STAT_BUSY n.val) = 0 ∧ t.get (Reg.STN_SB_STAT_RESULT n.val) = 0 ∧
      t.get (Reg.STN_LEVENT_SB_DONE n.val) = 1 ∧ (t.stn n.val).frame = none) ∧
  (∀ (n : StnId) (b : Bool) (d w : BitVec 16) (a : BitVec 7) (k : Nat) (s : State), s.serving = true → (s.stn n.val).frame = some (false, a, w, k) → (s.stn n.val).goWaits = false →
    ∃ t, exec (.setupFrameDone n b true d) s = .next t ∧ t.get (Reg.STN_SB_STAT_BUSY n.val) = 0 ∧ t.get (Reg.STN_SB_STAT_RESULT n.val) = 0 ∧
      t.get (Reg.STN_SB_DATA_DATA n.val) = d.toNat ∧ t.get (Reg.STN_LEVENT_SB_DONE n.val) = 1 ∧ (t.stn n.val).frame = none) ∧
  (∀ (n : StnId) (p : Bool) (d w : BitVec 16) (a : BitVec 7) (s : State), s.serving = true → (s.stn n.val).frame = some (true, a, w, 0) → (s.stn n.val).goWaits = false →
    ∃ t, exec (.setupFrameDone n false p d) s = .next t ∧ t.get (Reg.STN_SB_STAT_BUSY n.val) = 0 ∧ t.get (Reg.STN_SB_STAT_RESULT n.val) = 1 ∧
      (t.stn n.val).frame = none) ∧
  (∀ (n : StnId) (p : Bool) (d w : BitVec 16) (a : BitVec 7) (k : Nat) (s : State), s.serving = true → (s.stn n.val).frame = some (true, a, w, k + 1) → (s.stn n.val).goWaits = false →
    ∃ t, exec (.setupFrameDone n false p d) s = .next t ∧ t.regs = s.regs ∧ (t.stn n.val).frame = some (true, a, w, k) ∧
      t.out = s.out ++ [.setupFrame n true a w])

/-- TEMP, DEAD, LANE, LATE and FAULT reports set their registers and events, a repeated report acts once; LANE drops the lane
with a resend, none after an ABORT, or is late; a discarded frame sets SB_ERR; loss of the sideband blanks; an encoder counts
its transitions, an illegal one counts for its input and sets ENC_ERR, one too close sets OVERSPEED too; LOS is set and
cleared; a read of STN_ENC_LO latches the upper bits. That a repeated report is told by its TYPE, its ARG and a CNT one above (log entry
55), and that periods up to three back can be resent (log entry 53), are the model's readings. (R226, R235, R248, R249, R259, R262, R263, R266.) -/
def Obligations.ReportsAndEncoders : Prop :=
  (∀ (n : StnId) (c l : BitVec 2) (s : State), s.inReport n.val = true →
    ∃ t, exec (.temp n c l) s = .next t ∧ t.get (Reg.STN_TEMP_LEVEL n.val) = l.toNat ∧ t.get (Reg.STN_SB_RPT_TYPE n.val) = 1 ∧
      t.get (Reg.STN_SB_RPT_ARG n.val) = l.toNat ∧ (t.stn n.val).sbLost = false ∧ (t.stn n.val).cutoff = decide (l.toNat = 3) ∧
      (l.toNat = 3 → (s.stn n.val).cutoff = false → t.get (Reg.STN_STATUS_BLANK n.val) = 1) ∧
      (l.toNat ≠ s.get (Reg.STN_TEMP_LEVEL n.val) → (l.toNat = 1 → t.get (Reg.STN_EVENT_WARN n.val) = 1) ∧ (l.toNat = 2 → t.get (Reg.STN_EVENT_LIMIT n.val) = 1) ∧
        (l.toNat = 3 → t.get (Reg.STN_EVENT_CUTOFF n.val) = 1))) ∧
  (∀ (n : StnId) (c : BitVec 2) (e : BitVec 7) (s : State), s.inReport n.val = true → e.toNat < 72 →
    (s.stn n.val).lastRpt ≠ some (rptDead, e.toNat, (c.toNat + 3) % 4) →
    ∃ t, exec (.dead n c e) s = .next t ∧ bit (t.get (Reg.STN_DEAD_DEAD n.val (e.toNat / 18))) (e.toNat % 18) = true ∧
      t.get (Reg.STN_SB_RPT_TYPE n.val) = 2 ∧ t.get (Reg.STN_SB_RPT_ARG n.val) = e.toNat ∧
      (t.stn n.val).lastRpt = some (rptDead, e.toNat, c.toNat)) ∧
  (∀ (n : StnId) (c : BitVec 2) (e : BitVec 7) (s : State), s.inReport n.val = true → e.toNat < 72 →
    (s.stn n.val).lastRpt = some (rptDead, e.toNat, (c.toNat + 3) % 4) →
    exec (.dead n c e) s = .next (s.setStn n.val { s.stn n.val with lastRpt := none })) ∧
  (∀ (n : StnId) (c : BitVec 2) (l : BitVec 3) (a : BitVec 5) (s : State), s.inReport n.val = true →
    (s.stn n.val).lastRpt ≠ some (rptLane, l.toNat + 8 * a.toNat, (c.toNat + 3) % 4) →
    bit (s.get (Reg.STN_LINK_STAT_LMASK n.val)) l.toNat = true →
    ∃ t, exec (.lane n c l a) s = .next t ∧ t.get (Reg.STN_LEVENT_LANE_DOWN n.val) = 1 ∧
      (t.stn n.val).dropLanes = (s.stn n.val).dropLanes ||| 2 ^ l.toNat ∧
      ((s.stn n.val).aborted = false → ((s.stn n.val).periods : Int) - (s.stn n.val).periodOf (a.toNat + 1) ≤ 3 → (s.stn n.val).restart = none →
        (t.stn n.val).restart = some ((s.stn n.val).periodOf (a.toNat + 1)).toNat) ∧
      ((s.stn n.val).aborted = true → (t.stn n.val).restart = (s.stn n.val).restart) ∧
      t.get (Reg.STN_SB_RPT_TYPE n.val) = 3 ∧ t.get (Reg.STN_SB_RPT_ARG n.val) = l.toNat + 8 * a.toNat) ∧
  (∀ (n : StnId) (c : BitVec 2) (l : BitVec 3) (a : BitVec 5) (s : State), s.inReport n.val = true →
    (s.stn n.val).lastRpt ≠ some (rptLane, l.toNat + 8 * a.toNat, (c.toNat + 3) % 4) →
    bit (s.get (Reg.STN_LINK_STAT_LMASK n.val)) l.toNat = false ∨
      (s.stn n.val).aborted = false ∧ 3 < ((s.stn n.val).periods : Int) - (s.stn n.val).periodOf (a.toNat + 1) →
    ∃ t, exec (.lane n c l a) s = .next t ∧ t.get (Reg.STN_LEVENT_LANE_DOWN n.val) = 1 ∧ t.get (Reg.STN_LEVENT_LINK_LATE n.val) = 1 ∧
      t.get (Reg.STN_LINK_CNT_LATES n.val) = min (s.get (Reg.STN_LINK_CNT_LATES n.val) + 1) 511 ∧
      (t.stn n.val).restart = (s.stn n.val).restart) ∧
  (∀ (n : StnId) (c : BitVec 2) (f : Byte) (s : State), s.inReport n.val = true → (s.stn n.val).lastRpt ≠ some (rptLate, f.toNat, (c.toNat + 3) % 4) →
    ∃ t, exec (.late n c f) s = .next t ∧ t.get (Reg.STN_LEVENT_LINK_LATE n.val) = 1 ∧
      t.get (Reg.STN_LINK_CNT_LATES n.val) = min (s.get (Reg.STN_LINK_CNT_LATES n.val) + 1) 511 ∧ t.get (Reg.STN_SB_RPT_TYPE n.val) = 4 ∧
      t.get (Reg.STN_SB_RPT_ARG n.val) = f.toNat) ∧
  (∀ (n : StnId) (c : BitVec 2) (f : Byte) (s : State), s.inReport n.val = true →
    ∃ t, exec (.fault n c f) s = .next t ∧ t.get (Reg.STN_LEVENT_DRV_FAULT n.val) = 1 ∧ t.get (Reg.STN_SB_RPT_TYPE n.val) = 5 ∧
      t.get (Reg.STN_SB_RPT_ARG n.val) = f.toNat) ∧
  (∀ (n : StnId) (s : State), s.inReport n.val = true →
    ∃ t, exec (.sbErr n) s = .next t ∧ t.get (Reg.STN_LEVENT_SB_ERR n.val) = 1 ∧ t.stn n.val = { s.stn n.val with lastRpt := none }) ∧
  (∀ (n : StnId) (s : State), s.inReport n.val = true → (s.stn n.val).sbLost = false → (s.stn n.val).cutoff = false →
    ∃ t, exec (.sbLost n) s = .next t ∧ t.get (Reg.STN_LEVENT_SB_LOST n.val) = 1 ∧ (t.stn n.val).sbLost = true ∧ (t.stn n.val).cutoff = true ∧
      t.get (Reg.STN_STATUS_BLANK n.val) = 1) ∧
  (∀ (e : Fin 2) (b : BitVec 2) (d : Int) (s : State), s.serving = true → (s.enc e.val).los = false → quadStep (s.enc e.val).ba b = some d →
    ∃ t, exec (.encoderCount e b false) s = .next t ∧ t.enc e.val = { s.enc e.val with ba := b, count := (s.enc e.val).count + BitVec.ofInt 32 d }) ∧
  (∀ (e : Fin 2) (b : BitVec 2) (k : Bool) (n : StnId) (s : State), s.serving = true → (s.enc e.val).los = false → quadStep (s.enc e.val).ba b = none →
    n.val ∈ s.encUsers e.val → ∃ t, exec (.encoderCount e b k) s = .next t ∧
      t.enc e.val = { s.enc e.val with ba := b, errs := (s.enc e.val).errs + 1 } ∧ t.get (Reg.STN_LEVENT_ENC_ERR n.val) = 1) ∧
  (∀ (e : Fin 2) (b : BitVec 2) (d : Int) (n : StnId) (s : State), s.serving = true → (s.enc e.val).los = false →
    quadStep (s.enc e.val).ba b = some d → d ≠ 0 → n.val ∈ s.encUsers e.val → ∃ t, exec (.encoderCount e b true) s = .next t ∧
      t.get (Reg.STN_ENC_STAT_OVERSPEED n.val) = 1 ∧ t.get (Reg.STN_LEVENT_ENC_ERR n.val) = 1) ∧
  (∀ (e : Fin 2) (n : StnId) (s : State), s.serving = true → (s.enc e.val).los = false → n.val ∈ s.encUsers e.val →
    ∃ t, exec (.encoderLos e) s = .next t ∧ t.enc e.val = { s.enc e.val with los := true } ∧ t.get (Reg.STN_LEVENT_ENC_LOS n.val) = 1) ∧
  (∀ (e : Fin 2) (s : State), exec (.losClear e) s = .next (s.setEnc e.val { s.enc e.val with los := false })) ∧
  (∀ (x : Sender) (n : StnId) (s : State), s.reaches x (stnBase n.val + 0x49) false = true → s.stnEnabled n.val = true →
    ∃ t, exec (.encCountLatch x n) s = .next t ∧ t.get (Reg.STN_ENC_HI_CNT_HI n.val) = (s.enc (s.encSel n.val)).count.toNat / 2 ^ 18 ∧
      t.out = s.out ++ [.readData x (stnBase n.val + 0x49) (BitVec.ofNat 18 (s.enc (s.encSel n.val)).count.toNat)])

/-- A stage pulse with an empty queue counts as STRAY, else stamps the first record of its queue with the stage and the time,
and is held while the ledger is held; JAM empties the queues, or is held with their records (log entry 103); a timeout removes
its record from every queue, each once the errors of its record are met (log entry 124); a counter copy starts a page write at the page of its number, or is DUE; LED_CNT_SEL captures the
counter and the credit. (R67, R126, R275, R276, R277, R280, R287.) -/
def Obligations.PulsesAndCounters : Prop :=
  (∀ (p : Fin 3) (s : State), s.serving = true → s.pinOn p.val = true → s.ledHeld = false → s.queue p.val = [] →
    ∃ t, exec (.stagePulse p) s = .next t ∧ t.get Reg.LED_EVENT_STRAY = 1 ∧ t.get (strayField p.val) = min (s.get (strayField p.val) + 1) 15 ∧
      t.led = s.led ∧ t.arr = s.arr) ∧
  (∀ (p : Fin 3) (s : State) (i : Nat) (q : List Nat), s.serving = true → s.pinOn p.val = true → s.ledHeld = false → s.queue p.val = i :: q → i < 1048576 →
    ∃ t, exec (.stagePulse p) s = .next t ∧ i ∉ t.queue p.val ∧
      t.w18s (recAddr i) 8 = ({ ((s.meetRec i).record i).setProgress (4 + p.val) with time := s.stamp } : Rec).words) ∧
  (∀ (p : Fin 3) (s : State), s.serving = true → s.pinOn p.val = true → s.ledHeld = true →
    exec (.stagePulse p) s = .next { s with led := { s.led with held := s.led.held ++ [.pulse p s.stamp] } }) ∧
  (∀ (s : State), s.serving = true → s.flag Reg.LED_CTL_JAM = true → s.ledHeld = true →
    ∃ t, exec .jamPulse s = .next t ∧ t.get Reg.LED_EVENT_JAM = 1 ∧ t.led.held = s.led.held ++ [.jam s.queued s.stamp] ∧
      (∀ q, q < 3 → t.queue q = s.queue q) ∧ t.arr = s.arr) ∧
  (∀ (s : State), s.serving = true → s.flag Reg.LED_CTL_JAM = true → s.ledHeld = false →
    ∃ t, exec .jamPulse s = .next t ∧ t.get Reg.LED_EVENT_JAM = 1 ∧ ∀ q, q < 3 → t.queue q = []) ∧
  (∀ (q : Fin 3) (i : BitVec 20) (s : State), s.serving = true → s.queueLimit q.val ≠ 0 → i.toNat ∈ s.queue q.val → s.ledHeld = false →
    ∃ t, exec (.stageTimeout q i) s = .next t ∧ t.get Reg.LED_EVENT_TMO = 1 ∧ ∀ r, r < 3 → i.toNat ∉ t.queue r) ∧
  (∀ (s : State), s.serving = true → (s.flag Reg.LED_KEEP_STAT_DUE = true ∨ s.led.changed = true) → s.keepBusy = false → s.spillReady = false →
    ∃ t, exec .counterCopyStart s = .next t ∧ t.copiesCount = (s.copiesCount + 1) % 2 ^ 32 ∧ t.get Reg.LED_KEEP_STAT_DUE = 0 ∧
      t.get Reg.LED_KEEP_STAT_PAIR = (s.copiesCount + 1) % 2 ^ 32 / 2 ^ 20 % 64 ∧
      ∃ r, t.keep.run = some r ∧ r.writer = .counterCopy ∧ r.phase = 1 ∧
        r.page = 68 + 2 * ((s.copiesCount + 1) % 2 ^ 32 / 2 ^ 20 % 64) + (s.copiesCount + 1) % 2 ^ 32 % 2) ∧
  (∀ (s : State), s.serving = true → (s.flag Reg.LED_KEEP_STAT_DUE = true ∨ s.led.changed = true) → (s.keepBusy = true ∨ s.spillReady = true) →
    ∃ t, exec .counterCopyStart s = .next t ∧ t.get Reg.LED_KEEP_STAT_DUE = 1 ∧ t.keep = s.keep) ∧
  (∀ (x : Sender) (v : Word) (s : State), s.reaches x 0xC20 true = true → isH0 x = true →
    ∃ t, exec (.ledCntSel x v) s = .next t ∧ t.get Reg.LED_CNT_SEL_SEL = bits v.toNat 3 0 ∧
      ∀ k, k < 3 → t.get (Reg.LED_CNT_V_VALUE k) = s.counter (bits v.toNat 3 0) / 2 ^ (18 * k) % 2 ^ 18 ∧
        t.get (Reg.LED_CRD_V_CREDIT k) = s.credit (bits v.toNat 3 0) / 2 ^ (18 * k) % 2 ^ 18)

/-- A write to a queue with room appends the word with its sender's ID and raises ARRIVE; a pop of the receiver, of the firmware the
cluster in SERVER, returns the oldest word with HIT, SENDER and LEFT, or HIT 0 (log entry 78), and an emptied queue notifies its
writers, hosts and clusters; of two words in one cycle for one place the higher sender's stays; a write in the cycle of a pop follows
it; the firmware writes no full queue, owes a reply for each word and takes none while the replies owed exceed the room (log entry 79);
a possession register is granted to the first reader, held otherwise, and released by its owner's own write or by H0. (R309,
R310, R311, R312, R314, R317, R318, R320, log entry 78, log entry 79.) -/
def Obligations.MailboxesAndPossession : Prop :=
  (∀ (x : Sender) (c : Fin 8) (b : Bool) (v : Word) (s : State), s.reaches x ((if b then 0x301 else 0x300) + 0x10 * c.val) true = true →
    s.serving = true → s.mbMayWrite c.val b x = true → ((s.mbox c.val).queue b).length < 8 →
    ∃ t, exec (.mailboxWrite x c b ⟨v, []⟩) s = .next t ∧ (t.mbox c.val).queue b = (s.mbox c.val).queue b ++ [(v, x)] ∧
      x ∈ (t.mbox c.val).writers b ∧ (t.mbox c.val).queue (!b) = (s.mbox c.val).queue (!b) ∧
      ∀ h, s.mbEnd c.val b = .host h → t.get ((Reg.MB_EVENT_ARRIVE h).at c.val) = 1) ∧
  (∀ (x : Sender) (c : Fin 8) (b : Bool) (v : Word) (s : State), s.mbMayWrite c.val b x = false ∨ isFirmware x = true ∧ ((s.mbox c.val).queue b).length = 8 →
    exec (.mailboxWrite x c b ⟨v, []⟩) s = .next s) ∧
  (∀ (x y : Sender) (c : Fin 8) (b : Bool) (v w : Word) (m : Instr) (s : State), s.reaches x ((if b then 0x301 else 0x300) + 0x10 * c.val) true = true →
    s.reaches y ((if b then 0x301 else 0x300) + 0x10 * c.val) true = true → s.serving = true → s.mbMayWrite c.val b x = true → s.mbMayWrite c.val b y = true →
    ((s.mbox c.val).queue b).length = 7 → x.toNat < y.toNat → m = .mailboxWrite x c b ⟨v, [(y, w)]⟩ ∨ m = .mailboxWrite y c b ⟨w, [(x, v)]⟩ →
    ∃ t, exec m s = .next t ∧ (t.mbox c.val).queue b = (s.mbox c.val).queue b ++ [(w, y)] ∧
      t.get (if b then Reg.MB_STAT_COLLB c.val else Reg.MB_STAT_COLLA c.val) = 1 ∧
      t.get (if b then Reg.MB_COLL_LOSTB c.val else Reg.MB_COLL_LOSTA c.val) = x.toNat ∧
      t.get (if b then Reg.MB_COLL_NEWB c.val else Reg.MB_COLL_NEWA c.val) = y.toNat) ∧
  (∀ (x z : Sender) (c : Fin 8) (b : Bool) (v w : Word) (y : Sender) (q : List (Word × Sender)) (s : State),
    s.reaches x ((if b then 0x303 else 0x302) + 0x10 * c.val) false = true → s.serving = true → s.mbReceives c.val (s.mbEnd c.val b) x = true →
    s.reaches z ((if b then 0x301 else 0x300) + 0x10 * c.val) true = true → s.mbMayWrite c.val b z = true →
    (s.mbox c.val).queue b = (w, y) :: q → s.mbHolds c.val x = false → q.length < 8 →
    ∃ t, exec (.mailboxPop x c ⟨b, [(z, v)]⟩) s = .next t ∧ (t.mbox c.val).queue b = q ++ [(v, z)] ∧
      t.get (if b then Reg.MB_SRCB_LEFT c.val else Reg.MB_SRCA_LEFT c.val) = q.length ∧
      (.readData x ((if b then 0x303 else 0x302) + 0x10 * c.val) w) ∈ t.out ∧
      t.get (if b then Reg.MB_STAT_COLLB c.val else Reg.MB_STAT_COLLA c.val) = s.get (if b then Reg.MB_STAT_COLLB c.val else Reg.MB_STAT_COLLA c.val) ∧
      (∀ h, h < 5 → t.get ((Reg.MB_EVENT_EMPTIED h).at c.val) = s.get ((Reg.MB_EVENT_EMPTIED h).at c.val)) ∧
      ∀ y, .emptyNotice y c.val ∈ t.out → .emptyNotice y c.val ∈ s.out) ∧
  (∀ (x : Sender) (c : Fin 8) (b : Bool) (s : State), s.reaches x ((if b then 0x303 else 0x302) + 0x10 * c.val) false = true →
    s.serving = true → s.mbReceives c.val (s.mbEnd c.val b) x = true → (s.mbox c.val).queue b = [] → s.mbHolds c.val x = false →
    ∃ t, exec (.mailboxPop x c ⟨b, []⟩) s = .next t ∧ t.mboxes = s.mboxes ∧ t.get (if b then Reg.MB_SRCB_HIT c.val else Reg.MB_SRCA_HIT c.val) = 0 ∧
      t.out = s.out ++ [.readData x ((if b then 0x303 else 0x302) + 0x10 * c.val) 0]) ∧
  (∀ (x : Sender) (c : Fin 8) (b : Bool) (s : State) (w : Word) (y : Sender) (q : List (Word × Sender)),
    s.reaches x ((if b then 0x303 else 0x302) + 0x10 * c.val) false = true → s.serving = true → s.mbReceives c.val (s.mbEnd c.val b) x = true →
    (s.mbox c.val).queue b = (w, y) :: q → s.mbHolds c.val x = false → q.length < 8 →
    ∃ t, exec (.mailboxPop x c ⟨b, []⟩) s = .next t ∧ (t.mbox c.val).queue b = q ∧ t.get (if b then Reg.MB_SRCB_HIT c.val else Reg.MB_SRCA_HIT c.val) = 1 ∧
      t.get (if b then Reg.MB_SRCB_SENDER c.val else Reg.MB_SRCA_SENDER c.val) = y.toNat ∧
      t.get (if b then Reg.MB_SRCB_LEFT c.val else Reg.MB_SRCA_LEFT c.val) = q.length ∧
      (.readData x ((if b then 0x303 else 0x302) + 0x10 * c.val) w) ∈ t.out ∧
      (t.mbox c.val).owed = (s.mbox c.val).owed ++ (if isFirmware x = true ∧ c.val ≤ 4 then [replyTo w] else []) ∧
      (q = [] → (t.mbox c.val).writers b = [] ∧ ∀ z, z ∈ (s.mbox c.val).writers b →
        (∀ h, senderHost z = some h → t.get ((Reg.MB_EVENT_EMPTIED h).at c.val) = 1) ∧ (senderHost z = none → .emptyNotice z c.val ∈ t.out))) ∧
  (∀ (x : Sender) (c : Fin 8) (b : Bool) (s : State), s.reaches x ((if b then 0x303 else 0x302) + 0x10 * c.val) false = true →
    isFirmware x = true → c.val ≤ 4 → 8 < (s.mbox c.val).owed.length + (s.mbox c.val).toA.length →
    exec (.mailboxPop x c ⟨b, []⟩) s = .next { s with out := s.out ++ [.readData x ((if b then 0x303 else 0x302) + 0x10 * c.val) 0] }) ∧
  (∀ (x : Sender) (k : Fin 32) (s : State), s.reaches x (0x380 + k.val) false = true → s.serving = true → s.possOwner k.val = none →
    ∃ t, exec (.possRead x k) s = .next t ∧ t.possOwner k.val = some x ∧ t.out = s.out ++ [.readData x (0x380 + k.val) (BitVec.ofNat 18 (2 ^ 17 + x.toNat))] ∧
      ∀ j, j ≠ k.val → t.possOwner j = s.possOwner j) ∧
  (∀ (x o : Sender) (k : Fin 32) (s : State), s.reaches x (0x380 + k.val) false = true → s.serving = true → s.possOwner k.val = some o →
    exec (.possRead x k) s = .next { s with out := s.out ++ [.readData x (0x380 + k.val) (BitVec.ofNat 18 o.toNat)] }) ∧
  (∀ (x : Sender) (k : Fin 32) (v : Word) (s : State), s.reaches x (0x380 + k.val) true = true → s.serving = true →
    ∃ t, exec (.possRelease x k v) s = .next t ∧ (∀ j, j ≠ k.val → t.possOwner j = s.possOwner j) ∧
      t.possOwner k.val = if s.possOwner k.val = some x ∧ bits v.toNat 3 0 = x.toNat then none else s.possOwner k.val) ∧
  (∀ (x : Sender) (hi : Bool) (v : Word) (s : State), s.reaches x (if hi then 0x3B3 else 0x3B2) true = true → s.serving = true → isH0 x = true →
    ∃ t, exec (.possForce x hi v) s = .next t ∧
      ∀ k, k < 32 → t.possOwner k = if bit v.toNat (k % 16) = true ∧ decide (16 ≤ k) = hi then none else s.possOwner k) ∧
  (∀ (x : Sender) (hi : Bool) (v : Word) (s : State), isH0 x = false → exec (.possForce x hi v) s = .next s)

/-- A write to a full queue replaces the newest word and its stamp, sets COLLA or COLLB, records the sender of the replaced word as
LOST and the writer as NEW, and sets COLL in MB_EVENT of the receiver and of each colliding sender that is a host. (R313.) -/
def Obligations.MailboxCollisions : Prop :=
  (∀ (x : Sender) (c : Fin 8) (b : Bool) (v : Word) (s : State) (w : Word) (y : Sender) (q : List (Word × Sender)),
    s.reaches x ((if b then 0x301 else 0x300) + 0x10 * c.val) true = true → s.serving = true → s.mbMayWrite c.val b x = true →
    (s.mbox c.val).queue b = q ++ [(w, y)] → q.length = 7 →
    ∃ t, exec (.mailboxWrite x c b ⟨v, []⟩) s = .next t ∧ (t.mbox c.val).queue b = q ++ [(v, x)] ∧
      t.get (if b then Reg.MB_STAT_COLLB c.val else Reg.MB_STAT_COLLA c.val) = 1 ∧
      t.get (if b then Reg.MB_COLL_LOSTB c.val else Reg.MB_COLL_LOSTA c.val) = y.toNat ∧
      t.get (if b then Reg.MB_COLL_NEWB c.val else Reg.MB_COLL_NEWA c.val) = x.toNat ∧
      ∀ h, s.mbEnd c.val b = .host h ∨ senderHost y = some h ∨ senderHost x = some h → t.get (Reg.MB_EVENT_COLL h) = 1)

/-- A waiting page write starts with its words PENDING; each phase writes data, then COMMITTED; its end reports DONE, and for
each word that fails its verify VERIFY with the address and another value in the word; KEEP_RDATA and KEEP_WDATA use ADDR and
advance it; WRITE checks, refuses or submits the buffer, a hot page outside RUN and DRAIN with HOT_REFUSED; CLEAR empties it;
while the Keep is busy they leave the state; FLUSH, BP and KEEP_HOT act; the switch takes over the new range; after an
abandoned write a COMMITTED word is the old or the new word. (R289, R290, R291, R292, R293, R294, R295, R296, R299, R301,
R302, Table 11-3 (spec/11).) -/
def Obligations.KeepPageWrites : Prop :=
  (∀ (s : State) (p : Nat), s.keepAlive = true → s.keepBusy = false → s.spillReady = false → s.flag Reg.LED_KEEP_STAT_DUE = false → s.keep.flush = [] →
    s.submitPage = some p → p < 512 → (∀ e, e ∈ s.keep.buf → e.1 < 64) →
    ∃ t r, exec .pageWriteStart s = .next t ∧ t.keep.run = some r ∧ r.writer = .h0 ∧ r.page = p ∧ r.words = s.keep.buf ∧ r.phase = 1 ∧
      t.keep.buf = [] ∧ t.keep.submitted = false ∧ t.keep.bufPage = none ∧
      ∀ w, w < 32768 → t.keepArray w = if ∃ e, e ∈ s.keep.buf ∧ 64 * p + e.1 = w then keepWord tagPending (dataOf (s.keepArray w)) else s.keepArray w) ∧
  (∀ (s : State) (r : PageWrite), s.keep.run = some r → r.phase ≤ 3 → r.page < 512 → (∀ e, e ∈ r.words → e.1 < 64) → (r.words.map (·.1)).Nodup →
    ∃ t, exec .pageWritePhase s = .next t ∧ t.keep.run = some { r with phase := min 4 (r.phase + 1) } ∧
      (r.phase = 1 → ∀ w, t.keepArray w = s.keepArray w) ∧
      (∀ e, e ∈ r.words → (r.phase = 2 → t.keepArray (64 * r.page + e.1) = keepWord tagPending e.2) ∧ (r.phase = 3 → t.keepArray (64 * r.page + e.1) = keepWord tagCommitted e.2)) ∧
      ∀ w, w < 32768 → (∀ e, e ∈ r.words → 64 * r.page + e.1 ≠ w) → t.keepArray w = s.keepArray w) ∧
  (∀ (s : State) (r : PageWrite) (bad : List (BitVec 15)), s.keep.run = some r → 3 ≤ r.phase → r.writer = .h0 → s.pwr.scriptWait = none →
    bad.Nodup → (∀ a, a ∈ bad → r.loads a.toNat = true) →
    ∃ u : State, exec (.pageWriteDone bad) s = .next u.settle ∧ u.keep.run = none ∧ u.get Reg.KEEP_EVENT_DONE = 1 ∧
      (bad = [] → u.get Reg.KEEP_EVENT_VERIFY = s.get Reg.KEEP_EVENT_VERIFY ∧ u.dev = s.dev) ∧
      (∀ l a, bad = l ++ [a] → u.get Reg.KEEP_EVENT_VERIFY = 1 ∧ u.get Reg.KEEP_FAIL_ADDR = a.toNat) ∧
      (∀ w, w < 32768 → (∀ a, a ∈ bad → a.toNat ≠ w) → r.phase ≠ 3 → u.keepArray w = s.keepArray w) ∧
      ∀ a, a ∈ bad → (r.phase ≠ 3 → u.keepArray a.toNat ≠ s.keepArray a.toNat) ∧
        ((r.words.map (·.1)).Nodup → r.phase = 3 → ∀ e, e ∈ r.words → 64 * r.page + e.1 = a.toNat →
          u.keepArray a.toNat ≠ keepWord tagCommitted e.2)) ∧
  (∀ (x : Sender) (s : State), s.keepOpen x 0x283 false = true → s.addrBusy = false →
    ∃ t, exec (.keepRdata x) s = .next t ∧ t.get Reg.KEEP_ADDR_ADDR = (s.get Reg.KEEP_ADDR_ADDR + 1) % 32768 ∧
      t.out = s.out ++ [.readData x 0x283 (s.readKeep (s.get Reg.KEEP_ADDR_ADDR))]) ∧
  (∀ (x : Sender) (s : State), s.reaches x 0x283 false = true → isH0 x = false →
    exec (.keepRdata x) s = .next { s with out := s.out ++ [.readData x 0x283 0] }) ∧
  (∀ (x : Sender) (v : Word) (s : State), s.keepOpen x 0x284 true = true → s.addrBusy = false →
    ∃ t, exec (.keepWdata x v) s = .next t ∧
      (s.keep.bufPage = none → t.keep.buf = [(s.get Reg.KEEP_ADDR_ADDR % 64, v.setWidth 16)] ∧ t.keep.bufPage = some (s.get Reg.KEEP_ADDR_ADDR / 64) ∧
        t.get Reg.KEEP_ADDR_ADDR = (s.get Reg.KEEP_ADDR_ADDR + 1) % 32768) ∧
      (s.keep.bufPage = some (s.get Reg.KEEP_ADDR_ADDR / 64) →
        t.keep.buf = (s.keep.buf.filter fun e => decide (e.1 ≠ s.get Reg.KEEP_ADDR_ADDR % 64)) ++ [(s.get Reg.KEEP_ADDR_ADDR % 64, v.setWidth 16)] ∧
        t.keep.bufPage = s.keep.bufPage ∧ t.get Reg.KEEP_ADDR_ADDR = (s.get Reg.KEEP_ADDR_ADDR + 1) % 32768) ∧
      (∀ q, s.keep.bufPage = some q → q ≠ s.get Reg.KEEP_ADDR_ADDR / 64 → t.keep.buf = s.keep.buf ∧ t.keep.bufPage = some q ∧ t.get Reg.KEEP_EVENT_LOAD_ERR = 1)) ∧
  (∀ (x : Sender) (s : State), s.keepOpen x 0x285 true = true → s.keep.bufPage = none → exec (.keepCmdWrite x) s = .next s) ∧
  (∀ (x : Sender) (s : State) (p : Nat), s.keepOpen x 0x285 true = true → s.keep.bufPage = some p → s.keepWaits p = false →
    ∃ t, exec (.keepCmdWrite x) s = .next t ∧
      ((s.keepCheck 0#4 (s.keep.buf.map (fun e => 64 * p + e.1))).isSome = true → t.keep.buf = [] ∧ t.keep.submitted = false ∧ t.get Reg.KEEP_EVENT_REFUSED = 1) ∧
      ((s.keepCheck 0#4 (s.keep.buf.map (fun e => 64 * p + e.1))).isSome = false → s.isHot p = true → t = (s.writeHot p s.keep.buf).clearBuffer) ∧
      ((s.keepCheck 0#4 (s.keep.buf.map (fun e => 64 * p + e.1))).isSome = false → s.inHot p = false → t.keep = { s.keep with submitted := true }) ∧
      ((s.keepCheck 0#4 (s.keep.buf.map (fun e => 64 * p + e.1))).isSome = false → s.serving = false → s.inHot p = true →
        t.keep = { s.keep with buf := [], bufPage := none, submitted := false } ∧ t.get Reg.KEEP_EVENT_HOT_REFUSED = 1)) ∧
  (∀ (x : Sender) (s : State), s.keepOpen x 0x285 true = true → s.keepBusy = false →
    ∃ t, exec (.clear x) s = .next t ∧ t.keep = { s.keep with buf := [], bufPage := none, submitted := false } ∧ t.regs = s.regs) ∧
  (∀ (x : Sender) (s : State), s.keepBusy = true → exec (.clear x) s = .next s ∧ (s.keep.bufPage.any (fun p => s.isHot p) = false → exec (.keepCmdWrite x) s = .next s) ∧
    (s.isHot (s.get Reg.KEEP_ADDR_ADDR / 64) = false → (isH0 x = true → exec (.keepRdata x) s = .next s) ∧ ∀ v, exec (.keepWdata x v) s = .next s)) ∧
  (∀ (x : Sender) (s : State), s.keepOpen x 0x285 true = true → s.pwr.st = .run → s.keep.flushFor = none → s.keep.hotNext = none →
    (∃ p, p ∈ s.hotPages ∧ s.hotDiff p ≠ []) →
    ∃ t, exec (.flush x) s = .next t ∧ t.keep.flush = s.hotPages.filter (fun p => !(s.hotDiff p).isEmpty) ∧ t.keep.flushFor = some .command) ∧
  (∀ (x : Sender) (bp : BitVec 2) (s : State), s.reaches x 0x280 true = true → isH0 x = true → s.keepBusy = false → s.get Reg.KEEP_CTL_BP ≠ bp.toNat →
    ∃ t r, exec (.bpUpdate x bp) s = .next t ∧ t.get Reg.KEEP_CTL_BP = bp.toNat ∧ t.keep.run = some r ∧ r.writer = .bp ∧ r.page = 63 ∧ r.phase = 1 ∧
      r.words = [(63, BitVec.ofNat 16 bp.toNat)] ∧ t.keepArray 0x0FFF = keepWord tagPending (dataOf (s.keepArray 0x0FFF))) ∧
  (∀ (x : Sender) (bp : BitVec 2) (s : State), s.keepBusy = true → exec (.bpUpdate x bp) s = .next s) ∧
  (∀ (x : Sender) (v : Word) (s : State), s.reaches x 0x289 true = true → isH0 x = true → s.pwr.st = .run → s.keep.hotNext = none →
    hotRangeOk (bits v.toNat 8 0) (bits v.toNat 11 9) = true →
    ∃ u : State, exec (.keepHot x v) s = .next u.settle ∧ u.keep.hotNext = some (bits v.toNat 8 0, bits v.toNat 11 9) ∧
      u.keep.hotRange = s.keep.hotRange ∧ u.keep.hot = s.keep.hot) ∧
  (∀ (r : Nat × Nat) (s : State), s.keep.hotNext = some r → s.serving = true → s.keep.flush = [] → s.keep.flushFor = none → s.keepBusy = false →
    hotRangeOk r.1 r.2 = true →
    ∃ u : State, exec .hotRangeSwitch s = .next u.settle ∧ u.keep.hotRange = r ∧ u.keep.hotNext = none ∧ u.get Reg.KEEP_HOT_FIRST = r.1 % 512 ∧
      u.get Reg.KEEP_HOT_PAGES = r.2 ∧ ∀ i, i < 64 * r.2 → u.hotWord (64 * r.1 + i) = s.keepArray (64 * r.1 + i)) ∧
  (∀ (s : State) (r : PageWrite) (w : Nat), s.keep.run = some r → r.page < 512 → (∀ e, e ∈ r.words → e.1 < 64) → w < 32768 →
    tagOf (s.keepAbandon.keepArray w) = tagCommitted →
    s.keepAbandon.keepArray w = s.keepArray w ∨ ∃ e o, (e, o) ∈ r.words.zip r.old ∧ 64 * r.page + e.1 = w ∧
      (s.keepAbandon.keepArray w = o.2 ∨ s.keepAbandon.keepArray w = keepWord tagCommitted e.2))

/-- The tick advances the clock and a rollover sets OSF with ROLL; an alarm at its instant fires and computes again; an alarm
write starts its computation, whose end shows the next instant or NONE; a valid register set sets the clock, clears OSF while
the crystal runs, and fires skipped alarms; a bad one sets SET_BAD; a time-block read freezes the reader's shadow and YEAR
releases it; loss and return of the supply set and keep OSF. (R322, R325, R326, R327, R328, R329, R330, R331, R332, R333, R335,
R392.) -/
def Obligations.ClockCommands : Prop :=
  (∀ (s : State), s.clockRuns = true → s.rtc.now.subsec < 1023 →
    exec .rtcTick s = .next { s with rtc := { s.rtc with now := { s.rtc.now with subsec := s.rtc.now.subsec + 1 } } }) ∧
  (∀ (s : State), s.clockRuns = true → ∃ t, exec .rtcTick s = .next t ∧ t.rtc.now = s.rtc.now.tick.1 ∧
    (s.rtc.now.tick.2 = true → t.get Reg.RTC_STATUS_OSF = 1 ∧ t.get Reg.RTC_STATUS_ROLL = 1)) ∧
  (∀ (k : Fin 2) (s : State), s.clockRuns = true → s.pwr.st ≠ .off → s.rtc.now.tick.1.subsec = 0 → s.get (Reg.RTC_ALM_0_EN k.val) = 1 →
    s.alarmNext k.val = some s.rtc.now.tick.1.seconds →
    ∃ t, exec .rtcTick s = .next t ∧ t.get (almEvent k.val) = 1 ∧ t.get (Reg.RTC_ALM_0_BUSY k.val) = 1) ∧
  (∀ (s : State), s.clockRuns = true → exec .trimWindow s = .next { s with rtc := { s.rtc with trim := signed 10 (s.get Reg.RTC_CTL_TRIM) } }) ∧
  (∀ (x : Sender) (k : Fin 2) (w : Fin 3) (v : Word) (s : State), s.reaches x (0x210 + 4 * k.val + w.val) true = true → isH0 x = true →
    ∃ t, exec (.alarmWrite x k w v) s = .next t ∧ t.get (Reg.RTC_ALM_0_BUSY k.val) = 1 ∧ Map.get (fun _ => {}) t.rtc.start k.val = s.rtc.now ∧
      (w.val = 0 → t.get (Reg.RTC_ALM_0_EN k.val) = bits v.toNat 17 17 ∧ t.get (Reg.RTC_ALM_0_WAKE k.val) = bits v.toNat 16 16 ∧
        t.get (Reg.RTC_ALM_0_MASK k.val) = bits v.toNat 15 9 ∧ t.get (Reg.RTC_ALM_0_WDAY k.val) = bits v.toNat 8 6 ∧
        t.get (Reg.RTC_ALM_0_NONE k.val) = s.get (Reg.RTC_ALM_0_NONE k.val)) ∧
      (w.val = 1 → t.get (Reg.RTC_ALM_1_MIN k.val) = bits v.toNat 16 11 ∧ t.get (Reg.RTC_ALM_1_SEC k.val) = bits v.toNat 10 5 ∧
        t.get (Reg.RTC_ALM_1_HOUR k.val) = bits v.toNat 4 0) ∧
      (w.val = 2 → t.get (Reg.RTC_ALM_2_YEAR k.val) = bits v.toNat 16 9 ∧ t.get (Reg.RTC_ALM_2_MONTH k.val) = bits v.toNat 8 5 ∧
        t.get (Reg.RTC_ALM_2_DAY k.val) = bits v.toNat 4 0)) ∧
  (∀ (x : Sender) (k : Fin 2) (w : Fin 3) (v : Word) (s : State), isH0 x = false → exec (.alarmWrite x k w v) s = .next s) ∧
  (∀ (k : Fin 2) (s : State), s.pwr.st ≠ .off → s.get (Reg.RTC_ALM_0_BUSY k.val) = 1 → s.nextInstant k.val (Map.get (fun _ => {}) s.rtc.start k.val) = none →
    ∃ t, exec (.alarmComputeDone k) s = .next t ∧ t.get (Reg.RTC_ALM_0_BUSY k.val) = 0 ∧ t.get (Reg.RTC_ALM_0_NONE k.val) = 1) ∧
  (∀ (k : Fin 2) (s : State) (n : Nat), s.pwr.st ≠ .off → s.get (Reg.RTC_ALM_0_BUSY k.val) = 1 →
    s.nextInstant k.val (Map.get (fun _ => {}) s.rtc.start k.val) = some n →
    ∃ t, exec (.alarmComputeDone k) s = .next t ∧ t.get36 (Reg.RTC_NEXT_LO k.val) (Reg.RTC_NEXT_HI k.val) = n * 1024 % 2 ^ 36 ∧
      t.get (Reg.RTC_ALM_0_NONE k.val) = 0 ∧
      (s.rtc.now.seconds < n ∨ s.get (Reg.RTC_ALM_0_EN k.val) = 0 → t.get (Reg.RTC_ALM_0_BUSY k.val) = 0 ∧ t.alarmNext k.val = some n) ∧
      (n ≤ s.rtc.now.seconds → s.get (Reg.RTC_ALM_0_EN k.val) = 1 → t.get (almEvent k.val) = 1 ∧ t.get (Reg.RTC_ALM_0_BUSY k.val) = 1 ∧
        t.get (skipEvent k.val) = s.get (skipEvent k.val))) ∧
  (∀ (x : Sender) (s : State), s.reaches x 0x20C true = true → s.mayClock x = true → s.setBuffer.valid = true →
    ∃ t, exec (.registerSet x) s = .next t ∧ t.rtc.now = s.setBuffer ∧
      (s.pwr.xtal = true → s.pwr.clockHeld = false → t.get Reg.RTC_STATUS_OSF = 0 ∧ t.get Reg.RTC_STATUS_ATTACH = 0 ∧ t.get Reg.RTC_STATUS_STOP = 0 ∧
        t.get Reg.RTC_STATUS_LOWBAT = 0 ∧ t.get Reg.RTC_STATUS_ROLL = 0) ∧
      (s.pwr.xtal = false → t.get Reg.RTC_STATUS_OSF = s.get Reg.RTC_STATUS_OSF) ∧
      ∀ k, k < 2 → t.get (Reg.RTC_ALM_0_BUSY k) = 1 ∧ (∀ n, s.alarmNext k = some n → s.get (Reg.RTC_ALM_0_EN k) = 1 → n ≤ s.setBuffer.seconds →
        t.get (almEvent k) = 1 ∧ t.get (skipEvent k) = 1)) ∧
  (∀ (x : Sender) (s : State), s.reaches x 0x20C true = true → s.mayClock x = true → s.setBuffer.valid = false →
    ∃ t, exec (.registerSet x) s = .next t ∧ t.get Reg.RTC_EVENT_SET_BAD = 1 ∧ t.rtc = s.rtc ∧ t.get Reg.RTC_STATUS_OSF = s.get Reg.RTC_STATUS_OSF) ∧
  (∀ (x : Sender) (s : State), s.mayClock x = false → exec (.registerSet x) s = .next s) ∧
  (∀ (x : Sender) (w : Fin 6) (s : State), s.reaches x (0x200 + w.val) false = true →
    Map.get (fun _ => none) s.rtc.shadows (requester x) = none →
    ∃ t, exec (.timeBlockRead x w) s = .next t ∧
      t.out = s.out ++ [.readData x (0x200 + w.val) (timeWord (s.rtc.now, s.flag Reg.RTC_STATUS_OSF) w.val)] ∧
      Map.get (fun _ => none) t.rtc.shadows (requester x) = (if w.val = 3 then none else some (s.rtc.now, s.flag Reg.RTC_STATUS_OSF)) ∧
      ∀ y, requester y ≠ requester x → t.shadow y = s.shadow y) ∧
  (∀ (x : Sender) (w : Fin 6) (s : State) (c : Calendar) (o : Bool), s.reaches x (0x200 + w.val) false = true →
    Map.get (fun _ => none) s.rtc.shadows (requester x) = some (c, o) →
    ∃ t, exec (.timeBlockRead x w) s = .next t ∧ t.out = s.out ++ [.readData x (0x200 + w.val) (timeWord (c, o) w.val)] ∧
      Map.get (fun _ => none) t.rtc.shadows (requester x) = (if w.val = 3 then none else some (c, o)) ∧
      ∀ y, requester y ≠ requester x → t.shadow y = s.shadow y) ∧
  (∀ (x : Sender) (s : State), s.pwr.st ≠ .off →
    ∃ t, exec (.shadowRelease x) s = .next t ∧ t.shadow x = (s.rtc.now, s.flag Reg.RTC_STATUS_OSF) ∧ ∀ y, requester y ≠ requester x → t.shadow y = s.shadow y) ∧
  (∀ (s : State), s.pwr.retained = true → s.pwr.clockHeld = false → s.pwr.st = .off →
    ∃ t, exec .retentionFail s = .next t ∧ t.get Reg.RTC_STATUS_OSF = 1 ∧ t.get Reg.RTC_STATUS_LOWBAT = 1 ∧ t.pwr.clockHeld = true ∧ t.pwr.heldLost = true ∧
      t.rtc = s.rtc ∧ t.clockRuns = false) ∧
  (∀ (s : State), s.pwr.retained = false →
    ∃ t, exec .cellAttach s = .next t ∧ t.rtc.now = {} ∧ t.get Reg.RTC_STATUS_OSF = 1 ∧ t.get Reg.RTC_STATUS_ATTACH = 1 ∧ t.get Reg.RTC_EVENT_OSF = 1 ∧
      t.get Reg.SUP_FIRST_SPILL_PENDING = 0 ∧ t.get Reg.RTC_CTL = 0 ∧ t.pwr.retained = true ∧ t.pwr.clockHeld = false) ∧
  (∀ (s : State), exec .vbatReturn s = .next { s with pwr := { s.pwr with clockHeld := false } })

/-- From a valid calendar a tick gives a valid calendar exactly 1/1024 s later, except at the last instant of 2199, where it
gives 2000-01-01 00:00:00; WDAY advances modulo 7 at midnight alone. (R203, R322, Table 13-1 (spec/13).) -/
def Obligations.CalendarTick : Prop :=
  ∀ (c : Calendar), c.valid = true → c.tick.1.valid = true ∧
    (c.tick.2 = false → c.tick.1.seconds * 1024 + c.tick.1.subsec = c.seconds * 1024 + c.subsec + 1) ∧
    (c.tick.2 = true → c.year = 199 ∧ c.month = 12 ∧ c.day = 31 ∧ c.hour = 23 ∧ c.min = 59 ∧ c.sec = 59 ∧ c.subsec = 1023 ∧
      c.tick.1 = { subsec := 0, sec := 0, min := 0, hour := 0, wday := (c.wday + 1) % 7, day := 1, month := 1, year := 0 }) ∧
    c.tick.1.wday = if c.hour = 23 ∧ c.min = 59 ∧ c.sec = 59 ∧ c.subsec = 1023 then (c.wday + 1) % 7 else c.wday

/-- A frame shifts out the status byte, with STATE and BUSY as they stood when MSS_N fell, the previous frame's address, a NOP's
too, and read data once 40 ns, or 720 ns of an Umber register, have passed; WRITE and READ act as the register access of H0; a
frame at an address that no table lists is taken; a WRITE in VOLLEY is refused with STATE, a busy Keep access with BUSY, an unknown
opcode or address with OPCODE or ADDRESS, and changes no register but ID_MPORT; a short frame sets SHORT alone; a TAP takes its
instruction, shifts its boundary register, and falls to BYPASS in Test-Logic-Reset. That a frame at such an address answers 0 (log entry
85), and that one command captures, shifts and updates Umber's 56 cells (log entry 86), are the model's choices. (R294, R337, R338, R339, R340, R341, R342, R343,
R344, R346, R348, R350.) -/
def Obligations.ManagementPort : Prop :=
  (∀ (g : FrameStart) (a : BitVec 12) (s : State), s.mportLive = true →
    exec (.mportNop g a) s = .next { s with out := s.out ++ [.miso (s.misoFrame g)], mport := { prevAddr := a.toNat, prevRead := none, prevRej := false } }) ∧
  (∀ (g : FrameStart) (s : State), s.mport.prevAddr < 2 ^ 14 →
    (s.misoFrame g).toNat / 2 ^ 38 = 2 ∧ bit (s.misoFrame g).toNat 37 = (match g.fell with | some f => f.2 | none => s.keepBusy) ∧
      bit (s.misoFrame g).toNat 36 = (s.validData g.gap).isSome ∧ bit (s.misoFrame g).toNat 35 = s.mport.prevRej ∧
      bits (s.misoFrame g).toNat 34 32 = (match g.fell with | some f => f.1.toNat | none => s.pwr.st.code) ∧
      bits (s.misoFrame g).toNat 31 18 = s.mport.prevAddr ∧ bits (s.misoFrame g).toNat 17 0 = ((s.validData g.gap).getD 0).toNat) ∧
  (∀ (gap : Nat) (v : Word) (s : State), s.mport.prevRead = some v →
    s.validData gap = if (if umber s.mport.prevAddr then 720 else 40) ≤ gap then some v else none) ∧
  (∀ (g : FrameStart) (a : BitVec 12) (v : Word) (s : State), s.mportLive = true → s.mportReaches a.toNat true = true →
    s.frameBusy a.toNat true v = false → s.pwr.st ≠ .volley →
    ∃ u : State, exec (.registerWrite 0 (.reg a) (.word v)) { s with out := s.out ++ [.miso (s.misoFrame g)] } = .next u ∧
      exec (.mportWrite g a v) s = .next { u with mport := { prevAddr := a.toNat, prevRead := none, prevRej := false } }) ∧
  (∀ (g : FrameStart) (a : BitVec 12) (s : State), s.mportLive = true → s.frameAllowed a.toNat false = true → s.frameBusy a.toNat false 0 = false →
    exec (.mportRead g a) s = .next { (({ s with out := s.out ++ [.miso (s.misoFrame g)] } : State).readReg 0 a.toNat).1 with
      mport := { prevAddr := a.toNat, prevRead := some ((({ s with out := s.out ++ [.miso (s.misoFrame g)] } : State).readReg 0 a.toNat).2), prevRej := false } }) ∧
  (∀ (g : FrameStart) (a : BitVec 12) (s : State), s.mportLive = true → fieldsAt a.toNat = [] →
    ∃ t, exec (.mportRead g a) s = .next t ∧ t.mport = { prevAddr := a.toNat, prevRead := some 0, prevRej := false } ∧ t.regs = s.regs) ∧
  (∀ (g : FrameStart) (a : BitVec 12) (v : Word) (s : State), s.mportLive = true → s.pwr.st = .volley → fieldsAt a.toNat ≠ [] →
    ∃ t, exec (.mportWrite g a v) s = .next t ∧ t.get Reg.ID_MPORT_REASON = 4 ∧ t.get Reg.ID_MPORT_ADDR = a.toNat ∧ t.mport.prevRej = true ∧
      t.mport.prevRead = none ∧ ∀ b, b ≠ Reg.ID_MPORT.addr → t.reg b = s.reg b) ∧
  (∀ (g : FrameStart) (a : BitVec 12) (s : State), s.mportLive = true → s.frameAllowed a.toNat false = true → s.frameBusy a.toNat false 0 = true →
    ∃ t, exec (.mportRead g a) s = .next t ∧ t.get Reg.ID_MPORT_REASON = 3 ∧ t.get Reg.ID_MPORT_ADDR = a.toNat ∧ t.mport.prevRej = true ∧
      t.mport.prevRead = none ∧ ∀ b, b ≠ Reg.ID_MPORT.addr → t.reg b = s.reg b) ∧
  (∀ (g : FrameStart) (o : Byte) (a : BitVec 14) (s : State), s.mportLive = true → (o ≠ 0x00 ∧ o ≠ 0x02 ∧ o ≠ 0x03) ∨ 4096 ≤ a.toNat →
    ∃ t, exec (.frameRefused g o a) s = .next t ∧ t.get Reg.ID_MPORT_REASON = (if o ≠ 0x00 ∧ o ≠ 0x02 ∧ o ≠ 0x03 then 1 else 2) ∧
      t.get Reg.ID_MPORT_ADDR = a.toNat ∧ t.mport.prevRej = true ∧ t.mport.prevRead = none ∧ t.mport.prevAddr = a.toNat ∧
      ∀ b, b ≠ Reg.ID_MPORT.addr → t.reg b = s.reg b) ∧
  (∀ (e : Nat) (s : State), s.mportLive = true → e < 40 → exec (.shortFrame e) s = .next (s.put Reg.ID_MPORT_SHORT 1)) ∧
  (∀ (u : Bool) (c : BitVec 4) (s : State), s.tapLive u = true →
    exec (.tapInstruction u (.load c)) s = .next { s with
      out := s.out ++ [.tdo u [true, false, false, false]]
      fw := (if u then { s.fw with tapUmber := tapDecode true c } else { s.fw with tapSep := tapDecode false c }) }) ∧
  (∀ (u : Bool) (s : State), s.tapLive u = true →
    exec (.tapInstruction u .testReset) s =
      .next { s with fw := (if u then { s.fw with tapUmber := .bypass } else { s.fw with tapSep := .bypass }) }) ∧
  (∀ (levels : Nat) (shift : List Bool) (s : State), s.tapLive true = true → s.fw.tapUmber = .samplePreload →
    exec (.tapInstruction true (.scan levels shift)) s =
      .next { s with
        fw := { s.fw with bndUmber := BitVec.ofNat 56 (shiftBits 56 shift (s.bndCapture true levels)).1 }
        out := s.out ++ [.tdo true (shiftBits 56 shift (s.bndCapture true levels)).2] }) ∧
  (∀ (shift : List Bool) (r : Nat), shift.length = 56 → r < 2 ^ 56 →
    (shiftBits 56 shift r).2 = (List.range 56).map (bit r) ∧ ∀ i, i < 56 → bit (shiftBits 56 shift r).1 i = shift.getD i false)

/-- For every register, old value, written value and lock, each bit takes the written bit (RW; RWL while the lock is open),
stays (RO, WO, RWL while closed, bits of no field), or is cleared by a 1 (W1C). (R19, R21.) -/
def Obligations.AccessCodes : Prop :=
  ∀ (a : Nat) (old v : Word) (u : Bool) (i : Nat), i < 18 →
    ((∀ f, f ∈ fieldsAt a → ¬ (f.lo ≤ i ∧ i ≤ f.hi)) → (written a old v u).getLsbD i = old.getLsbD i) ∧
    ∀ f, f ∈ fieldsAt a → f.lo ≤ i → i ≤ f.hi →
      (written a old v u).getLsbD i = (match f.acc with
        | .rw => v.getLsbD i
        | .rwl => if u then v.getLsbD i else old.getLsbD i
        | .w1c => old.getLsbD i && !v.getLsbD i
        | .ro => old.getLsbD i
        | .wo => old.getLsbD i)

/-- A write of a register without further effect stores exactly the writable bits; a limit register keeps HI above LO; a
reserved address, a sender that does not reach the register, or the window of a station that is not enabled leaves the state as
it was. (R19, R21, R154, R240, R266, R350.) -/
def Obligations.RegisterWrites : Prop :=
  (∀ (x : Sender) (a : BitVec 12) (v : Word) (s : State), s.reaches x a.toNat true = true →
    a ∈ [0x122, 0x123, 0x20D, 0x20E, 0x21C, 0x21D, 0x400, 0xC02, 0xC03, 0xD06, 0xD07, 0xE12, 0xE13] →
    exec (.registerWrite x (.reg a) (.word v)) s = .next (s.setReg a.toNat (written a.toNat (s.reg a.toNat) v (isH0 x)))) ∧
  (∀ (x : Sender) (a : BitVec 12) (v : Word) (s : State), s.reaches x a.toNat true = true → a ∈ [0x000, 0x00C, 0x286, 0x287, 0x403, 0x404, 0x618, 0x619] →
    exec (.registerWrite x (.reg a) (.word v)) s = .next (s.setReg a.toNat (written a.toNat (s.reg a.toNat) v false))) ∧
  (∀ (x : Sender) (v : Word) (s : State), s.reaches x 0x100 true = true → ∃ u : Word, bits u.toNat 15 8 = bits v.toNat 15 8 ∧
    bits u.toNat 7 0 = max 50 (min 180 (bits v.toNat 7 0)) ∧ exec (.registerWrite x (.reg 0x100) (.word v)) s =
      .next (if bits u.toNat 15 8 ≤ bits u.toNat 7 0 then s else s.setReg 0x100 (written 0x100 (s.reg 0x100) u (isH0 x)))) ∧
  (∀ (x : Sender) (c : Fin 12) (v : Word) (s : State), s.reaches x (0x101 + c.val) true = true → c.val < 11 →
    exec (.registerWrite x (.reg (BitVec.ofNat 12 (0x101 + c.val))) (.word v)) s =
      .next (if bits v.toNat 15 8 ≤ bits v.toNat 7 0 then s else s.setReg (0x101 + c.val) (written (0x101 + c.val) (s.reg (0x101 + c.val)) v (isH0 x)))) ∧
  (∀ (x : Sender) (a : BitVec 12) (v : Word) (s : State), (0x500 ≤ a.toNat ∧ a.toNat < 0x600) ∨ 0xF00 ≤ a.toNat → exec (.registerWrite x (.reg a) (.word v)) s = .next s) ∧
  (∀ (x : Sender) (a : BitVec 12) (v : Word) (s : State), s.reaches x a.toNat true = false → exec (.registerWrite x (.reg a) (.word v)) s = .next s) ∧
  (∀ (x : Sender) (n : StnId) (k : BitVec 7) (v : Word) (s : State), s.reaches x (0x800 + 0x80 * n.val + k.toNat) true = true → s.stnEnabled n.val = false →
    exec (.registerWrite x (.reg (BitVec.ofNat 12 (0x800 + 0x80 * n.val + k.toNat))) (.word v)) s = .next s)

/-- A due cycle starts, ends at once with no unit to test (log entry 62), or sets LAG; RUN_NOW starts one in FACTORY and SERVICE alone;
the tests give their registers, faults and events, with DEV's sign and formula as log entry 63 reads them; the first lane of a
station's eye starts a training (log entry 125); a completed unit counts and the last one ends the cycle; a window redirects; a yield
counts and is not taken again at once, and an access to a window held by the yielding method yields it (log entry 60); an emitter's test
sends its two frames, apart in time, an ARM that waited for one ends the test (log entry 125), a dead emitter is marked, and the last
one or 0xFFFF ends the station's unit; SWP_LOG_SEL captures an entry. What the named log entries say is the model's reading. (R353, R354,
R356, R357, R358, R370, R375, Table 15-1 (spec/15).) -/
def Obligations.SweeperCycles : Prop :=
  (∀ (s : State), s.swpOn = true → s.get Reg.SWP_STAT_ACTIVE = 0 → s.unitCount ≠ 0 →
    ∃ t, exec .sweeperCycleStart s = .next t ∧ t.get Reg.SWP_STAT_ACTIVE = 1 ∧ t.get Reg.SWP_STAT_LAG = 0 ∧ t.get Reg.SWP_STAT_PCT = 0 ∧
      t.dev.swept = [] ∧ t.dev.swpStart = s.stamp ∧ ∀ n, n < 8 → (t.stn n).emitted = 0 ∧ (t.stn n).eye = none) ∧
  (∀ (s : State), s.swpOn = true → s.get Reg.SWP_STAT_ACTIVE = 0 → s.unitCount = 0 →
    ∃ t, exec .sweeperCycleStart s = .next t ∧ t.get Reg.SWP_STAT_ACTIVE = 0 ∧ t.get Reg.SWP_STAT_PCT = 100 ∧ t.get Reg.SWP_EVENT_CYCLE = 1 ∧
      t.get Reg.SWP_CYCLES_COUNT = min (s.get Reg.SWP_CYCLES_COUNT + 1) 262143 ∧ t.get Reg.SWP_LASTCYC_MINUTES = 0) ∧
  (∀ (s : State), s.swpOn = true → s.get Reg.SWP_STAT_ACTIVE = 1 → s.unitCount ≤ s.unitsDone → s.get Reg.SWP_STAT_LAG = 0 → s.unitCount ≠ 0 →
    ∃ t, exec .sweeperCycleStart s = .next t ∧ t.get Reg.SWP_STAT_ACTIVE = 1 ∧ t.get Reg.SWP_STAT_LAG = 0 ∧ t.dev.swept = [] ∧
      t.get Reg.SWP_CYCLES_COUNT = min (s.get Reg.SWP_CYCLES_COUNT + 1) 262143 ∧ t.get Reg.SWP_EVENT_CYCLE = 1) ∧
  (∀ (s : State), s.swpOn = true → s.get Reg.SWP_STAT_ACTIVE = 1 → s.unitsDone < s.unitCount → s.get Reg.SWP_STAT_LAG = 0 →
    ∃ t, exec .sweeperCycleStart s = .next t ∧ t.get Reg.SWP_STAT_LAG = 1 ∧ t.get Reg.SWP_EVENT_LAG = 1 ∧ t.get Reg.SWP_STAT_ACTIVE = 1 ∧
      t.dev.swept = s.dev.swept) ∧
  (∀ (x : Sender) (s : State), s.reaches x 0xD00 true = true → s.swpOn = true → s.get Reg.ID_LC_STATE = 0 ∨ s.get Reg.ID_LC_STATE = 2 →
    s.unitCount ≠ 0 → ∃ t, exec (.runNow x) s = .next t ∧ t.get Reg.SWP_STAT_ACTIVE = 1 ∧ t.dev.swept = [] ∧ t.dev.swpStart = s.stamp) ∧
  (∀ (x : Sender) (s : State), s.get Reg.ID_LC_STATE = 1 ∨ s.get Reg.ID_LC_STATE = 3 → exec (.runNow x) s = .next s) ∧
  (∀ (c : Nat) (f : Bool) (d : Word) (s : State), s.testable (.crystal c) = true →
    ∃ u : State, exec (.sweeperTestStep (.crystal c) f d) s = .next (u.settle.watch s) ∧ u.get Reg.SWP_XTAL_VALID = 1 ∧
      u.get Reg.SWP_XTAL_DEV = unsigned 16 (crystalDev c)) ∧
  (∀ (c : Fin 12) (d : Word) (s : State), s.testable (.comparator c) = true →
    ∃ u : State, exec (.sweeperTestStep (.comparator c) true d) s = .next (u.settle.watch s) ∧ u.get Reg.SWP_FAULT_COMP = 1) ∧
  (∀ (w : BitVec 15) (d : Word) (s : State), s.testable (.keepMargin w) = true →
    ∃ u : State, exec (.sweeperTestStep (.keepMargin w) true d) s = .next (u.settle.watch s) ∧ u.get Reg.SWP_FAULT_MARGIN = 1 ∧
      u.get Reg.SWP_EVENT_MARGIN = 1 ∧ u.keep = s.keep) ∧
  (∀ (w : BitVec 15) (d : Word) (s : State), s.testable (.keepMargin w) = true →
    ∃ u : State, exec (.sweeperTestStep (.keepMargin w) false d) s = .next (u.settle.watch s) ∧
      (s.unitsDone + 1 < s.unitCount → u.dev.swept = s.dev.swept ++ [.keepMargin w] ∧ u.get Reg.SWP_STAT_PCT = 100 * (s.unitsDone + 1) / s.unitCount) ∧
      (s.unitCount ≤ s.unitsDone + 1 → s.get Reg.SWP_STAT_LAG = 0 → u.dev.swept = [] ∧ u.get Reg.SWP_STAT_ACTIVE = 0 ∧ u.get Reg.SWP_STAT_PCT = 100 ∧
        u.get Reg.SWP_EVENT_CYCLE = 1 ∧ u.get Reg.SWP_CYCLES_COUNT = min (s.get Reg.SWP_CYCLES_COUNT + 1) 262143)) ∧
  (∀ (s : State) (w : SwpWindow), s.fw.window = some w → s.sweeping = true → w.redirect = true →
    exec .windowRedirect s = .next { s with fw := { s.fw with window := some { w with redirected := true } } }) ∧
  (∀ (s : State) (w : SwpWindow), s.fw.window = some w →
    ∃ t, exec .windowYield s = .next t ∧ t.get Reg.SWP_YIELDS_COUNT = min (s.get Reg.SWP_YIELDS_COUNT + 1) 262143 ∧
      t.fw.yielded = s.fw.yielded ++ [(w, s.stamp)] ∧
      ∀ x, t.fw.window = some x → ¬ (x.pad = w.pad ∧ x.region = w.region ∧ x.cluster = w.cluster ∧ x.window = w.window)) ∧
  (∀ (s : State) (w : SwpWindow) (r cw : Nat), s.fw.window = some w → w.redirect = false → w.pad = false →
    (w.region = r ∧ w.cluster = cw % 8 ∧ w.window = cw % 2 ^ 22 / 2048 →
      (s.access r cw).fw.window = none ∧ (s.access r cw).fw.yielded = s.fw.yielded ++ [(w, s.stamp)] ∧
        (s.access r cw).get Reg.SWP_YIELDS_COUNT = min (s.get Reg.SWP_YIELDS_COUNT + 1) 262143) ∧
    (¬ (w.region = r ∧ w.cluster = cw % 8 ∧ w.window = cw % 2 ^ 22 / 2048) → s.access r cw = s)) ∧
  (∀ (n : StnId) (e : BitVec 7) (s : State), s.emitterTests n e.toNat = true →
    ∃ t, exec (.emitterTestResult n e .write) s = .next t ∧ t.stn n.val = { s.stn n.val with probe := some (e.toNat, .writing) } ∧ t.regs = s.regs ∧
      t.out = s.out ++ [.setupFrame n true 0x13#7 (BitVec.ofNat 16 e.toNat)]) ∧
  (∀ (n : StnId) (e : BitVec 7) (s : State), s.emitterTests n e.toNat = false → exec (.emitterTestResult n e .write) s = .next s) ∧
  (∀ (n : StnId) (e : BitVec 7) (s : State), s.serving = true → (s.stn n.val).probe = some (e.toNat, .writing) → (s.stn n.val).armWaits = none →
    ∃ t, exec (.emitterTestResult n e .wrote) s = .next t ∧ t.regs = s.regs ∧
      ((s.stn n.val).goWaits = false → t.stn n.val = { s.stn n.val with probe := some (e.toNat, .waiting) } ∧ t.out = s.out) ∧
      ∀ wr a d k, (s.stn n.val).goWaits = true → s.stnArmed n.val = false → (s.stn n.val).frame = some (wr, a, d, k) →
        t.stn n.val = { s.stn n.val with probe := some (e.toNat, .waiting), goWaits := false } ∧ t.out = s.out ++ [.setupFrame n wr a d]) ∧
  (∀ (n : StnId) (e : BitVec 7) (s : State), s.sweeping = true → (s.stn n.val).probe = some (e.toNat, .waiting) → (s.stn n.val).frame = none →
    ∃ t, exec (.emitterTestResult n e .read) s = .next t ∧ t.stn n.val = { s.stn n.val with probe := some (e.toNat, .reading) } ∧ t.regs = s.regs ∧
      t.out = s.out ++ [.setupFrame n false 0x14#7 0#16]) ∧
  (∀ (n : StnId) (e : BitVec 7) (res : BitVec 16) (s : State), s.sweeping = true → s.dev.swept.contains (.emitters n) = false →
    (s.stn n.val).probe = some (e.toNat, .reading) → (s.stn n.val).armWaits = none → (s.stn n.val).goWaits = false → res = 0#16 ∨ res = 1#16 →
    (∃ k, k < 72 ∧ k ≠ e.toNat ∧ bit ((s.stn n.val).act 0 (2 * k)) 17 = true ∧ bit (s.stn n.val).emitted k = false) →
    ∃ t, exec (.emitterTestResult n e (.result res)) s = .next t ∧
      t.stn n.val = { s.stn n.val with probe := none, emitted := (s.stn n.val).emitted ||| 2 ^ e.toNat } ∧
      (res = 0#16 → t.regs = s.regs ∧ t.dev = s.dev) ∧
      (res = 1#16 → t.regs = (s.log 8 1 n.val e.toNat 0).regs ∧ t.dev = (s.log 8 1 n.val e.toNat 0).dev)) ∧
  (∀ (n : StnId) (e : BitVec 7) (s : State), s.sweeping = true → s.dev.swept.contains (.emitters n) = false →
    (s.stn n.val).probe = some (e.toNat, .reading) → (s.stn n.val).armWaits = none →
    s.get ((Reg.STN_DEAD_DEAD n.val (e.toNat / 18)).at (e.toNat % 18)) = 0 → e.toNat < 72 →
    ∃ t, exec (.emitterTestResult n e (.result 2)) s = .next t ∧ t.get ((Reg.STN_DEAD_DEAD n.val (e.toNat / 18)).at (e.toNat % 18)) = 1 ∧
      t.get (Reg.STN_EVENT_DEAD n.val) = 1 ∧ t.get Reg.SWP_EVENT_DEAD = 1) ∧
  (∀ (n : StnId) (e : BitVec 7) (res : BitVec 16) (s : State), s.sweeping = true → s.dev.swept.contains (.emitters n) = false →
    (s.stn n.val).probe = some (e.toNat, .reading) → (s.stn n.val).armWaits = none → res = 0xFFFF#16 ∨
      (∀ k, k < 72 → k ≠ e.toNat → bit ((s.stn n.val).act 0 (2 * k)) 17 = true → bit (s.stn n.val).emitted k = true) →
    s.unitExists (.emitters n) = true → s.unitsDone + 1 < s.unitCount →
    ∃ t, exec (.emitterTestResult n e (.result res)) s = .next t ∧ t.dev.swept = s.dev.swept ++ [.emitters n] ∧
      t.get Reg.SWP_STAT_PCT = 100 * (s.unitsDone + 1) / s.unitCount) ∧
  (∀ (n : StnId) (e : BitVec 7) (res : BitVec 16) (x : Sender) (m : EmitStep) (s : State), s.serving = true → (s.stn n.val).armWaits = some x →
    m = .wrote ∧ (s.stn n.val).probe = some (e.toNat, .writing) ∨ m = .result res ∧ (s.stn n.val).probe = some (e.toNat, .reading) →
    ∃ u : State, exec (.emitterTestResult n e m) s = .next ((u.arm x n.val).goNext n) ∧ u.regs = s.regs ∧ u.dev = s.dev ∧
      u.stn n.val = { s.stn n.val with probe := none, armWaits := none }) ∧
  (∀ (n : StnId) (l : Fin 8) (fail : Bool) (d : Word) (s : State), s.testable (.ecposiaEye n l) = true → (s.stn n.val).eye = none →
    ∃ t, exec (.sweeperTestStep (.ecposiaEye n l) fail d) s = .next t ∧ t.dev = s.dev ∧ t.get (Reg.STN_LINK_STAT_STATE n.val) = linkTrain ∧
      (t.stn n.val).trainStep = some 1 ∧ (t.stn n.val).eye = some false ∧
      t.out = s.out ++ [.setupFrame n false 0x00#7 0#16, .setupFrame n false 0x01#7 0#16]) ∧
  (∀ (x : Sender) (v : Word) (s : State), s.reaches x 0xD0C true = true →
    ∃ t, exec (.swpLogSel x v) s = .next t ∧ t.get Reg.SWP_LOG_SEL_INDEX = bits v.toNat 15 0 ∧
      ∀ k, k < 8 → t.reg (0xD10 + k) = Map.get (fun _ => 0#18) s.dev.log (8 * bits v.toNat 15 0 + k))

/-- A LOAD marks its target slot LOADING and ends VALID or REJECTED with the first failing check; that it takes FW_SRC and FW_LEN at the
command and copies at LOAD_DONE what the source then holds is the model's reading (log entry 65). ACTIVATE starts a compatible update or is
refused; its steps hand the cluster's channels over, clear its scratchpad, check the image and resume, or roll back in reverse order;
its end runs the new slot; ERASE of a slot that does not run shows OP 3 and ends, with LOAD_DONE (log entry 110), in an EMPTY slot; a
command while another one runs has RESULT STATE and raises FAIL; one of a sender without rights changes nothing; a core that fails
leaves its cluster in service while enough cores are left. (R361, R363, R364, R365, R371, R374, R376.) -/
def Obligations.FirmwareCommands : Prop :=
  (∀ (x : Sender) (s : State), s.reaches x 0xE00 true = true → s.fwMay x = true → s.fwBusy = false →
    ∃ t, exec (.load x) s = .next t ∧ t.get (Reg.FW_SLOT_STATE s.loadTarget) = slotLoading ∧ t.get Reg.FW_STAT_OP = 1 ∧
      t.fw = { s.fw with loadSlot := some s.loadTarget, loadBy := x, loadSrc := 64 * (s.get Reg.FW_SRC_LO_SRC + 2 ^ 18 * (s.get Reg.FW_SRC_HI_SRC % 128)), loadLen := 64 * s.get Reg.FW_LEN_LEN }) ∧
  (∀ (s : State), (s.get Reg.FW_STAT_RUN = 0 → s.loadTarget = 1) ∧ (s.get Reg.FW_STAT_RUN = 1 → s.loadTarget = 0) ∧
    (s.get Reg.FW_STAT_RUN = 2 → s.slotState 0 = slotValid → s.slotState 1 = slotValid → s.slotVersion 0 = s.slotVersion 1 → s.loadTarget = 1) ∧
    (s.get Reg.FW_STAT_RUN = 2 → s.slotState 0 = slotValid → s.slotState 1 = slotValid → s.slotVersion 0 < s.slotVersion 1 → s.loadTarget = 0)) ∧
  (∀ (x : Sender) (b : Bool) (s : State), s.reaches x 0xE00 true = true → s.fwMay x = true → s.fwBusy = true →
    (∃ t, exec (.load x) s = .next t ∧ t.get Reg.FW_STAT_RESULT = 7 ∧ t.get Reg.FW_EVENT_FAIL = 1 ∧ t.fw = s.fw) ∧
    (∃ t, exec (.activate x) s = .next t ∧ t.get Reg.FW_STAT_RESULT = 7 ∧ t.get Reg.FW_EVENT_FAIL = 1 ∧ t.fw = s.fw) ∧
    (∃ t, exec (.erase x b) s = .next t ∧ t.get Reg.FW_STAT_RESULT = 7 ∧ t.get Reg.FW_EVENT_FAIL = 1 ∧ t.arr = s.arr)) ∧
  (∀ (x : Sender) (b : Bool) (s : State), s.fwMay x = false → exec (.load x) s = .next s ∧ exec (.activate x) s = .next s ∧ exec (.erase x b) s = .next s) ∧
  (∀ (k : Fin 2) (s : State), s.fw.loadSlot = some k.val → s.serving = true → 63 ∉ s.waveRegions → s.sourceOk = false →
    ∃ u : State, exec .loadDone s = .next (u.settle.watch s) ∧ u.get (Reg.FW_SLOT_STATE k.val) = slotRejected ∧ u.get Reg.FW_STAT_RESULT = 1 ∧
      u.get Reg.FW_STAT_OP = 0 ∧ u.get Reg.FW_EVENT_FAIL = 1 ∧ u.fw.loadSlot = none) ∧
  (∀ (k : Fin 2) (s : State), s.fw.loadSlot = some k.val → s.serving = true → 63 ∉ s.waveRegions → s.sourceOk = true →
    ∃ u : State, exec .loadDone s = .next (u.settle.watch s) ∧ u.get Reg.FW_STAT_RESULT = s.imageResult (s.readBytes s.fw.loadSrc s.fw.loadLen {}).2.1 ∧
      u.get Reg.FW_STAT_OP = 0 ∧ u.fw.loadSlot = none ∧
      (s.imageResult (s.readBytes s.fw.loadSrc s.fw.loadLen {}).2.1 = 0 → u.get (Reg.FW_SLOT_STATE k.val) = slotValid ∧ u.get Reg.FW_EVENT_LOAD_DONE = 1) ∧
      (s.imageResult (s.readBytes s.fw.loadSrc s.fw.loadLen {}).2.1 ≠ 0 → u.get (Reg.FW_SLOT_STATE k.val) = slotRejected ∧ u.get Reg.FW_EVENT_FAIL = 1)) ∧
  (∀ (x : Sender) (s : State), s.reaches x 0xE00 true = true → s.fwMay x = true → s.fwBusy = false → s.bootChoice ≠ goldenImage →
    s.bootChoice ≠ s.get Reg.FW_STAT_RUN → s.compatOf s.bootChoice = s.compatOf (s.get Reg.FW_STAT_RUN) →
    ∃ t, exec (.activate x) s = .next t ∧ t.get Reg.FW_STAT_OP = 2 ∧
      t.fw.act = some { slot := s.bootChoice, done := [], todo := s.clusters, step := 2, rollback := false }) ∧
  (∀ (x : Sender) (s : State), s.reaches x 0xE00 true = true → s.fwMay x = true → s.fwBusy = false → s.bootChoice ≠ goldenImage →
    s.bootChoice ≠ s.get Reg.FW_STAT_RUN → s.compatOf s.bootChoice ≠ s.compatOf (s.get Reg.FW_STAT_RUN) →
    ∃ t, exec (.activate x) s = .next t ∧ t.get Reg.FW_STAT_RESULT = 6 ∧ t.get Reg.FW_EVENT_FAIL = 1 ∧ t.fw.act = s.fw.act) ∧
  (∀ (ok : Bool) (s : State) (a : Activation) (c : Nat) (r : List Nat), s.fw.act = some a → s.serving = true → a.todo = c :: r → c < 4 → s.cluOn c = true →
    a.step = 2 → (∃ g, g < 4 ∧ g ≠ c ∧ s.cluOn g = true) →
    ∃ u ch, exec (.activationStep ok) s = .next (State.cycleGo u) ∧ u.fw.act = some { a with step := 3, moved := ch } ∧
      ∀ k, k < 5 → (s.get (Reg.MB_STAT_SERVER k) = c → k ∈ ch ∧ u.get (Reg.MB_STAT_SERVER k) ≠ c ∧ s.cluOn (u.get (Reg.MB_STAT_SERVER k)) = true) ∧
        (s.get (Reg.MB_STAT_SERVER k) ≠ c → k ∉ ch ∧ u.get (Reg.MB_STAT_SERVER k) = s.get (Reg.MB_STAT_SERVER k))) ∧
  (∀ (ok : Bool) (s : State) (a : Activation) (c : Nat) (r : List Nat), s.fw.act = some a → s.serving = true → a.todo = c :: r → s.cluOn c = true → a.step = 3 →
    exec (.activationStep ok) s = .next ({ s with fw := { s.fw with
      act := some { a with step := 4 }, pads := Map.keep s.fw.pads (fun k => decide (k / 65536 ≠ c)) } } : State).cycleGo) ∧
  (∀ (s : State) (a : Activation) (c : Nat) (r : List Nat), s.fw.act = some a → s.serving = true → a.todo = c :: r → s.cluOn c = true → a.step = 4 →
    a.rollback = false → a.slot < 2 →
    (digestOk (s.slotBytes a.slot) = true →
      exec (.activationStep true) s = .next ((s.meetSlot a.slot).setAct (some { a with step := 5 })).cycleGo) ∧
    ∃ u : State, exec (.activationStep false) s = .next u.cycleGo ∧ u.get (Reg.FW_SLOT_STATE a.slot) = slotRejected ∧ u.get Reg.FW_STAT_RESULT = 3 ∧
      u.get Reg.FW_EVENT_FAIL = 1 ∧ u.fw.act = some { a with todo := c :: a.done.reverse, done := [], step := 5, rollback := true }) ∧
  (∀ (s : State) (a : Activation) (c : Nat) (r : List Nat), s.fw.act = some a → s.serving = true → a.todo = c :: r → s.cluOn c = true → a.step = 5 → c < 4 →
    ∃ u : State, exec (.activationStep true) s = .next u.cycleGo ∧
      u.fw.act = some { a with done := a.done ++ [c], todo := r, step := (if r = [] then 6 else 2), moved := [] } ∧
      ∀ ch, ch ∈ a.moved → ch < 8 → u.get (Reg.MB_STAT_SERVER ch) = c) ∧
  (∀ (ok : Bool) (s : State) (a : Activation), s.fw.act = some a → s.serving = true → a.todo = [] → a.rollback = false → a.slot < 2 →
    ∃ u : State, exec (.activationStep ok) s = .next u.cycleGo ∧ u.get Reg.FW_STAT_RUN = a.slot ∧ u.get Reg.FW_STAT_OP = 0 ∧
      u.get Reg.FW_STAT_RESULT = 0 ∧ u.get Reg.FW_EVENT_ACT_DONE = 1 ∧ u.fw.act = none) ∧
  (∀ (x : Sender) (b : Bool) (s : State), s.reaches x 0xE00 true = true → s.fwMay x = true → s.fwBusy = false → b2n b ≠ s.get Reg.FW_STAT_RUN →
    ∃ t, exec (.erase x b) s = .next t ∧ t.get Reg.FW_STAT_OP = 3 ∧ t.fw = { s.fw with erasing := some (b2n b) } ∧ t.arr = s.arr ∧
      t.get (Reg.FW_SLOT_STATE (b2n b)) = s.get (Reg.FW_SLOT_STATE (b2n b))) ∧
  (∀ (k : Fin 2) (s : State), s.fw.loadSlot = none → s.fw.erasing = some k.val → s.serving = true → 63 ∉ s.waveRegions →
    ∃ u : State, exec .loadDone s = .next (u.settle.watch s) ∧ u.get (Reg.FW_SLOT_STATE k.val) = slotEmpty ∧ u.slotVersion k.val = 0 ∧
      u.get Reg.FW_STAT_RESULT = 0 ∧ u.get Reg.FW_STAT_OP = 0 ∧ u.fw.erasing = none ∧ u.arr = (s.wipeSlot k.val).arr) ∧
  (∀ (x : Sender) (v : Word) (s : State), s.reaches x 0xE10 true = true → isH0 x = true → s.fw.token.length < 40 →
    exec (.fwToken x v) s = .next { s with fw := { s.fw with token := s.fw.token ++ [v.setWidth 16] } }) ∧
  (∀ (c : Fin 16) (s : State), s.serving = true → bit (s.get Reg.FW_CORES_ON) c.val = false → exec (.coreWatchdog c) s = .next s.cycleGo) ∧
  (∀ (c : Fin 16) (s : State), s.serving = true → bit (s.get Reg.FW_CORES_ON) c.val = true → 3 ≤ (s.put ((Reg.FW_CORES_ON).at c.val) 0).coresOn (c.val / 4) →
    ∃ u : State, exec (.coreWatchdog c) s = .next u.cycleGo ∧ bit (u.get Reg.FW_CORES_ON) c.val = false ∧ u.get Reg.SWP_FAULT_CORE = 1 ∧
      u.get Reg.FW_EVENT_CORE_OUT = 1 ∧ u.get Reg.FW_STAT_CLU_ON = s.get Reg.FW_STAT_CLU_ON)

/-- The token is accepted exactly when R371's conditions hold; a refused LC_APPLY empties the token, shows RESULT and raises
LC_REFUSED; an accepted one starts the wipe with no cluster in service; step 3 empties the array, planes, seals, scratchpads,
mailboxes with their registers, possession and device state, and ends a checkpoint; step 4 sets a page's 64 words FRESH and no other
word, in one command with no page write (the model's reading, log entry 69); step 5 sets STATE and CHANGES; step 6 clears WIPING and OP
and enters the warm reset. (R370, R371, R372, R373, R374, R376.) -/
def Obligations.LifeCycle : Prop :=
  (∀ s : State, s.tokenResult = 1 ↔ s.fw.token.length = 40 ∧ s.pwr.st = .run ∧ s.get Reg.FW_STAT_OP = 0 ∧ tokenSigned s.fw.token = true ∧
    (∀ i, i < 4 → (s.fw.token.getD i 0#16).toNat = s.get (Reg.ID_SERIAL_SERIAL i)) ∧ (s.fw.token.getD 5 0#16).toNat = s.get Reg.ID_LC_CHANGES ∧
    tokenFrom s.fw.token = s.get Reg.ID_LC_STATE ∧ s.get Reg.ID_LC_CHANGES < 32767 ∧ lifeArrow (tokenFrom s.fw.token) (tokenTo s.fw.token) = true) ∧
  (∀ (x : Sender) (s : State), s.reaches x 0xE00 true = true → isH0 x = true → s.tokenResult ≠ 1 →
    ∃ t, exec (.lcApply x) s = .next t ∧ t.fw = { s.fw with token := [] } ∧ t.get Reg.FW_TOK_STAT_RESULT = s.tokenResult ∧
      t.get Reg.FW_EVENT_LC_REFUSED = 1 ∧ t.get Reg.ID_LC_STATE = s.get Reg.ID_LC_STATE ∧ t.arr = s.arr) ∧
  (∀ (x : Sender) (s : State), isH0 x = false → exec (.lcApply x) s = .next s) ∧
  (∀ (x : Sender) (s : State), s.reaches x 0xE00 true = true → isH0 x = true → s.tokenResult = 1 →
    ∃ t, exec (.lcApply x) s = .next t ∧ t.fw.wipePending = some (tokenTo s.fw.token) ∧ t.fw.wipeStep = 3 ∧ t.fw.wipePage = 64 ∧
      t.fw.act = none ∧ t.fw.loadSlot = none ∧ t.fw.erasing = none ∧ t.get Reg.FW_STAT_CLU_ON = 0 ∧ t.get Reg.FW_CORES_ON = 0 ∧
      t.get Reg.ID_LC_WIPING = 1) ∧
  (∀ (cores : BitVec 16) (s : State), s.pwr.st = .run → s.fw.wipeStep = 3 →
    ∃ t, exec (.lcWipeStep cores) s = .next t ∧ t.arr = [] ∧ t.planeA = [] ∧ t.planeB = [] ∧ t.sealA = [] ∧ t.sealB = [] ∧ t.mboxes = [] ∧ t.poss = [] ∧
      t.led = {} ∧ t.dev = {} ∧ t.devA = [] ∧ t.devB = [] ∧ t.keep.hot = [] ∧ t.keep.words = s.keep.words ∧ t.fw = { s.fw with wipeStep := 4, pads := [] } ∧ t.store = none ∧
      ∀ c, c < 8 → t.reg (0x304 + 0x10 * c) = 0#18 ∧ t.reg (0x305 + 0x10 * c) = 0#18) ∧
  (∀ (cores : BitVec 16) (s : State), s.pwr.st = .run → s.fw.wipeStep = 4 → s.keepBusy = false → s.fw.wipePage < 512 →
    ∃ t, exec (.lcWipeStep cores) s = .next t ∧ (∀ i, i < 64 → t.keepArray (64 * s.fw.wipePage + i) = 0#18) ∧
      (∀ w, w / 64 ≠ s.fw.wipePage → w < 32768 → t.keepArray w = s.keepArray w) ∧
      t.fw = { s.fw with wipePage := s.fw.wipePage + 1, wipeStep := if 511 ≤ s.fw.wipePage then 5 else 4 }) ∧
  (∀ (cores : BitVec 16) (s : State), s.fw.wipeStep = 4 → s.keepBusy = true → exec (.lcWipeStep cores) s = .next s) ∧
  (∀ (cores : BitVec 16) (s : State) (goal : Nat), s.pwr.st = .run → s.fw.wipeStep = 5 → s.fw.wipePending = some goal → goal < 4 → s.get Reg.ID_LC_CHANGES < 32767 →
    ∃ t, exec (.lcWipeStep cores) s = .next t ∧ t.get Reg.ID_LC_STATE = goal ∧ t.get Reg.ID_LC_CHANGES = s.get Reg.ID_LC_CHANGES + 1 ∧
      (goal = 3 → t.get Reg.SUP_PWR_HOLD = 1) ∧ t.fw = { s.fw with wipePending := none, wipeStep := 6 }) ∧
  (∀ (cores : BitVec 16) (s : State), s.pwr.st = .run → s.fw.wipeStep = 6 →
    ∃ u : State, exec (.lcWipeStep cores) s = .next (u.resetVolley false) ∧ u.get Reg.ID_LC_WIPING = 0 ∧ u.get Reg.FW_STAT_OP = 0 ∧ u.fw.wipeStep = 0 ∧
      (u.resetVolley false).pwr.st = .volley ∧ (u.resetVolley false).store = some { cause := .reset, fromVin := true, channel := 15 }) ∧
  (∀ (cores : BitVec 16) (s : State), s.pwr.st ≠ .run → s.pwr.st ≠ .waking → exec (.lcWipeStep cores) s = .next s)

/-- A store wave copies each of its regions' images into the region's plane, erases the seal block there, and saves region 63's device
state with the hot range frozen; before wave 1 no other plane changes. The target is never the keep plane. A complete store's seal
blocks hold Table 4-1's words, which read back as the seal, and every other seal block stays; a cut wave writes no seal block and
leaves every plane outside the wave. That a wave copies its cells and region 63's device state as its start finds them, and not over its
interval, is the model's reading (log entry 21). (R26, R27, R104, R109, R110, R111, R113, R123, R125.) -/
def Obligations.StoredContents : Prop :=
  (∀ (v : BitVec 10) (s : State) (t w : Store), s.pwr.st = .volley → s.store = some t → t.frozen = true → t.regions ≠ [] →
    t.wave < t.waves → t.fromVin = true ∨ t.thresholds.getD t.wave 0 ≤ v.toNat → s.Inv → w = s.atWave t (t.wave + 1) →
    ∃ u, exec (.volleyWaveStart v) s = .next u ∧ ∀ r, r ∈ w.waveSet (t.wave + 1) →
      u.planeImage (w.plane r) (w.physOf r) = u.image (w.physOf r) ∧ u.sealWords (w.physOf r) (w.plane r) = List.replicate 8 0#18) ∧
  (∀ (v : BitVec 10) (s : State) (t w : Store), s.pwr.st = .volley → s.store = some t → t.frozen = true → t.wave = 0 → t.regions ≠ [] →
    t.fromVin = true ∨ t.thresholds.getD 0 0 ≤ v.toNat → s.fw.window = none → w = s.atWave t 1 →
    ∃ u, exec (.volleyWaveStart v) s = .next u ∧ u.arr = s.arr ∧ u.dev = s.dev ∧
      (63 ∈ w.waveSet 1 → Map.get (fun _ => {}) (if w.plane 63 then u.devB else u.devA) w.phys63 = { s.dev with regs := s.storedRegs w }) ∧
      ∀ p b, (∀ r, r ∈ w.waveSet 1 → ¬ (w.physOf r = p ∧ w.plane r = b)) →
        u.planeImage b p = s.planeImage b p ∧ (p < 64 → u.sealWords p b = s.sealWords p b)) ∧
  (∀ (s : State) (t w : Store), s.serving = true → s.store = some t → t.frozen = true → t.wave = 0 → t.regions ≠ [] → w = s.atWave t 1 →
    ∃ u, exec .checkpointWaveStart s = .next u ∧ u.arr = s.arr ∧ ∀ r, r ∈ w.waveSet 1 →
      u.planeImage (w.plane r) (w.physOf r) = s.image (w.physOf r) ∧ u.sealWords (w.physOf r) (w.plane r) = List.replicate 8 0#18) ∧
  (∀ (s : State) (r : Nat), r < 63 → (∀ c, chosen s.seals r = some c → s.targetPlane s.seals r = !c.1.planeB) ∧
    (chosen s.seals r = none → s.targetPlane s.seals r = false)) ∧
  (∀ (v : BitVec 10) (s : State) (t : Store), s.pwr.st = .volley → s.store = some t → t.frozen = true → t.regions ≠ [] →
    t.wave = t.waves + 1 → s.vstbyOk = true → (t.regions.map t.physOf).Nodup →
    ∃ u, exec (.storeSealComplete v) s = .next u ∧ u.planeA = s.planeA ∧ u.planeB = s.planeB ∧
      (∀ r, r ∈ t.regions → u.sealWords (t.physOf r) (t.plane r) = (sealFor t r).words) ∧
      ∀ p b, (∀ r, r ∈ t.regions → ¬ (t.physOf r = p ∧ t.plane r = b)) → u.sealWords p b = s.sealWords p b) ∧
  (∀ (t : Store) (r p : Nat), r < 64 → r = p ∨ r = 63 ∧ p % 4 = 3 → t.epoch < 2 ^ 36 → t.acount < 128 → t.regions ≠ [] → t.regions.length < 128 →
    readSeal p (sealFor t r).words = some (sealFor t r)) ∧
  (∀ (e : Nat) (s : State) (t : Store), s.pwr.st = .volley → s.store = some t → t.fromVin = false → 1 ≤ t.wave → t.wave ≤ t.waves →
    s.vstbyOk = true → ∃ u, exec (.vholdFloor e) s = .next u ∧ u.sealA = s.sealA ∧ u.sealB = s.sealB ∧
      ∀ p b, (∀ r, r ∈ t.waveSet t.wave → ¬ (t.physOf r = p ∧ t.plane r = b)) → u.planeImage b p = s.planeImage b p)

/-- Restore wave 1 takes region 63 with its counters, health log and hot words from the chosen plane, or the never-stored values where
no seal carries it; a later wave copies a kept region's chosen plane into the array and shows SRC, RULE and NEWER, clears a region
that the map does not keep, and leaves RETIRED and FORWARD regions and every region outside the wave. (R96, R104, R129, R130, R131,
R136, R299.) -/
def Obligations.RestoredContents : Prop :=
  (∀ (s : State) (c : Held × Bool × Bool) (d : Dev), s.pwr.st = .waking → s.pwr.sealsRead = true → s.pwr.wave1Done = false →
    chosen s.seals 63 = some c → d = Map.get (fun _ => {}) (if c.1.planeB then s.devB else s.devA) c.1.phys →
    ∃ t, exec .restoreWaveDone s = .next t ∧ t.dev.counters = d.counters ∧ t.dev.log = d.log ∧ t.keep.hot = d.hot ∧
      (c.1.phys = 63 → t.image 63 = s.planeImage c.1.planeB 63)) ∧
  (∀ (s : State), s.pwr.st = .waking → s.pwr.sealsRead = true → s.pwr.wave1Done = false → chosen s.seals 63 = none →
    ∃ t, exec .restoreWaveDone s = .next t ∧ t.dev.counters = [] ∧ t.dev.log = [] ∧ t.image 63 = Image.flat 0#18) ∧
  (∀ (s : State) (r : Nat) (c : Held × Bool × Bool), s.pwr.st = .waking → s.pwr.sealsRead = true → s.pwr.wave1Done = true →
    r < 63 → r ∈ s.pwr.restoreLeft.take 16 → chosen s.seals r = some c → s.rstate r ≠ RState.retired → s.rstate r ≠ RState.forward →
    ∃ t, exec .restoreWaveDone s = .next t ∧
      t.image r = (if s.kept r then s.planeImage c.1.planeB c.1.phys else Image.flat (s.clearedWord r)) ∧
      t.get (Reg.VOL_RSTAT_SRC r) = (if c.1.planeB then 2 else 1) ∧ t.get (Reg.VOL_RSTAT_RULE r) = b2n c.2.1 ∧
      t.get (Reg.VOL_RSTAT_NEWER r) = b2n c.2.2) ∧
  (∀ (s : State) (r : Nat), s.pwr.st = .waking → s.pwr.sealsRead = true → s.pwr.wave1Done = true → s.pwr.restoreLeft ≠ [] → r < 63 →
    r ∉ s.pwr.restoreLeft.take 16 ∨ s.rstate r = RState.retired ∨ s.rstate r = RState.forward →
    ∃ t, exec .restoreWaveDone s = .next t ∧ t.image r = s.image r ∧ t.dev = s.dev)

/-- A descriptor's 64 bytes give back its opcode and every slot; the codes of Table 7-2 name its opcodes and no other code does; a
completion's 16 bytes hold RESULT, AUX, TAG, STATUS and the bits of byte 0x0F; the blocks of FACET_START, PAYLOAD, FACET_END,
CONTROL and ABORT hold their TYPE and fields at the bits of Table 9-4; PAYLOAD's index is the model's reading, log entry 109; a SET-UP
frame has the bits of Table 9-9, and one wrong bit of a read's reply fails its parity. (R17, R192, R193, R199, R252, R261.) -/
def Obligations.FrameLayouts : Prop :=
  (∀ (d : Desc) (op : Byte), (d.frame op).length = 64 ∧ readFrame (d.frame op) = (op, d)) ∧
  (∀ c : Byte, (∀ e, e ∈ opcodeTable → e.2 = c → opcodeOf c = e.1) ∧ ((∀ e, e ∈ opcodeTable → e.2 ≠ c) → opcodeOf c = .bad)) ∧
  (∀ (c : Compl) (tag : BitVec 16) (ph rep last : Bool) (j : Ring) (bs : List Byte), bs = c.entry tag ph rep last j →
    bs.length = 16 ∧ leNat (bs.take 8) = c.result.toNat ∧ leNat ((bs.drop 8).take 4) = c.aux.toNat ∧ leNat ((bs.drop 12).take 2) = tag.toNat ∧
      bs.getD 14 0 = c.status ∧ (bs.getD 15 0).getLsbD 7 = ph ∧ (bs.getD 15 0).getLsbD 6 = rep ∧ (bs.getD 15 0).getLsbD 5 = last ∧
      (bs.getD 15 0).toNat % 32 = j.val) ∧
  (∀ (n : StnId) (fseq fn span nw mask period delay k : Nat) (phs : List Nat) (w : Nat), k < 4 →
    w = (((Out.facetStart n fseq fn span nw mask period phs delay).blocks).getD k idleBlock).word.toNat →
    (((Out.facetStart n fseq fn span nw mask period phs delay).blocks).getD k idleBlock).control = true ∧ bits w 7 0 = 0x2D ∧ bits w 9 8 = k ∧
      (k = 0 → bits w 25 10 = fseq % 2 ^ 16 ∧ bits w 29 26 = fn % 16 ∧ bits w 53 30 = delay / 16 % 2 ^ 24 ∧ bits w 57 54 = delay % 16 ∧
        bits w 61 58 = phs.getD 8 0 % 16) ∧
      (k = 1 → bits w 37 10 = period % 2 ^ 28 ∧ bits w 53 38 = span % 2 ^ 16 ∧ bits w 60 54 = nw % 2 ^ 7) ∧
      (k = 2 → bits w 45 10 = mask % 2 ^ 36 ∧ ∀ g, g < 4 → bits w (49 + 4 * g) (46 + 4 * g) = phs.getD g 0 % 16) ∧
      (k = 3 → bits w 45 10 = mask / 2 ^ 36 % 2 ^ 36 ∧ ∀ g, g < 4 → bits w (49 + 4 * g) (46 + 4 * g) = phs.getD (4 + g) 0 % 16)) ∧
  (∀ (n : StnId) (fseq k : Nat) (codes : List Nat) (w : Nat), 10 * k < codes.length →
    w = (((Out.payload n fseq codes).blocks).getD k idleBlock).word.toNat →
    (((Out.payload n fseq codes).blocks).getD k idleBlock).control = false ∧ bits w 63 60 = k % 16 ∧
      ∀ i, i < 10 → bits w (6 * i + 5) (6 * i) = codes.getD (10 * k + i) 0 % 64) ∧
  (∀ (n : StnId) (fseq nblk kind value : Nat),
    (Out.facetEnd n fseq nblk).blocks = [⟨true, BitVec.ofNat 64 (0x33 + fseq % 2 ^ 16 * 2 ^ 8 + nblk % 2 ^ 24 * 2 ^ 24)⟩] ∧
    (Out.abort n kind).blocks = [⟨true, BitVec.ofNat 64 (0x55 + kind % 16 * 2 ^ 8)⟩] ∧
    ∀ b, b ∈ (Out.control n kind value).blocks → b.control = true ∧ bits b.word.toNat 7 0 = 0x4B ∧ bits b.word.toNat 11 8 = kind % 16 ∧
      (kind = 3 → bits b.word.toNat 16 12 = value % 32)) ∧
  (∀ (n : StnId) (wr : Bool) (a : BitVec 7) (d : BitVec 16) (bs : List (Option Bool)), bs = (Out.setupFrame n wr a d).frame →
    bs.length = 29 ∧ bs[0]? = some (some false) ∧ bs[1]? = some (some wr) ∧ bs[28]? = some (some true) ∧
    (∀ i, i < 7 → bs[2 + i]? = some (some (a.getLsbD (6 - i)))) ∧
    (wr = true → (∀ i, i < 16 → bs[9 + i]? = some (some (d.getLsbD (15 - i)))) ∧ evenParity (((bs.drop 1).take 25).map (·.getD false)) = false ∧
      bs[26]? = some none ∧ bs[27]? = some none) ∧
    (wr = false → evenParity (((bs.drop 1).take 9).map (·.getD false)) = false ∧ ∀ i, 10 ≤ i → i < 28 → bs[i]? = some none)) ∧
  (∀ (d : BitVec 16), replyOk (replyBits d) = true ∧ (∀ i, i < 16 → (replyBits d)[i]? = some (d.getLsbD (15 - i))) ∧
    ∀ k, k < 17 → replyOk ((replyBits d).set k (!(replyBits d).getD k false)) = false)

/-- Where a staged DMA write and a core's write meet in a scratchpad word, the core's data stays; the descriptor, once all its data has
come, completes WRITE_LOST with the word's address in AUX, WRITE_LOST of ARR_EVENT is set, and the descriptor has no effect on the array, the ledger, the Keep
or the clock; a TABLE_LOAD's idle bank is DIRTY. Log entry 19 says which data is staged. (R94, R202, R204, R205, R231, R395.) -/
def Obligations.ScratchpadCollisions : Prop :=
  (∀ (h : PHost) (j q : Ring) (d : Desc) (p : PadTraffic) (a : Nat) (s : State) (i : Instr) (op : Opcode), padLost p = some a →
    (i, op) ∈ [(.counterRead h j d p, .counterRead), (.ledgerOpen h j d p, .ledgerOpen), (.ledgerStage h j d p, .ledgerStage),
      (.ledgerQuery h j d p, .ledgerQuery), (.keepRead h j d p, .keepRead), (.recordGet h j d p, .recordGet)] → s.Accepts h j q op d →
    ∃ t, exec i s = .next t ∧ s.Completes t h j q d { status := Status.writeLost, aux := BitVec.ofNat 32 a } ∧
      t.get Reg.ARR_EVENT_WRITE_LOST = 1 ∧ t.rest = (s.begun h j (newFlight h j op d) p.ups p).rest) ∧
  (∀ (h : PHost) (j q : Ring) (d : Desc) (data : HostData) (p : PadTraffic) (a : Nat) (s : State), padLost p = some a →
    (s.Accepts h j q .keepWrite d → s.Delivers (newFlight h j .keepWrite d) data → ∃ t, exec (.keepWrite h j d data p) s = .next t ∧ t.rest = s.rest ∧
      s.Completes t h j q d { status := Status.writeLost, aux := BitVec.ofNat 32 a } ∧ t.get Reg.ARR_EVENT_WRITE_LOST = 1) ∧
    (s.Accepts h j q .recordPut d → s.Delivers (newFlight h j .recordPut d) data → ∃ t, exec (.recordPut h j d data p) s = .next t ∧ t.rest = s.rest ∧
      s.Completes t h j q d { status := Status.writeLost, aux := BitVec.ofNat 32 a } ∧ t.get Reg.ARR_EVENT_WRITE_LOST = 1) ∧
    (s.Accepts h j q .tableLoad d → s.Delivers (newFlight h j .tableLoad d) data → ((s.stn d.stn).table d.tbl).state ≠ .copying → ∃ t, exec (.tableLoad h j d data p) s = .next t ∧
      t.arr = s.arr ∧ (t.stn d.stn).table d.tbl = { (s.stn d.stn).table d.tbl with state := .dirty } ∧
      s.Completes t h j q d { status := Status.writeLost, aux := BitVec.ofNat 32 a } ∧ t.get Reg.ARR_EVENT_WRITE_LOST = 1)) ∧
  (∀ (h : PHost) (j q : Ring) (d : Desc) (data : HostData) (p : PadTraffic) (a : Nat) (s : State) (i : Instr) (op : Opcode), padLost p = some a →
    (i, op) ∈ [(.keepWrite h j d data p, .keepWrite), (.recordPut h j d data p, .recordPut), (.tableLoad h j d data p, .tableLoad)] →
    s.Accepts h j q op d → data.poison = false → data.fail = false → data.bytes.length < Desc.n d →
    0 < (s.advanceHead h j).askGoal (newFlight h j op d) →
    ∃ u : State, exec i s = .next u.settle ∧ u.get Reg.ARR_EVENT_WRITE_LOST = 1 ∧ u.rest = s.rest ∧
      ∃ g, u.flights = [g] ∧ g.lost = some a ∧ g.compl = none ∧ g.lacks = true) ∧
  (∀ (s : State) (p : PadTraffic) (w : BitVec 18) (x : BitVec 64), (p.core.map (·.1)).Nodup → (p.dma.map (·.1)).Nodup →
    ((w, x) ∈ p.core → Map.get (fun _ => 0#64) (s.padWrites p).fw.pads w.toNat = x) ∧
    ((w, x) ∈ p.dma → (∀ e, e ∈ p.core → e.1 ≠ w) → Map.get (fun _ => 0#64) (s.padWrites p).fw.pads w.toNat = x) ∧
    ((∀ e, e ∈ p.core ++ p.dma → e.1 ≠ w) → Map.get (fun _ => 0#64) (s.padWrites p).fw.pads w.toNat = Map.get (fun _ => 0#64) s.fw.pads w.toNat))

/-- A host's configuration requests are answered from link-up, with a retry until the function is ready, and a write changes the bits
that the registers allow in the bytes enabled; a register's slot in BAR0 takes and gives 18 bits, and a read of more than one dword
ends in Completer Abort; any write but one full dword, and a request that maps to no BAR, is unsupported; the MSI-X table is written
and read; an answer leaves L1; the first unmasked error logs its TLP's header, a free value; other senders and a host that is not live
have no such access. The bits of each configuration register, and the header log's, are log entry 101's. (R18, R157, R162, R164, R165,
R166, R167, R168.) -/
def Obligations.HostRequests : Prop :=
  (∀ (h : PHost) (d : BitVec 10) (n : Nat) (s : State), s.cfgLive h = true →
    exec (.registerWrite (hostSender h) (.cfg d) (.read n)) s =
      .next { s.leaveL1 h with out := s.out ++ [.cfgData h d (if (s.host h).ready then some (s.cfgShown h d.toNat) else none)] }) ∧
  (∀ (h : PHost) (s : State), (s.host h).dword 0 = 0#32 → s.cfgShown h 0 = 0x72181F3C#32) ∧
  (∀ (h : PHost) (d : BitVec 10) (n : Nat) (be : BitVec 4) (v : BitVec 32) (s : State), s.cfgLive h = true → (s.host h).ready = false →
    exec (.registerWrite (hostSender h) (.cfg d) (.write n be v)) s = .next { s.leaveL1 h with out := s.out ++ [.cfgDone h true] }) ∧
  (∀ (h : PHost) (d : BitVec 10) (n : Nat) (be : BitVec 4) (v : BitVec 32) (s : State), s.cfgLive h = true → (s.host h).ready = true →
    d.toNat ∉ [cfgCommand, cfgPmcsr, cfgMsixCtl, cfgDevCtl] → exec (.registerWrite (hostSender h) (.cfg d) (.write n be v)) s =
      .next { (s.setHost h ((s.host h).setDword d.toNat (cfgWritten d.toNat ((s.host h).dword d.toNat) v be))).leaveL1 h with
        out := s.out ++ [.cfgDone h false] }) ∧
  (∀ (d i : Nat) (old v : BitVec 32) (be : BitVec 4), i < 32 → (cfgWritten d old v be).getLsbD i =
    if be.getLsbD (i / 8) = true then (if (cfgRw d).getLsbD i = true then v.getLsbD i else old.getLsbD i && !((cfgW1c d).getLsbD i && v.getLsbD i))
    else old.getLsbD i) ∧
  (∀ (h : PHost) (off : BitVec 15) (s : State), s.barLive h = true → off.toNat < 0x4000 →
    ∃ v : BitVec 32, v.toNat < 2 ^ 18 ∧ v.toNat = (s.readReg (hostSender h) (off.toNat / 4)).2.toNat ∧
      exec (.registerWrite (hostSender h) (.bar off) (.read 1)) s = .next { (s.readReg (hostSender h) (off.toNat / 4)).1.leaveL1 h with
        out := (s.readReg (hostSender h) (off.toNat / 4)).1.out ++ [.barData h off (some v)] }) ∧
  (∀ (h : PHost) (off : BitVec 15) (v : BitVec 32) (s : State), s.barLive h = true → off.toNat < 0x4000 →
    exec (.registerWrite (hostSender h) (.bar off) (.write 1 0xF#4 v)) s = .next (s.writeReg (hostSender h) (off.toNat / 4) (v.truncate 18))) ∧
  (∀ (h : PHost) (off : BitVec 15) (n : Nat) (s : State), s.barLive h = true → n ≠ 1 →
    ∃ t, exec (.registerWrite (hostSender h) (.bar off) (.read n)) s = .next t ∧ .barData h off none ∈ t.out ∧ t.regs = s.regs ∧
      (t.host h).cfgBit cfgCommand 27 = true) ∧
  (∀ (h : PHost) (off : BitVec 15) (n : Nat) (be : BitVec 4) (v : BitVec 32) (s : State), s.barLive h = true → off.toNat < 0x4200 →
    ¬ (n = 1 ∧ be = 0xF#4) → ∃ t, exec (.registerWrite (hostSender h) (.bar off) (.write n be v)) s = .next t ∧ t.regs = s.regs ∧
      t.rest = s.rest ∧ (t.host h).cfgBit cfgDevCtl 19 = true) ∧
  (∀ (h : PHost) (n : Nat) (be : BitVec 4) (v : BitVec 32) (s : State), s.cfgLive h = true →
    (∃ t, exec (.registerWrite (hostSender h) .noBar (.read n)) s = .next t ∧ .unsupported h ∈ t.out ∧ t.regs = s.regs ∧
      (t.host h).cfgBit cfgDevCtl 19 = true ∧ (t.host h).l1 = false) ∧
    ∃ t, exec (.registerWrite (hostSender h) .noBar (.write n be v)) s = .next t ∧ t.regs = s.regs ∧ (t.host h).cfgBit cfgDevCtl 19 = true ∧
      ((s.host h).firstError TlpError.unsupported.bitNo = true → ∀ k, k < 4 → (t.host h).dword (0x47 + k) =
        BitVec.ofNat 32 ((Config.tlpHeader h.val (s.host h).headers).toNat / 2 ^ (32 * k)))) ∧
  (∀ (h : PHost) (off : BitVec 15) (v : BitVec 32) (s : State), s.barLive h = true → 0x4000 ≤ off.toNat → off.toNat < 0x4200 →
    (off.toNat - 0x4000) / 4 % 4 < 3 → ∃ t, exec (.registerWrite (hostSender h) (.bar off) (.write 1 0xF#4 v)) s = .next t ∧
      t = s.setHost h { s.host h with vectors := Map.set (fun _ => 0#32) (s.host h).vectors ((off.toNat - 0x4000) / 4) v } ∧
      exec (.registerWrite (hostSender h) (.bar off) (.read 1)) t = .next { t.leaveL1 h with out := t.out ++ [.barData h off (some v)] }) ∧
  (∀ (x : Sender) (p : RegPlace) (q : RegRequest) (s : State), (∀ h : PHost, x ≠ hostSender h) → (∀ a v, ¬ (p = .reg a ∧ q = .word v)) →
    exec (.registerWrite x p q) s = .next s) ∧
  (∀ (h : PHost) (p : RegPlace) (q : RegRequest) (s : State), s.cfgLive h = false → (∀ a v, ¬ (p = .reg a ∧ q = .word v)) →
    exec (.registerWrite (hostSender h) p q) s = .next s)

/-- For every state whose queue begins with c, step is exec of c on the state with c removed from the queue. (log entry 13,
spec/opcode_table.json.) -/
def Obligations.FrontCommandRuns : Prop :=
  ∀ (c : Instr) (rest : List Instr) (s : State), s.pending = c :: rest → step s = exec c { s with pending := rest }

/-- With no command waiting a step leaves the state as it is. This is the model's choice, DESIGN CHOICE in log entry 13. (log
entry 13.) -/
def Obligations.EmptyQueueIdles : Prop :=
  ∀ s : State, s.pending = [] → step s = .next s

/-- At reset the named fields of every group read the reset values of their tables, every possession register is free, the clock
has the values of Table 13-1, the state is OFF and no command waits. That reset is OFF, before any supply, is log entry 1. (R19,
R20, R191, R240, R266, R287, R321, R322, R350, R375, log entry 1.) -/
def Obligations.ResetValues : Prop :=
  State.reset.get Reg.ID_VENDOR_VENDOR = 0x1F3C ∧ State.reset.get Reg.ID_PART_PART = 0x7218 ∧
  State.reset.get Reg.ARR_ECC_CTL_CE_LIMIT = 256 ∧
  (∀ h : PHost, State.reset.get (Reg.HOST_LCTL_MAX_SPEED h.val) = 5 ∧ State.reset.get (Reg.HOST_LCTL_ERR_LIMIT h.val) = 64 ∧
    State.reset.get (Reg.HOST_POLL_HOLD h.val) = 10 ∧ State.reset.get (Reg.HOST_POLL_CEIL h.val) = 100) ∧
  (∀ n : StnId, State.reset.get (Reg.STN_CTL_NF n.val) = 1 ∧ State.reset.get (Reg.STN_LINE_W64 n.val) = 768 ∧ State.reset.get (Reg.STN_RATE_F_MAX n.val) = 2500 ∧
    State.reset.get (Reg.STN_GEOM_CTL_GAP_TH n.val) = 24 ∧ State.reset.get (Reg.STN_GEOM_CTL_OVL_TH n.val) = 8 ∧
    State.reset.get (Reg.STN_DERATE_D_WARN n.val) = 256 ∧ State.reset.get (Reg.STN_DERATE_D_LIMIT n.val) = 205 ∧
    State.reset.get (Reg.STN_SXS_CTL_EOS_EN n.val) = 1 ∧ State.reset.get (Reg.STN_SXS_CTL_MIN_W n.val) = 32 ∧
    State.reset.get (Reg.STN_SXS_T_T_SCAN n.val) = 60000 ∧ State.reset.get (Reg.STN_SXS_HOLD_HOLDOFF n.val) = 1000 ∧
    State.reset.get (Reg.STN_DOT_DOT_PER n.val) = 40000 ∧ State.reset.get (Reg.STN_MAG_AVG n.val) = 2 ∧
    State.reset.get (Reg.STN_LINK_CTL_LANES_MIN n.val) = 6 ∧ State.reset.get (Reg.STN_SCALE_SCALE n.val) = 32768) ∧
  State.reset.get Reg.LED_TMO_T_TMO = 20 ∧ State.reset.get Reg.LED_TMO_F_TMO = 20 ∧ State.reset.get Reg.LED_TMO_D_TMO = 20 ∧
  (∀ c, 5 ≤ c → c < 8 → State.reset.get (Reg.MB_BIND_A c) = 7 ∧ State.reset.get (Reg.MB_BIND_B c) = 7) ∧
  (∀ k, State.reset.possOwner k = none) ∧
  (State.reset.rtc.now.year = 0 ∧ State.reset.rtc.now.month = 1 ∧ State.reset.rtc.now.day = 1 ∧ State.reset.rtc.now.hour = 0 ∧
    State.reset.rtc.now.min = 0 ∧ State.reset.rtc.now.sec = 0 ∧ State.reset.rtc.now.subsec = 0 ∧ State.reset.rtc.now.wday = 0) ∧
  State.reset.get Reg.SWP_CTL_EN = 1 ∧ State.reset.get Reg.SWP_CTL_PERIOD = 24 ∧ State.reset.get Reg.SWP_CTL_TESTS = 0x1FF ∧
  State.reset.get Reg.SWP_FAULT_EN_EN = 0x1F ∧ State.reset.pwr.st = .off ∧ State.reset.pending = []

/-- Every store of State.reset is canonical and every fused register reads as it was fixed. (R350, log entry 11.) -/
def Obligations.ResetInvariant : Prop := State.reset.Inv

/-- From every state with the invariant, a step to a next state gives one: registers, tile cells, shadow planes, seals, Keep
words, hot words and device states stay in canonical form, and ID_VENDOR, ID_PART, ID_REV and ID_SERIAL never change. (R89,
R107, R350, log entry 11.) -/
def Obligations.StepKeepsInvariant : Prop :=
  ∀ s t : State, s.Inv → step s = .next t → t.Inv

/-- From every state with the invariant and a command in front, a step answers a next state (no fault, no refusal), whose queue
is exactly the rest, which has the invariant, and in which every fused register is as it was. (R21, R350, log entry 13.) -/
def Obligations.EveryStepGoesOn : Prop :=
  ∀ (s : State) (c : Instr) (rest : List Instr), s.Inv → s.pending = c :: rest →
    ∃ t, step s = .next t ∧ t.pending = rest ∧ t.Inv ∧ ∀ a, fusedReg a = true → t.reg a = s.reg a

/-- Every command but those named in keepsKeepArray leaves every stored word of the Keep array as it was. (R288, R298.) -/
def Obligations.KeepArrayFrame : Prop :=
  ∀ (c : Instr) (s t : State), s.Inv → exec c s = .next t →
    keepsKeepArray c = true → t.keep.words = s.keep.words

/-- The commands of keepsPlanes leave planes A and B, both sets of seals and both stored device states; those of keepsPhys63
leave the region that stands for region 63; those of keepsDevice leave its device state. (R26, R105, R107, R109, R133.) -/
def Obligations.PlanesFrame : Prop :=
  ∀ (c : Instr) (s t : State), s.Inv → exec c s = .next t →
    (keepsPlanes c = true → t.planeA = s.planeA ∧ t.planeB = s.planeB ∧ t.sealA = s.sealA ∧ t.sealB = s.sealB ∧ t.devA = s.devA ∧ t.devB = s.devB) ∧
    (keepsPhys63 c = true → t.phys63 = s.phys63) ∧
    (keepsDevice c = true → t.dev = s.dev)

/-- The commands of keepsTiles leave every word of every region, and the errors of its codewords, as they were. (R25, R79, R88.)
-/
def Obligations.TilesFrame : Prop :=
  ∀ (c : Instr) (s t : State), s.Inv → exec c s = .next t →
    keepsTiles c = true → t.arr = s.arr

/-- The commands of keepsPower leave the power state and what belongs to it; those of keepsStore leave a running store and the
partition writes it holds back. (R44, R45, R127.) -/
def Obligations.PowerFrame : Prop :=
  ∀ (c : Instr) (s t : State), s.Inv → exec c s = .next t →
    (keepsPower c = true → t.pwr = s.pwr) ∧
    (keepsStore c = true → t.store = s.store ∧ t.heldWrites = s.heldWrites)

/-- The commands of keepsMailboxes leave every queue; those of keepsPossession leave every owner. (R310, R316, R317, R318.) -/
def Obligations.MailboxFrame : Prop :=
  ∀ (c : Instr) (s t : State), s.Inv → exec c s = .next t →
    (keepsMailboxes c = true → t.mboxes = s.mboxes) ∧
    (keepsPossession c = true → t.poss = s.poss)

/-- The commands of keepsClock leave the calendar, alarms' starts, trim and shadows; those of keepsMport leave the previous
frame's address, data and refusal. (R322, R328, R337, R340.) -/
def Obligations.ClockFrame : Prop :=
  ∀ (c : Instr) (s t : State), s.Inv → exec c s = .next t →
    (keepsClock c = true → t.rtc = s.rtc) ∧
    (keepsMport c = true → t.mport = s.mport)

/-- The commands of keepsStations leave sheets, tables, line buffers, facets and windows; those of keepsEncoders leave the
encoders. (R209, R230, R242, R248.) -/
def Obligations.StationFrame : Prop :=
  ∀ (c : Instr) (s t : State), s.Inv → exec c s = .next t →
    (keepsStations c = true → t.stns = s.stns) ∧
    (keepsEncoders c = true → t.encs = s.encs)

/-- The commands of keepsLedger leave the pulse queues and held events; those of keepsDescriptors leave every descriptor in
progress. (R195, R275, R277.) -/
def Obligations.LedgerFrame : Prop :=
  ∀ (c : Instr) (s t : State), s.Inv → exec c s = .next t →
    (keepsLedger c = true → t.led = s.led) ∧
    (keepsDescriptors c = true → t.flights = s.flights)

/-- The commands of keepsFirmware leave scratchpads, loads, activations, the token, the TAP instructions, Sweeper's window and
the life-cycle wipe as they were. (R356, R361, R363, R371, R372.) -/
def Obligations.FirmwareFrame : Prop :=
  ∀ (c : Instr) (s t : State), s.Inv → exec c s = .next t →
    keepsFirmware c = true → t.fw = s.fw

/-- The commands of keepsIdRegisters leave every register below 0x100; those of keepsSupRegisters leave 0x100 to 0x1FF. (R19,
R21, R154, R350.) -/
def Obligations.SupervisorRegisterFrame : Prop :=
  ∀ (c : Instr) (s t : State), s.Inv → exec c s = .next t →
    (keepsIdRegisters c = true → ∀ a, a < 0x100 → t.reg a = s.reg a) ∧
    (keepsSupRegisters c = true → ∀ a, 0x100 ≤ a → a < 0x200 → t.reg a = s.reg a)

/-- The commands of keepsRtcRegisters, keepsKeepRegisters and keepsMailboxRegisters leave 0x200 to 0x27F, 0x280 to 0x2FF and
0x300 to 0x3FF. (R19, R21, R307, R335.) -/
def Obligations.ServiceRegisterFrame : Prop :=
  ∀ (c : Instr) (s t : State), s.Inv → exec c s = .next t →
    (keepsRtcRegisters c = true → ∀ a, 0x200 ≤ a → a < 0x280 → t.reg a = s.reg a) ∧
    (keepsKeepRegisters c = true → ∀ a, 0x280 ≤ a → a < 0x300 → t.reg a = s.reg a) ∧
    (keepsMailboxRegisters c = true → ∀ a, 0x300 ≤ a → a < 0x400 → t.reg a = s.reg a)

/-- The commands of keepsHostRegisters leave 0x400 to 0x7FF; those of keepsUpperRegisters leave every register from 0x800 on
(stations, ledger, Sweeper, firmware). (R19, R21, R172, R375, R376.) -/
def Obligations.UpperRegisterFrame : Prop :=
  ∀ (c : Instr) (s t : State), s.Inv → exec c s = .next t →
    (keepsHostRegisters c = true → ∀ a, 0x400 ≤ a → a < 0x800 → t.reg a = s.reg a) ∧
    (keepsUpperRegisters c = true → ∀ a, 0x800 ≤ a → t.reg a = s.reg a)

/-- R196's check of an RTC_SET's limits passes exactly when every calendar field lies in its range, with DAY at most the length
of MONTH in year 2000 + YEAR (February 29 in years divisible by 4 but 2100), bit 63 is 0 and the reserved bits of D0 are 0.
(R203.) -/
def Obligations.RtcSetRanges : Prop :=
  ∀ (d : Desc) (s : State), s.limitsOk .rtcSet d = true ↔
    d.d0.getLsbD 63 = false ∧ d.d0.toNat < 2 ^ 47 ∧ (Desc.calendar d).subsec ≤ 1023 ∧ (Desc.calendar d).sec ≤ 59 ∧ (Desc.calendar d).min ≤ 59 ∧
    (Desc.calendar d).hour ≤ 23 ∧ (Desc.calendar d).wday ≤ 6 ∧ 1 ≤ (Desc.calendar d).month ∧ (Desc.calendar d).month ≤ 12 ∧ (Desc.calendar d).year ≤ 199 ∧
    1 ≤ (Desc.calendar d).day ∧
    (Desc.calendar d).day ≤ (if (Desc.calendar d).month = 2 then
        (if (2000 + (Desc.calendar d).year) % 4 = 0 ∧ 2000 + (Desc.calendar d).year ≠ 2100 then 29 else 28)
      else if (Desc.calendar d).month = 4 ∨ (Desc.calendar d).month = 6 ∨ (Desc.calendar d).month = 9 ∨ (Desc.calendar d).month = 11 then 30 else 31)

/-- No valid copy gives none; one valid copy is used; equal sequences use A with TWIN when the payloads differ; B is used when
it is 1 to 32,767 ahead of A modulo 65,536, A otherwise. (R303, R304.) -/
def Obligations.RecordRule : Prop :=
  ∀ (s : State) (p : Nat),
    (copyValid (s.readPage p) = false → copyValid (s.readPage (p + 1)) = false → s.chooseRecord p = none) ∧
    (copyValid (s.readPage p) = true → copyValid (s.readPage (p + 1)) = false →
      s.chooseRecord p = some ⟨false, copySeq (s.readPage p), copyPayload (s.readPage p), false⟩) ∧
    (copyValid (s.readPage p) = false → copyValid (s.readPage (p + 1)) = true →
      s.chooseRecord p = some ⟨true, copySeq (s.readPage (p + 1)), copyPayload (s.readPage (p + 1)), false⟩) ∧
    (copyValid (s.readPage p) = true → copyValid (s.readPage (p + 1)) = true → copySeq (s.readPage (p + 1)) = copySeq (s.readPage p) →
      s.chooseRecord p = some ⟨false, copySeq (s.readPage p), copyPayload (s.readPage p),
        decide (copyPayload (s.readPage p) ≠ copyPayload (s.readPage (p + 1)))⟩) ∧
    (∀ k, copyValid (s.readPage p) = true → copyValid (s.readPage (p + 1)) = true → 0 < k → k < 32768 →
      copySeq (s.readPage (p + 1)) = (copySeq (s.readPage p) + k) % 65536 →
      s.chooseRecord p = some ⟨true, copySeq (s.readPage (p + 1)), copyPayload (s.readPage (p + 1)), false⟩) ∧
    (∀ k, copyValid (s.readPage p) = true → copyValid (s.readPage (p + 1)) = true → 32768 ≤ k → k < 65536 →
      copySeq (s.readPage (p + 1)) = (copySeq (s.readPage p) + k) % 65536 →
      s.chooseRecord p = some ⟨false, copySeq (s.readPage p), copyPayload (s.readPage p), false⟩)

/-- The stamp of every state is the formula of R323 over its calendar fields; the day number is 0 on 2000-01-01 and rises by 1
with each next day up to 2199-12-31; a tick of a valid calendar raises the stamp by 1 modulo 2^36 unless the clock rolls over.
(R323.) -/
def Obligations.TimeStamp : Prop :=
  (∀ s : State, s.stamp = ((86400 * dayNumber s.rtc.now.year s.rtc.now.month s.rtc.now.day + 3600 * s.rtc.now.hour + 60 * s.rtc.now.min + s.rtc.now.sec) * 1024 +
    s.rtc.now.subsec) % 2 ^ 36) ∧
  dayNumber 0 1 1 = 0 ∧
  (∀ c : Calendar, c.valid = true → c.lastDay = false →
    dayNumber c.nextDay.year c.nextDay.month c.nextDay.day = dayNumber c.year c.month c.day + 1 ∧ c.nextDay.valid = true) ∧
  (∀ c : Calendar, c.valid = true → c.tick.1.valid = true ∧ (c.tick.2 = false → c.tick.1.stamp = (c.stamp + 1) % 2 ^ 36))

end Statements
end

