-- ==== Sys2Proof/Laws/Map.lean ====
section
/-! SUPPORT. The laws of sparse storage: reading after writing, and that every operation keeps the canonical form. -/

-- Proof bodies are elaborated in order: elaborated in parallel they wait on one another, each in a thread of its own.
set_option Elab.async false

namespace Sys2Proof.Machine

/-! Reading after writing -/

theorem Map.get_erase_same {V : Type} (d : Nat → V) (m : Map V) (k : Nat) : Map.get d (Map.erase m k) k = d k := by
  induction m with
  | nil => rfl
  | cons e m ih =>
    obtain ⟨k', v⟩ := e
    by_cases h : k' = k
    · simpa [Map.erase, h] using ih
    · have h' : k ≠ k' := fun x => h x.symm
      simpa [Map.erase, h, h', Map.get] using ih

theorem Map.get_erase_ne {V : Type} (d : Nat → V) (m : Map V) {k j : Nat} (h : j ≠ k) :
    Map.get d (Map.erase m k) j = Map.get d m j := by
  induction m with
  | nil => rfl
  | cons e m ih =>
    obtain ⟨k', v⟩ := e
    by_cases hk : k' = k
    · subst hk
      simpa [Map.erase, Map.get, h] using ih
    · by_cases hj : j = k'
      · simp [Map.erase, hk, hj, Map.get]
      · simpa [Map.erase, hk, hj, Map.get] using ih

theorem Map.get_insertSorted_same {V : Type} (d : Nat → V) (m : Map V) (k : Nat) (v : V)
    (h : ∀ e ∈ m, e.1 ≠ k) : Map.get d (Map.insertSorted k v m) k = v := by
  induction m with
  | nil => simp [Map.insertSorted, Map.get]
  | cons e m ih =>
    obtain ⟨k', v'⟩ := e
    have hk : k ≠ k' := fun x => h (k', v') (by simp) x.symm
    by_cases hl : k < k'
    · simp [Map.insertSorted, hl, Map.get]
    · simpa [Map.insertSorted, hl, Map.get, hk] using ih (fun e he => h e (by simp [he]))

theorem Map.get_insertSorted_ne {V : Type} (d : Nat → V) (m : Map V) {k j : Nat} (v : V) (h : j ≠ k) :
    Map.get d (Map.insertSorted k v m) j = Map.get d m j := by
  induction m with
  | nil => simp [Map.insertSorted, Map.get, h]
  | cons e m ih =>
    obtain ⟨k', v'⟩ := e
    by_cases hl : k < k'
    · simp [Map.insertSorted, hl, Map.get, h]
    · by_cases hj : j = k'
      · simp [Map.insertSorted, hl, Map.get, hj]
      · simpa [Map.insertSorted, hl, Map.get, hj] using ih

theorem Map.erase_ne {V : Type} (m : Map V) (k : Nat) : ∀ e ∈ Map.erase m k, e.1 ≠ k := by
  intro e he
  simpa using (List.mem_filter.mp he).2

@[simp] theorem Map.get_nil {V : Type} (d : Nat → V) (k : Nat) : Map.get d [] k = d k := rfl

theorem Map.erase_insertSorted {V : Type} (m : Map V) (k : Nat) (v : V) : Map.erase (Map.insertSorted k v m) k = Map.erase m k := by
  induction m with
  | nil => simp [Map.insertSorted, Map.erase]
  | cons e m ih =>
    simp only [Map.erase, ne_eq, decide_not] at ih ⊢
    by_cases h : k < e.1 <;> simp [Map.insertSorted, h, List.filter_cons, ih]

/-- A second write to the same key replaces the first. -/
@[simp] theorem Map.set_set {V : Type} [DecidableEq V] (d : Nat → V) (m : Map V) (k : Nat) (v w : V) :
    Map.set d (Map.set d m k v) k w = Map.set d m k w := by
  have h : Map.erase (Map.set d m k v) k = Map.erase m k := by
    unfold Map.set
    split
    · simp [Map.erase]
    · rw [Map.erase_insertSorted]; simp [Map.erase]
  generalize Map.set d m k v = u at h ⊢
  simp only [Map.set, h]

/-- A read after a write to the same key gives the value written. -/
@[simp] theorem Map.get_set_same {V : Type} [DecidableEq V] (d : Nat → V) (m : Map V) (k : Nat) (v : V) :
    Map.get d (Map.set d m k v) k = v := by
  unfold Map.set
  split
  · next h => rw [Map.get_erase_same, h]
  · exact Map.get_insertSorted_same d _ k v (Map.erase_ne m k)

/-- A write leaves every other key alone. -/
theorem Map.get_set_ne {V : Type} [DecidableEq V] (d : Nat → V) (m : Map V) {k j : Nat} (v : V) (h : j ≠ k) :
    Map.get d (Map.set d m k v) j = Map.get d m j := by
  unfold Map.set
  split
  · exact Map.get_erase_ne d m h
  · rw [Map.get_insertSorted_ne d _ v h, Map.get_erase_ne d m h]

theorem Map.get_keep {V : Type} (d : Nat → V) (m : Map V) (p : Nat → Bool) (k : Nat) :
    Map.get d (Map.keep m p) k = if p k then Map.get d m k else d k := by
  induction m with
  | nil => simp [Map.keep]
  | cons e m ih =>
    obtain ⟨k', v⟩ := e
    by_cases hp : p k' <;> by_cases hk : k = k'
    · subst hk; simp [Map.keep, hp, Map.get]
    · simpa [Map.keep, hp, Map.get, hk] using ih
    · subst hk; simpa [Map.keep, hp, Map.get] using ih
    · simpa [Map.keep, hp, Map.get, hk] using ih

theorem Map.get_setAll_ne {V : Type} [DecidableEq V] (d : Nat → V) (es : List (Nat × V)) (m : Map V) {j : Nat}
    (h : ∀ e ∈ es, e.1 ≠ j) : Map.get d (Map.setAll d m es) j = Map.get d m j := by
  induction es generalizing m with
  | nil => rfl
  | cons e es ih =>
    have := ih (Map.set d m e.1 e.2) (fun x hx => h x (by simp [hx]))
    simp only [Map.setAll, List.foldl_cons] at this ⊢
    rw [this, Map.get_set_ne d m e.2 (fun x => h e (by simp) x.symm)]

/-! The canonical form -/

theorem Map.sorted_iff {V : Type} (m : Map V) : Map.sorted m = true ↔ m.Pairwise (fun a b => a.1 < b.1) := by
  induction m with
  | nil => simp [Map.sorted]
  | cons e m ih =>
    cases m with
    | nil => simp [Map.sorted]
    | cons f m =>
      obtain ⟨k, v⟩ := e
      obtain ⟨k', v'⟩ := f
      simp only [Map.sorted, Bool.and_eq_true, decide_eq_true_eq, ih]
      constructor
      · rintro ⟨h, hp⟩
        refine List.pairwise_cons.mpr ⟨?_, hp⟩
        intro b hb
        rcases List.mem_cons.mp hb with rfl | hb
        · exact h
        · exact Nat.lt_trans h ((List.pairwise_cons.mp hp).1 b hb)
      · intro h
        have := List.pairwise_cons.mp h
        exact ⟨this.1 (k', v') (by simp), this.2⟩

theorem Map.wf_iff {V : Type} [DecidableEq V] (d : Nat → V) (m : Map V) :
    Map.wf d m = true ↔ m.Pairwise (fun a b => a.1 < b.1) ∧ ∀ e ∈ m, e.2 ≠ d e.1 := by
  simp [Map.wf, Map.sorted_iff]

@[simp] theorem Map.wf_nil {V : Type} [DecidableEq V] (d : Nat → V) : Map.wf d ([] : Map V) = true := by
  simp [Map.wf_iff]

theorem Map.wf_filter {V : Type} [DecidableEq V] {d : Nat → V} {m : Map V} (h : Map.wf d m = true) (p : Nat × V → Bool) :
    Map.wf d (m.filter p) = true := by
  rw [Map.wf_iff] at h ⊢
  exact ⟨h.1.filter p, fun e he => h.2 e (List.mem_filter.mp he).1⟩

theorem Map.wf_keep {V : Type} [DecidableEq V] {d : Nat → V} {m : Map V} (h : Map.wf d m = true) (p : Nat → Bool) :
    Map.wf d (Map.keep m p) = true := Map.wf_filter h _

theorem Map.wf_erase {V : Type} [DecidableEq V] {d : Nat → V} {m : Map V} (h : Map.wf d m = true) (k : Nat) :
    Map.wf d (Map.erase m k) = true := Map.wf_filter h _

theorem Map.mem_insertSorted {V : Type} (k : Nat) (v : V) (m : Map V) (e : Nat × V) :
    e ∈ Map.insertSorted k v m ↔ e = (k, v) ∨ e ∈ m := by
  induction m with
  | nil => simp [Map.insertSorted]
  | cons f m ih =>
    obtain ⟨k', v'⟩ := f
    by_cases hl : k < k'
    · simp [Map.insertSorted, hl]
    · simp [Map.insertSorted, hl, ih, or_left_comm]

theorem Map.pairwise_insertSorted {V : Type} (k : Nat) (v : V) (m : Map V) (hk : ∀ e ∈ m, e.1 ≠ k)
    (h : m.Pairwise (fun a b => a.1 < b.1)) : (Map.insertSorted k v m).Pairwise (fun a b => a.1 < b.1) := by
  induction m with
  | nil => simp [Map.insertSorted]
  | cons f m ih =>
    obtain ⟨k', v'⟩ := f
    have hm := List.pairwise_cons.mp h
    by_cases hl : k < k'
    · simp only [Map.insertSorted, hl, if_true]
      refine List.pairwise_cons.mpr ⟨?_, h⟩
      intro b hb
      rcases List.mem_cons.mp hb with rfl | hb
      · exact hl
      · exact Nat.lt_trans hl (hm.1 b hb)
    · simp only [Map.insertSorted, hl, if_false]
      refine List.pairwise_cons.mpr ⟨?_, ih (fun e he => hk e (by simp [he])) hm.2⟩
      intro b hb
      rcases (Map.mem_insertSorted k v m b).mp hb with rfl | hb
      · have := hk (k', v') (by simp)
        simp only at this ⊢
        omega
      · exact hm.1 b hb

/-- A write keeps the canonical form. -/
theorem Map.wf_set {V : Type} [DecidableEq V] {d : Nat → V} {m : Map V} (h : Map.wf d m = true) (k : Nat) (v : V) :
    Map.wf d (Map.set d m k v) = true := by
  have he := Map.wf_erase h k
  unfold Map.set
  split
  · exact he
  · next hv =>
    rw [Map.wf_iff] at he ⊢
    refine ⟨Map.pairwise_insertSorted k v _ (Map.erase_ne m k) he.1, ?_⟩
    intro e hm
    rcases (Map.mem_insertSorted k v _ e).mp hm with rfl | hm
    · exact hv
    · exact he.2 e hm

theorem Map.wf_setAll {V : Type} [DecidableEq V] {d : Nat → V} (es : List (Nat × V)) {m : Map V} (h : Map.wf d m = true) :
    Map.wf d (Map.setAll d m es) = true := by
  induction es generalizing m with
  | nil => exact h
  | cons e es ih => exact ih (Map.wf_set h e.1 e.2)

/-- Mapping the values of a canonical store and dropping those that became the unlisted value keeps the form. -/
theorem Map.wf_mapFilter {V : Type} [DecidableEq V] {d : Nat → V} {m : Map V} (h : Map.wf d m = true) (f : Nat × V → V)
    (p : Nat × V → Bool) (hp : ∀ e, p e = true → e.2 ≠ d e.1) :
    Map.wf d ((m.map (fun e => (e.1, f e))).filter p) = true := by
  rw [Map.wf_iff] at h ⊢
  refine ⟨List.Pairwise.filter _ (List.pairwise_map.mpr ?_), fun e he => hp e (List.mem_filter.mp he).2⟩
  exact h.1.imp (fun hab => hab)

/-! Stores whose values have a property -/

theorem Map.all_get {V : Type} (P : V → Bool) (d : Nat → V) {m : Map V} (h : m.all (fun e => P e.2) = true) (k : Nat)
    (hd : P (d k) = true) : P (Map.get d m k) = true := by
  induction m with
  | nil => exact hd
  | cons e m ih =>
    obtain ⟨k', v⟩ := e
    simp only [List.all_cons, Bool.and_eq_true] at h
    unfold Map.get
    split
    · exact h.1
    · exact ih h.2

theorem Map.all_set {V : Type} [DecidableEq V] (P : V → Bool) (d : Nat → V) {m : Map V}
    (h : m.all (fun e => P e.2) = true) (k : Nat) {v : V} (hv : P v = true) :
    (Map.set d m k v).all (fun e => P e.2) = true := by
  rw [List.all_eq_true] at h ⊢
  have he : ∀ e ∈ Map.erase m k, P e.2 = true := fun e he => h e (List.mem_filter.mp he).1
  unfold Map.set
  split
  · exact he
  · intro e hm
    rcases (Map.mem_insertSorted k v _ e).mp hm with rfl | hm
    · exact hv
    · exact he e hm

/-- A key that no entry has reads as unlisted. -/
theorem Map.get_of_absent {V : Type} (d : Nat → V) {m : Map V} {k : Nat} (h : ∀ e ∈ m, e.1 ≠ k) : Map.get d m k = d k := by
  induction m with
  | nil => rfl
  | cons e m ih =>
    obtain ⟨k', v⟩ := e
    have hk : k ≠ k' := fun x => h (k', v) (by simp) x.symm
    simpa [Map.get, hk] using ih (fun e he => h e (by simp [he]))

/-- A key that reads as unlisted has no entry in a canonical store. -/
theorem Map.absent_of_get {V : Type} [DecidableEq V] {d : Nat → V} {m : Map V} (h : Map.wf d m = true) {k : Nat}
    (hk : Map.get d m k = d k) : ∀ e ∈ m, e.1 ≠ k := by
  induction m with
  | nil => simp
  | cons f m ih =>
    obtain ⟨k', v⟩ := f
    rw [Map.wf_iff] at h
    have hp := List.pairwise_cons.mp h.1
    have hv : v ≠ d k' := h.2 (k', v) (by simp)
    have hne : k ≠ k' := by
      rintro rfl
      exact hv (by simpa [Map.get] using hk)
    have hm : Map.wf d m = true := (Map.wf_iff d m).mpr ⟨hp.2, fun e he => h.2 e (by simp [he])⟩
    intro e he
    rcases List.mem_cons.mp he with rfl | he
    · exact fun x => hne x.symm
    · exact ih hm (by simpa [Map.get, hne] using hk) e he

end Sys2Proof.Machine
end

