-- ==== Sys2Proof/Laws/Kept.lean ====
section
/-! SUPPORT. What a shared operation can do, said once for each operation and each command by its lemma `<name>_kept`: it keeps
the queue of waiting commands and the invariant of Safety.lean, and it changes nothing outside the parts of the state that its
mask names. A mask is a number: bits 0 to 6 stand for register addresses (below 0x100, 0x200, 0x280, 0x300, 0x400, 0x800, and
from 0x800 on), bits 16 to 38 for the other parts of the state, in the order of `Frame`. -/

-- Proof bodies are elaborated in order: elaborated in parallel they wait on one another, each in a thread of its own.
set_option Elab.async false

namespace Sys2Proof.Machine
open Sys2Proof

/-! Masks -/

/-- The bit of a register address. -/
def regPart (a : Nat) : Nat :=
  if a < 0x100 then 0 else if a < 0x200 then 1 else if a < 0x280 then 2 else if a < 0x300 then 3 else if a < 0x400 then 4
  else if a < 0x800 then 5 else 6

/-- Every part of mask `a` is one of mask `b`. -/
def sub (a b : Nat) : Bool := decide (a &&& b = a)

/-- A register that an operation of mask `m` may write: of its parts, and not fused. -/
def okAddr (m a : Nat) : Bool := !fusedReg a && m.testBit (regPart a)

/-- Every register from `a` on. -/
def okFrom (m a : Nat) : Bool := decide (8 ≤ a) && [0, 1, 2, 3, 4, 5, 6].all (fun g => decide (g < regPart a) || m.testBit g)

theorem sub_testBit {a b i : Nat} (h : sub a b = true) (hi : a.testBit i = true) : b.testBit i = true := by
  have hab : a &&& b = a := by simpa [sub] using h
  rw [← hab, Nat.testBit_and, Bool.and_eq_true] at hi
  exact hi.2

theorem sub_le {a b m : Nat} (hb : sub b m = true) (ha : sub a b = true) : sub a m = true := by
  have h1 : b &&& m = b := by simpa [sub] using hb
  have h2 : a &&& b = a := by simpa [sub] using ha
  have : a &&& m = a := by rw [← h2, Nat.and_assoc, h1]
  simpa [sub] using this

theorem sub_refl (m : Nat) : sub m m = true := by simp [sub]

/-- Bit `i` of the mask stands, or the part is as it was. -/
def May (m i : Nat) (p : Prop) : Prop := m.testBit i = true ∨ p

theorem bit_le {b m i : Nat} {p : Prop} (hb : sub b m = true) (hi : b.testBit i = true) : May m i p := .inl (sub_testBit hb hi)

theorem May.same {m i : Nat} {p : Prop} (h : p) : May m i p := .inr h

theorem May.off {m i : Nat} {p : Prop} (h : May m i p) (hb : m.testBit i = false) : p := by
  rcases h with h | h
  · rw [hb] at h
    cases h
  · exact h

theorem ok_le {b m a : Nat} (hb : sub b m = true) (ha : okAddr b a = true) : okAddr m a = true := by
  simp only [okAddr, Bool.and_eq_true] at ha ⊢
  exact ⟨ha.1, sub_testBit hb ha.2⟩

theorem regPart_mono {a b : Nat} (h : a ≤ b) : regPart a ≤ regPart b := by
  unfold regPart
  split_ifs <;> omega

theorem regPart_le (a : Nat) : regPart a ≤ 6 := by
  unfold regPart
  split_ifs <;> omega

theorem ok_from {b m n a : Nat} (hb : sub b m = true) (hn : okFrom b n = true) (h : n ≤ a) : okAddr m a = true := by
  simp only [okFrom, Bool.and_eq_true, decide_eq_true_eq] at hn
  refine ok_le hb ?_
  simp only [okAddr, Bool.and_eq_true]
  constructor
  · simp [fusedReg]
    omega
  · have hm := regPart_mono h
    have hl := regPart_le a
    have hmem : regPart a ∈ [0, 1, 2, 3, 4, 5, 6] := by
      simp only [List.mem_cons, List.not_mem_nil, or_false]
      omega
    have := List.all_eq_true.mp hn.2 _ hmem
    simp only [Bool.or_eq_true, decide_eq_true_eq] at this
    rcases this with h' | h'
    · omega
    · exact h'

theorem ok_add {b m n k : Nat} (hb : sub b m = true) (hn : okFrom b n = true) : okAddr m (n + k) = true :=
  ok_from hb hn (Nat.le_add_right n k)

theorem ok_add2 {b m n k l : Nat} (hb : sub b m = true) (hn : okFrom b n = true) : okAddr m (n + k + l) = true :=
  ok_from hb hn (Nat.le_trans (Nat.le_add_right n k) (Nat.le_add_right _ l))

theorem ok_at {b m i : Nat} {f : Fld} (hb : sub b m = true) (h : okAddr b f.addr = true) : okAddr m (f.at i).addr = true := ok_le hb h

theorem all_cons_ok {m : Nat} {e : Fld × Nat} {l : List (Fld × Nat)} (h : okAddr m e.1.addr = true)
    (hl : l.all (fun e => okAddr m e.1.addr) = true) : (e :: l).all (fun e => okAddr m e.1.addr) = true := by
  simp only [List.all_cons, hl, h, Bool.and_self]

theorem all_nil_ok {m : Nat} : ([] : List (Fld × Nat)).all (fun e => okAddr m e.1.addr) = true := rfl

/-! The predicate -/

/-- Nothing outside the mask differs from `s0`. -/
structure Frame (m : Nat) (s0 s : State) : Prop where
  regs : ∀ a, m.testBit (regPart a) = false → s.reg a = s0.reg a
  pwr : m.testBit 16 = false → s.pwr = s0.pwr
  arr : m.testBit 17 = false → s.arr = s0.arr
  planeA : m.testBit 18 = false → s.planeA = s0.planeA
  planeB : m.testBit 18 = false → s.planeB = s0.planeB
  sealA : m.testBit 18 = false → s.sealA = s0.sealA
  sealB : m.testBit 18 = false → s.sealB = s0.sealB
  phys63 : m.testBit 19 = false → s.phys63 = s0.phys63
  dev : m.testBit 20 = false → s.dev = s0.dev
  devA : m.testBit 18 = false → s.devA = s0.devA
  devB : m.testBit 18 = false → s.devB = s0.devB
  store : m.testBit 21 = false → s.store = s0.store
  heldWrites : m.testBit 22 = false → s.heldWrites = s0.heldWrites
  clearing : m.testBit 23 = false → s.clearing = s0.clearing
  hosts : m.testBit 24 = false → s.hosts = s0.hosts
  flights : m.testBit 25 = false → s.flights = s0.flights
  stns : m.testBit 26 = false → s.stns = s0.stns
  encs : m.testBit 27 = false → s.encs = s0.encs
  keep : m.testBit 29 = false → s.keep = s0.keep
  words : m.testBit 28 = false → s.keep.words = s0.keep.words
  led : m.testBit 30 = false → s.led = s0.led
  mboxes : m.testBit 31 = false → s.mboxes = s0.mboxes
  poss : m.testBit 32 = false → s.poss = s0.poss
  rtc : m.testBit 33 = false → s.rtc = s0.rtc
  mport : m.testBit 34 = false → s.mport = s0.mport
  fw : m.testBit 35 = false → s.fw = s0.fw
  heldLog : m.testBit 36 = false → s.heldLog = s0.heldLog
  out : m.testBit 37 = false → s.out = s0.out
  free : m.testBit 38 = false → s.free = s0.free

/-- The queue is `q`, every store is canonical, and every fused register reads as it was fixed. -/
structure Good (q : List Instr) (s : State) : Prop where
  pending : s.pending = q
  regs : Map.wf regReset s.regs = true
  fused : ∀ a, fusedReg a = true → Map.get regReset s.regs a = regReset a
  arr : imagesWf s.arr = true
  planeA : imagesWf s.planeA = true
  planeB : imagesWf s.planeB = true
  sealA : Map.wf (fun _ => 0) s.sealA = true
  sealB : Map.wf (fun _ => 0) s.sealB = true
  dev : Dev.wf s.dev = true
  devA : devsWf s.devA = true
  devB : devsWf s.devB = true
  words : Map.wf keepDefault s.keep.words = true
  hot : Map.wf (fun _ => 0) s.keep.hot = true

/-- What an operation of mask `m` that began at `s0` has kept. -/
structure Kept (m : Nat) (q : List Instr) (s0 s : State) : Prop where
  good : Good q s
  frame : Frame m s0 s

theorem Frame.refl (m : Nat) (s : State) : Frame m s s := by
  constructor <;> intros <;> rfl

theorem good_iff (q : List Instr) (s : State) : Good q s ↔ s.pending = q ∧ s.Inv := by
  constructor
  · intro h
    refine ⟨h.pending, ?_, h.fused⟩
    simp only [Memory.wf, Bool.and_eq_true]
    exact ⟨⟨⟨⟨⟨⟨⟨⟨⟨⟨h.regs, h.arr⟩, h.planeA⟩, h.planeB⟩, h.sealA⟩, h.sealB⟩, h.dev⟩, h.devA⟩, h.devB⟩, h.words⟩, h.hot⟩
  · rintro ⟨hp, hm, hf⟩
    simp only [Memory.wf, Bool.and_eq_true] at hm
    obtain ⟨⟨⟨⟨⟨⟨⟨⟨⟨⟨a, b⟩, c⟩, d⟩, e⟩, f⟩, g⟩, i⟩, j⟩, k⟩, l⟩ := hm
    exact ⟨hp, a, hf, b, c, d, e, f, g, i, j, k, l⟩

/-- A state with the invariant has kept it at the start. -/
theorem kept_start {s : State} (h : s.Inv) (m : Nat) : Kept m s.pending s s := ⟨(good_iff _ _).mpr ⟨rfl, h⟩, Frame.refl m s⟩

/-- `Kept` of a state written out by its parts. -/
def Parts (m : Nat) (q : List Instr) (s0 : State) (regs : Map Word) (pwr : Pwr) (arr : Map Image) (planeA : Map Image)
    (planeB : Map Image) (sealA : Map Word) (sealB : Map Word) (phys63 : Nat) (dev : Dev) (devA : Map Dev) (devB : Map
    Dev) (store : Option Store) (heldWrites : List (Nat × Word × Sender)) (clearing : List Nat) (hosts : Map HostPort)
    (flights : List Flight) (stns : Map Stn) (encs : Map Encoder) (keep : Keep) (led : Ledger) (mboxes : Map Mailbox)
    (poss : Map (Option Sender)) (rtc : Clock) (mport : MPort) (fw : Firmware) (heldLog : List (Nat × Nat × Nat × Nat
    × Nat × Nat)) (out : List Out) (free : Nat) (pending : List Instr) : Prop :=
  Kept m q s0 ⟨regs, pwr, arr, planeA, planeB, sealA, sealB, phys63, dev, devA, devB, store, heldWrites, clearing,
    hosts, flights, stns, encs, keep, led, mboxes, poss, rtc, mport, fw, heldLog, out, free, pending⟩

theorem kept_mk {m : Nat} {q : List Instr} {s0 : State} {regs : Map Word} {pwr : Pwr} {arr : Map Image} {planeA : Map
    Image} {planeB : Map Image} {sealA : Map Word} {sealB : Map Word} {phys63 : Nat} {dev : Dev} {devA : Map Dev}
    {devB : Map Dev} {store : Option Store} {heldWrites : List (Nat × Word × Sender)} {clearing : List Nat} {hosts :
    Map HostPort} {flights : List Flight} {stns : Map Stn} {encs : Map Encoder} {keep : Keep} {led : Ledger} {mboxes :
    Map Mailbox} {poss : Map (Option Sender)} {rtc : Clock} {mport : MPort} {fw : Firmware} {heldLog : List (Nat × Nat
    × Nat × Nat × Nat × Nat)} {out : List Out} {free : Nat} {pending : List Instr} : Kept m q s0 (State.mk regs pwr
    arr planeA planeB sealA sealB phys63 dev devA devB store heldWrites clearing hosts flights stns encs keep led
    mboxes poss rtc mport fw heldLog out free pending) ↔ Parts m q s0 regs pwr arr planeA planeB sealA sealB phys63
    dev devA devB store heldWrites clearing hosts flights stns encs keep led mboxes poss rtc mport fw heldLog out free
    pending := Iff.rfl

/-- A state that differs in none of the addressed stores. -/
theorem Kept.parts {m : Nat} {q : List Instr} {s0 s : State} (h : Kept m q s0 s) {pwr : Pwr} {phys63 : Nat} {store : Option Store}
    {heldWrites : List (Nat × Word × Sender)} {clearing : List Nat} {hosts : Map HostPort} {flights : List Flight}
    {stns : Map Stn} {encs : Map Encoder} {keep : Keep} {led : Ledger} {mboxes : Map Mailbox} {poss : Map (Option
    Sender)} {rtc : Clock} {mport : MPort} {fw : Firmware} {heldLog : List (Nat × Nat × Nat × Nat × Nat × Nat)} {out :
    List Out} {free : Nat}
    (h_pwr : May m 16 (pwr = s.pwr) := by first | exact bit_le (by assumption) (by decide) | exact May.same rfl)
    (h_phys63 : May m 19 (phys63 = s.phys63) := by first | exact bit_le (by assumption) (by decide) | exact May.same rfl)
    (h_store : May m 21 (store = s.store) := by first | exact bit_le (by assumption) (by decide) | exact May.same rfl)
    (h_heldWrites : May m 22 (heldWrites = s.heldWrites) := by first | exact bit_le (by assumption) (by decide) | exact May.same rfl)
    (h_clearing : May m 23 (clearing = s.clearing) := by first | exact bit_le (by assumption) (by decide) | exact May.same rfl)
    (h_hosts : May m 24 (hosts = s.hosts) := by first | exact bit_le (by assumption) (by decide) | exact May.same rfl)
    (h_flights : May m 25 (flights = s.flights) := by first | exact bit_le (by assumption) (by decide) | exact May.same rfl)
    (h_stns : May m 26 (stns = s.stns) := by first | exact bit_le (by assumption) (by decide) | exact May.same rfl)
    (h_encs : May m 27 (encs = s.encs) := by first | exact bit_le (by assumption) (by decide) | exact May.same rfl)
    (h_keep : May m 29 (keep = s.keep) := by first | exact bit_le (by assumption) (by decide) | exact May.same rfl)
    (h_led : May m 30 (led = s.led) := by first | exact bit_le (by assumption) (by decide) | exact May.same rfl)
    (h_mboxes : May m 31 (mboxes = s.mboxes) := by first | exact bit_le (by assumption) (by decide) | exact May.same rfl)
    (h_poss : May m 32 (poss = s.poss) := by first | exact bit_le (by assumption) (by decide) | exact May.same rfl)
    (h_rtc : May m 33 (rtc = s.rtc) := by first | exact bit_le (by assumption) (by decide) | exact May.same rfl)
    (h_mport : May m 34 (mport = s.mport) := by first | exact bit_le (by assumption) (by decide) | exact May.same rfl)
    (h_fw : May m 35 (fw = s.fw) := by first | exact bit_le (by assumption) (by decide) | exact May.same rfl)
    (h_heldLog : May m 36 (heldLog = s.heldLog) := by first | exact bit_le (by assumption) (by decide) | exact May.same rfl)
    (h_out : May m 37 (out = s.out) := by first | exact bit_le (by assumption) (by decide) | exact May.same rfl)
    (h_free : May m 38 (free = s.free) := by first | exact bit_le (by assumption) (by decide) | exact May.same rfl)
    (hw : keep.words = s.keep.words := by rfl) (hh : keep.hot = s.keep.hot := by rfl) :
    Parts m q s0 s.regs pwr s.arr s.planeA s.planeB s.sealA s.sealB phys63 s.dev s.devA s.devB store heldWrites clearing hosts flights stns encs keep led mboxes poss rtc mport fw heldLog out free s.pending := by
  obtain ⟨⟨p, b, c, d, e, f, g, i, j, k, l, n, t⟩, hf⟩ := h
  refine ⟨⟨p, b, c, d, e, f, g, i, j, k, l, (by rw [hw]; exact n), (by rw [hh]; exact t)⟩, ?_⟩
  constructor
  · exact hf.regs
  · exact fun hb => (h_pwr.off hb).trans (hf.pwr hb)
  · exact hf.arr
  · exact hf.planeA
  · exact hf.planeB
  · exact hf.sealA
  · exact hf.sealB
  · exact fun hb => (h_phys63.off hb).trans (hf.phys63 hb)
  · exact hf.dev
  · exact hf.devA
  · exact hf.devB
  · exact fun hb => (h_store.off hb).trans (hf.store hb)
  · exact fun hb => (h_heldWrites.off hb).trans (hf.heldWrites hb)
  · exact fun hb => (h_clearing.off hb).trans (hf.clearing hb)
  · exact fun hb => (h_hosts.off hb).trans (hf.hosts hb)
  · exact fun hb => (h_flights.off hb).trans (hf.flights hb)
  · exact fun hb => (h_stns.off hb).trans (hf.stns hb)
  · exact fun hb => (h_encs.off hb).trans (hf.encs hb)
  · exact fun hb => (h_keep.off hb).trans (hf.keep hb)
  · exact fun hb => hw.trans (hf.words hb)
  · exact fun hb => (h_led.off hb).trans (hf.led hb)
  · exact fun hb => (h_mboxes.off hb).trans (hf.mboxes hb)
  · exact fun hb => (h_poss.off hb).trans (hf.poss hb)
  · exact fun hb => (h_rtc.off hb).trans (hf.rtc hb)
  · exact fun hb => (h_mport.off hb).trans (hf.mport hb)
  · exact fun hb => (h_fw.off hb).trans (hf.fw hb)
  · exact fun hb => (h_heldLog.off hb).trans (hf.heldLog hb)
  · exact fun hb => (h_out.off hb).trans (hf.out hb)
  · exact fun hb => (h_free.off hb).trans (hf.free hb)

/-- The same where region 63's device state changes within its form. -/
theorem Kept.partsDev {m : Nat} {q : List Instr} {s0 s : State} (h : Kept m q s0 s) {pwr : Pwr} {phys63 : Nat} {dev : Dev} {store : Option
    Store} {heldWrites : List (Nat × Word × Sender)} {clearing : List Nat} {hosts : Map HostPort} {flights : List
    Flight} {stns : Map Stn} {encs : Map Encoder} {keep : Keep} {led : Ledger} {mboxes : Map Mailbox} {poss : Map
    (Option Sender)} {rtc : Clock} {mport : MPort} {fw : Firmware} {heldLog : List (Nat × Nat × Nat × Nat × Nat ×
    Nat)} {out : List Out} {free : Nat} (hd : Dev.wf dev = true)
    (h_pwr : May m 16 (pwr = s.pwr) := by first | exact bit_le (by assumption) (by decide) | exact May.same rfl)
    (h_phys63 : May m 19 (phys63 = s.phys63) := by first | exact bit_le (by assumption) (by decide) | exact May.same rfl)
    (h_dev : May m 20 (dev = s.dev) := by first | exact bit_le (by assumption) (by decide) | exact May.same rfl)
    (h_store : May m 21 (store = s.store) := by first | exact bit_le (by assumption) (by decide) | exact May.same rfl)
    (h_heldWrites : May m 22 (heldWrites = s.heldWrites) := by first | exact bit_le (by assumption) (by decide) | exact May.same rfl)
    (h_clearing : May m 23 (clearing = s.clearing) := by first | exact bit_le (by assumption) (by decide) | exact May.same rfl)
    (h_hosts : May m 24 (hosts = s.hosts) := by first | exact bit_le (by assumption) (by decide) | exact May.same rfl)
    (h_flights : May m 25 (flights = s.flights) := by first | exact bit_le (by assumption) (by decide) | exact May.same rfl)
    (h_stns : May m 26 (stns = s.stns) := by first | exact bit_le (by assumption) (by decide) | exact May.same rfl)
    (h_encs : May m 27 (encs = s.encs) := by first | exact bit_le (by assumption) (by decide) | exact May.same rfl)
    (h_keep : May m 29 (keep = s.keep) := by first | exact bit_le (by assumption) (by decide) | exact May.same rfl)
    (h_led : May m 30 (led = s.led) := by first | exact bit_le (by assumption) (by decide) | exact May.same rfl)
    (h_mboxes : May m 31 (mboxes = s.mboxes) := by first | exact bit_le (by assumption) (by decide) | exact May.same rfl)
    (h_poss : May m 32 (poss = s.poss) := by first | exact bit_le (by assumption) (by decide) | exact May.same rfl)
    (h_rtc : May m 33 (rtc = s.rtc) := by first | exact bit_le (by assumption) (by decide) | exact May.same rfl)
    (h_mport : May m 34 (mport = s.mport) := by first | exact bit_le (by assumption) (by decide) | exact May.same rfl)
    (h_fw : May m 35 (fw = s.fw) := by first | exact bit_le (by assumption) (by decide) | exact May.same rfl)
    (h_heldLog : May m 36 (heldLog = s.heldLog) := by first | exact bit_le (by assumption) (by decide) | exact May.same rfl)
    (h_out : May m 37 (out = s.out) := by first | exact bit_le (by assumption) (by decide) | exact May.same rfl)
    (h_free : May m 38 (free = s.free) := by first | exact bit_le (by assumption) (by decide) | exact May.same rfl)
    (hw : keep.words = s.keep.words := by rfl) (hh : keep.hot = s.keep.hot := by rfl) :
    Parts m q s0 s.regs pwr s.arr s.planeA s.planeB s.sealA s.sealB phys63 dev s.devA s.devB store heldWrites clearing hosts flights stns encs keep led mboxes poss rtc mport fw heldLog out free s.pending := by
  obtain ⟨⟨p, b, c, d, e, f, g, i, j, k, l, n, t⟩, hf⟩ := h
  refine ⟨⟨p, b, c, d, e, f, g, i, hd, k, l, (by rw [hw]; exact n), (by rw [hh]; exact t)⟩, ?_⟩
  constructor
  · exact hf.regs
  · exact fun hb => (h_pwr.off hb).trans (hf.pwr hb)
  · exact hf.arr
  · exact hf.planeA
  · exact hf.planeB
  · exact hf.sealA
  · exact hf.sealB
  · exact fun hb => (h_phys63.off hb).trans (hf.phys63 hb)
  · exact fun hb => (h_dev.off hb).trans (hf.dev hb)
  · exact hf.devA
  · exact hf.devB
  · exact fun hb => (h_store.off hb).trans (hf.store hb)
  · exact fun hb => (h_heldWrites.off hb).trans (hf.heldWrites hb)
  · exact fun hb => (h_clearing.off hb).trans (hf.clearing hb)
  · exact fun hb => (h_hosts.off hb).trans (hf.hosts hb)
  · exact fun hb => (h_flights.off hb).trans (hf.flights hb)
  · exact fun hb => (h_stns.off hb).trans (hf.stns hb)
  · exact fun hb => (h_encs.off hb).trans (hf.encs hb)
  · exact fun hb => (h_keep.off hb).trans (hf.keep hb)
  · exact fun hb => hw.trans (hf.words hb)
  · exact fun hb => (h_led.off hb).trans (hf.led hb)
  · exact fun hb => (h_mboxes.off hb).trans (hf.mboxes hb)
  · exact fun hb => (h_poss.off hb).trans (hf.poss hb)
  · exact fun hb => (h_rtc.off hb).trans (hf.rtc hb)
  · exact fun hb => (h_mport.off hb).trans (hf.mport hb)
  · exact fun hb => (h_fw.off hb).trans (hf.fw hb)
  · exact fun hb => (h_heldLog.off hb).trans (hf.heldLog hb)
  · exact fun hb => (h_out.off hb).trans (hf.out hb)
  · exact fun hb => (h_free.off hb).trans (hf.free hb)

/-- The same where words of Keep change. -/
theorem Kept.partsKeep {m : Nat} {q : List Instr} {s0 s : State} (h : Kept m q s0 s) {pwr : Pwr} {phys63 : Nat} {store : Option Store}
    {heldWrites : List (Nat × Word × Sender)} {clearing : List Nat} {hosts : Map HostPort} {flights : List Flight}
    {stns : Map Stn} {encs : Map Encoder} {keep : Keep} {led : Ledger} {mboxes : Map Mailbox} {poss : Map (Option
    Sender)} {rtc : Clock} {mport : MPort} {fw : Firmware} {heldLog : List (Nat × Nat × Nat × Nat × Nat × Nat)} {out :
    List Out} {free : Nat} (g9 : Map.wf keepDefault keep.words = true) (g10 : Map.wf (fun _ => 0) keep.hot = true)
    (h_pwr : May m 16 (pwr = s.pwr) := by first | exact bit_le (by assumption) (by decide) | exact May.same rfl)
    (h_phys63 : May m 19 (phys63 = s.phys63) := by first | exact bit_le (by assumption) (by decide) | exact May.same rfl)
    (h_store : May m 21 (store = s.store) := by first | exact bit_le (by assumption) (by decide) | exact May.same rfl)
    (h_heldWrites : May m 22 (heldWrites = s.heldWrites) := by first | exact bit_le (by assumption) (by decide) | exact May.same rfl)
    (h_clearing : May m 23 (clearing = s.clearing) := by first | exact bit_le (by assumption) (by decide) | exact May.same rfl)
    (h_hosts : May m 24 (hosts = s.hosts) := by first | exact bit_le (by assumption) (by decide) | exact May.same rfl)
    (h_flights : May m 25 (flights = s.flights) := by first | exact bit_le (by assumption) (by decide) | exact May.same rfl)
    (h_stns : May m 26 (stns = s.stns) := by first | exact bit_le (by assumption) (by decide) | exact May.same rfl)
    (h_encs : May m 27 (encs = s.encs) := by first | exact bit_le (by assumption) (by decide) | exact May.same rfl)
    (h_keep : May m 29 (keep = s.keep) := by first | exact bit_le (by assumption) (by decide) | exact May.same rfl)
    (h_led : May m 30 (led = s.led) := by first | exact bit_le (by assumption) (by decide) | exact May.same rfl)
    (h_mboxes : May m 31 (mboxes = s.mboxes) := by first | exact bit_le (by assumption) (by decide) | exact May.same rfl)
    (h_poss : May m 32 (poss = s.poss) := by first | exact bit_le (by assumption) (by decide) | exact May.same rfl)
    (h_rtc : May m 33 (rtc = s.rtc) := by first | exact bit_le (by assumption) (by decide) | exact May.same rfl)
    (h_mport : May m 34 (mport = s.mport) := by first | exact bit_le (by assumption) (by decide) | exact May.same rfl)
    (h_fw : May m 35 (fw = s.fw) := by first | exact bit_le (by assumption) (by decide) | exact May.same rfl)
    (h_heldLog : May m 36 (heldLog = s.heldLog) := by first | exact bit_le (by assumption) (by decide) | exact May.same rfl)
    (h_out : May m 37 (out = s.out) := by first | exact bit_le (by assumption) (by decide) | exact May.same rfl)
    (h_free : May m 38 (free = s.free) := by first | exact bit_le (by assumption) (by decide) | exact May.same rfl)
    (hb : May m 28 (keep.words = s.keep.words) := by first | exact bit_le (by assumption) (by decide) | exact May.same rfl) :
    Parts m q s0 s.regs pwr s.arr s.planeA s.planeB s.sealA s.sealB phys63 s.dev s.devA s.devB store heldWrites clearing hosts flights stns encs keep led mboxes poss rtc mport fw heldLog out free s.pending := by
  obtain ⟨⟨p, b, c, d, e, f, g, i, j, k, l, n, t⟩, hf⟩ := h
  refine ⟨⟨p, b, c, d, e, f, g, i, j, k, l, g9, g10⟩, ?_⟩
  constructor
  · exact hf.regs
  · exact fun hb => (h_pwr.off hb).trans (hf.pwr hb)
  · exact hf.arr
  · exact hf.planeA
  · exact hf.planeB
  · exact hf.sealA
  · exact hf.sealB
  · exact fun hb => (h_phys63.off hb).trans (hf.phys63 hb)
  · exact hf.dev
  · exact hf.devA
  · exact hf.devB
  · exact fun hb => (h_store.off hb).trans (hf.store hb)
  · exact fun hb => (h_heldWrites.off hb).trans (hf.heldWrites hb)
  · exact fun hb => (h_clearing.off hb).trans (hf.clearing hb)
  · exact fun hb => (h_hosts.off hb).trans (hf.hosts hb)
  · exact fun hb => (h_flights.off hb).trans (hf.flights hb)
  · exact fun hb => (h_stns.off hb).trans (hf.stns hb)
  · exact fun hb => (h_encs.off hb).trans (hf.encs hb)
  · exact fun hb => (h_keep.off hb).trans (hf.keep hb)
  · exact fun hx => (hb.off hx).trans (hf.words hx)
  · exact fun hb => (h_led.off hb).trans (hf.led hb)
  · exact fun hb => (h_mboxes.off hb).trans (hf.mboxes hb)
  · exact fun hb => (h_poss.off hb).trans (hf.poss hb)
  · exact fun hb => (h_rtc.off hb).trans (hf.rtc hb)
  · exact fun hb => (h_mport.off hb).trans (hf.mport hb)
  · exact fun hb => (h_fw.off hb).trans (hf.fw hb)
  · exact fun hb => (h_heldLog.off hb).trans (hf.heldLog hb)
  · exact fun hb => (h_out.off hb).trans (hf.out hb)
  · exact fun hb => (h_free.off hb).trans (hf.free hb)

/-- The same where seal blocks change. -/
theorem Kept.partsSeals {m : Nat} {q : List Instr} {s0 s : State} (h : Kept m q s0 s) {pwr : Pwr} {sealA : Map Word} {sealB : Map Word}
    {phys63 : Nat} {store : Option Store} {heldWrites : List (Nat × Word × Sender)} {clearing : List Nat} {hosts : Map
    HostPort} {flights : List Flight} {stns : Map Stn} {encs : Map Encoder} {keep : Keep} {led : Ledger} {mboxes : Map
    Mailbox} {poss : Map (Option Sender)} {rtc : Clock} {mport : MPort} {fw : Firmware} {heldLog : List (Nat × Nat ×
    Nat × Nat × Nat × Nat)} {out : List Out} {free : Nat} (g4 : Map.wf (fun _ => 0) sealA = true) (g5 : Map.wf (fun _
    => 0) sealB = true)
    (h_pwr : May m 16 (pwr = s.pwr) := by first | exact bit_le (by assumption) (by decide) | exact May.same rfl)
    (h_sealA : May m 18 (sealA = s.sealA) := by first | exact bit_le (by assumption) (by decide) | exact May.same rfl)
    (h_sealB : May m 18 (sealB = s.sealB) := by first | exact bit_le (by assumption) (by decide) | exact May.same rfl)
    (h_phys63 : May m 19 (phys63 = s.phys63) := by first | exact bit_le (by assumption) (by decide) | exact May.same rfl)
    (h_store : May m 21 (store = s.store) := by first | exact bit_le (by assumption) (by decide) | exact May.same rfl)
    (h_heldWrites : May m 22 (heldWrites = s.heldWrites) := by first | exact bit_le (by assumption) (by decide) | exact May.same rfl)
    (h_clearing : May m 23 (clearing = s.clearing) := by first | exact bit_le (by assumption) (by decide) | exact May.same rfl)
    (h_hosts : May m 24 (hosts = s.hosts) := by first | exact bit_le (by assumption) (by decide) | exact May.same rfl)
    (h_flights : May m 25 (flights = s.flights) := by first | exact bit_le (by assumption) (by decide) | exact May.same rfl)
    (h_stns : May m 26 (stns = s.stns) := by first | exact bit_le (by assumption) (by decide) | exact May.same rfl)
    (h_encs : May m 27 (encs = s.encs) := by first | exact bit_le (by assumption) (by decide) | exact May.same rfl)
    (h_keep : May m 29 (keep = s.keep) := by first | exact bit_le (by assumption) (by decide) | exact May.same rfl)
    (h_led : May m 30 (led = s.led) := by first | exact bit_le (by assumption) (by decide) | exact May.same rfl)
    (h_mboxes : May m 31 (mboxes = s.mboxes) := by first | exact bit_le (by assumption) (by decide) | exact May.same rfl)
    (h_poss : May m 32 (poss = s.poss) := by first | exact bit_le (by assumption) (by decide) | exact May.same rfl)
    (h_rtc : May m 33 (rtc = s.rtc) := by first | exact bit_le (by assumption) (by decide) | exact May.same rfl)
    (h_mport : May m 34 (mport = s.mport) := by first | exact bit_le (by assumption) (by decide) | exact May.same rfl)
    (h_fw : May m 35 (fw = s.fw) := by first | exact bit_le (by assumption) (by decide) | exact May.same rfl)
    (h_heldLog : May m 36 (heldLog = s.heldLog) := by first | exact bit_le (by assumption) (by decide) | exact May.same rfl)
    (h_out : May m 37 (out = s.out) := by first | exact bit_le (by assumption) (by decide) | exact May.same rfl)
    (h_free : May m 38 (free = s.free) := by first | exact bit_le (by assumption) (by decide) | exact May.same rfl)
    (hw : keep.words = s.keep.words := by rfl) (hh : keep.hot = s.keep.hot := by rfl) :
    Parts m q s0 s.regs pwr s.arr s.planeA s.planeB sealA sealB phys63 s.dev s.devA s.devB store heldWrites clearing hosts flights stns encs keep led mboxes poss rtc mport fw heldLog out free s.pending := by
  obtain ⟨⟨p, b, c, d, e, f, g, i, j, k, l, n, t⟩, hf⟩ := h
  refine ⟨⟨p, b, c, d, e, f, g4, g5, j, k, l, (by rw [hw]; exact n), (by rw [hh]; exact t)⟩, ?_⟩
  constructor
  · exact hf.regs
  · exact fun hb => (h_pwr.off hb).trans (hf.pwr hb)
  · exact hf.arr
  · exact hf.planeA
  · exact hf.planeB
  · exact fun hb => (h_sealA.off hb).trans (hf.sealA hb)
  · exact fun hb => (h_sealB.off hb).trans (hf.sealB hb)
  · exact fun hb => (h_phys63.off hb).trans (hf.phys63 hb)
  · exact hf.dev
  · exact hf.devA
  · exact hf.devB
  · exact fun hb => (h_store.off hb).trans (hf.store hb)
  · exact fun hb => (h_heldWrites.off hb).trans (hf.heldWrites hb)
  · exact fun hb => (h_clearing.off hb).trans (hf.clearing hb)
  · exact fun hb => (h_hosts.off hb).trans (hf.hosts hb)
  · exact fun hb => (h_flights.off hb).trans (hf.flights hb)
  · exact fun hb => (h_stns.off hb).trans (hf.stns hb)
  · exact fun hb => (h_encs.off hb).trans (hf.encs hb)
  · exact fun hb => (h_keep.off hb).trans (hf.keep hb)
  · exact fun hb => hw.trans (hf.words hb)
  · exact fun hb => (h_led.off hb).trans (hf.led hb)
  · exact fun hb => (h_mboxes.off hb).trans (hf.mboxes hb)
  · exact fun hb => (h_poss.off hb).trans (hf.poss hb)
  · exact fun hb => (h_rtc.off hb).trans (hf.rtc hb)
  · exact fun hb => (h_mport.off hb).trans (hf.mport hb)
  · exact fun hb => (h_fw.off hb).trans (hf.fw hb)
  · exact fun hb => (h_heldLog.off hb).trans (hf.heldLog hb)
  · exact fun hb => (h_out.off hb).trans (hf.out hb)
  · exact fun hb => (h_free.off hb).trans (hf.free hb)

/-- The same where cells of tiles and planes change. -/
theorem Kept.partsImages {m : Nat} {q : List Instr} {s0 s : State} (h : Kept m q s0 s) {pwr : Pwr} {arr : Map Image} {planeA : Map Image}
    {planeB : Map Image} {phys63 : Nat} {store : Option Store} {heldWrites : List (Nat × Word × Sender)} {clearing :
    List Nat} {hosts : Map HostPort} {flights : List Flight} {stns : Map Stn} {encs : Map Encoder} {keep : Keep} {led
    : Ledger} {mboxes : Map Mailbox} {poss : Map (Option Sender)} {rtc : Clock} {mport : MPort} {fw : Firmware}
    {heldLog : List (Nat × Nat × Nat × Nat × Nat × Nat)} {out : List Out} {free : Nat} (g1 : imagesWf arr = true) (g2
    : imagesWf planeA = true) (g3 : imagesWf planeB = true)
    (h_pwr : May m 16 (pwr = s.pwr) := by first | exact bit_le (by assumption) (by decide) | exact May.same rfl)
    (h_arr : May m 17 (arr = s.arr) := by first | exact bit_le (by assumption) (by decide) | exact May.same rfl)
    (h_planeA : May m 18 (planeA = s.planeA) := by first | exact bit_le (by assumption) (by decide) | exact May.same rfl)
    (h_planeB : May m 18 (planeB = s.planeB) := by first | exact bit_le (by assumption) (by decide) | exact May.same rfl)
    (h_phys63 : May m 19 (phys63 = s.phys63) := by first | exact bit_le (by assumption) (by decide) | exact May.same rfl)
    (h_store : May m 21 (store = s.store) := by first | exact bit_le (by assumption) (by decide) | exact May.same rfl)
    (h_heldWrites : May m 22 (heldWrites = s.heldWrites) := by first | exact bit_le (by assumption) (by decide) | exact May.same rfl)
    (h_clearing : May m 23 (clearing = s.clearing) := by first | exact bit_le (by assumption) (by decide) | exact May.same rfl)
    (h_hosts : May m 24 (hosts = s.hosts) := by first | exact bit_le (by assumption) (by decide) | exact May.same rfl)
    (h_flights : May m 25 (flights = s.flights) := by first | exact bit_le (by assumption) (by decide) | exact May.same rfl)
    (h_stns : May m 26 (stns = s.stns) := by first | exact bit_le (by assumption) (by decide) | exact May.same rfl)
    (h_encs : May m 27 (encs = s.encs) := by first | exact bit_le (by assumption) (by decide) | exact May.same rfl)
    (h_keep : May m 29 (keep = s.keep) := by first | exact bit_le (by assumption) (by decide) | exact May.same rfl)
    (h_led : May m 30 (led = s.led) := by first | exact bit_le (by assumption) (by decide) | exact May.same rfl)
    (h_mboxes : May m 31 (mboxes = s.mboxes) := by first | exact bit_le (by assumption) (by decide) | exact May.same rfl)
    (h_poss : May m 32 (poss = s.poss) := by first | exact bit_le (by assumption) (by decide) | exact May.same rfl)
    (h_rtc : May m 33 (rtc = s.rtc) := by first | exact bit_le (by assumption) (by decide) | exact May.same rfl)
    (h_mport : May m 34 (mport = s.mport) := by first | exact bit_le (by assumption) (by decide) | exact May.same rfl)
    (h_fw : May m 35 (fw = s.fw) := by first | exact bit_le (by assumption) (by decide) | exact May.same rfl)
    (h_heldLog : May m 36 (heldLog = s.heldLog) := by first | exact bit_le (by assumption) (by decide) | exact May.same rfl)
    (h_out : May m 37 (out = s.out) := by first | exact bit_le (by assumption) (by decide) | exact May.same rfl)
    (h_free : May m 38 (free = s.free) := by first | exact bit_le (by assumption) (by decide) | exact May.same rfl)
    (hw : keep.words = s.keep.words := by rfl) (hh : keep.hot = s.keep.hot := by rfl) :
    Parts m q s0 s.regs pwr arr planeA planeB s.sealA s.sealB phys63 s.dev s.devA s.devB store heldWrites clearing hosts flights stns encs keep led mboxes poss rtc mport fw heldLog out free s.pending := by
  obtain ⟨⟨p, b, c, d, e, f, g, i, j, k, l, n, t⟩, hf⟩ := h
  refine ⟨⟨p, b, c, g1, g2, g3, g, i, j, k, l, (by rw [hw]; exact n), (by rw [hh]; exact t)⟩, ?_⟩
  constructor
  · exact hf.regs
  · exact fun hb => (h_pwr.off hb).trans (hf.pwr hb)
  · exact fun hb => (h_arr.off hb).trans (hf.arr hb)
  · exact fun hb => (h_planeA.off hb).trans (hf.planeA hb)
  · exact fun hb => (h_planeB.off hb).trans (hf.planeB hb)
  · exact hf.sealA
  · exact hf.sealB
  · exact fun hb => (h_phys63.off hb).trans (hf.phys63 hb)
  · exact hf.dev
  · exact hf.devA
  · exact hf.devB
  · exact fun hb => (h_store.off hb).trans (hf.store hb)
  · exact fun hb => (h_heldWrites.off hb).trans (hf.heldWrites hb)
  · exact fun hb => (h_clearing.off hb).trans (hf.clearing hb)
  · exact fun hb => (h_hosts.off hb).trans (hf.hosts hb)
  · exact fun hb => (h_flights.off hb).trans (hf.flights hb)
  · exact fun hb => (h_stns.off hb).trans (hf.stns hb)
  · exact fun hb => (h_encs.off hb).trans (hf.encs hb)
  · exact fun hb => (h_keep.off hb).trans (hf.keep hb)
  · exact fun hb => hw.trans (hf.words hb)
  · exact fun hb => (h_led.off hb).trans (hf.led hb)
  · exact fun hb => (h_mboxes.off hb).trans (hf.mboxes hb)
  · exact fun hb => (h_poss.off hb).trans (hf.poss hb)
  · exact fun hb => (h_rtc.off hb).trans (hf.rtc hb)
  · exact fun hb => (h_mport.off hb).trans (hf.mport hb)
  · exact fun hb => (h_fw.off hb).trans (hf.fw hb)
  · exact fun hb => (h_heldLog.off hb).trans (hf.heldLog hb)
  · exact fun hb => (h_out.off hb).trans (hf.out hb)
  · exact fun hb => (h_free.off hb).trans (hf.free hb)

/-- The same where device states held in the planes change. -/
theorem Kept.partsDevs {m : Nat} {q : List Instr} {s0 s : State} (h : Kept m q s0 s) {pwr : Pwr} {phys63 : Nat} {devA : Map Dev} {devB : Map
    Dev} {store : Option Store} {heldWrites : List (Nat × Word × Sender)} {clearing : List Nat} {hosts : Map HostPort}
    {flights : List Flight} {stns : Map Stn} {encs : Map Encoder} {keep : Keep} {led : Ledger} {mboxes : Map Mailbox}
    {poss : Map (Option Sender)} {rtc : Clock} {mport : MPort} {fw : Firmware} {heldLog : List (Nat × Nat × Nat × Nat
    × Nat × Nat)} {out : List Out} {free : Nat} (g7 : devsWf devA = true) (g8 : devsWf devB = true)
    (h_pwr : May m 16 (pwr = s.pwr) := by first | exact bit_le (by assumption) (by decide) | exact May.same rfl)
    (h_phys63 : May m 19 (phys63 = s.phys63) := by first | exact bit_le (by assumption) (by decide) | exact May.same rfl)
    (h_devA : May m 18 (devA = s.devA) := by first | exact bit_le (by assumption) (by decide) | exact May.same rfl)
    (h_devB : May m 18 (devB = s.devB) := by first | exact bit_le (by assumption) (by decide) | exact May.same rfl)
    (h_store : May m 21 (store = s.store) := by first | exact bit_le (by assumption) (by decide) | exact May.same rfl)
    (h_heldWrites : May m 22 (heldWrites = s.heldWrites) := by first | exact bit_le (by assumption) (by decide) | exact May.same rfl)
    (h_clearing : May m 23 (clearing = s.clearing) := by first | exact bit_le (by assumption) (by decide) | exact May.same rfl)
    (h_hosts : May m 24 (hosts = s.hosts) := by first | exact bit_le (by assumption) (by decide) | exact May.same rfl)
    (h_flights : May m 25 (flights = s.flights) := by first | exact bit_le (by assumption) (by decide) | exact May.same rfl)
    (h_stns : May m 26 (stns = s.stns) := by first | exact bit_le (by assumption) (by decide) | exact May.same rfl)
    (h_encs : May m 27 (encs = s.encs) := by first | exact bit_le (by assumption) (by decide) | exact May.same rfl)
    (h_keep : May m 29 (keep = s.keep) := by first | exact bit_le (by assumption) (by decide) | exact May.same rfl)
    (h_led : May m 30 (led = s.led) := by first | exact bit_le (by assumption) (by decide) | exact May.same rfl)
    (h_mboxes : May m 31 (mboxes = s.mboxes) := by first | exact bit_le (by assumption) (by decide) | exact May.same rfl)
    (h_poss : May m 32 (poss = s.poss) := by first | exact bit_le (by assumption) (by decide) | exact May.same rfl)
    (h_rtc : May m 33 (rtc = s.rtc) := by first | exact bit_le (by assumption) (by decide) | exact May.same rfl)
    (h_mport : May m 34 (mport = s.mport) := by first | exact bit_le (by assumption) (by decide) | exact May.same rfl)
    (h_fw : May m 35 (fw = s.fw) := by first | exact bit_le (by assumption) (by decide) | exact May.same rfl)
    (h_heldLog : May m 36 (heldLog = s.heldLog) := by first | exact bit_le (by assumption) (by decide) | exact May.same rfl)
    (h_out : May m 37 (out = s.out) := by first | exact bit_le (by assumption) (by decide) | exact May.same rfl)
    (h_free : May m 38 (free = s.free) := by first | exact bit_le (by assumption) (by decide) | exact May.same rfl)
    (hw : keep.words = s.keep.words := by rfl) (hh : keep.hot = s.keep.hot := by rfl) :
    Parts m q s0 s.regs pwr s.arr s.planeA s.planeB s.sealA s.sealB phys63 s.dev devA devB store heldWrites clearing hosts flights stns encs keep led mboxes poss rtc mport fw heldLog out free s.pending := by
  obtain ⟨⟨p, b, c, d, e, f, g, i, j, k, l, n, t⟩, hf⟩ := h
  refine ⟨⟨p, b, c, d, e, f, g, i, j, g7, g8, (by rw [hw]; exact n), (by rw [hh]; exact t)⟩, ?_⟩
  constructor
  · exact hf.regs
  · exact fun hb => (h_pwr.off hb).trans (hf.pwr hb)
  · exact hf.arr
  · exact hf.planeA
  · exact hf.planeB
  · exact hf.sealA
  · exact hf.sealB
  · exact fun hb => (h_phys63.off hb).trans (hf.phys63 hb)
  · exact hf.dev
  · exact fun hb => (h_devA.off hb).trans (hf.devA hb)
  · exact fun hb => (h_devB.off hb).trans (hf.devB hb)
  · exact fun hb => (h_store.off hb).trans (hf.store hb)
  · exact fun hb => (h_heldWrites.off hb).trans (hf.heldWrites hb)
  · exact fun hb => (h_clearing.off hb).trans (hf.clearing hb)
  · exact fun hb => (h_hosts.off hb).trans (hf.hosts hb)
  · exact fun hb => (h_flights.off hb).trans (hf.flights hb)
  · exact fun hb => (h_stns.off hb).trans (hf.stns hb)
  · exact fun hb => (h_encs.off hb).trans (hf.encs hb)
  · exact fun hb => (h_keep.off hb).trans (hf.keep hb)
  · exact fun hb => hw.trans (hf.words hb)
  · exact fun hb => (h_led.off hb).trans (hf.led hb)
  · exact fun hb => (h_mboxes.off hb).trans (hf.mboxes hb)
  · exact fun hb => (h_poss.off hb).trans (hf.poss hb)
  · exact fun hb => (h_rtc.off hb).trans (hf.rtc hb)
  · exact fun hb => (h_mport.off hb).trans (hf.mport hb)
  · exact fun hb => (h_fw.off hb).trans (hf.fw hb)
  · exact fun hb => (h_heldLog.off hb).trans (hf.heldLog hb)
  · exact fun hb => (h_out.off hb).trans (hf.out hb)
  · exact fun hb => (h_free.off hb).trans (hf.free hb)

/-- The same where the other addressed stores change within their form. -/
theorem Kept.partsAll {m : Nat} {q : List Instr} {s0 s : State} (h : Kept m q s0 s) {pwr : Pwr} {arr : Map Image} {planeA : Map Image}
    {planeB : Map Image} {sealA : Map Word} {sealB : Map Word} {phys63 : Nat} {dev : Dev} {devA : Map Dev} {devB : Map
    Dev} {store : Option Store} {heldWrites : List (Nat × Word × Sender)} {clearing : List Nat} {hosts : Map HostPort}
    {flights : List Flight} {stns : Map Stn} {encs : Map Encoder} {keep : Keep} {led : Ledger} {mboxes : Map Mailbox}
    {poss : Map (Option Sender)} {rtc : Clock} {mport : MPort} {fw : Firmware} {heldLog : List (Nat × Nat × Nat × Nat
    × Nat × Nat)} {out : List Out} {free : Nat} (g1 : imagesWf arr = true) (g2 : imagesWf planeA = true) (g3 :
    imagesWf planeB = true) (g4 : Map.wf (fun _ => 0) sealA = true) (g5 : Map.wf (fun _ => 0) sealB = true) (g6 :
    Dev.wf dev = true) (g7 : devsWf devA = true) (g8 : devsWf devB = true) (g9 : Map.wf keepDefault keep.words = true)
    (g10 : Map.wf (fun _ => 0) keep.hot = true)
    (h_pwr : May m 16 (pwr = s.pwr) := by first | exact bit_le (by assumption) (by decide) | exact May.same rfl)
    (h_arr : May m 17 (arr = s.arr) := by first | exact bit_le (by assumption) (by decide) | exact May.same rfl)
    (h_planeA : May m 18 (planeA = s.planeA) := by first | exact bit_le (by assumption) (by decide) | exact May.same rfl)
    (h_planeB : May m 18 (planeB = s.planeB) := by first | exact bit_le (by assumption) (by decide) | exact May.same rfl)
    (h_sealA : May m 18 (sealA = s.sealA) := by first | exact bit_le (by assumption) (by decide) | exact May.same rfl)
    (h_sealB : May m 18 (sealB = s.sealB) := by first | exact bit_le (by assumption) (by decide) | exact May.same rfl)
    (h_phys63 : May m 19 (phys63 = s.phys63) := by first | exact bit_le (by assumption) (by decide) | exact May.same rfl)
    (h_dev : May m 20 (dev = s.dev) := by first | exact bit_le (by assumption) (by decide) | exact May.same rfl)
    (h_devA : May m 18 (devA = s.devA) := by first | exact bit_le (by assumption) (by decide) | exact May.same rfl)
    (h_devB : May m 18 (devB = s.devB) := by first | exact bit_le (by assumption) (by decide) | exact May.same rfl)
    (h_store : May m 21 (store = s.store) := by first | exact bit_le (by assumption) (by decide) | exact May.same rfl)
    (h_heldWrites : May m 22 (heldWrites = s.heldWrites) := by first | exact bit_le (by assumption) (by decide) | exact May.same rfl)
    (h_clearing : May m 23 (clearing = s.clearing) := by first | exact bit_le (by assumption) (by decide) | exact May.same rfl)
    (h_hosts : May m 24 (hosts = s.hosts) := by first | exact bit_le (by assumption) (by decide) | exact May.same rfl)
    (h_flights : May m 25 (flights = s.flights) := by first | exact bit_le (by assumption) (by decide) | exact May.same rfl)
    (h_stns : May m 26 (stns = s.stns) := by first | exact bit_le (by assumption) (by decide) | exact May.same rfl)
    (h_encs : May m 27 (encs = s.encs) := by first | exact bit_le (by assumption) (by decide) | exact May.same rfl)
    (h_keep : May m 29 (keep = s.keep) := by first | exact bit_le (by assumption) (by decide) | exact May.same rfl)
    (h_led : May m 30 (led = s.led) := by first | exact bit_le (by assumption) (by decide) | exact May.same rfl)
    (h_mboxes : May m 31 (mboxes = s.mboxes) := by first | exact bit_le (by assumption) (by decide) | exact May.same rfl)
    (h_poss : May m 32 (poss = s.poss) := by first | exact bit_le (by assumption) (by decide) | exact May.same rfl)
    (h_rtc : May m 33 (rtc = s.rtc) := by first | exact bit_le (by assumption) (by decide) | exact May.same rfl)
    (h_mport : May m 34 (mport = s.mport) := by first | exact bit_le (by assumption) (by decide) | exact May.same rfl)
    (h_fw : May m 35 (fw = s.fw) := by first | exact bit_le (by assumption) (by decide) | exact May.same rfl)
    (h_heldLog : May m 36 (heldLog = s.heldLog) := by first | exact bit_le (by assumption) (by decide) | exact May.same rfl)
    (h_out : May m 37 (out = s.out) := by first | exact bit_le (by assumption) (by decide) | exact May.same rfl)
    (h_free : May m 38 (free = s.free) := by first | exact bit_le (by assumption) (by decide) | exact May.same rfl)
    (hb : May m 28 (keep.words = s.keep.words) := by first | exact bit_le (by assumption) (by decide) | exact May.same rfl) :
    Parts m q s0 s.regs pwr arr planeA planeB sealA sealB phys63 dev devA devB store heldWrites clearing hosts flights stns encs keep led mboxes poss rtc mport fw heldLog out free s.pending := by
  obtain ⟨⟨p, b, c, d, e, f, g, i, j, k, l, n, t⟩, hf⟩ := h
  refine ⟨⟨p, b, c, g1, g2, g3, g4, g5, g6, g7, g8, g9, g10⟩, ?_⟩
  constructor
  · exact hf.regs
  · exact fun hb => (h_pwr.off hb).trans (hf.pwr hb)
  · exact fun hb => (h_arr.off hb).trans (hf.arr hb)
  · exact fun hb => (h_planeA.off hb).trans (hf.planeA hb)
  · exact fun hb => (h_planeB.off hb).trans (hf.planeB hb)
  · exact fun hb => (h_sealA.off hb).trans (hf.sealA hb)
  · exact fun hb => (h_sealB.off hb).trans (hf.sealB hb)
  · exact fun hb => (h_phys63.off hb).trans (hf.phys63 hb)
  · exact fun hb => (h_dev.off hb).trans (hf.dev hb)
  · exact fun hb => (h_devA.off hb).trans (hf.devA hb)
  · exact fun hb => (h_devB.off hb).trans (hf.devB hb)
  · exact fun hb => (h_store.off hb).trans (hf.store hb)
  · exact fun hb => (h_heldWrites.off hb).trans (hf.heldWrites hb)
  · exact fun hb => (h_clearing.off hb).trans (hf.clearing hb)
  · exact fun hb => (h_hosts.off hb).trans (hf.hosts hb)
  · exact fun hb => (h_flights.off hb).trans (hf.flights hb)
  · exact fun hb => (h_stns.off hb).trans (hf.stns hb)
  · exact fun hb => (h_encs.off hb).trans (hf.encs hb)
  · exact fun hb => (h_keep.off hb).trans (hf.keep hb)
  · exact fun hx => (hb.off hx).trans (hf.words hx)
  · exact fun hb => (h_led.off hb).trans (hf.led hb)
  · exact fun hb => (h_mboxes.off hb).trans (hf.mboxes hb)
  · exact fun hb => (h_poss.off hb).trans (hf.poss hb)
  · exact fun hb => (h_rtc.off hb).trans (hf.rtc hb)
  · exact fun hb => (h_mport.off hb).trans (hf.mport hb)
  · exact fun hb => (h_fw.off hb).trans (hf.fw hb)
  · exact fun hb => (h_heldLog.off hb).trans (hf.heldLog hb)
  · exact fun hb => (h_out.off hb).trans (hf.out hb)
  · exact fun hb => (h_free.off hb).trans (hf.free hb)

theorem kept_ite {m : Nat} {q : List Instr} {s0 : State} {c : Prop} [Decidable c] {a b : State} (ha : Kept m q s0 a)
    (hb : Kept m q s0 b) : Kept m q s0 (if c then a else b) := by
  split
  · exact ha
  · exact hb

theorem kept_ite_fst {m : Nat} {q : List Instr} {s0 : State} {α : Type} {c : Prop} [Decidable c] {a b : State × α}
    (ha : Kept m q s0 a.1) (hb : Kept m q s0 b.1) : Kept m q s0 (if c then a else b).1 := by
  split
  · exact ha
  · exact hb

theorem kept_foldl {m : Nat} {q : List Instr} {s0 : State} {α : Type} {f : State → α → State}
    (hf : ∀ t x, Kept m q s0 t → Kept m q s0 (f t x)) : ∀ (xs : List α) (s : State), Kept m q s0 s → Kept m q s0 (xs.foldl f s)
  | [], _, h => h
  | x :: xs, s, h => kept_foldl hf xs (f s x) (hf s x h)

theorem kept_foldl_fst {m : Nat} {q : List Instr} {s0 : State} {α β : Type} {f : State × β → α → State × β}
    (hf : ∀ t x, Kept m q s0 t.1 → Kept m q s0 (f t x).1) :
    ∀ (xs : List α) (s : State × β), Kept m q s0 s.1 → Kept m q s0 (xs.foldl f s).1
  | [], _, h => h
  | x :: xs, s, h => kept_foldl_fst hf xs (f s x) (hf s x h)

theorem kept_foldl_mem {m : Nat} {q : List Instr} {s0 : State} {α : Type} {f : State → α → State} :
    ∀ (xs : List α), (∀ t, ∀ x ∈ xs, Kept m q s0 t → Kept m q s0 (f t x)) →
      ∀ (s : State), Kept m q s0 s → Kept m q s0 (xs.foldl f s)
  | [], _, _, h => h
  | x :: xs, hf, s, h =>
    kept_foldl_mem xs (fun t y hy => hf t y (List.mem_cons_of_mem _ hy)) (f s x) (hf s x List.mem_cons_self h)

theorem Kept.setReg {m : Nat} {q : List Instr} {s0 s : State} (h : Kept m q s0 s) (a : Nat) (w : Word) (ha : okAddr m a = true) :
    Kept m q s0 (s.setReg a w) := by
  simp only [okAddr, Bool.and_eq_true, Bool.not_eq_true'] at ha
  obtain ⟨⟨p, b, c, d, e, f, g, i, j, k, l, n, t⟩, hf⟩ := h
  constructor
  · refine ⟨p, Map.wf_set b a w, ?_, d, e, f, g, i, j, k, l, n, t⟩
    intro x hx
    have hne : x ≠ a := fun hxa => by rw [hxa, ha.1] at hx; cases hx
    simpa [State.setReg, Map.get_set_ne regReset s.regs w hne] using c x hx
  · obtain ⟨f0, rest⟩ := hf
    constructor
    · intro x hx
      have hne : x ≠ a := fun hxa => by rw [hxa, ha.2] at hx; cases hx
      rw [← f0 x hx]
      simp only [State.setReg, State.reg, Map.get_set_ne regReset s.regs w hne]
    all_goals assumption

theorem Kept.put {m : Nat} {q : List Instr} {s0 s : State} (h : Kept m q s0 s) (f : Fld) (v : Nat) (ha : okAddr m f.addr = true) :
    Kept m q s0 (s.put f v) := h.setReg _ _ ha

theorem Dev.wf_iff (d : Dev) : Dev.wf d = true ↔ Map.wf regReset d.regs = true ∧
    d.regs.all (fun e => decide (restoredMask e.1 ≠ 0)) = true ∧ Map.wf (fun _ => 0) d.counters = true ∧
    Map.wf (fun _ => 0) d.hot = true ∧ Map.wf (fun _ => 0) d.log = true := by
  simp only [Dev.wf, Bool.and_eq_true, and_assoc]

/-- Region 63's device state with other lists beside its stores. -/
theorem Kept.devWf {m : Nat} {q : List Instr} {s0 s : State} (h : Kept m q s0 s) {dev : Dev} (h1 : dev.regs = s.dev.regs)
    (h2 : dev.counters = s.dev.counters) (h3 : dev.hot = s.dev.hot) (h4 : dev.log = s.dev.log) : Dev.wf dev = true := by
  have := h.good.dev
  rw [Dev.wf_iff] at this ⊢
  rw [h1, h2, h3, h4]
  exact this

theorem all_ok {α : Type} {p : α → Bool} {l : List α} (h : l.all p = true) : l.all p = true := h

/-- The register file replaced by a canonical one that leaves the fused registers, and the parts outside the mask, alone. -/
theorem Kept.withRegs {m : Nat} {q : List Instr} {s0 s : State} (h : Kept m q s0 s) {r : Map Word} (hr : Map.wf regReset r = true)
    (hf : ∀ a, fusedReg a = true → Map.get regReset r a = regReset a)
    (hm : ∀ a, m.testBit (regPart a) = false → Map.get regReset r a = s.reg a) : Kept m q s0 { s with regs := r } := by
  obtain ⟨⟨p, b, c, d, e, f, g, i, j, k, l, n, t⟩, f0, rest⟩ := h
  refine ⟨⟨p, hr, hf, d, e, f, g, i, j, k, l, n, t⟩, ?_⟩
  constructor
  · exact fun a ha => (hm a ha).trans (f0 a ha)
  all_goals assumption

/-- Some registers of the mask's parts back to their reset values. -/
theorem Kept.keepRegs {m : Nat} {q : List Instr} {s0 s : State} (h : Kept m q s0 s) (p : Nat → Bool)
    (hp : ∀ a, m.testBit (regPart a) = false → p a = true) : Kept m q s0 { s with regs := Map.keep s.regs p } := by
  refine h.withRegs (Map.wf_keep h.good.regs p) (fun a ha => ?_) (fun a ha => ?_)
  · rw [Map.get_keep, h.good.fused a ha, ite_self]
  · rw [Map.get_keep, if_pos (hp a ha)]
    rfl

/-- A mask with every register. -/
theorem all_regs {m a : Nat} (h : sub 0x7f m = true) : m.testBit (regPart a) = true := by
  refine sub_testBit h ?_
  have := regPart_le a
  generalize regPart a = g at this
  interval_cases g <;> rfl

theorem Kept.partsKeepRegs {m : Nat} {q : List Instr} {s0 s : State} (h : Kept m q s0 s) (p : Nat → Bool) {rtc : Clock}
    (hm : sub 0x7f m = true := by exact sub_le (by assumption) (by decide))
    (hr : May m 33 (rtc = s.rtc) := by first | exact bit_le (by assumption) (by decide) | exact May.same rfl) :
    Parts m q s0 (Map.keep s.regs p) s.pwr s.arr s.planeA s.planeB s.sealA s.sealB s.phys63 s.dev s.devA s.devB s.store
      s.heldWrites s.clearing s.hosts s.flights s.stns s.encs s.keep s.led s.mboxes s.poss rtc s.mport s.fw s.heldLog s.out
      s.free s.pending :=
  (h.keepRegs p (fun a ha => by rw [all_regs hm] at ha; cases ha)).parts (h_rtc := hr)

end Sys2Proof.Machine
end

