-- ==== Sys2Proof/Laws/KeptOps.lean ====
section
/-! SUPPORT. What the definitions of Machine/Ops.lean keep: one lemma `<name>_kept` for each (Laws/Kept.lean). -/

-- Proof bodies are elaborated in order: elaborated in parallel they wait on one another, each in a thread of its own.
set_option Elab.async false

namespace Sys2Proof.Machine
open Sys2Proof

theorem State.bump_kept {M : Nat} {Q : List Instr} {s0 s : State} (hQ : Kept M Q s0 s) (f : Fld) (hf0 : okAddr M f.addr =
    true) (hm : sub 0x0 M = true := by exact sub_le (by assumption) (by decide)) : Kept M Q s0 (State.bump s f) := by
  unfold State.bump
  try dsimp only
  repeat' first
    | with_reducible assumption | with_reducible refine @kept_ite _ _ _ _ _ _ _ ?_ ?_
    | with_reducible refine Kept.put ?_ _ _ ?_

theorem State.put36_kept {M : Nat} {Q : List Instr} {s0 s : State} (hQ : Kept M Q s0 s) (lo : Fld) (hi : Fld) (v : Nat) (hf0 :
    okAddr M lo.addr = true) (hf1 : okAddr M hi.addr = true)
    (hm : sub 0x0 M = true := by exact sub_le (by assumption) (by decide)) : Kept M Q s0 (State.put36 s lo hi v) := by
  unfold State.put36
  try dsimp only
  repeat' first
    | with_reducible assumption | with_reducible refine @kept_ite _ _ _ _ _ _ _ ?_ ?_
    | with_reducible refine Kept.setReg ?_ _ _ ?_

theorem State.resetHub_kept {M : Nat} {Q : List Instr} {s0 s : State} (hQ : Kept M Q s0 s)
    (hm : sub 0x7f M = true := by exact sub_le (by assumption) (by decide)) : Kept M Q s0 (State.resetHub s) := 
  hQ.keepRegs _ (fun a ha => by rw [all_regs (sub_le hm (by decide))] at ha; cases ha)

theorem State.resetUmber_kept {M : Nat} {Q : List Instr} {s0 s : State} (hQ : Kept M Q s0 s) (live : Bool)
    (hm : sub 0x7f M = true := by exact sub_le (by assumption) (by decide)) : Kept M Q s0 (State.resetUmber s live) := by
  unfold State.resetUmber
  refine Kept.put (kept_foldl_mem _ (fun t x hx ht => ?_) _ (hQ.keepRegs _
    (fun a ha => by rw [all_regs (sub_le hm (by decide))] at ha; cases ha))) _ _ (ok_le hm (by decide))
  refine Kept.put ht _ _ ?_
  obtain ⟨f, hf, rfl⟩ := List.mem_map.mp hx
  have hall : ∀ g ∈ ([Reg.SUP_PWR_HOLD, Reg.KEEP_EVENT_ABANDONED, Reg.KEEP_CTL_BP, Reg.SUP_SCRIPT_USER, Reg.SUP_CHG_ILIM] ++
      (if live then [Reg.SUP_CHG_FULL, Reg.KEEP_STAT_BP_FAULT] else [])), okAddr 0x7f g.addr = true := by
    cases live <;> decide
  exact ok_le hm (hall f hf)

theorem State.clearHold_kept {M : Nat} {Q : List Instr} {s0 s : State} (hQ : Kept M Q s0 s)
    (hm : sub 0x2 M = true := by exact sub_le (by assumption) (by decide)) : Kept M Q s0 (State.clearHold s) := by
  unfold State.clearHold
  try dsimp only
  repeat' first
    | with_reducible assumption | with_reducible refine @kept_ite _ _ _ _ _ _ _ ?_ ?_
    | with_reducible refine Kept.put ?_ _ _ ?_ | exact all_nil_ok | refine all_cons_ok ?_ ?_ | exact ok_le hm (by decide)

theorem State.goto_kept {M : Nat} {Q : List Instr} {s0 s : State} (hQ : Kept M Q s0 s) (st : PState)
    (hm : sub 0x10000 M = true := by exact sub_le (by assumption) (by decide)) : Kept M Q s0 (State.goto s st) := by
  unfold State.goto
  try dsimp only
  repeat' first
    | with_reducible assumption | with_reducible refine @kept_ite _ _ _ _ _ _ _ ?_ ?_ | simp only [kept_mk]
    | with_reducible refine Kept.parts ?_

theorem State.setHost_kept {M : Nat} {Q : List Instr} {s0 s : State} (hQ : Kept M Q s0 s) (h : PHost) (p : HostPort)
    (hm : sub 0x1000000 M = true := by exact sub_le (by assumption) (by decide)) : Kept M Q s0 (State.setHost s h p) := by
  unfold State.setHost
  try dsimp only
  repeat' first
    | with_reducible assumption | with_reducible refine @kept_ite _ _ _ _ _ _ _ ?_ ?_ | simp only [kept_mk]
    | with_reducible refine Kept.parts ?_

theorem State.emit_kept {M : Nat} {Q : List Instr} {s0 s : State} (hQ : Kept M Q s0 s) (o : Out)
    (hm : sub 0x2000000000 M = true := by exact sub_le (by assumption) (by decide)) : Kept M Q s0 (State.emit s o) := by
  unfold State.emit
  try dsimp only
  repeat' first
    | with_reducible assumption | with_reducible refine @kept_ite _ _ _ _ _ _ _ ?_ ?_ | simp only [kept_mk]
    | with_reducible refine Kept.parts ?_

theorem State.msix_kept {M : Nat} {Q : List Instr} {s0 s : State} (hQ : Kept M Q s0 s) (h : PHost) (v : Nat)
    (hm : sub 0x2001000000 M = true := by exact sub_le (by assumption) (by decide)) : Kept M Q s0 (State.msix s h v) := by
  unfold State.msix
  try dsimp only
  repeat' first
    | with_reducible assumption | with_reducible refine @kept_ite _ _ _ _ _ _ _ ?_ ?_
    | with_reducible refine State.emit_kept ?_ _ | with_reducible refine State.setHost_kept ?_ _ _ | simp only [kept_mk]
    | with_reducible refine Kept.parts ?_
    | with_reducible refine Kept.partsDev ?_ (Kept.devWf (m := M) (q := Q) (s0 := s0) ?_ rfl rfl rfl rfl) | dsimp only
    | split

theorem State.notify_kept {M : Nat} {Q : List Instr} {s0 s : State} (hQ : Kept M Q s0 s) (c : IClass) (h : PHost)
    (hm : sub 0x2001000000 M = true := by exact sub_le (by assumption) (by decide)) : Kept M Q s0 (State.notify s c h) := by
  unfold State.notify
  try dsimp only
  repeat' first
    | with_reducible assumption | with_reducible refine @kept_ite _ _ _ _ _ _ _ ?_ ?_
    | with_reducible refine State.msix_kept ?_ _ _ | with_reducible refine State.setHost_kept ?_ _ _
    | with_reducible refine State.emit_kept ?_ _

theorem State.event_kept {M : Nat} {Q : List Instr} {s0 s : State} (hQ : Kept M Q s0 s) (ev : Fld) (enAddr : Nat) (c : IClass)
    (hs : List PHost) (hf0 : okAddr M ev.addr = true)
    (hm : sub 0x2001000000 M = true := by exact sub_le (by assumption) (by decide)) : Kept M Q s0 (State.event s ev enAddr c
    hs) := by
  unfold State.event
  try dsimp only
  repeat' first
    | with_reducible assumption | with_reducible refine @kept_ite _ _ _ _ _ _ _ ?_ ?_
    | with_reducible refine State.notify_kept ?_ _ _ | with_reducible refine Kept.put ?_ _ _ ?_
    | with_reducible refine kept_foldl (fun t x ht => ?_) _ _ ?_

theorem State.supEvent_kept {M : Nat} {Q : List Instr} {s0 s : State} (hQ : Kept M Q s0 s) (ev : Fld) (hf0 : okAddr M ev.addr
    = true) (hm : sub 0x2001000002 M = true := by exact sub_le (by assumption) (by decide)) : Kept M Q s0 (State.supEvent s
    ev) := by
  unfold State.supEvent
  try dsimp only
  repeat' first
    | with_reducible assumption | with_reducible refine @kept_ite _ _ _ _ _ _ _ ?_ ?_
    | with_reducible refine State.event_kept ?_ _ _ _ _ ?_

theorem State.rtcEvent_kept {M : Nat} {Q : List Instr} {s0 s : State} (hQ : Kept M Q s0 s) (ev : Fld) (hf0 : okAddr M ev.addr
    = true) (hm : sub 0x2001000000 M = true := by exact sub_le (by assumption) (by decide)) : Kept M Q s0 (State.rtcEvent s
    ev) := by
  unfold State.rtcEvent
  try dsimp only
  repeat' first
    | with_reducible assumption | with_reducible refine @kept_ite _ _ _ _ _ _ _ ?_ ?_
    | with_reducible refine State.event_kept ?_ _ _ _ _ ?_

theorem State.ledEvent_kept {M : Nat} {Q : List Instr} {s0 s : State} (hQ : Kept M Q s0 s) (ev : Fld) (hf0 : okAddr M ev.addr
    = true) (hm : sub 0x2001000000 M = true := by exact sub_le (by assumption) (by decide)) : Kept M Q s0 (State.ledEvent s
    ev) := by
  unfold State.ledEvent
  try dsimp only
  repeat' first
    | with_reducible assumption | with_reducible refine @kept_ite _ _ _ _ _ _ _ ?_ ?_
    | with_reducible refine State.event_kept ?_ _ _ _ _ ?_

theorem State.keepEvent_kept {M : Nat} {Q : List Instr} {s0 s : State} (hQ : Kept M Q s0 s) (ev : Fld) (hf0 : okAddr M ev.addr
    = true) (hm : sub 0x0 M = true := by exact sub_le (by assumption) (by decide)) : Kept M Q s0 (State.keepEvent s ev) := by
  unfold State.keepEvent
  try dsimp only
  repeat' first
    | with_reducible assumption | with_reducible refine @kept_ite _ _ _ _ _ _ _ ?_ ?_
    | with_reducible refine Kept.put ?_ _ _ ?_

theorem State.swpEvent_kept {M : Nat} {Q : List Instr} {s0 s : State} (hQ : Kept M Q s0 s) (ev : Fld) (hf0 : okAddr M ev.addr
    = true) (hm : sub 0x2001000000 M = true := by exact sub_le (by assumption) (by decide)) : Kept M Q s0 (State.swpEvent s
    ev) := by
  unfold State.swpEvent
  try dsimp only
  repeat' first
    | with_reducible assumption | with_reducible refine @kept_ite _ _ _ _ _ _ _ ?_ ?_
    | with_reducible refine State.event_kept ?_ _ _ _ _ ?_

theorem State.fwEvent_kept {M : Nat} {Q : List Instr} {s0 s : State} (hQ : Kept M Q s0 s) (ev : Fld) (hf0 : okAddr M ev.addr =
    true) (hm : sub 0x2001000000 M = true := by exact sub_le (by assumption) (by decide)) : Kept M Q s0 (State.fwEvent s ev) := by
  unfold State.fwEvent
  try dsimp only
  repeat' first
    | with_reducible assumption | with_reducible refine @kept_ite _ _ _ _ _ _ _ ?_ ?_
    | with_reducible refine State.event_kept ?_ _ _ _ _ ?_

theorem State.hostEvent_kept {M : Nat} {Q : List Instr} {s0 s : State} (hQ : Kept M Q s0 s) (h : PHost) (ev : Nat → Fld) (hf0
    : ∀ n, okAddr M (ev n).addr = true) (hm : sub 0x2001000000 M = true := by exact sub_le (by assumption) (by decide)) : Kept
    M Q s0 (State.hostEvent s h ev) := by
  unfold State.hostEvent
  try dsimp only
  repeat' first
    | with_reducible assumption | with_reducible refine @kept_ite _ _ _ _ _ _ _ ?_ ?_
    | with_reducible refine State.event_kept ?_ _ _ _ _ ?_ | with_reducible exact hf0 _

theorem State.stnEvent_kept {M : Nat} {Q : List Instr} {s0 s : State} (hQ : Kept M Q s0 s) (n : Nat) (ev : Nat → Fld) (hf0 : ∀
    n, okAddr M (ev n).addr = true) (hm : sub 0x2001000000 M = true := by exact sub_le (by assumption) (by decide)) : Kept M Q
    s0 (State.stnEvent s n ev) := by
  unfold State.stnEvent
  try dsimp only
  repeat' first
    | with_reducible assumption | with_reducible refine @kept_ite _ _ _ _ _ _ _ ?_ ?_
    | with_reducible refine State.event_kept ?_ _ _ _ _ ?_ | with_reducible exact hf0 _

theorem State.stnLEvent_kept {M : Nat} {Q : List Instr} {s0 s : State} (hQ : Kept M Q s0 s) (n : Nat) (ev : Nat → Fld) (hf0 :
    ∀ n, okAddr M (ev n).addr = true) (hm : sub 0x2001000000 M = true := by exact sub_le (by assumption) (by decide)) : Kept M
    Q s0 (State.stnLEvent s n ev) := by
  unfold State.stnLEvent
  try dsimp only
  repeat' first
    | with_reducible assumption | with_reducible refine @kept_ite _ _ _ _ _ _ _ ?_ ?_
    | with_reducible refine State.event_kept ?_ _ _ _ _ ?_ | with_reducible exact hf0 _

theorem State.arrEvent_kept {M : Nat} {Q : List Instr} {s0 s : State} (hQ : Kept M Q s0 s) (ev : Fld) (hs : List PHost) (hf0 :
    okAddr M ev.addr = true) (hm : sub 0x2001000000 M = true := by exact sub_le (by assumption) (by decide)) : Kept M Q s0
    (State.arrEvent s ev hs) := by
  unfold State.arrEvent
  try dsimp only
  repeat' first
    | with_reducible assumption | with_reducible refine @kept_ite _ _ _ _ _ _ _ ?_ ?_
    | with_reducible refine State.event_kept ?_ _ _ _ _ ?_

theorem State.setOsf_kept {M : Nat} {Q : List Instr} {s0 s : State} (hQ : Kept M Q s0 s) (cause : Fld) (hf0 : okAddr M
    cause.addr = true) (hm : sub 0x2001000004 M = true := by exact sub_le (by assumption) (by decide)) : Kept M Q s0
    (State.setOsf s cause) := by
  unfold State.setOsf
  try dsimp only
  repeat' first
    | with_reducible assumption | with_reducible refine @kept_ite _ _ _ _ _ _ _ ?_ ?_
    | with_reducible refine State.rtcEvent_kept ?_ _ ?_ | with_reducible refine Kept.put ?_ _ _ ?_
    | with_reducible exact hf0 _ | exact all_nil_ok | refine all_cons_ok ?_ ?_ | exact ok_le hm (by decide)

theorem State.drawWord_kept {M : Nat} {Q : List Instr} {s0 s : State} (hQ : Kept M Q s0 s)
    (hm : sub 0x4000000000 M = true := by exact sub_le (by assumption) (by decide)) : Kept M Q s0 (State.drawWord s).2 := by
  unfold State.drawWord
  try dsimp only
  repeat' first
    | with_reducible assumption | with_reducible refine @kept_ite _ _ _ _ _ _ _ ?_ ?_
    | with_reducible refine @kept_ite_fst _ _ _ _ _ _ _ _ ?_ ?_ | simp only [kept_mk] | with_reducible refine Kept.parts ?_

theorem State.drawBit_kept {M : Nat} {Q : List Instr} {s0 s : State} (hQ : Kept M Q s0 s)
    (hm : sub 0x4000000000 M = true := by exact sub_le (by assumption) (by decide)) : Kept M Q s0 (State.drawBit s).2 := by
  unfold State.drawBit
  try dsimp only
  repeat' first
    | with_reducible assumption | with_reducible refine @kept_ite _ _ _ _ _ _ _ ?_ ?_
    | with_reducible refine @kept_ite_fst _ _ _ _ _ _ _ _ ?_ ?_ | simp only [kept_mk] | with_reducible refine Kept.parts ?_

theorem State.logAt_kept {M : Nat} {Q : List Instr} {s0 s : State} (hQ : Kept M Q s0 s) (t : Nat) (source : Nat) (code : Nat)
    (loc5 : Nat) (loc6 : Nat) (detail : Nat) (hm : sub 0x100040 M = true := by exact sub_le (by assumption) (by decide)) :
    Kept M Q s0 (State.logAt s t source code loc5 loc6 detail) := by
  unfold State.logAt
  refine State.put36_kept ?_ _ _ _ (ok_le hm (by decide)) (ok_le hm (by decide))
  refine kept_mk.mpr (hQ.partsDev ?_)
  have hd := (Dev.wf_iff _).mp hQ.good.dev
  exact (Dev.wf_iff _).mpr ⟨hd.1, hd.2.1, hd.2.2.1, hd.2.2.2.1, Map.wf_setAll _ hd.2.2.2.2⟩

theorem State.log_kept {M : Nat} {Q : List Instr} {s0 s : State} (hQ : Kept M Q s0 s) (source : Nat) (code : Nat) (loc5 : Nat)
    (loc6 : Nat) (detail : Nat) (hm : sub 0x1000100040 M = true := by exact sub_le (by assumption) (by decide)) : Kept M Q s0
    (State.log s source code loc5 loc6 detail) := by
  unfold State.log
  try dsimp only
  repeat' first
    | with_reducible assumption | with_reducible refine @kept_ite _ _ _ _ _ _ _ ?_ ?_
    | with_reducible refine State.logAt_kept ?_ _ _ _ _ _ _ | simp only [kept_mk] | with_reducible refine Kept.parts ?_

theorem State.logHeld_kept {M : Nat} {Q : List Instr} {s0 s : State} (hQ : Kept M Q s0 s)
    (hm : sub 0x1000100040 M = true := by exact sub_le (by assumption) (by decide)) : Kept M Q s0 (State.logHeld s) := by
  unfold State.logHeld
  try dsimp only
  repeat' first
    | with_reducible assumption | with_reducible refine @kept_ite _ _ _ _ _ _ _ ?_ ?_
    | with_reducible refine State.logAt_kept ?_ _ _ _ _ _ _ | with_reducible refine kept_foldl (fun t x ht => ?_) _ _ ?_
    | with_reducible refine kept_foldl_fst (fun t x ht => ?_) _ _ ?_ | simp only [kept_mk]
    | with_reducible refine Kept.parts ?_

theorem State.answer_kept {M : Nat} {Q : List Instr} {s0 s : State} (hQ : Kept M Q s0 s) (x : Sender) (a : Nat) (v : Word)
    (hm : sub 0x2000000000 M = true := by exact sub_le (by assumption) (by decide)) : Kept M Q s0 (State.answer s x a v) := by
  unfold State.answer
  try dsimp only
  repeat' first
    | with_reducible assumption | with_reducible refine @kept_ite _ _ _ _ _ _ _ ?_ ?_
    | with_reducible refine State.emit_kept ?_ _

theorem State.putAll_kept {M : Nat} {Q : List Instr} {s0 s : State} (hQ : Kept M Q s0 s) (fs : List (Fld × Nat)) (hf0 : fs.all
    (fun e => okAddr M e.1.addr) = true) (hm : sub 0x0 M = true := by exact sub_le (by assumption) (by decide)) : Kept M Q s0
    (State.putAll s fs) := by
  refine kept_foldl_mem _ (fun t x hx ht => Kept.put ht _ _ ?_) _ hQ
  simpa using List.all_eq_true.mp hf0 x hx

end Sys2Proof.Machine
end

