-- ==== Sys2Proof/Laws/KeptClockOps.lean ====
section
/-! SUPPORT. What the definitions of Machine/ClockOps.lean keep: one lemma `<name>_kept` for each (Laws/Kept.lean). -/

-- Proof bodies are elaborated in order: elaborated in parallel they wait on one another, each in a thread of its own.
set_option Elab.async false

namespace Sys2Proof.Machine
open Sys2Proof

theorem State.alarmCompute_kept {M : Nat} {Q : List Instr} {s0 s : State} (hQ : Kept M Q s0 s) (k : Nat)
    (hm : sub 0x20000007c M = true := by exact sub_le (by assumption) (by decide)) : Kept M Q s0 (State.alarmCompute s k) := by
  unfold State.alarmCompute
  try dsimp only
  repeat' first
    | with_reducible assumption | with_reducible refine @kept_ite _ _ _ _ _ _ _ ?_ ?_
    | with_reducible refine Kept.put ?_ _ _ ?_ | exact all_nil_ok | refine all_cons_ok ?_ ?_ | exact ok_le hm (by decide)
    | exact ok_add hm (by decide) | exact ok_add2 hm (by decide) | exact ok_at hm (by decide) | simp only [kept_mk]
    | with_reducible refine Kept.parts ?_

theorem almEvent_ok {b M : Nat} (k : Nat) (hb : sub b M = true) (h : okAddr b Reg.RTC_EVENT_ALM0.addr = true) :
    okAddr M (almEvent k).addr = true := by
  refine ok_le hb ?_
  unfold almEvent
  split
  · exact h
  · exact h

theorem skipEvent_ok {b M : Nat} (k : Nat) (hb : sub b M = true) (h : okAddr b Reg.RTC_EVENT_SKIP0.addr = true) :
    okAddr M (skipEvent k).addr = true := by
  refine ok_le hb ?_
  unfold skipEvent
  split
  · exact h
  · exact h

theorem State.alarmFire_kept {M : Nat} {Q : List Instr} {s0 s : State} (hQ : Kept M Q s0 s) (k : Nat) (skipped : Bool)
    (hm : sub 0x220100007e M = true := by exact sub_le (by assumption) (by decide)) : Kept M Q s0 (State.alarmFire s k
    skipped) := by
  have h1 := State.rtcEvent_kept hQ (almEvent k) (almEvent_ok k hm (by decide))
  have h2 := State.rtcEvent_kept h1 (skipEvent k) (skipEvent_ok k hm (by decide))
  have h3 := kept_ite (c := skipped = true) h2 h1
  exact State.alarmCompute_kept (kept_ite (State.clearHold_kept h3) h3) k

theorem State.alarmTick_kept {M : Nat} {Q : List Instr} {s0 s : State} (hQ : Kept M Q s0 s) (k : Nat)
    (hm : sub 0x220100007e M = true := by exact sub_le (by assumption) (by decide)) : Kept M Q s0 (State.alarmTick s k) := by
  unfold State.alarmTick
  try dsimp only
  repeat' first
    | with_reducible assumption | with_reducible refine @kept_ite _ _ _ _ _ _ _ ?_ ?_
    | with_reducible refine State.alarmFire_kept ?_ _ _

theorem State.alarmDone_kept {M : Nat} {Q : List Instr} {s0 s : State} (hQ : Kept M Q s0 s) (k : Nat)
    (hm : sub 0x220100007e M = true := by exact sub_le (by assumption) (by decide)) : Kept M Q s0 (State.alarmDone s k) := by
  unfold State.alarmDone
  try dsimp only
  repeat' first
    | with_reducible assumption | with_reducible refine @kept_ite _ _ _ _ _ _ _ ?_ ?_
    | with_reducible refine State.alarmFire_kept ?_ _ _ | with_reducible refine State.put36_kept ?_ _ _ _ ?_ ?_
    | with_reducible refine Kept.put ?_ _ _ ?_ | exact all_nil_ok | refine all_cons_ok ?_ ?_ | exact ok_le hm (by decide)
    | exact ok_add hm (by decide) | exact ok_add2 hm (by decide) | exact ok_at hm (by decide) | simp only [kept_mk]
    | with_reducible refine Kept.parts ?_
    | with_reducible refine Kept.partsDev ?_ (Kept.devWf (m := M) (q := Q) (s0 := s0) ?_ rfl rfl rfl rfl) | dsimp only | split

theorem State.alarmSet_kept {M : Nat} {Q : List Instr} {s0 s : State} (hQ : Kept M Q s0 s) (k : Nat)
    (hm : sub 0x220100007e M = true := by exact sub_le (by assumption) (by decide)) : Kept M Q s0 (State.alarmSet s k) := by
  unfold State.alarmSet
  try dsimp only
  repeat' first
    | with_reducible assumption | with_reducible refine @kept_ite _ _ _ _ _ _ _ ?_ ?_
    | with_reducible refine State.alarmCompute_kept ?_ _ | with_reducible refine State.alarmFire_kept ?_ _ _
    | simp only [kept_mk] | with_reducible refine Kept.parts ?_
    | with_reducible refine Kept.partsDev ?_ (Kept.devWf (m := M) (q := Q) (s0 := s0) ?_ rfl rfl rfl rfl) | dsimp only | split

theorem State.timeSet_kept {M : Nat} {Q : List Instr} {s0 s : State} (hQ : Kept M Q s0 s) (c : Calendar)
    (hm : sub 0x220100007e M = true := by exact sub_le (by assumption) (by decide)) : Kept M Q s0 (State.timeSet s c) := by
  unfold State.timeSet
  try dsimp only
  repeat' first
    | with_reducible assumption | with_reducible refine @kept_ite _ _ _ _ _ _ _ ?_ ?_
    | with_reducible refine State.alarmSet_kept ?_ _ | with_reducible refine State.putAll_kept ?_ _ ?_ | exact all_nil_ok
    | refine all_cons_ok ?_ ?_ | exact ok_le hm (by decide) | exact ok_add hm (by decide) | exact ok_add2 hm (by decide)
    | exact ok_at hm (by decide) | simp only [kept_mk] | with_reducible refine Kept.parts ?_

theorem State.heldAttach_kept {M : Nat} {Q : List Instr} {s0 s : State} (hQ : Kept M Q s0 s)
    (hm : sub 0x2e M = true := by exact sub_le (by assumption) (by decide)) : Kept M Q s0 (State.heldAttach s) := by
  unfold State.heldAttach
  refine Kept.setReg (Kept.put (State.clearHold_kept (Kept.setReg (kept_foldl_mem _ (fun t x hx ht => ?_) _ hQ) _ _
    (ok_le hm (by decide)))) _ _ (ok_le hm (by decide)))
    _ _ (ok_le hm (by decide))
  exact Kept.setReg ht _ _ (ok_le hm (by revert x; decide))

theorem State.attach_kept {M : Nat} {Q : List Instr} {s0 s : State} (hQ : Kept M Q s0 s)
    (hm : sub 0x20001002e M = true := by exact sub_le (by assumption) (by decide)) : Kept M Q s0 (State.attach s) := by
  unfold State.attach
  try dsimp only
  repeat' first
    | with_reducible assumption | with_reducible refine @kept_ite _ _ _ _ _ _ _ ?_ ?_
    | with_reducible refine State.heldAttach_kept ?_ | with_reducible refine Kept.setReg ?_ _ _ ?_ | exact all_nil_ok
    | refine all_cons_ok ?_ ?_ | exact ok_le hm (by decide) | exact ok_add hm (by decide) | exact ok_add2 hm (by decide)
    | exact ok_at hm (by decide) | simp only [kept_mk] | with_reducible refine Kept.parts ?_

theorem State.setShadow_kept {M : Nat} {Q : List Instr} {s0 s : State} (hQ : Kept M Q s0 s) (x : Sender) (v : Option (Calendar
    × Bool)) (hm : sub 0x200000000 M = true := by exact sub_le (by assumption) (by decide)) : Kept M Q s0 (State.setShadow s x
    v) := by
  unfold State.setShadow
  try dsimp only
  repeat' first
    | with_reducible assumption | with_reducible refine @kept_ite _ _ _ _ _ _ _ ?_ ?_ | simp only [kept_mk]
    | with_reducible refine Kept.parts ?_

theorem State.readTime_kept {M : Nat} {Q : List Instr} {s0 s : State} (hQ : Kept M Q s0 s) (x : Sender) (w : Nat)
    (hm : sub 0x200000000 M = true := by exact sub_le (by assumption) (by decide)) : Kept M Q s0 (State.readTime s x w).1 := by
  unfold State.readTime
  try dsimp only
  repeat' first
    | with_reducible assumption | with_reducible refine @kept_ite _ _ _ _ _ _ _ ?_ ?_
    | with_reducible refine @kept_ite_fst _ _ _ _ _ _ _ _ ?_ ?_ | with_reducible refine State.setShadow_kept ?_ _ _

theorem State.registerSet_kept {M : Nat} {Q : List Instr} {s0 s : State} (hQ : Kept M Q s0 s) (x : Sender)
    (hm : sub 0x220100007e M = true := by exact sub_le (by assumption) (by decide)) : Kept M Q s0 (State.registerSet s x) := by
  unfold State.registerSet
  try dsimp only
  repeat' first
    | with_reducible assumption | with_reducible refine @kept_ite _ _ _ _ _ _ _ ?_ ?_
    | with_reducible refine State.rtcEvent_kept ?_ _ ?_ | with_reducible refine State.timeSet_kept ?_ _ | exact all_nil_ok
    | refine all_cons_ok ?_ ?_ | exact ok_le hm (by decide)

theorem State.alarmWrite_kept {M : Nat} {Q : List Instr} {s0 s : State} (hQ : Kept M Q s0 s) (x : Sender) (k : Nat) (w : Nat)
    (v : Word) (hm : sub 0x20000007c M = true := by exact sub_le (by assumption) (by decide)) : Kept M Q s0 (State.alarmWrite
    s x k w v) := by
  unfold State.alarmWrite
  try dsimp only
  repeat' first
    | with_reducible assumption | with_reducible refine @kept_ite _ _ _ _ _ _ _ ?_ ?_
    | with_reducible refine State.alarmCompute_kept ?_ _ | with_reducible refine Kept.setReg ?_ _ _ ?_ | exact all_nil_ok
    | refine all_cons_ok ?_ ?_ | exact ok_le hm (by decide) | exact ok_add hm (by decide) | exact ok_add2 hm (by decide)

end Sys2Proof.Machine
end

