-- ==== Sys2Proof/Laws/KeptKeepOps.lean ====
section
/-! SUPPORT. What the definitions of Machine/KeepOps.lean keep: one lemma `<name>_kept` for each (Laws/Kept.lean). -/

-- Proof bodies are elaborated in order: elaborated in parallel they wait on one another, each in a thread of its own.
set_option Elab.async false

namespace Sys2Proof.Machine
open Sys2Proof

theorem State.setKeep_kept {M : Nat} {Q : List Instr} {s0 s : State} (hQ : Kept M Q s0 s) (es : List (Nat × Word))
    (hm : sub 0x30000000 M = true := by exact sub_le (by assumption) (by decide)) : Kept M Q s0 (State.setKeep s es) :=
  kept_mk.mpr (hQ.partsKeep (Map.wf_setAll es hQ.good.words) hQ.good.hot)

theorem State.writeHot_kept {M : Nat} {Q : List Instr} {s0 s : State} (hQ : Kept M Q s0 s) (p : Nat) (ws : List (Nat × BitVec 16))
    (hm : sub 0x20000000 M = true := by exact sub_le (by assumption) (by decide)) :
    Kept M Q s0 (State.writeHot s p ws) :=
  kept_mk.mpr (hQ.partsKeep hQ.good.words (Map.wf_setAll _ hQ.good.hot))

theorem State.loadBp_kept {M : Nat} {Q : List Instr} {s0 s : State} (hQ : Kept M Q s0 s)
 (hm : sub 0x8 M = true := by exact sub_le (by assumption) (by decide)) :
    Kept M Q s0 (State.loadBp s) := by
  unfold State.loadBp
  try dsimp only
  repeat' first
    | with_reducible assumption | with_reducible refine @kept_ite _ _ _ _ _ _ _ ?_ ?_
    | with_reducible refine State.keepEvent_kept ?_ _ ?_ | with_reducible refine Kept.put ?_ _ _ ?_ | exact all_nil_ok
    | refine all_cons_ok ?_ ?_ | exact ok_le hm (by decide)

theorem State.pageStart_kept {M : Nat} {Q : List Instr} {s0 s : State} (hQ : Kept M Q s0 s) (wr : Writer) (page : Nat) (ws :
    List (Nat × BitVec 16)) (hm : sub 0x30000000 M = true := by exact sub_le (by assumption) (by decide)) : Kept M Q s0
    (State.pageStart s wr page ws) := by
  unfold State.pageStart
  try dsimp only
  repeat' first
    | with_reducible assumption | with_reducible refine @kept_ite _ _ _ _ _ _ _ ?_ ?_
    | with_reducible refine State.setKeep_kept ?_ _ | simp only [kept_mk] | with_reducible refine Kept.parts ?_

theorem State.pagePhase_kept {M : Nat} {Q : List Instr} {s0 s : State} (hQ : Kept M Q s0 s) (r : PageWrite)
    (hm : sub 0x30000000 M = true := by exact sub_le (by assumption) (by decide)) : Kept M Q s0 (State.pagePhase s r) := by
  unfold State.pagePhase
  try dsimp only
  repeat' first
    | with_reducible assumption | with_reducible refine @kept_ite _ _ _ _ _ _ _ ?_ ?_
    | with_reducible refine State.setKeep_kept ?_ _ | simp only [kept_mk] | with_reducible refine Kept.parts ?_
    | with_reducible refine Kept.partsDev ?_ (Kept.devWf (m := M) (q := Q) (s0 := s0) ?_ rfl rfl rfl rfl) | dsimp only | split

theorem State.tornWord_kept {M : Nat} {Q : List Instr} {s0 s : State} (hQ : Kept M Q s0 s) (r : PageWrite) (e : Nat × BitVec
    16) (old : Word) (hm : sub 0x4030000000 M = true := by exact sub_le (by assumption) (by decide)) : Kept M Q s0
    (State.tornWord s r e old) := by
  unfold State.tornWord
  try dsimp only
  repeat' first
    | with_reducible assumption | with_reducible refine @kept_ite _ _ _ _ _ _ _ ?_ ?_
    | with_reducible refine State.drawWord_kept ?_ | with_reducible refine State.setKeep_kept ?_ _
    | with_reducible refine State.drawBit_kept ?_

theorem State.clearBuffer_kept {M : Nat} {Q : List Instr} {s0 s : State} (hQ : Kept M Q s0 s)
    (hm : sub 0x20000000 M = true := by exact sub_le (by assumption) (by decide)) : Kept M Q s0 (State.clearBuffer s) := by
  unfold State.clearBuffer
  try dsimp only
  repeat' first
    | with_reducible assumption | with_reducible refine @kept_ite _ _ _ _ _ _ _ ?_ ?_ | simp only [kept_mk]
    | with_reducible refine Kept.parts ?_

theorem State.keepAbandon_kept {M : Nat} {Q : List Instr} {s0 s : State} (hQ : Kept M Q s0 s)
    (hm : sub 0x6031000048 M = true := by exact sub_le (by assumption) (by decide)) : Kept M Q s0 (State.keepAbandon s) := by
  unfold State.keepAbandon
  try dsimp only
  repeat' first
    | with_reducible assumption | with_reducible refine @kept_ite _ _ _ _ _ _ _ ?_ ?_
    | with_reducible refine State.clearBuffer_kept ?_ | with_reducible refine State.ledEvent_kept ?_ _ ?_
    | with_reducible refine State.keepEvent_kept ?_ _ ?_ | with_reducible refine State.tornWord_kept ?_ _ _ _
    | with_reducible refine Kept.put ?_ _ _ ?_ | with_reducible refine kept_foldl (fun t x ht => ?_) _ _ ?_
    | with_reducible refine kept_foldl_fst (fun t x ht => ?_) _ _ ?_ | exact all_nil_ok | refine all_cons_ok ?_ ?_
    | exact ok_le hm (by decide) | exact ok_add hm (by decide) | exact ok_add2 hm (by decide) | exact ok_at hm (by decide)
    | simp only [kept_mk] | with_reducible refine Kept.parts ?_
    | with_reducible refine Kept.partsDev ?_ (Kept.devWf (m := M) (q := Q) (s0 := s0) ?_ rfl rfl rfl rfl) | dsimp only | split

theorem State.loadBuffer_kept {M : Nat} {Q : List Instr} {s0 s : State} (hQ : Kept M Q s0 s) (v : BitVec 16)
    (hm : sub 0x20000008 M = true := by exact sub_le (by assumption) (by decide)) : Kept M Q s0 (State.loadBuffer s v) := by
  unfold State.loadBuffer
  try dsimp only
  repeat' first
    | with_reducible assumption | with_reducible refine @kept_ite _ _ _ _ _ _ _ ?_ ?_
    | with_reducible refine State.keepEvent_kept ?_ _ ?_ | with_reducible refine Kept.put ?_ _ _ ?_ | exact all_nil_ok
    | refine all_cons_ok ?_ ?_ | exact ok_le hm (by decide) | exact ok_add hm (by decide) | exact ok_add2 hm (by decide)
    | exact ok_at hm (by decide) | simp only [kept_mk] | with_reducible refine Kept.parts ?_
    | with_reducible refine Kept.partsDev ?_ (Kept.devWf (m := M) (q := Q) (s0 := s0) ?_ rfl rfl rfl rfl) | dsimp only | split

theorem State.submitBuffer_kept {M : Nat} {Q : List Instr} {s0 s : State} (hQ : Kept M Q s0 s)
    (hm : sub 0x20000008 M = true := by exact sub_le (by assumption) (by decide)) : Kept M Q s0 (State.submitBuffer s) := by
  unfold State.submitBuffer
  try dsimp only
  repeat' first
    | with_reducible assumption | with_reducible refine @kept_ite _ _ _ _ _ _ _ ?_ ?_
    | with_reducible refine State.writeHot_kept ?_ _ _ | with_reducible refine State.clearBuffer_kept ?_
    | with_reducible refine State.keepEvent_kept ?_ _ ?_ | exact all_nil_ok | refine all_cons_ok ?_ ?_
    | exact ok_le hm (by decide) | exact ok_add hm (by decide) | exact ok_add2 hm (by decide) | exact ok_at hm (by decide)
    | simp only [kept_mk] | with_reducible refine Kept.parts ?_
    | with_reducible refine Kept.partsDev ?_ (Kept.devWf (m := M) (q := Q) (s0 := s0) ?_ rfl rfl rfl rfl) | dsimp only | split

theorem State.readData_kept {M : Nat} {Q : List Instr} {s0 s : State} (hQ : Kept M Q s0 s)
    (hm : sub 0x8 M = true := by exact sub_le (by assumption) (by decide)) : Kept M Q s0 (State.readData s).1 := by
  unfold State.readData
  try dsimp only
  repeat' first
    | with_reducible assumption | with_reducible refine @kept_ite _ _ _ _ _ _ _ ?_ ?_
    | with_reducible refine @kept_ite_fst _ _ _ _ _ _ _ _ ?_ ?_ | with_reducible refine Kept.put ?_ _ _ ?_ | exact all_nil_ok
    | refine all_cons_ok ?_ ?_ | exact ok_le hm (by decide)

theorem State.flushEnd_kept {M : Nat} {Q : List Instr} {s0 s : State} (hQ : Kept M Q s0 s)
    (hm : sub 0x20010040 M = true := by exact sub_le (by assumption) (by decide)) : Kept M Q s0 (State.flushEnd s) := by
  unfold State.flushEnd
  try dsimp only
  repeat' first
    | with_reducible assumption | with_reducible refine @kept_ite _ _ _ _ _ _ _ ?_ ?_
    | with_reducible refine Kept.put ?_ _ _ ?_ | exact all_nil_ok | refine all_cons_ok ?_ ?_ | exact ok_le hm (by decide)
    | exact ok_add hm (by decide) | exact ok_add2 hm (by decide) | exact ok_at hm (by decide) | simp only [kept_mk]
    | with_reducible refine Kept.parts ?_
    | with_reducible refine Kept.partsDev ?_ (Kept.devWf (m := M) (q := Q) (s0 := s0) ?_ rfl rfl rfl rfl) | dsimp only | split

theorem State.flushStart_kept {M : Nat} {Q : List Instr} {s0 s : State} (hQ : Kept M Q s0 s) (why : FlushFor)
    (hm : sub 0x20010040 M = true := by exact sub_le (by assumption) (by decide)) : Kept M Q s0 (State.flushStart s why) := by
  unfold State.flushStart
  try dsimp only
  repeat' first
    | with_reducible assumption | with_reducible refine @kept_ite _ _ _ _ _ _ _ ?_ ?_
    | with_reducible refine State.flushEnd_kept ?_ | simp only [kept_mk] | with_reducible refine Kept.parts ?_

theorem State.hotWrite_kept {M : Nat} {Q : List Instr} {s0 s : State} (hQ : Kept M Q s0 s) (x : Sender) (v : Word)
    (hm : sub 0x20010040 M = true := by exact sub_le (by assumption) (by decide)) : Kept M Q s0 (State.hotWrite s x v) := by
  unfold State.hotWrite
  try dsimp only
  repeat' first
    | with_reducible assumption | with_reducible refine @kept_ite _ _ _ _ _ _ _ ?_ ?_
    | with_reducible refine State.flushStart_kept ?_ _ | simp only [kept_mk] | with_reducible refine Kept.parts ?_

theorem State.hotLoad_wf (s : State) (r : Nat × Nat) : Map.wf (fun _ => 0) (s.hotLoad r) = true := Map.wf_setAll _ (Map.wf_nil _)

theorem State.hotSwitch_kept {M : Nat} {Q : List Instr} {s0 s : State} (hQ : Kept M Q s0 s) (r : Nat × Nat)
    (hm : sub 0x20000008 M = true := by exact sub_le (by assumption) (by decide)) : Kept M Q s0 (State.hotSwitch s r) := by
  have h := Kept.put (Kept.put hQ Reg.KEEP_HOT_FIRST r.1 (ok_le hm (by decide))) Reg.KEEP_HOT_PAGES r.2 (ok_le hm (by decide))
  exact kept_mk.mpr (h.partsKeep h.good.words (s.hotLoad_wf r))

end Sys2Proof.Machine
end

