-- ==== Sys2Proof/Laws/KeptArrayOps.lean ====
section
/-! SUPPORT. What the definitions of Machine/ArrayOps.lean keep: one lemma `<name>_kept` for each (Laws/Kept.lean). -/

-- Proof bodies are elaborated in order: elaborated in parallel they wait on one another, each in a thread of its own.
set_option Elab.async false

namespace Sys2Proof.Machine
open Sys2Proof

theorem Image.wf_iff (m : Image) :
    Image.wf m = true ↔ Map.wf (fun _ => m.blank) m.cells = true ∧ Map.wf (fun _ => 0) m.ecc = true := by
  simp only [Image.wf, Bool.and_eq_true]

theorem Image.setWord_wf {m : Image} (h : Image.wf m = true) (off : Nat) (w : Word) : Image.wf (m.setWord off w) = true := by
  rw [Image.wf_iff] at h ⊢
  exact ⟨Map.wf_set h.1 off w, h.2⟩

theorem Image.setEcc_wf {m : Image} (h : Image.wf m = true) (idx : Nat) (e : Fin 4) : Image.wf (m.setEcc idx e) = true := by
  rw [Image.wf_iff] at h ⊢
  exact ⟨h.1, Map.wf_set h.2 idx e⟩

theorem Image.flat_wf (w : Word) : Image.wf (Image.flat w) = true := rfl

/-- The cells of one image with the error marks of another. -/
theorem Image.withEcc_wf {m n : Image} (h : Image.wf m = true) (hn : Image.wf n = true) :
    Image.wf { m with ecc := n.ecc } = true := by
  rw [Image.wf_iff] at h hn ⊢
  exact ⟨h.1, hn.2⟩

theorem Image.foldl_wf {α : Type} {f : Image → α → Image} (hf : ∀ m x, Image.wf m = true → Image.wf (f m x) = true) :
    ∀ (xs : List α) (m : Image), Image.wf m = true → Image.wf (xs.foldl f m) = true
  | [], _, h => h
  | x :: xs, m, h => Image.foldl_wf hf xs (f m x) (hf m x h)

theorem imagesWf_get {m : Map Image} (h : imagesWf m = true) (p : Nat) : Image.wf (Map.get (fun _ => {}) m p) = true := by
  simp only [imagesWf, Bool.and_eq_true] at h
  exact Map.all_get Image.wf _ h.2 p rfl

theorem imagesWf_set {m : Map Image} (h : imagesWf m = true) (p : Nat) {i : Image} (hi : Image.wf i = true) :
    imagesWf (Map.set (fun _ => {}) m p i) = true := by
  simp only [imagesWf, Bool.and_eq_true] at h ⊢
  exact ⟨Map.wf_set h.1 p i, Map.all_set Image.wf _ h.2 p hi⟩

theorem Good.image {Q : List Instr} {s : State} (hQ : Good Q s) (p : Nat) : Image.wf (s.image p) = true := imagesWf_get hQ.arr p

theorem Good.cwImage {Q : List Instr} {s : State} (hQ : Good Q s) (cw : Nat) : Image.wf (s.cwImage cw) = true := hQ.image _

theorem Kept.setImage {M : Nat} {Q : List Instr} {s0 s : State} (hQ : Kept M Q s0 s) (p : Nat) {g : Image} (hg : Image.wf g = true)
    (hm : sub 0x20000 M = true := by exact sub_le (by assumption) (by decide)) : Kept M Q s0 (State.setImage s p g) :=
  kept_mk.mpr (hQ.partsImages (imagesWf_set hQ.good.arr p hg) hQ.good.planeA hQ.good.planeB)

theorem Kept.setCwImage {M : Nat} {Q : List Instr} {s0 s : State} (hQ : Kept M Q s0 s) (cw : Nat) {g : Image}
    (hg : Image.wf g = true) (hm : sub 0x20000 M = true := by exact sub_le (by assumption) (by decide)) :
    Kept M Q s0 (State.setCwImage s cw g) := hQ.setImage _ hg

theorem copyImage_wf {m : Image} (h : Image.wf m = true) (byte : Bool) : Image.wf (copyImage m byte).1 = true := by
  refine Image.foldl_wf (fun g i hg => ?_) _ _ ?_
  · cases byte
    · exact Image.setEcc_wf hg _ _
    · exact Image.foldl_wf (fun t k ht => Image.setWord_wf ht _ _) _ _ hg
  · rw [Image.wf_iff] at h ⊢
    exact ⟨h.1, Map.wf_nil _⟩

theorem Image.filterEcc_wf {m : Image} (h : Image.wf m = true) (p : Nat × Fin 4 → Bool) :
    Image.wf { m with ecc := m.ecc.filter p } = true := by
  rw [Image.wf_iff] at h ⊢
  exact ⟨h.1, Map.wf_filter h.2 p⟩

theorem Image.keep_wf {m : Image} (h : Image.wf m = true) (p q : Nat → Bool) :
    Image.wf { m with cells := Map.keep m.cells p, ecc := Map.keep m.ecc q } = true := by
  rw [Image.wf_iff] at h ⊢
  exact ⟨Map.wf_keep h.1 p, Map.wf_keep h.2 q⟩

theorem State.setRstate_kept {M : Nat} {Q : List Instr} {s0 s : State} (hQ : Kept M Q s0 s) (r : Nat) (st : Nat)
    (hm : sub 0x60 M = true := by exact sub_le (by assumption) (by decide)) : Kept M Q s0 (State.setRstate s r st) := by
  unfold State.setRstate
  try dsimp only
  repeat' first
    | with_reducible assumption | with_reducible refine @kept_ite _ _ _ _ _ _ _ ?_ ?_
    | with_reducible refine Kept.put ?_ _ _ ?_ | exact all_nil_ok | refine all_cons_ok ?_ ?_ | exact ok_le hm (by decide)
    | exact ok_add hm (by decide)

theorem State.clearRegion_kept {M : Nat} {Q : List Instr} {s0 s : State} (hQ : Kept M Q s0 s) (r : Nat)
    (hm : sub 0x820000 M = true := by exact sub_le (by assumption) (by decide)) : Kept M Q s0 (State.clearRegion s r) :=
  kept_mk.mpr (hQ.setImage r (Image.flat_wf _)).parts

theorem State.eraseSeal_kept {M : Nat} {Q : List Instr} {s0 s : State} (hQ : Kept M Q s0 s) (p : Nat) (b : Bool)
    (hm : sub 0x40000 M = true := by exact sub_le (by assumption) (by decide)) : Kept M Q s0 (State.eraseSeal s p b) := by
  unfold State.eraseSeal
  dsimp only
  split
  · exact kept_mk.mpr (hQ.partsSeals hQ.good.sealA (Map.wf_setAll _ hQ.good.sealB))
  · exact kept_mk.mpr (hQ.partsSeals (Map.wf_setAll _ hQ.good.sealA) hQ.good.sealB)

theorem State.eraseSeals_kept {M : Nat} {Q : List Instr} {s0 s : State} (hQ : Kept M Q s0 s) (p : Nat)
    (hm : sub 0x40000 M = true := by exact sub_le (by assumption) (by decide)) : Kept M Q s0 (State.eraseSeals s p) := by
  unfold State.eraseSeals
  try dsimp only
  repeat' first
    | with_reducible assumption | with_reducible refine @kept_ite _ _ _ _ _ _ _ ?_ ?_
    | with_reducible refine State.eraseSeal_kept ?_ _ _

theorem State.arrLast_kept {M : Nat} {Q : List Instr} {s0 s : State} (hQ : Kept M Q s0 s) (cause : Nat) (cluster : Nat) (r :
    Nat) (hm : sub 0x20 M = true := by exact sub_le (by assumption) (by decide)) : Kept M Q s0 (State.arrLast s cause cluster
    r) := by
  unfold State.arrLast
  try dsimp only
  repeat' first
    | with_reducible assumption | with_reducible refine @kept_ite _ _ _ _ _ _ _ ?_ ?_
    | with_reducible refine Kept.setReg ?_ _ _ ?_ | exact all_nil_ok | refine all_cons_ok ?_ ?_ | exact ok_le hm (by decide)

theorem State.yieldHeld_kept {M : Nat} {Q : List Instr} {s0 s : State} (hQ : Kept M Q s0 s)
    (hm : sub 0x800000040 M = true := by exact sub_le (by assumption) (by decide)) : Kept M Q s0 (State.yieldHeld s) := by
  unfold State.yieldHeld
  try dsimp only
  repeat' first
    | with_reducible assumption | with_reducible refine @kept_ite _ _ _ _ _ _ _ ?_ ?_
    | with_reducible refine State.bump_kept ?_ _ ?_ | exact all_nil_ok | refine all_cons_ok ?_ ?_ | exact ok_le hm (by decide)
    | exact ok_add hm (by decide) | exact ok_add2 hm (by decide) | exact ok_at hm (by decide) | simp only [kept_mk]
    | with_reducible refine Kept.parts ?_
    | with_reducible refine Kept.partsDev ?_ (Kept.devWf (m := M) (q := Q) (s0 := s0) ?_ rfl rfl rfl rfl) | dsimp only | split

theorem State.yieldWindow_kept {M : Nat} {Q : List Instr} {s0 s : State} (hQ : Kept M Q s0 s) (r : Nat)
    (hm : sub 0x800000040 M = true := by exact sub_le (by assumption) (by decide)) : Kept M Q s0 (State.yieldWindow s r)
    := by
  unfold State.yieldWindow
  try dsimp only
  repeat' first
    | with_reducible assumption | with_reducible refine @kept_ite _ _ _ _ _ _ _ ?_ ?_
    | with_reducible refine State.yieldHeld_kept ?_ | simp only [kept_mk] | with_reducible refine Kept.parts ?_
    | with_reducible refine Kept.partsDev ?_ (Kept.devWf (m := M) (q := Q) (s0 := s0) ?_ rfl rfl rfl rfl) | dsimp only
    | split

theorem State.access_kept {M : Nat} {Q : List Instr} {s0 s : State} (hQ : Kept M Q s0 s) (r : Nat) (cw : Nat)
    (hm : sub 0x800000040 M = true := by exact sub_le (by assumption) (by decide)) : Kept M Q s0 (State.access s r cw) :=
    by
  unfold State.access
  try dsimp only
  repeat' first
    | with_reducible assumption | with_reducible refine @kept_ite _ _ _ _ _ _ _ ?_ ?_
    | with_reducible refine State.yieldHeld_kept ?_ | simp only [kept_mk] | with_reducible refine Kept.parts ?_
    | with_reducible refine Kept.partsDev ?_ (Kept.devWf (m := M) (q := Q) (s0 := s0) ?_ rfl rfl rfl rfl) | dsimp only
    | split

theorem State.padAccess_kept {M : Nat} {Q : List Instr} {s0 s : State} (hQ : Kept M Q s0 s) (ks : List Nat)
    (hm : sub 0x800000040 M = true := by exact sub_le (by assumption) (by decide)) : Kept M Q s0 (State.padAccess s ks) :=
    by
  unfold State.padAccess
  try dsimp only
  repeat' first
    | with_reducible assumption | with_reducible refine @kept_ite _ _ _ _ _ _ _ ?_ ?_
    | with_reducible refine State.yieldHeld_kept ?_ | simp only [kept_mk] | with_reducible refine Kept.parts ?_
    | with_reducible refine Kept.partsDev ?_ (Kept.devWf (m := M) (q := Q) (s0 := s0) ?_ rfl rfl rfl rfl) | dsimp only
    | split

theorem State.setPads_kept {M : Nat} {Q : List Instr} {s0 s : State} (hQ : Kept M Q s0 s) (ws : List (BitVec 18 × BitVec
    64)) (hm : sub 0x800000040 M = true := by exact sub_le (by assumption) (by decide)) : Kept M Q s0 (State.setPads s ws)
    := by
  unfold State.setPads
  try dsimp only
  repeat' first
    | with_reducible assumption | with_reducible refine @kept_ite _ _ _ _ _ _ _ ?_ ?_
    | with_reducible refine State.padAccess_kept ?_ _ | simp only [kept_mk] | with_reducible refine Kept.parts ?_
    | with_reducible refine Kept.partsDev ?_ (Kept.devWf (m := M) (q := Q) (s0 := s0) ?_ rfl rfl rfl rfl) | dsimp only
    | split

theorem State.padWrites_kept {M : Nat} {Q : List Instr} {s0 s : State} (hQ : Kept M Q s0 s) (p : PadTraffic)
    (hm : sub 0x800000040 M = true := by exact sub_le (by assumption) (by decide)) : Kept M Q s0 (State.padWrites s p) :=
    by
  unfold State.padWrites
  try dsimp only
  repeat' first
    | with_reducible assumption | with_reducible refine @kept_ite _ _ _ _ _ _ _ ?_ ?_
    | with_reducible refine State.setPads_kept ?_ _

theorem State.clearPad_kept {M : Nat} {Q : List Instr} {s0 s : State} (hQ : Kept M Q s0 s) (f : Nat)
    (hm : sub 0x800000000 M = true := by exact sub_le (by assumption) (by decide)) : Kept M Q s0 (State.clearPad s f) :=
    by
  unfold State.clearPad
  try dsimp only
  repeat' first
    | with_reducible assumption | with_reducible refine @kept_ite _ _ _ _ _ _ _ ?_ ?_ | simp only [kept_mk]
    | with_reducible refine Kept.parts ?_
    | with_reducible refine Kept.partsDev ?_ (Kept.devWf (m := M) (q := Q) (s0 := s0) ?_ rfl rfl rfl rfl) | dsimp only
    | split

theorem State.leave_kept {M : Nat} {Q : List Instr} {s0 s : State} (hQ : Kept M Q s0 s) (r : Nat)
    (hm : sub 0x100000 M = true := by exact sub_le (by assumption) (by decide)) : Kept M Q s0 (State.leave s r) := by
  unfold State.leave
  try dsimp only
  repeat' first
    | with_reducible assumption | with_reducible refine @kept_ite _ _ _ _ _ _ _ ?_ ?_ | simp only [kept_mk]
    | with_reducible refine Kept.parts ?_
    | with_reducible refine Kept.partsDev ?_ (Kept.devWf (m := M) (q := Q) (s0 := s0) ?_ rfl rfl rfl rfl)

theorem State.retireNow_kept {M : Nat} {Q : List Instr} {s0 s : State} (hQ : Kept M Q s0 s) (r : Nat) (cause : Nat) (cluster :
    Nat) (hm : sub 0x3001100060 M = true := by exact sub_le (by assumption) (by decide)) : Kept M Q s0 (State.retireNow s r
    cause cluster) := by
  unfold State.retireNow
  try dsimp only
  repeat' first
    | with_reducible assumption | with_reducible refine @kept_ite _ _ _ _ _ _ _ ?_ ?_
    | with_reducible refine State.arrEvent_kept ?_ _ _ ?_ | with_reducible refine State.log_kept ?_ _ _ _ _ _
    | with_reducible refine State.leave_kept ?_ _ | with_reducible refine State.setRstate_kept ?_ _ _
    | with_reducible refine State.arrLast_kept ?_ _ _ _ | with_reducible refine Kept.put ?_ _ _ ?_ | exact all_nil_ok
    | refine all_cons_ok ?_ ?_ | exact ok_le hm (by decide) | exact ok_add hm (by decide)

theorem State.relocate_kept {M : Nat} {Q : List Instr} {s0 s : State} (hQ : Kept M Q s0 s)
    (hm : sub 0x2801120060 M = true := by exact sub_le (by assumption) (by decide)) : Kept M Q s0 (State.relocate s) := by
  unfold State.relocate
  try dsimp only
  repeat' first
    | with_reducible assumption | with_reducible refine @kept_ite _ _ _ _ _ _ _ ?_ ?_
    | with_reducible refine State.yieldWindow_kept ?_ _ | with_reducible refine State.arrLast_kept ?_ _ _ _
    | with_reducible refine State.setRstate_kept ?_ _ _ | with_reducible refine Kept.setImage ?_ _ ?_
    | with_reducible refine State.arrEvent_kept ?_ _ _ ?_ | with_reducible refine Kept.put ?_ _ _ ?_ | exact all_nil_ok
    | refine all_cons_ok ?_ ?_ | exact ok_le hm (by decide) | exact ok_add hm (by decide) | exact ok_add2 hm (by decide)
    | exact ok_at hm (by decide) | simp only [kept_mk] | with_reducible refine Kept.parts ?_
    | with_reducible refine Kept.partsDev ?_ (Kept.devWf (m := M) (q := Q) (s0 := s0) ?_ rfl rfl rfl rfl) | dsimp only
    | split | with_reducible refine Image.setEcc_wf ?_ _ _ | with_reducible refine Image.setWord_wf ?_ _ _
    | with_reducible refine Image.foldl_wf (fun m x hm => ?_) _ _ ?_ | with_reducible refine Good.image (Q := Q) ?_ _
    | with_reducible refine Good.cwImage (Q := Q) ?_ _ | with_reducible exact Image.flat_wf _
    | with_reducible refine copyImage_wf ?_ _ | with_reducible refine Image.filterEcc_wf ?_ _
    | with_reducible refine Image.keep_wf ?_ _ _ | with_reducible refine Kept.good (m := M) (s0 := s0) ?_

theorem State.retire_kept {M : Nat} {Q : List Instr} {s0 s : State} (hQ : Kept M Q s0 s) (r : Nat) (cause : Nat) (cluster
    : Nat) (hm : sub 0x3801120060 M = true := by exact sub_le (by assumption) (by decide)) : Kept M Q s0 (State.retire s r
    cause cluster) := by
  unfold State.retire
  try dsimp only
  repeat' first
    | with_reducible assumption | with_reducible refine @kept_ite _ _ _ _ _ _ _ ?_ ?_
    | with_reducible refine State.relocate_kept ?_ | with_reducible refine State.retireNow_kept ?_ _ _ _
    | with_reducible refine State.leave_kept ?_ _ | with_reducible refine State.arrLast_kept ?_ _ _ _
    | with_reducible refine State.setRstate_kept ?_ _ _ | with_reducible refine State.log_kept ?_ _ _ _ _ _
    | with_reducible refine State.arrEvent_kept ?_ _ _ ?_ | exact all_nil_ok | refine all_cons_ok ?_ ?_
    | exact ok_le hm (by decide) | exact ok_add hm (by decide) | exact ok_add2 hm (by decide) | exact ok_at hm (by decide)
    | simp only [kept_mk] | with_reducible refine Kept.parts ?_
    | with_reducible refine Kept.partsDev ?_ (Kept.devWf (m := M) (q := Q) (s0 := s0) ?_ rfl rfl rfl rfl) | dsimp only
    | split

theorem State.retireLate_kept {M : Nat} {Q : List Instr} {s0 s : State} (hQ : Kept M Q s0 s) (r : Nat)
    (hm : sub 0x3801120060 M = true := by exact sub_le (by assumption) (by decide)) : Kept M Q s0 (State.retireLate s r)
    := by
  unfold State.retireLate
  try dsimp only
  repeat' first
    | with_reducible assumption | with_reducible refine @kept_ite _ _ _ _ _ _ _ ?_ ?_
    | with_reducible refine State.retire_kept ?_ _ _ _ | simp only [kept_mk] | with_reducible refine Kept.parts ?_
    | with_reducible refine Kept.partsDev ?_ (Kept.devWf (m := M) (q := Q) (s0 := s0) ?_ rfl rfl rfl rfl) | dsimp only
    | split

theorem State.replace_kept {M : Nat} {Q : List Instr} {s0 s : State} (hQ : Kept M Q s0 s) (r : Nat) (cluster : Nat) (cause
    : Nat) (hm : sub 0x3801120060 M = true := by exact sub_le (by assumption) (by decide)) : Kept M Q s0 (State.replace s
    r cluster cause) := by
  unfold State.replace
  try dsimp only
  repeat' first
    | with_reducible assumption | with_reducible refine @kept_ite _ _ _ _ _ _ _ ?_ ?_
    | with_reducible refine State.retire_kept ?_ _ _ _ | with_reducible refine State.yieldWindow_kept ?_ _ | exact all_nil_ok
    | refine all_cons_ok ?_ ?_ | exact ok_le hm (by decide) | exact ok_add hm (by decide) | exact ok_add2 hm (by decide)
    | exact ok_at hm (by decide) | simp only [kept_mk] | with_reducible refine Kept.parts ?_
    | with_reducible refine Kept.partsDev ?_ (Kept.devWf (m := M) (q := Q) (s0 := s0) ?_ rfl rfl rfl rfl) | dsimp only
    | split

theorem State.upsetIn_kept {M : Nat} {Q : List Instr} {s0 s : State} (hQ : Kept M Q s0 s) (p : Nat) (u : Upset)
    (hm : sub 0x20000 M = true := by exact sub_le (by assumption) (by decide)) : Kept M Q s0 (State.upsetIn s p u) := by
  unfold State.upsetIn
  dsimp only
  split
  · exact hQ.setImage _ (Image.setEcc_wf (hQ.good.image _) _ _)
  · exact hQ.setImage _ (Image.setEcc_wf (hQ.good.image _) _ _)
  · exact hQ

theorem State.upset_kept {M : Nat} {Q : List Instr} {s0 s : State} (hQ : Kept M Q s0 s) (u : Upset)
    (hm : sub 0x20000 M = true := by exact sub_le (by assumption) (by decide)) : Kept M Q s0 (State.upset s u) :=
  State.upsetIn_kept hQ _ u

theorem State.upsets_kept {M : Nat} {Q : List Instr} {s0 s : State} (hQ : Kept M Q s0 s) (us : List Upset) (first : Nat) (last
    : Nat) (hm : sub 0x20000 M = true := by exact sub_le (by assumption) (by decide)) : Kept M Q s0 (State.upsets s us first
    last) := by
  unfold State.upsets
  try dsimp only
  repeat' first
    | with_reducible assumption | with_reducible refine @kept_ite _ _ _ _ _ _ _ ?_ ?_
    | with_reducible refine State.upset_kept ?_ _ | with_reducible refine kept_foldl (fun t x ht => ?_) _ _ ?_

theorem State.markIn_kept {M : Nat} {Q : List Instr} {s0 s : State} (hQ : Kept M Q s0 s) (p : Nat) (r : Nat) (cw : Nat)
    (hm : sub 0x3801120060 M = true := by exact sub_le (by assumption) (by decide)) : Kept M Q s0 (State.markIn s p r cw) := by
  unfold State.markIn
  dsimp only
  refine State.replace_kept ?_ _ _ _
  refine State.log_kept ?_ _ _ _ _ _
  refine State.arrEvent_kept ?_ _ _ (ok_le hm (by decide))
  refine State.arrLast_kept ?_ _ _ _
  refine State.put36_kept ?_ _ _ _ (ok_le hm (by decide)) (ok_le hm (by decide))
  refine hQ.setImage p ?_
  split
  · exact Image.setEcc_wf (Image.foldl_wf (fun g k hg => Image.setWord_wf hg _ _) _ _ (hQ.good.image p)) _ _
  · exact Image.setEcc_wf (hQ.good.image p) _ _

theorem State.markCodeword_kept {M : Nat} {Q : List Instr} {s0 s : State} (hQ : Kept M Q s0 s) (cw : Nat)
    (hm : sub 0x3801120060 M = true := by exact sub_le (by assumption) (by decide)) : Kept M Q s0 (State.markCodeword s cw) :=
  State.markIn_kept hQ _ _ cw

theorem State.touch_kept {M : Nat} {Q : List Instr} {s0 s : State} (hQ : Kept M Q s0 s) (cw : Nat)
    (hm : sub 0x3801120060 M = true := by exact sub_le (by assumption) (by decide)) : Kept M Q s0 (State.touch s cw).1 :=
    by
  unfold State.touch
  try dsimp only
  repeat' first
    | with_reducible assumption | with_reducible refine @kept_ite _ _ _ _ _ _ _ ?_ ?_
    | with_reducible refine @kept_ite_fst _ _ _ _ _ _ _ _ ?_ ?_ | with_reducible refine State.markCodeword_kept ?_ _
    | with_reducible refine State.access_kept ?_ _ _ | simp only [kept_mk] | with_reducible refine Kept.parts ?_
    | with_reducible refine Kept.partsDev ?_ (Kept.devWf (m := M) (q := Q) (s0 := s0) ?_ rfl rfl rfl rfl) | dsimp only
    | split

theorem State.cover_kept {M : Nat} {Q : List Instr} {s0 s : State} (hQ : Kept M Q s0 s) (cw : Nat)
    (hm : sub 0x800000040 M = true := by exact sub_le (by assumption) (by decide)) : Kept M Q s0 (State.cover s cw).1 :=
    by
  unfold State.cover
  try dsimp only
  repeat' first
    | with_reducible assumption | with_reducible refine @kept_ite _ _ _ _ _ _ _ ?_ ?_
    | with_reducible refine @kept_ite_fst _ _ _ _ _ _ _ _ ?_ ?_ | with_reducible refine State.access_kept ?_ _ _

theorem State.readCw_kept {M : Nat} {Q : List Instr} {s0 s : State} (hQ : Kept M Q s0 s) (cw : Nat) (m : Met)
    (hm : sub 0x3801120060 M = true := by exact sub_le (by assumption) (by decide)) : Kept M Q s0 (State.readCw s cw m).1 := by
  unfold State.readCw
  try dsimp only
  repeat' first
    | with_reducible assumption | with_reducible refine @kept_ite _ _ _ _ _ _ _ ?_ ?_
    | with_reducible refine @kept_ite_fst _ _ _ _ _ _ _ _ ?_ ?_ | with_reducible refine State.touch_kept ?_ _
    | simp only [kept_mk] | with_reducible refine Kept.parts ?_
    | with_reducible refine Kept.partsDev ?_ (Kept.devWf (m := M) (q := Q) (s0 := s0) ?_ rfl rfl rfl rfl) | dsimp only | split

theorem State.readCws_kept (n : Nat) {M : Nat} {Q : List Instr} {s0 s : State} (hQ : Kept M Q s0 s) (cw : Nat) (x : Met)
    (hm : sub 0x3801120060 M = true := by exact sub_le (by assumption) (by decide)) : Kept M Q s0 (State.readCws s n cw x).1 := by
  induction n generalizing s cw x with
  | zero => exact hQ
  | succ n ih => exact ih (State.readCw_kept hQ cw x) _ _

theorem State.readBytes_kept {M : Nat} {Q : List Instr} {s0 s : State} (hQ : Kept M Q s0 s) (addr len : Nat) (m : Met)
    (hm : sub 0x3801120060 M = true := by exact sub_le (by assumption) (by decide)) :
    Kept M Q s0 (State.readBytes s addr len m).1 := State.readCws_kept _ hQ _ _

theorem State.writeCw_kept {M : Nat} {Q : List Instr} {s0 s : State} (hQ : Kept M Q s0 s) (cw : Nat) (bs : List (Option Byte)) (poison : Bool) (m : Met)
    (hm : sub 0x3801120060 M = true := by exact sub_le (by assumption) (by decide)) :
    Kept M Q s0 (State.writeCw s cw bs poison m).1 := by
  have key : ∀ t : State, Kept M Q s0 t → ∀ (f : Image → Nat → Image), (∀ g k, Image.wf g = true → Image.wf (f g k) = true) →
      Kept M Q s0 (t.setCwImage cw ((([0, 1, 2, 3].foldl f (t.cwImage cw))).setEcc (cwIndex cw) 0)) := fun t ht f hf =>
    ht.setCwImage cw (Image.setEcc_wf (Image.foldl_wf hf _ _ (ht.good.cwImage cw)) _ _)
  unfold State.writeCw
  refine key _ ?_ _ (fun g k hg => Image.setWord_wf hg _ _)
  split
  · exact State.cover_kept hQ cw
  · exact State.touch_kept hQ cw

theorem State.writeCws_kept (n : Nat) {M : Nat} {Q : List Instr} {s0 s : State} (hQ : Kept M Q s0 s) (cw : Nat) (bs : List
    (Option Byte)) (p : Bool) (x : Met) (hm : sub 0x3801120060 M = true := by exact sub_le (by assumption) (by decide)) : Kept
    M Q s0 (State.writeCws s n cw bs p x).1 := by
  induction n generalizing s cw bs x with
  | zero => exact hQ
  | succ n ih => exact ih (State.writeCw_kept hQ cw (bs.take 8) p x) _ _ _

theorem State.writeBytes_kept {M : Nat} {Q : List Instr} {s0 s : State} (hQ : Kept M Q s0 s) (addr : Nat) (bs : List Byte)
    (poison : Bool) (m : Met) (hm : sub 0x3801120060 M = true := by exact sub_le (by assumption) (by decide)) : Kept M Q s0
    (State.writeBytes s addr bs poison m).1 := by
  unfold State.writeBytes
  split
  · exact hQ
  · exact State.writeCws_kept _ hQ _ _ _ _

theorem State.wipeCws_kept (n : Nat) {M : Nat} {Q : List Instr} {s0 s : State} (hQ : Kept M Q s0 s) (cw : Nat)
    (hm : sub 0x800020040 M = true := by exact sub_le (by assumption) (by decide)) : Kept M Q s0 (State.wipeCws s n cw) := by
  induction n generalizing s cw with
  | zero => exact hQ
  | succ n ih =>
    have h1 := State.cover_kept hQ cw
    exact ih (h1.setCwImage cw (Image.setEcc_wf (Image.foldl_wf (fun g k hg => Image.setWord_wf hg _ _) _ _
      (h1.good.cwImage cw)) _ _)) _

theorem State.readMarked_kept {M : Nat} {Q : List Instr} {s0 s : State} (hQ : Kept M Q s0 s) (addr : Nat) (len : Nat) (m :
    Met) (hm : sub 0x3801120060 M = true := by exact sub_le (by assumption) (by decide)) : Kept M Q s0 (State.readMarked s
    addr len m).1 := by
  unfold State.readMarked
  try dsimp only
  repeat' first
    | with_reducible assumption | with_reducible refine @kept_ite _ _ _ _ _ _ _ ?_ ?_
    | with_reducible refine @kept_ite_fst _ _ _ _ _ _ _ _ ?_ ?_ | with_reducible refine State.readCw_kept ?_ _ _
    | with_reducible refine kept_foldl (fun t x ht => ?_) _ _ ?_
    | with_reducible refine kept_foldl_fst (fun t x ht => ?_) _ _ ?_

theorem State.poisonBytes_kept {M : Nat} {Q : List Instr} {s0 s : State} (hQ : Kept M Q s0 s) (addr : Nat) (flags : List Bool)
    (hm : sub 0x20000 M = true := by exact sub_le (by assumption) (by decide)) :
    Kept M Q s0 (State.poisonBytes s addr flags) :=
  kept_foldl (fun _ _ ht => ht.setCwImage _ (Image.setWord_wf (ht.good.cwImage _) _ _)) _ _ hQ

theorem State.setW18_kept {M : Nat} {Q : List Instr} {s0 s : State} (hQ : Kept M Q s0 s) (w : Nat) (v : Word)
    (hm : sub 0x800020040 M = true := by exact sub_le (by assumption) (by decide)) : Kept M Q s0 (State.setW18 s w v) :=
  have h1 := State.access_kept hQ (s.cwOwner (w / 4)) (w / 4)
  h1.setCwImage _ (Image.setWord_wf (h1.good.cwImage _) _ _)

theorem State.putW18s_kept {M : Nat} {Q : List Instr} {s0 s : State} (hQ : Kept M Q s0 s) (w : Nat) (vs : List Word)
    (hm : sub 0x800020040 M = true := by exact sub_le (by assumption) (by decide)) : Kept M Q s0 (State.putW18s s w vs) := by
  induction vs generalizing s w with
  | nil => exact hQ
  | cons v vs ih => exact ih (State.setW18_kept hQ w v) _

theorem State.soundCws_kept {M : Nat} {Q : List Instr} {s0 s : State} (hQ : Kept M Q s0 s) (w n : Nat)
    (hm : sub 0x20000 M = true := by exact sub_le (by assumption) (by decide)) : Kept M Q s0 (State.soundCws s w n) :=
  kept_foldl (fun _ _ ht => ht.setCwImage _ (Image.setEcc_wf (ht.good.cwImage _) _ _)) _ _ hQ

theorem State.setW18s_kept {M : Nat} {Q : List Instr} {s0 s : State} (hQ : Kept M Q s0 s) (w : Nat) (vs : List Word)
    (hm : sub 0x800020040 M = true := by exact sub_le (by assumption) (by decide)) : Kept M Q s0 (State.setW18s s w vs) :=
  State.soundCws_kept (State.putW18s_kept hQ w vs) w vs.length

theorem State.meetCws_kept {M : Nat} {Q : List Instr} {s0 s : State} (hQ : Kept M Q s0 s) (n cw : Nat)
    (hm : sub 0x3801120060 M = true := by exact sub_le (by assumption) (by decide)) : Kept M Q s0 (State.meetCws s n cw) := by
  induction n generalizing s cw with
  | zero => exact hQ
  | succ n ih => exact ih (State.touch_kept hQ cw) _

theorem State.readW18s_kept (n : Nat) {M : Nat} {Q : List Instr} {s0 s : State} (hQ : Kept M Q s0 s) (w : Nat) (x : Met)
    (hm : sub 0x3801120060 M = true := by exact sub_le (by assumption) (by decide)) : Kept M Q s0 (State.readW18s s n w x).1 := by
  induction n generalizing s w x with
  | zero => exact hQ
  | succ n ih => exact ih (State.touch_kept hQ (w / 4)) _ _

theorem Image.ite_wf {c : Prop} [Decidable c] {m n : Image} (hm : Image.wf m = true) (hn : Image.wf n = true) :
    Image.wf (if c then m else n) = true := by
  split
  · exact hm
  · exact hn

theorem State.writeW18cw_kept {M : Nat} {Q : List Instr} {s0 s : State} (hQ : Kept M Q s0 s) (cw k : Nat) (vs : List Word) (m
    : Met) (hm : sub 0x3801120060 M = true := by exact sub_le (by assumption) (by decide)) : Kept M Q s0 (State.writeW18cw s
    cw k vs m).1 := by
  unfold State.writeW18cw
  have ht : Kept M Q s0 (if decide (k = 0 ∧ vs.length = 4) = true then s.cover cw else s.touch cw).1 := by
    split
    · exact State.cover_kept hQ cw
    · exact State.touch_kept hQ cw
  have hi := Image.foldl_wf (fun (g : Image) (e : Nat × Word) hg => Image.setWord_wf hg (4 * cwIndex cw + k + e.1) e.2)
    ((List.range vs.length).zip vs) _ (ht.good.cwImage cw)
  exact ht.setCwImage cw (Image.ite_wf (Image.setEcc_wf hi _ _) (Image.setEcc_wf hi _ _))

theorem State.writeW18s_kept (n : Nat) {M : Nat} {Q : List Instr} {s0 s : State} (hQ : Kept M Q s0 s) (w : Nat) (vs : List
    Word) (x : Met) (hm : sub 0x3801120060 M = true := by exact sub_le (by assumption) (by decide)) : Kept M Q s0
    (State.writeW18s s n w vs x).1 := by
  induction n generalizing s w vs x with
  | zero => exact hQ
  | succ n ih =>
    unfold State.writeW18s
    split
    · exact hQ
    · exact ih (State.writeW18cw_kept hQ _ _ _ x) _ _ _

theorem State.applyAttr_kept {M : Nat} {Q : List Instr} {s0 s : State} (hQ : Kept M Q s0 s) (p : Nat) (v : Word)
    (hm : sub 0x40060 M = true := by exact sub_le (by assumption) (by decide)) : Kept M Q s0 (State.applyAttr s p v) := by
  unfold State.applyAttr
  try dsimp only
  repeat' first
    | with_reducible assumption | with_reducible refine @kept_ite _ _ _ _ _ _ _ ?_ ?_
    | with_reducible refine State.eraseSeals_kept ?_ _ | with_reducible refine Kept.setReg ?_ _ _ ?_
    | with_reducible refine kept_foldl (fun t x ht => ?_) _ _ ?_
    | with_reducible refine kept_foldl_fst (fun t x ht => ?_) _ _ ?_ | exact all_nil_ok | refine all_cons_ok ?_ ?_
    | exact ok_le hm (by decide) | exact ok_add hm (by decide)

theorem State.applyRegion_kept {M : Nat} {Q : List Instr} {s0 s : State} (hQ : Kept M Q s0 s) (r : Nat) (v : Nat)
    (hm : sub 0x3001960060 M = true := by exact sub_le (by assumption) (by decide)) : Kept M Q s0 (State.applyRegion s r
    v) := by
  unfold State.applyRegion
  try dsimp only
  repeat' first
    | with_reducible assumption | with_reducible refine @kept_ite _ _ _ _ _ _ _ ?_ ?_
    | with_reducible refine State.retireNow_kept ?_ _ _ _ | with_reducible refine State.eraseSeals_kept ?_ _
    | with_reducible refine State.clearRegion_kept ?_ _ | with_reducible refine State.setRstate_kept ?_ _ _
    | with_reducible refine Kept.put ?_ _ _ ?_ | exact all_nil_ok | refine all_cons_ok ?_ ?_ | exact ok_le hm (by decide)
    | exact ok_add hm (by decide) | exact ok_add2 hm (by decide) | exact ok_at hm (by decide) | dsimp only | split

theorem State.endForward_kept {M : Nat} {Q : List Instr} {s0 s : State} (hQ : Kept M Q s0 s) (n : Nat)
    (hm : sub 0x3801920060 M = true := by exact sub_le (by assumption) (by decide)) : Kept M Q s0 (State.endForward s n)
    := by
  unfold State.endForward
  try dsimp only
  repeat' first
    | with_reducible assumption | with_reducible refine @kept_ite _ _ _ _ _ _ _ ?_ ?_
    | with_reducible refine State.retireLate_kept ?_ _ | with_reducible refine State.retireNow_kept ?_ _ _ _
    | with_reducible refine State.clearRegion_kept ?_ _ | with_reducible refine State.setRstate_kept ?_ _ _
    | with_reducible refine Kept.put ?_ _ _ ?_ | with_reducible refine Kept.setReg ?_ _ _ ?_ | exact all_nil_ok
    | refine all_cons_ok ?_ ?_ | exact ok_le hm (by decide) | exact ok_add hm (by decide) | exact ok_add2 hm (by decide)
    | exact ok_at hm (by decide) | dsimp only | split

theorem State.dropMove_kept {M : Nat} {Q : List Instr} {s0 s : State} (hQ : Kept M Q s0 s) (n : Nat)
    (hm : sub 0x3801920060 M = true := by exact sub_le (by assumption) (by decide)) : Kept M Q s0 (State.dropMove s n) :=
    by
  unfold State.dropMove
  try dsimp only
  repeat' first
    | with_reducible assumption | with_reducible refine @kept_ite _ _ _ _ _ _ _ ?_ ?_
    | with_reducible refine State.retireLate_kept ?_ _ | with_reducible refine State.clearRegion_kept ?_ _
    | with_reducible refine State.setRstate_kept ?_ _ _ | with_reducible refine Kept.put ?_ _ _ ?_
    | with_reducible refine Kept.setReg ?_ _ _ ?_ | exact all_nil_ok | refine all_cons_ok ?_ ?_ | exact ok_le hm (by decide)
    | exact ok_add hm (by decide) | exact ok_add2 hm (by decide) | exact ok_at hm (by decide) | dsimp only | split

theorem State.applyHeld_kept {M : Nat} {Q : List Instr} {s0 s : State} (hQ : Kept M Q s0 s) (e : Nat × Word × Sender)
    (hm : sub 0x3801960060 M = true := by exact sub_le (by assumption) (by decide)) : Kept M Q s0 (State.applyHeld s e) := by
  unfold State.applyHeld
  try dsimp only
  repeat' first
    | with_reducible assumption | with_reducible refine @kept_ite _ _ _ _ _ _ _ ?_ ?_
    | with_reducible refine State.endForward_kept ?_ _ | with_reducible refine State.applyRegion_kept ?_ _ _
    | with_reducible refine State.applyAttr_kept ?_ _ _

theorem State.partWrite_kept {M : Nat} {Q : List Instr} {s0 s : State} (hQ : Kept M Q s0 s) (e : Nat × Word × Sender)
    (hm : sub 0x3801d60060 M = true := by exact sub_le (by assumption) (by decide)) : Kept M Q s0 (State.partWrite s e) := by
  unfold State.partWrite
  try dsimp only
  repeat' first
    | with_reducible assumption | with_reducible refine @kept_ite _ _ _ _ _ _ _ ?_ ?_
    | with_reducible refine State.applyHeld_kept ?_ _ | simp only [kept_mk] | with_reducible refine Kept.parts ?_

end Sys2Proof.Machine
end

