-- ==== Sys2Proof/Laws/KeptLedgerOps.lean ====
section
/-! SUPPORT. What the definitions of Machine/LedgerOps.lean keep: one lemma `<name>_kept` for each (Laws/Kept.lean). -/

-- Proof bodies are elaborated in order: elaborated in parallel they wait on one another, each in a thread of its own.
set_option Elab.async false

namespace Sys2Proof.Machine
open Sys2Proof

theorem State.setRecord_kept {M : Nat} {Q : List Instr} {s0 s : State} (hQ : Kept M Q s0 s) (i : Nat) (r : Rec)
    (hm : sub 0x800020040 M = true := by exact sub_le (by assumption) (by decide)) : Kept M Q s0 (State.setRecord s i r) := by
  unfold State.setRecord
  try dsimp only
  repeat' first
    | with_reducible assumption | with_reducible refine @kept_ite _ _ _ _ _ _ _ ?_ ?_
    | with_reducible refine State.setW18s_kept ?_ _ _

theorem State.meetRec_kept {M : Nat} {Q : List Instr} {s0 s : State} (hQ : Kept M Q s0 s) (i : Nat)
    (hm : sub 0x3801120060 M = true := by exact sub_le (by assumption) (by decide)) : Kept M Q s0 (State.meetRec s i) :=
    by
  unfold State.meetRec
  try dsimp only
  repeat' first
    | with_reducible assumption | with_reducible refine @kept_ite _ _ _ _ _ _ _ ?_ ?_
    | with_reducible refine State.meetCws_kept ?_ _ _

theorem State.setCounter_kept {M : Nat} {Q : List Instr} {s0 s : State} (hQ : Kept M Q s0 s) (i : Nat) (v : Nat)
    (hm : sub 0x100000 M = true := by exact sub_le (by assumption) (by decide)) : Kept M Q s0 (State.setCounter s i v) := by
  refine kept_mk.mpr (hQ.partsDev ?_)
  have hd := (Dev.wf_iff _).mp hQ.good.dev
  exact (Dev.wf_iff _).mpr ⟨hd.1, hd.2.1, Map.wf_set hd.2.2.1 _ _, hd.2.2.2.1, hd.2.2.2.2⟩

theorem strayField_ok {b M : Nat} (p : Nat) (hb : sub b M = true) (h : okFrom b Reg.LED_STRAY_TRANSFER.addr = true) :
    okAddr M (strayField p).addr = true := by
  unfold strayField
  split
  · exact ok_from hb h (by decide)
  · exact ok_from hb h (by decide)
  · exact ok_from hb h (by decide)

theorem State.setCredit_kept {M : Nat} {Q : List Instr} {s0 s : State} (hQ : Kept M Q s0 s) (i : Nat) (v : Nat)
    (hm : sub 0x40000000 M = true := by exact sub_le (by assumption) (by decide)) : Kept M Q s0 (State.setCredit s i v) := by
  unfold State.setCredit
  try dsimp only
  repeat' first
    | with_reducible assumption | with_reducible refine @kept_ite _ _ _ _ _ _ _ ?_ ?_ | simp only [kept_mk]
    | with_reducible refine Kept.parts ?_

theorem State.countOne_kept {M : Nat} {Q : List Instr} {s0 s : State} (hQ : Kept M Q s0 s) (i : Nat) (cut : Bool)
    (hm : sub 0x2041100040 M = true := by exact sub_le (by assumption) (by decide)) : Kept M Q s0 (State.countOne s i cut) := by
  unfold State.countOne
  try dsimp only
  repeat' first
    | with_reducible assumption | with_reducible refine @kept_ite _ _ _ _ _ _ _ ?_ ?_
    | with_reducible refine State.setCounter_kept ?_ _ _ | with_reducible refine State.ledEvent_kept ?_ _ ?_
    | with_reducible refine State.setCredit_kept ?_ _ _ | with_reducible refine Kept.put ?_ _ _ ?_ | exact all_nil_ok
    | refine all_cons_ok ?_ ?_ | exact ok_le hm (by decide) | exact ok_add hm (by decide) | exact ok_add2 hm (by decide)
    | exact ok_at hm (by decide) | simp only [kept_mk] | with_reducible refine Kept.parts ?_

theorem State.count_kept {M : Nat} {Q : List Instr} {s0 s : State} (hQ : Kept M Q s0 s) (srcs : List Nat) (cut : Bool)
    (hm : sub 0x2041100040 M = true := by exact sub_le (by assumption) (by decide)) : Kept M Q s0 (State.count s srcs cut) := by
  unfold State.count
  try dsimp only
  repeat' first
    | with_reducible assumption | with_reducible refine @kept_ite _ _ _ _ _ _ _ ?_ ?_
    | with_reducible refine State.countOne_kept ?_ _ _ | with_reducible refine kept_foldl (fun t x ht => ?_) _ _ ?_

theorem State.setCopies_kept {M : Nat} {Q : List Instr} {s0 s : State} (hQ : Kept M Q s0 s) (v : Nat)
    (hm : sub 0x40 M = true := by exact sub_le (by assumption) (by decide)) : Kept M Q s0 (State.setCopies s v) := by
  unfold State.setCopies
  try dsimp only
  repeat' first
    | with_reducible assumption | with_reducible refine @kept_ite _ _ _ _ _ _ _ ?_ ?_
    | with_reducible refine Kept.put ?_ _ _ ?_ | exact all_nil_ok | refine all_cons_ok ?_ ?_ | exact ok_le hm (by decide)

theorem State.copyStart_kept {M : Nat} {Q : List Instr} {s0 s : State} (hQ : Kept M Q s0 s)
    (hm : sub 0x70000040 M = true := by exact sub_le (by assumption) (by decide)) : Kept M Q s0 (State.copyStart s) := by
  unfold State.copyStart
  try dsimp only
  repeat' first
    | with_reducible assumption | with_reducible refine @kept_ite _ _ _ _ _ _ _ ?_ ?_
    | with_reducible refine State.pageStart_kept ?_ _ _ _ | with_reducible refine State.setCopies_kept ?_ _
    | with_reducible refine Kept.put ?_ _ _ ?_ | exact all_nil_ok | refine all_cons_ok ?_ ?_ | exact ok_le hm (by decide)
    | exact ok_add hm (by decide) | exact ok_add2 hm (by decide) | exact ok_at hm (by decide) | simp only [kept_mk]
    | with_reducible refine Kept.parts ?_

theorem State.setQueue_kept {M : Nat} {Q : List Instr} {s0 s : State} (hQ : Kept M Q s0 s) (q : Nat) (xs : List Nat)
    (hm : sub 0x40000000 M = true := by exact sub_le (by assumption) (by decide)) : Kept M Q s0 (State.setQueue s q xs) := by
  unfold State.setQueue
  try dsimp only
  repeat' first
    | with_reducible assumption | with_reducible refine @kept_ite _ _ _ _ _ _ _ ?_ ?_ | simp only [kept_mk]
    | with_reducible refine Kept.parts ?_

theorem State.unqueue_kept {M : Nat} {Q : List Instr} {s0 s : State} (hQ : Kept M Q s0 s) (i : Nat)
    (hm : sub 0x40000000 M = true := by exact sub_le (by assumption) (by decide)) : Kept M Q s0 (State.unqueue s i) := by
  unfold State.unqueue
  try dsimp only
  repeat' first
    | with_reducible assumption | with_reducible refine @kept_ite _ _ _ _ _ _ _ ?_ ?_
    | with_reducible refine State.setQueue_kept ?_ _ _ | with_reducible refine kept_foldl (fun t x ht => ?_) _ _ ?_

theorem State.requeue_kept {M : Nat} {Q : List Instr} {s0 s : State} (hQ : Kept M Q s0 s) (i : Nat) (progress : Nat)
    (hm : sub 0x40000000 M = true := by exact sub_le (by assumption) (by decide)) : Kept M Q s0 (State.requeue s i
    progress) := by
  unfold State.requeue
  try dsimp only
  repeat' first
    | with_reducible assumption | with_reducible refine @kept_ite _ _ _ _ _ _ _ ?_ ?_
    | with_reducible refine State.setQueue_kept ?_ _ _ | with_reducible refine kept_foldl (fun t x ht => ?_) _ _ ?_
    | with_reducible refine kept_foldl_fst (fun t x ht => ?_) _ _ ?_ | simp only [kept_mk]
    | with_reducible refine Kept.parts ?_
    | with_reducible refine Kept.partsDev ?_ (Kept.devWf (m := M) (q := Q) (s0 := s0) ?_ rfl rfl rfl rfl) | dsimp only
    | split

theorem State.rasterStamp_kept {M : Nat} {Q : List Instr} {s0 s : State} (hQ : Kept M Q s0 s) (i : Nat) (t : Nat)
    (hm : sub 0x800020040 M = true := by exact sub_le (by assumption) (by decide)) : Kept M Q s0 (State.rasterStamp s i t)
    := by
  unfold State.rasterStamp
  try dsimp only
  repeat' first
    | with_reducible assumption | with_reducible refine @kept_ite _ _ _ _ _ _ _ ?_ ?_
    | with_reducible refine State.setRecord_kept ?_ _ _ | simp only [kept_mk] | with_reducible refine Kept.parts ?_
    | with_reducible refine Kept.partsDev ?_ (Kept.devWf (m := M) (q := Q) (s0 := s0) ?_ rfl rfl rfl rfl) | dsimp only
    | split

theorem State.rasterComplete_kept {M : Nat} {Q : List Instr} {s0 s : State} (hQ : Kept M Q s0 s) (i : Nat) (t : Nat)
    (hm : sub 0x800020040 M = true := by exact sub_le (by assumption) (by decide)) : Kept M Q s0 (State.rasterComplete s i t) := by
  unfold State.rasterComplete
  try dsimp only
  repeat' first
    | with_reducible assumption | with_reducible refine @kept_ite _ _ _ _ _ _ _ ?_ ?_
    | with_reducible refine State.setRecord_kept ?_ _ _

theorem State.stampProgress_kept {M : Nat} {Q : List Instr} {s0 s : State} (hQ : Kept M Q s0 s) (i : Nat) (p : Nat) (t :
    Nat) (hm : sub 0x2841120040 M = true := by exact sub_le (by assumption) (by decide)) : Kept M Q s0
    (State.stampProgress s i p t) := by
  unfold State.stampProgress
  try dsimp only
  repeat' first
    | with_reducible assumption | with_reducible refine @kept_ite _ _ _ _ _ _ _ ?_ ?_
    | with_reducible refine State.requeue_kept ?_ _ _ | with_reducible refine State.count_kept ?_ _ _
    | with_reducible refine State.setRecord_kept ?_ _ _ | simp only [kept_mk] | with_reducible refine Kept.parts ?_
    | with_reducible refine Kept.partsDev ?_ (Kept.devWf (m := M) (q := Q) (s0 := s0) ?_ rfl rfl rfl rfl) | dsimp only
    | split

theorem State.stampImaged_kept {M : Nat} {Q : List Instr} {s0 s : State} (hQ : Kept M Q s0 s) (i : Nat) (mask : Nat) (t :
    Nat) (hm : sub 0x840020040 M = true := by exact sub_le (by assumption) (by decide)) : Kept M Q s0 (State.stampImaged s
    i mask t) := by
  unfold State.stampImaged
  try dsimp only
  repeat' first
    | with_reducible assumption | with_reducible refine @kept_ite _ _ _ _ _ _ _ ?_ ?_
    | with_reducible refine State.rasterComplete_kept ?_ _ _ | with_reducible refine State.requeue_kept ?_ _ _
    | with_reducible refine State.setRecord_kept ?_ _ _ | simp only [kept_mk] | with_reducible refine Kept.parts ?_
    | with_reducible refine Kept.partsDev ?_ (Kept.devWf (m := M) (q := Q) (s0 := s0) ?_ rfl rfl rfl rfl) | dsimp only
    | split

theorem State.stampSpoil_kept {M : Nat} {Q : List Instr} {s0 s : State} (hQ : Kept M Q s0 s) (i : Nat) (cause : Nat) (t : Nat)
    (hm : sub 0x2841120040 M = true := by exact sub_le (by assumption) (by decide)) : Kept M Q s0 (State.stampSpoil s i cause
    t) := by
  unfold State.stampSpoil
  try dsimp only
  repeat' first
    | with_reducible assumption | with_reducible refine @kept_ite _ _ _ _ _ _ _ ?_ ?_
    | with_reducible refine State.setRecord_kept ?_ _ _ | with_reducible refine State.count_kept ?_ _ _

theorem State.stampVoid_kept {M : Nat} {Q : List Instr} {s0 s : State} (hQ : Kept M Q s0 s) (i : Nat) (t : Nat)
    (hm : sub 0x2841120040 M = true := by exact sub_le (by assumption) (by decide)) : Kept M Q s0 (State.stampVoid s i t) := by
  unfold State.stampVoid
  try dsimp only
  repeat' first
    | with_reducible assumption | with_reducible refine @kept_ite _ _ _ _ _ _ _ ?_ ?_
    | with_reducible refine State.setRecord_kept ?_ _ _ | with_reducible refine State.unqueue_kept ?_ _
    | with_reducible refine State.count_kept ?_ _ _

theorem State.markCut_kept {M : Nat} {Q : List Instr} {s0 s : State} (hQ : Kept M Q s0 s) (i : Nat)
    (hm : sub 0x2841120040 M = true := by exact sub_le (by assumption) (by decide)) : Kept M Q s0 (State.markCut s i) :=
    by
  unfold State.markCut
  try dsimp only
  repeat' first
    | with_reducible assumption | with_reducible refine @kept_ite _ _ _ _ _ _ _ ?_ ?_
    | with_reducible refine State.stampSpoil_kept ?_ _ _ _ | with_reducible refine State.setRecord_kept ?_ _ _
    | simp only [kept_mk] | with_reducible refine Kept.parts ?_
    | with_reducible refine Kept.partsDev ?_ (Kept.devWf (m := M) (q := Q) (s0 := s0) ?_ rfl rfl rfl rfl) | dsimp only
    | split

theorem State.ledApply_kept {M : Nat} {Q : List Instr} {s0 s : State} (hQ : Kept M Q s0 s) (e : LedEvent)
    (hm : sub 0x3841120060 M = true := by exact sub_le (by assumption) (by decide)) : Kept M Q s0 (State.ledApply s e) :=
    by
  unfold State.ledApply
  try dsimp only
  repeat' first
    | with_reducible assumption | with_reducible refine @kept_ite _ _ _ _ _ _ _ ?_ ?_
    | with_reducible refine State.stampSpoil_kept ?_ _ _ _ | with_reducible refine State.stampImaged_kept ?_ _ _ _
    | with_reducible refine State.stampProgress_kept ?_ _ _ _ | with_reducible refine State.unqueue_kept ?_ _
    | with_reducible refine State.setQueue_kept ?_ _ _ | with_reducible refine State.count_kept ?_ _ _
    | with_reducible refine State.meetRec_kept ?_ _ | with_reducible refine State.ledEvent_kept ?_ _ ?_
    | with_reducible refine State.bump_kept ?_ _ ?_ | with_reducible refine kept_foldl (fun t x ht => ?_) _ _ ?_
    | with_reducible refine kept_foldl_fst (fun t x ht => ?_) _ _ ?_ | exact all_nil_ok | refine all_cons_ok ?_ ?_
    | exact ok_le hm (by decide) | exact ok_add hm (by decide) | exact ok_add2 hm (by decide) | exact ok_at hm (by decide)
    | simp only [kept_mk] | with_reducible refine Kept.parts ?_
    | with_reducible refine Kept.partsDev ?_ (Kept.devWf (m := M) (q := Q) (s0 := s0) ?_ rfl rfl rfl rfl) | dsimp only
    | split | with_reducible exact strayField_ok _ hm (by decide)

theorem State.ledEventNow_kept {M : Nat} {Q : List Instr} {s0 s : State} (hQ : Kept M Q s0 s) (e : LedEvent)
    (hm : sub 0x3841120060 M = true := by exact sub_le (by assumption) (by decide)) : Kept M Q s0 (State.ledEventNow s e) := by
  unfold State.ledEventNow
  try dsimp only
  repeat' first
    | with_reducible assumption | with_reducible refine @kept_ite _ _ _ _ _ _ _ ?_ ?_
    | with_reducible refine State.ledApply_kept ?_ _ | simp only [kept_mk] | with_reducible refine Kept.parts ?_

theorem State.rasterAll_kept {M : Nat} {Q : List Instr} {s0 s : State} (hQ : Kept M Q s0 s)
    (hm : sub 0x840020040 M = true := by exact sub_le (by assumption) (by decide)) : Kept M Q s0 (State.rasterAll s) := by
  unfold State.rasterAll
  try dsimp only
  repeat' first
    | with_reducible assumption | with_reducible refine @kept_ite _ _ _ _ _ _ _ ?_ ?_
    | with_reducible refine State.rasterComplete_kept ?_ _ _ | with_reducible refine State.rasterStamp_kept ?_ _ _
    | with_reducible refine kept_foldl (fun t x ht => ?_) _ _ ?_
    | with_reducible refine kept_foldl_fst (fun t x ht => ?_) _ _ ?_ | simp only [kept_mk]
    | with_reducible refine Kept.parts ?_
    | with_reducible refine Kept.partsDev ?_ (Kept.devWf (m := M) (q := Q) (s0 := s0) ?_ rfl rfl rfl rfl) | dsimp only
    | split

theorem State.ledRelease_kept {M : Nat} {Q : List Instr} {s0 s : State} (hQ : Kept M Q s0 s)
    (hm : sub 0x3841120060 M = true := by exact sub_le (by assumption) (by decide)) : Kept M Q s0 (State.ledRelease s) := by
  unfold State.ledRelease
  try dsimp only
  repeat' first
    | with_reducible assumption | with_reducible refine @kept_ite _ _ _ _ _ _ _ ?_ ?_
    | with_reducible refine State.ledApply_kept ?_ _ | with_reducible refine State.rasterAll_kept ?_
    | with_reducible refine kept_foldl (fun t x ht => ?_) _ _ ?_
    | with_reducible refine kept_foldl_fst (fun t x ht => ?_) _ _ ?_ | simp only [kept_mk]
    | with_reducible refine Kept.parts ?_

theorem State.stnSpoil_kept {M : Nat} {Q : List Instr} {s0 s : State} (hQ : Kept M Q s0 s) (n : Nat) (recs : List Nat) (cause
    : Nat) (hm : sub 0x3841120060 M = true := by exact sub_le (by assumption) (by decide)) : Kept M Q s0 (State.stnSpoil s n
    recs cause) := by
  unfold State.stnSpoil
  try dsimp only
  repeat' first
    | with_reducible assumption | with_reducible refine @kept_ite _ _ _ _ _ _ _ ?_ ?_
    | with_reducible refine State.stnEvent_kept ?_ _ _ ?_ | with_reducible refine State.bump_kept ?_ _ ?_
    | with_reducible refine State.ledEventNow_kept ?_ _ | with_reducible refine Kept.put ?_ _ _ ?_
    | with_reducible refine kept_foldl (fun t x ht => ?_) _ _ ?_
    | with_reducible refine kept_foldl_fst (fun t x ht => ?_) _ _ ?_ | exact all_nil_ok | refine all_cons_ok ?_ ?_
    | exact ok_le hm (by decide) | exact ok_add hm (by decide) | exact ok_add2 hm (by decide) | exact ok_at hm (by decide)
    | simp only [kept_mk] | with_reducible refine Kept.parts ?_
    | with_reducible refine Kept.partsDev ?_ (Kept.devWf (m := M) (q := Q) (s0 := s0) ?_ rfl rfl rfl rfl) | dsimp only | split
    | intro _

end Sys2Proof.Machine
end

