-- ==== Sys2Proof/Laws/KeptMailboxOps.lean ====
section
/-! SUPPORT. What the definitions of Machine/MailboxOps.lean keep: one lemma `<name>_kept` for each (Laws/Kept.lean). -/

-- Proof bodies are elaborated in order: elaborated in parallel they wait on one another, each in a thread of its own.
set_option Elab.async false

namespace Sys2Proof.Machine
open Sys2Proof

theorem State.setMbox_kept {M : Nat} {Q : List Instr} {s0 s : State} (hQ : Kept M Q s0 s) (c : Nat) (m : Mailbox)
    (hm : sub 0x80000000 M = true := by exact sub_le (by assumption) (by decide)) : Kept M Q s0 (State.setMbox s c m) := by
  unfold State.setMbox
  try dsimp only
  repeat' first
    | with_reducible assumption | with_reducible refine @kept_ite _ _ _ _ _ _ _ ?_ ?_ | simp only [kept_mk]
    | with_reducible refine Kept.parts ?_

theorem State.mbEvent_kept {M : Nat} {Q : List Instr} {s0 s : State} (hQ : Kept M Q s0 s) (h : Nat) (i : Nat)
    (hm : sub 0x2001000070 M = true := by exact sub_le (by assumption) (by decide)) : Kept M Q s0 (State.mbEvent s h i) := by
  unfold State.mbEvent
  try dsimp only
  repeat' first
    | with_reducible assumption | with_reducible refine @kept_ite _ _ _ _ _ _ _ ?_ ?_
    | with_reducible refine State.event_kept ?_ _ _ _ _ ?_ | with_reducible refine Kept.put ?_ _ _ ?_ | exact all_nil_ok
    | refine all_cons_ok ?_ ?_ | exact ok_le hm (by decide) | exact ok_add hm (by decide) | exact ok_add2 hm (by decide)
    | exact ok_at hm (by decide) | simp only [kept_mk] | with_reducible refine Kept.parts ?_
    | with_reducible refine Kept.partsDev ?_ (Kept.devWf (m := M) (q := Q) (s0 := s0) ?_ rfl rfl rfl rfl) | dsimp only | split

theorem State.mbArrive_kept {M : Nat} {Q : List Instr} {s0 s : State} (hQ : Kept M Q s0 s) (c : Nat) (e : MbEnd)
    (hm : sub 0x2001000070 M = true := by exact sub_le (by assumption) (by decide)) : Kept M Q s0 (State.mbArrive s c e) := by
  unfold State.mbArrive
  try dsimp only
  repeat' first
    | with_reducible assumption | with_reducible refine @kept_ite _ _ _ _ _ _ _ ?_ ?_
    | with_reducible refine State.setHost_kept ?_ _ _ | with_reducible refine State.emit_kept ?_ _
    | with_reducible refine State.mbEvent_kept ?_ _ _ | simp only [kept_mk] | with_reducible refine Kept.parts ?_
    | with_reducible refine Kept.partsDev ?_ (Kept.devWf (m := M) (q := Q) (s0 := s0) ?_ rfl rfl rfl rfl) | dsimp only | split

theorem State.mbColl_kept {M : Nat} {Q : List Instr} {s0 s : State} (hQ : Kept M Q s0 s) (e : MbEnd) (lost : Sender) (new :
    Sender) (hm : sub 0x2001000070 M = true := by exact sub_le (by assumption) (by decide)) : Kept M Q s0 (State.mbColl s e
    lost new) := by
  unfold State.mbColl
  try dsimp only
  repeat' first
    | with_reducible assumption | with_reducible refine @kept_ite _ _ _ _ _ _ _ ?_ ?_
    | with_reducible refine State.mbEvent_kept ?_ _ _ | with_reducible refine kept_foldl (fun t x ht => ?_) _ _ ?_

theorem State.mbPut_kept {M : Nat} {Q : List Instr} {s0 s : State} (hQ : Kept M Q s0 s) (x : Sender) (c : Nat) (towardB :
    Bool) (v : Word) (hm : sub 0x2081000070 M = true := by exact sub_le (by assumption) (by decide)) : Kept M Q s0
    (State.mbPut s x c towardB v) := by
  unfold State.mbPut
  try dsimp only
  repeat' first
    | with_reducible assumption | with_reducible refine @kept_ite _ _ _ _ _ _ _ ?_ ?_
    | with_reducible refine State.mbColl_kept ?_ _ _ _ | with_reducible refine State.mbArrive_kept ?_ _ _
    | with_reducible refine State.setMbox_kept ?_ _ _ | with_reducible refine Kept.put ?_ _ _ ?_ | exact all_nil_ok
    | refine all_cons_ok ?_ ?_ | exact ok_le hm (by decide) | exact ok_add hm (by decide) | exact ok_add2 hm (by decide)
    | exact ok_at hm (by decide) | simp only [kept_mk] | with_reducible refine Kept.parts ?_
    | with_reducible refine Kept.partsDev ?_ (Kept.devWf (m := M) (q := Q) (s0 := s0) ?_ rfl rfl rfl rfl) | dsimp only
    | split

theorem State.mbWrite_kept {M : Nat} {Q : List Instr} {s0 s : State} (hQ : Kept M Q s0 s) (x : Sender) (c : Nat) (towardB
    : Bool) (v : Word) (hm : sub 0x2081000070 M = true := by exact sub_le (by assumption) (by decide)) : Kept M Q s0
    (State.mbWrite s x c towardB v) := by
  unfold State.mbWrite
  try dsimp only
  repeat' first
    | with_reducible assumption | with_reducible refine @kept_ite _ _ _ _ _ _ _ ?_ ?_
    | with_reducible refine State.mbPut_kept ?_ _ _ _ _ | with_reducible refine Kept.put ?_ _ _ ?_ | exact all_nil_ok
    | refine all_cons_ok ?_ ?_ | exact ok_le hm (by decide) | exact ok_add hm (by decide) | exact ok_add2 hm (by decide)
    | exact ok_at hm (by decide) | simp only [kept_mk] | with_reducible refine Kept.parts ?_ | dsimp only | split

theorem State.mbPutAll_kept {M : Nat} {Q : List Instr} {s0 s : State} (hQ : Kept M Q s0 s) (c : Nat) (towardB : Bool) (ws
    : List (Sender × Word)) (hm : sub 0x2081000070 M = true := by exact sub_le (by assumption) (by decide)) : Kept M Q s0
    (State.mbPutAll s c towardB ws) := by
  unfold State.mbPutAll
  try dsimp only
  repeat' first
    | with_reducible assumption | with_reducible refine @kept_ite _ _ _ _ _ _ _ ?_ ?_
    | with_reducible refine State.mbPut_kept ?_ _ _ _ _ | with_reducible refine kept_foldl (fun t x ht => ?_) _ _ ?_
    | with_reducible refine kept_foldl_fst (fun t x ht => ?_) _ _ ?_ | dsimp only | split

theorem State.mbNotice_kept {M : Nat} {Q : List Instr} {s0 s : State} (hQ : Kept M Q s0 s) (c : Nat) (x : Sender)
    (hm : sub 0x2001000070 M = true := by exact sub_le (by assumption) (by decide)) : Kept M Q s0 (State.mbNotice s c x)
    := by
  unfold State.mbNotice
  try dsimp only
  repeat' first
    | with_reducible assumption | with_reducible refine @kept_ite _ _ _ _ _ _ _ ?_ ?_
    | with_reducible refine State.mbEvent_kept ?_ _ _ | with_reducible refine State.emit_kept ?_ _ | simp only [kept_mk]
    | with_reducible refine Kept.parts ?_
    | with_reducible refine Kept.partsDev ?_ (Kept.devWf (m := M) (q := Q) (s0 := s0) ?_ rfl rfl rfl rfl) | dsimp only
    | split

theorem State.mbTake_kept {M : Nat} {Q : List Instr} {s0 s : State} (hQ : Kept M Q s0 s) (x : Sender) (c : Nat) (towardB :
    Bool) (follows : Bool) (hm : sub 0x2081000070 M = true := by exact sub_le (by assumption) (by decide)) : Kept M Q s0
    (State.mbTake s x c towardB follows).1 := by
  unfold State.mbTake
  try dsimp only
  repeat' first
    | with_reducible assumption | with_reducible refine @kept_ite _ _ _ _ _ _ _ ?_ ?_
    | with_reducible refine @kept_ite_fst _ _ _ _ _ _ _ _ ?_ ?_ | with_reducible refine State.mbNotice_kept ?_ _ _
    | with_reducible refine State.setMbox_kept ?_ _ _ | with_reducible refine State.putAll_kept ?_ _ ?_
    | with_reducible refine Kept.setReg ?_ _ _ ?_ | with_reducible refine kept_foldl (fun t x ht => ?_) _ _ ?_
    | with_reducible refine kept_foldl_fst (fun t x ht => ?_) _ _ ?_ | exact all_nil_ok | refine all_cons_ok ?_ ?_
    | exact ok_le hm (by decide) | exact ok_add hm (by decide) | exact ok_add2 hm (by decide) | exact ok_at hm (by decide)
    | simp only [kept_mk] | with_reducible refine Kept.parts ?_
    | with_reducible refine Kept.partsDev ?_ (Kept.devWf (m := M) (q := Q) (s0 := s0) ?_ rfl rfl rfl rfl) | dsimp only
    | split

theorem State.mbPop_kept {M : Nat} {Q : List Instr} {s0 s : State} (hQ : Kept M Q s0 s) (x : Sender) (c : Nat) (towardB :
    Bool) (hm : sub 0x2081000070 M = true := by exact sub_le (by assumption) (by decide)) : Kept M Q s0 (State.mbPop s x c
    towardB).1 := by
  unfold State.mbPop
  try dsimp only
  repeat' first
    | with_reducible assumption | with_reducible refine @kept_ite _ _ _ _ _ _ _ ?_ ?_
    | with_reducible refine @kept_ite_fst _ _ _ _ _ _ _ _ ?_ ?_ | with_reducible refine State.mbTake_kept ?_ _ _ _ _
    | with_reducible refine Kept.setReg ?_ _ _ ?_ | with_reducible refine kept_foldl (fun t x ht => ?_) _ _ ?_
    | with_reducible refine kept_foldl_fst (fun t x ht => ?_) _ _ ?_ | exact all_nil_ok | refine all_cons_ok ?_ ?_
    | exact ok_le hm (by decide) | exact ok_add hm (by decide) | exact ok_add2 hm (by decide) | exact ok_at hm (by decide)
    | simp only [kept_mk] | with_reducible refine Kept.parts ?_ | dsimp only | split

theorem State.mbReset_kept {M : Nat} {Q : List Instr} {s0 s : State} (hQ : Kept M Q s0 s) (h : Nat)
    (hm : sub 0x80000070 M = true := by exact sub_le (by assumption) (by decide)) : Kept M Q s0 (State.mbReset s h) := by
  unfold State.mbReset
  try dsimp only
  repeat' first
    | with_reducible assumption | with_reducible refine @kept_ite _ _ _ _ _ _ _ ?_ ?_
    | with_reducible refine State.setMbox_kept ?_ _ _ | with_reducible refine Kept.setReg ?_ _ _ ?_
    | with_reducible refine kept_foldl (fun t x ht => ?_) _ _ ?_
    | with_reducible refine kept_foldl_fst (fun t x ht => ?_) _ _ ?_ | exact all_nil_ok | refine all_cons_ok ?_ ?_
    | exact ok_le hm (by decide) | exact ok_add hm (by decide)

theorem State.mbBind_kept {M : Nat} {Q : List Instr} {s0 s : State} (hQ : Kept M Q s0 s) (c : Nat) (v : Word)
    (hm : sub 0x70 M = true := by exact sub_le (by assumption) (by decide)) : Kept M Q s0 (State.mbBind s c v) := by
  unfold State.mbBind
  try dsimp only
  repeat' first
    | with_reducible assumption | with_reducible refine @kept_ite _ _ _ _ _ _ _ ?_ ?_
    | with_reducible refine Kept.put ?_ _ _ ?_ | exact all_nil_ok | refine all_cons_ok ?_ ?_ | exact ok_le hm (by decide)
    | exact ok_add hm (by decide)

theorem State.setPoss_kept {M : Nat} {Q : List Instr} {s0 s : State} (hQ : Kept M Q s0 s) (k : Nat) (o : Option Sender)
    (hm : sub 0x100000000 M = true := by exact sub_le (by assumption) (by decide)) : Kept M Q s0 (State.setPoss s k o) := by
  unfold State.setPoss
  try dsimp only
  repeat' first
    | with_reducible assumption | with_reducible refine @kept_ite _ _ _ _ _ _ _ ?_ ?_ | simp only [kept_mk]
    | with_reducible refine Kept.parts ?_

theorem State.possRead_kept {M : Nat} {Q : List Instr} {s0 s : State} (hQ : Kept M Q s0 s) (x : Sender) (k : Nat)
    (hm : sub 0x100000000 M = true := by exact sub_le (by assumption) (by decide)) : Kept M Q s0 (State.possRead s x k).1 := by
  unfold State.possRead
  try dsimp only
  repeat' first
    | with_reducible assumption | with_reducible refine @kept_ite _ _ _ _ _ _ _ ?_ ?_
    | with_reducible refine @kept_ite_fst _ _ _ _ _ _ _ _ ?_ ?_ | with_reducible refine State.setPoss_kept ?_ _ _
    | simp only [kept_mk] | with_reducible refine Kept.parts ?_
    | with_reducible refine Kept.partsDev ?_ (Kept.devWf (m := M) (q := Q) (s0 := s0) ?_ rfl rfl rfl rfl) | dsimp only | split

theorem State.possWrite_kept {M : Nat} {Q : List Instr} {s0 s : State} (hQ : Kept M Q s0 s) (x : Sender) (k : Nat) (v : Word)
    (hm : sub 0x100000000 M = true := by exact sub_le (by assumption) (by decide)) : Kept M Q s0 (State.possWrite s x k v) := by
  unfold State.possWrite
  try dsimp only
  repeat' first
    | with_reducible assumption | with_reducible refine @kept_ite _ _ _ _ _ _ _ ?_ ?_
    | with_reducible refine State.setPoss_kept ?_ _ _

theorem State.possForce_kept {M : Nat} {Q : List Instr} {s0 s : State} (hQ : Kept M Q s0 s) (x : Sender) (high : Bool) (v :
    Word) (hm : sub 0x100000000 M = true := by exact sub_le (by assumption) (by decide)) : Kept M Q s0 (State.possForce s x
    high v) := by
  unfold State.possForce
  try dsimp only
  repeat' first
    | with_reducible assumption | with_reducible refine @kept_ite _ _ _ _ _ _ _ ?_ ?_
    | with_reducible refine State.setPoss_kept ?_ _ _ | with_reducible refine kept_foldl (fun t x ht => ?_) _ _ ?_

end Sys2Proof.Machine
end

