-- ==== Sys2Proof/Laws/KeptHostOps.lean ====
section
/-! SUPPORT. What the definitions of Machine/HostOps.lean keep: one lemma `<name>_kept` for each (Laws/Kept.lean). -/

-- Proof bodies are elaborated in order: elaborated in parallel they wait on one another, each in a thread of its own.
set_option Elab.async false

namespace Sys2Proof.Machine
open Sys2Proof

theorem State.ringErr_kept {M : Nat} {Q : List Instr} {s0 s : State} (hQ : Kept M Q s0 s) (h : PHost) (code : Nat) (cq : Bool)
    (j : Nat) (ev : Nat → Fld) (hf0 : ∀ n, okAddr M (ev n).addr = true)
    (hm : sub 0x2001000060 M = true := by exact sub_le (by assumption) (by decide)) : Kept M Q s0 (State.ringErr s h code cq j
    ev) := by
  unfold State.ringErr
  try dsimp only
  repeat' first
    | with_reducible assumption | with_reducible refine @kept_ite _ _ _ _ _ _ _ ?_ ?_
    | with_reducible refine State.hostEvent_kept ?_ _ _ ?_ | with_reducible refine Kept.put ?_ _ _ ?_
    | with_reducible exact hf0 _ | exact all_nil_ok | refine all_cons_ok ?_ ?_ | exact ok_le hm (by decide)
    | exact ok_add hm (by decide)

theorem State.ringRefuse_kept {M : Nat} {Q : List Instr} {s0 s : State} (hQ : Kept M Q s0 s) (h : PHost) (code : Nat) (cq :
    Bool) (j : Nat) (hm : sub 0x2001000060 M = true := by exact sub_le (by assumption) (by decide)) : Kept M Q s0
    (State.ringRefuse s h code cq j) := by
  unfold State.ringRefuse
  try dsimp only
  repeat' first
    | with_reducible assumption | with_reducible refine @kept_ite _ _ _ _ _ _ _ ?_ ?_
    | with_reducible refine State.ringErr_kept ?_ _ _ _ _ _ ?_ | exact all_nil_ok | refine all_cons_ok ?_ ?_
    | exact ok_le hm (by decide) | exact ok_add hm (by decide) | exact ok_add2 hm (by decide) | exact ok_at hm (by decide)
    | simp only [kept_mk] | with_reducible refine Kept.parts ?_
    | with_reducible refine Kept.partsDev ?_ (Kept.devWf (m := M) (q := Q) (s0 := s0) ?_ rfl rfl rfl rfl) | dsimp only | split
    | intro _

theorem State.stopSq_kept {M : Nat} {Q : List Instr} {s0 s : State} (hQ : Kept M Q s0 s) (h : PHost) (j : Nat) (code : Nat)
    (hm : sub 0x2001000060 M = true := by exact sub_le (by assumption) (by decide)) : Kept M Q s0 (State.stopSq s h j code) := by
  unfold State.stopSq
  try dsimp only
  repeat' first
    | with_reducible assumption | with_reducible refine @kept_ite _ _ _ _ _ _ _ ?_ ?_
    | with_reducible refine State.ringErr_kept ?_ _ _ _ _ _ ?_ | with_reducible refine Kept.put ?_ _ _ ?_ | exact all_nil_ok
    | refine all_cons_ok ?_ ?_ | exact ok_le hm (by decide) | exact ok_add hm (by decide) | exact ok_add2 hm (by decide)
    | exact ok_at hm (by decide) | simp only [kept_mk] | with_reducible refine Kept.parts ?_
    | with_reducible refine Kept.partsDev ?_ (Kept.devWf (m := M) (q := Q) (s0 := s0) ?_ rfl rfl rfl rfl) | dsimp only | split
    | intro _

theorem State.stopCq_kept {M : Nat} {Q : List Instr} {s0 s : State} (hQ : Kept M Q s0 s) (h : PHost) (q : Nat)
    (hm : sub 0x2001000060 M = true := by exact sub_le (by assumption) (by decide)) : Kept M Q s0 (State.stopCq s h q) := by
  unfold State.stopCq
  try dsimp only
  repeat' first
    | with_reducible assumption | with_reducible refine @kept_ite _ _ _ _ _ _ _ ?_ ?_
    | with_reducible refine State.ringErr_kept ?_ _ _ _ _ _ ?_ | with_reducible refine Kept.put ?_ _ _ ?_ | exact all_nil_ok
    | refine all_cons_ok ?_ ?_ | exact ok_le hm (by decide) | exact ok_add hm (by decide) | exact ok_add2 hm (by decide)
    | exact ok_at hm (by decide) | simp only [kept_mk] | with_reducible refine Kept.parts ?_
    | with_reducible refine Kept.partsDev ?_ (Kept.devWf (m := M) (q := Q) (s0 := s0) ?_ rfl rfl rfl rfl) | dsimp only | split
    | intro _

theorem State.setFetching_kept {M : Nat} {Q : List Instr} {s0 s : State} (hQ : Kept M Q s0 s) (h : PHost) (j : Nat) (n : Nat)
    (hm : sub 0x1000000 M = true := by exact sub_le (by assumption) (by decide)) : Kept M Q s0 (State.setFetching s h j n) := by
  unfold State.setFetching
  try dsimp only
  repeat' first
    | with_reducible assumption | with_reducible refine @kept_ite _ _ _ _ _ _ _ ?_ ?_
    | with_reducible refine State.setHost_kept ?_ _ _

theorem State.setFlight_kept {M : Nat} {Q : List Instr} {s0 s : State} (hQ : Kept M Q s0 s) (i : Nat) (f : Flight)
    (hm : sub 0x2000000 M = true := by exact sub_le (by assumption) (by decide)) : Kept M Q s0 (State.setFlight s i f) := by
  unfold State.setFlight
  try dsimp only
  repeat' first
    | with_reducible assumption | with_reducible refine @kept_ite _ _ _ _ _ _ _ ?_ ?_ | simp only [kept_mk]
    | with_reducible refine Kept.parts ?_

theorem State.dropFlight_kept {M : Nat} {Q : List Instr} {s0 s : State} (hQ : Kept M Q s0 s) (i : Nat)
    (hm : sub 0x2000000 M = true := by exact sub_le (by assumption) (by decide)) : Kept M Q s0 (State.dropFlight s i) := by
  unfold State.dropFlight
  try dsimp only
  repeat' first
    | with_reducible assumption | with_reducible refine @kept_ite _ _ _ _ _ _ _ ?_ ?_ | simp only [kept_mk]
    | with_reducible refine Kept.parts ?_

theorem State.leaveL1_kept {M : Nat} {Q : List Instr} {s0 s : State} (hQ : Kept M Q s0 s) (h : PHost)
    (hm : sub 0x1000000 M = true := by exact sub_le (by assumption) (by decide)) : Kept M Q s0 (State.leaveL1 s h) := by
  unfold State.leaveL1
  try dsimp only
  repeat' first
    | with_reducible assumption | with_reducible refine @kept_ite _ _ _ _ _ _ _ ?_ ?_
    | with_reducible refine State.setHost_kept ?_ _ _

theorem State.cqSend_kept {M : Nat} {Q : List Instr} {s0 s : State} (hQ : Kept M Q s0 s) (h : PHost) (q : Nat)
    (hm : sub 0x2001000000 M = true := by exact sub_le (by assumption) (by decide)) : Kept M Q s0 (State.cqSend s h q) := by
  unfold State.cqSend
  try dsimp only
  repeat' first
    | with_reducible assumption | with_reducible refine @kept_ite _ _ _ _ _ _ _ ?_ ?_
    | with_reducible refine State.setHost_kept ?_ _ _ | with_reducible refine State.msix_kept ?_ _ _

theorem State.cqCount_kept {M : Nat} {Q : List Instr} {s0 s : State} (hQ : Kept M Q s0 s) (h : PHost) (q : Nat)
    (hm : sub 0x2001000000 M = true := by exact sub_le (by assumption) (by decide)) : Kept M Q s0 (State.cqCount s h q) := by
  unfold State.cqCount
  try dsimp only
  repeat' first
    | with_reducible assumption | with_reducible refine @kept_ite _ _ _ _ _ _ _ ?_ ?_
    | with_reducible refine State.cqSend_kept ?_ _ _ | with_reducible refine State.setHost_kept ?_ _ _

theorem State.writeCompl_kept {M : Nat} {Q : List Instr} {s0 s : State} (hQ : Kept M Q s0 s) (h : PHost) (q : Ring) (j :
    Ring) (tag : BitVec 16) (c : Compl) (replay : Bool) (endRec : Bool)
    (hm : sub 0x2001000060 M = true := by exact sub_le (by assumption) (by decide)) : Kept M Q s0 (State.writeCompl s h q
    j tag c replay endRec) := by
  unfold State.writeCompl
  try dsimp only
  repeat' first
    | with_reducible assumption | with_reducible refine @kept_ite _ _ _ _ _ _ _ ?_ ?_
    | with_reducible refine State.cqCount_kept ?_ _ _ | with_reducible refine State.leaveL1_kept ?_ _
    | with_reducible refine State.emit_kept ?_ _ | with_reducible refine Kept.put ?_ _ _ ?_ | exact all_nil_ok
    | refine all_cons_ok ?_ ?_ | exact ok_le hm (by decide) | exact ok_add hm (by decide) | exact ok_add2 hm (by decide)
    | exact ok_at hm (by decide) | dsimp only | split

theorem State.settleSq_kept {M : Nat} {Q : List Instr} {s0 s : State} (hQ : Kept M Q s0 s) (h : PHost) (j : Nat)
    (hm : sub 0x60 M = true := by exact sub_le (by assumption) (by decide)) : Kept M Q s0 (State.settleSq s h j) := by
  unfold State.settleSq
  try dsimp only
  repeat' first
    | with_reducible assumption | with_reducible refine @kept_ite _ _ _ _ _ _ _ ?_ ?_
    | with_reducible refine Kept.put ?_ _ _ ?_ | exact all_nil_ok | refine all_cons_ok ?_ ?_ | exact ok_le hm (by decide)
    | exact ok_add hm (by decide) | exact ok_add2 hm (by decide)

theorem State.retireSq_kept {M : Nat} {Q : List Instr} {s0 s : State} (hQ : Kept M Q s0 s) (h : PHost) (j : Ring) (n : Nat)
    (hm : sub 0x2003000060 M = true := by exact sub_le (by assumption) (by decide)) : Kept M Q s0 (State.retireSq s h j n) := by
  induction n generalizing s with
  | zero => exact hQ
  | succ n ih =>
    unfold State.retireSq
    split
    · split
      · refine ih (kept_ite (State.writeCompl_kept (State.dropFlight_kept hQ _) _ _ _ _ _ _ _) (State.dropFlight_kept hQ _))
      · exact hQ
    · exact hQ

theorem State.retireHost_kept {M : Nat} {Q : List Instr} {s0 s : State} (hQ : Kept M Q s0 s) (h : PHost)
    (hm : sub 0x2003000060 M = true := by exact sub_le (by assumption) (by decide)) : Kept M Q s0 (State.retireHost s h) := by
  unfold State.retireHost
  try dsimp only
  repeat' first
    | with_reducible assumption | with_reducible refine @kept_ite _ _ _ _ _ _ _ ?_ ?_
    | with_reducible refine State.retireSq_kept ?_ _ _ _ | with_reducible refine State.settleSq_kept ?_ _ _
    | with_reducible refine kept_foldl (fun t x ht => ?_) _ _ ?_

theorem State.retireAll_kept {M : Nat} {Q : List Instr} {s0 s : State} (hQ : Kept M Q s0 s)
    (hm : sub 0x2003000060 M = true := by exact sub_le (by assumption) (by decide)) : Kept M Q s0 (State.retireAll s) := by
  unfold State.retireAll
  try dsimp only
  repeat' first
    | with_reducible assumption | with_reducible refine @kept_ite _ _ _ _ _ _ _ ?_ ?_
    | with_reducible refine State.retireHost_kept ?_ _ | with_reducible refine kept_foldl (fun t x ht => ?_) _ _ ?_

theorem State.fixFlight_kept {M : Nat} {Q : List Instr} {s0 s : State} (hQ : Kept M Q s0 s) (i : Nat) (c : Compl)
    (hm : sub 0x2000000 M = true := by exact sub_le (by assumption) (by decide)) : Kept M Q s0 (State.fixFlight s i c) := by
  unfold State.fixFlight
  try dsimp only
  repeat' first
    | with_reducible assumption | with_reducible refine @kept_ite _ _ _ _ _ _ _ ?_ ?_
    | with_reducible refine State.setFlight_kept ?_ _ _ | simp only [kept_mk] | with_reducible refine Kept.parts ?_
    | with_reducible refine Kept.partsDev ?_ (Kept.devWf (m := M) (q := Q) (s0 := s0) ?_ rfl rfl rfl rfl) | dsimp only | split

theorem State.finish_kept {M : Nat} {Q : List Instr} {s0 s : State} (hQ : Kept M Q s0 s) (i : Nat) (c : Compl)
    (hm : sub 0x2003000060 M = true := by exact sub_le (by assumption) (by decide)) : Kept M Q s0 (State.finish s i c) := by
  unfold State.finish
  try dsimp only
  repeat' first
    | with_reducible assumption | with_reducible refine @kept_ite _ _ _ _ _ _ _ ?_ ?_
    | with_reducible refine State.fixFlight_kept ?_ _ _ | with_reducible refine State.retireAll_kept ?_

theorem State.replayOne_kept {M : Nat} {Q : List Instr} {s0 s t : State} (hQ : Kept M Q s0 s) (h : PHost) (q : Ring) (ht :
    State.replayOne s h q = some t) (hm : sub 0x2001100060 M = true := by exact sub_le (by assumption) (by decide)) : Kept M Q
    s0 t := by
  unfold State.replayOne at ht
  dsimp only at ht
  split at ht
  · exact nomatch ht
  · split at ht
    · exact nomatch ht
    · split at ht
      · rw [← Option.some.inj ht]
        refine State.writeCompl_kept ?_ _ _ _ _ _ _ _
        simp only [kept_mk]
        exact hQ.partsDev (hQ.devWf rfl rfl rfl rfl)
      · exact nomatch ht

theorem State.replayGo_kept {M : Nat} {Q : List Instr} {s0 s : State} (hQ : Kept M Q s0 s) (h : PHost) (q : Ring) (n : Nat)
    (hm : sub 0x2001100060 M = true := by exact sub_le (by assumption) (by decide)) : Kept M Q s0 (State.replayGo s h q n) := by
  induction n generalizing s with
  | zero => exact hQ
  | succ n ih =>
    unfold State.replayGo
    split
    · next t ht => exact ih (State.replayOne_kept hQ h q ht)
    · exact hQ

theorem State.fetchTurn_kept {M : Nat} {Q : List Instr} {s0 s : State} (hQ : Kept M Q s0 s) (h : PHost) (j : Ring)
    (hm : sub 0x2001000000 M = true := by exact sub_le (by assumption) (by decide)) : Kept M Q s0 (State.fetchTurn s h j)
    := by
  unfold State.fetchTurn
  try dsimp only
  repeat' first
    | with_reducible assumption | with_reducible refine @kept_ite _ _ _ _ _ _ _ ?_ ?_
    | with_reducible refine State.leaveL1_kept ?_ _ | with_reducible refine State.setFetching_kept ?_ _ _ _
    | with_reducible refine State.emit_kept ?_ _ | dsimp only | split

theorem State.hostTurn_kept {M : Nat} {Q : List Instr} {s0 s : State} (hQ : Kept M Q s0 s) (h : PHost)
    (hm : sub 0x2001000000 M = true := by exact sub_le (by assumption) (by decide)) : Kept M Q s0 (State.hostTurn s h) :=
    by
  unfold State.hostTurn
  try dsimp only
  repeat' first
    | with_reducible assumption | with_reducible refine @kept_ite _ _ _ _ _ _ _ ?_ ?_
    | with_reducible refine State.fetchTurn_kept ?_ _ _ | with_reducible refine State.setHost_kept ?_ _ _
    | simp only [kept_mk] | with_reducible refine Kept.parts ?_
    | with_reducible refine Kept.partsDev ?_ (Kept.devWf (m := M) (q := Q) (s0 := s0) ?_ rfl rfl rfl rfl) | dsimp only
    | split | with_reducible refine @kept_ite_fst _ _ _ _ _ _ _ _ ?_ ?_

theorem State.newRound_kept {M : Nat} {Q : List Instr} {s0 s : State} (hQ : Kept M Q s0 s) (hs : List PHost)
    (hm : sub 0x1000000 M = true := by exact sub_le (by assumption) (by decide)) : Kept M Q s0 (State.newRound s hs) := by
  unfold State.newRound
  try dsimp only
  repeat' first
    | with_reducible assumption | with_reducible refine @kept_ite _ _ _ _ _ _ _ ?_ ?_
    | with_reducible refine State.setHost_kept ?_ _ _ | with_reducible refine kept_foldl (fun t x ht => ?_) _ _ ?_
    | with_reducible refine kept_foldl_fst (fun t x ht => ?_) _ _ ?_ | simp only [kept_mk]
    | with_reducible refine Kept.parts ?_
    | with_reducible refine Kept.partsDev ?_ (Kept.devWf (m := M) (q := Q) (s0 := s0) ?_ rfl rfl rfl rfl) | dsimp only
    | split

theorem State.fetchTurns_kept {M : Nat} {Q : List Instr} {s0 s : State} (hQ : Kept M Q s0 s) (n : Nat) (hs : List PHost)
    (hm : sub 0x2001000000 M = true := by exact sub_le (by assumption) (by decide)) : Kept M Q s0 (State.fetchTurns n s hs) := by
  induction n generalizing s with
  | zero => exact hQ
  | succ n ih =>
    unfold State.fetchTurns
    split
    · exact ih (State.hostTurn_kept (kept_ite (State.newRound_kept hQ _) hQ) _)
    · exact hQ

theorem State.issueFetches_kept {M : Nat} {Q : List Instr} {s0 s : State} (hQ : Kept M Q s0 s) (h : PHost)
    (hm : sub 0x2001000000 M = true := by exact sub_le (by assumption) (by decide)) : Kept M Q s0 (State.issueFetches s h)
    := by
  unfold State.issueFetches
  try dsimp only
  repeat' first
    | with_reducible assumption | with_reducible refine @kept_ite _ _ _ _ _ _ _ ?_ ?_
    | with_reducible refine State.fetchTurns_kept ?_ _ _

theorem State.replayWrite_kept {M : Nat} {Q : List Instr} {s0 s : State} (hQ : Kept M Q s0 s) (h : PHost)
    (hm : sub 0x2001100060 M = true := by exact sub_le (by assumption) (by decide)) : Kept M Q s0 (State.replayWrite s h) := by
  unfold State.replayWrite
  try dsimp only
  repeat' first
    | with_reducible assumption | with_reducible refine @kept_ite _ _ _ _ _ _ _ ?_ ?_
    | with_reducible refine State.setHost_kept ?_ _ _ | with_reducible refine State.issueFetches_kept ?_ _
    | with_reducible refine State.replayGo_kept ?_ _ _ _ | simp only [kept_mk] | with_reducible refine Kept.parts ?_
    | with_reducible refine Kept.partsDev ?_ (Kept.devWf (m := M) (q := Q) (s0 := s0) ?_ rfl rfl rfl rfl) | dsimp only | split

theorem State.sqCfgWrite_kept {M : Nat} {Q : List Instr} {s0 s : State} (hQ : Kept M Q s0 s) (x : Sender) (h : PHost) (j :
    Nat) (v : Word) (hm : sub 0x2001000060 M = true := by exact sub_le (by assumption) (by decide)) : Kept M Q s0
    (State.sqCfgWrite s x h j v) := by
  unfold State.sqCfgWrite
  try dsimp only
  repeat' first
    | with_reducible assumption | with_reducible refine @kept_ite _ _ _ _ _ _ _ ?_ ?_
    | with_reducible refine State.settleSq_kept ?_ _ _ | with_reducible refine State.setHost_kept ?_ _ _
    | with_reducible refine State.ringRefuse_kept ?_ _ _ _ _ | with_reducible refine Kept.put ?_ _ _ ?_
    | with_reducible refine Kept.setReg ?_ _ _ ?_ | exact all_nil_ok | refine all_cons_ok ?_ ?_ | exact ok_le hm (by decide)
    | exact ok_add hm (by decide) | exact ok_add2 hm (by decide)

theorem State.cqCfgWrite_kept {M : Nat} {Q : List Instr} {s0 s : State} (hQ : Kept M Q s0 s) (x : Sender) (h : PHost) (q :
    Nat) (v : Word) (hm : sub 0x2001000060 M = true := by exact sub_le (by assumption) (by decide)) : Kept M Q s0
    (State.cqCfgWrite s x h q v) := by
  unfold State.cqCfgWrite
  try dsimp only
  repeat' first
    | with_reducible assumption | with_reducible refine @kept_ite _ _ _ _ _ _ _ ?_ ?_
    | with_reducible refine State.setHost_kept ?_ _ _ | with_reducible refine State.ringRefuse_kept ?_ _ _ _ _
    | with_reducible refine Kept.put ?_ _ _ ?_ | with_reducible refine Kept.setReg ?_ _ _ ?_ | exact all_nil_ok
    | refine all_cons_ok ?_ ?_ | exact ok_le hm (by decide) | exact ok_add hm (by decide) | exact ok_add2 hm (by decide)

theorem State.pollHead_kept {M : Nat} {Q : List Instr} {s0 s : State} (hQ : Kept M Q s0 s) (h : PHost) (q : Nat) (w : Nat)
    (hm : sub 0x2001000060 M = true := by exact sub_le (by assumption) (by decide)) : Kept M Q s0 (State.pollHead s h q w) := by
  unfold State.pollHead
  try dsimp only
  repeat' first
    | with_reducible assumption | with_reducible refine @kept_ite _ _ _ _ _ _ _ ?_ ?_
    | with_reducible refine State.setHost_kept ?_ _ _ | with_reducible refine State.stopCq_kept ?_ _ _

theorem State.pollTail_kept {M : Nat} {Q : List Instr} {s0 s : State} (hQ : Kept M Q s0 s) (h : PHost) (j : Nat) (w : Nat)
    (hm : sub 0x2001000060 M = true := by exact sub_le (by assumption) (by decide)) : Kept M Q s0 (State.pollTail s h j w) := by
  unfold State.pollTail
  try dsimp only
  repeat' first
    | with_reducible assumption | with_reducible refine @kept_ite _ _ _ _ _ _ _ ?_ ?_
    | with_reducible refine State.setHost_kept ?_ _ _ | with_reducible refine State.stopSq_kept ?_ _ _ _

theorem State.pollData_kept {M : Nat} {Q : List Instr} {s0 s : State} (hQ : Kept M Q s0 s) (h : PHost) (b : BitVec 512)
    (hm : sub 0x2001000060 M = true := by exact sub_le (by assumption) (by decide)) : Kept M Q s0 (State.pollData s h b) := by
  unfold State.pollData
  try dsimp only
  repeat' first
    | with_reducible assumption | with_reducible refine @kept_ite _ _ _ _ _ _ _ ?_ ?_
    | with_reducible refine State.setHost_kept ?_ _ _ | with_reducible refine State.issueFetches_kept ?_ _
    | with_reducible refine State.pollTail_kept ?_ _ _ _ | with_reducible refine State.pollHead_kept ?_ _ _ _
    | with_reducible refine kept_foldl (fun t x ht => ?_) _ _ ?_

theorem State.reportError_kept {M : Nat} {Q : List Instr} {s0 s : State} (hQ : Kept M Q s0 s) (h : PHost) (e : TlpError)
    (advisory : Bool) (hm : sub 0x2001000000 M = true := by exact sub_le (by assumption) (by decide)) : Kept M Q s0
    (State.reportError s h e advisory) := by
  unfold State.reportError
  try dsimp only
  repeat' first
    | with_reducible assumption | with_reducible refine @kept_ite _ _ _ _ _ _ _ ?_ ?_
    | with_reducible refine State.emit_kept ?_ _ | with_reducible refine State.setHost_kept ?_ _ _ | simp only [kept_mk]
    | with_reducible refine Kept.parts ?_
    | with_reducible refine Kept.partsDev ?_ (Kept.devWf (m := M) (q := Q) (s0 := s0) ?_ rfl rfl rfl rfl) | dsimp only
    | split

theorem State.readFailed_kept {M : Nat} {Q : List Instr} {s0 s : State} (hQ : Kept M Q s0 s) (h : PHost) (why : ReadFail)
    (hm : sub 0x2001000000 M = true := by exact sub_le (by assumption) (by decide)) : Kept M Q s0 (State.readFailed s h
    why) := by
  unfold State.readFailed
  try dsimp only
  repeat' first
    | with_reducible assumption | with_reducible refine @kept_ite _ _ _ _ _ _ _ ?_ ?_
    | with_reducible refine State.reportError_kept ?_ _ _ _ | with_reducible refine State.setHost_kept ?_ _ _
    | simp only [kept_mk] | with_reducible refine Kept.parts ?_
    | with_reducible refine Kept.partsDev ?_ (Kept.devWf (m := M) (q := Q) (s0 := s0) ?_ rfl rfl rfl rfl) | dsimp only
    | split

theorem State.dataFailed_kept {M : Nat} {Q : List Instr} {s0 s : State} (hQ : Kept M Q s0 s) (h : PHost) (d : HostData)
    (hm : sub 0x2001000000 M = true := by exact sub_le (by assumption) (by decide)) : Kept M Q s0 (State.dataFailed s h d)
    := by
  unfold State.dataFailed
  try dsimp only
  repeat' first
    | with_reducible assumption | with_reducible refine @kept_ite _ _ _ _ _ _ _ ?_ ?_
    | with_reducible refine State.readFailed_kept ?_ _ _ | dsimp only | split

theorem State.sendDue_kept {M : Nat} {Q : List Instr} {s0 s : State} (hQ : Kept M Q s0 s) (h : PHost)
    (hm : sub 0x2001000000 M = true := by exact sub_le (by assumption) (by decide)) : Kept M Q s0 (State.sendDue s h) :=
    by
  unfold State.sendDue
  try dsimp only
  repeat' first
    | with_reducible assumption | with_reducible refine @kept_ite _ _ _ _ _ _ _ ?_ ?_
    | with_reducible refine State.leaveL1_kept ?_ _ | with_reducible refine State.msix_kept ?_ _ _
    | with_reducible refine State.emit_kept ?_ _ | with_reducible refine State.setHost_kept ?_ _ _
    | with_reducible refine kept_foldl (fun t x ht => ?_) _ _ ?_
    | with_reducible refine kept_foldl_fst (fun t x ht => ?_) _ _ ?_ | simp only [kept_mk]
    | with_reducible refine Kept.parts ?_
    | with_reducible refine Kept.partsDev ?_ (Kept.devWf (m := M) (q := Q) (s0 := s0) ?_ rfl rfl rfl rfl) | dsimp only
    | split

end Sys2Proof.Machine
end

