-- ==== Sys2Proof/Laws/KeptStationOps.lean ====
section
/-! SUPPORT. What the definitions of Machine/StationOps.lean keep: one lemma `<name>_kept` for each (Laws/Kept.lean). -/

-- Proof bodies are elaborated in order: elaborated in parallel they wait on one another, each in a thread of its own.
set_option Elab.async false

namespace Sys2Proof.Machine
open Sys2Proof

theorem State.setStn_kept {M : Nat} {Q : List Instr} {s0 s : State} (hQ : Kept M Q s0 s) (n : Nat) (t : Stn)
    (hm : sub 0x4000000 M = true := by exact sub_le (by assumption) (by decide)) : Kept M Q s0 (State.setStn s n t) := by
  unfold State.setStn
  try dsimp only
  repeat' first
    | with_reducible assumption | with_reducible refine @kept_ite _ _ _ _ _ _ _ ?_ ?_ | simp only [kept_mk]
    | with_reducible refine Kept.parts ?_

theorem State.swapTables_kept {M : Nat} {Q : List Instr} {s0 s : State} (hQ : Kept M Q s0 s) (n : Nat) (mask : Nat)
    (hm : sub 0x4000040 M = true := by exact sub_le (by assumption) (by decide)) : Kept M Q s0 (State.swapTables s n mask) := by
  unfold State.swapTables
  try dsimp only
  repeat' first
    | with_reducible assumption | with_reducible refine @kept_ite _ _ _ _ _ _ _ ?_ ?_
    | with_reducible refine State.setStn_kept ?_ _ _ | with_reducible refine Kept.put ?_ _ _ ?_
    | with_reducible refine kept_foldl (fun t x ht => ?_) _ _ ?_
    | with_reducible refine kept_foldl_fst (fun t x ht => ?_) _ _ ?_ | exact all_nil_ok | refine all_cons_ok ?_ ?_
    | exact ok_le hm (by decide) | exact ok_add hm (by decide)

theorem State.copyDone_kept {M : Nat} {Q : List Instr} {s0 s : State} (hQ : Kept M Q s0 s) (n : Nat) (t : Nat)
    (hm : sub 0x4000000 M = true := by exact sub_le (by assumption) (by decide)) : Kept M Q s0 (State.copyDone s n t) := by
  unfold State.copyDone
  try dsimp only
  repeat' first
    | with_reducible assumption | with_reducible refine @kept_ite _ _ _ _ _ _ _ ?_ ?_
    | with_reducible refine State.setStn_kept ?_ _ _

theorem State.swapNow_kept {M : Nat} {Q : List Instr} {s0 s : State} (hQ : Kept M Q s0 s) (i : Nat) (f : Flight)
    (hm : sub 0x6000040 M = true := by exact sub_le (by assumption) (by decide)) : Kept M Q s0 (State.swapNow s i f) := by
  unfold State.swapNow
  try dsimp only
  repeat' first
    | with_reducible assumption | with_reducible refine @kept_ite _ _ _ _ _ _ _ ?_ ?_
    | with_reducible refine State.fixFlight_kept ?_ _ _ | with_reducible refine State.swapTables_kept ?_ _ _

theorem State.swapsDue_kept {M : Nat} {Q : List Instr} {s0 s : State} (hQ : Kept M Q s0 s) (n : Nat) (due : Nat → Bool)
    (hm : sub 0x6000040 M = true := by exact sub_le (by assumption) (by decide)) : Kept M Q s0 (State.swapsDue s n due) :=
    by
  unfold State.swapsDue
  try dsimp only
  repeat' first
    | with_reducible assumption | with_reducible refine @kept_ite _ _ _ _ _ _ _ ?_ ?_
    | with_reducible refine State.swapNow_kept ?_ _ _ | with_reducible refine kept_foldl (fun t x ht => ?_) _ _ ?_
    | with_reducible refine kept_foldl_fst (fun t x ht => ?_) _ _ ?_ | simp only [kept_mk]
    | with_reducible refine Kept.parts ?_
    | with_reducible refine Kept.partsDev ?_ (Kept.devWf (m := M) (q := Q) (s0 := s0) ?_ rfl rfl rfl rfl) | dsimp only
    | split

theorem State.joinQueue_kept {M : Nat} {Q : List Instr} {s0 s : State} (hQ : Kept M Q s0 s) (n : Nat)
    (hm : sub 0x4000000 M = true := by exact sub_le (by assumption) (by decide)) : Kept M Q s0 (State.joinQueue s n) := by
  unfold State.joinQueue
  try dsimp only
  repeat' first
    | with_reducible assumption | with_reducible refine @kept_ite _ _ _ _ _ _ _ ?_ ?_
    | with_reducible refine State.setStn_kept ?_ _ _ | simp only [kept_mk] | with_reducible refine Kept.parts ?_
    | with_reducible refine Kept.partsDev ?_ (Kept.devWf (m := M) (q := Q) (s0 := s0) ?_ rfl rfl rfl rfl) | dsimp only | split

theorem State.rasterAccept_kept {M : Nat} {Q : List Instr} {s0 s : State} (hQ : Kept M Q s0 s) (d : Desc) (r : Nat)
    (hm : sub 0x4000000 M = true := by exact sub_le (by assumption) (by decide)) : Kept M Q s0 (State.rasterAccept s d r) := by
  unfold State.rasterAccept
  try dsimp only
  repeat' first
    | with_reducible assumption | with_reducible refine @kept_ite _ _ _ _ _ _ _ ?_ ?_
    | with_reducible refine State.setStn_kept ?_ _ _ | simp only [kept_mk] | with_reducible refine Kept.parts ?_
    | with_reducible refine Kept.partsDev ?_ (Kept.devWf (m := M) (q := Q) (s0 := s0) ?_ rfl rfl rfl rfl) | dsimp only | split

theorem State.rasterWithdraw_kept {M : Nat} {Q : List Instr} {s0 s : State} (hQ : Kept M Q s0 s) (f : Flight)
    (hm : sub 0x4000000 M = true := by exact sub_le (by assumption) (by decide)) : Kept M Q s0 (State.rasterWithdraw s f) := by
  unfold State.rasterWithdraw
  try dsimp only
  repeat' first
    | with_reducible assumption | with_reducible refine @kept_ite _ _ _ _ _ _ _ ?_ ?_
    | with_reducible refine State.setStn_kept ?_ _ _

theorem State.rasterTry_kept {M : Nat} {Q : List Instr} {s0 s : State} (hQ : Kept M Q s0 s) (r : Nat)
    (hm : sub 0x840020040 M = true := by exact sub_le (by assumption) (by decide)) : Kept M Q s0 (State.rasterTry s r) :=
    by
  unfold State.rasterTry
  try dsimp only
  repeat' first
    | with_reducible assumption | with_reducible refine @kept_ite _ _ _ _ _ _ _ ?_ ?_
    | with_reducible refine State.rasterComplete_kept ?_ _ _ | simp only [kept_mk] | with_reducible refine Kept.parts ?_
    | with_reducible refine Kept.partsDev ?_ (Kept.devWf (m := M) (q := Q) (s0 := s0) ?_ rfl rfl rfl rfl) | dsimp only
    | split

theorem State.writeBand_kept {M : Nat} {Q : List Instr} {s0 s : State} (hQ : Kept M Q s0 s) (n : Nat) (pos : Nat) (k : Nat)
    (bs : List Byte) (hm : sub 0x3801120060 M = true := by exact sub_le (by assumption) (by decide)) : Kept M Q s0
    (State.writeBand s n pos k bs) := by
  induction k generalizing s pos bs with
  | zero => exact hQ
  | succ k ih => exact ih (State.writeBytes_kept hQ _ _ _ _) _ _

theorem State.publish_kept {M : Nat} {Q : List Instr} {s0 s : State} (hQ : Kept M Q s0 s) (i : Nat) (f : Flight) (g : Sheet)
    (hm : sub 0x3847120060 M = true := by exact sub_le (by assumption) (by decide)) : Kept M Q s0 (State.publish s i f g) := by
  unfold State.publish
  try dsimp only
  repeat' first
    | with_reducible assumption | with_reducible refine @kept_ite _ _ _ _ _ _ _ ?_ ?_
    | with_reducible refine State.fixFlight_kept ?_ _ _ | with_reducible refine State.rasterTry_kept ?_ _
    | with_reducible refine State.setStn_kept ?_ _ _ | with_reducible refine State.writeBand_kept ?_ _ _ _ _

theorem State.rasterCw_kept {M : Nat} {Q : List Instr} {s0 s : State} (hQ : Kept M Q s0 s) (cw : Nat)
    (hm : sub 0x3801120060 M = true := by exact sub_le (by assumption) (by decide)) : Kept M Q s0 (State.rasterCw s cw).1 := by
  unfold State.rasterCw
  try dsimp only
  repeat' first
    | with_reducible assumption | with_reducible refine @kept_ite _ _ _ _ _ _ _ ?_ ?_
    | with_reducible refine @kept_ite_fst _ _ _ _ _ _ _ _ ?_ ?_ | with_reducible refine State.touch_kept ?_ _

theorem State.rasterCws_kept {M : Nat} {Q : List Instr} {s0 s : State} (hQ : Kept M Q s0 s) (k : Nat) (cw : Nat)
    (hm : sub 0x3801120060 M = true := by exact sub_le (by assumption) (by decide)) : Kept M Q s0 (State.rasterCws s k cw).1 := by
  induction k generalizing s cw with
  | zero => exact hQ
  | succ k ih => exact ih (State.rasterCw_kept hQ cw) _

theorem State.lineFetch_kept {M : Nat} {Q : List Instr} {s0 s : State} (hQ : Kept M Q s0 s) (n : Nat) (ups : List Upset)
    (hm : sub 0x3845120060 M = true := by exact sub_le (by assumption) (by decide)) : Kept M Q s0 (State.lineFetch s n ups) := by
  unfold State.lineFetch
  try dsimp only
  repeat' first
    | with_reducible assumption | with_reducible refine @kept_ite _ _ _ _ _ _ _ ?_ ?_
    | with_reducible refine State.stnSpoil_kept ?_ _ _ _ | with_reducible refine State.setStn_kept ?_ _ _
    | with_reducible refine State.upsets_kept ?_ _ _ _ | with_reducible refine State.rasterCws_kept ?_ _ _
    | simp only [kept_mk] | with_reducible refine Kept.parts ?_
    | with_reducible refine Kept.partsDev ?_ (Kept.devWf (m := M) (q := Q) (s0 := s0) ?_ rfl rfl rfl rfl) | dsimp only | split

theorem State.arm_kept {M : Nat} {Q : List Instr} {s0 s : State} (hQ : Kept M Q s0 s) (x : Sender) (n : Nat)
    (hm : sub 0x2805000060 M = true := by exact sub_le (by assumption) (by decide)) : Kept M Q s0 (State.arm s x n) := by
  unfold State.arm
  try dsimp only
  repeat' first
    | with_reducible assumption | with_reducible refine @kept_ite _ _ _ _ _ _ _ ?_ ?_
    | with_reducible refine State.setStn_kept ?_ _ _ | with_reducible refine State.yieldWindow_kept ?_ _
    | with_reducible refine State.arrEvent_kept ?_ _ _ ?_ | with_reducible refine State.stnEvent_kept ?_ _ _ ?_
    | with_reducible refine Kept.put ?_ _ _ ?_ | with_reducible refine kept_foldl (fun t x ht => ?_) _ _ ?_
    | with_reducible refine kept_foldl_fst (fun t x ht => ?_) _ _ ?_ | exact all_nil_ok | refine all_cons_ok ?_ ?_
    | exact ok_le hm (by decide) | exact ok_add hm (by decide) | exact ok_add2 hm (by decide) | exact ok_at hm (by decide)
    | simp only [kept_mk] | with_reducible refine Kept.parts ?_
    | with_reducible refine Kept.partsDev ?_ (Kept.devWf (m := M) (q := Q) (s0 := s0) ?_ rfl rfl rfl rfl) | dsimp only
    | split | intro _

theorem State.disarmNow_kept {M : Nat} {Q : List Instr} {s0 s : State} (hQ : Kept M Q s0 s) (n : Nat)
    (hm : sub 0x3847120060 M = true := by exact sub_le (by assumption) (by decide)) : Kept M Q s0 (State.disarmNow s n) :=
    by
  unfold State.disarmNow
  try dsimp only
  repeat' first
    | with_reducible assumption | with_reducible refine @kept_ite _ _ _ _ _ _ _ ?_ ?_
    | with_reducible refine State.swapsDue_kept ?_ _ _ | with_reducible refine State.setStn_kept ?_ _ _
    | with_reducible refine State.stnSpoil_kept ?_ _ _ _ | with_reducible refine State.fixFlight_kept ?_ _ _
    | with_reducible refine State.retireAll_kept ?_ | with_reducible refine State.putAll_kept ?_ _ ?_
    | with_reducible refine kept_foldl (fun t x ht => ?_) _ _ ?_
    | with_reducible refine kept_foldl_fst (fun t x ht => ?_) _ _ ?_ | exact all_nil_ok | refine all_cons_ok ?_ ?_
    | exact ok_le hm (by decide) | exact ok_add hm (by decide) | exact ok_add2 hm (by decide) | exact ok_at hm (by decide)
    | simp only [kept_mk] | with_reducible refine Kept.parts ?_
    | with_reducible refine Kept.partsDev ?_ (Kept.devWf (m := M) (q := Q) (s0 := s0) ?_ rfl rfl rfl rfl) | dsimp only
    | split

theorem State.disarm_kept {M : Nat} {Q : List Instr} {s0 s : State} (hQ : Kept M Q s0 s) (n : Nat)
    (hm : sub 0x3847120060 M = true := by exact sub_le (by assumption) (by decide)) : Kept M Q s0 (State.disarm s n) := by
  unfold State.disarm
  try dsimp only
  repeat' first
    | with_reducible assumption | with_reducible refine @kept_ite _ _ _ _ _ _ _ ?_ ?_
    | with_reducible refine State.disarmNow_kept ?_ _ | with_reducible refine State.setStn_kept ?_ _ _

theorem State.eos_kept {M : Nat} {Q : List Instr} {s0 s : State} (hQ : Kept M Q s0 s) (n : Nat) (t : Nat)
    (hm : sub 0x4000040 M = true := by exact sub_le (by assumption) (by decide)) : Kept M Q s0 (State.eos s n t) := by
  unfold State.eos
  try dsimp only
  repeat' first
    | with_reducible assumption | with_reducible refine @kept_ite _ _ _ _ _ _ _ ?_ ?_
    | with_reducible refine State.setStn_kept ?_ _ _ | with_reducible refine Kept.put ?_ _ _ ?_ | exact all_nil_ok
    | refine all_cons_ok ?_ ?_ | exact ok_le hm (by decide) | exact ok_add hm (by decide) | exact ok_add2 hm (by decide)

theorem State.fnAdjust_kept {M : Nat} {Q : List Instr} {s0 s : State} (hQ : Kept M Q s0 s) (n : Nat) (a : Nat)
    (hm : sub 0x4000040 M = true := by exact sub_le (by assumption) (by decide)) : Kept M Q s0 (State.fnAdjust s n a) := by
  unfold State.fnAdjust
  try dsimp only
  repeat' first
    | with_reducible assumption | with_reducible refine @kept_ite _ _ _ _ _ _ _ ?_ ?_
    | with_reducible refine State.setStn_kept ?_ _ _ | with_reducible refine Kept.put ?_ _ _ ?_
    | with_reducible refine kept_foldl (fun t x ht => ?_) _ _ ?_
    | with_reducible refine kept_foldl_fst (fun t x ht => ?_) _ _ ?_ | exact all_nil_ok | refine all_cons_ok ?_ ?_
    | exact ok_le hm (by decide) | exact ok_add hm (by decide) | exact ok_add2 hm (by decide)

theorem State.spoilProgress_kept {M : Nat} {Q : List Instr} {s0 s : State} (hQ : Kept M Q s0 s) (n : Nat) (cause : Nat)
    (hm : sub 0x3841120060 M = true := by exact sub_le (by assumption) (by decide)) : Kept M Q s0 (State.spoilProgress s n
    cause) := by
  unfold State.spoilProgress
  try dsimp only
  repeat' first
    | with_reducible assumption | with_reducible refine @kept_ite _ _ _ _ _ _ _ ?_ ?_
    | with_reducible refine State.stnSpoil_kept ?_ _ _ _

theorem State.blankFrom_kept {M : Nat} {Q : List Instr} {s0 s : State} (hQ : Kept M Q s0 s) (n : Nat) (first : Nat)
    (hm : sub 0x4000000 M = true := by exact sub_le (by assumption) (by decide)) : Kept M Q s0 (State.blankFrom s n first)
    := by
  unfold State.blankFrom
  try dsimp only
  repeat' first
    | with_reducible assumption | with_reducible refine @kept_ite _ _ _ _ _ _ _ ?_ ?_
    | with_reducible refine State.setStn_kept ?_ _ _ | simp only [kept_mk] | with_reducible refine Kept.parts ?_
    | with_reducible refine Kept.partsDev ?_ (Kept.devWf (m := M) (q := Q) (s0 := s0) ?_ rfl rfl rfl rfl) | dsimp only
    | split

theorem State.blankOutput_kept {M : Nat} {Q : List Instr} {s0 s : State} (hQ : Kept M Q s0 s) (n : Nat)
    (hm : sub 0x4004000000 M = true := by exact sub_le (by assumption) (by decide)) : Kept M Q s0 (State.blankOutput s n)
    := by
  unfold State.blankOutput
  try dsimp only
  repeat' first
    | with_reducible assumption | with_reducible refine @kept_ite _ _ _ _ _ _ _ ?_ ?_
    | with_reducible refine State.blankFrom_kept ?_ _ _ | with_reducible refine State.drawWord_kept ?_ | dsimp only | split
    | simp only [kept_mk] | with_reducible refine Kept.parts ?_

theorem State.stallNow_kept {M : Nat} {Q : List Instr} {s0 s : State} (hQ : Kept M Q s0 s) (n : Nat)
    (hm : sub 0x7845120060 M = true := by exact sub_le (by assumption) (by decide)) : Kept M Q s0 (State.stallNow s n) :=
    by
  unfold State.stallNow
  try dsimp only
  repeat' first
    | with_reducible assumption | with_reducible refine @kept_ite _ _ _ _ _ _ _ ?_ ?_
    | with_reducible refine State.blankOutput_kept ?_ _ | with_reducible refine State.spoilProgress_kept ?_ _ _
    | with_reducible refine State.setStn_kept ?_ _ _ | with_reducible refine State.stnEvent_kept ?_ _ _ ?_
    | with_reducible refine Kept.put ?_ _ _ ?_ | exact all_nil_ok | refine all_cons_ok ?_ ?_ | exact ok_le hm (by decide)
    | exact ok_add hm (by decide) | exact ok_add2 hm (by decide) | exact ok_at hm (by decide) | simp only [kept_mk]
    | with_reducible refine Kept.parts ?_
    | with_reducible refine Kept.partsDev ?_ (Kept.devWf (m := M) (q := Q) (s0 := s0) ?_ rfl rfl rfl rfl) | dsimp only
    | split | intro _

theorem State.setDegEmit_kept {M : Nat} {Q : List Instr} {s0 s : State} (hQ : Kept M Q s0 s) (n : Nat) (on : Bool)
    (hm : sub 0x2001000040 M = true := by exact sub_le (by assumption) (by decide)) : Kept M Q s0 (State.setDegEmit s n on) := by
  unfold State.setDegEmit
  try dsimp only
  repeat' first
    | with_reducible assumption | with_reducible refine @kept_ite _ _ _ _ _ _ _ ?_ ?_
    | with_reducible refine State.stnEvent_kept ?_ _ _ ?_ | with_reducible refine Kept.put ?_ _ _ ?_ | exact all_nil_ok
    | refine all_cons_ok ?_ ?_ | exact ok_le hm (by decide) | exact ok_add hm (by decide) | exact ok_add2 hm (by decide)
    | exact ok_at hm (by decide) | simp only [kept_mk] | with_reducible refine Kept.parts ?_
    | with_reducible refine Kept.partsDev ?_ (Kept.devWf (m := M) (q := Q) (s0 := s0) ?_ rfl rfl rfl rfl) | dsimp only | split
    | intro _

theorem State.cutoffStart_kept {M : Nat} {Q : List Instr} {s0 s : State} (hQ : Kept M Q s0 s) (n : Nat)
    (hm : sub 0x3845120060 M = true := by exact sub_le (by assumption) (by decide)) : Kept M Q s0 (State.cutoffStart s n) := by
  unfold State.cutoffStart
  try dsimp only
  repeat' first
    | with_reducible assumption | with_reducible refine @kept_ite _ _ _ _ _ _ _ ?_ ?_
    | with_reducible refine State.spoilProgress_kept ?_ _ _ | with_reducible refine State.setStn_kept ?_ _ _
    | with_reducible refine Kept.put ?_ _ _ ?_ | exact all_nil_ok | refine all_cons_ok ?_ ?_ | exact ok_le hm (by decide)
    | exact ok_add hm (by decide)

theorem State.stampSheets_kept {M : Nat} {Q : List Instr} {s0 s : State} (hQ : Kept M Q s0 s) (n : Nat)
    (hm : sub 0x3845120060 M = true := by exact sub_le (by assumption) (by decide)) : Kept M Q s0 (State.stampSheets s n)
    := by
  unfold State.stampSheets
  try dsimp only
  repeat' first
    | with_reducible assumption | with_reducible refine @kept_ite _ _ _ _ _ _ _ ?_ ?_
    | with_reducible refine State.setStn_kept ?_ _ _ | with_reducible refine State.ledEventNow_kept ?_ _
    | with_reducible refine State.leave_kept ?_ _ | simp only [kept_mk] | with_reducible refine Kept.parts ?_
    | with_reducible refine Kept.partsDev ?_ (Kept.devWf (m := M) (q := Q) (s0 := s0) ?_ rfl rfl rfl rfl) | dsimp only
    | split

theorem State.drainCheck_kept {M : Nat} {Q : List Instr} {s0 s : State} (hQ : Kept M Q s0 s) (n : Nat)
    (hm : sub 0x3847120060 M = true := by exact sub_le (by assumption) (by decide)) : Kept M Q s0 (State.drainCheck s n) := by
  unfold State.drainCheck
  try dsimp only
  repeat' first
    | with_reducible assumption | with_reducible refine @kept_ite _ _ _ _ _ _ _ ?_ ?_
    | with_reducible refine State.disarm_kept ?_ _ | simp only [kept_mk] | with_reducible refine Kept.parts ?_
    | with_reducible refine Kept.partsDev ?_ (Kept.devWf (m := M) (q := Q) (s0 := s0) ?_ rfl rfl rfl rfl) | dsimp only | split

theorem State.unflag_kept {M : Nat} {Q : List Instr} {s0 s : State} (hQ : Kept M Q s0 s) (n : Nat)
    (hm : sub 0x3847120060 M = true := by exact sub_le (by assumption) (by decide)) : Kept M Q s0 (State.unflag s n) := by
  unfold State.unflag
  try dsimp only
  repeat' first
    | with_reducible assumption | with_reducible refine @kept_ite _ _ _ _ _ _ _ ?_ ?_
    | with_reducible refine State.drainCheck_kept ?_ _ | with_reducible refine State.setStn_kept ?_ _ _
    | with_reducible refine State.leave_kept ?_ _ | simp only [kept_mk] | with_reducible refine Kept.parts ?_
    | with_reducible refine Kept.partsDev ?_ (Kept.devWf (m := M) (q := Q) (s0 := s0) ?_ rfl rfl rfl rfl) | dsimp only
    | split

theorem State.facetEnd_kept {M : Nat} {Q : List Instr} {s0 s : State} (hQ : Kept M Q s0 s) (n : StnId)
    (hm : sub 0x3847120060 M = true := by exact sub_le (by assumption) (by decide)) : Kept M Q s0 (State.facetEnd s n) := by
  unfold State.facetEnd
  try dsimp only
  repeat' first
    | with_reducible assumption | with_reducible refine @kept_ite _ _ _ _ _ _ _ ?_ ?_
    | with_reducible refine State.drainCheck_kept ?_ _ | with_reducible refine State.disarmNow_kept ?_ _
    | with_reducible refine State.stampSheets_kept ?_ _ | with_reducible refine State.setStn_kept ?_ _ _
    | with_reducible refine State.bump_kept ?_ _ ?_ | with_reducible refine State.stnEvent_kept ?_ _ _ ?_
    | with_reducible refine State.emit_kept ?_ _ | exact all_nil_ok | refine all_cons_ok ?_ ?_ | exact ok_le hm (by decide)
    | exact ok_add hm (by decide) | exact ok_add2 hm (by decide) | exact ok_at hm (by decide) | simp only [kept_mk]
    | with_reducible refine Kept.parts ?_
    | with_reducible refine Kept.partsDev ?_ (Kept.devWf (m := M) (q := Q) (s0 := s0) ?_ rfl rfl rfl rfl) | dsimp only | split
    | intro _

theorem State.sosNumber_kept {M : Nat} {Q : List Instr} {s0 s : State} (hQ : Kept M Q s0 s) (n : Nat) (t : Nat)
    (hm : sub 0x4004000040 M = true := by exact sub_le (by assumption) (by decide)) : Kept M Q s0 (State.sosNumber s n t) := by
  unfold State.sosNumber
  try dsimp only
  repeat' first
    | with_reducible assumption | with_reducible refine @kept_ite _ _ _ _ _ _ _ ?_ ?_
    | with_reducible refine State.putAll_kept ?_ _ ?_ | with_reducible refine State.setStn_kept ?_ _ _
    | with_reducible refine State.drawWord_kept ?_ | exact all_nil_ok | refine all_cons_ok ?_ ?_ | exact ok_le hm (by decide)
    | exact ok_add hm (by decide) | exact ok_add2 hm (by decide) | exact ok_at hm (by decide) | simp only [kept_mk]
    | with_reducible refine Kept.parts ?_
    | with_reducible refine Kept.partsDev ?_ (Kept.devWf (m := M) (q := Q) (s0 := s0) ?_ rfl rfl rfl rfl) | dsimp only | split

theorem State.sosPosition_kept {M : Nat} {Q : List Instr} {s0 s : State} (hQ : Kept M Q s0 s) (n : Nat)
    (hm : sub 0x4000040 M = true := by exact sub_le (by assumption) (by decide)) : Kept M Q s0 (State.sosPosition s n) := by
  unfold State.sosPosition
  try dsimp only
  repeat' first
    | with_reducible assumption | with_reducible refine @kept_ite _ _ _ _ _ _ _ ?_ ?_
    | with_reducible refine State.setStn_kept ?_ _ _ | with_reducible refine Kept.put ?_ _ _ ?_ | exact all_nil_ok
    | refine all_cons_ok ?_ ?_ | exact ok_le hm (by decide) | exact ok_add hm (by decide)

theorem State.sendControls_kept {M : Nat} {Q : List Instr} {s0 s : State} (hQ : Kept M Q s0 s) (n : StnId)
    (hm : sub 0x2004000000 M = true := by exact sub_le (by assumption) (by decide)) : Kept M Q s0 (State.sendControls s n) := by
  unfold State.sendControls
  try dsimp only
  repeat' first
    | with_reducible assumption | with_reducible refine @kept_ite _ _ _ _ _ _ _ ?_ ?_
    | with_reducible refine State.emit_kept ?_ _ | with_reducible refine State.setStn_kept ?_ _ _
    | with_reducible refine kept_foldl (fun t x ht => ?_) _ _ ?_

theorem State.sosSpoils_kept {M : Nat} {Q : List Instr} {s0 s : State} (hQ : Kept M Q s0 s) (n : Nat) (by_ : List (Nat × List
    Nat)) (hm : sub 0x3841120060 M = true := by exact sub_le (by assumption) (by decide)) : Kept M Q s0 (State.sosSpoils s n
    by_) := by
  unfold State.sosSpoils
  try dsimp only
  repeat' first
    | with_reducible assumption | with_reducible refine @kept_ite _ _ _ _ _ _ _ ?_ ?_
    | with_reducible refine State.stnSpoil_kept ?_ _ _ _ | with_reducible refine kept_foldl (fun t x ht => ?_) _ _ ?_

theorem State.sosFacet_kept {M : Nat} {Q : List Instr} {s0 s : State} (hQ : Kept M Q s0 s) (n : StnId) (t : Nat) (leave :
    Nat) (hm : sub 0x3845120060 M = true := by exact sub_le (by assumption) (by decide)) : Kept M Q s0 (State.sosFacet s n
    t leave) := by
  unfold State.sosFacet
  try dsimp only
  repeat' first
    | with_reducible assumption | with_reducible refine @kept_ite _ _ _ _ _ _ _ ?_ ?_
    | with_reducible refine State.sosSpoils_kept ?_ _ _ | with_reducible refine State.sendControls_kept ?_ _
    | with_reducible refine State.setDegEmit_kept ?_ _ _ | with_reducible refine State.rasterTry_kept ?_ _
    | with_reducible refine State.setStn_kept ?_ _ _ | with_reducible refine State.stnEvent_kept ?_ _ _ ?_
    | with_reducible refine State.emit_kept ?_ _ | with_reducible refine Kept.put ?_ _ _ ?_
    | with_reducible refine kept_foldl (fun t x ht => ?_) _ _ ?_
    | with_reducible refine kept_foldl_fst (fun t x ht => ?_) _ _ ?_ | exact all_nil_ok | refine all_cons_ok ?_ ?_
    | exact ok_le hm (by decide) | exact ok_add hm (by decide) | exact ok_add2 hm (by decide) | exact ok_at hm (by decide)
    | simp only [kept_mk] | with_reducible refine Kept.parts ?_
    | with_reducible refine Kept.partsDev ?_ (Kept.devWf (m := M) (q := Q) (s0 := s0) ?_ rfl rfl rfl rfl) | dsimp only
    | split | intro _

theorem State.blankClear_kept {M : Nat} {Q : List Instr} {s0 s : State} (hQ : Kept M Q s0 s) (n : Nat)
    (hm : sub 0x4000040 M = true := by exact sub_le (by assumption) (by decide)) : Kept M Q s0 (State.blankClear s n) := by
  unfold State.blankClear
  try dsimp only
  repeat' first
    | with_reducible assumption | with_reducible refine @kept_ite _ _ _ _ _ _ _ ?_ ?_
    | with_reducible refine State.setStn_kept ?_ _ _ | with_reducible refine Kept.put ?_ _ _ ?_ | exact all_nil_ok
    | refine all_cons_ok ?_ ?_ | exact ok_le hm (by decide) | exact ok_add hm (by decide)

theorem State.sos_kept {M : Nat} {Q : List Instr} {s0 s : State} (hQ : Kept M Q s0 s) (n : StnId) (t : Nat) (leave : Nat)
    (hm : sub 0x7847120060 M = true := by exact sub_le (by assumption) (by decide)) : Kept M Q s0 (State.sos s n t leave)
    := by
  unfold State.sos
  try dsimp only
  repeat' first
    | with_reducible assumption | with_reducible refine @kept_ite _ _ _ _ _ _ _ ?_ ?_
    | with_reducible refine State.blankClear_kept ?_ _ | with_reducible refine State.sosFacet_kept ?_ _ _ _
    | with_reducible refine State.sosPosition_kept ?_ _ | with_reducible refine State.sosNumber_kept ?_ _ _
    | with_reducible refine State.facetEnd_kept ?_ _ | with_reducible refine State.swapsDue_kept ?_ _ _
    | with_reducible refine State.retireAll_kept ?_ | dsimp only | split

theorem State.sxsPulse_kept {M : Nat} {Q : List Instr} {s0 s : State} (hQ : Kept M Q s0 s) (n : StnId) (t : Nat) (width :
    Nat) (high : Bool) (leave : Nat) (hm : sub 0x7847120060 M = true := by exact sub_le (by assumption) (by decide)) :
    Kept M Q s0 (State.sxsPulse s n t width high leave) := by
  unfold State.sxsPulse
  try dsimp only
  repeat' first
    | with_reducible assumption | with_reducible refine @kept_ite _ _ _ _ _ _ _ ?_ ?_
    | with_reducible refine State.sos_kept ?_ _ _ _ | with_reducible refine State.eos_kept ?_ _ _ | simp only [kept_mk]
    | with_reducible refine Kept.parts ?_
    | with_reducible refine Kept.partsDev ?_ (Kept.devWf (m := M) (q := Q) (s0 := s0) ?_ rfl rfl rfl rfl) | dsimp only
    | split

end Sys2Proof.Machine
end

