-- ==== Sys2Proof/Laws/KeptLinkOps.lean ====
section
/-! SUPPORT. What the definitions of Machine/LinkOps.lean keep: one lemma `<name>_kept` for each (Laws/Kept.lean). -/

-- Proof bodies are elaborated in order: elaborated in parallel they wait on one another, each in a thread of its own.
set_option Elab.async false

namespace Sys2Proof.Machine
open Sys2Proof

theorem State.setLanes_kept {M : Nat} {Q : List Instr} {s0 s : State} (hQ : Kept M Q s0 s) (n : Nat) (mask : Nat)
    (hm : sub 0x40 M = true := by exact sub_le (by assumption) (by decide)) : Kept M Q s0 (State.setLanes s n mask) := by
  unfold State.setLanes
  try dsimp only
  repeat' first
    | with_reducible assumption | with_reducible refine @kept_ite _ _ _ _ _ _ _ ?_ ?_
    | with_reducible refine Kept.put ?_ _ _ ?_ | exact all_nil_ok | refine all_cons_ok ?_ ?_ | exact ok_le hm (by decide)
    | exact ok_add hm (by decide)

theorem State.raiseDegLink_kept {M : Nat} {Q : List Instr} {s0 s : State} (hQ : Kept M Q s0 s) (n : Nat)
    (hm : sub 0x2001000040 M = true := by exact sub_le (by assumption) (by decide)) : Kept M Q s0 (State.raiseDegLink s n) := by
  unfold State.raiseDegLink
  try dsimp only
  repeat' first
    | with_reducible assumption | with_reducible refine @kept_ite _ _ _ _ _ _ _ ?_ ?_
    | with_reducible refine State.stnEvent_kept ?_ _ _ ?_ | with_reducible refine Kept.put ?_ _ _ ?_ | exact all_nil_ok
    | refine all_cons_ok ?_ ?_ | exact ok_le hm (by decide) | exact ok_add hm (by decide) | exact ok_add2 hm (by decide)
    | exact ok_at hm (by decide) | simp only [kept_mk] | with_reducible refine Kept.parts ?_
    | with_reducible refine Kept.partsDev ?_ (Kept.devWf (m := M) (q := Q) (s0 := s0) ?_ rfl rfl rfl rfl) | dsimp only | split
    | intro _

theorem State.laneRule_kept {M : Nat} {Q : List Instr} {s0 s : State} (hQ : Kept M Q s0 s) (n : Nat)
    (hm : sub 0x2001000040 M = true := by exact sub_le (by assumption) (by decide)) : Kept M Q s0 (State.laneRule s n) := by
  unfold State.laneRule
  try dsimp only
  repeat' first
    | with_reducible assumption | with_reducible refine @kept_ite _ _ _ _ _ _ _ ?_ ?_
    | with_reducible refine State.raiseDegLink_kept ?_ _

theorem State.readDriver_kept {M : Nat} {Q : List Instr} {s0 s : State} (hQ : Kept M Q s0 s) (n : StnId) (as : List
    (BitVec 7)) (hm : sub 0x2000000000 M = true := by exact sub_le (by assumption) (by decide)) : Kept M Q s0
    (State.readDriver s n as) := by
  unfold State.readDriver
  try dsimp only
  repeat' first
    | with_reducible assumption | with_reducible refine @kept_ite _ _ _ _ _ _ _ ?_ ?_
    | with_reducible refine State.emit_kept ?_ _ | with_reducible refine kept_foldl (fun t x ht => ?_) _ _ ?_
    | with_reducible refine kept_foldl_fst (fun t x ht => ?_) _ _ ?_ | dsimp only | split

theorem State.writeDriver_kept {M : Nat} {Q : List Instr} {s0 s : State} (hQ : Kept M Q s0 s) (n : StnId) (a : BitVec 7)
    (d : Nat) (hm : sub 0x2000000000 M = true := by exact sub_le (by assumption) (by decide)) : Kept M Q s0
    (State.writeDriver s n a d) := by
  unfold State.writeDriver
  try dsimp only
  repeat' first
    | with_reducible assumption | with_reducible refine @kept_ite _ _ _ _ _ _ _ ?_ ?_
    | with_reducible refine State.emit_kept ?_ _

theorem State.trainStart_kept {M : Nat} {Q : List Instr} {s0 s : State} (hQ : Kept M Q s0 s) (n : Nat)
    (hm : sub 0x2004000040 M = true := by exact sub_le (by assumption) (by decide)) : Kept M Q s0 (State.trainStart s n)
    := by
  unfold State.trainStart
  try dsimp only
  repeat' first
    | with_reducible assumption | with_reducible refine @kept_ite _ _ _ _ _ _ _ ?_ ?_
    | with_reducible refine State.readDriver_kept ?_ _ _ | with_reducible refine State.setLanes_kept ?_ _ _
    | with_reducible refine State.setStn_kept ?_ _ _ | with_reducible refine Kept.put ?_ _ _ ?_ | exact all_nil_ok
    | refine all_cons_ok ?_ ?_ | exact ok_le hm (by decide) | exact ok_add hm (by decide) | exact ok_add2 hm (by decide)
    | exact ok_at hm (by decide) | simp only [kept_mk] | with_reducible refine Kept.parts ?_
    | with_reducible refine Kept.partsDev ?_ (Kept.devWf (m := M) (q := Q) (s0 := s0) ?_ rfl rfl rfl rfl) | dsimp only
    | split

theorem State.trainFail_kept {M : Nat} {Q : List Instr} {s0 s : State} (hQ : Kept M Q s0 s) (n : Nat)
    (hm : sub 0x2005000040 M = true := by exact sub_le (by assumption) (by decide)) : Kept M Q s0 (State.trainFail s n) :=
    by
  unfold State.trainFail
  try dsimp only
  repeat' first
    | with_reducible assumption | with_reducible refine @kept_ite _ _ _ _ _ _ _ ?_ ?_
    | with_reducible refine State.setLanes_kept ?_ _ _ | with_reducible refine State.setStn_kept ?_ _ _
    | with_reducible refine State.stnLEvent_kept ?_ _ _ ?_ | with_reducible refine Kept.put ?_ _ _ ?_ | exact all_nil_ok
    | refine all_cons_ok ?_ ?_ | exact ok_le hm (by decide) | exact ok_add hm (by decide) | exact ok_add2 hm (by decide)
    | exact ok_at hm (by decide) | simp only [kept_mk] | with_reducible refine Kept.parts ?_
    | with_reducible refine Kept.partsDev ?_ (Kept.devWf (m := M) (q := Q) (s0 := s0) ?_ rfl rfl rfl rfl) | dsimp only
    | split | intro _

theorem State.trainMap_kept {M : Nat} {Q : List Instr} {s0 s : State} (hQ : Kept M Q s0 s) (n : Nat)
    (hm : sub 0x2005000040 M = true := by exact sub_le (by assumption) (by decide)) : Kept M Q s0 (State.trainMap s n) :=
    by
  unfold State.trainMap
  try dsimp only
  repeat' first
    | with_reducible assumption | with_reducible refine @kept_ite _ _ _ _ _ _ _ ?_ ?_
    | with_reducible refine State.trainFail_kept ?_ _ | with_reducible refine State.writeDriver_kept ?_ _ _ _
    | with_reducible refine State.setLanes_kept ?_ _ _ | with_reducible refine State.setStn_kept ?_ _ _
    | with_reducible refine Kept.put ?_ _ _ ?_ | with_reducible refine kept_foldl (fun t x ht => ?_) _ _ ?_
    | with_reducible refine kept_foldl_fst (fun t x ht => ?_) _ _ ?_ | exact all_nil_ok | refine all_cons_ok ?_ ?_
    | exact ok_le hm (by decide) | exact ok_add hm (by decide) | exact ok_add2 hm (by decide) | exact ok_at hm (by decide)
    | simp only [kept_mk] | with_reducible refine Kept.parts ?_
    | with_reducible refine Kept.partsDev ?_ (Kept.devWf (m := M) (q := Q) (s0 := s0) ?_ rfl rfl rfl rfl) | dsimp only
    | split

theorem State.trainStepDone_kept {M : Nat} {Q : List Instr} {s0 s : State} (hQ : Kept M Q s0 s) (n : Nat) (reply : List
    (BitVec 16)) (hm : sub 0x2005000040 M = true := by exact sub_le (by assumption) (by decide)) : Kept M Q s0
    (State.trainStepDone s n reply) := by
  unfold State.trainStepDone
  try dsimp only
  repeat' first
    | with_reducible assumption | with_reducible refine @kept_ite _ _ _ _ _ _ _ ?_ ?_
    | with_reducible refine State.trainMap_kept ?_ _ | with_reducible refine State.trainFail_kept ?_ _
    | with_reducible refine State.writeDriver_kept ?_ _ _ _ | with_reducible refine State.readDriver_kept ?_ _ _
    | with_reducible refine State.laneRule_kept ?_ _ | with_reducible refine State.setStn_kept ?_ _ _
    | with_reducible refine State.stnLEvent_kept ?_ _ _ ?_ | with_reducible refine Kept.put ?_ _ _ ?_ | exact all_nil_ok
    | refine all_cons_ok ?_ ?_ | exact ok_le hm (by decide) | exact ok_add hm (by decide) | exact ok_add2 hm (by decide)
    | exact ok_at hm (by decide) | simp only [kept_mk] | with_reducible refine Kept.parts ?_
    | with_reducible refine Kept.partsDev ?_ (Kept.devWf (m := M) (q := Q) (s0 := s0) ?_ rfl rfl rfl rfl) | dsimp only
    | split | intro _

theorem State.lateFacets_kept {M : Nat} {Q : List Instr} {s0 s : State} (hQ : Kept M Q s0 s) (n : Nat) (p : Past → Bool)
    (hm : sub 0x3841120060 M = true := by exact sub_le (by assumption) (by decide)) : Kept M Q s0 (State.lateFacets s n p) := by
  unfold State.lateFacets
  try dsimp only
  repeat' first
    | with_reducible assumption | with_reducible refine @kept_ite _ _ _ _ _ _ _ ?_ ?_
    | with_reducible refine State.stnSpoil_kept ?_ _ _ _

theorem State.bumpLates_kept {M : Nat} {Q : List Instr} {s0 s : State} (hQ : Kept M Q s0 s) (n : Nat)
    (hm : sub 0x40 M = true := by exact sub_le (by assumption) (by decide)) : Kept M Q s0 (State.bumpLates s n) := by
  unfold State.bumpLates
  try dsimp only
  repeat' first
    | with_reducible assumption | with_reducible refine @kept_ite _ _ _ _ _ _ _ ?_ ?_
    | with_reducible refine State.bump_kept ?_ _ ?_ | exact all_nil_ok | refine all_cons_ok ?_ ?_ | exact ok_le hm (by decide)
    | exact ok_add hm (by decide)

theorem State.laneReport_kept {M : Nat} {Q : List Instr} {s0 s : State} (hQ : Kept M Q s0 s) (n : Nat) (l : Nat) (c : Nat)
    (hm : sub 0x3845120060 M = true := by exact sub_le (by assumption) (by decide)) : Kept M Q s0 (State.laneReport s n l
    c) := by
  unfold State.laneReport
  try dsimp only
  repeat' first
    | with_reducible assumption | with_reducible refine @kept_ite _ _ _ _ _ _ _ ?_ ?_
    | with_reducible refine State.bumpLates_kept ?_ _ | with_reducible refine State.lateFacets_kept ?_ _ _
    | with_reducible refine State.setStn_kept ?_ _ _ | with_reducible refine State.stnLEvent_kept ?_ _ _ ?_
    | exact all_nil_ok | refine all_cons_ok ?_ ?_ | exact ok_le hm (by decide) | exact ok_add hm (by decide)
    | exact ok_add2 hm (by decide) | exact ok_at hm (by decide) | simp only [kept_mk] | with_reducible refine Kept.parts ?_
    | with_reducible refine Kept.partsDev ?_ (Kept.devWf (m := M) (q := Q) (s0 := s0) ?_ rfl rfl rfl rfl) | dsimp only
    | split | intro _

theorem State.amBoundary_kept {M : Nat} {Q : List Instr} {s0 s : State} (hQ : Kept M Q s0 s) (n : StnId)
    (hm : sub 0x7845120060 M = true := by exact sub_le (by assumption) (by decide)) : Kept M Q s0 (State.amBoundary s n) := by
  unfold State.amBoundary
  try dsimp only
  repeat' first
    | with_reducible assumption | with_reducible refine @kept_ite _ _ _ _ _ _ _ ?_ ?_
    | with_reducible refine State.emit_kept ?_ _ | with_reducible refine State.bump_kept ?_ _ ?_
    | with_reducible refine State.stnLEvent_kept ?_ _ _ ?_ | with_reducible refine State.blankOutput_kept ?_ _
    | with_reducible refine State.spoilProgress_kept ?_ _ _ | with_reducible refine State.raiseDegLink_kept ?_ _
    | with_reducible refine State.setLanes_kept ?_ _ _ | with_reducible refine State.laneRule_kept ?_ _
    | with_reducible refine State.setStn_kept ?_ _ _ | with_reducible refine Kept.put ?_ _ _ ?_ | exact all_nil_ok
    | refine all_cons_ok ?_ ?_ | exact ok_le hm (by decide) | exact ok_add hm (by decide) | exact ok_add2 hm (by decide)
    | exact ok_at hm (by decide) | simp only [kept_mk] | with_reducible refine Kept.parts ?_
    | with_reducible refine Kept.partsDev ?_ (Kept.devWf (m := M) (q := Q) (s0 := s0) ?_ rfl rfl rfl rfl) | dsimp only | split
    | intro _

theorem State.sbError_kept {M : Nat} {Q : List Instr} {s0 s : State} (hQ : Kept M Q s0 s) (n : Nat)
    (hm : sub 0x2005000040 M = true := by exact sub_le (by assumption) (by decide)) : Kept M Q s0 (State.sbError s n) := by
  unfold State.sbError
  try dsimp only
  repeat' first
    | with_reducible assumption | with_reducible refine @kept_ite _ _ _ _ _ _ _ ?_ ?_
    | with_reducible refine State.setStn_kept ?_ _ _ | with_reducible refine State.stnLEvent_kept ?_ _ _ ?_ | exact all_nil_ok
    | refine all_cons_ok ?_ ?_ | exact ok_le hm (by decide) | exact ok_add hm (by decide) | exact ok_add2 hm (by decide)
    | exact ok_at hm (by decide) | simp only [kept_mk] | with_reducible refine Kept.parts ?_
    | with_reducible refine Kept.partsDev ?_ (Kept.devWf (m := M) (q := Q) (s0 := s0) ?_ rfl rfl rfl rfl) | dsimp only | split
    | intro _

theorem State.report_kept {M : Nat} {Q : List Instr} {s0 s t : State} (hQ : Kept M Q s0 s) (n typ arg cnt : Nat) (twice :
    Bool) (ht : State.report s n typ arg cnt twice = some t)
    (hm : sub 0x4000040 M = true := by exact sub_le (by assumption) (by decide)) : Kept M Q s0 t := by
  unfold State.report at ht
  dsimp only at ht
  split at ht
  · exact nomatch ht
  · rw [← Option.some.inj ht]
    exact State.setStn_kept (Kept.put (Kept.put hQ _ _ (ok_add hm (by decide))) _ _ (ok_add hm (by decide))) _ _

theorem State.dropCopy_kept {M : Nat} {Q : List Instr} {s0 s : State} (hQ : Kept M Q s0 s) (n : Nat)
    (hm : sub 0x4000000 M = true := by exact sub_le (by assumption) (by decide)) : Kept M Q s0 (State.dropCopy s n) := by
  unfold State.dropCopy
  try dsimp only
  repeat' first
    | with_reducible assumption | with_reducible refine @kept_ite _ _ _ _ _ _ _ ?_ ?_
    | with_reducible refine State.setStn_kept ?_ _ _

theorem State.tempReport_kept {M : Nat} {Q : List Instr} {s0 s : State} (hQ : Kept M Q s0 s) (n : Nat) (level : Nat)
    (hm : sub 0x3845120060 M = true := by exact sub_le (by assumption) (by decide)) : Kept M Q s0 (State.tempReport s n level) := by
  unfold State.tempReport
  try dsimp only
  repeat' first
    | with_reducible assumption | with_reducible refine @kept_ite _ _ _ _ _ _ _ ?_ ?_
    | with_reducible refine State.cutoffStart_kept ?_ _ | with_reducible refine State.stnEvent_kept ?_ _ _ ?_
    | with_reducible refine State.setStn_kept ?_ _ _ | with_reducible refine Kept.put ?_ _ _ ?_ | exact all_nil_ok
    | refine all_cons_ok ?_ ?_ | exact ok_le hm (by decide) | exact ok_add hm (by decide) | exact ok_add2 hm (by decide)
    | exact ok_at hm (by decide) | simp only [kept_mk] | with_reducible refine Kept.parts ?_
    | with_reducible refine Kept.partsDev ?_ (Kept.devWf (m := M) (q := Q) (s0 := s0) ?_ rfl rfl rfl rfl) | dsimp only | split
    | intro _

theorem State.markDead_kept {M : Nat} {Q : List Instr} {s0 s : State} (hQ : Kept M Q s0 s) (n : Nat) (k : Nat)
    (hm : sub 0x2001000040 M = true := by exact sub_le (by assumption) (by decide)) : Kept M Q s0 (State.markDead s n k) := by
  unfold State.markDead
  try dsimp only
  repeat' first
    | with_reducible assumption | with_reducible refine @kept_ite _ _ _ _ _ _ _ ?_ ?_
    | with_reducible refine State.stnEvent_kept ?_ _ _ ?_ | with_reducible refine Kept.put ?_ _ _ ?_ | exact all_nil_ok
    | refine all_cons_ok ?_ ?_ | exact ok_le hm (by decide) | exact ok_add hm (by decide) | exact ok_add2 hm (by decide)
    | exact ok_at hm (by decide) | simp only [kept_mk] | with_reducible refine Kept.parts ?_
    | with_reducible refine Kept.partsDev ?_ (Kept.devWf (m := M) (q := Q) (s0 := s0) ?_ rfl rfl rfl rfl) | dsimp only | split
    | intro _

theorem State.sidebandLost_kept {M : Nat} {Q : List Instr} {s0 s : State} (hQ : Kept M Q s0 s) (n : Nat)
    (hm : sub 0x3845120060 M = true := by exact sub_le (by assumption) (by decide)) : Kept M Q s0 (State.sidebandLost s n) := by
  unfold State.sidebandLost
  try dsimp only
  repeat' first
    | with_reducible assumption | with_reducible refine @kept_ite _ _ _ _ _ _ _ ?_ ?_
    | with_reducible refine State.cutoffStart_kept ?_ _ | with_reducible refine State.setStn_kept ?_ _ _
    | with_reducible refine State.stnLEvent_kept ?_ _ _ ?_ | exact all_nil_ok | refine all_cons_ok ?_ ?_
    | exact ok_le hm (by decide) | exact ok_add hm (by decide) | exact ok_add2 hm (by decide) | exact ok_at hm (by decide)
    | simp only [kept_mk] | with_reducible refine Kept.parts ?_
    | with_reducible refine Kept.partsDev ?_ (Kept.devWf (m := M) (q := Q) (s0 := s0) ?_ rfl rfl rfl rfl) | dsimp only | split
    | intro _

theorem State.setupGo_kept {M : Nat} {Q : List Instr} {s0 s : State} (hQ : Kept M Q s0 s) (n : StnId)
    (hm : sub 0x2004000040 M = true := by exact sub_le (by assumption) (by decide)) : Kept M Q s0 (State.setupGo s n) :=
    by
  unfold State.setupGo
  try dsimp only
  repeat' first
    | with_reducible assumption | with_reducible refine @kept_ite _ _ _ _ _ _ _ ?_ ?_
    | with_reducible refine State.setStn_kept ?_ _ _ | with_reducible refine State.emit_kept ?_ _
    | with_reducible refine Kept.put ?_ _ _ ?_ | exact all_nil_ok | refine all_cons_ok ?_ ?_ | exact ok_le hm (by decide)
    | exact ok_add hm (by decide) | exact ok_add2 hm (by decide) | exact ok_at hm (by decide) | simp only [kept_mk]
    | with_reducible refine Kept.parts ?_
    | with_reducible refine Kept.partsDev ?_ (Kept.devWf (m := M) (q := Q) (s0 := s0) ?_ rfl rfl rfl rfl) | dsimp only
    | split

theorem State.setupEnd_kept {M : Nat} {Q : List Instr} {s0 s : State} (hQ : Kept M Q s0 s) (n : Nat) (result : Nat)
    (hm : sub 0x2005000040 M = true := by exact sub_le (by assumption) (by decide)) : Kept M Q s0 (State.setupEnd s n
    result) := by
  unfold State.setupEnd
  try dsimp only
  repeat' first
    | with_reducible assumption | with_reducible refine @kept_ite _ _ _ _ _ _ _ ?_ ?_
    | with_reducible refine State.setStn_kept ?_ _ _ | with_reducible refine State.stnLEvent_kept ?_ _ _ ?_
    | with_reducible refine Kept.put ?_ _ _ ?_ | exact all_nil_ok | refine all_cons_ok ?_ ?_ | exact ok_le hm (by decide)
    | exact ok_add hm (by decide) | exact ok_add2 hm (by decide) | exact ok_at hm (by decide) | simp only [kept_mk]
    | with_reducible refine Kept.parts ?_
    | with_reducible refine Kept.partsDev ?_ (Kept.devWf (m := M) (q := Q) (s0 := s0) ?_ rfl rfl rfl rfl) | dsimp only
    | split | intro _

theorem State.setupFrameDone_kept {M : Nat} {Q : List Instr} {s0 s : State} (hQ : Kept M Q s0 s) (n : StnId) (ack : Bool)
    (parityOk : Bool) (data : BitVec 16) (hm : sub 0x2005000040 M = true := by exact sub_le (by assumption) (by decide)) :
    Kept M Q s0 (State.setupFrameDone s n ack parityOk data) := by
  unfold State.setupFrameDone
  try dsimp only
  repeat' first
    | with_reducible assumption | with_reducible refine @kept_ite _ _ _ _ _ _ _ ?_ ?_
    | with_reducible refine State.setupEnd_kept ?_ _ _ | with_reducible refine State.setStn_kept ?_ _ _
    | with_reducible refine State.emit_kept ?_ _ | with_reducible refine Kept.put ?_ _ _ ?_ | exact all_nil_ok
    | refine all_cons_ok ?_ ?_ | exact ok_le hm (by decide) | exact ok_add hm (by decide) | exact ok_add2 hm (by decide)
    | exact ok_at hm (by decide) | simp only [kept_mk] | with_reducible refine Kept.parts ?_
    | with_reducible refine Kept.partsDev ?_ (Kept.devWf (m := M) (q := Q) (s0 := s0) ?_ rfl rfl rfl rfl) | dsimp only
    | split

theorem State.dropProbe_kept {M : Nat} {Q : List Instr} {s0 s : State} (hQ : Kept M Q s0 s) (n : Nat)
    (hm : sub 0x4000000 M = true := by exact sub_le (by assumption) (by decide)) : Kept M Q s0 (State.dropProbe s n) := by
  unfold State.dropProbe
  try dsimp only
  repeat' first
    | with_reducible assumption | with_reducible refine @kept_ite _ _ _ _ _ _ _ ?_ ?_
    | with_reducible refine State.setStn_kept ?_ _ _ | simp only [kept_mk] | with_reducible refine Kept.parts ?_
    | with_reducible refine Kept.partsDev ?_ (Kept.devWf (m := M) (q := Q) (s0 := s0) ?_ rfl rfl rfl rfl)

theorem State.goNext_kept {M : Nat} {Q : List Instr} {s0 s : State} (hQ : Kept M Q s0 s) (n : StnId)
    (hm : sub 0x2005000040 M = true := by exact sub_le (by assumption) (by decide)) : Kept M Q s0 (State.goNext s n) := by
  unfold State.goNext
  try dsimp only
  repeat' first
    | with_reducible assumption | with_reducible refine @kept_ite _ _ _ _ _ _ _ ?_ ?_
    | with_reducible refine State.setupEnd_kept ?_ _ _ | with_reducible refine State.setStn_kept ?_ _ _
    | with_reducible refine State.emit_kept ?_ _ | simp only [kept_mk] | with_reducible refine Kept.parts ?_
    | with_reducible refine Kept.partsDev ?_ (Kept.devWf (m := M) (q := Q) (s0 := s0) ?_ rfl rfl rfl rfl) | dsimp only
    | split

theorem State.swpFrameEnd_kept {M : Nat} {Q : List Instr} {s0 s : State} (hQ : Kept M Q s0 s) (n : StnId)
    (hm : sub 0x2805000060 M = true := by exact sub_le (by assumption) (by decide)) : Kept M Q s0 (State.swpFrameEnd s n)
    := by
  unfold State.swpFrameEnd
  try dsimp only
  repeat' first
    | with_reducible assumption | with_reducible refine @kept_ite _ _ _ _ _ _ _ ?_ ?_
    | with_reducible refine State.goNext_kept ?_ _ | with_reducible refine State.arm_kept ?_ _ _
    | with_reducible refine State.setStn_kept ?_ _ _ | simp only [kept_mk] | with_reducible refine Kept.parts ?_
    | with_reducible refine Kept.partsDev ?_ (Kept.devWf (m := M) (q := Q) (s0 := s0) ?_ rfl rfl rfl rfl) | dsimp only
    | split

theorem State.setEnc_kept {M : Nat} {Q : List Instr} {s0 s : State} (hQ : Kept M Q s0 s) (e : Nat) (v : Encoder)
    (hm : sub 0x8000000 M = true := by exact sub_le (by assumption) (by decide)) : Kept M Q s0 (State.setEnc s e v) := by
  unfold State.setEnc
  try dsimp only
  repeat' first
    | with_reducible assumption | with_reducible refine @kept_ite _ _ _ _ _ _ _ ?_ ?_ | simp only [kept_mk]
    | with_reducible refine Kept.parts ?_

theorem State.follow1_kept {M : Nat} {Q : List Instr} {s0 s : State} (hQ : Kept M Q s0 s) (n : Nat) (d : ℤ)
    (hm : sub 0x3845120060 M = true := by exact sub_le (by assumption) (by decide)) : Kept M Q s0 (State.follow1 s n d) := by
  unfold State.follow1
  try dsimp only
  repeat' first
    | with_reducible assumption | with_reducible refine @kept_ite _ _ _ _ _ _ _ ?_ ?_
    | with_reducible refine State.stnLEvent_kept ?_ _ _ ?_ | with_reducible refine State.bump_kept ?_ _ ?_
    | with_reducible refine State.spoilProgress_kept ?_ _ _ | with_reducible refine State.setStn_kept ?_ _ _
    | exact all_nil_ok | refine all_cons_ok ?_ ?_ | exact ok_le hm (by decide) | exact ok_add hm (by decide)
    | exact ok_add2 hm (by decide) | exact ok_at hm (by decide) | simp only [kept_mk] | with_reducible refine Kept.parts ?_
    | with_reducible refine Kept.partsDev ?_ (Kept.devWf (m := M) (q := Q) (s0 := s0) ?_ rfl rfl rfl rfl) | dsimp only | split
    | intro _

theorem State.encChange_kept {M : Nat} {Q : List Instr} {s0 s : State} (hQ : Kept M Q s0 s) (e : Nat) (ba : BitVec 2)
    (close : Bool) (hm : sub 0x384d120060 M = true := by exact sub_le (by assumption) (by decide)) : Kept M Q s0
    (State.encChange s e ba close) := by
  unfold State.encChange
  try dsimp only
  repeat' first
    | with_reducible assumption | with_reducible refine @kept_ite _ _ _ _ _ _ _ ?_ ?_
    | with_reducible refine State.follow1_kept ?_ _ _ | with_reducible refine State.setEnc_kept ?_ _ _
    | with_reducible refine State.count_kept ?_ _ _ | with_reducible refine State.stnLEvent_kept ?_ _ _ ?_
    | with_reducible refine Kept.put ?_ _ _ ?_ | with_reducible refine kept_foldl (fun t x ht => ?_) _ _ ?_
    | with_reducible refine kept_foldl_fst (fun t x ht => ?_) _ _ ?_ | exact all_nil_ok | refine all_cons_ok ?_ ?_
    | exact ok_le hm (by decide) | exact ok_add hm (by decide) | exact ok_add2 hm (by decide) | exact ok_at hm (by decide)
    | simp only [kept_mk] | with_reducible refine Kept.parts ?_
    | with_reducible refine Kept.partsDev ?_ (Kept.devWf (m := M) (q := Q) (s0 := s0) ?_ rfl rfl rfl rfl) | dsimp only
    | split | intro _

theorem State.encLost_kept {M : Nat} {Q : List Instr} {s0 s : State} (hQ : Kept M Q s0 s) (e : Nat)
    (hm : sub 0x2009000040 M = true := by exact sub_le (by assumption) (by decide)) : Kept M Q s0 (State.encLost s e) := by
  unfold State.encLost
  try dsimp only
  repeat' first
    | with_reducible assumption | with_reducible refine @kept_ite _ _ _ _ _ _ _ ?_ ?_
    | with_reducible refine State.stnLEvent_kept ?_ _ _ ?_ | with_reducible refine State.setEnc_kept ?_ _ _
    | with_reducible refine kept_foldl (fun t x ht => ?_) _ _ ?_
    | with_reducible refine kept_foldl_fst (fun t x ht => ?_) _ _ ?_ | exact all_nil_ok | refine all_cons_ok ?_ ?_
    | exact ok_le hm (by decide) | exact ok_add hm (by decide) | exact ok_add2 hm (by decide) | exact ok_at hm (by decide)
    | simp only [kept_mk] | with_reducible refine Kept.parts ?_
    | with_reducible refine Kept.partsDev ?_ (Kept.devWf (m := M) (q := Q) (s0 := s0) ?_ rfl rfl rfl rfl) | dsimp only | split
    | intro _

theorem State.encLatch_kept {M : Nat} {Q : List Instr} {s0 s : State} (hQ : Kept M Q s0 s) (n : Nat)
    (hm : sub 0x40 M = true := by exact sub_le (by assumption) (by decide)) : Kept M Q s0 (State.encLatch s n).1 := by
  unfold State.encLatch
  try dsimp only
  repeat' first
    | with_reducible assumption | with_reducible refine @kept_ite _ _ _ _ _ _ _ ?_ ?_
    | with_reducible refine @kept_ite_fst _ _ _ _ _ _ _ _ ?_ ?_ | with_reducible refine Kept.put ?_ _ _ ?_ | exact all_nil_ok
    | refine all_cons_ok ?_ ?_ | exact ok_le hm (by decide) | exact ok_add hm (by decide)

end Sys2Proof.Machine
end

