-- ==== Sys2Proof/Laws/KeptDescOps.lean ====
section
/-! SUPPORT. What the definitions of Machine/DescOps.lean keep: one lemma `<name>_kept` for each (Laws/Kept.lean). -/

-- Proof bodies are elaborated in order: elaborated in parallel they wait on one another, each in a thread of its own.
set_option Elab.async false

namespace Sys2Proof.Machine
open Sys2Proof

theorem State.holdFlight_kept {M : Nat} {Q : List Instr} {s0 s : State} (hQ : Kept M Q s0 s) (i : Nat) (f : Flight)
    (hm : sub 0x2000000 M = true := by exact sub_le (by assumption) (by decide)) : Kept M Q s0 (State.holdFlight s i f) := by
  unfold State.holdFlight
  try dsimp only
  repeat' first
    | with_reducible assumption | with_reducible refine @kept_ite _ _ _ _ _ _ _ ?_ ?_
    | with_reducible refine State.setFlight_kept ?_ _ _

theorem State.placed_kept {M : Nat} {Q : List Instr} {s0 s : State} (hQ : Kept M Q s0 s) (i : Nat) (f : Flight)
    (hm : sub 0x2000000 M = true := by exact sub_le (by assumption) (by decide)) : Kept M Q s0 (State.placed s i f) := by
  unfold State.placed
  try dsimp only
  repeat' first
    | with_reducible assumption | with_reducible refine @kept_ite _ _ _ _ _ _ _ ?_ ?_
    | with_reducible refine State.setFlight_kept ?_ _ _ | with_reducible refine State.fixFlight_kept ?_ _ _
    | simp only [kept_mk] | with_reducible refine Kept.parts ?_
    | with_reducible refine Kept.partsDev ?_ (Kept.devWf (m := M) (q := Q) (s0 := s0) ?_ rfl rfl rfl rfl) | dsimp only | split

theorem State.placeWrite_kept {M : Nat} {Q : List Instr} {s0 s : State} (hQ : Kept M Q s0 s) (i : Nat) (f : Flight)
    (hm : sub 0x3803120060 M = true := by exact sub_le (by assumption) (by decide)) : Kept M Q s0 (State.placeWrite s i f) := by
  unfold State.placeWrite
  try dsimp only
  repeat' first
    | with_reducible assumption | with_reducible refine @kept_ite _ _ _ _ _ _ _ ?_ ?_
    | with_reducible refine State.placed_kept ?_ _ _ | with_reducible refine State.writeBytes_kept ?_ _ _ _ _
    | with_reducible refine State.holdFlight_kept ?_ _ _

theorem State.placeW18_kept {M : Nat} {Q : List Instr} {s0 s : State} (hQ : Kept M Q s0 s) (i : Nat) (f : Flight)
    (hm : sub 0x3803120060 M = true := by exact sub_le (by assumption) (by decide)) : Kept M Q s0 (State.placeW18 s i f) := by
  unfold State.placeW18
  try dsimp only
  repeat' first
    | with_reducible assumption | with_reducible refine @kept_ite _ _ _ _ _ _ _ ?_ ?_
    | with_reducible refine State.placed_kept ?_ _ _ | with_reducible refine State.writeW18s_kept _ ?_ _ _ _
    | with_reducible refine State.holdFlight_kept ?_ _ _

theorem State.toHost_kept {M : Nat} {Q : List Instr} {s0 s : State} (hQ : Kept M Q s0 s) (h : PHost) (addr : Nat) (bs : List
    Byte) (hm : sub 0x2001000000 M = true := by exact sub_le (by assumption) (by decide)) : Kept M Q s0 (State.toHost s h addr
    bs) := by
  unfold State.toHost
  try dsimp only
  repeat' first
    | with_reducible assumption | with_reducible refine @kept_ite _ _ _ _ _ _ _ ?_ ?_
    | with_reducible refine State.leaveL1_kept ?_ _ | with_reducible refine State.emit_kept ?_ _

theorem State.doRead_kept {M : Nat} {Q : List Instr} {s0 s : State} (hQ : Kept M Q s0 s) (i : Nat) (f : Flight)
    (hm : sub 0x3803120060 M = true := by exact sub_le (by assumption) (by decide)) : Kept M Q s0 (State.doRead s i f) := by
  unfold State.doRead
  try dsimp only
  repeat' first
    | with_reducible assumption | with_reducible refine @kept_ite _ _ _ _ _ _ _ ?_ ?_
    | with_reducible refine State.toHost_kept ?_ _ _ _ | with_reducible refine State.fixFlight_kept ?_ _ _
    | with_reducible refine State.readBytes_kept ?_ _ _ _ | with_reducible refine State.holdFlight_kept ?_ _ _

theorem State.doReadW18_kept {M : Nat} {Q : List Instr} {s0 s : State} (hQ : Kept M Q s0 s) (i : Nat) (f : Flight)
    (hm : sub 0x3803120060 M = true := by exact sub_le (by assumption) (by decide)) : Kept M Q s0 (State.doReadW18 s i f) := by
  unfold State.doReadW18
  try dsimp only
  repeat' first
    | with_reducible assumption | with_reducible refine @kept_ite _ _ _ _ _ _ _ ?_ ?_
    | with_reducible refine State.toHost_kept ?_ _ _ _ | with_reducible refine State.fixFlight_kept ?_ _ _
    | with_reducible refine State.readW18s_kept _ ?_ _ _ | with_reducible refine State.holdFlight_kept ?_ _ _

theorem State.doCopy_kept {M : Nat} {Q : List Instr} {s0 s : State} (hQ : Kept M Q s0 s) (i : Nat) (f : Flight)
    (hm : sub 0x3803120060 M = true := by exact sub_le (by assumption) (by decide)) : Kept M Q s0 (State.doCopy s i f) := by
  unfold State.doCopy
  try dsimp only
  repeat' first
    | with_reducible assumption | with_reducible refine @kept_ite _ _ _ _ _ _ _ ?_ ?_
    | with_reducible refine State.poisonBytes_kept ?_ _ _ | with_reducible refine State.fixFlight_kept ?_ _ _
    | with_reducible refine State.writeBytes_kept ?_ _ _ _ _ | with_reducible refine State.readMarked_kept ?_ _ _ _
    | with_reducible refine State.holdFlight_kept ?_ _ _

theorem State.doFill_kept {M : Nat} {Q : List Instr} {s0 s : State} (hQ : Kept M Q s0 s) (i : Nat) (f : Flight)
    (hm : sub 0x3803120060 M = true := by exact sub_le (by assumption) (by decide)) : Kept M Q s0 (State.doFill s i f) := by
  unfold State.doFill
  try dsimp only
  repeat' first
    | with_reducible assumption | with_reducible refine @kept_ite _ _ _ _ _ _ _ ?_ ?_
    | with_reducible refine State.writeBytes_kept ?_ _ _ _ _ | with_reducible refine State.wipeCws_kept _ ?_ _
    | with_reducible refine State.fixFlight_kept ?_ _ _ | with_reducible refine State.holdFlight_kept ?_ _ _

theorem State.dirtyTable_kept {M : Nat} {Q : List Instr} {s0 s : State} (hQ : Kept M Q s0 s) (d : Desc)
    (hm : sub 0x4000000 M = true := by exact sub_le (by assumption) (by decide)) : Kept M Q s0 (State.dirtyTable s d) := by
  unfold State.dirtyTable
  try dsimp only
  repeat' first
    | with_reducible assumption | with_reducible refine @kept_ite _ _ _ _ _ _ _ ?_ ?_
    | with_reducible refine State.setStn_kept ?_ _ _

theorem State.placeTable_kept {M : Nat} {Q : List Instr} {s0 s : State} (hQ : Kept M Q s0 s) (i : Nat) (f : Flight)
    (hm : sub 0x6000000 M = true := by exact sub_le (by assumption) (by decide)) : Kept M Q s0 (State.placeTable s i f) := by
  unfold State.placeTable
  try dsimp only
  repeat' first
    | with_reducible assumption | with_reducible refine @kept_ite _ _ _ _ _ _ _ ?_ ?_
    | with_reducible refine State.setFlight_kept ?_ _ _ | with_reducible refine State.dirtyTable_kept ?_ _
    | with_reducible refine State.fixFlight_kept ?_ _ _ | with_reducible refine State.setStn_kept ?_ _ _
    | with_reducible refine State.holdFlight_kept ?_ _ _ | simp only [kept_mk] | with_reducible refine Kept.parts ?_
    | with_reducible refine Kept.partsDev ?_ (Kept.devWf (m := M) (q := Q) (s0 := s0) ?_ rfl rfl rfl rfl) | dsimp only | split

theorem State.swapCheck_kept {M : Nat} {Q : List Instr} {s0 s : State} (hQ : Kept M Q s0 s) (i : Nat) (f : Flight) (t : Nat)
    (hm : sub 0x2007000040 M = true := by exact sub_le (by assumption) (by decide)) : Kept M Q s0 (State.swapCheck s i f t) := by
  unfold State.swapCheck
  try dsimp only
  repeat' first
    | with_reducible assumption | with_reducible refine @kept_ite _ _ _ _ _ _ _ ?_ ?_
    | with_reducible refine State.swapNow_kept ?_ _ _ | with_reducible refine State.setFlight_kept ?_ _ _
    | with_reducible refine State.fixFlight_kept ?_ _ _ | with_reducible refine State.stnEvent_kept ?_ _ _ ?_
    | exact all_nil_ok | refine all_cons_ok ?_ ?_ | exact ok_le hm (by decide) | exact ok_add hm (by decide)
    | exact ok_add2 hm (by decide) | exact ok_at hm (by decide) | simp only [kept_mk] | with_reducible refine Kept.parts ?_
    | with_reducible refine Kept.partsDev ?_ (Kept.devWf (m := M) (q := Q) (s0 := s0) ?_ rfl rfl rfl rfl) | dsimp only | split
    | intro _

theorem State.holdLedger_kept {M : Nat} {Q : List Instr} {s0 s : State} (hQ : Kept M Q s0 s) (i : Nat) (f : Flight)
    (hm : sub 0x42000000 M = true := by exact sub_le (by assumption) (by decide)) : Kept M Q s0 (State.holdLedger s i f)
    := by
  unfold State.holdLedger
  try dsimp only
  repeat' first
    | with_reducible assumption | with_reducible refine @kept_ite _ _ _ _ _ _ _ ?_ ?_
    | with_reducible refine State.holdFlight_kept ?_ _ _ | simp only [kept_mk] | with_reducible refine Kept.parts ?_
    | with_reducible refine Kept.partsDev ?_ (Kept.devWf (m := M) (q := Q) (s0 := s0) ?_ rfl rfl rfl rfl) | dsimp only
    | split

theorem State.doOpen_kept {M : Nat} {Q : List Instr} {s0 s : State} (hQ : Kept M Q s0 s) (i : Nat) (f : Flight)
    (hm : sub 0x3843120060 M = true := by exact sub_le (by assumption) (by decide)) : Kept M Q s0 (State.doOpen s i f) :=
    by
  unfold State.doOpen
  try dsimp only
  repeat' first
    | with_reducible assumption | with_reducible refine @kept_ite _ _ _ _ _ _ _ ?_ ?_
    | with_reducible refine State.holdLedger_kept ?_ _ _ | with_reducible refine State.holdFlight_kept ?_ _ _
    | with_reducible refine State.meetRec_kept ?_ _ | with_reducible refine State.setRecord_kept ?_ _ _
    | with_reducible refine State.fixFlight_kept ?_ _ _ | with_reducible refine State.ledEvent_kept ?_ _ ?_
    | with_reducible refine Kept.put ?_ _ _ ?_ | exact all_nil_ok | refine all_cons_ok ?_ ?_ | exact ok_le hm (by decide)
    | exact ok_add hm (by decide) | exact ok_add2 hm (by decide) | exact ok_at hm (by decide) | simp only [kept_mk]
    | with_reducible refine Kept.parts ?_
    | with_reducible refine Kept.partsDev ?_ (Kept.devWf (m := M) (q := Q) (s0 := s0) ?_ rfl rfl rfl rfl) | dsimp only
    | split

theorem State.stageStamp_kept {M : Nat} {Q : List Instr} {s0 s t : State} (hQ : Kept M Q s0 s) (r code mask : Nat) (ht :
    State.stageStamp s r code mask = some t) (hm : sub 0x2841120040 M = true := by exact sub_le (by assumption) (by decide)) :
    Kept M Q s0 t := by
  unfold State.stageStamp at ht
  dsimp only at ht
  split at ht
  · split at ht
    · rw [← Option.some.inj ht]
      exact State.stampImaged_kept hQ _ _ _
    · exact nomatch ht
  · split at ht
    · split at ht
      · rw [← Option.some.inj ht]
        exact State.stampSpoil_kept hQ _ _ _
      · exact nomatch ht
    · split at ht
      · split at ht
        · rw [← Option.some.inj ht]
          exact State.stampVoid_kept hQ _ _
        · exact nomatch ht
      · split at ht
        · rw [← Option.some.inj ht]
          exact State.stampProgress_kept hQ _ _ _
        · exact nomatch ht

theorem State.doStage_kept {M : Nat} {Q : List Instr} {s0 s : State} (hQ : Kept M Q s0 s) (i : Nat) (f : Flight)
    (hm : sub 0x3843120060 M = true := by exact sub_le (by assumption) (by decide)) : Kept M Q s0 (State.doStage s i f) :=
    by
  unfold State.doStage
  try dsimp only
  repeat' first
    | with_reducible assumption | with_reducible refine @kept_ite _ _ _ _ _ _ _ ?_ ?_
    | with_reducible refine State.stageStamp_kept ?_ _ _ _ _ | with_reducible refine State.holdLedger_kept ?_ _ _
    | with_reducible refine State.holdFlight_kept ?_ _ _ | with_reducible refine State.meetRec_kept ?_ _
    | with_reducible refine State.fixFlight_kept ?_ _ _ | simp only [kept_mk] | with_reducible refine Kept.parts ?_
    | with_reducible refine Kept.partsDev ?_ (Kept.devWf (m := M) (q := Q) (s0 := s0) ?_ rfl rfl rfl rfl) | dsimp only
    | split | with_reducible exact State.stageStamp_kept hQ _ _ _ (by assumption)
    | with_reducible exact State.stageStamp_kept (State.meetRec_kept hQ _) _ _ _ (by assumption)

theorem State.doQuery_kept {M : Nat} {Q : List Instr} {s0 s : State} (hQ : Kept M Q s0 s) (i : Nat) (f : Flight)
    (hm : sub 0x3803120060 M = true := by exact sub_le (by assumption) (by decide)) : Kept M Q s0 (State.doQuery s i f) :=
    by
  unfold State.doQuery
  try dsimp only
  repeat' first
    | with_reducible assumption | with_reducible refine @kept_ite _ _ _ _ _ _ _ ?_ ?_
    | with_reducible refine State.toHost_kept ?_ _ _ _ | with_reducible refine State.holdFlight_kept ?_ _ _
    | with_reducible refine State.meetRec_kept ?_ _ | with_reducible refine State.fixFlight_kept ?_ _ _ | simp only [kept_mk]
    | with_reducible refine Kept.parts ?_
    | with_reducible refine Kept.partsDev ?_ (Kept.devWf (m := M) (q := Q) (s0 := s0) ?_ rfl rfl rfl rfl) | dsimp only
    | split

theorem State.doCounters_kept {M : Nat} {Q : List Instr} {s0 s : State} (hQ : Kept M Q s0 s) (i : Nat) (f : Flight)
    (hm : sub 0x2003000000 M = true := by exact sub_le (by assumption) (by decide)) : Kept M Q s0 (State.doCounters s i f) := by
  unfold State.doCounters
  try dsimp only
  repeat' first
    | with_reducible assumption | with_reducible refine @kept_ite _ _ _ _ _ _ _ ?_ ?_
    | with_reducible refine State.toHost_kept ?_ _ _ _ | with_reducible refine State.fixFlight_kept ?_ _ _
    | with_reducible refine State.holdFlight_kept ?_ _ _

theorem State.doKeepRead_kept {M : Nat} {Q : List Instr} {s0 s : State} (hQ : Kept M Q s0 s) (i : Nat) (f : Flight)
    (hm : sub 0x2003000000 M = true := by exact sub_le (by assumption) (by decide)) : Kept M Q s0 (State.doKeepRead s i f) := by
  unfold State.doKeepRead
  try dsimp only
  repeat' first
    | with_reducible assumption | with_reducible refine @kept_ite _ _ _ _ _ _ _ ?_ ?_
    | with_reducible refine State.toHost_kept ?_ _ _ _ | with_reducible refine State.fixFlight_kept ?_ _ _
    | with_reducible refine State.setFlight_kept ?_ _ _

theorem State.doGet_kept {M : Nat} {Q : List Instr} {s0 s : State} (hQ : Kept M Q s0 s) (i : Nat) (f : Flight)
    (hm : sub 0x2003000000 M = true := by exact sub_le (by assumption) (by decide)) : Kept M Q s0 (State.doGet s i f) :=
    by
  unfold State.doGet
  try dsimp only
  repeat' first
    | with_reducible assumption | with_reducible refine @kept_ite _ _ _ _ _ _ _ ?_ ?_
    | with_reducible refine State.toHost_kept ?_ _ _ _ | with_reducible refine State.fixFlight_kept ?_ _ _
    | with_reducible refine State.setFlight_kept ?_ _ _ | simp only [kept_mk] | with_reducible refine Kept.parts ?_
    | with_reducible refine Kept.partsDev ?_ (Kept.devWf (m := M) (q := Q) (s0 := s0) ?_ rfl rfl rfl rfl) | dsimp only
    | split

theorem State.doKeepWrite_kept {M : Nat} {Q : List Instr} {s0 s : State} (hQ : Kept M Q s0 s) (i : Nat) (f : Flight)
    (hm : sub 0x22000000 M = true := by exact sub_le (by assumption) (by decide)) : Kept M Q s0 (State.doKeepWrite s i f) := by
  unfold State.doKeepWrite
  try dsimp only
  repeat' first
    | with_reducible assumption | with_reducible refine @kept_ite _ _ _ _ _ _ _ ?_ ?_
    | with_reducible refine State.writeHot_kept ?_ _ _ | with_reducible refine State.setFlight_kept ?_ _ _
    | with_reducible refine State.fixFlight_kept ?_ _ _ | simp only [kept_mk] | with_reducible refine Kept.parts ?_
    | with_reducible refine Kept.partsDev ?_ (Kept.devWf (m := M) (q := Q) (s0 := s0) ?_ rfl rfl rfl rfl) | dsimp only | split

theorem State.keepBegin_kept {M : Nat} {Q : List Instr} {s0 s : State} (hQ : Kept M Q s0 s) (i : Nat) (f : Flight)
    (hm : sub 0x32000000 M = true := by exact sub_le (by assumption) (by decide)) : Kept M Q s0 (State.keepBegin s i f) := by
  unfold State.keepBegin
  try dsimp only
  repeat' first
    | with_reducible assumption | with_reducible refine @kept_ite _ _ _ _ _ _ _ ?_ ?_
    | with_reducible refine State.pageStart_kept ?_ _ _ _ | with_reducible refine State.setFlight_kept ?_ _ _

theorem State.moveStart_kept {M : Nat} {Q : List Instr} {s0 s : State} (hQ : Kept M Q s0 s) (i : Nat) (f : Flight)
    (hm : sub 0x802820060 M = true := by exact sub_le (by assumption) (by decide)) : Kept M Q s0 (State.moveStart s i f) := by
  unfold State.moveStart
  try dsimp only
  repeat' first
    | with_reducible assumption | with_reducible refine @kept_ite _ _ _ _ _ _ _ ?_ ?_
    | with_reducible refine State.fixFlight_kept ?_ _ _ | with_reducible refine State.yieldWindow_kept ?_ _
    | with_reducible refine State.setFlight_kept ?_ _ _ | with_reducible refine State.setRstate_kept ?_ _ _
    | with_reducible refine State.clearRegion_kept ?_ _ | with_reducible refine Kept.put ?_ _ _ ?_
    | with_reducible refine Kept.setReg ?_ _ _ ?_ | exact all_nil_ok | refine all_cons_ok ?_ ?_ | exact ok_le hm (by decide)
    | exact ok_add hm (by decide) | exact ok_add2 hm (by decide) | exact ok_at hm (by decide) | simp only [kept_mk]
    | with_reducible refine Kept.parts ?_
    | with_reducible refine Kept.partsDev ?_ (Kept.devWf (m := M) (q := Q) (s0 := s0) ?_ rfl rfl rfl rfl) | dsimp only | split

theorem State.undo_kept {M : Nat} {Q : List Instr} {s0 s : State} (hQ : Kept M Q s0 s) (i : Nat) (f : Flight)
    (hm : sub 0x3805920060 M = true := by exact sub_le (by assumption) (by decide)) : Kept M Q s0 (State.undo s i f) := by
  unfold State.undo
  try dsimp only
  repeat' first
    | with_reducible assumption | with_reducible refine @kept_ite _ _ _ _ _ _ _ ?_ ?_
    | with_reducible refine State.dirtyTable_kept ?_ _ | with_reducible refine State.rasterWithdraw_kept ?_ _
    | with_reducible refine State.dropMove_kept ?_ _ | simp only [kept_mk] | with_reducible refine Kept.parts ?_
    | with_reducible refine Kept.partsDev ?_ (Kept.devWf (m := M) (q := Q) (s0 := s0) ?_ rfl rfl rfl rfl) | dsimp only
    | split

theorem State.stopFlight_kept {M : Nat} {Q : List Instr} {s0 s : State} (hQ : Kept M Q s0 s) (i : Nat) (f : Flight) (st :
    Byte) (hm : sub 0x3807920060 M = true := by exact sub_le (by assumption) (by decide)) : Kept M Q s0 (State.stopFlight
    s i f st) := by
  unfold State.stopFlight
  try dsimp only
  repeat' first
    | with_reducible assumption | with_reducible refine @kept_ite _ _ _ _ _ _ _ ?_ ?_
    | with_reducible refine State.undo_kept ?_ _ _ | with_reducible refine State.fixFlight_kept ?_ _ _ | simp only [kept_mk]
    | with_reducible refine Kept.parts ?_
    | with_reducible refine Kept.partsDev ?_ (Kept.devWf (m := M) (q := Q) (s0 := s0) ?_ rfl rfl rfl rfl)

theorem State.doAbort_kept {M : Nat} {Q : List Instr} {s0 s : State} (hQ : Kept M Q s0 s) (i : Nat) (f : Flight)
    (hm : sub 0x3807920060 M = true := by exact sub_le (by assumption) (by decide)) : Kept M Q s0 (State.doAbort s i f) := by
  unfold State.doAbort
  try dsimp only
  repeat' first
    | with_reducible assumption | with_reducible refine @kept_ite _ _ _ _ _ _ _ ?_ ?_
    | with_reducible refine State.stopFlight_kept ?_ _ _ _ | with_reducible refine State.fixFlight_kept ?_ _ _
    | simp only [kept_mk] | with_reducible refine Kept.parts ?_
    | with_reducible refine Kept.partsDev ?_ (Kept.devWf (m := M) (q := Q) (s0 := s0) ?_ rfl rfl rfl rfl) | dsimp only | split

theorem State.waitExpired_kept {M : Nat} {Q : List Instr} {s0 s : State} (hQ : Kept M Q s0 s) (h : PHost) (j : Ring) (tag :
    BitVec 16) (hm : sub 0x3807920060 M = true := by exact sub_le (by assumption) (by decide)) : Kept M Q s0
    (State.waitExpired s h j tag) := by
  unfold State.waitExpired
  try dsimp only
  repeat' first
    | with_reducible assumption | with_reducible refine @kept_ite _ _ _ _ _ _ _ ?_ ?_
    | with_reducible refine State.stopFlight_kept ?_ _ _ _ | simp only [kept_mk] | with_reducible refine Kept.parts ?_
    | with_reducible refine Kept.partsDev ?_ (Kept.devWf (m := M) (q := Q) (s0 := s0) ?_ rfl rfl rfl rfl) | dsimp only | split

theorem State.doRaster_kept {M : Nat} {Q : List Instr} {s0 s : State} (hQ : Kept M Q s0 s) (i : Nat) (f : Flight)
    (hm : sub 0x3807920060 M = true := by exact sub_le (by assumption) (by decide)) : Kept M Q s0 (State.doRaster s i f)
    := by
  unfold State.doRaster
  try dsimp only
  repeat' first
    | with_reducible assumption | with_reducible refine @kept_ite _ _ _ _ _ _ _ ?_ ?_
    | with_reducible refine State.stopFlight_kept ?_ _ _ _ | with_reducible refine State.holdFlight_kept ?_ _ _
    | with_reducible refine State.rasterAccept_kept ?_ _ _ | with_reducible refine State.fixFlight_kept ?_ _ _
    | with_reducible refine State.setFlight_kept ?_ _ _ | simp only [kept_mk] | with_reducible refine Kept.parts ?_
    | with_reducible refine Kept.partsDev ?_ (Kept.devWf (m := M) (q := Q) (s0 := s0) ?_ rfl rfl rfl rfl) | dsimp only
    | split

theorem State.loseFlight_kept {M : Nat} {Q : List Instr} {s0 s : State} (hQ : Kept M Q s0 s) (i : Nat) (f : Flight) (a :
    Nat) (hm : sub 0x3807920060 M = true := by exact sub_le (by assumption) (by decide)) : Kept M Q s0 (State.loseFlight s
    i f a) := by
  unfold State.loseFlight
  try dsimp only
  repeat' first
    | with_reducible assumption | with_reducible refine @kept_ite _ _ _ _ _ _ _ ?_ ?_
    | with_reducible refine State.undo_kept ?_ _ _ | with_reducible refine State.fixFlight_kept ?_ _ _ | simp only [kept_mk]
    | with_reducible refine Kept.parts ?_
    | with_reducible refine Kept.partsDev ?_ (Kept.devWf (m := M) (q := Q) (s0 := s0) ?_ rfl rfl rfl rfl)

theorem State.advance_kept {M : Nat} {Q : List Instr} {s0 s : State} (hQ : Kept M Q s0 s) (i : Nat)
    (hm : sub 0x3a6792007e M = true := by exact sub_le (by assumption) (by decide)) : Kept M Q s0 (State.advance s i) :=
    by
  unfold State.advance
  try dsimp only
  repeat' first
    | with_reducible assumption | with_reducible refine @kept_ite _ _ _ _ _ _ _ ?_ ?_
    | with_reducible refine State.loseFlight_kept ?_ _ _ _ | with_reducible refine State.doRaster_kept ?_ _ _
    | with_reducible refine State.doAbort_kept ?_ _ _ | with_reducible refine State.moveStart_kept ?_ _ _
    | with_reducible refine State.doKeepWrite_kept ?_ _ _ | with_reducible refine State.doGet_kept ?_ _ _
    | with_reducible refine State.doKeepRead_kept ?_ _ _ | with_reducible refine State.doCounters_kept ?_ _ _
    | with_reducible refine State.doQuery_kept ?_ _ _ | with_reducible refine State.doStage_kept ?_ _ _
    | with_reducible refine State.doOpen_kept ?_ _ _ | with_reducible refine State.placeTable_kept ?_ _ _
    | with_reducible refine State.doFill_kept ?_ _ _ | with_reducible refine State.doCopy_kept ?_ _ _
    | with_reducible refine State.doReadW18_kept ?_ _ _ | with_reducible refine State.doRead_kept ?_ _ _
    | with_reducible refine State.placeW18_kept ?_ _ _ | with_reducible refine State.placeWrite_kept ?_ _ _
    | with_reducible refine State.timeSet_kept ?_ _ | with_reducible refine State.swapNow_kept ?_ _ _
    | with_reducible refine State.fixFlight_kept ?_ _ _ | with_reducible refine State.setFlight_kept ?_ _ _
    | simp only [kept_mk] | with_reducible refine Kept.parts ?_
    | with_reducible refine Kept.partsDev ?_ (Kept.devWf (m := M) (q := Q) (s0 := s0) ?_ rfl rfl rfl rfl) | dsimp only
    | split

theorem State.advanceAll_kept {M : Nat} {Q : List Instr} {s0 s : State} (hQ : Kept M Q s0 s)
    (hm : sub 0x3a6792007e M = true := by exact sub_le (by assumption) (by decide)) : Kept M Q s0 (State.advanceAll s) := by
  unfold State.advanceAll
  try dsimp only
  repeat' first
    | with_reducible assumption | with_reducible refine @kept_ite _ _ _ _ _ _ _ ?_ ?_
    | with_reducible refine State.advance_kept ?_ _ | with_reducible refine kept_foldl (fun t x ht => ?_) _ _ ?_

theorem State.askData_kept {M : Nat} {Q : List Instr} {s0 s : State} (hQ : Kept M Q s0 s) (i : Nat)
    (hm : sub 0x2003000000 M = true := by exact sub_le (by assumption) (by decide)) : Kept M Q s0 (State.askData s i) :=
    by
  unfold State.askData
  try dsimp only
  repeat' first
    | with_reducible assumption | with_reducible refine @kept_ite _ _ _ _ _ _ _ ?_ ?_
    | with_reducible refine State.leaveL1_kept ?_ _ | with_reducible refine State.setFlight_kept ?_ _ _
    | with_reducible refine State.emit_kept ?_ _ | simp only [kept_mk] | with_reducible refine Kept.parts ?_
    | with_reducible refine Kept.partsDev ?_ (Kept.devWf (m := M) (q := Q) (s0 := s0) ?_ rfl rfl rfl rfl) | dsimp only
    | split

theorem State.askAll_kept {M : Nat} {Q : List Instr} {s0 s : State} (hQ : Kept M Q s0 s)
    (hm : sub 0x2003000000 M = true := by exact sub_le (by assumption) (by decide)) : Kept M Q s0 (State.askAll s) := by
  unfold State.askAll
  try dsimp only
  repeat' first
    | with_reducible assumption | with_reducible refine @kept_ite _ _ _ _ _ _ _ ?_ ?_
    | with_reducible refine State.askData_kept ?_ _ | with_reducible refine kept_foldl (fun t x ht => ?_) _ _ ?_
    | with_reducible refine kept_foldl_fst (fun t x ht => ?_) _ _ ?_

theorem State.settle_kept {M : Nat} {Q : List Instr} {s0 s : State} (hQ : Kept M Q s0 s)
    (hm : sub 0x3a6792007e M = true := by exact sub_le (by assumption) (by decide)) : Kept M Q s0 (State.settle s) := by
  unfold State.settle
  try dsimp only
  repeat' first
    | with_reducible assumption | with_reducible refine @kept_ite _ _ _ _ _ _ _ ?_ ?_
    | with_reducible refine State.askAll_kept ?_ | with_reducible refine State.advanceAll_kept ?_
    | with_reducible refine State.issueFetches_kept ?_ _ | with_reducible refine State.retireAll_kept ?_

theorem State.advanceHead_kept {M : Nat} {Q : List Instr} {s0 s : State} (hQ : Kept M Q s0 s) (h : PHost) (j : Ring)
    (hm : sub 0x1000060 M = true := by exact sub_le (by assumption) (by decide)) : Kept M Q s0 (State.advanceHead s h j) := by
  unfold State.advanceHead
  try dsimp only
  repeat' first
    | with_reducible assumption | with_reducible refine @kept_ite _ _ _ _ _ _ _ ?_ ?_
    | with_reducible refine State.setFetching_kept ?_ _ _ _ | with_reducible refine Kept.put ?_ _ _ ?_ | exact all_nil_ok
    | refine all_cons_ok ?_ ?_ | exact ok_le hm (by decide) | exact ok_add hm (by decide) | exact ok_add2 hm (by decide)

theorem State.flightUpsets_kept {M : Nat} {Q : List Instr} {s0 s : State} (hQ : Kept M Q s0 s) (f : Flight) (ups : List
    Upset) (hm : sub 0x20000 M = true := by exact sub_le (by assumption) (by decide)) : Kept M Q s0 (State.flightUpsets s
    f ups) := by
  unfold State.flightUpsets
  try dsimp only
  repeat' first
    | with_reducible assumption | with_reducible refine @kept_ite _ _ _ _ _ _ _ ?_ ?_
    | with_reducible refine State.upsets_kept ?_ _ _ _ | with_reducible refine kept_foldl (fun t x ht => ?_) _ _ ?_
    | with_reducible refine kept_foldl_fst (fun t x ht => ?_) _ _ ?_ | dsimp only | split

theorem State.stageData_kept {M : Nat} {Q : List Instr} {s0 s : State} (hQ : Kept M Q s0 s) (f : Flight) (p : PadTraffic)
    (hm : sub 0x2801000060 M = true := by exact sub_le (by assumption) (by decide)) : Kept M Q s0 (State.stageData s f
    p).1 := by
  unfold State.stageData
  try dsimp only
  repeat' first
    | with_reducible assumption | with_reducible refine @kept_ite _ _ _ _ _ _ _ ?_ ?_
    | with_reducible refine @kept_ite_fst _ _ _ _ _ _ _ _ ?_ ?_ | with_reducible refine State.padWrites_kept ?_ _
    | with_reducible refine State.arrEvent_kept ?_ _ _ ?_ | exact all_nil_ok | refine all_cons_ok ?_ ?_
    | exact ok_le hm (by decide) | exact ok_add hm (by decide) | exact ok_add2 hm (by decide) | exact ok_at hm (by decide)
    | simp only [kept_mk] | with_reducible refine Kept.parts ?_
    | with_reducible refine Kept.partsDev ?_ (Kept.devWf (m := M) (q := Q) (s0 := s0) ?_ rfl rfl rfl rfl) | dsimp only
    | split

theorem State.takeData_kept {M : Nat} {Q : List Instr} {s0 s : State} (hQ : Kept M Q s0 s) (i : Nat) (f : Flight) (data :
    HostData) (ups : List Upset) (pads : PadTraffic)
    (hm : sub 0x2803020060 M = true := by exact sub_le (by assumption) (by decide)) : Kept M Q s0 (State.takeData s i f
    data ups pads) := by
  unfold State.takeData
  try dsimp only
  repeat' first
    | with_reducible assumption | with_reducible refine @kept_ite _ _ _ _ _ _ _ ?_ ?_
    | with_reducible refine State.stageData_kept ?_ _ _ | with_reducible refine State.flightUpsets_kept ?_ _ _
    | with_reducible refine State.dataFailed_kept ?_ _ _ | with_reducible refine State.setFlight_kept ?_ _ _ | dsimp only
    | split

theorem State.descArrive_kept {M : Nat} {Q : List Instr} {s0 s : State} (hQ : Kept M Q s0 s) (h : PHost) (j : Ring) (op :
    Opcode) (d : Desc) (data : HostData) (ups : List Upset) (pads : PadTraffic)
    (hm : sub 0x3a6792007e M = true := by exact sub_le (by assumption) (by decide)) : Kept M Q s0 (State.descArrive s h j
    op d data ups pads) := by
  unfold State.descArrive
  try dsimp only
  repeat' first
    | with_reducible assumption | with_reducible refine @kept_ite _ _ _ _ _ _ _ ?_ ?_
    | with_reducible refine State.takeData_kept ?_ _ _ _ _ _ | with_reducible refine State.stageData_kept ?_ _ _
    | with_reducible refine State.flightUpsets_kept ?_ _ _ | with_reducible refine State.advanceHead_kept ?_ _ _
    | with_reducible refine State.settle_kept ?_ | with_reducible refine State.askData_kept ?_ _
    | with_reducible refine State.advance_kept ?_ _ | simp only [kept_mk] | with_reducible refine Kept.parts ?_
    | with_reducible refine Kept.partsDev ?_ (Kept.devWf (m := M) (q := Q) (s0 := s0) ?_ rfl rfl rfl rfl) | dsimp only
    | split

theorem State.hostData_kept {M : Nat} {Q : List Instr} {s0 s : State} (hQ : Kept M Q s0 s) (h : PHost) (j : Ring) (tag :
    BitVec 16) (data : HostData) (ups : List Upset) (pads : PadTraffic)
    (hm : sub 0x3a6792007e M = true := by exact sub_le (by assumption) (by decide)) : Kept M Q s0 (State.hostData s h j
    tag data ups pads) := by
  unfold State.hostData
  try dsimp only
  repeat' first
    | with_reducible assumption | with_reducible refine @kept_ite _ _ _ _ _ _ _ ?_ ?_
    | with_reducible refine State.takeData_kept ?_ _ _ _ _ _ | with_reducible refine State.settle_kept ?_
    | simp only [kept_mk] | with_reducible refine Kept.parts ?_
    | with_reducible refine Kept.partsDev ?_ (Kept.devWf (m := M) (q := Q) (s0 := s0) ?_ rfl rfl rfl rfl) | dsimp only
    | split

theorem State.hostTimeout_kept {M : Nat} {Q : List Instr} {s0 s : State} (hQ : Kept M Q s0 s) (h : PHost) (j : Ring) (tag
    : BitVec 16) (lost : Bool) (hm : sub 0x3a6792007e M = true := by exact sub_le (by assumption) (by decide)) : Kept M Q
    s0 (State.hostTimeout s h j tag lost) := by
  unfold State.hostTimeout
  try dsimp only
  repeat' first
    | with_reducible assumption | with_reducible refine @kept_ite _ _ _ _ _ _ _ ?_ ?_
    | with_reducible refine State.settle_kept ?_ | with_reducible refine State.readFailed_kept ?_ _ _
    | with_reducible refine State.setFlight_kept ?_ _ _ | simp only [kept_mk] | with_reducible refine Kept.parts ?_
    | with_reducible refine Kept.partsDev ?_ (Kept.devWf (m := M) (q := Q) (s0 := s0) ?_ rfl rfl rfl rfl) | dsimp only
    | split

theorem State.dropHost_kept {M : Nat} {Q : List Instr} {s0 s : State} (hQ : Kept M Q s0 s) (h : PHost)
    (hm : sub 0x3807920060 M = true := by exact sub_le (by assumption) (by decide)) : Kept M Q s0 (State.dropHost s h) :=
    by
  unfold State.dropHost
  try dsimp only
  repeat' first
    | with_reducible assumption | with_reducible refine @kept_ite _ _ _ _ _ _ _ ?_ ?_
    | with_reducible refine State.undo_kept ?_ _ _ | with_reducible refine kept_foldl (fun t x ht => ?_) _ _ ?_
    | with_reducible refine kept_foldl_fst (fun t x ht => ?_) _ _ ?_ | simp only [kept_mk]
    | with_reducible refine Kept.parts ?_
    | with_reducible refine Kept.partsDev ?_ (Kept.devWf (m := M) (q := Q) (s0 := s0) ?_ rfl rfl rfl rfl) | dsimp only
    | split

theorem State.functionReset_kept {M : Nat} {Q : List Instr} {s0 s : State} (hQ : Kept M Q s0 s) (h : PHost) (keep : Bool)
    (hm : sub 0x3ae792007f M = true := by exact sub_le (by assumption) (by decide)) : Kept M Q s0 (State.functionReset s h
    keep) := by
  unfold State.functionReset
  try dsimp only
  repeat' first
    | with_reducible assumption | with_reducible refine @kept_ite _ _ _ _ _ _ _ ?_ ?_
    | with_reducible refine State.dropHost_kept ?_ _ | with_reducible refine State.settle_kept ?_
    | with_reducible refine State.mbReset_kept ?_ _ | with_reducible refine State.hostEvent_kept ?_ _ _ ?_
    | with_reducible refine State.setHost_kept ?_ _ _ | exact all_nil_ok | refine all_cons_ok ?_ ?_
    | exact ok_le hm (by decide) | exact ok_add hm (by decide) | exact ok_add2 hm (by decide) | exact ok_at hm (by decide)
    | simp only [kept_mk] | with_reducible refine Kept.parts ?_
    | with_reducible refine Kept.partsDev ?_ (Kept.devWf (m := M) (q := Q) (s0 := s0) ?_ rfl rfl rfl rfl) | dsimp only
    | split | with_reducible refine Kept.partsKeepRegs ?_ _ | intro _

end Sys2Proof.Machine
end

