-- ==== Sys2Proof/Laws/KeptFreePlane.lean ====
section
/-! SUPPORT. What the definitions of Machine/FreePlane.lean keep: one lemma `<name>_kept` for each (Laws/Kept.lean). -/

-- Proof bodies are elaborated in order: elaborated in parallel they wait on one another, each in a thread of its own.
set_option Elab.async false

namespace Sys2Proof.Machine
open Sys2Proof

theorem devsWf_set {m : Map Dev} (h : devsWf m = true) (p : Nat) {d : Dev} (hd : Dev.wf d = true) :
    devsWf (Map.set (fun _ => {}) m p d) = true := by
  simp only [devsWf, Bool.and_eq_true] at h ⊢
  exact ⟨Map.wf_set h.1 p d, Map.all_set Dev.wf _ h.2 p hd⟩

theorem devsWf_get {m : Map Dev} (h : devsWf m = true) (p : Nat) : Dev.wf (Map.get (fun _ => {}) m p) = true := by
  simp only [devsWf, Bool.and_eq_true] at h
  exact Map.all_get Dev.wf _ h.2 p rfl

theorem Kept.withPlane {M : Nat} {Q : List Instr} {s0 s : State} (hQ : Kept M Q s0 s) (b : Bool) (p : Nat) {g : Image}
    (hg : Image.wf g = true) (hm : sub 0x40000 M = true := by exact sub_le (by assumption) (by decide)) :
    Kept M Q s0 (if b then { s with planeB := Map.set (fun _ => {}) s.planeB p g }
      else { s with planeA := Map.set (fun _ => {}) s.planeA p g }) := by
  split
  · exact kept_mk.mpr (hQ.partsImages hQ.good.arr hQ.good.planeA (imagesWf_set hQ.good.planeB p hg))
  · exact kept_mk.mpr (hQ.partsImages hQ.good.arr (imagesWf_set hQ.good.planeA p hg) hQ.good.planeB)

theorem Kept.withPlaneDev {M : Nat} {Q : List Instr} {s0 s : State} (hQ : Kept M Q s0 s) (b : Bool) (p : Nat) {d : Dev}
    (hd : Dev.wf d = true) (hm : sub 0x40000 M = true := by exact sub_le (by assumption) (by decide)) :
    Kept M Q s0 (if b then { s with devB := Map.set (fun _ => {}) s.devB p d } else { s with devA := Map.set (fun _ => {}) s.devA p d }) := by
  split
  · exact kept_mk.mpr (hQ.partsDevs hQ.good.devA (devsWf_set hQ.good.devB p hd))
  · exact kept_mk.mpr (hQ.partsDevs (devsWf_set hQ.good.devA p hd) hQ.good.devB)

theorem freeImageOf_wf (n p : Nat) : Image.wf (freeImageOf n p) = true := by
  unfold freeImageOf
  dsimp only
  split
  · assumption
  · rfl

theorem freeDevOf_wf (n : Nat) : Dev.wf (freeDevOf n) = true := by
  unfold freeDevOf
  dsimp only
  split
  · assumption
  · rfl

theorem State.spoilPlane_kept {M : Nat} {Q : List Instr} {s0 s : State} (hQ : Kept M Q s0 s) (p : Nat) (b is63 : Bool)
    (hm : sub 0x4000040000 M = true := by exact sub_le (by assumption) (by decide)) : Kept M Q s0 (State.spoilPlane s p b is63) := by
  have hi := freeImageOf_wf s.free p
  have h1 : Kept M Q s0 (if b then { s with planeB := Map.set (fun _ => {}) s.planeB p (freeImageOf s.free p), free := s.free + 1 }
      else { s with planeA := Map.set (fun _ => {}) s.planeA p (freeImageOf s.free p), free := s.free + 1 }) := by
    split
    · exact kept_mk.mpr (hQ.partsImages hQ.good.arr hQ.good.planeA (imagesWf_set hQ.good.planeB p hi))
    · exact kept_mk.mpr (hQ.partsImages hQ.good.arr (imagesWf_set hQ.good.planeA p hi) hQ.good.planeB)
  exact kept_ite (h1.withPlaneDev b p (freeDevOf_wf s.free)) h1

end Sys2Proof.Machine
end

