-- ==== Sys2Proof/Laws/KeptVolleyOps.lean ====
section
/-! SUPPORT. What the definitions of Machine/VolleyOps.lean keep: one lemma `<name>_kept` for each (Laws/Kept.lean). -/

-- Proof bodies are elaborated in order: elaborated in parallel they wait on one another, each in a thread of its own.
set_option Elab.async false

namespace Sys2Proof.Machine
open Sys2Proof

theorem State.setSeal_kept {M : Nat} {Q : List Instr} {s0 s : State} (hQ : Kept M Q s0 s) (p : Nat) (b : Bool) (ws : List
    Word) (hm : sub 0x40000 M = true := by exact sub_le (by assumption) (by decide)) : Kept M Q s0 (State.setSeal s p b ws) := by
  unfold State.setSeal
  dsimp only
  split
  · exact kept_mk.mpr (hQ.partsSeals hQ.good.sealA (Map.wf_setAll _ hQ.good.sealB))
  · exact kept_mk.mpr (hQ.partsSeals (Map.wf_setAll _ hQ.good.sealA) hQ.good.sealB)

theorem State.takeEpoch_kept {M : Nat} {Q : List Instr} {s0 s : State} (hQ : Kept M Q s0 s)
    (hm : sub 0x20 M = true := by exact sub_le (by assumption) (by decide)) : Kept M Q s0 (State.takeEpoch s) := by
  unfold State.takeEpoch
  try dsimp only
  repeat' first
    | with_reducible assumption | with_reducible refine @kept_ite _ _ _ _ _ _ _ ?_ ?_
    | with_reducible refine State.put36_kept ?_ _ _ _ ?_ ?_ | with_reducible refine Kept.put ?_ _ _ ?_ | exact all_nil_ok
    | refine all_cons_ok ?_ ?_ | exact ok_le hm (by decide)

theorem State.volEvent_kept {M : Nat} {Q : List Instr} {s0 s : State} (hQ : Kept M Q s0 s) (ev : Fld) (hf0 : okAddr M ev.addr
    = true) (hm : sub 0x2001000060 M = true := by exact sub_le (by assumption) (by decide)) : Kept M Q s0 (State.volEvent s
    ev) := by
  unfold State.volEvent
  try dsimp only
  repeat' first
    | with_reducible assumption | with_reducible refine @kept_ite _ _ _ _ _ _ _ ?_ ?_
    | with_reducible refine State.event_kept ?_ _ _ _ _ ?_

theorem State.warnFollow_kept {M : Nat} {Q : List Instr} {s0 s : State} (hQ : Kept M Q s0 s)
    (hm : sub 0x2001010002 M = true := by exact sub_le (by assumption) (by decide)) : Kept M Q s0 (State.warnFollow s) := by
  unfold State.warnFollow
  try dsimp only
  repeat' first
    | with_reducible assumption | with_reducible refine @kept_ite _ _ _ _ _ _ _ ?_ ?_
    | with_reducible refine State.supEvent_kept ?_ _ ?_ | exact all_nil_ok | refine all_cons_ok ?_ ?_
    | exact ok_le hm (by decide) | exact ok_add hm (by decide) | exact ok_add2 hm (by decide) | exact ok_at hm (by decide)
    | simp only [kept_mk] | with_reducible refine Kept.parts ?_

theorem State.watch_kept {M : Nat} {Q : List Instr} {s0 s : State} (hQ : Kept M Q s0 s) (old : State)
    (hm : sub 0x2001010062 M = true := by exact sub_le (by assumption) (by decide)) : Kept M Q s0 (State.watch s old) := by
  unfold State.watch
  dsimp only
  have h1 := kept_ite (c := old.pwr.st = .run ∧ s.pwr.st = .run ∧ old.ready ∧ !s.ready) (State.volEvent_kept hQ Reg.VOL_EVENT_READY_LOST (ok_le hm (by decide)))
    hQ
  exact State.warnFollow_kept (kept_ite (State.volEvent_kept h1 _ (ok_le hm (by decide))) h1)

theorem State.freeze_kept {M : Nat} {Q : List Instr} {s0 s : State} (hQ : Kept M Q s0 s)
    (hm : sub 0x300020 M = true := by exact sub_le (by assumption) (by decide)) : Kept M Q s0 (State.freeze s) := by
  have hd := (Dev.wf_iff _).mp hQ.good.dev
  unfold State.freeze
  split
  · exact hQ
  · dsimp only
    refine kept_ite (kept_mk.mpr hQ.parts) (State.takeEpoch_kept (kept_mk.mpr (hQ.partsDev ?_)))
    exact (Dev.wf_iff _).mpr ⟨hd.1, hd.2.1, hd.2.2.1, hQ.good.hot, hd.2.2.2.2⟩

/-- The restored part of the register file is canonical, and holds restored registers alone (R89). -/
theorem State.devRegs_wf {s : State} (h : Map.wf regReset s.regs = true) : Map.wf regReset s.devRegs = true ∧
    s.devRegs.all (fun e => decide (restoredMask e.1 ≠ 0)) = true := by
  refine ⟨Map.wf_mapFilter h _ _ (fun e he => ?_), List.all_eq_true.mpr (fun e he => ?_)⟩
  · simp only [decide_eq_true_eq] at he
    exact he.2
  · have := (List.mem_filter.mp he).2
    simp only [decide_eq_true_eq] at this
    exact decide_eq_true this.1

theorem Map.all_set_key {V : Type} [DecidableEq V] (P : Nat → Bool) (d : Nat → V) {m : Map V} (h : m.all (fun e => P e.1) = true)
    {k : Nat} (hk : P k = true) (v : V) : (Map.set d m k v).all (fun e => P e.1) = true := by
  rw [List.all_eq_true] at h ⊢
  have he : ∀ e ∈ Map.erase m k, P e.1 = true := fun e he => h e (List.mem_filter.mp he).1
  intro e hx
  unfold Map.set at hx
  split at hx
  · exact he e hx
  · rcases (Map.mem_insertSorted k v _ e).mp hx with rfl | hx
    · exact hk
    · exact he e hx

/-- What a store saves of the register file is canonical, and holds restored registers alone (R89). -/
theorem State.storedRegs_wf {s : State} (h : Map.wf regReset s.regs = true) (t : Store) :
    Map.wf regReset (s.storedRegs t) = true ∧ (s.storedRegs t).all (fun e => decide (restoredMask e.1 ≠ 0)) = true :=
  ⟨Map.wf_set (State.devRegs_wf h).1 _ _, Map.all_set_key (fun a => decide (restoredMask a ≠ 0)) _ (State.devRegs_wf h).2 (by decide) _⟩

theorem State.storeRegion_kept {M : Nat} {Q : List Instr} {s0 s : State} (hQ : Kept M Q s0 s) (t : Store) (r : Nat)
    (hm : sub 0x800040040 M = true := by exact sub_le (by assumption) (by decide)) : Kept M Q s0 (State.storeRegion s t r) := by
  unfold State.storeRegion
  dsimp only
  have h1 := State.eraseSeal_kept (State.yieldWindow_kept hQ r) (t.physOf r) (t.plane r)
  have h2 := h1.withPlane (t.plane r) (t.physOf r) (h1.good.image (t.physOf r))
  refine kept_ite (h2.withPlaneDev _ _ ?_) h2
  have hd := (Dev.wf_iff _).mp h2.good.dev
  have hr := State.storedRegs_wf h2.good.regs t
  exact (Dev.wf_iff _).mpr ⟨hr.1, hr.2, hd.2.2⟩

theorem State.resumeOne_kept {M : Nat} {Q : List Instr} {s0 s : State} (hQ : Kept M Q s0 s) (e : LedEvent)
    (hm : sub 0x3a6792007e M = true := by exact sub_le (by assumption) (by decide)) : Kept M Q s0 (State.resumeOne s e) :=
    by
  unfold State.resumeOne
  try dsimp only
  repeat' first
    | with_reducible assumption | with_reducible refine @kept_ite _ _ _ _ _ _ _ ?_ ?_
    | with_reducible refine State.advance_kept ?_ _ | with_reducible refine State.ledApply_kept ?_ _ | simp only [kept_mk]
    | with_reducible refine Kept.parts ?_
    | with_reducible refine Kept.partsDev ?_ (Kept.devWf (m := M) (q := Q) (s0 := s0) ?_ rfl rfl rfl rfl) | dsimp only
    | split

theorem State.ledResume_kept {M : Nat} {Q : List Instr} {s0 s : State} (hQ : Kept M Q s0 s)
    (hm : sub 0x3a6792007e M = true := by exact sub_le (by assumption) (by decide)) : Kept M Q s0 (State.ledResume s) :=
    by
  unfold State.ledResume
  try dsimp only
  repeat' first
    | with_reducible assumption | with_reducible refine @kept_ite _ _ _ _ _ _ _ ?_ ?_
    | with_reducible refine State.resumeOne_kept ?_ _ | with_reducible refine State.unflag_kept ?_ _
    | with_reducible refine State.rasterAll_kept ?_ | with_reducible refine kept_foldl (fun t x ht => ?_) _ _ ?_
    | with_reducible refine kept_foldl_fst (fun t x ht => ?_) _ _ ?_ | simp only [kept_mk]
    | with_reducible refine Kept.parts ?_
    | with_reducible refine Kept.partsDev ?_ (Kept.devWf (m := M) (q := Q) (s0 := s0) ?_ rfl rfl rfl rfl) | dsimp only
    | split

theorem State.waveEnd_kept {M : Nat} {Q : List Instr} {s0 s : State} (hQ : Kept M Q s0 s) (t : Store)
    (hm : sub 0x3a67b2007e M = true := by exact sub_le (by assumption) (by decide)) : Kept M Q s0 (State.waveEnd s t) :=
    by
  unfold State.waveEnd
  try dsimp only
  repeat' first
    | with_reducible assumption | with_reducible refine @kept_ite _ _ _ _ _ _ _ ?_ ?_
    | with_reducible refine State.ledResume_kept ?_ | with_reducible refine State.settle_kept ?_ | simp only [kept_mk]
    | with_reducible refine Kept.parts ?_
    | with_reducible refine Kept.partsDev ?_ (Kept.devWf (m := M) (q := Q) (s0 := s0) ?_ rfl rfl rfl rfl) | dsimp only
    | split

theorem State.waveStart_kept {M : Nat} {Q : List Instr} {s0 s : State} (hQ : Kept M Q s0 s) (t : Store) (k : Nat)
    (hm : sub 0x3a67b6007e M = true := by exact sub_le (by assumption) (by decide)) : Kept M Q s0 (State.waveStart s t k)
    := by
  unfold State.waveStart
  try dsimp only
  repeat' first
    | with_reducible assumption | with_reducible refine @kept_ite _ _ _ _ _ _ _ ?_ ?_
    | with_reducible refine State.waveEnd_kept ?_ _ | with_reducible refine State.storeRegion_kept ?_ _ _
    | with_reducible refine kept_foldl (fun t x ht => ?_) _ _ ?_
    | with_reducible refine kept_foldl_fst (fun t x ht => ?_) _ _ ?_ | simp only [kept_mk]
    | with_reducible refine Kept.parts ?_
    | with_reducible refine Kept.partsDev ?_ (Kept.devWf (m := M) (q := Q) (s0 := s0) ?_ rfl rfl rfl rfl) | dsimp only
    | split

theorem State.cutWave_kept {M : Nat} {Q : List Instr} {s0 s : State} (hQ : Kept M Q s0 s) (t : Store)
    (hm : sub 0x4000040000 M = true := by exact sub_le (by assumption) (by decide)) : Kept M Q s0 (State.cutWave s t) :=
    by
  unfold State.cutWave
  try dsimp only
  repeat' first
    | with_reducible assumption | with_reducible refine @kept_ite _ _ _ _ _ _ _ ?_ ?_
    | with_reducible refine State.spoilPlane_kept ?_ _ _ _ | with_reducible refine kept_foldl (fun t x ht => ?_) _ _ ?_
    | with_reducible refine kept_foldl_fst (fun t x ht => ?_) _ _ ?_ | dsimp only | split

theorem State.sealStart_kept {M : Nat} {Q : List Instr} {s0 s : State} (hQ : Kept M Q s0 s) (t : Store)
    (hm : sub 0x3a67b2007e M = true := by exact sub_le (by assumption) (by decide)) : Kept M Q s0 (State.sealStart s t) := by
  unfold State.sealStart
  try dsimp only
  repeat' first
    | with_reducible assumption | with_reducible refine @kept_ite _ _ _ _ _ _ _ ?_ ?_
    | with_reducible refine State.waveEnd_kept ?_ _ | simp only [kept_mk] | with_reducible refine Kept.parts ?_

theorem State.writeSeal_kept {M : Nat} {Q : List Instr} {s0 s : State} (hQ : Kept M Q s0 s) (t : Store) (r : Nat)
    (hm : sub 0x40000 M = true := by exact sub_le (by assumption) (by decide)) : Kept M Q s0 (State.writeSeal s t r) := by
  unfold State.writeSeal
  try dsimp only
  repeat' first
    | with_reducible assumption | with_reducible refine @kept_ite _ _ _ _ _ _ _ ?_ ?_
    | with_reducible refine State.setSeal_kept ?_ _ _ _

theorem State.writeSeals_kept {M : Nat} {Q : List Instr} {s0 s : State} (hQ : Kept M Q s0 s) (t : Store)
    (hm : sub 0x40020 M = true := by exact sub_le (by assumption) (by decide)) : Kept M Q s0 (State.writeSeals s t) := by
  unfold State.writeSeals
  try dsimp only
  repeat' first
    | with_reducible assumption | with_reducible refine @kept_ite _ _ _ _ _ _ _ ?_ ?_
    | with_reducible refine State.put36_kept ?_ _ _ _ ?_ ?_ | with_reducible refine State.writeSeal_kept ?_ _ _
    | with_reducible refine Kept.put ?_ _ _ ?_ | with_reducible refine kept_foldl (fun t x ht => ?_) _ _ ?_
    | with_reducible refine kept_foldl_fst (fun t x ht => ?_) _ _ ?_ | exact all_nil_ok | refine all_cons_ok ?_ ?_
    | exact ok_le hm (by decide)

theorem State.tearSeals_kept {M : Nat} {Q : List Instr} {s0 s : State} (hQ : Kept M Q s0 s) (t : Store)
    (hm : sub 0x4000040000 M = true := by exact sub_le (by assumption) (by decide)) : Kept M Q s0 (State.tearSeals s t) := by
  unfold State.tearSeals
  try dsimp only
  repeat' first
    | with_reducible assumption | with_reducible refine @kept_ite _ _ _ _ _ _ _ ?_ ?_
    | with_reducible refine State.writeSeal_kept ?_ _ _ | with_reducible refine State.drawBit_kept ?_
    | with_reducible refine kept_foldl (fun t x ht => ?_) _ _ ?_

theorem State.volLast_kept {M : Nat} {Q : List Instr} {s0 s : State} (hQ : Kept M Q s0 s) (t : Store) (result : Nat) (waves :
    Nat) (vhold : Nat) (time : Nat) (hm : sub 0x20 M = true := by exact sub_le (by assumption) (by decide)) : Kept M Q s0
    (State.volLast s t result waves vhold time) := by
  unfold State.volLast
  try dsimp only
  repeat' first
    | with_reducible assumption | with_reducible refine @kept_ite _ _ _ _ _ _ _ ?_ ?_
    | with_reducible refine Kept.put ?_ _ _ ?_ | with_reducible refine Kept.setReg ?_ _ _ ?_ | exact all_nil_ok
    | refine all_cons_ok ?_ ?_ | exact ok_le hm (by decide)

theorem State.storeOver_kept {M : Nat} {Q : List Instr} {s0 s : State} (hQ : Kept M Q s0 s) (t : Store) (result : Nat) (waves
    : Nat) (vhold : Nat) (time : Nat) (hm : sub 0x210020 M = true := by exact sub_le (by assumption) (by decide)) : Kept M Q
    s0 (State.storeOver s t result waves vhold time) := by
  unfold State.storeOver
  try dsimp only
  repeat' first
    | with_reducible assumption | with_reducible refine @kept_ite _ _ _ _ _ _ _ ?_ ?_
    | with_reducible refine State.volLast_kept ?_ _ _ _ _ _ | simp only [kept_mk] | with_reducible refine Kept.parts ?_

theorem State.setCode_kept {M : Nat} {Q : List Instr} {s0 s : State} (hQ : Kept M Q s0 s) (c : BitVec 3)
    (hm : sub 0x10000 M = true := by exact sub_le (by assumption) (by decide)) : Kept M Q s0 (State.setCode s c) := by
  unfold State.setCode
  try dsimp only
  repeat' first
    | with_reducible assumption | with_reducible refine @kept_ite _ _ _ _ _ _ _ ?_ ?_ | simp only [kept_mk]
    | with_reducible refine Kept.parts ?_

theorem State.stepCode_kept {M : Nat} {Q : List Instr} {s0 s : State} (hQ : Kept M Q s0 s) (goal : BitVec 3)
    (hm : sub 0x10000 M = true := by exact sub_le (by assumption) (by decide)) : Kept M Q s0 (State.stepCode s goal) := by
  unfold State.stepCode
  try dsimp only
  repeat' first
    | with_reducible assumption | with_reducible refine @kept_ite _ _ _ _ _ _ _ ?_ ?_
    | with_reducible refine State.setCode_kept ?_ _

theorem State.joinCkpt_kept {M : Nat} {Q : List Instr} {s0 s : State} (hQ : Kept M Q s0 s)
    (hm : sub 0x2000020 M = true := by exact sub_le (by assumption) (by decide)) : Kept M Q s0 (State.joinCkpt s) := by
  unfold State.joinCkpt
  try dsimp only
  repeat' first
    | with_reducible assumption | with_reducible refine @kept_ite _ _ _ _ _ _ _ ?_ ?_
    | with_reducible refine Kept.put ?_ _ _ ?_ | exact all_nil_ok | refine all_cons_ok ?_ ?_ | exact ok_le hm (by decide)
    | exact ok_add hm (by decide) | exact ok_add2 hm (by decide) | exact ok_at hm (by decide) | simp only [kept_mk]
    | with_reducible refine Kept.parts ?_
    | with_reducible refine Kept.partsDev ?_ (Kept.devWf (m := M) (q := Q) (s0 := s0) ?_ rfl rfl rfl rfl) | dsimp only
    | split

theorem State.fixAll_kept {M : Nat} {Q : List Instr} {s0 s : State} (hQ : Kept M Q s0 s) (p : Flight → Bool) (c : Compl)
    (hm : sub 0x2003000060 M = true := by exact sub_le (by assumption) (by decide)) : Kept M Q s0 (State.fixAll s p c) := by
  unfold State.fixAll
  try dsimp only
  repeat' first
    | with_reducible assumption | with_reducible refine @kept_ite _ _ _ _ _ _ _ ?_ ?_
    | with_reducible refine State.retireAll_kept ?_ | simp only [kept_mk] | with_reducible refine Kept.parts ?_

theorem State.refuseCkpt_kept {M : Nat} {Q : List Instr} {s0 s : State} (hQ : Kept M Q s0 s)
    (hm : sub 0x2003000060 M = true := by exact sub_le (by assumption) (by decide)) : Kept M Q s0 (State.refuseCkpt s) :=
    by
  unfold State.refuseCkpt
  try dsimp only
  repeat' first
    | with_reducible assumption | with_reducible refine @kept_ite _ _ _ _ _ _ _ ?_ ?_
    | with_reducible refine State.fixAll_kept ?_ _ _ | with_reducible refine Kept.put ?_ _ _ ?_ | exact all_nil_ok
    | refine all_cons_ok ?_ ?_ | exact ok_le hm (by decide) | exact ok_add hm (by decide) | exact ok_add2 hm (by decide)
    | exact ok_at hm (by decide) | simp only [kept_mk] | with_reducible refine Kept.parts ?_
    | with_reducible refine Kept.partsDev ?_ (Kept.devWf (m := M) (q := Q) (s0 := s0) ?_ rfl rfl rfl rfl)

theorem State.applyHeldAll_kept {M : Nat} {Q : List Instr} {s0 s : State} (hQ : Kept M Q s0 s)
    (hm : sub 0x3801d60060 M = true := by exact sub_le (by assumption) (by decide)) : Kept M Q s0 (State.applyHeldAll s) := by
  unfold State.applyHeldAll
  try dsimp only
  repeat' first
    | with_reducible assumption | with_reducible refine @kept_ite _ _ _ _ _ _ _ ?_ ?_
    | with_reducible refine State.applyHeld_kept ?_ _ | with_reducible refine kept_foldl (fun t x ht => ?_) _ _ ?_
    | with_reducible refine kept_foldl_fst (fun t x ht => ?_) _ _ ?_ | simp only [kept_mk]
    | with_reducible refine Kept.parts ?_

theorem State.storeBegin_kept {M : Nat} {Q : List Instr} {s0 s : State} (hQ : Kept M Q s0 s) (cause : Cause) (fromVin : Bool)
    (channel : Nat) (hm : sub 0x200000 M = true := by exact sub_le (by assumption) (by decide)) : Kept M Q s0
    (State.storeBegin s cause fromVin channel) := by
  unfold State.storeBegin
  try dsimp only
  repeat' first
    | with_reducible assumption | with_reducible refine @kept_ite _ _ _ _ _ _ _ ?_ ?_ | simp only [kept_mk]
    | with_reducible refine Kept.parts ?_

end Sys2Proof.Machine
end

