-- ==== Sys2Proof/Laws/KeptSupOps.lean ====
section
/-! SUPPORT. What the definitions of Machine/SupOps.lean keep: one lemma `<name>_kept` for each (Laws/Kept.lean). -/

-- Proof bodies are elaborated in order: elaborated in parallel they wait on one another, each in a thread of its own.
set_option Elab.async false

namespace Sys2Proof.Machine
open Sys2Proof

theorem State.disarmGate_kept {M : Nat} {Q : List Instr} {s0 s : State} (hQ : Kept M Q s0 s) (g : Nat)
    (hm : sub 0x10000 M = true := by exact sub_le (by assumption) (by decide)) : Kept M Q s0 (State.disarmGate s g) := by
  unfold State.disarmGate
  try dsimp only
  repeat' first
    | with_reducible assumption | with_reducible refine @kept_ite _ _ _ _ _ _ _ ?_ ?_
    | with_reducible refine kept_foldl (fun t x ht => ?_) _ _ ?_
    | with_reducible refine kept_foldl_fst (fun t x ht => ?_) _ _ ?_ | simp only [kept_mk]
    | with_reducible refine Kept.parts ?_

theorem State.dropEn_kept {M : Nat} {Q : List Instr} {s0 s : State} (hQ : Kept M Q s0 s) (g : Nat)
    (hm : sub 0x10002 M = true := by exact sub_le (by assumption) (by decide)) : Kept M Q s0 (State.dropEn s g) := by
  unfold State.dropEn
  try dsimp only
  repeat' first
    | with_reducible assumption | with_reducible refine @kept_ite _ _ _ _ _ _ _ ?_ ?_
    | with_reducible refine State.disarmGate_kept ?_ _ | with_reducible refine Kept.put ?_ _ _ ?_ | exact all_nil_ok
    | refine all_cons_ok ?_ ?_ | exact ok_le hm (by decide) | exact ok_add hm (by decide) | exact ok_add2 hm (by decide)
    | exact ok_at hm (by decide) | simp only [kept_mk] | with_reducible refine Kept.parts ?_

theorem State.raiseEn_kept {M : Nat} {Q : List Instr} {s0 s : State} (hQ : Kept M Q s0 s) (g : Nat)
    (hm : sub 0x10002 M = true := by exact sub_le (by assumption) (by decide)) : Kept M Q s0 (State.raiseEn s g) := by
  unfold State.raiseEn
  try dsimp only
  repeat' first
    | with_reducible assumption | with_reducible refine @kept_ite _ _ _ _ _ _ _ ?_ ?_
    | with_reducible refine Kept.put ?_ _ _ ?_ | exact all_nil_ok | refine all_cons_ok ?_ ?_ | exact ok_le hm (by decide)
    | exact ok_add hm (by decide) | exact ok_add2 hm (by decide) | exact ok_at hm (by decide) | simp only [kept_mk]
    | with_reducible refine Kept.parts ?_

theorem State.allLow_kept {M : Nat} {Q : List Instr} {s0 s : State} (hQ : Kept M Q s0 s)
    (hm : sub 0x10002 M = true := by exact sub_le (by assumption) (by decide)) : Kept M Q s0 (State.allLow s) := by
  unfold State.allLow
  try dsimp only
  repeat' first
    | with_reducible assumption | with_reducible refine @kept_ite _ _ _ _ _ _ _ ?_ ?_
    | with_reducible refine Kept.put ?_ _ _ ?_ | exact all_nil_ok | refine all_cons_ok ?_ ?_ | exact ok_le hm (by decide)
    | exact ok_add hm (by decide) | exact ok_add2 hm (by decide) | exact ok_at hm (by decide) | simp only [kept_mk]
    | with_reducible refine Kept.parts ?_

theorem State.freeFollow_kept {M : Nat} {Q : List Instr} {s0 s : State} (hQ : Kept M Q s0 s)
    (hm : sub 0x10002 M = true := by exact sub_le (by assumption) (by decide)) : Kept M Q s0 (State.freeFollow s) := by
  unfold State.freeFollow
  try dsimp only
  repeat' first
    | with_reducible assumption | with_reducible refine @kept_ite _ _ _ _ _ _ _ ?_ ?_
    | with_reducible refine State.disarmGate_kept ?_ _ | with_reducible refine Kept.put ?_ _ _ ?_
    | with_reducible refine kept_foldl (fun t x ht => ?_) _ _ ?_
    | with_reducible refine kept_foldl_fst (fun t x ht => ?_) _ _ ?_ | exact all_nil_ok | refine all_cons_ok ?_ ?_
    | exact ok_le hm (by decide) | exact ok_add hm (by decide) | exact ok_add2 hm (by decide) | exact ok_at hm (by decide)

theorem State.shed_kept {M : Nat} {Q : List Instr} {s0 s : State} (hQ : Kept M Q s0 s)
    (hm : sub 0x10002 M = true := by exact sub_le (by assumption) (by decide)) : Kept M Q s0 (State.shed s) := by
  unfold State.shed
  try dsimp only
  repeat' first
    | with_reducible assumption | with_reducible refine @kept_ite _ _ _ _ _ _ _ ?_ ?_
    | with_reducible refine State.dropEn_kept ?_ _ | with_reducible refine kept_foldl (fun t x ht => ?_) _ _ ?_

theorem State.capture_kept {M : Nat} {Q : List Instr} {s0 s : State} (hQ : Kept M Q s0 s) (c : Nat) (high : Bool) (timeout :
    Bool) (hm : sub 0x2001000002 M = true := by exact sub_le (by assumption) (by decide)) : Kept M Q s0 (State.capture s c
    high timeout) := by
  unfold State.capture
  try dsimp only
  repeat' first
    | with_reducible assumption | with_reducible refine @kept_ite _ _ _ _ _ _ _ ?_ ?_
    | with_reducible refine State.supEvent_kept ?_ _ ?_ | with_reducible refine Kept.setReg ?_ _ _ ?_ | exact all_nil_ok
    | refine all_cons_ok ?_ ?_ | exact ok_le hm (by decide)

theorem State.spillStart_kept {M : Nat} {Q : List Instr} {s0 s : State} (hQ : Kept M Q s0 s)
    (hm : sub 0x30000000 M = true := by exact sub_le (by assumption) (by decide)) : Kept M Q s0 (State.spillStart s) := by
  unfold State.spillStart
  try dsimp only
  repeat' first
    | with_reducible assumption | with_reducible refine @kept_ite _ _ _ _ _ _ _ ?_ ?_
    | with_reducible refine State.pageStart_kept ?_ _ _ _

theorem State.loadRecord_kept {M : Nat} {Q : List Instr} {s0 s : State} (hQ : Kept M Q s0 s) (p : List Nat)
    (hm : sub 0x7e M = true := by exact sub_le (by assumption) (by decide)) : Kept M Q s0 (State.loadRecord s p) := by
  unfold State.loadRecord
  try dsimp only
  repeat' first
    | with_reducible assumption | with_reducible refine @kept_ite _ _ _ _ _ _ _ ?_ ?_
    | with_reducible refine Kept.put ?_ _ _ ?_ | with_reducible refine Kept.setReg ?_ _ _ ?_
    | with_reducible refine kept_foldl (fun t x ht => ?_) _ _ ?_
    | with_reducible refine kept_foldl_fst (fun t x ht => ?_) _ _ ?_ | exact all_nil_ok | refine all_cons_ok ?_ ?_
    | exact ok_le hm (by decide) | exact ok_add hm (by decide)

theorem State.loadDefault_kept {M : Nat} {Q : List Instr} {s0 s : State} (hQ : Kept M Q s0 s)
    (hm : sub 0x7e M = true := by exact sub_le (by assumption) (by decide)) : Kept M Q s0 (State.loadDefault s) := by
  unfold State.loadDefault
  try dsimp only
  repeat' first
    | with_reducible assumption | with_reducible refine @kept_ite _ _ _ _ _ _ _ ?_ ?_
    | with_reducible refine Kept.put ?_ _ _ ?_ | with_reducible refine Kept.setReg ?_ _ _ ?_
    | with_reducible refine kept_foldl (fun t x ht => ?_) _ _ ?_
    | with_reducible refine kept_foldl_fst (fun t x ht => ?_) _ _ ?_ | exact all_nil_ok | refine all_cons_ok ?_ ?_
    | exact ok_le hm (by decide) | exact ok_add hm (by decide)

theorem State.setSteps_kept {M : Nat} {Q : List Instr} {s0 s : State} (hQ : Kept M Q s0 s) (steps : List ScriptStep) (user :
    Bool) (hm : sub 0x10002 M = true := by exact sub_le (by assumption) (by decide)) : Kept M Q s0 (State.setSteps s steps
    user) := by
  unfold State.setSteps
  try dsimp only
  repeat' first
    | with_reducible assumption | with_reducible refine @kept_ite _ _ _ _ _ _ _ ?_ ?_
    | with_reducible refine Kept.put ?_ _ _ ?_ | exact all_nil_ok | refine all_cons_ok ?_ ?_ | exact ok_le hm (by decide)
    | exact ok_add hm (by decide) | exact ok_add2 hm (by decide) | exact ok_at hm (by decide) | simp only [kept_mk]
    | with_reducible refine Kept.parts ?_

theorem State.applyScript_kept {M : Nat} {Q : List Instr} {s0 s : State} (hQ : Kept M Q s0 s)
    (hm : sub 0x200101007e M = true := by exact sub_le (by assumption) (by decide)) : Kept M Q s0 (State.applyScript s) := by
  unfold State.applyScript
  try dsimp only
  repeat' first
    | with_reducible assumption | with_reducible refine @kept_ite _ _ _ _ _ _ _ ?_ ?_
    | with_reducible refine State.loadDefault_kept ?_ | with_reducible refine State.supEvent_kept ?_ _ ?_
    | with_reducible refine State.loadRecord_kept ?_ _ | with_reducible refine State.setSteps_kept ?_ _ _ | exact all_nil_ok
    | refine all_cons_ok ?_ ?_ | exact ok_le hm (by decide) | exact ok_add hm (by decide) | exact ok_add2 hm (by decide)
    | exact ok_at hm (by decide) | simp only [kept_mk] | with_reducible refine Kept.parts ?_
    | with_reducible refine Kept.partsDev ?_ (Kept.devWf (m := M) (q := Q) (s0 := s0) ?_ rfl rfl rfl rfl) | dsimp only | split

theorem State.reloadScript_kept {M : Nat} {Q : List Instr} {s0 s : State} (hQ : Kept M Q s0 s)
    (hm : sub 0x200101007e M = true := by exact sub_le (by assumption) (by decide)) : Kept M Q s0 (State.reloadScript s) := by
  unfold State.reloadScript
  try dsimp only
  repeat' first
    | with_reducible assumption | with_reducible refine @kept_ite _ _ _ _ _ _ _ ?_ ?_
    | with_reducible refine State.supEvent_kept ?_ _ ?_ | with_reducible refine State.setSteps_kept ?_ _ _
    | with_reducible refine State.freeFollow_kept ?_ | with_reducible refine State.warnFollow_kept ?_
    | with_reducible refine State.loadRecord_kept ?_ _ | exact all_nil_ok | refine all_cons_ok ?_ ?_
    | exact ok_le hm (by decide) | exact ok_add hm (by decide) | exact ok_add2 hm (by decide) | exact ok_at hm (by decide)
    | simp only [kept_mk] | with_reducible refine Kept.parts ?_
    | with_reducible refine Kept.partsDev ?_ (Kept.devWf (m := M) (q := Q) (s0 := s0) ?_ rfl rfl rfl rfl) | dsimp only | split

theorem State.showStep_kept {M : Nat} {Q : List Instr} {s0 s : State} (hQ : Kept M Q s0 s) (running : Bool)
    (hm : sub 0x2 M = true := by exact sub_le (by assumption) (by decide)) : Kept M Q s0 (State.showStep s running) := by
  unfold State.showStep
  try dsimp only
  repeat' first
    | with_reducible assumption | with_reducible refine @kept_ite _ _ _ _ _ _ _ ?_ ?_
    | with_reducible refine Kept.put ?_ _ _ ?_ | exact all_nil_ok | refine all_cons_ok ?_ ?_ | exact ok_le hm (by decide)

theorem State.nextPos_kept {M : Nat} {Q : List Instr} {s0 s : State} (hQ : Kept M Q s0 s)
    (hm : sub 0x10000 M = true := by exact sub_le (by assumption) (by decide)) : Kept M Q s0 (State.nextPos s) := by
  unfold State.nextPos
  try dsimp only
  repeat' first
    | with_reducible assumption | with_reducible refine @kept_ite _ _ _ _ _ _ _ ?_ ?_ | simp only [kept_mk]
    | with_reducible refine Kept.parts ?_

theorem State.runSteps_kept {M : Nat} {Q : List Instr} {s0 s : State} (hQ : Kept M Q s0 s) (shutdown : Bool) (n : Nat)
    (hm : sub 0x10002 M = true := by exact sub_le (by assumption) (by decide)) : Kept M Q s0 (State.runSteps s shutdown n).1 := by
  induction n generalizing s with
  | zero => exact hQ
  | succ n ih =>
    unfold State.runSteps
    split
    · exact hQ
    · split
      · exact hQ
      · split
        · exact hQ
        · exact ih (State.nextPos_kept (State.raiseEn_kept hQ _))
        · exact ih (State.nextPos_kept (State.dropEn_kept hQ _))
        · exact State.showStep_kept hQ _
        · split
          · exact ih (State.nextPos_kept hQ)
          · exact State.showStep_kept hQ _

end Sys2Proof.Machine
end

