-- ==== Sys2Proof/Laws/KeptUpkeepOps.lean ====
section
/-! SUPPORT. What the definitions of Machine/UpkeepOps.lean keep: one lemma `<name>_kept` for each (Laws/Kept.lean). -/

-- Proof bodies are elaborated in order: elaborated in parallel they wait on one another, each in a thread of its own.
set_option Elab.async false

namespace Sys2Proof.Machine
open Sys2Proof

theorem State.takeWindow_kept {M : Nat} {Q : List Instr} {s0 s : State} (hQ : Kept M Q s0 s)
    (hm : sub 0x800000000 M = true := by exact sub_le (by assumption) (by decide)) : Kept M Q s0 (State.takeWindow s) :=
    by
  unfold State.takeWindow
  try dsimp only
  repeat' first
    | with_reducible assumption | with_reducible refine @kept_ite _ _ _ _ _ _ _ ?_ ?_ | simp only [kept_mk]
    | with_reducible refine Kept.parts ?_
    | with_reducible refine Kept.partsDev ?_ (Kept.devWf (m := M) (q := Q) (s0 := s0) ?_ rfl rfl rfl rfl) | dsimp only
    | split

theorem State.dropWindow_kept {M : Nat} {Q : List Instr} {s0 s : State} (hQ : Kept M Q s0 s)
    (hm : sub 0x800000000 M = true := by exact sub_le (by assumption) (by decide)) : Kept M Q s0 (State.dropWindow s) := by
  unfold State.dropWindow
  try dsimp only
  repeat' first
    | with_reducible assumption | with_reducible refine @kept_ite _ _ _ _ _ _ _ ?_ ?_ | simp only [kept_mk]
    | with_reducible refine Kept.parts ?_

theorem State.cycleOver_kept {M : Nat} {Q : List Instr} {s0 s : State} (hQ : Kept M Q s0 s)
    (hm : sub 0x2801100040 M = true := by exact sub_le (by assumption) (by decide)) : Kept M Q s0 (State.cycleOver s) :=
    by
  unfold State.cycleOver
  try dsimp only
  repeat' first
    | with_reducible assumption | with_reducible refine @kept_ite _ _ _ _ _ _ _ ?_ ?_
    | with_reducible refine State.dropWindow_kept ?_ | with_reducible refine State.putAll_kept ?_ _ ?_
    | with_reducible refine State.swpEvent_kept ?_ _ ?_ | with_reducible refine State.bump_kept ?_ _ ?_
    | with_reducible refine Kept.put ?_ _ _ ?_ | exact all_nil_ok | refine all_cons_ok ?_ ?_ | exact ok_le hm (by decide)
    | exact ok_add hm (by decide) | exact ok_add2 hm (by decide) | exact ok_at hm (by decide) | simp only [kept_mk]
    | with_reducible refine Kept.parts ?_
    | with_reducible refine Kept.partsDev ?_ (Kept.devWf (m := M) (q := Q) (s0 := s0) ?_ rfl rfl rfl rfl) | dsimp only
    | split

theorem State.cycleStart_kept {M : Nat} {Q : List Instr} {s0 s : State} (hQ : Kept M Q s0 s)
    (hm : sub 0x2805100040 M = true := by exact sub_le (by assumption) (by decide)) : Kept M Q s0 (State.cycleStart s) :=
    by
  unfold State.cycleStart
  try dsimp only
  repeat' first
    | with_reducible assumption | with_reducible refine @kept_ite _ _ _ _ _ _ _ ?_ ?_
    | with_reducible refine State.cycleOver_kept ?_ | with_reducible refine State.dropWindow_kept ?_
    | with_reducible refine State.takeWindow_kept ?_ | with_reducible refine State.putAll_kept ?_ _ ?_
    | with_reducible refine kept_foldl (fun t x ht => ?_) _ _ ?_
    | with_reducible refine kept_foldl_fst (fun t x ht => ?_) _ _ ?_ | exact all_nil_ok | refine all_cons_ok ?_ ?_
    | exact ok_le hm (by decide) | exact ok_add hm (by decide) | exact ok_add2 hm (by decide) | exact ok_at hm (by decide)
    | simp only [kept_mk] | with_reducible refine Kept.parts ?_
    | with_reducible refine Kept.partsDev ?_ (Kept.devWf (m := M) (q := Q) (s0 := s0) ?_ rfl rfl rfl rfl) | dsimp only
    | split

theorem State.cycleResume_kept {M : Nat} {Q : List Instr} {s0 s : State} (hQ : Kept M Q s0 s)
    (hm : sub 0x2805100040 M = true := by exact sub_le (by assumption) (by decide)) : Kept M Q s0 (State.cycleResume s) := by
  unfold State.cycleResume
  try dsimp only
  repeat' first
    | with_reducible assumption | with_reducible refine @kept_ite _ _ _ _ _ _ _ ?_ ?_
    | with_reducible refine State.takeWindow_kept ?_ | with_reducible refine State.cycleStart_kept ?_
    | with_reducible refine Kept.put ?_ _ _ ?_ | exact all_nil_ok | refine all_cons_ok ?_ ?_ | exact ok_le hm (by decide)

theorem State.cycleLag_kept {M : Nat} {Q : List Instr} {s0 s : State} (hQ : Kept M Q s0 s)
    (hm : sub 0x2001000040 M = true := by exact sub_le (by assumption) (by decide)) : Kept M Q s0 (State.cycleLag s) := by
  unfold State.cycleLag
  try dsimp only
  repeat' first
    | with_reducible assumption | with_reducible refine @kept_ite _ _ _ _ _ _ _ ?_ ?_
    | with_reducible refine State.swpEvent_kept ?_ _ ?_ | with_reducible refine Kept.put ?_ _ _ ?_ | exact all_nil_ok
    | refine all_cons_ok ?_ ?_ | exact ok_le hm (by decide)

theorem State.cycleEnd_kept {M : Nat} {Q : List Instr} {s0 s : State} (hQ : Kept M Q s0 s)
    (hm : sub 0x2805100040 M = true := by exact sub_le (by assumption) (by decide)) : Kept M Q s0 (State.cycleEnd s) := by
  unfold State.cycleEnd
  try dsimp only
  repeat' first
    | with_reducible assumption | with_reducible refine @kept_ite _ _ _ _ _ _ _ ?_ ?_
    | with_reducible refine State.cycleStart_kept ?_ | with_reducible refine State.cycleOver_kept ?_ | exact all_nil_ok
    | refine all_cons_ok ?_ ?_ | exact ok_le hm (by decide) | exact ok_add hm (by decide) | exact ok_add2 hm (by decide)
    | exact ok_at hm (by decide) | with_reducible refine Kept.put ?_ _ _ ?_ | simp only [kept_mk]
    | with_reducible refine Kept.parts ?_

theorem State.cycleGo_kept {M : Nat} {Q : List Instr} {s0 s : State} (hQ : Kept M Q s0 s)
    (hm : sub 0x2805100040 M = true := by exact sub_le (by assumption) (by decide)) : Kept M Q s0 (State.cycleGo s) := by
  unfold State.cycleGo
  try dsimp only
  repeat' first
    | with_reducible assumption | with_reducible refine @kept_ite _ _ _ _ _ _ _ ?_ ?_
    | with_reducible refine State.cycleEnd_kept ?_ | with_reducible refine State.takeWindow_kept ?_
    | with_reducible refine Kept.put ?_ _ _ ?_ | exact all_nil_ok | refine all_cons_ok ?_ ?_ | exact ok_le hm (by decide)
    | exact ok_add hm (by decide) | exact ok_add2 hm (by decide) | exact ok_at hm (by decide)

theorem State.unitTested_kept {M : Nat} {Q : List Instr} {s0 s : State} (hQ : Kept M Q s0 s) (t : SwpTest)
    (hm : sub 0x2805100040 M = true := by exact sub_le (by assumption) (by decide)) : Kept M Q s0 (State.unitTested s t)
    := by
  unfold State.unitTested
  try dsimp only
  repeat' first
    | with_reducible assumption | with_reducible refine @kept_ite _ _ _ _ _ _ _ ?_ ?_
    | with_reducible refine State.cycleGo_kept ?_ | with_reducible refine State.dropWindow_kept ?_ | simp only [kept_mk]
    | with_reducible refine Kept.parts ?_
    | with_reducible refine Kept.partsDev ?_ (Kept.devWf (m := M) (q := Q) (s0 := s0) ?_ rfl rfl rfl rfl) | dsimp only
    | split | with_reducible refine Kept.put ?_ _ _ ?_ | exact all_nil_ok | refine all_cons_ok ?_ ?_
    | exact ok_le hm (by decide) | exact ok_add hm (by decide) | exact ok_add2 hm (by decide) | exact ok_at hm (by decide)

theorem State.meetSlot_kept {M : Nat} {Q : List Instr} {s0 s : State} (hQ : Kept M Q s0 s) (k : Nat)
    (hm : sub 0x3801120060 M = true := by exact sub_le (by assumption) (by decide)) : Kept M Q s0 (State.meetSlot s k) :=
    by
  unfold State.meetSlot
  try dsimp only
  repeat' first
    | with_reducible assumption | with_reducible refine @kept_ite _ _ _ _ _ _ _ ?_ ?_
    | with_reducible refine State.meetCws_kept ?_ _ _

theorem State.raiseFloor_kept {M : Nat} {Q : List Instr} {s0 s : State} (hQ : Kept M Q s0 s) (k : Nat)
    (hm : sub 0x40 M = true := by exact sub_le (by assumption) (by decide)) : Kept M Q s0 (State.raiseFloor s k) := by
  unfold State.raiseFloor
  try dsimp only
  repeat' first
    | with_reducible assumption | with_reducible refine @kept_ite _ _ _ _ _ _ _ ?_ ?_
    | with_reducible refine Kept.put ?_ _ _ ?_ | exact all_nil_ok | refine all_cons_ok ?_ ?_ | exact ok_le hm (by decide)

theorem State.handOver_kept {M : Nat} {Q : List Instr} {s0 s : State} (hQ : Kept M Q s0 s) (f : Nat)
    (hm : sub 0x4000000070 M = true := by exact sub_le (by assumption) (by decide)) : Kept M Q s0 (State.handOver s f).1 := by
  unfold State.handOver
  try dsimp only
  repeat' first
    | with_reducible assumption | with_reducible refine @kept_ite _ _ _ _ _ _ _ ?_ ?_
    | with_reducible refine @kept_ite_fst _ _ _ _ _ _ _ _ ?_ ?_ | with_reducible refine State.drawWord_kept ?_
    | with_reducible refine Kept.put ?_ _ _ ?_ | with_reducible refine kept_foldl (fun t x ht => ?_) _ _ ?_
    | with_reducible refine kept_foldl_fst (fun t x ht => ?_) _ _ ?_ | exact all_nil_ok | refine all_cons_ok ?_ ?_
    | exact ok_le hm (by decide) | exact ok_add hm (by decide)

theorem State.bootRead_kept {M : Nat} {Q : List Instr} {s0 s : State} (hQ : Kept M Q s0 s)
    (hm : sub 0x3801120060 M = true := by exact sub_le (by assumption) (by decide)) : Kept M Q s0 (State.bootRead s) := by
  unfold State.bootRead
  try dsimp only
  repeat' first
    | with_reducible assumption | with_reducible refine @kept_ite _ _ _ _ _ _ _ ?_ ?_
    | with_reducible refine State.meetSlot_kept ?_ _

theorem State.bootDone_kept {M : Nat} {Q : List Instr} {s0 s : State} (hQ : Kept M Q s0 s) (cores : Nat)
    (hm : sub 0x4000010070 M = true := by exact sub_le (by assumption) (by decide)) : Kept M Q s0 (State.bootDone s cores)
    := by
  unfold State.bootDone
  try dsimp only
  repeat' first
    | with_reducible assumption | with_reducible refine @kept_ite _ _ _ _ _ _ _ ?_ ?_
    | with_reducible refine State.handOver_kept ?_ _ | with_reducible refine State.raiseFloor_kept ?_ _
    | with_reducible refine State.putAll_kept ?_ _ ?_ | with_reducible refine kept_foldl (fun t x ht => ?_) _ _ ?_
    | with_reducible refine kept_foldl_fst (fun t x ht => ?_) _ _ ?_ | exact all_nil_ok | refine all_cons_ok ?_ ?_
    | exact ok_le hm (by decide) | exact ok_add hm (by decide) | exact ok_add2 hm (by decide) | exact ok_at hm (by decide)
    | simp only [kept_mk] | with_reducible refine Kept.parts ?_
    | with_reducible refine Kept.partsDev ?_ (Kept.devWf (m := M) (q := Q) (s0 := s0) ?_ rfl rfl rfl rfl) | dsimp only
    | split

theorem State.bootFail_kept {M : Nat} {Q : List Instr} {s0 s : State} (hQ : Kept M Q s0 s)
    (hm : sub 0x1000110040 M = true := by exact sub_le (by assumption) (by decide)) : Kept M Q s0 (State.bootFail s) := by
  unfold State.bootFail
  try dsimp only
  repeat' first
    | with_reducible assumption | with_reducible refine @kept_ite _ _ _ _ _ _ _ ?_ ?_
    | with_reducible refine State.log_kept ?_ _ _ _ _ _ | with_reducible refine Kept.put ?_ _ _ ?_ | exact all_nil_ok
    | refine all_cons_ok ?_ ?_ | exact ok_le hm (by decide) | exact ok_add hm (by decide) | exact ok_add2 hm (by decide)
    | exact ok_at hm (by decide) | simp only [kept_mk] | with_reducible refine Kept.parts ?_

end Sys2Proof.Machine
end

