-- ==== Sys2Proof/Laws/KeptReturnOps.lean ====
section
/-! SUPPORT. What the definitions of Machine/ReturnOps.lean keep: one lemma `<name>_kept` for each (Laws/Kept.lean). -/

-- Proof bodies are elaborated in order: elaborated in parallel they wait on one another, each in a thread of its own.
set_option Elab.async false

namespace Sys2Proof.Machine
open Sys2Proof

theorem State.hubReset_kept {M : Nat} {Q : List Instr} {s0 s : State} (hQ : Kept M Q s0 s)
    (hm : sub 0x9eff3007f M = true := by exact sub_le (by assumption) (by decide)) : Kept M Q s0 (State.hubReset s) := by
  have h := Kept.put (State.resetHub_kept hQ) Reg.VOL_HOLD_HOLD_CAP (if bit (s.resetHub.get Reg.ID_STRAP_MP) 3 then 470 else 1000)
    (ok_le hm (by decide))
  exact kept_mk.mpr (h.partsAll rfl h.good.planeA h.good.planeB h.good.sealA h.good.sealB rfl h.good.devA h.good.devB h.good.words rfl)

theorem State.sealsDone_kept {M : Nat} {Q : List Instr} {s0 s : State} (hQ : Kept M Q s0 s)
    (hm : sub 0x3001190060 M = true := by exact sub_le (by assumption) (by decide)) : Kept M Q s0 (State.sealsDone s) := by
  unfold State.sealsDone
  try dsimp only
  repeat' first
    | with_reducible assumption | with_reducible refine @kept_ite _ _ _ _ _ _ _ ?_ ?_
    | with_reducible refine State.log_kept ?_ _ _ _ _ _ | with_reducible refine State.volEvent_kept ?_ _ ?_
    | with_reducible refine State.putAll_kept ?_ _ ?_ | with_reducible refine State.put36_kept ?_ _ _ _ ?_ ?_
    | with_reducible refine kept_foldl (fun t x ht => ?_) _ _ ?_
    | with_reducible refine kept_foldl_fst (fun t x ht => ?_) _ _ ?_ | exact all_nil_ok | refine all_cons_ok ?_ ?_
    | exact ok_le hm (by decide) | exact ok_add hm (by decide) | exact ok_add2 hm (by decide) | exact ok_at hm (by decide)
    | simp only [kept_mk] | with_reducible refine Kept.parts ?_

theorem State.rstatOf_kept {M : Nat} {Q : List Instr} {s0 s : State} (hQ : Kept M Q s0 s) (r : Nat) (c : Held × Bool × Bool)
    (hm : sub 0x60 M = true := by exact sub_le (by assumption) (by decide)) : Kept M Q s0 (State.rstatOf s r c) := by
  unfold State.rstatOf
  try dsimp only
  repeat' first
    | with_reducible assumption | with_reducible refine @kept_ite _ _ _ _ _ _ _ ?_ ?_
    | with_reducible refine State.putAll_kept ?_ _ ?_ | exact all_nil_ok | refine all_cons_ok ?_ ?_
    | exact ok_le hm (by decide) | exact ok_add hm (by decide)

theorem Good.planeImage {Q : List Instr} {s : State} (hQ : Good Q s) (b : Bool) (p : Nat) : Image.wf (s.planeImage b p) = true := by
  unfold State.planeImage
  cases b
  · exact imagesWf_get hQ.planeA p
  · exact imagesWf_get hQ.planeB p

theorem State.restoreRegion_kept {M : Nat} {Q : List Instr} {s0 s : State} (hQ : Kept M Q s0 s) (xs : List Held) (r : Nat)
    (hm : sub 0x20060 M = true := by exact sub_le (by assumption) (by decide)) : Kept M Q s0 (State.restoreRegion s xs r) := by
  unfold State.restoreRegion
  split
  · exact hQ
  · refine kept_ite hQ (kept_ite ?_ ?_)
    · exact State.bump_kept (State.rstatOf_kept (hQ.setImage _ (hQ.good.planeImage _ _)) _ _) _ (ok_le hm (by decide))
    · exact State.rstatOf_kept (hQ.setImage _ (Image.flat_wf _)) _ _

/-- Region 63's device state put back: its registers are restored ones, none of them fused (R89). -/
theorem Kept.withDevRegs {M : Nat} {Q : List Instr} {s0 s : State} (hQ : Kept M Q s0 s) {d : Dev} (hd : Dev.wf d = true)
    (hm : sub 0x10007f M = true := by exact sub_le (by assumption) (by decide)) :
    Kept M Q s0 { s with dev := d, regs := Map.setAll regReset s.regs d.regs } := by
  have hw := (Dev.wf_iff _).mp hd
  have h1 := hQ.withRegs (r := Map.setAll regReset s.regs d.regs) (Map.wf_setAll _ hQ.good.regs) (fun a ha => by
    rw [Map.get_setAll_ne, hQ.good.fused a ha]
    intro e he hea
    have := List.all_eq_true.mp hw.2.1 e he
    rw [hea] at this
    exact absurd this (by
      simp only [fusedReg, Bool.or_eq_true, decide_eq_true_eq] at ha
      have : a < 8 := by omega
      interval_cases a <;> decide))
    (fun a ha => by rw [all_regs (sub_le hm (by decide))] at ha; cases ha)
  exact kept_mk.mpr (h1.partsDev hd)

theorem State.restore63_kept {M : Nat} {Q : List Instr} {s0 s : State} (hQ : Kept M Q s0 s) (xs : List Held)
    (hm : sub 0x12007f M = true := by exact sub_le (by assumption) (by decide)) : Kept M Q s0 (State.restore63 s xs) := by
  unfold State.restore63
  split
  · next c _ =>
    have hd : Dev.wf (Map.get (fun _ => {}) (if c.1.planeB then s.devB else s.devA) c.1.phys) = true := by
      cases c.1.planeB
      · exact devsWf_get hQ.good.devA _
      · exact devsWf_get hQ.good.devB _
    exact State.bump_kept (State.rstatOf_kept ((hQ.setImage _ (hQ.good.planeImage _ _)).withDevRegs hd) _ _) _ (ok_le hm (by decide))
  · exact kept_mk.mpr ((hQ.setImage _ (Image.flat_wf _)).partsDev rfl)

theorem State.dropCopies_kept {M : Nat} {Q : List Instr} {s0 s : State} (hQ : Kept M Q s0 s)
    (hm : sub 0x3801120060 M = true := by exact sub_le (by assumption) (by decide)) : Kept M Q s0 (State.dropCopies s) :=
    by
  unfold State.dropCopies
  try dsimp only
  repeat' first
    | with_reducible assumption | with_reducible refine @kept_ite _ _ _ _ _ _ _ ?_ ?_
    | with_reducible refine State.retireLate_kept ?_ _ | with_reducible refine State.setRstate_kept ?_ _ _
    | with_reducible refine Kept.put ?_ _ _ ?_ | with_reducible refine Kept.setReg ?_ _ _ ?_
    | with_reducible refine kept_foldl (fun t x ht => ?_) _ _ ?_
    | with_reducible refine kept_foldl_fst (fun t x ht => ?_) _ _ ?_ | exact all_nil_ok | refine all_cons_ok ?_ ?_
    | exact ok_le hm (by decide) | exact ok_add hm (by decide) | exact ok_add2 hm (by decide) | exact ok_at hm (by decide)
    | dsimp only | split

theorem State.clearAtWake_kept {M : Nat} {Q : List Instr} {s0 s : State} (hQ : Kept M Q s0 s) (xs : List Held) (r : Nat)
    (hm : sub 0x20060 M = true := by exact sub_le (by assumption) (by decide)) : Kept M Q s0 (State.clearAtWake s xs r) := by
  unfold State.clearAtWake
  try dsimp only
  repeat' first
    | with_reducible assumption | with_reducible refine @kept_ite _ _ _ _ _ _ _ ?_ ?_
    | with_reducible refine State.bump_kept ?_ _ ?_ | with_reducible refine State.arrLast_kept ?_ _ _ _
    | with_reducible refine Kept.setImage ?_ _ ?_ | with_reducible refine Image.setEcc_wf ?_ _ _
    | with_reducible refine Image.setWord_wf ?_ _ _ | with_reducible refine Image.foldl_wf (fun m x hm => ?_) _ _ ?_
    | with_reducible refine Good.image (Q := Q) ?_ _ | with_reducible refine Good.cwImage (Q := Q) ?_ _
    | with_reducible exact Image.flat_wf _ | with_reducible refine copyImage_wf ?_ _
    | with_reducible refine Image.filterEcc_wf ?_ _ | with_reducible refine Image.keep_wf ?_ _ _
    | with_reducible refine Kept.good (m := M) (s0 := s0) ?_ | with_reducible refine Kept.put ?_ _ _ ?_ | exact all_nil_ok
    | refine all_cons_ok ?_ ?_ | exact ok_le hm (by decide) | exact ok_add hm (by decide)

theorem State.restoreHot_kept {M : Nat} {Q : List Instr} {s0 s : State} (hQ : Kept M Q s0 s) (xs : List Held)
    (hm : sub 0x20000000 M = true := by exact sub_le (by assumption) (by decide)) : Kept M Q s0 (State.restoreHot s xs) := by
  refine kept_mk.mpr (hQ.partsKeep hQ.good.words ?_)
  dsimp only
  split
  · exact ((Dev.wf_iff _).mp hQ.good.dev).2.2.2.1
  · exact State.hotLoad_wf _ _

theorem State.mapApplies_kept {M : Nat} {Q : List Instr} {s0 s : State} (hQ : Kept M Q s0 s) (xs : List Held)
    (hm : sub 0x3821120060 M = true := by exact sub_le (by assumption) (by decide)) : Kept M Q s0 (State.mapApplies s xs) := by
  unfold State.mapApplies
  try dsimp only
  repeat' first
    | with_reducible assumption | with_reducible refine @kept_ite _ _ _ _ _ _ _ ?_ ?_
    | with_reducible refine State.restoreHot_kept ?_ _ | with_reducible refine State.clearAtWake_kept ?_ _ _
    | with_reducible refine State.dropCopies_kept ?_ | with_reducible refine Kept.put ?_ _ _ ?_
    | with_reducible refine kept_foldl (fun t x ht => ?_) _ _ ?_
    | with_reducible refine kept_foldl_fst (fun t x ht => ?_) _ _ ?_ | exact all_nil_ok | refine all_cons_ok ?_ ?_
    | exact ok_le hm (by decide) | exact ok_add hm (by decide) | exact ok_add2 hm (by decide) | exact ok_at hm (by decide)
    | simp only [kept_mk] | with_reducible refine Kept.parts ?_
    | with_reducible refine Kept.partsDev ?_ (Kept.devWf (m := M) (q := Q) (s0 := s0) ?_ rfl rfl rfl rfl)

theorem State.restoreWave_kept {M : Nat} {Q : List Instr} {s0 s : State} (hQ : Kept M Q s0 s)
    (hm : sub 0x382113007f M = true := by exact sub_le (by assumption) (by decide)) : Kept M Q s0 (State.restoreWave s) := by
  unfold State.restoreWave
  try dsimp only
  repeat' first
    | with_reducible assumption | with_reducible refine @kept_ite _ _ _ _ _ _ _ ?_ ?_
    | with_reducible refine State.restoreRegion_kept ?_ _ _ | with_reducible refine State.restore63_kept ?_ _
    | with_reducible refine State.mapApplies_kept ?_ _ | with_reducible refine kept_foldl (fun t x ht => ?_) _ _ ?_
    | with_reducible refine kept_foldl_fst (fun t x ht => ?_) _ _ ?_ | simp only [kept_mk]
    | with_reducible refine Kept.parts ?_

theorem State.recoverOne_kept {M : Nat} {Q : List Instr} {s0 s : State} (hQ : Kept M Q s0 s) (i : Nat) (v : Nat)
    (hm : sub 0x40100020 M = true := by exact sub_le (by assumption) (by decide)) : Kept M Q s0 (State.recoverOne s i v) := by
  unfold State.recoverOne
  try dsimp only
  repeat' first
    | with_reducible assumption | with_reducible refine @kept_ite _ _ _ _ _ _ _ ?_ ?_
    | with_reducible refine State.setCredit_kept ?_ _ _ | with_reducible refine State.setCounter_kept ?_ _ _
    | with_reducible refine Kept.put ?_ _ _ ?_ | exact all_nil_ok | refine all_cons_ok ?_ ?_ | exact ok_le hm (by decide)

theorem State.recoverCounters_kept {M : Nat} {Q : List Instr} {s0 s : State} (hQ : Kept M Q s0 s)
    (hm : sub 0x40110060 M = true := by exact sub_le (by assumption) (by decide)) : Kept M Q s0 (State.recoverCounters s)
    := by
  unfold State.recoverCounters
  try dsimp only
  repeat' first
    | with_reducible assumption | with_reducible refine @kept_ite _ _ _ _ _ _ _ ?_ ?_
    | with_reducible refine State.recoverOne_kept ?_ _ _ | with_reducible refine State.setCopies_kept ?_ _
    | with_reducible refine Kept.put ?_ _ _ ?_ | with_reducible refine kept_foldl (fun t x ht => ?_) _ _ ?_
    | with_reducible refine kept_foldl_fst (fun t x ht => ?_) _ _ ?_ | exact all_nil_ok | refine all_cons_ok ?_ ?_
    | exact ok_le hm (by decide) | exact ok_add hm (by decide) | exact ok_add2 hm (by decide) | exact ok_at hm (by decide)
    | simp only [kept_mk] | with_reducible refine Kept.parts ?_
    | with_reducible refine Kept.partsDev ?_ (Kept.devWf (m := M) (q := Q) (s0 := s0) ?_ rfl rfl rfl rfl) | dsimp only
    | split

theorem State.markAllCut_kept {M : Nat} {Q : List Instr} {s0 s : State} (hQ : Kept M Q s0 s)
    (hm : sub 0x2841120040 M = true := by exact sub_le (by assumption) (by decide)) : Kept M Q s0 (State.markAllCut s) := by
  unfold State.markAllCut
  try dsimp only
  repeat' first
    | with_reducible assumption | with_reducible refine @kept_ite _ _ _ _ _ _ _ ?_ ?_
    | with_reducible refine State.ledEvent_kept ?_ _ ?_ | with_reducible refine State.markCut_kept ?_ _
    | with_reducible refine Kept.put ?_ _ _ ?_ | with_reducible refine kept_foldl (fun t x ht => ?_) _ _ ?_
    | with_reducible refine kept_foldl_fst (fun t x ht => ?_) _ _ ?_ | exact all_nil_ok | refine all_cons_ok ?_ ?_
    | exact ok_le hm (by decide)

end Sys2Proof.Machine
end

