-- ==== Sys2Proof/Laws/KeptPowerOps.lean ====
section
/-! SUPPORT. What the definitions of Machine/PowerOps.lean keep: one lemma `<name>_kept` for each (Laws/Kept.lean). -/

-- Proof bodies are elaborated in order: elaborated in parallel they wait on one another, each in a thread of its own.
set_option Elab.async false

namespace Sys2Proof.Machine
open Sys2Proof

theorem State.strapBegin_kept {M : Nat} {Q : List Instr} {s0 s : State} (hQ : Kept M Q s0 s) (cold : Bool)
    (hm : sub 0x10000 M = true := by exact sub_le (by assumption) (by decide)) : Kept M Q s0 (State.strapBegin s cold) := by
  unfold State.strapBegin
  try dsimp only
  repeat' first
    | with_reducible assumption | with_reducible refine @kept_ite _ _ _ _ _ _ _ ?_ ?_ | simp only [kept_mk]
    | with_reducible refine Kept.parts ?_

theorem State.strapLatch_kept {M : Nat} {Q : List Instr} {s0 s : State} (hQ : Kept M Q s0 s) (a : BitVec 8) (b : BitVec 8)
    (hm : sub 0x80001007f M = true := by exact sub_le (by assumption) (by decide)) : Kept M Q s0 (State.strapLatch s a b)
    := by
  unfold State.strapLatch
  try dsimp only
  repeat' first
    | with_reducible assumption | with_reducible refine @kept_ite _ _ _ _ _ _ _ ?_ ?_
    | with_reducible refine State.putAll_kept ?_ _ ?_ | with_reducible refine State.resetUmber_kept ?_ _ | exact all_nil_ok
    | refine all_cons_ok ?_ ?_ | exact ok_le hm (by decide) | exact ok_add hm (by decide) | exact ok_add2 hm (by decide)
    | exact ok_at hm (by decide) | simp only [kept_mk] | with_reducible refine Kept.parts ?_
    | with_reducible refine Kept.partsDev ?_ (Kept.devWf (m := M) (q := Q) (s0 := s0) ?_ rfl rfl rfl rfl) | dsimp only
    | split

theorem State.unpower_kept {M : Nat} {Q : List Instr} {s0 s : State} (hQ : Kept M Q s0 s)
    (hm : sub 0x27610002 M = true := by exact sub_le (by assumption) (by decide)) : Kept M Q s0 (State.unpower s) := by
  unfold State.unpower
  try dsimp only
  repeat' first
    | with_reducible assumption | with_reducible refine @kept_ite _ _ _ _ _ _ _ ?_ ?_
    | with_reducible refine State.allLow_kept ?_ | with_reducible refine State.clearBuffer_kept ?_
    | with_reducible refine Kept.put ?_ _ _ ?_ | exact all_nil_ok | refine all_cons_ok ?_ ?_ | exact ok_le hm (by decide)
    | exact ok_add hm (by decide) | exact ok_add2 hm (by decide) | exact ok_at hm (by decide) | simp only [kept_mk]
    | with_reducible refine Kept.parts ?_
    | with_reducible refine Kept.partsDev ?_ (Kept.devWf (m := M) (q := Q) (s0 := s0) ?_ rfl rfl rfl rfl) | dsimp only
    | split

theorem State.enterOff_kept {M : Nat} {Q : List Instr} {s0 s : State} (hQ : Kept M Q s0 s)
    (hm : sub 0x603761004a M = true := by exact sub_le (by assumption) (by decide)) : Kept M Q s0 (State.enterOff s) := by
  unfold State.enterOff
  try dsimp only
  repeat' first
    | with_reducible assumption | with_reducible refine @kept_ite _ _ _ _ _ _ _ ?_ ?_
    | with_reducible refine State.unpower_kept ?_ | with_reducible refine State.keepAbandon_kept ?_ | simp only [kept_mk]
    | with_reducible refine Kept.parts ?_
    | with_reducible refine Kept.partsDev ?_ (Kept.devWf (m := M) (q := Q) (s0 := s0) ?_ rfl rfl rfl rfl) | dsimp only
    | split

theorem State.enterDark_kept {M : Nat} {Q : List Instr} {s0 s : State} (hQ : Kept M Q s0 s)
    (hm : sub 0x603761004a M = true := by exact sub_le (by assumption) (by decide)) : Kept M Q s0 (State.enterDark s) := by
  unfold State.enterDark
  try dsimp only
  repeat' first
    | with_reducible assumption | with_reducible refine @kept_ite _ _ _ _ _ _ _ ?_ ?_
    | with_reducible refine State.strapBegin_kept ?_ _ | with_reducible refine State.goto_kept ?_ _
    | with_reducible refine State.enterOff_kept ?_ | with_reducible refine State.unpower_kept ?_

theorem State.enterStandby_kept {M : Nat} {Q : List Instr} {s0 s : State} (hQ : Kept M Q s0 s) (hold : Bool)
    (hm : sub 0x603761004a M = true := by exact sub_le (by assumption) (by decide)) : Kept M Q s0 (State.enterStandby s hold) := by
  unfold State.enterStandby
  try dsimp only
  repeat' first
    | with_reducible assumption | with_reducible refine @kept_ite _ _ _ _ _ _ _ ?_ ?_
    | with_reducible refine State.strapBegin_kept ?_ _ | with_reducible refine State.goto_kept ?_ _
    | with_reducible refine State.enterOff_kept ?_ | with_reducible refine State.unpower_kept ?_
    | with_reducible refine Kept.put ?_ _ _ ?_ | exact all_nil_ok | refine all_cons_ok ?_ ?_ | exact ok_le hm (by decide)
    | exact ok_add hm (by decide) | exact ok_add2 hm (by decide) | exact ok_at hm (by decide) | simp only [kept_mk]
    | with_reducible refine Kept.parts ?_

theorem State.alarmSkip_kept {M : Nat} {Q : List Instr} {s0 s : State} (hQ : Kept M Q s0 s) (k : Nat)
    (hm : sub 0x220100007e M = true := by exact sub_le (by assumption) (by decide)) : Kept M Q s0 (State.alarmSkip s k) := by
  unfold State.alarmSkip
  try dsimp only
  repeat' first
    | with_reducible assumption | with_reducible refine @kept_ite _ _ _ _ _ _ _ ?_ ?_
    | with_reducible refine State.alarmFire_kept ?_ _ _ | simp only [kept_mk] | with_reducible refine Kept.parts ?_
    | with_reducible refine Kept.partsDev ?_ (Kept.devWf (m := M) (q := Q) (s0 := s0) ?_ rfl rfl rfl rfl) | dsimp only | split

theorem State.rtcReset_kept {M : Nat} {Q : List Instr} {s0 s : State} (hQ : Kept M Q s0 s)
    (hm : sub 0x20000007f M = true := by exact sub_le (by assumption) (by decide)) : Kept M Q s0 (State.rtcReset s) := by
  unfold State.rtcReset
  try dsimp only
  repeat' first
    | with_reducible assumption | with_reducible refine @kept_ite _ _ _ _ _ _ _ ?_ ?_
    | with_reducible refine State.alarmCompute_kept ?_ _ | simp only [kept_mk] | with_reducible refine Kept.parts ?_
    | with_reducible refine Kept.partsKeepRegs ?_ _

theorem State.standbyFromOff_kept {M : Nat} {Q : List Instr} {s0 s : State} (hQ : Kept M Q s0 s)
    (hm : sub 0x2e2761007f M = true := by exact sub_le (by assumption) (by decide)) : Kept M Q s0 (State.standbyFromOff s) := by
  unfold State.standbyFromOff
  try dsimp only
  repeat' first
    | with_reducible assumption | with_reducible refine @kept_ite _ _ _ _ _ _ _ ?_ ?_
    | with_reducible refine State.strapBegin_kept ?_ _ | with_reducible refine State.loadBp_kept ?_
    | with_reducible refine State.goto_kept ?_ _ | with_reducible refine State.applyScript_kept ?_
    | with_reducible refine State.rtcReset_kept ?_ | with_reducible refine State.resetUmber_kept ?_ _
    | with_reducible refine State.unpower_kept ?_ | with_reducible refine State.alarmSkip_kept ?_ _
    | with_reducible refine State.heldAttach_kept ?_ | with_reducible refine State.attach_kept ?_ | simp only [kept_mk]
    | with_reducible refine Kept.parts ?_

theorem State.railsUp_kept {M : Nat} {Q : List Instr} {s0 s : State} (hQ : Kept M Q s0 s)
    (hm : sub 0x9eff3007f M = true := by exact sub_le (by assumption) (by decide)) : Kept M Q s0 (State.railsUp s) := by
  unfold State.railsUp
  try dsimp only
  repeat' first
    | with_reducible assumption | with_reducible refine @kept_ite _ _ _ _ _ _ _ ?_ ?_
    | with_reducible refine State.hubReset_kept ?_ | with_reducible refine State.showStep_kept ?_ _
    | with_reducible refine Kept.put ?_ _ _ ?_ | exact all_nil_ok | refine all_cons_ok ?_ ?_ | exact ok_le hm (by decide)
    | exact ok_add hm (by decide) | exact ok_add2 hm (by decide) | exact ok_at hm (by decide) | simp only [kept_mk]
    | with_reducible refine Kept.parts ?_

theorem State.wakeGo_kept {M : Nat} {Q : List Instr} {s0 s : State} (hQ : Kept M Q s0 s)
    (hm : sub 0x9eff3007f M = true := by exact sub_le (by assumption) (by decide)) : Kept M Q s0 (State.wakeGo s) := by
  unfold State.wakeGo
  try dsimp only
  repeat' first
    | with_reducible assumption | with_reducible refine @kept_ite _ _ _ _ _ _ _ ?_ ?_
    | with_reducible refine State.railsUp_kept ?_ | with_reducible refine State.runSteps_kept ?_ _ _ | simp only [kept_mk]
    | with_reducible refine Kept.parts ?_
    | with_reducible refine Kept.partsDev ?_ (Kept.devWf (m := M) (q := Q) (s0 := s0) ?_ rfl rfl rfl rfl) | dsimp only | split

theorem State.scriptRun_kept {M : Nat} {Q : List Instr} {s0 s : State} (hQ : Kept M Q s0 s)
    (hm : sub 0x29eff3007f M = true := by exact sub_le (by assumption) (by decide)) : Kept M Q s0 (State.scriptRun s) := by
  unfold State.scriptRun
  try dsimp only
  repeat' first
    | with_reducible assumption | with_reducible refine @kept_ite _ _ _ _ _ _ _ ?_ ?_
    | with_reducible refine State.wakeGo_kept ?_ | with_reducible refine State.applyScript_kept ?_ | simp only [kept_mk]
    | with_reducible refine Kept.parts ?_

theorem State.reloadResume_kept {M : Nat} {Q : List Instr} {s0 s : State} (hQ : Kept M Q s0 s)
    (hm : sub 0x200101007e M = true := by exact sub_le (by assumption) (by decide)) : Kept M Q s0 (State.reloadResume s)
    := by
  unfold State.reloadResume
  try dsimp only
  repeat' first
    | with_reducible assumption | with_reducible refine @kept_ite _ _ _ _ _ _ _ ?_ ?_
    | with_reducible refine State.reloadScript_kept ?_ | simp only [kept_mk] | with_reducible refine Kept.parts ?_
    | with_reducible refine Kept.partsDev ?_ (Kept.devWf (m := M) (q := Q) (s0 := s0) ?_ rfl rfl rfl rfl)

theorem State.scriptResume_kept {M : Nat} {Q : List Instr} {s0 s : State} (hQ : Kept M Q s0 s)
    (hm : sub 0x29eff3007f M = true := by exact sub_le (by assumption) (by decide)) : Kept M Q s0 (State.scriptResume s)
    := by
  unfold State.scriptResume
  try dsimp only
  repeat' first
    | with_reducible assumption | with_reducible refine @kept_ite _ _ _ _ _ _ _ ?_ ?_
    | with_reducible refine State.reloadResume_kept ?_ | with_reducible refine State.scriptRun_kept ?_ | simp only [kept_mk]
    | with_reducible refine Kept.parts ?_
    | with_reducible refine Kept.partsDev ?_ (Kept.devWf (m := M) (q := Q) (s0 := s0) ?_ rfl rfl rfl rfl) | dsimp only
    | split

theorem State.enterWaking_kept {M : Nat} {Q : List Instr} {s0 s : State} (hQ : Kept M Q s0 s) (last : Nat)
    (hm : sub 0x29eff3007f M = true := by exact sub_le (by assumption) (by decide)) : Kept M Q s0 (State.enterWaking s last) := by
  unfold State.enterWaking
  try dsimp only
  repeat' first
    | with_reducible assumption | with_reducible refine @kept_ite _ _ _ _ _ _ _ ?_ ?_
    | with_reducible refine State.scriptRun_kept ?_ | with_reducible refine State.goto_kept ?_ _
    | with_reducible refine Kept.put ?_ _ _ ?_ | exact all_nil_ok | refine all_cons_ok ?_ ?_ | exact ok_le hm (by decide)
    | exact ok_add hm (by decide) | exact ok_add2 hm (by decide) | exact ok_at hm (by decide) | simp only [kept_mk]
    | with_reducible refine Kept.parts ?_

theorem State.wakeAbort_kept {M : Nat} {Q : List Instr} {s0 s : State} (hQ : Kept M Q s0 s)
    (hm : sub 0x603761004a M = true := by exact sub_le (by assumption) (by decide)) : Kept M Q s0 (State.wakeAbort s) :=
    by
  unfold State.wakeAbort
  try dsimp only
  repeat' first
    | with_reducible assumption | with_reducible refine @kept_ite _ _ _ _ _ _ _ ?_ ?_
    | with_reducible refine State.enterDark_kept ?_ | simp only [kept_mk] | with_reducible refine Kept.parts ?_
    | with_reducible refine Kept.partsDev ?_ (Kept.devWf (m := M) (q := Q) (s0 := s0) ?_ rfl rfl rfl rfl) | dsimp only
    | split

theorem State.drainDone_kept {M : Nat} {Q : List Instr} {s0 s : State} (hQ : Kept M Q s0 s)
    (hm : sub 0x603761004a M = true := by exact sub_le (by assumption) (by decide)) : Kept M Q s0 (State.drainDone s) := by
  unfold State.drainDone
  try dsimp only
  repeat' first
    | with_reducible assumption | with_reducible refine @kept_ite _ _ _ _ _ _ _ ?_ ?_
    | with_reducible refine State.enterStandby_kept ?_ _ | with_reducible refine State.enterDark_kept ?_
    | with_reducible refine State.showStep_kept ?_ _ | simp only [kept_mk] | with_reducible refine Kept.parts ?_

theorem State.reverseDrop_kept {M : Nat} {Q : List Instr} {s0 s : State} (hQ : Kept M Q s0 s)
    (hm : sub 0x603761004a M = true := by exact sub_le (by assumption) (by decide)) : Kept M Q s0 (State.reverseDrop s) := by
  unfold State.reverseDrop
  try dsimp only
  repeat' first
    | with_reducible assumption | with_reducible refine @kept_ite _ _ _ _ _ _ _ ?_ ?_
    | with_reducible refine State.showStep_kept ?_ _ | with_reducible refine State.drainDone_kept ?_
    | with_reducible refine State.dropEn_kept ?_ _ | simp only [kept_mk] | with_reducible refine Kept.parts ?_
    | with_reducible refine Kept.partsDev ?_ (Kept.devWf (m := M) (q := Q) (s0 := s0) ?_ rfl rfl rfl rfl) | dsimp only | split

theorem State.shutdownGo_kept {M : Nat} {Q : List Instr} {s0 s : State} (hQ : Kept M Q s0 s)
    (hm : sub 0x603761004a M = true := by exact sub_le (by assumption) (by decide)) : Kept M Q s0 (State.shutdownGo s) := by
  unfold State.shutdownGo
  try dsimp only
  repeat' first
    | with_reducible assumption | with_reducible refine @kept_ite _ _ _ _ _ _ _ ?_ ?_
    | with_reducible refine State.drainDone_kept ?_ | with_reducible refine State.runSteps_kept ?_ _ _ | simp only [kept_mk]
    | with_reducible refine Kept.parts ?_
    | with_reducible refine Kept.partsDev ?_ (Kept.devWf (m := M) (q := Q) (s0 := s0) ?_ rfl rfl rfl rfl) | dsimp only | split

theorem State.shutdownStart_kept {M : Nat} {Q : List Instr} {s0 s : State} (hQ : Kept M Q s0 s)
    (hm : sub 0x603761004a M = true := by exact sub_le (by assumption) (by decide)) : Kept M Q s0 (State.shutdownStart s) := by
  unfold State.shutdownStart
  try dsimp only
  repeat' first
    | with_reducible assumption | with_reducible refine @kept_ite _ _ _ _ _ _ _ ?_ ?_
    | with_reducible refine State.reverseDrop_kept ?_ | with_reducible refine State.shutdownGo_kept ?_ | simp only [kept_mk]
    | with_reducible refine Kept.parts ?_
    | with_reducible refine Kept.partsDev ?_ (Kept.devWf (m := M) (q := Q) (s0 := s0) ?_ rfl rfl rfl rfl) | dsimp only | split

theorem State.drainAdvance_kept {M : Nat} {Q : List Instr} {s0 s : State} (hQ : Kept M Q s0 s)
    (hm : sub 0x20010040 M = true := by exact sub_le (by assumption) (by decide)) : Kept M Q s0 (State.drainAdvance s) := by
  unfold State.drainAdvance
  try dsimp only
  repeat' first
    | with_reducible assumption | with_reducible refine @kept_ite _ _ _ _ _ _ _ ?_ ?_
    | with_reducible refine State.flushStart_kept ?_ _ | simp only [kept_mk] | with_reducible refine Kept.parts ?_

theorem State.stopFetching_kept {M : Nat} {Q : List Instr} {s0 s : State} (hQ : Kept M Q s0 s) (h : PHost)
    (hm : sub 0x1000060 M = true := by exact sub_le (by assumption) (by decide)) : Kept M Q s0 (State.stopFetching s h) :=
    by
  unfold State.stopFetching
  try dsimp only
  repeat' first
    | with_reducible assumption | with_reducible refine @kept_ite _ _ _ _ _ _ _ ?_ ?_
    | with_reducible refine State.settleSq_kept ?_ _ _ | with_reducible refine State.setHost_kept ?_ _ _
    | with_reducible refine kept_foldl (fun t x ht => ?_) _ _ ?_
    | with_reducible refine kept_foldl_fst (fun t x ht => ?_) _ _ ?_ | simp only [kept_mk]
    | with_reducible refine Kept.parts ?_
    | with_reducible refine Kept.partsDev ?_ (Kept.devWf (m := M) (q := Q) (s0 := s0) ?_ rfl rfl rfl rfl) | dsimp only
    | split

theorem State.drainStart_kept {M : Nat} {Q : List Instr} {s0 s : State} (hQ : Kept M Q s0 s) (why : DrainBy)
    (hm : sub 0x3867130060 M = true := by exact sub_le (by assumption) (by decide)) : Kept M Q s0 (State.drainStart s why)
    := by
  unfold State.drainStart
  try dsimp only
  repeat' first
    | with_reducible assumption | with_reducible refine @kept_ite _ _ _ _ _ _ _ ?_ ?_
    | with_reducible refine State.stopFetching_kept ?_ _ | with_reducible refine State.drainAdvance_kept ?_
    | with_reducible refine State.dropWindow_kept ?_ | with_reducible refine State.drainCheck_kept ?_ _
    | with_reducible refine State.setStn_kept ?_ _ _ | with_reducible refine State.goto_kept ?_ _
    | with_reducible refine kept_foldl (fun t x ht => ?_) _ _ ?_
    | with_reducible refine kept_foldl_fst (fun t x ht => ?_) _ _ ?_ | simp only [kept_mk]
    | with_reducible refine Kept.parts ?_
    | with_reducible refine Kept.partsDev ?_ (Kept.devWf (m := M) (q := Q) (s0 := s0) ?_ rfl rfl rfl rfl) | dsimp only
    | split

theorem State.drainLimit_kept {M : Nat} {Q : List Instr} {s0 s : State} (hQ : Kept M Q s0 s)
    (hm : sub 0x3867130060 M = true := by exact sub_le (by assumption) (by decide)) : Kept M Q s0 (State.drainLimit s) := by
  unfold State.drainLimit
  try dsimp only
  repeat' first
    | with_reducible assumption | with_reducible refine @kept_ite _ _ _ _ _ _ _ ?_ ?_
    | with_reducible refine State.disarm_kept ?_ _ | with_reducible refine State.drainAdvance_kept ?_
    | with_reducible refine kept_foldl (fun t x ht => ?_) _ _ ?_

theorem State.perstAtRun_kept {M : Nat} {Q : List Instr} {s0 s : State} (hQ : Kept M Q s0 s)
    (hm : sub 0x3ae792007f M = true := by exact sub_le (by assumption) (by decide)) : Kept M Q s0 (State.perstAtRun s) :=
    by
  unfold State.perstAtRun
  try dsimp only
  repeat' first
    | with_reducible assumption | with_reducible refine @kept_ite _ _ _ _ _ _ _ ?_ ?_
    | with_reducible refine State.functionReset_kept ?_ _ _ | with_reducible refine kept_foldl (fun t x ht => ?_) _ _ ?_
    | with_reducible refine kept_foldl_fst (fun t x ht => ?_) _ _ ?_ | dsimp only | split

theorem State.enterRun_kept {M : Nat} {Q : List Instr} {s0 s : State} (hQ : Kept M Q s0 s)
    (hm : sub 0x3ae793007f M = true := by exact sub_le (by assumption) (by decide)) : Kept M Q s0 (State.enterRun s) := by
  unfold State.enterRun
  try dsimp only
  repeat' first
    | with_reducible assumption | with_reducible refine @kept_ite _ _ _ _ _ _ _ ?_ ?_
    | with_reducible refine State.perstAtRun_kept ?_ | with_reducible refine State.drainStart_kept ?_ _
    | with_reducible refine State.cycleResume_kept ?_ | with_reducible refine State.freeFollow_kept ?_
    | with_reducible refine State.trainStart_kept ?_ _ | with_reducible refine State.logHeld_kept ?_
    | with_reducible refine State.hostEvent_kept ?_ _ _ ?_ | with_reducible refine State.goto_kept ?_ _
    | with_reducible refine Kept.put ?_ _ _ ?_ | with_reducible refine kept_foldl (fun t x ht => ?_) _ _ ?_
    | with_reducible refine kept_foldl_fst (fun t x ht => ?_) _ _ ?_ | exact all_nil_ok | refine all_cons_ok ?_ ?_
    | exact ok_le hm (by decide) | exact ok_add hm (by decide) | exact ok_add2 hm (by decide) | exact ok_at hm (by decide)
    | simp only [kept_mk] | with_reducible refine Kept.parts ?_
    | with_reducible refine Kept.partsDev ?_ (Kept.devWf (m := M) (q := Q) (s0 := s0) ?_ rfl rfl rfl rfl) | dsimp only
    | split | intro _

theorem State.volleyEnd_kept {M : Nat} {Q : List Instr} {s0 s : State} (hQ : Kept M Q s0 s) (t : Store) (result : Nat) (waves
    : Nat) (vhold : Nat) (time : Nat) (hm : sub 0x603761006a M = true := by exact sub_le (by assumption) (by decide)) : Kept M
    Q s0 (State.volleyEnd s t result waves vhold time) := by
  unfold State.volleyEnd
  try dsimp only
  repeat' first
    | with_reducible assumption | with_reducible refine @kept_ite _ _ _ _ _ _ _ ?_ ?_
    | with_reducible refine State.storeOver_kept ?_ _ _ _ _ _ | with_reducible refine State.enterDark_kept ?_

theorem State.drainStored_kept {M : Nat} {Q : List Instr} {s0 s : State} (hQ : Kept M Q s0 s)
    (hm : sub 0x603761004a M = true := by exact sub_le (by assumption) (by decide)) : Kept M Q s0 (State.drainStored s) := by
  unfold State.drainStored
  try dsimp only
  repeat' first
    | with_reducible assumption | with_reducible refine @kept_ite _ _ _ _ _ _ _ ?_ ?_
    | with_reducible refine State.shutdownStart_kept ?_ | simp only [kept_mk] | with_reducible refine Kept.parts ?_

theorem State.makeRecords_kept {M : Nat} {Q : List Instr} {s0 s : State} (hQ : Kept M Q s0 s)
    (hm : sub 0x2100000 M = true := by exact sub_le (by assumption) (by decide)) : Kept M Q s0 (State.makeRecords s) := by
  unfold State.makeRecords
  try dsimp only
  repeat' first
    | with_reducible assumption | with_reducible refine @kept_ite _ _ _ _ _ _ _ ?_ ?_ | simp only [kept_mk]
    | with_reducible refine Kept.parts ?_
    | with_reducible refine Kept.partsDev ?_ (Kept.devWf (m := M) (q := Q) (s0 := s0) ?_ rfl rfl rfl rfl)

theorem State.cutCheckpoint_kept {M : Nat} {Q : List Instr} {s0 s : State} (hQ : Kept M Q s0 s)
    (hm : sub 0x7841760060 M = true := by exact sub_le (by assumption) (by decide)) : Kept M Q s0 (State.cutCheckpoint s)
    := by
  unfold State.cutCheckpoint
  try dsimp only
  repeat' first
    | with_reducible assumption | with_reducible refine @kept_ite _ _ _ _ _ _ _ ?_ ?_
    | with_reducible refine State.tearSeals_kept ?_ _ | with_reducible refine State.cutWave_kept ?_ _
    | with_reducible refine State.ledRelease_kept ?_ | simp only [kept_mk] | with_reducible refine Kept.parts ?_
    | with_reducible refine Kept.partsDev ?_ (Kept.devWf (m := M) (q := Q) (s0 := s0) ?_ rfl rfl rfl rfl) | dsimp only
    | split

theorem State.abortStations_kept {M : Nat} {Q : List Instr} {s0 s : State} (hQ : Kept M Q s0 s)
    (hm : sub 0x2004000000 M = true := by exact sub_le (by assumption) (by decide)) : Kept M Q s0 (State.abortStations s)
    := by
  unfold State.abortStations
  try dsimp only
  repeat' first
    | with_reducible assumption | with_reducible refine @kept_ite _ _ _ _ _ _ _ ?_ ?_
    | with_reducible refine State.setStn_kept ?_ _ _ | with_reducible refine State.emit_kept ?_ _
    | with_reducible refine kept_foldl (fun t x ht => ?_) _ _ ?_
    | with_reducible refine kept_foldl_fst (fun t x ht => ?_) _ _ ?_ | simp only [kept_mk]
    | with_reducible refine Kept.parts ?_
    | with_reducible refine Kept.partsDev ?_ (Kept.devWf (m := M) (q := Q) (s0 := s0) ?_ rfl rfl rfl rfl) | dsimp only
    | split

theorem State.enterVolley_kept {M : Nat} {Q : List Instr} {s0 s : State} (hQ : Kept M Q s0 s) (cause : Cause) (fromVin :
    Bool) (channel : Nat) (keep : Bool) (hm : sub 0x787777007e M = true := by exact sub_le (by assumption) (by decide)) :
    Kept M Q s0 (State.enterVolley s cause fromVin channel keep) := by
  unfold State.enterVolley
  try dsimp only
  repeat' first
    | with_reducible assumption | with_reducible refine @kept_ite _ _ _ _ _ _ _ ?_ ?_
    | with_reducible refine State.abortStations_kept ?_ | with_reducible refine State.cutCheckpoint_kept ?_
    | with_reducible refine State.makeRecords_kept ?_ | with_reducible refine State.reloadResume_kept ?_
    | with_reducible refine State.shed_kept ?_ | with_reducible refine State.storeBegin_kept ?_ _ _ _
    | with_reducible refine State.ledRelease_kept ?_ | with_reducible refine State.keepAbandon_kept ?_
    | with_reducible refine State.yieldHeld_kept ?_ | with_reducible refine State.goto_kept ?_ _
    | with_reducible refine Kept.put ?_ _ _ ?_ | exact all_nil_ok | refine all_cons_ok ?_ ?_ | exact ok_le hm (by decide)
    | exact ok_add hm (by decide) | exact ok_add2 hm (by decide) | exact ok_at hm (by decide) | simp only [kept_mk]
    | with_reducible refine Kept.parts ?_
    | with_reducible refine Kept.partsDev ?_ (Kept.devWf (m := M) (q := Q) (s0 := s0) ?_ rfl rfl rfl rfl) | dsimp only
    | split

theorem State.powerFail_kept {M : Nat} {Q : List Instr} {s0 s : State} (hQ : Kept M Q s0 s) (c : Nat)
    (hm : sub 0x787777007e M = true := by exact sub_le (by assumption) (by decide)) : Kept M Q s0 (State.powerFail s c) :=
    by
  unfold State.powerFail
  try dsimp only
  repeat' first
    | with_reducible assumption | with_reducible refine @kept_ite _ _ _ _ _ _ _ ?_ ?_
    | with_reducible refine State.enterVolley_kept ?_ _ _ _ _ | with_reducible refine State.wakeAbort_kept ?_
    | with_reducible refine State.reloadResume_kept ?_ | with_reducible refine State.keepAbandon_kept ?_
    | with_reducible refine Kept.put ?_ _ _ ?_ | exact all_nil_ok | refine all_cons_ok ?_ ?_ | exact ok_le hm (by decide)
    | exact ok_add hm (by decide) | exact ok_add2 hm (by decide) | exact ok_at hm (by decide) | simp only [kept_mk]
    | with_reducible refine Kept.parts ?_
    | with_reducible refine Kept.partsDev ?_ (Kept.devWf (m := M) (q := Q) (s0 := s0) ?_ rfl rfl rfl rfl) | dsimp only
    | split

theorem State.noteFault_kept {M : Nat} {Q : List Instr} {s0 s : State} (hQ : Kept M Q s0 s) (c : Nat) (fault : Bool)
    (hm : sub 0x10000 M = true := by exact sub_le (by assumption) (by decide)) : Kept M Q s0 (State.noteFault s c fault) := by
  unfold State.noteFault
  try dsimp only
  repeat' first
    | with_reducible assumption | with_reducible refine @kept_ite _ _ _ _ _ _ _ ?_ ?_ | simp only [kept_mk]
    | with_reducible refine Kept.parts ?_

theorem State.noteAction_kept {M : Nat} {Q : List Instr} {s0 s : State} (hQ : Kept M Q s0 s) (c : Nat) (high : Bool)
    (hm : sub 0x2001010002 M = true := by exact sub_le (by assumption) (by decide)) : Kept M Q s0 (State.noteAction s c
    high) := by
  unfold State.noteAction
  try dsimp only
  repeat' first
    | with_reducible assumption | with_reducible refine @kept_ite _ _ _ _ _ _ _ ?_ ?_
    | with_reducible refine State.noteFault_kept ?_ _ _ | with_reducible refine State.supEvent_kept ?_ _ ?_
    | exact all_nil_ok | refine all_cons_ok ?_ ?_ | exact ok_le hm (by decide) | exact ok_add hm (by decide)
    | exact ok_add2 hm (by decide) | exact ok_at hm (by decide) | dsimp only | split

theorem State.takeActions_kept {M : Nat} {Q : List Instr} {s0 s : State} (hQ : Kept M Q s0 s) (cs : List (Nat × Bool))
    (hm : sub 0x787777007e M = true := by exact sub_le (by assumption) (by decide)) : Kept M Q s0 (State.takeActions s cs)
    := by
  unfold State.takeActions
  try dsimp only
  repeat' first
    | with_reducible assumption | with_reducible refine @kept_ite _ _ _ _ _ _ _ ?_ ?_
    | with_reducible refine State.noteAction_kept ?_ _ _ | with_reducible refine State.powerFail_kept ?_ _
    | with_reducible refine State.capture_kept ?_ _ _ _ | with_reducible refine kept_foldl (fun t x ht => ?_) _ _ ?_
    | with_reducible refine kept_foldl_fst (fun t x ht => ?_) _ _ ?_ | simp only [kept_mk]
    | with_reducible refine Kept.parts ?_
    | with_reducible refine Kept.partsDev ?_ (Kept.devWf (m := M) (q := Q) (s0 := s0) ?_ rfl rfl rfl rfl) | dsimp only
    | split

theorem State.keepDiscard_kept {M : Nat} {Q : List Instr} {s0 s : State} (hQ : Kept M Q s0 s)
    (hm : sub 0x2003010060 M = true := by exact sub_le (by assumption) (by decide)) : Kept M Q s0 (State.keepDiscard s) :=
    by
  unfold State.keepDiscard
  try dsimp only
  repeat' first
    | with_reducible assumption | with_reducible refine @kept_ite _ _ _ _ _ _ _ ?_ ?_
    | with_reducible refine State.fixAll_kept ?_ _ _ | simp only [kept_mk] | with_reducible refine Kept.parts ?_
    | with_reducible refine Kept.partsDev ?_ (Kept.devWf (m := M) (q := Q) (s0 := s0) ?_ rfl rfl rfl rfl) | dsimp only
    | split

theorem State.vstbyGone_kept {M : Nat} {Q : List Instr} {s0 s : State} (hQ : Kept M Q s0 s)
    (hm : sub 0x7bfff3007f M = true := by exact sub_le (by assumption) (by decide)) : Kept M Q s0 (State.vstbyGone s) :=
    by
  unfold State.vstbyGone
  try dsimp only
  repeat' first
    | with_reducible assumption | with_reducible refine @kept_ite _ _ _ _ _ _ _ ?_ ?_
    | with_reducible refine State.keepDiscard_kept ?_ | with_reducible refine State.scriptResume_kept ?_
    | with_reducible refine State.reloadResume_kept ?_ | with_reducible refine State.enterOff_kept ?_
    | with_reducible refine State.settle_kept ?_ | with_reducible refine State.keepAbandon_kept ?_

theorem State.channelsOut_kept {M : Nat} {Q : List Instr} {s0 s : State} (hQ : Kept M Q s0 s) (cs : List (Nat × Bool))
    (hm : sub 0x7bfff7007f M = true := by exact sub_le (by assumption) (by decide)) : Kept M Q s0 (State.channelsOut s cs)
    := by
  unfold State.channelsOut
  try dsimp only
  repeat' first
    | with_reducible assumption | with_reducible refine @kept_ite _ _ _ _ _ _ _ ?_ ?_
    | with_reducible refine State.vstbyGone_kept ?_ | with_reducible refine State.takeActions_kept ?_ _
    | with_reducible refine Kept.put ?_ _ _ ?_ | with_reducible refine kept_foldl (fun t x ht => ?_) _ _ ?_
    | with_reducible refine kept_foldl_fst (fun t x ht => ?_) _ _ ?_ | exact all_nil_ok | refine all_cons_ok ?_ ?_
    | exact ok_le hm (by decide) | exact ok_add hm (by decide) | exact ok_add2 hm (by decide) | exact ok_at hm (by decide)
    | dsimp only | split

theorem State.channelOut_kept {M : Nat} {Q : List Instr} {s0 s : State} (hQ : Kept M Q s0 s) (c : Nat) (high : Bool) (also
    : List (Nat × Bool)) (hm : sub 0x7bfff7007f M = true := by exact sub_le (by assumption) (by decide)) : Kept M Q s0
    (State.channelOut s c high also) := by
  unfold State.channelOut
  try dsimp only
  repeat' first
    | with_reducible assumption | with_reducible refine @kept_ite _ _ _ _ _ _ _ ?_ ?_
    | with_reducible refine State.channelsOut_kept ?_ _ | exact all_nil_ok | refine all_cons_ok ?_ ?_
    | exact ok_le hm (by decide) | exact ok_add hm (by decide) | exact ok_add2 hm (by decide) | exact ok_at hm (by decide)
    | dsimp only | split | with_reducible refine Kept.put ?_ _ _ ?_

theorem State.channelIn_kept {M : Nat} {Q : List Instr} {s0 s : State} (hQ : Kept M Q s0 s) (c : Nat)
    (hm : sub 0x210002 M = true := by exact sub_le (by assumption) (by decide)) : Kept M Q s0 (State.channelIn s c) := by
  unfold State.channelIn
  try dsimp only
  repeat' first
    | with_reducible assumption | with_reducible refine @kept_ite _ _ _ _ _ _ _ ?_ ?_
    | with_reducible refine Kept.put ?_ _ _ ?_ | exact all_nil_ok | refine all_cons_ok ?_ ?_ | exact ok_le hm (by decide)
    | exact ok_add hm (by decide) | exact ok_add2 hm (by decide) | exact ok_at hm (by decide) | simp only [kept_mk]
    | with_reducible refine Kept.parts ?_
    | with_reducible refine Kept.partsDev ?_ (Kept.devWf (m := M) (q := Q) (s0 := s0) ?_ rfl rfl rfl rfl) | dsimp only
    | split

theorem State.resetVolley_kept {M : Nat} {Q : List Instr} {s0 s : State} (hQ : Kept M Q s0 s) (strap : Bool)
    (hm : sub 0x787777007e M = true := by exact sub_le (by assumption) (by decide)) : Kept M Q s0 (State.resetVolley s strap) := by
  unfold State.resetVolley
  try dsimp only
  repeat' first
    | with_reducible assumption | with_reducible refine @kept_ite _ _ _ _ _ _ _ ?_ ?_
    | with_reducible refine State.enterVolley_kept ?_ _ _ _ _ | simp only [kept_mk] | with_reducible refine Kept.parts ?_

theorem State.resetLow_kept {M : Nat} {Q : List Instr} {s0 s : State} (hQ : Kept M Q s0 s)
    (hm : sub 0x787777007e M = true := by exact sub_le (by assumption) (by decide)) : Kept M Q s0 (State.resetLow s) := by
  unfold State.resetLow
  try dsimp only
  repeat' first
    | with_reducible assumption | with_reducible refine @kept_ite _ _ _ _ _ _ _ ?_ ?_
    | with_reducible refine State.wakeAbort_kept ?_ | with_reducible refine State.resetVolley_kept ?_ _
    | with_reducible refine State.strapBegin_kept ?_ _ | simp only [kept_mk] | with_reducible refine Kept.parts ?_
    | with_reducible refine Kept.partsDev ?_ (Kept.devWf (m := M) (q := Q) (s0 := s0) ?_ rfl rfl rfl rfl) | dsimp only | split

theorem State.resetHigh_kept {M : Nat} {Q : List Instr} {s0 s : State} (hQ : Kept M Q s0 s)
    (hm : sub 0x10000 M = true := by exact sub_le (by assumption) (by decide)) : Kept M Q s0 (State.resetHigh s) := by
  unfold State.resetHigh
  try dsimp only
  repeat' first
    | with_reducible assumption | with_reducible refine @kept_ite _ _ _ _ _ _ _ ?_ ?_ | simp only [kept_mk]
    | with_reducible refine Kept.parts ?_

theorem State.clockLost_kept {M : Nat} {Q : List Instr} {s0 s : State} (hQ : Kept M Q s0 s)
    (hm : sub 0x787777007e M = true := by exact sub_le (by assumption) (by decide)) : Kept M Q s0 (State.clockLost s) := by
  unfold State.clockLost
  try dsimp only
  repeat' first
    | with_reducible assumption | with_reducible refine @kept_ite _ _ _ _ _ _ _ ?_ ?_
    | with_reducible refine State.wakeAbort_kept ?_ | with_reducible refine State.enterVolley_kept ?_ _ _ _ _
    | simp only [kept_mk] | with_reducible refine Kept.parts ?_
    | with_reducible refine Kept.partsDev ?_ (Kept.devWf (m := M) (q := Q) (s0 := s0) ?_ rfl rfl rfl rfl) | dsimp only | split

theorem State.clusterOut_kept {M : Nat} {Q : List Instr} {s0 s : State} (hQ : Kept M Q s0 s) (f : Nat)
    (hm : sub 0x7867130070 M = true := by exact sub_le (by assumption) (by decide)) : Kept M Q s0 (State.clusterOut s f) := by
  unfold State.clusterOut
  try dsimp only
  repeat' first
    | with_reducible assumption | with_reducible refine @kept_ite _ _ _ _ _ _ _ ?_ ?_
    | with_reducible refine State.drainStart_kept ?_ _ | with_reducible refine State.fwEvent_kept ?_ _ ?_
    | with_reducible refine State.log_kept ?_ _ _ _ _ _ | with_reducible refine State.handOver_kept ?_ _
    | with_reducible refine State.putAll_kept ?_ _ ?_ | exact all_nil_ok | refine all_cons_ok ?_ ?_
    | exact ok_le hm (by decide) | exact ok_add hm (by decide) | exact ok_add2 hm (by decide) | exact ok_at hm (by decide)

theorem State.coreOut_kept {M : Nat} {Q : List Instr} {s0 s : State} (hQ : Kept M Q s0 s) (core : Nat)
    (hm : sub 0x7867130070 M = true := by exact sub_le (by assumption) (by decide)) : Kept M Q s0 (State.coreOut s core) := by
  unfold State.coreOut
  try dsimp only
  repeat' first
    | with_reducible assumption | with_reducible refine @kept_ite _ _ _ _ _ _ _ ?_ ?_
    | with_reducible refine State.clusterOut_kept ?_ _ | with_reducible refine State.fwEvent_kept ?_ _ ?_
    | with_reducible refine State.log_kept ?_ _ _ _ _ _ | with_reducible refine State.putAll_kept ?_ _ ?_ | exact all_nil_ok
    | refine all_cons_ok ?_ ?_ | exact ok_le hm (by decide) | exact ok_add hm (by decide) | exact ok_add2 hm (by decide)
    | exact ok_at hm (by decide)

end Sys2Proof.Machine
end

