-- ==== Sys2Proof/Laws/KeptWake.lean ====
section
/-! SUPPORT. What the definitions of Machine/Wake.lean keep: one lemma `<name>_kept` for each (Laws/Kept.lean). -/

-- Proof bodies are elaborated in order: elaborated in parallel they wait on one another, each in a thread of its own.
set_option Elab.async false

namespace Sys2Proof.Machine
open Sys2Proof

theorem execVstbyGood_kept {s : State} (hI : State.Inv s) : ∃ u, (execVstbyGood s) = .next u ∧ Kept 0x2e2761007f s.pending s u := by
  have hQ := kept_start hI 0x2e2761007f
  have hm := sub_refl 0x2e2761007f
  unfold execVstbyGood
  refine ⟨_, rfl, ?_⟩
  try dsimp only
  repeat' first
    | with_reducible assumption | with_reducible refine @kept_ite _ _ _ _ _ _ _ ?_ ?_
    | with_reducible refine State.standbyFromOff_kept ?_

theorem execVstbyLost_kept {s : State} (hI : State.Inv s) : ∃ u, (execVstbyLost s) = .next u ∧ Kept 0x603761004a s.pending s u := by
  have hQ := kept_start hI 0x603761004a
  have hm := sub_refl 0x603761004a
  unfold execVstbyLost
  refine ⟨_, rfl, ?_⟩
  try dsimp only
  repeat' first
    | with_reducible assumption | with_reducible refine @kept_ite _ _ _ _ _ _ _ ?_ ?_
    | with_reducible refine State.enterOff_kept ?_

theorem execWakeStart_kept {s : State} (hI : State.Inv s) : ∃ u, (execWakeStart s) = .next u ∧ Kept 0x29eff3007f s.pending s u := by
  have hQ := kept_start hI 0x29eff3007f
  have hm := sub_refl 0x29eff3007f
  unfold execWakeStart
  refine ⟨_, rfl, ?_⟩
  try dsimp only
  repeat' first
    | with_reducible assumption | with_reducible refine @kept_ite _ _ _ _ _ _ _ ?_ ?_
    | with_reducible refine State.enterWaking_kept ?_ _

theorem execDarkToWaking_kept {s : State} (hI : State.Inv s) : ∃ u, (execDarkToWaking s) = .next u ∧ Kept 0x29eff3007f
    s.pending s u := by
  have hQ := kept_start hI 0x29eff3007f
  have hm := sub_refl 0x29eff3007f
  unfold execDarkToWaking
  refine ⟨_, rfl, ?_⟩
  try dsimp only
  repeat' first
    | with_reducible assumption | with_reducible refine @kept_ite _ _ _ _ _ _ _ ?_ ?_
    | with_reducible refine State.enterWaking_kept ?_ _

theorem State.reload_kept {M : Nat} {Q : List Instr} {s0 s : State} (hQ : Kept M Q s0 s) (x : Sender)
    (hm : sub 0x200101007e M = true := by exact sub_le (by assumption) (by decide)) : Kept M Q s0 (State.reload s x) := by
  unfold State.reload
  try dsimp only
  repeat' first
    | with_reducible assumption | with_reducible refine @kept_ite _ _ _ _ _ _ _ ?_ ?_
    | with_reducible refine State.reloadScript_kept ?_ | simp only [kept_mk] | with_reducible refine Kept.parts ?_

theorem execReload_kept {s : State} (hI : State.Inv s) (from_ : Sender) : ∃ u, (execReload from_ s) = .next u ∧ Kept
    0x200101007e s.pending s u := by
  have hQ := kept_start hI 0x200101007e
  have hm := sub_refl 0x200101007e
  unfold execReload
  refine ⟨_, rfl, ?_⟩
  try dsimp only
  repeat' first
    | with_reducible assumption | with_reducible refine @kept_ite _ _ _ _ _ _ _ ?_ ?_
    | with_reducible refine State.reload_kept ?_ _

theorem execScriptDelayDone_kept {s : State} (hI : State.Inv s) : ∃ u, (execScriptDelayDone s) = .next u ∧ Kept 0x69fff3007f
    s.pending s u := by
  have hQ := kept_start hI 0x69fff3007f
  have hm := sub_refl 0x69fff3007f
  unfold execScriptDelayDone
  refine ⟨_, rfl, ?_⟩
  try dsimp only
  repeat' first
    | with_reducible assumption | with_reducible refine @kept_ite _ _ _ _ _ _ _ ?_ ?_
    | with_reducible refine State.shutdownGo_kept ?_ | with_reducible refine State.nextPos_kept ?_
    | with_reducible refine State.wakeGo_kept ?_ | simp only [kept_mk] | with_reducible refine Kept.parts ?_
    | with_reducible refine Kept.partsDev ?_ (Kept.devWf (m := 0x69fff3007f)  ?_ rfl rfl rfl rfl) | dsimp only | split

theorem State.armGate_kept {M : Nat} {Q : List Instr} {s0 s : State} (hQ : Kept M Q s0 s) (c : Nat)
    (hm : sub 0x10000 M = true := by exact sub_le (by assumption) (by decide)) : Kept M Q s0 (State.armGate s c) := by
  unfold State.armGate
  try dsimp only
  repeat' first
    | with_reducible assumption | with_reducible refine @kept_ite _ _ _ _ _ _ _ ?_ ?_ | simp only [kept_mk]
    | with_reducible refine Kept.parts ?_

theorem execWaitPgDone_kept {s : State} (hI : State.Inv s) : ∃ u, (execWaitPgDone s) = .next u ∧ Kept 0x9eff3007f s.pending s
    u := by
  have hQ := kept_start hI 0x9eff3007f
  have hm := sub_refl 0x9eff3007f
  unfold execWaitPgDone
  refine ⟨_, rfl, ?_⟩
  try dsimp only
  repeat' first
    | with_reducible assumption | with_reducible refine @kept_ite _ _ _ _ _ _ _ ?_ ?_
    | with_reducible refine State.armGate_kept ?_ _ | with_reducible refine State.nextPos_kept ?_
    | with_reducible refine State.wakeGo_kept ?_ | simp only [kept_mk] | with_reducible refine Kept.parts ?_
    | with_reducible refine Kept.partsDev ?_ (Kept.devWf (m := 0x9eff3007f)  ?_ rfl rfl rfl rfl) | dsimp only | split

theorem execWaitPgTimeout_kept {s : State} (hI : State.Inv s) (above : Bool) : ∃ u, (execWaitPgTimeout above s) = .next u ∧
    Kept 0x603761004a s.pending s u := by
  have hQ := kept_start hI 0x603761004a
  have hm := sub_refl 0x603761004a
  unfold execWaitPgTimeout
  refine ⟨_, rfl, ?_⟩
  try dsimp only
  repeat' first
    | with_reducible assumption | with_reducible refine @kept_ite _ _ _ _ _ _ _ ?_ ?_
    | with_reducible refine State.enterStandby_kept ?_ _ | with_reducible refine State.allLow_kept ?_
    | with_reducible refine State.capture_kept ?_ _ _ _ | with_reducible refine State.supEvent_kept ?_ _ ?_
    | with_reducible refine Kept.put ?_ _ _ ?_ | exact all_nil_ok | refine all_cons_ok ?_ ?_ | exact ok_le hm (by decide)
    | exact ok_add hm (by decide) | exact ok_add2 hm (by decide) | exact ok_at hm (by decide) | simp only [kept_mk]
    | with_reducible refine Kept.parts ?_
    | with_reducible refine Kept.partsDev ?_ (Kept.devWf (m := 0x603761004a)  ?_ rfl rfl rfl rfl) | dsimp only | split

theorem execShutdownDrop_kept {s : State} (hI : State.Inv s) : ∃ u, (execShutdownDrop s) = .next u ∧ Kept 0x603761004a
    s.pending s u := by
  have hQ := kept_start hI 0x603761004a
  have hm := sub_refl 0x603761004a
  unfold execShutdownDrop
  refine ⟨_, rfl, ?_⟩
  try dsimp only
  repeat' first
    | with_reducible assumption | with_reducible refine @kept_ite _ _ _ _ _ _ _ ?_ ?_
    | with_reducible refine State.reverseDrop_kept ?_

theorem execCPllLock_kept {s : State} (hI : State.Inv s) : ∃ u, (execCPllLock s) = .next u ∧ Kept 0x10000 s.pending s u := by
  have hQ := kept_start hI 0x10000
  have hm := sub_refl 0x10000
  unfold execCPllLock
  refine ⟨_, rfl, ?_⟩
  try dsimp only
  repeat' first
    | with_reducible assumption | with_reducible refine @kept_ite _ _ _ _ _ _ _ ?_ ?_ | simp only [kept_mk]
    | with_reducible refine Kept.parts ?_

theorem execPllLockTimeout_kept {s : State} (hI : State.Inv s) : ∃ u, (execPllLockTimeout s) = .next u ∧ Kept 0x603761004a
    s.pending s u := by
  have hQ := kept_start hI 0x603761004a
  have hm := sub_refl 0x603761004a
  unfold execPllLockTimeout
  refine ⟨_, rfl, ?_⟩
  try dsimp only
  repeat' first
    | with_reducible assumption | with_reducible refine @kept_ite _ _ _ _ _ _ _ ?_ ?_
    | with_reducible refine State.wakeAbort_kept ?_

theorem execSealReadDone_kept {s : State} (hI : State.Inv s) : ∃ u, (execSealReadDone s) = .next u ∧ Kept 0x3001190060
    s.pending s u := by
  have hQ := kept_start hI 0x3001190060
  have hm := sub_refl 0x3001190060
  unfold execSealReadDone
  refine ⟨_, rfl, ?_⟩
  try dsimp only
  repeat' first
    | with_reducible assumption | with_reducible refine @kept_ite _ _ _ _ _ _ _ ?_ ?_
    | with_reducible refine State.sealsDone_kept ?_

theorem execRestoreWaveDone_kept {s : State} (hI : State.Inv s) : ∃ u, (execRestoreWaveDone s) = .next u ∧ Kept 0x382113007f
    s.pending s u := by
  have hQ := kept_start hI 0x382113007f
  have hm := sub_refl 0x382113007f
  unfold execRestoreWaveDone
  refine ⟨_, rfl, ?_⟩
  try dsimp only
  repeat' first
    | with_reducible assumption | with_reducible refine @kept_ite _ _ _ _ _ _ _ ?_ ?_
    | with_reducible refine State.restoreWave_kept ?_

theorem execClearingDone_kept {s : State} (hI : State.Inv s) : ∃ u, (execClearingDone s) = .next u ∧ Kept 0x810000 s.pending s
    u := by
  have hQ := kept_start hI 0x810000
  have hm := sub_refl 0x810000
  unfold execClearingDone
  refine ⟨_, rfl, ?_⟩
  try dsimp only
  repeat' first
    | with_reducible assumption | with_reducible refine @kept_ite _ _ _ _ _ _ _ ?_ ?_ | simp only [kept_mk]
    | with_reducible refine Kept.parts ?_

theorem execCounterRecovery_kept {s : State} (hI : State.Inv s) : ∃ u, (execCounterRecovery s) = .next u ∧ Kept 0x40110060
    s.pending s u := by
  have hQ := kept_start hI 0x40110060
  have hm := sub_refl 0x40110060
  unfold execCounterRecovery
  refine ⟨_, rfl, ?_⟩
  try dsimp only
  repeat' first
    | with_reducible assumption | with_reducible refine @kept_ite _ _ _ _ _ _ _ ?_ ?_
    | with_reducible refine State.recoverCounters_kept ?_

theorem execFirmwareBooted_kept {s : State} (hI : State.Inv s) (cores : BitVec 16) : ∃ u, (execFirmwareBooted s cores) =
    .next u ∧ Kept 0x7801130070 s.pending s u := by
  have hQ := kept_start hI 0x7801130070
  have hm := sub_refl 0x7801130070
  unfold execFirmwareBooted
  refine ⟨_, rfl, ?_⟩
  try dsimp only
  repeat' first
    | with_reducible assumption | with_reducible refine @kept_ite _ _ _ _ _ _ _ ?_ ?_
    | with_reducible refine State.bootDone_kept ?_ _ | with_reducible refine State.bootRead_kept ?_

theorem execBootTimeout_kept {s : State} (hI : State.Inv s) : ∃ u, (execBootTimeout s) = .next u ∧ Kept 0x1000110040 s.pending
    s u := by
  have hQ := kept_start hI 0x1000110040
  have hm := sub_refl 0x1000110040
  unfold execBootTimeout
  refine ⟨_, rfl, ?_⟩
  try dsimp only
  repeat' first
    | with_reducible assumption | with_reducible refine @kept_ite _ _ _ _ _ _ _ ?_ ?_
    | with_reducible refine State.bootFail_kept ?_

theorem execOpenSheetRebuild_kept {s : State} (hI : State.Inv s) : ∃ u, (execOpenSheetRebuild s) = .next u ∧ Kept 0x3ae793007f
    s.pending s u := by
  have hQ := kept_start hI 0x3ae793007f
  have hm := sub_refl 0x3ae793007f
  unfold execOpenSheetRebuild
  refine ⟨_, rfl, ?_⟩
  try dsimp only
  repeat' first
    | with_reducible assumption | with_reducible refine @kept_ite _ _ _ _ _ _ _ ?_ ?_
    | with_reducible refine State.markAllCut_kept ?_ | with_reducible refine State.enterRun_kept ?_

end Sys2Proof.Machine
end

