-- ==== Sys2Proof/Laws/KeptReset.lean ====
section
/-! SUPPORT. What the definitions of Machine/Reset.lean keep: one lemma `<name>_kept` for each (Laws/Kept.lean). -/

-- Proof bodies are elaborated in order: elaborated in parallel they wait on one another, each in a thread of its own.
set_option Elab.async false

namespace Sys2Proof.Machine
open Sys2Proof

theorem execResetNLow_kept {s : State} (hI : State.Inv s) : ∃ u, (execResetNLow s) = .next u ∧ Kept 0x787777007e s.pending s u := by
  have hQ := kept_start hI 0x787777007e
  have hm := sub_refl 0x787777007e
  unfold execResetNLow
  refine ⟨_, rfl, ?_⟩
  try dsimp only
  repeat' first
    | with_reducible assumption | with_reducible refine @kept_ite _ _ _ _ _ _ _ ?_ ?_
    | with_reducible refine State.resetLow_kept ?_

theorem execResetNHigh_kept {s : State} (hI : State.Inv s) : ∃ u, (execResetNHigh s) = .next u ∧ Kept 0x10000 s.pending s u := by
  have hQ := kept_start hI 0x10000
  have hm := sub_refl 0x10000
  unfold execResetNHigh
  refine ⟨_, rfl, ?_⟩
  try dsimp only
  repeat' first
    | with_reducible assumption | with_reducible refine @kept_ite _ _ _ _ _ _ _ ?_ ?_
    | with_reducible refine State.resetHigh_kept ?_

theorem execStrapSample_kept {s : State} (hI : State.Inv s) (mp : BitVec 8) : ∃ u, (execStrapSample mp s) = .next u ∧ Kept
    0x10000 s.pending s u := by
  have hQ := kept_start hI 0x10000
  have hm := sub_refl 0x10000
  unfold execStrapSample
  refine ⟨_, rfl, ?_⟩
  try dsimp only
  repeat' first
    | with_reducible assumption | with_reducible refine @kept_ite _ _ _ _ _ _ _ ?_ ?_ | simp only [kept_mk]
    | with_reducible refine Kept.parts ?_

theorem execStrapPhaseEnd_kept {s : State} (hI : State.Inv s) : ∃ u, (execStrapPhaseEnd s) = .next u ∧ Kept 0x80001007f s.pending
    s u := by
  have hQ := kept_start hI 0x80001007f
  have hm := sub_refl 0x80001007f
  unfold execStrapPhaseEnd
  refine ⟨_, rfl, ?_⟩
  try dsimp only
  repeat' first
    | with_reducible assumption | with_reducible refine @kept_ite _ _ _ _ _ _ _ ?_ ?_
    | with_reducible refine State.strapLatch_kept ?_ _ _ | simp only [kept_mk] | with_reducible refine Kept.parts ?_
    | with_reducible refine Kept.partsDev ?_ (Kept.devWf (m := 0x80001007f)  ?_ rfl rfl rfl rfl) | dsimp only | split

theorem execPwrokFall_kept {s : State} (hI : State.Inv s) : ∃ u, (execPwrokFall s) = .next u ∧ Kept 0x3867130060 s.pending s u := by
  have hQ := kept_start hI 0x3867130060
  have hm := sub_refl 0x3867130060
  unfold execPwrokFall
  refine ⟨_, rfl, ?_⟩
  try dsimp only
  repeat' first
    | with_reducible assumption | with_reducible refine @kept_ite _ _ _ _ _ _ _ ?_ ?_
    | with_reducible refine State.drainStart_kept ?_ _ | simp only [kept_mk] | with_reducible refine Kept.parts ?_

theorem execPwrokRise_kept {s : State} (hI : State.Inv s) : ∃ u, (execPwrokRise s) = .next u ∧ Kept 0x10002 s.pending s u := by
  have hQ := kept_start hI 0x10002
  have hm := sub_refl 0x10002
  unfold execPwrokRise
  refine ⟨_, rfl, ?_⟩
  try dsimp only
  repeat' first
    | with_reducible assumption | with_reducible refine @kept_ite _ _ _ _ _ _ _ ?_ ?_
    | with_reducible refine State.clearHold_kept ?_ | simp only [kept_mk] | with_reducible refine Kept.parts ?_

theorem State.warmReset_kept {M : Nat} {Q : List Instr} {s0 s : State} (hQ : Kept M Q s0 s) (x : Sender) (key : Nat)
    (hm : sub 0x787777007e M = true := by exact sub_le (by assumption) (by decide)) : Kept M Q s0 (State.warmReset s x key) := by
  unfold State.warmReset
  try dsimp only
  repeat' first
    | with_reducible assumption | with_reducible refine @kept_ite _ _ _ _ _ _ _ ?_ ?_
    | with_reducible refine State.resetVolley_kept ?_ _

theorem execWarmReset_kept {s : State} (hI : State.Inv s) (from_ : Sender) (key : BitVec 12) : ∃ u, (execWarmReset from_ key
    s) = .next u ∧ Kept 0x787777007e s.pending s u := by
  have hQ := kept_start hI 0x787777007e
  have hm := sub_refl 0x787777007e
  unfold execWarmReset
  refine ⟨_, rfl, ?_⟩
  try dsimp only
  repeat' first
    | with_reducible assumption | with_reducible refine @kept_ite _ _ _ _ _ _ _ ?_ ?_
    | with_reducible refine State.warmReset_kept ?_ _ _

theorem State.powerDown_kept {M : Nat} {Q : List Instr} {s0 s : State} (hQ : Kept M Q s0 s) (x : Sender)
    (hm : sub 0x3867130060 M = true := by exact sub_le (by assumption) (by decide)) : Kept M Q s0 (State.powerDown s x) := by
  unfold State.powerDown
  try dsimp only
  repeat' first
    | with_reducible assumption | with_reducible refine @kept_ite _ _ _ _ _ _ _ ?_ ?_
    | with_reducible refine State.drainStart_kept ?_ _

theorem execPowerDownRequest_kept {s : State} (hI : State.Inv s) (from_ : Sender) : ∃ u, (execPowerDownRequest from_ s) =
    .next u ∧ Kept 0x3867130060 s.pending s u := by
  have hQ := kept_start hI 0x3867130060
  have hm := sub_refl 0x3867130060
  unfold execPowerDownRequest
  refine ⟨_, rfl, ?_⟩
  try dsimp only
  repeat' first
    | with_reducible assumption | with_reducible refine @kept_ite _ _ _ _ _ _ _ ?_ ?_
    | with_reducible refine State.powerDown_kept ?_ _

theorem State.wakeReq_kept {M : Nat} {Q : List Instr} {s0 s : State} (hQ : Kept M Q s0 s) (x : Sender)
    (hm : sub 0x2 M = true := by exact sub_le (by assumption) (by decide)) : Kept M Q s0 (State.wakeReq s x) := by
  unfold State.wakeReq
  try dsimp only
  repeat' first
    | with_reducible assumption | with_reducible refine @kept_ite _ _ _ _ _ _ _ ?_ ?_
    | with_reducible refine State.clearHold_kept ?_

theorem execWake_kept {s : State} (hI : State.Inv s) (from_ : Sender) : ∃ u, (execWake from_ s) = .next u ∧ Kept 0x2 s.pending
    s u := by
  have hQ := kept_start hI 0x2
  have hm := sub_refl 0x2
  unfold execWake
  refine ⟨_, rfl, ?_⟩
  try dsimp only
  repeat' first
    | with_reducible assumption | with_reducible refine @kept_ite _ _ _ _ _ _ _ ?_ ?_
    | with_reducible refine State.wakeReq_kept ?_ _

theorem execDrainImagingLimit_kept {s : State} (hI : State.Inv s) : ∃ u, (execDrainImagingLimit s) = .next u ∧ Kept
    0x3867130060 s.pending s u := by
  have hQ := kept_start hI 0x3867130060
  have hm := sub_refl 0x3867130060
  unfold execDrainImagingLimit
  refine ⟨_, rfl, ?_⟩
  try dsimp only
  repeat' first
    | with_reducible assumption | with_reducible refine @kept_ite _ _ _ _ _ _ _ ?_ ?_
    | with_reducible refine State.drainLimit_kept ?_

theorem State.drainStoreStart_kept {M : Nat} {Q : List Instr} {s0 s : State} (hQ : Kept M Q s0 s)
    (hm : sub 0x603771006a M = true := by exact sub_le (by assumption) (by decide)) : Kept M Q s0 (State.drainStoreStart s) := by
  unfold State.drainStoreStart
  try dsimp only
  repeat' first
    | with_reducible assumption | with_reducible refine @kept_ite _ _ _ _ _ _ _ ?_ ?_
    | with_reducible refine State.fixAll_kept ?_ _ _ | with_reducible refine State.storeOver_kept ?_ _ _ _ _ _
    | with_reducible refine State.drainStored_kept ?_ | with_reducible refine State.storeBegin_kept ?_ _ _ _
    | with_reducible refine State.freeze_kept ?_ | with_reducible refine State.joinCkpt_kept ?_
    | with_reducible refine State.refuseCkpt_kept ?_ | simp only [kept_mk] | with_reducible refine Kept.parts ?_
    | with_reducible refine Kept.partsDev ?_ (Kept.devWf (m := M) (q := Q) (s0 := s0) ?_ rfl rfl rfl rfl) | dsimp only | split

theorem execDrainStoreStart_kept {s : State} (hI : State.Inv s) : ∃ u, (execDrainStoreStart s) = .next u ∧ Kept 0x603771006a
    s.pending s u := by
  have hQ := kept_start hI 0x603771006a
  have hm := sub_refl 0x603771006a
  unfold execDrainStoreStart
  refine ⟨_, rfl, ?_⟩
  try dsimp only
  repeat' first
    | with_reducible assumption | with_reducible refine @kept_ite _ _ _ _ _ _ _ ?_ ?_
    | with_reducible refine State.drainStoreStart_kept ?_

end Sys2Proof.Machine
end

