-- ==== Sys2Proof/Laws/KeptClocks.lean ====
section
/-! SUPPORT. What the definitions of Machine/Clocks.lean keep: one lemma `<name>_kept` for each (Laws/Kept.lean). -/

-- Proof bodies are elaborated in order: elaborated in parallel they wait on one another, each in a thread of its own.
set_option Elab.async false

namespace Sys2Proof.Machine
open Sys2Proof

theorem execClockLoss_kept {s : State} (hI : State.Inv s) : ∃ u, (execClockLoss s) = .next u ∧ Kept 0x787777007e s.pending s u := by
  have hQ := kept_start hI 0x787777007e
  have hm := sub_refl 0x787777007e
  unfold execClockLoss
  refine ⟨_, rfl, ?_⟩
  try dsimp only
  repeat' first
    | with_reducible assumption | with_reducible refine @kept_ite _ _ _ _ _ _ _ ?_ ?_
    | with_reducible refine State.clockLost_kept ?_

theorem State.linkGone_kept {M : Nat} {Q : List Instr} {s0 s : State} (hQ : Kept M Q s0 s) (h : PHost)
    (hm : sub 0x3ae792007f M = true := by exact sub_le (by assumption) (by decide)) : Kept M Q s0 (State.linkGone s h) := by
  unfold State.linkGone
  try dsimp only
  repeat' first
    | with_reducible assumption | with_reducible refine @kept_ite _ _ _ _ _ _ _ ?_ ?_
    | with_reducible refine State.setHost_kept ?_ _ _ | with_reducible refine State.functionReset_kept ?_ _ _
    | with_reducible refine Kept.put ?_ _ _ ?_ | exact all_nil_ok | refine all_cons_ok ?_ ?_ | exact ok_le hm (by decide)
    | exact ok_add hm (by decide)

theorem execRefclkLoss_kept {s : State} (hI : State.Inv s) (port : Fin 2) : ∃ u, (execRefclkLoss port s) = .next u ∧ Kept
    0x3ae793007f s.pending s u := by
  have hQ := kept_start hI 0x3ae793007f
  have hm := sub_refl 0x3ae793007f
  unfold execRefclkLoss
  refine ⟨_, rfl, ?_⟩
  try dsimp only
  repeat' first
    | with_reducible assumption | with_reducible refine @kept_ite _ _ _ _ _ _ _ ?_ ?_
    | with_reducible refine State.linkGone_kept ?_ _ | with_reducible refine State.cycleGo_kept ?_
    | with_reducible refine kept_foldl (fun t x ht => ?_) _ _ ?_
    | with_reducible refine kept_foldl_fst (fun t x ht => ?_) _ _ ?_ | simp only [kept_mk]
    | with_reducible refine Kept.parts ?_

theorem State.pllStall_kept {M : Nat} {Q : List Instr} {s0 s : State} (hQ : Kept M Q s0 s) (n : StnId)
    (hm : sub 0x7847120060 M = true := by exact sub_le (by assumption) (by decide)) : Kept M Q s0 (State.pllStall s n) :=
    by
  unfold State.pllStall
  try dsimp only
  repeat' first
    | with_reducible assumption | with_reducible refine @kept_ite _ _ _ _ _ _ _ ?_ ?_
    | with_reducible refine State.stallNow_kept ?_ _ | with_reducible refine State.disarmNow_kept ?_ _
    | with_reducible refine State.setStn_kept ?_ _ _ | with_reducible refine State.emit_kept ?_ _ | simp only [kept_mk]
    | with_reducible refine Kept.parts ?_
    | with_reducible refine Kept.partsDev ?_ (Kept.devWf (m := M) (q := Q) (s0 := s0) ?_ rfl rfl rfl rfl) | dsimp only
    | split

theorem execSPllUnlock_kept {s : State} (hI : State.Inv s) : ∃ u, (execSPllUnlock s) = .next u ∧ Kept 0x7867130060 s.pending s
    u := by
  have hQ := kept_start hI 0x7867130060
  have hm := sub_refl 0x7867130060
  unfold execSPllUnlock
  refine ⟨_, rfl, ?_⟩
  try dsimp only
  repeat' first
    | with_reducible assumption | with_reducible refine @kept_ite _ _ _ _ _ _ _ ?_ ?_
    | with_reducible refine State.pllStall_kept ?_ _ | with_reducible refine State.drainAdvance_kept ?_
    | with_reducible refine kept_foldl (fun t x ht => ?_) _ _ ?_
    | with_reducible refine kept_foldl_fst (fun t x ht => ?_) _ _ ?_ | simp only [kept_mk]
    | with_reducible refine Kept.parts ?_

theorem execSPllRelock_kept {s : State} (hI : State.Inv s) : ∃ u, (execSPllRelock s) = .next u ∧ Kept 0x4010000 s.pending s u := by
  have hQ := kept_start hI 0x4010000
  have hm := sub_refl 0x4010000
  unfold execSPllRelock
  refine ⟨_, rfl, ?_⟩
  try dsimp only
  repeat' first
    | with_reducible assumption | with_reducible refine @kept_ite _ _ _ _ _ _ _ ?_ ?_
    | with_reducible refine State.setStn_kept ?_ _ _ | with_reducible refine kept_foldl (fun t x ht => ?_) _ _ ?_
    | with_reducible refine kept_foldl_fst (fun t x ht => ?_) _ _ ?_ | simp only [kept_mk]
    | with_reducible refine Kept.parts ?_

theorem execCrystalStop_kept {s : State} (hI : State.Inv s) : ∃ u, (execCrystalStop s) = .next u ∧ Kept 0x2001010004 s.pending
    s u := by
  have hQ := kept_start hI 0x2001010004
  have hm := sub_refl 0x2001010004
  unfold execCrystalStop
  refine ⟨_, rfl, ?_⟩
  try dsimp only
  repeat' first
    | with_reducible assumption | with_reducible refine @kept_ite _ _ _ _ _ _ _ ?_ ?_
    | with_reducible refine State.setOsf_kept ?_ _ ?_ | exact all_nil_ok | refine all_cons_ok ?_ ?_
    | exact ok_le hm (by decide) | exact ok_add hm (by decide) | exact ok_add2 hm (by decide) | exact ok_at hm (by decide)
    | simp only [kept_mk] | with_reducible refine Kept.parts ?_

theorem execCrystalRestart_kept {s : State} (hI : State.Inv s) : ∃ u, (execCrystalRestart s) = .next u ∧ Kept 0x10000
    s.pending s u := by
  have hQ := kept_start hI 0x10000
  have hm := sub_refl 0x10000
  unfold execCrystalRestart
  refine ⟨_, rfl, ?_⟩
  try dsimp only
  repeat' first
    | with_reducible assumption | with_reducible refine @kept_ite _ _ _ _ _ _ _ ?_ ?_ | simp only [kept_mk]
    | with_reducible refine Kept.parts ?_

end Sys2Proof.Machine
end

