-- ==== Sys2Proof/Laws/KeptSupervisor.lean ====
section
/-! SUPPORT. What the definitions of Machine/Supervisor.lean keep: one lemma `<name>_kept` for each (Laws/Kept.lean). -/

-- Proof bodies are elaborated in order: elaborated in parallel they wait on one another, each in a thread of its own.
set_option Elab.async false

namespace Sys2Proof.Machine
open Sys2Proof

theorem execChannelOut_kept {s : State} (hI : State.Inv s) (c : Fin 12) (high : Bool) (also : List (Fin 12 × Bool)) : ∃ u,
    (execChannelOut c high s also) = .next u ∧ Kept 0x7bfff7007f s.pending s u := by
  have hQ := kept_start hI 0x7bfff7007f
  have hm := sub_refl 0x7bfff7007f
  unfold execChannelOut
  refine ⟨_, rfl, ?_⟩
  try dsimp only
  repeat' first
    | with_reducible assumption | with_reducible refine @kept_ite _ _ _ _ _ _ _ ?_ ?_
    | with_reducible refine State.channelOut_kept ?_ _ _ _ | exact all_nil_ok | refine all_cons_ok ?_ ?_
    | exact ok_le hm (by decide) | exact ok_add hm (by decide) | exact ok_add2 hm (by decide) | exact ok_at hm (by decide)
    | dsimp only | split

theorem execChannelIn_kept {s : State} (hI : State.Inv s) (c : Fin 12) : ∃ u, (execChannelIn c s) = .next u ∧ Kept 0x210002
    s.pending s u := by
  have hQ := kept_start hI 0x210002
  have hm := sub_refl 0x210002
  unfold execChannelIn
  refine ⟨_, rfl, ?_⟩
  try dsimp only
  repeat' first
    | with_reducible assumption | with_reducible refine @kept_ite _ _ _ _ _ _ _ ?_ ?_
    | with_reducible refine State.channelIn_kept ?_ _

theorem execFirstFailSpill_kept {s : State} (hI : State.Inv s) : ∃ u, (execFirstFailSpill s) = .next u ∧ Kept 0x30000000
    s.pending s u := by
  have hQ := kept_start hI 0x30000000
  have hm := sub_refl 0x30000000
  unfold execFirstFailSpill
  refine ⟨_, rfl, ?_⟩
  try dsimp only
  repeat' first
    | with_reducible assumption | with_reducible refine @kept_ite _ _ _ _ _ _ _ ?_ ?_
    | with_reducible refine State.spillStart_kept ?_

theorem execFreeChannelArm_kept {s : State} (hI : State.Inv s) (c : Fin 12) : ∃ u, (execFreeChannelArm c s) = .next u ∧ Kept
    0x10000 s.pending s u := by
  have hQ := kept_start hI 0x10000
  have hm := sub_refl 0x10000
  unfold execFreeChannelArm
  refine ⟨_, rfl, ?_⟩
  try dsimp only
  repeat' first
    | with_reducible assumption | with_reducible refine @kept_ite _ _ _ _ _ _ _ ?_ ?_ | simp only [kept_mk]
    | with_reducible refine Kept.parts ?_

theorem execVolleyWarn_kept {s : State} (hI : State.Inv s) (below : Bool) : ∃ u, (execVolleyWarn below s) = .next u ∧ Kept
    0x2001010002 s.pending s u := by
  have hQ := kept_start hI 0x2001010002
  have hm := sub_refl 0x2001010002
  unfold execVolleyWarn
  refine ⟨_, rfl, ?_⟩
  try dsimp only
  repeat' first
    | with_reducible assumption | with_reducible refine @kept_ite _ _ _ _ _ _ _ ?_ ?_
    | with_reducible refine State.warnFollow_kept ?_ | simp only [kept_mk] | with_reducible refine Kept.parts ?_

theorem execVholdSample_kept {s : State} (hI : State.Inv s) (code : BitVec 10) : ∃ u, (execVholdSample code s) = .next u ∧
    Kept 0x2001010062 s.pending s u := by
  have hQ := kept_start hI 0x2001010062
  have hm := sub_refl 0x2001010062
  unfold execVholdSample
  refine ⟨_, rfl, ?_⟩
  try dsimp only
  repeat' first
    | with_reducible assumption | with_reducible refine @kept_ite _ _ _ _ _ _ _ ?_ ?_
    | with_reducible refine State.watch_kept ?_ _ | with_reducible refine Kept.put ?_ _ _ ?_ | exact all_nil_ok
    | refine all_cons_ok ?_ ?_ | exact ok_le hm (by decide)

theorem execChargerFull_kept {s : State} (hI : State.Inv s) (full : Bool) : ∃ u, (execChargerFull full s) = .next u ∧ Kept 0x2
    s.pending s u := by
  have hQ := kept_start hI 0x2
  have hm := sub_refl 0x2
  unfold execChargerFull
  refine ⟨_, rfl, ?_⟩
  try dsimp only
  repeat' first
    | with_reducible assumption | with_reducible refine @kept_ite _ _ _ _ _ _ _ ?_ ?_
    | with_reducible refine Kept.put ?_ _ _ ?_ | exact all_nil_ok | refine all_cons_ok ?_ ?_ | exact ok_le hm (by decide)

end Sys2Proof.Machine
end

