-- ==== Sys2Proof/Laws/KeptVolley.lean ====
section
/-! SUPPORT. What the definitions of Machine/Volley.lean keep: one lemma `<name>_kept` for each (Laws/Kept.lean). -/

-- Proof bodies are elaborated in order: elaborated in parallel they wait on one another, each in a thread of its own.
set_option Elab.async false

namespace Sys2Proof.Machine
open Sys2Proof

theorem State.frozenNow_kept {M : Nat} {Q : List Instr} {s0 s : State} (hQ : Kept M Q s0 s)
    (hm : sub 0x300020 M = true := by exact sub_le (by assumption) (by decide)) : Kept M Q s0 (State.frozenNow s) := by
  unfold State.frozenNow
  try dsimp only
  repeat' first
    | with_reducible assumption | with_reducible refine @kept_ite _ _ _ _ _ _ _ ?_ ?_
    | with_reducible refine State.freeze_kept ?_ | simp only [kept_mk] | with_reducible refine Kept.parts ?_
    | with_reducible refine Kept.partsDev ?_ (Kept.devWf (m := M) (q := Q) (s0 := s0) ?_ rfl rfl rfl rfl) | dsimp only | split

theorem State.volleyWave_kept {M : Nat} {Q : List Instr} {s0 s : State} (hQ : Kept M Q s0 s) (vhold : Nat)
    (hm : sub 0x7a77f7007e M = true := by exact sub_le (by assumption) (by decide)) : Kept M Q s0 (State.volleyWave s vhold) := by
  unfold State.volleyWave
  try dsimp only
  repeat' first
    | with_reducible assumption | with_reducible refine @kept_ite _ _ _ _ _ _ _ ?_ ?_
    | with_reducible refine State.stepCode_kept ?_ _ | with_reducible refine State.waveStart_kept ?_ _ _
    | with_reducible refine State.volleyEnd_kept ?_ _ _ _ _ _ | with_reducible refine State.frozenNow_kept ?_
    | with_reducible refine Kept.put ?_ _ _ ?_ | exact all_nil_ok | refine all_cons_ok ?_ ?_ | exact ok_le hm (by decide)
    | exact ok_add hm (by decide) | exact ok_add2 hm (by decide) | exact ok_at hm (by decide) | simp only [kept_mk]
    | with_reducible refine Kept.parts ?_
    | with_reducible refine Kept.partsDev ?_ (Kept.devWf (m := M) (q := Q) (s0 := s0) ?_ rfl rfl rfl rfl) | dsimp only | split

theorem execVolleyWaveStart_kept {s : State} (hI : State.Inv s) (vhold : BitVec 10) : ∃ u, (execVolleyWaveStart vhold s) =
    .next u ∧ Kept 0x7a77f7007e s.pending s u := by
  have hQ := kept_start hI 0x7a77f7007e
  have hm := sub_refl 0x7a77f7007e
  unfold execVolleyWaveStart
  refine ⟨_, rfl, ?_⟩
  try dsimp only
  repeat' first
    | with_reducible assumption | with_reducible refine @kept_ite _ _ _ _ _ _ _ ?_ ?_
    | with_reducible refine State.volleyWave_kept ?_ _

theorem execStoreSealStart_kept {s : State} (hI : State.Inv s) : ∃ u, (execStoreSealStart s) = .next u ∧ Kept 0x3a67b3007e
    s.pending s u := by
  have hQ := kept_start hI 0x3a67b3007e
  have hm := sub_refl 0x3a67b3007e
  unfold execStoreSealStart
  refine ⟨_, rfl, ?_⟩
  try dsimp only
  repeat' first
    | with_reducible assumption | with_reducible refine @kept_ite _ _ _ _ _ _ _ ?_ ?_
    | with_reducible refine State.stepCode_kept ?_ _ | with_reducible refine State.sealStart_kept ?_ _ | simp only [kept_mk]
    | with_reducible refine Kept.parts ?_
    | with_reducible refine Kept.partsDev ?_ (Kept.devWf (m := 0x3a67b3007e)  ?_ rfl rfl rfl rfl) | dsimp only | split

theorem State.checkpointEnd_kept {M : Nat} {Q : List Instr} {s0 s : State} (hQ : Kept M Q s0 s) (t : Store) (vhold : Nat)
    (hm : sub 0x3a67f7007e M = true := by exact sub_le (by assumption) (by decide)) : Kept M Q s0 (State.checkpointEnd s t
    vhold) := by
  unfold State.checkpointEnd
  try dsimp only
  repeat' first
    | with_reducible assumption | with_reducible refine @kept_ite _ _ _ _ _ _ _ ?_ ?_
    | with_reducible refine State.applyHeldAll_kept ?_ | with_reducible refine State.fixAll_kept ?_ _ _
    | with_reducible refine State.storeOver_kept ?_ _ _ _ _ _ | with_reducible refine State.writeSeals_kept ?_ _
    | with_reducible refine State.watch_kept ?_ _ | with_reducible refine State.volEvent_kept ?_ _ ?_
    | with_reducible refine State.settle_kept ?_ | with_reducible refine Kept.put ?_ _ _ ?_ | exact all_nil_ok
    | refine all_cons_ok ?_ ?_ | exact ok_le hm (by decide) | exact ok_add hm (by decide) | exact ok_add2 hm (by decide)
    | exact ok_at hm (by decide) | simp only [kept_mk] | with_reducible refine Kept.parts ?_
    | with_reducible refine Kept.partsDev ?_ (Kept.devWf (m := M) (q := Q) (s0 := s0) ?_ rfl rfl rfl rfl) | dsimp only
    | split

theorem State.drainSealed_kept {M : Nat} {Q : List Instr} {s0 s : State} (hQ : Kept M Q s0 s) (t : Store) (vhold : Nat)
    (hm : sub 0x7837f7006a M = true := by exact sub_le (by assumption) (by decide)) : Kept M Q s0 (State.drainSealed s t
    vhold) := by
  unfold State.drainSealed
  try dsimp only
  repeat' first
    | with_reducible assumption | with_reducible refine @kept_ite _ _ _ _ _ _ _ ?_ ?_
    | with_reducible refine State.drainStored_kept ?_ | with_reducible refine State.applyHeldAll_kept ?_
    | with_reducible refine State.fixAll_kept ?_ _ _ | with_reducible refine State.storeOver_kept ?_ _ _ _ _ _
    | with_reducible refine State.writeSeals_kept ?_ _ | with_reducible refine State.watch_kept ?_ _
    | with_reducible refine Kept.put ?_ _ _ ?_ | exact all_nil_ok | refine all_cons_ok ?_ ?_ | exact ok_le hm (by decide)
    | exact ok_add hm (by decide) | exact ok_add2 hm (by decide) | exact ok_at hm (by decide) | simp only [kept_mk]
    | with_reducible refine Kept.parts ?_
    | with_reducible refine Kept.partsDev ?_ (Kept.devWf (m := M) (q := Q) (s0 := s0) ?_ rfl rfl rfl rfl) | dsimp only
    | split

theorem State.sealComplete_kept {M : Nat} {Q : List Instr} {s0 s : State} (hQ : Kept M Q s0 s) (t : Store) (vhold : Nat)
    (hm : sub 0x7a77f7007e M = true := by exact sub_le (by assumption) (by decide)) : Kept M Q s0 (State.sealComplete s t
    vhold) := by
  unfold State.sealComplete
  try dsimp only
  repeat' first
    | with_reducible assumption | with_reducible refine @kept_ite _ _ _ _ _ _ _ ?_ ?_
    | with_reducible refine State.drainSealed_kept ?_ _ _ | with_reducible refine State.checkpointEnd_kept ?_ _ _
    | with_reducible refine State.volleyEnd_kept ?_ _ _ _ _ _ | with_reducible refine State.writeSeals_kept ?_ _
    | with_reducible refine Kept.put ?_ _ _ ?_ | exact all_nil_ok | refine all_cons_ok ?_ ?_ | exact ok_le hm (by decide)
    | exact ok_add hm (by decide) | exact ok_add2 hm (by decide) | exact ok_at hm (by decide)

theorem execStoreSealComplete_kept {s : State} (hI : State.Inv s) (vhold : BitVec 10) : ∃ u, (execStoreSealComplete vhold s) =
    .next u ∧ Kept 0x7a77f7007e s.pending s u := by
  have hQ := kept_start hI 0x7a77f7007e
  have hm := sub_refl 0x7a77f7007e
  unfold execStoreSealComplete
  refine ⟨_, rfl, ?_⟩
  try dsimp only
  repeat' first
    | with_reducible assumption | with_reducible refine @kept_ite _ _ _ _ _ _ _ ?_ ?_
    | with_reducible refine State.sealComplete_kept ?_ _ _ | simp only [kept_mk] | with_reducible refine Kept.parts ?_
    | with_reducible refine Kept.partsDev ?_ (Kept.devWf (m := 0x7a77f7007e)  ?_ rfl rfl rfl rfl) | dsimp only | split

theorem State.floorHit_kept {M : Nat} {Q : List Instr} {s0 s : State} (hQ : Kept M Q s0 s) (t : Store) (elapsed : Nat)
    (hm : sub 0x603765006a M = true := by exact sub_le (by assumption) (by decide)) : Kept M Q s0 (State.floorHit s t
    elapsed) := by
  unfold State.floorHit
  try dsimp only
  repeat' first
    | with_reducible assumption | with_reducible refine @kept_ite _ _ _ _ _ _ _ ?_ ?_
    | with_reducible refine State.volleyEnd_kept ?_ _ _ _ _ _ | with_reducible refine State.tearSeals_kept ?_ _
    | with_reducible refine State.cutWave_kept ?_ _ | with_reducible refine Kept.put ?_ _ _ ?_ | exact all_nil_ok
    | refine all_cons_ok ?_ ?_ | exact ok_le hm (by decide) | exact ok_add hm (by decide) | exact ok_add2 hm (by decide)
    | exact ok_at hm (by decide) | dsimp only | split

theorem execVholdFloor_kept {s : State} (hI : State.Inv s) (elapsed : Nat) : ∃ u, (execVholdFloor elapsed s) = .next u ∧ Kept
    0x603765006a s.pending s u := by
  have hQ := kept_start hI 0x603765006a
  have hm := sub_refl 0x603765006a
  unfold execVholdFloor
  refine ⟨_, rfl, ?_⟩
  try dsimp only
  repeat' first
    | with_reducible assumption | with_reducible refine @kept_ite _ _ _ _ _ _ _ ?_ ?_
    | with_reducible refine State.floorHit_kept ?_ _ _ | simp only [kept_mk] | with_reducible refine Kept.parts ?_
    | with_reducible refine Kept.partsDev ?_ (Kept.devWf (m := 0x603765006a)  ?_ rfl rfl rfl rfl) | dsimp only | split

theorem execProgressCodeStep_kept {s : State} (hI : State.Inv s) : ∃ u, (execProgressCodeStep s) = .next u ∧ Kept 0x10000
    s.pending s u := by
  have hQ := kept_start hI 0x10000
  have hm := sub_refl 0x10000
  unfold execProgressCodeStep
  refine ⟨_, rfl, ?_⟩
  try dsimp only
  repeat' first
    | with_reducible assumption | with_reducible refine @kept_ite _ _ _ _ _ _ _ ?_ ?_
    | with_reducible refine State.stepCode_kept ?_ _

theorem State.ckptReq_kept {M : Nat} {Q : List Instr} {s0 s : State} (hQ : Kept M Q s0 s) (x : Sender)
    (hm : sub 0x20 M = true := by exact sub_le (by assumption) (by decide)) : Kept M Q s0 (State.ckptReq s x) := by
  unfold State.ckptReq
  try dsimp only
  repeat' first
    | with_reducible assumption | with_reducible refine @kept_ite _ _ _ _ _ _ _ ?_ ?_
    | with_reducible refine Kept.put ?_ _ _ ?_ | exact all_nil_ok | refine all_cons_ok ?_ ?_ | exact ok_le hm (by decide)

theorem execCkpt_kept {s : State} (hI : State.Inv s) (from_ : Sender) : ∃ u, (execCkpt from_ s) = .next u ∧ Kept 0x20
    s.pending s u := by
  have hQ := kept_start hI 0x20
  have hm := sub_refl 0x20
  unfold execCkpt
  refine ⟨_, rfl, ?_⟩
  try dsimp only
  repeat' first
    | with_reducible assumption | with_reducible refine @kept_ite _ _ _ _ _ _ _ ?_ ?_
    | with_reducible refine State.ckptReq_kept ?_ _

theorem execCheckpointStart_kept {s : State} (hI : State.Inv s) : ∃ u, (execCheckpointStart s) = .next u ∧ Kept
    0x2003300060 s.pending s u := by
  have hQ := kept_start hI 0x2003300060
  have hm := sub_refl 0x2003300060
  unfold execCheckpointStart
  refine ⟨_, rfl, ?_⟩
  try dsimp only
  repeat' first
    | with_reducible assumption | with_reducible refine @kept_ite _ _ _ _ _ _ _ ?_ ?_
    | with_reducible refine State.storeBegin_kept ?_ _ _ _ | with_reducible refine State.refuseCkpt_kept ?_
    | with_reducible refine State.joinCkpt_kept ?_ | with_reducible refine State.freeze_kept ?_ | exact all_nil_ok
    | refine all_cons_ok ?_ ?_ | exact ok_le hm (by decide) | exact ok_add hm (by decide) | exact ok_add2 hm (by decide)
    | exact ok_at hm (by decide)

theorem execCheckpointWaveStart_kept {s : State} (hI : State.Inv s) : ∃ u, (execCheckpointWaveStart s) = .next u ∧ Kept
    0x3a67b6007e s.pending s u := by
  have hQ := kept_start hI 0x3a67b6007e
  have hm := sub_refl 0x3a67b6007e
  unfold execCheckpointWaveStart
  refine ⟨_, rfl, ?_⟩
  try dsimp only
  repeat' first
    | with_reducible assumption | with_reducible refine @kept_ite _ _ _ _ _ _ _ ?_ ?_
    | with_reducible refine State.waveStart_kept ?_ _ _ | simp only [kept_mk] | with_reducible refine Kept.parts ?_
    | with_reducible refine Kept.partsDev ?_ (Kept.devWf (m := 0x3a67b6007e)  ?_ rfl rfl rfl rfl) | dsimp only | split

end Sys2Proof.Machine
end

