-- ==== Sys2Proof/Laws/KeptRings.lean ====
section
/-! SUPPORT. What the definitions of Machine/Rings.lean keep: one lemma `<name>_kept` for each (Laws/Kept.lean). -/

-- Proof bodies are elaborated in order: elaborated in parallel they wait on one another, each in a thread of its own.
set_option Elab.async false

namespace Sys2Proof.Machine
open Sys2Proof

theorem execDoorbellPoll_kept {s : State} (hI : State.Inv s) (h : PHost) (idle : Nat) : ∃ u, (execDoorbellPoll h idle s) =
    .next u ∧ Kept 0x2001000000 s.pending s u := by
  have hQ := kept_start hI 0x2001000000
  have hm := sub_refl 0x2001000000
  unfold execDoorbellPoll
  refine ⟨_, rfl, ?_⟩
  try dsimp only
  repeat' first
    | with_reducible assumption | with_reducible refine @kept_ite _ _ _ _ _ _ _ ?_ ?_
    | with_reducible refine State.setHost_kept ?_ _ _ | with_reducible refine State.leaveL1_kept ?_ _
    | with_reducible refine State.emit_kept ?_ _

theorem execPollDataArrival_kept {s : State} (hI : State.Inv s) (h : PHost) (block : BitVec 512) : ∃ u, (execPollDataArrival h
    block s) = .next u ∧ Kept 0x2001000060 s.pending s u := by
  have hQ := kept_start hI 0x2001000060
  have hm := sub_refl 0x2001000060
  unfold execPollDataArrival
  refine ⟨_, rfl, ?_⟩
  try dsimp only
  repeat' first
    | with_reducible assumption | with_reducible refine @kept_ite _ _ _ _ _ _ _ ?_ ?_
    | with_reducible refine State.pollData_kept ?_ _ _

theorem State.pollFailed_kept {M : Nat} {Q : List Instr} {s0 s : State} (hQ : Kept M Q s0 s) (h : PHost)
    (hm : sub 0x2001000060 M = true := by exact sub_le (by assumption) (by decide)) : Kept M Q s0 (State.pollFailed s h) := by
  unfold State.pollFailed
  try dsimp only
  repeat' first
    | with_reducible assumption | with_reducible refine @kept_ite _ _ _ _ _ _ _ ?_ ?_
    | with_reducible refine State.hostEvent_kept ?_ _ _ ?_ | with_reducible refine State.setHost_kept ?_ _ _
    | exact all_nil_ok | refine all_cons_ok ?_ ?_ | exact ok_le hm (by decide) | exact ok_add hm (by decide)
    | exact ok_add2 hm (by decide) | exact ok_at hm (by decide) | simp only [kept_mk] | with_reducible refine Kept.parts ?_
    | with_reducible refine Kept.partsDev ?_ (Kept.devWf (m := M) (q := Q) (s0 := s0) ?_ rfl rfl rfl rfl) | dsimp only | split
    | intro _

theorem execPollError_kept {s : State} (hI : State.Inv s) (h : PHost) (why : ReadFail) : ∃ u, (execPollError h s why) =
    .next u ∧ Kept 0x2001000060 s.pending s u := by
  have hQ := kept_start hI 0x2001000060
  have hm := sub_refl 0x2001000060
  unfold execPollError
  refine ⟨_, rfl, ?_⟩
  try dsimp only
  repeat' first
    | with_reducible assumption | with_reducible refine @kept_ite _ _ _ _ _ _ _ ?_ ?_
    | with_reducible refine State.pollFailed_kept ?_ _ | with_reducible refine State.readFailed_kept ?_ _ _

theorem execPollFailTimeout_kept {s : State} (hI : State.Inv s) (h : PHost) : ∃ u, (execPollFailTimeout h s) = .next u ∧ Kept
    0x2001000060 s.pending s u := by
  have hQ := kept_start hI 0x2001000060
  have hm := sub_refl 0x2001000060
  unfold execPollFailTimeout
  refine ⟨_, rfl, ?_⟩
  try dsimp only
  repeat' first
    | with_reducible assumption | with_reducible refine @kept_ite _ _ _ _ _ _ _ ?_ ?_
    | with_reducible refine State.stopSq_kept ?_ _ _ _ | with_reducible refine kept_foldl (fun t x ht => ?_) _ _ ?_

theorem execFetchError_kept {s : State} (hI : State.Inv s) (h : PHost) (j : Ring) (why : ReadFail) : ∃ u, (execFetchError
    h j s why) = .next u ∧ Kept 0x3a6792007e s.pending s u := by
  have hQ := kept_start hI 0x3a6792007e
  have hm := sub_refl 0x3a6792007e
  unfold execFetchError
  refine ⟨_, rfl, ?_⟩
  try dsimp only
  repeat' first
    | with_reducible assumption | with_reducible refine @kept_ite _ _ _ _ _ _ _ ?_ ?_
    | with_reducible refine State.settle_kept ?_ | with_reducible refine State.readFailed_kept ?_ _ _
    | with_reducible refine State.setFetching_kept ?_ _ _ _ | with_reducible refine State.stopSq_kept ?_ _ _ _

theorem execHostDataArrival_kept {s : State} (hI : State.Inv s) (h : PHost) (j : Ring) (tag : BitVec 16) (data : HostData)
    (ups : List Upset) (pads : PadTraffic) : ∃ u, (execHostDataArrival h j tag data ups s pads) = .next u ∧ Kept
    0x3a6792007e s.pending s u := by
  have hQ := kept_start hI 0x3a6792007e
  have hm := sub_refl 0x3a6792007e
  unfold execHostDataArrival
  refine ⟨_, rfl, ?_⟩
  try dsimp only
  repeat' first
    | with_reducible assumption | with_reducible refine @kept_ite _ _ _ _ _ _ _ ?_ ?_
    | with_reducible refine State.hostData_kept ?_ _ _ _ _ _ _

theorem execHostReadTimeout_kept {s : State} (hI : State.Inv s) (h : PHost) (j : Ring) (tag : BitVec 16) (lost : Bool) : ∃
    u, (execHostReadTimeout h j tag s lost) = .next u ∧ Kept 0x3a6792007e s.pending s u := by
  have hQ := kept_start hI 0x3a6792007e
  have hm := sub_refl 0x3a6792007e
  unfold execHostReadTimeout
  refine ⟨_, rfl, ?_⟩
  try dsimp only
  repeat' first
    | with_reducible assumption | with_reducible refine @kept_ite _ _ _ _ _ _ _ ?_ ?_
    | with_reducible refine State.hostTimeout_kept ?_ _ _ _ _

theorem execCqTimeExpiry_kept {s : State} (hI : State.Inv s) (h : PHost) (j : Ring) : ∃ u, (execCqTimeExpiry h j s) = .next u
    ∧ Kept 0x2001000000 s.pending s u := by
  have hQ := kept_start hI 0x2001000000
  have hm := sub_refl 0x2001000000
  unfold execCqTimeExpiry
  refine ⟨_, rfl, ?_⟩
  try dsimp only
  repeat' first
    | with_reducible assumption | with_reducible refine @kept_ite _ _ _ _ _ _ _ ?_ ?_
    | with_reducible refine State.cqSend_kept ?_ _ _

theorem State.unmask_kept {M : Nat} {Q : List Instr} {s0 s : State} (hQ : Kept M Q s0 s) (h : PHost) (v : Nat)
    (hm : sub 0x2001000000 M = true := by exact sub_le (by assumption) (by decide)) : Kept M Q s0 (State.unmask s h v) :=
    by
  unfold State.unmask
  try dsimp only
  repeat' first
    | with_reducible assumption | with_reducible refine @kept_ite _ _ _ _ _ _ _ ?_ ?_
    | with_reducible refine State.msix_kept ?_ _ _ | with_reducible refine State.setHost_kept ?_ _ _ | simp only [kept_mk]
    | with_reducible refine Kept.parts ?_
    | with_reducible refine Kept.partsDev ?_ (Kept.devWf (m := M) (q := Q) (s0 := s0) ?_ rfl rfl rfl rfl) | dsimp only
    | split

theorem execMsixUnmask_kept {s : State} (hI : State.Inv s) (h : PHost) (vec : BitVec 5) : ∃ u, (execMsixUnmask h vec s) =
    .next u ∧ Kept 0x2001000000 s.pending s u := by
  have hQ := kept_start hI 0x2001000000
  have hm := sub_refl 0x2001000000
  unfold execMsixUnmask
  refine ⟨_, rfl, ?_⟩
  try dsimp only
  repeat' first
    | with_reducible assumption | with_reducible refine @kept_ite _ _ _ _ _ _ _ ?_ ?_
    | with_reducible refine State.unmask_kept ?_ _ _

theorem State.sqSet_kept {M : Nat} {Q : List Instr} {s0 s : State} (hQ : Kept M Q s0 s) (x : Sender) (h : PHost) (j : Ring) (v
    : Word) (hm : sub 0x3a6792007e M = true := by exact sub_le (by assumption) (by decide)) : Kept M Q s0 (State.sqSet s x h j
    v) := by
  unfold State.sqSet
  try dsimp only
  repeat' first
    | with_reducible assumption | with_reducible refine @kept_ite _ _ _ _ _ _ _ ?_ ?_
    | with_reducible refine State.sqCfgWrite_kept ?_ _ _ _ _ | with_reducible refine State.settle_kept ?_

theorem State.cqSet_kept {M : Nat} {Q : List Instr} {s0 s : State} (hQ : Kept M Q s0 s) (x : Sender) (h : PHost) (j : Ring) (v
    : Word) (hm : sub 0x3a6792007e M = true := by exact sub_le (by assumption) (by decide)) : Kept M Q s0 (State.cqSet s x h j
    v) := by
  unfold State.cqSet
  try dsimp only
  repeat' first
    | with_reducible assumption | with_reducible refine @kept_ite _ _ _ _ _ _ _ ?_ ?_
    | with_reducible refine State.cqCfgWrite_kept ?_ _ _ _ _ | with_reducible refine State.replayWrite_kept ?_ _
    | with_reducible refine State.settle_kept ?_

theorem execSqEnable_kept {s : State} (hI : State.Inv s) (from_ : Sender) (h : PHost) (j : Ring) (value : Word) : ∃ u,
    (execSqEnable from_ h j value s) = .next u ∧ Kept 0x3a6792007e s.pending s u := by
  have hQ := kept_start hI 0x3a6792007e
  have hm := sub_refl 0x3a6792007e
  unfold execSqEnable
  refine ⟨_, rfl, ?_⟩
  try dsimp only
  repeat' first
    | with_reducible assumption | with_reducible refine @kept_ite _ _ _ _ _ _ _ ?_ ?_
    | with_reducible refine State.sqSet_kept ?_ _ _ _ _

theorem execSqDisable_kept {s : State} (hI : State.Inv s) (from_ : Sender) (h : PHost) (j : Ring) (value : Word) : ∃ u,
    (execSqDisable from_ h j value s) = .next u ∧ Kept 0x3a6792007e s.pending s u := by
  have hQ := kept_start hI 0x3a6792007e
  have hm := sub_refl 0x3a6792007e
  unfold execSqDisable
  refine ⟨_, rfl, ?_⟩
  try dsimp only
  repeat' first
    | with_reducible assumption | with_reducible refine @kept_ite _ _ _ _ _ _ _ ?_ ?_
    | with_reducible refine State.sqSet_kept ?_ _ _ _ _

theorem execCqEnable_kept {s : State} (hI : State.Inv s) (from_ : Sender) (h : PHost) (j : Ring) (value : Word) : ∃ u,
    (execCqEnable from_ h j value s) = .next u ∧ Kept 0x3a6792007e s.pending s u := by
  have hQ := kept_start hI 0x3a6792007e
  have hm := sub_refl 0x3a6792007e
  unfold execCqEnable
  refine ⟨_, rfl, ?_⟩
  try dsimp only
  repeat' first
    | with_reducible assumption | with_reducible refine @kept_ite _ _ _ _ _ _ _ ?_ ?_
    | with_reducible refine State.cqSet_kept ?_ _ _ _ _

theorem execCqDisable_kept {s : State} (hI : State.Inv s) (from_ : Sender) (h : PHost) (j : Ring) (value : Word) : ∃ u,
    (execCqDisable from_ h j value s) = .next u ∧ Kept 0x3a6792007e s.pending s u := by
  have hQ := kept_start hI 0x3a6792007e
  have hm := sub_refl 0x3a6792007e
  unfold execCqDisable
  refine ⟨_, rfl, ?_⟩
  try dsimp only
  repeat' first
    | with_reducible assumption | with_reducible refine @kept_ite _ _ _ _ _ _ _ ?_ ?_
    | with_reducible refine State.cqSet_kept ?_ _ _ _ _

theorem execReplayWrite_kept {s : State} (hI : State.Inv s) (h : PHost) : ∃ u, (execReplayWrite h s) = .next u ∧ Kept
    0x2001100060 s.pending s u := by
  have hQ := kept_start hI 0x2001100060
  have hm := sub_refl 0x2001100060
  unfold execReplayWrite
  refine ⟨_, rfl, ?_⟩
  try dsimp only
  repeat' first
    | with_reducible assumption | with_reducible refine @kept_ite _ _ _ _ _ _ _ ?_ ?_
    | with_reducible refine State.replayWrite_kept ?_ _

theorem State.cutDiscard_kept {M : Nat} {Q : List Instr} {s0 s : State} (hQ : Kept M Q s0 s) (x : Sender) (h : PHost)
    (hm : sub 0x2001100000 M = true := by exact sub_le (by assumption) (by decide)) : Kept M Q s0 (State.cutDiscard s x h) := by
  unfold State.cutDiscard
  try dsimp only
  repeat' first
    | with_reducible assumption | with_reducible refine @kept_ite _ _ _ _ _ _ _ ?_ ?_
    | with_reducible refine State.setHost_kept ?_ _ _ | with_reducible refine State.issueFetches_kept ?_ _
    | simp only [kept_mk] | with_reducible refine Kept.parts ?_
    | with_reducible refine Kept.partsDev ?_ (Kept.devWf (m := M) (q := Q) (s0 := s0) ?_ rfl rfl rfl rfl)

theorem execCutDiscard_kept {s : State} (hI : State.Inv s) (from_ : Sender) (h : PHost) : ∃ u, (execCutDiscard from_ h s) =
    .next u ∧ Kept 0x2001100000 s.pending s u := by
  have hQ := kept_start hI 0x2001100000
  have hm := sub_refl 0x2001100000
  unfold execCutDiscard
  refine ⟨_, rfl, ?_⟩
  try dsimp only
  repeat' first
    | with_reducible assumption | with_reducible refine @kept_ite _ _ _ _ _ _ _ ?_ ?_
    | with_reducible refine State.cutDiscard_kept ?_ _ _

end Sys2Proof.Machine
end

