-- ==== Sys2Proof/Laws/KeptHostPorts.lean ====
section
/-! SUPPORT. What the definitions of Machine/HostPorts.lean keep: one lemma `<name>_kept` for each (Laws/Kept.lean). -/

-- Proof bodies are elaborated in order: elaborated in parallel they wait on one another, each in a thread of its own.
set_option Elab.async false

namespace Sys2Proof.Machine
open Sys2Proof

theorem State.retrainTo_kept {M : Nat} {Q : List Instr} {s0 s : State} (hQ : Kept M Q s0 s) (h : PHost) (speed : Nat) (width :
    Nat) (hm : sub 0x2001000060 M = true := by exact sub_le (by assumption) (by decide)) : Kept M Q s0 (State.retrainTo s h
    speed width) := by
  unfold State.retrainTo
  try dsimp only
  repeat' first
    | with_reducible assumption | with_reducible refine @kept_ite _ _ _ _ _ _ _ ?_ ?_
    | with_reducible refine State.hostEvent_kept ?_ _ _ ?_ | with_reducible refine State.setHost_kept ?_ _ _
    | with_reducible refine Kept.put ?_ _ _ ?_ | exact all_nil_ok | refine all_cons_ok ?_ ?_ | exact ok_le hm (by decide)
    | exact ok_add hm (by decide) | exact ok_add2 hm (by decide) | exact ok_at hm (by decide) | simp only [kept_mk]
    | with_reducible refine Kept.parts ?_
    | with_reducible refine Kept.partsDev ?_ (Kept.devWf (m := M) (q := Q) (s0 := s0) ?_ rfl rfl rfl rfl) | dsimp only | split
    | intro _

theorem State.retrain_kept {M : Nat} {Q : List Instr} {s0 s : State} (hQ : Kept M Q s0 s) (x : Sender) (h : PHost)
    (hm : sub 0x2001000060 M = true := by exact sub_le (by assumption) (by decide)) : Kept M Q s0 (State.retrain s x h) := by
  unfold State.retrain
  try dsimp only
  repeat' first
    | with_reducible assumption | with_reducible refine @kept_ite _ _ _ _ _ _ _ ?_ ?_
    | with_reducible refine State.retrainTo_kept ?_ _ _ _ | with_reducible refine Kept.put ?_ _ _ ?_ | exact all_nil_ok
    | refine all_cons_ok ?_ ?_ | exact ok_le hm (by decide) | exact ok_add hm (by decide)

theorem execRetrain_kept {s : State} (hI : State.Inv s) (from_ : Sender) (h : PHost) : ∃ u, (execRetrain from_ h s) = .next u
    ∧ Kept 0x2001000060 s.pending s u := by
  have hQ := kept_start hI 0x2001000060
  have hm := sub_refl 0x2001000060
  unfold execRetrain
  refine ⟨_, rfl, ?_⟩
  try dsimp only
  repeat' first
    | with_reducible assumption | with_reducible refine @kept_ite _ _ _ _ _ _ _ ?_ ?_
    | with_reducible refine State.retrain_kept ?_ _ _

theorem State.laneBad_kept {M : Nat} {Q : List Instr} {s0 s : State} (hQ : Kept M Q s0 s) (h : PHost) (lane : Nat) (speed
    : Nat) (hm : sub 0x3ae792007f M = true := by exact sub_le (by assumption) (by decide)) : Kept M Q s0 (State.laneBad s
    h lane speed) := by
  unfold State.laneBad
  try dsimp only
  repeat' first
    | with_reducible assumption | with_reducible refine @kept_ite _ _ _ _ _ _ _ ?_ ?_
    | with_reducible refine State.retrainTo_kept ?_ _ _ _ | with_reducible refine State.linkGone_kept ?_ _
    | with_reducible refine State.hostEvent_kept ?_ _ _ ?_ | with_reducible refine Kept.put ?_ _ _ ?_ | exact all_nil_ok
    | refine all_cons_ok ?_ ?_ | exact ok_le hm (by decide) | exact ok_add hm (by decide) | exact ok_add2 hm (by decide)
    | exact ok_at hm (by decide) | simp only [kept_mk] | with_reducible refine Kept.parts ?_
    | with_reducible refine Kept.partsDev ?_ (Kept.devWf (m := M) (q := Q) (s0 := s0) ?_ rfl rfl rfl rfl) | dsimp only
    | split | intro _

theorem execLaneBad_kept {s : State} (hI : State.Inv s) (h : PHost) (lane : Fin 8) (speed : BitVec 3) (errors : Option
    Nat) : ∃ u, (execLaneBad h lane speed s errors) = .next u ∧ Kept 0x3ae792007f s.pending s u := by
  have hQ := kept_start hI 0x3ae792007f
  have hm := sub_refl 0x3ae792007f
  unfold execLaneBad
  refine ⟨_, rfl, ?_⟩
  try dsimp only
  repeat' first
    | with_reducible assumption | with_reducible refine @kept_ite _ _ _ _ _ _ _ ?_ ?_
    | with_reducible refine State.laneBad_kept ?_ _ _ _ | with_reducible refine State.cycleGo_kept ?_

theorem State.slower_kept {M : Nat} {Q : List Instr} {s0 s : State} (hQ : Kept M Q s0 s) (h : PHost) (speed : Nat)
    (hm : sub 0x2001000060 M = true := by exact sub_le (by assumption) (by decide)) : Kept M Q s0 (State.slower s h speed)
    := by
  unfold State.slower
  try dsimp only
  repeat' first
    | with_reducible assumption | with_reducible refine @kept_ite _ _ _ _ _ _ _ ?_ ?_
    | with_reducible refine State.hostEvent_kept ?_ _ _ ?_ | with_reducible refine Kept.put ?_ _ _ ?_ | exact all_nil_ok
    | refine all_cons_ok ?_ ?_ | exact ok_le hm (by decide) | exact ok_add hm (by decide) | exact ok_add2 hm (by decide)
    | exact ok_at hm (by decide) | intro _

theorem execLinkRetrained_kept {s : State} (hI : State.Inv s) (h : PHost) (speed : BitVec 3) : ∃ u, (execLinkRetrained h s
    speed) = .next u ∧ Kept 0x3a6792007e s.pending s u := by
  have hQ := kept_start hI 0x3a6792007e
  have hm := sub_refl 0x3a6792007e
  unfold execLinkRetrained
  refine ⟨_, rfl, ?_⟩
  try dsimp only
  repeat' first
    | with_reducible assumption | with_reducible refine @kept_ite _ _ _ _ _ _ _ ?_ ?_
    | with_reducible refine State.slower_kept ?_ _ _ | with_reducible refine State.settle_kept ?_
    | with_reducible refine State.sendDue_kept ?_ _ | with_reducible refine State.replayWrite_kept ?_ _
    | with_reducible refine State.issueFetches_kept ?_ _ | with_reducible refine State.setHost_kept ?_ _ _
    | simp only [kept_mk] | with_reducible refine Kept.parts ?_
    | with_reducible refine Kept.partsDev ?_ (Kept.devWf (m := 0x3a6792007e) (q := s.pending) (s0 := s) ?_ rfl rfl rfl rfl)

theorem execLinkDown_kept {s : State} (hI : State.Inv s) (h : PHost) : ∃ u, (execLinkDown h s) = .next u ∧ Kept
    0x3ae792007f s.pending s u := by
  have hQ := kept_start hI 0x3ae792007f
  have hm := sub_refl 0x3ae792007f
  unfold execLinkDown
  refine ⟨_, rfl, ?_⟩
  try dsimp only
  repeat' first
    | with_reducible assumption | with_reducible refine @kept_ite _ _ _ _ _ _ _ ?_ ?_
    | with_reducible refine State.linkGone_kept ?_ _ | with_reducible refine State.cycleGo_kept ?_

theorem State.refBack_kept {M : Nat} {Q : List Instr} {s0 s : State} (hQ : Kept M Q s0 s) (h : PHost)
    (hm : sub 0x10000 M = true := by exact sub_le (by assumption) (by decide)) : Kept M Q s0 (State.refBack s h) := by
  unfold State.refBack
  try dsimp only
  repeat' first
    | with_reducible assumption | with_reducible refine @kept_ite _ _ _ _ _ _ _ ?_ ?_ | simp only [kept_mk]
    | with_reducible refine Kept.parts ?_

theorem execLinkUp_kept {s : State} (hI : State.Inv s) (h : PHost) (speed : BitVec 3) (width : BitVec 4) : ∃ u,
    (execLinkUp h speed width s) = .next u ∧ Kept 0x1010060 s.pending s u := by
  have hQ := kept_start hI 0x1010060
  have hm := sub_refl 0x1010060
  unfold execLinkUp
  refine ⟨_, rfl, ?_⟩
  try dsimp only
  repeat' first
    | with_reducible assumption | with_reducible refine @kept_ite _ _ _ _ _ _ _ ?_ ?_
    | with_reducible refine State.refBack_kept ?_ _ | with_reducible refine State.setHost_kept ?_ _ _
    | with_reducible refine Kept.put ?_ _ _ ?_ | exact all_nil_ok | refine all_cons_ok ?_ ?_ | exact ok_le hm (by decide)
    | exact ok_add hm (by decide) | exact ok_add2 hm (by decide) | exact ok_at hm (by decide) | simp only [kept_mk]
    | with_reducible refine Kept.parts ?_
    | with_reducible refine Kept.partsDev ?_ (Kept.devWf (m := 0x1010060) (q := s.pending) (s0 := s) ?_ rfl rfl rfl rfl)
    | dsimp only | split

theorem execFunctionReady_kept {s : State} (hI : State.Inv s) (h : PHost) : ∃ u, (execFunctionReady h s) = .next u ∧ Kept
    0x1000000 s.pending s u := by
  have hQ := kept_start hI 0x1000000
  have hm := sub_refl 0x1000000
  unfold execFunctionReady
  refine ⟨_, rfl, ?_⟩
  try dsimp only
  repeat' first
    | with_reducible assumption | with_reducible refine @kept_ite _ _ _ _ _ _ _ ?_ ?_
    | with_reducible refine State.setHost_kept ?_ _ _

theorem State.coldConfig_kept {M : Nat} {Q : List Instr} {s0 s : State} (hQ : Kept M Q s0 s) (h : PHost)
    (hm : sub 0x1000000 M = true := by exact sub_le (by assumption) (by decide)) : Kept M Q s0 (State.coldConfig s h) :=
    by
  unfold State.coldConfig
  try dsimp only
  repeat' first
    | with_reducible assumption | with_reducible refine @kept_ite _ _ _ _ _ _ _ ?_ ?_
    | with_reducible refine State.setHost_kept ?_ _ _ | simp only [kept_mk] | with_reducible refine Kept.parts ?_
    | with_reducible refine Kept.partsDev ?_ (Kept.devWf (m := M) (q := Q) (s0 := s0) ?_ rfl rfl rfl rfl)

theorem execPerstLow_kept {s : State} (hI : State.Inv s) (h : PHost) : ∃ u, (execPerstLow h s) = .next u ∧ Kept
    0x3ae792007f s.pending s u := by
  have hQ := kept_start hI 0x3ae792007f
  have hm := sub_refl 0x3ae792007f
  unfold execPerstLow
  refine ⟨_, rfl, ?_⟩
  try dsimp only
  repeat' first
    | with_reducible assumption | with_reducible refine @kept_ite _ _ _ _ _ _ _ ?_ ?_
    | with_reducible refine State.coldConfig_kept ?_ _ | with_reducible refine State.linkGone_kept ?_ _
    | with_reducible refine State.cycleGo_kept ?_ | with_reducible refine State.setHost_kept ?_ _ _ | simp only [kept_mk]
    | with_reducible refine Kept.parts ?_
    | with_reducible refine Kept.partsDev ?_ (Kept.devWf (m := 0x3ae792007f) (q := s.pending) (s0 := s) ?_ rfl rfl rfl rfl)
    | dsimp only | split

theorem execPerstHigh_kept {s : State} (hI : State.Inv s) (h : PHost) : ∃ u, (execPerstHigh h s) = .next u ∧ Kept 0x2001000000
    s.pending s u := by
  have hQ := kept_start hI 0x2001000000
  have hm := sub_refl 0x2001000000
  unfold execPerstHigh
  refine ⟨_, rfl, ?_⟩
  try dsimp only
  repeat' first
    | with_reducible assumption | with_reducible refine @kept_ite _ _ _ _ _ _ _ ?_ ?_
    | with_reducible refine State.emit_kept ?_ _ | with_reducible refine State.setHost_kept ?_ _ _

theorem execFlr_kept {s : State} (hI : State.Inv s) (h : PHost) : ∃ u, (execFlr h s) = .next u ∧ Kept 0x3ae792007f s.pending s
    u := by
  have hQ := kept_start hI 0x3ae792007f
  have hm := sub_refl 0x3ae792007f
  unfold execFlr
  refine ⟨_, rfl, ?_⟩
  try dsimp only
  repeat' first
    | with_reducible assumption | with_reducible refine @kept_ite _ _ _ _ _ _ _ ?_ ?_
    | with_reducible refine State.functionReset_kept ?_ _ _

theorem execD3hotEntry_kept {s : State} (hI : State.Inv s) (h : PHost) : ∃ u, (execD3hotEntry h s) = .next u ∧ Kept 0x1000000
    s.pending s u := by
  have hQ := kept_start hI 0x1000000
  have hm := sub_refl 0x1000000
  unfold execD3hotEntry
  refine ⟨_, rfl, ?_⟩
  try dsimp only
  repeat' first
    | with_reducible assumption | with_reducible refine @kept_ite _ _ _ _ _ _ _ ?_ ?_
    | with_reducible refine State.setHost_kept ?_ _ _

theorem execD0Entry_kept {s : State} (hI : State.Inv s) (h : PHost) : ∃ u, (execD0Entry h s) = .next u ∧ Kept 0x3ae792007f
    s.pending s u := by
  have hQ := kept_start hI 0x3ae792007f
  have hm := sub_refl 0x3ae792007f
  unfold execD0Entry
  refine ⟨_, rfl, ?_⟩
  try dsimp only
  repeat' first
    | with_reducible assumption | with_reducible refine @kept_ite _ _ _ _ _ _ _ ?_ ?_
    | with_reducible refine State.functionReset_kept ?_ _ _

theorem execAspmL1Entry_kept {s : State} (hI : State.Inv s) (h : PHost) : ∃ u, (execAspmL1Entry h s) = .next u ∧ Kept
    0x2805100040 s.pending s u := by
  have hQ := kept_start hI 0x2805100040
  have hm := sub_refl 0x2805100040
  unfold execAspmL1Entry
  refine ⟨_, rfl, ?_⟩
  try dsimp only
  repeat' first
    | with_reducible assumption | with_reducible refine @kept_ite _ _ _ _ _ _ _ ?_ ?_
    | with_reducible refine State.cycleGo_kept ?_ | with_reducible refine State.setHost_kept ?_ _ _ | simp only [kept_mk]
    | with_reducible refine Kept.parts ?_
    | with_reducible refine Kept.partsDev ?_ (Kept.devWf (m := 0x2805100040) (q := s.pending) (s0 := s) ?_ rfl rfl rfl rfl)

end Sys2Proof.Machine
end

