-- ==== Sys2Proof/Laws/KeptDescData.lean ====
section
/-! SUPPORT. What the definitions of Machine/DescData.lean keep: one lemma `<name>_kept` for each (Laws/Kept.lean). -/

-- Proof bodies are elaborated in order: elaborated in parallel they wait on one another, each in a thread of its own.
set_option Elab.async false

namespace Sys2Proof.Machine
open Sys2Proof

theorem execNop_kept {s : State} (hI : State.Inv s) (h : PHost) (j : Ring) (d : Desc) : ∃ u, (execNop h j d s) = .next u ∧
    Kept 0x3a6792007e s.pending s u := by
  have hQ := kept_start hI 0x3a6792007e
  have hm := sub_refl 0x3a6792007e
  unfold execNop
  refine ⟨_, rfl, ?_⟩
  try dsimp only
  repeat' first
    | with_reducible assumption | with_reducible refine @kept_ite _ _ _ _ _ _ _ ?_ ?_
    | with_reducible refine State.descArrive_kept ?_ _ _ _ _ _ _ _

theorem execWrite_kept {s : State} (hI : State.Inv s) (h : PHost) (j : Ring) (d : Desc) (data : HostData) (ups : List Upset) :
    ∃ u, (execWrite h j d data ups s) = .next u ∧ Kept 0x3a6792007e s.pending s u := by
  have hQ := kept_start hI 0x3a6792007e
  have hm := sub_refl 0x3a6792007e
  unfold execWrite
  refine ⟨_, rfl, ?_⟩
  try dsimp only
  repeat' first
    | with_reducible assumption | with_reducible refine @kept_ite _ _ _ _ _ _ _ ?_ ?_
    | with_reducible refine State.descArrive_kept ?_ _ _ _ _ _ _ _

theorem execRead_kept {s : State} (hI : State.Inv s) (h : PHost) (j : Ring) (d : Desc) (ups : List Upset) : ∃ u, (execRead h j
    d ups s) = .next u ∧ Kept 0x3a6792007e s.pending s u := by
  have hQ := kept_start hI 0x3a6792007e
  have hm := sub_refl 0x3a6792007e
  unfold execRead
  refine ⟨_, rfl, ?_⟩
  try dsimp only
  repeat' first
    | with_reducible assumption | with_reducible refine @kept_ite _ _ _ _ _ _ _ ?_ ?_
    | with_reducible refine State.descArrive_kept ?_ _ _ _ _ _ _ _

theorem State.rewriteCorrected_kept {M : Nat} {Q : List Instr} {s0 s : State} (hQ : Kept M Q s0 s) (cw : Nat)
    (hm : sub 0x20000 M = true := by exact sub_le (by assumption) (by decide)) : Kept M Q s0 (State.rewriteCorrected s cw) := by
  unfold State.rewriteCorrected
  try dsimp only
  repeat' first
    | with_reducible assumption | with_reducible refine @kept_ite _ _ _ _ _ _ _ ?_ ?_
    | with_reducible refine Kept.setCwImage ?_ _ ?_ | with_reducible refine Image.setEcc_wf ?_ _ _
    | with_reducible refine Image.setWord_wf ?_ _ _ | with_reducible refine Image.foldl_wf (fun m x hm => ?_) _ _ ?_
    | with_reducible refine Good.image (Q := Q) ?_ _ | with_reducible refine Good.cwImage (Q := Q) ?_ _
    | with_reducible exact Image.flat_wf _ | with_reducible refine copyImage_wf ?_ _
    | with_reducible refine Image.filterEcc_wf ?_ _ | with_reducible refine Image.keep_wf ?_ _ _
    | with_reducible refine Kept.good (m := M) (s0 := s0) ?_

theorem execCorrectedRewrite_kept {s : State} (hI : State.Inv s) (codeword : BitVec 28) : ∃ u, (execCorrectedRewrite
    codeword s) = .next u ∧ Kept 0x20000 s.pending s u := by
  have hQ := kept_start hI 0x20000
  have hm := sub_refl 0x20000
  unfold execCorrectedRewrite
  refine ⟨_, rfl, ?_⟩
  try dsimp only
  repeat' first
    | with_reducible assumption | with_reducible refine @kept_ite _ _ _ _ _ _ _ ?_ ?_
    | with_reducible refine State.rewriteCorrected_kept ?_ _

theorem execCopy_kept {s : State} (hI : State.Inv s) (h : PHost) (j : Ring) (d : Desc) (ups : List Upset) : ∃ u, (execCopy h j
    d ups s) = .next u ∧ Kept 0x3a6792007e s.pending s u := by
  have hQ := kept_start hI 0x3a6792007e
  have hm := sub_refl 0x3a6792007e
  unfold execCopy
  refine ⟨_, rfl, ?_⟩
  try dsimp only
  repeat' first
    | with_reducible assumption | with_reducible refine @kept_ite _ _ _ _ _ _ _ ?_ ?_
    | with_reducible refine State.descArrive_kept ?_ _ _ _ _ _ _ _

theorem execFill_kept {s : State} (hI : State.Inv s) (h : PHost) (j : Ring) (d : Desc) (ups : List Upset) : ∃ u, (execFill h j
    d ups s) = .next u ∧ Kept 0x3a6792007e s.pending s u := by
  have hQ := kept_start hI 0x3a6792007e
  have hm := sub_refl 0x3a6792007e
  unfold execFill
  refine ⟨_, rfl, ?_⟩
  try dsimp only
  repeat' first
    | with_reducible assumption | with_reducible refine @kept_ite _ _ _ _ _ _ _ ?_ ?_
    | with_reducible refine State.descArrive_kept ?_ _ _ _ _ _ _ _

theorem execWord18Write_kept {s : State} (hI : State.Inv s) (h : PHost) (j : Ring) (d : Desc) (data : HostData) (ups : List
    Upset) : ∃ u, (execWord18Write h j d data ups s) = .next u ∧ Kept 0x3a6792007e s.pending s u := by
  have hQ := kept_start hI 0x3a6792007e
  have hm := sub_refl 0x3a6792007e
  unfold execWord18Write
  refine ⟨_, rfl, ?_⟩
  try dsimp only
  repeat' first
    | with_reducible assumption | with_reducible refine @kept_ite _ _ _ _ _ _ _ ?_ ?_
    | with_reducible refine State.descArrive_kept ?_ _ _ _ _ _ _ _

theorem execWord18Read_kept {s : State} (hI : State.Inv s) (h : PHost) (j : Ring) (d : Desc) (ups : List Upset) : ∃ u,
    (execWord18Read h j d ups s) = .next u ∧ Kept 0x3a6792007e s.pending s u := by
  have hQ := kept_start hI 0x3a6792007e
  have hm := sub_refl 0x3a6792007e
  unfold execWord18Read
  refine ⟨_, rfl, ?_⟩
  try dsimp only
  repeat' first
    | with_reducible assumption | with_reducible refine @kept_ite _ _ _ _ _ _ _ ?_ ?_
    | with_reducible refine State.descArrive_kept ?_ _ _ _ _ _ _ _

theorem execMove_kept {s : State} (hI : State.Inv s) (h : PHost) (j : Ring) (d : Desc) : ∃ u, (execMove h j d s) = .next u ∧
    Kept 0x3a6792007e s.pending s u := by
  have hQ := kept_start hI 0x3a6792007e
  have hm := sub_refl 0x3a6792007e
  unfold execMove
  refine ⟨_, rfl, ?_⟩
  try dsimp only
  repeat' first
    | with_reducible assumption | with_reducible refine @kept_ite _ _ _ _ _ _ _ ?_ ?_
    | with_reducible refine State.descArrive_kept ?_ _ _ _ _ _ _ _

theorem State.markRegion_kept {M : Nat} {Q : List Instr} {s0 s : State} (hQ : Kept M Q s0 s) (r : Nat)
    (hm : sub 0x3801120060 M = true := by exact sub_le (by assumption) (by decide)) : Kept M Q s0 (State.markRegion s r) := by
  unfold State.markRegion
  try dsimp only
  repeat' first
    | with_reducible assumption | with_reducible refine @kept_ite _ _ _ _ _ _ _ ?_ ?_
    | with_reducible refine State.markCodeword_kept ?_ _ | with_reducible refine kept_foldl (fun t x ht => ?_) _ _ ?_

theorem State.moveSwitch_kept {M : Nat} {Q : List Instr} {s0 s : State} (hQ : Kept M Q s0 s) (n : Nat) (ups : List Upset)
    (hm : sub 0x3803120060 M = true := by exact sub_le (by assumption) (by decide)) : Kept M Q s0 (State.moveSwitch s n ups) := by
  have h1 := State.markRegion_kept (State.upsets_kept hQ ups (firstCw (s.get (Reg.ARR_MOVE_SRC n))) (lastCw (s.get (Reg.ARR_MOVE_SRC n))))
    (s.get (Reg.ARR_MOVE_SRC n))
  have hc := copyImage_wf (h1.good.image (s.get (Reg.ARR_MOVE_SRC n))) false
  have h2 := (h1.setImage (s.get (Reg.ARR_MOVE_SRC n)) (Image.withEcc_wf (h1.good.image (s.get (Reg.ARR_MOVE_SRC n))) hc)).setImage
    (s.get (Reg.ARR_MOVE_DST n)) hc
  have h3 := fun a b c d => Kept.put (State.setRstate_kept (State.setRstate_kept h2 a b) c d) (Reg.ARR_MOVE_PHASE n) 2
    (ok_add hm (by decide))
  have h5 := fun a b c d e hs => State.arrEvent_kept (State.arrLast_kept (h3 a b c d) 5 15 e) Reg.ARR_EVENT_MOVE_DONE hs (ok_le hm (by decide))
  unfold State.moveSwitch
  dsimp only
  split
  · exact State.retireLate_kept (State.fixFlight_kept (h5 _ _ _ _ _ _) _ _) _
  · exact State.retireLate_kept (h5 _ _ _ _ _ _) _

theorem execMoveForward_kept {s : State} (hI : State.Inv s) (n : Fin 8) (ups : List Upset) : ∃ u, (execMoveForward n ups
    s) = .next u ∧ Kept 0x3a6793007e s.pending s u := by
  have hQ := kept_start hI 0x3a6793007e
  have hm := sub_refl 0x3a6793007e
  unfold execMoveForward
  refine ⟨_, rfl, ?_⟩
  try dsimp only
  repeat' first
    | with_reducible assumption | with_reducible refine @kept_ite _ _ _ _ _ _ _ ?_ ?_
    | with_reducible refine State.moveSwitch_kept ?_ _ _ | with_reducible refine State.cycleGo_kept ?_
    | with_reducible refine State.watch_kept ?_ _ | with_reducible refine State.settle_kept ?_ | exact all_nil_ok
    | refine all_cons_ok ?_ ?_ | exact ok_le hm (by decide) | exact ok_add hm (by decide) | exact ok_add2 hm (by decide)
    | exact ok_at hm (by decide)

theorem execMoveTimeout_kept {s : State} (hI : State.Inv s) (n : Fin 8) : ∃ u, (execMoveTimeout n s) = .next u ∧ Kept
    0x3a6792007e s.pending s u := by
  have hQ := kept_start hI 0x3a6792007e
  have hm := sub_refl 0x3a6792007e
  unfold execMoveTimeout
  refine ⟨_, rfl, ?_⟩
  try dsimp only
  repeat' first
    | with_reducible assumption | with_reducible refine @kept_ite _ _ _ _ _ _ _ ?_ ?_
    | with_reducible refine State.stopFlight_kept ?_ _ _ _ | with_reducible refine State.settle_kept ?_ | simp only [kept_mk]
    | with_reducible refine Kept.parts ?_
    | with_reducible refine Kept.partsDev ?_ (Kept.devWf (m := 0x3a6792007e)  ?_ rfl rfl rfl rfl) | dsimp only | split

theorem State.forwardEnd_kept {M : Nat} {Q : List Instr} {s0 s : State} (hQ : Kept M Q s0 s) (x : Sender) (n : Nat)
    (hm : sub 0x3a67d7007e M = true := by exact sub_le (by assumption) (by decide)) : Kept M Q s0 (State.forwardEnd s x n)
    := by
  unfold State.forwardEnd
  try dsimp only
  repeat' first
    | with_reducible assumption | with_reducible refine @kept_ite _ _ _ _ _ _ _ ?_ ?_
    | with_reducible refine State.cycleGo_kept ?_ | with_reducible refine State.watch_kept ?_ _
    | with_reducible refine State.settle_kept ?_ | with_reducible refine State.partWrite_kept ?_ _ | exact all_nil_ok
    | refine all_cons_ok ?_ ?_ | exact ok_le hm (by decide) | exact ok_add hm (by decide) | exact ok_add2 hm (by decide)
    | exact ok_at hm (by decide)

theorem execForwardEnd_kept {s : State} (hI : State.Inv s) (from_ : Sender) (n : Fin 8) : ∃ u, (execForwardEnd from_ n s) =
    .next u ∧ Kept 0x3a67d7007e s.pending s u := by
  have hQ := kept_start hI 0x3a67d7007e
  have hm := sub_refl 0x3a67d7007e
  unfold execForwardEnd
  refine ⟨_, rfl, ?_⟩
  try dsimp only
  repeat' first
    | with_reducible assumption | with_reducible refine @kept_ite _ _ _ _ _ _ _ ?_ ?_
    | with_reducible refine State.forwardEnd_kept ?_ _ _

end Sys2Proof.Machine
end

