-- ==== Sys2Proof/Laws/KeptDescStation.lean ====
section
/-! SUPPORT. What the definitions of Machine/DescStation.lean keep: one lemma `<name>_kept` for each (Laws/Kept.lean). -/

-- Proof bodies are elaborated in order: elaborated in parallel they wait on one another, each in a thread of its own.
set_option Elab.async false

namespace Sys2Proof.Machine
open Sys2Proof

theorem execRasterPost_kept {s : State} (hI : State.Inv s) (h : PHost) (j : Ring) (d : Desc) (data : HostData) : ∃ u,
    (execRasterPost h j d data s) = .next u ∧ Kept 0x3a6792007e s.pending s u := by
  have hQ := kept_start hI 0x3a6792007e
  have hm := sub_refl 0x3a6792007e
  unfold execRasterPost
  refine ⟨_, rfl, ?_⟩
  try dsimp only
  repeat' first
    | with_reducible assumption | with_reducible refine @kept_ite _ _ _ _ _ _ _ ?_ ?_
    | with_reducible refine State.descArrive_kept ?_ _ _ _ _ _ _ _

theorem execSheetJoinQueue_kept {s : State} (hI : State.Inv s) (n : StnId) : ∃ u, (execSheetJoinQueue n s) = .next u ∧ Kept
    0x3a6792007e s.pending s u := by
  have hQ := kept_start hI 0x3a6792007e
  have hm := sub_refl 0x3a6792007e
  unfold execSheetJoinQueue
  refine ⟨_, rfl, ?_⟩
  try dsimp only
  repeat' first
    | with_reducible assumption | with_reducible refine @kept_ite _ _ _ _ _ _ _ ?_ ?_
    | with_reducible refine State.joinQueue_kept ?_ _ | with_reducible refine State.settle_kept ?_

theorem execRasterPostPublish_kept {s : State} (hI : State.Inv s) (h : PHost) (j : Ring) (tag : BitVec 16) : ∃ u,
    (execRasterPostPublish h j tag s) = .next u ∧ Kept 0x3a6792007e s.pending s u := by
  have hQ := kept_start hI 0x3a6792007e
  have hm := sub_refl 0x3a6792007e
  unfold execRasterPostPublish
  refine ⟨_, rfl, ?_⟩
  try dsimp only
  repeat' first
    | with_reducible assumption | with_reducible refine @kept_ite _ _ _ _ _ _ _ ?_ ?_
    | with_reducible refine State.settle_kept ?_ | with_reducible refine State.publish_kept ?_ _ _ _ | simp only [kept_mk]
    | with_reducible refine Kept.parts ?_
    | with_reducible refine Kept.partsDev ?_ (Kept.devWf (m := 0x3a6792007e) (q := s.pending) (s0 := s) ?_ rfl rfl rfl rfl)
    | dsimp only | split

theorem execTableLoad_kept {s : State} (hI : State.Inv s) (h : PHost) (j : Ring) (d : Desc) (data : HostData) (pads :
    PadTraffic) : ∃ u, (execTableLoad h j d data s pads) = .next u ∧ Kept 0x3a6792007e s.pending s u := by
  have hQ := kept_start hI 0x3a6792007e
  have hm := sub_refl 0x3a6792007e
  unfold execTableLoad
  refine ⟨_, rfl, ?_⟩
  try dsimp only
  repeat' first
    | with_reducible assumption | with_reducible refine @kept_ite _ _ _ _ _ _ _ ?_ ?_
    | with_reducible refine State.descArrive_kept ?_ _ _ _ _ _ _ _

theorem execTableSwap_kept {s : State} (hI : State.Inv s) (h : PHost) (j : Ring) (d : Desc) : ∃ u, (execTableSwap h j d s) =
    .next u ∧ Kept 0x3a6792007e s.pending s u := by
  have hQ := kept_start hI 0x3a6792007e
  have hm := sub_refl 0x3a6792007e
  unfold execTableSwap
  refine ⟨_, rfl, ?_⟩
  try dsimp only
  repeat' first
    | with_reducible assumption | with_reducible refine @kept_ite _ _ _ _ _ _ _ ?_ ?_
    | with_reducible refine State.descArrive_kept ?_ _ _ _ _ _ _ _

theorem execTableSwapReady_kept {s : State} (hI : State.Inv s) (h : PHost) (j : Ring) (tag : BitVec 16) (t : Nat) : ∃ u,
    (execTableSwapReady h j tag t s) = .next u ∧ Kept 0x3a6792007e s.pending s u := by
  have hQ := kept_start hI 0x3a6792007e
  have hm := sub_refl 0x3a6792007e
  unfold execTableSwapReady
  refine ⟨_, rfl, ?_⟩
  try dsimp only
  repeat' first
    | with_reducible assumption | with_reducible refine @kept_ite _ _ _ _ _ _ _ ?_ ?_
    | with_reducible refine State.settle_kept ?_ | with_reducible refine State.swapCheck_kept ?_ _ _ _ | simp only [kept_mk]
    | with_reducible refine Kept.parts ?_
    | with_reducible refine Kept.partsDev ?_ (Kept.devWf (m := 0x3a6792007e) (q := s.pending) (s0 := s) ?_ rfl rfl rfl rfl)
    | dsimp only | split

end Sys2Proof.Machine
end

