-- ==== Sys2Proof/Laws/KeptDescLedger.lean ====
section
/-! SUPPORT. What the definitions of Machine/DescLedger.lean keep: one lemma `<name>_kept` for each (Laws/Kept.lean). -/

-- Proof bodies are elaborated in order: elaborated in parallel they wait on one another, each in a thread of its own.
set_option Elab.async false

namespace Sys2Proof.Machine
open Sys2Proof

theorem execLedgerOpen_kept {s : State} (hI : State.Inv s) (h : PHost) (j : Ring) (d : Desc) (pads : PadTraffic) : ∃ u,
    (execLedgerOpen h j d s pads) = .next u ∧ Kept 0x3a6792007e s.pending s u := by
  have hQ := kept_start hI 0x3a6792007e
  have hm := sub_refl 0x3a6792007e
  unfold execLedgerOpen
  refine ⟨_, rfl, ?_⟩
  try dsimp only
  repeat' first
    | with_reducible assumption | with_reducible refine @kept_ite _ _ _ _ _ _ _ ?_ ?_
    | with_reducible refine State.descArrive_kept ?_ _ _ _ _ _ _ _ | simp only [kept_mk]
    | with_reducible refine Kept.parts ?_
    | with_reducible refine Kept.partsDev ?_ (Kept.devWf (m := 0x3a6792007e) (q := s.pending) (s0 := s) ?_ rfl rfl rfl rfl)

theorem execLedgerStage_kept {s : State} (hI : State.Inv s) (h : PHost) (j : Ring) (d : Desc) (pads : PadTraffic) : ∃ u,
    (execLedgerStage h j d s pads) = .next u ∧ Kept 0x3a6792007e s.pending s u := by
  have hQ := kept_start hI 0x3a6792007e
  have hm := sub_refl 0x3a6792007e
  unfold execLedgerStage
  refine ⟨_, rfl, ?_⟩
  try dsimp only
  repeat' first
    | with_reducible assumption | with_reducible refine @kept_ite _ _ _ _ _ _ _ ?_ ?_
    | with_reducible refine State.descArrive_kept ?_ _ _ _ _ _ _ _ | simp only [kept_mk]
    | with_reducible refine Kept.parts ?_
    | with_reducible refine Kept.partsDev ?_ (Kept.devWf (m := 0x3a6792007e) (q := s.pending) (s0 := s) ?_ rfl rfl rfl rfl)

theorem execLedgerQuery_kept {s : State} (hI : State.Inv s) (h : PHost) (j : Ring) (d : Desc) (pads : PadTraffic) : ∃ u,
    (execLedgerQuery h j d s pads) = .next u ∧ Kept 0x3a6792007e s.pending s u := by
  have hQ := kept_start hI 0x3a6792007e
  have hm := sub_refl 0x3a6792007e
  unfold execLedgerQuery
  refine ⟨_, rfl, ?_⟩
  try dsimp only
  repeat' first
    | with_reducible assumption | with_reducible refine @kept_ite _ _ _ _ _ _ _ ?_ ?_
    | with_reducible refine State.descArrive_kept ?_ _ _ _ _ _ _ _ | simp only [kept_mk]
    | with_reducible refine Kept.parts ?_
    | with_reducible refine Kept.partsDev ?_ (Kept.devWf (m := 0x3a6792007e) (q := s.pending) (s0 := s) ?_ rfl rfl rfl rfl)

theorem execCounterRead_kept {s : State} (hI : State.Inv s) (h : PHost) (j : Ring) (d : Desc) (pads : PadTraffic) : ∃ u,
    (execCounterRead h j d s pads) = .next u ∧ Kept 0x3a6792007e s.pending s u := by
  have hQ := kept_start hI 0x3a6792007e
  have hm := sub_refl 0x3a6792007e
  unfold execCounterRead
  refine ⟨_, rfl, ?_⟩
  try dsimp only
  repeat' first
    | with_reducible assumption | with_reducible refine @kept_ite _ _ _ _ _ _ _ ?_ ?_
    | with_reducible refine State.descArrive_kept ?_ _ _ _ _ _ _ _ | simp only [kept_mk]
    | with_reducible refine Kept.parts ?_
    | with_reducible refine Kept.partsDev ?_ (Kept.devWf (m := 0x3a6792007e) (q := s.pending) (s0 := s) ?_ rfl rfl rfl rfl)

theorem execRtcRead_kept {s : State} (hI : State.Inv s) (h : PHost) (j : Ring) (d : Desc) : ∃ u, (execRtcRead h j d s) = .next
    u ∧ Kept 0x3a6792007e s.pending s u := by
  have hQ := kept_start hI 0x3a6792007e
  have hm := sub_refl 0x3a6792007e
  unfold execRtcRead
  refine ⟨_, rfl, ?_⟩
  try dsimp only
  repeat' first
    | with_reducible assumption | with_reducible refine @kept_ite _ _ _ _ _ _ _ ?_ ?_
    | with_reducible refine State.descArrive_kept ?_ _ _ _ _ _ _ _

theorem execRtcSet_kept {s : State} (hI : State.Inv s) (h : PHost) (j : Ring) (d : Desc) : ∃ u, (execRtcSet h j d s) = .next u
    ∧ Kept 0x3a6792007e s.pending s u := by
  have hQ := kept_start hI 0x3a6792007e
  have hm := sub_refl 0x3a6792007e
  unfold execRtcSet
  refine ⟨_, rfl, ?_⟩
  try dsimp only
  repeat' first
    | with_reducible assumption | with_reducible refine @kept_ite _ _ _ _ _ _ _ ?_ ?_
    | with_reducible refine State.descArrive_kept ?_ _ _ _ _ _ _ _

theorem execCheckpoint_kept {s : State} (hI : State.Inv s) (h : PHost) (j : Ring) (d : Desc) : ∃ u, (execCheckpoint h j d s) =
    .next u ∧ Kept 0x3a6792007e s.pending s u := by
  have hQ := kept_start hI 0x3a6792007e
  have hm := sub_refl 0x3a6792007e
  unfold execCheckpoint
  refine ⟨_, rfl, ?_⟩
  try dsimp only
  repeat' first
    | with_reducible assumption | with_reducible refine @kept_ite _ _ _ _ _ _ _ ?_ ?_
    | with_reducible refine State.descArrive_kept ?_ _ _ _ _ _ _ _

theorem execAbort_kept {s : State} (hI : State.Inv s) (h : PHost) (j : Ring) (d : Desc) : ∃ u, (execAbort h j d s) = .next u ∧
    Kept 0x3a6792007e s.pending s u := by
  have hQ := kept_start hI 0x3a6792007e
  have hm := sub_refl 0x3a6792007e
  unfold execAbort
  refine ⟨_, rfl, ?_⟩
  try dsimp only
  repeat' first
    | with_reducible assumption | with_reducible refine @kept_ite _ _ _ _ _ _ _ ?_ ?_
    | with_reducible refine State.descArrive_kept ?_ _ _ _ _ _ _ _

theorem execBadOpcode_kept {s : State} (hI : State.Inv s) (h : PHost) (j : Ring) (opcode : Byte) (d : Desc) : ∃ u,
    (execBadOpcode h j opcode d s) = .next u ∧ Kept 0x3a6792007e s.pending s u := by
  have hQ := kept_start hI 0x3a6792007e
  have hm := sub_refl 0x3a6792007e
  unfold execBadOpcode
  refine ⟨_, rfl, ?_⟩
  try dsimp only
  repeat' first
    | with_reducible assumption | with_reducible refine @kept_ite _ _ _ _ _ _ _ ?_ ?_
    | with_reducible refine State.descArrive_kept ?_ _ _ _ _ _ _ _ | simp only [kept_mk]
    | with_reducible refine Kept.parts ?_
    | with_reducible refine Kept.partsDev ?_ (Kept.devWf (m := 0x3a6792007e) (q := s.pending) (s0 := s) ?_ rfl rfl rfl rfl)

theorem execWaitLimitExpiry_kept {s : State} (hI : State.Inv s) (h : PHost) (j : Ring) (tag : BitVec 16) : ∃ u,
    (execWaitLimitExpiry h j tag s) = .next u ∧ Kept 0x3a6792007e s.pending s u := by
  have hQ := kept_start hI 0x3a6792007e
  have hm := sub_refl 0x3a6792007e
  unfold execWaitLimitExpiry
  refine ⟨_, rfl, ?_⟩
  try dsimp only
  repeat' first
    | with_reducible assumption | with_reducible refine @kept_ite _ _ _ _ _ _ _ ?_ ?_
    | with_reducible refine State.waitExpired_kept ?_ _ _ _ | with_reducible refine State.settle_kept ?_

end Sys2Proof.Machine
end

