-- ==== Sys2Proof/Laws/KeptDescKeep.lean ====
section
/-! SUPPORT. What the definitions of Machine/DescKeep.lean keep: one lemma `<name>_kept` for each (Laws/Kept.lean). -/

-- Proof bodies are elaborated in order: elaborated in parallel they wait on one another, each in a thread of its own.
set_option Elab.async false

namespace Sys2Proof.Machine
open Sys2Proof

theorem execKeepRead_kept {s : State} (hI : State.Inv s) (h : PHost) (j : Ring) (d : Desc) (pads : PadTraffic) : ∃ u,
    (execKeepRead h j d s pads) = .next u ∧ Kept 0x3a6792007e s.pending s u := by
  have hQ := kept_start hI 0x3a6792007e
  have hm := sub_refl 0x3a6792007e
  unfold execKeepRead
  refine ⟨_, rfl, ?_⟩
  try dsimp only
  repeat' first
    | with_reducible assumption | with_reducible refine @kept_ite _ _ _ _ _ _ _ ?_ ?_
    | with_reducible refine State.descArrive_kept ?_ _ _ _ _ _ _ _ | simp only [kept_mk]
    | with_reducible refine Kept.parts ?_
    | with_reducible refine Kept.partsDev ?_ (Kept.devWf (m := 0x3a6792007e) (q := s.pending) (s0 := s) ?_ rfl rfl rfl rfl)

theorem execKeepWrite_kept {s : State} (hI : State.Inv s) (h : PHost) (j : Ring) (d : Desc) (data : HostData) (pads :
    PadTraffic) : ∃ u, (execKeepWrite h j d data s pads) = .next u ∧ Kept 0x3a6792007e s.pending s u := by
  have hQ := kept_start hI 0x3a6792007e
  have hm := sub_refl 0x3a6792007e
  unfold execKeepWrite
  refine ⟨_, rfl, ?_⟩
  try dsimp only
  repeat' first
    | with_reducible assumption | with_reducible refine @kept_ite _ _ _ _ _ _ _ ?_ ?_
    | with_reducible refine State.descArrive_kept ?_ _ _ _ _ _ _ _

theorem execRecordPut_kept {s : State} (hI : State.Inv s) (h : PHost) (j : Ring) (d : Desc) (data : HostData) (pads :
    PadTraffic) : ∃ u, (execRecordPut h j d data s pads) = .next u ∧ Kept 0x3a6792007e s.pending s u := by
  have hQ := kept_start hI 0x3a6792007e
  have hm := sub_refl 0x3a6792007e
  unfold execRecordPut
  refine ⟨_, rfl, ?_⟩
  try dsimp only
  repeat' first
    | with_reducible assumption | with_reducible refine @kept_ite _ _ _ _ _ _ _ ?_ ?_
    | with_reducible refine State.descArrive_kept ?_ _ _ _ _ _ _ _

theorem execRecordGet_kept {s : State} (hI : State.Inv s) (h : PHost) (j : Ring) (d : Desc) (pads : PadTraffic) : ∃ u,
    (execRecordGet h j d s pads) = .next u ∧ Kept 0x3a6792007e s.pending s u := by
  have hQ := kept_start hI 0x3a6792007e
  have hm := sub_refl 0x3a6792007e
  unfold execRecordGet
  refine ⟨_, rfl, ?_⟩
  try dsimp only
  repeat' first
    | with_reducible assumption | with_reducible refine @kept_ite _ _ _ _ _ _ _ ?_ ?_
    | with_reducible refine State.descArrive_kept ?_ _ _ _ _ _ _ _ | simp only [kept_mk]
    | with_reducible refine Kept.parts ?_
    | with_reducible refine Kept.partsDev ?_ (Kept.devWf (m := 0x3a6792007e) (q := s.pending) (s0 := s) ?_ rfl rfl rfl rfl)

end Sys2Proof.Machine
end

