-- ==== Sys2Proof/Laws/KeptArray.lean ====
section
/-! SUPPORT. What the definitions of Machine/Array.lean keep: one lemma `<name>_kept` for each (Laws/Kept.lean). -/

-- Proof bodies are elaborated in order: elaborated in parallel they wait on one another, each in a thread of its own.
set_option Elab.async false

namespace Sys2Proof.Machine
open Sys2Proof

theorem State.partSet_kept {M : Nat} {Q : List Instr} {s0 s : State} (hQ : Kept M Q s0 s) (x : Sender) (a : Nat) (v :
    Word) (hm : sub 0x3a67d7007e M = true := by exact sub_le (by assumption) (by decide)) : Kept M Q s0 (State.partSet s x
    a v) := by
  unfold State.partSet
  try dsimp only
  repeat' first
    | with_reducible assumption | with_reducible refine @kept_ite _ _ _ _ _ _ _ ?_ ?_
    | with_reducible refine State.cycleGo_kept ?_ | with_reducible refine State.watch_kept ?_ _
    | with_reducible refine State.settle_kept ?_ | with_reducible refine State.partWrite_kept ?_ _

theorem execPartAttr_kept {s : State} (hI : State.Inv s) (from_ : Sender) (p : Fin 63) (value : Word) : ∃ u, (execPartAttr
    from_ p value s) = .next u ∧ Kept 0x3a67d7007e s.pending s u := by
  have hQ := kept_start hI 0x3a67d7007e
  have hm := sub_refl 0x3a67d7007e
  unfold execPartAttr
  refine ⟨_, rfl, ?_⟩
  try dsimp only
  repeat' first
    | with_reducible assumption | with_reducible refine @kept_ite _ _ _ _ _ _ _ ?_ ?_
    | with_reducible refine State.partSet_kept ?_ _ _ _

theorem execPartRegion_kept {s : State} (hI : State.Inv s) (from_ : Sender) (r : Fin 64) (value : Word) : ∃ u, (execPartRegion
    from_ r value s) = .next u ∧ Kept 0x3a67d7007e s.pending s u := by
  have hQ := kept_start hI 0x3a67d7007e
  have hm := sub_refl 0x3a67d7007e
  unfold execPartRegion
  refine ⟨_, rfl, ?_⟩
  try dsimp only
  repeat' first
    | with_reducible assumption | with_reducible refine @kept_ite _ _ _ _ _ _ _ ?_ ?_
    | with_reducible refine State.partSet_kept ?_ _ _ _

theorem execRegionClearDone_kept {s : State} (hI : State.Inv s) (r : Fin 64) : ∃ u, (execRegionClearDone r s) = .next u ∧ Kept
    0x3a6792007e s.pending s u := by
  have hQ := kept_start hI 0x3a6792007e
  have hm := sub_refl 0x3a6792007e
  unfold execRegionClearDone
  refine ⟨_, rfl, ?_⟩
  try dsimp only
  repeat' first
    | with_reducible assumption | with_reducible refine @kept_ite _ _ _ _ _ _ _ ?_ ?_
    | with_reducible refine State.settle_kept ?_ | simp only [kept_mk] | with_reducible refine Kept.parts ?_

theorem State.clusterFails_kept {M : Nat} {Q : List Instr} {s0 s : State} (hQ : Kept M Q s0 s) (r : Nat) (cluster : Nat)
    (cause : Nat) (hm : sub 0x3a6793007e M = true := by exact sub_le (by assumption) (by decide)) : Kept M Q s0
    (State.clusterFails s r cluster cause) := by
  unfold State.clusterFails
  try dsimp only
  repeat' first
    | with_reducible assumption | with_reducible refine @kept_ite _ _ _ _ _ _ _ ?_ ?_
    | with_reducible refine State.cycleGo_kept ?_ | with_reducible refine State.watch_kept ?_ _
    | with_reducible refine State.settle_kept ?_ | with_reducible refine State.replace_kept ?_ _ _ _

theorem execClusterSlow_kept {s : State} (hI : State.Inv s) (r : Fin 64) (cluster : Fin 8) : ∃ u, (execClusterSlow r cluster
    s) = .next u ∧ Kept 0x3a6793007e s.pending s u := by
  have hQ := kept_start hI 0x3a6793007e
  have hm := sub_refl 0x3a6793007e
  unfold execClusterSlow
  refine ⟨_, rfl, ?_⟩
  try dsimp only
  repeat' first
    | with_reducible assumption | with_reducible refine @kept_ite _ _ _ _ _ _ _ ?_ ?_
    | with_reducible refine State.clusterFails_kept ?_ _ _ _

theorem execEccLimit_kept {s : State} (hI : State.Inv s) (r : Fin 64) (cluster : Fin 8) : ∃ u, (execEccLimit r cluster s) =
    .next u ∧ Kept 0x3a6793007e s.pending s u := by
  have hQ := kept_start hI 0x3a6793007e
  have hm := sub_refl 0x3a6793007e
  unfold execEccLimit
  refine ⟨_, rfl, ?_⟩
  try dsimp only
  repeat' first
    | with_reducible assumption | with_reducible refine @kept_ite _ _ _ _ _ _ _ ?_ ?_
    | with_reducible refine State.clusterFails_kept ?_ _ _ _

theorem State.spareCells_kept {M : Nat} {Q : List Instr} {s0 s : State} (hQ : Kept M Q s0 s) (c : LiveCopy) (ups : List Upset)
    (hm : sub 0x3801120060 M = true := by exact sub_le (by assumption) (by decide)) : Kept M Q s0 (State.spareCells s c ups) :=
  have h2 := kept_foldl (fun t i ht => State.markIn_kept (M := M) ht _ _ _) _ _
    (kept_foldl (fun t u ht => State.upsetIn_kept (M := M) ht _ u) _ _ hQ)
  h2.setImage _ (Image.filterEcc_wf (h2.good.image _) _)

theorem State.spareIn_kept {M : Nat} {Q : List Instr} {s0 s : State} (hQ : Kept M Q s0 s) (c : LiveCopy) (ups : List
    Upset) (hm : sub 0x3801120060 M = true := by exact sub_le (by assumption) (by decide)) : Kept M Q s0 (State.spareIn s
    c ups) := by
  unfold State.spareIn
  try dsimp only
  repeat' first
    | with_reducible assumption | with_reducible refine @kept_ite _ _ _ _ _ _ _ ?_ ?_
    | with_reducible refine State.spareCells_kept ?_ _ _ | with_reducible refine State.retire_kept ?_ _ _ _
    | with_reducible refine State.arrLast_kept ?_ _ _ _ | with_reducible refine State.log_kept ?_ _ _ _ _ _
    | with_reducible refine State.arrEvent_kept ?_ _ _ ?_ | with_reducible refine Kept.put ?_ _ _ ?_ | exact all_nil_ok
    | refine all_cons_ok ?_ ?_ | exact ok_le hm (by decide) | exact ok_add hm (by decide) | exact ok_add2 hm (by decide)
    | exact ok_at hm (by decide) | simp only [kept_mk] | with_reducible refine Kept.parts ?_
    | with_reducible refine Kept.partsDev ?_ (Kept.devWf (m := M) (q := Q) (s0 := s0) ?_ rfl rfl rfl rfl) | dsimp only
    | split | with_reducible refine Kept.setImage ?_ _ ?_ | with_reducible refine Image.setEcc_wf ?_ _ _
    | with_reducible refine Image.setWord_wf ?_ _ _ | with_reducible refine Image.foldl_wf (fun m x hm => ?_) _ _ ?_
    | with_reducible refine Good.image (Q := Q) ?_ _ | with_reducible refine Good.cwImage (Q := Q) ?_ _
    | with_reducible exact Image.flat_wf _ | with_reducible refine copyImage_wf ?_ _
    | with_reducible refine Image.filterEcc_wf ?_ _ | with_reducible refine Image.keep_wf ?_ _ _
    | with_reducible refine Kept.good (m := M) (s0 := s0) ?_ | with_reducible refine kept_foldl (fun t x ht => ?_) _ _ ?_
    | with_reducible refine kept_foldl_fst (fun t x ht => ?_) _ _ ?_

theorem execLiveCopyDone_kept {s : State} (hI : State.Inv s) (r : Fin 64) (ups : List Upset) : ∃ u, (execLiveCopyDone r
    ups s) = .next u ∧ Kept 0x3a6793007e s.pending s u := by
  have hQ := kept_start hI 0x3a6793007e
  have hm := sub_refl 0x3a6793007e
  unfold execLiveCopyDone
  refine ⟨_, rfl, ?_⟩
  try dsimp only
  repeat' first
    | with_reducible assumption | with_reducible refine @kept_ite _ _ _ _ _ _ _ ?_ ?_
    | with_reducible refine State.spareIn_kept ?_ _ _ | with_reducible refine State.cycleGo_kept ?_
    | with_reducible refine State.watch_kept ?_ _ | with_reducible refine State.settle_kept ?_ | simp only [kept_mk]
    | with_reducible refine Kept.parts ?_
    | with_reducible refine Kept.partsDev ?_ (Kept.devWf (m := 0x3a6793007e) (q := s.pending) (s0 := s) ?_ rfl rfl rfl rfl)
    | dsimp only | split

theorem State.cells63_kept {M : Nat} {Q : List Instr} {s0 s : State} (hQ : Kept M Q s0 s) (r : Nat) (ups : List Upset)
    (hm : sub 0x3801120060 M = true := by exact sub_le (by assumption) (by decide)) : Kept M Q s0 (State.cells63 s r ups) :=
  have h1 := State.markRegion_kept (State.upsets_kept hQ ups (firstCw 63) (lastCw 63)) 63
  h1.setImage r (copyImage_wf (h1.good.image _) false)

theorem State.serve63_kept {M : Nat} {Q : List Instr} {s0 s : State} (hQ : Kept M Q s0 s) (r : Nat) (ups : List Upset)
    (hm : sub 0x38011a0060 M = true := by exact sub_le (by assumption) (by decide)) : Kept M Q s0 (State.serve63 s r ups)
    := by
  unfold State.serve63
  try dsimp only
  repeat' first
    | with_reducible assumption | with_reducible refine @kept_ite _ _ _ _ _ _ _ ?_ ?_
    | with_reducible refine State.cells63_kept ?_ _ _ | with_reducible refine State.leave_kept ?_ _
    | with_reducible refine State.arrLast_kept ?_ _ _ _ | with_reducible refine State.setRstate_kept ?_ _ _
    | with_reducible refine State.putAll_kept ?_ _ ?_ | with_reducible refine State.arrEvent_kept ?_ _ _ ?_
    | with_reducible refine Kept.put ?_ _ _ ?_ | exact all_nil_ok | refine all_cons_ok ?_ ?_ | exact ok_le hm (by decide)
    | exact ok_add hm (by decide) | exact ok_add2 hm (by decide) | exact ok_at hm (by decide) | simp only [kept_mk]
    | with_reducible refine Kept.parts ?_
    | with_reducible refine Kept.partsDev ?_ (Kept.devWf (m := M) (q := Q) (s0 := s0) ?_ rfl rfl rfl rfl) | dsimp only
    | split | with_reducible refine Kept.setImage ?_ _ ?_ | with_reducible refine Image.setEcc_wf ?_ _ _
    | with_reducible refine Image.setWord_wf ?_ _ _ | with_reducible refine Image.foldl_wf (fun m x hm => ?_) _ _ ?_
    | with_reducible refine Good.image (Q := Q) ?_ _ | with_reducible refine Good.cwImage (Q := Q) ?_ _
    | with_reducible exact Image.flat_wf _ | with_reducible refine copyImage_wf ?_ _
    | with_reducible refine Image.filterEcc_wf ?_ _ | with_reducible refine Image.keep_wf ?_ _ _
    | with_reducible refine Kept.good (m := M) (s0 := s0) ?_

theorem execRegion63RelocDone_kept {s : State} (hI : State.Inv s) (ups : List Upset) : ∃ u, (execRegion63RelocDone ups s) =
    .next u ∧ Kept 0x3a679b007e s.pending s u := by
  have hQ := kept_start hI 0x3a679b007e
  have hm := sub_refl 0x3a679b007e
  unfold execRegion63RelocDone
  refine ⟨_, rfl, ?_⟩
  try dsimp only
  repeat' first
    | with_reducible assumption | with_reducible refine @kept_ite _ _ _ _ _ _ _ ?_ ?_
    | with_reducible refine State.serve63_kept ?_ _ _ | with_reducible refine State.settle_kept ?_
    | with_reducible refine State.watch_kept ?_ _ | simp only [kept_mk] | with_reducible refine Kept.parts ?_
    | with_reducible refine Kept.partsDev ?_ (Kept.devWf (m := 0x3a679b007e)  ?_ rfl rfl rfl rfl) | dsimp only | split

end Sys2Proof.Machine
end

