-- ==== Sys2Proof/Laws/KeptStation.lean ====
section
/-! SUPPORT. What the definitions of Machine/Station.lean keep: one lemma `<name>_kept` for each (Laws/Kept.lean). -/

-- Proof bodies are elaborated in order: elaborated in parallel they wait on one another, each in a thread of its own.
set_option Elab.async false

namespace Sys2Proof.Machine
open Sys2Proof

theorem State.armReq_kept {M : Nat} {Q : List Instr} {s0 s : State} (hQ : Kept M Q s0 s) (x : Sender) (n : Nat)
    (hm : sub 0x2805000060 M = true := by exact sub_le (by assumption) (by decide)) : Kept M Q s0 (State.armReq s x n) :=
    by
  unfold State.armReq
  try dsimp only
  repeat' first
    | with_reducible assumption | with_reducible refine @kept_ite _ _ _ _ _ _ _ ?_ ?_
    | with_reducible refine State.dropProbe_kept ?_ _ | with_reducible refine State.arm_kept ?_ _ _
    | with_reducible refine State.setStn_kept ?_ _ _ | simp only [kept_mk] | with_reducible refine Kept.parts ?_
    | with_reducible refine Kept.partsDev ?_ (Kept.devWf (m := M) (q := Q) (s0 := s0) ?_ rfl rfl rfl rfl)

theorem State.dropArm_kept {M : Nat} {Q : List Instr} {s0 s : State} (hQ : Kept M Q s0 s) (n : Nat)
    (hm : sub 0x4000000 M = true := by exact sub_le (by assumption) (by decide)) : Kept M Q s0 (State.dropArm s n) := by
  unfold State.dropArm
  try dsimp only
  repeat' first
    | with_reducible assumption | with_reducible refine @kept_ite _ _ _ _ _ _ _ ?_ ?_
    | with_reducible refine State.setStn_kept ?_ _ _ | simp only [kept_mk] | with_reducible refine Kept.parts ?_
    | with_reducible refine Kept.partsDev ?_ (Kept.devWf (m := M) (q := Q) (s0 := s0) ?_ rfl rfl rfl rfl)

theorem State.disarmReq_kept {M : Nat} {Q : List Instr} {s0 s : State} (hQ : Kept M Q s0 s) (x : Sender) (n : Nat)
    (hm : sub 0x3a6793007e M = true := by exact sub_le (by assumption) (by decide)) : Kept M Q s0 (State.disarmReq s x n)
    := by
  unfold State.disarmReq
  try dsimp only
  repeat' first
    | with_reducible assumption | with_reducible refine @kept_ite _ _ _ _ _ _ _ ?_ ?_
    | with_reducible refine State.dropArm_kept ?_ _ | with_reducible refine State.drainAdvance_kept ?_
    | with_reducible refine State.settle_kept ?_ | with_reducible refine State.disarm_kept ?_ _

theorem execArm_kept {s : State} (hI : State.Inv s) (from_ : Sender) (n : StnId) : ∃ u, (execArm from_ n s) = .next u ∧ Kept
    0x2805000060 s.pending s u := by
  have hQ := kept_start hI 0x2805000060
  have hm := sub_refl 0x2805000060
  unfold execArm
  refine ⟨_, rfl, ?_⟩
  try dsimp only
  repeat' first
    | with_reducible assumption | with_reducible refine @kept_ite _ _ _ _ _ _ _ ?_ ?_
    | with_reducible refine State.armReq_kept ?_ _ _

theorem execDisarm_kept {s : State} (hI : State.Inv s) (from_ : Sender) (n : StnId) : ∃ u, (execDisarm from_ n s) = .next u ∧
    Kept 0x3a6793007e s.pending s u := by
  have hQ := kept_start hI 0x3a6793007e
  have hm := sub_refl 0x3a6793007e
  unfold execDisarm
  refine ⟨_, rfl, ?_⟩
  try dsimp only
  repeat' first
    | with_reducible assumption | with_reducible refine @kept_ite _ _ _ _ _ _ _ ?_ ?_
    | with_reducible refine State.disarmReq_kept ?_ _ _

theorem execNoSos_kept {s : State} (hI : State.Inv s) (n : StnId) : ∃ u, (execNoSos n s) = .next u ∧ Kept 0x2001000040
    s.pending s u := by
  have hQ := kept_start hI 0x2001000040
  have hm := sub_refl 0x2001000040
  unfold execNoSos
  refine ⟨_, rfl, ?_⟩
  try dsimp only
  repeat' first
    | with_reducible assumption | with_reducible refine @kept_ite _ _ _ _ _ _ _ ?_ ?_
    | with_reducible refine State.stnEvent_kept ?_ _ _ ?_ | exact all_nil_ok | refine all_cons_ok ?_ ?_
    | exact ok_le hm (by decide) | exact ok_add hm (by decide) | exact ok_add2 hm (by decide) | exact ok_at hm (by decide)
    | simp only [kept_mk] | with_reducible refine Kept.parts ?_
    | with_reducible refine Kept.partsDev ?_ (Kept.devWf (m := 0x2001000040)  ?_ rfl rfl rfl rfl) | dsimp only | split
    | intro _

theorem execSxsPulse_kept {s : State} (hI : State.Inv s) (n : StnId) (t : Nat) (width : Nat) (high : Bool) (leave : Nat) :
    ∃ u, (execSxsPulse n t width s high leave) = .next u ∧ Kept 0x7a6793007e s.pending s u := by
  have hQ := kept_start hI 0x7a6793007e
  have hm := sub_refl 0x7a6793007e
  unfold execSxsPulse
  refine ⟨_, rfl, ?_⟩
  try dsimp only
  repeat' first
    | with_reducible assumption | with_reducible refine @kept_ite _ _ _ _ _ _ _ ?_ ?_
    | with_reducible refine State.drainAdvance_kept ?_ | with_reducible refine State.settle_kept ?_
    | with_reducible refine State.sxsPulse_kept ?_ _ _ _ _ _

theorem State.setWin_kept {M : Nat} {Q : List Instr} {s0 s : State} (hQ : Kept M Q s0 s) (n : Nat) (w : PulseWin)
    (hm : sub 0x4000000 M = true := by exact sub_le (by assumption) (by decide)) : Kept M Q s0 (State.setWin s n w) := by
  unfold State.setWin
  try dsimp only
  repeat' first
    | with_reducible assumption | with_reducible refine @kept_ite _ _ _ _ _ _ _ ?_ ?_
    | with_reducible refine State.setStn_kept ?_ _ _

theorem execEosWindowOpen_kept {s : State} (hI : State.Inv s) (n : StnId) : ∃ u, (execEosWindowOpen n s) = .next u ∧ Kept
    0x4000000 s.pending s u := by
  have hQ := kept_start hI 0x4000000
  have hm := sub_refl 0x4000000
  unfold execEosWindowOpen
  refine ⟨_, rfl, ?_⟩
  try dsimp only
  repeat' first
    | with_reducible assumption | with_reducible refine @kept_ite _ _ _ _ _ _ _ ?_ ?_
    | with_reducible refine State.setWin_kept ?_ _ _

theorem execEosWindowEnd_kept {s : State} (hI : State.Inv s) (n : StnId) : ∃ u, (execEosWindowEnd n s) = .next u ∧ Kept
    0x2005000040 s.pending s u := by
  have hQ := kept_start hI 0x2005000040
  have hm := sub_refl 0x2005000040
  unfold execEosWindowEnd
  refine ⟨_, rfl, ?_⟩
  try dsimp only
  repeat' first
    | with_reducible assumption | with_reducible refine @kept_ite _ _ _ _ _ _ _ ?_ ?_
    | with_reducible refine State.setWin_kept ?_ _ _ | with_reducible refine State.stnLEvent_kept ?_ _ _ ?_ | exact all_nil_ok
    | refine all_cons_ok ?_ ?_ | exact ok_le hm (by decide) | exact ok_add hm (by decide) | exact ok_add2 hm (by decide)
    | exact ok_at hm (by decide) | simp only [kept_mk] | with_reducible refine Kept.parts ?_
    | with_reducible refine Kept.partsDev ?_ (Kept.devWf (m := 0x2005000040)  ?_ rfl rfl rfl rfl) | dsimp only | split
    | intro _

theorem execArmingWindowOpen_kept {s : State} (hI : State.Inv s) (n : StnId) : ∃ u, (execArmingWindowOpen n s) = .next u ∧
    Kept 0x4000000 s.pending s u := by
  have hQ := kept_start hI 0x4000000
  have hm := sub_refl 0x4000000
  unfold execArmingWindowOpen
  refine ⟨_, rfl, ?_⟩
  try dsimp only
  repeat' first
    | with_reducible assumption | with_reducible refine @kept_ite _ _ _ _ _ _ _ ?_ ?_
    | with_reducible refine State.setWin_kept ?_ _ _

theorem execStall_kept {s : State} (hI : State.Inv s) (n : StnId) : ∃ u, (execStall n s) = .next u ∧ Kept 0x7845120060
    s.pending s u := by
  have hQ := kept_start hI 0x7845120060
  have hm := sub_refl 0x7845120060
  unfold execStall
  refine ⟨_, rfl, ?_⟩
  try dsimp only
  repeat' first
    | with_reducible assumption | with_reducible refine @kept_ite _ _ _ _ _ _ _ ?_ ?_
    | with_reducible refine State.stallNow_kept ?_ _

theorem execFacetEnd_kept {s : State} (hI : State.Inv s) (n : StnId) : ∃ u, (execFacetEnd n s) = .next u ∧ Kept 0x3a6793007e
    s.pending s u := by
  have hQ := kept_start hI 0x3a6793007e
  have hm := sub_refl 0x3a6793007e
  unfold execFacetEnd
  refine ⟨_, rfl, ?_⟩
  try dsimp only
  repeat' first
    | with_reducible assumption | with_reducible refine @kept_ite _ _ _ _ _ _ _ ?_ ?_
    | with_reducible refine State.facetEnd_kept ?_ _ | with_reducible refine State.drainAdvance_kept ?_
    | with_reducible refine State.settle_kept ?_

theorem execLineFetch_kept {s : State} (hI : State.Inv s) (n : StnId) (ups : List Upset) : ∃ u, (execLineFetch n ups s) =
    .next u ∧ Kept 0x3845120060 s.pending s u := by
  have hQ := kept_start hI 0x3845120060
  have hm := sub_refl 0x3845120060
  unfold execLineFetch
  refine ⟨_, rfl, ?_⟩
  try dsimp only
  repeat' first
    | with_reducible assumption | with_reducible refine @kept_ite _ _ _ _ _ _ _ ?_ ?_
    | with_reducible refine State.lineFetch_kept ?_ _ _

theorem execCutoffBlank_kept {s : State} (hI : State.Inv s) (n : StnId) (first : Nat) : ∃ u, (execCutoffBlank n s first) =
    .next u ∧ Kept 0x4004000000 s.pending s u := by
  have hQ := kept_start hI 0x4004000000
  have hm := sub_refl 0x4004000000
  unfold execCutoffBlank
  refine ⟨_, rfl, ?_⟩
  try dsimp only
  repeat' first
    | with_reducible assumption | with_reducible refine @kept_ite _ _ _ _ _ _ _ ?_ ?_
    | with_reducible refine State.blankFrom_kept ?_ _ _ | with_reducible refine State.setStn_kept ?_ _ _
    | simp only [kept_mk] | with_reducible refine Kept.parts ?_
    | with_reducible refine Kept.partsDev ?_ (Kept.devWf (m := 0x4004000000) (q := s.pending) (s0 := s) ?_ rfl rfl rfl rfl)
    | dsimp only | split

theorem State.revertOne_kept {M : Nat} {Q : List Instr} {s0 s : State} (hQ : Kept M Q s0 s) (n : Nat) (t : Nat)
    (hm : sub 0x4000000 M = true := by exact sub_le (by assumption) (by decide)) : Kept M Q s0 (State.revertOne s n t) := by
  unfold State.revertOne
  try dsimp only
  repeat' first
    | with_reducible assumption | with_reducible refine @kept_ite _ _ _ _ _ _ _ ?_ ?_
    | with_reducible refine State.setStn_kept ?_ _ _

theorem State.revertReq_kept {M : Nat} {Q : List Instr} {s0 s : State} (hQ : Kept M Q s0 s) (x : Sender) (n : Nat) (mask :
    Nat) (hm : sub 0x4000000 M = true := by exact sub_le (by assumption) (by decide)) : Kept M Q s0 (State.revertReq s x n
    mask) := by
  unfold State.revertReq
  try dsimp only
  repeat' first
    | with_reducible assumption | with_reducible refine @kept_ite _ _ _ _ _ _ _ ?_ ?_
    | with_reducible refine State.revertOne_kept ?_ _ _ | with_reducible refine kept_foldl (fun t x ht => ?_) _ _ ?_

theorem execRevert_kept {s : State} (hI : State.Inv s) (from_ : Sender) (n : StnId) (mask : BitVec 5) : ∃ u, (execRevert from_
    n mask s) = .next u ∧ Kept 0x4000000 s.pending s u := by
  have hQ := kept_start hI 0x4000000
  have hm := sub_refl 0x4000000
  unfold execRevert
  refine ⟨_, rfl, ?_⟩
  try dsimp only
  repeat' first
    | with_reducible assumption | with_reducible refine @kept_ite _ _ _ _ _ _ _ ?_ ?_
    | with_reducible refine State.revertReq_kept ?_ _ _ _

theorem execCopyingDone_kept {s : State} (hI : State.Inv s) (n : StnId) (table : Fin 5) : ∃ u, (execCopyingDone n table s) =
    .next u ∧ Kept 0x3a6792007e s.pending s u := by
  have hQ := kept_start hI 0x3a6792007e
  have hm := sub_refl 0x3a6792007e
  unfold execCopyingDone
  refine ⟨_, rfl, ?_⟩
  try dsimp only
  repeat' first
    | with_reducible assumption | with_reducible refine @kept_ite _ _ _ _ _ _ _ ?_ ?_
    | with_reducible refine State.copyDone_kept ?_ _ _ | with_reducible refine State.settle_kept ?_

theorem State.magWrite_kept {M : Nat} {Q : List Instr} {s0 s : State} (hQ : Kept M Q s0 s) (n : Nat) (v : Word)
    (hm : sub 0x4000040 M = true := by exact sub_le (by assumption) (by decide)) : Kept M Q s0 (State.magWrite s n v) := by
  unfold State.magWrite
  try dsimp only
  repeat' first
    | with_reducible assumption | with_reducible refine @kept_ite _ _ _ _ _ _ _ ?_ ?_
    | with_reducible refine State.fnAdjust_kept ?_ _ _ | with_reducible refine Kept.put ?_ _ _ ?_ | exact all_nil_ok
    | refine all_cons_ok ?_ ?_ | exact ok_le hm (by decide) | exact ok_add hm (by decide)

theorem execFnAdj_kept {s : State} (hI : State.Inv s) (from_ : Sender) (n : StnId) (value : Word) : ∃ u, (execFnAdj from_ n
    value s) = .next u ∧ Kept 0x4000040 s.pending s u := by
  have hQ := kept_start hI 0x4000040
  have hm := sub_refl 0x4000040
  unfold execFnAdj
  refine ⟨_, rfl, ?_⟩
  try dsimp only
  repeat' first
    | with_reducible assumption | with_reducible refine @kept_ite _ _ _ _ _ _ _ ?_ ?_
    | with_reducible refine State.magWrite_kept ?_ _ _

end Sys2Proof.Machine
end

