-- ==== Sys2Proof/Laws/KeptLink.lean ====
section
/-! SUPPORT. What the definitions of Machine/Link.lean keep: one lemma `<name>_kept` for each (Laws/Kept.lean). -/

-- Proof bodies are elaborated in order: elaborated in parallel they wait on one another, each in a thread of its own.
set_option Elab.async false

namespace Sys2Proof.Machine
open Sys2Proof

theorem execAmBoundary_kept {s : State} (hI : State.Inv s) (n : StnId) : ∃ u, (execAmBoundary n s) = .next u ∧ Kept
    0x7845120060 s.pending s u := by
  have hQ := kept_start hI 0x7845120060
  have hm := sub_refl 0x7845120060
  unfold execAmBoundary
  refine ⟨_, rfl, ?_⟩
  try dsimp only
  repeat' first
    | with_reducible assumption | with_reducible refine @kept_ite _ _ _ _ _ _ _ ?_ ?_
    | with_reducible refine State.amBoundary_kept ?_ _

theorem State.onReport_kept {M : Nat} {Q : List Instr} {s0 s : State} (hQ : Kept M Q s0 s) (n typ arg cnt : Nat) (twice :
    Bool) {act : State → State} (ha : ∀ t, Kept M Q s0 t → Kept M Q s0 (act t))
    (hm : sub 0x4000040 M = true := by exact sub_le (by assumption) (by decide)) : Kept M Q s0 (State.onReport s n typ arg cnt
    twice act) := by
  unfold State.onReport
  split
  · split
    · next t ht => exact ha t (State.report_kept hQ _ _ _ _ _ ht)
    · exact State.dropCopy_kept hQ n
  · exact hQ

theorem execTemp_kept {s : State} (hI : State.Inv s) (n : StnId) (cnt : BitVec 2) (level : BitVec 2) : ∃ u, (execTemp n cnt
    level s) = .next u ∧ Kept 0x3845120060 s.pending s u := by
  have hQ := kept_start hI 0x3845120060
  have hm := sub_refl 0x3845120060
  unfold execTemp
  refine ⟨_, rfl, ?_⟩
  try dsimp only
  repeat' first
    | with_reducible assumption | with_reducible refine @kept_ite _ _ _ _ _ _ _ ?_ ?_
    | with_reducible refine State.tempReport_kept ?_ _ _
    | with_reducible refine State.onReport_kept ?_ _ _ _ _ _ (fun t ht => ?_)

theorem execDead_kept {s : State} (hI : State.Inv s) (n : StnId) (cnt : BitVec 2) (emitter : BitVec 7) : ∃ u, (execDead n cnt
    emitter s) = .next u ∧ Kept 0x2005000040 s.pending s u := by
  have hQ := kept_start hI 0x2005000040
  have hm := sub_refl 0x2005000040
  unfold execDead
  refine ⟨_, rfl, ?_⟩
  try dsimp only
  repeat' first
    | with_reducible assumption | with_reducible refine @kept_ite _ _ _ _ _ _ _ ?_ ?_
    | with_reducible refine State.sbError_kept ?_ _ | with_reducible refine State.markDead_kept ?_ _ _
    | with_reducible refine State.onReport_kept ?_ _ _ _ _ _ (fun t ht => ?_)

theorem execLane_kept {s : State} (hI : State.Inv s) (n : StnId) (cnt : BitVec 2) (lane : BitVec 3) (amc : BitVec 5) : ∃ u,
    (execLane n cnt lane amc s) = .next u ∧ Kept 0x3845120060 s.pending s u := by
  have hQ := kept_start hI 0x3845120060
  have hm := sub_refl 0x3845120060
  unfold execLane
  refine ⟨_, rfl, ?_⟩
  try dsimp only
  repeat' first
    | with_reducible assumption | with_reducible refine @kept_ite _ _ _ _ _ _ _ ?_ ?_
    | with_reducible refine State.laneReport_kept ?_ _ _ _
    | with_reducible refine State.onReport_kept ?_ _ _ _ _ _ (fun t ht => ?_)

theorem State.lateReport_kept {M : Nat} {Q : List Instr} {s0 s : State} (hQ : Kept M Q s0 s) (n : Nat) (fseq : Nat)
    (hm : sub 0x3841120060 M = true := by exact sub_le (by assumption) (by decide)) : Kept M Q s0 (State.lateReport s n fseq) := by
  unfold State.lateReport
  try dsimp only
  repeat' first
    | with_reducible assumption | with_reducible refine @kept_ite _ _ _ _ _ _ _ ?_ ?_
    | with_reducible refine State.bumpLates_kept ?_ _ | with_reducible refine State.stnLEvent_kept ?_ _ _ ?_
    | with_reducible refine State.lateFacets_kept ?_ _ _ | exact all_nil_ok | refine all_cons_ok ?_ ?_
    | exact ok_le hm (by decide) | exact ok_add hm (by decide) | exact ok_add2 hm (by decide) | exact ok_at hm (by decide)
    | simp only [kept_mk] | with_reducible refine Kept.parts ?_
    | with_reducible refine Kept.partsDev ?_ (Kept.devWf (m := M) (q := Q) (s0 := s0) ?_ rfl rfl rfl rfl) | dsimp only | split
    | intro _

theorem execLate_kept {s : State} (hI : State.Inv s) (n : StnId) (cnt : BitVec 2) (fseq : Byte) : ∃ u, (execLate n cnt fseq s)
    = .next u ∧ Kept 0x3845120060 s.pending s u := by
  have hQ := kept_start hI 0x3845120060
  have hm := sub_refl 0x3845120060
  unfold execLate
  refine ⟨_, rfl, ?_⟩
  try dsimp only
  repeat' first
    | with_reducible assumption | with_reducible refine @kept_ite _ _ _ _ _ _ _ ?_ ?_
    | with_reducible refine State.lateReport_kept ?_ _ _
    | with_reducible refine State.onReport_kept ?_ _ _ _ _ _ (fun t ht => ?_)

theorem execFault_kept {s : State} (hI : State.Inv s) (n : StnId) (cnt : BitVec 2) (code : Byte) : ∃ u, (execFault n cnt code
    s) = .next u ∧ Kept 0x2005000040 s.pending s u := by
  have hQ := kept_start hI 0x2005000040
  have hm := sub_refl 0x2005000040
  unfold execFault
  refine ⟨_, rfl, ?_⟩
  try dsimp only
  repeat' first
    | with_reducible assumption | with_reducible refine @kept_ite _ _ _ _ _ _ _ ?_ ?_
    | with_reducible refine State.stnLEvent_kept ?_ _ _ ?_
    | with_reducible refine State.onReport_kept ?_ _ _ _ _ _ (fun t ht => ?_) | exact all_nil_ok | refine all_cons_ok ?_ ?_
    | exact ok_le hm (by decide) | exact ok_add hm (by decide) | exact ok_add2 hm (by decide) | exact ok_at hm (by decide)
    | simp only [kept_mk] | with_reducible refine Kept.parts ?_
    | with_reducible refine Kept.partsDev ?_ (Kept.devWf (m := 0x2005000040)  ?_ rfl rfl rfl rfl) | dsimp only | split
    | intro _

theorem execSbErr_kept {s : State} (hI : State.Inv s) (n : StnId) : ∃ u, (execSbErr n s) = .next u ∧ Kept 0x2005000040
    s.pending s u := by
  have hQ := kept_start hI 0x2005000040
  have hm := sub_refl 0x2005000040
  unfold execSbErr
  refine ⟨_, rfl, ?_⟩
  try dsimp only
  repeat' first
    | with_reducible assumption | with_reducible refine @kept_ite _ _ _ _ _ _ _ ?_ ?_
    | with_reducible refine State.sbError_kept ?_ _

theorem execSbLost_kept {s : State} (hI : State.Inv s) (n : StnId) : ∃ u, (execSbLost n s) = .next u ∧ Kept 0x3845120060
    s.pending s u := by
  have hQ := kept_start hI 0x3845120060
  have hm := sub_refl 0x3845120060
  unfold execSbLost
  refine ⟨_, rfl, ?_⟩
  try dsimp only
  repeat' first
    | with_reducible assumption | with_reducible refine @kept_ite _ _ _ _ _ _ _ ?_ ?_
    | with_reducible refine State.sidebandLost_kept ?_ _

theorem State.sbCmdWrite_kept {M : Nat} {Q : List Instr} {s0 s : State} (hQ : Kept M Q s0 s) (n : StnId) (v : Word)
    (hm : sub 0x2004000040 M = true := by exact sub_le (by assumption) (by decide)) : Kept M Q s0 (State.sbCmdWrite s n v) := by
  unfold State.sbCmdWrite
  try dsimp only
  repeat' first
    | with_reducible assumption | with_reducible refine @kept_ite _ _ _ _ _ _ _ ?_ ?_
    | with_reducible refine State.setupGo_kept ?_ _ | with_reducible refine Kept.put ?_ _ _ ?_ | exact all_nil_ok
    | refine all_cons_ok ?_ ?_ | exact ok_le hm (by decide) | exact ok_add hm (by decide)

theorem execGo_kept {s : State} (hI : State.Inv s) (from_ : Sender) (n : StnId) (value : Word) : ∃ u, (execGo from_ n value s)
    = .next u ∧ Kept 0x2004000040 s.pending s u := by
  have hQ := kept_start hI 0x2004000040
  have hm := sub_refl 0x2004000040
  unfold execGo
  refine ⟨_, rfl, ?_⟩
  try dsimp only
  repeat' first
    | with_reducible assumption | with_reducible refine @kept_ite _ _ _ _ _ _ _ ?_ ?_
    | with_reducible refine State.sbCmdWrite_kept ?_ _ _

theorem execSetupFrameDone_kept {s : State} (hI : State.Inv s) (n : StnId) (ack : Bool) (parityOk : Bool) (data : BitVec 16) :
    ∃ u, (execSetupFrameDone n ack parityOk data s) = .next u ∧ Kept 0x2005000040 s.pending s u := by
  have hQ := kept_start hI 0x2005000040
  have hm := sub_refl 0x2005000040
  unfold execSetupFrameDone
  refine ⟨_, rfl, ?_⟩
  try dsimp only
  repeat' first
    | with_reducible assumption | with_reducible refine @kept_ite _ _ _ _ _ _ _ ?_ ?_
    | with_reducible refine State.setupFrameDone_kept ?_ _ _ _ _

theorem State.trainReq_kept {M : Nat} {Q : List Instr} {s0 s : State} (hQ : Kept M Q s0 s) (n : Nat)
    (hm : sub 0x2004000040 M = true := by exact sub_le (by assumption) (by decide)) : Kept M Q s0 (State.trainReq s n) := by
  unfold State.trainReq
  try dsimp only
  repeat' first
    | with_reducible assumption | with_reducible refine @kept_ite _ _ _ _ _ _ _ ?_ ?_
    | with_reducible refine State.trainStart_kept ?_ _

theorem execTrain_kept {s : State} (hI : State.Inv s) (from_ : Sender) (n : StnId) : ∃ u, (execTrain from_ n s) = .next u ∧
    Kept 0x2004000040 s.pending s u := by
  have hQ := kept_start hI 0x2004000040
  have hm := sub_refl 0x2004000040
  unfold execTrain
  refine ⟨_, rfl, ?_⟩
  try dsimp only
  repeat' first
    | with_reducible assumption | with_reducible refine @kept_ite _ _ _ _ _ _ _ ?_ ?_
    | with_reducible refine State.trainReq_kept ?_ _

theorem execTrainingStepDone_kept {s : State} (hI : State.Inv s) (n : StnId) (reply : List (BitVec 16)) : ∃ u,
    (execTrainingStepDone n reply s) = .next u ∧ Kept 0x2005000040 s.pending s u := by
  have hQ := kept_start hI 0x2005000040
  have hm := sub_refl 0x2005000040
  unfold execTrainingStepDone
  refine ⟨_, rfl, ?_⟩
  try dsimp only
  repeat' first
    | with_reducible assumption | with_reducible refine @kept_ite _ _ _ _ _ _ _ ?_ ?_
    | with_reducible refine State.trainStepDone_kept ?_ _ _

theorem execEncoderCount_kept {s : State} (hI : State.Inv s) (enc : Fin 2) (ba : BitVec 2) (close : Bool) : ∃ u,
    (execEncoderCount enc ba close s) = .next u ∧ Kept 0x384d120060 s.pending s u := by
  have hQ := kept_start hI 0x384d120060
  have hm := sub_refl 0x384d120060
  unfold execEncoderCount
  refine ⟨_, rfl, ?_⟩
  try dsimp only
  repeat' first
    | with_reducible assumption | with_reducible refine @kept_ite _ _ _ _ _ _ _ ?_ ?_
    | with_reducible refine State.encChange_kept ?_ _ _ _

theorem execEncoderLos_kept {s : State} (hI : State.Inv s) (enc : Fin 2) : ∃ u, (execEncoderLos enc s) = .next u ∧ Kept
    0x2009000040 s.pending s u := by
  have hQ := kept_start hI 0x2009000040
  have hm := sub_refl 0x2009000040
  unfold execEncoderLos
  refine ⟨_, rfl, ?_⟩
  try dsimp only
  repeat' first
    | with_reducible assumption | with_reducible refine @kept_ite _ _ _ _ _ _ _ ?_ ?_
    | with_reducible refine State.encLost_kept ?_ _

theorem execLosClear_kept {s : State} (hI : State.Inv s) (enc : Fin 2) : ∃ u, (execLosClear enc s) = .next u ∧ Kept 0x8000000
    s.pending s u := by
  have hQ := kept_start hI 0x8000000
  have hm := sub_refl 0x8000000
  unfold execLosClear
  refine ⟨_, rfl, ?_⟩
  try dsimp only
  repeat' first
    | with_reducible assumption | with_reducible refine @kept_ite _ _ _ _ _ _ _ ?_ ?_
    | with_reducible refine State.setEnc_kept ?_ _ _

theorem execEncCountLatch_kept {s : State} (hI : State.Inv s) (from_ : Sender) (n : StnId) : ∃ u, (execEncCountLatch from_ n
    s) = .next u ∧ Kept 0x2000000040 s.pending s u := by
  have hQ := kept_start hI 0x2000000040
  have hm := sub_refl 0x2000000040
  unfold execEncCountLatch
  refine ⟨_, rfl, ?_⟩
  try dsimp only
  repeat' first
    | with_reducible assumption | with_reducible refine @kept_ite _ _ _ _ _ _ _ ?_ ?_
    | with_reducible refine State.answer_kept ?_ _ _ _ | with_reducible refine State.encLatch_kept ?_ _

end Sys2Proof.Machine
end

