-- ==== Sys2Proof/Laws/KeptLedgerPulse.lean ====
section
/-! SUPPORT. What the definitions of Machine/LedgerPulse.lean keep: one lemma `<name>_kept` for each (Laws/Kept.lean). -/

-- Proof bodies are elaborated in order: elaborated in parallel they wait on one another, each in a thread of its own.
set_option Elab.async false

namespace Sys2Proof.Machine
open Sys2Proof

theorem execStagePulse_kept {s : State} (hI : State.Inv s) (pin : Fin 3) : ∃ u, (execStagePulse pin s) = .next u ∧ Kept
    0x3841120060 s.pending s u := by
  have hQ := kept_start hI 0x3841120060
  have hm := sub_refl 0x3841120060
  unfold execStagePulse
  refine ⟨_, rfl, ?_⟩
  try dsimp only
  repeat' first
    | with_reducible assumption | with_reducible refine @kept_ite _ _ _ _ _ _ _ ?_ ?_
    | with_reducible refine State.ledEventNow_kept ?_ _

theorem execJamPulse_kept {s : State} (hI : State.Inv s) : ∃ u, (execJamPulse s) = .next u ∧ Kept 0x3841120060 s.pending s
    u := by
  have hQ := kept_start hI 0x3841120060
  have hm := sub_refl 0x3841120060
  unfold execJamPulse
  refine ⟨_, rfl, ?_⟩
  try dsimp only
  repeat' first
    | with_reducible assumption | with_reducible refine @kept_ite _ _ _ _ _ _ _ ?_ ?_
    | with_reducible refine State.ledEventNow_kept ?_ _ | with_reducible refine State.ledEvent_kept ?_ _ ?_
    | exact all_nil_ok | refine all_cons_ok ?_ ?_ | exact ok_le hm (by decide) | exact ok_add hm (by decide)
    | exact ok_add2 hm (by decide) | exact ok_at hm (by decide)

theorem execStageTimeout_kept {s : State} (hI : State.Inv s) (queue : Fin 3) (index : BitVec 20) : ∃ u, (execStageTimeout
    queue index s) = .next u ∧ Kept 0x3841120060 s.pending s u := by
  have hQ := kept_start hI 0x3841120060
  have hm := sub_refl 0x3841120060
  unfold execStageTimeout
  refine ⟨_, rfl, ?_⟩
  try dsimp only
  repeat' first
    | with_reducible assumption | with_reducible refine @kept_ite _ _ _ _ _ _ _ ?_ ?_
    | with_reducible refine State.ledEventNow_kept ?_ _

theorem execCounterCopyStart_kept {s : State} (hI : State.Inv s) : ∃ u, (execCounterCopyStart s) = .next u ∧ Kept 0x70000040
    s.pending s u := by
  have hQ := kept_start hI 0x70000040
  have hm := sub_refl 0x70000040
  unfold execCounterCopyStart
  refine ⟨_, rfl, ?_⟩
  try dsimp only
  repeat' first
    | with_reducible assumption | with_reducible refine @kept_ite _ _ _ _ _ _ _ ?_ ?_
    | with_reducible refine State.copyStart_kept ?_ | with_reducible refine Kept.put ?_ _ _ ?_ | exact all_nil_ok
    | refine all_cons_ok ?_ ?_ | exact ok_le hm (by decide)

theorem State.ledCntSel_kept {M : Nat} {Q : List Instr} {s0 s : State} (hQ : Kept M Q s0 s) (x : Sender) (v : Word)
    (hm : sub 0x40 M = true := by exact sub_le (by assumption) (by decide)) : Kept M Q s0 (State.ledCntSel s x v) := by
  unfold State.ledCntSel
  try dsimp only
  repeat' first
    | with_reducible assumption | with_reducible refine @kept_ite _ _ _ _ _ _ _ ?_ ?_
    | with_reducible refine Kept.put ?_ _ _ ?_ | with_reducible refine kept_foldl (fun t x ht => ?_) _ _ ?_
    | with_reducible refine kept_foldl_fst (fun t x ht => ?_) _ _ ?_ | exact all_nil_ok | refine all_cons_ok ?_ ?_
    | exact ok_le hm (by decide) | exact ok_add hm (by decide)

theorem execLedCntSel_kept {s : State} (hI : State.Inv s) (from_ : Sender) (value : Word) : ∃ u, (execLedCntSel from_ value s)
    = .next u ∧ Kept 0x40 s.pending s u := by
  have hQ := kept_start hI 0x40
  have hm := sub_refl 0x40
  unfold execLedCntSel
  refine ⟨_, rfl, ?_⟩
  try dsimp only
  repeat' first
    | with_reducible assumption | with_reducible refine @kept_ite _ _ _ _ _ _ _ ?_ ?_
    | with_reducible refine State.ledCntSel_kept ?_ _ _

end Sys2Proof.Machine
end

