-- ==== Sys2Proof/Laws/KeptKeep.lean ====
section
/-! SUPPORT. What the definitions of Machine/Keep.lean keep: one lemma `<name>_kept` for each (Laws/Kept.lean). -/

-- Proof bodies are elaborated in order: elaborated in parallel they wait on one another, each in a thread of its own.
set_option Elab.async false

namespace Sys2Proof.Machine
open Sys2Proof

theorem State.flushNext_kept {M : Nat} {Q : List Instr} {s0 s : State} (hQ : Kept M Q s0 s)
    (hm : sub 0x30010040 M = true := by exact sub_le (by assumption) (by decide)) : Kept M Q s0 (State.flushNext s) := by
  unfold State.flushNext
  try dsimp only
  repeat' first
    | with_reducible assumption | with_reducible refine @kept_ite _ _ _ _ _ _ _ ?_ ?_
    | with_reducible refine State.flushEnd_kept ?_ | with_reducible refine State.pageStart_kept ?_ _ _ _ | simp only [kept_mk]
    | with_reducible refine Kept.parts ?_
    | with_reducible refine Kept.partsDev ?_ (Kept.devWf (m := M) (q := Q) (s0 := s0) ?_ rfl rfl rfl rfl) | dsimp only | split

theorem State.submitStart_kept {M : Nat} {Q : List Instr} {s0 s : State} (hQ : Kept M Q s0 s) (p : Nat)
    (hm : sub 0x30000008 M = true := by exact sub_le (by assumption) (by decide)) : Kept M Q s0 (State.submitStart s p) :=
    by
  unfold State.submitStart
  try dsimp only
  repeat' first
    | with_reducible assumption | with_reducible refine @kept_ite _ _ _ _ _ _ _ ?_ ?_
    | with_reducible refine State.clearBuffer_kept ?_ | with_reducible refine State.pageStart_kept ?_ _ _ _
    | with_reducible refine State.writeHot_kept ?_ _ _ | with_reducible refine State.keepEvent_kept ?_ _ ?_
    | exact all_nil_ok | refine all_cons_ok ?_ ?_ | exact ok_le hm (by decide) | exact ok_add hm (by decide)
    | exact ok_add2 hm (by decide) | exact ok_at hm (by decide)

theorem State.pageNext_kept {M : Nat} {Q : List Instr} {s0 s : State} (hQ : Kept M Q s0 s)
    (hm : sub 0x72010048 M = true := by exact sub_le (by assumption) (by decide)) : Kept M Q s0 (State.pageNext s) := by
  unfold State.pageNext
  try dsimp only
  repeat' first
    | with_reducible assumption | with_reducible refine @kept_ite _ _ _ _ _ _ _ ?_ ?_
    | with_reducible refine State.keepBegin_kept ?_ _ _ | with_reducible refine State.submitStart_kept ?_ _
    | with_reducible refine State.flushNext_kept ?_ | with_reducible refine State.copyStart_kept ?_
    | with_reducible refine State.spillStart_kept ?_ | simp only [kept_mk] | with_reducible refine Kept.parts ?_
    | with_reducible refine Kept.partsDev ?_ (Kept.devWf (m := M) (q := Q) (s0 := s0) ?_ rfl rfl rfl rfl) | dsimp only | split

theorem execPageWriteStart_kept {s : State} (hI : State.Inv s) : ∃ u, (execPageWriteStart s) = .next u ∧ Kept 0x72010048
    s.pending s u := by
  have hQ := kept_start hI 0x72010048
  have hm := sub_refl 0x72010048
  unfold execPageWriteStart
  refine ⟨_, rfl, ?_⟩
  try dsimp only
  repeat' first
    | with_reducible assumption | with_reducible refine @kept_ite _ _ _ _ _ _ _ ?_ ?_
    | with_reducible refine State.pageNext_kept ?_

theorem execPageWritePhase_kept {s : State} (hI : State.Inv s) : ∃ u, (execPageWritePhase s) = .next u ∧ Kept 0x30000000
    s.pending s u := by
  have hQ := kept_start hI 0x30000000
  have hm := sub_refl 0x30000000
  unfold execPageWritePhase
  refine ⟨_, rfl, ?_⟩
  try dsimp only
  repeat' first
    | with_reducible assumption | with_reducible refine @kept_ite _ _ _ _ _ _ _ ?_ ?_
    | with_reducible refine State.pagePhase_kept ?_ _ | simp only [kept_mk] | with_reducible refine Kept.parts ?_
    | with_reducible refine Kept.partsDev ?_ (Kept.devWf (m := 0x30000000)  ?_ rfl rfl rfl rfl) | dsimp only | split

theorem State.verifyFail_kept {M : Nat} {Q : List Instr} {s0 s : State} (hQ : Kept M Q s0 s) (a : Nat)
    (hm : sub 0x5030100048 M = true := by exact sub_le (by assumption) (by decide)) : Kept M Q s0 (State.verifyFail s a)
    := by
  unfold State.verifyFail
  try dsimp only
  repeat' first
    | with_reducible assumption | with_reducible refine @kept_ite _ _ _ _ _ _ _ ?_ ?_
    | with_reducible refine State.setKeep_kept ?_ _ | with_reducible refine State.log_kept ?_ _ _ _ _ _
    | with_reducible refine State.drawWord_kept ?_ | with_reducible refine State.keepEvent_kept ?_ _ ?_
    | with_reducible refine Kept.put ?_ _ _ ?_ | exact all_nil_ok | refine all_cons_ok ?_ ?_ | exact ok_le hm (by decide)
    | exact ok_add hm (by decide) | exact ok_add2 hm (by decide) | exact ok_at hm (by decide) | dsimp only | split

theorem State.keepComplete_kept {M : Nat} {Q : List Instr} {s0 s : State} (hQ : Kept M Q s0 s)
    (hm : sub 0x2000000 M = true := by exact sub_le (by assumption) (by decide)) : Kept M Q s0 (State.keepComplete s) := by
  unfold State.keepComplete
  try dsimp only
  repeat' first
    | with_reducible assumption | with_reducible refine @kept_ite _ _ _ _ _ _ _ ?_ ?_
    | with_reducible refine State.fixFlight_kept ?_ _ _ | simp only [kept_mk] | with_reducible refine Kept.parts ?_
    | with_reducible refine Kept.partsDev ?_ (Kept.devWf (m := M) (q := Q) (s0 := s0) ?_ rfl rfl rfl rfl) | dsimp only | split

theorem State.copyEnd_kept {M : Nat} {Q : List Instr} {s0 s : State} (hQ : Kept M Q s0 s) (failed : Bool)
    (hm : sub 0x2001010040 M = true := by exact sub_le (by assumption) (by decide)) : Kept M Q s0 (State.copyEnd s failed) := by
  unfold State.copyEnd
  try dsimp only
  repeat' first
    | with_reducible assumption | with_reducible refine @kept_ite _ _ _ _ _ _ _ ?_ ?_
    | with_reducible refine State.ledEvent_kept ?_ _ ?_ | with_reducible refine Kept.put ?_ _ _ ?_ | exact all_nil_ok
    | refine all_cons_ok ?_ ?_ | exact ok_le hm (by decide) | exact ok_add hm (by decide) | exact ok_add2 hm (by decide)
    | exact ok_at hm (by decide) | simp only [kept_mk] | with_reducible refine Kept.parts ?_

theorem State.tellWriter_kept {M : Nat} {Q : List Instr} {s0 s : State} (hQ : Kept M Q s0 s) (r : PageWrite) (failed : Bool)
    (hm : sub 0x202301004a M = true := by exact sub_le (by assumption) (by decide)) : Kept M Q s0 (State.tellWriter s r
    failed) := by
  unfold State.tellWriter
  try dsimp only
  repeat' first
    | with_reducible assumption | with_reducible refine @kept_ite _ _ _ _ _ _ _ ?_ ?_
    | with_reducible refine State.flushEnd_kept ?_ | with_reducible refine State.supEvent_kept ?_ _ ?_
    | with_reducible refine State.copyEnd_kept ?_ _ | with_reducible refine State.keepComplete_kept ?_
    | with_reducible refine State.keepEvent_kept ?_ _ ?_ | with_reducible refine Kept.put ?_ _ _ ?_ | exact all_nil_ok
    | refine all_cons_ok ?_ ?_ | exact ok_le hm (by decide) | exact ok_add hm (by decide) | exact ok_add2 hm (by decide)
    | exact ok_at hm (by decide) | simp only [kept_mk] | with_reducible refine Kept.parts ?_
    | with_reducible refine Kept.partsDev ?_ (Kept.devWf (m := M) (q := Q) (s0 := s0) ?_ rfl rfl rfl rfl) | dsimp only | split

theorem State.pageDone_kept {M : Nat} {Q : List Instr} {s0 s : State} (hQ : Kept M Q s0 s) (r : PageWrite) (bad : List
    Nat) (hm : sub 0x79fff3007f M = true := by exact sub_le (by assumption) (by decide)) : Kept M Q s0 (State.pageDone s r
    bad) := by
  unfold State.pageDone
  try dsimp only
  repeat' first
    | with_reducible assumption | with_reducible refine @kept_ite _ _ _ _ _ _ _ ?_ ?_
    | with_reducible refine State.tellWriter_kept ?_ _ _ | with_reducible refine State.verifyFail_kept ?_ _
    | with_reducible refine State.scriptResume_kept ?_ | with_reducible refine State.pagePhase_kept ?_ _
    | with_reducible refine kept_foldl (fun t x ht => ?_) _ _ ?_
    | with_reducible refine kept_foldl_fst (fun t x ht => ?_) _ _ ?_ | simp only [kept_mk]
    | with_reducible refine Kept.parts ?_
    | with_reducible refine Kept.partsDev ?_ (Kept.devWf (m := M) (q := Q) (s0 := s0) ?_ rfl rfl rfl rfl) | dsimp only
    | split

theorem execPageWriteDone_kept {s : State} (hI : State.Inv s) (bad : List (BitVec 15)) : ∃ u, (execPageWriteDone bad s) =
    .next u ∧ Kept 0x7bfff3007f s.pending s u := by
  have hQ := kept_start hI 0x7bfff3007f
  have hm := sub_refl 0x7bfff3007f
  unfold execPageWriteDone
  refine ⟨_, rfl, ?_⟩
  try dsimp only
  repeat' first
    | with_reducible assumption | with_reducible refine @kept_ite _ _ _ _ _ _ _ ?_ ?_
    | with_reducible refine State.pageDone_kept ?_ _ _ | with_reducible refine State.settle_kept ?_ | simp only [kept_mk]
    | with_reducible refine Kept.parts ?_
    | with_reducible refine Kept.partsDev ?_ (Kept.devWf (m := 0x7bfff3007f) (q := s.pending) (s0 := s) ?_ rfl rfl rfl rfl)
    | dsimp only | split

theorem execKeepRdata_kept {s : State} (hI : State.Inv s) (from_ : Sender) : ∃ u, (execKeepRdata from_ s) = .next u ∧ Kept
    0x2000000008 s.pending s u := by
  have hQ := kept_start hI 0x2000000008
  have hm := sub_refl 0x2000000008
  unfold execKeepRdata
  refine ⟨_, rfl, ?_⟩
  try dsimp only
  repeat' first
    | with_reducible assumption | with_reducible refine @kept_ite _ _ _ _ _ _ _ ?_ ?_
    | with_reducible refine State.answer_kept ?_ _ _ _ | with_reducible refine State.readData_kept ?_

theorem execKeepWdata_kept {s : State} (hI : State.Inv s) (from_ : Sender) (value : Word) : ∃ u, (execKeepWdata from_ value s)
    = .next u ∧ Kept 0x20000008 s.pending s u := by
  have hQ := kept_start hI 0x20000008
  have hm := sub_refl 0x20000008
  unfold execKeepWdata
  refine ⟨_, rfl, ?_⟩
  try dsimp only
  repeat' first
    | with_reducible assumption | with_reducible refine @kept_ite _ _ _ _ _ _ _ ?_ ?_
    | with_reducible refine State.loadBuffer_kept ?_ _

theorem State.flushReq_kept {M : Nat} {Q : List Instr} {s0 s : State} (hQ : Kept M Q s0 s)
    (hm : sub 0x20010040 M = true := by exact sub_le (by assumption) (by decide)) : Kept M Q s0 (State.flushReq s) := by
  unfold State.flushReq
  try dsimp only
  repeat' first
    | with_reducible assumption | with_reducible refine @kept_ite _ _ _ _ _ _ _ ?_ ?_
    | with_reducible refine State.flushStart_kept ?_ _

theorem State.keepCmd_kept {M : Nat} {Q : List Instr} {s0 s : State} (hQ : Kept M Q s0 s) (write : Bool) (clear : Bool) (flush
    : Bool) (hm : sub 0x20010048 M = true := by exact sub_le (by assumption) (by decide)) : Kept M Q s0 (State.keepCmd s write
    clear flush) := by
  unfold State.keepCmd
  try dsimp only
  repeat' first
    | with_reducible assumption | with_reducible refine @kept_ite _ _ _ _ _ _ _ ?_ ?_
    | with_reducible refine State.submitBuffer_kept ?_ | with_reducible refine State.clearBuffer_kept ?_
    | with_reducible refine State.flushReq_kept ?_

theorem execKeepCmdWrite_kept {s : State} (hI : State.Inv s) (from_ : Sender) : ∃ u, (execKeepCmdWrite from_ s) = .next u ∧
    Kept 0x20010048 s.pending s u := by
  have hQ := kept_start hI 0x20010048
  have hm := sub_refl 0x20010048
  unfold execKeepCmdWrite
  refine ⟨_, rfl, ?_⟩
  try dsimp only
  repeat' first
    | with_reducible assumption | with_reducible refine @kept_ite _ _ _ _ _ _ _ ?_ ?_
    | with_reducible refine State.keepCmd_kept ?_ _ _ _

theorem execClear_kept {s : State} (hI : State.Inv s) (from_ : Sender) : ∃ u, (execClear from_ s) = .next u ∧ Kept 0x20010048
    s.pending s u := by
  have hQ := kept_start hI 0x20010048
  have hm := sub_refl 0x20010048
  unfold execClear
  refine ⟨_, rfl, ?_⟩
  try dsimp only
  repeat' first
    | with_reducible assumption | with_reducible refine @kept_ite _ _ _ _ _ _ _ ?_ ?_
    | with_reducible refine State.keepCmd_kept ?_ _ _ _

theorem execFlush_kept {s : State} (hI : State.Inv s) (from_ : Sender) : ∃ u, (execFlush from_ s) = .next u ∧ Kept 0x20010048
    s.pending s u := by
  have hQ := kept_start hI 0x20010048
  have hm := sub_refl 0x20010048
  unfold execFlush
  refine ⟨_, rfl, ?_⟩
  try dsimp only
  repeat' first
    | with_reducible assumption | with_reducible refine @kept_ite _ _ _ _ _ _ _ ?_ ?_
    | with_reducible refine State.keepCmd_kept ?_ _ _ _

theorem State.bpUpdate_kept {M : Nat} {Q : List Instr} {s0 s : State} (hQ : Kept M Q s0 s) (x : Sender) (bp : Nat)
    (hm : sub 0x30000008 M = true := by exact sub_le (by assumption) (by decide)) : Kept M Q s0 (State.bpUpdate s x bp) := by
  unfold State.bpUpdate
  try dsimp only
  repeat' first
    | with_reducible assumption | with_reducible refine @kept_ite _ _ _ _ _ _ _ ?_ ?_
    | with_reducible refine State.pageStart_kept ?_ _ _ _ | with_reducible refine Kept.put ?_ _ _ ?_ | exact all_nil_ok
    | refine all_cons_ok ?_ ?_ | exact ok_le hm (by decide)

theorem execBpUpdate_kept {s : State} (hI : State.Inv s) (from_ : Sender) (bp : BitVec 2) : ∃ u, (execBpUpdate from_ bp s) =
    .next u ∧ Kept 0x30000008 s.pending s u := by
  have hQ := kept_start hI 0x30000008
  have hm := sub_refl 0x30000008
  unfold execBpUpdate
  refine ⟨_, rfl, ?_⟩
  try dsimp only
  repeat' first
    | with_reducible assumption | with_reducible refine @kept_ite _ _ _ _ _ _ _ ?_ ?_
    | with_reducible refine State.bpUpdate_kept ?_ _ _

theorem execKeepHot_kept {s : State} (hI : State.Inv s) (from_ : Sender) (value : Word) : ∃ u, (execKeepHot from_ value s) =
    .next u ∧ Kept 0x3a6793007e s.pending s u := by
  have hQ := kept_start hI 0x3a6793007e
  have hm := sub_refl 0x3a6793007e
  unfold execKeepHot
  refine ⟨_, rfl, ?_⟩
  try dsimp only
  repeat' first
    | with_reducible assumption | with_reducible refine @kept_ite _ _ _ _ _ _ _ ?_ ?_
    | with_reducible refine State.hotWrite_kept ?_ _ _ | with_reducible refine State.settle_kept ?_

theorem execHotRangeSwitch_kept {s : State} (hI : State.Inv s) : ∃ u, (execHotRangeSwitch s) = .next u ∧ Kept 0x3a6792007e
    s.pending s u := by
  have hQ := kept_start hI 0x3a6792007e
  have hm := sub_refl 0x3a6792007e
  unfold execHotRangeSwitch
  refine ⟨_, rfl, ?_⟩
  try dsimp only
  repeat' first
    | with_reducible assumption | with_reducible refine @kept_ite _ _ _ _ _ _ _ ?_ ?_
    | with_reducible refine State.settle_kept ?_ | with_reducible refine State.hotSwitch_kept ?_ _ | simp only [kept_mk]
    | with_reducible refine Kept.parts ?_
    | with_reducible refine Kept.partsDev ?_ (Kept.devWf (m := 0x3a6792007e) (q := s.pending) (s0 := s) ?_ rfl rfl rfl rfl)
    | dsimp only | split

end Sys2Proof.Machine
end

