-- ==== Sys2Proof/Laws/KeptSweeper.lean ====
section
/-! SUPPORT. What the definitions of Machine/Sweeper.lean keep: one lemma `<name>_kept` for each (Laws/Kept.lean). -/

-- Proof bodies are elaborated in order: elaborated in parallel they wait on one another, each in a thread of its own.
set_option Elab.async false

namespace Sys2Proof.Machine
open Sys2Proof

theorem execSweeperCycleStart_kept {s : State} (hI : State.Inv s) : ∃ u, (execSweeperCycleStart s) = .next u ∧ Kept
    0x2805100040 s.pending s u := by
  have hQ := kept_start hI 0x2805100040
  have hm := sub_refl 0x2805100040
  unfold execSweeperCycleStart
  refine ⟨_, rfl, ?_⟩
  try dsimp only
  repeat' first
    | with_reducible assumption | with_reducible refine @kept_ite _ _ _ _ _ _ _ ?_ ?_
    | with_reducible refine State.cycleGo_kept ?_ | with_reducible refine State.cycleLag_kept ?_
    | with_reducible refine State.cycleStart_kept ?_ | exact all_nil_ok | refine all_cons_ok ?_ ?_
    | exact ok_le hm (by decide) | exact ok_add hm (by decide) | exact ok_add2 hm (by decide) | exact ok_at hm (by decide)

theorem State.runNow_kept {M : Nat} {Q : List Instr} {s0 s : State} (hQ : Kept M Q s0 s)
    (hm : sub 0x2805100040 M = true := by exact sub_le (by assumption) (by decide)) : Kept M Q s0 (State.runNow s) := by
  unfold State.runNow
  try dsimp only
  repeat' first
    | with_reducible assumption | with_reducible refine @kept_ite _ _ _ _ _ _ _ ?_ ?_
    | with_reducible refine State.cycleStart_kept ?_

theorem execRunNow_kept {s : State} (hI : State.Inv s) (from_ : Sender) : ∃ u, (execRunNow from_ s) = .next u ∧ Kept
    0x2805100040 s.pending s u := by
  have hQ := kept_start hI 0x2805100040
  have hm := sub_refl 0x2805100040
  unfold execRunNow
  refine ⟨_, rfl, ?_⟩
  try dsimp only
  repeat' first
    | with_reducible assumption | with_reducible refine @kept_ite _ _ _ _ _ _ _ ?_ ?_
    | with_reducible refine State.runNow_kept ?_

theorem State.marchFail_kept {M : Nat} {Q : List Instr} {s0 s : State} (hQ : Kept M Q s0 s) (r : Nat) (c : Nat) (w : Nat)
    (detail : Word) (hm : sub 0x3801120060 M = true := by exact sub_le (by assumption) (by decide)) : Kept M Q s0
    (State.marchFail s r c w detail) := by
  unfold State.marchFail
  try dsimp only
  repeat' first
    | with_reducible assumption | with_reducible refine @kept_ite _ _ _ _ _ _ _ ?_ ?_
    | with_reducible refine State.replace_kept ?_ _ _ _ | with_reducible refine State.putAll_kept ?_ _ ?_
    | with_reducible refine State.log_kept ?_ _ _ _ _ _ | with_reducible refine State.swpEvent_kept ?_ _ ?_ | exact all_nil_ok
    | refine all_cons_ok ?_ ?_ | exact ok_le hm (by decide) | exact ok_add hm (by decide)

theorem State.marginFail_kept {M : Nat} {Q : List Instr} {s0 s : State} (hQ : Kept M Q s0 s)
    (hm : sub 0x2001000040 M = true := by exact sub_le (by assumption) (by decide)) : Kept M Q s0 (State.marginFail s) := by
  unfold State.marginFail
  try dsimp only
  repeat' first
    | with_reducible assumption | with_reducible refine @kept_ite _ _ _ _ _ _ _ ?_ ?_
    | with_reducible refine State.swpEvent_kept ?_ _ ?_ | with_reducible refine Kept.put ?_ _ _ ?_ | exact all_nil_ok
    | refine all_cons_ok ?_ ?_ | exact ok_le hm (by decide)

theorem State.eyeStart_kept {M : Nat} {Q : List Instr} {s0 s : State} (hQ : Kept M Q s0 s) (n : Nat)
    (hm : sub 0x2004000040 M = true := by exact sub_le (by assumption) (by decide)) : Kept M Q s0 (State.eyeStart s n) :=
    by
  unfold State.eyeStart
  try dsimp only
  repeat' first
    | with_reducible assumption | with_reducible refine @kept_ite _ _ _ _ _ _ _ ?_ ?_
    | with_reducible refine State.trainStart_kept ?_ _ | with_reducible refine State.setStn_kept ?_ _ _ | simp only [kept_mk]
    | with_reducible refine Kept.parts ?_
    | with_reducible refine Kept.partsDev ?_ (Kept.devWf (m := M) (q := Q) (s0 := s0) ?_ rfl rfl rfl rfl) | dsimp only
    | split

theorem State.testOutcome_kept {M : Nat} {Q : List Instr} {s0 s : State} (hQ : Kept M Q s0 s) (t : SwpTest) (failed :
    Bool) (detail : Word) (hm : sub 0x7867130070 M = true := by exact sub_le (by assumption) (by decide)) : Kept M Q s0
    (State.testOutcome s t failed detail) := by
  unfold State.testOutcome
  try dsimp only
  repeat' first
    | with_reducible assumption | with_reducible refine @kept_ite _ _ _ _ _ _ _ ?_ ?_
    | with_reducible refine State.marginFail_kept ?_ | with_reducible refine State.marchFail_kept ?_ _ _ _ _
    | with_reducible refine State.clusterOut_kept ?_ _ | with_reducible refine State.log_kept ?_ _ _ _ _ _
    | with_reducible refine State.swpEvent_kept ?_ _ ?_ | with_reducible refine Kept.put ?_ _ _ ?_ | exact all_nil_ok
    | refine all_cons_ok ?_ ?_ | exact ok_le hm (by decide) | exact ok_add hm (by decide) | exact ok_add2 hm (by decide)
    | exact ok_at hm (by decide) | simp only [kept_mk] | with_reducible refine Kept.parts ?_
    | with_reducible refine Kept.partsDev ?_ (Kept.devWf (m := M) (q := Q) (s0 := s0) ?_ rfl rfl rfl rfl) | dsimp only
    | split

theorem execSweeperTestStep_kept {s : State} (hI : State.Inv s) (test : SwpTest) (failed : Bool) (detail : Word) : ∃ u,
    (execSweeperTestStep test failed detail s) = .next u ∧ Kept 0x7a6793007e s.pending s u := by
  have hQ := kept_start hI 0x7a6793007e
  have hm := sub_refl 0x7a6793007e
  unfold execSweeperTestStep
  refine ⟨_, rfl, ?_⟩
  try dsimp only
  repeat' first
    | with_reducible assumption | with_reducible refine @kept_ite _ _ _ _ _ _ _ ?_ ?_
    | with_reducible refine State.testOutcome_kept ?_ _ _ _ | with_reducible refine State.eyeStart_kept ?_ _
    | with_reducible refine State.unitTested_kept ?_ _ | with_reducible refine State.watch_kept ?_ _
    | with_reducible refine State.settle_kept ?_ | simp only [kept_mk] | with_reducible refine Kept.parts ?_
    | with_reducible refine Kept.partsDev ?_ (Kept.devWf (m := 0x7a6793007e) (q := s.pending) (s0 := s) ?_ rfl rfl rfl rfl)
    | dsimp only | split

theorem execWindowRedirect_kept {s : State} (hI : State.Inv s) : ∃ u, (execWindowRedirect s) = .next u ∧ Kept 0x800000000
    s.pending s u := by
  have hQ := kept_start hI 0x800000000
  have hm := sub_refl 0x800000000
  unfold execWindowRedirect
  refine ⟨_, rfl, ?_⟩
  try dsimp only
  repeat' first
    | with_reducible assumption | with_reducible refine @kept_ite _ _ _ _ _ _ _ ?_ ?_ | simp only [kept_mk]
    | with_reducible refine Kept.parts ?_
    | with_reducible refine Kept.partsDev ?_ (Kept.devWf (m := 0x800000000)  ?_ rfl rfl rfl rfl) | dsimp only | split

theorem execWindowYield_kept {s : State} (hI : State.Inv s) : ∃ u, (execWindowYield s) = .next u ∧ Kept 0x800000040 s.pending
    s u := by
  have hQ := kept_start hI 0x800000040
  have hm := sub_refl 0x800000040
  unfold execWindowYield
  refine ⟨_, rfl, ?_⟩
  try dsimp only
  repeat' first
    | with_reducible assumption | with_reducible refine @kept_ite _ _ _ _ _ _ _ ?_ ?_
    | with_reducible refine State.yieldHeld_kept ?_ | with_reducible refine State.takeWindow_kept ?_

theorem State.emitResult_kept {M : Nat} {Q : List Instr} {s0 s : State} (hQ : Kept M Q s0 s) (n : Nat) (e : Nat) (res :
    Nat) (hm : sub 0x3805100040 M = true := by exact sub_le (by assumption) (by decide)) : Kept M Q s0 (State.emitResult s
    n e res) := by
  unfold State.emitResult
  try dsimp only
  repeat' first
    | with_reducible assumption | with_reducible refine @kept_ite _ _ _ _ _ _ _ ?_ ?_
    | with_reducible refine State.unitTested_kept ?_ _ | with_reducible refine State.markDead_kept ?_ _ _
    | with_reducible refine State.setStn_kept ?_ _ _ | with_reducible refine State.log_kept ?_ _ _ _ _ _
    | with_reducible refine State.swpEvent_kept ?_ _ ?_ | exact all_nil_ok | refine all_cons_ok ?_ ?_
    | exact ok_le hm (by decide) | exact ok_add hm (by decide) | exact ok_add2 hm (by decide) | exact ok_at hm (by decide)
    | simp only [kept_mk] | with_reducible refine Kept.parts ?_
    | with_reducible refine Kept.partsDev ?_ (Kept.devWf (m := M) (q := Q) (s0 := s0) ?_ rfl rfl rfl rfl) | dsimp only
    | split

theorem State.setProbe_kept {M : Nat} {Q : List Instr} {s0 s : State} (hQ : Kept M Q s0 s) (n : StnId) (p : Option (Nat ×
    ProbePhase)) (hm : sub 0x4000000 M = true := by exact sub_le (by assumption) (by decide)) : Kept M Q s0
    (State.setProbe s n p) := by
  unfold State.setProbe
  try dsimp only
  repeat' first
    | with_reducible assumption | with_reducible refine @kept_ite _ _ _ _ _ _ _ ?_ ?_
    | with_reducible refine State.setStn_kept ?_ _ _ | simp only [kept_mk] | with_reducible refine Kept.parts ?_
    | with_reducible refine Kept.partsDev ?_ (Kept.devWf (m := M) (q := Q) (s0 := s0) ?_ rfl rfl rfl rfl)

theorem State.emitDone_kept {M : Nat} {Q : List Instr} {s0 s : State} (hQ : Kept M Q s0 s) (n : StnId) (e : Nat) (res :
    Nat) (hm : sub 0x3805100040 M = true := by exact sub_le (by assumption) (by decide)) : Kept M Q s0 (State.emitDone s n
    e res) := by
  unfold State.emitDone
  try dsimp only
  repeat' first
    | with_reducible assumption | with_reducible refine @kept_ite _ _ _ _ _ _ _ ?_ ?_
    | with_reducible refine State.setProbe_kept ?_ _ _ | with_reducible refine State.emitResult_kept ?_ _ _ _ | dsimp only
    | split

theorem execEmitterTestResult_kept {s : State} (hI : State.Inv s) (n : StnId) (emitter : BitVec 7) (res : EmitStep) : ∃ u,
    (execEmitterTestResult n emitter res s) = .next u ∧ Kept 0x3805100060 s.pending s u := by
  have hQ := kept_start hI 0x3805100060
  have hm := sub_refl 0x3805100060
  unfold execEmitterTestResult
  refine ⟨_, rfl, ?_⟩
  try dsimp only
  repeat' first
    | with_reducible assumption | with_reducible refine @kept_ite _ _ _ _ _ _ _ ?_ ?_
    | with_reducible refine State.emitDone_kept ?_ _ _ _ | with_reducible refine State.setProbe_kept ?_ _ _
    | with_reducible refine State.swpFrameEnd_kept ?_ _ | with_reducible refine State.emit_kept ?_ _ | simp only [kept_mk]
    | with_reducible refine Kept.parts ?_
    | with_reducible refine Kept.partsDev ?_ (Kept.devWf (m := 0x3805100060) (q := s.pending) (s0 := s) ?_ rfl rfl rfl rfl)
    | dsimp only | split

theorem State.swpLogSel_kept {M : Nat} {Q : List Instr} {s0 s : State} (hQ : Kept M Q s0 s) (v : Word)
    (hm : sub 0x40 M = true := by exact sub_le (by assumption) (by decide)) : Kept M Q s0 (State.swpLogSel s v) := by
  unfold State.swpLogSel
  try dsimp only
  repeat' first
    | with_reducible assumption | with_reducible refine @kept_ite _ _ _ _ _ _ _ ?_ ?_
    | with_reducible refine Kept.put ?_ _ _ ?_ | with_reducible refine Kept.setReg ?_ _ _ ?_
    | with_reducible refine kept_foldl (fun t x ht => ?_) _ _ ?_
    | with_reducible refine kept_foldl_fst (fun t x ht => ?_) _ _ ?_ | exact all_nil_ok | refine all_cons_ok ?_ ?_
    | exact ok_le hm (by decide) | exact ok_add hm (by decide)

theorem execSwpLogSel_kept {s : State} (hI : State.Inv s) (from_ : Sender) (value : Word) : ∃ u, (execSwpLogSel from_ value s)
    = .next u ∧ Kept 0x40 s.pending s u := by
  have hQ := kept_start hI 0x40
  have hm := sub_refl 0x40
  unfold execSwpLogSel
  refine ⟨_, rfl, ?_⟩
  try dsimp only
  repeat' first
    | with_reducible assumption | with_reducible refine @kept_ite _ _ _ _ _ _ _ ?_ ?_
    | with_reducible refine State.swpLogSel_kept ?_ _

end Sys2Proof.Machine
end

