-- ==== Sys2Proof/Laws/KeptFirmware.lean ====
section
/-! SUPPORT. What the definitions of Machine/Firmware.lean keep: one lemma `<name>_kept` for each (Laws/Kept.lean). -/

-- Proof bodies are elaborated in order: elaborated in parallel they wait on one another, each in a thread of its own.
set_option Elab.async false

namespace Sys2Proof.Machine
open Sys2Proof

theorem State.fwResult_kept {M : Nat} {Q : List Instr} {s0 s : State} (hQ : Kept M Q s0 s) (r : Nat)
    (hm : sub 0x2001000040 M = true := by exact sub_le (by assumption) (by decide)) : Kept M Q s0 (State.fwResult s r) := by
  unfold State.fwResult
  try dsimp only
  repeat' first
    | with_reducible assumption | with_reducible refine @kept_ite _ _ _ _ _ _ _ ?_ ?_
    | with_reducible refine State.fwEvent_kept ?_ _ ?_ | with_reducible refine Kept.put ?_ _ _ ?_ | exact all_nil_ok
    | refine all_cons_ok ?_ ?_ | exact ok_le hm (by decide)

theorem State.loadReq_kept {M : Nat} {Q : List Instr} {s0 s : State} (hQ : Kept M Q s0 s) (x : Sender)
    (hm : sub 0x2801000040 M = true := by exact sub_le (by assumption) (by decide)) : Kept M Q s0 (State.loadReq s x) := by
  unfold State.loadReq
  try dsimp only
  repeat' first
    | with_reducible assumption | with_reducible refine @kept_ite _ _ _ _ _ _ _ ?_ ?_
    | with_reducible refine State.fwResult_kept ?_ _ | with_reducible refine Kept.put ?_ _ _ ?_ | exact all_nil_ok
    | refine all_cons_ok ?_ ?_ | exact ok_le hm (by decide) | exact ok_add hm (by decide) | exact ok_add2 hm (by decide)
    | exact ok_at hm (by decide) | simp only [kept_mk] | with_reducible refine Kept.parts ?_

theorem execLoad_kept {s : State} (hI : State.Inv s) (from_ : Sender) : ∃ u, (execLoad from_ s) = .next u ∧ Kept 0x2801000040
    s.pending s u := by
  have hQ := kept_start hI 0x2801000040
  have hm := sub_refl 0x2801000040
  unfold execLoad
  refine ⟨_, rfl, ?_⟩
  try dsimp only
  repeat' first
    | with_reducible assumption | with_reducible refine @kept_ite _ _ _ _ _ _ _ ?_ ?_
    | with_reducible refine State.loadReq_kept ?_ _

theorem State.setVersion_kept {M : Nat} {Q : List Instr} {s0 s : State} (hQ : Kept M Q s0 s) (k : Nat) (v : Nat)
    (hm : sub 0x40 M = true := by exact sub_le (by assumption) (by decide)) : Kept M Q s0 (State.setVersion s k v) := by
  unfold State.setVersion
  try dsimp only
  repeat' first
    | with_reducible assumption | with_reducible refine @kept_ite _ _ _ _ _ _ _ ?_ ?_
    | with_reducible refine Kept.put ?_ _ _ ?_ | exact all_nil_ok | refine all_cons_ok ?_ ?_ | exact ok_le hm (by decide)
    | exact ok_add hm (by decide)

theorem State.loadEnd_kept {M : Nat} {Q : List Instr} {s0 s : State} (hQ : Kept M Q s0 s) (k : Nat) (result : Nat)
    (hm : sub 0x3801100040 M = true := by exact sub_le (by assumption) (by decide)) : Kept M Q s0 (State.loadEnd s k result) := by
  unfold State.loadEnd
  try dsimp only
  repeat' first
    | with_reducible assumption | with_reducible refine @kept_ite _ _ _ _ _ _ _ ?_ ?_
    | with_reducible refine State.fwEvent_kept ?_ _ ?_ | with_reducible refine State.log_kept ?_ _ _ _ _ _
    | with_reducible refine State.fwResult_kept ?_ _ | with_reducible refine Kept.put ?_ _ _ ?_ | exact all_nil_ok
    | refine all_cons_ok ?_ ?_ | exact ok_le hm (by decide) | exact ok_add hm (by decide) | exact ok_add2 hm (by decide)
    | exact ok_at hm (by decide) | simp only [kept_mk] | with_reducible refine Kept.parts ?_

theorem State.loadCopy_kept {M : Nat} {Q : List Instr} {s0 s : State} (hQ : Kept M Q s0 s) (k : Nat)
    (hm : sub 0x3801120060 M = true := by exact sub_le (by assumption) (by decide)) : Kept M Q s0 (State.loadCopy s k) := by
  unfold State.loadCopy
  try dsimp only
  repeat' first
    | with_reducible assumption | with_reducible refine @kept_ite _ _ _ _ _ _ _ ?_ ?_
    | with_reducible refine State.writeBytes_kept ?_ _ _ _ _ | with_reducible refine State.setVersion_kept ?_ _ _
    | with_reducible refine State.loadEnd_kept ?_ _ _ | with_reducible refine State.readBytes_kept ?_ _ _ _

theorem State.activateReq_kept {M : Nat} {Q : List Instr} {s0 s : State} (hQ : Kept M Q s0 s) (x : Sender)
    (hm : sub 0x2801000040 M = true := by exact sub_le (by assumption) (by decide)) : Kept M Q s0 (State.activateReq s x) := by
  unfold State.activateReq
  try dsimp only
  repeat' first
    | with_reducible assumption | with_reducible refine @kept_ite _ _ _ _ _ _ _ ?_ ?_
    | with_reducible refine State.fwResult_kept ?_ _ | with_reducible refine Kept.put ?_ _ _ ?_ | exact all_nil_ok
    | refine all_cons_ok ?_ ?_ | exact ok_le hm (by decide) | exact ok_add hm (by decide) | exact ok_add2 hm (by decide)
    | exact ok_at hm (by decide) | simp only [kept_mk] | with_reducible refine Kept.parts ?_

theorem execActivate_kept {s : State} (hI : State.Inv s) (from_ : Sender) : ∃ u, (execActivate from_ s) = .next u ∧ Kept
    0x2801000040 s.pending s u := by
  have hQ := kept_start hI 0x2801000040
  have hm := sub_refl 0x2801000040
  unfold execActivate
  refine ⟨_, rfl, ?_⟩
  try dsimp only
  repeat' first
    | with_reducible assumption | with_reducible refine @kept_ite _ _ _ _ _ _ _ ?_ ?_
    | with_reducible refine State.activateReq_kept ?_ _

theorem State.setAct_kept {M : Nat} {Q : List Instr} {s0 s : State} (hQ : Kept M Q s0 s) (a : Option Activation)
    (hm : sub 0x800000000 M = true := by exact sub_le (by assumption) (by decide)) : Kept M Q s0 (State.setAct s a) := by
  unfold State.setAct
  try dsimp only
  repeat' first
    | with_reducible assumption | with_reducible refine @kept_ite _ _ _ _ _ _ _ ?_ ?_ | simp only [kept_mk]
    | with_reducible refine Kept.parts ?_

theorem State.actNext_kept {M : Nat} {Q : List Instr} {s0 s : State} (hQ : Kept M Q s0 s) (a : Activation)
    (hm : sub 0x800000040 M = true := by exact sub_le (by assumption) (by decide)) : Kept M Q s0 (State.actNext s a) := by
  unfold State.actNext
  try dsimp only
  repeat' first
    | with_reducible assumption | with_reducible refine @kept_ite _ _ _ _ _ _ _ ?_ ?_
    | with_reducible refine State.setAct_kept ?_ _ | with_reducible refine Kept.put ?_ _ _ ?_ | exact all_nil_ok
    | refine all_cons_ok ?_ ?_ | exact ok_le hm (by decide)

theorem State.actEnd_kept {M : Nat} {Q : List Instr} {s0 s : State} (hQ : Kept M Q s0 s) (a : Activation)
    (hm : sub 0x3801100040 M = true := by exact sub_le (by assumption) (by decide)) : Kept M Q s0 (State.actEnd s a) := by
  unfold State.actEnd
  try dsimp only
  repeat' first
    | with_reducible assumption | with_reducible refine @kept_ite _ _ _ _ _ _ _ ?_ ?_
    | with_reducible refine State.fwResult_kept ?_ _ | with_reducible refine State.fwEvent_kept ?_ _ ?_
    | with_reducible refine State.raiseFloor_kept ?_ _ | with_reducible refine State.log_kept ?_ _ _ _ _ _
    | with_reducible refine State.setAct_kept ?_ _ | with_reducible refine Kept.put ?_ _ _ ?_ | exact all_nil_ok
    | refine all_cons_ok ?_ ?_ | exact ok_le hm (by decide)

theorem State.rollBack_kept {M : Nat} {Q : List Instr} {s0 s : State} (hQ : Kept M Q s0 s) (a : Activation)
    (hm : sub 0x3801100040 M = true := by exact sub_le (by assumption) (by decide)) : Kept M Q s0 (State.rollBack s a) := by
  unfold State.rollBack
  try dsimp only
  repeat' first
    | with_reducible assumption | with_reducible refine @kept_ite _ _ _ _ _ _ _ ?_ ?_
    | with_reducible refine State.setAct_kept ?_ _ | with_reducible refine State.fwResult_kept ?_ _
    | with_reducible refine State.log_kept ?_ _ _ _ _ _ | with_reducible refine Kept.put ?_ _ _ ?_ | exact all_nil_ok
    | refine all_cons_ok ?_ ?_ | exact ok_le hm (by decide) | exact ok_add hm (by decide)

theorem State.actResume_kept {M : Nat} {Q : List Instr} {s0 s : State} (hQ : Kept M Q s0 s) (a : Activation) (c : Nat)
    (hm : sub 0x800000070 M = true := by exact sub_le (by assumption) (by decide)) : Kept M Q s0 (State.actResume s a c) := by
  unfold State.actResume
  try dsimp only
  repeat' first
    | with_reducible assumption | with_reducible refine @kept_ite _ _ _ _ _ _ _ ?_ ?_
    | with_reducible refine State.actNext_kept ?_ _ | with_reducible refine Kept.put ?_ _ _ ?_
    | with_reducible refine kept_foldl (fun t x ht => ?_) _ _ ?_
    | with_reducible refine kept_foldl_fst (fun t x ht => ?_) _ _ ?_ | exact all_nil_ok | refine all_cons_ok ?_ ?_
    | exact ok_le hm (by decide) | exact ok_add hm (by decide)

theorem State.actStep_kept {M : Nat} {Q : List Instr} {s0 s : State} (hQ : Kept M Q s0 s) (a : Activation) (ok : Bool)
    (hm : sub 0x7867130070 M = true := by exact sub_le (by assumption) (by decide)) : Kept M Q s0 (State.actStep s a ok)
    := by
  unfold State.actStep
  try dsimp only
  repeat' first
    | with_reducible assumption | with_reducible refine @kept_ite _ _ _ _ _ _ _ ?_ ?_
    | with_reducible refine State.actResume_kept ?_ _ _ | with_reducible refine State.rollBack_kept ?_ _
    | with_reducible refine State.actEnd_kept ?_ _ | with_reducible refine State.actNext_kept ?_ _
    | with_reducible refine State.setAct_kept ?_ _ | with_reducible refine State.clusterOut_kept ?_ _
    | with_reducible refine State.handOver_kept ?_ _ | with_reducible refine State.meetSlot_kept ?_ _
    | with_reducible refine State.clearPad_kept ?_ _ | simp only [kept_mk] | with_reducible refine Kept.parts ?_
    | with_reducible refine Kept.partsDev ?_ (Kept.devWf (m := M) (q := Q) (s0 := s0) ?_ rfl rfl rfl rfl) | dsimp only
    | split

theorem execActivationStep_kept {s : State} (hI : State.Inv s) (ok : Bool) : ∃ u, (execActivationStep ok s) = .next u ∧
    Kept 0x7867130070 s.pending s u := by
  have hQ := kept_start hI 0x7867130070
  have hm := sub_refl 0x7867130070
  unfold execActivationStep
  refine ⟨_, rfl, ?_⟩
  try dsimp only
  repeat' first
    | with_reducible assumption | with_reducible refine @kept_ite _ _ _ _ _ _ _ ?_ ?_
    | with_reducible refine State.actStep_kept ?_ _ _ | with_reducible refine State.cycleGo_kept ?_ | simp only [kept_mk]
    | with_reducible refine Kept.parts ?_
    | with_reducible refine Kept.partsDev ?_ (Kept.devWf (m := 0x7867130070) (q := s.pending) (s0 := s) ?_ rfl rfl rfl rfl)
    | dsimp only | split

theorem State.yieldSlot_kept {M : Nat} {Q : List Instr} {s0 s : State} (hQ : Kept M Q s0 s) (k : Nat)
    (hm : sub 0x800000040 M = true := by exact sub_le (by assumption) (by decide)) : Kept M Q s0 (State.yieldSlot s k) :=
    by
  unfold State.yieldSlot
  try dsimp only
  repeat' first
    | with_reducible assumption | with_reducible refine @kept_ite _ _ _ _ _ _ _ ?_ ?_
    | with_reducible refine State.yieldHeld_kept ?_ | simp only [kept_mk] | with_reducible refine Kept.parts ?_
    | with_reducible refine Kept.partsDev ?_ (Kept.devWf (m := M) (q := Q) (s0 := s0) ?_ rfl rfl rfl rfl) | dsimp only
    | split

theorem State.wipeSlot_kept {M : Nat} {Q : List Instr} {s0 s : State} (hQ : Kept M Q s0 s) (k : Nat)
    (hm : sub 0x20000 M = true := by exact sub_le (by assumption) (by decide)) : Kept M Q s0 (State.wipeSlot s k) := by
  unfold State.wipeSlot
  try dsimp only
  repeat' first
    | with_reducible assumption | with_reducible refine @kept_ite _ _ _ _ _ _ _ ?_ ?_
    | with_reducible refine Kept.setImage ?_ _ ?_ | with_reducible refine Image.setEcc_wf ?_ _ _
    | with_reducible refine Image.setWord_wf ?_ _ _ | with_reducible refine Image.foldl_wf (fun m x hm => ?_) _ _ ?_
    | with_reducible refine Good.image (Q := Q) ?_ _ | with_reducible refine Good.cwImage (Q := Q) ?_ _
    | with_reducible exact Image.flat_wf _ | with_reducible refine copyImage_wf ?_ _
    | with_reducible refine Image.filterEcc_wf ?_ _ | with_reducible refine Image.keep_wf ?_ _ _
    | with_reducible refine Kept.good (m := M) (s0 := s0) ?_

theorem State.eraseReq_kept {M : Nat} {Q : List Instr} {s0 s : State} (hQ : Kept M Q s0 s) (x : Sender) (k : Nat)
    (hm : sub 0x2801020040 M = true := by exact sub_le (by assumption) (by decide)) : Kept M Q s0 (State.eraseReq s x k)
    := by
  unfold State.eraseReq
  try dsimp only
  repeat' first
    | with_reducible assumption | with_reducible refine @kept_ite _ _ _ _ _ _ _ ?_ ?_
    | with_reducible refine State.fwResult_kept ?_ _ | with_reducible refine Kept.put ?_ _ _ ?_ | exact all_nil_ok
    | refine all_cons_ok ?_ ?_ | exact ok_le hm (by decide) | exact ok_add hm (by decide) | exact ok_add2 hm (by decide)
    | exact ok_at hm (by decide) | simp only [kept_mk] | with_reducible refine Kept.parts ?_
    | with_reducible refine Kept.partsDev ?_ (Kept.devWf (m := M) (q := Q) (s0 := s0) ?_ rfl rfl rfl rfl) | dsimp only
    | split

theorem State.eraseEnd_kept {M : Nat} {Q : List Instr} {s0 s : State} (hQ : Kept M Q s0 s) (k : Nat)
    (hm : sub 0x2801020040 M = true := by exact sub_le (by assumption) (by decide)) : Kept M Q s0 (State.eraseEnd s k) :=
    by
  unfold State.eraseEnd
  try dsimp only
  repeat' first
    | with_reducible assumption | with_reducible refine @kept_ite _ _ _ _ _ _ _ ?_ ?_
    | with_reducible refine State.wipeSlot_kept ?_ _ | with_reducible refine State.yieldSlot_kept ?_ _
    | with_reducible refine State.setVersion_kept ?_ _ _ | with_reducible refine State.fwResult_kept ?_ _
    | with_reducible refine Kept.put ?_ _ _ ?_ | exact all_nil_ok | refine all_cons_ok ?_ ?_ | exact ok_le hm (by decide)
    | exact ok_add hm (by decide) | exact ok_add2 hm (by decide) | exact ok_at hm (by decide) | simp only [kept_mk]
    | with_reducible refine Kept.parts ?_
    | with_reducible refine Kept.partsDev ?_ (Kept.devWf (m := M) (q := Q) (s0 := s0) ?_ rfl rfl rfl rfl) | dsimp only
    | split

theorem execErase_kept {s : State} (hI : State.Inv s) (from_ : Sender) (slot : Bool) : ∃ u, (execErase from_ slot s) = .next u
    ∧ Kept 0x2801020040 s.pending s u := by
  have hQ := kept_start hI 0x2801020040
  have hm := sub_refl 0x2801020040
  unfold execErase
  refine ⟨_, rfl, ?_⟩
  try dsimp only
  repeat' first
    | with_reducible assumption | with_reducible refine @kept_ite _ _ _ _ _ _ _ ?_ ?_
    | with_reducible refine State.eraseReq_kept ?_ _ _

theorem State.slotDone_kept {M : Nat} {Q : List Instr} {s0 s : State} (hQ : Kept M Q s0 s)
    (hm : sub 0x3801120060 M = true := by exact sub_le (by assumption) (by decide)) : Kept M Q s0 (State.slotDone s) := by
  unfold State.slotDone
  try dsimp only
  repeat' first
    | with_reducible assumption | with_reducible refine @kept_ite _ _ _ _ _ _ _ ?_ ?_
    | with_reducible refine State.eraseEnd_kept ?_ _ | with_reducible refine State.loadCopy_kept ?_ _
    | with_reducible refine State.loadEnd_kept ?_ _ _ | simp only [kept_mk] | with_reducible refine Kept.parts ?_
    | with_reducible refine Kept.partsDev ?_ (Kept.devWf (m := M) (q := Q) (s0 := s0) ?_ rfl rfl rfl rfl) | dsimp only
    | split

theorem execLoadDone_kept {s : State} (hI : State.Inv s) : ∃ u, (execLoadDone s) = .next u ∧ Kept 0x3a6793007e s.pending s
    u := by
  have hQ := kept_start hI 0x3a6793007e
  have hm := sub_refl 0x3a6793007e
  unfold execLoadDone
  refine ⟨_, rfl, ?_⟩
  try dsimp only
  repeat' first
    | with_reducible assumption | with_reducible refine @kept_ite _ _ _ _ _ _ _ ?_ ?_
    | with_reducible refine State.slotDone_kept ?_ | with_reducible refine State.watch_kept ?_ _
    | with_reducible refine State.settle_kept ?_ | simp only [kept_mk] | with_reducible refine Kept.parts ?_ | dsimp only
    | split

theorem State.tokenWord_kept {M : Nat} {Q : List Instr} {s0 s : State} (hQ : Kept M Q s0 s) (x : Sender) (v : Word)
    (hm : sub 0x800000000 M = true := by exact sub_le (by assumption) (by decide)) : Kept M Q s0 (State.tokenWord s x v) := by
  unfold State.tokenWord
  try dsimp only
  repeat' first
    | with_reducible assumption | with_reducible refine @kept_ite _ _ _ _ _ _ _ ?_ ?_ | simp only [kept_mk]
    | with_reducible refine Kept.parts ?_

theorem execFwToken_kept {s : State} (hI : State.Inv s) (from_ : Sender) (value : Word) : ∃ u, (execFwToken from_ value s) =
    .next u ∧ Kept 0x800000000 s.pending s u := by
  have hQ := kept_start hI 0x800000000
  have hm := sub_refl 0x800000000
  unfold execFwToken
  refine ⟨_, rfl, ?_⟩
  try dsimp only
  repeat' first
    | with_reducible assumption | with_reducible refine @kept_ite _ _ _ _ _ _ _ ?_ ?_
    | with_reducible refine State.tokenWord_kept ?_ _ _

theorem State.wipeBegin_kept {M : Nat} {Q : List Instr} {s0 s : State} (hQ : Kept M Q s0 s) (goal : Nat)
    (hm : sub 0x3ae792007f M = true := by exact sub_le (by assumption) (by decide)) : Kept M Q s0 (State.wipeBegin s goal)
    := by
  unfold State.wipeBegin
  try dsimp only
  repeat' first
    | with_reducible assumption | with_reducible refine @kept_ite _ _ _ _ _ _ _ ?_ ?_
    | with_reducible refine State.dropWindow_kept ?_ | with_reducible refine State.functionReset_kept ?_ _ _
    | with_reducible refine State.disarmNow_kept ?_ _ | with_reducible refine State.putAll_kept ?_ _ ?_
    | with_reducible refine kept_foldl (fun t x ht => ?_) _ _ ?_
    | with_reducible refine kept_foldl_fst (fun t x ht => ?_) _ _ ?_ | exact all_nil_ok | refine all_cons_ok ?_ ?_
    | exact ok_le hm (by decide) | exact ok_add hm (by decide) | exact ok_add2 hm (by decide) | exact ok_at hm (by decide)
    | simp only [kept_mk] | with_reducible refine Kept.parts ?_
    | with_reducible refine Kept.partsDev ?_ (Kept.devWf (m := M) (q := Q) (s0 := s0) ?_ rfl rfl rfl rfl) | dsimp only
    | split

theorem State.lcApply_kept {M : Nat} {Q : List Instr} {s0 s : State} (hQ : Kept M Q s0 s) (x : Sender)
    (hm : sub 0x3ae792007f M = true := by exact sub_le (by assumption) (by decide)) : Kept M Q s0 (State.lcApply s x) := by
  unfold State.lcApply
  try dsimp only
  repeat' first
    | with_reducible assumption | with_reducible refine @kept_ite _ _ _ _ _ _ _ ?_ ?_
    | with_reducible refine State.fwEvent_kept ?_ _ ?_ | with_reducible refine State.wipeBegin_kept ?_ _
    | with_reducible refine Kept.put ?_ _ _ ?_ | exact all_nil_ok | refine all_cons_ok ?_ ?_ | exact ok_le hm (by decide)
    | exact ok_add hm (by decide) | exact ok_add2 hm (by decide) | exact ok_at hm (by decide) | simp only [kept_mk]
    | with_reducible refine Kept.parts ?_

theorem execLcApply_kept {s : State} (hI : State.Inv s) (from_ : Sender) : ∃ u, (execLcApply from_ s) = .next u ∧ Kept
    0x3ae792007f s.pending s u := by
  have hQ := kept_start hI 0x3ae792007f
  have hm := sub_refl 0x3ae792007f
  unfold execLcApply
  refine ⟨_, rfl, ?_⟩
  try dsimp only
  repeat' first
    | with_reducible assumption | with_reducible refine @kept_ite _ _ _ _ _ _ _ ?_ ?_
    | with_reducible refine State.lcApply_kept ?_ _

theorem State.neverStored_kept {M : Nat} {Q : List Instr} {s0 s : State} (hQ : Kept M Q s0 s)
    (hm : sub 0x7f M = true := by exact sub_le (by assumption) (by decide)) : Kept M Q s0 (State.neverStored s) := by
  refine hQ.withRegs (Map.wf_mapFilter hQ.good.regs _ _ (fun e he => by simpa using he)) (fun a ha => ?_)
    (fun a ha => by rw [all_regs (sub_le hm (by decide))] at ha; cases ha)
  refine Map.get_of_absent _ (fun e he => ?_)
  obtain ⟨x, hx, rfl⟩ := List.mem_map.mp (List.mem_filter.mp he).1
  exact Map.absent_of_get hQ.good.regs (hQ.good.fused a ha) x hx

theorem State.mailboxRegs_kept {M : Nat} {Q : List Instr} {s0 s : State} (hQ : Kept M Q s0 s)
    (hm : sub 0x7f M = true := by exact sub_le (by assumption) (by decide)) : Kept M Q s0 (State.mailboxRegs s) :=
  hQ.keepRegs _ (fun a ha => by rw [all_regs (sub_le hm (by decide))] at ha; cases ha)

theorem State.wipeArray_kept {M : Nat} {Q : List Instr} {s0 s : State} (hQ : Kept M Q s0 s)
    (hm : sub 0x9e0fe007f M = true := by exact sub_le (by assumption) (by decide)) : Kept M Q s0 (State.wipeArray s) := by
  have h := State.mailboxRegs_kept (State.neverStored_kept hQ)
  refine Kept.put (State.put36_kept ?_ _ _ _ (ok_le hm (by decide)) (ok_le hm (by decide))) _ _ (ok_le hm (by decide))
  exact kept_mk.mpr (h.partsAll rfl rfl rfl rfl rfl rfl rfl rfl hQ.good.words rfl)

theorem State.wipePageNow_kept {M : Nat} {Q : List Instr} {s0 s : State} (hQ : Kept M Q s0 s)
    (hm : sub 0x830000000 M = true := by exact sub_le (by assumption) (by decide)) : Kept M Q s0 (State.wipePageNow s) := by
  unfold State.wipePageNow
  try dsimp only
  repeat' first
    | with_reducible assumption | with_reducible refine @kept_ite _ _ _ _ _ _ _ ?_ ?_
    | with_reducible refine State.setKeep_kept ?_ _ | simp only [kept_mk] | with_reducible refine Kept.parts ?_

theorem State.lifeChange_kept {M : Nat} {Q : List Instr} {s0 s : State} (hQ : Kept M Q s0 s) (goal : Nat)
    (hm : sub 0x800000003 M = true := by exact sub_le (by assumption) (by decide)) : Kept M Q s0 (State.lifeChange s goal) := by
  unfold State.lifeChange
  try dsimp only
  repeat' first
    | with_reducible assumption | with_reducible refine @kept_ite _ _ _ _ _ _ _ ?_ ?_
    | with_reducible refine Kept.put ?_ _ _ ?_ | exact all_nil_ok | refine all_cons_ok ?_ ?_ | exact ok_le hm (by decide)
    | exact ok_add hm (by decide) | exact ok_add2 hm (by decide) | exact ok_at hm (by decide) | simp only [kept_mk]
    | with_reducible refine Kept.parts ?_

theorem State.wipeEnd_kept {M : Nat} {Q : List Instr} {s0 s : State} (hQ : Kept M Q s0 s) (cores : Nat)
    (hm : sub 0x7af7f7007f M = true := by exact sub_le (by assumption) (by decide)) : Kept M Q s0 (State.wipeEnd s cores)
    := by
  unfold State.wipeEnd
  try dsimp only
  repeat' first
    | with_reducible assumption | with_reducible refine @kept_ite _ _ _ _ _ _ _ ?_ ?_
    | with_reducible refine State.resetVolley_kept ?_ _ | with_reducible refine State.enterRun_kept ?_
    | with_reducible refine State.bootDone_kept ?_ _ | with_reducible refine State.putAll_kept ?_ _ ?_
    | with_reducible refine State.log_kept ?_ _ _ _ _ _ | exact all_nil_ok | refine all_cons_ok ?_ ?_
    | exact ok_le hm (by decide) | exact ok_add hm (by decide) | exact ok_add2 hm (by decide) | exact ok_at hm (by decide)
    | simp only [kept_mk] | with_reducible refine Kept.parts ?_
    | with_reducible refine Kept.partsDev ?_ (Kept.devWf (m := M) (q := Q) (s0 := s0) ?_ rfl rfl rfl rfl) | dsimp only
    | split

theorem State.wipeStepDone_kept {M : Nat} {Q : List Instr} {s0 s : State} (hQ : Kept M Q s0 s) (cores : Nat)
    (hm : sub 0x7bf7ff007f M = true := by exact sub_le (by assumption) (by decide)) : Kept M Q s0 (State.wipeStepDone s
    cores) := by
  unfold State.wipeStepDone
  try dsimp only
  repeat' first
    | with_reducible assumption | with_reducible refine @kept_ite _ _ _ _ _ _ _ ?_ ?_
    | with_reducible refine State.wipeEnd_kept ?_ _ | with_reducible refine State.lifeChange_kept ?_ _
    | with_reducible refine State.wipePageNow_kept ?_ | with_reducible refine State.wipeArray_kept ?_ | simp only [kept_mk]
    | with_reducible refine Kept.parts ?_
    | with_reducible refine Kept.partsDev ?_ (Kept.devWf (m := M) (q := Q) (s0 := s0) ?_ rfl rfl rfl rfl) | dsimp only
    | split

theorem execLcWipeStep_kept {s : State} (hI : State.Inv s) (cores : BitVec 16) : ∃ u, (execLcWipeStep s cores) = .next u ∧
    Kept 0x7bf7ff007f s.pending s u := by
  have hQ := kept_start hI 0x7bf7ff007f
  have hm := sub_refl 0x7bf7ff007f
  unfold execLcWipeStep
  refine ⟨_, rfl, ?_⟩
  try dsimp only
  repeat' first
    | with_reducible assumption | with_reducible refine @kept_ite _ _ _ _ _ _ _ ?_ ?_
    | with_reducible refine State.wipeStepDone_kept ?_ _

theorem execCoreWatchdog_kept {s : State} (hI : State.Inv s) (core : Fin 16) : ∃ u, (execCoreWatchdog core s) = .next u ∧
    Kept 0x7867130070 s.pending s u := by
  have hQ := kept_start hI 0x7867130070
  have hm := sub_refl 0x7867130070
  unfold execCoreWatchdog
  refine ⟨_, rfl, ?_⟩
  try dsimp only
  repeat' first
    | with_reducible assumption | with_reducible refine @kept_ite _ _ _ _ _ _ _ ?_ ?_
    | with_reducible refine State.coreOut_kept ?_ _ | with_reducible refine State.cycleGo_kept ?_

end Sys2Proof.Machine
end

