-- ==== Sys2Proof/Laws/KeptRegisterOps.lean ====
section
/-! SUPPORT. What the definitions of Machine/RegisterOps.lean keep: one lemma `<name>_kept` for each (Laws/Kept.lean). -/

-- Proof bodies are elaborated in order: elaborated in parallel they wait on one another, each in a thread of its own.
set_option Elab.async false

namespace Sys2Proof.Machine
open Sys2Proof

theorem State.readReg_kept {M : Nat} {Q : List Instr} {s0 s : State} (hQ : Kept M Q s0 s) (x : Sender) (a : Nat)
    (hm : sub 0x2381000078 M = true := by exact sub_le (by assumption) (by decide)) : Kept M Q s0 (State.readReg s x a).1 := by
  unfold State.readReg
  try dsimp only
  repeat' first
    | with_reducible assumption | with_reducible refine @kept_ite _ _ _ _ _ _ _ ?_ ?_
    | with_reducible refine @kept_ite_fst _ _ _ _ _ _ _ _ ?_ ?_ | with_reducible refine State.encLatch_kept ?_ _
    | with_reducible refine State.possRead_kept ?_ _ _ | with_reducible refine State.mbPop_kept ?_ _ _ _
    | with_reducible refine State.readData_kept ?_ | with_reducible refine State.readTime_kept ?_ _ _

/-- A fused register is stored what it already reads: its fields are all read-only (R350). -/
theorem written_fused {a : Nat} (ha : fusedReg a = true) (old v : Word) (unlocked : Bool) : written a old v unlocked = old := by
  simp only [fusedReg, Bool.or_eq_true, decide_eq_true_eq] at ha
  have : a < 8 := by omega
  interval_cases a <;> first | rfl | omega

theorem State.storeReg_kept {M : Nat} {Q : List Instr} {s0 s : State} (hQ : Kept M Q s0 s) (a : Nat) (v : Word) (unlocked :
    Bool) (hm : sub 0x7f M = true := by exact sub_le (by assumption) (by decide)) : Kept M Q s0 (State.storeReg s a v
    unlocked) := by
  unfold State.storeReg
  by_cases ha : fusedReg a = true
  · rw [written_fused ha]
    refine hQ.withRegs (Map.wf_set hQ.good.regs _ _) (fun x hx => ?_) (fun x hx => by rw [all_regs (sub_le hm (by decide))] at hx; cases hx)
    by_cases hxa : x = a
    · rw [hxa, Map.get_set_same]
      exact hQ.good.fused a ha
    · rw [Map.get_set_ne _ _ _ hxa]
      exact hQ.good.fused x hx
  · exact hQ.setReg a _ (by
      simp only [okAddr, all_regs hm, Bool.and_true, Bool.not_eq_true']
      simpa using ha)

theorem State.stnWrite_kept {M : Nat} {Q : List Instr} {s0 s : State} (hQ : Kept M Q s0 s) (x : Sender) (n : StnId) (k : Nat)
    (v : Word) (hm : sub 0x3a6793007f M = true := by exact sub_le (by assumption) (by decide)) : Kept M Q s0 (State.stnWrite s
    x n k v) := by
  unfold State.stnWrite
  try dsimp only
  repeat' first
    | with_reducible assumption | with_reducible refine @kept_ite _ _ _ _ _ _ _ ?_ ?_
    | with_reducible refine State.sbCmdWrite_kept ?_ _ _ | with_reducible refine State.trainReq_kept ?_ _
    | with_reducible refine State.magWrite_kept ?_ _ _ | with_reducible refine State.revertReq_kept ?_ _ _ _
    | with_reducible refine State.armReq_kept ?_ _ _ | with_reducible refine State.disarmReq_kept ?_ _ _
    | with_reducible refine State.storeReg_kept ?_ _ _ _ | simp only [kept_mk] | with_reducible refine Kept.parts ?_
    | with_reducible refine Kept.partsDev ?_ (Kept.devWf (m := M) (q := Q) (s0 := s0) ?_ rfl rfl rfl rfl) | dsimp only | split

theorem State.whenOff_kept {M : Nat} {Q : List Instr} {s0 s t : State} (hQ : Kept M Q s0 s) (ht : Kept M Q s0 t) (h : PHost)
    (hm : sub 0x2001000060 M = true := by exact sub_le (by assumption) (by decide)) : Kept M Q s0 (State.whenOff s h t) := by
  unfold State.whenOff
  exact kept_ite ht (State.ringRefuse_kept hQ _ _ _ _)

theorem State.hostCtlWrite_kept {M : Nat} {Q : List Instr} {s0 s : State} (hQ : Kept M Q s0 s) (x : Sender) (h : PHost) (v :
    Word) (hm : sub 0x200110007f M = true := by exact sub_le (by assumption) (by decide)) : Kept M Q s0 (State.hostCtlWrite s
    x h v) := by
  unfold State.hostCtlWrite
  try dsimp only
  repeat' first
    | with_reducible assumption | with_reducible refine @kept_ite _ _ _ _ _ _ _ ?_ ?_
    | with_reducible refine State.whenOff_kept ?_ ?_ _ | with_reducible refine State.cutDiscard_kept ?_ _ _
    | with_reducible refine State.storeReg_kept ?_ _ _ _

theorem State.hostWrite_kept {M : Nat} {Q : List Instr} {s0 s : State} (hQ : Kept M Q s0 s) (x : Sender) (h : PHost) (k : Nat)
    (v : Word) (hm : sub 0x3a6792007f M = true := by exact sub_le (by assumption) (by decide)) : Kept M Q s0 (State.hostWrite
    s x h k v) := by
  unfold State.hostWrite
  try dsimp only
  repeat' first
    | with_reducible assumption | with_reducible refine @kept_ite _ _ _ _ _ _ _ ?_ ?_
    | with_reducible refine State.cqSet_kept ?_ _ _ _ _ | with_reducible refine State.sqSet_kept ?_ _ _ _ _
    | with_reducible refine State.ringRefuse_kept ?_ _ _ _ _ | with_reducible refine State.whenOff_kept ?_ ?_ _
    | with_reducible refine State.hostCtlWrite_kept ?_ _ _ _ | with_reducible refine State.retrain_kept ?_ _ _
    | with_reducible refine State.storeReg_kept ?_ _ _ _

theorem State.idWrite_kept {M : Nat} {Q : List Instr} {s0 s : State} (hQ : Kept M Q s0 s) (x : Sender) (a : Nat) (v : Word)
    (hm : sub 0x787777007f M = true := by exact sub_le (by assumption) (by decide)) : Kept M Q s0 (State.idWrite s x a v) := by
  unfold State.idWrite
  try dsimp only
  repeat' first
    | with_reducible assumption | with_reducible refine @kept_ite _ _ _ _ _ _ _ ?_ ?_
    | with_reducible refine State.storeReg_kept ?_ _ _ _ | with_reducible refine State.warmReset_kept ?_ _ _

theorem State.supWrite_kept {M : Nat} {Q : List Instr} {s0 s : State} (hQ : Kept M Q s0 s) (x : Sender) (a : Nat) (v : Word)
    (hm : sub 0x386713007f M = true := by exact sub_le (by assumption) (by decide)) : Kept M Q s0 (State.supWrite s x a v) := by
  unfold State.supWrite
  try dsimp only
  repeat' first
    | with_reducible assumption | with_reducible refine @kept_ite _ _ _ _ _ _ _ ?_ ?_
    | with_reducible refine State.freeFollow_kept ?_ | with_reducible refine State.powerDown_kept ?_ _
    | with_reducible refine State.wakeReq_kept ?_ _ | with_reducible refine State.warnFollow_kept ?_
    | with_reducible refine State.reload_kept ?_ _ | with_reducible refine State.storeReg_kept ?_ _ _ _

theorem State.rtcWrite_kept {M : Nat} {Q : List Instr} {s0 s : State} (hQ : Kept M Q s0 s) (x : Sender) (a : Nat) (v : Word)
    (hm : sub 0x220100007f M = true := by exact sub_le (by assumption) (by decide)) : Kept M Q s0 (State.rtcWrite s x a v) := by
  unfold State.rtcWrite
  try dsimp only
  repeat' first
    | with_reducible assumption | with_reducible refine @kept_ite _ _ _ _ _ _ _ ?_ ?_
    | with_reducible refine State.alarmWrite_kept ?_ _ _ _ _ | with_reducible refine State.registerSet_kept ?_ _
    | with_reducible refine State.storeReg_kept ?_ _ _ _

theorem State.keepWrite_kept {M : Nat} {Q : List Instr} {s0 s : State} (hQ : Kept M Q s0 s) (x : Sender) (a : Nat) (v : Word)
    (hm : sub 0x3a7793007f M = true := by exact sub_le (by assumption) (by decide)) : Kept M Q s0 (State.keepWrite s x a v) := by
  unfold State.keepWrite
  try dsimp only
  repeat' first
    | with_reducible assumption | with_reducible refine @kept_ite _ _ _ _ _ _ _ ?_ ?_
    | with_reducible refine State.hotWrite_kept ?_ _ _ | with_reducible refine State.settle_kept ?_
    | with_reducible refine State.keepCmd_kept ?_ _ _ _ | with_reducible refine State.loadBuffer_kept ?_ _
    | with_reducible refine State.storeReg_kept ?_ _ _ _ | with_reducible refine State.bpUpdate_kept ?_ _ _
    | with_reducible refine Kept.put ?_ _ _ ?_ | exact all_nil_ok | refine all_cons_ok ?_ ?_ | exact ok_le hm (by decide)

theorem State.umberWrite_kept {M : Nat} {Q : List Instr} {s0 s : State} (hQ : Kept M Q s0 s) (x : Sender) (a : Nat) (v : Word)
    (hm : sub 0x3a7793007f M = true := by exact sub_le (by assumption) (by decide)) : Kept M Q s0 (State.umberWrite s x a v) := by
  unfold State.umberWrite
  try dsimp only
  repeat' first
    | with_reducible assumption | with_reducible refine @kept_ite _ _ _ _ _ _ _ ?_ ?_
    | with_reducible refine State.keepWrite_kept ?_ _ _ _ | with_reducible refine State.rtcWrite_kept ?_ _ _ _

theorem State.mailboxWrite_kept {M : Nat} {Q : List Instr} {s0 s : State} (hQ : Kept M Q s0 s) (x : Sender) (a : Nat) (v :
    Word) (hm : sub 0x218100007f M = true := by exact sub_le (by assumption) (by decide)) : Kept M Q s0 (State.mailboxWrite s
    x a v) := by
  unfold State.mailboxWrite
  try dsimp only
  repeat' first
    | with_reducible assumption | with_reducible refine @kept_ite _ _ _ _ _ _ _ ?_ ?_
    | with_reducible refine State.possForce_kept ?_ _ _ _ | with_reducible refine State.possWrite_kept ?_ _ _ _
    | with_reducible refine State.storeReg_kept ?_ _ _ _ | with_reducible refine State.mbBind_kept ?_ _ _
    | with_reducible refine State.mbWrite_kept ?_ _ _ _ _ | simp only [kept_mk] | with_reducible refine Kept.parts ?_
    | with_reducible refine Kept.partsDev ?_ (Kept.devWf (m := M) (q := Q) (s0 := s0) ?_ rfl rfl rfl rfl) | dsimp only | split

theorem State.arrayWrite_kept {M : Nat} {Q : List Instr} {s0 s : State} (hQ : Kept M Q s0 s) (x : Sender) (a : Nat) (v : Word)
    (hm : sub 0x3a67d7007f M = true := by exact sub_le (by assumption) (by decide)) : Kept M Q s0 (State.arrayWrite s x a v) := by
  unfold State.arrayWrite
  try dsimp only
  repeat' first
    | with_reducible assumption | with_reducible refine @kept_ite _ _ _ _ _ _ _ ?_ ?_
    | with_reducible refine State.partSet_kept ?_ _ _ _ | with_reducible refine State.forwardEnd_kept ?_ _ _
    | with_reducible refine State.storeReg_kept ?_ _ _ _

theorem State.volWrite_kept {M : Nat} {Q : List Instr} {s0 s : State} (hQ : Kept M Q s0 s) (x : Sender) (a : Nat) (v : Word)
    (hm : sub 0x200101007f M = true := by exact sub_le (by assumption) (by decide)) : Kept M Q s0 (State.volWrite s x a v) := by
  unfold State.volWrite
  try dsimp only
  repeat' first
    | with_reducible assumption | with_reducible refine @kept_ite _ _ _ _ _ _ _ ?_ ?_
    | with_reducible refine State.watch_kept ?_ _ | with_reducible refine State.ckptReq_kept ?_ _
    | with_reducible refine State.storeReg_kept ?_ _ _ _

theorem State.ledWrite_kept {M : Nat} {Q : List Instr} {s0 s : State} (hQ : Kept M Q s0 s) (x : Sender) (a : Nat) (v : Word)
    (hm : sub 0x4000007f M = true := by exact sub_le (by assumption) (by decide)) : Kept M Q s0 (State.ledWrite s x a v) := by
  unfold State.ledWrite
  try dsimp only
  repeat' first
    | with_reducible assumption | with_reducible refine @kept_ite _ _ _ _ _ _ _ ?_ ?_
    | with_reducible refine State.setCredit_kept ?_ _ _ | with_reducible refine State.ledCntSel_kept ?_ _ _
    | with_reducible refine State.storeReg_kept ?_ _ _ _ | with_reducible refine kept_foldl (fun t x ht => ?_) _ _ ?_

theorem State.swpWrite_kept {M : Nat} {Q : List Instr} {s0 s : State} (hQ : Kept M Q s0 s) (x : Sender) (a : Nat) (v :
    Word) (hm : sub 0x280510007f M = true := by exact sub_le (by assumption) (by decide)) : Kept M Q s0 (State.swpWrite s
    x a v) := by
  unfold State.swpWrite
  try dsimp only
  repeat' first
    | with_reducible assumption | with_reducible refine @kept_ite _ _ _ _ _ _ _ ?_ ?_
    | with_reducible refine State.storeReg_kept ?_ _ _ _ | with_reducible refine State.swpLogSel_kept ?_ _
    | with_reducible refine State.runNow_kept ?_ | with_reducible refine State.cycleGo_kept ?_
    | with_reducible refine State.dropWindow_kept ?_ | exact all_nil_ok | refine all_cons_ok ?_ ?_
    | exact ok_le hm (by decide) | exact ok_add hm (by decide) | exact ok_add2 hm (by decide) | exact ok_at hm (by decide)
    | dsimp only | split

theorem State.fwWrite_kept {M : Nat} {Q : List Instr} {s0 s : State} (hQ : Kept M Q s0 s) (x : Sender) (a : Nat) (v : Word)
    (hm : sub 0x3ae792007f M = true := by exact sub_le (by assumption) (by decide)) : Kept M Q s0 (State.fwWrite s x a v) := by
  unfold State.fwWrite
  try dsimp only
  repeat' first
    | with_reducible assumption | with_reducible refine @kept_ite _ _ _ _ _ _ _ ?_ ?_
    | with_reducible refine State.storeReg_kept ?_ _ _ _ | with_reducible refine State.tokenWord_kept ?_ _ _
    | with_reducible refine State.lcApply_kept ?_ _ | with_reducible refine State.eraseReq_kept ?_ _ _
    | with_reducible refine State.activateReq_kept ?_ _ | with_reducible refine State.loadReq_kept ?_ _ | simp only [kept_mk]
    | with_reducible refine Kept.parts ?_
    | with_reducible refine Kept.partsDev ?_ (Kept.devWf (m := M) (q := Q) (s0 := s0) ?_ rfl rfl rfl rfl) | dsimp only | split

theorem State.writeReg_kept {M : Nat} {Q : List Instr} {s0 s : State} (hQ : Kept M Q s0 s) (x : Sender) (a : Nat) (v : Word)
    (hm : sub 0x7bf7f7007f M = true := by exact sub_le (by assumption) (by decide)) : Kept M Q s0 (State.writeReg s x a v) := by
  unfold State.writeReg
  try dsimp only
  repeat' first
    | with_reducible assumption | with_reducible refine @kept_ite _ _ _ _ _ _ _ ?_ ?_
    | with_reducible refine State.fwWrite_kept ?_ _ _ _ | with_reducible refine State.swpWrite_kept ?_ _ _ _
    | with_reducible refine State.ledWrite_kept ?_ _ _ _ | with_reducible refine State.stnWrite_kept ?_ _ _ _ _
    | with_reducible refine State.hostWrite_kept ?_ _ _ _ _ | with_reducible refine State.volWrite_kept ?_ _ _ _
    | with_reducible refine State.arrayWrite_kept ?_ _ _ _ | with_reducible refine State.mailboxWrite_kept ?_ _ _ _
    | with_reducible refine State.umberWrite_kept ?_ _ _ _ | with_reducible refine State.supWrite_kept ?_ _ _ _
    | with_reducible refine State.idWrite_kept ?_ _ _ _ | simp only [kept_mk] | with_reducible refine Kept.parts ?_
    | with_reducible refine Kept.partsDev ?_ (Kept.devWf (m := M) (q := Q) (s0 := s0) ?_ rfl rfl rfl rfl) | dsimp only | split

end Sys2Proof.Machine
end

