-- ==== Sys2Proof/Laws/KeptBarOps.lean ====
section
/-! SUPPORT. What the definitions of Machine/BarOps.lean keep: one lemma `<name>_kept` for each (Laws/Kept.lean). -/

-- Proof bodies are elaborated in order: elaborated in parallel they wait on one another, each in a thread of its own.
set_option Elab.async false

namespace Sys2Proof.Machine
open Sys2Proof

theorem State.sendPending_kept {M : Nat} {Q : List Instr} {s0 s : State} (hQ : Kept M Q s0 s) (h : PHost)
    (hm : sub 0x2001000000 M = true := by exact sub_le (by assumption) (by decide)) : Kept M Q s0 (State.sendPending s h)
    := by
  unfold State.sendPending
  try dsimp only
  repeat' first
    | with_reducible assumption | with_reducible refine @kept_ite _ _ _ _ _ _ _ ?_ ?_
    | with_reducible refine State.msix_kept ?_ _ _ | with_reducible refine State.setHost_kept ?_ _ _
    | with_reducible refine kept_foldl (fun t x ht => ?_) _ _ ?_
    | with_reducible refine kept_foldl_fst (fun t x ht => ?_) _ _ ?_ | simp only [kept_mk]
    | with_reducible refine Kept.parts ?_
    | with_reducible refine Kept.partsDev ?_ (Kept.devWf (m := M) (q := Q) (s0 := s0) ?_ rfl rfl rfl rfl) | dsimp only
    | split

theorem State.powerState_kept {M : Nat} {Q : List Instr} {s0 s : State} (hQ : Kept M Q s0 s) (h : PHost) (goal : Nat)
    (hm : sub 0x3ae792007f M = true := by exact sub_le (by assumption) (by decide)) : Kept M Q s0 (State.powerState s h
    goal) := by
  unfold State.powerState
  try dsimp only
  repeat' first
    | with_reducible assumption | with_reducible refine @kept_ite _ _ _ _ _ _ _ ?_ ?_
    | with_reducible refine State.functionReset_kept ?_ _ _ | with_reducible refine State.setHost_kept ?_ _ _
    | simp only [kept_mk] | with_reducible refine Kept.parts ?_
    | with_reducible refine Kept.partsDev ?_ (Kept.devWf (m := M) (q := Q) (s0 := s0) ?_ rfl rfl rfl rfl) | dsimp only
    | split

theorem State.cfgStore_kept {M : Nat} {Q : List Instr} {s0 s : State} (hQ : Kept M Q s0 s) (h : PHost) (d : Nat) (be :
    BitVec 4) (v : BitVec 32) (hm : sub 0x3ae792007f M = true := by exact sub_le (by assumption) (by decide)) : Kept M Q
    s0 (State.cfgStore s h d be v) := by
  unfold State.cfgStore
  try dsimp only
  repeat' first
    | with_reducible assumption | with_reducible refine @kept_ite _ _ _ _ _ _ _ ?_ ?_
    | with_reducible refine State.powerState_kept ?_ _ _ | with_reducible refine State.sendPending_kept ?_ _
    | with_reducible refine State.functionReset_kept ?_ _ _ | with_reducible refine State.settle_kept ?_
    | with_reducible refine State.replayWrite_kept ?_ _ | with_reducible refine State.issueFetches_kept ?_ _
    | with_reducible refine State.setHost_kept ?_ _ _ | dsimp only | split

theorem State.cfgWrite_kept {M : Nat} {Q : List Instr} {s0 s : State} (hQ : Kept M Q s0 s) (h : PHost) (d : Nat) (be :
    BitVec 4) (v : BitVec 32) (hm : sub 0x3ae792007f M = true := by exact sub_le (by assumption) (by decide)) : Kept M Q
    s0 (State.cfgWrite s h d be v) := by
  unfold State.cfgWrite
  try dsimp only
  repeat' first
    | with_reducible assumption | with_reducible refine @kept_ite _ _ _ _ _ _ _ ?_ ?_
    | with_reducible refine State.cfgStore_kept ?_ _ _ _ _ | with_reducible refine State.leaveL1_kept ?_ _
    | with_reducible refine State.emit_kept ?_ _

theorem State.cfgRead_kept {M : Nat} {Q : List Instr} {s0 s : State} (hQ : Kept M Q s0 s) (h : PHost) (d : BitVec 10)
    (hm : sub 0x2001000000 M = true := by exact sub_le (by assumption) (by decide)) : Kept M Q s0 (State.cfgRead s h d) :=
    by
  unfold State.cfgRead
  try dsimp only
  repeat' first
    | with_reducible assumption | with_reducible refine @kept_ite _ _ _ _ _ _ _ ?_ ?_
    | with_reducible refine State.leaveL1_kept ?_ _ | with_reducible refine State.emit_kept ?_ _

theorem State.noBar_kept {M : Nat} {Q : List Instr} {s0 s : State} (hQ : Kept M Q s0 s) (h : PHost) (write : Bool)
    (hm : sub 0x2001000000 M = true := by exact sub_le (by assumption) (by decide)) : Kept M Q s0 (State.noBar s h write)
    := by
  unfold State.noBar
  try dsimp only
  repeat' first
    | with_reducible assumption | with_reducible refine @kept_ite _ _ _ _ _ _ _ ?_ ?_
    | with_reducible refine State.reportError_kept ?_ _ _ _ | with_reducible refine State.leaveL1_kept ?_ _
    | with_reducible refine State.emit_kept ?_ _

theorem State.vectorWrite_kept {M : Nat} {Q : List Instr} {s0 s : State} (hQ : Kept M Q s0 s) (h : PHost) (i : Nat) (v :
    BitVec 32) (hm : sub 0x2001000000 M = true := by exact sub_le (by assumption) (by decide)) : Kept M Q s0
    (State.vectorWrite s h i v) := by
  unfold State.vectorWrite
  try dsimp only
  repeat' first
    | with_reducible assumption | with_reducible refine @kept_ite _ _ _ _ _ _ _ ?_ ?_
    | with_reducible refine State.unmask_kept ?_ _ _ | with_reducible refine State.setHost_kept ?_ _ _ | simp only [kept_mk]
    | with_reducible refine Kept.parts ?_
    | with_reducible refine Kept.partsDev ?_ (Kept.devWf (m := M) (q := Q) (s0 := s0) ?_ rfl rfl rfl rfl) | dsimp only
    | split

theorem State.barWrite_kept {M : Nat} {Q : List Instr} {s0 s : State} (hQ : Kept M Q s0 s) (h : PHost) (off : Nat) (dwords
    : Nat) (be : BitVec 4) (v : BitVec 32) (hm : sub 0x7bf7f7007f M = true := by exact sub_le (by assumption) (by decide))
    : Kept M Q s0 (State.barWrite s h off dwords be v) := by
  unfold State.barWrite
  try dsimp only
  repeat' first
    | with_reducible assumption | with_reducible refine @kept_ite _ _ _ _ _ _ _ ?_ ?_
    | with_reducible refine State.vectorWrite_kept ?_ _ _ _ | with_reducible refine State.noBar_kept ?_ _ _
    | with_reducible refine State.writeReg_kept ?_ _ _ _ | with_reducible refine State.reportError_kept ?_ _ _ _

theorem State.barRead_kept {M : Nat} {Q : List Instr} {s0 s : State} (hQ : Kept M Q s0 s) (h : PHost) (off : BitVec 15)
    (dwords : Nat) (hm : sub 0x2381000078 M = true := by exact sub_le (by assumption) (by decide)) : Kept M Q s0
    (State.barRead s h off dwords) := by
  unfold State.barRead
  try dsimp only
  repeat' first
    | with_reducible assumption | with_reducible refine @kept_ite _ _ _ _ _ _ _ ?_ ?_
    | with_reducible refine State.noBar_kept ?_ _ _ | with_reducible refine State.readReg_kept ?_ _ _
    | with_reducible refine State.reportError_kept ?_ _ _ _ | with_reducible refine State.leaveL1_kept ?_ _
    | with_reducible refine State.emit_kept ?_ _ | dsimp only | split

theorem State.barAccess_kept {M : Nat} {Q : List Instr} {s0 s : State} (hQ : Kept M Q s0 s) (h : PHost) (off : BitVec 15)
    (q : RegRequest) (hm : sub 0x7bf7f7007f M = true := by exact sub_le (by assumption) (by decide)) : Kept M Q s0
    (State.barAccess s h off q) := by
  unfold State.barAccess
  try dsimp only
  repeat' first
    | with_reducible assumption | with_reducible refine @kept_ite _ _ _ _ _ _ _ ?_ ?_
    | with_reducible refine State.barRead_kept ?_ _ _ _ | with_reducible refine State.barWrite_kept ?_ _ _ _ _ _
    | simp only [kept_mk] | with_reducible refine Kept.parts ?_
    | with_reducible refine Kept.partsDev ?_ (Kept.devWf (m := M) (q := Q) (s0 := s0) ?_ rfl rfl rfl rfl) | dsimp only
    | split

theorem State.cfgAccess_kept {M : Nat} {Q : List Instr} {s0 s : State} (hQ : Kept M Q s0 s) (h : PHost) (d : Nat) (q :
    RegRequest) (hm : sub 0x3ae792007f M = true := by exact sub_le (by assumption) (by decide)) : Kept M Q s0
    (State.cfgAccess s h d q) := by
  unfold State.cfgAccess
  try dsimp only
  repeat' first
    | with_reducible assumption | with_reducible refine @kept_ite _ _ _ _ _ _ _ ?_ ?_
    | with_reducible refine State.cfgRead_kept ?_ _ _ | with_reducible refine State.cfgWrite_kept ?_ _ _ _ _
    | simp only [kept_mk] | with_reducible refine Kept.parts ?_
    | with_reducible refine Kept.partsDev ?_ (Kept.devWf (m := M) (q := Q) (s0 := s0) ?_ rfl rfl rfl rfl) | dsimp only
    | split

theorem State.hostAccess_kept {M : Nat} {Q : List Instr} {s0 s : State} (hQ : Kept M Q s0 s) (h : PHost) (p : RegPlace) (q
    : RegRequest) (hm : sub 0x7bf7f7007f M = true := by exact sub_le (by assumption) (by decide)) : Kept M Q s0
    (State.hostAccess s h p q) := by
  unfold State.hostAccess
  try dsimp only
  repeat' first
    | with_reducible assumption | with_reducible refine @kept_ite _ _ _ _ _ _ _ ?_ ?_
    | with_reducible refine State.cfgAccess_kept ?_ _ _ _ | with_reducible refine State.barAccess_kept ?_ _ _ _
    | with_reducible refine State.noBar_kept ?_ _ _ | simp only [kept_mk] | with_reducible refine Kept.parts ?_
    | with_reducible refine Kept.partsDev ?_ (Kept.devWf (m := M) (q := Q) (s0 := s0) ?_ rfl rfl rfl rfl) | dsimp only
    | split

theorem State.regAccess_kept {M : Nat} {Q : List Instr} {s0 s : State} (hQ : Kept M Q s0 s) (x : Sender) (p : RegPlace) (q
    : RegRequest) (hm : sub 0x7bf7f7007f M = true := by exact sub_le (by assumption) (by decide)) : Kept M Q s0
    (State.regAccess s x p q) := by
  unfold State.regAccess
  try dsimp only
  repeat' first
    | with_reducible assumption | with_reducible refine @kept_ite _ _ _ _ _ _ _ ?_ ?_
    | with_reducible refine State.hostAccess_kept ?_ _ _ _ | with_reducible refine State.writeReg_kept ?_ _ _ _
    | simp only [kept_mk] | with_reducible refine Kept.parts ?_
    | with_reducible refine Kept.partsDev ?_ (Kept.devWf (m := M) (q := Q) (s0 := s0) ?_ rfl rfl rfl rfl) | dsimp only
    | split

end Sys2Proof.Machine
end

