-- ==== Sys2Proof/Laws/KeptMport.lean ====
section
/-! SUPPORT. What the definitions of Machine/Mport.lean keep: one lemma `<name>_kept` for each (Laws/Kept.lean). -/

-- Proof bodies are elaborated in order: elaborated in parallel they wait on one another, each in a thread of its own.
set_option Elab.async false

namespace Sys2Proof.Machine
open Sys2Proof

theorem State.frameEnd_kept {M : Nat} {Q : List Instr} {s0 s : State} (hQ : Kept M Q s0 s) (addr : Nat) (rd : Option Word)
    (rej : Bool) (hm : sub 0x400000000 M = true := by exact sub_le (by assumption) (by decide)) : Kept M Q s0 (State.frameEnd
    s addr rd rej) := by
  unfold State.frameEnd
  try dsimp only
  repeat' first
    | with_reducible assumption | with_reducible refine @kept_ite _ _ _ _ _ _ _ ?_ ?_ | simp only [kept_mk]
    | with_reducible refine Kept.parts ?_

theorem State.frameRefuse_kept {M : Nat} {Q : List Instr} {s0 s : State} (hQ : Kept M Q s0 s) (reason : Nat) (addr : Nat)
    (hm : sub 0x400000001 M = true := by exact sub_le (by assumption) (by decide)) : Kept M Q s0 (State.frameRefuse s reason
    addr) := by
  unfold State.frameRefuse
  try dsimp only
  repeat' first
    | with_reducible assumption | with_reducible refine @kept_ite _ _ _ _ _ _ _ ?_ ?_
    | with_reducible refine State.frameEnd_kept ?_ _ _ _ | with_reducible refine Kept.put ?_ _ _ ?_ | exact all_nil_ok
    | refine all_cons_ok ?_ ?_ | exact ok_le hm (by decide)

theorem State.frameWrite_kept {M : Nat} {Q : List Instr} {s0 s : State} (hQ : Kept M Q s0 s) (a : Nat) (v : Word)
    (hm : sub 0x7ff7f7007f M = true := by exact sub_le (by assumption) (by decide)) : Kept M Q s0 (State.frameWrite s a v) := by
  unfold State.frameWrite
  try dsimp only
  repeat' first
    | with_reducible assumption | with_reducible refine @kept_ite _ _ _ _ _ _ _ ?_ ?_
    | with_reducible refine State.writeReg_kept ?_ _ _ _ | with_reducible refine State.frameEnd_kept ?_ _ _ _
    | with_reducible refine State.frameRefuse_kept ?_ _ _

theorem State.frameRead_kept {M : Nat} {Q : List Instr} {s0 s : State} (hQ : Kept M Q s0 s) (a : Nat)
    (hm : sub 0x2781000079 M = true := by exact sub_le (by assumption) (by decide)) : Kept M Q s0 (State.frameRead s a) := by
  unfold State.frameRead
  try dsimp only
  repeat' first
    | with_reducible assumption | with_reducible refine @kept_ite _ _ _ _ _ _ _ ?_ ?_
    | with_reducible refine State.frameEnd_kept ?_ _ _ _ | with_reducible refine State.readReg_kept ?_ _ _
    | with_reducible refine State.frameRefuse_kept ?_ _ _

theorem State.shiftOut_kept {M : Nat} {Q : List Instr} {s0 s : State} (hQ : Kept M Q s0 s) (start : FrameStart)
    (hm : sub 0x2000000000 M = true := by exact sub_le (by assumption) (by decide)) : Kept M Q s0 (State.shiftOut s start)
    := by
  unfold State.shiftOut
  try dsimp only
  repeat' first
    | with_reducible assumption | with_reducible refine @kept_ite _ _ _ _ _ _ _ ?_ ?_
    | with_reducible refine State.emit_kept ?_ _

theorem execMportNop_kept {s : State} (hI : State.Inv s) (start : FrameStart) (addr : BitVec 12) : ∃ u, (execMportNop
    start s addr) = .next u ∧ Kept 0x2400000000 s.pending s u := by
  have hQ := kept_start hI 0x2400000000
  have hm := sub_refl 0x2400000000
  unfold execMportNop
  refine ⟨_, rfl, ?_⟩
  try dsimp only
  repeat' first
    | with_reducible assumption | with_reducible refine @kept_ite _ _ _ _ _ _ _ ?_ ?_
    | with_reducible refine State.shiftOut_kept ?_ _ | with_reducible refine State.frameEnd_kept ?_ _ _ _

theorem execMportWrite_kept {s : State} (hI : State.Inv s) (start : FrameStart) (addr : BitVec 12) (data : Word) : ∃ u,
    (execMportWrite start addr data s) = .next u ∧ Kept 0x7ff7f7007f s.pending s u := by
  have hQ := kept_start hI 0x7ff7f7007f
  have hm := sub_refl 0x7ff7f7007f
  unfold execMportWrite
  refine ⟨_, rfl, ?_⟩
  try dsimp only
  repeat' first
    | with_reducible assumption | with_reducible refine @kept_ite _ _ _ _ _ _ _ ?_ ?_
    | with_reducible refine State.shiftOut_kept ?_ _ | with_reducible refine State.frameWrite_kept ?_ _ _

theorem execMportRead_kept {s : State} (hI : State.Inv s) (start : FrameStart) (addr : BitVec 12) : ∃ u, (execMportRead
    start addr s) = .next u ∧ Kept 0x2781000079 s.pending s u := by
  have hQ := kept_start hI 0x2781000079
  have hm := sub_refl 0x2781000079
  unfold execMportRead
  refine ⟨_, rfl, ?_⟩
  try dsimp only
  repeat' first
    | with_reducible assumption | with_reducible refine @kept_ite _ _ _ _ _ _ _ ?_ ?_
    | with_reducible refine State.shiftOut_kept ?_ _ | with_reducible refine State.frameRead_kept ?_ _

theorem State.frameBad_kept {M : Nat} {Q : List Instr} {s0 s : State} (hQ : Kept M Q s0 s) (opcode : Byte) (addr : BitVec 14)
    (hm : sub 0x400000001 M = true := by exact sub_le (by assumption) (by decide)) : Kept M Q s0 (State.frameBad s opcode
    addr) := by
  unfold State.frameBad
  try dsimp only
  repeat' first
    | with_reducible assumption | with_reducible refine @kept_ite _ _ _ _ _ _ _ ?_ ?_
    | with_reducible refine State.frameRefuse_kept ?_ _ _

theorem execFrameRefused_kept {s : State} (hI : State.Inv s) (start : FrameStart) (opcode : Byte) (addr : BitVec 14) : ∃
    u, (execFrameRefused start opcode addr s) = .next u ∧ Kept 0x2400000001 s.pending s u := by
  have hQ := kept_start hI 0x2400000001
  have hm := sub_refl 0x2400000001
  unfold execFrameRefused
  refine ⟨_, rfl, ?_⟩
  try dsimp only
  repeat' first
    | with_reducible assumption | with_reducible refine @kept_ite _ _ _ _ _ _ _ ?_ ?_
    | with_reducible refine State.frameBad_kept ?_ _ _ | with_reducible refine State.shiftOut_kept ?_ _

theorem execShortFrame_kept {s : State} (hI : State.Inv s) (edges : Nat) : ∃ u, (execShortFrame edges s) = .next u ∧ Kept 0x1
    s.pending s u := by
  have hQ := kept_start hI 0x1
  have hm := sub_refl 0x1
  unfold execShortFrame
  refine ⟨_, rfl, ?_⟩
  try dsimp only
  repeat' first
    | with_reducible assumption | with_reducible refine @kept_ite _ _ _ _ _ _ _ ?_ ?_
    | with_reducible refine Kept.put ?_ _ _ ?_ | exact all_nil_ok | refine all_cons_ok ?_ ?_ | exact ok_le hm (by decide)

theorem State.setTap_kept {M : Nat} {Q : List Instr} {s0 s : State} (hQ : Kept M Q s0 s) (umberTap : Bool) (i : TapInstr)
    (hm : sub 0x800000000 M = true := by exact sub_le (by assumption) (by decide)) : Kept M Q s0 (State.setTap s umberTap
    i) := by
  unfold State.setTap
  try dsimp only
  repeat' first
    | with_reducible assumption | with_reducible refine @kept_ite _ _ _ _ _ _ _ ?_ ?_ | simp only [kept_mk]
    | with_reducible refine Kept.parts ?_
    | with_reducible refine Kept.partsDev ?_ (Kept.devWf (m := M) (q := Q) (s0 := s0) ?_ rfl rfl rfl rfl)

theorem State.tapScan_kept {M : Nat} {Q : List Instr} {s0 s : State} (hQ : Kept M Q s0 s) (umberTap : Bool) (levels : Nat)
    (shift : List Bool) (hm : sub 0x2800000000 M = true := by exact sub_le (by assumption) (by decide)) : Kept M Q s0
    (State.tapScan s umberTap levels shift) := by
  unfold State.tapScan
  try dsimp only
  repeat' first
    | with_reducible assumption | with_reducible refine @kept_ite _ _ _ _ _ _ _ ?_ ?_
    | with_reducible refine State.emit_kept ?_ _ | simp only [kept_mk] | with_reducible refine Kept.parts ?_
    | with_reducible refine Kept.partsDev ?_ (Kept.devWf (m := M) (q := Q) (s0 := s0) ?_ rfl rfl rfl rfl) | dsimp only
    | split

theorem execTapInstruction_kept {s : State} (hI : State.Inv s) (umber : Bool) (op : TapOp) : ∃ u, (execTapInstruction
    umber op s) = .next u ∧ Kept 0x2800000000 s.pending s u := by
  have hQ := kept_start hI 0x2800000000
  have hm := sub_refl 0x2800000000
  unfold execTapInstruction
  refine ⟨_, rfl, ?_⟩
  try dsimp only
  repeat' first
    | with_reducible assumption | with_reducible refine @kept_ite _ _ _ _ _ _ _ ?_ ?_
    | with_reducible refine State.tapScan_kept ?_ _ _ _ | with_reducible refine State.setTap_kept ?_ _ _
    | with_reducible refine State.emit_kept ?_ _ | simp only [kept_mk] | with_reducible refine Kept.parts ?_
    | with_reducible refine Kept.partsDev ?_ (Kept.devWf (m := 0x2800000000) (q := s.pending) (s0 := s) ?_ rfl rfl rfl rfl)
    | dsimp only | split

end Sys2Proof.Machine
end

