-- ==== Sys2Proof/Laws/KeptRegisterAccess.lean ====
section
/-! SUPPORT. What the definitions of Machine/RegisterAccess.lean keep: one lemma `<name>_kept` for each (Laws/Kept.lean). -/

-- Proof bodies are elaborated in order: elaborated in parallel they wait on one another, each in a thread of its own.
set_option Elab.async false

namespace Sys2Proof.Machine
open Sys2Proof

theorem execRegisterWrite_kept {s : State} (hI : State.Inv s) (from_ : Sender) (addr : RegPlace) (value : RegRequest) : ∃
    u, (execRegisterWrite from_ addr value s) = .next u ∧ Kept 0x7bf7f7007f s.pending s u := by
  have hQ := kept_start hI 0x7bf7f7007f
  have hm := sub_refl 0x7bf7f7007f
  unfold execRegisterWrite
  refine ⟨_, rfl, ?_⟩
  try dsimp only
  repeat' first
    | with_reducible assumption | with_reducible refine @kept_ite _ _ _ _ _ _ _ ?_ ?_
    | with_reducible refine State.regAccess_kept ?_ _ _ _

end Sys2Proof.Machine
end

