-- ==== Sys2Proof/Laws/KeptRtc.lean ====
section
/-! SUPPORT. What the definitions of Machine/Rtc.lean keep: one lemma `<name>_kept` for each (Laws/Kept.lean). -/

-- Proof bodies are elaborated in order: elaborated in parallel they wait on one another, each in a thread of its own.
set_option Elab.async false

namespace Sys2Proof.Machine
open Sys2Proof

theorem State.alarmsTick_kept {M : Nat} {Q : List Instr} {s0 s : State} (hQ : Kept M Q s0 s)
    (hm : sub 0x220100007e M = true := by exact sub_le (by assumption) (by decide)) : Kept M Q s0 (State.alarmsTick s) := by
  unfold State.alarmsTick
  try dsimp only
  repeat' first
    | with_reducible assumption | with_reducible refine @kept_ite _ _ _ _ _ _ _ ?_ ?_
    | with_reducible refine State.alarmTick_kept ?_ _

theorem execRtcTick_kept {s : State} (hI : State.Inv s) : ∃ u, (execRtcTick s) = .next u ∧ Kept 0x220100007e s.pending s u := by
  have hQ := kept_start hI 0x220100007e
  have hm := sub_refl 0x220100007e
  unfold execRtcTick
  refine ⟨_, rfl, ?_⟩
  try dsimp only
  repeat' first
    | with_reducible assumption | with_reducible refine @kept_ite _ _ _ _ _ _ _ ?_ ?_
    | with_reducible refine State.setOsf_kept ?_ _ ?_ | with_reducible refine State.alarmsTick_kept ?_ | exact all_nil_ok
    | refine all_cons_ok ?_ ?_ | exact ok_le hm (by decide) | exact ok_add hm (by decide) | exact ok_add2 hm (by decide)
    | exact ok_at hm (by decide) | simp only [kept_mk] | with_reducible refine Kept.parts ?_

theorem execTrimWindow_kept {s : State} (hI : State.Inv s) : ∃ u, (execTrimWindow s) = .next u ∧ Kept 0x200000000 s.pending s
    u := by
  have hQ := kept_start hI 0x200000000
  have hm := sub_refl 0x200000000
  unfold execTrimWindow
  refine ⟨_, rfl, ?_⟩
  try dsimp only
  repeat' first
    | with_reducible assumption | with_reducible refine @kept_ite _ _ _ _ _ _ _ ?_ ?_ | simp only [kept_mk]
    | with_reducible refine Kept.parts ?_

theorem execAlarmWrite_kept {s : State} (hI : State.Inv s) (from_ : Sender) (k : Fin 2) (word : Fin 3) (value : Word) : ∃ u,
    (execAlarmWrite from_ k word value s) = .next u ∧ Kept 0x20000007c s.pending s u := by
  have hQ := kept_start hI 0x20000007c
  have hm := sub_refl 0x20000007c
  unfold execAlarmWrite
  refine ⟨_, rfl, ?_⟩
  try dsimp only
  repeat' first
    | with_reducible assumption | with_reducible refine @kept_ite _ _ _ _ _ _ _ ?_ ?_
    | with_reducible refine State.alarmWrite_kept ?_ _ _ _ _

theorem execAlarmComputeDone_kept {s : State} (hI : State.Inv s) (k : Fin 2) : ∃ u, (execAlarmComputeDone k s) = .next u ∧
    Kept 0x220100007e s.pending s u := by
  have hQ := kept_start hI 0x220100007e
  have hm := sub_refl 0x220100007e
  unfold execAlarmComputeDone
  refine ⟨_, rfl, ?_⟩
  try dsimp only
  repeat' first
    | with_reducible assumption | with_reducible refine @kept_ite _ _ _ _ _ _ _ ?_ ?_
    | with_reducible refine State.alarmDone_kept ?_ _

theorem execRegisterSet_kept {s : State} (hI : State.Inv s) (from_ : Sender) : ∃ u, (execRegisterSet from_ s) = .next u ∧ Kept
    0x220100007e s.pending s u := by
  have hQ := kept_start hI 0x220100007e
  have hm := sub_refl 0x220100007e
  unfold execRegisterSet
  refine ⟨_, rfl, ?_⟩
  try dsimp only
  repeat' first
    | with_reducible assumption | with_reducible refine @kept_ite _ _ _ _ _ _ _ ?_ ?_
    | with_reducible refine State.registerSet_kept ?_ _

theorem execTimeBlockRead_kept {s : State} (hI : State.Inv s) (from_ : Sender) (word : Fin 6) : ∃ u, (execTimeBlockRead from_
    word s) = .next u ∧ Kept 0x2200000000 s.pending s u := by
  have hQ := kept_start hI 0x2200000000
  have hm := sub_refl 0x2200000000
  unfold execTimeBlockRead
  refine ⟨_, rfl, ?_⟩
  try dsimp only
  repeat' first
    | with_reducible assumption | with_reducible refine @kept_ite _ _ _ _ _ _ _ ?_ ?_
    | with_reducible refine State.answer_kept ?_ _ _ _ | with_reducible refine State.readTime_kept ?_ _ _

theorem execShadowRelease_kept {s : State} (hI : State.Inv s) (from_ : Sender) : ∃ u, (execShadowRelease from_ s) = .next u ∧
    Kept 0x200000000 s.pending s u := by
  have hQ := kept_start hI 0x200000000
  have hm := sub_refl 0x200000000
  unfold execShadowRelease
  refine ⟨_, rfl, ?_⟩
  try dsimp only
  repeat' first
    | with_reducible assumption | with_reducible refine @kept_ite _ _ _ _ _ _ _ ?_ ?_
    | with_reducible refine State.setShadow_kept ?_ _ _

theorem execRetentionFail_kept {s : State} (hI : State.Inv s) : ∃ u, (execRetentionFail s) = .next u ∧ Kept 0x2001010004
    s.pending s u := by
  have hQ := kept_start hI 0x2001010004
  have hm := sub_refl 0x2001010004
  unfold execRetentionFail
  refine ⟨_, rfl, ?_⟩
  try dsimp only
  repeat' first
    | with_reducible assumption | with_reducible refine @kept_ite _ _ _ _ _ _ _ ?_ ?_
    | with_reducible refine State.setOsf_kept ?_ _ ?_ | exact all_nil_ok | refine all_cons_ok ?_ ?_
    | exact ok_le hm (by decide) | exact ok_add hm (by decide) | exact ok_add2 hm (by decide) | exact ok_at hm (by decide)
    | simp only [kept_mk] | with_reducible refine Kept.parts ?_

theorem execCellAttach_kept {s : State} (hI : State.Inv s) : ∃ u, (execCellAttach s) = .next u ∧ Kept 0x20001002e s.pending s
    u := by
  have hQ := kept_start hI 0x20001002e
  have hm := sub_refl 0x20001002e
  unfold execCellAttach
  refine ⟨_, rfl, ?_⟩
  try dsimp only
  repeat' first
    | with_reducible assumption | with_reducible refine @kept_ite _ _ _ _ _ _ _ ?_ ?_
    | with_reducible refine State.attach_kept ?_

theorem execVbatReturn_kept {s : State} (hI : State.Inv s) : ∃ u, (execVbatReturn s) = .next u ∧ Kept 0x10000 s.pending s u := by
  have hQ := kept_start hI 0x10000
  have hm := sub_refl 0x10000
  unfold execVbatReturn
  refine ⟨_, rfl, ?_⟩
  try dsimp only
  repeat' first
    | with_reducible assumption | with_reducible refine @kept_ite _ _ _ _ _ _ _ ?_ ?_ | simp only [kept_mk]
    | with_reducible refine Kept.parts ?_

end Sys2Proof.Machine
end

