-- ==== Sys2Proof/Laws/KeptMailbox.lean ====
section
/-! SUPPORT. What the definitions of Machine/Mailbox.lean keep: one lemma `<name>_kept` for each (Laws/Kept.lean). -/

-- Proof bodies are elaborated in order: elaborated in parallel they wait on one another, each in a thread of its own.
set_option Elab.async false

namespace Sys2Proof.Machine
open Sys2Proof

theorem execMailboxWrite_kept {s : State} (hI : State.Inv s) (from_ : Sender) (c : Fin 8) (towardB : Bool) (value :
    MbWrite) : ∃ u, (execMailboxWrite from_ c towardB value s) = .next u ∧ Kept 0x2081000070 s.pending s u := by
  have hQ := kept_start hI 0x2081000070
  have hm := sub_refl 0x2081000070
  unfold execMailboxWrite
  refine ⟨_, rfl, ?_⟩
  try dsimp only
  repeat' first
    | with_reducible assumption | with_reducible refine @kept_ite _ _ _ _ _ _ _ ?_ ?_
    | with_reducible refine State.mbPutAll_kept ?_ _ _ _

theorem execMailboxPop_kept {s : State} (hI : State.Inv s) (from_ : Sender) (c : Fin 8) (towardB : MbRead) : ∃ u,
    (execMailboxPop from_ c towardB s) = .next u ∧ Kept 0x2081000070 s.pending s u := by
  have hQ := kept_start hI 0x2081000070
  have hm := sub_refl 0x2081000070
  unfold execMailboxPop
  refine ⟨_, rfl, ?_⟩
  try dsimp only
  repeat' first
    | with_reducible assumption | with_reducible refine @kept_ite _ _ _ _ _ _ _ ?_ ?_
    | with_reducible refine State.mbTake_kept ?_ _ _ _ _ | with_reducible refine State.mbPutAll_kept ?_ _ _ _
    | with_reducible refine State.answer_kept ?_ _ _ _ | dsimp only | split

theorem execPossRead_kept {s : State} (hI : State.Inv s) (from_ : Sender) (k : Fin 32) : ∃ u, (execPossRead from_ k s) = .next
    u ∧ Kept 0x2100000000 s.pending s u := by
  have hQ := kept_start hI 0x2100000000
  have hm := sub_refl 0x2100000000
  unfold execPossRead
  refine ⟨_, rfl, ?_⟩
  try dsimp only
  repeat' first
    | with_reducible assumption | with_reducible refine @kept_ite _ _ _ _ _ _ _ ?_ ?_
    | with_reducible refine State.answer_kept ?_ _ _ _ | with_reducible refine State.possRead_kept ?_ _ _

theorem execPossRelease_kept {s : State} (hI : State.Inv s) (from_ : Sender) (k : Fin 32) (value : Word) : ∃ u,
    (execPossRelease from_ k value s) = .next u ∧ Kept 0x100000000 s.pending s u := by
  have hQ := kept_start hI 0x100000000
  have hm := sub_refl 0x100000000
  unfold execPossRelease
  refine ⟨_, rfl, ?_⟩
  try dsimp only
  repeat' first
    | with_reducible assumption | with_reducible refine @kept_ite _ _ _ _ _ _ _ ?_ ?_
    | with_reducible refine State.possWrite_kept ?_ _ _ _

theorem execPossForce_kept {s : State} (hI : State.Inv s) (from_ : Sender) (high : Bool) (value : Word) : ∃ u, (execPossForce
    from_ high value s) = .next u ∧ Kept 0x100000000 s.pending s u := by
  have hQ := kept_start hI 0x100000000
  have hm := sub_refl 0x100000000
  unfold execPossForce
  refine ⟨_, rfl, ?_⟩
  try dsimp only
  repeat' first
    | with_reducible assumption | with_reducible refine @kept_ite _ _ _ _ _ _ _ ?_ ?_
    | with_reducible refine State.possForce_kept ?_ _ _ _

end Sys2Proof.Machine
end

