-- ==== Sys2Proof/Laws/State.lean ====
section
/-! SUPPORT. The laws of the state's primitive updates: for each update, what every part of the state is after it (true by
unfolding), then reads of registers and fields after writes. -/

-- Proof bodies are elaborated in order: elaborated in parallel they wait on one another, each in a thread of its own.
set_option Elab.async false

namespace Sys2Proof.Machine
open Sys2Proof

/-! setReg -/

@[simp] theorem State.setReg_regs (s : State) (a : Nat) (w : Word) : (s.setReg a w).regs = Map.set regReset s.regs a w := rfl
@[simp] theorem State.setReg_pwr (s : State) (a : Nat) (w : Word) : (s.setReg a w).pwr = s.pwr := rfl
@[simp] theorem State.setReg_arr (s : State) (a : Nat) (w : Word) : (s.setReg a w).arr = s.arr := rfl
@[simp] theorem State.setReg_planeA (s : State) (a : Nat) (w : Word) : (s.setReg a w).planeA = s.planeA := rfl
@[simp] theorem State.setReg_planeB (s : State) (a : Nat) (w : Word) : (s.setReg a w).planeB = s.planeB := rfl
@[simp] theorem State.setReg_sealA (s : State) (a : Nat) (w : Word) : (s.setReg a w).sealA = s.sealA := rfl
@[simp] theorem State.setReg_sealB (s : State) (a : Nat) (w : Word) : (s.setReg a w).sealB = s.sealB := rfl
@[simp] theorem State.setReg_phys63 (s : State) (a : Nat) (w : Word) : (s.setReg a w).phys63 = s.phys63 := rfl
@[simp] theorem State.setReg_dev (s : State) (a : Nat) (w : Word) : (s.setReg a w).dev = s.dev := rfl
@[simp] theorem State.setReg_devA (s : State) (a : Nat) (w : Word) : (s.setReg a w).devA = s.devA := rfl
@[simp] theorem State.setReg_devB (s : State) (a : Nat) (w : Word) : (s.setReg a w).devB = s.devB := rfl
@[simp] theorem State.setReg_store (s : State) (a : Nat) (w : Word) : (s.setReg a w).store = s.store := rfl
@[simp] theorem State.setReg_heldWrites (s : State) (a : Nat) (w : Word) : (s.setReg a w).heldWrites = s.heldWrites := rfl
@[simp] theorem State.setReg_clearing (s : State) (a : Nat) (w : Word) : (s.setReg a w).clearing = s.clearing := rfl
@[simp] theorem State.setReg_hosts (s : State) (a : Nat) (w : Word) : (s.setReg a w).hosts = s.hosts := rfl
@[simp] theorem State.setReg_flights (s : State) (a : Nat) (w : Word) : (s.setReg a w).flights = s.flights := rfl
@[simp] theorem State.setReg_stns (s : State) (a : Nat) (w : Word) : (s.setReg a w).stns = s.stns := rfl
@[simp] theorem State.setReg_encs (s : State) (a : Nat) (w : Word) : (s.setReg a w).encs = s.encs := rfl
@[simp] theorem State.setReg_keep (s : State) (a : Nat) (w : Word) : (s.setReg a w).keep = s.keep := rfl
@[simp] theorem State.setReg_led (s : State) (a : Nat) (w : Word) : (s.setReg a w).led = s.led := rfl
@[simp] theorem State.setReg_mboxes (s : State) (a : Nat) (w : Word) : (s.setReg a w).mboxes = s.mboxes := rfl
@[simp] theorem State.setReg_poss (s : State) (a : Nat) (w : Word) : (s.setReg a w).poss = s.poss := rfl
@[simp] theorem State.setReg_rtc (s : State) (a : Nat) (w : Word) : (s.setReg a w).rtc = s.rtc := rfl
@[simp] theorem State.setReg_mport (s : State) (a : Nat) (w : Word) : (s.setReg a w).mport = s.mport := rfl
@[simp] theorem State.setReg_fw (s : State) (a : Nat) (w : Word) : (s.setReg a w).fw = s.fw := rfl
@[simp] theorem State.setReg_heldLog (s : State) (a : Nat) (w : Word) : (s.setReg a w).heldLog = s.heldLog := rfl
@[simp] theorem State.setReg_out (s : State) (a : Nat) (w : Word) : (s.setReg a w).out = s.out := rfl
@[simp] theorem State.setReg_free (s : State) (a : Nat) (w : Word) : (s.setReg a w).free = s.free := rfl
@[simp] theorem State.setReg_pending (s : State) (a : Nat) (w : Word) : (s.setReg a w).pending = s.pending := rfl

/-! put -/

@[simp] theorem State.put_regs (s : State) (f : Fld) (v : Nat) : (s.put f v).regs = Map.set regReset s.regs f.addr (putBits (s.reg f.addr) f.hi f.lo v) := rfl
@[simp] theorem State.put_pwr (s : State) (f : Fld) (v : Nat) : (s.put f v).pwr = s.pwr := rfl
@[simp] theorem State.put_arr (s : State) (f : Fld) (v : Nat) : (s.put f v).arr = s.arr := rfl
@[simp] theorem State.put_planeA (s : State) (f : Fld) (v : Nat) : (s.put f v).planeA = s.planeA := rfl
@[simp] theorem State.put_planeB (s : State) (f : Fld) (v : Nat) : (s.put f v).planeB = s.planeB := rfl
@[simp] theorem State.put_sealA (s : State) (f : Fld) (v : Nat) : (s.put f v).sealA = s.sealA := rfl
@[simp] theorem State.put_sealB (s : State) (f : Fld) (v : Nat) : (s.put f v).sealB = s.sealB := rfl
@[simp] theorem State.put_phys63 (s : State) (f : Fld) (v : Nat) : (s.put f v).phys63 = s.phys63 := rfl
@[simp] theorem State.put_dev (s : State) (f : Fld) (v : Nat) : (s.put f v).dev = s.dev := rfl
@[simp] theorem State.put_devA (s : State) (f : Fld) (v : Nat) : (s.put f v).devA = s.devA := rfl
@[simp] theorem State.put_devB (s : State) (f : Fld) (v : Nat) : (s.put f v).devB = s.devB := rfl
@[simp] theorem State.put_store (s : State) (f : Fld) (v : Nat) : (s.put f v).store = s.store := rfl
@[simp] theorem State.put_heldWrites (s : State) (f : Fld) (v : Nat) : (s.put f v).heldWrites = s.heldWrites := rfl
@[simp] theorem State.put_clearing (s : State) (f : Fld) (v : Nat) : (s.put f v).clearing = s.clearing := rfl
@[simp] theorem State.put_hosts (s : State) (f : Fld) (v : Nat) : (s.put f v).hosts = s.hosts := rfl
@[simp] theorem State.put_flights (s : State) (f : Fld) (v : Nat) : (s.put f v).flights = s.flights := rfl
@[simp] theorem State.put_stns (s : State) (f : Fld) (v : Nat) : (s.put f v).stns = s.stns := rfl
@[simp] theorem State.put_encs (s : State) (f : Fld) (v : Nat) : (s.put f v).encs = s.encs := rfl
@[simp] theorem State.put_keep (s : State) (f : Fld) (v : Nat) : (s.put f v).keep = s.keep := rfl
@[simp] theorem State.put_led (s : State) (f : Fld) (v : Nat) : (s.put f v).led = s.led := rfl
@[simp] theorem State.put_mboxes (s : State) (f : Fld) (v : Nat) : (s.put f v).mboxes = s.mboxes := rfl
@[simp] theorem State.put_poss (s : State) (f : Fld) (v : Nat) : (s.put f v).poss = s.poss := rfl
@[simp] theorem State.put_rtc (s : State) (f : Fld) (v : Nat) : (s.put f v).rtc = s.rtc := rfl
@[simp] theorem State.put_mport (s : State) (f : Fld) (v : Nat) : (s.put f v).mport = s.mport := rfl
@[simp] theorem State.put_fw (s : State) (f : Fld) (v : Nat) : (s.put f v).fw = s.fw := rfl
@[simp] theorem State.put_heldLog (s : State) (f : Fld) (v : Nat) : (s.put f v).heldLog = s.heldLog := rfl
@[simp] theorem State.put_out (s : State) (f : Fld) (v : Nat) : (s.put f v).out = s.out := rfl
@[simp] theorem State.put_free (s : State) (f : Fld) (v : Nat) : (s.put f v).free = s.free := rfl
@[simp] theorem State.put_pending (s : State) (f : Fld) (v : Nat) : (s.put f v).pending = s.pending := rfl

/-! goto -/

@[simp] theorem State.goto_regs (s : State) (st : PState) : (s.goto st).regs = s.regs := rfl
@[simp] theorem State.goto_pwr (s : State) (st : PState) : (s.goto st).pwr = { s.pwr with st := st } := rfl
@[simp] theorem State.goto_arr (s : State) (st : PState) : (s.goto st).arr = s.arr := rfl
@[simp] theorem State.goto_planeA (s : State) (st : PState) : (s.goto st).planeA = s.planeA := rfl
@[simp] theorem State.goto_planeB (s : State) (st : PState) : (s.goto st).planeB = s.planeB := rfl
@[simp] theorem State.goto_sealA (s : State) (st : PState) : (s.goto st).sealA = s.sealA := rfl
@[simp] theorem State.goto_sealB (s : State) (st : PState) : (s.goto st).sealB = s.sealB := rfl
@[simp] theorem State.goto_phys63 (s : State) (st : PState) : (s.goto st).phys63 = s.phys63 := rfl
@[simp] theorem State.goto_dev (s : State) (st : PState) : (s.goto st).dev = s.dev := rfl
@[simp] theorem State.goto_devA (s : State) (st : PState) : (s.goto st).devA = s.devA := rfl
@[simp] theorem State.goto_devB (s : State) (st : PState) : (s.goto st).devB = s.devB := rfl
@[simp] theorem State.goto_store (s : State) (st : PState) : (s.goto st).store = s.store := rfl
@[simp] theorem State.goto_heldWrites (s : State) (st : PState) : (s.goto st).heldWrites = s.heldWrites := rfl
@[simp] theorem State.goto_clearing (s : State) (st : PState) : (s.goto st).clearing = s.clearing := rfl
@[simp] theorem State.goto_hosts (s : State) (st : PState) : (s.goto st).hosts = s.hosts := rfl
@[simp] theorem State.goto_flights (s : State) (st : PState) : (s.goto st).flights = s.flights := rfl
@[simp] theorem State.goto_stns (s : State) (st : PState) : (s.goto st).stns = s.stns := rfl
@[simp] theorem State.goto_encs (s : State) (st : PState) : (s.goto st).encs = s.encs := rfl
@[simp] theorem State.goto_keep (s : State) (st : PState) : (s.goto st).keep = s.keep := rfl
@[simp] theorem State.goto_led (s : State) (st : PState) : (s.goto st).led = s.led := rfl
@[simp] theorem State.goto_mboxes (s : State) (st : PState) : (s.goto st).mboxes = s.mboxes := rfl
@[simp] theorem State.goto_poss (s : State) (st : PState) : (s.goto st).poss = s.poss := rfl
@[simp] theorem State.goto_rtc (s : State) (st : PState) : (s.goto st).rtc = s.rtc := rfl
@[simp] theorem State.goto_mport (s : State) (st : PState) : (s.goto st).mport = s.mport := rfl
@[simp] theorem State.goto_fw (s : State) (st : PState) : (s.goto st).fw = s.fw := rfl
@[simp] theorem State.goto_heldLog (s : State) (st : PState) : (s.goto st).heldLog = s.heldLog := rfl
@[simp] theorem State.goto_out (s : State) (st : PState) : (s.goto st).out = s.out := rfl
@[simp] theorem State.goto_free (s : State) (st : PState) : (s.goto st).free = s.free := rfl
@[simp] theorem State.goto_pending (s : State) (st : PState) : (s.goto st).pending = s.pending := rfl

/-! setCode -/

@[simp] theorem State.setCode_regs (s : State) (c : BitVec 3) : (s.setCode c).regs = s.regs := rfl
@[simp] theorem State.setCode_pwr (s : State) (c : BitVec 3) : (s.setCode c).pwr = { s.pwr with progress := c } := rfl
@[simp] theorem State.setCode_arr (s : State) (c : BitVec 3) : (s.setCode c).arr = s.arr := rfl
@[simp] theorem State.setCode_planeA (s : State) (c : BitVec 3) : (s.setCode c).planeA = s.planeA := rfl
@[simp] theorem State.setCode_planeB (s : State) (c : BitVec 3) : (s.setCode c).planeB = s.planeB := rfl
@[simp] theorem State.setCode_sealA (s : State) (c : BitVec 3) : (s.setCode c).sealA = s.sealA := rfl
@[simp] theorem State.setCode_sealB (s : State) (c : BitVec 3) : (s.setCode c).sealB = s.sealB := rfl
@[simp] theorem State.setCode_phys63 (s : State) (c : BitVec 3) : (s.setCode c).phys63 = s.phys63 := rfl
@[simp] theorem State.setCode_dev (s : State) (c : BitVec 3) : (s.setCode c).dev = s.dev := rfl
@[simp] theorem State.setCode_devA (s : State) (c : BitVec 3) : (s.setCode c).devA = s.devA := rfl
@[simp] theorem State.setCode_devB (s : State) (c : BitVec 3) : (s.setCode c).devB = s.devB := rfl
@[simp] theorem State.setCode_store (s : State) (c : BitVec 3) : (s.setCode c).store = s.store := rfl
@[simp] theorem State.setCode_heldWrites (s : State) (c : BitVec 3) : (s.setCode c).heldWrites = s.heldWrites := rfl
@[simp] theorem State.setCode_clearing (s : State) (c : BitVec 3) : (s.setCode c).clearing = s.clearing := rfl
@[simp] theorem State.setCode_hosts (s : State) (c : BitVec 3) : (s.setCode c).hosts = s.hosts := rfl
@[simp] theorem State.setCode_flights (s : State) (c : BitVec 3) : (s.setCode c).flights = s.flights := rfl
@[simp] theorem State.setCode_stns (s : State) (c : BitVec 3) : (s.setCode c).stns = s.stns := rfl
@[simp] theorem State.setCode_encs (s : State) (c : BitVec 3) : (s.setCode c).encs = s.encs := rfl
@[simp] theorem State.setCode_keep (s : State) (c : BitVec 3) : (s.setCode c).keep = s.keep := rfl
@[simp] theorem State.setCode_led (s : State) (c : BitVec 3) : (s.setCode c).led = s.led := rfl
@[simp] theorem State.setCode_mboxes (s : State) (c : BitVec 3) : (s.setCode c).mboxes = s.mboxes := rfl
@[simp] theorem State.setCode_poss (s : State) (c : BitVec 3) : (s.setCode c).poss = s.poss := rfl
@[simp] theorem State.setCode_rtc (s : State) (c : BitVec 3) : (s.setCode c).rtc = s.rtc := rfl
@[simp] theorem State.setCode_mport (s : State) (c : BitVec 3) : (s.setCode c).mport = s.mport := rfl
@[simp] theorem State.setCode_fw (s : State) (c : BitVec 3) : (s.setCode c).fw = s.fw := rfl
@[simp] theorem State.setCode_heldLog (s : State) (c : BitVec 3) : (s.setCode c).heldLog = s.heldLog := rfl
@[simp] theorem State.setCode_out (s : State) (c : BitVec 3) : (s.setCode c).out = s.out := rfl
@[simp] theorem State.setCode_free (s : State) (c : BitVec 3) : (s.setCode c).free = s.free := rfl
@[simp] theorem State.setCode_pending (s : State) (c : BitVec 3) : (s.setCode c).pending = s.pending := rfl

/-! nextPos -/

@[simp] theorem State.nextPos_regs (s : State) : (s.nextPos).regs = s.regs := rfl
@[simp] theorem State.nextPos_pwr (s : State) : (s.nextPos).pwr = { s.pwr with pos := s.pwr.pos + 1 } := rfl
@[simp] theorem State.nextPos_arr (s : State) : (s.nextPos).arr = s.arr := rfl
@[simp] theorem State.nextPos_planeA (s : State) : (s.nextPos).planeA = s.planeA := rfl
@[simp] theorem State.nextPos_planeB (s : State) : (s.nextPos).planeB = s.planeB := rfl
@[simp] theorem State.nextPos_sealA (s : State) : (s.nextPos).sealA = s.sealA := rfl
@[simp] theorem State.nextPos_sealB (s : State) : (s.nextPos).sealB = s.sealB := rfl
@[simp] theorem State.nextPos_phys63 (s : State) : (s.nextPos).phys63 = s.phys63 := rfl
@[simp] theorem State.nextPos_dev (s : State) : (s.nextPos).dev = s.dev := rfl
@[simp] theorem State.nextPos_devA (s : State) : (s.nextPos).devA = s.devA := rfl
@[simp] theorem State.nextPos_devB (s : State) : (s.nextPos).devB = s.devB := rfl
@[simp] theorem State.nextPos_store (s : State) : (s.nextPos).store = s.store := rfl
@[simp] theorem State.nextPos_heldWrites (s : State) : (s.nextPos).heldWrites = s.heldWrites := rfl
@[simp] theorem State.nextPos_clearing (s : State) : (s.nextPos).clearing = s.clearing := rfl
@[simp] theorem State.nextPos_hosts (s : State) : (s.nextPos).hosts = s.hosts := rfl
@[simp] theorem State.nextPos_flights (s : State) : (s.nextPos).flights = s.flights := rfl
@[simp] theorem State.nextPos_stns (s : State) : (s.nextPos).stns = s.stns := rfl
@[simp] theorem State.nextPos_encs (s : State) : (s.nextPos).encs = s.encs := rfl
@[simp] theorem State.nextPos_keep (s : State) : (s.nextPos).keep = s.keep := rfl
@[simp] theorem State.nextPos_led (s : State) : (s.nextPos).led = s.led := rfl
@[simp] theorem State.nextPos_mboxes (s : State) : (s.nextPos).mboxes = s.mboxes := rfl
@[simp] theorem State.nextPos_poss (s : State) : (s.nextPos).poss = s.poss := rfl
@[simp] theorem State.nextPos_rtc (s : State) : (s.nextPos).rtc = s.rtc := rfl
@[simp] theorem State.nextPos_mport (s : State) : (s.nextPos).mport = s.mport := rfl
@[simp] theorem State.nextPos_fw (s : State) : (s.nextPos).fw = s.fw := rfl
@[simp] theorem State.nextPos_heldLog (s : State) : (s.nextPos).heldLog = s.heldLog := rfl
@[simp] theorem State.nextPos_out (s : State) : (s.nextPos).out = s.out := rfl
@[simp] theorem State.nextPos_free (s : State) : (s.nextPos).free = s.free := rfl
@[simp] theorem State.nextPos_pending (s : State) : (s.nextPos).pending = s.pending := rfl

/-! setImage -/

@[simp] theorem State.setImage_regs (s : State) (p : Nat) (m : Image) : (s.setImage p m).regs = s.regs := rfl
@[simp] theorem State.setImage_pwr (s : State) (p : Nat) (m : Image) : (s.setImage p m).pwr = s.pwr := rfl
@[simp] theorem State.setImage_arr (s : State) (p : Nat) (m : Image) : (s.setImage p m).arr = Map.set (fun _ => {}) s.arr p m := rfl
@[simp] theorem State.setImage_planeA (s : State) (p : Nat) (m : Image) : (s.setImage p m).planeA = s.planeA := rfl
@[simp] theorem State.setImage_planeB (s : State) (p : Nat) (m : Image) : (s.setImage p m).planeB = s.planeB := rfl
@[simp] theorem State.setImage_sealA (s : State) (p : Nat) (m : Image) : (s.setImage p m).sealA = s.sealA := rfl
@[simp] theorem State.setImage_sealB (s : State) (p : Nat) (m : Image) : (s.setImage p m).sealB = s.sealB := rfl
@[simp] theorem State.setImage_phys63 (s : State) (p : Nat) (m : Image) : (s.setImage p m).phys63 = s.phys63 := rfl
@[simp] theorem State.setImage_dev (s : State) (p : Nat) (m : Image) : (s.setImage p m).dev = s.dev := rfl
@[simp] theorem State.setImage_devA (s : State) (p : Nat) (m : Image) : (s.setImage p m).devA = s.devA := rfl
@[simp] theorem State.setImage_devB (s : State) (p : Nat) (m : Image) : (s.setImage p m).devB = s.devB := rfl
@[simp] theorem State.setImage_store (s : State) (p : Nat) (m : Image) : (s.setImage p m).store = s.store := rfl
@[simp] theorem State.setImage_heldWrites (s : State) (p : Nat) (m : Image) : (s.setImage p m).heldWrites = s.heldWrites := rfl
@[simp] theorem State.setImage_clearing (s : State) (p : Nat) (m : Image) : (s.setImage p m).clearing = s.clearing := rfl
@[simp] theorem State.setImage_hosts (s : State) (p : Nat) (m : Image) : (s.setImage p m).hosts = s.hosts := rfl
@[simp] theorem State.setImage_flights (s : State) (p : Nat) (m : Image) : (s.setImage p m).flights = s.flights := rfl
@[simp] theorem State.setImage_stns (s : State) (p : Nat) (m : Image) : (s.setImage p m).stns = s.stns := rfl
@[simp] theorem State.setImage_encs (s : State) (p : Nat) (m : Image) : (s.setImage p m).encs = s.encs := rfl
@[simp] theorem State.setImage_keep (s : State) (p : Nat) (m : Image) : (s.setImage p m).keep = s.keep := rfl
@[simp] theorem State.setImage_led (s : State) (p : Nat) (m : Image) : (s.setImage p m).led = s.led := rfl
@[simp] theorem State.setImage_mboxes (s : State) (p : Nat) (m : Image) : (s.setImage p m).mboxes = s.mboxes := rfl
@[simp] theorem State.setImage_poss (s : State) (p : Nat) (m : Image) : (s.setImage p m).poss = s.poss := rfl
@[simp] theorem State.setImage_rtc (s : State) (p : Nat) (m : Image) : (s.setImage p m).rtc = s.rtc := rfl
@[simp] theorem State.setImage_mport (s : State) (p : Nat) (m : Image) : (s.setImage p m).mport = s.mport := rfl
@[simp] theorem State.setImage_fw (s : State) (p : Nat) (m : Image) : (s.setImage p m).fw = s.fw := rfl
@[simp] theorem State.setImage_heldLog (s : State) (p : Nat) (m : Image) : (s.setImage p m).heldLog = s.heldLog := rfl
@[simp] theorem State.setImage_out (s : State) (p : Nat) (m : Image) : (s.setImage p m).out = s.out := rfl
@[simp] theorem State.setImage_free (s : State) (p : Nat) (m : Image) : (s.setImage p m).free = s.free := rfl
@[simp] theorem State.setImage_pending (s : State) (p : Nat) (m : Image) : (s.setImage p m).pending = s.pending := rfl

/-! setHost -/

@[simp] theorem State.setHost_regs (s : State) (h : PHost) (p : HostPort) : (s.setHost h p).regs = s.regs := rfl
@[simp] theorem State.setHost_pwr (s : State) (h : PHost) (p : HostPort) : (s.setHost h p).pwr = s.pwr := rfl
@[simp] theorem State.setHost_arr (s : State) (h : PHost) (p : HostPort) : (s.setHost h p).arr = s.arr := rfl
@[simp] theorem State.setHost_planeA (s : State) (h : PHost) (p : HostPort) : (s.setHost h p).planeA = s.planeA := rfl
@[simp] theorem State.setHost_planeB (s : State) (h : PHost) (p : HostPort) : (s.setHost h p).planeB = s.planeB := rfl
@[simp] theorem State.setHost_sealA (s : State) (h : PHost) (p : HostPort) : (s.setHost h p).sealA = s.sealA := rfl
@[simp] theorem State.setHost_sealB (s : State) (h : PHost) (p : HostPort) : (s.setHost h p).sealB = s.sealB := rfl
@[simp] theorem State.setHost_phys63 (s : State) (h : PHost) (p : HostPort) : (s.setHost h p).phys63 = s.phys63 := rfl
@[simp] theorem State.setHost_dev (s : State) (h : PHost) (p : HostPort) : (s.setHost h p).dev = s.dev := rfl
@[simp] theorem State.setHost_devA (s : State) (h : PHost) (p : HostPort) : (s.setHost h p).devA = s.devA := rfl
@[simp] theorem State.setHost_devB (s : State) (h : PHost) (p : HostPort) : (s.setHost h p).devB = s.devB := rfl
@[simp] theorem State.setHost_store (s : State) (h : PHost) (p : HostPort) : (s.setHost h p).store = s.store := rfl
@[simp] theorem State.setHost_heldWrites (s : State) (h : PHost) (p : HostPort) : (s.setHost h p).heldWrites = s.heldWrites := rfl
@[simp] theorem State.setHost_clearing (s : State) (h : PHost) (p : HostPort) : (s.setHost h p).clearing = s.clearing := rfl
@[simp] theorem State.setHost_flights (s : State) (h : PHost) (p : HostPort) : (s.setHost h p).flights = s.flights := rfl
@[simp] theorem State.setHost_stns (s : State) (h : PHost) (p : HostPort) : (s.setHost h p).stns = s.stns := rfl
@[simp] theorem State.setHost_encs (s : State) (h : PHost) (p : HostPort) : (s.setHost h p).encs = s.encs := rfl
@[simp] theorem State.setHost_keep (s : State) (h : PHost) (p : HostPort) : (s.setHost h p).keep = s.keep := rfl
@[simp] theorem State.setHost_led (s : State) (h : PHost) (p : HostPort) : (s.setHost h p).led = s.led := rfl
@[simp] theorem State.setHost_mboxes (s : State) (h : PHost) (p : HostPort) : (s.setHost h p).mboxes = s.mboxes := rfl
@[simp] theorem State.setHost_poss (s : State) (h : PHost) (p : HostPort) : (s.setHost h p).poss = s.poss := rfl
@[simp] theorem State.setHost_rtc (s : State) (h : PHost) (p : HostPort) : (s.setHost h p).rtc = s.rtc := rfl
@[simp] theorem State.setHost_mport (s : State) (h : PHost) (p : HostPort) : (s.setHost h p).mport = s.mport := rfl
@[simp] theorem State.setHost_fw (s : State) (h : PHost) (p : HostPort) : (s.setHost h p).fw = s.fw := rfl
@[simp] theorem State.setHost_heldLog (s : State) (h : PHost) (p : HostPort) : (s.setHost h p).heldLog = s.heldLog := rfl
@[simp] theorem State.setHost_out (s : State) (h : PHost) (p : HostPort) : (s.setHost h p).out = s.out := rfl
@[simp] theorem State.setHost_free (s : State) (h : PHost) (p : HostPort) : (s.setHost h p).free = s.free := rfl
@[simp] theorem State.setHost_pending (s : State) (h : PHost) (p : HostPort) : (s.setHost h p).pending = s.pending := rfl

/-! setFlight -/

@[simp] theorem State.setFlight_regs (s : State) (i : Nat) (f : Flight) : (s.setFlight i f).regs = s.regs := rfl
@[simp] theorem State.setFlight_pwr (s : State) (i : Nat) (f : Flight) : (s.setFlight i f).pwr = s.pwr := rfl
@[simp] theorem State.setFlight_arr (s : State) (i : Nat) (f : Flight) : (s.setFlight i f).arr = s.arr := rfl
@[simp] theorem State.setFlight_planeA (s : State) (i : Nat) (f : Flight) : (s.setFlight i f).planeA = s.planeA := rfl
@[simp] theorem State.setFlight_planeB (s : State) (i : Nat) (f : Flight) : (s.setFlight i f).planeB = s.planeB := rfl
@[simp] theorem State.setFlight_sealA (s : State) (i : Nat) (f : Flight) : (s.setFlight i f).sealA = s.sealA := rfl
@[simp] theorem State.setFlight_sealB (s : State) (i : Nat) (f : Flight) : (s.setFlight i f).sealB = s.sealB := rfl
@[simp] theorem State.setFlight_phys63 (s : State) (i : Nat) (f : Flight) : (s.setFlight i f).phys63 = s.phys63 := rfl
@[simp] theorem State.setFlight_dev (s : State) (i : Nat) (f : Flight) : (s.setFlight i f).dev = s.dev := rfl
@[simp] theorem State.setFlight_devA (s : State) (i : Nat) (f : Flight) : (s.setFlight i f).devA = s.devA := rfl
@[simp] theorem State.setFlight_devB (s : State) (i : Nat) (f : Flight) : (s.setFlight i f).devB = s.devB := rfl
@[simp] theorem State.setFlight_store (s : State) (i : Nat) (f : Flight) : (s.setFlight i f).store = s.store := rfl
@[simp] theorem State.setFlight_heldWrites (s : State) (i : Nat) (f : Flight) : (s.setFlight i f).heldWrites = s.heldWrites := rfl
@[simp] theorem State.setFlight_clearing (s : State) (i : Nat) (f : Flight) : (s.setFlight i f).clearing = s.clearing := rfl
@[simp] theorem State.setFlight_hosts (s : State) (i : Nat) (f : Flight) : (s.setFlight i f).hosts = s.hosts := rfl
@[simp] theorem State.setFlight_flights (s : State) (i : Nat) (f : Flight) : (s.setFlight i f).flights = s.flights.set i f := rfl
@[simp] theorem State.setFlight_stns (s : State) (i : Nat) (f : Flight) : (s.setFlight i f).stns = s.stns := rfl
@[simp] theorem State.setFlight_encs (s : State) (i : Nat) (f : Flight) : (s.setFlight i f).encs = s.encs := rfl
@[simp] theorem State.setFlight_keep (s : State) (i : Nat) (f : Flight) : (s.setFlight i f).keep = s.keep := rfl
@[simp] theorem State.setFlight_led (s : State) (i : Nat) (f : Flight) : (s.setFlight i f).led = s.led := rfl
@[simp] theorem State.setFlight_mboxes (s : State) (i : Nat) (f : Flight) : (s.setFlight i f).mboxes = s.mboxes := rfl
@[simp] theorem State.setFlight_poss (s : State) (i : Nat) (f : Flight) : (s.setFlight i f).poss = s.poss := rfl
@[simp] theorem State.setFlight_rtc (s : State) (i : Nat) (f : Flight) : (s.setFlight i f).rtc = s.rtc := rfl
@[simp] theorem State.setFlight_mport (s : State) (i : Nat) (f : Flight) : (s.setFlight i f).mport = s.mport := rfl
@[simp] theorem State.setFlight_fw (s : State) (i : Nat) (f : Flight) : (s.setFlight i f).fw = s.fw := rfl
@[simp] theorem State.setFlight_heldLog (s : State) (i : Nat) (f : Flight) : (s.setFlight i f).heldLog = s.heldLog := rfl
@[simp] theorem State.setFlight_out (s : State) (i : Nat) (f : Flight) : (s.setFlight i f).out = s.out := rfl
@[simp] theorem State.setFlight_free (s : State) (i : Nat) (f : Flight) : (s.setFlight i f).free = s.free := rfl
@[simp] theorem State.setFlight_pending (s : State) (i : Nat) (f : Flight) : (s.setFlight i f).pending = s.pending := rfl

/-! dropFlight -/

@[simp] theorem State.dropFlight_regs (s : State) (i : Nat) : (s.dropFlight i).regs = s.regs := rfl
@[simp] theorem State.dropFlight_pwr (s : State) (i : Nat) : (s.dropFlight i).pwr = s.pwr := rfl
@[simp] theorem State.dropFlight_arr (s : State) (i : Nat) : (s.dropFlight i).arr = s.arr := rfl
@[simp] theorem State.dropFlight_planeA (s : State) (i : Nat) : (s.dropFlight i).planeA = s.planeA := rfl
@[simp] theorem State.dropFlight_planeB (s : State) (i : Nat) : (s.dropFlight i).planeB = s.planeB := rfl
@[simp] theorem State.dropFlight_sealA (s : State) (i : Nat) : (s.dropFlight i).sealA = s.sealA := rfl
@[simp] theorem State.dropFlight_sealB (s : State) (i : Nat) : (s.dropFlight i).sealB = s.sealB := rfl
@[simp] theorem State.dropFlight_phys63 (s : State) (i : Nat) : (s.dropFlight i).phys63 = s.phys63 := rfl
@[simp] theorem State.dropFlight_dev (s : State) (i : Nat) : (s.dropFlight i).dev = s.dev := rfl
@[simp] theorem State.dropFlight_devA (s : State) (i : Nat) : (s.dropFlight i).devA = s.devA := rfl
@[simp] theorem State.dropFlight_devB (s : State) (i : Nat) : (s.dropFlight i).devB = s.devB := rfl
@[simp] theorem State.dropFlight_store (s : State) (i : Nat) : (s.dropFlight i).store = s.store := rfl
@[simp] theorem State.dropFlight_heldWrites (s : State) (i : Nat) : (s.dropFlight i).heldWrites = s.heldWrites := rfl
@[simp] theorem State.dropFlight_clearing (s : State) (i : Nat) : (s.dropFlight i).clearing = s.clearing := rfl
@[simp] theorem State.dropFlight_hosts (s : State) (i : Nat) : (s.dropFlight i).hosts = s.hosts := rfl
@[simp] theorem State.dropFlight_flights (s : State) (i : Nat) : (s.dropFlight i).flights = s.flights.eraseIdx i := rfl
@[simp] theorem State.dropFlight_stns (s : State) (i : Nat) : (s.dropFlight i).stns = s.stns := rfl
@[simp] theorem State.dropFlight_encs (s : State) (i : Nat) : (s.dropFlight i).encs = s.encs := rfl
@[simp] theorem State.dropFlight_keep (s : State) (i : Nat) : (s.dropFlight i).keep = s.keep := rfl
@[simp] theorem State.dropFlight_led (s : State) (i : Nat) : (s.dropFlight i).led = s.led := rfl
@[simp] theorem State.dropFlight_mboxes (s : State) (i : Nat) : (s.dropFlight i).mboxes = s.mboxes := rfl
@[simp] theorem State.dropFlight_poss (s : State) (i : Nat) : (s.dropFlight i).poss = s.poss := rfl
@[simp] theorem State.dropFlight_rtc (s : State) (i : Nat) : (s.dropFlight i).rtc = s.rtc := rfl
@[simp] theorem State.dropFlight_mport (s : State) (i : Nat) : (s.dropFlight i).mport = s.mport := rfl
@[simp] theorem State.dropFlight_fw (s : State) (i : Nat) : (s.dropFlight i).fw = s.fw := rfl
@[simp] theorem State.dropFlight_heldLog (s : State) (i : Nat) : (s.dropFlight i).heldLog = s.heldLog := rfl
@[simp] theorem State.dropFlight_out (s : State) (i : Nat) : (s.dropFlight i).out = s.out := rfl
@[simp] theorem State.dropFlight_free (s : State) (i : Nat) : (s.dropFlight i).free = s.free := rfl
@[simp] theorem State.dropFlight_pending (s : State) (i : Nat) : (s.dropFlight i).pending = s.pending := rfl

/-! setStn -/

@[simp] theorem State.setStn_setStn (s : State) (n : Nat) (t u : Stn) : (s.setStn n t).setStn n u = s.setStn n u := by
  simp [State.setStn]

@[simp] theorem State.setStn_regs (s : State) (n : Nat) (t : Stn) : (s.setStn n t).regs = s.regs := rfl
@[simp] theorem State.setStn_pwr (s : State) (n : Nat) (t : Stn) : (s.setStn n t).pwr = s.pwr := rfl
@[simp] theorem State.setStn_arr (s : State) (n : Nat) (t : Stn) : (s.setStn n t).arr = s.arr := rfl
@[simp] theorem State.setStn_planeA (s : State) (n : Nat) (t : Stn) : (s.setStn n t).planeA = s.planeA := rfl
@[simp] theorem State.setStn_planeB (s : State) (n : Nat) (t : Stn) : (s.setStn n t).planeB = s.planeB := rfl
@[simp] theorem State.setStn_sealA (s : State) (n : Nat) (t : Stn) : (s.setStn n t).sealA = s.sealA := rfl
@[simp] theorem State.setStn_sealB (s : State) (n : Nat) (t : Stn) : (s.setStn n t).sealB = s.sealB := rfl
@[simp] theorem State.setStn_phys63 (s : State) (n : Nat) (t : Stn) : (s.setStn n t).phys63 = s.phys63 := rfl
@[simp] theorem State.setStn_dev (s : State) (n : Nat) (t : Stn) : (s.setStn n t).dev = s.dev := rfl
@[simp] theorem State.setStn_devA (s : State) (n : Nat) (t : Stn) : (s.setStn n t).devA = s.devA := rfl
@[simp] theorem State.setStn_devB (s : State) (n : Nat) (t : Stn) : (s.setStn n t).devB = s.devB := rfl
@[simp] theorem State.setStn_store (s : State) (n : Nat) (t : Stn) : (s.setStn n t).store = s.store := rfl
@[simp] theorem State.setStn_heldWrites (s : State) (n : Nat) (t : Stn) : (s.setStn n t).heldWrites = s.heldWrites := rfl
@[simp] theorem State.setStn_clearing (s : State) (n : Nat) (t : Stn) : (s.setStn n t).clearing = s.clearing := rfl
@[simp] theorem State.setStn_hosts (s : State) (n : Nat) (t : Stn) : (s.setStn n t).hosts = s.hosts := rfl
@[simp] theorem State.setStn_flights (s : State) (n : Nat) (t : Stn) : (s.setStn n t).flights = s.flights := rfl
@[simp] theorem State.setStn_stns (s : State) (n : Nat) (t : Stn) : (s.setStn n t).stns = Map.set (fun _ => {}) s.stns n t := rfl
@[simp] theorem State.setStn_encs (s : State) (n : Nat) (t : Stn) : (s.setStn n t).encs = s.encs := rfl
@[simp] theorem State.setStn_keep (s : State) (n : Nat) (t : Stn) : (s.setStn n t).keep = s.keep := rfl
@[simp] theorem State.setStn_led (s : State) (n : Nat) (t : Stn) : (s.setStn n t).led = s.led := rfl
@[simp] theorem State.setStn_mboxes (s : State) (n : Nat) (t : Stn) : (s.setStn n t).mboxes = s.mboxes := rfl
@[simp] theorem State.setStn_poss (s : State) (n : Nat) (t : Stn) : (s.setStn n t).poss = s.poss := rfl
@[simp] theorem State.setStn_rtc (s : State) (n : Nat) (t : Stn) : (s.setStn n t).rtc = s.rtc := rfl
@[simp] theorem State.setStn_mport (s : State) (n : Nat) (t : Stn) : (s.setStn n t).mport = s.mport := rfl
@[simp] theorem State.setStn_fw (s : State) (n : Nat) (t : Stn) : (s.setStn n t).fw = s.fw := rfl
@[simp] theorem State.setStn_heldLog (s : State) (n : Nat) (t : Stn) : (s.setStn n t).heldLog = s.heldLog := rfl
@[simp] theorem State.setStn_out (s : State) (n : Nat) (t : Stn) : (s.setStn n t).out = s.out := rfl
@[simp] theorem State.setStn_free (s : State) (n : Nat) (t : Stn) : (s.setStn n t).free = s.free := rfl
@[simp] theorem State.setStn_pending (s : State) (n : Nat) (t : Stn) : (s.setStn n t).pending = s.pending := rfl

/-! setEnc -/

@[simp] theorem State.setEnc_regs (s : State) (e : Nat) (v : Encoder) : (s.setEnc e v).regs = s.regs := rfl
@[simp] theorem State.setEnc_pwr (s : State) (e : Nat) (v : Encoder) : (s.setEnc e v).pwr = s.pwr := rfl
@[simp] theorem State.setEnc_arr (s : State) (e : Nat) (v : Encoder) : (s.setEnc e v).arr = s.arr := rfl
@[simp] theorem State.setEnc_planeA (s : State) (e : Nat) (v : Encoder) : (s.setEnc e v).planeA = s.planeA := rfl
@[simp] theorem State.setEnc_planeB (s : State) (e : Nat) (v : Encoder) : (s.setEnc e v).planeB = s.planeB := rfl
@[simp] theorem State.setEnc_sealA (s : State) (e : Nat) (v : Encoder) : (s.setEnc e v).sealA = s.sealA := rfl
@[simp] theorem State.setEnc_sealB (s : State) (e : Nat) (v : Encoder) : (s.setEnc e v).sealB = s.sealB := rfl
@[simp] theorem State.setEnc_phys63 (s : State) (e : Nat) (v : Encoder) : (s.setEnc e v).phys63 = s.phys63 := rfl
@[simp] theorem State.setEnc_dev (s : State) (e : Nat) (v : Encoder) : (s.setEnc e v).dev = s.dev := rfl
@[simp] theorem State.setEnc_devA (s : State) (e : Nat) (v : Encoder) : (s.setEnc e v).devA = s.devA := rfl
@[simp] theorem State.setEnc_devB (s : State) (e : Nat) (v : Encoder) : (s.setEnc e v).devB = s.devB := rfl
@[simp] theorem State.setEnc_store (s : State) (e : Nat) (v : Encoder) : (s.setEnc e v).store = s.store := rfl
@[simp] theorem State.setEnc_heldWrites (s : State) (e : Nat) (v : Encoder) : (s.setEnc e v).heldWrites = s.heldWrites := rfl
@[simp] theorem State.setEnc_clearing (s : State) (e : Nat) (v : Encoder) : (s.setEnc e v).clearing = s.clearing := rfl
@[simp] theorem State.setEnc_hosts (s : State) (e : Nat) (v : Encoder) : (s.setEnc e v).hosts = s.hosts := rfl
@[simp] theorem State.setEnc_flights (s : State) (e : Nat) (v : Encoder) : (s.setEnc e v).flights = s.flights := rfl
@[simp] theorem State.setEnc_stns (s : State) (e : Nat) (v : Encoder) : (s.setEnc e v).stns = s.stns := rfl
@[simp] theorem State.setEnc_encs (s : State) (e : Nat) (v : Encoder) : (s.setEnc e v).encs = Map.set (fun _ => {}) s.encs e v := rfl
@[simp] theorem State.setEnc_keep (s : State) (e : Nat) (v : Encoder) : (s.setEnc e v).keep = s.keep := rfl
@[simp] theorem State.setEnc_led (s : State) (e : Nat) (v : Encoder) : (s.setEnc e v).led = s.led := rfl
@[simp] theorem State.setEnc_mboxes (s : State) (e : Nat) (v : Encoder) : (s.setEnc e v).mboxes = s.mboxes := rfl
@[simp] theorem State.setEnc_poss (s : State) (e : Nat) (v : Encoder) : (s.setEnc e v).poss = s.poss := rfl
@[simp] theorem State.setEnc_rtc (s : State) (e : Nat) (v : Encoder) : (s.setEnc e v).rtc = s.rtc := rfl
@[simp] theorem State.setEnc_mport (s : State) (e : Nat) (v : Encoder) : (s.setEnc e v).mport = s.mport := rfl
@[simp] theorem State.setEnc_fw (s : State) (e : Nat) (v : Encoder) : (s.setEnc e v).fw = s.fw := rfl
@[simp] theorem State.setEnc_heldLog (s : State) (e : Nat) (v : Encoder) : (s.setEnc e v).heldLog = s.heldLog := rfl
@[simp] theorem State.setEnc_out (s : State) (e : Nat) (v : Encoder) : (s.setEnc e v).out = s.out := rfl
@[simp] theorem State.setEnc_free (s : State) (e : Nat) (v : Encoder) : (s.setEnc e v).free = s.free := rfl
@[simp] theorem State.setEnc_pending (s : State) (e : Nat) (v : Encoder) : (s.setEnc e v).pending = s.pending := rfl

/-! setMbox -/

@[simp] theorem State.setMbox_regs (s : State) (c : Nat) (m : Mailbox) : (s.setMbox c m).regs = s.regs := rfl
@[simp] theorem State.setMbox_pwr (s : State) (c : Nat) (m : Mailbox) : (s.setMbox c m).pwr = s.pwr := rfl
@[simp] theorem State.setMbox_arr (s : State) (c : Nat) (m : Mailbox) : (s.setMbox c m).arr = s.arr := rfl
@[simp] theorem State.setMbox_planeA (s : State) (c : Nat) (m : Mailbox) : (s.setMbox c m).planeA = s.planeA := rfl
@[simp] theorem State.setMbox_planeB (s : State) (c : Nat) (m : Mailbox) : (s.setMbox c m).planeB = s.planeB := rfl
@[simp] theorem State.setMbox_sealA (s : State) (c : Nat) (m : Mailbox) : (s.setMbox c m).sealA = s.sealA := rfl
@[simp] theorem State.setMbox_sealB (s : State) (c : Nat) (m : Mailbox) : (s.setMbox c m).sealB = s.sealB := rfl
@[simp] theorem State.setMbox_phys63 (s : State) (c : Nat) (m : Mailbox) : (s.setMbox c m).phys63 = s.phys63 := rfl
@[simp] theorem State.setMbox_dev (s : State) (c : Nat) (m : Mailbox) : (s.setMbox c m).dev = s.dev := rfl
@[simp] theorem State.setMbox_devA (s : State) (c : Nat) (m : Mailbox) : (s.setMbox c m).devA = s.devA := rfl
@[simp] theorem State.setMbox_devB (s : State) (c : Nat) (m : Mailbox) : (s.setMbox c m).devB = s.devB := rfl
@[simp] theorem State.setMbox_store (s : State) (c : Nat) (m : Mailbox) : (s.setMbox c m).store = s.store := rfl
@[simp] theorem State.setMbox_heldWrites (s : State) (c : Nat) (m : Mailbox) : (s.setMbox c m).heldWrites = s.heldWrites := rfl
@[simp] theorem State.setMbox_clearing (s : State) (c : Nat) (m : Mailbox) : (s.setMbox c m).clearing = s.clearing := rfl
@[simp] theorem State.setMbox_hosts (s : State) (c : Nat) (m : Mailbox) : (s.setMbox c m).hosts = s.hosts := rfl
@[simp] theorem State.setMbox_flights (s : State) (c : Nat) (m : Mailbox) : (s.setMbox c m).flights = s.flights := rfl
@[simp] theorem State.setMbox_stns (s : State) (c : Nat) (m : Mailbox) : (s.setMbox c m).stns = s.stns := rfl
@[simp] theorem State.setMbox_encs (s : State) (c : Nat) (m : Mailbox) : (s.setMbox c m).encs = s.encs := rfl
@[simp] theorem State.setMbox_keep (s : State) (c : Nat) (m : Mailbox) : (s.setMbox c m).keep = s.keep := rfl
@[simp] theorem State.setMbox_led (s : State) (c : Nat) (m : Mailbox) : (s.setMbox c m).led = s.led := rfl
@[simp] theorem State.setMbox_mboxes (s : State) (c : Nat) (m : Mailbox) : (s.setMbox c m).mboxes = Map.set (fun _ => {}) s.mboxes c m := rfl
@[simp] theorem State.setMbox_poss (s : State) (c : Nat) (m : Mailbox) : (s.setMbox c m).poss = s.poss := rfl
@[simp] theorem State.setMbox_rtc (s : State) (c : Nat) (m : Mailbox) : (s.setMbox c m).rtc = s.rtc := rfl
@[simp] theorem State.setMbox_mport (s : State) (c : Nat) (m : Mailbox) : (s.setMbox c m).mport = s.mport := rfl
@[simp] theorem State.setMbox_fw (s : State) (c : Nat) (m : Mailbox) : (s.setMbox c m).fw = s.fw := rfl
@[simp] theorem State.setMbox_heldLog (s : State) (c : Nat) (m : Mailbox) : (s.setMbox c m).heldLog = s.heldLog := rfl
@[simp] theorem State.setMbox_out (s : State) (c : Nat) (m : Mailbox) : (s.setMbox c m).out = s.out := rfl
@[simp] theorem State.setMbox_free (s : State) (c : Nat) (m : Mailbox) : (s.setMbox c m).free = s.free := rfl
@[simp] theorem State.setMbox_pending (s : State) (c : Nat) (m : Mailbox) : (s.setMbox c m).pending = s.pending := rfl

/-! setPoss -/

@[simp] theorem State.setPoss_regs (s : State) (k : Nat) (o : Option Sender) : (s.setPoss k o).regs = s.regs := rfl
@[simp] theorem State.setPoss_pwr (s : State) (k : Nat) (o : Option Sender) : (s.setPoss k o).pwr = s.pwr := rfl
@[simp] theorem State.setPoss_arr (s : State) (k : Nat) (o : Option Sender) : (s.setPoss k o).arr = s.arr := rfl
@[simp] theorem State.setPoss_planeA (s : State) (k : Nat) (o : Option Sender) : (s.setPoss k o).planeA = s.planeA := rfl
@[simp] theorem State.setPoss_planeB (s : State) (k : Nat) (o : Option Sender) : (s.setPoss k o).planeB = s.planeB := rfl
@[simp] theorem State.setPoss_sealA (s : State) (k : Nat) (o : Option Sender) : (s.setPoss k o).sealA = s.sealA := rfl
@[simp] theorem State.setPoss_sealB (s : State) (k : Nat) (o : Option Sender) : (s.setPoss k o).sealB = s.sealB := rfl
@[simp] theorem State.setPoss_phys63 (s : State) (k : Nat) (o : Option Sender) : (s.setPoss k o).phys63 = s.phys63 := rfl
@[simp] theorem State.setPoss_dev (s : State) (k : Nat) (o : Option Sender) : (s.setPoss k o).dev = s.dev := rfl
@[simp] theorem State.setPoss_devA (s : State) (k : Nat) (o : Option Sender) : (s.setPoss k o).devA = s.devA := rfl
@[simp] theorem State.setPoss_devB (s : State) (k : Nat) (o : Option Sender) : (s.setPoss k o).devB = s.devB := rfl
@[simp] theorem State.setPoss_store (s : State) (k : Nat) (o : Option Sender) : (s.setPoss k o).store = s.store := rfl
@[simp] theorem State.setPoss_heldWrites (s : State) (k : Nat) (o : Option Sender) : (s.setPoss k o).heldWrites = s.heldWrites := rfl
@[simp] theorem State.setPoss_clearing (s : State) (k : Nat) (o : Option Sender) : (s.setPoss k o).clearing = s.clearing := rfl
@[simp] theorem State.setPoss_hosts (s : State) (k : Nat) (o : Option Sender) : (s.setPoss k o).hosts = s.hosts := rfl
@[simp] theorem State.setPoss_flights (s : State) (k : Nat) (o : Option Sender) : (s.setPoss k o).flights = s.flights := rfl
@[simp] theorem State.setPoss_stns (s : State) (k : Nat) (o : Option Sender) : (s.setPoss k o).stns = s.stns := rfl
@[simp] theorem State.setPoss_encs (s : State) (k : Nat) (o : Option Sender) : (s.setPoss k o).encs = s.encs := rfl
@[simp] theorem State.setPoss_keep (s : State) (k : Nat) (o : Option Sender) : (s.setPoss k o).keep = s.keep := rfl
@[simp] theorem State.setPoss_led (s : State) (k : Nat) (o : Option Sender) : (s.setPoss k o).led = s.led := rfl
@[simp] theorem State.setPoss_mboxes (s : State) (k : Nat) (o : Option Sender) : (s.setPoss k o).mboxes = s.mboxes := rfl
@[simp] theorem State.setPoss_poss (s : State) (k : Nat) (o : Option Sender) : (s.setPoss k o).poss = Map.set (fun _ => none) s.poss k o := rfl
@[simp] theorem State.setPoss_rtc (s : State) (k : Nat) (o : Option Sender) : (s.setPoss k o).rtc = s.rtc := rfl
@[simp] theorem State.setPoss_mport (s : State) (k : Nat) (o : Option Sender) : (s.setPoss k o).mport = s.mport := rfl
@[simp] theorem State.setPoss_fw (s : State) (k : Nat) (o : Option Sender) : (s.setPoss k o).fw = s.fw := rfl
@[simp] theorem State.setPoss_heldLog (s : State) (k : Nat) (o : Option Sender) : (s.setPoss k o).heldLog = s.heldLog := rfl
@[simp] theorem State.setPoss_out (s : State) (k : Nat) (o : Option Sender) : (s.setPoss k o).out = s.out := rfl
@[simp] theorem State.setPoss_free (s : State) (k : Nat) (o : Option Sender) : (s.setPoss k o).free = s.free := rfl
@[simp] theorem State.setPoss_pending (s : State) (k : Nat) (o : Option Sender) : (s.setPoss k o).pending = s.pending := rfl

/-! setAct -/

@[simp] theorem State.setAct_regs (s : State) (a : Option Activation) : (s.setAct a).regs = s.regs := rfl
@[simp] theorem State.setAct_pwr (s : State) (a : Option Activation) : (s.setAct a).pwr = s.pwr := rfl
@[simp] theorem State.setAct_arr (s : State) (a : Option Activation) : (s.setAct a).arr = s.arr := rfl
@[simp] theorem State.setAct_planeA (s : State) (a : Option Activation) : (s.setAct a).planeA = s.planeA := rfl
@[simp] theorem State.setAct_planeB (s : State) (a : Option Activation) : (s.setAct a).planeB = s.planeB := rfl
@[simp] theorem State.setAct_sealA (s : State) (a : Option Activation) : (s.setAct a).sealA = s.sealA := rfl
@[simp] theorem State.setAct_sealB (s : State) (a : Option Activation) : (s.setAct a).sealB = s.sealB := rfl
@[simp] theorem State.setAct_phys63 (s : State) (a : Option Activation) : (s.setAct a).phys63 = s.phys63 := rfl
@[simp] theorem State.setAct_dev (s : State) (a : Option Activation) : (s.setAct a).dev = s.dev := rfl
@[simp] theorem State.setAct_devA (s : State) (a : Option Activation) : (s.setAct a).devA = s.devA := rfl
@[simp] theorem State.setAct_devB (s : State) (a : Option Activation) : (s.setAct a).devB = s.devB := rfl
@[simp] theorem State.setAct_store (s : State) (a : Option Activation) : (s.setAct a).store = s.store := rfl
@[simp] theorem State.setAct_heldWrites (s : State) (a : Option Activation) : (s.setAct a).heldWrites = s.heldWrites := rfl
@[simp] theorem State.setAct_clearing (s : State) (a : Option Activation) : (s.setAct a).clearing = s.clearing := rfl
@[simp] theorem State.setAct_hosts (s : State) (a : Option Activation) : (s.setAct a).hosts = s.hosts := rfl
@[simp] theorem State.setAct_flights (s : State) (a : Option Activation) : (s.setAct a).flights = s.flights := rfl
@[simp] theorem State.setAct_stns (s : State) (a : Option Activation) : (s.setAct a).stns = s.stns := rfl
@[simp] theorem State.setAct_encs (s : State) (a : Option Activation) : (s.setAct a).encs = s.encs := rfl
@[simp] theorem State.setAct_keep (s : State) (a : Option Activation) : (s.setAct a).keep = s.keep := rfl
@[simp] theorem State.setAct_led (s : State) (a : Option Activation) : (s.setAct a).led = s.led := rfl
@[simp] theorem State.setAct_mboxes (s : State) (a : Option Activation) : (s.setAct a).mboxes = s.mboxes := rfl
@[simp] theorem State.setAct_poss (s : State) (a : Option Activation) : (s.setAct a).poss = s.poss := rfl
@[simp] theorem State.setAct_rtc (s : State) (a : Option Activation) : (s.setAct a).rtc = s.rtc := rfl
@[simp] theorem State.setAct_mport (s : State) (a : Option Activation) : (s.setAct a).mport = s.mport := rfl
@[simp] theorem State.setAct_fw (s : State) (a : Option Activation) : (s.setAct a).fw = { s.fw with act := a } := rfl
@[simp] theorem State.setAct_heldLog (s : State) (a : Option Activation) : (s.setAct a).heldLog = s.heldLog := rfl
@[simp] theorem State.setAct_out (s : State) (a : Option Activation) : (s.setAct a).out = s.out := rfl
@[simp] theorem State.setAct_free (s : State) (a : Option Activation) : (s.setAct a).free = s.free := rfl
@[simp] theorem State.setAct_pending (s : State) (a : Option Activation) : (s.setAct a).pending = s.pending := rfl

/-! emit -/

@[simp] theorem State.emit_regs (s : State) (o : Out) : (s.emit o).regs = s.regs := rfl
@[simp] theorem State.emit_pwr (s : State) (o : Out) : (s.emit o).pwr = s.pwr := rfl
@[simp] theorem State.emit_arr (s : State) (o : Out) : (s.emit o).arr = s.arr := rfl
@[simp] theorem State.emit_planeA (s : State) (o : Out) : (s.emit o).planeA = s.planeA := rfl
@[simp] theorem State.emit_planeB (s : State) (o : Out) : (s.emit o).planeB = s.planeB := rfl
@[simp] theorem State.emit_sealA (s : State) (o : Out) : (s.emit o).sealA = s.sealA := rfl
@[simp] theorem State.emit_sealB (s : State) (o : Out) : (s.emit o).sealB = s.sealB := rfl
@[simp] theorem State.emit_phys63 (s : State) (o : Out) : (s.emit o).phys63 = s.phys63 := rfl
@[simp] theorem State.emit_dev (s : State) (o : Out) : (s.emit o).dev = s.dev := rfl
@[simp] theorem State.emit_devA (s : State) (o : Out) : (s.emit o).devA = s.devA := rfl
@[simp] theorem State.emit_devB (s : State) (o : Out) : (s.emit o).devB = s.devB := rfl
@[simp] theorem State.emit_store (s : State) (o : Out) : (s.emit o).store = s.store := rfl
@[simp] theorem State.emit_heldWrites (s : State) (o : Out) : (s.emit o).heldWrites = s.heldWrites := rfl
@[simp] theorem State.emit_clearing (s : State) (o : Out) : (s.emit o).clearing = s.clearing := rfl
@[simp] theorem State.emit_hosts (s : State) (o : Out) : (s.emit o).hosts = s.hosts := rfl
@[simp] theorem State.emit_flights (s : State) (o : Out) : (s.emit o).flights = s.flights := rfl
@[simp] theorem State.emit_stns (s : State) (o : Out) : (s.emit o).stns = s.stns := rfl
@[simp] theorem State.emit_encs (s : State) (o : Out) : (s.emit o).encs = s.encs := rfl
@[simp] theorem State.emit_keep (s : State) (o : Out) : (s.emit o).keep = s.keep := rfl
@[simp] theorem State.emit_led (s : State) (o : Out) : (s.emit o).led = s.led := rfl
@[simp] theorem State.emit_mboxes (s : State) (o : Out) : (s.emit o).mboxes = s.mboxes := rfl
@[simp] theorem State.emit_poss (s : State) (o : Out) : (s.emit o).poss = s.poss := rfl
@[simp] theorem State.emit_rtc (s : State) (o : Out) : (s.emit o).rtc = s.rtc := rfl
@[simp] theorem State.emit_mport (s : State) (o : Out) : (s.emit o).mport = s.mport := rfl
@[simp] theorem State.emit_fw (s : State) (o : Out) : (s.emit o).fw = s.fw := rfl
@[simp] theorem State.emit_heldLog (s : State) (o : Out) : (s.emit o).heldLog = s.heldLog := rfl
@[simp] theorem State.emit_out (s : State) (o : Out) : (s.emit o).out = s.out ++ [o] := rfl
@[simp] theorem State.emit_free (s : State) (o : Out) : (s.emit o).free = s.free := rfl
@[simp] theorem State.emit_pending (s : State) (o : Out) : (s.emit o).pending = s.pending := rfl

/-! Registers -/

@[simp] theorem State.reg_setReg_same (s : State) (a : Nat) (w : Word) : (s.setReg a w).reg a = w := by
  simp only [State.reg, State.setReg, Map.get_set_same]

theorem State.reg_setReg_ne (s : State) {a b : Nat} (w : Word) (h : b ≠ a) : (s.setReg a w).reg b = s.reg b := by
  simp only [State.reg, State.setReg, Map.get_set_ne _ _ _ h]

theorem State.reg_put_ne (s : State) {f : Fld} {b : Nat} (v : Nat) (h : b ≠ f.addr) : (s.put f v).reg b = s.reg b :=
  s.reg_setReg_ne _ h

/-! Fields -/

/-- Bit i of a word written by a field write: inside the field, the value's bit; outside it, the old bit. -/
theorem putBits_bit (w : Word) (hi lo v i : Nat) (hi' : i < 18) : (putBits w hi lo v).toNat.testBit i =
    if lo ≤ i ∧ i < hi + 1 then v.testBit (i - lo) else w.toNat.testBit i := by
  have e1 : (BitVec.ofNat 18 ((2 ^ (hi + 1 - lo) - 1) * 2 ^ lo)).getLsbD i = decide (lo ≤ i ∧ i < hi + 1) := by
    rw [BitVec.getLsbD_ofNat, ← Nat.shiftLeft_eq, Nat.testBit_shiftLeft, Nat.testBit_two_pow_sub_one]
    simp only [hi', decide_true, Bool.true_and, ge_iff_le]
    by_cases h1 : lo ≤ i
    · simp only [h1, decide_true, Bool.true_and, true_and]
      congr 1
      apply propext
      omega
    · simp [h1]
  have e2 : (BitVec.ofNat 18 (v * 2 ^ lo)).getLsbD i = (decide (lo ≤ i) && v.testBit (i - lo)) := by
    rw [BitVec.getLsbD_ofNat, ← Nat.shiftLeft_eq, Nat.testBit_shiftLeft]
    simp [hi']
  rw [BitVec.testBit_toNat]
  simp only [putBits, BitVec.getLsbD_or, BitVec.getLsbD_and, BitVec.getLsbD_not, e1, e2, hi', decide_true, Bool.true_and]
  by_cases h1 : lo ≤ i <;> by_cases h2 : i < hi + 1 <;> simp [h1, h2, BitVec.testBit_toNat]

theorem bits_testBit (x hi lo i : Nat) : (bits x hi lo).testBit i = (decide (i < hi + 1 - lo) && x.testBit (lo + i)) := by
  simp only [bits, Nat.testBit_mod_two_pow, ← Nat.shiftRight_eq_div_pow, Nat.testBit_shiftRight]

/-- A field reads back what was written to it. -/
theorem State.get_put_same (s : State) (f : Fld) (v : Nat) (hf : f.hi < 18) (hv : v < 2 ^ (f.hi + 1 - f.lo)) :
    (s.put f v).get f = v := by
  unfold State.get State.put
  rw [State.reg_setReg_same]
  apply Nat.eq_of_testBit_eq
  intro i
  rw [bits_testBit]
  by_cases hi : i < f.hi + 1 - f.lo
  · rw [putBits_bit _ _ _ _ _ (by omega), if_pos (by omega)]
    simp only [hi, decide_true, Bool.true_and]
    congr 1
    omega
  · have : v.testBit i = false := Nat.testBit_lt_two_pow (Nat.lt_of_lt_of_le hv (Nat.pow_le_pow_right (by decide) (by omega)))
    simp only [hi, decide_false, Bool.false_and, this]

/-- A field of another register is not touched. -/
theorem State.get_put_ne (s : State) {f g : Fld} (v : Nat) (h : g.addr ≠ f.addr) : (s.put f v).get g = s.get g := by
  unfold State.get
  rw [s.reg_put_ne v h]

/-- A field of the same register that shares no bit is not touched. -/
theorem State.get_put_apart (s : State) {f g : Fld} (v : Nat) (hg : g.hi < 18) (h : g.hi < f.lo ∨ f.hi < g.lo) :
    (s.put f v).get g = s.get g := by
  by_cases ha : g.addr = f.addr
  · unfold State.get State.put
    rw [ha, State.reg_setReg_same]
    apply Nat.eq_of_testBit_eq
    intro i
    rw [bits_testBit, bits_testBit]
    by_cases hi : i < g.hi + 1 - g.lo
    · rw [putBits_bit _ _ _ _ _ (by omega), if_neg (by omega)]
    · simp only [hi, decide_false, Bool.false_and]
  · exact s.get_put_ne v ha

/-- A write of a register does not touch a field of another. -/
theorem State.get_setReg_ne (s : State) {a : Nat} {g : Fld} (w : Word) (h : g.addr ≠ a) : (s.setReg a w).get g = s.get g := by
  unfold State.get
  rw [s.reg_setReg_ne w h]

/-- A field is below two to its width. -/
theorem State.get_lt (s : State) (f : Fld) : s.get f < 2 ^ (f.hi + 1 - f.lo) := Nat.mod_lt _ (Nat.pow_pos (by decide))

/-! Updates that leave the register file alone read the same registers. -/

@[simp] theorem State.reg_emit (s : State) (o : Out) (a : Nat) : (s.emit o).reg a = s.reg a := rfl
@[simp] theorem State.get_emit (s : State) (o : Out) (f : Fld) : (s.emit o).get f = s.get f := rfl
@[simp] theorem State.reg_goto (s : State) (p : PState) (a : Nat) : (s.goto p).reg a = s.reg a := rfl
@[simp] theorem State.get_goto (s : State) (p : PState) (f : Fld) : (s.goto p).get f = s.get f := rfl
@[simp] theorem State.reg_setHost (s : State) (h : PHost) (p : HostPort) (a : Nat) : (s.setHost h p).reg a = s.reg a := rfl
@[simp] theorem State.get_setHost (s : State) (h : PHost) (p : HostPort) (f : Fld) : (s.setHost h p).get f = s.get f := rfl
@[simp] theorem State.reg_setStn (s : State) (n : Nat) (t : Stn) (a : Nat) : (s.setStn n t).reg a = s.reg a := rfl
@[simp] theorem State.get_setStn (s : State) (n : Nat) (t : Stn) (f : Fld) : (s.setStn n t).get f = s.get f := rfl

/-! Units read back what was written to them. -/

@[simp] theorem State.stn_setStn_same (s : State) (n : Nat) (t : Stn) : (s.setStn n t).stn n = t := by
  simp only [State.stn, State.setStn, Map.get_set_same]

theorem State.stn_setStn_ne (s : State) {n k : Nat} (t : Stn) (h : k ≠ n) : (s.setStn n t).stn k = s.stn k := by
  simp only [State.stn, State.setStn, Map.get_set_ne _ _ _ h]

theorem State.host_setHost_same (s : State) (h : PHost) (p : HostPort) : (s.setHost h p).host h = p := by
  simp only [State.host, State.setHost, Map.get_set_same]

@[simp] theorem State.enc_setEnc_same (s : State) (e : Nat) (v : Encoder) : (s.setEnc e v).enc e = v := by
  simp only [State.enc, State.setEnc, Map.get_set_same]

@[simp] theorem HostPort.dword_setDword_same (p : HostPort) (d : Nat) (v : BitVec 32) : (p.setDword d v).dword d = v := by
  simp only [HostPort.dword, HostPort.setDword, Map.get_set_same]

theorem HostPort.dword_setDword_ne (p : HostPort) {d e : Nat} (v : BitVec 32) (h : e ≠ d) : (p.setDword d v).dword e = p.dword e := by
  simp only [HostPort.dword, HostPort.setDword, Map.get_set_ne _ _ _ h]

end Sys2Proof.Machine
end

