-- ==== Sys2Proof/Laws/Effects.lean ====
section
/-! SUPPORT. Small laws of the shared operations beside what they keep (Laws/Kept.lean): which fields and registers an event, a log
entry, a rail script or a restored counter leaves as it was, and what some operations read back. -/

-- Proof bodies are elaborated in order: elaborated in parallel they wait on one another, each in a thread of its own.
set_option Elab.async false

namespace Sys2Proof.Machine
open Sys2Proof

theorem foldl_keeps {α β : Type} (p : State → β) {f : State → α → State} (h : ∀ t x, p (f t x) = p t) (xs : List α) (s : State) :
    p (xs.foldl f s) = p s := by
  induction xs generalizing s with
  | nil => rfl
  | cons x xs ih => rw [List.foldl_cons, ih, h]

theorem find_congr {α : Type} {p r : α → Bool} (xs : List α) (h : ∀ x, x ∈ xs → p x = r x) : xs.find? p = xs.find? r := by
  induction xs with
  | nil => rfl
  | cons x xs ih =>
    rw [List.find?_cons, List.find?_cons, h x List.mem_cons_self, ih (fun y hy => h y (List.mem_cons_of_mem _ hy))]

theorem notify_pwr (s : State) (c : IClass) (h : PHost) : (s.notify c h).pwr = s.pwr := by
  unfold State.notify State.msix
  dsimp only
  split_ifs <;> rfl

theorem event_pwr (s : State) (ev : Fld) (a : Nat) (c : IClass) (hs : List PHost) : (s.event ev a c hs).pwr = s.pwr := by
  unfold State.event
  dsimp only
  split_ifs
  · rfl
  · refine (foldl_keeps (fun s => s.pwr) (f := fun t h => State.notify t c h) (fun t x => notify_pwr t c x) _ _).trans ?_
    rfl
  · rfl

theorem runSteps_st (n : Nat) (s : State) (b : Bool) : (s.runSteps b n).1.pwr.st = s.pwr.st := by
  induction n generalizing s with
  | zero => rfl
  | succ n ih =>
    unfold State.runSteps
    split
    · rfl
    · split
      · rfl
      · split
        · rfl
        · rw [ih]; rfl
        · rw [ih]; rfl
        · rfl
        · split
          · rw [ih]; rfl
          · rfl

theorem railsUp_st (s : State) : s.railsUp.pwr.st = s.pwr.st := rfl

theorem wakeGo_st (s : State) : s.wakeGo.pwr.st = s.pwr.st := by
  unfold State.wakeGo
  dsimp only
  split
  · exact runSteps_st _ _ _
  · rw [railsUp_st, runSteps_st]

theorem applyScript_st (s : State) : s.applyScript.pwr.st = s.pwr.st := by
  unfold State.applyScript
  split
  · unfold State.setSteps State.loadRecord
    dsimp only
    simp only [State.put_pwr]
    exact foldl_keeps (fun s => s.pwr.st) (by intros; rfl) _ _
  · rw [State.supEvent, event_pwr]
    unfold State.setSteps State.loadDefault
    dsimp only
    simp only [State.put_pwr, State.setReg_pwr]
    exact foldl_keeps (fun s => s.pwr.st) (by intros; rfl) _ _

theorem scriptRun_st (s : State) : s.scriptRun.pwr.st = s.pwr.st := by
  unfold State.scriptRun
  dsimp only
  rw [wakeGo_st]
  exact applyScript_st s

theorem enterWaking_st (s : State) (k : Nat) : (s.enterWaking k).pwr.st = .waking := by
  unfold State.enterWaking
  dsimp only
  split
  · rfl
  · rw [scriptRun_st]; rfl

theorem standbyFromOff_st (s : State) : s.standbyFromOff.pwr.st = .standby := by
  unfold State.standbyFromOff
  dsimp only
  unfold State.strapBegin
  dsimp only
  rw [applyScript_st]
  rfl

theorem keepBusy_congr (s t : State) (h : t.keep = s.keep) : t.keepBusy = s.keepBusy := by
  unfold State.keepBusy
  rw [h]

theorem foldl_reg {f : State → Nat → State} {a : Nat} (h : ∀ t x, (f t x).reg a = t.reg a) (xs : List Nat) (s : State) :
    (xs.foldl f s).reg a = s.reg a := foldl_keeps (fun s => s.reg a) h xs s

theorem loadRecord_regs (s : State) (p : List Nat) (c : Nat) (hc : c < 12) :
    (s.loadRecord p).reg (0x100 + c) = BitVec.ofNat 18 (p.getD (1 + c) 0 % 65536) ∧
    (s.loadRecord p).reg (0x110 + c) = BitVec.ofNat 18 (p.getD (13 + c) 0 % 8192 * 32) := by
  unfold State.loadRecord
  dsimp only
  have key : ∀ a, (a = 0x100 + c ∨ a = 0x110 + c) → ∀ (t : State) (v1 v2 v3 : Nat),
      (((t.put Reg.SUP_WARN_READY_WARN v1).put Reg.SUP_WARN_WARN v2).put Reg.SUP_CHG_ILIM v3).reg a = t.reg a := by
    intro a ha t v1 v2 v3
    have h1 : a ≠ 0x129 := by omega
    have h2 : a ≠ 0x12A := by omega
    rw [State.reg_put_ne _ _ h2, State.reg_put_ne _ _ h1, State.reg_put_ne _ _ h1]
  rw [key _ (.inl rfl), key _ (.inr rfl)]
  interval_cases c <;> simp [List.range, List.range.loop, State.reg, State.setReg, Map.get_set_same, Map.get_set_ne]

theorem word_fields (v t o c st : Nat) (hv : v < 2) (ht : t < 2) (ho : o < 2) (hc : c < 16) (hst : st < 8) :
    let w := (BitVec.ofNat 18 (2 ^ 17 + t * 2 ^ 16 + v * 2 ^ 15 + c * 2 ^ 11 + st * 2 ^ 8 + 2 ^ 7 + o * 2 ^ 6)).toNat
    bits w 17 17 = 1 ∧ bits w 16 16 = t ∧ bits w 15 15 = v ∧ bits w 14 11 = c ∧ bits w 10 8 = st := by
  simp only [BitVec.toNat_ofNat, bits]
  refine ⟨?_, ?_, ?_, ?_, ?_⟩ <;> omega

theorem code_lt (p : PState) : p.code < 8 := by cases p <;> decide
theorem b2n_lt (b : Bool) : b2n b < 2 := by cases b <;> decide


theorem counter_setCounter (s : State) (i j v : Nat) (hv : v < 2 ^ 54) :
    (s.setCounter i v).counter j = if j = i then v else s.counter j := by
  unfold State.counter State.setCounter
  dsimp only
  by_cases h : j = i
  · rw [if_pos h, h, Map.get_set_same, BitVec.toNat_ofNat, Nat.mod_eq_of_lt hv]
  · rw [if_neg h, Map.get_set_ne _ _ _ h]

theorem counter_recoverOne (s : State) (i j v : Nat) (hv : v < 2 ^ 54) :
    (s.recoverOne i v).counter j = if j = i then max (s.counter i) v else s.counter j := by
  unfold State.recoverOne
  split
  · next h =>
    have : (((s.setCredit i (v - s.counter i)).setCounter i v).put Reg.VOL_RETURN_KEEP_RAISED 1).counter j =
        ((s.setCredit i (v - s.counter i)).setCounter i v).counter j := rfl
    rw [this, counter_setCounter _ _ _ _ hv]
    by_cases hj : j = i
    · rw [if_pos hj, if_pos hj, Nat.max_eq_right (Nat.le_of_lt h)]
    · rw [if_neg hj, if_neg hj]; rfl
  · next h =>
    have : (s.setCredit i 0).counter j = s.counter j := rfl
    rw [this]
    by_cases hj : j = i
    · rw [if_pos hj, hj, Nat.max_eq_left (Nat.le_of_not_lt h)]
    · rw [if_neg hj]

theorem recover_fold (vs : List Nat) (hv : ∀ i, vs.getD i 0 < 2 ^ 54) (n : Nat) (s : State) (j : Nat) :
    ((List.range n).foldl (fun (t : State) i => t.recoverOne i (vs.getD i 0)) s).counter j =
      if j < n then max (s.counter j) (vs.getD j 0) else s.counter j := by
  induction n with
  | zero => rfl
  | succ n ih =>
    rw [List.range_succ, List.foldl_append, List.foldl_cons, List.foldl_nil, counter_recoverOne _ _ _ _ (hv n)]
    have ihn := ih
    by_cases h : j = n
    · subst h
      rw [if_pos rfl, if_pos (Nat.lt_succ_self j)]
      rw [if_neg (Nat.lt_irrefl j)] at ihn
      rw [ihn]
    · rw [if_neg h, ih]
      by_cases h2 : j < n
      · rw [if_pos h2, if_pos (by omega)]
      · rw [if_neg h2, if_neg (by omega)]

theorem notify_regs (s : State) (c : IClass) (h : PHost) (a : Nat) : (s.notify c h).reg a = s.reg a := by
  unfold State.notify State.msix
  dsimp only
  split_ifs <;> rfl

theorem event_reg_ne (s : State) (ev : Fld) (a : Nat) (c : IClass) (hs : List PHost) (b : Nat) (hb : b ≠ ev.addr) :
    (s.event ev a c hs).reg b = s.reg b := by
  unfold State.event
  dsimp only
  split_ifs
  · exact s.reg_put_ne 1 hb
  · exact (foldl_keeps (fun s => s.reg b) (f := fun t h => State.notify t c h) (fun t x => notify_regs t c x b) _ _).trans (s.reg_put_ne 1 hb)
  · exact s.reg_put_ne 1 hb

theorem event_get_ne (s : State) (ev g : Fld) (a : Nat) (c : IClass) (hs : List PHost) (hb : g.addr ≠ ev.addr) :
    (s.event ev a c hs).get g = s.get g := by
  unfold State.get
  rw [event_reg_ne _ _ _ _ _ _ hb]

theorem log_pwr (s : State) (a b c d e : Nat) : (s.log a b c d e).pwr = s.pwr := by
  unfold State.log
  split <;> rfl

theorem logHeld_pwr (s : State) : s.logHeld.pwr = s.pwr := by
  unfold State.logHeld
  refine (foldl_keeps (fun s => s.pwr) ?_ _ _).trans rfl
  intro t x
  rfl

theorem freeFollow_st (s : State) : s.freeFollow.pwr.st = s.pwr.st ∧ s.freeFollow.pwr.pwrok = s.pwr.pwrok := by
  have h : (fun t : State => (t.pwr.st, t.pwr.pwrok)) s.freeFollow = (s.pwr.st, s.pwr.pwrok) := by
    unfold State.freeFollow
    split
    · refine foldl_keeps (fun t : State => (t.pwr.st, t.pwr.pwrok)) ?_ _ _
      intro t x
      split_ifs <;> rfl
    · rfl
  exact ⟨congrArg Prod.fst h, congrArg Prod.snd h⟩

theorem trainStart_pwr (s : State) (n : Nat) : (s.trainStart n).pwr = s.pwr := rfl

theorem takeWindow_pwr (s : State) : s.takeWindow.pwr = s.pwr := by
  unfold State.takeWindow
  split <;> rfl

theorem bump_pwr (s : State) (f : Fld) : (s.bump f).pwr = s.pwr := by
  unfold State.bump
  split <;> rfl

theorem cycleOver_pwr (s : State) : s.cycleOver.pwr = s.pwr := by
  unfold State.cycleOver
  dsimp only
  exact (event_pwr _ _ _ _ _).trans (bump_pwr s _)

theorem cycleStart_pwr (s : State) : s.cycleStart.pwr = s.pwr := by
  unfold State.cycleStart
  dsimp only
  split
  · rw [cycleOver_pwr]; rfl
  · rw [takeWindow_pwr]; rfl

theorem cycleResume_pwr (s : State) : s.cycleResume.pwr = s.pwr := by
  unfold State.cycleResume
  split
  · split
    · exact cycleStart_pwr s
    · rw [takeWindow_pwr]; rfl
  · rfl

theorem event_pwr' (s : State) (h : PHost) (ev : Nat → Fld) : (s.hostEvent h ev).pwr = s.pwr := event_pwr _ _ _ _ _

theorem perstAtRun_high (s : State) (h : ∀ g : PHost, (s.host g).perstN = true) : s.perstAtRun = s := by
  unfold State.perstAtRun
  rw [List.filter_eq_nil_iff.mpr (fun g _ => by simp [h g])]
  rfl

theorem logHeld_hosts (s : State) : s.logHeld.hosts = s.hosts := by
  unfold State.logHeld
  refine (foldl_keeps (fun s => s.hosts) ?_ _ _).trans rfl
  intro t x
  rfl

theorem freeFollow_hosts (s : State) : s.freeFollow.hosts = s.hosts := by
  unfold State.freeFollow
  split
  · refine foldl_keeps (fun t : State => t.hosts) ?_ _ _
    intro t x
    split_ifs <;> rfl
  · rfl

theorem enterRun_eq (s : State) : ∃ u : State, s.enterRun = (if !u.pwr.pwrok then u.drainStart .pwrok
    else if u.get Reg.FW_STAT_CLU_ON = 0 then u.drainStart .request else u) ∧
    u.pwr.st = (s.goto .run).logHeld.freeFollow.perstAtRun.pwr.st ∧ u.pwr.pwrok = (s.goto .run).logHeld.freeFollow.perstAtRun.pwr.pwrok := by
  unfold State.enterRun
  have h1 : ∀ (xs : List Nat) (t : State), (xs.foldl (fun (t : State) n => t.trainStart n) t).pwr = t.pwr := fun xs t =>
    foldl_keeps (fun t => t.pwr) (fun t n => trainStart_pwr t n) xs t
  have h2 : ∀ (xs : List PHost) (t : State), (xs.foldl (fun (t : State) h => t.hostEvent h Reg.HOST_EVENT_CUT) t).pwr = t.pwr :=
    fun xs t => foldl_keeps (fun t => t.pwr) (fun t n => event_pwr' t n _) xs t
  dsimp only
  refine ⟨_, rfl, ?_, ?_⟩
  · rw [cycleResume_pwr, h2, h1]
  · rw [cycleResume_pwr, h2, h1]


theorem log_reg_ne (s : State) (a b c d e : Nat) {x : Nat} (h1 : x ≠ 0xD0A) (h2 : x ≠ 0xD0B) : (s.log a b c d e).reg x = s.reg x := by
  unfold State.log
  split
  · unfold State.logAt State.put36
    dsimp only
    exact (State.reg_setReg_ne _ _ h2).trans (State.reg_setReg_ne _ _ h1)
  · rfl

theorem log_get_ne (s : State) (a b c d e : Nat) {g : Fld} (h1 : g.addr ≠ 0xD0A) (h2 : g.addr ≠ 0xD0B) :
    (s.log a b c d e).get g = s.get g := by
  unfold State.get
  rw [log_reg_ne _ _ _ _ _ _ h1 h2]

theorem Kept.inv {m : Nat} {q : List Instr} {s0 s : State} (h : Kept m q s0 s) : s.Inv := ((good_iff _ _).mp h.good).2

theorem flushStart_st (s : State) (w : FlushFor) : (s.flushStart w).pwr.st = s.pwr.st ∧ (s.flushStart w).pwr.drainBy = s.pwr.drainBy := by
  unfold State.flushStart
  dsimp only
  split
  · unfold State.flushEnd
    split <;> exact ⟨rfl, rfl⟩
  · exact ⟨rfl, rfl⟩

theorem drainAdvance_st (s : State) : s.drainAdvance.pwr.st = s.pwr.st ∧ s.drainAdvance.pwr.drainBy = s.pwr.drainBy := by
  unfold State.drainAdvance
  split
  · exact flushStart_st _ _
  · exact ⟨rfl, rfl⟩

theorem drainStart_st (s : State) (hI : s.Inv) (why : DrainBy) :
    (s.drainStart why).pwr.st = .drain ∧ (s.drainStart why).pwr.drainBy = some why := by
  unfold State.drainStart
  dsimp only
  have e := drainAdvance_st
  have key : ∀ (xs ys : List Nat) (u : State), u.Inv →
      (ys.foldl (fun (t : State) n => t.drainCheck n) (xs.foldl (fun (t : State) n =>
        t.setStn n { t.stn n with drain := some (t.stn n).inProgress }) u)).pwr = u.pwr := by
    intro xs ys u hu
    have h1 := kept_foldl (m := 0x3867120060) (f := fun (t : State) n => t.setStn n { t.stn n with drain := some (t.stn n).inProgress })
      (fun t x ht => State.setStn_kept ht _ _ (by decide)) xs u (kept_start hu _)
    have h2 := kept_foldl (m := 0x3867120060) (f := fun (t : State) n => t.drainCheck n)
      (fun t x ht => State.drainCheck_kept ht _ (by decide)) ys _ h1
    exact h2.frame.pwr (by decide)
  rw [(e _).1, (e _).2, key]
  · exact ⟨rfl, rfl⟩
  · have h0 := kept_foldl (f := State.stopFetching) (fun t x ht => State.stopFetching_kept ht x (by decide)) ([0, 1, 2, 3] : List PHost) s
      (kept_start hI 0x801010060)
    have h1 := State.goto_kept (State.dropWindow_kept h0 (by decide)) .drain (by decide)
    have h2 : Kept 0x801010060 s.pending s _ := kept_mk.mpr (h1.parts (pwr := { ((([0, 1, 2, 3] : List PHost).foldl State.stopFetching s).dropWindow.goto
      .drain).pwr with drainBy := some why, drainStep := .imaging, drainDark := false }) (h_pwr := .inl (by decide)))
    exact h2.inv

theorem clearHold_get (s : State) (h : s.get Reg.ID_LC_STATE ≠ 3) : s.clearHold.get Reg.SUP_PWR_HOLD = 0 := by
  unfold State.clearHold
  rw [if_neg h]
  exact State.get_put_same _ _ _ (by decide) (by decide)

theorem enterVolley_start (s : State) (cause : Cause) (v : Bool) (c : Nat) : (s.enterVolley cause v c false).pwr.st = .volley ∧
    (s.enterVolley cause v c false).store = some { cause := cause, fromVin := v, channel := c } ∧
    (s.enterVolley cause v c false).pwr.progress = 0#3 ∧ (s.enterVolley cause v c false).pwr.backup = true := ⟨rfl, rfl, rfl, rfl⟩

/-- The bits of a sample that a 8-bit field keeps. -/
theorem and_xor_lt (a b : BitVec 8) : (a &&& b).toNat < 256 ∧ (a ^^^ b).toNat < 256 := ⟨(a &&& b).isLt, (a ^^^ b).isLt⟩

theorem get_congr {s t : State} (h : t.regs = s.regs) (g : Fld) : t.get g = s.get g := by
  simp only [State.get, State.reg, h]

theorem flag_congr {s t : State} (h : t.regs = s.regs) (g : Fld) : t.flag g = s.flag g := by
  simp only [State.flag, get_congr h]

theorem stnArmed_congr {s t : State} (h : t.regs = s.regs) (n : Nat) : t.stnArmed n = s.stnArmed n := by
  simp only [State.stnArmed, flag_congr h]

/-- Disarming stations that each have a facet in progress only marks them (R217). -/
theorem disarm_fold (xs : List Nat) (s : State) (h : ∀ n, n ∈ xs → s.stnArmed n = true ∧ (s.stn n).facet.isSome = true) :
    (xs.foldl (fun (t : State) n => t.disarm n) s).regs = s.regs ∧ (xs.foldl (fun (t : State) n => t.disarm n) s).pwr = s.pwr ∧
    ∀ m, (m ∈ xs ∨ (s.stn m).disarming = true) → ((xs.foldl (fun (t : State) n => t.disarm n) s).stn m).disarming = true := by
  induction xs generalizing s with
  | nil => exact ⟨rfl, rfl, fun m hm => by simpa using hm⟩
  | cons x xs ih =>
    obtain ⟨hx1, hx2⟩ := h x (List.mem_cons_self ..)
    have e : s.disarm x = s.setStn x { s.stn x with disarming := true } := by
      simp [State.disarm, hx1, hx2]
    have hs : ∀ m, ((s.disarm x).stn m).facet = (s.stn m).facet := by
      intro m
      rw [e]
      by_cases hm : m = x
      · subst hm
        rw [State.stn_setStn_same]
      · rw [State.stn_setStn_ne _ _ hm]
    obtain ⟨i1, i2, i3⟩ := ih (s.disarm x) (fun n hn => ⟨by rw [e]; exact (h n (List.mem_cons_of_mem _ hn)).1, by
      rw [hs]; exact (h n (List.mem_cons_of_mem _ hn)).2⟩)
    refine ⟨i1.trans (by rw [e]; rfl), i2.trans (by rw [e]; rfl), fun m hm => i3 m ?_⟩
    by_cases hmx : m = x
    · subst hmx
      right
      rw [e, State.stn_setStn_same]
    · rcases hm with hm | hm
      · exact .inl ((List.mem_cons.mp hm).resolve_left hmx)
      · right
        rw [e, State.stn_setStn_ne _ _ hmx]
        exact hm


/-- The store set rests on the region and the partition registers alone (R112). -/
theorem storeSet_congr {s t : State} (h : ∀ a, 0x440 ≤ a → a < 0x4C0 → t.reg a = s.reg a) : t.storeSet = s.storeSet := by
  unfold State.storeSet
  congr 1
  refine List.filter_congr (fun r hr => ?_)
  have hr' : r < 63 := List.mem_range.mp hr
  have h1 : t.reg (0x440 + r) = s.reg (0x440 + r) := h _ (by omega) (by omega)
  have hp : t.partOf r = s.partOf r := by
    unfold State.partOf State.get Reg.PART_REGION_PARTITION
    rw [h1]
  have hs : t.rstate r = s.rstate r := by
    unfold State.rstate State.get Reg.PART_REGION_STATE
    rw [h1]
  unfold State.stored
  rw [hp, hs]
  cases e : s.partOf r with
  | none => rfl
  | some p =>
    have hp2 : p < 63 := by
      unfold State.partOf at e
      dsimp only at e
      split at e
      · next hc => cases e; exact hc.1
      · cases e
    have : t.persistent p = s.persistent p := by
      unfold State.persistent State.flag State.get Reg.PART_ATTR_PERSIST
      rw [h (0x480 + p) (by omega) (by omega)]
    dsimp only
    rw [this]

/-- What freezing the regions gives a store (R112, R124). -/
theorem freeze_store (s : State) (u : Store) (h0 : s.store = some u) (h1 : s.flag Reg.VOL_RETURN_NO_EPOCH = false)
    (h2 : s.flag Reg.ID_LC_WIPING = false) : ∃ v : Store, s.freeze.store = some v ∧ v.cause = u.cause ∧ v.frozen = true ∧
      v.regions = s.storeSet ∧ v.epoch = s.volNext ∧ s.freeze.pwr = s.pwr := by
  unfold State.freeze
  rw [h0]
  dsimp only
  rw [if_neg (by simp [h1, h2])]
  refine ⟨{ u with
        frozen := true, regions := s.storeSet, acount := (s.storeSet.filter (fun r => !s.storedIndep r)).length, epoch := s.volNext,
        indep := s.storeSet.filter (fun r => decide (r = 63) || s.storedIndep r), phys63 := s.phys63, hotRange := s.keep.hotRange,
        planes := s.storeSet.map (fun r => (r, s.targetPlane s.seals r)),
        thresholds := (List.range (waveCount s.storeSet.length)).map (fun k => waveThreshold s.holdCap (s.storeSet.length - 8 * k)) },
    ?_, rfl, rfl, rfl, rfl, ?_⟩
  · unfold State.takeEpoch
    split <;> rfl
  · unfold State.takeEpoch
    split <;> rfl

theorem event_reg (s : State) (ev : Fld) (a : Nat) (c : IClass) (hs : List PHost) (b : Nat) :
    (s.event ev a c hs).reg b = (s.put ev 1).reg b := by
  unfold State.event
  dsimp only
  split_ifs
  · rfl
  · exact foldl_keeps (fun s => s.reg b) (fun t h => notify_regs t c h b) hs _
  · rfl

/-- An event bit stands after its event (R183). -/
theorem event_get_same (s : State) (ev : Fld) (a : Nat) (c : IClass) (hs : List PHost) (h1 : ev.hi < 18) (h2 : ev.hi = ev.lo) :
    (s.event ev a c hs).get ev = 1 := by
  unfold State.get
  rw [event_reg]
  have h := State.get_put_same s ev 1 h1 (by rw [h2]; simp)
  exact h

theorem watch_get (s old : State) (g : Fld) (h1 : g.addr ≠ Reg.VOL_EVENT_READY_LOST.addr) (h2 : g.addr ≠ Reg.SUP_EVENT_WARN.addr) :
    (s.watch old).get g = s.get g := by
  have e1 : ∀ t : State, (t.warnFollow).get g = t.get g := by
    intro t
    unfold State.warnFollow
    split
    · dsimp only
      split
      · exact event_get_ne _ _ _ _ _ _ h2
      · rfl
    · rfl
  unfold State.watch
  dsimp only
  rw [e1]
  have e2 : (if old.hub = true ∧ s.hub = true ∧ (!old.short) = true ∧ s.short = true then
      (if old.pwr.st = .run ∧ s.pwr.st = .run ∧ old.ready = true ∧ (!s.ready) = true then s.volEvent Reg.VOL_EVENT_READY_LOST else s).volEvent
        Reg.VOL_EVENT_SHORT
      else (if old.pwr.st = .run ∧ s.pwr.st = .run ∧ old.ready = true ∧ (!s.ready) = true then s.volEvent Reg.VOL_EVENT_READY_LOST else s)).get g
      = (if old.pwr.st = .run ∧ s.pwr.st = .run ∧ old.ready = true ∧ (!s.ready) = true then s.volEvent Reg.VOL_EVENT_READY_LOST else s).get g := by
    split
    · exact event_get_ne _ _ _ _ _ _ h1
    · rfl
  refine e2.trans ?_
  split
  · exact event_get_ne _ _ _ _ _ _ h1
  · rfl

/-- One update of each station of a list without repeats. -/
theorem foldl_setStn (g : Stn → Stn) (xs : List StnId) (h : xs.Nodup) (s : State) (m : StnId) :
    (xs.foldl (fun (t : State) n => t.setStn n.val (g (t.stn n.val))) s).stn m.val = if m ∈ xs then g (s.stn m.val) else s.stn m.val := by
  induction xs generalizing s with
  | nil => rfl
  | cons x xs ih =>
    rw [List.nodup_cons] at h
    rw [List.foldl_cons, ih h.2]
    by_cases hm : m = x
    · subst hm
      rw [if_neg h.1, if_pos (List.mem_cons_self ..), State.stn_setStn_same]
    · have hv : m.val ≠ x.val := fun e => hm (Fin.ext e)
      rw [State.stn_setStn_ne _ _ hv]
      simp [List.mem_cons, hm]

theorem serving_congr (s t : State) (h : s.serving = true) (e : t.pwr.st = s.pwr.st) : t.serving = true := by
  rw [← h]
  unfold State.serving
  rw [e]

theorem inv_pwr {s : State} (hI : s.Inv) (p : Pwr) : ({ s with pwr := p } : State).Inv := by
  have h2 : Kept 0x10000 s.pending s _ := kept_mk.mpr ((kept_start hI 0x10000).parts (pwr := p) (h_pwr := .inl (by decide)))
  exact h2.inv

theorem setOsf_facts (s : State) (cause : Fld) (hc : cause = Reg.RTC_STATUS_STOP ∨ cause = Reg.RTC_STATUS_LOWBAT) :
    (s.setOsf cause).get Reg.RTC_STATUS_OSF = 1 ∧ (s.setOsf cause).get cause = 1 ∧
    (s.get Reg.RTC_STATUS_OSF = 0 → (s.setOsf cause).get Reg.RTC_EVENT_OSF = 1) := by
  have h1 : ((s.put Reg.RTC_STATUS_OSF 1).put cause 1).get Reg.RTC_STATUS_OSF = 1 := by
    rw [State.get_put_apart _ _ (by decide) (by rcases hc with rfl | rfl <;> decide)]
    exact State.get_put_same _ _ _ (by decide) (by decide)
  have h2 : ((s.put Reg.RTC_STATUS_OSF 1).put cause 1).get cause = 1 :=
    State.get_put_same _ _ _ (by rcases hc with rfl | rfl <;> decide) (by rcases hc with rfl | rfl <;> decide)
  have ha : cause.addr ≠ Reg.RTC_EVENT_OSF.addr := by rcases hc with rfl | rfl <;> decide
  unfold State.setOsf
  dsimp only
  split
  · next h =>
    refine ⟨h1, h2, fun h0 => ?_⟩
    rw [State.flag, h0] at h
    exact absurd h (by decide)
  · refine ⟨(event_get_ne _ _ _ _ _ _ (by decide)).trans h1, (event_get_ne _ _ _ _ _ _ ha).trans h2, fun _ => ?_⟩
    exact event_get_same _ _ _ _ _ (by decide) rfl

/-- A stall of the S PLL on a station that waits for no facet's end (R42, R236). -/
theorem pllStall_facts (s : State) (hI : s.Inv) (n : StnId) (h : (s.stn n.val).disarming = false) :
    (s.pllStall n).get (Reg.STN_STATUS_STALLED n.val) = 1 ∧ (s.pllStall n).get (Reg.STN_EVENT_STALL n.val) = 1 ∧
    ((s.pllStall n).stn n.val).facet = none ∧ ((s.pllStall n).stn n.val).win = .closed ∧ (s.pllStall n).pwr = s.pwr := by
  have hb : ((s.blankOutput n.val).stn n.val).disarming = false := by
    unfold State.blankOutput State.blankFrom
    dsimp only
    split
    · split
      · exact h
      · rw [State.stn_setStn_same]
        exact h
    · exact h
  have hm : sub 0x7845120060 0x7845120060 = true := sub_refl _
  have k1 := State.blankOutput_kept (kept_start hI 0x7845120060) n.val (by decide)
  have k2 := State.stnSpoil_kept (kept_start k1.inv 0x3841120060) n.val ((s.blankOutput n.val).stn n.val).inProgress 2 (by decide)
  have k3 : ((s.blankOutput n.val).spoilProgress n.val 2).stns = (s.blankOutput n.val).stns := k2.frame.stns (by decide)
  have hs : ((s.stallNow n.val).stn n.val).disarming = false := by
    unfold State.stallNow
    dsimp only
    rw [State.stn_setStn_same]
    show (State.stn (State.event _ _ _ _ _) n.val).disarming = false
    have e : ∀ (t : State) (ev : Fld) (a : Nat) (c : IClass) (hs : List PHost), (t.event ev a c hs).stns = t.stns := by
      intro t ev a c hs
      have : ∀ (u : State) (g : PHost), (u.notify c g).stns = u.stns := by
        intro u g
        unfold State.notify State.msix
        dsimp only
        split_ifs <;> rfl
      unfold State.event
      dsimp only
      split_ifs
      · rfl
      · exact foldl_keeps (fun s => s.stns) (fun t h => this t h) hs _
      · rfl
    unfold State.stn
    rw [e]
    show (Map.get _ ((s.blankOutput n.val).spoilProgress n.val 2).stns n.val).disarming = false
    rw [k3]
    exact hb
  have hp : (s.stallNow n.val).pwr = s.pwr := (State.stallNow_kept (kept_start hI _) n.val hm).frame.pwr (by decide)
  have g1 : (s.stallNow n.val).get (Reg.STN_STATUS_STALLED n.val) = 1 := by
    unfold State.stallNow
    dsimp only
    show (State.event _ _ _ _ _).get _ = 1
    rw [event_get_ne _ _ _ _ _ _ (show (0x802 + 0x80 * n.val : Nat) ≠ 0x803 + 0x80 * n.val by omega)]
    exact State.get_put_same _ _ _ (show (13 : Nat) < 18 by decide) (show (1 : Nat) < 2 ^ (13 + 1 - 13) by decide)
  have g2 : (s.stallNow n.val).get (Reg.STN_EVENT_STALL n.val) = 1 := by
    unfold State.stallNow
    dsimp only
    exact event_get_same _ (Reg.STN_EVENT_STALL n.val) _ _ _ (show (3 : Nat) < 18 by decide) rfl
  unfold State.pllStall
  dsimp only
  have hlink : (if (s.stallNow n.val).linkUp n.val = true then (s.stallNow n.val).emit (.abort n 2) else s.stallNow n.val).stn n.val =
      (s.stallNow n.val).stn n.val := by split <;> rfl
  rw [if_neg]
  · rw [State.stn_setStn_same]
    refine ⟨?_, ?_, rfl, rfl, ?_⟩
    · split
      · exact g1
      · exact g1
    · split
      · exact g2
      · exact g2
    · split
      · exact hp
      · exact hp
  · rw [State.stn_setStn_same]
    dsimp only
    rw [hlink, hs]
    decide

/-- A link that goes down with its port's clock (R42, R160). -/
theorem linkGone_facts (s : State) (h : PHost) : ∃ u : State, s.linkGone h = u.functionReset h true ∧ (u.host h).up = false ∧
    (u.host h).ready = false ∧ (u.host h).perstN = (s.host h).perstN ∧ u.get (Reg.HOST_LINK_SPEED h.val) = 0 ∧ u.get (Reg.HOST_LINK_WIDTH h.val) = 0 ∧ u.stns = s.stns ∧
    u.arr = s.arr := by
  refine ⟨((s.put (Reg.HOST_LINK_SPEED h.val) 0).put (Reg.HOST_LINK_WIDTH h.val) 0).setHost h
    { s.host h with up := false, ready := false, retraining := false, l1 := false }, by unfold State.linkGone; rfl, ?_⟩
  rw [State.host_setHost_same]
  rw [State.get_setHost, State.get_setHost]
  refine ⟨rfl, rfl, rfl, ?_, ?_, rfl, rfl⟩
  · exact (State.get_put_apart _ _ (show (17 : Nat) < 18 by decide) (Or.inr (show (14 : Nat) < 15 by decide))).trans
      (State.get_put_same _ _ _ (show (17 : Nat) < 18 by decide) (show (0 : Nat) < 2 ^ (17 + 1 - 15) by decide))
  · exact State.get_put_same _ _ _ (show (14 : Nat) < 18 by decide) (show (0 : Nat) < 2 ^ (14 + 1 - 11) by decide)

@[simp] theorem State.get_noteFault (s : State) (c : Nat) (b : Bool) (f : Fld) : (s.noteFault c b).get f = s.get f := rfl
@[simp] theorem State.reg_noteFault (s : State) (c : Nat) (b : Bool) (a : Nat) : (s.noteFault c b).reg a = s.reg a := rfl

/-- An EVENT action sets the channel's event bit and nothing else in the registers (Table 5-3). -/
theorem takeAction_event (s : State) (c : Nat) (hc : c < 12) (high : Bool) (h : s.action c high = 1) :
    (s.takeActions [(c, high)]).get (Reg.SUP_EVENT_CH.at c) = 1 ∧ (s.takeActions [(c, high)]).pwr.st = s.pwr.st ∧
    ∀ a, a ≠ Reg.SUP_EVENT_CH.addr → (s.takeActions [(c, high)]).reg a = s.reg a := by
  have e : s.takeActions [(c, high)] = (s.noteFault c false).supEvent (Reg.SUP_EVENT_CH.at c) := by
    simp [State.takeActions, State.noteAction, h]
  rw [e]
  refine ⟨event_get_same _ (Reg.SUP_EVENT_CH.at c) _ _ _ (show Reg.SUP_EVENT_CH.lo + c < 18 by simp [Reg.SUP_EVENT_CH]; omega) rfl, ?_, ?_⟩
  · exact (congrArg Pwr.st (event_pwr (s.noteFault c false) (Reg.SUP_EVENT_CH.at c) _ _ _)).trans rfl
  · intro a ha
    unfold State.supEvent
    rw [event_reg_ne _ _ _ _ _ _ (show a ≠ (Reg.SUP_EVENT_CH.at c).addr from ha), State.reg_noteFault]

/-- A POWERFAIL action in RUN starts a Volley from the hold capacitor (R44, R139). -/
theorem takeAction_powerFail (s : State) (c : Nat) (high : Bool) (h : s.action c high = 3) (hr : s.pwr.st = .run) :
    (s.takeActions [(c, high)]).pwr.st = .volley ∧ (s.takeActions [(c, high)]).pwr.powerFail = true ∧
    (s.takeActions [(c, high)]).store = some { cause := .power, fromVin := false, channel := c } := by
  have hp : ∀ t : State, t.pwr.st = .run → (t.powerFail c).pwr.st = .volley ∧ (t.powerFail c).pwr.powerFail = true ∧
      (t.powerFail c).store = some { cause := .power, fromVin := false, channel := c } := by
    intro t ht
    have e : t.powerFail c = t.enterVolley .power false c false := by
      unfold State.powerFail
      rw [ht]
    rw [e]
    exact ⟨rfl, rfl, rfl⟩
  have e : s.takeActions [(c, high)] = (((s.noteFault c true).supEvent (Reg.SUP_EVENT_CH.at c)).capture c high false).powerFail c := by
    simp [State.takeActions, State.noteAction, h]
  rw [e]
  apply hp
  have h1 : ((s.noteFault c true).supEvent (Reg.SUP_EVENT_CH.at c)).pwr.st = .run :=
    (congrArg Pwr.st (event_pwr (s.noteFault c true) (Reg.SUP_EVENT_CH.at c) _ _ _)).trans hr
  unfold State.capture
  split
  · exact (congrArg Pwr.st (event_pwr _ _ _ _ _)).trans h1
  · exact h1

theorem warnFollow_fall (s : State) (h1 : s.serving = true) (h2 : s.pwr.warnN = true) (h3 : s.warnLevel = false) :
    s.warnFollow.pwr = { s.pwr with warnN := false } ∧ s.warnFollow.get Reg.SUP_EVENT_WARN = 1 := by
  unfold State.warnFollow
  rw [if_pos h1, h2, h3]
  dsimp only
  rw [if_pos (by decide)]
  exact ⟨event_pwr _ _ _ _ _, event_get_same _ Reg.SUP_EVENT_WARN _ _ _ (by decide) rfl⟩

theorem warnFollow_st (s : State) : s.warnFollow.pwr.st = s.pwr.st := by
  unfold State.warnFollow
  split
  · dsimp only
    split
    · exact (congrArg Pwr.st (event_pwr _ _ _ _ _)).trans rfl
    · rfl
  · rfl

theorem watch_st (s old : State) : (s.watch old).pwr.st = s.pwr.st := by
  unfold State.watch
  dsimp only
  rw [warnFollow_st]
  split
  · refine (congrArg Pwr.st (event_pwr _ _ _ _ _)).trans ?_
    split
    · exact congrArg Pwr.st (event_pwr _ _ _ _ _)
    · rfl
  · split
    · exact congrArg Pwr.st (event_pwr _ _ _ _ _)
    · rfl

/-- The fields of VOL_LAST (R136). -/
theorem volLast_fields (c r w ch v b : Nat) (hc : c < 16) (hr : r < 4) (hw : w < 16) (hch : ch < 16) (hv : v < 2) (hb : b < 2) :
    let x := (BitVec.ofNat 18 (c * 2 ^ 14 + r * 2 ^ 12 + w * 2 ^ 8 + ch * 2 ^ 4 + v * 2 ^ 3 + b * 2 ^ 2)).toNat
    bits x 17 14 = c ∧ bits x 13 12 = r ∧ bits x 11 8 = w ∧ bits x 7 4 = ch := by
  simp only [BitVec.toNat_ofNat, bits]
  refine ⟨?_, ?_, ?_, ?_⟩ <;> omega

theorem cause_lt (c : Cause) : c.code < 16 := by cases c <;> decide

theorem volLast_get (s : State) (t : Store) (r w v time : Nat) (hr : r < 4) (hw : w < 16) (hch : t.channel < 16) (hv : v < 1024) :
    (s.volLast t r w v time).get Reg.VOL_LAST_CAUSE = t.cause.code ∧ (s.volLast t r w v time).get Reg.VOL_LAST_RESULT = r ∧
    (s.volLast t r w v time).get Reg.VOL_LAST_WAVES = w ∧ (s.volLast t r w v time).get Reg.VOL_LAST_CHANNEL = t.channel ∧
    (s.volLast t r w v time).get Reg.VOL_LAST_VHOLD_VHOLD_END = v := by
  have h := volLast_fields t.cause.code r w t.channel (b2n t.vinBack) (b2n t.resetSeen) (cause_lt _) hr hw hch (b2n_lt _) (b2n_lt _)
  dsimp only at h
  have e : (s.volLast t r w v time).reg 0x608 = BitVec.ofNat 18 (t.cause.code * 2 ^ 14 + r * 2 ^ 12 + w * 2 ^ 8 + t.channel * 2 ^ 4 +
      b2n t.vinBack * 2 ^ 3 + b2n t.resetSeen * 2 ^ 2) := by
    unfold State.volLast
    dsimp only
    rw [State.reg_put_ne _ _ (by decide), State.reg_put_ne _ _ (by decide), State.reg_setReg_same]
  unfold State.get
  simp only [Reg.VOL_LAST_CAUSE, Reg.VOL_LAST_RESULT, Reg.VOL_LAST_WAVES, Reg.VOL_LAST_CHANNEL, e]
  refine ⟨h.1, h.2.1, h.2.2.1, h.2.2.2, ?_⟩
  show State.get _ _ = v
  unfold State.volLast
  dsimp only
  rw [State.get_put_ne _ _ (by decide)]
  exact State.get_put_same _ _ _ (by decide) hv

theorem strapBegin_st (s : State) (b : Bool) : (s.strapBegin b).pwr.st = s.pwr.st := rfl

/-- A state without rails: DARK while VSTBY is good, OFF otherwise (R43, Table 1-7). -/
theorem enterDark_st (s : State) (hI : s.Inv) : s.enterDark.store = none ∧ s.enterDark.pwr.st = if s.vstbyOk then .dark else .off := by
  have hv : s.unpower.vstbyOk = s.vstbyOk := by
    unfold State.vstbyOk
    have e : s.unpower.get Reg.SUP_OUT_OUT = s.get Reg.SUP_OUT_OUT := by
      show State.get ((s.allLow.clearBuffer).put Reg.SUP_SCRIPT_RUNNING 0) _ = _
      rw [State.get_put_ne _ _ (by decide)]
      exact State.get_put_ne _ _ (by decide)
    rw [e]
  unfold State.enterDark
  dsimp only
  rw [hv]
  cases s.vstbyOk with
  | true =>
    rw [if_neg (by decide), if_pos rfl]
    split
    · exact ⟨rfl, rfl⟩
    · exact ⟨rfl, rfl⟩
  | false =>
    rw [if_pos (by decide), if_neg (by decide)]
    exact ⟨rfl, rfl⟩

/-- What a Volley that ends leaves in VOL_LAST (R66, R136). -/
theorem volleyEnd_facts (s : State) (hI : s.Inv) (t : Store) (r w v time : Nat) (hr : r < 4) (hw : w < 16) (hch : t.channel < 16)
    (hv : v < 1024) : (s.volleyEnd t r w v time).store = none ∧
    (s.volleyEnd t r w v time).pwr.st = (if s.vstbyOk then .dark else .off) ∧
    (s.volleyEnd t r w v time).get Reg.VOL_LAST_CAUSE = t.cause.code ∧ (s.volleyEnd t r w v time).get Reg.VOL_LAST_RESULT = r ∧
    (s.volleyEnd t r w v time).get Reg.VOL_LAST_WAVES = w ∧ (s.volleyEnd t r w v time).get Reg.VOL_LAST_CHANNEL = t.channel ∧
    (s.volleyEnd t r w v time).get Reg.VOL_LAST_VHOLD_VHOLD_END = v := by
  have k1 := State.storeOver_kept (kept_start hI 0x210020) t r w v time (by decide)
  have k2 := State.enterDark_kept (kept_start k1.inv 0x603761004a) (by decide)
  have hr2 : ∀ g : Fld, regPart g.addr = 5 → (s.volleyEnd t r w v time).get g = (s.volLast t r w v time).get g := by
    intro g hg
    unfold State.get State.volleyEnd
    rw [k2.frame.regs _ (by rw [hg]; decide)]
    rfl
  obtain ⟨e1, e2, e3, e4, e5⟩ := volLast_get s t r w v time hr hw hch hv
  obtain ⟨d1, d2⟩ := enterDark_st (s.storeOver t r w v time) k1.inv
  refine ⟨d1, ?_, (hr2 _ (by decide)).trans e1, (hr2 _ (by decide)).trans e2, (hr2 _ (by decide)).trans e3, (hr2 _ (by decide)).trans e4,
    (hr2 _ (by decide)).trans e5⟩
  refine d2.trans ?_
  have : (s.storeOver t r w v time).vstbyOk = s.vstbyOk := by
    unfold State.vstbyOk
    have e : (s.storeOver t r w v time).get Reg.SUP_OUT_OUT = s.get Reg.SUP_OUT_OUT := by
      unfold State.get
      rw [k1.frame.regs _ (by decide)]
    rw [e]
  rw [this]

/-- Only the first wave, which stores region 63, looks at where region 63 lies (R105, R111). -/
theorem atWave_later (s : State) (t : Store) (k : Nat) (h : k ≠ 1) : s.atWave t k = { t with wave := k } := by
  unfold State.atWave
  rw [if_neg (fun hc => h hc.1)]

/-- A wave that starts leaves the store as it was, with its number and the place of region 63 (R111, R113). -/
theorem waveStart_store (s : State) (hI : s.Inv) (t : Store) (k : Nat) (hk : t.wave = 0 ∨ k ≠ 1) : (s.waveStart t k).store = some (s.atWave t k) := by
  have e : s.atWave t k = State.atWave (if t.wave = 0 then s else s.waveEnd t) t k := by
    split
    · rfl
    · next h => rw [atWave_later _ _ _ (hk.resolve_left h), atWave_later _ _ _ (hk.resolve_left h)]
  rw [e]
  unfold State.waveStart
  dsimp only
  have h2 : (if t.wave = 0 then s else s.waveEnd t).Inv := by
    split
    · exact hI
    · exact (State.waveEnd_kept (kept_start hI 0x3a67b2007e) t (by decide)).inv
  generalize (if t.wave = 0 then s else s.waveEnd t) = u at h2
  have h1 : (({ u with store := some (u.atWave t k) } : State)).Inv := by
    have h3 : Kept 0x200000 u.pending u _ := kept_mk.mpr ((kept_start h2 0x200000).parts (store := some (u.atWave t k))
      (h_store := .inl (by decide)))
    exact h3.inv
  have k1 := kept_foldl (m := 0x800040040) (f := fun (v : State) r => v.storeRegion (u.atWave t k) r)
    (fun v x hv => State.storeRegion_kept hv (u.atWave t k) x (by decide)) (Store.waveSet (u.atWave t k) k) _ (kept_start h1 _)
  exact k1.frame.store (by decide)

/-- A comparison that computes: field positions of an indexed register. -/
theorem lt_rfl {a b : Nat} (h : Nat.blt a b = true) : a < b := Nat.blt_eq ▸ h

/-- What a ring error records (R172, R189). -/
theorem ringErr_facts (s : State) (h : PHost) (code : Nat) (cq : Bool) (j : Nat) (ev : Nat → Fld) (hev : (ev h.val).addr = 0x708 + h.val)
    (hb : (ev h.val).hi < 18 ∧ (ev h.val).hi = (ev h.val).lo) (hc : code < 16) (hj : j < 4) :
    (s.ringErr h code cq j ev).get (Reg.HOST_ERR_CODE h.val) = code ∧ (s.ringErr h code cq j ev).get (Reg.HOST_ERR_CQ h.val) = b2n cq ∧
    (s.ringErr h code cq j ev).get (Reg.HOST_ERR_RING h.val) = j ∧ (s.ringErr h code cq j ev).get (ev h.val) = 1 ∧
    (s.ringErr h code cq j ev).pwr = s.pwr ∧
    ∀ g : Fld, g.addr ≠ 0x708 + h.val → g.addr ≠ 0x710 + h.val → (s.ringErr h code cq j ev).get g = s.get g := by
  unfold State.ringErr State.hostEvent
  refine ⟨?_, ?_, ?_, event_get_same _ _ _ _ _ hb.1 hb.2, (event_pwr _ _ _ _ _).trans rfl, fun g g1 g2 => ?_⟩
  · rw [event_get_ne _ _ _ _ _ _ (by rw [hev]; simp only [Reg.HOST_ERR_CODE]; omega), State.get_put_apart _ _ (lt_rfl rfl) (.inr (lt_rfl rfl)),
      State.get_put_apart _ _ (lt_rfl rfl) (.inr (lt_rfl rfl))]
    exact State.get_put_same _ _ _ (lt_rfl rfl) hc
  · rw [event_get_ne _ _ _ _ _ _ (by rw [hev]; simp only [Reg.HOST_ERR_CQ]; omega), State.get_put_apart _ _ (lt_rfl rfl) (.inr (lt_rfl rfl))]
    exact State.get_put_same _ _ _ (lt_rfl rfl) (b2n_lt _)
  · rw [event_get_ne _ _ _ _ _ _ (by rw [hev]; simp only [Reg.HOST_ERR_RING]; omega)]
    exact State.get_put_same _ _ _ (lt_rfl rfl) hj
  · rw [event_get_ne _ _ _ _ _ _ (by rw [hev]; exact g1), State.get_put_ne _ _ (show g.addr ≠ (Reg.HOST_ERR_RING h.val).addr from g2),
      State.get_put_ne _ _ (show g.addr ≠ (Reg.HOST_ERR_CQ h.val).addr from g2), State.get_put_ne _ _ (show g.addr ≠ (Reg.HOST_ERR_CODE h.val).addr from g2)]

/-- What a stopped SQ shows (R189, R191). -/
theorem stopSq_facts (s : State) (h : PHost) (j : Ring) (code : Nat) (hc : code < 16) :
    (s.stopSq h j.val code).sqState h.val j.val = sqStopped ∧ (s.stopSq h j.val code).get (Reg.HOST_ERR_CODE h.val) = code ∧
    (s.stopSq h j.val code).get (Reg.HOST_ERR_RING h.val) = j.val ∧ (s.stopSq h j.val code).get (Reg.HOST_EVENT_SQ_STOP h.val) = 1 ∧
    (∀ k : Ring, k ≠ j → (s.stopSq h j.val code).sqState h.val k.val = s.sqState h.val k.val) := by
  have e := ringErr_facts (s.put (Reg.HOST_SQ_STAT_STATE h.val j.val) sqStopped) h code false j.val Reg.HOST_EVENT_SQ_STOP rfl
    ⟨lt_rfl rfl, rfl⟩ hc j.isLt
  refine ⟨?_, e.1, e.2.2.1, e.2.2.2.1, fun k hk => ?_⟩
  · refine (e.2.2.2.2.2 _ ?_ ?_).trans (State.get_put_same _ _ _ (lt_rfl rfl) (lt_rfl rfl))
    · simp only [Reg.HOST_SQ_STAT_STATE]; omega
    · simp only [Reg.HOST_SQ_STAT_STATE]; omega
  · have hv : k.val ≠ j.val := fun e => hk (Fin.ext e)
    refine (e.2.2.2.2.2 _ ?_ ?_).trans (State.get_put_ne _ _ ?_)
    · simp only [Reg.HOST_SQ_STAT_STATE]; omega
    · simp only [Reg.HOST_SQ_STAT_STATE]; omega
    · simp only [Reg.HOST_SQ_STAT_STATE]; omega

/-- Stopping several SQs stops each of them (R189). -/
theorem stopSq_fold (h : PHost) (code : Nat) (hc : code < 16) (xs : List Ring) (s : State) (j : Ring) :
    (xs.foldl (fun (t : State) j => t.stopSq h j.val code) s).sqState h.val j.val =
      if j ∈ xs then sqStopped else s.sqState h.val j.val := by
  induction xs generalizing s with
  | nil => rfl
  | cons x xs ih =>
    rw [List.foldl_cons, ih]
    by_cases hm : j ∈ xs
    · rw [if_pos hm, if_pos (List.mem_cons_of_mem _ hm)]
    · rw [if_neg hm]
      by_cases hx : j = x
      · subst hx
        rw [if_pos (List.mem_cons_self ..)]
        exact (stopSq_facts s h j code hc).1
      · rw [if_neg (by simp [hx, hm])]
        exact (stopSq_facts s h x code hc).2.2.2.2 j hx

@[simp] theorem State.sqState_setHost (s : State) (h : PHost) (p : HostPort) (k j : Nat) : (s.setHost h p).sqState k j = s.sqState k j := rfl
@[simp] theorem State.cqActive_setHost (s : State) (h : PHost) (p : HostPort) (k j : Nat) : (s.setHost h p).cqActive k j = s.cqActive k j := rfl

/-- A tail is read from poll data only for an ACTIVE SQ (R174). -/
theorem pollTail_off (s : State) (h : PHost) (j w : Nat) (hs : s.sqState h.val j ≠ sqActive) : s.pollTail h j w = s := by
  unfold State.pollTail
  rw [if_neg hs]

theorem pollHead_off (s : State) (h : PHost) (q w : Nat) (hs : s.cqActive h.val q = false) : s.pollHead h q w = s := by
  unfold State.pollHead
  rw [hs]
  rfl

/-- An advancing tail is taken (R174). -/
theorem pollTail_on (s : State) (h : PHost) (j w : Nat) (hs : s.sqState h.val j = sqActive) (hw : w < s.sqSize h.val j)
    (ho : ¬(w + s.sqSize h.val j - s.sqHead h.val j) % s.sqSize h.val j < (s.sqTail h j + s.sqSize h.val j - s.sqHead h.val j) % s.sqSize h.val j) :
    ∃ p : HostPort, s.pollTail h j w = s.setHost h { p with tails := Map.set (fun _ => 0) (s.host h).tails j w } ∧ p.polls = (s.host h).polls ∧
      (w ≠ s.sqTail h j → p.period = 250) := by
  unfold State.pollTail
  rw [if_pos hs, if_neg (by omega)]
  dsimp only
  unfold State.sqTail at ho
  rw [if_neg ho]
  unfold State.sqTail
  by_cases e : w = Map.get (fun _ => 0) (s.host h).tails j
  · rw [if_pos e]
    exact ⟨s.host h, rfl, rfl, fun hn => absurd e hn⟩
  · rw [if_neg e]
    exact ⟨{ s.host h with period := 250 }, rfl, rfl, fun _ => rfl⟩

theorem bit_eq (x i : Nat) : bit x i = x.testBit i := by
  unfold bit
  rw [Nat.testBit_eq_decide_div_mod_eq]

theorem bit_clear (m : BitVec 32) (v : Nat) (hv : v < 32) : bit (m &&& ~~~(BitVec.ofNat 32 (2 ^ v))).toNat v = false := by
  rw [bit_eq, BitVec.testBit_toNat, BitVec.getLsbD_and, BitVec.getLsbD_not, BitVec.getLsbD_ofNat, Nat.testBit_two_pow_self]
  simp [hv]

theorem ringErr_reg (s : State) (h : PHost) (code : Nat) (cq : Bool) (j : Nat) (ev : Nat → Fld) (hev : (ev h.val).addr = 0x708 + h.val)
    (a : Nat) (h1 : a ≠ 0x708 + h.val) (h2 : a ≠ 0x710 + h.val) : (s.ringErr h code cq j ev).reg a = s.reg a := by
  unfold State.ringErr State.hostEvent
  rw [event_reg_ne _ _ _ _ _ _ (by rw [hev]; exact h1), State.reg_put_ne _ _ (show a ≠ (Reg.HOST_ERR_RING h.val).addr from h2),
    State.reg_put_ne _ _ (show a ≠ (Reg.HOST_ERR_CQ h.val).addr from h2), State.reg_put_ne _ _ (show a ≠ (Reg.HOST_ERR_CODE h.val).addr from h2)]

@[simp] theorem State.host_emit (s : State) (o : Out) (h : PHost) : (s.emit o).host h = s.host h := rfl

theorem event_flights (s : State) (ev : Fld) (a : Nat) (c : IClass) (hs : List PHost) : (s.event ev a c hs).flights = s.flights := by
  have : ∀ (u : State) (g : PHost), (u.notify c g).flights = u.flights := by
    intro u g
    unfold State.notify State.msix
    dsimp only
    split_ifs <;> rfl
  unfold State.event
  dsimp only
  split_ifs
  · rfl
  · exact foldl_keeps (fun s => s.flights) (fun t h => this t h) hs _
  · rfl

theorem event_dev (s : State) (ev : Fld) (a : Nat) (c : IClass) (hs : List PHost) : (s.event ev a c hs).dev = s.dev := by
  have : ∀ (u : State) (g : PHost), (u.notify c g).dev = u.dev := by
    intro u g
    unfold State.notify State.msix
    dsimp only
    split_ifs <;> rfl
  unfold State.event
  dsimp only
  split_ifs
  · rfl
  · exact foldl_keeps (fun s => s.dev) (fun t h => this t h) hs _
  · rfl

/-- A mailbox reset changes its queues and its event enables alone (R186). -/
theorem mbReset_facts (s : State) (h : Nat) : (s.mbReset h).flights = s.flights ∧ (s.mbReset h).dev = s.dev ∧
    ∀ a, a ≠ 0x3A0 + h → (s.mbReset h).reg a = s.reg a := by
  have e : ∀ {β : Type} (p : State → β), (∀ (t : State) (c : Nat) (m : Mailbox), p (t.setMbox c m) = p t) →
      p ([5, 6, 7].foldl (fun (t : State) c =>
        let t1 := if t.mbEnd c false = .host h then t.setMbox c ((t.mbox c).set false [] []) else t
        if t1.mbEnd c true = .host h then t1.setMbox c ((t1.mbox c).set true [] []) else t1)
        ((s.setMbox (h - 1) ((s.mbox (h - 1)).set false [] [])).setMbox (h - 1)
          (((s.setMbox (h - 1) ((s.mbox (h - 1)).set false [] [])).mbox (h - 1)).set true [] []))) = p s := by
    intro β p hp
    refine (foldl_keeps p ?_ _ _).trans (by rw [hp, hp])
    intro t c
    dsimp only
    split_ifs <;> simp only [hp]
  refine ⟨?_, ?_, ?_⟩
  · exact e (fun t => t.flights) (fun _ _ _ => rfl)
  · exact e (fun t => t.dev) (fun _ _ _ => rfl)
  · intro a ha
    unfold State.mbReset
    dsimp only
    rw [State.reg_setReg_ne _ _ ha]
    exact e (fun t => t.reg a) (fun _ _ _ => rfl)

theorem cutEvent_facts (s : State) (h : PHost) :
    (if 0 < s.cutCount h then s.hostEvent h Reg.HOST_EVENT_CUT else s).flights = s.flights ∧
    (if 0 < s.cutCount h then s.hostEvent h Reg.HOST_EVENT_CUT else s).dev = s.dev ∧
    ∀ a, a ≠ 0x708 + h.val → (if 0 < s.cutCount h then s.hostEvent h Reg.HOST_EVENT_CUT else s).reg a = s.reg a := by
  split
  · exact ⟨event_flights _ _ _ _ _, event_dev _ _ _ _ _, fun a ha => event_reg_ne _ _ _ _ _ _ ha⟩
  · exact ⟨rfl, rfl, fun _ _ => rfl⟩

/-- What a function-level reset leaves before descriptors of other hosts go on (R186, R187). -/
theorem functionReset_facts (s : State) (h : PHost) (keep : Bool) : ∃ u : State, s.functionReset h keep = u.settle ∧
    (∀ f, f ∈ u.flights → f.host ≠ h) ∧ (∀ a, hostRegAddr h.val a = true → a ≠ 0x708 + h.val ∨ keep = false → u.reg a = regReset a) ∧
    (keep = false → u.cutCount h = 0) := by
  have cut : ∀ t : State, t.dev.replay = (s.dropHost h).dev.replay.filter (fun r => decide (r.host ≠ h)) → t.cutCount h = 0 := by
    intro t ht
    unfold State.cutCount
    rw [ht, List.filter_filter]
    simp
  unfold State.functionReset
  refine ⟨_, rfl, ?_, ?_, ?_⟩
  · intro f hf
    dsimp only at hf
    rw [(cutEvent_facts _ _).1, (mbReset_facts _ _).1] at hf
    have hf2 : f ∈ (s.dropHost h).flights := by
      split at hf <;> exact hf
    unfold State.dropHost at hf2
    simpa using (List.mem_filter.mp hf2).2
  · intro a ha hb
    have hx : a ≠ 0x3A0 + (h.val + 1) := by
      intro e
      subst e
      simp [hostRegAddr] at ha
      omega
    have key : ∀ t : State, t.regs = Map.keep (s.dropHost h).regs (fun a => !hostRegAddr h.val a) → t.reg a = regReset a := by
      intro t ht
      unfold State.reg
      rw [ht, Map.get_keep, ha]
      rfl
    dsimp only
    rcases hb with hb | hb
    · rw [(cutEvent_facts _ _).2.2 _ hb, (mbReset_facts _ _).2.2 _ hx]
      apply key
      split <;> rfl
    · subst hb
      rw [if_neg (by rw [cut _ (by rw [(mbReset_facts _ _).2.1]; rfl)]; decide), (mbReset_facts _ _).2.2 _ hx]
      exact key _ rfl
  · intro hk
    subst hk
    dsimp only
    apply cut
    rw [(cutEvent_facts _ _).2.1, (mbReset_facts _ _).2.1]
    rfl

/-- A link that retrains (R158, R159): its speed and its width, and no other field of its register. -/
theorem retrainTo_facts (s : State) (h : PHost) (sp w : Nat) (hs : sp < 8) (hw : w < 16) :
    (s.retrainTo h sp w).get (Reg.HOST_LINK_SPEED h.val) = sp ∧ (s.retrainTo h sp w).get (Reg.HOST_LINK_WIDTH h.val) = w ∧
    ∀ g : Fld, g.hi < 18 → (g.addr ≠ 0x700 + h.val ∨ g.hi < 11) → g.addr ≠ 0x708 + h.val → (s.retrainTo h sp w).get g = s.get g := by
  have e1 : ∀ g : Fld, g.addr ≠ 0x708 + h.val → (s.retrainTo h sp w).get g =
      ((s.put (Reg.HOST_LINK_SPEED h.val) sp).put (Reg.HOST_LINK_WIDTH h.val) w).get g := by
    intro g hg
    unfold State.retrainTo
    dsimp only
    split
    · unfold State.hostEvent
      rw [event_get_ne _ _ _ _ _ _ (show g.addr ≠ (Reg.HOST_EVENT_LINK_CHG h.val).addr from hg), State.get_setHost]
    · rw [State.get_setHost]
  refine ⟨?_, ?_, fun g g0 g1 g2 => ?_⟩
  · rw [e1 _ (by simp only [Reg.HOST_LINK_SPEED]; omega), State.get_put_apart _ _ (lt_rfl rfl) (.inr (lt_rfl rfl))]
    exact State.get_put_same _ _ _ (lt_rfl rfl) hs
  · rw [e1 _ (by simp only [Reg.HOST_LINK_WIDTH]; omega)]
    exact State.get_put_same _ _ _ (lt_rfl rfl) hw
  · rw [e1 _ g2]
    rcases g1 with g1 | g1
    · rw [State.get_put_ne _ _ (show g.addr ≠ (Reg.HOST_LINK_WIDTH h.val).addr from g1),
        State.get_put_ne _ _ (show g.addr ≠ (Reg.HOST_LINK_SPEED h.val).addr from g1)]
    · rw [State.get_put_apart _ _ g0 (.inl (show g.hi < 11 from g1)), State.get_put_apart _ _ g0 (.inl (show g.hi < 15 by omega))]

theorem event_get_apart (s : State) (ev g : Fld) (a : Nat) (c : IClass) (hs : List PHost) (hg : g.hi < 18) (h : g.hi < ev.lo ∨ ev.hi < g.lo) :
    (s.event ev a c hs).get g = s.get g := by
  have e : (s.event ev a c hs).get g = (s.put ev 1).get g := by
    unfold State.get
    rw [event_reg]
  rw [e]
  exact State.get_put_apart _ _ hg h

theorem retrainTo_event (s : State) (h : PHost) (sp w : Nat) (g : Fld) (hg : g.hi < 18) (hl : 0 < g.lo) (ha : g.addr = 0x708 + h.val) :
    (s.retrainTo h sp w).get g = s.get g := by
  have e : ((s.put (Reg.HOST_LINK_SPEED h.val) sp).put (Reg.HOST_LINK_WIDTH h.val) w).get g = s.get g := by
    rw [State.get_put_ne _ _ (by rw [ha]; simp only [Reg.HOST_LINK_WIDTH]; omega), State.get_put_ne _ _ (by rw [ha]; simp only [Reg.HOST_LINK_SPEED]; omega)]
  unfold State.retrainTo
  dsimp only
  split
  · unfold State.hostEvent
    rw [event_get_apart _ _ _ _ _ _ hg (.inr hl), State.get_setHost]
    exact e
  · rw [State.get_setHost]
    exact e

/-- The one descriptor in progress, its status and results fixed. -/
def State.FixedAs (s : State) (h : PHost) (j : Ring) (op : Opcode) (d : Desc) (c : Compl) : Prop :=
  ∃ g : Flight, s.flights = [g] ∧ g.host = h ∧ g.sq = j ∧ g.op = op ∧ g.d = d ∧ g.compl = some c





theorem upset_keeps {β : Type} (p : State → β) (hp : ∀ (t : State) (r : Nat) (m : Image), p (t.setImage r m) = p t) (s : State) (u : Upset) :
    p (s.upset u) = p s := by
  unfold State.upset State.upsetIn
  dsimp only
  split
  · exact hp _ _ _
  · exact hp _ _ _
  · rfl

theorem flightUpsets_keeps {β : Type} (p : State → β) (hp : ∀ (t : State) (r : Nat) (m : Image), p (t.setImage r m) = p t) (s : State)
    (f : Flight) (ups : List Upset) : p (s.flightUpsets f ups) = p s := by
  have e : ∀ (t : State) a b, p (t.upsets ups a b) = p t := by
    intro t a b
    unfold State.upsets
    exact foldl_keeps p (fun t u => upset_keeps p hp t u) _ _
  unfold State.flightUpsets
  dsimp only
  split
  · exact (e _ _ _).trans (foldl_keeps p (fun t r => e t _ _) _ _)
  · exact foldl_keeps p (fun t r => e t _ _) _ _

theorem flightUpsets_nil (s : State) (f : Flight) : s.flightUpsets f [] = s := by
  have e : ∀ (xs : List (Nat × Nat × Bool)) (t : State), xs.foldl (fun t r => t.upsets [] r.1 r.2.1) t = t := by
    intro xs
    induction xs with
    | nil => exact fun _ => rfl
    | cons x xs ih => exact fun t => ih _
  unfold State.flightUpsets
  dsimp only
  rw [e]
  split <;> rfl

/-- Sweeper's window alone has moved on: the window state, and the count of yields (R357). -/
def Yields (s t : State) : Prop := t = { s with fw := t.fw, regs := t.regs } ∧ ∀ a, a ≠ 0xD04 → t.reg a = s.reg a

theorem Yields.field {β : Type} (p : State → β) (hp : ∀ (u : State) (x : Firmware) (m : Map Word), p { u with fw := x, regs := m } = p u) {s t : State}
    (h : Yields s t) : p t = p s := (congrArg p h.1).trans (hp _ _ _)

theorem Yields.rfl' (s : State) : Yields s s := ⟨rfl, fun _ _ => rfl⟩

theorem Yields.trans' {s t u : State} (h1 : Yields s t) (h2 : Yields t u) : Yields s u := by
  refine ⟨?_, fun a ha => (h2.2 a ha).trans (h1.2 a ha)⟩
  have e := h2.1
  rw [h1.1] at e
  exact e

theorem yields_fw (s : State) (x : Firmware) : Yields s { s with fw := x } := ⟨rfl, fun _ _ => rfl⟩

theorem yieldHeld_yields (s : State) : Yields s s.yieldHeld := by
  unfold State.yieldHeld
  split
  · next w _ =>
    refine (yields_fw s { s.fw with window := none, yielded := s.fw.yielded ++ [(w, s.stamp)] }).trans' ?_
    unfold State.bump
    split
    · exact ⟨rfl, fun a ha => State.reg_put_ne _ _ ha⟩
    · exact Yields.rfl' _
  · exact Yields.rfl' s

theorem access_yields (s : State) (r cw : Nat) : Yields s (s.access r cw) := by
  unfold State.access
  split
  · split
    · exact yieldHeld_yields s
    · exact Yields.rfl' s
  · exact Yields.rfl' s

theorem padAccess_yields (s : State) (ks : List Nat) : Yields s (s.padAccess ks) := by
  unfold State.padAccess
  split
  · split
    · exact yieldHeld_yields s
    · exact Yields.rfl' s
  · exact Yields.rfl' s

/-- Staging a descriptor's data changes the scratchpads and Sweeper's window alone (R94, R357). -/
theorem padWrites_yields (s : State) (p : PadTraffic) : Yields s (s.padWrites p) := by
  have h : ∀ (t : State) ws, Yields t (t.setPads ws) := fun t ws => (padAccess_yields t _).trans' (yields_fw _ _)
  exact (h s _).trans' (h _ _)

theorem padAccess_nil (s : State) : s.padAccess [] = s := by
  unfold State.padAccess
  split
  · rw [if_neg (by simp)]
  · rfl

theorem padWrites_nil (s : State) : s.padWrites {} = s := by
  have h : ∀ t : State, t.setPads [] = t := by
    intro t
    unfold State.setPads
    rw [List.map_nil, padAccess_nil]
    rfl
  unfold State.padWrites
  rw [h, h]

theorem cwRegion_lt (cw : Nat) : cwRegion cw < 64 := Nat.mod_lt _ (by decide)

theorem Yields.phys {s t : State} (h : Yields s t) (r : Nat) (hr : r < 64) : t.physOf r = s.physOf r := by
  have hg : ∀ g : Fld, g.addr ≠ 0xD04 → t.get g = s.get g := by
    intro g hg
    unfold State.get
    rw [h.2 _ hg]
  have hf : ∀ n r, r < 64 → t.follow n r = s.follow n r := by
    intro n
    induction n with
    | zero => exact fun _ _ => rfl
    | succ n ih =>
      intro r hr
      have e1 : t.rstate r = s.rstate r := hg _ (by simp only [Reg.PART_REGION_STATE]; omega)
      have e2 : t.forwardEntry r = s.forwardEntry r := by
        unfold State.forwardEntry
        refine find_congr _ (fun n hn => ?_)
        have hn := List.mem_range.mp hn
        rw [hg _ (by simp only [Reg.ARR_MOVE_PHASE]; omega), hg _ (by simp only [Reg.ARR_MOVE_SRC]; omega)]
      unfold State.follow
      rw [e1, e2]
      split
      · split
        · next k hk =>
          have hk8 : k < 8 := List.mem_range.mp (List.mem_of_find?_eq_some hk)
          rw [hg _ (by simp only [Reg.ARR_MOVE_DST]; omega)]
          exact ih _ (Nat.mod_lt _ (Nat.two_pow_pos _))
        · rfl
      · rfl
  unfold State.physOf State.target
  rw [hf _ _ hr, h.field State.phys63 (by intros; rfl)]

/-- A descriptor's data is staged without a collision (R94); where firmware serves it not, there is none. -/
def Staged (op : Opcode) (p : PadTraffic) : Prop := (staged op = true ∧ padLost p = none) ∨ (staged op = false ∧ p = {})

theorem stageData_clean (s : State) (f : Flight) (p : PadTraffic) (h : Staged f.op p) : s.stageData f p = (s.padWrites p, f) := by
  unfold State.stageData
  rcases h with ⟨h1, h2⟩ | ⟨h1, h2⟩
  · rw [if_pos h1, h2]
  · rw [if_neg (by simp [h1]), h2, padWrites_nil]

/-- The arrival of a descriptor that reads no host memory. -/
theorem arrive_local (s : State) (h : PHost) (j : Ring) (op : Opcode) (d : Desc) (ups : List Upset) (p : PadTraffic) (q : Ring)
    (ha : s.Accepts h j q op d) (hr : readsHost op = false) (hp : Staged op p) :
    s.descArrive h j op d {} ups p = ((s.begun h j (newFlight h j op d) ups p).advance 0).settle := by
  obtain ⟨⟨h1, h2, -⟩, h3⟩ := ha
  have hf : (s.advanceHead h j).flights = [] := h2
  have hf1 : ((s.advanceHead h j).padWrites p).flights = [] := ((padWrites_yields _ p).field State.flights (by intros; rfl)).trans hf
  have hf2 : (((s.advanceHead h j).padWrites p).flightUpsets (newFlight h j op d) ups).flights = [] :=
    (flightUpsets_keeps (fun t => t.flights) (by intros; rfl) _ _ _).trans hf1
  unfold State.descArrive
  rw [if_pos h1]
  dsimp only
  rw [h3]
  dsimp only
  rw [if_neg (by simp [hr]), hf, stageData_clean (s.advanceHead h j) { host := h, sq := j, op := op, d := d, stage := .data } p hp]
  unfold State.begun
  unfold newFlight at hf2 ⊢
  dsimp only
  rw [hf2]
  rfl

theorem fixFlight_one (s : State) (f : Flight) (c : Compl) (hf : s.flights = [f]) :
    s.fixFlight 0 c = { s with flights := [{ f with compl := some c, committed := true, stage := .done }] } := by
  unfold State.fixFlight State.setFlight
  rw [hf]
  rfl

theorem setFlight_one (s : State) (f g : Flight) (hf : s.flights = [f]) : s.setFlight 0 g = { s with flights := [g] } := by
  unfold State.setFlight
  rw [hf]
  rfl

theorem begun_advance (s : State) (h : PHost) (j : Ring) (op : Opcode) (d : Desc) (ups : List Upset) :
    (s.begun h j (newFlight h j op d) ups).flights = [newFlight h j op d] := rfl

/-- A descriptor whose status is fixed goes no further. -/
theorem advanceAll_fixed (s : State) (h : PHost) (j : Ring) (op : Opcode) (d : Desc) (c : Compl) (hs : s.FixedAs h j op d c) :
    s.advanceAll = s := by
  obtain ⟨g, h1, -, -, -, -, h2⟩ := hs
  unfold State.advanceAll State.advance
  rw [h1]
  simp [h1, h2, List.range_succ]

/-- A descriptor that lacks no host data asks for none (R155). -/
theorem askAll_idle (v : State) (f : Flight) (hf : v.flights = [f]) (hl : f.lacks = false) : v.askAll = v := by
  unfold State.askAll State.askData
  rw [hf]
  simp [hf, hl, List.range_succ]

theorem lacks_local {f : Flight} (h : readsHost f.op = false) : f.lacks = false := by simp [Flight.lacks, h]

theorem lacks_fixed {f : Flight} {c : Compl} (h : f.compl = some c) : f.lacks = false := by simp [Flight.lacks, Flight.open_, h]

/-- The first step of a descriptor that fixes it at once: the state it then settles in. -/
theorem settle_first (v : State) (f : Flight) (hf : v.flights = [f]) (hl : f.lacks = false) (hv : v.serving = true) (h : PHost) (j : Ring) (op : Opcode) (d : Desc)
    (c : Compl) (hu : (v.advance 0).FixedAs h j op d c) (hs : (v.advance 0).pwr = v.pwr) : v.settle = (v.advance 0).settle := by
  have e : (v.advance 0).serving = true := serving_congr _ _ hv (by rw [hs])
  have e3 : (v.advance 0).askAll = v.advance 0 := by
    obtain ⟨g, h1, -, -, -, -, h2⟩ := hu
    exact askAll_idle _ g h1 (lacks_fixed h2)
  have e2 : v.advanceAll = v.advance 0 := by
    unfold State.advanceAll
    rw [hf]
    rfl
  unfold State.settle
  rw [if_pos hv, if_pos e, askAll_idle v f hf hl, e2, e3, advanceAll_fixed _ _ _ _ _ _ hu]

theorem advanceHead_facts (s : State) (h : PHost) (j : Ring) :
    (∀ a, a ≠ (Reg.HOST_SQ_STAT h.val j.val).addr → (s.advanceHead h j).reg a = s.reg a) ∧ (s.advanceHead h j).rest = s.rest ∧
    ((s.advanceHead h j).host h).up = (s.host h).up ∧ ((s.advanceHead h j).host h).flow = (s.host h).flow ∧
    (s.advanceHead h j).out = s.out ∧ (s.advanceHead h j).flights = s.flights := by
  refine ⟨fun a ha => State.reg_put_ne _ _ ha, rfl, ?_, ?_, rfl, rfl⟩
  · show (State.host (s.setHost h _) h).up = _
    rw [State.host_setHost_same]
  · show (State.host (s.setHost h _) h).flow = _
    rw [State.host_setHost_same]
    rfl

/-- A descriptor that has asked for nothing counts for no request (R155). -/
theorem askGoal_append (v : State) (f g : Flight) (hg : g.asked = 0) : ({ v with flights := v.flights ++ [g] } : State).askGoal f = v.askGoal f := by
  have e : ∀ k m, ((([g].filter (fun x => decide (x.host = k))).map (fun x => x.reads m)) : List Nat).sum = 0 := by
    intro k m
    by_cases hk : g.host = k <;> simp [hk, Flight.reads, hg]
  have e2 : ∀ k, ({ v with flights := v.flights ++ [g] } : State).nonPosted k = v.nonPosted k := by
    intro k
    unfold State.nonPosted
    dsimp only
    rw [List.filter_append, List.map_append, List.sum_append, e, Nat.add_zero]
    rfl
  unfold State.askGoal
  rw [e2]
  rfl

/-- A descriptor asks for the host data that it may ask for (R155). -/
theorem askData_one (v : State) (i : Nat) (f : Flight) (hi : v.flights[i]? = some f) (hl : f.lacks = true) (ho : v.linkOpen f.host = true)
    (hg : f.asked < v.askGoal f) : v.askData i =
      ((v.leaveL1 f.host).emit (.dataRead f.host (f.d.haddr.toNat + f.asked) (v.askGoal f - f.asked))).setFlight i { f with asked := v.askGoal f } := by
  unfold State.askData
  rw [hi]
  dsimp only
  rw [if_pos (by simp [hl, ho, hg])]

/-- The arrival of a descriptor that reads host memory and has all of its data at once. -/
theorem arrive_host (s : State) (h : PHost) (j : Ring) (op : Opcode) (d : Desc) (data : HostData) (ups : List Upset) (p : PadTraffic) (q : Ring)
    (ha : s.Accepts h j q op d) (hr : readsHost op = true) (hp : Staged op p) (hd : s.Delivers (newFlight h j op d) data) (hn : 0 < Desc.n d) :
    s.descArrive h j op d data ups p =
      (s.asked h j (newFlight h j op d) ((askedFlight h j op d).receive data) ups p).settle := by
  obtain ⟨⟨h1, h2, -⟩, h3⟩ := ha
  obtain ⟨d1, d2, d3, d4⟩ := hd
  have hf : (s.advanceHead h j).flights = [] := h2
  have hl : (s.advanceHead h j).linkOpen h = true := by
    unfold State.mayArrive at h1
    simp only [Bool.and_eq_true] at h1
    rw [← h1.1.1]
    unfold State.linkOpen State.serving HostPort.flows
    rw [(advanceHead_facts s h j).2.2.1, (advanceHead_facts s h j).2.2.2.1]
    rfl
  have hg : ({ s.advanceHead h j with flights := (s.advanceHead h j).flights ++ [newFlight h j op d] } : State).askGoal (newFlight h j op d) = Desc.n d :=
    (askGoal_append _ _ _ rfl).trans d1
  have ho : ({ s.advanceHead h j with flights := (s.advanceHead h j).flights ++ [newFlight h j op d] } : State).askData
        (s.advanceHead h j).flights.length =
      { ((s.advanceHead h j).leaveL1 h).emit (.dataRead h d.haddr.toNat (Desc.n d)) with flights := [askedFlight h j op d] } := by
    refine (askData_one ({ s.advanceHead h j with flights := (s.advanceHead h j).flights ++ [newFlight h j op d] } : State)
      (s.advanceHead h j).flights.length (newFlight h j op d) (by show ((s.advanceHead h j).flights ++ _)[_]? = _; rw [hf]; rfl)
      (by simp [Flight.lacks, newFlight, Flight.open_, Flight.received, hr, hn]) hl (Nat.lt_of_lt_of_eq hn hg.symm)).trans ?_
    rw [hg, hf]
    exact (setFlight_one _ (newFlight h j op d) _ rfl).trans rfl
  have hw : (askedFlight h j op d).awaits = true := by
    simp [Flight.awaits, Flight.lacks, askedFlight, newFlight, Flight.open_, Flight.received, hr, hn]
  have hd2 : ∀ t : State, t.dataFailed h data = t := by
    intro t
    unfold State.dataFailed
    rw [if_neg (by simp [d3]), if_neg (by simp [d4])]
  have ht : ∀ t : State, t.flights = [askedFlight h j op d] → t.takeData 0 (askedFlight h j op d) data ups p =
      { (t.padWrites p).flightUpsets (newFlight h j op d) ups with flights := [(askedFlight h j op d).receive data] } := by
    intro t hf
    unfold State.takeData
    rw [stageData_clean t (askedFlight h j op d) p hp]
    dsimp only
    rw [show (askedFlight h j op d).host = h from rfl, hd2]
    exact setFlight_one _ _ _ ((flightUpsets_keeps (fun t => t.flights) (by intros; rfl) _ _ _).trans
      (((padWrites_yields _ p).field State.flights (by intros; rfl)).trans hf))
  unfold State.descArrive
  rw [if_pos h1]
  dsimp only
  rw [h3]
  dsimp only
  rw [if_pos hr]
  rw [show ({ s.advanceHead h j with flights := (s.advanceHead h j).flights ++ [{ host := h, sq := j, op := op, d := d, stage := .data }] } : State) =
    { s.advanceHead h j with flights := (s.advanceHead h j).flights ++ [newFlight h j op d] } from rfl, ho, hf]
  show State.settle (if (askedFlight h j op d).awaits = true then _ else _) = _
  rw [if_pos hw]
  congr 1
  refine (ht _ rfl).trans ?_
  unfold State.asked
  rfl

/-- What every fetch turn and its accounting keep, issuing fetches keeps (R177, R178). -/
theorem issueFetches_keeps (P : State → Prop) (hP : ∀ (t : State) (h : PHost) (j : Ring), P t → P (t.fetchTurn h j))
    (hT : ∀ (t : State) (h : PHost) (n : Nat) (m : Map Nat), P t → P (t.setHost h { t.host h with turns := n, served := m })) (s : State) (h : PHost)
    (hs : P s) : P (s.issueFetches h) := by
  have h1 : ∀ (t : State) (h : PHost), P t → P (t.hostTurn h) := by
    intro t h ht
    unfold State.hostTurn
    split
    · exact hT _ _ _ _ (hP _ _ _ ht)
    · exact ht
  have h2 : ∀ (hs : List PHost) (t : State), P t → P (t.newRound hs) := by
    intro hs
    unfold State.newRound
    induction hs with
    | nil => exact fun _ h => h
    | cons x xs ih => exact fun t ht => ih _ (hT t x 0 _ ht)
  have h4 : ∀ (n : Nat) (t : State) (hs : List PHost), P t → P (State.fetchTurns n t hs) := by
    intro n
    induction n with
    | zero => exact fun _ _ h => h
    | succ n ih =>
      intro t hs ht
      unfold State.fetchTurns
      split
      · exact ih _ _ (h1 _ _ (by split; exacts [h2 _ _ ht, ht]))
      · exact ht
  exact h4 _ _ _ hs

theorem fetchTurn_facts (t : State) (h : PHost) (j : Ring) : (t.fetchTurn h j).regs = t.regs ∧ (t.fetchTurn h j).flights = t.flights ∧
    (t.fetchTurn h j).rest = t.rest ∧ ∀ o, o ∈ t.out → o ∈ (t.fetchTurn h j).out := by
  have a : ∀ (s : State) (p : HostPort), (s.setHost h p).regs = s.regs ∧ (s.setHost h p).flights = s.flights ∧
      (s.setHost h p).rest = s.rest ∧ (s.setHost h p).out = s.out := fun _ _ => ⟨rfl, rfl, rfl, rfl⟩
  have b : ∀ (s : State) (x : Out), (s.emit x).regs = s.regs ∧ (s.emit x).flights = s.flights ∧ (s.emit x).rest = s.rest ∧
      (s.emit x).out = s.out ++ [x] := fun _ _ => ⟨rfl, rfl, rfl, rfl⟩
  unfold State.fetchTurn State.setFetching State.leaveL1
  dsimp only
  simp only [(a _ _).1, (a _ _).2.1, (a _ _).2.2.1, (a _ _).2.2.2, (b _ _).1, (b _ _).2.1, (b _ _).2.2.1, (b _ _).2.2.2, true_and]
  exact fun _ ho => List.mem_append_left _ ho

theorem retireSq_idle (s : State) (h : PHost) (j : Ring) (n : Nat) (hf : ∀ f, f ∈ s.flights → ¬(f.host = h ∧ f.sq = j)) :
    s.retireSq h j n = s := by
  cases n with
  | zero => rfl
  | succ n =>
    have e : s.findFlight (fun f => decide (f.host = h ∧ f.sq = j)) = none := by
      unfold State.findFlight
      rw [List.findIdx?_eq_none_iff.mpr (fun f hm => by simpa using hf f hm)]
    unfold State.retireSq
    rw [e]

/-- What a SQ's state change leaves. -/
theorem settleSq_facts (s : State) (h : PHost) (j : Nat) : (s.settleSq h j).flights = s.flights ∧ (s.settleSq h j).out = s.out ∧
    (s.settleSq h j).hosts = s.hosts ∧ (s.settleSq h j).rest = s.rest ∧
    ∀ a, a ≠ (Reg.HOST_SQ_STAT_STATE h.val j).addr → (s.settleSq h j).reg a = s.reg a := by
  unfold State.settleSq
  split
  · exact ⟨rfl, rfl, rfl, rfl, fun a ha => State.reg_put_ne _ _ ha⟩
  · exact ⟨rfl, rfl, rfl, rfl, fun _ _ => rfl⟩

/-- States that differ in SQ states alone. -/
def SameQ (s t : State) : Prop :=
  t.flights = s.flights ∧ t.out = s.out ∧ t.hosts = s.hosts ∧ t.rest = s.rest ∧
  ∀ a, (∀ (h : PHost) (j : Ring), a ≠ (Reg.HOST_SQ_STAT h.val j.val).addr) → t.reg a = s.reg a

theorem SameQ.rfl' (s : State) : SameQ s s := ⟨rfl, rfl, rfl, rfl, fun _ _ => rfl⟩

theorem SameQ.trans' {s t u : State} (h1 : SameQ s t) (h2 : SameQ t u) : SameQ s u :=
  ⟨h2.1.trans h1.1, h2.2.1.trans h1.2.1, h2.2.2.1.trans h1.2.2.1, h2.2.2.2.1.trans h1.2.2.2.1,
    fun a ha => (h2.2.2.2.2 a ha).trans (h1.2.2.2.2 a ha)⟩

theorem SameQ.settleSq (s : State) (h : PHost) (j : Ring) : SameQ s (s.settleSq h j.val) := by
  obtain ⟨e1, e2, e3, e4, e5⟩ := settleSq_facts s h j.val
  exact ⟨e1, e2, e3, e4, fun a ha => e5 a (ha h j)⟩

/-- Retiring where no descriptor of the host is in progress. -/
theorem SameQ.retireHost (s : State) (h : PHost) (hf : ∀ f, f ∈ s.flights → f.host ≠ h) : SameQ s (s.retireHost h) := by
  unfold State.retireHost
  split
  · have key : ∀ (xs : List Ring) (t : State), SameQ s t →
        SameQ s (xs.foldl (fun t j => (t.retireSq h j t.flights.length).settleSq h j.val) t) := by
      intro xs
      induction xs with
      | nil => exact fun _ h => h
      | cons x xs ih =>
        intro t ht
        rw [List.foldl_cons]
        apply ih
        rw [retireSq_idle t h x _ (fun f hm hc => hf f (by rw [ht.1] at hm; exact hm) hc.1)]
        exact ht.trans' (SameQ.settleSq t h x)
    exact key _ _ (SameQ.rfl' s)
  · exact SameQ.rfl' s

theorem foldl_once {α σ : Type} (A B : σ → Prop) (f : σ → α → σ) (x0 : α) (hA : ∀ t x, x ≠ x0 → A t → A (f t x)) (h0 : ∀ t, A t → B (f t x0))
    (hB : ∀ t x, B t → B (f t x)) (xs : List α) (hx : x0 ∈ xs) (s : σ) (hs : A s) : B (xs.foldl f s) := by
  have hBs : ∀ (ys : List α) (t : σ), B t → B (ys.foldl f t) := by
    intro ys
    induction ys with
    | nil => exact fun _ h => h
    | cons y ys ih => exact fun t ht => ih _ (hB t y ht)
  induction xs generalizing s with
  | nil => cases hx
  | cons x xs ih =>
    rw [List.foldl_cons]
    by_cases e : x = x0
    · subst e
      exact hBs _ _ (h0 _ hs)
    · exact ih ((List.mem_cons.mp hx).resolve_left (fun h => e h.symm)) _ (hA _ _ e hs)

theorem rest_pwr {s t : State} (h : t.rest = s.rest) : t.pwr = s.pwr := by
  simp only [State.rest, Prod.mk.injEq] at h
  exact h.2.2.2.2.2.2.1

@[simp] theorem State.rest_setHost (s : State) (h : PHost) (p : HostPort) : (s.setHost h p).rest = s.rest := rfl
@[simp] theorem State.rest_emit (s : State) (o : Out) : (s.emit o).rest = s.rest := rfl
@[simp] theorem State.rest_setReg (s : State) (a : Nat) (w : Word) : (s.setReg a w).rest = s.rest := rfl
@[simp] theorem State.rest_put (s : State) (f : Fld) (v : Nat) : (s.put f v).rest = s.rest := rfl

/-- What a message leaves, and what was sent before. -/
def SendsOnly (s t : State) : Prop :=
  t.flights = s.flights ∧ t.regs = s.regs ∧ t.rest = s.rest ∧ ∀ o, o ∈ s.out → o ∈ t.out

theorem SendsOnly.setHost (s : State) (h : PHost) (p : HostPort) : SendsOnly s (s.setHost h p) := ⟨rfl, rfl, rfl, fun _ h => h⟩
theorem SendsOnly.emit (s : State) (o : Out) : SendsOnly s (s.emit o) := ⟨rfl, rfl, rfl, fun _ h => List.mem_append_left _ h⟩
theorem SendsOnly.trans' {s t u : State} (h1 : SendsOnly s t) (h2 : SendsOnly t u) : SendsOnly s u :=
  ⟨h2.1.trans h1.1, h2.2.1.trans h1.2.1, h2.2.2.1.trans h1.2.2.1, fun o h => h2.2.2.2 o (h1.2.2.2 o h)⟩

theorem SendsOnly.msix (s : State) (h : PHost) (v : Nat) : SendsOnly s (s.msix h v) := by
  unfold State.msix
  dsimp only
  split
  · split
    · exact SendsOnly.setHost _ _ _
    · split
      · exact SendsOnly.setHost _ _ _
      · split
        · exact SendsOnly.setHost _ _ _
        · exact (SendsOnly.setHost _ _ _).trans' (SendsOnly.emit _ _)
  · exact ⟨rfl, rfl, rfl, fun _ h => h⟩

theorem SendsOnly.cqCount (s : State) (h : PHost) (q : Nat) : SendsOnly s (s.cqCount h q) := by
  unfold State.cqCount State.cqSend
  dsimp only
  split
  · exact ((SendsOnly.setHost _ _ _).trans' (SendsOnly.setHost _ _ _)).trans' (SendsOnly.msix _ _ _)
  · exact SendsOnly.setHost _ _ _

/-- A written completion: the message, TAIL and the descriptors in progress (R181). -/
theorem writeCompl_facts (s : State) (h : PHost) (q j : Ring) (tag : BitVec 16) (c : Compl) (r e : Bool) (hz : s.get (Reg.HOST_CQ_CFG_SIZE h.val q.val) ≤ 10) :
    (s.writeCompl h q j tag c r e).flights = s.flights ∧
    .completion h q (s.cqTail h.val q.val) tag c (s.flag (Reg.HOST_CQ_STAT_PHASE h.val q.val)) r e j
      (c.entry tag (s.flag (Reg.HOST_CQ_STAT_PHASE h.val q.val)) r e j) ∈ (s.writeCompl h q j tag c r e).out ∧
    (∀ o, o ∈ s.out → o ∈ (s.writeCompl h q j tag c r e).out) ∧
    (s.writeCompl h q j tag c r e).cqTail h.val q.val = (s.cqTail h.val q.val + 1) % s.cqSize h.val q.val ∧
    (s.writeCompl h q j tag c r e).rest = s.rest ∧
    ∀ a, a ≠ (Reg.HOST_CQ_STAT h.val q.val).addr → (s.writeCompl h q j tag c r e).reg a = s.reg a := by
  have hc := fun t : State => SendsOnly.cqCount t h q.val
  have hsz : (s.cqTail h.val q.val + 1) % s.cqSize h.val q.val < 2 ^ 16 := by
    have h1 : 0 < s.cqSize h.val q.val := Nat.pow_pos (by decide)
    have h2 : s.cqSize h.val q.val ≤ 2 ^ 16 := Nat.pow_le_pow_right (by decide) (by omega)
    exact Nat.lt_of_lt_of_le (Nat.mod_lt _ h1) h2
  unfold State.writeCompl
  dsimp only
  refine ⟨(hc _).1, (hc _).2.2.2 _ (List.mem_append_right _ (List.mem_singleton.mpr rfl)), fun o ho => (hc _).2.2.2 _ (List.mem_append_left _ ho), ?_,
    (hc _).2.2.1.trans rfl, fun a ha => ?_⟩
  · unfold State.cqTail
    rw [get_congr (hc _).2.1, State.get_put_apart _ _ (lt_rfl rfl) (.inl (lt_rfl rfl))]
    exact State.get_put_same _ _ _ (lt_rfl rfl) hsz
  · unfold State.reg
    rw [(hc _).2.1]
    refine (State.reg_put_ne _ _ ?_).trans (State.reg_put_ne _ _ ?_)
    · exact ha
    · exact ha

theorem sqStat_ne (f : Fld) (hf : (f.addr < 0x740) ∨ (∃ (h : PHost) (q : Ring), f.addr = 0x738 + 0x38 * h.val + q.val ∨ f.addr = 0x73C + 0x38 * h.val + q.val ∨
    f.addr = 0x744 + 0x38 * h.val + q.val)) : ∀ (h : PHost) (j : Ring), f.addr ≠ (Reg.HOST_SQ_STAT h.val j.val).addr := by
  intro k i
  simp only [Reg.HOST_SQ_STAT]
  rcases hf with hf | ⟨h, q, hf⟩ <;> omega

/-- The completion of the one descriptor in progress is written as things settle (R179, R181). -/
theorem settle_fixed (s : State) (h : PHost) (j : Ring) (op : Opcode) (d : Desc) (c : Compl) (hf : s.FixedAs h j op d c)
    (hl : s.linkOpen h = true) (q : Ring) (hq : s.sqCq h.val j.val = q.val) (ha : s.cqActive h.val q.val = true)
    (hz : s.get (Reg.HOST_CQ_CFG_SIZE h.val q.val) ≤ 10) :
    s.Completes s.settle h j q d c ∧ (∀ o, o ∈ s.out → o ∈ s.settle.out) ∧ s.settle.rest = s.rest ∧
    ∀ a, notRing a → s.settle.reg a = s.reg a := by
  obtain ⟨g, g1, g2, g3, g4, g5, g6⟩ := id hf
  have hserv : s.serving = true := by
    unfold State.linkOpen at hl
    simp only [Bool.and_eq_true] at hl
    exact hl.1.1
  let B : State → Prop := fun t => s.Completes t h j q d c ∧ (∀ o, o ∈ s.out → o ∈ t.out) ∧ t.rest = s.rest ∧ ∀ a, notRing a → t.reg a = s.reg a
  have hB : ∀ t u : State, SameQ t u → B t → B u := by
    intro t u hs hb
    obtain ⟨⟨b1, b2, b3⟩, b4, b5, b6⟩ := hb
    refine ⟨⟨hs.2.1 ▸ b1, ?_, hs.1.trans b3⟩, hs.2.1 ▸ b4, hs.2.2.2.1.trans b5, fun a hn => (hs.2.2.2.2 a (fun k i => (hn.1 k i).1)).trans (b6 a hn)⟩
    rw [← b2]
    unfold State.cqTail State.get
    rw [hs.2.2.2.2 _ (sqStat_ne (Reg.HOST_CQ_STAT_TAIL h.val q.val) (.inr ⟨h, q, .inr (.inr rfl)⟩))]
  have hlink : ∀ t : State, SameQ s t → t.linkOpen h = true := by
    intro t ht
    rw [← hl]
    unfold State.linkOpen State.serving State.host
    rw [ht.2.2.1, rest_pwr ht.2.2.2.1]
  have hregs : ∀ t : State, SameQ s t → ∀ f : Fld, (f.addr = 0x738 + 0x38 * h.val + j.val ∨ f.addr = 0x73C + 0x38 * h.val + q.val ∨
      f.addr = 0x744 + 0x38 * h.val + q.val) → t.get f = s.get f := by
    intro t ht f hn
    unfold State.get
    rw [ht.2.2.2.2 _ (sqStat_ne f (by rcases hn with hn | hn | hn
                                      · exact .inr ⟨h, j, .inl hn⟩
                                      · exact .inr ⟨h, q, .inr (.inl hn)⟩
                                      · exact .inr ⟨h, q, .inr (.inr hn)⟩))]
  have hmine : ∀ t : State, SameQ s t → B (t.retireSq h j t.flights.length) := by
    intro t ht
    have hfl : t.flights = [g] := ht.1.trans g1
    have e1 : t.findFlight (fun f => decide (f.host = h ∧ f.sq = j)) = some (0, g) := by
      unfold State.findFlight
      rw [hfl]
      simp [g2, g3]
    have e2 : (Fin.ofNat 4 (t.sqCq h.val j.val) : Ring) = q := by
      unfold State.sqCq at hq ⊢
      rw [hregs t ht (Reg.HOST_SQ_CFG_CQ h.val j.val) (.inl rfl), hq]
      exact Fin.ext (Nat.mod_eq_of_lt q.isLt)
    have e3 : t.cqActive h.val q.val = true := by
      rw [← ha]
      unfold State.cqActive State.flag
      rw [hregs t ht (Reg.HOST_CQ_CFG_EN h.val q.val) (.inr (.inl rfl)), hregs t ht (Reg.HOST_CQ_STAT_STOPPED h.val q.val) (.inr (.inr rfl))]
    have e4 : t.flag (Reg.HOST_CQ_STAT_PHASE h.val q.val) = s.flag (Reg.HOST_CQ_STAT_PHASE h.val q.val) := by
      unfold State.flag
      rw [hregs t ht (Reg.HOST_CQ_STAT_PHASE h.val q.val) (.inr (.inr rfl))]
    have e5 : t.cqTail h.val q.val = s.cqTail h.val q.val := hregs t ht (Reg.HOST_CQ_STAT_TAIL h.val q.val) (.inr (.inr rfl))
    have e6 : t.cqSize h.val q.val = s.cqSize h.val q.val := by
      unfold State.cqSize
      rw [hregs t ht (Reg.HOST_CQ_CFG_SIZE h.val q.val) (.inr (.inl rfl))]
    rw [hfl]
    show B (t.retireSq h j 1)
    unfold State.retireSq
    rw [e1]
    dsimp only
    rw [g6]
    dsimp only
    rw [e2, e3, if_pos rfl]
    show B ((t.dropFlight 0).writeCompl h q j g.d.tag c (decide (c.status = Status.volleyCut)) false)
    obtain ⟨w1, w2, w2b, w3, w4, w5⟩ := writeCompl_facts (t.dropFlight 0) h q j g.d.tag c (decide (c.status = Status.volleyCut)) false
      (by rw [show (t.dropFlight 0).get (Reg.HOST_CQ_CFG_SIZE h.val q.val) = t.get _ from rfl, hregs t ht (Reg.HOST_CQ_CFG_SIZE h.val q.val) (.inr (.inl rfl))]
          exact hz)
    refine ⟨⟨?_, ?_, ?_⟩, fun o ho => w2b o (ht.2.1 ▸ ho), w4.trans ht.2.2.2.1, fun a hn => (w5 a (hn.1 h q).2).trans (ht.2.2.2.2 a (fun k i => (hn.1 k i).1))⟩
    · rw [← e5, ← e4, ← g5]
      exact w2
    · rw [w3, show (t.dropFlight 0).cqTail h.val q.val = t.cqTail h.val q.val from rfl, e5,
        show (t.dropFlight 0).cqSize h.val q.val = t.cqSize h.val q.val from rfl, e6]
    · rw [w1]
      show t.flights.eraseIdx 0 = []
      rw [hfl]
      rfl
  have hhost : ∀ t : State, SameQ s t → B (t.retireHost h) := by
    intro t ht
    unfold State.retireHost
    rw [if_pos (hlink t ht)]
    refine foldl_once (A := SameQ s) (B := B) _ j ?_ ?_ ?_ _ ((by decide : ∀ j : Ring, j ∈ ([0, 1, 2, 3] : List Ring)) j) t ht
    · intro u x hx hu
      rw [retireSq_idle u h x _ (fun f hm hc => ?_)]
      · exact hu.trans' (SameQ.settleSq u h x)
      · rw [hu.1, g1, List.mem_singleton] at hm
        subst hm
        exact hx (hc.2.symm.trans g3)
    · intro u hu
      exact hB _ _ (SameQ.settleSq _ h j) (hmine u hu)
    · intro u x hu
      rw [retireSq_idle u h x _ (fun f hm => by rw [hu.1.2.2] at hm; cases hm)]
      exact hB _ _ (SameQ.settleSq u h x) hu
  have hall : B s.retireAll := by
    unfold State.retireAll
    refine foldl_once (A := SameQ s) (B := B) _ h ?_ hhost ?_ _ ((by decide : ∀ h : PHost, h ∈ ([0, 1, 2, 3] : List PHost)) h) s (SameQ.rfl' s)
    · intro t x hx ht
      refine ht.trans' (SameQ.retireHost t x (fun f hm hc => ?_))
      rw [ht.1, g1, List.mem_singleton] at hm
      subst hm
      exact hx (hc.symm.trans g2)
    · intro t x ht
      exact hB _ _ (SameQ.retireHost t x (fun f hm => by rw [ht.1.2.2] at hm; cases hm)) ht
  have hP : ∀ (t : State) (k : PHost) (i : Ring), B t → B (t.fetchTurn k i) := by
    intro t k i ht
    obtain ⟨⟨b1, b2, b3⟩, b4, b5, b6⟩ := ht
    obtain ⟨f1, f2, f3, f4⟩ := fetchTurn_facts t k i
    refine ⟨⟨f4 _ b1, ?_, f2.trans b3⟩, fun o ho => f4 _ (b4 o ho), f3.trans b5, fun a hn => ?_⟩
    · rw [← b2]
      unfold State.cqTail
      exact get_congr f1 _
    · rw [← b6 a hn]
      unfold State.reg
      rw [f1]
  have hT : ∀ (t : State) (k : PHost) (n : Nat) (m : Map Nat), B t → B (t.setHost k { t.host k with turns := n, served := m }) :=
    fun _ _ _ _ ht => ht
  unfold State.settle
  rw [if_pos hserv, askAll_idle s g g1 (lacks_fixed g6), advanceAll_fixed _ _ _ _ _ _ hf]
  exact issueFetches_keeps B hP hT _ _ (issueFetches_keeps B hP hT _ _ hall)

/-- The completion of a descriptor that arrived alone, from the state in which its status is fixed (R181). -/
theorem accepts_finish {s : State} {h : PHost} {j q : Ring} {op : Opcode} {d : Desc} (ha : s.Arrives h j q) (u : State) (c : Compl)
    (hf : u.FixedAs h j op d c) (hreg : ∀ a, 0x720 ≤ a → a < 0x800 → a ≠ (Reg.HOST_SQ_STAT h.val j.val).addr → u.reg a = s.reg a)
    (hp : u.pwr = s.pwr) (hup : (u.host h).up = (s.host h).up ∧ (u.host h).flow = (s.host h).flow) :
    s.Completes u.settle h j q d c ∧ (∀ o, o ∈ u.out → o ∈ u.settle.out) ∧ u.settle.rest = u.rest ∧
    ∀ a, notRing a → u.settle.reg a = u.reg a := by
  obtain ⟨h1, -, h2, h3, h4⟩ := ha
  have hl : u.linkOpen h = true := by
    unfold State.mayArrive at h1
    simp only [Bool.and_eq_true] at h1
    rw [← h1.1.1]
    unfold State.linkOpen State.serving HostPort.flows
    rw [hp, hup.1, hup.2]
  have hj := j.isLt
  have hq := q.isLt
  have hh := h.isLt
  have e : ∀ g : Fld, (g.addr = 0x738 + 0x38 * h.val + j.val ∨ g.addr = 0x73C + 0x38 * h.val + q.val ∨ g.addr = 0x744 + 0x38 * h.val + q.val) →
      u.get g = s.get g := by
    intro g hg
    unfold State.get
    rw [hreg _ (by omega) (by omega) (by simp only [Reg.HOST_SQ_STAT]; omega)]
  have e1 : u.sqCq h.val j.val = s.sqCq h.val j.val := e (Reg.HOST_SQ_CFG_CQ h.val j.val) (.inl rfl)
  have e2 : u.cqActive h.val q.val = s.cqActive h.val q.val := by
    unfold State.cqActive State.flag
    rw [e (Reg.HOST_CQ_CFG_EN h.val q.val) (.inr (.inl rfl)), e (Reg.HOST_CQ_STAT_STOPPED h.val q.val) (.inr (.inr rfl))]
  have e3 : u.cqTail h.val q.val = s.cqTail h.val q.val := e (Reg.HOST_CQ_STAT_TAIL h.val q.val) (.inr (.inr rfl))
  have e4 : u.flag (Reg.HOST_CQ_STAT_PHASE h.val q.val) = s.flag (Reg.HOST_CQ_STAT_PHASE h.val q.val) := by
    unfold State.flag
    rw [e (Reg.HOST_CQ_STAT_PHASE h.val q.val) (.inr (.inr rfl))]
  have e5 : u.get (Reg.HOST_CQ_CFG_SIZE h.val q.val) = s.get (Reg.HOST_CQ_CFG_SIZE h.val q.val) := e _ (.inr (.inl rfl))
  obtain ⟨⟨b1, b2, b3⟩, b4, b5, b6⟩ := settle_fixed u h j op d c hf hl q (e1.trans h2) (e2.trans h3) (by rw [e5]; exact h4)
  refine ⟨⟨?_, ?_, b3⟩, b4, b5, b6⟩
  · rw [← e3, ← e4]
    exact b1
  · rw [b2, e3]
    unfold State.cqSize
    rw [e5]

/-- HEAD advances and the descriptor's data is staged. -/
theorem headStaged_facts (s : State) (h : PHost) (j : Ring) (p : PadTraffic) :
    (∀ a, a ≠ (Reg.HOST_SQ_STAT h.val j.val).addr → a ≠ 0xD04 → ((s.advanceHead h j).padWrites p).reg a = s.reg a) ∧
    ((s.advanceHead h j).padWrites p).rest = s.rest ∧
    (((s.advanceHead h j).padWrites p).host h).up = (s.host h).up ∧ (((s.advanceHead h j).padWrites p).host h).flow = (s.host h).flow ∧
    ((s.advanceHead h j).padWrites p).out = s.out ∧ ((s.advanceHead h j).padWrites p).flights = s.flights := by
  obtain ⟨a1, a2, a3, a4, a5, a6⟩ := advanceHead_facts s h j
  have y := padWrites_yields (s.advanceHead h j) p
  refine ⟨fun a ha hb => (y.2 a hb).trans (a1 a ha), (y.field State.rest (by intros; rfl)).trans a2, (y.field (fun t => (t.host h).up) (by intros; rfl)).trans a3,
    (y.field (fun t => (t.host h).flow) (by intros; rfl)).trans a4, (y.field State.out (by intros; rfl)).trans a5,
    (y.field State.flights (by intros; rfl)).trans a6⟩

/-- The parts of `begun` beside its one descriptor. -/
theorem begun_facts (s : State) (h : PHost) (j : Ring) (f : Flight) (ups : List Upset) (p : PadTraffic := {}) :
    (∀ a, a ≠ (Reg.HOST_SQ_STAT h.val j.val).addr → a ≠ 0xD04 → (s.begun h j f ups p).reg a = s.reg a) ∧ (s.begun h j f ups p).pwr = s.pwr ∧
    ((s.begun h j f ups p).host h).up = (s.host h).up ∧ ((s.begun h j f ups p).host h).flow = (s.host h).flow ∧
    (s.begun h j f ups p).out = s.out ∧ (s.begun h j f ups p).flights = [f] := by
  obtain ⟨a1, a2, a3, a4, a5, -⟩ := headStaged_facts s h j p
  have k := fun {β : Type} (q : State → β) (hq : ∀ (t : State) (r : Nat) (m : Image), q (t.setImage r m) = q t) =>
    flightUpsets_keeps q hq ((s.advanceHead h j).padWrites p) f ups
  refine ⟨fun a ha hb => (k (fun t => t.reg a) (fun _ _ _ => rfl)).trans (a1 a ha hb), ?_, ?_, ?_, ?_, rfl⟩
  · exact (k (fun t => t.pwr) (fun _ _ _ => rfl)).trans (rest_pwr a2)
  · exact (k (fun t => (t.host h).up) (fun _ _ _ => rfl)).trans a3
  · exact (k (fun t => (t.host h).flow) (fun _ _ _ => rfl)).trans a4
  · exact (k (fun t => t.out) (fun _ _ _ => rfl)).trans a5

/-! Codewords in the tile array -/

theorem State.image_setImage_same (s : State) (p : Nat) (m : Image) : (s.setImage p m).image p = m := by
  simp only [State.image, State.setImage, Map.get_set_same]

theorem State.image_setImage_ne (s : State) {p q : Nat} (m : Image) (h : q ≠ p) : (s.setImage p m).image q = s.image q := by
  simp only [State.image, State.setImage, Map.get_set_ne _ _ _ h]

theorem Image.word_setWord_same (m : Image) (i : Nat) (w : Word) : (m.setWord i w).word i = w := by
  simp only [Image.word, Image.setWord, Map.get_set_same]

theorem Image.word_setWord_ne (m : Image) {i j : Nat} (w : Word) (h : j ≠ i) : (m.setWord i w).word j = m.word j := by
  simp only [Image.word, Image.setWord, Map.get_set_ne _ _ _ h]

theorem Image.eccOf_setEcc_same (m : Image) (i : Nat) (e : Fin 4) : (m.setEcc i e).eccOf i = e.val := by
  simp only [Image.eccOf, Image.setEcc, Map.get_set_same]

theorem Image.eccOf_setEcc_ne (m : Image) {i j : Nat} (e : Fin 4) (h : j ≠ i) : (m.setEcc i e).eccOf j = m.eccOf j := by
  simp only [Image.eccOf, Image.setEcc, Map.get_set_ne _ _ _ h]

@[simp] theorem Image.eccOf_setWord (m : Image) (i j : Nat) (w : Word) : (m.setWord i w).eccOf j = m.eccOf j := rfl
@[simp] theorem Image.word_setEcc (m : Image) (i j : Nat) (e : Fin 4) : (m.setEcc i e).word j = m.word j := rfl



/-- Two states whose tile cells are the same, region by region. -/
def SameCells (t s : State) : Prop := t.arr = s.arr ∧ ∀ r, r < 64 → t.physOf r = s.physOf r

theorem SameCells.cwImage {t s : State} (h : SameCells t s) (cw : Nat) : t.cwImage cw = s.cwImage cw := by
  unfold State.cwImage State.image
  rw [h.1, h.2 _ (cwRegion_lt cw)]

theorem SameCells.yields {t u s : State} (h : SameCells t s) (hy : Yields t u) : SameCells u s :=
  ⟨(hy.field State.arr (by intros; rfl)).trans h.1, fun r hr => (hy.phys r hr).trans (h.2 r hr)⟩

theorem SameCells.rfl' (s : State) : SameCells s s := ⟨rfl, fun _ _ => rfl⟩

/-- An access to a sound codeword yields a window at most (R82, R357). -/
theorem touch_sound (s : State) (cw : Nat) (h : (s.cwImage cw).eccOf (cwIndex cw) = 0) : s.touch cw = (s.access (s.cwOwner cw) cw, .ok) := by
  unfold State.touch
  dsimp only
  rw [((SameCells.rfl' s).yields (access_yields s (s.cwOwner cw) cw)).cwImage, h]
  rfl

/-- Reading sound codewords yields a window at most, and what it reads depends on the cells alone (R82). -/
theorem readCws_sound (n : Nat) : ∀ (s : State) (cw : Nat) (m : Met), s.SoundCws cw n →
    ∀ t, SameCells t s → ∃ u, Yields t u ∧ t.readCws n cw m = (u, (s.readCws n cw m).2) := by
  induction n with
  | zero => exact fun s cw m _ t _ => ⟨t, Yields.rfl' t, rfl⟩
  | succ n ih =>
    intro s cw m h t ht
    have h0 : (s.cwImage cw).eccOf (cwIndex cw) = 0 := h 0 (Nat.succ_pos n)
    have hs : s.SoundCws (cw + 1) n := fun i hi => by
      have := h (i + 1) (by omega)
      rwa [show cw + (i + 1) = cw + 1 + i by omega] at this
    have e : ∀ u, SameCells u s → u.readCw cw m = (u.access (u.cwOwner cw) cw, (s.readCw cw m).2) := by
      intro u hu
      unfold State.readCw
      dsimp only
      rw [touch_sound s cw h0, touch_sound u cw (by rw [hu.cwImage]; exact h0), hu.cwImage]
    have f : ∀ u, SameCells u s → ∃ v, Yields u v ∧ u.readCws (n + 1) cw m = (v, ((s.readCw cw m).2.1 ++ (s.readCws n (cw + 1) (s.readCw cw m).2.2).2.1,
        (s.readCws n (cw + 1) (s.readCw cw m).2.2).2.2)) := by
      intro u hu
      have hy := access_yields u (u.cwOwner cw) cw
      obtain ⟨v, v1, v2⟩ := ih s (cw + 1) (s.readCw cw m).2.2 hs _ (hu.yields hy)
      refine ⟨v, hy.trans' v1, ?_⟩
      show (let a := u.readCw cw m
            let b := State.readCws a.1 n (cw + 1) a.2.2
            (b.1, a.2.1 ++ b.2.1, b.2.2)) = _
      dsimp only
      rw [e u hu]
      dsimp only
      rw [v2]
    obtain ⟨v, v1, v2⟩ := f t ht
    obtain ⟨w, -, w2⟩ := f s (SameCells.rfl' s)
    exact ⟨v, v1, by rw [v2, w2]⟩

theorem readBytes_sound (s : State) (a n : Nat) (m : Met) (h : s.SoundCws (a / 8) (cwCount a n)) (t : State) (ht : SameCells t s) :
    ∃ u, Yields t u ∧ t.readBytes a n m = (u, (s.readBytes a n m).2) := by
  obtain ⟨u, u1, u2⟩ := readCws_sound _ s (a / 8) m h t ht
  refine ⟨u, u1, ?_⟩
  unfold State.readBytes
  dsimp only
  rw [u2]

/-- Which part of the store a codeword lies in does not depend on the cells. -/
theorem cwImage_setCwImage (s : State) (cw cv : Nat) (m : Image) :
    (s.setCwImage cw m).cwImage cv = if s.physOf (cwRegion cv) = s.physOf (cwRegion cw) then m else s.cwImage cv := by
  unfold State.cwImage State.setCwImage
  show State.image (s.setImage _ _) (s.physOf (cwRegion cv)) = _
  split
  · next h => rw [h, State.image_setImage_same]
  · next h => rw [State.image_setImage_ne _ _ h]

/-- Cells and Sweeper's window alone have changed (R357). -/
def Touched (s t : State) : Prop := t = { s with arr := t.arr, fw := t.fw, regs := t.regs } ∧ ∀ a, a ≠ 0xD04 → t.reg a = s.reg a

theorem Yields.touched {s t : State} (h : Yields s t) : Touched s t :=
  ⟨h.1.trans (by rw [h.field State.arr (by intros; rfl)]), h.2⟩

theorem Touched.rfl' (s : State) : Touched s s := ⟨rfl, fun _ _ => rfl⟩

theorem Touched.trans' {s t u : State} (h1 : Touched s t) (h2 : Touched t u) : Touched s u := by
  refine ⟨?_, fun a ha => (h2.2 a ha).trans (h1.2 a ha)⟩
  have e := h2.1
  rw [h1.1] at e
  exact e

theorem touched_set (s : State) (cw : Nat) (g : Image) : Touched s (s.setCwImage cw g) := ⟨rfl, fun _ _ => rfl⟩

/-- Whatever part of a sound codeword a write covers. -/
theorem reach_sound (t : State) (cw : Nat) (c : Bool) (h : (t.cwImage cw).eccOf (cwIndex cw) = 0) :
    (if c = true then t.cover cw else t.touch cw) = (t.access (t.cwOwner cw) cw, .ok) := by
  split
  · rfl
  · exact touch_sound t cw h

/-- A write of one sound codeword: what it changes beside the cells, and that sound codewords stay sound (R82). -/
theorem writeCw_sound (s : State) (cw : Nat) (bs : List (Option Byte)) (p : Bool) (m : Met) (h : (s.cwImage cw).eccOf (cwIndex cw) = 0) :
    ∃ g : Image, (∀ t, SameCells t s → ∃ u, Yields t u ∧ t.writeCw cw bs p m = (u.setCwImage cw g, m.note cw false false)) ∧
      ∀ j, (s.cwImage cw).eccOf j = 0 → g.eccOf j = 0 := by
  refine ⟨((([0, 1, 2, 3].foldl (fun (g : Image) k =>
    g.setWord (4 * cwIndex cw + k) (mergeWord (([0, 1, 2, 3].map (fun k => (s.cwImage cw).word (4 * cwIndex cw + k))).getD k 0#18)
      (bs.getD (2 * k) none) (bs.getD (2 * k + 1) none) p false)) (s.cwImage cw)).setEcc (cwIndex cw) 0)), ?_, ?_⟩
  · intro t ht
    have hy := access_yields t (t.cwOwner cw) cw
    refine ⟨_, hy, ?_⟩
    unfold State.writeCw
    dsimp only
    rw [reach_sound t cw _ (by rw [ht.cwImage]; exact h)]
    dsimp only
    rw [(ht.yields hy).cwImage, ht.cwImage]
    rfl
  · intro j hj
    by_cases e : j = cwIndex cw
    · subst e
      exact Image.eccOf_setEcc_same _ _ _
    · rw [Image.eccOf_setEcc_ne _ _ e]
      exact hj

theorem SameCells.setCwImage {t s : State} (h : SameCells t s) (cw : Nat) (g : Image) :
    SameCells (t.setCwImage cw g) (s.setCwImage cw g) := by
  unfold State.setCwImage State.setImage
  rw [h.1, h.2 _ (cwRegion_lt cw)]
  exact ⟨rfl, h.2⟩

/-- Writing sound codewords changes cells alone, and what it writes depends on the cells alone (R82). -/
theorem writeCws_sound (n : Nat) : ∀ (s : State) (cw : Nat) (bs : List (Option Byte)) (p : Bool) (m : Met), s.SoundCws cw n →
    (m.uncorr = none → m.corrected = false → (s.writeCws n cw bs p m).2 = { corrected := false, uncorr := none }) ∧
    ∀ t, SameCells t s → ∃ v, Touched t v ∧ v.arr = (s.writeCws n cw bs p m).1.arr ∧ t.writeCws n cw bs p m = (v, (s.writeCws n cw bs p m).2) := by
  induction n with
  | zero =>
    intro s cw bs p m _
    refine ⟨fun h1 h2 => ?_, fun t ht => ⟨t, Touched.rfl' t, ht.1, rfl⟩⟩
    show m = _
    cases m
    simp_all
  | succ n ih =>
    intro s cw bs p m h
    have h0 : (s.cwImage cw).eccOf (cwIndex cw) = 0 := h 0 (Nat.succ_pos n)
    obtain ⟨g, e1, e2⟩ := writeCw_sound s cw (bs.take 8) p m h0
    have hs : (s.setCwImage cw g).SoundCws (cw + 1) n := fun i hi => by
      have h3 := h (i + 1) (by omega)
      rw [show cw + (i + 1) = cw + 1 + i by omega] at h3
      rw [cwImage_setCwImage]
      split
      · next hp =>
        apply e2
        unfold State.cwImage at h3 ⊢
        rw [← hp]
        exact h3
      · exact h3
    obtain ⟨i2, i3⟩ := ih (s.setCwImage cw g) (cw + 1) (bs.drop 8) p (m.note cw false false) hs
    have hw : ∀ t, SameCells t s → ∃ v, Touched t v ∧ v.arr = ((s.setCwImage cw g).writeCws n (cw + 1) (bs.drop 8) p (m.note cw false false)).1.arr ∧
        t.writeCws (n + 1) cw bs p m = (v, ((s.setCwImage cw g).writeCws n (cw + 1) (bs.drop 8) p (m.note cw false false)).2) := by
      intro t ht
      obtain ⟨u, u1, u2⟩ := e1 t ht
      obtain ⟨v, v1, v2, v3⟩ := i3 (u.setCwImage cw g) ((ht.yields u1).setCwImage cw g)
      refine ⟨v, (u1.touched.trans' (touched_set u cw g)).trans' v1, v2, ?_⟩
      show State.writeCws (t.writeCw cw (bs.take 8) p m).1 n (cw + 1) (bs.drop 8) p (t.writeCw cw (bs.take 8) p m).2 = _
      rw [u2]
      exact v3
    obtain ⟨w, -, w2, w3⟩ := hw s (SameCells.rfl' s)
    rw [w3]
    refine ⟨fun h1 h2 => i2 h1 (by show (m.corrected || false) = false; rw [h2]; rfl), fun t ht => ?_⟩
    obtain ⟨v, v1, v2, v3⟩ := hw t ht
    exact ⟨v, v1, v2.trans w2.symm, v3⟩

theorem writeBytes_sound (s : State) (a : Nat) (bs : List Byte) (p : Bool) (h : s.SoundCws (a / 8) (cwCount a bs.length)) (t : State)
    (ht : SameCells t s) : ∃ v, Touched t v ∧ v.arr = (s.writeBytes a bs p {}).1.arr ∧ t.writeBytes a bs p {} = (v, {}) := by
  unfold State.writeBytes
  split
  · exact ⟨t, Touched.rfl' t, ht.1, rfl⟩
  · obtain ⟨h2, h3⟩ := writeCws_sound _ s (a / 8) (List.replicate (a % 8) none ++ bs.map some) p {} h
    obtain ⟨v, v1, v2, v3⟩ := h3 t ht
    exact ⟨v, v1, v2, by rw [v3, h2 rfl rfl]⟩

/-- A descriptor that reads no host memory and completes as it arrives: u is the state in which its status is fixed. -/
theorem local_done {s : State} {h : PHost} {j q : Ring} {op : Opcode} {d : Desc} (ha : s.Accepts h j q op d) (hr : readsHost op = false)
    (ups : List Upset) (p : PadTraffic) (hs : Staged op p) (u : State) (c : Compl) (f : Flight) (hf : u.flights = [f])
    (hg : f.host = h ∧ f.sq = j ∧ f.op = op ∧ f.d = d) (hu : (s.begun h j (newFlight h j op d) ups p).advance 0 = u.fixFlight 0 c)
    (hreg : ∀ a, 0x720 ≤ a → a < 0x800 → a ≠ (Reg.HOST_SQ_STAT h.val j.val).addr → u.reg a = s.reg a) (hp : u.pwr = s.pwr)
    (hup : (u.host h).up = (s.host h).up ∧ (u.host h).flow = (s.host h).flow) :
    ∃ t, s.descArrive h j op d {} ups p = t ∧ s.Completes t h j q d c ∧ (∀ o, o ∈ u.out → o ∈ t.out) ∧ t.rest = u.rest ∧
      ∀ a, notRing a → t.reg a = u.reg a := by
  rw [arrive_local s h j op d ups p q ha hr hs, hu, fixFlight_one u f c hf]
  exact ⟨_, rfl, accepts_finish ha.1 _ c ⟨_, rfl, hg.1, hg.2.1, hg.2.2.1, hg.2.2.2, rfl⟩ hreg hp hup⟩

/-- A descriptor that R196 refuses completes at once with the status of the refusal. -/
theorem refused_done {s : State} {h : PHost} {j q : Ring} (ha : s.Arrives h j q) (op : Opcode) (d : Desc) (data : HostData) (ups : List Upset)
    (e : Byte) (he : (s.advanceHead h j).descCheck h op d = some e) :
    ∃ t, s.descArrive h j op d data ups = t ∧ s.Completes t h j q d { status := e } ∧ (∀ o, o ∈ s.out → o ∈ t.out) ∧ t.rest = s.rest ∧
      ∀ a, notRing a → t.reg a = s.reg a := by
  obtain ⟨a1, a2, a3, a4, a5, a6⟩ := advanceHead_facts s h j
  have hz : (s.advanceHead h j).flights = [] := a6.trans ha.2.1
  have e1 : s.descArrive h j op d data ups = ({ s.advanceHead h j with
      flights := [{ newFlight h j op d with stage := .done, committed := true, compl := some { status := e } }] } : State).settle := by
    unfold State.descArrive
    rw [if_pos ha.1]
    dsimp only
    rw [he, hz]
    rfl
  rw [e1]
  obtain ⟨b1, b2, b3, b4⟩ := accepts_finish (op := op) (d := d) ha ({ s.advanceHead h j with
      flights := [{ newFlight h j op d with stage := .done, committed := true, compl := some { status := e } }] } : State) { status := e }
      ⟨_, rfl, rfl, rfl, rfl, rfl, rfl⟩ (fun a _ _ ha => a1 a ha) (rest_pwr a2) ⟨a3, a4⟩
  refine ⟨_, rfl, b1, fun o ho => b2 o ?_, b3.trans a2, fun a ha => (b4 a ha).trans (a1 a (ha.1 h j).1)⟩
  show o ∈ (s.advanceHead h j).out
  rw [a5]
  exact ho

/-- Data written to a host's memory. -/
theorem toHost_facts (s : State) (h : PHost) (a : Nat) (bs : List Byte) : (s.toHost h a bs).regs = s.regs ∧ (s.toHost h a bs).rest = s.rest ∧
    (s.toHost h a bs).flights = s.flights ∧ ((s.toHost h a bs).host h).up = (s.host h).up ∧
    ((s.toHost h a bs).host h).flow = (s.host h).flow ∧ (∀ o, o ∈ s.out → o ∈ (s.toHost h a bs).out) ∧
    (bs ≠ [] → .hostWrite h a bs ∈ (s.toHost h a bs).out) := by
  unfold State.toHost
  split
  · next hb => exact ⟨rfl, rfl, rfl, rfl, rfl, fun _ h => h, fun hn => absurd (List.isEmpty_iff.mp hb) hn⟩
  · refine ⟨rfl, rfl, rfl, ?_, ?_, fun o ho => List.mem_append_left _ ho, fun _ => List.mem_append_right _ (List.mem_singleton.mpr rfl)⟩
    · show (State.host (s.leaveL1 h) h).up = _
      unfold State.leaveL1
      rw [State.host_setHost_same]
    · show (State.host (s.leaveL1 h) h).flow = _
      unfold State.leaveL1
      rw [State.host_setHost_same]
      rfl

/-- The first descriptor of an SQ is not held back. -/
theorem blocked_zero (s : State) (f : Flight) : s.blocked 0 f = false := rfl

/-- The link stays open as a descriptor starts. -/
theorem begun_open (s : State) (h : PHost) (j : Ring) (f : Flight) (ups : List Upset) (p : PadTraffic) (hl : s.mayArrive h j = true) :
    (s.begun h j f ups p).linkOpen h = true := by
  obtain ⟨-, a2, a3, a4, -⟩ := begun_facts s h j f ups p
  unfold State.mayArrive at hl
  simp only [Bool.and_eq_true] at hl
  rw [← hl.1.1]
  unfold State.linkOpen State.serving HostPort.flows
  rw [a2, a3, a4]

/-- An open link does not retrain (R159). -/
theorem open_calm {s : State} {h : PHost} (hl : s.linkOpen h = true) : (s.host h).retraining = false := by
  unfold State.linkOpen HostPort.flows HostPort.flow at hl
  simp only [Bool.and_eq_true, Bool.not_eq_true'] at hl
  exact hl.2.1

/-- Advancing the one descriptor in progress. -/
theorem advance_begun (s : State) (h : PHost) (j : Ring) (op : Opcode) (d : Desc) (ups : List Upset) (hl : s.mayArrive h j = true) :
    (s.begun h j (newFlight h j op d) ups).advance 0 =
      (match op with
      | .read => (s.begun h j (newFlight h j op d) ups).doRead 0 (newFlight h j op d)
      | .copy => (s.begun h j (newFlight h j op d) ups).doCopy 0 (newFlight h j op d)
      | .fill => (s.begun h j (newFlight h j op d) ups).doFill 0 (newFlight h j op d)
      | .word18Read => (s.begun h j (newFlight h j op d) ups).doReadW18 0 (newFlight h j op d)
      | _ => (s.begun h j (newFlight h j op d) ups).advance 0) := by
  have hc : ((s.begun h j (newFlight h j op d) ups).host (newFlight h j op d).host).retraining = false := open_calm (begun_open s h j _ ups {} hl)
  have e := begun_advance s h j op d ups
  cases op <;> first | rfl | (unfold State.advance; rw [e]; simp [newFlight] at hc ⊢; simp [hc])

theorem readCws_length (n : Nat) : ∀ (s : State) (cw : Nat) (m : Met), (s.readCws n cw m).2.1.length = 8 * n := by
  induction n with
  | zero => intros; rfl
  | succ n ih =>
    intro s cw m
    have e : (s.readCw cw m).2.1.length = 8 := by
      have hw : ∀ w : Word, (wordBytes w).1.length = 2 := by
        intro w
        unfold wordBytes
        split_ifs <;> rfl
      unfold State.readCw
      dsimp only
      split
      · rfl
      · simp only [List.length_flatMap, List.map_cons, List.map_nil, List.sum_cons, List.sum_nil, hw, Nat.reduceAdd]
    unfold State.readCws
    dsimp only
    rw [List.length_append, ih, e]
    omega

theorem readBytes_length (s : State) (a n : Nat) (m : Met) (hn : 0 < n) : (s.readBytes a n m).2.1.length = n := by
  unfold State.readBytes
  dsimp only
  rw [List.length_take, List.length_drop, readCws_length]
  unfold cwCount
  omega

/-- A WRITE, READ, COPY or FILL that is accepted moves at least one byte. -/
theorem accepts_n {s : State} {h : PHost} {op : Opcode} {d : Desc} (hd : s.descCheck h op d = none)
    (ho : op = .write ∨ op = .read ∨ op = .copy ∨ op = .fill) : 0 < Desc.n d := by
  unfold State.descCheck at hd
  rw [if_neg (by rcases ho with h | h | h | h <;> rw [h] <;> decide)] at hd
  split at hd
  · exact absurd hd (by simp)
  · next hs =>
    have hl : s.limitsOk op d = true := by
      by_contra hc
      exact hs (by simp [hc])
    have hb : byteRange (Desc.a d) (Desc.n d) = true := by
      rcases ho with h | h | h | h <;> subst h <;> unfold State.limitsOk at hl <;> dsimp only at hl
      · exact hl
      · exact hl
      · simp only [Bool.and_eq_true] at hl
        exact hl.1.1
      · simp only [Bool.and_eq_true] at hl
        exact hl.1
    unfold byteRange at hb
    have := of_decide_eq_true hb
    omega

theorem reg_congr {s t : State} (h : t.regs = s.regs) (a : Nat) : t.reg a = s.reg a := by
  unfold State.reg
  rw [h]

/-- A descriptor that starts without upsets changes none of what it does not use. -/
theorem begun_rest_nil (s : State) (h : PHost) (j : Ring) (f : Flight) (p : PadTraffic := {}) : (s.begun h j f [] p).rest = s.rest := by
  unfold State.begun
  rw [flightUpsets_nil]
  exact (headStaged_facts s h j p).2.1

/-- A state that differs in cells alone, with every sound codeword still sound. -/
def OnlyCells (s t : State) : Prop :=
  Touched s t ∧ ∀ cv, (s.cwImage cv).eccOf (cwIndex cv) = 0 → (t.cwImage cv).eccOf (cwIndex cv) = 0

theorem OnlyCells.rfl' (s : State) : OnlyCells s s := ⟨Touched.rfl' s, fun _ h => h⟩

theorem OnlyCells.trans' {s t u : State} (h1 : OnlyCells s t) (h2 : OnlyCells t u) : OnlyCells s u :=
  ⟨h1.1.trans' h2.1, fun cv h => h2.2 cv (h1.2 cv h)⟩

theorem Yields.cells {s t : State} (h : Yields s t) : OnlyCells s t :=
  ⟨h.touched, fun cv hc => by rw [((SameCells.rfl' s).yields h).cwImage]; exact hc⟩

theorem onlyCells_set (s : State) (cw : Nat) (g : Image) (h : ∀ j, (s.cwImage cw).eccOf j = 0 → g.eccOf j = 0) :
    OnlyCells s (s.setCwImage cw g) := by
  refine ⟨touched_set s cw g, fun cv hc => ?_⟩
  rw [cwImage_setCwImage]
  split
  · next hp =>
    apply h
    unfold State.cwImage at hc ⊢
    rw [← hp]
    exact hc
  · exact hc

theorem onlyCells_fold {α : Type} (f : State → α → State) (hf : ∀ t x, OnlyCells t (f t x)) (xs : List α) : ∀ s, OnlyCells s (xs.foldl f s) := by
  induction xs with
  | nil => exact OnlyCells.rfl'
  | cons x xs ih => exact fun s => (hf s x).trans' (ih _)

theorem poisonBytes_cells (s : State) (a : Nat) (fl : List Bool) : OnlyCells s (s.poisonBytes a fl) :=
  onlyCells_fold _ (fun t i => onlyCells_set t ((a + i) / 8)
    ((t.cwImage ((a + i) / 8)).setWord (4 * cwIndex ((a + i) / 8) + (a + i) % 8 / 2) 0x20000#18) (fun _ h => h)) _ _

theorem setEcc_sound {m : Image} {i : Nat} (j : Nat) (h : m.eccOf j = 0) : (m.setEcc i 0).eccOf j = 0 := by
  by_cases e : j = i
  · subst e
    exact Image.eccOf_setEcc_same _ _ _
  · rw [Image.eccOf_setEcc_ne _ _ e]
    exact h

theorem wipeCws_cells (n : Nat) : ∀ (s : State) (cw : Nat), OnlyCells s (s.wipeCws n cw) := by
  induction n with
  | zero => exact fun s _ => OnlyCells.rfl' s
  | succ n ih =>
    intro s cw
    have h0 := (access_yields s (s.cwOwner cw) cw).cells
    have h1 := h0.trans' (onlyCells_set _ cw (([0, 1, 2, 3].foldl (fun (g : Image) k => g.setWord (4 * cwIndex cw + k) 0x10000#18)
      ((s.access (s.cwOwner cw) cw).cwImage cw)).setEcc (cwIndex cw) 0) (fun j h => setEcc_sound j (by simp only [List.foldl_cons, List.foldl_nil, Image.eccOf_setWord]; exact h)))
    exact h1.trans' (ih _ (cw + 1))

theorem writeBytes_cells (s : State) (a : Nat) (bs : List Byte) (p : Bool) (h : s.SoundCws (a / 8) (cwCount a bs.length)) :
    (s.writeBytes a bs p {}).2 = {} ∧ Touched s (s.writeBytes a bs p {}).1 := by
  obtain ⟨v, v1, -, v3⟩ := writeBytes_sound s a bs p h s (SameCells.rfl' s)
  rw [v3]
  exact ⟨rfl, v1⟩

/-- Reading word18 words from sound codewords (R83). -/
theorem readW18s_sound (n : Nat) : ∀ (s : State) (w : Nat) (m : Met), (∀ i, i < n → (s.cwImage ((w + i) / 4)).eccOf (cwIndex ((w + i) / 4)) = 0) →
    ∃ u, Yields s u ∧ s.readW18s n w m = (u, s.w18s w n, m) := by
  induction n with
  | zero => exact fun s _ _ _ => ⟨s, Yields.rfl' s, rfl⟩
  | succ n ih =>
    intro s w m h
    have h0 : (s.cwImage (w / 4)).eccOf (cwIndex (w / 4)) = 0 := h 0 (Nat.succ_pos n)
    have e : s.w18s w (n + 1) = (s.cwImage (w / 4)).word (4 * cwIndex (w / 4) + w % 4) :: s.w18s (w + 1) n := by
      unfold State.w18s
      rw [List.range_succ_eq_map]
      simp only [List.map_cons, List.map_map, Nat.add_zero]
      congr 1
      · unfold State.w18
        dsimp only
        rw [if_neg (by rw [h0]; decide)]
      · apply List.map_congr_left
        intro i _
        show s.w18 (w + (i + 1)) = s.w18 (w + 1 + i)
        congr 1
        omega
    have hy := access_yields s (s.cwOwner (w / 4)) (w / 4)
    have hi : ∀ cv, (s.access (s.cwOwner (w / 4)) (w / 4)).cwImage cv = s.cwImage cv := ((SameCells.rfl' s).yields hy).cwImage
    obtain ⟨u, u1, u2⟩ := ih _ (w + 1) m (fun i hi' => by
      have := h (i + 1) (by omega)
      rw [show w + (i + 1) = w + 1 + i by omega] at this
      rw [hi]
      exact this)
    refine ⟨u, hy.trans' u1, ?_⟩
    unfold State.readW18s
    dsimp only
    rw [touch_sound s (w / 4) h0]
    dsimp only
    have hm : m.note (w / 4) (decide (CwRead.ok = CwRead.corrected)) (decide (CwRead.ok = CwRead.bad)) = m := by
      unfold Met.note
      simp
    have e2 : (s.access (s.cwOwner (w / 4)) (w / 4)).w18s (w + 1) n = s.w18s (w + 1) n := by
      unfold State.w18s State.w18
      simp only [hi]
    rw [hm, u2, e, e2]
    simp

theorem writeW18cw_sound (s : State) (cw k : Nat) (vs : List Word) (m : Met) (h : (s.cwImage cw).eccOf (cwIndex cw) = 0) :
    OnlyCells s (s.writeW18cw cw k vs m).1 ∧ (s.writeW18cw cw k vs m).2 = m := by
  unfold State.writeW18cw
  dsimp only
  rw [reach_sound s cw _ h]
  refine ⟨(access_yields s (s.cwOwner cw) cw).cells.trans' (onlyCells_set _ _ _ (fun j hj => ?_)), by unfold Met.note; simp⟩
  dsimp only
  rw [if_neg (by decide)]
  apply setEcc_sound
  have : ∀ (xs : List (Nat × Word)) (g : Image), g.eccOf j = 0 → (xs.foldl (fun (g : Image) e => g.setWord (4 * cwIndex cw + k + e.1) e.2) g).eccOf j = 0 := by
    intro xs
    induction xs with
    | nil => exact fun _ h => h
    | cons x xs ih => exact fun g h => ih _ h
  exact this _ _ hj

/-- Writing word18 words into sound codewords changes cells alone (R83). -/
theorem writeW18s_sound (n : Nat) : ∀ (s : State) (w : Nat) (vs : List Word) (m : Met),
    (∀ i, i < vs.length → (s.cwImage ((w + i) / 4)).eccOf (cwIndex ((w + i) / 4)) = 0) →
    OnlyCells s (s.writeW18s n w vs m).1 ∧ (s.writeW18s n w vs m).2 = m := by
  induction n with
  | zero => exact fun s _ _ m _ => ⟨OnlyCells.rfl' s, rfl⟩
  | succ n ih =>
    intro s w vs m h
    unfold State.writeW18s
    split
    · exact ⟨OnlyCells.rfl' s, rfl⟩
    · next hv =>
      dsimp only
      have hp : 0 < vs.length := by
        cases vs with
        | nil => exact absurd rfl hv
        | cons => exact Nat.succ_pos _
      obtain ⟨a1, a2⟩ := writeW18cw_sound s (w / 4) (w % 4) (vs.take (4 - w % 4)) m (h 0 hp)
      obtain ⟨b1, b2⟩ := ih (s.writeW18cw (w / 4) (w % 4) (vs.take (4 - w % 4)) m).1 (w + (4 - w % 4)) (vs.drop (4 - w % 4))
        (s.writeW18cw (w / 4) (w % 4) (vs.take (4 - w % 4)) m).2 (fun i hi => a1.2 _ (by
          rw [List.length_drop] at hi
          have := h (4 - w % 4 + i) (by omega)
          rw [show w + (4 - w % 4 + i) = w + (4 - w % 4) + i by omega] at this
          exact this))
      exact ⟨a1.trans' b1, b2.trans a2⟩

/-- Reading the bytes of a COPY from sound codewords yields a window at most (Table 7-7). -/
theorem readMarked_sound (s : State) (a n : Nat) (h : s.SoundCws (a / 8) (cwCount a n)) : Yields s (s.readMarked a n {}).1 := by
  unfold State.readMarked
  dsimp only
  have key : ∀ (xs : List Nat) (acc : State × List (Byte × Bool) × Met), (∀ i, i ∈ xs → i < cwCount a n) → Yields s acc.1 →
      Yields s (xs.foldl (fun (acc : State × List (Byte × Bool) × Met) i =>
        let ws := [0, 1, 2, 3].map (fun k => (acc.1.cwImage (a / 8 + i)).word (4 * cwIndex (a / 8 + i) + k))
        let r := acc.1.readCw (a / 8 + i) {}
        let bad := decide (2 ≤ (acc.1.cwImage (a / 8 + i)).eccOf (cwIndex (a / 8 + i)))
        let flags := ws.flatMap (fun (w : Word) => [bad || w.getLsbD 17, bad || w.getLsbD 17])
        (r.1, acc.2.1 ++ r.2.1.zip flags, acc.2.2.note (a / 8 + i) r.2.2.corrected r.2.2.uncorr.isSome)) acc).1 := by
    intro xs
    induction xs with
    | nil => exact fun _ _ h => h
    | cons x xs ih =>
      intro acc hx ha
      rw [List.foldl_cons]
      refine ih _ (fun i hi => hx i (List.mem_cons_of_mem _ hi)) ?_
      dsimp only
      have h0 := touch_sound acc.1 (a / 8 + x) (by
        rw [((SameCells.rfl' s).yields ha).cwImage]
        exact h x (hx x (List.mem_cons_self)))
      unfold State.readCw
      rw [h0]
      exact ha.trans' (access_yields _ _ _)
  exact key _ _ (fun i hi => List.mem_range.mp hi) (Yields.rfl' s)

/-- The parts of `asked` beside its one descriptor. -/
theorem asked_facts (s : State) (h : PHost) (j : Ring) (f g : Flight) (ups : List Upset) (p : PadTraffic := {}) :
    (∀ a, a ≠ (Reg.HOST_SQ_STAT h.val j.val).addr → a ≠ 0xD04 → (s.asked h j f g ups p).reg a = s.reg a) ∧ (s.asked h j f g ups p).pwr = s.pwr ∧
    ((s.asked h j f g ups p).host h).up = (s.host h).up ∧ ((s.asked h j f g ups p).host h).flow = (s.host h).flow ∧
    (s.asked h j f g ups p).out = s.out ++ [.dataRead h f.d.haddr.toNat (Desc.n f.d)] ∧ (s.asked h j f g ups p).flights = [g] := by
  obtain ⟨a1, a2, a3, a4, a5, -⟩ := advanceHead_facts s h j
  have y := padWrites_yields ({ ((s.advanceHead h j).leaveL1 h).emit (.dataRead h f.d.haddr.toNat (Desc.n f.d)) with flights := [{ f with asked := Desc.n f.d }] } : State) p
  have k := fun {β : Type} (q : State → β) (hq : ∀ (t : State) (r : Nat) (m : Image), q (t.setImage r m) = q t)
      (hy : ∀ (u : State) (x : Firmware) (m : Map Word), q { u with fw := x, regs := m } = q u) =>
    (flightUpsets_keeps q hq (({ ((s.advanceHead h j).leaveL1 h).emit (.dataRead h f.d.haddr.toNat (Desc.n f.d)) with flights := [{ f with asked := Desc.n f.d }] } : State).padWrites p) f ups).trans (y.field q hy)
  refine ⟨fun a ha hb => ?_, ?_, ?_, ?_, ?_, rfl⟩
  · exact ((flightUpsets_keeps (fun t => t.reg a) (fun _ _ _ => rfl) _ f ups).trans (y.2 a hb)).trans (a1 a ha)
  · exact (k (fun t => t.pwr) (fun _ _ _ => rfl) (by intros; rfl)).trans (rest_pwr a2)
  · refine (k (fun t => (t.host h).up) (fun _ _ _ => rfl) (by intros; rfl)).trans (Eq.trans ?_ a3)
    show (State.host ((s.advanceHead h j).leaveL1 h) h).up = _
    unfold State.leaveL1
    rw [State.host_setHost_same]
  · refine (k (fun t => (t.host h).flow) (fun _ _ _ => rfl) (by intros; rfl)).trans (Eq.trans ?_ a4)
    show (State.host ((s.advanceHead h j).leaveL1 h) h).flow = _
    unfold State.leaveL1
    rw [State.host_setHost_same]
    rfl
  · refine (k (fun t => t.out) (fun _ _ _ => rfl) (by intros; rfl)).trans ?_
    show (s.advanceHead h j).out ++ _ = _
    rw [a5]

/-- What a state that differs in cells and Sweeper's window alone keeps. -/
theorem Touched.field {β : Type} (p : State → β)
    (hp : ∀ (u : State) (m : Map Image) (x : Firmware) (r : Map Word), p { u with arr := m, fw := x, regs := r } = p u) {s t : State}
    (h : Touched s t) : p t = p s := (congrArg p h.1).trans (hp _ _ _ _)

/-- A descriptor that reads no host memory, whose effect on the rest of the state is on cells alone. -/
theorem local_cells {s : State} {h : PHost} {j q : Ring} {op : Opcode} {d : Desc} (ha : s.Accepts h j q op d) (hr : readsHost op = false)
    (ups : List Upset) (p : PadTraffic) (hs : Staged op p) (b u : State) (c : Compl) (hb : b = s.begun h j (newFlight h j op d) ups p) (hc : Touched b u)
    (hu : b.advance 0 = u.fixFlight 0 c) :
    ∃ t, s.descArrive h j op d {} ups p = t ∧ s.Completes t h j q d c ∧ t.rest = u.rest ∧ ∀ a, notRing a → t.reg a = s.reg a := by
  obtain ⟨a1, a2, a3, a4, a5, a6⟩ := begun_facts s h j (newFlight h j op d) ups p
  rw [← hb] at a1 a2 a3 a4 a5 a6
  obtain ⟨t, e1, e2, -, e4, e5⟩ := local_done ha hr ups p hs u c _ ((hc.field State.flights (by intros; rfl)).trans a6) ⟨rfl, rfl, rfl, rfl⟩
    (by rw [← hb]; exact hu) (fun a _ hx h => (hc.2 a (by omega)).trans (a1 a h (by omega))) ((hc.field State.pwr (by intros; rfl)).trans a2)
    ⟨(hc.field (fun t => (t.host h).up) (by intros; rfl)).trans a3, (hc.field (fun t => (t.host h).flow) (by intros; rfl)).trans a4⟩
  exact ⟨t, e1, e2, e4, fun a ha => ((e5 a ha).trans (hc.2 a ha.2)).trans (a1 a (ha.1 h j).1 ha.2)⟩

/-- A descriptor that has all of its data: nothing poisoned, no read failed. -/
theorem receive_all {s : State} {h : PHost} {j : Ring} {op : Opcode} {d : Desc} {data : HostData} (hd : s.Delivers (newFlight h j op d) data) :
    (askedFlight h j op d).receive data = { askedFlight h j op d with buf := data.bytes } := by
  obtain ⟨-, hn, hp, hf⟩ := hd
  have hn : data.bytes.length = Desc.n d := hn
  unfold Flight.receive askedFlight newFlight Flight.received
  dsimp only
  rw [if_neg (by simp [hp]), if_neg (by simp [hf]), List.length_nil, ← hn]
  simp

theorem receive_full {s : State} {h : PHost} {j : Ring} {op : Opcode} {d : Desc} {data : HostData} (hd : s.Delivers (newFlight h j op d) data) :
    ((askedFlight h j op d).receive data).lacks = false := by
  have hn : data.bytes.length = Desc.n d := hd.2.1
  rw [receive_all hd]
  simp [Flight.lacks, Flight.received, askedFlight, newFlight, hn]

/-- The same for a descriptor that reads host memory and has all its data at once; g is the descriptor with its data. -/
theorem host_done {s : State} {h : PHost} {j q : Ring} {op : Opcode} {d : Desc} (ha : s.Accepts h j q op d) (hr : readsHost op = true)
    (data : HostData) (hd : s.Delivers (newFlight h j op d) data) (hn : 0 < Desc.n d) (ups : List Upset) (p : PadTraffic) (hs : Staged op p) (u : State) (c : Compl)
    (f : Flight) (hf : u.flights = [f]) (hg : f.host = h ∧ f.sq = j ∧ f.op = op ∧ f.d = d)
    (hu : (s.asked h j (newFlight h j op d) ((askedFlight h j op d).receive data) ups p).advance 0 = u.fixFlight 0 c)
    (hreg : ∀ a, 0x720 ≤ a → a < 0x800 → a ≠ (Reg.HOST_SQ_STAT h.val j.val).addr → u.reg a = s.reg a) (hp : u.pwr = s.pwr)
    (hup : (u.host h).up = (s.host h).up ∧ (u.host h).flow = (s.host h).flow) :
    ∃ t, s.descArrive h j op d data ups p = t ∧ s.Completes t h j q d c ∧ (∀ o, o ∈ u.out → o ∈ t.out) ∧ t.rest = u.rest ∧
      ∀ a, notRing a → t.reg a = u.reg a := by
  obtain ⟨a1, a2, a3, a4, a5, a6⟩ := asked_facts s h j (newFlight h j op d) ((askedFlight h j op d).receive data) ups p
  have hl : (s.asked h j (newFlight h j op d) ((askedFlight h j op d).receive data) ups p).serving = true := by
    have h1 := ha.1.1
    unfold State.mayArrive State.linkOpen at h1
    simp only [Bool.and_eq_true] at h1
    exact serving_congr s _ h1.1.1.1.1 (by rw [a2])
  have hfx : (u.fixFlight 0 c).FixedAs h j op d c := by
    rw [fixFlight_one u f c hf]
    exact ⟨_, rfl, hg.1, hg.2.1, hg.2.2.1, hg.2.2.2, rfl⟩
  rw [arrive_host s h j op d data ups p q ha hr hs hd hn]
  rw [settle_first _ _ a6 (receive_full hd) hl h j op d c (by rw [hu]; exact hfx) (by rw [hu, fixFlight_one u f c hf, a2]; exact hp), hu]
  rw [fixFlight_one u f c hf] at hfx ⊢
  exact ⟨_, rfl, accepts_finish ha.1 _ c hfx hreg hp hup⟩

theorem host_cells {s : State} {h : PHost} {j q : Ring} {op : Opcode} {d : Desc} (ha : s.Accepts h j q op d) (hr : readsHost op = true)
    (data : HostData) (hd : s.Delivers (newFlight h j op d) data) (hn : 0 < Desc.n d) (ups : List Upset) (p : PadTraffic) (hs : Staged op p) (b u : State) (c : Compl)
    (hb : b = s.asked h j (newFlight h j op d) ((askedFlight h j op d).receive data) ups p) (hc : Touched b { u with flights := b.flights })
    (f : Flight) (hf : u.flights = [f]) (hg : f.host = h ∧ f.sq = j ∧ f.op = op ∧ f.d = d) (hu : b.advance 0 = u.fixFlight 0 c) :
    ∃ t, s.descArrive h j op d data ups p = t ∧ s.Completes t h j q d c ∧ .dataRead h d.haddr.toNat (Desc.n d) ∈ t.out ∧ t.rest = u.rest ∧
      ∀ a, notRing a → t.reg a = s.reg a := by
  obtain ⟨a1, a2, a3, a4, a5, a6⟩ := asked_facts s h j (newFlight h j op d) ((askedFlight h j op d).receive data) ups p
  rw [← hb] at a1 a2 a3 a4 a5 a6
  have k : ∀ a, a ≠ 0xD04 → u.reg a = b.reg a := hc.2
  obtain ⟨t, e1, e2, e3, e4, e5⟩ := host_done ha hr data hd hn ups p hs u c f hf hg
    (by rw [← hb]; exact hu) (fun a _ hx h => (k a (by omega)).trans (a1 a h (by omega))) ((hc.field State.pwr (by intros; rfl)).trans a2)
    ⟨(hc.field (fun t => (t.host h).up) (by intros; rfl)).trans a3, (hc.field (fun t => (t.host h).flow) (by intros; rfl)).trans a4⟩
  refine ⟨t, e1, e2, e3 _ ?_, e4, fun a ha => ((e5 a ha).trans (k a ha.2)).trans (a1 a (ha.1 h j).1 ha.2)⟩
  rw [show u.out = b.out from hc.field State.out (by intros; rfl), a5]
  exact List.mem_append_right _ (List.mem_singleton.mpr rfl)

/-- A WRITE with all of its data at once: it is written and the descriptor's status fixed (R82, R180). -/
theorem placeWrite_all (b : State) (f : Flight) (h0 : f.moved = 0) (h1 : f.bad = []) (h2 : f.ending = none) (h3 : f.buf.length = Desc.n f.d)
    (h4 : b.blocked 0 f = false) (h5 : b.rangeWaits (Desc.a f.d) (Desc.n f.d) true = false)
    (h6 : (b.writeBytes (Desc.a f.d) f.buf false f.met).2 = {}) :
    b.placeWrite 0 f = ((b.writeBytes (Desc.a f.d) f.buf false f.met).1.setFlight 0
        (({ f with moved := Desc.n f.d, buf := [], bad := [] } : Flight).note {})).fixFlight 0
          { status := Status.done, result := BitVec.ofNat 64 (Desc.n f.d) } := by
  unfold State.placeWrite
  dsimp only
  have hk : (f.flush = true ∨ 0 + Desc.n f.d = Desc.n f.d) = True := eq_true (.inr (by omega))
  simp only [h0, h1, hk, if_true, h3, Nat.add_zero, List.length_nil, h4, h5, Bool.or_self]
  rw [if_neg (by decide),
    List.take_of_length_le (by omega), List.drop_of_length_le (by omega)]
  show (b.writeBytes (Desc.a f.d) f.buf false f.met).1.placed 0 _ = _
  unfold State.placed
  dsimp only [Flight.note]
  rw [h2]
  dsimp only
  simp only [Nat.zero_add, if_true]
  rw [show ((b.writeBytes (Desc.a f.d) f.buf false f.met).1.writeBytes (Desc.a f.d + Desc.n f.d) [] true
    (b.writeBytes (Desc.a f.d) f.buf false f.met).2).2 = (b.writeBytes (Desc.a f.d) f.buf false f.met).2 from rfl, h6]
  rfl

/-- A WORD18 WRITE with all of its data at once (R83). -/
theorem placeW18_all (b : State) (f : Flight) (h0 : f.moved = 0) (h2 : f.ending = none) (h3 : f.buf.length = Desc.n f.d)
    (hn : Desc.n f.d % 4 = 0) (h4 : b.blocked 0 f = false) (h5 : b.rangeWaits (2 * Desc.a f.d) (2 * (Desc.n f.d / 4)) true = false)
    (hl : (slotWords f.buf).length = Desc.n f.d / 4)
    (h6 : (b.writeW18s (Desc.n f.d / 4 + 1) (Desc.a f.d) (slotWords f.buf) f.met).2 = {}) :
    b.placeW18 0 f = ((b.writeW18s (Desc.n f.d / 4 + 1) (Desc.a f.d) (slotWords f.buf) f.met).1.setFlight 0
        (({ f with moved := Desc.n f.d, buf := [] } : Flight).note {})).fixFlight 0
          { status := Status.done, result := BitVec.ofNat 64 (Desc.n f.d) } := by
  unfold State.placeW18
  dsimp only
  have hk : (f.flush = true ∨ 0 + 4 * (Desc.n f.d / 4) = Desc.n f.d) = True := eq_true (.inr (by omega))
  simp only [h0, h3, hk, if_true, h4, Nat.zero_div, Nat.add_zero, h5, Bool.or_self]
  rw [if_neg (by decide), List.take_of_length_le (by omega), List.drop_of_length_le (by omega)]
  unfold State.placed
  dsimp only [Flight.note]
  rw [h2]
  dsimp only
  have e4 : 0 + 4 * (Desc.n f.d / 4) = Desc.n f.d := by omega
  simp only [e4, if_true]
  rw [h6]
  rfl

theorem slotWords_length (n : Nat) : ∀ bs : List Byte, bs.length = 4 * n → (slotWords bs).length = n := by
  induction n with
  | zero =>
    intro bs h
    rw [List.length_eq_zero_iff.mp h]
    rfl
  | succ n ih =>
    intro bs h
    match bs, h with
    | a :: b :: c :: d :: r, h =>
      show (slotWords r).length + 1 = _
      rw [ih r (by simp only [List.length_cons] at h; omega)]

/-- A word18 transfer that is accepted moves whole slots. -/
theorem accepts_slots {s : State} {h : PHost} {op : Opcode} {d : Desc} (hd : s.descCheck h op d = none)
    (ho : op = .word18Write ∨ op = .word18Read) : 4 ≤ Desc.n d ∧ Desc.n d % 4 = 0 := by
  unfold State.descCheck at hd
  rw [if_neg (by rcases ho with h | h <;> rw [h] <;> decide)] at hd
  split at hd
  · exact absurd hd (by simp)
  · next hs =>
    have hl : s.limitsOk op d = true := by
      by_contra hc
      exact hs (by simp [hc])
    have hb : Desc.slots4 d 0x4000000 = true := by
      rcases ho with h | h <;> subst h <;> unfold State.limitsOk at hl <;> dsimp only at hl <;> simp only [Bool.and_eq_true] at hl <;> exact hl.1
    unfold Desc.slots4 at hb
    have := of_decide_eq_true hb
    omega

theorem readMarked_length (s : State) (a n : Nat) (m : Met) (hn : 0 < n) : (s.readMarked a n m).2.1.length = n := by
  unfold State.readMarked
  dsimp only
  have key : ∀ (xs : List Nat) (acc : State × List (Byte × Bool) × Met),
      (xs.foldl (fun (acc : State × List (Byte × Bool) × Met) i =>
        let ws := [0, 1, 2, 3].map (fun k => (acc.1.cwImage (a / 8 + i)).word (4 * cwIndex (a / 8 + i) + k))
        let r := acc.1.readCw (a / 8 + i) {}
        let bad := decide (2 ≤ (acc.1.cwImage (a / 8 + i)).eccOf (cwIndex (a / 8 + i)))
        let flags := ws.flatMap (fun (w : Word) => [bad || w.getLsbD 17, bad || w.getLsbD 17])
        (r.1, acc.2.1 ++ r.2.1.zip flags, acc.2.2.note (a / 8 + i) r.2.2.corrected r.2.2.uncorr.isSome)) acc).2.1.length =
          acc.2.1.length + 8 * xs.length := by
    intro xs
    induction xs with
    | nil => exact fun _ => rfl
    | cons x xs ih =>
      intro acc
      rw [List.foldl_cons, ih]
      have e := readCws_length 1 acc.1 (a / 8 + x) {}
      have e2 : (acc.1.readCws 1 (a / 8 + x) {}).2.1 = (acc.1.readCw (a / 8 + x) {}).2.1 := List.append_nil _
      rw [e2] at e
      dsimp only
      rw [List.length_append, List.length_zip, e]
      simp only [List.length_flatMap, List.length_cons, List.length_nil, List.map_cons, List.map_nil, List.sum_cons, List.sum_nil]
      omega
  rw [List.length_take, List.length_drop, key, List.length_range]
  unfold cwCount
  simp only [List.length_nil]
  omega

theorem note_clean (m : Met) (cw : Nat) : m.note cw false false = m := by
  cases m
  simp [Met.note]

theorem writeCws_met (n : Nat) : ∀ (s : State) (cw : Nat) (bs : List (Option Byte)) (p : Bool) (m : Met), s.SoundCws cw n →
    (s.writeCws n cw bs p m).2 = m ∧ OnlyCells s (s.writeCws n cw bs p m).1 := by
  induction n with
  | zero => exact fun s _ _ _ _ _ => ⟨rfl, OnlyCells.rfl' s⟩
  | succ n ih =>
    intro s cw bs p m h
    obtain ⟨g, e1, e2⟩ := writeCw_sound s cw (bs.take 8) p m (h 0 (Nat.succ_pos n))
    obtain ⟨u, u1, e3⟩ := e1 s (SameCells.rfl' s)
    have hc := u1.cells.trans' (onlyCells_set u cw g (by rw [((SameCells.rfl' s).yields u1).cwImage]; exact e2))
    obtain ⟨i1, i2⟩ := ih (u.setCwImage cw g) (cw + 1) (bs.drop 8) p m (fun i hi => by
      have := h (i + 1) (by omega)
      rw [show cw + (i + 1) = cw + 1 + i by omega] at this
      exact hc.2 _ this)
    show (State.writeCws (s.writeCw cw (bs.take 8) p m).1 n (cw + 1) (bs.drop 8) p (s.writeCw cw (bs.take 8) p m).2).2 = m ∧
      OnlyCells s (State.writeCws (s.writeCw cw (bs.take 8) p m).1 n (cw + 1) (bs.drop 8) p (s.writeCw cw (bs.take 8) p m).2).1
    rw [e3, note_clean]
    exact ⟨i1, hc.trans' i2⟩

theorem writeBytes_met (s : State) (a : Nat) (bs : List Byte) (p : Bool) (m : Met) (h : s.SoundCws (a / 8) (cwCount a bs.length)) :
    (s.writeBytes a bs p m).2 = m ∧ OnlyCells s (s.writeBytes a bs p m).1 := by
  unfold State.writeBytes
  split
  · exact ⟨rfl, OnlyCells.rfl' s⟩
  · exact writeCws_met _ _ _ _ _ _ h

theorem State.host_setHost_ne (s : State) {g h : PHost} (p : HostPort) (e : g ≠ h) : (s.setHost h p).host g = s.host g := by
  unfold State.host State.setHost
  exact Map.get_set_ne _ _ _ (fun hc => e (Fin.val_injective hc))

/-- t has the descriptors in progress, the power state, the ring registers and the links of s. -/
structure Quiet (s t : State) : Prop where
  flights : t.flights = s.flights
  pwr : t.pwr = s.pwr
  regs : ∀ a, 0x720 ≤ a → a < 0x800 → t.reg a = s.reg a
  up : ∀ h, (t.host h).up = (s.host h).up
  flow : ∀ h, (t.host h).flow = (s.host h).flow
  out : ∀ o, o ∈ s.out → o ∈ t.out

theorem Quiet.rfl' (s : State) : Quiet s s := ⟨rfl, rfl, fun _ _ _ => rfl, fun _ => rfl, fun _ => rfl, fun _ h => h⟩

theorem Quiet.trans' {s t u : State} (a : Quiet s t) (b : Quiet t u) : Quiet s u :=
  ⟨b.flights.trans a.flights, b.pwr.trans a.pwr, fun x h1 h2 => (b.regs x h1 h2).trans (a.regs x h1 h2), fun h => (b.up h).trans (a.up h),
    fun h => (b.flow h).trans (a.flow h), fun o h => b.out o (a.out o h)⟩

theorem Quiet.fold {α : Type} {f : State → α → State} (hf : ∀ t x, Quiet t (f t x)) (xs : List α) : ∀ s, Quiet s (xs.foldl f s) := by
  induction xs with
  | nil => exact Quiet.rfl'
  | cons x xs ih => exact fun s => (hf s x).trans' (ih _)

theorem Quiet.ite {c : Prop} [Decidable c] {s t u : State} (h1 : Quiet s t) (h2 : Quiet s u) : Quiet s (if c then t else u) := by
  split
  · exact h1
  · exact h2

theorem Quiet.setReg (s : State) (a : Nat) (w : Word) (h : a < 0x720 ∨ 0x800 ≤ a) : Quiet s (s.setReg a w) :=
  ⟨rfl, rfl, fun b h1 h2 => State.reg_setReg_ne _ _ (by omega), fun _ => rfl, fun _ => rfl, fun _ h => h⟩

theorem Quiet.put (s : State) (f : Fld) (v : Nat) (h : f.addr < 0x720 ∨ 0x800 ≤ f.addr) : Quiet s (s.put f v) :=
  ⟨rfl, rfl, fun b h1 h2 => State.reg_put_ne _ _ (by omega), fun _ => rfl, fun _ => rfl, fun _ h => h⟩

theorem Quiet.emit (s : State) (o : Out) : Quiet s (s.emit o) :=
  ⟨rfl, rfl, fun _ _ _ => rfl, fun _ => rfl, fun _ => rfl, fun _ h => List.mem_append_left _ h⟩

theorem Quiet.setHost (s : State) (h : PHost) (p : HostPort) (h1 : p.up = (s.host h).up) (h2 : p.flow = (s.host h).flow) :
    Quiet s (s.setHost h p) := by
  refine ⟨rfl, rfl, fun _ _ _ => rfl, fun g => ?_, fun g => ?_, fun _ h => h⟩
  all_goals
    by_cases e : g = h
    · subst e
      rw [State.host_setHost_same]
      assumption
    · rw [State.host_setHost_ne _ _ e]

theorem Quiet.msix (s : State) (h : PHost) (v : Nat) : Quiet s (s.msix h v) := by
  unfold State.msix
  dsimp only
  split_ifs
  · exact Quiet.setHost _ _ _ rfl rfl
  · exact Quiet.setHost _ _ _ rfl rfl
  · exact Quiet.setHost _ _ _ rfl rfl
  · exact Quiet.trans' (t := s.setHost h { s.host h with l1 := false, sentAt := Map.set (fun _ => 0) (s.host h).sentAt v (s.stamp + 1) })
      (Quiet.setHost _ _ _ rfl rfl) (Quiet.emit _ _)
  · exact Quiet.rfl' _

theorem Quiet.notify (s : State) (c : IClass) (h : PHost) : Quiet s (s.notify c h) := by
  unfold State.notify
  dsimp only
  split_ifs
  · exact Quiet.trans' (t := s.setHost h { s.host h with wakeLow := true }) (Quiet.setHost _ _ _ rfl rfl) (Quiet.emit _ _)
  · exact Quiet.rfl' _
  · exact Quiet.msix _ _ _
  · exact Quiet.rfl' _

theorem Quiet.event (s : State) (ev : Fld) (a : Nat) (c : IClass) (hs : List PHost) (h : ev.addr < 0x720 ∨ 0x800 ≤ ev.addr) :
    Quiet s (s.event ev a c hs) := by
  unfold State.event
  dsimp only
  split_ifs
  · exact Quiet.put _ _ _ h
  · exact (Quiet.put _ _ _ h).trans' (Quiet.fold (fun t x => Quiet.notify t c x) _ _)
  · exact Quiet.put _ _ _ h

theorem Quiet.bump (s : State) (f : Fld) (h : f.addr < 0x720 ∨ 0x800 ≤ f.addr) : Quiet s (s.bump f) := by
  unfold State.bump
  exact Quiet.ite (Quiet.put _ _ _ h) (Quiet.rfl' _)

/-- A state that differs in parts that Quiet does not name. -/
theorem Quiet.of {s t : State} (h1 : t.flights = s.flights) (h2 : t.pwr = s.pwr) (h3 : t.regs = s.regs) (h4 : t.hosts = s.hosts)
    (h5 : t.out = s.out) : Quiet s t :=
  ⟨h1, h2, fun a _ _ => reg_congr h3 a, fun h => by unfold State.host; rw [h4], fun h => by unfold State.host; rw [h4], fun o h => by rw [h5]; exact h⟩

/-- A descriptor that reads no host memory and whose effect is quiet. -/
theorem local_quiet {s : State} {h : PHost} {j q : Ring} {op : Opcode} {d : Desc} (ha : s.Accepts h j q op d) (hr : readsHost op = false)
    (ups : List Upset) (p : PadTraffic) (hs : Staged op p) (b u : State) (c : Compl) (hb : b = s.begun h j (newFlight h j op d) ups p)
    (hq : Quiet b u) (hu : b.advance 0 = u.fixFlight 0 c) :
    ∃ t, s.descArrive h j op d {} ups p = t ∧ s.Completes t h j q d c ∧ (∀ o, o ∈ u.out → o ∈ t.out) ∧ t.rest = u.rest ∧
      ∀ a, notRing a → t.reg a = u.reg a := by
  obtain ⟨a1, a2, a3, a4, a5, a6⟩ := begun_facts s h j (newFlight h j op d) ups p
  rw [← hb] at a1 a2 a3 a4 a5 a6
  exact local_done ha hr ups p hs u c _ (hq.flights.trans a6) ⟨rfl, rfl, rfl, rfl⟩ (by rw [← hb]; exact hu)
    (fun a h1 h2 h3 => (hq.regs a h1 h2).trans (a1 a h3 (by omega))) (hq.pwr.trans a2) ⟨(hq.up h).trans a3, (hq.flow h).trans a4⟩

/-- The same for a descriptor that reads host memory and has all of its data at once. -/
theorem host_quiet {s : State} {h : PHost} {j q : Ring} {op : Opcode} {d : Desc} (ha : s.Accepts h j q op d) (hr : readsHost op = true)
    (data : HostData) (hd : s.Delivers (newFlight h j op d) data) (hn : 0 < Desc.n d) (ups : List Upset) (p : PadTraffic) (hs : Staged op p) (b u : State) (c : Compl)
    (hb : b = s.asked h j (newFlight h j op d) ((askedFlight h j op d).receive data) ups p) (f : Flight) (hf : u.flights = [f])
    (hg : f.host = h ∧ f.sq = j ∧ f.op = op ∧ f.d = d) (hq : Quiet b { u with flights := b.flights }) (hu : b.advance 0 = u.fixFlight 0 c) :
    ∃ t, s.descArrive h j op d data ups p = t ∧ s.Completes t h j q d c ∧ (∀ o, o ∈ u.out → o ∈ t.out) ∧ t.rest = u.rest ∧
      ∀ a, notRing a → t.reg a = u.reg a := by
  obtain ⟨a1, a2, a3, a4, a5, a6⟩ := asked_facts s h j (newFlight h j op d) ((askedFlight h j op d).receive data) ups p
  rw [← hb] at a1 a2 a3 a4 a5 a6
  exact host_done ha hr data hd hn ups p hs u c f hf hg (by rw [← hb]; exact hu)
    (fun a h1 h2 h3 => (hq.regs a h1 h2).trans (a1 a h3 (by omega))) (hq.pwr.trans a2) ⟨(hq.up h).trans a3, (hq.flow h).trans a4⟩

theorem begun_quiet (s : State) (h : PHost) (j : Ring) (f : Flight) (ups : List Upset) (p : PadTraffic) (a : Nat) (ha : notRing a) :
    (s.begun h j f ups p).reg a = s.reg a := (begun_facts s h j f ups p).1 a (ha.1 h j).1 ha.2

/-! The clock -/

theorem Quiet.clearHold (s : State) : Quiet s s.clearHold := by
  unfold State.clearHold
  exact Quiet.ite (Quiet.rfl' _) (Quiet.put _ _ _ (.inl (by decide)))

theorem Quiet.alarmCompute (s : State) (k : Nat) (hk : k < 2) : Quiet s (s.alarmCompute k) :=
  (Quiet.put s (Reg.RTC_ALM_0_BUSY k) 1 (.inl (by simp only [Reg.RTC_ALM_0_BUSY]; omega))).trans' (Quiet.of rfl rfl rfl rfl rfl)

theorem Quiet.rtcEvent (s : State) (ev : Fld) (h : ev.addr < 0x720) : Quiet s (s.rtcEvent ev) := Quiet.event _ _ _ _ _ (.inl h)

theorem Quiet.alarmFire (s : State) (k : Nat) (hk : k < 2) (b : Bool) : Quiet s (s.alarmFire k b) := by
  unfold State.alarmFire
  dsimp only
  have e1 : (almEvent k).addr < 0x720 := by unfold almEvent; split <;> decide
  have e2 : (skipEvent k).addr < 0x720 := by unfold skipEvent; split <;> decide
  have h1 := Quiet.rtcEvent s _ e1
  have h2 : Quiet s (if b = true then (s.rtcEvent (almEvent k)).rtcEvent (skipEvent k) else s.rtcEvent (almEvent k)) :=
    Quiet.ite (h1.trans' (Quiet.rtcEvent _ _ e2)) h1
  exact (h2.trans' (Quiet.ite (Quiet.clearHold _) (Quiet.rfl' _))).trans' (Quiet.alarmCompute _ k hk)

theorem Quiet.alarmSet (s : State) (k : Nat) (hk : k < 2) : Quiet s (s.alarmSet k) := by
  unfold State.alarmSet
  split
  · exact Quiet.ite (Quiet.alarmFire _ k hk _) (Quiet.alarmCompute _ k hk)
  · exact Quiet.alarmCompute _ k hk

/-- What a time set leaves of the clock and of OSF, in any field p that alarms do not touch. -/
theorem alarmSet_keeps {β : Type} (p : State → β) (h1 : ∀ (t : State) ev, ev.addr = 0x21C → p (t.rtcEvent ev) = p t)
    (h2 : ∀ (t : State) v, p (t.put Reg.SUP_PWR_HOLD v) = p t) (h3 : ∀ (t : State) k, k < 2 → p (t.alarmCompute k) = p t) (s : State) (k : Nat)
    (hk : k < 2) : p (s.alarmSet k) = p s := by
  have ch : ∀ t : State, p t.clearHold = p t := by
    intro t
    unfold State.clearHold
    split
    · rfl
    · exact h2 _ _
  have f : ∀ b, p (s.alarmFire k b) = p s := by
    intro b
    unfold State.alarmFire
    dsimp only
    have e1 : (almEvent k).addr = 0x21C := by unfold almEvent; split <;> rfl
    have e2 : (skipEvent k).addr = 0x21C := by unfold skipEvent; split <;> rfl
    have ite' : ∀ (c : Bool) (t u : State), p t = p s → p u = p s → p (if c = true then t else u) = p s := by
      intro c t u ht hu
      cases c
      · exact hu
      · exact ht
    have g1 : p (if b = true then (s.rtcEvent (almEvent k)).rtcEvent (skipEvent k) else s.rtcEvent (almEvent k)) = p s :=
      ite' _ _ _ ((h1 _ _ e2).trans (h1 _ _ e1)) (h1 _ _ e1)
    exact (h3 _ k hk).trans (ite' _ _ _ ((ch _).trans g1) g1)
  unfold State.alarmSet
  split
  · split
    · exact f _
    · exact h3 _ _ hk
  · exact h3 _ _ hk

theorem event_rtc (s : State) (ev : Fld) (a : Nat) (c : IClass) (hs : List PHost) : (s.event ev a c hs).rtc = s.rtc := by
  have hn : ∀ (u : State) (g : PHost), (u.notify c g).rtc = u.rtc := by
    intro u g
    unfold State.notify State.msix
    dsimp only
    split_ifs <;> rfl
  unfold State.event
  dsimp only
  split_ifs
  · rfl
  · exact (foldl_keeps (fun s => s.rtc) (f := fun t h => State.notify t c h) hn _ _).trans rfl
  · rfl

/-- A time set: the fields, the trim, OSF and its causes (R325, R327, R329). -/
theorem timeSet_facts (s : State) (c : Calendar) :
    Quiet s (s.timeSet c) ∧ (s.timeSet c).rtc.now = c ∧ (s.timeSet c).rtc.trim = signed 10 (s.get Reg.RTC_CTL_TRIM) ∧
    (s.pwr.xtal = true → s.pwr.clockHeld = false → ∀ f, f = Reg.RTC_STATUS_OSF ∨ f = Reg.RTC_STATUS_ATTACH ∨ f = Reg.RTC_STATUS_STOP ∨
      f = Reg.RTC_STATUS_LOWBAT ∨ f = Reg.RTC_STATUS_ROLL → (s.timeSet c).get f = 0) := by
  have hz : (0 : Nat) < 2 := by decide
  have ho : (1 : Nat) < 2 := by decide
  have hq0 : Quiet s { s with rtc := { s.rtc with now := c, trim := signed 10 (s.get Reg.RTC_CTL_TRIM) } } := Quiet.of rfl rfl rfl rfl rfl
  have kn : ∀ k, k < 2 → ∀ t : State, (t.alarmSet k).rtc.now = t.rtc.now := fun k hk t =>
    alarmSet_keeps (fun t => t.rtc.now) (fun t ev _ => congrArg Clock.now (event_rtc t ev _ _ _)) (fun _ _ => rfl) (fun _ _ _ => rfl) t k hk
  have kt : ∀ k, k < 2 → ∀ t : State, (t.alarmSet k).rtc.trim = t.rtc.trim := fun k hk t =>
    alarmSet_keeps (fun t => t.rtc.trim) (fun t ev _ => congrArg Clock.trim (event_rtc t ev _ _ _)) (fun _ _ => rfl) (fun _ _ _ => rfl) t k hk
  have kr : ∀ k, k < 2 → ∀ (t : State) (f : Fld), f.addr = 0x20D ∨ f.addr = 0x20E → (t.alarmSet k).get f = t.get f := fun k hk t f hf =>
    alarmSet_keeps (fun t => t.get f) (fun t ev h => event_get_ne _ _ _ _ _ _ (by omega)) (fun t _ => State.get_put_ne _ _ (by
      have : Reg.SUP_PWR_HOLD.addr = 0x12B := rfl
      omega)) (fun t k hk => State.get_put_ne _ _ (by simp only [Reg.RTC_ALM_0_BUSY]; omega)) t k hk
  unfold State.timeSet
  dsimp only
  refine ⟨(hq0.trans' (Quiet.ite ?_ (Quiet.rfl' _))).trans' ((Quiet.alarmSet _ 0 hz).trans' (Quiet.alarmSet _ 1 ho)), ?_, ?_, ?_⟩
  · exact (((((Quiet.put _ _ _ (.inl (by decide))).trans' (Quiet.put _ _ _ (.inl (by decide)))).trans' (Quiet.put _ _ _ (.inl (by decide)))).trans'
      (Quiet.put _ _ _ (.inl (by decide)))).trans' (Quiet.put _ _ _ (.inl (by decide))))
  · rw [kn 1 ho, kn 0 hz]
    split <;> rfl
  · rw [kt 1 ho, kt 0 hz]
    split <;> rfl
  · intro h1 h2 f hf
    have ha : f.addr = 0x20D ∨ f.addr = 0x20E := by
      rcases hf with h | h | h | h | h <;> subst h <;> decide
    rw [kr 1 ho _ f ha, kr 0 hz _ f ha, if_pos (by simp [h1, h2])]
    unfold State.putAll
    simp only [List.foldl_cons, List.foldl_nil]
    rcases hf with h | h | h | h | h <;> subst h
    · rw [State.get_put_apart _ _ (by decide) (by decide), State.get_put_apart _ _ (by decide) (by decide),
        State.get_put_apart _ _ (by decide) (by decide), State.get_put_apart _ _ (by decide) (by decide)]
      exact State.get_put_same _ _ _ (by decide) (by decide)
    · rw [State.get_put_apart _ _ (by decide) (by decide), State.get_put_apart _ _ (by decide) (by decide),
        State.get_put_apart _ _ (by decide) (by decide)]
      exact State.get_put_same _ _ _ (by decide) (by decide)
    · rw [State.get_put_apart _ _ (by decide) (by decide), State.get_put_apart _ _ (by decide) (by decide)]
      exact State.get_put_same _ _ _ (by decide) (by decide)
    · rw [State.get_put_apart _ _ (by decide) (by decide)]
      exact State.get_put_same _ _ _ (by decide) (by decide)
    · exact State.get_put_same _ _ _ (by decide) (by decide)

theorem begun_nil (s : State) (h : PHost) (j : Ring) (f : Flight) (p : PadTraffic := {}) :
    s.begun h j f [] p = { (s.advanceHead h j).padWrites p with flights := [f] } := by
  unfold State.begun
  rw [flightUpsets_nil]

theorem slots_ne {ws : List Word} (h : ws ≠ []) : wordSlots ws ≠ [] := by
  cases ws with
  | nil => exact absurd rfl h
  | cons w ws => simp [wordSlots, leBytes]

/-- A register that is no ring's status. -/
theorem begun_get (s : State) (h : PHost) (j : Ring) (f : Flight) (ups : List Upset) (p : PadTraffic) (g : Fld)
    (hg : g.addr ≠ (Reg.HOST_SQ_STAT h.val j.val).addr) (hy : g.addr ≠ 0xD04) : (s.begun h j f ups p).get g = s.get g := by
  unfold State.get
  rw [(begun_facts s h j f ups p).1 _ hg hy]

theorem low_ne (h : PHost) (j : Ring) (a : Nat) (ha : a < 0x720 ∨ 0x800 ≤ a) : a ≠ (Reg.HOST_SQ_STAT h.val j.val).addr := by
  have hj := j.isLt
  have hh := h.isLt
  simp only [Reg.HOST_SQ_STAT]
  omega

theorem low_notRing (a : Nat) (ha : a < 0x720 ∨ 0x800 ≤ a) (hy : a ≠ 0xD04) : notRing a := by
  refine ⟨fun h j => ?_, hy⟩
  have hj := j.isLt
  have hh := h.isLt
  simp only [Reg.HOST_SQ_STAT, Reg.HOST_CQ_STAT]
  omega

/-- Where a region's cells lie depends on registers below 0x720 and on region 63's place. -/
theorem target_congr (s t : State) (h : ∀ a, a < 0x720 → t.reg a = s.reg a) (r : Nat) (hr : r < 64) : t.target r = s.target r := by
  have hg : ∀ f : Fld, f.addr < 0x720 → t.get f = s.get f := by
    intro f hf
    unfold State.get
    rw [h _ hf]
  have key : ∀ n r, r < 64 → t.follow n r = s.follow n r := by
    intro n
    induction n with
    | zero => exact fun _ _ => rfl
    | succ n ih =>
      intro r hr
      have e1 : t.rstate r = s.rstate r := hg _ (by simp only [Reg.PART_REGION_STATE]; omega)
      have e2 : t.forwardEntry r = s.forwardEntry r := by
        unfold State.forwardEntry
        have : ∀ n, n < 8 → (t.get (Reg.ARR_MOVE_PHASE n) = 2 ∧ t.get (Reg.ARR_MOVE_SRC n) = r ↔
            s.get (Reg.ARR_MOVE_PHASE n) = 2 ∧ s.get (Reg.ARR_MOVE_SRC n) = r) := by
          intro n hn
          rw [hg _ (by simp only [Reg.ARR_MOVE_PHASE]; omega), hg _ (by simp only [Reg.ARR_MOVE_SRC]; omega)]
        simp only [List.range_succ, List.range_zero, List.nil_append, List.cons_append, List.find?_cons, List.find?_nil,
          this 0 (by decide), this 1 (by decide), this 2 (by decide), this 3 (by decide), this 4 (by decide), this 5 (by decide),
          this 6 (by decide), this 7 (by decide)]
      unfold State.follow
      rw [e1, e2]
      split
      · split
        · next m hm =>
          have hm8 : m < 8 := by
            unfold State.forwardEntry at hm
            exact List.mem_range.mp (List.mem_of_find?_eq_some hm)
          rw [hg _ (by simp only [Reg.ARR_MOVE_DST]; omega)]
          refine ih _ ?_
          have e : s.get (Reg.ARR_MOVE_DST m) = bits (s.reg (Reg.ARR_MOVE_DST m).addr).toNat 11 6 := rfl
          rw [e]
          unfold bits
          exact Nat.mod_lt _ (by decide)
        · rfl
      · rfl
  exact key 8 r hr

/-- The records of the ledger lie in region 63. -/
theorem record_congr (s t : State) (h1 : t.arr = s.arr) (h2 : t.phys63 = s.phys63) (i : Nat) (hi : i < 1048576) : t.record i = s.record i := by
  unfold State.record State.w18s
  congr 1
  apply List.map_congr_left
  intro k hk
  have hk := List.mem_range.mp hk
  unfold State.w18 State.cwImage
  have e : cwRegion ((recAddr i + k) / 4) = 63 := by
    unfold cwRegion recAddr
    omega
  have e1 : t.physOf 63 = t.phys63 := rfl
  have e2 : s.physOf 63 = s.phys63 := rfl
  rw [e, e1, e2, h2]
  unfold State.image
  rw [h1]

theorem recIndices_lt (s : State) (i : Nat) (hi : i ∈ s.recIndices) : i < 1048576 := by
  unfold State.recIndices at hi
  rw [List.mem_dedup] at hi
  obtain ⟨e, he, rfl⟩ := List.mem_map.mp hi
  have := of_decide_eq_true (List.mem_filter.mp he).2
  omega

theorem holders_mem (s : State) (sheet i : Nat) (hi : i ∈ s.holders sheet) : i ∈ s.recIndices := (List.mem_filter.mp hi).1

theorem newest_mem (s : State) (sheet i : Nat) (hi : s.newest sheet = some i) : i ∈ s.holders sheet := by
  unfold State.newest at hi
  have key : ∀ (xs : List Nat) (b : Option Nat), (xs.foldl (fun best i => match best with
      | none => some i
      | some b => if s.ledAge i < s.ledAge b then some i else some b) b) = some i → i ∈ xs ∨ b = some i := by
    intro xs
    induction xs with
    | nil => exact fun b h => .inr h
    | cons x xs ih =>
      intro b h
      rw [List.foldl_cons] at h
      rcases ih _ h with h1 | h1
      · exact .inl (List.mem_cons_of_mem _ h1)
      · split at h1
        · cases h1
          exact .inl List.mem_cons_self
        · split at h1
          · cases h1
            exact .inl List.mem_cons_self
          · exact .inr h1
  rcases key _ _ hi with h | h
  · exact h
  · cases h

theorem recIndices_congr (s t : State) (h1 : t.arr = s.arr) (h2 : t.phys63 = s.phys63) : t.recIndices = s.recIndices := by
  unfold State.recIndices State.image
  rw [h1, h2]

theorem holders_congr (s t : State) (h1 : t.arr = s.arr) (h2 : t.phys63 = s.phys63) (sheet : Nat) : t.holders sheet = s.holders sheet := by
  unfold State.holders
  rw [recIndices_congr s t h1 h2]
  apply List.filter_congr
  intro i hi
  rw [record_congr s t h1 h2 i (recIndices_lt s i hi)]

theorem newest_congr (s t : State) (h1 : t.arr = s.arr) (h2 : t.phys63 = s.phys63) (h3 : ∀ a, a < 0x720 ∨ 0x800 ≤ a → t.reg a = s.reg a) (sheet : Nat) :
    t.newest sheet = s.newest sheet := by
  have ha : t.ledAge = s.ledAge := by
    funext i
    unfold State.ledAge State.ledNext State.get
    rw [h3 Reg.LED_NEXT_LO.addr (by decide), h3 Reg.LED_NEXT_HI_NEXT_HI.addr (by decide)]
  unfold State.newest
  rw [holders_congr s t h1 h2, ha]

/-- The record a LEDGER_QUERY names lies in the ledger. -/
theorem query_lt {s : State} {h : PHost} {d : Desc} (b : State) (hd : s.descCheck h .ledgerQuery d = none) (r : Nat)
    (hr : (if bit d.p0.toNat 0 then some (Desc.a d) else b.newest d.sheet) = some r) : r < 1048576 := by
  split at hr
  · next hb =>
    cases hr
    unfold State.descCheck at hd
    rw [if_neg (by decide)] at hd
    split at hd
    · exact absurd hd (by simp)
    · next hs =>
      have hl : s.limitsOk .ledgerQuery d = true := by
        by_contra hc
        exact hs (by simp [hc])
      unfold State.limitsOk at hl
      dsimp only at hl
      rw [if_pos hb] at hl
      simp only [Bool.and_eq_true, decide_eq_true_eq] at hl
      exact hl.1.2
  · exact recIndices_lt b r (holders_mem b _ _ (newest_mem b _ _ hr))

/-- The slots a Keep descriptor reads or writes. -/
theorem accepts_keep {s : State} {h : PHost} {op : Opcode} {d : Desc} (hd : s.descCheck h op d = none)
    (ho : op = .keepRead ∨ op = .keepWrite ∨ op = .recordPut ∨ op = .recordGet) : 4 ≤ Desc.n d ∧ Desc.n d % 4 = 0 := by
  unfold State.descCheck at hd
  rw [if_neg (by rcases ho with h | h | h | h <;> rw [h] <;> decide)] at hd
  split at hd
  · exact absurd hd (by simp)
  · next hs =>
    have hl : s.limitsOk op d = true := by
      by_contra hc
      exact hs (by simp [hc])
    have hb : ∃ m, Desc.slots4 d m = true := by
      rcases ho with h | h | h | h <;> subst h <;> unfold State.limitsOk at hl <;> dsimp only at hl <;> simp only [Bool.and_eq_true] at hl <;>
        exact ⟨_, hl.1⟩
    obtain ⟨m, hb⟩ := hb
    unfold Desc.slots4 at hb
    have := of_decide_eq_true hb
    omega

end Sys2Proof.Machine
end

