-- ==== Sys2Proof/Laws/Outcomes.lean ====
section
/-! SUPPORT. Laws of what operations over the ledger, the Keep, tables, moves and spares do, and of the descriptors and commands that
run them. -/

set_option Elab.async false

namespace Sys2Proof.Machine
open Sys2Proof

/-! The ledger -/

theorem Quiet.setCwImage (s : State) (cw : Nat) (m : Image) : Quiet s (s.setCwImage cw m) := Quiet.of rfl rfl rfl rfl rfl

theorem Yields.quiet {s t : State} (h : Yields s t) : Quiet s t :=
  ⟨h.field State.flights (by intros; rfl), h.field State.pwr (by intros; rfl), fun a _ _ => h.2 a (by omega),
    fun g => h.field (fun t => (t.host g).up) (by intros; rfl), fun g => h.field (fun t => (t.host g).flow) (by intros; rfl),
    fun o ho => by rw [h.field State.out (by intros; rfl)]; exact ho⟩

theorem Quiet.setW18 (s : State) (w : Nat) (v : Word) : Quiet s (s.setW18 w v) :=
  (access_yields s (s.cwOwner (w / 4)) (w / 4)).quiet.trans' (Quiet.setCwImage _ _ _)

theorem Quiet.putW18s (vs : List Word) : ∀ (s : State) (w : Nat), Quiet s (s.putW18s w vs) := by
  induction vs with
  | nil => exact fun s _ => Quiet.rfl' s
  | cons v vs ih => exact fun s w => (Quiet.setW18 s w v).trans' (ih (s.setW18 w v) (w + 1))

theorem Quiet.setW18s (vs : List Word) (s : State) (w : Nat) : Quiet s (s.setW18s w vs) :=
  (Quiet.putW18s vs s w).trans' (Quiet.fold (fun t _ => Quiet.setCwImage t _ _) _ _)

theorem Quiet.setRecord (s : State) (i : Nat) (r : Rec) : Quiet s (s.setRecord i r) := Quiet.setW18s _ _ _

theorem Quiet.ledEvent (s : State) (ev : Fld) (h : 0x800 ≤ ev.addr) : Quiet s (s.ledEvent ev) := Quiet.event _ _ _ _ _ (.inr h)

theorem Quiet.countOne (s : State) (i : Nat) (c : Bool) : Quiet s (s.countOne i c) := by
  unfold State.countOne
  refine Quiet.ite (Quiet.of rfl rfl rfl rfl rfl) (Quiet.ite (Quiet.ledEvent _ _ (by decide)) ?_)
  dsimp only
  have h1 : Quiet s (s.setCounter i (s.counter i + 1)) := Quiet.of rfl rfl rfl rfl rfl
  have h2 := Quiet.ite (c := (s.setCounter i (s.counter i + 1)).counter i = counterMax) (h1.trans' (Quiet.ledEvent _ Reg.LED_EVENT_SAT (by decide))) h1
  have h3 := fun (x : Ledger) => h2.trans' (Quiet.of (t := { (if (s.setCounter i (s.counter i + 1)).counter i = counterMax then
    (s.setCounter i (s.counter i + 1)).ledEvent Reg.LED_EVENT_SAT else s.setCounter i (s.counter i + 1)) with led := x }) rfl rfl rfl rfl rfl)
  exact Quiet.ite ((h3 _).trans' (Quiet.put _ _ _ (.inr (by decide)))) (h3 _)

theorem Quiet.count (s : State) (xs : List Nat) (c : Bool) : Quiet s (s.count xs c) :=
  Quiet.fold (fun t i => Quiet.ite (Quiet.countOne t i c) (Quiet.rfl' t)) _ _

theorem Quiet.unqueue (s : State) (i : Nat) : Quiet s (s.unqueue i) :=
  Quiet.fold (fun t q => Quiet.of (t := t.setQueue q ((t.queue q).filter (fun j => decide (j ≠ i)))) rfl rfl rfl rfl rfl) _ _

theorem Quiet.requeue (s : State) (i p : Nat) : Quiet s (s.requeue i p) := by
  unfold State.requeue
  dsimp only
  have h : Quiet s ((List.range (p - 3)).foldl (fun t q => t.setQueue q ((t.queue q).filter (fun j => decide (j ≠ i)))) s) :=
    Quiet.fold (fun t q => Quiet.of (t := t.setQueue q ((t.queue q).filter (fun j => decide (j ≠ i)))) rfl rfl rfl rfl rfl) _ _
  split
  · exact h.trans' (Quiet.ite (Quiet.rfl' _) (Quiet.of rfl rfl rfl rfl rfl))
  · exact h

theorem Quiet.rasterComplete (s : State) (i t : Nat) : Quiet s (s.rasterComplete i t) := by
  unfold State.rasterComplete
  exact Quiet.ite (Quiet.setRecord _ _ _) (Quiet.rfl' _)

theorem Quiet.stampProgress (s : State) (i p t : Nat) : Quiet s (s.stampProgress i p t) := by
  unfold State.stampProgress
  dsimp only
  have h := (Quiet.setRecord s i { (s.record i).setProgress p with time := t }).trans' (Quiet.requeue _ i p)
  exact Quiet.ite (h.trans' (Quiet.count _ _ _)) (Quiet.ite (h.trans' (Quiet.count _ _ _)) h)

theorem Quiet.stampImaged (s : State) (i m t : Nat) : Quiet s (s.stampImaged i m t) := by
  unfold State.stampImaged
  dsimp only
  exact Quiet.ite ((Quiet.setRecord s i _).trans' (Quiet.requeue _ i 3))
    ((Quiet.setRecord s i _).trans' (Quiet.rasterComplete _ _ _))

theorem Quiet.stampSpoil (s : State) (i c t : Nat) : Quiet s (s.stampSpoil i c t) := by
  unfold State.stampSpoil
  dsimp only
  exact Quiet.ite ((Quiet.setRecord s i _).trans' (Quiet.count _ _ _)) (Quiet.rfl' _)

theorem Quiet.stampVoid (s : State) (i t : Nat) : Quiet s (s.stampVoid i t) := by
  unfold State.stampVoid
  dsimp only
  exact ((Quiet.setRecord s i _).trans' (Quiet.unqueue _ i)).trans' (Quiet.count _ _ _)

/-- Every stamp of Table 10-3 keeps the rings, the links and the descriptors in progress. -/
theorem Quiet.stageStamp (s : State) (r code mask : Nat) (t : State) (h : s.stageStamp r code mask = some t) : Quiet s t := by
  unfold State.stageStamp at h
  dsimp only at h
  split at h
  · split at h
    · cases h
      exact Quiet.stampImaged _ _ _ _
    · cases h
  · split at h
    · split at h
      · cases h
        exact Quiet.stampSpoil _ _ _ _
      · cases h
    · split at h
      · split at h
        · cases h
          exact Quiet.stampVoid _ _ _
        · cases h
      · split at h
        · cases h
          exact Quiet.stampProgress _ _ _ _
        · cases h

/-- The word at a word18 address, whatever its codeword's check bits. -/
def State.raw18 (s : State) (x : Nat) : Word := (s.cwImage (x / 4)).word (4 * cwIndex (x / 4) + x % 4)

/-- Word18 words of one region, read back as they were written. -/
theorem raw18_setW18 (s : State) (w x : Nat) (v : Word) (hr : x / 2 ^ 24 = w / 2 ^ 24) :
    (s.setW18 w v).raw18 x = if x = w then v else s.raw18 x := by
  have hc : cwRegion (x / 4) = cwRegion (w / 4) := by
    unfold cwRegion
    omega
  have hy := (SameCells.rfl' s).yields (access_yields s (s.cwOwner (w / 4)) (w / 4))
  unfold State.raw18 State.setW18
  dsimp only
  rw [cwImage_setCwImage, if_pos (by rw [hc]), hy.cwImage]
  have hi : (s.cwImage (x / 4)) = s.cwImage (w / 4) := by
    unfold State.cwImage
    rw [hc]
  by_cases hx : x = w
  · subst hx
    rw [if_pos rfl, Image.word_setWord_same]
  · rw [if_neg hx, Image.word_setWord_ne, hi]
    unfold cwRegion at hc
    unfold cwIndex
    omega

theorem raw18_putW18s (vs : List Word) : ∀ (s : State) (w x : Nat), (∀ k, k < vs.length → (w + k) / 2 ^ 24 = x / 2 ^ 24) →
    (s.putW18s w vs).raw18 x = if w ≤ x ∧ x < w + vs.length then vs.getD (x - w) 0#18 else s.raw18 x := by
  induction vs with
  | nil =>
    intro s w x _
    rw [if_neg (by simp only [List.length_nil]; omega)]
    rfl
  | cons v vs ih =>
    intro s w x hr
    have h0 := hr 0 (Nat.succ_pos _)
    have e := ih (s.setW18 w v) (w + 1) x (fun k hk => by
      have := hr (k + 1) (by simp only [List.length_cons]; omega)
      rw [← this]
      congr 1
      omega)
    show ((s.setW18 w v).putW18s (w + 1) vs).raw18 x = _
    rw [e, raw18_setW18 s w x v (by simpa using h0.symm)]
    simp only [List.length_cons]
    by_cases h1 : x = w
    · subst h1
      rw [if_neg (by omega), if_pos rfl, if_pos (by omega), Nat.sub_self]
      rfl
    · by_cases h2 : w + 1 ≤ x ∧ x < w + 1 + vs.length
      · rw [if_pos h2, if_pos (by omega), show x - w = (x - (w + 1)) + 1 by omega]
        rfl
      · rw [if_neg h2, if_neg h1, if_neg (by omega)]

/-- Check bits made valid leave the words as they are. -/
theorem raw18_setEcc (s : State) (cw x : Nat) : (s.setCwImage cw ((s.cwImage cw).setEcc (cwIndex cw) 0)).raw18 x = s.raw18 x := by
  unfold State.raw18
  rw [cwImage_setCwImage]
  split
  · next h =>
    rw [Image.word_setEcc]
    unfold State.cwImage
    rw [h]
  · rfl

theorem raw18_soundCws (s : State) (w n x : Nat) : (s.soundCws w n).raw18 x = s.raw18 x :=
  foldl_keeps (fun t : State => t.raw18 x) (fun t i => raw18_setEcc t ((w + 3) / 4 + i) x) _ _

/-- The check bits of a codeword that words cover whole are valid (R83). -/
theorem ecc_soundCws (s : State) (w n cv : Nat) (h1 : (w + 3) / 4 ≤ cv) (h2 : cv < (w + n) / 4) :
    ((s.soundCws w n).cwImage cv).eccOf (cwIndex cv) = 0 := by
  have set : ∀ (t : State) (cw : Nat), ((t.cwImage cv).eccOf (cwIndex cv) = 0 ∨ cw = cv) →
      ((t.setCwImage cw ((t.cwImage cw).setEcc (cwIndex cw) 0)).cwImage cv).eccOf (cwIndex cv) = 0 := by
    intro t cw ht
    rw [cwImage_setCwImage]
    split
    · next hp =>
      by_cases e : cwIndex cv = cwIndex cw
      · rw [e]
        exact Image.eccOf_setEcc_same _ _ _
      · rw [Image.eccOf_setEcc_ne _ _ e]
        rcases ht with ht | ht
        · unfold State.cwImage at ht ⊢
          rw [← hp]
          exact ht
        · exact absurd (by rw [ht]) e
    · next hp =>
      rcases ht with ht | ht
      · exact ht
      · exact absurd (by rw [ht]) hp
  unfold State.soundCws
  refine foldl_once (fun _ => True) (fun t => (t.cwImage cv).eccOf (cwIndex cv) = 0) (fun (t : State) i =>
    t.setCwImage ((w + 3) / 4 + i) ((t.cwImage ((w + 3) / 4 + i)).setEcc (cwIndex ((w + 3) / 4 + i)) 0)) (cv - (w + 3) / 4) (fun _ _ _ h => h)
    (fun t _ => set t _ (.inr (by omega))) (fun t x ht => set t _ (.inl ht)) _ (List.mem_range.mpr (by omega)) s trivial

/-- A record, read back word for word as it was written. -/
theorem setRecord_words (s : State) (i : Nat) (r : Rec) (hi : i < 1048576) : (s.setRecord i r).w18s (recAddr i) 8 = r.words := by
  have hl : r.words.length = 8 := rfl
  have hk : ∀ k, k < 8 → (s.setRecord i r).w18 (recAddr i + k) = r.words.getD k 0#18 := by
    intro k hk
    have hd : ∀ m, m < 8 → (recAddr i + m) / 2 ^ 24 = 63 := by
      intro m hm
      unfold recAddr
      omega
    have e := raw18_putW18s r.words s (recAddr i) (recAddr i + k) (fun m hm => (hd m (by omega)).trans (hd k hk).symm)
    rw [if_pos (by omega)] at e
    rw [show recAddr i + k - recAddr i = k by omega] at e
    unfold State.w18
    dsimp only
    rw [if_neg]
    · exact (raw18_soundCws _ _ _ _).trans e
    · have e0 := ecc_soundCws (s.putW18s (recAddr i) r.words) (recAddr i) r.words.length ((recAddr i + k) / 4) (by unfold recAddr; omega) (by unfold recAddr; omega)
      unfold State.setRecord State.setW18s
      rw [e0]
      decide
  unfold State.w18s
  simp only [List.range_succ, List.range_zero, List.nil_append, List.cons_append, List.map_cons, List.map_nil, hk 0 (by decide), hk 1 (by decide),
    hk 2 (by decide), hk 3 (by decide), hk 4 (by decide), hk 5 (by decide), hk 6 (by decide), hk 7 (by decide)]
  rfl

theorem rest_arr {s t : State} (h : t.rest = s.rest) : t.arr = s.arr := congrArg (fun r => r.1) h
theorem rest_stns {s t : State} (h : t.rest = s.rest) : t.stns = s.stns := congrArg (fun r => r.2.2.1) h
theorem rest_keep {s t : State} (h : t.rest = s.rest) : t.keep = s.keep := congrArg (fun r => r.2.2.2.1) h
theorem rest_led {s t : State} (h : t.rest = s.rest) : t.led = s.led := congrArg (fun r => r.2.2.2.2.1) h
theorem rest_rtc {s t : State} (h : t.rest = s.rest) : t.rtc = s.rtc := congrArg (fun r => r.2.2.2.2.2.1) h
theorem rest_store {s t : State} (h : t.rest = s.rest) : t.store = s.store := congrArg (fun r => r.2.2.2.2.2.2.2.2.1) h
theorem rest_phys63 {s t : State} (h : t.rest = s.rest) : t.phys63 = s.phys63 := congrArg (fun r => r.2.2.2.2.2.2.2.2.2) h

/-- The words of a record lie in region 63. -/
theorem recWords_congr (s t : State) (h1 : t.arr = s.arr) (h2 : t.phys63 = s.phys63) (i : Nat) (hi : i < 1048576) :
    t.w18s (recAddr i) 8 = s.w18s (recAddr i) 8 := by
  unfold State.w18s
  apply List.map_congr_left
  intro k hk
  have hk := List.mem_range.mp hk
  unfold State.w18 State.cwImage
  have e : cwRegion ((recAddr i + k) / 4) = 63 := by
    unfold cwRegion recAddr
    omega
  have e1 : t.physOf 63 = t.phys63 := rfl
  have e2 : s.physOf 63 = s.phys63 := rfl
  rw [e, e1, e2, h2]
  unfold State.image
  rw [h1]

theorem openRecords_congr (s t : State) (h1 : t.arr = s.arr) (h2 : t.phys63 = s.phys63) : t.openRecords = s.openRecords := by
  unfold State.openRecords
  rw [recIndices_congr s t h1 h2]
  apply List.filter_congr
  intro i hi
  rw [record_congr s t h1 h2 i (recIndices_lt s i hi)]

theorem openHolder_congr (s t : State) (h1 : t.arr = s.arr) (h2 : t.phys63 = s.phys63) (sheet : Nat) : t.openHolder sheet = s.openHolder sheet := by
  unfold State.openHolder
  rw [holders_congr s t h1 h2]
  exact find_congr _ (fun i hi => by rw [record_congr s t h1 h2 i (recIndices_lt s i (holders_mem s _ _ hi))])

theorem freeIndex_congr (s t : State) (h1 : t.arr = s.arr) (h2 : t.phys63 = s.phys63) (n : Nat) : ∀ i, i < 1048576 →
    t.freeIndex n i = s.freeIndex n i := by
  induction n with
  | zero => intros; rfl
  | succ n ih =>
    intro i hi
    unfold State.freeIndex
    rw [record_congr s t h1 h2 i hi, ih ((i + 1) % 2 ^ 20) (Nat.mod_lt _ (by decide))]

theorem freeIndex_lt (s : State) (n : Nat) : ∀ i r, i < 1048576 → s.freeIndex n i = some r → r < 1048576 := by
  induction n with
  | zero => intro i r _ h; cases h
  | succ n ih =>
    intro i r hi h
    unfold State.freeIndex at h
    split at h
    · exact ih _ _ (Nat.mod_lt _ (by decide)) h
    · cases h
      exact hi

theorem get_lt (s : State) (f : Fld) : s.get f < 2 ^ (f.hi + 1 - f.lo) := Nat.mod_lt _ (Nat.two_pow_pos _)

theorem ledNext_lt (s : State) : s.ledNext < 1048576 := by
  have h1 := get_lt s Reg.LED_NEXT_LO
  have h2 := get_lt s Reg.LED_NEXT_HI_NEXT_HI
  simp only [Reg.LED_NEXT_LO, Reg.LED_NEXT_HI_NEXT_HI] at h1 h2
  unfold State.ledNext
  simp only [Reg.LED_NEXT_LO, Reg.LED_NEXT_HI_NEXT_HI]
  omega

/-- What a descriptor finds in a state it arrives in without upsets. -/
theorem begun_parts (s : State) (h : PHost) (j : Ring) (f : Flight) (p : PadTraffic := {}) : (s.begun h j f [] p).arr = s.arr ∧
    (s.begun h j f [] p).phys63 = s.phys63 ∧ (s.begun h j f [] p).ledHeld = s.ledHeld ∧ (s.begun h j f [] p).stamp = s.stamp ∧
    (s.begun h j f [] p).ledNext = s.ledNext ∧ (∀ cw, cwRegion cw = 63 → (s.begun h j f [] p).cwImage cw = s.cwImage cw) := by
  have hg : ∀ g : Fld, g.addr < 0x720 ∨ 0x800 ≤ g.addr → g.addr ≠ 0xD04 → (s.begun h j f [] p).get g = s.get g := fun g hg hy =>
    begun_get s h j f [] p g (low_ne h j _ hg) hy
  have hr := begun_rest_nil s h j f p
  refine ⟨rest_arr hr, rest_phys63 hr, ?_, ?_, ?_, fun cw hc => ?_⟩
  · unfold State.ledHeld State.waveRegions
    rw [rest_store hr, rest_pwr hr]
  · unfold State.stamp
    rw [rest_rtc hr]
  · unfold State.ledNext
    rw [hg _ (.inr (by decide)) (by decide), hg _ (.inr (by decide)) (by decide)]
  · unfold State.cwImage
    rw [hc]
    unfold State.image
    rw [show ∀ t : State, t.physOf 63 = t.phys63 from fun _ => rfl, rest_arr hr, rest_phys63 hr]
    rfl

theorem notify_arr (s : State) (c : IClass) (h : PHost) : (s.notify c h).arr = s.arr ∧ (s.notify c h).phys63 = s.phys63 := by
  unfold State.notify State.msix
  dsimp only
  split_ifs <;> exact ⟨rfl, rfl⟩

theorem event_arr (s : State) (ev : Fld) (a : Nat) (c : IClass) (hs : List PHost) : (s.event ev a c hs).arr = s.arr ∧
    (s.event ev a c hs).phys63 = s.phys63 := by
  unfold State.event
  dsimp only
  split_ifs
  · exact ⟨rfl, rfl⟩
  · exact ⟨foldl_keeps (fun s => s.arr) (f := fun t h => State.notify t c h) (fun t h => (notify_arr t c h).1) _ _,
      foldl_keeps (fun s => s.phys63) (f := fun t h => State.notify t c h) (fun t h => (notify_arr t c h).2) _ _⟩
  · exact ⟨rfl, rfl⟩

/-- A record is opened at an index: its words, NEXT and WRAP (R270). -/
def State.opened (s : State) (r : Nat) (x : Rec) : State :=
  let nx := (r + 1) % 1048576
  let s2 := ((s.setRecord r x).put Reg.LED_NEXT_LO (nx % 2 ^ 18)).put Reg.LED_NEXT_HI_NEXT_HI (nx / 2 ^ 18)
  if nx = 0 then s2.ledEvent Reg.LED_EVENT_WRAP else s2

theorem doOpen_done (b : State) (f : Flight) (r : Nat) (h0 : b.blocked 0 f = false) (h1 : b.ledHeld = false) (h2 : b.openHolder f.d.sheet = none)
    (h3 : b.openRecords.length < 65536) (h4 : b.freeIndex 1048576 b.ledNext = some r) :
    b.doOpen 0 f = ((b.meetRec r).opened r { sheet := f.d.sheet, job := bits f.d.d1.toNat 35 0, stage := 1, mask := bits f.d.p0.toNat 7 0, cause := 0, time := b.stamp }).fixFlight 0
      { status := Status.done, result := BitVec.ofNat 64 b.stamp, aux := BitVec.ofNat 32 r } := by
  unfold State.doOpen
  rw [h0, h1, h2, h4, if_neg (by decide)]
  dsimp only
  rw [if_neg (Nat.not_le.mpr h3)]
  rfl

theorem put_arr (s : State) (f : Fld) (v : Nat) : (s.put f v).arr = s.arr ∧ (s.put f v).phys63 = s.phys63 := ⟨rfl, rfl⟩

theorem opened_facts (b : State) (r : Nat) (x : Rec) (hr : r < 1048576) :
    Quiet b (b.opened r x) ∧ (b.opened r x).w18s (recAddr r) 8 = x.words ∧ (b.opened r x).ledNext = (r + 1) % 1048576 := by
  have hn : (r + 1) % 1048576 < 1048576 := Nat.mod_lt _ (by decide)
  have e0 : b.opened r x = (if (r + 1) % 1048576 = 0 then
      (((b.setRecord r x).put Reg.LED_NEXT_LO ((r + 1) % 1048576 % 2 ^ 18)).put Reg.LED_NEXT_HI_NEXT_HI ((r + 1) % 1048576 / 2 ^ 18)).ledEvent Reg.LED_EVENT_WRAP
      else ((b.setRecord r x).put Reg.LED_NEXT_LO ((r + 1) % 1048576 % 2 ^ 18)).put Reg.LED_NEXT_HI_NEXT_HI ((r + 1) % 1048576 / 2 ^ 18)) := rfl
  rw [e0]
  generalize hnx : (r + 1) % 1048576 = nx at hn
  have q0 := ((Quiet.setRecord b r x).trans' (Quiet.put _ Reg.LED_NEXT_LO (nx % 2 ^ 18) (.inr (by decide)))).trans'
    (Quiet.put _ Reg.LED_NEXT_HI_NEXT_HI (nx / 2 ^ 18) (.inr (by decide)))
  have e2 := setRecord_words b r x hr
  generalize b.setRecord r x = u at q0 e2
  have g1 : ((u.put Reg.LED_NEXT_LO (nx % 2 ^ 18)).put Reg.LED_NEXT_HI_NEXT_HI (nx / 2 ^ 18)).get Reg.LED_NEXT_LO = nx % 2 ^ 18 := by
    rw [State.get_put_ne _ _ (by decide)]
    exact State.get_put_same _ _ _ (by decide) (Nat.mod_lt _ (by decide))
  have g2 : ((u.put Reg.LED_NEXT_LO (nx % 2 ^ 18)).put Reg.LED_NEXT_HI_NEXT_HI (nx / 2 ^ 18)).get Reg.LED_NEXT_HI_NEXT_HI = nx / 2 ^ 18 :=
    State.get_put_same _ _ _ (by decide) (by show nx / 2 ^ 18 < 4; omega)
  have l1 : ∀ t : State, t.get Reg.LED_NEXT_LO = nx % 2 ^ 18 → t.get Reg.LED_NEXT_HI_NEXT_HI = nx / 2 ^ 18 → t.ledNext = nx := by
    intro t a1 a2
    unfold State.ledNext
    rw [a1, a2]
    omega
  have ha : ((u.put Reg.LED_NEXT_LO (nx % 2 ^ 18)).put Reg.LED_NEXT_HI_NEXT_HI (nx / 2 ^ 18)).arr = u.arr := rfl
  have hp : ((u.put Reg.LED_NEXT_LO (nx % 2 ^ 18)).put Reg.LED_NEXT_HI_NEXT_HI (nx / 2 ^ 18)).phys63 = u.phys63 := rfl
  generalize (u.put Reg.LED_NEXT_LO (nx % 2 ^ 18)).put Reg.LED_NEXT_HI_NEXT_HI (nx / 2 ^ 18) = v at q0 g1 g2 ha hp
  refine ⟨Quiet.ite (q0.trans' (Quiet.ledEvent _ _ (by decide))) q0, ?_, ?_⟩
  · rw [← e2]
    split
    · exact recWords_congr _ _ ((event_arr _ _ _ _ _).1.trans ha) ((event_arr _ _ _ _ _).2.trans hp) _ hr
    · exact recWords_congr _ _ ha hp _ hr
  · split
    · exact l1 _ ((event_get_ne _ _ _ _ _ _ (by decide)).trans g1) ((event_get_ne _ _ _ _ _ _ (by decide)).trans g2)
    · exact l1 _ g1 g2

theorem yieldWindow_yields (s : State) (r : Nat) : Yields s (s.yieldWindow r) := by
  unfold State.yieldWindow
  split
  · split
    · exact yieldHeld_yields s
    · exact Yields.rfl' s
  · exact Yields.rfl' s

theorem padAccess_flights (u : State) (xs : List Flight) (ks : List Nat) :
    ({ u with flights := xs } : State).padAccess ks = { u.padAccess ks with flights := xs } := by
  have e : ∀ v : State, ({ v with flights := xs } : State).bump Reg.SWP_YIELDS_COUNT = { v.bump Reg.SWP_YIELDS_COUNT with flights := xs } := by
    intro v
    unfold State.bump
    by_cases h : v.get Reg.SWP_YIELDS_COUNT + 1 < 2 ^ (Reg.SWP_YIELDS_COUNT.hi + 1 - Reg.SWP_YIELDS_COUNT.lo)
    · rw [if_pos h]
      exact if_pos h
    · rw [if_neg h]
      exact if_neg h
  unfold State.padAccess State.yieldHeld
  dsimp only
  cases hw : u.fw.window with
  | none => rfl
  | some w =>
    dsimp only
    split
    · exact e { u with fw := { u.fw with window := none, yielded := u.fw.yielded ++ [(w, u.stamp)] } }
    · rfl

/-- Staging does not touch the descriptors in progress. -/
theorem padWrites_flights (u : State) (xs ys : List Flight) (p : PadTraffic) :
    ({ ({ u with flights := xs } : State).padWrites p with flights := ys } : State) = { u.padWrites p with flights := ys } := by
  have e : ∀ (v : State) (zs : List Flight) (ws : List (BitVec 18 × BitVec 64)), ({ v with flights := zs } : State).setPads ws = { v.setPads ws with flights := zs } := by
    intro v zs ws
    unfold State.setPads
    rw [padAccess_flights]
  unfold State.padWrites
  rw [e u xs p.dma, e (u.setPads p.dma) xs p.core]

theorem asked_nil (s : State) (h : PHost) (j : Ring) (f g : Flight) (p : PadTraffic := {}) :
    s.asked h j f g [] p =
      { ((((s.advanceHead h j).leaveL1 h).emit (.dataRead h f.d.haddr.toNat (Desc.n f.d))).padWrites p) with flights := [g] } := by
  unfold State.asked
  simp only [flightUpsets_nil]
  exact padWrites_flights _ _ _ p

/-- A Keep write that has all of its data and whose page is hot is written at once (R300). -/
theorem doKeepWrite_hot (b : State) (f : Flight) (h1 : f.ending = none) (h2 : f.buf.length = Desc.n f.d) (h3 : b.blocked 0 f = false)
    (h4 : f.op = .recordPut → b.keepWaits (Desc.pageA f.d) = false ∧ b.keepWaits (Desc.pageA f.d + 1) = false)
    (h5 : b.isHot (b.keepPlan f).1 = true) :
    b.doKeepWrite 0 f = (b.writeHot (b.keepPlan f).1 (b.keepPlan f).2.1).fixFlight 0
      { status := Status.done, result := BitVec.ofNat 64 (b.keepPlan f).2.2 } := by
  unfold State.doKeepWrite
  rw [h1]
  dsimp only
  rw [if_neg (by omega), h3, if_neg (by decide), if_neg ?_, h5, if_pos rfl]
  rintro ⟨ho, hw⟩
  rw [(h4 ho).1, (h4 ho).2] at hw
  simp at hw

/-- The wait of one that has all of its data and whose page is not hot. -/
theorem doKeepWrite_waits (b : State) (f : Flight) (h1 : f.ending = none) (h2 : f.buf.length = Desc.n f.d) (h3 : b.blocked 0 f = false)
    (h5 : b.isHot (b.keepPlan f).1 = false) :
    b.doKeepWrite 0 f = b.setFlight 0 { f with stage := .keep } := by
  unfold State.doKeepWrite
  rw [h1]
  dsimp only
  rw [if_neg (by omega), h3, if_neg (by decide), h5]
  split
  · rfl
  · rfl

/-- A descriptor whose first step leaves it waiting: the state it then settles in. -/
theorem settle_again (v : State) (f : Flight) (hf : v.flights = [f]) (hl : f.lacks = false) (hv : v.serving = true)
    (hs : (v.advance 0).pwr = v.pwr) (hq : (v.advance 0).askAll = v.advance 0)
    (hu : (v.advance 0).advanceAll = v.advance 0) : v.settle = (v.advance 0).settle := by
  have e : (v.advance 0).serving = true := serving_congr _ _ hv (by rw [hs])
  have e2 : v.advanceAll = v.advance 0 := by
    unfold State.advanceAll
    rw [hf]
    rfl
  unfold State.settle
  rw [if_pos hv, if_pos e, askAll_idle v f hf hl, hq, hu, e2]

theorem arrives_serving {s : State} {h : PHost} {j q : Ring} (ha : s.Arrives h j q) : s.serving = true := by
  have h1 := ha.1
  unfold State.mayArrive State.linkOpen at h1
  simp only [Bool.and_eq_true] at h1
  exact h1.1.1.1.1

/-- A descriptor that reads no host memory: the step that starts it. -/
theorem local_starts {s : State} {h : PHost} {j q : Ring} {op : Opcode} {d : Desc} (ha : s.Accepts h j q op d) (hr : readsHost op = false)
    (p : PadTraffic) (hs : Staged op p) (u : State) (hu : (s.begun h j (newFlight h j op d) [] p).advance 0 = u) :
    s.descArrive h j op d {} [] p = u.settle := by
  rw [arrive_local s h j op d [] p q ha hr hs, hu]

/-- A descriptor that reads host memory and has its data: the step that starts it, where a second one would change nothing. -/
theorem host_starts {s : State} {h : PHost} {j q : Ring} {op : Opcode} {d : Desc} (ha : s.Accepts h j q op d) (hr : readsHost op = true)
    (data : HostData) (hd : s.Delivers (newFlight h j op d) data) (hn : 0 < Desc.n d) (p : PadTraffic) (hs : Staged op p) (u : State)
    (hu : (s.asked h j (newFlight h j op d) ((askedFlight h j op d).receive data) [] p).advance 0 = u)
    (hp : u.pwr = s.pwr) (ho : u.askAll = u) (hq : u.advanceAll = u) : s.descArrive h j op d data [] p = u.settle := by
  obtain ⟨a1, a2, a3, a4, a5, a6⟩ := asked_facts s h j (newFlight h j op d) ((askedFlight h j op d).receive data) [] p
  rw [arrive_host s h j op d data [] p q ha hr hs hd hn]
  rw [settle_again _ _ a6 (receive_full hd) (serving_congr s _ (arrives_serving ha.1) (by rw [a2])) (by rw [hu, a2]; exact hp) (by rw [hu]; exact ho)
    (by rw [hu]; exact hq), hu]

theorem yieldWindow_facts (s : State) (r : Nat) : Quiet s (s.yieldWindow r) ∧ (∀ a, a ≠ 0xD04 → (s.yieldWindow r).reg a = s.reg a) ∧
    (s.yieldWindow r).clearing = s.clearing ∧ (s.yieldWindow r).rest = s.rest := by
  have e : ∀ t : State, Quiet t (t.bump Reg.SWP_YIELDS_COUNT) ∧ (∀ a, a ≠ 0xD04 → (t.bump Reg.SWP_YIELDS_COUNT).reg a = t.reg a) ∧
      (t.bump Reg.SWP_YIELDS_COUNT).clearing = t.clearing ∧ (t.bump Reg.SWP_YIELDS_COUNT).rest = t.rest := by
    intro t
    refine ⟨Quiet.bump _ _ (.inr (by decide)), ?_⟩
    unfold State.bump
    split
    · exact ⟨fun a ha => State.reg_put_ne _ _ ha, rfl, rfl⟩
    · exact ⟨fun _ _ => rfl, rfl, rfl⟩
  have y : Quiet s s.yieldHeld ∧ (∀ a, a ≠ 0xD04 → s.yieldHeld.reg a = s.reg a) ∧ s.yieldHeld.clearing = s.clearing ∧ s.yieldHeld.rest = s.rest := by
    unfold State.yieldHeld
    split
    · next w _ =>
      obtain ⟨e1, e2, e3, e4⟩ := e { s with fw := { s.fw with window := none, yielded := s.fw.yielded ++ [(w, s.stamp)] } }
      exact ⟨Quiet.trans' (t := { s with fw := { s.fw with window := none, yielded := s.fw.yielded ++ [(w, s.stamp)] } })
        (Quiet.of rfl rfl rfl rfl rfl) e1, e2, e3, e4⟩
    · exact ⟨Quiet.rfl' _, fun _ _ => rfl, rfl, rfl⟩
  unfold State.yieldWindow
  split
  · split
    · exact y
    · exact ⟨Quiet.rfl' _, fun _ _ => rfl, rfl, rfl⟩
  · exact ⟨Quiet.rfl' _, fun _ _ => rfl, rfl, rfl⟩

/-- Retiring a region leaves the descriptors as they were. -/
theorem retire_flights (s : State) (r c cl : Nat) : (s.retire r c cl).flights = s.flights := by
  have leave : ∀ (t : State) (r : Nat), (t.leave r).flights = t.flights := by
    intro t r
    unfold State.leave
    split <;> rfl
  have log : ∀ (u : State) (a b c d e : Nat), (u.log a b c d e).flights = u.flights := by
    intro u a b c d e
    unfold State.log State.logAt
    split <;> rfl
  have yield : ∀ (t : State) (r : Nat), (t.yieldWindow r).flights = t.flights := fun t r => (yieldWindow_yields t r).field State.flights (by intros; rfl)
  unfold State.retire State.relocate State.retireNow State.arrEvent
  dsimp only
  split_ifs
  · rfl
  · split
    · exact (yield _ _).trans (yield _ _)
    · rw [event_flights]
      rfl
  · rw [log, event_flights]
    exact leave s r
  · rw [log, event_flights]
    exact (leave _ r).trans rfl
  · rfl
  · rfl

theorem retireLate_flights (s : State) (r : Nat) : (s.retireLate r).flights = s.flights := by
  unfold State.retireLate
  split
  · rw [retire_flights]
  · rfl

/-- What an undo before a stop leaves as it was. -/
theorem undo_flights (s : State) (i : Nat) (f : Flight) : (s.undo i f).flights = s.flights := by
  unfold State.undo
  split
  · unfold State.rasterWithdraw
    split
    · rfl
    · rfl
  · split
    · rfl
    · rfl
  · split
    · unfold State.dropMove
      dsimp only
      rw [retireLate_flights]
      rfl
    · rfl
  · rfl

theorem findFlight_facts (s : State) (p : Flight → Bool) (i : Nat) (f : Flight) (h : s.findFlight p = some (i, f)) :
    s.flights[i]? = some f ∧ p f = true := by
  unfold State.findFlight at h
  split at h
  · next k hk =>
    cases hf : s.flights[k]? with
    | none =>
      rw [hf] at h
      cases h
    | some g =>
      rw [hf] at h
      simp only [Option.map_some, Option.some.injEq, Prod.mk.injEq] at h
      obtain ⟨rfl, rfl⟩ := h
      refine ⟨hf, ?_⟩
      obtain ⟨hlt, hp, -⟩ := List.findIdx?_eq_some_iff_getElem.mp hk
      have := List.getElem?_eq_getElem hlt
      rw [this] at hf
      cases hf
      exact hp
  · cases h

theorem fixFlight_get (s : State) (i k : Nat) (f : Flight) (c : Compl) (hf : s.flights[i]? = some f) :
    (s.fixFlight i c).flights[k]? = if k = i then some { f with compl := some c, committed := true, stage := .done } else s.flights[k]? := by
  unfold State.fixFlight
  rw [hf]
  unfold State.setFlight
  have hl : i < s.flights.length := by
    by_contra hc
    rw [List.getElem?_eq_none (by omega)] at hf
    cases hf
  dsimp only
  by_cases h : k = i
  · subst h
    rw [if_pos rfl, List.getElem?_set_self hl]
  · rw [if_neg h, List.getElem?_set_ne (fun hc => h hc.symm)]

theorem freeMove_congr (s t : State) (h : ∀ a, a < 0x720 → t.reg a = s.reg a) : t.freeMove = s.freeMove := by
  unfold State.freeMove
  apply find_congr
  intro n hn
  have hn := List.mem_range.mp hn
  unfold State.get
  rw [h _ (by simp only [Reg.ARR_MOVE_PHASE]; omega)]

theorem freeMove_lt (s : State) (n : Nat) (h : s.freeMove = some n) : n < 8 :=
  List.mem_range.mp (List.mem_of_find?_eq_some h)

/-- The entry that a MOVE fills and its destination (R101). -/
theorem moveStart_facts (s : State) (f : Flight) (n : Nat) (hf : s.flights = [f]) (hn : s.freeMove = some n) (hh : f.host.val < 4) :
    (s.moveStart 0 f).flights = [{ f with stage := .moveCopy, result := n }] ∧ (s.moveStart 0 f).get (Reg.ARR_MOVE_PHASE n) = 1 ∧
    (s.moveStart 0 f).get (Reg.ARR_MOVE_OWNER n) = f.host.val + 1 ∧ (s.moveStart 0 f).get (Reg.ARR_MOVE_SRC n) = bits f.d.p0.toNat 5 0 ∧
    (s.moveStart 0 f).get (Reg.ARR_MOVE_DST n) = bits f.d.p0.toNat 13 8 ∧
    (s.moveStart 0 f).rstate (bits f.d.p0.toNat 13 8) = RState.moveDest ∧
    (s.moveStart 0 f).get (Reg.PART_REGION_PARTITION (bits f.d.p0.toNat 13 8)) = s.get (Reg.PART_REGION_PARTITION (bits f.d.p0.toNat 5 0)) ∧
    bits f.d.p0.toNat 13 8 ∈ (s.moveStart 0 f).clearing := by
  have hn8 := freeMove_lt s n hn
  have hs : bits f.d.p0.toNat 5 0 < 64 := Nat.mod_lt _ (by decide)
  have hd : bits f.d.p0.toNat 13 8 < 64 := Nat.mod_lt _ (by decide)
  unfold State.moveStart
  rw [hn]
  dsimp only
  generalize bits f.d.p0.toNat 5 0 = src at hs
  generalize bits f.d.p0.toNat 13 8 = dst at hd
  have hp0 : s.get (Reg.PART_REGION_PARTITION src) < 64 := get_lt s (Reg.PART_REGION_PARTITION src)
  generalize s.get (Reg.PART_REGION_PARTITION src) = pp at hp0
  generalize hs1 : ((s.put (Reg.PART_REGION_PARTITION dst) pp).setRstate dst RState.moveDest).clearRegion dst = s1
  have c1 : s1.flights = [f] := by rw [← hs1]; exact hf
  have c2 : dst ∈ s1.clearing := by
    rw [← hs1]
    unfold State.clearRegion
    dsimp only
    split
    · next h => exact List.contains_iff_mem.mp h
    · exact List.mem_append_right _ (List.mem_singleton.mpr rfl)
  have c3 : s1.get (Reg.PART_REGION_STATE dst) = 2 := by
    rw [← hs1]
    exact State.get_put_same _ (Reg.PART_REGION_STATE dst) 2 (lt_rfl rfl) (by show 2 < 8; decide)
  have c4 : s1.get (Reg.PART_REGION_PARTITION dst) = pp := by
    rw [← hs1]
    refine (State.get_put_apart _ (f := Reg.PART_REGION_STATE dst) (g := Reg.PART_REGION_PARTITION dst) 2 (lt_rfl rfl) (.inl (lt_rfl rfl))).trans ?_
    exact State.get_put_same _ (Reg.PART_REGION_PARTITION dst) pp (lt_rfl rfl) (by show pp < 64; exact hp0)
  generalize hs2 : s1.setReg (0x410 + n) (BitVec.ofNat 18 (1 * 2 ^ 15 + (f.host.val + 1) * 2 ^ 12 + dst * 2 ^ 6 + src)) = s2
  have r1 : s2.reg (0x410 + n) = BitVec.ofNat 18 (1 * 2 ^ 15 + (f.host.val + 1) * 2 ^ 12 + dst * 2 ^ 6 + src) := by
    rw [← hs2]
    exact State.reg_setReg_same _ _ _
  have r2 : ∀ a, a ≠ 0x410 + n → s2.reg a = s1.reg a := by
    intro a ha
    rw [← hs2]
    exact State.reg_setReg_ne _ _ ha
  have r3 : s2.clearing = s1.clearing := by rw [← hs2]; rfl
  have r4 : s2.flights = s1.flights := by rw [← hs2]; rfl
  obtain ⟨y1, y2, y3, y4⟩ := yieldWindow_facts s2 src
  obtain ⟨z1, z2, z3, z4⟩ := yieldWindow_facts (s2.yieldWindow src) dst
  have rr : ∀ a, a ≠ 0xD04 → (((s2.yieldWindow src).yieldWindow dst).setFlight 0 { f with stage := .moveCopy, result := n }).reg a = s2.reg a :=
    fun a ha => (z2 a ha).trans (y2 a ha)
  have hr : (((s2.yieldWindow src).yieldWindow dst).setFlight 0 { f with stage := .moveCopy, result := n }).reg (0x410 + n) =
      BitVec.ofNat 18 (1 * 2 ^ 15 + (f.host.val + 1) * 2 ^ 12 + dst * 2 ^ 6 + src) := (rr _ (by omega)).trans r1
  have hv : (BitVec.ofNat 18 (1 * 2 ^ 15 + (f.host.val + 1) * 2 ^ 12 + dst * 2 ^ 6 + src)).toNat = 1 * 2 ^ 15 + (f.host.val + 1) * 2 ^ 12 + dst * 2 ^ 6 + src := by
    rw [BitVec.toNat_ofNat]
    omega
  refine ⟨?_, ?_, ?_, ?_, ?_, ?_, ?_, ?_⟩
  · rw [setFlight_one _ f _ (z1.flights.trans (y1.flights.trans (r4.trans c1)))]
  · show bits (State.reg _ (0x410 + n)).toNat 16 15 = 1
    rw [hr, hv]
    unfold bits
    omega
  · show bits (State.reg _ (0x410 + n)).toNat 14 12 = _
    rw [hr, hv]
    unfold bits
    omega
  · show bits (State.reg _ (0x410 + n)).toNat 5 0 = _
    rw [hr, hv]
    unfold bits
    omega
  · show bits (State.reg _ (0x410 + n)).toNat 11 6 = _
    rw [hr, hv]
    unfold bits
    omega
  · rw [show RState.moveDest = 2 from rfl, ← c3]
    unfold State.rstate State.get
    rw [rr _ (by simp only [Reg.PART_REGION_STATE]; omega), r2 _ (by simp only [Reg.PART_REGION_STATE]; omega)]
  · rw [← c4]
    unfold State.get
    rw [rr _ (by simp only [Reg.PART_REGION_PARTITION]; omega), r2 _ (by simp only [Reg.PART_REGION_PARTITION]; omega)]
  · show dst ∈ ((s2.yieldWindow src).yieldWindow dst).clearing
    rw [z3, y3, r3]
    exact c2

theorem advanceAll_one (s : State) (f : Flight) (hf : s.flights = [f]) : s.advanceAll = s.advance 0 := by
  unfold State.advanceAll
  rw [hf]
  rfl

theorem Stn.table_setTable_same (st : Stn) (t : Nat) (v : Table) : (st.setTable t v).table t = v := Map.get_set_same _ _ _ _

theorem Stn.table_setTable_ne (st : Stn) {t k : Nat} (v : Table) (h : k ≠ t) : (st.setTable t v).table k = st.table k := Map.get_set_ne _ _ _ h



/-- A TABLE_LOAD with all of its data at once, every word within its check. -/
theorem placeTable_all (b : State) (f : Flight) (x : Table) (h0 : f.moved = 0) (h1 : f.ending = none)
    (hn : Desc.n f.d % 4 = 0) (h3 : b.loadWaits 0 f = false)
    (h4 : ((b.stn f.d.stn).table f.d.tbl).load f.d.tbl (Desc.a f.d) (slotWords f.buf) 0 = (x, Desc.n f.d / 4, none)) :
    ∃ u : State, b.placeTable 0 f = u.fixFlight 0 { status := u.stnStatus f.d.stn, result := BitVec.ofNat 64 (Desc.n f.d) } ∧
      (∃ m, u = { b with stns := m }) ∧ (u.stn f.d.stn).table f.d.tbl = loadedTable f.d x ∧
      (∀ k, k ≠ f.d.tbl → (u.stn f.d.stn).table k = (b.stn f.d.stn).table k) ∧ ∀ n, n ≠ f.d.stn → u.stn n = b.stn n := by
  have hm : 0 + 4 * (Desc.n f.d / 4) = Desc.n f.d := by omega
  have h4' : ((b.stn f.d.stn).table f.d.tbl).load f.d.tbl (Desc.a f.d + 0 / 4) (slotWords f.buf) 0 = (x, Desc.n f.d / 4, none) := h4
  unfold State.placeTable
  rw [h3, if_neg (by decide), h0]
  dsimp only
  rw [h4']
  dsimp only
  rw [h1]
  dsimp only
  simp only [hm, if_true]
  rw [State.stn_setStn_same, Stn.table_setTable_same]
  refine ⟨_, rfl, ?_, ?_, ?_, ?_⟩
  · split
    · exact ⟨_, rfl⟩
    · exact ⟨_, rfl⟩
  · unfold loadedTable
    by_cases hc : (decide (Desc.a f.d = 0 ∧ Desc.n f.d = 4 * tableWords f.d.tbl) || decide (x.state ≠ .dirty)) = true
    · rw [if_pos hc, if_pos hc, State.stn_setStn_same, Stn.table_setTable_same]
    · rw [if_neg hc, if_neg hc, State.stn_setStn_same, Stn.table_setTable_same]
  · intro k hk
    split
    · rw [State.stn_setStn_same, Stn.table_setTable_ne _ _ hk, Stn.table_setTable_ne _ _ hk]
    · rw [State.stn_setStn_same, Stn.table_setTable_ne _ _ hk]
  · intro n hn
    split
    · rw [State.stn_setStn_ne _ _ hn, State.stn_setStn_ne _ _ hn]
    · rw [State.stn_setStn_ne _ _ hn]

/-- An accepted RASTER_POST's band (R211). -/
theorem rasterAccept_facts (s : State) (d : Desc) (r : Nat) :
    (∃ m, s.rasterAccept d r = { s with stns := m }) ∧
    ∃ g, g ∈ ((s.rasterAccept d r).stn d.stn).sheets ∧ g.rec_ = r ∧ (d.a0.toNat, d.lines) ∈ g.posted ∧
      (d.last = true → g.lines = some (d.a0.toNat + d.lines)) := by
  unfold State.rasterAccept
  dsimp only
  split
  · refine ⟨⟨_, rfl⟩, { rec_ := r, posted := [(d.a0.toNat, d.lines)], lines := if d.last then some (d.a0.toNat + d.lines) else none }, ?_, rfl, ?_, ?_⟩
    · rw [State.stn_setStn_same]
      exact List.mem_append_right _ (List.mem_singleton.mpr rfl)
    · exact List.mem_singleton.mpr rfl
    · intro h
      dsimp only
      rw [h, if_pos rfl]
  · next g hg =>
    have hr : g.rec_ = r := by
      unfold Stn.findSheet at hg
      have := List.find?_some hg
      exact of_decide_eq_true this
    have hm : g ∈ (s.stn d.stn).sheets := by
      unfold Stn.findSheet at hg
      exact List.mem_of_find?_eq_some hg
    have hl : d.last = true → (if d.last then some (d.a0.toNat + d.lines) else g.lines) = some (d.a0.toNat + d.lines) := fun h => by rw [h, if_pos rfl]
    split
    · refine ⟨⟨_, rfl⟩, { g with posted := g.posted ++ [(d.a0.toNat, d.lines)], lines := if d.last then some (d.a0.toNat + d.lines) else g.lines }, ?_, hr,
        List.mem_append_right _ (List.mem_singleton.mpr rfl), hl⟩
      rw [State.stn_setStn_same]
      exact List.mem_append_right _ (List.mem_singleton.mpr rfl)
    · refine ⟨⟨_, rfl⟩, { g with posted := g.posted ++ [(d.a0.toNat, d.lines)], lines := if d.last then some (d.a0.toNat + d.lines) else g.lines }, ?_, hr,
        List.mem_append_right _ (List.mem_singleton.mpr rfl), hl⟩
      rw [State.stn_setStn_same]
      unfold Stn.mapSheet
      exact List.mem_map.mpr ⟨g, hm, by rw [if_pos hr]⟩

/-- What a swap exchanges (R232, R233). -/
theorem swapTables_facts (s : State) (n mask : Nat) :
    (s.swapTables n mask).flights = s.flights ∧ (s.swapTables n mask).pwr = s.pwr ∧
    (∀ t, t ∈ maskTables mask → (((s.swapTables n mask).stn n).table t).active = ((s.stn n).table t).idle ∧
      (((s.swapTables n mask).stn n).table t).idle = ((s.stn n).table t).active ∧
      (((s.swapTables n mask).stn n).table t).bank = !((s.stn n).table t).bank ∧ (((s.swapTables n mask).stn n).table t).state = .copying) ∧
    (∀ t, t ∉ maskTables mask → ((s.swapTables n mask).stn n).table t = (s.stn n).table t) := by
  have k1 : ∀ {β : Type} (p : State → β) (hp : ∀ (t : State) f v, p (t.put f v) = p t), p (s.swapTables n mask) =
      p (s.setStn n ((maskTables mask).foldl (fun (st : Stn) t =>
        st.setTable t { active := (st.table t).idle, idle := (st.table t).active, bank := !(st.table t).bank, state := .copying }) (s.stn n))) := by
    intro β p hp
    unfold State.swapTables
    exact foldl_keeps p (fun t x => hp _ _ _) _ _
  have key : ∀ (xs : List Nat) (st : Stn), xs.Nodup → ∀ t, (xs.foldl (fun (st : Stn) t =>
      st.setTable t { active := (st.table t).idle, idle := (st.table t).active, bank := !(st.table t).bank, state := .copying }) st).table t =
      if t ∈ xs then { active := (st.table t).idle, idle := (st.table t).active, bank := !(st.table t).bank, state := .copying } else st.table t := by
    intro xs
    induction xs with
    | nil => exact fun _ _ _ => by simp
    | cons x xs ih =>
      intro st hx t
      rw [List.nodup_cons] at hx
      rw [List.foldl_cons, ih _ hx.2]
      by_cases h : t = x
      · subst h
        rw [if_neg hx.1, if_pos List.mem_cons_self, Stn.table_setTable_same]
      · rw [Stn.table_setTable_ne _ _ h]
        by_cases h2 : t ∈ xs
        · rw [if_pos h2, if_pos (List.mem_cons_of_mem _ h2)]
        · rw [if_neg h2, if_neg (by simp [h, h2])]
  have hs : ∀ t, ((s.swapTables n mask).stn n).table t = if t ∈ maskTables mask then
      { active := ((s.stn n).table t).idle, idle := ((s.stn n).table t).active, bank := !((s.stn n).table t).bank, state := .copying }
      else (s.stn n).table t := by
    intro t
    have e : (s.swapTables n mask).stn n = _ := k1 (fun u => u.stn n) (fun _ _ _ => rfl)
    rw [e, State.stn_setStn_same]
    exact key _ _ (List.Nodup.filter _ (List.nodup_range)) t
  refine ⟨k1 (fun u => u.flights) (fun _ _ _ => rfl), k1 (fun u => u.pwr) (fun _ _ _ => rfl), fun t ht => ?_, fun t ht => ?_⟩
  · rw [hs t, if_pos ht]
    exact ⟨rfl, rfl, rfl, rfl⟩
  · rw [hs t, if_neg ht]

theorem fixFlight_keeps {β : Type} (p : State → β) (hp : ∀ (t : State) (i : Nat) (f : Flight), p (t.setFlight i f) = p t) (s : State) (i : Nat)
    (c : Compl) : p (s.fixFlight i c) = p s := by
  unfold State.fixFlight
  split
  · exact hp _ _ _
  · rfl

theorem event_stns (s : State) (ev : Fld) (a : Nat) (c : IClass) (hs : List PHost) : (s.event ev a c hs).stns = s.stns := by
  have hn : ∀ (u : State) (g : PHost), (u.notify c g).stns = u.stns := by
    intro u g
    unfold State.notify State.msix
    dsimp only
    split_ifs <;> rfl
  unfold State.event
  dsimp only
  split_ifs
  · rfl
  · exact (foldl_keeps (fun s => s.stns) (f := fun t h => State.notify t c h) hn _ _).trans rfl
  · rfl

theorem stn_congr {s t : State} (h : t.stns = s.stns) (n : Nat) : t.stn n = s.stn n := by
  unfold State.stn
  rw [h]

/-- The stage of an accepted RASTER_POST stands until its band is published. -/
theorem doRaster_ok (b : State) (f : Flight) (r : Nat) (h1 : f.ending = none) (h2 : f.stage ≠ .ringSpace) (h3 : b.blocked 0 f = false)
    (h4 : b.rasterCheck f.host f.d = .ok r) : b.doRaster 0 f = (b.rasterAccept f.d r).setFlight 0 { f with stage := .ringSpace } := by
  unfold State.doRaster
  rw [h1]
  dsimp only
  rw [if_neg h2, h3, if_neg (by decide), h4]

theorem doRaster_stays (b : State) (f : Flight) (i : Nat) (h1 : f.ending = none) (h2 : f.stage = .ringSpace)
    (h3 : b.ringRetired f = false) : b.doRaster i f = b := by
  unfold State.doRaster
  rw [h1]
  dsimp only
  rw [if_pos h2, h3]
  rfl

/-- The device's own writes change cells, Sweeper's window and its count alone. -/
theorem touched_setW18s (vs : List Word) (s : State) (w : Nat) : Touched s (s.setW18s w vs) := by
  have put : ∀ (vs : List Word) (s : State) (w : Nat), Touched s (s.putW18s w vs) := by
    intro vs
    induction vs with
    | nil => exact fun s _ => Touched.rfl' s
    | cons v vs ih =>
      exact fun s w => ((access_yields s (s.cwOwner (w / 4)) (w / 4)).touched.trans' (touched_set _ _ _)).trans' (ih (s.setW18 w v) (w + 1))
  have sound : ∀ (xs : List Nat) (t : State) (g : State → Nat → Nat), Touched t (xs.foldl (fun (t : State) i =>
      t.setCwImage (g s i) ((t.cwImage (g s i)).setEcc (cwIndex (g s i)) 0)) t) := by
    intro xs
    induction xs with
    | nil => exact fun t _ => Touched.rfl' t
    | cons x xs ih => exact fun t g => (touched_set _ _ _).trans' (ih _ g)
  exact (put vs s w).trans' (sound _ _ (fun _ i => (w + 3) / 4 + i))

/-- RASTER_COMPLETE changes cells alone, or while the ledger is held what is noted for the wave's end (R126). -/
theorem rasterTry_facts (s : State) (r : Nat) : ∃ l, Touched { s with led := l } (s.rasterTry r) := by
  unfold State.rasterTry State.rasterComplete
  dsimp only
  split
  · split
    · exact ⟨_, Touched.rfl' _⟩
    · exact ⟨s.led, Touched.rfl' _⟩
  · split
    · exact ⟨s.led, touched_setW18s _ _ _⟩
    · exact ⟨s.led, Touched.rfl' s⟩

theorem rasterTry_field {β : Type} (p : State → β) (hl : ∀ (u : State) (l : Ledger), p { u with led := l } = p u)
    (hp : ∀ (u : State) (m : Map Image) (x : Firmware) (r : Map Word), p { u with arr := m, fw := x, regs := r } = p u) (s : State) (r : Nat) :
    p (s.rasterTry r) = p s := by
  obtain ⟨l, h⟩ := rasterTry_facts s r
  exact (h.field p hp).trans (hl s l)

/-- A band published in time (R212, R213). -/
theorem publish_facts (s : State) (hI : s.Inv) (i : Nat) (f : Flight) (g : Sheet) (h1 : s.flights[i]? = some f)
    (h2 : ((List.range f.d.lines).map (f.d.a0.toNat + ·)).filter ((s.stn f.d.stn).lateLine g) = []) :
    (∃ st, (s.publish i f g).flights[i]? = some { f with compl := some { status := st, result := BitVec.ofNat 64 ((g.pos + f.d.a0.toNat) % s.ringSize f.d.stn * 2 ^ 48 + f.d.len.toNat) }, committed := true, stage := .done }) ∧
    (s.publish i f g).stn f.d.stn = (s.stn f.d.stn).mapSheet g.rec_ (fun x => { x with published := x.published ++ [(f.d.a0.toNat, f.d.lines)] }) := by
  have hw := (State.writeBand_kept (kept_start hI 0x3801120060) f.d.stn (g.pos + f.d.a0.toNat) f.d.lines f.buf (by decide)).frame
  unfold State.publish
  dsimp only
  rw [h2]
  simp only [List.isEmpty_nil, if_true, List.filter_nil, Bool.not_true]
  constructor
  · rw [rasterTry_field (fun t => t.flights) (by intros; rfl) (by intros; rfl)]
    have hf : ∀ m, ((s.writeBand f.d.stn (g.pos + f.d.a0.toNat) f.d.lines f.buf).setStn f.d.stn m).flights[i]? = some f := by
      intro m
      rw [show ((s.writeBand f.d.stn (g.pos + f.d.a0.toNat) f.d.lines f.buf).setStn f.d.stn m).flights =
        (s.writeBand f.d.stn (g.pos + f.d.a0.toNat) f.d.lines f.buf).flights from rfl, hw.flights (by decide)]
      exact h1
    exact ⟨_, by rw [fixFlight_get _ i i f _ (hf _), if_pos rfl]⟩
  · rw [rasterTry_field (fun t => t.stn f.d.stn) (by intros; rfl) (by intros; rfl), fixFlight_keeps (fun t => t.stn f.d.stn) (by intros; rfl), State.stn_setStn_same]
    unfold Stn.mapSheet
    simp

/-- A TABLE_LOAD that is accepted moves whole slots. -/
theorem accepts_table {s : State} {h : PHost} {d : Desc} (hd : s.descCheck h .tableLoad d = none) : 4 ≤ Desc.n d ∧ Desc.n d % 4 = 0 := by
  unfold State.descCheck at hd
  rw [if_neg (by decide)] at hd
  split at hd
  · exact absurd hd (by simp)
  · next hs =>
    have hl : s.limitsOk .tableLoad d = true := by
      by_contra hc
      exact hs (by simp [hc])
    unfold State.limitsOk at hl
    dsimp only at hl
    simp only [Bool.and_eq_true] at hl
    have hb := hl.1.2
    unfold Desc.slots4 at hb
    have := of_decide_eq_true hb
    omega

/-- A region is freed: no partition, AVAILABLE, cleared (R86, R95). -/
def State.freed (s : State) (r : Nat) : State := ((s.put (Reg.PART_REGION_PARTITION r) 0x3F).setRstate r RState.available).clearRegion r

theorem mem_clear (s : State) (r : Nat) : r ∈ (s.clearRegion r).clearing ∧ (s.clearRegion r).regs = s.regs ∧
    (s.clearRegion r).image r = Image.flat (s.clearedWord r) ∧ (s.clearRegion r).flights = s.flights := by
  unfold State.clearRegion
  dsimp only
  refine ⟨?_, rfl, State.image_setImage_same _ _ _, rfl⟩
  split
  · next h => exact List.contains_iff_mem.mp h
  · exact List.mem_append_right _ (List.mem_singleton.mpr rfl)

theorem freed_facts (s : State) (r : Nat) : (s.freed r).get (Reg.PART_REGION_PARTITION r) = 0x3F ∧ (s.freed r).rstate r = RState.available ∧
    r ∈ (s.freed r).clearing ∧ (s.freed r).image r = Image.flat 0 ∧ (∀ a, a ≠ 0x440 + r → (s.freed r).reg a = s.reg a) := by
  obtain ⟨c1, c2, c3, -⟩ := mem_clear ((s.put (Reg.PART_REGION_PARTITION r) 0x3F).setRstate r RState.available) r
  have g1 : ((s.put (Reg.PART_REGION_PARTITION r) 0x3F).setRstate r RState.available).get (Reg.PART_REGION_PARTITION r) = 0x3F :=
    (State.get_put_apart _ (f := Reg.PART_REGION_STATE r) (g := Reg.PART_REGION_PARTITION r) 0 (lt_rfl rfl) (.inl (lt_rfl rfl))).trans
      (State.get_put_same _ (Reg.PART_REGION_PARTITION r) 0x3F (lt_rfl rfl) (lt_rfl rfl))
  have g2 : ((s.put (Reg.PART_REGION_PARTITION r) 0x3F).setRstate r RState.available).get (Reg.PART_REGION_STATE r) = 0 :=
    State.get_put_same _ (Reg.PART_REGION_STATE r) 0 (lt_rfl rfl) (lt_rfl rfl)
  refine ⟨(get_congr c2 _).trans g1, (get_congr c2 _).trans g2, c1, ?_, fun a ha => ?_⟩
  · refine c3.trans ?_
    congr 1
    unfold State.clearedWord State.partOf
    rw [g1]
    rfl
  · refine (reg_congr c2 a).trans ?_
    exact (State.reg_put_ne _ (f := Reg.PART_REGION_STATE r) _ ha).trans (State.reg_put_ne _ (f := Reg.PART_REGION_PARTITION r) _ ha)

/-- A forward or a MOVE's copy that ends and frees region r (R102, Table 3-8). -/
theorem entryFreed_facts (s : State) (n r : Nat) (hr : r < 64) (hn : n < 8) : ((s.setReg (0x410 + n) 0#18).freed r).get (Reg.ARR_MOVE_PHASE n) = 0 ∧
    ((s.setReg (0x410 + n) 0#18).freed r).get (Reg.PART_REGION_PARTITION r) = 0x3F ∧ ((s.setReg (0x410 + n) 0#18).freed r).rstate r = RState.available ∧
    r ∈ ((s.setReg (0x410 + n) 0#18).freed r).clearing ∧ ((s.setReg (0x410 + n) 0#18).freed r).image r = Image.flat 0 := by
  obtain ⟨f1, f2, f3, f4, f5⟩ := freed_facts (s.setReg (0x410 + n) 0#18) r
  refine ⟨?_, f1, f2, f3, f4⟩
  unfold State.get
  rw [f5 _ (by simp only [Reg.ARR_MOVE_PHASE]; omega), show (Reg.ARR_MOVE_PHASE n).addr = 0x410 + n from rfl, State.reg_setReg_same]
  show bits (0#18).toNat 16 15 = 0
  decide

theorem log_keeps {β : Type} (p : State → β) (h1 : ∀ (t : State) x, p { t with dev := x } = p t) (h2 : ∀ (t : State) a w, 0xD00 ≤ a → p (t.setReg a w) = p t)
    (h3 : ∀ (t : State) x, p { t with heldLog := x } = p t) (s : State) (a b c d e : Nat) : p (s.log a b c d e) = p s := by
  unfold State.log State.logAt
  split
  · dsimp only
    unfold State.put36
    rw [h2 _ _ _ (by decide), h2 _ _ _ (by decide), h1]
  · exact h3 _ _

theorem event_clearing (s : State) (ev : Fld) (a : Nat) (c : IClass) (hs : List PHost) : (s.event ev a c hs).clearing = s.clearing := by
  have hn : ∀ (u : State) (g : PHost), (u.notify c g).clearing = u.clearing := by
    intro u g
    unfold State.notify State.msix
    dsimp only
    split_ifs <;> rfl
  unfold State.event
  dsimp only
  split_ifs
  · rfl
  · exact (foldl_keeps (fun s => s.clearing) (f := fun t h => State.notify t c h) hn _ _).trans rfl
  · rfl

theorem leave_regs (s : State) (r : Nat) : (s.leave r).regs = s.regs ∧ (s.leave r).phys63 = s.phys63 ∧ (s.leave r).dev.reloc = s.dev.reloc := by
  unfold State.leave
  split
  · exact ⟨rfl, rfl, rfl⟩
  · exact ⟨rfl, rfl, rfl⟩

theorem log_arr (s : State) (a b c d e : Nat) : (s.log a b c d e).arr = s.arr :=
  log_keeps (fun t => t.arr) (by intros; rfl) (by intros; rfl) (by intros; rfl) _ _ _ _ _ _

theorem log_get (s : State) (a b c d e : Nat) (g : Fld) (hg : g.addr < 0xD00) : (s.log a b c d e).get g = s.get g :=
  log_get_ne _ _ _ _ _ _ (by omega) (by omega)

/-- A region that a MOVE has just left, while its destination meets R99 at once or not (log entry 97). -/
theorem retireLate_moved (t : State) (src dst n : Nat) (hs : src < 64) (hd : dst < 64) (hne : src ≠ dst) (hn : n < 8)
    (v2 : t.rstate src = RState.forward) (v3 : t.rstate dst = RState.assigned) :
    (t.retireLate dst).get (Reg.ARR_MOVE_PHASE n) = t.get (Reg.ARR_MOVE_PHASE n) ∧ (t.retireLate dst).rstate src = RState.forward ∧
    ((t.retireLate dst).rstate dst = RState.assigned ∨ (t.retireLate dst).rstate dst = RState.retiring) ∧
    (t.retireLate dst).get Reg.ARR_EVENT_MOVE_DONE = t.get Reg.ARR_EVENT_MOVE_DONE ∧ (t.retireLate dst).image dst = t.image dst := by
  have same : ∀ u : State, u.regs = t.regs → u.arr = t.arr → u.get (Reg.ARR_MOVE_PHASE n) = t.get (Reg.ARR_MOVE_PHASE n) ∧
      u.rstate src = RState.forward ∧ (u.rstate dst = RState.assigned ∨ u.rstate dst = RState.retiring) ∧
      u.get Reg.ARR_EVENT_MOVE_DONE = t.get Reg.ARR_EVENT_MOVE_DONE ∧ u.image dst = t.image dst := by
    intro u h1 h2
    refine ⟨get_congr h1 _, (get_congr h1 _).trans v2, .inl ((get_congr h1 _).trans v3), get_congr h1 _, ?_⟩
    unfold State.image
    rw [h2]
  unfold State.retireLate
  cases t.dev.failed.find? (fun e => decide (e.1 = dst)) with
  | none => exact same t rfl rfl
  | some e =>
    dsimp only
    generalize h0 : ({ t with dev := { t.dev with failed := t.dev.failed.filter (fun d => decide (d.1 ≠ dst)) } } : State) = u
    have hr : u.regs = t.regs := by rw [← h0]
    have ha : u.arr = t.arr := by rw [← h0]
    have gu : ∀ g, u.get g = t.get g := fun g => get_congr hr g
    have ud : u.rstate dst = RState.assigned := (gu _).trans v3
    have us : u.rstate src = RState.forward := (gu _).trans v2
    have hi : u.image dst = t.image dst := by
      unfold State.image
      rw [ha]
    unfold State.retire
    by_cases h63 : dst = 63
    · rw [if_pos h63]
      unfold State.relocate
      split
      · exact same u hr ha
      · split
        · next r hf =>
          have h := List.find?_some hf
          simp only [decide_eq_true_eq] at h
          have hy := (yieldWindow_yields u 63).trans' (yieldWindow_yields (u.yieldWindow 63) r)
          have hi2 : ((u.yieldWindow 63).yieldWindow r).image dst = t.image dst := by
            unfold State.image
            rw [hy.field State.arr (by intros; rfl), ha]
          generalize (u.yieldWindow 63).yieldWindow r = y at hy hi2
          have gy : ∀ g : Fld, g.addr ≠ 0xD04 → y.get g = t.get g := fun g hg => by
            rw [← gu g]
            unfold State.get
            rw [hy.2 _ hg]
          have hsr : src ≠ r := by
            intro e
            subst e
            rw [us] at h
            exact absurd h.2 (by decide)
          have st : ∀ q, q < 64 → q ≠ r → ((y.setRstate r RState.moveDest).setImage r (Image.flat 0#18)).rstate q = t.rstate q := fun q h1 hq =>
            (State.get_put_ne _ (f := Reg.PART_REGION_STATE r) (g := Reg.PART_REGION_STATE q) _ (by simp only [Reg.PART_REGION_STATE]; omega)).trans
              (gy _ (by simp only [Reg.PART_REGION_STATE]; omega))
          refine ⟨?_, ?_, .inl ?_, ?_, ?_⟩
          · exact (State.get_put_ne _ (f := Reg.PART_REGION_STATE r) (g := Reg.ARR_MOVE_PHASE n) _ (by simp only [Reg.PART_REGION_STATE, Reg.ARR_MOVE_PHASE]; omega)).trans
              (gy _ (by simp only [Reg.ARR_MOVE_PHASE]; omega))
          · exact (st src hs hsr).trans v2
          · exact (st dst hd (by omega)).trans v3
          · exact (State.get_put_ne _ (f := Reg.PART_REGION_STATE r) (g := Reg.ARR_EVENT_MOVE_DONE) _ (by simp only [Reg.PART_REGION_STATE, Reg.ARR_EVENT_MOVE_DONE]; omega)).trans
              (gy _ (by decide))
          · rw [← hi2]
            exact State.image_setImage_ne (y.setRstate r RState.moveDest) (Image.flat 0#18) (by omega)
        · have k : ∀ g : Fld, g.addr ≠ 0x405 → g.addr ≠ 0xD08 → g.addr ≠ 0x403 →
              (((u.put Reg.SWP_FAULT_REGION63 1).arrLast 7 15 63).arrEvent Reg.ARR_EVENT_REGION63_RELOC []).get g = t.get g := fun g h1 h2 h3 =>
            (event_get_ne _ _ _ _ _ _ h3).trans ((State.get_setReg_ne _ _ h1).trans ((State.get_put_ne _ _ h2).trans (gu g)))
          refine ⟨k _ ?_ ?_ ?_, (k _ ?_ ?_ ?_).trans v2, .inl ((k _ ?_ ?_ ?_).trans v3), ?_, ?_⟩
          any_goals (simp only [Reg.ARR_MOVE_PHASE, Reg.PART_REGION_STATE]; omega)
          · exact (event_get_apart _ _ _ _ _ _ (by decide) (.inl (by decide))).trans ((State.get_setReg_ne _ _ (by decide)).trans
              ((State.get_put_ne _ _ (by decide)).trans (gu _)))
          · rw [← hi]
            unfold State.image State.arrEvent
            rw [(event_arr _ _ _ _ _).1]
            rfl
    · rw [if_neg h63, if_neg (by rw [ud]; decide), if_pos ud]
      dsimp only
      rw [← hi]
      generalize hc : ({ u with dev := { u.dev with causes := Map.set (fun _ => 0) u.dev.causes dst e.2.1 } } : State) = v
      have gu : ∀ g, v.get g = t.get g := fun g => (get_congr (by rw [← hc]) g).trans (gu g)
      have hi : v.image dst = u.image dst := by
        unfold State.image
        rw [← hc]
      have k : ∀ (w : State) (hs : List PHost) (g : Fld), g.addr < 0xD00 → g.addr ≠ 0x403 →
          ((w.arrEvent Reg.ARR_EVENT_RETIRING hs).log 1 3 (e.2.2 * 2 ^ 6 + dst) 0 0).get g = w.get g := fun w hs g h1 h2 =>
        (log_get _ _ _ _ _ _ _ h1).trans (event_get_ne _ _ _ _ _ _ h2)
      have k2 : ∀ g : Fld, g.addr ≠ 0x405 → g.addr ≠ 0x440 + dst → (((v.leave dst).setRstate dst RState.retiring).arrLast e.2.1 e.2.2 dst).get g = t.get g :=
        fun g h1 h2 => (State.get_setReg_ne _ _ h1).trans ((State.get_put_ne _ _ h2).trans ((get_congr (leave_regs v dst).1 g).trans (gu g)))
      refine ⟨?_, ?_, .inr ?_, ?_, ?_⟩
      · exact (k _ _ _ (by simp only [Reg.ARR_MOVE_PHASE]; omega) (by simp only [Reg.ARR_MOVE_PHASE]; omega)).trans
          (k2 _ (by simp only [Reg.ARR_MOVE_PHASE]; omega) (by simp only [Reg.ARR_MOVE_PHASE]; omega))
      · exact ((k _ _ _ (by simp only [Reg.PART_REGION_STATE]; omega) (by simp only [Reg.PART_REGION_STATE]; omega)).trans
          (k2 _ (by simp only [Reg.PART_REGION_STATE]; omega) (by simp only [Reg.PART_REGION_STATE]; omega))).trans v2
      · exact (k _ _ _ (by simp only [Reg.PART_REGION_STATE]; omega) (by simp only [Reg.PART_REGION_STATE]; omega)).trans
          ((State.get_setReg_ne _ _ (by simp only [Reg.PART_REGION_STATE]; omega)).trans (State.get_put_same _ _ _ (lt_rfl rfl) (lt_rfl rfl)))
      · exact (log_get _ _ _ _ _ _ _ (by decide)).trans ((event_get_apart _ _ _ _ _ _ (by decide) (.inr (by decide))).trans
          ((State.get_setReg_ne _ _ (by decide)).trans ((State.get_put_ne _ _ (by simp only [Reg.PART_REGION_STATE, Reg.ARR_EVENT_MOVE_DONE]; omega)).trans
            ((get_congr (leave_regs v dst).1 _).trans (gu _)))))
      · rw [← hi]
        unfold State.image
        rw [log_arr]
        unfold State.arrEvent
        rw [(event_arr _ _ _ _ _).1]
        show Map.get _ (v.leave dst).arr dst = _
        unfold State.leave
        split <;> rfl

/-- The last steps of a MOVE's switch (R101, phase 3). -/
theorem moveSwitch_facts (s : State) (n : Nat) (hn : n < 8) (ups : List Upset) (hne : s.get (Reg.ARR_MOVE_SRC n) ≠ s.get (Reg.ARR_MOVE_DST n)) :
    (s.moveSwitch n ups).get (Reg.ARR_MOVE_PHASE n) = 2 ∧ (s.moveSwitch n ups).rstate (s.get (Reg.ARR_MOVE_SRC n)) = RState.forward ∧
    ((s.moveSwitch n ups).rstate (s.get (Reg.ARR_MOVE_DST n)) = RState.assigned ∨
      (s.moveSwitch n ups).rstate (s.get (Reg.ARR_MOVE_DST n)) = RState.retiring) ∧
    (s.moveSwitch n ups).get Reg.ARR_EVENT_MOVE_DONE = 1 ∧
    (s.moveSwitch n ups).image (s.get (Reg.ARR_MOVE_DST n)) =
      (copyImage (((s.upsets ups (firstCw (s.get (Reg.ARR_MOVE_SRC n))) (lastCw (s.get (Reg.ARR_MOVE_SRC n)))).markRegion (s.get (Reg.ARR_MOVE_SRC n))).image
        (s.get (Reg.ARR_MOVE_SRC n))) false).1 := by
  have hs : s.get (Reg.ARR_MOVE_SRC n) < 64 := get_lt s _
  have hd : s.get (Reg.ARR_MOVE_DST n) < 64 := get_lt s _
  unfold State.moveSwitch
  dsimp only
  generalize s.get (Reg.ARR_MOVE_SRC n) = src at hs hne
  generalize s.get (Reg.ARR_MOVE_DST n) = dst at hd hne
  generalize (s.upsets ups (firstCw src) (lastCw src)).markRegion src = s1
  generalize hc : copyImage (s1.image src) false = c
  have g0 : ((s1.setImage src { s1.image src with ecc := c.1.ecc }).setImage dst c.1).image dst = c.1 := State.image_setImage_same _ _ _
  generalize (s1.setImage src { s1.image src with ecc := c.1.ecc }).setImage dst c.1 = s2 at g0
  have r1 : ∀ g : Fld, g.addr ≠ 0x403 → g.addr ≠ 0x405 →
      (((((s2.setRstate dst RState.assigned).setRstate src RState.forward).put (Reg.ARR_MOVE_PHASE n) 2).arrLast 5 15 src).arrEvent Reg.ARR_EVENT_MOVE_DONE
        (hostOf (((((s2.setRstate dst RState.assigned).setRstate src RState.forward).put (Reg.ARR_MOVE_PHASE n) 2).arrLast 5 15 src).get (Reg.ARR_MOVE_OWNER n))).toList).get g =
      (((s2.setRstate dst RState.assigned).setRstate src RState.forward).put (Reg.ARR_MOVE_PHASE n) 2).get g := by
    intro g h1 h2
    exact (event_get_ne _ _ _ _ _ _ h1).trans (State.get_setReg_ne _ _ h2)
  have v4 := event_get_same ((((s2.setRstate dst RState.assigned).setRstate src RState.forward).put (Reg.ARR_MOVE_PHASE n) 2).arrLast 5 15 src) Reg.ARR_EVENT_MOVE_DONE 0x404 .array
    (hostOf (((((s2.setRstate dst RState.assigned).setRstate src RState.forward).put (Reg.ARR_MOVE_PHASE n) 2).arrLast 5 15 src).get (Reg.ARR_MOVE_OWNER n))).toList
    (by decide) rfl
  have v5 := (event_arr ((((s2.setRstate dst RState.assigned).setRstate src RState.forward).put (Reg.ARR_MOVE_PHASE n) 2).arrLast 5 15 src) Reg.ARR_EVENT_MOVE_DONE 0x404 .array
    (hostOf (((((s2.setRstate dst RState.assigned).setRstate src RState.forward).put (Reg.ARR_MOVE_PHASE n) 2).arrLast 5 15 src).get (Reg.ARR_MOVE_OWNER n))).toList).1
  have v1 := (r1 (Reg.ARR_MOVE_PHASE n) (by simp only [Reg.ARR_MOVE_PHASE]; omega) (by simp only [Reg.ARR_MOVE_PHASE]; omega)).trans
    (State.get_put_same _ (Reg.ARR_MOVE_PHASE n) 2 (lt_rfl rfl) (lt_rfl rfl))
  have v2 := ((r1 (Reg.PART_REGION_STATE src) (by simp only [Reg.PART_REGION_STATE]; omega) (by simp only [Reg.PART_REGION_STATE]; omega)).trans
      (State.get_put_ne _ _ (by simp only [Reg.PART_REGION_STATE, Reg.ARR_MOVE_PHASE]; omega))).trans
    (State.get_put_same _ (Reg.PART_REGION_STATE src) 3 (lt_rfl rfl) (lt_rfl rfl))
  have v3 := (((r1 (Reg.PART_REGION_STATE dst) (by simp only [Reg.PART_REGION_STATE]; omega) (by simp only [Reg.PART_REGION_STATE]; omega)).trans
      (State.get_put_ne _ _ (by simp only [Reg.PART_REGION_STATE, Reg.ARR_MOVE_PHASE]; omega))).trans
      (State.get_put_ne _ (f := Reg.PART_REGION_STATE src) _ (by simp only [Reg.PART_REGION_STATE]; omega))).trans
    (State.get_put_same s2 (Reg.PART_REGION_STATE dst) 1 (lt_rfl rfl) (lt_rfl rfl))
  change State.arr (State.arrEvent _ _ _) = _ at v5
  change State.get (State.arrEvent _ _ _) _ = _ at v4
  generalize ((((s2.setRstate dst RState.assigned).setRstate src RState.forward).put (Reg.ARR_MOVE_PHASE n) 2).arrLast 5 15 src).arrEvent Reg.ARR_EVENT_MOVE_DONE
        (hostOf (((((s2.setRstate dst RState.assigned).setRstate src RState.forward).put (Reg.ARR_MOVE_PHASE n) 2).arrLast 5 15 src).get (Reg.ARR_MOVE_OWNER n))).toList = t
    at v1 v2 v3 v4 v5
  have hi : t.image dst = c.1 := by
    rw [← g0]
    unfold State.image
    rw [v5]
    rfl
  have fin : ∀ u : State, u.regs = t.regs → u.arr = t.arr → (u.retireLate dst).get (Reg.ARR_MOVE_PHASE n) = 2 ∧ (u.retireLate dst).rstate src = RState.forward ∧
      ((u.retireLate dst).rstate dst = RState.assigned ∨ (u.retireLate dst).rstate dst = RState.retiring) ∧
      (u.retireLate dst).get Reg.ARR_EVENT_MOVE_DONE = 1 ∧ (u.retireLate dst).image dst = c.1 := by
    intro u h1 h2
    obtain ⟨m1, m2, m3, m4, m5⟩ := retireLate_moved u src dst n hs hd hne hn ((get_congr h1 _).trans v2) ((get_congr h1 _).trans v3)
    refine ⟨m1.trans ((get_congr h1 _).trans v1), m2, m3, m4.trans ((get_congr h1 _).trans v4), m5.trans ?_⟩
    rw [← hi]
    unfold State.image
    rw [h2]
  cases hm : t.moveFlight n with
  | none => exact fin t rfl rfl
  | some e => exact fin _ (fixFlight_keeps (fun t => t.regs) (by intros; rfl) _ _ _) (fixFlight_keeps (fun t => t.arr) (by intros; rfl) _ _ _)

theorem upsets_keeps {β : Type} (p : State → β) (hp : ∀ (t : State) (r : Nat) (m : Image), p (t.setImage r m) = p t) (s : State) (us : List Upset)
    (a b : Nat) : p (s.upsets us a b) = p s := by
  unfold State.upsets
  exact foldl_keeps p (fun t u => upset_keeps p hp t u) _ _

/-- What a completed live copy leaves (R98). -/
theorem spareCells_clean (s : State) (c : LiveCopy) (ups : List Upset) (hc : s.SpareClean c ups) : (s.spareCells c ups).dev = s.dev := by
  have up : ∀ (xs : List Upset) (p : Nat) (t : State), (xs.foldl (fun (t : State) u => t.upsetIn p u) t).dev = t.dev := by
    intro xs p t
    refine foldl_keeps (fun t => t.dev) (fun t u => ?_) xs t
    unfold State.upsetIn
    dsimp only
    split <;> rfl
  have h := hc.1
  unfold State.spareUpset at h
  unfold State.spareCells
  dsimp only
  rw [h]
  exact up _ _ _

theorem spareIn_facts (s : State) (c : LiveCopy) (ups : List Upset) (h8 : c.cluster < 8) (hc : s.SpareClean c ups) (hr : c.region < 64) :
    (s.spareIn c ups).get (Reg.PART_REGION_SPARED c.region) = 1 ∧ (s.spareIn c ups).get (Reg.PART_REGION_SPARED_FOR c.region) = c.cluster ∧
    (s.spareIn c ups).dev.copies = s.dev.copies.filter (fun (d : LiveCopy) => decide (d.region ≠ c.region)) ∧
    (s.spareIn c ups).get Reg.ARR_EVENT_SPARE_IN = 1 := by
  have hd3 := spareCells_clean s c ups hc
  unfold State.spareIn
  dsimp only
  generalize s.spareCells c ups = s3 at hd3
  rw [hd3, hc.2]
  generalize h4 : ({ s3 with dev := { s.dev with copies := s.dev.copies.filter (fun (d : LiveCopy) => decide (d.region ≠ c.region)) } } : State) = s4
  have hd4 : s4.dev.copies = s.dev.copies.filter (fun (d : LiveCopy) => decide (d.region ≠ c.region)) := by
    rw [← h4]
  have l1 : ∀ g : Fld, g.addr < 0x4C0 → ∀ (t : State) (a b cc d e : Nat), (t.log a b cc d e).get g = t.get g := by
    intro g hg t a b cc d e
    exact log_keeps (fun t => t.get g) (by intros; rfl) (fun t a w ha => State.get_setReg_ne _ _ (by omega)) (by intros; rfl) _ _ _ _ _ _
  have hce : ∀ (t : State) (ev : Fld) (hs : List PHost) (a b cc d e : Nat), ((t.arrEvent ev hs).log a b cc d e).dev.copies = t.dev.copies := by
    intro t ev hs a b cc d e
    have : ((t.arrEvent ev hs).log a b cc d e).dev.copies = (t.arrEvent ev hs).dev.copies := by
      unfold State.log State.logAt
      split <;> rfl
    rw [this]
    exact congrArg Dev.copies (event_dev t ev _ _ _)
  refine ⟨?_, ?_, ?_, ?_⟩
  · rw [l1 _ (by simp only [Reg.PART_REGION_SPARED]; omega)]
    refine (event_get_ne _ _ _ _ _ _ (by simp only [Reg.PART_REGION_SPARED, Reg.ARR_EVENT_SPARE_IN]; omega)).trans ?_
    refine (State.get_setReg_ne _ _ (by simp only [Reg.PART_REGION_SPARED]; omega)).trans ?_
    refine (State.get_put_apart _ (f := Reg.PART_REGION_SPARED_FOR c.region) (g := Reg.PART_REGION_SPARED c.region) _ (lt_rfl rfl) (.inr (lt_rfl rfl))).trans ?_
    exact State.get_put_same _ (Reg.PART_REGION_SPARED c.region) 1 (lt_rfl rfl) (lt_rfl rfl)
  · rw [l1 _ (by simp only [Reg.PART_REGION_SPARED_FOR]; omega)]
    refine (event_get_ne _ _ _ _ _ _ (by simp only [Reg.PART_REGION_SPARED_FOR, Reg.ARR_EVENT_SPARE_IN]; omega)).trans ?_
    refine (State.get_setReg_ne _ _ (by simp only [Reg.PART_REGION_SPARED_FOR]; omega)).trans ?_
    exact State.get_put_same _ (Reg.PART_REGION_SPARED_FOR c.region) _ (lt_rfl rfl) h8
  · rw [hce]
    exact hd4
  · rw [l1 _ (by decide)]
    exact event_get_same _ Reg.ARR_EVENT_SPARE_IN _ _ _ (by decide) rfl

theorem serve63_facts (s : State) (r : Nat) (ups : List Upset) (hr : r < 63) :
    (s.serve63 r ups).phys63 = r ∧ (s.serve63 r ups).rstate r = RState.retired ∧ (s.serve63 r ups).get (Reg.PART_REGION_PARTITION r) = 0x3F ∧
    (s.serve63 r ups).dev.reloc = none ∧ (s.serve63 r ups).get Reg.ARR_EVENT_REGION63_RELOC = 1 ∧
    (s.serve63 r ups).get (Reg.PART_REGION_SPARED 63) = s.get (Reg.PART_REGION_SPARED r) := by
  unfold State.serve63
  dsimp only
  generalize s.cells63 r ups = s2
  generalize h3 : ({ s2 with phys63 := r, dev := { s2.dev with reloc := none, failed := s2.dev.failed.filter (fun e => decide (e.1 ≠ r)) } } : State) = s3
  have p3 : s3.phys63 = r := by rw [← h3]
  have d3 : s3.dev.reloc = none := by rw [← h3]
  have b1 : s.get (Reg.PART_REGION_SPARED r) < 2 := get_lt s _
  have v1 : (s3.putAll [(Reg.PART_REGION_SPARED 63, s.get (Reg.PART_REGION_SPARED r)), (Reg.PART_REGION_SPARE_BAD 63, s.get (Reg.PART_REGION_SPARE_BAD r)),
      (Reg.PART_REGION_SPARED_FOR 63, s.get (Reg.PART_REGION_SPARED_FOR r))]).get (Reg.PART_REGION_SPARED 63) = s.get (Reg.PART_REGION_SPARED r) := by
    unfold State.putAll
    simp only [List.foldl_cons, List.foldl_nil]
    rw [State.get_put_apart _ _ (by decide) (by decide), State.get_put_apart _ _ (by decide) (by decide)]
    exact State.get_put_same _ _ _ (by decide) b1
  generalize h4 : s3.putAll [(Reg.PART_REGION_SPARED 63, s.get (Reg.PART_REGION_SPARED r)), (Reg.PART_REGION_SPARE_BAD 63, s.get (Reg.PART_REGION_SPARE_BAD r)),
      (Reg.PART_REGION_SPARED_FOR 63, s.get (Reg.PART_REGION_SPARED_FOR r))] = s4 at v1
  have p4 : s4.phys63 = r := by rw [← h4]; exact p3
  have d4 : s4.dev.reloc = none := by rw [← h4]; exact d3
  obtain ⟨g1, g2, g3⟩ := leave_regs s4 r
  have w1 : (s4.leave r).get (Reg.PART_REGION_SPARED 63) = s.get (Reg.PART_REGION_SPARED r) := (get_congr g1 _).trans v1
  generalize s4.leave r = s5 at g2 g3 w1
  refine ⟨?_, ?_, ?_, ?_, ?_, ?_⟩
  · unfold State.arrEvent
    rw [(event_arr _ _ _ _ _).2]
    exact g2.trans p4
  · refine (event_get_ne _ _ (Reg.PART_REGION_STATE r) _ _ _ (by simp only [Reg.PART_REGION_STATE, Reg.ARR_EVENT_REGION63_RELOC]; omega)).trans ?_
    refine (State.get_setReg_ne _ _ (by simp only [Reg.PART_REGION_STATE]; omega)).trans ?_
    refine (State.get_put_apart _ (f := Reg.PART_REGION_PARTITION r) (g := Reg.PART_REGION_STATE r) _ (lt_rfl rfl) (.inr (lt_rfl rfl))).trans ?_
    exact State.get_put_same _ (Reg.PART_REGION_STATE r) 5 (lt_rfl rfl) (lt_rfl rfl)
  · refine (event_get_ne _ _ (Reg.PART_REGION_PARTITION r) _ _ _ (by simp only [Reg.PART_REGION_PARTITION, Reg.ARR_EVENT_REGION63_RELOC]; omega)).trans ?_
    refine (State.get_setReg_ne _ _ (by simp only [Reg.PART_REGION_PARTITION]; omega)).trans ?_
    exact State.get_put_same _ (Reg.PART_REGION_PARTITION r) 0x3F (lt_rfl rfl) (lt_rfl rfl)
  · unfold State.arrEvent
    rw [event_dev]
    exact g3.trans d4
  · exact event_get_same _ Reg.ARR_EVENT_REGION63_RELOC _ _ _ (by decide) rfl
  · refine (event_get_ne _ _ (Reg.PART_REGION_SPARED 63) _ _ _ (by decide)).trans ?_
    refine (State.get_setReg_ne _ _ (by decide)).trans ?_
    refine (State.get_put_ne _ _ (by simp only [Reg.PART_REGION_PARTITION, Reg.PART_REGION_SPARED]; omega)).trans ?_
    refine (State.get_put_ne _ _ (by simp only [Reg.PART_REGION_STATE, Reg.PART_REGION_SPARED]; omega)).trans ?_
    exact w1

theorem get_setAll_zero (es : List (Nat × Word)) (hz : ∀ e, e ∈ es → e.2 = 0#18) : ∀ (m : Map Word) (k : Nat), (∃ e, e ∈ es ∧ e.1 = k) →
    Map.get (fun _ => 0#18) (Map.setAll (fun _ => 0#18) m es) k = 0#18 := by
  have stay : ∀ (es : List (Nat × Word)), (∀ e, e ∈ es → e.2 = 0#18) → ∀ (m : Map Word) (k : Nat), Map.get (fun _ => 0#18) m k = 0#18 →
      Map.get (fun _ => 0#18) (Map.setAll (fun _ => 0#18) m es) k = 0#18 := by
    intro es
    induction es with
    | nil => exact fun _ _ _ h => h
    | cons e es ih =>
      intro hz m k h
      refine ih (fun x hx => hz x (List.mem_cons_of_mem _ hx)) _ k ?_
      by_cases hk : k = e.1
      · subst hk
        rw [Map.get_set_same]
        exact hz e List.mem_cons_self
      · rw [Map.get_set_ne _ _ _ hk]
        exact h
  induction es with
  | nil =>
    rintro m k ⟨e, he, -⟩
    cases he
  | cons e es ih =>
    rintro m k ⟨x, hx, hk⟩
    rcases List.mem_cons.mp hx with rfl | hx
    · refine stay es (fun x hx => hz x (List.mem_cons_of_mem _ hx)) _ k ?_
      rw [← hk, Map.get_set_same]
      exact hz _ List.mem_cons_self
    · exact ih (fun x hx => hz x (List.mem_cons_of_mem _ hx)) _ k ⟨x, hx, hk⟩

/-- Both seals of a region read as erased (R110, R111). -/
theorem eraseSeals_facts (s : State) (r k : Nat) (hk : k < 8) : Map.get (fun _ => 0#18) (s.eraseSeals r).sealA (8 * r + k) = 0#18 ∧
    Map.get (fun _ => 0#18) (s.eraseSeals r).sealB (8 * r + k) = 0#18 := by
  have h1 : ∀ e, e ∈ (List.range 8).map (fun k => (8 * r + k, 0#18)) → e.2 = 0#18 := by
    intro e he
    obtain ⟨x, -, rfl⟩ := List.mem_map.mp he
    rfl
  have h2 : ∃ e, e ∈ (List.range 8).map (fun k => (8 * r + k, 0#18)) ∧ e.1 = 8 * r + k :=
    ⟨_, List.mem_map.mpr ⟨k, List.mem_range.mpr hk, rfl⟩, rfl⟩
  exact ⟨get_setAll_zero _ h1 _ _ h2, get_setAll_zero _ h1 _ _ h2⟩

end Sys2Proof.Machine
end

