-- ==== Sys2Proof/Laws/Same.lean ====
section
/-! SUPPORT. What the stamps of the ledger, the events and the spoils of a station leave as it was. -/

-- Proof bodies are elaborated in order: elaborated in parallel they wait on one another, each in a thread of its own.
set_option Elab.async false

namespace Sys2Proof.Machine
open Sys2Proof

/-! What an operation keeps: the registers that P names, the stations, the descriptors in progress and the parts no event writes. -/

def Same (P : Nat → Prop) (s t : State) : Prop :=
  (∀ a, P a → t.reg a = s.reg a) ∧ t.stns = s.stns ∧ t.flights = s.flights ∧ t.pwr = s.pwr ∧ t.rtc = s.rtc ∧ t.keep = s.keep ∧ t.encs = s.encs ∧
    t.mboxes = s.mboxes ∧ t.poss = s.poss ∧ t.phys63 = s.phys63

theorem Same.rfl' {P : Nat → Prop} (s : State) : Same P s s := ⟨fun _ _ => rfl, rfl, rfl, rfl, rfl, rfl, rfl, rfl, rfl, rfl⟩

theorem Same.trans' {P : Nat → Prop} {s t u : State} (a : Same P s t) (b : Same P t u) : Same P s u :=
  ⟨fun x hx => (b.1 x hx).trans (a.1 x hx), b.2.1.trans a.2.1, b.2.2.1.trans a.2.2.1, b.2.2.2.1.trans a.2.2.2.1, b.2.2.2.2.1.trans a.2.2.2.2.1,
    b.2.2.2.2.2.1.trans a.2.2.2.2.2.1, b.2.2.2.2.2.2.1.trans a.2.2.2.2.2.2.1, b.2.2.2.2.2.2.2.1.trans a.2.2.2.2.2.2.2.1,
    b.2.2.2.2.2.2.2.2.1.trans a.2.2.2.2.2.2.2.2.1, b.2.2.2.2.2.2.2.2.2.trans a.2.2.2.2.2.2.2.2.2⟩

theorem Same.mono {P Q : Nat → Prop} {s t : State} (h : Same P s t) (hq : ∀ a, Q a → P a) : Same Q s t := ⟨fun a ha => h.1 a (hq a ha), h.2⟩

theorem Same.fold {P : Nat → Prop} {α : Type} {f : State → α → State} (hf : ∀ t x, Same P t (f t x)) (xs : List α) : ∀ s, Same P s (xs.foldl f s) := by
  induction xs with
  | nil => exact fun s => Same.rfl' s
  | cons x xs ih => exact fun s => (hf s x).trans' (ih _)

theorem Same.ite {P : Nat → Prop} {c : Prop} [Decidable c] {s t u : State} (h1 : Same P s t) (h2 : Same P s u) : Same P s (if c then t else u) := by
  split
  · exact h1
  · exact h2

theorem Same.of {P : Nat → Prop} {s t : State} (h1 : t.regs = s.regs) (h2 : t.stns = s.stns) (h3 : t.flights = s.flights) (h4 : t.pwr = s.pwr) (h5 : t.rtc = s.rtc)
    (h6 : t.keep = s.keep) (h7 : t.encs = s.encs) (h8 : t.mboxes = s.mboxes) (h9 : t.poss = s.poss) (h10 : t.phys63 = s.phys63) : Same P s t :=
  ⟨fun _ _ => reg_congr h1 _, h2, h3, h4, h5, h6, h7, h8, h9, h10⟩

theorem Same.setReg {P : Nat → Prop} (s : State) (b : Nat) (w : Word) (h : ∀ a, P a → a ≠ b) : Same P s (s.setReg b w) :=
  ⟨fun a ha => State.reg_setReg_ne _ _ (h a ha), rfl, rfl, rfl, rfl, rfl, rfl, rfl, rfl, rfl⟩

theorem Same.put {P : Nat → Prop} (s : State) (f : Fld) (v : Nat) (h : ∀ a, P a → a ≠ f.addr) : Same P s (s.put f v) := Same.setReg s _ _ h

theorem Same.bump {P : Nat → Prop} (s : State) (f : Fld) (h : ∀ a, P a → a ≠ f.addr) : Same P s (s.bump f) := by
  unfold State.bump
  exact Same.ite (Same.put s _ _ h) (Same.rfl' s)

theorem Same.notify {P : Nat → Prop} (s : State) (c : IClass) (h : PHost) : Same P s (s.notify c h) := by
  unfold State.notify State.msix
  dsimp only
  split_ifs <;> exact Same.of rfl rfl rfl rfl rfl rfl rfl rfl rfl rfl

theorem Same.event {P : Nat → Prop} (s : State) (ev : Fld) (a : Nat) (c : IClass) (hs : List PHost) (h : ∀ b, P b → b ≠ ev.addr) :
    Same P s (s.event ev a c hs) := by
  unfold State.event
  dsimp only
  exact Same.ite (Same.put s _ _ h) (Same.ite ((Same.put s _ _ h).trans' (Same.fold (fun t g => Same.notify t c g) _ _)) (Same.put s _ _ h))

theorem Same.get {P : Nat → Prop} {s t : State} (h : Same P s t) (f : Fld) (hf : P f.addr) : t.get f = s.get f := by
  unfold State.get
  rw [h.1 _ hf]

theorem Same.flag {P : Nat → Prop} {s t : State} (h : Same P s t) (f : Fld) (hf : P f.addr) : t.flag f = s.flag f := by
  unfold State.flag
  rw [h.get f hf]

theorem Same.stn {P : Nat → Prop} {s t : State} (h : Same P s t) (n : Nat) : t.stn n = s.stn n := stn_congr h.2.1 n

/-! An access (R82, R357). -/

/-- The registers that no access writes: from the partitions' attributes on, but Sweeper's yields and faults and the health log's place. -/
def offAccess (a : Nat) : Prop := 0x480 ≤ a ∧ a ≠ 0xD04 ∧ a ≠ 0xD08 ∧ a ≠ 0xD0A ∧ a ≠ 0xD0B

theorem Same.arrEventOff (s : State) (ev : Fld) (hs : List PHost) (h : ev.addr < 0x480) : Same offAccess s (s.arrEvent ev hs) :=
  Same.event _ _ _ _ _ (fun a ha => by unfold offAccess at ha; omega)

theorem Same.logOff (s : State) (a b c d e : Nat) : Same offAccess s (s.log a b c d e) := by
  have k : ∀ (u : State) v, Same offAccess u (u.put36 Reg.SWP_LOG_SEQ_LO Reg.SWP_LOG_SEQ_HI v) := fun u v =>
    (Same.setReg u 0xD0A _ (fun a (ha : offAccess a) => by unfold offAccess at ha; omega)).trans' (Same.setReg _ 0xD0B _ (fun a (ha : offAccess a) => by unfold offAccess at ha; omega))
  unfold State.log
  refine Same.ite ?_ (Same.of rfl rfl rfl rfl rfl rfl rfl rfl rfl rfl)
  unfold State.logAt
  dsimp only
  exact Same.trans' (Same.of rfl rfl rfl rfl rfl rfl rfl rfl rfl rfl) (k _ _)

theorem Same.yieldHeld (s : State) : Same offAccess s s.yieldHeld := by
  unfold State.yieldHeld
  split
  · unfold State.bump
    refine Same.ite (Same.trans' (t := { s with fw := _ }) ?_ (Same.setReg _ 0xD04 _ (fun a (ha : offAccess a) => by unfold offAccess at ha; omega))) ?_
    · exact Same.of rfl rfl rfl rfl rfl rfl rfl rfl rfl rfl
    · exact Same.of rfl rfl rfl rfl rfl rfl rfl rfl rfl rfl
  · exact Same.rfl' s

theorem Same.yieldWindow (s : State) (r : Nat) : Same offAccess s (s.yieldWindow r) := by
  unfold State.yieldWindow
  split
  · exact Same.ite (Same.yieldHeld s) (Same.rfl' s)
  · exact Same.rfl' s

theorem Same.access (s : State) (r cw : Nat) : Same offAccess s (s.access r cw) := by
  unfold State.access
  split
  · exact Same.ite (Same.yieldHeld s) (Same.rfl' s)
  · exact Same.rfl' s

theorem Same.setRstate (s : State) (r v : Nat) (h : r < 64) : Same offAccess s (s.setRstate r v) :=
  Same.setReg _ (0x440 + r) _ (fun a (ha : offAccess a) => by unfold offAccess at ha; omega)

theorem Same.arrLast (s : State) (a b c : Nat) : Same offAccess s (s.arrLast a b c) := Same.setReg _ 0x405 _ (fun a (ha : offAccess a) => by unfold offAccess at ha; omega)

theorem Same.relocate (s : State) : Same offAccess s s.relocate := by
  unfold State.relocate
  split
  · exact Same.rfl' s
  · split
    · next r hr =>
      have hr : r < 64 := by
        have := List.find?_some hr
        simp only [decide_eq_true_eq] at this
        omega
      exact ((((Same.yieldWindow s 63).trans' (Same.yieldWindow _ r)).trans' (Same.setRstate _ r _ hr))).trans' (Same.of rfl rfl rfl rfl rfl rfl rfl rfl rfl rfl)
    · exact ((Same.setReg _ 0xD08 _ (fun a (ha : offAccess a) => by unfold offAccess at ha; omega)).trans' (Same.arrLast _ _ _ _)).trans' (Same.arrEventOff _ _ _ (by decide))

theorem Same.leave (s : State) (r : Nat) : Same offAccess s (s.leave r) := Same.ite (Same.rfl' s) (Same.of rfl rfl rfl rfl rfl rfl rfl rfl rfl rfl)

theorem Same.retire (s : State) (r a b : Nat) (h : r < 64) : Same offAccess s (s.retire r a b) := by
  unfold State.retire
  refine Same.ite (Same.relocate s) (Same.ite ?_ (Same.ite ?_ (Same.ite (Same.of rfl rfl rfl rfl rfl rfl rfl rfl rfl rfl) (Same.rfl' s))))
  · exact (((((Same.leave s r).trans' (Same.setRstate _ r _ h)).trans' (Same.setReg _ (0x440 + r) _ (fun a (ha : offAccess a) => by unfold offAccess at ha; omega))).trans'
      (Same.arrLast _ _ _ _)).trans' (Same.arrEventOff _ _ _ (by decide))).trans' (Same.logOff _ _ _ _ _ _)
  · dsimp only
    refine Same.trans' (Same.of rfl rfl rfl rfl rfl rfl rfl rfl rfl rfl) (t := { s with dev := { s.dev with causes := Map.set (fun _ => 0) s.dev.causes r a } }) ?_
    exact ((((Same.leave _ r).trans' (Same.setRstate _ r _ h)).trans'
      (Same.arrLast _ _ _ _)).trans' (Same.arrEventOff _ _ _ (by decide))).trans' (Same.logOff _ _ _ _ _ _)

theorem Same.replace (s : State) (r a b : Nat) (h : r < 64) : Same offAccess s (s.replace r a b) := by
  unfold State.replace
  refine Same.ite (Same.rfl' s) ?_
  split
  · exact Same.ite (Same.rfl' s) (Same.of rfl rfl rfl rfl rfl rfl rfl rfl rfl rfl)
  · exact Same.ite (Same.retire s r b a h) ((Same.yieldWindow s r).trans' (Same.of rfl rfl rfl rfl rfl rfl rfl rfl rfl rfl))

theorem Same.markIn (s : State) (p r cw : Nat) (h : r < 64) : Same offAccess s (s.markIn p r cw) := by
  have k : ∀ u : State, ∀ v, Same offAccess u (u.put36 Reg.ARR_UNCORR_LO Reg.ARR_UNCORR_HI v) := fun u v =>
    (Same.setReg u 0x406 _ (fun a (ha : offAccess a) => by unfold offAccess at ha; omega)).trans' (Same.setReg _ 0x407 _ (fun a (ha : offAccess a) => by unfold offAccess at ha; omega))
  unfold State.markIn
  dsimp only
  generalize (if s.viewIn r cw = true then _ else _ : Image) = g
  have h0 : Same offAccess s (s.setImage p g) := Same.of rfl rfl rfl rfl rfl rfl rfl rfl rfl rfl
  exact ((((h0.trans' (k _ cw)).trans' (Same.arrLast _ _ _ _)).trans' (Same.arrEventOff _ _ _ (by decide))).trans'
    (Same.logOff _ _ _ _ _ _)).trans' (Same.replace _ _ _ _ h)

theorem follow_lt (s : State) (n : Nat) : ∀ r, r < 64 → s.follow n r < 64 := by
  induction n with
  | zero => exact fun r h => h
  | succ n ih =>
    intro r h
    unfold State.follow
    split
    · split
      · exact ih _ (State.get_lt s _)
      · exact h
    · exact h

theorem cwOwner_lt (s : State) (cw : Nat) : s.cwOwner cw < 64 := follow_lt s 8 _ (Nat.mod_lt _ (by decide))

/-- An access leaves the firmware's registers and the power state (R82, R357). -/
theorem Same.touch (s : State) (cw : Nat) : Same offAccess s (s.touch cw).1 := by
  have h := Same.access s (s.cwOwner cw) cw
  unfold State.touch
  dsimp only
  split
  · exact h
  · exact h
  · exact h.trans' (Same.markIn _ _ _ _ (cwOwner_lt _ _))
  · exact h

theorem Same.meetCws (n : Nat) : ∀ (s : State) (cw : Nat), Same offAccess s (s.meetCws n cw) := by
  induction n with
  | zero => exact fun s _ => Same.rfl' s
  | succ n ih => exact fun s cw => (Same.touch s cw).trans' (ih _ _)

/-- The device reads a record (R83). -/
theorem Same.meetRec (s : State) (i : Nat) : Same offAccess s (s.meetRec i) := Same.meetCws _ _ _

/-! The same of the descriptors in progress, the rings, the links and what was sent. -/

theorem Quiet.arrEventOff (s : State) (ev : Fld) (hs : List PHost) (h : ev.addr < 0x480) : Quiet s (s.arrEvent ev hs) :=
  Quiet.event _ _ _ _ _ (.inl (by omega))

theorem Quiet.logOff (s : State) (a b c d e : Nat) : Quiet s (s.log a b c d e) := by
  have k : ∀ (u : State) v, Quiet u (u.put36 Reg.SWP_LOG_SEQ_LO Reg.SWP_LOG_SEQ_HI v) := fun u v =>
    (Quiet.setReg u 0xD0A _ (by omega)).trans' (Quiet.setReg _ 0xD0B _ (by omega))
  unfold State.log
  refine Quiet.ite ?_ (Quiet.of rfl rfl rfl rfl rfl)
  unfold State.logAt
  dsimp only
  refine Quiet.trans' (t := { s with dev := _ }) ?_ (k _ _)
  exact Quiet.of rfl rfl rfl rfl rfl

theorem Quiet.yieldHeld (s : State) : Quiet s s.yieldHeld := by
  unfold State.yieldHeld
  split
  · unfold State.bump
    refine Quiet.ite (Quiet.trans' (t := { s with fw := _ }) ?_ (Quiet.setReg _ 0xD04 _ (by omega))) ?_
    · exact Quiet.of rfl rfl rfl rfl rfl
    · exact Quiet.of rfl rfl rfl rfl rfl
  · exact Quiet.rfl' s

theorem Quiet.yieldWindow (s : State) (r : Nat) : Quiet s (s.yieldWindow r) := by
  unfold State.yieldWindow
  split
  · exact Quiet.ite (Quiet.yieldHeld s) (Quiet.rfl' s)
  · exact Quiet.rfl' s

theorem Quiet.access (s : State) (r cw : Nat) : Quiet s (s.access r cw) := by
  unfold State.access
  split
  · exact Quiet.ite (Quiet.yieldHeld s) (Quiet.rfl' s)
  · exact Quiet.rfl' s

theorem Quiet.setRstate (s : State) (r v : Nat) (h : r < 64) : Quiet s (s.setRstate r v) :=
  Quiet.setReg _ (0x440 + r) _ (by omega)

theorem Quiet.arrLast (s : State) (a b c : Nat) : Quiet s (s.arrLast a b c) := Quiet.setReg _ 0x405 _ (by omega)

theorem Quiet.relocate (s : State) : Quiet s s.relocate := by
  unfold State.relocate
  split
  · exact Quiet.rfl' s
  · split
    · next r hr =>
      have hr : r < 64 := by
        have := List.find?_some hr
        simp only [decide_eq_true_eq] at this
        omega
      exact ((((Quiet.yieldWindow s 63).trans' (Quiet.yieldWindow _ r)).trans' (Quiet.setRstate _ r _ hr))).trans' (Quiet.of rfl rfl rfl rfl rfl)
    · exact ((Quiet.setReg _ 0xD08 _ (by omega)).trans' (Quiet.arrLast _ _ _ _)).trans' (Quiet.arrEventOff _ _ _ (by decide))

theorem Quiet.leave (s : State) (r : Nat) : Quiet s (s.leave r) := Quiet.ite (Quiet.rfl' s) (Quiet.of rfl rfl rfl rfl rfl)

theorem Quiet.retire (s : State) (r a b : Nat) (h : r < 64) : Quiet s (s.retire r a b) := by
  unfold State.retire
  refine Quiet.ite (Quiet.relocate s) (Quiet.ite ?_ (Quiet.ite ?_ (Quiet.ite (Quiet.of rfl rfl rfl rfl rfl) (Quiet.rfl' s))))
  · exact (((((Quiet.leave s r).trans' (Quiet.setRstate _ r _ h)).trans' (Quiet.setReg _ (0x440 + r) _ (by omega))).trans'
      (Quiet.arrLast _ _ _ _)).trans' (Quiet.arrEventOff _ _ _ (by decide))).trans' (Quiet.logOff _ _ _ _ _ _)
  · dsimp only
    refine Quiet.trans' (Quiet.of rfl rfl rfl rfl rfl) (t := { s with dev := { s.dev with causes := Map.set (fun _ => 0) s.dev.causes r a } }) ?_
    exact ((((Quiet.leave _ r).trans' (Quiet.setRstate _ r _ h)).trans'
      (Quiet.arrLast _ _ _ _)).trans' (Quiet.arrEventOff _ _ _ (by decide))).trans' (Quiet.logOff _ _ _ _ _ _)

theorem Quiet.replace (s : State) (r a b : Nat) (h : r < 64) : Quiet s (s.replace r a b) := by
  unfold State.replace
  refine Quiet.ite (Quiet.rfl' s) ?_
  split
  · exact Quiet.ite (Quiet.rfl' s) (Quiet.of rfl rfl rfl rfl rfl)
  · exact Quiet.ite (Quiet.retire s r b a h) ((Quiet.yieldWindow s r).trans' (Quiet.of rfl rfl rfl rfl rfl))

theorem Quiet.markIn (s : State) (p r cw : Nat) (h : r < 64) : Quiet s (s.markIn p r cw) := by
  have k : ∀ u : State, ∀ v, Quiet u (u.put36 Reg.ARR_UNCORR_LO Reg.ARR_UNCORR_HI v) := fun u v =>
    (Quiet.setReg u 0x406 _ (by omega)).trans' (Quiet.setReg _ 0x407 _ (by omega))
  unfold State.markIn
  dsimp only
  generalize (if s.viewIn r cw = true then _ else _ : Image) = g
  have h0 : Quiet s (s.setImage p g) := Quiet.of rfl rfl rfl rfl rfl
  exact ((((h0.trans' (k _ cw)).trans' (Quiet.arrLast _ _ _ _)).trans' (Quiet.arrEventOff _ _ _ (by decide))).trans'
    (Quiet.logOff _ _ _ _ _ _)).trans' (Quiet.replace _ _ _ _ h)

/-- An access leaves the descriptors, the rings and the links, and what was sent (R82, R357). -/
theorem Quiet.touch (s : State) (cw : Nat) : Quiet s (s.touch cw).1 := by
  have h := Quiet.access s (s.cwOwner cw) cw
  unfold State.touch
  dsimp only
  split
  · exact h
  · exact h
  · exact h.trans' (Quiet.markIn _ _ _ _ (cwOwner_lt _ _))
  · exact h

theorem Quiet.meetCws (n : Nat) : ∀ (s : State) (cw : Nat), Quiet s (s.meetCws n cw) := by
  induction n with
  | zero => exact fun s _ => Quiet.rfl' s
  | succ n ih => exact fun s cw => (Quiet.touch s cw).trans' (ih _ _)

/-- The device reads a record (R83). -/
theorem Quiet.meetRec (s : State) (i : Nat) : Quiet s (s.meetRec i) := Quiet.meetCws _ _ _

/-- The registers of the stations. -/
def belowLed (a : Nat) : Prop := 0x800 ≤ a ∧ a < 0xC00

theorem belowLed_off {a : Nat} (h : belowLed a) : offAccess a := by
  unfold belowLed at h
  unfold offAccess
  omega

theorem Same.meetRecStn (s : State) (i : Nat) : Same belowLed s (s.meetRec i) := (Same.meetRec s i).mono (fun _ h => belowLed_off h)

/-- The registers of the stations that a spoil of station n does not write. -/
def offSpoil (n a : Nat) : Prop := (0x800 ≤ a ∧ a < 0xC00) ∧ a ≠ 0x803 + 0x80 * n ∧ a ≠ 0x81B + 0x80 * n ∧ a ≠ 0x81C + 0x80 * n

/-- Cells, Sweeper's window and its yield count (R357). -/
theorem Same.touched {P : Nat → Prop} {s t : State} (h : Touched s t) (hP : ∀ a, P a → a ≠ 0xD04) : Same P s t :=
  ⟨fun a ha => h.2 a (hP a ha), h.field State.stns (by intros; rfl), h.field State.flights (by intros; rfl), h.field State.pwr (by intros; rfl),
    h.field State.rtc (by intros; rfl), h.field State.keep (by intros; rfl), h.field State.encs (by intros; rfl), h.field State.mboxes (by intros; rfl),
    h.field State.poss (by intros; rfl), h.field State.phys63 (by intros; rfl)⟩

theorem below_noYield (a : Nat) (ha : belowLed a) : a ≠ 0xD04 := by
  unfold belowLed at ha
  omega

theorem Same.setRecord {P : Nat → Prop} (hP : ∀ a, P a → a ≠ 0xD04) (s : State) (i : Nat) (r : Rec) : Same P s (s.setRecord i r) :=
  Same.touched (touched_setW18s _ _ _) hP

theorem Same.ledEvent (s : State) (ev : Fld) (h : 0xC00 ≤ ev.addr) : Same belowLed s (s.ledEvent ev) :=
  Same.event _ _ _ _ _ (fun a (ha : 0x800 ≤ a ∧ a < 0xC00) => by omega)

theorem Same.countOne (s : State) (i : Nat) (c : Bool) : Same belowLed s (s.countOne i c) := by
  unfold State.countOne
  refine Same.ite (Same.of rfl rfl rfl rfl rfl rfl rfl rfl rfl rfl) (Same.ite (Same.ledEvent _ _ (by decide)) ?_)
  dsimp only
  have h1 : Same belowLed s (s.setCounter i (s.counter i + 1)) := Same.of rfl rfl rfl rfl rfl rfl rfl rfl rfl rfl
  have h2 := Same.ite (c := (s.setCounter i (s.counter i + 1)).counter i = counterMax) (h1.trans' (Same.ledEvent _ Reg.LED_EVENT_SAT (by decide))) h1
  have h3 := fun (x : Ledger) => h2.trans' (Same.of (t := { (if (s.setCounter i (s.counter i + 1)).counter i = counterMax then
    (s.setCounter i (s.counter i + 1)).ledEvent Reg.LED_EVENT_SAT else s.setCounter i (s.counter i + 1)) with led := x }) rfl rfl rfl rfl rfl rfl rfl rfl rfl rfl)
  exact Same.ite ((h3 _).trans' (Same.put _ _ _ (fun a (ha : 0x800 ≤ a ∧ a < 0xC00) => by show a ≠ 0xC2A; omega))) (h3 _)

theorem Same.count (s : State) (xs : List Nat) (c : Bool) : Same belowLed s (s.count xs c) :=
  Same.fold (fun t i => Same.ite (Same.countOne t i c) (Same.rfl' t)) _ _

theorem Same.unqueue {P : Nat → Prop} (s : State) (i : Nat) : Same P s (s.unqueue i) :=
  Same.fold (fun t q => Same.of (t := t.setQueue q ((t.queue q).filter (fun j => decide (j ≠ i)))) rfl rfl rfl rfl rfl rfl rfl rfl rfl rfl) _ _

theorem Same.requeue {P : Nat → Prop} (s : State) (i p : Nat) : Same P s (s.requeue i p) := by
  unfold State.requeue
  dsimp only
  have h : Same P s ((List.range (p - 3)).foldl (fun t q => t.setQueue q ((t.queue q).filter (fun j => decide (j ≠ i)))) s) :=
    Same.fold (fun t q => Same.of (t := t.setQueue q ((t.queue q).filter (fun j => decide (j ≠ i)))) rfl rfl rfl rfl rfl rfl rfl rfl rfl rfl) _ _
  split
  · exact h.trans' (Same.ite (Same.rfl' _) (Same.of rfl rfl rfl rfl rfl rfl rfl rfl rfl rfl))
  · exact h

theorem Same.rasterComplete {P : Nat → Prop} (hP : ∀ a, P a → a ≠ 0xD04) (s : State) (i t : Nat) : Same P s (s.rasterComplete i t) := by
  unfold State.rasterComplete
  exact Same.ite (Same.setRecord hP _ _ _) (Same.rfl' _)

theorem Same.stampProgress (s : State) (i p t : Nat) : Same belowLed s (s.stampProgress i p t) := by
  unfold State.stampProgress
  dsimp only
  have h := (Same.setRecord below_noYield s i { (s.record i).setProgress p with time := t }).trans' (Same.requeue _ i p)
  exact Same.ite (h.trans' (Same.count _ _ _)) (Same.ite (h.trans' (Same.count _ _ _)) h)

theorem Same.stampImaged {P : Nat → Prop} (hP : ∀ a, P a → a ≠ 0xD04) (s : State) (i m t : Nat) : Same P s (s.stampImaged i m t) := by
  unfold State.stampImaged
  dsimp only
  exact Same.ite ((Same.setRecord hP s i _).trans' (Same.requeue _ i 3)) ((Same.setRecord hP s i _).trans' (Same.rasterComplete hP _ _ _))

theorem Same.stampSpoil (s : State) (i c t : Nat) : Same belowLed s (s.stampSpoil i c t) := by
  unfold State.stampSpoil
  dsimp only
  exact Same.ite ((Same.setRecord below_noYield s i _).trans' (Same.count _ _ _)) (Same.rfl' _)

theorem Same.ledApply (s : State) (e : LedEvent) : Same belowLed s (s.ledApply e) := by
  cases e with
  | pulse pin t =>
    unfold State.ledApply
    dsimp only
    split
    · refine (Same.bump _ _ ?_).trans' (Same.ledEvent _ _ (by decide))
      intro a (ha : 0x800 ≤ a ∧ a < 0xC00)
      unfold strayField
      split
      · show a ≠ 0xC09; omega
      · show a ≠ 0xC09; omega
      · show a ≠ 0xC09; omega
    · exact (Same.meetRecStn s _).trans' (Same.stampProgress _ _ _ _)
  | jam taken t =>
    unfold State.ledApply
    dsimp only
    refine Same.trans' ?_ (Same.fold (fun u i => (Same.meetRecStn u i).trans' (Same.stampSpoil _ i 9 t)) _ _)
    have h : Same belowLed s ([0, 1, 2].foldl (fun (u : State) q => u.setQueue q ((u.queue q).filter (fun i => !taken.contains i))) s) :=
      Same.fold (fun u q => Same.of (t := u.setQueue q ((u.queue q).filter (fun i => !taken.contains i))) rfl rfl rfl rfl rfl rfl rfl rfl rfl rfl) _ _
    exact Same.ite ((h.trans' (Same.count _ _ _)).trans' (Same.bump _ _ (fun a (ha : 0x800 ≤ a ∧ a < 0xC00) => by show a ≠ 0xC09; omega))) (h.trans' (Same.count _ _ _))
  | descriptor h q g => exact Same.rfl' s
  | imaged n recs t => exact Same.fold (fun u i => Same.ite ((Same.meetRecStn u i).trans' (Same.stampImaged below_noYield _ _ _ _)) (Same.meetRecStn u i)) _ _
  | spoil recs cause t => exact Same.fold (fun u i => (Same.meetRecStn u i).trans' (Same.stampSpoil _ _ _ _)) _ _
  | timeout q i t =>
    exact Same.ite ((((Same.meetRecStn s i).trans' (Same.unqueue _ i)).trans' (Same.stampSpoil _ _ _ _)).trans' (Same.ledEvent _ _ (by decide))) (Same.rfl' _)

theorem Same.ledEventNow (s : State) (e : LedEvent) : Same belowLed s (s.ledEventNow e) := by
  unfold State.ledEventNow
  exact Same.ite (Same.of rfl rfl rfl rfl rfl rfl rfl rfl rfl rfl) (Same.ledApply _ _)

theorem Same.stnEvent {P : Nat → Prop} (s : State) (n : Nat) (ev : Nat → Fld) (h : ∀ a, P a → a ≠ (ev n).addr) : Same P s (s.stnEvent n ev) :=
  Same.event _ _ _ _ _ h

theorem Same.stnSpoil (s : State) (n : Nat) (recs : List Nat) (c : Nat) : Same (offSpoil n) s (s.stnSpoil n recs c) := by
  unfold State.stnSpoil
  dsimp only
  refine Same.ite (Same.rfl' _) ?_
  refine ((((Same.ledEventNow s _).mono (fun a ha => ha.1)).trans' (Same.put _ _ _ (fun a ha => ha.2.2.1))).trans'
    (Same.fold (fun t _ => Same.bump t _ (fun a ha => ha.2.2.2)) _ _)).trans' (Same.stnEvent _ _ _ (fun a ha => ha.2.1))

theorem Same.drawWord_eq (s : State) : Same (fun _ => True) s s.drawWord.2 := Same.of rfl rfl rfl rfl rfl rfl rfl rfl rfl rfl

theorem Same.rasterTry {P : Nat → Prop} (hP : ∀ a, P a → a ≠ 0xD04) (s : State) (i : Nat) : Same P s (s.rasterTry i) :=
  by
  obtain ⟨l, h⟩ := rasterTry_facts s i
  exact Same.trans' (t := { s with led := l }) (Same.of rfl rfl rfl rfl rfl rfl rfl rfl rfl rfl) (Same.touched h hP)

/-! Completions written and the imaging path. -/

theorem msix_keeps {β : Type} (p : State → β) (h1 : ∀ (t : State) x, p { t with hosts := x } = p t) (h2 : ∀ (t : State) o, p (t.emit o) = p t) (s : State)
    (h : PHost) (v : Nat) : p (s.msix h v) = p s := by
  have k : ∀ (t : State) g x, p (t.setHost g x) = p t := fun t g x => h1 t _
  unfold State.msix
  dsimp only
  split_ifs <;> first
    | rfl
    | exact k _ _ _
    | exact (h2 _ _).trans (k _ _ _)

theorem retireAll_keeps {β : Type} (p : State → β) (h1 : ∀ (t : State) x, p { t with hosts := x } = p t) (h2 : ∀ (t : State) o, p (t.emit o) = p t)
    (h3 : ∀ (t : State) x, p { t with flights := x } = p t) (h4 : ∀ (t : State) a w, 0x720 ≤ a → a < 0x800 → p (t.setReg a w) = p t) (s : State) :
    p s.retireAll = p s := by
  have kh : ∀ (t : State) g x, p (t.setHost g x) = p t := fun t g x => h1 t _
  have kw : ∀ (t : State) (h : PHost) (q j : Ring) tag c r e, p (t.writeCompl h q j tag c r e) = p t := by
    intro t h q j tag c r e
    have hq := q.isLt
    have hh := h.isLt
    have kc : ∀ u : State, p (u.cqCount h q.val) = p u := by
      intro u
      unfold State.cqCount State.cqSend
      dsimp only
      split
      · exact (msix_keeps p h1 h2 _ _ _).trans ((kh _ _ _).trans (kh _ _ _))
      · exact kh _ _ _
    unfold State.writeCompl
    refine (kc _).trans ?_
    refine (h4 _ (0x744 + 0x38 * h.val + q.val) _ (by omega) (by omega)).trans ?_
    refine (h4 _ (0x744 + 0x38 * h.val + q.val) _ (by omega) (by omega)).trans ?_
    exact (h2 _ _).trans (kh _ _ _)
  have kr : ∀ (n : Nat) (t : State) (h : PHost) (j : Ring), p (t.retireSq h j n) = p t := by
    intro n
    induction n with
    | zero => exact fun _ _ _ => rfl
    | succ n ih =>
      intro t h j
      unfold State.retireSq
      split
      · split
        · dsimp only
          refine (ih _ _ _).trans ?_
          split
          · exact (kw _ _ _ _ _ _ _ _).trans (h3 _ _)
          · exact h3 _ _
        · rfl
      · rfl
  have ks : ∀ (t : State) (h : PHost) (j : Ring), p (t.settleSq h j.val) = p t := by
    intro t h j
    have hq := j.isLt
    have hh := h.isLt
    unfold State.settleSq
    split
    · exact h4 _ (0x740 + 0x38 * h.val + j.val) _ (by omega) (by omega)
    · rfl
  unfold State.retireAll
  refine foldl_keeps p (fun t h => ?_) _ _
  unfold State.retireHost
  split
  · exact foldl_keeps p (fun u j => (ks _ _ _).trans (kr _ _ _ _)) _ _
  · rfl

theorem retireAll_same {P : Nat → Prop} (hP : ∀ a, P a → a < 0x720 ∨ 0x800 ≤ a) (s : State) : (∀ a, P a → s.retireAll.reg a = s.reg a) ∧
    s.retireAll.stns = s.stns ∧ s.retireAll.pwr = s.pwr :=
  ⟨fun a ha => retireAll_keeps (fun t => t.reg a) (by intros; rfl) (by intros; rfl) (by intros; rfl)
    (fun t b w h1 h2 => State.reg_setReg_ne _ _ (by rcases hP a ha with h | h <;> omega)) s,
    retireAll_keeps (fun t => t.stns) (by intros; rfl) (by intros; rfl) (by intros; rfl) (by intros; rfl) s,
    retireAll_keeps (fun t => t.pwr) (by intros; rfl) (by intros; rfl) (by intros; rfl) (by intros; rfl) s⟩

/-- Swaps that take effect change the tables, the descriptors and STN_TBL_CTL alone. -/
theorem swapsDue_keeps {β : Type} (p : State → β) (n : Nat) (h1 : ∀ (t : State) (st : Map Table), p (t.setStn n { t.stn n with tables := st }) = p t)
    (h2 : ∀ (t : State) x, p { t with flights := x } = p t) (h3 : ∀ (t : State) w, p (t.setReg (0x81A + 0x80 * n) w) = p t) (s : State) (due : Nat → Bool) :
    p (s.swapsDue n due) = p s := by
  have kt : ∀ (xs : List Nat) (st : Stn), ∃ tb, xs.foldl (fun (st : Stn) t =>
      st.setTable t { active := (st.table t).idle, idle := (st.table t).active, bank := !(st.table t).bank, state := .copying }) st = { st with tables := tb } := by
    intro xs
    induction xs with
    | nil => exact fun st => ⟨st.tables, rfl⟩
    | cons x xs ih =>
      intro st
      obtain ⟨tb, h⟩ := ih (st.setTable x { active := (st.table x).idle, idle := (st.table x).active, bank := !(st.table x).bank, state := .copying })
      exact ⟨tb, h⟩
  unfold State.swapsDue
  refine foldl_keeps p (fun t i => ?_) _ _
  split
  · next f hf =>
    split
    · next hc =>
      unfold State.swapNow
      dsimp only
      refine (fixFlight_keeps p (fun t i f => h2 t _) _ _ _).trans ?_
      rw [hc.2.1]
      unfold State.swapTables
      refine (foldl_keeps p (fun t i => ?_) _ _).trans ?_
      · exact h3 t _
      · obtain ⟨tb, h⟩ := kt (maskTables f.d.mask) (t.stn n)
        have := h1 t tb
        rw [← h] at this
        exact this
    · rfl
  · rfl

/-- The registers that a new facet of station n does not write. -/
def offFacet (n a : Nat) : Prop := 0x800 ≤ a ∧ a < 0xC00 ∧ a ≠ 0x802 + 0x80 * n ∧ a ≠ 0x803 + 0x80 * n ∧ a ≠ 0x81B + 0x80 * n ∧ a ≠ 0x81C + 0x80 * n ∧
  a ≠ (Reg.STN_COVER_WITHIN n).addr

theorem emits_keeps {β : Type} (p : State → β) (h : ∀ (t : State) o, p (t.emit o) = p t) (xs : List Out) (s : State) : p (xs.foldl State.emit s) = p s :=
  foldl_keeps p h xs s

theorem sendControls_stn (s : State) (n : StnId) : ∃ m k, (s.sendControls n).stn n.val = { s.stn n.val with sentMask := m, sentScale := k } ∧
    (s.sendControls n).regs = s.regs ∧ (s.sendControls n).pwr = s.pwr := by
  have key : ∀ (l : List Out) (m k : Nat), ∃ m' k', ((l.foldl State.emit s).setStn n.val { s.stn n.val with sentMask := m, sentScale := k }).stn n.val =
      { s.stn n.val with sentMask := m', sentScale := k' } ∧
      ((l.foldl State.emit s).setStn n.val { s.stn n.val with sentMask := m, sentScale := k }).regs = s.regs ∧
      ((l.foldl State.emit s).setStn n.val { s.stn n.val with sentMask := m, sentScale := k }).pwr = s.pwr := fun l m k =>
    ⟨m, k, State.stn_setStn_same _ _ _, emits_keeps (fun t => t.regs) (fun _ _ => rfl) _ _, emits_keeps (fun t => t.pwr) (fun _ _ => rfl) _ _⟩
  unfold State.sendControls
  exact key _ _ _

theorem setDegEmit_facts (s : State) (n : Nat) (on : Bool) :
    (∀ a, a ≠ 0x802 + 0x80 * n → a ≠ 0x803 + 0x80 * n → (s.setDegEmit n on).reg a = s.reg a) ∧ (s.setDegEmit n on).stns = s.stns ∧
    (s.setDegEmit n on).pwr = s.pwr ∧
    ∀ g : Fld, g.addr = 0x802 + 0x80 * n → g.hi < 18 → (g.hi < 15 ∨ 15 < g.lo) → (s.setDegEmit n on).get g = s.get g := by
  have hp : ∀ g : Fld, g.addr = 0x802 + 0x80 * n → g.hi < 18 → (g.hi < 15 ∨ 15 < g.lo) → (s.put (Reg.STN_STATUS_DEG_EMIT n) (b2n on)).get g = s.get g :=
    fun g _ h1 h2 => State.get_put_apart s (f := Reg.STN_STATUS_DEG_EMIT n) _ h1 h2
  have hr : ∀ a, a ≠ 0x802 + 0x80 * n → (s.put (Reg.STN_STATUS_DEG_EMIT n) (b2n on)).reg a = s.reg a := fun a ha => State.reg_setReg_ne _ _ ha
  have h : Same (fun a => a ≠ 0x803 + 0x80 * n) (s.put (Reg.STN_STATUS_DEG_EMIT n) (b2n on)) (s.setDegEmit n on) := by
    unfold State.setDegEmit
    dsimp only
    exact Same.ite (Same.stnEvent _ _ _ (fun a ha => ha)) (Same.rfl' _)
  exact ⟨fun a h1 h2 => (h.1 a h2).trans (hr a h1), h.2.1, h.2.2.2.1, fun g h1 h2 h3 => (h.get g (by rw [h1]; omega)).trans (hp g h1 h2 h3)⟩

/-- The registers that the events and spoils at a start of scan do not write. -/
def offScan (n a : Nat) : Prop := 0x800 ≤ a ∧ a < 0xC00 ∧ a ≠ 0x803 + 0x80 * n ∧ a ≠ 0x81B + 0x80 * n ∧ a ≠ 0x81C + 0x80 * n

theorem Same.sosSpoils (s : State) (n : Nat) (b : List (Nat × List Nat)) : Same (offScan n) s (s.sosSpoils n b) := by
  unfold State.sosSpoils
  exact Same.fold (P := offScan n) (fun (t : State) (e : Nat × List Nat) => (Same.stnSpoil t n e.2 e.1).mono (fun a (ha : offScan n a) => ⟨⟨ha.1, ha.2.1⟩, ha.2.2.1, ha.2.2.2.1, ha.2.2.2.2⟩)) _ _

theorem ctlBlocks_facts (s : State) (n : StnId) (down : Bool) (x : Out) : ∃ m k, (if down then s else (s.sendControls n).emit x).stn n.val =
      { s.stn n.val with sentMask := m, sentScale := k } ∧
      (if down then s else (s.sendControls n).emit x).regs = s.regs ∧ (if down then s else (s.sendControls n).emit x).pwr = s.pwr := by
  have eta : ∀ v : Stn, v = { v with sentMask := v.sentMask, sentScale := v.sentScale } := fun v => by cases v; rfl
  by_cases h : down = true
  · rw [if_pos h]
    exact ⟨_, _, eta _, rfl, rfl⟩
  · obtain ⟨m, k, h1, h2, h3⟩ := sendControls_stn s n
    rw [if_neg h]
    have g1 : ((s.sendControls n).emit x).stn n.val = (s.sendControls n).stn n.val := stn_congr (State.emit_stns _ _) _
    have g2 : ((s.sendControls n).emit x).regs = (s.sendControls n).regs := State.emit_regs _ _
    have g3 : ((s.sendControls n).emit x).pwr = (s.sendControls n).pwr := State.emit_pwr _ _
    rw [g1, g2, g3]
    exact ⟨m, k, h1, h2, h3⟩

theorem scanTail_facts (s1 : State) (n : StnId) (w : Bool) (o : Nat) (g l : Bool) (sp : List (Nat × List Nat)) (recs : List Nat) (down : Bool) (x : Out) (u : State)
    (hu : (let s2 := (s1.put (Reg.STN_COVER_WITHIN n.val) (b2n w)).put (Reg.STN_COVER_OUT n.val) o
      let s3 := s2.setDegEmit n.val (!w)
      let s4 := if g then s3 else s3.stnEvent n.val Reg.STN_EVENT_GAP
      let s5 := if l then s4 else s4.stnEvent n.val Reg.STN_EVENT_LATE
      let s6 := s5.sosSpoils n.val sp
      let s7 := recs.foldl State.rasterTry s6
      if down then s7 else (s7.sendControls n).emit x) = u) :
    (∃ m k, u.stn n.val = { s1.stn n.val with sentMask := m, sentScale := k }) ∧ u.pwr = s1.pwr ∧
    (∀ a, offScan n.val a → a ≠ 0x802 + 0x80 * n.val → a ≠ 0x824 + 0x80 * n.val → u.reg a = s1.reg a) ∧
    ∀ g : Fld, g.addr = 0x802 + 0x80 * n.val → g.hi < 18 → (g.hi < 15 ∨ 15 < g.lo) → u.get g = s1.get g := by
  extract_lets s2 s3 s4 s5 s6 s7 at hu
  have k2 : Same (fun a => a ≠ 0x824 + 0x80 * n.val) s1 s2 :=
    (Same.put s1 (Reg.STN_COVER_WITHIN n.val) _ (fun a ha => ha)).trans' (Same.put _ (Reg.STN_COVER_OUT n.val) _ (fun a ha => ha))
  obtain ⟨d1, d2, d3, d4⟩ : (∀ a, a ≠ 0x802 + 0x80 * n.val → a ≠ 0x803 + 0x80 * n.val → s3.reg a = s2.reg a) ∧ s3.stns = s2.stns ∧
    s3.pwr = s2.pwr ∧ ∀ g : Fld, g.addr = 0x802 + 0x80 * n.val → g.hi < 18 → (g.hi < 15 ∨ 15 < g.lo) → s3.get g = s2.get g :=
    setDegEmit_facts s2 n.val (!w)
  have k4 : Same (offScan n.val) s3 s4 := Same.ite (Same.rfl' _) (Same.stnEvent _ _ _ (fun a ha => ha.2.2.1))
  have k5 : Same (offScan n.val) s4 s5 := Same.ite (Same.rfl' _) (Same.stnEvent _ _ _ (fun a ha => ha.2.2.1))
  have k6 : Same (offScan n.val) s5 s6 := Same.sosSpoils _ _ _
  have k7 : Same (offScan n.val) s3 s7 := ((k4.trans' k5).trans' k6).trans' (Same.fold (fun t e => Same.rasterTry (fun a (ha : offScan n.val a) => by have := ha.2.1; omega) t e) _ _)
  clear_value s2 s3 s4 s5 s6 s7
  have e : ∃ m k, (if down then s7 else (s7.sendControls n).emit x).stn n.val = { s7.stn n.val with sentMask := m, sentScale := k } ∧
      (if down then s7 else (s7.sendControls n).emit x).regs = s7.regs ∧ (if down then s7 else (s7.sendControls n).emit x).pwr = s7.pwr := ctlBlocks_facts s7 n down x
  obtain ⟨m, k, e1, e2, e3⟩ := e
  rw [hu] at e1 e2 e3
  refine ⟨⟨m, k, ?_⟩, ?_, fun a h1 h2 h3 => ?_, fun f h1 h2 h3 => ?_⟩
  · rw [e1, k7.stn n.val, stn_congr d2 n.val, k2.stn n.val]
  · rw [e3, k7.2.2.2.1, d3, k2.2.2.2.1]
  · rw [reg_congr e2, k7.1 a h1, d1 a h2 h1.2.2.1, k2.1 a h3]
  · have hn := n.isLt
    rw [get_congr e2, k7.get f ⟨by omega, by omega, by omega, by omega, by omega⟩, d4 f h1 h2 h3, k2.get f (by show f.addr ≠ _; omega)]

/-- What the facet that begins at a start of scan leaves as it was, and that it is in progress. -/
theorem sosFacet_facts (s : State) (n : StnId) (t leave : Nat) (u : State) (hu : s.sosFacet n t leave = u) :
    ((u.stn n.val).fn = (s.stn n.val).fn ∧ (u.stn n.val).ofs = (s.stn n.val).ofs ∧ (u.stn n.val).fnAdj = (s.stn n.val).fnAdj ∧
      (u.stn n.val).fseq = (s.stn n.val).fseq ∧ (u.stn n.val).win = (s.stn n.val).win ∧ (u.stn n.val).tSos = (s.stn n.val).tSos ∧
      (u.stn n.val).x = (s.stn n.val).x) ∧
    (∃ f, (u.stn n.val).facet = some f ∧ f.fseq = (s.stn n.val).fseq ∧ f.cut = none) ∧ u.pwr = s.pwr ∧
    (∀ a, offScan n.val a → a ≠ 0x802 + 0x80 * n.val → a ≠ 0x824 + 0x80 * n.val → u.reg a = s.reg a) ∧
    ∀ g : Fld, g.addr = 0x802 + 0x80 * n.val → g.hi < 18 → (g.hi < 15 ∨ 15 < g.lo) → u.get g = s.get g := by
  have key : ∀ (st : Stn) (m k : Nat) (v : Stn), (v.fn = st.fn ∧ v.ofs = st.ofs ∧ v.fnAdj = st.fnAdj ∧ v.fseq = st.fseq ∧ v.win = st.win ∧ v.tSos = st.tSos ∧
      v.x = st.x) → (∃ f, v.facet = some f ∧ f.fseq = st.fseq ∧ f.cut = none) → ∀ u : State, u.stn n.val = { v with sentMask := m, sentScale := k } →
      ((u.stn n.val).fn = st.fn ∧ (u.stn n.val).ofs = st.ofs ∧ (u.stn n.val).fnAdj = st.fnAdj ∧ (u.stn n.val).fseq = st.fseq ∧ (u.stn n.val).win = st.win ∧
        (u.stn n.val).tSos = st.tSos ∧ (u.stn n.val).x = st.x) ∧ ∃ f, (u.stn n.val).facet = some f ∧ f.fseq = st.fseq ∧ f.cut = none := by
    intro st m k v h1 h2 u hu
    rw [hu]
    exact ⟨h1, h2⟩
  unfold State.sosFacet at hu
  extract_lets m st x double lower upper emits outs within gapTh gaps lates lines rowsOf outRows anyRow blank down dark llo rel miss sheets lateRecs gapRecs codes ks span nblk s1 at hu
  obtain ⟨⟨k1, k2, h1⟩, h2, h3, h4⟩ := scanTail_facts s1 n within outs.length gaps.isEmpty lates.isEmpty _ lateRecs down _ u hu
  have h0 := key (s.stn n.val) k1 k2 (s1.stn n.val) ?_ ?_ u h1
  · exact ⟨h0.1, h0.2, h2, h3, h4⟩
  · rw [show s1.stn n.val = _ from State.stn_setStn_same _ _ _]
    exact ⟨rfl, rfl, rfl, rfl, rfl, rfl, rfl⟩
  · rw [show s1.stn n.val = _ from State.stn_setStn_same _ _ _]
    exact ⟨_, rfl, rfl, rfl⟩

theorem State.get_put_mod (s : State) (f : Fld) (v : Nat) (hf : f.hi < 18) : (s.put f v).get f = v % 2 ^ (f.hi + 1 - f.lo) := by
  unfold State.get State.put
  rw [State.reg_setReg_same]
  apply Nat.eq_of_testBit_eq
  intro i
  rw [bits_testBit, Nat.testBit_mod_two_pow]
  by_cases hi : i < f.hi + 1 - f.lo
  · rw [putBits_bit _ _ _ _ _ (by omega), if_pos (by omega)]
    simp only [hi, decide_true, Bool.true_and]
    congr 1
    omega
  · simp only [hi, decide_false, Bool.false_and]

/-- What the numbering of an SOS reads and writes (R244). -/
theorem sosNumber_facts (s : State) (n t : Nat) : ((s.sosNumber n t).stn n).win = .blanking ∧ ((s.sosNumber n t).stn n).tSos = t ∧
    ((s.sosNumber n t).stn n).fnAdj = 0 ∧ ((s.sosNumber n t).stn n).fseq = ((s.stn n).fseq + 1) % 65536 ∧
    (s.flag (Reg.STN_STATUS_WAIT_SOS n) = true → ((s.sosNumber n t).stn n).fn = ((s.stn n).ofs + (s.stn n).fnAdj) % s.get (Reg.STN_CTL_NF n)) ∧
    (s.flag (Reg.STN_STATUS_WAIT_SOS n) = false → s.flag (Reg.STN_STATUS_STALLED n) = false →
      ((s.sosNumber n t).stn n).fn = ((s.stn n).fn + 1 + (s.stn n).fnAdj) % s.get (Reg.STN_CTL_NF n)) ∧
    (s.sosNumber n t).get (Reg.STN_STATUS_ARMED n) = 1 ∧ (s.sosNumber n t).get (Reg.STN_STATUS_WAIT_SOS n) = 0 ∧
    (s.sosNumber n t).get (Reg.STN_STATUS_STALLED n) = 0 := by
  have regs3 : ∀ u : State, (u.putAll [(Reg.STN_STATUS_WAIT_SOS n, 0), (Reg.STN_STATUS_ARMED n, 1), (Reg.STN_STATUS_STALLED n, 0)]).get (Reg.STN_STATUS_ARMED n) = 1 ∧
      (u.putAll [(Reg.STN_STATUS_WAIT_SOS n, 0), (Reg.STN_STATUS_ARMED n, 1), (Reg.STN_STATUS_STALLED n, 0)]).get (Reg.STN_STATUS_WAIT_SOS n) = 0 ∧
      (u.putAll [(Reg.STN_STATUS_WAIT_SOS n, 0), (Reg.STN_STATUS_ARMED n, 1), (Reg.STN_STATUS_STALLED n, 0)]).get (Reg.STN_STATUS_STALLED n) = 0 := by
    intro u
    simp only [State.putAll, List.foldl_cons, List.foldl_nil]
    refine ⟨?_, ?_, State.get_put_same _ (Reg.STN_STATUS_STALLED n) 0 (lt_rfl rfl) (lt_rfl rfl)⟩
    · rw [State.get_put_apart _ (f := Reg.STN_STATUS_STALLED n) (g := Reg.STN_STATUS_ARMED n) _ (lt_rfl rfl) (.inr (lt_rfl rfl))]
      exact State.get_put_same _ (Reg.STN_STATUS_ARMED n) 1 (lt_rfl rfl) (lt_rfl rfl)
    · rw [State.get_put_apart _ (f := Reg.STN_STATUS_STALLED n) (g := Reg.STN_STATUS_WAIT_SOS n) _ (lt_rfl rfl) (.inr (lt_rfl rfl)),
        State.get_put_apart _ (f := Reg.STN_STATUS_ARMED n) (g := Reg.STN_STATUS_WAIT_SOS n) _ (lt_rfl rfl) (.inl (lt_rfl rfl))]
      exact State.get_put_same _ (Reg.STN_STATUS_WAIT_SOS n) 0 (lt_rfl rfl) (lt_rfl rfl)
  have hs : ∀ (u : State) (v : Stn), ((u.setStn n v).putAll [(Reg.STN_STATUS_WAIT_SOS n, 0), (Reg.STN_STATUS_ARMED n, 1), (Reg.STN_STATUS_STALLED n, 0)]).stn n = v := by
    intro u v
    exact State.stn_setStn_same _ _ _
  unfold State.sosNumber
  extract_lets nf st origin stalled w r step ivs s1
  obtain ⟨v, hv, v1, v2, v3, v4, v5⟩ : ∃ v, (s1.putAll [(Reg.STN_STATUS_WAIT_SOS n, 0), (Reg.STN_STATUS_ARMED n, 1), (Reg.STN_STATUS_STALLED n, 0)]).stn n = v ∧
      v.win = .blanking ∧ v.tSos = t ∧ v.fnAdj = 0 ∧ v.fseq = (st.fseq + 1) % 65536 ∧ v.fn = (step + st.fnAdj) % nf := ⟨_, hs _ _, rfl, rfl, rfl, rfl, rfl⟩
  rw [hv]
  refine ⟨v1, v2, v3, v4, fun h => ?_, fun h1 h2 => ?_, (regs3 _).1, (regs3 _).2.1, (regs3 _).2.2⟩
  · refine v5.trans ?_
    have hs : step = st.ofs := if_pos h
    rw [hs]
  · refine v5.trans ?_
    have h1' : ¬(origin = true) := by rw [show origin = false from h1]; decide
    have h2' : ¬(stalled = true) := by rw [show stalled = false from h2]; decide
    have hs : step = st.fn + 1 := (if_neg h1').trans (if_neg h2')
    rw [hs]

theorem State.get_put_two (s : State) {f1 f2 g : Fld} (v1 v2 : Nat) (h1 : g.addr ≠ f1.addr) (h2 : g.addr ≠ f2.addr) : ((s.put f1 v1).put f2 v2).get g = s.get g :=
  (State.get_put_ne _ _ h2).trans (State.get_put_ne _ _ h1)

theorem sosPosition_facts (s : State) (n : Nat) : ((s.sosPosition n).stn n).fn = (s.stn n).fn ∧ ((s.sosPosition n).stn n).fnAdj = (s.stn n).fnAdj ∧
    ((s.sosPosition n).stn n).fseq = (s.stn n).fseq ∧ ((s.sosPosition n).stn n).win = (s.stn n).win ∧ ((s.sosPosition n).stn n).tSos = (s.stn n).tSos ∧
    (∀ g : Fld, g.addr = 0x802 + 0x80 * n → (s.sosPosition n).get g = s.get g) ∧ (s.sosPosition n).get (Reg.STN_FACET_FN n) = (s.stn n).fn % 16 := by
  have key : ∀ (a b c : Nat) (hw : Int) (x : Option Int) (r : Bool), let s2 := (((s.put (Reg.STN_FACET_FN n) (s.stn n).fn).put (Reg.STN_FACET_ADV n) a).put (Reg.STN_X_LO_X_LO n) b).put (Reg.STN_X_HI_X_HI n) c
      let u := s2.setStn n { s2.stn n with hw := hw, x := x, reversed := r }
      (u.stn n).fn = (s.stn n).fn ∧ (u.stn n).fnAdj = (s.stn n).fnAdj ∧ (u.stn n).fseq = (s.stn n).fseq ∧ (u.stn n).win = (s.stn n).win ∧ (u.stn n).tSos = (s.stn n).tSos ∧
      (∀ g : Fld, g.addr = 0x802 + 0x80 * n → u.get g = s.get g) ∧ u.get (Reg.STN_FACET_FN n) = (s.stn n).fn % 16 := by
    intro a b c hw x r s2 u
    have e0 : s2.stn n = s.stn n := stn_congr ((State.put_stns _ _ _).trans ((State.put_stns _ _ _).trans ((State.put_stns _ _ _).trans (State.put_stns _ _ _)))) n
    have e : u.stn n = { s.stn n with hw := hw, x := x, reversed := r } := by rw [← e0]; exact State.stn_setStn_same _ _ _
    have eg : ∀ g : Fld, u.get g = s2.get g := fun g => get_congr (State.setStn_regs _ _ _) g
    rw [e]
    refine ⟨rfl, rfl, rfl, rfl, rfl, fun g hg => ?_, ?_⟩
    · have h1 : s2.get g = ((s.put (Reg.STN_FACET_FN n) (s.stn n).fn).put (Reg.STN_FACET_ADV n) a).get g :=
        State.get_put_two _ _ _ (by rw [hg]; show _ ≠ 0x829 + 0x80 * n; omega) (by rw [hg]; show _ ≠ 0x82A + 0x80 * n; omega)
      exact (eg _).trans <| h1.trans (State.get_put_two _ _ _ (by rw [hg]; show _ ≠ 0x828 + 0x80 * n; omega) (by rw [hg]; show _ ≠ 0x828 + 0x80 * n; omega))
    · have h1 : s2.get (Reg.STN_FACET_FN n) = ((s.put (Reg.STN_FACET_FN n) (s.stn n).fn).put (Reg.STN_FACET_ADV n) a).get (Reg.STN_FACET_FN n) :=
        State.get_put_two _ _ _ (by show 0x828 + 0x80 * n ≠ 0x829 + 0x80 * n; omega) (by show 0x828 + 0x80 * n ≠ 0x82A + 0x80 * n; omega)
      refine (eg _).trans <| h1.trans ((State.get_put_apart _ (f := Reg.STN_FACET_ADV n) (g := Reg.STN_FACET_FN n) _ (lt_rfl rfl) (.inr (lt_rfl rfl))).trans ?_)
      exact State.get_put_mod _ (Reg.STN_FACET_FN n) _ (lt_rfl rfl)
  unfold State.sosPosition
  exact key _ _ _ _ _ _

/-- A start of scan with no facet in progress (R219 to R229, R244). -/
theorem sos_facts (s : State) (n : StnId) (t leave : Nat) (ha : s.stnArmed n.val = true) (hf : (s.stn n.val).facet = none) :
    (s.sos n t leave).get (Reg.STN_STATUS_ARMED n.val) = 1 ∧ (s.sos n t leave).get (Reg.STN_STATUS_WAIT_SOS n.val) = 0 ∧ (s.sos n t leave).get (Reg.STN_STATUS_STALLED n.val) = 0 ∧
      ((s.sos n t leave).stn n.val).win = .blanking ∧ ((s.sos n t leave).stn n.val).tSos = t ∧ ((s.sos n t leave).stn n.val).fnAdj = 0 ∧
      ((s.sos n t leave).stn n.val).fseq = ((s.stn n.val).fseq + 1) % 65536 ∧
      (s.flag (Reg.STN_STATUS_WAIT_SOS n.val) = true → ((s.sos n t leave).stn n.val).fn = ((s.stn n.val).ofs + (s.stn n.val).fnAdj) % s.get (Reg.STN_CTL_NF n.val)) ∧
      (s.flag (Reg.STN_STATUS_WAIT_SOS n.val) = false → s.flag (Reg.STN_STATUS_STALLED n.val) = false →
        ((s.sos n t leave).stn n.val).fn = ((s.stn n.val).fn + 1 + (s.stn n.val).fnAdj) % s.get (Reg.STN_CTL_NF n.val)) ∧
      (s.sos n t leave).get (Reg.STN_FACET_FN n.val) = ((s.sos n t leave).stn n.val).fn % 16 ∧
      ∃ f, ((s.sos n t leave).stn n.val).facet = some f ∧ f.fseq = ((s.sos n t leave).stn n.val).fseq := by
  have hn := n.isLt
  have e0 : s.facetEnd n = s := by
    unfold State.facetEnd
    rw [hf]
  unfold State.sos
  rw [e0]
  dsimp only
  rw [if_pos ha]
  have b1 : ∀ (u : State), (u.blankClear n.val).stn n.val = { u.stn n.val with blankDue := ((u.blankClear n.val).stn n.val).blankDue } ∧
      (∀ g : Fld, g.hi < 18 → g ≠ Reg.STN_STATUS_BLANK n.val → (g.addr ≠ 0x802 + 0x80 * n.val ∨ 12 < g.lo ∨ g.hi < 12) → (u.blankClear n.val).get g = u.get g) := by
    intro u
    have eta : ∀ v : Stn, v = { v with blankDue := v.blankDue } := fun v => by cases v; rfl
    unfold State.blankClear
    split
    · exact ⟨eta _, fun _ _ _ _ => rfl⟩
    · rw [State.stn_setStn_same]
      refine ⟨rfl, fun g h1 _ h3 => ?_⟩
      rcases h3 with h3 | h3 | h3
      · exact State.get_put_ne _ (f := Reg.STN_STATUS_BLANK n.val) _ h3
      · exact State.get_put_apart _ (f := Reg.STN_STATUS_BLANK n.val) _ h1 (.inr h3)
      · exact State.get_put_apart _ (f := Reg.STN_STATUS_BLANK n.val) _ h1 (.inl h3)
  have d1 : ∀ {β : Type} (p : Stn → β) (hp : ∀ (v : Stn) tb, p { v with tables := tb } = p v), p ((s.swapsDue n.val (fun r => decide (r + 6400 ≤ t))).stn n.val) = p (s.stn n.val) :=
    fun p hp => swapsDue_keeps (fun u => p (u.stn n.val)) n.val (fun u tb => by rw [State.stn_setStn_same]; exact hp _ _) (fun _ _ => rfl) (fun _ _ => rfl) s _
  have d2 : ∀ g : Fld, g.addr ≠ 0x81A + 0x80 * n.val → (s.swapsDue n.val (fun r => decide (r + 6400 ≤ t))).get g = s.get g :=
    fun g hg => swapsDue_keeps (fun u => u.get g) n.val (fun u tb => rfl) (fun _ _ => rfl) (fun u w => State.get_setReg_ne _ _ hg) s _
  generalize s.swapsDue n.val (fun r => decide (r + 6400 ≤ t)) = sa at d1 d2 ⊢
  obtain ⟨b2, b3⟩ := b1 sa
  have s1eq : ∀ {β : Type} (p : Stn → β) (hp : ∀ (v : Stn) tb, p { v with tables := tb } = p v) (hq : ∀ (v : Stn) d, p { v with blankDue := d } = p v),
      p ((sa.blankClear n.val).stn n.val) = p (s.stn n.val) := by
    intro β p hp hq
    rw [b2, hq, d1 p hp]
  have s1get : ∀ g : Fld, g.hi < 18 → (g.addr ≠ 0x802 + 0x80 * n.val ∨ 12 < g.lo) → g.addr ≠ 0x81A + 0x80 * n.val → (sa.blankClear n.val).get g = s.get g := by
    intro g h1 h2 h3
    rw [b3 g h1 ?_ ?_, d2 g h3]
    · rcases h2 with h2 | h2
      · rintro rfl
        exact h2 rfl
      · rintro rfl
        exact absurd h2 (by show ¬(12 < 12); decide)
    · rcases h2 with h2 | h2
      · exact .inl h2
      · exact .inr (.inl h2)
  generalize sa.blankClear n.val = sb at s1eq s1get ⊢
  clear b1 b2 b3 d1 d2
  obtain ⟨n1, n2, n3, n4, n5, n6, n7, n8, n9⟩ := sosNumber_facts sb n.val t
  generalize sb.sosNumber n.val t = sc at n1 n2 n3 n4 n5 n6 n7 n8 n9 ⊢
  obtain ⟨p1, p2, p3, p4, p5, p6, p7⟩ := sosPosition_facts sc n.val
  generalize sc.sosPosition n.val = sd at p1 p2 p3 p4 p5 p6 p7 ⊢
  obtain ⟨⟨f1, f2, f3, f4, f5, f6, f7⟩, ⟨fc, g1, g2, g3⟩, f8, f9, f10⟩ := sosFacet_facts sd n t leave (sd.sosFacet n t leave) rfl
  generalize sd.sosFacet n t leave = se at f1 f2 f3 f4 f5 f6 f7 g1 g2 g3 f8 f9 f10 ⊢
  obtain ⟨r1, r2, r3⟩ := retireAll_same (P := fun a => 0x800 ≤ a) (fun a ha => .inr ha) se
  have rg : ∀ g : Fld, 0x800 ≤ g.addr → se.retireAll.get g = se.get g := fun g hg => by
    unfold State.get
    rw [r1 _ hg]
  rw [stn_congr r2 n.val]
  have fl : ∀ g : Fld, sb.get g = s.get g → sb.flag g = s.flag g := fun g h => by unfold State.flag; rw [h]
  have w1 := fl _ (s1get (Reg.STN_STATUS_WAIT_SOS n.val) (lt_rfl rfl) (.inr (lt_rfl rfl)) (by show 0x802 + 0x80 * n.val ≠ _; omega))
  have w2 := fl _ (s1get (Reg.STN_STATUS_STALLED n.val) (lt_rfl rfl) (.inr (lt_rfl rfl)) (by show 0x802 + 0x80 * n.val ≠ _; omega))
  have w3 := s1get (Reg.STN_CTL_NF n.val) (lt_rfl rfl) (.inl (by show 0x800 + 0x80 * n.val ≠ _; omega)) (by show 0x800 + 0x80 * n.val ≠ _; omega)
  have q1 := s1eq (fun v => v.fn) (fun _ _ => rfl) (fun _ _ => rfl)
  have q2 := s1eq (fun v => v.ofs) (fun _ _ => rfl) (fun _ _ => rfl)
  have q3 := s1eq (fun v => v.fnAdj) (fun _ _ => rfl) (fun _ _ => rfl)
  have q4 := s1eq (fun v => v.fseq) (fun _ _ => rfl) (fun _ _ => rfl)
  rw [w1, w3, q2, q3] at n5
  rw [w1, w2, w3, q1, q3] at n6
  rw [q4] at n4
  refine ⟨?_, ?_, ?_, f5.trans (p4.trans n1), f6.trans (p5.trans n2), f3.trans (p2.trans n3), f4.trans (p3.trans n4), fun h => (f1.trans p1).trans (n5 h),
    fun h1 h2 => (f1.trans p1).trans (n6 h1 h2), ?_, fc, g1, g2.trans f4.symm⟩
  · exact (rg _ (by show 0x800 ≤ 0x802 + 0x80 * n.val; omega)).trans ((f10 _ rfl (lt_rfl rfl) (.inr (lt_rfl rfl))).trans ((p6 _ rfl).trans n7))
  · exact (rg _ (by show 0x800 ≤ 0x802 + 0x80 * n.val; omega)).trans ((f10 _ rfl (lt_rfl rfl) (.inr (lt_rfl rfl))).trans ((p6 _ rfl).trans n8))
  · exact (rg _ (by show 0x800 ≤ 0x802 + 0x80 * n.val; omega)).trans ((f10 _ rfl (lt_rfl rfl) (.inl (lt_rfl rfl))).trans ((p6 _ rfl).trans n9))
  · rw [rg _ (by show 0x800 ≤ 0x828 + 0x80 * n.val; omega), f1, p1, ← p7]
    unfold State.get
    rw [f9 (Reg.STN_FACET_FN n.val).addr ⟨by show 0x800 ≤ 0x828 + 0x80 * n.val; omega, by show 0x828 + 0x80 * n.val < 0xC00; omega,
      by show 0x828 + 0x80 * n.val ≠ _; omega, by show 0x828 + 0x80 * n.val ≠ _; omega, by show 0x828 + 0x80 * n.val ≠ _; omega⟩
      (by show 0x828 + 0x80 * n.val ≠ _; omega) (by show 0x828 + 0x80 * n.val ≠ _; omega)]

/-- A disarm at once (R217). -/
theorem disarmNow_facts (s : State) (n : Nat) : (s.disarmNow n).stnArmed n = false ∧ (s.disarmNow n).get (Reg.STN_STATUS_STALLED n) = 0 ∧
    ((s.disarmNow n).stn n).sheets = [] ∧ ((s.disarmNow n).stn n).buffer = [] ∧ ((s.disarmNow n).stn n).win = .closed ∧
    ((s.disarmNow n).stn n).reserved = 0 ∧ ((s.disarmNow n).stn n).facet = none ∧ (s.disarmNow n).pwr = s.pwr := by
  unfold State.disarmNow
  extract_lets q s1 s2 src s3 s4
  have k1 : s1.pwr = s.pwr := (Same.stnSpoil s n _ 7).2.2.2.1
  have k2 : s2.pwr = s1.pwr ∧ s2.get (Reg.STN_STATUS_ARMED n) = 0 ∧ s2.get (Reg.STN_STATUS_WAIT_SOS n) = 0 ∧ s2.get (Reg.STN_STATUS_STALLED n) = 0 := by
    show (s1.putAll _).pwr = _ ∧ (s1.putAll _).get _ = 0 ∧ (s1.putAll _).get _ = 0 ∧ (s1.putAll _).get _ = 0
    simp only [State.putAll, List.foldl_cons, List.foldl_nil]
    refine ⟨(State.put_pwr _ _ _).trans ((State.put_pwr _ _ _).trans (State.put_pwr _ _ _)), ?_, ?_, State.get_put_same _ (Reg.STN_STATUS_STALLED n) 0 (lt_rfl rfl) (lt_rfl rfl)⟩
    · rw [State.get_put_apart _ (f := Reg.STN_STATUS_STALLED n) (g := Reg.STN_STATUS_ARMED n) _ (lt_rfl rfl) (.inr (lt_rfl rfl)),
        State.get_put_apart _ (f := Reg.STN_STATUS_WAIT_SOS n) (g := Reg.STN_STATUS_ARMED n) _ (lt_rfl rfl) (.inr (lt_rfl rfl))]
      exact State.get_put_same _ (Reg.STN_STATUS_ARMED n) 0 (lt_rfl rfl) (lt_rfl rfl)
    · rw [State.get_put_apart _ (f := Reg.STN_STATUS_STALLED n) (g := Reg.STN_STATUS_WAIT_SOS n) _ (lt_rfl rfl) (.inr (lt_rfl rfl))]
      exact State.get_put_same _ (Reg.STN_STATUS_WAIT_SOS n) 0 (lt_rfl rfl) (lt_rfl rfl)
  have k3 : (s3.stn n).sheets = [] ∧ (s3.stn n).buffer = [] ∧ (s3.stn n).win = .closed ∧ (s3.stn n).reserved = 0 ∧ (s3.stn n).facet = none := by
    have : s3.stn n = _ := State.stn_setStn_same _ _ _
    rw [this]
    exact ⟨rfl, rfl, rfl, rfl, rfl⟩
  have k3r : s3.regs = s2.regs := State.setStn_regs _ _ _
  have k3p : s3.pwr = s2.pwr := State.setStn_pwr _ _ _
  have k4 : ∀ {β : Type} (p : State → β) (hp : ∀ (t : State) (i : Nat) (f : Flight), p (t.setFlight i f) = p t), p s4 = p s3 := by
    intro β p hp
    refine foldl_keeps p (fun t i => ?_) _ _
    split
    · split
      · exact fixFlight_keeps p hp _ _ _
      · rfl
    · rfl
  have d1 : ∀ {β : Type} (p : Stn → β) (hp : ∀ (v : Stn) tb, p { v with tables := tb } = p v), p ((s4.swapsDue n (fun _ => true)).stn n) = p (s4.stn n) :=
    fun p hp => swapsDue_keeps (fun u => p (u.stn n)) n (fun u tb => by rw [State.stn_setStn_same]; exact hp _ _) (fun _ _ => rfl) (fun _ _ => rfl) s4 _
  have d2 : ∀ g : Fld, g.addr ≠ 0x81A + 0x80 * n → (s4.swapsDue n (fun _ => true)).get g = s4.get g :=
    fun g hg => swapsDue_keeps (fun u => u.get g) n (fun u tb => rfl) (fun _ _ => rfl) (fun u w => State.get_setReg_ne _ _ hg) s4 _
  have d3 : (s4.swapsDue n (fun _ => true)).pwr = s4.pwr :=
    swapsDue_keeps (fun u => u.pwr) n (fun u tb => rfl) (fun _ _ => rfl) (fun _ _ => rfl) s4 _
  have s4s : s4.stn n = s3.stn n := stn_congr (k4 (fun t => t.stns) (fun _ _ _ => rfl)) n
  have s4r : s4.regs = s3.regs := k4 (fun t => t.regs) (fun _ _ _ => rfl)
  have s4p : s4.pwr = s3.pwr := k4 (fun t => t.pwr) (fun _ _ _ => rfl)
  generalize s4.swapsDue n (fun _ => true) = s5 at d1 d2 d3 ⊢
  obtain ⟨r1, r2, r3⟩ := retireAll_same (P := fun a => 0x800 ≤ a) (fun a ha => .inr ha) s5
  have rg : ∀ g : Fld, g.addr = 0x802 + 0x80 * n → s5.retireAll.get g = s2.get g := fun g hg => by
    have : s5.retireAll.get g = s5.get g := by
      unfold State.get
      rw [r1 _ (by show 0x800 ≤ _; omega)]
    rw [this, d2 g (by omega), get_congr s4r, get_congr k3r]
  rw [stn_congr r2 n, r3, d3, s4p, k3p, k2.1, k1]
  refine ⟨?_, ?_, ?_, ?_, ?_, ?_, ?_, rfl⟩
  · unfold State.stnArmed State.flag
    rw [rg _ rfl, rg _ rfl, k2.2.1, k2.2.2.1]
    rfl
  · rw [rg _ rfl, k2.2.2.2]
  · rw [d1 (fun v => v.sheets) (fun _ _ => rfl), s4s]; exact k3.1
  · rw [d1 (fun v => v.buffer) (fun _ _ => rfl), s4s]; exact k3.2.1
  · rw [d1 (fun v => v.win) (fun _ _ => rfl), s4s]; exact k3.2.2.1
  · rw [d1 (fun v => v.reserved) (fun _ _ => rfl), s4s]; exact k3.2.2.2.1
  · rw [d1 (fun v => v.facet) (fun _ _ => rfl), s4s]; exact k3.2.2.2.2

/-- IMAGED stamps take back no output, and change the sheets of the station alone of what `Same` names. -/
theorem stampSheets_facts (s : State) (n : Nat) : (∀ o, o ∈ s.out → o ∈ (s.stampSheets n).out) ∧ ((s.stampSheets n).stn n).facet = (s.stn n).facet ∧
    ((s.stampSheets n).stn n).disarming = (s.stn n).disarming ∧ ((s.stampSheets n).stn n).drain = (s.stn n).drain ∧
    (s.stampSheets n).pwr = s.pwr ∧ ∀ a, belowLed a → (s.stampSheets n).reg a = s.reg a := by
  have hi : ∀ (u : State) (e : LedEvent), (∃ m r t, e = .imaged m r t) → ∀ o, o ∈ u.out → o ∈ (u.ledEventNow e).out := by
    rintro u e ⟨m, r, t, rfl⟩
    have hr : ∀ (u : State) i x, (u.setRecord i x).out = u.out := fun u i x =>
      (touched_setW18s _ _ _).field State.out (by intros; rfl)
    have he : ∀ (u : State) i p, (u.requeue i p).out = u.out := by
      intro u i p
      unfold State.requeue
      dsimp only
      have h := foldl_keeps (fun t => t.out) (f := fun (t : State) q => t.setQueue q ((t.queue q).filter (fun j => decide (j ≠ i)))) (fun _ _ => rfl)
        (List.range (p - 3)) u
      split
      · split
        · exact h
        · exact h
      · exact h
    have hc : ∀ (u : State) i x, (u.rasterComplete i x).out = u.out := by
      intro u i x
      unfold State.rasterComplete
      dsimp only
      split
      · exact hr _ _ _
      · rfl
    have hm : ∀ (u : State) i o, o ∈ u.out → o ∈ (u.meetRec i).out := fun u i => (Quiet.meetRec u i).out
    have hf : ∀ (xs : List Nat) (f : State → Nat → State), (∀ v i o, o ∈ v.out → o ∈ (f v i).out) → ∀ v : State, ∀ o, o ∈ v.out → o ∈ (xs.foldl f v).out := by
      intro xs f hf
      induction xs with
      | nil => exact fun _ _ h => h
      | cons x xs ih => exact fun v o h => ih _ _ (hf v x o h)
    unfold State.ledEventNow
    split
    · exact fun _ h => h
    · unfold State.ledApply
      refine hf _ _ (fun v i o ho => ?_) _
      have hv := hm v i o ho
      split
      · unfold State.stampImaged
        dsimp only
        split
        · rw [he, hr]
          exact hv
        · rw [hc, hr]
          exact hv
      · exact hv
  unfold State.stampSheets
  extract_lets st done rs s1
  split
  · exact ⟨fun _ h => h, rfl, rfl, rfl, rfl, fun _ _ => rfl⟩
  · have k := Same.ledEventNow s1 (.imaged (Fin.ofNat 8 n) rs s.stamp)
    have e : s1.stn n = _ := State.stn_setStn_same _ _ _
    refine ⟨fun o ho => hi _ _ ⟨_, _, _, rfl⟩ o (by rw [show s1.out = s.out from State.setStn_out _ _ _]; exact ho), ?_, ?_, ?_, k.2.2.2.1.trans (State.setStn_pwr _ _ _),
      fun a ha => (k.1 a ha).trans (reg_congr (State.setStn_regs _ _ _) a)⟩
    · rw [k.stn n, e]
      split <;> rfl
    · rw [k.stn n, e]
      split <;> rfl
    · rw [k.stn n, e]
      split <;> rfl

theorem get_setStn (s : State) (n : Nat) (v : Stn) (g : Fld) : (s.setStn n v).get g = s.get g := get_congr (State.setStn_regs _ _ _) g

theorem flag_setStn (s : State) (n : Nat) (v : Stn) (g : Fld) : (s.setStn n v).flag g = s.flag g := by
  unfold State.flag
  rw [get_setStn]

theorem stnLEvent_get (s : State) (n : Nat) (ev : Nat → Fld) (g : Fld) (h : g.addr ≠ (ev n).addr) : (s.stnLEvent n ev).get g = s.get g := event_get_ne _ _ _ _ _ _ h

theorem stnLEvent_stn (s : State) (n m : Nat) (ev : Nat → Fld) : (s.stnLEvent n ev).stn m = s.stn m := stn_congr (event_stns _ _ _ _ _) m

theorem put_stn (s : State) (f : Fld) (v : Nat) (m : Nat) : (s.put f v).stn m = s.stn m := stn_congr (State.put_stns _ _ _) m

/-- LMASK and LANES as a lane map sets them, and STATE beside them. -/
theorem setLanes_facts (s : State) (n mask : Nat) : (s.setLanes n mask).get (Reg.STN_LINK_STAT_LMASK n) = mask % 256 ∧
    (s.setLanes n mask).get (Reg.STN_LINK_STAT_LANES n) = popcount 8 mask % 16 ∧
    (s.setLanes n mask).get (Reg.STN_LINK_STAT_STATE n) = s.get (Reg.STN_LINK_STAT_STATE n) ∧
    (∀ g : Fld, g.addr ≠ 0x861 + 0x80 * n → (s.setLanes n mask).get g = s.get g) ∧ (s.setLanes n mask).stns = s.stns ∧ (s.setLanes n mask).out = s.out := by
  unfold State.setLanes
  refine ⟨?_, State.get_put_mod _ (Reg.STN_LINK_STAT_LANES n) _ (lt_rfl rfl), ?_, fun g hg => State.get_put_two _ _ _ hg hg,
    (State.put_stns _ _ _).trans (State.put_stns _ _ _), (State.put_out _ _ _).trans (State.put_out _ _ _)⟩
  · exact (State.get_put_apart _ (f := Reg.STN_LINK_STAT_LANES n) (g := Reg.STN_LINK_STAT_LMASK n) _ (lt_rfl rfl) (.inr (lt_rfl rfl))).trans
      (State.get_put_mod _ (Reg.STN_LINK_STAT_LMASK n) _ (lt_rfl rfl))
  · exact (State.get_put_apart _ (f := Reg.STN_LINK_STAT_LANES n) (g := Reg.STN_LINK_STAT_STATE n) _ (lt_rfl rfl) (.inr (lt_rfl rfl))).trans
      (State.get_put_apart _ (f := Reg.STN_LINK_STAT_LMASK n) (g := Reg.STN_LINK_STAT_STATE n) _ (lt_rfl rfl) (.inr (lt_rfl rfl)))

/-- A failed training (Table 9-6). -/
theorem trainFail_facts (s : State) (n : Nat) : ((s.trainFail n).stn n) = { s.stn n with trainStep := none, eye := (s.stn n).eye.map (fun _ => true) } ∧
    (s.trainFail n).get (Reg.STN_LINK_STAT_STATE n) = linkFailed ∧ (s.trainFail n).get (Reg.STN_LINK_STAT_LMASK n) = 0 ∧
    (s.trainFail n).get (Reg.STN_LEVENT_TRAIN_FAIL n) = 1 := by
  unfold State.trainFail
  dsimp only
  obtain ⟨f1, f2, f3, f4, f5, f6⟩ := setLanes_facts (s.put (Reg.STN_LINK_STAT_STATE n) linkFailed) n 0
  generalize (s.put (Reg.STN_LINK_STAT_STATE n) linkFailed).setLanes n 0 = u at f1 f2 f3 f4 f5 f6 ⊢
  refine ⟨?_, ?_, ?_, event_get_same _ (Reg.STN_LEVENT_TRAIN_FAIL n) _ _ _ (lt_rfl rfl) rfl⟩
  · rw [stnLEvent_stn, State.stn_setStn_same]
  · rw [stnLEvent_get _ _ _ _ (by show 0x861 + 0x80 * n ≠ 0x847 + 0x80 * n; omega), get_setStn, f3]
    exact State.get_put_same _ (Reg.STN_LINK_STAT_STATE n) _ (lt_rfl rfl) (lt_rfl rfl)
  · rw [stnLEvent_get _ _ _ _ (by show 0x861 + 0x80 * n ≠ 0x847 + 0x80 * n; omega), get_setStn, f1]

/-- A SET-UP access that ends (R261). -/
theorem setupEnd_facts (s : State) (n r : Nat) (hr : r < 4) : (s.setupEnd n r).get (Reg.STN_SB_STAT_BUSY n) = 0 ∧ (s.setupEnd n r).get (Reg.STN_SB_STAT_RESULT n) = r ∧
    (s.setupEnd n r).get (Reg.STN_LEVENT_SB_DONE n) = 1 ∧ ((s.setupEnd n r).stn n).frame = none ∧
    ∀ g : Fld, g.addr ≠ 0x86A + 0x80 * n → g.addr ≠ 0x847 + 0x80 * n → (s.setupEnd n r).get g = s.get g := by
  unfold State.setupEnd
  dsimp only
  refine ⟨?_, ?_, event_get_same _ (Reg.STN_LEVENT_SB_DONE n) _ _ _ (lt_rfl rfl) rfl, ?_, fun g h1 h2 => ?_⟩
  · rw [stnLEvent_get _ _ _ _ (by show 0x86A + 0x80 * n ≠ 0x847 + 0x80 * n; omega), get_setStn]
    exact (State.get_put_apart _ (f := Reg.STN_SB_STAT_RESULT n) (g := Reg.STN_SB_STAT_BUSY n) _ (lt_rfl rfl) (.inr (lt_rfl rfl))).trans
      (State.get_put_same _ (Reg.STN_SB_STAT_BUSY n) 0 (lt_rfl rfl) (lt_rfl rfl))
  · rw [stnLEvent_get _ _ _ _ (by show 0x86A + 0x80 * n ≠ 0x847 + 0x80 * n; omega), get_setStn]
    exact State.get_put_same _ (Reg.STN_SB_STAT_RESULT n) r (lt_rfl rfl) hr
  · rw [stnLEvent_stn, State.stn_setStn_same]
  · rw [stnLEvent_get _ _ _ _ h2, get_setStn]
    exact State.get_put_two _ _ _ h1 h1

theorem raiseDegLink_facts (s : State) (n : Nat) : (∀ g : Fld, g.addr ≠ 0x802 + 0x80 * n → g.addr ≠ 0x803 + 0x80 * n → (s.raiseDegLink n).get g = s.get g) ∧
    (s.raiseDegLink n).stns = s.stns ∧ (s.raiseDegLink n).pwr = s.pwr ∧ ∀ o, o ∈ s.out → o ∈ (s.raiseDegLink n).out := by
  unfold State.raiseDegLink
  split
  · exact ⟨fun _ _ _ => rfl, rfl, rfl, fun _ h => h⟩
  · have k := Same.stnEvent (P := fun a => a ≠ 0x803 + 0x80 * n) (s.put (Reg.STN_STATUS_DEG_LINK n) 1) n Reg.STN_EVENT_DEGRADED (fun a ha => ha)
    refine ⟨fun g h1 h2 => (k.get g h2).trans (State.get_put_ne _ (f := Reg.STN_STATUS_DEG_LINK n) _ h1), k.2.1.trans (State.put_stns _ _ _),
      k.2.2.2.1.trans (State.put_pwr _ _ _), fun o ho => ?_⟩
    exact (Quiet.event _ _ _ _ _ (.inr (by show 0x800 ≤ 0x803 + 0x80 * n; omega))).out o ho

theorem laneRule_facts (s : State) (n : Nat) : (∀ g : Fld, g.addr ≠ 0x802 + 0x80 * n → g.addr ≠ 0x803 + 0x80 * n → (s.laneRule n).get g = s.get g) ∧
    (s.laneRule n).stns = s.stns ∧ (s.laneRule n).pwr = s.pwr ∧ ∀ o, o ∈ s.out → o ∈ (s.laneRule n).out := by
  unfold State.laneRule
  split
  · exact raiseDegLink_facts s n
  · exact ⟨fun _ _ _ => rfl, rfl, rfl, fun _ h => h⟩

/-- The mask of the indices below n that meet a test. -/
theorem maskSum (p : Nat → Bool) (n : Nat) : (((List.range n).filter p).map (2 ^ ·)).sum < 2 ^ n ∧
    ∀ l, (((List.range n).filter p).map (2 ^ ·)).sum.testBit l = (decide (l < n) && p l) := by
  induction n with
  | zero => exact ⟨by simp, fun l => by simp⟩
  | succ n ih =>
    obtain ⟨ih1, ih2⟩ := ih
    rw [List.range_succ, List.filter_append, List.map_append, List.sum_append]
    generalize (((List.range n).filter p).map (2 ^ ·)).sum = S at ih1 ih2 ⊢
    by_cases hp : p n = true
    · have e : (([n].filter p).map (2 ^ ·)).sum = 2 ^ n := by simp [List.filter, hp]
      rw [e, Nat.add_comm]
      refine ⟨by rw [Nat.pow_succ]; omega, fun l => ?_⟩
      rcases Nat.lt_trichotomy l n with h | h | h
      · rw [Nat.testBit_two_pow_add_gt h, ih2]
        simp [h, Nat.lt_succ_of_lt h]
      · subst h
        rw [Nat.testBit_two_pow_add_eq, ih2]
        simp [hp]
      · have : 2 ^ n + S < 2 ^ l := Nat.lt_of_lt_of_le (show 2 ^ n + S < 2 ^ (n + 1) by rw [Nat.pow_succ]; omega) (Nat.pow_le_pow_right (by decide) h)
        rw [Nat.testBit_lt_two_pow this]
        simp [show ¬(l < n + 1) by omega]
    · have e : (([n].filter p).map (2 ^ ·)).sum = 0 := by simp [List.filter, hp]
      rw [e, Nat.add_zero]
      refine ⟨by rw [Nat.pow_succ]; omega, fun l => ?_⟩
      rw [ih2]
      by_cases h : l = n
      · subst h
        simp [hp]
      · simp [show (l < n + 1) ↔ l < n by omega]

/-- A spoil sets SPOIL and no other bit of STN_EVENT. -/
theorem stnSpoil_event (s : State) (n : Nat) (hn : n < 8) (recs : List Nat) (c : Nat) (g : Fld) (ha : g.addr = 0x803 + 0x80 * n) (hg : g.hi < 18)
    (hs : g.hi < 1 ∨ 1 < g.lo) : (s.stnSpoil n recs c).get g = s.get g := by
  unfold State.stnSpoil
  dsimp only
  split
  · rfl
  · refine (event_get_apart _ _ _ _ _ _ hg hs).trans ?_
    refine (foldl_keeps (fun t => t.get g) (fun t _ => ?_) _ _).trans ?_
    · unfold State.bump
      split
      · exact State.get_put_ne _ (f := Reg.STN_SPOILS_COUNT n) _ (by rw [ha]; show _ ≠ 0x81C + 0x80 * n; omega)
      · rfl
    · refine (State.get_put_ne _ (f := Reg.STN_SPOIL_CAUSE n) _ (by rw [ha]; show _ ≠ 0x81B + 0x80 * n; omega)).trans ?_
      exact (Same.ledEventNow s _).get g (by unfold belowLed; omega)

/-- The CUTOFF condition starts (R235). -/
theorem cutoffStart_facts (s : State) (n : Nat) (hn : n < 8) : ((s.cutoffStart n).stn n).cutoff = true ∧ ((s.cutoffStart n).stn n).sbLost = (s.stn n).sbLost ∧
    (s.cutoffStart n).get (Reg.STN_STATUS_BLANK n) = 1 ∧
    (∀ g : Fld, offSpoil n g.addr → g.addr ≠ 0x802 + 0x80 * n → (s.cutoffStart n).get g = s.get g) ∧
    (∀ g : Fld, g.addr = 0x803 + 0x80 * n → g.hi < 18 → (g.hi < 1 ∨ 1 < g.lo) → (s.cutoffStart n).get g = s.get g) ∧
    ((s.cutoffStart n).stn n).lastRpt = (s.stn n).lastRpt := by
  unfold State.cutoffStart State.spoilProgress
  dsimp only
  generalize hu : ((s.put (Reg.STN_STATUS_BLANK n) 1).setStn n { s.stn n with cutoff := true, blankDue := !s.flag (Reg.STN_STATUS_BLANK n) }) = u
  have u1 : u.stn n = { s.stn n with cutoff := true, blankDue := !s.flag (Reg.STN_STATUS_BLANK n) } := by rw [← hu]; exact State.stn_setStn_same _ _ _
  have u2 : ∀ g : Fld, u.get g = (s.put (Reg.STN_STATUS_BLANK n) 1).get g := fun g => by rw [← hu]; exact get_setStn _ _ _ _
  have k := Same.stnSpoil u n (u.stn n).inProgress 3
  refine ⟨?_, ?_, ?_, fun g h1 h2 => ?_, fun g h1 h2 h3 => ?_, ?_⟩
  · rw [k.stn n, u1]
  · rw [k.stn n, u1]
  · rw [k.get _ ⟨⟨by show 0x800 ≤ 0x802 + 0x80 * n; omega, by show 0x802 + 0x80 * n < 0xC00; omega⟩, (by show 0x802 + 0x80 * n ≠ 0x803 + 0x80 * n; omega), (by show 0x802 + 0x80 * n ≠ 0x81B + 0x80 * n; omega), (by show 0x802 + 0x80 * n ≠ 0x81C + 0x80 * n; omega)⟩, u2]
    exact State.get_put_same _ (Reg.STN_STATUS_BLANK n) 1 (lt_rfl rfl) (lt_rfl rfl)
  · rw [k.get _ h1, u2]
    exact State.get_put_ne _ (f := Reg.STN_STATUS_BLANK n) _ h2
  · rw [stnSpoil_event u n hn _ _ g h1 h2 h3, u2]
    exact State.get_put_ne _ (f := Reg.STN_STATUS_BLANK n) _ (by rw [h1]; show _ ≠ 0x802 + 0x80 * n; omega)
  · rw [k.stn n, u1]

theorem stnEvent_get (s : State) (n : Nat) (ev : Nat → Fld) (g : Fld) (h : g.addr ≠ (ev n).addr) : (s.stnEvent n ev).get g = s.get g := event_get_ne _ _ _ _ _ _ h

theorem stnEvent_stn (s : State) (n m : Nat) (ev : Nat → Fld) : (s.stnEvent n ev).stn m = s.stn m := stn_congr (event_stns _ _ _ _ _) m

/-- One bit of a word, read as a field. -/
theorem bit_field (s : State) (a i : Nat) (hi : i < 18) : bit (s.get ⟨a, 17, 0⟩) i = s.flag ⟨a, i, i⟩ := by
  have e : s.get ⟨a, i, i⟩ = if (s.reg a).toNat.testBit i then 1 else 0 := by
    unfold State.get
    apply Nat.eq_of_testBit_eq
    intro j
    rw [bits_testBit]
    by_cases hj : j = 0
    · subst hj
      simp only [Nat.add_zero]
      rw [decide_eq_true (show 0 < i + 1 - i by omega), Bool.true_and]
      cases (s.reg a).toNat.testBit i <;> rfl
    · rw [decide_eq_false (show ¬(j < i + 1 - i) by omega), Bool.false_and]
      cases (s.reg a).toNat.testBit i
      · simp
      · exact (Nat.testBit_lt_two_pow (Nat.one_lt_two_pow hj)).symm
  unfold State.flag
  rw [e, bit_eq]
  show (bits (s.reg a).toNat 17 0).testBit i = _
  rw [bits_testBit, Nat.zero_add, decide_eq_true (show i < 17 + 1 - 0 by omega), Bool.true_and]
  cases (s.reg a).toNat.testBit i <;> rfl

end Sys2Proof.Machine
end

