-- ==== Sys2Proof/Laws/Boot.lean ====
section
/-! SUPPORT. What booting an image reads, and what a cluster that leaves hands over. -/

set_option Elab.async false

namespace Sys2Proof.Machine
open Sys2Proof

/-- The image that is booted is read (R362). -/
theorem Same.bootRead (s : State) : Same offAccess s s.bootRead := by
  unfold State.bootRead
  exact Same.ite (Same.meetCws _ _ _) (Same.rfl' s)

/-- What boots depends on the firmware's registers alone. -/
theorem bootChoice_same {s t : State} (h : Same offAccess s t) : t.bootChoice = s.bootChoice := by
  have e : ∀ f : Fld, 0xE00 ≤ f.addr → t.get f = s.get f := fun f hf => h.get f (by unfold offAccess; omega)
  unfold State.bootChoice State.slotState State.slotVersion
  dsimp only
  simp only [e (Reg.FW_SLOT_STATE 0) (by decide), e (Reg.FW_SLOT_STATE 1) (by decide), e (Reg.FW_VER_LO_VERSION 0) (by decide),
    e (Reg.FW_VER_LO_VERSION 1) (by decide), e (Reg.FW_VER_HI_VERSION 0) (by decide), e (Reg.FW_VER_HI_VERSION 1) (by decide)]

/-- One channel of a cluster f that leaves, and of any other. -/
theorem serverMove (s : State) (f c g : Nat) (hg : g < 4) (d : Nat) (hd : d < 5) (hc : c < 5) :
    ((s.drawWord.2).put (Reg.MB_STAT_SERVER c) g).get (Reg.MB_STAT_SERVER d) = if d = c then g else s.get (Reg.MB_STAT_SERVER d) := by
  split
  · next h => subst h; exact State.get_put_same _ _ _ (by show 7 < 18; decide) (by show g < 2 ^ (7 + 1 - 6); omega)
  · next h => exact State.get_put_ne _ _ (by show 0x306 + 0x10 * d ≠ 0x306 + 0x10 * c; omega)

/-- The channels of cluster f go to clusters in service (R363, R366). -/
theorem handOver_server (s : State) (f : Nat) (hf : s.cluOn f = false) :
    (∀ a, (∀ c, c < 5 → a ≠ 0x306 + 0x10 * c) → (s.handOver f).1.reg a = s.reg a) ∧ (s.handOver f).1.pwr = s.pwr ∧
    ((∃ g, g < 4 ∧ s.cluOn g = true) → ∀ c, c < 5 → s.cluOn ((s.handOver f).1.get (Reg.MB_STAT_SERVER c)) = true ∨
      (s.handOver f).1.get (Reg.MB_STAT_SERVER c) = s.get (Reg.MB_STAT_SERVER c) ∧ s.get (Reg.MB_STAT_SERVER c) ≠ f) := by
  unfold State.handOver
  dsimp only
  split
  · next h =>
    refine ⟨fun _ _ => rfl, rfl, fun ⟨g, g1, g2⟩ => ?_⟩
    exfalso
    have : g ∈ [0, 1, 2, 3].filter (fun g => decide (g ≠ f) && s.cluOn g) := by
      rw [List.mem_filter]
      refine ⟨by rcases (by omega : g = 0 ∨ g = 1 ∨ g = 2 ∨ g = 3) with h | h | h | h <;> subst h <;> decide, ?_⟩
      have : g ≠ f := fun e => by subst e; rw [hf] at g2; cases g2
      simp [this, g2]
    rw [List.isEmpty_iff] at h
    rw [h] at this
    cases this
  · next h =>
    generalize ho : [0, 1, 2, 3].filter (fun g => decide (g ≠ f) && s.cluOn g) = others at h
    have hm : ∀ g, g ∈ others → g < 4 ∧ s.cluOn g = true := by
      intro g hg
      rw [← ho, List.mem_filter] at hg
      refine ⟨?_, by have := hg.2; simp only [Bool.and_eq_true] at this; exact this.2⟩
      have := hg.1
      simp only [List.mem_cons, List.not_mem_nil, or_false] at this
      omega
    have hl : 0 < others.length := by
      cases others with
      | nil => exact absurd rfl h
      | cons a b => exact Nat.succ_pos _
    have hget : ∀ k, others.getD (k % others.length) 0 ∈ others := by
      intro k
      rw [List.getD_eq_getElem _ _ (Nat.mod_lt _ hl)]
      exact List.getElem_mem _
    -- the fold over the channels below m
    have key : ∀ (l : List Nat), (∀ c, c ∈ l → c < 5) → ∀ (t : State) (xs : List Nat),
        (∀ a, (∀ c, c < 5 → a ≠ 0x306 + 0x10 * c) → (l.foldl (fun (acc : State × List Nat) c =>
          if acc.1.get (Reg.MB_STAT_SERVER c) = f then
            ((acc.1.drawWord).2.put (Reg.MB_STAT_SERVER c) (others.getD ((acc.1.drawWord).1.toNat % others.length) 0), acc.2 ++ [c])
          else acc) (t, xs)).1.reg a = t.reg a) ∧
        (l.foldl (fun (acc : State × List Nat) c =>
          if acc.1.get (Reg.MB_STAT_SERVER c) = f then
            ((acc.1.drawWord).2.put (Reg.MB_STAT_SERVER c) (others.getD ((acc.1.drawWord).1.toNat % others.length) 0), acc.2 ++ [c])
          else acc) (t, xs)).1.pwr = t.pwr ∧
        ∀ d, d < 5 → (let v := (l.foldl (fun (acc : State × List Nat) c =>
          if acc.1.get (Reg.MB_STAT_SERVER c) = f then
            ((acc.1.drawWord).2.put (Reg.MB_STAT_SERVER c) (others.getD ((acc.1.drawWord).1.toNat % others.length) 0), acc.2 ++ [c])
          else acc) (t, xs)).1.get (Reg.MB_STAT_SERVER d)
          v ∈ others ∨ v = t.get (Reg.MB_STAT_SERVER d) ∧ (d ∈ l → v ≠ f)) := by
      intro l
      induction l with
      | nil => exact fun _ t xs => ⟨fun _ _ => rfl, rfl, fun d _ => .inr ⟨rfl, fun h => by cases h⟩⟩
      | cons c l ih =>
        intro hl5 t xs
        have hc : c < 5 := hl5 c (List.mem_cons_self ..)
        rw [List.foldl_cons]
        dsimp only
        split
        · next hcf =>
          obtain ⟨i1, i2, i3⟩ := ih (fun c h => hl5 c (List.mem_cons_of_mem _ h))
            ((t.drawWord).2.put (Reg.MB_STAT_SERVER c) (others.getD ((t.drawWord).1.toNat % others.length) 0)) (xs ++ [c])
          have hg := hget (t.drawWord).1.toNat
          refine ⟨fun a ha => (i1 a ha).trans (State.reg_put_ne _ _ (ha c hc)), i2, fun d hd => ?_⟩
          have e := serverMove t f c (others.getD ((t.drawWord).1.toNat % others.length) 0) (hm _ hg).1 d hd hc
          rcases i3 d hd with i | ⟨ia, ib⟩
          · exact .inl i
          · rw [e] at ia
            by_cases hdc : d = c
            · rw [if_pos hdc] at ia
              exact .inl (by rw [ia]; exact hg)
            · rw [if_neg hdc] at ia
              exact .inr ⟨ia, fun hx => ib (by rcases List.mem_cons.mp hx with h | h; exact absurd h hdc; exact h)⟩
        · next hcf =>
          obtain ⟨i1, i2, i3⟩ := ih (fun c h => hl5 c (List.mem_cons_of_mem _ h)) t xs
          refine ⟨i1, i2, fun d hd => ?_⟩
          rcases i3 d hd with i | ⟨ia, ib⟩
          · exact .inl i
          · refine .inr ⟨ia, fun hx => ?_⟩
            rcases List.mem_cons.mp hx with h | h
            · subst h
              exact fun e => hcf (ia ▸ e)
            · exact ib h
    obtain ⟨k1, k2, k3⟩ := key (List.range 5) (fun c h => List.mem_range.mp h) s []
    refine ⟨k1, k2, fun _ c hc => ?_⟩
    rcases k3 c hc with k | ⟨ka, kb⟩
    · exact .inl (hm _ k).2
    · exact .inr ⟨ka, by rw [← ka]; exact kb (List.mem_range.mpr hc)⟩

/-- Every cluster that leaves hands its channels over (R363, R366). -/
theorem handOvers_server (fs : List Nat) : ∀ s : State, (∀ f, f ∈ fs → s.cluOn f = false) →
    (∀ a, (∀ c, c < 5 → a ≠ 0x306 + 0x10 * c) → (fs.foldl (fun (t : State) f => (t.handOver f).1) s).reg a = s.reg a) ∧
    (fs.foldl (fun (t : State) f => (t.handOver f).1) s).pwr = s.pwr ∧
    ((∃ g, g < 4 ∧ s.cluOn g = true) → ∀ c, c < 5 →
      s.cluOn ((fs.foldl (fun (t : State) f => (t.handOver f).1) s).get (Reg.MB_STAT_SERVER c)) = true ∨
      (fs.foldl (fun (t : State) f => (t.handOver f).1) s).get (Reg.MB_STAT_SERVER c) = s.get (Reg.MB_STAT_SERVER c) ∧ s.get (Reg.MB_STAT_SERVER c) ∉ fs) := by
  induction fs with
  | nil => exact fun s _ => ⟨fun _ _ => rfl, rfl, fun _ c _ => .inr ⟨rfl, by simp⟩⟩
  | cons f fs ih =>
    intro s hs
    obtain ⟨h1, h2, h3⟩ := handOver_server s f (hs f (List.mem_cons_self ..))
    have hon : ∀ g, (s.handOver f).1.cluOn g = s.cluOn g := by
      intro g
      unfold State.cluOn State.get
      rw [h1 _ (fun c hc => by show 0xE05 ≠ 0x306 + 0x10 * c; omega)]
    obtain ⟨i1, i2, i3⟩ := ih (s.handOver f).1 (fun g hg => (hon g).trans (hs g (List.mem_cons_of_mem _ hg)))
    refine ⟨fun a ha => (i1 a ha).trans (h1 a ha), i2.trans h2, fun hg c hc => ?_⟩
    have hg2 : ∃ g, g < 4 ∧ (s.handOver f).1.cluOn g = true := by
      obtain ⟨g, g1, g2⟩ := hg
      exact ⟨g, g1, (hon g).trans g2⟩
    rcases i3 hg2 c hc with i | ⟨ia, ib⟩
    · exact .inl ((hon _).symm.trans i)
    · rcases h3 hg c hc with j | ⟨ja, jb⟩
      · refine .inl ?_
        show s.cluOn ((fs.foldl _ (s.handOver f).1).get _) = true
        rw [ia]
        exact j
      · refine .inr ⟨ia.trans ja, fun hx => ?_⟩
        rcases List.mem_cons.mp hx with e | e
        · exact jb e
        · exact ib (ja ▸ e)

end Sys2Proof.Machine
end

