-- ==== Sys2Proof/Laws/Frames.lean ====
section
/-! SUPPORT. What every command keeps, in one lemma: its mask names the parts of the state that it may change. -/

-- Proof bodies are elaborated in order: elaborated in parallel they wait on one another, each in a thread of its own.
set_option Elab.async false

namespace Sys2Proof.Machine
open Sys2Proof

/-- The parts of the state that a command may change. -/
def commandMask : Instr → Nat
  | .vstbyGood => 0x2e2761007f
  | .vstbyLost => 0x603761004a
  | .wakeStart => 0x29eff3007f
  | .darkToWaking => 0x29eff3007f
  | .reload _ => 0x200101007e
  | .scriptDelayDone => 0x69fff3007f
  | .waitPgDone => 0x9eff3007f
  | .waitPgTimeout _ => 0x603761004a
  | .shutdownDrop => 0x603761004a
  | .cPllLock => 0x10000
  | .pllLockTimeout => 0x603761004a
  | .sealReadDone => 0x3001190060
  | .restoreWaveDone => 0x382113007f
  | .clearingDone => 0x810000
  | .counterRecovery => 0x40110060
  | .firmwareBooted _ => 0x7801130070
  | .bootTimeout => 0x1000110040
  | .openSheetRebuild => 0x3ae793007f
  | .resetNLow => 0x787777007e
  | .resetNHigh => 0x10000
  | .strapSample _ => 0x10000
  | .strapPhaseEnd => 0x80001007f
  | .pwrokFall => 0x3867130060
  | .pwrokRise => 0x10002
  | .warmReset _ _ => 0x787777007e
  | .powerDownRequest _ => 0x3867130060
  | .wake _ => 0x2
  | .drainImagingLimit => 0x3867130060
  | .drainStoreStart => 0x603771006a
  | .clockLoss => 0x787777007e
  | .refclkLoss _ => 0x3ae793007f
  | .sPllUnlock => 0x7867130060
  | .sPllRelock => 0x4010000
  | .crystalStop => 0x2001010004
  | .crystalRestart => 0x10000
  | .channelOut _ _ _ => 0x7bfff7007f
  | .channelIn _ => 0x210002
  | .firstFailSpill => 0x30000000
  | .freeChannelArm _ => 0x10000
  | .volleyWarn _ => 0x2001010002
  | .vholdSample _ => 0x2001010062
  | .volleyWaveStart _ => 0x7a77f7007e
  | .storeSealStart => 0x3a67b3007e
  | .storeSealComplete _ => 0x7a77f7007e
  | .vholdFloor _ => 0x603765006a
  | .progressCodeStep => 0x10000
  | .ckpt _ => 0x20
  | .checkpointStart => 0x2003300060
  | .checkpointWaveStart => 0x3a67b6007e
  | .doorbellPoll _ _ => 0x2001000000
  | .pollDataArrival _ _ => 0x2001000060
  | .pollError _ _ => 0x2001000060
  | .pollFailTimeout _ => 0x2001000060
  | .fetchError _ _ _ => 0x3a6792007e
  | .hostDataArrival _ _ _ _ _ _ => 0x3a6792007e
  | .hostReadTimeout _ _ _ _ => 0x3a6792007e
  | .cqTimeExpiry _ _ => 0x2001000000
  | .msixUnmask _ _ => 0x2001000000
  | .sqEnable _ _ _ _ => 0x3a6792007e
  | .sqDisable _ _ _ _ => 0x3a6792007e
  | .cqEnable _ _ _ _ => 0x3a6792007e
  | .cqDisable _ _ _ _ => 0x3a6792007e
  | .replayWrite _ => 0x2001100060
  | .cutDiscard _ _ => 0x2001100000
  | .retrain _ _ => 0x2001000060
  | .laneBad _ _ _ _ => 0x3ae792007f
  | .linkRetrained _ _ => 0x3a6792007e
  | .linkDown _ => 0x3ae792007f
  | .linkUp _ _ _ => 0x1010060
  | .perstLow _ => 0x3ae792007f
  | .perstHigh _ => 0x2001000000
  | .flr _ => 0x3ae792007f
  | .d3hotEntry _ => 0x1000000
  | .d0Entry _ => 0x3ae792007f
  | .aspmL1Entry _ => 0x2805100040
  | .nop _ _ _ => 0x3a6792007e
  | .write _ _ _ _ _ => 0x3a6792007e
  | .read _ _ _ _ => 0x3a6792007e
  | .correctedRewrite _ => 0x20000
  | .copy _ _ _ _ => 0x3a6792007e
  | .fill _ _ _ _ => 0x3a6792007e
  | .move _ _ _ => 0x3a6792007e
  | .moveForward _ _ => 0x3a6793007e
  | .moveTimeout _ => 0x3a6792007e
  | .forwardEnd _ _ => 0x3a67d7007e
  | .word18Write _ _ _ _ _ => 0x3a6792007e
  | .word18Read _ _ _ _ => 0x3a6792007e
  | .rasterPost _ _ _ _ => 0x3a6792007e
  | .sheetJoinQueue _ => 0x3a6792007e
  | .rasterPostPublish _ _ _ => 0x3a6792007e
  | .tableLoad _ _ _ _ _ => 0x3a6792007e
  | .tableSwap _ _ _ => 0x3a6792007e
  | .tableSwapReady _ _ _ _ => 0x3a6792007e
  | .ledgerOpen _ _ _ _ => 0x3a6792007e
  | .ledgerStage _ _ _ _ => 0x3a6792007e
  | .ledgerQuery _ _ _ _ => 0x3a6792007e
  | .counterRead _ _ _ _ => 0x3a6792007e
  | .keepRead _ _ _ _ => 0x3a6792007e
  | .keepWrite _ _ _ _ _ => 0x3a6792007e
  | .recordPut _ _ _ _ _ => 0x3a6792007e
  | .recordGet _ _ _ _ => 0x3a6792007e
  | .rtcRead _ _ _ => 0x3a6792007e
  | .rtcSet _ _ _ => 0x3a6792007e
  | .checkpoint _ _ _ => 0x3a6792007e
  | .abort _ _ _ => 0x3a6792007e
  | .badOpcode _ _ _ _ => 0x3a6792007e
  | .waitLimitExpiry _ _ _ => 0x3a6792007e
  | .partAttr _ _ _ => 0x3a67d7007e
  | .partRegion _ _ _ => 0x3a67d7007e
  | .regionClearDone _ => 0x3a6792007e
  | .clusterSlow _ _ => 0x3a6793007e
  | .eccLimit _ _ => 0x3a6793007e
  | .liveCopyDone _ _ => 0x3a6793007e
  | .region63RelocDone _ => 0x3a679b007e
  | .arm _ _ => 0x2805000060
  | .disarm _ _ => 0x3a6793007e
  | .noSos _ => 0x2001000040
  | .sxsPulse _ _ _ _ _ => 0x7a6793007e
  | .eosWindowOpen _ => 0x4000000
  | .eosWindowEnd _ => 0x2005000040
  | .armingWindowOpen _ => 0x4000000
  | .stall _ => 0x7845120060
  | .facetEnd _ => 0x3a6793007e
  | .lineFetch _ _ => 0x3845120060
  | .amBoundary _ => 0x7845120060
  | .temp _ _ _ => 0x3845120060
  | .cutoffBlank _ _ => 0x4004000000
  | .dead _ _ _ => 0x2005000040
  | .lane _ _ _ _ => 0x3845120060
  | .late _ _ _ => 0x3845120060
  | .fault _ _ _ => 0x2005000040
  | .sbErr _ => 0x2005000040
  | .sbLost _ => 0x3845120060
  | .go _ _ _ => 0x2004000040
  | .setupFrameDone _ _ _ _ => 0x2005000040
  | .train _ _ => 0x2004000040
  | .trainingStepDone _ _ => 0x2005000040
  | .encoderCount _ _ _ => 0x384d120060
  | .encoderLos _ => 0x2009000040
  | .encCountLatch _ _ => 0x2000000040
  | .revert _ _ _ => 0x4000000
  | .copyingDone _ _ => 0x3a6792007e
  | .fnAdj _ _ _ => 0x4000040
  | .stagePulse _ => 0x3841120060
  | .jamPulse => 0x3841120060
  | .stageTimeout _ _ => 0x3841120060
  | .counterCopyStart => 0x70000040
  | .ledCntSel _ _ => 0x40
  | .pageWriteStart => 0x72010048
  | .pageWritePhase => 0x30000000
  | .pageWriteDone _ => 0x7bfff3007f
  | .keepRdata _ => 0x2000000008
  | .keepWdata _ _ => 0x20000008
  | .keepCmdWrite _ => 0x20010048
  | .clear _ => 0x20010048
  | .flush _ => 0x20010048
  | .bpUpdate _ _ => 0x30000008
  | .keepHot _ _ => 0x3a6793007e
  | .hotRangeSwitch => 0x3a6792007e
  | .mailboxWrite _ _ _ _ => 0x2081000070
  | .mailboxPop _ _ _ => 0x2081000070
  | .possRead _ _ => 0x2100000000
  | .possRelease _ _ _ => 0x100000000
  | .possForce _ _ _ => 0x100000000
  | .rtcTick => 0x220100007e
  | .trimWindow => 0x200000000
  | .alarmWrite _ _ _ _ => 0x20000007c
  | .alarmComputeDone _ => 0x220100007e
  | .registerSet _ => 0x220100007e
  | .timeBlockRead _ _ => 0x2200000000
  | .shadowRelease _ => 0x200000000
  | .retentionFail => 0x2001010004
  | .cellAttach => 0x20001002e
  | .vbatReturn => 0x10000
  | .mportNop _ _ => 0x2400000000
  | .mportWrite _ _ _ => 0x7ff7f7007f
  | .mportRead _ _ => 0x2781000079
  | .frameRefused _ _ _ => 0x2400000001
  | .shortFrame _ => 0x1
  | .tapInstruction _ _ => 0x2800000000
  | .sweeperCycleStart => 0x2805100040
  | .runNow _ => 0x2805100040
  | .sweeperTestStep _ _ _ => 0x7a6793007e
  | .windowRedirect => 0x800000000
  | .windowYield => 0x800000040
  | .emitterTestResult _ _ _ => 0x3805100060
  | .swpLogSel _ _ => 0x40
  | .load _ => 0x2801000040
  | .loadDone => 0x3a6793007e
  | .activate _ => 0x2801000040
  | .activationStep _ => 0x7867130070
  | .erase _ _ => 0x2801020040
  | .fwToken _ _ => 0x800000000
  | .lcApply _ => 0x3ae792007f
  | .lcWipeStep _ => 0x7bf7ff007f
  | .coreWatchdog _ => 0x7867130070
  | .registerWrite _ _ _ => 0x7bf7f7007f
  | .functionReady _ => 0x1000000
  | .losClear _ => 0x8000000
  | .chargerFull _ => 0x2

/-- Every command answers a next state, and keeps the queue, the invariant and every part outside its mask. -/
theorem exec_kept (c : Instr) {s : State} (hI : s.Inv) : ∃ u, exec c s = .next u ∧ Kept (commandMask c) s.pending s u := by
  cases c with
  | vstbyGood => exact execVstbyGood_kept hI
  | vstbyLost => exact execVstbyLost_kept hI
  | wakeStart => exact execWakeStart_kept hI
  | darkToWaking => exact execDarkToWaking_kept hI
  | reload from_ => exact execReload_kept hI from_
  | scriptDelayDone => exact execScriptDelayDone_kept hI
  | waitPgDone => exact execWaitPgDone_kept hI
  | waitPgTimeout above => exact execWaitPgTimeout_kept hI above
  | shutdownDrop => exact execShutdownDrop_kept hI
  | cPllLock => exact execCPllLock_kept hI
  | pllLockTimeout => exact execPllLockTimeout_kept hI
  | sealReadDone => exact execSealReadDone_kept hI
  | restoreWaveDone => exact execRestoreWaveDone_kept hI
  | clearingDone => exact execClearingDone_kept hI
  | counterRecovery => exact execCounterRecovery_kept hI
  | firmwareBooted cores => exact execFirmwareBooted_kept hI cores
  | bootTimeout => exact execBootTimeout_kept hI
  | openSheetRebuild => exact execOpenSheetRebuild_kept hI
  | resetNLow => exact execResetNLow_kept hI
  | resetNHigh => exact execResetNHigh_kept hI
  | strapSample mp => exact execStrapSample_kept hI mp
  | strapPhaseEnd => exact execStrapPhaseEnd_kept hI
  | pwrokFall => exact execPwrokFall_kept hI
  | pwrokRise => exact execPwrokRise_kept hI
  | warmReset from_ key => exact execWarmReset_kept hI from_ key
  | powerDownRequest from_ => exact execPowerDownRequest_kept hI from_
  | wake from_ => exact execWake_kept hI from_
  | drainImagingLimit => exact execDrainImagingLimit_kept hI
  | drainStoreStart => exact execDrainStoreStart_kept hI
  | clockLoss => exact execClockLoss_kept hI
  | refclkLoss port => exact execRefclkLoss_kept hI port
  | sPllUnlock => exact execSPllUnlock_kept hI
  | sPllRelock => exact execSPllRelock_kept hI
  | crystalStop => exact execCrystalStop_kept hI
  | crystalRestart => exact execCrystalRestart_kept hI
  | channelOut c high also => exact execChannelOut_kept hI c high also
  | channelIn c => exact execChannelIn_kept hI c
  | firstFailSpill => exact execFirstFailSpill_kept hI
  | freeChannelArm c => exact execFreeChannelArm_kept hI c
  | volleyWarn below => exact execVolleyWarn_kept hI below
  | vholdSample code => exact execVholdSample_kept hI code
  | volleyWaveStart vhold => exact execVolleyWaveStart_kept hI vhold
  | storeSealStart => exact execStoreSealStart_kept hI
  | storeSealComplete vhold => exact execStoreSealComplete_kept hI vhold
  | vholdFloor elapsed => exact execVholdFloor_kept hI elapsed
  | progressCodeStep => exact execProgressCodeStep_kept hI
  | ckpt from_ => exact execCkpt_kept hI from_
  | checkpointStart => exact execCheckpointStart_kept hI
  | checkpointWaveStart => exact execCheckpointWaveStart_kept hI
  | doorbellPoll h idle => exact execDoorbellPoll_kept hI h idle
  | pollDataArrival h block => exact execPollDataArrival_kept hI h block
  | pollError h why => exact execPollError_kept hI h why
  | pollFailTimeout h => exact execPollFailTimeout_kept hI h
  | fetchError h j why => exact execFetchError_kept hI h j why
  | hostDataArrival h j tag data ups pads => exact execHostDataArrival_kept hI h j tag data ups pads
  | hostReadTimeout h j tag lost => exact execHostReadTimeout_kept hI h j tag lost
  | cqTimeExpiry h j => exact execCqTimeExpiry_kept hI h j
  | msixUnmask h vec => exact execMsixUnmask_kept hI h vec
  | sqEnable from_ h j value => exact execSqEnable_kept hI from_ h j value
  | sqDisable from_ h j value => exact execSqDisable_kept hI from_ h j value
  | cqEnable from_ h j value => exact execCqEnable_kept hI from_ h j value
  | cqDisable from_ h j value => exact execCqDisable_kept hI from_ h j value
  | replayWrite h => exact execReplayWrite_kept hI h
  | cutDiscard from_ h => exact execCutDiscard_kept hI from_ h
  | retrain from_ h => exact execRetrain_kept hI from_ h
  | laneBad h lane speed errors => exact execLaneBad_kept hI h lane speed errors
  | linkRetrained h speed => exact execLinkRetrained_kept hI h speed
  | linkDown h => exact execLinkDown_kept hI h
  | linkUp h speed width => exact execLinkUp_kept hI h speed width
  | perstLow h => exact execPerstLow_kept hI h
  | perstHigh h => exact execPerstHigh_kept hI h
  | flr h => exact execFlr_kept hI h
  | d3hotEntry h => exact execD3hotEntry_kept hI h
  | d0Entry h => exact execD0Entry_kept hI h
  | aspmL1Entry h => exact execAspmL1Entry_kept hI h
  | nop h j d => exact execNop_kept hI h j d
  | write h j d data ups => exact execWrite_kept hI h j d data ups
  | read h j d ups => exact execRead_kept hI h j d ups
  | correctedRewrite codeword => exact execCorrectedRewrite_kept hI codeword
  | copy h j d ups => exact execCopy_kept hI h j d ups
  | fill h j d ups => exact execFill_kept hI h j d ups
  | move h j d => exact execMove_kept hI h j d
  | moveForward n ups => exact execMoveForward_kept hI n ups
  | moveTimeout n => exact execMoveTimeout_kept hI n
  | forwardEnd from_ n => exact execForwardEnd_kept hI from_ n
  | word18Write h j d data ups => exact execWord18Write_kept hI h j d data ups
  | word18Read h j d ups => exact execWord18Read_kept hI h j d ups
  | rasterPost h j d data => exact execRasterPost_kept hI h j d data
  | sheetJoinQueue n => exact execSheetJoinQueue_kept hI n
  | rasterPostPublish h j tag => exact execRasterPostPublish_kept hI h j tag
  | tableLoad h j d data pads => exact execTableLoad_kept hI h j d data pads
  | tableSwap h j d => exact execTableSwap_kept hI h j d
  | tableSwapReady h j tag t => exact execTableSwapReady_kept hI h j tag t
  | ledgerOpen h j d pads => exact execLedgerOpen_kept hI h j d pads
  | ledgerStage h j d pads => exact execLedgerStage_kept hI h j d pads
  | ledgerQuery h j d pads => exact execLedgerQuery_kept hI h j d pads
  | counterRead h j d pads => exact execCounterRead_kept hI h j d pads
  | keepRead h j d pads => exact execKeepRead_kept hI h j d pads
  | keepWrite h j d data pads => exact execKeepWrite_kept hI h j d data pads
  | recordPut h j d data pads => exact execRecordPut_kept hI h j d data pads
  | recordGet h j d pads => exact execRecordGet_kept hI h j d pads
  | rtcRead h j d => exact execRtcRead_kept hI h j d
  | rtcSet h j d => exact execRtcSet_kept hI h j d
  | checkpoint h j d => exact execCheckpoint_kept hI h j d
  | abort h j d => exact execAbort_kept hI h j d
  | badOpcode h j opcode d => exact execBadOpcode_kept hI h j opcode d
  | waitLimitExpiry h j tag => exact execWaitLimitExpiry_kept hI h j tag
  | partAttr from_ p value => exact execPartAttr_kept hI from_ p value
  | partRegion from_ r value => exact execPartRegion_kept hI from_ r value
  | regionClearDone r => exact execRegionClearDone_kept hI r
  | clusterSlow r cluster => exact execClusterSlow_kept hI r cluster
  | eccLimit r cluster => exact execEccLimit_kept hI r cluster
  | liveCopyDone r ups => exact execLiveCopyDone_kept hI r ups
  | region63RelocDone ups => exact execRegion63RelocDone_kept hI ups
  | arm from_ n => exact execArm_kept hI from_ n
  | disarm from_ n => exact execDisarm_kept hI from_ n
  | noSos n => exact execNoSos_kept hI n
  | sxsPulse n t width high leave => exact execSxsPulse_kept hI n t width high leave
  | eosWindowOpen n => exact execEosWindowOpen_kept hI n
  | eosWindowEnd n => exact execEosWindowEnd_kept hI n
  | armingWindowOpen n => exact execArmingWindowOpen_kept hI n
  | stall n => exact execStall_kept hI n
  | facetEnd n => exact execFacetEnd_kept hI n
  | lineFetch n ups => exact execLineFetch_kept hI n ups
  | amBoundary n => exact execAmBoundary_kept hI n
  | temp n cnt level => exact execTemp_kept hI n cnt level
  | cutoffBlank n first => exact execCutoffBlank_kept hI n first
  | dead n cnt emitter => exact execDead_kept hI n cnt emitter
  | lane n cnt lane amc => exact execLane_kept hI n cnt lane amc
  | late n cnt fseq => exact execLate_kept hI n cnt fseq
  | fault n cnt code => exact execFault_kept hI n cnt code
  | sbErr n => exact execSbErr_kept hI n
  | sbLost n => exact execSbLost_kept hI n
  | go from_ n value => exact execGo_kept hI from_ n value
  | setupFrameDone n ack parityOk data => exact execSetupFrameDone_kept hI n ack parityOk data
  | train from_ n => exact execTrain_kept hI from_ n
  | trainingStepDone n reply => exact execTrainingStepDone_kept hI n reply
  | encoderCount enc ba close => exact execEncoderCount_kept hI enc ba close
  | encoderLos enc => exact execEncoderLos_kept hI enc
  | encCountLatch from_ n => exact execEncCountLatch_kept hI from_ n
  | revert from_ n mask => exact execRevert_kept hI from_ n mask
  | copyingDone n table => exact execCopyingDone_kept hI n table
  | fnAdj from_ n value => exact execFnAdj_kept hI from_ n value
  | stagePulse pin => exact execStagePulse_kept hI pin
  | jamPulse => exact execJamPulse_kept hI
  | stageTimeout queue index => exact execStageTimeout_kept hI queue index
  | counterCopyStart => exact execCounterCopyStart_kept hI
  | ledCntSel from_ value => exact execLedCntSel_kept hI from_ value
  | pageWriteStart => exact execPageWriteStart_kept hI
  | pageWritePhase => exact execPageWritePhase_kept hI
  | pageWriteDone bad => exact execPageWriteDone_kept hI bad
  | keepRdata from_ => exact execKeepRdata_kept hI from_
  | keepWdata from_ value => exact execKeepWdata_kept hI from_ value
  | keepCmdWrite from_ => exact execKeepCmdWrite_kept hI from_
  | clear from_ => exact execClear_kept hI from_
  | flush from_ => exact execFlush_kept hI from_
  | bpUpdate from_ bp => exact execBpUpdate_kept hI from_ bp
  | keepHot from_ value => exact execKeepHot_kept hI from_ value
  | hotRangeSwitch => exact execHotRangeSwitch_kept hI
  | mailboxWrite from_ c towardB value => exact execMailboxWrite_kept hI from_ c towardB value
  | mailboxPop from_ c towardB => exact execMailboxPop_kept hI from_ c towardB
  | possRead from_ k => exact execPossRead_kept hI from_ k
  | possRelease from_ k value => exact execPossRelease_kept hI from_ k value
  | possForce from_ high value => exact execPossForce_kept hI from_ high value
  | rtcTick => exact execRtcTick_kept hI
  | trimWindow => exact execTrimWindow_kept hI
  | alarmWrite from_ k word value => exact execAlarmWrite_kept hI from_ k word value
  | alarmComputeDone k => exact execAlarmComputeDone_kept hI k
  | registerSet from_ => exact execRegisterSet_kept hI from_
  | timeBlockRead from_ word => exact execTimeBlockRead_kept hI from_ word
  | shadowRelease from_ => exact execShadowRelease_kept hI from_
  | retentionFail => exact execRetentionFail_kept hI
  | cellAttach => exact execCellAttach_kept hI
  | vbatReturn => exact execVbatReturn_kept hI
  | mportNop start addr => exact execMportNop_kept hI start addr
  | mportWrite start addr data => exact execMportWrite_kept hI start addr data
  | mportRead start addr => exact execMportRead_kept hI start addr
  | frameRefused start opcode addr => exact execFrameRefused_kept hI start opcode addr
  | shortFrame edges => exact execShortFrame_kept hI edges
  | tapInstruction umber op => exact execTapInstruction_kept hI umber op
  | sweeperCycleStart => exact execSweeperCycleStart_kept hI
  | runNow from_ => exact execRunNow_kept hI from_
  | sweeperTestStep test failed detail => exact execSweeperTestStep_kept hI test failed detail
  | windowRedirect => exact execWindowRedirect_kept hI
  | windowYield => exact execWindowYield_kept hI
  | emitterTestResult n emitter res => exact execEmitterTestResult_kept hI n emitter res
  | swpLogSel from_ value => exact execSwpLogSel_kept hI from_ value
  | load from_ => exact execLoad_kept hI from_
  | loadDone => exact execLoadDone_kept hI
  | activate from_ => exact execActivate_kept hI from_
  | activationStep ok => exact execActivationStep_kept hI ok
  | erase from_ slot => exact execErase_kept hI from_ slot
  | fwToken from_ value => exact execFwToken_kept hI from_ value
  | lcApply from_ => exact execLcApply_kept hI from_
  | lcWipeStep cores => exact execLcWipeStep_kept hI cores
  | coreWatchdog core => exact execCoreWatchdog_kept hI core
  | registerWrite from_ addr value => exact execRegisterWrite_kept hI from_ addr value
  | functionReady h => exact execFunctionReady_kept hI h
  | losClear enc => exact execLosClear_kept hI enc
  | chargerFull full => exact execChargerFull_kept hI full

/-- The same of a next state that a command answers. -/
theorem exec_next {c : Instr} {s t : State} (hI : s.Inv) (h : exec c s = .next t) : Kept (commandMask c) s.pending s t := by
  obtain ⟨u, e, k⟩ := exec_kept c hI
  rw [h] at e
  cases e
  exact k

end Sys2Proof.Machine
end

