-- ==== Sys2Proof/WellFormed.lean ====
section
/-! DEFINITION. Which operands a command can carry: the checks on what the outside can present. The machine's meanings do
not rest on them; they say which commands stand for something the hardware can meet. -/

namespace Sys2Proof

/-- Array codewords are 2^28 in number (Table 1-1). -/
def Upset.wf (u : Upset) : Bool := decide (u.codeword < 2 ^ 28)

/-- A host's register access comes from H0 to H4 (Table 0-6, R14, R18). -/
def senderWf (x : Sender) : Bool := decide (x.toNat ≤ 4)

/-- The agents that Table 0-6 gives an ID: the hosts, the firmware clusters, Sweeper and the hardware. -/
def agentWf (x : Sender) : Bool := decide (x.toNat ≤ 4 ∨ (8 ≤ x.toNat ∧ x.toNat ≤ 11) ∨ 14 ≤ x.toNat)

/-- An opcode that no row of Table 7-2 has (R193). -/
def badOpcodeWf (o : Byte) : Bool :=
  let n := o.toNat
  !(decide (n ≤ 0x07) || decide (0x10 ≤ n ∧ n ≤ 0x12) || decide (0x20 ≤ n ∧ n ≤ 0x23) || decide (0x30 ≤ n ∧ n ≤ 0x33) ||
    decide (n = 0x38 ∨ n = 0x39 ∨ n = 0x3C ∨ n = 0x3F))

/-- A frame that Table 14-2 refuses (R339): no opcode of the table, or address bits [13:12] not 0. -/
def refusedWf (opcode : Byte) (addr : BitVec 14) : Bool :=
  !(decide (opcode = 0x00#8 ∨ opcode = 0x02#8 ∨ opcode = 0x03#8) && decide (addr.toNat < 4096))

/-- Host data fits a descriptor's largest LEN (R197). -/
def HostData.wf (d : HostData) : Bool := decide (d.bytes.length ≤ 2 ^ 26)

/-- A write of a register by its number comes from an agent; any other request from a PCIe host, and a memory request has at least
one dword. -/
def accessWf (x : Sender) (p : RegPlace) (q : RegRequest) : Bool :=
  match p, q with
  | .reg _, .word _ => agentWf x
  | _, .word _ => decide (1 ≤ x.toNat ∧ x.toNat ≤ 4)
  | _, .write n _ _ => decide (1 ≤ x.toNat ∧ x.toNat ≤ 4 ∧ 1 ≤ n)
  | _, .read n => decide (1 ≤ x.toNat ∧ x.toNat ≤ 4 ∧ 1 ≤ n)

/-- A command's operands are ones the hardware can meet. -/
def Instr.wf (i : Instr) : Bool :=
  match i with
  | .vstbyGood => true
  | .vstbyLost => true
  | .wakeStart => true
  | .darkToWaking => true
  | .reload from_ => senderWf from_
  | .scriptDelayDone => true
  | .waitPgDone => true
  | .waitPgTimeout _ => true
  | .shutdownDrop => true
  | .cPllLock => true
  | .pllLockTimeout => true
  | .sealReadDone => true
  | .restoreWaveDone => true
  | .clearingDone => true
  | .counterRecovery => true
  | .firmwareBooted _ => true
  | .bootTimeout => true
  | .openSheetRebuild => true
  | .resetNLow => true
  | .resetNHigh => true
  | .strapSample _ => true
  | .strapPhaseEnd => true
  | .pwrokFall => true
  | .pwrokRise => true
  | .warmReset from_ _ => senderWf from_
  | .powerDownRequest from_ => senderWf from_
  | .wake from_ => senderWf from_
  | .drainImagingLimit => true
  | .drainStoreStart => true
  | .clockLoss => true
  | .refclkLoss _ => true
  | .sPllUnlock => true
  | .sPllRelock => true
  | .crystalStop => true
  | .crystalRestart => true
  | .channelOut _ _ _ => true
  | .channelIn _ => true
  | .firstFailSpill => true
  | .freeChannelArm _ => true
  | .volleyWarn _ => true
  | .vholdSample _ => true
  | .volleyWaveStart _ => true
  | .storeSealStart => true
  | .storeSealComplete _ => true
  | .vholdFloor _ => true
  | .progressCodeStep => true
  | .ckpt from_ => senderWf from_
  | .checkpointStart => true
  | .checkpointWaveStart => true
  | .doorbellPoll _ _ => true
  | .pollDataArrival _ _ => true
  | .pollError _ _ => true
  | .pollFailTimeout _ => true
  | .fetchError _ _ _ => true
  | .hostDataArrival _ _ _ data ups _ => data.wf && ups.all Upset.wf
  | .hostReadTimeout _ _ _ _ => true
  | .cqTimeExpiry _ _ => true
  | .msixUnmask _ _ => true
  | .sqEnable from_ _ _ _ => senderWf from_
  | .sqDisable from_ _ _ _ => senderWf from_
  | .cqEnable from_ _ _ _ => senderWf from_
  | .cqDisable from_ _ _ _ => senderWf from_
  | .replayWrite _ => true
  | .cutDiscard from_ _ => senderWf from_
  | .retrain from_ _ => senderWf from_
  | .laneBad _ _ _ _ => true
  | .linkRetrained _ _ => true
  | .linkDown _ => true
  | .linkUp _ _ _ => true
  | .perstLow _ => true
  | .perstHigh _ => true
  | .flr _ => true
  | .d3hotEntry _ => true
  | .d0Entry _ => true
  | .aspmL1Entry _ => true
  | .nop _ _ _ => true
  | .write _ _ _ data ups => data.wf && ups.all Upset.wf
  | .read _ _ _ ups => ups.all Upset.wf
  | .correctedRewrite _ => true
  | .copy _ _ _ ups => ups.all Upset.wf
  | .fill _ _ _ ups => ups.all Upset.wf
  | .move _ _ _ => true
  | .moveForward _ ups => ups.all Upset.wf
  | .moveTimeout _ => true
  | .forwardEnd from_ _ => senderWf from_
  | .word18Write _ _ _ data ups => data.wf && ups.all Upset.wf
  | .word18Read _ _ _ ups => ups.all Upset.wf
  | .rasterPost _ _ _ data => data.wf
  | .sheetJoinQueue _ => true
  | .rasterPostPublish _ _ _ => true
  | .tableLoad _ _ _ data _ => data.wf
  | .tableSwap _ _ _ => true
  | .tableSwapReady _ _ _ _ => true
  | .ledgerOpen _ _ _ _ => true
  | .ledgerStage _ _ _ _ => true
  | .ledgerQuery _ _ _ _ => true
  | .counterRead _ _ _ _ => true
  | .keepRead _ _ _ _ => true
  | .keepWrite _ _ _ data _ => data.wf
  | .recordPut _ _ _ data _ => data.wf
  | .recordGet _ _ _ _ => true
  | .rtcRead _ _ _ => true
  | .rtcSet _ _ _ => true
  | .checkpoint _ _ _ => true
  | .abort _ _ _ => true
  | .badOpcode _ _ opcode _ => badOpcodeWf opcode
  | .waitLimitExpiry _ _ _ => true
  | .partAttr from_ _ _ => senderWf from_
  | .partRegion from_ _ _ => senderWf from_
  | .regionClearDone _ => true
  | .clusterSlow _ _ => true
  | .eccLimit _ _ => true
  | .liveCopyDone _ ups => ups.all Upset.wf
  | .region63RelocDone ups => ups.all Upset.wf
  | .arm from_ _ => senderWf from_
  | .disarm from_ _ => senderWf from_
  | .noSos _ => true
  | .sxsPulse _ _ width _ _ => decide (0 < width)
  | .eosWindowOpen _ => true
  | .eosWindowEnd _ => true
  | .armingWindowOpen _ => true
  | .stall _ => true
  | .facetEnd _ => true
  | .lineFetch _ ups => ups.all Upset.wf
  | .amBoundary _ => true
  | .temp _ _ _ => true
  | .cutoffBlank _ _ => true
  | .dead _ _ _ => true
  | .lane _ _ _ _ => true
  | .late _ _ _ => true
  | .fault _ _ _ => true
  | .sbErr _ => true
  | .sbLost _ => true
  | .go from_ _ _ => senderWf from_
  | .setupFrameDone _ _ _ _ => true
  | .train from_ _ => senderWf from_
  | .trainingStepDone _ _ => true
  | .encoderCount _ _ _ => true
  | .encoderLos _ => true
  | .encCountLatch from_ _ => senderWf from_
  | .revert from_ _ _ => senderWf from_
  | .copyingDone _ _ => true
  | .fnAdj from_ _ _ => senderWf from_
  | .stagePulse _ => true
  | .jamPulse => true
  | .stageTimeout _ _ => true
  | .counterCopyStart => true
  | .ledCntSel from_ _ => senderWf from_
  | .pageWriteStart => true
  | .pageWritePhase => true
  | .pageWriteDone _ => true
  | .keepRdata from_ => senderWf from_
  | .keepWdata from_ _ => senderWf from_
  | .keepCmdWrite from_ => senderWf from_
  | .clear from_ => senderWf from_
  | .flush from_ => senderWf from_
  | .bpUpdate from_ _ => senderWf from_
  | .keepHot from_ _ => senderWf from_
  | .hotRangeSwitch => true
  | .mailboxWrite from_ _ _ v => agentWf from_ && v.others.all (fun p => agentWf p.1)
  | .mailboxPop from_ _ r => agentWf from_ && r.writes.all (fun p => agentWf p.1)
  | .possRead from_ _ => agentWf from_
  | .possRelease from_ _ _ => agentWf from_
  | .possForce from_ _ _ => senderWf from_
  | .rtcTick => true
  | .trimWindow => true
  | .alarmWrite from_ _ _ _ => senderWf from_
  | .alarmComputeDone _ => true
  | .registerSet from_ => agentWf from_
  | .timeBlockRead from_ _ => agentWf from_
  | .shadowRelease from_ => agentWf from_
  | .retentionFail => true
  | .cellAttach => true
  | .vbatReturn => true
  | .mportNop _ _ => true
  | .mportWrite _ _ _ => true
  | .mportRead _ _ => true
  | .frameRefused _ opcode addr => refusedWf opcode addr
  | .shortFrame edges => decide (edges < 40)
  | .tapInstruction _ _ => true
  | .sweeperCycleStart => true
  | .runNow from_ => senderWf from_
  | .sweeperTestStep _ _ _ => true
  | .windowRedirect => true
  | .windowYield => true
  | .emitterTestResult _ _ _ => true
  | .swpLogSel from_ _ => senderWf from_
  | .load from_ => senderWf from_
  | .loadDone => true
  | .activate from_ => senderWf from_
  | .activationStep _ => true
  | .erase from_ _ => senderWf from_
  | .fwToken from_ _ => senderWf from_
  | .lcApply from_ => senderWf from_
  | .lcWipeStep _ => true
  | .coreWatchdog _ => true
  | .registerWrite from_ addr value => accessWf from_ addr value
  | .functionReady _ => true
  | .losClear _ => true
  | .chargerFull _ => true

end Sys2Proof
end

