-- ==== Sys2Proof/Tests/Slice0.lean ====
section
/-! SUPPORT. Tests of the model on small states, and for each statement of Certificates/Slice0/Obligations.lean states and
operands that meet the hypotheses of each of its clauses. -/

-- Proof bodies are elaborated in order: elaborated in parallel they wait on one another, each in a thread of its own.
set_option Elab.async false

namespace Sys2Proof.Tests
open Sys2Proof Sys2Proof.Machine

/-! States the tests start from -/

/-- A state of the power state p, RESET_N and PWROK high. -/
def stIn (p : PState) : State := { pwr := { st := p, resetN := true, pwrok := true } }

/-- RUN with every station, HOST1 and HOST3 (H2 and H4) present. -/
def stRun : State := { stIn .run with regs := [(0x003, 0x3FC4), (0x008, 3)] }

/-- Change the power record of a state. -/
def pwrOf (s : State) (f : Pwr → Pwr) : State := { s with pwr := f s.pwr }

/-- Words of a record's copy in the Keep, COMMITTED, at page p. -/
def keepRecord (p seq : Nat) (payload : List Nat) : Map Word :=
  (indexed (recordWords seq payload)).map (fun e => (64 * p + e.1, keepWord tagCommitted e.2))

/-- A rail-script record of two steps, raise EN0 and halt (Table 5-5). -/
def scriptRecord : List Nat :=
  [0x0102] ++ (List.range 12).map (fun _ => 0xB432) ++ (List.range 12).map (fun _ => 0x000F) ++ [0, 5, 0x1000, 0, 0x8000, 0]

/-- A waking device with PLLs locked and seals to be read. -/
def stWaking : State := pwrOf (stIn .waking) fun (p : Pwr) => { p with railDone := true, cpllLocked := true, sealsRead := true, wave1Done := true }

/-- The first canonical stores and the eight fused registers show the invariant. -/
theorem inv_of (s : State) (m : Memory.wf s = true)
    (f : (List.range 8).all (fun a => !fusedReg a || decide (s.reg a = regReset a)) = true) : s.Inv := by
  refine ⟨m, fun a ha => ?_⟩
  have h8 : a < 8 := by simp only [fusedReg, Bool.or_eq_true, decide_eq_true_eq] at ha; omega
  have := List.all_eq_true.mp f a (List.mem_range.mpr h8)
  simpa [ha] using this

/-- A record's words, all COMMITTED, are a valid copy: its CRC is the one that is checked. -/
theorem record_valid (seq : Nat) (payload : List Nat) :
    copyValid ((recordWords seq payload).map (keepWord tagCommitted)) = true := by
  have hd : ∀ d : BitVec 16, dataOf (keepWord tagCommitted d) = d := fun (d : BitVec 16) => by
    apply BitVec.eq_of_toNat_eq
    have := d.isLt
    simp only [dataOf, keepWord, tagCommitted, BitVec.toNat_setWidth, BitVec.toNat_ofNat]
    omega
  have ht : ∀ d : BitVec 16, tagOf (keepWord tagCommitted d) = tagCommitted := fun (d : BitVec 16) => by
    have := d.isLt
    simp only [tagOf, keepWord, tagCommitted, bits, BitVec.toNat_ofNat]
    omega
  have hm : ((recordWords seq payload).map (keepWord tagCommitted)).map dataOf = recordWords seq payload := by
    simp [List.map_map, Function.comp_def, hd]
  have hl : (BitVec.ofNat 16 seq :: (List.range 61).map (fun i => BitVec.ofNat 16 (payload.getD i 0))).length = 62 := by simp
  simp only [copyValid, hm, Bool.and_eq_true, List.all_map, decide_eq_true_eq]
  refine ⟨List.all_eq_true.mpr fun d _ => by simp [ht], ?_⟩
  unfold recordWords
  simp only
  generalize (BitVec.ofNat 16 seq :: (List.range 61).map (fun i => BitVec.ofNat 16 (payload.getD i 0))) = body at hl
  rw [show recordBytes (body ++ [_, _]) = recordBytes body from by unfold recordBytes; rw [List.take_append_of_le_length (by omega), List.take_of_length_le (by omega)]]
  generalize crc32c (recordBytes body) = c
  rw [List.getD_eq_getElem?_getD, List.getD_eq_getElem?_getD, List.getElem?_append_right (by omega), List.getElem?_append_right (by omega), hl]
  have := c.isLt
  simp [BitVec.toNat_setWidth, Nat.shiftRight_eq_div_pow]
  omega

/-- The 62 words of a record copy before its CRC. -/
def recordBody (seq : Nat) (payload : List Nat) : List (BitVec 16) :=
  BitVec.ofNat 16 seq :: (List.range 61).map (fun i => BitVec.ofNat 16 (payload.getD i 0))

/-- Words listed by address are read back in order. -/
theorem get_listed (d : Nat → Word) (b : Nat) (f : BitVec 16 → Word) : ∀ (ws : List (BitVec 16)) (o i : Nat), i < ws.length →
    Map.get d (((List.range' o ws.length).zip ws).map (fun e => (b + e.1, f e.2))) (b + o + i) = (ws.map f).getD i 0#18 := by
  intro ws
  induction ws with
  | nil => intro o i h; simp at h
  | cons w ws ih =>
    intro o i h
    cases i with
    | zero => simp [List.range'_succ, Map.get]
    | succ i =>
      have := ih (o + 1) i (by simpa using h)
      simp only [List.length_cons, List.range'_succ, List.zip_cons_cons, List.map_cons, Map.get]
      rw [if_neg (by omega), show b + o + (i + 1) = b + (o + 1) + i by omega, this]
      simp

/-- A page that holds a record's words reads as these words. -/
theorem page_of_record (s : State) (p seq : Nat) (payload : List Nat) (hp : p < 512) (h : s.isHot p = false)
    (hw : s.keep.words = keepRecord p seq payload) : s.readPage p = (recordWords seq payload).map (keepWord tagCommitted) := by
  have hl : (recordWords seq payload).length = 64 := by simp [recordWords]
  apply List.ext_getElem
  · simp [State.readPage, hl]
  intro i hi _
  have hi' : i < 64 := by simpa [State.readPage] using hi
  have hg := get_listed keepDefault (64 * p) (keepWord tagCommitted) (recordWords seq payload) 0 i (by omega)
  simp only [State.readPage, List.getElem_map, List.getElem_range, State.readKeep, State.keepArray]
  rw [show (64 * p + i) % 32768 / 64 = p by omega, h, hw, Nat.mod_eq_of_lt (by omega : 64 * p + i < 32768)]
  simp only [keepRecord, indexed, List.range_eq_range'] at hg ⊢
  simp only [Nat.add_zero] at hg
  rw [if_neg (by simp), hg, List.getD_eq_getElem?_getD, List.getElem?_map, List.getElem?_eq_getElem (by omega)]
  simp

/-- Such a copy A beside a fresh copy B is chosen. -/
theorem choice_of_record (s : State) (p seq : Nat) (payload : List Nat) (hp : p < 512) (h : s.isHot p = false)
    (hw : s.keep.words = keepRecord p seq payload) (hb : copyValid (s.readPage (p + 1)) = false) (hs : seq < 65536) :
    s.chooseRecord p = some ⟨false, seq, (List.range 61).map (fun i => payload.getD i 0 % 65536), false⟩ := by
  have ht : ∀ d : BitVec 16, (keepWord tagCommitted d).toNat % 2 ^ 16 = d.toNat := fun (d : BitVec 16) => by
    have := d.isLt
    simp only [keepWord, tagCommitted, BitVec.toNat_ofNat]; omega
  have h1 : copySeq ((recordWords seq payload).map (keepWord tagCommitted)) = seq := by
    simp only [copySeq, recordWords, List.cons_append, List.map_cons, List.getD_cons_zero, ht, BitVec.toNat_ofNat]; omega
  have h2 : copyPayload ((recordWords seq payload).map (keepWord tagCommitted)) = (List.range 61).map (fun i => payload.getD i 0 % 65536) := by
    simp only [copyPayload, recordWords, List.cons_append, List.map_cons, List.drop_succ_cons, List.drop_zero, List.map_append]
    rw [List.take_append_of_le_length (by simp), List.take_of_length_le (by simp)]
    simp only [List.map_map, Function.comp_def, ht, BitVec.toNat_ofNat]
  simp only [State.chooseRecord, page_of_record s p seq payload hp h hw, record_valid, hb, h1, h2]

/-- A device in RUN with that record in copy A. -/
def stRecord : State := { stRun with keep := { words := keepRecord 64 1 scriptRecord } }

/-- Its payload as it is chosen. -/
def scriptPayload : List Nat := (List.range 61).map (fun i => scriptRecord.getD i 0 % 65536)

theorem user_of_record (s : State) (hw : s.keep.words = keepRecord 64 1 scriptRecord) (hh : s.isHot 64 = false)
    (hb : copyValid (s.readPage 65) = false) : s.userRecord = some scriptPayload := by
  simp only [State.userRecord, choice_of_record s 64 1 scriptRecord (by decide) hh hw hb (by decide)]
  decide

/-- A waking device with one counter copy in the Keep: counter 3 stands at 100. -/
def stCopied : State :=
  { stWaking with keep := { words := keepRecord 68 1 (State.counterPayload { dev := { counters := [(3, 100)] } } 1) } }

theorem no_other_copy : ∀ p, p < 63 → stCopied.chooseRecord (68 + 2 * (p + 1)) = none := by decide

/-- The copy's payload. -/
def copyRecord : List Nat := State.counterPayload { dev := { counters := [(3, 100)] } } 1

theorem first_copy : stCopied.chooseRecord 68 = some ⟨false, 1, (List.range 61).map (fun i => copyRecord.getD i 0 % 65536), false⟩ :=
  choice_of_record stCopied 68 1 copyRecord (by decide) (by decide) rfl (by decide) (by decide)

theorem no_copies : ((List.range 63).map (· + 1)).filterMap
    (fun p => (stCopied.chooseRecord (68 + 2 * p)).bind (fun c => counterRecord c.payload)) = [] := by
  rw [List.filterMap_eq_nil_iff]
  intro p hp
  obtain ⟨q, hq, rfl⟩ := List.mem_map.mp hp
  simp only [no_other_copy q (List.mem_range.mp hq), Option.bind_none]

theorem newest_first (f : Nat → Option (Nat × List Nat)) (g : Option (Nat × List Nat) → Nat × List Nat → Option (Nat × List Nat))
    (x : Option (Nat × List Nat)) (hg : ∀ e, g none e = some e) (h0 : f 0 = x) (hn : ((List.range 63).map (· + 1)).filterMap f = []) :
    ((List.range 64).filterMap f).foldl g none = x := by
  rw [show List.range 64 = 0 :: (List.range 63).map (· + 1) from rfl, List.filterMap_cons, h0]
  cases x with
  | none => simp [hn]
  | some e => simp [hn, hg]

theorem copy_of_record : stCopied.newestCopy = counterRecord ((List.range 61).map (fun i => copyRecord.getD i 0 % 65536)) :=
  newest_first _ _ _ (fun _ => rfl) (by rw [show 68 + 2 * 0 = 68 from rfl, first_copy, Option.bind_some]) no_copies

/-- An entry of a list of small numbers, or 0 past its end, is small. -/
theorem getD_small (n : Nat) (hn : 0 < n) (l : List Nat) (h : ∀ x, x ∈ l → x < n) (i : Nat) : l.getD i 0 < n := by
  rw [List.getD_eq_getElem?_getD]
  cases hi : l[i]? with
  | none => simpa using hn
  | some x => simpa using h x (List.mem_of_getElem? hi)

/-- Memory Space, Bus Master and MSI-X enabled. -/
def cfgOn : Map (BitVec 32) := [(0x01, 0x6#32), (0x14, 0x80000000#32)]

/-- H1's and H3's functions are ready. -/
def stHost : State :=
  { stRun with hosts := [(0, { perstN := true, up := true, ready := true, cfg := cfgOn }),
      (2, { perstN := true, up := true, ready := true, cfg := cfgOn })] }

/-- H1 with SQ0 and CQ0 active, one window over all of its memory, one descriptor on its way; partition 0, H1's, holds region 0;
H1 owns station 0, whose lines are 32 bytes. -/
def stRing : State :=
  { stRun with
    hosts := [(0, { perstN := true, up := true, ready := true, cfg := cfgOn, fetching := [(0, 1)] })]
    regs := [(0x003, 0x3FC4), (0x008, 3), (0x440, 0x08000), (0x480, 0x30001), (0x720, 0x00440), (0x738, 0x20000), (0x73C, 0x20000),
      (0x740, 0x10000), (0x74A, 0x3FFFF), (0x801, 1), (0x80C, 1)] }

/-- H1's rings with one descriptor in progress. -/
def stFlight (f : Flight) : State := { stRing with flights := [f] }

/-- Station 0 armed with its link up and a ring of 512 lines in region 0; record 5 of the ledger is open for sheet 77. -/
def stStn : State :=
  { stRing with
    arr := [(63, { cells := [(40, 77), (45, 0x01010)] })]
    regs := [(0x003, 0x3FC4), (0x008, 3), (0x440, 0x08000), (0x480, 0x34001), (0x720, 0x00440), (0x738, 0x20000), (0x73C, 0x20000),
      (0x740, 0x10000), (0x74A, 0x3FFFF), (0x801, 1), (0x802, 0x20000), (0x80B, 512), (0x80C, 1), (0x812, 1), (0x81A, 0x3E000),
      (0x861, 0x27FC0)] }

/-- The same with station 0 disarmed. -/
def stIdle : State := stStn.put (Reg.STN_STATUS_ARMED 0) 0

/-- The same with station 0 in a state of its own. -/
def stWith (x : Stn) : State := stStn.setStn 0 x

/-- A waking device whose plane A holds a region's seal of epoch 1. -/
def stSealed (r : Nat) : State :=
  { stWaking with
    sealA := ((List.range 8).zip (sealFor { cause := .power, frozen := true, regions := [63], indep := [r], epoch := 1 } r).words).map
      (fun e => (8 * r + e.1, e.2)) }

/-- Wave 1 is to come, and region 63 comes back from plane A. -/
def stKept : State := pwrOf (stSealed 63) fun (p : Pwr) => { p with wave1Done := false }

/-- Region 0 is left for a later wave. -/
def stLater : State := pwrOf (stSealed 0) fun (p : Pwr) => { p with restoreLeft := [0] }

theorem all_met {α : Type} (p : α → Bool) (xs : List α) (h : xs.all p = true) : ∀ a, a ∈ xs → p a = true :=
  fun a m => List.all_eq_true.mp h a m

theorem chosen_met (s : State) (r : Nat) (h : (chosen s.seals r).isSome = true) : ∃ c, chosen s.seals r = some c :=
  Option.isSome_iff_exists.mp h

/-- Every clause of PowerStateEntry has its hypotheses met. -/
theorem test_met_PowerStateEntry :
    (∃ (s : State), s.pwr.st = .off) ∧
    (∃ (s : State), (s.pwr.st = .standby ∨ s.pwr.st = .dark)) ∧
    (∃ (s : State), (s.pwr.st = .standby ∨ s.pwr.st = .dark)) ∧
    (∃ (s : State), s.pwr.st = .standby ∧ s.mayWake = true ∧ s.get Reg.SUP_PWR_HOLD = 0) ∧
    (∃ (s : State), s.pwr.st = .dark ∧ s.mayWake = true) ∧
    (∃ (s : State), s.pwr.st = .dark ∧ s.mayWake = true ∧ s.keepBusy = true) :=
  ⟨⟨{}, by decide⟩,
   ⟨stIn .standby, by decide⟩,
   ⟨stIn .dark, by decide⟩,
   ⟨stIn .standby, by decide, by decide, by decide⟩,
   ⟨stIn .dark, by decide, by decide⟩,
   ⟨{ stIn .dark with keep := { run := some ⟨.spill, 66, [], [], 1⟩ } }, by decide, by decide, by decide⟩⟩

/-- Every clause of RailScriptSteps has its hypotheses met. -/
theorem test_met_RailScriptSteps :
    (∃ (x : Sender) (s : State) (p : List Nat), s.reaches x 0x128 true = true ∧ isH0 x = true ∧ s.keepBusy = false ∧
      s.userRecord = some p ∧ s.pwr.seq ≠ .idle) ∧
    (∃ (x : Sender) (s : State) (p : List Nat), s.reaches x 0x128 true = true ∧ isH0 x = true ∧ s.keepBusy = false ∧
      s.userRecord = some p ∧ s.pwr.seq = .idle) ∧
    (∃ (c : Nat), c < 12) ∧
    (∃ (c : Nat), c < 12) ∧
    (∃ (s : State) (x : ScriptStep), s.pwr.scriptWait = none ∧ s.curStep = some x ∧ x.op = .delay ∧ s.pwr.seq = .wake) ∧
    (∃ (s : State) (x : ScriptStep), s.pwr.scriptWait = none ∧ s.curStep = some x ∧ x.op = .delay ∧ s.pwr.seq = .shutdown) ∧
    (∃ (s : State) (x : ScriptStep) (c : Nat), s.pwr.seq = .wake ∧ s.pwr.scriptWait = none ∧ s.curStep = some x ∧ x.op =
      .waitPg c ∧ bit (s.get Reg.SUP_OUT_OUT) c = false) ∧
    (∃ (s : State) (x : ScriptStep) (c : Nat), s.pwr.seq = .wake ∧ s.pwr.scriptWait = none ∧ s.curStep = some x ∧ x.op =
      .waitPg c ∧ c < 12 ∧ s.get Reg.SUP_FIRST_SPILL_PENDING = 0) ∧
    (∃ (s : State) (g : Nat) (k : Nat) (gs : List Nat), s.pwr.seq = .reverse ∧ s.pwr.raised = g :: k :: gs ∧ k ≠ g ∧ g < 8) ∧
    (∃ (s : State), s.pwr.st = .waking ∧ s.pwr.railDone = true ∧ s.pwr.cpllLocked = false) ∧
    (∃ (s : State), s.pwr.st = .waking ∧ s.pwr.railDone = true ∧ s.pwr.cpllLocked = false) ∧
    (∃ (s : State), s.pwr.st = .waking ∧ s.pwr.railDone = true ∧ s.pwr.cpllLocked = false) ∧
    (∃ (s : State), s.pwr.st = .waking ∧ s.pwr.railDone = true ∧ s.pwr.cpllLocked = false) ∧
    (∃ (s : State), s.pwr.st = .waking ∧ s.pwr.railDone = true ∧ s.pwr.cpllLocked = false) ∧
    (∃ (s : State), s.pwr.st = .waking ∧ s.pwr.railDone = true ∧ s.pwr.cpllLocked = false) ∧
    (∃ (s : State), s.pwr.st = .waking ∧ s.pwr.railDone = true ∧ s.pwr.cpllLocked = false) ∧
    (∃ (s : State), s.pwr.st = .waking ∧ s.pwr.railDone = true ∧ s.pwr.cpllLocked = false) :=
  ⟨⟨0#4, pwrOf stRecord fun (p : Pwr) => { p with seq := .wake }, scriptPayload, by decide, by decide, by decide,
      user_of_record _ rfl (by decide) (by decide), by decide⟩,
   ⟨0#4, stRecord, scriptPayload, by decide, by decide, by decide, user_of_record _ rfl (by decide) (by decide), by decide⟩,
   ⟨0, by decide⟩,
   ⟨11, by decide⟩,
   ⟨pwrOf (stIn .waking) fun (p : Pwr) => { p with seq := .wake, steps := [⟨false, .delay, 5⟩] }, ⟨false, .delay, 5⟩,
      by decide, by decide, by decide, by decide⟩,
   ⟨pwrOf (stIn .waking) fun (p : Pwr) => { p with seq := .shutdown, steps := [⟨true, .delay, 5⟩] }, ⟨true, .delay, 5⟩,
      by decide, by decide, by decide, by decide⟩,
   ⟨pwrOf (stIn .waking) fun (p : Pwr) => { p with seq := .wake, steps := [⟨false, .waitPg 2, 5⟩] }, ⟨false, .waitPg 2, 5⟩, 2,
      by decide, by decide, by decide, by decide, by decide⟩,
   ⟨pwrOf (stIn .waking) fun (p : Pwr) => { p with seq := .wake, steps := [⟨false, .waitPg 2, 5⟩] }, ⟨false, .waitPg 2, 5⟩, 2,
      by decide, by decide, by decide, by decide, by decide, by decide⟩,
   ⟨pwrOf (stIn .waking) fun (p : Pwr) => { p with seq := .reverse, raised := [7, 2] }, 7, 2, [], by decide, by decide,
      by decide, by decide⟩,
   ⟨pwrOf (stIn .waking) fun (p : Pwr) => { p with railDone := true }, by decide, by decide, by decide⟩,
   ⟨pwrOf (stIn .waking) fun (p : Pwr) => { p with railDone := true }, by decide, by decide, by decide⟩,
   ⟨pwrOf (stIn .waking) fun (p : Pwr) => { p with railDone := true }, by decide, by decide, by decide⟩,
   ⟨pwrOf (stIn .waking) fun (p : Pwr) => { p with railDone := true }, by decide, by decide, by decide⟩,
   ⟨pwrOf (stIn .waking) fun (p : Pwr) => { p with railDone := true }, by decide, by decide, by decide⟩,
   ⟨pwrOf (stIn .waking) fun (p : Pwr) => { p with railDone := true }, by decide, by decide, by decide⟩,
   ⟨pwrOf (stIn .waking) fun (p : Pwr) => { p with railDone := true }, by decide, by decide, by decide⟩,
   ⟨pwrOf (stIn .waking) fun (p : Pwr) => { p with railDone := true }, by decide, by decide, by decide⟩⟩

/-- Every clause of ReturnSteps has its hypotheses met. -/
theorem test_met_ReturnSteps :
    (∃ (s : State), s.pwr.st = .waking ∧ s.pwr.cpllLocked = true ∧ s.pwr.sealsRead = false ∧ s.fw.wipePending = none) ∧
    (∃ (s : State), s.pwr.st = .waking ∧ s.pwr.sealsRead = true ∧ (s.pwr.wave1Done = false ∨ s.pwr.restoreLeft ≠ [])) ∧
    (∃ (s : State), s.pwr.st = .waking ∧ s.pwr.sealsRead = true ∧ (s.pwr.wave1Done = false ∨ s.pwr.restoreLeft ≠ [])) ∧
    (∃ (s : State), s.pwr.st = .waking ∧ s.pwr.wave1Done = true) ∧
    (∃ (s : State), s.pwr.st = .waking ∧ s.pwr.wave1Done = true ∧ s.pwr.restoreLeft = [] ∧ s.pwr.counted = false ∧
      s.newestCopy = none) ∧
    (∃ (s : State) (c : Nat × List Nat), s.pwr.st = .waking ∧ s.pwr.wave1Done = true ∧ s.pwr.restoreLeft = [] ∧ s.pwr.counted
      = false ∧ s.newestCopy = some c ∧ ((∀ i, c.2.getD i 0 < 2 ^ 54)) ∧ c.1 < 2 ^ 32) ∧
    (∃ (s : State), s.pwr.st = .waking ∧ s.pwr.wave1Done = true ∧ s.pwr.booted = false ∧ (s.bootChoice = goldenImage ∨
      s.slotGood s.bootChoice = true)) ∧
    (∃ (s : State), s.pwr.st = .waking ∧ s.pwr.wave1Done = true ∧ s.pwr.booted = false ∧ s.bootChoice < 2) ∧
    (∃ (s : State), s.pwr.st = .waking ∧ s.pwr.wave1Done = true ∧ s.pwr.restoreLeft = [] ∧ s.pwr.cleared = true ∧
      s.pwr.counted = true ∧ s.pwr.booted = true ∧ ((∀ h : PHost, (s.host h).perstN = true)) ∧ s.Inv) :=
  ⟨⟨pwrOf stWaking fun (p : Pwr) => { p with sealsRead := false }, by decide, by decide, by decide, by decide⟩,
   ⟨pwrOf stWaking fun (p : Pwr) => { p with wave1Done := false }, by decide, by decide, by decide⟩,
   ⟨pwrOf stWaking fun (p : Pwr) => { p with restoreLeft := [62] }, by decide, by decide, .inr (by decide)⟩,
   ⟨stWaking, by decide, by decide⟩,
   ⟨stWaking, by decide +kernel, by decide +kernel, by decide +kernel, by decide +kernel, by decide +kernel⟩,
   ⟨stCopied, (1, (List.range 16).map (fun i => if i = 3 then 100 else 0)), by decide, by decide, by decide, by decide,
      copy_of_record.trans (by decide +kernel), getD_small _ (by decide) _ (by decide), by decide⟩,
   ⟨stWaking, by decide, by decide, by decide, .inl (by decide)⟩,
   ⟨stWaking.put (Reg.FW_SLOT_STATE 1) 2, by decide, by decide, by decide, by decide⟩,
   ⟨{ pwrOf stWaking fun (p : Pwr) => { p with cleared := true, counted := true, booted := true } with hosts := (List.range 4).map (fun h => (h, { perstN := true })) },
      by decide, by decide, by decide, by decide, by decide, by decide, by decide, inv_of _ (by decide) (by decide)⟩⟩

/-- Every clause of ResetAndStraps has its hypotheses met. -/
theorem test_met_ResetAndStraps :
    (∃ (s : State), s.pwr.resetN = true ∧ s.pwr.st = .run) ∧
    (∃ (s : State), s.pwr.resetN = true ∧ (s.pwr.st = .standby ∨ s.pwr.st = .dark)) ∧
    (∃ (s : State), s.pwr.resetN = true ∧ (s.pwr.st = .standby ∨ s.pwr.st = .dark)) ∧
    (∃ (s : State), s.pwr.resetN = false ∧ s.pwr.strapOn = true) ∧
    (∃ (s : State), s.pwr.strapOn = true ∧ s.pwr.strapTimed = true ∧ s.pwr.samp1 = none) ∧
    (∃ (a : BitVec 8) (s : State), s.pwr.strapOn = true ∧ s.pwr.strapTimed = true ∧ s.pwr.samp1 = some a ∧ s.pwr.samp2 = none)
      ∧
    (∃ (a : BitVec 8) (b : BitVec 8) (s : State), s.pwr.strapOn = true ∧ s.pwr.strapTimed = true ∧ s.pwr.samp1 = some a ∧
      s.pwr.samp2 = some b) ∧
    (∃ (s : State), s.pwr.pwrok = true ∧ s.pwr.st = .run ∧ s.Inv) ∧
    (∃ (s : State), s.pwr.pwrok = true ∧ s.pwr.st ≠ .run) ∧
    (∃ (s : State), s.pwr.pwrok = false ∧ s.pwr.st ≠ .off ∧ s.get Reg.ID_LC_STATE ≠ 3) ∧
    (∃ (s : State), s.pwr.pwrok = false ∧ s.pwr.st ≠ .off ∧ s.get Reg.ID_LC_STATE ≠ 3) ∧
    (∃ (x : Sender) (s : State), s.reaches x 0x00A true = true ∧ isH0 x = true ∧ s.pwr.st = .run) :=
  ⟨⟨stRun, by decide, by decide⟩,
   ⟨stIn .standby, by decide, by decide⟩,
   ⟨stIn .dark, by decide, by decide⟩,
   ⟨{ pwr := { st := .standby, strapOn := true } }, by decide, by decide⟩,
   ⟨{ pwr := { st := .standby, strapOn := true, strapTimed := true } }, by decide, by decide, by decide⟩,
   ⟨3#8, { pwr := { st := .standby, strapOn := true, strapTimed := true, samp1 := some 3#8 } }, by decide, by decide,
      by decide, by decide⟩,
   ⟨3#8, 1#8, { pwr := { st := .standby, strapOn := true, strapTimed := true, samp1 := some 3#8, samp2 := some 1#8 } },
      by decide, by decide, by decide, by decide⟩,
   ⟨stRun, by decide, by decide, inv_of _ (by decide) (by decide)⟩,
   ⟨stIn .drain, by decide, by decide⟩,
   ⟨{ pwr := { st := .drain, drainBy := some .pwrok } }, by decide, by decide, by decide⟩,
   ⟨{ pwr := { st := .standby } }, by decide, by decide, by decide⟩,
   ⟨0#4, stRun, by decide, by decide, by decide⟩⟩

/-- Every clause of PowerRequests has its hypotheses met. -/
theorem test_met_PowerRequests :
    (∃ (x : Sender) (s : State), s.reaches x 0x12B true = true ∧ (isH0 x = true ∨ hasRight x (s.get Reg.SUP_PWR_RIGHTS) =
      true) ∧ s.pwr.st = .run ∧ s.Inv) ∧
    (∃ (x : Sender) (s : State), s.reaches x 0x12B true = true ∧ (isH0 x = true ∨ hasRight x (s.get Reg.SUP_PWR_RIGHTS) =
      true) ∧ s.pwr.st = .run ∧ s.Inv) ∧
    (∃ (x : Sender) (s : State), s.reaches x 0x12B true = true ∧ isH0 x = true ∧ s.get Reg.ID_LC_STATE ≠ 3) ∧
    (∃ (s : State), s.pwr.st = .drain ∧ s.pwr.drainStep = .imaging ∧ ((∃ n, n < 8 ∧ s.stnArmed n = true)) ∧ ((∀ n, n < 8 →
      s.stnArmed n = true → (s.stn n).facet.isSome = true))) ∧
    (∃ (s : State), s.pwr.st = .drain ∧ s.pwr.drainStep = .ready ∧ s.store = none ∧ ((∀ f, f ∈ s.flights → f.op = .checkpoint
      ∨ f.compl.isSome = true)) ∧ s.noCheckpoint = false ∧ s.get Reg.VOL_RETURN_NO_EPOCH = 0 ∧ s.get Reg.ID_LC_WIPING = 0) ∧
    (∃ (s : State), s.pwr.st = .drain ∧ s.pwr.drainStep = .ready ∧ s.store = none ∧ ((∀ f, f ∈ s.flights → f.op = .checkpoint
      ∨ f.compl.isSome = true)) ∧ s.noCheckpoint = false ∧ s.get Reg.VOL_RETURN_NO_EPOCH = 0 ∧ s.get Reg.ID_LC_WIPING = 0) :=
  ⟨⟨0#4, stRun, by decide, by decide, by decide, inv_of _ (by decide) (by decide)⟩,
   ⟨1#4, (stHost).put Reg.SUP_PWR_RIGHTS 1, by decide, by decide, by decide, inv_of _ (by decide) (by decide)⟩,
   ⟨0#4, stIn .standby, by decide, by decide, by decide⟩,
   ⟨((stIn .drain).put (Reg.STN_STATUS_ARMED 7) 1).setStn 7 { facet := some ⟨1, 1, [], none⟩ }, by decide, by decide, ⟨7,
      by decide⟩, by decide⟩,
   ⟨pwrOf (stIn .drain) fun (p : Pwr) => { p with drainStep := .ready }, by decide, by decide, by decide, by decide,
      by decide, by decide, by decide⟩,
   ⟨{ pwrOf (stIn .drain) fun (p : Pwr) => { p with drainStep := .ready } with flights := [newFlight 0 0 .checkpoint {}, { newFlight 0 0 .nop {} with compl := some { status := 0 } }] },
      by decide, by decide, by decide, by decide, by decide, by decide, by decide⟩⟩

/-- Every clause of ClockFailures has its hypotheses met. -/
theorem test_met_ClockFailures :
    (∃ (s : State), s.pwr.st = .run) ∧
    (∃ (s : State), s.pwr.st = .drain ∧ s.pwr.drainStep = .storing ∧ s.store.isSome = true) ∧
    (∃ (port : Fin 2) (s : State), s.serving = true ∧ ((∀ h, h ∈ hostsOfPort port → (s.host h).up = false))) ∧
    (∃ (port : Fin 2) (s : State), s.serving = true ∧ ((∀ h, h ∈ hostsOfPort port → (s.host h).up = false))) ∧
    (∃ (port : Fin 2) (h : PHost) (s : State), s.serving = true ∧ (hostsOfPort port).filter (fun k => s.hostExists k &&
      (s.host k).up) = [h]) ∧
    (∃ (port : Fin 2) (h : PHost) (s : State), s.serving = true ∧ (hostsOfPort port).filter (fun k => s.hostExists k &&
      (s.host k).up) = [h]) ∧
    (∃ (n : StnId) (s : State), s.pwr.st = .run ∧ s.pwr.spll = true ∧ s.armedStations = [n] ∧ (s.stn n.val).disarming = false
      ∧ s.Inv) ∧
    (∃ (s : State), s.pwr.spll = false) ∧
    (∃ (s : State), s.pwr.retained = true) :=
  ⟨⟨stRun, by decide⟩,
   ⟨{ pwrOf (stIn .drain) (fun (p : Pwr) => { p with drainStep := .storing }) with store := some { cause := .drain } },
      by decide, by decide, by decide⟩,
   ⟨0, stRun, by decide, by decide⟩,
   ⟨1, stRun, by decide, by decide⟩,
   ⟨0, 0, stHost, by decide, by decide⟩,
   ⟨1, 2, stHost, by decide, by decide⟩,
   ⟨7, stRun.put (Reg.STN_STATUS_ARMED 7) 1, by decide, by decide, by decide, by decide, inv_of _ (by decide) (by decide)⟩,
   ⟨pwrOf stRun fun (p : Pwr) => { p with spll := false }, by decide⟩,
   ⟨pwrOf stRun fun (p : Pwr) => { p with retained := true }, by decide⟩⟩

/-- Every clause of SupervisionEvents has its hypotheses met. -/
theorem test_met_SupervisionEvents :
    (∃ (c : Fin 12) (high : Bool) (s : State), s.pwr.st ≠ .off ∧ bit (s.get Reg.SUP_OUT_OUT) c.val = false ∧ c.val ≠ 8 ∧
      (s.armed c.val = false ∨ s.action c.val high = 0)) ∧
    (∃ (c : Fin 12) (high : Bool) (s : State), s.pwr.st ≠ .off ∧ bit (s.get Reg.SUP_OUT_OUT) c.val = false ∧ c.val ≠ 8 ∧
      (s.armed c.val = false ∨ s.action c.val high = 0)) ∧
    (∃ (c : Fin 12) (high : Bool) (s : State), s.pwr.st ≠ .off ∧ bit (s.get Reg.SUP_OUT_OUT) c.val = false ∧ c.val ≠ 8 ∧
      s.armed c.val = true ∧ s.action c.val high = 1) ∧
    (∃ (c : Fin 12) (high : Bool) (s : State), s.pwr.st ≠ .off ∧ bit (s.get Reg.SUP_OUT_OUT) c.val = false ∧ c.val ≠ 8 ∧
      s.armed c.val = true ∧ s.action c.val high = 2) ∧
    (∃ (c : Fin 12) (high : Bool) (s : State), s.pwr.st ≠ .off ∧ bit (s.get Reg.SUP_OUT_OUT) c.val = false ∧ c.val ≠ 8 ∧
      s.armed c.val = true ∧ s.action c.val high = 2) ∧
    (∃ (c : Fin 12) (high : Bool) (s : State), s.pwr.st = .run ∧ bit (s.get Reg.SUP_OUT_OUT) c.val = false ∧ s.armed c.val =
      true ∧ s.action c.val high = 3 ∧ s.pwr.scriptWait ≠ some false) ∧
    (∃ (c : Fin 12) (high : Bool) (s : State), s.pwr.st = .run ∧ bit (s.get Reg.SUP_OUT_OUT) c.val = false ∧ s.armed c.val =
      true ∧ s.action c.val high = 3 ∧ s.pwr.scriptWait ≠ some false) ∧
    (∃ (c : Fin 12) (d : Fin 12) (high : Bool) (above : Bool) (s : State), c ≠ d ∧ s.pwr.st = .run ∧ bit (s.get
      Reg.SUP_OUT_OUT) c.val = false ∧ bit (s.get Reg.SUP_OUT_OUT) d.val = false ∧ s.armed c.val = true ∧ s.armed d.val = true
      ∧ s.action c.val high = 3 ∧ s.action d.val above ≠ 3 ∧ s.pwr.scriptWait ≠ some false) ∧
    (∃ (s : State), (s.pwr.st = .standby ∨ s.pwr.st = .dark) ∧ bit (s.get Reg.SUP_OUT_OUT) 8 = false) ∧
    (∃ (s : State), (s.pwr.st = .standby ∨ s.pwr.st = .dark) ∧ bit (s.get Reg.SUP_OUT_OUT) 8 = false) ∧
    (∃ (c : Fin 12) (s : State), s.pwr.st ≠ .off ∧ bit (s.get Reg.SUP_OUT_OUT) c.val = true ∧ s.store = none ∧ c.val ≠ 8) ∧
    (∃ (s : State), s.pwr.st ≠ .off ∧ bit (s.get Reg.SUP_OUT_OUT) 8 = true) ∧
    (∃ (s : State) (t : Store), s.pwr.st = .volley ∧ bit (s.get Reg.SUP_OUT_OUT) 0 = true ∧ s.store = some t) ∧
    (∃ (c : Fin 12) (s : State) (t : Store), s.pwr.st ≠ .off ∧ bit (s.get Reg.SUP_OUT_OUT) c.val = true ∧ s.store = some t) ∧
    (∃ (c : Fin 12) (s : State) (t : Store), s.pwr.st ≠ .off ∧ bit (s.get Reg.SUP_OUT_OUT) c.val = true ∧ s.store = some t) ∧
    (∃ (s : State), s.spillReady = true) ∧
    (∃ (c : Fin 12) (s : State), s.serving = true ∧ bit (freeMask s.pwr.steps) (s.get (Reg.SUP_CTL_GATE c.val)) = true ∧
      s.enHigh (s.get (Reg.SUP_CTL_GATE c.val)) = true ∧ bit (s.get Reg.SUP_OUT_OUT) c.val = false) ∧
    (∃ (s : State), s.serving = true ∧ s.pwr.warnN = true) ∧
    (∃ (s : State), s.serving = true ∧ (s.flag Reg.SUP_WARN_READY_WARN = false ∨ s.ready = true)) ∧
    (∃ (s : State), s.pwr.st ≠ .off ∧ s.serving = false) ∧
    (∃ (s : State), s.pwr.st ≠ .off) ∧
    (∃ (s : State), s.pwr.st ≠ .off) ∧
    (∃ (s : State), s.pwr.st ≠ .off) ∧
    (∃ (s : State), s.pwr.st ≠ .off) ∧
    (∃ (s : State), s.pwr.st ≠ .off ∧ s.vinGood = true ∧ s.store = none) ∧
    (∃ (s : State), s.pwr.st ≠ .off) ∧
    (∃ (s : State), s.pwr.st ≠ .off) ∧
    (∃ (s : State), s.pwr.st ≠ .off) ∧
    (∃ (s : State), s.pwr.st ≠ .off) :=
  ⟨⟨0, false, stIn .standby, by decide, by decide, by decide, by decide⟩,
   ⟨11, true, (stIn .standby).put (Reg.SUP_CTL_EN 11) 1, by decide, by decide, by decide, by decide⟩,
   ⟨11, true, (((pwrOf stRun (fun (p : Pwr) => { p with gateArmed := 0x800#12 })).put (Reg.SUP_CTL_EN 11) 1).put
      (Reg.SUP_CTL_GATE 11) 15).put (Reg.SUP_CTL_HI_ACT 11) 1, by decide, by decide, by decide, by decide, by decide⟩,
   ⟨1, false, ((stIn .standby).put (Reg.SUP_CTL_EN 1) 1).put (Reg.SUP_CTL_LO_ACT 1) 2, by decide, by decide, by decide,
      by decide, by decide⟩,
   ⟨11, true, ((stRun.put (Reg.SUP_CTL_EN 11) 1).put (Reg.SUP_CTL_GATE 11) 15).put (Reg.SUP_CTL_HI_ACT 11) 2, by decide,
      by decide, by decide, by decide, by decide⟩,
   ⟨0, false, (stRun.put (Reg.SUP_CTL_EN 0) 1).put (Reg.SUP_CTL_LO_ACT 0) 3, by decide, by decide, by decide, by decide,
      by decide⟩,
   ⟨11, true, ((stRun.put (Reg.SUP_CTL_EN 11) 1).put (Reg.SUP_CTL_GATE 11) 15).put (Reg.SUP_CTL_HI_ACT 11) 3, by decide,
      by decide, by decide, by decide, by decide⟩,
   ⟨0, 11, false, true, ((((stRun.put (Reg.SUP_CTL_EN 0) 1).put (Reg.SUP_CTL_LO_ACT 0) 3).put (Reg.SUP_CTL_EN 11) 1).put
      (Reg.SUP_CTL_GATE 11) 15).put (Reg.SUP_CTL_HI_ACT 11) 2, by decide, by decide, by decide, by decide, by decide,
      by decide, by decide, by decide, by decide⟩,
   ⟨stIn .standby, by decide, by decide⟩,
   ⟨stIn .dark, by decide, by decide⟩,
   ⟨11, stRun.put (Reg.SUP_OUT_OUT.at 11) 1, by decide, by decide, by decide, by decide⟩,
   ⟨(stIn .volley).put (Reg.SUP_OUT_OUT.at 8) 1, by decide, by decide⟩,
   ⟨{ (stIn .volley).put Reg.SUP_OUT_OUT 1 with store := some { cause := .power } }, { cause := .power }, by decide,
      by decide, by decide⟩,
   ⟨1, { (stIn .volley).put Reg.SUP_OUT_OUT 2 with store := some { cause := .power } }, { cause := .power }, by decide,
      by decide, by decide⟩,
   ⟨11, { stRun.put Reg.SUP_OUT_OUT 0x800 with store := some { cause := .checkpoint } }, { cause := .checkpoint }, by decide,
      by decide, by decide⟩,
   ⟨stRun.put Reg.SUP_FIRST_SPILL_PENDING 1, by decide⟩,
   ⟨2, (stRun.put (Reg.SUP_CTL_GATE 2) 7).put (Reg.SUP_EN_LEVEL.at 7) 1, by decide, by decide, by decide, by decide⟩,
   ⟨stRun.put (Reg.SUP_OUT_OUT) 0, by decide, by decide⟩,
   ⟨stRun.put Reg.SUP_WARN_READY_WARN 0, by decide, by decide⟩,
   ⟨stIn .standby, by decide, by decide⟩,
   ⟨stRun, by decide⟩,
   ⟨stRun, by decide⟩,
   ⟨stRun, by decide⟩,
   ⟨stRun, by decide⟩,
   ⟨stRun, by decide, by decide, by decide⟩,
   ⟨stRun, by decide⟩,
   ⟨stRun, by decide⟩,
   ⟨stRun, by decide⟩,
   ⟨stRun, by decide⟩⟩

/-- Every clause of StoreSteps has its hypotheses met. -/
theorem test_met_StoreSteps :
    (∃ (v : BitVec 10) (s : State) (t : Store), s.pwr.st = .volley ∧ s.store = some t ∧ t.frozen = true ∧ t.regions ≠ [] ∧
      t.wave < t.waves ∧ (t.fromVin = true ∨ t.thresholds.getD t.wave 0 ≤ v.toNat) ∧ s.Inv) ∧
    (∃ (v : BitVec 10) (s : State) (t : Store), s.pwr.st = .volley ∧ s.store = some t ∧ t.frozen = true ∧ t.regions ≠ [] ∧
      t.wave < t.waves ∧ (t.fromVin = true ∨ t.thresholds.getD t.wave 0 ≤ v.toNat) ∧ s.Inv) ∧
    (∃ (s : State) (t : Store) (k : Nat), (k ≠ 1 ∨ t.phys63 = s.phys63)) ∧
    (∃ (s : State) (t : Store) (k : Nat), (k ≠ 1 ∨ t.phys63 = s.phys63)) ∧
    (∃ (v : BitVec 10) (s : State) (t : Store), s.pwr.st = .volley ∧ s.store = some t ∧ t.frozen = true ∧ t.regions ≠ [] ∧
      t.wave < t.waves ∧ t.waves ≤ 8 ∧ t.channel < 16 ∧ t.fromVin = false ∧ v.toNat < t.thresholds.getD t.wave 0 ∧ s.vstbyOk =
      true ∧ s.Inv) ∧
    (∃ (s : State) (t : Store), s.store = some t ∧ t.frozen = true ∧ t.regions ≠ [] ∧ t.wave = t.waves) ∧
    (∃ (s : State) (t : Store), s.pwr.st = .volley ∧ s.store = some t ∧ t.frozen = true ∧ t.regions ≠ [] ∧ t.wave = t.waves +
      1 ∧ t.waves ≤ 8 ∧ t.channel < 16 ∧ s.vstbyOk = true ∧ s.Inv) ∧
    (∃ (s : State) (t : Store), s.pwr.st = .volley ∧ s.store = some t ∧ t.fromVin = false ∧ t.wave ≤ 9 ∧ t.waves ≤ 8 ∧
      t.channel < 16 ∧ s.vstbyOk = true ∧ s.Inv) ∧
    (∃ (s : State) (t : Store), s.pwr.st = .volley ∧ s.store = some t ∧ t.fromVin = false ∧ t.wave ≤ 9 ∧ t.waves ≤ 8 ∧
      t.channel < 16 ∧ s.vstbyOk = true ∧ s.Inv) ∧
    (∃ (s : State), s.pwr.st = .dark ∧ s.store = none) ∧
    (∃ (x : Sender) (s : State), s.reaches x 0x600 true = true ∧ isH0 x = true ∧ s.noCheckpoint = false) ∧
    (∃ (s : State), s.pwr.st = .run ∧ s.store = none ∧ s.ckptStarts = true ∧ s.noCheckpoint = false ∧ s.get
      Reg.VOL_RETURN_NO_EPOCH = 0 ∧ s.get Reg.ID_LC_WIPING = 0) ∧
    (∃ (s : State) (t : Store), s.serving = true ∧ s.store = some t ∧ t.frozen = true ∧ t.wave < t.waves ∧ s.Inv) :=
  ⟨⟨0,
      { stIn .volley with store := some { cause := .power, frozen := true, regions := [63], wave := 0, fromVin := true, thresholds := [1], channel := 15 } },
      { cause := .power, frozen := true, regions := [63], wave := 0, fromVin := true, thresholds := [1], channel := 15 },
      by decide, by decide, by decide, by decide, by decide, by decide, inv_of _ (by decide) (by decide)⟩,
   ⟨1,
      { stIn .volley with store := some { cause := .power, frozen := true, regions := [63], wave := 0, fromVin := false, thresholds := [1], channel := 15 } },
      { cause := .power, frozen := true, regions := [63], wave := 0, fromVin := false, thresholds := [1], channel := 15 },
      by decide, by decide, by decide, by decide, by decide, by decide, inv_of _ (by decide) (by decide)⟩,
   ⟨{}, { cause := .power, phys63 := 59 }, 2, by decide⟩,
   ⟨{}, { cause := .power }, 1, by decide⟩,
   ⟨0,
      { stIn .volley with store := some { cause := .power, frozen := true, regions := [63], wave := 0, fromVin := false, thresholds := [1], channel := 15 } },
      { cause := .power, frozen := true, regions := [63], wave := 0, fromVin := false, thresholds := [1], channel := 15 },
      by decide, by decide, by decide, by decide, by decide, by decide, by decide, by decide, by decide, by decide, inv_of _
      (by decide) (by decide)⟩,
   ⟨{ stIn .volley with store := some { cause := .power, frozen := true, regions := [63], wave := 1, fromVin := false, thresholds := [1], channel := 15 } },
      { cause := .power, frozen := true, regions := [63], wave := 1, fromVin := false, thresholds := [1], channel := 15 },
      by decide, by decide, by decide, by decide⟩,
   ⟨{ stIn .volley with store := some { cause := .power, frozen := true, regions := [63], wave := 2, fromVin := false, thresholds := [1], channel := 15 } },
      { cause := .power, frozen := true, regions := [63], wave := 2, fromVin := false, thresholds := [1], channel := 15 },
      by decide, by decide, by decide, by decide, by decide, by decide, by decide, by decide, inv_of _ (by decide)
      (by decide)⟩,
   ⟨{ stIn .volley with store := some { cause := .power, frozen := true, regions := [63], wave := 0, fromVin := false, thresholds := [1], channel := 15 } },
      { cause := .power, frozen := true, regions := [63], wave := 0, fromVin := false, thresholds := [1], channel := 15 },
      by decide, by decide, by decide, by decide, by decide, by decide, by decide, inv_of _ (by decide) (by decide)⟩,
   ⟨{ stIn .volley with store := some { cause := .power, frozen := true, regions := [63], wave := 2, fromVin := false, thresholds := [1], channel := 15 } },
      { cause := .power, frozen := true, regions := [63], wave := 2, fromVin := false, thresholds := [1], channel := 15 },
      by decide, by decide, by decide, by decide, by decide, by decide, by decide, inv_of _ (by decide) (by decide)⟩,
   ⟨stIn .dark, by decide, by decide⟩,
   ⟨0#4, stRun, by decide, by decide, by decide⟩,
   ⟨stRun.put Reg.VOL_CTL_CKPT 1, by decide, by decide, by decide, by decide, by decide, by decide⟩,
   ⟨{ stRun with store := some { cause := .checkpoint, frozen := true, regions := [63], wave := 0, fromVin := false, thresholds := [1], channel := 15 } },
      { cause := .checkpoint, frozen := true, regions := [63], wave := 0, fromVin := false, thresholds := [1], channel := 15 },
      by decide, by decide, by decide, by decide, inv_of _ (by decide) (by decide)⟩⟩

/-- Every clause of PollsAndData has its hypotheses met. -/
theorem test_met_PollsAndData :
    (∃ (h : PHost) (s : State), s.mayPoll h = true) ∧
    (∃ (h : PHost) (b : BitVec 512) (s : State), s.linkOpen h = true ∧ 0 < (s.host h).polls ∧ s.goodHeads h b (fun _ => False)
      ∧ s.goodTails h b (fun _ => False)) ∧
    (∃ (h : PHost) (b : BitVec 512) (q : Ring) (s : State), s.linkOpen h = true ∧ 0 < (s.host h).polls ∧ s.cqActive h.val
      q.val = true ∧ ¬s.goodHead h q (dbWord b (4 + q.val)) ∧ s.goodHeads h b (fun p => p = q) ∧ s.goodTails h b (fun _ =>
      False)) ∧
    (∃ (h : PHost) (b : BitVec 512) (j : Ring) (s : State), s.linkOpen h = true ∧ 0 < (s.host h).polls ∧ s.sqState h.val j.val
      = sqActive ∧ ¬(dbWord b j.val < s.sqSize h.val j.val ∧ s.forwardTail h j (dbWord b j.val)) ∧ s.goodHeads h b (fun _ =>
      False) ∧ s.goodTails h b (fun k => k = j)) ∧
    (∃ (h : PHost) (s : State), s.serving = true ∧ 0 < (s.host h).polls) ∧
    (∃ (h : PHost) (s : State), s.serving = true ∧ (s.host h).failing = true) ∧
    (∃ (h : PHost) (j : Ring) (s : State), s.serving = true ∧ 0 < s.sqFetching h j.val) ∧
    (∃ (h : PHost) (j : Ring) (tag : BitVec 16) (s : State) (i : Nat) (f : Flight), s.serving = true ∧ s.findFlight (fun f =>
      decide (f.host = h ∧ f.sq = j ∧ f.d.tag = tag) && f.awaits) = some (i, f)) ∧
    (∃ (h : PHost) (j : Ring) (tag : BitVec 16) (data : HostData) (p : PadTraffic) (s : State) (i : Nat) (f : Flight),
      s.linkOpen h = true ∧ s.findFlight (fun f => decide (f.host = h ∧ f.sq = j ∧ f.d.tag = tag) && f.awaits) = some (i, f) ∧
      data.poison = false ∧ data.fail = false ∧ (staged f.op = false ∨ padLost p = none)) ∧
    (∃ (h : PHost) (j : Ring) (tag : BitVec 16) (data : HostData) (p : PadTraffic) (s : State) (i : Nat) (f : Flight),
      s.linkOpen h = true ∧ s.findFlight (fun f => decide (f.host = h ∧ f.sq = j ∧ f.d.tag = tag) && f.awaits) = some (i, f) ∧
      data.poison = false ∧ data.fail = false ∧ (staged f.op = false ∨ padLost p = none)) ∧
    (∃ (h : PHost) (j : Ring) (tag : BitVec 16) (data : HostData) (p : PadTraffic) (s : State) (i : Nat) (f : Flight) (a :
      Nat), s.linkOpen h = true ∧ s.findFlight (fun f => decide (f.host = h ∧ f.sq = j ∧ f.d.tag = tag) && f.awaits) = some
      (i, f) ∧ data.poison = false ∧ data.fail = false ∧ staged f.op = true ∧ padLost p = some a) ∧
    (∃ (h : PHost) (j : Ring) (tag : BitVec 16) (data : HostData) (s : State) (i : Nat) (f : Flight), s.linkOpen h = true ∧
      s.findFlight (fun f => decide (f.host = h ∧ f.sq = j ∧ f.d.tag = tag) && f.awaits) = some (i, f) ∧ (data.poison = true ∨
      data.fail = true)) ∧
    (∃ (h : PHost) (j : Ring) (tag : BitVec 16) (data : HostData) (s : State) (i : Nat) (f : Flight), s.linkOpen h = true ∧
      s.findFlight (fun f => decide (f.host = h ∧ f.sq = j ∧ f.d.tag = tag) && f.awaits) = some (i, f) ∧ (data.poison = true ∨
      data.fail = true)) ∧
    (∃ (h : PHost) (j : Ring) (s : State) (v : Nat), s.linkOpen h = true ∧ s.flag (Reg.HOST_CQ_CFG_IEN h.val j.val) = true ∧ 0
      < Map.get (fun _ => 0) (s.host h).unsent j.val ∧ v = s.get (Reg.HOST_CQ_CFG_VECTOR h.val j.val) ∧ (s.host h).sends v =
      true) ∧
    (∃ (h : PHost) (v : BitVec 5) (s : State), s.barLive h = true ∧ bit (s.host h).pba.toNat v.toNat = true ∧ (s.host
      h).cfgBit cfgMsixCtl 30 = false ∧ (s.host h).master = true ∧ (s.host h).msixOn = true ∧ (s.host h).retraining = false) ∧
    (∃ (h : PHost) (v : BitVec 5) (s : State), s.barLive h = true ∧ bit (s.host h).pba.toNat v.toNat = true ∧ (s.host
      h).cfgBit cfgMsixCtl 30 = false ∧ (s.host h).master = true ∧ (s.host h).msixOn = true ∧ (s.host h).retraining = false)
      :=
  ⟨⟨0, stRing, by decide⟩,
   ⟨0, 0, stRing.setHost 0 { perstN := true, up := true, ready := true, polls := 1, cfg := cfgOn }, by decide, by decide,
      by unfold State.goodHeads State.goodHead; decide +kernel, by unfold State.goodTails State.forwardTail; decide +kernel⟩,
   ⟨0, 0xFFFF#512 <<< 128, 0, stRing.setHost 0 { perstN := true, up := true, ready := true, polls := 1, cfg := cfgOn },
      by decide, by decide, by decide, by unfold State.goodHead; decide +kernel,
      by unfold State.goodHeads State.goodHead; decide +kernel, by unfold State.goodTails State.forwardTail; decide +kernel⟩,
   ⟨0, 0xFFFF, 0, stRing.setHost 0 { perstN := true, up := true, ready := true, polls := 1, cfg := cfgOn }, by decide,
      by decide, by decide, by unfold State.forwardTail; decide +kernel,
      by unfold State.goodHeads State.goodHead; decide +kernel, by unfold State.goodTails State.forwardTail; decide +kernel⟩,
   ⟨0, stRing.setHost 0 { perstN := true, up := true, ready := true, polls := 1, cfg := cfgOn }, by decide, by decide⟩,
   ⟨0, stRing.setHost 0 { up := true, failing := true }, by decide, by decide⟩,
   ⟨0, 0, stRing, by decide, by decide⟩,
   ⟨0, 0, 0, stFlight { newFlight 0 0 .write { len := 8 } with asked := 8 }, 0,
      { newFlight 0 0 .write { len := 8 } with asked := 8 }, by decide, by decide⟩,
   ⟨0, 0, 0, {}, {}, stFlight { newFlight 0 0 .write { len := 8 } with asked := 8 }, 0,
      { newFlight 0 0 .write { len := 8 } with asked := 8 }, by decide, by decide, by decide, by decide, .inl rfl⟩,
   ⟨0, 0, 0, {}, { dma := [(1, 1)] }, stFlight { newFlight 0 0 .keepWrite { len := 8 } with asked := 8 }, 0,
      { newFlight 0 0 .keepWrite { len := 8 } with asked := 8 }, by decide, by decide, by decide, by decide, .inr
      (by decide)⟩,
   ⟨0, 0, 0, {}, { dma := [(0x3FFFF, 1)], core := [(0x3FFFF, 2)] }, stFlight
      { newFlight 0 0 .keepWrite { len := 8 } with asked := 8 }, 0, { newFlight 0 0 .keepWrite { len := 8 } with asked := 8 },
      0x3FFFF, by decide, by decide, by decide, by decide, by decide, by decide⟩,
   ⟨0, 0, 0, { poison := true }, stFlight { newFlight 0 0 .write { len := 8 } with asked := 8 }, 0,
      { newFlight 0 0 .write { len := 8 } with asked := 8 }, by decide, by decide, by decide⟩,
   ⟨0, 0, 0, { fail := true }, stFlight { newFlight 0 0 .write { len := 8 } with asked := 8 }, 0,
      { newFlight 0 0 .write { len := 8 } with asked := 8 }, by decide, by decide, by decide⟩,
   ⟨0, 0, (stRing.put (Reg.HOST_CQ_CFG_IEN 0 0) 1).setHost 0 { up := true, unsent := [(0, 1)], masked := 0, cfg := cfgOn }, 0,
      by decide, by decide, by decide, by decide, by decide⟩,
   ⟨0, 31, stRing.setHost 0 { up := true, ready := true, pba := 0x80000000, cfg := cfgOn }, by decide, by decide, by decide,
      by decide, by decide, by decide⟩,
   ⟨0, 0, stRing.setHost 0 { up := true, ready := true, pba := 1, cfg := cfgOn }, by decide, by decide, by decide, by decide,
      by decide, by decide⟩⟩

/-- Every clause of RingSetup has its hypotheses met. -/
theorem test_met_RingSetup :
    (∃ (x : Sender) (h : PHost) (j : Ring) (v : Word) (s : State), s.reaches x (Reg.HOST_SQ_CFG h.val j.val).addr true = true
      ∧ mayRing x h = true ∧ s.hostExists h = true ∧ s.sqState h.val j.val = sqDisabled ∧ v.getLsbD 17 = true ∧ bits (v &&&
      0x3FF00#18).toNat 16 13 ≤ 10 ∧ s.sqRangeOk h.val j.val (bits (v &&& 0x3FF00#18).toNat 16 13) = true ∧ s.doorbellOk h.val
      = true ∧ s.cqActive h.val (bits (v &&& 0x3FF00#18).toNat 12 11) = true) ∧
    (∃ (x : Sender) (h : PHost) (j : Ring) (v : Word) (s : State), s.reaches x (Reg.HOST_SQ_CFG h.val j.val).addr true = true
      ∧ mayRing x h = true ∧ s.hostExists h = true ∧ s.sqState h.val j.val = sqDisabled ∧ v.getLsbD 17 = true ∧ 10 < bits (v
      &&& 0x3FF00#18).toNat 16 13) ∧
    (∃ (x : Sender) (h : PHost) (j : Ring) (v : Word) (s : State), s.reaches x (Reg.HOST_SQ_CFG h.val j.val).addr true = true
      ∧ mayRing x h = true ∧ s.hostExists h = true ∧ s.sqState h.val j.val ≠ sqDisabled ∧ v.getLsbD 17 = false ∧ (s.reg
      (Reg.HOST_SQ_CFG h.val j.val).addr ^^^ (v &&& 0x3FF00#18)) &&& 0x1FF00#18 = 0#18) ∧
    (∃ (x : Sender) (h : PHost) (q : Ring) (v : Word) (s : State), s.reaches x (Reg.HOST_CQ_CFG h.val q.val).addr true = true
      ∧ mayRing x h = true ∧ s.hostExists h = true ∧ (s.reg (Reg.HOST_CQ_CFG h.val q.val).addr).getLsbD 17 = false ∧ v.getLsbD
      17 = true ∧ bits v.toNat 15 12 ≤ 10 ∧ s.cqRangeOk h.val q.val (bits v.toNat 15 12) = true ∧ s.doorbellOk h.val = true) ∧
    (∃ (x : Sender) (h : PHost) (q : Ring) (v : Word) (s : State), s.reaches x (Reg.HOST_CQ_CFG h.val q.val).addr true = true
      ∧ mayRing x h = true ∧ s.hostExists h = true ∧ (s.reg (Reg.HOST_CQ_CFG h.val q.val).addr ^^^ v) &&& 0x0F000#18 = 0#18 ∧
      v.getLsbD 17 = false ∧ ((∀ j : Ring, s.sqState h.val j.val = sqDisabled ∨ s.sqCq h.val j.val ≠ q.val))) ∧
    (∃ (h : PHost) (s : State), (s.host h).replayCq = none) ∧
    (∃ (h : PHost) (q : Ring) (s : State), (s.host h).replayCq = some q ∧ s.linkOpen h = true) ∧
    (∃ (x : Sender) (h : PHost) (s : State), s.reaches x (Reg.HOST_CTL h.val).addr true = true ∧ mayRing x h = true ∧
      s.hostExists h = true) :=
  ⟨⟨0#4, 0, 0, 0x20000, stRing.put (Reg.HOST_SQ_STAT_STATE 0 0) 0, by decide, by decide, by decide, by decide, by decide,
      by decide, by decide, by decide, by decide⟩,
   ⟨0#4, 0, 0, 0x36000, stRing.put (Reg.HOST_SQ_STAT_STATE 0 0) 0, by decide, by decide, by decide, by decide, by decide,
      by decide⟩,
   ⟨0#4, 0, 0, 0, stRing, by decide, by decide, by decide, by decide, by decide, by decide⟩,
   ⟨0#4, 0, 0, 0x20000, stRing.put (Reg.HOST_CQ_CFG_EN 0 0) 0, by decide, by decide, by decide, by decide, by decide,
      by decide, by decide, by decide⟩,
   ⟨0#4, 0, 0, 0, stRing.put (Reg.HOST_SQ_STAT_STATE 0 0) 0, by decide, by decide, by decide, by decide, by decide,
      by decide⟩,
   ⟨0, stRing, by decide⟩,
   ⟨0, 0, stRing.setHost 0 { up := true, replayCq := some 0, cfg := cfgOn }, by decide, by decide⟩,
   ⟨0#4, 0, stRing, by decide, by decide, by decide⟩⟩

/-- Every clause of LinksAndFunctions has its hypotheses met. -/
theorem test_met_LinksAndFunctions :
    (∃ (x : Sender) (h : PHost) (s : State), s.reaches x (Reg.HOST_LCTL h.val).addr true = true ∧ mayRing x h = true ∧
      s.hostExists h = true ∧ (s.host h).up = true) ∧
    (∃ (h : PHost) (lane : Fin 8) (e : Option Nat) (w : Nat) (s : State), s.serving = true ∧ (s.host h).up = true ∧ (s.lanesOf
      h).1 ≤ lane.val ∧ lane.val < (s.lanesOf h).1 + (s.lanesOf h).2 ∧ s.laneFails h e = true ∧ (s.put ((Reg.HOST_LINK_BAD
      h.val).at lane.val) 1).bestWidth h (s.get (Reg.HOST_LINK_WIDTH h.val)) = some w) ∧
    (∃ (h : PHost) (lane : Fin 8) (e : Option Nat) (w : Nat) (s : State), s.serving = true ∧ (s.host h).up = true ∧ (s.lanesOf
      h).1 ≤ lane.val ∧ lane.val < (s.lanesOf h).1 + (s.lanesOf h).2 ∧ s.laneFails h e = true ∧ (s.put ((Reg.HOST_LINK_BAD
      h.val).at lane.val) 1).bestWidth h (s.get (Reg.HOST_LINK_WIDTH h.val)) = some w) ∧
    (∃ (h : PHost) (lane : Fin 8) (e : Option Nat) (s : State), s.serving = true ∧ (s.host h).up = true ∧ (s.lanesOf h).1 ≤
      lane.val ∧ lane.val < (s.lanesOf h).1 + (s.lanesOf h).2 ∧ s.laneFails h e = true ∧ (s.put ((Reg.HOST_LINK_BAD h.val).at
      lane.val) 1).bestWidth h (s.get (Reg.HOST_LINK_WIDTH h.val)) = none) ∧
    (∃ (h : PHost) (n : Nat) (s : State), n ≤ s.get (Reg.HOST_LCTL_ERR_LIMIT h.val)) ∧
    (∃ (h : PHost) (s : State), s.serving = true ∧ (s.host h).up = true ∧ (s.host h).retraining = true) ∧
    (∃ (h : PHost) (v : Nat) (s : State), (s.host h).due = [.vector v] ∧ (s.host h).sends v = true) ∧
    (∃ (h : PHost) (k : Nat) (s : State), (s.host h).due = [.error k]) ∧
    (∃ (h : PHost) (s : State), s.serving = true ∧ (s.host h).up = true) ∧
    (∃ (h : PHost) (s : State), s.serving = true ∧ (s.host h).up = true) ∧
    (∃ (h : PHost) (s : State), s.serving = true ∧ (s.host h).up = true) ∧
    (∃ (h : PHost) (s : State), s.serving = true ∧ (s.host h).up = true) ∧
    (∃ (h : PHost) (s : State), s.serving = true ∧ (s.host h).up = true) ∧
    (∃ (h : PHost) (s : State), s.serving = true ∧ (s.host h).up = true) ∧
    (∃ (h : PHost) (s : State), s.serving = true ∧ (s.host h).up = true) ∧
    (∃ (h : PHost) (s : State), s.serving = true ∧ (s.host h).up = true) ∧
    (∃ (h : PHost) (s : State), s.serving = true ∧ (s.host h).up = true) ∧
    (∃ (h : PHost) (s : State), s.serving = true ∧ (s.host h).up = true) ∧
    (∃ (h : PHost) (s : State), s.serving = true ∧ (s.host h).up = true) ∧
    (∃ (h : PHost) (s : State), s.serving = true ∧ (s.host h).up = true) ∧
    (∃ (h : PHost) (s : State), s.serving = true ∧ (s.host h).up = true) ∧
    (∃ (h : PHost) (s : State), s.serving = true ∧ (s.host h).up = true) ∧
    (∃ (h : PHost) (s : State), s.serving = true ∧ (s.host h).up = true) ∧
    (∃ (h : PHost) (s : State), s.serving = true ∧ (s.host h).up = true) ∧
    (∃ (h : PHost) (sp : BitVec 3) (w : BitVec 4) (s : State), s.serving = true ∧ s.hostExists h = true ∧ (s.host h).perstN =
      true ∧ (s.host h).up = false ∧ 1 ≤ sp.toNat ∧ sp.toNat ≤ 5 ∧ w.toNat ∈ [1, 2, 4, 8] ∧ w.toNat ≤ (s.lanesOf h).2) ∧
    (∃ (h : PHost) (sp : BitVec 3) (w : BitVec 4) (s : State), s.serving = true ∧ s.hostExists h = true ∧ (s.host h).perstN =
      true ∧ (s.host h).up = false ∧ 1 ≤ sp.toNat ∧ sp.toNat ≤ 5 ∧ w.toNat ∈ [1, 2, 4, 8] ∧ w.toNat ≤ (s.lanesOf h).2) ∧
    (∃ (h : PHost) (s : State), s.serving = true ∧ (s.host h).up = true) ∧
    (∃ (h : PHost) (s : State), s.serving = true ∧ (s.host h).up = true) ∧
    (∃ (h : PHost) (s : State), s.serving = true ∧ (s.host h).up = true) ∧
    (∃ (h : PHost) (s : State), s.serving = true ∧ (s.host h).up = true) ∧
    (∃ (h : PHost) (s : State), s.serving = true ∧ (s.host h).up = true) ∧
    (∃ (h : PHost) (s : State), s.serving = true ∧ (s.host h).up = true) ∧
    (∃ (h : PHost) (s : State), s.serving = true ∧ (s.host h).up = true) ∧
    (∃ (h : PHost) (s : State), s.serving = true ∧ (s.host h).up = true) ∧
    (∃ (h : PHost) (s : State), s.serving = true ∧ (s.host h).up = true) ∧
    (∃ (h : PHost) (s : State), s.serving = true ∧ (s.host h).up = true) ∧
    (∃ (h : PHost) (s : State), s.serving = true ∧ (s.host h).up = true) ∧
    (∃ (h : PHost) (s : State), s.serving = true ∧ (s.host h).up = true) ∧
    (∃ (h : PHost) (s : State), s.serving = true ∧ (s.host h).up = true) ∧
    (∃ (h : PHost) (s : State), s.serving = true ∧ (s.host h).up = true) ∧
    (∃ (h : PHost) (s : State), s.serving = true ∧ (s.host h).up = true) ∧
    (∃ (h : PHost) (s : State), s.serving = true ∧ (s.host h).up = true) ∧
    (∃ (h : PHost) (s : State), (s.host h).perstN = true ∧ s.serving = true ∧ s.hostExists h = true) ∧
    (∃ (h : PHost) (s : State), (s.host h).perstN = true ∧ (s.serving = false ∨ s.hostExists h = false)) ∧
    (∃ (h : PHost) (s : State), (s.host h).perstN = true ∧ (s.serving = false ∨ s.hostExists h = false)) ∧
    (∃ (h : PHost) (s : State), (s.host h).wakeLow = true) ∧
    (∃ (h : PHost) (s : State), (s.host h).wakeLow = false) ∧
    (∃ (h : PHost) (s : State), s.serving = true ∧ (s.host h).up = true) ∧
    (∃ (h : PHost) (s : State), s.serving = true ∧ (s.host h).up = true) ∧
    (∃ (h : PHost) (s : State), s.serving = true ∧ (s.host h).up = true) ∧
    (∃ (h : PHost) (s : State), s.serving = true ∧ (s.host h).up = true) ∧
    (∃ (h : PHost) (s : State), s.serving = true ∧ (s.host h).up = true) ∧
    (∃ (h : PHost) (s : State), s.serving = true ∧ (s.host h).up = true) ∧
    (∃ (h : PHost) (s : State), s.serving = true ∧ (s.host h).up = true) ∧
    (∃ (h : PHost) (s : State), s.serving = true ∧ (s.host h).up = true) ∧
    (∃ (h : PHost) (s : State), s.serving = true ∧ (s.host h).up = true) ∧
    (∃ (h : PHost) (s : State), s.serving = true ∧ (s.host h).up = true) ∧
    (∃ (h : PHost) (s : State), s.serving = true ∧ (s.host h).up = true) ∧
    (∃ (h : PHost) (s : State), s.serving = true ∧ (s.host h).up = true) ∧
    (∃ (h : PHost) (s : State), s.serving = true ∧ (s.host h).up = true) ∧
    (∃ (h : PHost) (s : State), s.serving = true ∧ (s.host h).up = true) ∧
    (∃ (h : PHost) (s : State), s.serving = true ∧ (s.host h).up = true) ∧
    (∃ (h : PHost) (s : State), s.serving = true ∧ (s.host h).up = true) ∧
    (∃ (h : PHost) (s : State), s.serving = true ∧ (s.host h).up = true) ∧
    (∃ (h : PHost) (s : State), s.serving = true ∧ (s.host h).up = true) ∧
    (∃ (h : PHost) (s : State), s.serving = true ∧ (s.host h).up = true) ∧
    (∃ (h : PHost) (s : State), s.serving = true ∧ (s.host h).up = true) ∧
    (∃ (h : PHost) (s : State), s.serving = true ∧ (s.host h).up = true) ∧
    (∃ (h : PHost) (s : State), s.serving = true ∧ (s.host h).up = true) ∧
    (∃ (h : PHost) (s : State), s.serving = true ∧ (s.host h).up = true) ∧
    (∃ (h : PHost) (s : State), s.serving = true ∧ (s.host h).up = true) ∧
    (∃ (h : PHost) (s : State), s.serving = true ∧ (s.host h).up = true) ∧
    (∃ (h : PHost) (s : State), s.serving = true ∧ (s.host h).up = true) ∧
    (∃ (h : PHost) (s : State), s.serving = true ∧ (s.host h).up = true) ∧
    (∃ (h : PHost) (s : State), s.serving = true ∧ (s.host h).up = true) ∧
    (∃ (h : PHost) (s : State), s.serving = true ∧ (s.host h).up = true) ∧
    (∃ (h : PHost) (s : State), s.serving = true ∧ (s.host h).up = true) ∧
    (∃ (h : PHost) (s : State), s.serving = true ∧ (s.host h).up = true) ∧
    (∃ (h : PHost) (s : State), s.serving = true ∧ (s.host h).up = true) ∧
    (∃ (h : PHost) (s : State), s.serving = true ∧ (s.host h).up = true ∧ (s.host h).d3 = true) ∧
    (∃ (h : PHost) (s : State), s.serving = true ∧ (s.host h).up = true ∧ (s.host h).retraining = false ∧ (s.host h).cfgBit
      cfgLinkCtl 1 = true) :=
  ⟨⟨0#4, 0, stHost, by decide, by decide, by decide, by decide⟩,
   ⟨0, 3, none, 2, stHost.put (Reg.HOST_LINK_WIDTH 0) 4, by decide, by decide, by decide, by decide, by decide, by decide⟩,
   ⟨2, 0, some 512, 2, stHost.put (Reg.HOST_LINK_WIDTH 2) 4, by decide, by decide, by decide, by decide, by decide,
      by decide⟩,
   ⟨0, 0, none, (stHost.put (Reg.HOST_LINK_WIDTH 0) 1).put (Reg.HOST_LINK_BAD 0) 0xFF, by decide, by decide, by decide,
      by decide, by decide, by decide⟩,
   ⟨0, 1, stHost.put (Reg.HOST_LCTL_ERR_LIMIT 0) 1, by decide⟩,
   ⟨0, stHost.setHost 0 { up := true, retraining := true }, by decide, by decide, by decide⟩,
   ⟨0, 5, stHost.setHost 0 { up := true, masked := 0, cfg := cfgOn, due := [.vector 5] }, by decide, by decide⟩,
   ⟨0, 1, stHost.setHost 0 { up := true, due := [.error 1] }, by decide⟩,
   ⟨0, stHost, by decide, by decide⟩,
   ⟨0, stHost, by decide, by decide⟩,
   ⟨0, stHost, by decide, by decide⟩,
   ⟨0, stHost, by decide, by decide⟩,
   ⟨0, stHost, by decide, by decide⟩,
   ⟨0, stHost, by decide, by decide⟩,
   ⟨0, stHost, by decide, by decide⟩,
   ⟨0, stHost, by decide, by decide⟩,
   ⟨0, stHost, by decide, by decide⟩,
   ⟨0, stHost, by decide, by decide⟩,
   ⟨0, stHost, by decide, by decide⟩,
   ⟨0, stHost, by decide, by decide⟩,
   ⟨0, stHost, by decide, by decide⟩,
   ⟨0, stHost, by decide, by decide⟩,
   ⟨0, stHost, by decide, by decide⟩,
   ⟨0, stHost, by decide, by decide⟩,
   ⟨0, 5, 4, stRun.setHost 0 { perstN := true }, by decide, by decide, by decide, by decide, by decide, by decide, by decide,
      by decide⟩,
   ⟨2, 1, 1, stRun.setHost 2 { perstN := true }, by decide, by decide, by decide, by decide, by decide, by decide, by decide,
      by decide⟩,
   ⟨0, stHost, by decide, by decide⟩,
   ⟨0, stHost, by decide, by decide⟩,
   ⟨0, stHost, by decide, by decide⟩,
   ⟨0, stHost, by decide, by decide⟩,
   ⟨0, stHost, by decide, by decide⟩,
   ⟨0, stHost, by decide, by decide⟩,
   ⟨0, stHost, by decide, by decide⟩,
   ⟨0, stHost, by decide, by decide⟩,
   ⟨0, stHost, by decide, by decide⟩,
   ⟨0, stHost, by decide, by decide⟩,
   ⟨0, stHost, by decide, by decide⟩,
   ⟨0, stHost, by decide, by decide⟩,
   ⟨0, stHost, by decide, by decide⟩,
   ⟨0, stHost, by decide, by decide⟩,
   ⟨0, stHost, by decide, by decide⟩,
   ⟨0, stHost, by decide, by decide⟩,
   ⟨0, stHost, by decide, by decide, by decide⟩,
   ⟨0, (stIn .standby).setHost 0 { perstN := true }, by decide, .inl (by decide)⟩,
   ⟨3, (stRun.put Reg.ID_STRAP_MP 0).setHost 3 { perstN := true }, by decide, .inr (by decide)⟩,
   ⟨0, stRun.setHost 0 { wakeLow := true }, by decide⟩,
   ⟨0, stRun, by decide⟩,
   ⟨0, stHost, by decide, by decide⟩,
   ⟨0, stHost, by decide, by decide⟩,
   ⟨0, stHost, by decide, by decide⟩,
   ⟨0, stHost, by decide, by decide⟩,
   ⟨0, stHost, by decide, by decide⟩,
   ⟨0, stHost, by decide, by decide⟩,
   ⟨0, stHost, by decide, by decide⟩,
   ⟨0, stHost, by decide, by decide⟩,
   ⟨0, stHost, by decide, by decide⟩,
   ⟨0, stHost, by decide, by decide⟩,
   ⟨0, stHost, by decide, by decide⟩,
   ⟨0, stHost, by decide, by decide⟩,
   ⟨0, stHost, by decide, by decide⟩,
   ⟨0, stHost, by decide, by decide⟩,
   ⟨0, stHost, by decide, by decide⟩,
   ⟨0, stHost, by decide, by decide⟩,
   ⟨0, stHost, by decide, by decide⟩,
   ⟨0, stHost, by decide, by decide⟩,
   ⟨0, stHost, by decide, by decide⟩,
   ⟨0, stHost, by decide, by decide⟩,
   ⟨0, stHost, by decide, by decide⟩,
   ⟨0, stHost, by decide, by decide⟩,
   ⟨0, stHost, by decide, by decide⟩,
   ⟨0, stHost, by decide, by decide⟩,
   ⟨0, stHost, by decide, by decide⟩,
   ⟨0, stHost, by decide, by decide⟩,
   ⟨0, stHost, by decide, by decide⟩,
   ⟨0, stHost, by decide, by decide⟩,
   ⟨0, stHost, by decide, by decide⟩,
   ⟨0, stHost, by decide, by decide⟩,
   ⟨0, stHost, by decide, by decide⟩,
   ⟨0, stHost, by decide, by decide⟩,
   ⟨0, stHost.setHost 0 { up := true, d3 := true }, by decide, by decide, by decide⟩,
   ⟨0, stHost.setHost 0 { up := true, cfg := [(0x20, 2)] }, by decide, by decide, by decide, by decide⟩⟩

/-- Every clause of DataDescriptors has its hypotheses met. -/
theorem test_met_DataDescriptors :
    (∃ (h : PHost) (j : Ring) (q : Ring) (d : Desc) (s : State), s.Accepts h j q .nop d) ∧
    (∃ (h : PHost) (j : Ring) (q : Ring) (d : Desc) (ups : List Upset) (s : State) (b : State), s.Accepts h j q .read d ∧ b =
      s.begun h j (newFlight h j .read d) ups ∧ b.rangeWaits (Desc.a d) (Desc.n d) false = false ∧ b.SoundCws (Desc.a d / 8)
      (cwCount (Desc.a d) (Desc.n d))) :=
  ⟨⟨0, 0, 0, {}, stRing, ⟨⟨by decide, rfl, by decide, by decide, by decide⟩, by decide⟩⟩,
   ⟨0, 0, 0, { len := 8 }, [], stRing, stRing.begun 0 0 (newFlight 0 0 .read { len := 8 }) [], ⟨⟨by decide, rfl, by decide,
      by decide, by decide⟩, by decide⟩, rfl, by decide, by unfold State.SoundCws; decide⟩⟩

/-- Every clause of WritesAndFills has its hypotheses met. -/
theorem test_met_WritesAndFills :
    (∃ (h : PHost) (j : Ring) (q : Ring) (d : Desc) (data : HostData) (ups : List Upset) (s : State) (b : State), s.Accepts h
      j q .write d ∧ s.Delivers (newFlight h j .write d) data ∧ b = s.asked h j (newFlight h j .write d) ((askedFlight h j
      .write d).receive data) ups ∧ b.rangeWaits (Desc.a d) (Desc.n d) true = false ∧ b.SoundCws (Desc.a d / 8) (cwCount
      (Desc.a d) (Desc.n d))) ∧
    (∃ (h : PHost) (j : Ring) (q : Ring) (d : Desc) (ups : List Upset) (s : State) (b : State), s.Accepts h j q .copy d ∧ b =
      s.begun h j (newFlight h j .copy d) ups ∧ b.rangeWaits (Desc.a d) (Desc.n d) false = false ∧ b.rangeWaits (Desc.b d)
      (Desc.n d) true = false ∧ b.SoundCws (Desc.a d / 8) (cwCount (Desc.a d) (Desc.n d)) ∧ b.SoundCws (Desc.b d / 8) (cwCount
      (Desc.b d) (Desc.n d))) ∧
    (∃ (h : PHost) (j : Ring) (q : Ring) (d : Desc) (ups : List Upset) (s : State) (b : State), s.Accepts h j q .fill d ∧ b =
      s.begun h j (newFlight h j .fill d) ups ∧ b.rangeWaits (Desc.a d) (Desc.n d) true = false ∧ ((bit d.p0.toNat 0 = false →
      b.SoundCws (Desc.a d / 8) (cwCount (Desc.a d) (Desc.n d))))) ∧
    (∃ (h : PHost) (j : Ring) (q : Ring) (d : Desc) (ups : List Upset) (s : State) (b : State), s.Accepts h j q .fill d ∧ b =
      s.begun h j (newFlight h j .fill d) ups ∧ b.rangeWaits (Desc.a d) (Desc.n d) true = false ∧ ((bit d.p0.toNat 0 = false →
      b.SoundCws (Desc.a d / 8) (cwCount (Desc.a d) (Desc.n d))))) ∧
    (∃ (h : PHost) (j : Ring) (q : Ring) (d : Desc) (data : HostData) (ups : List Upset) (s : State) (b : State), s.Accepts h
      j q .word18Write d ∧ s.Delivers (newFlight h j .word18Write d) data ∧ b = s.asked h j (newFlight h j .word18Write d)
      ((askedFlight h j .word18Write d).receive data) ups ∧ b.rangeWaits (2 * Desc.a d) (2 * (Desc.n d / 4)) true = false ∧
      ((∀ i, i < Desc.n d / 4 → (b.cwImage ((Desc.a d + i) / 4)).eccOf (cwIndex ((Desc.a d + i) / 4)) = 0))) ∧
    (∃ (h : PHost) (j : Ring) (q : Ring) (d : Desc) (ups : List Upset) (s : State) (b : State), s.Accepts h j q .word18Read d
      ∧ b = s.begun h j (newFlight h j .word18Read d) ups ∧ b.rangeWaits (2 * Desc.a d) (Desc.n d / 2) false = false ∧ ((∀ i,
      i < Desc.n d / 4 → (b.cwImage ((Desc.a d + i) / 4)).eccOf (cwIndex ((Desc.a d + i) / 4)) = 0))) :=
  ⟨⟨0, 0, 0, { len := 8 }, { bytes := List.replicate 8 0 }, [], stRing, stRing.asked 0 0 (newFlight 0 0 .write { len := 8 })
      ((askedFlight 0 0 .write { len := 8 }).receive { bytes := List.replicate 8 0 }) [], ⟨⟨by decide, rfl, by decide,
      by decide, by decide⟩, by decide⟩, ⟨by decide, by decide, by decide, by decide⟩, rfl, by decide,
      by unfold State.SoundCws; decide⟩,
   ⟨0, 0, 0, { len := 8, a1 := 64 }, [], stRing, (stRing).begun 0 0 (newFlight 0 0 .copy { len := 8, a1 := 64 }) [],
      ⟨⟨by decide, rfl, by decide, by decide, by decide⟩, by decide⟩, rfl, by decide, by decide,
      by unfold State.SoundCws; decide, by unfold State.SoundCws; decide⟩,
   ⟨0, 0, 0, { len := 8 }, [], stRing, (stRing).begun 0 0 (newFlight 0 0 .fill { len := 8 }) [], ⟨⟨by decide, rfl, by decide,
      by decide, by decide⟩, by decide⟩, rfl, by decide, fun _ => by unfold State.SoundCws; decide⟩,
   ⟨0, 0, 0, { len := 8, p0 := 1 }, [], stRing, (stRing).begun 0 0 (newFlight 0 0 .fill { len := 8, p0 := 1 }) [],
      ⟨⟨by decide, rfl, by decide, by decide, by decide⟩, by decide⟩, rfl, by decide, fun h => absurd h (by decide)⟩,
   ⟨0, 0, 0, { len := 8 }, { bytes := List.replicate 8 0 }, [], stRing.put (Reg.PART_ATTR_VIEW 0) 1, (stRing.put
      (Reg.PART_ATTR_VIEW 0) 1).asked 0 0 (newFlight 0 0 .word18Write { len := 8 }) ((askedFlight 0 0 .word18Write
      { len := 8 }).receive { bytes := List.replicate 8 0 }) [], ⟨⟨by decide, rfl, by decide, by decide, by decide⟩,
      by decide⟩, ⟨by decide, by decide, by decide, by decide⟩, rfl, by decide, by decide⟩,
   ⟨0, 0, 0, { len := 8 }, [], stRing.put (Reg.PART_ATTR_VIEW 0) 1, (stRing.put (Reg.PART_ATTR_VIEW 0) 1).begun 0 0 (newFlight
      0 0 .word18Read { len := 8 }) [], ⟨⟨by decide, rfl, by decide, by decide, by decide⟩, by decide⟩, rfl, by decide,
      by decide⟩⟩

/-- Every clause of ReadingDescriptors has its hypotheses met. -/
theorem test_met_ReadingDescriptors :
    (∃ (h : PHost) (j : Ring) (q : Ring) (op : Byte) (s : State), s.Arrives h j q ∧ opcodeOf op = .bad) ∧
    (∃ (h : PHost) (j : Ring) (q : Ring) (op : Byte) (s : State), s.Arrives h j q ∧ opcodeOf op = .bad) ∧
    (∃ (h : PHost) (j : Ring) (q : Ring) (d : Desc) (s : State), s.Accepts h j q .rtcRead d) ∧
    (∃ (h : PHost) (j : Ring) (q : Ring) (d : Desc) (p : PadTraffic) (s : State), s.Accepts h j q .counterRead d ∧ padLost p =
      none ∧ bit d.p0.toNat 8 = false) ∧
    (∃ (h : PHost) (j : Ring) (q : Ring) (d : Desc) (p : PadTraffic) (s : State), s.Accepts h j q .counterRead d ∧ padLost p =
      none ∧ bit d.p0.toNat 8 = true) ∧
    (∃ (h : PHost) (j : Ring) (q : Ring) (d : Desc) (p : PadTraffic) (s : State) (b : State) (r : Nat), s.Accepts h j q
      .ledgerQuery d ∧ padLost p = none ∧ b = s.begun h j (newFlight h j .ledgerQuery d) p.ups p ∧ (if bit d.p0.toNat 0 then
      some (Desc.a d) else b.newest d.sheet) = some r) ∧
    (∃ (h : PHost) (j : Ring) (q : Ring) (d : Desc) (p : PadTraffic) (s : State) (b : State) (r : Nat), s.Accepts h j q
      .ledgerQuery d ∧ padLost p = none ∧ b = s.begun h j (newFlight h j .ledgerQuery d) p.ups p ∧ (if bit d.p0.toNat 0 then
      some (Desc.a d) else b.newest d.sheet) = some r) ∧
    (∃ (h : PHost) (j : Ring) (q : Ring) (d : Desc) (p : PadTraffic) (s : State), s.Accepts h j q .keepRead d ∧ padLost p =
      none ∧ (keepPages (Desc.a d) (Desc.n d / 4)).any s.keepWaits = false) ∧
    (∃ (h : PHost) (j : Ring) (q : Ring) (d : Desc) (p : PadTraffic) (s : State) (c : Choice), s.Accepts h j q .recordGet d ∧
      padLost p = none ∧ s.keepWaits (Desc.pageA d) = false ∧ s.keepWaits (Desc.pageA d + 1) = false ∧ s.chooseRecord
      (Desc.pageA d) = some c) ∧
    (∃ (h : PHost) (j : Ring) (q : Ring) (d : Desc) (s : State), s.Accepts h j q .rtcSet d) :=
  ⟨⟨0, 0, 0, 0xFF, stRing, ⟨by decide, rfl, by decide, by decide, by decide⟩, by decide⟩,
   ⟨0, 0, 0, 0x08, stRing, ⟨by decide, rfl, by decide, by decide, by decide⟩, by decide⟩,
   ⟨0, 0, 0, {}, stRing, ⟨⟨by decide, rfl, by decide, by decide, by decide⟩, by decide⟩⟩,
   ⟨0, 0, 0, {}, {}, stRing, ⟨⟨by decide, rfl, by decide, by decide, by decide⟩, by decide⟩, by decide, by decide⟩,
   ⟨0, 0, 0, { p0 := 0x100, len := 128 }, { dma := [(7, 1)], core := [(8, 1)] }, stRing, ⟨⟨by decide, rfl, by decide,
      by decide, by decide⟩, by decide⟩, by decide, by decide⟩,
   ⟨0, 0, 0, { p0 := 1, a0 := 5 }, {}, stRing, _, 5, ⟨⟨by decide, rfl, by decide, by decide, by decide⟩, by decide⟩,
      by decide, rfl, by decide⟩,
   ⟨0, 0, 0, { d0 := 77 }, { ups := [⟨0x0FC00000 + 10, false⟩] }, stStn, _, 5, ⟨⟨by decide, rfl, by decide, by decide,
      by decide⟩, by decide⟩, by decide, rfl, by decide⟩,
   ⟨0, 0, 0, { len := 4 }, {}, stRing, ⟨⟨by decide, rfl, by decide, by decide, by decide⟩, by decide⟩, by decide, by decide⟩,
   ⟨0, 0, 0, { p0 := 64, len := 4 }, {}, { stRing with keep := { words := keepRecord 64 1 scriptRecord } }, ⟨false, 1,
      scriptPayload, false⟩, ⟨⟨by decide, rfl, by decide, by decide, by decide⟩, by decide⟩, by decide, by decide, by decide,
      choice_of_record _ 64 1 scriptRecord (by decide) (by decide) rfl (by decide) (by decide)⟩,
   ⟨0, 0, 0, { d0 := 0x840000000 }, stRing.put Reg.RTC_CTL_RIGHTS 1, ⟨⟨by decide, rfl, by decide, by decide, by decide⟩,
      by decide⟩⟩⟩

/-- Every clause of LedgerAndKeepWrites has its hypotheses met. -/
theorem test_met_LedgerAndKeepWrites :
    (∃ (h : PHost) (j : Ring) (q : Ring) (d : Desc) (p : PadTraffic) (s : State) (b : State) (r : Nat), s.Accepts h j q
      .ledgerOpen d ∧ padLost p = none ∧ b = s.begun h j (newFlight h j .ledgerOpen d) p.ups p ∧ b.ledHeld = false ∧
      b.openHolder d.sheet = none ∧ b.openRecords.length < 65536 ∧ b.freeIndex 1048576 b.ledNext = some r) ∧
    (∃ (h : PHost) (j : Ring) (q : Ring) (d : Desc) (p : PadTraffic) (s : State) (b : State) (s1 : State) (r : Nat), s.Accepts
      h j q .ledgerStage d ∧ padLost p = none ∧ s.ledHeld = false ∧ b = s.begun h j (newFlight h j .ledgerStage d) p.ups p ∧
      b.newest d.sheet = some r ∧ (b.meetRec r).stageStamp r (bits d.p0.toNat 5 0) (bits d.p0.toNat 15 8) = some s1) ∧
    (∃ (h : PHost) (j : Ring) (q : Ring) (d : Desc) (data : HostData) (p : PadTraffic) (s : State) (f : Flight), s.Accepts h j
      q .keepWrite d ∧ padLost p = none ∧ s.Delivers (newFlight h j .keepWrite d) data ∧ f =
      { askedFlight h j .keepWrite d with buf := data.bytes } ∧ s.isHot (s.keepPlan f).1 = true) ∧
    (∃ (h : PHost) (j : Ring) (q : Ring) (d : Desc) (data : HostData) (p : PadTraffic) (s : State) (f : Flight), s.Accepts h j
      q .recordPut d ∧ padLost p = none ∧ s.Delivers (newFlight h j .recordPut d) data ∧ f =
      { askedFlight h j .recordPut d with buf := data.bytes } ∧ s.keepWaits (Desc.pageA d) = false ∧ s.keepWaits (Desc.pageA d
      + 1) = false ∧ s.isHot (s.keepPlan f).1 = true) :=
  ⟨⟨0, 0, 0, { d0 := 9, p0 := 1 }, {}, stRing, stRing.begun 0 0 (newFlight 0 0 .ledgerOpen { d0 := 9, p0 := 1 }) [] {}, 0,
      ⟨⟨by decide, rfl, by decide, by decide, by decide⟩, by decide⟩, by decide, rfl, by decide, by decide, by decide,
      by decide⟩,
   ⟨0, 0, 0, { d0 := 77, p0 := 0x20 }, {}, stStn, _, _, 5, ⟨⟨by decide, rfl, by decide, by decide, by decide⟩, by decide⟩,
      by decide, by decide, rfl, by decide, rfl⟩,
   ⟨0, 0, 0, { a0 := 12800, len := 4 }, { bytes := List.replicate 4 0 }, {},
      { stRing.put Reg.KEEP_CTL_RIGHTS 1 with keep := { hotRange := (200, 2) } },
      { askedFlight 0 0 .keepWrite { a0 := 12800, len := 4 } with buf := ({ bytes := List.replicate 4 0 } : HostData).bytes },
      ⟨⟨by decide, rfl, by decide, by decide, by decide⟩, by decide⟩, by decide, ⟨by decide, by decide, by decide, by decide⟩,
      rfl, by decide⟩,
   ⟨0, 0, 0, { p0 := 200, len := 4 }, { bytes := List.replicate 4 0 }, {},
      { stRing.put Reg.KEEP_CTL_RIGHTS 1 with keep := { hotRange := (200, 2) } },
      { askedFlight 0 0 .recordPut { p0 := 200, len := 4 } with buf := ({ bytes := List.replicate 4 0 } : HostData).bytes },
      ⟨⟨by decide, rfl, by decide, by decide, by decide⟩, by decide⟩, by decide, ⟨by decide, by decide, by decide, by decide⟩,
      rfl, by decide, by decide, by decide⟩⟩

/-- Every clause of WaitingDescriptors has its hypotheses met. -/
theorem test_met_WaitingDescriptors :
    (∃ (h : PHost) (j : Ring) (q : Ring) (d : Desc) (s : State), s.Accepts h j q .tableSwap d) ∧
    (∃ (h : PHost) (j : Ring) (q : Ring) (d : Desc) (s : State), s.Accepts h j q .checkpoint d) ∧
    (∃ (h : PHost) (j : Ring) (q : Ring) (d : Desc) (data : HostData) (p : PadTraffic) (s : State) (f : Flight), s.Accepts h j
      q .keepWrite d ∧ padLost p = none ∧ s.Delivers (newFlight h j .keepWrite d) data ∧ f =
      { askedFlight h j .keepWrite d with buf := data.bytes } ∧ s.isHot (s.keepPlan f).1 = false) ∧
    (∃ (h : PHost) (j : Ring) (q : Ring) (d : Desc) (data : HostData) (p : PadTraffic) (s : State) (f : Flight), s.Accepts h j
      q .recordPut d ∧ padLost p = none ∧ s.Delivers (newFlight h j .recordPut d) data ∧ f =
      { askedFlight h j .recordPut d with buf := data.bytes } ∧ s.isHot (s.keepPlan f).1 = false) ∧
    (∃ (h : PHost) (j : Ring) (q : Ring) (d : Desc) (s : State) (n : Nat), s.Accepts h j q .move d ∧ s.freeMove = some n) ∧
    (∃ (h : PHost) (j : Ring) (d : Desc) (s : State) (b : State) (k : Nat) (e : Flight), s.mayArrive h j = true ∧
      (s.advanceHead h j).descCheck h .abort d = none ∧ b =
      { s.advanceHead h j with flights := s.flights ++ [newFlight h j .abort d] } ∧ b.findFlight (fun e => decide (e.host = h
      ∧ e.sq.val = bits d.p0.toNat 1 0 ∧ e.d.tag.toNat = bits d.p0.toNat 31 16 ∧ e.op ≠ .abort ∧ e.op ≠ .nop) && e.open_) =
      some (k, e)) :=
  ⟨⟨0, 0, 0, { p0 := 0x1F00 }, stRing, ⟨⟨by decide, rfl, by decide, by decide, by decide⟩, by decide⟩⟩,
   ⟨0, 0, 0, {}, stRing, ⟨⟨by decide, rfl, by decide, by decide, by decide⟩, by decide⟩⟩,
   ⟨0, 0, 0, { a0 := 12800, len := 4 }, { bytes := List.replicate 4 0 }, {}, stRing.put Reg.KEEP_CTL_RIGHTS 1,
      { askedFlight 0 0 .keepWrite { a0 := 12800, len := 4 } with buf := ({ bytes := List.replicate 4 0 } : HostData).bytes },
      ⟨⟨by decide, rfl, by decide, by decide, by decide⟩, by decide⟩, by decide, ⟨by decide, by decide, by decide, by decide⟩,
      rfl, by decide⟩,
   ⟨0, 0, 0, { p0 := 200, len := 4 }, { bytes := List.replicate 4 0 }, {}, stRing.put Reg.KEEP_CTL_RIGHTS 1,
      { askedFlight 0 0 .recordPut { p0 := 200, len := 4 } with buf := ({ bytes := List.replicate 4 0 } : HostData).bytes },
      ⟨⟨by decide, rfl, by decide, by decide, by decide⟩, by decide⟩, by decide, ⟨by decide, by decide, by decide, by decide⟩,
      rfl, by decide⟩,
   ⟨0, 0, 0, { p0 := 0x100 }, stRing, 0, ⟨⟨by decide, rfl, by decide, by decide, by decide⟩, by decide⟩, by decide⟩,
   ⟨0, 0, { tag := 1 }, stFlight (newFlight 0 0 .write { len := 8 }), _, 0, newFlight 0 0 .write { len := 8 }, by decide,
      by decide, rfl, by decide⟩⟩

/-- Every clause of StationDescriptors has its hypotheses met. -/
theorem test_met_StationDescriptors :
    (∃ (h : PHost) (j : Ring) (q : Ring) (d : Desc) (data : HostData) (p : PadTraffic) (s : State) (x : Table), s.Accepts h j
      q .tableLoad d ∧ padLost p = none ∧ s.Delivers (newFlight h j .tableLoad d) data ∧ ((s.stn d.stn).table d.tbl).state ≠
      .copying ∧ ((s.stn d.stn).table d.tbl).load d.tbl (Desc.a d) (slotWords data.bytes) 0 = (x, Desc.n d / 4, none)) ∧
    (∃ (h : PHost) (j : Ring) (tag : BitVec 16) (s : State) (i : Nat) (f : Flight), s.serving = true ∧ s.swapFlight h j tag =
      some (i, f) ∧ (s.host h).retraining = false ∧ s.swapMayCheck i f = true ∧ (s.stn f.d.stn).swapOk f.d.mask = false) ∧
    (∃ (h : PHost) (j : Ring) (tag : BitVec 16) (s : State) (i : Nat) (f : Flight), s.serving = true ∧ s.swapFlight h j tag =
      some (i, f) ∧ (s.host h).retraining = false ∧ s.swapMayCheck i f = true ∧ (s.stn f.d.stn).swapOk f.d.mask = true ∧
      s.stnArmed f.d.stn = true) ∧
    (∃ (h : PHost) (j : Ring) (tag : BitVec 16) (s : State) (i : Nat) (f : Flight), s.serving = true ∧ s.swapFlight h j tag =
      some (i, f) ∧ (s.host h).retraining = false ∧ s.swapMayCheck i f = true ∧ (s.stn f.d.stn).swapOk f.d.mask = true ∧
      s.stnArmed f.d.stn = false) ∧
    (∃ (h : PHost) (j : Ring) (q : Ring) (d : Desc) (data : HostData) (s : State) (b : State) (r : Nat), s.Accepts h j q
      .rasterPost d ∧ s.Delivers (newFlight h j .rasterPost d) data ∧ b = s.asked h j (newFlight h j .rasterPost d)
      { askedFlight h j .rasterPost d with buf := data.bytes } [] ∧ b.rasterCheck h d = .ok r) ∧
    (∃ (n : StnId) (s : State) (o : Int) (p : Nat) (g : Sheet), s.serving = true ∧ s.stnArmed n.val = true ∧ s.nextOrigin
      n.val = some (o, p) ∧ (s.stn n.val).sheets.find? (fun h => !h.queued && !h.posted.isEmpty) = some g ∧ (s.stn
      n.val).queue.length < 16) ∧
    (∃ (h : PHost) (j : Ring) (tag : BitVec 16) (s : State) (i : Nat) (f : Flight) (g : Sheet), s.Inv ∧ s.serving = true ∧
      s.bandFlight h j tag = some (i, f) ∧ s.bandReady f = some g ∧ s.ringRetired f = false ∧ ((List.range f.d.lines).map
      (f.d.a0.toNat + ·)).filter ((s.stn f.d.stn).lateLine g) = []) ∧
    (∃ (h : PHost) (j : Ring) (tag : BitVec 16) (s : State) (k : Nat) (e : Flight), s.serving = true ∧ s.findFlight (fun e =>
      decide (e.host = h ∧ e.sq = j ∧ e.d.tag = tag) && waitsLimited e.op && e.open_) = some (k, e)) :=
  ⟨⟨0, 0, 0, { p0 := 0x400, len := 4 }, { bytes := List.replicate 4 0 }, {}, stRing, {}, ⟨⟨by decide, rfl, by decide,
      by decide, by decide⟩, by decide⟩, by decide, ⟨by decide, by decide, by decide, by decide⟩, by decide, by decide⟩,
   ⟨0, 0, 0,
      { stWith { tables := [(1, { state := .dirty })] } with flights := [{ newFlight 0 0 .tableSwap { p0 := 0x200 } with stage := .swap }] },
      0, { newFlight 0 0 .tableSwap { p0 := 0x200 } with stage := .swap }, by decide, by decide, by decide, by decide,
      by decide⟩,
   ⟨0, 0, 0, { stStn with flights := [{ newFlight 0 0 .tableSwap { p0 := 0x200 } with stage := .swap }] }, 0,
      { newFlight 0 0 .tableSwap { p0 := 0x200 } with stage := .swap }, by decide, by decide, by decide, by decide, by decide,
      by decide⟩,
   ⟨0, 0, 0, { stIdle with flights := [{ newFlight 0 0 .tableSwap { p0 := 0x200 } with stage := .swap }] }, 0,
      { newFlight 0 0 .tableSwap { p0 := 0x200 } with stage := .swap }, by decide, by decide, by decide, by decide, by decide,
      by decide⟩,
   ⟨0, 0, 0, { p0 := 0x10000, len := 32, d0 := 77 }, { bytes := List.replicate 32 0 }, stStn, _, 5, ⟨⟨by decide, rfl,
      by decide, by decide, by decide⟩, by decide⟩, ⟨by decide, by decide, by decide, by decide⟩, rfl, rfl⟩,
   ⟨0, stWith { sheets := [{ rec_ := 5, posted := [(0, 1)] }] }, 0, 0, { rec_ := 5, posted := [(0, 1)] }, by decide,
      by decide, by decide, by decide, by decide⟩,
   ⟨0, 0, 0,
      { stWith { sheets := [{ rec_ := 5, posted := [(0, 1)], queued := true }] } with flights := [{ newFlight 0 0 .rasterPost { p0 := 0x10000, len := 32, d0 := 77 } with buf := List.replicate 32 0, stage := .ringSpace }] },
      0,
      { newFlight 0 0 .rasterPost { p0 := 0x10000, len := 32, d0 := 77 } with buf := List.replicate 32 0, stage := .ringSpace },
      { rec_ := 5, posted := [(0, 1)], queued := true }, inv_of _ (by decide) (by decide), by decide, by decide, by decide,
      by decide, by decide⟩,
   ⟨0, 0, 0, stFlight (newFlight 0 0 .keepRead { len := 4 }), 0, (newFlight 0 0 .keepRead { len := 4 }), by decide,
      by decide⟩⟩

/-- Every clause of MovesAndRegions has its hypotheses met. -/
theorem test_met_MovesAndRegions :
    (∃ (n : Fin 8) (s : State), s.serving = true ∧ s.get (Reg.ARR_MOVE_PHASE n.val) = 1 ∧ s.waits (s.get (Reg.ARR_MOVE_DST
      n.val)) true = false ∧ s.get (Reg.ARR_MOVE_SRC n.val) ≠ s.get (Reg.ARR_MOVE_DST n.val) ∧ s.moveHeld n.val = false) ∧
    (∃ (n : Fin 8) (s : State) (i : Nat) (f : Flight), s.serving = true ∧ s.moveFlight n.val = some (i, f) ∧
      s.dev.failed.find? (fun e => decide (e.1 = s.get (Reg.ARR_MOVE_DST n.val))) = none) ∧
    (∃ (x : Sender) (n : Fin 8) (s : State), s.reaches x (0x410 + n.val) true = true ∧ s.get (Reg.ARR_MOVE_PHASE n.val) = 2 ∧
      x.toNat = s.get (Reg.ARR_MOVE_OWNER n.val) ∧ s.partHeld = false ∧ s.dev.left.contains (s.get (Reg.ARR_MOVE_SRC n.val)) =
      false ∧ s.dev.failed.find? (fun e => decide (e.1 = s.get (Reg.ARR_MOVE_SRC n.val))) = none) ∧
    (∃ (cw : BitVec 28) (s : State), s.serving = true ∧ s.waits (cwRegion cw.toNat) true = false ∧ (s.cwImage cw.toNat).eccOf
      (cwIndex cw.toNat) = 1) ∧
    (∃ (x : Sender) (r : Fin 64) (v : Word) (s : State), r.val < 63 ∧ s.reaches x (0x440 + r.val) true = true ∧ s.mayPart x =
      true ∧ s.partHeld = false ∧ s.get (Reg.PART_REGION_PARTITION r.val) = 0x3F ∧ s.rstate r.val = RState.available ∧ bits
      v.toNat 5 0 < 63 ∧ s.flag (Reg.PART_ATTR_VALID (bits v.toNat 5 0)) = true ∧ s.ringIn (bits v.toNat 5 0) = false) ∧
    (∃ (x : Sender) (r : Fin 64) (v : Word) (s : State), r.val < 63 ∧ s.reaches x (0x440 + r.val) true = true ∧ s.mayPart x =
      true ∧ s.partHeld = false ∧ bits v.toNat 5 0 = 0x3F ∧ s.get (Reg.PART_REGION_PARTITION r.val) ≠ 0x3F ∧ s.rstate r.val =
      RState.assigned ∧ s.holdsMove r.val = false ∧ s.ringIn (s.get (Reg.PART_REGION_PARTITION r.val)) = false) ∧
    (∃ (x : Sender) (p : Fin 63) (v : Word) (s : State), s.reaches x (0x480 + p.val) true = true ∧ s.mayPart x = true ∧
      s.partHeld = false ∧ s.attrAllowed p.val (s.reg (0x480 + p.val)) (attrStored v) = true) ∧
    (∃ (x : Sender) (p : Fin 63) (s : State), s.reaches x (0x480 + p.val) true = true ∧ s.mayPart x = true ∧ s.partHeld =
      true) ∧
    (∃ (r : Fin 64) (s : State), r.val ∈ s.clearing) ∧
    (∃ (r : Fin 64) (s : State), s.serving = true ∧ s.rstate r.val ≠ RState.retired ∧ s.dev.copies.find? (fun c => decide
      (c.region = r.val)) = none ∧ s.flag (Reg.PART_REGION_SPARED r.val) = false ∧ s.flag (Reg.PART_REGION_SPARE_BAD r.val) =
      false) ∧
    (∃ (r : Fin 64) (s : State), s.serving = true ∧ s.rstate r.val ≠ RState.retired ∧ s.dev.copies.find? (fun c => decide
      (c.region = r.val)) = none ∧ s.flag (Reg.PART_REGION_SPARED r.val) = false ∧ s.flag (Reg.PART_REGION_SPARE_BAD r.val) =
      false) ∧
    (∃ (r : Fin 64) (c : Fin 8) (s : State), s.serving = true ∧ r.val < 63 ∧ s.rstate r.val = RState.assigned ∧
      s.dev.copies.find? (fun c => decide (c.region = r.val)) = none ∧ s.flag (Reg.PART_REGION_SPARED r.val) = true) ∧
    (∃ (r : Fin 64) (ups : List Upset) (s : State) (c : LiveCopy), s.serving = true ∧ s.waveRegions.contains r.val = false ∧
      s.dev.copies.find? (fun c => decide (c.region = r.val)) = some c ∧ c.cluster < 8 ∧ s.SpareClean c ups) ∧
    (∃ (s : State) (r : Nat), s.serving = true ∧ s.waveRegions.contains 63 = false ∧ s.dev.reloc = some r ∧ r < 63) :=
  ⟨⟨7, (((stRing.put (Reg.ARR_MOVE_PHASE 7) 1).put (Reg.ARR_MOVE_DST 7) 1).put (Reg.ARR_MOVE_OWNER 7) 1), by decide,
      by decide, by decide, by decide, by decide⟩,
   ⟨7,
      { (((stRing.put (Reg.ARR_MOVE_PHASE 7) 1).put (Reg.ARR_MOVE_DST 7) 1).put (Reg.ARR_MOVE_OWNER 7) 1) with flights := [{ newFlight 0 0 .move {} with stage := .moveCopy, result := 7 }] },
      0, { newFlight 0 0 .move {} with stage := .moveCopy, result := 7 }, by decide, by decide, by decide⟩,
   ⟨0#4, 7, (((stRing.put (Reg.ARR_MOVE_PHASE 7) 2).put (Reg.ARR_MOVE_DST 7) 1).put (Reg.ARR_MOVE_OWNER 7) 0), by decide,
      by decide, by decide, by decide, by decide, by decide⟩,
   ⟨0, { stRing with arr := [(0, { ecc := [(0, 1)] })] }, by decide, by decide, by decide⟩,
   ⟨0#4, 62, 0, stRing, by decide, by decide, by decide, by decide, by decide, by decide, by decide, by decide, by decide⟩,
   ⟨0#4, 0, 0x3F, stRing, by decide, by decide, by decide, by decide, by decide, by decide, by decide, by decide, by decide⟩,
   ⟨0#4, 62, 0x30001, stRing, by decide, by decide, by decide, by decide⟩,
   ⟨0#4, 62, { stRing with store := some { cause := .checkpoint } }, by decide, by decide, by decide⟩,
   ⟨63, { stRing with clearing := [63] }, by decide⟩,
   ⟨63, stRing, by decide, by decide, by decide, by decide, by decide⟩,
   ⟨0, stRing, by decide, by decide, by decide, by decide, by decide⟩,
   ⟨0, 0, stRing.put (Reg.PART_REGION_SPARED 0) 1, by decide, by decide, by decide, by decide, by decide⟩,
   ⟨0, [], { stRing with dev := { copies := [⟨0, 7, 0, none⟩] } }, ⟨0, 7, 0, none⟩, by decide, by decide, by decide,
      by decide, ⟨by decide, by decide⟩⟩,
   ⟨{ stRing with dev := { reloc := some 62 } }, 62, by decide, by decide, by decide, by decide⟩⟩

/-- Every clause of ScanTiming has its hypotheses met. -/
theorem test_met_ScanTiming :
    (∃ (n : StnId) (w : Nat) (high : Bool) (s : State), s.scanning n.val = true ∧ s.qualified n.val w high = true ∧ (s.stn
      n.val).win = .arming ∧ (s.stn n.val).facet = none) ∧
    (∃ (n : StnId) (w : Nat) (high : Bool) (s : State), s.scanning n.val = true ∧ s.qualified n.val w high = true ∧ (s.stn
      n.val).win = .arming ∧ (s.stn n.val).facet = none) ∧
    (∃ (n : StnId) (w : Nat) (high : Bool) (s : State), (high = s.flag (Reg.STN_SXS_CTL_POL n.val) ∨ w < s.get
      (Reg.STN_SXS_CTL_MIN_W n.val))) ∧
    (∃ (n : StnId) (w : Nat) (high : Bool) (s : State), (high = s.flag (Reg.STN_SXS_CTL_POL n.val) ∨ w < s.get
      (Reg.STN_SXS_CTL_MIN_W n.val))) ∧
    (∃ (n : StnId) (w : Nat) (high : Bool) (s : State), s.scanning n.val = true ∧ s.pwr.st = .run ∧ s.qualified n.val w high =
      true ∧ (s.stn n.val).win = .eos) ∧
    (∃ (n : StnId) (s : State), s.scanning n.val = true ∧ (s.stn n.val).win = .blanking ∧ s.flag (Reg.STN_SXS_CTL_EOS_EN
      n.val) = true) ∧
    (∃ (n : StnId) (s : State), s.scanning n.val = true ∧ (s.stn n.val).win = .eos) ∧
    (∃ (n : StnId) (s : State), s.scanning n.val = true ∧ ((s.stn n.val).win = .holdoff ∨ (s.stn n.val).win = .blanking ∧
      s.flag (Reg.STN_SXS_CTL_EOS_EN n.val) = false)) ∧
    (∃ (n : StnId) (s : State), s.scanning n.val = true ∧ ((s.stn n.val).win = .holdoff ∨ (s.stn n.val).win = .blanking ∧
      s.flag (Reg.STN_SXS_CTL_EOS_EN n.val) = false)) ∧
    (∃ (n : StnId) (s : State), s.serving = true ∧ s.flag (Reg.STN_STATUS_ARMED n.val) = true ∧ s.flag (Reg.STN_STATUS_STALLED
      n.val) = false ∧ (s.stn n.val).intervals ≠ []) ∧
    (∃ (n : StnId) (s : State), s.serving = true ∧ s.flag (Reg.STN_STATUS_WAIT_SOS n.val) = true) ∧
    (∃ (x : Sender) (n : StnId) (s : State), s.stnReaches x n.val 0x44 true = true) :=
  ⟨⟨0, 1000, true, stWith { win := .arming }, by decide, by decide, by decide, by decide⟩,
   ⟨0, 1000, false, (stWith { win := .arming }).put (Reg.STN_SXS_CTL_POL 0) 1, by decide, by decide, by decide, by decide⟩,
   ⟨0, 0, false, {}, by decide⟩,
   ⟨0, 4, true, ({} : State).put (Reg.STN_SXS_CTL_MIN_W 0) 5, by decide⟩,
   ⟨0, 1000, true, stWith { win := .eos }, by decide, by decide, by decide, by decide⟩,
   ⟨0, (stWith { win := .blanking }).put (Reg.STN_SXS_CTL_EOS_EN 0) 1, by decide, by decide, by decide⟩,
   ⟨0, stWith { win := .eos }, by decide, by decide⟩,
   ⟨0, stWith { win := .holdoff }, by decide, by decide⟩,
   ⟨0, (stWith { win := .blanking }).put (Reg.STN_SXS_CTL_EOS_EN 0) 0, by decide, by decide⟩,
   ⟨0, stWith { intervals := [400] }, by decide, by decide, by decide, by decide⟩,
   ⟨0, stIdle.put (Reg.STN_STATUS_WAIT_SOS 0) 1, by decide, by decide⟩,
   ⟨0#4, 0, stStn, by decide⟩⟩

/-- Every clause of ArmingAndTables has its hypotheses met. -/
theorem test_met_ArmingAndTables :
    (∃ (x : Sender) (n : StnId) (s : State), s.stnReaches x n.val 0 true = true ∧ s.stnMay x n.val = true ∧ s.stnArmed n.val =
      false ∧ s.armReason n.val = 0 ∧ (s.stn n.val).swpFrame = false) ∧
    (∃ (x : Sender) (n : StnId) (s : State), s.stnReaches x n.val 0 true = true ∧ s.stnMay x n.val = true ∧ s.stnArmed n.val =
      false ∧ s.armReason n.val = 0 ∧ (s.stn n.val).swpFrame = false) ∧
    (∃ (x : Sender) (n : StnId) (s : State), s.stnReaches x n.val 0 true = true ∧ s.stnMay x n.val = true ∧ s.stnArmed n.val =
      false ∧ s.armReason n.val ≠ 0 ∧ (s.stn n.val).swpFrame = false) ∧
    (∃ (x : Sender) (n : StnId) (s : State), s.stnReaches x n.val 0 true = true ∧ s.stnMay x n.val = true ∧ (s.stn
      n.val).swpFrame = true) ∧
    (∃ (x : Sender) (n : StnId) (s : State), s.stnReaches x n.val 0 true = true ∧ s.stnMay x n.val = true ∧ s.stnArmed n.val =
      false) ∧
    (∃ (x : Sender) (n : StnId) (s : State), s.stnReaches x n.val 0 true = true ∧ s.stnMay x n.val = true ∧ s.stnArmed n.val =
      false) ∧
    (∃ (x : Sender) (n : StnId) (s : State), s.stnReaches x n.val 0 true = true ∧ s.stnMay x n.val = true ∧ s.stnArmed n.val =
      true ∧ (s.stn n.val).facet = none) ∧
    (∃ (x : Sender) (n : StnId) (s : State), s.stnReaches x n.val 0 true = true ∧ s.stnMay x n.val = true ∧ s.stnArmed n.val =
      true ∧ (s.stn n.val).facet.isSome = true) ∧
    (∃ (n : StnId) (s : State) (f : Facet), s.serving = true ∧ (s.stn n.val).facet = some f ∧ (s.stn n.val).disarming = false
      ∧ (s.stn n.val).drain = none) ∧
    (∃ (n : StnId) (ups : List Upset) (s : State) (b : State) (l : Int) (g : Sheet) (cw : Nat), s.Inv ∧ s.serving = true ∧
      s.stnArmed n.val = true ∧ (s.stn n.val).nextFetch = some (l, g) ∧ (s.stn n.val).buffer.length < 160 ∧ cw = (s.ringBase
      n.val + (g.pos + (l - g.origin).toNat) % s.ringSize n.val * s.lineBytes n.val) / 8 ∧ b = s.upsets ups cw (cw +
      s.lineBytes n.val / 8 - 1)) ∧
    (∃ (s : State) (cw : Nat), (s.cwImage cw).eccOf (cwIndex cw) = 0 ∧ ((∀ k, k < 4 → ((s.cwImage cw).word (4 * cwIndex cw +
      k)).toNat < 0x10000))) ∧
    (∃ (n : StnId) (s : State) (f : Facet), s.serving = true ∧ (s.stn n.val).blankDue = true ∧ (s.stn n.val).facet = some f ∧
      f.cut = none) ∧
    (∃ (x : Sender) (n : StnId) (s : State), s.stnReaches x n.val 0x1A true = true ∧ s.stnMay x n.val = true) ∧
    (∃ (n : StnId) (k : Fin 5) (s : State), s.serving = true ∧ ((s.stn n.val).table k.val).state = .copying) ∧
    (∃ (n : StnId) (k : Fin 5) (s : State), s.serving = true ∧ ((s.stn n.val).table k.val).state = .copying) :=
  ⟨⟨0#4, 0, stIdle, by decide, by decide, by decide, by decide, by decide⟩,
   ⟨0#4, 0, (stWith { probe := some (3, .waiting) }).put (Reg.STN_STATUS_ARMED 0) 0, by decide, by decide, by decide,
      by decide, by decide⟩,
   ⟨0#4, 0, stRing, by decide, by decide, by decide, by decide, by decide⟩,
   ⟨0#4, 0, stWith { probe := some (3, .writing) }, by decide, by decide, by decide⟩,
   ⟨0#4, 0, stIdle, by decide, by decide, by decide⟩,
   ⟨0#4, 0, (stWith { probe := some (3, .writing), armWaits := some 0 }).put (Reg.STN_STATUS_ARMED 0) 0, by decide, by decide,
      by decide⟩,
   ⟨0#4, 0, stStn, by decide, by decide, by decide, by decide⟩,
   ⟨0#4, 0, stWith { facet := some ⟨1, 1, [], none⟩ }, by decide, by decide, by decide, by decide⟩,
   ⟨0, stWith { facet := some ⟨1, 1, [], none⟩ }, ⟨1, 1, [], none⟩, by decide, by decide, by decide, by decide⟩,
   ⟨0, [], stWith { sheets := [{ rec_ := 5, posted := [(0, 1)], queued := true, published := [(0, 1)] }] }, _, 0,
      { rec_ := 5, posted := [(0, 1)], queued := true, published := [(0, 1)] }, _, inv_of _ (by decide) (by decide),
      by decide, by decide, by decide, by decide, rfl, rfl⟩,
   ⟨stRing, 0, by decide, by decide⟩,
   ⟨0, stWith { facet := some ⟨1, 1, [], none⟩, blankDue := true }, ⟨1, 1, [], none⟩, by decide, by decide, by decide,
      by decide⟩,
   ⟨0#4, 0, stStn, by decide, by decide⟩,
   ⟨0, 4, stWith { tables := [(4, { state := .copying })] }, by decide, by decide⟩,
   ⟨0, 0, stWith { tables := [(0, { state := .copying })] }, by decide, by decide⟩⟩

/-- Every clause of LinkAndTraining has its hypotheses met. -/
theorem test_met_LinkAndTraining :
    (∃ (n : StnId) (s : State), s.serving = true ∧ linkMap ≤ s.get (Reg.STN_LINK_STAT_STATE n.val) ∧ s.get
      (Reg.STN_LINK_STAT_STATE n.val) ≤ linkUpSt ∧ (s.stn n.val).dropLanes = 0 ∧ s.get (Reg.STN_LINK_CTL_LANES_MIN n.val) ≤
      s.get (Reg.STN_LINK_STAT_LANES n.val)) ∧
    (∃ (n : StnId) (s : State), s.serving = true ∧ linkMap ≤ s.get (Reg.STN_LINK_STAT_STATE n.val) ∧ s.get
      (Reg.STN_LINK_STAT_STATE n.val) ≤ linkUpSt ∧ (s.stn n.val).dropLanes = 0 ∧ s.get (Reg.STN_LINK_CTL_LANES_MIN n.val) ≤
      s.get (Reg.STN_LINK_STAT_LANES n.val)) ∧
    (∃ (n : StnId) (s : State) (p : Nat), s.serving = true ∧ s.get (Reg.STN_LINK_STAT_STATE n.val) = linkUpSt ∧ (s.stn
      n.val).dropLanes ≠ 0 ∧ s.get (Reg.STN_LINK_STAT_LMASK n.val) &&& (255 - (s.stn n.val).dropLanes % 256) ≠ 0 ∧ (s.stn
      n.val).restart = some p) ∧
    (∃ (x : Sender) (n : StnId) (s : State), s.stnReaches x n.val 0x60 true = true ∧ s.serving = true ∧ s.stnArmed n.val =
      false) ∧
    (∃ (n : StnId) (a : BitVec 16) (b : BitVec 16) (s : State), s.serving = true ∧ (s.stn n.val).trainStep = some 1 ∧ a ≠ 0#16
      ∧ a ≠ 0xFFFF#16 ∧ 32 ≤ b.toNat) ∧
    (∃ (n : StnId) (a : BitVec 16) (b : BitVec 16) (s : State), s.serving = true ∧ (s.stn n.val).trainStep = some 1 ∧ ((a =
      0#16 ∨ a = 0xFFFF#16 ∨ b.toNat < 32))) ∧
    (∃ (n : StnId) (a : BitVec 16) (b : BitVec 16) (s : State), s.serving = true ∧ (s.stn n.val).trainStep = some 1 ∧ ((a =
      0#16 ∨ a = 0xFFFF#16 ∨ b.toNat < 32))) ∧
    (∃ (n : StnId) (a : BitVec 16) (b : BitVec 16) (s : State), s.serving = true ∧ (s.stn n.val).trainStep = some 1 ∧ ((a =
      0#16 ∨ a = 0xFFFF#16 ∨ b.toNat < 32))) ∧
    (∃ (n : StnId) (s : State), s.serving = true ∧ (s.stn n.val).trainStep = some 2) ∧
    (∃ (n : StnId) (k : Nat) (s : State), s.serving = true ∧ (s.stn n.val).trainStep = some k ∧ 3 ≤ k ∧ k ≤ 10) ∧
    (∃ (n : StnId) (k : Nat) (s : State), s.serving = true ∧ (s.stn n.val).trainStep = some k ∧ 3 ≤ k ∧ k ≤ 10) ∧
    (∃ (n : StnId) (s : State), s.serving = true ∧ (s.stn n.val).trainStep = some 11 ∧ ((∃ l p, l < 8 ∧ p < 8 ∧ bit (s.get
      (Reg.STN_LINK_CTL_EXCL n.val)) l = false ∧ (s.stn n.val).clean p l = true))) ∧
    (∃ (n : StnId) (s : State), s.serving = true ∧ (s.stn n.val).trainStep = some 11 ∧ ((∀ l p, l < 8 → p < 8 → bit (s.get
      (Reg.STN_LINK_CTL_EXCL n.val)) l = false → (s.stn n.val).clean p l = false))) ∧
    (∃ (n : StnId) (s : State), s.serving = true ∧ (s.stn n.val).trainStep = some 12) ∧
    (∃ (n : StnId) (a : BitVec 16) (s : State), s.serving = true ∧ (s.stn n.val).trainStep = some 13 ∧ a.toNat % 256 = s.get
      (Reg.STN_LINK_STAT_LMASK n.val) ∧ bit a.toNat 15 = true) ∧
    (∃ (x : Sender) (n : StnId) (v : Word) (s : State), s.stnReaches x n.val 0x68 true = true ∧ s.flag (Reg.STN_SB_STAT_BUSY
      n.val) = false ∧ s.setupOk n.val (bits v.toNat 6 0) = true ∧ (s.stn n.val).swpFrame = false) ∧
    (∃ (x : Sender) (n : StnId) (v : Word) (s : State), s.stnReaches x n.val 0x68 true = true ∧ s.flag (Reg.STN_SB_STAT_BUSY
      n.val) = false ∧ s.setupOk n.val (bits v.toNat 6 0) = true ∧ (s.stn n.val).swpFrame = true) ∧
    (∃ (x : Sender) (n : StnId) (v : Word) (s : State), s.stnReaches x n.val 0x68 true = true ∧ s.flag (Reg.STN_SB_STAT_BUSY
      n.val) = false ∧ s.setupOk n.val (bits v.toNat 6 0) = false) ∧
    (∃ (x : Sender) (n : StnId) (v : Word) (s : State), s.stnReaches x n.val 0x68 true = true ∧ s.flag (Reg.STN_SB_STAT_BUSY
      n.val) = false ∧ s.setupOk n.val (bits v.toNat 6 0) = false) ∧
    (∃ (n : StnId) (s : State), (s.stn n.val).goWaits = true) ∧
    (∃ (n : StnId) (w : BitVec 16) (a : BitVec 7) (k : Nat) (s : State), s.serving = true ∧ (s.stn n.val).frame = some (true,
      a, w, k) ∧ (s.stn n.val).goWaits = false) ∧
    (∃ (n : StnId) (w : BitVec 16) (a : BitVec 7) (k : Nat) (s : State), s.serving = true ∧ (s.stn n.val).frame = some (false,
      a, w, k) ∧ (s.stn n.val).goWaits = false) ∧
    (∃ (n : StnId) (w : BitVec 16) (a : BitVec 7) (s : State), s.serving = true ∧ (s.stn n.val).frame = some (true, a, w, 0) ∧
      (s.stn n.val).goWaits = false) ∧
    (∃ (n : StnId) (w : BitVec 16) (a : BitVec 7) (k : Nat) (s : State), s.serving = true ∧ (s.stn n.val).frame = some (true,
      a, w, k + 1) ∧ (s.stn n.val).goWaits = false) :=
  ⟨⟨0, stStn, by decide, by decide, by decide, by decide, by decide⟩,
   ⟨0, stStn.put (Reg.STN_LINK_STAT_STATE 0) 2, by decide, by decide, by decide, by decide, by decide⟩,
   ⟨0, stWith { dropLanes := 1, restart := some 3 }, 3, by decide, by decide, by decide, by decide, by decide⟩,
   ⟨0#4, 0, stIdle, by decide, by decide, by decide⟩,
   ⟨0, 1, 32, stWith { trainStep := some 1 }, by decide, by decide, by decide, by decide, by decide⟩,
   ⟨0, 0, 32, stWith { trainStep := some 1 }, by decide, by decide, by decide⟩,
   ⟨0, 0xFFFF, 32, stWith { trainStep := some 1 }, by decide, by decide, by decide⟩,
   ⟨0, 1, 31, stWith { trainStep := some 1 }, by decide, by decide, by decide⟩,
   ⟨0, stWith { trainStep := some 2 }, by decide, by decide⟩,
   ⟨0, 3, stWith { trainStep := some 3 }, by decide, by decide, by decide, by decide⟩,
   ⟨0, 10, stWith { trainStep := some 10 }, by decide, by decide, by decide, by decide⟩,
   ⟨0, stWith { trainStep := some 11, prbs := [(7, 128)] }, by decide, by decide, 7, 7, by decide, by decide, by decide,
      by decide⟩,
   ⟨0, stWith { trainStep := some 11 }, by decide, by decide, fun l p hl hp _ => by interval_cases l <;> interval_cases p <;>
      decide⟩,
   ⟨0, stWith { trainStep := some 12 }, by decide, by decide⟩,
   ⟨0, 0x80FF, stWith { trainStep := some 13 }, by decide, by decide, by decide, by decide⟩,
   ⟨0#4, 0, 0, stIdle, by decide, by decide, by decide, by decide⟩,
   ⟨0#4, 0, 0, (stWith { probe := some (3, .writing) }).put (Reg.STN_STATUS_ARMED 0) 0, by decide, by decide, by decide,
      by decide⟩,
   ⟨0#4, 0, 0x10, stIdle, by decide, by decide, by decide⟩,
   ⟨0#4, 0, 0, stStn, by decide, by decide, by decide⟩,
   ⟨0, stWith { frame := some (true, 5, 6, 3), goWaits := true }, by decide⟩,
   ⟨0, 6, 5, 1, stWith { frame := some (true, 5, 6, 1) }, by decide, by decide, by decide⟩,
   ⟨0, 6, 5, 1, stWith { frame := some (false, 5, 6, 1) }, by decide, by decide, by decide⟩,
   ⟨0, 6, 5, stWith { frame := some (true, 5, 6, 0) }, by decide, by decide, by decide⟩,
   ⟨0, 6, 5, 0, stWith { frame := some (true, 5, 6, 1) }, by decide, by decide, by decide⟩⟩

/-- Every clause of ReportsAndEncoders has its hypotheses met. -/
theorem test_met_ReportsAndEncoders :
    (∃ (n : StnId) (s : State), s.inReport n.val = true) ∧
    (∃ (n : StnId) (s : State), s.inReport n.val = true) ∧
    (∃ (n : StnId) (s : State), s.inReport n.val = true) ∧
    (∃ (n : StnId) (s : State), s.inReport n.val = true) ∧
    (∃ (n : StnId) (s : State), s.inReport n.val = true) ∧
    (∃ (n : StnId) (s : State), s.inReport n.val = true) ∧
    (∃ (n : StnId) (s : State), s.inReport n.val = true) ∧
    (∃ (n : StnId) (s : State), s.inReport n.val = true) ∧
    (∃ (n : StnId) (s : State), s.inReport n.val = true) ∧
    (∃ (n : StnId) (c : BitVec 2) (e : BitVec 7) (s : State), s.inReport n.val = true ∧ e.toNat < 72 ∧ (s.stn n.val).lastRpt ≠
      some (rptDead, e.toNat, (c.toNat + 3) % 4)) ∧
    (∃ (n : StnId) (c : BitVec 2) (e : BitVec 7) (s : State), s.inReport n.val = true ∧ e.toNat < 72 ∧ (s.stn n.val).lastRpt ≠
      some (rptDead, e.toNat, (c.toNat + 3) % 4)) ∧
    (∃ (n : StnId) (c : BitVec 2) (e : BitVec 7) (s : State), s.inReport n.val = true ∧ e.toNat < 72 ∧ (s.stn n.val).lastRpt =
      some (rptDead, e.toNat, (c.toNat + 3) % 4)) ∧
    (∃ (n : StnId) (c : BitVec 2) (l : BitVec 3) (a : BitVec 5) (s : State), s.inReport n.val = true ∧ (s.stn n.val).lastRpt ≠
      some (rptLane, l.toNat + 8 * a.toNat, (c.toNat + 3) % 4) ∧ bit (s.get (Reg.STN_LINK_STAT_LMASK n.val)) l.toNat = true) ∧
    (∃ (n : StnId) (c : BitVec 2) (l : BitVec 3) (a : BitVec 5) (s : State), s.inReport n.val = true ∧ (s.stn n.val).lastRpt ≠
      some (rptLane, l.toNat + 8 * a.toNat, (c.toNat + 3) % 4) ∧ bit (s.get (Reg.STN_LINK_STAT_LMASK n.val)) l.toNat = true) ∧
    (∃ (n : StnId) (c : BitVec 2) (l : BitVec 3) (a : BitVec 5) (s : State), s.inReport n.val = true ∧ (s.stn n.val).lastRpt ≠
      some (rptLane, l.toNat + 8 * a.toNat, (c.toNat + 3) % 4) ∧ (bit (s.get (Reg.STN_LINK_STAT_LMASK n.val)) l.toNat = false
      ∨ (s.stn n.val).aborted = false ∧ 3 < ((s.stn n.val).periods : Int) - (s.stn n.val).periodOf (a.toNat + 1))) ∧
    (∃ (n : StnId) (c : BitVec 2) (l : BitVec 3) (a : BitVec 5) (s : State), s.inReport n.val = true ∧ (s.stn n.val).lastRpt ≠
      some (rptLane, l.toNat + 8 * a.toNat, (c.toNat + 3) % 4) ∧ (bit (s.get (Reg.STN_LINK_STAT_LMASK n.val)) l.toNat = false
      ∨ (s.stn n.val).aborted = false ∧ 3 < ((s.stn n.val).periods : Int) - (s.stn n.val).periodOf (a.toNat + 1))) ∧
    (∃ (n : StnId) (c : BitVec 2) (f : Byte) (s : State), s.inReport n.val = true ∧ (s.stn n.val).lastRpt ≠ some (rptLate,
      f.toNat, (c.toNat + 3) % 4)) ∧
    (∃ (n : StnId) (s : State), s.inReport n.val = true) ∧
    (∃ (n : StnId) (s : State), s.inReport n.val = true) ∧
    (∃ (n : StnId) (s : State), s.inReport n.val = true) ∧
    (∃ (n : StnId) (s : State), s.inReport n.val = true) ∧
    (∃ (n : StnId) (s : State), s.inReport n.val = true) ∧
    (∃ (n : StnId) (s : State), s.inReport n.val = true) ∧
    (∃ (n : StnId) (s : State), s.inReport n.val = true) ∧
    (∃ (n : StnId) (s : State), s.inReport n.val = true) ∧
    (∃ (n : StnId) (s : State), s.inReport n.val = true) ∧
    (∃ (n : StnId) (s : State), s.inReport n.val = true) ∧
    (∃ (n : StnId) (s : State), s.inReport n.val = true) ∧
    (∃ (n : StnId) (s : State), s.inReport n.val = true) ∧
    (∃ (n : StnId) (s : State), s.inReport n.val = true) ∧
    (∃ (n : StnId) (s : State), s.inReport n.val = true) ∧
    (∃ (n : StnId) (s : State), s.inReport n.val = true) ∧
    (∃ (n : StnId) (s : State), s.inReport n.val = true) ∧
    (∃ (n : StnId) (s : State), s.inReport n.val = true) ∧
    (∃ (n : StnId) (s : State), s.inReport n.val = true) ∧
    (∃ (n : StnId) (s : State), s.inReport n.val = true ∧ (s.stn n.val).sbLost = false ∧ (s.stn n.val).cutoff = false) ∧
    (∃ (e : Fin 2) (b : BitVec 2) (d : Int) (s : State), s.serving = true ∧ (s.enc e.val).los = false ∧ quadStep (s.enc
      e.val).ba b = some d) ∧
    (∃ (e : Fin 2) (b : BitVec 2) (d : Int) (s : State), s.serving = true ∧ (s.enc e.val).los = false ∧ quadStep (s.enc
      e.val).ba b = some d) ∧
    (∃ (e : Fin 2) (b : BitVec 2) (n : StnId) (s : State), s.serving = true ∧ (s.enc e.val).los = false ∧ quadStep (s.enc
      e.val).ba b = none ∧ n.val ∈ s.encUsers e.val) ∧
    (∃ (e : Fin 2) (b : BitVec 2) (d : Int) (n : StnId) (s : State), s.serving = true ∧ (s.enc e.val).los = false ∧ quadStep
      (s.enc e.val).ba b = some d ∧ d ≠ 0 ∧ n.val ∈ s.encUsers e.val) ∧
    (∃ (e : Fin 2) (n : StnId) (s : State), s.serving = true ∧ (s.enc e.val).los = false ∧ n.val ∈ s.encUsers e.val) ∧
    (∃ (x : Sender) (n : StnId) (s : State), s.reaches x (stnBase n.val + 0x49) false = true ∧ s.stnEnabled n.val = true) :=
  ⟨⟨0, stStn, by decide⟩,
   ⟨0, stStn, by decide⟩,
   ⟨0, stStn, by decide⟩,
   ⟨0, stStn, by decide⟩,
   ⟨0, stStn, by decide⟩,
   ⟨0, stStn, by decide⟩,
   ⟨0, stStn, by decide⟩,
   ⟨0, stStn, by decide⟩,
   ⟨0, stStn, by decide⟩,
   ⟨0, 0, 71, stStn, by decide, by decide, by decide⟩,
   ⟨0, 0, 0, stStn, by decide, by decide, by decide⟩,
   ⟨0, 0, 71, stWith { lastRpt := some (rptDead, 71, 3) }, by decide, by decide, by decide⟩,
   ⟨0, 0, 7, 31, stWith { periods := 3 }, by decide, by decide, by decide⟩,
   ⟨0, 0, 0, 31, stWith { aborted := true }, by decide, by decide, by decide⟩,
   ⟨0, 0, 7, 31, stStn.put (Reg.STN_LINK_STAT_LMASK 0) 1, by decide, by decide, by decide⟩,
   ⟨0, 0, 7, 4, stWith { periods := 100 }, by decide, by decide, by decide⟩,
   ⟨0, 0, 0, stStn, by decide, by decide⟩,
   ⟨0, stStn, by decide⟩,
   ⟨0, stStn, by decide⟩,
   ⟨0, stStn, by decide⟩,
   ⟨0, stStn, by decide⟩,
   ⟨0, stStn, by decide⟩,
   ⟨0, stStn, by decide⟩,
   ⟨0, stStn, by decide⟩,
   ⟨0, stStn, by decide⟩,
   ⟨0, stStn, by decide⟩,
   ⟨0, stStn, by decide⟩,
   ⟨0, stStn, by decide⟩,
   ⟨0, stStn, by decide⟩,
   ⟨0, stStn, by decide⟩,
   ⟨0, stStn, by decide⟩,
   ⟨0, stStn, by decide⟩,
   ⟨0, stStn, by decide⟩,
   ⟨0, stStn, by decide⟩,
   ⟨0, stStn, by decide⟩,
   ⟨0, stStn, by decide, by decide, by decide⟩,
   ⟨0, 1, 1, stStn, by decide, by decide, by decide⟩,
   ⟨0, 2, -1, stStn, by decide, by decide, by decide⟩,
   ⟨0, 3, 7, stStn, by decide, by decide, by decide, by decide⟩,
   ⟨0, 1, 1, 0, stStn, by decide, by decide, by decide, by decide, by decide⟩,
   ⟨0, 7, stStn, by decide, by decide, by decide⟩,
   ⟨0#4, 0, stStn, by decide, by decide⟩⟩

/-- Every clause of PulsesAndCounters has its hypotheses met. -/
theorem test_met_PulsesAndCounters :
    (∃ (p : Fin 3) (s : State), s.serving = true ∧ s.pinOn p.val = true ∧ s.ledHeld = false ∧ s.queue p.val = []) ∧
    (∃ (p : Fin 3) (s : State), s.serving = true ∧ s.pinOn p.val = true ∧ s.ledHeld = false ∧ s.queue p.val = []) ∧
    (∃ (p : Fin 3) (s : State) (i : Nat) (q : List Nat), s.serving = true ∧ s.pinOn p.val = true ∧ s.ledHeld = false ∧ s.queue
      p.val = i :: q ∧ i < 1048576) ∧
    (∃ (p : Fin 3) (s : State) (i : Nat) (q : List Nat), s.serving = true ∧ s.pinOn p.val = true ∧ s.ledHeld = false ∧ s.queue
      p.val = i :: q ∧ i < 1048576) ∧
    (∃ (p : Fin 3) (s : State), s.serving = true ∧ s.pinOn p.val = true ∧ s.ledHeld = true) ∧
    (∃ (s : State), s.serving = true ∧ s.flag Reg.LED_CTL_JAM = true ∧ s.ledHeld = true) ∧
    (∃ (s : State), s.serving = true ∧ s.flag Reg.LED_CTL_JAM = true ∧ s.ledHeld = false) ∧
    (∃ (q : Fin 3) (i : BitVec 20) (s : State), s.serving = true ∧ s.queueLimit q.val ≠ 0 ∧ i.toNat ∈ s.queue q.val ∧
      s.ledHeld = false) ∧
    (∃ (s : State), s.serving = true ∧ ((s.flag Reg.LED_KEEP_STAT_DUE = true ∨ s.led.changed = true)) ∧ s.keepBusy = false ∧
      s.spillReady = false) ∧
    (∃ (s : State), s.serving = true ∧ ((s.flag Reg.LED_KEEP_STAT_DUE = true ∨ s.led.changed = true)) ∧ s.keepBusy = false ∧
      s.spillReady = false) ∧
    (∃ (s : State), s.serving = true ∧ ((s.flag Reg.LED_KEEP_STAT_DUE = true ∨ s.led.changed = true)) ∧ ((s.keepBusy = true ∨
      s.spillReady = true))) ∧
    (∃ (s : State), s.serving = true ∧ ((s.flag Reg.LED_KEEP_STAT_DUE = true ∨ s.led.changed = true)) ∧ ((s.keepBusy = true ∨
      s.spillReady = true))) ∧
    (∃ (x : Sender) (s : State), s.reaches x 0xC20 true = true ∧ isH0 x = true) :=
  ⟨⟨0, stStn.put Reg.LED_CTL_TRANSFER 1, by decide, by decide, by decide, by decide⟩,
   ⟨2, stStn.put Reg.LED_CTL_DELIVER 1, by decide, by decide, by decide, by decide⟩,
   ⟨0, { stStn.put Reg.LED_CTL_TRANSFER 1 with led := { queues := [(0, [5])] } }, 5, [], by decide, by decide, by decide,
      by decide, by decide⟩,
   ⟨2, { stStn.put Reg.LED_CTL_DELIVER 1 with led := { queues := [(2, [1048575, 5])] } }, 1048575, [5], by decide, by decide,
      by decide, by decide, by decide⟩,
   ⟨0,
      { stStn.put Reg.LED_CTL_TRANSFER 1 with store := some { cause := .checkpoint, frozen := true, regions := [63], wave := 1 } },
      by decide, by decide, by decide⟩,
   ⟨{ stStn.put Reg.LED_CTL_JAM 1 with store := some { cause := .checkpoint, frozen := true, regions := [63], wave := 1, thresholds := [1] } },
      by decide, by decide, by decide⟩,
   ⟨stStn.put Reg.LED_CTL_JAM 1, by decide, by decide, by decide⟩,
   ⟨2, 5, { stStn with led := { queues := [(2, [5])] } }, by decide, by decide, by decide, by decide⟩,
   ⟨stStn.put Reg.LED_KEEP_STAT_DUE 1, by decide, by decide, by decide, by decide⟩,
   ⟨{ stStn with led := { changed := true } }, by decide, by decide, by decide, by decide⟩,
   ⟨{ stStn with led := { changed := true }, keep := { run := some ⟨.h0, 200, [], [], 1⟩ } }, by decide, by decide,
      by decide⟩,
   ⟨{ stStn.put Reg.SUP_FIRST_SPILL_PENDING 1 with led := { changed := true } }, by decide, by decide, by decide⟩,
   ⟨0#4, stStn, by decide, by decide⟩⟩

/-- Every clause of MailboxesAndPossession has its hypotheses met. -/
theorem test_met_MailboxesAndPossession :
    (∃ (x : Sender) (c : Fin 8) (b : Bool) (s : State), s.reaches x ((if b then 0x301 else 0x300) + 0x10 * c.val) true = true
      ∧ s.serving = true ∧ s.mbMayWrite c.val b x = true ∧ ((s.mbox c.val).queue b).length < 8) ∧
    (∃ (x : Sender) (c : Fin 8) (b : Bool) (s : State), (s.mbMayWrite c.val b x = false ∨ isFirmware x = true ∧ ((s.mbox
      c.val).queue b).length = 8)) ∧
    (∃ (x : Sender) (c : Fin 8) (b : Bool) (s : State), (s.mbMayWrite c.val b x = false ∨ isFirmware x = true ∧ ((s.mbox
      c.val).queue b).length = 8)) ∧
    (∃ (x : Sender) (y : Sender) (c : Fin 8) (b : Bool) (v : Word) (w : Word) (m : Instr) (s : State), s.reaches x ((if b then
      0x301 else 0x300) + 0x10 * c.val) true = true ∧ s.reaches y ((if b then 0x301 else 0x300) + 0x10 * c.val) true = true ∧
      s.serving = true ∧ s.mbMayWrite c.val b x = true ∧ s.mbMayWrite c.val b y = true ∧ ((s.mbox c.val).queue b).length = 7 ∧
      x.toNat < y.toNat ∧ (m = .mailboxWrite x c b ⟨v, [(y, w)]⟩ ∨ m = .mailboxWrite y c b ⟨w, [(x, v)]⟩)) ∧
    (∃ (x : Sender) (y : Sender) (c : Fin 8) (b : Bool) (v : Word) (w : Word) (m : Instr) (s : State), s.reaches x ((if b then
      0x301 else 0x300) + 0x10 * c.val) true = true ∧ s.reaches y ((if b then 0x301 else 0x300) + 0x10 * c.val) true = true ∧
      s.serving = true ∧ s.mbMayWrite c.val b x = true ∧ s.mbMayWrite c.val b y = true ∧ ((s.mbox c.val).queue b).length = 7 ∧
      x.toNat < y.toNat ∧ (m = .mailboxWrite x c b ⟨v, [(y, w)]⟩ ∨ m = .mailboxWrite y c b ⟨w, [(x, v)]⟩)) ∧
    (∃ (x : Sender) (z : Sender) (c : Fin 8) (b : Bool) (w : Word) (y : Sender) (q : List (Word × Sender)) (s : State),
      s.reaches x ((if b then 0x303 else 0x302) + 0x10 * c.val) false = true ∧ s.serving = true ∧ s.mbReceives c.val (s.mbEnd
      c.val b) x = true ∧ s.reaches z ((if b then 0x301 else 0x300) + 0x10 * c.val) true = true ∧ s.mbMayWrite c.val b z =
      true ∧ (s.mbox c.val).queue b = (w, y) :: q ∧ s.mbHolds c.val x = false ∧ q.length < 8) ∧
    (∃ (x : Sender) (z : Sender) (c : Fin 8) (b : Bool) (w : Word) (y : Sender) (q : List (Word × Sender)) (s : State),
      s.reaches x ((if b then 0x303 else 0x302) + 0x10 * c.val) false = true ∧ s.serving = true ∧ s.mbReceives c.val (s.mbEnd
      c.val b) x = true ∧ s.reaches z ((if b then 0x301 else 0x300) + 0x10 * c.val) true = true ∧ s.mbMayWrite c.val b z =
      true ∧ (s.mbox c.val).queue b = (w, y) :: q ∧ s.mbHolds c.val x = false ∧ q.length < 8) ∧
    (∃ (x : Sender) (c : Fin 8) (b : Bool) (s : State), s.reaches x ((if b then 0x303 else 0x302) + 0x10 * c.val) false = true
      ∧ s.serving = true ∧ s.mbReceives c.val (s.mbEnd c.val b) x = true ∧ (s.mbox c.val).queue b = [] ∧ s.mbHolds c.val x =
      false) ∧
    (∃ (x : Sender) (c : Fin 8) (b : Bool) (s : State), s.reaches x ((if b then 0x303 else 0x302) + 0x10 * c.val) false = true
      ∧ s.serving = true ∧ s.mbReceives c.val (s.mbEnd c.val b) x = true ∧ (s.mbox c.val).queue b = [] ∧ s.mbHolds c.val x =
      false) ∧
    (∃ (x : Sender) (c : Fin 8) (b : Bool) (s : State) (w : Word) (y : Sender) (q : List (Word × Sender)), s.reaches x ((if b
      then 0x303 else 0x302) + 0x10 * c.val) false = true ∧ s.serving = true ∧ s.mbReceives c.val (s.mbEnd c.val b) x = true ∧
      (s.mbox c.val).queue b = (w, y) :: q ∧ s.mbHolds c.val x = false ∧ q.length < 8) ∧
    (∃ (x : Sender) (c : Fin 8) (b : Bool) (s : State) (w : Word) (y : Sender) (q : List (Word × Sender)), s.reaches x ((if b
      then 0x303 else 0x302) + 0x10 * c.val) false = true ∧ s.serving = true ∧ s.mbReceives c.val (s.mbEnd c.val b) x = true ∧
      (s.mbox c.val).queue b = (w, y) :: q ∧ s.mbHolds c.val x = false ∧ q.length < 8) ∧
    (∃ (x : Sender) (c : Fin 8) (b : Bool) (s : State), s.reaches x ((if b then 0x303 else 0x302) + 0x10 * c.val) false = true
      ∧ isFirmware x = true ∧ c.val ≤ 4 ∧ 8 < (s.mbox c.val).owed.length + (s.mbox c.val).toA.length) ∧
    (∃ (x : Sender) (k : Fin 32) (s : State), s.reaches x (0x380 + k.val) false = true ∧ s.serving = true ∧ s.possOwner k.val
      = none) ∧
    (∃ (x : Sender) (o : Sender) (k : Fin 32) (s : State), s.reaches x (0x380 + k.val) false = true ∧ s.serving = true ∧
      s.possOwner k.val = some o) ∧
    (∃ (x : Sender) (k : Fin 32) (s : State), s.reaches x (0x380 + k.val) true = true ∧ s.serving = true) ∧
    (∃ (x : Sender) (hi : Bool) (s : State), s.reaches x (if hi then 0x3B3 else 0x3B2) true = true ∧ s.serving = true ∧ isH0 x
      = true) ∧
    (∃ (x : Sender) (hi : Bool) (s : State), s.reaches x (if hi then 0x3B3 else 0x3B2) true = true ∧ s.serving = true ∧ isH0 x
      = true) ∧
    (∃ (x : Sender), isH0 x = false) :=
  ⟨⟨0#4, 4, true, stHost, by decide, by decide, by decide, by decide⟩,
   ⟨0#4, 0, true, stHost, .inl (by decide)⟩,
   ⟨8#4, 5, false, { stHost with mboxes := [(5, { toA := List.replicate 8 (1, 0) })] }, .inr (by decide)⟩,
   ⟨0#4, 8#4, 5, false, 1, 2, .mailboxWrite 0#4 5 false ⟨1, [(8#4, 2)]⟩,
      { stHost with regs := stHost.regs ++ [(0x358, 0)], mboxes := [(5, { toA := List.replicate 7 (1, 0) })] }, by decide,
      by decide, by decide, by decide, by decide, by decide, by decide, .inl rfl⟩,
   ⟨0#4, 8#4, 5, false, 1, 2, .mailboxWrite 8#4 5 false ⟨2, [(0#4, 1)]⟩,
      { stHost with regs := stHost.regs ++ [(0x358, 0)], mboxes := [(5, { toA := List.replicate 7 (1, 0) })] }, by decide,
      by decide, by decide, by decide, by decide, by decide, by decide, .inr rfl⟩,
   ⟨0#4, 8#4, 4, false, 5, 8, [], { stHost with mboxes := [(4, { toA := [(5, 8)] })] }, by decide, by decide, by decide,
      by decide, by decide, by decide, by decide, by decide⟩,
   ⟨8#4, 1#4, 0, true, 5, 1, List.replicate 7 (6, 1),
      { stHost with mboxes := [(0, { toB := (5, 1) :: List.replicate 7 (6, 1) })] }, by decide, by decide, by decide,
      by decide, by decide, by decide, by decide, by decide⟩,
   ⟨0#4, 4, false, stHost, by decide, by decide, by decide, by decide, by decide⟩,
   ⟨8#4, 0, true, stHost, by decide, by decide, by decide, by decide, by decide⟩,
   ⟨0#4, 4, false, { stHost with mboxes := [(4, { toA := [(5, 8)] })] }, 5, 8, [], by decide, by decide, by decide, by decide,
      by decide, by decide⟩,
   ⟨8#4, 0, true, { stHost with mboxes := [(0, { toB := [(5, 1)] })] }, 5, 1, [], by decide, by decide, by decide, by decide,
      by decide, by decide⟩,
   ⟨8#4, 0, true, { stHost with mboxes := [(0, { toA := List.replicate 8 (1, 8), owed := [1] })] }, by decide, by decide,
      by decide, by decide⟩,
   ⟨0#4, 31, stHost, by decide, by decide, by decide⟩,
   ⟨0#4, 8, 31, { stHost with poss := [(31, some 8)] }, by decide, by decide, by decide⟩,
   ⟨0#4, 31, stHost, by decide, by decide⟩,
   ⟨0#4, true, stHost, by decide, by decide, by decide⟩,
   ⟨0#4, false, stHost, by decide, by decide, by decide⟩,
   ⟨1, by decide⟩⟩

/-- Every clause of KeepPageWrites has its hypotheses met. -/
theorem test_met_KeepPageWrites :
    (∃ (s : State) (p : Nat), s.keepAlive = true ∧ s.keepBusy = false ∧ s.spillReady = false ∧ s.flag Reg.LED_KEEP_STAT_DUE =
      false ∧ s.keep.flush = [] ∧ s.submitPage = some p ∧ p < 512 ∧ ((∀ e, e ∈ s.keep.buf → e.1 < 64))) ∧
    (∃ (s : State) (r : PageWrite), s.keep.run = some r ∧ r.phase ≤ 3 ∧ r.page < 512 ∧ ((∀ e, e ∈ r.words → e.1 < 64)) ∧
      (r.words.map (·.1)).Nodup) ∧
    (∃ (s : State) (r : PageWrite), s.keep.run = some r ∧ r.phase ≤ 3 ∧ r.page < 512 ∧ ((∀ e, e ∈ r.words → e.1 < 64)) ∧
      (r.words.map (·.1)).Nodup) ∧
    (∃ (s : State) (r : PageWrite), s.keep.run = some r ∧ r.phase ≤ 3 ∧ r.page < 512 ∧ ((∀ e, e ∈ r.words → e.1 < 64)) ∧
      (r.words.map (·.1)).Nodup) ∧
    (∃ (s : State) (r : PageWrite) (bad : List (BitVec 15)), s.keep.run = some r ∧ 3 ≤ r.phase ∧ r.writer = .h0 ∧
      s.pwr.scriptWait = none ∧ bad.Nodup ∧ ((∀ a, a ∈ bad → r.loads a.toNat = true))) ∧
    (∃ (s : State) (r : PageWrite) (bad : List (BitVec 15)), s.keep.run = some r ∧ 3 ≤ r.phase ∧ r.writer = .h0 ∧
      s.pwr.scriptWait = none ∧ bad.Nodup ∧ ((∀ a, a ∈ bad → r.loads a.toNat = true))) ∧
    (∃ (s : State) (r : PageWrite) (bad : List (BitVec 15)), s.keep.run = some r ∧ 3 ≤ r.phase ∧ r.writer = .h0 ∧
      s.pwr.scriptWait = none ∧ bad.Nodup ∧ ((∀ a, a ∈ bad → r.loads a.toNat = true))) ∧
    (∃ (s : State) (r : PageWrite) (bad : List (BitVec 15)), s.keep.run = some r ∧ 3 ≤ r.phase ∧ r.writer = .h0 ∧
      s.pwr.scriptWait = none ∧ bad.Nodup ∧ ((∀ a, a ∈ bad → r.loads a.toNat = true))) ∧
    (∃ (x : Sender) (s : State), s.keepOpen x 0x283 false = true ∧ s.addrBusy = false) ∧
    (∃ (x : Sender) (s : State), s.reaches x 0x283 false = true ∧ isH0 x = false) ∧
    (∃ (x : Sender) (s : State), s.keepOpen x 0x284 true = true ∧ s.addrBusy = false) ∧
    (∃ (x : Sender) (s : State), s.keepOpen x 0x284 true = true ∧ s.addrBusy = false) ∧
    (∃ (x : Sender) (s : State), s.keepOpen x 0x285 true = true ∧ s.keep.bufPage = none) ∧
    (∃ (x : Sender) (s : State) (p : Nat), s.keepOpen x 0x285 true = true ∧ s.keep.bufPage = some p ∧ s.keepWaits p = false) ∧
    (∃ (x : Sender) (s : State), s.keepOpen x 0x285 true = true ∧ s.keepBusy = false) ∧
    (∃ (s : State), s.keepBusy = true) ∧
    (∃ (s : State), s.keepBusy = true) ∧
    (∃ (s : State), s.keepBusy = true) ∧
    (∃ (s : State), s.keepBusy = true) ∧
    (∃ (x : Sender) (s : State), s.keepOpen x 0x285 true = true ∧ s.pwr.st = .run ∧ s.keep.flushFor = none ∧ s.keep.hotNext =
      none ∧ ((∃ p, p ∈ s.hotPages ∧ s.hotDiff p ≠ []))) ∧
    (∃ (x : Sender) (bp : BitVec 2) (s : State), s.reaches x 0x280 true = true ∧ isH0 x = true ∧ s.keepBusy = false ∧ s.get
      Reg.KEEP_CTL_BP ≠ bp.toNat) ∧
    (∃ (x : Sender) (bp : BitVec 2) (s : State), s.reaches x 0x280 true = true ∧ isH0 x = true ∧ s.keepBusy = false ∧ s.get
      Reg.KEEP_CTL_BP ≠ bp.toNat) ∧
    (∃ (s : State), s.keepBusy = true) ∧
    (∃ (s : State), s.keepBusy = true) ∧
    (∃ (s : State), s.keepBusy = true) ∧
    (∃ (s : State), s.keepBusy = true) ∧
    (∃ (x : Sender) (v : Word) (s : State), s.reaches x 0x289 true = true ∧ isH0 x = true ∧ s.pwr.st = .run ∧ s.keep.hotNext =
      none ∧ hotRangeOk (bits v.toNat 8 0) (bits v.toNat 11 9) = true) ∧
    (∃ (x : Sender) (v : Word) (s : State), s.reaches x 0x289 true = true ∧ isH0 x = true ∧ s.pwr.st = .run ∧ s.keep.hotNext =
      none ∧ hotRangeOk (bits v.toNat 8 0) (bits v.toNat 11 9) = true) ∧
    (∃ (r : Nat × Nat) (s : State), s.keep.hotNext = some r ∧ s.serving = true ∧ s.keep.flush = [] ∧ s.keep.flushFor = none ∧
      s.keepBusy = false ∧ hotRangeOk r.1 r.2 = true) ∧
    (∃ (s : State) (r : PageWrite) (w : Nat), s.keep.run = some r ∧ r.page < 512 ∧ ((∀ e, e ∈ r.words → e.1 < 64)) ∧ w < 32768
      ∧ tagOf (s.keepAbandon.keepArray w) = tagCommitted) :=
  ⟨⟨{ stRun with keep := { buf := [(0, 7), (63, 8)], bufPage := some 511, submitted := true } }, 511, by decide, by decide,
      by decide, by decide, by decide, by decide, by decide, by decide⟩,
   ⟨{ stRun with keep := { run := some ⟨.h0, 511, [(0, 7), (63, 8)], [(0, 0), (63, 0)], 1⟩ } }, ⟨.h0, 511, [(0, 7), (63, 8)],
      [(0, 0), (63, 0)], 1⟩, by decide, by decide, by decide, by decide, by decide⟩,
   ⟨{ stRun with keep := { run := some ⟨.h0, 511, [(0, 7), (63, 8)], [(0, 0), (63, 0)], 2⟩ } }, ⟨.h0, 511, [(0, 7), (63, 8)],
      [(0, 0), (63, 0)], 2⟩, by decide, by decide, by decide, by decide, by decide⟩,
   ⟨{ stRun with keep := { run := some ⟨.h0, 511, [(0, 7), (63, 8)], [(0, 0), (63, 0)], 3⟩ } }, ⟨.h0, 511, [(0, 7), (63, 8)],
      [(0, 0), (63, 0)], 3⟩, by decide, by decide, by decide, by decide, by decide⟩,
   ⟨{ stRun with keep := { run := some ⟨.h0, 511, [(0, 7), (63, 8)], [(0, 0), (63, 0)], 3⟩ } }, ⟨.h0, 511, [(0, 7), (63, 8)],
      [(0, 0), (63, 0)], 3⟩, [], by decide, by decide, by decide, by decide, by decide, all_met _ _ (by decide)⟩,
   ⟨{ stRun with keep := { run := some ⟨.h0, 511, [(0, 7), (63, 8)], [(0, 0), (63, 0)], 4⟩ } }, ⟨.h0, 511, [(0, 7), (63, 8)],
      [(0, 0), (63, 0)], 4⟩, [], by decide, by decide, by decide, by decide, by decide, all_met _ _ (by decide)⟩,
   ⟨{ stRun with keep := { run := some ⟨.h0, 511, [(0, 7), (63, 8)], [(0, 0), (63, 0)], 3⟩ } }, ⟨.h0, 511, [(0, 7), (63, 8)],
      [(0, 0), (63, 0)], 3⟩, [32704, 32767], by decide, by decide, by decide, by decide, by decide, all_met _ _ (by decide)⟩,
   ⟨{ stRun with keep := { run := some ⟨.h0, 511, [(0, 7), (63, 8)], [(0, 0), (63, 0)], 4⟩ } }, ⟨.h0, 511, [(0, 7), (63, 8)],
      [(0, 0), (63, 0)], 4⟩, [32767], by decide, by decide, by decide, by decide, by decide, all_met _ _ (by decide)⟩,
   ⟨0#4, stRun.put Reg.KEEP_ADDR_ADDR 32767, by decide, by decide⟩,
   ⟨1, stHost, by decide, by decide⟩,
   ⟨0#4, stRun, by decide, by decide⟩,
   ⟨0#4, { stRun with keep := { buf := [(0, 7), (63, 8)], bufPage := some 511, submitted := false } }, by decide, by decide⟩,
   ⟨0#4, stRun, by decide, by decide⟩,
   ⟨0#4, { stRun with keep := { buf := [(0, 7), (63, 8)], bufPage := some 511, submitted := false } }, 511, by decide,
      by decide, by decide⟩,
   ⟨0#4, stRun, by decide, by decide⟩,
   ⟨{ stRun with keep := { run := some ⟨.h0, 511, [(0, 7), (63, 8)], [(0, 0), (63, 0)], 1⟩ } }, by decide⟩,
   ⟨{ stRun with keep := { run := some ⟨.h0, 511, [(0, 7), (63, 8)], [(0, 0), (63, 0)], 1⟩ } }, by decide⟩,
   ⟨{ stRun with keep := { run := some ⟨.h0, 511, [(0, 7), (63, 8)], [(0, 0), (63, 0)], 1⟩ } }, by decide⟩,
   ⟨{ stRun with keep := { run := some ⟨.h0, 511, [(0, 7), (63, 8)], [(0, 0), (63, 0)], 1⟩ } }, by decide⟩,
   ⟨0#4, { stRun with keep := { hotRange := (511, 1), hot := [(32704, 5)] } }, by decide, by decide, by decide, by decide,
      ⟨511, by decide⟩⟩,
   ⟨0#4, 3, stRun, by decide, by decide, by decide, by decide⟩,
   ⟨0#4, 1, stRun, by decide, by decide, by decide, by decide⟩,
   ⟨{ stRun with keep := { run := some ⟨.h0, 511, [(0, 7), (63, 8)], [(0, 0), (63, 0)], 1⟩ } }, by decide⟩,
   ⟨{ stRun with keep := { run := some ⟨.h0, 511, [(0, 7), (63, 8)], [(0, 0), (63, 0)], 1⟩ } }, by decide⟩,
   ⟨{ stRun with keep := { run := some ⟨.h0, 511, [(0, 7), (63, 8)], [(0, 0), (63, 0)], 1⟩ } }, by decide⟩,
   ⟨{ stRun with keep := { run := some ⟨.h0, 511, [(0, 7), (63, 8)], [(0, 0), (63, 0)], 1⟩ } }, by decide⟩,
   ⟨0#4, 0x8C4, stRun, by decide, by decide, by decide, by decide, by decide⟩,
   ⟨0#4, 0x3FF, stRun, by decide, by decide, by decide, by decide, by decide⟩,
   ⟨(508, 4), { stRun with keep := { hotNext := some (508, 4) } }, by decide, by decide, by decide, by decide, by decide,
      by decide⟩,
   ⟨{ stRun with keep := { run := some ⟨.h0, 511, [(63, 8)], [(63, 0)], 4⟩ } }, ⟨.h0, 511, [(63, 8)], [(63, 0)], 4⟩, 32767,
      by decide, by decide, by decide, by decide, by decide +kernel⟩⟩

/-- Every clause of ClockCommands has its hypotheses met. -/
theorem test_met_ClockCommands :
    (∃ (s : State), s.clockRuns = true ∧ s.rtc.now.subsec < 1023) ∧
    (∃ (s : State), s.clockRuns = true ∧ s.rtc.now.subsec < 1023) ∧
    (∃ (s : State), s.clockRuns = true) ∧
    (∃ (s : State), s.clockRuns = true) ∧
    (∃ (s : State), s.clockRuns = true) ∧
    (∃ (s : State), s.clockRuns = true) ∧
    (∃ (s : State), s.clockRuns = true) ∧
    (∃ (s : State), s.clockRuns = true) ∧
    (∃ (k : Fin 2) (s : State), s.clockRuns = true ∧ s.pwr.st ≠ .off ∧ s.rtc.now.tick.1.subsec = 0 ∧ s.get (Reg.RTC_ALM_0_EN
      k.val) = 1 ∧ s.alarmNext k.val = some s.rtc.now.tick.1.seconds) ∧
    (∃ (s : State), s.clockRuns = true) ∧
    (∃ (s : State), s.clockRuns = true) ∧
    (∃ (s : State), s.clockRuns = true) ∧
    (∃ (s : State), s.clockRuns = true) ∧
    (∃ (s : State), s.clockRuns = true) ∧
    (∃ (s : State), s.clockRuns = true) ∧
    (∃ (x : Sender) (k : Fin 2) (w : Fin 3) (s : State), s.reaches x (0x210 + 4 * k.val + w.val) true = true ∧ isH0 x = true)
      ∧
    (∃ (x : Sender), isH0 x = false) ∧
    (∃ (k : Fin 2) (s : State), s.pwr.st ≠ .off ∧ s.get (Reg.RTC_ALM_0_BUSY k.val) = 1 ∧ s.nextInstant k.val (Map.get (fun _
      => {}) s.rtc.start k.val) = none) ∧
    (∃ (k : Fin 2) (s : State) (n : Nat), s.pwr.st ≠ .off ∧ s.get (Reg.RTC_ALM_0_BUSY k.val) = 1 ∧ s.nextInstant k.val
      (Map.get (fun _ => {}) s.rtc.start k.val) = some n) ∧
    (∃ (x : Sender) (s : State), s.reaches x 0x20C true = true ∧ s.mayClock x = true ∧ s.setBuffer.valid = true) ∧
    (∃ (x : Sender) (s : State), s.reaches x 0x20C true = true ∧ s.mayClock x = true ∧ s.setBuffer.valid = false) ∧
    (∃ (x : Sender) (s : State), s.mayClock x = false) ∧
    (∃ (x : Sender) (w : Fin 6) (s : State), s.reaches x (0x200 + w.val) false = true ∧ Map.get (fun _ => none) s.rtc.shadows
      (requester x) = none) ∧
    (∃ (x : Sender) (w : Fin 6) (s : State) (c : Calendar) (o : Bool), s.reaches x (0x200 + w.val) false = true ∧ Map.get (fun
      _ => none) s.rtc.shadows (requester x) = some (c, o)) ∧
    (∃ (s : State), s.pwr.st ≠ .off) ∧
    (∃ (s : State), s.pwr.retained = true ∧ s.pwr.clockHeld = false ∧ s.pwr.st = .off) ∧
    (∃ (s : State), s.pwr.retained = false) :=
  ⟨⟨pwrOf stRun fun (p : Pwr) => { p with retained := true }, by decide, by decide⟩,
   ⟨{ pwrOf stRun (fun (p : Pwr) => { p with retained := true }) with rtc := { now := { subsec := 1022 } } }, by decide,
      by decide⟩,
   ⟨pwrOf stRun fun (p : Pwr) => { p with retained := true }, by decide⟩,
   ⟨{ pwrOf stRun (fun (p : Pwr) => { p with retained := true }) with rtc := { now := { subsec := 1023 } } }, by decide⟩,
   ⟨pwrOf stRun fun (p : Pwr) => { p with retained := true }, by decide⟩,
   ⟨pwrOf stRun fun (p : Pwr) => { p with retained := true }, by decide⟩,
   ⟨{ pwrOf stRun (fun (p : Pwr) => { p with retained := true }) with rtc := { now := { subsec := 1023 } } }, by decide⟩,
   ⟨pwrOf stRun fun (p : Pwr) => { p with retained := true }, by decide⟩,
   ⟨1,
      { (pwrOf stRun (fun (p : Pwr) => { p with retained := true })).put (Reg.RTC_ALM_0_EN 1) 1 with rtc := { now := { subsec := 1023 }, next := [(1, some 1)] } },
      by decide, by decide, by decide, by decide, by decide⟩,
   ⟨pwrOf stRun fun (p : Pwr) => { p with retained := true }, by decide⟩,
   ⟨{ pwrOf stRun (fun (p : Pwr) => { p with retained := true }) with rtc := { now := { subsec := 1023 } } }, by decide⟩,
   ⟨pwrOf stRun fun (p : Pwr) => { p with retained := true }, by decide⟩,
   ⟨pwrOf stRun fun (p : Pwr) => { p with retained := true }, by decide⟩,
   ⟨{ pwrOf stRun (fun (p : Pwr) => { p with retained := true }) with rtc := { now := { subsec := 1023 } } }, by decide⟩,
   ⟨pwrOf stRun fun (p : Pwr) => { p with retained := true }, by decide⟩,
   ⟨0#4, 1, 2, stRun, by decide, by decide⟩,
   ⟨1, by decide⟩,
   ⟨0,
      { stRun.put (Reg.RTC_ALM_0_BUSY 0) 1 with rtc := { start := [(0, { day := 31, month := 12, year := 199, hour := 23, min := 59, sec := 59 })] } },
      by decide, by decide, by decide⟩,
   ⟨0,
      { (stRun.put (Reg.RTC_ALM_0_BUSY 0) 1).put (Reg.RTC_ALM_0_MASK 0) 0x7F with rtc := { start := [(0, { day := 31, month := 12, year := 199 })] } },
      6311347201, by decide, by decide, by decide⟩,
   ⟨0#4, (stRun.setReg 0x20A 0x100).setReg 0x20B 0x100, by decide, by decide, by decide⟩,
   ⟨0#4, stRun, by decide, by decide, by decide⟩,
   ⟨1, stRun, by decide⟩,
   ⟨0#4, 5, stRun, by decide, by decide⟩,
   ⟨0#4, 5, { stRun with rtc := { shadows := [(0, some ({}, true))] } }, {}, true, by decide, by decide⟩,
   ⟨stRun, by decide⟩,
   ⟨pwrOf (stIn .off) fun (p : Pwr) => { p with retained := true }, by decide, by decide, by decide⟩,
   ⟨stRun, by decide⟩⟩

/-- Every clause of CalendarTick has its hypotheses met. -/
theorem test_met_CalendarTick :
    (∃ (c : Calendar), c.valid = true) ∧
    (∃ (c : Calendar), c.valid = true) :=
  ⟨⟨{}, by decide⟩,
   ⟨{ subsec := 1023, sec := 59, min := 59, hour := 23, wday := 6, day := 31, month := 12, year := 199 }, by decide⟩⟩

/-- Every clause of ManagementPort has its hypotheses met. -/
theorem test_met_ManagementPort :
    (∃ (s : State), s.mportLive = true) ∧
    (∃ (s : State), s.mport.prevAddr < 2 ^ 14) ∧
    (∃ (v : Word) (s : State), s.mport.prevRead = some v) ∧
    (∃ (a : BitVec 12) (v : Word) (s : State), s.mportLive = true ∧ s.mportReaches a.toNat true = true ∧ s.frameBusy a.toNat
      true v = false ∧ s.pwr.st ≠ .volley) ∧
    (∃ (a : BitVec 12) (s : State), s.mportLive = true ∧ s.frameAllowed a.toNat false = true ∧ s.frameBusy a.toNat false 0 =
      false) ∧
    (∃ (a : BitVec 12) (s : State), s.mportLive = true ∧ fieldsAt a.toNat = []) ∧
    (∃ (a : BitVec 12) (s : State), s.mportLive = true ∧ s.pwr.st = .volley ∧ fieldsAt a.toNat ≠ []) ∧
    (∃ (a : BitVec 12) (s : State), s.mportLive = true ∧ s.frameAllowed a.toNat false = true ∧ s.frameBusy a.toNat false 0 =
      true) ∧
    (∃ (o : Byte) (a : BitVec 14) (s : State), s.mportLive = true ∧ ((o ≠ 0x00 ∧ o ≠ 0x02 ∧ o ≠ 0x03) ∨ 4096 ≤ a.toNat)) ∧
    (∃ (o : Byte) (a : BitVec 14) (s : State), s.mportLive = true ∧ ((o ≠ 0x00 ∧ o ≠ 0x02 ∧ o ≠ 0x03) ∨ 4096 ≤ a.toNat)) ∧
    (∃ (e : Nat) (s : State), s.mportLive = true ∧ e < 40) ∧
    (∃ (e : Nat) (s : State), s.mportLive = true ∧ e < 40) ∧
    (∃ (u : Bool) (s : State), s.tapLive u = true) ∧
    (∃ (u : Bool) (s : State), s.tapLive u = true) ∧
    (∃ (u : Bool) (s : State), s.tapLive u = true) ∧
    (∃ (u : Bool) (s : State), s.tapLive u = true) ∧
    (∃ (u : Bool) (s : State), s.tapLive u = true) ∧
    (∃ (u : Bool) (s : State), s.tapLive u = true) ∧
    (∃ (u : Bool) (s : State), s.tapLive u = true) ∧
    (∃ (u : Bool) (s : State), s.tapLive u = true) ∧
    (∃ (s : State), s.tapLive true = true ∧ s.fw.tapUmber = .samplePreload) ∧
    (∃ (shift : List Bool) (r : Nat), shift.length = 56 ∧ r < 2 ^ 56) :=
  ⟨⟨stRun, by decide⟩,
   ⟨{ stRun with mport := { prevAddr := 16383 } }, by decide⟩,
   ⟨0x15555, { stRun with mport := { prevRead := some 0x15555 } }, by decide⟩,
   ⟨0x286, 0, stRun, by decide, by decide, by decide, by decide⟩,
   ⟨0, stRun, by decide, by decide, by decide⟩,
   ⟨0xFFF, stRun, by decide, by decide⟩,
   ⟨0, stIn .volley, by decide, by decide, by decide⟩,
   ⟨0x283, { stRun with keep := { run := some ⟨.h0, 511, [(0, 7), (63, 8)], [(0, 0), (63, 0)], 1⟩ } }, by decide, by decide,
      by decide⟩,
   ⟨1, 0, stRun, by decide, by decide⟩,
   ⟨0, 4096, stRun, by decide, by decide⟩,
   ⟨0, stRun, by decide, by decide⟩,
   ⟨39, stRun, by decide, by decide⟩,
   ⟨false, stRun, by decide⟩,
   ⟨true, stRun.put Reg.ID_STRAP_MP 128, by decide⟩,
   ⟨false, stRun, by decide⟩,
   ⟨true, stRun.put Reg.ID_STRAP_MP 128, by decide⟩,
   ⟨false, stRun, by decide⟩,
   ⟨true, stRun.put Reg.ID_STRAP_MP 128, by decide⟩,
   ⟨false, stRun, by decide⟩,
   ⟨true, stRun.put Reg.ID_STRAP_MP 128, by decide⟩,
   ⟨{ stRun.put Reg.ID_STRAP_MP 128 with fw := { tapUmber := .samplePreload } }, by decide, by decide⟩,
   ⟨List.replicate 56 true, 2 ^ 56 - 1, by decide, by decide⟩⟩

/-- Every clause of AccessCodes has its hypotheses met. -/
theorem test_met_AccessCodes :
    (∃ (i : Nat), i < 18) ∧
    (∃ (i : Nat), i < 18) :=
  ⟨⟨0, by decide⟩,
   ⟨17, by decide⟩⟩

/-- Every clause of RegisterWrites has its hypotheses met. -/
theorem test_met_RegisterWrites :
    (∃ (x : Sender) (a : BitVec 12) (s : State), s.reaches x a.toNat true = true ∧ a ∈ [0x122, 0x123, 0x20D, 0x20E, 0x21C,
      0x21D, 0x400, 0xC02, 0xC03, 0xD06, 0xD07, 0xE12, 0xE13]) ∧
    (∃ (x : Sender) (a : BitVec 12) (s : State), s.reaches x a.toNat true = true ∧ a ∈ [0x122, 0x123, 0x20D, 0x20E, 0x21C,
      0x21D, 0x400, 0xC02, 0xC03, 0xD06, 0xD07, 0xE12, 0xE13]) ∧
    (∃ (x : Sender) (a : BitVec 12) (s : State), s.reaches x a.toNat true = true ∧ a ∈ [0x000, 0x00C, 0x286, 0x287, 0x403,
      0x404, 0x618, 0x619]) ∧
    (∃ (x : Sender) (a : BitVec 12) (s : State), s.reaches x a.toNat true = true ∧ a ∈ [0x000, 0x00C, 0x286, 0x287, 0x403,
      0x404, 0x618, 0x619]) ∧
    (∃ (x : Sender) (s : State), s.reaches x 0x100 true = true) ∧
    (∃ (x : Sender) (c : Fin 12) (s : State), s.reaches x (0x101 + c.val) true = true ∧ c.val < 11) ∧
    (∃ (x : Sender) (c : Fin 12) (s : State), s.reaches x (0x101 + c.val) true = true ∧ c.val < 11) ∧
    (∃ (a : BitVec 12), ((0x500 ≤ a.toNat ∧ a.toNat < 0x600) ∨ 0xF00 ≤ a.toNat)) ∧
    (∃ (a : BitVec 12), ((0x500 ≤ a.toNat ∧ a.toNat < 0x600) ∨ 0xF00 ≤ a.toNat)) ∧
    (∃ (a : BitVec 12), ((0x500 ≤ a.toNat ∧ a.toNat < 0x600) ∨ 0xF00 ≤ a.toNat)) ∧
    (∃ (x : Sender) (a : BitVec 12) (s : State), s.reaches x a.toNat true = false) ∧
    (∃ (x : Sender) (n : StnId) (k : BitVec 7) (s : State), s.reaches x (0x800 + 0x80 * n.val + k.toNat) true = true ∧
      s.stnEnabled n.val = false) :=
  ⟨⟨0#4, 0x122, stRun, by decide, by decide⟩,
   ⟨0#4, 0xE13, stRun, by decide, by decide⟩,
   ⟨0#4, 0x000, stRun, by decide, by decide⟩,
   ⟨0#4, 0x619, stRun, by decide, by decide⟩,
   ⟨0#4, stRun, by decide⟩,
   ⟨0#4, 0, stRun, by decide, by decide⟩,
   ⟨0#4, 10, stRun, by decide, by decide⟩,
   ⟨0x500, by decide⟩,
   ⟨0x5FF, by decide⟩,
   ⟨0xF00, by decide⟩,
   ⟨1, 0x286, stRun, by decide⟩,
   ⟨0#4, 7, 127, stRun.put Reg.ID_CONFIG_STN_EN 127, by decide, by decide⟩⟩

/-- Every clause of SweeperCycles has its hypotheses met. -/
theorem test_met_SweeperCycles :
    (∃ (s : State), s.swpOn = true ∧ s.get Reg.SWP_STAT_ACTIVE = 0 ∧ s.unitCount ≠ 0) ∧
    (∃ (s : State), s.swpOn = true ∧ s.get Reg.SWP_STAT_ACTIVE = 0 ∧ s.unitCount = 0) ∧
    (∃ (s : State), s.swpOn = true ∧ s.get Reg.SWP_STAT_ACTIVE = 1 ∧ s.unitCount ≤ s.unitsDone ∧ s.get Reg.SWP_STAT_LAG = 0 ∧
      s.unitCount ≠ 0) ∧
    (∃ (s : State), s.swpOn = true ∧ s.get Reg.SWP_STAT_ACTIVE = 1 ∧ s.unitsDone < s.unitCount ∧ s.get Reg.SWP_STAT_LAG = 0) ∧
    (∃ (x : Sender) (s : State), s.reaches x 0xD00 true = true ∧ s.swpOn = true ∧ (s.get Reg.ID_LC_STATE = 0 ∨ s.get
      Reg.ID_LC_STATE = 2) ∧ s.unitCount ≠ 0) ∧
    (∃ (x : Sender) (s : State), s.reaches x 0xD00 true = true ∧ s.swpOn = true ∧ (s.get Reg.ID_LC_STATE = 0 ∨ s.get
      Reg.ID_LC_STATE = 2) ∧ s.unitCount ≠ 0) ∧
    (∃ (s : State), (s.get Reg.ID_LC_STATE = 1 ∨ s.get Reg.ID_LC_STATE = 3)) ∧
    (∃ (s : State), (s.get Reg.ID_LC_STATE = 1 ∨ s.get Reg.ID_LC_STATE = 3)) ∧
    (∃ (c : Nat) (s : State), s.testable (.crystal c) = true) ∧
    (∃ (c : Fin 12) (s : State), s.testable (.comparator c) = true) ∧
    (∃ (w : BitVec 15) (s : State), s.testable (.keepMargin w) = true) ∧
    (∃ (w : BitVec 15) (s : State), s.testable (.keepMargin w) = true) ∧
    (∃ (w : BitVec 15) (s : State), s.testable (.keepMargin w) = true) ∧
    (∃ (w : BitVec 15) (s : State), s.testable (.keepMargin w) = true) ∧
    (∃ (w : BitVec 15) (s : State), s.testable (.keepMargin w) = true) ∧
    (∃ (w : BitVec 15) (s : State), s.testable (.keepMargin w) = true) ∧
    (∃ (w : BitVec 15) (s : State), s.testable (.keepMargin w) = true) ∧
    (∃ (w : BitVec 15) (s : State), s.testable (.keepMargin w) = true) ∧
    (∃ (s : State) (w : SwpWindow), s.fw.window = some w ∧ s.sweeping = true ∧ w.redirect = true) ∧
    (∃ (s : State) (w : SwpWindow), s.fw.window = some w) ∧
    (∃ (s : State) (w : SwpWindow), s.fw.window = some w ∧ w.redirect = false ∧ w.pad = false) ∧
    (∃ (n : StnId) (e : BitVec 7) (s : State), s.emitterTests n e.toNat = true) ∧
    (∃ (n : StnId) (e : BitVec 7) (s : State), s.emitterTests n e.toNat = false) ∧
    (∃ (n : StnId) (e : BitVec 7) (s : State), s.serving = true ∧ (s.stn n.val).probe = some (e.toNat, .writing) ∧ (s.stn
      n.val).armWaits = none) ∧
    (∃ (n : StnId) (e : BitVec 7) (s : State), s.sweeping = true ∧ (s.stn n.val).probe = some (e.toNat, .waiting) ∧ (s.stn
      n.val).frame = none) ∧
    (∃ (n : StnId) (e : BitVec 7) (res : BitVec 16) (s : State), s.sweeping = true ∧ s.dev.swept.contains (.emitters n) =
      false ∧ (s.stn n.val).probe = some (e.toNat, .reading) ∧ (s.stn n.val).armWaits = none ∧ (s.stn n.val).goWaits = false ∧
      (res = 0#16 ∨ res = 1#16) ∧ ((∃ k, k < 72 ∧ k ≠ e.toNat ∧ bit ((s.stn n.val).act 0 (2 * k)) 17 = true ∧ bit (s.stn
      n.val).emitted k = false))) ∧
    (∃ (n : StnId) (e : BitVec 7) (res : BitVec 16) (s : State), s.sweeping = true ∧ s.dev.swept.contains (.emitters n) =
      false ∧ (s.stn n.val).probe = some (e.toNat, .reading) ∧ (s.stn n.val).armWaits = none ∧ (s.stn n.val).goWaits = false ∧
      (res = 0#16 ∨ res = 1#16) ∧ ((∃ k, k < 72 ∧ k ≠ e.toNat ∧ bit ((s.stn n.val).act 0 (2 * k)) 17 = true ∧ bit (s.stn
      n.val).emitted k = false))) ∧
    (∃ (n : StnId) (e : BitVec 7) (s : State), s.sweeping = true ∧ s.dev.swept.contains (.emitters n) = false ∧ (s.stn
      n.val).probe = some (e.toNat, .reading) ∧ (s.stn n.val).armWaits = none ∧ s.get ((Reg.STN_DEAD_DEAD n.val (e.toNat /
      18)).at (e.toNat % 18)) = 0 ∧ e.toNat < 72) ∧
    (∃ (n : StnId) (e : BitVec 7) (res : BitVec 16) (s : State), s.sweeping = true ∧ s.dev.swept.contains (.emitters n) =
      false ∧ (s.stn n.val).probe = some (e.toNat, .reading) ∧ (s.stn n.val).armWaits = none ∧ (res = 0xFFFF#16 ∨ (∀ k, k < 72
      → k ≠ e.toNat → bit ((s.stn n.val).act 0 (2 * k)) 17 = true → bit (s.stn n.val).emitted k = true)) ∧ s.unitExists
      (.emitters n) = true ∧ s.unitsDone + 1 < s.unitCount) ∧
    (∃ (n : StnId) (e : BitVec 7) (res : BitVec 16) (s : State), s.sweeping = true ∧ s.dev.swept.contains (.emitters n) =
      false ∧ (s.stn n.val).probe = some (e.toNat, .reading) ∧ (s.stn n.val).armWaits = none ∧ (res = 0xFFFF#16 ∨ (∀ k, k < 72
      → k ≠ e.toNat → bit ((s.stn n.val).act 0 (2 * k)) 17 = true → bit (s.stn n.val).emitted k = true)) ∧ s.unitExists
      (.emitters n) = true ∧ s.unitsDone + 1 < s.unitCount) ∧
    (∃ (n : StnId) (e : BitVec 7) (res : BitVec 16) (x : Sender) (m : EmitStep) (s : State), s.serving = true ∧ (s.stn
      n.val).armWaits = some x ∧ (m = .wrote ∧ (s.stn n.val).probe = some (e.toNat, .writing) ∨ m = .result res ∧ (s.stn
      n.val).probe = some (e.toNat, .reading))) ∧
    (∃ (n : StnId) (e : BitVec 7) (res : BitVec 16) (x : Sender) (m : EmitStep) (s : State), s.serving = true ∧ (s.stn
      n.val).armWaits = some x ∧ (m = .wrote ∧ (s.stn n.val).probe = some (e.toNat, .writing) ∨ m = .result res ∧ (s.stn
      n.val).probe = some (e.toNat, .reading))) ∧
    (∃ (n : StnId) (l : Fin 8) (s : State), s.testable (.ecposiaEye n l) = true ∧ (s.stn n.val).eye = none) ∧
    (∃ (x : Sender) (s : State), s.reaches x 0xD0C true = true) :=
  ⟨⟨stRun, by decide, by decide, by decide +kernel⟩,
   ⟨stRun.put Reg.SWP_CTL_TESTS 0, by decide, by decide, by decide +kernel⟩,
   ⟨{ (stRun.put Reg.SWP_STAT_ACTIVE 1).put Reg.SWP_CTL_TESTS 0x80 with dev := { swept := [.crystal 0] } }, by decide,
      by decide, by decide +kernel, by decide, by decide +kernel⟩,
   ⟨stRun.put Reg.SWP_STAT_ACTIVE 1, by decide, by decide, by decide +kernel, by decide⟩,
   ⟨0#4, stRun.put Reg.ID_LC_STATE 0, by decide, by decide, by decide, by decide +kernel⟩,
   ⟨0#4, stRun.put Reg.ID_LC_STATE 2, by decide, by decide, by decide, by decide +kernel⟩,
   ⟨stRun.put Reg.ID_LC_STATE 1, by decide⟩,
   ⟨stRun.put Reg.ID_LC_STATE 3, by decide⟩,
   ⟨25000000, (stRun.put Reg.SWP_STAT_ACTIVE 1), by decide⟩,
   ⟨11, (stRun.put Reg.SWP_STAT_ACTIVE 1), by decide⟩,
   ⟨32767, (stRun.put Reg.SWP_STAT_ACTIVE 1), by decide⟩,
   ⟨0, (stRun.put Reg.SWP_STAT_ACTIVE 1), by decide⟩,
   ⟨32767, (stRun.put Reg.SWP_STAT_ACTIVE 1), by decide⟩,
   ⟨0, (stRun.put Reg.SWP_STAT_ACTIVE 1), by decide⟩,
   ⟨32767, (stRun.put Reg.SWP_STAT_ACTIVE 1), by decide⟩,
   ⟨0, (stRun.put Reg.SWP_STAT_ACTIVE 1), by decide⟩,
   ⟨32767, (stRun.put Reg.SWP_STAT_ACTIVE 1), by decide⟩,
   ⟨0, (stRun.put Reg.SWP_STAT_ACTIVE 1), by decide⟩,
   ⟨{ (stRun.put Reg.SWP_STAT_ACTIVE 1) with fw := { window := some ⟨0, 0, 0, true, false, false⟩ } }, ⟨0, 0, 0, true, false,
      false⟩, by decide, by decide, by decide⟩,
   ⟨{ (stRun.put Reg.SWP_STAT_ACTIVE 1) with fw := { window := some ⟨0, 0, 0, true, false, false⟩ } }, ⟨0, 0, 0, true, false,
      false⟩, by decide⟩,
   ⟨{ stRun with fw := { window := some ⟨5, 7, 2047, false, false, false⟩ } }, ⟨5, 7, 2047, false, false, false⟩, by decide,
      by decide, by decide⟩,
   ⟨0, 71, ((stRun.put Reg.SWP_STAT_ACTIVE 1).setStn 0 { tables := [(0, { active := [(140, 0x20000), (142, 0x20000)] })] }),
      by decide +kernel⟩,
   ⟨0, 72, {}, by decide⟩,
   ⟨0, 71, ((stRun.put Reg.SWP_STAT_ACTIVE 1).setStn 0
      { probe := some (71, .writing), tables := [(0, { active := [(140, 0x20000), (142, 0x20000)] })] }), by decide,
      by decide, by decide⟩,
   ⟨0, 71, ((stRun.put Reg.SWP_STAT_ACTIVE 1).setStn 0
      { probe := some (71, .waiting), tables := [(0, { active := [(140, 0x20000), (142, 0x20000)] })] }), by decide,
      by decide, by decide⟩,
   ⟨0, 71, 0, ((stRun.put Reg.SWP_STAT_ACTIVE 1).setStn 0
      { probe := some (71, .reading), tables := [(0, { active := [(140, 0x20000), (142, 0x20000)] })] }), by decide,
      by decide, by decide, by decide, by decide, .inl rfl, 70, by decide, by decide, by decide, by decide⟩,
   ⟨0, 70, 1, ((stRun.put Reg.SWP_STAT_ACTIVE 1).setStn 0
      { probe := some (70, .reading), tables := [(0, { active := [(140, 0x20000), (142, 0x20000)] })] }), by decide,
      by decide, by decide, by decide, by decide, .inr rfl, 71, by decide, by decide, by decide, by decide⟩,
   ⟨0, 71, ((stRun.put Reg.SWP_STAT_ACTIVE 1).setStn 0
      { probe := some (71, .reading), tables := [(0, { active := [(140, 0x20000), (142, 0x20000)] })] }), by decide,
      by decide, by decide, by decide, by decide, by decide⟩,
   ⟨0, 70, 0xFFFF, ((stRun.put Reg.SWP_STAT_ACTIVE 1).setStn 0
      { probe := some (70, .reading), tables := [(0, { active := [(140, 0x20000), (142, 0x20000)] })] }), by decide,
      by decide, by decide, by decide, .inl rfl, by decide +kernel, by decide +kernel⟩,
   ⟨0, 71, 0, ((stRun.put Reg.SWP_STAT_ACTIVE 1).setStn 0
      { probe := some (71, .reading), emitted := 2 ^ 70, tables := [(0, { active := [(140, 0x20000), (142, 0x20000)] })] }),
      by decide, by decide, by decide, by decide, .inr (by decide +kernel), by decide +kernel, by decide +kernel⟩,
   ⟨0, 71, 0, 0#4, .wrote, stWith { probe := some (71, .writing), armWaits := some 0 }, by decide, by decide, .inl ⟨rfl,
      by decide⟩⟩,
   ⟨0, 71, 0, 0#4, .result 0, stWith { probe := some (71, .reading), armWaits := some 0 }, by decide, by decide, .inr ⟨rfl,
      by decide⟩⟩,
   ⟨0, 7, ((stRun.put Reg.SWP_STAT_ACTIVE 1).put (Reg.STN_LINK_STAT_STATE 0) 4).setStn 0 { disarmed := 2 ^ 36 - 10240 },
      by decide +kernel, by decide⟩,
   ⟨0#4, stRun, by decide⟩⟩

/-- Every clause of FirmwareCommands has its hypotheses met. -/
theorem test_met_FirmwareCommands :
    (∃ (x : Sender) (s : State), s.reaches x 0xE00 true = true ∧ s.fwMay x = true ∧ s.fwBusy = false) ∧
    (∃ (x : Sender) (s : State), s.reaches x 0xE00 true = true ∧ s.fwMay x = true ∧ s.fwBusy = true) ∧
    (∃ (x : Sender) (s : State), s.fwMay x = false) ∧
    (∃ (k : Fin 2) (s : State), s.fw.loadSlot = some k.val ∧ s.serving = true ∧ 63 ∉ s.waveRegions ∧ s.sourceOk = false) ∧
    (∃ (k : Fin 2) (s : State), s.fw.loadSlot = some k.val ∧ s.serving = true ∧ 63 ∉ s.waveRegions ∧ s.sourceOk = false) ∧
    (∃ (k : Fin 2) (s : State), s.fw.loadSlot = some k.val ∧ s.serving = true ∧ 63 ∉ s.waveRegions ∧ s.sourceOk = true) ∧
    (∃ (x : Sender) (s : State), s.reaches x 0xE00 true = true ∧ s.fwMay x = true ∧ s.fwBusy = false ∧ s.bootChoice ≠
      goldenImage ∧ s.bootChoice ≠ s.get Reg.FW_STAT_RUN ∧ s.compatOf s.bootChoice = s.compatOf (s.get Reg.FW_STAT_RUN)) ∧
    (∃ (x : Sender) (s : State), s.reaches x 0xE00 true = true ∧ s.fwMay x = true ∧ s.fwBusy = false ∧ s.bootChoice ≠
      goldenImage ∧ s.bootChoice ≠ s.get Reg.FW_STAT_RUN ∧ s.compatOf s.bootChoice ≠ s.compatOf (s.get Reg.FW_STAT_RUN)) ∧
    (∃ (s : State) (a : Activation) (c : Nat) (r : List Nat), s.fw.act = some a ∧ s.serving = true ∧ a.todo = c :: r ∧ c < 4 ∧
      s.cluOn c = true ∧ a.step = 2 ∧ ((∃ g, g < 4 ∧ g ≠ c ∧ s.cluOn g = true))) ∧
    (∃ (s : State) (a : Activation) (c : Nat) (r : List Nat), s.fw.act = some a ∧ s.serving = true ∧ a.todo = c :: r ∧ s.cluOn
      c = true ∧ a.step = 3) ∧
    (∃ (s : State) (a : Activation) (c : Nat) (r : List Nat), s.fw.act = some a ∧ s.serving = true ∧ a.todo = c :: r ∧ s.cluOn
      c = true ∧ a.step = 4 ∧ a.rollback = false ∧ a.slot < 2) ∧
    (∃ (s : State) (a : Activation) (c : Nat) (r : List Nat), s.fw.act = some a ∧ s.serving = true ∧ a.todo = c :: r ∧ s.cluOn
      c = true ∧ a.step = 5 ∧ c < 4) ∧
    (∃ (s : State) (a : Activation), s.fw.act = some a ∧ s.serving = true ∧ a.todo = [] ∧ a.rollback = false ∧ a.slot < 2) ∧
    (∃ (x : Sender) (b : Bool) (s : State), s.reaches x 0xE00 true = true ∧ s.fwMay x = true ∧ s.fwBusy = false ∧ b2n b ≠
      s.get Reg.FW_STAT_RUN) ∧
    (∃ (k : Fin 2) (s : State), s.fw.loadSlot = none ∧ s.fw.erasing = some k.val ∧ s.serving = true ∧ 63 ∉ s.waveRegions) ∧
    (∃ (x : Sender) (s : State), s.reaches x 0xE10 true = true ∧ isH0 x = true ∧ s.fw.token.length < 40) ∧
    (∃ (x : Sender) (s : State), s.reaches x 0xE10 true = true ∧ isH0 x = true ∧ s.fw.token.length < 40) ∧
    (∃ (c : Fin 16) (s : State), s.serving = true ∧ bit (s.get Reg.FW_CORES_ON) c.val = false) ∧
    (∃ (c : Fin 16) (s : State), s.serving = true ∧ bit (s.get Reg.FW_CORES_ON) c.val = true ∧ 3 ≤ (s.put
      ((Reg.FW_CORES_ON).at c.val) 0).coresOn (c.val / 4)) :=
  ⟨⟨0#4, stRun, by decide, by decide, by decide⟩,
   ⟨0#4, stRun.put Reg.FW_STAT_OP 1, by decide, by decide, by decide⟩,
   ⟨1, stRun, by decide⟩,
   ⟨0, { stRun with fw := { loadSlot := some 0, loadBy := 1, loadLen := 319 } }, by decide, by decide, by decide, by decide⟩,
   ⟨1, { stRun with fw := { loadSlot := some 1, loadBy := 1, loadLen := 4194305 } }, by decide, by decide, by decide,
      by decide⟩,
   ⟨1, { stRing with fw := { loadSlot := some 1, loadBy := 1, loadLen := 320 } }, by decide, by decide, by decide, by decide⟩,
   ⟨0#4, (stRun.put (Reg.FW_SLOT_STATE 1) 2).put Reg.FW_STAT_RUN 0, by decide, by decide, by decide, by decide, by decide,
      by decide⟩,
   ⟨0#4, { (stRun.put (Reg.FW_SLOT_STATE 1) 2).put Reg.FW_STAT_RUN 0 with arr := [(63, { cells := [(10485761, 9)] })] },
      by decide, by decide, by decide, by decide, by decide, by decide⟩,
   ⟨{ stRun.put Reg.FW_STAT_CLU_ON 15 with fw := { act := some ⟨1, [], [3], 2, false, []⟩ } }, ⟨1, [], [3], 2, false, []⟩, 3,
      [], by decide, by decide, by decide, by decide, by decide, by decide, 0, by decide, by decide, by decide⟩,
   ⟨{ stRun.put Reg.FW_STAT_CLU_ON 15 with fw := { act := some ⟨1, [], [3], 3, false, []⟩ } }, ⟨1, [], [3], 3, false, []⟩, 3,
      [], by decide, by decide, by decide, by decide, by decide⟩,
   ⟨{ stRun.put Reg.FW_STAT_CLU_ON 15 with fw := { act := some ⟨1, [], [3], 4, false, []⟩ } }, ⟨1, [], [3], 4, false, []⟩, 3,
      [], by decide, by decide, by decide, by decide, by decide, by decide, by decide⟩,
   ⟨{ stRun.put Reg.FW_STAT_CLU_ON 15 with fw := { act := some ⟨1, [], [3], 5, false, []⟩ } }, ⟨1, [], [3], 5, false, []⟩, 3,
      [], by decide, by decide, by decide, by decide, by decide, by decide⟩,
   ⟨{ stRun.put Reg.FW_STAT_CLU_ON 15 with fw := { act := some ⟨1, [], [], 0, false, []⟩ } }, ⟨1, [], [], 0, false, []⟩,
      by decide, by decide, by decide, by decide, by decide⟩,
   ⟨0#4, true, stRun, by decide, by decide, by decide, by decide⟩,
   ⟨1, { stRun with fw := { erasing := some 1 } }, by decide, by decide, by decide, by decide⟩,
   ⟨0#4, stRun, by decide, by decide, by decide⟩,
   ⟨0#4, { stRun with fw := { token := List.replicate 39 0 } }, by decide, by decide, by decide⟩,
   ⟨15, stRun.put Reg.FW_CORES_ON 0, by decide, by decide⟩,
   ⟨15, stRun.put Reg.FW_CORES_ON 0xFFFF, by decide, by decide, by decide⟩⟩

/-- Every clause of LifeCycle has its hypotheses met. -/
theorem test_met_LifeCycle :
    (∃ (x : Sender) (s : State), s.reaches x 0xE00 true = true ∧ isH0 x = true ∧ s.tokenResult ≠ 1) ∧
    (∃ (x : Sender), isH0 x = false) ∧
    (∃ (s : State), s.pwr.st = .run ∧ s.fw.wipeStep = 3) ∧
    (∃ (s : State), s.pwr.st = .run ∧ s.fw.wipeStep = 4 ∧ s.keepBusy = false ∧ s.fw.wipePage < 512) ∧
    (∃ (s : State), s.pwr.st = .run ∧ s.fw.wipeStep = 4 ∧ s.keepBusy = false ∧ s.fw.wipePage < 512) ∧
    (∃ (s : State), s.fw.wipeStep = 4 ∧ s.keepBusy = true) ∧
    (∃ (s : State) (goal : Nat), s.pwr.st = .run ∧ s.fw.wipeStep = 5 ∧ s.fw.wipePending = some goal ∧ goal < 4 ∧ s.get
      Reg.ID_LC_CHANGES < 32767) ∧
    (∃ (s : State) (goal : Nat), s.pwr.st = .run ∧ s.fw.wipeStep = 5 ∧ s.fw.wipePending = some goal ∧ goal < 4 ∧ s.get
      Reg.ID_LC_CHANGES < 32767) ∧
    (∃ (s : State), s.pwr.st = .run ∧ s.fw.wipeStep = 6) ∧
    (∃ (s : State), s.pwr.st ≠ .run ∧ s.pwr.st ≠ .waking) :=
  ⟨⟨0#4, stRun, by decide, by decide, by decide⟩,
   ⟨1, by decide⟩,
   ⟨{ stRun with fw := { wipeStep := 3 } }, by decide, by decide⟩,
   ⟨{ stRun with fw := { wipeStep := 4 } }, by decide, by decide, by decide, by decide⟩,
   ⟨{ stRun with fw := { wipeStep := 4, wipePage := 511 } }, by decide, by decide, by decide, by decide⟩,
   ⟨{ stRun with fw := { wipeStep := 4 }, keep := { run := some ⟨.bp, 63, [], [], 1⟩ } }, by decide, by decide⟩,
   ⟨{ stRun with fw := { wipeStep := 5, wipePending := some 3 } }, 3, by decide, by decide, by decide, by decide, by decide⟩,
   ⟨{ stRun.put Reg.ID_LC_CHANGES 32766 with fw := { wipeStep := 5, wipePending := some 1 } }, 1, by decide, by decide,
      by decide, by decide, by decide⟩,
   ⟨{ stRun with fw := { wipeStep := 6 } }, by decide, by decide⟩,
   ⟨stIn .volley, by decide, by decide⟩⟩

/-- Every clause of MailboxCollisions has its hypotheses met. -/
theorem test_met_MailboxCollisions :
    (∃ (x : Sender) (c : Fin 8) (b : Bool) (s : State) (w : Word) (y : Sender) (q : List (Word × Sender)), s.reaches x ((if b
      then 0x301 else 0x300) + 0x10 * c.val) true = true ∧ s.serving = true ∧ s.mbMayWrite c.val b x = true ∧ (s.mbox
      c.val).queue b = q ++ [(w, y)] ∧ q.length = 7) :=
  ⟨0#4, 4, true, { stHost with mboxes := [(4, { toB := List.replicate 8 (1, 0) })] }, 1, 0, List.replicate 7 (1, 0),
    by decide, by decide, by decide, by decide, by decide⟩

/-- Every clause of StoredContents has its hypotheses met. -/
theorem test_met_StoredContents :
    (∃ (v : BitVec 10) (s : State) (t : Store) (w : Store), s.pwr.st = .volley ∧ s.store = some t ∧ t.frozen = true ∧
      t.regions ≠ [] ∧ t.wave < t.waves ∧ (t.fromVin = true ∨ t.thresholds.getD t.wave 0 ≤ v.toNat) ∧ s.Inv ∧ w = s.atWave t
      (t.wave + 1)) ∧
    (∃ (v : BitVec 10) (s : State) (t : Store) (w : Store), s.pwr.st = .volley ∧ s.store = some t ∧ t.frozen = true ∧
      t.regions ≠ [] ∧ t.wave < t.waves ∧ (t.fromVin = true ∨ t.thresholds.getD t.wave 0 ≤ v.toNat) ∧ s.Inv ∧ w = s.atWave t
      (t.wave + 1)) ∧
    (∃ (v : BitVec 10) (s : State) (t : Store) (w : Store), s.pwr.st = .volley ∧ s.store = some t ∧ t.frozen = true ∧ t.wave =
      0 ∧ t.regions ≠ [] ∧ (t.fromVin = true ∨ t.thresholds.getD 0 0 ≤ v.toNat) ∧ s.fw.window = none ∧ w = s.atWave t 1) ∧
    (∃ (s : State) (t : Store) (w : Store), s.serving = true ∧ s.store = some t ∧ t.frozen = true ∧ t.wave = 0 ∧ t.regions ≠
      [] ∧ w = s.atWave t 1) ∧
    (∃ (r : Nat), r < 63) ∧
    (∃ (r : Nat), r < 63) ∧
    (∃ (s : State) (t : Store), s.pwr.st = .volley ∧ s.store = some t ∧ t.frozen = true ∧ t.regions ≠ [] ∧ t.wave = t.waves +
      1 ∧ s.vstbyOk = true ∧ (t.regions.map t.physOf).Nodup) ∧
    (∃ (t : Store) (r : Nat) (p : Nat), r < 64 ∧ (r = p ∨ r = 63 ∧ p % 4 = 3) ∧ t.epoch < 2 ^ 36 ∧ t.acount < 128 ∧ t.regions
      ≠ [] ∧ t.regions.length < 128) ∧
    (∃ (t : Store) (r : Nat) (p : Nat), r < 64 ∧ (r = p ∨ r = 63 ∧ p % 4 = 3) ∧ t.epoch < 2 ^ 36 ∧ t.acount < 128 ∧ t.regions
      ≠ [] ∧ t.regions.length < 128) ∧
    (∃ (s : State) (t : Store), s.pwr.st = .volley ∧ s.store = some t ∧ t.fromVin = false ∧ 1 ≤ t.wave ∧ t.wave ≤ t.waves ∧
      s.vstbyOk = true) :=
  ⟨⟨0,
      { stIn .volley with store := some { cause := .power, frozen := true, regions := [63], wave := 0, thresholds := [1], fromVin := true } },
      { cause := .power, frozen := true, regions := [63], wave := 0, thresholds := [1], fromVin := true }, _, by decide,
      by decide, by decide, by decide, by decide, by decide, inv_of _ (by decide) (by decide), rfl⟩,
   ⟨1, { stIn .volley with store := some { cause := .power, frozen := true, regions := [63], wave := 0, thresholds := [1] } },
      { cause := .power, frozen := true, regions := [63], wave := 0, thresholds := [1] }, _, by decide, by decide, by decide,
      by decide, by decide, by decide, inv_of _ (by decide) (by decide), rfl⟩,
   ⟨1, { stIn .volley with store := some { cause := .power, frozen := true, regions := [63], wave := 0, thresholds := [1] } },
      { cause := .power, frozen := true, regions := [63], wave := 0, thresholds := [1] }, _, by decide, by decide, by decide,
      by decide, by decide, by decide, by decide, rfl⟩,
   ⟨{ stIn .run with store := some { cause := .checkpoint, frozen := true, regions := [63], wave := 0, thresholds := [1] } },
      { cause := .checkpoint, frozen := true, regions := [63], wave := 0, thresholds := [1] }, _, by decide, by decide,
      by decide, by decide, by decide, rfl⟩,
   ⟨0, by decide⟩,
   ⟨62, by decide⟩,
   ⟨{ stIn .volley with store := some { cause := .power, frozen := true, regions := [63], wave := 2, thresholds := [1] } },
      { cause := .power, frozen := true, regions := [63], wave := 2, thresholds := [1] }, by decide, by decide, by decide,
      by decide, by decide, by decide, by decide⟩,
   ⟨{ cause := .power, frozen := true, regions := [63], wave := 2, thresholds := [1] }, 63, 59, by decide, by decide,
      by decide, by decide, by decide, by decide⟩,
   ⟨{ cause := .power, frozen := true, regions := [63, 0], wave := 2, thresholds := [1] }, 0, 0, by decide, by decide,
      by decide, by decide, by decide, by decide⟩,
   ⟨{ stIn .volley with store := some { cause := .power, frozen := true, regions := [63], wave := 1, thresholds := [1] } },
      { cause := .power, frozen := true, regions := [63], wave := 1, thresholds := [1] }, by decide, by decide, by decide,
      by decide, by decide, by decide⟩⟩

/-- Every clause of RestoredContents has its hypotheses met. -/
theorem test_met_RestoredContents :
    (∃ (s : State) (c : Held × Bool × Bool) (d : Dev), s.pwr.st = .waking ∧ s.pwr.sealsRead = true ∧ s.pwr.wave1Done = false ∧
      chosen s.seals 63 = some c ∧ d = Map.get (fun _ => {}) (if c.1.planeB then s.devB else s.devA) c.1.phys) ∧
    (∃ (s : State), s.pwr.st = .waking ∧ s.pwr.sealsRead = true ∧ s.pwr.wave1Done = false ∧ chosen s.seals 63 = none) ∧
    (∃ (s : State) (r : Nat) (c : Held × Bool × Bool), s.pwr.st = .waking ∧ s.pwr.sealsRead = true ∧ s.pwr.wave1Done = true ∧
      r < 63 ∧ r ∈ s.pwr.restoreLeft.take 16 ∧ chosen s.seals r = some c ∧ s.rstate r ≠ RState.retired ∧ s.rstate r ≠
      RState.forward) ∧
    (∃ (s : State) (r : Nat), s.pwr.st = .waking ∧ s.pwr.sealsRead = true ∧ s.pwr.wave1Done = true ∧ s.pwr.restoreLeft ≠ [] ∧
      r < 63 ∧ (r ∉ s.pwr.restoreLeft.take 16 ∨ s.rstate r = RState.retired ∨ s.rstate r = RState.forward)) ∧
    (∃ (s : State) (r : Nat), s.pwr.st = .waking ∧ s.pwr.sealsRead = true ∧ s.pwr.wave1Done = true ∧ s.pwr.restoreLeft ≠ [] ∧
      r < 63 ∧ (r ∉ s.pwr.restoreLeft.take 16 ∨ s.rstate r = RState.retired ∨ s.rstate r = RState.forward)) :=
  ⟨(chosen_met stKept 63 (by decide +kernel)).elim fun c hc => ⟨stKept, c, _, by decide +kernel, by decide +kernel, by decide,
      hc, rfl⟩,
   ⟨pwrOf stWaking fun (p : Pwr) => { p with wave1Done := false }, by decide, by decide, by decide, by decide +kernel⟩,
   (chosen_met stLater 0 (by decide +kernel)).elim fun c hc => ⟨stLater, 0, c, by decide, by decide, by decide, by decide,
      by decide, hc, by decide, by decide⟩,
   ⟨stLater, 1, by decide, by decide, by decide, by decide, by decide, by decide⟩,
   ⟨stLater.put (Reg.PART_REGION_STATE 0) 3, 0, by decide, by decide, by decide, by decide, by decide, by decide⟩⟩

/-- Every clause of FrameLayouts has its hypotheses met. -/
theorem test_met_FrameLayouts :
    (∃ (c : Compl) (tag : BitVec 16) (ph : Bool) (rep : Bool) (last : Bool) (j : Ring) (bs : List Byte), bs = c.entry tag ph
      rep last j) ∧
    (∃ (n : StnId) (fseq : Nat) (fn : Nat) (span : Nat) (nw : Nat) (mask : Nat) (period : Nat) (delay : Nat) (k : Nat) (phs :
      List Nat) (w : Nat), k < 4 ∧ w = (((Out.facetStart n fseq fn span nw mask period phs delay).blocks).getD k
      idleBlock).word.toNat) ∧
    (∃ (n : StnId) (fseq : Nat) (fn : Nat) (span : Nat) (nw : Nat) (mask : Nat) (period : Nat) (delay : Nat) (k : Nat) (phs :
      List Nat) (w : Nat), k < 4 ∧ w = (((Out.facetStart n fseq fn span nw mask period phs delay).blocks).getD k
      idleBlock).word.toNat) ∧
    (∃ (n : StnId) (fseq : Nat) (k : Nat) (codes : List Nat) (w : Nat), 10 * k < codes.length ∧ w = (((Out.payload n fseq
      codes).blocks).getD k idleBlock).word.toNat) ∧
    (∃ (n : StnId) (fseq : Nat) (k : Nat) (codes : List Nat) (w : Nat), 10 * k < codes.length ∧ w = (((Out.payload n fseq
      codes).blocks).getD k idleBlock).word.toNat) ∧
    (∃ (n : StnId) (wr : Bool) (a : BitVec 7) (d : BitVec 16) (bs : List (Option Bool)), bs = (Out.setupFrame n wr a d).frame)
      ∧
    (∃ (n : StnId) (wr : Bool) (a : BitVec 7) (d : BitVec 16) (bs : List (Option Bool)), bs = (Out.setupFrame n wr a d).frame)
      :=
  ⟨⟨{ status := 1 }, 0, true, false, true, 3, _, rfl⟩,
   ⟨7, 1, 2, 3, 4, 5, 6, 7, 0, [1], _, by decide, rfl⟩,
   ⟨7, 65535, 11, 65535, 127, 2 ^ 72 - 1, 2 ^ 28 - 1, 2 ^ 28 - 1, 3, List.replicate 9 15, _, by decide, rfl⟩,
   ⟨0, 0, 0, [63], _, by decide, rfl⟩,
   ⟨7, 0, 1, List.replicate 20 63, _, by decide, rfl⟩,
   ⟨0, true, 0x7F, 0xFFFF, _, rfl⟩,
   ⟨7, false, 0, 0, _, rfl⟩⟩

/-- Every clause of ScratchpadCollisions has its hypotheses met. -/
theorem test_met_ScratchpadCollisions :
    (∃ (h : PHost) (j : Ring) (q : Ring) (d : Desc) (p : PadTraffic) (a : Nat) (s : State) (i : Instr) (op : Opcode), padLost
      p = some a ∧ (i, op) ∈ [(.counterRead h j d p, .counterRead), (.ledgerOpen h j d p, .ledgerOpen), (.ledgerStage h j d p,
      .ledgerStage), (.ledgerQuery h j d p, .ledgerQuery), (.keepRead h j d p, .keepRead), (.recordGet h j d p, .recordGet)] ∧
      s.Accepts h j q op d) ∧
    (∃ (p : PadTraffic) (a : Nat), padLost p = some a) ∧
    (∃ (h : PHost) (j : Ring) (q : Ring) (d : Desc) (data : HostData) (p : PadTraffic) (a : Nat) (s : State) (i : Instr) (op :
      Opcode), padLost p = some a ∧ (i, op) ∈ [(.keepWrite h j d data p, .keepWrite), (.recordPut h j d data p, .recordPut),
      (.tableLoad h j d data p, .tableLoad)] ∧ s.Accepts h j q op d ∧ data.poison = false ∧ data.fail = false ∧
      data.bytes.length < Desc.n d ∧ 0 < (s.advanceHead h j).askGoal (newFlight h j op d)) ∧
    (∃ (h : PHost) (j : Ring) (q : Ring) (d : Desc) (data : HostData) (p : PadTraffic) (a : Nat) (s : State) (i : Instr) (op :
      Opcode), padLost p = some a ∧ (i, op) ∈ [(.keepWrite h j d data p, .keepWrite), (.recordPut h j d data p, .recordPut),
      (.tableLoad h j d data p, .tableLoad)] ∧ s.Accepts h j q op d ∧ data.poison = false ∧ data.fail = false ∧
      data.bytes.length < Desc.n d ∧ 0 < (s.advanceHead h j).askGoal (newFlight h j op d)) ∧
    (∃ (h : PHost) (j : Ring) (q : Ring) (d : Desc) (data : HostData) (p : PadTraffic) (a : Nat) (s : State) (i : Instr) (op :
      Opcode), padLost p = some a ∧ (i, op) ∈ [(.keepWrite h j d data p, .keepWrite), (.recordPut h j d data p, .recordPut),
      (.tableLoad h j d data p, .tableLoad)] ∧ s.Accepts h j q op d ∧ data.poison = false ∧ data.fail = false ∧
      data.bytes.length < Desc.n d ∧ 0 < (s.advanceHead h j).askGoal (newFlight h j op d)) ∧
    (∃ (p : PadTraffic), (p.core.map (·.1)).Nodup ∧ (p.dma.map (·.1)).Nodup) :=
  ⟨⟨0, 0, 0, {}, { dma := [(0x3FFFF, 1)], core := [(0x3FFFF, 2)] }, 0x3FFFF, stRing, .counterRead 0 0 {}
      { dma := [(0x3FFFF, 1)], core := [(0x3FFFF, 2)] }, .counterRead, by decide, by simp, ⟨⟨by decide, rfl, by decide,
      by decide, by decide⟩, by decide⟩⟩,
   ⟨{ dma := [(0x3FFFF, 1)], core := [(0x3FFFF, 2)] }, 0x3FFFF, by decide⟩,
   ⟨0, 0, 0, { a0 := 12800, len := 4 }, {}, { dma := [(0x3FFFF, 1)], core := [(0x3FFFF, 2)] }, 0x3FFFF, stRing.put
      Reg.KEEP_CTL_RIGHTS 1, .keepWrite 0 0 { a0 := 12800, len := 4 } {} { dma := [(0x3FFFF, 1)], core := [(0x3FFFF, 2)] },
      .keepWrite, by decide, by simp, ⟨⟨by decide, rfl, by decide, by decide, by decide⟩, by decide⟩, by decide, by decide,
      by decide, by decide⟩,
   ⟨0, 0, 0, { p0 := 200, len := 4 }, {}, { dma := [(0x3FFFF, 1)], core := [(0x3FFFF, 2)] }, 0x3FFFF, stRing.put
      Reg.KEEP_CTL_RIGHTS 1, .recordPut 0 0 { p0 := 200, len := 4 } {} { dma := [(0x3FFFF, 1)], core := [(0x3FFFF, 2)] },
      .recordPut, by decide, by simp, ⟨⟨by decide, rfl, by decide, by decide, by decide⟩, by decide⟩, by decide, by decide,
      by decide, by decide⟩,
   ⟨0, 0, 0, { p0 := 0x400, len := 4 }, {}, { dma := [(0x3FFFF, 1)], core := [(0x3FFFF, 2)] }, 0x3FFFF, stRing, .tableLoad 0 0
      { p0 := 0x400, len := 4 } {} { dma := [(0x3FFFF, 1)], core := [(0x3FFFF, 2)] }, .tableLoad, by decide, by simp,
      ⟨⟨by decide, rfl, by decide, by decide, by decide⟩, by decide⟩, by decide, by decide, by decide, by decide⟩,
   ⟨{ dma := [(0x3FFFF, 1)], core := [(0x3FFFF, 2)] }, by decide, by decide⟩⟩

/-- The inner hypotheses of ScratchpadCollisions about descriptors that carry data are met together with the outer ones. -/
theorem test_met_ScratchpadCollisions_data :
    (∃ (h : PHost) (j q : Ring) (d : Desc) (data : HostData) (p : PadTraffic) (a : Nat) (s : State), padLost p = some a ∧
      s.Accepts h j q .keepWrite d ∧ s.Delivers (newFlight h j .keepWrite d) data) ∧
    (∃ (h : PHost) (j q : Ring) (d : Desc) (data : HostData) (p : PadTraffic) (a : Nat) (s : State), padLost p = some a ∧
      s.Accepts h j q .recordPut d ∧ s.Delivers (newFlight h j .recordPut d) data) ∧
    (∃ (h : PHost) (j q : Ring) (d : Desc) (data : HostData) (p : PadTraffic) (a : Nat) (s : State), padLost p = some a ∧
      s.Accepts h j q .tableLoad d ∧ s.Delivers (newFlight h j .tableLoad d) data ∧ ((s.stn d.stn).table d.tbl).state ≠ .copying) :=
  ⟨⟨0, 0, 0, { a0 := 12800, len := 4 }, { bytes := List.replicate 4 0 }, { dma := [(0x3FFFF, 1)], core := [(0x3FFFF, 2)] }, 0x3FFFF, stRing.put Reg.KEEP_CTL_RIGHTS 1,
      by decide, ⟨⟨by decide, rfl, by decide, by decide, by decide⟩, by decide⟩, ⟨by decide, by decide, by decide, by decide⟩⟩,
   ⟨0, 0, 0, { p0 := 200, len := 4 }, { bytes := List.replicate 4 0 }, { dma := [(0x3FFFF, 1)], core := [(0x3FFFF, 2)] }, 0x3FFFF, stRing.put Reg.KEEP_CTL_RIGHTS 1,
      by decide, ⟨⟨by decide, rfl, by decide, by decide, by decide⟩, by decide⟩, ⟨by decide, by decide, by decide, by decide⟩⟩,
   ⟨0, 0, 0, { p0 := 0x400, len := 4 }, { bytes := List.replicate 4 0 }, { dma := [(0x3FFFF, 1)], core := [(0x3FFFF, 2)] }, 0x3FFFF, stRing,
      by decide, ⟨⟨by decide, rfl, by decide, by decide, by decide⟩, by decide⟩, ⟨by decide, by decide, by decide, by decide⟩, by decide⟩⟩

/-- Every clause of HostRequests has its hypotheses met. -/
theorem test_met_HostRequests :
    (∃ (h : PHost) (s : State), s.cfgLive h = true) ∧
    (∃ (h : PHost) (s : State), s.cfgLive h = true) ∧
    (∃ (h : PHost) (s : State), s.cfgLive h = true) ∧
    (∃ (h : PHost) (s : State), (s.host h).dword 0 = 0#32) ∧
    (∃ (h : PHost) (s : State), s.cfgLive h = true ∧ (s.host h).ready = false) ∧
    (∃ (h : PHost) (d : BitVec 10) (s : State), s.cfgLive h = true ∧ (s.host h).ready = true ∧ d.toNat ∉ [cfgCommand,
      cfgPmcsr, cfgMsixCtl, cfgDevCtl]) ∧
    (∃ (h : PHost) (d : BitVec 10) (s : State), s.cfgLive h = true ∧ (s.host h).ready = true ∧ d.toNat ∉ [cfgCommand,
      cfgPmcsr, cfgMsixCtl, cfgDevCtl]) ∧
    (∃ (i : Nat), i < 32) ∧
    (∃ (i : Nat), i < 32) ∧
    (∃ (h : PHost) (off : BitVec 15) (s : State), s.barLive h = true ∧ off.toNat < 0x4000) ∧
    (∃ (h : PHost) (off : BitVec 15) (s : State), s.barLive h = true ∧ off.toNat < 0x4000) ∧
    (∃ (h : PHost) (off : BitVec 15) (s : State), s.barLive h = true ∧ off.toNat < 0x4000) ∧
    (∃ (h : PHost) (off : BitVec 15) (s : State), s.barLive h = true ∧ off.toNat < 0x4000) ∧
    (∃ (h : PHost) (off : BitVec 15) (s : State), s.barLive h = true ∧ off.toNat < 0x4000) ∧
    (∃ (h : PHost) (off : BitVec 15) (s : State), s.barLive h = true ∧ off.toNat < 0x4000) ∧
    (∃ (h : PHost) (off : BitVec 15) (s : State), s.barLive h = true ∧ off.toNat < 0x4000) ∧
    (∃ (h : PHost) (off : BitVec 15) (s : State), s.barLive h = true ∧ off.toNat < 0x4000) ∧
    (∃ (h : PHost) (n : Nat) (s : State), s.barLive h = true ∧ n ≠ 1) ∧
    (∃ (h : PHost) (off : BitVec 15) (n : Nat) (be : BitVec 4) (s : State), s.barLive h = true ∧ off.toNat < 0x4200 ∧ ¬ (n = 1
      ∧ be = 0xF#4)) ∧
    (∃ (h : PHost) (off : BitVec 15) (n : Nat) (be : BitVec 4) (s : State), s.barLive h = true ∧ off.toNat < 0x4200 ∧ ¬ (n = 1
      ∧ be = 0xF#4)) ∧
    (∃ (h : PHost) (s : State), s.cfgLive h = true) ∧
    (∃ (h : PHost) (s : State), s.cfgLive h = true) ∧
    (∃ (h : PHost) (s : State), s.cfgLive h = true) ∧
    (∃ (h : PHost) (off : BitVec 15) (s : State), s.barLive h = true ∧ 0x4000 ≤ off.toNat ∧ off.toNat < 0x4200 ∧ (off.toNat -
      0x4000) / 4 % 4 < 3) ∧
    (∃ (h : PHost) (off : BitVec 15) (s : State), s.barLive h = true ∧ 0x4000 ≤ off.toNat ∧ off.toNat < 0x4200 ∧ (off.toNat -
      0x4000) / 4 % 4 < 3) ∧
    (∃ (x : Sender) (p : RegPlace) (q : RegRequest), ((∀ h : PHost, x ≠ hostSender h)) ∧ ((∀ a v, ¬ (p = .reg a ∧ q = .word
      v)))) ∧
    (∃ (x : Sender) (p : RegPlace) (q : RegRequest), ((∀ h : PHost, x ≠ hostSender h)) ∧ ((∀ a v, ¬ (p = .reg a ∧ q = .word
      v)))) ∧
    (∃ (h : PHost) (p : RegPlace) (q : RegRequest) (s : State), s.cfgLive h = false ∧ ((∀ a v, ¬ (p = .reg a ∧ q = .word v))))
      :=
  ⟨⟨0, stHost, by decide⟩,
   ⟨2, stHost, by decide⟩,
   ⟨0, stHost, by decide⟩,
   ⟨0, stHost, by decide⟩,
   ⟨0, stHost.setHost 0 { perstN := true, up := true }, by decide, by decide⟩,
   ⟨0, 0x04, stHost, by decide, by decide, by decide⟩,
   ⟨0, 0x3FF, stHost, by decide, by decide, by decide⟩,
   ⟨0, by decide⟩,
   ⟨31, by decide⟩,
   ⟨0, 0, stHost, by decide, by decide⟩,
   ⟨0, 0x3FFC, stHost, by decide, by decide⟩,
   ⟨0, 0, stHost, by decide, by decide⟩,
   ⟨0, 0x3FFC, stHost, by decide, by decide⟩,
   ⟨0, 0, stHost, by decide, by decide⟩,
   ⟨0, 0x3FFC, stHost, by decide, by decide⟩,
   ⟨0, 0, stHost, by decide, by decide⟩,
   ⟨0, 0x3FFC, stHost, by decide, by decide⟩,
   ⟨0, 2, stHost, by decide, by decide⟩,
   ⟨0, 0x41FC, 2, 15, stHost, by decide, by decide, by decide⟩,
   ⟨0, 0, 1, 7, stHost, by decide, by decide, by decide⟩,
   ⟨0, stHost, by decide⟩,
   ⟨2, stHost, by decide⟩,
   ⟨0, stHost, by decide⟩,
   ⟨0, 0x4000, stHost, by decide, by decide, by decide, by decide⟩,
   ⟨0, 0x41F8, stHost, by decide, by decide, by decide, by decide⟩,
   ⟨8, .cfg 0, .read 1, by decide, fun _ _ h => by cases h.1⟩,
   ⟨0, .reg 0, .read 1, by decide, fun _ _ h => by cases h.2⟩,
   ⟨1, .noBar, .read 1, stRun, by decide, fun _ _ h => by cases h.1⟩⟩

/-- Every clause of FrontCommandRuns has its hypotheses met. -/
theorem test_met_FrontCommandRuns :
    ∃ (c : Instr) (rest : List Instr) (s : State), s.pending = c :: rest :=
  ⟨.vstbyGood, [.wakeStart], { pending := [.vstbyGood, .wakeStart] }, by decide⟩

/-- Every clause of EmptyQueueIdles has its hypotheses met. -/
theorem test_met_EmptyQueueIdles :
    ∃ (s : State), s.pending = [] :=
  ⟨{}, by decide⟩

/-- Every clause of ResetValues has its hypotheses met. -/
theorem test_met_ResetValues :
    (∃ (c : Nat), 5 ≤ c ∧ c < 8) ∧
    (∃ (c : Nat), 5 ≤ c ∧ c < 8) :=
  ⟨⟨5, by decide, by decide⟩,
   ⟨7, by decide, by decide⟩⟩

/-- Every clause of StepKeepsInvariant has its hypotheses met. -/
theorem test_met_StepKeepsInvariant :
    ∃ (s : State) (t : State), s.Inv ∧ step s = .next t :=
  ⟨{ pending := [.vstbyGood] }, _, inv_of _ (by decide) (by decide), rfl⟩

/-- Every clause of EveryStepGoesOn has its hypotheses met. -/
theorem test_met_EveryStepGoesOn :
    ∃ (s : State) (c : Instr) (rest : List Instr), s.Inv ∧ s.pending = c :: rest :=
  ⟨{ pending := [.vstbyGood] }, .vstbyGood, [], inv_of _ (by decide) (by decide), by decide⟩

/-- Every clause of TimeStamp has its hypotheses met. -/
theorem test_met_TimeStamp :
    (∃ (c : Calendar), c.valid = true ∧ c.lastDay = false) ∧
    (∃ (c : Calendar), c.valid = true ∧ c.lastDay = false) ∧
    (∃ (c : Calendar), c.valid = true) ∧
    (∃ (c : Calendar), c.valid = true) :=
  ⟨⟨{}, by decide, by decide⟩,
   ⟨{ day := 30, month := 12, year := 199 }, by decide, by decide⟩,
   ⟨{}, by decide⟩,
   ⟨{ subsec := 1023, sec := 59, min := 59, hour := 23, wday := 6, day := 31, month := 12, year := 199 }, by decide⟩⟩

/-- The hypotheses of every frame statement, with every one of its parts, are met: a station counter read-out leaves all but
its answer, its registers and the clock's shadow copies, and a tick leaves the rest. -/
theorem test_met_frames :
    (∃ (c : Instr) (s t : State), s.Inv ∧ exec c s = .next t ∧ keepsKeepArray c = true ∧ keepsPlanes c = true ∧ keepsTiles c = true ∧
      keepsPower c = true ∧ keepsStore c = true ∧ keepsMailboxes c = true ∧ keepsPossession c = true ∧ keepsClock c = true ∧
      keepsMport c = true ∧ keepsEncoders c = true ∧ keepsLedger c = true ∧ keepsDescriptors c = true ∧ keepsFirmware c = true ∧
      keepsDevice c = true ∧ keepsPhys63 c = true) ∧
    (∃ (c : Instr) (s t : State), s.Inv ∧ exec c s = .next t ∧ keepsStations c = true ∧ keepsIdRegisters c = true ∧
      keepsSupRegisters c = true ∧ keepsRtcRegisters c = true ∧ keepsKeepRegisters c = true ∧ keepsMailboxRegisters c = true ∧
      keepsHostRegisters c = true ∧ keepsUpperRegisters c = true) :=
  ⟨⟨.eosWindowEnd 0, stWith { win := .eos }, _, inv_of _ (by decide) (by decide), rfl, by decide, by decide, by decide, by decide, by decide,
      by decide, by decide, by decide, by decide, by decide, by decide, by decide, by decide, by decide, by decide⟩,
    ⟨.vbatReturn, stRun, _, inv_of _ (by decide) (by decide), rfl, by decide, by decide, by decide, by decide, by decide, by decide,
      by decide, by decide⟩⟩

/-- A token of FACTORY to FIELD for serial number 0. -/
def stToken : State := { stRun.put Reg.ID_LC_STATE 0 with fw := { token := [0, 0, 0, 0, 1, 1] ++ List.replicate 34 0 } }

/-- The last clause of LifeCycle about LC_APPLY: a token that fits and whose signature verifies (under the key that the spec
does not give, log entry 10) has RESULT 1. -/
theorem test_met_LifeCycle_token (sig : tokenSigned stToken.fw.token = true) :
    ∃ (x : Sender) (s : State), s.reaches x 0xE00 true = true ∧ isH0 x = true ∧ s.tokenResult = 1 := by
  refine ⟨0#4, stToken, by decide, by decide, ?_⟩
  have f : stToken.tokenFits stToken.fw.token = true := by decide
  have g : ¬(stToken.fw.token.length ≠ 40 ∨ stToken.pwr.st ≠ .run ∨ stToken.get Reg.FW_STAT_OP ≠ 0) := by decide
  simp [State.tokenResult, sig, f, g]

/-! Operands that no command can carry -/

/-- Each check of Instr.wf refuses an ill-formed operand. -/
theorem test_wf_refuses :
    (Instr.read 0 0 {} [⟨2 ^ 28, false⟩]).wf = false ∧ (Instr.wake 5#4).wf = false ∧ (Instr.registerWrite 5#4 (.reg 0) (.word 0)).wf = false ∧
    (Instr.registerWrite 12#4 (.reg 0) (.word 0)).wf = false ∧ (Instr.badOpcode 0 0 0x23#8 {}).wf = false ∧ (Instr.frameRefused {} 0x03#8 4095#14).wf = false ∧
    (Instr.sxsPulse 0 0 0).wf = false ∧ (Instr.shortFrame 40).wf = false := by decide

/-- Host data longer than the largest LEN is refused too. -/
theorem test_wf_refuses_data (b : List Byte) (h : b.length = 2 ^ 26 + 1) : (Instr.keepWrite 0 0 {} { bytes := b }).wf = false := by
  simp [Instr.wf, HostData.wf, h]

/-- The same commands with operands at the edge of what they can carry. -/
theorem test_wf_accepts :
    (Instr.read 0 0 {} [⟨2 ^ 28 - 1, true⟩]).wf = true ∧ (Instr.wake 4#4).wf = true ∧ (Instr.registerWrite 14#4 (.reg 0) (.word 0)).wf = true ∧
    (Instr.badOpcode 0 0 0x24#8 {}).wf = true ∧ (Instr.frameRefused {} 0x03#8 4096#14).wf = true ∧ (Instr.frameRefused {} 0x01#8 0#14).wf = true ∧
    (Instr.sxsPulse 0 0 1).wf = true ∧ (Instr.shortFrame 39).wf = true ∧ (Instr.keepWrite 0 0 {} { bytes := [] }).wf = true := by decide

/-- No word spells a command: the table gives no row bits. -/
theorem test_decode_none : decodeTableWord 16 0 = none ∧ stRun.withFetchWord 16 0 = stRun := ⟨rfl, rfl⟩

/-! The spec's worked examples -/

/-- spec/03: the codeword of byte 0x2A4C3E9D lies in region 21 at index 0x987D3, in cluster 3. -/
theorem test_example_address :
    cwRegion (0x2A4C3E9D / 8) = 21 ∧ cwIndex (0x2A4C3E9D / 8) = 0x987D3 ∧ cwIndex (0x2A4C3E9D / 8) % 8 = 3 := by decide

/-- spec/04: thresholds 9.425 V, 8.350 V and 7.075 V of 17 regions at 470 µF, V_ready 9.700 V, CMIN 231, three waves. -/
theorem test_example_budget :
    waveThreshold 470 17 = 377 ∧ waveThreshold 470 9 = 334 ∧ waveThreshold 470 1 = 283 ∧ readyLevel 470 17 = 388 ∧ cMin 17 = 231 ∧
    waveCount 17 = 3 := by decide

/-- spec/05 and spec/16: V_th(1) 10.875 V and V_ready 11.000 V of 64 regions at 1,000 µF; 10.475 V and 10.650 V of 40 at 720 µF,
with CMIN 484. -/
theorem test_example_ready :
    waveThreshold 1000 64 = 435 ∧ readyLevel 1000 64 = 440 ∧ waveThreshold 720 40 = 419 ∧ readyLevel 720 40 = 426 ∧ cMin 40 = 484 := by
  decide

/-- spec/06: with HOLD 10 µs and CEIL 64 µs a poll 10 µs after the last activity sets 500 ns; the period stops at CEIL. -/
theorem test_example_polls :
    ((stRing.put (Reg.HOST_POLL_CEIL 0) 64).nextPeriod 0 9 = 250) ∧ (stRing.put (Reg.HOST_POLL_CEIL 0) 64).nextPeriod 0 10 = 500 ∧
    ((stRing.put (Reg.HOST_POLL_CEIL 0) 64).setHost 0 { period := 64000 }).nextPeriod 0 200 = 64000 := by decide

/-- H3 of spec/07's example: SEG 0, one window, read-write rights to region 21's partition, SQ2 with CQ0. -/
def stH3 : State :=
  { stIn .run with
    hosts := [(2, { perstN := true, up := true, ready := true, cfg := cfgOn, fetching := [(2, 1)] })]
    regs := [(0x455, 0x08000), (0x480, 0x30000), (0x4C0, 0x000C0), (0x790, 0x00440), (0x7AA, 0x20000), (0x7AC, 0x20000),
      (0x7B2, 0x10000), (0x7B4, 0x20000), (0x7BA, 0x3FFFF), (0x7BB, 0x3FFFF)] }

/-- TAG, STATUS, RESULT, AUX, PHASE and SQ of the completions that have left. -/
def completions (o : Host.Outcome State Fault Refusal) : List (List Nat) :=
  match o with
  | .next s => s.out.filterMap fun (x : Out) => match x with
    | .completion _ _ _ tag c phase _ _ sq _ => some [tag.toNat, c.status.toNat, c.result.toNat, c.aux.toNat, b2n phase, sq.val]
    | _ => none
  | _ => []

/-- spec/07: 100 bytes at 0x2A4C3E9D with a single-bit error in the first codeword complete DONE_CORRECTED with DONE_LEN 100, on
the first pass of the CQ. -/
theorem test_example_write :
    completions (exec (.write 2 2 { tag := 0x0107, haddr := 0x1234567800, a0 := 0x2A4C3E9D, len := 100 }
      { bytes := List.replicate 100 0x5A } [⟨0x2A4C3E9D / 8, false⟩]) stH3) = [[0x0107, 0x01, 100, 0, 1, 2]] := by
  decide +kernel

/-- spec/08: e19 at line 10,082 with phase 3 between raster values 9 and 12 emits code 53. -/
theorem test_example_code : driveValue 9 12 3 38 42 69632 256 256 false = 53 := by decide

/-- Station S2 of spec/08's example: the geometry with its PROC values, e20 out. -/
def stS2 : State :=
  stRun.setStn 2 { tables := [(0, { active := (List.range 72).map fun (k : Nat) => (2 * k, BitVec.ofNat 18 (
    (if k = 20 then 0 else 0x20000) + (match k with | 0 => 3 | 8 => 1 | 19 => 127 | 20 => 2 | 70 => 126 | 71 => 5 | _ => 0))) })] }

/-- spec/08: facets 1 and 3 suppress e0 to e8 and e0 to e7, keep rows from 160,144 and 162,173 on, and write 63 and 64 rows. -/
theorem test_example_facets :
    ((stS2.selectHalf 2 160000 (List.range 72) (some 160131)).lo = some 160144 ∧
      (stS2.selectHalf 2 160000 (List.range 72) (some 160131)).hi = some 161141 ∧
      ((stS2.selectHalf 2 160000 (List.range 72) (some 160131)).emits.filter (· ≠ .suppressed)).length = 63) ∧
    (stS2.selectHalf 2 162044 (List.range 72) (some 162153)).lo = some 162173 ∧
    ((stS2.selectHalf 2 162044 (List.range 72) (some 162153)).emits.filter (· ≠ .suppressed)).length = 64 ∧
    (stS2.selectHalf 2 162044 (List.range 72) (some 162153)).emits.getD 20 .suppressed = .out := by decide +kernel

/-- Station S2 of spec/09's example, facet number 5. -/
def stTrim : State :=
  State.putAll (stRun.setStn 2 { fn := 5, tables := [(4, { active := [(15, 40), (16, 120)] })], meas := [(5, [1920280, 1920304, 1920272])] })
    [(Reg.STN_DOT_DOT_PER 2, 40000), (Reg.STN_SXS_T_T_SCAN 2, 60000), (Reg.STN_MAG_AUTO 2, 1), (Reg.STN_MAG_AVG 2, 2), (Reg.STN_LEAD_LEAD 2, 1200)]

/-- spec/09: the fourth EOS makes the automatic trim +150 ppm; P_eff is 10,242,765 and T0 - t_s is 19,240 sixteenths of it. -/
theorem test_example_trim :
    (stTrim.eos 2 1920296).get (Reg.STN_MTRIM_TRIM 2 5) = 150 ∧ (stTrim.eos 2 1920296).pEff 2 5 = 10242765 ∧
    (stTrim.eos 2 1920296).emitStart 2 5 0 = 19240 * 10242765 := by decide +kernel

/-- spec/09, Table 9-3: quadrature decoding from every state. -/
theorem test_quadrature :
    [0#2, 1#2, 3#2, 2#2].map (quadStep 0#2) = [some 0, some 1, none, some (-1)] ∧
    [0#2, 1#2, 3#2, 2#2].map (quadStep 1#2) = [some (-1), some 0, some 1, none] ∧
    [0#2, 1#2, 3#2, 2#2].map (quadStep 3#2) = [none, some (-1), some 0, some 1] ∧
    [0#2, 1#2, 3#2, 2#2].map (quadStep 2#2) = [some 1, none, some (-1), some 0] := by decide

/-- The page write that runs after a command. -/
def runPage (o : Host.Outcome State Fault Refusal) : Option Nat :=
  match o with
  | .next s => s.keep.run.map (·.page)
  | _ => none

/-- spec/10: the copy with COPIES 50,617 goes to copy B of pair 0, page 69. -/
theorem test_example_copy :
    runPage (exec .counterCopyStart { stRun.setCopies 50616 with led := { changed := true } }) = some 69 := by decide

/-- spec/11: with copy B of sequence 119 chosen, RECORD_PUT targets copy A with sequence 120. -/
theorem test_example_record : putTarget (some ⟨true, 119, [], false⟩) = (false, 120) := by decide

/-- spec/13: 2031-03-17 06:00:00 is day 11,398, and its stamp is 46,371,536,896. -/
theorem test_example_stamp :
    dayNumber 31 3 17 = 11398 ∧ ({ year := 31, month := 3, day := 17, hour := 6 } : Calendar).stamp = 46371536896 := by decide

/-- spec/13: an alarm of WDAY 1 at 06:00:00, written on Friday 2031-03-14 at 22:15:30, is next due on 2031-03-17. -/
theorem test_example_alarm :
    (State.putAll stRun [(Reg.RTC_ALM_0_MASK 0, 0x70), (Reg.RTC_ALM_0_WDAY 0, 1), (Reg.RTC_ALM_1_HOUR 0, 6)]).nextInstant 0
      { year := 31, month := 3, day := 14, wday := 5, hour := 22, min := 15, sec := 30, subsec := 512 } = some 984808800 := by decide +kernel

/-- R203: 2100 is no leap year, 2000 and 2196 are. -/
theorem test_leap : daysIn 100 2 = 28 ∧ daysIn 0 2 = 29 ∧ daysIn 196 2 = 29 := by decide

/-! Single steps -/

/-- What the last output is. -/
def lastOut (o : Host.Outcome State Fault Refusal) : Option Out :=
  match o with
  | .next s => s.out.getLast?
  | _ => none

/-- The power state after a command. -/
def stateOf (o : Host.Outcome State Fault Refusal) : Option PState :=
  match o with
  | .next s => some s.pwr.st
  | _ => none

/-- R43: the first VSTBY takes a device from OFF to STANDBY; power loss in RUN enters VOLLEY; a failed guard leaves it. -/
theorem test_states :
    stateOf (exec .vstbyGood State.reset) = some .standby ∧ stateOf (exec .resetNLow stRun) = some .volley ∧
    stateOf (exec .wakeStart stRun) = some .run := by decide +kernel

/-- R317: a free possession register is granted to its reader, 0x20000 plus its sender ID. -/
theorem test_possession : lastOut (exec (.possRead 3#4 5) { stHost with regs := stRun.regs }) = some (.readData 3#4 0x385 0x20003) := by
  decide +kernel

/-- R313: a pop of an empty queue returns 0. -/
theorem test_mailbox : lastOut (exec (.mailboxPop 0#4 4 ⟨false, []⟩) stRun) = some (.readData 0#4 0x342 0) := by decide

/-- R337: the frame after a READ of ID_VENDOR returns 0x1F3C with VALID. -/
theorem test_mport :
    (match exec (.mportRead { gap := 720 } 0x000) stRun with
      | .next s => (s.mport.prevRead, s.mport.prevAddr)
      | _ => (none, 0)) = (some 0x01F3C, 0) := by decide

/-- R166: unmasking a vector with its pending bit set sends its message, with the address and data of its table entry. -/
theorem test_msix :
    lastOut (exec (.msixUnmask 0 31) (stRing.setHost 0 { up := true, ready := true, pba := 0x80000000, cfg := cfgOn, vectors := [(124, 8#32), (126, 9#32)] }))
      = some (.msix 0 31 8 9#32) := by decide +kernel

/-- A step takes the front command and keeps the rest. -/
theorem test_step :
    (match step { pending := [.vstbyGood, .wakeStart] } with | .next s => (s.pwr.st, s.pending) | _ => (.off, [])) = (.standby, [.wakeStart]) := by
  decide +kernel

end Sys2Proof.Tests
end

namespace Sys2Proof.Machine
open Sys2Proof

/-! The scope: what every step does, and which registers a command leaves as they were. -/

/-- The command in front runs on the state that holds the rest of the queue (log entry 13). -/
theorem step_front {s : State} {c : Instr} {rest : List Instr} (h : s.pending = c :: rest) :
    step s = exec c { s with pending := rest } := by
  unfold step
  rw [h]

/-- The invariant says nothing about the queue. -/
theorem inv_pending {s : State} (hI : s.Inv) (q : List Instr) : ({ s with pending := q } : State).Inv := hI

/-- Settles O45: the command in front has kept the queue's rest and the invariant, and fused registers read their reset values
before and after. -/
theorem everyStepGoesOn : Obligations.EveryStepGoesOn := by
  intro s c rest hI hp
  obtain ⟨t, ht, hk⟩ := exec_kept c (inv_pending hI rest)
  obtain ⟨hq, hIt⟩ := (good_iff _ _).mp hk.good
  refine ⟨t, (step_front hp).trans ht, hq, hIt, fun a ha => ?_⟩
  exact (hIt.2 a ha).trans (hI.2 a ha).symm

/-- A command leaves every register of a part outside its mask. -/
theorem exec_keeps_regPart {c : Instr} {s t : State} (hI : s.Inv) (h : exec c s = .next t) {g a : Nat} (ha : regPart a = g)
    (hg : (commandMask c).testBit g = false) : t.reg a = s.reg a :=
  (exec_next hI h).frame.regs a (by rw [ha, hg])

/-- The register parts by address. -/
theorem regPart_of_range (a : Nat) : (a < 0x100 → regPart a = 0) ∧ (0x100 ≤ a → a < 0x200 → regPart a = 1) ∧
    (0x200 ≤ a → a < 0x280 → regPart a = 2) ∧ (0x280 ≤ a → a < 0x300 → regPart a = 3) ∧
    (0x300 ≤ a → a < 0x400 → regPart a = 4) ∧ (0x400 ≤ a → a < 0x800 → regPart a = 5) ∧ (0x800 ≤ a → regPart a = 6) := by
  unfold regPart
  split_ifs <;> omega

/-- No command that Safety.lean names as leaving a block of registers has that block in its mask. -/
theorem keepsRegisters_mask (c : Instr) :
    (keepsIdRegisters c && (commandMask c).testBit 0) = false ∧ (keepsSupRegisters c && (commandMask c).testBit 1) = false ∧
    (keepsRtcRegisters c && (commandMask c).testBit 2) = false ∧ (keepsKeepRegisters c && (commandMask c).testBit 3) = false ∧
    (keepsMailboxRegisters c && (commandMask c).testBit 4) = false ∧ (keepsHostRegisters c && (commandMask c).testBit 5) = false ∧
    (keepsUpperRegisters c && (commandMask c).testBit 6) = false := by
  cases c <;> (dsimp only [commandMask]; exact ⟨rfl, rfl, rfl, rfl, rfl, rfl, rfl⟩)

/-- A command whose mask has no part `g` where `keeps` holds leaves the registers of that part. -/
theorem keeps_reg {keeps : Instr → Bool} {c : Instr} {s t : State} (hI : s.Inv) (h : exec c s = .next t) {g a : Nat} (hc : keeps c = true)
    (hm : (keeps c && (commandMask c).testBit g) = false) (ha : regPart a = g) : t.reg a = s.reg a :=
  exec_keeps_regPart hI h ha (by rwa [hc, Bool.true_and] at hm)

/-- Settles O55: parts 0 and 1 of the commands' masks. -/
theorem supervisorRegisterFrame : Obligations.SupervisorRegisterFrame := by
  intro c s t hI h
  obtain ⟨hId, hSup, -⟩ := keepsRegisters_mask c
  refine ⟨fun hc a ha => keeps_reg hI h hc hId ?_, fun hc a hl ha => keeps_reg hI h hc hSup ?_⟩
  · exact (regPart_of_range a).1 ha
  · exact (regPart_of_range a).2.1 hl ha

/-- Settles O56: parts 2, 3 and 4 of the commands' masks. -/
theorem serviceRegisterFrame : Obligations.ServiceRegisterFrame := by
  intro c s t hI h
  obtain ⟨-, -, hRtc, hKeep, hMb, -⟩ := keepsRegisters_mask c
  refine ⟨fun hc a hl ha => keeps_reg hI h hc hRtc ?_, fun hc a hl ha => keeps_reg hI h hc hKeep ?_,
    fun hc a hl ha => keeps_reg hI h hc hMb ?_⟩ <;> obtain ⟨-, -, pRtc, pKeep, pMb, -⟩ := regPart_of_range a
  · exact pRtc hl ha
  · exact pKeep hl ha
  · exact pMb hl ha

/-- Settles O57: parts 5 and 6 of the commands' masks. -/
theorem upperRegisterFrame : Obligations.UpperRegisterFrame := by
  intro c s t hI h
  obtain ⟨-, -, -, -, -, hHost, hUp⟩ := keepsRegisters_mask c
  refine ⟨fun hc a hl ha => keeps_reg hI h hc hHost ?_, fun hc a hl => keeps_reg hI h hc hUp ?_⟩ <;>
    obtain ⟨-, -, -, -, -, pHost, pUp⟩ := regPart_of_range a
  · exact pHost hl ha
  · exact pUp hl

/-! Register writes (R19, R21) -/

/-- Two fields share no bit. -/
abbrev FieldSpec.apart (f g : FieldSpec) : Prop := f.hi < g.lo ∨ g.hi < f.lo

/-- Every row of the register tables lays its fields apart, so that the order in which a write stores them does not matter. -/
theorem regRows_apart (a : Nat) : ∀ r, r ∈ regRows a → r.fields.Pairwise FieldSpec.apart := by
  unfold regRows
  split <;> decide +kernel

/-- The fields of every register lie apart. -/
theorem fieldsAt_apart (a : Nat) : (fieldsAt a).Pairwise FieldSpec.apart := by
  unfold fieldsAt
  split
  · next r hr => exact regRows_apart _ r (List.mem_of_find?_eq_some hr)
  · exact List.Pairwise.nil

/-- A bit of a field as a write leaves it: its old bit, the bit written, and whether the lock is open (Table 0-7). -/
def Access.bitAfter (acc : Access) (unlocked old new : Bool) : Bool :=
  match acc with
  | .rw => new
  | .rwl => if unlocked then new else old
  | .w1c => old && !new
  | .ro => old
  | .wo => old

/-- A field of `w` takes the same bits of `v`. -/
theorem getLsbD_putBits_bits (w v : Word) (hi lo i : Nat) (h : i < 18) :
    (putBits w hi lo (bits v.toNat hi lo)).getLsbD i = if lo ≤ i ∧ i ≤ hi then v.getLsbD i else w.getLsbD i := by
  rw [← BitVec.testBit_toNat, putBits_bit w hi lo _ i h]
  by_cases hr : lo ≤ i ∧ i ≤ hi
  · have e : lo + (i - lo) = i := by omega
    rw [if_pos hr, if_pos ⟨hr.1, by omega⟩, bits_testBit, e, BitVec.testBit_toNat]
    simp only [show i - lo < hi + 1 - lo by omega, decide_true, Bool.true_and]
  · rw [if_neg hr, if_neg (by omega), BitVec.testBit_toNat]

/-- A field's write changes its own bits alone, by its access code. -/
theorem FieldSpec.write_bit (f : FieldSpec) (old v : Word) (u : Bool) (i : Nat) (h : i < 18) :
    (f.write old v u).getLsbD i = if f.lo ≤ i ∧ i ≤ f.hi then f.acc.bitAfter u (old.getLsbD i) (v.getLsbD i) else old.getLsbD i := by
  unfold FieldSpec.write Access.bitAfter
  cases f.acc with
  | rw => exact getLsbD_putBits_bits old v f.hi f.lo i h
  | rwl =>
    cases u with
    | true => exact getLsbD_putBits_bits old v f.hi f.lo i h
    | false => exact (ite_self _).symm
  | w1c =>
    refine (getLsbD_putBits_bits old (old &&& ~~~v) f.hi f.lo i h).trans ?_
    simp [h]
  | ro => exact (ite_self _).symm
  | wo => exact (ite_self _).symm

/-- A bit that no field of the list holds stays. -/
theorem writes_bit_outside (fs : List FieldSpec) (v : Word) (u : Bool) (i : Nat) (h : i < 18) : ∀ old : Word,
    (∀ f, f ∈ fs → ¬(f.lo ≤ i ∧ i ≤ f.hi)) → (fs.foldl (fun w f => f.write w v u) old).getLsbD i = old.getLsbD i := by
  induction fs with
  | nil => exact fun _ _ => rfl
  | cons f fs ih =>
    intro old hf
    rw [List.foldl_cons, ih _ (fun g hg => hf g (List.mem_cons_of_mem _ hg)), FieldSpec.write_bit f old v u i h,
      if_neg (hf f List.mem_cons_self)]

/-- A bit of one field, where the fields lie apart, is written by that field alone. -/
theorem writes_bit_inside (fs : List FieldSpec) (v : Word) (u : Bool) (i : Nat) (h : i < 18) (hp : fs.Pairwise FieldSpec.apart) :
    ∀ (old : Word) (f : FieldSpec), f ∈ fs → f.lo ≤ i → i ≤ f.hi →
      (fs.foldl (fun w f => f.write w v u) old).getLsbD i = f.acc.bitAfter u (old.getLsbD i) (v.getLsbD i) := by
  induction hp with
  | nil => exact fun _ _ hf => absurd hf List.not_mem_nil
  | @cons g gs hg _ ih =>
    intro old f hf hl hh
    rw [List.foldl_cons]
    rcases List.mem_cons.mp hf with rfl | hf
    · rw [writes_bit_outside gs v u i h _ (fun k hk => by rcases hg k hk with a | a <;> omega), FieldSpec.write_bit f old v u i h,
        if_pos ⟨hl, hh⟩]
    · have hn : ¬(g.lo ≤ i ∧ i ≤ g.hi) := by rcases hg f hf with a | a <;> omega
      rw [ih _ f hf hl hh, FieldSpec.write_bit g old v u i h, if_neg hn]

/-- Settles O30: the fields of a register lie apart, and each stores its bits by its own access code. -/
theorem accessCodes : Obligations.AccessCodes := by
  intro a old v u i h
  refine ⟨writes_bit_outside _ v u i h old, fun f hf hl hh => ?_⟩
  refine (writes_bit_inside _ v u i h (fieldsAt_apart a) old f hf hl hh).trans ?_
  cases f.acc <;> rfl

end Sys2Proof.Machine

namespace Sys2Proof.Machine
open Sys2Proof

/-! The scope: registers that a write changes without further effect, and the reset values. -/

/-- A write of a register by its number is a register write where the sender's port reaches it. -/
theorem exec_registerWrite_word (x : Sender) (a : BitVec 12) (v : Word) (s : State) :
    exec (.registerWrite x (.reg a) (.word v)) s = .next (if s.reaches x a.toNat true = true then s.writeReg x a.toNat v else s) := rfl

/-- A write that reaches its register. -/
theorem exec_registerWrite_reached {x : Sender} {a : BitVec 12} {s t : State} (v : Word) (h : s.reaches x a.toNat true = true)
    (hw : s.writeReg x a.toNat v = t) : exec (.registerWrite x (.reg a) (.word v)) s = .next t := by
  rw [exec_registerWrite_word, if_pos h, hw]

/-- Reserved blocks take no write (R21). -/
theorem writeReg_reserved (s : State) (x : Sender) {a : Nat} (v : Word) (ha : a < 0x1000) (h : (0x500 ≤ a ∧ a < 0x600) ∨ 0xF00 ≤ a) :
    s.writeReg x a v = s := by
  have hb : a / 0x100 = 5 ∨ a / 0x100 = 15 := by omega
  unfold State.writeReg
  rcases hb with e | e <;> rw [e] <;> rfl

/-- The window of a station that is not enabled takes no write (R8, R76). -/
theorem stnWrite_disabled (s : State) (x : Sender) (n : StnId) (k : Nat) (v : Word) (h : s.stnEnabled n.val = false) :
    s.stnWrite x n k v = s := by
  unfold State.stnWrite
  rw [h]
  rfl

/-- A write in the stations' blocks is one of the window's station (R240, R266). -/
theorem writeReg_stn (s : State) (x : Sender) (n : StnId) (k : BitVec 7) (v : Word) :
    s.writeReg x (0x800 + 0x80 * n.val + k.toNat) v = s.stnWrite x n ((0x800 + 0x80 * n.val + k.toNat) % 0x80) v := by
  have hn : Fin.ofNat 8 ((0x800 + 0x80 * n.val + k.toNat - 0x800) / 0x80) = n := by
    apply Fin.ext
    show (0x800 + 0x80 * n.val + k.toNat - 0x800) / 0x80 % 8 = n.val
    omega
  have hb : (0x800 + 0x80 * n.val + k.toNat) / 0x100 = 8 ∨ (0x800 + 0x80 * n.val + k.toNat) / 0x100 = 9 ∨
      (0x800 + 0x80 * n.val + k.toNat) / 0x100 = 10 ∨ (0x800 + 0x80 * n.val + k.toNat) / 0x100 = 11 := by omega
  unfold State.writeReg
  rcases hb with e | e | e | e <;> rw [e, hn] <;> rfl

/-- A field of a word reads the value written into it. -/
theorem bits_putBits_same (w : Word) (hi lo v : Nat) (h : hi < 18) (hv : v < 2 ^ (hi + 1 - lo)) : bits (putBits w hi lo v).toNat hi lo = v := by
  apply Nat.eq_of_testBit_eq
  intro i
  rw [bits_testBit]
  by_cases hi' : i < hi + 1 - lo
  · rw [putBits_bit _ _ _ _ _ (by omega), if_pos (by omega)]
    simp [hi']
  · rw [Nat.testBit_lt_two_pow (lt_of_lt_of_le hv (Nat.pow_le_pow_right (by decide) (not_lt.mp hi')))]
    simp [hi']

/-- A field that shares no bit with the one written reads as before. -/
theorem bits_putBits_apart (w : Word) (hi lo v hi' lo' : Nat) (h : hi' < 18) (ha : hi < lo' ∨ hi' < lo) :
    bits (putBits w hi lo v).toNat hi' lo' = bits w.toNat hi' lo' := by
  apply Nat.eq_of_testBit_eq
  intro i
  rw [bits_testBit, bits_testBit]
  by_cases hi' : i < hi' + 1 - lo'
  · rw [putBits_bit _ _ _ _ _ (by omega), if_neg (by omega)]
  · simp [hi']

/-- SUP_LIMIT of channel 0 takes a LO of 50 to 180; any limit register is left as it is where HI is not above LO (R154). -/
theorem writeReg_limit (s : State) (x : Sender) {a : Nat} (v : Word) (h1 : 0x100 ≤ a) (h2 : a ≤ 0x10B) :
    s.writeReg x a v = (let u := if a = 0x100 then mapBits v 7 0 (fun l => max 50 (min 180 l)) else v
      if bits u.toNat 15 8 ≤ bits u.toNat 7 0 then s else s.storeReg a u (isH0 x)) := by
  have hb : a / 0x100 = 1 := by omega
  unfold State.writeReg
  rw [hb]
  exact if_pos ⟨h1, h2⟩

/-- Settles O31: each write is followed to the block's own write. -/
theorem registerWrites : Obligations.RegisterWrites := by
  refine ⟨fun x a v s h ha => exec_registerWrite_reached v h ?_, fun x a v s h ha => exec_registerWrite_reached v h ?_,
    fun x v s h => ?_, fun x c v s h hc => exec_registerWrite_reached v ?_ ?_, fun x a v s ha => ?_, fun x a v s h => ?_,
    fun x n k v s h hd => exec_registerWrite_reached v ?_ ?_⟩
  · simp only [List.mem_cons, List.not_mem_nil, or_false] at ha
    rcases ha with rfl | rfl | rfl | rfl | rfl | rfl | rfl | rfl | rfl | rfl | rfl | rfl | rfl <;> rfl
  · simp only [List.mem_cons, List.not_mem_nil, or_false] at ha
    rcases ha with rfl | rfl | rfl | rfl | rfl | rfl | rfl | rfl <;> rfl
  · refine ⟨mapBits v 7 0 (fun l => max 50 (min 180 l)), bits_putBits_apart v 7 0 _ 15 8 (by decide) (by decide),
      bits_putBits_same v 7 0 _ (by decide) (by dsimp only; omega), exec_registerWrite_reached v h ?_⟩
    exact writeReg_limit s x v (by decide) (by decide)
  · rwa [BitVec.toNat_ofNat, Nat.mod_eq_of_lt (by omega)]
  · have hne : 0x101 + c.val ≠ 0x100 := by omega
    rw [BitVec.toNat_ofNat, Nat.mod_eq_of_lt (by omega), writeReg_limit s x v (by omega) (by omega)]
    simp only [if_neg hne]
    rfl
  · rw [exec_registerWrite_word, writeReg_reserved s x v a.isLt ha, ite_self]
  · rw [exec_registerWrite_word, h]
    rfl
  · rwa [BitVec.toNat_ofNat, Nat.mod_eq_of_lt (by omega)]
  · rw [BitVec.toNat_ofNat, Nat.mod_eq_of_lt (by omega), writeReg_stn, stnWrite_disabled _ _ _ _ _ hd]

/-! Reset values (R19, R20) -/

/-- At reset every field reads its register's reset value. -/
theorem reset_get (f : Fld) : State.reset.get f = bits (regReset f.addr).toNat f.hi f.lo := rfl

/-- At reset every possession register is free. -/
theorem reset_possOwner (k : Nat) : State.reset.possOwner k = none := rfl

/-- The reset values of a host's registers (R191). -/
theorem reset_host (h : PHost) : State.reset.get (Reg.HOST_LCTL_MAX_SPEED h.val) = 5 ∧ State.reset.get (Reg.HOST_LCTL_ERR_LIMIT h.val) = 64 ∧
    State.reset.get (Reg.HOST_POLL_HOLD h.val) = 10 ∧ State.reset.get (Reg.HOST_POLL_CEIL h.val) = 100 := by
  simp only [reset_get]
  revert h
  decide

/-- Settles O42: the named values are those of the tables' rows; the state beside the registers is the default one. -/
theorem resetValues : Obligations.ResetValues := by
  refine ⟨by decide, by decide, by decide, reset_host, fun n => ?_, by decide, by decide, by decide, fun c h5 h8 => ?_, reset_possOwner,
    ⟨rfl, rfl, rfl, rfl, rfl, rfl, rfl, rfl⟩, by decide, by decide, by decide, by decide, rfl, rfl⟩
  · revert n
    simp only [reset_get]
    decide
  · simp only [reset_get]
    interval_cases c <;> decide

end Sys2Proof.Machine

namespace Sys2Proof.Machine
open Sys2Proof

/-! The frames of the descriptors and completions (R17, R192, R199). -/

@[simp] theorem length_leBytes (x n : Nat) : (leBytes x n).length = n := by simp [leBytes]

/-- The least byte comes first. -/
theorem leBytes_succ (x n : Nat) : leBytes x (n + 1) = byteOf x 0 :: leBytes (x / 256) n := by
  have hk (k : Nat) : byteOf x (k + 1) = byteOf (x / 256) k := by
    unfold byteOf
    rw [Nat.div_div_eq_div_mul, show 2 ^ (8 * (k + 1)) = 256 * 2 ^ (8 * k) by rw [Nat.mul_succ, Nat.pow_add, Nat.mul_comm]]
  unfold leBytes
  rw [List.range_succ_eq_map, List.map_cons, List.map_map]
  exact congrArg _ (List.map_congr_left fun k _ => hk k)

/-- n bytes of a number stand for the number modulo 256^n (R17). -/
theorem leNat_leBytes (n : Nat) : ∀ x : Nat, leNat (leBytes x n) = x % 256 ^ n := by
  induction n with
  | zero => intro x; rw [Nat.pow_zero, Nat.mod_one]; rfl
  | succ n ih =>
    intro x
    have hb : (byteOf x 0).toNat = x % 256 := by simp [byteOf]
    rw [leBytes_succ, leNat, ih, hb, Nat.pow_succ', Nat.mod_mul]

/-- A slot of n bytes gives back the 8n bits that were put in it. -/
theorem ofNat_slot {w : Nat} (x : BitVec w) {n : Nat} (h : 256 ^ n = 2 ^ w) : BitVec.ofNat w (x.toNat % 256 ^ n) = x := by
  rw [h, Nat.mod_eq_of_lt x.isLt, BitVec.ofNat_toNat, BitVec.setWidth_eq]

/-- A slot that starts behind the first bytes. -/
theorem leNat_slot_skip (xs ys : List Byte) {a n : Nat} (h : xs.length ≤ a) :
    leNat (((xs ++ ys).drop a).take n) = leNat ((ys.drop (a - xs.length)).take n) := by
  rw [List.drop_append, List.drop_eq_nil_of_le h, List.nil_append]

/-- The slot of n bytes that a list starts with. -/
theorem leNat_slot_here (x n : Nat) (ys : List Byte) : leNat ((leBytes x n ++ ys).take n) = x % 256 ^ n := by
  rw [List.take_append_of_le_length (length_leBytes x n).ge, List.take_of_length_le (length_leBytes x n).le, leNat_leBytes]

/-- The byte at 0x01. -/
theorem leNat_slot_second (x y : Byte) (ys : List Byte) : leNat ((([x, y] ++ ys).drop 1).take 1) = y.toNat := by simp [leNat]

/-- A descriptor has 64 bytes (R192). -/
theorem length_frame (d : Desc) (op : Byte) : (d.frame op).length = 64 := by
  simp [Desc.frame]

/-- Byte 0x01: TMO and the lowest reserved bits. -/
def descByte1 (d : Desc) : Byte := BitVec.ofNat 8 (d.tmo.toNat + 16 * (d.rsv.toNat % 16))

/-- The slots one behind the other (Table 7-1). -/
theorem frame_eq (d : Desc) (op : Byte) : d.frame op = [op, descByte1 d] ++ (leBytes d.tag.toNat 2 ++ (leBytes d.p0.toNat 4 ++
    (leBytes d.haddr.toNat 8 ++ (leBytes d.a0.toNat 4 ++ (leBytes d.a1.toNat 4 ++ (leBytes d.len.toNat 4 ++
    (leBytes (d.rsv.toNat / 2 ^ 4) 4 ++ (leBytes d.d0.toNat 8 ++ (leBytes d.d1.toNat 8 ++ (leBytes (d.rsv.toNat / 2 ^ 36) 16 ++ [])))))))))) := by
  simp only [Desc.frame, descByte1, List.append_assoc, List.append_nil]

/-- TMO and the reserved bits read back from byte 0x01 and the two reserved slots. -/
theorem byte1_slots (d : Desc) : BitVec.ofNat 4 (descByte1 d).toNat = d.tmo ∧
    BitVec.ofNat 164 ((descByte1 d).toNat / 16 + 2 ^ 4 * (d.rsv.toNat / 2 ^ 4 % 256 ^ 4) + 2 ^ 36 * (d.rsv.toNat / 2 ^ 36 % 256 ^ 16)) = d.rsv := by
  have hr := d.rsv.isLt
  have ht := d.tmo.isLt
  have hb : (descByte1 d).toNat = d.tmo.toNat + 16 * (d.rsv.toNat % 16) := by
    rw [descByte1, BitVec.toNat_ofNat]
    omega
  rw [hb]
  constructor <;> apply BitVec.eq_of_toNat_eq <;> rw [BitVec.toNat_ofNat] <;> omega

/-- The bytes of a descriptor give back its opcode and its slots (R192). -/
theorem readFrame_frame (d : Desc) (op : Byte) : readFrame (d.frame op) = (op, d) := by
  obtain ⟨hTmo, hRsv⟩ := byte1_slots d
  unfold readFrame
  rw [frame_eq]
  simp (disch := simp) only [leNat_slot_skip, leNat_slot_here, leNat_slot_second, ofNat_slot, List.length_cons, List.length_nil, length_leBytes,
    Nat.reduceAdd, Nat.reduceSub, Nat.zero_add, List.drop_zero, hTmo, hRsv]
  rfl

/-- Table 7-2 gives each opcode one code, and every code outside it is undefined (R193). -/
theorem opcodeOf_table (c : Byte) : (∀ e, e ∈ opcodeTable → e.2 = c → opcodeOf c = e.1) ∧
    ((∀ e, e ∈ opcodeTable → e.2 ≠ c) → opcodeOf c = .bad) := by
  have named : ∀ e, e ∈ opcodeTable → opcodeOf e.2 = e.1 := by decide
  refine ⟨fun e he hc => hc ▸ named e he, fun h => ?_⟩
  have none : opcodeTable.find? (fun e => decide (e.2 = c)) = none :=
    List.find?_eq_none.mpr (fun e he => by simp [h e he])
  rw [opcodeOf, none]
  rfl

/-- The bits of byte 0x0F of a completion (Table 7-5). -/
theorem lastByte_bits (ph rep last : Bool) (j : Ring) : (lastByte ph rep last j).getLsbD 7 = ph ∧ (lastByte ph rep last j).getLsbD 6 = rep ∧
    (lastByte ph rep last j).getLsbD 5 = last ∧ (lastByte ph rep last j).toNat % 32 = j.val := by
  revert ph rep last j
  decide

/-- The 16 bytes of a completion (R199). -/
theorem entry_slots (c : Compl) (tag : BitVec 16) (ph rep last : Bool) (j : Ring) :
    (c.entry tag ph rep last j).length = 16 ∧ leNat ((c.entry tag ph rep last j).take 8) = c.result.toNat ∧
    leNat (((c.entry tag ph rep last j).drop 8).take 4) = c.aux.toNat ∧ leNat (((c.entry tag ph rep last j).drop 12).take 2) = tag.toNat ∧
    (c.entry tag ph rep last j).getD 14 0 = c.status ∧ (c.entry tag ph rep last j).getD 15 0 = lastByte ph rep last j := by
  have e : c.entry tag ph rep last j = leBytes c.result.toNat 8 ++ (leBytes c.aux.toNat 4 ++ (leBytes tag.toNat 2 ++ [c.status, lastByte ph rep last j])) := by
    simp only [Compl.entry, List.append_assoc]
  have hr := c.result.isLt
  have ha := c.aux.isLt
  have ht := tag.isLt
  rw [e]
  simp (disch := simp) only [leNat_slot_skip, leNat_slot_here, length_leBytes, Nat.reduceSub, List.drop_zero]
  refine ⟨by simp, ?_, ?_, ?_, ?_, ?_⟩
  · omega
  · omega
  · omega
  · simp
  · simp

/-! Fields of a number made of parts (R252) -/

/-- The digits of a sum of digits to the base 64. -/
theorem digit_of_sum (f : Nat → Nat) (hf : ∀ i, f i < 64) (n : Nat) : ((List.range n).map (fun i => f i * 64 ^ i)).sum < 64 ^ n ∧
    ∀ i, i < n → ((List.range n).map (fun i => f i * 64 ^ i)).sum / 64 ^ i % 64 = f i := by
  induction n with
  | zero => exact ⟨Nat.one_pos, fun i hi => absurd hi (Nat.not_lt_zero i)⟩
  | succ n ih =>
    obtain ⟨hlt, hd⟩ := ih
    have hs : ((List.range (n + 1)).map (fun i => f i * 64 ^ i)).sum = ((List.range n).map (fun i => f i * 64 ^ i)).sum + f n * 64 ^ n := by
      simp [List.range_succ]
    rw [hs]
    constructor
    · calc _ < 64 ^ n + f n * 64 ^ n := Nat.add_lt_add_right hlt _
        _ = (f n + 1) * 64 ^ n := by ring
        _ ≤ 64 * 64 ^ n := Nat.mul_le_mul_right _ (hf n)
        _ = 64 ^ (n + 1) := by ring
    · intro i hi
      rcases Nat.lt_succ_iff_lt_or_eq.mp hi with h | rfl
      · have hp : f n * 64 ^ n = 64 * (f n * 64 ^ (n - i - 1)) * 64 ^ i := by
          have : 64 ^ n = 64 * 64 ^ (n - i - 1) * 64 ^ i := by
            rw [← Nat.pow_succ', ← Nat.pow_add]
            congr 1
            omega
          rw [this]
          ring
        rw [hp, Nat.add_mul_div_right _ _ (Nat.pow_pos (by decide)), Nat.add_mul_mod_self_left]
        exact hd i h
      · rw [Nat.add_mul_div_right _ _ (Nat.pow_pos (by decide)), Nat.div_eq_of_lt hlt, Nat.zero_add]
        exact Nat.mod_eq_of_lt (hf i)

/-- A control block's word is its TYPE and its other bits, which lie above the TYPE's byte. -/
theorem controlBlock_word (typ rest : Nat) (h : typ + rest < 2 ^ 64) : (controlBlock typ rest).word.toNat = typ + rest :=
  Nat.mod_eq_of_lt h

end Sys2Proof.Machine

namespace Sys2Proof.Machine
open Sys2Proof

/-! The blocks of the Ecposia link (R252, Table 9-4). -/

/-- Part 0 of FACET_START: FSEQ, FN, DELAY, DFRAC and the ninth phase. -/
theorem facetStart_part0 (n : StnId) (fseq fn span nw mask period delay : Nat) (phs : List Nat) (w : Nat)
    (h : w = (((Out.facetStart n fseq fn span nw mask period phs delay).blocks).getD 0 idleBlock).word.toNat) :
    bits w 7 0 = 0x2D ∧ bits w 9 8 = 0 ∧ bits w 25 10 = fseq % 2 ^ 16 ∧ bits w 29 26 = fn % 16 ∧ bits w 53 30 = delay / 16 % 2 ^ 24 ∧
      bits w 57 54 = delay % 16 ∧ bits w 61 58 = phs.getD 8 0 % 16 := by
  have h0 := Nat.mod_lt fseq (show 0 < 2 ^ 16 by decide)
  have h1 := Nat.mod_lt fn (show 0 < 16 by decide)
  have h2 := Nat.mod_lt (delay / 16) (show 0 < 2 ^ 24 by decide)
  have h3 := Nat.mod_lt delay (show 0 < 16 by decide)
  have h4 := Nat.mod_lt (phs.getD 8 0) (show 0 < 16 by decide)
  simp only [Out.blocks, facetStartBlocks, List.getD_cons_zero] at h
  generalize fseq % 2 ^ 16 = f0, fn % 16 = f1, delay / 16 % 2 ^ 24 = f2, delay % 16 = f3, phs.getD 8 0 % 16 = f4 at *
  have e := h.trans (controlBlock_word _ _ (by omega))
  simp only [bits]
  refine ⟨?_, ?_, ?_, ?_, ?_, ?_, ?_⟩ <;> omega

/-- Part 1 of FACET_START: PERIOD, SPAN and NW. -/
theorem facetStart_part1 (n : StnId) (fseq fn span nw mask period delay : Nat) (phs : List Nat) (w : Nat)
    (h : w = (((Out.facetStart n fseq fn span nw mask period phs delay).blocks).getD 1 idleBlock).word.toNat) :
    bits w 7 0 = 0x2D ∧ bits w 9 8 = 1 ∧ bits w 37 10 = period % 2 ^ 28 ∧ bits w 53 38 = span % 2 ^ 16 ∧ bits w 60 54 = nw % 2 ^ 7 := by
  have e : w = 0x2D + (1 * 2 ^ 8 + (period % 2 ^ 28 * 2 ^ 10 + span % 2 ^ 16 * 2 ^ 38 + nw % 2 ^ 7 * 2 ^ 54)) :=
    h.trans (controlBlock_word _ _ (by omega))
  simp only [bits]
  refine ⟨?_, ?_, ?_, ?_, ?_⟩ <;> omega

/-- A part of FACET_START that holds half of the mask and four phases. -/
theorem maskPart_bits (k m p0 p1 p2 p3 w : Nat) (hk : k < 4) (hm : m < 2 ^ 36)
    (h : w = (controlBlock 0x2D (k * 2 ^ 8 + (m * 2 ^ 10 + (p0 % 16 + p1 % 16 * 2 ^ 4 + p2 % 16 * 2 ^ 8 + p3 % 16 * 2 ^ 12) * 2 ^ 46))).word.toNat) :
    bits w 7 0 = 0x2D ∧ bits w 9 8 = k ∧ bits w 45 10 = m ∧ ∀ g, g < 4 → bits w (49 + 4 * g) (46 + 4 * g) = [p0, p1, p2, p3].getD g 0 % 16 := by
  have e := h.trans (controlBlock_word _ _ (by omega))
  simp only [bits]
  refine ⟨by omega, by omega, by omega, fun g hg => ?_⟩
  interval_cases g <;> simp only [List.getD_cons_zero, List.getD_cons_succ] <;> omega

/-- FACET_START's block k is its part k. -/
theorem facetStart_layout (n : StnId) (fseq fn span nw mask period delay k : Nat) (phs : List Nat) (w : Nat) (hk : k < 4)
    (h : w = (((Out.facetStart n fseq fn span nw mask period phs delay).blocks).getD k idleBlock).word.toNat) :
    (((Out.facetStart n fseq fn span nw mask period phs delay).blocks).getD k idleBlock).control = true ∧ bits w 7 0 = 0x2D ∧ bits w 9 8 = k ∧
      (k = 0 → bits w 25 10 = fseq % 2 ^ 16 ∧ bits w 29 26 = fn % 16 ∧ bits w 53 30 = delay / 16 % 2 ^ 24 ∧ bits w 57 54 = delay % 16 ∧
        bits w 61 58 = phs.getD 8 0 % 16) ∧
      (k = 1 → bits w 37 10 = period % 2 ^ 28 ∧ bits w 53 38 = span % 2 ^ 16 ∧ bits w 60 54 = nw % 2 ^ 7) ∧
      (k = 2 → bits w 45 10 = mask % 2 ^ 36 ∧ ∀ g, g < 4 → bits w (49 + 4 * g) (46 + 4 * g) = phs.getD g 0 % 16) ∧
      (k = 3 → bits w 45 10 = mask / 2 ^ 36 % 2 ^ 36 ∧ ∀ g, g < 4 → bits w (49 + 4 * g) (46 + 4 * g) = phs.getD (4 + g) 0 % 16) := by
  have four (p : Nat → Nat) (g : Nat) (hg : g < 4) : [p 0, p 1, p 2, p 3].getD g 0 = p g := by
    interval_cases g <;> rfl
  match k, hk with
  | 0, _ =>
    obtain ⟨ht, hp, hf⟩ := facetStart_part0 n fseq fn span nw mask period delay phs w h
    exact ⟨rfl, ht, hp, fun _ => hf, by simp, by simp, by simp⟩
  | 1, _ =>
    obtain ⟨ht, hp, hf⟩ := facetStart_part1 n fseq fn span nw mask period delay phs w h
    exact ⟨rfl, ht, hp, by simp, fun _ => hf, by simp, by simp⟩
  | 2, _ =>
    obtain ⟨ht, hp, hm, hg⟩ := maskPart_bits 2 _ _ _ _ _ w (by decide) (Nat.mod_lt mask (by decide)) h
    exact ⟨rfl, ht, hp, by simp, by simp, fun _ => ⟨hm, fun g hg4 => by rw [hg g hg4, four (fun g => phs.getD g 0) g hg4]⟩, by simp⟩
  | 3, _ =>
    obtain ⟨ht, hp, hm, hg⟩ := maskPart_bits 3 _ _ _ _ _ w (by decide) (Nat.mod_lt (mask / 2 ^ 36) (by decide)) h
    exact ⟨rfl, ht, hp, by simp, by simp, by simp, fun _ => ⟨hm, fun g hg4 => by rw [hg g hg4, four (fun g => phs.getD (4 + g) 0) g hg4]⟩⟩

/-- The digits of PAYLOAD's block k to the base 64: ten codes, and the index (log entry 109). -/
def payloadDigit (codes : List Nat) (k i : Nat) : Nat := if i < 10 then codes.getD (10 * k + i) 0 % 64 else k % 16

/-- The word of PAYLOAD's block k, by its digits. -/
theorem payloadBlock_word (codes : List Nat) (k : Nat) :
    (payloadBlock codes k).word.toNat = ((List.range 11).map (fun i => payloadDigit codes k i * 64 ^ i)).sum := by
  obtain ⟨hlt, -⟩ := digit_of_sum (fun i => codes.getD (10 * k + i) 0 % 64) (fun i => Nat.mod_lt _ (by decide)) 10
  have hs : ((List.range 11).map (fun i => payloadDigit codes k i * 64 ^ i)).sum =
      ((List.range 10).map (fun i => codes.getD (10 * k + i) 0 % 64 * 64 ^ i)).sum + k % 16 * 64 ^ 10 := by
    rw [List.range_succ, List.map_append, List.sum_append, List.map_congr_left (fun i hi => by rw [payloadDigit, if_pos (List.mem_range.mp hi)])]
    simp [payloadDigit]
  rw [hs, payloadBlock, BitVec.toNat_ofNat]
  omega

/-- PAYLOAD's block k holds ten codes and its index. -/
theorem payload_layout (n : StnId) (fseq k : Nat) (codes : List Nat) (w : Nat) (hk : 10 * k < codes.length)
    (h : w = (((Out.payload n fseq codes).blocks).getD k idleBlock).word.toNat) :
    (((Out.payload n fseq codes).blocks).getD k idleBlock).control = false ∧ bits w 63 60 = k % 16 ∧
      ∀ i, i < 10 → bits w (6 * i + 5) (6 * i) = codes.getD (10 * k + i) 0 % 64 := by
  have hb : ((Out.payload n fseq codes).blocks).getD k idleBlock = payloadBlock codes k := by
    simp only [Out.blocks, List.getD_eq_getElem?_getD, List.getElem?_map]
    rw [List.getElem?_range (by omega)]
    rfl
  have hd (i : Nat) : payloadDigit codes k i < 64 := by
    unfold payloadDigit
    split_ifs <;> omega
  obtain ⟨hlt, hdig⟩ := digit_of_sum (payloadDigit codes k) hd 11
  rw [hb, payloadBlock_word] at h
  rw [← h] at hlt hdig
  refine ⟨by rw [hb]; rfl, ?_, fun i hi => ?_⟩
  · have := hdig 10 (by decide)
    simp only [payloadDigit, bits, if_neg (Nat.lt_irrefl 10)] at this ⊢
    omega
  · have := hdig i (by omega)
    rw [payloadDigit, if_pos hi] at this
    rw [bits, show 6 * i + 5 + 1 - 6 * i = 6 by omega, Nat.pow_mul]
    exact this

/-- A CONTROL block holds its KIND, and RESTART its period (Table 9-4). -/
theorem control_layout (n : StnId) (kind value : Nat) (b : Block) (h : b ∈ (Out.control n kind value).blocks) :
    b.control = true ∧ bits b.word.toNat 7 0 = 0x4B ∧ bits b.word.toNat 11 8 = kind % 16 ∧ (kind = 3 → bits b.word.toNat 16 12 = value % 32) := by
  simp only [Out.blocks, List.mem_singleton] at h
  generalize hw : (if kind = 3 then 5 else if kind = 2 then 16 else 36) = width at h
  have hv : value % 2 ^ width < 2 ^ 36 :=
    lt_of_lt_of_le (Nat.mod_lt _ (Nat.two_pow_pos _)) (Nat.pow_le_pow_right (by decide) (by split_ifs at hw <;> omega))
  have h3 : kind = 3 → value % 2 ^ width = value % 32 := fun e => by rw [← hw, if_pos e]; rfl
  generalize value % 2 ^ width = v at h hv h3
  have e := controlBlock_word 0x4B (kind % 16 * 2 ^ 8 + v * 2 ^ 12) (by omega)
  subst h
  rw [e]
  simp only [bits]
  refine ⟨rfl, by omega, by omega, fun h => ?_⟩
  have := h3 h
  omega

/-! SET-UP frames (R261, Table 9-9) -/

@[simp] theorem length_highFirst (n v : Nat) : (highFirst n v).length = n := by simp [highFirst]

theorem getElem?_highFirst (n v i : Nat) (h : i < n) : (highFirst n v)[i]? = some (v.testBit (n - 1 - i)) := by
  simp [highFirst, h]

/-- A bit more flips the parity where it is 1. -/
theorem evenParity_append (xs : List Bool) (b : Bool) : evenParity (xs ++ [b]) = xor (evenParity xs) b := by
  simp [evenParity]

/-- With its parity a list has an even number of ones. -/
theorem evenParity_closed (xs : List Bool) : evenParity (xs ++ [evenParity xs]) = false := by
  rw [evenParity_append, Bool.xor_self]

/-- A first bit flips the parity where it is 1. -/
theorem evenParity_cons (b : Bool) (xs : List Bool) : evenParity (b :: xs) = xor b (evenParity xs) := by
  have key : ∀ (ys : List Bool) (a : Bool), ys.foldl xor a = xor a (ys.foldl xor false) := by
    intro ys
    induction ys with
    | nil => exact fun a => (Bool.xor_false a).symm
    | cons y ys ih =>
      intro a
      rw [List.foldl_cons, List.foldl_cons, ih (xor a y), ih (xor false y), Bool.false_xor, Bool.xor_assoc]
  show xs.foldl xor (xor false b) = _
  rw [Bool.false_xor, key]
  rfl

/-- One wrong bit flips the parity. -/
theorem evenParity_flip (xs : List Bool) : ∀ k, k < xs.length → evenParity (xs.set k (!xs.getD k false)) = !evenParity xs := by
  induction xs with
  | nil => exact fun k hk => absurd hk (Nat.not_lt_zero k)
  | cons x xs ih =>
    intro k hk
    cases k with
    | zero => rw [List.getD_cons_zero, List.set_cons_zero, evenParity_cons, evenParity_cons, Bool.not_xor]
    | succ k =>
      rw [List.getD_cons_succ, List.set_cons_succ, evenParity_cons, evenParity_cons, ih k (Nat.lt_of_succ_lt_succ hk), Bool.xor_not]

/-- A read's reply passes its parity, and none does with one wrong bit (R261). -/
theorem reply_layout (d : BitVec 16) : replyOk (replyBits d) = true ∧ (∀ i, i < 16 → (replyBits d)[i]? = some (d.getLsbD (15 - i))) ∧
    ∀ k, k < 17 → replyOk ((replyBits d).set k (!(replyBits d).getD k false)) = false := by
  have hlen : (replyBits d).length = 17 := by simp [replyBits]
  have hpar : evenParity (replyBits d) = false := evenParity_closed _
  refine ⟨?_, fun i hi => ?_, fun k hk => ?_⟩
  · simp [replyOk, hlen, hpar]
  · rw [replyBits, List.getElem?_append_left (by simpa using hi), getElem?_highFirst 16 _ i hi, BitVec.testBit_toNat]
  · rw [replyOk, evenParity_flip _ k (hlen ▸ hk), hpar]
    simp

end Sys2Proof.Machine

namespace Sys2Proof.Machine
open Sys2Proof

/-! The bits of a SET-UP frame, and the layout of every frame (R261). -/

/-- What the device sends of a SET-UP frame behind START: its bits and their parity. -/
def setupSent (wr : Bool) (a : BitVec 7) (d : BitVec 16) : List Bool :=
  let mine := wr :: highFirst 7 a.toNat ++ (if wr then highFirst 16 d.toNat else [])
  mine ++ [evenParity mine]

/-- START, what the device sends, the turn of the line, and the last bit high (Table 9-9). -/
theorem setupBits_eq (wr : Bool) (a : BitVec 7) (d : BitVec 16) : setupBits wr a d =
    some false :: (setupSent wr a d).map some ++ (List.replicate (if wr then 2 else 18) none ++ [some true]) := by
  cases wr <;> simp [setupBits, setupSent]

theorem length_setupSent (wr : Bool) (a : BitVec 7) (d : BitVec 16) : (setupSent wr a d).length = if wr then 25 else 9 := by
  cases wr <;> simp [setupSent]

/-- The address stands behind the write bit, and a write's data behind the address. -/
theorem getElem?_setupSent (wr : Bool) (a : BitVec 7) (d : BitVec 16) : (setupSent wr a d)[0]? = some wr ∧
    (∀ i, i < 7 → (setupSent wr a d)[i + 1]? = some (a.getLsbD (6 - i))) ∧
    (wr = true → ∀ i, i < 16 → (setupSent wr a d)[i + 8]? = some (d.getLsbD (15 - i))) := by
  refine ⟨rfl, fun i hi => ?_, fun h i hi => ?_⟩
  · have e : (setupSent wr a d)[i + 1]? = (highFirst 7 a.toNat)[i]? := by
      simp [setupSent, List.getElem?_append_left, hi]
    rw [e, getElem?_highFirst 7 _ i hi, BitVec.testBit_toNat]
  · subst h
    have e : (setupSent true a d)[i + 8]? = (highFirst 16 d.toNat)[i]? := by
      simp [setupSent, List.getElem?_append_left, List.getElem?_append_right, hi]
    rw [e, getElem?_highFirst 16 _ i hi, BitVec.testBit_toNat]

/-- A bit of the frame's sent part. -/
theorem getElem?_framed (x : Option Bool) (xs : List Bool) (ys : List (Option Bool)) {i : Nat} {b : Bool} (h : xs[i]? = some b) :
    (x :: xs.map some ++ ys)[i + 1]? = some (some b) := by
  obtain ⟨hi, hb⟩ := List.getElem?_eq_some_iff.mp h
  simp [List.getElem?_append_left, hi, hb]

/-- A bit of the frame behind its sent part. -/
theorem getElem?_framed_rest (x : Option Bool) (xs : List Bool) (ys : List (Option Bool)) (i : Nat) :
    (x :: xs.map some ++ ys)[xs.length + 1 + i]? = ys[i]? := by
  rw [List.getElem?_append_right (by simp)]
  congr 1
  simp

/-- The sent part of the frame. -/
theorem framed_sent (x : Option Bool) (xs : List Bool) (ys : List (Option Bool)) :
    (((x :: xs.map some ++ ys).drop 1).take xs.length).map (·.getD false) = xs := by
  rw [List.cons_append, List.drop_one, List.tail_cons, List.take_left' (List.length_map _), List.map_map]
  exact List.map_id' _

/-- A SET-UP frame's 29 bits (Table 9-9). -/
theorem setup_layout (n : StnId) (wr : Bool) (a : BitVec 7) (d : BitVec 16) (bs : List (Option Bool)) (h : bs = (Out.setupFrame n wr a d).frame) :
    bs.length = 29 ∧ bs[0]? = some (some false) ∧ bs[1]? = some (some wr) ∧ bs[28]? = some (some true) ∧
    (∀ i, i < 7 → bs[2 + i]? = some (some (a.getLsbD (6 - i)))) ∧
    (wr = true → (∀ i, i < 16 → bs[9 + i]? = some (some (d.getLsbD (15 - i)))) ∧ evenParity (((bs.drop 1).take 25).map (·.getD false)) = false ∧
      bs[26]? = some none ∧ bs[27]? = some none) ∧
    (wr = false → evenParity (((bs.drop 1).take 9).map (·.getD false)) = false ∧ ∀ i, 10 ≤ i → i < 28 → bs[i]? = some none) := by
  have hlen := length_setupSent wr a d
  have hpar : evenParity (setupSent wr a d) = false := evenParity_closed _
  obtain ⟨hwr, haddr, hdata⟩ := getElem?_setupSent wr a d
  have hbs : bs = some false :: (setupSent wr a d).map some ++ (List.replicate (if wr then 2 else 18) none ++ [some true]) :=
    h.trans (setupBits_eq wr a d)
  have hsent := framed_sent (some false) (setupSent wr a d) (List.replicate (if wr then 2 else 18) none ++ [some true])
  have hrest := getElem?_framed_rest (some false) (setupSent wr a d) (List.replicate (if wr then 2 else 18) none ++ [some true])
  rw [← hbs, hlen] at hsent hrest
  refine ⟨?_, by rw [hbs]; rfl, hbs ▸ getElem?_framed _ _ _ hwr, ?_, fun i hi => ?_, fun hw => ⟨fun i hi => ?_, ?_, ?_, ?_⟩,
    fun hw => ⟨?_, fun i h1 h2 => ?_⟩⟩
  · cases wr <;> simp [hbs, hlen]
  · cases wr
    · exact (hrest 18).trans rfl
    · exact (hrest 2).trans rfl
  · rw [show 2 + i = i + 1 + 1 by omega, hbs]
    exact getElem?_framed _ _ _ (haddr i hi)
  · rw [show 9 + i = i + 8 + 1 by omega, hbs]
    exact getElem?_framed _ _ _ (hdata hw i hi)
  · subst hw
    exact (congrArg evenParity hsent).trans hpar
  · subst hw
    exact (hrest 0).trans rfl
  · subst hw
    exact (hrest 1).trans rfl
  · subst hw
    exact (congrArg evenParity hsent).trans hpar
  · subst hw
    obtain ⟨j, rfl⟩ : ∃ j, i = 9 + 1 + j := ⟨i - 10, by omega⟩
    have hj : j < 18 := by omega
    refine (hrest j).trans ((List.getElem?_append_left (List.length_replicate.symm ▸ hj)).trans ?_)
    exact List.getElem?_replicate_of_lt hj

/-- Settles O37: each layout of the frames. -/
theorem frameLayouts : Obligations.FrameLayouts := by
  refine ⟨fun d op => ⟨length_frame d op, readFrame_frame d op⟩, opcodeOf_table, fun c tag ph rep last j bs h => ?_,
    fun n fseq fn span nw mask period delay k phs w hk h => facetStart_layout n fseq fn span nw mask period delay k phs w hk h,
    fun n fseq k codes w hk h => payload_layout n fseq k codes w hk h,
    fun n fseq nblk kind value => ⟨?_, rfl, control_layout n kind value⟩, setup_layout, reply_layout⟩
  · subst h
    obtain ⟨hlen, hres, haux, htag, hst, hlast⟩ := entry_slots c tag ph rep last j
    obtain ⟨h7, h6, h5, hj⟩ := lastByte_bits ph rep last j
    rw [hlast]
    exact ⟨hlen, hres, haux, htag, hst, h7, h6, h5, hj⟩
  · simp only [Out.blocks, controlBlock, Nat.add_assoc]

end Sys2Proof.Machine

namespace Sys2Proof.Machine
open Sys2Proof

/-! A host's requests to its function (R157, R162 to R168). -/

theorem hostOf_hostSender (h : PHost) : hostOf (hostSender h).toNat = some h := by
  revert h
  decide

/-- No other sender is a host's function. -/
theorem hostOf_eq_none (x : Sender) (hx : ∀ h : PHost, x ≠ hostSender h) : hostOf x.toNat = none := by
  revert x
  decide

/-- A host's request, where it is no write of a register by its number. -/
theorem exec_hostAccess (h : PHost) (p : RegPlace) (q : RegRequest) (s : State) (hpq : ∀ a v, ¬(p = .reg a ∧ q = .word v)) :
    exec (.registerWrite (hostSender h) p q) s = .next (s.hostAccess h p q) := by
  show Host.Outcome.next (s.regAccess (hostSender h) p q) = _
  unfold State.regAccess
  split
  · next a v => exact absurd ⟨rfl, rfl⟩ (hpq a v)
  · rw [hostOf_hostSender]

/-- The same request of a sender that is no host has no effect. -/
theorem exec_notHost (x : Sender) (p : RegPlace) (q : RegRequest) (s : State) (hx : ∀ h : PHost, x ≠ hostSender h)
    (hpq : ∀ a v, ¬(p = .reg a ∧ q = .word v)) : exec (.registerWrite x p q) s = .next s := by
  show Host.Outcome.next (s.regAccess x p q) = _
  unfold State.regAccess
  split
  · next a v => exact absurd ⟨rfl, rfl⟩ (hpq a v)
  · rw [hostOf_eq_none x hx]

theorem exec_cfg (h : PHost) (d : BitVec 10) (q : RegRequest) (s : State) :
    exec (.registerWrite (hostSender h) (.cfg d) q) s = .next (s.cfgAccess h d.toNat q) :=
  exec_hostAccess h _ _ s (fun _ _ e => nomatch e.1)

theorem exec_bar (h : PHost) (off : BitVec 15) (q : RegRequest) (s : State) :
    exec (.registerWrite (hostSender h) (.bar off) q) s = .next (s.barAccess h off q) :=
  exec_hostAccess h _ _ s (fun _ _ e => nomatch e.1)

theorem exec_noBar (h : PHost) (q : RegRequest) (s : State) :
    exec (.registerWrite (hostSender h) .noBar q) s = .next (s.hostAccess h .noBar q) :=
  exec_hostAccess h _ _ s (fun _ _ e => nomatch e.1)

/-! Configuration space -/

/-- A configuration read is answered, with a retry until the function is ready (R157). -/
theorem exec_cfgRead (h : PHost) (d : BitVec 10) (n : Nat) (s : State) (hl : s.cfgLive h = true) :
    exec (.registerWrite (hostSender h) (.cfg d) (.read n)) s =
      .next { s.leaveL1 h with out := s.out ++ [.cfgData h d (if (s.host h).ready then some (s.cfgShown h d.toNat) else none)] } := by
  have hd : ((d.toNat : Nat) : BitVec 10) = d := by simp
  rw [exec_cfg, State.cfgAccess, hd, State.cfgRead, if_pos hl]
  rfl

/-- A configuration write before the function is ready is told to retry (R157). -/
theorem exec_cfgWrite_retry (h : PHost) (d : BitVec 10) (n : Nat) (be : BitVec 4) (v : BitVec 32) (s : State) (hl : s.cfgLive h = true)
    (hr : (s.host h).ready = false) :
    exec (.registerWrite (hostSender h) (.cfg d) (.write n be v)) s = .next { s.leaveL1 h with out := s.out ++ [.cfgDone h true] } := by
  rw [exec_cfg, State.cfgAccess, State.cfgWrite, if_pos hl, hr]
  rfl

/-- A write of a dword that starts nothing stores its bits. -/
theorem cfgStore_plain (s : State) (h : PHost) (d : Nat) (be : BitVec 4) (v : BitVec 32) (hd : d ∉ [cfgCommand, cfgPmcsr, cfgMsixCtl, cfgDevCtl]) :
    s.cfgStore h d be v = s.setHost h ((s.host h).setDword d (cfgWritten d ((s.host h).dword d) v be)) := by
  simp only [List.mem_cons, List.not_mem_nil, or_false, not_or] at hd
  obtain ⟨h1, h2, h3, h4⟩ := hd
  simp only [State.cfgStore, if_neg h1, if_neg h2, if_neg h3, if_neg h4]

theorem exec_cfgWrite_plain (h : PHost) (d : BitVec 10) (n : Nat) (be : BitVec 4) (v : BitVec 32) (s : State) (hl : s.cfgLive h = true)
    (hr : (s.host h).ready = true) (hd : d.toNat ∉ [cfgCommand, cfgPmcsr, cfgMsixCtl, cfgDevCtl]) :
    exec (.registerWrite (hostSender h) (.cfg d) (.write n be v)) s =
      .next { (s.setHost h ((s.host h).setDword d.toNat (cfgWritten d.toNat ((s.host h).dword d.toNat) v be))).leaveL1 h with
        out := s.out ++ [.cfgDone h false] } := by
  rw [exec_cfg, State.cfgAccess, State.cfgWrite, if_pos hl, if_pos hr, cfgStore_plain s h _ be v hd]
  rfl

/-- A byte enable covers the eight bits of its byte. -/
theorem enableMask_bit (be : BitVec 4) {i : Nat} (hi : i < 32) : (enableMask be).getLsbD i = be.getLsbD (i / 8) := by
  have all : ∀ (be : BitVec 4) (i : Fin 32), (enableMask be).getLsbD i.val = be.getLsbD (i.val / 8) := by decide
  exact all be ⟨i, hi⟩

/-- No bit of a dword is both written and cleared by a 1. -/
theorem cfgRw_and_cfgW1c (d : Nat) : cfgRw d &&& cfgW1c d = 0#32 := by
  unfold cfgW1c
  split
  · rfl
  · rfl
  · rfl
  · rfl
  · rfl
  · rfl
  · exact BitVec.and_zero

/-- A configuration write by bits (log entry 101). -/
theorem cfgWritten_bit (d i : Nat) (old v : BitVec 32) (be : BitVec 4) (hi : i < 32) : (cfgWritten d old v be).getLsbD i =
    if be.getLsbD (i / 8) = true then (if (cfgRw d).getLsbD i = true then v.getLsbD i else old.getLsbD i && !((cfgW1c d).getLsbD i && v.getLsbD i))
    else old.getLsbD i := by
  have apart : ((cfgRw d).getLsbD i && (cfgW1c d).getLsbD i) = false := by
    rw [← BitVec.getLsbD_and, cfgRw_and_cfgW1c, BitVec.getLsbD_zero]
  simp only [cfgWritten, BitVec.getLsbD_and, BitVec.getLsbD_or, BitVec.getLsbD_not, enableMask_bit be hi, hi, decide_true, Bool.true_and]
  cases be.getLsbD (i / 8) with
  | false => simp
  | true =>
    cases hrw : (cfgRw d).getLsbD i with
    | false => simp [Bool.and_comm]
    | true =>
      rw [hrw, Bool.true_and] at apart
      simp [apart]

end Sys2Proof.Machine

namespace Sys2Proof.Machine
open Sys2Proof

/-! Errors that a host's function records (R167). -/

/-- A port that has recorded more: outside the AER capability's control, a bit that was set stays set, and the header log is as it was. -/
structure HostPort.Marks (p q : HostPort) : Prop where
  bits : ∀ d i, d ≠ cfgAerCap → p.cfgBit d i = true → q.cfgBit d i = true
  header : ∀ k, k < 4 → q.dword (0x47 + k) = p.dword (0x47 + k)

theorem HostPort.Marks.refl (p : HostPort) : p.Marks p := ⟨fun _ _ _ h => h, fun _ _ => rfl⟩

theorem HostPort.Marks.trans {p q r : HostPort} (a : p.Marks q) (b : q.Marks r) : p.Marks r :=
  ⟨fun d i hd h => b.bits d i hd (a.bits d i hd h), fun k hk => (b.header k hk).trans (a.header k hk)⟩

theorem HostPort.Marks.ite {p q r : HostPort} {c : Prop} [Decidable c] (a : p.Marks q) (b : p.Marks r) : p.Marks (if c then q else r) := by
  split
  · exact a
  · exact b

theorem HostPort.cfgBit_cfgOr_same (p : HostPort) (d : Nat) (bs : BitVec 32) (i : Nat) :
    (p.cfgOr d bs).cfgBit d i = (p.cfgBit d i || bs.getLsbD i) := by
  simp only [HostPort.cfgOr, HostPort.cfgBit, HostPort.dword_setDword_same, BitVec.getLsbD_or]

/-- Setting bits of a dword outside the header log. -/
theorem HostPort.Marks.cfgOr (p : HostPort) (d : Nat) (bs : BitVec 32) (hd : d < 0x47) : p.Marks (p.cfgOr d bs) := by
  refine ⟨fun e i _ h => ?_, fun k _ => HostPort.dword_setDword_ne _ _ (by omega)⟩
  by_cases he : e = d
  · rw [he] at h ⊢
    rw [HostPort.cfgBit_cfgOr_same, h, Bool.true_or]
  · exact (congrArg (BitVec.getLsbD · i) (HostPort.dword_setDword_ne _ _ he)).trans h

theorem HostPort.Marks.uncError (p : HostPort) (b : Nat) : p.Marks (p.uncError b) := by
  refine (HostPort.Marks.cfgOr p cfgUncStatus _ (by decide)).trans (HostPort.Marks.ite ⟨fun d i hd h => ?_, fun k _ => ?_⟩ (.refl _))
  · exact (congrArg (BitVec.getLsbD · i) (HostPort.dword_setDword_ne _ _ hd)).trans h
  · exact HostPort.dword_setDword_ne _ _ (by show 0x47 + k ≠ 0x46; omega)

/-- The bits of the Status register and of Device Status that an error sets first. -/
def HostPort.erred (p : HostPort) (e : TlpError) : HostPort :=
  let p0 := p.cfgOr cfgCommand (p.errStatus e)
  if decide (e = .unsupported) then p0.cfgOr cfgDevCtl 0x00080000#32 else p0

theorem HostPort.Marks.erred (p : HostPort) (e : TlpError) : p.Marks (p.erred e) :=
  (HostPort.Marks.cfgOr p cfgCommand _ (by decide)).trans (.ite (.cfgOr _ cfgDevCtl _ (by decide)) (.refl _))

/-- An unsupported request is detected in Device Status. -/
theorem HostPort.erred_unsupported (p : HostPort) : (p.erred .unsupported).cfgBit cfgDevCtl 19 = true :=
  (HostPort.cfgBit_cfgOr_same _ _ _ _).trans (Bool.or_true _)

/-- A Completer Abort is signalled in the Status register. -/
theorem HostPort.erred_completerAbort (p : HostPort) : (p.erred .completerAbort).cfgBit cfgCommand 27 = true :=
  (HostPort.cfgBit_cfgOr_same p cfgCommand 0x08000000#32 27).trans (Bool.or_true _)

/-- What an error records beside these bits. -/
theorem HostPort.Marks.error (p : HostPort) (e : TlpError) (advisory : Bool) : (p.erred e).Marks (p.error e advisory).1 := by
  have two (a b : BitVec 32) : (p.erred e).Marks (((p.erred e).cfgOr cfgDevCtl a).cfgOr cfgCorStatus b) :=
    (HostPort.Marks.cfgOr _ cfgDevCtl a (by decide)).trans (.cfgOr _ cfgCorStatus b (by decide))
  have unc (a : BitVec 32) (b : Nat) : (p.erred e).Marks (((p.erred e).cfgOr cfgDevCtl a).uncError b) :=
    (HostPort.Marks.cfgOr _ cfgDevCtl a (by decide)).trans (.uncError _ b)
  have first : (if decide (e = .unsupported) = true then (p.cfgOr cfgCommand (p.errStatus e)).cfgOr cfgDevCtl 0x00080000#32
      else p.cfgOr cfgCommand (p.errStatus e)) = p.erred e := rfl
  unfold HostPort.error
  simp only [first, apply_ite Prod.fst]
  refine .ite (.ite (two _ _) ((two _ _).trans (.uncError _ _))) (.ite (.ite ?_ (unc _ _)) (unc _ _))
  exact (unc _ _).trans (.cfgOr _ cfgCommand _ (by decide))

/-- The port with its header log, where the error takes it. -/
def HostPort.logged (p : HostPort) (h : PHost) (e : TlpError) (advisory : Bool) : HostPort :=
  if p.logsHeader e advisory then p.takeHeader h else p

/-- The header log's four dwords hold the header. -/
theorem HostPort.dword_takeHeader (p : HostPort) (h : PHost) (k : Nat) (hk : k < 4) : (p.takeHeader h).dword (0x47 + k) =
    BitVec.ofNat 32 ((Config.tlpHeader h.val p.headers).toNat / 2 ^ (32 * k)) := by
  have e (x : BitVec 128) : ((x >>> (32 * k)).setWidth 32) = BitVec.ofNat 32 (x.toNat / 2 ^ (32 * k)) := by
    apply BitVec.eq_of_toNat_eq
    rw [BitVec.toNat_setWidth, BitVec.toNat_ushiftRight, Nat.shiftRight_eq_div_pow, BitVec.toNat_ofNat]
  rw [← e]
  show ((p.logHeader (Config.tlpHeader h.val p.headers))).dword (0x47 + k) = _
  unfold HostPort.logHeader
  interval_cases k <;> simp [HostPort.dword_setDword_ne]

/-- The first error of a request logs its header (R167). -/
theorem HostPort.logged_first (p : HostPort) (h : PHost) (hf : p.firstError TlpError.unsupported.bitNo = true) :
    p.logged h .unsupported false = p.takeHeader h := by
  have : p.logsHeader .unsupported false = true := by simp [HostPort.logsHeader, hf]
  rw [HostPort.logged, if_pos this]

/-- An error changes the function's port, by what it records, and sends at most a message. -/
theorem reportError_eq (s : State) (h : PHost) (e : TlpError) (advisory : Bool) (hup : (s.host h).up = true) :
    ∃ (q : HostPort) (o : List Out), s.reportError h e advisory = { s.setHost h q with out := s.out ++ o } ∧
      (((s.host h).logged h e advisory).erred e).Marks q := by
  have hm := HostPort.Marks.error ((s.host h).logged h e advisory) e advisory
  have still (q : HostPort) : s.setHost h q = { s.setHost h q with out := s.out ++ [] } := by
    rw [List.append_nil]
    rfl
  unfold State.reportError
  dsimp only
  rw [if_pos hup]
  split
  · split
    · exact ⟨_, [], still _, ⟨hm.bits, hm.header⟩⟩
    · exact ⟨_, [_], rfl, ⟨hm.bits, hm.header⟩⟩
  · exact ⟨_, [], still _, hm⟩

end Sys2Proof.Machine

namespace Sys2Proof.Machine
open Sys2Proof

/-! A host's memory requests (R164, R165), and all of its requests. -/

theorem up_of_cfgLive {s : State} {h : PHost} (hl : s.cfgLive h = true) : (s.host h).up = true := by
  simp only [State.cfgLive, Bool.and_eq_true] at hl
  exact hl.2

/-- A function that answers requests to BAR0 answers configuration requests. -/
theorem cfgLive_of_barLive {s : State} {h : PHost} (hl : s.barLive h = true) : s.cfgLive h = true := by
  simp only [State.barLive, Bool.and_eq_true] at hl
  obtain ⟨⟨⟨⟨⟨hs, he⟩, -⟩, hu⟩, -⟩, -⟩ := hl
  simp only [State.cfgLive, hs, he, hu, Bool.and_self]

theorem up_of_barLive {s : State} {h : PHost} (hl : s.barLive h = true) : (s.host h).up = true := up_of_cfgLive (cfgLive_of_barLive hl)

@[simp] theorem State.leaveL1_regs (s : State) (h : PHost) : (s.leaveL1 h).regs = s.regs := rfl

@[simp] theorem State.leaveL1_host (s : State) (h : PHost) : (s.leaveL1 h).host h = { s.host h with l1 := false } :=
  State.host_setHost_same _ _ _

/-- What an error leaves as it was, and what the function's port then holds. -/
theorem reportError_facts (s : State) (h : PHost) (e : TlpError) (advisory : Bool) (hup : (s.host h).up = true) :
    (s.reportError h e advisory).regs = s.regs ∧ (s.reportError h e advisory).rest = s.rest ∧
      (((s.host h).logged h e advisory).erred e).Marks ((s.reportError h e advisory).host h) := by
  obtain ⟨q, o, eq, hm⟩ := reportError_eq s h e advisory hup
  rw [eq]
  refine ⟨rfl, rfl, ?_⟩
  show HostPort.Marks _ ((s.setHost h q).host h)
  rwa [State.host_setHost_same]

/-- An unsupported request is detected. -/
theorem reportError_unsupported (s : State) (h : PHost) (advisory : Bool) (hup : (s.host h).up = true) :
    ((s.reportError h .unsupported advisory).host h).cfgBit cfgDevCtl 19 = true :=
  (reportError_facts s h .unsupported advisory hup).2.2.bits _ _ (by decide) (HostPort.erred_unsupported _)

/-- A register's slot in BAR0 gives 18 bits (R18). -/
theorem exec_barRead_reg (h : PHost) (off : BitVec 15) (s : State) (hl : s.barLive h = true) (ho : off.toNat < 0x4000) :
    ∃ v : BitVec 32, v.toNat < 2 ^ 18 ∧ v.toNat = (s.readReg (hostSender h) (off.toNat / 4)).2.toNat ∧
      exec (.registerWrite (hostSender h) (.bar off) (.read 1)) s = .next { (s.readReg (hostSender h) (off.toNat / 4)).1.leaveL1 h with
        out := (s.readReg (hostSender h) (off.toNat / 4)).1.out ++ [.barData h off (some v)] } := by
  have hv := (s.readReg (hostSender h) (off.toNat / 4)).2.isLt
  have e : ((s.readReg (hostSender h) (off.toNat / 4)).2.zeroExtend 32).toNat = (s.readReg (hostSender h) (off.toNat / 4)).2.toNat := by
    rw [BitVec.toNat_setWidth]
    omega
  refine ⟨_, e ▸ hv, e, ?_⟩
  rw [exec_bar, State.barAccess, State.barRead, hl, if_neg (by decide), if_neg (by decide), if_pos ho]
  rfl

/-- A register's slot in BAR0 takes 18 bits (R18). -/
theorem exec_barWrite_reg (h : PHost) (off : BitVec 15) (v : BitVec 32) (s : State) (hl : s.barLive h = true) (ho : off.toNat < 0x4000) :
    exec (.registerWrite (hostSender h) (.bar off) (.write 1 0xF#4 v)) s = .next (s.writeReg (hostSender h) (off.toNat / 4) (v.truncate 18)) := by
  rw [exec_bar, State.barAccess, State.barWrite, hl, if_neg (by decide), if_pos (by omega), if_pos ⟨rfl, rfl⟩, if_pos ho]

/-- A read of more than one dword ends in Completer Abort (R165, R167). -/
theorem exec_barRead_long (h : PHost) (off : BitVec 15) (n : Nat) (s : State) (hl : s.barLive h = true) (hn : n ≠ 1) :
    ∃ t, exec (.registerWrite (hostSender h) (.bar off) (.read n)) s = .next t ∧ .barData h off none ∈ t.out ∧ t.regs = s.regs ∧
      (t.host h).cfgBit cfgCommand 27 = true := by
  obtain ⟨hregs, -, hm⟩ := reportError_facts s h .completerAbort true (up_of_barLive hl)
  refine ⟨((s.reportError h .completerAbort true).leaveL1 h).emit (.barData h off none), ?_, by simp, by simpa using hregs, ?_⟩
  · rw [exec_bar, State.barAccess, State.barRead, hl, if_neg (by decide), if_pos hn]
  · rw [State.host_emit, State.leaveL1_host]
    exact hm.bits _ _ (by decide) (HostPort.erred_completerAbort _)

/-- A write of anything but one full dword is unsupported (R165, R167). -/
theorem exec_barWrite_odd (h : PHost) (off : BitVec 15) (n : Nat) (be : BitVec 4) (v : BitVec 32) (s : State) (hl : s.barLive h = true)
    (ho : off.toNat < 0x4200) (hn : ¬(n = 1 ∧ be = 0xF#4)) :
    ∃ t, exec (.registerWrite (hostSender h) (.bar off) (.write n be v)) s = .next t ∧ t.regs = s.regs ∧ t.rest = s.rest ∧
      (t.host h).cfgBit cfgDevCtl 19 = true := by
  obtain ⟨hregs, hrest, -⟩ := reportError_facts s h .unsupported false (up_of_barLive hl)
  refine ⟨s.reportError h .unsupported false, ?_, hregs, hrest, reportError_unsupported s h false (up_of_barLive hl)⟩
  rw [exec_bar, State.barAccess, State.barWrite, hl, if_neg (by decide), if_pos ho, if_neg hn]

/-- A read that maps to no BAR is told so (R167). -/
theorem exec_noBar_read (h : PHost) (n : Nat) (s : State) (hl : s.cfgLive h = true) :
    ∃ t, exec (.registerWrite (hostSender h) .noBar (.read n)) s = .next t ∧ .unsupported h ∈ t.out ∧ t.regs = s.regs ∧
      (t.host h).cfgBit cfgDevCtl 19 = true ∧ (t.host h).l1 = false := by
  obtain ⟨hregs, -, -⟩ := reportError_facts s h .unsupported true (up_of_cfgLive hl)
  have hbit := reportError_unsupported s h true (up_of_cfgLive hl)
  refine ⟨((s.reportError h .unsupported true).leaveL1 h).emit (.unsupported h), ?_, by simp, by simpa using hregs, ?_, ?_⟩
  · rw [exec_noBar]
    show Host.Outcome.next (s.noBar h false) = _
    rw [State.noBar, if_pos hl]
    rfl
  · rw [State.host_emit, State.leaveL1_host]
    exact hbit
  · rw [State.host_emit, State.leaveL1_host]

/-- A write that maps to no BAR is unsupported, and the first error logs its header (R167). -/
theorem exec_noBar_write (h : PHost) (n : Nat) (be : BitVec 4) (v : BitVec 32) (s : State) (hl : s.cfgLive h = true) :
    ∃ t, exec (.registerWrite (hostSender h) .noBar (.write n be v)) s = .next t ∧ t.regs = s.regs ∧ (t.host h).cfgBit cfgDevCtl 19 = true ∧
      ((s.host h).firstError TlpError.unsupported.bitNo = true → ∀ k, k < 4 → (t.host h).dword (0x47 + k) =
        BitVec.ofNat 32 ((Config.tlpHeader h.val (s.host h).headers).toNat / 2 ^ (32 * k))) := by
  obtain ⟨hregs, -, hm⟩ := reportError_facts s h .unsupported false (up_of_cfgLive hl)
  refine ⟨s.reportError h .unsupported false, ?_, hregs, reportError_unsupported s h false (up_of_cfgLive hl), fun hf k hk => ?_⟩
  · rw [exec_noBar]
    show Host.Outcome.next (s.noBar h true) = _
    rw [State.noBar, if_pos hl]
    rfl
  · rw [hm.header k hk, (HostPort.Marks.erred _ _).header k hk, HostPort.logged_first _ h hf, HostPort.dword_takeHeader _ h k hk]

/-- The function's port with another MSI-X table is as live. -/
theorem barLive_setVectors (s : State) (h : PHost) (m : Map (BitVec 32)) :
    (s.setHost h { s.host h with vectors := m }).barLive h = s.barLive h := by
  unfold State.barLive
  rw [State.host_setHost_same]
  rfl

/-- The MSI-X table's addresses and data are written and read (R164, R166). -/
theorem exec_vectors (h : PHost) (off : BitVec 15) (v : BitVec 32) (s : State) (hl : s.barLive h = true) (h1 : 0x4000 ≤ off.toNat)
    (h2 : off.toNat < 0x4200) (h3 : (off.toNat - 0x4000) / 4 % 4 < 3) :
    ∃ t, exec (.registerWrite (hostSender h) (.bar off) (.write 1 0xF#4 v)) s = .next t ∧
      t = s.setHost h { s.host h with vectors := Map.set (fun _ => 0#32) (s.host h).vectors ((off.toNat - 0x4000) / 4) v } ∧
      exec (.registerWrite (hostSender h) (.bar off) (.read 1)) t = .next { t.leaveL1 h with out := t.out ++ [.barData h off (some v)] } := by
  refine ⟨_, ?_, rfl, ?_⟩
  · rw [exec_bar, State.barAccess, State.barWrite, hl, if_neg (by decide), if_pos h2, if_pos ⟨rfl, rfl⟩, if_neg (by omega),
      State.vectorWrite, if_pos h3]
  · have shown (m : Map (BitVec 32)) : (s.setHost h { s.host h with vectors := Map.set (fun _ => 0#32) m ((off.toNat - 0x4000) / 4) v }).barShown h off.toNat = v := by
      simp only [State.barShown, State.host_setHost_same, if_pos (And.intro h1 h2), if_pos h3, HostPort.vecDword, Nat.div_add_mod, Map.get_set_same]
    rw [exec_bar, State.barAccess, State.barRead, barLive_setVectors, hl, if_neg (by decide), if_neg (by decide), if_neg (by omega), shown]
    rfl

/-- A function whose host is not live takes no request (R157, R162). -/
theorem hostAccess_dead (s : State) (h : PHost) (p : RegPlace) (q : RegRequest) (hl : s.cfgLive h = false) : s.hostAccess h p q = s := by
  have hb : s.barLive h = false := by
    rw [← Bool.not_eq_true] at hl ⊢
    exact fun b => hl (cfgLive_of_barLive b)
  have noBar (w : Bool) : s.noBar h w = s := by rw [State.noBar, hl]; rfl
  have bar (off : BitVec 15) : s.barAccess h off q = s := by
    cases q <;> simp only [State.barAccess, State.barWrite, State.barRead, hb, Bool.not_false, if_true, noBar]
  cases p with
  | reg a => exact bar _
  | bar off => exact bar off
  | noBar => exact noBar _
  | cfg d => cases q <;> simp only [State.hostAccess, State.cfgAccess, State.cfgWrite, State.cfgRead, hl, Bool.false_eq_true, if_false]

/-- Settles O39: each request by its place. -/
theorem hostRequests : Obligations.HostRequests := by
  refine ⟨exec_cfgRead, fun h s h0 => ?_, exec_cfgWrite_retry, exec_cfgWrite_plain, cfgWritten_bit, exec_barRead_reg, exec_barWrite_reg,
    exec_barRead_long, exec_barWrite_odd, fun h n be v s hl => ⟨exec_noBar_read h n s hl, exec_noBar_write h n be v s hl⟩, exec_vectors,
    exec_notHost, fun h p q s hl hpq => ?_⟩
  · rw [State.cfgShown, h0, BitVec.zero_or]
    rfl
  · rw [exec_hostAccess h p q s hpq, hostAccess_dead s h p q hl]

end Sys2Proof.Machine

namespace Sys2Proof.Machine
open Sys2Proof

/-! The frames of the planes, the array and the power state (R25, R26, R44). -/

/-- No command that Safety.lean names as leaving the planes, region 63, the array, the power state or a store has that part in its
mask. -/
theorem keepsParts_mask (c : Instr) :
    (keepsPlanes c && (commandMask c).testBit 18) = false ∧ (keepsPhys63 c && (commandMask c).testBit 19) = false ∧
    (keepsDevice c && (commandMask c).testBit 20) = false ∧ (keepsTiles c && (commandMask c).testBit 17) = false ∧
    (keepsPower c && (commandMask c).testBit 16) = false ∧ (keepsStore c && (commandMask c).testBit 21) = false ∧
    (keepsStore c && (commandMask c).testBit 22) = false := by
  cases c <;> (dsimp only [commandMask]; exact ⟨rfl, rfl, rfl, rfl, rfl, rfl, rfl⟩)

/-- A kept part is outside the mask. -/
theorem outside_of_keeps {k b : Bool} (hc : k = true) (hm : (k && b) = false) : b = false := by
  rwa [hc, Bool.true_and] at hm

/-- Settles O47: parts 18, 19 and 20 of the commands' masks. -/
theorem planesFrame : Obligations.PlanesFrame := by
  intro c s t hI h
  obtain ⟨hPlanes, hPhys, hDev, -⟩ := keepsParts_mask c
  have frame := (exec_next hI h).frame
  refine ⟨fun hc => ?_, fun hc => frame.phys63 (outside_of_keeps hc hPhys), fun hc => frame.dev (outside_of_keeps hc hDev)⟩
  have out := outside_of_keeps hc hPlanes
  exact ⟨frame.planeA out, frame.planeB out, frame.sealA out, frame.sealB out, frame.devA out, frame.devB out⟩

/-- Settles O48: part 17 of the commands' masks. -/
theorem tilesFrame : Obligations.TilesFrame := by
  intro c s t hI h hc
  obtain ⟨-, -, -, hTiles, -⟩ := keepsParts_mask c
  exact (exec_next hI h).frame.arr (outside_of_keeps hc hTiles)

/-- Settles O49: parts 16, 21 and 22 of the commands' masks. -/
theorem powerFrame : Obligations.PowerFrame := by
  intro c s t hI h
  obtain ⟨-, -, -, -, hPower, hStore, hHeld⟩ := keepsParts_mask c
  have frame := (exec_next hI h).frame
  exact ⟨fun hc => frame.pwr (outside_of_keeps hc hPower),
    fun hc => ⟨frame.store (outside_of_keeps hc hStore), frame.heldWrites (outside_of_keeps hc hHeld)⟩⟩

end Sys2Proof.Machine

namespace Sys2Proof.Machine
open Sys2Proof

/-! Entry to STANDBY, OFF, DARK and WAKING (R43, R44). -/

/-- A one-bit field that reads 0 is no flag. -/
theorem flag_of_get_zero {s : State} {f : Fld} (h : s.get f = 0) : s.flag f = false := by
  rw [State.flag, h]
  rfl

/-- VSTBY's comparator is a bit of SUP_OUT alone. -/
theorem vstbyOk_of_out {s t : State} (h : t.get Reg.SUP_OUT_OUT = s.get Reg.SUP_OUT_OUT) : t.vstbyOk = s.vstbyOk := by
  rw [State.vstbyOk, h, State.vstbyOk]

/-- Nothing is powered: no enable is high, nothing is sequenced and no store runs (R43, R72). -/
structure Unpowered (t : State) : Prop where
  store : t.store = none
  seq : t.pwr.seq = .idle
  raised : t.pwr.raised = []
  enables : t.get Reg.SUP_EN_LEVEL = 0

theorem unpower_unpowered (s : State) : Unpowered s.unpower := by
  refine ⟨rfl, rfl, rfl, ?_⟩
  calc s.unpower.get Reg.SUP_EN_LEVEL
      = ((s.allLow.clearBuffer).put Reg.SUP_SCRIPT_RUNNING 0).get Reg.SUP_EN_LEVEL := rfl
    _ = (s.put Reg.SUP_EN_LEVEL 0).get Reg.SUP_EN_LEVEL := State.get_put_ne _ _ (by decide)
    _ = 0 := State.get_put_same _ _ _ (by decide) (by decide)

theorem unpower_vstbyOk (s : State) : s.unpower.vstbyOk = s.vstbyOk := by
  refine vstbyOk_of_out ?_
  calc s.unpower.get Reg.SUP_OUT_OUT
      = ((s.put Reg.SUP_EN_LEVEL 0).put Reg.SUP_SCRIPT_RUNNING 0).get Reg.SUP_OUT_OUT := rfl
    _ = s.get Reg.SUP_OUT_OUT := State.get_put_two _ _ _ (by decide) (by decide)

theorem enterOff_unpowered (s : State) : Unpowered s.enterOff := by
  obtain ⟨hstore, hseq, hraised, hen⟩ := unpower_unpowered s.keepAbandon
  exact ⟨hstore, hseq, hraised, hen⟩

/-- DARK, or OFF without VSTBY, has nothing powered (R43). -/
theorem enterDark_unpowered (s : State) : Unpowered s.enterDark := by
  obtain ⟨hstore, hseq, hraised, hen⟩ := unpower_unpowered s
  unfold State.enterDark
  dsimp only
  split
  · exact enterOff_unpowered _
  · split <;> exact ⟨hstore, hseq, hraised, hen⟩

/-- With VSTBY good the state without rails is DARK (Table 1-7). -/
theorem enterDark_dark (s : State) (h : s.vstbyOk = true) : s.enterDark.pwr.st = .dark := by
  unfold State.enterDark
  dsimp only
  rw [unpower_vstbyOk, h, if_neg (by decide)]
  split <;> rfl

/-- A wake that ends without a store (R42, Table 1-8). -/
theorem wakeAbort_unpowered (s : State) : Unpowered s.wakeAbort := by
  obtain ⟨hstore, hseq, hraised, hen⟩ := enterDark_unpowered s
  exact ⟨hstore, hseq, hraised, hen⟩

/-- A wake that meets a running page write waits with its record read (R145; log entry 17). -/
theorem enterWaking_waits (s : State) (last : Nat) (hl : last < 4) (hb : s.keepBusy = true) :
    (s.enterWaking last).pwr.scriptWait = some false ∧ (s.enterWaking last).get Reg.ID_RESET_LAST = last ∧
    (s.enterWaking last).get Reg.SUP_SCRIPT_FAILED = 0 := by
  have wait : (s.enterWaking last).pwr.scriptWait = some false := congrArg (fun t : State => t.pwr.scriptWait) (if_pos hb)
  have regs (g : Fld) : (s.enterWaking last).get g = ((s.put Reg.ID_RESET_LAST last).put Reg.SUP_SCRIPT_FAILED 0).get g :=
    (congrArg (fun t : State => t.get g) (if_pos hb)).trans rfl
  refine ⟨wait, ?_, ?_⟩
  · rw [regs, State.get_put_ne _ _ (by decide)]
    exact State.get_put_same _ _ _ (by decide) hl
  · rw [regs]
    exact State.get_put_same _ _ _ (by decide) (by decide)

theorem exec_darkToWaking {s : State} (hst : s.pwr.st = .dark) (hw : s.mayWake = true) :
    exec .darkToWaking s = .next (s.enterWaking 2) :=
  congrArg Host.Outcome.next (if_pos ⟨hst, hw⟩)

/-- Settles O1: each entry by the command that makes it. -/
theorem powerStateEntry : Obligations.PowerStateEntry := by
  refine ⟨fun s hoff => ?_, fun s hst => ?_, fun s hst hw hh => ?_, fun s hst hw => ?_, fun s hst hw hb => ?_⟩
  · exact ⟨s.standbyFromOff, congrArg Host.Outcome.next (if_pos hoff), standbyFromOff_st s, rfl, rfl, rfl, rfl, rfl, rfl, rfl⟩
  · exact ⟨s.enterOff, congrArg Host.Outcome.next (if_pos hst), rfl, rfl, rfl⟩
  · have hold : ¬s.flag Reg.SUP_PWR_HOLD = true := by rw [flag_of_get_zero hh]; decide
    exact ⟨_, congrArg Host.Outcome.next (if_pos ⟨hst, hw, hold⟩), enterWaking_st _ _⟩
  · exact ⟨_, exec_darkToWaking hst hw, enterWaking_st _ _⟩
  · exact ⟨_, exec_darkToWaking hst hw, enterWaking_waits s 2 (by decide) hb⟩

end Sys2Proof.Machine

namespace Sys2Proof.Machine
open Sys2Proof

/-! The first-fail latch (R151, R152). -/

/-- SUP_FIRST as a capture writes it (R151). -/
def State.firstWord (s : State) (c : Nat) (high timeout : Bool) : Nat :=
  2 ^ 17 + b2n timeout * 2 ^ 16 + b2n high * 2 ^ 15 + c * 2 ^ 11 + s.pwr.st.code * 2 ^ 8 + 2 ^ 7 + b2n (s.flag Reg.RTC_STATUS_OSF) * 2 ^ 6

/-- With no spill pending the latch takes the channel and the time stamp. -/
theorem capture_eq (s : State) (c : Nat) (high timeout : Bool) (h : s.get Reg.SUP_FIRST_SPILL_PENDING = 0) :
    s.capture c high timeout = ((s.setReg 0x124 (BitVec.ofNat 18 (s.firstWord c high timeout))).setReg 0x125 (BitVec.ofNat 18 s.stamp)).setReg
      0x126 (BitVec.ofNat 18 (s.stamp / 2 ^ 18)) :=
  if_neg (by rw [flag_of_get_zero h]; decide)

/-- What the first-fail latch shows of channel c's capture in `s`. -/
structure Captured (s : State) (c : Nat) (high timeout : Bool) (u : State) : Prop where
  valid : u.get Reg.SUP_FIRST_VALID = 1
  kind : u.get Reg.SUP_FIRST_KIND = b2n timeout
  side : u.get Reg.SUP_FIRST_SIDE = b2n high
  channel : u.get Reg.SUP_FIRST_CHANNEL = c
  state : u.get Reg.SUP_FIRST_STATE = s.pwr.st.code
  spill : u.get Reg.SUP_FIRST_SPILL_PENDING = 1
  time : u.get36 Reg.SUP_FIRST_T0 Reg.SUP_FIRST_T1 = s.stamp

theorem stamp_lt (s : State) : s.stamp < 2 ^ 36 := Nat.mod_lt _ (by decide)

theorem captured_capture (s : State) (c : Nat) (high timeout : Bool) (hc : c < 12) (h : s.get Reg.SUP_FIRST_SPILL_PENDING = 0) :
    Captured s c high timeout (s.capture c high timeout) := by
  rw [capture_eq s c high timeout h]
  have hv := b2n_lt high
  have ht := b2n_lt timeout
  have ho := b2n_lt (s.flag Reg.RTC_STATUS_OSF)
  have hs := code_lt s.pwr.st
  obtain ⟨valid, kind, side, channel, state⟩ := word_fields (b2n high) (b2n timeout) (b2n (s.flag Reg.RTC_STATUS_OSF)) c s.pwr.st.code hv ht ho
    (by omega) hs
  have word : (((s.setReg 0x124 (BitVec.ofNat 18 (s.firstWord c high timeout))).setReg 0x125 (BitVec.ofNat 18 s.stamp)).setReg
      0x126 (BitVec.ofNat 18 (s.stamp / 2 ^ 18))).reg 0x124 = BitVec.ofNat 18 (s.firstWord c high timeout) := by
    rw [State.reg_setReg_ne _ _ (by decide), State.reg_setReg_ne _ _ (by decide), State.reg_setReg_same]
  have pending : bits (BitVec.ofNat 18 (s.firstWord c high timeout)).toNat 7 7 = 1 := by
    simp only [State.firstWord, BitVec.toNat_ofNat, bits]
    omega
  have field {hi lo v : Nat} (e : bits (BitVec.ofNat 18 (s.firstWord c high timeout)).toNat hi lo = v) :
      (((s.setReg 0x124 (BitVec.ofNat 18 (s.firstWord c high timeout))).setReg 0x125 (BitVec.ofNat 18 s.stamp)).setReg
      0x126 (BitVec.ofNat 18 (s.stamp / 2 ^ 18))).get ⟨0x124, hi, lo⟩ = v := by
    rw [State.get, word, e]
  refine ⟨field valid, field kind, field side, field channel, field state, field pending, ?_⟩
  have hlt := stamp_lt s
  rw [State.get36]
  show (State.reg _ 0x125).toNat + 2 ^ 18 * (State.reg _ 0x126).toNat = s.stamp
  rw [State.reg_setReg_ne _ _ (by decide), State.reg_setReg_same, State.reg_setReg_same, BitVec.toNat_ofNat, BitVec.toNat_ofNat]
  omega

/-- A capture changes the latch alone, or SUP_EVENT where the latch is full. -/
theorem capture_reg_ne (s : State) (c : Nat) (high timeout : Bool) {a : Nat} (ha : a ≠ 0x122 ∧ a ≠ 0x124 ∧ a ≠ 0x125 ∧ a ≠ 0x126) :
    (s.capture c high timeout).reg a = s.reg a := by
  obtain ⟨h2, h4, h5, h6⟩ := ha
  unfold State.capture
  split
  · exact event_reg_ne _ _ _ _ _ _ h2
  · rw [State.reg_setReg_ne _ _ h6, State.reg_setReg_ne _ _ h5, State.reg_setReg_ne _ _ h4]

/-! The rail script (R145 to R149). -/

theorem exec_reload {x : Sender} {s : State} (hr : s.reaches x 0x128 true = true) (hx : isH0 x = true) (hb : s.keepBusy = false) :
    exec (.reload x) s = .next s.reloadScript := by
  have h : s.reload x = s.reloadScript := (if_pos hx).trans (if_neg (by rw [hb]; decide))
  exact congrArg Host.Outcome.next ((if_pos hr).trans h)

theorem reloadScript_valid {s : State} {p : List Nat} (hp : s.userRecord = some p) :
    s.reloadScript = (if s.pwr.seq = .idle then ((s.loadRecord p).setSteps ((recordSteps p).map RawStep.step) true).freeFollow
      else s.loadRecord p).warnFollow := by
  rw [State.reloadScript, hp]

theorem atDelay_of {s : State} {x : ScriptStep} (hx : s.curStep = some x) (hd : x.op = .delay) : s.atDelay = true := by
  rw [State.atDelay, hx]
  exact decide_eq_true hd

theorem exec_scriptDelayDone_wake {s : State} {x : ScriptStep} (hw : s.pwr.scriptWait = none) (hx : s.curStep = some x) (hd : x.op = .delay)
    (hq : s.pwr.seq = .wake) : exec .scriptDelayDone s = .next s.nextPos.wakeGo := by
  show execScriptDelayDone s = _
  rw [execScriptDelayDone, if_pos ⟨by rw [hw]; decide, atDelay_of hx hd⟩, hq]

theorem exec_scriptDelayDone_shutdown {s : State} {x : ScriptStep} (hw : s.pwr.scriptWait = none) (hx : s.curStep = some x)
    (hd : x.op = .delay) (hq : s.pwr.seq = .shutdown) : exec .scriptDelayDone s = .next s.nextPos.shutdownGo := by
  show execScriptDelayDone s = _
  rw [execScriptDelayDone, if_pos ⟨by rw [hw]; decide, atDelay_of hx hd⟩, hq]

theorem waitedPg_of {s : State} {x : ScriptStep} {c : Nat} (hq : s.pwr.seq = .wake) (hw : s.pwr.scriptWait = none) (hx : s.curStep = some x)
    (hc : x.op = .waitPg c) : s.waitedPg = some c := by
  rw [State.waitedPg, if_pos ⟨hq, by rw [hw]; decide⟩, hx]
  dsimp only
  rw [hc]

theorem exec_waitPgDone {s : State} {c : Nat} (hc : s.waitedPg = some c) (ho : bit (s.get Reg.SUP_OUT_OUT) c = false) :
    exec .waitPgDone s = .next (s.armGate c).nextPos.wakeGo := by
  show execWaitPgDone s = _
  rw [execWaitPgDone, hc]
  exact congrArg Host.Outcome.next (if_neg (by rw [ho]; decide))

theorem exec_waitPgTimeout {s : State} {c : Nat} (hc : s.waitedPg = some c) (above : Bool) :
    exec (.waitPgTimeout above) s = .next (((((s.allLow.capture c above true).supEvent Reg.SUP_EVENT_SCRIPT_FAIL).put Reg.SUP_SCRIPT_FAILED 1).put
      Reg.SUP_SCRIPT_STEP s.pwr.pos).enterStandby true) := by
  show execWaitPgTimeout above s = _
  rw [execWaitPgTimeout, hc]

/-- The reverse shutdown drops the newest enable and waits while another is up (R149). -/
theorem reverseDrop_more {s : State} {g k : Nat} {gs : List Nat} (hr : s.pwr.raised = g :: k :: gs) (hk : k ≠ g) :
    s.reverseDrop = (s.dropEn g).showStep true := by
  have up : (s.dropEn g).pwr.raised.isEmpty = false := by
    show (s.pwr.raised.filter (fun x => decide (x ≠ g))).isEmpty = false
    simp [hr, hk]
  rw [State.reverseDrop, hr]
  dsimp only
  rw [up, if_neg (by decide)]

theorem dropEn_level (s : State) (g : Nat) (hg : g < 8) : (s.dropEn g).get (Reg.SUP_EN_LEVEL.at g) = 0 :=
  State.get_put_same _ (Reg.SUP_EN_LEVEL.at g) _ (by show 0 + g < 18; omega) (Nat.two_pow_pos _)

theorem waitsCPll_of {s : State} (hst : s.pwr.st = .waking) (hr : s.pwr.railDone = true) (hl : s.pwr.cpllLocked = false) : s.waitsCPll = true := by
  simp [State.waitsCPll, hst, hr, hl]

/-- A WAIT_PG that times out drops every enable and latches its channel before STANDBY is entered (R147). -/
theorem waitPgTimeout_latch (s : State) (c : Nat) (above : Bool) (hc : c < 12) (hs : s.get Reg.SUP_FIRST_SPILL_PENDING = 0) :
    (s.allLow.capture c above true).get Reg.SUP_EN_LEVEL = 0 ∧ Captured s.allLow c above true (s.allLow.capture c above true) := by
  have spill : s.allLow.get Reg.SUP_FIRST_SPILL_PENDING = 0 := (State.get_put_ne s (f := Reg.SUP_EN_LEVEL) 0 (by decide)).trans hs
  refine ⟨?_, captured_capture _ _ _ _ hc spill⟩
  rw [State.get, capture_reg_ne _ _ _ _ (by decide)]
  exact State.get_put_same s Reg.SUP_EN_LEVEL 0 (by decide) (by decide)

/-- Settles O2: each command by the script's own operation. -/
theorem railScriptSteps : Obligations.RailScriptSteps := by
  refine ⟨fun x s p hr hx hb hp hq => ?_, fun x s p hr hx hb hp hq => ?_, loadRecord_regs, fun s x hw hx hd hq => ?_, fun s x hw hx hd hq => ?_,
    fun s x c hq hw hx hc ho => ?_, fun above s x c hq hw hx hc hlt hs => ?_, fun s g k gs hq hr hk hg => ?_, fun s hst hr hl => ?_,
    fun s hst hr hl => ?_⟩
  · rw [exec_reload hr hx hb, reloadScript_valid hp, if_neg hq]
  · rw [exec_reload hr hx hb, reloadScript_valid hp, if_pos hq]
  · exact ⟨exec_scriptDelayDone_wake hw hx hd hq, rfl⟩
  · exact exec_scriptDelayDone_shutdown hw hx hd hq
  · exact ⟨(s.armGate c).nextPos, exec_waitPgDone (waitedPg_of hq hw hx hc) ho, rfl, rfl⟩
  · obtain ⟨low, latch⟩ := waitPgTimeout_latch s c above hlt hs
    exact ⟨_, exec_waitPgTimeout (waitedPg_of hq hw hx hc) above, low, latch.valid, latch.kind, latch.side, latch.channel⟩
  · refine ⟨_, (congrArg Host.Outcome.next (if_pos hq)).trans (congrArg Host.Outcome.next (reverseDrop_more hr hk)), ?_, ?_⟩
    · exact (State.get_put_two _ _ _ (by show 0x127 ≠ 0x128; decide) (by show 0x127 ≠ 0x128; decide)).trans (dropEn_level s g hg)
    · show s.pwr.raised.filter (fun x => decide (x ≠ g)) = _
      simp [hr]
  · exact congrArg Host.Outcome.next (if_pos (waitsCPll_of hst hr hl))
  · obtain ⟨hstore, hseq, hraised, hen⟩ := wakeAbort_unpowered s
    exact ⟨_, congrArg Host.Outcome.next (if_pos (waitsCPll_of hst hr hl)), rfl, rfl, hstore, hen, hraised, hseq, fun hv => enterDark_dark s hv⟩

end Sys2Proof.Machine

namespace Sys2Proof.Machine
open Sys2Proof

/-! Resets, straps and power requests (R46 to R50, R61). -/

/-- RESET_N's fall in RUN (R44, R48). -/
theorem resetLow_run {s : State} (hst : s.pwr.st = .run) :
    s.resetLow = ({ s with pwr := { s.pwr with resetN := false } } : State).resetVolley true := by
  rw [State.resetLow]
  dsimp only
  rw [hst]

/-- RESET_N's fall in STANDBY or DARK (R48, R61). -/
theorem resetLow_idle {s : State} (hst : s.pwr.st = .standby ∨ s.pwr.st = .dark) :
    s.resetLow = ({ s with pwr := { s.pwr with resetN := false } } : State).strapBegin s.pwr.strapFromOff := by
  rw [State.resetLow]
  dsimp only
  rcases hst with hst | hst <;> rw [hst]

/-- What a reset's Volley starts with (R50, Table 4-3). -/
theorem resetVolley_facts (s : State) (strap : Bool) : (s.resetVolley strap).pwr.st = .volley ∧ (s.resetVolley strap).pwr.strapPending = strap ∧
    (s.resetVolley strap).store = some { cause := .reset, fromVin := true, channel := 15 } := by
  obtain ⟨hst, hstore, -⟩ := enterVolley_start s .reset true 15
  exact ⟨hst, rfl, hstore⟩

theorem resetHigh_strap {s : State} (h : s.pwr.strapOn = true) :
    s.resetHigh = { s with pwr := { s.pwr with resetN := true, strapTimed := true, samp1 := none, samp2 := none } } :=
  if_pos h

/-- The first sample, and then the second, of a timed STRAP phase (R61). -/
theorem exec_strapSample_first {s : State} (mp : BitVec 8) (ho : s.pwr.strapOn = true) (ht : s.pwr.strapTimed = true)
    (h1 : s.pwr.samp1 = none) : exec (.strapSample mp) s = .next { s with pwr := { s.pwr with samp1 := some mp } } := by
  show execStrapSample mp s = _
  rw [execStrapSample, if_pos ⟨ho, ht⟩, if_pos (by rw [h1]; rfl)]

theorem exec_strapSample_second {s : State} (a mp : BitVec 8) (ho : s.pwr.strapOn = true) (ht : s.pwr.strapTimed = true)
    (h1 : s.pwr.samp1 = some a) (h2 : s.pwr.samp2 = none) :
    exec (.strapSample mp) s = .next { s with pwr := { s.pwr with samp2 := some mp } } := by
  show execStrapSample mp s = _
  rw [execStrapSample, if_pos ⟨ho, ht⟩, if_neg (by rw [h1]; exact Bool.false_ne_true), if_pos (by rw [h2]; rfl)]

theorem exec_strapPhaseEnd {s : State} {a b : BitVec 8} (ho : s.pwr.strapOn = true) (ht : s.pwr.strapTimed = true)
    (h1 : s.pwr.samp1 = some a) (h2 : s.pwr.samp2 = some b) : exec .strapPhaseEnd s = .next (s.strapLatch a b) := by
  show execStrapPhaseEnd s = _
  rw [execStrapPhaseEnd, h1, h2]
  exact congrArg Host.Outcome.next (if_pos ⟨ho, ht⟩)

/-- Straps whose samples agree are latched; those that differ are marked (R61, R64). -/
theorem strapLatch_get (s : State) (a b : BitVec 8) : (s.strapLatch a b).get Reg.ID_STRAP_MP = (a &&& b).toNat ∧
    (s.strapLatch a b).get Reg.ID_STRAP_ERR = (a ^^^ b).toNat := by
  obtain ⟨hand, hxor⟩ := and_xor_lt a b
  have fields (u : State) (m k : Nat) (f : Fld) (hf : f.addr ≠ 0x003) :
      (u.putAll [(Reg.ID_STRAP_MP, (a &&& b).toNat), (Reg.ID_STRAP_ERR, (a ^^^ b).toNat), (Reg.ID_CONFIG_STN_EN, m), (Reg.ID_CONFIG_NSTN, k)]).get f =
        ((u.put Reg.ID_STRAP_MP (a &&& b).toNat).put Reg.ID_STRAP_ERR (a ^^^ b).toNat).get f :=
    State.get_put_two _ _ _ hf hf
  refine ⟨(fields _ _ _ Reg.ID_STRAP_MP (by decide)).trans ?_, (fields _ _ _ Reg.ID_STRAP_ERR (by decide)).trans ?_⟩
  · rw [State.get_put_apart _ _ (by decide) (.inl (by decide))]
    exact State.get_put_same _ _ _ (by decide) hand
  · exact State.get_put_same _ _ _ (by decide) hxor

/-- PWROK falls in RUN (R44, R47). -/
theorem exec_pwrokFall_run {s : State} (hp : s.pwr.pwrok = true) (hst : s.pwr.st = .run) :
    exec .pwrokFall s = .next (({ s with pwr := { s.pwr with pwrok := false } } : State).drainStart .pwrok) :=
  congrArg Host.Outcome.next ((if_pos hp).trans (if_pos hst))

theorem exec_pwrokFall_noted {s : State} (hp : s.pwr.pwrok = true) (hst : s.pwr.st ≠ .run) :
    exec .pwrokFall s = .next { s with pwr := { s.pwr with pwrok := false } } :=
  congrArg Host.Outcome.next ((if_pos hp).trans (if_neg hst))

@[simp] theorem clearHold_pwr (s : State) : s.clearHold.pwr = s.pwr := by
  unfold State.clearHold
  split <;> rfl

/-- PWROK rises with power (R47, Table 1-7). -/
theorem exec_pwrokRise_facts {s : State} (hp : s.pwr.pwrok = false) (hoff : s.pwr.st ≠ .off) (hlc : s.get Reg.ID_LC_STATE ≠ 3) :
    ∃ t, exec .pwrokRise s = .next t ∧ t.pwr.pwrok = true ∧ t.get Reg.SUP_PWR_HOLD = 0 ∧
      (s.pwr.st = .drain → s.pwr.drainBy = some .pwrok → t.pwr.drainDark = true) := by
  show ∃ t, execPwrokRise s = .next t ∧ _
  rw [execPwrokRise, if_neg (by rw [hp]; decide)]
  dsimp only
  rw [if_neg hoff]
  have hold := clearHold_get ({ s with pwr := { s.pwr with pwrok := true } } : State) hlc
  have power := clearHold_pwr ({ s with pwr := { s.pwr with pwrok := true } } : State)
  generalize ({ s with pwr := { s.pwr with pwrok := true } } : State).clearHold = u at hold power
  by_cases hd : u.pwr.st = .drain ∧ u.pwr.drainBy = some .pwrok
  · rw [if_pos hd]
    exact ⟨_, rfl, by rw [power], hold, fun _ _ => rfl⟩
  · rw [if_neg hd]
    refine ⟨_, rfl, by rw [power], hold, fun h1 h2 => absurd ?_ hd⟩
    rw [power]
    exact ⟨h1, h2⟩

/-- A warm reset by its key (R49). -/
theorem exec_warmReset {x : Sender} {s : State} (hr : s.reaches x 0x00A true = true) (hx : isH0 x = true) (hst : s.pwr.st = .run) :
    exec (.warmReset x 0x5A3#12) s = .next (s.resetVolley false) := by
  have key : (isH0 x && decide ((0x5A3#12 : BitVec 12).toNat = 0x5A3 ∧ s.pwr.st = .run)) = true := by
    rw [hx, hst]
    decide
  exact congrArg Host.Outcome.next ((if_pos hr).trans (if_pos key))

/-- Settles O4: the commands of RESET_N, of the STRAP phase, of PWROK and of the warm reset in turn. -/
theorem resetAndStraps : Obligations.ResetAndStraps := by
  refine ⟨fun s hn hst => ?_, fun s hn hst => ?_, fun s hn ho => ?_, fun mp s ho ht h1 => exec_strapSample_first mp ho ht h1,
    fun a mp s ho ht h1 h2 => exec_strapSample_second a mp ho ht h1 h2, fun a b s ho ht h1 h2 => ?_, fun s hp hst hI => ?_,
    fun s hp hst => exec_pwrokFall_noted hp hst, fun s hp hoff hlc => exec_pwrokRise_facts hp hoff hlc, fun x s hr hx hst => ?_⟩
  · exact ⟨_, congrArg Host.Outcome.next ((if_pos hn).trans (resetLow_run hst)), resetVolley_facts _ true⟩
  · exact ⟨_, congrArg Host.Outcome.next ((if_pos hn).trans (resetLow_idle hst)), rfl, rfl, rfl, rfl, rfl⟩
  · exact ⟨_, congrArg Host.Outcome.next ((if_neg (by rw [hn]; decide)).trans (resetHigh_strap ho)), rfl, rfl, rfl, rfl, rfl⟩
  · obtain ⟨mp, err⟩ := strapLatch_get s a b
    exact ⟨_, exec_strapPhaseEnd ho ht h1 h2, mp, err, rfl⟩
  · exact ⟨_, exec_pwrokFall_run hp hst, drainStart_st _ (inv_pwr hI _) _⟩
  · exact ⟨_, exec_warmReset hr hx hst, resetVolley_facts s false⟩

/-! Power-down and wake requests, and DRAIN's steps (R46, R47, R112, R128). -/

theorem exec_powerDownRequest {x : Sender} {s : State} (hr : s.reaches x 0x12B true = true)
    (hx : isH0 x = true ∨ hasRight x (s.get Reg.SUP_PWR_RIGHTS) = true) (hst : s.pwr.st = .run) :
    exec (.powerDownRequest x) s = .next (s.drainStart .request) := by
  have allowed : ((isH0 x || hasRight x (s.get Reg.SUP_PWR_RIGHTS)) && decide (s.pwr.st = .run)) = true := by
    rw [Bool.and_eq_true, Bool.or_eq_true, decide_eq_true_eq]
    exact ⟨hx, hst⟩
  exact congrArg Host.Outcome.next ((if_pos hr).trans (if_pos allowed))

/-- WAKE of H0 clears the hold (R47). -/
theorem exec_wake {x : Sender} {s : State} (hr : s.reaches x 0x12B true = true) (hx : isH0 x = true) (hlc : s.get Reg.ID_LC_STATE ≠ 3) :
    exec (.wake x) s = .next (s.put Reg.SUP_PWR_HOLD 0) :=
  congrArg Host.Outcome.next ((if_pos hr).trans ((if_pos hx).trans (if_neg hlc)))

/-- While a station is armed DRAIN stays at its imaging step. -/
theorem drainAdvance_armed {s : State} (h : ∃ n, n < 8 ∧ s.stnArmed n = true) : s.drainAdvance = s := by
  obtain ⟨n, hn, ha⟩ := h
  have armed : (List.range 8).any s.stnArmed = true := List.any_eq_true.mpr ⟨n, List.mem_range.mpr hn, ha⟩
  refine if_neg (fun hc => ?_)
  obtain ⟨-, -, none⟩ := hc
  rw [armed] at none
  exact absurd none (by decide)

/-- At the imaging limit the armed stations, each in a facet, are told to disarm (R46, step 2). -/
theorem drainLimit_facts (s : State) (harmed : ∃ n, n < 8 ∧ s.stnArmed n = true)
    (hfacet : ∀ n, n < 8 → s.stnArmed n = true → (s.stn n).facet.isSome = true) :
    s.drainLimit.pwr = s.pwr ∧ s.drainLimit.regs = s.regs ∧ ∀ n, n < 8 → s.stnArmed n = true → (s.drainLimit.stn n).disarming = true := by
  obtain ⟨hregs, hpwr, hdis⟩ := disarm_fold ((List.range 8).filter s.stnArmed) s (fun n hn => by
    obtain ⟨hmem, ha⟩ := List.mem_filter.mp hn
    exact ⟨ha, hfacet n (List.mem_range.mp hmem) ha⟩)
  obtain ⟨n, hn, ha⟩ := harmed
  have stay := drainAdvance_armed ⟨n, hn, (stnArmed_congr hregs n).trans ha⟩
  rw [State.drainLimit, stay]
  exact ⟨hpwr, hregs, fun m hm hma => hdis m (.inl (List.mem_filter.mpr ⟨List.mem_range.mpr hm, hma⟩))⟩

theorem drainStoreReady_of {s : State} (hst : s.pwr.st = .drain) (hstep : s.pwr.drainStep = .ready) (hno : s.store = none)
    (hfl : ∀ f, f ∈ s.flights → f.op = .checkpoint ∨ f.compl.isSome = true) : s.drainStoreReady = true := by
  have flights : s.flights.all (fun f => decide (f.op = .checkpoint) || f.compl.isSome) = true :=
    List.all_eq_true.mpr (fun f hf => by
      rw [Bool.or_eq_true, decide_eq_true_eq]
      exact hfl f hf)
  rw [State.drainStoreReady, flights, hst, hstep, hno]
  rfl

/-- DRAIN's store freezes the present store set under the next epoch (R46, R112, R128). -/
theorem drainStoreStart_facts (s : State) (hst : s.pwr.st = .drain) (hcp : s.noCheckpoint = false) (hne : s.get Reg.VOL_RETURN_NO_EPOCH = 0)
    (hwp : s.get Reg.ID_LC_WIPING = 0) : ∃ u : Store, s.drainStoreStart.store = some u ∧ u.cause = .drain ∧ u.frozen = true ∧
      u.regions = s.storeSet ∧ u.epoch = s.volNext ∧ s.drainStoreStart.pwr.drainStep = .storing ∧ s.drainStoreStart.pwr.st = .drain := by
  have apart (a : Nat) (ha : a ≠ 0x600) : (s.joinCkpt.storeBegin .drain true 15).reg a = s.reg a := State.reg_put_ne s _ ha
  have get (f : Fld) (hf : f.addr ≠ 0x600) : (s.joinCkpt.storeBegin .drain true 15).get f = s.get f := by rw [State.get, apart _ hf, State.get]
  obtain ⟨u, hstore, hcause, hfrozen, hregions, hepoch, hpwr⟩ := freeze_store (s.joinCkpt.storeBegin .drain true 15) _ rfl
    (flag_of_get_zero ((get _ (by decide)).trans hne)) (flag_of_get_zero ((get _ (by decide)).trans hwp))
  have set : u.regions = s.storeSet := hregions.trans (storeSet_congr (fun a _ _ => apart a (by omega)))
  have epoch : u.epoch = s.volNext := by
    rw [hepoch, State.volNext, State.get36, apart _ (by decide), apart _ (by decide)]
    rfl
  have start : s.drainStoreStart = { (s.joinCkpt.storeBegin .drain true 15).freeze with
      pwr := { (s.joinCkpt.storeBegin .drain true 15).freeze.pwr with drainStep := .storing } } := by
    rw [State.drainStoreStart, hcp]
    dsimp only
    rw [if_neg (by decide), hstore]
    exact if_neg (by rw [set]; exact Bool.false_ne_true)
  rw [start]
  exact ⟨u, hstore, hcause, hfrozen, set, epoch, rfl, (congrArg Pwr.st hpwr).trans hst⟩

/-- Settles O5: each request and each of DRAIN's steps. -/
theorem powerRequests : Obligations.PowerRequests := by
  refine ⟨fun x s hr hx hst hI => ?_, fun x s hr hx hlc => ?_, fun s hst hstep ha hf => ?_, fun s hst hstep hno hfl hcp hne hwp => ?_⟩
  · exact ⟨_, exec_powerDownRequest hr hx hst, drainStart_st s hI _⟩
  · exact ⟨_, exec_wake hr hx hlc, State.get_put_same _ _ _ (by decide) (by decide), fun a ha => State.reg_put_ne _ _ ha, rfl, rfl, rfl, rfl⟩
  · exact ⟨_, congrArg Host.Outcome.next (if_pos ⟨hst, hstep⟩), drainLimit_facts s ha hf⟩
  · obtain ⟨u, facts⟩ := drainStoreStart_facts s hst hcp hne hwp
    exact ⟨_, u, congrArg Host.Outcome.next (if_pos (drainStoreReady_of hst hstep hno hfl)), facts⟩

end Sys2Proof.Machine

namespace Sys2Proof.Machine
open Sys2Proof

/-! The clock sources (R42, R236, R251, R326, Table 1-5). -/

/-- The loss of REFIN or of the C PLL's lock in RUN (R42). -/
theorem clockLost_run {s : State} (hst : s.pwr.st = .run) :
    s.clockLost = ({ s with pwr := { s.pwr with refin := false } } : State).enterVolley .clock true 15 false := by
  rw [State.clockLost]
  dsimp only
  rw [hst]

/-- While DRAIN stores, the loss changes the clock alone (R42). -/
theorem clockLost_storing {s : State} (hst : s.pwr.st = .drain) (hstep : s.pwr.drainStep = .storing) (hstore : s.store.isSome = true) :
    s.clockLost = { s with pwr := { s.pwr with refin := false, backup := true } } := by
  have state : ({ s with pwr := { s.pwr with refin := false } } : State).pwr.st = .drain := hst
  have storing : ({ s with pwr := { s.pwr with refin := false } } : State).drainStoring = true :=
    Bool.and_eq_true_iff.mpr ⟨decide_eq_true hstep, hstore⟩
  rw [State.clockLost]
  generalize ht : ({ s with pwr := { s.pwr with refin := false } } : State) = t at storing state ⊢
  dsimp only
  rw [state, storing]
  exact (if_pos (Bool.true_or _)).trans (by subst ht; rw [← hst])

/-- One port's REFCLK is gone. -/
def State.dropRefclk (s : State) (port : Fin 2) : State :=
  { s with pwr := if port.val = 0 then { s.pwr with refclk0 := false } else { s.pwr with refclk1 := false } }

theorem dropRefclk_st (s : State) (port : Fin 2) : (s.dropRefclk port).pwr.st = s.pwr.st := by
  unfold State.dropRefclk
  dsimp only
  split <;> rfl

theorem dropRefclk_clocks (s : State) (port : Fin 2) :
    (s.dropRefclk port).pwr.refclk0 = (s.pwr.refclk0 && decide (port.val = 1)) ∧
    (s.dropRefclk port).pwr.refclk1 = (s.pwr.refclk1 && decide (port.val = 0)) := by
  unfold State.dropRefclk
  fin_cases port
  · exact ⟨(Bool.and_false _).symm, (Bool.and_true _).symm⟩
  · exact ⟨(Bool.and_true _).symm, (Bool.and_false _).symm⟩

/-- The hosts of a port whose links are up. -/
def State.upHosts (s : State) (port : Fin 2) : List PHost := (hostsOfPort port).filter (fun h => s.hostExists h && (s.host h).up)

/-- The loss of a REFCLK takes down the links of its port that are up. -/
theorem exec_refclkLoss (port : Fin 2) {s : State} (hs : s.serving = true) : exec (.refclkLoss port) s =
    .next (if (s.upHosts port).isEmpty then s.dropRefclk port else ((s.upHosts port).foldl State.linkGone (s.dropRefclk port)).cycleGo) := by
  have serving : (s.dropRefclk port).serving = true := serving_congr s _ hs (dropRefclk_st s port)
  have loss : exec (.refclkLoss port) s = .next (if (s.dropRefclk port).serving && !(s.upHosts port).isEmpty then
      ((s.upHosts port).foldl State.linkGone (s.dropRefclk port)).cycleGo else s.dropRefclk port) := rfl
  rw [loss, serving]
  cases (s.upHosts port).isEmpty <;> rfl

/-- In RUN no step of DRAIN ends. -/
theorem drainAdvance_run {s : State} (h : s.pwr.st = .run) : s.drainAdvance = s :=
  if_neg (fun hc => by rw [h] at hc; exact PState.noConfusion hc.1)

/-- The S PLL unlocks under one armed station in RUN (R42, R236, R251). -/
theorem exec_sPllUnlock_one {s : State} {n : StnId} (hI : s.Inv) (hst : s.pwr.st = .run) (hl : s.pwr.spll = true) (ha : s.armedStations = [n])
    (hd : (s.stn n.val).disarming = false) : exec .sPllUnlock s = .next (({ s with pwr := { s.pwr with spll := false } } : State).pllStall n) := by
  have serving : s.serving = true := by rw [State.serving, hst]; rfl
  have armed : ({ s with pwr := { s.pwr with spll := false } } : State).armedStations = [n] := ha
  obtain ⟨-, -, -, -, power⟩ := pllStall_facts _ (inv_pwr hI { s.pwr with spll := false }) n hd
  show execSPllUnlock s = _
  rw [execSPllUnlock, if_pos ⟨serving, hl⟩]
  dsimp only
  rw [armed]
  exact congrArg Host.Outcome.next (drainAdvance_run ((congrArg Pwr.st power).trans hst))

theorem mem_armedStations (s : State) (n : StnId) : n ∈ s.armedStations ↔ s.stnArmed n.val = true := by
  rw [State.armedStations, List.mem_filter]
  refine ⟨fun h => h.2, fun h => ⟨?_, h⟩⟩
  fin_cases n <;> decide

/-- The next window of a station takes its SOS from the next qualified pulse. -/
def Stn.opened (t : Stn) : Stn := { t with win := .arming }

/-- At relock each armed station's arming window opens, and nothing else changes (R42; log entry 46). -/
theorem relock_facts (s : State) : (s.armedStations.foldl (fun (t : State) n => t.setStn n.val (t.stn n.val).opened) s).pwr = s.pwr ∧
    (s.armedStations.foldl (fun (t : State) n => t.setStn n.val (t.stn n.val).opened) s).regs = s.regs ∧
    ∀ n : StnId, (s.armedStations.foldl (fun (t : State) n => t.setStn n.val (t.stn n.val).opened) s).stn n.val =
      if s.stnArmed n.val then (s.stn n.val).opened else s.stn n.val := by
  have distinct : s.armedStations.Nodup := List.Nodup.filter _ (by decide)
  refine ⟨foldl_keeps (fun t => t.pwr) ?_ _ _, foldl_keeps (fun t => t.regs) ?_ _ _, fun n => ?_⟩
  · exact fun _ _ => rfl
  · exact fun _ _ => rfl
  rw [foldl_setStn Stn.opened _ distinct s n]
  exact if_congr (mem_armedStations s n) rfl rfl

theorem setOsf_pwr (s : State) (cause : Fld) : (s.setOsf cause).pwr = s.pwr := by
  unfold State.setOsf
  dsimp only
  split
  · rfl
  · exact event_pwr _ _ _ _ _

/-- Settles O6: each clock source's loss, and its return where one is told. -/
theorem clockFailures : Obligations.ClockFailures := by
  refine ⟨fun s hst => ?_, fun s hst hstep hstore => ?_, fun port s hs hdown => ?_, fun port h s hs hup => ?_, fun n s hst hl ha hd hI => ?_,
    fun s hl => ?_, fun s hr => ?_, fun _ => rfl⟩
  · obtain ⟨hvolley, hstore, -, hbackup⟩ := enterVolley_start ({ s with pwr := { s.pwr with refin := false } } : State) .clock true 15
    exact ⟨_, congrArg Host.Outcome.next (clockLost_run hst), hvolley, hbackup, hstore⟩
  · exact congrArg Host.Outcome.next (clockLost_storing hst hstep hstore)
  · have none : s.upHosts port = [] := List.filter_eq_nil_iff.mpr (fun h hh => by simp [hdown h hh])
    rw [exec_refclkLoss port hs, none]
    exact ⟨_, rfl, rfl, rfl, rfl, rfl, dropRefclk_clocks s port⟩
  · obtain ⟨u, gone, up, ready, -, speed, width, stns, arr⟩ := linkGone_facts (s.dropRefclk port) h
    have one : s.upHosts port = [h] := hup
    rw [exec_refclkLoss port hs, one]
    exact ⟨u, congrArg (fun t : State => Host.Outcome.next t.cycleGo) gone, up, ready, speed, width, stns, arr⟩
  · obtain ⟨stalled, event, facet, win, power⟩ := pllStall_facts _ (inv_pwr hI { s.pwr with spll := false }) n hd
    exact ⟨_, exec_sPllUnlock_one hI hst hl ha hd, by rw [power], stalled, event, facet, win⟩
  · obtain ⟨power, regs, stns⟩ := relock_facts ({ s with pwr := { s.pwr with spll := true } } : State)
    exact ⟨_, congrArg Host.Outcome.next (if_neg (by rw [hl]; decide)), congrArg Pwr.spll power, regs, stns⟩
  · obtain ⟨osf, stop, event⟩ := setOsf_facts ({ s with pwr := { s.pwr with xtal := false } } : State) Reg.RTC_STATUS_STOP (.inl rfl)
    exact ⟨_, congrArg Host.Outcome.next (if_pos hr), congrArg Pwr.xtal (setOsf_pwr _ _), osf, stop, event⟩

end Sys2Proof.Machine

namespace Sys2Proof.Machine
open Sys2Proof

/-! What a power-fail leaves of a record read that waits (R145, R297). -/

theorem event_store (s : State) (ev : Fld) (a : Nat) (c : IClass) (hs : List PHost) : (s.event ev a c hs).store = s.store := by
  have one (t : State) (h : PHost) : (t.notify c h).store = t.store := by
    unfold State.notify State.msix
    dsimp only
    split_ifs <;> rfl
  unfold State.event
  dsimp only
  split_ifs
  · rfl
  · exact foldl_keeps (fun t => t.store) one hs _
  · rfl

theorem tornWord_power (s : State) (r : PageWrite) (e : Nat × BitVec 16) (old : Word) :
    (s.tornWord r e old).pwr = s.pwr ∧ (s.tornWord r e old).store = s.store := by
  unfold State.tornWord
  dsimp only
  split_ifs <;> exact ⟨rfl, rfl⟩

/-- An abandoned page write leaves the power state and a running store (R297). -/
theorem keepAbandon_power (s : State) : s.keepAbandon.pwr = s.pwr ∧ s.keepAbandon.store = s.store := by
  unfold State.keepAbandon
  dsimp only
  cases s.keep.run with
  | none =>
    dsimp only
    rw [if_neg Bool.false_ne_true]
    split <;> exact ⟨rfl, rfl⟩
  | some r =>
    have torn : ((r.words.zip r.old).foldl (fun t (e : (Nat × BitVec 16) × (Nat × Word)) => t.tornWord r e.1 e.2.2) s).pwr = s.pwr ∧
        ((r.words.zip r.old).foldl (fun t (e : (Nat × BitVec 16) × (Nat × Word)) => t.tornWord r e.1 e.2.2) s).store = s.store :=
      ⟨foldl_keeps (fun t => t.pwr) (fun t e => (tornWord_power t r _ _).1) _ s, foldl_keeps (fun t => t.store) (fun t e => (tornWord_power t r _ _).2) _ s⟩
    dsimp only
    generalize (r.words.zip r.old).foldl (fun t (e : (Nat × BitVec 16) × (Nat × Word)) => t.tornWord r e.1 e.2.2) s = u at torn
    obtain ⟨power, store⟩ := torn
    split_ifs <;> simp [State.clearBuffer, State.ledEvent, State.keepEvent, event_pwr, event_store, power, store]

theorem event_scriptWait (s : State) (ev : Fld) (a : Nat) (c : IClass) (hs : List PHost) :
    (s.event ev a c hs).pwr.scriptWait = s.pwr.scriptWait := congrArg Pwr.scriptWait (event_pwr s ev a c hs)

theorem warnFollow_scriptWait (s : State) : s.warnFollow.pwr.scriptWait = s.pwr.scriptWait := by
  unfold State.warnFollow
  dsimp only
  split_ifs
  · exact event_scriptWait _ _ _ _ _
  · rfl
  · rfl

theorem freeFollow_scriptWait (s : State) : s.freeFollow.pwr.scriptWait = s.pwr.scriptWait := by
  unfold State.freeFollow
  split
  · refine foldl_keeps (fun t => t.pwr.scriptWait) (fun t g => ?_) _ s
    split_ifs <;> rfl
  · rfl

theorem loadRecord_scriptWait (s : State) (p : List Nat) : (s.loadRecord p).pwr.scriptWait = s.pwr.scriptWait :=
  foldl_keeps (fun t => t.pwr.scriptWait) (fun t c => by rfl) (List.range 12) s

theorem reloadScript_scriptWait (s : State) : s.reloadScript.pwr.scriptWait = s.pwr.scriptWait := by
  unfold State.reloadScript
  cases s.userRecord with
  | none => exact event_scriptWait _ _ _ _ _
  | some p =>
    refine (warnFollow_scriptWait _).trans ?_
    split
    · exact (freeFollow_scriptWait _).trans (loadRecord_scriptWait s p)
    · exact loadRecord_scriptWait s p

/-- A RELOAD that waited is made, and none waits on. -/
theorem reloadResume_scriptWait {s : State} (h : s.pwr.scriptWait ≠ some false) : s.reloadResume.pwr.scriptWait = none := by
  unfold State.reloadResume
  split
  · exact reloadScript_scriptWait _
  · next h1 =>
    match e : s.pwr.scriptWait with
    | none => rfl
    | some false => exact absurd e h
    | some true => exact absurd e h1

theorem shed_scriptWait (s : State) : s.shed.pwr.scriptWait = s.pwr.scriptWait := by
  refine foldl_keeps (fun t => t.pwr.scriptWait) (fun t g => ?_) _ s
  split <;> rfl

theorem cutWave_pwr (s : State) (t : Store) : (s.cutWave t).pwr = s.pwr := by
  refine foldl_keeps (fun u => u.pwr) (fun u r => ?_) _ s
  unfold State.spoilPlane
  dsimp only
  split_ifs <;> rfl

theorem tearSeals_pwr (s : State) (t : Store) : (s.tearSeals t).pwr = s.pwr := by
  refine foldl_keeps (fun u => u.pwr) (fun u r => ?_) _ s
  dsimp only
  unfold State.writeSeal State.setSeal
  split_ifs <;> rfl

theorem Same.power {P : Nat → Prop} {s t : State} (h : Same P s t) : t.pwr = s.pwr := by
  obtain ⟨-, -, -, power, -⟩ := h
  exact power

theorem rasterAll_pwr (s : State) : s.rasterAll.pwr = s.pwr := by
  have stamp (t : State) (i : Nat) : (t.rasterStamp i t.stamp).pwr = t.pwr := by
    unfold State.rasterStamp
    dsimp only
    split
    · exact (touched_setW18s _ _ _).field State.pwr (by intros; rfl)
    · rfl
  have complete (t : State) (h : Sheet) : (t.rasterComplete h.rec_ t.stamp).pwr = t.pwr :=
    (Same.rasterComplete below_noYield t h.rec_ t.stamp).power
  exact (foldl_keeps (fun t => t.pwr) (fun t _ => foldl_keeps (fun u => u.pwr) complete _ t) _ _).trans
    (foldl_keeps (fun t => t.pwr) stamp _ _)

theorem ledRelease_pwr (s : State) : s.ledRelease.pwr = s.pwr :=
  (rasterAll_pwr _).trans (Same.fold (P := belowLed) Same.ledApply s.led.held { s with led := { s.led with held := [] } }).power

theorem cutCheckpoint_pwr (s : State) : s.cutCheckpoint.pwr = s.pwr := by
  unfold State.cutCheckpoint
  split
  · refine (ledRelease_pwr _).trans ?_
    dsimp only
    split_ifs
    · exact tearSeals_pwr s _
    · exact cutWave_pwr s _
    · rfl
  · rfl

theorem abortStations_pwr (s : State) : s.abortStations.pwr = s.pwr :=
  (foldl_keeps (fun t => t.pwr) (fun t n => by rfl) _ _).trans (foldl_keeps (fun t => t.pwr) (fun t n => by rfl) _ s)

theorem yieldHeld_pwr (s : State) : s.yieldHeld.pwr = s.pwr := (Same.yieldHeld s).power

/-- No record read waits once the Volley of a power-fail has begun. -/
theorem enterVolley_scriptWait (s : State) (c : Nat) (h : s.pwr.scriptWait ≠ some false) :
    (s.enterVolley .power false c false).pwr.scriptWait = none := by
  have before : (s.cutCheckpoint.abortStations.makeRecords.yieldHeld.keepAbandon).pwr = s.pwr :=
    calc _ = s.cutCheckpoint.abortStations.makeRecords.yieldHeld.pwr := (keepAbandon_power _).1
      _ = s.cutCheckpoint.abortStations.pwr := yieldHeld_pwr _
      _ = s.pwr := (abortStations_pwr _).trans (cutCheckpoint_pwr s)
  exact (shed_scriptWait _).trans (reloadResume_scriptWait (s := s.cutCheckpoint.abortStations.makeRecords.yieldHeld.keepAbandon) (by rw [before]; exact h))

/-! Channels (R138, R139, R140). -/

theorem noteAction_power (s : State) (c : Nat) (high : Bool) :
    (s.noteAction c high).pwr.st = s.pwr.st ∧ (s.noteAction c high).pwr.scriptWait = s.pwr.scriptWait := by
  unfold State.noteAction
  dsimp only
  split
  · exact ⟨rfl, rfl⟩
  · exact ⟨(congrArg Pwr.st (event_pwr _ _ _ _ _)).trans rfl, (event_scriptWait _ _ _ _ _).trans rfl⟩

theorem capture_pwr (s : State) (c : Nat) (high timeout : Bool) : (s.capture c high timeout).pwr = s.pwr := by
  unfold State.capture
  split
  · exact event_pwr _ _ _ _ _
  · rfl

theorem noteActions_power (cs : List (Nat × Bool)) (s : State) :
    (cs.foldl (fun (t : State) x => t.noteAction x.1 x.2) s).pwr.st = s.pwr.st ∧
    (cs.foldl (fun (t : State) x => t.noteAction x.1 x.2) s).pwr.scriptWait = s.pwr.scriptWait :=
  have both := foldl_keeps (fun t => (t.pwr.st, t.pwr.scriptWait)) (f := fun (t : State) (x : Nat × Bool) => t.noteAction x.1 x.2)
    (fun t x => Prod.ext (noteAction_power t x.1 x.2).1 (noteAction_power t x.1 x.2).2) cs s
  Prod.ext_iff.mp both

/-- A POWERFAIL that comes first begins the Volley, whatever acts beside it. -/
theorem takeActions_powerFail {s : State} {c : Nat} {high : Bool} (rest : List (Nat × Bool)) (hst : s.pwr.st = .run) (h3 : s.action c high = 3) :
    ∃ v : State, s.takeActions ((c, high) :: rest) = v.enterVolley .power false c false ∧ v.pwr.scriptWait = s.pwr.scriptWait := by
  obtain ⟨state, wait⟩ := noteActions_power ((c, high) :: rest) s
  rw [State.takeActions, List.find?_cons_of_pos (by simp [h3]), List.find?_cons_of_pos (by simp [h3])]
  generalize ((c, high) :: rest).foldl (fun (t : State) x => t.noteAction x.1 x.2) s = u at state wait
  refine ⟨u.capture c high false, ?_, by rw [capture_pwr, wait]⟩
  dsimp only
  rw [State.powerFail, capture_pwr, state, hst]

/-- In VOLLEY the loss of VSTBY abandons the page writes alone (R297). -/
theorem vstbyGone_volley {s : State} (hst : s.pwr.st = .volley) (hw : s.pwr.scriptWait = none) :
    s.vstbyGone.pwr = s.pwr ∧ s.vstbyGone.store = s.store := by
  obtain ⟨power, store⟩ := keepAbandon_power s
  have gone : s.vstbyGone = s.keepAbandon.scriptResume := by
    rw [State.vstbyGone, hst, State.serving, hst]
    rfl
  have resume : s.keepAbandon.scriptResume = s.keepAbandon := by
    rw [State.scriptResume, State.reloadResume, power, hw, if_neg (by decide), if_neg (by decide)]
  rw [gone, resume]
  exact ⟨power, store⟩

/-- The channels' OUT bits go up and nothing else changes. -/
theorem outs_keep (cs : List (Nat × Bool)) (s : State) :
    (cs.foldl (fun (t : State) x => t.put ((Reg.SUP_OUT_OUT).at x.1) 1) s).pwr = s.pwr ∧
    ∀ g : Fld, g.addr ≠ 0x120 → (cs.foldl (fun (t : State) x => t.put ((Reg.SUP_OUT_OUT).at x.1) 1) s).get g = s.get g :=
  ⟨foldl_keeps (fun t => t.pwr) (fun t x => by rfl) cs s, fun g hg => foldl_keeps (fun t => t.get g) (fun t x => State.get_put_ne t _ hg) cs s⟩

theorem action_congr {s t : State} (h : ∀ g : Fld, g.addr ≠ 0x120 → t.get g = s.get g) {c : Nat} (hc : c < 12) (high : Bool) :
    t.action c high = s.action c high := by
  cases high
  · exact h _ (by show 0x110 + c ≠ 0x120; omega)
  · exact h _ (by show 0x110 + c ≠ 0x120; omega)

/-- An armed POWERFAIL channel in RUN, with or without others, enters VOLLEY of cause POWER with its number (R44, Table 5-10). -/
theorem channelsOut_powerFail {s : State} {c : Nat} {high : Bool} (rest : List (Nat × Bool)) (hc : c < 12) (hst : s.pwr.st = .run)
    (ha : s.armed c = true) (h3 : s.action c high = 3) (hw : s.pwr.scriptWait ≠ some false) :
    (s.channelsOut ((c, high) :: rest)).pwr.st = .volley ∧ (s.channelsOut ((c, high) :: rest)).pwr.powerFail = true ∧
    (s.channelsOut ((c, high) :: rest)).store = some { cause := .power, fromVin := false, channel := c } := by
  obtain ⟨power, kept⟩ := outs_keep ((c, high) :: rest) s
  have first : ((c, high) :: rest).filter (fun x => s.armed x.1) = (c, high) :: rest.filter (fun x => s.armed x.1) :=
    List.filter_cons_of_pos ha
  rw [State.channelsOut, first]
  generalize ((c, high) :: rest).foldl (fun (t : State) x => t.put ((Reg.SUP_OUT_OUT).at x.1) 1) s = o at power kept
  obtain ⟨v, volley, wait⟩ := takeActions_powerFail (rest.filter (fun x => s.armed x.1)) ((congrArg Pwr.st power).trans hst)
    ((action_congr kept hc high).trans h3)
  have none := enterVolley_scriptWait v c (by rw [wait, power]; exact hw)
  rw [volley]
  split
  · obtain ⟨power', store'⟩ := vstbyGone_volley (s := v.enterVolley .power false c false) rfl none
    rw [power', store']
    exact ⟨rfl, rfl, rfl⟩
  · exact ⟨rfl, rfl, rfl⟩

end Sys2Proof.Machine

namespace Sys2Proof.Machine
open Sys2Proof

/-! Supervisor channels, the WARN comparator and the charger (R138 to R153). -/

/-- A number below 12 that alone has a value gives it once. -/
theorem filterMap_range_one {α : Type} {c : Nat} (hc : c < 12) (x : α) (f : Nat → Option α) (hf : ∀ i, f i = if i = c then some x else none) :
    (List.range 12).filterMap f = [x] := by
  rw [funext hf]
  interval_cases c <;> rfl

/-- A channel alone comes first. -/
theorem actionOrder_one (s : State) {c : Nat} (hc : c < 12) (high : Bool) : s.actionOrder [(c, high)] = [(c, high)] := by
  have number : (List.range 12).filterMap (fun i => [(c, high)].find? (fun x => decide (x.1 = i))) = [(c, high)] := by
    refine filterMap_range_one hc _ _ (fun i => ?_)
    by_cases h : i = c
    · simp [h]
    · simp [h, Ne.symm h]
  rw [State.actionOrder, number]
  by_cases h : s.action c high = 3 <;> simp [h]

/-- Of two channels the one whose action is POWERFAIL comes first (Table 5-10). -/
theorem actionOrder_powerFail (s : State) {c d : Nat} (hc : c < 12) (hd : d < 12) (hne : c ≠ d) {high above : Bool}
    (h3 : s.action c high = 3) (h4 : s.action d above ≠ 3) : s.actionOrder [(d, above), (c, high)] = [(c, high), (d, above)] := by
  have first : ((List.range 12).filterMap (fun i => [(d, above), (c, high)].find? (fun x => decide (x.1 = i)))).filter
      (fun x => decide (s.action x.1 x.2 = 3)) = [(c, high)] := by
    rw [List.filter_filterMap]
    refine filterMap_range_one hc _ _ (fun i => ?_)
    by_cases h : i = c
    · simp [h, Ne.symm hne, h3]
    · by_cases h' : d = i <;> simp [h, h', Ne.symm h]
      simp [← h', h4]
  have second : ((List.range 12).filterMap (fun i => [(d, above), (c, high)].find? (fun x => decide (x.1 = i)))).filter
      (fun x => decide (s.action x.1 x.2 ≠ 3)) = [(d, above)] := by
    rw [List.filter_filterMap]
    refine filterMap_range_one hd _ _ (fun i => ?_)
    by_cases h : i = d
    · simp [h, h4]
    · by_cases h' : c = i <;> simp [h, h', Ne.symm h]
      simp [← h', h3]
  rw [State.actionOrder, first, second]
  rfl

/-- One channel leaves its window (R138). -/
theorem exec_channelOut_one {c : Fin 12} {high : Bool} {s : State} (hoff : s.pwr.st ≠ .off) (ho : bit (s.get Reg.SUP_OUT_OUT) c.val = false) :
    exec (.channelOut c high) s = .next (s.channelsOut [(c.val, high)]) := by
  have open_ : ¬(s.pwr.st = .off ∨ bit (s.get Reg.SUP_OUT_OUT) c.val = true) := by simp [hoff, ho]
  refine congrArg Host.Outcome.next ((if_neg open_).trans ?_)
  have one : ([(c.val, high)] : List (Nat × Bool)).filter (fun x => !bit (s.get Reg.SUP_OUT_OUT) x.1) = [(c.val, high)] :=
    List.filter_cons_of_pos (by simp [ho])
  show s.channelOut c.val high [] = _
  rw [State.channelOut, actionOrder_one s c.isLt, one]

/-- Two channels leave their windows at once, one of them with POWERFAIL (Table 5-10). -/
theorem exec_channelOut_two {c d : Fin 12} {high above : Bool} {s : State} (hne : c ≠ d) (hoff : s.pwr.st ≠ .off)
    (hc : bit (s.get Reg.SUP_OUT_OUT) c.val = false) (hd : bit (s.get Reg.SUP_OUT_OUT) d.val = false) (h3 : s.action c.val high = 3)
    (h4 : s.action d.val above ≠ 3) : exec (.channelOut d above [(c, high)]) s = .next (s.channelsOut [(c.val, high), (d.val, above)]) := by
  have open_ : ¬(s.pwr.st = .off ∨ bit (s.get Reg.SUP_OUT_OUT) d.val = true) := by simp [hoff, hd]
  refine congrArg Host.Outcome.next ((if_neg open_).trans ?_)
  have both : ([(c.val, high), (d.val, above)] : List (Nat × Bool)).filter (fun x => !bit (s.get Reg.SUP_OUT_OUT) x.1) =
      [(c.val, high), (d.val, above)] := by simp [hc, hd]
  show s.channelOut d.val above [(c.val, high)] = _
  rw [State.channelOut, actionOrder_powerFail s c.isLt d.isLt (fun h => hne (Fin.ext h)) h3 h4, both]

/-- A channel whose OUT bit goes up, other than VSTBY's, takes its action where it is armed. -/
theorem channelsOut_armed {s : State} {c : Nat} (high : Bool) (h8 : c ≠ 8) (ha : s.armed c = true) :
    s.channelsOut [(c, high)] = (s.put (Reg.SUP_OUT_OUT.at c) 1).takeActions [(c, high)] := by
  have armed : ([(c, high)] : List (Nat × Bool)).filter (fun x => s.armed x.1) = [(c, high)] := List.filter_cons_of_pos ha
  rw [State.channelsOut, armed]
  exact if_neg (by simp [h8])

theorem channelsOut_unarmed {s : State} {c : Nat} (high : Bool) (ha : s.armed c = false) :
    s.channelsOut [(c, high)] = if c = 8 then (s.put (Reg.SUP_OUT_OUT.at c) 1).vstbyGone else s.put (Reg.SUP_OUT_OUT.at c) 1 := by
  have armed : ([(c, high)] : List (Nat × Bool)).filter (fun x => s.armed x.1) = [] := by simp [ha]
  rw [State.channelsOut, armed]
  by_cases h : c = 8
  · exact (if_pos (by simp [h])).trans (if_pos h).symm
  · exact (if_neg (by simp [h])).trans (if_neg h).symm

theorem takeActions_none {s : State} {c : Nat} {high : Bool} (h : s.action c high = 0) : s.takeActions [(c, high)] = s := by
  simp [State.takeActions, State.noteAction, h]

/-- An OUT bit does not move a channel's settings. -/
theorem action_put_out (s : State) {c : Nat} (hc : c < 12) (high : Bool) (v : Nat) :
    (s.put (Reg.SUP_OUT_OUT.at c) v).action c high = s.action c high :=
  action_congr (fun _ hg => State.get_put_ne _ _ hg) hc high

theorem out_put_get (s : State) {c : Nat} (hc : c < 12) {v : Nat} (hv : v < 2) :
    (s.put (Reg.SUP_OUT_OUT.at c) v).get (Reg.SUP_OUT_OUT.at c) = v :=
  State.get_put_same s (Reg.SUP_OUT_OUT.at c) v (by show 0 + c < 18; omega)
    (by show v < 2 ^ (0 + c + 1 - (0 + c)); rw [Nat.add_sub_cancel_left]; exact hv)

theorem capture_store (s : State) (c : Nat) (high timeout : Bool) : (s.capture c high timeout).store = s.store := by
  unfold State.capture
  split
  · exact event_store _ _ _ _ _
  · rfl

/-- A FAULT action: the channel's event, marked as a fault's (R139). -/
def State.faultEvent (s : State) (c : Nat) : State := (s.noteFault c true).supEvent (Reg.SUP_EVENT_CH.at c)

theorem takeActions_fault {s : State} {c : Nat} {high : Bool} (h : s.action c high = 2) :
    s.takeActions [(c, high)] = (s.faultEvent c).capture c high false := by
  simp [State.takeActions, State.noteAction, State.faultEvent, h]

theorem faultEvent_pwr (s : State) (c : Nat) : (s.faultEvent c).pwr = (s.noteFault c true).pwr := event_pwr _ _ _ _ _

theorem faultEvent_faulted (s : State) {c : Nat} (hc : c < 12) : bit (s.faultEvent c).pwr.faulted.toNat c = true := by
  rw [faultEvent_pwr, bit_eq]
  show (s.pwr.faulted ||| BitVec.ofNat 12 (2 ^ c)).toNat.testBit c = true
  rw [BitVec.toNat_or, Nat.testBit_or, BitVec.toNat_ofNat, Nat.mod_eq_of_lt (Nat.pow_lt_pow_right (by decide) hc), Nat.testBit_two_pow_self,
    Bool.or_true]

theorem faultEvent_reg (s : State) (c : Nat) {a : Nat} (ha : a ≠ 0x122) : (s.faultEvent c).reg a = s.reg a :=
  event_reg_ne (s.noteFault c true) (Reg.SUP_EVENT_CH.at c) _ _ _ _ ha

theorem faultEvent_get (s : State) (c : Nat) (g : Fld) (ha : g.addr ≠ 0x122) : (s.faultEvent c).get g = s.get g := by
  rw [State.get, faultEvent_reg s c ha, State.get]

theorem faultEvent_event (s : State) {c : Nat} (hc : c < 12) : (s.faultEvent c).get (Reg.SUP_EVENT_CH.at c) = 1 :=
  event_get_same _ (Reg.SUP_EVENT_CH.at c) _ _ _ (by show 0 + c < 18; omega) rfl

theorem faultEvent_stamp (s : State) (c : Nat) : (s.faultEvent c).stamp = s.stamp :=
  congrArg (fun r => r.now.stamp) (event_rtc (s.noteFault c true) (Reg.SUP_EVENT_CH.at c) _ _ _)

/-- A capture leaves the channels' event bits. -/
theorem capture_event (s : State) {c d : Nat} (hc : c < 12) (high timeout : Bool) :
    (s.capture d high timeout).get (Reg.SUP_EVENT_CH.at c) = s.get (Reg.SUP_EVENT_CH.at c) := by
  unfold State.capture
  split
  · exact event_get_apart _ _ _ _ _ _ (by show 0 + c < 18; omega) (.inl (by show 0 + c < 14; omega))
  · dsimp only
    rw [State.get, State.reg_setReg_ne _ _ (by show 0x122 ≠ 0x126; decide), State.reg_setReg_ne _ _ (by show 0x122 ≠ 0x125; decide),
      State.reg_setReg_ne _ _ (by show 0x122 ≠ 0x124; decide), State.get]

/-- With a spill pending the latch stays and OVERRUN is set (R151). -/
theorem capture_overrun {s : State} (c : Nat) (high timeout : Bool) (h : s.get Reg.SUP_FIRST_SPILL_PENDING = 1) :
    (s.capture c high timeout).get Reg.SUP_EVENT_OVERRUN = 1 ∧ (s.capture c high timeout).reg 0x124 = s.reg 0x124 := by
  have e : s.capture c high timeout = s.supEvent Reg.SUP_EVENT_OVERRUN := if_pos (by rw [State.flag, h]; rfl)
  rw [e]
  exact ⟨event_get_same _ Reg.SUP_EVENT_OVERRUN _ _ _ (by decide) rfl, event_reg_ne _ _ _ _ _ _ (by decide)⟩

/-- An armed FAULT channel: its OUT and event bits, its mark and the first-fail latch (R139, R151). -/
theorem takeActions_fault_facts {s : State} {c : Nat} {high : Bool} (hc : c < 12) (h : s.action c high = 2) :
    (s.takeActions [(c, high)]).reg 0x120 = s.reg 0x120 ∧ (s.takeActions [(c, high)]).get (Reg.SUP_EVENT_CH.at c) = 1 ∧
    bit (s.takeActions [(c, high)]).pwr.faulted.toNat c = true ∧ (s.takeActions [(c, high)]).pwr.st = s.pwr.st ∧
    (s.takeActions [(c, high)]).store = s.store ∧
    (s.get Reg.SUP_FIRST_SPILL_PENDING = 0 → Captured (s.faultEvent c) c high false (s.takeActions [(c, high)])) ∧
    (s.get Reg.SUP_FIRST_SPILL_PENDING = 1 → (s.takeActions [(c, high)]).get Reg.SUP_EVENT_OVERRUN = 1 ∧
      (s.takeActions [(c, high)]).reg 0x124 = s.reg 0x124) := by
  have spill := faultEvent_get s c Reg.SUP_FIRST_SPILL_PENDING (by decide)
  rw [takeActions_fault h]
  refine ⟨?_, ?_, ?_, ?_, ?_, fun h0 => captured_capture _ _ _ _ hc (spill.trans h0), fun h1 => ?_⟩
  · rw [capture_reg_ne _ _ _ _ (by decide), faultEvent_reg _ _ (by decide)]
  · rw [capture_event _ hc, faultEvent_event s hc]
  · rw [capture_pwr]
    exact faultEvent_faulted s hc
  · rw [capture_pwr, faultEvent_pwr]
    rfl
  · exact (capture_store _ _ _ _).trans (event_store _ _ _ _ _)
  · obtain ⟨overrun, latch⟩ := capture_overrun c high false (spill.trans h1)
    exact ⟨overrun, latch.trans (faultEvent_reg _ _ (by decide))⟩

/-- VSTBY's channel is not armed in STANDBY or DARK (Table 5-2). -/
theorem armed_vstby {s : State} (hst : s.pwr.st = .standby ∨ s.pwr.st = .dark) : s.armed 8 = false := by
  rcases hst with hst | hst <;> simp [State.armed, hst]

/-- A channel is back in its window; only VIN's return in VOLLEY touches the store (R138, R326). -/
theorem channelIn_eq {s : State} {c : Nat} (h : s.store = none ∨ c ≠ 0 ∨ s.pwr.st ≠ .volley) :
    s.channelIn c = if c = 8 then { s.put (Reg.SUP_OUT_OUT.at c) 0 with
      pwr := { (s.put (Reg.SUP_OUT_OUT.at c) 0).pwr with clockHeld := false } } else s.put (Reg.SUP_OUT_OUT.at c) 0 := by
  unfold State.channelIn
  dsimp only
  have state : (if c = 8 then { s.put (Reg.SUP_OUT_OUT.at c) 0 with
      pwr := { (s.put (Reg.SUP_OUT_OUT.at c) 0).pwr with clockHeld := false } } else s.put (Reg.SUP_OUT_OUT.at c) 0).pwr.st = s.pwr.st := by
    split <;> rfl
  have store : (if c = 8 then { s.put (Reg.SUP_OUT_OUT.at c) 0 with
      pwr := { (s.put (Reg.SUP_OUT_OUT.at c) 0).pwr with clockHeld := false } } else s.put (Reg.SUP_OUT_OUT.at c) 0).store = s.store := by
    split <;> rfl
  rw [store, state]
  match e : s.store with
  | none => rfl
  | some t =>
    refine if_neg (fun both => ?_)
    obtain ⟨h0, hv⟩ := both
    rcases h with h | h | h
    · rw [h] at e
      exact absurd e (by simp)
    · exact h h0
    · exact h hv

/-- VIN's return during a Volley's store is noted (R144). -/
theorem channelIn_vin {s : State} {t : Store} (hst : s.pwr.st = .volley) (hs : s.store = some t) :
    s.channelIn 0 = { s.put (Reg.SUP_OUT_OUT.at 0) 0 with store := some { t with vinBack := true } } := by
  have store : (s.put (Reg.SUP_OUT_OUT.at 0) 0).store = some t := hs
  unfold State.channelIn
  dsimp only
  rw [if_neg (by decide), store]
  exact if_pos ⟨rfl, hst⟩

theorem exec_channelIn {c : Fin 12} {s : State} (hoff : s.pwr.st ≠ .off) (ho : bit (s.get Reg.SUP_OUT_OUT) c.val = true) :
    exec (.channelIn c) s = .next (s.channelIn c.val) :=
  congrArg Host.Outcome.next (if_pos ⟨hoff, ho⟩)

/-- With a store a channel's return changes OUT and no power but VSTBY's held clock. -/
theorem channelIn_store {s : State} {t : Store} (c : Nat) (hs : s.store = some t) :
    (s.channelIn c).regs = (s.put (Reg.SUP_OUT_OUT.at c) 0).regs ∧ (c ≠ 8 → (s.channelIn c).pwr = s.pwr) := by
  by_cases hv : c = 0 ∧ s.pwr.st = .volley
  · obtain ⟨rfl, hst⟩ := hv
    rw [channelIn_vin hst hs]
    exact ⟨rfl, fun _ => rfl⟩
  · rw [channelIn_eq (.inr (not_and_or.mp hv))]
    split
    · next h8 => exact ⟨rfl, fun h => absurd h8 h⟩
    · exact ⟨rfl, fun _ => rfl⟩

/-- The spill of the first-fail latch is a page write of page 66 at its first phase (R152). -/
theorem spillStart_facts (s : State) : s.spillStart.keepBusy = true ∧
    (∀ r, s.spillStart.keep.run = some r → r.writer = .spill ∧ r.page = 66 ∧ r.phase = 1) ∧ s.spillStart.regs = s.regs := by
  refine ⟨rfl, fun r hr => ?_, rfl⟩
  obtain rfl := Option.some.inj hr
  exact ⟨rfl, rfl, rfl⟩

theorem exec_freeChannelArm {c : Fin 12} {s : State} (hs : s.serving = true) (hf : bit (freeMask s.pwr.steps) (s.get (Reg.SUP_CTL_GATE c.val)) = true)
    (he : s.enHigh (s.get (Reg.SUP_CTL_GATE c.val)) = true) (ho : bit (s.get Reg.SUP_OUT_OUT) c.val = false) :
    exec (.freeChannelArm c) s = .next { s with pwr := { s.pwr with gateArmed := s.pwr.gateArmed ||| BitVec.ofNat 12 (2 ^ c.val) } } :=
  congrArg Host.Outcome.next (if_pos ⟨hs, hf, he, by rw [ho]; decide⟩)

/-- VIN crosses the WARN threshold with power (R144). -/
theorem exec_volleyWarn {s : State} (b : Bool) (hoff : s.pwr.st ≠ .off) :
    exec (.volleyWarn b) s = .next ({ s with pwr := { s.pwr with vinWarn := b } } : State).warnFollow :=
  congrArg Host.Outcome.next (if_neg hoff)

theorem serving_on {s : State} (h : s.serving = true) : s.pwr.st ≠ .off := by
  intro hoff
  simp [State.serving, hoff] at h

/-- VOLLEY_WARN_N rises while VIN is above the threshold and readiness does not hold it low. -/
theorem warnFollow_rise {s : State} (hs : s.serving = true) (hl : s.warnLevel = true) :
    s.warnFollow = { s with pwr := { s.pwr with warnN := true } } := by
  rw [State.warnFollow, if_pos hs, hl]
  dsimp only
  rw [Bool.not_true, Bool.and_false, if_neg (by decide)]

theorem warnFollow_idle {s : State} (hs : s.serving = false) : s.warnFollow = s := if_neg (by rw [hs]; decide)

/-- Settles O7: each supervision input by the operation it runs. -/
theorem supervisionEvents : Obligations.SupervisionEvents := by
  refine ⟨fun c high s hoff ho h8 hu => ?_, fun c high s hoff ho h8 ha h1 => ?_, fun c high s hoff ho h8 ha h2 => ?_,
    fun c high s hst ho ha h3 hw => ?_, fun c d high above s hne hst hc hd hac had h3 h4 hw => ?_, fun high s hst ho => ?_,
    fun c s hoff ho hs h8 => ?_, fun s hoff ho => ?_, fun s t hst ho hs => ?_, fun c s t hoff ho hs => ?_, fun s hr => ?_,
    fun c s hs hf he ho => ?_, fun s hs hn => ?_, fun s hs hl => ?_, fun b s hoff hs => ?_, fun code s hoff => ?_, fun s hoff hv hs => ?_,
    fun s hoff => ?_⟩
  · rw [exec_channelOut_one hoff ho]
    rcases hu with hu | hu
    · rw [channelsOut_unarmed high hu, if_neg h8]
    · cases ha : s.armed c.val with
      | false => rw [channelsOut_unarmed high ha, if_neg h8]
      | true => rw [channelsOut_armed high h8 ha, takeActions_none ((action_put_out s c.isLt high 1).trans hu)]
  · obtain ⟨event, state, regs⟩ := takeAction_event _ c.val c.isLt high ((action_put_out s c.isLt high 1).trans h1)
    rw [exec_channelOut_one hoff ho, channelsOut_armed high h8 ha]
    refine ⟨_, rfl, ?_, event, state, fun a h1 h2 => (regs a h2).trans (State.reg_put_ne _ _ h1)⟩
    rw [State.get, regs _ (by show 0x120 ≠ 0x122; decide)]
    exact out_put_get s c.isLt (by decide)
  · obtain ⟨out, event, fault, state, store, captured, overrun⟩ := takeActions_fault_facts c.isLt ((action_put_out s c.isLt high 1).trans h2)
    have pending : (s.put (Reg.SUP_OUT_OUT.at c.val) 1).get Reg.SUP_FIRST_SPILL_PENDING = s.get Reg.SUP_FIRST_SPILL_PENDING :=
      State.get_put_ne _ _ (by show 0x124 ≠ 0x120; decide)
    rw [exec_channelOut_one hoff ho, channelsOut_armed high h8 ha]
    refine ⟨_, rfl, ?_, event, fault, state, store, fun h0 => ?_, fun h1 => ?_⟩
    · rw [State.get, show (Reg.SUP_OUT_OUT.at c.val).addr = 0x120 from rfl, out]
      exact out_put_get s c.isLt (by decide)
    · obtain ⟨valid, kind, side, channel, code, spill, time⟩ := captured (pending.trans h0)
      exact ⟨valid, kind, side, channel, code.trans (by rw [faultEvent_pwr]; rfl), spill, time.trans (faultEvent_stamp _ _)⟩
    · obtain ⟨event, latch⟩ := overrun (pending.trans h1)
      exact ⟨event, latch.trans (State.reg_put_ne _ _ (by show 0x124 ≠ 0x120; decide))⟩
  · exact ⟨_, exec_channelOut_one (by rw [hst]; decide) ho, channelsOut_powerFail [] c.isLt hst ha h3 hw⟩
  · obtain ⟨state, -, store⟩ := channelsOut_powerFail [(d.val, above)] c.isLt hst hac h3 hw
    exact ⟨_, exec_channelOut_two hne (by rw [hst]; decide) hc hd h3 h4, state, store⟩
  · have hoff : s.pwr.st ≠ .off := by rcases hst with hst | hst <;> rw [hst] <;> decide
    have gone : s.channelsOut [(8, high)] = (s.put (Reg.SUP_OUT_OUT.at 8) 1).enterOff :=
      (channelsOut_unarmed high (armed_vstby hst)).trans ((if_pos rfl).trans (if_pos hst))
    exact ⟨_, (exec_channelOut_one (c := 8) hoff ho).trans (congrArg Host.Outcome.next gone), rfl, rfl, rfl⟩
  · rw [exec_channelIn hoff ho, channelIn_eq (.inl hs), if_neg h8]
  · refine ⟨_, (exec_channelIn (c := 8) hoff ho).trans (congrArg Host.Outcome.next ((channelIn_eq (.inr (.inl (by decide)))).trans (if_pos rfl))), ?_⟩
    exact ⟨rfl, rfl, rfl, rfl⟩
  · refine ⟨_, (exec_channelIn (c := 0) (by rw [hst]; decide) ho).trans (congrArg Host.Outcome.next (channelIn_vin hst hs)), ?_, rfl, rfl⟩
    exact out_put_get s (c := 0) (by decide) (by decide)
  · exact ⟨_, exec_channelIn hoff ho, channelIn_store c.val hs⟩
  · exact ⟨_, congrArg Host.Outcome.next (if_pos hr), spillStart_facts s⟩
  · exact ⟨_, exec_freeChannelArm hs hf he ho, rfl, rfl⟩
  · obtain ⟨power, event⟩ := warnFollow_fall ({ s with pwr := { s.pwr with vinWarn := true } } : State) hs hn rfl
    exact ⟨_, exec_volleyWarn true (serving_on hs), by rw [power], by rw [power], event⟩
  · have level : ({ s with pwr := { s.pwr with vinWarn := false } } : State).warnLevel = true := by
      have clear : (s.flag Reg.SUP_WARN_READY_WARN && !s.ready) = false := by rcases hl with h | h <;> simp [h]
      exact congrArg Bool.not clear
    refine ⟨_, (exec_volleyWarn false (serving_on hs)).trans (congrArg Host.Outcome.next (warnFollow_rise hs level)), rfl, rfl, rfl⟩
  · exact (exec_volleyWarn b hoff).trans (congrArg Host.Outcome.next (warnFollow_idle hs))
  · refine ⟨_, congrArg Host.Outcome.next (if_neg hoff), ?_, watch_st _ _⟩
    rw [watch_get _ _ _ (by decide) (by decide)]
    exact State.get_put_same _ _ _ (by decide) code.isLt
  · exact congrArg Host.Outcome.next ((if_neg hoff).trans ((if_pos rfl).trans (if_pos ⟨hv, by rw [hs]; rfl⟩)))
  · exact congrArg Host.Outcome.next ((if_neg hoff).trans (if_neg (by decide)))

end Sys2Proof.Machine

namespace Sys2Proof.Machine
open Sys2Proof

/-! Seal blocks and planes as the operations of a store write them (R26, R109, R111). -/

/-- What no member of a list changes, the fold over it keeps. -/
theorem foldl_keeps_mem {α σ β : Type} (p : σ → β) {f : σ → α → σ} : ∀ (xs : List α) (s : σ), (∀ t x, x ∈ xs → p (f t x) = p t) →
    p (xs.foldl f s) = p s
  | [], _, _ => rfl
  | x :: xs, s, h => (foldl_keeps_mem p xs _ (fun t y hy => h t y (List.mem_cons_of_mem _ hy))).trans (h s x List.mem_cons_self)

/-- A key that a list writes with one value reads as that value. -/
theorem get_setAll_same {V : Type} [DecidableEq V] (d : Nat → V) (es : List (Nat × V)) (m : Map V) {k : Nat} {v : V}
    (hv : ∀ e, e ∈ es → e.1 = k → e.2 = v) (hk : ∃ e, e ∈ es ∧ e.1 = k) : Map.get d (Map.setAll d m es) k = v := by
  induction es generalizing m with
  | nil =>
    obtain ⟨e, he, -⟩ := hk
    cases he
  | cons e es ih =>
    by_cases later : ∃ x, x ∈ es ∧ x.1 = k
    · exact ih _ (fun x hx => hv x (List.mem_cons_of_mem _ hx)) later
    · have here : e.1 = k := by
        obtain ⟨x, hx, h⟩ := hk
        rcases List.mem_cons.mp hx with rfl | hx
        · exact h
        · exact absurd ⟨x, hx, h⟩ later
      refine (Map.get_setAll_ne d es _ (fun x hx h => later ⟨x, hx, h⟩)).trans ?_
      rw [← here, Map.get_set_same]
      exact hv e List.mem_cons_self here

/-- The words of a seal block as it is written. -/
def sealEntries (p : Nat) (ws : List Word) : List (Nat × Word) := (List.range 8).map (fun k => (8 * p + k, ws.getD k 0#18))

theorem get_sealEntries_same (m : Map Word) (p : Nat) (ws : List Word) {k : Nat} (hk : k < 8) :
    Map.get (fun _ => 0#18) (Map.setAll (fun _ => 0#18) m (sealEntries p ws)) (8 * p + k) = ws.getD k 0#18 := by
  refine get_setAll_same _ _ _ (fun e he h => ?_) ⟨_, List.mem_map.mpr ⟨k, List.mem_range.mpr hk, rfl⟩, rfl⟩
  obtain ⟨j, -, rfl⟩ := List.mem_map.mp he
  have : j = k := Nat.add_left_cancel h
  rw [this]

theorem get_sealEntries_ne (m : Map Word) {p q : Nat} (ws : List Word) {k : Nat} (hk : k < 8) (h : q ≠ p) :
    Map.get (fun _ => 0#18) (Map.setAll (fun _ => 0#18) m (sealEntries p ws)) (8 * q + k) = Map.get (fun _ => 0#18) m (8 * q + k) := by
  refine Map.get_setAll_ne _ _ _ (fun e he => ?_)
  obtain ⟨j, hj, rfl⟩ := List.mem_map.mp he
  have := List.mem_range.mp hj
  show 8 * p + j ≠ 8 * q + k
  omega

theorem sealWords_setSeal_same (s : State) (p : Nat) (b : Bool) {ws : List Word} (hl : ws.length = 8) : (s.setSeal p b ws).sealWords p b = ws := by
  have read : (s.setSeal p b ws).sealWords p b = (List.range 8).map (fun k => ws.getD k 0#18) := by
    refine List.map_congr_left (fun k hk => ?_)
    cases b
    · exact get_sealEntries_same s.sealA p ws (List.mem_range.mp hk)
    · exact get_sealEntries_same s.sealB p ws (List.mem_range.mp hk)
  rw [read]
  refine List.ext_getElem (by simp [hl]) (fun k h1 h2 => ?_)
  simp [h2]

theorem sealWords_setSeal_ne (s : State) {p q : Nat} {b c : Bool} (ws : List Word) (h : ¬(p = q ∧ b = c)) :
    (s.setSeal p b ws).sealWords q c = s.sealWords q c := by
  refine List.map_congr_left (fun k hk => ?_)
  have hk := List.mem_range.mp hk
  cases b <;> cases c
  · exact get_sealEntries_ne s.sealA ws hk (fun e => h ⟨e.symm, rfl⟩)
  · rfl
  · rfl
  · exact get_sealEntries_ne s.sealB ws hk (fun e => h ⟨e.symm, rfl⟩)

/-- An erased seal block is eight words 0 (R110). -/
theorem eraseSeal_eq (s : State) (p : Nat) (b : Bool) : s.eraseSeal p b = s.setSeal p b (List.replicate 8 0#18) := rfl

theorem sealWords_eraseSeal_same (s : State) (p : Nat) (b : Bool) : (s.eraseSeal p b).sealWords p b = List.replicate 8 0#18 := by
  rw [eraseSeal_eq]
  exact sealWords_setSeal_same s p b List.length_replicate

/-- A plane takes an image. -/
def State.setPlane (s : State) (p : Nat) (b : Bool) (m : Image) : State :=
  if b then { s with planeB := Map.set (fun _ => {}) s.planeB p m } else { s with planeA := Map.set (fun _ => {}) s.planeA p m }

theorem planeImage_setPlane_same (s : State) (p : Nat) (b : Bool) (m : Image) : (s.setPlane p b m).planeImage b p = m := by
  cases b
  · exact Map.get_set_same _ s.planeA p m
  · exact Map.get_set_same _ s.planeB p m

theorem planeImage_setPlane_ne (s : State) {p q : Nat} {b c : Bool} (m : Image) (h : ¬(p = q ∧ b = c)) :
    (s.setPlane p b m).planeImage c q = s.planeImage c q := by
  cases b <;> cases c
  · exact Map.get_set_ne _ s.planeA m (fun e => h ⟨e.symm, rfl⟩)
  · rfl
  · rfl
  · exact Map.get_set_ne _ s.planeB m (fun e => h ⟨e.symm, rfl⟩)

/-- Region 63's device state is saved beside its plane (R104). -/
def State.setDev (s : State) (p : Nat) (b : Bool) (d : Dev) : State :=
  if b then { s with devB := Map.set (fun _ => {}) s.devB p d } else { s with devA := Map.set (fun _ => {}) s.devA p d }

/-- The device state that a plane holds for region 63. -/
def State.planeDev (s : State) (b : Bool) (p : Nat) : Dev := Map.get (fun _ => {}) (if b then s.devB else s.devA) p

theorem planeDev_setDev_same (s : State) (p : Nat) (b : Bool) (d : Dev) : (s.setDev p b d).planeDev b p = d := by
  cases b
  · exact Map.get_set_same _ s.devA p d
  · exact Map.get_set_same _ s.devB p d

/-- A region is stored by erasing its seal block, copying its image and, of region 63, saving its device state (R26, R104, R111). -/
theorem storeRegion_eq (s : State) (t : Store) (r : Nat) : s.storeRegion t r =
    if r = 63 then (((s.yieldWindow r).eraseSeal (t.physOf r) (t.plane r)).setPlane (t.physOf r) (t.plane r)
        ((s.yieldWindow r).image (t.physOf r))).setDev (t.physOf r) (t.plane r)
        { (s.yieldWindow r).dev with regs := (s.yieldWindow r).storedRegs t }
    else ((s.yieldWindow r).eraseSeal (t.physOf r) (t.plane r)).setPlane (t.physOf r) (t.plane r) ((s.yieldWindow r).image (t.physOf r)) := by
  unfold State.storeRegion State.eraseSeal State.setPlane State.setDev
  generalize s.yieldWindow r = u
  cases t.plane r <;> rfl

theorem yieldWindow_none {s : State} (h : s.fw.window = none) (r : Nat) : s.yieldWindow r = s := by
  rw [State.yieldWindow, h]

/-- A physical region's plane holds its cells' present image under an erased seal block. -/
def State.StoredAt (u : State) (p : Nat) (b : Bool) : Prop := u.planeImage b p = u.image p ∧ u.sealWords p b = List.replicate 8 0#18

/-- One region's store leaves the cells, and every other plane and seal block. -/
theorem storeRegion_arr (s : State) (t : Store) (r : Nat) : (s.storeRegion t r).arr = s.arr := by
  rw [storeRegion_eq]
  refine Eq.trans ?_ ((yieldWindow_yields s r).field State.arr (by intros; rfl))
  generalize s.yieldWindow r = u
  unfold State.setDev State.setPlane State.eraseSeal
  cases t.plane r <;> split <;> rfl

theorem setDev_planes (s : State) (p : Nat) (b : Bool) (d : Dev) (q : Nat) (c : Bool) :
    (s.setDev p b d).planeImage c q = s.planeImage c q ∧ (s.setDev p b d).sealWords q c = s.sealWords q c := by
  cases b <;> exact ⟨rfl, rfl⟩

theorem setPlane_seal (s : State) (p : Nat) (b : Bool) (m : Image) (q : Nat) (c : Bool) : (s.setPlane p b m).sealWords q c = s.sealWords q c := by
  cases b <;> rfl

theorem setSeal_plane (s : State) (p : Nat) (b : Bool) (ws : List Word) (q : Nat) (c : Bool) :
    (s.setSeal p b ws).planeImage c q = s.planeImage c q := by
  cases b <;> rfl

/-- The planes and seal blocks after one region's store are those of the copy; region 63's device state lies beside them. -/
theorem storeRegion_planes (s : State) (t : Store) (r q : Nat) (c : Bool) :
    (s.storeRegion t r).planeImage c q = (((s.yieldWindow r).eraseSeal (t.physOf r) (t.plane r)).setPlane (t.physOf r) (t.plane r)
      ((s.yieldWindow r).image (t.physOf r))).planeImage c q ∧
    (s.storeRegion t r).sealWords q c = ((s.yieldWindow r).eraseSeal (t.physOf r) (t.plane r)).sealWords q c := by
  rw [storeRegion_eq]
  split
  · obtain ⟨plane, words⟩ := setDev_planes _ (t.physOf r) (t.plane r) { (s.yieldWindow r).dev with regs := (s.yieldWindow r).storedRegs t } q c
    exact ⟨plane, words.trans (setPlane_seal _ _ _ _ _ _)⟩
  · exact ⟨rfl, setPlane_seal _ _ _ _ _ _⟩

theorem storedAt_storeRegion_same (s : State) (t : Store) (r : Nat) : (s.storeRegion t r).StoredAt (t.physOf r) (t.plane r) := by
  obtain ⟨plane, words⟩ := storeRegion_planes s t r (t.physOf r) (t.plane r)
  refine ⟨?_, words.trans (sealWords_eraseSeal_same _ _ _)⟩
  rw [plane, planeImage_setPlane_same, State.image, State.image, storeRegion_arr, (yieldWindow_yields s r).field State.arr (by intros; rfl)]

theorem storeRegion_elsewhere (s : State) (t : Store) (r : Nat) {q : Nat} {c : Bool} (h : ¬(t.physOf r = q ∧ t.plane r = c)) :
    (s.storeRegion t r).planeImage c q = s.planeImage c q ∧ (s.storeRegion t r).sealWords q c = s.sealWords q c := by
  obtain ⟨plane, words⟩ := storeRegion_planes s t r q c
  have yields := yieldWindow_yields s r
  refine ⟨plane.trans ?_, words.trans ?_⟩
  · rw [planeImage_setPlane_ne _ _ h, eraseSeal_eq, setSeal_plane]
    exact yields.field (fun u => u.planeImage c q) (by intros; rfl)
  · rw [eraseSeal_eq, sealWords_setSeal_ne _ _ h]
    exact yields.field (fun u => u.sealWords q c) (by intros; rfl)

theorem StoredAt.storeRegion {s : State} {q : Nat} {c : Bool} (h : s.StoredAt q c) (t : Store) (r : Nat) : (s.storeRegion t r).StoredAt q c := by
  by_cases same : t.physOf r = q ∧ t.plane r = c
  · obtain ⟨rfl, rfl⟩ := same
    exact storedAt_storeRegion_same s t r
  · obtain ⟨plane, words⟩ := storeRegion_elsewhere s t r same
    refine ⟨?_, words.trans h.2⟩
    rw [plane, h.1, State.image, State.image, storeRegion_arr]

/-! One wave (R26, R113) -/

/-- The regions of a wave are stored one after another. -/
def State.storeRegions (s : State) (t : Store) (rs : List Nat) : State := rs.foldl (fun (u : State) r => u.storeRegion t r) s

theorem storeRegions_stored (s : State) (t : Store) {rs : List Nat} {r : Nat} (hr : r ∈ rs) :
    (s.storeRegions t rs).StoredAt (t.physOf r) (t.plane r) :=
  foldl_once (fun _ => True) (fun u : State => u.StoredAt (t.physOf r) (t.plane r)) (fun (u : State) x => u.storeRegion t x) r
    (fun _ _ _ _ => trivial) (fun u _ => storedAt_storeRegion_same u t r) (fun _ x h => StoredAt.storeRegion h t x) rs hr s trivial

theorem storeRegions_arr (s : State) (t : Store) (rs : List Nat) : (s.storeRegions t rs).arr = s.arr :=
  foldl_keeps (fun u => u.arr) (fun u r => storeRegion_arr u t r) rs s

theorem storeRegions_elsewhere (s : State) (t : Store) {rs : List Nat} {q : Nat} {c : Bool}
    (h : ∀ r, r ∈ rs → ¬(t.physOf r = q ∧ t.plane r = c)) :
    (s.storeRegions t rs).planeImage c q = s.planeImage c q ∧ (s.storeRegions t rs).sealWords q c = s.sealWords q c :=
  ⟨foldl_keeps_mem (fun u => u.planeImage c q) rs s (fun u r hr => (storeRegion_elsewhere u t r (h r hr)).1),
    foldl_keeps_mem (fun u => u.sealWords q c) rs s (fun u r hr => (storeRegion_elsewhere u t r (h r hr)).2)⟩

/-- What a wave reads of the device state while Sweeper holds no window. -/
structure DeviceOf (s u : State) : Prop where
  window : u.fw.window = none
  dev : u.dev = s.dev
  regs : u.regs = s.regs

theorem DeviceOf.storeRegion {s u : State} (h : DeviceOf s u) (t : Store) (r : Nat) : DeviceOf s (u.storeRegion t r) := by
  obtain ⟨window, dev, regs⟩ := h
  rw [storeRegion_eq, yieldWindow_none window]
  unfold State.setDev State.setPlane State.eraseSeal
  cases t.plane r <;> split <;> exact ⟨window, dev, regs⟩

theorem storedRegs_congr {s u : State} (h : u.regs = s.regs) (t : Store) : u.storedRegs t = s.storedRegs t := by
  rw [State.storedRegs, State.devRegs, h, State.storedRegs, State.devRegs]

theorem storeRegion_planeDev {s u : State} (h : DeviceOf s u) (t : Store) :
    (u.storeRegion t 63).planeDev (t.plane 63) t.phys63 = { s.dev with regs := s.storedRegs t } := by
  obtain ⟨window, dev, regs⟩ := h
  rw [storeRegion_eq, if_pos rfl, yieldWindow_none window, dev, storedRegs_congr regs]
  exact planeDev_setDev_same _ t.phys63 (t.plane 63) _

theorem storeRegion_planeDev_other (u : State) (t : Store) {r : Nat} (hr : r ≠ 63) (p : Nat) (b : Bool) (hw : u.fw.window = none) :
    (u.storeRegion t r).planeDev b p = u.planeDev b p := by
  rw [storeRegion_eq, if_neg hr, yieldWindow_none hw]
  unfold State.setPlane State.eraseSeal
  cases t.plane r <;> rfl

theorem storeRegions_deviceOf {s : State} (t : Store) (rs : List Nat) (hw : s.fw.window = none) : DeviceOf s (s.storeRegions t rs) := by
  have step (xs : List Nat) : ∀ u, DeviceOf s u → DeviceOf s (u.storeRegions t xs) := by
    induction xs with
    | nil => exact fun _ h => h
    | cons x xs ih => exact fun u h => ih _ (h.storeRegion t x)
  exact step rs s ⟨hw, rfl, rfl⟩

/-- Region 63's wave saves the device state as its start finds it (R104; log entry 21). -/
theorem storeRegions_planeDev {s : State} (t : Store) {rs : List Nat} (hr : 63 ∈ rs) (hw : s.fw.window = none) :
    (s.storeRegions t rs).planeDev (t.plane 63) t.phys63 = { s.dev with regs := s.storedRegs t } := by
  have saved := foldl_once (DeviceOf s) (fun u : State => DeviceOf s u ∧ u.planeDev (t.plane 63) t.phys63 = { s.dev with regs := s.storedRegs t })
    (fun (u : State) x => u.storeRegion t x) 63 (fun _ x _ h => h.storeRegion t x) (fun u h => ⟨h.storeRegion t 63, storeRegion_planeDev h t⟩)
    (fun u x h => ⟨h.1.storeRegion t x, ?_⟩) rs hr s ⟨hw, rfl, rfl⟩
  · exact saved.2
  · by_cases hx : x = 63
    · rw [hx]
      exact storeRegion_planeDev h.1 t
    · exact (storeRegion_planeDev_other u t hx _ _ h.1.window).trans h.2

end Sys2Proof.Machine

namespace Sys2Proof.Machine
open Sys2Proof

/-! What a seal block reads as (R109, R110). -/

/-- A bit of a number, as the flag that was put there. -/
theorem bit_of_b2n {x i : Nat} {b : Bool} (h : x / 2 ^ i % 2 = b2n b) : bit x i = b := by
  rw [bit, h]
  cases b <;> rfl

/-- Word 2 of a seal block (Table 4-1). -/
theorem sealWord2_fields {r i b c : Nat} (hr : r < 64) (hi : i < 2) (hb : b < 2) (hc : c < 16) :
    let n := (r * 2 ^ 12 + i * 2 ^ 11 + b * 2 ^ 10 + c * 2 ^ 6) % 2 ^ 18
    bits n 17 12 = r ∧ n / 2 ^ 11 % 2 = i ∧ n / 2 ^ 10 % 2 = b ∧ bits n 9 6 = c := by
  simp only [bits]
  refine ⟨?_, ?_, ?_, ?_⟩ <;> omega

/-- Word 3 of a seal block (Table 4-1). -/
theorem sealWord3_fields {a n : Nat} (ha : a < 128) (hn : n < 128) :
    bits ((a * 2 ^ 11 + n * 2 ^ 4) % 2 ^ 18) 17 11 = a ∧ bits ((a * 2 ^ 11 + n * 2 ^ 4) % 2 ^ 18) 10 4 = n := by
  simp only [bits]
  constructor <;> omega

/-- The two CRC words of a seal block give back the CRC (R110). -/
theorem sealCrc_words (c : BitVec 32) :
    c.toNat = ((c.setWidth 16).setWidth 18 : Word).toNat % 65536 + 65536 * ((((c >>> 16).setWidth 16).setWidth 18 : Word).toNat % 65536) := by
  have := c.isLt
  simp only [BitVec.toNat_setWidth, BitVec.toNat_ushiftRight, Nat.shiftRight_eq_div_pow]
  omega

/-- What the fields of a seal hold (Table 4-1). -/
structure Seal.Fits (x : Seal) : Prop where
  epoch : x.epoch < 2 ^ 36
  region : x.region < 64
  cause : x.cause < 16
  acount : x.acount < 128
  some_ : 0 < x.nstore
  nstore : x.nstore < 128

theorem words_length (x : Seal) : x.words.length = 8 := rfl

/-- A seal of a region that holds it reads back whole. -/
theorem readSeal_words (x : Seal) (p : Nat) (h : x.Fits) (hp : x.region = p ∨ x.region = 63 ∧ p % 4 = 3) : readSeal p x.words = some x := by
  obtain ⟨hepoch, hregion, hcause, hacount, hsome, hnstore⟩ := h
  have n0 : (x.words.getD 0 0#18).toNat = x.epoch % 2 ^ 18 := BitVec.toNat_ofNat _ _
  have n1 : (x.words.getD 1 0#18).toNat = x.epoch / 2 ^ 18 % 2 ^ 18 := BitVec.toNat_ofNat _ _
  have n2 : (x.words.getD 2 0#18).toNat = (x.region * 2 ^ 12 + b2n x.indep * 2 ^ 11 + b2n x.planeB * 2 ^ 10 + x.cause * 2 ^ 6) % 2 ^ 18 :=
    BitVec.toNat_ofNat _ _
  have n3 : (x.words.getD 3 0#18).toNat = (x.acount * 2 ^ 11 + x.nstore * 2 ^ 4) % 2 ^ 18 := BitVec.toNat_ofNat _ _
  obtain ⟨region, indep, planeB, cause⟩ := sealWord2_fields hregion (b2n_lt x.indep) (b2n_lt x.planeB) hcause
  obtain ⟨acount, nstore⟩ := sealWord3_fields hacount hnstore
  rw [← n2] at region indep planeB cause
  rw [← n3] at acount nstore
  have written : x.words.all (fun w => decide (w = 0#18)) = false := by
    rw [List.all_eq_false]
    refine ⟨x.words.getD 3 0#18, List.mem_of_getElem (i := 3) (h := by rw [words_length]; decide) rfl, ?_⟩
    intro zero
    rw [of_decide_eq_true zero] at nstore
    exact absurd nstore (Nat.ne_of_lt hsome)
  have crc : (crc32c (sealBytes x.words)).toNat = (x.words.getD 6 0#18).toNat % 65536 + 65536 * ((x.words.getD 7 0#18).toNat % 65536) :=
    sealCrc_words (crc32c (sealBytes x.body))
  rw [readSeal, written, if_neg (by decide)]
  dsimp only
  rw [if_pos ⟨crc, by rw [region]; exact hp⟩, region, bit_of_b2n indep, bit_of_b2n planeB, cause, acount, nstore, n0, n1]
  have epoch : x.epoch % 2 ^ 18 + 2 ^ 18 * (x.epoch / 2 ^ 18 % 2 ^ 18) = x.epoch := by omega
  rw [epoch]

theorem sealFor_fits {t : Store} {r : Nat} (hr : r < 64) (he : t.epoch < 2 ^ 36) (ha : t.acount < 128) (hne : t.regions ≠ [])
    (hl : t.regions.length < 128) : (sealFor t r).Fits :=
  ⟨he, hr, cause_lt t.cause, ha, List.length_pos_of_ne_nil hne, hl⟩

/-! The waves and the seal of a store (R26, R111, R113, R123). -/

/-- A wave stores its regions from the state that it starts in: the present one, where no wave ran before it. -/
theorem waveStart_eq (s : State) (t w : Store) (k : Nat) (hk : t.wave = 0 ∨ k ≠ 1) (hw : w = s.atWave t k) :
    ∃ x : State, s.waveStart t k = x.storeRegions w (w.waveSet k) ∧ (t.wave = 0 → x = { s with store := some w }) := by
  subst hw
  by_cases h : t.wave = 0
  · refine ⟨{ s with store := some (s.atWave t k) }, ?_, fun _ => rfl⟩
    rw [State.waveStart, if_pos h]
    rfl
  · have place : (s.waveEnd t).atWave t k = s.atWave t k := by
      rw [atWave_later _ _ _ (hk.resolve_left h), atWave_later _ _ _ (hk.resolve_left h)]
    refine ⟨{ s.waveEnd t with store := some (s.atWave t k) }, ?_, fun h0 => absurd h0 h⟩
    rw [State.waveStart, if_neg h]
    dsimp only
    rw [place]
    rfl

/-- A wave of a Volley starts with energy for it, or from VIN (R114, R121). -/
theorem exec_volleyWaveStart_starts {v : BitVec 10} {s : State} {t : Store} (hst : s.pwr.st = .volley) (hs : s.store = some t)
    (hf : t.frozen = true) (hne : t.regions ≠ []) (hw : t.wave < t.waves) (hv : t.fromVin = true ∨ t.thresholds.getD t.wave 0 ≤ v.toNat) :
    exec (.volleyWaveStart v) s = .next (((s.put Reg.VOL_VHOLD_VHOLD v.toNat).waveStart t (t.wave + 1)).stepCode
      (Store.code { t with wave := t.wave + 1 })) := by
  have store : (s.put Reg.VOL_VHOLD_VHOLD v.toNat).store = some t := hs
  have now : (s.put Reg.VOL_VHOLD_VHOLD v.toNat).frozenNow = s.put Reg.VOL_VHOLD_VHOLD v.toNat := by
    rw [State.frozenNow, store]
    exact if_pos hf
  have enough : (!t.fromVin && decide (v.toNat < t.thresholds.getD t.wave 0)) = false := by
    rcases hv with h | h
    · rw [h]
      rfl
    · rw [decide_eq_false (Nat.not_lt.mpr h), Bool.and_false]
  refine congrArg Host.Outcome.next ((if_pos hst).trans ?_)
  rw [State.volleyWave, now, store]
  dsimp only
  rw [if_neg (by simpa using hne), if_neg (Nat.not_le.mpr hw), enough, if_neg (by decide)]

/-- A store with regions has a wave. -/
theorem waves_pos {t : Store} (h : t.regions ≠ []) : 0 < t.waves := by
  have := List.length_pos_of_ne_nil h
  show 0 < (t.regions.length + (8 - 1)) / 8
  omega

/-- The code on MP[7:5] moves and nothing else (R66). -/
theorem stepCode_cases (s : State) (c : BitVec 3) : ∃ d, s.stepCode c = s.setCode d := by
  unfold State.stepCode
  split
  · exact ⟨s.pwr.progress, rfl⟩
  · exact ⟨_, rfl⟩

theorem filter_insertSorted {V : Type} (q : Nat × V → Bool) (m : Map V) (k : Nat) (v : V) (h : q (k, v) = false) :
    (Map.insertSorted k v m).filter q = m.filter q := by
  induction m with
  | nil => exact List.filter_cons_of_neg (by rw [h]; decide)
  | cons e m ih =>
    rw [Map.insertSorted]
    split
    · exact List.filter_cons_of_neg (by rw [h]; decide)
    · rw [List.filter_cons, List.filter_cons, ih]

/-- A test that a key fails does not see a write there. -/
theorem filter_set {V : Type} [DecidableEq V] (d : Nat → V) (q : Nat × V → Bool) (m : Map V) (k : Nat) (v : V) (h : ∀ x, q (k, x) = false) :
    (Map.set d m k v).filter q = m.filter q := by
  have erased : (Map.erase m k).filter q = m.filter q := by
    rw [Map.erase, List.filter_filter]
    refine List.filter_congr (fun e _ => ?_)
    by_cases he : e.1 = k
    · have fails : q e = false := by
        rw [← h e.2, ← he]
      rw [fails, Bool.false_and]
    · rw [decide_eq_true he, Bool.and_true]
  unfold Map.set
  split
  · exact erased
  · rw [filter_insertSorted q _ k v (h v), erased]

/-- VHOLD is no register of region 63's device state. -/
theorem devRegs_put_vhold (s : State) (v : Nat) : (s.put Reg.VOL_VHOLD_VHOLD v).devRegs = s.devRegs := by
  rw [State.devRegs, State.devRegs, List.filter_map, List.filter_map]
  refine congrArg _ (filter_set regReset _ s.regs 0x604 _ (fun x => ?_))
  rw [Function.comp_apply]
  exact decide_eq_false (fun h => h.1 rfl)

/-- A region below 63 is stored into the plane that it did not come from (R111). -/
theorem targetPlane_chosen (s : State) (r : Nat) (hr : r < 63) : (∀ c, chosen s.seals r = some c → s.targetPlane s.seals r = !c.1.planeB) ∧
    (chosen s.seals r = none → s.targetPlane s.seals r = false) := by
  constructor
  · intro c h
    rw [State.targetPlane, if_neg (Nat.ne_of_lt hr), show choosePlane s.seals (sealsOf s.seals r) = some c from h]
  · intro h
    rw [State.targetPlane, if_neg (Nat.ne_of_lt hr), show choosePlane s.seals (sealsOf s.seals r) = none from h]

/-- A store's seal blocks are written, one for each region (R113). -/
def State.sealRegions (s : State) (t : Store) (rs : List Nat) : State := rs.foldl (fun (u : State) r => u.writeSeal t r) s

theorem sealRegions_planes (s : State) (t : Store) (rs : List Nat) :
    (s.sealRegions t rs).planeA = s.planeA ∧ (s.sealRegions t rs).planeB = s.planeB := by
  have one (u : State) (r : Nat) : (u.writeSeal t r).planeA = u.planeA ∧ (u.writeSeal t r).planeB = u.planeB := by
    unfold State.writeSeal State.setSeal
    cases t.plane r <;> exact ⟨rfl, rfl⟩
  exact ⟨foldl_keeps (fun u => u.planeA) (fun u r => (one u r).1) rs s, foldl_keeps (fun u => u.planeB) (fun u r => (one u r).2) rs s⟩

/-- A seal block that no region of the list is sealed in stays. -/
theorem sealRegions_elsewhere (s : State) (t : Store) {rs : List Nat} {p : Nat} {b : Bool} (h : ∀ r, r ∈ rs → ¬(t.physOf r = p ∧ t.plane r = b)) :
    (s.sealRegions t rs).sealWords p b = s.sealWords p b :=
  foldl_keeps_mem (fun u => u.sealWords p b) rs s (fun u r hr => sealWords_setSeal_ne u _ (h r hr))

/-- Regions in different places each keep their own seal block (R109). -/
theorem sealRegions_words (t : Store) : ∀ (rs : List Nat) (s : State), (rs.map t.physOf).Nodup → ∀ r, r ∈ rs →
    (s.sealRegions t rs).sealWords (t.physOf r) (t.plane r) = (sealFor t r).words
  | [], _, _, _, h => absurd h List.not_mem_nil
  | x :: xs, s, hn, r, hr => by
    obtain ⟨apart, rest⟩ := List.nodup_cons.mp hn
    rcases List.mem_cons.mp hr with rfl | hr
    · refine (sealRegions_elsewhere (s.writeSeal t r) t (fun y hy same => apart ?_)).trans ?_
      · rw [← same.1]
        exact List.mem_map_of_mem hy
      · exact sealWords_setSeal_same s _ _ (words_length _)
    · exact sealRegions_words t xs _ rest r hr

/-- VOL_ATOMIC follows the seal blocks (R136); both are registers. -/
theorem writeSeals_blocks (s : State) (t : Store) : (s.writeSeals t).planeA = s.planeA ∧ (s.writeSeals t).planeB = s.planeB ∧
    ∀ p b, (s.writeSeals t).sealWords p b = (s.sealRegions t t.regions).sealWords p b := by
  obtain ⟨planeA, planeB⟩ := sealRegions_planes s t t.regions
  unfold State.writeSeals
  dsimp only
  split
  · exact ⟨planeA, planeB, fun _ _ => rfl⟩
  · exact ⟨planeA, planeB, fun _ _ => rfl⟩

/-- The end of a Volley with VSTBY good leaves planes and seal blocks (R43). -/
theorem volleyEnd_blocks (s : State) (t : Store) (r w v time : Nat) (hv : s.vstbyOk = true) :
    (s.volleyEnd t r w v time).planeA = s.planeA ∧ (s.volleyEnd t r w v time).planeB = s.planeB ∧
    (s.volleyEnd t r w v time).sealA = s.sealA ∧ (s.volleyEnd t r w v time).sealB = s.sealB := by
  have good : (s.storeOver t r w v time).vstbyOk = true := by
    refine (vstbyOk_of_out ?_).trans hv
    exact (State.get_put_two _ _ _ (by decide) (by decide)).trans (State.get_setReg_ne _ _ (by decide))
  have up : (s.storeOver t r w v time).unpower.vstbyOk = true := (unpower_vstbyOk _).trans good
  rw [State.volleyEnd, State.enterDark]
  dsimp only
  rw [up, if_neg (by decide)]
  split <;> exact ⟨rfl, rfl, rfl, rfl⟩

/-- Seal blocks and VOL_ATOMIC leave VSTBY's comparator. -/
theorem writeSeals_vstbyOk (s : State) (t : Store) : (s.writeSeals t).vstbyOk = s.vstbyOk := by
  have out : (s.sealRegions t t.regions).get Reg.SUP_OUT_OUT = s.get Reg.SUP_OUT_OUT := by
    refine foldl_keeps (fun u => u.get Reg.SUP_OUT_OUT) (fun u r => ?_) _ s
    unfold State.writeSeal State.setSeal
    cases t.plane r <;> rfl
  refine vstbyOk_of_out (Eq.trans ?_ out)
  unfold State.writeSeals
  dsimp only
  split
  · exact (State.get_put_ne _ _ (by decide)).trans ((State.get_setReg_ne _ _ (by decide)).trans (State.get_setReg_ne _ _ (by decide)))
  · rfl

theorem vstbyOk_put_vhold (s : State) (v : Nat) : (s.put Reg.VOL_VHOLD_VHOLD v).vstbyOk = s.vstbyOk :=
  vstbyOk_of_out (State.get_put_ne _ _ (by decide))

/-- The seal of a Volley is written and the store has ended (R113). -/
theorem exec_storeSealComplete_volley {v : BitVec 10} {s : State} {t : Store} (hst : s.pwr.st = .volley) (hs : s.store = some t)
    (hf : t.frozen = true) (hne : t.regions ≠ []) (hw : t.wave = t.waves + 1) :
    exec (.storeSealComplete v) s = .next (((s.put Reg.VOL_VHOLD_VHOLD v.toNat).writeSeals t).volleyEnd t 0 t.waves v.toNat
      (t.boundary t.waves + 40)) := by
  show execStoreSealComplete v s = _
  rw [execStoreSealComplete, hs]
  exact congrArg Host.Outcome.next ((if_pos ⟨hf, hne, hw⟩).trans (if_pos hst))

/-- VHOLD reaches the floor within a wave (R123, Table 4-8). -/
theorem exec_vholdFloor_wave {e : Nat} {s : State} {t : Store} (hst : s.pwr.st = .volley) (hs : s.store = some t) (hv : t.fromVin = false)
    (h1 : 1 ≤ t.wave) (h2 : t.wave ≤ t.waves) :
    exec (.vholdFloor e) s = .next (((s.put Reg.VOL_VHOLD_VHOLD vFloor).cutWave t).volleyEnd t 2 (t.wave - 1) vFloor e) := by
  show execVholdFloor e s = _
  rw [execVholdFloor, hs]
  refine congrArg Host.Outcome.next ((if_pos ⟨hst, by rw [hv]; decide⟩).trans ?_)
  exact (if_neg (Nat.ne_of_gt h1)).trans (if_pos h2)

theorem exec_checkpointWaveStart {s : State} {t : Store} (hv : s.serving = true) (hs : s.store = some t) (hf : t.frozen = true)
    (hw : t.wave < t.waves) : exec .checkpointWaveStart s = .next (s.waveStart t (t.wave + 1)) := by
  show execCheckpointWaveStart s = _
  rw [execCheckpointWaveStart, hs]
  exact congrArg Host.Outcome.next (if_pos ⟨hv, hf, hw⟩)

theorem cutWave_vstbyOk (s : State) (t : Store) : (s.cutWave t).vstbyOk = s.vstbyOk := by
  refine vstbyOk_of_out (foldl_keeps (fun u => u.get Reg.SUP_OUT_OUT) (fun u r => ?_) _ s)
  unfold State.spoilPlane
  dsimp only
  split_ifs <;> rfl

theorem spoilPlane_elsewhere (s : State) {p q : Nat} {b c : Bool} (is63 : Bool) (h : ¬(p = q ∧ b = c)) :
    (s.spoilPlane p b is63).planeImage c q = s.planeImage c q := by
  have image : (s.spoilPlane p b is63).planeImage c q = (s.setPlane p b (freeImageOf s.free p)).planeImage c q := by
    unfold State.spoilPlane State.setPlane
    cases b <;> cases is63 <;> rfl
  rw [image, planeImage_setPlane_ne _ _ h]

/-- A cut wave writes no seal block and leaves every plane but its own (R27, R123). -/
theorem cutWave_blocks (s : State) (t : Store) : (s.cutWave t).sealA = s.sealA ∧ (s.cutWave t).sealB = s.sealB ∧
    ∀ p b, (∀ r, r ∈ t.waveSet t.wave → ¬(t.physOf r = p ∧ t.plane r = b)) → (s.cutWave t).planeImage b p = s.planeImage b p := by
  have one (u : State) (p : Nat) (b is63 : Bool) : (u.spoilPlane p b is63).sealA = u.sealA ∧ (u.spoilPlane p b is63).sealB = u.sealB := by
    unfold State.spoilPlane
    cases b <;> cases is63 <;> exact ⟨rfl, rfl⟩
  exact ⟨foldl_keeps (fun u => u.sealA) (fun u r => (one u _ _ _).1) _ s, foldl_keeps (fun u => u.sealB) (fun u r => (one u _ _ _).2) _ s,
    fun p b h => foldl_keeps_mem (fun u => u.planeImage b p) _ s (fun u r hr => spoilPlane_elsewhere u _ (h r hr))⟩

/-- Settles O35: each wave by the copy of its regions, the seal by Table 4-1's words. -/
theorem storedContents : Obligations.StoredContents := by
  refine ⟨fun v s t w hst hs hf hne hlt hv _ hw => ?_, fun v s t w hst hs hf h0 hne hv hwin hw => ?_, fun s t w hserve hs hf h0 hne hw => ?_,
    targetPlane_chosen, fun v s t hst hs hf hne hwave hok hn => ?_,
    fun t r p hr hp he ha hne hl => readSeal_words _ p (sealFor_fits hr he ha hne hl) hp, fun e s t hst hs hv h1 h2 hok => ?_⟩
  · obtain ⟨x, start, -⟩ := waveStart_eq (s.put Reg.VOL_VHOLD_VHOLD v.toNat) t w (t.wave + 1)
      ((Nat.eq_zero_or_pos t.wave).imp_right (fun h => by omega)) hw
    obtain ⟨d, code⟩ := stepCode_cases (x.storeRegions w (w.waveSet (t.wave + 1))) (Store.code { t with wave := t.wave + 1 })
    rw [exec_volleyWaveStart_starts hst hs hf hne hlt hv, start, code]
    exact ⟨_, rfl, fun r hr => storeRegions_stored x w hr⟩
  · obtain ⟨x, start, first⟩ := waveStart_eq (s.put Reg.VOL_VHOLD_VHOLD v.toNat) t w (t.wave + 1) (.inl h0) (by rw [h0]; exact hw)
    obtain ⟨d, code⟩ := stepCode_cases (x.storeRegions w (w.waveSet (t.wave + 1))) (Store.code { t with wave := t.wave + 1 })
    rw [exec_volleyWaveStart_starts hst hs hf hne (by rw [h0]; exact waves_pos hne) (by rw [h0]; exact hv), start, code, first h0, h0]
    have device := storeRegions_deviceOf (s := { s.put Reg.VOL_VHOLD_VHOLD v.toNat with store := some w }) w (w.waveSet 1) hwin
    refine ⟨_, rfl, storeRegions_arr _ w _, device.dev, fun h63 => ?_, fun p b h => ?_⟩
    · refine (storeRegions_planeDev (s := { s.put Reg.VOL_VHOLD_VHOLD v.toNat with store := some w }) w h63 hwin).trans ?_
      have regs : State.storedRegs { s.put Reg.VOL_VHOLD_VHOLD v.toNat with store := some w } w = s.storedRegs w :=
        congrArg (fun m => Map.set regReset m 0x289 (BitVec.ofNat 18 (w.hotRange.1 + w.hotRange.2 * 2 ^ 9))) (devRegs_put_vhold s v.toNat)
      rw [regs]
      rfl
    · obtain ⟨plane, words⟩ := storeRegions_elsewhere { s.put Reg.VOL_VHOLD_VHOLD v.toNat with store := some w } w h
      exact ⟨plane, fun _ => words⟩
  · obtain ⟨x, start, first⟩ := waveStart_eq s t w (t.wave + 1) (.inl h0) (by rw [h0]; exact hw)
    rw [exec_checkpointWaveStart hserve hs hf (by rw [h0]; exact waves_pos hne), start, first h0, h0]
    refine ⟨_, rfl, storeRegions_arr _ w _, fun r hr => ?_⟩
    obtain ⟨plane, words⟩ := storeRegions_stored { s with store := some w } w hr
    refine ⟨plane.trans ?_, words⟩
    rw [State.image, storeRegions_arr, State.image]
  · obtain ⟨sealedA, sealedB, blocks⟩ := writeSeals_blocks (s.put Reg.VOL_VHOLD_VHOLD v.toNat) t
    obtain ⟨planeA, planeB, sealA, sealB⟩ := volleyEnd_blocks ((s.put Reg.VOL_VHOLD_VHOLD v.toNat).writeSeals t) t 0 t.waves v.toNat
      (t.boundary t.waves + 40) (by rw [writeSeals_vstbyOk, vstbyOk_put_vhold, hok])
    have words (p : Nat) (b : Bool) : (((s.put Reg.VOL_VHOLD_VHOLD v.toNat).writeSeals t).volleyEnd t 0 t.waves v.toNat
        (t.boundary t.waves + 40)).sealWords p b = ((s.put Reg.VOL_VHOLD_VHOLD v.toNat).sealRegions t t.regions).sealWords p b := by
      rw [← blocks, State.sealWords, sealA, sealB, State.sealWords]
    refine ⟨_, exec_storeSealComplete_volley hst hs hf hne hwave, planeA.trans sealedA, planeB.trans sealedB, fun r hr => ?_, fun p b h => ?_⟩
    · exact (words _ _).trans (sealRegions_words t t.regions _ hn r hr)
    · exact (words _ _).trans (sealRegions_elsewhere _ t h)
  · obtain ⟨cutA, cutB, planes⟩ := cutWave_blocks (s.put Reg.VOL_VHOLD_VHOLD vFloor) t
    obtain ⟨planeA, planeB, sealA, sealB⟩ := volleyEnd_blocks ((s.put Reg.VOL_VHOLD_VHOLD vFloor).cutWave t) t 2 (t.wave - 1) vFloor e
      (by rw [cutWave_vstbyOk, vstbyOk_put_vhold, hok])
    refine ⟨_, exec_vholdFloor_wave hst hs hv h1 h2, sealA.trans cutA, sealB.trans cutB, fun p b h => ?_⟩
    refine Eq.trans ?_ (planes p b h)
    rw [State.planeImage, planeA, planeB, State.planeImage]

end Sys2Proof.Machine

namespace Sys2Proof.Machine
open Sys2Proof

/-! What an access of the device's own and an event leave of the ledger (R82, R83, R183, R357). -/

theorem notify_led (s : State) (c : IClass) (h : PHost) : (s.notify c h).led = s.led := by
  unfold State.notify State.msix
  dsimp only
  split_ifs <;> rfl

theorem event_led (s : State) (ev : Fld) (a : Nat) (c : IClass) (hs : List PHost) : (s.event ev a c hs).led = s.led := by
  unfold State.event
  dsimp only
  split_ifs
  · rfl
  · exact foldl_keeps (fun t => t.led) (fun t h => notify_led t c h) hs _
  · rfl

/-- What no write of a field changes, a saturating count leaves. -/
theorem bump_keeps {β : Type} (p : State → β) (h : ∀ t (f : Fld) v, p (t.put f v) = p t) (s : State) (f : Fld) : p (s.bump f) = p s := by
  unfold State.bump
  split
  · exact h _ _ _
  · rfl

theorem yieldWindow_led (s : State) (r : Nat) : (s.yieldWindow r).led = s.led := (yieldWindow_yields s r).field State.led (by intros; rfl)

theorem log_led (s : State) (a b c d e : Nat) : (s.log a b c d e).led = s.led :=
  log_keeps (fun t => t.led) (by intros; rfl) (by intros; rfl) (by intros; rfl) _ _ _ _ _ _

theorem leave_led (s : State) (r : Nat) : (s.leave r).led = s.led := by
  unfold State.leave
  split <;> rfl

theorem relocate_led (s : State) : s.relocate.led = s.led := by
  unfold State.relocate
  split
  · rfl
  · split
    · exact (yieldWindow_led _ _).trans (yieldWindow_led _ _)
    · exact event_led _ _ _ _ _

theorem retireNow_led (s : State) (r c cl : Nat) : (s.retireNow r c cl).led = s.led :=
  (log_led _ _ _ _ _ _).trans ((event_led _ _ _ _ _).trans (leave_led s r))

theorem retire_led (s : State) (r c cl : Nat) : (s.retire r c cl).led = s.led := by
  unfold State.retire
  split_ifs
  · exact relocate_led s
  · exact retireNow_led s r c cl
  · exact (log_led _ _ _ _ _ _).trans ((event_led _ _ _ _ _).trans (leave_led _ r))
  · rfl
  · rfl

theorem replace_led (s : State) (r cl c : Nat) : (s.replace r cl c).led = s.led := by
  unfold State.replace
  split
  · rfl
  · split
    · split <;> rfl
    · split
      · exact retire_led s r c cl
      · exact yieldWindow_led s r

theorem markIn_led (s : State) (p r cw : Nat) : (s.markIn p r cw).led = s.led :=
  (replace_led _ _ _ _).trans ((log_led _ _ _ _ _ _).trans (event_led _ _ _ _ _))

theorem touch_led (s : State) (cw : Nat) : (s.touch cw).1.led = s.led := by
  have reached : (s.access (s.cwOwner cw) cw).led = s.led := (access_yields s _ cw).field State.led (by intros; rfl)
  unfold State.touch
  dsimp only
  split
  · exact reached
  · exact reached
  · exact (markIn_led _ _ _ _).trans reached
  · exact reached

theorem meetCws_led (n : Nat) : ∀ (s : State) (cw : Nat), (s.meetCws n cw).led = s.led := by
  induction n with
  | zero => exact fun _ _ => rfl
  | succ n ih => exact fun s cw => (ih _ _).trans (touch_led s cw)

theorem meetRec_led (s : State) (i : Nat) : (s.meetRec i).led = s.led := meetCws_led _ _ _

theorem setRecord_led (s : State) (i : Nat) (r : Rec) : (s.setRecord i r).led = s.led :=
  (touched_setW18s _ _ _).field State.led (by intros; rfl)

end Sys2Proof.Machine

namespace Sys2Proof.Machine
open Sys2Proof

/-! Pulse queues and counts (R275, R279). -/

theorem queue_congr {s t : State} (h : t.led.queues = s.led.queues) (q : Nat) : t.queue q = s.queue q := by
  unfold State.queue
  rw [h]

@[simp] theorem State.queue_setQueue_same (s : State) (q : Nat) (xs : List Nat) : (s.setQueue q xs).queue q = xs := Map.get_set_same _ _ _ _

theorem State.queue_setQueue_ne (s : State) {q r : Nat} (xs : List Nat) (h : r ≠ q) : (s.setQueue q xs).queue r = s.queue r :=
  Map.get_set_ne _ _ _ h

/-- Queues filtered one after another: each that is named keeps what satisfies P, the others stay. -/
theorem queue_filterQueues (P : Nat → Bool) (r : Nat) : ∀ (qs : List Nat) (s : State),
    (qs.foldl (fun (t : State) q => t.setQueue q ((t.queue q).filter P)) s).queue r = if r ∈ qs then (s.queue r).filter P else s.queue r
  | [], _ => rfl
  | q :: qs, s => by
    rw [List.foldl_cons, queue_filterQueues P r qs]
    by_cases h : r = q
    · subst h
      simp [List.filter_filter]
    · simp [State.queue_setQueue_ne _ _ h, h]

theorem mem_queueNumbers {q : Nat} (hq : q < 3) : q ∈ [0, 1, 2] := by
  simp only [List.mem_cons, List.not_mem_nil, or_false]
  omega

theorem not_mem_unqueue (s : State) (i : Nat) {r : Nat} (hr : r < 3) : i ∉ (s.unqueue i).queue r := by
  unfold State.unqueue
  rw [queue_filterQueues, if_pos (mem_queueNumbers hr)]
  simp

/-- A record enters no queue that its new PROGRESS is past (R275). -/
theorem queueFor_ge {s : State} {p q : Nat} (h : s.queueFor p = some q) : p - 3 ≤ q := by
  unfold State.queueFor at h
  split_ifs at h <;> cases h <;> omega

/-- A record leaves the queues that it is stamped past (R275). -/
theorem not_mem_requeue (s : State) (i : Nat) {p q : Nat} (hq : q < p - 3) : i ∉ (s.requeue i p).queue q := by
  have swept : i ∉ ((List.range (p - 3)).foldl (fun (t : State) q => t.setQueue q ((t.queue q).filter (fun j => decide (j ≠ i)))) s).queue q := by
    rw [queue_filterQueues, if_pos (List.mem_range.mpr hq)]
    simp
  unfold State.requeue
  dsimp only
  split
  · next r hr =>
    have past := queueFor_ge hr
    split
    · exact swept
    · rw [State.queue_setQueue_ne _ _ (by omega)]
      exact swept
  · exact swept

/-- Queues are all that a record's move between them changes. -/
theorem requeue_keeps {β : Type} (f : State → β) (h : ∀ t q xs, f (State.setQueue t q xs) = f t) (s : State) (i p : Nat) :
    f (s.requeue i p) = f s := by
  have swept := foldl_keeps f (fun (t : State) q => h t q ((t.queue q).filter (fun j => decide (j ≠ i)))) (List.range (p - 3)) s
  unfold State.requeue
  dsimp only
  split
  · split
    · exact swept
    · exact (h _ _ _).trans swept
  · exact swept

/-- What counters, their credits and increments, SAT and DUE are no part of, a count leaves (R279, R280, R282). -/
theorem count_keeps {β : Type} (f : State → β) (dev : ∀ (t : State) d, f { t with dev := d } = f t)
    (led : ∀ (t : State) c n b, f { t with led := { t.led with credits := c, incr := n, changed := b } } = f t)
    (sat : ∀ t : State, f (t.ledEvent Reg.LED_EVENT_SAT) = f t) (due : ∀ t : State, f (t.put Reg.LED_KEEP_STAT_DUE 1) = f t)
    (s : State) (srcs : List Nat) (cut : Bool) : f (s.count srcs cut) = f s := by
  have either {c : Prop} [Decidable c] {t u : State} (h : f t = f u) : f (if c then t else u) = f u := by
    split
    · exact h
    · rfl
  have one (t : State) (i : Nat) : f (t.countOne i cut) = f t := by
    unfold State.countOne
    split
    · exact led t _ _ _
    · split
      · exact sat t
      · exact (either (due _)).trans ((led _ _ _ _).trans ((either (sat _)).trans (dev t _)))
  exact foldl_keeps f (fun t i => either (one t i)) _ _

theorem count_queues (s : State) (srcs : List Nat) (cut : Bool) : (s.count srcs cut).led.queues = s.led.queues :=
  count_keeps (fun t => t.led.queues) (fun _ _ => rfl) (fun _ _ _ _ => rfl) (fun t => congrArg Ledger.queues (event_led t _ _ _ _)) (fun _ => rfl) s srcs cut

theorem count_cells (s : State) (srcs : List Nat) (cut : Bool) : (s.count srcs cut).arr = s.arr ∧ (s.count srcs cut).phys63 = s.phys63 :=
  ⟨count_keeps (fun t => t.arr) (fun _ _ => rfl) (fun _ _ _ _ => rfl) (fun t => (event_arr t _ _ _ _).1) (fun _ => rfl) s srcs cut,
    count_keeps (fun t => t.phys63) (fun _ _ => rfl) (fun _ _ _ _ => rfl) (fun t => (event_arr t _ _ _ _).2) (fun _ => rfl) s srcs cut⟩

theorem count_jamEvent (s : State) (srcs : List Nat) (cut : Bool) : (s.count srcs cut).get Reg.LED_EVENT_JAM = s.get Reg.LED_EVENT_JAM :=
  count_keeps (fun t => t.get Reg.LED_EVENT_JAM) (fun _ _ => rfl) (fun _ _ _ _ => rfl) (fun t => event_get_apart t _ _ _ _ _ (by decide) (.inl (by decide)))
    (fun t => State.get_put_ne t _ (by decide)) s srcs cut

end Sys2Proof.Machine

namespace Sys2Proof.Machine
open Sys2Proof

/-! The stamps of pulses, JAM and stage timeouts (R275, R276, R277). -/

/-- A progress stamp's counts come after its record and its queues (R275, R279). -/
theorem stampProgress_keeps {β : Type} (f : State → β) (h : ∀ t srcs cut, f (State.count t srcs cut) = f t) (s : State) (i p t : Nat) :
    f (s.stampProgress i p t) = f ((s.setRecord i { (s.record i).setProgress p with time := t }).requeue i p) := by
  unfold State.stampProgress
  dsimp only
  split
  · exact h _ _ _
  · split
    · exact h _ _ _
    · rfl

theorem not_mem_stampProgress (s : State) (i t : Nat) {p q : Nat} (hq : q < p - 3) : i ∉ (s.stampProgress i p t).queue q := by
  rw [queue_congr (stampProgress_keeps (fun u => u.led.queues) count_queues s i p t)]
  exact not_mem_requeue _ i hq

theorem stampProgress_words (s : State) {i : Nat} (p t : Nat) (hi : i < 1048576) :
    (s.stampProgress i p t).w18s (recAddr i) 8 = ({ (s.record i).setProgress p with time := t } : Rec).words := by
  have arr : (s.stampProgress i p t).arr = (s.setRecord i { (s.record i).setProgress p with time := t }).arr :=
    (stampProgress_keeps (fun u => u.arr) (fun u a b => (count_cells u a b).1) s i p t).trans (requeue_keeps (fun u => u.arr) (fun _ _ _ => rfl) _ i p)
  have home : (s.stampProgress i p t).phys63 = (s.setRecord i { (s.record i).setProgress p with time := t }).phys63 :=
    (stampProgress_keeps (fun u => u.phys63) (fun u a b => (count_cells u a b).2) s i p t).trans (requeue_keeps (fun u => u.phys63) (fun _ _ _ => rfl) _ i p)
  rw [recWords_congr _ _ arr home i hi, setRecord_words _ _ _ hi]

/-- A spoil changes its record and the counters (R274). -/
theorem stampSpoil_keeps {β : Type} (f : State → β) (record : ∀ t i r, f (State.setRecord t i r) = f t)
    (count : ∀ t srcs cut, f (State.count t srcs cut) = f t) (s : State) (i c t : Nat) : f (s.stampSpoil i c t) = f s := by
  unfold State.stampSpoil
  dsimp only
  split
  · exact (count _ _ _).trans (record _ _ _)
  · rfl

theorem stampSpoil_queues (s : State) (i c t : Nat) : (s.stampSpoil i c t).led.queues = s.led.queues :=
  stampSpoil_keeps (fun u => u.led.queues) (fun u j r => congrArg Ledger.queues (setRecord_led u j r)) count_queues s i c t

theorem setRecord_jamEvent (s : State) (i : Nat) (r : Rec) : (s.setRecord i r).get Reg.LED_EVENT_JAM = s.get Reg.LED_EVENT_JAM :=
  (Same.setRecord (P := fun a => a = 0xC02) (fun a ha => by omega) s i r).get _ rfl

theorem meetRec_jamEvent (s : State) (i : Nat) : (s.meetRec i).get Reg.LED_EVENT_JAM = s.get Reg.LED_EVENT_JAM :=
  (Same.meetRec s i).get _ (by unfold offAccess; decide)

/-- Past the queues, a JAM pulse counts, counts a stray and spoils the records that it takes (R276). -/
theorem ledApply_jam_keeps {β : Type} (f : State → β) (count : ∀ t srcs cut, f (State.count t srcs cut) = f t)
    (stray : ∀ t : State, f (t.bump Reg.LED_STRAY_JAM) = f t) (spoil : ∀ (t : State) i time, f ((t.meetRec i).stampSpoil i 9 time) = f t)
    (s : State) (taken : List Nat) (t : Nat) : f (s.ledApply (.jam taken t)) =
      f ([0, 1, 2].foldl (fun (u : State) q => u.setQueue q ((u.queue q).filter (fun i => !taken.contains i))) s) := by
  unfold State.ledApply
  dsimp only
  refine (foldl_keeps f (fun u i => spoil u i t) _ _).trans ?_
  split
  · exact (stray _).trans (count _ _ _)
  · exact count _ _ _

/-- The records that a JAM pulse takes leave the queues (R276). -/
theorem queue_ledApply_jam (s : State) (taken : List Nat) (t : Nat) {q : Nat} (hq : q < 3) :
    (s.ledApply (.jam taken t)).queue q = (s.queue q).filter (fun i => !taken.contains i) := by
  have kept := ledApply_jam_keeps (fun u => u.led.queues) count_queues (bump_keeps (fun u => u.led.queues) (fun _ _ _ => rfl) · _)
    (fun u i time => (stampSpoil_queues _ i 9 time).trans (congrArg Ledger.queues (meetRec_led u i))) s taken t
  rw [queue_congr kept, queue_filterQueues, if_pos (mem_queueNumbers hq)]

theorem ledApply_jam_event (s : State) (taken : List Nat) (t : Nat) : (s.ledApply (.jam taken t)).get Reg.LED_EVENT_JAM = s.get Reg.LED_EVENT_JAM := by
  have stray (u : State) : (u.bump Reg.LED_STRAY_JAM).get Reg.LED_EVENT_JAM = u.get Reg.LED_EVENT_JAM :=
    (Same.bump (P := fun a => a = 0xC02) u Reg.LED_STRAY_JAM (fun a ha => by rw [ha]; decide)).get _ rfl
  have spoil (u : State) (i time : Nat) : ((u.meetRec i).stampSpoil i 9 time).get Reg.LED_EVENT_JAM = u.get Reg.LED_EVENT_JAM :=
    (stampSpoil_keeps (fun v => v.get Reg.LED_EVENT_JAM) setRecord_jamEvent count_jamEvent _ i 9 time).trans (meetRec_jamEvent u i)
  exact (ledApply_jam_keeps (fun u => u.get Reg.LED_EVENT_JAM) count_jamEvent stray spoil s taken t).trans (get_congr rfl _)

/-- Every queued record is one that a JAM pulse takes (R276). -/
theorem filter_queued_nil (s : State) {q : Nat} (hq : q < 3) : (s.queue q).filter (fun i => !s.queued.contains i) = [] := by
  refine List.filter_eq_nil_iff.mpr (fun i hi => ?_)
  have taken : i ∈ s.queued := by
    unfold State.queued
    simp only [List.mem_append]
    interval_cases q
    · exact .inl (.inl hi)
    · exact .inl (.inr hi)
    · exact .inr hi
  simp [taken]

/-- A record that waits too long leaves every queue and is spoiled (R277). -/
theorem ledApply_timeout {s : State} {q : Fin 3} {i : Nat} (t : Nat) (h : i ∈ s.queue q.val) :
    s.ledApply (.timeout q i t) = (((s.meetRec i).unqueue i).stampSpoil i 12 t).ledEvent Reg.LED_EVENT_TMO :=
  if_pos (List.contains_iff_mem.mpr h)

theorem ledApply_pulse_stray {s : State} {p : Fin 3} (t : Nat) (h : s.queue p.val = []) :
    s.ledApply (.pulse p t) = (s.bump (strayField p.val)).ledEvent Reg.LED_EVENT_STRAY := by
  unfold State.ledApply
  dsimp only
  rw [h]

theorem ledApply_pulse_first {s : State} {p : Fin 3} {i : Nat} {q : List Nat} (t : Nat) (h : s.queue p.val = i :: q) :
    s.ledApply (.pulse p t) = (s.meetRec i).stampProgress i (4 + p.val) t := by
  unfold State.ledApply
  dsimp only
  rw [h]

theorem ledEventNow_held {s : State} (e : LedEvent) (h : s.ledHeld = true) :
    s.ledEventNow e = { s with led := { s.led with held := s.led.held ++ [e] } } := if_pos h

theorem ledEventNow_free {s : State} (e : LedEvent) (h : s.ledHeld = false) : s.ledEventNow e = s.ledApply e := if_neg (by rw [h]; decide)

theorem ledHeld_ledEvent (s : State) (ev : Fld) : (s.ledEvent ev).ledHeld = s.ledHeld := by
  unfold State.ledHeld State.waveRegions State.ledEvent
  rw [event_store, event_pwr]

/-- A saturating count reads one more, or stays full. -/
theorem State.get_bump_same (s : State) (f : Fld) (hf : f.hi < 18) : (s.bump f).get f = min (s.get f + 1) (2 ^ (f.hi + 1 - f.lo) - 1) := by
  have below := State.get_lt s f
  unfold State.bump
  split
  · next h =>
    rw [State.get_put_same s f _ hf h]
    omega
  · omega

/-- Each stray count is four bits of LED_STRAY (R287). -/
theorem strayField_shape (p : Nat) : (strayField p).addr = 0xC09 ∧ (strayField p).hi < 18 ∧ 2 ^ ((strayField p).hi + 1 - (strayField p).lo) = 16 := by
  unfold strayField
  split <;> decide

end Sys2Proof.Machine

namespace Sys2Proof.Machine
open Sys2Proof

/-! Stage pulses, JAM, stage timeouts, counter copies and LED_CNT_SEL (R67, R126, R275 to R280, R287). -/

theorem exec_stagePulse {p : Fin 3} {s : State} (hs : s.serving = true) (hp : s.pinOn p.val = true) :
    exec (.stagePulse p) s = .next (s.ledEventNow (.pulse p s.stamp)) := congrArg Host.Outcome.next (if_pos ⟨hs, hp⟩)

theorem exec_jamPulse {s : State} (hs : s.serving = true) (hj : s.flag Reg.LED_CTL_JAM = true) :
    exec .jamPulse s = .next ((s.ledEvent Reg.LED_EVENT_JAM).ledEventNow (.jam s.queued s.stamp)) := congrArg Host.Outcome.next (if_pos ⟨hs, hj⟩)

theorem exec_stageTimeout {q : Fin 3} {i : BitVec 20} {s : State} (hs : s.serving = true) (hl : s.queueLimit q.val ≠ 0) (hi : i.toNat ∈ s.queue q.val) :
    exec (.stageTimeout q i) s = .next (s.ledEventNow (.timeout q i.toNat s.stamp)) :=
  congrArg Host.Outcome.next (if_pos ⟨hs, hl, List.contains_iff_mem.mpr hi⟩)

theorem exec_counterCopyStart {s : State} (hs : s.serving = true) (hd : s.flag Reg.LED_KEEP_STAT_DUE = true ∨ s.led.changed = true) :
    exec .counterCopyStart s = .next (if s.keepBusy ∨ s.spillReady then s.put Reg.LED_KEEP_STAT_DUE 1 else s.copyStart) :=
  congrArg Host.Outcome.next (if_pos ⟨hs, hd⟩)

theorem exec_ledCntSel {x : Sender} {s : State} (v : Word) (h : s.reaches x 0xC20 true = true) :
    exec (.ledCntSel x v) s = .next (s.ledCntSel x v) := congrArg Host.Outcome.next (if_pos h)

/-- A stage pulse finds its queue empty (R275). -/
theorem strayPulse_facts (s : State) (p : Nat) :
    ((s.bump (strayField p)).ledEvent Reg.LED_EVENT_STRAY).get Reg.LED_EVENT_STRAY = 1 ∧
    ((s.bump (strayField p)).ledEvent Reg.LED_EVENT_STRAY).get (strayField p) = min (s.get (strayField p) + 1) 15 ∧
    ((s.bump (strayField p)).ledEvent Reg.LED_EVENT_STRAY).led = s.led ∧ ((s.bump (strayField p)).ledEvent Reg.LED_EVENT_STRAY).arr = s.arr := by
  obtain ⟨addr, hi, width⟩ := strayField_shape p
  refine ⟨event_get_same _ _ _ _ _ (by decide) rfl, ?_, ?_, ?_⟩
  · refine (event_get_ne _ _ _ _ _ _ (by rw [addr]; decide)).trans ?_
    rw [State.get_bump_same s _ hi, width]
  · exact (event_led _ _ _ _ _).trans (bump_keeps (fun t => t.led) (fun _ _ _ => rfl) s _)
  · exact (event_arr _ _ _ _ _).1.trans (bump_keeps (fun t => t.arr) (fun _ _ _ => rfl) s _)

theorem copiesCount_setCopies (s : State) {v : Nat} (hv : v < 2 ^ 32) : (s.setCopies v).copiesCount = v := by
  have low : (s.setCopies v).get Reg.LED_KEEP_LO = v % 2 ^ 18 :=
    (State.get_put_ne _ _ (by decide)).trans (State.get_put_same _ _ _ (by decide) (Nat.mod_lt _ (by decide)))
  have high : (s.setCopies v).get Reg.LED_KEEP_HI_COPIES_HI = v / 2 ^ 18 :=
    State.get_put_same _ _ _ (by decide) (by show v / 2 ^ 18 < 2 ^ 14; omega)
  unfold State.copiesCount
  rw [low, high]
  omega

/-- COPIES, the pair and the page of a counter copy that starts (R280, log entry 75). -/
theorem copyStart_facts (s : State) : s.copyStart.copiesCount = (s.copiesCount + 1) % 2 ^ 32 ∧ s.copyStart.get Reg.LED_KEEP_STAT_DUE = 0 ∧
    s.copyStart.get Reg.LED_KEEP_STAT_PAIR = (s.copiesCount + 1) % 2 ^ 32 / 2 ^ 20 % 64 ∧
    ∃ r, s.copyStart.keep.run = some r ∧ r.writer = .counterCopy ∧ r.phase = 1 ∧
      r.page = 68 + 2 * ((s.copiesCount + 1) % 2 ^ 32 / 2 ^ 20 % 64) + (s.copiesCount + 1) % 2 ^ 32 % 2 := by
  have regs (f : Fld) : s.copyStart.get f = (((s.setCopies ((s.copiesCount + 1) % 2 ^ 32)).put Reg.LED_KEEP_STAT_PAIR
      ((s.copiesCount + 1) % 2 ^ 32 / 2 ^ 20 % 64)).put Reg.LED_KEEP_STAT_DUE 0).get f := rfl
  refine ⟨?_, ?_, ?_, _, rfl, rfl, rfl, rfl⟩
  · refine Eq.trans ?_ (copiesCount_setCopies s (Nat.mod_lt (s.copiesCount + 1) (by decide)))
    unfold State.copiesCount
    rw [regs, regs, State.get_put_two _ _ _ (by decide) (by decide), State.get_put_two _ _ _ (by decide) (by decide)]
    rfl
  · exact (regs _).trans (State.get_put_same _ _ _ (by decide) (by decide))
  · refine (regs _).trans ((State.get_put_apart _ _ (by decide) (.inl (by decide))).trans (State.get_put_same _ _ _ (by decide) ?_))
    exact Nat.mod_lt _ (by decide)

/-- LED_CNT_SEL captures the selected counter and its credit, low word first (R287). -/
theorem ledCntSel_facts (s : State) {x : Sender} (v : Word) (hx : isH0 x = true) : (s.ledCntSel x v).get Reg.LED_CNT_SEL_SEL = bits v.toNat 3 0 ∧
    ∀ k, k < 3 → (s.ledCntSel x v).get (Reg.LED_CNT_V_VALUE k) = s.counter (bits v.toNat 3 0) / 2 ^ (18 * k) % 2 ^ 18 ∧
      (s.ledCntSel x v).get (Reg.LED_CRD_V_CREDIT k) = s.credit (bits v.toNat 3 0) / 2 ^ (18 * k) % 2 ^ 18 := by
  unfold State.ledCntSel
  rw [if_pos hx]
  dsimp only [List.foldl_cons, List.foldl_nil]
  refine ⟨?_, fun k hk => ?_⟩
  · rw [State.get_put_two _ _ _ (by decide) (by decide), State.get_put_two _ _ _ (by decide) (by decide), State.get_put_two _ _ _ (by decide) (by decide)]
    exact State.get_put_same _ _ _ (by decide) (Nat.mod_lt _ (by decide))
  · have value (t : State) (c d : Nat) : ((t.put (Reg.LED_CNT_V_VALUE k) c).put (Reg.LED_CRD_V_CREDIT k) d).get (Reg.LED_CNT_V_VALUE k) = c % 2 ^ 18 :=
      (State.get_put_ne _ _ (by simp only [Reg.LED_CNT_V_VALUE, Reg.LED_CRD_V_CREDIT]; omega)).trans (State.get_put_mod _ _ _ (by simp [Reg.LED_CNT_V_VALUE]))
    have credit (t : State) (c d : Nat) : ((t.put (Reg.LED_CNT_V_VALUE k) c).put (Reg.LED_CRD_V_CREDIT k) d).get (Reg.LED_CRD_V_CREDIT k) = d % 2 ^ 18 :=
      State.get_put_mod _ _ _ (by simp [Reg.LED_CRD_V_CREDIT])
    interval_cases k
    · rw [State.get_put_two _ _ _ (by decide) (by decide), State.get_put_two _ _ _ (by decide) (by decide), value,
        State.get_put_two _ _ _ (by decide) (by decide), State.get_put_two _ _ _ (by decide) (by decide), credit]
      exact ⟨rfl, rfl⟩
    · rw [State.get_put_two _ _ _ (by decide) (by decide), value, State.get_put_two _ _ _ (by decide) (by decide), credit]
      exact ⟨rfl, rfl⟩
    · exact ⟨value _ _ _, credit _ _ _⟩

/-- Settles O23: a pulse, JAM or a timeout by the ledger event that it is, held or applied, a copy by its page write. -/
theorem pulsesAndCounters : Obligations.PulsesAndCounters := by
  refine ⟨fun p s hs hp hl hq => ?_, fun p s i q hs hp hl hq hi => ?_, fun p s hs hp hl => ?_, fun s hs hj hl => ?_, fun s hs hj hl => ?_,
    fun q i s hs hl hi hf => ?_, fun s hs hd hb hr => ?_, fun s hs hd hw => ?_, fun x v s hr hx => ?_⟩
  · rw [exec_stagePulse hs hp, ledEventNow_free _ hl, ledApply_pulse_stray _ hq]
    exact ⟨_, rfl, strayPulse_facts s p.val⟩
  · rw [exec_stagePulse hs hp, ledEventNow_free _ hl, ledApply_pulse_first _ hq]
    exact ⟨_, rfl, not_mem_stampProgress _ i _ (by omega), stampProgress_words _ _ _ hi⟩
  · rw [exec_stagePulse hs hp, ledEventNow_held _ hl]
  · rw [exec_jamPulse hs hj, ledEventNow_held _ ((ledHeld_ledEvent s _).trans hl)]
    have led : (s.ledEvent Reg.LED_EVENT_JAM).led = s.led := event_led _ _ _ _ _
    refine ⟨_, rfl, event_get_same s _ _ _ _ (by decide) rfl, ?_, fun q _ => queue_congr (congrArg Ledger.queues led) q, (event_arr s _ _ _ _).1⟩
    rw [led]
  · rw [exec_jamPulse hs hj, ledEventNow_free _ ((ledHeld_ledEvent s _).trans hl)]
    have queues : (s.ledEvent Reg.LED_EVENT_JAM).led.queues = s.led.queues := congrArg Ledger.queues (event_led _ _ _ _ _)
    refine ⟨_, rfl, (ledApply_jam_event _ _ _).trans (event_get_same s _ _ _ _ (by decide) rfl), fun q hq => ?_⟩
    rw [queue_ledApply_jam _ _ _ hq, queue_congr queues, filter_queued_nil s hq]
  · rw [exec_stageTimeout hs hl hi, ledEventNow_free _ hf, ledApply_timeout _ hi]
    refine ⟨_, rfl, event_get_same _ _ _ _ _ (by decide) rfl, fun r hr => ?_⟩
    have queues (u : State) : (u.ledEvent Reg.LED_EVENT_TMO).led.queues = u.led.queues := congrArg Ledger.queues (event_led _ _ _ _ _)
    rw [queue_congr (queues _), queue_congr (stampSpoil_queues _ _ _ _)]
    exact not_mem_unqueue _ _ hr
  · rw [exec_counterCopyStart hs hd, if_neg (by rw [hb, hr]; decide)]
    exact ⟨_, rfl, copyStart_facts s⟩
  · rw [exec_counterCopyStart hs hd, if_pos hw]
    exact ⟨_, rfl, State.get_put_same _ _ _ (by decide) (by decide), rfl⟩
  · exact ⟨_, exec_ledCntSel v hr, ledCntSel_facts s v hx⟩

end Sys2Proof.Machine

namespace Sys2Proof.Machine
open Sys2Proof

/-! The invariant along a run (O44) -/

/-- Settles O44: an idle step leaves the state, and a command in front keeps the invariant. -/
theorem stepKeepsInvariant : Obligations.StepKeepsInvariant := by
  intro s t hI h
  cases hp : s.pending with
  | nil =>
    unfold step at h
    rw [hp] at h
    cases h
    exact hI
  | cons c rest =>
    obtain ⟨u, hu, -, hIu, -⟩ := everyStepGoesOn s c rest hI hp
    rw [hu] at h
    cases h
    exact hIu

/-! One descriptor that goes on (R180) -/

/-- The i-th flight is f, and nothing holds it where it is: not completed, not committed, nothing lost, its host's link calm. -/
structure State.Goes (s : State) (i : Nat) (f : Flight) : Prop where
  here : s.flights[i]? = some f
  compl : f.compl = none
  committed : f.committed = false
  lost : f.lost = none
  calm : (s.host f.host).retraining = false

/-- The link stays open as a descriptor asks for its data. -/
theorem asked_open (s : State) (h : PHost) (j : Ring) (f g : Flight) (ups : List Upset) (p : PadTraffic) (hl : s.mayArrive h j = true) :
    (s.asked h j f g ups p).linkOpen h = true := by
  obtain ⟨-, hpwr, hup, hflow, -⟩ := asked_facts s h j f g ups p
  unfold State.mayArrive at hl
  simp only [Bool.and_eq_true] at hl
  rw [← hl.1.1]
  unfold State.linkOpen State.serving HostPort.flows
  rw [hpwr, hup, hflow]

/-- A descriptor that arrives alone goes on at once. -/
theorem begun_goes {s : State} {h : PHost} {j q : Ring} {op : Opcode} {d : Desc} (ha : s.Accepts h j q op d) (ups : List Upset) (p : PadTraffic) :
    (s.begun h j (newFlight h j op d) ups p).Goes 0 (newFlight h j op d) :=
  ⟨by rw [(begun_facts s h j _ ups p).2.2.2.2.2]; rfl, rfl, rfl, rfl, open_calm (begun_open s h j _ ups p ha.1.1)⟩

/-- So does one that has all of its host data at once. -/
theorem asked_goes {s : State} {h : PHost} {j q : Ring} {op : Opcode} {d : Desc} (ha : s.Accepts h j q op d) {data : HostData}
    (hd : s.Delivers (newFlight h j op d) data) (ups : List Upset) (p : PadTraffic) :
    (s.asked h j (newFlight h j op d) ((askedFlight h j op d).receive data) ups p).Goes 0 { askedFlight h j op d with buf := data.bytes } := by
  rw [receive_all hd]
  exact ⟨by rw [(asked_facts s h j _ _ ups p).2.2.2.2.2]; rfl, rfl, rfl, rfl, open_calm (asked_open s h j _ _ ups p ha.1.1)⟩

theorem advance_write {s : State} {i : Nat} {f : Flight} (h : s.Goes i f) (ho : f.op = .write) (hb : f.buf ≠ []) :
    s.advance i = s.placeWrite i f := by
  unfold State.advance
  rw [h.here]
  simp [h.compl, h.committed, h.lost, h.calm, ho, hb]

theorem advance_word18Write {s : State} {i : Nat} {f : Flight} (h : s.Goes i f) (ho : f.op = .word18Write) (hb : f.buf ≠ []) :
    s.advance i = s.placeW18 i f := by
  unfold State.advance
  rw [h.here]
  simp [h.compl, h.committed, h.lost, h.calm, ho, hb]

/-- Cells that changed under a flight that moved on. -/
theorem Touched.setFlight {b w : State} (h : Touched b w) (i : Nat) (g : Flight) : Touched b { w.setFlight i g with flights := b.flights } := by
  have e : ({ w.setFlight i g with flights := b.flights } : State) = w := by
    rw [← h.field State.flights (by intros; rfl)]
    rfl
  rwa [e]

theorem setFlight_flights_zero {w : State} {f : Flight} (h : w.flights = [f]) (g : Flight) : (w.setFlight 0 g).flights = [g] := by
  rw [State.setFlight_flights, h]
  rfl

/-- Data that a descriptor asked for is there. -/
theorem delivers_ne_nil {s : State} {h : PHost} {j : Ring} {op : Opcode} {d : Desc} {data : HostData} (hd : s.Delivers (newFlight h j op d) data)
    (hn : 0 < Desc.n d) : data.bytes ≠ [] := by
  intro e
  have hl : data.bytes.length = Desc.n d := hd.2.1
  rw [e, List.length_nil] at hl
  omega

/-- WRITE over sound codewords (R82, R193). -/
theorem exec_write_sound {h : PHost} {j q : Ring} {d : Desc} {data : HostData} {ups : List Upset} {s b : State} (ha : s.Accepts h j q .write d)
    (hd : s.Delivers (newFlight h j .write d) data)
    (hb : b = s.asked h j (newFlight h j .write d) ((askedFlight h j .write d).receive data) ups)
    (hw : b.rangeWaits (Desc.a d) (Desc.n d) true = false) (hs : b.SoundCws (Desc.a d / 8) (cwCount (Desc.a d) (Desc.n d))) :
    ∃ t, exec (.write h j d data ups) s = .next t ∧ s.Completes t h j q d { status := Status.done, result := BitVec.ofNat 64 (Desc.n d) } ∧
      .dataRead h d.haddr.toNat (Desc.n d) ∈ t.out ∧ t.rest = (b.writeBytes (Desc.a d) data.bytes false {}).1.rest ∧
      ∀ a, notRing a → t.reg a = s.reg a := by
  have hn : 0 < Desc.n d := accepts_n ha.2 (.inl rfl)
  have hlen : data.bytes.length = Desc.n d := hd.2.1
  have hgo := asked_goes ha hd ups {}
  rw [← hb] at hgo
  obtain ⟨hmet, hcells⟩ := writeBytes_cells b (Desc.a d) data.bytes false (by rw [hlen]; exact hs)
  have hfl : (b.writeBytes (Desc.a d) data.bytes false {}).1.flights = [{ askedFlight h j .write d with buf := data.bytes }] := by
    rw [hcells.field State.flights (by intros; rfl), hb, (asked_facts s h j _ _ ups {}).2.2.2.2.2, receive_all hd]
  obtain ⟨t, ht, hc, ho, hr, hreg⟩ := host_cells ha rfl data hd hn ups {} (.inr ⟨rfl, rfl⟩) b _ _ hb (hcells.setFlight 0 _) _
    (setFlight_flights_zero hfl _) ⟨rfl, rfl, rfl, rfl⟩
    ((advance_write hgo rfl (delivers_ne_nil hd hn)).trans (placeWrite_all b _ rfl rfl rfl hlen rfl hw hmet))
  exact ⟨t, congrArg _ ht, hc, ho, hr, hreg⟩

/-- WORD18 WRITE over sound codewords (R83, R193). -/
theorem exec_word18Write_sound {h : PHost} {j q : Ring} {d : Desc} {data : HostData} {ups : List Upset} {s b : State}
    (ha : s.Accepts h j q .word18Write d) (hd : s.Delivers (newFlight h j .word18Write d) data)
    (hb : b = s.asked h j (newFlight h j .word18Write d) ((askedFlight h j .word18Write d).receive data) ups)
    (hw : b.rangeWaits (2 * Desc.a d) (2 * (Desc.n d / 4)) true = false)
    (hs : ∀ i, i < Desc.n d / 4 → (b.cwImage ((Desc.a d + i) / 4)).eccOf (cwIndex ((Desc.a d + i) / 4)) = 0) :
    ∃ t, exec (.word18Write h j d data ups) s = .next t ∧
      s.Completes t h j q d { status := Status.done, result := BitVec.ofNat 64 (Desc.n d) } ∧ .dataRead h d.haddr.toNat (Desc.n d) ∈ t.out ∧
      t.rest = (b.writeW18s (Desc.n d / 4 + 1) (Desc.a d) (slotWords data.bytes) {}).1.rest ∧ ∀ a, notRing a → t.reg a = s.reg a := by
  obtain ⟨h4, hmod⟩ := accepts_slots ha.2 (.inl rfl)
  have hn : 0 < Desc.n d := by omega
  have hlen : data.bytes.length = Desc.n d := hd.2.1
  have hslots : (slotWords data.bytes).length = Desc.n d / 4 := slotWords_length _ _ (by omega)
  have hgo := asked_goes ha hd ups {}
  rw [← hb] at hgo
  obtain ⟨hcells, hmet⟩ := writeW18s_sound (Desc.n d / 4 + 1) b (Desc.a d) (slotWords data.bytes) {} (by rw [hslots]; exact hs)
  have hfl : (b.writeW18s (Desc.n d / 4 + 1) (Desc.a d) (slotWords data.bytes) {}).1.flights =
      [{ askedFlight h j .word18Write d with buf := data.bytes }] := by
    rw [hcells.1.field State.flights (by intros; rfl), hb, (asked_facts s h j _ _ ups {}).2.2.2.2.2, receive_all hd]
  obtain ⟨t, ht, hc, ho, hr, hreg⟩ := host_cells ha rfl data hd hn ups {} (.inr ⟨rfl, rfl⟩) b _ _ hb (hcells.1.setFlight 0 _) _
    (setFlight_flights_zero hfl _) ⟨rfl, rfl, rfl, rfl⟩
    ((advance_word18Write hgo rfl (delivers_ne_nil hd hn)).trans (placeW18_all b _ rfl rfl hlen hmod rfl hw hslots hmet))
  exact ⟨t, congrArg _ ht, hc, ho, hr, hreg⟩

/-- FILL with no region that holds it back (R194). -/
theorem doFill_free {s : State} {i : Nat} {f : Flight} (hb : s.blocked i f = false) (hw : s.rangeWaits (Desc.a f.d) (Desc.n f.d) true = false) :
    s.doFill i f = if bit f.d.p0.toNat 0 then (s.wipeCws (Desc.n f.d / 8) (Desc.a f.d / 8)).fixFlight i (f.met.compl (Desc.n f.d))
      else (s.writeBytes (Desc.a f.d) ((List.range (Desc.n f.d)).map (fun k => byteOf f.d.d0.toNat ((Desc.a f.d + k) % 8))) false f.met).1.fixFlight i
        ((s.writeBytes (Desc.a f.d) ((List.range (Desc.n f.d)).map (fun k => byteOf f.d.d0.toNat ((Desc.a f.d + k) % 8))) false f.met).2.compl (Desc.n f.d)) := by
  unfold State.doFill
  dsimp only
  rw [if_neg (by rw [hb, hw]; decide)]

/-- FILL, with WIPE or over sound codewords (R194). -/
theorem exec_fill_sound {h : PHost} {j q : Ring} {d : Desc} {ups : List Upset} {s b : State} (ha : s.Accepts h j q .fill d)
    (hb : b = s.begun h j (newFlight h j .fill d) ups) (hw : b.rangeWaits (Desc.a d) (Desc.n d) true = false)
    (hs : bit d.p0.toNat 0 = false → b.SoundCws (Desc.a d / 8) (cwCount (Desc.a d) (Desc.n d))) :
    ∃ t, exec (.fill h j d ups) s = .next t ∧ s.Completes t h j q d { status := Status.done, result := BitVec.ofNat 64 (Desc.n d) } ∧
      t.rest = (if bit d.p0.toNat 0 then b.wipeCws (Desc.n d / 8) (Desc.a d / 8)
        else (b.writeBytes (Desc.a d) ((List.range (Desc.n d)).map (fun k => byteOf d.d0.toNat ((Desc.a d + k) % 8))) false {}).1).rest ∧
      ∀ a, notRing a → t.reg a = s.reg a := by
  have hdo : b.advance 0 = b.doFill 0 (newFlight h j .fill d) := by rw [hb]; exact advance_begun s h j .fill d ups ha.1.1
  rw [doFill_free (blocked_zero b _) hw] at hdo
  by_cases hp : bit d.p0.toNat 0 = true
  · obtain ⟨t, ht, hc, hr, hreg⟩ := local_cells ha rfl ups {} (.inr ⟨rfl, rfl⟩) b _ _ hb (wipeCws_cells _ b _).1 (hdo.trans (if_pos hp))
    exact ⟨t, congrArg _ ht, hc, by rw [if_pos hp]; exact hr, hreg⟩
  · obtain ⟨hmet, hcells⟩ := writeBytes_cells b (Desc.a d) ((List.range (Desc.n d)).map (fun k => byteOf d.d0.toNat ((Desc.a d + k) % 8))) false
      (by rw [List.length_map, List.length_range]; exact hs (by simpa using hp))
    obtain ⟨t, ht, hc, hr, hreg⟩ := local_cells ha rfl ups {} (.inr ⟨rfl, rfl⟩) b _ (Met.compl {} (Desc.n d)) hb hcells
      ((hdo.trans (if_neg hp)).trans (congrArg (State.fixFlight _ 0) (congrArg (Met.compl · (Desc.n d)) hmet)))
    exact ⟨t, congrArg _ ht, hc, by rw [if_neg hp]; exact hr, hreg⟩

/-- COPY with no region that holds it back (R82, Table 7-7). -/
theorem doCopy_free {s : State} {i : Nat} {f : Flight} (hb : s.blocked i f = false) (hr : s.rangeWaits (Desc.a f.d) (Desc.n f.d) false = false)
    (hw : s.rangeWaits (Desc.b f.d) (Desc.n f.d) true = false) :
    s.doCopy i f = (let r := s.readMarked (Desc.a f.d) (Desc.n f.d) f.met
      let q := r.1.writeBytes (Desc.b f.d) (r.2.1.map (·.1)) false r.2.2
      (q.1.poisonBytes (Desc.b f.d) (r.2.1.map (·.2))).fixFlight i (q.2.compl (Desc.n f.d))) := by
  unfold State.doCopy
  dsimp only
  rw [if_neg (by rw [hb, hr, hw]; decide)]

/-- Codewords stay sound where a window alone is yielded. -/
theorem Yields.soundCws {s t : State} (hy : Yields s t) {cw n : Nat} (h : s.SoundCws cw n) : t.SoundCws cw n :=
  fun i hi => by rw [((SameCells.rfl' s).yields hy).cwImage]; exact h i hi

/-- Where the cells alone may have changed, every region is held where it was. -/
theorem Touched.physOf {s t : State} (h : Touched s t) {r : Nat} (hr : r < 64) : t.physOf r = s.physOf r := by
  unfold State.physOf
  rw [h.field State.phys63 (by intros; rfl), target_congr s t (fun a ha => h.2 a (by omega)) r hr]

/-- Two such states with the same cells are alike in cells and in the rest. -/
theorem Touched.sameCells {s t u : State} (ht : Touched s t) (hu : Touched s u) (e : t.arr = u.arr) : SameCells t u :=
  ⟨e, fun _ hr => (ht.physOf hr).trans (hu.physOf hr).symm⟩

theorem Touched.rest {s t u : State} (ht : Touched s t) (hu : Touched s u) (e : t.arr = u.arr) : t.rest = u.rest := by
  have hrest : ∀ v : State, Touched s v → v.rest = { s with arr := v.arr }.rest := fun _ hv => (congrArg State.rest hv.1).trans rfl
  rw [hrest t ht, hrest u hu, e]

/-- The cells of a poisoning follow from the cells before it. -/
theorem SameCells.poisonBytes {t s : State} (h : SameCells t s) (a : Nat) (fl : List Bool) : SameCells (t.poisonBytes a fl) (s.poisonBytes a fl) := by
  unfold State.poisonBytes
  generalize (List.range fl.length).filter (fun i => fl.getD i false) = xs
  induction xs generalizing t s with
  | nil => exact h
  | cons i xs ih =>
    refine ih ?_
    dsimp only
    rw [h.cwImage]
    exact h.setCwImage _ _

/-- What a write stores does not depend on the corrections met before it. -/
theorem writeCws_state (n : Nat) : ∀ (s : State) (cw : Nat) (bs : List (Option Byte)) (p : Bool) (m : Met),
    (s.writeCws n cw bs p m).1 = (s.writeCws n cw bs p {}).1 := by
  induction n with
  | zero => exact fun _ _ _ _ _ => rfl
  | succ n ih => exact fun s cw bs p m => (ih _ _ _ _ _).trans (ih _ _ _ _ (s.writeCw cw (bs.take 8) p {}).2).symm

theorem writeBytes_state (s : State) (a : Nat) (bs : List Byte) (p : Bool) (m : Met) : (s.writeBytes a bs p m).1 = (s.writeBytes a bs p {}).1 := by
  unfold State.writeBytes
  split
  · rfl
  · exact writeCws_state _ _ _ _ _ _

/-- COPY between sound codewords (R82, R193). -/
theorem exec_copy_sound {h : PHost} {j q : Ring} {d : Desc} {ups : List Upset} {s b : State} (ha : s.Accepts h j q .copy d)
    (hb : b = s.begun h j (newFlight h j .copy d) ups) (hwr : b.rangeWaits (Desc.a d) (Desc.n d) false = false)
    (hww : b.rangeWaits (Desc.b d) (Desc.n d) true = false) (hsa : b.SoundCws (Desc.a d / 8) (cwCount (Desc.a d) (Desc.n d)))
    (hsb : b.SoundCws (Desc.b d / 8) (cwCount (Desc.b d) (Desc.n d))) :
    ∃ t, exec (.copy h j d ups) s = .next t ∧ s.Completes t h j q d ((b.readMarked (Desc.a d) (Desc.n d) {}).2.2.compl (Desc.n d)) ∧
      t.rest = ((b.writeBytes (Desc.b d) ((b.readMarked (Desc.a d) (Desc.n d) {}).2.1.map (·.1)) false
        (b.readMarked (Desc.a d) (Desc.n d) {}).2.2).1.poisonBytes (Desc.b d) ((b.readMarked (Desc.a d) (Desc.n d) {}).2.1.map (·.2))).rest ∧
      ∀ a, notRing a → t.reg a = s.reg a := by
  have hdo : b.advance 0 = b.doCopy 0 (newFlight h j .copy d) := by rw [hb]; exact advance_begun s h j .copy d ups ha.1.1
  rw [doCopy_free (blocked_zero b _) hwr hww] at hdo
  have hn : 0 < Desc.n d := accepts_n ha.2 (.inr (.inr (.inl rfl)))
  have hread := readMarked_sound b (Desc.a d) (Desc.n d) hsa
  have hlen := readMarked_length b (Desc.a d) (Desc.n d) {} hn
  dsimp only [newFlight, Flight.met] at hdo
  generalize b.readMarked (Desc.a d) (Desc.n d) {} = r at hread hlen hdo ⊢
  have hbytes : (r.2.1.map (·.1)).length = Desc.n d := by rw [List.length_map, hlen]
  have hsr : r.1.SoundCws (Desc.b d / 8) (cwCount (Desc.b d) (r.2.1.map (·.1)).length) := by rw [hbytes]; exact hread.soundCws hsb
  obtain ⟨hmet, hcells⟩ := writeBytes_met r.1 (Desc.b d) (r.2.1.map (·.1)) false r.2.2 hsr
  have hw : (r.1.writeBytes (Desc.b d) (r.2.1.map (·.1)) false r.2.2).1.arr = (b.writeBytes (Desc.b d) (r.2.1.map (·.1)) false r.2.2).1.arr := by
    obtain ⟨v, -, hv, hrv⟩ := writeBytes_sound b (Desc.b d) (r.2.1.map (·.1)) false (by rw [hbytes]; exact hsb) r.1 ((SameCells.rfl' b).yields hread)
    rw [writeBytes_state r.1, writeBytes_state b, hrv]
    exact hv
  have hbw := (writeBytes_met b (Desc.b d) (r.2.1.map (·.1)) false r.2.2 (by rw [hbytes]; exact hsb)).2.1
  have hrw := hread.touched.trans' hcells.1
  obtain ⟨t, ht, hc, hr, hreg⟩ := local_cells ha rfl ups {} (.inr ⟨rfl, rfl⟩) b _ (r.2.2.compl (Desc.n d)) hb
    (hrw.trans' (poisonBytes_cells _ (Desc.b d) (r.2.1.map (·.2))).1)
    (hdo.trans (congrArg (State.fixFlight _ 0) (congrArg (Met.compl · (Desc.n d)) hmet)))
  refine ⟨t, congrArg _ ht, hc, hr.trans ?_, hreg⟩
  exact (hrw.trans' (poisonBytes_cells _ _ _).1).rest (hbw.trans' (poisonBytes_cells _ _ _).1) ((hrw.sameCells hbw hw).poisonBytes _ _).1

/-- WORD18 READ with no region that holds it back and its link open (R83). -/
theorem doReadW18_free {s : State} {i : Nat} {f : Flight} (hb : s.blocked i f = false) (hw : s.rangeWaits (2 * Desc.a f.d) (Desc.n f.d / 2) false = false)
    (hl : s.linkOpen f.host = true) :
    s.doReadW18 i f = (let r := s.readW18s (Desc.n f.d / 4) (Desc.a f.d) f.met
      (r.1.toHost f.host f.d.haddr.toNat (wordSlots r.2.1)).fixFlight i (r.2.2.compl (Desc.n f.d))) := by
  unfold State.doReadW18
  dsimp only
  rw [if_neg (by rw [hb, hw, hl]; decide)]

theorem w18s_ne_nil (s : State) (w : Nat) {n : Nat} (hn : 0 < n) : s.w18s w n ≠ [] := by
  intro e
  have hl : (s.w18s w n).length = 0 := by rw [e]; rfl
  rw [State.w18s, List.length_map, List.length_range] at hl
  omega

/-- WORD18 READ of sound codewords (R83, R193). -/
theorem exec_word18Read_sound {h : PHost} {j q : Ring} {d : Desc} {ups : List Upset} {s b : State} (ha : s.Accepts h j q .word18Read d)
    (hb : b = s.begun h j (newFlight h j .word18Read d) ups) (hw : b.rangeWaits (2 * Desc.a d) (Desc.n d / 2) false = false)
    (hs : ∀ i, i < Desc.n d / 4 → (b.cwImage ((Desc.a d + i) / 4)).eccOf (cwIndex ((Desc.a d + i) / 4)) = 0) :
    ∃ t, exec (.word18Read h j d ups) s = .next t ∧
      s.Completes t h j q d { status := Status.done, result := BitVec.ofNat 64 (Desc.n d) } ∧
      .hostWrite h d.haddr.toNat (wordSlots (b.w18s (Desc.a d) (Desc.n d / 4))) ∈ t.out ∧ t.rest = b.rest ∧ ∀ a, notRing a → t.reg a = s.reg a := by
  have hdo : b.advance 0 = b.doReadW18 0 (newFlight h j .word18Read d) := by rw [hb]; exact advance_begun s h j .word18Read d ups ha.1.1
  rw [doReadW18_free (blocked_zero b _) hw (by rw [hb]; exact begun_open s h j _ ups {} ha.1.1)] at hdo
  obtain ⟨u, hy, hu⟩ := readW18s_sound (Desc.n d / 4) b (Desc.a d) {} hs
  dsimp only [newFlight, Flight.met] at hdo
  rw [hu] at hdo
  have hne := w18s_ne_nil b (Desc.a d) (n := Desc.n d / 4) (by have := (accepts_slots ha.2 (.inr rfl)).1; omega)
  obtain ⟨hregs, hrest, hfl, hup, hflow, -, hout⟩ := toHost_facts u h d.haddr.toNat (wordSlots (b.w18s (Desc.a d) (Desc.n d / 4)))
  obtain ⟨b1, b2, b3, b4, b5, b6⟩ := begun_facts s h j (newFlight h j .word18Read d) ups
  rw [← hb] at b1 b2 b3 b4 b5 b6
  have hreg : ∀ a, a ≠ 0xD04 → (u.toHost h d.haddr.toNat (wordSlots (b.w18s (Desc.a d) (Desc.n d / 4)))).reg a = b.reg a :=
    fun a ha => (reg_congr hregs a).trans (hy.2 a ha)
  obtain ⟨t, ht, hc, ho, hr, ht5⟩ := local_done ha rfl ups {} (.inr ⟨rfl, rfl⟩) _ _ (newFlight h j .word18Read d)
    (hfl.trans ((hy.field State.flights (by intros; rfl)).trans b6)) ⟨rfl, rfl, rfl, rfl⟩ (by rw [← hb]; exact hdo)
    (fun a _ hx hne => (hreg a (by omega)).trans (b1 a hne (by omega)))
    ((rest_pwr hrest).trans ((hy.field State.pwr (by intros; rfl)).trans b2))
    ⟨hup.trans ((hy.field (fun t => (t.host h).up) (by intros; rfl)).trans b3),
      hflow.trans ((hy.field (fun t => (t.host h).flow) (by intros; rfl)).trans b4)⟩
  exact ⟨t, congrArg _ ht, hc, ho _ (hout (slots_ne hne)), hr.trans (hrest.trans (hy.field State.rest (by intros; rfl))),
    fun a ha => ((ht5 a ha).trans (hreg a ha.2)).trans (b1 a (ha.1 h j).1 ha.2)⟩

/-- Settles O13: each descriptor by its transfer over sound codewords. -/
theorem writesAndFills : Obligations.WritesAndFills :=
  ⟨fun _ _ _ _ _ _ _ _ ha hd hb hw hs => exec_write_sound ha hd hb hw hs,
    fun _ _ _ _ _ _ _ ha hb hr hw hsa hsb => exec_copy_sound ha hb hr hw hsa hsb,
    fun _ _ _ _ _ _ _ ha hb hw hs => exec_fill_sound ha hb hw hs,
    fun _ _ _ _ _ _ _ _ ha hd hb hw hs => exec_word18Write_sound ha hd hb hw hs,
    fun _ _ _ _ _ _ _ ha hb hw hs => exec_word18Read_sound ha hb hw hs⟩

end Sys2Proof.Machine

namespace Sys2Proof.Machine
open Sys2Proof

/-! Return (R129 to R134) and the entry to RUN (R44): O3 -/

/-- With no valid copy in the Keep the counters stay (R281). -/
theorem recoverCounters_none {s : State} (h : s.newestCopy = none) :
    s.recoverCounters = { s.put Reg.LED_KEEP_STAT_PAIR (s.copiesCount / 2 ^ 20 % 64) with pwr := { s.pwr with counted := true } } := by
  unfold State.recoverCounters
  rw [h]
  rfl

/-- The counters and COPIES after counter recovery from a copy, before PAIR follows. -/
def State.recovered (s : State) (c : Nat × List Nat) : State :=
  ((List.range 16).foldl (fun (t : State) i => t.recoverOne i (c.2.getD i 0)) s).setCopies (max s.copiesCount c.1)

theorem recoverCounters_some {s : State} {c : Nat × List Nat} (h : s.newestCopy = some c) :
    s.recoverCounters = { (s.recovered c).put Reg.LED_KEEP_STAT_PAIR ((s.recovered c).copiesCount / 2 ^ 20 % 64) with
      pwr := { (s.recovered c).pwr with counted := true } } := by
  unfold State.recoverCounters
  rw [h]
  rfl

theorem copiesCount_lt (s : State) : s.copiesCount < 2 ^ 32 := by
  have hlo : s.get Reg.LED_KEEP_LO < 2 ^ 18 := State.get_lt s _
  have hhi : s.get Reg.LED_KEEP_HI_COPIES_HI < 2 ^ 14 := State.get_lt s _
  unfold State.copiesCount
  omega

/-- Counter recovery from a copy (R281). -/
theorem recoverCounters_facts {s : State} {c : Nat × List Nat} (h : s.newestCopy = some c) (hv : ∀ i, c.2.getD i 0 < 2 ^ 54) (hc : c.1 < 2 ^ 32) :
    s.recoverCounters.pwr.counted = true ∧ s.recoverCounters.copiesCount = max s.copiesCount c.1 ∧
    s.recoverCounters.get Reg.LED_KEEP_STAT_PAIR = max s.copiesCount c.1 / 2 ^ 20 % 64 ∧
    ∀ i, i < 16 → s.recoverCounters.counter i = max (s.counter i) (c.2.getD i 0) := by
  have hm : max s.copiesCount c.1 < 2 ^ 32 := max_lt (copiesCount_lt s) hc
  have hcopies : (s.recovered c).copiesCount = max s.copiesCount c.1 := copiesCount_setCopies _ hm
  rw [recoverCounters_some h, hcopies]
  refine ⟨rfl, ?_, State.get_put_same _ _ _ (by decide) (by show _ < 2 ^ 6; omega), fun i hi => ?_⟩
  · refine Eq.trans ?_ hcopies
    unfold State.copiesCount
    exact congrArg₂ (· + 2 ^ 18 * ·) (State.get_put_ne _ _ (by decide)) (State.get_put_ne _ _ (by decide))
  · exact (recover_fold c.2 hv 16 s i).trans (if_pos hi)

/-- A cluster's bit of CLU_ON counts its cores (R366). -/
theorem clustersOf_bit (cores : Nat) {f : Nat} (hf : f < 4) : bit (clustersOf cores) f = decide (3 ≤ popcount 4 (cores / 16 ^ f)) := by
  have four : ∀ a0 a1 a2 a3 : Bool, bit (0 + b2n a0 * 2 ^ 0 + b2n a1 * 2 ^ 1 + b2n a2 * 2 ^ 2 + b2n a3 * 2 ^ 3) 0 = a0 ∧
      bit (0 + b2n a0 * 2 ^ 0 + b2n a1 * 2 ^ 1 + b2n a2 * 2 ^ 2 + b2n a3 * 2 ^ 3) 1 = a1 ∧
      bit (0 + b2n a0 * 2 ^ 0 + b2n a1 * 2 ^ 1 + b2n a2 * 2 ^ 2 + b2n a3 * 2 ^ 3) 2 = a2 ∧
      bit (0 + b2n a0 * 2 ^ 0 + b2n a1 * 2 ^ 1 + b2n a2 * 2 ^ 2 + b2n a3 * 2 ^ 3) 3 = a3 := by decide
  obtain ⟨h0, h1, h2, h3⟩ := four (decide (3 ≤ popcount 4 (cores / 16 ^ 0))) (decide (3 ≤ popcount 4 (cores / 16 ^ 1)))
    (decide (3 ≤ popcount 4 (cores / 16 ^ 2))) (decide (3 ≤ popcount 4 (cores / 16 ^ 3)))
  interval_cases f
  · exact h0
  · exact h1
  · exact h2
  · exact h3

theorem clustersOf_lt (cores : Nat) : clustersOf cores < 16 := by
  have four : ∀ a0 a1 a2 a3 : Bool, 0 + b2n a0 * 2 ^ 0 + b2n a1 * 2 ^ 1 + b2n a2 * 2 ^ 2 + b2n a3 * 2 ^ 3 < 16 := by decide
  exact four _ _ _ _

theorem exists_bit_of_pos {x : Nat} (hx : x ≠ 0) (h : x < 16) : ∃ f, f < 4 ∧ bit x f = true :=
  (by decide : ∀ y : Fin 16, y.val ≠ 0 → ∃ f, f < 4 ∧ bit y.val f = true) ⟨x, h⟩ hx

theorem bootChoice_le (s : State) : s.bootChoice ≤ 2 := by
  unfold State.bootChoice goldenImage
  dsimp only
  split_ifs <;> decide

/-- What the boot shows in FW_STAT and FW_CORES, before the channels are handed over (R362, R366). -/
def State.bootShown (s : State) (cores : Nat) : State :=
  (s.putAll [(Reg.FW_STAT_RUN, s.bootChoice), (Reg.FW_STAT_CLU_ON, clustersOf cores), (Reg.FW_CORES_ON, cores),
    (Reg.SWP_FAULT_CORE, b2n (decide (cores ≠ 0xFFFF))), (Reg.SWP_FAULT_FWC, b2n (decide (clustersOf cores ≠ 15)))]).raiseFloor s.bootChoice

theorem raiseFloor_get (s : State) (k : Nat) {g : Fld} (hlo : g.addr ≠ 0xE0E) (hhi : g.addr ≠ 0xE0F) : (s.raiseFloor k).get g = s.get g := by
  unfold State.raiseFloor
  dsimp only
  split
  · exact State.get_put_two _ _ _ hlo hhi
  · rfl

theorem bootShown_facts (s : State) {cores : Nat} (hc : cores < 2 ^ 16) : (s.bootShown cores).get Reg.FW_STAT_RUN = s.bootChoice ∧
    (s.bootShown cores).get Reg.FW_STAT_CLU_ON = clustersOf cores ∧ (s.bootShown cores).get Reg.FW_CORES_ON = cores := by
  unfold State.bootShown State.putAll
  simp only [List.foldl_cons, List.foldl_nil]
  refine ⟨?_, ?_, ?_⟩ <;> rw [raiseFloor_get _ _ (by decide) (by decide), State.get_put_ne _ _ (by decide), State.get_put_ne _ _ (by decide)]
  · rw [State.get_put_ne _ _ (by decide), State.get_put_apart _ _ (by decide) (.inr (by decide))]
    exact State.get_put_same _ _ _ (by decide) (by have := bootChoice_le s; show s.bootChoice < 2 ^ 2; omega)
  · rw [State.get_put_ne _ _ (by decide)]
    exact State.get_put_same _ _ _ (by decide) (clustersOf_lt cores)
  · exact State.get_put_same _ _ _ (by decide) hc

/-- The clusters without three good cores hand their channels over; the boot is done (R366). -/
theorem bootDone_eq (s : State) (cores : Nat) : s.bootDone cores =
    (let t := ((List.range 4).filter (fun f => !bit (clustersOf cores) f)).foldl (fun (t : State) f => (t.handOver f).1) (s.bootShown cores)
     { t with pwr := { t.pwr with booted := true } }) := rfl

theorem bootDone_facts (s : State) {cores : Nat} (hc : cores < 2 ^ 16) :
    (s.bootDone cores).pwr.booted = true ∧ (s.bootDone cores).get Reg.FW_STAT_RUN = s.bootChoice ∧
    (s.bootDone cores).get Reg.FW_STAT_CLU_ON = clustersOf cores ∧ (s.bootDone cores).get Reg.FW_CORES_ON = cores ∧
    (clustersOf cores ≠ 0 → ∀ c, c < 5 → bit (clustersOf cores) ((s.bootDone cores).get (Reg.MB_STAT_SERVER c)) = true) := by
  obtain ⟨hrun, hclu, hcores⟩ := bootShown_facts s hc
  have hon : ∀ f, (s.bootShown cores).cluOn f = bit (clustersOf cores) f := fun f => congrArg (bit · f) hclu
  obtain ⟨hregs, -, hserver⟩ := handOvers_server ((List.range 4).filter (fun f => !bit (clustersOf cores) f)) (s.bootShown cores)
    (fun f hf => by rw [hon]; simpa using (List.mem_filter.mp hf).2)
  have hget : ∀ g : Fld, 0xE00 ≤ g.addr → (s.bootDone cores).get g = (s.bootShown cores).get g := fun g hg =>
    congrArg (fun w : Word => bits w.toNat g.hi g.lo) (hregs g.addr (fun c hc => by omega))
  refine ⟨rfl, (hget _ (by decide)).trans hrun, (hget _ (by decide)).trans hclu, (hget _ (by decide)).trans hcores, fun hne c hc5 => ?_⟩
  obtain ⟨g, hg, hb⟩ := exists_bit_of_pos hne (clustersOf_lt cores)
  rw [← hon, bootDone_eq]
  rcases hserver ⟨g, hg, (hon g).trans hb⟩ c hc5 with h | ⟨hsame, hout⟩
  · exact h
  · refine (congrArg (s.bootShown cores).cluOn hsame).trans ?_
    have hlt : (s.bootShown cores).get (Reg.MB_STAT_SERVER c) < 4 := State.get_lt _ _
    by_contra hoff
    refine hout (List.mem_filter.mpr ⟨List.mem_range.mpr hlt, ?_⟩)
    exact congrArg (!·) (Bool.eq_false_iff.mpr (fun hb => hoff ((hon _).trans hb)))

/-- What a boot reads, it leaves alone: the choice and the image's goodness are those of the state before. -/
theorem exec_firmwareBooted {s : State} (cores : BitVec 16) (hst : s.pwr.st = .waking) (hw : s.pwr.wave1Done = true) (hb : s.pwr.booted = false)
    (hgood : s.bootChoice = goldenImage ∨ s.slotGood s.bootChoice = true) :
    exec (.firmwareBooted cores) s = .next (s.bootRead.bootDone cores.toNat) :=
  congrArg Host.Outcome.next (if_pos ⟨by simp [State.booting, hst, hw, hb], hgood⟩)

theorem exec_bootTimeout {s : State} (hst : s.pwr.st = .waking) (hw : s.pwr.wave1Done = true) (hb : s.pwr.booted = false) :
    exec .bootTimeout s = .next s.bootFail :=
  congrArg Host.Outcome.next (if_pos (by simp [State.booting, hst, hw, hb]))

theorem bootFail_facts {s : State} (h : s.bootChoice < 2) :
    s.bootFail.slotState s.bootChoice = slotBootFail ∧ s.bootFail.pwr.bootTry = s.pwr.bootTry ++ [s.bootChoice] := by
  unfold State.bootFail
  dsimp only
  rw [if_pos h]
  refine ⟨?_, ?_⟩
  · refine (log_get_ne _ _ _ _ _ _ ?_ ?_).trans (State.get_put_same _ _ _ (by show 17 < 18; decide) (by show 4 < 2 ^ 3; decide))
    · show 0xE08 + s.bootChoice ≠ 0xD0A; omega
    · show 0xE08 + s.bootChoice ≠ 0xD0B; omega
  · show (State.log _ _ _ _ _ _).pwr.bootTry ++ _ = _
    rw [log_pwr]
    rfl

/-- What the entry to RUN asks beside the power state: the clusters in service and the levels of PERSTh_N. -/
def State.bootView (s : State) : Nat × (PHost → Bool) := (s.get Reg.FW_STAT_CLU_ON, fun g => (s.host g).perstN)

theorem bootView_put (s : State) (f : Fld) (v : Nat) (h : f.addr ≠ 0xE05) : (s.put f v).bootView = s.bootView :=
  Prod.ext (State.get_put_ne _ _ (Ne.symm h)) rfl

theorem bootView_putAll (s : State) {fs : List (Fld × Nat)} (h : ∀ e, e ∈ fs → e.1.addr ≠ 0xE05) : (s.putAll fs).bootView = s.bootView :=
  foldl_keeps_mem State.bootView _ _ (fun t e he => bootView_put t e.1 e.2 (h e he))

theorem bootView_setHost (s : State) (h : PHost) (p : HostPort) (hp : p.perstN = (s.host h).perstN) : (s.setHost h p).bootView = s.bootView := by
  refine Prod.ext rfl (funext fun g => ?_)
  show ((s.setHost h p).host g).perstN = (s.host g).perstN
  by_cases e : g = h
  · rw [e, State.host_setHost_same, hp]
  · rw [State.host_setHost_ne _ _ e]

theorem bootView_notify (s : State) (c : IClass) (h : PHost) : (s.notify c h).bootView = s.bootView := by
  unfold State.notify State.msix
  dsimp only
  split_ifs
  · exact bootView_setHost s h { s.host h with wakeLow := true } rfl
  · rfl
  · exact bootView_setHost _ _ _ rfl
  · exact bootView_setHost _ _ _ rfl
  · exact bootView_setHost _ _ _ rfl
  · exact bootView_setHost s h
      { s.host h with l1 := false, sentAt := Map.set (fun _ => 0) (s.host h).sentAt (s.get (c.fields h.val).2) (s.stamp + 1) } rfl
  · rfl
  · rfl

theorem bootView_event (s : State) (ev : Fld) (a : Nat) (c : IClass) (hs : List PHost) (h : ev.addr ≠ 0xE05) :
    (s.event ev a c hs).bootView = s.bootView := by
  have hput := bootView_put s ev 1 h
  unfold State.event
  dsimp only
  split_ifs
  · exact hput
  · exact (foldl_keeps State.bootView (fun t x => bootView_notify t c x) _ _).trans hput
  · exact hput

theorem bootView_touched {s t : State} (h : Touched s t) : t.bootView = s.bootView := by
  have hh : t.hosts = s.hosts := h.field State.hosts (by intros; rfl)
  unfold State.bootView State.host
  rw [hh, show t.get Reg.FW_STAT_CLU_ON = s.get Reg.FW_STAT_CLU_ON from congrArg (fun w : Word => bits w.toNat 7 4) (h.2 0xE05 (by decide))]

theorem bootView_count (s : State) (xs : List Nat) (c : Bool) : (s.count xs c).bootView = s.bootView :=
  count_keeps State.bootView (fun _ _ => rfl) (fun _ _ _ _ => rfl) (fun t => bootView_event t _ _ _ _ (by decide))
    (fun t => bootView_put t _ _ (by decide)) s xs c

theorem bootView_setRecord (s : State) (i : Nat) (r : Rec) : (s.setRecord i r).bootView = s.bootView := bootView_touched (touched_setW18s _ s _)

/-- CUT marks, with their spoils, keep what records, counts, their events and LED_CUT keep (R284). -/
theorem markAllCut_keeps {β : Type} (f : State → β) (record : ∀ t i r, f (State.setRecord t i r) = f t)
    (count : ∀ t srcs cut, f (State.count t srcs cut) = f t) (put : ∀ (t : State) v, f (t.put Reg.LED_CUT_CUT v) = f t)
    (event : ∀ t : State, f (t.ledEvent Reg.LED_EVENT_CUT) = f t) (s : State) : f s.markAllCut = f s := by
  have hcut : ∀ (t : State) (i : Nat), f (t.markCut i) = f t := fun t i => by
    unfold State.markCut
    dsimp only
    split
    · exact (stampSpoil_keeps f record count _ _ _ _).trans (record _ _ _)
    · exact record _ _ _
  have hput := (put (s.openRecords.foldl State.markCut s) s.openRecords.length).trans (foldl_keeps f hcut s.openRecords s)
  unfold State.markAllCut
  dsimp only
  split
  · exact hput
  · exact (event _).trans hput

theorem bootView_markAllCut (s : State) : s.markAllCut.bootView = s.bootView :=
  markAllCut_keeps _ bootView_setRecord bootView_count (fun t v => bootView_put t _ v (by decide))
    (fun t => bootView_event t _ _ _ _ (by decide)) s

theorem markAllCut_pwr (s : State) : s.markAllCut.pwr = s.pwr :=
  markAllCut_keeps State.pwr (fun t _ _ => (touched_setW18s _ t _).field State.pwr (by intros; rfl))
    (count_keeps State.pwr (fun _ _ => rfl) (fun _ _ _ _ => rfl) (fun t => event_pwr t _ _ _ _) (fun _ => rfl)) (fun _ _ => rfl)
    (fun t => event_pwr t _ _ _ _) s

theorem bootView_setReg (s : State) {a : Nat} (w : Word) (h : a ≠ 0xE05) : (s.setReg a w).bootView = s.bootView :=
  Prod.ext (State.get_setReg_ne _ _ (Ne.symm h)) rfl

theorem bootView_logAt (s : State) (t source code loc5 loc6 detail : Nat) :
    (s.logAt t source code loc5 loc6 detail).bootView = s.bootView := by
  unfold State.logAt State.put36
  dsimp only
  rw [bootView_setReg _ _ (by decide), bootView_setReg _ _ (by decide)]
  rfl

theorem bootView_logHeld (s : State) : s.logHeld.bootView = s.bootView := by
  unfold State.logHeld
  exact foldl_keeps State.bootView (fun t _ => bootView_logAt t _ _ _ _ _ _) s.heldLog { s with heldLog := [] }

theorem bootView_freeFollow (s : State) : s.freeFollow.bootView = s.bootView := by
  have hen : ∀ (t : State) (g v : Nat), (t.put (Reg.SUP_EN_LEVEL.at g) v).bootView = t.bootView := fun t g v =>
    bootView_put t _ v (by decide : (0x127 : Nat) ≠ 0xE05)
  unfold State.freeFollow
  split
  · refine foldl_keeps State.bootView (fun t g => ?_) _ _
    split_ifs
    · exact hen _ _ _
    · exact hen (t.disarmGate g) _ _
    · rfl
  · rfl

theorem bootView_setLanes (s : State) (n : Nat) (mask : Nat) : (s.setLanes n mask).bootView = s.bootView := by
  have hm : (Reg.STN_LINK_STAT_LMASK n).addr = 0x861 + 0x80 * n := rfl
  have hl : (Reg.STN_LINK_STAT_LANES n).addr = 0x861 + 0x80 * n := rfl
  unfold State.setLanes
  rw [bootView_put _ _ _ (by omega), bootView_put _ _ _ (by omega)]

theorem bootView_setStn (s : State) (n : Nat) (t : Stn) : (s.setStn n t).bootView = s.bootView := rfl

theorem bootView_readDriver (s : State) (n : Fin 8) (xs : List (BitVec 7)) : (s.readDriver n xs).bootView = s.bootView :=
  foldl_keeps State.bootView (fun t a => (rfl : (t.emit (.setupFrame n false a 0#16)).bootView = t.bootView)) xs s

theorem bootView_trainStart (s : State) (n : Nat) : (s.trainStart n).bootView = s.bootView := by
  have hs : (Reg.STN_LINK_STAT_STATE n).addr = 0x861 + 0x80 * n := rfl
  have hd : (Reg.STN_STATUS_DEG_LINK n).addr = 0x802 + 0x80 * n := rfl
  unfold State.trainStart
  rw [bootView_readDriver, bootView_setStn, bootView_setLanes, bootView_put _ _ _ (by omega), bootView_put _ _ _ (by omega)]

theorem bootView_takeWindow (s : State) : s.takeWindow.bootView = s.bootView := by
  unfold State.takeWindow
  split <;> rfl

theorem bootView_bump (s : State) (f : Fld) (h : f.addr ≠ 0xE05) : (s.bump f).bootView = s.bootView := by
  unfold State.bump
  split
  · exact bootView_put _ _ _ h
  · rfl

theorem bootView_swept (s : State) (d : Dev) (w : Firmware) : ({ s with dev := d, fw := w } : State).bootView = s.bootView := rfl

theorem bootView_cycleOver (s : State) : s.cycleOver.bootView = s.bootView := by
  unfold State.cycleOver State.dropWindow
  dsimp only
  refine (bootView_event _ _ _ _ _ (by decide)).trans ((bootView_swept _ _ _).trans ?_)
  rw [bootView_putAll _ (by decide), bootView_put _ _ _ (by decide), bootView_bump _ _ (by decide)]

theorem bootView_cycleResume (s : State) : s.cycleResume.bootView = s.bootView := by
  have hstart : (s.dropWindow.putAll [(Reg.SWP_STAT_ACTIVE, 1), (Reg.SWP_STAT_LAG, 0), (Reg.SWP_STAT_PCT, 0)]).bootView = s.bootView :=
    bootView_putAll s.dropWindow (by decide)
  unfold State.cycleResume State.cycleStart
  dsimp only
  split_ifs
  · exact (bootView_cycleOver _).trans hstart
  · exact (bootView_takeWindow _).trans hstart
  · exact (bootView_takeWindow _).trans (bootView_put _ _ _ (by decide))
  · rfl

/-- The entry to RUN up to the training of the stations. -/
def State.runStarted (s : State) : State :=
  let s1 := (s.goto .run).logHeld.freeFollow.perstAtRun
  { s1.put Reg.LED_KEEP_STAT_DUE 0 with
    pwr := { s1.pwr with warnN := s1.warnLevel }, led := { s1.led with incr := [], changed := false } }

/-- The entry to RUN with the enabled stations in training, up to the hosts' CUT events. -/
def State.runTrained (s : State) : State :=
  ((List.range 8).filter s.stnEnabled).foldl (fun (t : State) n => t.trainStart n) s

/-- The hosts that have records marked CUT hear of it. -/
def State.runTold (s : State) : State :=
  (s.existing.filter (fun h => decide (0 < s.cutCount h))).foldl (fun (t : State) h => t.hostEvent h Reg.HOST_EVENT_CUT) s

/-- The entry to RUN up to the decision for DRAIN. -/
def State.runEntered (s : State) : State := s.runStarted.runTrained.runTold.cycleResume

theorem enterRun_runEntered (s : State) : s.enterRun = (if !s.runEntered.pwr.pwrok then s.runEntered.drainStart .pwrok
    else if s.runEntered.get Reg.FW_STAT_CLU_ON = 0 then s.runEntered.drainStart .request else s.runEntered) := rfl

theorem runStarted_inv {s : State} (h : s.Inv) : s.runStarted.Inv := by
  have h1 := State.perstAtRun_kept (State.freeFollow_kept (State.logHeld_kept (State.goto_kept (kept_start h 0x3ae793007f) .run (by decide))
    (by decide)) (by decide)) (by decide)
  have h2 := (kept_mk.mp (h1.put Reg.LED_KEEP_STAT_DUE 0 (by decide))).parts
    (pwr := { (s.goto .run).logHeld.freeFollow.perstAtRun.pwr with warnN := (s.goto .run).logHeld.freeFollow.perstAtRun.warnLevel })
    (led := { (s.goto .run).logHeld.freeFollow.perstAtRun.led with incr := [], changed := false })
    (h_pwr := .inl (by decide)) (h_led := .inl (by decide))
  exact (kept_mk.mpr h2).inv

theorem runTrained_inv {s : State} (h : s.Inv) : s.runTrained.Inv :=
  (kept_foldl (m := 0x2004000040) (fun t n ht => State.trainStart_kept ht n (by decide)) _ _ (kept_start h _)).inv

theorem runTold_inv {s : State} (h : s.Inv) : s.runTold.Inv :=
  (kept_foldl (m := 0x3ae793007f) (fun t x ht => State.hostEvent_kept ht x Reg.HOST_EVENT_CUT 
    (fun n => ok_add (b := 0x3ae793007f) (n := 0x708) (by decide) (by decide)) (by decide)) _ _ (kept_start h _)).inv

theorem runEntered_inv {s : State} (h : s.Inv) : s.runEntered.Inv :=
  (State.cycleResume_kept (kept_start (runTold_inv (runTrained_inv (runStarted_inv h))) 0x2805100040) (by decide)).inv

theorem runEntered_pwr (s : State) : s.runEntered.pwr = s.runStarted.pwr := by
  unfold State.runEntered
  rw [cycleResume_pwr]
  exact (foldl_keeps State.pwr (fun t h => event_pwr' t h _) _ _).trans (foldl_keeps State.pwr (fun t n => trainStart_pwr t n) _ _)

theorem bootView_runEntered (s : State) : s.runEntered.bootView = s.runStarted.bootView := by
  have htold : s.runStarted.runTrained.runTold.bootView = s.runStarted.runTrained.bootView :=
    foldl_keeps State.bootView (fun t h => bootView_event t _ _ _ _ (by have : (Reg.HOST_EVENT_CUT h).addr = 0x708 + h.val := rfl; omega)) _ _
  have htrain : s.runStarted.runTrained.bootView = s.runStarted.bootView :=
    foldl_keeps State.bootView bootView_trainStart _ _
  exact (bootView_cycleResume _).trans (htold.trans htrain)

/-- With every PERSTh_N high, RUN begins with PWROK and the clusters as they were. -/
theorem runEntered_facts (s : State) (h : ∀ g : PHost, (s.host g).perstN = true) : s.runEntered.pwr.st = .run ∧
    s.runEntered.pwr.pwrok = s.pwr.pwrok ∧ s.runEntered.get Reg.FW_STAT_CLU_ON = s.get Reg.FW_STAT_CLU_ON := by
  have hview : (s.goto .run).logHeld.freeFollow.bootView = s.bootView := (bootView_freeFollow _).trans (bootView_logHeld _)
  have hpwr := freeFollow_st (s.goto .run).logHeld
  rw [logHeld_pwr] at hpwr
  have hhigh : (s.goto .run).logHeld.freeFollow.perstAtRun = (s.goto .run).logHeld.freeFollow :=
    perstAtRun_high _ (fun g => (congrFun (congrArg Prod.snd hview) g).trans (h g))
  have hstart : s.runStarted.bootView = s.bootView := by
    refine Eq.trans (b := ((s.goto .run).logHeld.freeFollow.perstAtRun.put Reg.LED_KEEP_STAT_DUE 0).bootView) rfl ?_
    rw [bootView_put _ _ _ (by decide), hhigh, hview]
  rw [runEntered_pwr]
  refine ⟨?_, ?_, congrArg Prod.fst ((bootView_runEntered s).trans hstart)⟩
  · exact (congrArg (fun t : State => t.pwr.st) hhigh).trans hpwr.1
  · exact (congrArg (fun t : State => t.pwr.pwrok) hhigh).trans hpwr.2

/-- The entry to RUN, or to DRAIN when PWROK is low or no cluster is in service. -/
theorem enterRun_facts {s : State} (hI : s.Inv) (h : ∀ g : PHost, (s.host g).perstN = true) :
    (s.pwr.pwrok = true → s.get Reg.FW_STAT_CLU_ON ≠ 0 → s.enterRun.pwr.st = .run) ∧
    (s.pwr.pwrok = false → s.enterRun.pwr.st = .drain ∧ s.enterRun.pwr.drainBy = some .pwrok) ∧
    (s.pwr.pwrok = true → s.get Reg.FW_STAT_CLU_ON = 0 → s.enterRun.pwr.st = .drain ∧ s.enterRun.pwr.drainBy = some .request) := by
  obtain ⟨hst, hok, hclu⟩ := runEntered_facts s h
  have hdrain := drainStart_st s.runEntered (runEntered_inv hI)
  rw [enterRun_runEntered, hok, hclu]
  refine ⟨fun h1 h2 => ?_, fun h1 => ?_, fun h1 h2 => ?_⟩
  · rw [h1, if_neg (by decide), if_neg h2]
    exact hst
  · rw [h1, if_pos (by decide)]
    exact hdrain _
  · rw [h1, if_neg (by decide), if_pos h2]
    exact hdrain _

theorem markAllCut_inv {s : State} (h : s.Inv) : s.markAllCut.Inv := (State.markAllCut_kept (kept_start h 0x2841120040) (by decide)).inv

/-- What comes after the rebuild of the open sheets, once every step of Table 4-6 is done. -/
theorem exec_openSheetRebuild {s : State} (hst : s.pwr.st = .waking) (hw : s.pwr.wave1Done = true) (hl : s.pwr.restoreLeft = [])
    (hcl : s.pwr.cleared = true) (hco : s.pwr.counted = true) (hb : s.pwr.booted = true) :
    exec .openSheetRebuild s = .next s.markAllCut.enterRun :=
  congrArg Host.Outcome.next (if_pos ⟨hst, by simp [State.returned, hw, hl], hcl, hco, hb⟩)

theorem exec_counterRecovery {s : State} (hst : s.pwr.st = .waking) (hw : s.pwr.wave1Done = true) (hl : s.pwr.restoreLeft = [])
    (hco : s.pwr.counted = false) : exec .counterRecovery s = .next s.recoverCounters :=
  congrArg Host.Outcome.next (if_pos ⟨hst, by simp [State.returned, hw, hl], by simp [hco]⟩)

/-- Settles O3: each command's condition is met, and its meaning is the named operation of Return. -/
theorem returnSteps : Obligations.ReturnSteps := by
  refine ⟨?seals, ?wave, ?clears, ?noCopy, ?copy, ?boot, ?bootFails, ?run⟩
  case seals =>
    intro s hst hlock hread hwipe
    exact ⟨s.sealsDone, congrArg Host.Outcome.next (if_pos ⟨hst, hlock, by simp [hread], hwipe⟩), rfl, rfl, rfl⟩
  case wave =>
    intro s hst hread hleft
    exact ⟨s.restoreWave, congrArg Host.Outcome.next (if_pos ⟨hst, hread, hleft.imp_left (by simp [·])⟩), rfl, rfl⟩
  case clears =>
    intro s hst hw
    exact congrArg Host.Outcome.next (if_pos ⟨hst, hw⟩)
  case noCopy =>
    intro s hst hw hl hco hnone
    refine ⟨_, exec_counterRecovery hst hw hl hco, ?_⟩
    rw [recoverCounters_none hnone]
    have hlt := copiesCount_lt s
    exact ⟨rfl, rfl, State.get_put_same _ _ _ (by decide) (by show _ < 2 ^ 6; omega), fun a ha => State.reg_setReg_ne _ _ ha⟩
  case copy =>
    intro s c hst hw hl hco hsome hv hc
    obtain ⟨hcounted, hcopies, hpair, hcounter⟩ := recoverCounters_facts hsome hv hc
    exact ⟨_, exec_counterRecovery hst hw hl hco, hcounted, hcopies, hpair, hcounter⟩
  case boot =>
    intro cores s hst hw hb hgood
    obtain ⟨hbooted, hrun, hclu, hcores, hserver⟩ := bootDone_facts s.bootRead cores.isLt
    refine ⟨_, exec_firmwareBooted cores hst hw hb hgood, hbooted, hrun.trans (bootChoice_same (Same.bootRead s)), hcores, ?_, ?_, ?_⟩
    · intro hall
      rw [hclu, hall]
      decide
    · intro f hf
      rw [hclu]
      exact clustersOf_bit _ hf
    · rw [hclu]
      exact hserver
  case bootFails =>
    intro s hst hw hb hc
    exact ⟨_, exec_bootTimeout hst hw hb, bootFail_facts hc⟩
  case run =>
    intro s hst hw hl hcl hco hb hperst hI
    have hview := bootView_markAllCut s
    have hclu : s.markAllCut.get Reg.FW_STAT_CLU_ON = s.get Reg.FW_STAT_CLU_ON := congrArg Prod.fst hview
    have hfacts := enterRun_facts (markAllCut_inv hI) (fun g => (congrFun (congrArg Prod.snd hview) g).trans (hperst g))
    rw [markAllCut_pwr, hclu] at hfacts
    exact ⟨_, exec_openSheetRebuild hst hw hl hcl hco hb, hfacts⟩

end Sys2Proof.Machine

namespace Sys2Proof.Machine
open Sys2Proof

/-! Staged data that is lost in a scratchpad (R94): O38 -/

theorem notify_rest (s : State) (c : IClass) (h : PHost) : (s.notify c h).rest = s.rest := by
  unfold State.notify
  dsimp only
  split_ifs
  · rfl
  · rfl
  · exact (SendsOnly.msix _ _ _).2.2.1
  · rfl

theorem event_rest (s : State) (ev : Fld) (a : Nat) (c : IClass) (hs : List PHost) : (s.event ev a c hs).rest = s.rest := by
  unfold State.event
  dsimp only
  split_ifs
  · rfl
  · exact (foldl_keeps State.rest (fun t h => notify_rest t c h) _ _).trans rfl
  · rfl

theorem Quiet.withFlights {s t : State} (h : Quiet s t) (fs : List Flight) : Quiet { s with flights := fs } { t with flights := fs } :=
  ⟨rfl, h.pwr, h.regs, h.up, h.flow, h.out⟩

theorem Quiet.setImage (s : State) (r : Nat) (m : Image) : Quiet s (s.setImage r m) := Quiet.of rfl rfl rfl rfl rfl

theorem Quiet.flightUpsets (s : State) (f : Flight) (ups : List Upset) : Quiet s (s.flightUpsets f ups) :=
  Quiet.of (flightUpsets_keeps State.flights (by intros; rfl) s f ups) (flightUpsets_keeps State.pwr (by intros; rfl) s f ups)
    (flightUpsets_keeps State.regs (by intros; rfl) s f ups) (flightUpsets_keeps State.hosts (by intros; rfl) s f ups)
    (flightUpsets_keeps State.out (by intros; rfl) s f ups)

/-- Both ports' writes where they meet in a word: the event of the host's descriptor (R94). -/
def State.lostStage (s : State) (h : PHost) (p : PadTraffic) : State := (s.padWrites p).arrEvent Reg.ARR_EVENT_WRITE_LOST [h]

theorem stageData_lost (s : State) {f : Flight} {p : PadTraffic} {a : Nat} (hs : staged f.op = true) (hp : padLost p = some a) (hl : f.lost = none) :
    s.stageData f p = (s.lostStage f.host p, { f with lost := some a }) := by
  unfold State.stageData
  rw [if_pos hs, hp, hl]
  rfl

theorem Quiet.lostStage (s : State) (h : PHost) (p : PadTraffic) : Quiet s (s.lostStage h p) :=
  (padWrites_yields s p).quiet.trans' (Quiet.arrEventOff _ _ _ (by decide))

theorem lostStage_rest (s : State) (h : PHost) (p : PadTraffic) : (s.lostStage h p).rest = (s.padWrites p).rest := event_rest _ _ _ _ _

theorem padWrites_rest (s : State) (p : PadTraffic) : (s.padWrites p).rest = s.rest := (padWrites_yields s p).field State.rest (by intros; rfl)

theorem lostStage_writeLost (s : State) (h : PHost) (p : PadTraffic) : (s.lostStage h p).get Reg.ARR_EVENT_WRITE_LOST = 1 :=
  event_get_same _ _ _ _ _ (by decide) rfl

/-- An upset of a codeword of region 63 meets its home's cells, whatever else the state holds. -/
theorem upset63_arr {s t : State} (harr : t.arr = s.arr) (hhome : t.phys63 = s.phys63) {u : Upset} (hu : cwRegion u.codeword = 63) :
    (t.upset u).arr = (s.upset u).arr ∧ (t.upset u).phys63 = (s.upset u).phys63 := by
  refine ⟨?_, ?_⟩
  · unfold State.upset State.upsetIn State.physOf
    dsimp only
    rw [hu, if_pos rfl, if_pos rfl, hhome, show t.image s.phys63 = s.image s.phys63 by unfold State.image; rw [harr]]
    split
    · unfold State.setImage
      rw [harr]
    · unfold State.setImage
      rw [harr]
    · exact harr
  · rw [upset_keeps State.phys63 (by intros; rfl), upset_keeps State.phys63 (by intros; rfl), hhome]

theorem ledgerUpsets_arr {s t : State} (harr : t.arr = s.arr) (hhome : t.phys63 = s.phys63) (us : List Upset) :
    (t.upsets us (recAddr 0 / 4) (recAddr 1048576 / 4 - 1)).arr = (s.upsets us (recAddr 0 / 4) (recAddr 1048576 / 4 - 1)).arr := by
  have fold : ∀ (xs : List Upset), (∀ u, u ∈ xs → cwRegion u.codeword = 63) → ∀ s t : State, t.arr = s.arr → t.phys63 = s.phys63 →
      (xs.foldl State.upset t).arr = (xs.foldl State.upset s).arr := by
    intro xs
    induction xs with
    | nil => exact fun _ _ _ h _ => h
    | cons u xs ih =>
      intro hx s t h1 h2
      obtain ⟨e1, e2⟩ := upset63_arr h1 h2 (hx u List.mem_cons_self)
      exact ih (fun v hv => hx v (List.mem_cons_of_mem _ hv)) _ _ e1 e2
  refine fold _ (fun u hu => ?_) s t harr hhome
  have hin := of_decide_eq_true (List.mem_filter.mp hu).2
  unfold recAddr at hin
  unfold cwRegion
  omega

theorem cwRanges_staged (s : State) {f : Flight} (hs : staged f.op = true) : s.cwRanges f = [] := by
  revert hs
  unfold staged State.cwRanges
  cases f.op <;> simp

/-- The upsets of a descriptor that firmware serves touch region 63 alone, so they come to the same cells after lost staging. -/
theorem stagedUpsets_rest {s t : State} {f : Flight} (hs : staged f.op = true) (ups : List Upset) (h : t.rest = s.rest) :
    (t.flightUpsets f ups).rest = (s.flightUpsets f ups).rest := by
  have hparts : (t.flightUpsets f ups).rest.2 = (s.flightUpsets f ups).rest.2 := by
    rw [flightUpsets_keeps (fun u => u.rest.2) (by intros; rfl), flightUpsets_keeps (fun u => u.rest.2) (by intros; rfl), h]
  refine Prod.ext ?_ hparts
  show (t.flightUpsets f ups).arr = (s.flightUpsets f ups).arr
  unfold State.flightUpsets
  rw [cwRanges_staged _ hs, cwRanges_staged _ hs, List.foldl_nil, List.foldl_nil]
  split
  · exact ledgerUpsets_arr (congrArg Prod.fst h) (rest_phys63 h) ups
  · exact congrArg Prod.fst h

/-- Only the ledger's readers have codewords that upsets meet. -/
theorem stagedUpsets_idle {s : State} {f : Flight} (hs : staged f.op = true) (hl : readsLedger f.op = false) (ups : List Upset) :
    s.flightUpsets f ups = s := by
  unfold State.flightUpsets
  rw [cwRanges_staged _ hs, if_neg (by rw [hl]; decide)]
  rfl

theorem undo_staged (s : State) (i : Nat) {f : Flight} (hs : staged f.op = true) (ht : f.op ≠ .tableLoad) : s.undo i f = s := by
  revert hs ht
  unfold staged State.undo
  cases f.op <;> simp

/-- A flight with lost data whose data has come ends (R94). -/
theorem advance_lost {s : State} {i a : Nat} {f : Flight} (here : s.flights[i]? = some f) (hc : f.compl = none) (hm : f.committed = false)
    (hl : f.lost = some a) (he : f.ending = none) (hd : f.lacks = false) (calm : (s.host f.host).retraining = false) :
    s.advance i = s.loseFlight i f a := by
  unfold State.advance
  rw [here]
  simp [hc, hm, hl, he, hd, calm]

/-- The flight with its completion fixed. -/
def Flight.ended (f : Flight) (c : Compl) : Flight := { f with compl := some c, committed := true, stage := .done }

def lostCompl (a : Nat) : Compl := { status := Status.writeLost, aux := BitVec.ofNat 32 a }

theorem loseFlight_one {s : State} {f : Flight} (a : Nat) (hf : (s.undo 0 f).flights = [f]) :
    s.loseFlight 0 f a = { s.undo 0 f with flights := [f.ended (lostCompl a)] } := fixFlight_one _ _ _ hf

/-- The completion WRITE_LOST of a descriptor that arrived alone, from a state that is quiet since its arrival. -/
theorem lost_completes {s : State} {h : PHost} {j q : Ring} {op : Opcode} {d : Desc} {a : Nat} (ha : s.Arrives h j q) (w : State) (f : Flight)
    (hg : f.host = h ∧ f.sq = j ∧ f.op = op ∧ f.d = d) (hq : Quiet { s.advanceHead h j with flights := [] } { w with flights := [] })
    (t : State)
    (ht : t = ({ w with flights := [f.ended (lostCompl a)] } : State).settle) :
    s.Completes t h j q d (lostCompl a) ∧ t.rest = w.rest ∧ ∀ x, notRing x → t.reg x = w.reg x := by
  obtain ⟨hreg, hrest, hup, hflow, -, -⟩ := advanceHead_facts s h j
  obtain ⟨hdone, -, hkept, hregs⟩ := accepts_finish (op := op) ha
    { w with flights := [f.ended (lostCompl a)] } _
    ⟨_, rfl, hg.1, hg.2.1, hg.2.2.1, hg.2.2.2, rfl⟩ (fun x h1 h2 h3 => (hq.regs x h1 h2).trans (hreg x h3)) (hq.pwr.trans (rest_pwr hrest))
    ⟨(hq.up h).trans hup, (hq.flow h).trans hflow⟩
  rw [ht]
  exact ⟨hdone, hkept, hregs⟩

/-- A descriptor that arrives alone and reads no host memory, its staged data lost. -/
def State.begunLost (s : State) (h : PHost) (j : Ring) (op : Opcode) (d : Desc) (ups : List Upset) (p : PadTraffic) : State :=
  ((s.advanceHead h j).lostStage h p).flightUpsets (newFlight h j op d) ups

theorem begunLost_quiet (s : State) (h : PHost) (j : Ring) (op : Opcode) (d : Desc) (ups : List Upset) (p : PadTraffic) :
    Quiet (s.advanceHead h j) (s.begunLost h j op d ups p) := (Quiet.lostStage _ _ _).trans' (Quiet.flightUpsets _ _ _)

theorem begunLost_rest (s : State) (h : PHost) (j : Ring) {op : Opcode} (d : Desc) (ups : List Upset) (p : PadTraffic) (hs : staged op = true) :
    (s.begunLost h j op d ups p).rest = (s.begun h j (newFlight h j op d) ups p).rest :=
  stagedUpsets_rest (f := newFlight h j op d) hs ups (lostStage_rest _ _ _)

/-- WRITE_LOST is set, and stays as the descriptor completes. -/
theorem writeLost_kept {s t : State} (hs : s.get Reg.ARR_EVENT_WRITE_LOST = 1) (hr : ∀ x, notRing x → t.reg x = s.reg x) :
    t.get Reg.ARR_EVENT_WRITE_LOST = 1 := by
  have e : t.reg 0x403 = s.reg 0x403 := hr _ ⟨fun h j => by
    have hh : (Reg.HOST_SQ_STAT h.val j.val).addr = 0x740 + 0x38 * h.val + j.val := rfl
    have hc : (Reg.HOST_CQ_STAT h.val j.val).addr = 0x744 + 0x38 * h.val + j.val := rfl
    omega, by decide⟩
  exact (congrArg (fun w : Word => bits w.toNat 4 4) e).trans hs

theorem mayArrive_calm {s : State} {h : PHost} {j : Ring} (hl : s.mayArrive h j = true) {w : State} (hq : Quiet (s.advanceHead h j) w) :
    (w.host h).retraining = false := by
  obtain ⟨-, hrest, hup, hflow, -, -⟩ := advanceHead_facts s h j
  unfold State.mayArrive State.linkOpen HostPort.flows at hl
  simp only [Bool.and_eq_true] at hl
  refine open_calm (s := w) (h := h) ?_
  unfold State.linkOpen State.serving HostPort.flows
  rw [hq.pwr, rest_pwr hrest, hq.up, hup, hq.flow, hflow]
  simp only [Bool.and_eq_true]
  exact hl.1.1

theorem arrive_local_lost {s : State} {h : PHost} {j q : Ring} {op : Opcode} {d : Desc} (ups : List Upset) {p : PadTraffic} {a : Nat}
    (ha : s.Accepts h j q op d) (hr : readsHost op = false) (hs : staged op = true) (hp : padLost p = some a) :
    ∃ t, s.descArrive h j op d {} ups p = t ∧ s.Completes t h j q d (lostCompl a) ∧
      t.get Reg.ARR_EVENT_WRITE_LOST = 1 ∧ t.rest = (s.begun h j (newFlight h j op d) ups p).rest := by
  let f : Flight := { newFlight h j op d with lost := some a }
  have hq := begunLost_quiet s h j op d ups p
  have hnone : (s.begunLost h j op d ups p).flights = [] := hq.flights.trans ha.1.2.1
  have calm : ((s.begunLost h j op d ups p).host h).retraining = false := mayArrive_calm ha.1.1 hq
  have harrive : s.descArrive h j op d {} ups p = (({ s.begunLost h j op d ups p with flights := [f] } : State).advance 0).settle := by
    unfold State.descArrive
    rw [if_pos ha.1.1]
    dsimp only
    rw [ha.2]
    dsimp only
    rw [if_neg (by rw [hr]; decide), stageData_lost (s.advanceHead h j) (f := { host := h, sq := j, op := op, d := d, stage := .data }) hs hp rfl,
      show (s.advanceHead h j).flights = [] from ha.1.2.1]
    unfold State.begunLost at hnone ⊢
    dsimp only [newFlight] at hnone ⊢
    rw [hnone]
    rfl
  have hadv : ({ s.begunLost h j op d ups p with flights := [f] } : State).advance 0 =
      ({ s.begunLost h j op d ups p with flights := [f] } : State).loseFlight 0 f a :=
    advance_lost (f := f) (a := a) rfl rfl rfl rfl rfl (lacks_local hr) calm
  have hundo : ({ s.begunLost h j op d ups p with flights := [f] } : State).undo 0 f = { s.begunLost h j op d ups p with flights := [f] } :=
    undo_staged _ _ (f := f) hs (fun e => by rw [show f.op = op from rfl] at e; rw [e] at hr; exact absurd hr (by decide))
  rw [hadv, loseFlight_one a (by rw [hundo]), hundo] at harrive
  obtain ⟨hdone, hrest, hreg⟩ := lost_completes (op := op) ha.1 (s.begunLost h j op d ups p) f ⟨rfl, rfl, rfl, rfl⟩ (hq.withFlights []) _ harrive
  refine ⟨_, rfl, hdone, writeLost_kept ?_ hreg, hrest.trans (begunLost_rest s h j d ups p hs)⟩
  exact (flightUpsets_keeps (fun u => u.get Reg.ARR_EVENT_WRITE_LOST) (by intros; rfl) _ _ _).trans (lostStage_writeLost _ _ _)

/-- Only the ledger's readers meet upsets at their arrival. -/
theorem begun_idle (s : State) (h : PHost) (j : Ring) {op : Opcode} (d : Desc) (ups : List Upset) (p : PadTraffic) (hs : staged op = true)
    (hl : readsLedger op = false) : s.begun h j (newFlight h j op d) ups p = s.begun h j (newFlight h j op d) [] p := by
  unfold State.begun
  rw [stagedUpsets_idle (f := newFlight h j op d) hs hl, stagedUpsets_idle (f := newFlight h j op d) hs hl]

/-- A command that is such an arrival, with or without the upsets of its operand. -/
theorem exec_local_lost {s : State} {h : PHost} {j q : Ring} {op : Opcode} {d : Desc} {ups : List Upset} {p : PadTraffic} {a : Nat} {i : Instr}
    (hi : exec i s = .next (s.descArrive h j op d {} ups p)) (ha : s.Accepts h j q op d) (hr : readsHost op = false) (hs : staged op = true)
    (hp : padLost p = some a) (hl : ups = [] ∧ readsLedger op = false ∨ ups = p.ups) :
    ∃ t, exec i s = .next t ∧ s.Completes t h j q d (lostCompl a) ∧ t.get Reg.ARR_EVENT_WRITE_LOST = 1 ∧
      t.rest = (s.begun h j (newFlight h j op d) p.ups p).rest := by
  obtain ⟨t, harrive, hdone, hevent, hrest⟩ := arrive_local_lost ups ha hr hs hp
  refine ⟨t, hi.trans (congrArg _ harrive), hdone, hevent, hrest.trans (congrArg State.rest ?_)⟩
  rcases hl with ⟨rfl, hl⟩ | rfl
  · exact (begun_idle s h j d p.ups p hs hl).symm
  · rfl

/-- A descriptor that arrives alone has asked for n bytes of its host data. -/
def State.askedFor (s : State) (h : PHost) (j : Ring) (d : Desc) (n : Nat) : State :=
  ((s.advanceHead h j).leaveL1 h).emit (.dataRead h d.haddr.toNat n)

theorem askedFor_quiet (s : State) (h : PHost) (j : Ring) (d : Desc) (n : Nat) : Quiet (s.advanceHead h j) (s.askedFor h j d n) :=
  Quiet.trans' (t := (s.advanceHead h j).leaveL1 h) (Quiet.setHost _ _ _ rfl rfl) (Quiet.emit _ _)

/-- The arrival of a descriptor that reads host memory: it asks for what the free tags allow, and takes what comes (R155, R187). -/
theorem arrive_takes {s : State} {h : PHost} {j q : Ring} {op : Opcode} {d : Desc} (data : HostData) (ups : List Upset) (p : PadTraffic) {n : Nat}
    (ha : s.Accepts h j q op d) (hr : readsHost op = true) (hd : 0 < Desc.n d) (hg : (s.advanceHead h j).askGoal (newFlight h j op d) = n) (hn : 0 < n) :
    s.descArrive h j op d data ups p = (({ s.askedFor h j d n with flights := [{ newFlight h j op d with asked := n }] } : State).takeData 0
      { newFlight h j op d with asked := n } data ups p).settle := by
  obtain ⟨⟨hmay, hnone, -⟩, hchk⟩ := ha
  have hf : (s.advanceHead h j).flights = [] := hnone
  have hopen : (s.advanceHead h j).linkOpen h = true := by
    obtain ⟨-, hrest, hup, hflow, -, -⟩ := advanceHead_facts s h j
    unfold State.mayArrive at hmay
    simp only [Bool.and_eq_true] at hmay
    rw [← hmay.1.1]
    unfold State.linkOpen State.serving HostPort.flows
    rw [rest_pwr hrest, hup, hflow]
  have hlacks : (newFlight h j op d).lacks = true := by simp [Flight.lacks, newFlight, Flight.open_, Flight.received, hr, hd]
  have hawaits : ({ newFlight h j op d with asked := n } : Flight).awaits = true := by
    simp [Flight.awaits, Flight.lacks, newFlight, Flight.open_, Flight.received, hr, hd, hn]
  have hgoal : ({ s.advanceHead h j with flights := (s.advanceHead h j).flights ++ [newFlight h j op d] } : State).askGoal (newFlight h j op d) = n :=
    (askGoal_append _ _ _ rfl).trans hg
  have hask : ({ s.advanceHead h j with flights := (s.advanceHead h j).flights ++ [newFlight h j op d] } : State).askData
      (s.advanceHead h j).flights.length = { s.askedFor h j d n with flights := [{ newFlight h j op d with asked := n }] } := by
    refine (askData_one ({ s.advanceHead h j with flights := (s.advanceHead h j).flights ++ [newFlight h j op d] } : State) _ (newFlight h j op d) (by
      show ((s.advanceHead h j).flights ++ _)[_]? = _
      rw [hf]
      rfl) hlacks hopen
      (Nat.lt_of_lt_of_eq hn hgoal.symm)).trans ?_
    rw [hgoal, hf]
    exact (setFlight_one _ (newFlight h j op d) _ rfl).trans rfl
  unfold State.descArrive
  rw [if_pos hmay]
  dsimp only
  rw [hchk]
  dsimp only
  rw [if_pos hr, show ({ s.advanceHead h j with
    flights := (s.advanceHead h j).flights ++ [{ host := h, sq := j, op := op, d := d, stage := .data }] } : State) =
    { s.advanceHead h j with flights := (s.advanceHead h j).flights ++ [newFlight h j op d] } from rfl, hask, hf]
  show State.settle (if ({ newFlight h j op d with asked := n } : Flight).awaits = true then _ else _) = _
  rw [if_pos hawaits]
  rfl

/-- Whole data that arrives while its staging collides: the first colliding address is noted, the rest is taken (R94). -/
theorem takeData_lost {t : State} {g : Flight} {data : HostData} {p : PadTraffic} {a : Nat} (hf : t.flights = [g]) (hs : staged g.op = true)
    (hu : readsLedger g.op = false) (hp : padLost p = some a) (hl : g.lost = none) (hpo : data.poison = false) (hfa : data.fail = false) :
    t.takeData 0 g data [] p = { t.lostStage g.host p with
      flights := [{ g with lost := some a, buf := g.buf ++ data.bytes.take (min g.asked (Desc.n g.d) - g.received) }] } := by
  have hfl : (t.lostStage g.host p).flights = [g] := (Quiet.lostStage _ _ _).flights.trans hf
  unfold State.takeData State.dataFailed Flight.receive
  rw [stageData_lost t hs hp hl]
  dsimp only
  rw [hpo, hfa, if_neg (by decide), if_neg (by decide), if_neg (by decide), if_neg (by decide), stagedUpsets_idle hs hu]
  exact setFlight_one _ _ _ hfl

/-- What a descriptor has in hand once it took data whose staging collided. -/
def lostFlight (h : PHost) (j : Ring) (op : Opcode) (d : Desc) (n a : Nat) (bs : List Byte) : Flight :=
  { newFlight h j op d with asked := n, lost := some a, buf := bs.take (min n (Desc.n d)) }

/-- The state in which that descriptor goes on. -/
def State.askedLost (s : State) (h : PHost) (j : Ring) (op : Opcode) (d : Desc) (n a : Nat) (bs : List Byte) (p : PadTraffic) : State :=
  { ({ s.askedFor h j d n with flights := [{ newFlight h j op d with asked := n }] } : State).lostStage h p with
    flights := [lostFlight h j op d n a bs] }

theorem askedLost_quiet (s : State) (h : PHost) (j : Ring) (op : Opcode) (d : Desc) (n a : Nat) (bs : List Byte) (p : PadTraffic) (fs : List Flight) :
    Quiet { s.advanceHead h j with flights := fs } { s.askedLost h j op d n a bs p with flights := fs } :=
  Quiet.trans' (t := ({ s.askedFor h j d n with flights := fs } : State)) ((askedFor_quiet s h j d n).withFlights fs)
    ((Quiet.lostStage { s.askedFor h j d n with flights := [{ newFlight h j op d with asked := n }] } h p).withFlights fs)

theorem askedLost_rest (s : State) (h : PHost) (j : Ring) (op : Opcode) (d : Desc) (n a : Nat) (bs : List Byte) (p : PadTraffic) :
    (s.askedLost h j op d n a bs p).rest = s.rest :=
  calc (s.askedLost h j op d n a bs p).rest
      = (({ s.askedFor h j d n with flights := [{ newFlight h j op d with asked := n }] } : State).lostStage h p).rest := rfl
    _ = ({ s.askedFor h j d n with flights := [{ newFlight h j op d with asked := n }] } : State).rest := (lostStage_rest _ _ _).trans (padWrites_rest _ _)
    _ = s.rest := rfl

theorem askedLost_writeLost (s : State) (h : PHost) (j : Ring) (op : Opcode) (d : Desc) (n a : Nat) (bs : List Byte) (p : PadTraffic) :
    (s.askedLost h j op d n a bs p).get Reg.ARR_EVENT_WRITE_LOST = 1 := lostStage_writeLost _ h p

theorem arrive_host_lost {s : State} {h : PHost} {j q : Ring} {op : Opcode} {d : Desc} {data : HostData} {p : PadTraffic} {n a : Nat}
    (ha : s.Accepts h j q op d) (hr : readsHost op = true) (hs : staged op = true) (hp : padLost p = some a) (hd : 0 < Desc.n d)
    (hg : (s.advanceHead h j).askGoal (newFlight h j op d) = n) (hn : 0 < n) (hpo : data.poison = false) (hfa : data.fail = false) :
    s.descArrive h j op d data [] p = (s.askedLost h j op d n a data.bytes p).settle := by
  have hu : readsLedger op = false := by
    revert hr
    unfold readsHost readsLedger
    cases op <;> simp
  rw [arrive_takes data [] p ha hr hd hg hn, takeData_lost (g := { newFlight h j op d with asked := n }) rfl hs hu hp rfl hpo hfa]
  rfl

/-- With all of its data in, the descriptor completes WRITE_LOST; u is the state that its stop leaves (R94, R205). -/
theorem host_lost {s : State} {h : PHost} {j q : Ring} {op : Opcode} {d : Desc} {data : HostData} {p : PadTraffic} {a : Nat}
    (ha : s.Accepts h j q op d) (hr : readsHost op = true) (hs : staged op = true) (hp : padLost p = some a) (hn : 0 < Desc.n d)
    (hd : s.Delivers (newFlight h j op d) data) (u : State)
    (hu : (s.askedLost h j op d (Desc.n d) a data.bytes p).undo 0 (lostFlight h j op d (Desc.n d) a data.bytes) = u)
    (hq : Quiet (s.askedLost h j op d (Desc.n d) a data.bytes p) u) :
    ∃ t, s.descArrive h j op d data [] p = t ∧ s.Completes t h j q d (lostCompl a) ∧ t.rest = u.rest ∧
      ∀ x, notRing x → t.reg x = u.reg x := by
  obtain ⟨hgoal, hlen, hpo, hfa⟩ := hd
  have hlen : data.bytes.length = Desc.n d := hlen
  have hgoal : (s.advanceHead h j).askGoal (newFlight h j op d) = Desc.n d := hgoal
  have hv := askedLost_quiet s h j op d (Desc.n d) a data.bytes p
  have hfull : (lostFlight h j op d (Desc.n d) a data.bytes).lacks = false := by
    simp [Flight.lacks, Flight.received, lostFlight, newFlight, hlen]
  have hadv : (s.askedLost h j op d (Desc.n d) a data.bytes p).advance 0 = { u with flights := [(lostFlight h j op d (Desc.n d) a data.bytes).ended (lostCompl a)] } := by
    rw [← hu]
    refine (advance_lost (f := lostFlight h j op d (Desc.n d) a data.bytes) rfl rfl rfl rfl rfl hfull ?_).trans
      (loseFlight_one a (by rw [hu, hq.flights]; rfl))
    exact mayArrive_calm ha.1.1 (w := { s.askedLost h j op d (Desc.n d) a data.bytes p with flights := [] })
      (by have := hv []; rwa [show ({ s.advanceHead h j with flights := [] } : State) = s.advanceHead h j by rw [← show (s.advanceHead h j).flights = [] from ha.1.2.1]] at this)
  have hsettle : s.descArrive h j op d data [] p =
      ({ u with flights := [(lostFlight h j op d (Desc.n d) a data.bytes).ended (lostCompl a)] } : State).settle := by
    rw [arrive_host_lost ha hr hs hp hn hgoal hn hpo hfa, ← hadv]
    refine settle_first _ _ rfl hfull (serving_congr s _ (arrives_serving ha.1) (by rw [rest_pwr (askedLost_rest ..)])) h j op d (lostCompl a)
      ⟨_, by rw [hadv], rfl, rfl, rfl, rfl, rfl⟩ (by rw [hadv]; exact hq.pwr)
  obtain ⟨hdone, hrest, hreg⟩ := lost_completes (op := op) ha.1 u (lostFlight h j op d (Desc.n d) a data.bytes) ⟨rfl, rfl, rfl, rfl⟩
    ((hv []).trans' (hq.withFlights [])) _ hsettle
  exact ⟨_, rfl, hdone, hrest, hreg⟩

theorem host_lost_plain {s : State} {h : PHost} {j q : Ring} {op : Opcode} {d : Desc} {data : HostData} {p : PadTraffic} {a : Nat}
    (ha : s.Accepts h j q op d) (hr : readsHost op = true) (hs : staged op = true) (ht : op ≠ .tableLoad) (hp : padLost p = some a)
    (hn : 0 < Desc.n d) (hd : s.Delivers (newFlight h j op d) data) :
    ∃ t, s.descArrive h j op d data [] p = t ∧ t.rest = s.rest ∧ s.Completes t h j q d (lostCompl a) ∧ t.get Reg.ARR_EVENT_WRITE_LOST = 1 := by
  obtain ⟨t, harrive, hdone, hrest, hreg⟩ := host_lost ha hr hs hp hn hd _ (undo_staged _ _ (f := lostFlight h j op d (Desc.n d) a data.bytes) hs ht)
    (Quiet.rfl' _)
  exact ⟨t, harrive, hrest.trans (askedLost_rest ..), hdone, writeLost_kept (askedLost_writeLost ..) hreg⟩

theorem rest_stn {s t : State} (h : t.rest = s.rest) (n : Nat) : t.stn n = s.stn n := by
  simp only [State.rest, Prod.mk.injEq] at h
  unfold State.stn
  rw [h.2.2.1]

/-- A TABLE_LOAD that is lost leaves its idle bank DIRTY (R231). -/
theorem undo_tableLoad {v : State} {f : Flight} (hop : f.op = .tableLoad) (hc : ((v.stn f.d.stn).table f.d.tbl).state ≠ .copying) :
    v.undo 0 f = v.dirtyTable f.d := by
  unfold State.undo
  rw [hop]
  dsimp only
  rw [if_neg (by simp [State.loadWaits, hc])]

theorem dirtyTable_quiet (v : State) (d : Desc) : Quiet v (v.dirtyTable d) := Quiet.of rfl rfl rfl rfl rfl

theorem host_lost_table {s : State} {h : PHost} {j q : Ring} {d : Desc} {data : HostData} {p : PadTraffic} {a : Nat}
    (ha : s.Accepts h j q .tableLoad d) (hp : padLost p = some a) (hd : s.Delivers (newFlight h j .tableLoad d) data)
    (hc : ((s.stn d.stn).table d.tbl).state ≠ .copying) :
    ∃ t, s.descArrive h j .tableLoad d data [] p = t ∧ t.arr = s.arr ∧
      (t.stn d.stn).table d.tbl = { (s.stn d.stn).table d.tbl with state := .dirty } ∧ s.Completes t h j q d (lostCompl a) ∧
      t.get Reg.ARR_EVENT_WRITE_LOST = 1 := by
  have hn : 0 < Desc.n d := by have := (accepts_table ha.2).1; omega
  have hkept := askedLost_rest s h j .tableLoad d (Desc.n d) a data.bytes p
  have hstn : (s.askedLost h j .tableLoad d (Desc.n d) a data.bytes p).stn d.stn = s.stn d.stn := rest_stn hkept _
  obtain ⟨t, harrive, hdone, hrest, hreg⟩ := host_lost ha rfl rfl hp hn hd _
    (undo_tableLoad (f := lostFlight h j .tableLoad d (Desc.n d) a data.bytes) rfl (by
      show (((s.askedLost h j .tableLoad d (Desc.n d) a data.bytes p).stn d.stn).table d.tbl).state ≠ _
      rw [hstn]
      exact hc)) (dirtyTable_quiet _ _)
  refine ⟨t, harrive, (congrArg Prod.fst hrest).trans (congrArg Prod.fst hkept), ?_, hdone,
    writeLost_kept (askedLost_writeLost s h j .tableLoad d (Desc.n d) a data.bytes p) hreg⟩
  rw [rest_stn hrest]
  unfold State.dirtyTable
  rw [show (lostFlight h j .tableLoad d (Desc.n d) a data.bytes).d = d from rfl, State.stn_setStn_same, Stn.table_setTable_same, hstn]

/-- While host data is still to come, the descriptor waits with the address noted. -/
theorem host_lost_waits {s : State} {h : PHost} {j q : Ring} {op : Opcode} {d : Desc} {data : HostData} {p : PadTraffic} {a : Nat}
    (ha : s.Accepts h j q op d) (hr : readsHost op = true) (hs : staged op = true) (hp : padLost p = some a) (hpo : data.poison = false)
    (hfa : data.fail = false) (hlen : data.bytes.length < Desc.n d) (hn : 0 < (s.advanceHead h j).askGoal (newFlight h j op d)) :
    ∃ u : State, s.descArrive h j op d data [] p = u.settle ∧ u.get Reg.ARR_EVENT_WRITE_LOST = 1 ∧ u.rest = s.rest ∧
      ∃ g, u.flights = [g] ∧ g.lost = some a ∧ g.compl = none ∧ g.lacks = true := by
  refine ⟨_, arrive_host_lost ha hr hs hp (by omega) rfl hn hpo hfa, askedLost_writeLost .., askedLost_rest .., _, rfl, rfl, rfl, ?_⟩
  have : min (min ((s.advanceHead h j).askGoal (newFlight h j op d)) (Desc.n d)) data.bytes.length < Desc.n d := by omega
  simpa [Flight.lacks, Flight.open_, Flight.received, lostFlight, newFlight, hr] using this

/-- The word that a port writes last: each address at most once among its writes. -/
theorem get_setPads (s : State) {ws : List (BitVec 18 × BitVec 64)} (hd : (ws.map (·.1)).Nodup) {w : BitVec 18} {x : BitVec 64} (hw : (w, x) ∈ ws) :
    Map.get (fun _ => 0#64) (s.setPads ws).fw.pads w.toNat = x := by
  refine get_setAll_same _ _ _ (fun e he hk => ?_) ⟨_, List.mem_map_of_mem hw, rfl⟩
  obtain ⟨y, hy, rfl⟩ := List.mem_map.mp he
  have h1 : y.1 = w := BitVec.eq_of_toNat_eq hk
  exact congrArg Prod.snd (List.inj_on_of_nodup_map hd hy hw h1)

theorem yieldHeld_pads (s : State) : s.yieldHeld.fw.pads = s.fw.pads := by
  unfold State.yieldHeld
  split
  · exact bump_keeps (fun t => t.fw.pads) (fun _ _ _ => rfl) _ _
  · rfl

theorem get_setPads_ne (s : State) {ws : List (BitVec 18 × BitVec 64)} {w : BitVec 18} (hw : ∀ e, e ∈ ws → e.1 ≠ w) :
    Map.get (fun _ => 0#64) (s.setPads ws).fw.pads w.toNat = Map.get (fun _ => 0#64) s.fw.pads w.toNat := by
  have hpads : (s.padAccess (ws.map (fun e => e.1.toNat))).fw.pads = s.fw.pads := by
    unfold State.padAccess
    split
    · split
      · exact yieldHeld_pads s
      · rfl
    · rfl
  refine (Map.get_setAll_ne _ _ _ (fun e he hk => ?_)).trans (by rw [hpads])
  obtain ⟨y, hy, rfl⟩ := List.mem_map.mp he
  exact hw y hy (BitVec.eq_of_toNat_eq hk)

/-- Both ports' writes: the core's where it writes, else the DMA's (R94). -/
theorem padWrites_words (s : State) (p : PadTraffic) (w : BitVec 18) (x : BitVec 64) (hc : (p.core.map (·.1)).Nodup) (hd : (p.dma.map (·.1)).Nodup) :
    ((w, x) ∈ p.core → Map.get (fun _ => 0#64) (s.padWrites p).fw.pads w.toNat = x) ∧
    ((w, x) ∈ p.dma → (∀ e, e ∈ p.core → e.1 ≠ w) → Map.get (fun _ => 0#64) (s.padWrites p).fw.pads w.toNat = x) ∧
    ((∀ e, e ∈ p.core ++ p.dma → e.1 ≠ w) → Map.get (fun _ => 0#64) (s.padWrites p).fw.pads w.toNat = Map.get (fun _ => 0#64) s.fw.pads w.toNat) :=
  ⟨fun h => get_setPads _ hc h, fun h hne => (get_setPads_ne _ hne).trans (get_setPads _ hd h), fun h =>
    (get_setPads_ne _ (fun e he => h e (List.mem_append_left _ he))).trans (get_setPads_ne _ (fun e he => h e (List.mem_append_right _ he)))⟩

/-- Settles O38: a descriptor whose staged data collided notes the address, takes the rest of its data, and completes WRITE_LOST. -/
theorem scratchpadCollisions : Obligations.ScratchpadCollisions := by
  refine ⟨?here, ?host, ?waits, fun s p w x => padWrites_words s p w x⟩
  case here =>
    intro h j q d p a s i op hp hi ha
    simp only [List.mem_cons, List.not_mem_nil, or_false, Prod.mk.injEq] at hi
    rcases hi with ⟨rfl, rfl⟩ | ⟨rfl, rfl⟩ | ⟨rfl, rfl⟩ | ⟨rfl, rfl⟩ | ⟨rfl, rfl⟩ | ⟨rfl, rfl⟩
    · exact exec_local_lost rfl ha rfl rfl hp (.inl ⟨rfl, rfl⟩)
    · exact exec_local_lost rfl ha rfl rfl hp (.inr rfl)
    · exact exec_local_lost rfl ha rfl rfl hp (.inr rfl)
    · exact exec_local_lost rfl ha rfl rfl hp (.inr rfl)
    · exact exec_local_lost rfl ha rfl rfl hp (.inl ⟨rfl, rfl⟩)
    · exact exec_local_lost rfl ha rfl rfl hp (.inl ⟨rfl, rfl⟩)
  case host =>
    intro h j q d data p a s hp
    refine ⟨fun ha hd => ?_, fun ha hd => ?_, fun ha hd hc => ?_⟩
    · have hn : 0 < Desc.n d := by have := (accepts_keep ha.2 (.inr (.inl rfl))).1; omega
      obtain ⟨t, ht, h3⟩ := host_lost_plain ha rfl rfl (by decide) hp hn hd
      exact ⟨t, congrArg _ ht, h3⟩
    · have hn : 0 < Desc.n d := by have := (accepts_keep ha.2 (.inr (.inr (.inl rfl)))).1; omega
      obtain ⟨t, ht, h3⟩ := host_lost_plain ha rfl rfl (by decide) hp hn hd
      exact ⟨t, congrArg _ ht, h3⟩
    · obtain ⟨t, ht, h3⟩ := host_lost_table ha hp hd hc
      exact ⟨t, congrArg _ ht, h3⟩
  case waits =>
    intro h j q d data p a s i op hp hi ha hpo hfa hlen hn
    simp only [List.mem_cons, List.not_mem_nil, or_false, Prod.mk.injEq] at hi
    rcases hi with ⟨rfl, rfl⟩ | ⟨rfl, rfl⟩ | ⟨rfl, rfl⟩
    all_goals
      obtain ⟨u, hu, h3⟩ := host_lost_waits ha rfl rfl hp hpo hfa hlen hn
      exact ⟨u, congrArg _ hu, h3⟩

end Sys2Proof.Machine

namespace Sys2Proof.Machine
open Sys2Proof

/-! Descriptors that wait (R101, R124, R184, R232, R305): O16 -/

theorem advance_tableSwap {s : State} {i : Nat} {f : Flight} (h : s.Goes i f) (ho : f.op = .tableSwap) (hs : f.stage = .data) :
    s.advance i = s.setFlight i { f with stage := .swap } := by
  unfold State.advance
  rw [h.here]
  simp [h.compl, h.committed, h.lost, h.calm, ho, hs]

theorem advance_checkpoint {s : State} {i : Nat} {f : Flight} (h : s.Goes i f) (ho : f.op = .checkpoint) :
    s.advance i = s.setFlight i { f with stage := .checkpoint } := by
  unfold State.advance
  rw [h.here]
  simp [h.compl, h.committed, h.lost, h.calm, ho]

theorem advance_keepWrites {s : State} {i : Nat} {f : Flight} (h : s.Goes i f) (ho : f.op = .keepWrite ∨ f.op = .recordPut) :
    s.advance i = s.doKeepWrite i f := by
  unfold State.advance
  rw [h.here]
  rcases ho with ho | ho <;> simp [h.compl, h.committed, h.lost, h.calm, ho]

theorem advance_move {s : State} {i : Nat} {f : Flight} (h : s.Goes i f) (ho : f.op = .move) (hs : f.stage = .data) :
    s.advance i = s.moveStart i f := by
  unfold State.advance
  rw [h.here]
  simp [h.compl, h.committed, h.lost, h.calm, ho, hs]

theorem advance_abort {s : State} {i : Nat} {f : Flight} (h : s.Goes i f) (ho : f.op = .abort) : s.advance i = s.doAbort i f := by
  unfold State.advance
  rw [h.here]
  simp [h.compl, h.committed, h.lost, h.calm, ho]

/-- The plan of a Keep write, and whether its page is hot, depend on the Keep and the power state alone. -/
theorem keepPlan_congr {s t : State} (hk : t.keep = s.keep) (hp : t.pwr = s.pwr) (f : Flight) :
    t.keepPlan f = s.keepPlan f ∧ ∀ p, t.isHot p = s.isHot p := by
  have hot : ∀ p, t.isHot p = s.isHot p := fun p => by simp only [State.isHot, State.inHot, State.serving, hk, hp]
  have hword : ∀ w, t.readKeep w = s.readKeep w := fun w => by simp only [State.readKeep, State.hotWord, State.keepArray, hot, hk]
  have hpage : ∀ p, t.readPage p = s.readPage p := fun p => by simp only [State.readPage, hword]
  have hchoice : ∀ p, t.chooseRecord p = s.chooseRecord p := fun p => by
    unfold State.chooseRecord
    rw [hpage, hpage]
  refine ⟨?_, hot⟩
  unfold State.keepPlan
  rw [hchoice]

theorem asked_rest (s : State) (h : PHost) (j : Ring) (f g : Flight) (p : PadTraffic) : (s.asked h j f g [] p).rest = s.rest := by
  rw [asked_nil _ _ _ _ _ p]
  exact padWrites_rest _ p

theorem begun_rest (s : State) (h : PHost) (j : Ring) (f : Flight) (p : PadTraffic) : (s.begun h j f [] p).rest = s.rest := by
  rw [begun_nil _ _ _ _ p]
  exact padWrites_rest _ p

/-- A Keep write with all of its data, to a page that is not hot, waits for its page write (R290, R305). -/
theorem keepWrite_starts {s : State} {h : PHost} {j q : Ring} {op : Opcode} {d : Desc} {data : HostData} {p : PadTraffic} {f : Flight}
    (ho : op = .keepWrite ∨ op = .recordPut) (ha : s.Accepts h j q op d) (hp : padLost p = none) (hd : s.Delivers (newFlight h j op d) data)
    (hf : f = { askedFlight h j op d with buf := data.bytes }) (hcold : s.isHot (s.keepPlan f).1 = false) :
    ∃ u : State, s.descArrive h j op d data [] p = u.settle ∧ u.flights = [{ f with stage := .keep }] ∧ u.rest = s.rest := by
  have hr : readsHost op = true := by rcases ho with rfl | rfl <;> rfl
  have hs : Staged op p := .inl ⟨by rcases ho with rfl | rfl <;> rfl, hp⟩
  have hn : 0 < Desc.n d := by
    have := (accepts_keep ha.2 (ho.elim (fun h => .inr (.inl h)) (fun h => .inr (.inr (.inl h))))).1
    omega
  have hlen : f.buf.length = Desc.n f.d := by rw [hf]; exact hd.2.1
  have hop : f.op = .keepWrite ∨ f.op = .recordPut := by rw [hf]; exact ho
  let b := s.asked h j (newFlight h j op d) ((askedFlight h j op d).receive data) [] p
  have hrest : b.rest = s.rest := asked_rest ..
  have hgo : b.Goes 0 f := hf ▸ asked_goes ha hd [] p
  have waits : ∀ (v : State) (g : Flight), v.rest = s.rest → v.Goes 0 g → g.op = f.op → g.buf = f.buf → g.d = f.d → g.ending = none →
      v.advance 0 = v.setFlight 0 { g with stage := .keep } := by
    intro v g hv hg e1 e2 e3 e4
    have hplan : v.keepPlan g = s.keepPlan f := by
      rw [← (keepPlan_congr (rest_keep hv) (rest_pwr hv) f).1]
      simp only [State.keepPlan, e1, e2, e3]
    rw [advance_keepWrites hg (e1 ▸ hop)]
    refine doKeepWrite_waits v g e4 (by rw [e2, e3]; exact hlen) (blocked_zero _ _) ?_
    rw [hplan, (keepPlan_congr (rest_keep hv) (rest_pwr hv) f).2]
    exact hcold
  have hu := waits b f hrest hgo rfl rfl rfl (by rw [hf]; rfl)
  have hfl : (b.setFlight 0 { f with stage := .keep }).flights = [{ f with stage := .keep }] := by
    rw [setFlight_one b f _ (by rw [← receive_all hd] at hf; rw [hf]; exact (asked_facts s h j _ _ [] p).2.2.2.2.2)]
  have hgo' : (b.setFlight 0 { f with stage := .keep }).Goes 0 { f with stage := .keep } :=
    ⟨by rw [hfl]; rfl, hgo.compl, hgo.committed, hgo.lost, hgo.calm⟩
  have hagain := waits (b.setFlight 0 { f with stage := .keep }) { f with stage := .keep } hrest hgo' rfl rfl rfl (by rw [hf]; rfl)
  refine ⟨b.setFlight 0 { f with stage := .keep }, host_starts ha hr data hd hn p hs _ hu (rest_pwr hrest) ?_ ?_, hfl, hrest⟩
  · refine askAll_idle _ _ hfl ?_
    rw [hf]
    simp [Flight.lacks, Flight.received, askedFlight, newFlight, show data.bytes.length = Desc.n d from hd.2.1]
  · rw [advanceAll_one _ _ hfl, hagain, setFlight_one _ _ _ hfl]
    exact congrArg (fun fs => ({ b.setFlight 0 { f with stage := .keep } with flights := fs } : State)) hfl.symm

/-- The ABORT that arrives behind the descriptors in progress ends the one it names (R184, R185). -/
theorem abort_starts {s b : State} {h : PHost} {j : Ring} {d : Desc} {k : Nat} {e : Flight} (hm : s.mayArrive h j = true)
    (hc : (s.advanceHead h j).descCheck h .abort d = none) (hb : b = { s.advanceHead h j with flights := s.flights ++ [newFlight h j .abort d] })
    (hk : b.findFlight (fun e => decide (e.host = h ∧ e.sq.val = bits d.p0.toNat 1 0 ∧ e.d.tag.toNat = bits d.p0.toNat 31 16 ∧ e.op ≠ .abort ∧
      e.op ≠ .nop) && e.open_) = some (k, e)) :
    s.descArrive h j .abort d {} [] = ((b.stopFlight k e Status.aborted).fixFlight s.flights.length { status := Status.done }).settle := by
  have hgo : b.Goes s.flights.length (newFlight h j .abort d) := by
    have calm : ((s.advanceHead h j).host h).retraining = false := mayArrive_calm hm (Quiet.rfl' _)
    subst hb
    exact ⟨by simp, rfl, rfl, rfl, calm⟩
  have hdo : b.advance s.flights.length = (b.stopFlight k e Status.aborted).fixFlight s.flights.length { status := Status.done } := by
    rw [advance_abort hgo rfl]
    unfold State.doAbort
    exact (congrArg (fun r => match r with
      | some (k, e) => (b.stopFlight k e Status.aborted).fixFlight s.flights.length { status := Status.done }
      | none => b.fixFlight s.flights.length { status := Status.noTarget }) hk)
  rw [← hdo, hb]
  unfold State.descArrive
  rw [if_pos hm]
  dsimp only
  rw [hc]
  dsimp only
  rw [if_neg (by decide), flightUpsets_nil]
  rfl

theorem abort_facts {b : State} {h : PHost} {j : Ring} {d : Desc} {fs : List Flight} {k : Nat} {e : Flight} (hb : b.flights = fs ++ [newFlight h j .abort d])
    (hk : b.flights[k]? = some e) (ho : e.op ≠ .abort) :
    ((b.stopFlight k e Status.aborted).fixFlight fs.length { status := Status.done }).flights[k]? =
      some { e with compl := some { status := Status.aborted, result := e.stopResult }, committed := true, stage := .done } ∧
    ((b.stopFlight k e Status.aborted).fixFlight fs.length { status := Status.done }).flights[fs.length]? =
      some { newFlight h j .abort d with compl := some { status := Status.done }, committed := true, stage := .done } := by
  have hlast : b.flights[fs.length]? = some (newFlight h j .abort d) := by rw [hb]; simp
  have hne : k ≠ fs.length := fun hkl => ho (by
    rw [hkl, hlast] at hk
    rw [← Option.some.inj hk]
    rfl)
  have hstop := fun i => fixFlight_get (b.undo k e) k i e { status := Status.aborted, result := e.stopResult } (by rw [undo_flights]; exact hk)
  have hlast' : (b.stopFlight k e Status.aborted).flights[fs.length]? = some (newFlight h j .abort d) := by
    refine (hstop _).trans ?_
    rw [if_neg (Ne.symm hne), undo_flights, hlast]
  refine ⟨?_, ?_⟩
  · rw [fixFlight_get _ _ _ _ _ hlast', if_neg hne]
    exact (hstop k).trans (if_pos rfl)
  · rw [fixFlight_get _ _ _ _ _ hlast', if_pos rfl]

/-- Settles O16: what each of these descriptors does first, and the state that then settles. -/
theorem waitingDescriptors : Obligations.WaitingDescriptors := by
  refine ⟨?swap, ?checkpoint, ?keepWrite, ?recordPut, ?move, ?abort⟩
  case swap =>
    intro h j q d s ha
    have hu := advance_tableSwap (begun_goes ha [] {}) rfl rfl
    refine ⟨_, congrArg _ (local_starts ha rfl {} (.inr ⟨rfl, rfl⟩) _ hu), ?_, begun_rest s h j _ {}⟩
    exact setFlight_flights_zero (begun_facts s h j _ [] {}).2.2.2.2.2 _
  case checkpoint =>
    intro h j q d s ha
    have hu := advance_checkpoint (begun_goes ha [] {}) rfl
    refine ⟨_, congrArg _ (local_starts ha rfl {} (.inr ⟨rfl, rfl⟩) _ hu), ?_, begun_rest s h j _ {}⟩
    exact setFlight_flights_zero (begun_facts s h j _ [] {}).2.2.2.2.2 _
  case keepWrite =>
    intro h j q d data p s f ha hp hd hf hcold
    obtain ⟨u, hu, hrest⟩ := keepWrite_starts (.inl rfl) ha hp hd hf hcold
    exact ⟨u, congrArg _ hu, hrest⟩
  case recordPut =>
    intro h j q d data p s f ha hp hd hf hcold
    obtain ⟨u, hu, hrest⟩ := keepWrite_starts (.inr rfl) ha hp hd hf hcold
    exact ⟨u, congrArg _ hu, hrest⟩
  case move =>
    intro h j q d s n ha hn
    obtain ⟨hreg, -, -, -, -, hfl⟩ := begun_facts s h j (newFlight h j .move d) [] {}
    have hn' : (s.begun h j (newFlight h j .move d) []).freeMove = some n :=
      (freeMove_congr _ _ (fun a ha => hreg a (low_ne h j a (.inl ha)) (by omega))).trans hn
    have hpart : (s.begun h j (newFlight h j .move d) []).get (Reg.PART_REGION_PARTITION (bits d.p0.toNat 5 0)) =
        s.get (Reg.PART_REGION_PARTITION (bits d.p0.toNat 5 0)) := by
      have hsrc : bits d.p0.toNat 5 0 < 64 := Nat.mod_lt _ (by decide)
      have haddr : (Reg.PART_REGION_PARTITION (bits d.p0.toNat 5 0)).addr = 0x440 + bits d.p0.toNat 5 0 := rfl
      exact begun_get s h j _ [] {} _ (low_ne h j _ (.inl (by omega))) (by omega)
    have hfacts := moveStart_facts _ (newFlight h j .move d) n hfl hn' h.isLt
    rw [show (newFlight h j .move d).d = d from rfl, show (newFlight h j .move d).host = h from rfl, hpart] at hfacts
    exact ⟨_, congrArg _ (local_starts ha rfl {} (.inr ⟨rfl, rfl⟩) _ (advance_move (begun_goes ha [] {}) rfl rfl)), hfacts⟩
  case abort =>
    intro h j d s b k e hm hc hb hk
    obtain ⟨hhere, hnamed⟩ := findFlight_facts _ _ _ _ hk
    simp only [Bool.and_eq_true, decide_eq_true_eq] at hnamed
    exact ⟨_, congrArg _ (abort_starts hm hc hb hk), abort_facts (by rw [hb]) hhere hnamed.1.2.2.2.1⟩

end Sys2Proof.Machine

namespace Sys2Proof.Machine
open Sys2Proof

/-! Restore waves (R129, R131): O36 -/

theorem foldl_holds {α σ : Type} (P : σ → Prop) {f : σ → α → σ} : ∀ (xs : List α) (s : σ), (∀ t x, x ∈ xs → P t → P (f t x)) → P s → P (xs.foldl f s)
  | [], _, _, h => h
  | x :: xs, s, hf, h => foldl_holds P xs (f s x) (fun t y hy => hf t y (List.mem_cons_of_mem _ hy)) (hf s x List.mem_cons_self h)

/-- What wave 1 takes back of region 63's device state and cells, and the power state (R104). -/
def State.part63 (s : State) : Map (BitVec 54) × Map Word × Map Word × Image × Pwr := (s.dev.counters, s.dev.log, s.dev.hot, s.image 63, s.pwr)

theorem part63_setImage (s : State) {r : Nat} (m : Image) (h : r ≠ 63) : (s.setImage r m).part63 = s.part63 := by
  have e : (s.setImage r m).image 63 = s.image 63 := Map.get_set_ne _ _ _ (Ne.symm h)
  unfold State.part63
  rw [e]
  rfl

theorem part63_notify (s : State) (c : IClass) (h : PHost) : (s.notify c h).part63 = s.part63 := by
  unfold State.notify State.msix
  dsimp only
  split_ifs <;> rfl

theorem part63_event (s : State) (ev : Fld) (a : Nat) (c : IClass) (hs : List PHost) : (s.event ev a c hs).part63 = s.part63 := by
  unfold State.event
  dsimp only
  split_ifs
  · rfl
  · exact (foldl_keeps State.part63 (fun t h => part63_notify t c h) _ _).trans rfl
  · rfl

/-- While the device does not serve, the health log waits (R358). -/
theorem part63_log (s : State) (a b c d e : Nat) (h : s.serving = false) : (s.log a b c d e).part63 = s.part63 := by
  unfold State.log
  rw [if_neg (by rw [h]; decide)]
  rfl

theorem part63_leave (s : State) (r : Nat) : (s.leave r).part63 = s.part63 := by
  unfold State.leave
  split <;> rfl

theorem serving_of_part63 {s t : State} (h : t.part63 = s.part63) (hs : s.serving = false) : t.serving = false := by
  have e : t.pwr = s.pwr := congrArg (fun v => v.2.2.2.2) h
  rw [← hs]
  unfold State.serving
  rw [e]

/-- A retirement's event and its log entry. -/
theorem part63_announced {s t : State} (h : t.part63 = s.part63) (hs : s.serving = false) (ev : Fld) (hosts : List PHost) (a b c d e : Nat) :
    ((t.arrEvent ev hosts).log a b c d e).part63 = s.part63 := by
  have h' : (t.arrEvent ev hosts).part63 = s.part63 := (part63_event _ _ _ _ _).trans h
  exact (part63_log _ _ _ _ _ _ (serving_of_part63 h' hs)).trans h'

theorem part63_retire (s : State) {r : Nat} (c cl : Nat) (hr : r ≠ 63) (hs : s.serving = false) : (s.retire r c cl).part63 = s.part63 := by
  unfold State.retire
  rw [if_neg hr]
  split_ifs
  · exact part63_announced (t := (((s.leave r).setRstate r RState.retired).put (Reg.PART_REGION_PARTITION r) 0x3F).arrLast c cl r) (part63_leave s r) hs ..
  · exact part63_announced (t := ((({ s with dev := { s.dev with causes := Map.set (fun _ => 0) s.dev.causes r c } } : State).leave r).setRstate r
      RState.retiring).arrLast c cl r) (part63_leave { s with dev := { s.dev with causes := Map.set (fun _ => 0) s.dev.causes r c } } r) hs ..
  · rfl
  · rfl

theorem part63_retireLate (s : State) {r : Nat} (hr : r ≠ 63) (hs : s.serving = false) : (s.retireLate r).part63 = s.part63 := by
  unfold State.retireLate
  split
  · exact part63_retire { s with dev := { s.dev with failed := s.dev.failed.filter (fun d => decide (d.1 ≠ r)) } } _ _ hr hs
  · rfl

theorem part63_dropCopies (s : State) (hs : s.serving = false) : s.dropCopies.part63 = s.part63 := by
  unfold State.dropCopies
  refine foldl_holds (fun t : State => t.part63 = s.part63) _ _ (fun t r hr ht => ?_)
    (foldl_keeps State.part63 (f := fun (t : State) n => t.setReg (0x410 + n) 0#18) (fun _ _ => rfl) _ _)
  have hr63 : r ≠ 63 := by
    have := List.mem_range.mp (List.mem_filter.mp hr).1
    omega
  exact (part63_retireLate ((t.setRstate r RState.available).put (Reg.PART_REGION_PARTITION r) 0x3F) hr63 (serving_of_part63 (t := t) ht hs)).trans ht

theorem bump_part63 (s : State) (f : Fld) : (s.bump f).part63 = s.part63 := bump_keeps _ (fun _ _ _ => rfl) s f

theorem part63_clearAtWake (s : State) (xs : List Held) {r : Nat} (hr : r ≠ 63) : (s.clearAtWake xs r).part63 = s.part63 := by
  have hclear := part63_setImage s (Image.flat (s.clearedWord r)) hr
  unfold State.clearAtWake
  split_ifs
  · rfl
  · exact (bump_part63 _ _).trans hclear
  · exact hclear

theorem clearAtWake_keep (s : State) (xs : List Held) (r : Nat) : (s.clearAtWake xs r).keep = s.keep := by
  unfold State.clearAtWake
  split_ifs
  · rfl
  · exact bump_keeps State.keep (fun _ _ _ => rfl) _ _
  · rfl

theorem part63_restoreRegion (s : State) (xs : List Held) {r : Nat} (hr : r ≠ 63) : (s.restoreRegion xs r).part63 = s.part63 := by
  unfold State.restoreRegion
  split
  · rfl
  · split_ifs
    · rfl
    · exact (bump_part63 _ _).trans (part63_setImage s _ hr)
    · exact part63_setImage s _ hr

theorem restoreRegion_keep (s : State) (xs : List Held) (r : Nat) : (s.restoreRegion xs r).keep = s.keep := by
  unfold State.restoreRegion
  split
  · rfl
  · split_ifs
    · rfl
    · exact bump_keeps State.keep (fun _ _ _ => rfl) _ _
    · rfl

theorem part63_restoreHot (s : State) (xs : List Held) : (s.restoreHot xs).part63 = s.part63 := rfl

theorem restoreHot_hot (s : State) {xs : List Held} (h : (chosen xs 63).isSome = true) : (s.restoreHot xs).keep.hot = s.dev.hot := by
  unfold State.restoreHot
  dsimp only
  rw [if_pos h]

/-- What is left of the state once copies are dropped, slots are free and the replay records are those of hosts that exist. -/
def State.mapCleaned (s : State) : State :=
  let s2 := [0, 1].foldl (fun (t : State) k => if t.slotState k = slotLoading then t.put (Reg.FW_SLOT_STATE k) slotEmpty else t) s.dropCopies
  { s2 with dev := { s2.dev with replay := s2.dev.replay.filter (fun r => s2.hostExists r.host) } }

theorem mapApplies_eq (s : State) (xs : List Held) :
    s.mapApplies xs = (List.range 63).foldl (fun (t : State) r => t.clearAtWake xs r) (s.mapCleaned.restoreHot xs) := rfl

theorem part63_mapCleaned (s : State) (hs : s.serving = false) : s.mapCleaned.part63 = s.part63 := by
  refine Eq.trans ?_ (part63_dropCopies s hs)
  refine foldl_keeps State.part63 (fun t k => ?_) [0, 1] s.dropCopies
  split_ifs <;> rfl

theorem part63_mapApplies (s : State) (xs : List Held) (hs : s.serving = false) : (s.mapApplies xs).part63 = s.part63 := by
  rw [mapApplies_eq]
  refine (foldl_keeps_mem State.part63 _ _ (fun t r hr => part63_clearAtWake t xs ?_)).trans ((part63_restoreHot _ _).trans (part63_mapCleaned s hs))
  have := List.mem_range.mp hr
  omega

theorem mapApplies_hot (s : State) {xs : List Held} (h : (chosen xs 63).isSome = true) (hs : s.serving = false) :
    (s.mapApplies xs).keep.hot = s.dev.hot := by
  have hkeep : (s.mapApplies xs).keep = (s.mapCleaned.restoreHot xs).keep := by
    rw [mapApplies_eq]
    exact foldl_keeps State.keep (fun t r => clearAtWake_keep t xs r) _ _
  rw [hkeep, restoreHot_hot _ h]
  exact congrArg (fun v => v.2.2.1) (part63_mapCleaned s hs)

/-- Region 63 comes back with its device state from the plane that its seal names. -/
theorem restore63_some {s : State} {xs : List Held} {c : Held × Bool × Bool} {d : Dev} (hc : chosen xs 63 = some c)
    (hd : d = Map.get (fun _ => {}) (if c.1.planeB then s.devB else s.devA) c.1.phys) :
    (s.restore63 xs).dev = d ∧ (s.restore63 xs).pwr = s.pwr ∧ (s.restore63 xs).image c.1.phys = s.planeImage c.1.planeB c.1.phys := by
  unfold State.restore63
  rw [hc]
  dsimp only
  have keeps := fun {β : Type} (p : State → β) (hp : ∀ t (f : Fld) v, p (State.put t f v) = p t) (u : State) => bump_keeps p hp (u.rstatOf 63 c) Reg.VOL_RETURN_RESTORED
  refine ⟨(keeps State.dev (fun _ _ _ => rfl) _).trans hd.symm, keeps State.pwr (fun _ _ _ => rfl) _, ?_⟩
  exact (keeps (fun t => t.image c.1.phys) (fun _ _ _ => rfl) _).trans (Map.get_set_same _ _ _ _)

theorem restore63_none {s : State} {xs : List Held} (hc : chosen xs 63 = none) :
    s.restore63 xs = { s.setImage 63 (Image.flat 0#18) with dev := {} } := by
  unfold State.restore63
  rw [hc]

/-- The regions of a wave, region 63 apart. -/
def State.restoreEach (s : State) (xs : List Held) (wave : List Nat) : State :=
  (wave.filter (fun r => decide (r ≠ 63))).foldl (fun (t : State) r => t.restoreRegion xs r) s

theorem restoreWave_eq (s : State) : s.restoreWave =
    (let t := (if s.pwr.wave1Done then s else (s.restore63 s.seals).mapApplies s.seals).restoreEach s.seals (s.pwr.restoreLeft.take 16)
     { t with pwr := { t.pwr with wave1Done := true, restoreLeft := s.pwr.restoreLeft.drop 16 } }) := rfl

theorem part63_restoreEach (s : State) (xs : List Held) (wave : List Nat) : (s.restoreEach xs wave).part63 = s.part63 :=
  foldl_keeps_mem State.part63 _ _ (fun t _ hr => part63_restoreRegion t xs (of_decide_eq_true (List.mem_filter.mp hr).2))

theorem restoreEach_keep (s : State) (xs : List Held) (wave : List Nat) : (s.restoreEach xs wave).keep = s.keep :=
  foldl_keeps State.keep (fun t r => restoreRegion_keep t xs r) _ _

/-- What wave 1 leaves of region 63 is what its restore took back. -/
theorem restoreWave_first {s u : State} (h : s.pwr.wave1Done = false) (hs : s.serving = false) (hu : u = s.restore63 s.seals) (hp : u.pwr = s.pwr) :
    s.restoreWave.dev.counters = u.dev.counters ∧ s.restoreWave.dev.log = u.dev.log ∧ s.restoreWave.image 63 = u.image 63 ∧
    ((chosen s.seals 63).isSome = true → s.restoreWave.keep.hot = u.dev.hot) := by
  have hserv : u.serving = false := by
    unfold State.serving at hs ⊢
    rw [hp]
    exact hs
  have hpart : ((u.mapApplies s.seals).restoreEach s.seals (s.pwr.restoreLeft.take 16)).part63 = u.part63 :=
    (part63_restoreEach _ _ _).trans (part63_mapApplies _ _ hserv)
  rw [restoreWave_eq, if_neg (by rw [h]; decide), ← hu]
  refine ⟨congrArg (fun v => v.1) hpart, congrArg (fun v => v.2.1) hpart, congrArg (fun v => v.2.2.2.1) hpart, fun hsome => ?_⟩
  exact (congrArg Keep.hot (restoreEach_keep _ _ _)).trans (mapApplies_hot _ hsome hserv)

/-- t is s but for tile cells, the power state and the registers of Return. -/
structure State.InWave (s t : State) : Prop where
  regs : ∀ a, a < 0x614 → t.reg a = s.reg a
  planes : t.planeA = s.planeA ∧ t.planeB = s.planeB
  dev : t.dev = s.dev

theorem State.InWave.map {s t : State} (h : s.InWave t) {r : Nat} (hr : r < 63) : t.rstate r = s.rstate r ∧ t.kept r = s.kept r ∧
    t.clearedWord r = s.clearedWord r ∧ ∀ b p, t.planeImage b p = s.planeImage b p := by
  have hget : ∀ f : Fld, f.addr < 0x614 → t.get f = s.get f := fun f hf => congrArg (fun w : Word => bits w.toNat f.hi f.lo) (h.regs _ hf)
  have hstate : t.rstate r = s.rstate r := hget _ (by show 0x440 + r < 0x614; omega)
  have hpart : t.partOf r = s.partOf r := by
    unfold State.partOf
    rw [hget (Reg.PART_REGION_PARTITION r) (by show 0x440 + r < 0x614; omega)]
  have hattr : ∀ p, t.partOf r = some p → t.persistent p = s.persistent p ∧ t.flag (Reg.PART_ATTR_VIEW p) = s.flag (Reg.PART_ATTR_VIEW p) := by
    intro p hp
    have hlt : p < 63 := by
      unfold State.partOf at hp
      dsimp only at hp
      split_ifs at hp with hc
      rw [← Option.some.inj hp]
      exact hc.1
    unfold State.persistent State.flag
    rw [hget (Reg.PART_ATTR_PERSIST p) (by show 0x480 + p < 0x614; omega), hget (Reg.PART_ATTR_VIEW p) (by show 0x480 + p < 0x614; omega)]
    exact ⟨rfl, rfl⟩
  refine ⟨hstate, ?_, ?_, fun b p => ?_⟩
  · unfold State.kept State.stored
    rw [hstate, hpart]
    cases hp : s.partOf r with
    | none => rfl
    | some p =>
      dsimp only
      rw [(hattr p (hpart.trans hp)).1]
  · unfold State.clearedWord
    rw [hstate, hpart]
    cases hp : s.partOf r with
    | none => rfl
    | some p =>
      dsimp only
      rw [(hattr p (hpart.trans hp)).2]
  · unfold State.planeImage
    rw [h.planes.1, h.planes.2]

/-- What a restored region shows and holds (R131, R136). -/
structure State.Restored (s : State) (r : Nat) (c : Held × Bool × Bool) (t : State) : Prop where
  image : t.image r = if s.kept r then s.planeImage c.1.planeB c.1.phys else Image.flat (s.clearedWord r)
  src : t.get (Reg.VOL_RSTAT_SRC r) = if c.1.planeB then 2 else 1
  rule : t.get (Reg.VOL_RSTAT_RULE r) = b2n c.2.1
  newer : t.get (Reg.VOL_RSTAT_NEWER r) = b2n c.2.2

/-- A restored region, before its count: its cells and its VOL_RSTAT. -/
def State.regionBack (s : State) (r : Nat) (c : Held × Bool × Bool) : State :=
  (s.setImage r (if s.kept r then s.planeImage c.1.planeB c.1.phys else Image.flat (s.clearedWord r))).rstatOf r c

theorem restoreRegion_some {s : State} {xs : List Held} {r : Nat} {c : Held × Bool × Bool} (hc : chosen xs r = some c)
    (hst : ¬(s.rstate r = RState.retired ∨ s.rstate r = RState.forward)) :
    s.restoreRegion xs r = if s.kept r then (s.regionBack r c).bump Reg.VOL_RETURN_RESTORED else s.regionBack r c := by
  unfold State.restoreRegion State.regionBack
  rw [hc]
  dsimp only
  rw [if_neg hst]
  split_ifs <;> rfl

theorem restoreRegion_idle {s : State} {xs : List Held} {r : Nat}
    (h : chosen xs r = none ∨ s.rstate r = RState.retired ∨ s.rstate r = RState.forward) : s.restoreRegion xs r = s := by
  unfold State.restoreRegion
  rcases h with h | h
  · rw [h]
  · split
    · rfl
    · rw [if_pos h]

theorem rstatOf_facts (s : State) (r : Nat) (c : Held × Bool × Bool) : (s.rstatOf r c).get (Reg.VOL_RSTAT_SRC r) = (if c.1.planeB then 2 else 1) ∧
    (s.rstatOf r c).get (Reg.VOL_RSTAT_RULE r) = b2n c.2.1 ∧ (s.rstatOf r c).get (Reg.VOL_RSTAT_NEWER r) = b2n c.2.2 ∧
    ∀ a, a ≠ 0x640 + r → (s.rstatOf r c).reg a = s.reg a := by
  unfold State.rstatOf State.putAll
  simp only [List.foldl_cons, List.foldl_nil]
  refine ⟨?_, ?_, ?_, fun a ha => ?_⟩
  · rw [State.get_put_apart _ _ (lt_rfl rfl) (.inr (lt_rfl rfl)), State.get_put_apart _ _ (lt_rfl rfl) (.inr (lt_rfl rfl))]
    exact State.get_put_same _ _ _ (lt_rfl rfl) (by show _ < 2 ^ 2; split <;> decide)
  · rw [State.get_put_apart _ _ (lt_rfl rfl) (.inr (lt_rfl rfl))]
    exact State.get_put_same _ _ _ (lt_rfl rfl) (b2n_lt _)
  · exact State.get_put_same _ _ _ (lt_rfl rfl) (b2n_lt _)
  · rw [State.reg_put_ne _ _ ha, State.reg_put_ne _ _ ha, State.reg_put_ne _ _ ha]

theorem bump_reg_ne (s : State) (f : Fld) {a : Nat} (h : a ≠ f.addr) : (s.bump f).reg a = s.reg a := by
  unfold State.bump
  split
  · exact State.reg_put_ne _ _ h
  · rfl

/-- What restoring a region leaves: every other cell, and every register but its VOL_RSTAT and the count. -/
theorem restoreRegion_frame (s : State) (xs : List Held) (r : Nat) : (∀ p, p ≠ r → (s.restoreRegion xs r).image p = s.image p) ∧
    (∀ a, a ≠ 0x640 + r → a ≠ 0x614 → (s.restoreRegion xs r).reg a = s.reg a) ∧ (s.restoreRegion xs r).dev = s.dev ∧
    (s.restoreRegion xs r).planeA = s.planeA ∧ (s.restoreRegion xs r).planeB = s.planeB := by
  by_cases hidle : chosen xs r = none ∨ s.rstate r = RState.retired ∨ s.rstate r = RState.forward
  · rw [restoreRegion_idle hidle]
    exact ⟨fun _ _ => rfl, fun _ _ _ => rfl, rfl, rfl, rfl⟩
  · obtain ⟨hc, hst⟩ := not_or.mp hidle
    obtain ⟨c, hc⟩ := Option.ne_none_iff_exists'.mp hc
    have himage : ∀ p, p ≠ r → (s.regionBack r c).image p = s.image p := fun p hp => Map.get_set_ne _ _ _ hp
    have hreg : ∀ a, a ≠ 0x640 + r → (s.regionBack r c).reg a = s.reg a := (rstatOf_facts _ r c).2.2.2
    have keeps := fun {β : Type} (p : State → β) (hp : ∀ t (f : Fld) v, p (State.put t f v) = p t) =>
      bump_keeps p hp (s.regionBack r c) Reg.VOL_RETURN_RESTORED
    rw [restoreRegion_some hc hst]
    split_ifs
    · exact ⟨fun p hp => (keeps (fun t => t.image p) (fun _ _ _ => rfl)).trans (himage p hp),
        fun a h1 h2 => (bump_reg_ne _ _ h2).trans (hreg a h1), keeps State.dev (fun _ _ _ => rfl), keeps State.planeA (fun _ _ _ => rfl),
        keeps State.planeB (fun _ _ _ => rfl)⟩
    · exact ⟨himage, fun a h1 _ => hreg a h1, rfl, rfl, rfl⟩

theorem State.InWave.restoreRegion {s t : State} (h : s.InWave t) (xs : List Held) (x : Nat) : s.InWave (t.restoreRegion xs x) := by
  obtain ⟨-, hreg, hdev, hA, hB⟩ := restoreRegion_frame t xs x
  exact ⟨fun a ha => (hreg a (by omega) (by omega)).trans (h.regs a ha), ⟨hA.trans h.planes.1, hB.trans h.planes.2⟩, hdev.trans h.dev⟩

/-- The region of a wave comes back from its plane, whatever came back before it. -/
theorem State.InWave.restored {s t : State} (h : s.InWave t) {xs : List Held} {r : Nat} {c : Held × Bool × Bool} (hr : r < 63)
    (hc : chosen xs r = some c) (hst : ¬(s.rstate r = RState.retired ∨ s.rstate r = RState.forward)) : s.Restored r c (t.restoreRegion xs r) := by
  obtain ⟨hstate, hkept, hword, hplane⟩ := h.map hr
  obtain ⟨hsrc, hrule, hnewer, -⟩ := rstatOf_facts
    (t.setImage r (if t.kept r then t.planeImage c.1.planeB c.1.phys else Image.flat (t.clearedWord r))) r c
  have himage : (t.regionBack r c).image r = if s.kept r then s.planeImage c.1.planeB c.1.phys else Image.flat (s.clearedWord r) := by
    rw [← hkept, ← hword, ← hplane]
    exact Map.get_set_same _ _ _ _
  have hback : s.Restored r c (t.regionBack r c) := ⟨himage, hsrc, hrule, hnewer⟩
  have hget : ∀ f : Fld, f.addr = 0x640 + r → ((t.regionBack r c).bump Reg.VOL_RETURN_RESTORED).get f = (t.regionBack r c).get f := fun f hf =>
    congrArg (fun w : Word => bits w.toNat f.hi f.lo) (bump_reg_ne _ _ (by show f.addr ≠ 0x614; omega))
  rw [restoreRegion_some hc (hstate ▸ hst)]
  split_ifs
  · exact ⟨(bump_keeps (fun u => u.image r) (fun _ _ _ => rfl) _ _).trans hback.image, (hget _ rfl).trans hback.src, (hget _ rfl).trans hback.rule,
      (hget _ rfl).trans hback.newer⟩
  · exact hback

/-- Another region of the wave leaves what came back. -/
theorem State.Restored.restoreRegion {s t : State} {r : Nat} {c : Held × Bool × Bool} (h : s.Restored r c t) (xs : List Held) {x : Nat} (hx : x ≠ r) :
    s.Restored r c (t.restoreRegion xs x) := by
  obtain ⟨himage, hreg, -⟩ := restoreRegion_frame t xs x
  have hget : ∀ f : Fld, f.addr = 0x640 + r → (t.restoreRegion xs x).get f = t.get f := fun f hf =>
    congrArg (fun w : Word => bits w.toNat f.hi f.lo) (hreg _ (by omega) (by omega))
  exact ⟨(himage r (Ne.symm hx)).trans h.image, (hget _ rfl).trans h.src, (hget _ rfl).trans h.rule, (hget _ rfl).trans h.newer⟩

theorem restoreEach_restored {s : State} {xs : List Held} {wave : List Nat} {r : Nat} {c : Held × Bool × Bool} (hr : r < 63) (hin : r ∈ wave)
    (hc : chosen xs r = some c) (hst : ¬(s.rstate r = RState.retired ∨ s.rstate r = RState.forward)) : s.Restored r c (s.restoreEach xs wave) := by
  have key := foldl_once (A := s.InWave) (B := fun t => s.InWave t ∧ s.Restored r c t) (fun (t : State) x => t.restoreRegion xs x) r
    (fun t x _ ht => ht.restoreRegion xs x) (fun t ht => ⟨ht.restoreRegion xs r, ht.restored hr hc hst⟩)
    (fun t x ht => ⟨ht.1.restoreRegion xs x, by
      by_cases hx : x = r
      · rw [hx]
        exact ht.1.restored hr hc hst
      · exact ht.2.restoreRegion xs hx⟩)
    (wave.filter (fun x => decide (x ≠ 63))) (List.mem_filter.mpr ⟨hin, decide_eq_true (by omega)⟩) s ⟨fun _ _ => rfl, ⟨rfl, rfl⟩, rfl⟩
  exact key.2

/-- A region outside the wave, and one that is RETIRED or FORWARD, keeps its cells. -/
theorem restoreEach_leaves {s : State} {xs : List Held} {wave : List Nat} {r : Nat} (hr : r < 63)
    (h : r ∉ wave ∨ s.rstate r = RState.retired ∨ s.rstate r = RState.forward) :
    (s.restoreEach xs wave).image r = s.image r ∧ (s.restoreEach xs wave).dev = s.dev := by
  have key := foldl_holds (fun t => s.InWave t ∧ t.image r = s.image r) (wave.filter (fun x => decide (x ≠ 63))) s
    (f := fun (t : State) x => t.restoreRegion xs x) (fun t x hx ht => ⟨ht.1.restoreRegion xs x, by
      by_cases hxr : x = r
      · have hst : s.rstate r = RState.retired ∨ s.rstate r = RState.forward :=
          h.resolve_left (fun hn => hn (hxr ▸ (List.mem_filter.mp hx).1))
        rw [hxr, restoreRegion_idle (.inr (by rw [(ht.1.map hr).1]; exact hst))]
        exact ht.2
      · exact ((restoreRegion_frame t xs x).1 r (Ne.symm hxr)).trans ht.2⟩) ⟨⟨fun _ _ => rfl, ⟨rfl, rfl⟩, rfl⟩, rfl⟩
  exact ⟨key.2, key.1.dev⟩

theorem exec_restoreWaveDone {s : State} (hst : s.pwr.st = .waking) (hread : s.pwr.sealsRead = true)
    (hleft : s.pwr.wave1Done = false ∨ s.pwr.restoreLeft ≠ []) : exec .restoreWaveDone s = .next s.restoreWave :=
  congrArg Host.Outcome.next (if_pos ⟨hst, hread, hleft.imp_left (by simp [·])⟩)

theorem serving_waking {s : State} (h : s.pwr.st = .waking) : s.serving = false := by
  unfold State.serving
  rw [h]
  rfl

/-- Settles O36: wave 1 by what its restore of region 63 took back, a later wave region by region. -/
theorem restoredContents : Obligations.RestoredContents := by
  refine ⟨?first, ?neverStored, ?later, ?left⟩
  case first =>
    intro s c d hst hread hw hc hd
    obtain ⟨hdev, hpwr, himage⟩ := restore63_some hc hd
    obtain ⟨hcounters, hlog, h63, hhot⟩ := restoreWave_first hw (serving_waking hst) rfl hpwr
    rw [hdev] at hcounters hlog hhot
    refine ⟨_, exec_restoreWaveDone hst hread (.inl hw), hcounters, hlog, hhot (by rw [hc]; rfl), fun hp => ?_⟩
    rw [hp] at himage
    exact h63.trans himage
  case neverStored =>
    intro s hst hread hw hc
    obtain ⟨hcounters, hlog, h63, -⟩ := restoreWave_first hw (serving_waking hst) (restore63_none hc).symm rfl
    exact ⟨_, exec_restoreWaveDone hst hread (.inl hw), hcounters, hlog,
      h63.trans (State.image_setImage_same s 63 (Image.flat 0#18))⟩
  case later =>
    intro s r c hst hread hw hr hin hc hret hfwd
    have h := restoreEach_restored hr hin hc (not_or.mpr ⟨hret, hfwd⟩)
    refine ⟨_, exec_restoreWaveDone hst hread (.inr (fun e => by rw [e] at hin; cases hin)), ?_⟩
    rw [restoreWave_eq, if_pos hw]
    exact ⟨h.image, h.src, h.rule, h.newer⟩
  case left =>
    intro s r hst hread hw hne hr h
    refine ⟨_, exec_restoreWaveDone hst hread (.inr hne), ?_⟩
    rw [restoreWave_eq, if_pos hw]
    exact restoreEach_leaves hr h

end Sys2Proof.Machine

namespace Sys2Proof.Machine
open Sys2Proof

/-! Doorbell polls, and host data that arrives or fails (R174, R175, R189): O9 -/

/-- What a host port holds of its rings and its polls: messages and recorded errors leave it as it is. -/
def HostPort.polled (p : HostPort) : Map Nat × Map Nat × Nat × Bool := (p.heads, p.tails, p.polls, p.failing)

def State.polled (s : State) (h : PHost) : Map Nat × Map Nat × Nat × Bool := (s.host h).polled

theorem polled_setHost (s : State) (h g : PHost) (p : HostPort) (hp : p.polled = s.polled h) : (s.setHost h p).polled g = s.polled g := by
  unfold State.polled
  by_cases e : g = h
  · subst e
    rw [State.host_setHost_same]
    exact hp
  · rw [State.host_setHost_ne _ _ e]

theorem polled_emit (s : State) (o : Out) (g : PHost) : (s.emit o).polled g = s.polled g := rfl

theorem polled_put (s : State) (f : Fld) (v : Nat) (g : PHost) : (s.put f v).polled g = s.polled g := rfl

theorem msix_polled (s : State) (h : PHost) (v : Nat) (g : PHost) : (s.msix h v).polled g = s.polled g := by
  unfold State.msix
  dsimp only
  split_ifs
  · exact polled_setHost _ _ _ _ rfl
  · exact polled_setHost _ _ _ _ rfl
  · exact polled_setHost _ _ _ _ rfl
  · exact (polled_emit _ _ _).trans (polled_setHost _ _ _ _ rfl)
  · rfl

theorem notify_polled (s : State) (c : IClass) (h g : PHost) : (s.notify c h).polled g = s.polled g := by
  unfold State.notify
  dsimp only
  split_ifs
  · exact (polled_emit _ _ _).trans (polled_setHost _ _ _ _ rfl)
  · rfl
  · exact msix_polled _ _ _ _
  · rfl

theorem event_polled (s : State) (ev : Fld) (a : Nat) (c : IClass) (hs : List PHost) (g : PHost) : (s.event ev a c hs).polled g = s.polled g := by
  unfold State.event
  dsimp only
  split_ifs
  · rfl
  · exact (foldl_keeps (fun (t : State) => t.polled g) (fun t h => notify_polled t c h g) _ _).trans rfl
  · rfl

theorem ringErr_polled (s : State) (h : PHost) (code : Nat) (cq : Bool) (j : Nat) (ev : Nat → Fld) (g : PHost) :
    (s.ringErr h code cq j ev).polled g = s.polled g := event_polled _ _ _ _ _ _

/-! What a function records of a failed read (R161, R167) -/

theorem HostPort.logHeader_polled (p : HostPort) (hd : BitVec 128) : (p.logHeader hd).polled = p.polled :=
  foldl_keeps_mem HostPort.polled _ _ (fun _ _ _ => rfl)

@[simp] theorem HostPort.cfgOr_polled (p : HostPort) (d : Nat) (v : BitVec 32) : (p.cfgOr d v).polled = p.polled := rfl

theorem HostPort.headers_polled (p : HostPort) (n : Nat) : ({ p with headers := n } : HostPort).polled = p.polled := rfl

theorem HostPort.takeHeader_polled (p : HostPort) (h : PHost) : (p.takeHeader h).polled = p.polled :=
  (HostPort.headers_polled _ _).trans (HostPort.logHeader_polled p _)

@[simp] theorem HostPort.uncError_polled (p : HostPort) (b : Nat) : (p.uncError b).polled = p.polled := by
  unfold HostPort.uncError
  dsimp only
  split <;> rfl

theorem HostPort.error_polled (p : HostPort) (e : TlpError) (advisory : Bool) : (p.error e advisory).1.polled = p.polled := by
  unfold HostPort.error
  dsimp only
  split_ifs <;> simp

/-- What a failed read leaves as it was. -/
structure Unread (s t : State) : Prop where
  regs : t.regs = s.regs
  rest : t.rest = s.rest
  flights : t.flights = s.flights
  polled : ∀ g, t.polled g = s.polled g

theorem Unread.rfl' (s : State) : Unread s s := ⟨rfl, rfl, rfl, fun _ => rfl⟩

theorem Unread.trans' {s t u : State} (a : Unread s t) (b : Unread t u) : Unread s u :=
  ⟨b.regs.trans a.regs, b.rest.trans a.rest, b.flights.trans a.flights, fun g => (b.polled g).trans (a.polled g)⟩

theorem Unread.setHost (s : State) (h : PHost) (p : HostPort) (hp : p.polled = s.polled h) : Unread s (s.setHost h p) :=
  ⟨rfl, rfl, rfl, fun _ => polled_setHost _ _ _ _ hp⟩

theorem Unread.emit (s : State) (o : Out) : Unread s (s.emit o) := ⟨rfl, rfl, rfl, fun _ => rfl⟩

theorem Unread.reportError (s : State) (h : PHost) (e : TlpError) (advisory : Bool) : Unread s (s.reportError h e advisory) := by
  have hlog : ((if (s.host h).logsHeader e advisory then (s.host h).takeHeader h else s.host h).error e advisory).1.polled = s.polled h := by
    rw [HostPort.error_polled]
    split
    · exact HostPort.takeHeader_polled _ _
    · rfl
  unfold State.reportError
  dsimp only
  split
  · split
    · split
      · exact Unread.setHost _ _ _ hlog
      · refine Unread.trans' ?_ (Unread.emit _ _)
        exact Unread.setHost _ _ _ hlog
    · exact Unread.setHost _ _ _ hlog
  · exact Unread.rfl' s

theorem Unread.readFailed (s : State) (h : PHost) (why : ReadFail) : Unread s (s.readFailed h why) := by
  cases why with
  | unsupported => exact Unread.setHost _ _ _ rfl
  | completerAbort => exact Unread.setHost _ _ _ rfl
  | poisoned => exact Unread.reportError _ _ _ _
  | timeout => exact Unread.reportError _ _ _ _
  | lost => exact (Unread.reportError _ _ _ _).trans' (Unread.reportError _ _ _ _)

theorem Unread.dataFailed (s : State) (h : PHost) (d : HostData) : Unread s (s.dataFailed h d) := by
  unfold State.dataFailed
  split_ifs
  · exact Unread.readFailed _ _ _
  · exact Unread.readFailed _ _ _
  · exact Unread.readFailed _ _ _
  · exact Unread.rfl' s

end Sys2Proof.Machine

namespace Sys2Proof.Machine
open Sys2Proof

/-! One ring's registers and its polled pointer -/

def State.cqView (s : State) (h : PHost) (q : Ring) : Word × Word × Nat :=
  (s.reg (Reg.HOST_CQ_CFG h.val q.val).addr, s.reg (Reg.HOST_CQ_STAT h.val q.val).addr, s.cqHead h q)

def State.sqView (s : State) (h : PHost) (j : Ring) : Word × Word × Nat :=
  (s.reg (Reg.HOST_SQ_CFG h.val j.val).addr, s.reg (Reg.HOST_SQ_STAT h.val j.val).addr, s.sqTail h j.val)

theorem cqActive_of_cqView {s t : State} {h : PHost} {q : Ring} (hv : t.cqView h q = s.cqView h q) :
    t.cqActive h.val q.val = s.cqActive h.val q.val := by
  simp only [State.cqView, Prod.mk.injEq] at hv
  obtain ⟨hcfg, hstat, -⟩ := hv
  exact congrArg₂ (fun c v : Word => decide (bits c.toNat 17 17 ≠ 0) && !decide (bits v.toNat 16 16 ≠ 0)) hcfg hstat

theorem goodHead_of_cqView {s t : State} {h : PHost} {q : Ring} {w : Nat} (hv : t.cqView h q = s.cqView h q) (hg : s.goodHead h q w) :
    t.goodHead h q w := by
  simp only [State.cqView, Prod.mk.injEq] at hv
  obtain ⟨hcfg, hstat, hhead⟩ := hv
  have hsize : t.cqSize h.val q.val = s.cqSize h.val q.val := congrArg (fun r : Word => ringEntries (bits r.toNat 15 12)) hcfg
  have htail : t.cqTail h.val q.val = s.cqTail h.val q.val := congrArg (fun r : Word => bits r.toNat 15 0) hstat
  unfold State.goodHead at hg ⊢
  rwa [hsize, htail, hhead]

theorem sqState_of_sqView {s t : State} {h : PHost} {j : Ring} (hv : t.sqView h j = s.sqView h j) :
    t.sqState h.val j.val = s.sqState h.val j.val :=
  congrArg (fun v : Word × Word × Nat => bits v.2.1.toNat 17 16) hv

theorem sqSize_of_sqView {s t : State} {h : PHost} {j : Ring} (hv : t.sqView h j = s.sqView h j) :
    t.sqSize h.val j.val = s.sqSize h.val j.val := by
  simp only [State.sqView, Prod.mk.injEq] at hv
  exact congrArg (fun r : Word => ringEntries (bits r.toNat 16 13)) hv.1

theorem forwardTail_of_sqView {s t : State} {h : PHost} {j : Ring} {w : Nat} (hv : t.sqView h j = s.sqView h j) :
    t.forwardTail h j w ↔ s.forwardTail h j w := by
  have hsize := sqSize_of_sqView hv
  have hhead : t.sqHead h.val j.val = s.sqHead h.val j.val := congrArg (fun v : Word × Word × Nat => bits v.2.1.toNat 15 0) hv
  have htail : t.sqTail h j.val = s.sqTail h j.val := congrArg (fun v : Word × Word × Nat => v.2.2) hv
  unfold State.forwardTail
  rw [hsize, hhead, htail]

theorem cqView_of {s t : State} {h : PHost} {q : Ring} (hr : t.regs = s.regs) (hh : t.cqHead h q = s.cqHead h q) : t.cqView h q = s.cqView h q := by
  unfold State.cqView State.reg
  rw [hr, hh]

theorem sqView_of {s t : State} {h : PHost} {j : Ring} (hr : t.regs = s.regs) (hh : t.sqTail h j.val = s.sqTail h j.val) :
    t.sqView h j = s.sqView h j := by
  unfold State.sqView State.reg
  rw [hr, hh]

theorem cqHead_of_polled {s t : State} {h : PHost} (hp : t.polled h = s.polled h) (q : Ring) : t.cqHead h q = s.cqHead h q :=
  congrArg (fun v : Map Nat × Map Nat × Nat × Bool => Map.get (fun _ => 0) v.1 q.val) hp

theorem sqTail_of_polled {s t : State} {h : PHost} (hp : t.polled h = s.polled h) (j : Nat) : t.sqTail h j = s.sqTail h j :=
  congrArg (fun v : Map Nat × Map Nat × Nat × Bool => Map.get (fun _ => 0) v.2.1 j) hp

theorem polls_of_polled {s t : State} {h : PHost} (hp : t.polled h = s.polled h) : (t.host h).polls = (s.host h).polls :=
  congrArg (fun v : Map Nat × Map Nat × Nat × Bool => v.2.2.1) hp

theorem failing_of_polled {s t : State} {h : PHost} (hp : t.polled h = s.polled h) : (t.host h).failing = (s.host h).failing :=
  congrArg (fun v : Map Nat × Map Nat × Nat × Bool => v.2.2.2) hp

/-! A stopped ring -/

theorem stopCq_polled (s : State) (h : PHost) (q : Nat) : (s.stopCq h q).polled h = s.polled h := ringErr_polled _ _ _ _ _ _ _

theorem stopSq_polled (s : State) (h : PHost) (j code : Nat) : (s.stopSq h j code).polled h = s.polled h := ringErr_polled _ _ _ _ _ _ _

theorem stopCq_reg_ne (s : State) (h : PHost) (q : Ring) {a : Nat} (hlo : 0x720 ≤ a) (ha : a ≠ (Reg.HOST_CQ_STAT h.val q.val).addr) :
    (s.stopCq h q.val).reg a = s.reg a :=
  (ringErr_reg _ _ _ _ _ _ rfl _ (by omega) (by omega)).trans (State.reg_put_ne _ _ ha)

theorem stopSq_reg_ne (s : State) (h : PHost) (j : Ring) (code : Nat) {a : Nat} (hlo : 0x720 ≤ a) (ha : a ≠ (Reg.HOST_SQ_STAT h.val j.val).addr) :
    (s.stopSq h j.val code).reg a = s.reg a :=
  (ringErr_reg _ _ _ _ _ _ rfl _ (by omega) (by omega)).trans (State.reg_put_ne _ _ ha)

theorem cqCfg_addr (h : PHost) (q : Ring) : (Reg.HOST_CQ_CFG h.val q.val).addr = 0x73C + 0x38 * h.val + q.val := rfl
theorem cqStat_addr (h : PHost) (q : Ring) : (Reg.HOST_CQ_STAT h.val q.val).addr = 0x744 + 0x38 * h.val + q.val := rfl
theorem sqCfg_addr (h : PHost) (j : Ring) : (Reg.HOST_SQ_CFG h.val j.val).addr = 0x738 + 0x38 * h.val + j.val := rfl
theorem sqStat_addr (h : PHost) (j : Ring) : (Reg.HOST_SQ_STAT h.val j.val).addr = 0x740 + 0x38 * h.val + j.val := rfl

theorem stopCq_cqView_ne (s : State) (h : PHost) {q k : Ring} (hk : k ≠ q) : (s.stopCq h q.val).cqView h k = s.cqView h k := by
  have hv : k.val ≠ q.val := fun e => hk (Fin.ext e)
  unfold State.cqView
  rw [stopCq_reg_ne s h q (by rw [cqCfg_addr]; omega) (by rw [cqCfg_addr, cqStat_addr]; omega),
    stopCq_reg_ne s h q (by rw [cqStat_addr]; omega) (by rw [cqStat_addr, cqStat_addr]; omega), cqHead_of_polled (stopCq_polled s h q.val)]

theorem stopCq_sqView (s : State) (h : PHost) (q j : Ring) : (s.stopCq h q.val).sqView h j = s.sqView h j := by
  unfold State.sqView
  rw [stopCq_reg_ne s h q (by rw [sqCfg_addr]; omega) (by rw [sqCfg_addr, cqStat_addr]; omega),
    stopCq_reg_ne s h q (by rw [sqStat_addr]; omega) (by rw [sqStat_addr, cqStat_addr]; omega), sqTail_of_polled (stopCq_polled s h q.val)]

theorem stopSq_sqView_ne (s : State) (h : PHost) {j k : Ring} (code : Nat) (hk : k ≠ j) : (s.stopSq h j.val code).sqView h k = s.sqView h k := by
  have hv : k.val ≠ j.val := fun e => hk (Fin.ext e)
  unfold State.sqView
  rw [stopSq_reg_ne s h j code (by rw [sqCfg_addr]; omega) (by rw [sqCfg_addr, sqStat_addr]; omega),
    stopSq_reg_ne s h j code (by rw [sqStat_addr]; omega) (by rw [sqStat_addr, sqStat_addr]; omega), sqTail_of_polled (stopSq_polled s h j.val code)]

/-- What a stopped CQ shows (R174, R191). -/
theorem stopCq_facts (s : State) (h : PHost) (q : Ring) :
    (s.stopCq h q.val).get (Reg.HOST_CQ_STAT_STOPPED h.val q.val) = 1 ∧ (s.stopCq h q.val).get (Reg.HOST_ERR_CODE h.val) = 3 ∧
    (s.stopCq h q.val).get (Reg.HOST_ERR_CQ h.val) = 1 ∧ (s.stopCq h q.val).get (Reg.HOST_ERR_RING h.val) = q.val ∧
    (s.stopCq h q.val).get (Reg.HOST_EVENT_CQ_STOP h.val) = 1 := by
  obtain ⟨hcode, hcq, hring, hev, -, hrest⟩ := ringErr_facts (s.put (Reg.HOST_CQ_STAT_STOPPED h.val q.val) 1) h errHeadRange true q.val
    Reg.HOST_EVENT_CQ_STOP rfl ⟨lt_rfl rfl, rfl⟩ (by decide) q.isLt
  have hstat : (Reg.HOST_CQ_STAT_STOPPED h.val q.val).addr = 0x744 + 0x38 * h.val + q.val := rfl
  exact ⟨(hrest _ (by rw [hstat]; omega) (by rw [hstat]; omega)).trans
    (State.get_put_same _ _ _ (lt_rfl rfl) (lt_rfl rfl)), hcode, hcq, hring, hev⟩

/-! One head or tail of poll data (R174) -/

theorem pollHead_good {s : State} {h : PHost} {q : Ring} {w : Nat} (ha : s.cqActive h.val q.val = true) (hg : s.goodHead h q w) :
    s.pollHead h q.val w = s.setHost h { s.host h with heads := Map.set (fun _ => 0) (s.host h).heads q.val w } := by
  obtain ⟨hw, hm⟩ := hg
  unfold State.cqHead at hm
  unfold State.pollHead
  rw [if_pos ha]
  dsimp only
  rw [if_neg (by omega)]

theorem pollHead_bad {s : State} {h : PHost} {q : Ring} {w : Nat} (ha : s.cqActive h.val q.val = true) (hg : ¬s.goodHead h q w) :
    s.pollHead h q.val w = s.stopCq h q.val := by
  unfold State.goodHead State.cqHead at hg
  unfold State.pollHead
  rw [if_pos ha]
  dsimp only
  rw [if_pos (by omega)]

/-- The CODE of a tail that is not valid. -/
def State.tailCode (s : State) (h : PHost) (j : Ring) (w : Nat) : Nat := if w < s.sqSize h.val j.val then errTailBack else errTailRange

theorem pollTail_bad {s : State} {h : PHost} {j : Ring} {w : Nat} (ha : s.sqState h.val j.val = sqActive)
    (hg : ¬(w < s.sqSize h.val j.val ∧ s.forwardTail h j w)) : s.pollTail h j.val w = s.stopSq h j.val (s.tailCode h j w) := by
  unfold State.forwardTail State.sqTail at hg
  unfold State.pollTail State.tailCode
  rw [if_pos ha]
  dsimp only
  by_cases hw : w < s.sqSize h.val j.val
  · rw [if_neg (by omega), if_pos (by omega), if_pos hw]
  · rw [if_pos (by omega), if_neg hw]

/-- What poll data makes of a head: the ring stops, or the head moves, or nothing. -/
theorem pollHead_cases (s : State) (h : PHost) (q : Ring) (w : Nat) :
    s.pollHead h q.val w = s ∨ s.pollHead h q.val w = s.stopCq h q.val ∨
      s.pollHead h q.val w = s.setHost h { s.host h with heads := Map.set (fun _ => 0) (s.host h).heads q.val w } := by
  cases ha : s.cqActive h.val q.val with
  | false => exact .inl (pollHead_off s h _ w ha)
  | true =>
    by_cases hg : s.goodHead h q w
    · exact .inr (.inr (pollHead_good ha hg))
    · exact .inr (.inl (pollHead_bad ha hg))

theorem pollTail_good {s : State} {h : PHost} {j : Ring} {w : Nat} (ha : s.sqState h.val j.val = sqActive) (hw : w < s.sqSize h.val j.val)
    (hf : s.forwardTail h j w) : ∃ n, s.pollTail h j.val w =
      s.setHost h { s.host h with period := n, tails := Map.set (fun _ => 0) (s.host h).tails j.val w } := by
  unfold State.forwardTail State.sqTail at hf
  unfold State.pollTail
  rw [if_pos ha]
  dsimp only
  rw [if_neg (by omega), if_neg (by omega)]
  split
  · exact ⟨(s.host h).period, rfl⟩
  · exact ⟨250, rfl⟩

/-- What poll data makes of a tail: the ring stops, or the tail moves, or nothing. -/
theorem pollTail_cases (s : State) (h : PHost) (j : Ring) (w : Nat) :
    s.pollTail h j.val w = s ∨ s.pollTail h j.val w = s.stopSq h j.val (s.tailCode h j w) ∨
      ∃ n, s.pollTail h j.val w = s.setHost h { s.host h with period := n, tails := Map.set (fun _ => 0) (s.host h).tails j.val w } := by
  by_cases ha : s.sqState h.val j.val = sqActive
  · by_cases hg : w < s.sqSize h.val j.val ∧ s.forwardTail h j w
    · exact .inr (.inr (pollTail_good ha hg.1 hg.2))
    · exact .inr (.inl (pollTail_bad ha hg))
  · exact .inl (pollTail_off s h _ w ha)

theorem pollHead_cqView_ne (s : State) (h : PHost) {q k : Ring} (w : Nat) (hk : k ≠ q) : (s.pollHead h q.val w).cqView h k = s.cqView h k := by
  rcases pollHead_cases s h q w with e | e | e
  · rw [e]
  · rw [e, stopCq_cqView_ne s h hk]
  · rw [e]
    refine cqView_of rfl ?_
    unfold State.cqHead
    rw [State.host_setHost_same]
    exact Map.get_set_ne _ _ _ (fun hv => hk (Fin.ext hv))

theorem pollHead_sqView (s : State) (h : PHost) (q : Ring) (w : Nat) (j : Ring) : (s.pollHead h q.val w).sqView h j = s.sqView h j := by
  rcases pollHead_cases s h q w with e | e | e
  · rw [e]
  · rw [e, stopCq_sqView]
  · rw [e]
    refine sqView_of rfl ?_
    unfold State.sqTail
    rw [State.host_setHost_same]

theorem pollHead_polls (s : State) (h : PHost) (q : Ring) (w : Nat) : ((s.pollHead h q.val w).host h).polls = (s.host h).polls := by
  rcases pollHead_cases s h q w with e | e | e
  · rw [e]
  · rw [e, polls_of_polled (stopCq_polled s h q.val)]
  · rw [e, State.host_setHost_same]

theorem pollTail_sqView_ne (s : State) (h : PHost) {j k : Ring} (w : Nat) (hk : k ≠ j) : (s.pollTail h j.val w).sqView h k = s.sqView h k := by
  rcases pollTail_cases s h j w with e | e | ⟨n, e⟩
  · rw [e]
  · rw [e, stopSq_sqView_ne s h _ hk]
  · rw [e]
    refine sqView_of rfl ?_
    unfold State.sqTail
    rw [State.host_setHost_same]
    exact Map.get_set_ne _ _ _ (fun hv => hk (Fin.ext hv))

theorem pollTail_heads (s : State) (h : PHost) (j : Ring) (w : Nat) : ((s.pollTail h j.val w).host h).heads = (s.host h).heads := by
  rcases pollTail_cases s h j w with e | e | ⟨n, e⟩
  · rw [e]
  · rw [e]
    exact congrArg Prod.fst (stopSq_polled s h j.val _)
  · rw [e, State.host_setHost_same]

theorem pollTail_polls (s : State) (h : PHost) (j : Ring) (w : Nat) : ((s.pollTail h j.val w).host h).polls = (s.host h).polls := by
  rcases pollTail_cases s h j w with e | e | ⟨n, e⟩
  · rw [e]
  · rw [e, polls_of_polled (stopSq_polled s h j.val _)]
  · rw [e, State.host_setHost_same]

end Sys2Proof.Machine

namespace Sys2Proof.Machine
open Sys2Proof

/-! All the heads and tails of a poll's data -/

def allRings : List Ring := [0, 1, 2, 3]

theorem mem_allRings : ∀ q : Ring, q ∈ allRings := by decide

theorem allRings_nodup : allRings.Nodup := by decide

def State.pollHeads (s : State) (h : PHost) (b : BitVec 512) (qs : List Ring) : State :=
  qs.foldl (fun (t : State) q => t.pollHead h q.val (dbWord b (4 + q.val))) s

def State.pollTails (s : State) (h : PHost) (b : BitVec 512) (js : List Ring) : State :=
  js.foldl (fun (t : State) j => t.pollTail h j.val (dbWord b j.val)) s

/-- The fast mode, and the poll that is no longer outstanding. -/
def State.pollEnds (s : State) (h : PHost) (b : BitVec 512) : State :=
  s.setHost h { s.host h with fast := bit (dbWord b 8) 0, failing := false,
                              period := if bit (dbWord b 8) 0 then 250 else (s.host h).period, polls := (s.host h).polls - 1 }

/-- The state before the fetches that poll data allows. -/
def State.polledRings (s : State) (h : PHost) (b : BitVec 512) : State := ((s.pollHeads h b allRings).pollTails h b allRings).pollEnds h b

theorem exec_pollData {s : State} {h : PHost} (b : BitVec 512) (hl : s.linkOpen h = true) (hp : 0 < (s.host h).polls) :
    exec (.pollDataArrival h b) s = .next ((s.polledRings h b).issueFetches h) := by
  show execPollDataArrival h b s = _
  unfold execPollDataArrival
  rw [if_pos ⟨hl, hp⟩]
  rfl

theorem pollHeads_cqView (s : State) (h : PHost) (b : BitVec 512) {qs : List Ring} {k : Ring} (hk : k ∉ qs) :
    (s.pollHeads h b qs).cqView h k = s.cqView h k :=
  foldl_keeps_mem (fun (t : State) => t.cqView h k) _ _ (fun t _ hq => pollHead_cqView_ne t h _ (fun e => hk (e ▸ hq)))

theorem pollHeads_sqView (s : State) (h : PHost) (b : BitVec 512) (qs : List Ring) (j : Ring) : (s.pollHeads h b qs).sqView h j = s.sqView h j :=
  foldl_keeps (fun (t : State) => t.sqView h j) (fun t _ => pollHead_sqView t h _ _ j) _ _

theorem pollHeads_polls (s : State) (h : PHost) (b : BitVec 512) (qs : List Ring) : ((s.pollHeads h b qs).host h).polls = (s.host h).polls :=
  foldl_keeps (fun (t : State) => (t.host h).polls) (fun t _ => pollHead_polls t h _ _) _ _

theorem pollTails_sqView (s : State) (h : PHost) (b : BitVec 512) {js : List Ring} {k : Ring} (hk : k ∉ js) :
    (s.pollTails h b js).sqView h k = s.sqView h k :=
  foldl_keeps_mem (fun (t : State) => t.sqView h k) _ _ (fun t _ hj => pollTail_sqView_ne t h _ (fun e => hk (e ▸ hj)))

theorem pollTails_heads (s : State) (h : PHost) (b : BitVec 512) (js : List Ring) : ((s.pollTails h b js).host h).heads = (s.host h).heads :=
  foldl_keeps (fun (t : State) => (t.host h).heads) (fun t _ => pollTail_heads t h _ _) _ _

theorem pollTails_polls (s : State) (h : PHost) (b : BitVec 512) (js : List Ring) : ((s.pollTails h b js).host h).polls = (s.host h).polls :=
  foldl_keeps (fun (t : State) => (t.host h).polls) (fun t _ => pollTail_polls t h _ _) _ _

theorem pollHead_taken {s : State} {h : PHost} {q : Ring} {w : Nat} (hg : s.cqActive h.val q.val = true → s.goodHead h q w) :
    (s.pollHead h q.val w).regs = s.regs ∧ (s.pollHead h q.val w).cqHead h q = if s.cqActive h.val q.val then w else s.cqHead h q := by
  cases ha : s.cqActive h.val q.val with
  | false =>
    rw [pollHead_off s h _ w ha]
    exact ⟨rfl, rfl⟩
  | true =>
    rw [pollHead_good ha (hg ha)]
    refine ⟨rfl, ?_⟩
    unfold State.cqHead
    rw [State.host_setHost_same]
    exact Map.get_set_same _ _ _ _

theorem pollTail_taken {s : State} {h : PHost} {j : Ring} {w : Nat}
    (hg : s.sqState h.val j.val = sqActive → w < s.sqSize h.val j.val ∧ s.forwardTail h j w) :
    (s.pollTail h j.val w).regs = s.regs ∧ (s.pollTail h j.val w).sqTail h j.val = if s.sqState h.val j.val = sqActive then w else s.sqTail h j.val := by
  by_cases ha : s.sqState h.val j.val = sqActive
  · obtain ⟨n, e⟩ := pollTail_good ha (hg ha).1 (hg ha).2
    rw [e, if_pos ha]
    refine ⟨rfl, ?_⟩
    unfold State.sqTail
    rw [State.host_setHost_same]
    exact Map.get_set_same _ _ _ _
  · rw [pollTail_off s h _ w ha, if_neg ha]
    exact ⟨rfl, rfl⟩

theorem cqHead_of_cqView {s t : State} {h : PHost} {q : Ring} (hv : t.cqView h q = s.cqView h q) : t.cqHead h q = s.cqHead h q :=
  congrArg (fun v : Word × Word × Nat => v.2.2) hv

theorem sqTail_of_sqView {s t : State} {h : PHost} {j : Ring} (hv : t.sqView h j = s.sqView h j) : t.sqTail h j.val = s.sqTail h j.val :=
  congrArg (fun v : Word × Word × Nat => v.2.2) hv

/-- Valid heads are all taken, and no register changes (R174). -/
theorem pollHeads_taken (h : PHost) (b : BitVec 512) : ∀ (qs : List Ring) (s : State), qs.Nodup →
    (∀ q, q ∈ qs → s.cqActive h.val q.val = true → s.goodHead h q (dbWord b (4 + q.val))) →
    (s.pollHeads h b qs).regs = s.regs ∧
      ∀ q, q ∈ qs → (s.pollHeads h b qs).cqHead h q = if s.cqActive h.val q.val then dbWord b (4 + q.val) else s.cqHead h q := by
  intro qs
  induction qs with
  | nil => exact fun s _ _ => ⟨rfl, fun q hq => absurd hq List.not_mem_nil⟩
  | cons x xs ih =>
    intro s hn hg
    obtain ⟨hx, hn⟩ := List.nodup_cons.mp hn
    have view : ∀ k, k ∈ xs → (s.pollHead h x.val (dbWord b (4 + x.val))).cqView h k = s.cqView h k :=
      fun k hk => pollHead_cqView_ne s h _ (fun e => hx (e ▸ hk))
    obtain ⟨hr, hx0⟩ := pollHead_taken (hg x List.mem_cons_self)
    obtain ⟨hrs, hxs⟩ := ih (s.pollHead h x.val (dbWord b (4 + x.val))) hn fun k hk ha =>
      goodHead_of_cqView (view k hk) (hg k (List.mem_cons_of_mem _ hk) (cqActive_of_cqView (view k hk) ▸ ha))
    refine ⟨hrs.trans hr, fun q hq => ?_⟩
    rcases List.mem_cons.mp hq with e | hq
    · subst e
      exact (cqHead_of_cqView (pollHeads_cqView _ h b hx)).trans hx0
    · refine (hxs q hq).trans ?_
      rw [cqActive_of_cqView (view q hq), cqHead_of_cqView (view q hq)]

/-- Valid tails are all taken, and no register changes (R174). -/
theorem pollTails_taken (h : PHost) (b : BitVec 512) : ∀ (js : List Ring) (s : State), js.Nodup →
    (∀ j, j ∈ js → s.sqState h.val j.val = sqActive → dbWord b j.val < s.sqSize h.val j.val ∧ s.forwardTail h j (dbWord b j.val)) →
    (s.pollTails h b js).regs = s.regs ∧
      ∀ j, j ∈ js → (s.pollTails h b js).sqTail h j.val = if s.sqState h.val j.val = sqActive then dbWord b j.val else s.sqTail h j.val := by
  intro js
  induction js with
  | nil => exact fun s _ _ => ⟨rfl, fun j hj => absurd hj List.not_mem_nil⟩
  | cons x xs ih =>
    intro s hn hg
    obtain ⟨hx, hn⟩ := List.nodup_cons.mp hn
    have view : ∀ k, k ∈ xs → (s.pollTail h x.val (dbWord b x.val)).sqView h k = s.sqView h k :=
      fun k hk => pollTail_sqView_ne s h _ (fun e => hx (e ▸ hk))
    obtain ⟨hr, hx0⟩ := pollTail_taken (hg x List.mem_cons_self)
    obtain ⟨hrs, hxs⟩ := ih (s.pollTail h x.val (dbWord b x.val)) hn fun k hk ha => by
      rw [sqSize_of_sqView (view k hk), forwardTail_of_sqView (view k hk)]
      exact hg k (List.mem_cons_of_mem _ hk) (sqState_of_sqView (view k hk) ▸ ha)
    refine ⟨hrs.trans hr, fun j hj => ?_⟩
    rcases List.mem_cons.mp hj with e | hj
    · subst e
      exact (sqTail_of_sqView (pollTails_sqView _ h b hx)).trans hx0
    · refine (hxs j hj).trans ?_
      rw [sqState_of_sqView (view j hj), sqTail_of_sqView (view j hj)]

/-- An invalid head stops its CQ beside valid ones, and is not taken (R174). -/
theorem pollHeads_stop {h : PHost} {b : BitVec 512} {q : Ring} {s : State} (ha : s.cqActive h.val q.val = true)
    (hbad : ¬s.goodHead h q (dbWord b (4 + q.val))) (hg : s.goodHeads h b (fun p => p = q)) :
    ∃ t : State, (s.pollHeads h b allRings).regs = (t.stopCq h q.val).regs ∧ (s.pollHeads h b allRings).cqHead h q = s.cqHead h q := by
  obtain ⟨l, r, e⟩ := List.append_of_mem (mem_allRings q)
  have hn := e ▸ allRings_nodup
  obtain ⟨hl, hr, hlr⟩ := List.nodup_append.mp hn
  obtain ⟨hqr, hr⟩ := List.nodup_cons.mp hr
  have hql : q ∉ l := fun hq => hlr q hq q List.mem_cons_self rfl
  have before : (s.pollHeads h b l).cqView h q = s.cqView h q := pollHeads_cqView s h b hql
  have stop : (s.pollHeads h b l).pollHead h q.val (dbWord b (4 + q.val)) = (s.pollHeads h b l).stopCq h q.val :=
    pollHead_bad ((cqActive_of_cqView before).trans ha) (fun h => hbad (goodHead_of_cqView before.symm h))
  have split : s.pollHeads h b allRings = ((s.pollHeads h b l).stopCq h q.val).pollHeads h b r := by
    rw [← stop, e]
    exact List.foldl_append
  have later : ∀ k, k ∈ r → ((s.pollHeads h b l).stopCq h q.val).cqView h k = s.cqView h k := fun k hk =>
    (stopCq_cqView_ne _ h (fun e : k = q => hqr (e ▸ hk))).trans
      (pollHeads_cqView s h b (fun hkl => hlr k hkl k (List.mem_cons_of_mem _ hk) rfl))
  refine ⟨s.pollHeads h b l, ?_, ?_⟩
  · rw [split]
    exact (pollHeads_taken h b r _ hr fun k hk hka => goodHead_of_cqView (later k hk)
      (hg k (cqActive_of_cqView (later k hk) ▸ hka) (fun e : k = q => hqr (e ▸ hk)))).1
  · rw [split, cqHead_of_cqView (pollHeads_cqView _ h b hqr), cqHead_of_polled (stopCq_polled _ h q.val), cqHead_of_cqView before]

/-- An invalid tail stops its SQ beside valid ones, and is not taken (R174). -/
theorem pollTails_stop {h : PHost} {b : BitVec 512} {j : Ring} {s : State} (ha : s.sqState h.val j.val = sqActive)
    (hbad : ¬(dbWord b j.val < s.sqSize h.val j.val ∧ s.forwardTail h j (dbWord b j.val))) (hg : s.goodTails h b (fun k => k = j)) :
    ∃ t : State, (s.pollTails h b allRings).regs = (t.stopSq h j.val (s.tailCode h j (dbWord b j.val))).regs ∧
      (s.pollTails h b allRings).sqTail h j.val = s.sqTail h j.val := by
  obtain ⟨l, r, e⟩ := List.append_of_mem (mem_allRings j)
  have hn := e ▸ allRings_nodup
  obtain ⟨hl, hr, hlr⟩ := List.nodup_append.mp hn
  obtain ⟨hjr, hr⟩ := List.nodup_cons.mp hr
  have hjl : j ∉ l := fun hj => hlr j hj j List.mem_cons_self rfl
  have before : (s.pollTails h b l).sqView h j = s.sqView h j := pollTails_sqView s h b hjl
  have code : (s.pollTails h b l).tailCode h j (dbWord b j.val) = s.tailCode h j (dbWord b j.val) := by
    unfold State.tailCode
    rw [sqSize_of_sqView before]
  have stop : (s.pollTails h b l).pollTail h j.val (dbWord b j.val) = (s.pollTails h b l).stopSq h j.val (s.tailCode h j (dbWord b j.val)) := by
    rw [← code]
    exact pollTail_bad ((sqState_of_sqView before).trans ha) (by rwa [sqSize_of_sqView before, forwardTail_of_sqView before])
  have split : s.pollTails h b allRings = ((s.pollTails h b l).stopSq h j.val (s.tailCode h j (dbWord b j.val))).pollTails h b r := by
    rw [← stop, e]
    exact List.foldl_append
  have later : ∀ k, k ∈ r → ((s.pollTails h b l).stopSq h j.val (s.tailCode h j (dbWord b j.val))).sqView h k = s.sqView h k := fun k hk =>
    (stopSq_sqView_ne _ h _ (fun e : k = j => hjr (e ▸ hk))).trans
      (pollTails_sqView s h b (fun hkl => hlr k hkl k (List.mem_cons_of_mem _ hk) rfl))
  refine ⟨s.pollTails h b l, ?_, ?_⟩
  · rw [split]
    exact (pollTails_taken h b r _ hr fun k hk hka => by
      rw [sqSize_of_sqView (later k hk), forwardTail_of_sqView (later k hk)]
      exact hg k (sqState_of_sqView (later k hk) ▸ hka) (fun e : k = j => hjr (e ▸ hk))).1
  · rw [split, sqTail_of_sqView (pollTails_sqView _ h b hjr), sqTail_of_polled (stopSq_polled _ h j.val _), sqTail_of_sqView before]

theorem pollTails_good {h : PHost} {b : BitVec 512} {s t : State} (hv : ∀ j, t.sqView h j = s.sqView h j) (hg : s.goodTails h b (fun _ => False)) :
    (t.pollTails h b allRings).regs = t.regs ∧
      ∀ j : Ring, (t.pollTails h b allRings).sqTail h j.val = if s.sqState h.val j.val = sqActive then dbWord b j.val else s.sqTail h j.val := by
  obtain ⟨hr, ht⟩ := pollTails_taken h b allRings t allRings_nodup fun j _ ha => by
    rw [sqSize_of_sqView (hv j), forwardTail_of_sqView (hv j)]
    exact hg j (sqState_of_sqView (hv j) ▸ ha) id
  refine ⟨hr, fun j => (ht j (mem_allRings j)).trans ?_⟩
  rw [sqState_of_sqView (hv j), sqTail_of_sqView (hv j)]

theorem pollTails_cqHead (s : State) (h : PHost) (b : BitVec 512) (js : List Ring) (q : Ring) : (s.pollTails h b js).cqHead h q = s.cqHead h q := by
  unfold State.cqHead
  rw [pollTails_heads]

theorem pollEnds_cqHead (s : State) (h : PHost) (b : BitVec 512) (q : Ring) : (s.pollEnds h b).cqHead h q = s.cqHead h q := by
  unfold State.cqHead State.pollEnds
  rw [State.host_setHost_same]

theorem pollEnds_sqTail (s : State) (h : PHost) (b : BitVec 512) (j : Nat) : (s.pollEnds h b).sqTail h j = s.sqTail h j := by
  unfold State.sqTail State.pollEnds
  rw [State.host_setHost_same]

/-- Poll data whose pointers are all valid (R174, R175). -/
theorem polledRings_valid {h : PHost} {b : BitVec 512} {s : State} (hh : s.goodHeads h b (fun _ => False)) (ht : s.goodTails h b (fun _ => False)) :
    (∀ q : Ring, (s.polledRings h b).cqHead h q = if s.cqActive h.val q.val then dbWord b (4 + q.val) else s.cqHead h q) ∧
    (∀ j : Ring, (s.polledRings h b).sqTail h j.val = if s.sqState h.val j.val = sqActive then dbWord b j.val else s.sqTail h j.val) ∧
    ((s.polledRings h b).host h).fast = bit (dbWord b 8) 0 ∧ ((s.polledRings h b).host h).failing = false ∧
    ((s.polledRings h b).host h).polls = (s.host h).polls - 1 ∧ (s.polledRings h b).regs = s.regs := by
  obtain ⟨hr, hq⟩ := pollHeads_taken h b allRings s allRings_nodup (fun q _ ha => hh q ha id)
  obtain ⟨hr2, hj⟩ := pollTails_good (fun j => pollHeads_sqView s h b allRings j) ht
  unfold State.polledRings
  refine ⟨fun q => ?_, fun j => (pollEnds_sqTail _ _ _ _).trans (hj j), ?_, ?_, ?_, ?_⟩
  · rw [pollEnds_cqHead, pollTails_cqHead]
    exact hq q (mem_allRings q)
  · unfold State.pollEnds
    rw [State.host_setHost_same]
  · unfold State.pollEnds
    rw [State.host_setHost_same]
  · unfold State.pollEnds
    rw [State.host_setHost_same]
    show _ - 1 = _
    rw [pollTails_polls, pollHeads_polls]
  · exact hr2.trans hr

end Sys2Proof.Machine

namespace Sys2Proof.Machine
open Sys2Proof

/-! The clauses of O9 -/

theorem exec_doorbellPoll (h : PHost) (idle : Nat) {s : State} (hp : s.mayPoll h = true) : ∃ t, exec (.doorbellPoll h idle) s = .next t ∧
    t.out = s.out ++ [.pollRead h] ∧ (t.host h).polls = (s.host h).polls + 1 ∧ (t.host h).l1 = false ∧ t.regs = s.regs := by
  have before : (((s.leaveL1 h).emit (.pollRead h)).host h) = { s.host h with l1 := false } := by
    rw [State.host_emit, State.leaveL1_host]
  refine ⟨_, congrArg Host.Outcome.next (if_pos hp), rfl, ?_, ?_, rfl⟩
  · rw [State.host_setHost_same, before]
  · rw [State.host_setHost_same, before]

theorem badHead_stops {h : PHost} {b : BitVec 512} {q : Ring} {s : State} (ha : s.cqActive h.val q.val = true)
    (hbad : ¬s.goodHead h q (dbWord b (4 + q.val))) (hg : s.goodHeads h b (fun p => p = q)) (ht : s.goodTails h b (fun _ => False)) :
    (s.polledRings h b).get (Reg.HOST_CQ_STAT_STOPPED h.val q.val) = 1 ∧ (s.polledRings h b).get (Reg.HOST_ERR_CODE h.val) = 3 ∧
    (s.polledRings h b).get (Reg.HOST_ERR_CQ h.val) = 1 ∧ (s.polledRings h b).get (Reg.HOST_ERR_RING h.val) = q.val ∧
    (s.polledRings h b).get (Reg.HOST_EVENT_CQ_STOP h.val) = 1 ∧ (s.polledRings h b).cqHead h q = s.cqHead h q := by
  obtain ⟨t, hr, hq⟩ := pollHeads_stop ha hbad hg
  have regs : (s.polledRings h b).regs = (t.stopCq h q.val).regs := (pollTails_good (fun j => pollHeads_sqView s h b allRings j) ht).1.trans hr
  obtain ⟨hstop, hcode, hcq, hring, hev⟩ := stopCq_facts t h q
  simp only [get_congr regs]
  refine ⟨hstop, hcode, hcq, hring, hev, ?_⟩
  exact (pollEnds_cqHead _ _ _ _).trans ((pollTails_cqHead _ _ _ _ _).trans hq)

theorem goodTails_of_sqView {h : PHost} {b : BitVec 512} {s t : State} {p : Ring → Prop} (hv : ∀ j, t.sqView h j = s.sqView h j)
    (hg : s.goodTails h b p) : t.goodTails h b p := fun j ha hp => by
  rw [sqSize_of_sqView (hv j), forwardTail_of_sqView (hv j)]
  exact hg j (sqState_of_sqView (hv j) ▸ ha) hp

theorem badTail_stops {h : PHost} {b : BitVec 512} {j : Ring} {s : State} (ha : s.sqState h.val j.val = sqActive)
    (hbad : ¬(dbWord b j.val < s.sqSize h.val j.val ∧ s.forwardTail h j (dbWord b j.val)))
    (hg : s.goodTails h b (fun k => k = j)) :
    (s.polledRings h b).sqState h.val j.val = sqStopped ∧
    (s.polledRings h b).get (Reg.HOST_ERR_CODE h.val) = (if dbWord b j.val < s.sqSize h.val j.val then 2 else 1) ∧
    (s.polledRings h b).get (Reg.HOST_ERR_CQ h.val) = 0 ∧ (s.polledRings h b).get (Reg.HOST_ERR_RING h.val) = j.val ∧
    (s.polledRings h b).get (Reg.HOST_EVENT_SQ_STOP h.val) = 1 ∧ (s.polledRings h b).sqTail h j.val = s.sqTail h j.val := by
  have view : ∀ k, (s.pollHeads h b allRings).sqView h k = s.sqView h k := fun k => pollHeads_sqView s h b allRings k
  obtain ⟨t, hr, ht⟩ := pollTails_stop (s := s.pollHeads h b allRings) ((sqState_of_sqView (view j)).trans ha)
    (by rwa [sqSize_of_sqView (view j), forwardTail_of_sqView (view j)]) (goodTails_of_sqView view hg)
  have code : (s.pollHeads h b allRings).tailCode h j (dbWord b j.val) = if dbWord b j.val < s.sqSize h.val j.val then 2 else 1 := by
    unfold State.tailCode
    rw [sqSize_of_sqView (view j)]
    rfl
  rw [code] at hr
  have regs : (s.polledRings h b).regs = _ := hr
  have small : (if dbWord b j.val < s.sqSize h.val j.val then 2 else 1) < 16 := by split <;> decide
  obtain ⟨hstop, hcode, hring, hev, -⟩ := stopSq_facts t h j _ small
  have hcq := (ringErr_facts (t.put (Reg.HOST_SQ_STAT_STATE h.val j.val) sqStopped) h _ false j.val Reg.HOST_EVENT_SQ_STOP rfl
    ⟨lt_rfl rfl, rfl⟩ small j.isLt).2.1
  refine ⟨(get_congr regs _).trans hstop, (get_congr regs _).trans hcode, (get_congr regs _).trans hcq, (get_congr regs _).trans hring,
    (get_congr regs _).trans hev, ?_⟩
  exact (pollEnds_sqTail _ _ _ _).trans (ht.trans (sqTail_of_sqView (view j)))

/-- A failed poll raises DB_ERR once (R189). -/
theorem exec_pollError (h : PHost) (why : ReadFail) {s : State} (hs : s.serving = true) (hp : 0 < (s.host h).polls) :
    ∃ t, exec (.pollError h why) s = .next t ∧ (t.host h).failing = true ∧ (t.host h).polls = (s.host h).polls - 1 ∧
      ((s.host h).failing = false → t.get (Reg.HOST_EVENT_DB_ERR h.val) = 1) ∧ ((s.host h).failing = true → t.regs = s.regs) := by
  have read := Unread.readFailed s h why
  have hfail := failing_of_polled (read.polled h)
  have hpolls := polls_of_polled (read.polled h)
  refine ⟨(s.readFailed h why).pollFailed h, congrArg Host.Outcome.next (if_pos ⟨hs, hp⟩), ?_⟩
  unfold State.pollFailed
  dsimp only
  rw [hfail]
  generalize hw : (s.readFailed h why).setHost h _ = w
  have wfail : (w.host h).failing = true := by
    rw [← hw, State.host_setHost_same]
  have wpolls : (w.host h).polls = (s.host h).polls - 1 := by
    rw [← hw, State.host_setHost_same]
    show _ - 1 = _
    rw [hpolls]
  have wregs : w.regs = s.regs := by
    rw [← hw]
    exact read.regs
  cases hf : (s.host h).failing with
  | true => exact ⟨wfail, wpolls, fun h => absurd h (by decide), fun _ => wregs⟩
  | false =>
    have hp := event_polled w (Reg.HOST_EVENT_DB_ERR h.val) (0x70C + h.val) .host [h] h
    exact ⟨(failing_of_polled hp).trans wfail, (polls_of_polled hp).trans wpolls, fun _ => event_get_same _ _ _ _ _ (lt_rfl rfl) rfl,
      fun h => absurd h (by decide)⟩

/-- The last SQ that is stopped leaves its code and its event. -/
theorem stopSq_fold_error (h : PHost) (code : Nat) (hc : code < 16) {js : List Ring} (hne : js ≠ []) (s : State) :
    (js.foldl (fun (t : State) j => t.stopSq h j.val code) s).get (Reg.HOST_ERR_CODE h.val) = code ∧
    (js.foldl (fun (t : State) j => t.stopSq h j.val code) s).get (Reg.HOST_EVENT_SQ_STOP h.val) = 1 := by
  obtain ⟨l, j, rfl⟩ := List.eq_nil_or_concat js |>.resolve_left hne
  rw [List.concat_eq_append, List.foldl_append]
  obtain ⟨-, hcode, -, hev, -⟩ := stopSq_facts (l.foldl (fun (t : State) j => t.stopSq h j.val code) s) h j code hc
  exact ⟨hcode, hev⟩

theorem exec_pollFailTimeout (h : PHost) {s : State} (hs : s.serving = true) (hf : (s.host h).failing = true) :
    ∃ t, exec (.pollFailTimeout h) s = .next t ∧
      (∀ j : Ring, t.sqState h.val j.val = if s.sqState h.val j.val = sqActive then sqStopped else s.sqState h.val j.val) ∧
      ((∃ j : Ring, s.sqState h.val j.val = sqActive) → t.get (Reg.HOST_ERR_CODE h.val) = 5 ∧ t.get (Reg.HOST_EVENT_SQ_STOP h.val) = 1) := by
  have mem : ∀ j : Ring, j ∈ allRings.filter (fun j => decide (s.sqState h.val j.val = sqActive)) ↔ s.sqState h.val j.val = sqActive :=
    fun j => by simp [List.mem_filter, mem_allRings j]
  refine ⟨_, congrArg Host.Outcome.next (if_pos ⟨hs, hf⟩), fun j => ?_, fun ⟨j, ha⟩ => ?_⟩
  · refine (stopSq_fold h errDb (by decide) _ s j).trans ?_
    exact if_congr (mem j) rfl rfl
  · exact stopSq_fold_error h errDb (by decide) (List.ne_nil_of_mem ((mem j).mpr ha)) s

theorem stopSq_sqHead (s : State) (h : PHost) (j : Ring) (code : Nat) : (s.stopSq h j.val code).sqHead h.val j.val = s.sqHead h.val j.val := by
  have hreg := ringErr_reg (s.put (Reg.HOST_SQ_STAT_STATE h.val j.val) sqStopped) h code false j.val Reg.HOST_EVENT_SQ_STOP rfl
    (Reg.HOST_SQ_STAT_HEAD h.val j.val).addr (by rw [show (Reg.HOST_SQ_STAT_HEAD h.val j.val).addr = 0x740 + 0x38 * h.val + j.val from rfl]; omega)
    (by rw [show (Reg.HOST_SQ_STAT_HEAD h.val j.val).addr = 0x740 + 0x38 * h.val + j.val from rfl]; omega)
  refine (congrArg (fun r : Word => bits r.toNat 15 0) hreg).trans ?_
  exact State.get_put_apart (g := Reg.HOST_SQ_STAT_HEAD h.val j.val) _ _ (lt_rfl rfl) (.inl (lt_rfl rfl))

theorem exec_fetchError (h : PHost) (j : Ring) (why : ReadFail) {s : State} (hs : s.serving = true) (hf : 0 < s.sqFetching h j.val) :
    ∃ u : State, exec (.fetchError h j why) s = .next u.settle ∧ u.sqState h.val j.val = sqStopped ∧ u.get (Reg.HOST_ERR_CODE h.val) = 4 ∧
      u.get (Reg.HOST_ERR_RING h.val) = j.val ∧ u.get (Reg.HOST_EVENT_SQ_STOP h.val) = 1 ∧ u.sqHead h.val j.val = s.sqHead h.val j.val := by
  obtain ⟨hstop, hcode, hring, hev, -⟩ := stopSq_facts ((s.readFailed h why).setFetching h j.val 0) h j errFetch (by decide)
  refine ⟨_, congrArg Host.Outcome.next (if_pos ⟨hs, hf⟩), hstop, hcode, hring, hev, ?_⟩
  exact (stopSq_sqHead _ _ _ _).trans (get_congr (Unread.readFailed s h why).regs _)

theorem exec_hostReadTimeout (h : PHost) (j : Ring) (tag : BitVec 16) (lost : Bool) {s : State} {i : Nat} {f : Flight} (hs : s.serving = true)
    (hf : s.findFlight (fun f => decide (f.host = h ∧ f.sq = j ∧ f.d.tag = tag) && f.awaits) = some (i, f)) :
    ∃ u : State, exec (.hostReadTimeout h j tag lost) s = .next u.settle ∧ u.flights = s.flights.set i { f with ending := some Status.timeout } ∧
      u.rest = s.rest ∧ u.regs = s.regs := by
  have read := Unread.readFailed s h (if lost then .lost else .timeout)
  refine ⟨(s.readFailed h (if lost then .lost else .timeout)).setFlight i { f with ending := some Status.timeout }, ?_, ?_, read.rest, read.regs⟩
  · show execHostReadTimeout h j tag s lost = _
    unfold execHostReadTimeout State.hostTimeout
    rw [if_pos hs, hf]
  · exact congrArg (fun fs : List Flight => fs.set i { f with ending := some Status.timeout }) read.flights

theorem exec_hostDataArrival {h : PHost} {j : Ring} {tag : BitVec 16} (data : HostData) (ups : List Upset) (p : PadTraffic) {s : State} {i : Nat}
    {f : Flight} (hl : s.linkOpen h = true)
    (hf : s.findFlight (fun f => decide (f.host = h ∧ f.sq = j ∧ f.d.tag = tag) && f.awaits) = some (i, f)) :
    exec (.hostDataArrival h j tag data ups p) s = .next (s.takeData i f data ups p).settle := by
  show execHostDataArrival h j tag data ups s p = _
  unfold execHostDataArrival State.hostData
  rw [if_pos hl, hf]

theorem dataFailed_sound (s : State) (h : PHost) {data : HostData} (hp : data.poison = false) (hf : data.fail = false) : s.dataFailed h data = s := by
  unfold State.dataFailed
  rw [hp, hf]
  rfl

theorem receive_sound (f : Flight) {data : HostData} (hp : data.poison = false) (hf : data.fail = false) :
    f.receive data = { f with buf := f.buf ++ data.bytes.take (min f.asked (Desc.n f.d) - f.received) } := by
  unfold Flight.receive
  rw [hp, hf]
  rfl

theorem stageData_sound (s : State) (f : Flight) (p : PadTraffic) (hp : staged f.op = false ∨ padLost p = none) :
    s.stageData f p = (if staged f.op then s.padWrites p else s, f) := by
  unfold State.stageData
  cases hs : staged f.op with
  | false => rfl
  | true =>
    rw [if_pos rfl, if_pos rfl, hp.resolve_left (by rw [hs]; decide)]

theorem stageData_collides (s : State) {f : Flight} {p : PadTraffic} {a : Nat} (hs : staged f.op = true) (hp : padLost p = some a) :
    s.stageData f p = (s.lostStage f.host p, { f with lost := some (f.lost.getD a) }) := by
  unfold State.stageData
  rw [if_pos hs, hp]
  rfl

/-- Staging changes no flight in progress, and at most notes a collision in its own. -/
theorem stageData_flights (s : State) (f : Flight) (p : PadTraffic) : (s.stageData f p).1.flights = s.flights := by
  unfold State.stageData
  split
  · split
    · exact (Quiet.lostStage s f.host p).flights
    · exact (padWrites_yields s p).quiet.flights
  · rfl

theorem takeData_sound {s : State} (i : Nat) {f : Flight} {data : HostData} (ups : List Upset) {p : PadTraffic} (hpo : data.poison = false)
    (hfa : data.fail = false) (hp : staged f.op = false ∨ padLost p = none) :
    s.takeData i f data ups p = ((if staged f.op then s.padWrites p else s).flightUpsets f ups).setFlight i
      { f with buf := f.buf ++ data.bytes.take (min f.asked (Desc.n f.d) - (f.moved + f.buf.length)) } := by
  unfold State.takeData
  rw [stageData_sound s f p hp]
  dsimp only
  rw [dataFailed_sound _ _ hpo hfa, receive_sound f hpo hfa]
  rfl

theorem takeData_collides {s : State} {i : Nat} {f : Flight} {data : HostData} (ups : List Upset) {p : PadTraffic} {a : Nat}
    (here : s.flights[i]? = some f) (hpo : data.poison = false) (hfa : data.fail = false) (hs : staged f.op = true) (hp : padLost p = some a) :
    (s.takeData i f data ups p).get Reg.ARR_EVENT_WRITE_LOST = 1 ∧ (s.takeData i f data ups p).flights[i]? = some
      { f with lost := some (f.lost.getD a), buf := f.buf ++ data.bytes.take (min f.asked (Desc.n f.d) - (f.moved + f.buf.length)) } := by
  unfold State.takeData
  rw [stageData_collides s hs hp]
  dsimp only
  rw [dataFailed_sound _ _ hpo hfa, receive_sound _ hpo hfa]
  have regs : ((s.lostStage f.host p).flightUpsets f ups).regs = (s.lostStage f.host p).regs :=
    flightUpsets_keeps State.regs (by intros; rfl) _ _ _
  have flights : ((s.lostStage f.host p).flightUpsets f ups).flights = s.flights :=
    ((Quiet.lostStage s f.host p).trans' (Quiet.flightUpsets _ f ups)).flights
  refine ⟨(get_congr regs _).trans (lostStage_writeLost s f.host p), ?_⟩
  show (List.set _ i _)[i]? = _
  rw [flights, List.getElem?_set_self (List.getElem?_eq_some_iff.mp here).1]
  rfl

/-- Data that fails ends its descriptor with HOST_ABORT (R189). -/
theorem takeData_fails {s : State} {i : Nat} {f : Flight} {data : HostData} (ups : List Upset) (p : PadTraffic)
    (here : s.flights[i]? = some f) (hbad : data.poison = true ∨ data.fail = true) :
    ∃ g, (s.takeData i f data ups p).flights[i]? = some g ∧ g.ending = some Status.hostAbort := by
  have flights : (((s.stageData f p).1.dataFailed f.host data).flightUpsets f ups).flights = s.flights :=
    (Quiet.flightUpsets _ f ups).flights.trans ((Unread.dataFailed _ f.host data).flights.trans (stageData_flights s f p))
  refine ⟨(s.stageData f p).2.receive data, ?_, ?_⟩
  · show (List.set _ i _)[i]? = _
    rw [flights, List.getElem?_set_self (List.getElem?_eq_some_iff.mp here).1]
  · unfold Flight.receive
    dsimp only
    split
    · rfl
    · next hp => rw [if_pos (hbad.resolve_left hp)]

/-- A message of a vector that is open on a link in its working states (R166, R183). -/
theorem msix_sent {s : State} {h : PHost} {v : Nat} (hs : (s.host h).sends v = true) :
    (s.msixMerges h v s.stamp = false → (s.msix h v).out = s.out ++ [.msix h v ((s.host h).vecAddr v) ((s.host h).vecDword v 2)] ∧
      ((s.msix h v).host h).l1 = false) ∧
    (s.msixMerges h v s.stamp = true → (s.msix h v).out = s.out) := by
  simp only [HostPort.sends, Bool.and_eq_true, Bool.not_eq_true'] at hs
  obtain ⟨⟨⟨⟨⟨hup, hd3⟩, hmaster⟩, hon⟩, hmask⟩, hretrain⟩ := hs
  unfold State.msix
  simp only [hup, hd3, hmaster, hon, hmask, hretrain, Bool.and_true, Bool.not_false, if_true, Bool.false_eq_true, if_false]
  refine ⟨fun hm => ?_, fun hm => ?_⟩
  · rw [if_neg (by rw [hm]; decide)]
    refine ⟨rfl, ?_⟩
    rw [State.host_emit, State.host_setHost_same]
  · rw [if_pos hm]
    rfl

theorem msix_sent_port {s : State} {h : PHost} {v : Nat} (hs : (s.host h).sends v = true) :
    ((s.msix h v).host h).pba = (s.host h).pba ∧ ((s.msix h v).host h).masked = (s.host h).masked ∧
    ((s.msix h v).host h).unsent = (s.host h).unsent ∧ (s.msix h v).regs = s.regs := by
  simp only [HostPort.sends, Bool.and_eq_true, Bool.not_eq_true'] at hs
  obtain ⟨⟨⟨⟨⟨hup, hd3⟩, hmaster⟩, hon⟩, hmask⟩, hretrain⟩ := hs
  unfold State.msix
  simp only [hup, hd3, hmaster, hon, hmask, hretrain, Bool.and_true, Bool.not_false, if_true, Bool.false_eq_true, if_false]
  split
  · rw [State.host_setHost_same]
    exact ⟨rfl, rfl, rfl, rfl⟩
  · rw [State.host_emit, State.host_setHost_same]
    exact ⟨rfl, rfl, rfl, rfl⟩

/-- What decides how a vector's message leaves the host's port, besides what masks it. -/
theorem msixMerges_setHost (s : State) (h : PHost) (p : HostPort) (v stamp : Nat) (h1 : p.sentAt = (s.host h).sentAt)
    (h2 : p.vectors = (s.host h).vectors) (h3 : p.merges = (s.host h).merges) : (s.setHost h p).msixMerges h v stamp = s.msixMerges h v stamp := by
  unfold State.msixMerges HostPort.vecAddr HostPort.vecDword
  rw [State.host_setHost_same]
  dsimp only
  rw [h1, h2, h3]
  rfl

theorem exec_cqTimeExpiry {h : PHost} {j : Ring} {s : State} {v : Nat} (hl : s.linkOpen h = true)
    (hi : s.flag (Reg.HOST_CQ_CFG_IEN h.val j.val) = true) (hu : 0 < Map.get (fun _ => 0) (s.host h).unsent j.val)
    (hv : v = s.get (Reg.HOST_CQ_CFG_VECTOR h.val j.val)) (hs : (s.host h).sends v = true) :
    ∃ t, exec (.cqTimeExpiry h j) s = .next t ∧ Map.get (fun _ => 0) (t.host h).unsent j.val = 0 ∧ t.regs = s.regs ∧
      (s.msixMerges h v s.stamp = false →
        t.out = s.out ++ [.msix h v ((s.host h).vecAddr v) ((s.host h).vecDword v 2)] ∧ (t.host h).l1 = false) ∧
      (s.msixMerges h v s.stamp = true → t.out = s.out) := by
  have hw := State.host_setHost_same s h { s.host h with unsent := Map.set (fun _ => 0) (s.host h).unsent j.val 0 }
  have sends : ((s.setHost h { s.host h with unsent := Map.set (fun _ => 0) (s.host h).unsent j.val 0 }).host h).sends v = true := by
    rw [hw]
    exact hs
  obtain ⟨hapart, hmerge⟩ := msix_sent sends
  obtain ⟨-, -, hunsent, hregs⟩ := msix_sent_port sends
  have merges := msixMerges_setHost s h { s.host h with unsent := Map.set (fun _ => 0) (s.host h).unsent j.val 0 } v s.stamp rfl rfl rfl
  refine ⟨s.cqSend h j.val, congrArg Host.Outcome.next (if_pos ⟨hl, hi, hu⟩), ?_⟩
  unfold State.cqSend
  rw [← hv]
  refine ⟨?_, hregs, fun hm => ?_, fun hm => hmerge (merges.trans hm)⟩
  · rw [hunsent, hw]
    show Map.get (fun _ => 0) (Map.set (fun _ => 0) (s.host h).unsent j.val 0) j.val = 0
    exact Map.get_set_same _ _ _ _
  · obtain ⟨hout, hl1⟩ := hapart (merges.trans hm)
    rw [hw] at hout
    exact ⟨hout, hl1⟩

/-- The port of a function whose vector v, pending, is unmasked. -/
def HostPort.unmasked (p : HostPort) (v : Nat) : HostPort :=
  { p with masked := p.masked &&& ~~~(BitVec.ofNat 32 (2 ^ v)), pba := p.pba &&& ~~~(BitVec.ofNat 32 (2 ^ v)) }

theorem unmask_pending {s : State} {h : PHost} {v : Nat} (hb : bit (s.host h).pba.toNat v = true) (hc : (s.host h).cfgBit cfgMsixCtl 30 = false) :
    s.unmask h v = ((s.setHost h { s.host h with masked := (s.host h).masked &&& ~~~(BitVec.ofNat 32 (2 ^ v)) }).setHost h
      ((s.host h).unmasked v)).msix h v := by
  unfold State.unmask
  dsimp only
  rw [hb, hc, State.host_setHost_same]
  rfl

theorem exec_msixUnmask {h : PHost} {v : BitVec 5} {s : State} (hl : s.barLive h = true) (hb : bit (s.host h).pba.toNat v.toNat = true)
    (hc : (s.host h).cfgBit cfgMsixCtl 30 = false) (hm : (s.host h).master = true) (hon : (s.host h).msixOn = true)
    (hr : (s.host h).retraining = false) :
    ∃ t, exec (.msixUnmask h v) s = .next t ∧
      t.out = s.out ++ (if s.msixMerges h v.toNat s.stamp then [] else [.msix h v.toNat ((s.host h).vecAddr v.toNat) ((s.host h).vecDword v.toNat 2)]) ∧
      (t.host h).pba = (s.host h).pba &&& ~~~(BitVec.ofNat 32 (2 ^ v.toNat)) ∧
      (t.host h).masked = (s.host h).masked &&& ~~~(BitVec.ofNat 32 (2 ^ v.toNat)) := by
  generalize hw1 : s.setHost h { s.host h with masked := (s.host h).masked &&& ~~~(BitVec.ofNat 32 (2 ^ v.toNat)) } = w1
  have hw := State.host_setHost_same w1 h ((s.host h).unmasked v.toNat)
  have hd3 : (s.host h).d3 = false := by
    simp only [State.barLive, Bool.and_eq_true, Bool.not_eq_true'] at hl
    simp [hl]
  have sends : ((w1.setHost h ((s.host h).unmasked v.toNat)).host h).sends v.toNat = true := by
    rw [hw]
    unfold HostPort.sends HostPort.vecMasked
    rw [show bit ((s.host h).unmasked v.toNat).masked.toNat v.toNat = false from bit_clear _ _ v.isLt]
    show ((s.host h).up && !(s.host h).d3 && (s.host h).master && (s.host h).msixOn && !((s.host h).cfgBit cfgMsixCtl 30 || false) &&
      !(s.host h).retraining) = true
    rw [up_of_barLive hl, hd3, hm, hon, hc, hr]
    rfl
  obtain ⟨hapart, hmerge⟩ := msix_sent sends
  obtain ⟨hpba, hmasked, -, -⟩ := msix_sent_port sends
  have merges : (w1.setHost h ((s.host h).unmasked v.toNat)).msixMerges h v.toNat s.stamp = s.msixMerges h v.toNat s.stamp := by
    rw [msixMerges_setHost w1 h _ _ _ (by rw [← hw1, State.host_setHost_same]; rfl) (by rw [← hw1, State.host_setHost_same]; rfl)
      (by rw [← hw1, State.host_setHost_same]; rfl), ← hw1]
    exact msixMerges_setHost _ _ _ _ _ rfl rfl rfl
  have stamp : (w1.setHost h ((s.host h).unmasked v.toNat)).stamp = s.stamp := by
    rw [← hw1]
    rfl
  have out : (w1.setHost h ((s.host h).unmasked v.toNat)).out = s.out := by
    rw [← hw1]
    rfl
  rw [stamp, merges, out, hw] at hapart
  rw [stamp, merges, out] at hmerge
  refine ⟨(w1.setHost h ((s.host h).unmasked v.toNat)).msix h v.toNat, ?_, ?_, ?_, ?_⟩
  · show execMsixUnmask h v s = _
    unfold execMsixUnmask
    rw [if_pos hl, unmask_pending hb hc, hw1]
  · cases hmg : s.msixMerges h v.toNat s.stamp with
    | false => exact (hapart hmg).1
    | true => exact (hmerge hmg).trans (List.append_nil _).symm
  · rw [hpba, hw]
    rfl
  · rw [hmasked, hw]
    rfl

/-- Settles O9: polled heads and tails are taken ring by ring, each apart from the others; failures are recorded at the function and
end what they belong to. -/
theorem pollsAndData : Obligations.PollsAndData := by
  unfold Obligations.PollsAndData
  refine ⟨fun h idle s hp => exec_doorbellPoll h idle hp, fun h b s hl hp hh ht => ?_, fun h b q s hl hp ha hbad hh ht => ?_,
    fun h b j s hl hp ha hbad _ ht => ?_, fun h why s hs hp => exec_pollError h why hs hp, fun h s hs hf => exec_pollFailTimeout h hs hf,
    fun h j why s hs hf => exec_fetchError h j why hs hf, fun h j tag lost s i f hs hf => exec_hostReadTimeout h j tag lost hs hf,
    fun h j tag data ups p s i f hl hf hpo hfa hp => ?_, fun h j tag data ups p s i f a hl hf hpo hfa hs hp => ?_,
    fun h j tag data ups p s i f hl hf hbad => ?_, fun h j s v hl hi hu hv hs => exec_cqTimeExpiry hl hi hu hv hs,
    fun h v s hl hb hc hm hon hr => exec_msixUnmask hl hb hc hm hon hr⟩
  · exact ⟨_, exec_pollData b hl hp, polledRings_valid hh ht⟩
  · exact ⟨_, exec_pollData b hl hp, badHead_stops ha hbad hh ht⟩
  · exact ⟨_, exec_pollData b hl hp, badTail_stops ha hbad ht⟩
  · rw [exec_hostDataArrival data ups p hl hf, takeData_sound i ups hpo hfa hp]
  · exact ⟨_, exec_hostDataArrival data ups p hl hf, takeData_collides ups (findFlight_facts _ _ _ _ hf).1 hpo hfa hs hp⟩
  · exact ⟨_, exec_hostDataArrival data ups p hl hf, takeData_fails ups p (findFlight_facts _ _ _ _ hf).1 hbad⟩

end Sys2Proof.Machine

namespace Sys2Proof.Machine
open Sys2Proof

/-! Arming, facets and tables (R214 to R217, R231, R253): O20 -/

theorem setStn_setStn (s : State) (n : Nat) (v w : Stn) : (s.setStn n v).setStn n w = s.setStn n w := by
  unfold State.setStn
  exact congrArg (fun m => ({ s with stns := m } : State)) (Map.set_set _ _ _ _ _)

theorem Quiet.setStn (s : State) (n : Nat) (v : Stn) : Quiet s (s.setStn n v) := Quiet.of rfl rfl rfl rfl rfl

theorem dropProbe_stn (s : State) (n : Nat) : (s.dropProbe n).stn n = { s.stn n with probe := none } := by
  unfold State.dropProbe
  split
  · next h => rw [← Option.isNone_iff_eq_none.mp h]
  · exact State.stn_setStn_same _ _ _

theorem dropProbe_stn_ne (s : State) {n m : Nat} (hm : m ≠ n) : (s.dropProbe n).stn m = s.stn m := by
  unfold State.dropProbe
  split
  · rfl
  · exact State.stn_setStn_ne _ _ hm

theorem dropArm_stn (s : State) (n : Nat) : (s.dropArm n).stn n = { s.stn n with armWaits := none } := by
  unfold State.dropArm
  split
  · next h => rw [← Option.isNone_iff_eq_none.mp h]
  · exact State.stn_setStn_same _ _ _

theorem dropArm_regs (s : State) (n : Nat) : (s.dropArm n).regs = s.regs := by
  unfold State.dropArm
  split <;> rfl

theorem dropArm_pwr (s : State) (n : Nat) : (s.dropArm n).pwr = s.pwr := by
  unfold State.dropArm
  split <;> rfl

/-- The slots that armed stations hold are counted from the registers and the slots that each reserves (R92). -/
theorem slotsHeld_setStn (s : State) (n : Nat) (v : Stn) (hv : v.reserved = (s.stn n).reserved) (r : Nat) :
    (s.setStn n v).slotsHeld r = s.slotsHeld r := by
  have held : ∀ m, ((s.setStn n v).stn m).reserved = (s.stn m).reserved := fun m => by
    by_cases e : m = n
    · subst e
      rw [State.stn_setStn_same, hv]
    · rw [State.stn_setStn_ne _ _ e]
  unfold State.slotsHeld
  simp only [held]
  rfl

theorem armReason_setStn (s : State) (n : Nat) (v : Stn) (hv : v.reserved = (s.stn n).reserved) : (s.setStn n v).armReason n = s.armReason n := by
  unfold State.armReason
  simp only [slotsHeld_setStn s n v hv]
  rfl

theorem armReason_dropProbe (s : State) (n : Nat) : (s.dropProbe n).armReason n = s.armReason n := by
  unfold State.dropProbe
  split
  · rfl
  · exact armReason_setStn _ _ _ rfl

theorem dropProbe_regs (s : State) (n : Nat) : (s.dropProbe n).regs = s.regs := by
  unfold State.dropProbe
  split <;> rfl

theorem armReason_lt (s : State) (n : Nat) : s.armReason n < 8 := by
  unfold State.armReason
  split_ifs <;> decide

/-! ARM (R215, R216) -/

theorem exec_arm {x : Sender} {n : StnId} {s : State} (hr : s.stnReaches x n.val 0 true = true) (hm : s.stnMay x n.val = true)
    (hf : (s.stn n.val).swpFrame = false) : exec (.arm x n) s = .next ((s.dropProbe n.val).arm x n.val) := by
  show execArm x n s = _
  unfold execArm State.armReq
  rw [if_pos hr, if_pos hm, hf]
  rfl

theorem exec_arm_waits {x : Sender} {n : StnId} {s : State} (hr : s.stnReaches x n.val 0 true = true) (hm : s.stnMay x n.val = true)
    (hf : (s.stn n.val).swpFrame = true) :
    exec (.arm x n) s = .next (s.setStn n.val { s.stn n.val with armWaits := some ((s.stn n.val).armWaits.getD x) }) := by
  show execArm x n s = _
  unfold execArm State.armReq
  rw [if_pos hr, if_pos hm, if_pos hf]

/-- The station as an ARM sets it up (R215, R219). -/
def Stn.arming (st : Stn) (slots : Nat) : Stn :=
  { st with
    reserved := slots, disarming := false, drain := none, dc := 0, hw := 0, reversed := false, x := none, pmaxL := none, pmaxU := none,
    llo := none, released := none, win := .arming, intervals := [], pStall := none, facet := none, history := [], fseq := 0,
    lastRpt := none, sbLost := false, emitted := 0 }

theorem acceptedArm_eq {s : State} {n : Nat} (x : Sender) (ha : s.stnArmed n = false) (hr : s.armReason n = 0) :
    s.arm x n = (s.ringRegions n).foldl (fun (t : State) r => t.yieldWindow r)
      ((s.setStn n ((s.stn n).arming (s.slotsNeeded n))).put (Reg.STN_STATUS_WAIT_SOS n) 1) := by
  unfold State.arm
  rw [if_neg (by rw [ha]; decide), hr]
  rfl

theorem acceptedArm_facts {s : State} {n : StnId} (x : Sender) (ha : s.stnArmed n.val = false) (hr : s.armReason n.val = 0) :
    (s.arm x n.val).get (Reg.STN_STATUS_WAIT_SOS n.val) = 1 ∧ (s.arm x n.val).stn n.val = (s.stn n.val).arming (s.slotsNeeded n.val) := by
  rw [acceptedArm_eq x ha hr]
  have keep := Same.fold (f := fun (t : State) r => t.yieldWindow r) (fun t r => Same.yieldWindow t r) (s.ringRegions n.val)
    ((s.setStn n.val ((s.stn n.val).arming (s.slotsNeeded n.val))).put (Reg.STN_STATUS_WAIT_SOS n.val) 1)
  have haddr : (Reg.STN_STATUS_WAIT_SOS n.val).addr = 0x802 + 0x80 * n.val := rfl
  refine ⟨?_, ?_⟩
  · rw [keep.get (Reg.STN_STATUS_WAIT_SOS n.val) (by unfold offAccess; omega)]
    exact State.get_put_same _ (Reg.STN_STATUS_WAIT_SOS n.val) 1 (lt_rfl rfl) (lt_rfl rfl)
  · rw [keep.stn, put_stn, State.stn_setStn_same]

theorem slotsNeeded_congr {s t : State} (hr : t.regs = s.regs) (n : Nat) : t.slotsNeeded n = s.slotsNeeded n := by
  unfold State.slotsNeeded State.doubleMode
  simp only [get_congr hr, flag_congr hr]

/-- What an ARM sets, and what it leaves of the station. -/
theorem arming_fields {st v : Stn} {slots : Nat} (hv : v = Stn.arming { st with probe := none } slots) :
    v.probe = none ∧ v.win = .arming ∧ v.dc = 0 ∧ v.x = none ∧ v.pmaxL = none ∧ v.pmaxU = none ∧ v.reserved = slots ∧
      v.sheets = st.sheets ∧ v.tables = st.tables := by
  subst hv
  exact ⟨rfl, rfl, rfl, rfl, rfl, rfl, rfl, rfl, rfl⟩

theorem exec_arm_accepted {x : Sender} {n : StnId} {s : State} (hr : s.stnReaches x n.val 0 true = true) (hm : s.stnMay x n.val = true)
    (ha : s.stnArmed n.val = false) (hc : s.armReason n.val = 0) (hf : (s.stn n.val).swpFrame = false) :
    ∃ t, exec (.arm x n) s = .next t ∧ t.get (Reg.STN_STATUS_WAIT_SOS n.val) = 1 ∧ (t.stn n.val).probe = none ∧ (t.stn n.val).win = .arming ∧ (t.stn n.val).dc = 0 ∧
      (t.stn n.val).x = none ∧ (t.stn n.val).pmaxL = none ∧ (t.stn n.val).pmaxU = none ∧ (t.stn n.val).reserved = s.slotsNeeded n.val ∧
      (t.stn n.val).sheets = (s.stn n.val).sheets ∧ (t.stn n.val).tables = (s.stn n.val).tables := by
  have regs := dropProbe_regs s n.val
  obtain ⟨hwait, hstn⟩ := acceptedArm_facts (s := s.dropProbe n.val) x ((stnArmed_congr regs _).trans ha) ((armReason_dropProbe s n.val).trans hc)
  rw [dropProbe_stn, slotsNeeded_congr regs n.val] at hstn
  refine ⟨_, exec_arm hr hm hf, hwait, ?_⟩
  exact arming_fields hstn

/-- What a refused ARM shows (R215). -/
theorem refusedArm_facts {s : State} {n : StnId} {k : Nat} (x : Sender) (ha : s.stnArmed n.val = false) (hk : s.armReason n.val = k) (hne : k ≠ 0) (hlt : k < 8) :
    (s.arm x n.val).get (Reg.STN_ARM_ERR_REASON n.val) = k ∧ (s.arm x n.val).get (Reg.STN_EVENT_ARM_REFUSED n.val) = 1 ∧
    (s.arm x n.val).stns = s.stns ∧ (k = 7 → (s.arm x n.val).get Reg.ARR_EVENT_SLOT_REFUSED = 1) := by
  have told : s.arm x n.val = (let s1 := (s.put (Reg.STN_ARM_ERR_REASON n.val) k).stnEvent n.val Reg.STN_EVENT_ARM_REFUSED
      if k = 7 then s1.arrEvent Reg.ARR_EVENT_SLOT_REFUSED (hostOf x.toNat).toList else s1) := by
    unfold State.arm
    rw [if_neg (by rw [ha]; decide), hk]
    split
    · exact absurd rfl hne
    · rfl
  rw [told]
  dsimp only
  have hreason : (Reg.STN_ARM_ERR_REASON n.val).addr = 0x808 + 0x80 * n.val := rfl
  have hevent : (Reg.STN_EVENT_ARM_REFUSED n.val).addr = 0x803 + 0x80 * n.val := rfl
  have reason : ((s.put (Reg.STN_ARM_ERR_REASON n.val) k).stnEvent n.val Reg.STN_EVENT_ARM_REFUSED).get (Reg.STN_ARM_ERR_REASON n.val) = k := by
    rw [stnEvent_get _ _ _ _ (by omega)]
    exact State.get_put_same _ _ _ (lt_rfl rfl) hlt
  have event : ((s.put (Reg.STN_ARM_ERR_REASON n.val) k).stnEvent n.val Reg.STN_EVENT_ARM_REFUSED).get (Reg.STN_EVENT_ARM_REFUSED n.val) = 1 :=
    event_get_same _ _ _ _ _ (lt_rfl rfl) rfl
  have stns : ((s.put (Reg.STN_ARM_ERR_REASON n.val) k).stnEvent n.val Reg.STN_EVENT_ARM_REFUSED).stns = s.stns := event_stns _ _ _ _ _
  split
  · have keep := Same.arrEventOff ((s.put (Reg.STN_ARM_ERR_REASON n.val) k).stnEvent n.val Reg.STN_EVENT_ARM_REFUSED)
      Reg.ARR_EVENT_SLOT_REFUSED (hostOf x.toNat).toList (by decide)
    exact ⟨(keep.get _ (by unfold offAccess; omega)).trans reason, (keep.get _ (by unfold offAccess; omega)).trans event,
      (event_stns _ _ _ _ _).trans stns, fun _ => event_get_same _ _ _ _ _ (by decide) rfl⟩
  · next h => exact ⟨reason, event, stns, fun e => absurd e h⟩

theorem exec_arm_refused {x : Sender} {n : StnId} {s : State} (hr : s.stnReaches x n.val 0 true = true) (hm : s.stnMay x n.val = true)
    (ha : s.stnArmed n.val = false) (hc : s.armReason n.val ≠ 0) (hf : (s.stn n.val).swpFrame = false) :
    ∃ t, exec (.arm x n) s = .next t ∧ t.get (Reg.STN_ARM_ERR_REASON n.val) = s.armReason n.val ∧ t.get (Reg.STN_EVENT_ARM_REFUSED n.val) = 1 ∧
      t.stn n.val = { s.stn n.val with probe := none } ∧ (∀ m, m ≠ n.val → t.stn m = s.stn m) ∧
      (s.armReason n.val = 7 → t.get Reg.ARR_EVENT_SLOT_REFUSED = 1) := by
  obtain ⟨hreason, hevent, hstns, hslot⟩ := refusedArm_facts (s := s.dropProbe n.val) x ((stnArmed_congr (dropProbe_regs s n.val) _).trans ha)
    (armReason_dropProbe s n.val) hc (armReason_lt s n.val)
  exact ⟨_, exec_arm hr hm hf, hreason, hevent, (stn_congr hstns _).trans (dropProbe_stn s n.val),
    fun m hm => (stn_congr hstns _).trans (dropProbe_stn_ne s hm), hslot⟩

/-! DISARM (R217) -/

theorem exec_disarm {x : Sender} {n : StnId} {s : State} (hr : s.stnReaches x n.val 0 true = true) (hm : s.stnMay x n.val = true) :
    exec (.disarm x n) s = .next ((s.dropArm n.val).disarm n.val).drainAdvance.settle := by
  show execDisarm x n s = _
  unfold execDisarm State.disarmReq
  rw [if_pos hr, if_pos hm]

theorem disarm_unarmed {s : State} {n : Nat} (ha : s.stnArmed n = false) : s.disarm n = s := by
  unfold State.disarm
  rw [ha]
  rfl

theorem disarm_between {s : State} {n : Nat} (ha : s.stnArmed n = true) (hf : (s.stn n).facet = none) : s.disarm n = s.disarmNow n := by
  unfold State.disarm
  rw [ha, hf]
  rfl

theorem disarm_within {s : State} {n : Nat} (ha : s.stnArmed n = true) (hf : (s.stn n).facet.isSome = true) :
    s.disarm n = s.setStn n { s.stn n with disarming := true } := by
  unfold State.disarm
  rw [ha, hf]
  rfl

/-! The end of a facet (R238, R253) -/

/-- A facet that ends with light clipped counts (R224). -/
def State.clipped (s : State) (n : Nat) : State := (s.bump (Reg.STN_SAT_COUNT n)).stnEvent n Reg.STN_EVENT_SAT

theorem clipped_facts (s : State) (n : Nat) : (s.clipped n).get (Reg.STN_EVENT_SAT n) = 1 ∧
    (s.clipped n).get (Reg.STN_SAT_COUNT n) = min (s.get (Reg.STN_SAT_COUNT n) + 1) (2 ^ 18 - 1) := by
  refine ⟨event_get_same _ _ _ _ _ (lt_rfl rfl) rfl, ?_⟩
  have apart : (Reg.STN_SAT_COUNT n).addr ≠ (Reg.STN_EVENT_SAT n).addr := by
    show 0x81D + 0x80 * n ≠ 0x803 + 0x80 * n
    omega
  exact (stnEvent_get _ _ _ _ apart).trans (State.get_bump_same _ _ (lt_rfl rfl))

theorem clipped_quiet (s : State) (n : Nat) : Quiet s (s.clipped n) :=
  (Quiet.bump s _ (.inr (by show 0x800 ≤ 0x81D + 0x80 * n; omega))).trans'
    (Quiet.event _ _ _ _ _ (.inr (by show 0x800 ≤ 0x803 + 0x80 * n; omega)))

theorem clipped_stn (s : State) (n m : Nat) : (s.clipped n).stn m = s.stn m :=
  (stnEvent_stn _ _ _ _).trans (bump_keeps (fun (t : State) => t.stn m) (fun t f v => put_stn t f v m) s _)

/-- The blocks that a facet leaves with. -/
def State.facetBlocks (s : State) (n : StnId) (f : Facet) : State :=
  if s.linkUp n.val then (s.emit (.payload n f.fseq f.sent)).emit (.facetEnd n f.fseq f.nblk) else s

def State.facetCounts (s : State) (n : StnId) (f : Facet) : State :=
  if f.clipped then (s.facetBlocks n f).clipped n.val else s.facetBlocks n f

/-- The station between facets, its history closed. -/
def Stn.between (st old : Stn) (f : Facet) : Stn :=
  { st with
    facet := none
    history := old.history.map (fun p => if p.fseq = f.fseq then { p with last := old.periods } else p) }

/-- The state once the facet's blocks have left and its sheets are stamped. -/
def State.facetStamped (s : State) (n : StnId) (f : Facet) : State :=
  ((s.facetCounts n f).setStn n.val (((s.facetCounts n f).stn n.val).between (s.stn n.val) f)).stampSheets n.val

theorem facetEnd_blocks {s : State} {n : StnId} {f : Facet} (hf : (s.stn n.val).facet = some f) :
    s.facetEnd n = if ((s.facetStamped n f).stn n.val).disarming then (s.facetStamped n f).disarmNow n.val else (s.facetStamped n f).drainCheck n.val := by
  unfold State.facetEnd
  rw [hf]
  rfl

theorem facetEnd_calm {s : State} {n : StnId} {f : Facet} (hf : (s.stn n.val).facet = some f) (hd : (s.stn n.val).disarming = false)
    (hr : (s.stn n.val).drain = none) :
    s.facetEnd n = s.facetStamped n f := by
  have counts : (s.facetCounts n f).stn n.val = s.stn n.val := by
    have blocks : (s.facetBlocks n f).stn n.val = s.stn n.val := by
      unfold State.facetBlocks
      split <;> rfl
    unfold State.facetCounts
    split
    · exact (clipped_stn _ _ _).trans blocks
    · exact blocks
  obtain ⟨-, -, hdis, hdrain, -, -⟩ := stampSheets_facts
    ((s.facetCounts n f).setStn n.val (((s.facetCounts n f).stn n.val).between (s.stn n.val) f)) n.val
  have going : ((s.facetStamped n f).stn n.val).disarming = false := hdis.trans (by rw [State.stn_setStn_same, counts]; exact hd)
  have calm : ((s.facetStamped n f).stn n.val).drain = none := hdrain.trans (by rw [State.stn_setStn_same, counts]; exact hr)
  rw [facetEnd_blocks hf, going, if_neg (by decide)]
  unfold State.drainCheck
  rw [calm]

end Sys2Proof.Machine

namespace Sys2Proof.Machine
open Sys2Proof

theorem facetBlocks_quiet (s : State) (n : StnId) (f : Facet) : Quiet s (s.facetBlocks n f) := by
  unfold State.facetBlocks
  split
  · exact (Quiet.emit _ _).trans' (Quiet.emit _ _)
  · exact Quiet.rfl' s

theorem facetCounts_quiet (s : State) (n : StnId) (f : Facet) : Quiet (s.facetBlocks n f) (s.facetCounts n f) := by
  unfold State.facetCounts
  split
  · exact clipped_quiet _ _
  · exact Quiet.rfl' _

theorem facetBlocks_sent {s : State} {n : StnId} {f : Facet} (hl : s.linkUp n.val = true) :
    .payload n f.fseq f.sent ∈ (s.facetBlocks n f).out ∧ .facetEnd n f.fseq f.nblk ∈ (s.facetBlocks n f).out := by
  unfold State.facetBlocks
  rw [if_pos hl]
  simp

/-- The end of a facet that no disarm waits for (R238, R253). -/
theorem facetEnd_facts {s : State} {n : StnId} {f : Facet} (hf : (s.stn n.val).facet = some f) (hd : (s.stn n.val).disarming = false)
    (hr : (s.stn n.val).drain = none) :
    ((s.facetEnd n).stn n.val).facet = none ∧ (s.facetEnd n).pwr = s.pwr ∧
      (s.linkUp n.val = true → .payload n f.fseq f.sent ∈ (s.facetEnd n).out ∧ .facetEnd n f.fseq f.nblk ∈ (s.facetEnd n).out) ∧
      (f.clipped = true → (s.facetEnd n).get (Reg.STN_EVENT_SAT n.val) = 1 ∧
        (s.facetEnd n).get (Reg.STN_SAT_COUNT n.val) = min (s.get (Reg.STN_SAT_COUNT n.val) + 1) (2 ^ 18 - 1)) := by
  rw [facetEnd_calm hf hd hr]
  obtain ⟨hout, hfacet, -, -, hpwr, hreg⟩ := stampSheets_facts
    ((s.facetCounts n f).setStn n.val (((s.facetCounts n f).stn n.val).between (s.stn n.val) f)) n.val
  have counts : Quiet s (s.facetCounts n f) := (facetBlocks_quiet s n f).trans' (facetCounts_quiet s n f)
  refine ⟨hfacet.trans ?_, hpwr.trans counts.pwr, fun hl => ?_, fun hc => ?_⟩
  · rw [State.stn_setStn_same]
    rfl
  · obtain ⟨hpayload, hend⟩ := facetBlocks_sent (f := f) hl
    exact ⟨hout _ ((facetCounts_quiet s n f).out _ hpayload), hout _ ((facetCounts_quiet s n f).out _ hend)⟩
  · have same : ∀ g : Fld, belowLed g.addr → (s.facetStamped n f).get g = ((s.facetBlocks n f).clipped n.val).get g := fun g hg => by
      unfold State.get
      rw [show (s.facetStamped n f).reg g.addr = _ from hreg _ hg]
      unfold State.facetCounts
      rw [if_pos hc]
      rfl
    obtain ⟨hsat, hcount⟩ := clipped_facts (s.facetBlocks n f) n.val
    have blocks : (s.facetBlocks n f).get (Reg.STN_SAT_COUNT n.val) = s.get (Reg.STN_SAT_COUNT n.val) := by
      unfold State.facetBlocks
      split <;> rfl
    have satAddr : (Reg.STN_EVENT_SAT n.val).addr = 0x803 + 0x80 * n.val := rfl
    have countAddr : (Reg.STN_SAT_COUNT n.val).addr = 0x81D + 0x80 * n.val := rfl
    rw [blocks] at hcount
    exact ⟨(same _ (by unfold belowLed; omega)).trans hsat, (same _ (by unfold belowLed; omega)).trans hcount⟩

/-! Line fetches (R214, R394) -/

theorem Same.rasterCw (s : State) (cw : Nat) : Same offAccess s (s.rasterCw cw).1 := by
  unfold State.rasterCw
  dsimp only
  split
  · exact Same.touch s cw
  · exact Same.touch s cw

theorem Same.rasterCws (k : Nat) : ∀ (s : State) (cw : Nat), Same offAccess s (s.rasterCws k cw).1 := by
  induction k with
  | zero => exact fun s _ => Same.rfl' s
  | succ k ih => exact fun s cw => (Same.rasterCw s cw).trans' (ih _ _)

theorem upsets_stn (s : State) (us : List Upset) (a b n : Nat) : (s.upsets us a b).stn n = s.stn n :=
  upsets_keeps (fun t => t.stn n) (by intros; rfl) s us a b

/-- The line that is fetched joins the buffer (R214). -/
def Stn.buffers (st : Stn) (l : Int) (bytes : List Byte) : Stn := { st with buffer := st.buffer ++ [(l, bytes)] }

theorem lineFetch_line {n : StnId} {ups : List Upset} {s b : State} {l : Int} {g : Sheet} {cw : Nat} (ha : s.stnArmed n.val = true)
    (hg : (s.stn n.val).nextFetch = some (l, g)) (hb : (s.stn n.val).buffer.length < 160)
    (hcw : cw = (s.ringBase n.val + (g.pos + (l - g.origin).toNat) % s.ringSize n.val * s.lineBytes n.val) / 8)
    (hup : b = s.upsets ups cw (cw + s.lineBytes n.val / 8 - 1)) {r : State × List Byte × Bool} (hr : b.rasterCws (s.lineBytes n.val / 8) cw = r) :
    s.lineFetch n.val ups =
      if r.2.2 then (r.1.setStn n.val ((s.stn n.val).buffers l r.2.1)).stnSpoil n.val [g.rec_] 13 else r.1.setStn n.val ((s.stn n.val).buffers l r.2.1) := by
  have stn : r.1.stn n.val = s.stn n.val := by
    rw [← hr, (Same.rasterCws _ b cw).stn, hup, upsets_stn]
  unfold State.lineFetch
  dsimp only
  rw [hg]
  dsimp only
  rw [if_pos ⟨ha, hb⟩, ← hcw, ← hup, hr, stn]
  rfl

theorem exec_lineFetch {n : StnId} {ups : List Upset} {s b : State} {l : Int} {g : Sheet} {cw : Nat} (hs : s.serving = true) (ha : s.stnArmed n.val = true)
    (hg : (s.stn n.val).nextFetch = some (l, g)) (hb : (s.stn n.val).buffer.length < 160)
    (hcw : cw = (s.ringBase n.val + (g.pos + (l - g.origin).toNat) % s.ringSize n.val * s.lineBytes n.val) / 8)
    (hup : b = s.upsets ups cw (cw + s.lineBytes n.val / 8 - 1)) :
    ∃ t, exec (.lineFetch n ups) s = .next t ∧ (t.stn n.val).buffer = (s.stn n.val).buffer ++ [(l, (b.rasterCws (s.lineBytes n.val / 8) cw).2.1)] ∧
      ((b.rasterCws (s.lineBytes n.val / 8) cw).2.2 = false → t = (b.rasterCws (s.lineBytes n.val / 8) cw).1.setStn n.val
        { s.stn n.val with buffer := (s.stn n.val).buffer ++ [(l, (b.rasterCws (s.lineBytes n.val / 8) cw).2.1)] }) := by
  refine ⟨s.lineFetch n.val ups, congrArg Host.Outcome.next (if_pos hs), ?_⟩
  generalize hr : b.rasterCws (s.lineBytes n.val / 8) cw = r
  rw [lineFetch_line ha hg hb hcw hup hr]
  refine ⟨?_, fun h => ?_⟩
  · split
    · rw [(Same.stnSpoil _ _ _ _).stn, State.stn_setStn_same]
      rfl
    · rw [State.stn_setStn_same]
      rfl
  · rw [if_neg (by rw [h]; decide)]
    rfl

/-- A plain word of 16 bits, as its two bytes (R80). -/
theorem word_bytes {w : Word} (hw : w.toNat < 0x10000) : w.getLsbD 17 = false ∧ w.getLsbD 16 = false ∧
    w.setWidth 8 = BitVec.ofNat 8 (w.toNat / 256 ^ 0) ∧ (w >>> 8).setWidth 8 = BitVec.ofNat 8 (w.toNat / 256 ^ 1) := by
  have high : ∀ i, 16 ≤ i → w.getLsbD i = false := fun i hi => by
    rw [← BitVec.testBit_toNat]
    exact Nat.testBit_lt_two_pow (Nat.lt_of_lt_of_le hw (Nat.pow_le_pow_right (show 0 < 2 by decide) hi))
  refine ⟨high 17 (by decide), high 16 (by decide), BitVec.eq_of_toNat_eq ?_, BitVec.eq_of_toNat_eq ?_⟩
  · simp [BitVec.toNat_setWidth]
  · simp [BitVec.toNat_setWidth, BitVec.toNat_ushiftRight, Nat.shiftRight_eq_div_pow]

theorem rasterCw_sound {s : State} {cw : Nat} (he : (s.cwImage cw).eccOf (cwIndex cw) = 0)
    (hw : ∀ k, k < 4 → ((s.cwImage cw).word (4 * cwIndex cw + k)).toNat < 0x10000) :
    s.rasterCw cw = (s.access (s.cwOwner cw) cw,
      (List.range 8).map (fun k => BitVec.ofNat 8 (((s.cwImage cw).word (4 * cwIndex cw + k / 2)).toNat / 256 ^ (k % 2))), false) := by
  obtain ⟨p0, q0, lo0, hi0⟩ := word_bytes (hw 0 (by decide))
  obtain ⟨p1, q1, lo1, hi1⟩ := word_bytes (hw 1 (by decide))
  obtain ⟨p2, q2, lo2, hi2⟩ := word_bytes (hw 2 (by decide))
  obtain ⟨p3, q3, lo3, hi3⟩ := word_bytes (hw 3 (by decide))
  unfold State.rasterCw
  rw [touch_sound s cw he]
  dsimp only
  rw [if_neg (by decide)]
  simp only [List.map_cons, List.map_nil, List.flatMap_cons, List.flatMap_nil, List.any_cons, List.any_nil, p0, q0, lo0, hi0, p1, q1, lo1, hi1,
    p2, q2, lo2, hi2, p3, q3, lo3, hi3, Bool.or_self, Bool.false_eq_true, if_false]
  rfl

/-! Blanking and the table banks (R231, R235) -/

theorem exec_cutoffBlank {n : StnId} {s : State} {f : Facet} {first : Nat} (hs : s.serving = true) (hb : (s.stn n.val).blankDue = true)
    (hf : (s.stn n.val).facet = some f) (hc : f.cut = none) : exec (.cutoffBlank n first) s = .next (s.setStn n.val
      { s.stn n.val with blankDue := false, facet := some { f with cut := some (min f.nblk first) } }) := by
  have blank : s.blankFrom n.val first = s.setStn n.val { s.stn n.val with facet := some { f with cut := some (min f.nblk first) } } := by
    unfold State.blankFrom
    rw [hf]
    dsimp only
    rw [hc]
    rfl
  show execCutoffBlank n s first = _
  unfold execCutoffBlank
  rw [if_pos ⟨hs, hb⟩, blank]
  dsimp only
  rw [State.stn_setStn_same, setStn_setStn]

theorem mem_maskTables (mask t : Nat) : t ∈ maskTables mask ↔ t < 5 ∧ bit mask t = true := by
  unfold maskTables
  rw [List.mem_filter, List.mem_range]

/-- REVERT sends the tables named, but those in use, to COPYING. -/
theorem reverts_facts (n : Nat) : ∀ (ts : List Nat) (s : State), (ts.foldl (fun (u : State) t => u.revertOne n t) s).regs = s.regs ∧
    ∀ k, ((ts.foldl (fun (u : State) t => u.revertOne n t) s).stn n).table k =
      if k ∈ ts ∧ s.tableInUse n k = false then { (s.stn n).table k with state := .copying } else (s.stn n).table k := by
  intro ts
  induction ts with
  | nil => exact fun s => ⟨rfl, fun k => (if_neg (fun h => absurd h.1 List.not_mem_nil)).symm⟩
  | cons t ts ih =>
    intro s
    rw [List.foldl_cons]
    obtain ⟨hregs, htable⟩ := ih (s.revertOne n t)
    have use : ∀ k, (s.revertOne n t).tableInUse n k = s.tableInUse n k := fun k => by
      unfold State.revertOne
      split <;> rfl
    have one : (s.revertOne n t).regs = s.regs := by
      unfold State.revertOne
      split <;> rfl
    have table : ∀ k, ((s.revertOne n t).stn n).table k =
        if k = t ∧ s.tableInUse n k = false then { (s.stn n).table k with state := .copying } else (s.stn n).table k := fun k => by
      unfold State.revertOne
      cases hu : s.tableInUse n t with
      | true =>
        rw [if_pos rfl, if_neg (fun h => by rw [h.1, hu] at h; exact absurd h.2 (by decide))]
      | false =>
        rw [if_neg (by decide), State.stn_setStn_same]
        by_cases e : k = t
        · subst e
          rw [if_pos ⟨rfl, hu⟩, Stn.table_setTable_same]
        · rw [if_neg (fun h => e h.1), Stn.table_setTable_ne _ _ e]
    refine ⟨hregs.trans one, fun k => ?_⟩
    rw [htable k, use k, table k]
    by_cases hu : s.tableInUse n k = false
    · by_cases hk : k = t
      · rw [if_pos (show k = t ∧ _ from ⟨hk, hu⟩), if_pos (show k ∈ t :: ts ∧ _ from ⟨hk ▸ List.mem_cons_self, hu⟩)]
        split <;> rfl
      · rw [if_neg (fun h : k = t ∧ _ => hk h.1)]
        exact if_congr (by rw [List.mem_cons, or_iff_right hk]) rfl rfl
    · rw [if_neg (fun h => hu h.2), if_neg (fun h => hu h.2), if_neg (fun h => hu h.2)]

theorem exec_revert {x : Sender} {n : StnId} {mask : BitVec 5} {s : State} (hr : s.stnReaches x n.val 0x1A true = true) (hm : s.stnMay x n.val = true) :
    ∃ t, exec (.revert x n mask) s = .next t ∧ t.regs = s.regs ∧
      ∀ k, ((t.stn n.val).table k) = if k < 5 ∧ bit mask.toNat k = true ∧ s.tableInUse n.val k = false
        then { (s.stn n.val).table k with state := .copying } else (s.stn n.val).table k := by
  obtain ⟨hregs, htable⟩ := reverts_facts n.val (maskTables mask.toNat) s
  refine ⟨_, ?_, hregs, fun k => (htable k).trans (if_congr ?_ rfl rfl)⟩
  · show execRevert x n mask s = _
    unfold execRevert State.revertReq
    rw [if_pos hr, if_pos hm]
  · rw [mem_maskTables, and_assoc]

theorem exec_copyingDone {n : StnId} {k : Fin 5} {s : State} (hs : s.serving = true) (hk : ((s.stn n.val).table k.val).state = .copying) :
    ∃ u : State, exec (.copyingDone n k) s = .next u.settle ∧ u.regs = s.regs ∧ u.flights = s.flights ∧
      (u.stn n.val).table k.val = { (s.stn n.val).table k.val with idle := ((s.stn n.val).table k.val).active, state := .same } ∧
      ∀ m, m ≠ k.val → (u.stn n.val).table m = (s.stn n.val).table m := by
  refine ⟨s.setStn n.val ((s.stn n.val).setTable k.val
    { (s.stn n.val).table k.val with idle := ((s.stn n.val).table k.val).active, state := .same }), ?_, rfl, rfl, ?_, fun m hm => ?_⟩
  · show execCopyingDone n k s = _
    unfold execCopyingDone State.copyDone
    dsimp only
    rw [if_pos hs, if_pos hk]
  · rw [State.stn_setStn_same, Stn.table_setTable_same]
  · rw [State.stn_setStn_same, Stn.table_setTable_ne _ _ hm]

/-- Settles O20: each command of a station's arming, facets, lines and tables, by what it writes in the station's record. -/
theorem armingAndTables : Obligations.ArmingAndTables := by
  unfold Obligations.ArmingAndTables
  refine ⟨fun x n s hr hm ha hc hf => exec_arm_accepted hr hm ha hc hf, fun x n s hr hm ha hc hf => exec_arm_refused hr hm ha hc hf,
    fun x n s hr hm hf => exec_arm_waits hr hm hf, fun x n s hr hm ha => ?_, fun x n s hr hm ha hf => ?_, fun x n s hr hm ha hf => ?_,
    fun n s f hs hf hd hdr => ?_, fun n ups s b l g cw _ hs ha hg hb hcw hup => exec_lineFetch hs ha hg hb hcw hup,
    fun s cw he hw => rasterCw_sound he hw, fun n s f first hs hb hf hc => exec_cutoffBlank hs hb hf hc,
    fun x n mask s hr hm => exec_revert hr hm, fun n k s hs hk => exec_copyingDone hs hk⟩
  · refine ⟨_, exec_disarm hr hm, ?_⟩
    rw [disarm_unarmed ((stnArmed_congr (dropArm_regs s n.val) _).trans ha)]
    exact ⟨dropArm_regs s n.val, dropArm_stn s n.val⟩
  · refine ⟨_, exec_disarm hr hm, ?_⟩
    rw [disarm_between ((stnArmed_congr (dropArm_regs s n.val) _).trans ha) (by rw [dropArm_stn]; exact hf)]
    obtain ⟨harmed, hstalled, hsheets, hbuffer, hwin, hreserved, -, hpwr⟩ := disarmNow_facts (s.dropArm n.val) n.val
    exact ⟨harmed, hstalled, hsheets, hbuffer, hwin, hreserved, hpwr.trans (dropArm_pwr s n.val)⟩
  · refine ⟨_, exec_disarm hr hm, ?_⟩
    rw [disarm_within ((stnArmed_congr (dropArm_regs s n.val) _).trans ha) (by rw [dropArm_stn]; exact hf)]
    exact ⟨dropArm_regs s n.val, by rw [State.stn_setStn_same, dropArm_stn]⟩
  · exact ⟨_, congrArg Host.Outcome.next (if_pos hs), facetEnd_facts hf hd hdr⟩

end Sys2Proof.Machine

namespace Sys2Proof.Machine
open Sys2Proof

/-! The number of descriptors in progress while they go on: O18 -/

/-- Descriptors in progress, or ended and not yet written. -/
def State.load (s : State) : Nat := s.flights.length

theorem load_of_flights {s t : State} (h : t.flights = s.flights) : t.load = s.load := congrArg List.length h

theorem Quiet.load {s t : State} (h : Quiet s t) : t.load = s.load := load_of_flights h.flights

theorem setFlight_load (s : State) (i : Nat) (f : Flight) : (s.setFlight i f).load = s.load := List.length_set

theorem fixFlight_load (s : State) (i : Nat) (c : Compl) : (s.fixFlight i c).load = s.load :=
  fixFlight_keeps State.load setFlight_load s i c

theorem holdFlight_load (s : State) (i : Nat) (f : Flight) : (s.holdFlight i f).load = s.load := setFlight_load _ _ _

theorem stopFlight_load (s : State) (i : Nat) (f : Flight) (st : Byte) : (s.stopFlight i f st).load = s.load :=
  (fixFlight_load _ _ _).trans (load_of_flights (undo_flights s i f))

/-! Accesses to codewords -/

theorem Quiet.cover (s : State) (cw : Nat) : Quiet s (s.cover cw).1 := Quiet.access _ _ _

theorem Quiet.writeCw (s : State) (cw : Nat) (bs : List (Option Byte)) (p : Bool) (m : Met) : Quiet s (s.writeCw cw bs p m).1 := by
  unfold State.writeCw
  dsimp only
  refine Quiet.trans' ?_ (Quiet.setCwImage _ _ _)
  split
  · exact Quiet.cover s cw
  · exact Quiet.touch s cw

theorem Quiet.writeCws (n : Nat) : ∀ (s : State) (cw : Nat) (bs : List (Option Byte)) (p : Bool) (m : Met), Quiet s (s.writeCws n cw bs p m).1 := by
  induction n with
  | zero => exact fun s _ _ _ _ => Quiet.rfl' s
  | succ n ih => exact fun s cw bs p m => (Quiet.writeCw s cw _ p m).trans' (ih _ _ _ _ _)

theorem Quiet.writeBytes (s : State) (a : Nat) (bs : List Byte) (p : Bool) (m : Met) : Quiet s (s.writeBytes a bs p m).1 := by
  unfold State.writeBytes
  split
  · exact Quiet.rfl' s
  · exact Quiet.writeCws _ _ _ _ _ _

theorem Quiet.readCw (s : State) (cw : Nat) (m : Met) : Quiet s (s.readCw cw m).1 := by
  unfold State.readCw
  dsimp only
  split
  · exact Quiet.touch s cw
  · exact Quiet.touch s cw

theorem Quiet.readCws (n : Nat) : ∀ (s : State) (cw : Nat) (m : Met), Quiet s (s.readCws n cw m).1 := by
  induction n with
  | zero => exact fun s _ _ => Quiet.rfl' s
  | succ n ih => exact fun s cw m => (Quiet.readCw s cw m).trans' (ih _ _ _)

theorem Quiet.readBytes (s : State) (a n : Nat) (m : Met) : Quiet s (s.readBytes a n m).1 := Quiet.readCws _ _ _ _

theorem Quiet.readMarked (s : State) (a n : Nat) (m : Met) : Quiet s (s.readMarked a n m).1 := by
  have go : ∀ (is : List Nat) (f : State × List (Byte × Bool) × Met → Nat → State × List (Byte × Bool) × Met),
      (∀ acc i, Quiet acc.1 (f acc i).1) → ∀ acc, Quiet acc.1 (is.foldl f acc).1 := by
    intro is f hf
    induction is with
    | nil => exact fun acc => Quiet.rfl' acc.1
    | cons i is ih => exact fun acc => (hf acc i).trans' (ih _)
  exact go _ _ (fun acc i => Quiet.readCw acc.1 _ _) (s, [], m)

theorem Quiet.poisonBytes (s : State) (a : Nat) (fl : List Bool) : Quiet s (s.poisonBytes a fl) :=
  Quiet.fold (fun t _ => Quiet.setCwImage t _ _) _ s

theorem Quiet.wipeCws (n : Nat) : ∀ (s : State) (cw : Nat), Quiet s (s.wipeCws n cw) := by
  induction n with
  | zero => exact fun s _ => Quiet.rfl' s
  | succ n ih => exact fun s cw => ((Quiet.cover s cw).trans' (Quiet.setCwImage _ _ _)).trans' (ih _ _)

theorem Quiet.readW18s (n : Nat) : ∀ (s : State) (w : Nat) (m : Met), Quiet s (s.readW18s n w m).1 := by
  induction n with
  | zero => exact fun s _ _ => Quiet.rfl' s
  | succ n ih => exact fun s w m => (Quiet.touch s _).trans' (ih _ _ _)

theorem Quiet.writeW18cw (s : State) (cw k : Nat) (vs : List Word) (m : Met) : Quiet s (s.writeW18cw cw k vs m).1 := by
  unfold State.writeW18cw
  dsimp only
  refine Quiet.trans' ?_ (Quiet.setCwImage _ _ _)
  split
  · exact Quiet.cover s cw
  · exact Quiet.touch s cw

theorem Quiet.writeW18s (n : Nat) : ∀ (s : State) (w : Nat) (vs : List Word) (m : Met), Quiet s (s.writeW18s n w vs m).1 := by
  induction n with
  | zero => exact fun s _ _ _ => Quiet.rfl' s
  | succ n ih =>
    intro s w vs m
    unfold State.writeW18s
    split
    · exact Quiet.rfl' s
    · exact (Quiet.writeW18cw s _ _ _ m).trans' (ih _ _ _ _)

theorem toHost_load (s : State) (h : PHost) (a : Nat) (bs : List Byte) : (s.toHost h a bs).load = s.load := by
  unfold State.toHost
  split <;> rfl

/-! Each opcode's step -/

theorem placed_load (s : State) (i : Nat) (f : Flight) : (s.placed i f).load = s.load := by
  unfold State.placed
  split
  · exact fixFlight_load _ _ _
  · split
    · exact (fixFlight_load _ _ _).trans (setFlight_load _ _ _)
    · exact setFlight_load _ _ _

theorem placeWrite_load (s : State) (i : Nat) (f : Flight) : (s.placeWrite i f).load = s.load := by
  unfold State.placeWrite
  extract_lets addr k
  split
  · exact holdFlight_load _ _ _
  · exact (placed_load _ _ _).trans ((Quiet.writeBytes s _ _ _ _).trans' (Quiet.writeBytes _ _ _ _ _)).load

theorem placeW18_load (s : State) (i : Nat) (f : Flight) : (s.placeW18 i f).load = s.load := by
  unfold State.placeW18
  extract_lets w m k
  split
  · exact holdFlight_load _ _ _
  · exact (placed_load _ _ _).trans (Quiet.writeW18s _ s _ _ _).load

theorem doRead_load (s : State) (i : Nat) (f : Flight) : (s.doRead i f).load = s.load := by
  unfold State.doRead
  dsimp only
  split
  · exact holdFlight_load _ _ _
  · exact (fixFlight_load _ _ _).trans ((toHost_load _ _ _ _).trans (Quiet.readBytes s _ _ _).load)

theorem doReadW18_load (s : State) (i : Nat) (f : Flight) : (s.doReadW18 i f).load = s.load := by
  unfold State.doReadW18
  dsimp only
  split
  · exact holdFlight_load _ _ _
  · exact (fixFlight_load _ _ _).trans ((toHost_load _ _ _ _).trans (Quiet.readW18s _ s _ _).load)

theorem doCopy_load (s : State) (i : Nat) (f : Flight) : (s.doCopy i f).load = s.load := by
  unfold State.doCopy
  dsimp only
  split
  · exact holdFlight_load _ _ _
  · exact (fixFlight_load _ _ _).trans
      (((Quiet.readMarked s _ _ _).trans' (Quiet.writeBytes _ _ _ _ _)).trans' (Quiet.poisonBytes _ _ _)).load

theorem doFill_load (s : State) (i : Nat) (f : Flight) : (s.doFill i f).load = s.load := by
  unfold State.doFill
  dsimp only
  split
  · exact holdFlight_load _ _ _
  · split
    · exact (fixFlight_load _ _ _).trans (Quiet.wipeCws _ s _).load
    · exact (fixFlight_load _ _ _).trans (Quiet.writeBytes s _ _ _ _).load

theorem placeTable_load (s : State) (i : Nat) (f : Flight) : (s.placeTable i f).load = s.load := by
  unfold State.placeTable
  dsimp only
  split
  · exact holdFlight_load _ _ _
  · split
    · exact fixFlight_load _ _ _
    · split
      · exact fixFlight_load _ _ _
      · split
        · refine (fixFlight_load _ _ _).trans ?_
          split <;> rfl
        · exact setFlight_load _ _ _

theorem swapNow_load (s : State) (i : Nat) (f : Flight) : (s.swapNow i f).load = s.load :=
  (fixFlight_load _ _ _).trans (load_of_flights (swapTables_facts s f.d.stn f.d.mask).1)

theorem moveStart_load (s : State) (i : Nat) (f : Flight) : (s.moveStart i f).load = s.load := by
  unfold State.moveStart
  dsimp only
  split
  · refine (setFlight_load _ _ _).trans ?_
    exact ((Quiet.yieldWindow _ _).trans' (Quiet.yieldWindow _ _)).load
  · exact fixFlight_load _ _ _

theorem doRaster_load (s : State) (i : Nat) (f : Flight) : (s.doRaster i f).load = s.load := by
  unfold State.doRaster
  split
  · exact stopFlight_load _ _ _ _
  · split
    · split
      · exact stopFlight_load _ _ _ _
      · rfl
    · split
      · exact holdFlight_load _ _ _
      · split
        · exact fixFlight_load _ _ _
        · refine (setFlight_load _ _ _).trans ?_
          obtain ⟨m, e⟩ := (rasterAccept_facts s f.d _).1
          rw [e]
          rfl

theorem holdLedger_load (s : State) (i : Nat) (f : Flight) : (s.holdLedger i f).load = s.load := by
  unfold State.holdLedger
  dsimp only
  split
  · exact holdFlight_load _ _ _
  · exact holdFlight_load s i f

theorem ledEvent_load (s : State) (ev : Fld) : (s.ledEvent ev).load = s.load := load_of_flights (event_flights _ _ _ _ _)

theorem doOpen_load (s : State) (i : Nat) (f : Flight) : (s.doOpen i f).load = s.load := by
  unfold State.doOpen
  split
  · exact holdFlight_load _ _ _
  · split
    · exact holdLedger_load _ _ _
    · split
      · exact fixFlight_load _ _ _
      · split
        · exact (ledEvent_load _ _).trans (fixFlight_load _ _ _)
        · split
          · exact fixFlight_load _ _ _
          · refine (fixFlight_load _ _ _).trans ?_
            have record (r : Nat) (x : Rec) : ((s.meetRec r).setRecord r x).load = s.load :=
              ((Quiet.meetRec s r).trans' (Quiet.setRecord _ _ _)).load
            split
            · exact (ledEvent_load _ _).trans (record _ _)
            · exact record _ _

theorem doStage_load (s : State) (i : Nat) (f : Flight) : (s.doStage i f).load = s.load := by
  unfold State.doStage
  split
  · exact holdFlight_load _ _ _
  · split
    · exact holdLedger_load _ _ _
    · split
      · exact fixFlight_load _ _ _
      · split
        · exact (fixFlight_load _ _ _).trans (Quiet.meetRec s _).load
        · next t ht => exact (fixFlight_load _ _ _).trans ((Quiet.meetRec s _).trans' (Quiet.stageStamp _ _ _ _ t ht)).load

theorem doQuery_load (s : State) (i : Nat) (f : Flight) : (s.doQuery i f).load = s.load := by
  unfold State.doQuery
  split
  · exact holdFlight_load _ _ _
  · split
    · exact fixFlight_load _ _ _
    · refine (fixFlight_load _ _ _).trans ?_
      split
      · exact (Quiet.meetRec s _).load
      · exact (toHost_load _ _ _ _).trans (Quiet.meetRec s _).load

theorem doCounters_load (s : State) (i : Nat) (f : Flight) : (s.doCounters i f).load = s.load := by
  unfold State.doCounters
  split
  · exact holdFlight_load _ _ _
  · split
    · exact (fixFlight_load _ _ _).trans (toHost_load _ _ _ _)
    · exact fixFlight_load _ _ _

theorem doKeepRead_load (s : State) (i : Nat) (f : Flight) : (s.doKeepRead i f).load = s.load := by
  unfold State.doKeepRead
  dsimp only
  split
  · exact setFlight_load _ _ _
  · exact (fixFlight_load _ _ _).trans (toHost_load _ _ _ _)

theorem doGet_load (s : State) (i : Nat) (f : Flight) : (s.doGet i f).load = s.load := by
  unfold State.doGet
  dsimp only
  split
  · exact setFlight_load _ _ _
  · split
    · exact fixFlight_load _ _ _
    · exact (fixFlight_load _ _ _).trans (toHost_load _ _ _ _)

theorem doKeepWrite_load (s : State) (i : Nat) (f : Flight) : (s.doKeepWrite i f).load = s.load := by
  unfold State.doKeepWrite
  split
  · exact fixFlight_load _ _ _
  · split
    · exact setFlight_load _ _ _
    · split
      · exact setFlight_load _ _ _
      · split
        · exact setFlight_load _ _ _
        · dsimp only
          split
          · exact fixFlight_load _ _ _
          · exact setFlight_load _ _ _

theorem doAbort_load (s : State) (i : Nat) (f : Flight) : (s.doAbort i f).load = s.load := by
  unfold State.doAbort
  dsimp only
  split
  · exact (fixFlight_load _ _ _).trans (stopFlight_load _ _ _ _)
  · exact fixFlight_load _ _ _

end Sys2Proof.Machine

namespace Sys2Proof.Machine
open Sys2Proof

theorem advance_load (s : State) (i : Nat) : (s.advance i).load = s.load := by
  unfold State.advance
  split
  · rfl
  · next f _ =>
    split
    · rfl
    · split
      · split
        · rfl
        · exact (fixFlight_load _ _ _).trans (load_of_flights (undo_flights s i f))
      · split
        · exact fixFlight_load _ _ _
        · split
          · exact placeWrite_load _ _ _
          · rfl
        · exact doRead_load _ _ _
        · exact doCopy_load _ _ _
        · exact doFill_load _ _ _
        · split
          · exact moveStart_load _ _ _
          · rfl
        · split
          · exact placeW18_load _ _ _
          · rfl
        · exact doReadW18_load _ _ _
        · exact doRaster_load _ _ _
        · split
          · exact placeTable_load _ _ _
          · rfl
        · split
          · exact setFlight_load _ _ _
          · split
            · exact swapNow_load _ _ _
            · rfl
        · exact doOpen_load _ _ _
        · exact doStage_load _ _ _
        · exact doQuery_load _ _ _
        · exact doCounters_load _ _ _
        · exact doKeepRead_load _ _ _
        · exact doKeepWrite_load _ _ _
        · exact doKeepWrite_load _ _ _
        · exact doGet_load _ _ _
        · exact fixFlight_load _ _ _
        · exact (fixFlight_load _ _ _).trans (timeSet_facts s _).1.load
        · exact setFlight_load _ _ _
        · exact doAbort_load _ _ _
        · exact fixFlight_load _ _ _

theorem advanceAll_load (s : State) : s.advanceAll.load = s.load := foldl_keeps State.load advance_load _ _

theorem askData_load (s : State) (i : Nat) : (s.askData i).load = s.load := by
  unfold State.askData
  split
  · rfl
  · split
    · exact setFlight_load _ _ _
    · rfl

theorem askAll_load (s : State) : s.askAll.load = s.load := foldl_keeps State.load askData_load _ _

/-! Completions and fetches leave every link as it was -/

def State.links (s : State) (g : PHost) : Bool := (s.host g).up

theorem setHost_links (s : State) (h : PHost) (p : HostPort) (g : PHost) (hp : p.up = s.links h) : (s.setHost h p).links g = s.links g := by
  unfold State.links
  by_cases e : g = h
  · subst e
    rw [State.host_setHost_same]
    exact hp
  · rw [State.host_setHost_ne _ _ e]

theorem cqCount_links (s : State) (h : PHost) (q : Nat) (g : PHost) : (s.cqCount h q).links g = s.links g := by
  unfold State.cqCount State.cqSend
  dsimp only
  split
  · refine ((Quiet.msix _ _ _).up g).trans ((setHost_links _ _ _ _ (by rfl)).trans (setHost_links _ _ _ _ (by rfl)))
  · exact setHost_links _ _ _ _ (by rfl)

theorem writeCompl_links (s : State) (h : PHost) (q j : Ring) (tag : BitVec 16) (c : Compl) (r e : Bool) (g : PHost) :
    (s.writeCompl h q j tag c r e).links g = s.links g :=
  (cqCount_links _ _ _ _).trans (setHost_links s h { s.host h with l1 := false } g rfl)

theorem retireSq_links (h : PHost) (j : Ring) (g : PHost) (n : Nat) : ∀ s : State, (s.retireSq h j n).links g = s.links g := by
  induction n with
  | zero => exact fun _ => rfl
  | succ n ih =>
    intro s
    unfold State.retireSq
    split
    · split
      · dsimp only
        refine (ih _).trans ?_
        split
        · exact writeCompl_links _ _ _ _ _ _ _ _ _
        · rfl
      · rfl
    · rfl

theorem settleSq_links (s : State) (h : PHost) (j : Nat) (g : PHost) : (s.settleSq h j).links g = s.links g := by
  unfold State.links State.host
  rw [(settleSq_facts s h j).2.2.1]

theorem retireAll_links (s : State) (g : PHost) : s.retireAll.links g = s.links g := by
  refine foldl_keeps (fun (t : State) => t.links g) (f := State.retireHost) (fun t h => ?_) _ _
  unfold State.retireHost
  split
  · exact foldl_keeps (fun (u : State) => u.links g) (f := fun (u : State) (j : Ring) => (u.retireSq h j u.flights.length).settleSq h j.val)
      (fun u j => (settleSq_links _ _ _ _).trans (retireSq_links h j g _ u)) _ _
  · rfl

theorem fetchTurn_links (s : State) (h : PHost) (j : Ring) (g : PHost) : (s.fetchTurn h j).links g = s.links g :=
  (setHost_links _ _ _ _ (by rfl)).trans (setHost_links s h { s.host h with l1 := false } g rfl)

theorem issueFetches_links (s : State) (h g : PHost) : (s.issueFetches h).links g = s.links g :=
  issueFetches_keeps (fun t => t.links g = s.links g) (fun t k j ht => (fetchTurn_links t k j g).trans ht)
    (fun t k _ _ ht => (setHost_links t k _ g (by rfl)).trans ht) s h rfl

theorem issueFetches_flights (s : State) (h : PHost) : (s.issueFetches h).flights = s.flights :=
  issueFetches_keeps (fun t => t.flights = s.flights) (fun t k j ht => (fetchTurn_facts t k j).2.1.trans ht) (fun _ _ _ _ ht => ht) s h rfl

/-- Where no link is up no completion is written. -/
theorem retireAll_dark {s : State} (hd : ∀ g, s.links g = false) : s.retireAll = s := by
  have one : ∀ h, s.retireHost h = s := fun h => by
    have shut : s.linkOpen h = false := by
      unfold State.linkOpen
      rw [show (s.host h).up = false from hd h, Bool.and_false, Bool.false_and]
    unfold State.retireHost
    rw [if_neg (by rw [shut]; decide)]
  unfold State.retireAll
  simp only [List.foldl_cons, List.foldl_nil, one]

theorem settle_serving {s : State} (hs : s.serving = true) : s.settle = ((s.askAll.advanceAll.retireAll).issueFetches 0).issueFetches 2 := if_pos hs

theorem settle_links {s : State} (hs : s.serving = true) (g : PHost) : s.settle.links g = s.askAll.advanceAll.links g := by
  rw [settle_serving hs, issueFetches_links, issueFetches_links, retireAll_links]

/-- With no link up, settling drops no descriptor. -/
theorem settle_flights_dark {s : State} (hs : s.serving = true) (hd : ∀ g, s.settle.links g = false) :
    s.settle.flights = s.askAll.advanceAll.flights := by
  rw [settle_serving hs, issueFetches_flights, issueFetches_flights, retireAll_dark (fun g => (settle_links hs g).symm.trans (hd g))]

/-- A lone descriptor that has ended does not move. -/
theorem settle_step_ended {s : State} {f : Flight} {c : Compl} (hf : s.flights = [f]) (hc : f.compl = some c) : s.askAll.advanceAll = s := by
  rw [askAll_idle s f hf (lacks_fixed hc), advanceAll_one s f hf]
  unfold State.advance
  rw [hf]
  simp [hc]

/-- If one descriptor is left where no link is up, and the first one had ended before, it is that one. -/
theorem ended_of_settle {s : State} {f g : Flight} {c : Compl} (hs : s.serving = true) (hd : ∀ h, s.settle.links h = false)
    (hf : s.settle.flights = [f]) (hg : s.flights[0]? = some g) (hc : g.compl = some c) : g = f := by
  have kept := settle_flights_dark hs hd
  have one : s.flights.length = 1 := by
    have h := (advanceAll_load s.askAll).trans (askAll_load s)
    unfold State.load at h
    rw [← h, ← kept, hf]
    rfl
  have lone : s.flights = [g] := by
    obtain ⟨x, hx⟩ := List.length_eq_one_iff.mp one
    rw [hx] at hg ⊢
    exact congrArg (fun y => [y]) (Option.some.inj hg)
  rw [settle_step_ended lone hc, lone, hf] at kept
  exact (List.cons.inj kept).1.symm

/-! A MOVE of entry 1 whose host's link is down -/

/-- The MOVE's descriptor, in its copy phase. -/
def stalledFlight : Flight := { host := 0, sq := 0, op := .move, d := {}, stage := .moveCopy, result := 1 }

/-- RUN, with a MOVE of region 2 into region 3 by entry 1, and no link up. -/
def stalledMove : State :=
  { regs := [(0x411, BitVec.ofNat 18 (1 * 2 ^ 15 + 1 * 2 ^ 12 + 3 * 2 ^ 6 + 2))], pwr := { st := .run }, flights := [stalledFlight] }

/-- The descriptor as the timeout ends it: RESULT is the entry. -/
def timedOut : Flight := { stalledFlight with compl := some { status := Status.timeout, result := 1#64 }, committed := true, stage := .done }

def State.stalledEnd : State := stalledMove.stopFlight 0 stalledFlight Status.timeout

theorem stalledEnd_flights : State.stalledEnd.flights = [timedOut] := by
  unfold State.stalledEnd State.stopFlight
  rw [fixFlight_one _ stalledFlight _ (undo_flights _ _ _)]
  rfl

theorem stalledEnd_serving : State.stalledEnd.serving = true := by decide

theorem stalledEnd_links (g : PHost) : State.stalledEnd.links g = false := by
  revert g
  decide

theorem exec_stalledMove : exec (.moveTimeout 1) stalledMove = .next State.stalledEnd.settle := by
  show execMoveTimeout 1 stalledMove = _
  unfold execMoveTimeout
  rw [show stalledMove.moveFlight (1 : Fin 8).val = some (0, stalledFlight) by decide]
  rfl

theorem stalledEnd_settled : State.stalledEnd.settle.flights = [timedOut] ∧ (∀ g, State.stalledEnd.settle.links g = false) := by
  have still := settle_step_ended stalledEnd_flights rfl
  have dark : ∀ g, State.stalledEnd.settle.links g = false := fun g => by
    rw [settle_links stalledEnd_serving, still, stalledEnd_links]
  exact ⟨by rw [settle_flights_dark stalledEnd_serving dark, still, stalledEnd_flights], dark⟩

/-- Refutes O18: a MOVE's timeout completes with its entry as RESULT, so the completion of a MOVE of entry 1 is not the one of the second
clause, whose RESULT is 0. -/
theorem not_movesAndRegions : ¬ Obligations.MovesAndRegions := by
  unfold Obligations.MovesAndRegions
  rintro ⟨-, timeout, -⟩
  obtain ⟨u, he, -, -, -, -, -, g, hg, hc⟩ := timeout 1 stalledMove 0 stalledFlight (by decide) (by decide) (by decide)
  have settled : u.settle = State.stalledEnd.settle := (Host.Outcome.next.inj (exec_stalledMove.symm.trans he)).symm
  obtain ⟨hflights, hdark⟩ := stalledEnd_settled
  rw [← settled] at hflights hdark
  have same : g = timedOut := by
    cases hs : u.serving with
    | true => exact ended_of_settle hs hdark hflights hg hc
    | false =>
      have still : u.settle = u := if_neg (by rw [hs]; decide)
      rw [still] at hflights
      rw [hflights] at hg
      exact (Option.some.inj hg).symm
  rw [same] at hc
  exact absurd hc (by decide)

end Sys2Proof.Machine

namespace Sys2Proof.Machine
open Sys2Proof

/-! The steps of a store: its waves, its seal and its ends (R112 to R128). -/

/-- VSTBY is good by a supervisor register (R138), so what leaves these registers leaves it. -/
theorem Kept.vstbyOk {m : Nat} {q : List Instr} {s0 s : State} (h : Kept m q s0 s) (hm : m.testBit 1 = false) : s.vstbyOk = s0.vstbyOk :=
  vstbyOk_of_out (by rw [State.get, h.frame.regs Reg.SUP_OUT_OUT.addr hm, State.get])

/-- What a store's last step writes before the store ends: registers of Volley, planes and seal blocks, with free choices. -/
def endingMask : Nat := 0x4000040020

/-- The sample of VHOLD that a step of a store takes. -/
theorem kept_put_vhold {s : State} (hI : s.Inv) (v : Nat) : Kept endingMask s.pending s (s.put Reg.VOL_VHOLD_VHOLD v) :=
  (kept_start hI _).put _ _ (by decide)

/-- A Volley that ends with VSTBY good is in DARK, with its end in VOL_LAST (R66, R136). -/
theorem volleyEnd_dark {s u : State} (k : Kept endingMask s.pending s u) (hok : s.vstbyOk = true) {t : Store} (hch : t.channel < 16)
    {r w v : Nat} (hr : r < 4) (hw : w < 16) (hv : v < 1024) (time : Nat) :
    (u.volleyEnd t r w v time).store = none ∧ (u.volleyEnd t r w v time).pwr.st = .dark ∧
    (u.volleyEnd t r w v time).get Reg.VOL_LAST_CAUSE = t.cause.code ∧ (u.volleyEnd t r w v time).get Reg.VOL_LAST_RESULT = r ∧
    (u.volleyEnd t r w v time).get Reg.VOL_LAST_WAVES = w ∧ (u.volleyEnd t r w v time).get Reg.VOL_LAST_CHANNEL = t.channel ∧
    (u.volleyEnd t r w v time).get Reg.VOL_LAST_VHOLD_VHOLD_END = v := by
  obtain ⟨store, state, fields⟩ := volleyEnd_facts u k.inv t r w v time hr hw hch hv
  rw [k.vstbyOk (by decide), hok, if_pos rfl] at state
  exact ⟨store, state, fields⟩

/-- A wave that starts leaves the power state whole. -/
theorem waveStart_pwr {s : State} (hI : s.Inv) (t : Store) (k : Nat) : (s.waveStart t k).pwr = s.pwr :=
  (State.waveStart_kept (kept_start hI 0x3a67b6007e) t k (by decide)).frame.pwr (by decide)

/-- A wave other than the first, or one whose region 63 lies where it froze, takes its number alone (R105, R111). -/
theorem atWave_in_place {s : State} {t : Store} {k : Nat} (h : k ≠ 1 ∨ t.phys63 = s.phys63) : s.atWave t k = { t with wave := k } :=
  if_neg (fun moved => h.elim (fun hk => hk moved.1) (fun hp => moved.2 hp))

/-- The wave after the present one is the first only where none has started. -/
theorem next_wave (t : Store) : t.wave = 0 ∨ t.wave + 1 ≠ 1 := (Nat.eq_zero_or_pos t.wave).imp_right (fun h => by omega)

/-- Regions freeze once (R112). -/
theorem frozenNow_of_frozen {s : State} {t : Store} (hs : s.store = some t) (hf : t.frozen = true) : s.frozenNow = s := by
  rw [State.frozenNow, hs]
  exact if_pos hf

/-- VHOLD is below a wave's threshold at its boundary, and the store ends there (R121). -/
theorem exec_volleyWaveStart_cut {v : BitVec 10} {s : State} {t : Store} (hst : s.pwr.st = .volley) (hs : s.store = some t)
    (hf : t.frozen = true) (hne : t.regions ≠ []) (hw : t.wave < t.waves) (hvin : t.fromVin = false)
    (hv : v.toNat < t.thresholds.getD t.wave 0) :
    exec (.volleyWaveStart v) s = .next ((s.put Reg.VOL_VHOLD_VHOLD v.toNat).volleyEnd t 1 t.wave v.toNat (t.boundary t.wave)) := by
  have store : (s.put Reg.VOL_VHOLD_VHOLD v.toNat).store = some t := hs
  have short : (!t.fromVin && decide (v.toNat < t.thresholds.getD t.wave 0)) = true := by
    rw [hvin, decide_eq_true hv]
    rfl
  refine congrArg Host.Outcome.next ((if_pos hst).trans ?_)
  rw [State.volleyWave, frozenNow_of_frozen store hf, store]
  dsimp only
  rw [if_neg (by simpa using hne), if_neg (Nat.not_le.mpr hw), if_pos short]

/-- The seal starts once the last wave has run (R113); in VOLLEY the code on MP[7:5] moves too. -/
theorem exec_storeSealStart_starts {s : State} {t : Store} (hs : s.store = some t) (hf : t.frozen = true) (hne : t.regions ≠ [])
    (hw : t.wave = t.waves) :
    exec .storeSealStart s = .next (if (s.sealStart t).pwr.st = .volley then (s.sealStart t).stepCode 2#3 else s.sealStart t) := by
  show execStoreSealStart s = _
  rw [execStoreSealStart, hs]
  exact congrArg Host.Outcome.next (if_pos ⟨hf, hne, hw⟩)

theorem exec_vholdFloor_hit {e : Nat} {s : State} {t : Store} (hst : s.pwr.st = .volley) (hs : s.store = some t) (hv : t.fromVin = false) :
    exec (.vholdFloor e) s = .next (s.floorHit t e) := by
  show execVholdFloor e s = _
  rw [execVholdFloor, hs]
  exact congrArg Host.Outcome.next (if_pos ⟨hst, by rw [hv]; decide⟩)

theorem volleyEnd_floor {s u : State} (k : Kept endingMask s.pending s u) (hok : s.vstbyOk = true) {t : Store} (hch : t.channel < 16)
    {r w : Nat} (hr : r < 4) (hw : w < 16) (e : Nat) : (u.volleyEnd t r w vFloor e).store = none ∧
      (u.volleyEnd t r w vFloor e).pwr.st = .dark ∧ (u.volleyEnd t r w vFloor e).get Reg.VOL_LAST_RESULT = r := by
  obtain ⟨store, state, -, result, -⟩ := volleyEnd_dark k hok hch hr hw (show vFloor < 1024 by decide) e
  exact ⟨store, state, result⟩

/-- VHOLD at the floor ends a Volley as CUT before its first wave, as TORN within a wave and as SEAL_CUT from the seal on (R123,
Table 4-8). -/
theorem floorHit_dark {s : State} (hI : s.Inv) (hok : s.vstbyOk = true) {t : Store} (hwave : t.wave ≤ 9) (hwaves : t.waves ≤ 8)
    (hch : t.channel < 16) (e : Nat) : (s.floorHit t e).store = none ∧ (s.floorHit t e).pwr.st = .dark ∧
      (s.floorHit t e).get Reg.VOL_LAST_RESULT = (if t.wave = 0 then 1 else if t.wave ≤ t.waves then 2 else 3) := by
  have sampled := kept_put_vhold hI vFloor
  unfold State.floorHit
  dsimp only
  by_cases before : t.wave = 0
  · rw [if_pos before, if_pos before]
    exact volleyEnd_floor sampled hok hch (by decide) (by decide) e
  · rw [if_neg before, if_neg before]
    by_cases within : t.wave ≤ t.waves
    · rw [if_pos within, if_pos within]
      exact volleyEnd_floor (State.cutWave_kept sampled t (by decide)) hok hch (by decide) (by omega) e
    · rw [if_neg within, if_neg within]
      exact volleyEnd_floor (State.tearSeals_kept sampled t (by decide)) hok hch (by decide) (by omega) e

/-- The code at its goal stays, any other moves one stage (R66, Table 2-8). -/
theorem stepCode_eq (s : State) (goal : BitVec 3) :
    s.stepCode goal = s.setCode (if s.pwr.progress = goal then goal else nextCode s.pwr.progress) := by
  unfold State.stepCode
  split
  · next there =>
    rw [← there]
    rfl
  · rfl

theorem exec_progressCodeStep_dark {s : State} (hst : s.pwr.st = .dark) (hs : s.store = none) :
    exec .progressCodeStep s = .next (s.stepCode 6#3) := by
  show execProgressCodeStep s = _
  rw [execProgressCodeStep, hs]
  exact congrArg Host.Outcome.next (if_pos (.inr hst))

theorem exec_ckpt_sets {x : Sender} {s : State} (hr : s.reaches x 0x600 true = true) (hx : isH0 x = true) (hn : s.noCheckpoint = false) :
    exec (.ckpt x) s = .next (s.put Reg.VOL_CTL_CKPT 1) :=
  congrArg Host.Outcome.next ((if_pos hr).trans (if_pos (by rw [hx, hn]; rfl)))

theorem exec_checkpointStart_starts {s : State} (hst : s.pwr.st = .run) (hs : s.store = none) (hc : s.ckptStarts = true)
    (hn : s.noCheckpoint = false) (hwp : s.get Reg.ID_LC_WIPING = 0) :
    exec .checkpointStart s = .next (s.joinCkpt.storeBegin .checkpoint true 15).freeze :=
  congrArg Host.Outcome.next ((if_pos ⟨hst, hs, by rw [flag_of_get_zero hwp]; decide, hc⟩).trans (if_neg (by rw [hn]; decide)))

/-- A store that the pending requests join freezes the present store set under the next epoch (R112, R124); the power state stays. -/
theorem joinedFreeze_facts (s : State) (cause : Cause) (hne : s.get Reg.VOL_RETURN_NO_EPOCH = 0) (hwp : s.get Reg.ID_LC_WIPING = 0) :
    ∃ v : Store, (s.joinCkpt.storeBegin cause true 15).freeze.store = some v ∧ v.cause = cause ∧ v.frozen = true ∧
      v.regions = s.storeSet ∧ v.epoch = s.volNext ∧ (s.joinCkpt.storeBegin cause true 15).freeze.pwr = s.pwr := by
  have apart (a : Nat) (ha : a ≠ 0x600) : (s.joinCkpt.storeBegin cause true 15).reg a = s.reg a := State.reg_put_ne s _ ha
  have get (f : Fld) (hf : f.addr ≠ 0x600) : (s.joinCkpt.storeBegin cause true 15).get f = s.get f := by
    rw [State.get, apart _ hf, State.get]
  obtain ⟨v, store, why, frozen, regions, epoch, power⟩ := freeze_store (s.joinCkpt.storeBegin cause true 15) _ rfl
    (flag_of_get_zero ((get _ (by decide)).trans hne)) (flag_of_get_zero ((get _ (by decide)).trans hwp))
  refine ⟨v, store, why, frozen, regions.trans (storeSet_congr (fun a _ _ => apart a (by omega))), epoch.trans ?_, power⟩
  rw [State.volNext, State.get36, apart _ (by decide), apart _ (by decide)]
  rfl

/-- Settles O8: each command's condition is met, and what it starts or ends is said once for each operation of a store. -/
theorem storeSteps : Obligations.StoreSteps := by
  refine ⟨fun v s t hst hs hf hne hw hv hI => ?_, fun s t k h => atWave_in_place h, fun v s t hst hs hf hne hw hws hch hvin hv hok hI => ?_,
    fun s t hs hf hne hw => ?_, fun v s t hst hs hf hne hw hws hch hok hI => ?_, fun e s t hst hs hvin hw hws hch hok hI => ?_,
    fun s hst hs => ?_, fun x s hr hx hn => exec_ckpt_sets hr hx hn, fun s hst hs hc hn hne hwp => ?_, fun s t hserve hs hf hw hI => ?_⟩
  · have hI1 := (kept_put_vhold hI v.toNat).inv
    obtain ⟨d, code⟩ := stepCode_cases ((s.put Reg.VOL_VHOLD_VHOLD v.toNat).waveStart t (t.wave + 1)) (Store.code { t with wave := t.wave + 1 })
    rw [exec_volleyWaveStart_starts hst hs hf hne hw hv, code]
    exact ⟨_, rfl, waveStart_store _ hI1 t _ (next_wave t), (congrArg Pwr.st (waveStart_pwr hI1 t _)).trans hst⟩
  · exact ⟨_, exec_volleyWaveStart_cut hst hs hf hne hw hvin hv,
      volleyEnd_dark (kept_put_vhold hI v.toNat) hok hch (by decide) (by omega) v.isLt _⟩
  · obtain ⟨d, code⟩ := stepCode_cases (s.sealStart t) 2#3
    refine ⟨_, exec_storeSealStart_starts hs hf hne hw, ?_⟩
    rw [code]
    split <;> rfl
  · obtain ⟨store, state, cause, result, waves, -, vhold⟩ := volleyEnd_dark (State.writeSeals_kept (kept_put_vhold hI v.toNat) t (by decide)) hok
      hch (r := 0) (w := t.waves) (by decide) (by omega) v.isLt _
    exact ⟨_, exec_storeSealComplete_volley hst hs hf hne hw, store, state, cause, result, waves, vhold⟩
  · exact ⟨_, exec_vholdFloor_hit hst hs hvin, floorHit_dark hI hok hw hws hch e⟩
  · rw [exec_progressCodeStep_dark hst hs, stepCode_eq]
  · obtain ⟨v, facts⟩ := joinedFreeze_facts s .checkpoint hne hwp
    exact ⟨_, v, exec_checkpointStart_starts hst hs hc hn hwp, facts⟩
  · exact ⟨_, exec_checkpointWaveStart hserve hs hf hw, waveStart_store s hI t _ (next_wave t), waveStart_pwr hI t _⟩

end Sys2Proof.Machine

namespace Sys2Proof.Machine
open Sys2Proof

/-! NOP and READ (R82, R193): O12 -/

theorem advance_nop {s : State} {i : Nat} {f : Flight} (h : s.Goes i f) (ho : f.op = .nop) :
    s.advance i = s.fixFlight i { status := Status.done, result := f.d.p0.setWidth 64 } := by
  unfold State.advance
  rw [h.here]
  simp [h.compl, h.committed, h.lost, h.calm, ho]

/-- NOP touches nothing (R193). -/
theorem exec_nop_alone {h : PHost} {j q : Ring} {d : Desc} {s : State} (ha : s.Accepts h j q .nop d) :
    ∃ t, exec (.nop h j d) s = .next t ∧ s.Completes t h j q d { status := Status.done, result := d.p0.setWidth 64 } ∧ t.rest = s.rest ∧
      ∀ a, notRing a → t.reg a = s.reg a := by
  obtain ⟨t, ht, hc, hr, hreg⟩ := local_cells ha rfl [] {} (.inr ⟨rfl, rfl⟩) _ _ _ rfl (Touched.rfl' _) (advance_nop (begun_goes ha [] {}) rfl)
  exact ⟨t, congrArg _ ht, hc, hr.trans (begun_rest s h j _ {}), hreg⟩

/-- READ with no region that holds it back and its link open (R82). -/
theorem doRead_free {s : State} {i : Nat} {f : Flight} (hb : s.blocked i f = false) (hw : s.rangeWaits (Desc.a f.d) (Desc.n f.d) false = false)
    (hl : s.linkOpen f.host = true) :
    s.doRead i f = (let r := s.readBytes (Desc.a f.d) (Desc.n f.d) f.met
      (r.1.toHost f.host f.d.haddr.toNat r.2.1).fixFlight i (r.2.2.compl (Desc.n f.d))) := by
  unfold State.doRead
  dsimp only
  rw [if_neg (by rw [hb, hw, hl]; decide)]

/-- A descriptor that reads no host memory, yields a window at most, and completes with the bytes that it sends to its host. -/
theorem local_sends {s b u : State} {h : PHost} {j q : Ring} {op : Opcode} {d : Desc} {c : Compl} {bs : List Byte} (ha : s.Accepts h j q op d)
    (hr : readsHost op = false) (ups : List Upset) (hs : Staged op {}) (hb : b = s.begun h j (newFlight h j op d) ups) (hy : Yields b u)
    (hne : bs ≠ []) (hdo : b.advance 0 = (u.toHost h d.haddr.toNat bs).fixFlight 0 c) :
    ∃ t, s.descArrive h j op d {} ups = t ∧ s.Completes t h j q d c ∧ .hostWrite h d.haddr.toNat bs ∈ t.out ∧ t.rest = b.rest ∧
      ∀ a, notRing a → t.reg a = s.reg a := by
  obtain ⟨sregs, srest, sflights, sup, sflow, -, sout⟩ := toHost_facts u h d.haddr.toNat bs
  obtain ⟨breg, bpwr, bup, bflow, -, bflights⟩ := begun_facts s h j (newFlight h j op d) ups
  rw [← hb] at breg bpwr bup bflow bflights
  have hreg : ∀ a, a ≠ 0xD04 → (u.toHost h d.haddr.toNat bs).reg a = b.reg a := fun a hx => (reg_congr sregs a).trans (hy.2 a hx)
  have hrest : (u.toHost h d.haddr.toNat bs).rest = b.rest := srest.trans (hy.field State.rest (by intros; rfl))
  obtain ⟨t, ht, hc, ho, htr, htreg⟩ := local_done ha hr ups {} hs _ c (newFlight h j op d)
    (sflights.trans ((hy.field State.flights (by intros; rfl)).trans bflights)) ⟨rfl, rfl, rfl, rfl⟩ (by rw [← hb]; exact hdo)
    (fun a _ hx hj => (hreg a (by omega)).trans (breg a hj (by omega))) ((rest_pwr hrest).trans bpwr)
    ⟨sup.trans ((hy.field (fun t => (t.host h).up) (by intros; rfl)).trans bup),
      sflow.trans ((hy.field (fun t => (t.host h).flow) (by intros; rfl)).trans bflow)⟩
  exact ⟨t, ht, hc, ho _ (sout hne), htr.trans hrest, fun a hn => ((htreg a hn).trans (hreg a hn.2)).trans (breg a (hn.1 h j).1 hn.2)⟩

theorem readBytes_ne_nil (s : State) (a : Nat) {n : Nat} (m : Met) (hn : 0 < n) : (s.readBytes a n m).2.1 ≠ [] :=
  List.ne_nil_of_length_pos (by rw [readBytes_length s a n m hn]; exact hn)

/-- READ of sound codewords (R82, R193; its data is read as it executes, log entry 34). -/
theorem exec_read_sound {h : PHost} {j q : Ring} {d : Desc} {ups : List Upset} {s b : State} (ha : s.Accepts h j q .read d)
    (hb : b = s.begun h j (newFlight h j .read d) ups) (hw : b.rangeWaits (Desc.a d) (Desc.n d) false = false)
    (hs : b.SoundCws (Desc.a d / 8) (cwCount (Desc.a d) (Desc.n d))) :
    ∃ t, exec (.read h j d ups) s = .next t ∧ s.Completes t h j q d ((b.readBytes (Desc.a d) (Desc.n d) {}).2.2.compl (Desc.n d)) ∧
      .hostWrite h d.haddr.toNat (b.readBytes (Desc.a d) (Desc.n d) {}).2.1 ∈ t.out ∧ t.rest = b.rest ∧ ∀ a, notRing a → t.reg a = s.reg a := by
  have hdo : b.advance 0 = b.doRead 0 (newFlight h j .read d) := by rw [hb]; exact advance_begun s h j .read d ups ha.1.1
  rw [doRead_free (blocked_zero b _) hw (by rw [hb]; exact begun_open s h j _ ups {} ha.1.1)] at hdo
  obtain ⟨u, hy, hu⟩ := readBytes_sound b (Desc.a d) (Desc.n d) {} hs b (SameCells.rfl' b)
  dsimp only [newFlight, Flight.met] at hdo
  rw [hu] at hdo
  obtain ⟨t, ht, facts⟩ := local_sends ha rfl ups (.inr ⟨rfl, rfl⟩) hb hy
    (readBytes_ne_nil b _ {} (accepts_n ha.2 (.inr (.inl rfl)))) hdo
  exact ⟨t, congrArg _ ht, facts⟩

/-- Settles O12: a NOP fixes its own status alone, a READ sends what it reads of codewords that stay as they are. -/
theorem dataDescriptors : Obligations.DataDescriptors :=
  ⟨fun _ _ _ _ _ ha => exec_nop_alone ha, fun _ _ _ _ _ _ _ ha hb hw hs => exec_read_sound ha hb hw hs⟩

end Sys2Proof.Machine

namespace Sys2Proof.Machine
open Sys2Proof

/-! Ring set-up and replay (R172, R181, R187, R188): O10 -/

/-- An SQ as its enable leaves it (Table 6-5). -/
def State.sqOpened (s : State) (h : PHost) (j : Nat) (cfg : Word) : State :=
  let s1 := (s.setReg (Reg.HOST_SQ_CFG h.val j).addr cfg).setReg (Reg.HOST_SQ_STAT h.val j).addr (BitVec.ofNat 18 (sqActive * 2 ^ 16))
  s1.setHost h { s1.host h with
    tails := Map.set (fun _ => 0) (s1.host h).tails j 0, fetching := Map.set (fun _ => 0) (s1.host h).fetching j 0 }

/-- A CQ as its enable leaves it; the first one takes the records that are still to be written (R188, log entry 119). -/
def State.cqOpened (s : State) (h : PHost) (q : Nat) (cfg : Word) : State :=
  let s1 := (s.setReg (Reg.HOST_CQ_CFG h.val q).addr cfg).setReg (Reg.HOST_CQ_STAT h.val q).addr (BitVec.ofNat 18 (2 ^ 17))
  s1.setHost h { s1.host h with
    heads := Map.set (fun _ => 0) (s1.host h).heads q 0, unsent := Map.set (fun _ => 0) (s1.host h).unsent q 0
    replayCq := if decide ((s1.host h).replayCq = none ∧ 0 < s1.cutCount h) then some (Fin.ofNat 4 q) else (s1.host h).replayCq }

/-- A CQ as its disable leaves it: no longer STOPPED, and without the replay (log entry 119). -/
def State.cqClosed (s : State) (h : PHost) (q : Nat) (cfg : Word) : State :=
  let s1 := (s.setReg (Reg.HOST_CQ_CFG h.val q).addr cfg).put (Reg.HOST_CQ_STAT_STOPPED h.val q) 0
  s1.setHost h { s1.host h with replayCq := if (s1.host h).replayCq.map (·.val) = some q then none else (s1.host h).replayCq }

theorem State.get_setReg_same (s : State) (f : Fld) (w : Word) : (s.setReg f.addr w).get f = bits w.toNat f.hi f.lo := by
  unfold State.get
  rw [State.reg_setReg_same]

/-! What a set-up write does (Table 6-5) -/

theorem ring_write_allowed {x : Sender} {h : PHost} {s : State} (hm : mayRing x h = true) (he : s.hostExists h = true) :
    (!(mayRing x h && s.hostExists h)) = false := by rw [hm, he]; rfl

/-- The bits of a value that HOST_SQ_CFG stores hold its EN. -/
theorem sqCfg_en {v : Word} {b : Bool} (hv : v.getLsbD 17 = b) : (v &&& 0x3FF00#18).getLsbD 17 = b := by
  rw [BitVec.getLsbD_and, hv]
  exact Bool.and_true b

theorem sqCfgWrite_enable {x : Sender} {h : PHost} {j : Nat} {v : Word} {s : State} (hm : mayRing x h = true) (he : s.hostExists h = true)
    (hst : s.sqState h.val j = sqDisabled) (hv : v.getLsbD 17 = true) :
    s.sqCfgWrite x h j v =
      if 10 < bits (v &&& 0x3FF00#18).toNat 16 13 then s.ringRefuse h errSize false j
      else if !(s.sqRangeOk h.val j (bits (v &&& 0x3FF00#18).toNat 16 13) && s.doorbellOk h.val) then s.ringRefuse h errWindow false j
      else if !s.cqActive h.val (bits (v &&& 0x3FF00#18).toNat 12 11) then s.ringRefuse h errCqOff false j
      else s.sqOpened h j (v &&& 0x3FF00#18) := by
  unfold State.sqCfgWrite
  rw [ring_write_allowed hm he, if_neg (by decide)]
  dsimp only
  rw [hst, if_neg (fun hc => hc.1 rfl), sqCfg_en hv, if_pos rfl, if_neg (by decide), if_pos rfl]
  rfl

theorem sqCfgWrite_disable {x : Sender} {h : PHost} {j : Nat} {v : Word} {s : State} (hm : mayRing x h = true) (he : s.hostExists h = true)
    (hst : s.sqState h.val j ≠ sqDisabled) (hv : v.getLsbD 17 = false)
    (hlock : (s.reg (Reg.HOST_SQ_CFG h.val j).addr ^^^ (v &&& 0x3FF00#18)) &&& 0x1FF00#18 = 0#18) :
    s.sqCfgWrite x h j v =
      ((s.setReg (Reg.HOST_SQ_CFG h.val j).addr (v &&& 0x3FF00#18)).put (Reg.HOST_SQ_STAT_STATE h.val j) sqDraining).settleSq h j := by
  unfold State.sqCfgWrite
  rw [ring_write_allowed hm he, if_neg (by decide)]
  dsimp only
  rw [if_neg (fun hc => hc.2 hlock), sqCfg_en hv, if_neg (by decide), if_neg hst]

theorem cqCfgWrite_enable {x : Sender} {h : PHost} {q : Nat} {v : Word} {s : State} (hm : mayRing x h = true) (he : s.hostExists h = true)
    (hoff : (s.reg (Reg.HOST_CQ_CFG h.val q).addr).getLsbD 17 = false) (hv : v.getLsbD 17 = true) (hsize : bits v.toNat 15 12 ≤ 10)
    (hrange : s.cqRangeOk h.val q (bits v.toNat 15 12) = true) (hdb : s.doorbellOk h.val = true) :
    s.cqCfgWrite x h q v = s.cqOpened h q v := by
  unfold State.cqCfgWrite
  rw [ring_write_allowed hm he, if_neg (by decide)]
  dsimp only
  rw [hoff, Bool.false_and, if_neg (by decide), hv, if_pos rfl, if_neg (by decide), if_neg (Nat.not_lt.mpr hsize), hrange, hdb, if_neg (by decide)]
  rfl

theorem cqCfgWrite_disable {x : Sender} {h : PHost} {q : Ring} {v : Word} {s : State} (hm : mayRing x h = true) (he : s.hostExists h = true)
    (hlock : (s.reg (Reg.HOST_CQ_CFG h.val q.val).addr ^^^ v) &&& 0x0F000#18 = 0#18) (hv : v.getLsbD 17 = false)
    (hsq : ∀ j : Ring, s.sqState h.val j.val = sqDisabled ∨ s.sqCq h.val j.val ≠ q.val) :
    s.cqCfgWrite x h q.val v = s.cqClosed h q.val v := by
  have unused : [0, 1, 2, 3].any (fun j => decide (s.sqState h.val j ≠ sqDisabled ∧ s.sqCq h.val j = q.val)) = false := by
    rw [show [0, 1, 2, 3] = allRings.map (·.val) from rfl, List.any_map, List.any_eq_false]
    intro j _ used
    obtain ⟨on, mine⟩ := of_decide_eq_true used
    exact (hsq j).elim on (fun other => other mine)
  unfold State.cqCfgWrite
  rw [ring_write_allowed hm he, if_neg (by decide)]
  dsimp only
  rw [hlock, decide_eq_false (by decide : ¬(0#18 : Word) ≠ 0#18), Bool.and_false, if_neg (by decide), hv, if_neg (by decide), unused, Bool.and_false,
    if_neg (by decide)]
  rfl

/-! What it shows then -/

theorem sqOpened_facts (s : State) (h : PHost) (j : Ring) (cfg : Word) : (s.sqOpened h j.val cfg).reg (Reg.HOST_SQ_CFG h.val j.val).addr = cfg ∧
    (s.sqOpened h j.val cfg).sqState h.val j.val = sqActive ∧ (s.sqOpened h j.val cfg).sqHead h.val j.val = 0 ∧
    (s.sqOpened h j.val cfg).sqTail h j.val = 0 ∧ (s.sqOpened h j.val cfg).sqFetching h j.val = 0 := by
  have apart : (Reg.HOST_SQ_CFG h.val j.val).addr ≠ (Reg.HOST_SQ_STAT h.val j.val).addr := by
    show 0x738 + 0x38 * h.val + j.val ≠ 0x740 + 0x38 * h.val + j.val
    omega
  refine ⟨(State.reg_setReg_ne _ _ apart).trans (State.reg_setReg_same _ _ _), ?_, ?_, ?_, ?_⟩
  · exact (State.get_setReg_same _ (Reg.HOST_SQ_STAT_STATE h.val j.val) _).trans (show bits (BitVec.ofNat 18 (sqActive * 2 ^ 16)).toNat 17 16 = 1 by decide)
  · exact (State.get_setReg_same _ (Reg.HOST_SQ_STAT_HEAD h.val j.val) _).trans (show bits (BitVec.ofNat 18 (sqActive * 2 ^ 16)).toNat 15 0 = 0 by decide)
  · unfold State.sqTail State.sqOpened
    rw [State.host_setHost_same, Map.get_set_same]
  · unfold State.sqFetching State.sqOpened
    rw [State.host_setHost_same, Map.get_set_same]

theorem cqOpened_facts (s : State) (h : PHost) (q : Ring) (cfg : Word) : (s.cqOpened h q.val cfg).reg (Reg.HOST_CQ_CFG h.val q.val).addr = cfg ∧
    (s.cqOpened h q.val cfg).cqTail h.val q.val = 0 ∧ (s.cqOpened h q.val cfg).get (Reg.HOST_CQ_STAT_PHASE h.val q.val) = 1 ∧
    (s.cqOpened h q.val cfg).get (Reg.HOST_CQ_STAT_STOPPED h.val q.val) = 0 ∧
    Map.get (fun _ => 0) ((s.cqOpened h q.val cfg).host h).heads q.val = 0 ∧
    ((s.host h).replayCq = none → 0 < s.cutCount h → ((s.cqOpened h q.val cfg).host h).replayCq = some q) := by
  have apart : (Reg.HOST_CQ_CFG h.val q.val).addr ≠ (Reg.HOST_CQ_STAT h.val q.val).addr := by
    show 0x73C + 0x38 * h.val + q.val ≠ 0x744 + 0x38 * h.val + q.val
    omega
  refine ⟨(State.reg_setReg_ne _ _ apart).trans (State.reg_setReg_same _ _ _), ?_, ?_, ?_, ?_, fun hnone hcut => ?_⟩
  · exact (State.get_setReg_same _ (Reg.HOST_CQ_STAT_TAIL h.val q.val) _).trans (show bits (BitVec.ofNat 18 (2 ^ 17)).toNat 15 0 = 0 by decide)
  · exact (State.get_setReg_same _ (Reg.HOST_CQ_STAT_PHASE h.val q.val) _).trans (show bits (BitVec.ofNat 18 (2 ^ 17)).toNat 17 17 = 1 by decide)
  · exact (State.get_setReg_same _ (Reg.HOST_CQ_STAT_STOPPED h.val q.val) _).trans (show bits (BitVec.ofNat 18 (2 ^ 17)).toNat 16 16 = 0 by decide)
  · unfold State.cqOpened
    rw [State.host_setHost_same, Map.get_set_same]
  · unfold State.cqOpened
    rw [State.host_setHost_same]
    exact (if_pos (decide_eq_true ⟨hnone, hcut⟩)).trans (congrArg some (Fin.ofNat_val_eq_self q))

theorem cqClosed_facts (s : State) (h : PHost) (q : Ring) (cfg : Word) : (s.cqClosed h q.val cfg).reg (Reg.HOST_CQ_CFG h.val q.val).addr = cfg ∧
    (s.cqClosed h q.val cfg).get (Reg.HOST_CQ_STAT_STOPPED h.val q.val) = 0 ∧ ((s.cqClosed h q.val cfg).host h).replayCq ≠ some q := by
  have apart : (Reg.HOST_CQ_CFG h.val q.val).addr ≠ (Reg.HOST_CQ_STAT_STOPPED h.val q.val).addr := by
    show 0x73C + 0x38 * h.val + q.val ≠ 0x744 + 0x38 * h.val + q.val
    omega
  refine ⟨(State.reg_put_ne _ _ apart).trans (State.reg_setReg_same _ _ _), State.get_put_same _ _ _ (lt_rfl rfl) (lt_rfl rfl), ?_⟩
  unfold State.cqClosed
  rw [State.host_setHost_same]
  dsimp only
  split
  · exact (Option.some_ne_none q).symm
  · next held => exact fun e => held (by rw [e]; rfl)

/-- A refusal under Table 6-5 shows its code and its ring, and leaves both registers of the ring (R172). -/
theorem ringRefuse_facts (s : State) (h : PHost) (j : Ring) {code : Nat} (hc : code < 16) :
    (s.ringRefuse h code false j.val).sqState h.val j.val = s.sqState h.val j.val ∧
    (s.ringRefuse h code false j.val).get (Reg.HOST_ERR_CODE h.val) = code ∧ (s.ringRefuse h code false j.val).get (Reg.HOST_ERR_CQ h.val) = 0 ∧
    (s.ringRefuse h code false j.val).get (Reg.HOST_ERR_RING h.val) = j.val ∧ (s.ringRefuse h code false j.val).get (Reg.HOST_EVENT_REFUSED h.val) = 1 ∧
    (s.ringRefuse h code false j.val).reg (Reg.HOST_SQ_CFG h.val j.val).addr = s.reg (Reg.HOST_SQ_CFG h.val j.val).addr := by
  have stat : (Reg.HOST_SQ_STAT_STATE h.val j.val).addr = 0x740 + 0x38 * h.val + j.val := rfl
  have cfg : (Reg.HOST_SQ_CFG h.val j.val).addr = 0x738 + 0x38 * h.val + j.val := rfl
  obtain ⟨hcode, hcq, hring, hev, -, hget⟩ := ringErr_facts s h code false j.val Reg.HOST_EVENT_REFUSED rfl ⟨lt_rfl rfl, rfl⟩ hc j.isLt
  exact ⟨hget _ (by omega) (by omega), hcode, hcq, hring, hev, ringErr_reg _ _ _ _ _ _ rfl _ (by omega) (by omega)⟩

/-- A DRAINING SQ is DISABLED once nothing of it is in progress (Table 6-5). -/
theorem settleSq_draining {s : State} {h : PHost} {j : Nat} (hd : s.sqState h.val j = sqDraining) :
    (s.settleSq h j).sqState h.val j = if s.sqFlights h j = 0 ∧ s.sqFetching h j = 0 then sqDisabled else sqDraining := by
  unfold State.settleSq
  by_cases hn : s.sqFlights h j = 0 ∧ s.sqFetching h j = 0
  · rw [if_pos ⟨hd, hn⟩, if_pos hn]
    exact State.get_put_same _ _ _ (lt_rfl rfl) (lt_rfl rfl)
  · rw [if_neg (fun hc => hn hc.2), if_neg hn, hd]

/-! The commands -/

theorem exec_sqEnable {x : Sender} {h : PHost} {j : Ring} {v : Word} {s : State} (hr : s.reaches x (Reg.HOST_SQ_CFG h.val j.val).addr true = true) :
    exec (.sqEnable x h j v) s = .next (s.sqCfgWrite x h j.val v).settle := congrArg Host.Outcome.next (if_pos hr)

theorem exec_sqDisable {x : Sender} {h : PHost} {j : Ring} {v : Word} {s : State} (hr : s.reaches x (Reg.HOST_SQ_CFG h.val j.val).addr true = true) :
    exec (.sqDisable x h j v) s = .next (s.sqCfgWrite x h j.val v).settle := congrArg Host.Outcome.next (if_pos hr)

theorem exec_cqEnable {x : Sender} {h : PHost} {q : Ring} {v : Word} {s : State} (hr : s.reaches x (Reg.HOST_CQ_CFG h.val q.val).addr true = true) :
    exec (.cqEnable x h q v) s = .next ((s.cqCfgWrite x h q.val v).replayWrite h).settle := congrArg Host.Outcome.next (if_pos hr)

theorem exec_cqDisable {x : Sender} {h : PHost} {q : Ring} {v : Word} {s : State} (hr : s.reaches x (Reg.HOST_CQ_CFG h.val q.val).addr true = true) :
    exec (.cqDisable x h q v) s = .next ((s.cqCfgWrite x h q.val v).replayWrite h).settle := congrArg Host.Outcome.next (if_pos hr)

theorem replayWrite_none {h : PHost} {s : State} (hq : (s.host h).replayCq = none) : s.replayWrite h = s := by
  unfold State.replayWrite
  rw [hq]

/-- Records are written while the CQ has slots; with none left, fetching goes on (R188). -/
theorem replayWrite_open {h : PHost} {q : Ring} {s : State} (hq : (s.host h).replayCq = some q) (hl : s.linkOpen h = true) :
    s.replayWrite h = (let t := s.replayGo h q s.dev.replay.length
      if t.cutCount h = 0 then (t.setHost h { t.host h with replayCq := none }).issueFetches h else t) := by
  unfold State.replayWrite
  rw [hq]
  exact if_pos hl

/-- The host's records discarded, and no CQ left to write them (R188). -/
def State.cutDropped (s : State) (h : PHost) : State :=
  let s1 : State := { s with dev := { s.dev with replay := s.dev.replay.filter (fun r => decide (r.host ≠ h)) } }
  s1.setHost h { s1.host h with replayCq := none }

theorem cutCount_dropped {s : State} {h : PHost} {rs : List Replay} (hr : s.dev.replay = rs.filter (fun r => decide (r.host ≠ h))) :
    s.cutCount h = 0 := by
  unfold State.cutCount
  rw [hr, List.filter_filter, List.length_eq_zero_iff, List.filter_eq_nil_iff]
  simp

theorem exec_cutDiscard {x : Sender} {h : PHost} {s : State} (hr : s.reaches x (Reg.HOST_CTL h.val).addr true = true) (hm : mayRing x h = true)
    (he : s.hostExists h = true) : exec (.cutDiscard x h) s = .next ((s.cutDropped h).issueFetches h) :=
  congrArg Host.Outcome.next ((if_pos hr).trans (if_pos (by rw [hm, he]; rfl)))

/-- Settles O10: each set-up write by what it stores, the replay by where its records go. -/
theorem ringSetup : Obligations.RingSetup := by
  refine ⟨?enable, ?refused, ?disable, ?cqEnable, ?cqDisable, ?idle, ?replay, ?discard⟩
  case enable =>
    intro x h j v s hr hm he hst hv hsize hrange hdb hcq
    refine ⟨_, exec_sqEnable hr, ?_⟩
    rw [sqCfgWrite_enable hm he hst hv, if_neg (Nat.not_lt.mpr hsize), hrange, hdb, if_neg (by decide), hcq, if_neg (by decide)]
    exact sqOpened_facts s h j _
  case refused =>
    intro x h j v s hr hm he hst hv hsize
    obtain ⟨state, facts⟩ := ringRefuse_facts s h j (code := errSize) (by decide)
    refine ⟨_, exec_sqEnable hr, ?_⟩
    rw [sqCfgWrite_enable hm he hst hv, if_pos hsize]
    exact ⟨state.trans hst, facts⟩
  case disable =>
    intro x h j v s hr hm he hst hv hlock
    refine ⟨_, exec_sqDisable hr, ?_⟩
    rw [sqCfgWrite_disable hm he hst hv hlock]
    exact settleSq_draining (State.get_put_same _ _ _ (lt_rfl rfl) (lt_rfl rfl))
  case cqEnable =>
    intro x h q v s hr hm he hoff hv hsize hrange hdb
    refine ⟨_, exec_cqEnable hr, ?_⟩
    rw [cqCfgWrite_enable hm he hoff hv hsize hrange hdb]
    exact cqOpened_facts s h q v
  case cqDisable =>
    intro x h q v s hr hm he hlock hv hsq
    refine ⟨_, exec_cqDisable hr, ?_⟩
    rw [cqCfgWrite_disable hm he hlock hv hsq]
    exact cqClosed_facts s h q v
  case idle => exact fun h s hq => congrArg Host.Outcome.next (replayWrite_none hq)
  case replay => exact fun h q s hq hl => ⟨_, rfl, congrArg Host.Outcome.next (replayWrite_open hq hl)⟩
  case discard =>
    intro x h s hr hm he
    refine ⟨_, exec_cutDiscard hr hm he, cutCount_dropped rfl, ?_, rfl, rfl⟩
    unfold State.cutDropped
    rw [State.host_setHost_same]

end Sys2Proof.Machine

namespace Sys2Proof.Machine
open Sys2Proof

/-! Links and functions (R157 to R160, R168, R186): O11 -/

/-! Lanes and widths (R156, R158) -/

theorem lanesOf_congr {s t : State} {h : PHost} (hs : t.get Reg.ID_STRAP_MP = s.get Reg.ID_STRAP_MP) : t.lanesOf h = s.lanesOf h := by
  unfold State.lanesOf State.split
  rw [hs]

theorem bestWidth_congr {s t : State} {h : PHost} (hs : t.get Reg.ID_STRAP_MP = s.get Reg.ID_STRAP_MP)
    (hb : t.get (Reg.HOST_LINK_BAD h.val) = s.get (Reg.HOST_LINK_BAD h.val)) (most : Nat) : t.bestWidth h most = s.bestWidth h most := by
  unfold State.bestWidth
  rw [lanesOf_congr hs, hb]

theorem lanesOf_le (s : State) (h : PHost) : (s.lanesOf h).2 ≤ 8 := by
  unfold State.lanesOf
  split
  · exact (by decide : 4 ≤ 8)
  · exact Nat.le_refl 8

theorem bestWidth_le {s : State} {h : PHost} {most w : Nat} (hw : s.bestWidth h most = some w) : w ≤ most ∧ w < 16 := by
  have good := List.find?_some hw
  have listed := List.mem_of_find?_eq_some hw
  simp only [Bool.and_eq_true, decide_eq_true_eq] at good
  simp only [List.mem_cons, List.not_mem_nil, or_false] at listed
  exact ⟨good.1, by omega⟩

/-! Retraining (R158, R159) -/

/-- Messages that an event sends leave whether the link retrains, and the configuration space. -/
theorem hostEvent_flow (s : State) (h : PHost) (ev : Nat → Fld) (hev : (ev h.val).addr < 0x720) (g : PHost) :
    ((s.hostEvent h ev).host g).flow = (s.host g).flow := (Quiet.event _ _ _ _ _ (.inl hev)).flow g

theorem retraining_of_flow {p q : HostPort} (h : p.flow = q.flow) : p.retraining = q.retraining := congrArg Prod.fst h

theorem cfg_of_flow {p q : HostPort} (h : p.flow = q.flow) : p.cfg = q.cfg := congrArg Prod.snd h

theorem retrainTo_retraining (s : State) (h : PHost) (sp w : Nat) : ((s.retrainTo h sp w).host h).retraining = true := by
  have addr : (Reg.HOST_EVENT_LINK_CHG h.val).addr < 0x720 := by
    show 0x708 + h.val < 0x720
    omega
  unfold State.retrainTo
  dsimp only
  split
  · rw [retraining_of_flow (hostEvent_flow _ h Reg.HOST_EVENT_LINK_CHG addr h), State.host_setHost_same]
  · rw [State.host_setHost_same]

/-- The link as RETRAIN leaves it: no lane marked bad, in training to MAX_SPEED and its full width (R158). -/
def State.retrained (s : State) (h : PHost) : State :=
  (s.put (Reg.HOST_LINK_BAD h.val) 0).retrainTo h (s.get (Reg.HOST_LCTL_MAX_SPEED h.val)) (s.lanesOf h).2

theorem exec_retrain {x : Sender} {h : PHost} {s : State} (hr : s.reaches x (Reg.HOST_LCTL h.val).addr true = true) (hm : mayRing x h = true)
    (he : s.hostExists h = true) (hup : (s.host h).up = true) : exec (.retrain x h) s = .next (s.retrained h) := by
  have link : (Reg.HOST_LINK_BAD h.val).addr = 0x700 + h.val := rfl
  have ctl : (Reg.HOST_LCTL_MAX_SPEED h.val).addr = 0x704 + h.val := rfl
  have strap : Reg.ID_STRAP_MP.addr < 0x700 := lt_rfl rfl
  have lanes : (s.put (Reg.HOST_LINK_BAD h.val) 0).lanesOf h = s.lanesOf h := lanesOf_congr (State.get_put_ne _ _ (by omega))
  have rate : (s.put (Reg.HOST_LINK_BAD h.val) 0).get (Reg.HOST_LCTL_MAX_SPEED h.val) = s.get (Reg.HOST_LCTL_MAX_SPEED h.val) :=
    State.get_put_ne _ _ (by omega)
  rw [State.retrained, ← rate, ← lanes]
  exact congrArg Host.Outcome.next ((if_pos hr).trans ((if_pos (by rw [hm, he]; rfl)).trans (if_pos hup)))

theorem retrained_facts (s : State) (h : PHost) : (s.retrained h).get (Reg.HOST_LINK_BAD h.val) = 0 ∧
    (s.retrained h).get (Reg.HOST_LINK_SPEED h.val) = s.get (Reg.HOST_LCTL_MAX_SPEED h.val) ∧
    (s.retrained h).get (Reg.HOST_LINK_WIDTH h.val) = (s.lanesOf h).2 := by
  have link : (Reg.HOST_LINK_BAD h.val).addr = 0x700 + h.val := rfl
  have width := lanesOf_le s h
  obtain ⟨hspeed, hwidth, hother⟩ := retrainTo_facts (s.put (Reg.HOST_LINK_BAD h.val) 0) h (s.get (Reg.HOST_LCTL_MAX_SPEED h.val)) (s.lanesOf h).2
    (State.get_lt _ _) (by omega)
  exact ⟨(hother _ (lt_rfl rfl) (.inr (lt_rfl rfl)) (by omega)).trans (State.get_put_same _ _ _ (lt_rfl rfl) (lt_rfl rfl)), hspeed, hwidth⟩

/-- A lane marked bad, with its event (R158). -/
def State.laneMarked (s : State) (h : PHost) (lane : Nat) : State :=
  (s.put ((Reg.HOST_LINK_BAD h.val).at lane) 1).hostEvent h Reg.HOST_EVENT_LANE_BAD

theorem laneMarked_get (s : State) (h : PHost) (lane : Nat) (g : Fld) (hg : g.addr ≠ 0x708 + h.val) :
    (s.laneMarked h lane).get g = (s.put ((Reg.HOST_LINK_BAD h.val).at lane) 1).get g := event_get_ne _ _ _ _ _ _ hg

theorem laneMarked_bestWidth (s : State) (h : PHost) (lane most : Nat) :
    (s.laneMarked h lane).bestWidth h most = (s.put ((Reg.HOST_LINK_BAD h.val).at lane) 1).bestWidth h most := by
  have strap : Reg.ID_STRAP_MP.addr < 0x700 := lt_rfl rfl
  have link : (Reg.HOST_LINK_BAD h.val).addr = 0x700 + h.val := rfl
  exact bestWidth_congr (laneMarked_get s h lane _ (by omega)) (laneMarked_get s h lane _ (by omega)) most

theorem laneMarked_maxSpeed (s : State) (h : PHost) (lane : Nat) :
    (s.laneMarked h lane).get (Reg.HOST_LCTL_MAX_SPEED h.val) = s.get (Reg.HOST_LCTL_MAX_SPEED h.val) := by
  have ctl : (Reg.HOST_LCTL_MAX_SPEED h.val).addr = 0x704 + h.val := rfl
  have link : ((Reg.HOST_LINK_BAD h.val).at lane).addr = 0x700 + h.val := rfl
  rw [laneMarked_get _ _ _ _ (by omega), State.get_put_ne _ _ (by omega)]

theorem laneBad_retrains {s : State} {h : PHost} {lane w : Nat} (speed : Nat)
    (hw : (s.put ((Reg.HOST_LINK_BAD h.val).at lane) 1).bestWidth h (s.get (Reg.HOST_LINK_WIDTH h.val)) = some w) :
    s.laneBad h lane speed = (s.laneMarked h lane).retrainTo h (min speed (s.get (Reg.HOST_LCTL_MAX_SPEED h.val))) w := by
  rw [← laneMarked_bestWidth] at hw
  rw [← laneMarked_maxSpeed s h lane]
  unfold State.laneMarked at hw ⊢
  unfold State.laneBad
  dsimp only
  rw [hw]

theorem laneBad_gone {s : State} {h : PHost} {lane : Nat} (speed : Nat)
    (hw : (s.put ((Reg.HOST_LINK_BAD h.val).at lane) 1).bestWidth h (s.get (Reg.HOST_LINK_WIDTH h.val)) = none) :
    s.laneBad h lane speed = (s.laneMarked h lane).linkGone h := by
  rw [← laneMarked_bestWidth] at hw
  unfold State.laneMarked at hw ⊢
  unfold State.laneBad
  dsimp only
  rw [hw]

/-- A lane within the link that fails (R158). -/
theorem exec_laneBad {h : PHost} {lane : Fin 8} {sp : BitVec 3} {e : Option Nat} {s : State} (hs : s.serving = true) (hup : (s.host h).up = true)
    (hlo : (s.lanesOf h).1 ≤ lane.val) (hhi : lane.val < (s.lanesOf h).1 + (s.lanesOf h).2) (hf : s.laneFails h e = true) :
    exec (.laneBad h lane sp e) s = .next (s.laneBad h lane.val sp.toNat).cycleGo :=
  congrArg Host.Outcome.next (if_pos ⟨hs, hup, hlo, hhi, hf⟩)

theorem laneBad_retrains_facts {s : State} {h : PHost} {lane : Fin 8} {w : Nat} (speed : Nat)
    (hw : (s.put ((Reg.HOST_LINK_BAD h.val).at lane.val) 1).bestWidth h (s.get (Reg.HOST_LINK_WIDTH h.val)) = some w) :
    (s.laneBad h lane.val speed).get ((Reg.HOST_LINK_BAD h.val).at lane.val) = 1 ∧
    (s.laneBad h lane.val speed).get (Reg.HOST_EVENT_LANE_BAD h.val) = 1 ∧ w ≤ s.get (Reg.HOST_LINK_WIDTH h.val) ∧
    (s.laneBad h lane.val speed).get (Reg.HOST_LINK_WIDTH h.val) = w ∧
    (s.laneBad h lane.val speed).get (Reg.HOST_LINK_SPEED h.val) = min speed (s.get (Reg.HOST_LCTL_MAX_SPEED h.val)) ∧
    ((s.laneBad h lane.val speed).host h).retraining = true := by
  obtain ⟨hle, hw16⟩ := bestWidth_le hw
  have bad : ((Reg.HOST_LINK_BAD h.val).at lane.val).addr = 0x700 + h.val := rfl
  have hi : ((Reg.HOST_LINK_BAD h.val).at lane.val).hi = 0 + lane.val := rfl
  have lo : ((Reg.HOST_LINK_BAD h.val).at lane.val).lo = 0 + lane.val := rfl
  have rate : s.get (Reg.HOST_LCTL_MAX_SPEED h.val) < 8 := State.get_lt s (Reg.HOST_LCTL_MAX_SPEED h.val)
  obtain ⟨hspeed, hwidth, hother⟩ := retrainTo_facts (s.laneMarked h lane.val) h (min speed (s.get (Reg.HOST_LCTL_MAX_SPEED h.val))) w
    (by omega) hw16
  rw [laneBad_retrains speed hw]
  refine ⟨?_, ?_, hle, hwidth, hspeed, retrainTo_retraining _ _ _ _⟩
  · rw [hother _ (by omega) (.inr (by omega)) (by omega), laneMarked_get _ _ _ _ (by omega)]
    exact State.get_put_same _ _ _ (by omega) (by rw [hi, lo]; exact Nat.one_lt_two_pow (by omega))
  · rw [retrainTo_event _ _ _ _ _ (lt_rfl rfl) (lt_rfl rfl) rfl]
    exact event_get_same _ _ _ _ _ (lt_rfl rfl) rfl

/-- The link as it comes back at a rate of at most `speed` (R158, R159). -/
def State.linkBack (s : State) (h : PHost) (speed : Nat) : State :=
  (s.slower h (max 1 speed)).setHost h { (s.slower h (max 1 speed)).host h with retraining := false }

theorem exec_linkRetrained {h : PHost} {sp : BitVec 3} {s : State} (hs : s.serving = true) (hup : (s.host h).up = true)
    (ht : (s.host h).retraining = true) :
    exec (.linkRetrained h sp) s = .next ((((s.linkBack h sp.toNat).sendDue h).replayWrite h).issueFetches h).settle :=
  congrArg Host.Outcome.next (if_pos ⟨hs, hup, ht⟩)

theorem slower_facts (s : State) (h : PHost) (speed : Nat) : (s.slower h speed).rest = s.rest ∧ ((s.slower h speed).host h).up = (s.host h).up ∧
    (s.slower h speed).get (Reg.HOST_LINK_SPEED h.val) = min speed (s.get (Reg.HOST_LINK_SPEED h.val)) := by
  have link : (Reg.HOST_LINK_SPEED h.val).addr = 0x700 + h.val := rfl
  have event : (Reg.HOST_EVENT_LINK_CHG h.val).addr = 0x708 + h.val := rfl
  have rate : s.get (Reg.HOST_LINK_SPEED h.val) < 8 := State.get_lt s (Reg.HOST_LINK_SPEED h.val)
  unfold State.slower
  split
  · next below =>
    refine ⟨(event_rest _ _ _ _ _).trans rfl, (Quiet.event _ _ _ _ _ (.inl (by omega))).up h, ?_⟩
    rw [Nat.min_eq_left (Nat.le_of_lt below)]
    exact (event_get_ne _ _ _ _ _ _ (by omega)).trans (State.get_put_same _ _ _ (lt_rfl rfl) (show speed < 8 by omega))
  · next same => exact ⟨rfl, rfl, (Nat.min_eq_right (Nat.not_lt.mp same)).symm⟩

theorem linkBack_facts {s : State} {h : PHost} (speed : Nat) (hup : (s.host h).up = true) : ((s.linkBack h speed).host h).retraining = false ∧
    ((s.linkBack h speed).host h).up = true ∧
    (s.linkBack h speed).get (Reg.HOST_LINK_SPEED h.val) = min (max 1 speed) (s.get (Reg.HOST_LINK_SPEED h.val)) ∧
    (s.linkBack h speed).rest = s.rest := by
  obtain ⟨rest, up, rate⟩ := slower_facts s h (max 1 speed)
  unfold State.linkBack
  rw [State.host_setHost_same]
  exact ⟨rfl, up.trans hup, rate, rest⟩

/-! Messages that waited (R159) -/

theorem msix_due {s : State} {h : PHost} (hr : (s.host h).retraining = false) (v : Nat) : ((s.msix h v).host h).due = (s.host h).due := by
  unfold State.msix
  dsimp only
  rw [hr, if_neg Bool.false_ne_true]
  split_ifs
  · rw [State.host_setHost_same]
  · rw [State.host_setHost_same]
  · rw [State.host_emit, State.host_setHost_same]
  · rfl

/-- A port that sends messages at once does not retrain. -/
theorem HostPort.sends_calm {p : HostPort} {v : Nat} (hs : p.sends v = true) : p.retraining = false := by
  simp only [HostPort.sends, Bool.and_eq_true, Bool.not_eq_true'] at hs
  exact hs.2

theorem sendDue_vector {h : PHost} {v : Nat} {s : State} (hd : (s.host h).due = [.vector v]) (hs : (s.host h).sends v = true) :
    (s.sendDue h).out = s.out ++ (if s.msixMerges h v s.stamp then [] else [.msix h v ((s.host h).vecAddr v) ((s.host h).vecDword v 2)]) ∧
    ((s.sendDue h).host h).due = [] := by
  have port : (s.setHost h { s.host h with due := [] }).host h = { s.host h with due := [] } := State.host_setHost_same _ _ _
  have sends : ((s.setHost h { s.host h with due := [] }).host h).sends v = true := (congrArg (HostPort.sends · v) port).trans hs
  have merges : (s.setHost h { s.host h with due := [] }).msixMerges h v (s.setHost h { s.host h with due := [] }).stamp =
    s.msixMerges h v s.stamp := msixMerges_setHost _ _ _ _ _ rfl rfl rfl
  have sent : s.sendDue h = (s.setHost h { s.host h with due := [] }).msix h v := by
    unfold State.sendDue
    rw [hd]
    rfl
  obtain ⟨alone, merged⟩ := msix_sent sends
  rw [merges, port] at alone
  rw [merges] at merged
  rw [sent, msix_due (HostPort.sends_calm sends), port]
  refine ⟨?_, rfl⟩
  cases hm : s.msixMerges h v s.stamp with
  | true => exact (merged hm).trans (List.append_nil _).symm
  | false => exact (alone hm).1

theorem sendDue_error {h : PHost} {k : Nat} {s : State} (hd : (s.host h).due = [.error k]) :
    (s.sendDue h).out = s.out ++ [.errMessage h k] ∧ ((s.sendDue h).host h).due = [] := by
  have sent : s.sendDue h = ((s.setHost h { s.host h with due := [] }).leaveL1 h).emit (.errMessage h k) := by
    unfold State.sendDue
    rw [hd]
    rfl
  rw [sent, State.host_emit, State.leaveL1_host, State.host_setHost_same]
  exact ⟨rfl, rfl⟩

/-! A link that goes down or trains (R157, R160) -/

theorem exec_linkDown {h : PHost} {s : State} (hs : s.serving = true) (hup : (s.host h).up = true) :
    exec (.linkDown h) s = .next (s.linkGone h).cycleGo := congrArg Host.Outcome.next (if_pos ⟨hs, hup⟩)

/-- The link trained at a rate and a width (R157). -/
def State.linkTrained (s : State) (h : PHost) (speed width : Nat) : State :=
  let s1 := ((s.refBack h).put (Reg.HOST_LINK_SPEED h.val) (min speed (s.get (Reg.HOST_LCTL_MAX_SPEED h.val)))).put (Reg.HOST_LINK_WIDTH h.val) width
  s1.setHost h { s1.host h with up := true, ready := false, retraining := false, l1 := false }

theorem exec_linkUp {h : PHost} {sp : BitVec 3} {w : BitVec 4} {s : State} (hs : s.serving = true) (he : s.hostExists h = true)
    (hp : (s.host h).perstN = true) (hup : (s.host h).up = false) (hf : s.forms h sp.toNat w.toNat = true) :
    exec (.linkUp h sp w) s = .next (s.linkTrained h sp.toNat w.toNat) :=
  congrArg Host.Outcome.next (if_pos ⟨hs, he, hp, by rw [hup]; decide, hf⟩)

theorem linkTrained_facts (s : State) (h : PHost) (speed : Nat) {width : Nat} (hw : width < 16) :
    ((s.linkTrained h speed width).host h).up = true ∧ ((s.linkTrained h speed width).host h).ready = false ∧
    (s.linkTrained h speed width).get (Reg.HOST_LINK_SPEED h.val) = min speed (s.get (Reg.HOST_LCTL_MAX_SPEED h.val)) ∧
    (s.linkTrained h speed width).get (Reg.HOST_LINK_WIDTH h.val) = width := by
  have rate : s.get (Reg.HOST_LCTL_MAX_SPEED h.val) < 8 := State.get_lt s (Reg.HOST_LCTL_MAX_SPEED h.val)
  unfold State.linkTrained
  rw [State.host_setHost_same, State.get_setHost, State.get_setHost]
  refine ⟨rfl, rfl, ?_, State.get_put_same _ _ _ (lt_rfl rfl) hw⟩
  exact (State.get_put_apart _ _ (lt_rfl rfl) (.inr (lt_rfl rfl))).trans (State.get_put_same _ _ _ (lt_rfl rfl) (show _ < 8 by omega))

theorem forms_listed {s : State} {h : PHost} {speed width : Nat} (h1 : 1 ≤ speed) (h5 : speed ≤ 5) (hw : width ∈ [1, 2, 4, 8])
    (hl : width ≤ (s.lanesOf h).2) : s.forms h speed width = true := by
  unfold State.forms
  rw [decide_eq_true ⟨h1, h5, hl⟩, List.contains_iff_mem.mpr hw]
  rfl

/-! PERSTh_N (R157, R186) -/

theorem setHost_setHost (s : State) (h : PHost) (p r : HostPort) : (s.setHost h p).setHost h r = s.setHost h r :=
  congrArg (fun m => ({ s with hosts := m } : State)) (Map.set_set _ _ _ _ _)

theorem exec_perstLow {h : PHost} {s : State} (hp : (s.host h).perstN = true) :
    exec (.perstLow h) s = .next ((if s.serving && s.hostExists h then
      ((s.setHost h { s.host h with perstN := false }).linkGone h).cycleGo else s.setHost h { s.host h with perstN := false }).coldConfig h) :=
  congrArg Host.Outcome.next (if_pos hp)

theorem coldConfig_host (s : State) (h : PHost) : (s.coldConfig h).host h = { s.host h with cfg := [] } := State.host_setHost_same _ _ _

/-! The reset of a function (R186) -/

theorem Quiet.retireLate (s : State) (r : Nat) (h : r < 64) : Quiet s (s.retireLate r) := by
  unfold State.retireLate
  split
  · refine Quiet.trans' ?_ (Quiet.retire _ r _ _ h)
    exact Quiet.of rfl rfl rfl rfl rfl
  · exact Quiet.rfl' s

/-- A MOVE that ends early leaves every function's configuration space. -/
theorem dropMove_flow (s : State) (n : Nat) (g : PHost) : ((s.dropMove n).host g).flow = (s.host g).flow := by
  have dst : s.get (Reg.ARR_MOVE_DST n) < 64 := State.get_lt s (Reg.ARR_MOVE_DST n)
  unfold State.dropMove
  dsimp only
  rw [(Quiet.retireLate _ _ dst).flow g]
  rfl

/-- So does all that a stop undoes. -/
theorem undo_flow (s : State) (i : Nat) (f : Flight) (g : PHost) : ((s.undo i f).host g).flow = (s.host g).flow := by
  unfold State.undo
  split
  · unfold State.rasterWithdraw
    split <;> rfl
  · split <;> rfl
  · split
    · exact dropMove_flow s f.result g
    · rfl
  · rfl

theorem dropHost_flow (s : State) (h g : PHost) : ((s.dropHost h).host g).flow = (s.host g).flow := by
  unfold State.dropHost
  refine foldl_keeps (fun (t : State) => (t.host g).flow) (fun t i => ?_) (List.range s.flights.length) s
  split
  · split
    · exact undo_flow _ _ _ _
    · rfl
  · rfl

theorem mbReset_hosts (s : State) (h : Nat) : (s.mbReset h).hosts = s.hosts := by
  unfold State.mbReset
  refine (foldl_keeps State.hosts (fun t c => ?_) _ _).trans rfl
  dsimp only
  split_ifs <;> rfl

theorem cfgAfterReset_congr {p q : HostPort} (h : p.cfg = q.cfg) : p.cfgAfterReset = q.cfgAfterReset := by
  unfold HostPort.cfgAfterReset HostPort.dword
  rw [h]

/-- A host's port after a reset of its function (R186). -/
def HostPort.afterReset (p : HostPort) : HostPort :=
  { perstN := p.perstN, d3 := false, up := p.up, retraining := p.retraining, l1 := p.l1, wakeLow := p.wakeLow
    cfg := p.cfgAfterReset, turns := p.turns, merges := p.merges, headers := p.headers }

/-- What a function-level reset that discards the replay records leaves, before other hosts' descriptors go on (R186). -/
def State.functionCleared (s : State) (h : PHost) : State :=
  let s1 : State := { s.dropHost h with regs := Map.keep (s.dropHost h).regs (fun a => !hostRegAddr h.val a) }
  let s2 := s1.setHost h (s1.host h).afterReset
  ({ s2 with dev := { s2.dev with replay := s2.dev.replay.filter (fun r => decide (r.host ≠ h)) } } : State).mbReset (h.val + 1)

theorem functionCleared_cut (s : State) (h : PHost) : (s.functionCleared h).cutCount h = 0 :=
  cutCount_dropped (rs := (s.dropHost h).dev.replay) (congrArg Dev.replay (mbReset_facts _ _).2.1)

theorem functionReset_cleared (s : State) (h : PHost) : s.functionReset h false = (s.functionCleared h).settle := by
  have told : s.functionReset h false =
      (if 0 < (s.functionCleared h).cutCount h then (s.functionCleared h).hostEvent h Reg.HOST_EVENT_CUT else s.functionCleared h).settle := rfl
  rw [told, functionCleared_cut, if_neg (Nat.lt_irrefl 0)]

theorem functionCleared_flights (s : State) (h : PHost) : ∀ f, f ∈ (s.functionCleared h).flights → f.host ≠ h := by
  intro f hf
  rw [show (s.functionCleared h).flights = (s.dropHost h).flights from (mbReset_facts _ _).1] at hf
  exact of_decide_eq_true (List.mem_filter.mp hf).2

theorem functionCleared_reg (s : State) (h : PHost) (a : Nat) (ha : hostRegAddr h.val a = true) : (s.functionCleared h).reg a = regReset a := by
  have mailbox : a ≠ 0x3A0 + (h.val + 1) := by
    simp only [hostRegAddr, Bool.or_eq_true, decide_eq_true_eq] at ha
    omega
  have kept : (s.functionCleared h).reg a = Map.get regReset (Map.keep (s.dropHost h).regs (fun a => !hostRegAddr h.val a)) a :=
    (mbReset_facts _ _).2.2 a mailbox
  rw [kept, Map.get_keep, ha]
  rfl

theorem functionCleared_host (s : State) (h : PHost) : ((s.functionCleared h).host h).ready = false ∧
    ((s.functionCleared h).host h).cfg = (s.host h).cfgAfterReset := by
  have port : (s.functionCleared h).host h = ((s.dropHost h).host h).afterReset := by
    have hosts : (s.functionCleared h).hosts = _ := mbReset_hosts _ _
    unfold State.host
    rw [hosts]
    exact Map.get_set_same _ _ _ _
  rw [port]
  exact ⟨rfl, cfgAfterReset_congr (cfg_of_flow (dropHost_flow s h h))⟩

theorem exec_flr {h : PHost} {s : State} (hs : s.serving = true) (hup : (s.host h).up = true) :
    exec (.flr h) s = .next (s.functionCleared h).settle :=
  congrArg Host.Outcome.next ((if_pos ⟨hs, hup⟩).trans (functionReset_cleared s h))

theorem exec_d0Entry {h : PHost} {s : State} (hs : s.serving = true) (hup : (s.host h).up = true) (hd : (s.host h).d3 = true) :
    exec (.d0Entry h) s = .next (s.functionCleared h).settle :=
  congrArg Host.Outcome.next ((if_pos ⟨hs, hup, hd⟩).trans (functionReset_cleared s h))

/-- Settles O11: each command of a link or a function by the operation that it runs. -/
theorem linksAndFunctions : Obligations.LinksAndFunctions := by
  refine ⟨?retrain, ?laneNarrows, ?laneEnds, ?laneHolds, ?retrained, fun h v s hd hs => sendDue_vector hd hs, fun h k s hd => sendDue_error hd,
    ?down, ?up, ?ready, ?perstResets, ?perstLatched, ?perstWakes, ?perstHigh, ?flr, ?d3hot, ?d0, ?l1⟩
  case retrain =>
    intro x h s hr hm he hup
    exact ⟨_, exec_retrain hr hm he hup, retrained_facts s h⟩
  case laneNarrows =>
    intro h lane sp e w s hs hup hlo hhi hf hw
    exact ⟨_, exec_laneBad hs hup hlo hhi hf, laneBad_retrains_facts sp.toNat hw⟩
  case laneEnds =>
    intro h lane sp e s hs hup hlo hhi hf hw
    obtain ⟨u, gone, up, -, -, speed, width, -, -⟩ := linkGone_facts (s.laneMarked h lane.val) h
    rw [exec_laneBad hs hup hlo hhi hf, laneBad_gone sp.toNat hw, gone]
    exact ⟨u, rfl, up, speed, width⟩
  case laneHolds =>
    intro h lane sp n s hn
    have holds : s.laneFails h (some n) = false := decide_eq_false (Nat.not_lt.mpr hn)
    exact congrArg Host.Outcome.next (if_neg (fun hc => by rw [holds] at hc; exact absurd hc.2.2.2.2 (by decide)))
  case retrained => exact fun h sp s hs hup ht => ⟨_, exec_linkRetrained hs hup ht, linkBack_facts sp.toNat hup⟩
  case down =>
    intro h s hs hup
    obtain ⟨u, gone, up, ready, -, speed, width, -, -⟩ := linkGone_facts s h
    rw [exec_linkDown hs hup, gone]
    exact ⟨u, rfl, up, ready, speed, width⟩
  case up =>
    intro h sp w s hs he hp hup h1 h5 hw hl
    exact ⟨_, exec_linkUp hs he hp hup (forms_listed h1 h5 hw hl), linkTrained_facts s h sp.toNat w.isLt⟩
  case ready => exact fun h s hs hup => congrArg Host.Outcome.next (if_pos ⟨hs, hup⟩)
  case perstResets =>
    intro h s hp hs he
    obtain ⟨u, gone, up, -, perst, speed, -, -, -⟩ := linkGone_facts (s.setHost h { s.host h with perstN := false }) h
    rw [State.host_setHost_same] at perst
    rw [exec_perstLow hp, hs, he, if_pos (by decide), gone]
    exact ⟨u, rfl, up, perst, speed, coldConfig_host _ _⟩
  case perstLatched =>
    intro h s hp hs
    have idle : (s.serving && s.hostExists h) = false := by
      rw [Bool.and_eq_false_iff]
      exact hs
    rw [exec_perstLow hp, idle, if_neg (by decide), State.coldConfig, State.host_setHost_same, setHost_setHost]
  case perstWakes =>
    intro h s hw
    refine ⟨_, congrArg Host.Outcome.next (if_pos hw), ?_⟩
    rw [State.host_emit, State.host_setHost_same]
    exact ⟨rfl, rfl, rfl, rfl⟩
  case perstHigh => exact fun h s hw => congrArg Host.Outcome.next (if_neg (by rw [hw]; decide))
  case flr =>
    intro h s hs hup
    exact ⟨_, exec_flr hs hup, functionCleared_flights s h, functionCleared_reg s h, functionCleared_cut s h, functionCleared_host s h⟩
  case d3hot => exact fun h s hs hup => congrArg Host.Outcome.next (if_pos ⟨hs, hup⟩)
  case d0 =>
    intro h s hs hup hd
    exact ⟨_, exec_d0Entry hs hup hd, functionCleared_flights s h, functionCleared_reg s h, functionCleared_cut s h⟩
  case l1 =>
    intro h s hs hup hr hl
    exact congrArg Host.Outcome.next (if_pos ⟨hs, hup, by rw [hr]; decide, hl⟩)

end Sys2Proof.Machine

namespace Sys2Proof.Machine
open Sys2Proof

/-! The frame of the ledger's queues and of the descriptors in progress (R195, R275, R277): O53 -/

/-- No command that Safety.lean names as leaving the ledger or the descriptors in progress has that part in its mask. -/
theorem keepsQueues_mask (c : Instr) :
    (keepsLedger c && (commandMask c).testBit 30) = false ∧ (keepsDescriptors c && (commandMask c).testBit 25) = false := by
  cases c <;> (dsimp only [commandMask]; exact ⟨rfl, rfl⟩)

/-- Settles O53: parts 30 and 25 of the commands' masks. -/
theorem ledgerFrame : Obligations.LedgerFrame := by
  intro c s t hI h
  obtain ⟨hLedger, hFlights⟩ := keepsQueues_mask c
  have frame := (exec_next hI h).frame
  exact ⟨fun hc => frame.led (outside_of_keeps hc hLedger), fun hc => frame.flights (outside_of_keeps hc hFlights)⟩

end Sys2Proof.Machine

namespace Sys2Proof.Machine
open Sys2Proof

/-! The ranges of a calendar (R203): O58 -/

theorem leap_iff (y : Nat) : leap y = true ↔ (2000 + y) % 4 = 0 ∧ 2000 + y ≠ 2100 := by
  rw [leap, decide_eq_true_eq]
  omega

/-- The lengths of the months as R203 lists them. -/
theorem daysIn_eq (y m : Nat) : daysIn y m = if m = 2 then (if (2000 + y) % 4 = 0 ∧ 2000 + y ≠ 2100 then 29 else 28)
    else if m = 4 ∨ m = 6 ∨ m = 9 ∨ m = 11 then 30 else 31 := by
  unfold daysIn
  split
  case h_1 => simp only [leap_iff, if_true]
  case h_6 h2 h4 h6 h9 h11 => rw [if_neg h2, if_neg (by tauto)]
  all_goals rfl

/-- The ranges of R203, field by field. -/
theorem valid_iff (c : Calendar) : c.valid = true ↔ c.subsec ≤ 1023 ∧ c.sec ≤ 59 ∧ c.min ≤ 59 ∧ c.hour ≤ 23 ∧ c.wday ≤ 6 ∧
    1 ≤ c.month ∧ c.month ≤ 12 ∧ c.year ≤ 199 ∧ 1 ≤ c.day ∧ c.day ≤ daysIn c.year c.month := by
  simp only [Calendar.valid, Bool.and_eq_true, decide_eq_true_eq, and_assoc]

/-- Settles O58: D0 below 2^47 has its reserved bits and bit 63 clear, and the calendar's own check is that of its fields. -/
theorem rtcSetRanges : Obligations.RtcSetRanges := by
  intro d s
  have check : s.limitsOk .rtcSet d = true ↔ d.d0.toNat < 2 ^ 47 ∧ (Desc.calendar d).valid = true := by
    rw [State.limitsOk, Bool.and_eq_true, decide_eq_true_eq]
  have top : d.d0.toNat < 2 ^ 47 → d.d0.getLsbD 63 = false := fun h =>
    Nat.testBit_lt_two_pow (h.trans (by decide))
  rw [check, valid_iff, daysIn_eq]
  exact ⟨fun ⟨low, fields⟩ => ⟨top low, low, fields⟩, fun ⟨_, low, fields⟩ => ⟨low, fields⟩⟩

end Sys2Proof.Machine

namespace Sys2Proof.Machine
open Sys2Proof

/-! The calendar's tick (R322, Table 13-1): O28 -/

/-- The last tick of a day. -/
def Calendar.lastTick (c : Calendar) : Prop := c.hour = 23 ∧ c.min = 59 ∧ c.sec = 59 ∧ c.subsec = 1023

/-- Before the last tick of a day one field of the time of day advances, and those below it start at 0. -/
theorem tick_inDay {c : Calendar} (h : c.valid = true) (hn : ¬c.lastTick) :
    c.tick.2 = false ∧ c.tick.1.wday = c.wday ∧ c.tick.1.valid = true ∧
    c.tick.1.seconds * 1024 + c.tick.1.subsec = c.seconds * 1024 + c.subsec + 1 := by
  obtain ⟨hsub, hsec, hmin, hhour, hw, hdate⟩ := (valid_iff c).mp h
  unfold Calendar.lastTick at hn
  rw [valid_iff]
  unfold Calendar.tick Calendar.seconds
  split_ifs
  case neg => omega
  all_goals
    refine ⟨rfl, rfl, ?_, ?_⟩
    · exact ⟨by dsimp only; omega, by dsimp only; omega, by dsimp only; omega, by dsimp only; omega, hw, hdate⟩
    · dsimp only
      omega

/-- At the last tick of a day the next day begins. -/
theorem tick_midnight {c : Calendar} (h : c.lastTick) :
    c.tick = (({ c with subsec := 0, sec := 0, min := 0, hour := 0 } : Calendar).nextDay, c.lastDay) := by
  obtain ⟨hhour, hmin, hsec, hsub⟩ := h
  unfold Calendar.tick
  rw [if_neg (by omega), if_neg (by omega), if_neg (by omega), if_neg (by omega)]

/-- Within a month the days follow one another. -/
theorem dayNumber_nextDay (y m : Nat) {d : Nat} (hd : 1 ≤ d) : dayNumber y m (d + 1) = dayNumber y m d + 1 := by
  unfold dayNumber
  omega

theorem one_le_daysIn (y m : Nat) : 1 ≤ daysIn y m := by
  rw [daysIn_eq]
  split_ifs <;> decide

/-- The first of a month follows the last day of the month before it. -/
theorem dayNumber_nextMonth (y : Nat) {m : Nat} (hm : 1 ≤ m) : dayNumber y (m + 1) 1 = dayNumber y m (daysIn y m) + 1 := by
  obtain ⟨k, rfl⟩ := Nat.exists_eq_add_of_le' hm
  have days := one_le_daysIn y (k + 1)
  unfold dayNumber
  rw [show daysBefore y (k + 1 + 1) = daysBefore y (k + 1) + daysIn y (k + 1) from rfl]
  omega

/-- A year's days before December: 366 or 365 without its 31. -/
theorem daysBefore_december (y : Nat) : daysBefore y 12 = if leap y then 335 else 334 := by
  simp only [daysBefore, daysIn]
  split <;> rfl

/-- The first day of a year follows the last one of the year before it. -/
theorem dayNumber_nextYear (y : Nat) : dayNumber (y + 1) 1 1 = dayNumber y 12 31 + 1 := by
  simp only [dayNumber, daysBefore_december, leap_iff, show daysBefore (y + 1) 1 = 0 from rfl]
  split_ifs <;> omega

/-- A month's last day with no month to follow is December 31. -/
theorem december_ends {c : Calendar} (h : c.valid = true) (hday : ¬c.day < daysIn c.year c.month) (hmonth : ¬c.month < 12) :
    c.month = 12 ∧ c.day = 31 := by
  obtain ⟨-, -, -, -, -, -, hm12, -, -, hd⟩ := (valid_iff c).mp h
  have december : c.month = 12 := by omega
  rw [december] at hday hd
  exact ⟨december, Nat.le_antisymm hd (Nat.not_lt.mp hday)⟩

theorem nextDay_subsec (c : Calendar) : c.nextDay.subsec = c.subsec := by
  unfold Calendar.nextDay
  dsimp only
  split_ifs <;> rfl

/-- The day after a valid one is valid, and is the next of the day count but at the end of 2199. -/
theorem nextDay_facts {c : Calendar} (h : c.valid = true) : c.nextDay.valid = true ∧ c.nextDay.wday = (c.wday + 1) % 7 ∧
    (c.lastDay = false → c.nextDay.seconds = c.seconds + 86400) ∧
    (c.lastDay = true → c.nextDay = { c with wday := (c.wday + 1) % 7, day := 1, month := 1, year := 0 }) := by
  obtain ⟨hsub, hsec, hmin, hhour, -, hm1, hm12, hy, hd1, hd⟩ := (valid_iff c).mp h
  have hw : (c.wday + 1) % 7 ≤ 6 := by omega
  have january : 1 ≤ 12 := by decide
  simp only [valid_iff, Calendar.lastDay, decide_eq_false_iff_not, decide_eq_true_eq, Calendar.seconds]
  unfold Calendar.nextDay
  dsimp only
  split_ifs with hday hmonth hyear
  case pos =>
    have next := dayNumber_nextDay c.year c.month hd1
    exact ⟨⟨hsub, hsec, hmin, hhour, hw, hm1, hm12, hy, Nat.le_add_left 1 c.day, hday⟩, rfl, fun _ => by dsimp only; omega, fun hl => by
      rw [hl.1, hl.2.1, hl.2.2] at hday; exact absurd hday (by decide)⟩
  case pos =>
    have next := dayNumber_nextMonth c.year hm1
    rw [show daysIn c.year c.month = c.day by omega] at next
    exact ⟨⟨hsub, hsec, hmin, hhour, hw, by dsimp only; omega, hmonth, hy, le_rfl, one_le_daysIn _ _⟩, rfl, fun _ => by dsimp only; omega,
      fun hl => by omega⟩
  case pos =>
    obtain ⟨december, last⟩ := december_ends h hday hmonth
    have next := dayNumber_nextYear c.year
    rw [december, last]
    exact ⟨⟨hsub, hsec, hmin, hhour, hw, le_rfl, january, hyear, le_rfl, one_le_daysIn _ _⟩, rfl, fun _ => by dsimp only; omega,
      fun hl => by omega⟩
  case neg =>
    obtain ⟨december, last⟩ := december_ends h hday hmonth
    exact ⟨⟨hsub, hsec, hmin, hhour, hw, le_rfl, january, Nat.zero_le _, le_rfl, one_le_daysIn _ _⟩, rfl,
      fun hl => absurd ⟨by omega, december, last⟩ hl, fun _ => rfl⟩

/-- Settles O28: within a day the tick advances the time of day, at midnight it takes the next day. -/
theorem calendarTick : Obligations.CalendarTick := by
  intro c h
  by_cases hl : c.lastTick
  · obtain ⟨-, -, -, -, hw, hdate⟩ := (valid_iff c).mp h
    obtain ⟨valid, wday, next, last⟩ := nextDay_facts (c := { c with subsec := 0, sec := 0, min := 0, hour := 0 })
      ((valid_iff _).mpr ⟨Nat.zero_le _, Nat.zero_le _, Nat.zero_le _, Nat.zero_le _, hw, hdate⟩)
    rw [tick_midnight hl]
    obtain ⟨hhour, hmin, hsec, hsub⟩ := id hl
    refine ⟨valid, fun hr => ?_, fun hr => ?_, wday.trans (if_pos hl).symm⟩
    · rw [next hr, nextDay_subsec]
      unfold Calendar.seconds
      dsimp only
      omega
    · obtain ⟨hyear, hmonth, hday⟩ := of_decide_eq_true hr
      exact ⟨hyear, hmonth, hday, hhour, hmin, hsec, hsub, last hr⟩
  · obtain ⟨roll, wday, valid, next⟩ := tick_inDay h hl
    exact ⟨valid, fun _ => next, fun hr => absurd hr (by rw [roll]; decide), wday.trans (if_neg hl).symm⟩

end Sys2Proof.Machine

namespace Sys2Proof.Machine
open Sys2Proof

/-! Descriptors that only read, and RTC_SET (R193, R201, R273, R278, R279, R289, R304, R329): O14 -/

theorem rest_dev {s t : State} (h : t.rest = s.rest) : t.dev = s.dev := congrArg (fun r => r.2.1) h

/-- A descriptor whose opcode reads, or sets the clock, goes on by its own step. -/
theorem advance_reading {s : State} {i : Nat} {f : Flight} (h : s.Goes i f) :
    (f.op = .rtcRead → s.advance i = s.fixFlight i { status := Status.done, result := BitVec.ofNat 64 (s.rtcResult (bit f.d.p0.toNat 0)) }) ∧
    (f.op = .counterRead → s.advance i = s.doCounters i f) ∧ (f.op = .ledgerQuery → s.advance i = s.doQuery i f) ∧
    (f.op = .keepRead → s.advance i = s.doKeepRead i f) ∧ (f.op = .recordGet → s.advance i = s.doGet i f) ∧
    (f.op = .rtcSet → s.advance i = (s.timeSet (Desc.calendar f.d)).fixFlight i { status := Status.done }) := by
  unfold State.advance
  rw [h.here]
  refine ⟨?_, ?_, ?_, ?_, ?_, ?_⟩ <;> intro ho <;> simp [h.compl, h.committed, h.lost, h.calm, ho]

theorem Quiet.toHost (s : State) (h : PHost) (a : Nat) (bs : List Byte) : Quiet s (s.toHost h a bs) :=
  Quiet.ite (Quiet.rfl' s) ((Quiet.setHost s h { s.host h with l1 := false } rfl rfl).trans' (Quiet.emit _ _))

/-- A descriptor that reads no host memory, whose effect is quiet, and that sends bytes to its host. -/
theorem local_answers {s b u : State} {h : PHost} {j q : Ring} {op : Opcode} {d : Desc} {c : Compl} {bs : List Byte} {ups : List Upset}
    {p : PadTraffic} (ha : s.Accepts h j q op d) (hr : readsHost op = false) (hs : Staged op p)
    (hb : b = s.begun h j (newFlight h j op d) ups p) (hq : Quiet b u) (hdo : b.advance 0 = (u.toHost h d.haddr.toNat bs).fixFlight 0 c) :
    ∃ t, s.descArrive h j op d {} ups p = t ∧ s.Completes t h j q d c ∧ (bs ≠ [] → .hostWrite h d.haddr.toNat bs ∈ t.out) ∧
      t.rest = u.rest ∧ ∀ a, notRing a → t.reg a = u.reg a := by
  obtain ⟨sregs, srest, -, -, -, -, sout⟩ := toHost_facts u h d.haddr.toNat bs
  obtain ⟨t, ht, hc, ho, htr, hreg⟩ := local_quiet ha hr ups p hs b _ c hb (hq.trans' (Quiet.toHost u h _ bs)) hdo
  exact ⟨t, ht, hc, fun hne => ho _ (sout hne), htr.trans srest, fun a hn => (hreg a hn).trans (reg_congr sregs a)⟩

/-- The same of a descriptor that changes nothing else. -/
theorem local_shows {s b : State} {h : PHost} {j q : Ring} {op : Opcode} {d : Desc} {c : Compl} {bs : List Byte} {p : PadTraffic}
    (ha : s.Accepts h j q op d) (hr : readsHost op = false) (hs : Staged op p) (hb : b = s.begun h j (newFlight h j op d) [] p)
    (hne : bs ≠ []) (hdo : b.advance 0 = (b.toHost h d.haddr.toNat bs).fixFlight 0 c) :
    ∃ t, s.descArrive h j op d {} [] p = t ∧ s.Completes t h j q d c ∧ .hostWrite h d.haddr.toNat bs ∈ t.out ∧ t.rest = s.rest ∧
      ∀ a, notRing a → t.reg a = s.reg a := by
  obtain ⟨t, ht, hc, ho, htr, hreg⟩ := local_answers ha hr hs hb (Quiet.rfl' b) hdo
  subst hb
  exact ⟨t, ht, hc, ho hne, htr.trans (begun_rest s h j _ p), fun a hn => (hreg a hn).trans (begun_quiet s h j _ [] p a hn)⟩

/-- An opcode byte that Table 7-2 does not have (R193). -/
theorem exec_badOpcode_done {h : PHost} {j q : Ring} {op : Byte} (d : Desc) {s : State} (ha : s.Arrives h j q) (hop : opcodeOf op = .bad) :
    ∃ t, exec (.badOpcode h j op d) s = .next t ∧ s.Completes t h j q d { status := Status.badOpcode } ∧ t.rest = s.rest ∧
      ∀ a, notRing a → t.reg a = s.reg a := by
  have bad : (s.advanceHead h j).descCheck h (opcodeOf op) d = some Status.badOpcode := if_pos hop
  obtain ⟨t, ht, hc, -, hr, hreg⟩ := refused_done ha (opcodeOf op) d {} [] _ bad
  exact ⟨t, congrArg _ ht, hc, hr, hreg⟩

/-- What RTC_READ shows rests on the calendar and OSF (Table 7-6). -/
theorem rtcResult_congr {s t : State} (hc : t.rtc = s.rtc) (hf : t.get Reg.RTC_STATUS_OSF = s.get Reg.RTC_STATUS_OSF) (form : Bool) :
    t.rtcResult form = s.rtcResult form := by
  unfold State.rtcResult State.flag
  rw [hc, hf]

/-- RTC_READ (R201). -/
theorem exec_rtcRead_alone {h : PHost} {j q : Ring} {d : Desc} {s : State} (ha : s.Accepts h j q .rtcRead d) :
    ∃ t, exec (.rtcRead h j d) s = .next t ∧
      s.Completes t h j q d { status := Status.done, result := BitVec.ofNat 64 (s.rtcResult (bit d.p0.toNat 0)) } ∧ t.rest = s.rest ∧
      ∀ a, notRing a → t.reg a = s.reg a := by
  have hdo := (advance_reading (begun_goes ha [] {})).1 rfl
  rw [rtcResult_congr (rest_rtc (begun_rest s h j _ {})) (begun_get s h j _ [] {} _ (low_ne h j _ (.inl (by decide))) (by decide))] at hdo
  obtain ⟨t, ht, hc, hr, hreg⟩ := local_cells ha rfl [] {} (.inr ⟨rfl, rfl⟩) _ _ _ rfl (Touched.rfl' _) hdo
  exact ⟨t, congrArg _ ht, hc, hr.trans (begun_rest s h j _ {}), hreg⟩

/-- The counters rest on region 63's device state (R279). -/
theorem counter_begun (s : State) (h : PHost) (j : Ring) (f : Flight) (p : PadTraffic) (k : Nat) : (s.begun h j f [] p).counter k = s.counter k := by
  unfold State.counter
  rw [rest_dev (begun_rest s h j f p)]

/-- COUNTER_READ with its link open (R279). -/
theorem doCounters_free {s : State} {i : Nat} {f : Flight} (hb : s.blocked i f = false) (hl : s.linkOpen f.host = true) :
    s.doCounters i f = if bit f.d.p0.toNat 8 then
        (s.toHost f.host f.d.haddr.toNat ((List.range 16).flatMap (fun k => leBytes (s.counter k) 8))).fixFlight i { status := Status.done }
      else s.fixFlight i { status := Status.done, result := BitVec.ofNat 64 (s.counter (bits f.d.p0.toNat 3 0)), aux := BitVec.ofNat 32 (bits f.d.p0.toNat 3 0) } := by
  unfold State.doCounters
  rw [if_neg (by rw [hb, hl]; decide)]

/-- COUNTER_READ as it arrives alone goes on at once. -/
theorem counterRead_advance {h : PHost} {j q : Ring} {d : Desc} (p : PadTraffic) {s : State} (ha : s.Accepts h j q .counterRead d) :
    (s.begun h j (newFlight h j .counterRead d) [] p).advance 0 = if bit d.p0.toNat 8 then
        ((s.begun h j (newFlight h j .counterRead d) [] p).toHost h d.haddr.toNat ((List.range 16).flatMap (fun k => leBytes (s.counter k) 8))).fixFlight 0
          { status := Status.done }
      else (s.begun h j (newFlight h j .counterRead d) [] p).fixFlight 0
        { status := Status.done, result := BitVec.ofNat 64 (s.counter (bits d.p0.toNat 3 0)), aux := BitVec.ofNat 32 (bits d.p0.toNat 3 0) } := by
  have hdo := (advance_reading (begun_goes ha [] p)).2.1 rfl
  rw [doCounters_free (blocked_zero _ _) (begun_open s h j _ [] p ha.1.1)] at hdo
  simp only [counter_begun] at hdo
  exact hdo

/-- COUNTER_READ of one counter (R279). -/
theorem exec_counterRead_one {h : PHost} {j q : Ring} {d : Desc} {p : PadTraffic} {s : State} (ha : s.Accepts h j q .counterRead d)
    (hp : padLost p = none) (hone : bit d.p0.toNat 8 = false) : ∃ t, exec (.counterRead h j d p) s = .next t ∧
      s.Completes t h j q d { status := Status.done, result := BitVec.ofNat 64 (s.counter (bits d.p0.toNat 3 0)), aux := BitVec.ofNat 32 (bits d.p0.toNat 3 0) } ∧
      t.rest = s.rest ∧ ∀ a, notRing a → t.reg a = s.reg a := by
  have hdo := (counterRead_advance p ha).trans (if_neg (by rw [hone]; decide))
  obtain ⟨t, ht, hc, hr, hreg⟩ := local_cells ha rfl [] p (.inl ⟨rfl, hp⟩) _ _ _ rfl (Touched.rfl' _) hdo
  exact ⟨t, congrArg _ ht, hc, hr.trans (begun_rest s h j _ p), hreg⟩

/-- COUNTER_READ of every counter (R279). -/
theorem exec_counterRead_all {h : PHost} {j q : Ring} {d : Desc} {p : PadTraffic} {s : State} (ha : s.Accepts h j q .counterRead d)
    (hp : padLost p = none) (hall : bit d.p0.toNat 8 = true) : ∃ t, exec (.counterRead h j d p) s = .next t ∧
      s.Completes t h j q d { status := Status.done } ∧
      .hostWrite h d.haddr.toNat ((List.range 16).flatMap (fun k => leBytes (s.counter k) 8)) ∈ t.out ∧
      t.rest = s.rest ∧ ∀ a, notRing a → t.reg a = s.reg a := by
  have some_bytes : (List.range 16).flatMap (fun k => leBytes (s.counter k) 8) ≠ [] := by simp [List.range_succ, leBytes]
  obtain ⟨t, ht, facts⟩ := local_shows ha rfl (.inl ⟨rfl, hp⟩) rfl some_bytes ((counterRead_advance p ha).trans (if_pos hall))
  exact ⟨t, congrArg _ ht, facts⟩

/-- The bytes of a record that LEDGER_QUERY sends: none, its words, or its NL6436 view (R273, R278). -/
def Rec.answer (x : Rec) (d : Desc) : List Byte :=
  if Desc.n d = 0 then [] else wordSlots (if bit d.p0.toNat 1 then x.compat else x.words)

/-- LEDGER_QUERY of a record, with its link open (R273, R278). -/
theorem doQuery_free {s : State} {i : Nat} {f : Flight} {r : Nat} (hb : s.blocked i f = false) (hl : s.linkOpen f.host = true)
    (hr : (if bit f.d.p0.toNat 0 then some (Desc.a f.d) else s.newest f.d.sheet) = some r) :
    s.doQuery i f = ((s.meetRec r).toHost f.host f.d.haddr.toNat ((s.record r).answer f.d)).fixFlight i
      { status := Status.done, result := (s.record r).result, aux := BitVec.ofNat 32 r } := by
  unfold State.doQuery Rec.answer
  rw [if_neg (by rw [hb, hl]; decide), hr]
  dsimp only
  split_ifs <;> rfl

/-- LEDGER_QUERY (R273, R278), after the errors of its record are met (log entry 124). -/
theorem exec_ledgerQuery_alone {h : PHost} {j q : Ring} {d : Desc} {p : PadTraffic} {s b : State} {r : Nat} (ha : s.Accepts h j q .ledgerQuery d)
    (hp : padLost p = none) (hb : b = s.begun h j (newFlight h j .ledgerQuery d) p.ups p)
    (hr : (if bit d.p0.toNat 0 then some (Desc.a d) else b.newest d.sheet) = some r) :
    ∃ t, exec (.ledgerQuery h j d p) s = .next t ∧
      s.Completes t h j q d { status := Status.done, result := (b.record r).result, aux := BitVec.ofNat 32 r } ∧
      (Desc.n d ≠ 0 → .hostWrite h d.haddr.toNat (wordSlots (if bit d.p0.toNat 1 then (b.record r).compat else (b.record r).words)) ∈ t.out) ∧
      t.rest = (b.meetRec r).rest ∧ ∀ a, notRing a → t.reg a = (b.meetRec r).reg a := by
  have hgo := begun_goes ha p.ups p
  have hl := begun_open s h j (newFlight h j .ledgerQuery d) p.ups p ha.1.1
  rw [← hb] at hgo hl
  have hdo := ((advance_reading hgo).2.2.1 rfl).trans (doQuery_free (blocked_zero _ _) hl hr)
  obtain ⟨t, ht, hc, ho, facts⟩ := local_answers ha rfl (.inl ⟨rfl, hp⟩) hb (Quiet.meetRec b r) hdo
  refine ⟨t, congrArg _ ht, hc, fun hn => ?_, facts⟩
  have sent : (b.record r).answer d = wordSlots (if bit d.p0.toNat 1 then (b.record r).compat else (b.record r).words) := if_neg hn
  rw [← sent]
  exact ho (by rw [show (newFlight h j .ledgerQuery d).d = d from rfl, sent]; exact slots_ne (by split <;> exact List.cons_ne_nil _ _))

/-- What a Keep read finds rests on the Keep and the power state. -/
theorem keepReads_congr {s t : State} (hk : t.keep = s.keep) (hp : t.pwr = s.pwr) :
    (∀ w, t.readKeep w = s.readKeep w) ∧ (∀ p, t.keepWaits p = s.keepWaits p) ∧ ∀ p, t.chooseRecord p = s.chooseRecord p := by
  have hot : ∀ p, t.isHot p = s.isHot p := fun p => by simp only [State.isHot, State.inHot, State.serving, hk, hp]
  have word : ∀ w, t.readKeep w = s.readKeep w := fun w => by simp only [State.readKeep, State.hotWord, State.keepArray, hot, hk]
  have page : ∀ p, t.readPage p = s.readPage p := fun p => by simp only [State.readPage, word]
  refine ⟨word, fun p => ?_, fun p => ?_⟩
  · simp only [State.keepWaits, State.hotChanging, State.inHot, hot, keepBusy_congr s t hk, hk]
  · unfold State.chooseRecord
    rw [page, page]

/-- KEEP_READ with no page that waits and its link open (R289). -/
theorem doKeepRead_free {s : State} {i : Nat} {f : Flight} (hb : s.blocked i f = false)
    (hw : (keepPages (Desc.a f.d) (Desc.n f.d / 4)).any s.keepWaits = false) (hl : s.linkOpen f.host = true) :
    s.doKeepRead i f = (s.toHost f.host f.d.haddr.toNat (wordSlots ((List.range (Desc.n f.d / 4)).map (fun k => s.readKeep (Desc.a f.d + k))))).fixFlight i
      { status := Status.done, result := BitVec.ofNat 64 (Desc.n f.d) } := by
  unfold State.doKeepRead
  dsimp only
  rw [if_neg (by rw [hb, hw, hl]; decide)]

/-- RECORD_GET of a record with a valid copy, no page that waits and its link open (R304). -/
theorem doGet_free {s : State} {i : Nat} {f : Flight} {c : Choice} (hb : s.blocked i f = false) (ha : s.keepWaits (Desc.pageA f.d) = false)
    (hb' : s.keepWaits (Desc.pageA f.d + 1) = false) (hl : s.linkOpen f.host = true) (hc : s.chooseRecord (Desc.pageA f.d) = some c) :
    s.doGet i f = (s.toHost f.host f.d.haddr.toNat (wordSlots ((List.range (Desc.n f.d / 4)).map
        (fun k => keepWord tagCommitted (BitVec.ofNat 16 (c.payload.getD k 0)))))).fixFlight i
      { status := Status.done, result := BitVec.ofNat 64 (c.seq + b2n c.copyB * 2 ^ 16 + b2n c.twin * 2 ^ 17) } := by
  unfold State.doGet
  dsimp only
  rw [if_neg (by rw [hb, ha, hb', hl]; decide), hc]

theorem rangeSlots_ne {n : Nat} (hn : 4 ≤ n) (g : Nat → Word) : wordSlots ((List.range (n / 4)).map g) ≠ [] :=
  slots_ne (List.ne_nil_of_length_pos (by rw [List.length_map, List.length_range]; omega))

/-- KEEP_READ (R289). -/
theorem exec_keepRead_alone {h : PHost} {j q : Ring} {d : Desc} {p : PadTraffic} {s : State} (ha : s.Accepts h j q .keepRead d)
    (hp : padLost p = none) (hw : (keepPages (Desc.a d) (Desc.n d / 4)).any s.keepWaits = false) :
    ∃ t, exec (.keepRead h j d p) s = .next t ∧ s.Completes t h j q d { status := Status.done, result := BitVec.ofNat 64 (Desc.n d) } ∧
      .hostWrite h d.haddr.toNat (wordSlots ((List.range (Desc.n d / 4)).map (fun k => s.readKeep (Desc.a d + k)))) ∈ t.out ∧
      t.rest = s.rest ∧ ∀ a, notRing a → t.reg a = s.reg a := by
  have rest := begun_rest s h j (newFlight h j .keepRead d) p
  obtain ⟨word, waits, -⟩ := keepReads_congr (rest_keep rest) (rest_pwr rest)
  have hdo := ((advance_reading (begun_goes ha [] p)).2.2.2.1 rfl).trans
    (doKeepRead_free (blocked_zero _ _) (by rw [funext waits]; exact hw) (begun_open s h j _ [] p ha.1.1))
  simp only [word] at hdo
  obtain ⟨t, ht, facts⟩ := local_shows ha rfl (.inl ⟨rfl, hp⟩) rfl (rangeSlots_ne (accepts_keep ha.2 (.inl rfl)).1 _) hdo
  exact ⟨t, congrArg _ ht, facts⟩

/-- RECORD_GET (R303, R304). -/
theorem exec_recordGet_alone {h : PHost} {j q : Ring} {d : Desc} {p : PadTraffic} {s : State} {c : Choice} (ha : s.Accepts h j q .recordGet d)
    (hp : padLost p = none) (hwa : s.keepWaits (Desc.pageA d) = false) (hwb : s.keepWaits (Desc.pageA d + 1) = false)
    (hc : s.chooseRecord (Desc.pageA d) = some c) : ∃ t, exec (.recordGet h j d p) s = .next t ∧
      s.Completes t h j q d { status := Status.done, result := BitVec.ofNat 64 (c.seq + b2n c.copyB * 2 ^ 16 + b2n c.twin * 2 ^ 17) } ∧
      .hostWrite h d.haddr.toNat (wordSlots ((List.range (Desc.n d / 4)).map (fun k => keepWord tagCommitted (BitVec.ofNat 16 (c.payload.getD k 0))))) ∈ t.out ∧
      t.rest = s.rest ∧ ∀ a, notRing a → t.reg a = s.reg a := by
  have rest := begun_rest s h j (newFlight h j .recordGet d) p
  obtain ⟨-, waits, choice⟩ := keepReads_congr (rest_keep rest) (rest_pwr rest)
  have hdo := ((advance_reading (begun_goes ha [] p)).2.2.2.2.1 rfl).trans (doGet_free (blocked_zero _ _) ((waits _).trans hwa) ((waits _).trans hwb)
    (begun_open s h j _ [] p ha.1.1) ((choice _).trans hc))
  obtain ⟨t, ht, facts⟩ := local_shows ha rfl (.inl ⟨rfl, hp⟩) rfl (rangeSlots_ne (accepts_keep ha.2 (.inr (.inr (.inr rfl)))).1 _) hdo
  exact ⟨t, congrArg _ ht, facts⟩

/-- RTC_SET (R327, R329). -/
theorem exec_rtcSet_alone {h : PHost} {j q : Ring} {d : Desc} {s : State} (ha : s.Accepts h j q .rtcSet d) :
    ∃ t, exec (.rtcSet h j d) s = .next t ∧ s.Completes t h j q d { status := Status.done } ∧ t.rtc.now = Desc.calendar d ∧
      t.rtc.trim = signed 10 (s.get Reg.RTC_CTL_TRIM) ∧
      (s.pwr.xtal = true → s.pwr.clockHeld = false → t.get Reg.RTC_STATUS_OSF = 0 ∧ t.get Reg.RTC_STATUS_ATTACH = 0 ∧
        t.get Reg.RTC_STATUS_STOP = 0 ∧ t.get Reg.RTC_STATUS_LOWBAT = 0 ∧ t.get Reg.RTC_STATUS_ROLL = 0) := by
  obtain ⟨quiet, now, trim, cleared⟩ := timeSet_facts (s.begun h j (newFlight h j .rtcSet d) []) (Desc.calendar d)
  have hdo := (advance_reading (begun_goes ha [] {})).2.2.2.2.2 rfl
  obtain ⟨t, ht, hc, -, hr, hreg⟩ := local_quiet ha rfl [] {} (.inr ⟨rfl, rfl⟩) _ _ _ rfl quiet hdo
  have clock := rest_rtc hr
  have shown : ∀ f : Fld, f.addr < 0x720 → t.get f = (State.timeSet (s.begun h j (newFlight h j .rtcSet d) []) (Desc.calendar d)).get f := fun f hf => by
    unfold State.get
    rw [hreg _ (low_notRing _ (.inl hf) (by omega))]
  refine ⟨t, congrArg _ ht, hc, ?_, ?_, fun hx hh => ?_⟩
  · rw [clock]
    exact now
  · rw [clock]
    exact trim.trans (congrArg (signed 10) (begun_get s h j _ [] {} _ (low_ne h j _ (.inl (by decide))) (by decide)))
  · have pwr := rest_pwr (begun_rest s h j (newFlight h j .rtcSet d) {})
    have zero := cleared (by rw [pwr]; exact hx) (by rw [pwr]; exact hh)
    exact ⟨(shown _ (by decide)).trans (zero _ (.inl rfl)), (shown _ (by decide)).trans (zero _ (.inr (.inl rfl))),
      (shown _ (by decide)).trans (zero _ (.inr (.inr (.inl rfl)))), (shown _ (by decide)).trans (zero _ (.inr (.inr (.inr (.inl rfl))))),
      (shown _ (by decide)).trans (zero _ (.inr (.inr (.inr (.inr rfl)))))⟩

/-- Settles O14: each opcode by the one step that its descriptor takes as it arrives. -/
theorem readingDescriptors : Obligations.ReadingDescriptors :=
  ⟨fun _ _ _ _ d _ ha hop => exec_badOpcode_done d ha hop, fun _ _ _ _ _ ha => exec_rtcRead_alone ha,
    fun _ _ _ _ _ _ ha hp hone => exec_counterRead_one ha hp hone, fun _ _ _ _ _ _ ha hp hall => exec_counterRead_all ha hp hall,
    fun _ _ _ _ _ _ _ _ ha hp hb hr => exec_ledgerQuery_alone ha hp hb hr, fun _ _ _ _ _ _ ha hp hw => exec_keepRead_alone ha hp hw,
    fun _ _ _ _ _ _ _ ha hp hwa hwb hc => exec_recordGet_alone ha hp hwa hwb hc, fun _ _ _ _ _ ha => exec_rtcSet_alone ha⟩

end Sys2Proof.Machine

namespace Sys2Proof.Machine
open Sys2Proof

/-! Tables of a station: TABLE_LOAD and TABLE_SWAP (R230 to R232): O17 -/

theorem descStn_lt (d : Desc) : Desc.stn d < 8 := Nat.mod_lt _ (by decide)

/-- The status of an opcode that names a station rests on STN_STATUS (R227). -/
theorem stnStatus_congr {s t : State} {n : Nat} (h : t.reg (0x802 + 0x80 * n) = s.reg (0x802 + 0x80 * n)) : t.stnStatus n = s.stnStatus n := by
  have shown : ∀ f : Fld, f.addr = 0x802 + 0x80 * n → t.flag f = s.flag f := fun f hf => by unfold State.flag State.get; rw [hf, h]
  unfold State.stnStatus State.degraded
  rw [shown (Reg.STN_STATUS_DEG_EMIT n) rfl, shown (Reg.STN_STATUS_DEG_LINK n) rfl]

theorem advance_tableLoad {s : State} {i : Nat} {f : Flight} (h : s.Goes i f) (ho : f.op = .tableLoad) (hb : f.buf ≠ []) :
    s.advance i = s.placeTable i f := by
  unfold State.advance
  rw [h.here]
  simp [h.compl, h.committed, h.lost, h.calm, ho, hb]

/-- A bank that is not COPYING, and no swap before it, hold no TABLE_LOAD back (R231). -/
theorem loadWaits_first {s : State} {f : Flight} (h : ((s.stn f.d.stn).table f.d.tbl).state ≠ .copying) : s.loadWaits 0 f = false := by
  simp [State.loadWaits, h]

/-- TABLE_LOAD of words within their check (R230, R231). -/
theorem exec_tableLoad_sound {h : PHost} {j q : Ring} {d : Desc} {data : HostData} {p : PadTraffic} {s : State} {x : Table}
    (ha : s.Accepts h j q .tableLoad d) (hp : padLost p = none) (hd : s.Delivers (newFlight h j .tableLoad d) data)
    (hc : ((s.stn d.stn).table d.tbl).state ≠ .copying)
    (hl : ((s.stn d.stn).table d.tbl).load d.tbl (Desc.a d) (slotWords data.bytes) 0 = (x, Desc.n d / 4, none)) :
    ∃ t, exec (.tableLoad h j d data p) s = .next t ∧
      s.Completes t h j q d { status := s.stnStatus d.stn, result := BitVec.ofNat 64 (Desc.n d) } ∧
      (t.stn d.stn).table d.tbl = loadedTable d x ∧ (∀ k, k ≠ d.tbl → (t.stn d.stn).table k = (s.stn d.stn).table k) ∧
      (∀ n, n ≠ d.stn → t.stn n = s.stn n) ∧ ∀ a, notRing a → t.reg a = s.reg a := by
  obtain ⟨h4, hmod⟩ := accepts_table ha.2
  have hn : 0 < Desc.n d := by omega
  obtain ⟨breg, -, -, -, -, bflights⟩ := asked_facts s h j (newFlight h j .tableLoad d) ((askedFlight h j .tableLoad d).receive data) [] p
  have bstn : ∀ n, (s.asked h j (newFlight h j .tableLoad d) ((askedFlight h j .tableLoad d).receive data) [] p).stn n = s.stn n :=
    stn_congr (rest_stns (asked_rest s h j _ _ p))
  have hgo := asked_goes ha hd [] p
  generalize hb : s.asked h j (newFlight h j .tableLoad d) ((askedFlight h j .tableLoad d).receive data) [] p = b at breg bflights bstn hgo
  rw [receive_all hd] at bflights
  obtain ⟨u, place, ⟨m, hu⟩, table, tables, stations⟩ := placeTable_all b { askedFlight h j .tableLoad d with buf := data.bytes } x rfl rfl hmod
    (loadWaits_first (by rw [bstn]; exact hc)) (by rw [bstn]; exact hl)
  have ureg : u.reg = b.reg := by rw [hu]; rfl
  have status : u.stnStatus d.stn = s.stnStatus d.stn := stnStatus_congr (by
    have := descStn_lt d
    rw [ureg]
    exact breg _ (low_ne h j _ (.inr (by omega))) (by omega))
  have quiet : Quiet b { u with flights := b.flights } := by rw [hu]; exact Quiet.of rfl rfl rfl rfl rfl
  rw [show (askedFlight h j .tableLoad d).d = d from rfl, status] at place
  obtain ⟨t, ht, hcompl, -, hr, hreg⟩ := host_quiet ha rfl data hd hn [] p (.inl ⟨rfl, hp⟩) b u _ hb.symm
    { askedFlight h j .tableLoad d with buf := data.bytes } (by rw [hu]; exact bflights) ⟨rfl, rfl, rfl, rfl⟩ quiet
    ((advance_tableLoad hgo rfl (delivers_ne_nil hd hn)).trans place)
  have tstn : ∀ n, t.stn n = u.stn n := stn_congr (rest_stns hr)
  refine ⟨t, congrArg _ ht, hcompl, ?_, fun k hk => ?_, fun n hne => ?_, fun a hna => ?_⟩
  · rw [tstn]
    exact table
  · rw [tstn, ← bstn]
    exact tables k hk
  · rw [tstn, ← bstn]
    exact stations n hne
  · rw [hreg a hna, ureg]
    exact breg a (hna.1 h j).1 hna.2

/-- A swap whose waits have ended is checked (R232). -/
theorem exec_tableSwapReady_checks {h : PHost} {j : Ring} {tag : BitVec 16} (t : Nat) {s : State} {i : Nat} {f : Flight} (hs : s.serving = true)
    (hf : s.swapFlight h j tag = some (i, f)) (hr : (s.host h).retraining = false) (hc : s.swapMayCheck i f = true) :
    exec (.tableSwapReady h j tag t) s = .next (s.swapCheck i f t).settle := by
  refine congrArg Host.Outcome.next ?_
  rw [hf]
  exact if_pos ⟨hs, by rw [hr]; decide, hc⟩

theorem swapFlight_here {h : PHost} {j : Ring} {tag : BitVec 16} {s : State} {i : Nat} {f : Flight} (hf : s.swapFlight h j tag = some (i, f)) :
    s.flights[i]? = some f := (findFlight_facts _ _ _ _ hf).1

/-- A refused swap: its event, its status, and no bank changed (R232). -/
theorem swapCheck_refused {s : State} {i : Nat} {f : Flight} (t : Nat) (here : s.flights[i]? = some f) (hk : (s.stn f.d.stn).swapOk f.d.mask = false) :
    (s.swapCheck i f t).get (Reg.STN_EVENT_SWAP_REJ f.d.stn) = 1 ∧
    (s.swapCheck i f t).flights[i]? = some { f with compl := some { status := Status.badRange }, committed := true, stage := .done } ∧
    (s.swapCheck i f t).stns = s.stns := by
  unfold State.swapCheck
  dsimp only
  rw [hk, if_pos (by decide)]
  refine ⟨event_get_same _ _ _ _ _ (show 10 < 18 by decide) rfl, ?_, ?_⟩
  · exact (congrArg (·[i]?) (event_flights _ _ _ _ _)).trans ((fixFlight_get s i i f _ here).trans (if_pos rfl))
  · exact (event_stns _ _ _ _ _).trans (fixFlight_keeps State.stns (fun _ _ _ => rfl) s i _)

/-- A swap of an armed station waits for the next facet (R232). -/
theorem swapCheck_ready {s : State} {i : Nat} {f : Flight} (t : Nat) (hk : (s.stn f.d.stn).swapOk f.d.mask = true) (ha : s.stnArmed f.d.stn = true) :
    s.swapCheck i f t = s.setFlight i { f with stage := .swapReady, ready := t } := by
  unfold State.swapCheck
  dsimp only
  rw [hk, if_neg (by decide), if_pos ha]

/-- A swap of an unarmed station takes effect at once (R232). -/
theorem swapCheck_now {s : State} {i : Nat} {f : Flight} (t : Nat) (hk : (s.stn f.d.stn).swapOk f.d.mask = true) (ha : s.stnArmed f.d.stn = false) :
    s.swapCheck i f t = s.swapNow i f := by
  unfold State.swapCheck
  dsimp only
  rw [hk, if_neg (by decide), if_neg (by rw [ha]; decide)]

/-- A swap in effect: its completion, the exchanged banks and the others (R201, R232). -/
theorem swapNow_facts {s : State} {i : Nat} {f : Flight} (here : s.flights[i]? = some f) :
    (∃ g, (s.swapNow i f).flights[i]? = some g ∧ g.compl = some { status := (s.swapNow i f).stnStatus f.d.stn, result := BitVec.ofNat 64 f.d.mask }) ∧
    (∀ k, k ∈ maskTables f.d.mask → (((s.swapNow i f).stn f.d.stn).table k).active = ((s.stn f.d.stn).table k).idle ∧
      (((s.swapNow i f).stn f.d.stn).table k).idle = ((s.stn f.d.stn).table k).active ∧
      (((s.swapNow i f).stn f.d.stn).table k).bank = !((s.stn f.d.stn).table k).bank ∧ (((s.swapNow i f).stn f.d.stn).table k).state = .copying) ∧
    ∀ k, k ∉ maskTables f.d.mask → ((s.swapNow i f).stn f.d.stn).table k = (s.stn f.d.stn).table k := by
  obtain ⟨flights, -, swapped, others⟩ := swapTables_facts s f.d.stn f.d.mask
  have status : (s.swapNow i f).stnStatus f.d.stn = (s.swapTables f.d.stn f.d.mask).stnStatus f.d.stn :=
    fixFlight_keeps (fun t => t.stnStatus f.d.stn) (fun _ _ _ => rfl) _ i _
  have station : (s.swapNow i f).stn f.d.stn = (s.swapTables f.d.stn f.d.mask).stn f.d.stn :=
    fixFlight_keeps (fun t => t.stn f.d.stn) (fun _ _ _ => rfl) _ i _
  rw [status, station]
  exact ⟨⟨_, (fixFlight_get _ i i f _ (by rw [flights]; exact here)).trans (if_pos rfl), rfl⟩, swapped, others⟩

end Sys2Proof.Machine

namespace Sys2Proof.Machine
open Sys2Proof

/-! Bands of a sheet: RASTER_POST, the sheets' queue and wait limits (R195, R209 to R213): O17 -/

theorem advance_rasterPost {s : State} {i : Nat} {f : Flight} (h : s.Goes i f) (ho : f.op = .rasterPost) : s.advance i = s.doRaster i f := by
  unfold State.advance
  rw [h.here]
  simp [h.compl, h.committed, h.lost, h.calm, ho]

/-- An accepted RASTER_POST of the one descriptor in progress: its band is noted, and it waits for ring space (R211, R212). -/
def State.bandNoted (s : State) (f : Flight) (r : Nat) : State := (s.rasterAccept f.d r).setFlight 0 { f with stage := .ringSpace }

/-- It changes stations and the descriptor's stage alone. -/
theorem bandNoted_eq {s : State} {f : Flight} (r : Nat) (hf : s.flights = [f]) :
    ∃ m, s.bandNoted f r = { s with stns := m, flights := [{ f with stage := .ringSpace }] } := by
  obtain ⟨⟨m, hm⟩, -⟩ := rasterAccept_facts s f.d r
  exact ⟨m, by rw [State.bandNoted, hm, setFlight_one { s with stns := m } f _ hf]⟩

/-- What passes Table 8-2 has a ring whose regions take writes (R99). -/
theorem ringRetired_of_check {s : State} {f : Flight} {r : Nat} (h : s.rasterCheck f.host f.d = .ok r) : s.ringRetired f = false := by
  unfold State.rasterCheck at h
  dsimp only at h
  have ring : s.rangeCheck (f.host.val + 1) (s.ringBase f.d.stn) (s.ringEnd f.d.stn - 1) true false = none := by
    generalize s.rangeCheck (f.host.val + 1) (s.ringBase f.d.stn) (s.ringEnd f.d.stn - 1) true false = e at h
    cases e with
    | none => rfl
    | some e => split_ifs at h
  rw [State.ringRetired, ring]
  rfl

/-- An accepted RASTER_POST waits on: it asks for no data and goes no further until its band is published. -/
theorem bandNoted_waits {s : State} {f : Flight} {r : Nat} (hf : s.flights = [f]) (hgo : s.Goes 0 f) (ho : f.op = .rasterPost)
    (he : f.ending = none) (hl : f.lacks = false) (hc : s.rasterCheck f.host f.d = .ok r) :
    (s.bandNoted f r).askAll = s.bandNoted f r ∧ (s.bandNoted f r).advanceAll = s.bandNoted f r := by
  obtain ⟨m, hm⟩ := bandNoted_eq r hf
  have ring : (s.bandNoted f r).ringRetired { f with stage := .ringSpace } = false := by
    have takes := ringRetired_of_check hc
    rw [hm]
    exact takes
  have flights : (s.bandNoted f r).flights = [{ f with stage := .ringSpace }] := by rw [hm]
  have goes : (s.bandNoted f r).Goes 0 { f with stage := .ringSpace } :=
    ⟨by rw [flights]; rfl, hgo.compl, hgo.committed, hgo.lost, by rw [hm]; exact hgo.calm⟩
  exact ⟨askAll_idle _ _ flights hl, (advanceAll_one _ _ flights).trans ((advance_rasterPost goes ho).trans (doRaster_stays _ _ 0 he rfl ring))⟩

/-- The first step of a RASTER_POST that passes Table 8-2 (R211). -/
theorem advance_bandNoted {s : State} {f : Flight} {r : Nat} (hgo : s.Goes 0 f) (ho : f.op = .rasterPost) (he : f.ending = none)
    (hs : f.stage = .data) (hc : s.rasterCheck f.host f.d = .ok r) : s.advance 0 = s.bandNoted f r :=
  (advance_rasterPost hgo ho).trans (doRaster_ok s f r he (by rw [hs]; decide) (blocked_zero _ _) hc)

/-- A RASTER_POST of lines of no bytes has no data to ask for. -/
theorem rasterPost_arrives_empty {s : State} {h : PHost} {j q : Ring} {d : Desc} (data : HostData) (ha : s.Accepts h j q .rasterPost d)
    (hn : Desc.n d = 0) : s.descArrive h j .rasterPost d data [] = (s.begun h j (newFlight h j .rasterPost d) []).settle := by
  obtain ⟨⟨h1, h2, -⟩, h3⟩ := ha
  have none_left : (s.advanceHead h j).flights = [] := h2
  have idle : (newFlight h j .rasterPost d).lacks = false := by simp [Flight.lacks, Flight.received, newFlight, hn]
  have asks : ({ s.advanceHead h j with flights := [newFlight h j .rasterPost d] } : State).askData 0 =
      { s.advanceHead h j with flights := [newFlight h j .rasterPost d] } := by
    unfold State.askData
    dsimp only [List.getElem?_cons_zero]
    rw [idle]
    exact if_neg (by simp)
  unfold State.descArrive
  rw [if_pos h1]
  dsimp only
  rw [h3]
  dsimp only
  rw [if_pos (by decide), none_left]
  refine Eq.trans (congrArg (fun u : State => State.settle (match u.flights[0]? with
    | some g => if g.awaits then u.takeData 0 g data [] {} else u
    | none => u)) asks) ?_
  have waits : (newFlight h j .rasterPost d).awaits = false := by rw [Flight.awaits, idle, Bool.false_and]
  dsimp only [List.getElem?_cons_zero]
  rw [waits, begun_nil, padWrites_nil]
  rfl

/-- A RASTER_POST that passes Table 8-2 has its band noted: in the state that has asked for its data, or, where its lines have no bytes,
in one that differs from it in what was sent. -/
theorem exec_rasterPost_noted {h : PHost} {j q : Ring} {d : Desc} {data : HostData} {s b : State} {r : Nat} (ha : s.Accepts h j q .rasterPost d)
    (hd : s.Delivers (newFlight h j .rasterPost d) data)
    (hb : b = s.asked h j (newFlight h j .rasterPost d) { askedFlight h j .rasterPost d with buf := data.bytes } [])
    (hc : b.rasterCheck h d = .ok r) :
    ∃ v : State, v = { b with hosts := v.hosts, out := v.out } ∧ v.flights = [{ askedFlight h j .rasterPost d with buf := data.bytes }] ∧
      exec (.rasterPost h j d data) s = .next (v.bandNoted { askedFlight h j .rasterPost d with buf := data.bytes } r).settle := by
  have staged : Staged .rasterPost {} := .inr ⟨rfl, rfl⟩
  have full := receive_full hd
  rw [receive_all hd] at full
  rcases Nat.eq_zero_or_pos (Desc.n d) with hn | hn
  · have no_data : data.bytes = [] := List.eq_nil_of_length_eq_zero (hd.2.1.trans hn)
    have same : ({ askedFlight h j .rasterPost d with buf := data.bytes } : Flight) = newFlight h j .rasterPost d := by
      rw [askedFlight, no_data, hn]
      rfl
    rw [same] at hb full ⊢
    have sent : s.begun h j (newFlight h j .rasterPost d) [] =
        { b with hosts := (s.begun h j (newFlight h j .rasterPost d) []).hosts, out := (s.begun h j (newFlight h j .rasterPost d) []).out } := by
      rw [hb, asked_nil, begun_nil, padWrites_nil, padWrites_nil]
      rfl
    have passes : (s.begun h j (newFlight h j .rasterPost d) []).rasterCheck h d = .ok r := by
      rw [sent]
      exact hc
    have goes := begun_goes ha [] {}
    obtain ⟨-, pwr, -, -, -, alone⟩ := begun_facts s h j (newFlight h j .rasterPost d) []
    obtain ⟨m, noted⟩ := bandNoted_eq r alone
    obtain ⟨asks, stays⟩ := bandNoted_waits alone goes rfl rfl full passes
    have step := advance_bandNoted goes rfl rfl rfl passes
    refine ⟨_, sent, alone, congrArg Host.Outcome.next ((rasterPost_arrives_empty data ha hn).trans ?_)⟩
    rw [settle_again _ _ alone full (serving_congr s _ (arrives_serving ha.1) (by rw [pwr])) (by rw [step, noted]) (by rw [step]; exact asks)
      (by rw [step]; exact stays), step]
  · have goes := asked_goes ha hd [] {}
    obtain ⟨-, pwr, -, -, -, alone⟩ := asked_facts s h j (newFlight h j .rasterPost d) ((askedFlight h j .rasterPost d).receive data) [] {}
    rw [receive_all hd, ← hb] at goes pwr alone
    obtain ⟨m, noted⟩ := bandNoted_eq r alone
    obtain ⟨asks, stays⟩ := bandNoted_waits alone goes rfl rfl full hc
    refine ⟨b, rfl, alone, congrArg Host.Outcome.next (host_starts ha rfl data hd hn {} staged _ ?_ (by rw [noted]; exact pwr) asks stays)⟩
    rw [receive_all hd, ← hb]
    exact advance_bandNoted goes rfl rfl rfl hc

/-- The next sheet joins a queue of fewer than 16 (R209, R210). -/
theorem joinQueue_joins {s : State} {n : Nat} {o : Int} {p : Nat} {g : Sheet} (ho : s.nextOrigin n = some (o, p))
    (hg : (s.stn n).sheets.find? (fun h => !h.queued && !h.posted.isEmpty) = some g) (hq : (s.stn n).queue.length < 16) :
    s.joinQueue n = s.setStn n ((s.stn n).mapSheet g.rec_ (fun x => { x with queued := true, origin := o, pos := p })) := by
  unfold State.joinQueue
  dsimp only
  rw [ho, hg]
  exact if_pos hq

/-- A band whose slots are free, in a ring that takes writes, is published (R212, R213). -/
theorem exec_rasterPostPublish_ready {h : PHost} {j : Ring} {tag : BitVec 16} {s : State} {i : Nat} {f : Flight} {g : Sheet} (hs : s.serving = true)
    (hf : s.bandFlight h j tag = some (i, f)) (hg : s.bandReady f = some g) (hr : s.ringRetired f = false) :
    exec (.rasterPostPublish h j tag) s = .next (s.publish i f g).settle := by
  refine congrArg Host.Outcome.next ?_
  rw [hf]
  dsimp only
  rw [hg]
  exact if_pos ⟨hs, by rw [hr]; decide⟩

/-- A wait limit that expires stops the oldest waiting descriptor of its tag (R195). -/
theorem exec_waitLimitExpiry_stops {h : PHost} {j : Ring} {tag : BitVec 16} {s : State} {k : Nat} {e : Flight} (hs : s.serving = true)
    (he : s.findFlight (fun e => decide (e.host = h ∧ e.sq = j ∧ e.d.tag = tag) && waitsLimited e.op && e.open_) = some (k, e)) :
    exec (.waitLimitExpiry h j tag) s = .next (s.stopFlight k e Status.timeout).settle := by
  refine congrArg Host.Outcome.next ((if_pos hs).trans (congrArg State.settle ?_))
  unfold State.waitExpired
  rw [he]

/-- A stopped descriptor has the status of its stop (R180). -/
theorem stopFlight_here {s : State} {k : Nat} {e : Flight} (st : Byte) (here : s.flights[k]? = some e) : (s.stopFlight k e st).flights[k]? =
    some { e with compl := some { status := st, result := e.stopResult }, committed := true, stage := .done } :=
  (fixFlight_get (s.undo k e) k k e _ (by rw [undo_flights]; exact here)).trans (if_pos rfl)

/-- Settles O17: each command of a station's descriptors by the operation that it runs. -/
theorem stationDescriptors : Obligations.StationDescriptors := by
  refine ⟨fun _ _ _ _ _ _ _ _ ha hp hd hc hl => exec_tableLoad_sound ha hp hd hc hl, ?refused, ?ready, ?now, ?post, ?join, ?publish, ?limit⟩
  case refused =>
    intro h j tag t s i f hs hf hr hc hk
    exact ⟨_, exec_tableSwapReady_checks t hs hf hr hc, swapCheck_refused t (swapFlight_here hf) hk⟩
  case ready =>
    intro h j tag t s i f hs hf hr hc hk ha
    refine ⟨_, exec_tableSwapReady_checks t hs hf hr hc, ?_⟩
    rw [swapCheck_ready t hk ha]
    have here := swapFlight_here hf
    refine ⟨?_, rfl, rfl⟩
    rw [State.setFlight_flights, List.getElem?_set_self (List.getElem?_eq_some_iff.mp here).1]
  case now =>
    intro h j tag t s i f hs hf hr hc hk ha
    refine ⟨_, exec_tableSwapReady_checks t hs hf hr hc, ?_⟩
    rw [swapCheck_now t hk ha]
    exact swapNow_facts (swapFlight_here hf)
  case post =>
    intro h j q d data s b r ha hd hb hc
    obtain ⟨v, sent, alone, arrives⟩ := exec_rasterPost_noted ha hd hb hc
    obtain ⟨m, noted⟩ := bandNoted_eq r alone
    obtain ⟨-, g, hg, record, posted, last⟩ := rasterAccept_facts v d r
    have regs : v.regs = b.regs := by rw [sent]
    have cells : v.arr = b.arr := by rw [sent]
    rw [rest_arr (show b.rest = s.rest by rw [hb]; exact asked_rest s h j _ _ {})] at cells
    exact ⟨_, arrives, by rw [noted], by rw [noted]; exact regs, by rw [noted]; exact cells, g, hg, record, posted, last⟩
  case join =>
    intro n s o p g hs ha ho hg hq
    refine ⟨_, congrArg Host.Outcome.next (if_pos ⟨hs, ha⟩), ?_⟩
    rw [joinQueue_joins ho hg hq]
    exact ⟨State.stn_setStn_same _ _ _, rfl, rfl, rfl⟩
  case publish =>
    intro h j tag s i f g hI hs hf hg hr hl
    obtain ⟨⟨st, flight⟩, station⟩ := publish_facts s hI i f g (findFlight_facts _ _ _ _ hf).1 hl
    exact ⟨_, exec_rasterPostPublish_ready hs hf hg hr, ⟨_, flight, rfl, st, rfl⟩, station⟩
  case limit =>
    intro h j tag s k e hs he
    exact ⟨_, exec_waitLimitExpiry_stops hs he, stopFlight_here _ (findFlight_facts _ _ _ _ he).1⟩

end Sys2Proof.Machine

namespace Sys2Proof.Machine
open Sys2Proof

/-! The frame of the stations and of the encoders beside their registers (R209, R230, R242, R248): O52 -/

/-- No command that Safety.lean names as leaving the stations or the encoders has that part in its mask. -/
theorem keepsImaging_mask (c : Instr) :
    (keepsStations c && (commandMask c).testBit 26) = false ∧ (keepsEncoders c && (commandMask c).testBit 27) = false := by
  cases c <;> (dsimp only [commandMask]; exact ⟨rfl, rfl⟩)

/-- Settles O52: parts 26 and 27 of the commands' masks. -/
theorem stationFrame : Obligations.StationFrame := by
  intro c s t hI h
  obtain ⟨hStations, hEncoders⟩ := keepsImaging_mask c
  have frame := (exec_next hI h).frame
  exact ⟨fun hc => frame.stns (outside_of_keeps hc hStations), fun hc => frame.encs (outside_of_keeps hc hEncoders)⟩

end Sys2Proof.Machine

namespace Sys2Proof.Machine
open Sys2Proof

/-! Pulses, windows, stalls and facet numbers (R216, R236, R241 to R246): O19 -/

/-- A qualified pulse in the arming window of a station that scans is an SOS (R242). -/
theorem sxsPulse_arming {s : State} {n : StnId} {t w leave : Nat} {high : Bool} (hs : s.scanning n.val = true) (hq : s.qualified n.val w high = true)
    (hw : (s.stn n.val).win = .arming) : s.sxsPulse n t w high leave = s.sos n t leave := by
  have taken : (s.scanning n.val && s.qualified n.val w high) = true := by rw [hs, hq, Bool.and_self]
  refine (if_pos taken).trans ?_
  rw [hw]

/-- A qualified pulse in the EOS window of a station that scans is its EOS (R242). -/
theorem sxsPulse_eos {s : State} {n : StnId} {t w leave : Nat} {high : Bool} (hs : s.scanning n.val = true) (hq : s.qualified n.val w high = true)
    (hw : (s.stn n.val).win = .eos) : s.sxsPulse n t w high leave = s.eos n.val t := by
  have taken : (s.scanning n.val && s.qualified n.val w high) = true := by rw [hs, hq, Bool.and_self]
  refine (if_pos taken).trans ?_
  rw [hw]

/-- A pulse of the other level, or narrower than MIN_W, does not qualify (R241). -/
theorem not_qualified {s : State} {n w : Nat} {high : Bool} (h : high = s.flag (Reg.STN_SXS_CTL_POL n) ∨ w < s.get (Reg.STN_SXS_CTL_MIN_W n)) :
    s.qualified n w high = false := by
  refine decide_eq_false (fun hq => ?_)
  rcases h with level | narrow
  · rw [level] at hq
    exact absurd hq.1.symm (Bool.not_ne_self _)
  · omega

theorem sxsPulse_unqualified {s : State} {n : StnId} {t w leave : Nat} {high : Bool} (hq : s.qualified n.val w high = false) :
    s.sxsPulse n t w high leave = s := by
  unfold State.sxsPulse
  rw [hq, Bool.and_false, if_neg (by decide)]

theorem scanning_armed {s : State} {n : Nat} (h : s.scanning n = true) : s.stnArmed n = true := by
  unfold State.scanning at h
  rw [Bool.and_eq_true] at h
  exact h.2

/-! The end of scan (R242, R246) -/

/-- An EOS at t as STN_TMEAS and the station keep it, before any trim is computed. -/
def State.eosNoted (s : State) (n t : Nat) : State :=
  ((s.put (Reg.STN_TMEAS_LO_T_LO n) ((t - (s.stn n).tSos) / 4)).put (Reg.STN_TMEAS_HI_T_HI n) ((t - (s.stn n).tSos) / 4 / 2 ^ 18)).setStn n
    { s.stn n with
      win := .holdoff
      meas := Map.set (fun _ => []) (s.stn n).meas (s.stn n).fn
        (((t - (s.stn n).tSos) :: Map.get (fun _ => []) (s.stn n).meas (s.stn n).fn).take 8) }

/-- A trim of facet number fn that has been computed. -/
def State.trimmed (s : State) (n fn : Nat) (a : Int) : State :=
  (s.put (Reg.STN_MTRIM_TRIM n fn) (unsigned 16 a)).put (Reg.STN_MTRIM_VALID n fn) 1

/-- The trim that k measurements of sum m give with a scan time T (R246). -/
def trimOf (m k scan : Nat) : Int := clampI (-20000) 20000 (roundDiv (((m : Int) - ((k * scan : Nat) : Int)) * 1000000) (k * scan))

theorem eos_eq (s : State) (n t : Nat) :
    s.eos n t =
      if 2 ^ s.get (Reg.STN_MAG_AVG n) ≤ (((t - (s.stn n).tSos) :: Map.get (fun _ => []) (s.stn n).meas (s.stn n).fn).take 8).length then
        (s.eosNoted n t).trimmed n (s.stn n).fn (trimOf ((((t - (s.stn n).tSos) :: Map.get (fun _ => []) (s.stn n).meas (s.stn n).fn).take 8).take
          (2 ^ s.get (Reg.STN_MAG_AVG n))).sum (2 ^ s.get (Reg.STN_MAG_AVG n)) (s.scanT n))
      else s.eosNoted n t := rfl

theorem eosNoted_facts (s : State) (n t : Nat) : ((s.eosNoted n t).stn n).win = .holdoff ∧
    (s.eosNoted n t).get (Reg.STN_TMEAS_LO_T_LO n) = (t - (s.stn n).tSos) / 4 % 2 ^ 18 ∧
    (s.eosNoted n t).get (Reg.STN_TMEAS_HI_T_HI n) = (t - (s.stn n).tSos) / 4 / 2 ^ 18 % 16 ∧ (s.eosNoted n t).pwr = s.pwr := by
  refine ⟨?_, ?_, ?_, rfl⟩
  · exact congrArg Stn.win (State.stn_setStn_same _ _ _)
  · rw [State.eosNoted, get_setStn, State.get_put_ne _ _ (by show 0x845 + 0x80 * n ≠ 0x846 + 0x80 * n; omega)]
    exact State.get_put_mod _ _ _ (lt_rfl rfl)
  · rw [State.eosNoted, get_setStn]
    exact State.get_put_mod _ _ _ (lt_rfl rfl)

theorem trimmed_stn (s : State) (n fn : Nat) (a : Int) (m : Nat) : (s.trimmed n fn a).stn m = s.stn m := by
  rw [State.trimmed, put_stn, put_stn]

theorem trimmed_pwr (s : State) (n fn : Nat) (a : Int) : (s.trimmed n fn a).pwr = s.pwr := by
  rw [State.trimmed, State.put_pwr, State.put_pwr]

/-- A trim is written apart from STN_TMEAS. -/
theorem trimmed_get (s : State) (n fn : Nat) (a : Int) {g : Fld} (h : g.addr < 0x850 + 0x80 * n) : (s.trimmed n fn a).get g = s.get g := by
  have apart : g.addr ≠ 0x850 + 0x80 * n + fn := by omega
  exact State.get_put_two _ _ _ apart apart

theorem unsigned_lt (k : Nat) (x : Int) : unsigned k x < 2 ^ k := by
  unfold unsigned
  have pos : (0 : Int) < ((2 ^ k : Nat) : Int) := by exact_mod_cast Nat.two_pow_pos k
  have below := Int.emod_lt_of_pos x pos
  have least := Int.emod_nonneg x (ne_of_gt pos)
  omega

theorem trimmed_facts (s : State) (n fn : Nat) (a : Int) : (s.trimmed n fn a).get (Reg.STN_MTRIM_VALID n fn) = 1 ∧
    (s.trimmed n fn a).get (Reg.STN_MTRIM_TRIM n fn) = unsigned 16 a := by
  refine ⟨State.get_put_same _ (Reg.STN_MTRIM_VALID n fn) 1 (lt_rfl rfl) (lt_rfl rfl), ?_⟩
  refine (State.get_put_apart _ (f := Reg.STN_MTRIM_VALID n fn) (g := Reg.STN_MTRIM_TRIM n fn) _ (lt_rfl rfl) (.inl (lt_rfl rfl))).trans ?_
  exact State.get_put_same _ (Reg.STN_MTRIM_TRIM n fn) _ (lt_rfl rfl) (unsigned_lt 16 a)

/-- What an EOS shows, whatever AVG is. -/
theorem eos_facts (s : State) (n t : Nat) : ((s.eos n t).stn n).win = .holdoff ∧
    (s.eos n t).get (Reg.STN_TMEAS_LO_T_LO n) = (t - (s.stn n).tSos) / 4 % 2 ^ 18 ∧
    (s.eos n t).get (Reg.STN_TMEAS_HI_T_HI n) = (t - (s.stn n).tSos) / 4 / 2 ^ 18 % 16 ∧ (s.eos n t).pwr = s.pwr := by
  obtain ⟨win, low, high, power⟩ := eosNoted_facts s n t
  rw [eos_eq]
  split
  · rw [trimmed_stn, trimmed_pwr, trimmed_get _ _ _ _ (by show 0x845 + 0x80 * n < 0x850 + 0x80 * n; omega),
      trimmed_get _ _ _ _ (by show 0x846 + 0x80 * n < 0x850 + 0x80 * n; omega)]
    exact ⟨win, low, high, power⟩
  · exact ⟨win, low, high, power⟩

/-- With AVG 0 the EOS's own measurement is the trim's (R246). -/
theorem eos_single {s : State} {n : Nat} (t : Nat) (h : s.get (Reg.STN_MAG_AVG n) = 0) :
    s.eos n t = (s.eosNoted n t).trimmed n (s.stn n).fn (trimOf (t - (s.stn n).tSos) 1 (s.scanT n)) := by
  rw [eos_eq, h, if_pos (by simp)]
  rfl

theorem trimOf_one (m scan : Nat) : trimOf m 1 scan = clampI (-20000) 20000 (roundDiv (((m : Int) - (scan : Int)) * 1000000) scan) := by
  rw [trimOf, Nat.one_mul]

/-! A stall (R236) -/

/-- A facet whose output is blanked from a block on. -/
def Facet.cutAt (f : Facet) (first : Nat) : Facet := if f.cut.isSome then f else { f with cut := some (min f.nblk first) }

theorem Facet.cutAt_cut (f : Facet) (first : Nat) : ∃ c, f.cutAt first = { f with cut := some c } := by
  unfold Facet.cutAt
  split
  · next h =>
    obtain ⟨c, hc⟩ := Option.isSome_iff_exists.mp h
    exact ⟨c, by rw [← hc]⟩
  · exact ⟨_, rfl⟩

theorem blankFrom_stn (s : State) (n first : Nat) :
    (s.blankFrom n first).stn n = { s.stn n with facet := (s.stn n).facet.map (·.cutAt first) } := by
  cases hf : (s.stn n).facet with
  | none =>
    have dark : s.blankFrom n first = s := by
      unfold State.blankFrom
      rw [hf]
    rw [dark, Option.map_none, ← hf]
  | some f =>
    have lit : s.blankFrom n first =
        if f.cut.isSome then s else s.setStn n { s.stn n with facet := some { f with cut := some (min f.nblk first) } } := by
      unfold State.blankFrom
      rw [hf]
    rw [lit, Option.map_some, Facet.cutAt]
    split
    · rw [← hf]
    · exact State.stn_setStn_same _ _ _

theorem blankOutput_stn (s : State) (n : Nat) : ∃ first, (s.blankOutput n).stn n = { s.stn n with facet := (s.stn n).facet.map (·.cutAt first) } :=
  ⟨_, blankFrom_stn s.drawWord.2.drawWord.2 n _⟩

/-- The station after a stall with intervals measured: its facet cut, the intervals kept as P_stall (R236). -/
theorem stallNow_stn {s : State} {n : Nat} (h : (s.stn n).intervals ≠ []) : ∃ first, (s.stallNow n).stn n =
    { s.stn n with
      facet := (s.stn n).facet.map (·.cutAt first)
      pStall := some ((s.stn n).intervals.sum, (s.stn n).intervals.length)
      intervals := [] } := by
  obtain ⟨first, blanked⟩ := blankOutput_stn s n
  refine ⟨first, ?_⟩
  unfold State.stallNow State.spoilProgress
  dsimp only
  rw [State.stn_setStn_same, stnEvent_stn, put_stn, (Same.stnSpoil _ _ _ _).stn, blanked]
  dsimp only
  rw [if_neg (by rw [List.isEmpty_iff]; exact h)]

theorem stallNow_status (s : State) (n : Nat) : (s.stallNow n).get (Reg.STN_STATUS_STALLED n) = 1 := by
  unfold State.stallNow
  dsimp only
  rw [get_setStn, stnEvent_get _ _ _ _ (by show 0x802 + 0x80 * n ≠ 0x803 + 0x80 * n; omega)]
  exact State.get_put_same _ (Reg.STN_STATUS_STALLED n) 1 (lt_rfl rfl) (lt_rfl rfl)

theorem stallNow_event (s : State) (n : Nat) : (s.stallNow n).get (Reg.STN_EVENT_STALL n) = 1 := by
  unfold State.stallNow
  dsimp only
  rw [get_setStn]
  exact event_get_same _ (Reg.STN_EVENT_STALL n) _ _ _ (lt_rfl rfl) rfl

/-! FN_ADJ (R244, R246) -/

/-- AUTO and AVG as a write of STN_MAG stores them. -/
def State.magSet (s : State) (n : Nat) (v : Word) : State :=
  (s.put (Reg.STN_MAG_AUTO n) (bits v.toNat 17 17)).put (Reg.STN_MAG_AVG n) (bits v.toNat 16 15)

theorem magWrite_eq (s : State) (n : Nat) (v : Word) : s.magWrite n v =
    if bits v.toNat 14 11 = 0 then s.magSet n v else (s.magSet n v).fnAdjust n (bits v.toNat 14 11) := rfl

theorem magSet_facts (s : State) (n : Nat) (v : Word) : (s.magSet n v).get (Reg.STN_MAG_AUTO n) = bits v.toNat 17 17 ∧
    (s.magSet n v).get (Reg.STN_MAG_AVG n) = bits v.toNat 16 15 ∧
    ∀ g : Fld, g.addr ≠ 0x844 + 0x80 * n → (s.magSet n v).get g = s.get g := by
  refine ⟨?_, State.get_put_same _ (Reg.STN_MAG_AVG n) _ (lt_rfl rfl) (Nat.mod_lt _ (by decide)), fun g hg => State.get_put_two _ _ _ hg hg⟩
  refine (State.get_put_apart _ (f := Reg.STN_MAG_AVG n) (g := Reg.STN_MAG_AUTO n) _ (lt_rfl rfl) (.inr (lt_rfl rfl))).trans ?_
  exact State.get_put_same _ (Reg.STN_MAG_AUTO n) _ (lt_rfl rfl) (Nat.mod_lt _ (by decide))

/-- The trims' VALID bits as FN_ADJ clears them. -/
def State.clearTrims (s : State) (n : Nat) : State := (List.range 12).foldl (fun (u : State) f => u.put (Reg.STN_MTRIM_VALID n f) 0) s

theorem clearTrims_valid (s : State) (n : Nat) {f : Nat} (hf : f < 12) : (s.clearTrims n).get (Reg.STN_MTRIM_VALID n f) = 0 := by
  have clears : ∀ u : State, (u.put (Reg.STN_MTRIM_VALID n f) 0).get (Reg.STN_MTRIM_VALID n f) = 0 := fun u =>
    State.get_put_same u _ 0 (lt_rfl rfl) (lt_rfl rfl)
  have stays : ∀ (u : State) (k : Nat), u.get (Reg.STN_MTRIM_VALID n f) = 0 →
      (u.put (Reg.STN_MTRIM_VALID n k) 0).get (Reg.STN_MTRIM_VALID n f) = 0 := fun u k hu => by
    by_cases e : k = f
    · rw [e]
      exact clears u
    · rw [State.get_put_ne _ _ (by show 0x850 + 0x80 * n + f ≠ 0x850 + 0x80 * n + k; omega), hu]
  unfold State.clearTrims
  exact foldl_once (fun _ => True) (fun u : State => u.get (Reg.STN_MTRIM_VALID n f) = 0) _ f (fun _ _ _ _ => trivial) (fun u _ => clears u)
    stays _ (List.mem_range.mpr hf) s trivial

theorem clearTrims_get (s : State) (n : Nat) {g : Fld} (hg : g.addr < 0x850 + 0x80 * n) : (s.clearTrims n).get g = s.get g :=
  foldl_keeps (fun u => u.get g) (fun u k => State.get_put_ne u (f := Reg.STN_MTRIM_VALID n k) _ (by show g.addr ≠ 0x850 + 0x80 * n + k; omega)) _ s

theorem clearTrims_stn (s : State) (n : Nat) : (s.clearTrims n).stn n = s.stn n :=
  foldl_keeps (fun u => u.stn n) (fun u k => put_stn u (Reg.STN_MTRIM_VALID n k) 0 n) _ s

theorem fnAdjust_eq (s : State) (n a : Nat) :
    s.fnAdjust n a = (s.setStn n { s.stn n with fnAdj := (s.stn n).fnAdj + a, meas := [] }).clearTrims n := rfl

/-- STN_MAG's fields after a write of it, an FN_ADJ in it or none. -/
theorem magWrite_fields (s : State) (n : Nat) (v : Word) : (s.magWrite n v).get (Reg.STN_MAG_AUTO n) = bits v.toNat 17 17 ∧
    (s.magWrite n v).get (Reg.STN_MAG_AVG n) = bits v.toNat 16 15 := by
  obtain ⟨auto, avg, -⟩ := magSet_facts s n v
  have below : 0x844 + 0x80 * n < 0x850 + 0x80 * n := by omega
  rw [magWrite_eq]
  split
  · exact ⟨auto, avg⟩
  · rw [fnAdjust_eq, clearTrims_get _ _ below, clearTrims_get _ _ below, get_setStn, get_setStn]
    exact ⟨auto, avg⟩

/-- Settles O19: each command by the operation that it runs. -/
theorem scanTiming : Obligations.ScanTiming := by
  refine ⟨?sos, ?other, ?eos, ?opens, ?flagged, ?arming, ?stall, ?noSos, ?fnAdj⟩
  case sos =>
    intro n t w leave high s hs hq hw hf
    exact ⟨_, congrArg (fun u : State => Host.Outcome.next u.drainAdvance.settle) (sxsPulse_arming hs hq hw), sos_facts s n t leave (scanning_armed hs) hf⟩
  case other =>
    intro n t w leave high s h
    exact congrArg (fun u : State => Host.Outcome.next u.drainAdvance.settle) (sxsPulse_unqualified (not_qualified h))
  case eos =>
    intro n t w leave high s hs hr hq hw
    obtain ⟨win, low, high', power⟩ := eos_facts s n.val t
    refine ⟨s.eos n.val t, ?_, win, low, high', fun havg _ => ?_⟩
    · rw [← drainAdvance_run (s := s.eos n.val t) (by rw [power]; exact hr)]
      exact congrArg (fun u : State => Host.Outcome.next u.drainAdvance.settle) (sxsPulse_eos hs hq hw)
    · rw [eos_single t havg, trimOf_one]
      exact trimmed_facts _ _ _ _
  case opens => exact fun n s hs hw he => congrArg Host.Outcome.next (if_pos ⟨hs, hw, he⟩)
  case flagged =>
    intro n s hs hw
    refine ⟨(s.setWin n.val .holdoff).stnLEvent n.val Reg.STN_LEVENT_RANGE, ?_, ?_, ?_⟩
    · refine congrArg Host.Outcome.next ((if_pos hs).trans ?_)
      rw [hw]
    · rw [stnLEvent_stn]
      exact State.stn_setStn_same _ _ _
    · exact event_get_same _ (Reg.STN_LEVENT_RANGE n.val) _ _ _ (lt_rfl rfl) rfl
  case arming =>
    intro n s hs hw
    refine congrArg Host.Outcome.next (if_pos ⟨hs, hw.imp id (And.imp id fun h => ?_)⟩)
    rw [h]
    rfl
  case stall =>
    intro n s hs ha hst hi
    obtain ⟨first, station⟩ := stallNow_stn hi
    refine ⟨s.stallNow n.val, congrArg Host.Outcome.next (if_pos ⟨hs, ha, by rw [hst]; rfl, hi⟩), stallNow_status s n.val, stallNow_event s n.val, ?_⟩
    rw [station]
    refine ⟨rfl, rfl, fun f hf => ?_⟩
    obtain ⟨c, hc⟩ := f.cutAt_cut first
    exact ⟨c, by rw [hf, Option.map_some, hc]⟩
  case noSos =>
    intro n s hs hw
    exact ⟨_, congrArg Host.Outcome.next (if_pos ⟨hs, hw⟩), event_get_same _ (Reg.STN_EVENT_NO_SOS n.val) _ _ _ (lt_rfl rfl) rfl⟩
  case fnAdj =>
    intro x n v s hr
    obtain ⟨auto, avg⟩ := magWrite_fields s n.val v
    refine ⟨s.magWrite n.val v, congrArg Host.Outcome.next (if_pos hr), auto, avg, fun ha => ?_, fun ha => ?_⟩
    · rw [magWrite_eq, if_neg ha, fnAdjust_eq, clearTrims_stn, State.stn_setStn_same]
      exact ⟨rfl, fun f hf => clearTrims_valid _ _ hf⟩
    · rw [magWrite_eq, if_pos ha]
      refine ⟨rfl, fun f hf => (magSet_facts s n.val v).2.2 _ ?_⟩
      show 0x850 + 0x80 * n.val + f ≠ 0x844 + 0x80 * n.val
      omega

end Sys2Proof.Machine

namespace Sys2Proof.Machine
open Sys2Proof

/-! Driver reports (R226, R235, R259, R262, R263): O22 -/

/-- A driver report as STN_SB_RPT and the station note it (R262). -/
def State.reportNoted (s : State) (n typ arg : Nat) (last : Option (Nat × Nat × Nat)) : State :=
  ((s.put (Reg.STN_SB_RPT_TYPE n) typ).put (Reg.STN_SB_RPT_ARG n) arg).setStn n { s.stn n with lastRpt := last }

/-- A report that is no second copy acts (R262). -/
theorem onReport_acts {s : State} {n typ arg cnt : Nat} (act : State → State) (hr : s.inReport n = true)
    (hl : (s.stn n).lastRpt ≠ some (typ, arg, (cnt + 3) % 4)) :
    s.onReport n typ arg cnt true act = act (s.reportNoted n typ arg (some (typ, arg, cnt))) := by
  unfold State.onReport State.report
  dsimp only
  rw [if_pos hr, if_neg (fun h => hl h.2)]
  rfl

/-- A report that comes in one frame acts (R262). -/
theorem onReport_single {s : State} {n typ arg cnt : Nat} (act : State → State) (hr : s.inReport n = true) :
    s.onReport n typ arg cnt false act = act (s.reportNoted n typ arg none) := by
  unfold State.onReport State.report
  dsimp only
  rw [if_pos hr, if_neg (fun h => Bool.noConfusion h.1)]
  rfl

/-- The second copy of a report does not act (R262). -/
theorem onReport_copy {s : State} {n typ arg cnt : Nat} (act : State → State) (hr : s.inReport n = true)
    (hl : (s.stn n).lastRpt = some (typ, arg, (cnt + 3) % 4)) : s.onReport n typ arg cnt true act = s.dropCopy n := by
  unfold State.onReport State.report
  dsimp only
  rw [if_pos hr, if_pos ⟨rfl, hl⟩]

theorem reportNoted_stn (s : State) (n typ arg : Nat) (last : Option (Nat × Nat × Nat)) :
    (s.reportNoted n typ arg last).stn n = { s.stn n with lastRpt := last } := State.stn_setStn_same _ _ _

theorem reportNoted_get (s : State) (n typ arg : Nat) (last : Option (Nat × Nat × Nat)) {g : Fld} (hg : g.addr ≠ 0x86B + 0x80 * n) :
    (s.reportNoted n typ arg last).get g = s.get g := by
  rw [State.reportNoted, get_setStn, State.get_put_two _ _ _ hg hg]

theorem reportNoted_type (s : State) (n arg : Nat) {typ : Nat} (last : Option (Nat × Nat × Nat)) (ht : typ < 8) :
    (s.reportNoted n typ arg last).get (Reg.STN_SB_RPT_TYPE n) = typ := by
  rw [State.reportNoted, get_setStn,
    State.get_put_apart _ (f := Reg.STN_SB_RPT_ARG n) (g := Reg.STN_SB_RPT_TYPE n) _ (lt_rfl rfl) (.inr (lt_rfl rfl))]
  exact State.get_put_same _ _ _ (lt_rfl rfl) ht

theorem reportNoted_arg (s : State) (n typ : Nat) {arg : Nat} (last : Option (Nat × Nat × Nat)) (ha : arg < 256) :
    (s.reportNoted n typ arg last).get (Reg.STN_SB_RPT_ARG n) = arg := by
  rw [State.reportNoted, get_setStn]
  exact State.get_put_same _ _ _ (lt_rfl rfl) ha

/-- No spoil writes the registers of a station's link and sideband, nor its TEMP. -/
theorem offSpoil_of {m n a k : Nat} (hn : n < 8) (hk : k < 0x80) (ha : a = 0x800 + k + 0x80 * n) (h1 : k ≠ 0x03) (h2 : k ≠ 0x1B) (h3 : k ≠ 0x1C) :
    offSpoil m a := by
  unfold offSpoil
  omega

/-! TEMP (R235, R263) -/

/-- STN_TEMP as a TEMP report shows it; the sideband is not lost. -/
def State.tempShown (s : State) (n level : Nat) : State := (s.put (Reg.STN_TEMP_LEVEL n) level).setStn n { s.stn n with sbLost := false }

/-- The event of a new temperature level (R235). -/
def State.tempEvent (s : State) (n level : Nat) : State :=
  if level = 1 then s.stnEvent n Reg.STN_EVENT_WARN
  else if level = 2 then s.stnEvent n Reg.STN_EVENT_LIMIT
  else if level = 3 then s.stnEvent n Reg.STN_EVENT_CUTOFF
  else s

/-- The state of a TEMP report before its cutoff. -/
def State.tempNoted (s : State) (n level : Nat) : State :=
  if level = s.get (Reg.STN_TEMP_LEVEL n) then s.tempShown n level else (s.tempShown n level).tempEvent n level

theorem tempReport_eq (s : State) (n level : Nat) : s.tempReport n level =
    if level = 3 then (if ((s.tempNoted n level).stn n).cutoff then s.tempNoted n level else (s.tempNoted n level).cutoffStart n)
    else (s.tempNoted n level).setStn n { (s.tempNoted n level).stn n with cutoff := false } := rfl

theorem Same.tempEvent (s : State) (n level : Nat) : Same (fun a => a ≠ 0x803 + 0x80 * n) s (s.tempEvent n level) := by
  unfold State.tempEvent
  exact Same.ite (Same.stnEvent _ _ _ (fun a ha => ha)) (Same.ite (Same.stnEvent _ _ _ (fun a ha => ha))
    (Same.ite (Same.stnEvent _ _ _ (fun a ha => ha)) (Same.rfl' s)))

theorem tempEvent_raised (s : State) (n level : Nat) : (level = 1 → (s.tempEvent n level).get (Reg.STN_EVENT_WARN n) = 1) ∧
    (level = 2 → (s.tempEvent n level).get (Reg.STN_EVENT_LIMIT n) = 1) ∧ (level = 3 → (s.tempEvent n level).get (Reg.STN_EVENT_CUTOFF n) = 1) := by
  refine ⟨?_, ?_, ?_⟩
  · rintro rfl
    exact event_get_same _ (Reg.STN_EVENT_WARN n) _ _ _ (lt_rfl rfl) rfl
  · rintro rfl
    exact event_get_same _ (Reg.STN_EVENT_LIMIT n) _ _ _ (lt_rfl rfl) rfl
  · rintro rfl
    exact event_get_same _ (Reg.STN_EVENT_CUTOFF n) _ _ _ (lt_rfl rfl) rfl

theorem tempNoted_same (s : State) (n level : Nat) : Same (fun a => a ≠ 0x803 + 0x80 * n) (s.tempShown n level) (s.tempNoted n level) := by
  unfold State.tempNoted
  exact Same.ite (Same.rfl' _) (Same.tempEvent _ n level)

theorem tempNoted_stn (s : State) (n level : Nat) : (s.tempNoted n level).stn n = { s.stn n with sbLost := false } :=
  ((tempNoted_same s n level).stn n).trans (State.stn_setStn_same _ _ _)

theorem tempNoted_level (s : State) (n : Nat) {level : Nat} (hl : level < 4) : (s.tempNoted n level).get (Reg.STN_TEMP_LEVEL n) = level := by
  rw [(tempNoted_same s n level).get _ (by show 0x818 + 0x80 * n ≠ 0x803 + 0x80 * n; omega), State.tempShown, get_setStn]
  exact State.get_put_same _ _ _ (lt_rfl rfl) hl

theorem tempNoted_get (s : State) (n level : Nat) {g : Fld} (h1 : g.addr ≠ 0x803 + 0x80 * n) (h2 : g.addr ≠ 0x818 + 0x80 * n) :
    (s.tempNoted n level).get g = s.get g := by
  rw [(tempNoted_same s n level).get _ h1, State.tempShown, get_setStn, State.get_put_ne _ _ h2]

theorem tempNoted_raised {s : State} {n level : Nat} (h : level ≠ s.get (Reg.STN_TEMP_LEVEL n)) :
    (level = 1 → (s.tempNoted n level).get (Reg.STN_EVENT_WARN n) = 1) ∧ (level = 2 → (s.tempNoted n level).get (Reg.STN_EVENT_LIMIT n) = 1) ∧
      (level = 3 → (s.tempNoted n level).get (Reg.STN_EVENT_CUTOFF n) = 1) := by
  rw [State.tempNoted, if_neg h]
  exact tempEvent_raised _ n level

/-- A TEMP report of another level than 3 ends a cutoff. -/
theorem tempReport_cool (s : State) (n : Nat) {level : Nat} (h : level ≠ 3) :
    s.tempReport n level = (s.tempNoted n level).setStn n { s.stn n with sbLost := false, cutoff := false } := by
  rw [tempReport_eq, if_neg h, tempNoted_stn]

/-- A TEMP report of level 3 in a cutoff adds nothing to what it shows. -/
theorem tempReport_hot {s : State} {n : Nat} (h : (s.stn n).cutoff = true) : s.tempReport n 3 = s.tempNoted n 3 := by
  rw [tempReport_eq, if_pos rfl, tempNoted_stn, if_pos h]

/-- The first TEMP report of level 3 starts a cutoff. -/
theorem tempReport_cutoff {s : State} {n : Nat} (h : (s.stn n).cutoff = false) : s.tempReport n 3 = (s.tempNoted n 3).cutoffStart n := by
  rw [tempReport_eq, if_pos rfl, tempNoted_stn, if_neg (by rw [h]; decide)]

/-- The fields outside STN_STATUS that no spoil writes, and STN_EVENT but for SPOIL, are those of the report as noted. -/
theorem tempReport_get (s : State) {n level : Nat} (hn : n < 8) {g : Fld}
    (hg : offSpoil n g.addr ∧ g.addr ≠ 0x802 + 0x80 * n ∨ g.addr = 0x803 + 0x80 * n ∧ g.hi < 18 ∧ (g.hi < 1 ∨ 1 < g.lo)) :
    (s.tempReport n level).get g = (s.tempNoted n level).get g := by
  by_cases h : level = 3
  · subst h
    cases hc : (s.stn n).cutoff with
    | true => rw [tempReport_hot hc]
    | false =>
      obtain ⟨-, -, -, off, event, -⟩ := cutoffStart_facts (s.tempNoted n 3) n hn
      rw [tempReport_cutoff hc]
      rcases hg with ⟨spoil, status⟩ | ⟨here, wide, apart⟩
      · exact off g spoil status
      · exact event g here wide apart
  · rw [tempReport_cool s n h, get_setStn]

theorem tempReport_stn (s : State) {n level : Nat} (hn : n < 8) : ((s.tempReport n level).stn n).sbLost = false ∧
    ((s.tempReport n level).stn n).cutoff = decide (level = 3) := by
  by_cases h : level = 3
  · subst h
    cases hc : (s.stn n).cutoff with
    | true =>
      rw [tempReport_hot hc, tempNoted_stn]
      exact ⟨rfl, hc⟩
    | false =>
      obtain ⟨cutoff, lost, -⟩ := cutoffStart_facts (s.tempNoted n 3) n hn
      rw [tempReport_cutoff hc, lost, cutoff, tempNoted_stn]
      exact ⟨rfl, rfl⟩
  · rw [tempReport_cool s n h, State.stn_setStn_same, decide_eq_false h]
    exact ⟨rfl, rfl⟩

/-- What a TEMP report shows (R235, R263). -/
theorem tempReport_facts (s : State) {n level : Nat} (hn : n < 8) (hl : level < 4) : (s.tempReport n level).get (Reg.STN_TEMP_LEVEL n) = level ∧
    (∀ g : Fld, g.addr = 0x86B + 0x80 * n → (s.tempReport n level).get g = s.get g) ∧
    (level = 3 → (s.stn n).cutoff = false → (s.tempReport n level).get (Reg.STN_STATUS_BLANK n) = 1) ∧
    (level ≠ s.get (Reg.STN_TEMP_LEVEL n) → (level = 1 → (s.tempReport n level).get (Reg.STN_EVENT_WARN n) = 1) ∧
      (level = 2 → (s.tempReport n level).get (Reg.STN_EVENT_LIMIT n) = 1) ∧ (level = 3 → (s.tempReport n level).get (Reg.STN_EVENT_CUTOFF n) = 1)) := by
  refine ⟨?_, fun g hg => ?_, ?_, fun changed => ?_⟩
  · rw [tempReport_get s hn (.inl ⟨offSpoil_of (k := 0x18) hn (by decide) rfl (by decide) (by decide) (by decide),
      by show 0x818 + 0x80 * n ≠ 0x802 + 0x80 * n; omega⟩)]
    exact tempNoted_level s n hl
  · rw [tempReport_get s hn (.inl ⟨offSpoil_of (k := 0x6B) hn (by decide) hg (by decide) (by decide) (by decide), by omega⟩)]
    exact tempNoted_get s n level (by omega) (by omega)
  · rintro rfl hc
    obtain ⟨-, -, blank, -⟩ := cutoffStart_facts (s.tempNoted n 3) n hn
    rw [tempReport_cutoff hc]
    exact blank
  · rw [tempReport_get s (g := Reg.STN_EVENT_WARN n) hn (.inr ⟨rfl, lt_rfl rfl, .inr (lt_rfl rfl)⟩),
      tempReport_get s (g := Reg.STN_EVENT_LIMIT n) hn (.inr ⟨rfl, lt_rfl rfl, .inr (lt_rfl rfl)⟩),
      tempReport_get s (g := Reg.STN_EVENT_CUTOFF n) hn (.inr ⟨rfl, lt_rfl rfl, .inr (lt_rfl rfl)⟩)]
    exact tempNoted_raised changed

theorem exec_temp_noted {n : StnId} (c l : BitVec 2) {s : State} (hr : s.inReport n.val = true) :
    ∃ t, exec (.temp n c l) s = .next t ∧ t.get (Reg.STN_TEMP_LEVEL n.val) = l.toNat ∧ t.get (Reg.STN_SB_RPT_TYPE n.val) = 1 ∧
      t.get (Reg.STN_SB_RPT_ARG n.val) = l.toNat ∧ (t.stn n.val).sbLost = false ∧ (t.stn n.val).cutoff = decide (l.toNat = 3) ∧
      (l.toNat = 3 → (s.stn n.val).cutoff = false → t.get (Reg.STN_STATUS_BLANK n.val) = 1) ∧
      (l.toNat ≠ s.get (Reg.STN_TEMP_LEVEL n.val) → (l.toNat = 1 → t.get (Reg.STN_EVENT_WARN n.val) = 1) ∧
        (l.toNat = 2 → t.get (Reg.STN_EVENT_LIMIT n.val) = 1) ∧ (l.toNat = 3 → t.get (Reg.STN_EVENT_CUTOFF n.val) = 1)) := by
  have hl := l.isLt
  obtain ⟨level, report, blank, raised⟩ := tempReport_facts (s.reportNoted n.val rptTemp l.toNat none) n.isLt hl
  obtain ⟨lost, cutoff⟩ := tempReport_stn (s.reportNoted n.val rptTemp l.toNat none) (level := l.toNat) n.isLt
  rw [reportNoted_stn] at blank
  rw [reportNoted_get _ _ _ _ _ (by show 0x818 + 0x80 * n.val ≠ 0x86B + 0x80 * n.val; omega)] at raised
  exact ⟨_, congrArg Host.Outcome.next (onReport_single _ hr), level, (report _ rfl).trans (reportNoted_type _ _ _ _ (by decide)),
    (report _ rfl).trans (reportNoted_arg _ _ _ _ (by omega)), lost, cutoff, blank, raised⟩

/-! DEAD (R226) -/

theorem markDead_dead (s : State) (n : Nat) {k : Nat} : bit ((s.markDead n k).get (Reg.STN_DEAD_DEAD n (k / 18))) (k % 18) = true := by
  have small : k % 18 < 18 := Nat.mod_lt _ (by decide)
  have field : (Reg.STN_DEAD_DEAD n (k / 18)).at (k % 18) = ⟨0x820 + 0x80 * n + k / 18, k % 18, k % 18⟩ := by
    show (⟨_, 0 + k % 18, 0 + k % 18⟩ : Fld) = _
    rw [Nat.zero_add]
    rfl
  show bit ((s.markDead n k).get ⟨0x820 + 0x80 * n + k / 18, 17, 0⟩) (k % 18) = true
  rw [bit_field _ _ _ small]
  unfold State.markDead
  rw [field]
  dsimp only
  split
  · assumption
  · have set : (((s.put ⟨0x820 + 0x80 * n + k / 18, k % 18, k % 18⟩ 1).stnEvent n Reg.STN_EVENT_DEAD).get
        ⟨0x820 + 0x80 * n + k / 18, k % 18, k % 18⟩) = 1 := by
      rw [stnEvent_get _ _ _ _ (by show 0x820 + 0x80 * n + k / 18 ≠ 0x803 + 0x80 * n; omega)]
      exact State.get_put_same _ _ 1 small (by show 1 < 2 ^ (k % 18 + 1 - k % 18); rw [Nat.add_sub_cancel_left]; decide)
    unfold State.flag
    rw [set]
    rfl

theorem Same.markDead (s : State) (n k : Nat) :
    Same (fun a => a ≠ 0x803 + 0x80 * n ∧ a ≠ 0x820 + 0x80 * n + k / 18) s (s.markDead n k) := by
  unfold State.markDead
  dsimp only
  exact Same.ite (Same.rfl' s) ((Same.put s _ _ (fun a ha => ha.2)).trans' (Same.stnEvent _ _ _ (fun a ha => ha.1)))

theorem exec_dead_marked {n : StnId} (c : BitVec 2) {e : BitVec 7} {s : State} (hr : s.inReport n.val = true) (he : e.toNat < 72)
    (hl : (s.stn n.val).lastRpt ≠ some (rptDead, e.toNat, (c.toNat + 3) % 4)) :
    ∃ t, exec (.dead n c e) s = .next t ∧ bit (t.get (Reg.STN_DEAD_DEAD n.val (e.toNat / 18))) (e.toNat % 18) = true ∧
      t.get (Reg.STN_SB_RPT_TYPE n.val) = 2 ∧ t.get (Reg.STN_SB_RPT_ARG n.val) = e.toNat ∧
      (t.stn n.val).lastRpt = some (rptDead, e.toNat, c.toNat) := by
  have keep := Same.markDead (s.reportNoted n.val rptDead e.toNat (some (rptDead, e.toNat, c.toNat))) n.val e.toNat
  have off : 0x86B + 0x80 * n.val ≠ 0x803 + 0x80 * n.val ∧ 0x86B + 0x80 * n.val ≠ 0x820 + 0x80 * n.val + e.toNat / 18 := by omega
  refine ⟨_, congrArg Host.Outcome.next ((if_pos he).trans (onReport_acts _ hr hl)), markDead_dead _ _, ?_, ?_, ?_⟩
  · rw [keep.get _ off]
    exact reportNoted_type _ _ _ _ (by decide)
  · rw [keep.get _ off]
    exact reportNoted_arg _ _ _ _ (by omega)
  · rw [keep.stn, reportNoted_stn]

/-! LANE and LATE (R259, R262) -/

/-- A lateness as it is counted: LATES, LINK_LATE and its spoils (R262). -/
def State.lateCounted (s : State) (n : Nat) (p : Past → Bool) : State := ((s.bumpLates n).stnLEvent n Reg.STN_LEVENT_LINK_LATE).lateFacets n p

theorem Same.lateFacets (s : State) (n : Nat) (p : Past → Bool) : Same (offSpoil n) s (s.lateFacets n p) := Same.stnSpoil _ _ _ _

/-- The registers that a lateness does not write. -/
def offLate (n a : Nat) : Prop := offSpoil n a ∧ a ≠ 0x866 + 0x80 * n ∧ a ≠ 0x847 + 0x80 * n

theorem Same.lateCounted (s : State) (n : Nat) (p : Past → Bool) : Same (offLate n) s (s.lateCounted n p) := by
  have counts : Same (offLate n) s (s.bumpLates n) := Same.bump s _ (fun _ ha => ha.2.1)
  have told : Same (offLate n) (s.bumpLates n) ((s.bumpLates n).stnLEvent n Reg.STN_LEVENT_LINK_LATE) := Same.event _ _ _ _ _ (fun _ ha => ha.2.2)
  exact (counts.trans' told).trans' ((Same.lateFacets _ n p).mono (fun _ ha => ha.1))

theorem lateCounted_late (s : State) {n : Nat} (hn : n < 8) (p : Past → Bool) : (s.lateCounted n p).get (Reg.STN_LEVENT_LINK_LATE n) = 1 := by
  rw [State.lateCounted, (Same.lateFacets _ n p).get _ (offSpoil_of (k := 0x47) hn (by decide) rfl (by decide) (by decide) (by decide))]
  exact event_get_same _ (Reg.STN_LEVENT_LINK_LATE n) _ _ _ (lt_rfl rfl) rfl

theorem lateCounted_lates (s : State) {n : Nat} (hn : n < 8) (p : Past → Bool) :
    (s.lateCounted n p).get (Reg.STN_LINK_CNT_LATES n) = min (s.get (Reg.STN_LINK_CNT_LATES n) + 1) 511 := by
  rw [State.lateCounted, (Same.lateFacets _ n p).get _ (offSpoil_of (k := 0x66) hn (by decide) rfl (by decide) (by decide) (by decide)),
    stnLEvent_get _ _ _ _ (by show 0x866 + 0x80 * n ≠ 0x847 + 0x80 * n; omega)]
  exact State.get_bump_same _ _ (lt_rfl rfl)

/-- A lateness leaves LANE_DOWN as it was. -/
theorem lateCounted_laneDown (s : State) {n : Nat} (hn : n < 8) (p : Past → Bool) :
    (s.lateCounted n p).get (Reg.STN_LEVENT_LANE_DOWN n) = s.get (Reg.STN_LEVENT_LANE_DOWN n) := by
  rw [State.lateCounted, (Same.lateFacets _ n p).get _ (offSpoil_of (k := 0x47) hn (by decide) rfl (by decide) (by decide) (by decide))]
  refine (event_get_apart _ (Reg.STN_LEVENT_LINK_LATE n) (Reg.STN_LEVENT_LANE_DOWN n) _ _ _ (lt_rfl rfl) (.inr (lt_rfl rfl))).trans ?_
  exact (Same.bump (P := fun a => a ≠ 0x866 + 0x80 * n) s (Reg.STN_LINK_CNT_LATES n) (fun a ha => ha)).get _
    (by show 0x847 + 0x80 * n ≠ 0x866 + 0x80 * n; omega)

/-- The facets that a LANE report of the last complete period c can no longer resend (R259). -/
def Stn.unheld (st : Stn) (c : Nat) (f : Past) : Bool :=
  decide (st.periodOf (c + 1) ≤ (st.periods : Int) - 4 ∧ st.periodOf (c + 1) ≤ (st.lastOf f : Int) ∧ (f.first : Int) ≤ (st.periods : Int) - 4)

/-- The resend asked for, from the earliest period that a report asks for (R259). -/
def earliest (asked : Option Nat) (p : Nat) : Nat :=
  match asked with
  | some q => min q p
  | none => p

/-- The state once a LANE report has dropped its lane, where the link uses it (R259). -/
def State.laneNoted (s : State) (n l : Nat) : State :=
  if bit (s.get (Reg.STN_LINK_STAT_LMASK n)) l then
    (s.stnLEvent n Reg.STN_LEVENT_LANE_DOWN).setStn n { s.stn n with dropLanes := (s.stn n).dropLanes ||| 2 ^ l }
  else s.stnLEvent n Reg.STN_LEVENT_LANE_DOWN

theorem laneReport_eq (s : State) (n l c : Nat) : s.laneReport n l c =
    if bit (s.get (Reg.STN_LINK_STAT_LMASK n)) l && (s.stn n).aborted then s.laneNoted n l
    else if bit (s.get (Reg.STN_LINK_STAT_LMASK n)) l && decide (((s.stn n).periods : Int) - (s.stn n).periodOf (c + 1) ≤ 3) then
      (s.laneNoted n l).setStn n { (s.laneNoted n l).stn n with
        restart := some (earliest ((s.laneNoted n l).stn n).restart ((s.stn n).periodOf (c + 1)).toNat) }
    else (s.laneNoted n l).lateCounted n ((s.stn n).unheld c) := by
  have station : (s.stnLEvent n Reg.STN_LEVENT_LANE_DOWN).stn n = s.stn n := stnLEvent_stn _ _ _ _
  have lanes : (s.stnLEvent n Reg.STN_LEVENT_LANE_DOWN).get (Reg.STN_LINK_STAT_LMASK n) = s.get (Reg.STN_LINK_STAT_LMASK n) :=
    stnLEvent_get _ _ _ _ (by show 0x861 + 0x80 * n ≠ 0x847 + 0x80 * n; omega)
  unfold State.laneReport State.laneNoted
  dsimp only
  rw [station, lanes]
  rfl

theorem laneNoted_get (s : State) (n l : Nat) (g : Fld) : (s.laneNoted n l).get g = (s.stnLEvent n Reg.STN_LEVENT_LANE_DOWN).get g := by
  unfold State.laneNoted
  split
  · exact get_setStn _ _ _ _
  · rfl

theorem laneNoted_down (s : State) (n l : Nat) : (s.laneNoted n l).get (Reg.STN_LEVENT_LANE_DOWN n) = 1 := by
  rw [laneNoted_get]
  exact event_get_same _ (Reg.STN_LEVENT_LANE_DOWN n) _ _ _ (lt_rfl rfl) rfl

theorem laneNoted_off (s : State) (n l : Nat) {g : Fld} (hg : g.addr ≠ 0x847 + 0x80 * n) : (s.laneNoted n l).get g = s.get g := by
  rw [laneNoted_get, stnLEvent_get _ _ _ _ hg]

theorem laneNoted_used {s : State} {n l : Nat} (hu : bit (s.get (Reg.STN_LINK_STAT_LMASK n)) l = true) :
    (s.laneNoted n l).stn n = { s.stn n with dropLanes := (s.stn n).dropLanes ||| 2 ^ l } := by
  rw [State.laneNoted, if_pos hu, State.stn_setStn_same]

theorem laneNoted_restart (s : State) (n l : Nat) : ((s.laneNoted n l).stn n).restart = (s.stn n).restart := by
  unfold State.laneNoted
  split
  · rw [State.stn_setStn_same]
  · rw [stnLEvent_stn]

/-- A lane that leaves after an ABORT has nothing to resend (R265). -/
theorem laneReport_aborted {s : State} {n l : Nat} (c : Nat) (hu : bit (s.get (Reg.STN_LINK_STAT_LMASK n)) l = true)
    (ha : (s.stn n).aborted = true) : s.laneReport n l c = s.laneNoted n l := by
  rw [laneReport_eq, hu, ha, if_pos (by decide)]

/-- The periods from the one after the last complete one on are resent while they are held (R259). -/
theorem laneReport_held {s : State} {n l c : Nat} (hu : bit (s.get (Reg.STN_LINK_STAT_LMASK n)) l = true) (ha : (s.stn n).aborted = false)
    (hh : ((s.stn n).periods : Int) - (s.stn n).periodOf (c + 1) ≤ 3) : s.laneReport n l c =
    (s.laneNoted n l).setStn n { (s.laneNoted n l).stn n with
      restart := some (earliest ((s.laneNoted n l).stn n).restart ((s.stn n).periodOf (c + 1)).toNat) } := by
  rw [laneReport_eq, hu, ha, if_neg (by decide), if_pos (by rw [decide_eq_true hh]; rfl)]

/-- A lane that the link does not use, or a period no longer held, is a lateness (R259). -/
theorem laneReport_late {s : State} {n l c : Nat} (h : bit (s.get (Reg.STN_LINK_STAT_LMASK n)) l = false ∨
      (s.stn n).aborted = false ∧ 3 < ((s.stn n).periods : Int) - (s.stn n).periodOf (c + 1)) :
    s.laneReport n l c = (s.laneNoted n l).lateCounted n ((s.stn n).unheld c) := by
  rw [laneReport_eq]
  rcases h with unused | ⟨going, unheld⟩
  · rw [unused, if_neg (by simp), if_neg (by simp)]
  · rw [going, if_neg (by simp), if_neg (by rw [decide_eq_false (by omega)]; simp)]

/-- What every LANE report shows, beside the resend (R259). -/
theorem laneReport_shows (s : State) {n l : Nat} (c : Nat) (hn : n < 8) : (s.laneReport n l c).get (Reg.STN_LEVENT_LANE_DOWN n) = 1 ∧
    (∀ g : Fld, g.addr = 0x86B + 0x80 * n → (s.laneReport n l c).get g = s.get g) ∧
    ((s.laneReport n l c).stn n).dropLanes = ((s.laneNoted n l).stn n).dropLanes := by
  have apart : ∀ g : Fld, g.addr = 0x86B + 0x80 * n → (s.laneNoted n l).get g = s.get g := fun g hg => laneNoted_off _ _ _ (by omega)
  rw [laneReport_eq]
  split_ifs
  · exact ⟨laneNoted_down _ _ _, apart, rfl⟩
  · rw [State.stn_setStn_same]
    exact ⟨(get_setStn _ _ _ _).trans (laneNoted_down _ _ _), fun g hg => (get_setStn _ _ _ _).trans (apart g hg), rfl⟩
  · have keep := Same.lateCounted (s.laneNoted n l) n ((s.stn n).unheld c)
    rw [lateCounted_laneDown _ hn, keep.stn]
    refine ⟨laneNoted_down _ _ _, fun g hg => (keep.get g ⟨?_, by omega, by omega⟩).trans (apart g hg), rfl⟩
    exact offSpoil_of (k := 0x6B) hn (by decide) hg (by decide) (by decide) (by decide)

/-- Noting a report leaves the lanes in use as they were. -/
theorem reportNoted_lanes (s : State) (n typ arg : Nat) (last : Option (Nat × Nat × Nat)) :
    (s.reportNoted n typ arg last).get (Reg.STN_LINK_STAT_LMASK n) = s.get (Reg.STN_LINK_STAT_LMASK n) :=
  reportNoted_get _ _ _ _ _ (by show 0x861 + 0x80 * n ≠ 0x86B + 0x80 * n; omega)

/-- A LANE report of a lane that the link uses (R259). -/
theorem exec_lane_used {n : StnId} {c : BitVec 2} {l : BitVec 3} {a : BitVec 5} {s : State} (hr : s.inReport n.val = true)
    (hl : (s.stn n.val).lastRpt ≠ some (rptLane, l.toNat + 8 * a.toNat, (c.toNat + 3) % 4))
    (hu : bit (s.get (Reg.STN_LINK_STAT_LMASK n.val)) l.toNat = true) :
    ∃ t, exec (.lane n c l a) s = .next t ∧ t.get (Reg.STN_LEVENT_LANE_DOWN n.val) = 1 ∧
      (t.stn n.val).dropLanes = (s.stn n.val).dropLanes ||| 2 ^ l.toNat ∧
      ((s.stn n.val).aborted = false → ((s.stn n.val).periods : Int) - (s.stn n.val).periodOf (a.toNat + 1) ≤ 3 → (s.stn n.val).restart = none →
        (t.stn n.val).restart = some ((s.stn n.val).periodOf (a.toNat + 1)).toNat) ∧
      ((s.stn n.val).aborted = true → (t.stn n.val).restart = (s.stn n.val).restart) ∧
      t.get (Reg.STN_SB_RPT_TYPE n.val) = 3 ∧ t.get (Reg.STN_SB_RPT_ARG n.val) = l.toNat + 8 * a.toNat := by
  have acts : exec (.lane n c l a) s = .next _ := congrArg Host.Outcome.next (onReport_acts _ hr hl)
  have small : l.toNat + 8 * a.toNat < 256 := by have := l.isLt; have := a.isLt; omega
  have type := reportNoted_type s n.val (l.toNat + 8 * a.toNat) (some (rptLane, l.toNat + 8 * a.toNat, c.toNat)) (typ := rptLane) (by decide)
  have arg := reportNoted_arg s n.val rptLane (some (rptLane, l.toNat + 8 * a.toNat, c.toNat)) small
  have station := reportNoted_stn s n.val rptLane (l.toNat + 8 * a.toNat) (some (rptLane, l.toNat + 8 * a.toNat, c.toNat))
  have used := (congrArg (bit · l.toNat) (reportNoted_lanes s n.val rptLane (l.toNat + 8 * a.toNat)
    (some (rptLane, l.toNat + 8 * a.toNat, c.toNat)))).trans hu
  generalize s.reportNoted n.val rptLane (l.toNat + 8 * a.toNat) (some (rptLane, l.toNat + 8 * a.toNat, c.toNat)) = b at acts type arg station used
  have restart := laneNoted_restart b n.val l.toNat
  obtain ⟨down, report, dropped⟩ := laneReport_shows b (l := l.toNat) a.toNat n.isLt
  rw [laneNoted_used used, station] at dropped
  rw [station] at restart
  refine ⟨_, acts, down, dropped, fun going held none_yet => ?_, fun gone => ?_, (report _ rfl).trans type, (report _ rfl).trans arg⟩
  · have held' : ((b.stn n.val).periods : Int) - (b.stn n.val).periodOf (a.toNat + 1) ≤ 3 := by rw [station]; exact held
    rw [laneReport_held used (by rw [station]; exact going) held', State.stn_setStn_same, restart, station]
    dsimp only
    rw [none_yet]
    rfl
  · rw [laneReport_aborted a.toNat used (by rw [station]; exact gone)]
    exact restart

/-- A LANE report that cannot be resent (R259). -/
theorem exec_lane_late {n : StnId} {c : BitVec 2} {l : BitVec 3} {a : BitVec 5} {s : State} (hr : s.inReport n.val = true)
    (hl : (s.stn n.val).lastRpt ≠ some (rptLane, l.toNat + 8 * a.toNat, (c.toNat + 3) % 4))
    (h : bit (s.get (Reg.STN_LINK_STAT_LMASK n.val)) l.toNat = false ∨
      (s.stn n.val).aborted = false ∧ 3 < ((s.stn n.val).periods : Int) - (s.stn n.val).periodOf (a.toNat + 1)) :
    ∃ t, exec (.lane n c l a) s = .next t ∧ t.get (Reg.STN_LEVENT_LANE_DOWN n.val) = 1 ∧ t.get (Reg.STN_LEVENT_LINK_LATE n.val) = 1 ∧
      t.get (Reg.STN_LINK_CNT_LATES n.val) = min (s.get (Reg.STN_LINK_CNT_LATES n.val) + 1) 511 ∧
      (t.stn n.val).restart = (s.stn n.val).restart := by
  have acts : exec (.lane n c l a) s = .next _ := congrArg Host.Outcome.next (onReport_acts _ hr hl)
  have lates := reportNoted_get s n.val rptLane (l.toNat + 8 * a.toNat) (some (rptLane, l.toNat + 8 * a.toNat, c.toNat))
    (g := Reg.STN_LINK_CNT_LATES n.val) (by show 0x866 + 0x80 * n.val ≠ 0x86B + 0x80 * n.val; omega)
  have lanes := reportNoted_lanes s n.val rptLane (l.toNat + 8 * a.toNat) (some (rptLane, l.toNat + 8 * a.toNat, c.toNat))
  have station := reportNoted_stn s n.val rptLane (l.toNat + 8 * a.toNat) (some (rptLane, l.toNat + 8 * a.toNat, c.toNat))
  generalize s.reportNoted n.val rptLane (l.toNat + 8 * a.toNat) (some (rptLane, l.toNat + 8 * a.toNat, c.toNat)) = b at acts lates lanes station
  have late : bit (b.get (Reg.STN_LINK_STAT_LMASK n.val)) l.toNat = false ∨
      (b.stn n.val).aborted = false ∧ 3 < ((b.stn n.val).periods : Int) - (b.stn n.val).periodOf (a.toNat + 1) := by
    rw [lanes, station]
    exact h
  rw [laneReport_late late] at acts
  refine ⟨_, acts, (lateCounted_laneDown _ n.isLt _).trans (laneNoted_down _ _ _), lateCounted_late _ n.isLt _, ?_, ?_⟩
  · rw [lateCounted_lates _ n.isLt, laneNoted_off _ _ _ (by show 0x866 + 0x80 * n.val ≠ 0x847 + 0x80 * n.val; omega), lates]
  · rw [(Same.lateCounted _ _ _).stn, laneNoted_restart, station]

/-- A LATE report (R262). -/
theorem exec_late_counted {n : StnId} {c : BitVec 2} {f : Byte} {s : State} (hr : s.inReport n.val = true)
    (hl : (s.stn n.val).lastRpt ≠ some (rptLate, f.toNat, (c.toNat + 3) % 4)) :
    ∃ t, exec (.late n c f) s = .next t ∧ t.get (Reg.STN_LEVENT_LINK_LATE n.val) = 1 ∧
      t.get (Reg.STN_LINK_CNT_LATES n.val) = min (s.get (Reg.STN_LINK_CNT_LATES n.val) + 1) 511 ∧ t.get (Reg.STN_SB_RPT_TYPE n.val) = 4 ∧
      t.get (Reg.STN_SB_RPT_ARG n.val) = f.toNat := by
  have keep := Same.lateCounted (s.reportNoted n.val rptLate f.toNat (some (rptLate, f.toNat, c.toNat))) n.val (fun e => decide (e.fseq % 256 = f.toNat))
  have off : offLate n.val (0x86B + 0x80 * n.val) :=
    ⟨offSpoil_of (k := 0x6B) n.isLt (by decide) rfl (by decide) (by decide) (by decide), by omega, by omega⟩
  refine ⟨_, congrArg Host.Outcome.next (onReport_acts _ hr hl), lateCounted_late _ n.isLt _, ?_, ?_, ?_⟩
  · refine (lateCounted_lates _ n.isLt _).trans ?_
    rw [reportNoted_get _ _ _ _ _ (by show 0x866 + 0x80 * n.val ≠ 0x86B + 0x80 * n.val; omega)]
  · exact (keep.get _ off).trans (reportNoted_type _ _ _ _ (by decide))
  · exact (keep.get _ off).trans (reportNoted_arg _ _ _ _ f.isLt)

/-- A FAULT report (R262). -/
theorem exec_fault_raised {n : StnId} (c : BitVec 2) (f : Byte) {s : State} (hr : s.inReport n.val = true) :
    ∃ t, exec (.fault n c f) s = .next t ∧ t.get (Reg.STN_LEVENT_DRV_FAULT n.val) = 1 ∧ t.get (Reg.STN_SB_RPT_TYPE n.val) = 5 ∧
      t.get (Reg.STN_SB_RPT_ARG n.val) = f.toNat := by
  have apart : 0x86B + 0x80 * n.val ≠ 0x847 + 0x80 * n.val := by omega
  refine ⟨(s.reportNoted n.val rptFault f.toNat none).stnLEvent n.val Reg.STN_LEVENT_DRV_FAULT, congrArg Host.Outcome.next (onReport_single _ hr),
    event_get_same _ (Reg.STN_LEVENT_DRV_FAULT n.val) _ _ _ (lt_rfl rfl) rfl, ?_, ?_⟩
  · rw [stnLEvent_get _ _ _ _ apart]
    exact reportNoted_type _ _ _ _ (by decide)
  · rw [stnLEvent_get _ _ _ _ apart]
    exact reportNoted_arg _ _ _ _ f.isLt

/-- A discarded sideband frame (R262). -/
theorem exec_sbErr_raised {n : StnId} {s : State} (hr : s.inReport n.val = true) :
    ∃ t, exec (.sbErr n) s = .next t ∧ t.get (Reg.STN_LEVENT_SB_ERR n.val) = 1 ∧ t.stn n.val = { s.stn n.val with lastRpt := none } := by
  refine ⟨s.sbError n.val, congrArg Host.Outcome.next (if_pos hr), event_get_same _ (Reg.STN_LEVENT_SB_ERR n.val) _ _ _ (lt_rfl rfl) rfl, ?_⟩
  rw [State.sbError, stnLEvent_stn, State.stn_setStn_same]

/-- A sideband lost, as the station notes it before its cutoff (R263). -/
def State.lossNoted (s : State) (n : Nat) : State :=
  (s.stnLEvent n Reg.STN_LEVENT_SB_LOST).setStn n { s.stn n with sbLost := true }

theorem sidebandLost_cutoff {s : State} {n : Nat} (hc : (s.stn n).cutoff = false) : s.sidebandLost n = (s.lossNoted n).cutoffStart n := by
  unfold State.sidebandLost State.lossNoted
  dsimp only
  rw [stnLEvent_stn, State.stn_setStn_same, if_neg (by rw [hc]; decide)]

/-- The loss of the sideband outside a cutoff (R263). -/
theorem exec_sbLost_blanks {n : StnId} {s : State} (hr : s.inReport n.val = true) (hl : (s.stn n.val).sbLost = false)
    (hc : (s.stn n.val).cutoff = false) :
    ∃ t, exec (.sbLost n) s = .next t ∧ t.get (Reg.STN_LEVENT_SB_LOST n.val) = 1 ∧ (t.stn n.val).sbLost = true ∧ (t.stn n.val).cutoff = true ∧
      t.get (Reg.STN_STATUS_BLANK n.val) = 1 := by
  obtain ⟨cutoff, lost, blank, off, -, -⟩ := cutoffStart_facts (s.lossNoted n.val) n.val n.isLt
  refine ⟨(s.lossNoted n.val).cutoffStart n.val, ?_, ?_, ?_, cutoff, blank⟩
  · refine congrArg Host.Outcome.next ((if_pos ⟨hr, by rw [hl]; rfl⟩).trans ?_)
    exact sidebandLost_cutoff hc
  · rw [off _ (offSpoil_of (k := 0x47) n.isLt (by decide) rfl (by decide) (by decide) (by decide))
      (by show 0x847 + 0x80 * n.val ≠ 0x802 + 0x80 * n.val; omega), State.lossNoted, get_setStn]
    exact event_get_same _ (Reg.STN_LEVENT_SB_LOST n.val) _ _ _ (lt_rfl rfl) rfl
  · rw [lost, State.lossNoted, State.stn_setStn_same]

end Sys2Proof.Machine

namespace Sys2Proof.Machine
open Sys2Proof

/-! The web encoders (R248, R249, R266): O22 -/

theorem setEnc_setEnc (s : State) (e : Nat) (v w : Encoder) : (s.setEnc e v).setEnc e w = s.setEnc e w := by
  unfold State.setEnc
  exact congrArg (fun m => ({ s with encs := m } : State)) (Map.set_set _ _ _ _ _)

theorem enc_congr {s t : State} (h : t.encs = s.encs) (e : Nat) : t.enc e = s.enc e := by
  unfold State.enc
  rw [h]

theorem Same.encs {P : Nat → Prop} {s t : State} (h : Same P s t) : t.encs = s.encs := by
  obtain ⟨-, -, -, -, -, -, encs, -⟩ := h
  exact encs

/-- The stations that select an encoder are told by their registers. -/
theorem encUsers_setEnc (s : State) (e f : Nat) (v : Encoder) : (s.setEnc e v).encUsers f = s.encUsers f := rfl

theorem stnLEvent_encs (s : State) (n : Nat) (ev : Nat → Fld) : (s.stnLEvent n ev).encs = s.encs :=
  (Same.event (P := fun _ => False) s _ _ _ _ (fun _ h => h.elim)).encs

/-- An event that was raised for a station stands while the same event is raised for others. -/
theorem stnLEvent_stays {s : State} {n m : Nat} (ev : Nat → Fld) (k : Nat) (hev : ∀ i, ev i = ⟨0x847 + 0x80 * i, k, k⟩) (hk : k < 18)
    (h : s.get (ev n) = 1) : (s.stnLEvent m ev).get (ev n) = 1 := by
  by_cases e : n = m
  · subst e
    exact event_get_same _ (ev n) _ _ _ (by rw [hev]; exact hk) (by rw [hev])
  · rw [stnLEvent_get _ _ _ _ (by rw [hev, hev]; show 0x847 + 0x80 * n ≠ 0x847 + 0x80 * m; omega), h]

/-- An event raised for every member of a list stands for each. -/
theorem stnLEvents_raised (ev : Nat → Fld) (k : Nat) (hev : ∀ i, ev i = ⟨0x847 + 0x80 * i, k, k⟩) (hk : k < 18) {ns : List Nat} {n : Nat}
    (hn : n ∈ ns) (s : State) : (ns.foldl (fun (t : State) m => t.stnLEvent m ev) s).get (ev n) = 1 :=
  foldl_once (fun _ => True) (fun t : State => t.get (ev n) = 1) (fun (t : State) m => t.stnLEvent m ev) n (fun _ _ _ _ => trivial)
    (fun _ _ => event_get_same _ (ev n) _ _ _ (by rw [hev]; exact hk) (by rw [hev])) (fun _ _ ht => stnLEvent_stays ev k hev hk ht) ns hn s trivial

theorem stnLEvents_encs (ev : Nat → Fld) (ns : List Nat) (s : State) : (ns.foldl (fun (t : State) m => t.stnLEvent m ev) s).encs = s.encs :=
  foldl_keeps State.encs (fun t m => stnLEvent_encs t m ev) ns s

/-- What a station following a count leaves (R249): the encoders, and the fields that neither REVERSE nor its spoils write. -/
theorem follow1_keeps {β : Type} (p : State → β) (n : Nat) (hset : ∀ (t : State) v, p (t.setStn n v) = p t)
    (hev : ∀ t : State, p (t.stnLEvent n Reg.STN_LEVENT_REV) = p t) (hbump : ∀ t : State, p (t.bump (Reg.STN_ENC_STAT_REVS n)) = p t)
    (hspoil : ∀ t : State, p (t.spoilProgress n 4) = p t) (s : State) (d : Int) : p (s.follow1 n d) = p s := by
  unfold State.follow1
  dsimp only
  generalize wrap48 ((s.stn n).dc + if s.flag (Reg.STN_ENC_DIR n) then -d else d) = dc
  split
  · split_ifs
    · exact hset _ _
    · exact hset _ _
    · rw [hspoil, hbump, hev, hset]
    · exact hset _ _
  · rfl

theorem follow1_encs (s : State) (n : Nat) (d : Int) : (s.follow1 n d).encs = s.encs :=
  follow1_keeps State.encs n (fun _ _ => rfl) (fun t => stnLEvent_encs t n _) (fun t => (Same.bump (P := fun _ => False) t _ (fun _ h => h.elim)).encs)
    (fun t => (Same.stnSpoil t n _ _).encs) s d

theorem bump_get_apart (s : State) {f g : Fld} (hg : g.hi < 18) (h : g.hi < f.lo ∨ f.hi < g.lo) : (s.bump f).get g = s.get g := by
  unfold State.bump
  split
  · exact State.get_put_apart _ _ hg h
  · rfl

/-- A station that follows a count keeps the fields beside REV and REVS of registers that no spoil writes. -/
theorem follow1_get (s : State) (n : Nat) (d : Int) {g : Fld} (hg : g.hi < 18) (h : g.hi < 2 ∨ 15 < g.lo) (hs : offSpoil n g.addr) :
    (s.follow1 n d).get g = s.get g := by
  refine follow1_keeps (fun t => t.get g) n (fun _ _ => rfl) (fun t => ?_) (fun t => bump_get_apart t hg ?_) (fun t => (Same.stnSpoil t n _ _).get g hs) s d
  · exact event_get_apart t _ g _ _ _ hg (by show g.hi < 2 ∨ 2 < g.lo; omega)
  · show g.hi < 8 ∨ 15 < g.lo
    omega

/-- A transition that comes too close as every station of its encoder shows it (R248). -/
def State.overspeed (s : State) (n : Nat) : State := (s.put (Reg.STN_ENC_STAT_OVERSPEED n) 1).stnLEvent n Reg.STN_LEVENT_ENC_ERR

theorem overspeed_encs (s : State) (n : Nat) : (s.overspeed n).encs = s.encs := (stnLEvent_encs _ _ _).trans rfl

theorem overspeed_set (s : State) (n : Nat) : (s.overspeed n).get (Reg.STN_ENC_STAT_OVERSPEED n) = 1 ∧
    (s.overspeed n).get (Reg.STN_LEVENT_ENC_ERR n) = 1 := by
  refine ⟨?_, event_get_same _ (Reg.STN_LEVENT_ENC_ERR n) _ _ _ (lt_rfl rfl) rfl⟩
  rw [State.overspeed, stnLEvent_get _ _ _ _ (by show 0x84B + 0x80 * n ≠ 0x847 + 0x80 * n; omega)]
  exact State.get_put_same _ _ 1 (lt_rfl rfl) (lt_rfl rfl)

/-- The fields that `overspeed` sets for a station it leaves as they were for the others. -/
theorem overspeed_stays {s : State} {n : Nat} (m : Nat)
    (h : s.get (Reg.STN_ENC_STAT_OVERSPEED n) = 1 ∧ s.get (Reg.STN_LEVENT_ENC_ERR n) = 1) :
    (s.overspeed m).get (Reg.STN_ENC_STAT_OVERSPEED n) = 1 ∧ (s.overspeed m).get (Reg.STN_LEVENT_ENC_ERR n) = 1 := by
  by_cases e : n = m
  · subst e
    exact overspeed_set s n
  · obtain ⟨fast, err⟩ := h
    rw [State.overspeed, stnLEvent_get _ _ _ _ (by show 0x84B + 0x80 * n ≠ 0x847 + 0x80 * m; omega),
      stnLEvent_get _ _ _ _ (by show 0x847 + 0x80 * n ≠ 0x847 + 0x80 * m; omega),
      State.get_put_ne _ _ (by show 0x84B + 0x80 * n ≠ 0x84B + 0x80 * m; omega), State.get_put_ne _ _ (by show 0x847 + 0x80 * n ≠ 0x84B + 0x80 * m; omega)]
    exact ⟨fast, err⟩

theorem overspeeds_set {ns : List Nat} {n : Nat} (hn : n ∈ ns) (s : State) :
    (ns.foldl State.overspeed s).get (Reg.STN_ENC_STAT_OVERSPEED n) = 1 ∧ (ns.foldl State.overspeed s).get (Reg.STN_LEVENT_ENC_ERR n) = 1 :=
  foldl_once (fun _ => True) (fun t : State => t.get (Reg.STN_ENC_STAT_OVERSPEED n) = 1 ∧ t.get (Reg.STN_LEVENT_ENC_ERR n) = 1) State.overspeed n
    (fun _ _ _ _ => trivial) (fun t _ => overspeed_set t n) (fun _ m ht => overspeed_stays m ht) ns hn s trivial

/-- An encoder that has counted d transitions more. -/
def State.counted (s : State) (e : Nat) (b : BitVec 2) (d : Int) : State :=
  s.setEnc e { s.enc e with ba := b, count := (s.enc e).count + BitVec.ofInt 32 d }

/-- The state once the stations of an encoder have followed its count (R249). -/
def State.followed (s : State) (e : Nat) (d : Int) : State := (s.encUsers e).foldl (fun (t : State) n => t.follow1 n d) s

theorem followed_encs (s : State) (e : Nat) (d : Int) : (s.followed e d).encs = s.encs :=
  foldl_keeps State.encs (fun t n => follow1_encs t n d) _ s

theorem followed_get (s : State) (e : Nat) (d : Int) {g : Fld} (hg : g.hi < 18) (h : g.hi < 2 ∨ 15 < g.lo) (hs : ∀ n, offSpoil n g.addr) :
    (s.followed e d).get g = s.get g :=
  foldl_keeps (fun t => t.get g) (fun t n => follow1_get t n d hg h (hs n)) _ s

section
variable {s : State} {e : Nat} {b : BitVec 2} (hs : s.serving = true) (hl : (s.enc e).los = false)
include hs hl

/-- A level change of no channel leaves the count (Table 9-3). -/
theorem encChange_still (close : Bool) (hq : quadStep (s.enc e).ba b = some 0) : s.encChange e b close = s.counted e b 0 := by
  unfold State.encChange
  dsimp only
  rw [if_neg (by rw [hs, hl]; decide), hq]
  dsimp only
  have count : (s.enc e).count + BitVec.ofInt 32 0 = (s.enc e).count := BitVec.add_zero _
  rw [if_pos rfl, State.counted, count]

/-- A transition counts, and the stations of the encoder follow it (R248, R249). -/
theorem encChange_moves {d : Int} (close : Bool) (hq : quadStep (s.enc e).ba b = some d) (hd : d ≠ 0) : s.encChange e b close =
    (if close then (s.encUsers e).foldl State.overspeed (s.counted e b d) else s.counted e b d).followed e d := by
  unfold State.encChange
  dsimp only
  rw [if_neg (by rw [hs, hl]; decide), hq]
  dsimp only
  rw [if_neg hd, setEnc_setEnc]
  rfl

/-- A change of both channels is illegal (R248, Table 9-3). -/
theorem encChange_illegal (close : Bool) (hq : quadStep (s.enc e).ba b = none) : s.encChange e b close =
    (s.encUsers e).foldl (fun (t : State) n => t.stnLEvent n Reg.STN_LEVENT_ENC_ERR)
      (s.setEnc e { s.enc e with ba := b, errs := (s.enc e).errs + 1 }) := by
  unfold State.encChange
  dsimp only
  rw [if_neg (by rw [hs, hl]; decide), hq]
  dsimp only
  rw [State.enc_setEnc_same, setEnc_setEnc, encUsers_setEnc]

/-- A first LOS (R248). -/
theorem encLost_first : s.encLost e =
    (s.encUsers e).foldl (fun (t : State) n => t.stnLEvent n Reg.STN_LEVENT_ENC_LOS) (s.setEnc e { s.enc e with los := true }) := by
  unfold State.encLost
  rw [if_neg (by rw [hs, hl]; decide)]
  rfl

end

theorem exec_encoderCount_counts {e : Fin 2} {b : BitVec 2} {d : Int} {s : State} (hs : s.serving = true) (hl : (s.enc e.val).los = false)
    (hq : quadStep (s.enc e.val).ba b = some d) : ∃ t, exec (.encoderCount e b false) s = .next t ∧
      t.enc e.val = { s.enc e.val with ba := b, count := (s.enc e.val).count + BitVec.ofInt 32 d } := by
  refine ⟨s.encChange e.val b false, rfl, ?_⟩
  by_cases hd : d = 0
  · subst hd
    rw [encChange_still hs hl false hq]
    exact State.enc_setEnc_same _ _ _
  · rw [encChange_moves hs hl false hq hd, enc_congr (followed_encs _ _ _)]
    exact State.enc_setEnc_same _ _ _

theorem exec_encoderCount_illegal {e : Fin 2} {b : BitVec 2} (close : Bool) {n : StnId} {s : State} (hs : s.serving = true)
    (hl : (s.enc e.val).los = false) (hq : quadStep (s.enc e.val).ba b = none) (hn : n.val ∈ s.encUsers e.val) :
    ∃ t, exec (.encoderCount e b close) s = .next t ∧ t.enc e.val = { s.enc e.val with ba := b, errs := (s.enc e.val).errs + 1 } ∧
      t.get (Reg.STN_LEVENT_ENC_ERR n.val) = 1 := by
  refine ⟨_, congrArg Host.Outcome.next (encChange_illegal hs hl close hq), ?_, stnLEvents_raised _ 0 (fun _ => rfl) (by decide) hn _⟩
  rw [enc_congr (stnLEvents_encs _ _ _)]
  exact State.enc_setEnc_same _ _ _

theorem exec_encoderCount_close {e : Fin 2} {b : BitVec 2} {d : Int} {n : StnId} {s : State} (hs : s.serving = true)
    (hl : (s.enc e.val).los = false) (hq : quadStep (s.enc e.val).ba b = some d) (hd : d ≠ 0) (hn : n.val ∈ s.encUsers e.val) :
    ∃ t, exec (.encoderCount e b true) s = .next t ∧ t.get (Reg.STN_ENC_STAT_OVERSPEED n.val) = 1 ∧ t.get (Reg.STN_LEVENT_ENC_ERR n.val) = 1 := by
  obtain ⟨fast, err⟩ := overspeeds_set hn (s.counted e.val b d)
  refine ⟨_, congrArg Host.Outcome.next (encChange_moves hs hl true hq hd), ?_, ?_⟩
  · rw [if_pos rfl, followed_get _ _ _ (lt_rfl rfl) (.inr (lt_rfl rfl))
      (fun m => offSpoil_of (k := 0x4B) n.isLt (by decide) rfl (by decide) (by decide) (by decide)), fast]
  · rw [if_pos rfl, followed_get _ _ _ (lt_rfl rfl) (.inl (lt_rfl rfl))
      (fun m => offSpoil_of (k := 0x47) n.isLt (by decide) rfl (by decide) (by decide) (by decide)), err]

theorem exec_encoderLos_lost {e : Fin 2} {n : StnId} {s : State} (hs : s.serving = true) (hl : (s.enc e.val).los = false)
    (hn : n.val ∈ s.encUsers e.val) : ∃ t, exec (.encoderLos e) s = .next t ∧ t.enc e.val = { s.enc e.val with los := true } ∧
      t.get (Reg.STN_LEVENT_ENC_LOS n.val) = 1 := by
  refine ⟨_, congrArg Host.Outcome.next (encLost_first hs hl), ?_, stnLEvents_raised _ 1 (fun _ => rfl) (by decide) hn _⟩
  rw [enc_congr (stnLEvents_encs _ _ _)]
  exact State.enc_setEnc_same _ _ _

/-- A read of STN_ENC_LO (R266). -/
theorem exec_encCountLatch_latches {x : Sender} {n : StnId} {s : State} (hr : s.reaches x (stnBase n.val + 0x49) false = true)
    (he : s.stnEnabled n.val = true) :
    ∃ t, exec (.encCountLatch x n) s = .next t ∧ t.get (Reg.STN_ENC_HI_CNT_HI n.val) = (s.enc (s.encSel n.val)).count.toNat / 2 ^ 18 ∧
      t.out = s.out ++ [.readData x (stnBase n.val + 0x49) (BitVec.ofNat 18 (s.enc (s.encSel n.val)).count.toNat)] := by
  have upper : (s.enc (s.encSel n.val)).count.toNat / 2 ^ 18 < 2 ^ 14 := by
    have := (s.enc (s.encSel n.val)).count.isLt
    omega
  refine ⟨(s.encLatch n.val).1.answer x (stnBase n.val + 0x49) (s.encLatch n.val).2,
    congrArg Host.Outcome.next ((if_pos hr).trans (if_pos he)), ?_, rfl⟩
  rw [State.answer, State.get_emit, State.encLatch]
  exact State.get_put_same _ _ _ (lt_rfl rfl) upper

/-- Settles O22: each report by its action on the state that has noted it, each encoder change by what its count does. -/
theorem reportsAndEncoders : Obligations.ReportsAndEncoders := by
  refine ⟨fun _ c l _ hr => exec_temp_noted c l hr, fun _ c _ _ hr he hl => exec_dead_marked c hr he hl, fun n c e s hr he hl => ?_,
    fun _ _ _ _ _ hr hl hu => exec_lane_used hr hl hu, fun _ _ _ _ _ hr hl h => exec_lane_late hr hl h,
    fun _ _ _ _ hr hl => exec_late_counted hr hl, fun _ c f _ hr => exec_fault_raised c f hr, fun _ _ hr => exec_sbErr_raised hr,
    fun _ _ hr hl hc => exec_sbLost_blanks hr hl hc, fun _ _ _ _ hs hl hq => exec_encoderCount_counts hs hl hq,
    fun _ _ k _ _ hs hl hq hn => exec_encoderCount_illegal k hs hl hq hn, fun _ _ _ _ _ hs hl hq hd hn => exec_encoderCount_close hs hl hq hd hn,
    fun _ _ _ hs hl hn => exec_encoderLos_lost hs hl hn, fun _ _ => rfl, fun _ _ _ hr he => exec_encCountLatch_latches hr he⟩
  exact congrArg Host.Outcome.next ((if_pos he).trans (onReport_copy _ hr hl))

end Sys2Proof.Machine

namespace Sys2Proof.Machine
open Sys2Proof

/-! The Ecposia link's periods and lane drops (R251, R259): O21 -/

/-- The period that an AM boundary starts, with no lane left to drop and nothing to resend. -/
def State.periodStarted (s : State) (n : Nat) : State :=
  s.setStn n { s.stn n with periods := (s.stn n).periods + 1, dropLanes := 0, restart := none }

/-- LMASK without the lanes that are to leave. -/
def State.lanesLeft (s : State) (n : Nat) : Nat := s.get (Reg.STN_LINK_STAT_LMASK n) &&& (255 - (s.stn n).dropLanes % 256)

/-- The link once the lanes that are to leave have left it; BAD names them. -/
def State.lanesDropped (s : State) (n : Nat) : State :=
  ((s.periodStarted n).setLanes n (s.lanesLeft n)).put (Reg.STN_LINK_INFO_BAD n) (s.get (Reg.STN_LINK_INFO_BAD n) ||| (s.stn n).dropLanes)

/-- The resend of a period: its control block, RESENDS and RESEND. -/
def State.resent (s : State) (n : StnId) (p : Nat) : State :=
  ((s.emit (.control n 3 (p % 32))).bump (Reg.STN_LINK_CNT_RESENDS n.val)).stnLEvent n.val Reg.STN_LEVENT_RESEND

theorem laneRule_enough {s : State} {n : Nat} (h : s.get (Reg.STN_LINK_CTL_LANES_MIN n) ≤ s.get (Reg.STN_LINK_STAT_LANES n)) : s.laneRule n = s :=
  if_neg fun few => absurd few.2 (not_lt.mpr h)

theorem amBoundary_starts {n : StnId} {s : State} (hd : (s.stn n.val).dropLanes = 0) :
    s.amBoundary n = (s.periodStarted n.val).laneRule n.val := if_pos hd

theorem amBoundary_drops {n : StnId} {s : State} {p : Nat} (hd : (s.stn n.val).dropLanes ≠ 0) (hm : s.lanesLeft n.val ≠ 0)
    (hp : (s.stn n.val).restart = some p) : s.amBoundary n = ((s.lanesDropped n.val).laneRule n.val).resent n p := by
  refine (if_neg hd).trans ((if_neg hm).trans ?_)
  dsimp only
  rw [hp]
  rfl

theorem lanesLeft_lt (s : State) (n : Nat) : s.lanesLeft n < 256 := lt_of_le_of_lt Nat.and_le_left (State.get_lt s (Reg.STN_LINK_STAT_LMASK n))

/-- STN_LINK_STAT and the station once the lanes that are to leave have left. -/
theorem lanesDropped_facts (s : State) (n : Nat) : (s.lanesDropped n).get (Reg.STN_LINK_STAT_LMASK n) = s.lanesLeft n ∧
    (s.lanesDropped n).get (Reg.STN_LINK_STAT_LANES n) = popcount 8 (s.lanesLeft n) % 16 ∧
    (s.lanesDropped n).get (Reg.STN_LINK_STAT_STATE n) = s.get (Reg.STN_LINK_STAT_STATE n) ∧
    (s.lanesDropped n).stn n = { s.stn n with periods := (s.stn n).periods + 1, dropLanes := 0, restart := none } := by
  obtain ⟨mask, lanes, state, -, stns, -⟩ := setLanes_facts (s.periodStarted n) n (s.lanesLeft n)
  have beside : 0x861 + 0x80 * n ≠ 0x864 + 0x80 * n := by omega
  refine ⟨(State.get_put_ne _ _ beside).trans (mask.trans (Nat.mod_eq_of_lt (lanesLeft_lt s n))), (State.get_put_ne _ _ beside).trans lanes,
    (State.get_put_ne _ _ beside).trans (state.trans (get_setStn _ _ _ _)), ?_⟩
  exact (put_stn _ _ _ _).trans ((stn_congr stns n).trans (State.stn_setStn_same _ _ _))

/-- A resend tells its control block and RESEND, and leaves the station and its other registers. -/
theorem resent_facts (s : State) (n : StnId) (p : Nat) : .control n 3 (p % 32) ∈ (s.resent n p).out ∧
    (s.resent n p).get (Reg.STN_LEVENT_RESEND n.val) = 1 ∧ (s.resent n p).stn n.val = s.stn n.val ∧
    ∀ g : Fld, g.addr ≠ 0x866 + 0x80 * n.val → g.addr ≠ 0x847 + 0x80 * n.val → (s.resent n p).get g = s.get g := by
  have counts := Same.bump (P := fun a => a ≠ 0x866 + 0x80 * n.val) (s.emit (.control n 3 (p % 32))) (Reg.STN_LINK_CNT_RESENDS n.val) (fun _ h => h)
  refine ⟨?_, event_get_same _ (Reg.STN_LEVENT_RESEND n.val) _ _ _ (lt_rfl rfl) rfl, (stnLEvent_stn _ _ _ _).trans (counts.stn _),
    fun g h1 h2 => (stnLEvent_get _ _ _ _ h2).trans (counts.get g h1)⟩
  have high : ∀ k, 0x800 ≤ 0x800 + k + 0x80 * n.val := fun k => by omega
  have told : Quiet (s.emit (.control n 3 (p % 32))) (s.resent n p) :=
    (Quiet.bump _ _ (.inr (high 0x66))).trans' (Quiet.event _ _ _ _ _ (.inr (high 0x47)))
  exact told.out _ (List.mem_append_right _ (List.mem_singleton_self _))

theorem exec_amBoundary {n : StnId} {s : State} (hs : s.serving = true) (h1 : linkMap ≤ s.get (Reg.STN_LINK_STAT_STATE n.val))
    (h2 : s.get (Reg.STN_LINK_STAT_STATE n.val) ≤ linkUpSt) : exec (.amBoundary n) s = .next (s.amBoundary n) :=
  congrArg Host.Outcome.next (if_pos ⟨hs, h1, h2⟩)

/-- An AM boundary of a link with lanes enough starts a period (R251). -/
theorem exec_amBoundary_starts {n : StnId} {s : State} (hs : s.serving = true) (h1 : linkMap ≤ s.get (Reg.STN_LINK_STAT_STATE n.val))
    (h2 : s.get (Reg.STN_LINK_STAT_STATE n.val) ≤ linkUpSt) (hd : (s.stn n.val).dropLanes = 0)
    (hl : s.get (Reg.STN_LINK_CTL_LANES_MIN n.val) ≤ s.get (Reg.STN_LINK_STAT_LANES n.val)) :
    ∃ t, exec (.amBoundary n) s = .next t ∧ t.regs = s.regs ∧
      t.stn n.val = { s.stn n.val with periods := (s.stn n.val).periods + 1, restart := none } := by
  refine ⟨s.periodStarted n.val, ?_, rfl, (State.stn_setStn_same _ _ _).trans (by dsimp only; rw [hd])⟩
  rw [exec_amBoundary hs h1 h2, amBoundary_starts hd, laneRule_enough (s := s.periodStarted n.val) hl]

/-- An AM boundary drops the lanes reported, and resends from the period asked for (R259). -/
theorem exec_amBoundary_drops {n : StnId} {s : State} {p : Nat} (hs : s.serving = true) (hup : s.get (Reg.STN_LINK_STAT_STATE n.val) = linkUpSt)
    (hd : (s.stn n.val).dropLanes ≠ 0) (hm : s.lanesLeft n.val ≠ 0) (hp : (s.stn n.val).restart = some p) :
    ∃ t, exec (.amBoundary n) s = .next t ∧ (t.stn n.val).dropLanes = 0 ∧ (t.stn n.val).restart = none ∧
      t.get (Reg.STN_LINK_STAT_LMASK n.val) = s.lanesLeft n.val ∧ t.get (Reg.STN_LINK_STAT_LANES n.val) = popcount 8 (s.lanesLeft n.val) % 16 ∧
      t.get (Reg.STN_LINK_STAT_STATE n.val) = linkUpSt ∧ .control n 3 (p % 32) ∈ t.out ∧ t.get (Reg.STN_LEVENT_RESEND n.val) = 1 := by
  obtain ⟨mask, lanes, state, station⟩ := lanesDropped_facts s n.val
  obtain ⟨ruled, ruledStns, -, -⟩ := laneRule_facts (s.lanesDropped n.val) n.val
  obtain ⟨told, event, kept, beside⟩ := resent_facts ((s.lanesDropped n.val).laneRule n.val) n p
  have stat : ∀ g : Fld, g.addr = 0x861 + 0x80 * n.val →
      (((s.lanesDropped n.val).laneRule n.val).resent n p).get g = (s.lanesDropped n.val).get g := fun g hg =>
    (beside g (by omega) (by omega)).trans (ruled g (by omega) (by omega))
  have link := kept.trans ((stn_congr ruledStns n.val).trans station)
  exact ⟨_, (exec_amBoundary hs (by rw [hup]; decide) hup.le).trans (congrArg Host.Outcome.next (amBoundary_drops hd hm hp)), by rw [link], by rw [link],
    (stat _ rfl).trans mask, (stat _ rfl).trans lanes, (stat _ rfl).trans (state.trans hup), told, event⟩

end Sys2Proof.Machine

namespace Sys2Proof.Machine
open Sys2Proof

/-! Training (R255 to R257): O21 -/

/-- Reads of driver registers put their frames on the sideband, and do no more. -/
theorem readDriver_eq (s : State) (n : StnId) (as : List (BitVec 7)) :
    s.readDriver n as = { s with out := s.out ++ as.map (fun a => .setupFrame n false a 0#16) } := by
  induction as generalizing s with
  | nil => simp [State.readDriver]
  | cons a as ih =>
    refine (ih (s.emit (.setupFrame n false a 0#16))).trans ?_
    simp [State.emit]

theorem readDriver_get (s : State) (n : StnId) (as : List (BitVec 7)) (g : Fld) : (s.readDriver n as).get g = s.get g := by
  rw [readDriver_eq]
  rfl

theorem readDriver_stn (s : State) (n : StnId) (as : List (BitVec 7)) (m : Nat) : (s.readDriver n as).stn m = s.stn m := by
  rw [readDriver_eq]
  rfl

theorem readDriver_out (s : State) (n : StnId) (as : List (BitVec 7)) :
    (s.readDriver n as).out = s.out ++ as.map (fun a => .setupFrame n false a 0#16) := by
  rw [readDriver_eq]

theorem stnId_ofNat (n : StnId) : Fin.ofNat 8 n.val = n := Fin.ext (Nat.mod_eq_of_lt n.isLt)

/-- Training as it starts, with no lanes in use (R256). -/
def State.trainingBegun (s : State) (n : Nat) : State :=
  (((s.put (Reg.STN_LINK_STAT_STATE n) linkTrain).put (Reg.STN_STATUS_DEG_LINK n) 0).setLanes n 0).setStn n
    { s.stn n with trainStep := some 1, prbs := [], dropLanes := 0, restart := none, eye := none }

theorem trainStart_eq (s : State) (n : StnId) : s.trainStart n.val = (s.trainingBegun n.val).readDriver n [0x00#7, 0x01#7] := by
  unfold State.trainStart
  dsimp only
  rw [stnId_ofNat]
  rfl

theorem trainingBegun_facts (s : State) (n : Nat) : (s.trainingBegun n).get (Reg.STN_LINK_STAT_STATE n) = linkTrain ∧
    (s.trainingBegun n).get (Reg.STN_LINK_STAT_LMASK n) = 0 ∧ (s.trainingBegun n).get (Reg.STN_LINK_STAT_LANES n) = 0 ∧
    (s.trainingBegun n).get (Reg.STN_STATUS_DEG_LINK n) = 0 := by
  obtain ⟨mask, lanes, state, beside, -, -⟩ :=
    setLanes_facts ((s.put (Reg.STN_LINK_STAT_STATE n) linkTrain).put (Reg.STN_STATUS_DEG_LINK n) 0) n 0
  unfold State.trainingBegun
  simp only [get_setStn]
  refine ⟨state.trans ?_, mask, lanes, (beside _ (by show 0x802 + 0x80 * n ≠ 0x861 + 0x80 * n; omega)).trans ?_⟩
  · rw [State.get_put_ne _ _ (by show 0x861 + 0x80 * n ≠ 0x802 + 0x80 * n; omega)]
    exact State.get_put_same _ _ _ (lt_rfl rfl) (lt_rfl rfl)
  · exact State.get_put_same _ _ _ (lt_rfl rfl) (lt_rfl rfl)

/-- TRAIN of a station that is not armed (R256). -/
theorem exec_train_begins {x : Sender} {n : StnId} {s : State} (hr : s.stnReaches x n.val 0x60 true = true) (hs : s.serving = true)
    (ha : s.stnArmed n.val = false) :
    ∃ t, exec (.train x n) s = .next t ∧ t.get (Reg.STN_LINK_STAT_STATE n.val) = linkTrain ∧ t.get (Reg.STN_LINK_STAT_LMASK n.val) = 0 ∧
      t.get (Reg.STN_LINK_STAT_LANES n.val) = 0 ∧ t.get (Reg.STN_STATUS_DEG_LINK n.val) = 0 ∧
      t.stn n.val = { s.stn n.val with trainStep := some 1, prbs := [], dropLanes := 0, restart := none, eye := none } ∧
      t.out = s.out ++ [.setupFrame n false 0x00#7 0#16, .setupFrame n false 0x01#7 0#16] := by
  have runs : exec (.train x n) s = .next ((s.trainingBegun n.val).readDriver n [0x00#7, 0x01#7]) := by
    rw [← trainStart_eq]
    exact congrArg Host.Outcome.next ((if_pos hr).trans (if_pos (by rw [hs, ha]; rfl)))
  obtain ⟨state, mask, lanes, degraded⟩ := trainingBegun_facts s n.val
  refine ⟨_, runs, ?_⟩
  simp only [readDriver_get, readDriver_stn, readDriver_out]
  exact ⟨state, mask, lanes, degraded, State.stn_setStn_same _ _ _, rfl⟩

theorem exec_trainingStepDone {n : StnId} {s : State} (reply : List (BitVec 16)) (hs : s.serving = true) :
    exec (.trainingStepDone n reply) s = .next (s.trainStepDone n.val reply) := congrArg Host.Outcome.next (if_pos hs)

/-! Step 1: the driver's ID and FIFO -/

/-- STN_LINK_INFO with the driver's FIFO, a FIFO above 255 as 255 (log entry 59). -/
def State.fifoShown (s : State) (n fifo : Nat) : State := s.put (Reg.STN_LINK_INFO_FIFO n) (min 255 fifo)

theorem fifoShown_fifo (s : State) (n fifo : Nat) : (s.fifoShown n fifo).get (Reg.STN_LINK_INFO_FIFO n) = min 255 fifo :=
  State.get_put_same _ _ _ (lt_rfl rfl) (Nat.lt_succ_of_le (Nat.min_le_left 255 fifo))

theorem trainStepDone_driver {s : State} {n : StnId} (a b : BitVec 16) (hk : (s.stn n.val).trainStep = some 1) : s.trainStepDone n.val [a, b] =
    if a.toNat = 0 ∨ a.toNat = 0xFFFF ∨ b.toNat < 32 then (s.fifoShown n.val b.toNat).trainFail n.val
    else ((s.fifoShown n.val b.toNat).setStn n.val { s.stn n.val with trainStep := some 2 }).writeDriver n 0x12#7 1 := by
  unfold State.trainStepDone
  dsimp only
  rw [hk, stnId_ofNat]
  rfl

theorem driverRefused_iff (a b : BitVec 16) : (a.toNat = 0 ∨ a.toNat = 0xFFFF ∨ b.toNat < 32) ↔ (a = 0#16 ∨ a = 0xFFFF#16 ∨ b.toNat < 32) := by
  rw [← BitVec.toNat_inj (y := 0#16), ← BitVec.toNat_inj (y := 0xFFFF#16)]
  rfl

/-- A driver that answers with an ID and a FIFO of 32 or more is sent MODE 1 (Table 9-6). -/
theorem exec_trainingStepDone_driver {n : StnId} {a b : BitVec 16} {s : State} (hs : s.serving = true) (hk : (s.stn n.val).trainStep = some 1)
    (h0 : a ≠ 0#16) (h1 : a ≠ 0xFFFF#16) (hb : 32 ≤ b.toNat) :
    ∃ t, exec (.trainingStepDone n [a, b]) s = .next t ∧ t.stn n.val = { s.stn n.val with trainStep := some 2 } ∧
      t.get (Reg.STN_LINK_INFO_FIFO n.val) = min 255 b.toNat ∧ t.out = s.out ++ [.setupFrame n true 0x12#7 1#16] := by
  have taken : ¬(a.toNat = 0 ∨ a.toNat = 0xFFFF ∨ b.toNat < 32) := by
    rw [driverRefused_iff]
    rintro (h | h | h)
    · exact h0 h
    · exact h1 h
    · omega
  exact ⟨_, (exec_trainingStepDone _ hs).trans (congrArg Host.Outcome.next ((trainStepDone_driver a b hk).trans (if_neg taken))),
    State.stn_setStn_same _ _ _, fifoShown_fifo s n.val b.toNat, rfl⟩

/-- A driver that does not answer, or whose FIFO is too short, fails the training (Table 9-6). -/
theorem exec_trainingStepDone_noDriver {n : StnId} {a b : BitVec 16} {s : State} (hs : s.serving = true) (hk : (s.stn n.val).trainStep = some 1)
    (h : a = 0#16 ∨ a = 0xFFFF#16 ∨ b.toNat < 32) :
    ∃ t, exec (.trainingStepDone n [a, b]) s = .next t ∧ (t.stn n.val).trainStep = none ∧ t.get (Reg.STN_LINK_STAT_STATE n.val) = linkFailed ∧
      t.get (Reg.STN_LINK_STAT_LMASK n.val) = 0 ∧ t.get (Reg.STN_LEVENT_TRAIN_FAIL n.val) = 1 := by
  obtain ⟨station, state, mask, event⟩ := trainFail_facts (s.fifoShown n.val b.toNat) n.val
  exact ⟨_, (exec_trainingStepDone _ hs).trans (congrArg Host.Outcome.next ((trainStepDone_driver a b hk).trans (if_pos ((driverRefused_iff a b).mpr h)))),
    by rw [station], state, mask, event⟩

/-! Steps 2 to 10: the presets -/

theorem exec_trainingStepDone_mode {n : StnId} {s : State} (reply : List (BitVec 16)) (hs : s.serving = true)
    (hk : (s.stn n.val).trainStep = some 2) : exec (.trainingStepDone n reply) s = .next { s.setStn n.val { s.stn n.val with trainStep := some 3 } with
      out := s.out ++ prbsRegs.map (fun a => .setupFrame n false a 0#16) } := by
  rw [exec_trainingStepDone reply hs]
  unfold State.trainStepDone
  dsimp only
  rw [hk, stnId_ofNat]
  exact congrArg Host.Outcome.next (readDriver_eq _ n prbsRegs)

/-- The lanes whose count of errors the driver gives as 0. -/
def cleanLanes (reply : List (BitVec 16)) : Nat := (((List.range 8).filter (fun l => decide (reply.getD l 0xFFFF#16 = 0#16))).map (2 ^ ·)).sum

/-- The zero-error lanes of the preset of step k, as the station notes them. -/
def State.presetNoted (s : State) (n k : Nat) (reply : List (BitVec 16)) : State :=
  s.setStn n { s.stn n with trainStep := some (k + 1), prbs := Map.set (fun _ => 0) (s.stn n).prbs (k - 3) (cleanLanes reply) }

theorem trainStepDone_preset {s : State} {n : StnId} {k : Nat} (reply : List (BitVec 16)) (hk : (s.stn n.val).trainStep = some k) (h3 : 3 ≤ k)
    (h10 : k ≤ 10) : s.trainStepDone n.val reply =
      if k < 10 then (s.presetNoted n.val k reply).readDriver n prbsRegs else s.presetNoted n.val k reply := by
  unfold State.trainStepDone
  dsimp only
  rw [hk, stnId_ofNat]
  interval_cases k <;> rfl

theorem presetNoted_clean (s : State) (n k : Nat) (reply : List (BitVec 16)) {l : Nat} (hl : l < 8) :
    ((s.presetNoted n k reply).stn n).clean (k - 3) l = true ↔ reply.getD l 0xFFFF#16 = 0#16 := by
  unfold State.presetNoted Stn.clean
  rw [State.stn_setStn_same]
  dsimp only
  rw [Map.get_set_same, bit_eq, cleanLanes, (maskSum _ 8).2, decide_eq_true hl, Bool.true_and, decide_eq_true_iff]

/-- The step of a preset notes the lanes without error; the next preset's counts are read, if there is one (R257). -/
theorem exec_trainingStepDone_preset {n : StnId} {k : Nat} {s : State} (reply : List (BitVec 16)) (hs : s.serving = true)
    (hk : (s.stn n.val).trainStep = some k) (h3 : 3 ≤ k) (h10 : k ≤ 10) :
    ∃ t, exec (.trainingStepDone n reply) s = .next t ∧ t.regs = s.regs ∧ (t.stn n.val).trainStep = some (k + 1) ∧
      (∀ l, l < 8 → ((t.stn n.val).clean (k - 3) l = true ↔ reply.getD l 0xFFFF#16 = 0#16)) ∧
      t.out = s.out ++ (if k < 10 then prbsRegs.map (fun a => .setupFrame n false a 0#16) else []) := by
  have step : ((s.presetNoted n.val k reply).stn n.val).trainStep = some (k + 1) := by rw [State.presetNoted, State.stn_setStn_same]
  refine ⟨_, (exec_trainingStepDone reply hs).trans (congrArg Host.Outcome.next (trainStepDone_preset reply hk h3 h10)), ?_⟩
  split
  · rw [readDriver_eq]
    exact ⟨rfl, step, fun l hl => presetNoted_clean s n.val k reply hl, rfl⟩
  · exact ⟨rfl, step, fun l hl => presetNoted_clean s n.val k reply hl, (List.append_nil _).symm⟩

/-! Step 11: the lane map -/

/-- A fold whose step always answers finds something, unless there is nothing to fold. -/
theorem foldl_isSome {α β : Type} {f : Option β → α → Option β} (hf : ∀ b x, (f b x).isSome = true) (xs : List α) (b : Option β) :
    (xs.foldl f b).isSome = true ↔ b.isSome = true ∨ xs ≠ [] := by
  induction xs generalizing b with
  | nil => simp
  | cons x xs ih => simp [ih, hf]

/-- A lane has a preset where some preset gave it no error (R257). -/
theorem presetOf_isSome (st : Stn) (l : Nat) : (st.presetOf l).isSome = true ↔ ∃ p, p < 8 ∧ st.clean p l = true := by
  have found : (st.presetOf l).isSome = true ↔ (none : Option Nat).isSome = true ∨ (List.range 8).filter (fun p => st.clean p l) ≠ [] := by
    refine foldl_isSome (fun b p => ?_) _ none
    cases b with
    | none => rfl
    | some b =>
      dsimp only
      split <;> rfl
  rw [found, Ne, List.filter_eq_nil_iff]
  simp

/-- Lane l is not excluded and has a preset without error. -/
def State.laneGood (s : State) (n l : Nat) : Bool := !bit (s.get (Reg.STN_LINK_CTL_EXCL n)) l && ((s.stn n).presetOf l).isSome

/-- The lanes that training maps (R257). -/
def State.goodLanes (s : State) (n : Nat) : Nat := (((List.range 8).filter (s.laneGood n)).map (2 ^ ·)).sum

theorem laneGood_iff (s : State) (n l : Nat) : s.laneGood n l = true ↔
    bit (s.get (Reg.STN_LINK_CTL_EXCL n)) l = false ∧ ∃ p, p < 8 ∧ (s.stn n).clean p l = true := by
  rw [State.laneGood, Bool.and_eq_true, presetOf_isSome, Bool.not_eq_true']

theorem goodLanes_bit (s : State) (n : Nat) {l : Nat} (hl : l < 8) : bit (s.goodLanes n) l = s.laneGood n l := by
  rw [bit_eq, State.goodLanes, (maskSum _ 8).2, decide_eq_true hl, Bool.true_and]

theorem goodLanes_lt (s : State) (n : Nat) : s.goodLanes n < 256 := (maskSum (s.laneGood n) 8).1

/-- STN_LINK_PRE and BAD as the lane map writes them. -/
def State.presetsShown (s : State) (n pre bad : Nat) : State :=
  ((s.put (Reg.STN_LINK_PRE0_PRE n) (pre % 2 ^ 18)).put (Reg.STN_LINK_PRE1_PRE n) (pre / 2 ^ 18)).put (Reg.STN_LINK_INFO_BAD n) bad

/-- The driver told of its lanes and of MODE 0 (Table 9-6). -/
def State.lanesTold (s : State) (n : StnId) (mask : Nat) : State := (s.writeDriver n 0x10#7 mask).writeDriver n 0x12#7 0

theorem lanesTold_get (s : State) (n : StnId) (mask : Nat) (g : Fld) : (s.lanesTold n mask).get g = s.get g := rfl

theorem lanesTold_stn (s : State) (n : StnId) (mask m : Nat) : (s.lanesTold n mask).stn m = s.stn m := rfl

theorem lanesTold_out (s : State) (n : StnId) (mask : Nat) :
    (s.lanesTold n mask).out = s.out ++ [.setupFrame n true 0x10#7 (BitVec.ofNat 16 mask), .setupFrame n true 0x12#7 0#16] := List.append_assoc _ _ _

theorem presetsShown_out (s : State) (n pre bad : Nat) : (s.presetsShown n pre bad).out = s.out := by
  rw [State.presetsShown, State.put_out, State.put_out, State.put_out]

/-- The link with its lanes mapped, as LMASK, LANES, STATE and the training step show it. -/
def State.lanesMapped (s : State) (n mask : Nat) : State :=
  ((s.setLanes n mask).put (Reg.STN_LINK_STAT_STATE n) linkMap).setStn n { s.stn n with trainStep := some 12 }

/-- The lane map fails with no good lane, and else tells the driver LMASK and MODE 0 (Table 9-6). -/
theorem trainMap_eq (s : State) (n : StnId) : ∃ pre bad, s.trainMap n.val =
    if s.goodLanes n.val = 0 then (s.presetsShown n.val pre bad).trainFail n.val
    else ((s.presetsShown n.val pre bad).lanesMapped n.val (s.goodLanes n.val)).lanesTold n (s.goodLanes n.val) := by
  unfold State.trainMap
  dsimp only
  rw [List.filter_filter, stnId_ofNat]
  have lanes : (List.range 8).filter (fun l => ((s.stn n.val).presetOf l).isSome && !bit (s.get (Reg.STN_LINK_CTL_EXCL n.val)) l) =
      (List.range 8).filter (s.laneGood n.val) := List.filter_congr fun l _ => Bool.and_comm _ _
  rw [lanes]
  exact ⟨_, _, rfl⟩

theorem trainStepDone_map {s : State} {n : Nat} (reply : List (BitVec 16)) (hk : (s.stn n).trainStep = some 11) :
    s.trainStepDone n reply = s.trainMap n := by
  unfold State.trainStepDone
  dsimp only
  rw [hk]
  rfl

theorem lanesMapped_facts (s : State) (n : Nat) {mask : Nat} (hm : mask < 256) : (s.lanesMapped n mask).get (Reg.STN_LINK_STAT_LMASK n) = mask ∧
    (s.lanesMapped n mask).get (Reg.STN_LINK_STAT_LANES n) = popcount 8 mask % 16 ∧
    (s.lanesMapped n mask).get (Reg.STN_LINK_STAT_STATE n) = linkMap ∧ ((s.lanesMapped n mask).stn n).trainStep = some 12 ∧
    (s.lanesMapped n mask).out = s.out := by
  obtain ⟨lmask, lanes, -, -, -, out⟩ := setLanes_facts s n mask
  unfold State.lanesMapped
  refine ⟨?_, ?_, ?_, by rw [State.stn_setStn_same], (State.setStn_out _ _ _).trans ((State.put_out _ _ _).trans out)⟩
  · rw [get_setStn, State.get_put_apart _ _ (lt_rfl rfl) (.inl (lt_rfl rfl)), lmask, Nat.mod_eq_of_lt hm]
  · rw [get_setStn, State.get_put_apart _ _ (lt_rfl rfl) (.inl (lt_rfl rfl)), lanes]
  · rw [get_setStn]
    exact State.get_put_same _ _ _ (lt_rfl rfl) (lt_rfl rfl)

/-- The lane map takes the lanes that are not excluded and that a preset leaves without error (R257). -/
theorem exec_trainingStepDone_map {n : StnId} {s : State} (reply : List (BitVec 16)) (hs : s.serving = true)
    (hk : (s.stn n.val).trainStep = some 11)
    (hg : ∃ l p, l < 8 ∧ p < 8 ∧ bit (s.get (Reg.STN_LINK_CTL_EXCL n.val)) l = false ∧ (s.stn n.val).clean p l = true) :
    ∃ t m, exec (.trainingStepDone n reply) s = .next t ∧ m < 256 ∧ t.get (Reg.STN_LINK_STAT_LMASK n.val) = m ∧
      (∀ l, l < 8 → (bit m l = true ↔ bit (s.get (Reg.STN_LINK_CTL_EXCL n.val)) l = false ∧ ∃ p, p < 8 ∧ (s.stn n.val).clean p l = true)) ∧
      t.get (Reg.STN_LINK_STAT_LANES n.val) = popcount 8 m % 16 ∧ t.get (Reg.STN_LINK_STAT_STATE n.val) = linkMap ∧
      (t.stn n.val).trainStep = some 12 ∧ t.out = s.out ++ [.setupFrame n true 0x10#7 (BitVec.ofNat 16 m), .setupFrame n true 0x12#7 0#16] := by
  obtain ⟨l, p, hl, hp, included, clean⟩ := hg
  have some_lane : s.goodLanes n.val ≠ 0 := fun none_good => by
    have good := (laneGood_iff s n.val l).mpr ⟨included, p, hp, clean⟩
    rw [← goodLanes_bit s n.val hl, none_good, bit_eq, Nat.zero_testBit] at good
    exact Bool.noConfusion good
  obtain ⟨pre, bad, maps⟩ := trainMap_eq s n
  have runs := (exec_trainingStepDone reply hs).trans (congrArg Host.Outcome.next ((trainStepDone_map reply hk).trans (maps.trans (if_neg some_lane))))
  obtain ⟨mask, lanes, state, step, out⟩ := lanesMapped_facts (s.presetsShown n.val pre bad) n.val (goodLanes_lt s n.val)
  exact ⟨_, s.goodLanes n.val, runs, goodLanes_lt s n.val, (lanesTold_get _ _ _ _).trans mask,
    fun l hl => by rw [goodLanes_bit s n.val hl, laneGood_iff], (lanesTold_get _ _ _ _).trans lanes, (lanesTold_get _ _ _ _).trans state,
    (congrArg Stn.trainStep (lanesTold_stn _ _ _ _)).trans step, by rw [lanesTold_out, out, presetsShown_out]⟩

/-- With no lane to map, training fails (Table 9-6). -/
theorem exec_trainingStepDone_noLane {n : StnId} {s : State} (reply : List (BitVec 16)) (hs : s.serving = true)
    (hk : (s.stn n.val).trainStep = some 11)
    (hg : ∀ l p, l < 8 → p < 8 → bit (s.get (Reg.STN_LINK_CTL_EXCL n.val)) l = false → (s.stn n.val).clean p l = false) :
    ∃ t, exec (.trainingStepDone n reply) s = .next t ∧ (t.stn n.val).trainStep = none ∧ t.get (Reg.STN_LINK_STAT_STATE n.val) = linkFailed ∧
      t.get (Reg.STN_LEVENT_TRAIN_FAIL n.val) = 1 := by
  have none_good : s.goodLanes n.val = 0 := by
    have empty : (List.range 8).filter (s.laneGood n.val) = [] := List.filter_eq_nil_iff.mpr fun l hl good => by
      obtain ⟨included, p, hp, clean⟩ := (laneGood_iff s n.val l).mp good
      exact Bool.noConfusion ((hg l p (List.mem_range.mp hl) hp included).symm.trans clean)
    rw [State.goodLanes, empty]
    rfl
  obtain ⟨pre, bad, maps⟩ := trainMap_eq s n
  obtain ⟨station, state, -, event⟩ := trainFail_facts (s.presetsShown n.val pre bad) n.val
  exact ⟨_, (exec_trainingStepDone reply hs).trans (congrArg Host.Outcome.next ((trainStepDone_map reply hk).trans (maps.trans (if_pos none_good)))),
    by rw [station], state, event⟩

/-! Steps 12 and 13: alignment -/

/-- The driver's ALIGNED is read once it has had AMs (Table 9-6). -/
theorem exec_trainingStepDone_align {n : StnId} {s : State} (reply : List (BitVec 16)) (hs : s.serving = true)
    (hk : (s.stn n.val).trainStep = some 12) :
    ∃ t, exec (.trainingStepDone n reply) s = .next t ∧ t.get (Reg.STN_LINK_STAT_STATE n.val) = linkAlign ∧ (t.stn n.val).trainStep = some 13 ∧
      t.out = s.out ++ [.setupFrame n false 0x11#7 0#16] := by
  have runs : exec (.trainingStepDone n reply) s = .next (((s.put (Reg.STN_LINK_STAT_STATE n.val) linkAlign).setStn n.val
      { s.stn n.val with trainStep := some 13, periods := 0 }).readDriver n [0x11#7]) := by
    rw [exec_trainingStepDone reply hs]
    unfold State.trainStepDone
    dsimp only
    rw [hk, stnId_ofNat]
    rfl
  refine ⟨_, runs, ?_⟩
  rw [readDriver_get, readDriver_stn, readDriver_out, State.stn_setStn_same, get_setStn]
  exact ⟨State.get_put_same _ _ _ (lt_rfl rfl) (lt_rfl rfl), rfl, rfl⟩

/-- The link as it comes UP. -/
def State.linkRaised (s : State) (n : Nat) : State :=
  ((s.put (Reg.STN_LINK_STAT_STATE n) linkUpSt).setStn n { s.stn n with trainStep := none, eye := (s.stn n).eye.map (fun _ => true) }).stnLEvent n
    Reg.STN_LEVENT_TRAIN_DONE

/-- A driver aligned on the lanes in use ends the training (Table 9-6). -/
theorem exec_trainingStepDone_up {n : StnId} {a : BitVec 16} {s : State} (hs : s.serving = true) (hk : (s.stn n.val).trainStep = some 13)
    (hm : a.toNat % 256 = s.get (Reg.STN_LINK_STAT_LMASK n.val)) (ha : bit a.toNat 15 = true) :
    ∃ t, exec (.trainingStepDone n [a]) s = .next t ∧ t.get (Reg.STN_LINK_STAT_STATE n.val) = linkUpSt ∧
      t.get (Reg.STN_LEVENT_TRAIN_DONE n.val) = 1 ∧ (t.stn n.val).trainStep = none := by
  have runs : exec (.trainingStepDone n [a]) s = .next ((s.linkRaised n.val).laneRule n.val) := by
    rw [exec_trainingStepDone [a] hs]
    unfold State.trainStepDone
    dsimp only
    rw [hk]
    exact congrArg Host.Outcome.next (if_pos ⟨hm, ha⟩)
  obtain ⟨ruled, stns, -, -⟩ := laneRule_facts (s.linkRaised n.val) n.val
  refine ⟨_, runs, ?_, ?_, ?_⟩
  · rw [ruled _ (by show 0x861 + 0x80 * n.val ≠ 0x802 + 0x80 * n.val; omega) (by show 0x861 + 0x80 * n.val ≠ 0x803 + 0x80 * n.val; omega),
      State.linkRaised, stnLEvent_get _ _ _ _ (by show 0x861 + 0x80 * n.val ≠ 0x847 + 0x80 * n.val; omega), get_setStn]
    exact State.get_put_same _ _ _ (lt_rfl rfl) (lt_rfl rfl)
  · rw [ruled _ (by show 0x847 + 0x80 * n.val ≠ 0x802 + 0x80 * n.val; omega) (by show 0x847 + 0x80 * n.val ≠ 0x803 + 0x80 * n.val; omega)]
    exact event_get_same _ (Reg.STN_LEVENT_TRAIN_DONE n.val) _ _ _ (lt_rfl rfl) rfl
  · rw [stn_congr stns, State.linkRaised, stnLEvent_stn, State.stn_setStn_same]

end Sys2Proof.Machine

namespace Sys2Proof.Machine
open Sys2Proof

/-! SET-UP frames (R261, R354): O21 -/

/-- GO beside a field of STN_SB_CMD leaves the field. -/
theorem bits_or_go (v : Word) {hi lo : Nat} (h : hi < 17) : bits (v ||| 0x20000#18).toNat hi lo = bits v.toNat hi lo := by
  apply Nat.eq_of_testBit_eq
  intro i
  rw [bits_testBit, bits_testBit, BitVec.toNat_or, Nat.testBit_or]
  by_cases inside : i < hi + 1 - lo
  · rw [show (0x20000#18).toNat = 2 ^ 17 from rfl, Nat.testBit_two_pow_of_ne (by omega), Bool.or_false]
  · rw [decide_eq_false inside, Bool.false_and, Bool.false_and]

theorem bit_or_go (v : Word) : bit (v ||| 0x20000#18).toNat 17 = true := by
  rw [bit_eq, BitVec.toNat_or, Nat.testBit_or]
  exact Bool.or_true _

/-- STN_SB_CMD with WR and ADDR as a write gives them. -/
def State.cmdStored (s : State) (n : Nat) (v : Word) : State :=
  (s.put (Reg.STN_SB_CMD_WR n) (bits v.toNat 16 16)).put (Reg.STN_SB_CMD_ADDR n) (bits v.toNat 6 0)

theorem sbCmdWrite_go (s : State) (n : StnId) (v : Word) : s.sbCmdWrite n (v ||| 0x20000#18) = (s.cmdStored n.val v).setupGo n := by
  unfold State.sbCmdWrite
  dsimp only
  rw [if_pos (bit_or_go v), bits_or_go v (by decide), bits_or_go v (by decide)]
  rfl

theorem cmdStored_get (s : State) (n : Nat) (v : Word) {g : Fld} (hg : g.addr ≠ 0x868 + 0x80 * n) : (s.cmdStored n v).get g = s.get g :=
  State.get_put_two _ _ _ hg hg

theorem cmdStored_addr (s : State) (n : Nat) (v : Word) : (s.cmdStored n v).get (Reg.STN_SB_CMD_ADDR n) = bits v.toNat 6 0 :=
  State.get_put_same _ _ _ (lt_rfl rfl) (Nat.mod_lt _ (by decide))

theorem cmdStored_wr (s : State) (n : Nat) (v : Word) : (s.cmdStored n v).flag (Reg.STN_SB_CMD_WR n) = bit v.toNat 16 := by
  have stored : (s.cmdStored n v).get (Reg.STN_SB_CMD_WR n) = bits v.toNat 16 16 :=
    (State.get_put_apart _ (f := Reg.STN_SB_CMD_ADDR n) (g := Reg.STN_SB_CMD_WR n) _ (lt_rfl rfl) (.inr (lt_rfl rfl))).trans
      (State.get_put_same _ _ _ (lt_rfl rfl) (Nat.mod_lt _ (by decide)))
  unfold State.flag bit
  rw [stored, decide_eq_decide]
  show v.toNat / 2 ^ 16 % 2 ≠ 0 ↔ _
  omega

theorem cmdStored_flag (s : State) (n : Nat) (v : Word) {g : Fld} (hg : g.addr ≠ 0x868 + 0x80 * n) : (s.cmdStored n v).flag g = s.flag g := by
  unfold State.flag
  rw [cmdStored_get _ _ _ hg]

/-- What lets a SET-UP access through does not rest on STN_SB_CMD. -/
theorem cmdStored_setupOk (s : State) (n : Nat) (v : Word) (addr : Nat) : (s.cmdStored n v).setupOk n addr = s.setupOk n addr := by
  unfold State.setupOk State.stnEnabled State.stnArmed
  rw [cmdStored_get _ _ _ (by show 0x003 ≠ _; omega), cmdStored_flag _ _ _ (by show 0x802 + 0x80 * n ≠ _; omega),
    cmdStored_flag _ _ _ (by show 0x802 + 0x80 * n ≠ _; omega)]
  rfl

/-- The frame that GO asks for, with its three retries (R261). -/
def State.goFrame (s : State) (n : Nat) (v : Word) : Bool × BitVec 7 × BitVec 16 × Nat :=
  (bit v.toNat 16, BitVec.ofNat 7 (bits v.toNat 6 0), BitVec.ofNat 16 (s.get (Reg.STN_SB_DATA_DATA n)), 3)

/-- The SET-UP frame of GO, as the sideband carries it. -/
def State.goSent (s : State) (n : StnId) (v : Word) : Out :=
  .setupFrame n (bit v.toNat 16) (BitVec.ofNat 7 (bits v.toNat 6 0)) (BitVec.ofNat 16 (s.get (Reg.STN_SB_DATA_DATA n.val)))

/-- A SET-UP access that has begun: BUSY and its frame, which waits for Sweeper's (R261, R354). -/
def State.goBegun (s : State) (n : Nat) (v : Word) : State :=
  ((s.cmdStored n v).put (Reg.STN_SB_STAT_BUSY n) 1).setStn n { s.stn n with frame := some (s.goFrame n v), goWaits := (s.stn n).swpFrame }

theorem goBegun_busy (s : State) (n : Nat) (v : Word) : (s.goBegun n v).get (Reg.STN_SB_STAT_BUSY n) = 1 :=
  (get_setStn _ _ _ _).trans (State.get_put_same _ _ _ (lt_rfl rfl) (lt_rfl rfl))

theorem goBegun_stn (s : State) (n : Nat) (v : Word) : (s.goBegun n v).stn n =
    { s.stn n with frame := some (s.goFrame n v), goWaits := (s.stn n).swpFrame } := State.stn_setStn_same _ _ _

theorem emit_stn (s : State) (o : Out) (m : Nat) : (s.emit o).stn m = s.stn m := stn_congr (State.emit_stns s o) m

theorem goBegun_out (s : State) (n : Nat) (v : Word) : (s.goBegun n v).out = s.out := by
  rw [State.goBegun, State.cmdStored, State.setStn_out, State.put_out, State.put_out, State.put_out]

section
variable {x : Sender} {n : StnId} {v : Word} {s : State} (hr : s.stnReaches x n.val 0x68 true = true)
  (hb : s.flag (Reg.STN_SB_STAT_BUSY n.val) = false)
include hr hb

/-- GO of a sideband that is not busy sends a frame, at once or after Sweeper's, or refuses it (R261, R354). -/
theorem exec_go : exec (.go x n v) s = .next (
    if s.setupOk n.val (bits v.toNat 6 0) then
      if (s.stn n.val).swpFrame then s.goBegun n.val v
      else (s.goBegun n.val v).emit (s.goSent n v)
    else (s.cmdStored n.val v).put (Reg.STN_SB_STAT_RESULT n.val) 3) := by
  have idle : ¬(s.cmdStored n.val v).flag (Reg.STN_SB_STAT_BUSY n.val) = true := by
    rw [cmdStored_flag _ _ _ (by show 0x86A + 0x80 * n.val ≠ _; omega), hb]
    decide
  refine congrArg Host.Outcome.next ((if_pos hr).trans ((sbCmdWrite_go s n v).trans ((if_neg idle).trans ?_)))
  dsimp only
  rw [cmdStored_addr, cmdStored_setupOk, cmdStored_wr, cmdStored_get _ _ _ (by show 0x869 + 0x80 * n.val ≠ _; omega)]
  rfl

/-- With no frame of Sweeper on the sideband the frame goes out at once (R261). -/
theorem exec_go_sends (hok : s.setupOk n.val (bits v.toNat 6 0) = true) (hw : (s.stn n.val).swpFrame = false) :
    ∃ t, exec (.go x n v) s = .next t ∧ t.get (Reg.STN_SB_STAT_BUSY n.val) = 1 ∧ (t.stn n.val).goWaits = false ∧
      (t.stn n.val).frame = some (s.goFrame n.val v) ∧ t.out = s.out ++ [s.goSent n v] := by
  have runs := (exec_go hr hb).trans (congrArg Host.Outcome.next ((if_pos hok).trans (if_neg (by rw [hw]; decide))))
  refine ⟨_, runs, ?_⟩
  rw [State.get_emit, emit_stn, State.emit_out, goBegun_busy, goBegun_stn, goBegun_out]
  exact ⟨rfl, hw, rfl, rfl⟩

/-- The frame waits for the end of Sweeper's (R354). -/
theorem exec_go_waits (hok : s.setupOk n.val (bits v.toNat 6 0) = true) (hw : (s.stn n.val).swpFrame = true) :
    ∃ t, exec (.go x n v) s = .next t ∧ t.get (Reg.STN_SB_STAT_BUSY n.val) = 1 ∧ (t.stn n.val).goWaits = true ∧ t.out = s.out ∧
      (t.stn n.val).frame = some (s.goFrame n.val v) := by
  have runs := (exec_go hr hb).trans (congrArg Host.Outcome.next ((if_pos hok).trans (if_pos hw)))
  refine ⟨_, runs, goBegun_busy s n.val v, ?_⟩
  rw [goBegun_stn, goBegun_out]
  exact ⟨hw, rfl, rfl⟩

/-- A sideband that does not serve SET-UP accesses reports NOT_SETUP (R261). -/
theorem exec_go_refused (hok : s.setupOk n.val (bits v.toNat 6 0) = false) :
    ∃ t, exec (.go x n v) s = .next t ∧ t.get (Reg.STN_SB_STAT_RESULT n.val) = 3 ∧ t.get (Reg.STN_SB_STAT_BUSY n.val) = 0 ∧ t.stns = s.stns ∧
      t.out = s.out := by
  refine ⟨_, (exec_go hr hb).trans (congrArg Host.Outcome.next (if_neg (by rw [hok]; decide))),
    State.get_put_same _ _ _ (lt_rfl rfl) (lt_rfl rfl), ?_, rfl, rfl⟩
  rw [State.get_put_apart _ (f := Reg.STN_SB_STAT_RESULT n.val) (g := Reg.STN_SB_STAT_BUSY n.val) _ (lt_rfl rfl) (.inr (lt_rfl rfl)),
    cmdStored_get _ _ _ (by show 0x86A + 0x80 * n.val ≠ _; omega)]
  exact not_not.mp (of_decide_eq_false hb)

end

/-- A frame that waits for Sweeper's has not begun, and does not end. -/
theorem setupFrameDone_waits {n : StnId} {s : State} (ok p : Bool) (d : BitVec 16) (hw : (s.stn n.val).goWaits = true) :
    s.setupFrameDone n ok p d = s := by
  unfold State.setupFrameDone
  split
  · rfl
  · exact if_pos hw

section
variable {n : StnId} {s : State} {wr : Bool} {a : BitVec 7} {w : BitVec 16} {k : Nat} {ok p : Bool} (d : BitVec 16) (hs : s.serving = true)
  (hw : (s.stn n.val).goWaits = false)
include hs hw

/-- A write taken, or a read whose parity is right, gives DATA and RESULT 0 (R261). -/
theorem exec_setupFrameDone_good (hf : (s.stn n.val).frame = some (wr, a, w, k)) (h : (if wr then ok else p) = true) :
    exec (.setupFrameDone n ok p d) s = .next ((if wr then s else s.put (Reg.STN_SB_DATA_DATA n.val) d.toNat).setupEnd n.val 0) := by
  refine congrArg Host.Outcome.next ((if_pos hs).trans ?_)
  unfold State.setupFrameDone
  rw [hf]
  exact (if_neg (by rw [hw]; decide)).trans (if_pos h)

/-- The last try's failure is the RESULT (R261). -/
theorem exec_setupFrameDone_fails (hf : (s.stn n.val).frame = some (wr, a, w, 0)) (h : (if wr then ok else p) = false) :
    exec (.setupFrameDone n ok p d) s = .next (s.setupEnd n.val (if wr then 1 else 2)) := by
  refine congrArg Host.Outcome.next ((if_pos hs).trans ?_)
  unfold State.setupFrameDone
  rw [hf]
  exact (if_neg (by rw [hw]; decide)).trans (if_neg (by rw [h]; decide))

/-- A failure with tries left sends the frame again (R261). -/
theorem exec_setupFrameDone_retries (hf : (s.stn n.val).frame = some (wr, a, w, k + 1)) (h : (if wr then ok else p) = false) :
    exec (.setupFrameDone n ok p d) s =
      .next ((s.setStn n.val { s.stn n.val with frame := some (wr, a, w, k) }).emit (.setupFrame n wr a w)) := by
  refine congrArg Host.Outcome.next ((if_pos hs).trans ?_)
  unfold State.setupFrameDone
  rw [hf]
  exact (if_neg (by rw [hw]; decide)).trans (if_neg (by rw [h]; decide))

end

/-- Settles O21: each command of the link, of training and of the sideband by the operation that it runs. -/
theorem linkAndTraining : Obligations.LinkAndTraining := by
  refine ⟨fun _ _ hs h1 h2 hd hl => exec_amBoundary_starts hs h1 h2 hd hl, fun _ _ _ hs hup hd hm hp => exec_amBoundary_drops hs hup hd hm hp,
    fun _ _ _ hr hs ha => exec_train_begins hr hs ha, fun _ _ _ _ hs hk h0 h1 hb => exec_trainingStepDone_driver hs hk h0 h1 hb,
    fun _ _ _ _ hs hk h => exec_trainingStepDone_noDriver hs hk h, fun _ reply _ hs hk => exec_trainingStepDone_mode reply hs hk,
    fun _ reply _ _ hs hk h3 h10 => exec_trainingStepDone_preset reply hs hk h3 h10, fun _ reply _ hs hk hg => exec_trainingStepDone_map reply hs hk hg,
    fun _ reply _ hs hk hg => exec_trainingStepDone_noLane reply hs hk hg, fun _ reply _ hs hk => exec_trainingStepDone_align reply hs hk,
    fun _ _ _ hs hk hm ha => exec_trainingStepDone_up hs hk hm ha, fun _ _ _ _ hr hb hok hw => exec_go_sends hr hb hok hw,
    fun _ _ _ _ hr hb hok hw => exec_go_waits hr hb hok hw, fun _ _ _ _ hr hb hok => exec_go_refused hr hb hok, fun n ok p d s hw => ?waits,
    fun n p d w a k s hs hf hw => ?written, fun n b d w a k s hs hf hw => ?read, fun n p d w a s hs hf hw => ?refused,
    fun n p d w a k s hs hf hw => ?retried⟩
  case waits =>
    show Host.Outcome.next (if s.serving then s.setupFrameDone n ok p d else s) = _
    rw [setupFrameDone_waits ok p d hw, ite_self]
  case written =>
    obtain ⟨busy, result, event, frame, -⟩ := setupEnd_facts s n.val 0 (by decide)
    exact ⟨_, exec_setupFrameDone_good d hs hw hf rfl, busy, result, event, frame⟩
  case read =>
    obtain ⟨busy, result, event, frame, beside⟩ := setupEnd_facts (s.put (Reg.STN_SB_DATA_DATA n.val) d.toNat) n.val 0 (by decide)
    refine ⟨_, exec_setupFrameDone_good d hs hw hf rfl, busy, result, ?_, event, frame⟩
    refine (beside _ (by show 0x869 + 0x80 * n.val ≠ _; omega) (by show 0x869 + 0x80 * n.val ≠ _; omega)).trans ?_
    exact State.get_put_same _ _ _ (lt_rfl rfl) d.isLt
  case refused =>
    obtain ⟨busy, result, -, frame, -⟩ := setupEnd_facts s n.val 1 (by decide)
    exact ⟨_, exec_setupFrameDone_fails d hs hw hf rfl, busy, result, frame⟩
  case retried => exact ⟨_, exec_setupFrameDone_retries d hs hw hf rfl, rfl, congrArg Stn.frame (State.stn_setStn_same _ _ _), rfl⟩

end Sys2Proof.Machine

namespace Sys2Proof.Machine
open Sys2Proof

/-! LEDGER_OPEN, LEDGER_STAGE and the writes of hot Keep words (R267, R269, R270, R272, R300, R305): O15 -/

/-- Neither the upsets that a descriptor meets nor its staged data touch the clock or a store's wave. -/
theorem begun_stamp_ledHeld (s : State) (h : PHost) (j : Ring) (f : Flight) (ups : List Upset) (p : PadTraffic) :
    (s.begun h j f ups p).stamp = s.stamp ∧ (s.begun h j f ups p).ledHeld = s.ledHeld :=
  ⟨(flightUpsets_keeps State.stamp (fun _ _ _ => rfl) ((s.advanceHead h j).padWrites p) f ups).trans
      ((padWrites_yields (s.advanceHead h j) p).field State.stamp (by intros; rfl)),
    (flightUpsets_keeps State.ledHeld (fun _ _ _ => rfl) ((s.advanceHead h j).padWrites p) f ups).trans
      ((padWrites_yields (s.advanceHead h j) p).field State.ledHeld (by intros; rfl))⟩

theorem advance_ledgerOpen {s : State} {i : Nat} {f : Flight} (h : s.Goes i f) (ho : f.op = .ledgerOpen) : s.advance i = s.doOpen i f := by
  unfold State.advance
  rw [h.here]
  simp [h.compl, h.committed, h.lost, h.calm, ho]

theorem advance_ledgerStage {s : State} {i : Nat} {f : Flight} (h : s.Goes i f) (ho : f.op = .ledgerStage) : s.advance i = s.doStage i f := by
  unfold State.advance
  rw [h.here]
  simp [h.compl, h.committed, h.lost, h.calm, ho]

/-- NEXT rests on its two registers, which no ring's status is (R270). -/
theorem ledNext_congr {s t : State} (h : ∀ a, notRing a → t.reg a = s.reg a) : t.ledNext = s.ledNext := by
  unfold State.ledNext State.get
  rw [h _ (low_notRing Reg.LED_NEXT_LO.addr (.inr (by decide)) (by decide)), h _ (low_notRing Reg.LED_NEXT_HI_NEXT_HI.addr (.inr (by decide)) (by decide))]

/-- LEDGER_OPEN of a sheet with no open record (R267, R270). -/
theorem exec_ledgerOpen_alone {h : PHost} {j q : Ring} {d : Desc} {p : PadTraffic} {s b : State} {r : Nat} (ha : s.Accepts h j q .ledgerOpen d)
    (hp : padLost p = none) (hb : b = s.begun h j (newFlight h j .ledgerOpen d) p.ups p) (hfree : b.ledHeld = false)
    (hnone : b.openHolder d.sheet = none) (hroom : b.openRecords.length < 65536) (hr : b.freeIndex 1048576 b.ledNext = some r) :
    ∃ t, exec (.ledgerOpen h j d p) s = .next t ∧
      s.Completes t h j q d { status := Status.done, result := BitVec.ofNat 64 s.stamp, aux := BitVec.ofNat 32 r } ∧
      t.w18s (recAddr r) 8 =
        ({ sheet := d.sheet, job := bits d.d1.toNat 35 0, stage := 1, mask := bits d.p0.toNat 7 0, cause := 0, time := s.stamp } : Rec).words ∧
      t.ledNext = (r + 1) % 1048576 := by
  have hlt : r < 1048576 := freeIndex_lt b _ _ _ (ledNext_lt b) hr
  have now : b.stamp = s.stamp := by rw [hb]; exact (begun_stamp_ledHeld ..).1
  have hgo := begun_goes ha p.ups p
  rw [← hb] at hgo
  have hdo := (advance_ledgerOpen hgo rfl).trans (doOpen_done b (newFlight h j .ledgerOpen d) r (blocked_zero _ _) hfree hnone hroom hr)
  obtain ⟨quiet, words, next⟩ := opened_facts (b.meetRec r) r
    { sheet := d.sheet, job := bits d.d1.toNat 35 0, stage := 1, mask := bits d.p0.toNat 7 0, cause := 0, time := b.stamp } hlt
  obtain ⟨t, ht, hc, -, rest, regs⟩ := local_quiet ha rfl p.ups p (.inl ⟨rfl, hp⟩) b _ _ hb ((Quiet.meetRec b r).trans' quiet) hdo
  rw [← now]
  exact ⟨t, congrArg _ ht, hc, (recWords_congr _ t (rest_arr rest) (rest_phys63 rest) r hlt).trans words, (ledNext_congr regs).trans next⟩

/-- LEDGER_STAGE of a stamp that Table 10-3 allows on the newest record of its sheet. -/
theorem doStage_stamps {s s1 : State} {i : Nat} {f : Flight} {r : Nat} (hb : s.blocked i f = false) (hfree : s.ledHeld = false)
    (hr : s.newest f.d.sheet = some r) (hs : (s.meetRec r).stageStamp r (bits f.d.p0.toNat 5 0) (bits f.d.p0.toNat 15 8) = some s1) :
    s.doStage i f = s1.fixFlight i
      { status := if (s1.record r).spoiled then Status.spoiled else Status.done, result := (s1.record r).result, aux := BitVec.ofNat 32 r } := by
  unfold State.doStage
  rw [hb, if_neg (by decide), hfree, if_neg (by decide), hr]
  dsimp only
  rw [hs]

/-- LEDGER_STAGE (R269, R272), after the errors of its record are met (log entry 124). -/
theorem exec_ledgerStage_alone {h : PHost} {j q : Ring} {d : Desc} {p : PadTraffic} {s b s1 : State} {r : Nat} (ha : s.Accepts h j q .ledgerStage d)
    (hp : padLost p = none) (hfree : s.ledHeld = false) (hb : b = s.begun h j (newFlight h j .ledgerStage d) p.ups p)
    (hr : b.newest d.sheet = some r) (hs : (b.meetRec r).stageStamp r (bits d.p0.toNat 5 0) (bits d.p0.toNat 15 8) = some s1) :
    ∃ t, exec (.ledgerStage h j d p) s = .next t ∧
      s.Completes t h j q d
        { status := if (s1.record r).spoiled then Status.spoiled else Status.done, result := (s1.record r).result, aux := BitVec.ofNat 32 r } ∧
      t.rest = s1.rest ∧ ∀ a, notRing a → t.reg a = s1.reg a := by
  have free : b.ledHeld = false := by rw [hb, (begun_stamp_ledHeld ..).2]; exact hfree
  have hgo := begun_goes ha p.ups p
  rw [← hb] at hgo
  have hdo := (advance_ledgerStage hgo rfl).trans (doStage_stamps (blocked_zero _ _) free hr hs)
  obtain ⟨t, ht, hc, -, facts⟩ := local_quiet ha rfl p.ups p (.inl ⟨rfl, hp⟩) b s1 _ hb
    ((Quiet.meetRec b r).trans' (Quiet.stageStamp _ r _ _ s1 hs)) hdo
  exact ⟨t, congrArg _ ht, hc, facts⟩

/-- Hot words are all that their write changes (R300). -/
theorem writeHot_rest {s t : State} (h : t.rest = s.rest) (p : Nat) (ws : List (Nat × BitVec 16)) : (t.writeHot p ws).rest = (s.writeHot p ws).rest := by
  obtain ⟨arr, dev, stns, keep, led, rtc, pwr, clearing, store, home⟩ : t.arr = s.arr ∧ t.dev = s.dev ∧ t.stns = s.stns ∧ t.keep = s.keep ∧
      t.led = s.led ∧ t.rtc = s.rtc ∧ t.pwr = s.pwr ∧ t.clearing = s.clearing ∧ t.store = s.store ∧ t.phys63 = s.phys63 := by
    simpa [State.rest] using h
  simp [State.rest, State.writeHot, arr, dev, stns, keep, led, rtc, pwr, clearing, store, home]

/-- A KEEP_WRITE or RECORD_PUT with all of its data writes a hot page at once (R300, R305). -/
theorem keepWrite_completes {s : State} {h : PHost} {j q : Ring} {op : Opcode} {d : Desc} {data : HostData} {p : PadTraffic} {f : Flight}
    (ho : op = .keepWrite ∨ op = .recordPut) (ha : s.Accepts h j q op d) (hp : padLost p = none) (hd : s.Delivers (newFlight h j op d) data)
    (hf : f = { askedFlight h j op d with buf := data.bytes })
    (hw : op = .recordPut → s.keepWaits (Desc.pageA d) = false ∧ s.keepWaits (Desc.pageA d + 1) = false) (hhot : s.isHot (s.keepPlan f).1 = true) :
    ∃ t, s.descArrive h j op d data [] p = t ∧
      s.Completes t h j q d { status := Status.done, result := BitVec.ofNat 64 (s.keepPlan f).2.2 } ∧
      t.rest = (s.writeHot (s.keepPlan f).1 (s.keepPlan f).2.1).rest ∧ ∀ a, notRing a → t.reg a = s.reg a := by
  have reads : readsHost op = true := by rcases ho with rfl | rfl <;> rfl
  have stages : Staged op p := .inl ⟨by rcases ho with rfl | rfl <;> rfl, hp⟩
  have hn : 0 < Desc.n d := by
    have := (accepts_keep ha.2 (ho.elim (fun h => .inr (.inl h)) (fun h => .inr (.inr (.inl h))))).1
    omega
  have rest := asked_rest s h j (newFlight h j op d) ((askedFlight h j op d).receive data) p
  have hgo := asked_goes ha hd [] p
  obtain ⟨breg, -, -, -, -, bflights⟩ := asked_facts s h j (newFlight h j op d) ((askedFlight h j op d).receive data) [] p
  generalize hb : s.asked h j (newFlight h j op d) ((askedFlight h j op d).receive data) [] p = b at rest hgo breg bflights
  rw [receive_all hd, ← hf] at bflights
  rw [← hf] at hgo
  obtain ⟨plan, hot⟩ := keepPlan_congr (rest_keep rest) (rest_pwr rest) f
  obtain ⟨-, waits, -⟩ := keepReads_congr (rest_keep rest) (rest_pwr rest)
  have same : f.host = h ∧ f.sq = j ∧ f.op = op ∧ f.d = d := by rw [hf]; exact ⟨rfl, rfl, rfl, rfl⟩
  have ⟨_, _, opcode, desc⟩ := same
  have hdo := (advance_keepWrites hgo (by rw [opcode]; exact ho)).trans (doKeepWrite_hot b f (by rw [hf]; rfl) (by rw [hf]; exact hd.2.1)
    (blocked_zero _ _) (fun put => by rw [waits, waits, desc]; exact hw (opcode.symm.trans put)) (by rw [plan, hot]; exact hhot))
  rw [plan] at hdo
  obtain ⟨t, ht, hc, -, htr, hreg⟩ := host_quiet ha reads data hd hn [] p stages b (b.writeHot _ _) _ hb.symm f bflights same (Quiet.of rfl rfl rfl rfl rfl) hdo
  exact ⟨t, ht, hc, htr.trans (writeHot_rest rest _ _), fun a hna => (hreg a hna).trans (breg a (hna.1 h j).1 hna.2)⟩

/-- Settles O15: each descriptor by the one step that it takes as it arrives. -/
theorem ledgerAndKeepWrites : Obligations.LedgerAndKeepWrites := by
  refine ⟨fun _ _ _ _ _ _ _ _ ha hp hb hfree hnone hroom hr => exec_ledgerOpen_alone ha hp hb hfree hnone hroom hr,
    fun _ _ _ _ _ _ _ _ _ ha hp hfree hb hr hs => exec_ledgerStage_alone ha hp hfree hb hr hs, ?keepWrite, ?recordPut⟩
  case keepWrite =>
    intro h j q d data p s f ha hp hd hf hhot
    obtain ⟨t, ht, hc, facts⟩ := keepWrite_completes (.inl rfl) ha hp hd hf (fun put => nomatch put) hhot
    have count : (s.keepPlan f).2.2 = Desc.n d := by rw [hf]; rfl
    rw [count] at hc
    exact ⟨t, congrArg _ ht, hc, facts⟩
  case recordPut =>
    intro h j q d data p s f ha hp hd hf hwa hwb hhot
    obtain ⟨t, ht, facts⟩ := keepWrite_completes (.inr rfl) ha hp hd hf (fun _ => ⟨hwa, hwb⟩) hhot
    exact ⟨t, congrArg _ ht, facts⟩

end Sys2Proof.Machine

namespace Sys2Proof.Machine
open Sys2Proof

/-! Commands that leave the Keep array (R288, R298): O46 -/

/-- No command that Safety.lean names as leaving the Keep array has that part in its mask. -/
theorem keepsKeepArray_mask (c : Instr) : (keepsKeepArray c && (commandMask c).testBit 28) = false := by
  cases c <;> (dsimp only [commandMask]; rfl)

/-- Settles O46: part 28 of the commands' masks. -/
theorem keepArrayFrame : Obligations.KeepArrayFrame := by
  intro c s t hI h hc
  exact (exec_next hI h).frame.words (outside_of_keeps hc (keepsKeepArray_mask c))

end Sys2Proof.Machine

namespace Sys2Proof.Machine
open Sys2Proof

/-! The record rule (R303, R304): O59 -/

/-- A copy's sequence has 16 bits (R303). -/
theorem copySeq_lt (ws : List Word) : copySeq ws < 65536 := Nat.mod_lt _ (by decide)

/-- The distance of R304 from a sequence to one that is k ahead of it modulo 65,536. -/
theorem seq_ahead {a b k : Nat} (ha : a < 65536) (hk : k < 65536) (hb : b = (a + k) % 65536) : (b + 65536 - a) % 65536 = k := by omega

/-- Of two valid copies the distance of their sequences chooses (R304). -/
theorem chooseRecord_both {s : State} {p k : Nat} (ha : copyValid (s.readPage p) = true) (hb : copyValid (s.readPage (p + 1)) = true) (hk : k < 65536)
    (hs : copySeq (s.readPage (p + 1)) = (copySeq (s.readPage p) + k) % 65536) :
    s.chooseRecord p = if k = 0 then
        some ⟨false, copySeq (s.readPage p), copyPayload (s.readPage p), decide (copyPayload (s.readPage p) ≠ copyPayload (s.readPage (p + 1)))⟩
      else if k < 32768 then some ⟨true, copySeq (s.readPage (p + 1)), copyPayload (s.readPage (p + 1)), false⟩
      else some ⟨false, copySeq (s.readPage p), copyPayload (s.readPage p), false⟩ := by
  have ahead := seq_ahead (copySeq_lt _) hk hs
  simp only [State.chooseRecord, ha, hb, ahead]

/-- Settles O59: by which copies are valid, and for two valid ones by how far B is ahead of A. -/
theorem recordRule : Obligations.RecordRule := by
  intro s p
  refine ⟨fun ha hb => ?none, fun ha hb => ?onlyA, fun ha hb => ?onlyB, fun ha hb hs => ?twins, fun k ha hb h0 hk hs => ?bAhead,
    fun k ha hb hk hl hs => ?aAhead⟩
  case none | onlyA | onlyB => simp only [State.chooseRecord, ha, hb]
  case twins =>
    have same : copySeq (s.readPage (p + 1)) = (copySeq (s.readPage p) + 0) % 65536 := hs.trans (Nat.mod_eq_of_lt (copySeq_lt _)).symm
    exact (chooseRecord_both ha hb (by decide) same).trans (if_pos rfl)
  case bAhead => rw [chooseRecord_both ha hb (hk.trans (by decide)) hs, if_neg (by omega), if_pos hk]
  case aAhead => rw [chooseRecord_both ha hb hl hs, if_neg (by omega), if_neg (by omega)]

end Sys2Proof.Machine

namespace Sys2Proof.Machine
open Sys2Proof

/-! Page writes that start (R292, R295, R296, R300): O26 -/

/-- With nothing before it in the order of R296, PAGE_WRITE_START takes H0's submission. -/
theorem exec_pageWriteStart_submission {s : State} {p : Nat} (ha : s.keepAlive = true) (hb : s.keepBusy = false) (hs : s.spillReady = false)
    (hd : s.flag Reg.LED_KEEP_STAT_DUE = false) (hf : s.keep.flush = []) (hp : s.submitPage = some p) :
    exec .pageWriteStart s = .next (s.submitStart p) := by
  have starts : s.keepAlive ∧ !s.keepBusy := by simp [ha, hb]
  have next : s.pageNext = s.submitStart p := by simp [State.pageNext, hs, hd, hf, hp]
  exact congrArg _ ((if_pos starts).trans next)

/-- A submission whose page is served from hub-die memory by now starts no page write (R300). -/
theorem submitStart_hot_run {s : State} {p : Nat} (h : s.isHot p = true) : (s.submitStart p).keep.run = s.keep.run := by
  rw [State.submitStart, if_pos h]
  rfl

/-- In RUN with page 200 hot, H0's page buffer holds one word for that page and is submitted. -/
def hotSubmission : State :=
  { pwr := { st := .run }, keep := { hotRange := (200, 1), buf := [(0, 7)], bufPage := some 200, submitted := true } }

/-- Refutes O26: its first clause leaves out that the submitted page is not in the hot range. The page of `hotSubmission` is hot, so by
R300 its words go to hub-die memory at once and no page write runs after PAGE_WRITE_START. -/
theorem not_keepPageWrites : ¬ Obligations.KeepPageWrites := by
  rintro ⟨start, -⟩
  have alive : hotSubmission.keepAlive = true := by decide
  have idle : hotSubmission.keepBusy = false := by decide
  have noSpill : hotSubmission.spillReady = false := by decide
  have noCopy : hotSubmission.flag Reg.LED_KEEP_STAT_DUE = false := by decide
  have page : hotSubmission.submitPage = some 200 := by decide
  have hot : hotSubmission.isHot 200 = true := by decide
  obtain ⟨t, r, ht, hr, -⟩ := start hotSubmission 200 alive idle noSpill noCopy rfl page (by decide) (by decide)
  rw [exec_pageWriteStart_submission alive idle noSpill noCopy rfl page] at ht
  cases ht
  rw [submitStart_hot_run hot] at hr
  cases hr

end Sys2Proof.Machine

namespace Sys2Proof.Machine
open Sys2Proof

/-! Addresses that no register table lists (R21): O29 -/

/-- An unlisted address is none of the listed ones. -/
theorem ne_of_unlisted {a b : Nat} (h : fieldsAt a = []) (hb : fieldsAt b ≠ []) : a ≠ b := fun e => hb (e ▸ h)

/-! The tables list the time block, each possession register and each PART_RIGHTS register. -/

theorem listed_rtc : ∀ k, k < 6 → fieldsAt (0x200 + k) ≠ [] := by decide
theorem listed_poss : ∀ k, k < 32 → fieldsAt (0x380 + k) ≠ [] := by decide
theorem listed_partRights : ∀ k, k < 63 → fieldsAt (0x4C0 + k) ≠ [] := by decide

/-- An unlisted address lies outside a block of n listed ones. -/
theorem outside_of_unlisted {a base n : Nat} (h : fieldsAt a = []) (hl : ∀ k, k < n → fieldsAt (base + k) ≠ []) : ¬(base ≤ a ∧ a < base + n) := by
  rintro ⟨low, high⟩
  exact ne_of_unlisted h (hl (a - base) (by omega)) (by omega)

/-- Two addresses with one canonical address have the same fields. -/
theorem fieldsAt_canon {a b : Nat} (h : canonAddr a = canonAddr b) : fieldsAt a = fieldsAt b := by
  unfold fieldsAt
  rw [h]

/-- A mailbox channel lists the register at place k, but BIND, as channel 0 does (R321). -/
theorem fieldsAt_mailbox {a k : Nat} (h1 : 0x300 ≤ a) (h2 : a < 0x380) (hk : a % 0x10 = k) (h8 : k ≠ 8) : fieldsAt a = fieldsAt (0x300 + k) := by
  refine fieldsAt_canon ?_
  simp only [canonAddr]
  split_ifs <;> omega

/-- A station's window lists the register at place k as station 0's does (R240, R266). -/
theorem fieldsAt_station {a k : Nat} (h1 : 0x800 ≤ a) (h2 : a < 0xC00) (hk : (a - 0x800) % 0x80 = k) : fieldsAt a = fieldsAt (0x800 + k) := by
  refine fieldsAt_canon ?_
  simp only [canonAddr]
  split_ifs <;> omega

/-- An unlisted address of a mailbox channel is not at a listed place. -/
theorem mailbox_place_ne {a k : Nat} (h : fieldsAt a = []) (h1 : 0x300 ≤ a) (h2 : a < 0x380) (h8 : k ≠ 8) (hk : fieldsAt (0x300 + k) ≠ []) :
    a % 0x10 ≠ k := fun e => hk ((fieldsAt_mailbox h1 h2 e h8).symm.trans h)

/-- An unlisted address of a station's window is not at a listed place. -/
theorem station_place_ne {a k : Nat} (h : fieldsAt a = []) (h1 : 0x800 ≤ a) (h2 : a < 0xC00) (hk : fieldsAt (0x800 + k) ≠ []) :
    (a - 0x800) % 0x80 ≠ k := fun e => hk ((fieldsAt_station h1 h2 e).symm.trans h)

/-! What an unlisted address shows: no live field lies at it. -/

section Unlisted
variable {a : Nat} (h : fieldsAt a = [])
include h

theorem readMask_unlisted : readMask a = 0 := by
  unfold readMask
  rw [h]
  rfl

theorem liveUmber_unlisted (s : State) (w : Word) : s.liveUmber a w = w := by
  simp (disch := decide) only [State.liveUmber, ne_of_unlisted h, if_false]

theorem liveArray_unlisted (s : State) (w : Word) : s.liveArray a w = w := by
  simp (disch := decide) only [State.liveArray, if_neg (outside_of_unlisted h listed_partRights), ne_of_unlisted h, if_false]

theorem liveLedger_unlisted (s : State) (w : Word) : s.liveLedger a w = w := by
  simp (disch := decide) only [State.liveLedger, ne_of_unlisted h, if_false]

theorem liveUpkeep_unlisted (s : State) (w : Word) : s.liveUpkeep a w = w := by
  simp (disch := decide) only [State.liveUpkeep, ne_of_unlisted h, if_false]

theorem liveMailbox_unlisted (s : State) (h1 : 0x300 ≤ a) : s.liveMailbox a 0 = 0 := by
  have notStat : ¬(a < 0x380 ∧ a % 0x10 = 6) := fun e => mailbox_place_ne h h1 e.1 (by decide) (by decide) e.2
  unfold State.liveMailbox
  rw [if_neg notStat, if_neg (ne_of_unlisted h (by decide)), if_neg (ne_of_unlisted h (by decide))]
  exact ite_self _

theorem liveStn_unlisted (s : State) (h1 : 0x800 ≤ a) (h2 : a < 0xC00) : s.liveStn a 0 = 0 := by
  unfold State.liveStn
  dsimp only
  rw [if_neg (station_place_ne h h1 h2 (by decide)), if_neg (station_place_ne h h1 h2 (by decide)),
    if_neg (station_place_ne h h1 h2 (by decide))]
  exact ite_self _

/-- The words of a host's own block lie at place 0x40 and on; those before it are all listed. -/
theorem hostReg_unlisted {g : PHost} {k : Nat} (hg : hostReg a = some (g, k)) : k ≠ 0 ∧ k ≠ 0x14 := by
  have link : ¬(0x700 ≤ a ∧ a < 0x700 + 4) := outside_of_unlisted h (by decide)
  have cut : ¬(0x714 ≤ a ∧ a < 0x714 + 4) := outside_of_unlisted h (by decide)
  unfold hostReg at hg
  split_ifs at hg
  all_goals
    obtain ⟨_, -, e⟩ := Option.map_eq_some_iff.mp hg
    obtain ⟨-, rfl⟩ := Prod.mk.inj e
    omega

theorem liveHost_unlisted (s : State) : s.liveHost a 0 = 0 := by
  unfold State.liveHost
  split
  · rfl
  · next g k hg =>
    obtain ⟨notLink, notCut⟩ := hostReg_unlisted h hg
    rw [if_neg notLink, if_neg notCut]
    exact ite_self _

/-- An unlisted address reads 0 (R21). -/
theorem shown_unlisted (s : State) (x : Sender) : s.shown x a = 0 := by
  have masked : s.reg a &&& readMask a = 0 := by rw [readMask_unlisted h]; exact BitVec.and_zero
  unfold State.shown
  rw [masked]
  dsimp only
  split
  case h_1 | h_2 => exact liveUmber_unlisted h s 0
  case h_3 => rw [liveUmber_unlisted h s 0]; exact ite_self _
  case h_4 => exact liveMailbox_unlisted h s (by omega)
  case h_5 | h_6 => exact liveArray_unlisted h s 0
  case h_7 => exact liveHost_unlisted h s
  case h_8 | h_9 | h_10 | h_11 => exact liveStn_unlisted h s (by omega) (by omega)
  case h_12 => exact liveLedger_unlisted h s 0
  case h_13 | h_14 => exact liveUpkeep_unlisted h s 0
  case h_15 => rfl

/-- A read of an unlisted address has no effect and gives 0 (R21). -/
theorem readReg_unlisted (s : State) (x : Sender) : s.readReg x a = (s, 0) := by
  have time : ¬(0x200 ≤ a ∧ a ≤ 0x205) := fun e => outside_of_unlisted h listed_rtc ⟨e.1, by omega⟩
  have popA : ¬(0x300 ≤ a ∧ a < 0x380 ∧ a % 0x10 = 2) := fun ⟨e1, e2, e3⟩ => mailbox_place_ne h e1 e2 (by decide) (by decide) e3
  have popB : ¬(0x300 ≤ a ∧ a < 0x380 ∧ a % 0x10 = 3) := fun ⟨e1, e2, e3⟩ => mailbox_place_ne h e1 e2 (by decide) (by decide) e3
  have poss : ¬(0x380 ≤ a ∧ a < 0x3A0) := outside_of_unlisted h listed_poss
  have latch : ¬(0x800 ≤ a ∧ a < 0xC00 ∧ a % 0x80 = 0x49 ∧ s.stnEnabled ((a - 0x800) / 0x80)) := fun ⟨e1, e2, e3, _⟩ =>
    station_place_ne h e1 e2 (k := 0x49) (by decide) (by omega)
  unfold State.readReg
  rw [if_neg time, if_neg (ne_of_unlisted h (by decide)), if_neg popA, if_neg popB, if_neg poss, if_neg latch, shown_unlisted h]

/-- No Keep data register lies at an unlisted address, so a frame at it is never answered BUSY (R294). -/
theorem frameBusy_unlisted (s : State) (write : Bool) (v : Word) : s.frameBusy a write v = false := by
  simp (disch := decide) only [State.frameBusy, ne_of_unlisted h, if_false]

/-- A frame at an unlisted address is taken (log entry 85). -/
theorem frameAllowed_unlisted (s : State) (write : Bool) : s.frameAllowed a write = true := by
  simp [State.frameAllowed, reservedAddr, h]

end Unlisted

end Sys2Proof.Machine

namespace Sys2Proof.Machine
open Sys2Proof

/-! The M-port's frames (R337 to R344): O29 -/

/-- The bits of Table 14-1 in the number that a frame shifts out. -/
theorem frameBits {x st addr d : Nat} {busy valid rej : Bool} (hst : st < 8) (ha : addr < 2 ^ 14) (hd : d < 2 ^ 18)
    (hx : x = (2 * 2 ^ 6 + b2n busy * 2 ^ 5 + b2n valid * 2 ^ 4 + b2n rej * 2 ^ 3 + st) * 2 ^ 32 + addr * 2 ^ 18 + d) :
    x / 2 ^ 38 = 2 ∧ bit x 37 = busy ∧ bit x 36 = valid ∧ bit x 35 = rej ∧ bits x 34 32 = st ∧ bits x 31 18 = addr ∧ bits x 17 0 = d := by
  have hb := b2n_lt busy
  have hv := b2n_lt valid
  have hr := b2n_lt rej
  refine ⟨by omega, bit_of_b2n (by omega), bit_of_b2n (by omega), bit_of_b2n (by omega), ?_, ?_, ?_⟩ <;> unfold bits
  · omega
  · omega
  · rw [Nat.pow_zero, Nat.div_one]
    omega

theorem PState.code_lt (p : PState) : p.code < 8 := by cases p <;> decide

/-- The 40 bits as a number: none is cut off. -/
theorem misoFrame_toNat (s : State) (g : FrameStart) {st : Nat} {busy : Bool} (hst : st < 8) (ha : s.mport.prevAddr < 2 ^ 14)
    (hb : s.statusByte g.fell (s.validData g.gap).isSome =
      2 * 2 ^ 6 + b2n busy * 2 ^ 5 + b2n (s.validData g.gap).isSome * 2 ^ 4 + b2n s.mport.prevRej * 2 ^ 3 + st) :
    (s.misoFrame g).toNat = (2 * 2 ^ 6 + b2n busy * 2 ^ 5 + b2n (s.validData g.gap).isSome * 2 ^ 4 + b2n s.mport.prevRej * 2 ^ 3 + st) * 2 ^ 32 +
      s.mport.prevAddr * 2 ^ 18 + ((s.validData g.gap).getD 0#18).toNat := by
  have h1 := b2n_lt busy
  have h2 := b2n_lt (s.validData g.gap).isSome
  have h3 := b2n_lt s.mport.prevRej
  have h4 := ((s.validData g.gap).getD 0#18).isLt
  unfold State.misoFrame
  dsimp only
  rw [hb, BitVec.toNat_ofNat, Nat.mod_eq_of_lt (by omega)]

/-- STATE and BUSY as they stood when MSS_N fell (R340). -/
theorem misoFrame_bits (s : State) (g : FrameStart) (ha : s.mport.prevAddr < 2 ^ 14) :
    (s.misoFrame g).toNat / 2 ^ 38 = 2 ∧ bit (s.misoFrame g).toNat 37 = (match g.fell with | some f => f.2 | none => s.keepBusy) ∧
      bit (s.misoFrame g).toNat 36 = (s.validData g.gap).isSome ∧ bit (s.misoFrame g).toNat 35 = s.mport.prevRej ∧
      bits (s.misoFrame g).toNat 34 32 = (match g.fell with | some f => f.1.toNat | none => s.pwr.st.code) ∧
      bits (s.misoFrame g).toNat 31 18 = s.mport.prevAddr ∧ bits (s.misoFrame g).toNat 17 0 = ((s.validData g.gap).getD 0).toNat := by
  obtain ⟨gap, fell⟩ := g
  cases fell with
  | none => exact frameBits s.pwr.st.code_lt ha (BitVec.isLt _) (misoFrame_toNat s ⟨gap, none⟩ s.pwr.st.code_lt ha rfl)
  | some f => exact frameBits f.1.isLt ha (BitVec.isLt _) (misoFrame_toNat s ⟨gap, some f⟩ f.1.isLt ha rfl)

/-! A live port runs each frame after it has shifted its bits out; what decides on the frame is, by definition, as it was before. -/

theorem exec_mportWrite_live {s : State} (g : FrameStart) (a : BitVec 12) (v : Word) (hl : s.mportLive = true) :
    exec (.mportWrite g a v) s = .next ((s.shiftOut g).frameWrite a.toNat v) := congrArg _ (if_pos hl)

theorem exec_mportRead_live {s : State} (g : FrameStart) (a : BitVec 12) (hl : s.mportLive = true) :
    exec (.mportRead g a) s = .next ((s.shiftOut g).frameRead a.toNat) := congrArg _ (if_pos hl)

/-- What a WRITE frame does by Table 14-5 and R294. -/
theorem frameWrite_taken {s : State} {a : Nat} {v : Word} (ha : s.frameAllowed a true = true) (hb : s.frameBusy a true v = false) :
    s.frameWrite a v = (s.writeReg 0#4 a v).frameEnd a none false := by simp [State.frameWrite, ha, hb]

theorem frameWrite_refused {s : State} {a : Nat} (v : Word) (ha : s.frameAllowed a true = false) :
    s.frameWrite a v = s.frameRefuse reasonState a := by simp [State.frameWrite, ha]

/-- What a READ frame does by Table 14-5 and R294. -/
theorem frameRead_taken {s : State} {a : Nat} (ha : s.frameAllowed a false = true) (hb : s.frameBusy a false 0#18 = false) :
    s.frameRead a = (s.readReg 0#4 a).1.frameEnd a (some (s.readReg 0#4 a).2) false := by simp [State.frameRead, ha, hb]

theorem frameRead_busy {s : State} {a : Nat} (ha : s.frameAllowed a false = true) (hb : s.frameBusy a false 0#18 = true) :
    s.frameRead a = s.frameRefuse reasonBusy a := by simp [State.frameRead, ha, hb]

/-- Outside VOLLEY a register that the port reaches takes a frame (Table 14-5). -/
theorem frameAllowed_reached {s : State} {a : Nat} {write : Bool} (hr : s.mportReaches a write = true) (hv : s.pwr.st ≠ .volley) :
    s.frameAllowed a write = true := by simp [State.frameAllowed, hr, hv]

/-- In VOLLEY no listed register takes a WRITE (Table 14-5). -/
theorem frameAllowed_volley {s : State} {a : Nat} (hv : s.pwr.st = .volley) (ha : fieldsAt a ≠ []) : s.frameAllowed a true = false := by
  simp [State.frameAllowed, reservedAddr, State.mportReaches, hv, ha]

/-- A refusal gives REASON and ADDR, leaves every other register, and shows in the next frame (R340, R341). -/
theorem frameRefuse_facts (s : State) {reason addr : Nat} (hr : reason < 8) (ha : addr < 2 ^ 14) :
    (s.frameRefuse reason addr).get Reg.ID_MPORT_REASON = reason ∧ (s.frameRefuse reason addr).get Reg.ID_MPORT_ADDR = addr ∧
      (s.frameRefuse reason addr).mport = { prevAddr := addr, prevRead := none, prevRej := true } ∧
      ∀ b, b ≠ Reg.ID_MPORT.addr → (s.frameRefuse reason addr).reg b = s.reg b := by
  have hget : ∀ f, (s.frameRefuse reason addr).get f = ((s.put Reg.ID_MPORT_REASON reason).put Reg.ID_MPORT_ADDR addr).get f := fun _ => rfl
  refine ⟨?_, ?_, rfl, fun b hb => ?_⟩
  · rw [hget, State.get_put_apart _ _ (by decide) (by decide), State.get_put_same _ _ _ (by decide) hr]
  · rw [hget, State.get_put_same _ _ _ (by decide) ha]
  · exact (State.reg_put_ne _ (f := Reg.ID_MPORT_ADDR) _ hb).trans (State.reg_put_ne _ (f := Reg.ID_MPORT_REASON) _ hb)

/-- A refused frame of a 12-bit address, as the obligation words it. -/
theorem frameRefuse_at (s : State) {reason : Nat} (a : BitVec 12) (hr : reason < 8) :
    (s.frameRefuse reason a.toNat).get Reg.ID_MPORT_REASON = reason ∧ (s.frameRefuse reason a.toNat).get Reg.ID_MPORT_ADDR = a.toNat ∧
      (s.frameRefuse reason a.toNat).mport.prevRej = true ∧ (s.frameRefuse reason a.toNat).mport.prevRead = none ∧
      ∀ b, b ≠ Reg.ID_MPORT.addr → (s.frameRefuse reason a.toNat).reg b = s.reg b := by
  obtain ⟨hreason, haddr, hport, hregs⟩ := frameRefuse_facts s hr (a.isLt.trans (by decide))
  exact ⟨hreason, haddr, by rw [hport], by rw [hport], hregs⟩

/-- A WRITE frame that is taken is H0's register write (R341, R344). -/
theorem exec_mportWrite_taken {s : State} (g : FrameStart) {a : BitVec 12} {v : Word} (hl : s.mportLive = true)
    (hr : s.mportReaches a.toNat true = true) (hb : s.frameBusy a.toNat true v = false) (hv : s.pwr.st ≠ .volley) :
    ∃ u : State, exec (.registerWrite 0 (.reg a) (.word v)) (s.shiftOut g) = .next u ∧
      exec (.mportWrite g a v) s = .next (u.frameEnd a.toNat none false) := by
  have reached : (s.shiftOut g).reaches 0 a.toNat true = true := (congrArg₂ (· && ·) hl hr : (s.mportLive && s.mportReaches a.toNat true) = _)
  exact ⟨_, exec_registerWrite_reached v reached rfl,
    (exec_mportWrite_live g a v hl).trans (congrArg _ (frameWrite_taken (s := s.shiftOut g) (frameAllowed_reached hr hv) hb))⟩

/-- A READ frame that is taken samples the register with the read's side effects (R343). -/
theorem exec_mportRead_taken {s : State} (g : FrameStart) {a : BitVec 12} (hl : s.mportLive = true) (ha : s.frameAllowed a.toNat false = true)
    (hb : s.frameBusy a.toNat false 0 = false) : exec (.mportRead g a) s =
      .next (((s.shiftOut g).readReg 0 a.toNat).1.frameEnd a.toNat (some ((s.shiftOut g).readReg 0 a.toNat).2) false) :=
  (exec_mportRead_live g a hl).trans (congrArg _ (frameRead_taken (s := s.shiftOut g) ha hb))

/-- The REASON of a frame that is no frame of Table 14-2: its opcode, or else its address (R339). -/
theorem exec_frameRefused_live {s : State} (g : FrameStart) {o : Byte} {a : BitVec 14} (hl : s.mportLive = true)
    (h : (o ≠ 0x00 ∧ o ≠ 0x02 ∧ o ≠ 0x03) ∨ 4096 ≤ a.toNat) : exec (.frameRefused g o a) s =
      .next ((s.shiftOut g).frameRefuse (if o ≠ 0x00 ∧ o ≠ 0x02 ∧ o ≠ 0x03 then 1 else 2) a.toNat) := by
  have bad : ¬((o = 0x00 ∨ o = 0x02 ∨ o = 0x03) ∧ a.toNat < 4096) := by
    rintro ⟨hop, haddr⟩
    rcases h with ⟨h0, h2, h3⟩ | h
    · rcases hop with e | e | e
      exacts [h0 e, h2 e, h3 e]
    · omega
  have refused : (s.shiftOut g).frameBad o a = (s.shiftOut g).frameRefuse (if o ≠ 0x00 ∧ o ≠ 0x02 ∧ o ≠ 0x03 then 1 else 2) a.toNat := by
    unfold State.frameBad
    by_cases hop : o ≠ 0x00#8 ∧ o ≠ 0x02#8 ∧ o ≠ 0x03#8
    · exact (if_pos hop).trans (congrArg ((s.shiftOut g).frameRefuse · a.toNat) (if_pos hop).symm)
    · refine (if_neg hop).trans ((if_pos (h.resolve_left hop)).trans ?_)
      exact congrArg ((s.shiftOut g).frameRefuse · a.toNat) (if_neg hop).symm
  exact congrArg _ ((if_pos hl).trans ((if_neg bad).trans refused))

end Sys2Proof.Machine

namespace Sys2Proof.Machine
open Sys2Proof

/-! The TAPs' scans (R346, R347): O29 -/

/-- A register of w + 1 bits after one shift: the new bit on top, every other bit one place down. -/
theorem bit_shiftIn {w r i : Nat} (b : Bool) (hr : r < 2 ^ (w + 1)) (hi : i < w + 1) :
    bit (r / 2 + b2n b * 2 ^ w) i = if i = w then b else bit r (i + 1) := by
  have half : r / 2 < 2 ^ w := by rw [Nat.pow_succ] at hr; omega
  rw [bit_eq, Nat.add_comm, Nat.mul_comm, Nat.testBit_two_pow_mul_add _ half]
  by_cases top : i = w
  · subst top
    rw [if_neg (Nat.lt_irrefl i), if_pos rfl, Nat.sub_self]
    cases b <;> decide
  · rw [if_pos (by omega), if_neg top, bit_eq, Nat.testBit_add_one]

/-- A shift keeps the register's width. -/
theorem shiftIn_lt {w r : Nat} (b : Bool) (hr : r < 2 ^ (w + 1)) : r / 2 + b2n b * 2 ^ w < 2 ^ (w + 1) := by
  have hb := b2n_lt b
  have top : b2n b * 2 ^ w ≤ 1 * 2 ^ w := Nat.mul_le_mul_right _ (by omega)
  rw [Nat.pow_succ] at hr ⊢
  omega

/-- As many bits as the register holds, or fewer, leave it in their order. -/
theorem shiftBits_out {w : Nat} (bs : List Bool) : ∀ r : Nat, r < 2 ^ (w + 1) → bs.length ≤ w + 1 →
    (shiftBits (w + 1) bs r).2 = (List.range bs.length).map (bit r) := by
  induction bs with
  | nil => exact fun _ _ _ => rfl
  | cons b bs ih =>
    intro r hr hn
    rw [List.length_cons] at hn
    have rest := ih _ (shiftIn_lt b hr) (by omega)
    rw [List.length_cons, List.range_succ_eq_map, List.map_cons, List.map_map]
    refine congrArg (bit r 0 :: ·) (rest.trans (List.map_congr_left fun k hk => ?_))
    have hk := List.mem_range.mp hk
    rw [bit_shiftIn b hr (by omega), if_neg (by omega)]
    rfl

/-- The register then holds the bits shifted in above what is left of its own. -/
theorem shiftBits_held {w : Nat} (bs : List Bool) : ∀ r i : Nat, r < 2 ^ (w + 1) → i < w + 1 → bs.length ≤ w + 1 →
    bit (shiftBits (w + 1) bs r).1 i = if i + bs.length < w + 1 then bit r (i + bs.length) else bs.getD (i + bs.length - (w + 1)) false := by
  induction bs with
  | nil =>
    intro r i _ hi _
    exact (if_pos hi).symm
  | cons b bs ih =>
    intro r i hr hi hn
    rw [List.length_cons] at hn ⊢
    refine (ih _ i (shiftIn_lt b hr) hi (by omega)).trans ?_
    rcases Nat.lt_trichotomy (i + bs.length) w with below | here | above
    · rw [if_pos (by omega), if_pos (by omega), bit_shiftIn b hr (by omega), if_neg (by omega)]
      rfl
    · rw [if_pos (by omega), if_neg (by omega), bit_shiftIn b hr (by omega), if_pos here, show i + (bs.length + 1) - (w + 1) = 0 by omega]
      rfl
    · rw [if_neg (by omega), if_neg (by omega), show i + (bs.length + 1) - (w + 1) = i + bs.length - (w + 1) + 1 by omega]
      rfl

/-- 56 bits through Umber's boundary register replace its cells (log entry 86). -/
theorem shiftBits_umber {shift : List Bool} {r : Nat} (hn : shift.length = 56) (hr : r < 2 ^ 56) :
    (shiftBits 56 shift r).2 = (List.range 56).map (bit r) ∧ ∀ i, i < 56 → bit (shiftBits 56 shift r).1 i = shift.getD i false := by
  refine ⟨?_, fun i hi => ?_⟩
  · rw [← hn]
    exact hn ▸ shiftBits_out (w := 55) shift r hr hn.le
  · refine (shiftBits_held (w := 55) shift r i hr hi hn.le).trans ?_
    rw [if_neg (by omega), hn, Nat.add_sub_cancel]

/-- A boundary scan of the Umber TAP under SAMPLE_PRELOAD. -/
theorem tapScan_sample {s : State} (levels : Nat) (shift : List Bool) (hl : s.tapLive true = true) (hi : s.fw.tapUmber = .samplePreload) :
    s.tapScan true levels shift = { s with
      fw := { s.fw with bndUmber := BitVec.ofNat 56 (shiftBits 56 shift (s.bndCapture true levels)).1 }
      out := s.out ++ [.tdo true (shiftBits 56 shift (s.bndCapture true levels)).2] } := by
  have selects : selectsBoundary (s.tapInstr true) = true := by simp [State.tapInstr, hl, hi, selectsBoundary]
  exact if_pos selects

/-- Settles O29: each frame by what Table 14-5 and R294 allow, and each TAP operation by itself. -/
theorem managementPort : Obligations.ManagementPort := by
  refine ⟨fun g a s hl => congrArg _ (if_pos hl), fun g s ha => misoFrame_bits s g ha, ?valid, fun g a v s hl hr hb hv => exec_mportWrite_taken g hl hr hb hv,
    fun g a s hl ha hb => exec_mportRead_taken g hl ha hb, ?unlisted, ?volley, ?busy, ?refused, fun e s hl he => congrArg _ (if_pos ⟨hl, he⟩), ?load,
    ?testReset, ?scan, fun shift r hn hr => shiftBits_umber hn hr⟩
  case valid =>
    intro gap v s h
    unfold State.validData validAfter
    rw [h]
  case unlisted =>
    intro g a s hl ha
    have taken := exec_mportRead_taken g hl (frameAllowed_unlisted ha s false) (frameBusy_unlisted ha s false 0)
    rw [readReg_unlisted ha] at taken
    exact ⟨_, taken, rfl, rfl⟩
  case volley =>
    intro g a v s hl hv ha
    have refused := frameWrite_refused (s := s.shiftOut g) v (frameAllowed_volley hv ha)
    exact ⟨_, (exec_mportWrite_live g a v hl).trans (congrArg _ refused), frameRefuse_at (s.shiftOut g) a (by decide)⟩
  case busy =>
    intro g a s hl ha hb
    have refused := frameRead_busy (s := s.shiftOut g) ha hb
    exact ⟨_, (exec_mportRead_live g a hl).trans (congrArg _ refused), frameRefuse_at (s.shiftOut g) a (by decide)⟩
  case refused =>
    intro g o a s hl h
    have small : (if o ≠ 0x00 ∧ o ≠ 0x02 ∧ o ≠ 0x03 then 1 else 2) < 8 := by split_ifs <;> decide
    obtain ⟨hreason, haddr, hport, hregs⟩ := frameRefuse_facts (s.shiftOut g) small a.isLt
    exact ⟨_, exec_frameRefused_live g hl h, hreason, haddr, by rw [hport], by rw [hport], by rw [hport], hregs⟩
  case load =>
    intro u c s hl
    cases u <;> exact congrArg _ (if_pos hl)
  case testReset =>
    intro u s hl
    cases u <;> exact congrArg _ (if_pos hl)
  case scan => exact fun levels shift s hl hi => congrArg _ ((if_pos hl).trans (tapScan_sample levels shift hl hi))

end Sys2Proof.Machine

namespace Sys2Proof.Machine
open Sys2Proof

/-! The step and the queue (log entry 13), and the invariant at reset (R350): O40, O41, O43 -/

/-- Settles O40: the step's own equation for a queue with a command in front. -/
theorem frontCommandRuns : Obligations.FrontCommandRuns := fun _ _ _ => step_front

/-- Settles O41: the step's own equation for an empty queue. -/
theorem emptyQueueIdles : Obligations.EmptyQueueIdles := by
  intro s h
  unfold step
  rw [h]

/-- Settles O43: at reset every store is empty, and an empty register file reads the reset values. -/
theorem resetInvariant : Obligations.ResetInvariant := ⟨rfl, fun _ _ => rfl⟩

end Sys2Proof.Machine

namespace Sys2Proof.Machine
open Sys2Proof

/-! The frames of the mailboxes, the clock, the M-port and the firmware (R310, R317, R322, R337, R361): O50, O51, O54 -/

/-- No command that Safety.lean names as leaving the mailboxes, the possession registers, the clock, the M-port or the firmware has
that part in its mask. -/
theorem keepsServices_mask (c : Instr) :
    (keepsMailboxes c && (commandMask c).testBit 31) = false ∧ (keepsPossession c && (commandMask c).testBit 32) = false ∧
    (keepsClock c && (commandMask c).testBit 33) = false ∧ (keepsMport c && (commandMask c).testBit 34) = false ∧
    (keepsFirmware c && (commandMask c).testBit 35) = false := by
  cases c <;> (dsimp only [commandMask]; exact ⟨rfl, rfl, rfl, rfl, rfl⟩)

/-- Settles O50: parts 31 and 32 of the commands' masks. -/
theorem mailboxFrame : Obligations.MailboxFrame := by
  intro c s t hI h
  obtain ⟨hMailboxes, hPossession, -⟩ := keepsServices_mask c
  have frame := (exec_next hI h).frame
  exact ⟨fun hc => frame.mboxes (outside_of_keeps hc hMailboxes), fun hc => frame.poss (outside_of_keeps hc hPossession)⟩

/-- Settles O51: parts 33 and 34 of the commands' masks. -/
theorem clockFrame : Obligations.ClockFrame := by
  intro c s t hI h
  obtain ⟨-, -, hClock, hMport, -⟩ := keepsServices_mask c
  have frame := (exec_next hI h).frame
  exact ⟨fun hc => frame.rtc (outside_of_keeps hc hClock), fun hc => frame.mport (outside_of_keeps hc hMport)⟩

/-- Settles O54: part 35 of the commands' masks. -/
theorem firmwareFrame : Obligations.FirmwareFrame := by
  intro c s t hI h hc
  obtain ⟨-, -, -, -, hFirmware⟩ := keepsServices_mask c
  exact (exec_next hI h).frame.fw (outside_of_keeps hc hFirmware)

end Sys2Proof.Machine

namespace Sys2Proof.Machine
open Sys2Proof

/-! The time stamp (R323): O60 -/

/-- The days follow one another up to 2199-12-31. -/
theorem dayNumber_of_nextDay {c : Calendar} (h : c.valid = true) (hl : c.lastDay = false) :
    dayNumber c.nextDay.year c.nextDay.month c.nextDay.day = dayNumber c.year c.month c.day + 1 := by
  have seconds := (nextDay_facts h).2.2.1 hl
  have sameTime : c.nextDay.hour = c.hour ∧ c.nextDay.min = c.min ∧ c.nextDay.sec = c.sec := by
    unfold Calendar.nextDay
    dsimp only
    split_ifs <;> exact ⟨rfl, rfl, rfl⟩
  obtain ⟨hour, min, sec⟩ := sameTime
  unfold Calendar.seconds at seconds
  omega

/-- Settles O60: the formula is the stamp's definition, and a tick advances the calendar by 1/1024 s (O28). -/
theorem timeStamp : Obligations.TimeStamp := by
  refine ⟨fun s => rfl, by decide, fun c h hl => ⟨dayNumber_of_nextDay h hl, (nextDay_facts h).1⟩, fun c h => ?_⟩
  obtain ⟨valid, next, -⟩ := calendarTick c h
  refine ⟨valid, fun hr => ?_⟩
  unfold Calendar.stamp
  rw [next hr, Nat.mod_add_mod]

end Sys2Proof.Machine

namespace Sys2Proof.Machine
open Sys2Proof

/-! What the mailboxes' events raise (R311, R312, R313): support for O24, O25 -/

/-- From `s` to `t` events of the mailboxes rose: below MB_EVENT no register changed, a bit that stood stands, and what was sent
stays sent. -/
structure Raises (s t : State) : Prop where
  rest : t = { s with regs := t.regs, hosts := t.hosts, out := t.out }
  low : ∀ a, a < 0x3A0 → t.reg a = s.reg a
  stays : ∀ g : Fld, g.hi < 18 → g.lo = g.hi → s.get g = 1 → t.get g = 1
  sent : ∀ o, o ∈ s.out → o ∈ t.out

theorem Raises.refl (s : State) : Raises s s := ⟨rfl, fun _ _ => rfl, fun _ _ _ h => h, fun _ h => h⟩

theorem Raises.trans {s t u : State} (h1 : Raises s t) (h2 : Raises t u) : Raises s u where
  rest := h2.rest.trans (congrArg (fun x : State => { x with regs := u.regs, hosts := u.hosts, out := u.out }) h1.rest)
  low a ha := (h2.low a ha).trans (h1.low a ha)
  stays g hg hl h := h2.stays g hg hl (h1.stays g hg hl h)
  sent o h := h2.sent o (h1.sent o h)

theorem Raises.foldl {α : Type} {f : State → α → State} (h : ∀ t x, Raises t (f t x)) (xs : List α) (s : State) :
    Raises s (xs.foldl f s) := by
  induction xs generalizing s with
  | nil => exact Raises.refl s
  | cons x xs ih => exact (h s x).trans (ih _)

theorem Raises.mboxes {s t : State} (h : Raises s t) : t.mboxes = s.mboxes := by rw [h.rest]

theorem Raises.mbox {s t : State} (h : Raises s t) (c : Nat) : t.mbox c = s.mbox c := by
  unfold State.mbox
  rw [h.mboxes]

theorem Raises.get {s t : State} (h : Raises s t) {g : Fld} (hg : g.addr < 0x3A0) : t.get g = s.get g := by
  unfold State.get
  rw [h.low _ hg]

/-- Setting one bit leaves every bit that stands. -/
theorem State.put_one_stays (s : State) {f g : Fld} (hf : f.lo = f.hi) (hg : g.hi < 18) (hl : g.lo = g.hi) (h : s.get g = 1) :
    (s.put f 1).get g = 1 := by
  obtain ⟨a, i, k⟩ := f
  obtain ⟨b, j, l⟩ := g
  obtain rfl : k = i := hf
  obtain rfl : l = j := hl
  by_cases same : a = b ∧ k = l
  · obtain ⟨rfl, rfl⟩ := same
    exact State.get_put_same _ _ _ hg (by simp)
  · by_cases ha : b = a
    · exact (State.get_put_apart _ _ hg (by dsimp only; omega)).trans h
    · exact (State.get_put_ne _ _ ha).trans h

theorem Raises.setPort (s : State) (p : PHost) (port : HostPort) : Raises s (s.setHost p port) :=
  ⟨rfl, fun _ _ => rfl, fun _ _ _ h => h, fun _ h => h⟩

theorem Raises.emit (s : State) (o : Out) : Raises s (s.emit o) :=
  ⟨rfl, fun _ _ => rfl, fun _ _ _ h => h, fun _ h => List.mem_append_left _ h⟩

theorem Raises.notify (s : State) (c : IClass) (h : PHost) : Raises s (s.notify c h) := by
  unfold State.notify State.msix
  dsimp only
  split_ifs
  · exact (Raises.setPort s _ _).trans (Raises.emit _ _)
  · exact Raises.refl s
  · exact Raises.setPort s _ _
  · exact Raises.setPort s _ _
  · exact Raises.setPort s _ _
  · exact (Raises.setPort s _ _).trans (Raises.emit _ _)
  · exact Raises.refl s
  · exact Raises.refl s

theorem Raises.put {s : State} {f : Fld} (ha : 0x3A0 ≤ f.addr) (hf : f.lo = f.hi) : Raises s (s.put f 1) where
  rest := rfl
  low a h := s.reg_put_ne 1 (by omega)
  stays g hg hl h := s.put_one_stays hf hg hl h
  sent _ h := h

theorem Raises.event {s : State} {ev : Fld} (ha : 0x3A0 ≤ ev.addr) (hev : ev.lo = ev.hi) (en : Nat) (c : IClass) (hs : List PHost) :
    Raises s (s.event ev en c hs) := by
  have bit : Raises s (s.put ev 1) := .put ha hev
  unfold State.event
  dsimp only
  split_ifs
  · exact bit
  · exact bit.trans (Raises.foldl (fun t h => .notify t c h) hs _)
  · exact bit

theorem mbEvent_raises (s : State) (h i : Nat) : Raises s (s.mbEvent h i) := by
  unfold State.mbEvent
  split
  · exact .event (by dsimp only; omega) rfl _ _ _
  · exact .put (by dsimp only; omega) rfl

theorem mbEvent_get (s : State) (h : Nat) {i : Nat} (hi : i < 18) : (s.mbEvent h i).get ⟨0x3A0 + h, i, i⟩ = 1 := by
  unfold State.mbEvent
  split
  · exact event_get_same _ _ _ _ _ hi rfl
  · exact State.get_put_same _ _ _ hi (by simp)

theorem mbEvent_get_apart (s : State) (h i : Nat) {g : Fld} (hg : g.hi < 18) (hi : g.hi < i ∨ i < g.lo) :
    (s.mbEvent h i).get g = s.get g := by
  unfold State.mbEvent
  split
  · exact event_get_apart _ _ _ _ _ _ hg hi
  · exact State.get_put_apart _ _ hg hi

/-- No empty notice was sent from `s` to `t`. -/
def NoNotice (s t : State) : Prop := ∀ y c, Out.emptyNotice y c ∈ t.out → Out.emptyNotice y c ∈ s.out

theorem NoNotice.trans {s t u : State} (h1 : NoNotice s t) (h2 : NoNotice t u) : NoNotice s u := fun y c h => h1 y c (h2 y c h)

theorem NoNotice.of_out {s t : State} (h : t.out = s.out) : NoNotice s t := fun _ _ ho => h ▸ ho

theorem NoNotice.emit {s t : State} (h : t.out = s.out) {o : Out} (ho : ∀ y c, o ≠ .emptyNotice y c) : NoNotice s (t.emit o) := by
  intro y c hm
  rw [State.emit_out, h, List.mem_append, List.mem_singleton] at hm
  exact hm.resolve_right (fun e => ho y c e.symm)

theorem NoNotice.notify (s : State) (c : IClass) (h : PHost) : NoNotice s (s.notify c h) := by
  unfold State.notify State.msix
  dsimp only
  split_ifs
  · exact .emit rfl (fun _ _ e => by cases e)
  · exact .of_out rfl
  · exact .of_out rfl
  · exact .of_out rfl
  · exact .of_out rfl
  · exact .emit rfl (fun _ _ e => by cases e)
  · exact .of_out rfl
  · exact .of_out rfl

theorem NoNotice.event (s : State) (ev : Fld) (en : Nat) (c : IClass) (hs : List PHost) : NoNotice s (s.event ev en c hs) := by
  have told : ∀ t : State, NoNotice t (hs.foldl (fun t h => t.notify c h) t) := by
    induction hs with
    | nil => exact fun _ => .of_out rfl
    | cons h hs ih => exact fun t => (NoNotice.notify t c h).trans (ih _)
  unfold State.event
  dsimp only
  split_ifs
  · exact .of_out rfl
  · exact (NoNotice.of_out rfl : NoNotice s (s.put ev 1)).trans (told _)
  · exact .of_out rfl

theorem mbEvent_noNotice (s : State) (h i : Nat) : NoNotice s (s.mbEvent h i) := by
  unfold State.mbEvent
  split
  · exact .event _ _ _ _ _
  · exact .of_out rfl

/-- The arrival of a word is the receiver's event bit and, for a host that sleeps, WAKE_N (R311, R168). -/
theorem mbArrive_host (s : State) (c h : Nat) : s.mbArrive c (.host h) = s.mbEvent h c ∨ ∃ p port,
    s.mbArrive c (.host h) = ((s.mbEvent h c).setHost p port).emit (.wakeN p true) := by
  unfold State.mbArrive
  dsimp only
  split
  · split_ifs
    · exact .inr ⟨_, _, rfl⟩
    · exact .inl rfl
  · exact .inl rfl

theorem mbArrive_raises (s : State) (c : Nat) (e : MbEnd) : Raises s (s.mbArrive c e) := by
  cases e with
  | none => exact Raises.refl s
  | firmware => exact Raises.refl s
  | host h =>
    obtain eq | ⟨p, port, eq⟩ := mbArrive_host s c h
    · exact eq ▸ mbEvent_raises s h c
    · exact eq ▸ ((mbEvent_raises s h c).trans (.setPort _ _ _)).trans (.emit _ _)

theorem mbArrive_get (s : State) {c : Nat} (hc : c < 18) (h : Nat) : (s.mbArrive c (.host h)).get ⟨0x3A0 + h, c, c⟩ = 1 := by
  obtain eq | ⟨p, port, eq⟩ := mbArrive_host s c h <;> exact eq ▸ mbEvent_get s h hc

theorem mbArrive_get_apart (s : State) (c : Nat) (e : MbEnd) {g : Fld} (hg : g.hi < 18) (hi : g.hi < c ∨ c < g.lo) :
    (s.mbArrive c e).get g = s.get g := by
  cases e with
  | none => rfl
  | firmware => rfl
  | host h =>
    obtain eq | ⟨p, port, eq⟩ := mbArrive_host s c h <;> exact eq ▸ mbEvent_get_apart s h c hg hi

theorem mbArrive_noNotice (s : State) (c : Nat) (e : MbEnd) : NoNotice s (s.mbArrive c e) := by
  cases e with
  | none => exact .of_out rfl
  | firmware => exact .of_out rfl
  | host h =>
    obtain eq | ⟨p, port, eq⟩ := mbArrive_host s c h
    · exact eq ▸ mbEvent_noNotice s h c
    · exact eq ▸ (mbEvent_noNotice s h c).trans (.emit rfl (fun _ _ e => by cases e))

theorem mbColl_raises (s : State) (e : MbEnd) (lost new : Sender) : Raises s (s.mbColl e lost new) :=
  Raises.foldl (fun t h => mbEvent_raises t h 16) _ s

/-- A collision sets COLL of each host among the receiver and the two senders (R313). -/
theorem mbColl_get (s : State) (e : MbEnd) (lost new : Sender) {h : Nat}
    (hh : e = .host h ∨ senderHost lost = some h ∨ senderHost new = some h) :
    (s.mbColl e lost new).get (Reg.MB_EVENT_COLL h) = 1 := by
  unfold State.mbColl
  refine foldl_once (fun _ => True) (fun t => t.get (Reg.MB_EVENT_COLL h) = 1) (fun (t : State) k => t.mbEvent k 16) h
    (fun _ _ _ _ => trivial) (fun t _ => mbEvent_get t h (by decide))
    (fun t k ht => (mbEvent_raises t k 16).stays _ (lt_rfl rfl) rfl ht) _ ?_ s trivial
  rw [List.mem_dedup, List.mem_append, List.mem_append]
  obtain rfl | hy | hx := hh
  · exact .inl (.inl (List.mem_singleton_self h))
  · exact .inl (.inr (by rw [hy]; exact List.mem_singleton_self h))
  · exact .inr (by rw [hx]; exact List.mem_singleton_self h)

theorem mbNotice_raises (s : State) (c : Nat) (x : Sender) : Raises s (s.mbNotice c x) := by
  unfold State.mbNotice
  split
  · exact mbEvent_raises _ _ _
  · exact .emit _ _

end Sys2Proof.Machine

namespace Sys2Proof.Machine
open Sys2Proof

/-! Words that enter a queue (R310, R311, R313, R320): support for O24, O25 -/

@[simp] theorem State.mbox_setMbox_same (s : State) (c : Nat) (m : Mailbox) : (s.setMbox c m).mbox c = m := Map.get_set_same _ _ _ _

theorem Mailbox.queue_set_same (m : Mailbox) (b : Bool) (q : List (Word × Sender)) (w : List Sender) (o : List Word) :
    ({ m.set b q w with owed := o } : Mailbox).queue b = q ∧ (m.set b q w).queue b = q ∧
    ({ m.set b q w with owed := o } : Mailbox).writers b = w ∧ ({ m.set b q w with owed := o } : Mailbox).queue (!b) = m.queue (!b) := by
  cases b <;> exact ⟨rfl, rfl, rfl, rfl⟩

/-- A word of a sender that may write enters a queue with room at its end; its receiver hears of it (R310, R311). -/
theorem mbPut_room {s : State} {c : Nat} {b : Bool} (x : Sender) (v : Word) (h : ((s.mbox c).queue b).length < 8) :
    ∃ m : Mailbox, s.mbPut x c b v = (s.setMbox c m).mbArrive c (s.mbEnd c b) ∧ m.queue b = (s.mbox c).queue b ++ [(v, x)] ∧
      x ∈ m.writers b ∧ m.queue (!b) = (s.mbox c).queue (!b) := by
  refine ⟨_, if_pos h, (Mailbox.queue_set_same _ _ _ _ _).1, ?_, (Mailbox.queue_set_same _ _ _ _ _).2.2.2⟩
  rw [(Mailbox.queue_set_same _ _ _ _ _).2.2.1]
  split_ifs with hw
  · exact List.contains_iff_mem.mp hw
  · exact List.mem_append_right _ (List.mem_singleton_self x)

/-- Three fields written in turn: the last two lie in one register, apart, and the first in another. -/
theorem State.get_put_three (s : State) {f1 f2 f3 : Fld} {v1 v2 v3 : Nat} (h12 : f1.addr ≠ f2.addr) (h13 : f1.addr ≠ f3.addr)
    (h23 : f3.hi < f2.lo) (hi1 : f1.hi < 18) (hi2 : f2.hi < 18) (hi3 : f3.hi < 18) (hv1 : v1 < 2 ^ (f1.hi + 1 - f1.lo))
    (hv2 : v2 < 2 ^ (f2.hi + 1 - f2.lo)) (hv3 : v3 < 2 ^ (f3.hi + 1 - f3.lo)) :
    (((s.put f1 v1).put f2 v2).put f3 v3).get f1 = v1 ∧ (((s.put f1 v1).put f2 v2).put f3 v3).get f2 = v2 ∧
    (((s.put f1 v1).put f2 v2).put f3 v3).get f3 = v3 :=
  ⟨(State.get_put_two _ _ _ h12 h13).trans (State.get_put_same _ _ _ hi1 hv1),
    (State.get_put_apart _ _ hi2 (.inr h23)).trans (State.get_put_same _ _ _ hi2 hv2), State.get_put_same _ _ _ hi3 hv3⟩

/-- What a collision writes in MB_STAT and MB_COLL of its channel (R313). -/
def State.collided (s : State) (c : Nat) (b : Bool) (lost new : Sender) : State :=
  if b then ((s.put (Reg.MB_STAT_COLLB c) 1).put (Reg.MB_COLL_LOSTB c) lost.toNat).put (Reg.MB_COLL_NEWB c) new.toNat
  else ((s.put (Reg.MB_STAT_COLLA c) 1).put (Reg.MB_COLL_LOSTA c) lost.toNat).put (Reg.MB_COLL_NEWA c) new.toNat

theorem collided_get (s : State) (c : Nat) (b : Bool) (lost new : Sender) :
    (s.collided c b lost new).get (if b then Reg.MB_STAT_COLLB c else Reg.MB_STAT_COLLA c) = 1 ∧
    (s.collided c b lost new).get (if b then Reg.MB_COLL_LOSTB c else Reg.MB_COLL_LOSTA c) = lost.toNat ∧
    (s.collided c b lost new).get (if b then Reg.MB_COLL_NEWB c else Reg.MB_COLL_NEWA c) = new.toNat := by
  have apart : 0x306 + 0x10 * c ≠ 0x307 + 0x10 * c := by omega
  cases b
  · exact State.get_put_three s (f1 := Reg.MB_STAT_COLLA c) (f2 := Reg.MB_COLL_LOSTA c) (f3 := Reg.MB_COLL_NEWA c) apart apart
      (lt_rfl rfl) (lt_rfl rfl) (lt_rfl rfl) (lt_rfl rfl) (lt_rfl rfl) lost.isLt new.isLt
  · exact State.get_put_three s (f1 := Reg.MB_STAT_COLLB c) (f2 := Reg.MB_COLL_LOSTB c) (f3 := Reg.MB_COLL_NEWB c) apart apart
      (lt_rfl rfl) (lt_rfl rfl) (lt_rfl rfl) (lt_rfl rfl) (lt_rfl rfl) lost.isLt new.isLt

theorem collided_mboxes (s : State) (c : Nat) (b : Bool) (lost new : Sender) : (s.collided c b lost new).mboxes = s.mboxes := by
  cases b <;> rfl

/-- A word for a full queue: the newest word goes, and the collision is recorded and told (R313). -/
theorem mbPut_full_eq {s : State} {c : Nat} {b : Bool} (x : Sender) (v : Word) {w : Word} {y : Sender}
    {q : List (Word × Sender)} (hq : (s.mbox c).queue b = q ++ [(w, y)]) (hl : q.length = 7) :
    ∃ m : Mailbox, s.mbPut x c b v = (((s.setMbox c m).collided c b y x).mbColl (s.mbEnd c b) y x).mbArrive c (s.mbEnd c b) ∧
      m.queue b = q ++ [(v, x)] := by
  have full : ¬((s.mbox c).queue b).length < 8 := by
    rw [hq, List.length_append, hl, List.length_singleton]
    decide
  have last : (((s.mbox c).queue b).getLast?.map (·.2)).getD 0#4 = y := by rw [hq, List.getLast?_concat]; rfl
  have front : ((s.mbox c).queue b).dropLast = q := by rw [hq, List.dropLast_concat]
  unfold State.mbPut
  dsimp only
  rw [if_neg full, last, front]
  exact ⟨_, rfl, (Mailbox.queue_set_same _ b _ _ []).2.1⟩

/-- The registers and events of a collision (R313). -/
theorem mbPut_full {s : State} {c : Nat} {b : Bool} (hc : c < 8) (x : Sender) (v : Word) {w : Word} {y : Sender}
    {q : List (Word × Sender)} (hq : (s.mbox c).queue b = q ++ [(w, y)]) (hl : q.length = 7) :
    ((s.mbPut x c b v).mbox c).queue b = q ++ [(v, x)] ∧
    (s.mbPut x c b v).get (if b then Reg.MB_STAT_COLLB c else Reg.MB_STAT_COLLA c) = 1 ∧
    (s.mbPut x c b v).get (if b then Reg.MB_COLL_LOSTB c else Reg.MB_COLL_LOSTA c) = y.toNat ∧
    (s.mbPut x c b v).get (if b then Reg.MB_COLL_NEWB c else Reg.MB_COLL_NEWA c) = x.toNat ∧
    ∀ h, s.mbEnd c b = .host h ∨ senderHost y = some h ∨ senderHost x = some h → (s.mbPut x c b v).get (Reg.MB_EVENT_COLL h) = 1 := by
  obtain ⟨m, eq, queue⟩ := mbPut_full_eq x v hq hl
  rw [eq]
  have raises : Raises ((s.setMbox c m).collided c b y x) _ :=
    (mbColl_raises _ (s.mbEnd c b) y x).trans (mbArrive_raises _ c (s.mbEnd c b))
  have low : ∀ f g : Fld, f.addr < 0x3A0 → g.addr < 0x3A0 → (if b then f else g).addr < 0x3A0 := fun f g hf hg => by
    cases b <;> assumption
  have stat : 0x306 + 0x10 * c < 0x3A0 := by omega
  have coll : 0x307 + 0x10 * c < 0x3A0 := by omega
  obtain ⟨flag, lost, new⟩ := collided_get (s.setMbox c m) c b y x
  refine ⟨?_, (raises.get (low _ _ stat stat)).trans flag, (raises.get (low _ _ coll coll)).trans lost,
    (raises.get (low _ _ coll coll)).trans new,
    fun h hh => (mbArrive_raises _ c _).stays _ (lt_rfl rfl) rfl (mbColl_get _ _ _ _ hh)⟩
  have stored : ((s.setMbox c m).collided c b y x).mbox c = m := by
    rw [State.mbox, collided_mboxes]
    exact State.mbox_setMbox_same s c m
  rw [raises.mbox c, stored, queue]

/-- The firmware writes no full queue (R314). -/
theorem mbMayWrite_firmware_full {s : State} {c : Nat} {b : Bool} {x : Sender} (hx : isFirmware x = true)
    (hl : ((s.mbox c).queue b).length = 8) : s.mbMayWrite c b x = false := by
  have ids : 8 ≤ x.toNat ∧ x.toNat ≤ 11 := of_decide_eq_true hx
  have high : ∀ n, n ≤ 5 → (MbEnd.host n).is x = false := fun n hn => decide_eq_false (by omega)
  have notHost : decide (x.toNat ≤ 4) = false := decide_eq_false (by omega)
  have full : decide (8 ≤ ((s.mbox c).queue b).length) = true := decide_eq_true (by omega)
  unfold State.mbMayWrite
  dsimp only
  rw [full, notHost]
  by_cases hc : c ≤ 4
  · have toward : (s.mbEnd c false).is x = false := by
      unfold State.mbEnd
      by_cases h3 : c ≤ 3
      · exact (congrArg (MbEnd.is · x) (if_pos h3)).trans (high _ (by omega))
      · exact (congrArg (MbEnd.is · x) ((if_neg h3).trans (if_pos (by omega)))).trans (high 0 (by omega))
    rw [if_pos hc, toward]
    cases b <;> simp
  · rw [if_neg hc]
    simp

/-- The turn of sender n comes after those below it. -/
theorem turn_join {α : Type} (k n : Nat) (p : α) :
    (if k < n then [p] else []) ++ (if k = n then [p] else []) = if k < n + 1 then [p] else [] := by
  obtain h | h | h := Nat.lt_trichotomy k n
  · rw [if_pos h, if_neg (by omega), if_pos (by omega), List.append_nil]
  · rw [if_neg (by omega), if_pos h, if_pos (by omega), List.nil_append]
  · rw [if_neg (by omega), if_neg (by omega), if_neg (by omega), List.append_nil]

/-- One word is in order by itself (R320). -/
theorem inOrder_one (x : Sender) (v : Word) (n : Nat) :
    (List.range n).flatMap (fun i => [(x, v)].filter (fun p => decide (p.1.toNat = i))) = if x.toNat < n then [(x, v)] else [] := by
  induction n with
  | zero => rfl
  | succ n ih =>
    rw [List.range_succ, List.flatMap_append, ih, List.flatMap_singleton, ← turn_join, List.filter_singleton]
    simp only [Bool.cond_decide]

/-- The words of two senders in one cycle, in ascending sender ID (R320). -/
theorem inOrder_pair {x y : Sender} (hxy : x.toNat < y.toNat) (v w : Word) {ws : List (Sender × Word)}
    (hws : ws = [(x, v), (y, w)] ∨ ws = [(y, w), (x, v)]) (n : Nat) :
    (List.range n).flatMap (fun i => ws.filter (fun p => decide (p.1.toNat = i))) =
      (if x.toNat < n then [(x, v)] else []) ++ (if y.toNat < n then [(y, w)] else []) := by
  induction n with
  | zero => rfl
  | succ n ih =>
    have turn : ws.filter (fun p => decide (p.1.toNat = n)) =
        (if x.toNat = n then [(x, v)] else []) ++ (if y.toNat = n then [(y, w)] else []) := by
      obtain rfl | rfl := hws <;> by_cases hx : x.toNat = n <;> by_cases hy : y.toNat = n <;> simp [hx, hy]; omega
    rw [List.range_succ, List.flatMap_append, ih, List.flatMap_singleton, turn, ← turn_join x.toNat, ← turn_join y.toNat]
    by_cases hy : y.toNat < n
    · rw [if_neg (show ¬x.toNat = n by omega), List.nil_append, List.append_nil, List.append_assoc]
    · rw [if_neg hy, List.append_nil, List.nil_append, List.append_assoc]

/-- Words whose senders reach the register and may write the queue arrive, in ascending sender ID. -/
theorem mbArrivals_of {s : State} {c : Nat} {b : Bool} {ws : List (Sender × Word)} {qs : List (Sender × Word)}
    (reach : ∀ p, p ∈ ws → s.reaches p.1 ((if b then 0x301 else 0x300) + 0x10 * c) true = true) (hv : s.serving = true)
    (order : (List.range 16).flatMap (fun i => ws.filter (fun p => decide (p.1.toNat = i))) = qs)
    (may : ∀ p, p ∈ qs → s.mbMayWrite c b p.1 = true) : s.mbArrivals c b ws = qs := by
  unfold State.mbArrivals State.mbAllowed
  rw [List.filter_eq_self.mpr reach, order]
  exact List.filter_eq_self.mpr (fun p hp => by rw [hv, may p hp]; rfl)

theorem mbArrivals_one {s : State} {c : Nat} {b : Bool} {x : Sender} (v : Word)
    (hr : s.reaches x ((if b then 0x301 else 0x300) + 0x10 * c) true = true) (hv : s.serving = true)
    (hw : s.mbMayWrite c b x = true) : s.mbArrivals c b [(x, v)] = [(x, v)] :=
  mbArrivals_of (List.forall_mem_singleton.mpr hr) hv ((inOrder_one x v 16).trans (if_pos x.isLt)) (List.forall_mem_singleton.mpr hw)

/-- A word of a sender that may not write does not arrive. -/
theorem mbArrivals_refused {s : State} {c : Nat} {b : Bool} {x : Sender} (v : Word) (hw : s.mbMayWrite c b x = false) :
    s.mbArrivals c b [(x, v)] = [] := by
  unfold State.mbArrivals State.mbAllowed
  refine List.filter_eq_nil_iff.mpr fun p hp => ?_
  obtain ⟨i, -, hi⟩ := List.mem_flatMap.mp hp
  rw [List.mem_singleton.mp (List.mem_filter.mp (List.mem_filter.mp hi).1).1, hw, Bool.and_false]
  decide

/-- A write to a mailbox with no other in its cycle. -/
theorem exec_mailboxWrite_one {s : State} {x : Sender} {c : Fin 8} {b : Bool} (v : Word)
    (hr : s.reaches x ((if b then 0x301 else 0x300) + 0x10 * c.val) true = true) (hv : s.serving = true)
    (hw : s.mbMayWrite c.val b x = true) : exec (.mailboxWrite x c b ⟨v, []⟩) s = .next (s.mbPut x c.val b v) :=
  congrArg (fun ws => Host.Outcome.next (s.mbPutAll c.val b ws)) (mbArrivals_one v hr hv hw)

/-- Settles O25. -/
theorem mailboxCollisions : Obligations.MailboxCollisions := by
  intro x c b v s w y q hr hv hw hq hl
  exact ⟨_, exec_mailboxWrite_one v hr hv hw, mbPut_full c.isLt x v hq hl⟩

end Sys2Proof.Machine

namespace Sys2Proof.Machine
open Sys2Proof

/-! Pops of a queue (R309, R310, R312, R314) and the possession registers (R317, R318): O24 -/

theorem mbPutAll_one (s : State) (c : Nat) (b : Bool) (x : Sender) (v : Word) : s.mbPutAll c b [(x, v)] = s.mbPut x c b v := rfl

/-- A word that enters with room: the registers below MB_EVENT stay, and no empty notice is sent. -/
theorem mbPut_room_facts {s : State} {c : Nat} {b : Bool} (x : Sender) (v : Word) (h : ((s.mbox c).queue b).length < 8) :
    ((s.mbPut x c b v).mbox c).queue b = (s.mbox c).queue b ++ [(v, x)] ∧ x ∈ ((s.mbPut x c b v).mbox c).writers b ∧
    ((s.mbPut x c b v).mbox c).queue (!b) = (s.mbox c).queue (!b) ∧
    (∀ g : Fld, g.addr < 0x3A0 → (s.mbPut x c b v).get g = s.get g) ∧
    (∀ g : Fld, g.hi < 18 → g.hi < c ∨ c < g.lo → (s.mbPut x c b v).get g = s.get g) ∧ NoNotice s (s.mbPut x c b v) ∧
    ∀ h, s.mbEnd c b = .host h → c < 18 → (s.mbPut x c b v).get ⟨0x3A0 + h, c, c⟩ = 1 := by
  obtain ⟨m, eq, queue, writer, other⟩ := mbPut_room x v h
  have raises := mbArrive_raises (s.setMbox c m) c (s.mbEnd c b)
  have stored : (s.mbPut x c b v).mbox c = m := by rw [eq, raises.mbox, State.mbox_setMbox_same]
  refine ⟨by rw [stored, queue], by rw [stored]; exact writer, by rw [stored, other], fun g hg => ?_, fun g hg hi => ?_, ?_,
    fun h hh hc => ?_⟩ <;> rw [eq]
  · exact raises.get hg
  · exact mbArrive_get_apart _ c _ hg hi
  · exact mbArrive_noNotice (s.setMbox c m) c _
  · rw [hh]
    exact mbArrive_get _ hc h

/-- A read of a queue by its receiver, with the words of other senders that follow it. -/
theorem exec_mailboxPop {s : State} {x : Sender} {c : Fin 8} {b : Bool} {ws : List (Sender × Word)}
    (hr : s.reaches x ((if b then 0x303 else 0x302) + 0x10 * c.val) false = true) :
    exec (.mailboxPop x c ⟨b, ws⟩) s = .next (((s.mbTake x c.val b (!(s.mbArrivals c.val b ws).isEmpty)).1.mbPutAll c.val b
      (s.mbArrivals c.val b ws)).answer x ((if b then 0x303 else 0x302) + 0x10 * c.val)
      (s.mbTake x c.val b (!(s.mbArrivals c.val b ws).isEmpty)).2) :=
  congrArg Host.Outcome.next (if_pos hr)

theorem exec_mailboxPop_alone {s : State} {x : Sender} {c : Fin 8} {b : Bool}
    (hr : s.reaches x ((if b then 0x303 else 0x302) + 0x10 * c.val) false = true) :
    exec (.mailboxPop x c ⟨b, []⟩) s = .next ((s.mbTake x c.val b false).1.answer x ((if b then 0x303 else 0x302) + 0x10 * c.val)
      (s.mbTake x c.val b false).2) :=
  exec_mailboxPop hr

/-- MB_SRCA or MB_SRCB of a channel: the address, and the word with HIT, SENDER and LEFT (R310). -/
def srcAddr (c : Nat) (b : Bool) : Nat := if b then 0x305 + 0x10 * c else 0x304 + 0x10 * c
def srcWord (y : Sender) (left : Nat) : Word := BitVec.ofNat 18 (1 * 2 ^ 17 + y.toNat * 2 ^ 4 + left)

theorem srcWord_fields (y : Sender) {left : Nat} (h : left < 8) : bits (srcWord y left).toNat 17 17 = 1 ∧
    bits (srcWord y left).toNat 7 4 = y.toNat ∧ bits (srcWord y left).toNat 3 0 = left := by
  have hy := y.isLt
  simp only [srcWord, bits, BitVec.toNat_ofNat]
  omega

theorem src_get (s : State) (c : Nat) (b : Bool) (y : Sender) {left : Nat} (h : left < 8) :
    (s.setReg (srcAddr c b) (srcWord y left)).get (if b then Reg.MB_SRCB_HIT c else Reg.MB_SRCA_HIT c) = 1 ∧
    (s.setReg (srcAddr c b) (srcWord y left)).get (if b then Reg.MB_SRCB_SENDER c else Reg.MB_SRCA_SENDER c) = y.toNat ∧
    (s.setReg (srcAddr c b) (srcWord y left)).get (if b then Reg.MB_SRCB_LEFT c else Reg.MB_SRCA_LEFT c) = left := by
  obtain ⟨hit, sender, left⟩ := srcWord_fields y h
  cases b
  · exact ⟨(State.get_setReg_same s (Reg.MB_SRCA_HIT c) _).trans hit, (State.get_setReg_same s (Reg.MB_SRCA_SENDER c) _).trans sender,
      (State.get_setReg_same s (Reg.MB_SRCA_LEFT c) _).trans left⟩
  · exact ⟨(State.get_setReg_same s (Reg.MB_SRCB_HIT c) _).trans hit, (State.get_setReg_same s (Reg.MB_SRCB_SENDER c) _).trans sender,
      (State.get_setReg_same s (Reg.MB_SRCB_LEFT c) _).trans left⟩

/-- A pop that leaves words in the queue, or that a write follows (R310). -/
theorem mbTake_some {s : State} {x : Sender} {c : Nat} {b follows : Bool} {w : Word} {y : Sender} {q : List (Word × Sender)}
    (hv : s.serving = true) (hx : s.mbReceives c (s.mbEnd c b) x = true) (hh : s.mbHolds c x = false)
    (hq : (s.mbox c).queue b = (w, y) :: q) (hf : (q.isEmpty && !follows) = false) :
    s.mbTake x c b follows = ((s.setMbox c { (s.mbox c).set b q ((s.mbox c).writers b) with
      owed := if isFirmware x && decide (c ≤ 4) then (s.mbox c).owed ++ [replyTo w] else (s.mbox c).owed }).setReg (srcAddr c b)
      (srcWord y q.length), w) := by
  unfold State.mbTake
  dsimp only
  rw [if_pos (by rw [hv, hx, hh]; rfl), hq]
  dsimp only
  rw [if_neg (by rw [hf]; decide)]
  rfl

/-- A pop that empties the queue tells its writers (R312). -/
theorem mbTake_last {s : State} {x : Sender} {c : Nat} {b : Bool} {w : Word} {y : Sender}
    (hv : s.serving = true) (hx : s.mbReceives c (s.mbEnd c b) x = true) (hh : s.mbHolds c x = false)
    (hq : (s.mbox c).queue b = [(w, y)]) :
    s.mbTake x c b false = (((s.mbox c).writers b).foldl (fun (t : State) z => t.mbNotice c z)
      ((s.setMbox c { (s.mbox c).set b [] [] with
        owed := if isFirmware x && decide (c ≤ 4) then (s.mbox c).owed ++ [replyTo w] else (s.mbox c).owed }).setReg (srcAddr c b)
        (srcWord y 0)), w) := by
  unfold State.mbTake
  dsimp only
  rw [if_pos (by rw [hv, hx, hh]; rfl), hq]
  rfl

/-- A pop of an empty queue clears HIT and LEFT alone (log entry 78). -/
theorem mbTake_none {s : State} {x : Sender} {c : Nat} {b follows : Bool}
    (hv : s.serving = true) (hx : s.mbReceives c (s.mbEnd c b) x = true) (hh : s.mbHolds c x = false)
    (hq : (s.mbox c).queue b = []) :
    s.mbTake x c b follows = ((s.put (if b then Reg.MB_SRCB_HIT c else Reg.MB_SRCA_HIT c) 0).put
      (if b then Reg.MB_SRCB_LEFT c else Reg.MB_SRCA_LEFT c) 0, 0#18) := by
  unfold State.mbTake
  dsimp only
  rw [if_pos (by rw [hv, hx, hh]; rfl), hq]
  rfl

/-- The firmware takes no word while the replies owed exceed the room toward A (R314, log entry 79). -/
theorem mbTake_held {s : State} {x : Sender} {c : Nat} (b follows : Bool) (hh : s.mbHolds c x = true) :
    s.mbTake x c b follows = (s, 0#18) :=
  if_neg (by rw [hh, Bool.not_true, Bool.and_false]; decide)

theorem owed_append (m : Mailbox) (x : Sender) (c : Nat) (r : Word) :
    (if isFirmware x && decide (c ≤ 4) then m.owed ++ [r] else m.owed) = m.owed ++ (if isFirmware x = true ∧ c ≤ 4 then [r] else []) := by
  by_cases h : isFirmware x = true ∧ c ≤ 4
  · rw [if_pos h, if_pos (by rw [h.1, decide_eq_true h.2]; rfl)]
  · rw [if_neg h, List.append_nil, if_neg (by simpa using h)]

/-- An emptied queue's writers are told, each in its own way (R312). -/
theorem mbNotice_all (s : State) (c : Nat) (hc : c < 8) (zs : List Sender) : Raises s (zs.foldl (fun (t : State) z => t.mbNotice c z) s) ∧
    ∀ z, z ∈ zs → (∀ h, senderHost z = some h →
        (zs.foldl (fun (t : State) z => t.mbNotice c z) s).get ((Reg.MB_EVENT_EMPTIED h).at c) = 1) ∧
      (senderHost z = none → .emptyNotice z c ∈ (zs.foldl (fun (t : State) z => t.mbNotice c z) s).out) := by
  refine ⟨Raises.foldl (fun t z => mbNotice_raises t c z) zs s, fun z hz => ⟨fun h hh => ?_, fun hn => ?_⟩⟩
  · refine foldl_once (fun _ => True) (fun t : State => t.get ((Reg.MB_EVENT_EMPTIED h).at c) = 1) _ z (fun _ _ _ _ => trivial)
      (fun t _ => ?_) (fun t y ht => (mbNotice_raises t c y).stays _ (show 8 + c < 18 by omega) rfl ht) zs hz s trivial
    unfold State.mbNotice
    rw [hh]
    exact mbEvent_get t h (show 8 + c < 18 by omega)
  · refine foldl_once (fun _ => True) (fun t : State => .emptyNotice z c ∈ t.out) _ z (fun _ _ _ _ => trivial)
      (fun t _ => ?_) (fun t y ht => (mbNotice_raises t c y).sent _ ht) zs hz s trivial
    unfold State.mbNotice
    rw [hn]
    exact List.mem_append_right _ (List.mem_singleton_self _)

/-- A pop of the receiver with words waiting (R310, R312, R314). -/
theorem mbTake_facts {s : State} {x : Sender} {c : Nat} (hc : c < 8) {b : Bool} {w : Word} {y : Sender} {q : List (Word × Sender)}
    (hv : s.serving = true) (hx : s.mbReceives c (s.mbEnd c b) x = true) (hh : s.mbHolds c x = false)
    (hq : (s.mbox c).queue b = (w, y) :: q) : ∃ u : State, (s.mbTake x c b false).2 = w ∧ Raises u (s.mbTake x c b false).1 ∧
      (∃ t : State, u = t.setReg (srcAddr c b) (srcWord y q.length)) ∧ (u.mbox c).queue b = q ∧
      (u.mbox c).owed = (s.mbox c).owed ++ (if isFirmware x = true ∧ c ≤ 4 then [replyTo w] else []) ∧
      (q = [] → (u.mbox c).writers b = [] ∧ ∀ z, z ∈ (s.mbox c).writers b →
        (∀ h, senderHost z = some h → (s.mbTake x c b false).1.get ((Reg.MB_EVENT_EMPTIED h).at c) = 1) ∧
        (senderHost z = none → .emptyNotice z c ∈ (s.mbTake x c b false).1.out)) := by
  cases q with
  | nil =>
    rw [mbTake_last hv hx hh hq]
    refine ⟨_, rfl, (mbNotice_all _ c hc _).1, ⟨_, rfl⟩, ?_, ?_, fun _ => ⟨?_, (mbNotice_all _ c hc _).2⟩⟩
    all_goals rw [show ∀ (t : State) a r, (t.setReg a r).mbox c = t.mbox c from fun _ _ _ => rfl, State.mbox_setMbox_same]
    · exact (Mailbox.queue_set_same _ _ _ _ _).1
    · exact owed_append _ _ _ _
    · exact (Mailbox.queue_set_same _ _ _ _ _).2.2.1
  | cons p q =>
    rw [mbTake_some hv hx hh hq rfl]
    refine ⟨_, rfl, Raises.refl _, ⟨_, rfl⟩, ?_, ?_, fun h => absurd h (List.cons_ne_nil _ _)⟩
    all_goals rw [show ∀ (t : State) a r, (t.setReg a r).mbox c = t.mbox c from fun _ _ _ => rfl, State.mbox_setMbox_same]
    · exact (Mailbox.queue_set_same _ _ _ _ _).1
    · exact owed_append _ _ _ _

/-! Possession registers -/

@[simp] theorem State.possOwner_setPoss_same (s : State) (k : Nat) (o : Option Sender) : (s.setPoss k o).possOwner k = o :=
  Map.get_set_same _ _ _ _

theorem State.possOwner_setPoss_ne (s : State) {k j : Nat} (o : Option Sender) (h : j ≠ k) : (s.setPoss k o).possOwner j = s.possOwner j :=
  Map.get_set_ne _ _ _ h

/-- Registers freed in turn (R318). -/
theorem possOwner_freed (f : Nat → Nat) (is : List Nat) (s : State) (k : Nat) :
    (is.foldl (fun (t : State) i => t.setPoss (f i) none) s).possOwner k = if ∃ i, i ∈ is ∧ f i = k then none else s.possOwner k := by
  induction is generalizing s with
  | nil => simp
  | cons i is ih =>
    rw [List.foldl_cons, ih]
    by_cases hi : f i = k
    · rw [hi, State.possOwner_setPoss_same, ite_self, if_pos ⟨i, List.mem_cons_self, hi⟩]
    · rw [State.possOwner_setPoss_ne _ _ (Ne.symm hi)]
      simp [hi]

/-- POSS_FORCE names a register by its half and its bit. -/
theorem forced_iff (v : Nat) (high : Bool) {k : Nat} (hk : k < 32) :
    (∃ i, i ∈ (List.range 16).filter (fun i => bit v i) ∧ (if high then 16 + i else i) = k) ↔
      bit v (k % 16) = true ∧ decide (16 ≤ k) = high := by
  simp only [List.mem_filter, List.mem_range]
  constructor
  · rintro ⟨i, ⟨hi, hb⟩, rfl⟩
    cases high
    · simp only [Bool.false_eq_true, if_false]
      rw [Nat.mod_eq_of_lt hi]
      exact ⟨hb, decide_eq_false (by omega)⟩
    · simp only [if_true]
      rw [Nat.add_mod_left, Nat.mod_eq_of_lt hi]
      exact ⟨hb, decide_eq_true (by omega)⟩
  · rintro ⟨hb, rfl⟩
    refine ⟨k % 16, ⟨by omega, hb⟩, ?_⟩
    by_cases h : 16 ≤ k
    · rw [if_pos (decide_eq_true h)]; omega
    · rw [if_neg (by simpa using h)]; omega

end Sys2Proof.Machine

namespace Sys2Proof.Machine
open Sys2Proof

/-! The clauses of O24 -/

theorem srcLeft_addr (c : Nat) (b : Bool) : (if b then Reg.MB_SRCB_LEFT c else Reg.MB_SRCA_LEFT c).addr = srcAddr c b := by
  cases b <;> rfl

theorem collFlag_addr (c : Nat) (b : Bool) : (if b then Reg.MB_STAT_COLLB c else Reg.MB_STAT_COLLA c).addr = 0x306 + 0x10 * c := by
  cases b <;> rfl

theorem srcAddr_cases (c : Nat) (b : Bool) : srcAddr c b = 0x304 + 0x10 * c ∨ srcAddr c b = 0x305 + 0x10 * c := by
  cases b
  · exact .inl rfl
  · exact .inr rfl

theorem mailbox_write_clause (x : Sender) (c : Fin 8) (b : Bool) (v : Word) (s : State)
    (hr : s.reaches x ((if b then 0x301 else 0x300) + 0x10 * c.val) true = true)
    (hv : s.serving = true) (hw : s.mbMayWrite c.val b x = true) (hl : ((s.mbox c.val).queue b).length < 8) :
    ∃ t, exec (.mailboxWrite x c b ⟨v, []⟩) s = .next t ∧ (t.mbox c.val).queue b = (s.mbox c.val).queue b ++ [(v, x)] ∧
      x ∈ (t.mbox c.val).writers b ∧ (t.mbox c.val).queue (!b) = (s.mbox c.val).queue (!b) ∧
      ∀ h, s.mbEnd c.val b = .host h → t.get ((Reg.MB_EVENT_ARRIVE h).at c.val) = 1 := by
  obtain ⟨queue, writer, other, -, -, -, arrive⟩ := mbPut_room_facts x v hl
  refine ⟨_, exec_mailboxWrite_one v hr hv hw, queue, writer, other, fun h hh => ?_⟩
  unfold Fld.at Reg.MB_EVENT_ARRIVE
  rw [Nat.zero_add]
  exact arrive h hh (by omega)

theorem mailbox_refused_clause (x : Sender) (c : Fin 8) (b : Bool) (v : Word) (s : State)
    (h : s.mbMayWrite c.val b x = false ∨ isFirmware x = true ∧ ((s.mbox c.val).queue b).length = 8) :
    exec (.mailboxWrite x c b ⟨v, []⟩) s = .next s :=
  congrArg (fun ws => Host.Outcome.next (s.mbPutAll c.val b ws))
    (mbArrivals_refused v (h.elim id (fun ⟨hx, hl⟩ => mbMayWrite_firmware_full hx hl)))

/-- Of two words for the last place the higher sender's stays: the second enters a full queue (R320). -/
theorem mailbox_two_clause (x y : Sender) (c : Fin 8) (b : Bool) (v w : Word) (m : Instr) (s : State)
    (hrx : s.reaches x ((if b then 0x301 else 0x300) + 0x10 * c.val) true = true)
    (hry : s.reaches y ((if b then 0x301 else 0x300) + 0x10 * c.val) true = true) (hv : s.serving = true)
    (hwx : s.mbMayWrite c.val b x = true) (hwy : s.mbMayWrite c.val b y = true) (hl : ((s.mbox c.val).queue b).length = 7)
    (hxy : x.toNat < y.toNat) (hm : m = .mailboxWrite x c b ⟨v, [(y, w)]⟩ ∨ m = .mailboxWrite y c b ⟨w, [(x, v)]⟩) :
    ∃ t, exec m s = .next t ∧ (t.mbox c.val).queue b = (s.mbox c.val).queue b ++ [(w, y)] ∧
      t.get (if b then Reg.MB_STAT_COLLB c.val else Reg.MB_STAT_COLLA c.val) = 1 ∧
      t.get (if b then Reg.MB_COLL_LOSTB c.val else Reg.MB_COLL_LOSTA c.val) = x.toNat ∧
      t.get (if b then Reg.MB_COLL_NEWB c.val else Reg.MB_COLL_NEWA c.val) = y.toNat := by
  have arrivals : ∀ ws, (ws = [(x, v), (y, w)] ∨ ws = [(y, w), (x, v)]) → s.mbArrivals c.val b ws = [(x, v), (y, w)] := by
    intro ws hws
    refine mbArrivals_of (fun p hp => ?_) hv ((inOrder_pair hxy v w hws 16).trans ?_) ?_
    · obtain rfl | rfl : p = (x, v) ∨ p = (y, w) := by
        obtain rfl | rfl := hws
        · simpa using hp
        · exact (show p = (y, w) ∨ p = (x, v) by simpa using hp).symm
      · exact hrx
      · exact hry
    · rw [if_pos x.isLt, if_pos y.isLt]
      rfl
    · simpa using ⟨hwx, hwy⟩
  have run : exec m s = .next ((s.mbPut x c.val b v).mbPut y c.val b w) := by
    obtain rfl | rfl := hm
    · exact congrArg (fun ws => Host.Outcome.next (s.mbPutAll c.val b ws)) (arrivals _ (.inl rfl))
    · exact congrArg (fun ws => Host.Outcome.next (s.mbPutAll c.val b ws)) (arrivals _ (.inr rfl))
  obtain ⟨queue, -⟩ := mbPut_room_facts (s := s) (c := c.val) (b := b) x v (by omega)
  obtain ⟨queue', coll, lost, new, -⟩ := mbPut_full c.isLt y w queue hl
  exact ⟨_, run, queue', coll, lost, new⟩

/-- A write in the cycle of a pop follows it: it finds room, and the queue was never empty (Table 12-2). -/
theorem mailbox_popWrite_clause (x z : Sender) (c : Fin 8) (b : Bool) (v w : Word) (y : Sender) (q : List (Word × Sender)) (s : State)
    (hr : s.reaches x ((if b then 0x303 else 0x302) + 0x10 * c.val) false = true) (hv : s.serving = true)
    (hx : s.mbReceives c.val (s.mbEnd c.val b) x = true)
    (hrz : s.reaches z ((if b then 0x301 else 0x300) + 0x10 * c.val) true = true) (hwz : s.mbMayWrite c.val b z = true)
    (hq : (s.mbox c.val).queue b = (w, y) :: q) (hh : s.mbHolds c.val x = false) (hl : q.length < 8) :
    ∃ t, exec (.mailboxPop x c ⟨b, [(z, v)]⟩) s = .next t ∧ (t.mbox c.val).queue b = q ++ [(v, z)] ∧
      t.get (if b then Reg.MB_SRCB_LEFT c.val else Reg.MB_SRCA_LEFT c.val) = q.length ∧
      (.readData x ((if b then 0x303 else 0x302) + 0x10 * c.val) w) ∈ t.out ∧
      t.get (if b then Reg.MB_STAT_COLLB c.val else Reg.MB_STAT_COLLA c.val) = s.get (if b then Reg.MB_STAT_COLLB c.val else Reg.MB_STAT_COLLA c.val) ∧
      (∀ h, h < 5 → t.get ((Reg.MB_EVENT_EMPTIED h).at c.val) = s.get ((Reg.MB_EVENT_EMPTIED h).at c.val)) ∧
      ∀ y, .emptyNotice y c.val ∈ t.out → .emptyNotice y c.val ∈ s.out := by
  have run := exec_mailboxPop (ws := [(z, v)]) (b := b) hr
  rw [mbArrivals_one v hrz hv hwz, mbPutAll_one,
    show s.mbTake x c.val b (!([(z, v)] : List (Sender × Word)).isEmpty) = _ from mbTake_some hv hx hh hq (Bool.and_false _)] at run
  generalize hu : State.setReg _ _ _ = u at run
  have popped : (u.mbox c.val).queue b = q := by
    rw [← hu]
    exact (congrArg (fun m : Mailbox => m.queue b) (State.mbox_setMbox_same _ _ _)).trans (Mailbox.queue_set_same _ _ _ _ _).1
  have src := srcAddr_cases c.val b
  have hc := c.isLt
  have unread : ∀ g : Fld, g.addr ≠ srcAddr c.val b → u.get g = s.get g := fun g hg => hu ▸ State.get_setReg_ne _ _ hg
  obtain ⟨queue, -, -, low, apart, quiet, -⟩ := mbPut_room_facts (s := u) (c := c.val) (b := b) z v (by rw [popped]; exact hl)
  refine ⟨_, run, ?_, ?_, List.mem_append_right _ (List.mem_singleton_self _), ?_, fun h hh5 => ?_, fun n hn => ?_⟩
  · exact queue.trans (by rw [popped])
  · refine (low _ (by rw [srcLeft_addr]; omega)).trans ?_
    rw [← hu]
    exact (src_get _ _ _ _ hl).2.2
  · exact (low _ (by rw [collFlag_addr]; omega)).trans (unread _ (by rw [collFlag_addr]; omega))
  · exact (apart _ (show 8 + c.val < 18 by omega) (.inr (show c.val < 8 + c.val by omega))).trans
      (unread _ (show 0x3A0 + h ≠ srcAddr c.val b by omega))
  · have sent : Out.emptyNotice n c.val ∈ (u.mbPut z c.val b v).out := by
      obtain old | new := List.mem_append.mp hn
      · exact old
      · exact absurd (List.mem_singleton.mp new) (fun e => by cases e)
    have before := quiet n c.val sent
    rw [← hu] at before
    exact before

end Sys2Proof.Machine

namespace Sys2Proof.Machine
open Sys2Proof

/-- A field keeps what was written to it when a lower field of the register is written next. -/
theorem State.get_put_then_lower (s : State) (f g : Fld) {v u : Nat} (hf : f.hi < 18) (hv : v < 2 ^ (f.hi + 1 - f.lo)) (h : g.hi < f.lo) :
    ((s.put f v).put g u).get f = v :=
  (State.get_put_apart _ _ hf (.inr h)).trans (State.get_put_same _ _ _ hf hv)

theorem mailbox_empty_clause (x : Sender) (c : Fin 8) (b : Bool) (s : State)
    (hr : s.reaches x ((if b then 0x303 else 0x302) + 0x10 * c.val) false = true) (hv : s.serving = true)
    (hx : s.mbReceives c.val (s.mbEnd c.val b) x = true) (hq : (s.mbox c.val).queue b = []) (hh : s.mbHolds c.val x = false) :
    ∃ t, exec (.mailboxPop x c ⟨b, []⟩) s = .next t ∧ t.mboxes = s.mboxes ∧ t.get (if b then Reg.MB_SRCB_HIT c.val else Reg.MB_SRCA_HIT c.val) = 0 ∧
      t.out = s.out ++ [.readData x ((if b then 0x303 else 0x302) + 0x10 * c.val) 0] := by
  have run := exec_mailboxPop_alone hr
  rw [mbTake_none hv hx hh hq] at run
  refine ⟨_, run, rfl, (State.get_emit _ _ _).trans ?_, rfl⟩
  cases b
  · exact s.get_put_then_lower (Reg.MB_SRCA_HIT c.val) (Reg.MB_SRCA_LEFT c.val) (lt_rfl rfl) (lt_rfl rfl) (lt_rfl rfl)
  · exact s.get_put_then_lower (Reg.MB_SRCB_HIT c.val) (Reg.MB_SRCB_LEFT c.val) (lt_rfl rfl) (lt_rfl rfl) (lt_rfl rfl)

/-- What a pop wrote in MB_SRCA or MB_SRCB stands after its notices. -/
theorem Raises.src {t u : State} {c : Nat} {b : Bool} {y : Sender} {left : Nat}
    (h : Raises (t.setReg (srcAddr c b) (srcWord y left)) u) (hc : c < 8) (hl : left < 8) :
    u.get (if b then Reg.MB_SRCB_HIT c else Reg.MB_SRCA_HIT c) = 1 ∧
    u.get (if b then Reg.MB_SRCB_SENDER c else Reg.MB_SRCA_SENDER c) = y.toNat ∧
    u.get (if b then Reg.MB_SRCB_LEFT c else Reg.MB_SRCA_LEFT c) = left := by
  have src := srcAddr_cases c b
  have low : ∀ g : Fld, g.addr = srcAddr c b → u.get g = (t.setReg (srcAddr c b) (srcWord y left)).get g :=
    fun g hg => h.get (by omega)
  rw [low _ (by cases b <;> rfl), low _ (by cases b <;> rfl), low _ (by cases b <;> rfl)]
  exact src_get t c b y hl

theorem mailbox_pop_clause (x : Sender) (c : Fin 8) (b : Bool) (s : State) (w : Word) (y : Sender) (q : List (Word × Sender))
    (hr : s.reaches x ((if b then 0x303 else 0x302) + 0x10 * c.val) false = true) (hv : s.serving = true)
    (hx : s.mbReceives c.val (s.mbEnd c.val b) x = true) (hq : (s.mbox c.val).queue b = (w, y) :: q)
    (hh : s.mbHolds c.val x = false) (hl : q.length < 8) :
    ∃ t, exec (.mailboxPop x c ⟨b, []⟩) s = .next t ∧ (t.mbox c.val).queue b = q ∧ t.get (if b then Reg.MB_SRCB_HIT c.val else Reg.MB_SRCA_HIT c.val) = 1 ∧
      t.get (if b then Reg.MB_SRCB_SENDER c.val else Reg.MB_SRCA_SENDER c.val) = y.toNat ∧
      t.get (if b then Reg.MB_SRCB_LEFT c.val else Reg.MB_SRCA_LEFT c.val) = q.length ∧
      (.readData x ((if b then 0x303 else 0x302) + 0x10 * c.val) w) ∈ t.out ∧
      (t.mbox c.val).owed = (s.mbox c.val).owed ++ (if isFirmware x = true ∧ c.val ≤ 4 then [replyTo w] else []) ∧
      (q = [] → (t.mbox c.val).writers b = [] ∧ ∀ z, z ∈ (s.mbox c.val).writers b →
        (∀ h, senderHost z = some h → t.get ((Reg.MB_EVENT_EMPTIED h).at c.val) = 1) ∧ (senderHost z = none → .emptyNotice z c.val ∈ t.out)) := by
  obtain ⟨u, word, raises, ⟨t, rfl⟩, queue, owed, last⟩ := mbTake_facts c.isLt hv hx hh hq
  obtain ⟨hit, sender, left⟩ := raises.src c.isLt hl
  have run := exec_mailboxPop_alone hr
  rw [word] at run
  refine ⟨_, run, (congrArg (fun m : Mailbox => m.queue b) (raises.mbox c.val)).trans queue, (State.get_emit _ _ _).trans hit,
    (State.get_emit _ _ _).trans sender, (State.get_emit _ _ _).trans left, List.mem_append_right _ (List.mem_singleton_self _),
    (congrArg Mailbox.owed (raises.mbox c.val)).trans owed, fun h => ?_⟩
  obtain ⟨writers, told⟩ := last h
  exact ⟨(congrArg (fun m : Mailbox => m.writers b) (raises.mbox c.val)).trans writers,
    fun z hz => ⟨(told z hz).1, fun hn => List.mem_append_left _ ((told z hz).2 hn)⟩⟩

theorem mailbox_held_clause (x : Sender) (c : Fin 8) (b : Bool) (s : State)
    (hr : s.reaches x ((if b then 0x303 else 0x302) + 0x10 * c.val) false = true) (hx : isFirmware x = true) (hc : c.val ≤ 4)
    (hl : 8 < (s.mbox c.val).owed.length + (s.mbox c.val).toA.length) :
    exec (.mailboxPop x c ⟨b, []⟩) s = .next { s with out := s.out ++ [.readData x ((if b then 0x303 else 0x302) + 0x10 * c.val) 0] } := by
  have holds : s.mbHolds c.val x = true := by
    unfold State.mbHolds
    rw [hx, Bool.true_and]
    exact decide_eq_true ⟨hc, hl⟩
  rw [exec_mailboxPop_alone hr, mbTake_held b false holds]
  rfl

theorem poss_granted_clause (x : Sender) (k : Fin 32) (s : State) (hr : s.reaches x (0x380 + k.val) false = true)
    (hv : s.serving = true) (ho : s.possOwner k.val = none) :
    ∃ t, exec (.possRead x k) s = .next t ∧ t.possOwner k.val = some x ∧ t.out = s.out ++ [.readData x (0x380 + k.val) (BitVec.ofNat 18 (2 ^ 17 + x.toNat))] ∧
      ∀ j, j ≠ k.val → t.possOwner j = s.possOwner j := by
  have grant : s.possRead x k.val = (s.setPoss k.val (some x), BitVec.ofNat 18 (2 ^ 17 + x.toNat)) := by
    unfold State.possRead
    rw [if_pos hv, ho]
  have run : exec (.possRead x k) s = .next ((s.possRead x k.val).1.answer x (0x380 + k.val) (s.possRead x k.val).2) :=
    congrArg Host.Outcome.next (if_pos hr)
  rw [grant] at run
  exact ⟨_, run, s.possOwner_setPoss_same k.val (some x), rfl, fun j hj => s.possOwner_setPoss_ne (some x) hj⟩

theorem poss_held_clause (x o : Sender) (k : Fin 32) (s : State) (hr : s.reaches x (0x380 + k.val) false = true)
    (hv : s.serving = true) (ho : s.possOwner k.val = some o) :
    exec (.possRead x k) s = .next { s with out := s.out ++ [.readData x (0x380 + k.val) (BitVec.ofNat 18 o.toNat)] } := by
  have held : s.possRead x k.val = (s, BitVec.ofNat 18 o.toNat) := by
    unfold State.possRead
    rw [if_pos hv, ho]
  have run : exec (.possRead x k) s = .next ((s.possRead x k.val).1.answer x (0x380 + k.val) (s.possRead x k.val).2) :=
    congrArg Host.Outcome.next (if_pos hr)
  rw [run, held]
  rfl

theorem poss_release_clause (x : Sender) (k : Fin 32) (v : Word) (s : State) (hr : s.reaches x (0x380 + k.val) true = true)
    (hv : s.serving = true) :
    ∃ t, exec (.possRelease x k v) s = .next t ∧ (∀ j, j ≠ k.val → t.possOwner j = s.possOwner j) ∧
      t.possOwner k.val = if s.possOwner k.val = some x ∧ bits v.toNat 3 0 = x.toNat then none else s.possOwner k.val := by
  refine ⟨_, congrArg Host.Outcome.next (if_pos hr), ?_⟩
  unfold State.possWrite
  by_cases h : s.possOwner k.val = some x ∧ bits v.toNat 3 0 = x.toNat
  · rw [if_pos ⟨hv, h⟩, if_pos h]
    exact ⟨fun j hj => s.possOwner_setPoss_ne _ hj, s.possOwner_setPoss_same _ _⟩
  · rw [if_neg (fun h' => h h'.2), if_neg h]
    exact ⟨fun _ _ => rfl, rfl⟩

theorem poss_force_clause (x : Sender) (hi : Bool) (v : Word) (s : State)
    (hr : s.reaches x (if hi then 0x3B3 else 0x3B2) true = true) (hv : s.serving = true) (hx : isH0 x = true) :
    ∃ t, exec (.possForce x hi v) s = .next t ∧
      ∀ k, k < 32 → t.possOwner k = if bit v.toNat (k % 16) = true ∧ decide (16 ≤ k) = hi then none else s.possOwner k := by
  refine ⟨_, congrArg Host.Outcome.next (if_pos hr), fun k hk => ?_⟩
  unfold State.possForce
  rw [if_pos (by rw [hv, hx]; rfl), possOwner_freed]
  exact if_congr (forced_iff v.toNat hi hk) rfl rfl

theorem poss_notForced_clause (x : Sender) (hi : Bool) (v : Word) (s : State) (hx : isH0 x = false) :
    exec (.possForce x hi v) s = .next s := by
  have kept : s.possForce x hi v = s := if_neg (by rw [hx, Bool.and_false]; decide)
  refine congrArg Host.Outcome.next ?_
  rw [kept, ite_self]

/-- Settles O24. -/
theorem mailboxesAndPossession : Obligations.MailboxesAndPossession :=
  ⟨mailbox_write_clause, mailbox_refused_clause, mailbox_two_clause, mailbox_popWrite_clause, mailbox_empty_clause,
    mailbox_pop_clause, mailbox_held_clause, poss_granted_clause, poss_held_clause, poss_release_clause, poss_force_clause,
    poss_notForced_clause⟩

end Sys2Proof.Machine

namespace Sys2Proof.Machine
open Sys2Proof

/-! What an alarm's operations leave (R330, R331, R332): support for O27 -/

/-- From `s` to `t` alarm k fired or began a computation, or did nothing: the time, the next instants and the power stay; of the
registers RTC_EVENT gains bits, the standby hold may clear, and BUSY may rise. -/
structure Alarmed (k : Nat) (s t : State) : Prop where
  now : t.rtc.now = s.rtc.now
  next : t.rtc.next = s.rtc.next
  pwr : t.pwr = s.pwr
  reg : ∀ a, a ≠ 0x21C → a ≠ 0x12B → a ≠ 0x210 + 4 * k → t.reg a = s.reg a
  stays : ∀ g : Fld, g.addr = 0x21C → g.hi < 18 → g.lo = g.hi → s.get g = 1 → t.get g = 1
  apart : ∀ g : Fld, g.addr = 0x210 + 4 * k → g.hi < 18 → g.hi < 4 ∨ 4 < g.lo → t.get g = s.get g

theorem Alarmed.refl (k : Nat) (s : State) : Alarmed k s s :=
  ⟨rfl, rfl, rfl, fun _ _ _ _ => rfl, fun _ _ _ _ h => h, fun _ _ _ _ => rfl⟩

theorem Alarmed.trans {k : Nat} {s t u : State} (h1 : Alarmed k s t) (h2 : Alarmed k t u) : Alarmed k s u where
  now := h2.now.trans h1.now
  next := h2.next.trans h1.next
  pwr := h2.pwr.trans h1.pwr
  reg a ha hb hc := (h2.reg a ha hb hc).trans (h1.reg a ha hb hc)
  stays g ha hg hl h := h2.stays g ha hg hl (h1.stays g ha hg hl h)
  apart g ha hg hl := (h2.apart g ha hg hl).trans (h1.apart g ha hg hl)

theorem Alarmed.get {k : Nat} {s t : State} (h : Alarmed k s t) {g : Fld} (ha : g.addr ≠ 0x21C) (hb : g.addr ≠ 0x12B)
    (hc : g.addr ≠ 0x210 + 4 * k) : t.get g = s.get g := by
  unfold State.get
  rw [h.reg _ ha hb hc]

/-- The other alarm's registers and its next instant stay. -/
theorem Alarmed.other {k j : Nat} {s t : State} (h : Alarmed k s t) (hj : j < 2) (hjk : j ≠ k) :
    t.alarmNext j = s.alarmNext j ∧ t.get (Reg.RTC_ALM_0_EN j) = s.get (Reg.RTC_ALM_0_EN j) ∧
    t.get (Reg.RTC_ALM_0_BUSY j) = s.get (Reg.RTC_ALM_0_BUSY j) := by
  have same : ∀ hi lo, t.get ⟨0x210 + 4 * j, hi, lo⟩ = s.get ⟨0x210 + 4 * j, hi, lo⟩ := fun hi lo =>
    h.get (by dsimp only; omega) (by dsimp only; omega) (by dsimp only; omega)
  refine ⟨?_, same 17 17, same 4 4⟩
  unfold State.alarmNext State.flag
  rw [show t.get (Reg.RTC_ALM_0_BUSY j) = _ from same 4 4, show t.get (Reg.RTC_ALM_0_NONE j) = _ from same 5 5, h.next]
  rfl

theorem almEvent_addr (k : Nat) : (almEvent k).addr = 0x21C := by
  unfold almEvent
  split <;> rfl

theorem skipEvent_addr (k : Nat) : (skipEvent k).addr = 0x21C := by
  unfold skipEvent
  split <;> rfl

theorem almEvent_bit (k : Nat) : (almEvent k).lo = (almEvent k).hi ∧ (almEvent k).hi < 2 := by
  unfold almEvent
  split <;> decide

theorem skipEvent_bit (k : Nat) : (skipEvent k).lo = (skipEvent k).hi ∧ 2 ≤ (skipEvent k).hi ∧ (skipEvent k).hi < 18 := by
  unfold skipEvent
  split <;> decide

theorem Alarmed.rtcEvent {k : Nat} (hk : k < 2) (s : State) {ev : Fld} (ha : ev.addr = 0x21C) (hl : ev.lo = ev.hi) :
    Alarmed k s (s.rtcEvent ev) where
  now := congrArg Clock.now (event_rtc _ _ _ _ _)
  next := congrArg Clock.next (event_rtc _ _ _ _ _)
  pwr := event_pwr _ _ _ _ _
  reg a h _ _ := event_reg_ne _ _ _ _ _ _ (by omega)
  stays g _ hg hgl h := by
    have put := s.put_one_stays hl hg hgl h
    unfold State.get at put ⊢
    rw [show (s.rtcEvent ev).reg g.addr = _ from event_reg _ _ _ _ _ _]
    exact put
  apart g h _ _ := event_get_ne _ _ _ _ _ _ (by omega)

theorem clearHold_cases (s : State) : s.clearHold = s ∨ s.clearHold = s.put Reg.SUP_PWR_HOLD 0 := by
  unfold State.clearHold
  split
  · exact .inl rfl
  · exact .inr rfl

theorem Alarmed.clearHold {k : Nat} (hk : k < 2) (s : State) : Alarmed k s s.clearHold := by
  obtain eq | eq := clearHold_cases s <;> rw [eq]
  · exact .refl k s
  · have other : ∀ g : Fld, g.addr ≠ 0x12B → (s.put Reg.SUP_PWR_HOLD 0).get g = s.get g := fun g hg => State.get_put_ne _ _ hg
    exact ⟨rfl, rfl, rfl, fun a _ h _ => s.reg_put_ne 0 h, fun g ha _ _ h => (other g (by omega)).trans h,
      fun g ha _ _ => other g (by omega)⟩

theorem Alarmed.compute {k : Nat} (hk : k < 2) (s : State) : Alarmed k s (s.alarmCompute k) where
  now := rfl
  next := rfl
  pwr := rfl
  reg a _ _ h := s.reg_put_ne 1 h
  stays g ha _ _ h := (s.get_put_ne 1 (show g.addr ≠ 0x210 + 4 * k by omega)).trans h
  apart g _ hg hl := State.get_put_apart (f := Reg.RTC_ALM_0_BUSY k) s 1 hg hl

theorem alarmCompute_busy (s : State) (k : Nat) : (s.alarmCompute k).get (Reg.RTC_ALM_0_BUSY k) = 1 :=
  State.get_put_same s _ 1 (lt_rfl rfl) (lt_rfl rfl)

/-- A firing before the computation it starts: the event, SKIPPED where told, and the standby hold (R330). -/
def State.alarmRing (s : State) (k : Nat) (skipped : Bool) : State :=
  let s1 := s.rtcEvent (almEvent k)
  let s2 := if skipped then s1.rtcEvent (skipEvent k) else s1
  if s2.flag (Reg.RTC_ALM_0_WAKE k) then s2.clearHold else s2

theorem alarmFire_eq (s : State) (k : Nat) (skipped : Bool) : s.alarmFire k skipped = (s.alarmRing k skipped).alarmCompute k := rfl

/-- A firing raises the alarm's event, and its SKIPPED event where told (R330, R332). -/
theorem alarmRing_facts {k : Nat} (hk : k < 2) (s : State) (skipped : Bool) : Alarmed k s (s.alarmRing k skipped) ∧
    (s.alarmRing k skipped).get (almEvent k) = 1 ∧ (skipped = true → (s.alarmRing k skipped).get (skipEvent k) = 1) ∧
    (skipped = false → (s.alarmRing k skipped).get (skipEvent k) = s.get (skipEvent k)) := by
  obtain ⟨almBit, almLow⟩ := almEvent_bit k
  obtain ⟨skipBit, skipHigh, skipLt⟩ := skipEvent_bit k
  have alm : (s.rtcEvent (almEvent k)).get (almEvent k) = 1 := event_get_same _ _ _ _ _ (by omega) almBit.symm
  have hold : ∀ t : State, Alarmed k t (if t.flag (Reg.RTC_ALM_0_WAKE k) then t.clearHold else t) ∧
      ∀ g : Fld, g.addr = 0x21C → (if t.flag (Reg.RTC_ALM_0_WAKE k) then t.clearHold else t).get g = t.get g := by
    intro t
    split
    · refine ⟨.clearHold hk t, fun g hg => ?_⟩
      obtain eq | eq := clearHold_cases t <;> rw [eq]
      exact State.get_put_ne _ _ (show g.addr ≠ 0x12B by omega)
    · exact ⟨.refl k t, fun _ _ => rfl⟩
  have first := Alarmed.rtcEvent hk s (almEvent_addr k) almBit
  cases skipped with
  | false =>
    obtain ⟨keeps, same⟩ := hold (s.rtcEvent (almEvent k))
    refine ⟨first.trans keeps, (same _ (almEvent_addr k)).trans alm, fun h => absurd h (by decide),
      fun _ => (same _ (skipEvent_addr k)).trans (event_get_apart _ _ _ _ _ _ skipLt (.inr (by omega)))⟩
  | true =>
    have second := Alarmed.rtcEvent hk (s.rtcEvent (almEvent k)) (skipEvent_addr k) skipBit
    obtain ⟨keeps, same⟩ := hold ((s.rtcEvent (almEvent k)).rtcEvent (skipEvent k))
    exact ⟨(first.trans second).trans keeps,
      (same _ (almEvent_addr k)).trans (second.stays _ (almEvent_addr k) (by omega) almBit alm),
      fun _ => (same _ (skipEvent_addr k)).trans (event_get_same _ _ _ _ _ skipLt skipBit.symm), fun h => absurd h (by decide)⟩

theorem alarmFire_facts {k : Nat} (hk : k < 2) (s : State) (skipped : Bool) : Alarmed k s (s.alarmFire k skipped) ∧
    (s.alarmFire k skipped).get (almEvent k) = 1 ∧ (s.alarmFire k skipped).get (Reg.RTC_ALM_0_BUSY k) = 1 ∧
    (skipped = true → (s.alarmFire k skipped).get (skipEvent k) = 1) ∧
    (skipped = false → (s.alarmFire k skipped).get (skipEvent k) = s.get (skipEvent k)) := by
  obtain ⟨rings, alm, skip, noSkip⟩ := alarmRing_facts hk s skipped
  have later := Alarmed.compute hk (s.alarmRing k skipped)
  have same : ∀ g : Fld, g.addr = 0x21C → ((s.alarmRing k skipped).alarmCompute k).get g = (s.alarmRing k skipped).get g :=
    fun g hg => State.get_put_ne _ _ (show g.addr ≠ 0x210 + 4 * k by omega)
  rw [alarmFire_eq]
  exact ⟨rings.trans later, (same _ (almEvent_addr k)).trans alm, alarmCompute_busy _ k,
    fun h => (same _ (skipEvent_addr k)).trans (skip h), fun h => (same _ (skipEvent_addr k)).trans (noSkip h)⟩

theorem Alarmed.tick {k : Nat} (hk : k < 2) (s : State) : Alarmed k s (s.alarmTick k) := by
  unfold State.alarmTick
  split
  · exact (alarmFire_facts hk s false).1
  · exact .refl k s

theorem Alarmed.set {k : Nat} (hk : k < 2) (s : State) : Alarmed k s (s.alarmSet k) := by
  unfold State.alarmSet
  split
  · split
    · exact (alarmFire_facts hk s true).1
    · exact .compute hk s
  · exact .compute hk s

theorem flag_of_get_one {s : State} {f : Fld} (h : s.get f = 1) : s.flag f = true := decide_eq_true (by omega)

/-- An enabled alarm whose instant the tick has reached fires (R330). -/
theorem alarmTick_fires {k : Nat} {s : State} (he : s.get (Reg.RTC_ALM_0_EN k) = 1) (hn : s.alarmNext k = some s.rtc.now.seconds) :
    s.alarmTick k = s.alarmFire k false :=
  if_pos (by rw [flag_of_get_one he, hn, decide_eq_true rfl]; rfl)

/-- A time set starts the alarm's computation, and fires an alarm it passes with SKIPPED (R332). -/
theorem alarmSet_facts {k : Nat} (hk : k < 2) (s : State) : (s.alarmSet k).get (Reg.RTC_ALM_0_BUSY k) = 1 ∧
    ∀ n, s.alarmNext k = some n → s.get (Reg.RTC_ALM_0_EN k) = 1 → n ≤ s.rtc.now.seconds →
      (s.alarmSet k).get (almEvent k) = 1 ∧ (s.alarmSet k).get (skipEvent k) = 1 := by
  obtain ⟨-, alm, busy, skip, -⟩ := alarmFire_facts hk s true
  constructor
  · unfold State.alarmSet
    split
    · split
      · exact busy
      · exact alarmCompute_busy s k
    · exact alarmCompute_busy s k
  · intro n hn he hle
    unfold State.alarmSet
    rw [hn]
    dsimp only
    rw [if_pos (by rw [flag_of_get_one he, decide_eq_true hle]; rfl)]
    exact ⟨alm, skip rfl⟩

end Sys2Proof.Machine

namespace Sys2Proof.Machine
open Sys2Proof

/-! The clauses of O27 -/

/-- OSF rises with its cause; the other fields of the clock stay (R326). -/
theorem setOsf_effect (s : State) {cause : Fld} (ha : cause.addr = 0x20E) (hl : cause.lo = cause.hi) (hh : cause.hi < 17) :
    (s.setOsf cause).get Reg.RTC_STATUS_OSF = 1 ∧ (s.setOsf cause).get cause = 1 ∧ (s.setOsf cause).rtc = s.rtc ∧
    ∀ a, a ≠ 0x20E → a ≠ 0x21C → (s.setOsf cause).reg a = s.reg a := by
  have status : ((s.put Reg.RTC_STATUS_OSF 1).put cause 1).get Reg.RTC_STATUS_OSF = 1 :=
    (State.get_put_apart _ _ (lt_rfl rfl) (.inr hh)).trans (State.get_put_same _ _ _ (lt_rfl rfl) (lt_rfl rfl))
  have why : ((s.put Reg.RTC_STATUS_OSF 1).put cause 1).get cause = 1 :=
    State.get_put_same _ _ _ (by omega) (by rw [hl, Nat.add_sub_cancel_left]; decide)
  have reg : ∀ a, a ≠ 0x20E → ((s.put Reg.RTC_STATUS_OSF 1).put cause 1).reg a = s.reg a := fun a h =>
    (State.reg_put_ne _ _ (by omega)).trans (State.reg_put_ne _ _ h)
  unfold State.setOsf
  dsimp only
  split
  · exact ⟨status, why, rfl, fun a h _ => reg a h⟩
  · exact ⟨(event_get_ne _ _ _ _ _ _ (by decide)).trans status,
      (event_get_ne _ _ _ _ _ _ (show cause.addr ≠ 0x21C by omega)).trans why, event_rtc _ _ _ _ _,
      fun a h h' => (event_reg_ne _ _ _ _ _ _ h').trans (reg a h)⟩

/-- The clock of `s` after a tick, before its alarms. -/
def State.ticked (s : State) : State :=
  let s1 : State := { s with rtc := { s.rtc with now := s.rtc.now.tick.1 } }
  if s.rtc.now.tick.2 then s1.setOsf Reg.RTC_STATUS_ROLL else s1

theorem exec_rtcTick {s : State} (h : s.clockRuns = true) : exec .rtcTick s = .next s.ticked.alarmsTick :=
  congrArg Host.Outcome.next (if_pos h)

theorem ticked_facts (s : State) : s.ticked.rtc = { s.rtc with now := s.rtc.now.tick.1 } ∧ s.ticked.pwr = s.pwr ∧
    (∀ a, a ≠ 0x20E → a ≠ 0x21C → s.ticked.reg a = s.reg a) ∧
    (s.rtc.now.tick.2 = true → s.ticked.get Reg.RTC_STATUS_OSF = 1 ∧ s.ticked.get Reg.RTC_STATUS_ROLL = 1) := by
  obtain ⟨status, why, rtc, reg⟩ := setOsf_effect ({ s with rtc := { s.rtc with now := s.rtc.now.tick.1 } } : State)
    (cause := Reg.RTC_STATUS_ROLL) rfl rfl (lt_rfl rfl)
  unfold State.ticked
  dsimp only
  split
  · exact ⟨rtc, setOsf_pwr _ _, reg, fun _ => ⟨status, why⟩⟩
  · next h => exact ⟨rfl, rfl, fun _ _ _ => rfl, fun h' => absurd h' h⟩

/-- The alarms' ticks leave the time and RTC_STATUS. -/
theorem alarmsTick_keeps (s : State) : s.alarmsTick.rtc.now = s.rtc.now ∧
    ∀ g : Fld, g.addr = 0x20E → s.alarmsTick.get g = s.get g := by
  have two := fun t : State => And.intro (Alarmed.tick (k := 0) (by decide) t) (Alarmed.tick (k := 1) (by decide) (t.alarmTick 0))
  unfold State.alarmsTick
  split
  · exact ⟨(two s).2.now.trans (two s).1.now, fun g hg => ((two s).2.get (by omega) (by omega) (by omega)).trans
      ((two s).1.get (by omega) (by omega) (by omega))⟩
  · exact ⟨rfl, fun _ _ => rfl⟩

theorem clock_tick_clause (s : State) (h : s.clockRuns = true) (hs : s.rtc.now.subsec < 1023) :
    exec .rtcTick s = .next { s with rtc := { s.rtc with now := { s.rtc.now with subsec := s.rtc.now.subsec + 1 } } } := by
  have tick : s.rtc.now.tick = ({ s.rtc.now with subsec := s.rtc.now.subsec + 1 }, false) := if_pos hs
  have ticked : s.ticked = { s with rtc := { s.rtc with now := { s.rtc.now with subsec := s.rtc.now.subsec + 1 } } } := by
    unfold State.ticked
    rw [tick]
    rfl
  rw [exec_rtcTick h, ticked]
  exact congrArg Host.Outcome.next (if_neg (fun h => Nat.succ_ne_zero _ h.2))

theorem clock_roll_clause (s : State) (h : s.clockRuns = true) : ∃ t, exec .rtcTick s = .next t ∧ t.rtc.now = s.rtc.now.tick.1 ∧
    (s.rtc.now.tick.2 = true → t.get Reg.RTC_STATUS_OSF = 1 ∧ t.get Reg.RTC_STATUS_ROLL = 1) := by
  obtain ⟨rtc, -, -, roll⟩ := ticked_facts s
  obtain ⟨now, status⟩ := alarmsTick_keeps s.ticked
  refine ⟨_, exec_rtcTick h, now.trans (congrArg Clock.now rtc), fun hr => ?_⟩
  obtain ⟨osf, why⟩ := roll hr
  exact ⟨(status _ rfl).trans osf, (status _ rfl).trans why⟩

theorem clock_alarm_clause (k : Fin 2) (s : State) (h : s.clockRuns = true) (ho : s.pwr.st ≠ .off) (hs : s.rtc.now.tick.1.subsec = 0)
    (he : s.get (Reg.RTC_ALM_0_EN k.val) = 1) (hn : s.alarmNext k.val = some s.rtc.now.tick.1.seconds) :
    ∃ t, exec .rtcTick s = .next t ∧ t.get (almEvent k.val) = 1 ∧ t.get (Reg.RTC_ALM_0_BUSY k.val) = 1 := by
  obtain ⟨rtc, pwr, reg, -⟩ := ticked_facts s
  have now : s.ticked.rtc.now = s.rtc.now.tick.1 := congrArg Clock.now rtc
  have alarms : s.ticked.alarmsTick = (s.ticked.alarmTick 0).alarmTick 1 := if_pos ⟨by rw [pwr]; exact ho, by rw [now]; exact hs⟩
  have kept : ∀ j hi lo, j < 2 → s.ticked.get ⟨0x210 + 4 * j, hi, lo⟩ = s.get ⟨0x210 + 4 * j, hi, lo⟩ := by
    intro j hi lo hj
    unfold State.get
    rw [reg _ (by dsimp only; omega) (by dsimp only; omega)]
  have enabled : s.ticked.get (Reg.RTC_ALM_0_EN k.val) = 1 := (kept _ _ _ k.isLt).trans he
  have due : s.ticked.alarmNext k.val = some s.ticked.rtc.now.seconds := by
    rw [now, ← hn]
    unfold State.alarmNext State.flag
    rw [show s.ticked.get (Reg.RTC_ALM_0_BUSY k.val) = _ from kept _ _ _ k.isLt,
      show s.ticked.get (Reg.RTC_ALM_0_NONE k.val) = _ from kept _ _ _ k.isLt, rtc]
    rfl
  refine ⟨_, exec_rtcTick h, ?_⟩
  rw [alarms]
  obtain ⟨k, hk⟩ := k
  obtain rfl | rfl : k = 0 ∨ k = 1 := by omega
  · obtain ⟨-, alm, busy, -⟩ := alarmFire_facts (k := 0) (by decide) s.ticked false
    rw [alarmTick_fires enabled due]
    have later := Alarmed.tick (k := 1) (by decide) (s.ticked.alarmFire 0 false)
    exact ⟨later.stays _ (almEvent_addr 0) (lt_rfl rfl) rfl alm, (later.other (j := 0) (by decide) (by decide)).2.2.trans busy⟩
  · have earlier := Alarmed.tick (k := 0) (by decide) s.ticked
    obtain ⟨next, en, -⟩ := earlier.other (j := 1) (by decide) (by decide)
    rw [alarmTick_fires (en.trans enabled) (next.trans (due.trans (by rw [earlier.now])))]
    obtain ⟨-, alm, busy, -⟩ := alarmFire_facts (k := 1) (by decide) (s.ticked.alarmTick 0) false
    exact ⟨alm, busy⟩

theorem clock_trim_clause (s : State) (h : s.clockRuns = true) :
    exec .trimWindow s = .next { s with rtc := { s.rtc with trim := signed 10 (s.get Reg.RTC_CTL_TRIM) } } :=
  congrArg Host.Outcome.next (if_pos h)

/-! Alarm writes and computations -/

/-- A field of a word written under a mask: the written word's where the mask has it, the old word's where it has not. -/
theorem bits_masked (r v m : Word) {hi : Nat} (lo : Nat) (hh : hi < 18) :
    ((∀ i, i < hi + 1 → lo ≤ i → m.getLsbD i = true) → bits ((r &&& ~~~m) ||| (v &&& m)).toNat hi lo = bits v.toNat hi lo) ∧
    ((∀ i, i < hi + 1 → lo ≤ i → m.getLsbD i = false) → bits ((r &&& ~~~m) ||| (v &&& m)).toNat hi lo = bits r.toNat hi lo) := by
  constructor <;>
  · intro h
    refine Nat.eq_of_testBit_eq fun i => ?_
    rw [bits_testBit, bits_testBit]
    by_cases hi' : i < hi + 1 - lo
    · have hm := h (lo + i) (by omega) (by omega)
      have hw : lo + i < 18 := by omega
      rw [BitVec.testBit_toNat, BitVec.testBit_toNat, BitVec.getLsbD_or, BitVec.getLsbD_and, BitVec.getLsbD_and,
        BitVec.getLsbD_not, hm, decide_eq_true hw]
      simp only [Bool.and_true, Bool.and_false, Bool.not_true, Bool.not_false, Bool.false_or, Bool.or_false]
    · rw [decide_eq_false hi', Bool.false_and, Bool.false_and]

/-- The word that a write leaves in an alarm register, and the computation it starts. -/
theorem exec_alarmWrite {x : Sender} {k : Fin 2} {w : Fin 3} {s : State} (v : Word)
    (hr : s.reaches x (0x210 + 4 * k.val + w.val) true = true) (hx : isH0 x = true) :
    exec (.alarmWrite x k w v) s = .next ((s.setReg (0x210 + 4 * k.val + w.val)
      ((s.reg (0x210 + 4 * k.val + w.val) &&& ~~~(almMask w.val)) ||| (v &&& almMask w.val))).alarmCompute k.val) :=
  congrArg Host.Outcome.next ((if_pos hr).trans (if_pos hx))

/-- A field of the written register after an alarm write: the written value's, or the old one's, as the mask says. -/
theorem alarmWrite_field (s : State) (k w : Nat) (v : Word) {hi lo : Nat} (hh : hi < 18) (hb : w = 0 → hi < 4 ∨ 4 < lo) :
    let t := (s.setReg (0x210 + 4 * k + w) ((s.reg (0x210 + 4 * k + w) &&& ~~~(almMask w)) ||| (v &&& almMask w))).alarmCompute k
    ((∀ i, i < hi + 1 → lo ≤ i → (almMask w).getLsbD i = true) → t.get ⟨0x210 + 4 * k + w, hi, lo⟩ = bits v.toNat hi lo) ∧
    ((∀ i, i < hi + 1 → lo ≤ i → (almMask w).getLsbD i = false) → t.get ⟨0x210 + 4 * k + w, hi, lo⟩ = s.get ⟨0x210 + 4 * k + w, hi, lo⟩) := by
  intro t
  have written : t.get ⟨0x210 + 4 * k + w, hi, lo⟩ =
      bits ((s.reg (0x210 + 4 * k + w) &&& ~~~(almMask w)) ||| (v &&& almMask w)).toNat hi lo := by
    refine Eq.trans ?_ (State.get_setReg_same s ⟨0x210 + 4 * k + w, hi, lo⟩ _)
    by_cases hw : w = 0
    · exact State.get_put_apart _ _ hh (hb hw)
    · exact State.get_put_ne _ _ (show 0x210 + 4 * k + w ≠ 0x210 + 4 * k by omega)
  rw [written]
  exact bits_masked _ _ _ lo hh

theorem clock_alarmWrite_clause (x : Sender) (k : Fin 2) (w : Fin 3) (v : Word) (s : State)
    (hr : s.reaches x (0x210 + 4 * k.val + w.val) true = true) (hx : isH0 x = true) :
    ∃ t, exec (.alarmWrite x k w v) s = .next t ∧ t.get (Reg.RTC_ALM_0_BUSY k.val) = 1 ∧ Map.get (fun _ => {}) t.rtc.start k.val = s.rtc.now ∧
      (w.val = 0 → t.get (Reg.RTC_ALM_0_EN k.val) = bits v.toNat 17 17 ∧ t.get (Reg.RTC_ALM_0_WAKE k.val) = bits v.toNat 16 16 ∧
        t.get (Reg.RTC_ALM_0_MASK k.val) = bits v.toNat 15 9 ∧ t.get (Reg.RTC_ALM_0_WDAY k.val) = bits v.toNat 8 6 ∧
        t.get (Reg.RTC_ALM_0_NONE k.val) = s.get (Reg.RTC_ALM_0_NONE k.val)) ∧
      (w.val = 1 → t.get (Reg.RTC_ALM_1_MIN k.val) = bits v.toNat 16 11 ∧ t.get (Reg.RTC_ALM_1_SEC k.val) = bits v.toNat 10 5 ∧
        t.get (Reg.RTC_ALM_1_HOUR k.val) = bits v.toNat 4 0) ∧
      (w.val = 2 → t.get (Reg.RTC_ALM_2_YEAR k.val) = bits v.toNat 16 9 ∧ t.get (Reg.RTC_ALM_2_MONTH k.val) = bits v.toNat 8 5 ∧
        t.get (Reg.RTC_ALM_2_DAY k.val) = bits v.toNat 4 0) := by
  refine ⟨_, exec_alarmWrite v hr hx, alarmCompute_busy _ _, Map.get_set_same _ _ _ _, ?_, ?_, ?_⟩
  · intro hw
    rw [hw]
    exact ⟨(alarmWrite_field s k.val 0 v (hi := 17) (lo := 17) (by decide) (fun _ => by decide)).1 (by decide),
      (alarmWrite_field s k.val 0 v (hi := 16) (lo := 16) (by decide) (fun _ => by decide)).1 (by decide),
      (alarmWrite_field s k.val 0 v (hi := 15) (lo := 9) (by decide) (fun _ => by decide)).1 (by decide),
      (alarmWrite_field s k.val 0 v (hi := 8) (lo := 6) (by decide) (fun _ => by decide)).1 (by decide),
      (alarmWrite_field s k.val 0 v (hi := 5) (lo := 5) (by decide) (fun _ => by decide)).2 (by decide)⟩
  · intro hw
    rw [hw, show Reg.RTC_ALM_1_MIN k.val = ⟨0x210 + 4 * k.val + 1, 16, 11⟩ from congrArg (Fld.mk · 16 11) (by omega),
      show Reg.RTC_ALM_1_SEC k.val = ⟨0x210 + 4 * k.val + 1, 10, 5⟩ from congrArg (Fld.mk · 10 5) (by omega),
      show Reg.RTC_ALM_1_HOUR k.val = ⟨0x210 + 4 * k.val + 1, 4, 0⟩ from congrArg (Fld.mk · 4 0) (by omega)]
    exact ⟨(alarmWrite_field s k.val 1 v (by decide) (fun h => absurd h (by decide))).1 (by decide),
      (alarmWrite_field s k.val 1 v (by decide) (fun h => absurd h (by decide))).1 (by decide),
      (alarmWrite_field s k.val 1 v (by decide) (fun h => absurd h (by decide))).1 (by decide)⟩
  · intro hw
    rw [hw, show Reg.RTC_ALM_2_YEAR k.val = ⟨0x210 + 4 * k.val + 2, 16, 9⟩ from congrArg (Fld.mk · 16 9) (by omega),
      show Reg.RTC_ALM_2_MONTH k.val = ⟨0x210 + 4 * k.val + 2, 8, 5⟩ from congrArg (Fld.mk · 8 5) (by omega),
      show Reg.RTC_ALM_2_DAY k.val = ⟨0x210 + 4 * k.val + 2, 4, 0⟩ from congrArg (Fld.mk · 4 0) (by omega)]
    exact ⟨(alarmWrite_field s k.val 2 v (by decide) (fun h => absurd h (by decide))).1 (by decide),
      (alarmWrite_field s k.val 2 v (by decide) (fun h => absurd h (by decide))).1 (by decide),
      (alarmWrite_field s k.val 2 v (by decide) (fun h => absurd h (by decide))).1 (by decide)⟩

theorem clock_alarmRefused_clause (x : Sender) (k : Fin 2) (w : Fin 3) (v : Word) (s : State) (hx : isH0 x = false) :
    exec (.alarmWrite x k w v) s = .next s := by
  have kept : s.alarmWrite x k.val w.val v = s := if_neg (by rw [hx]; decide)
  refine congrArg Host.Outcome.next ?_
  rw [kept, ite_self]

end Sys2Proof.Machine

namespace Sys2Proof.Machine
open Sys2Proof

/-- The alarm's next instant, in the retained state. -/
def State.setNext (s : State) (k : Nat) (r : Option Nat) : State :=
  { s with rtc := { s.rtc with next := Map.set (fun _ => none) s.rtc.next k r } }

theorem State.get_setNext (s : State) (k : Nat) (r : Option Nat) (g : Fld) : (s.setNext k r).get g = s.get g := rfl

/-- The end of a computation in BUSY, NONE and the alarm's next instant (R331). -/
def State.alarmNoted (s : State) (k : Nat) (r : Option Nat) : State :=
  ((s.put (Reg.RTC_ALM_0_BUSY k) 0).put (Reg.RTC_ALM_0_NONE k) (b2n r.isNone)).setNext k r

theorem alarmNoted_facts (s : State) (k : Nat) (r : Option Nat) : (s.alarmNoted k r).get (Reg.RTC_ALM_0_BUSY k) = 0 ∧
    (s.alarmNoted k r).get (Reg.RTC_ALM_0_NONE k) = b2n r.isNone ∧
    (s.alarmNoted k r).get (Reg.RTC_ALM_0_EN k) = s.get (Reg.RTC_ALM_0_EN k) ∧
    (∀ g : Fld, g.addr ≠ 0x210 + 4 * k → (s.alarmNoted k r).get g = s.get g) ∧
    Map.get (fun _ => none) (s.alarmNoted k r).rtc.next k = r ∧ (s.alarmNoted k r).rtc.now = s.rtc.now := by
  have regs : ∀ g : Fld, (s.alarmNoted k r).get g =
      ((s.put (Reg.RTC_ALM_0_BUSY k) 0).put (Reg.RTC_ALM_0_NONE k) (b2n r.isNone)).get g := State.get_setNext _ k r
  refine ⟨?_, ?_, ?_, fun g hg => ?_, ?_, rfl⟩
  · rw [regs, State.get_put_apart _ _ (lt_rfl rfl) (.inl (lt_rfl rfl))]
    exact State.get_put_same s _ 0 (lt_rfl rfl) (lt_rfl rfl)
  · rw [regs]
    exact State.get_put_same _ (Reg.RTC_ALM_0_NONE k) _ (lt_rfl rfl) (b2n_lt _)
  · rw [regs, State.get_put_apart _ _ (lt_rfl rfl) (.inr (lt_rfl rfl)), State.get_put_apart _ _ (lt_rfl rfl) (.inr (lt_rfl rfl))]
  · rw [regs]
    exact State.get_put_two s _ _ hg hg
  · exact Map.get_set_same (fun _ => none) s.rtc.next k r

/-- The end of a computation with an instant, before an instant already passed fires: RTC_NEXT shows it. -/
def State.alarmShown (s : State) (k n : Nat) : State :=
  (s.alarmNoted k (some n)).put36 (Reg.RTC_NEXT_LO k) (Reg.RTC_NEXT_HI k) (n * 1024 % 2 ^ 36)

theorem get36_put36 (s : State) {lo hi : Fld} {v : Nat} (h : lo.addr ≠ hi.addr) (hv : v < 2 ^ 36) : (s.put36 lo hi v).get36 lo hi = v := by
  unfold State.get36 State.put36
  rw [State.reg_setReg_same, State.reg_setReg_ne _ _ h, State.reg_setReg_same, BitVec.toNat_ofNat, BitVec.toNat_ofNat,
    Nat.mod_eq_of_lt (show v / 2 ^ 18 < 2 ^ 18 by omega)]
  omega

theorem alarmShown_facts (s : State) {k : Nat} (hk : k < 2) (n : Nat) :
    (s.alarmShown k n).get36 (Reg.RTC_NEXT_LO k) (Reg.RTC_NEXT_HI k) = n * 1024 % 2 ^ 36 ∧
    (∀ g : Fld, g.addr < 0x218 ∨ g.addr = 0x21C → (s.alarmShown k n).get g = (s.alarmNoted k (some n)).get g) ∧
    (s.alarmShown k n).rtc = (s.alarmNoted k (some n)).rtc := by
  refine ⟨get36_put36 _ (show 0x218 + 2 * k ≠ 0x219 + 2 * k by omega) (Nat.mod_lt _ (by decide)), fun g hg => ?_, rfl⟩
  exact (State.get_setReg_ne _ _ (show g.addr ≠ 0x219 + 2 * k by omega)).trans
    (State.get_setReg_ne _ _ (show g.addr ≠ 0x218 + 2 * k by omega))

theorem alarmDone_none {s : State} {k : Nat} (h : s.nextInstant k (Map.get (fun _ => {}) s.rtc.start k) = none) :
    s.alarmDone k = s.alarmNoted k none := by
  unfold State.alarmDone
  rw [h]
  rfl

theorem alarmDone_some {s : State} {k n : Nat} (h : s.nextInstant k (Map.get (fun _ => {}) s.rtc.start k) = some n) :
    s.alarmDone k = if (s.alarmShown k n).flag (Reg.RTC_ALM_0_EN k) && decide (n ≤ (s.alarmShown k n).rtc.now.seconds) then
      (s.alarmShown k n).alarmFire k false else s.alarmShown k n := by
  unfold State.alarmDone
  rw [h]
  rfl

theorem exec_alarmComputeDone {k : Fin 2} {s : State} (ho : s.pwr.st ≠ .off) (hb : s.get (Reg.RTC_ALM_0_BUSY k.val) = 1) :
    exec (.alarmComputeDone k) s = .next (s.alarmDone k.val) :=
  congrArg Host.Outcome.next (if_pos ⟨ho, flag_of_get_one hb⟩)

theorem clock_computeNone_clause (k : Fin 2) (s : State) (ho : s.pwr.st ≠ .off) (hb : s.get (Reg.RTC_ALM_0_BUSY k.val) = 1)
    (hn : s.nextInstant k.val (Map.get (fun _ => {}) s.rtc.start k.val) = none) :
    ∃ t, exec (.alarmComputeDone k) s = .next t ∧ t.get (Reg.RTC_ALM_0_BUSY k.val) = 0 ∧ t.get (Reg.RTC_ALM_0_NONE k.val) = 1 := by
  obtain ⟨busy, none_, -⟩ := alarmNoted_facts s k.val none
  refine ⟨_, exec_alarmComputeDone ho hb, ?_⟩
  rw [alarmDone_none hn]
  exact ⟨busy, none_⟩

theorem clock_computeNext_clause (k : Fin 2) (s : State) (n : Nat) (ho : s.pwr.st ≠ .off) (hb : s.get (Reg.RTC_ALM_0_BUSY k.val) = 1)
    (hn : s.nextInstant k.val (Map.get (fun _ => {}) s.rtc.start k.val) = some n) :
    ∃ t, exec (.alarmComputeDone k) s = .next t ∧ t.get36 (Reg.RTC_NEXT_LO k.val) (Reg.RTC_NEXT_HI k.val) = n * 1024 % 2 ^ 36 ∧
      t.get (Reg.RTC_ALM_0_NONE k.val) = 0 ∧
      (s.rtc.now.seconds < n ∨ s.get (Reg.RTC_ALM_0_EN k.val) = 0 → t.get (Reg.RTC_ALM_0_BUSY k.val) = 0 ∧ t.alarmNext k.val = some n) ∧
      (n ≤ s.rtc.now.seconds → s.get (Reg.RTC_ALM_0_EN k.val) = 1 → t.get (almEvent k.val) = 1 ∧ t.get (Reg.RTC_ALM_0_BUSY k.val) = 1 ∧
        t.get (skipEvent k.val) = s.get (skipEvent k.val)) := by
  have hk := k.isLt
  obtain ⟨busy, none_, en, other, next, now⟩ := alarmNoted_facts s k.val (some n)
  obtain ⟨shown, below, rtc⟩ := alarmShown_facts s hk n
  have alm : ∀ hi lo, (s.alarmShown k.val n).get ⟨0x210 + 4 * k.val, hi, lo⟩ = (s.alarmNoted k.val (some n)).get ⟨0x210 + 4 * k.val, hi, lo⟩ :=
    fun hi lo => below _ (.inl (show 0x210 + 4 * k.val < 0x218 by omega))
  have enabled : (s.alarmShown k.val n).flag (Reg.RTC_ALM_0_EN k.val) = s.flag (Reg.RTC_ALM_0_EN k.val) :=
    congrArg (fun v : Nat => decide (v ≠ 0)) ((alm 17 17).trans en)
  have time : (s.alarmShown k.val n).rtc.now = s.rtc.now := (congrArg Clock.now rtc).trans now
  refine ⟨_, exec_alarmComputeDone ho hb, ?_⟩
  rw [alarmDone_some hn, enabled, time]
  by_cases fires : s.flag (Reg.RTC_ALM_0_EN k.val) = true ∧ n ≤ s.rtc.now.seconds
  · rw [if_pos (by rw [fires.1, decide_eq_true fires.2]; rfl)]
    obtain ⟨alarmed, alarm, again, -, skip⟩ := alarmFire_facts hk (s.alarmShown k.val n) false
    have on : s.get (Reg.RTC_ALM_0_EN k.val) ≠ 0 := of_decide_eq_true fires.1
    refine ⟨?_, (alarmed.apart _ rfl (lt_rfl rfl) (.inr (lt_rfl rfl))).trans ((alm 5 5).trans none_), fun h => ?_, fun _ _ => ⟨alarm, again, ?_⟩⟩
    · have lo : ((s.alarmShown k.val n).alarmFire k.val false).reg (0x218 + 2 * k.val) = (s.alarmShown k.val n).reg (0x218 + 2 * k.val) :=
        alarmed.reg _ (by omega) (by omega) (by omega)
      have hi : ((s.alarmShown k.val n).alarmFire k.val false).reg (0x219 + 2 * k.val) = (s.alarmShown k.val n).reg (0x219 + 2 * k.val) :=
        alarmed.reg _ (by omega) (by omega) (by omega)
      exact (congrArg₂ (fun a b : Word => a.toNat + 2 ^ 18 * b.toNat) lo hi).trans shown
    · exact absurd h (not_or.mpr ⟨Nat.not_lt.mpr fires.2, on⟩)
    · refine ((skip rfl).trans (below _ (.inr (skipEvent_addr _)))).trans (other _ ?_)
      rw [skipEvent_addr]
      omega
  · rw [if_neg (by rw [Bool.and_eq_true, decide_eq_true_eq]; exact fires)]
    have quiet : (s.alarmShown k.val n).get (Reg.RTC_ALM_0_BUSY k.val) = 0 := (alm 4 4).trans busy
    have held : (s.alarmShown k.val n).get (Reg.RTC_ALM_0_NONE k.val) = 0 := (alm 5 5).trans none_
    refine ⟨shown, held, fun _ => ⟨quiet, ?_⟩, fun hle he => absurd ⟨flag_of_get_one he, hle⟩ fires⟩
    unfold State.alarmNext
    rw [flag_of_get_zero quiet, flag_of_get_zero held, rtc]
    exact next

/-! Register sets, the time block, and the supply -/

/-- A time set before its alarms: the fields, the trim window, and OSF with its causes (R325, R327, R329). -/
def State.timeTaken (s : State) (c : Calendar) : State :=
  let s1 : State := { s with rtc := { s.rtc with now := c, trim := signed 10 (s.get Reg.RTC_CTL_TRIM) } }
  if s1.pwr.xtal && !s1.pwr.clockHeld then
    s1.putAll [(Reg.RTC_STATUS_OSF, 0), (Reg.RTC_STATUS_ATTACH, 0), (Reg.RTC_STATUS_STOP, 0), (Reg.RTC_STATUS_LOWBAT, 0),
      (Reg.RTC_STATUS_ROLL, 0)]
  else s1

theorem timeSet_eq (s : State) (c : Calendar) : s.timeSet c = ((s.timeTaken c).alarmSet 0).alarmSet 1 := rfl

theorem timeTaken_facts (s : State) (c : Calendar) : (s.timeTaken c).rtc.now = c ∧ (s.timeTaken c).rtc.next = s.rtc.next ∧
    (∀ g : Fld, g.addr ≠ 0x20E → (s.timeTaken c).get g = s.get g) ∧
    (s.pwr.xtal = false → ∀ g : Fld, (s.timeTaken c).get g = s.get g) := by
  unfold State.timeTaken
  dsimp only
  split
  · next h =>
    refine ⟨rfl, rfl, fun g hg => ?_, fun hx => ?_⟩
    · exact (State.get_put_ne _ _ hg).trans ((State.get_put_ne _ _ hg).trans ((State.get_put_ne _ _ hg).trans
        ((State.get_put_ne _ _ hg).trans (State.get_put_ne _ _ hg))))
    · rw [hx] at h
      exact Bool.noConfusion h
  · exact ⟨rfl, rfl, fun _ _ => rfl, fun _ _ => rfl⟩

/-- A time set starts both alarms' computations; one it passes fires with SKIPPED (R332). -/
theorem timeSet_alarms (s : State) (c : Calendar) {k : Nat} (hk : k < 2) : (s.timeSet c).get (Reg.RTC_ALM_0_BUSY k) = 1 ∧
    ∀ n, s.alarmNext k = some n → s.get (Reg.RTC_ALM_0_EN k) = 1 → n ≤ c.seconds →
      (s.timeSet c).get (almEvent k) = 1 ∧ (s.timeSet c).get (skipEvent k) = 1 := by
  obtain ⟨now, next, same, -⟩ := timeTaken_facts s c
  have alm : ∀ hi lo, (s.timeTaken c).get ⟨0x210 + 4 * k, hi, lo⟩ = s.get ⟨0x210 + 4 * k, hi, lo⟩ :=
    fun hi lo => same _ (show 0x210 + 4 * k ≠ 0x20E by omega)
  have due : (s.timeTaken c).alarmNext k = s.alarmNext k := by
    unfold State.alarmNext State.flag
    rw [show (s.timeTaken c).get (Reg.RTC_ALM_0_BUSY k) = _ from alm 4 4,
      show (s.timeTaken c).get (Reg.RTC_ALM_0_NONE k) = _ from alm 5 5, next]
    rfl
  have enabled : (s.timeTaken c).get (Reg.RTC_ALM_0_EN k) = s.get (Reg.RTC_ALM_0_EN k) := alm 17 17
  have first := Alarmed.set (k := 0) (by decide) (s.timeTaken c)
  have second := Alarmed.set (k := 1) (by decide) ((s.timeTaken c).alarmSet 0)
  rw [timeSet_eq]
  obtain rfl | rfl : k = 0 ∨ k = 1 := by omega
  · obtain ⟨busy, fires⟩ := alarmSet_facts (k := 0) (by decide) (s.timeTaken c)
    refine ⟨(second.other (j := 0) (by decide) (by decide)).2.2.trans busy, fun n hn he hle => ?_⟩
    obtain ⟨alarm, skip⟩ := fires n (due.trans hn) (enabled.trans he) (by rw [now]; exact hle)
    exact ⟨second.stays _ (almEvent_addr 0) (lt_rfl rfl) rfl alarm, second.stays _ (skipEvent_addr 0) (lt_rfl rfl) rfl skip⟩
  · obtain ⟨next', en', -⟩ := first.other (j := 1) (by decide) (by decide)
    obtain ⟨busy, fires⟩ := alarmSet_facts (k := 1) (by decide) ((s.timeTaken c).alarmSet 0)
    exact ⟨busy, fun n hn he hle => fires n (next'.trans (due.trans hn)) (en'.trans (enabled.trans he)) (by rw [first.now, now]; exact hle)⟩

/-- Without its crystal the clock keeps OSF through a time set (R327). -/
theorem timeSet_osf_kept (s : State) (c : Calendar) (hx : s.pwr.xtal = false) :
    (s.timeSet c).get Reg.RTC_STATUS_OSF = s.get Reg.RTC_STATUS_OSF := by
  obtain ⟨-, -, -, kept⟩ := timeTaken_facts s c
  rw [timeSet_eq, (Alarmed.set (k := 1) (by decide) _).get (by decide) (by decide) (by decide),
    (Alarmed.set (k := 0) (by decide) _).get (by decide) (by decide) (by decide), kept hx]

theorem clock_set_clause (x : Sender) (s : State) (hr : s.reaches x 0x20C true = true) (hm : s.mayClock x = true)
    (hv : s.setBuffer.valid = true) : ∃ t, exec (.registerSet x) s = .next t ∧ t.rtc.now = s.setBuffer ∧
      (s.pwr.xtal = true → s.pwr.clockHeld = false → t.get Reg.RTC_STATUS_OSF = 0 ∧ t.get Reg.RTC_STATUS_ATTACH = 0 ∧ t.get Reg.RTC_STATUS_STOP = 0 ∧
        t.get Reg.RTC_STATUS_LOWBAT = 0 ∧ t.get Reg.RTC_STATUS_ROLL = 0) ∧
      (s.pwr.xtal = false → t.get Reg.RTC_STATUS_OSF = s.get Reg.RTC_STATUS_OSF) ∧
      ∀ k, k < 2 → t.get (Reg.RTC_ALM_0_BUSY k) = 1 ∧ (∀ n, s.alarmNext k = some n → s.get (Reg.RTC_ALM_0_EN k) = 1 → n ≤ s.setBuffer.seconds →
        t.get (almEvent k) = 1 ∧ t.get (skipEvent k) = 1) := by
  have set : s.registerSet x = s.timeSet s.setBuffer := (if_pos hm).trans (if_pos hv)
  obtain ⟨-, now, -, cleared⟩ := timeSet_facts s s.setBuffer
  refine ⟨_, congrArg Host.Outcome.next ((if_pos hr).trans set), now, fun hx hh => ?_, timeSet_osf_kept s _,
    fun k hk => timeSet_alarms s _ hk⟩
  have zero := cleared hx hh
  exact ⟨zero _ (.inl rfl), zero _ (.inr (.inl rfl)), zero _ (.inr (.inr (.inl rfl))), zero _ (.inr (.inr (.inr (.inl rfl)))),
    zero _ (.inr (.inr (.inr (.inr rfl))))⟩

theorem clock_setBad_clause (x : Sender) (s : State) (hr : s.reaches x 0x20C true = true) (hm : s.mayClock x = true)
    (hv : s.setBuffer.valid = false) :
    ∃ t, exec (.registerSet x) s = .next t ∧ t.get Reg.RTC_EVENT_SET_BAD = 1 ∧ t.rtc = s.rtc ∧ t.get Reg.RTC_STATUS_OSF = s.get Reg.RTC_STATUS_OSF := by
  have bad : s.registerSet x = s.rtcEvent Reg.RTC_EVENT_SET_BAD := (if_pos hm).trans (if_neg (by rw [hv]; decide))
  refine ⟨_, congrArg Host.Outcome.next (if_pos hr), ?_⟩
  rw [bad]
  exact ⟨event_get_same _ _ _ _ _ (lt_rfl rfl) rfl, event_rtc _ _ _ _ _, event_get_ne _ _ _ _ _ _ (by decide)⟩

theorem clock_setRefused_clause (x : Sender) (s : State) (hm : s.mayClock x = false) : exec (.registerSet x) s = .next s := by
  have kept : s.registerSet x = s := if_neg (by rw [hm]; decide)
  refine congrArg Host.Outcome.next ?_
  rw [kept, ite_self]

/-- Another requester's shadow stays (R328). -/
theorem shadow_setShadow_ne (s : State) {x y : Sender} (v : Option (Calendar × Bool)) (h : requester y ≠ requester x) :
    (s.setShadow x v).shadow y = s.shadow y := by
  unfold State.shadow
  rw [show Map.get (fun _ => none) (s.setShadow x v).rtc.shadows (requester y) = _ from Map.get_set_ne _ _ _ h]
  rfl

/-- A read of the time block gives the word of the requester's shadow, and keeps it frozen but after RTC_YEAR. -/
theorem clock_read (x : Sender) (w : Fin 6) (s : State) (hr : s.reaches x (0x200 + w.val) false = true) :
    ∃ t, exec (.timeBlockRead x w) s = .next t ∧ t.out = s.out ++ [.readData x (0x200 + w.val) (timeWord (s.shadow x) w.val)] ∧
      Map.get (fun _ => none) t.rtc.shadows (requester x) = (if w.val = 3 then none else some (s.shadow x)) ∧
      ∀ y, requester y ≠ requester x → t.shadow y = s.shadow y :=
  ⟨_, congrArg Host.Outcome.next (if_pos hr), rfl, Map.get_set_same _ _ _ _, fun _ hy => shadow_setShadow_ne s _ hy⟩

theorem shadow_of {s : State} {x : Sender} {v : Option (Calendar × Bool)} (h : Map.get (fun _ => none) s.rtc.shadows (requester x) = v) :
    s.shadow x = v.getD (s.rtc.now, s.flag Reg.RTC_STATUS_OSF) := by
  unfold State.shadow
  rw [h]
  cases v <;> rfl

theorem clock_readFree_clause (x : Sender) (w : Fin 6) (s : State) (hr : s.reaches x (0x200 + w.val) false = true)
    (hn : Map.get (fun _ => none) s.rtc.shadows (requester x) = none) :
    ∃ t, exec (.timeBlockRead x w) s = .next t ∧
      t.out = s.out ++ [.readData x (0x200 + w.val) (timeWord (s.rtc.now, s.flag Reg.RTC_STATUS_OSF) w.val)] ∧
      Map.get (fun _ => none) t.rtc.shadows (requester x) = (if w.val = 3 then none else some (s.rtc.now, s.flag Reg.RTC_STATUS_OSF)) ∧
      ∀ y, requester y ≠ requester x → t.shadow y = s.shadow y := by
  have read := clock_read x w s hr
  rwa [shadow_of hn] at read

theorem clock_readFrozen_clause (x : Sender) (w : Fin 6) (s : State) (c : Calendar) (o : Bool) (hr : s.reaches x (0x200 + w.val) false = true)
    (hf : Map.get (fun _ => none) s.rtc.shadows (requester x) = some (c, o)) :
    ∃ t, exec (.timeBlockRead x w) s = .next t ∧ t.out = s.out ++ [.readData x (0x200 + w.val) (timeWord (c, o) w.val)] ∧
      Map.get (fun _ => none) t.rtc.shadows (requester x) = (if w.val = 3 then none else some (c, o)) ∧
      ∀ y, requester y ≠ requester x → t.shadow y = s.shadow y := by
  have read := clock_read x w s hr
  rwa [shadow_of hf] at read

theorem clock_release_clause (x : Sender) (s : State) (ho : s.pwr.st ≠ .off) :
    ∃ t, exec (.shadowRelease x) s = .next t ∧ t.shadow x = (s.rtc.now, s.flag Reg.RTC_STATUS_OSF) ∧
      ∀ y, requester y ≠ requester x → t.shadow y = s.shadow y := by
  have released : Map.get (fun _ => none) (s.setShadow x none).rtc.shadows (requester x) = none :=
    Map.get_set_same (fun _ => none) s.rtc.shadows (requester x) none
  exact ⟨_, congrArg Host.Outcome.next (if_neg ho), shadow_of released, fun _ hy => shadow_setShadow_ne s _ hy⟩

theorem clock_retention_clause (s : State) (hr : s.pwr.retained = true) (hh : s.pwr.clockHeld = false) (ho : s.pwr.st = .off) :
    ∃ t, exec .retentionFail s = .next t ∧ t.get Reg.RTC_STATUS_OSF = 1 ∧ t.get Reg.RTC_STATUS_LOWBAT = 1 ∧ t.pwr.clockHeld = true ∧ t.pwr.heldLost = true ∧
      t.rtc = s.rtc ∧ t.clockRuns = false := by
  obtain ⟨status, why, rtc, -⟩ := setOsf_effect s (cause := Reg.RTC_STATUS_LOWBAT) rfl rfl (lt_rfl rfl)
  refine ⟨_, congrArg Host.Outcome.next (if_pos (by rw [hr, hh, ho]; rfl)), status, why, rfl, rfl, rtc, ?_⟩
  unfold State.clockRuns
  exact Bool.and_false _

/-- The registers of the retained state after its attachment (R326, R392). -/
theorem heldAttach_get (s : State) : s.heldAttach.get Reg.RTC_EVENT_OSF = 1 ∧ s.heldAttach.get Reg.SUP_FIRST_SPILL_PENDING = 0 := by
  constructor
  · exact State.get_setReg_same _ Reg.RTC_EVENT_OSF _
  · unfold State.heldAttach
    dsimp only
    rw [State.get_setReg_ne _ _ (by decide), State.get_put_ne _ _ (by decide)]
    have hold : ∀ t : State, t.clearHold.get Reg.SUP_FIRST_SPILL_PENDING = t.get Reg.SUP_FIRST_SPILL_PENDING := by
      intro t
      obtain eq | eq := clearHold_cases t <;> rw [eq]
      exact State.get_put_ne _ _ (by decide)
    rw [hold, State.get_setReg_ne _ _ (by decide)]
    simp only [List.foldl_cons, List.foldl_nil]
    rw [State.get_setReg_ne _ _ (by decide), State.get_setReg_ne _ _ (by decide), State.get_setReg_ne _ _ (by decide),
      State.get_setReg_ne _ _ (by decide)]
    exact State.get_setReg_same _ Reg.SUP_FIRST_SPILL_PENDING _

/-- The clock's own registers after an attachment (R326). -/
theorem attach_get (s : State) (g : Fld) : s.attach.get g =
    ((s.heldAttach.setReg 0x20D 0#18).setReg 0x20E (BitVec.ofNat 18 (2 ^ 17 + 2 ^ 16))).get g := rfl

theorem clock_attach_clause (s : State) (hr : s.pwr.retained = false) :
    ∃ t, exec .cellAttach s = .next t ∧ t.rtc.now = {} ∧ t.get Reg.RTC_STATUS_OSF = 1 ∧ t.get Reg.RTC_STATUS_ATTACH = 1 ∧ t.get Reg.RTC_EVENT_OSF = 1 ∧
      t.get Reg.SUP_FIRST_SPILL_PENDING = 0 ∧ t.get Reg.RTC_CTL = 0 ∧ t.pwr.retained = true ∧ t.pwr.clockHeld = false := by
  have held : ∀ g : Fld, g.addr ≠ 0x20D → g.addr ≠ 0x20E → s.attach.get g = s.heldAttach.get g := fun g h h' => by
    rw [attach_get, State.get_setReg_ne _ _ h', State.get_setReg_ne _ _ h]
  obtain ⟨event, pending⟩ := heldAttach_get s
  refine ⟨_, congrArg Host.Outcome.next (if_neg (by rw [hr]; exact Bool.false_ne_true)), rfl, ?_, ?_, (held _ (by decide) (by decide)).trans event,
    (held _ (by decide) (by decide)).trans pending, ?_, rfl, rfl⟩
  · rw [attach_get]
    exact State.get_setReg_same _ Reg.RTC_STATUS_OSF _
  · rw [attach_get]
    exact State.get_setReg_same _ Reg.RTC_STATUS_ATTACH _
  · rw [attach_get, State.get_setReg_ne _ _ (by decide)]
    exact State.get_setReg_same _ Reg.RTC_CTL _

theorem clock_return_clause (s : State) : exec .vbatReturn s = .next { s with pwr := { s.pwr with clockHeld := false } } := rfl

/-- Settles O27. -/
theorem clockCommands : Obligations.ClockCommands :=
  ⟨clock_tick_clause, clock_roll_clause, clock_alarm_clause, clock_trim_clause, clock_alarmWrite_clause, clock_alarmRefused_clause,
    clock_computeNone_clause, clock_computeNext_clause, clock_set_clause, clock_setBad_clause, clock_setRefused_clause,
    clock_readFree_clause, clock_readFrozen_clause, clock_release_clause, clock_retention_clause, clock_attach_clause, clock_return_clause⟩

end Sys2Proof.Machine

namespace Sys2Proof.Machine
open Sys2Proof

/-! Sweeper's percentage after the last emitter of a station (R353, R354): a refutation of O32.

The clause of the last emitter fixes PCT by the number of units before the command. An emitter found dead raises DEAD, whose message
takes the link of a host out of L1 (R168); a link in L0 brings its lanes as units of the PCIe eye (Table 15-1), so that the cycle goes on
with more units than it had. -/

/-- Sweeper runs the emitters and the PCIe eyes; H1's link of four lanes is in L1, and DEAD of SWP_EVENT reaches H1; the test of
emitter 0 of station 0 reads its result. -/
def deadInL1 : State :=
  { pwr := { st := .run }
    hosts := [(0, { perstN := true, up := true, ready := true, l1 := true, masked := 0#32, cfg := [(0x01, 0x6#32), (0x14, 0x80000000#32)] })]
    regs := [(0x003, 0x3FC4#18), (0x700, 0x02000#18), (0x727, 0x20000#18), (0xD00, 0x20110#18), (0xD01, 0x20000#18), (0xD07, 0x00004#18)]
    stns := [(0, { probe := some (0, .reading) })] }

theorem deadInL1_sweeps : deadInL1.sweeping = true ∧ deadInL1.dev.swept.contains (.emitters 0) = false ∧
    deadInL1.unitExists (.emitters 0) = true := by decide

/-- The eight stations' emitters are its units, and none is tested. -/
theorem deadInL1_units : deadInL1.unitsDone = 0 ∧ deadInL1.unitCount = 8 := by decide

/-- With H1's four lanes the cycle has twelve units, of which one is tested. -/
theorem deadInL1_percentage : ((deadInL1.emitDone 0 0 2).swpFrameEnd 0).get Reg.SWP_STAT_PCT = 8 := by decide

theorem exec_deadInL1 : exec (.emitterTestResult 0 0 (.result 2)) deadInL1 = .next ((deadInL1.emitDone 0 0 2).swpFrameEnd 0) :=
  congrArg Host.Outcome.next (if_pos (by decide))

/-- Refutes O32: the station's last emitter, found dead, leaves PCT 8 and not 12 where the DEAD message ends the L1 of a link. -/
theorem not_sweeperCycles : ¬ Obligations.SweeperCycles := by
  intro h
  obtain ⟨-, -, -, -, -, -, -, -, -, -, -, -, -, -, -, -, -, -, -, lastEmitter, -⟩ := h
  obtain ⟨sweeps, untested, isUnit⟩ := deadInL1_sweeps
  obtain ⟨done, count⟩ := deadInL1_units
  obtain ⟨t, run, -, shown⟩ := lastEmitter 0 0 2#16 deadInL1 sweeps untested rfl rfl
    (.inr (fun k _ _ enabled => absurd enabled (by decide +revert))) isUnit (by rw [done, count]; decide)
  obtain rfl : _ = t := Host.Outcome.next.inj (exec_deadInL1.symm.trans run)
  rw [deadInL1_percentage, done, count] at shown
  exact absurd shown (by decide)

end Sys2Proof.Machine

namespace Sys2Proof.Machine
open Sys2Proof

/-! The results, events and log entries of firmware commands (R358, R376): support for O33, O34 -/

/-- The firmware's record lies beside the registers. -/
theorem State.get_fw (s : State) (f : Firmware) (g : Fld) : ({ s with fw := f } : State).get g = s.get g := rfl

theorem notify_fw (s : State) (c : IClass) (h : PHost) : (s.notify c h).fw = s.fw := by
  rw [(Raises.notify s c h).rest]

theorem event_fw (s : State) (ev : Fld) (en : Nat) (c : IClass) (hs : List PHost) : (s.event ev en c hs).fw = s.fw := by
  unfold State.event
  dsimp only
  split_ifs
  · rfl
  · exact foldl_keeps State.fw (fun t h => notify_fw t c h) hs (s.put ev 1)
  · rfl

theorem log_fw (s : State) (a b c d e : Nat) : (s.log a b c d e).fw = s.fw := by
  unfold State.log
  split <;> rfl

theorem fwEvent_get_same (s : State) {ev : Fld} (h1 : ev.hi < 18) (h2 : ev.hi = ev.lo) : (s.fwEvent ev).get ev = 1 :=
  event_get_same _ _ _ _ _ h1 h2

theorem fwEvent_get_ne (s : State) {ev g : Fld} (h : g.addr ≠ ev.addr) : (s.fwEvent ev).get g = s.get g := event_get_ne _ _ _ _ _ _ h

theorem fwEvent_fw (s : State) (ev : Fld) : (s.fwEvent ev).fw = s.fw := event_fw _ _ _ _ _

theorem fwEvent_arr (s : State) (ev : Fld) : (s.fwEvent ev).arr = s.arr := (event_arr _ _ _ _ _).1

/-- A command's RESULT, with FAIL where it is not 0; the other fields, the array and the firmware's record stay (R376). -/
theorem fwResult_facts (s : State) {r : Nat} (hr : r < 8) : (s.fwResult r).get Reg.FW_STAT_RESULT = r ∧
    (r ≠ 0 → (s.fwResult r).get Reg.FW_EVENT_FAIL = 1) ∧
    (∀ g : Fld, g.addr ≠ 0xE05 ∨ g.hi < 10 ∨ 12 < g.lo → g.hi < 18 → g.addr ≠ 0xE12 → (s.fwResult r).get g = s.get g) ∧
    (s.fwResult r).fw = s.fw ∧ (s.fwResult r).arr = s.arr := by
  have shown : (s.put Reg.FW_STAT_RESULT r).get Reg.FW_STAT_RESULT = r := State.get_put_same _ _ _ (lt_rfl rfl) hr
  have other : ∀ g : Fld, g.addr ≠ 0xE05 ∨ g.hi < 10 ∨ 12 < g.lo → g.hi < 18 → (s.put Reg.FW_STAT_RESULT r).get g = s.get g :=
    fun g h hg =>
      h.elim (fun ha => State.get_put_ne _ _ ha) (fun ha => State.get_put_apart (f := Reg.FW_STAT_RESULT) _ _ hg ha)
  unfold State.fwResult
  dsimp only
  split
  · next h => exact ⟨shown, fun h' => absurd h h', fun g h hg _ => other g h hg, rfl, rfl⟩
  · exact ⟨(fwEvent_get_ne _ (by decide)).trans shown, fun _ => fwEvent_get_same _ (lt_rfl rfl) rfl,
      fun g h hg h' => (fwEvent_get_ne _ h').trans (other g h hg), fwEvent_fw _ _, fwEvent_arr _ _⟩

/-! LOAD (R361) -/

theorem exec_load_may {x : Sender} {s : State} (hr : s.reaches x 0xE00 true = true) (hm : s.fwMay x = true) :
    exec (.load x) s = .next (if s.fwBusy then s.fwResult 7 else (({ (s.put (Reg.FW_SLOT_STATE s.loadTarget) slotLoading).put Reg.FW_STAT_OP opLoad with
      fw := { s.fw with loadSlot := some s.loadTarget, loadBy := x, loadSrc := 64 * (s.get Reg.FW_SRC_LO_SRC + 2 ^ 18 * (s.get Reg.FW_SRC_HI_SRC % 128)),
                        loadLen := 64 * s.get Reg.FW_LEN_LEN } } : State))) :=
  congrArg Host.Outcome.next ((if_pos hr).trans (if_pos hm))

theorem firmware_load_clause (x : Sender) (s : State) (hr : s.reaches x 0xE00 true = true) (hm : s.fwMay x = true) (hb : s.fwBusy = false) :
    ∃ t, exec (.load x) s = .next t ∧ t.get (Reg.FW_SLOT_STATE s.loadTarget) = slotLoading ∧ t.get Reg.FW_STAT_OP = 1 ∧
      t.fw = { s.fw with loadSlot := some s.loadTarget, loadBy := x, loadSrc := 64 * (s.get Reg.FW_SRC_LO_SRC + 2 ^ 18 * (s.get Reg.FW_SRC_HI_SRC % 128)), loadLen := 64 * s.get Reg.FW_LEN_LEN } := by
  have low : s.loadTarget < 2 := by
    unfold State.loadTarget
    dsimp only
    split
    · decide
    · decide
    · split_ifs <;> decide
  refine ⟨_, (exec_load_may hr hm).trans (congrArg Host.Outcome.next (if_neg (by rw [hb]; decide))), ?_, ?_, rfl⟩
  · rw [State.get_fw, State.get_put_ne _ _ (show 0xE08 + s.loadTarget ≠ 0xE05 by omega)]
    exact State.get_put_same s _ slotLoading (lt_rfl rfl) (lt_rfl rfl)
  · rw [State.get_fw]
    exact State.get_put_same _ _ opLoad (lt_rfl rfl) (lt_rfl rfl)

/-- A slot that a LOAD may take before a VALID one (R361). -/
def State.targetFree (s : State) (k : Nat) : Bool := decide (s.slotState k = slotEmpty ∨ s.slotState k = slotRejected ∨ s.slotState k = slotBootFail)

theorem targetFree_valid {s : State} {k : Nat} (h : s.slotState k = slotValid) : ¬s.targetFree k = true := by
  unfold State.targetFree
  rw [h]
  decide

/-- The golden image runs: the target is the first free slot, else the older one (R361). -/
theorem loadTarget_golden {s : State} (h : s.get Reg.FW_STAT_RUN = 2) :
    s.loadTarget = if s.targetFree 0 then 0 else if s.targetFree 1 then 1 else if s.slotVersion 0 < s.slotVersion 1 then 0 else 1 := by
  unfold State.loadTarget
  rw [h]
  rfl

theorem firmware_target_clause (s : State) : (s.get Reg.FW_STAT_RUN = 0 → s.loadTarget = 1) ∧ (s.get Reg.FW_STAT_RUN = 1 → s.loadTarget = 0) ∧
    (s.get Reg.FW_STAT_RUN = 2 → s.slotState 0 = slotValid → s.slotState 1 = slotValid → s.slotVersion 0 = s.slotVersion 1 → s.loadTarget = 1) ∧
    (s.get Reg.FW_STAT_RUN = 2 → s.slotState 0 = slotValid → s.slotState 1 = slotValid → s.slotVersion 0 < s.slotVersion 1 → s.loadTarget = 0) := by
  refine ⟨fun h => ?_, fun h => ?_, fun h h0 h1 hv => ?_, fun h h0 h1 hv => ?_⟩
  · unfold State.loadTarget
    rw [h]
    rfl
  · unfold State.loadTarget
    rw [h]
    rfl
  · rw [loadTarget_golden h, if_neg (targetFree_valid h0), if_neg (targetFree_valid h1), if_neg (by omega)]
  · rw [loadTarget_golden h, if_neg (targetFree_valid h0), if_neg (targetFree_valid h1), if_pos hv]

theorem exec_activate_may {x : Sender} {s : State} (hr : s.reaches x 0xE00 true = true) (hm : s.fwMay x = true) :
    exec (.activate x) s = .next (if s.fwBusy = true ∨ s.bootChoice = goldenImage ∨ s.bootChoice = s.get Reg.FW_STAT_RUN then s.fwResult 7
      else if s.compatOf s.bootChoice ≠ s.compatOf (s.get Reg.FW_STAT_RUN) then s.fwResult 6
      else ((s.put Reg.FW_STAT_OP opActivate).put Reg.FW_STAT_ACT_CLU (s.clusters.headD 0)).setAct
        (some { slot := s.bootChoice, done := [], todo := s.clusters, step := 2, rollback := false })) :=
  congrArg Host.Outcome.next ((if_pos hr).trans (if_pos hm))

theorem exec_erase_may {x : Sender} {s : State} (b : Bool) (hr : s.reaches x 0xE00 true = true) (hm : s.fwMay x = true) :
    exec (.erase x b) s = .next (if s.fwBusy = true ∨ b2n b = s.get Reg.FW_STAT_RUN then s.fwResult 7
      else ({ s.put Reg.FW_STAT_OP opErase with fw := { s.fw with erasing := some (b2n b) } } : State)) :=
  congrArg Host.Outcome.next ((if_pos hr).trans (if_pos hm))

theorem firmware_busy_clause (x : Sender) (b : Bool) (s : State) (hr : s.reaches x 0xE00 true = true) (hm : s.fwMay x = true) (hb : s.fwBusy = true) :
    (∃ t, exec (.load x) s = .next t ∧ t.get Reg.FW_STAT_RESULT = 7 ∧ t.get Reg.FW_EVENT_FAIL = 1 ∧ t.fw = s.fw) ∧
    (∃ t, exec (.activate x) s = .next t ∧ t.get Reg.FW_STAT_RESULT = 7 ∧ t.get Reg.FW_EVENT_FAIL = 1 ∧ t.fw = s.fw) ∧
    (∃ t, exec (.erase x b) s = .next t ∧ t.get Reg.FW_STAT_RESULT = 7 ∧ t.get Reg.FW_EVENT_FAIL = 1 ∧ t.arr = s.arr) := by
  obtain ⟨result, fail, -, fw, arr⟩ := fwResult_facts s (r := 7) (by decide)
  have failed := fail (by decide)
  exact ⟨⟨_, (exec_load_may hr hm).trans (congrArg Host.Outcome.next (if_pos hb)), result, failed, fw⟩,
    ⟨_, (exec_activate_may hr hm).trans (congrArg Host.Outcome.next (if_pos (.inl hb))), result, failed, fw⟩,
    ⟨_, (exec_erase_may b hr hm).trans (congrArg Host.Outcome.next (if_pos (.inl hb))), result, failed, arr⟩⟩

theorem firmware_rights_clause (x : Sender) (b : Bool) (s : State) (hm : s.fwMay x = false) :
    exec (.load x) s = .next s ∧ exec (.activate x) s = .next s ∧ exec (.erase x b) s = .next s := by
  have no : ¬s.fwMay x = true := by rw [hm]; decide
  have kept : ∀ t : State, t = s → (if s.reaches x 0xE00 true then t else s) = s := fun t ht => by rw [ht, ite_self]
  exact ⟨congrArg Host.Outcome.next (kept _ (if_neg no)), congrArg Host.Outcome.next (kept _ (if_neg no)),
    congrArg Host.Outcome.next (kept _ (if_neg no))⟩

/-! The end of a LOAD and of an ERASE -/

theorem exec_loadDone {s : State} (h : s.fw.loadSlot.isSome = true ∨ s.fw.erasing.isSome = true) (hv : s.serving = true)
    (hw : 63 ∉ s.waveRegions) : exec .loadDone s = .next (s.slotDone.settle.watch s) :=
  congrArg Host.Outcome.next (if_pos ⟨h, hv, fun hc => hw (List.contains_iff_mem.mp hc)⟩)

/-- A LOAD ends with its RESULT: the slot is VALID with LOAD_DONE, or REJECTED with FAIL (R361). -/
theorem loadEnd_facts (s : State) {k r : Nat} (hk : k < 2) (hr : r < 8) : (s.loadEnd k r).get Reg.FW_STAT_RESULT = r ∧
    (s.loadEnd k r).get Reg.FW_STAT_OP = 0 ∧ (s.loadEnd k r).fw.loadSlot = none ∧
    (r = 0 → (s.loadEnd k r).get (Reg.FW_SLOT_STATE k) = slotValid ∧ (s.loadEnd k r).get Reg.FW_EVENT_LOAD_DONE = 1) ∧
    (r ≠ 0 → (s.loadEnd k r).get (Reg.FW_SLOT_STATE k) = slotRejected ∧ (s.loadEnd k r).get Reg.FW_EVENT_FAIL = 1) := by
  let s1 := (s.put (Reg.FW_SLOT_STATE k) (if r = 0 then slotValid else slotRejected)).put Reg.FW_STAT_OP 0
  let s2 : State := { s1 with fw := { s1.fw with loadSlot := none } }
  have regs : ∀ g : Fld, s2.get g = s1.get g := State.get_fw s1 _
  have op : s2.get Reg.FW_STAT_OP = 0 := (regs _).trans (State.get_put_same _ _ 0 (lt_rfl rfl) (lt_rfl rfl))
  have slot : s2.get (Reg.FW_SLOT_STATE k) = if r = 0 then slotValid else slotRejected :=
    (regs _).trans ((State.get_put_ne _ _ (show 0xE08 + k ≠ 0xE05 by omega)).trans
      (State.get_put_same s (Reg.FW_SLOT_STATE k) _ (lt_rfl rfl) (by split <;> exact lt_rfl rfl)))
  obtain ⟨result, fail, other, fw, -⟩ := fwResult_facts s2 hr
  have op3 := (other Reg.FW_STAT_OP (.inr (.inr (by decide))) (lt_rfl rfl) (by decide)).trans op
  have slot3 := (other (Reg.FW_SLOT_STATE k) (.inl (show 0xE08 + k ≠ 0xE05 by omega)) (lt_rfl rfl) (show 0xE08 + k ≠ 0xE12 by omega)).trans slot
  have fw3 : (s2.fwResult r).fw.loadSlot = none := congrArg Firmware.loadSlot fw
  by_cases h0 : r = 0
  · have ends : s.loadEnd k r = ((s2.fwResult r).fwEvent Reg.FW_EVENT_LOAD_DONE).log 9 3 k 0 0 := if_pos h0
    rw [if_pos h0] at slot3
    rw [ends]
    have logged : ∀ g : Fld, 0xE00 ≤ g.addr → g.addr ≠ 0xE12 →
        (((s2.fwResult r).fwEvent Reg.FW_EVENT_LOAD_DONE).log 9 3 k 0 0).get g = (s2.fwResult r).get g :=
      fun g h h' => (log_get_ne _ _ _ _ _ _ (by omega) (by omega)).trans (fwEvent_get_ne _ h')
    refine ⟨(logged _ (by decide) (by decide)).trans result, (logged _ (by decide) (by decide)).trans op3, ?_, fun _ => ⟨?_, ?_⟩,
      fun h => absurd h0 h⟩
    · rw [log_fw, fwEvent_fw, fw3]
    · exact (logged _ (show 0xE00 ≤ 0xE08 + k by omega) (show 0xE08 + k ≠ 0xE12 by omega)).trans slot3
    · exact (log_get_ne _ _ _ _ _ _ (by decide) (by decide)).trans (fwEvent_get_same _ (lt_rfl rfl) rfl)
  · have ends : s.loadEnd k r = s2.fwResult r ∨ s.loadEnd k r = (s2.fwResult r).log 9 4 k 0 0 := by
      by_cases h34 : r = 3 ∨ r = 4
      · exact .inr ((if_neg h0).trans (if_pos h34))
      · exact .inl ((if_neg h0).trans (if_neg h34))
    rw [if_neg h0] at slot3
    have same : (∀ g : Fld, 0xE00 ≤ g.addr → (s.loadEnd k r).get g = (s2.fwResult r).get g) ∧ (s.loadEnd k r).fw = (s2.fwResult r).fw := by
      obtain eq | eq := ends <;> rw [eq]
      · exact ⟨fun _ _ => rfl, rfl⟩
      · exact ⟨fun g h => log_get_ne _ _ _ _ _ _ (by omega) (by omega), log_fw _ _ _ _ _ _⟩
    obtain ⟨get, record⟩ := same
    exact ⟨(get _ (by decide)).trans result, (get _ (by decide)).trans op3, by rw [record, fw3], fun h => absurd h h0,
      fun _ => ⟨(get _ (show 0xE00 ≤ 0xE08 + k by omega)).trans slot3, (get _ (by decide)).trans (fail h0)⟩⟩

theorem firmware_sourceBad_clause (k : Fin 2) (s : State) (hl : s.fw.loadSlot = some k.val) (hv : s.serving = true) (hw : 63 ∉ s.waveRegions)
    (hs : s.sourceOk = false) :
    ∃ u : State, exec .loadDone s = .next (u.settle.watch s) ∧ u.get (Reg.FW_SLOT_STATE k.val) = slotRejected ∧ u.get Reg.FW_STAT_RESULT = 1 ∧
      u.get Reg.FW_STAT_OP = 0 ∧ u.get Reg.FW_EVENT_FAIL = 1 ∧ u.fw.loadSlot = none := by
  have ends : s.slotDone = s.loadEnd k.val 1 := by
    unfold State.slotDone
    rw [hl]
    exact if_neg (by rw [hs]; decide)
  obtain ⟨result, op, none_, -, bad⟩ := loadEnd_facts s k.isLt (r := 1) (by decide)
  obtain ⟨slot, fail⟩ := bad (by decide)
  refine ⟨_, exec_loadDone (.inl (by rw [hl]; rfl)) hv hw, ?_⟩
  rw [ends]
  exact ⟨slot, result, op, fail, none_⟩

theorem imageResult_lt (s : State) (bs : List Byte) : s.imageResult bs < 8 := by
  unfold State.imageResult
  dsimp only
  split_ifs <;> decide

/-- A LOAD's copy ends as the checks say, whatever it has written (R361). -/
theorem loadCopy_eq (s : State) (k : Nat) : ∃ t : State, s.loadCopy k = t.loadEnd k (s.imageResult (s.readBytes s.fw.loadSrc s.fw.loadLen {}).2.1) :=
  ⟨_, rfl⟩

theorem firmware_copied_clause (k : Fin 2) (s : State) (hl : s.fw.loadSlot = some k.val) (hv : s.serving = true) (hw : 63 ∉ s.waveRegions)
    (hs : s.sourceOk = true) :
    ∃ u : State, exec .loadDone s = .next (u.settle.watch s) ∧ u.get Reg.FW_STAT_RESULT = s.imageResult (s.readBytes s.fw.loadSrc s.fw.loadLen {}).2.1 ∧
      u.get Reg.FW_STAT_OP = 0 ∧ u.fw.loadSlot = none ∧
      (s.imageResult (s.readBytes s.fw.loadSrc s.fw.loadLen {}).2.1 = 0 → u.get (Reg.FW_SLOT_STATE k.val) = slotValid ∧ u.get Reg.FW_EVENT_LOAD_DONE = 1) ∧
      (s.imageResult (s.readBytes s.fw.loadSrc s.fw.loadLen {}).2.1 ≠ 0 → u.get (Reg.FW_SLOT_STATE k.val) = slotRejected ∧ u.get Reg.FW_EVENT_FAIL = 1) := by
  have ends : s.slotDone = s.loadCopy k.val := by
    unfold State.slotDone
    rw [hl]
    exact if_pos hs
  refine ⟨_, exec_loadDone (.inl (by rw [hl]; rfl)) hv hw, ?_⟩
  obtain ⟨t, eq⟩ := loadCopy_eq s k.val
  rw [ends, eq]
  exact loadEnd_facts t k.isLt (imageResult_lt _ _)

/-- An ERASE takes what Sweeper holds in the slot; the array is not touched by that (R357). -/
theorem yieldSlot_yields (s : State) (k : Nat) : Yields s (s.yieldSlot k) := by
  unfold State.yieldSlot
  split
  · split
    · exact yieldHeld_yields s
    · exact .rfl' s
  · exact .rfl' s

theorem setVersion_zero (s : State) (k : Nat) : (s.setVersion k 0).slotVersion k = 0 ∧
    ∀ g : Fld, g.addr ≠ 0xE0A + 2 * k → g.addr ≠ 0xE0B + 2 * k → (s.setVersion k 0).get g = s.get g := by
  unfold State.setVersion State.slotVersion
  rw [Nat.zero_mod, Nat.zero_div]
  refine ⟨?_, fun g h h' => State.get_put_two _ _ _ h h'⟩
  rw [State.get_put_ne _ _ (show 0xE0A + 2 * k ≠ 0xE0B + 2 * k by omega), State.get_put_same _ _ _ (lt_rfl rfl) (Nat.two_pow_pos _),
    State.get_put_same _ _ _ (lt_rfl rfl) (Nat.two_pow_pos _), Nat.mul_zero]

/-- The slot of an ERASE as it ends, before the command's result (R376). -/
def State.slotErased (s : State) (k : Nat) : State :=
  (((s.yieldSlot k).wipeSlot k).put (Reg.FW_SLOT_STATE k) slotEmpty).setVersion k 0

theorem slotErased_facts (s : State) {k : Nat} (hk : k < 2) : (s.slotErased k).get (Reg.FW_SLOT_STATE k) = slotEmpty ∧
    (s.slotErased k).slotVersion k = 0 ∧ (s.slotErased k).arr = (s.wipeSlot k).arr := by
  obtain ⟨version, other⟩ := setVersion_zero (((s.yieldSlot k).wipeSlot k).put (Reg.FW_SLOT_STATE k) slotEmpty) k
  refine ⟨(other _ (show 0xE08 + k ≠ 0xE0A + 2 * k by omega) (show 0xE08 + k ≠ 0xE0B + 2 * k by omega)).trans
    (State.get_put_same _ _ slotEmpty (lt_rfl rfl) (lt_rfl rfl)), version, ?_⟩
  unfold State.slotErased State.setVersion
  rw [State.put_arr, State.put_arr, State.put_arr]
  exact (yieldSlot_yields s k).field (fun t => (t.wipeSlot k).arr) (fun _ _ _ => rfl)

/-- No ERASE runs. -/
def State.eraseIdle (s : State) : State := { s with fw := { s.fw with erasing := none } }

theorem State.get_eraseIdle (s : State) (g : Fld) : s.eraseIdle.get g = s.get g := rfl

theorem State.arr_eraseIdle (s : State) : s.eraseIdle.arr = s.arr := rfl

theorem State.erasing_eraseIdle (s : State) : s.eraseIdle.fw.erasing = none := rfl

theorem eraseEnd_eq (s : State) (k : Nat) : s.eraseEnd k = ((s.slotErased k).eraseIdle.put Reg.FW_STAT_OP 0).fwResult 0 := rfl

theorem firmware_erased_clause (k : Fin 2) (s : State) (hl : s.fw.loadSlot = none) (he : s.fw.erasing = some k.val) (hv : s.serving = true)
    (hw : 63 ∉ s.waveRegions) :
    ∃ u : State, exec .loadDone s = .next (u.settle.watch s) ∧ u.get (Reg.FW_SLOT_STATE k.val) = slotEmpty ∧ u.slotVersion k.val = 0 ∧
      u.get Reg.FW_STAT_RESULT = 0 ∧ u.get Reg.FW_STAT_OP = 0 ∧ u.fw.erasing = none ∧ u.arr = (s.wipeSlot k.val).arr := by
  have ends : s.slotDone = s.eraseEnd k.val := by
    unfold State.slotDone
    rw [hl, he]
  have hk := k.isLt
  obtain ⟨slot, version, arr⟩ := slotErased_facts s hk
  obtain ⟨result, -, other, fw, arr'⟩ := fwResult_facts ((s.slotErased k.val).eraseIdle.put Reg.FW_STAT_OP 0) (r := 0) (by decide)
  have kept : ∀ g : Fld, g.addr ≠ 0xE05 → g.addr ≠ 0xE12 → g.hi < 18 → (((s.slotErased k.val).eraseIdle.put Reg.FW_STAT_OP 0).fwResult 0).get g = (s.slotErased k.val).get g :=
    fun g h h' hg => (other g (.inl h) hg h').trans ((State.get_put_ne _ _ h).trans (State.get_eraseIdle _ g))
  refine ⟨_, exec_loadDone (.inr (by rw [he]; rfl)) hv hw, ?_⟩
  rw [ends, eraseEnd_eq]
  refine ⟨(kept _ (show 0xE08 + k.val ≠ 0xE05 by omega) (show 0xE08 + k.val ≠ 0xE12 by omega) (lt_rfl rfl)).trans slot, ?_, result,
    (other _ (.inr (.inr (by decide))) (lt_rfl rfl) (by decide)).trans (State.get_put_same _ _ _ (lt_rfl rfl) (lt_rfl rfl)),
    by rw [fw, State.put_fw, State.erasing_eraseIdle], by rw [arr', State.put_arr, State.arr_eraseIdle, arr]⟩
  refine Eq.trans ?_ version
  unfold State.slotVersion
  rw [kept _ (show 0xE0A + 2 * k.val ≠ 0xE05 by omega) (show 0xE0A + 2 * k.val ≠ 0xE12 by omega) (lt_rfl rfl),
    kept _ (show 0xE0B + 2 * k.val ≠ 0xE05 by omega) (show 0xE0B + 2 * k.val ≠ 0xE12 by omega) (lt_rfl rfl)]

end Sys2Proof.Machine

namespace Sys2Proof.Machine
open Sys2Proof

/-! ACTIVATE and the steps of an update (R363, R364): O33 -/

/-- What refuses an ACTIVATE as a wrong state does not hold (R363). -/
theorem activate_notRefused {s : State} (hb : s.fwBusy = false) (hg : s.bootChoice ≠ goldenImage) (hr : s.bootChoice ≠ s.get Reg.FW_STAT_RUN) :
    ¬(s.fwBusy = true ∨ s.bootChoice = goldenImage ∨ s.bootChoice = s.get Reg.FW_STAT_RUN) := by
  rw [hb]
  exact fun h => h.elim (fun h => Bool.noConfusion h) (fun h => h.elim hg hr)

theorem State.fw_setAct (s : State) (a : Option Activation) : (s.setAct a).fw = { s.fw with act := a } := rfl

theorem State.get_setAct (s : State) (a : Option Activation) (g : Fld) : (s.setAct a).get g = s.get g := rfl

theorem firmware_activate_clause (x : Sender) (s : State) (hr : s.reaches x 0xE00 true = true) (hm : s.fwMay x = true) (hb : s.fwBusy = false)
    (hg : s.bootChoice ≠ goldenImage) (hn : s.bootChoice ≠ s.get Reg.FW_STAT_RUN) (hc : s.compatOf s.bootChoice = s.compatOf (s.get Reg.FW_STAT_RUN)) :
    ∃ t, exec (.activate x) s = .next t ∧ t.get Reg.FW_STAT_OP = 2 ∧
      t.fw.act = some { slot := s.bootChoice, done := [], todo := s.clusters, step := 2, rollback := false } := by
  refine ⟨_, (exec_activate_may hr hm).trans (congrArg Host.Outcome.next
    ((if_neg (activate_notRefused hb hg hn)).trans (if_neg (not_not_intro hc)))), ?_, rfl⟩
  rw [State.get_setAct, State.get_put_apart _ _ (lt_rfl rfl) (.inr (lt_rfl rfl))]
  exact State.get_put_same _ _ opActivate (lt_rfl rfl) (lt_rfl rfl)

theorem firmware_incompatible_clause (x : Sender) (s : State) (hr : s.reaches x 0xE00 true = true) (hm : s.fwMay x = true) (hb : s.fwBusy = false)
    (hg : s.bootChoice ≠ goldenImage) (hn : s.bootChoice ≠ s.get Reg.FW_STAT_RUN) (hc : s.compatOf s.bootChoice ≠ s.compatOf (s.get Reg.FW_STAT_RUN)) :
    ∃ t, exec (.activate x) s = .next t ∧ t.get Reg.FW_STAT_RESULT = 6 ∧ t.get Reg.FW_EVENT_FAIL = 1 ∧ t.fw.act = s.fw.act := by
  obtain ⟨result, fail, -, fw, -⟩ := fwResult_facts s (r := 6) (by decide)
  exact ⟨_, (exec_activate_may hr hm).trans (congrArg Host.Outcome.next
    ((if_neg (activate_notRefused hb hg hn)).trans (if_pos hc))), result, fail (by decide), congrArg Firmware.act fw⟩

theorem exec_activationStep {s : State} {a : Activation} (ok : Bool) (ha : s.fw.act = some a) (hv : s.serving = true) :
    exec (.activationStep ok) s = .next (s.actStep a ok).cycleGo := by
  show execActivationStep ok s = _
  unfold execActivationStep
  rw [ha]
  exact congrArg Host.Outcome.next (if_pos hv)

/-- The step of a cluster in service that is next in the update (Table 15-5). -/
theorem actStep_cluster {s : State} {a : Activation} {c : Nat} {r : List Nat} (ok : Bool) (ht : a.todo = c :: r) (hc : s.cluOn c = true) :
    s.actStep a ok = match a.step with
      | 2 => (s.handOver c).1.setAct (some { a with step := 3, moved := (s.handOver c).2 })
      | 3 => (s.clearPad c).setAct (some { a with step := 4 })
      | 4 => if a.rollback then s.setAct (some { a with step := 5 })
        else if ok ∧ digestOk (s.slotBytes a.slot) then (s.meetSlot a.slot).setAct (some { a with step := 5 })
        else (s.meetSlot a.slot).rollBack a
      | _ => if ok then s.actResume a c else (s.clusterOut c).actNext { a with todo := r } := by
  unfold State.actStep
  rw [ht]
  dsimp only
  rw [hc]
  rfl

/-! A cluster hands its channels over (R363, R366) -/

/-- One channel's turn in a hand-over of cluster f to the others. -/
def handTurn (f : Nat) (others : List Nat) (acc : State × List Nat) (c : Nat) : State × List Nat :=
  if acc.1.get (Reg.MB_STAT_SERVER c) = f then
    (acc.1.drawWord.2.put (Reg.MB_STAT_SERVER c) (others.getD (acc.1.drawWord.1.toNat % others.length) 0), acc.2 ++ [c])
  else acc

/-- The clusters in service beside f. -/
def State.others (s : State) (f : Nat) : List Nat := [0, 1, 2, 3].filter (fun g => decide (g ≠ f) && s.cluOn g)

theorem handOver_eq (s : State) (f : Nat) : s.handOver f = if (s.others f).isEmpty then (s, []) else
    (List.range 5).foldl (handTurn f (s.others f)) (s, []) := rfl

theorem mem_others {s : State} {f g : Nat} : g ∈ s.others f ↔ g < 4 ∧ g ≠ f ∧ s.cluOn g = true := by
  unfold State.others
  rw [List.mem_filter, Bool.and_eq_true, decide_eq_true_eq]
  have low : g ∈ [0, 1, 2, 3] ↔ g < 4 := by
    simp only [List.mem_cons, List.not_mem_nil, or_false]
    omega
  rw [low]

/-- A turn of cluster f's own channel gives it to one of the others. -/
theorem handTurn_moves {f : Nat} {others : List Nat} (ho : ∀ g, g ∈ others → g < 4) (hne : others ≠ []) {acc : State × List Nat} {k : Nat}
    (hf : acc.1.get (Reg.MB_STAT_SERVER k) = f) :
    (handTurn f others acc k).1.get (Reg.MB_STAT_SERVER k) ∈ others ∧ k ∈ (handTurn f others acc k).2 := by
  have pick : others.getD (acc.1.drawWord.1.toNat % others.length) 0 ∈ others := by
    rw [List.getD_eq_getElem _ _ (Nat.mod_lt _ (List.length_pos_iff.mpr hne))]
    exact List.getElem_mem _
  unfold handTurn
  rw [if_pos hf]
  refine ⟨?_, List.mem_append.mpr (.inr (List.mem_singleton.mpr rfl))⟩
  dsimp only
  rw [State.get_put_same _ (Reg.MB_STAT_SERVER k) _ (lt_rfl rfl) (ho _ pick)]
  exact pick

/-- A turn leaves every other channel, and the channels of other clusters. -/
theorem handTurn_leaves {f : Nat} {others : List Nat} {acc : State × List Nat} {c k : Nat}
    (h : c ≠ k ∨ acc.1.get (Reg.MB_STAT_SERVER k) ≠ f) :
    (handTurn f others acc c).1.get (Reg.MB_STAT_SERVER k) = acc.1.get (Reg.MB_STAT_SERVER k) ∧ (k ∈ (handTurn f others acc c).2 ↔ k ∈ acc.2) := by
  unfold handTurn
  split
  · next turn =>
    have hck : c ≠ k := h.elim id (fun h e => h (e ▸ turn))
    refine ⟨State.get_put_ne _ _ (show 0x306 + 0x10 * k ≠ 0x306 + 0x10 * c by omega), ?_⟩
    rw [List.mem_append, List.mem_singleton]
    exact or_iff_left (fun e => hck e.symm)
  · exact ⟨rfl, Iff.rfl⟩

theorem handTurn_fw (f : Nat) (others : List Nat) (acc : State × List Nat) (c : Nat) : (handTurn f others acc c).1.fw = acc.1.fw := by
  unfold handTurn
  split <;> rfl

/-- Where another cluster is in service, the hand-over moves exactly the cluster's channels, each to a cluster in service (R363). -/
theorem handOver_moves (s : State) {f : Nat} (h : ∃ g, g < 4 ∧ g ≠ f ∧ s.cluOn g = true) : (s.handOver f).1.fw = s.fw ∧ ∀ k, k < 5 →
    (s.get (Reg.MB_STAT_SERVER k) = f → k ∈ (s.handOver f).2 ∧ (s.handOver f).1.get (Reg.MB_STAT_SERVER k) ∈ s.others f) ∧
    (s.get (Reg.MB_STAT_SERVER k) ≠ f → k ∉ (s.handOver f).2 ∧ (s.handOver f).1.get (Reg.MB_STAT_SERVER k) = s.get (Reg.MB_STAT_SERVER k)) := by
  obtain ⟨g, hg⟩ := h
  have some_ : s.others f ≠ [] := List.ne_nil_of_mem (mem_others.mpr hg)
  have low : ∀ g, g ∈ s.others f → g < 4 := fun g hg => (mem_others.mp hg).1
  have apart : ∀ g, g ∈ s.others f → g ≠ f := fun g hg => (mem_others.mp hg).2.1
  have turns : s.handOver f = (List.range 5).foldl (handTurn f (s.others f)) (s, []) :=
    (handOver_eq s f).trans (if_neg (fun e => some_ (List.isEmpty_iff.mp e)))
  rw [turns]
  refine ⟨foldl_holds (fun acc : State × List Nat => acc.1.fw = s.fw) _ _ (fun acc c _ e => (handTurn_fw f _ acc c).trans e) rfl,
    fun k hk => ⟨fun hf => ?_, fun hf => ?_⟩⟩
  · refine foldl_once (fun acc : State × List Nat => acc.1.get (Reg.MB_STAT_SERVER k) = f)
      (fun acc => k ∈ acc.2 ∧ acc.1.get (Reg.MB_STAT_SERVER k) ∈ s.others f) (handTurn f (s.others f)) k
      (fun acc c hc e => (handTurn_leaves (.inl hc)).1.trans e)
      (fun acc e => (handTurn_moves low some_ e).symm) (fun acc c moved => ?_) _ (List.mem_range.mpr hk) (s, []) hf
    obtain ⟨mem, server⟩ := moved
    obtain ⟨same, list⟩ := handTurn_leaves (others := s.others f) (c := c) (.inr (apart _ server))
    exact ⟨list.mpr mem, same ▸ server⟩
  · refine foldl_holds (fun acc : State × List Nat => k ∉ acc.2 ∧ acc.1.get (Reg.MB_STAT_SERVER k) = s.get (Reg.MB_STAT_SERVER k)) _ _
      (fun acc c _ kept => ?_) ⟨List.not_mem_nil, rfl⟩
    obtain ⟨mem, server⟩ := kept
    obtain ⟨same, list⟩ := handTurn_leaves (others := s.others f) (c := c) (.inr (by rw [server]; exact hf))
    exact ⟨fun e => mem (list.mp e), same.trans server⟩

theorem firmware_handOver_clause (ok : Bool) (s : State) (a : Activation) (c : Nat) (r : List Nat) (ha : s.fw.act = some a) (hv : s.serving = true)
    (ht : a.todo = c :: r) (hc : s.cluOn c = true) (hstep : a.step = 2) (ho : ∃ g, g < 4 ∧ g ≠ c ∧ s.cluOn g = true) :
    ∃ u ch, exec (.activationStep ok) s = .next (State.cycleGo u) ∧ u.fw.act = some { a with step := 3, moved := ch } ∧
      ∀ k, k < 5 → (s.get (Reg.MB_STAT_SERVER k) = c → k ∈ ch ∧ u.get (Reg.MB_STAT_SERVER k) ≠ c ∧ s.cluOn (u.get (Reg.MB_STAT_SERVER k)) = true) ∧
        (s.get (Reg.MB_STAT_SERVER k) ≠ c → k ∉ ch ∧ u.get (Reg.MB_STAT_SERVER k) = s.get (Reg.MB_STAT_SERVER k)) := by
  have eq : s.actStep a ok = (s.handOver c).1.setAct (some { a with step := 3, moved := (s.handOver c).2 }) := by
    rw [actStep_cluster ok ht hc, hstep]
    rfl
  obtain ⟨-, moves⟩ := handOver_moves s ho
  refine ⟨_, (s.handOver c).2, (exec_activationStep ok ha hv).trans (congrArg (fun t => Host.Outcome.next (State.cycleGo t)) eq), ?_, fun k hk => ?_⟩
  · rw [State.fw_setAct]
  obtain ⟨own, other⟩ := moves k hk
  rw [State.get_setAct]
  refine ⟨fun h => ?_, other⟩
  obtain ⟨mem, server⟩ := own h
  obtain ⟨-, apart, on⟩ := mem_others.mp server
  exact ⟨mem, apart, on⟩

theorem firmware_clearPad_clause (ok : Bool) (s : State) (a : Activation) (c : Nat) (r : List Nat) (ha : s.fw.act = some a) (hv : s.serving = true)
    (ht : a.todo = c :: r) (hc : s.cluOn c = true) (hstep : a.step = 3) :
    exec (.activationStep ok) s = .next ({ s with fw := { s.fw with
      act := some { a with step := 4 }, pads := Map.keep s.fw.pads (fun k => decide (k / 65536 ≠ c)) } } : State).cycleGo := by
  have eq := actStep_cluster ok ht hc
  rw [hstep] at eq
  rw [exec_activationStep ok ha hv, eq]
  rfl

/-! The check of the image, and the roll-back (R364) -/

/-- The slot is REJECTED with RESULT 3, and the clusters go back, the present one first (R364). -/
theorem rollBack_facts (s : State) (a : Activation) {c : Nat} {r : List Nat} (ht : a.todo = c :: r) (hs : a.slot < 2) :
    (s.rollBack a).get (Reg.FW_SLOT_STATE a.slot) = slotRejected ∧ (s.rollBack a).get Reg.FW_STAT_RESULT = 3 ∧
    (s.rollBack a).get Reg.FW_EVENT_FAIL = 1 ∧
    (s.rollBack a).fw.act = some { a with todo := c :: a.done.reverse, done := [], step := 5, rollback := true } := by
  obtain ⟨result, fail, other, -, -⟩ := fwResult_facts (s.put (Reg.FW_SLOT_STATE a.slot) slotRejected) (r := 3) (by decide)
  have logged : ∀ g : Fld, 0xE00 ≤ g.addr → (s.rollBack a).get g = ((s.put (Reg.FW_SLOT_STATE a.slot) slotRejected).fwResult 3).get g := fun g h =>
    (State.get_setAct _ _ g).trans (log_get_ne _ _ _ _ _ _ (by omega) (by omega))
  refine ⟨?_, (logged _ (by decide)).trans result, (logged _ (by decide)).trans (fail (by decide)), ?_⟩
  · rw [logged _ (show 0xE00 ≤ 0xE08 + a.slot by omega), other _ (.inl (show 0xE08 + a.slot ≠ 0xE05 by omega)) (lt_rfl rfl)
      (show 0xE08 + a.slot ≠ 0xE12 by omega)]
    exact State.get_put_same s _ slotRejected (lt_rfl rfl) (lt_rfl rfl)
  · unfold State.rollBack
    rw [ht]
    rfl

theorem firmware_check_clause (s : State) (a : Activation) (c : Nat) (r : List Nat) (ha : s.fw.act = some a) (hv : s.serving = true) (ht : a.todo = c :: r)
    (hc : s.cluOn c = true) (hstep : a.step = 4) (hr : a.rollback = false) (hs : a.slot < 2) :
    (digestOk (s.slotBytes a.slot) = true →
      exec (.activationStep true) s = .next ((s.meetSlot a.slot).setAct (some { a with step := 5 })).cycleGo) ∧
    ∃ u : State, exec (.activationStep false) s = .next u.cycleGo ∧ u.get (Reg.FW_SLOT_STATE a.slot) = slotRejected ∧ u.get Reg.FW_STAT_RESULT = 3 ∧
      u.get Reg.FW_EVENT_FAIL = 1 ∧ u.fw.act = some { a with todo := c :: a.done.reverse, done := [], step := 5, rollback := true } := by
  have forward : ¬a.rollback = true := by rw [hr]; exact Bool.noConfusion
  have eq : ∀ ok : Bool, s.actStep a ok = if ok = true ∧ digestOk (s.slotBytes a.slot) = true then (s.meetSlot a.slot).setAct (some { a with step := 5 })
      else (s.meetSlot a.slot).rollBack a := by
    intro ok
    have := actStep_cluster ok ht hc
    rw [hstep] at this
    exact this.trans (if_neg forward)
  refine ⟨fun hd => ?_, _, (exec_activationStep false ha hv).trans ?_, rollBack_facts (s.meetSlot a.slot) a ht hs⟩
  · rw [exec_activationStep true ha hv, eq, if_pos ⟨rfl, hd⟩]
  · rw [eq, if_neg (fun h => Bool.noConfusion h.1)]

/-! A cluster resumes, and the update ends -/

/-- The channels that had moved are the cluster's again (Table 15-5). -/
theorem serversBack (s : State) {c : Nat} (hc : c < 4) (chs : List Nat) {ch : Nat} (h : ch ∈ chs) :
    (chs.foldl (fun (t : State) ch => t.put (Reg.MB_STAT_SERVER ch) c) s).get (Reg.MB_STAT_SERVER ch) = c := by
  have set : ∀ t : State, (t.put (Reg.MB_STAT_SERVER ch) c).get (Reg.MB_STAT_SERVER ch) = c := fun t => State.get_put_same t _ c (lt_rfl rfl) hc
  refine foldl_once (fun _ => True) (fun t => t.get (Reg.MB_STAT_SERVER ch) = c)
    (fun (t : State) ch => t.put (Reg.MB_STAT_SERVER ch) c) ch (fun _ _ _ _ => trivial) (fun t _ => set t)
    (fun t x kept => ?_) chs h s trivial
  by_cases e : x = ch
  · rw [e]
    exact set t
  · exact (State.get_put_ne _ _ (show 0x306 + 0x10 * ch ≠ 0x306 + 0x10 * x by omega)).trans kept

theorem firmware_resume_clause (s : State) (a : Activation) (c : Nat) (r : List Nat) (ha : s.fw.act = some a) (hv : s.serving = true) (ht : a.todo = c :: r)
    (hc : s.cluOn c = true) (hstep : a.step = 5) (hlow : c < 4) :
    ∃ u : State, exec (.activationStep true) s = .next u.cycleGo ∧
      u.fw.act = some { a with done := a.done ++ [c], todo := r, step := (if r = [] then 6 else 2), moved := [] } ∧
      ∀ ch, ch ∈ a.moved → ch < 8 → u.get (Reg.MB_STAT_SERVER ch) = c := by
  have eq := actStep_cluster true ht hc
  rw [hstep] at eq
  refine ⟨s.actResume a c, (exec_activationStep true ha hv).trans (by rw [eq]; rfl), ?_, fun ch hch low => ?_⟩
  · unfold State.actResume State.actNext
    rw [ht, State.put_fw, State.fw_setAct]
    cases r <;> rfl
  · unfold State.actResume State.actNext
    rw [State.get_put_ne _ _ (show 0x306 + 0x10 * ch ≠ 0xE05 by omega), State.get_setAct]
    exact serversBack s hlow a.moved hch

theorem raiseFloor_fw (s : State) (k : Nat) : (s.raiseFloor k).fw = s.fw := by
  unfold State.raiseFloor
  split <;> rfl

theorem firmware_end_clause (ok : Bool) (s : State) (a : Activation) (ha : s.fw.act = some a) (hv : s.serving = true) (ht : a.todo = [])
    (hr : a.rollback = false) (hs : a.slot < 2) :
    ∃ u : State, exec (.activationStep ok) s = .next u.cycleGo ∧ u.get Reg.FW_STAT_RUN = a.slot ∧ u.get Reg.FW_STAT_OP = 0 ∧
      u.get Reg.FW_STAT_RESULT = 0 ∧ u.get Reg.FW_EVENT_ACT_DONE = 1 ∧ u.fw.act = none := by
  let s1 := ((s.setAct none).put Reg.FW_STAT_OP 0).put Reg.FW_STAT_RUN a.slot
  have eq : s.actStep a ok = (((s1.fwResult 0).fwEvent Reg.FW_EVENT_ACT_DONE).raiseFloor a.slot).log 9 6 a.slot 0 0 := by
    unfold State.actStep State.actEnd
    rw [ht]
    exact if_neg (by rw [hr]; exact Bool.noConfusion)
  obtain ⟨result, -, other, fw, -⟩ := fwResult_facts s1 (r := 0) (by decide)
  have late : ∀ g : Fld, 0xE00 ≤ g.addr → g.addr ≠ 0xE0E → g.addr ≠ 0xE0F →
      ((((s1.fwResult 0).fwEvent Reg.FW_EVENT_ACT_DONE).raiseFloor a.slot).log 9 6 a.slot 0 0).get g =
        ((s1.fwResult 0).fwEvent Reg.FW_EVENT_ACT_DONE).get g := fun g h h1 h2 =>
    (log_get_ne _ _ _ _ _ _ (by omega) (by omega)).trans (raiseFloor_get _ _ h1 h2)
  have stat : ∀ g : Fld, g.addr = 0xE05 →
      ((((s1.fwResult 0).fwEvent Reg.FW_EVENT_ACT_DONE).raiseFloor a.slot).log 9 6 a.slot 0 0).get g = (s1.fwResult 0).get g := fun g h =>
    (late g (by omega) (by omega) (by omega)).trans (fwEvent_get_ne _ (by rw [h]; decide))
  refine ⟨_, exec_activationStep ok ha hv, ?_⟩
  rw [eq]
  refine ⟨(stat _ rfl).trans ((other _ (.inr (.inr (by decide))) (lt_rfl rfl) (by decide)).trans ?_),
    (stat _ rfl).trans ((other _ (.inr (.inr (by decide))) (lt_rfl rfl) (by decide)).trans ?_), (stat _ rfl).trans result,
    (late _ (by decide) (by decide) (by decide)).trans (fwEvent_get_same _ (lt_rfl rfl) rfl), ?_⟩
  · exact State.get_put_same _ _ _ (lt_rfl rfl) (show a.slot < 4 by omega)
  · exact (State.get_put_apart _ _ (lt_rfl rfl) (by decide)).trans (State.get_put_same _ _ 0 (lt_rfl rfl) (lt_rfl rfl))
  · rw [log_fw, raiseFloor_fw, fwEvent_fw, fw]
    rfl

/-! ERASE, the token's words and a core that fails -/

theorem firmware_erase_clause (x : Sender) (b : Bool) (s : State) (hr : s.reaches x 0xE00 true = true) (hm : s.fwMay x = true) (hb : s.fwBusy = false)
    (hn : b2n b ≠ s.get Reg.FW_STAT_RUN) :
    ∃ t, exec (.erase x b) s = .next t ∧ t.get Reg.FW_STAT_OP = 3 ∧ t.fw = { s.fw with erasing := some (b2n b) } ∧ t.arr = s.arr ∧
      t.get (Reg.FW_SLOT_STATE (b2n b)) = s.get (Reg.FW_SLOT_STATE (b2n b)) := by
  have low : b2n b < 2 := by cases b <;> decide
  refine ⟨_, (exec_erase_may b hr hm).trans (congrArg Host.Outcome.next (if_neg ?_)), ?_, rfl, rfl, ?_⟩
  · rw [hb]
    exact fun h => h.elim Bool.noConfusion hn
  · rw [State.get_fw]
    exact State.get_put_same _ _ opErase (lt_rfl rfl) (lt_rfl rfl)
  · rw [State.get_fw]
    exact State.get_put_ne _ _ (show 0xE08 + b2n b ≠ 0xE05 by omega)

theorem firmware_token_clause (x : Sender) (v : Word) (s : State) (hr : s.reaches x 0xE10 true = true) (hx : isH0 x = true)
    (hl : s.fw.token.length < 40) :
    exec (.fwToken x v) s = .next { s with fw := { s.fw with token := s.fw.token ++ [v.setWidth 16] } } := by
  have room : (isH0 x && decide (s.fw.token.length < 40)) = true := by rw [hx, Bool.true_and]; exact decide_eq_true hl
  exact congrArg Host.Outcome.next ((if_pos hr).trans (if_pos room))

theorem exec_coreWatchdog {s : State} (c : Fin 16) (hv : s.serving = true) : exec (.coreWatchdog c) s = .next (s.coreOut c.val).cycleGo :=
  congrArg Host.Outcome.next (if_pos hv)

theorem firmware_coreGone_clause (c : Fin 16) (s : State) (hv : s.serving = true) (hc : bit (s.get Reg.FW_CORES_ON) c.val = false) :
    exec (.coreWatchdog c) s = .next s.cycleGo := by
  have eq : s.coreOut c.val = s := if_neg (by rw [hc]; exact Bool.noConfusion)
  rw [exec_coreWatchdog c hv, eq]

/-- A bit of a field that has been cleared. -/
theorem bit_get_put_at (s : State) {f : Fld} {i : Nat} (hi : f.lo + i < 18) : bit ((s.put (f.at i) 0).get f) i = false := by
  have h : ((s.put (f.at i) 0).get f).testBit i = false := by
    unfold State.get State.put Fld.at
    rw [State.reg_setReg_same, bits_testBit, putBits_bit _ _ _ _ _ hi, if_pos ⟨Nat.le_refl _, Nat.le_refl _⟩, Nat.zero_testBit, Bool.and_false]
  rwa [Nat.testBit_eq_decide_div_mod_eq] at h

theorem firmware_coreOut_clause (c : Fin 16) (s : State) (hv : s.serving = true) (hc : bit (s.get Reg.FW_CORES_ON) c.val = true)
    (h3 : 3 ≤ (s.put ((Reg.FW_CORES_ON).at c.val) 0).coresOn (c.val / 4)) :
    ∃ u : State, exec (.coreWatchdog c) s = .next u.cycleGo ∧ bit (u.get Reg.FW_CORES_ON) c.val = false ∧ u.get Reg.SWP_FAULT_CORE = 1 ∧
      u.get Reg.FW_EVENT_CORE_OUT = 1 ∧ u.get Reg.FW_STAT_CLU_ON = s.get Reg.FW_STAT_CLU_ON := by
  let s0 := s.put ((Reg.FW_CORES_ON).at c.val) 0
  let s1 := s0.put Reg.SWP_FAULT_CORE 1
  let s2 := (s1.fwEvent Reg.FW_EVENT_CORE_OUT).log 9 1 (c.val / 4) (c.val % 4) 0
  have late : ∀ g : Fld, g.addr ≠ 0xD0A → g.addr ≠ 0xD0B → g.addr ≠ 0xE12 → s2.get g = s1.get g := fun g h1 h2 h3 =>
    (log_get_ne _ _ _ _ _ _ h1 h2).trans (fwEvent_get_ne _ h3)
  have cores : s2.get Reg.FW_CORES_ON = s0.get Reg.FW_CORES_ON :=
    (late _ (by decide) (by decide) (by decide)).trans (State.get_put_ne _ _ (by decide))
  have left : ¬s2.coresOn (c.val / 4) < 3 := by
    unfold State.coresOn at h3 ⊢
    rw [cores]
    exact Nat.not_lt.mpr h3
  have eq : s.coreOut c.val = s2 := (if_pos hc).trans (if_neg left)
  refine ⟨s2, (exec_coreWatchdog c hv).trans (by rw [eq]), ?_, ?_, ?_, ?_⟩
  · rw [cores]
    exact bit_get_put_at s (show 0 + c.val < 18 by omega)
  · exact (late _ (by decide) (by decide) (by decide)).trans (State.get_put_same _ _ 1 (lt_rfl rfl) (lt_rfl rfl))
  · exact (log_get_ne _ _ _ _ _ _ (by decide) (by decide)).trans (fwEvent_get_same _ (lt_rfl rfl) rfl)
  · exact (late _ (by decide) (by decide) (by decide)).trans ((State.get_put_ne _ _ (by decide)).trans
      (State.get_put_ne s (f := (Reg.FW_CORES_ON).at c.val) _ (show 0xE05 ≠ 0xE06 by decide)))

/-- Settles O33: each clause is what the command's own definition does, over the rules of results, events and puts; the hand-over is an
induction over the channels. -/
theorem firmwareCommands : Obligations.FirmwareCommands :=
  ⟨firmware_load_clause, firmware_target_clause, firmware_busy_clause, firmware_rights_clause, firmware_sourceBad_clause,
    firmware_copied_clause, firmware_activate_clause, firmware_incompatible_clause,
    fun ok s a c r ha hv ht _ hc hstep ho => firmware_handOver_clause ok s a c r ha hv ht hc hstep ho,
    firmware_clearPad_clause, firmware_check_clause, firmware_resume_clause, firmware_end_clause, firmware_erase_clause,
    firmware_erased_clause, firmware_token_clause, firmware_coreGone_clause, firmware_coreOut_clause⟩

end Sys2Proof.Machine

namespace Sys2Proof.Machine
open Sys2Proof

/-! LC_APPLY stops the firmware (R372): no descriptor that goes on while the hosts' functions reset starts it again. Support for O34. -/

/-- ID_LC, FW_STAT and FW_CORES: WIPING, the clusters and the cores in service. -/
def ruled (a : Nat) : Bool := a == 0x00B || a == 0xE05 || a == 0xE06

theorem unruled {a : Nat} (h : a ≠ 0x00B ∧ a ≠ 0xE05 ∧ a ≠ 0xE06) : ruled a = false := by
  obtain ⟨h1, h2, h3⟩ := h
  unfold ruled
  rw [beq_false_of_ne h1, beq_false_of_ne h2, beq_false_of_ne h3]
  rfl

/-- The registers that `ruled` names stay, but a descriptor whose entry of the MOVE table lies past the table may empty those past the
array's. -/
def Halts (s t : State) : Prop := ∀ a, ruled a = true → t.reg a = s.reg a ∨ (0x410 ≤ a ∧ t.reg a = 0#18)

theorem Halts.rfl' (s : State) : Halts s s := fun _ _ => .inl rfl

theorem Halts.trans' {s t u : State} (h1 : Halts s t) (h2 : Halts t u) : Halts s u := fun a ha =>
  (h2 a ha).elim (fun e => (h1 a ha).elim (fun d => .inl (e.trans d)) (fun d => .inr ⟨d.1, e.trans d.2⟩)) .inr

theorem Halts.of_reg {s t : State} (h : ∀ a, ruled a = true → t.reg a = s.reg a) : Halts s t := fun a ha => .inl (h a ha)

theorem Halts.of_regs {s t : State} (h : t.regs = s.regs) : Halts s t := .of_reg (fun a _ => reg_congr h a)

theorem Halts.ite {c : Prop} [Decidable c] {s t u : State} (h1 : Halts s t) (h2 : Halts s u) : Halts s (if c then t else u) := by
  split
  · exact h1
  · exact h2

theorem Halts.fold {α : Type} {f : State → α → State} (hf : ∀ t x, Halts t (f t x)) (xs : List α) : ∀ s, Halts s (xs.foldl f s) := by
  induction xs with
  | nil => exact Halts.rfl'
  | cons x xs ih => exact fun s => (hf s x).trans' (ih _)

theorem ne_of_ruled {a b : Nat} (ha : ruled a = true) (hb : ruled b = false) : a ≠ b := fun e => by
  rw [e, hb] at ha
  exact Bool.noConfusion ha

theorem Halts.setReg (s : State) {b : Nat} (w : Word) (h : ruled b = false) : Halts s (s.setReg b w) :=
  .of_reg (fun _ ha => State.reg_setReg_ne _ _ (ne_of_ruled ha h))

theorem Halts.put (s : State) {f : Fld} (v : Nat) (h : ruled f.addr = false) : Halts s (s.put f v) := Halts.setReg s _ h

theorem Halts.bump (s : State) {f : Fld} (h : ruled f.addr = false) : Halts s (s.bump f) := (Halts.put s _ h).ite (.rfl' s)

theorem Halts.put36 (s : State) {lo hi : Fld} (v : Nat) (h1 : ruled lo.addr = false) (h2 : ruled hi.addr = false) : Halts s (s.put36 lo hi v) :=
  (Halts.setReg s _ h1).trans' (Halts.setReg _ _ h2)

theorem Halts.event (s : State) {ev : Fld} (en : Nat) (c : IClass) (hs : List PHost) (h : ruled ev.addr = false) : Halts s (s.event ev en c hs) :=
  .of_reg (fun _ ha => event_reg_ne _ _ _ _ _ _ (ne_of_ruled ha h))

theorem Halts.log (s : State) (a b c d e : Nat) : Halts s (s.log a b c d e) :=
  .of_reg (fun _ ha => log_reg_ne _ _ _ _ _ _ (ne_of_ruled ha rfl) (ne_of_ruled ha rfl))

theorem Halts.yields {s t : State} (h : Yields s t) : Halts s t := .of_reg (fun a ha => h.2 a (ne_of_ruled ha rfl))

theorem Halts.touched {s t : State} (h : Touched s t) : Halts s t := .of_reg (fun a ha => h.2 a (ne_of_ruled ha rfl))

/-- The same from a lemma that speaks of any reading of the state, taken at one register. -/
theorem Halts.keeps {s t : State} (h : ∀ a, ruled a = true → (fun u : State => u.reg a) t = (fun u : State => u.reg a) s) : Halts s t := .of_reg h

/-! Regions that retire, are replaced or marked (R98, R99) -/

theorem ruled_region {r : Nat} (h : r < 64) : ruled (0x440 + r) = false := unruled (by omega)

theorem Halts.setRstate (s : State) {r : Nat} (v : Nat) (h : r < 64) : Halts s (s.setRstate r v) := Halts.put s _ (ruled_region h)

theorem Halts.arrLast (s : State) (a b c : Nat) : Halts s (s.arrLast a b c) := Halts.setReg s _ rfl

theorem Halts.leave (s : State) (r : Nat) : Halts s (s.leave r) := (Halts.rfl' s).ite (.of_regs rfl)

theorem Halts.yieldWindow (s : State) (r : Nat) : Halts s (s.yieldWindow r) := by
  unfold State.yieldWindow
  split
  · exact (Halts.yields (yieldHeld_yields s)).ite (.rfl' s)
  · exact .rfl' s

theorem Halts.access (s : State) (r cw : Nat) : Halts s (s.access r cw) := by
  unfold State.access
  split
  · exact (Halts.yields (yieldHeld_yields s)).ite (.rfl' s)
  · exact .rfl' s

theorem Halts.relocate (s : State) : Halts s s.relocate := by
  unfold State.relocate
  split
  · exact .rfl' s
  · split
    · next r hr =>
      have low : r < 64 := by
        have := List.find?_some hr
        simp only [decide_eq_true_eq] at this
        omega
      exact (((Halts.yieldWindow s 63).trans' (.yieldWindow _ r)).trans' (.setRstate _ _ low)).trans' (.of_regs rfl)
    · exact ((Halts.put s _ rfl).trans' (.arrLast _ _ _ _)).trans' (.event _ _ _ _ rfl)

theorem Halts.retireNow (s : State) {r : Nat} (a b : Nat) (h : r < 64) : Halts s (s.retireNow r a b) :=
  (((((Halts.leave s r).trans' (.setRstate _ _ h)).trans' (.put _ _ (ruled_region h))).trans' (.arrLast _ _ _ _)).trans' (.event _ _ _ _ rfl)).trans'
    (.log _ _ _ _ _ _)

theorem Halts.retire (s : State) {r : Nat} (a b : Nat) (h : r < 64) : Halts s (s.retire r a b) := by
  unfold State.retire
  refine (Halts.relocate s).ite ((Halts.retireNow s a b h).ite (Halts.ite ?_ (Halts.ite (.of_regs rfl) (.rfl' s))))
  dsimp only
  refine Halts.trans' (t := { s with dev := { s.dev with causes := Map.set (fun _ => 0) s.dev.causes r a } }) (.of_regs rfl) ?_
  exact ((((Halts.leave _ r).trans' (.setRstate _ _ h)).trans' (.arrLast _ _ _ _)).trans' (.event _ _ _ _ rfl)).trans' (.log _ _ _ _ _ _)

theorem Halts.retireLate (s : State) {r : Nat} (h : r < 64) : Halts s (s.retireLate r) := by
  unfold State.retireLate
  split
  · next e _ =>
    exact Halts.trans' (t := { s with dev := { s.dev with failed := s.dev.failed.filter (fun d => decide (d.1 ≠ r)) } }) (.of_regs rfl) (.retire _ _ _ h)
  · exact .rfl' s

theorem Halts.replace (s : State) {r : Nat} (a b : Nat) (h : r < 64) : Halts s (s.replace r a b) := by
  unfold State.replace
  refine (Halts.rfl' s).ite ?_
  split
  · exact (Halts.rfl' s).ite (.of_regs rfl)
  · exact (Halts.retire s b a h).ite ((Halts.yieldWindow s r).trans' (.of_regs rfl))

theorem Halts.markIn (s : State) (p : Nat) {r : Nat} (cw : Nat) (h : r < 64) : Halts s (s.markIn p r cw) := by
  unfold State.markIn
  dsimp only
  generalize (if s.viewIn r cw = true then _ else _ : Image) = g
  have marked : Halts s (s.setImage p g) := .of_regs rfl
  exact ((((marked.trans' (.put36 _ cw rfl rfl)).trans' (.arrLast _ _ _ _)).trans' (.event _ _ _ _ rfl)).trans' (.log _ _ _ _ _ _)).trans'
    (.replace _ _ _ h)

theorem Halts.clearRegion (s : State) (r : Nat) : Halts s (s.clearRegion r) := .of_regs rfl

/-! Accesses to codewords (R82 to R84) -/

theorem Halts.touch (s : State) (cw : Nat) : Halts s (s.touch cw).1 := by
  have met := Halts.access s (s.cwOwner cw) cw
  unfold State.touch
  dsimp only
  split
  · exact met
  · exact met
  · exact met.trans' (.markIn _ _ _ (cwOwner_lt _ _))
  · exact met

theorem Halts.cover (s : State) (cw : Nat) : Halts s (s.cover cw).1 := Halts.access s _ cw

theorem Halts.setCwImage (s : State) (cw : Nat) (m : Image) : Halts s (s.setCwImage cw m) := .of_regs rfl

theorem Halts.meetCws (n : Nat) : ∀ (s : State) (cw : Nat), Halts s (s.meetCws n cw) := by
  induction n with
  | zero => exact fun s _ => .rfl' s
  | succ n ih => exact fun s cw => (Halts.touch s cw).trans' (ih _ _)

theorem Halts.meetRec (s : State) (i : Nat) : Halts s (s.meetRec i) := Halts.meetCws _ _ _

theorem Halts.setRecord (s : State) (i : Nat) (r : Rec) : Halts s (s.setRecord i r) := .touched (touched_setW18s _ _ _)

theorem Halts.writeCw (s : State) (cw : Nat) (bs : List (Option Byte)) (p : Bool) (m : Met) : Halts s (s.writeCw cw bs p m).1 := by
  unfold State.writeCw
  dsimp only
  refine Halts.trans' ?_ (.setCwImage _ _ _)
  split
  · exact Halts.cover s cw
  · exact Halts.touch s cw

theorem Halts.writeCws (n : Nat) : ∀ (s : State) (cw : Nat) (bs : List (Option Byte)) (p : Bool) (m : Met), Halts s (s.writeCws n cw bs p m).1 := by
  induction n with
  | zero => exact fun s _ _ _ _ => .rfl' s
  | succ n ih => exact fun s cw bs p m => (Halts.writeCw s cw _ p m).trans' (ih _ _ _ _ _)

theorem Halts.writeBytes (s : State) (a : Nat) (bs : List Byte) (p : Bool) (m : Met) : Halts s (s.writeBytes a bs p m).1 := by
  unfold State.writeBytes
  split
  · exact .rfl' s
  · exact .writeCws _ _ _ _ _ _

theorem Halts.readCw (s : State) (cw : Nat) (m : Met) : Halts s (s.readCw cw m).1 := by
  unfold State.readCw
  dsimp only
  split <;> exact Halts.touch s cw

theorem Halts.readCws (n : Nat) : ∀ (s : State) (cw : Nat) (m : Met), Halts s (s.readCws n cw m).1 := by
  induction n with
  | zero => exact fun s _ _ => .rfl' s
  | succ n ih => exact fun s cw m => (Halts.readCw s cw m).trans' (ih _ _ _)

theorem Halts.readBytes (s : State) (a n : Nat) (m : Met) : Halts s (s.readBytes a n m).1 := Halts.readCws _ _ _ _

theorem Halts.readMarked (s : State) (a n : Nat) (m : Met) : Halts s (s.readMarked a n m).1 := by
  have go : ∀ (is : List Nat) (f : State × List (Byte × Bool) × Met → Nat → State × List (Byte × Bool) × Met),
      (∀ acc i, Halts acc.1 (f acc i).1) → ∀ acc, Halts acc.1 (is.foldl f acc).1 := by
    intro is f hf
    induction is with
    | nil => exact fun acc => .rfl' acc.1
    | cons i is ih => exact fun acc => (hf acc i).trans' (ih _)
  exact go _ _ (fun acc i => Halts.readCw acc.1 _ _) (s, [], m)

theorem Halts.poisonBytes (s : State) (a : Nat) (fl : List Bool) : Halts s (s.poisonBytes a fl) :=
  Halts.fold (fun t _ => Halts.setCwImage t _ _) _ s

theorem Halts.wipeCws (n : Nat) : ∀ (s : State) (cw : Nat), Halts s (s.wipeCws n cw) := by
  induction n with
  | zero => exact fun s _ => .rfl' s
  | succ n ih => exact fun s cw => ((Halts.cover s cw).trans' (.setCwImage _ _ _)).trans' (ih _ _)

theorem Halts.readW18s (n : Nat) : ∀ (s : State) (w : Nat) (m : Met), Halts s (s.readW18s n w m).1 := by
  induction n with
  | zero => exact fun s _ _ => .rfl' s
  | succ n ih => exact fun s w m => (Halts.touch s _).trans' (ih _ _ _)

theorem Halts.writeW18cw (s : State) (cw k : Nat) (vs : List Word) (m : Met) : Halts s (s.writeW18cw cw k vs m).1 := by
  unfold State.writeW18cw
  dsimp only
  refine Halts.trans' ?_ (.setCwImage _ _ _)
  split
  · exact Halts.cover s cw
  · exact Halts.touch s cw

theorem Halts.writeW18s (n : Nat) : ∀ (s : State) (w : Nat) (vs : List Word) (m : Met), Halts s (s.writeW18s n w vs m).1 := by
  induction n with
  | zero => exact fun s _ _ _ => .rfl' s
  | succ n ih =>
    intro s w vs m
    unfold State.writeW18s
    split
    · exact .rfl' s
    · exact (Halts.writeW18cw s _ _ _ m).trans' (ih _ _ _ _)

/-! The ledger's stamps (R209 to R224) -/

theorem Halts.ledEvent (s : State) {ev : Fld} (h : ruled ev.addr = false) : Halts s (s.ledEvent ev) := Halts.event s _ _ _ h

theorem Halts.countOne (s : State) (i : Nat) (c : Bool) : Halts s (s.countOne i c) := by
  have counted : Halts s (s.setCounter i (s.counter i + 1)) := .of_regs rfl
  have full := (counted.trans' (.ledEvent _ (ev := Reg.LED_EVENT_SAT) rfl)).ite (c := (s.setCounter i (s.counter i + 1)).counter i = counterMax) counted
  have kept : ∀ l : Ledger, Halts s ({ (if (s.setCounter i (s.counter i + 1)).counter i = counterMax then
      (s.setCounter i (s.counter i + 1)).ledEvent Reg.LED_EVENT_SAT else s.setCounter i (s.counter i + 1)) with led := l } : State) :=
    fun l => full.trans' (.of_regs rfl)
  unfold State.countOne
  exact Halts.ite (.of_regs rfl) ((Halts.ledEvent s rfl).ite (((kept _).trans' (.put _ _ rfl)).ite (kept _)))

theorem Halts.count (s : State) (xs : List Nat) (c : Bool) : Halts s (s.count xs c) :=
  Halts.fold (fun t i => (Halts.countOne t i c).ite (.rfl' t)) _ _

theorem Halts.unqueue (s : State) (i : Nat) : Halts s (s.unqueue i) := .of_reg ((Same.unqueue (P := fun a => ruled a = true) s i).1)

theorem Halts.requeue (s : State) (i p : Nat) : Halts s (s.requeue i p) := .of_reg ((Same.requeue (P := fun a => ruled a = true) s i p).1)

theorem Halts.stampProgress (s : State) (i p t : Nat) : Halts s (s.stampProgress i p t) := by
  have queued : Halts s ((s.setRecord i { (s.record i).setProgress p with time := t }).requeue i p) := (Halts.setRecord s i _).trans' (.requeue _ i p)
  exact (queued.trans' (.count _ _ _)).ite ((queued.trans' (.count _ _ _)).ite queued)

theorem Halts.stampImaged (s : State) (i m t : Nat) : Halts s (s.stampImaged i m t) :=
  .of_reg ((Same.stampImaged (P := fun a => ruled a = true) (fun _ ha => ne_of_ruled ha rfl) s i m t).1)

theorem Halts.stampSpoil (s : State) (i c t : Nat) : Halts s (s.stampSpoil i c t) := ((Halts.setRecord s i _).trans' (.count _ _ _)).ite (.rfl' s)

theorem Halts.stampVoid (s : State) (i t : Nat) : Halts s (s.stampVoid i t) :=
  ((Halts.setRecord s i _).trans' (.unqueue _ i)).trans' (.count _ _ _)

theorem Halts.spoils (recs : List Nat) (cause t : Nat) (s : State) :
    Halts s (recs.foldl (fun u i => (u.meetRec i).stampSpoil i cause t) s) :=
  Halts.fold (fun u i => (Halts.meetRec u i).trans' (.stampSpoil _ _ _ _)) _ _

theorem Halts.stageStamp (s : State) (r code mask : Nat) (t : State) (h : s.stageStamp r code mask = some t) : Halts s t := by
  unfold State.stageStamp at h
  dsimp only at h
  split_ifs at h <;> cases h
  · exact .stampImaged s _ _ _
  · exact .stampSpoil s _ _ _
  · exact .stampVoid s _ _
  · exact .stampProgress s _ _ _

/-- A station's sheets spoil (R241): the ledger's spoil is the one event that this stamps. -/
theorem Halts.stnSpoil (s : State) (n : Nat) (recs : List Nat) (c : Nat) : Halts s (s.stnSpoil n recs c) := by
  have stamped : ∀ e : LedEvent, (∃ rs t, e = .spoil rs c t) → Halts s (s.ledEventNow e) := by
    rintro e ⟨rs, t, rfl⟩
    exact Halts.ite (.of_regs rfl) (.spoils rs c t s)
  unfold State.stnSpoil
  dsimp only
  refine (Halts.rfl' s).ite ?_
  refine (((stamped _ ⟨_, _, rfl⟩).trans' (.put _ _ (unruled ?_))).trans' (.fold (fun t _ => Halts.bump t (unruled ?_)) _ _)).trans'
    (.event _ _ _ _ (unruled ?_))
  · show 0x81B + 0x80 * n ≠ _ ∧ 0x81B + 0x80 * n ≠ _ ∧ 0x81B + 0x80 * n ≠ _
    omega
  · show 0x81C + 0x80 * n ≠ _ ∧ 0x81C + 0x80 * n ≠ _ ∧ 0x81C + 0x80 * n ≠ _
    omega
  · show 0x803 + 0x80 * n ≠ _ ∧ 0x803 + 0x80 * n ≠ _ ∧ 0x803 + 0x80 * n ≠ _
    omega

end Sys2Proof.Machine

namespace Sys2Proof.Machine
open Sys2Proof

/-! Descriptors that go on, stop or complete leave the firmware's registers alone. Support for O34. -/

theorem Halts.setFlight {s t : State} (h : Halts s t) (i : Nat) (f : Flight) : Halts s (t.setFlight i f) := h.trans' (.of_regs rfl)

theorem Halts.fixFlight {s t : State} (h : Halts s t) (i : Nat) (c : Compl) : Halts s (t.fixFlight i c) :=
  h.trans' (.of_regs (fixFlight_keeps State.regs (fun _ _ _ => rfl) t i c))

theorem Halts.held (s : State) (i : Nat) (f : Flight) : Halts s (s.holdFlight i f) := (Halts.rfl' s).setFlight _ _

theorem Halts.fixed (s : State) (i : Nat) (c : Compl) : Halts s (s.fixFlight i c) := (Halts.rfl' s).fixFlight i c

theorem Halts.toHost {s t : State} (k : Halts s t) (h : PHost) (a : Nat) (bs : List Byte) : Halts s (t.toHost h a bs) := by
  unfold State.toHost
  exact k.ite (k.trans' (.of_regs rfl))

theorem Halts.setStn (s : State) (n : Nat) (x : Stn) : Halts s (s.setStn n x) := .of_regs rfl

/-! A descriptor stops before its commit (R185) -/

/-- A MOVE's copy is given up: its entry is emptied, wherever it lies, and its destination cleared. -/
theorem Halts.dropMove (s : State) (n : Nat) : Halts s (s.dropMove n) := by
  have dst : s.get (Reg.ARR_MOVE_DST n) < 64 := State.get_lt s (Reg.ARR_MOVE_DST n)
  have emptied : Halts s (s.setReg (0x410 + n) 0#18) := by
    intro a _
    by_cases e : a = 0x410 + n
    · exact .inr ⟨by omega, e ▸ State.reg_setReg_same _ _ _⟩
    · exact .inl (State.reg_setReg_ne _ _ e)
  exact (((emptied.trans' (.put _ _ (ruled_region dst))).trans' (.setRstate _ _ dst)).trans' (.clearRegion _ _)).trans' (.retireLate _ dst)

theorem Halts.undo (s : State) (i : Nat) (f : Flight) : Halts s (s.undo i f) := by
  unfold State.undo
  split
  · exact Halts.ite (.of_regs rfl) (.rfl' s)
  · exact (Halts.rfl' s).ite (.of_regs rfl)
  · exact (Halts.dropMove s _).ite (.rfl' s)
  · exact .rfl' s

theorem Halts.stopFlight (s : State) (i : Nat) (f : Flight) (st : Byte) : Halts s (s.stopFlight i f st) := (Halts.undo s i f).fixFlight _ _

theorem Halts.doAbort (s : State) (i : Nat) (f : Flight) : Halts s (s.doAbort i f) := by
  unfold State.doAbort
  dsimp only
  split
  · exact (Halts.stopFlight s _ _ _).fixFlight _ _
  · exact .fixed s _ _

/-! Each opcode's step -/

theorem Halts.placed {s t : State} (h : Halts s t) (i : Nat) (f : Flight) : Halts s (t.placed i f) := by
  unfold State.placed
  split
  · exact h.fixFlight _ _
  · exact Halts.ite ((h.setFlight _ _).fixFlight _ _) (h.setFlight _ _)

theorem Halts.placeWrite (s : State) (i : Nat) (f : Flight) : Halts s (s.placeWrite i f) := by
  unfold State.placeWrite
  extract_lets addr k
  split
  · exact .held s _ _
  · exact ((Halts.writeBytes s _ _ _ _).trans' (.writeBytes _ _ _ _ _)).placed _ _

theorem Halts.placeW18 (s : State) (i : Nat) (f : Flight) : Halts s (s.placeW18 i f) := by
  unfold State.placeW18
  extract_lets w m k
  split
  · exact .held s _ _
  · exact (Halts.writeW18s _ s _ _ _).placed _ _

theorem Halts.doRead (s : State) (i : Nat) (f : Flight) : Halts s (s.doRead i f) := by
  unfold State.doRead
  dsimp only
  split
  · exact .held s _ _
  · exact ((Halts.readBytes s _ _ _).toHost _ _ _).fixFlight _ _

theorem Halts.doReadW18 (s : State) (i : Nat) (f : Flight) : Halts s (s.doReadW18 i f) := by
  unfold State.doReadW18
  dsimp only
  split
  · exact .held s _ _
  · exact ((Halts.readW18s _ s _ _).toHost _ _ _).fixFlight _ _

theorem Halts.doCopy (s : State) (i : Nat) (f : Flight) : Halts s (s.doCopy i f) := by
  unfold State.doCopy
  dsimp only
  split
  · exact .held s _ _
  · exact (((Halts.readMarked s _ _ _).trans' (.writeBytes _ _ _ _ _)).trans' (.poisonBytes _ _ _)).fixFlight _ _

theorem Halts.doFill (s : State) (i : Nat) (f : Flight) : Halts s (s.doFill i f) := by
  unfold State.doFill
  dsimp only
  split
  · exact .held s _ _
  · exact Halts.ite ((Halts.wipeCws _ s _).fixFlight _ _) ((Halts.writeBytes s _ _ _ _).fixFlight _ _)

theorem Halts.placeTable (s : State) (i : Nat) (f : Flight) : Halts s (s.placeTable i f) := by
  have loaded : ∀ x : Stn, Halts s (s.setStn f.d.stn x) := Halts.setStn s _
  have dirty : ∀ x : Stn, Halts s ((s.setStn f.d.stn x).dirtyTable f.d) := fun _ => .of_regs rfl
  unfold State.placeTable
  dsimp only
  split
  · exact .held s _ _
  · split
    · exact (dirty _).fixFlight _ _
    · split
      · exact (dirty _).fixFlight _ _
      · split
        · refine Halts.fixFlight ?_ _ _
          split
          · exact .of_regs rfl
          · exact loaded _
        · exact (loaded _).setFlight _ _

theorem Halts.swapTables (s : State) (n mask : Nat) : Halts s (s.swapTables n mask) := by
  refine (Halts.setStn s n _).trans' (.fold (fun t i => .put t _ (unruled ?_)) _ _)
  show 0x81A + 0x80 * n ≠ _ ∧ 0x81A + 0x80 * n ≠ _ ∧ 0x81A + 0x80 * n ≠ _
  omega

theorem Halts.swapNow (s : State) (i : Nat) (f : Flight) : Halts s (s.swapNow i f) := (Halts.swapTables s _ _).fixFlight _ _

theorem Halts.moveStart (s : State) (i : Nat) (f : Flight) : Halts s (s.moveStart i f) := by
  have src : bits f.d.p0.toNat 5 0 < 64 := Nat.mod_lt _ (by decide)
  have dst : bits f.d.p0.toNat 13 8 < 64 := Nat.mod_lt _ (by decide)
  unfold State.moveStart
  dsimp only
  split
  · next n hn =>
    have entry : n < 8 := List.mem_range.mp (List.mem_of_find?_eq_some hn)
    exact ((((((Halts.put s _ (ruled_region dst)).trans' (.setRstate _ _ dst)).trans' (.clearRegion _ _)).trans'
      (.setReg _ _ (unruled (by omega)))).trans' (.yieldWindow _ _)).trans' (.yieldWindow _ _)).setFlight _ _
  · exact .fixed s _ _

theorem Halts.doRaster (s : State) (i : Nat) (f : Flight) : Halts s (s.doRaster i f) := by
  unfold State.doRaster
  split
  · exact .stopFlight s _ _ _
  · split
    · exact (Halts.stopFlight s _ _ _).ite (.rfl' s)
    · split
      · exact .held s _ _
      · split
        · exact .fixed s _ _
        · next r _ =>
          obtain ⟨m, accepted⟩ := (rasterAccept_facts s f.d r).1
          rw [accepted]
          exact Halts.setFlight (.of_regs rfl) _ _

theorem Halts.holdLedger (s : State) (i : Nat) (f : Flight) : Halts s (s.holdLedger i f) := Halts.ite (.held s i f) (.of_regs rfl)

theorem Halts.doOpen (s : State) (i : Nat) (f : Flight) : Halts s (s.doOpen i f) := by
  unfold State.doOpen
  split
  · exact .held s _ _
  · split
    · exact .holdLedger s _ _
    · split
      · exact .fixed s _ _
      · split
        · exact (Halts.fixed s _ _).trans' (.ledEvent _ rfl)
        · split
          · exact .fixed s _ _
          · refine Halts.fixFlight ?_ _ _
            have opened : ∀ (r n : Nat) (x : Rec), Halts s ((((s.meetRec r).setRecord r x).put Reg.LED_NEXT_LO (n % 2 ^ 18)).put
                Reg.LED_NEXT_HI_NEXT_HI (n / 2 ^ 18)) := fun r n x =>
              (((Halts.meetRec s r).trans' (.setRecord _ _ _)).trans' (.put _ _ rfl)).trans' (.put _ _ rfl)
            exact ((opened _ _ _).trans' (.ledEvent _ rfl)).ite (opened _ _ _)

theorem Halts.doStage (s : State) (i : Nat) (f : Flight) : Halts s (s.doStage i f) := by
  unfold State.doStage
  split
  · exact .held s _ _
  · split
    · exact .holdLedger s _ _
    · split
      · exact .fixed s _ _
      · split
        · exact (Halts.meetRec s _).fixFlight _ _
        · next t ht => exact ((Halts.meetRec s _).trans' (.stageStamp _ _ _ _ t ht)).fixFlight _ _

theorem Halts.doQuery (s : State) (i : Nat) (f : Flight) : Halts s (s.doQuery i f) := by
  unfold State.doQuery
  split
  · exact .held s _ _
  · split
    · exact .fixed s _ _
    · exact Halts.fixFlight ((Halts.meetRec s _).ite ((Halts.meetRec s _).toHost _ _ _)) _ _

theorem Halts.doCounters (s : State) (i : Nat) (f : Flight) : Halts s (s.doCounters i f) := by
  unfold State.doCounters
  exact (Halts.held s _ _).ite ((((Halts.rfl' s).toHost _ _ _).fixFlight _ _).ite (.fixed s _ _))

theorem Halts.doKeepRead (s : State) (i : Nat) (f : Flight) : Halts s (s.doKeepRead i f) := by
  unfold State.doKeepRead
  exact ((Halts.rfl' s).setFlight _ _).ite (((Halts.rfl' s).toHost _ _ _).fixFlight _ _)

theorem Halts.doGet (s : State) (i : Nat) (f : Flight) : Halts s (s.doGet i f) := by
  unfold State.doGet
  refine ((Halts.rfl' s).setFlight _ _).ite ?_
  split
  · exact .fixed s _ _
  · exact ((Halts.rfl' s).toHost _ _ _).fixFlight _ _

theorem Halts.doKeepWrite (s : State) (i : Nat) (f : Flight) : Halts s (s.doKeepWrite i f) := by
  have waits : ∀ g : Flight, Halts s (s.setFlight i g) := fun g => (Halts.rfl' s).setFlight i g
  unfold State.doKeepWrite
  split
  · exact .fixed s _ _
  · exact (waits _).ite ((waits _).ite ((waits _).ite (Halts.ite (Halts.fixFlight (.of_regs rfl) _ _) (waits _))))

/-- TIME_SET writes registers of the clock alone, and the hold (R328, R332). -/
theorem Halts.timeSet (s : State) (c : Calendar) : Halts s (s.timeSet c) := by
  have alarm : ∀ (t : State) (k : Nat), k < 2 → Halts t (t.alarmSet k) := fun t k hk => .keeps (fun a ha =>
    alarmSet_keeps (fun u : State => u.reg a) (fun u ev h => event_reg_ne u ev _ _ _ _ (ne_of_ruled ha (h ▸ rfl)))
      (fun u v => State.reg_setReg_ne _ _ (ne_of_ruled ha rfl))
      (fun u k hk => State.reg_setReg_ne u _ (ne_of_ruled ha (unruled (by simp only [Reg.RTC_ALM_0_BUSY]; omega)))) t k hk)
  unfold State.timeSet
  extract_lets clock s1 s2
  have set : Halts s s1 := .of_regs rfl
  have cleared : Halts s1 s2 :=
    Halts.ite (((((Halts.put s1 _ rfl).trans' (.put _ _ rfl)).trans' (.put _ _ rfl)).trans' (.put _ _ rfl)).trans' (.put _ _ rfl)) (.rfl' s1)
  exact ((set.trans' cleared).trans' (alarm s2 0 (by decide))).trans' (alarm _ 1 (by decide))

theorem Halts.advance (s : State) (i : Nat) : Halts s (s.advance i) := by
  unfold State.advance
  split
  · exact .rfl' s
  · next f _ =>
    refine (Halts.rfl' s).ite (((Halts.rfl' s).ite ((Halts.undo s i f).fixFlight _ _)).ite ?_)
    split
    · exact .fixed s _ _
    · exact (Halts.placeWrite s _ _).ite (.rfl' s)
    · exact .doRead s _ _
    · exact .doCopy s _ _
    · exact .doFill s _ _
    · exact (Halts.moveStart s _ _).ite (.rfl' s)
    · exact (Halts.placeW18 s _ _).ite (.rfl' s)
    · exact .doReadW18 s _ _
    · exact .doRaster s _ _
    · exact (Halts.placeTable s _ _).ite (.rfl' s)
    · exact ((Halts.rfl' s).setFlight _ _).ite ((Halts.swapNow s _ _).ite (.rfl' s))
    · exact .doOpen s _ _
    · exact .doStage s _ _
    · exact .doQuery s _ _
    · exact .doCounters s _ _
    · exact .doKeepRead s _ _
    · exact .doKeepWrite s _ _
    · exact .doKeepWrite s _ _
    · exact .doGet s _ _
    · exact .fixed s _ _
    · exact (Halts.timeSet s _).fixFlight _ _
    · exact (Halts.rfl' s).setFlight _ _
    · exact .doAbort s _ _
    · exact .fixed s _ _

theorem Halts.askData (s : State) (i : Nat) : Halts s (s.askData i) := by
  unfold State.askData
  split
  · exact .rfl' s
  · exact Halts.ite (Halts.setFlight (.of_regs rfl) _ _) (.rfl' s)

/-! What follows an event (R176 to R181) -/

theorem Halts.retireAll (s : State) : Halts s s.retireAll := by
  refine .of_reg (retireAll_same (P := fun a => ruled a = true) (fun a ha => ?_) s).1
  by_cases e : 0x720 ≤ a ∧ a < 0x800
  · exact absurd ha (by rw [unruled (by omega)]; exact Bool.noConfusion)
  · omega

theorem Halts.issueFetches (s : State) (h : PHost) : Halts s (s.issueFetches h) :=
  issueFetches_keeps (fun t => Halts s t) (fun t k j ht => ht.trans' (.of_regs (fetchTurn_facts t k j).1))
    (fun _ _ _ _ ht => ht.trans' (.of_regs rfl)) s h (.rfl' s)

theorem Halts.settle (s : State) : Halts s s.settle :=
  (((((Halts.fold (f := State.askData) Halts.askData _ s).trans' (Halts.fold (f := State.advance) Halts.advance _ _)).trans' (.retireAll _)).trans'
    (.issueFetches _ 0)).trans' (.issueFetches _ 2)).ite (.rfl' s)

/-! The hosts' functions reset (R186), the stations disarm (R233) -/

theorem Halts.dropHost (s : State) (h : PHost) : Halts s (s.dropHost h) := by
  have undone : ∀ (t : State) (i : Nat), Halts t (match t.flights[i]? with | some f => if f.host = h ∧ f.open_ then t.undo i f else t | none => t) := by
    intro t i
    split
    · exact (Halts.undo t _ _).ite (.rfl' t)
    · exact .rfl' t
  exact (Halts.fold undone (List.range s.flights.length) s).trans' (.of_regs rfl)

theorem hostRegAddr_ruled {a : Nat} (h : PHost) (ha : ruled a = true) : hostRegAddr h.val a = false := by
  have low := h.isLt
  unfold ruled at ha
  simp only [Bool.or_eq_true, beq_iff_eq] at ha
  unfold hostRegAddr
  simp only [Bool.or_eq_false_iff, decide_eq_false_iff_not]
  omega

theorem Halts.functionCleared (s : State) (h : PHost) : Halts s (s.functionCleared h) := by
  have cleared : ∀ t : State, Halts t { t with regs := Map.keep t.regs (fun a => !hostRegAddr h.val a) } := fun t => .of_reg (fun a ha => by
    refine (Map.get_keep regReset t.regs (fun a => !hostRegAddr h.val a) a).trans ?_
    rw [hostRegAddr_ruled h ha]
    rfl)
  have boxes : ∀ t : State, Halts t (t.mbReset (h.val + 1)) := fun t =>
    .of_reg (fun a ha => (mbReset_facts t _).2.2 a (ne_of_ruled ha (unruled (by have := h.isLt; omega))))
  exact (((Halts.dropHost s h).trans' (cleared _)).trans' (.of_regs rfl)).trans' (boxes _)

theorem Halts.functionReset (s : State) (h : PHost) : Halts s (s.functionReset h false) := by
  rw [functionReset_cleared]
  exact (Halts.functionCleared s h).trans' (.settle _)

theorem Halts.swapsDue (s : State) (n : Nat) (due : Nat → Bool) : Halts s (s.swapsDue n due) :=
  .keeps (fun a ha => swapsDue_keeps (fun u : State => u.reg a) n (fun _ _ => rfl) (fun _ _ => rfl)
    (fun t w => State.reg_setReg_ne t _ (ne_of_ruled ha (unruled (by omega)))) s due)

theorem Halts.disarmNow (s : State) (n : Nat) : Halts s (s.disarmNow n) := by
  have status : ∀ (t : State) (f : Fld) (v : Nat), f.addr = 0x802 + 0x80 * n → Halts t (t.put f v) := fun t f v h => .put t v (unruled (by omega))
  unfold State.disarmNow
  extract_lets q s1 s2 src s3 s4
  have shown : Halts s s2 :=
    (((Halts.stnSpoil s n _ 7).trans' (status _ (Reg.STN_STATUS_ARMED n) 0 rfl)).trans' (status _ (Reg.STN_STATUS_WAIT_SOS n) 0 rfl)).trans'
      (status _ (Reg.STN_STATUS_STALLED n) 0 rfl)
  have emptied : Halts s s3 := shown.trans' (.setStn _ _ _)
  have ended : Halts s3 s4 := by
    refine .fold (fun u i => ?_) _ _
    split
    · exact (Halts.fixed u _ _).ite (.rfl' u)
    · exact .rfl' u
  exact ((emptied.trans' ended).trans' (.swapsDue _ _ _)).trans' (.retireAll _)

/-! The wipe begins (R372) -/

/-- No cluster and no core is in service, and the wipe runs. -/
def State.halted (s : State) : Prop := s.get Reg.FW_STAT_CLU_ON = 0 ∧ s.get Reg.FW_CORES_ON = 0 ∧ s.get Reg.ID_LC_WIPING = 1

/-- A field of an emptied register. -/
theorem get_zero {s : State} {f : Fld} (h : s.reg f.addr = 0#18) : s.get f = 0 := by
  unfold State.get bits
  rw [h]
  exact (congrArg (· % _) (Nat.zero_div _)).trans (Nat.zero_mod _)

theorem Halts.halted {s t : State} (h : Halts s t) (hs : s.halted) : t.halted := by
  obtain ⟨clusters, cores, wiping⟩ := hs
  have off : ∀ f : Fld, ruled f.addr = true → s.get f = 0 → t.get f = 0 := fun f hf h0 =>
    (h _ hf).elim (fun e => (congrArg (fun w : Word => bits w.toNat f.hi f.lo) e).trans h0) (fun e => get_zero e.2)
  refine ⟨off _ rfl clusters, off _ rfl cores, ?_⟩
  have kept : t.reg 0x00B = s.reg 0x00B := (h 0x00B rfl).elim id (fun e => absurd e.1 (by decide))
  exact (congrArg (fun w : Word => bits w.toNat Reg.ID_LC_WIPING.hi Reg.ID_LC_WIPING.lo) kept).trans wiping

end Sys2Proof.Machine

namespace Sys2Proof.Machine
open Sys2Proof

/-! The life-cycle's token (R371): O34 -/

theorem tokenFits_iff (s : State) (ws : List (BitVec 16)) : s.tokenFits ws = true ↔
    (∀ i, i < 4 → (ws.getD i 0#16).toNat = s.get (Reg.ID_SERIAL_SERIAL i)) ∧ (ws.getD 5 0#16).toNat = s.get Reg.ID_LC_CHANGES ∧
    tokenFrom ws = s.get Reg.ID_LC_STATE ∧ s.get Reg.ID_LC_CHANGES < 32767 ∧ lifeArrow (tokenFrom ws) (tokenTo ws) = true := by
  unfold State.tokenFits
  simp only [Bool.and_eq_true, List.all_eq_true, List.mem_range, decide_eq_true_eq, and_assoc]

theorem tokenResult_one_iff (s : State) : s.tokenResult = 1 ↔ s.fw.token.length = 40 ∧ s.pwr.st = .run ∧ s.get Reg.FW_STAT_OP = 0 ∧ tokenSigned s.fw.token = true ∧
    (∀ i, i < 4 → (s.fw.token.getD i 0#16).toNat = s.get (Reg.ID_SERIAL_SERIAL i)) ∧ (s.fw.token.getD 5 0#16).toNat = s.get Reg.ID_LC_CHANGES ∧
    tokenFrom s.fw.token = s.get Reg.ID_LC_STATE ∧ s.get Reg.ID_LC_CHANGES < 32767 ∧ lifeArrow (tokenFrom s.fw.token) (tokenTo s.fw.token) = true := by
  rw [← tokenFits_iff]
  unfold State.tokenResult
  split
  · next h =>
    refine ⟨fun e => absurd e (by decide), fun ⟨hl, hp, ho, _⟩ => ?_⟩
    exact h.elim (fun h => absurd hl h) (fun h => h.elim (fun h => absurd hp h) (fun h => absurd ho h))
  · next h =>
    have ready : s.fw.token.length = 40 ∧ s.pwr.st = .run ∧ s.get Reg.FW_STAT_OP = 0 := by
      push Not at h
      exact h
    obtain ⟨hl, hp, ho⟩ := ready
    cases tokenSigned s.fw.token
    · exact ⟨fun e => absurd ((if_pos rfl).symm.trans e) (show ¬2 = 1 by decide), fun ⟨_, _, _, h, _⟩ => Bool.noConfusion h⟩
    · cases s.tokenFits s.fw.token
      · exact ⟨fun e => absurd e (by decide), fun ⟨_, _, _, _, h⟩ => Bool.noConfusion h⟩
      · exact ⟨fun _ => ⟨hl, hp, ho, rfl, rfl⟩, fun _ => rfl⟩

theorem tokenResult_lt (s : State) : s.tokenResult < 4 := by
  unfold State.tokenResult
  split_ifs <;> decide

/-- What LC_APPLY of H0 leaves before it acts on the token's RESULT. -/
def State.tokenTaken (s : State) : State := ({ s with fw := { s.fw with token := [] } } : State).put Reg.FW_TOK_STAT_RESULT s.tokenResult

theorem exec_lcApply {x : Sender} {s : State} (hr : s.reaches x 0xE00 true = true) (hx : isH0 x = true) :
    exec (.lcApply x) s = .next (if s.tokenResult = 1 then s.tokenTaken.wipeBegin (tokenTo s.fw.token) else s.tokenTaken.fwEvent Reg.FW_EVENT_LC_REFUSED) :=
  congrArg Host.Outcome.next ((if_pos hr).trans (if_pos hx))

theorem tokenTaken_get (s : State) {g : Fld} (h : g.addr ≠ 0xE11) : s.tokenTaken.get g = s.get g :=
  (State.get_put_ne _ _ h).trans (State.get_fw s _ g)

theorem life_refused_clause (x : Sender) (s : State) (hr : s.reaches x 0xE00 true = true) (hx : isH0 x = true) (ht : s.tokenResult ≠ 1) :
    ∃ t, exec (.lcApply x) s = .next t ∧ t.fw = { s.fw with token := [] } ∧ t.get Reg.FW_TOK_STAT_RESULT = s.tokenResult ∧
      t.get Reg.FW_EVENT_LC_REFUSED = 1 ∧ t.get Reg.ID_LC_STATE = s.get Reg.ID_LC_STATE ∧ t.arr = s.arr :=
  ⟨_, (exec_lcApply hr hx).trans (congrArg Host.Outcome.next (if_neg ht)), fwEvent_fw _ _,
    (fwEvent_get_ne _ (by decide)).trans (State.get_put_same _ _ _ (lt_rfl rfl) (tokenResult_lt s)),
    fwEvent_get_same _ (lt_rfl rfl) rfl, (fwEvent_get_ne _ (by decide)).trans (tokenTaken_get s (by decide)), fwEvent_arr _ _⟩

theorem life_others_clause (x : Sender) (s : State) (hx : isH0 x = false) : exec (.lcApply x) s = .next s := by
  have kept : s.lcApply x = s := if_neg (by rw [hx]; exact Bool.noConfusion)
  show Host.Outcome.next (if s.reaches x 0xE00 true then s.lcApply x else s) = _
  rw [kept, ite_self]

/-! The wipe begins (R372) -/

/-- The registers at the wipe's start. -/
def State.wipeShown (s : State) : State := s.putAll [(Reg.ID_LC_WIPING, 1), (Reg.FW_STAT_OP, opLife), (Reg.SWP_STAT_ACTIVE, 0), (Reg.SWP_STAT_LAG, 0),
  (Reg.FW_STAT_CLU_ON, 0), (Reg.FW_CORES_ON, 0)]

theorem wipeShown_halted (s : State) : s.wipeShown.halted := by
  refine ⟨?_, State.get_put_same _ _ 0 (lt_rfl rfl) (lt_rfl rfl), ?_⟩
  · exact (State.get_put_ne _ _ (by decide)).trans (State.get_put_same _ _ 0 (lt_rfl rfl) (lt_rfl rfl))
  · exact (State.get_put_ne _ _ (by decide)).trans ((State.get_put_ne _ _ (by decide)).trans ((State.get_put_ne _ _ (by decide)).trans
      ((State.get_put_ne _ _ (by decide)).trans ((State.get_put_ne _ _ (by decide)).trans (State.get_put_same s _ 1 (lt_rfl rfl) (lt_rfl rfl))))))

/-- Every existing host's function resets, and every armed station disarms. -/
def State.wipeStopped (s : State) : State :=
  let s1 := s.existing.foldl (fun (t : State) h => t.functionReset h false) s.dropWindow
  ((List.range 8).filter s1.stnArmed).foldl (fun (t : State) n => t.disarmNow n) s1

theorem wipeStopped_halted {s : State} (h : s.halted) : s.wipeStopped.halted :=
  (((Halts.of_regs (t := s.dropWindow) rfl).trans' (Halts.fold Halts.functionReset s.existing _)).trans' (Halts.fold Halts.disarmNow _ _)).halted h

theorem wipeBegin_eq (s : State) (goal : Nat) : s.wipeBegin goal = { s.wipeShown.wipeStopped with fw := { s.wipeShown.wipeStopped.fw with
    wipePending := some goal, wipeStep := 3, wipePage := 64, act := none, loadSlot := none, erasing := none } } := rfl

theorem life_wipe_clause (x : Sender) (s : State) (hr : s.reaches x 0xE00 true = true) (hx : isH0 x = true) (ht : s.tokenResult = 1) :
    ∃ t, exec (.lcApply x) s = .next t ∧ t.fw.wipePending = some (tokenTo s.fw.token) ∧ t.fw.wipeStep = 3 ∧ t.fw.wipePage = 64 ∧
      t.fw.act = none ∧ t.fw.loadSlot = none ∧ t.fw.erasing = none ∧ t.get Reg.FW_STAT_CLU_ON = 0 ∧ t.get Reg.FW_CORES_ON = 0 ∧
      t.get Reg.ID_LC_WIPING = 1 := by
  obtain ⟨clusters, cores, wiping⟩ := wipeStopped_halted (wipeShown_halted s.tokenTaken)
  refine ⟨_, (exec_lcApply hr hx).trans (congrArg Host.Outcome.next (if_pos ht)), ?_⟩
  rw [wipeBegin_eq]
  exact ⟨rfl, rfl, rfl, rfl, rfl, rfl, (State.get_fw _ _ _).trans clusters, (State.get_fw _ _ _).trans cores, (State.get_fw _ _ _).trans wiping⟩

/-! The wipe's steps (R372) -/

theorem exec_lcWipeStep {s : State} (cores : BitVec 16) (h : s.pwr.st = .run) : exec (.lcWipeStep cores) s = .next (s.wipeStepDone cores.toNat) :=
  congrArg Host.Outcome.next (if_pos (.inl h))

/-- MB_SRC, MB_COLL and the mailboxes' events (R316). -/
def mailRegAddr (a : Nat) : Bool :=
  decide (0x300 ≤ a ∧ a < 0x380 ∧ (a % 0x10 = 4 ∨ a % 0x10 = 5 ∨ a % 0x10 = 7)) || decide (0x3A0 ≤ a ∧ a ≤ 0x3A4)

theorem mailboxRegs_get (s : State) {a : Nat} (h : mailRegAddr a = true) : s.mailboxRegs.reg a = regReset a := by
  refine (Map.get_keep regReset s.regs (fun a => !mailRegAddr a) a).trans ?_
  rw [h]
  rfl

theorem mailboxRegs_reg (s : State) {c : Nat} (h : c < 8) : s.mailboxRegs.reg (0x304 + 0x10 * c) = 0#18 ∧ s.mailboxRegs.reg (0x305 + 0x10 * c) = 0#18 := by
  have resets : ∀ c : Fin 8, (mailRegAddr (0x304 + 0x10 * c.val) = true ∧ regReset (0x304 + 0x10 * c.val) = 0#18) ∧
      mailRegAddr (0x305 + 0x10 * c.val) = true ∧ regReset (0x305 + 0x10 * c.val) = 0#18 := by decide
  obtain ⟨⟨m1, r1⟩, m2, r2⟩ := resets ⟨c, h⟩
  exact ⟨(mailboxRegs_get s m1).trans r1, (mailboxRegs_get s m2).trans r2⟩

theorem wipeArray_reg (s : State) {a : Nat} (h : a < 0x600) : s.wipeArray.reg a = s.neverStored.mailboxRegs.reg a := by
  unfold State.wipeArray State.put36
  dsimp only
  exact (State.reg_put_ne _ _ (show a ≠ 0x614 by omega)).trans ((State.reg_setReg_ne _ _ (show a ≠ 0x611 by omega)).trans
    (State.reg_setReg_ne _ _ (show a ≠ 0x610 by omega)))

theorem wipeStep_three {s : State} (cores : Nat) (h : s.fw.wipeStep = 3) : s.wipeStepDone cores = { s.wipeArray with fw := { s.wipeArray.fw with wipeStep := 4 } } := by
  unfold State.wipeStepDone
  rw [h]
  rfl

theorem life_array_clause (cores : BitVec 16) (s : State) (hp : s.pwr.st = .run) (h : s.fw.wipeStep = 3) :
    ∃ t, exec (.lcWipeStep cores) s = .next t ∧ t.arr = [] ∧ t.planeA = [] ∧ t.planeB = [] ∧ t.sealA = [] ∧ t.sealB = [] ∧ t.mboxes = [] ∧ t.poss = [] ∧
      t.led = {} ∧ t.dev = {} ∧ t.devA = [] ∧ t.devB = [] ∧ t.keep.hot = [] ∧ t.keep.words = s.keep.words ∧ t.fw = { s.fw with wipeStep := 4, pads := [] } ∧ t.store = none ∧
      ∀ c, c < 8 → t.reg (0x304 + 0x10 * c) = 0#18 ∧ t.reg (0x305 + 0x10 * c) = 0#18 := by
  refine ⟨_, (exec_lcWipeStep cores hp).trans (congrArg Host.Outcome.next (wipeStep_three _ h)), rfl, rfl, rfl, rfl, rfl, rfl, rfl, rfl, rfl, rfl, rfl, rfl,
    rfl, rfl, rfl, fun c hc => ?_⟩
  obtain ⟨r1, r2⟩ := mailboxRegs_reg s.neverStored hc
  exact ⟨(wipeArray_reg s (show 0x304 + 0x10 * c < 0x600 by omega)).trans r1, (wipeArray_reg s (show 0x305 + 0x10 * c < 0x600 by omega)).trans r2⟩

theorem wipeStep_page {s : State} (cores : Nat) (h : s.fw.wipeStep = 4) : s.wipeStepDone cores = if s.keepBusy then s else s.wipePageNow := by
  unfold State.wipeStepDone
  rw [h]
  rfl

/-- The words of the wipe's page are FRESH, and the others stay (R372). -/
theorem wipePageNow_keep (s : State) (hpage : s.fw.wipePage < 512) : (∀ i, i < 64 → s.wipePageNow.keepArray (64 * s.fw.wipePage + i) = 0#18) ∧
    ∀ w, w / 64 ≠ s.fw.wipePage → w < 32768 → s.wipePageNow.keepArray w = s.keepArray w := by
  have words : s.wipePageNow.keep.words = Map.setAll keepDefault s.keep.words ((List.range 64).map (fun i => (64 * s.fw.wipePage + i, 0#18))) := rfl
  have read : ∀ w, w < 32768 → s.wipePageNow.keepArray w =
      Map.get keepDefault (Map.setAll keepDefault s.keep.words ((List.range 64).map (fun i => (64 * s.fw.wipePage + i, 0#18)))) w := fun w hw => by
    unfold State.keepArray
    rw [words, Nat.mod_eq_of_lt hw]
  refine ⟨fun i hi => ?_, fun w hw low => ?_⟩
  · rw [read _ (by omega)]
    refine get_setAll_same _ _ _ (fun e he _ => ?_) ⟨_, List.mem_map.mpr ⟨i, List.mem_range.mpr hi, rfl⟩, rfl⟩
    obtain ⟨j, -, rfl⟩ := List.mem_map.mp he
    rfl
  · rw [read w low, Map.get_setAll_ne]
    · unfold State.keepArray
      rw [Nat.mod_eq_of_lt low]
    · intro e he
      obtain ⟨j, hj, rfl⟩ := List.mem_map.mp he
      have := List.mem_range.mp hj
      show 64 * s.fw.wipePage + j ≠ w
      omega

theorem life_page_clause (cores : BitVec 16) (s : State) (hp : s.pwr.st = .run) (h : s.fw.wipeStep = 4) (hb : s.keepBusy = false) (hpage : s.fw.wipePage < 512) :
    ∃ t, exec (.lcWipeStep cores) s = .next t ∧ (∀ i, i < 64 → t.keepArray (64 * s.fw.wipePage + i) = 0#18) ∧
      (∀ w, w / 64 ≠ s.fw.wipePage → w < 32768 → t.keepArray w = s.keepArray w) ∧
      t.fw = { s.fw with wipePage := s.fw.wipePage + 1, wipeStep := if 511 ≤ s.fw.wipePage then 5 else 4 } := by
  obtain ⟨fresh, kept⟩ := wipePageNow_keep s hpage
  exact ⟨_, (exec_lcWipeStep cores hp).trans (congrArg Host.Outcome.next ((wipeStep_page _ h).trans (if_neg (by rw [hb]; exact Bool.noConfusion)))),
    fresh, kept, rfl⟩

theorem life_busy_clause (cores : BitVec 16) (s : State) (h : s.fw.wipeStep = 4) (hb : s.keepBusy = true) : exec (.lcWipeStep cores) s = .next s := by
  have waits : s.wipeStepDone cores.toNat = s := (wipeStep_page _ h).trans (if_pos hb)
  show Host.Outcome.next (if s.pwr.st = .run ∨ (s.pwr.st = .waking ∧ s.pwr.cpllLocked) then s.wipeStepDone cores.toNat else s) = _
  rw [waits, ite_self]

/-- The new state, and one more change (Table 15-9). -/
theorem lifeChange_facts (s : State) {goal : Nat} (hg : goal < 4) (hc : s.get Reg.ID_LC_CHANGES < 32767) : (s.lifeChange goal).get Reg.ID_LC_STATE = goal ∧
    (s.lifeChange goal).get Reg.ID_LC_CHANGES = s.get Reg.ID_LC_CHANGES + 1 ∧ (goal = 3 → (s.lifeChange goal).get Reg.SUP_PWR_HOLD = 1) ∧
    (s.lifeChange goal).fw = { s.fw with wipePending := none, wipeStep := 6 } := by
  let s1 := (s.put Reg.ID_LC_STATE goal).put Reg.ID_LC_CHANGES (s.get Reg.ID_LC_CHANGES + 1)
  have state : s1.get Reg.ID_LC_STATE = goal :=
    (State.get_put_apart _ _ (lt_rfl rfl) (.inr (lt_rfl rfl))).trans (State.get_put_same _ _ _ (lt_rfl rfl) hg)
  have changes : s1.get Reg.ID_LC_CHANGES = s.get Reg.ID_LC_CHANGES + 1 :=
    State.get_put_same _ _ _ (lt_rfl rfl) (show s.get Reg.ID_LC_CHANGES + 1 < 32768 by omega)
  unfold State.lifeChange
  dsimp only
  rw [State.get_fw, State.get_fw, State.get_fw]
  by_cases h3 : goal = 3
  · rw [if_pos h3]
    exact ⟨(State.get_put_ne _ _ (by decide)).trans state, (State.get_put_ne _ _ (by decide)).trans changes,
      fun _ => State.get_put_same _ _ 1 (lt_rfl rfl) (lt_rfl rfl), rfl⟩
  · rw [if_neg h3]
    exact ⟨state, changes, fun h => absurd h h3, rfl⟩

theorem life_change_clause (cores : BitVec 16) (s : State) (goal : Nat) (hp : s.pwr.st = .run) (h : s.fw.wipeStep = 5) (hg : s.fw.wipePending = some goal)
    (hlow : goal < 4) (hc : s.get Reg.ID_LC_CHANGES < 32767) :
    ∃ t, exec (.lcWipeStep cores) s = .next t ∧ t.get Reg.ID_LC_STATE = goal ∧ t.get Reg.ID_LC_CHANGES = s.get Reg.ID_LC_CHANGES + 1 ∧
      (goal = 3 → t.get Reg.SUP_PWR_HOLD = 1) ∧ t.fw = { s.fw with wipePending := none, wipeStep := 6 } := by
  have eq : s.wipeStepDone cores.toNat = s.lifeChange goal := by
    unfold State.wipeStepDone
    rw [h, hg]
    rfl
  exact ⟨_, (exec_lcWipeStep cores hp).trans (congrArg Host.Outcome.next eq), lifeChange_facts s hlow hc⟩

/-- What the last step leaves before the warm reset. -/
def State.wipeOver (s : State) : State :=
  let s1 := s.putAll [(Reg.ID_LC_WIPING, 0), (Reg.FW_STAT_OP, 0)]
  let s2 : State := { s1 with fw := { s1.fw with wipeStep := 0 } }
  s2.log 10 1 (s2.get Reg.ID_LC_STATE) (s2.get Reg.ID_LC_CHANGES) 0

theorem wipeEnd_eq (s : State) (cores : Nat) :
    s.wipeEnd cores = if s.wipeOver.pwr.st = .run then s.wipeOver.resetVolley false else (s.wipeOver.bootDone cores).enterRun := rfl

theorem wipeOver_facts (s : State) : s.wipeOver.get Reg.ID_LC_WIPING = 0 ∧ s.wipeOver.get Reg.FW_STAT_OP = 0 ∧ s.wipeOver.fw.wipeStep = 0 ∧
    s.wipeOver.pwr = s.pwr := by
  have logged : ∀ g : Fld, g.addr ≠ 0xD0A → g.addr ≠ 0xD0B → s.wipeOver.get g = ((s.put Reg.ID_LC_WIPING 0).put Reg.FW_STAT_OP 0).get g :=
    fun g h1 h2 => (log_get_ne _ _ _ _ _ _ h1 h2).trans (State.get_fw _ _ g)
  refine ⟨(logged _ (by decide) (by decide)).trans ?_, (logged _ (by decide) (by decide)).trans ?_, congrArg Firmware.wipeStep (log_fw _ _ _ _ _ _),
    log_pwr _ _ _ _ _ _⟩
  · exact (State.get_put_ne _ _ (by decide)).trans (State.get_put_same s _ 0 (lt_rfl rfl) (lt_rfl rfl))
  · exact State.get_put_same _ _ 0 (lt_rfl rfl) (lt_rfl rfl)

theorem life_end_clause (cores : BitVec 16) (s : State) (hp : s.pwr.st = .run) (h : s.fw.wipeStep = 6) :
    ∃ u : State, exec (.lcWipeStep cores) s = .next (u.resetVolley false) ∧ u.get Reg.ID_LC_WIPING = 0 ∧ u.get Reg.FW_STAT_OP = 0 ∧ u.fw.wipeStep = 0 ∧
      (u.resetVolley false).pwr.st = .volley ∧ (u.resetVolley false).store = some { cause := .reset, fromVin := true, channel := 15 } := by
  obtain ⟨wiping, op, step, pwr⟩ := wipeOver_facts s
  obtain ⟨volley, -, store⟩ := resetVolley_facts s.wipeOver false
  have eq : s.wipeStepDone cores.toNat = s.wipeEnd cores.toNat := by
    unfold State.wipeStepDone
    rw [h]
    rfl
  exact ⟨s.wipeOver, (exec_lcWipeStep cores hp).trans (congrArg Host.Outcome.next (eq.trans ((wipeEnd_eq s _).trans (if_pos (by rw [pwr, hp]))))),
    wiping, op, step, volley, store⟩

theorem life_idle_clause (cores : BitVec 16) (s : State) (h1 : s.pwr.st ≠ .run) (h2 : s.pwr.st ≠ .waking) : exec (.lcWipeStep cores) s = .next s :=
  congrArg Host.Outcome.next (if_neg (fun h => h.elim h1 (fun h => h2 h.1)))

/-- Settles O34: the token's conditions, the wipe's steps by what each writes, and, for an accepted token, that no descriptor of a host
whose function resets can start the firmware again. -/
theorem lifeCycle : Obligations.LifeCycle :=
  ⟨tokenResult_one_iff, life_refused_clause, life_others_clause, life_wipe_clause, life_array_clause, life_page_clause, life_busy_clause,
    life_change_clause, life_end_clause, life_idle_clause⟩

end Sys2Proof.Machine
